-- ==== Sys2Proof/Word.lean ====
section
/-! DEFINITION. The word types of the OZ7400 and their plainest arithmetic: bytes, little-endian
fields of a byte list (R9), and keyed tables of plain data. -/

namespace Sys2Proof

/-- One byte. -/
abbrev Byte := BitVec 8
/-- A 64-bit register word. -/
abbrev Word := BitVec 64

/-- A table keyed by a number: key and value pairs, kept in rising order of the keys by `Tab.put`.
A key that is not listed reads as the default of its reader. -/
abbrev Tab (α : Type) := List (Nat × α)

/-- The value at a key, `d` where none is listed. -/
def Tab.get {α : Type} (d : α) : Tab α → Nat → α
  | [], _ => d
  | (k, v) :: t, n => if k = n then v else Tab.get d t n

/-- The value at a key, if one is listed. -/
def Tab.find {α : Type} : Tab α → Nat → Option α
  | [], _ => none
  | (k, v) :: t, n => if k = n then some v else Tab.find t n

/-- Put a value at a key. -/
def Tab.put {α : Type} : Tab α → Nat → α → Tab α
  | [], n, x => [(n, x)]
  | (k, v) :: t, n, x =>
    if n < k then (n, x) :: (k, v) :: t
    else if n = k then (k, x) :: t
    else (k, v) :: Tab.put t n x

/-- Take a key out of a table. -/
def Tab.erase {α : Type} (t : Tab α) (n : Nat) : Tab α := t.filter (fun e => e.1 != n)

/-- Change every record of a list that a test picks. -/
def updateWhere {α : Type} (p : α → Bool) (f : α → α) (l : List α) : List α :=
  l.map (fun x => if p x then f x else x)

/-- The number a little-endian byte list spells (R9). -/
def leNat : List Byte → Nat
  | [] => 0
  | b :: t => b.toNat + 256 * leNat t

/-- `n` bytes of a number, little-endian (R9). -/
def leBytes : Nat → Nat → List Byte
  | 0, _ => []
  | n + 1, v => BitVec.ofNat 8 v :: leBytes n (v / 256)

/-- `n` bytes of a byte list from offset `o`; bytes past its end read as 0. -/
def bytesAt (l : List Byte) (o n : Nat) : List Byte :=
  let t := (l.drop o).take n
  t ++ List.replicate (n - t.length) 0

/-- The little-endian field of `n` bytes at offset `o` of a payload (R9). -/
def fieldAt (l : List Byte) (o n : Nat) : Nat := leNat (bytesAt l o n)

/-- Bits `hi` down to `lo` of a number, as a number. -/
def bitsOf (v hi lo : Nat) : Nat := v / 2 ^ lo % 2 ^ (hi + 1 - lo)

/-- Division that rounds up. -/
def divUp (a b : Nat) : Nat := (a + b - 1) / b

/-- `v` rounded up to a multiple of `m`. -/
def roundUp (v m : Nat) : Nat := divUp v m * m

/-- The numbers set in a bit mask, below `n`, in rising order. -/
def maskList (n m : Nat) : List Nat := (List.range n).filter (fun i => m.testBit i)

/-- The bit mask of a list of numbers. -/
def listMask : List Nat → Nat
  | [] => 0
  | i :: t => 2 ^ i ||| listMask t

/-- Byte-wise XOR; the shorter list is taken as ending in zeros. -/
def xorBytes : List Byte → List Byte → List Byte
  | [], b => b
  | a, [] => a
  | x :: a, y :: b => (x ^^^ y) :: xorBytes a b

/-- Addition that stops at a ceiling (a saturating counter). -/
def satAdd (cap v n : Nat) : Nat := min cap (v + n)

/-- One nanosecond, microsecond, millisecond and second of device time (R8). -/
def usec : Nat := 1000
def msec : Nat := 1000000
def second : Nat := 1000000000

/-- Binary sizes (spec/00_scope.md, Numbers, sizes and units). -/
def mib : Nat := 1048576
def gib : Nat := 1073741824
def tib : Nat := 1099511627776

end Sys2Proof
end

