-- ==== Sys2Proof/Syntax.lean ====
section
/-! DEFINITION. The commands of the block: one constructor of Instr per row of spec/opcode_table.json, with the
operands that come from outside in that step, and the plain-data types those operands need.
What the device fetches from host memory, hears on a wire or measures in a step is an operand of the command of
that step (notes/assumptions/2.md). -/

namespace Sys2Proof

/-- Host port: `a` is the x16 port or port A, `b` is port B of a bifurcated device (R297). -/
inductive PortId where
  | a | b
deriving DecidableEq, Repr

/-- A mailbox: MB0 to MB3 of a host port, or the management port's one session (R394). -/
inductive Mbx where
  | host (p : PortId) (n : Fin 4)
  | mgmt
deriving DecidableEq, Repr

/-- The four Causeway ports. -/
inductive CwPort where
  | ne | nw | fe | fw
deriving DecidableEq, Repr

/-- Device rank 0 to 15. -/
abbrev Rank := Fin 16

/-- One of the four DRAM channels DA to DD. -/
abbrev DramCh := Fin 4

/-- One 4 KiB block with its 16-byte protection tag (Table 5-5). -/
structure Blk where
  data : List Byte
  tag  : BitVec 128
deriving DecidableEq, Repr

/-- The fields of a Causeway frame header that act at the destination (Table 8-3), whether the end-to-end CRC of the frame is good
(R274), and whether it came over its link good and in its place: LCRC, FEC and LINK_SEQ (R278). -/
structure Frame where
  cls      : Nat
  src      : Rank
  dst      : Rank
  pool     : Nat
  claim    : BitVec 32
  pairSeq  : Nat
  pairAck  : Nat
  session  : Nat
  replayed : Bool
  ackNow   : Bool
  hops     : Nat
  seqn     : Nat
  row      : Nat
  posFirst : Nat
  posLast  : Nat
  unit     : Nat
  arg      : Nat
  port     : CwPort
  crcOk    : Bool
  linkOk   : Bool := true
deriving DecidableEq, Repr

/-- Kinds of layout nodes (Table 11-9). -/
inductive NodeKind where
  | leaf | mirror | pq | concat
deriving DecidableEq, Repr

/-- One layout node entry, in pre-order (Table 11-9). -/
structure Node where
  kind     : NodeKind
  arg      : Nat
  childCap : Nat
deriving DecidableEq, Repr

/-- A striping node of a layout tree (R191), in depth-first order: its kind, k of PQ, the ranks of its leaves in
child order, and its capacity in blocks. -/
structure Stripe where
  kind  : NodeKind
  k     : Nat
  ranks : List Nat
  cap   : Nat
deriving DecidableEq, Repr

/-- Pool states (Table 2-2), in table order. -/
inductive PoolState where
  | creating | online | readOnly | deleting
deriving DecidableEq, Repr

/-- Member states (Table 6-3). -/
inductive MemberState where
  | current | absent | catchingUp | retired
deriving DecidableEq, Repr

/-- A reshape in progress (R216 to R219): the new layout and sherd size, the tidemark, and whether it pauses. -/
structure Reshape where
  nodes    : List Node
  stripes  : List Stripe
  sherd    : Nat
  floor    : Nat
  cap      : Nat
  rows     : Nat
  tidemark : Nat
  paused   : Bool
deriving DecidableEq, Repr

/-- The registry record of a pool (Table 2-1, R224, R225). -/
structure PoolRec where
  handle      : Nat
  uuid        : BitVec 128
  iu          : Nat
  cap         : Nat
  nodes       : List Node
  stripes     : List Stripe
  sherd       : Nat
  floor       : Nat
  tags        : Bool
  state       : PoolState
  prefSteward : Nat
  prefStandby : Option Nat
  lastSteward : Nat
  lastStandby : Option Nat
  createdAt   : Nat
  layoutGen   : Nat
  reshape     : Option Reshape
  secureDel   : Bool
  deleteJob   : Option Nat
  /-- Substitutions of R213 in the tree: the rank replaced, and the rank in its place. -/
  substs      : List (Nat × Nat)
  /-- Rebases committed so far (R230, R231), and the rank whose claim the last one set. -/
  rebases     : Nat
  rebaseRank  : Nat
deriving DecidableEq, Repr

/-- One rank of the registry membership, with the figures of the device there that the order checks need
(R34, R43, R290) and the flags of SHOAL_QUERY. -/
structure MemberRec where
  rank    : Nat
  serial  : BitVec 64
  dram    : Nat
  prov    : Nat
  spare   : Bool
  retired : Bool
  /-- It is below the 7 % of Table 4-4. -/
  low     : Bool
deriving DecidableEq, Repr

/-- An admin lease (R396 to R398): the pool handle, 0 for the shoal lease; holder rank × 4 + port; end and term. -/
structure Lease where
  handle : Nat
  holder : Nat
  ends   : Nat
  term   : Nat
deriving DecidableEq, Repr

/-- States of a secure-discard job (Table 2-6). -/
inductive JobState where
  | identifying | reparity | relocating | erasing | waitingMember | done | donePartial
deriving DecidableEq, Repr

/-- A secure-discard job (Table 2-5, Table 2-6). -/
structure SdJob where
  id          : Nat
  pool        : Nat
  lba         : Nat
  len         : Nat
  seqn        : Nat
  state       : JobState
  startedAt   : Nat
  blocksTotal : Nat
  blocksDone  : Nat
  rowsTotal   : Nat
  rowsDone    : Nat
  pendingMask : Nat
  /-- Members that have still to list their target blocks (Table 2-5 step 3). -/
  toList      : Nat
  elapsedMs   : Nat
  /-- Some copy is out of the job's reach (R64, R66). -/
  left        : Bool
deriving DecidableEq, Repr

/-- An entry of the persistent error log (Table 17-6). -/
structure ErrEntry where
  pool    : Nat
  lba     : Nat
  blocks  : Nat
  cause   : Nat
  rank    : Nat
  time    : Nat
  boot    : Nat
  widened : Bool
deriving DecidableEq, Repr

/-- An order that is applied (R395): what makes it unique, and its answer. -/
structure Applied where
  rank    : Nat
  port    : Nat
  session : BitVec 32
  token   : BitVec 32
  opcode  : Nat
  status  : Nat
  detail  : Nat
  payload : List Byte
deriving DecidableEq, Repr

/-- The content of the registry pool (R40, R41, R551): the shoal's configuration and its error log. -/
structure Registry where
  n        : Nat
  members  : List MemberRec
  pools    : List PoolRec
  leases   : List Lease
  jobs     : List SdJob
  nextJob  : Nat
  params   : Tab Nat
  applied  : List Applied
  /-- ERROR_LOG_CLEARs committed, by pool. -/
  clears   : Tab Nat
  errlog   : List ErrEntry
  /-- Every pool UUID drawn so far: none is used again (R33). -/
  uuids    : List (BitVec 128)
deriving DecidableEq, Repr

/-- An administrative order as it travels to the registry steward (R395): opcode and payload, and the rank, port,
session and TOKEN that make it unique. -/
structure Order where
  opcode  : Nat
  payload : List Byte
  rank    : Nat
  port    : Nat
  session : BitVec 32
  token   : BitVec 32
deriving DecidableEq, Repr

/-- What a CONTROL frame of the administrative kind carries: an order and the answer to it (R395); a range that enters or
leaves the error log (R552, R553); a head's word that a ticket of its own is to be dropped (R166, R309); a head's word that
its commands to a pool being deleted have ended (R38); the question whether a member maps anything of a pool at or above an
LBA, and its answer (R37); a standby's word that its part of a drill is over (R261); a member's word that its media is
worn (R142); a member's figures (R34, R43, R142), to the registry steward; and the oldest journal sequences of pools that a member's
new anchor needs (R145). -/
inductive OrderMsg where
  | order (o : Order)
  | answer (o : Order) (status detail : Nat) (payload : List Byte)
  | loss (e : ErrEntry) (gone : Bool)
  | drop (pool seqn reason : Nat)
  | drained (pool : Nat)
  | ask (o : Order) (pool lba : Nat)
  | mapped (o : Order) (found : Bool)
  | drillDone (newClaim : BitVec 32) (accepted noReply : Nat)
  | worn
  | figures (dram prov : Nat) (low : Bool)
  | anchored (needs : List (Nat × Nat))
  | room (full : Bool)
deriving DecidableEq, Repr

/-- Journal record types (Table 6-5). -/
inductive RecType where
  | intent | commit | drop | missed | resyncDone | tidemark | member
deriving DecidableEq, Repr

/-- A journal record (Table 6-4), CRC aside. -/
structure JRec where
  type      : RecType
  pool      : Nat
  seqn      : Nat
  time      : Nat
  claim     : BitVec 32
  group     : Nat
  row       : Nat
  posFirst  : Nat
  posLast   : Nat
  present   : Nat
  dataMask  : Nat
  layoutGen : Nat
  head      : Nat
  flags     : Nat
  arg       : Nat
deriving DecidableEq, Repr

/-- One pending sequence in a RESOLVE_REPLY (Table 8-5). -/
structure ResolveItem where
  seqn     : Nat
  row      : Nat
  posFirst : Nat
  posLast  : Nat
  units    : Nat
  dataMask : Nat
  flags    : Nat
  group    : Nat
deriving DecidableEq, Repr

/-- One role entry of a heartbeat (Table 8-6). -/
structure RoleEntry where
  pool    : Nat
  claim   : BitVec 32
  standby : Bool
deriving DecidableEq, Repr

/-- The link state of one Causeway port as TOPOLOGY floods it: the partner it is up to, if any. -/
abbrev LinkTo := Option Nat

/-- A codeword as the medium holds it (Table 5-2): LDPC parity, back-pointer, nonce, seal and the two ciphertexts. -/
structure Sealed where
  parity  : List Byte
  backPtr : BitVec 64
  nonce   : BitVec 96
  gcmTag  : BitVec 64
  tagCt   : BitVec 64
  dataCt  : List Byte
deriving DecidableEq, Repr

/-- What a decoder makes of one codeword of a page as it was sensed (R153 to R157): its syndrome is not zero, with the number of
checks that fail; or it is, with the bit positions in [37375:0] that the decoder changed, and the codeword it gives where that
is not the one the page was programmed with. -/
inductive CwResult where
  | failed (checks : Nat)
  | decoded (flips : List Nat) (other : Option Sealed)
deriving DecidableEq, Repr

/-- What a flash channel's training finds at one rate (R86): the read and the write window of each of the eight DQ bits after
centring, in 1/100 UI rounded down, and the duty-cycle residuals of RE and DQS, in 1/100 % of the clock period rounded up. -/
structure TrainStep where
  rate  : Nat
  read  : List Nat
  write : List Nat
  re    : Nat
  dqs   : Nat
deriving DecidableEq, Repr

/-- One line of the sweep of a DQ bit in one direction (Table 14-2 steps 5 and 6): at a Vref step of 0.5 % of VDDQD the first and the last
delay, in 1/64 UI, at which the bit reads right. -/
structure EyeLine where
  vref  : Nat
  first : Nat
  last  : Nat
deriving DecidableEq, Repr

/-- What the training of a DRAM channel measures at one rate (R470): the CA window in 1/64 UI, and the sweeps of its 80 DQ bits for reads and
for writes, four bits to a component. -/
structure DramSweep where
  rate  : Nat
  ca    : Nat
  read  : List (List EyeLine)
  write : List (List EyeLine)
deriving DecidableEq, Repr

/-- What became of a claim-lane frame the device was sending (R239): all 49 bits read back as driven, or the
frame lost at a bit position. -/
inductive LaneOutcome where
  | accepted
  | lostAt (bit : Nat)
deriving DecidableEq, Repr

/-- What a master may be kept from: a scratchpad bank (R482), or an address of Saggar's SRAM, key cache, fuses, DRBG or key-register ports
(R425). -/
inductive Guarded where
  | bank (n : Fin 32)
  | saggar (address : Nat)
deriving DecidableEq, Repr

/-- The regions of an uncorrectable DRAM read (Table 5-7). -/
inductive DramRegion where
  | mapSegment (pool seg : Nat)
  | pendingTable (pool localBlk : Nat)
  | greenHead (port : PortId) (queue : Nat) (tag : Fin 32) (block : Nat)
  | greenSherd (pool localBlk : Nat) (seqn : Nat)
  | readOffsets (row : Nat)
  | firmware
  | diagnostic
deriving DecidableEq, Repr

/-- The regions of an uncorrectable scratchpad read (Table 5-8). -/
inductive PadRegion where
  | firmware
  | stagingHead (port : PortId) (queue : Nat) (tag : Fin 32) (block : Nat)
  | stagingSherd (pool localBlk : Nat) (seqn : Nat)
  | readStaging (pool localBlk : Nat)
  | strandline (seqn : Nat)
  | journal (pool : Nat)
  | other
  | diagnostic
deriving DecidableEq, Repr

/-- The engines of R539. -/
inductive Engine where
  | decoder | glazeLane | sherd
deriving DecidableEq, Repr

/-- The regions of Bedrock (Table 13-10). -/
inductive BedRegion where
  | factory | bootrec | anchor | param | keystore | imageA | imageB
deriving DecidableEq, Repr

/-- The kinds of page a Bedrock program writes. -/
inductive BedWrite where
  | anchor | record (r : BedRegion) | staging
deriving DecidableEq, Repr

/-- The blocks Saggar holds (Table 13-9). -/
inductive HeldBlock where
  | lane (n : Fin 20) | keyCache | entropy
deriving DecidableEq, Repr

/-- The transports of SPDM (R445). -/
inductive Transport where
  | doe (p : PortId) | mctp
deriving DecidableEq, Repr

/-- One SPDM request (Table 13-8): those supported, and every other. -/
inductive SpdmReq where
  | getVersion
  | getCapabilities
  | negotiateAlgorithms
  | getDigests
  | getCertificate (slot off len : Nat)
  | challenge (slot : Nat) (nonce : BitVec 256)
  | getMeasurements (index : Nat) (sign : Bool) (nonce : BitVec 256)
  | other (code : Nat)
deriving DecidableEq, Repr

/-- The configuration fields of a port that host software sets and the rules use (R294, R302 to R323). -/
inductive CfgField where
  | maxPayload | maxReadReq | tagMode | cplTimeout | ats | aspmL1 | ltr | msixEnable | pasidEnable
  | bar (n : Fin 3)
deriving DecidableEq, Repr

/-- A PCIe configuration request (R299). -/
inductive CfgReq where
  | read (off : Nat)
  | write (f : CfgField) (v : Nat)
deriving DecidableEq, Repr

/-- How a DMA read request failed (R309). -/
inductive CplError where
  | unsupportedRequest | completerAbort | poisoned
deriving DecidableEq, Repr

/-- The straps sampled at POR (R522, Table 18-4), pin levels as read. -/
structure Straps where
  rank    : Fin 16
  bifurc  : Bool
  hsIlim  : Bool
  smbAddr : BitVec 2
  safeN   : Bool
deriving DecidableEq, Repr

/-- What the tests and checks of a start find (Table 5-12, R464, R486, R519): the self-test codes of Saggar SRAM,
key cache and Bedrock ECC; whether the ROM can read and verify image A and image B; the banks whose repair fuses
fail; the engines and encoders that fail their known-answer test; whether the crystal oscillates; and the DRAM channels whose
pattern check after Ebb has failed, with the sweeps of their training (R473). -/
structure StartFacts where
  saggarBad  : Bool
  keyBad     : Bool
  bedrockBad : Bool
  imageAOk   : Bool
  imageBOk   : Bool
  tagBad     : Bool
  badBanks   : List Nat
  badEngines : List (Engine × Nat)
  badEncoders : List Nat
  crystal    : Bool
  dramRetrain : List (DramCh × DramSweep)
deriving DecidableEq, Repr

/-- A DRAM channel's SPD data (R467, Table 14-1): density in Gbit, ranks, highest rate; none where unreadable. -/
structure Spd where
  density : Nat
  ranks   : Nat
  maxRate : Nat
deriving DecidableEq, Repr

/-- A TAP operation (R568). -/
inductive TapOp where
  | reset
  | idcode
  | bypass (bit : Bool)
  | sample
  | extest (drive : List Bool)
deriving DecidableEq, Repr

/-- A change of member state or bitmap that a steward sends as a CONTROL frame (R580), and what a reshape tells the
devices: a ticket that writes rows of the new layout, and a new tidemark (R217). -/
inductive ViewRec where
  | window (seqn : Nat)
  | tidemark (row : Nat)
  | member (rank : Nat) (st : MemberState)
  | missed (rank region : Nat)
  | resyncDone (rank region : Nat)
deriving DecidableEq, Repr

/-- What a rebase of an exhausted registry pool carries (R231). -/
inductive RebaseMsg where
  | propose (claim : BitVec 32)
  | ack (claim : BitVec 32)
deriving DecidableEq, Repr

/-- What Kiln hears from one target in a reset wave (R81, R82, Table 3-4 step 2): channel, die, whether it is ready, and the
profile that its READ ID bytes and a parameter page of good CRC match. -/
structure DieAnswer where
  chan    : Nat
  die     : Nat
  ready   : Bool
  profile : Option Nat
deriving DecidableEq, Repr

/-- The wake events of R502 for Slack and Neap. -/
inductive WakeEvent where
  | doorbell | mailboxGo | mctp | frame | timer | mediaWork | hostLink | transit
deriving DecidableEq, Repr

/-- The wake events of R506 for Ebb. -/
inductive EbbWake where
  | perst | wakeByte | coreRst
deriving DecidableEq, Repr

/-- The media reports of one member for a secure-discard job (Table 2-5). -/
structure SdReport where
  blocks : Nat
  done   : Nat
  left   : Bool
  final  : Bool
deriving DecidableEq, Repr

/-- The commands of the block, one per row of spec/opcode_table.json, in the table's order. -/
inductive Instr where
  /-- READ (R355). Host READ command returns the newest committed data of each block, with tags when the pool has them ON, and completes after the data is in host memory. -/
  | read (port : PortId) (queue : Nat) (tag : Fin 32) (desc : BitVec 512) (dataSegs metaSegs : List (List (BitVec 128)))
  /-- WRITE (R15). Host WRITE command stores blocks under stripe tickets and completes once every ticket has committed. -/
  | write (port : PortId) (queue : Nat) (tag : Fin 32) (desc : BitVec 512) (dataSegs metaSegs : List (List (BitVec 128)))
  /-- WRITE_ATOMIC (R49). Host WRITE_ATOMIC command writes up to 512 blocks whose IUs all become current together at the group's commit. -/
  | writeAtomic (port : PortId) (queue : Nat) (tag : Fin 32) (desc : BitVec 512) (dataSegs metaSegs : List (List (BitVec 128)))
  /-- DISCARD (R58). Host DISCARD command unmaps whole IUs and zeroes partial IUs under a stripe ticket. -/
  | discard (port : PortId) (queue : Nat) (tag : Fin 32) (desc : BitVec 512) (dataSegs metaSegs : List (List (BitVec 128)))
  /-- SECURE_DISCARD (R60). Host SECURE_DISCARD command discards a range and returns a job ID for the destruction of every copy. -/
  | secureDiscard (port : PortId) (queue : Nat) (tag : Fin 32) (desc : BitVec 512) (dataSegs metaSegs : List (List (BitVec 128)))
  /-- VERIFY (R356). Host VERIFY command reads and checks every block of a range, and the parity as well when VERIFY_PARITY is set, repairing what it can. -/
  | verify (port : PortId) (queue : Nat) (tag : Fin 32) (desc : BitVec 512) (dataSegs metaSegs : List (List (BitVec 128)))
  /-- CODEC (R368). Host CODEC command runs a GF(2^8) MULTIPLY or SOLVE over host buffers on the Sherd engines. -/
  | codec (port : PortId) (queue : Nat) (tag : Fin 32) (desc : BitVec 512) (table : List (BitVec 128)) (segs : List (List (List (BitVec 128)))) (matrix : List Byte) (inputs outputs : List (List Byte))
  /-- GLAZE (R372). Host GLAZE command runs an AES-256 GCM, XTS or CBC operation over host buffers with a service key slot. -/
  | glaze (port : PortId) (queue : Nat) (tag : Fin 32) (desc : BitVec 512) (dataSegs metaSegs : List (List (BitVec 128))) (source aux : List Byte)
  /-- SUBMIT (R338). A write of a tag to a queue's SUBMIT doorbell records the doorbell in arrival order, or is ignored and counted when it is invalid. -/
  | submit (port : PortId) (queue : Nat) (value : BitVec 32) (entry : Option (BitVec 512))
  /-- ABORT (R341). A write of a tag to a queue's ABORT doorbell aborts that command if it has not yet passed its point of no return. -/
  | abort (port : PortId) (queue : Nat) (value : BitVec 32)
  /-- CQ_HEAD (R344). A write to CQ_HEAD releases consumed completion ring entries so that waiting records can be posted, or is ignored when it is invalid. -/
  | cqHead (port : PortId) (queue : Nat) (value : BitVec 32)
  /-- RESUME_FETCH (R361). A RESUME write with FLUSH 0 to a frozen queue sets the queue RUNNING and fetches the doorbells recorded while it was frozen. -/
  | resumeFetch (port : PortId) (queue : Nat)
  /-- RESUME_FLUSH (R361). A RESUME write with FLUSH 1 to a frozen queue completes every recorded tag with QUEUE_FROZEN and then resumes fetching. -/
  | resumeFlush (port : PortId) (queue : Nat)
  /-- QUEUE_ENGINE_ENABLE (R302). Writing DEV_CTRL.ENABLE from 0 to 1 with a valid queue table sets ENABLED and starts queue fetch. -/
  | queueEngineEnable (port : PortId)
  /-- QUEUE_ENGINE_DISABLE (R302). Writing DEV_CTRL.ENABLE from 1 to 0 stops new fetches, completes the fetched commands and then clears ENABLED. -/
  | queueEngineDisable (port : PortId)
  /-- DEV_VEC_EN_WRITE (R304). Writing DEV_CTRL.DEV_VEC_EN enables the device vector and signals it when an unmasked cause bit is already set. -/
  | devVecEnWrite (port : PortId) (v : Bool)
  /-- EVT_CAUSE_CLEAR (R304). A W1C write to EVT_CAUSE clears the cause bits written as 1. -/
  | evtCauseClear (port : PortId) (v : Word)
  /-- EVT_MASK_WRITE (R304). A write to EVT_MASK masks or unmasks causes, and signals the device vector when an unmasked cause bit is set. -/
  | evtMaskWrite (port : PortId) (v : Word)
  /-- VQ_TSYNC_QUEUE (R334). A write of VQ_TSYNC.QUEUE fetches that queue's table entry again and applies the changes it finds. -/
  | vqTsyncQueue (port : PortId) (queue : Nat) (entry : Option (BitVec 512))
  /-- VQ_TSYNC_ALL (R332). A write of VQ_TSYNC.ALL fetches every queue table entry again. -/
  | vqTsyncAll (port : PortId) (entries : List (Option (BitVec 512)))
  /-- TIME_NOW_LOW_READ (R305). A 4-byte read of the low half of TIME_NOW returns it and latches the high half for the next read. -/
  | timeNowLowRead (port : PortId)
  /-- REGISTER_WRITE (R303). A write to a register with no behaviour of its own, such as VQ_TBASE or VQ_TCOUNT, sets the field or is ignored as the rules state. -/
  | registerWrite (port : PortId) (offset : Nat) (bytes : List Byte)
  /-- MAILBOX_GO (R381). Writing CTRL.GO copies the mailbox request, sets BUSY and starts the command after the checks of R386. -/
  | mailboxGo (port : PortId) (n : Fin 4) (v : Word)
  /-- MAILBOX_DONE_CLEAR (R382). Writing 1 to CTRL.DONE releases the response window so that the next command may start. -/
  | mailboxDoneClear (port : PortId) (n : Fin 4) (v : Word)
  /-- IDENTIFY (R2). Mailbox IDENTIFY returns the device identity and the interface versions. -/
  | identify (m : Mbx)
  /-- DEVICE_STATUS (R580). Mailbox DEVICE_STATUS returns DEV_STATUS and the state of this device in each pool. -/
  | deviceStatus (m : Mbx)
  /-- SESSION_RESET (R399). Mailbox SESSION_RESET ends the mailbox session and starts a new one. -/
  | sessionReset (m : Mbx)
  /-- TIME_PIN (R521). Mailbox TIME_PIN pins wall-clock time to device time until the next POR. -/
  | timePin (m : Mbx)
  /-- TIME_QUERY (R521). Mailbox TIME_QUERY returns the wall-clock pin and its uncertainty. -/
  | timeQuery (m : Mbx)
  /-- POOL_CREATE (R36). Mailbox POOL_CREATE checks and creates a pool in the registry pool. -/
  | poolCreate (m : Mbx)
  /-- POOL_DELETE (R38). Mailbox POOL_DELETE starts the deletion of a pool, after a secure discard of the whole pool when SECURE is set. -/
  | poolDelete (m : Mbx)
  /-- POOL_RESIZE (R37). Mailbox POOL_RESIZE grows or shrinks a pool's capacity. -/
  | poolResize (m : Mbx)
  /-- POOL_QUERY (R41). Mailbox POOL_QUERY returns a pool's attributes and state. -/
  | poolQuery (m : Mbx)
  /-- POOL_LIST (R41). Mailbox POOL_LIST returns a bitmap of the existing pools. -/
  | poolList (m : Mbx)
  /-- RESHAPE_START (R389). Mailbox RESHAPE_START begins moving a pool to a new layout tree under the tidemark. -/
  | reshapeStart (m : Mbx)
  /-- RESHAPE_STATUS (R219). Mailbox RESHAPE_STATUS returns a reshape's tidemark and state. -/
  | reshapeStatus (m : Mbx)
  /-- SECURE_DISCARD_STATUS (R67). Mailbox SECURE_DISCARD_STATUS returns the status record of a secure-discard job. -/
  | secureDiscardStatus (m : Mbx)
  /-- WRITE_FLOOR_SET (R31). Mailbox WRITE_FLOOR_SET changes the write floor of a pool's PQ nodes. -/
  | writeFloorSet (m : Mbx)
  /-- LEASE_ACQUIRE (R397). Mailbox LEASE_ACQUIRE grants or renews a pool or shoal admin lease, or refuses it. -/
  | leaseAcquire (m : Mbx)
  /-- LEASE_RELEASE (R398). Mailbox LEASE_RELEASE ends a lease held by the requesting port. -/
  | leaseRelease (m : Mbx)
  /-- LEASE_QUERY (R396). Mailbox LEASE_QUERY returns a lease's holder and remaining term. -/
  | leaseQuery (m : Mbx)
  /-- QUEUE_QUERY (R578). Mailbox QUEUE_QUERY returns a queue's live state. -/
  | queueQuery (m : Mbx)
  /-- QUEUE_STATS (R578). Mailbox QUEUE_STATS returns a queue's counters. -/
  | queueStats (m : Mbx)
  /-- PARAM_PAGE_GET (R390). Mailbox PARAM_PAGE_GET returns every parameter of one subsystem. -/
  | paramPageGet (m : Mbx)
  /-- PARAM_SET (R391). Mailbox PARAM_SET checks every entry and then sets the parameter values, or changes none of them. -/
  | paramSet (m : Mbx)
  /-- PARAM_DEFAULT (R391). Mailbox PARAM_DEFAULT returns the named parameters to their defaults. -/
  | paramDefault (m : Mbx)
  /-- STRANDLINE_READ (R549). Mailbox STRANDLINE_READ returns Strandline records from a sequence at or above a severity. -/
  | strandlineRead (m : Mbx)
  /-- ERROR_LOG_READ (R551). Mailbox ERROR_LOG_READ returns persistent error log entries by index. -/
  | errorLogRead (m : Mbx)
  /-- ERROR_LOG_CLEAR (R553). Mailbox ERROR_LOG_CLEAR removes every error log entry of a pool. -/
  | errorLogClear (m : Mbx)
  /-- COUNTERS_READ (R555). Mailbox COUNTERS_READ returns the counters of one subsystem. -/
  | countersRead (m : Mbx)
  /-- FW_STAGE_BEGIN (R459). Mailbox FW_STAGE BEGIN discards the inactive slot, sets it STAGING and starts erasing it. -/
  | fwStageBegin (m : Mbx)
  /-- FW_STAGE_DATA (R459). Mailbox FW_STAGE DATA accepts image bytes at the next offset and programs them behind the erase. -/
  | fwStageData (m : Mbx)
  /-- FW_COMMIT (R460). Mailbox FW_COMMIT reads the staged image back, checks it and sets the slot STAGED. -/
  | fwCommit (m : Mbx) (badBlock : Bool)
  /-- FW_ACTIVATE (R461). Mailbox FW_ACTIVATE writes a trial boot record for a staged image and restarts now or at the next core start. -/
  | fwActivate (m : Mbx)
  /-- FW_STATUS (R463). Mailbox FW_STATUS returns the slot and staging state. -/
  | fwStatus (m : Mbx)
  /-- ATTEST_QUOTE (R446). Mailbox ATTEST_GET QUOTE returns the measurements signed with the alias key over the verifier's nonce. -/
  | attestQuote (m : Mbx)
  /-- ATTEST_CERT (R445). Mailbox ATTEST_GET CERT returns part of a certificate of the chain. -/
  | attestCert (m : Mbx)
  /-- KEY_SLOT_LOAD (R440). Mailbox KEY_SLOT_LOAD generates, imports or unwraps a service key into a slot. -/
  | keySlotLoad (m : Mbx)
  /-- KEY_SLOT_CLEAR (R441). Mailbox KEY_SLOT_CLEAR zeroises a key slot everywhere after the earlier commands that name it have completed. -/
  | keySlotClear (m : Mbx)
  /-- SANITIZE_CRYPTO (R442). Mailbox SANITIZE_CRYPTO destroys a rank's at-rest key, generates a new one and erases the media in the background. -/
  | sanitizeCrypto (m : Mbx)
  /-- SHOAL_QUERY (R578). Mailbox SHOAL_QUERY returns the ring size, the membership and each rank's state. -/
  | shoalQuery (m : Mbx)
  /-- SEAWALL_QUERY (R247). Mailbox SEAWALL_QUERY returns Seawall entries for a range of handles. -/
  | seawallQuery (m : Mbx)
  /-- MEMBER_ADD (R291). Mailbox MEMBER_ADD adds a rank and serial number to the registry membership. -/
  | memberAdd (m : Mbx)
  /-- MEMBER_RETIRE (R203). Mailbox MEMBER_RETIRE sets a rank RETIRED. -/
  | memberRetire (m : Mbx)
  /-- MEMBER_SPARE_SET (R213). Mailbox MEMBER_SPARE_SET names a device as a hot spare or removes it as one. -/
  | memberSpareSet (m : Mbx)
  /-- MEMBER_REPLACE (R213). Mailbox MEMBER_REPLACE substitutes a spare for a failed rank and starts its rebuild. -/
  | memberReplace (m : Mbx)
  /-- STEWARD_MOVE (R258). Mailbox STEWARD_MOVE hands a pool's steward role to a target rank. -/
  | stewardMove (m : Mbx)
  /-- STEWARD_PREFER (R224). Mailbox STEWARD_PREFER changes a pool's preferred steward and standby. -/
  | stewardPrefer (m : Mbx)
  /-- STEWARD_DRILL (R261). Mailbox STEWARD_DRILL runs the standby's takeover path under the drill handle. -/
  | stewardDrill (m : Mbx)
  /-- EPOCH_REBASE (R230). Mailbox EPOCH_REBASE resets a pool's claim epoch to 1 through a registry record. -/
  | epochRebase (m : Mbx)
  /-- POWER_QUERY (R578). Mailbox POWER_QUERY returns the power state, the device power and Tj. -/
  | powerQuery (m : Mbx)
  /-- EBB_ENTER (R504). Mailbox EBB_ENTER hands over roles, drains the device and enters Ebb. -/
  | ebbEnter (m : Mbx)
  /-- HOLDUP_QUERY (R577). Mailbox HOLDUP_QUERY returns the hold-up capacitance, energy and greenware limit. -/
  | holdupQuery (m : Mbx)
  /-- SAG_TEST (R498). Mailbox SAG_TEST measures the hold-up capacitance with the gate off. -/
  | sagTest (m : Mbx)
  /-- DIAG_AUTH_ACQUIRE (R399). Mailbox DIAG_AUTH_ACQUIRE grants diagnostic authority to the session when no session holds it. -/
  | diagAuthAcquire (m : Mbx)
  /-- DIAG_AUTH_RELEASE (R399). Mailbox DIAG_AUTH_RELEASE ends diagnostic authority. -/
  | diagAuthRelease (m : Mbx)
  /-- SELFTEST_RESULT (R188). Mailbox SELFTEST_RESULT returns the codes of the start-up self-test. -/
  | selftestResult (m : Mbx)
  /-- MEDIA_RETURN (R113). Mailbox MEDIA_RETURN returns a fenced die or channel to service once it holds no valid data. -/
  | mediaReturn (m : Mbx) (passed : Nat) (steps : List TrainStep)
  /-- INJECT_CHECKBITS (R180). Mailbox INJECT_CHECKBITS arms an error injection on a diagnostic target. -/
  | injectCheckbits (m : Mbx)
  /-- INJECT_STATUS (R187). Mailbox INJECT_STATUS returns the record of an injection arm. -/
  | injectStatus (m : Mbx)
  /-- DIAG_READ (R185). DIAG_ACCESS READ reads a diagnostic region and reports the code's result. -/
  | diagRead (m : Mbx) (results : List CwResult)
  /-- DIAG_WRITE (R185). DIAG_ACCESS WRITE writes a diagnostic region, corrupting it when an armed injection applies. -/
  | diagWrite (m : Mbx)
  /-- DIAG_ERASE (R184). DIAG_ACCESS ERASE erases the LDPC diagnostic row. -/
  | diagErase (m : Mbx)
  /-- LINK_TEST_START (R186). DIAG_ACCESS LINK_TEST_START starts sending link-test frames on a port. -/
  | linkTestStart (m : Mbx)
  /-- LINK_TEST_STOP (R186). DIAG_ACCESS LINK_TEST_STOP stops link-test frames and returns the counts. -/
  | linkTestStop (m : Mbx)
  /-- LOOP_QUERY (R401). Mailbox LOOP_QUERY returns a loop slot record. -/
  | loopQuery (m : Mbx)
  /-- LOOP_OPEN (R407). Mailbox LOOP_OPEN opens a loop slot and holds its output at its last value or a manual value. -/
  | loopOpen (m : Mbx)
  /-- LOOP_COEFF (R408). Mailbox LOOP_COEFF replaces an open slot's coefficients and limits. -/
  | loopCoeff (m : Mbx)
  /-- LOOP_CLOSE (R409). Mailbox LOOP_CLOSE closes an open slot without a step in its output. -/
  | loopClose (m : Mbx)
  /-- TRACE_ARM (R414). Mailbox TRACE_ARM arms a trace buffer on a slot with a trigger. -/
  | traceArm (m : Mbx)
  /-- TRACE_READ (R414). Mailbox TRACE_READ returns samples from a trace buffer. -/
  | traceRead (m : Mbx)
  /-- BOOT_STATUS_READ (R530). SMBus Block Read with command code 0xB0 returns the 32-byte boot-status block. -/
  | bootStatusRead
  /-- BOOT_STATUS_WAKE_WRITE (R530). SMBus Write Byte with command code 0xB1 writes WAKE, and 0xA5 in Ebb is a wake event. -/
  | bootStatusWakeWrite (v : Byte)
  /-- MCTP_VENDOR_MESSAGE (R394). An MCTP vendor-defined message on the management port carries one mailbox request, or is answered BUSY while another runs. -/
  | mctpVendorMessage (vendor : BitVec 16) (message : List Byte)
  /-- SET_ENDPOINT_ID (R394). MCTP control Set Endpoint ID sets the management port's endpoint ID. -/
  | setEndpointId (eid : Byte)
  /-- GET_ENDPOINT_ID (R394). MCTP control Get Endpoint ID returns the endpoint ID. -/
  | getEndpointId
  /-- GET_ENDPOINT_UUID (R394). MCTP control Get Endpoint UUID returns the endpoint UUID. -/
  | getEndpointUuid
  /-- GET_MCTP_VERSION_SUPPORT (R394). MCTP control Get MCTP Version Support returns the supported versions. -/
  | getMctpVersionSupport (mtype : Byte)
  /-- GET_MESSAGE_TYPE_SUPPORT (R394). MCTP control Get Message Type Support returns the message types served. -/
  | getMessageTypeSupport
  /-- GET_VENDOR_DEFINED_MESSAGE_SUPPORT (R394). MCTP control Get Vendor Defined Message Support returns the vendor message support. -/
  | getVendorDefinedMessageSupport (sel : Byte)
  /-- GET_VERSION (R445). SPDM GET_VERSION returns the supported SPDM versions. -/
  | getVersion (t : Transport)
  /-- GET_CAPABILITIES (R445). SPDM GET_CAPABILITIES returns the responder capabilities. -/
  | getCapabilities (t : Transport) (version : Nat)
  /-- NEGOTIATE_ALGORITHMS (R445). SPDM NEGOTIATE_ALGORITHMS selects ECDSA P-384 and SHA-384. -/
  | negotiateAlgorithms (t : Transport) (version : Nat) (ecdsaP384 sha384 : Bool)
  /-- GET_DIGESTS (R445). SPDM GET_DIGESTS returns the certificate chain digest of slot 0. -/
  | getDigests (t : Transport) (version : Nat)
  /-- GET_CERTIFICATE (R445). SPDM GET_CERTIFICATE returns the certificate chain of slot 0. -/
  | getCertificate (t : Transport) (version slot offset length : Nat)
  /-- CHALLENGE (R445). SPDM CHALLENGE returns a signed challenge response. -/
  | challenge (t : Transport) (version slot : Nat) (nonce : BitVec 256)
  /-- GET_MEASUREMENTS (R445). SPDM GET_MEASUREMENTS returns the measurement registers as signed digests. -/
  | getMeasurements (t : Transport) (version index : Nat) (sign : Bool) (nonce : BitVec 256)
  /-- DOE_REQUEST (R526). A DOE request on a host port is answered Busy until measured start step 3 ends, and is then served as SPDM. -/
  | doeRequest (port : PortId) (version : Nat) (req : SpdmReq)
  /-- CONFIG_REQUEST (R299). A PCIe configuration request is answered from DL_Up with the identity and capabilities of the port. -/
  | configRequest (port : PortId) (req : CfgReq)
  /-- PERST_N_ASSERT (R325). Assertion of PERST_N resets both host ports and settles each command in flight, and also wakes the device from Ebb. -/
  | perstNAssert
  /-- PERST_N_RELEASE (R296). Release of PERST_N lets the host link train to the best rate and width. -/
  | perstNRelease
  /-- HOST_LINK_TRAINED (R299). The host link reaches DL_Up, and configuration space and the BARs answer. -/
  | hostLinkTrained (port : PortId) (rate width : Nat)
  /-- HOT_RESET (R325). A hot reset resets one port's link, configuration and queue state and settles each command in flight. -/
  | hotReset (port : PortId)
  /-- FLR (R325). A Function Level Reset resets the function's queue state and settles each command in flight. -/
  | flr (port : PortId)
  /-- HOST_LINK_DOWN (R330). Loss of the host link without PERST_N is handled as a hot reset and logged. -/
  | hostLinkDown (port : PortId)
  /-- HOST_LINK_L1_ENTRY (R322). The host link enters L1 when ASPM allows and no command is outstanding. -/
  | hostLinkL1Entry (port : PortId)
  /-- HOST_LINK_L1_EXIT (R502). The host link leaving L1 wakes the device from Neap. -/
  | hostLinkL1Exit (port : PortId)
  /-- BUS_MASTER_ENABLE_CLEAR (R328). Clearing Bus Master Enable stalls every DMA and MSI-X message and sets BME_STALL. -/
  | busMasterEnableClear (port : PortId)
  /-- BUS_MASTER_ENABLE_SET (R329). Setting Bus Master Enable resumes the stalled commands and sends pending MSI-X messages. -/
  | busMasterEnableSet (port : PortId)
  /-- D3HOT_ENTRY (R323). Entry to D3hot stops descriptor fetch and MSI-X, and completion records wait. -/
  | d3hotEntry (port : PortId)
  /-- D0_RETURN (R323). Return to D0 resumes fetch and posts the completion records that waited. -/
  | d0Return (port : PortId)
  /-- HOST_READ_COMPLETION (R308). A completion for a DMA read request is accepted and its data is reassembled in scratchpad staging. -/
  | hostReadCompletion (port : PortId) (req : Nat) (data : List Byte)
  /-- HOST_COMPLETION_ERROR (R309). A completion with UR, CA or poisoned data fails the command with HOST_ACCESS_ERROR and drops its tickets. -/
  | hostCompletionError (port : PortId) (req : Nat) (kind : CplError)
  /-- HOST_COMPLETION_TIMEOUT (R310). A DMA read request whose completion timeout expires fails its command with HOST_ACCESS_ERROR. -/
  | hostCompletionTimeout (port : PortId) (req : Nat)
  /-- TRANSLATION_COMPLETION (R317). A Translation Completion fills the ATS cache, or starts a page request when the page is not accessible. -/
  | translationCompletion (port : PortId) (pasid : Option Nat) (page : Nat) (readable writable : Bool) (target : Nat)
  /-- PAGE_REQUEST_SUCCESS (R317). A Success page response makes the engine translate the page again and resume the held transfer at its exact offset. -/
  | pageRequestSuccess (port : PortId) (req : Nat)
  /-- PAGE_REQUEST_INVALID (R319). An Invalid Request page response fails the faulting command with HOST_ACCESS_ERROR. -/
  | pageRequestInvalid (port : PortId) (req : Nat)
  /-- PAGE_REQUEST_RESPONSE_FAILURE (R319). A Response Failure sets PRI_FAILED and fails every command held on a page request. -/
  | pageRequestResponseFailure (port : PortId) (req : Nat)
  /-- PAGE_REQUEST_TIMEOUT (R318). A page request unanswered for HP_PRI_TIMEOUT fails its command with HOST_ACCESS_ERROR. -/
  | pageRequestTimeout (port : PortId) (req : Nat)
  /-- PRI_CAPABILITY_RESET (R319). Host software resetting the Page Request capability clears PRI_FAILED so that faults may raise page requests again. -/
  | priCapabilityReset (port : PortId)
  /-- INVALIDATION_REQUEST (R315). An ATS Invalidation Request removes translations and is acknowledged once the affected requests have drained. -/
  | invalidationRequest (port : PortId) (pasid : Option Nat) (firstPage pages : Nat)
  /-- PASID_ENABLE_CLEAR (R335). Clearing PASID Enable breaks every enabled queue that uses a PASID. -/
  | pasidEnableClear (port : PortId)
  /-- COALESCE_TIMER (R345). Expiry of COAL_TIME for the oldest unsignalled record signals the queue's MSI-X vector. -/
  | coalesceTimer (port : PortId) (queue : Nat)
  /-- WRITE_ADMISSION (R418). A pool's token bucket comes to hold a waiting command's cost, so the head admits the command and fetches the rest of its descriptor. -/
  | writeAdmission (pool : Nat)
  /-- PENDING_TABLE_ROOM (R52). Pending-mapping entries free up, so the delayed write-class descriptors are fetched. -/
  | pendingTableRoom
  /-- HELLO (R270). A HELLO frame from a link partner gives its rank and session, from which the device derives N and checks the wiring. -/
  | hello (port : CwPort) (rank : Rank) (serial : Word) (boot : Word) (session : BitVec 32) (n : Nat)
  /-- TOPOLOGY (R284). A flooded TOPOLOGY frame updates the link states, and the router recomputes its routes. -/
  | topology (port : CwPort) (rank : Rank) (version : Nat) (links : List LinkTo)
  /-- TRANSIT_FRAME (R285). A frame addressed to another device is forwarded cut-through on its route, or dropped when HOPS reaches 15. -/
  | transitFrame (f : Frame)
  /-- HEARTBEAT (R277). A HEARTBEAT frame is received and its role entries are checked against the Seawall. -/
  | heartbeat (f : Frame) (boot : Word) (session : BitVec 32) (flags : Byte) (roles : List RoleEntry)
  /-- CLAIM (R243). A CLAIM announcement raises the Seawall entry and is acknowledged, or draws FENCED. -/
  | claim (f : Frame)
  /-- FENCED (R249). A FENCED frame raises the Seawall entry and fences the steward or redirects the head. -/
  | fenced (f : Frame)
  /-- RELINQUISH (R245). A RELINQUISH frame makes the pool's steward silent, so the standby contends. -/
  | relinquish (f : Frame)
  /-- HANDOVER (R259). A HANDOVER frame makes the target publish its claim and take the steward role. -/
  | handover (f : Frame)
  /-- RING_EXIT (R286). A RING_EXIT frame marks a device out of the ring, and its members are declared ABSENT. -/
  | ringExit (f : Frame)
  /-- LINK_CTL_NAK (R278). A LINK_CTL NAK makes the sender re-send from the first frame the receiver lacks. -/
  | linkCtlNak (port : CwPort) (seqn : Nat)
  /-- LINK_CTL_ACK (R278). A LINK_CTL acknowledgement frees frames from the link replay buffer. -/
  | linkCtlAck (port : CwPort) (seqn : Nat)
  /-- LINK_CTL_WIDTH (R267). A LINK_CTL width request changes the link between 8 and 2 lanes without taking it down. -/
  | linkCtlWidth (port : CwPort) (lanes : Nat)
  /-- TICKET_REQUEST (R200). The steward receives a ticket request, assigns a sequence and writes an INTENT record. -/
  | ticketRequest (f : Frame) (dataMask flags group groupSize cover : Nat)
  /-- TICKET_GRANT (R200). A head receives a ticket grant and goes on to fetch, compute parity and send the sherds. -/
  | ticketGrant (f : Frame)
  /-- COMMIT_NOTICE (R53). A COMMIT notice makes the ticket's pending mappings current and completes the head's commands. -/
  | commitNotice (f : Frame) (registry : Option Registry)
  /-- DROP_NOTICE (R202). A DROP notice discards the ticket's pending mappings, and the head re-tickets the blocks or fails the command. -/
  | dropNotice (f : Frame)
  /-- MIRROR_GROUP (R205). The standby applies a journal group to its mirror and acknowledges it. -/
  | mirrorGroup (f : Frame) (records : List JRec)
  /-- MIRROR_ACK (R205). The steward receives the standby's acknowledgement, making the group durable and releasing grants and notices. -/
  | mirrorAck (f : Frame)
  /-- RESOLVE (R209). A member receives RESOLVE and replies with its pending sequences and the COMMIT notices it holds. -/
  | resolve (f : Frame)
  /-- RESOLVE_REPLY (R254). A new steward receives a member's reply and commits or drops the open tickets. -/
  | resolveReply (f : Frame) (items : List ResolveItem) (commits : List Nat)
  /-- SHERD_DONE (R202). The steward receives SHERD_DONE and writes COMMIT once the floor holds and every present writer has reported. -/
  | sherdDone (f : Frame)
  /-- JOIN_REQUEST (R290). The registry steward checks a JOIN against the membership and forwards it to each pool steward. -/
  | joinRequest (f : Frame) (serial : Word) (boot : Word) (anchorSeq : Nat)
  /-- JOIN_ADMIT (R252). A JOIN_ADMIT raises the Seawall entry and lets the device take part in the pool. -/
  | joinAdmit (f : Frame) (states : List (Nat × MemberState)) (missed : List (Nat × Nat)) (commits : List Nat)
      (admitted : Option Registry)
  /-- READ_REQUEST (R579). A holder receives a READ_REQUEST and returns READ_DATA or READ_FAIL. -/
  | readRequest (f : Frame) (blocks : List Nat)
  /-- READ_DATA (R579). A head receives READ_DATA for an outstanding request and checks the tag. -/
  | readData (f : Frame) (blk : Blk)
  /-- READ_FAIL (R579). A head receives READ_FAIL and serves the block by rebuild. -/
  | readFail (f : Frame)
  /-- SHERD_DATA (R200). A member receives a sherd frame, checks the claim and C3, and stages the block as greenware. -/
  | sherdData (f : Frame) (blk : Blk)
  /-- SHERD_REFUSED (R167). A head receives SHERD_REFUSED and re-sends the sherd, up to two more times. -/
  | sherdRefused (f : Frame)
  /-- E2E_ACK (R281). An end-to-end acknowledgement frees acknowledged frames and their staging. -/
  | e2eAck (f : Frame)
  /-- E2E_NAK (R281). An end-to-end NAK makes the source re-send the named frames marked REPLAYED. -/
  | e2eNak (f : Frame)
  /-- LINK_TEST (R186). The partner receives a LINK_TEST frame and counts its FEC corrections and replays. -/
  | linkTest (port : CwPort) (symbols uncorrectable replays : Nat)
  /-- CLAIM_ACKNOWLEDGEMENT (R243). A CONTROL claim acknowledgement counts toward the quorum that accepts a claim on an unusable lane. -/
  | claimAcknowledgement (f : Frame)
  /-- MEMBER_STATE_RECORD (R580). A CONTROL frame carrying a MEMBER, MISSED or RESYNC_DONE record updates the device's copy of the steward's view. -/
  | memberStateRecord (f : Frame) (r : ViewRec)
  /-- ADMISSION_DEMAND (R419). A pool steward receives a head's demand report and sends each member its request. -/
  | admissionDemand (f : Frame) (demand : Nat)
  /-- ADMISSION_REQUEST (R419). A member receives admission requests and divides its intake by max-min fairness into grants. -/
  | admissionRequest (f : Frame) (request : Nat)
  /-- ADMISSION_GRANT (R419). A pool steward receives member grants, sets the pool rate and divides it among the heads. -/
  | admissionGrant (f : Frame) (grant : Nat)
  /-- ADMISSION_RATE (R418). A head receives its rate for a pool and applies it to the pool's bucket. -/
  | admissionRate (f : Frame) (rate : Nat)
  /-- FORWARDED_ORDER (R395). The registry steward receives a forwarded administrative order, checks its lease and applies or forwards it. -/
  | forwardedOrder (f : Frame) (msg : OrderMsg)
  /-- ANCHOR_REQUEST (R146). A member receives a steward's anchor request and programs its next anchor at once. -/
  | anchorRequest (f : Frame)
  /-- SECURE_DISCARD_MEMBER_DONE (R63). The steward receives a member's report that its part of a secure-discard job is done. -/
  | secureDiscardMemberDone (f : Frame) (job : Nat) (report : SdReport)
  /-- REBASE_CONTROL (R231). A CONTROL rebase of an exhausted registry pool resets its Seawall entry once every member acknowledges it. -/
  | rebaseControl (f : Frame) (msg : RebaseMsg)
  /-- CLAIM_LANE_FRAME (R240). A claim-lane frame with a good CRC raises the Seawall entry for its pool. -/
  | claimLaneFrame (bits : BitVec 49)
  /-- LANE_CHECK_FRAME (R241). A lane-check frame from a rank marks the lane usable and moves the rotation. -/
  | laneCheckFrame (bits : BitVec 49)
  /-- CLAIM_LANE_SEND (R239). After 8 µs of idle, the device sends its next claim-lane frame, and it stops when it loses arbitration. -/
  | claimLaneSend (outcome : LaneOutcome)
  /-- LANE_CHECK_TURN (R241). Each second the lane-check turn passes to the next present rank, which sends its lane-check frame when it is due. -/
  | laneCheckTurn
  /-- LANE_LOW_TIMEOUT (R241). The lane low for more than 64 µs makes it unusable and logs LANE_STUCK. -/
  | laneLowTimeout
  /-- LANE_CHECK_TIMEOUT (R241). No lane-check frame for 3 s makes the lane unusable. -/
  | laneCheckTimeout
  /-- HEARTBEAT_TIMER (R232). Every 250 µs the device sends a heartbeat to every other device. -/
  | heartbeatTimer
  /-- RANK_SILENCE (R233). No heartbeat from a rank for 2 ms makes it silent, and stewards declare it ABSENT. -/
  | rankSilence (rank : Rank)
  /-- STEWARD_POOL_OMITTED (R233). A steward's heartbeats omitting a pool for 2 ms make that pool's steward silent. -/
  | stewardPoolOmitted (pool : Nat)
  /-- CONTEST (R242). Once every condition holds, the device forms a higher claim and contends for a silent steward's pool. -/
  | contest (pool : Nat)
  /-- STANDBY_SILENCE (R227). A standby silent for 4 ms is treated as lost by a steward whose claim still stands. -/
  | standbySilence (pool : Nat)
  /-- STANDBY_APPOINT (R226). A steward without a standby appoints the next present settled device and sends it the journal. -/
  | standbyAppoint (pool : Nat)
  /-- SETTLE_WINDOW_END (R242). 500 ms after READY the settle window ends and contests are allowed. -/
  | settleWindowEnd
  /-- PREFERRED_STEWARD_RETURN (R257). In a small shoal, after the preferred steward has been healthy for 60 s, the steward hands the pool back to it. -/
  | preferredStewardReturn (pool : Nat)
  /-- HANDOVER_RESOLVE_TIMEOUT (R259). Open tickets unresolved 50 ms into a handover abort it with HANDOVER_TIMEOUT. -/
  | handoverResolveTimeout (pool : Nat)
  /-- HANDOVER_CLAIM_TIMEOUT (R259). The target's claim unheard 20 ms after HANDOVER makes the steward resume under its own claim. -/
  | handoverClaimTimeout (pool : Nat)
  /-- EBB_HANDOVER_TIMEOUT (R246). Roles still held 100 ms into Ebb entry are relinquished. -/
  | ebbHandoverTimeout
  /-- RESOLVE_REPLY_TIMEOUT (R209). A member silent 10 ms after RESOLVE is declared ABSENT, and its sherds count missing. -/
  | resolveReplyTimeout (pool : Nat) (rank : Rank)
  /-- STRIPE_TIMEOUT (R202). A present member without SHERD_DONE for STRIPE_TIMEOUT counts missing, and the ticket commits or waits. -/
  | stripeTimeout (pool seqn : Nat)
  /-- NO_STEWARD_TIMEOUT (R256). A head with no steward for STRIPE_TIMEOUT completes the waiting writes with POOL_READ_ONLY. -/
  | noStewardTimeout (pool : Nat)
  /-- REGISTRY_STEWARD_TIMEOUT (R395). No registry steward answers a forwarded order within STRIPE_TIMEOUT, so the head responds NO_STEWARD. -/
  | registryStewardTimeout (session token : BitVec 32)
  /-- READ_REQUEST_TIMEOUT (R579). No reply 10 ms after a READ_REQUEST makes the head serve the blocks by rebuild. -/
  | readRequestTimeout (rank : Rank) (pool localBlk : Nat)
  /-- DRILL_REPLY_TIMEOUT (R262). A rank silent 5 ms into a drill step is marked NO_REPLY. -/
  | drillReplyTimeout (rank : Rank)
  /-- ROW_GATHER_EXPIRY (R197). ROW_GATHER after a row's first block, the head requests tickets for the gathered blocks. -/
  | rowGatherExpiry (pool row : Nat)
  /-- JOURNAL_GROUP_CLOSE (R205). 20 µs after a group's first record, the steward closes the group and sends it to the standby. -/
  | journalGroupClose (pool : Nat)
  /-- JOURNAL_STRAND_PROGRAMMED (R206). A durable journal group is programmed to the journal strand. -/
  | journalStrandProgrammed (pool : Nat)
  /-- LINK_ACK_TIMER (R278). A receiver sends LINK_ACK at least every 1 µs while frames arrive. -/
  | linkAckTimer (port : CwPort)
  /-- E2E_GAP_TIMEOUT (R280). A gap unfilled for 100 µs makes the destination send E2E_NAK. -/
  | e2eGapTimeout (src : Rank) (cls : Nat)
  /-- E2E_ACK_TIMER (R280). The destination acknowledges by PAIR_ACK every 10 µs or 32 frames. -/
  | e2eAckTimer (src : Rank) (cls : Nat)
  /-- E2E_REPLAY_TIMEOUT (R281). Frames unacknowledged for 200 µs are re-sent marked REPLAYED. -/
  | e2eReplayTimeout (dst : Rank) (cls : Nat)
  /-- CAUSEWAY_SIGNAL_LOSS (R286). Loss of signal or FEC alignment brings a link down within 2 µs, and the device floods TOPOLOGY. -/
  | causewaySignalLoss (port : CwPort)
  /-- FEC_UNCORRECTABLE_BURST (R286). More than 16 uncorrectable codewords within 10 µs bring the link down. -/
  | fecUncorrectableBurst (port : CwPort)
  /-- LINK_ACK_STALL (R286). LINK_ACK that stops advancing despite re-sends brings the link down. -/
  | linkAckStall (port : CwPort)
  /-- LANE_FAILURE (R266). A lane failing in operation makes the port retrain at the next width. -/
  | laneFailure (port : CwPort) (good : BitVec 8)
  /-- PORT_TRAINED (R265). A Causeway port finishes training, and HELLO is exchanged. -/
  | portTrained (port : CwPort) (good : BitVec 8)
  /-- PORT_RETRAIN_TIMER (R288). Every 100 ms a down port tries to train again. -/
  | portRetrainTimer (port : CwPort)
  /-- LINK_FLAP_HOLD_END (R288). The 60 s hold of a flapping link ends and retraining resumes. -/
  | linkFlapHoldEnd (port : CwPort)
  /-- TRANSIT_LOAD_WAKE (R268). More than 10 GB/s of queued transmit traffic for 100 µs takes the device from Neap to Flood. -/
  | transitLoadWake
  /-- KILN_RESET_WAVE (R83). The next wave of die resets starts once the previous wave is ready and 1 ms has passed. -/
  | kilnResetWave (answers : List DieAnswer)
  /-- FLASH_CHANNEL_TRAINED (R85). A flash channel finishes training at some rate, or fails at 200 MT/s. -/
  | flashChannelTrained (chan : Nat) (steps : List TrainStep)
  /-- ZQ_SHORT_CAL_TIMER (R88). Each second, or after 10 °C of drift, Kiln runs a ZQ short calibration on each die. -/
  | zqShortCalTimer (chan die : Nat)
  /-- TJ_DRIFT_RETRAIN (R88). After more than 20 °C of drift, Kiln retrains the channel once reads are idle or 10 ms have passed. -/
  | tjDriftRetrain (chan : Nat) (steps : List TrainStep)
  /-- FLASH_PROGRAM_COMPLETE (R103). A die reports program status pass, and the page becomes verified. -/
  | flashProgramComplete (chan die : Nat)
  /-- DIE_PROGRAM_FAIL (R108). A die reports program fail, and the data is reprogrammed elsewhere from greenware. -/
  | dieProgramFail (chan die : Nat)
  /-- FLASH_ERASE_COMPLETE (R105). A block erase completes, and its read-offset entries reset to index 0. -/
  | flashEraseComplete (chan die : Nat)
  /-- DIE_ERASE_FAIL (R109). A die reports erase fail, and the failure counts against the block. -/
  | dieEraseFail (chan die : Nat)
  /-- FLASH_READ_COMPLETE (R155). A page read completes, and its codewords are decoded and checked, climbing the retry ladder on failure. -/
  | flashReadComplete (chan die : Nat) (results : List CwResult)
  /-- DIE_READY_TIMEOUT (R110). A die not ready at twice its profile time gets Reset LUN and may be fenced. -/
  | dieReadyTimeout (chan die : Nat) (recovered : Bool)
  /-- SUSPEND_WINDOW_END (R98). A suspended program or erase resumes after 500 µs, 8 reads or no reads left. -/
  | suspendWindowEnd (chan die : Nat)
  /-- OPERATION_WAIT_LIMIT (R93). A program or erase waiting 2 ms starts at the die's next idle point despite queued reads. -/
  | operationWaitLimit (chan die : Nat)
  /-- CLASS_AGING_LIMIT (R93). A P2 to P6 operation waiting 20 ms is taken ahead of later arrivals of those classes. -/
  | classAgingLimit (chan die : Nat)
  /-- DIE_STRIPE_CLOSE_TIMER (R129). A die stripe open for DIE_STRIPE_CLOSE is closed with fill and its XOR page. -/
  | dieStripeCloseTimer (row : Nat)
  /-- FOLD_IDLE_TIMER (R122). No write admitted for FOLD_IDLE starts idle folding. -/
  | foldIdleTimer
  /-- FOLD (R123). Folding copies current IUs of the oldest bisque row into stoneware and erases the row. -/
  | fold
  /-- GARBAGE_COLLECT (R133). Garbage collection picks a victim row while E_free is below T, copies its current IUs and erases it. -/
  | garbageCollect
  /-- STATIC_MOVE (R136). A wear spread above WL_SPREAD starts a static move of the least-worn cold row. -/
  | staticMove
  /-- REFRESH_RELOCATION (R138). A scheduled row's valid data is relocated unchanged, and the row is erased. -/
  | refreshRelocation (row : Nat)
  /-- DIE_REBUILD (R130). After a fence, the valid data of every affected row is relocated by die-stripe rebuild. -/
  | dieRebuild (chan : Nat) (die : Option Nat)
  /-- LAST_TIDE_AREA_ROTATE (R143). Every 7 days the Last Tide area moves to other erased blocks. -/
  | lastTideAreaRotate
  /-- ANCHOR_CADENCE (R73). 30 s after the previous anchor, or after 512 MiB of deltas, the member writes checkpoints and a new anchor. -/
  | anchorCadence
  /-- ANCHOR_AFTER_RAISE (R248). Within 10 ms of a Seawall raise, the device programs a new anchor. -/
  | anchorAfterRaise
  /-- MAP_FAULT_IN (R70). A demand fault-in of a map segment completes, and the waiting commands proceed. -/
  | mapFaultIn (pool seg : Nat)
  /-- MAP_BACKGROUND_LOAD (R70). The background load brings the next map segment into DRAM. -/
  | mapBackgroundLoad
  /-- SECURE_DISCARD_JOB (R61). The secure-discard job destroys every older copy of the range on each member. -/
  | secureDiscardJob (job : Nat)
  /-- RESHAPE_WINDOW (R217). The steward moves the next 64 rows to the new layout and raises the tidemark. -/
  | reshapeWindow (pool : Nat)
  /-- RESYNC_ROW (R212). A catching-up device rebuilds its sherd of a row under a RESYNC ticket. -/
  | resyncRow (pool row : Nat) (newLayout : Bool)
  /-- BEACHCOMBER_CHECK (R221). The patrol checks a row's parity or mirror copies and repairs what it can. -/
  | beachcomberCheck (pool row : Nat) (newLayout : Bool) (pos : Nat)
  /-- DRAM_CORRECTED_READ (R170). A DRAM read that needs correction delivers corrected data and counts it. -/
  | dramCorrectedRead (ch : DramCh) (rank component burst : Nat) (diagnostic : Bool)
  /-- DRAM_UNCORRECTABLE_READ (R173). An uncorrectable DRAM read is handled by region. -/
  | dramUncorrectableRead (ch : DramCh) (region : DramRegion)
  /-- DRAM_PATROL (R171). The patrol reads the next burst and writes it back corrected when no other write intervened. -/
  | dramPatrol (ch : DramCh) (rank : Nat) (component : Option Nat) (intervened : Bool)
  /-- SCRATCHPAD_CORRECTED_READ (R175). A scratchpad read with one bit in error delivers and writes back the corrected byte. -/
  | scratchpadCorrectedRead (bank : Fin 32) (address : Nat) (intervened : Bool)
  /-- SCRATCHPAD_UNCORRECTABLE_READ (R178). An uncorrectable scratchpad read is handled by region. -/
  | scratchpadUncorrectableRead (bank : Fin 32) (region : PadRegion)
  /-- ENCODER_CHECK_FAIL (R165). An encoded codeword with a non-zero syndrome is encoded again on another encoder. -/
  | encoderCheckFail (encoder : Fin 20)
  /-- ENGINE_FAULT (R539). A decoder, Glaze lane or Sherd engine fault repeats its work and fences the engine on a second fault within 1 s. -/
  | engineFault (e : Engine) (n : Nat)
  /-- ENGINE_KNOWN_ANSWER_TEST (R539). Each second, a Sherd engine used in that second runs a known-answer CODEC operation. -/
  | engineKnownAnswerTest (n : Fin 8) (good : Bool)
  /-- BEDROCK_READ_RESULT (R456). A Bedrock read returns its corrected-bit count, and refreshes or falls back as needed. -/
  | bedrockReadResult (region : BedRegion) (corrected : Nat) (uncorrectable : Bool)
  /-- ENTROPY_WINDOW (R427). The entropy source's health tests judge a window of 1,024 samples. -/
  | entropyWindow (good : Bool)
  /-- DRBG_RESEED_TIMER (R428). At most 1 s after the previous reseed, the DRBG reseeds. -/
  | drbgReseedTimer
  /-- LANE_REKEY (R437). Every 2^20 blocks, Saggar rekeys a Glaze lane's mask generator and runs its known-answer block. -/
  | laneRekey (lane : Fin 20) (good : Bool)
  /-- VETO_HOLD_REQUEST (R448). A request to gate a held block waits for Saggar to zeroise its secrets and release the hold. -/
  | vetoHoldRequest (block : HeldBlock) (released : Bool)
  /-- VETO_TIMEOUT (R449). A hold unreleased after 10 ms makes the hardware zeroise the block and gate it. -/
  | vetoTimeout (block : HeldBlock)
  /-- INJECTION_ARM_TIMEOUT (R182). An injection armed 60 s with no shot fired disarms. -/
  | injectionArmTimeout (armId : Nat)
  /-- LINK_TEST_TIMEOUT (R186). Link-test frames stop 60 s after their start. -/
  | linkTestTimeout (port : CwPort)
  /-- DIAG_AUTH_IDLE_TIMEOUT (R399). Diagnostic authority ends after 600 s with no class D command. -/
  | diagAuthIdleTimeout
  /-- LEASE_TERM_EXPIRY (R398). A lease's term ends and the lease becomes free. -/
  | leaseTermExpiry (handle : Nat)
  /-- FW_ACTIVATE_LAPSE (R400). A half of a two-port activation lapses when 60 s pass without the other half. -/
  | fwActivateLapse
  /-- MGMT_PORT_ABSENCE (R394). 300 s without a management message makes the management port not present. -/
  | mgmtPortAbsence
  /-- TRIAL_CLEAR (R463). 60 s after READY without a core fault, and once joined, firmware clears TRIAL and may advance the SVN. -/
  | trialClear
  /-- TRIAL_RESTART (R463). TRIAL still set 120 s after a core start restarts the core, costing one try. -/
  | trialRestart
  /-- DRAM_REFRESH_DUE (R476). A bank's same-bank refresh falls due, and it is issued, postponed or split into a burst. -/
  | dramRefreshDue (ch : DramCh) (rank bank : Nat) (burst : Option Nat)
  /-- DRAM_OSCILLATOR_READ (R472). Every 100 ms the controller reads the DQS oscillators and adjusts delays or retrains. -/
  | dramOscillatorRead (ch : DramCh) (drift64 : Nat) (retrain : DramSweep)
  /-- DRAM_TEMPERATURE_READ (R476). Every 32 ms the controller reads the rank temperature and sets tREFI. -/
  | dramTemperatureRead (ch : DramCh) (rank : Nat) (hot : Bool)
  /-- DRAM_PAGE_IDLE_CLOSE (R475). A bank idle for DRAM_PAGE_IDLE has its row closed. -/
  | dramPageIdleClose (ch : DramCh) (rank bank : Nat)
  /-- DRAM_CHANNEL_TRAINED (R468). DRAM training finishes at a passing rate, or fails with code 0x41. -/
  | dramChannelTrained (ch : DramCh) (spd : Option Spd) (sweeps : List DramSweep)
  /-- BANK_HANDOVER (R483). Firmware moves a movable scratchpad bank between WSTAGE and RSTAGE. -/
  | bankHandover (bank : Fin 32) (waited : Bool) (lines : Nat)
  /-- BANK_HANDOVER_TIMEOUT (R483). A bank not freed within 5 ms abandons the hand-over. -/
  | bankHandoverTimeout (bank : Fin 32)
  /-- BANK_ACCESS_FAULT (R482). An access from a master outside the owner class faults and is logged. -/
  | bankAccessFault (target : Guarded) (master : Nat)
  /-- BANK_RETENTION_WAKE (R488). An access wakes a bank from retention within 8 µs. -/
  | bankRetentionWake (bank : Fin 32)
  /-- BANK_RETENTION_RETURN (R488). A bank without access for 50 µs in Neap returns to retention. -/
  | bankRetentionReturn (bank : Fin 32)
  /-- LOOP_SAMPLE (R403). A loop slot samples its input, evaluates its law and applies its output. -/
  | loopSample (slot : Fin 32) (pv : Option (BitVec 32))
  /-- SOFT_LIMIT_TIMER (R423). Descriptors delayed for 1 s log SOFT_LIMIT_ON, and 1 s without delay logs SOFT_LIMIT_OFF. -/
  | softLimitTimer (pool : Nat)
  /-- POWER_ON_RESET (R491). Release of power-on reset starts the device from device time 0. -/
  | powerOnReset (straps : Straps) (facts : StartFacts) (vinMv : Nat)
  /-- HOT_SWAP_INSERTION (R492). HS_VSUP rises, and the controller limits inrush and measures the bank. -/
  | hotSwapInsertion (vsupMv busMv : Nat)
  /-- INSERTION_TIMEOUT (R493). Failure to reach full gate within the insertion timeout turns the gate off. -/
  | insertionTimeout
  /-- INSERTION_RETRY (R493). 1 s after an inrush fault, the controller retries. -/
  | insertionRetry
  /-- CIRCUIT_BREAKER (R494). Current above the breaker threshold for its delay turns the gate off. -/
  | circuitBreaker
  /-- FAST_TRIP (R494). Current above the fast-trip threshold turns the gate off. -/
  | fastTrip
  /-- REVERSE_CURRENT (R494). Reverse current turns the gate off. -/
  | reverseCurrent
  /-- VIN_BELOW_V_PLP (R509). VIN below V_PLP starts Last Tide. -/
  | vinBelowVPlp (vinMv : Nat)
  /-- HS_VSUP_BELOW_V_PLP (R509). HS_VSUP below V_PLP starts Last Tide. -/
  | hsVsupBelowVPlp (vsupMv : Nat)
  /-- PLP_N_LOW (R509). PLP_N low starts Last Tide. -/
  | plpNLow
  /-- PLP_N_HIGH (R509). PLP_N returning high starts the core after Last Tide. -/
  | plpNHigh (facts : StartFacts)
  /-- THERMAL_TRIP (R507). A sensor at 115 °C on three samples starts Last Tide and then Ebb. -/
  | thermalTrip
  /-- CORE_RST_N_LOW (R509). CORE_RST_N low starts Last Tide, or leaves Ebb through a core start. -/
  | coreRstNLow
  /-- CORE_RST_N_HIGH (R509). CORE_RST_N returning high starts the core. -/
  | coreRstNHigh (facts : StartFacts)
  /-- VIN_RECOVERY (R509). VIN rising above V_PLP + 100 mV without a POR starts the core. -/
  | vinRecovery (vinMv : Nat) (facts : StartFacts)
  /-- WATCHDOG_EXPIRY (R509). No watchdog service for 100 ms starts Last Tide and a core start. -/
  | watchdogExpiry
  /-- LAST_TIDE_COMPLETE (R511). Last Tide writes LT_DONE, clamps the outputs and acts on the most severe trigger. -/
  | lastTideComplete (facts : StartFacts)
  /-- VIN_COLLAPSE (R513). VIN falling below 2.4 V before Last Tide finishes keeps only the completed records. -/
  | vinCollapse (written : Nat)
  /-- SAG_TEST_PERIOD (R498). Every SAG_PERIOD the device measures the hold-up capacitance, or defers by 10 min. -/
  | sagTestPeriod (vinMv : Nat)
  /-- SAG_TEST_END (R498). After 5 ms, or when VIN reaches V_PLP + 0.3 V, the gate turns on and C is computed. -/
  | sagTestEnd (currentMa v1Mv v2Mv : Nat)
  /-- SLACK_ENTRY (R502). Idle for SLACK_IDLE, the device enters Slack. -/
  | slackEntry
  /-- NEAP_ENTRY (R502). In Slack for NEAP_IDLE with the link in L1 and no greenware, the device enters Neap. -/
  | neapEntry
  /-- POWER_STATE_EXIT (R503). A wake event returns the device from Slack or Neap to Flood. -/
  | powerStateExit (w : WakeEvent)
  /-- EBB_EXIT (R506). A wake event leaves Ebb, adds the time gap and restores the device. -/
  | ebbExit (w : EbbWake) (cool : Bool) (facts : StartFacts)
  /-- X32_CRYSTAL_STOP (R519). The 32.768 kHz crystal stopping in Ebb moves the count to the internal RC. -/
  | x32CrystalStop
  /-- FIRMWARE_RUNNING (R527). Release of the firmware cores sets AVAIL, serves MCTP and enables the queue engine. -/
  | firmwareRunning
  /-- READY (R528). Recovery done, the device sets READY, releases held commands and sends JOIN. -/
  | ready
  /-- RAIL_TIMEOUT (R571). VDDQD or VCCQF out of range at POR + 500 ms starts safe mode. -/
  | railTimeout (vccqf : Bool)
  /-- SUSPEND_MINIMUM_RUN (R97). A program or erase reaches its minimum run of Table 3-7 while a class P1 read waits for its LUN, and Kiln issues the suspend. -/
  | suspendMinimumRun (chan die : Nat)
  /-- BEDROCK_PROGRAM_COMPLETE (R457). A Bedrock page program ends, so an anchor is verified, the wheel starts the next sector erase, or the second copy of a record is written. -/
  | bedrockProgramComplete (bank : Fin 2) (what : BedWrite) (good : Bool)
  /-- BEDROCK_ERASE_COMPLETE (R459). A Bedrock sector or block erase ends, and staging programs or anchor programs can proceed behind it. -/
  | bedrockEraseComplete (bank : Fin 2) (good : Bool)
  /-- BEDROCK_ERASE_SUSPEND (R454). A Bedrock erase has run 500 µs since start or last resume with a read of its bank queued, and the controller suspends it. -/
  | bedrockEraseSuspend (bank : Fin 2)
  /-- BEDROCK_ERASE_RESUME (R454). 2 ms after suspending a Bedrock erase, the controller resumes it even when reads remain. -/
  | bedrockEraseResume (bank : Fin 2)
  /-- LOSS_OF_VIN (R491). VIN falls below 2.4 V, the device holds power-on reset and every volatile state is lost. -/
  | lossOfVin
  /-- CLAIM_LANE_RELEASED (R241). CLM_DAT returns high after being held low for more than 64 µs, so the lane stops being stuck. -/
  | claimLaneReleased
  /-- ADMISSION_ROUND (R419). Every 1 ms each head reports its demand for each pool to the pool's steward, which starts an admission round. -/
  | admissionRound
  /-- SUPPLY_RAIL_IN_RANGE (R571). VDDQD or VCCQF comes within range during start-up, so bring-up waiting at T_K proceeds and the claim-lane receiver listens. -/
  | supplyRailInRange (vccqf : Bool)
  /-- TAP_ACCESS (R568). The IEEE 1149.1 TAP is driven on TCK, TMS and TDI, returning IDCODE or running boundary scan. -/
  | tapAccess (op : TapOp)
  /-- MSIX_VECTOR_UNMASK (R300). Host software unmasks an MSI-X vector in the BAR4 table whose PBA bit is set, and the device sends the pending message. -/
  | msixVectorUnmask (port : PortId) (vector : Nat)
deriving DecidableEq, Repr

end Sys2Proof
end

