-- ==== Sys2Proof/Machine/Aes.lean ====
section
/-! DEFINITION. AES-256 and the modes of Table 10-12, as the standards that R372 names define them (FIPS 197,
SP 800-38D, IEEE 1619, CBC with PKCS#7 padding). PRESUMED from those standards: notes/assumptions/8.md. -/

namespace Sys2Proof.Machine

/-- The S-box of FIPS 197 and its inverse, 256 bytes each, entry 0 lowest. -/
def sboxTable : Nat :=
  0x16bb54b00f2d99416842e6bf0d89a18cdf2855cee9871e9b948ed9691198f8e19e1dc186b95735610ef6034866b53e708a8bbd4b1f74dde8c6b4a61c2e2578ba08ae7a65eaf4566ca94ed58d6d37c8e779e4959162acd3c25c2406490a3a32e0db0b5ede14b8ee4688902a22dc4f816073195d643d7ea7c41744975fec130ccdd2f3ff1021dab6bcf5389d928f40a351a89f3c507f02f94585334d43fbaaefd0cf584c4a39becb6a5bb1fc20ed00d153842fe329b3d63b52a05a6e1b1a2c830975b227ebe28012079a059618c323c7041531d871f1e5a534ccf73f362693fdb7c072a49cafa2d4adf04759fa7dc982ca76abd7fe2b670130c56f6bf27b777c63
def sboxInvTable : Nat :=
  0x7d0c2155631469e126d677ba7e042b17619953833cbbebc8b0f52aae4d3be0a0ef9cc9939f7ae52d0d4ab519a97f51605fec8027591012b131c7078833a8dd1ff45acd78fec0db9a2079d2c64b3e56fc1bbe18aa0e62b76f89c5291d711af1476edf751ce837f9e28535ade72274ac9673e6b4f0cecff297eadc674f4111913a6b8a130103bdafc1020f3fca8f1e2cd00645b3b80558e4f70ad3bc8c00abd890849d8da75746155edab9edfd5048706c92b6655dcc5ca4d41698688664f6f87225d18b6d49a25b76b224d92866a12e084ec3fa420b954cee3d23c2a632947b54cbe9dec444438e3487ff2f9b8239e37cfbd7f3819ea340bf38a53630d56a0952

/-- A byte of a table. -/
def tableByte (t : Nat) (b : Byte) : Byte := BitVec.ofNat 8 (t / 2 ^ (8 * b.toNat))

/-- SubBytes of one byte, and its inverse. -/
def sub (b : Byte) : Byte := tableByte sboxTable b
def subInv (b : Byte) : Byte := tableByte sboxInvTable b

/-- Multiplication by x in the AES field (polynomial 0x11B). -/
def xtime (a : Byte) : Byte := if a.getLsbD 7 then (a <<< 1) ^^^ 0x1B#8 else a <<< 1

/-- Multiplication in the AES field. -/
def aesMulN : Nat → Byte → Byte → Byte
  | 0, _, _ => 0
  | n + 1, a, b => (if b.getLsbD 0 then a else 0) ^^^ aesMulN n (xtime a) (b >>> 1)

def aesMul (a b : Byte) : Byte := aesMulN 8 a b

/-- One step of the AES-256 key schedule: the next word from the eight words before it (oldest first). -/
def nextWord (i : Nat) (ws : List (List Byte)) (rcon : Byte) : List Byte :=
  let last := ws.getD 7 []
  let t :=
    if i % 8 = 0 then xorBytes ((last.drop 1 ++ last.take 1).map sub) [rcon, 0, 0, 0]
    else if i % 8 = 4 then last.map sub
    else last
  xorBytes (ws.getD 0 []) t

/-- The rest of the key schedule: `n` more words from word `i` on. -/
def schedule : Nat → Nat → List (List Byte) → Byte → List (List Byte)
  | 0, _, _, _ => []
  | n + 1, i, ws, rcon =>
    let w := nextWord i ws rcon
    w :: schedule n (i + 1) (ws.drop 1 ++ [w]) (if i % 8 = 0 then xtime rcon else rcon)

/-- Pieces of `n` bytes. -/
def pieces (n : Nat) : Nat → List Byte → List (List Byte)
  | 0, _ => []
  | k + 1, l => l.take n :: pieces n k (l.drop n)

/-- The 15 round keys of a 256-bit key. -/
def roundKeys (key : List Byte) : List (List Byte) :=
  let ws := pieces 4 8 (bytesAt key 0 32)
  let all := ws ++ schedule 52 8 ws 1
  (List.range 15).map (fun r => (all.drop (4 * r)).take 4 |>.flatten)

/-- ShiftRows over the 16 bytes in column order, and its inverse. -/
def shiftRows (s : List Byte) : List Byte := (List.range 16).map (fun i => s.getD ((i + 4 * (i % 4)) % 16) 0)
def shiftRowsInv (s : List Byte) : List Byte := (List.range 16).map (fun i => s.getD ((i + 12 * (i % 4)) % 16) 0)

/-- MixColumns with the first row of the circulant matrix. -/
def mixWith (m0 m1 m2 m3 : Byte) (s : List Byte) : List Byte :=
  (List.range 16).map (fun i =>
    let c := 4 * (i / 4)
    let r := i % 4
    aesMul m0 (s.getD (c + r) 0) ^^^ aesMul m1 (s.getD (c + (r + 1) % 4) 0) ^^^
      aesMul m2 (s.getD (c + (r + 2) % 4) 0) ^^^ aesMul m3 (s.getD (c + (r + 3) % 4) 0))

/-- AES-256 encryption of one block under round keys. -/
def aesEnc (ks : List (List Byte)) (b : List Byte) : List Byte :=
  let s0 := xorBytes (bytesAt b 0 16) (ks.getD 0 [])
  let s := ((ks.drop 1).take 13).foldl (fun s k => xorBytes (mixWith 2 3 1 1 (shiftRows (s.map sub))) k) s0
  xorBytes (shiftRows (s.map sub)) (ks.getD 14 [])

/-- AES-256 decryption of one block under round keys. -/
def aesDec (ks : List (List Byte)) (b : List Byte) : List Byte :=
  let s0 := (shiftRowsInv (xorBytes (bytesAt b 0 16) (ks.getD 14 []))).map subInv
  let s := ((ks.drop 1).take 13).reverse.foldl
    (fun s k => (shiftRowsInv (mixWith 14 11 13 9 (xorBytes s k))).map subInv) s0
  xorBytes s (ks.getD 0 [])

/-- Number of blocks of a length. -/
def blocks16 (l : List Byte) : Nat := divUp l.length 16

/-! ## GCM (SP 800-38D) -/

/-- Sixteen bytes as a GCM field element: the first bit is the most significant bit of the first byte. -/
def gcmElem (b : List Byte) : BitVec 128 :=
  BitVec.ofNat 128 ((bytesAt b 0 16).foldl (fun n x => n * 256 + x.toNat) 0)

/-- A GCM field element as sixteen bytes. -/
def gcmBytes (x : BitVec 128) : List Byte :=
  (List.range 16).map (fun i => BitVec.ofNat 8 (x.toNat / 2 ^ (8 * (15 - i))))

/-- Product in the GCM field, over the bits of `x` from the first one on. -/
def gcmMulN : Nat → BitVec 128 → BitVec 128 → BitVec 128
  | 0, _, _ => 0
  | n + 1, x, v =>
    (if x.getLsbD n then v else 0) ^^^
      gcmMulN n x (if v.getLsbD 0 then (v >>> 1) ^^^ (0xE1#128 <<< 120) else v >>> 1)

/-- GHASH over bytes padded with zeros to whole blocks. -/
def ghash (h : BitVec 128) (y : BitVec 128) (l : List Byte) : BitVec 128 :=
  (pieces 16 (blocks16 l) l).foldl (fun y b => gcmMulN 128 (y ^^^ gcmElem b) h) y

/-- A big-endian field of `n` bytes. -/
def beBytes (n v : Nat) : List Byte := (leBytes n v).reverse

/-- The counter keystream XORed over data, from counter value `c` on. -/
def ctrXor (ks : List (List Byte)) (iv : List Byte) (c : Nat) (l : List Byte) : List Byte :=
  ((pieces 16 (blocks16 l) l).mapIdx (fun i b =>
    ((xorBytes b ((aesEnc ks (bytesAt iv 0 12 ++ beBytes 4 (c + i))).take b.length)).take b.length))).flatten

/-- AES-256-GCM with a 96-bit IV: the output of the counter mode and the tag over the ciphertext. -/
def gcm (key iv aad text : List Byte) (encrypt : Bool) : List Byte × List Byte :=
  let ks := roundKeys key
  let h := gcmElem (aesEnc ks (List.replicate 16 0))
  let out := ctrXor ks iv 2 text
  let ct := if encrypt then out else text
  let y := ghash h (ghash h 0 aad) ct
  let y := ghash h y (beBytes 8 (8 * aad.length) ++ beBytes 8 (8 * text.length))
  (out, xorBytes (gcmBytes y) (aesEnc ks (bytesAt iv 0 12 ++ beBytes 4 1)))

/-! ## XTS (IEEE 1619) -/

/-- The tweak of the next block: multiplication by alpha, little-endian. -/
def xtsNext (t : Nat) : Nat := if 2 ^ 127 ≤ t then (2 * t % 2 ^ 128) ^^^ 0x87 else 2 * t

/-- The tweak after `n` blocks. -/
def xtsTweak (t : Nat) : Nat → Nat
  | 0 => t
  | n + 1 => xtsNext (xtsTweak t n)

/-- One block under a tweak. -/
def xtsBlock (f : List Byte → List Byte) (t : Nat) (b : List Byte) : List Byte :=
  let w := leBytes 16 t
  xorBytes (f (xorBytes b w)) w

/-- One data unit of at least 16 bytes, with ciphertext stealing where it does not end on a block. -/
def xtsUnit (f : List Byte → List Byte) (encrypt : Bool) (t0 : Nat) (u : List Byte) : List Byte :=
  let n := u.length / 16
  let r := u.length % 16
  let whole (k : Nat) := ((pieces 16 k u).mapIdx (fun i b => xtsBlock f (xtsTweak t0 i) b)).flatten
  if r = 0 then whole n
  else
    let last := (u.drop (16 * (n - 1))).take 16
    let tail := u.drop (16 * n)
    let ta := xtsTweak t0 (n - 1)
    let tb := xtsTweak t0 n
    let cc := xtsBlock f (if encrypt then ta else tb) last
    let pp := xtsBlock f (if encrypt then tb else ta) (tail ++ cc.drop r)
    whole (n - 1) ++ pp ++ cc.take r

/-- XTS over data units of `du` bytes; data unit i uses the tweak plus i (R374). The key holds two 256-bit keys. -/
def xts (key : List Byte) (encrypt : Bool) (tweak du : Nat) (text : List Byte) : List Byte :=
  let k1 := roundKeys (key.take 32)
  let k2 := roundKeys (key.drop 32)
  let f := if encrypt then aesEnc k1 else aesDec k1
  ((pieces du (divUp text.length du) text).mapIdx (fun i u =>
    xtsUnit f encrypt (leNat (aesEnc k2 (leBytes 16 ((tweak + i) % 2 ^ 128)))) u)).flatten

/-! ## CBC with PKCS#7 padding (R375) -/

/-- Chained encryption of blocks. -/
def cbcEncBlocks (ks : List (List Byte)) : List Byte → List (List Byte) → List Byte
  | _, [] => []
  | iv, b :: t => let c := aesEnc ks (xorBytes b iv); c ++ cbcEncBlocks ks c t

/-- Chained decryption of blocks. -/
def cbcDecBlocks (ks : List (List Byte)) : List Byte → List (List Byte) → List Byte
  | _, [] => []
  | iv, b :: t => xorBytes (aesDec ks b) iv ++ cbcDecBlocks ks b t

/-- CBC encryption: 1 to 16 pad bytes, each holding the pad length. -/
def cbcEnc (key iv text : List Byte) : List Byte :=
  let pad := 16 - text.length % 16
  let l := text ++ List.replicate pad (BitVec.ofNat 8 pad)
  cbcEncBlocks (roundKeys key) (bytesAt iv 0 16) (pieces 16 (l.length / 16) l)

/-- CBC decryption: the plaintext without padding, or none where a pad byte is wrong. -/
def cbcDec (key iv text : List Byte) : Option (List Byte) :=
  let l := cbcDecBlocks (roundKeys key) (bytesAt iv 0 16) (pieces 16 (text.length / 16) text)
  let pad := (l.getLastD 0).toNat
  if 1 ≤ pad ∧ pad ≤ 16 ∧ pad ≤ l.length ∧ (l.drop (l.length - pad)).all (fun b => b.toNat = pad)
  then some (l.take (l.length - pad)) else none

end Sys2Proof.Machine
end

