-- ==== Sys2Proof/Machine/Codes.lean ====
section
/-! DEFINITION. Codes the spec defines bit by bit: CRC-64 guard (R164), CRC-32C, the claim-lane CRC-8, GF(2^8)
arithmetic, P and Q (R194 to R196), rebuild (Table 6-1) and the CODEC matrix work (R368). -/

namespace Sys2Proof.Machine

/-! ## Cyclic codes -/

/-- One bit of a reflected CRC with polynomial `poly`. -/
def crcStep {w : Nat} (poly c : BitVec w) : BitVec w :=
  if c.getLsbD 0 then (c >>> 1) ^^^ poly else c >>> 1

/-- One byte of a reflected CRC. -/
def crcByte {w : Nat} (poly c : BitVec w) (b : Byte) : BitVec w :=
  let s := crcStep poly
  s (s (s (s (s (s (s (s (c ^^^ b.setWidth w))))))))

/-- The CRC-64 guard of R164. -/
def guard64 (data : List Byte) : BitVec 64 :=
  data.foldl (crcByte (0xC96C5795D7870F42#64)) (BitVec.allOnes 64) ^^^ BitVec.allOnes 64

/-- CRC-32C (Castagnoli; R278, R204), reflected, all ones in and out. -/
def crc32c (data : List Byte) : BitVec 32 :=
  data.foldl (crcByte (0x82F63B78#32)) (BitVec.allOnes 32) ^^^ BitVec.allOnes 32

/-- One bit, most significant first, of the claim-lane CRC-8 with polynomial 0x07 (Table 7-3). -/
def crc8Bit (c : BitVec 8) (b : Bool) : BitVec 8 :=
  if c.getLsbD 7 != b then (c <<< 1) ^^^ 0x07#8 else c <<< 1

/-! ## GF(2^8) with polynomial 0x11D (R194) -/

/-- Multiplication by 2. -/
def gfDouble (a : Byte) : Byte := if a.getLsbD 7 then (a <<< 1) ^^^ 0x1D#8 else a <<< 1

/-- gf_mul of R194, over the bits of `b` below `n`. -/
def gfMulN : Nat → Byte → Byte → Byte
  | 0, _, _ => 0
  | n + 1, a, b => (if b.getLsbD 0 then a else 0) ^^^ gfMulN n (gfDouble a) (b >>> 1)

/-- gf_mul of R194. -/
def gfMul (a b : Byte) : Byte := gfMulN 8 a b

/-- A power in the field. -/
def gfPow (a : Byte) : Nat → Byte
  | 0 => 1
  | n + 1 => gfMul a (gfPow a n)

/-- The inverse in the field: a^254, since every non-zero a has a^255 = 1. -/
def gfInv (a : Byte) : Byte := gfPow a 254

/-- g^j with g = 0x02. -/
def gfGen (j : Nat) : Byte := gfPow 2 j

/-- A unit scaled by a field element. -/
def gfScale (c : Byte) (u : List Byte) : List Byte := u.map (gfMul c)

/-! ## Parity units (R195) -/

/-- GUARD, REF_TAG and APP_TAG of a protection tag (Table 5-5). -/
def tagGuard (t : BitVec 128) : BitVec 64 := t.extractLsb' 0 64
def tagRef (t : BitVec 128) : BitVec 32 := t.extractLsb' 64 32
def tagApp (t : BitVec 128) : BitVec 32 := t.extractLsb' 96 32

/-- A protection tag from its fields (Table 5-5). -/
def mkTag (app ref : BitVec 32) (guard : BitVec 64) : BitVec 128 := app ++ ref ++ guard

/-- Bytes of a block and of a parity unit. -/
def blkBytes : Nat := 4096
def unitBytes : Nat := 4104

/-- A unit of zeros: an UNMAPPED block (R194, R582). -/
def zeroUnit : List Byte := List.replicate unitBytes 0

/-- The mark of a data block that holds no written data (R44, R45); no host block carries it. -/
def noDataApp : BitVec 32 := 0xFFFFFFFF

/-- The parity unit of a data block (R195); an UNMAPPED block, or one that a DISCARD has zeroed, is a unit of zeros (R194, R199). -/
def dataUnit : Option Blk → List Byte
  | none => zeroUnit
  | some b =>
    if tagApp b.tag = noDataApp then zeroUnit
    else bytesAt b.data 0 blkBytes ++ leBytes 4 (tagGuard b.tag).toNat ++ leBytes 4 (tagApp b.tag).toNat

/-- The unit a P or Q codeword stores: REF_TAG holds the parity of GUARD[31:0], APP_TAG that of APP_TAG (R195). -/
def parityUnit : Option Blk → List Byte
  | none => zeroUnit
  | some b => bytesAt b.data 0 blkBytes ++ leBytes 4 (tagRef b.tag).toNat ++ leBytes 4 (tagApp b.tag).toNat

/-- The block of a P or Q sherd from its unit. -/
def parityBlk (u : List Byte) : Blk :=
  ⟨bytesAt u 0 blkBytes, mkTag (BitVec.ofNat 32 (fieldAt u 4100 4)) (BitVec.ofNat 32 (fieldAt u 4096 4)) 0⟩

/-- A rebuilt data block (R195, R582, C9): none where its unit is all zeros (UNMAPPED); otherwise REF_TAG from the
LBA, APP_TAG from the unit, GUARD computed afresh. The Bool says that C9 holds. -/
def rebuiltBlk (u : List Byte) (lba : Nat) : Option Blk × Bool :=
  if u.all (· = 0) then (none, true)
  else
    let data := bytesAt u 0 blkBytes
    let g := guard64 data
    (some ⟨data, mkTag (BitVec.ofNat 32 (fieldAt u 4100 4)) (BitVec.ofNat 32 lba) g⟩,
      g.toNat % 2 ^ 32 = fieldAt u 4096 4)

/-- P: the XOR of the data units (R194). -/
def parityP (ds : List (List Byte)) : List Byte := ds.foldl xorBytes zeroUnit

/-- Q from data index `j` on: the XOR of g^j times data unit j (R194). -/
def parityQ : Nat → List (List Byte) → List Byte
  | _, [] => zeroUnit
  | j, u :: t => xorBytes (gfScale (gfGen j) u) (parityQ (j + 1) t)

/-- Data units with the lost ones taken as zeros. -/
def filled (ds : List (Option (List Byte))) : List (List Byte) := ds.map (fun u => u.getD zeroUnit)

/-- The lost data indices. -/
def lostIdx (ds : List (Option (List Byte))) : List Nat :=
  (List.range ds.length).filter (fun i => (ds.getD i none).isNone)

/-- Table 6-1: the data units of a position from those that survive and from P and Q, or none where too many are
lost. -/
def recover (ds : List (Option (List Byte))) (p q : Option (List Byte)) : Option (List (List Byte)) :=
  let f := filled ds
  match lostIdx ds, p, q with
  | [], _, _ => some f
  | [x], some p, _ => some (f.set x (xorBytes p (parityP f)))
  | [x], none, some q => some (f.set x (gfScale (gfInv (gfGen x)) (xorBytes q (parityQ 0 f))))
  | [x, y], some p, some q =>
    let p' := xorBytes p (parityP f)
    let q' := xorBytes q (parityQ 0 f)
    let dx := gfScale (gfInv (gfGen x ^^^ gfGen y)) (xorBytes q' (gfScale (gfGen y) p'))
    some ((f.set x dx).set y (xorBytes p' dx))
  | _, _, _ => none

/-- Outcomes of the syndrome check of a position (R196). -/
inductive Syndrome where
  | consistent | pWrong | qWrong | dataWrong (j : Nat) (unit : List Byte) | unlocatable
deriving DecidableEq, Repr

/-- R196: the syndromes of a position, over its data units and P and Q. -/
def syndrome (ds : List (List Byte)) (p q : List Byte) : Syndrome :=
  let sp := xorBytes p (parityP ds)
  let sq := xorBytes q (parityQ 0 ds)
  let zp := sp.all (· = 0)
  let zq := sq.all (· = 0)
  if zp && zq then .consistent
  else if zq then .pWrong
  else if zp then .qWrong
  else
    match (List.range ds.length).find? (fun j => sq = gfScale (gfGen j) sp) with
    | some j => .dataWrong j (xorBytes (ds.getD j zeroUnit) sp)
    | none => .unlocatable

/-! ## CODEC matrices (R368) -/

/-- Row operation: add `c` times one row to another. -/
def rowAdd (c : Byte) (src dst : List Byte) : List Byte := xorBytes dst (gfScale c src)

/-- Clear column `j` of every row but the pivot's. -/
def clearCol (j : Nat) (pivot : List Byte) (rows : List (List Byte)) : List (List Byte) :=
  rows.map (fun r => rowAdd (r.getD j 0) pivot r)

/-- Gauss-Jordan elimination of the columns `j ..` of augmented rows: `done` rows have their pivots. -/
def eliminate : Nat → Nat → List (List Byte) → List (List Byte) → Option (List (List Byte))
  | 0, _, done, _ => some done
  | n + 1, j, done, rest =>
    match rest.find? (fun r => r.getD j 0 != 0) with
    | none => none
    | some r =>
      let p := gfScale (gfInv (r.getD j 0)) r
      eliminate n (j + 1) (clearCol j p done ++ [p]) (clearCol j p (rest.erase r))

/-- The inverse of a square matrix, or none where it is singular. -/
def gfInverse (a : List (List Byte)) : Option (List (List Byte)) :=
  let n := a.length
  let aug := a.mapIdx (fun i r => r ++ (List.range n).map (fun k => if k = i then 1 else 0))
  (eliminate n 0 [] aug).map (fun rows => rows.map (fun r => r.drop n))

/-- Product of two matrices in the field. -/
def gfProduct (a b : List (List Byte)) : List (List Byte) :=
  let cols := (b.headD []).length
  a.map (fun r => (List.range cols).map (fun c =>
    (r.zipWith (fun x row => gfMul x (row.getD c 0)) b).foldl (· ^^^ ·) 0))

/-- Rows of `n` bytes of a row-major matrix from offset `o`. -/
def matrixRows (m : List Byte) (o rows n : Nat) : List (List Byte) :=
  (List.range rows).map (fun r => bytesAt m (o + r * n) n)

/-- One CODEC output: the XOR over inputs of C[o][i] times in[i], over `len` bytes. -/
def codecOut (len : Nat) (row : List Byte) (ins : List (List Byte)) : List Byte :=
  (row.zipWith gfScale (ins.map (fun b => bytesAt b 0 len))).foldl xorBytes (List.replicate len 0)

end Sys2Proof.Machine
end

