-- ==== Sys2Proof/Config.lean ====
section
/-! DEFINITION. What the spec leaves free: opaque constants, applied to the operands they depend on or to the counter
of free values in State (Io.fresh). Nothing can evaluate them, so every claim holds whatever they are
(notes/assumptions/3.md). -/

namespace Sys2Proof

/-- A draw of the Saggar DRBG (R428): UUIDs, session numbers, keys. The n-th draw, as a number. -/
opaque Config.random : Nat → Nat

/-- What overlapping CODEC outputs hold (R369: undefined): the bytes written for an output, by draw and output index. -/
opaque Config.codecOverlap : Nat → Nat → List Byte

/-- P or Q, in bytes of a unit, of a position whose old units and whose other units can both not be read (R48: the whole-IU write succeeds,
and no rule gives the parity), by journal sequence and place. -/
opaque Config.lostParity : Nat → Nat → List Byte

/-- SHA-384 (named by R443, defined by its own standard). -/
opaque Config.sha384 : List Byte → BitVec 384

/-- An ECDSA P-384 signature of a digest under a device key (R446; the keys never leave Saggar, R426). -/
opaque Config.ecdsaSign : BitVec 64 → BitVec 384 → List Byte

/-- The digests of the Saggar ROM and of the firmware's table of die profiles (Table 13-6). -/
opaque Config.romDigest : BitVec 384
opaque Config.profileDigest : BitVec 384

/-- A certificate of the chain, in DER (Table 13-4: 0 intermediate, 1 IDevID, 2 alias), by device serial and MEAS1. -/
opaque Config.certificate : Nat → BitVec 64 → BitVec 384 → List Byte

/-- What the ROM finds in an image's bytes (R460, R464): signature good, release line, mailbox major version, SVN, build. -/
opaque Config.imageInfo : List Byte → Bool × Nat × Nat × Nat × Nat

/-- Installed DRAM and provisionable capacity, in bytes, of the device with a serial number (R34, R43): no frame of Table 8-5
carries them to the registry steward. -/
opaque Config.memberFigures : BitVec 64 → Nat × Nat

/-- Figures of a die profile other than the typical build's, by its number and item (Table 3-3: the profiles are in the
release notes of the firmware). -/
opaque Config.profileFigure : Nat → Nat → Nat

/-- The device address of what the map engine reads for a block of a pool, and of greenware in DRAM overflow (no rule lays DRAM out), by
kind (0 map, 1 overflow), pool and member-local block. -/
opaque Config.dramPlace : Nat → Nat → Nat → Nat

/-- Where a device address falls on its channel (R469 fixes the channel alone): rank, bank and row. -/
opaque Config.dramRow : Nat → Nat × Nat × Nat

/-- Which bank of its owner class staging takes for the n-th access (chapter 14 does not say). -/
opaque Config.stagingBank : Nat → Nat

/-- How an error mask on a DRAM burst falls on the components (R169): the components and the 8-bit symbols it touches.
The spec does not say which component holds which bits of a byte. -/
opaque Config.dramSpan : Nat → BitVec 128 → Nat × Nat

/-- Whether an error pattern beyond both limits of R169 is reported uncorrectable. -/
opaque Config.dramDetects : Nat → BitVec 128 → Bool

/-- What the scratchpad code makes of three or more flipped bits of a byte (R175 corrects one and detects two): 0 clean, 1 corrected,
2 uncorrectable, and the error left in the byte delivered. -/
opaque Config.padDecode : BitVec 13 → Nat × Byte

/-- The 540 B of LDPC parity over bits [33055:0] of a codeword (R150; Table 5-1 names the code and gives no matrix). -/
opaque Config.ldpcParity : List Byte → List Byte

/-- The bit positions that COUNT flips of an injection fall on, by SEED and COUNT (Table 5-9: drawn from SEED). -/
opaque Config.flipPositions : Nat → Nat → List Nat

/-- The dwords of configuration space that the spec lists by capability offset only (Table 9-3), by offset and by the settings
the host has made. -/
opaque Config.configDword : Nat → List Nat → BitVec 32

/-- The pins a boundary-scan sample captures (R568), by draw. -/
opaque Config.boundaryScan : Nat → List Bool

/-- An SPDM response's standard-defined bytes (R445), by request code, version and draw. -/
opaque Config.spdmBytes : Nat → Nat → Nat → List Byte

/-- The endpoint UUID of the management port (R394 names the command, no rule gives the value), by serial number. -/
opaque Config.endpointUuid : BitVec 64 → BitVec 128

/-- The version entry that Get MCTP Version Support returns for a message type (R394 gives none). -/
opaque Config.mctpVersion : Nat → BitVec 32

/-- The counts COUNTERS_READ reports for events that no command of the table carries (Table 17-8: AER errors, FEC
symbols of an ordinary frame), by subsystem, index and draw. -/
opaque Config.freeCount : Nat → Nat → Nat → Nat

end Sys2Proof
end

