-- ==== Sys2Proof/Machine/State.lean ====
section
/-! DEFINITION. The state of the block: every register, queue, buffer, counter, mode and pin the spec gives the
OZ7400, as plain data, the queue of waiting commands, the reasons a step can stop, and the state after reset.
One structure per unit; the units that a host command passes through stand together in Dp, the data path. -/

namespace Sys2Proof.Machine

/-- Reasons a step stops with a fault. -/
inductive Fault where
  /-- Raised by no meaning of this model: the spec gives every command of the table an effect. Safe. -/
  | noCommand
deriving DecidableEq, Repr

/-- Reasons a command is refused. -/
inductive Refusal where
  /-- Raised by an arm of Dispatch.lean whose command has no meaning yet (none in this model). Safe. -/
  | notModelled (mnemonic : String)
deriving DecidableEq, Repr

/-! ## Outputs -/

/-- Frame types the device sends (Table 8-5). -/
inductive FrameType where
  | heartbeat | claim | fenced | relinquish | handover | ringExit
  | ticketRequest | ticketGrant | commitNotice | dropNotice | mirrorGroup | mirrorAck | resolve | resolveReply | sherdDone
  | joinRequest | joinAdmit | readRequest | control | sherdRefused | readFail | e2eAck | e2eNak
  | sherdData | readData
deriving DecidableEq, Repr

/-- The payload of a frame (Table 8-5), and the firmware messages of CONTROL frames. -/
inductive FrameBody where
  | none
  | ticket (dataMask flags group groupSize cover : Nat)
  | registry (r : Option Registry)
  | records (l : List JRec)
  | resolve (items : List ResolveItem) (commits : List Nat)
  | join (serial boot : Word) (anchorSeq : Nat)
  | admission (states : List (Nat × MemberState)) (missed : List (Nat × Nat)) (commits : List Nat) (r : Option Registry)
  | blocks (l : List Nat)
  | blk (b : Blk)
  | roles (boot : Word) (session : BitVec 32) (flags : Byte) (l : List RoleEntry)
  | order (o : OrderMsg)
  | view (v : ViewRec)
  | claimAck
  | demand (n : Nat)
  | request (n : Nat)
  | grant (n : Nat)
  | rate (n : Nat)
  | anchor
  | sdDone (job : Nat) (r : SdReport)
  | rebase (m : RebaseMsg)
deriving DecidableEq, Repr

/-- Messages of one link only: HELLO, TOPOLOGY, LINK_CTL and LINK_TEST (Table 8-5), which names the symbols of its first FEC codeword that an
injection has changed (Table 5-9). -/
inductive LinkMsg where
  | hello (rank : Nat) (serial boot : Word) (session : BitVec 32) (n : Nat)
  | topology (rank version : Nat) (links : List LinkTo)
  | nak (seqn : Nat)
  | ack (seqn : Nat)
  | width (lanes : Nat)
  | test (pattern : Nat) (symbols : List Nat)
  | forward (f : Frame)
  | resend (first : Nat)
  | train
  | squelch
deriving DecidableEq, Repr

/-- Interface modes of a channel (Table 3-1). -/
inductive IfMode where
  | powerOn | nvLpddr4 | toggleDdr
deriving DecidableEq, Repr

/-- Commands Kiln gives a die (Tables 3-2 to 3-4): `read` and `program` name the pages of a block, one of each plane for a
multi-plane operation; `sense` takes extra senses around an entry for soft decoding; the `cache` flag marks the members of a
cache sequence but its last. -/
inductive DieCmd where
  | reset | resetLun | readId | readParameterPage | setMode (m : IfMode) (rate : Nat) | setFeatures | getFeatures | zqLong
  | zqShort | train | readPattern | readStatus
  | read (row : Nat) (pages : List Nat) (offset : Nat) (cache : Bool)
  | sense (row page : Nat) (offset : Nat)
  | program (row : Nat) (pages : List Nat) (cache : Bool)
  | erase (row : Nat)
  | zero (block : Nat)
  | readBack (block : Nat)
  | suspend | resume
deriving DecidableEq, Repr

/-- Commands the DRAM controller gives a channel (chapter 14). -/
inductive DramCmd where
  | refresh (rank bank : Nat) | precharge (rank bank : Nat) | selfRefresh (enter : Bool) | rate (mts : Nat)
  | resetN (low : Bool) | writeBack (rank component burst : Nat) | retrain
deriving DecidableEq, Repr

/-- What the device does at its interfaces, in the order it does it. -/
inductive Output where
  | frame (t : FrameType) (f : Frame) (b : FrameBody)
  | link (p : CwPort) (m : LinkMsg)
  | dmaRead (p : PortId) (req addr bytes : Nat) (pasid : Option Nat)
  | dmaWrite (p : PortId) (addr : Nat) (data : List Byte) (pasid : Option Nat)
  | completion (p : PortId) (queue addr : Nat) (record : BitVec 128)
  | qstatus (p : PortId) (queue addr : Nat) (v : Word)
  | tableRead (p : PortId) (queue : Nat)
  | msix (p : PortId) (vector : Nat)
  | transReq (p : PortId) (pasid : Option Nat) (page : Nat)
  | pageReq (p : PortId) (req : Nat) (pasid : Option Nat) (page : Nat)
  | invalidationDone (p : PortId)
  | aer (p : PortId)
  | barRead (p : PortId) (data : List Byte)
  | cfgRead (p : PortId) (v : BitVec 32)
  | ltr (p : PortId) (usec : Nat)
  | laneFrame (bits : BitVec 49)
  | smbus (data : List Byte)
  | smbusNak
  | mctp (data : List Byte)
  | spdm (t : Transport) (version : Nat) (data : List Byte)
  | spdmError (t : Transport) (code : Nat) (extended : List Byte)
  | doeBusy (p : PortId)
  | busFault (master : Nat)
  | tdo (bits : List Bool)
  | pins (drive : List Bool)
  | die (chan die : Nat) (c : DieCmd)
  | dram (ch : Nat) (c : DramCmd)
  | bedProgram (bank : Nat) (what : BedWrite)
  | bedErase (bank : Nat) (what : BedWrite)
  | gate (on : Bool)
  | blowFuses (svn : Nat)
deriving DecidableEq, Repr

/-! ## Log, error log and counters (chapter 17) -/

/-- A Strandline record (Table 17-4). -/
structure LogRec where
  code   : Nat
  sev    : Nat
  source : Nat
  time   : Nat
  seqn   : Nat
  args   : BitVec 128
deriving DecidableEq, Repr

/-- Outputs, log, counters, and the model's own counter of free values. -/
structure Io where
  /-- What the device has put out, in order (the model's own field). -/
  out       : List Output
  /-- The Strandline ring, oldest first (R547). -/
  ring      : List LogRec
  /-- Next SEQUENCE (R548). -/
  nextSeq   : Nat
  /-- End of the reserved block of sequence values recorded in an anchor (R548). -/
  seqEnd    : Nat
  /-- Counters of Table 17-8, keyed subsystem × 256 + index (R555). -/
  counters  : Tab Nat
  /-- Sequences of records of severity error or above not yet returned or overwritten (R550). -/
  alert     : List Nat
  /-- Device time of the last record of severity critical or fatal (Table 8-6 CRITICAL). -/
  critAt    : Option Nat
  /-- Device time at which a command or a die operation was last under way (Table 17-3, LED_N[0]). -/
  activeAt  : Option Nat
  /-- Check-point failures by point × 16 + member (R168). -/
  checks    : Tab Nat
  /-- How many free values have been drawn (the model's own field). -/
  fresh     : Nat
deriving DecidableEq, Repr

/-! ## Host port (chapter 9) -/

/-- A translation in the address translation cache (R314). -/
structure AtcEntry where
  pasid    : Option Nat
  page     : Nat
  readable : Bool
  writable : Bool
  target   : Nat
deriving DecidableEq, Repr

/-- Names a command of a queue. -/
structure CmdKey where
  port  : PortId
  queue : Nat
  tag   : Nat
deriving DecidableEq, Repr

/-- An outstanding page request (R317, R318). -/
structure PageReq where
  req       : Nat
  key       : CmdKey
  pasid     : Option Nat
  page      : Nat
  sentAt    : Nat
  successes : Nat
deriving DecidableEq, Repr

/-- An outstanding DMA read request (R306 to R310): which bytes of which command's transfer it asks for. -/
structure DmaRead where
  req    : Nat
  key    : CmdKey
  isMeta : Bool
  off    : Nat
  addr   : Nat
  bytes  : Nat
  sentAt : Nat
deriving DecidableEq, Repr

/-- One host port: link, configuration fields, BAR0 registers, MSI-X, translation and outstanding requests. -/
structure HostPort where
  fitted     : Bool
  linkUp     : Bool
  rate       : Nat
  width      : Nat
  l1         : Bool
  d3         : Bool
  bme        : Bool
  maxPayload : Nat
  maxReadReq : Nat
  tagMode    : Nat
  cplTimeout : Nat
  ats        : Bool
  aspmL1     : Bool
  ltr        : Bool
  msixEnable : Bool
  pasidEn    : Bool
  bars       : Tab Nat
  enable     : Bool
  enabled    : Bool
  devVecEn   : Bool
  evtCause   : BitVec 16
  evtMask    : BitVec 16
  tbase      : Word
  tcount     : Nat
  timeHigh   : BitVec 32
  timeLatch  : Bool
  bmeStall   : Bool
  priFailed  : Bool
  unmasked   : List Nat
  pba        : List Nat
  atc        : List AtcEntry
  transReqs  : List (Option Nat × Nat)
  pageReqs   : List PageReq
  reads      : List DmaRead
  nextReq    : Nat
  /-- Invalidations that wait for outstanding reads: PASID, first page, pages (R315). -/
  invals     : List (Option Nat × Nat × Nat)
  /-- The queue whose turn of the weighted round robin it is, and how many doorbells it may still take (R350). -/
  turn       : Nat
  turnLeft   : Nat
deriving DecidableEq, Repr

/-- Host ports A (or x16) and B. -/
structure Hp where
  a     : HostPort
  b     : HostPort
  perst : Bool
deriving DecidableEq, Repr

/-! ## Valow queues (chapter 10) -/

/-- Queue states (Table 10-1). -/
inductive QState where
  | idle | running | frozen | broken
deriving DecidableEq, Repr

/-- A completion record that waits for room in its ring (R343); PHASE is added when it is posted. -/
structure CplRec where
  tag    : Nat
  status : Nat
  detail : Nat
  lba    : Nat
  froze  : Bool
deriving DecidableEq, Repr

/-- A queue's live state and the entry the device holds (Table 10-1, R331 to R345). -/
structure Queue where
  port      : PortId
  queue     : Nat
  entry     : BitVec 512
  st        : QState
  enabled   : Bool
  disabling : Bool
  pos       : Nat
  phase     : Bool
  head      : Nat
  unread    : Nat
  waiting   : List CplRec
  unsig     : Nat
  unsigAt   : Nat
  errTag    : Nat
  errStatus : Nat
  freezing  : Bool
  nCmds     : Nat
  nBytes    : Nat
  nErrors   : Nat
  nIgnored  : Nat
deriving DecidableEq, Repr

/-- Where a command stands: doorbell recorded; header read and held; running; finished, its record waiting. -/
inductive Stage where
  | recorded | header | running | finished
deriving DecidableEq, Repr

/-- A command that holds a tag (R337 to R352). -/
structure Cmd where
  key      : CmdKey
  order    : Nat
  stage    : Stage
  /-- Set when the header is read: the descriptor and the list segments read with it. -/
  desc     : BitVec 512
  segs     : List (List (BitVec 128))
  metaSegs : List (List (BitVec 128))
  opcode   : Nat
  pool     : Nat
  lba      : Nat
  len      : Nat
  tags     : Bool
  /-- Host ranges of the data and metadata buffers, in list order. -/
  elems    : List (Nat × Nat)
  metas    : List (Nat × Nat)
  /-- The checks of R355 are passed. -/
  checked  : Bool
  /-- Breakwater has admitted it (R418), and since when it has been waiting (R423). -/
  admitted : Bool
  delayed  : Option Nat
  /-- Its point of no return is past (Table 10-3). -/
  pnr      : Bool
  /-- Bytes of data and metadata asked of the host so far. -/
  asking   : Bool
  askOff   : Nat
  askMeta  : Nat
  /-- Bytes that have arrived, by offset of the transfer (R308). -/
  chunks   : List (Nat × List Byte)
  metaChunks : List (Nat × List Byte)
  /-- Blocks in hand by index: fetched from the host and checked (writes), or read (reads); none for UNMAPPED. -/
  got      : Tab (Option Blk)
  /-- All data and metadata have arrived and passed C1 (R166). -/
  staged   : Bool
  /-- Blocks to fetch from the host once more, the first of them under way, and those fetched again for C2 (R165, R173, R178). -/
  redo     : List Nat
  again    : List Nat
  /-- A READ of which a WRITE_ATOMIC has committed a part since it began: once what it has asked for is in, it reads all again (R51). -/
  afresh   : Bool
  /-- Indices of blocks whose tickets have not committed (writes), or that are not yet in hand (reads). -/
  todo     : List Nat
  /-- Bytes of data and metadata written to the host so far. -/
  moved    : Nat
  movedMeta : Nat
  /-- A page request holds the transfer (R317). -/
  faulted  : Bool
  /-- The first failing block and its status. -/
  failed   : Option (Nat × Nat)
  /-- Its port was reset: no completion is posted (R325). -/
  orphan   : Bool
  /-- Secure-discard job ID, or positions repaired (Table 10-7). -/
  detail   : Nat
deriving DecidableEq, Repr

/-- The Valow queue engine. -/
structure Vq where
  /-- Cached entries, most recently used first, at most 128 (R331). -/
  cache  : List (PortId × Nat)
  queues : List Queue
  cmds   : List Cmd
  /-- Next doorbell order number (R338). -/
  order  : Nat
  /-- Ignored doorbells and CQ_HEAD writes that name no queue the device holds. -/
  ignored : Nat
deriving DecidableEq, Repr

/-! ## Shoal: pools, tickets, journal, roles, claims (chapters 6 and 7) -/

/-- One block of a gather or a head ticket: the command, its block index, the data unit and position written. -/
structure Part where
  key  : CmdKey
  idx  : Nat
  unit : Nat
  pos  : Nat
deriving DecidableEq, Repr

/-- Blocks of a stripe row gathered at the head (R197). -/
structure Gather where
  pool  : Nat
  gen   : Nat
  row   : Nat
  since : Nat
  parts : List Part
deriving DecidableEq, Repr

/-- A unit of a row position, with its content. -/
structure UnitBlk where
  unit : Nat
  pos  : Nat
  blk  : Option Blk
  /-- Journal sequence of a mirrored copy (Table 6-8), else 0. -/
  seqn : Nat
deriving DecidableEq, Repr

/-- Stages of a ticket at its head (Table 6-2): `waiting` for a steward to ask, and `dropping` for its DROP notice. -/
inductive HStage where
  | waiting | requested | granted | sent | dropping
deriving DecidableEq, Repr

/-- A ticket as its head holds it (R197 to R200). -/
structure HTicket where
  id       : Nat
  pool     : Nat
  gen      : Nat
  row      : Nat
  posFirst : Nat
  posLast  : Nat
  dataMask : Nat
  flags    : Nat
  /-- GROUP as the steward granted it; the head's own number and size of the group. -/
  group    : Nat
  groupKey : Nat
  groupSize : Nat
  /-- The unit that a REPAIR or RESYNC ticket writes. -/
  unit     : Nat
  parts    : List Part
  seqn     : Nat
  claim    : BitVec 32
  stage    : HStage
  /-- Base units wanted and held (R46, R198), and the positions whose parity base is lost (R48). -/
  want     : List (Nat × Nat)
  base     : List UnitBlk
  noBase   : List Nat
  /-- Sherd units sent, kept in staging for a re-send (R167, R281). -/
  units    : List UnitBlk
  refused  : Tab Nat
  /-- It moves a row into the new layout of a reshape (R217). -/
  moves    : Bool
deriving DecidableEq, Repr

/-- A ticket as its steward holds it. -/
structure STicket where
  pool      : Nat
  seqn      : Nat
  row       : Nat
  posFirst  : Nat
  posLast   : Nat
  dataMask  : Nat
  flags     : Nat
  /-- GROUP of its records, the head's own number of the group, and how many tickets the group has. -/
  group     : Nat
  groupKey  : Nat
  groupSize : Nat
  /-- The unit that a REPAIR or RESYNC ticket writes. -/
  unit      : Nat
  /-- The blocks that its commands write: bit unit × 256 + position (R46, R48). -/
  cover     : Nat
  head      : Nat
  /-- The head's own number of its request, echoed in the grant. -/
  reqId     : Nat
  /-- Ranks the ticket writes, ranks that reported SHERD_DONE, ranks counted missing (masks). -/
  writers   : Nat
  done      : Nat
  missing   : Nat
  /-- Its INTENT record is durable; it is granted, and when. -/
  durable   : Bool
  granted   : Bool
  grantedAt : Nat
  /-- A COMMIT or DROP record is written. -/
  closed    : Bool
deriving DecidableEq, Repr

/-- Roles of a device in a pool (R223). -/
inductive Role where
  | none | steward | standby
deriving DecidableEq, Repr

/-- A handover in progress (Table 7-7): target, its start, whether HANDOVER has been sent and when, and the mailbox
that ordered it (none before Ebb entry and for the preferred steward's return). -/
structure Handover where
  target  : Nat
  since   : Nat
  sentAt  : Option Nat
  byOrder : Option Order
deriving DecidableEq, Repr

/-- The resolution a new steward runs (R209, R254). -/
structure Resolving where
  since   : Nat
  waiting : Nat
  items   : List (Nat × ResolveItem)
  commits : List Nat
deriving DecidableEq, Repr

/-- A claim this device is publishing (R243): on the lane or by Causeway quorum. -/
structure Contest where
  claim : BitVec 32
  acks  : Nat
  lane  : Bool
  /-- The steward that hands the role over, if this is a handover (Table 7-7). -/
  giver : Option Nat
deriving DecidableEq, Repr

/-- This device's part in one pool. -/
structure PRole where
  pool      : Nat
  role      : Role
  claim     : BitVec 32
  standby   : Option Nat
  /-- An appointment in progress (R226): rank and start. -/
  appoint   : Option (Nat × Nat)
  nextSeq   : Nat
  /-- The open group and the time of its first record (R205). -/
  group     : List JRec
  groupAt   : Nat
  /-- Groups sent to the standby and not yet acknowledged, oldest first. -/
  sent      : List (List JRec)
  /-- Durable records not yet on the journal strand (R206). -/
  tail      : List JRec
  /-- The working set of durable records (as steward), or the mirror (as standby). -/
  journal   : List JRec
  /-- Grants are stopped (handover, resolution). -/
  stopped   : Bool
  handover  : Option Handover
  resolving : Option Resolving
  contest   : Option Contest
  /-- Requests held while grants are stopped. -/
  held      : List (Frame × FrameBody)
  /-- Since when the preferred steward has been healthy (R257). -/
  healthy   : Option Nat
  /-- Its journal copy came back at a restart (Table 6-6, last row). -/
  restored  : Bool
deriving DecidableEq, Repr

/-- A registry change that has been ordered and not yet committed (R395): its journal sequence, the registry after
it, and the order it answers with the response. -/
structure RegRec where
  seqn    : Nat
  after   : Registry
  order   : Option Order
  status  : Nat
  detail  : Nat
  payload : List Byte
deriving DecidableEq, Repr

/-- One row of the Seawall (Table 7-4). -/
structure SeaEntry where
  raisedAt : Nat
  claim    : BitVec 32
  source   : Nat
  refusals : Nat
deriving DecidableEq, Repr

/-- A steward drill (Table 7-9, Table 7-10). -/
structure Drill where
  pool     : Nat
  order    : Option Order
  since    : Nat
  stepAt   : Nat
  standby  : Nat
  oldClaim : BitVec 32
  newClaim : BitVec 32
  asked    : Nat
  fencedOk : Nat
  accepted : Nat
  noReply  : Nat
deriving DecidableEq, Repr

/-- What a die operation belongs to, where a rule tells: folding and garbage collection (R125), a static move (R137), Beachcomber
(R220), reshape (R219). -/
inductive Task where
  | other | fold | collect | static | patrol | reshape
deriving DecidableEq, Repr

/-- Why a unit is being fetched. -/
inductive Purpose where
  | cmd (key : CmdKey) (idx : Nat)
  | base (ticket unit pos : Nat)
  | remote (rank : Nat) (pool localBlk : Nat)
  | rebuild (job : Nat)
  /-- A position that Beachcomber checks (R220, R221). -/
  | patrol (pool row pos : Nat)
deriving DecidableEq, Repr

/-- An outstanding fetch of one unit of a row position: from this member's medium or from another holder (R579). -/
structure Fetch where
  pool     : Nat
  /-- Layout generation of the row. -/
  gen      : Nat
  row      : Nat
  unit     : Nat
  pos      : Nat
  rank     : Nat
  localBlk : Nat
  purpose  : Purpose
  sentAt   : Nat
  /-- Asked of the die or of the holder; a fetch of this device waits while its segment faults in. -/
  queued   : Bool
  /-- Its data failed C8 once and was asked for again. -/
  again    : Bool
  /-- Holders of a mirrored block that have failed. -/
  tried    : List Nat
  /-- Class and task of its die read (Table 3-6, R219, R220). -/
  cls      : Nat
  task     : Task
deriving DecidableEq, Repr

/-- A shoal rebuild at the head (Table 6-1): which unit, for what, and the units gathered or lost so far. -/
structure Rebuild where
  id      : Nat
  pool    : Nat
  gen     : Nat
  row     : Nat
  pos     : Nat
  unit    : Nat
  purpose : Purpose
  got     : List UnitBlk
  lost    : List Nat
  asked   : List Nat
deriving DecidableEq, Repr

/-- This member's part in a secure-discard job (Table 2-5 steps 2 to 9): whether it has listed its targets, how many blocks they
are, the target rows and the single blocks still to destroy, the blocks destroyed and of those the reported ones, and whether
a copy is out of reach. -/
structure SdPart where
  listed : Bool
  blocks : Nat
  rows   : List Nat
  bad    : List (Nat × Nat × Nat)
  done   : Nat
  told   : Nat
  left   : Bool
deriving DecidableEq, Repr

/-- The shoal state of the device. -/
structure Shoal where
  reg       : Registry
  regNext   : Registry
  regOpen   : List RegRec
  /-- Orders this head has forwarded and not seen answered, with the time of sending and the rank told (R395). -/
  forwarded : List (Order × Nat × Nat)
  roles     : List PRole
  sea       : Tab SeaEntry
  /-- Claims by pool kept in the always-on shadow (R248, R529). -/
  shadow    : Tab Nat
  /-- The device's copy of each steward's view: member states by pool × 16 + rank (R580). -/
  view      : Tab MemberState
  /-- Missed-stripe bitmaps: pool × 16 + rank, region. -/
  missed    : List (Nat × Nat)
  /-- Regions being resynced by this device, and rows done (R212). -/
  resyncing : List (Nat × Nat × List Nat)
  /-- When the next row may be resynced within REBUILD_RATE (R215). -/
  resyncAt  : Nat
  /-- Substitutions whose spare has not been CURRENT yet: pool, rank substituted and spare (R213, R214). -/
  filling   : List (Nat × Nat × Nat)
  /-- Member-local blocks marked lost (R212). -/
  lostBlks  : List (Nat × Nat)
  /-- Pools in which this device's JOIN is admitted (R252, R533). -/
  admitted  : List Nat
  joinSent  : Option Nat
  /-- Since when this head has seen no steward for a pool (R256). -/
  noSteward : Tab Nat
  gathers   : List Gather
  htickets  : List HTicket
  stickets  : List STicket
  fetches   : List Fetch
  rebuilds  : List Rebuild
  nextId    : Nat
  drill     : Option Drill
  /-- Patrol: rows checked in the present pass, by pool × 2^41 + row and layout; and when the pass of a pool began (R220). -/
  patrolled : List Nat
  passAt    : Tab Nat
  /-- Time of a heartbeat's last mention of a pool by its steward: pool, time (R233). -/
  mentioned : Tab Nat
  /-- Pools whose steward has sent RELINQUISH (R233). -/
  relinquished : List Nat
  /-- Claims heard or adopted as the steward's, by pool (R255). -/
  steward   : Tab Nat
  epochHigh : List Nat
  /-- At the registry steward: orders given on to a pool's steward and not yet answered, with the rank told (R395). -/
  delegated : List (Order × Nat)
  /-- At the registry steward: shrinks that wait for the members' maps, the LBA asked about, and the ranks that have
  answered that nothing is mapped (R37). -/
  polls     : List (Order × Nat × List Nat)
  /-- Pools being deleted whose last commands here have ended, with the registry steward told; and at that steward, which
  rank has said so (R38). -/
  drainTold : List (Nat × Nat)
  drained   : List (Nat × Nat)
  /-- A rebase of an exhausted registry pool that this device has proposed: claim, acknowledgements, the order (R231). -/
  rebase    : Option (BitVec 32 × Nat × Option Order)
  /-- An anchor is asked for: by a steward (R146), for a secure-discard job (R66), or to free a strand. -/
  anchorAsked : Bool
  /-- JOINs that a steward has still to handle: pool (noPool at the registry steward), rank, serial number, BOOT_COUNT,
  last anchor sequence (R290). -/
  joins     : List (Nat × Nat × Word × Word × Nat)
  /-- This member's part in each secure-discard job. -/
  sdTargets : Tab SdPart
  /-- Pools that were READ_ONLY when last looked at (Table 2-2). -/
  roSeen    : List Nat
  /-- Sequences of the tickets that write rows of a reshape's new layout above its tidemark: pool, sequence. -/
  windows   : List (Nat × Nat)
  /-- Regions that this member has newly missed and has still to tell the pools' stewards of (R167): pool, region. -/
  missDue   : List (Nat × Nat)
  /-- The oldest journal sequence of a pool that a member's current anchor needs, as the member has told it: pool × 16 + rank
  (R145). -/
  needs     : Tab Nat
  /-- This member's figures have changed, and the registry steward is to be told (R34, R141). -/
  figDue    : Bool
  /-- Ranks whose pending-mapping tables are full (R52). -/
  fullRanks : List Nat
deriving DecidableEq, Repr

/-! ## Causeway (chapter 8) -/

/-- One Causeway port. -/
structure CwLink where
  up        : Bool
  lanes     : Nat
  partner   : Option Nat
  serial    : Word
  n         : Nat
  held      : Bool
  heldUntil : Nat
  downs     : List Nat
  downAt    : Nat
  txSeq     : Nat
  rxSeq     : Nat
  /-- Frames have arrived since the last LINK_ACK; and a NAK has gone out for the first one that is lacking (R278). -/
  rxNew     : Bool
  nakked    : Bool
  /-- Lanes of the last training, 0 before the first; and which they are (R266). -/
  wide      : Nat
  inUse     : BitVec 8
  /-- The link replay buffer: sequences and frames LINK_ACK has not covered (R278). -/
  replay    : List (Nat × Output)
  /-- Frames that wait for room in the replay buffer of 128, in order of arrival; bytes sent in the present 100 µs, those of class
  4 and those of classes 3 and 4; and the classes whose last frame was in transit (R289). -/
  txq       : List Output
  winAll    : Nat
  win4      : Nat
  winBulk   : Nat
  transitLast : List Nat
  /-- More than 10 GB/s stood queued in the last 100 µs (R268). -/
  loaded    : Bool
  /-- Since when LINK_ACK has covered no more of the frames that are unacknowledged (R286). -/
  ackAt     : Nat
  neapPeer  : Bool
  testLeft  : Option Nat
  testSent  : Nat
  testSeed  : Nat
  testAt    : Nat
  testReplays : Nat
deriving DecidableEq, Repr

/-- What is known of another rank. -/
structure Peer where
  boot      : Word
  session   : BitVec 32
  lastHb    : Nat
  heard     : Bool
  silent    : Bool
  silentAt  : Nat
  out       : Bool
  flags     : Byte
  serial    : Word
  roles     : List RoleEntry
  unbrokenSince : Nat
deriving DecidableEq, Repr

/-- End-to-end state for one peer and class (R279 to R281). -/
structure Pair where
  txSeq   : Nat
  unacked : List (FrameType × Frame × FrameBody)
  txAt    : Nat
  rxNext  : Nat
  held    : List (FrameType × Frame × FrameBody)
  gapAt   : Option Nat
  sinceAck : Nat
  ackAt   : Nat
deriving DecidableEq, Repr

/-- The ring. -/
structure Ring where
  session  : BitVec 32
  ne       : CwLink
  nw       : CwLink
  fe       : CwLink
  fw       : CwLink
  /-- Ring size N as agreed from wrap links or the registry (R270). -/
  n        : Nat
  ownHeard : Bool
  exited   : Bool
  /-- TOPOLOGY last heard of each rank: version and the partners of NE, NW, FE, FW. -/
  topo     : Tab (Nat × List LinkTo)
  version  : Nat
  /-- Device time of this device's last heartbeat (R232). -/
  hbAt     : Nat
  /-- Device time of the last frame of classes 1 to 4 that the device has sent or received (R502). -/
  busyAt   : Nat
  peers    : Tab Peer
  pairs    : Tab Pair
deriving DecidableEq, Repr

/-! ## Map, greenware and media (chapters 2 to 4) -/

/-- A location on the medium: block row and codeword in the row. -/
structure Loc where
  row : Nat
  cw  : Nat
deriving DecidableEq, Repr

/-- A sherd block accepted by this member and not yet on the medium (greenware), or programmed and not yet current. -/
structure Green where
  pool     : Nat
  localBlk : Nat
  seqn     : Nat
  row      : Nat
  unit     : Nat
  pos      : Nat
  posLast  : Nat
  claim    : BitVec 32
  steward  : Nat
  src      : Nat
  flags    : Nat
  group    : Nat
  dataMask : Nat
  blk      : Blk
  /-- The last block of the sherd has arrived. -/
  full     : Bool
  loc      : Option Loc
  verified : Bool
  /-- The block is left UNMAPPED and nothing is programmed (R199, R582). -/
  unmaps   : Bool
  committed : Bool
  /-- SHERD_DONE is sent for its sherd. -/
  reported : Bool
  overflow : Bool
  /-- The CRC-32C that C3 computed over a parity unit (Table 5-6). -/
  crc      : BitVec 32
  /-- It came back at a restart, and its ticket's outcome is not known yet (R514). -/
  replayed : Bool
deriving DecidableEq, Repr

/-- What a map delta record says of a block (R73, R76): a pending mapping of a ticket, effective with its COMMIT alone; a relocated
copy that became current; a block freed. -/
inductive DeltaKind where
  | pending | moved | freed
deriving DecidableEq, Repr

/-- A map delta record: its number, in order of writing, and the block's place; none for UNMAPPED. -/
structure Delta where
  num      : Nat
  kind     : DeltaKind
  pool     : Nat
  localBlk : Nat
  seqn     : Nat
  loc      : Option Loc
deriving DecidableEq, Repr

/-- A map checkpoint (R74): its number, the entries it holds, the delta records of the mappings that were pending then (R76), the number
of the oldest delta record that its replay needs and of the first one written after it, and its directory: the checkpoint that holds
each segment. -/
structure Ckpt where
  num     : Nat
  entries : List (Nat × Nat × Loc)
  held    : List Nat
  first   : Nat
  upTo    : Nat
  dir     : List ((Nat × Nat) × Nat)
deriving DecidableEq, Repr

/-- A codeword of a strand (R145): journal records; the map delta records from one number up to another; or a part of a segment, with
the checkpoint's number. -/
inductive StrandItem where
  | journal (l : List JRec)
  | deltas (first upTo : Nat)
  | segment (pool seg ckpt : Nat)
deriving DecidableEq, Repr

/-- A strand codeword and its place. -/
structure StrandCw where
  place : Loc
  item  : StrandItem
deriving DecidableEq, Repr

/-- The map engine of this member. -/
structure MapEng where
  /-- Current entries: pool, member-local block, location (R53). -/
  entries   : List (Nat × Nat × Loc)
  green     : List Green
  /-- Resident segments: pool, segment of 4,096 IUs (R69). -/
  segs      : List (Nat × Nat)
  /-- Segments a command waits for. -/
  wanted    : List (Nat × Nat)
  resident  : Bool
  loading   : Bool
  dirty     : List (Nat × Nat)
  /-- Bytes of delta records written since the newest anchor's checkpoint (R73). -/
  deltaBytes : Nat
  /-- The delta records that the two newest checkpoints need, the number of the next, and of the first not yet staged for the
  strand. -/
  deltas    : List Delta
  nextDelta : Nat
  unstaged  : Nat
  /-- Checkpoints of the newest anchor and of the one before it, newest first, and the one that the next anchor waits for, with
  whether that is an Ebb anchor. -/
  ckpts     : List Ckpt
  ckptDue   : Option (Ckpt × Bool)
  /-- What the strands hold. -/
  strand    : List StrandCw
  /-- COMMIT notices this member holds, by pool and sequence (R254). -/
  commits   : List (Nat × Nat)
  /-- The other devices have been told that the pending-mapping table is full (R52). -/
  fullTold  : Bool
deriving DecidableEq, Repr

/-- A codeword slot of a block row: the block summary's line (R57) and the codeword (Table 5-2). -/
structure Codeword where
  pool     : Nat
  localBlk : Nat
  kind     : Nat
  addr     : Nat
  seqn     : Nat
  body     : Sealed
  written  : Bool
  verified : Bool
  /-- The location a relocation copied it from (R55). -/
  src      : Option Loc
deriving DecidableEq, Repr

/-- Block row modes and states. -/
inductive RowUse where
  | bisque | stoneware | lastTide | journalStrand | mapStrand | diagnostic
  /-- A copy of the registry pool, on a group of 16 channels of its own (R40). -/
  | registry (copy : Nat)
deriving DecidableEq, Repr

/-- A relocation of a row (R55, R158): where its current codewords go (for a static move, the row of the most-worn blocks),
under which class, the pages whose current codewords are still to be read, and the codewords being read. -/
structure Move where
  use    : RowUse
  into   : Option Nat
  cls    : Nat
  task   : Task
  todo   : List Nat
  asked  : List Nat
deriving DecidableEq, Repr

/-- A page staged for its program: block position, page, class and task. -/
structure ReadyPage where
  pos  : Nat
  page : Nat
  cls  : Nat
  task : Task
deriving DecidableEq, Repr

/-- A block row (chapter 4). -/
structure Row where
  id        : Nat
  use       : RowUse
  width     : Nat
  blocks    : List (Nat × Nat × Nat)
  full      : Bool
  cws       : List Codeword
  openSince : Option Nat
  unclosed  : Bool
  filledAt  : Nat
  writtenAt : Nat
  /-- Age of its data at the start of this boot, in ns of device time (R139). -/
  age       : Nat
  /-- Reads of each block since its erase, by block position (R138). -/
  reads     : Tab Nat
  refresh   : Option Nat
  refreshAt : Nat
  warned    : Bool
  ewCount   : Nat
  stage2    : Bool
  moving    : Option Move
  /-- Block positions whose erase is still to complete, while the row is being erased. -/
  erasing   : Option (List Nat)
  /-- Read-offset index by block position × 8 + page type (R105). -/
  offsets   : Tab Nat
  /-- Pages staged and not yet given to their dies (R95). -/
  ready     : List ReadyPage
  /-- Pages that have passed program status and wait for the readable-after distance (R103). -/
  passed    : List (Nat × Nat)
  /-- Pages that were staged and that no program has put on the medium (R108). -/
  dead      : List Nat
  /-- The running XOR of each die stripe's data pages, codeword by codeword (R127, R129). -/
  xors      : Tab (List Sealed)
  /-- Reads and read offsets as the last checkpoint holds them (R135). -/
  readsKept : Tab Nat
  offsetsKept : Tab Nat
deriving DecidableEq, Repr

/-- A block out of service that still holds what was programmed to it (R66). -/
structure Relic where
  block : Nat × Nat × Nat
  cws   : List Codeword
deriving DecidableEq, Repr

/-- Garbage collection modes (R132). -/
inductive GcMode where
  | off | normal | urgent
deriving DecidableEq, Repr

/-- A Last Tide generation on the medium (R511 to R514): its number, the journal tails by pool with this device's part
in each (whether it was steward), the Strandline tail, the greenware with the first counter value its blocks are sealed
under, the map-delta tail, and whether the closing anchor was programmed. -/
structure LtGen where
  gen      : Nat
  boot     : Nat
  journals : List (Nat × Bool × List JRec)
  log      : List LogRec
  greens   : List Green
  /-- The map-delta tail (R75). -/
  deltas   : List Delta
  nonce    : Nat
  closed   : Bool
deriving DecidableEq, Repr

/-- Media management of this member. -/
structure Media where
  rows        : List Row
  nextRow     : Nat
  /-- Erases by block after native-mode and after SLC-mode use (R135), keyed (channel × 16 + die) × 2^20 + block; and both
  as the last checkpoint holds them. -/
  wear        : Tab (Nat × Nat)
  wearKept    : Tab (Nat × Nat)
  retired     : List (Nat × Nat × Nat)
  suspect     : List (Nat × Nat × Nat)
  failing     : List (Nat × Nat × Nat)
  eraseFails  : List (Nat × Nat × Nat)
  relics      : List Relic
  /-- Retirements of the last 24 h: channel, die, device time (below 0 for one of an earlier start; R140). -/
  retireTimes : List (Nat × Nat × Int)
  diesRetired : List (Nat × Nat)
  /-- Fenced units whose rows still have to be rebuilt (R130), and the device time of the fence. -/
  rebuilding  : List (Nat × Option Nat × Nat)
  /-- Bisque size B, and V when it was computed (R118). -/
  bisque      : Nat
  bisqueV     : Nat
  folding     : Bool
  idleFold    : Bool
  lastWrite   : Nat
  gc          : GcMode
  /-- Static moves go on until the spread is small again (R136), and the row under static move (R137). -/
  moving      : Bool
  staticRow   : Option Nat
  /-- Reserve thresholds in force (Table 4-4): 0 none, 1 LOW, 2 CRITICAL, 3 WORN. -/
  reserve     : Nat
  /-- Pools whose steward has been told that this member's media is worn. -/
  wornTold    : List Nat
  failed      : Bool
  ltMovedAt   : Nat
  ltUsed      : Bool
  /-- Nonce counter of slot 0 and the lease end recorded (R434). -/
  nonce       : Nat
  diagPages   : Tab (Nat × Nat)
  /-- The Last Tide generation in the area, and the next generation number. -/
  ltGen       : Option LtGen
  nextGen     : Nat
deriving DecidableEq, Repr

/-- How far a read has climbed the ladder of Table 3-8: its stage, the entries it has tried with the checks that failed at
each, the extra senses of stage 2, and the array reads it has used (R106, R107, R154). -/
structure Climb where
  stage : Nat
  /-- The read-offset entry it reads at, from stage 1 on. -/
  entry : Nat
  tried : List (Nat × Nat)
  extra : Nat
  reads : Nat
deriving DecidableEq, Repr

/-- What a die read is for: a unit that is asked for, a row's relocation, or a page of a die-stripe rebuild. -/
inductive ReadWhy where
  | fetch (f : Fetch)
  | move (row : Nat)
  | stripe (job : Nat)
deriving DecidableEq, Repr

/-- A die-stripe rebuild (stage 3 of Table 3-8): the codeword it rebuilds, for what, the pages still to come, and the XOR of
those in hand. -/
structure StripeJob where
  id     : Nat
  row    : Nat
  page   : Nat
  slot   : Nat
  why    : ReadWhy
  cls    : Nat
  task   : Task
  todo   : List Nat
  asked  : List Nat
  sum    : List Sealed
deriving DecidableEq, Repr

/-- Operations of a die. Classes P0 to P6 are numbers 0 to 6 (Table 3-6). A read names codewords of a row, a program pages; codeword
i of page q is 4q + i. `zero` programs every page of a block with zeros, and `readBack` reads a block to confirm that it is erased,
or holds zeros (Table 2-5); `pattern` is the training-pattern read of R90. -/
inductive OpKind where
  | read (row : Nat) (cws : List Nat) (why : ReadWhy) (at_ : Climb)
  | program (row : Nat) (pages : List Nat)
  | erase (row : Nat)
  | zero (block : Nat)
  | readBack (block : Nat) (zeros : Bool)
  | pattern
  | maintenance (c : DieCmd)
deriving DecidableEq, Repr

/-- A queued or running die operation. -/
structure DieOp where
  kind     : OpKind
  cls      : Nat
  arrived  : Nat
  /-- It has waited 2 ms (R93), or 20 ms. -/
  forced   : Bool
  aged     : Bool
  task     : Task
  /-- It is what a suspend has left of a cache sequence (R100), and joins no other. -/
  alone    : Bool
deriving DecidableEq, Repr

/-- What a die is doing: the operation, since when its array has run, its suspends, the rest of its cache sequence (R79, R100),
the plane pages of data-in still to send (R96), and whether a read's data is out. -/
structure Running where
  op       : DieOp
  since    : Nat
  suspends : Nat
  rest     : List DieOp
  dataIn   : Nat
  out      : Bool
deriving DecidableEq, Repr

/-- A suspended program or erase (R97 to R99). -/
structure Suspended where
  op       : DieOp
  suspends : Nat
  since    : Nat
  reads    : Nat
deriving DecidableEq, Repr

/-- An interval in which a die was busy (R94, R130, R137, R219, R220). -/
structure Busy where
  since  : Nat
  until_ : Nat
  read   : Bool
  cls    : Nat
  task   : Task
deriving DecidableEq, Repr

/-- One die (chapter 3). -/
structure Die where
  present   : Bool
  fenced    : Bool
  setting   : Nat
  queue     : List DieOp
  running   : Option Running
  suspended : Option Suspended
  /-- Times of its timeouts, and the operation that Reset LUN cut short, while the die has still to come back (R110). -/
  timeouts  : List Nat
  cut       : Option DieOp
  zqAt      : Nat
  zqTj      : Int
  eraseDue  : List Nat
  /-- Its busy intervals of the last second, and when it last had a class P1 read. -/
  busy      : List Busy
  lastP1    : Option Nat
deriving DecidableEq, Repr

/-- One flash channel. -/
structure Chan where
  mode     : IfMode
  trained  : Bool
  /-- Opened to the scheduler (Table 3-4 step 9). -/
  opened   : Bool
  rate     : Nat
  /-- The results of its last training (Table 3-4 step 9). -/
  training : Option TrainStep
  failed   : Bool
  fenced   : Bool
  trainTj  : Int
  driftAt  : Option Nat
  /-- Off the bus for a retraining since then (R88). -/
  offBus   : Option Nat
  /-- Its training-pattern check after Ebb has failed, and it waits to be retrained (R90). -/
  recheck  : Bool
  /-- The die that holds the bus, whether for data-out, and until when; and the die that held it last (R96). -/
  bus      : Option (Nat × Bool × Nat)
  lastDie  : Nat
  /-- Dies that have timed out in the present recovery attempt (R111). -/
  attempt  : List Nat
deriving DecidableEq, Repr

/-- Features of a flash die that Kiln uses where the profile lists them (Table 3-2). -/
inductive Feature where
  | features | multiPlane | cacheRead | cacheProgram | programSuspend | eraseSuspend | readOffset | zq | training
  | statusEnhanced | reset
deriving DecidableEq, Repr

/-- A die profile (Table 3-3), as far as the rules use it: times typical and maximum in µs, read-offset entries per page type,
and the wordlines after which a page of a multi-pass program is readable, 0 for one pass. -/
structure Profile where
  id         : Nat
  bits       : Nat
  planes     : Nat
  blocks     : Nat
  pagesSlc   : Nat
  pagesNative : Nat
  dieBytes   : Nat
  modes      : List IfMode
  maxRate    : Nat
  features   : List Feature
  readUs     : Nat
  readMaxUs  : Nat
  progSlcUs  : Nat
  progSlcMaxUs : Nat
  progUs     : Nat
  progMaxUs  : Nat
  eraseUs    : Nat
  eraseMaxUs : Nat
  rstUs      : Nat
  readable   : Nat
  offsets    : Nat
  ratedNative : Nat
  ratedSlc   : Nat
  vccMv      : Nat
  progUa     : Nat
  standbyUa  : Nat
deriving DecidableEq, Repr

/-- Kiln. -/
structure Kiln where
  profile   : Profile
  /-- Next reset wave, 16 when all have started (R83). -/
  wave      : Nat
  waveAt    : Nat
  started   : Bool
  answers   : List DieAnswer
  chans     : Tab Chan
  dies      : Tab Die
  /-- Groups of eight channels whose WP_N is driven high (R84). -/
  wpHigh    : List Nat
  /-- The flash pins float (Table 3-9). -/
  floating  : Bool
  /-- Die-stripe rebuilds under way, and the next one's number. -/
  jobs      : List StripeJob
  nextJob   : Nat
deriving DecidableEq, Repr

/-! ## Breakwater (chapter 12) -/

/-- A pool's token bucket at this head and its admission figures (R418, R419). -/
structure Bucket where
  tokens   : Nat
  rate     : Nat
  filledAt : Nat
  /-- Bytes admitted since the last round (Table 12-5 step 1). -/
  spent    : Nat
  delayedSince : Option Nat
  idleSince : Nat
  softOn   : Bool
  softAt   : Option Nat
deriving DecidableEq, Repr

/-- Breakwater. -/
structure Bw where
  buckets  : Tab Bucket
  /-- Demands heard as steward: pool × 16 + head. -/
  demands  : Tab Nat
  /-- Requests heard as member: pool × 16 + steward. -/
  requests : Tab Nat
  /-- Grants heard as steward: pool × 16 + member. -/
  grants   : Tab Nat
  /-- Greenware limit G_lim in bytes (R416, R417), and the bytes held. -/
  gLim     : Nat
  /-- Member intake U_r in bytes per second (group 1 of R406). -/
  intake   : Nat
  /-- Activity fraction of each zone Z0 to Z6 in 2⁻¹⁶ (R420); 1.0 where none is listed. -/
  acts     : Tab Nat
  roundAt  : Nat
  /-- The Last Tide descriptor list (R510) holds this many entries beside descriptors 0 to 2; at most 8,189. -/
  descriptors : Nat
  holdupLow : Bool
deriving DecidableEq, Repr

/-! ## Claim lane (chapter 7) -/

/-- The claim lane as this device sees it (R236 to R241). -/
structure Lane where
  /-- Frames waiting to be sent, in order. -/
  tx       : List (BitVec 49)
  /-- The lane is usable; false after LANE_STUCK or 3 s without a lane-check frame. -/
  usable   : Bool
  /-- CLM_DAT is held low past 64 µs (R241). -/
  stuck    : Bool
  /-- When the lane was last known to be high: a good frame, its release, the start of listening (R241). -/
  highAt   : Nat
  lastCheck : Nat
  turn     : Nat
  turnAt   : Nat
  /-- A lane-check frame of this device is due in its turn. -/
  checkDue : Bool
  missed   : Tab Nat
  degraded : List Nat
  /-- The claims rejected as malformed (R240). -/
  malformed : Nat
deriving DecidableEq, Repr

/-! ## Mailboxes, parameters, authority (chapter 11) -/

/-- The copy of a request that the device takes at GO (R381). -/
structure MbReq where
  opcode  : Nat
  token   : BitVec 32
  length  : Nat
  /-- The reserved fields of the request header are 0. -/
  clean   : Bool
  payload : List Byte
  /-- The command runs and its response waits for an event (a commit, a measurement). -/
  waiting : Bool
deriving DecidableEq, Repr

/-- One mailbox (Table 11-1), or the one session of the management port. -/
structure Mail where
  box     : Mbx
  session : BitVec 32
  vec     : Bool
  done    : Bool
  busy    : Bool
  respLen : Nat
  ignored : Nat
  /-- The request and response windows: address and byte, rising, no byte 0 listed; unlisted bytes read 0. -/
  reqWin  : List Host.Cell
  respWin : List Host.Cell
  request : Option MbReq
deriving DecidableEq, Repr

/-- A recorded half of a two-port activation (R400). -/
structure Half where
  byHost : Bool
  slot   : Nat
  build  : Nat
  since  : Nat
deriving DecidableEq, Repr

/-- Mailboxes, the management port and the authorities the device itself grants. -/
structure Mb where
  boxes  : List Mail
  /-- Device time of the last management message; none while the port is not present (R394). -/
  mgmtAt : Option Nat
  eid    : Byte
  /-- The session that holds diagnostic authority, and the time of the last class D command (R399). -/
  diag   : Option Mbx
  diagAt : Nat
  half   : Option Half
  /-- PARAM_SETs and PARAM_DEFAULTs that have passed their checks and whose device parameters are to be set (R391), with
  the mailbox to answer, if its port has not been reset since. -/
  parDue : List (MbReq × Option Mbx)
  /-- SANITIZE_CRYPTO orders given to this rank and still to be carried out (R442). -/
  sanDue : List Order
deriving DecidableEq, Repr

/-- Parameters (Table 11-12): VALUE where it differs from the default, and PENDING where one waits. -/
structure Par where
  value : Tab Nat
  pend  : Tab Nat
deriving DecidableEq, Repr

/-! ## Accesses to working memory (R474, R484) -/

/-- A request at the DRAM scheduler (R474): its class, the device address, whether it writes, how many younger requests have been
served before it, and how long it has waited, in ns. -/
structure DramReq where
  cls    : Nat
  addr   : Nat
  write  : Bool
  passed : Nat
  waited : Nat
deriving DecidableEq, Repr

/-- Owner classes of scratchpad banks (Table 14-5), in the order of their codes. -/
inductive Owner where
  | fw | wstage | rstage | journal | log | parity | system
deriving DecidableEq, Repr

/-- An access that waits at a scratchpad bank (R484): the class of the bank, which of its banks, the master as Table 14-5 lists them, and
the lines still to move. -/
structure PadReq where
  owner  : Owner
  pick   : Nat
  master : Nat
  lines  : Nat
  /-- Some of its lines have moved. -/
  begun  : Bool
  /-- It has been counted in its bank's CONFLICTS and waits (R485). -/
  counted : Bool
deriving DecidableEq, Repr

/-- What waits at the DRAM scheduler and at the scratchpad banks, oldest first. -/
structure Traffic where
  dram : List DramReq
  pads : List PadReq
  /-- Accesses to staging so far. -/
  picks : Nat
deriving DecidableEq, Repr


/-- The data path: the units a host command, a mailbox order or a Causeway frame passes through. -/
structure Dp where
  io    : Io
  hp    : Hp
  vq    : Vq
  mb    : Mb
  sh    : Shoal
  ring  : Ring
  lane  : Lane
  map   : MapEng
  med   : Media
  kiln  : Kiln
  bw    : Bw
  mem   : Traffic
deriving DecidableEq, Repr

/-! ## Clock, power, start-up (chapters 15 and 16) -/

/-- Sources of the count in Ebb (R518, R519). -/
inductive X32 where
  | crystal | rc | stopped
deriving DecidableEq, Repr

/-- The always-on clock (R516 to R521). -/
structure Clk where
  /-- Device time in ns. -/
  time     : Nat
  boot     : Nat
  frac64   : Nat
  /-- 32.768 kHz periods counted in the present Ebb. -/
  ebbCount : Nat
  x32      : X32
  /-- UTC at device time 0 of this boot, when pinned, and the pin's uncertainty in ns. -/
  pin      : Option Nat
  pinErr   : Nat
  /-- UTC of the last loss of VIN, where it was pinned, until the next pin (R139). -/
  lostAt   : Option Nat
deriving DecidableEq, Repr

/-- Power states (Table 16-3 POWER_STATE), in the order of their codes. -/
inductive PState where
  | flood | slack | neap | ebb | lastTide | starting
deriving DecidableEq, Repr

/-- Last Tide triggers, from the most severe (Table 15-8). -/
inductive Trigger where
  | vin | hsVsup | plp | thermal | coreRst | watchdog | memory | activate
deriving DecidableEq, Repr

/-- A sag test in progress (R498). -/
structure Sag where
  since  : Nat
  byMail : Option Mbx
deriving DecidableEq, Repr

/-- Which low-power state is being entered: its preparation phase (R503). -/
structure Entering where
  target : PState
  since  : Nat
  byMail : Option Mbx
deriving DecidableEq, Repr

/-- Supplies, hot-swap controller, hold-up bank, power states and Last Tide triggers. -/
structure Pwr where
  state    : PState
  /-- Power-on reset is held: VIN lies below 2.4 V (R491). -/
  porHeld  : Bool
  vinMv    : Nat
  vsupMv   : Nat
  /-- Output of the VIN comparator against V_PLP, with 100 mV hysteresis (R509). -/
  vinLow   : Bool
  vsupLow  : Bool
  plpLow   : Bool
  coreRstLow : Bool
  vddqdOk  : Bool
  vccqfOk  : Bool
  gateOn   : Bool
  tries    : Nat
  insertAt : Option Nat
  /-- When the bus of an insertion rose to 0.5 V (Table 15-3 step 3). -/
  riseAt   : Option Nat
  faultAt  : Option Nat
  /-- Measured capacitance in µF with the time it was taken (R499). -/
  cap      : Option (Nat × Nat)
  /-- The last test's sag in mV, for SAG_TEST's response. -/
  sagMv    : Nat
  sag      : Option Sag
  sagNext  : Nat
  sagSkipped : Bool
  /-- When the firmware cores began to serve the watchdog (R509). -/
  watchAt  : Nat
  /-- Since when the device has been idle as R502 lists it; none while it is busy. -/
  idleSince : Option Nat
  slackSince : Nat
  entering : Option Entering
  /-- Wake events of R506 seen in the present Ebb. -/
  wakes    : List EbbWake
  /-- In Ebb after a thermal trip (R508); the first exit after it sets EVT_CAUSE.THERMAL. -/
  tripped  : Bool
  /-- Hottest sensor in 0.1 °C and device power in mW, as last sampled. -/
  tj       : Int
  powerMw  : Nat
  /-- Last Tide runs since, with the triggers seen (R509). -/
  lt       : Option Nat
  triggers : List Trigger
  /-- Last Tide has ended and the outputs are clamped; the device waits for a restart (Table 15-8). -/
  waiting  : Bool
  /-- The core waits for CORE_RST_N to be high. -/
  coreHeld : Bool
  /-- Core starts for a watchdog or firmware-fatal memory error (R541). -/
  faultStarts : List Nat
deriving DecidableEq, Repr

/-- What the device is and how it starts: identity, straps, boot-status block, start-up progress. -/
structure Boot where
  serial    : BitVec 64
  gradeX    : Bool
  svnFused  : Nat
  straps    : Straps
  /-- CODE, STAGE and TIME of the boot-status block (R531). -/
  code      : Nat
  stage     : Nat
  codeAt    : Nat
  /-- Time of the release of the core (POR, or the core start in progress). -/
  startAt   : Nat
  fw        : Bool
  ready     : Bool
  readyAt   : Nat
  settled   : Bool
  safe      : Bool
  fatal     : Bool
  unclean   : Bool
  imageB    : Bool
  fallback  : Bool
  /-- SPDM is served: step 3 of Table 13-5 has ended (R526). -/
  spdm      : Bool
  /-- Firmware goes on after an exit from Ebb, which is no start (R506). -/
  resumed   : Bool
  /-- Recovery has run and READY is still to come (R144). -/
  recovered : Bool
  /-- Codes of the tests of Table 5-12, in table order. -/
  selftest  : List Nat
  /-- Bring-up waits for VDDQD or VCCQF at T_K (R571). -/
  railWait  : Bool
  /-- The map-engine tag test of this start fails. -/
  tagBad    : Bool
deriving DecidableEq, Repr

/-! ## Saggar, Glaze and Bedrock (chapter 13) -/

/-- A key slot record (R430). -/
structure KeySlot where
  key     : List Byte
  usage   : Nat
  wide    : Bool
  persist : Bool
  gen     : Nat
  counter : Nat
  lease   : Nat
deriving DecidableEq, Repr

/-- A decoder, encoder, Glaze lane or Sherd engine (R539). -/
structure EngineSt where
  fenced : Bool
  /-- Device time of its last fault. -/
  last   : Option Nat
deriving DecidableEq, Repr

/-- SPDM connection state of one transport. -/
structure SpdmSt where
  version : Option Nat
  caps    : Bool
  algs    : Bool
deriving DecidableEq, Repr

/-- Saggar, the engines and Glaze. -/
structure Sec where
  slots    : Tab KeySlot
  cache    : List Nat
  /-- The device-wide generation counter (R433). -/
  gen      : Nat
  reseedAt : Nat
  badRun   : Nat
  goodRun  : Nat
  entropyFailed : Bool
  meas     : List (BitVec 384)
  glaze    : Tab EngineSt
  encoders : Tab EngineSt
  decoders : Tab EngineSt
  sherd    : Tab EngineSt
  /-- Keys of the lanes' mask generators (R437). -/
  maskKeys : Tab Nat
  /-- Blocks whose gate is pending, with the time of the request; and the gated ones (Table 13-9). -/
  holds    : List (HeldBlock × Nat)
  gated    : List HeldBlock
  /-- The UDS and the derived keys stand (Table 13-5 step 3). -/
  identity : Bool
  spdmA    : SpdmSt
  spdmB    : SpdmSt
  spdmM    : SpdmSt
  /-- KEY_SLOT_CLEAR orders that wait for earlier GLAZE commands (R441): slot, mailbox, and the commands waited for. -/
  clearing : List (Nat × Option Mbx × List CmdKey)
deriving DecidableEq, Repr

/-- Slot states of FW_STATUS (R459), in the order of their codes. -/
inductive SlotSt where
  | empty | staging | staged | active | previous | invalid | revoked
deriving DecidableEq, Repr

/-- One image slot. -/
structure Image where
  st       : SlotSt
  svn      : Nat
  build    : Nat
  length   : Nat
  accepted : Nat
  programmed : Nat
  /-- Bytes whose blocks are erased. -/
  erased   : Nat
  bytes    : List Byte
deriving DecidableEq, Repr

/-- A boot record (R461, R463). -/
structure BootRec where
  slot     : Nat
  trial    : Bool
  tries    : Nat
  fellBack : Bool
deriving DecidableEq, Repr

/-- An anchor (chapters 2, 4 and 7: R73, R147, R248, R434, R548): beside sequence, BOOT_COUNT, device time, claims and leases, the
die-stripe widths of the system areas, the number of the map checkpoint (with the tables written beside it) and of the oldest delta
record needed, the journal strand's head and tail, the rows of the Last Tide area, the open and full bisque rows, and the CRC-32C
that the sector carries. -/
structure Anchor where
  seqn     : Nat
  boot     : Nat
  time     : Nat
  ebb      : Bool
  claims   : Tab Nat
  nonceEnd : Nat
  seqEnd   : Nat
  widths   : List Nat
  ckpt     : Nat
  delta    : Nat
  journal  : Nat × Nat
  ltRows   : List Nat
  bisque   : List Nat
  crc      : BitVec 32
deriving DecidableEq, Repr

/-- What a Bedrock bank runs. -/
structure BedOp where
  erase     : Bool
  what      : BedWrite
  /-- Start, last resume, or while suspended the time of the suspension. -/
  since     : Nat
  suspends  : Nat
deriving DecidableEq, Repr

/-- One bank of Bedrock. -/
structure Bank where
  op    : Option BedOp
  /-- An erase that is suspended (R454). -/
  held  : Option BedOp
  /-- Requests waiting, by the priority of R455: (priority, erase, what). -/
  queue : List (Nat × Bool × BedWrite)
  reads : Nat
deriving DecidableEq, Repr

/-- Whom a response goes to that waits until a record is in Bedrock. -/
inductive DueTo where
  | box (m : Mbx)
  | order (o : Order)
deriving DecidableEq, Repr

/-- A response that waits for a record (R391, R440, R441): the region, the record's sequence, and whether both copies must
hold it. -/
structure Due where
  region  : Nat
  seqn    : Nat
  both    : Bool
  dest    : DueTo
  detail  : Nat
  payload : List Byte
deriving DecidableEq, Repr

/-- The Bedrock store. -/
structure Bed where
  bank0   : Bank
  bank1   : Bank
  a       : Image
  b       : Image
  boot    : BootRec
  worn    : Bool
  /-- BOOTREC, PARAM and KEYSTORE copies: sequence of copy 0 and copy 1 by region number, 0 for a bad copy (R452). -/
  copies  : Tab (Nat × Nat)
  /-- Sequence of the newest record asked for, by region number, and the responses that wait for records. -/
  newest  : Tab Nat
  due     : List Due
  params  : Tab Nat
  keys    : Tab KeySlot
  gen     : Nat
  anchors : List Anchor
  /-- Anchor in programming, and whether a further request waits (R457). -/
  writing : Option Anchor
  again   : Bool
  next    : Nat
  erasedSectors : Nat
  deltaAt : Nat
  bootCount : Nat
deriving DecidableEq, Repr

/-! ## DRAM and scratchpad (chapter 14), integrity diagnostics (chapter 5) -/

/-- What training finds at one rate (R471): for each DQ bit the Vref step and the delay in 1/64 UI at the centre of its read eye and of
its write eye, and VrefDQ of each component. -/
structure DramPoint where
  rate   : Nat
  read   : List (Nat × Nat)
  write  : List (Nat × Nat)
  vrefDq : List Nat
deriving DecidableEq, Repr

/-- One DRAM channel. -/
structure DChan where
  spd      : Option Spd
  trained  : Bool
  /-- What its training has found at the rates at which it has passed, once it has run (SB29). -/
  passing  : Option (List DramPoint)
  rate     : Nat
  shadow   : Nat
  drift64  : Nat
  hot      : List Nat
  /-- Refreshes postponed, or below 0 pulled in, by rank × 4 + bank index (R477). -/
  banks    : Tab Int
  /-- Open rows: by rank × 4 + bank index the row and the time of its last access (R475). -/
  openRows : Tab (Nat × Nat)
  selfRefresh : Bool
  resetLow : Bool
  failed   : Bool
  /-- Corrections by rank × 32 + component (R170), and the distinct bursts corrected in 24 h with their times (R174). -/
  fixes    : Tab Nat
  bursts   : Tab (List (Nat × Nat))
  /-- Components warned of. -/
  warned   : List Nat
  /-- Times of the uncorrectable bursts of the last hour (R174). -/
  bad      : List Nat
  /-- Bursts that the present patrol pass has read, and those each component needed correction in. -/
  patrolRead : Nat
  patrolFix : Tab Nat
  /-- Requests that the scheduler has served since the patrol's last burst (R474). -/
  patrolPast : Nat
deriving DecidableEq, Repr

/-- The DRAM controller. -/
structure Dram where
  chans : Tab DChan
  rate  : Nat
deriving DecidableEq, Repr

/-- States of a bank (Table 14-7), in the order of their codes. -/
inductive BankSt where
  | active | retention | gated | initialising | offline
deriving DecidableEq, Repr

/-- One scratchpad bank. -/
structure Pad where
  owner     : Owner
  st        : BankSt
  repairBad : Bool
  used      : Nat
  corrected : Nat
  lastUse   : Nat
  /-- A hand-over in progress: new owner and start (Table 14-6). -/
  moving    : Option (Owner × Nat)
  /-- Since when the bank has held no live line, as firmware has seen it (R483). -/
  freeAt    : Option Nat
  /-- Corrections since the last Neap exit (R177). -/
  recent    : Nat
  /-- The master that the bank's round robin served last (R484). -/
  turn      : Nat
  /-- Waits under R485 of the accesses that the model's commands make. -/
  conflicts : Nat
deriving DecidableEq, Repr

/-- The scratchpad. -/
structure Pads where
  banks    : Tab Pad
  neapExit : Option Nat
deriving DecidableEq, Repr

/-- States of an injection arm (Table 5-15). -/
inductive ArmSt where
  | armed | done | disarmed
deriving DecidableEq, Repr

/-- An injection arm (Table 5-10, Table 5-15). -/
structure Arm where
  id      : Nat
  target  : Nat
  unit    : Nat
  sel     : Nat
  count   : Nat
  seed    : Nat
  shots   : Nat
  address : Nat
  mask    : BitVec 128
  st      : ArmSt
  fired   : Nat
  corrected : Nat
  uncorrectable : Nat
  replays : Nat
  /-- Link sequences of the link-test frames it corrupted. -/
  seqs    : List Nat
  since   : Nat
deriving DecidableEq, Repr

/-- A stored DRAM burst or scratchpad byte that an injection corrupted. -/
structure Flaw where
  unit    : Nat
  address : Nat
  sel     : Nat
  mask    : BitVec 128
  arm     : Nat
deriving DecidableEq, Repr

/-- A codeword of the LDPC diagnostic row: its index, as it was encoded, its PATTERN (none: fill), and the bits that an injection has
flipped in it, with the arm. -/
structure DiagCw where
  index   : Nat
  body    : Sealed
  pattern : Option (BitVec 32)
  flips   : List Nat
  arm     : Nat
deriving DecidableEq, Repr

/-- Diagnostic regions, injection and correction counts. -/
structure Integ where
  arms     : List Arm
  nextArm  : Nat
  /-- The DRAM windows (64 MiB each, at unit × 2^26) and the scratchpad window: address and byte, rising, no 0 listed. -/
  dramWin  : List Host.Cell
  padWin   : List Host.Cell
  dramBad  : List Flaw
  padBad   : List Flaw
  /-- Pages programmed in the diagnostic row and its codewords. -/
  pages    : List Nat
  cws      : List DiagCw
  /-- Corrections and uncorrectable reports in diagnostic regions, counted apart (R183). -/
  diagFixed : Nat
  diagBad  : Nat
deriving DecidableEq, Repr

/-! ## Tidegauge (chapter 12) -/

/-- States of a loop slot (Table 12-1), in the order of their codes. -/
inductive LoopSt where
  | unused | closed | opened | hold
deriving DecidableEq, Repr

/-- A loop slot (Table 12-1). Gains, limits and values are raw Q16.16; the integrator is raw Q32.32. -/
structure Loop where
  kp       : Int
  ki       : Int
  kd       : Int
  dAlpha   : Int
  setpoint : Int
  outMin   : Int
  outMax   : Int
  pv       : Int
  integ    : Int
  dfilt    : Int
  pvPrev   : Int
  output   : Int
  periodUs : Nat
  overruns : Nat
  samples  : Nat
  input    : Nat
  actuator : Nat
  group    : Nat
  pid      : Bool
  st       : LoopSt
  satHi    : Bool
  satLo    : Bool
  intHeld  : Bool
  selected : Bool
  fixed    : Bool
  /-- The next sample is the first after a start, an Ebb exit or a close (R404, R409). -/
  first    : Bool
  /-- The next sample re-closes the slot (R409). -/
  reclose  : Bool
  /-- Valid inputs in a row while in HOLD (R412). -/
  valid    : Nat
  /-- Instant of the last sample (R403). -/
  lastAt   : Option Nat
deriving DecidableEq, Repr

/-- States of a trace buffer (Table 12-2), in the order of their codes. -/
inductive TraceSt where
  | idle | armed | filling | full
deriving DecidableEq, Repr

/-- One trace sample (Table 12-3) with its full time. -/
structure Sample where
  time  : Nat
  slot  : Nat
  flags : Nat
  seqn  : Nat
  pv    : Int
  e     : Int
  p     : Int
  i     : Int
  d     : Int
  u     : Int
deriving DecidableEq, Repr

/-- One trace buffer (R413, R414). -/
structure Trace where
  armId   : Nat
  st      : TraceSt
  slot    : Nat
  trigger : Nat
  cont    : Bool
  decim   : Nat
  pre     : Nat
  thresh  : BitVec 32
  skip    : Nat
  samples : List Sample
  trigAt  : Nat
  /-- SEQUENCE of the next Strandline record at arming. -/
  armSeq  : Nat
deriving DecidableEq, Repr

/-- Tidegauge. -/
structure Tide where
  loops  : Tab Loop
  traces : Tab Trace
  nextArm : Nat
  /-- When each zone's activity last left, or came to, 1.0: zone, (at 1.0, since). -/
  zones  : Tab (Bool × Nat)
deriving DecidableEq, Repr

/-- The TAP (R568): boundary scan drives the pins in EXTEST. -/
structure Tap where
  drive : Option (List Bool)
deriving DecidableEq, Repr

/-- The state of the block. -/
structure State where
  dp      : Dp
  clk     : Clk
  pwr     : Pwr
  boot    : Boot
  par     : Par
  sec     : Sec
  bed     : Bed
  dram    : Dram
  pads    : Pads
  integ   : Integ
  tide    : Tide
  tap     : Tap
  /-- Commands that wait, first in first out. -/
  pending : List Instr
deriving DecidableEq, Repr

/-! ## Reset

State.reset is the machine at the release of power-on reset (R491, R520): device time 0, nothing volatile held, and
what is kept on flash, in Bedrock and in fuses as a device holds it that no run has used (notes/assumptions/4.md). -/

/-- A host port after a conventional reset (R325); Table 9-11 to 9-13, and PCI Express defaults (notes/assumptions/5.md). -/
def HostPort.reset (fitted : Bool) : HostPort :=
  { fitted := fitted, linkUp := false, rate := 0, width := 0, l1 := false, d3 := false, bme := false, maxPayload := 128,
    maxReadReq := 512, tagMode := 0, cplTimeout := 0, ats := false, aspmL1 := false, ltr := false, msixEnable := false,
    pasidEn := false, bars := [], enable := false, enabled := false, devVecEn := false, evtCause := 0,
    evtMask := BitVec.allOnes 16, tbase := 0, tcount := 0, timeHigh := 0, timeLatch := false, bmeStall := false,
    priFailed := false, unmasked := [], pba := [], atc := [], transReqs := [], pageReqs := [], reads := [],
    nextReq := 0, invals := [], turn := 2047, turnLeft := 0 }

/-- A mailbox at reset (Table 11-1). -/
def Mail.reset (m : Mbx) : Mail :=
  { box := m, session := 0, vec := false, done := false, busy := false, respLen := 0, ignored := 0, reqWin := [],
    respWin := [], request := none }

/-- The mailboxes of both host ports, and the management port's session. -/
def mailboxes : List Mbx :=
  [.host .a 0, .host .a 1, .host .a 2, .host .a 3, .host .b 0, .host .b 1, .host .b 2, .host .b 3, .mgmt]

/-- A Causeway port before its training. -/
def CwLink.reset : CwLink :=
  { up := false, lanes := 0, partner := none, serial := 0, n := 0, held := false, heldUntil := 0, downs := [],
    downAt := 0, txSeq := 0, rxSeq := 0, rxNew := false, nakked := false, wide := 0, inUse := 0, replay := [], txq := [], winAll := 0, win4 := 0, winBulk := 0, transitLast := [], loaded := false, ackAt := 0, neapPeer := false, testLeft := none, testSent := 0,
    testSeed := 0, testAt := 0, testReplays := 0 }

/-- Registry figures of a lone device of the typical build: 256 GiB of DRAM, 64 channels of 16 dies of 4 Tibit. -/
def Registry.reset : Registry :=
  { n := 1,
    members := [{ rank := 0, serial := 0, dram := 256 * gib, prov := (512 * tib - 4 * 404 * gib) * 31 / 32 - 512 * tib * 7 / 100, spare := false,
                  retired := false, low := false }],
    pools := [{ handle := 0, uuid := 0, iu := 0, cap := 262144,
                nodes := [⟨.mirror, 3, 0⟩, ⟨.leaf, 0, 0⟩, ⟨.leaf, 0, 0⟩, ⟨.leaf, 0, 0⟩],
                stripes := [⟨.mirror, 0, [0, 0, 0], 262144⟩], sherd := 0, floor := 0, tags := false, state := .online,
                prefSteward := 0, prefStandby := none, lastSteward := 0, lastStandby := none, createdAt := 0,
                layoutGen := 0, reshape := none, secureDel := false, deleteJob := none, substs := [],
                rebases := 0, rebaseRank := 0 }],
    leases := [], jobs := [], nextJob := 1, params := [], applied := [], clears := [], errlog := [], uuids := [0] }

/-- The shoal state at reset. -/
def Shoal.reset : Shoal :=
  { reg := Registry.reset, regNext := Registry.reset, regOpen := [], forwarded := [], roles := [], sea := [],
    shadow := [], view := [], missed := [], resyncing := [], resyncAt := 0, filling := [], lostBlks := [], admitted := [], joinSent := none,
    noSteward := [], gathers := [], htickets := [], stickets := [], fetches := [], rebuilds := [], nextId := 0,
    drill := none, patrolled := [], passAt := [], mentioned := [], relinquished := [], steward := [],
    epochHigh := [], delegated := [], polls := [], drainTold := [], drained := [], rebase := none,
    anchorAsked := false, joins := [], sdTargets := [], roSeen := [], windows := [], missDue := [], needs := [], figDue := false, fullRanks := [] }

/-- The ring at reset. -/
def Ring.reset : Ring :=
  { session := 0, ne := CwLink.reset, nw := CwLink.reset, fe := CwLink.reset, fw := CwLink.reset, n := 1,
    ownHeard := false, exited := false, topo := [], version := 0, hbAt := 0, busyAt := 0, peers := [], pairs := [] }

/-- The claim lane at reset. -/
def Lane.reset : Lane :=
  { tx := [], usable := true, stuck := false, highAt := 0, lastCheck := 0, turn := 0, turnAt := 0, checkDue := false, missed := [],
    degraded := [], malformed := 0 }

/-- Map and media at reset: an empty medium, every system area erased. -/
def MapEng.reset : MapEng :=
  { entries := [], green := [], segs := [], wanted := [], resident := false, loading := false, dirty := [],
    deltaBytes := 0, deltas := [], nextDelta := 0, unstaged := 0, ckpts := [], ckptDue := none, strand := [],
    commits := [], fullTold := false }

def Media.reset : Media :=
  { rows := [], nextRow := 1, wear := [], wearKept := [], retired := [], suspect := [], failing := [], eraseFails := [], relics := [], retireTimes := [],
    diesRetired := [], rebuilding := [], bisque := 32 * gib, bisqueV := 0, folding := false, idleFold := false, lastWrite := 0, gc := .off,
    moving := false, staticRow := none, reserve := 0, wornTold := [], failed := false, ltMovedAt := 0, ltUsed := false,
    nonce := 0, diagPages := [], ltGen := none, nextGen := 1 }

/-- The die profile of the typical build: 4 Tibit QLC at 4,800 MT/s, with the array figures of the examples of
chapters 3 and 15 (notes/assumptions/6.md). -/
def Profile.typical : Profile :=
  { id := 1, bits := 4, planes := 4, blocks := 2048, pagesSlc := 1024, pagesNative := 4096, dieBytes := tib / 2,
    modes := [.nvLpddr4, .toggleDdr], maxRate := 4800,
    features := [.features, .multiPlane, .cacheRead, .cacheProgram, .programSuspend, .eraseSuspend, .readOffset, .zq,
      .training, .statusEnhanced, .reset],
    readUs := 60, readMaxUs := 120, progSlcUs := 75, progSlcMaxUs := 200, progUs := 2000, progMaxUs := 3000,
    eraseUs := 10000, eraseMaxUs := 20000, rstUs := 500, readable := 0, offsets := 16, ratedNative := 1500,
    ratedSlc := 30000, vccMv := 2500, progUa := 20000, standbyUa := 50 }

/-- Kiln before its bring-up. -/
def Kiln.reset : Kiln :=
  { profile := Profile.typical, wave := 0, waveAt := 0, started := false, answers := [], chans := [], dies := [],
    wpHigh := [], floating := true, jobs := [], nextJob := 0 }

def Bw.reset : Bw :=
  { buckets := [], demands := [], requests := [], grants := [], gLim := 0, intake := 250000000000, acts := [], roundAt := 0,
    descriptors := 0, holdupLow := false }

/-- The log holds the START record of this start (R547). -/
def Io.reset : Io :=
  { out := [],
    ring := [{ code := 0x0F01, sev := 2, source := 0, time := 0, seqn := 0, args := BitVec.ofNat 128 (2 ^ 64) }],
    nextSeq := 1, seqEnd := 0, counters := [(15 * 256, 1)], alert := [], critAt := none, activeAt := none,
    checks := [], fresh := 0 }

def Traffic.reset : Traffic := { dram := [], pads := [], picks := 0 }

/-- The data path at reset. -/
def Dp.reset : Dp :=
  { io := Io.reset,
    hp := { a := HostPort.reset true, b := HostPort.reset false, perst := true },
    vq := { cache := [], queues := [], cmds := [], order := 0, ignored := 0 },
    mb :=
      { boxes := mailboxes.map Mail.reset, mgmtAt := none, eid := 0, diag := none, diagAt := 0, half := none,
        parDue := [], sanDue := [] },
    sh := Shoal.reset, ring := Ring.reset, lane := Lane.reset, map := MapEng.reset, med := Media.reset,
    kiln := Kiln.reset, bw := Bw.reset, mem := Traffic.reset }

/-- Straps as sampled at reset: rank 0, one x16 port, HS_ILIM and SMB_ADDR low, SAFE_N high. -/
def Straps.reset : Straps := { rank := 0, bifurc := false, hsIlim := false, smbAddr := 0, safeN := true }

def Pwr.reset : Pwr :=
  { state := .starting, porHeld := false, vinMv := 5000, vsupMv := 5000, vinLow := false, vsupLow := false,
    plpLow := false, coreRstLow := false, vddqdOk := false, vccqfOk := false, gateOn := true, tries := 0,
    insertAt := none, riseAt := none, faultAt := none, cap := none, sagMv := 0, sag := none, sagNext := 0, sagSkipped := false, watchAt := 0,
    idleSince := some 0, slackSince := 0, entering := none, wakes := [], tripped := false, tj := 250, powerMw := 0,
    lt := none, triggers := [], waiting := false, coreHeld := false, faultStarts := [] }

def Boot.reset : Boot :=
  { serial := 0, gradeX := false, svnFused := 0, straps := Straps.reset, code := 1, stage := 1, codeAt := 0,
    startAt := 0, fw := false, ready := false, readyAt := 0, settled := false, safe := false, fatal := false,
    unclean := false, imageB := false, fallback := false, spdm := false, resumed := false, recovered := false, selftest := [], railWait := false,
    tagBad := false }

/-- The at-rest key slot as reset leaves it in the wrapped key table: usage AT_REST, persistent, generation 1. -/
def KeySlot.reset : KeySlot :=
  { key := List.replicate 32 0, usage := 0, wide := false, persist := true, gen := 1, counter := 0, lease := 0 }

def SpdmSt.reset : SpdmSt := { version := none, caps := false, algs := false }

def Sec.reset : Sec :=
  { slots := [], cache := [], gen := 1, reseedAt := 0, badRun := 0, goodRun := 0, entropyFailed := false,
    meas := List.replicate 8 0, glaze := [], encoders := [], decoders := [], sherd := [], maskKeys := [], holds := [], gated := [],
    identity := false, spdmA := SpdmSt.reset, spdmB := SpdmSt.reset, spdmM := SpdmSt.reset, clearing := [] }

def Image.reset (st : SlotSt) : Image :=
  { st := st, svn := 0, build := 0, length := 0, accepted := 0, programmed := 0, erased := 0, bytes := [] }

/-- Bedrock as the factory leaves it: image A active, one Ebb anchor, no parameter kept, the at-rest key. -/
def Bed.reset : Bed :=
  { bank0 := ⟨none, none, [], 0⟩, bank1 := ⟨none, none, [], 0⟩, a := Image.reset .active, b := Image.reset .empty,
    boot := { slot := 0, trial := false, tries := 0, fellBack := false }, worn := false,
    copies := [(1, (1, 1)), (3, (1, 1)), (4, (1, 1))], newest := [(1, 1), (3, 1), (4, 1)], due := [], params := [], keys := [(0, KeySlot.reset)], gen := 1,
    anchors := [{ seqn := 1, boot := 0, time := 0, ebb := true, claims := [], nonceEnd := 0, seqEnd := 0,
                  widths := [32, 32, 32], ckpt := 0, delta := 0, journal := (0, 0), ltRows := [], bisque := [],
                  crc := 2453777714 }],
    writing := none, again := false, next := 2, erasedSectors := 63, deltaAt := 0, bootCount := 1 }

/-- Owner of a scratchpad bank (Table 14-4). -/
def padOwner (n : Nat) : Owner :=
  if n < 12 then .fw else if n < 24 then .wstage else if n < 28 then .rstage
  else if n = 28 then .journal else if n = 29 then .log else if n = 30 then .parity else .system

def Pad.reset (n : Nat) : Pad :=
  { owner := padOwner n, st := .active, repairBad := false, used := 0, corrected := 0, lastUse := 0, moving := none,
    freeAt := none, recent := 0, turn := 0, conflicts := 0 }

/-- A loop slot at core start (Table 12-4, Table 12-1, R415); slots 12 to 31 are unused (R401). -/
def Loop.shipped (n : Nat) : Loop :=
  let q (v : Int) : Int := v * 65536
  let base : Loop :=
    { kp := 0, ki := 0, kd := 0, dAlpha := 0, setpoint := 0, outMin := 0, outMax := 0, pv := 0, integ := 0, dfilt := 0,
      pvPrev := 0, output := 0, periodUs := 0, overruns := 0, samples := 0, input := 0, actuator := 0, group := 0,
      pid := false, st := .unused, satHi := false, satLo := false, intHeld := false, selected := false,
      fixed := false, first := true, reclose := false, valid := 0, lastAt := none }
  if n = 0 then
    { base with kp := 0x01900000, ki := 0x00040000, setpoint := 0xC000, outMin := 0x8000, outMax := q 250,
                output := q 250, integ := q 250 * 65536, periodUs := 1000, group := 1, st := .closed }
  else if n = 1 then
    { base with kp := 0x00C80000, ki := 0x00010000, setpoint := 0xC000, outMin := 0x8000, outMax := q 250,
                output := q 250, integ := q 250 * 65536, periodUs := 100, input := 1, actuator := 1, group := 1,
                st := .closed }
  else if n = 2 then
    { base with ki := 0x42, periodUs := 1000, input := 2, actuator := 2, fixed := true, st := .closed }
  else if n < 11 then
    { base with kp := 0x0CCD, ki := 0x21, kd := 0x3333, dAlpha := 0x4000, setpoint := q 100, outMin := 0x199A,
                outMax := q 1, output := q 1, integ := q 1 * 65536, periodUs := 10000, input := n, actuator := n,
                group := 2, pid := true, st := .closed }
  else if n = 11 then
    { base with kp := 0x028F, ki := 0x83, setpoint := q 72, outMin := 0x3333, outMax := q 1, output := q 1,
                integ := q 1 * 65536, periodUs := 1000, input := 11, actuator := 11, group := 2, st := .closed }
  else base

/-- A trace buffer at reset. -/
def Trace.reset : Trace :=
  { armId := 0, st := .idle, slot := 0, trigger := 0, cont := false, decim := 1, pre := 0, thresh := 0, skip := 0,
    samples := [], trigAt := 0, armSeq := 0 }

/-- A DRAM channel before training. -/
def DChan.reset : DChan :=
  { spd := none, trained := false, passing := none, rate := 3200, shadow := 3200, drift64 := 0, hot := [], banks := [], openRows := [],
    selfRefresh := false, resetLow := true, failed := false, fixes := [], bursts := [], warned := [], bad := [],
    patrolRead := 0, patrolFix := [], patrolPast := 0 }

/-- A table with the same key range for every entry. -/
def tabOf {α : Type} (n : Nat) (f : Nat → α) : Tab α := (List.range n).map (fun i => (i, f i))

/-- The machine right after power-on reset, with no command waiting. -/
def State.reset : State :=
  { dp := Dp.reset,
    clk := { time := 0, boot := 1, frac64 := 0, ebbCount := 0, x32 := .crystal, pin := none, pinErr := 0,
             lostAt := none },
    pwr := Pwr.reset, boot := Boot.reset, par := { value := [], pend := [] }, sec := Sec.reset, bed := Bed.reset,
    dram := { chans := tabOf 4 (fun _ => DChan.reset), rate := 3200 },
    pads := { banks := tabOf 32 Pad.reset, neapExit := none },
    integ := { arms := [], nextArm := 1, dramWin := [], padWin := [], dramBad := [], padBad := [], pages := [],
               cws := [], diagFixed := 0, diagBad := 0 },
    tide := { loops := tabOf 32 Loop.shipped, traces := tabOf 4 (fun _ => Trace.reset), nextArm := 1, zones := [] },
    tap := { drive := none },
    pending := [] }

end Sys2Proof.Machine
end

