-- ==== Sys2Proof/Machine/Ops.lean ====
section
/-! DEFINITION. Shared operations over the state: parameters, the read-only environment of the data path, outputs,
counters, the Strandline log, event causes and MSI-X, byte windows, free values. -/

namespace Sys2Proof.Machine

/-! ## Parameters (Table 11-12) -/

/-- Authority classes (Table 11-13). -/
inductive Auth where
  | q | e | h | lp | ls | m | d | f
deriving DecidableEq, Repr

/-- A row of Table 11-12. `steps` lists the values of a step list; effect 0 immediately, 1 Neap exit, 2 core reset. -/
structure ParamDef where
  id      : Nat
  type    : Nat
  min     : Nat
  max     : Nat
  steps   : List Nat
  default : Nat
  effect  : Nat
  persist : Bool
  shoal   : Bool
  auth    : Auth
deriving DecidableEq, Repr

/-- The rate steps of R78, highest first. -/
def kilnSteps : List Nat := [4800, 4000, 3600, 3200, 2400, 1600, 1200, 800, 400, 200]

/-- Table 11-12, in ascending ID order. -/
def paramTable : List ParamDef := [
  ⟨0x0101, 1, 100, 60000, [], 5000, 0, true, false, .h⟩,
  ⟨0x0301, 1, 8, 64, [], 32, 0, true, false, .h⟩,
  ⟨0x0302, 1, 500, 50000, [], 2000, 0, true, false, .h⟩,
  ⟨0x0303, 1, 1, 1000, [], 5, 0, true, false, .h⟩,
  ⟨0x0304, 1, 25, 500, [], 50, 0, true, false, .h⟩,
  ⟨0x0305, 1, 100, 2000, [], 400, 0, true, false, .h⟩,
  ⟨0x0306, 1, 7, 365, [], 90, 0, true, false, .h⟩,
  ⟨0x0307, 1, 100, 300, [], 150, 2, true, false, .h⟩,
  ⟨0x0401, 3, 200, 4800, kilnSteps, 4800, 2, true, false, .h⟩,
  ⟨0x0501, 1, 40, 160, [], 120, 0, true, false, .h⟩,
  ⟨0x0601, 1, 2, 16, [], 6, 0, true, true, .ls⟩,
  ⟨0x0602, 1, 0, 100, [], 2, 0, true, true, .ls⟩,
  ⟨0x0603, 1, 100, 10000, [], 500, 0, true, true, .ls⟩,
  ⟨0x0604, 1, 1, 78, [], 30, 0, true, true, .ls⟩,
  ⟨0x0605, 2, 0, 1, [], 1, 0, true, true, .ls⟩,
  ⟨0x0606, 1, 1, 25, [], 5, 0, true, true, .ls⟩,
  ⟨0x0607, 1, 1, 365, [], 28, 0, true, true, .ls⟩,
  ⟨0x0608, 1, 50, 1000, [], 200, 0, true, true, .ls⟩,
  ⟨0x0901, 1, 70, 100, [], 100, 0, true, false, .m⟩,
  ⟨0x0902, 4, 0x18000, 0x40000, [], 0x18000, 0, true, false, .m⟩,
  ⟨0x0C01, 3, 3200, 8800, [3200, 4800, 6400, 8800], 8800, 2, true, false, .h⟩,
  ⟨0x0C02, 1, 0, 10000, [], 200, 1, true, false, .h⟩,
  ⟨0x0E01, 1, 50, 100000, [], 500, 0, true, false, .m⟩,
  ⟨0x0E02, 1, 10, 10000, [], 100, 0, true, false, .m⟩,
  ⟨0x0E03, 1, 2900, 5200, [], 4400, 0, true, false, .m⟩,
  ⟨0x0E04, 1, 30, 72, [], 72, 0, false, false, .m⟩,
  ⟨0x0E05, 1, 1, 168, [], 24, 0, true, false, .m⟩]

/-- The row of a parameter ID. -/
def paramDef (id : Nat) : Option ParamDef := paramTable.find? (fun p => p.id = id)

/-- The default of a parameter. -/
def paramDefault (id : Nat) : Nat := ((paramDef id).map ParamDef.default).getD 0

/-- VALUE of a parameter: the registry's for a shoal parameter (R222), else the device's own. -/
def paramVal (p : Par) (reg : Registry) (id : Nat) : Nat :=
  match paramDef id with
  | none => 0
  | some r => if r.shoal then reg.params.get r.default id else p.value.get r.default id

/-! ## The environment of the data path -/

/-- What the data path reads of the rest of the device in one step. -/
structure Env where
  now     : Nat
  boot    : Nat
  rank    : Nat
  serial  : Word
  bifurc  : Bool
  gradeX  : Bool
  fw      : Bool
  ready   : Bool
  /-- READY, or recovery has run and the erases that READY waits for go on (R144). -/
  flash   : Bool
  readyAt : Nat
  settled : Bool
  safe    : Bool
  fatal   : Bool
  power   : PState
  /-- Last Tide runs, or has ended and the device waits. -/
  tide    : Bool
  par     : Par
  /-- The at-rest key of slot 0 and its generation (R434). -/
  atRest  : List Byte
  keyGen  : Nat
  /-- End of the lease of at-rest counter values recorded in an anchor (R434). -/
  nonceEnd : Nat
  dramBytes : Nat
  /-- Bytes of scratchpad that serve as write staging (Table 14-4). -/
  staging : Nat
  tj      : Int
  vinMv   : Nat
  lane    : Bool
  /-- Sequence of the newest anchor. -/
  anchorSeq : Nat
deriving DecidableEq, Repr

/-- VALUE of a parameter as the data path sees it. -/
def Env.param (e : Env) (d : Dp) (id : Nat) : Nat := paramVal e.par d.sh.reg id

/-- VALUE of a parameter of the device. -/
def State.param (s : State) (id : Nat) : Nat := paramVal s.par s.dp.sh.reg id

/-- Capacity of one DRAM channel in bytes by component density and ranks (Table 14-1); 0 for another configuration. -/
def spdBytes (x : Spd) : Nat :=
  if x.density = 16 ∧ x.ranks = 1 then 32 * gib
  else if x.density = 16 ∧ x.ranks = 2 then 64 * gib
  else if x.density = 24 ∧ x.ranks = 1 then 48 * gib
  else if x.density = 32 ∧ x.ranks = 1 then 64 * gib
  else 0

/-- Installed DRAM in bytes. -/
def Dram.bytes (d : Dram) : Nat :=
  d.chans.foldl (fun n c => n + ((c.2.spd.map spdBytes).getD 0)) 0

/-- Write staging: the active banks of that class, 2 MiB each (Table 14-4). -/
def Pads.staging (p : Pads) : Nat := (p.banks.filter (fun x => x.2.owner = .wstage && x.2.st = .active)).length * (2 * mib)

/-- The environment of a step. -/
def State.env (s : State) : Env :=
  { now := s.clk.time, boot := s.clk.boot, rank := s.boot.straps.rank.val, serial := s.boot.serial,
    bifurc := s.boot.straps.bifurc, gradeX := s.boot.gradeX, fw := s.boot.fw, ready := s.boot.ready, flash := s.boot.ready || s.boot.recovered,
    readyAt := s.boot.readyAt, settled := s.boot.settled, safe := s.boot.safe, fatal := s.boot.fatal,
    power := s.pwr.state, tide := s.pwr.lt.isSome || s.pwr.waiting, par := s.par,
    atRest := (s.sec.slots.find 0).elim [] KeySlot.key,
    keyGen := (s.sec.slots.find 0).elim 0 KeySlot.gen, nonceEnd := (s.sec.slots.find 0).elim 0 KeySlot.lease,
    dramBytes := s.dram.bytes, staging := s.pads.staging, tj := s.pwr.tj,
    vinMv := s.pwr.vinMv, lane := s.pwr.vccqfOk,
    anchorSeq := (s.bed.anchors.head?.map Anchor.seqn).getD 0 }

/-- Change the data path by a function of the environment. -/
def State.onDp (s : State) (f : Env → Dp → Dp) : State := { s with dp := f s.env s.dp }

/-! ## Accesses to working memory (R474, R484) -/

/-- A request joins the DRAM scheduler's queue: its class (R474), and what it is for: 0 the map, 1 greenware overflow. -/
def Dp.askDram (cls kind pool lb : Nat) (write : Bool) (d : Dp) : Dp :=
  { d with mem := { d.mem with
      dram := d.mem.dram ++ [{ cls := cls, addr := Config.dramPlace kind pool lb, write := write, passed := 0, waited := 0 }] } }

/-- An access joins the queue of a scratchpad bank of a class: the master as Table 14-5 lists it, and the bytes it moves. -/
def Dp.askPad (o : Owner) (master bytes : Nat) (d : Dp) : Dp :=
  { d with mem := { d.mem with
      pads := d.mem.pads ++ [{ owner := o, pick := d.mem.picks, master := master, lines := divUp bytes 64, begun := false, counted := false }]
      picks := d.mem.picks + 1 } }

/-! ## Outputs, counters, free values -/

/-- Put one output at the end of the device's outputs. -/
def put (o : Output) (d : Dp) : Dp := { d with io := { d.io with out := d.io.out ++ [o] } }

/-- Add to a counter of Table 17-8 (subsystem, index); it saturates at 64 bits (R555). -/
def count (ss i n : Nat) (d : Dp) : Dp :=
  { d with io := { d.io with
      counters := d.io.counters.put (ss * 256 + i) (satAdd (2 ^ 64 - 1) (d.io.counters.get 0 (ss * 256 + i)) n) } }

/-- Draw a free value's index: the present count, and the state with the count advanced (notes/assumptions/3.md). -/
def draw (d : Dp) : Nat × Dp := (d.io.fresh, { d with io := { d.io with fresh := d.io.fresh + 1 } })

/-! ## Strandline (R546 to R550) -/

/-- ARGS from up to four 32-bit words, the first in bits [127:96] (R556). -/
def args (l : List Nat) : BitVec 128 :=
  BitVec.ofNat 128 ((l.getD 0 0 % 2 ^ 32) * 2 ^ 96 + (l.getD 1 0 % 2 ^ 32) * 2 ^ 64 +
    (l.getD 2 0 % 2 ^ 32) * 2 ^ 32 + l.getD 3 0 % 2 ^ 32)

/-- ARGS with one 64-bit value in bits [127:64] (R547, R518). -/
def args64 (hi lo : Nat) : BitVec 128 := BitVec.ofNat 128 ((hi % 2 ^ 64) * 2 ^ 64 + lo % 2 ^ 64)

/-- The ring holds 32,768 records (R547). -/
def ringMax : Nat := 32768

/-- Write a Strandline record (R546 to R550): a record of severity error or above alerts SMBus until it is read or
overwritten, and one of severity critical or above is told to the ring in heartbeats (Table 8-6). -/
def logAt (now : Nat) (code sev src : Nat) (a : BitVec 128) (d : Dp) : Dp :=
  let r : LogRec := ⟨code, sev, src, now, d.io.nextSeq, a⟩
  let excess := d.io.ring.length + 1 - ringMax
  let gone := (d.io.ring.take excess).map LogRec.seqn
  { d with io := { d.io with
      ring := (d.io.ring ++ [r]).drop excess
      nextSeq := (d.io.nextSeq + 1) % 2 ^ 32
      alert := (if 4 ≤ sev then d.io.alert ++ [r.seqn] else d.io.alert).filter (fun q => !gone.contains q)
      critAt := if 5 ≤ sev then some now else d.io.critAt } }

/-- Sources of Strandline records (Table 17-4). -/
def srcAlwaysOn : Nat := 0x00
def srcFirmware : Nat := 0x01
def srcSaggar : Nat := 0x20
def srcKiln : Nat := 0x40
def srcHost : Nat := 0x41
def srcCauseway : Nat := 0x42
def srcDram : Nat := 0x43
def srcTide : Nat := 0x44

/-- Write a record from the data path. -/
def logE (e : Env) (code sev src : Nat) (a : List Nat) (d : Dp) : Dp := logAt e.now code sev src (args a) d

/-- Write a record from any unit. -/
def State.log (s : State) (code sev src : Nat) (a : List Nat) : State :=
  s.onDp (fun e => logE e code sev src a)

/-! ## Host ports -/

/-- The record of a port. -/
def Dp.port (d : Dp) : PortId → HostPort
  | .a => d.hp.a
  | .b => d.hp.b

/-- Replace the record of a port. -/
def Dp.setPort (d : Dp) : PortId → HostPort → Dp
  | .a, h => { d with hp := { d.hp with a := h } }
  | .b, h => { d with hp := { d.hp with b := h } }

/-- Change the record of a port. -/
def Dp.onPort (d : Dp) (p : PortId) (f : HostPort → HostPort) : Dp := d.setPort p (f (d.port p))

/-- The port's DMA engine may send a memory request: link up, D0, Bus Master Enable, and no Last Tide (R328, R511). -/
def dmaOk (e : Env) (d : Dp) (p : PortId) : Bool :=
  (d.port p).linkUp && (d.port p).bme && !e.tide

/-- Signal an MSI-X vector of a port: the message goes out, or its PBA bit is set while the vector is masked, in D3hot,
or while Bus Master Enable is clear (R304, R323, R328). -/
def msix (e : Env) (p : PortId) (v : Nat) (d : Dp) : Dp :=
  let h := d.port p
  if h.msixEnable then
    if dmaOk e d p && !h.d3 && h.unmasked.contains v then put (.msix p v) d
    else d.setPort p { h with pba := if h.pba.contains v then h.pba else h.pba ++ [v] }
  else d

/-- The device vector of a port. -/
def devVector : Nat := 2048

/-- Bits of EVT_CAUSE (Table 9-13). -/
def evReady : Nat := 0
def evTimeGap : Nat := 1
def evMailbox : Nat := 2
def evFirmware : Nat := 3
def evErrorLog : Nat := 4
def evLink : Nat := 5
def evMedia : Nat := 6
def evReserve : Nat := 7
def evSecureDiscard : Nat := 8
def evSteward : Nat := 9
def evMember : Nat := 10
def evPool : Nat := 11
def evSoftLimit : Nat := 12
def evHoldup : Nat := 13
def evThermal : Nat := 14
def evFatal : Nat := 15

/-- Set a cause bit of one port; going from 0 to 1 unmasked, it signals the device vector (R304). -/
def causePort (e : Env) (bit : Nat) (p : PortId) (d : Dp) : Dp :=
  let h := d.port p
  if h.fitted then
    let rose := !h.evtCause.getLsbD bit
    let d := d.setPort p { h with evtCause := h.evtCause ||| BitVec.twoPow 16 bit }
    if rose && !h.evtMask.getLsbD bit && h.devVecEn then msix e p devVector d else d
  else d

/-- Set a cause bit on every port of the device. -/
def cause (e : Env) (bit : Nat) (d : Dp) : Dp := causePort e bit .b (causePort e bit .a d)

/-- Set a cause bit from any unit. -/
def State.cause (s : State) (bit : Nat) : State := s.onDp (fun e => Machine.cause e bit)

/-! ## Byte windows -/

/-- A window in canonical form: addresses strictly rising, and no byte 0 listed (an unlisted address reads 0). -/
abbrev Memory.wf (m : List Host.Cell) : Prop :=
  m.Pairwise (fun x y => x.1 < y.1) ∧ ∀ c ∈ m, c.2 ≠ 0

/-- The byte at an address of a window. -/
def Memory.read (m : List Host.Cell) (a : Nat) : Byte := Tab.get 0 m a

/-- Write a byte of a window; writing 0 removes its entry. -/
def Memory.write : List Host.Cell → Nat → Byte → List Host.Cell
  | [], a, b => if b = 0 then [] else [(a, b)]
  | (k, v) :: t, a, b =>
    if a < k then (if b = 0 then (k, v) :: t else (a, b) :: (k, v) :: t)
    else if a = k then (if b = 0 then t else (a, b) :: t)
    else (k, v) :: Memory.write t a b

/-- Write bytes of a window from an address on. -/
def Memory.writeBytes : List Host.Cell → Nat → List Byte → List Host.Cell
  | m, _, [] => m
  | m, a, b :: t => Memory.writeBytes (Memory.write m a b) (a + 1) t

/-- Read `n` bytes of a window from an address on. -/
def Memory.readBytes (m : List Host.Cell) (a n : Nat) : List Byte :=
  (List.range n).map (fun i => Memory.read m (a + i))

/-! ## Lists -/

/-- Put an element at the end of a list that lacks it. -/
def addNew {α : Type} [BEq α] (x : α) (l : List α) : List α := if l.contains x then l else l ++ [x]

/-- Take an element out of a list. -/
def without {α : Type} [BEq α] (x : α) (l : List α) : List α := l.filter (fun y => !(y == x))

/-- The element of a list with the least measure, the first on a tie. -/
def leastBy {α : Type} (f : α → Nat) : List α → Option α
  | [] => none
  | x :: t => match leastBy f t with
    | none => some x
    | some y => if f x ≤ f y then some x else some y

/-! ## Zone levers (R420, Table 12-6) -/

/-- Activity fraction of a zone in 2⁻¹⁶. -/
def Dp.act (d : Dp) (z : Nat) : Nat := d.bw.acts.get 65536 z

/-- LDPC, Glaze or Sherd lanes that zone Z4 leaves enabled of a number: x of them, rounded up. -/
def lanesOn (d : Dp) (lanes : Nat) : Nat := (lanes * min 65536 (d.act 4) + 65535) / 65536

/-- What zone Z5 takes off VCORE, in mV: (1 − x) × 0.15 V, and VCORE in Flood after it, from a level of 0.70 to 0.85 V. -/
def vcoreCut (d : Dp) : Nat := (65536 - min 65536 (d.act 5)) * 150 / 65536
def vcoreMv (d : Dp) (level : Nat) : Nat := max 700 (level - vcoreCut d)

/-- Apply a function to each element of a list in turn. -/
def each {α : Type} (l : List α) (f : α → Dp → Dp) (d : Dp) : Dp := l.foldl (fun d x => f x d) d

end Sys2Proof.Machine
end

