-- ==== Sys2Proof/Machine/Layout.lean ====
section
/-! DEFINITION. Layout trees and their arithmetic: parsing of node lists (R388, R191), locate and base (R192), rows
(R193), resident capacity and the map DRAM budget (R42). A tree is held as its striping nodes in depth-first order. -/

namespace Sys2Proof

open Sys2Proof.Machine

/-- A layout: sherd size in blocks, the striping nodes, and its layout generation. -/
structure Lay where
  s       : Nat
  stripes : List Stripe
  gen     : Nat
deriving DecidableEq, Repr

/-- Blocks of an IU by its code (0 to 3: 4, 16, 64, 256 KiB), and of a sherd by its code (0 to 4: 64 to 1,024 KiB). -/
def iuBlocks (code : Nat) : Nat := 4 ^ code
def sherdBlocks (code : Nat) : Nat := 16 * 2 ^ code

/-- UNIT of P and Q (Table 8-3). -/
def unitP : Nat := 14
def unitQ : Nat := 15

/-- Blocks of one row of a striping node (R193). -/
def rowBlocks (s : Nat) (st : Stripe) : Nat := if st.kind = .pq then st.k * s else s

/-- Rows of a striping node. -/
def Stripe.rows (s : Nat) (st : Stripe) : Nat := st.cap / rowBlocks s st

/-- Member-local blocks a striping node places on the rank of each of its leaves (R192). -/
def Stripe.perLeaf (s : Nat) (st : Stripe) : Nat := if st.kind = .pq then st.rows s * s else st.cap

/-- base(n, r) over the striping nodes before n (R192). -/
def baseOn (s : Nat) (before : List Stripe) (r : Nat) : Nat :=
  before.foldl (fun n st => n + (st.ranks.filter (· = r)).length * st.perLeaf s) 0

/-- A member's own key of a member-local block: R192's number in the low 48 bits (Table 2-1 bounds it), above it a mark of the layout,
which alternates with the generation and keeps the entries of a reshape's two layouts apart (notes/assumptions/21.md), and above that
which of the copies on one device it is (R40). -/
def keyBits : Nat := 48
def localBlkOf (key : Nat) : Nat := key % 2 ^ keyBits
def layMark (key : Nat) : Nat := key / 2 ^ keyBits % 2
def copyOf (key : Nat) : Nat := key / 2 ^ (keyBits + 1)
def Lay.off (l : Lay) : Nat := if l.gen % 2 = 1 then 2 ^ keyBits else 0

/-- Where a row lies: the striping nodes before its own, its own, and the row within it. -/
structure RowAt where
  before : List Stripe
  stripe : Stripe
  row    : Nat
deriving DecidableEq, Repr

/-- Find a pool row among striping nodes (R193). -/
def findRow (s : Nat) : List Stripe → List Stripe → Nat → Option RowAt
  | _, [], _ => none
  | before, st :: t, row =>
    if row < st.rows s then some ⟨before, st, row⟩ else findRow s (before ++ [st]) t (row - st.rows s)

/-- The striping node and the row of a pool row. -/
def Lay.at (l : Lay) (row : Nat) : Option RowAt := findRow l.s [] l.stripes row

/-- Rows and blocks of a layout. -/
def Lay.rows (l : Lay) : Nat := l.stripes.foldl (fun n st => n + st.rows l.s) 0
def Lay.cap (l : Lay) : Nat := l.stripes.foldl (fun n st => n + st.cap) 0

/-- A block's place: pool row, data unit, position. -/
structure Place where
  row  : Nat
  unit : Nat
  pos  : Nat
deriving DecidableEq, Repr

/-- The place of block `b` among striping nodes, rows counted from `r0`. -/
def placeIn (s : Nat) : List Stripe → Nat → Nat → Option Place
  | [], _, _ => none
  | st :: t, r0, b =>
    if b < st.cap then
      let w := rowBlocks s st
      some ⟨r0 + b / w, b % w / s, b % s⟩
    else placeIn s t (r0 + st.rows s) (b - st.cap)

/-- The place of a pool LBA (R192). -/
def Lay.place (l : Lay) (lba : Nat) : Option Place := placeIn l.s l.stripes 0 lba

/-- The LBA of a data unit's position, rows counted from `r0` and blocks from `b0`. -/
def lbaIn (s : Nat) : List Stripe → Nat → Nat → Place → Option Nat
  | [], _, _, _ => none
  | st :: t, r0, b0, p =>
    if p.row - r0 < st.rows s then
      if p.unit * s < rowBlocks s st ∧ p.pos < s then
        some (b0 + (p.row - r0) * rowBlocks s st + p.unit * s + p.pos)
      else none
    else lbaIn s t (r0 + st.rows s) (b0 + st.cap) p

/-- The LBA of a data unit's position. -/
def Lay.lba (l : Lay) (p : Place) : Option Nat := lbaIn l.s l.stripes 0 0 p

/-- The child of a PQ node that holds a unit of a row: P moves back one child per row, Q follows P (R192). -/
def pqChild (m row unit : Nat) : Nat :=
  let p := m - 1 - row % m
  if unit = unitP then p else if unit = unitQ then (p + 1) % m else (p + 2 + unit) % m

/-- The ranks and member-local blocks that hold a unit at a position, as `locate` lists them (R192): one, or every copy of a MIRROR. -/
def Lay.locate (l : Lay) (p : Place) : List (Nat × Nat) :=
  match l.at p.row with
  | none => []
  | some a =>
    let rs := if a.stripe.kind = .pq then [a.stripe.ranks.getD (pqChild (a.stripe.k + 2) a.row p.unit) 0] else a.stripe.ranks
    rs.map (fun r => (r, baseOn l.s a.before r + a.row * l.s + p.pos))

/-- The copies of a list of ranks and blocks numbered on each rank: the registry pool's copies that share a device keep apart (R40). -/
def numberCopies : List (Nat × Nat) → List (Nat × Nat) → List (Nat × Nat)
  | _, [] => []
  | seen, h :: t =>
    (h.1, h.2 + (seen.filter (fun x => x.1 = h.1)).length * 2 ^ (keyBits + 1)) :: numberCopies (h :: seen) t

/-- The ranks that hold a unit at a position, each with its own key of the block. -/
def Lay.holders (l : Lay) (p : Place) : List (Nat × Nat) :=
  numberCopies [] ((l.locate p).map (fun h => (h.1, l.off + h.2)))

/-- Units of a row: data units, and P and Q of a PQ row. -/
def Lay.units (l : Lay) (row : Nat) : List Nat :=
  match l.at row with
  | none => []
  | some a => if a.stripe.kind = .pq then List.range a.stripe.k ++ [unitP, unitQ] else [0]

/-- Data units of a row. -/
def Lay.dataUnits (l : Lay) (row : Nat) : List Nat := (l.units row).filter (· < 14)

/-- The row is one of a PQ node. -/
def Lay.isPq (l : Lay) (row : Nat) : Bool := (l.at row).any (fun a => a.stripe.kind = .pq)

/-- The row is one of a MIRROR node. -/
def Lay.isMirror (l : Lay) (row : Nat) : Bool := (l.at row).any (fun a => a.stripe.kind = .mirror)

/-- LBAs of a row. -/
def Lay.rowLbas (l : Lay) (row : Nat) : Option (Nat × Nat) :=
  (l.lba ⟨row, 0, 0⟩).map (fun b => (b, ((l.at row).map (fun a => rowBlocks l.s a.stripe)).getD 0))

/-- Ranks named in a layout, without repeats. -/
def Lay.ranks (l : Lay) : List Nat := (l.stripes.flatMap Stripe.ranks).eraseDups

/-- Place of a member-local block of a rank: pool row, unit, position (the inverse of `holders`). -/
def localIn (s : Nat) (r : Nat) : List Stripe → Nat → Nat → Option Place
  | [], _, _ => none
  | st :: t, r0, b =>
    let here := (st.ranks.filter (· = r)).length * st.perLeaf s
    if b < here then
      let b := b % st.perLeaf s
      let row := b / s
      if st.kind = .pq then
        let m := st.k + 2
        let c := (st.ranks.findIdx (· = r))
        let p := m - 1 - row % m
        let u := if c = p then unitP else if c = (p + 1) % m then unitQ else (c + 2 * m - p - 2) % m
        some ⟨r0 + row, u, b % s⟩
      else some ⟨r0 + row, 0, b % s⟩
    else localIn s r t (r0 + st.rows s) (b - here)

/-- Place of a member-local block of a rank. -/
def Lay.ofLocal (l : Lay) (r b : Nat) : Option Place := localIn l.s r l.stripes 0 (localBlkOf b)

/-! ## Resident capacity and the map budget (R42) -/

/-- Member-resident blocks of a layout on a rank. -/
def Lay.resident (l : Lay) (r : Nat) : Nat := baseOn l.s l.stripes r

/-- map_dram in bytes (R42) of a layout with IU code `iu` on a rank. -/
def mapDram (l : Lay) (iu r : Nat) : Nat :=
  divUp (6 * divUp (l.resident r * 4096) (iuBlocks iu * 4096) * 102) 100

/-! ## Parsing of node lists (R388) and the rules of R191 -/

/-- What parsing a subtree gives: striping nodes, depth, and the nodes left. -/
structure Parsed where
  stripes : List Stripe
  depth   : Nat
  rest    : List Node
deriving DecidableEq, Repr

/-- `n` LEAF children with CHILD_CAP 0: their ranks and the nodes left. -/
def takeLeaves : Nat → List Node → Option (List Nat × List Node)
  | 0, l => some ([], l)
  | n + 1, x :: t =>
    if x.kind = .leaf ∧ x.childCap = 0 then
      (takeLeaves n t).map (fun q => (x.arg :: q.1, q.2))
    else none
  | _ + 1, [] => none

/-- A striping node of `cap` blocks, rounded up to whole rows (R32, R388). -/
def mkStripe (s : Nat) (kind : NodeKind) (k : Nat) (ranks : List Nat) (cap : Nat) : Stripe :=
  let w := if kind = .pq then k * s else s
  ⟨kind, k, ranks, roundUp cap w⟩

mutual
/-- Parse one node; `cap` is the capacity of a node that is not CONCAT. Fuel bounds the nesting. -/
def parseNode : Nat → Nat → Nat → List Node → Option Parsed
  | 0, _, _, _ => none
  | _ + 1, _, _, [] => none
  | f + 1, s, cap, x :: t =>
    match x.kind with
    | .leaf => some ⟨[mkStripe s .leaf 0 [x.arg] cap], 1, t⟩
    | .mirror =>
      if x.arg = 2 ∨ x.arg = 3 then
        (takeLeaves x.arg t).map (fun q => ⟨[mkStripe s .mirror 0 q.1 cap], 2, q.2⟩)
      else none
    | .pq =>
      if 2 ≤ x.arg ∧ x.arg ≤ 14 then
        (takeLeaves (x.arg + 2) t).map (fun q => ⟨[mkStripe s .pq x.arg q.1 cap], 2, q.2⟩)
      else none
    | .concat => if 1 ≤ x.arg then parseKids f s x.arg t else none
/-- Parse `n` children of a CONCAT node: a child that is CONCAT carries CHILD_CAP 0, every other a capacity. -/
def parseKids : Nat → Nat → Nat → List Node → Option Parsed
  | 0, _, _, _ => none
  | _ + 1, _, 0, l => some ⟨[], 1, l⟩
  | _ + 1, _, _ + 1, [] => none
  | f + 1, s, n + 1, x :: t =>
    if (x.kind = .concat) = (x.childCap = 0) then
      match parseNode f s x.childCap (x :: t) with
      | none => none
      | some a =>
        match parseKids f s n a.rest with
        | none => none
        | some b => some ⟨a.stripes ++ b.stripes, max (a.depth + 1) b.depth, b.rest⟩
    else none
end

/-- A whole node list: the striping nodes and the depth. The root carries CHILD_CAP 0. -/
def parseTree (s cap : Nat) (nodes : List Node) : Option (List Stripe × Nat) :=
  match nodes with
  | [] => none
  | x :: _ =>
    if x.childCap = 0 then
      match parseNode (2 * nodes.length + 2) s cap nodes with
      | some ⟨st, d, []⟩ => some (st, d)
      | _ => none
    else none

/-- No repeats in a list of numbers. -/
def distinct (l : List Nat) : Bool := l.eraseDups.length = l.length

/-- The rules of R191 beyond the shape: member ranks, distinct leaves of a MIRROR or PQ node, k+2 within the shoal
size, depth within SHOAL_TREE_DEPTH, the IU within the sherd. -/
def layoutOk (reg : Registry) (depthMax iu sherd : Nat) (st : List Stripe) (depth : Nat) : Bool :=
  let ranks := reg.members.map MemberRec.rank
  st.all (fun x => x.ranks.all (fun r => ranks.contains r) && distinct x.ranks &&
    (x.kind != .pq || x.k + 2 ≤ ranks.length)) &&
  depth ≤ depthMax && iuBlocks iu ≤ sherdBlocks sherd

/-- The layout of a pool record. -/
def PoolRec.lay (p : PoolRec) : Lay := ⟨sherdBlocks p.sherd, p.stripes, p.layoutGen⟩

/-- The new layout of a pool under reshape, of the next layout generation. -/
def PoolRec.newLay (p : PoolRec) (r : Reshape) : Lay := ⟨sherdBlocks r.sherd, r.stripes, p.layoutGen + 1⟩

/-- The layout of a generation of a pool. -/
def PoolRec.layGen (p : PoolRec) (gen : Nat) : Lay :=
  match p.reshape with
  | some r => if gen = p.layoutGen then p.lay else p.newLay r
  | none => p.lay

/-- The layout generation of a member-local block. -/
def PoolRec.genOf (p : PoolRec) (lb : Nat) : Nat :=
  if p.reshape.isSome && layMark lb != p.layoutGen % 2 then p.layoutGen + 1 else p.layoutGen

/-- The layout that holds an LBA under a reshape's tidemark (R216). -/
def PoolRec.layOf (p : PoolRec) (lba : Nat) : Lay :=
  match p.reshape with
  | none => p.lay
  | some r =>
    match (p.newLay r).place lba with
    | some q => if q.row < r.tidemark then p.newLay r else p.lay
    | none => p.lay

/-- Ranks that hold a leaf of a pool, in either layout. -/
def PoolRec.ranks (p : PoolRec) : List Nat :=
  (p.lay.ranks ++ ((p.reshape.map (fun r => (p.newLay r).ranks)).getD [])).eraseDups

/-- The record of a pool. -/
def Registry.pool (r : Registry) (h : Nat) : Option PoolRec := r.pools.find? (fun p => p.handle = h)

/-- Replace the record of a pool, or add it. -/
def Registry.setPool (r : Registry) (p : PoolRec) : Registry :=
  if r.pools.any (fun x => x.handle = p.handle) then
    { r with pools := updateWhere (fun x => x.handle = p.handle) (fun _ => p) r.pools }
  else { r with pools := r.pools ++ [p] }

/-- The record of a member. -/
def Registry.member (r : Registry) (rank : Nat) : Option MemberRec := r.members.find? (fun m => m.rank = rank)

/-- Map DRAM of every pool on a rank, one pool's layout replaced by another (R42). -/
def mapTotal (reg : Registry) (handle : Nat) (l : Lay) (iu r : Nat) : Nat :=
  mapDram l iu r + ((reg.pools.filter (fun p => p.handle != handle)).foldl
    (fun n p => n + mapDram p.lay p.iu r) 0)

/-- Resident bytes of every pool on a rank, one pool's layout replaced by another. -/
def residentTotal (reg : Registry) (handle : Nat) (l : Lay) (r : Nat) : Nat :=
  4096 * (l.resident r + ((reg.pools.filter (fun p => p.handle != handle)).foldl
    (fun n p => n + p.lay.resident r) 0))

/-- Resident bytes of every pool on a rank. -/
def residentOf (reg : Registry) (r : Nat) : Nat := 4096 * (reg.pools.foldl (fun n p => n + p.lay.resident r) 0)

/-- Names a row in a list that may hold rows of both layouts of a reshape. -/
def rowKey (l : Lay) (row : Nat) : Nat := 2 * row + l.gen % 2

/-- The region of an LBA (R210). -/
def regionOf (lba : Nat) : Nat := lba / 16384

/-- The regions a row's data LBAs touch (R210). -/
def PoolRec.rowRegions (_p : PoolRec) (l : Lay) (row : Nat) : List Nat :=
  match l.rowLbas row with
  | none => []
  | some (b, n) => (List.range (regionOf (b + n - 1) - regionOf b + 1)).map (fun i => regionOf b + i)

end Sys2Proof
end

