-- ==== Sys2Proof/Machine/Deltas.lean ====
section
/-! DEFINITION. The map's entries and their delta records (R53, R55, R73 to R76). -/

namespace Sys2Proof.Machine

/-- Segment of a member-local block: 4,096 IUs in the member's own order (chapter 2, Map residency). -/
def segOf (iu b : Nat) : Nat := b / (4096 * iuBlocks iu)

/-- IU code of a pool; 0 for the registry pool. -/
def iuOf (d : Dp) (pool : Nat) : Nat := ((d.sh.reg.pool pool).map PoolRec.iu).getD 0

/-- The current location of a member-local block. -/
def Dp.entry (d : Dp) (pool b : Nat) : Option Loc :=
  (d.map.entries.find? (fun x => x.1 = pool && x.2.1 = b)).map (fun x => x.2.2)

/-- Bytes of a delta record (chapter 2, Map strand and checkpoints). -/
def deltaSize : Nat := 16

/-- Write the delta record of a block; the blocks of one IU share a record of 16 bytes. -/
def addDelta (k : DeltaKind) (pool b seqn : Nat) (l : Option Loc) (d : Dp) : Dp :=
  let n := d.map.nextDelta
  { d with map := { d.map with
      deltas := d.map.deltas ++ [{ num := n, kind := k, pool := pool, localBlk := b, seqn := seqn, loc := l }]
      nextDelta := n + 1
      deltaBytes := d.map.deltaBytes + (if b % iuBlocks (iuOf d pool) = 0 then deltaSize else 0) } }

/-- Set or clear a block's current entry, which dirties its segment (R74). -/
def setEntry (pool b : Nat) (l : Option Loc) (d : Dp) : Dp :=
  let rest := d.map.entries.filter (fun x => !(x.1 = pool && x.2.1 = b))
  let d := d.askDram 2 0 pool b true
  { d with map := { d.map with
      dirty := addNew (pool, segOf (iuOf d pool) b) d.map.dirty
      entries := match l with
        | some l => rest ++ [(pool, b, l)]
        | none => rest } }

/-- Free the entries that a test picks, each with its delta record. -/
def freeEntries (p : Nat → Nat → Bool) (d : Dp) : Dp :=
  (d.map.entries.filter (fun x => p x.1 x.2.1)).foldl
    (fun d x => addDelta .freed x.1 x.2.1 0 none (setEntry x.1 x.2.1 none d)) d

/-- The entries, with journal sequences, that deltas make of a checkpoint's, in order of writing: a pending record counts where its
ticket committed (R75, R76), and none overrides a higher sequence (R53); a freed block starts anew. -/
def replayDelta (committed : Nat → Nat → Bool) (l : List (Nat × Nat × Nat × Option Loc)) (x : Delta) :
    List (Nat × Nat × Nat × Option Loc) :=
  let rest := l.filter (fun y => !(y.1 = x.pool && y.2.1 = x.localBlk))
  let was := ((l.find? (fun y => y.1 = x.pool && y.2.1 = x.localBlk)).map (fun y => y.2.2.1)).getD 0
  match x.kind with
  | .freed => rest
  | .moved => if was ≤ x.seqn then rest ++ [(x.pool, x.localBlk, x.seqn, x.loc)] else l
  | .pending =>
    if committed x.pool x.seqn && was ≤ x.seqn then rest ++ [(x.pool, x.localBlk, x.seqn, x.loc)] else l

end Sys2Proof.Machine
end

