-- ==== Sys2Proof/Machine/Seal.lean ====
section
/-! DEFINITION. The codeword (R150 to R158): sealing a block, opening it, the checks of a decode, and the XOR of codewords that a
die stripe's XOR page holds (R127). -/

namespace Sys2Proof.Machine

/-- Bytes of a codeword and of a plane page (Table 5-2, R95). -/
def cwBytes : Nat := 4672
def pageBytes : Nat := 18688

/-- The 64-bit back-pointer (Table 5-3). -/
def backPtr (pool kind addr : Nat) : BitVec 64 :=
  BitVec.ofNat 64 (pool % 256 * 2 ^ 56 + kind % 16 * 2 ^ 52 + addr % 2 ^ 48)

/-- The 12 bytes of the IV: COUNTER, then KEY_GEN, each little-endian (R433, R434). -/
def nonceBytes (gen counter : Nat) : List Byte := leBytes 8 counter ++ leBytes 4 gen

/-- The bytes of bits [33055:0] of a codeword, lowest first: what LDPC_PARITY covers (Table 5-2). -/
def coveredBytes (x : Sealed) : List Byte :=
  x.dataCt ++ leBytes 8 x.tagCt.toNat ++ leBytes 8 x.gcmTag.toNat ++ leBytes 12 x.nonce.toNat ++ leBytes 8 x.backPtr.toNat

/-- The codeword with LDPC parity over it. -/
def encodeCw (x : Sealed) : Sealed := { x with parity := bytesAt (Config.ldpcParity (coveredBytes x)) 0 540 }

/-- REF_TAG and APP_TAG as the seal takes them (R151). -/
def tagBytes (b : Blk) : List Byte := leBytes 4 (tagRef b.tag).toNat ++ leBytes 4 (tagApp b.tag).toNat

/-- Seal a block (R151): AES-256-GCM over the data, REF_TAG and APP_TAG, with BACK_POINTER authenticated beside them; the
leftmost 64 bits of the tag are kept, the guard is not. -/
def sealBlk (key : List Byte) (gen counter : Nat) (ptr : BitVec 64) (b : Blk) : Sealed :=
  let iv := nonceBytes gen counter
  let r := gcm key iv (leBytes 8 ptr.toNat) (b.data ++ tagBytes b) true
  let n := b.data.length
  encodeCw
    { parity := [], backPtr := ptr, nonce := BitVec.ofNat 96 (leNat iv), gcmTag := BitVec.ofNat 64 (fieldAt r.2 0 8),
      tagCt := BitVec.ofNat 64 (fieldAt r.1 n 8), dataCt := r.1.take n }

/-- Open a codeword: its 4,104 bytes of plaintext, where the seal verifies under the key. -/
def openCw (key : List Byte) (x : Sealed) : Option (List Byte) :=
  let r := gcm key (leBytes 12 x.nonce.toNat) (leBytes 8 x.backPtr.toNat) (x.dataCt ++ leBytes 8 x.tagCt.toNat) false
  if BitVec.ofNat 64 (fieldAt r.2 0 8) = x.gcmTag then some r.1 else none

/-- The block that a codeword's plaintext stands for: the guard is computed afresh over the data of a data block (R151); a parity
unit carries none (R195). -/
def plainBlk (kind : Nat) (plain : List Byte) : Blk :=
  let n := plain.length - 8
  let data := plain.take n
  let tags (g : BitVec 64) : BitVec 128 := mkTag (BitVec.ofNat 32 (fieldAt plain (n + 4) 4)) (BitVec.ofNat 32 (fieldAt plain n 4)) g
  ⟨data, tags (if kind = 0 then guard64 data else 0)⟩

/-- What a decode comes to once the syndrome is zero (R155, R156): the seal does not verify; the data is authentic and in the
wrong place; or it is the block that the read expects. -/
inductive Opened where
  | unsealed
  | misplaced (found : BitVec 64)
  | good (b : Blk)
deriving DecidableEq, Repr

/-- The checks of R155 on a decoded codeword, for the back-pointer that the read expects. -/
def checkCw (key : List Byte) (want : BitVec 64) (x : Sealed) : Opened :=
  match openCw key x with
  | none => .unsealed
  | some plain =>
    let b := plainBlk (bitsOf want.toNat 55 52) plain
    if x.backPtr = want && (bitsOf want.toNat 55 52 != 0 || (tagRef b.tag).toNat = bitsOf want.toNat 31 0) then .good b
    else .misplaced x.backPtr

/-- The XOR of two codewords, field by field: a codeword again, since the code is linear (Table 5-3). -/
def xorSealed (a b : Sealed) : Sealed :=
  { parity := xorBytes a.parity b.parity, backPtr := a.backPtr ^^^ b.backPtr, nonce := a.nonce ^^^ b.nonce,
    gcmTag := a.gcmTag ^^^ b.gcmTag, tagCt := a.tagCt ^^^ b.tagCt, dataCt := xorBytes a.dataCt b.dataCt }

/-- The codeword of zeros. -/
def zeroSealed : Sealed := { parity := [], backPtr := 0, nonce := 0, gcmTag := 0, tagCt := 0, dataCt := [] }

end Sys2Proof.Machine
end

