-- ==== Sys2Proof/Machine/Kiln.lean ====
section
/-! DEFINITION. Kiln's scheduler: per-die queues, which operation a die starts next (R92 to R94, R101, R125, R130, R137,
Table 3-6), the channel bus (R96), cache sequences and suspends (R79, R97 to R100), read offsets (R105), channel pins (R114), and
the figures of the fitted flash (R80, R117). -/

namespace Sys2Proof.Machine

/-- Key of a die: channel × 16 + die. -/
def dieKey (chan die : Nat) : Nat := chan * 16 + die

/-- A die nothing is known of. -/
def freshDie : Die :=
  { present := false, fenced := false, setting := 0, queue := [], running := none, suspended := none, timeouts := [],
    cut := none, zqAt := 0, zqTj := 0, eraseDue := [], busy := [], lastP1 := none }

/-- A channel before bring-up: its dies stand in their power-on mode (Table 3-1). -/
def freshChan : Chan :=
  { mode := .powerOn, trained := false, opened := false, rate := 200, training := none, failed := false, fenced := false,
    trainTj := 0, driftAt := none, offBus := none, recheck := false, bus := none, lastDie := 0, attempt := [] }

def Dp.die (d : Dp) (c n : Nat) : Die := d.kiln.dies.get freshDie (dieKey c n)
def Dp.setDie (d : Dp) (c n : Nat) (x : Die) : Dp :=
  { d with kiln := { d.kiln with dies := d.kiln.dies.put (dieKey c n) x } }
def Dp.chan (d : Dp) (c : Nat) : Chan := d.kiln.chans.get freshChan c
def Dp.setChan (d : Dp) (c : Nat) (x : Chan) : Dp :=
  { d with kiln := { d.kiln with chans := d.kiln.chans.put c x } }

/-- Kiln before the bring-up of a start: what is fenced stays fenced (R113), and all else of dies and channels is gone. -/
def Kiln.restart (k : Kiln) : Kiln :=
  { Kiln.reset with
    profile := k.profile
    chans := k.chans.map (fun x => (x.1, { freshChan with fenced := x.2.fenced }))
    dies := k.dies.map (fun x => (x.1, { freshDie with fenced := x.2.fenced })) }

/-- The profile lists a feature (R79). -/
def Profile.lists (p : Profile) (f : Feature) : Bool := p.features.contains f

/-- The channel is in service: trained, open to the scheduler, neither failed nor fenced. -/
def chanGood (d : Dp) (c : Nat) : Bool :=
  (d.chan c).trained && (d.chan c).opened && !(d.chan c).failed && !(d.chan c).fenced

/-- The die is in service. -/
def dieGood (d : Dp) (c n : Nat) : Bool :=
  chanGood d c && (d.die c n).present && !(d.die c n).fenced && !d.med.diesRetired.contains (c, n)

/-- The die's pages can be sensed: its channel's training holds (R90). -/
def dieReads (d : Dp) (c n : Nat) : Bool := dieGood d c n && !(d.chan c).recheck

/-- Good channels in ascending order (R126). -/
def goodChans (d : Dp) : List Nat := (List.range 64).filter (chanGood d)

/-- Good dies of a channel. -/
def goodDies (d : Dp) (c : Nat) : List Nat := (List.range 16).filter (dieGood d c)

/-- Good dies of the member. -/
def dieCount (d : Dp) : Nat := ((goodChans d).map (fun c => (goodDies d c).length)).foldl (· + ·) 0

/-- Dies run operations: brought up, powered, out of the states in which the flash pins float (Table 3-9). -/
def kilnRuns (e : Env) (d : Dp) : Bool :=
  !d.kiln.floating && !(e.power = .neap) && !(e.power = .ebb)

/-! ## Rows, as the scheduler sees them -/

def Dp.row (d : Dp) (id : Nat) : Option Row := d.med.rows.find? (fun r => r.id = id)
def Dp.onRow (d : Dp) (id : Nat) (f : Row → Row) : Dp :=
  { d with med := { d.med with rows := updateWhere (fun r => r.id = id) f d.med.rows } }

/-- Page number of the XOR page of stripe 0 of a row (R127). -/
def xorBase : Nat := 2 ^ 32

/-- Rows of a copy of the registry pool (R40). -/
def RowUse.isRegistry : RowUse → Bool
  | .registry _ => true
  | _ => false

/-- Rows written in SLC mode. -/
def RowUse.slc : RowUse → Bool
  | .stoneware => false
  | _ => true

/-- Die stripes of a row: one for each page index of each plane. -/
def rowStripes (d : Dp) (u : RowUse) : Nat :=
  d.kiln.profile.planes * (if u.slc then d.kiln.profile.pagesSlc else d.kiln.profile.pagesNative)

/-- SLC bytes of a row (R120). DESIGN CHOICE: XOR pages count with the data pages (notes/assumptions/33.md). -/
def rowSlc (d : Dp) (r : Row) : Nat := r.width * rowStripes d r.use * 16384

/-- Bisque occupancy: SLC capacity of open and full bisque rows (R120). DESIGN CHOICE: a row whose erase has not ended still
counts (notes/assumptions/33.md). -/
def bisqueUsed (d : Dp) : Nat :=
  (d.med.rows.filter (fun r => r.use = .bisque)).foldl (fun n r => n + rowSlc d r) 0

/-- Stripe and block position of a page (R127): the XOR page of stripe s stands at position s mod W. -/
def pageAt (w q : Nat) : Nat × Nat :=
  if xorBase ≤ q then (q - xorBase, (q - xorBase) % max 1 w)
  else
    let s := q / max 1 (w - 1)
    let j := q % max 1 (w - 1)
    (s, if j < s % max 1 w then j else j + 1)

/-- The page that holds a position of a stripe. -/
def stripePage (w s pos : Nat) : Nat :=
  if pos = s % max 1 w then xorBase + s else s * (w - 1) + (if pos < s % max 1 w then pos else pos - 1)

/-- The page index in its block of a stripe's pages, each plane holding one stripe of an index (DESIGN CHOICE: stripes are numbered
plane by plane; notes/assumptions/33.md). -/
def pageIndex (d : Dp) (s : Nat) : Nat := s / max 1 d.kiln.profile.planes

/-- The page type of a stripe's pages (R105): the page's place on its wordline (DESIGN CHOICE; notes/assumptions/33.md). -/
def pageType (d : Dp) (r : Row) (s : Nat) : Nat :=
  if r.use.slc then 0 else pageIndex d s % max 1 d.kiln.profile.bits

/-- The wordline of a stripe's pages. -/
def wordline (d : Dp) (r : Row) (s : Nat) : Nat :=
  if r.use.slc then pageIndex d s else pageIndex d s / max 1 d.kiln.profile.bits

/-- The read-offset entry of a row's block position and page type (R105). -/
def offsetKey (pos type : Nat) : Nat := pos * 8 + type
def offsetOf (r : Row) (pos type : Nat) : Nat := r.offsets.get 0 (offsetKey pos type)

/-! ## Queues (Table 3-5) -/

/-- Depth of the queue an operation waits in. -/
def queueDepth : OpKind → Nat
  | .read _ _ _ _ => 256
  | .program _ _ => 16
  | .erase _ => 4
  | .zero _ => 16
  | .readBack _ _ => 256
  | .pattern => 4
  | .maintenance _ => 4

/-- The queue an operation waits in: 0 read, 1 program, 2 erase, 3 maintenance. -/
def queueOf : OpKind → Nat
  | .read _ _ _ _ => 0
  | .readBack _ _ => 0
  | .program _ _ => 1
  | .zero _ => 1
  | .erase _ => 2
  | .pattern => 3
  | .maintenance _ => 3

/-- Operations of one kind waiting at a die, and room for one more. -/
def waitingOf (x : Die) (k : OpKind) : Nat := (x.queue.filter (fun o => queueOf o.kind = queueOf k)).length
def hasRoom (d : Dp) (c n : Nat) (k : OpKind) : Bool := waitingOf (d.die c n) k < queueDepth k

/-- An operation is a read, or a program or erase. -/
def isRead : OpKind → Bool
  | .read _ _ _ _ => true
  | .readBack _ _ => true
  | _ => false
def isProgram : OpKind → Bool
  | .program _ _ => true
  | .zero _ => true
  | _ => false
def isErase : OpKind → Bool
  | .erase _ => true
  | _ => false
def isArray (k : OpKind) : Bool := isProgram k || isErase k

/-- A class P1 read. -/
def isP1 (o : DieOp) : Bool := o.cls = 1 && isRead o.kind

/-- Typical and maximum time of an operation in ns (Table 3-3); of a block that is zeroed or read back, of one page. -/
def opTime (d : Dp) (k : OpKind) : Nat × Nat :=
  let p := d.kiln.profile
  let us : Nat × Nat := match k with
    | .read _ _ _ _ => (p.readUs, p.readMaxUs)
    | .program r _ => if (d.row r).all (fun x => x.use.slc) then (p.progSlcUs, p.progSlcMaxUs) else (p.progUs, p.progMaxUs)
    | .erase _ => (p.eraseUs, p.eraseMaxUs)
    | .zero _ => (p.progUs, p.progMaxUs)
    | .readBack _ _ => (p.readUs, p.readMaxUs)
    | .pattern => (p.readUs, p.readMaxUs)
    | .maintenance _ => (p.rstUs, p.rstUs)
  (us.1 * 1000, us.2 * 1000)

/-! ## Busy time (R94, R130, R137, R219, R220, R420) -/

/-- The window of the busy-time rules of a die: 100 ms. -/
def busyWindow : Nat := 100000000

/-- Busy time of a die within a time up to now, over the intervals that a test picks. -/
def busyOver (span now : Nat) (x : Die) (p : Busy → Bool) : Nat :=
  (x.busy.filter p).foldl (fun n b => n + (b.until_ - max b.since (now - span))) 0

/-- The same within the last 100 ms. -/
def busyIn (now : Nat) (x : Die) (p : Busy → Bool) : Nat := busyOver busyWindow now x p

/-- An operation has kept its die busy until now. -/
def noteBusy (now : Nat) (o : DieOp) (since : Nat) (x : Die) : Die :=
  { x with busy := x.busy.filter (fun b => now < b.until_ + second) ++ [⟨since, now, isRead o.kind, o.cls, o.task⟩] }

/-- What a share of the member's media time over 1 s, in 0.01 %, leaves a task: the dies' time less what the task has had (R219,
R220). -/
def shareLeft (d : Dp) (now share : Nat) (t : Task) : Nat :=
  dieCount d * second * share / 10000 -
    d.kiln.dies.foldl (fun n x => n + busyOver second now x.2 (fun b => b.task = t)) 0

/-- Folding takes stoneware program time ahead of garbage collection (R125). -/
def foldFirst (d : Dp) : Bool := d.med.bisque < 2 * bisqueUsed d && d.med.gc != .urgent

/-- Die rebuild runs on the member (R130). -/
def rebuildRuns (d : Dp) : Bool := !d.med.rebuilding.isEmpty

/-- What the order among classes P2 to P6 goes by: the class, and in P4 folding before garbage collection (R125). -/
def classRank (fold1 : Bool) (o : DieOp) : Nat := 2 * o.cls + (if fold1 && o.task = .collect then 1 else 0)

/-- Facts of the member that a die's choice goes by, and the typical time of each operation. -/
structure Pick where
  tide  : Bool
  now   : Nat
  share : Bool
  fold1 : Bool
  patrolLeft : Nat
  reshapeLeft : Nat
  /-- The activity fraction of the channel's zone in 2⁻¹⁶, and the busy time it leaves the channel's dies in 100 ms (R420). -/
  act   : Nat
  zoneLeft : Nat

/-- A static move keeps within 2 % of the die's time over 100 ms (R137; its erase does not count: notes/assumptions/33.md). -/
def staticFits (k : Pick) (x : Die) (time : Nat) (o : DieOp) : Bool :=
  o.task != .static || isErase o.kind || busyIn k.now x (fun b => b.task = .static) + time ≤ busyWindow * 2 / 100

/-- Beachcomber and a reshape keep to their shares of the member's time (R219, R220). -/
def shoalFits (k : Pick) (time : Nat) (o : DieOp) : Bool :=
  match o.task with
  | .patrol => time ≤ k.patrolLeft
  | .reshape => time ≤ k.reshapeLeft
  | _ => true

/-- What is not of class P0 keeps within the activity of its channel's zone (R420). -/
def zoneFits (k : Pick) (time : Nat) (o : DieOp) : Bool := o.cls = 0 || 65536 ≤ k.act || time ≤ k.zoneLeft

/-- While a class P1 read waits, other operations keep to 70 % of the die's time over 100 ms, within the activity that remains (R94,
R420). -/
def readShare (k : Pick) (x : Die) (time : Nat) : Bool :=
  !(x.queue.any isP1) || busyIn k.now x (fun b => !b.read) + time ≤ busyWindow * 70 / 100 * min 65536 k.act / 65536

/-- Class P4 has had less than 15 % of the die's busy time (R130). -/
def shareDue (k : Pick) (x : Die) : Bool :=
  k.share && busyIn k.now x (fun b => b.cls = 4) * 100 < busyIn k.now x (fun _ => true) * 15

/-- The operation a free die takes next (R92, R93): class P0; one that has waited its 2 ms within the share of R94; class P4 while a
die rebuild has its share due (R130); class P1; then the least class in arrival order, an aged one of P2 to P6 going before those
that arrived after it. While an operation is suspended the die takes class P1 reads alone, within the limits of Table 3-7 (R98).
While Last Tide runs it takes class P0 alone (R101). -/
def pickOp (k : Pick) (time : DieOp → Nat) (x : Die) : Option DieOp :=
  let q := x.queue.filter (fun o => (!k.tide || o.cls = 0) && staticFits k x (time o) o && shoalFits k (time o) o && zoneFits k (time o) o &&
    x.suspended.all (fun s => isP1 o && s.reads < 8 && k.now < s.since + 500000))
  match q.find? (fun o => o.cls = 0) with
  | some o => some o
  | none =>
    match q.find? (fun o => o.forced && isArray o.kind && readShare k x (time o)) with
    | some o => some o
    | none =>
      match if shareDue k x then q.find? (fun o => o.cls = 4 && (isRead o.kind || readShare k x (time o))) else none with
      | some o => some o
      | none =>
        match q.find? isP1 with
        | some o => some o
        | none =>
          match q.findIdx? (fun o => o.aged) with
          | some i => leastBy (classRank k.fold1) (q.take (i + 1))
          | none => leastBy (classRank k.fold1) q

/-- The zone of a channel (Table 12-6): Z2 for F00 to F31, Z3 for F32 to F63. -/
def chanZone (c : Nat) : Nat := if c < 32 then 2 else 3

/-- The busy time that its zone leaves a channel within the 100 ms up to now: x of its dies' time (R420; DESIGN CHOICE: the window is
R94's: notes/assumptions/33.md). -/
def zoneLeft (d : Dp) (now c : Nat) : Nat :=
  let mine := d.kiln.dies.filter (fun x => x.1 / 16 = c)
  mine.length * busyWindow * min 65536 (d.act (chanZone c)) / 65536 -
    mine.foldl (fun n x => n + busyIn now x.2 (fun b => b.cls != 0)) 0

/-- The facts of a step on a channel: RESHAPE_SHARE and BEACH_SHARE are parameters 0x0606 and 0x0608. -/
def pickFacts (e : Env) (d : Dp) (c : Nat) : Pick :=
  { tide := e.tide, now := e.now, share := rebuildRuns d, fold1 := foldFirst d
    patrolLeft := shareLeft d e.now (e.param d 0x0608) .patrol
    reshapeLeft := shareLeft d e.now (e.param d 0x0606 * 100) .reshape
    act := d.act (chanZone c), zoneLeft := zoneLeft d e.now c }

/-! ## Starting an operation -/

/-- Pages that a list of codewords stands on. -/
def pagesOf (cws : List Nat) : List Nat := (cws.map (· / 4)).eraseDups

/-- The read-offset entry that an operation's sense needs: its block's own at stage 0, the ladder's from stage 1 on (R105, R106). -/
def readEntry (d : Dp) (k : OpKind) : Nat :=
  match k with
  | .read r cws _ at_ =>
    if at_.stage != 0 then at_.entry
    else match d.row r with
      | some x =>
        let p := pageAt x.width (cws.headD 0 / 4)
        offsetOf x p.2 (pageType d x p.1)
      | none => 0
  | _ => 0

/-- The commands that start an operation: stage 2 takes two extra senses more (R154). -/
def opCmds (k : OpKind) (entry : Nat) (cache : Bool) : List DieCmd :=
  match k with
  | .read r cws _ at_ =>
    if at_.stage = 2 then List.replicate 2 (.sense r (cws.headD 0 / 4) entry) else [.read r (pagesOf cws) entry cache]
  | .program r ps => [.program r ps cache]
  | .erase r => [.erase r]
  | .zero b => [.zero b]
  | .readBack b _ => [.readBack b]
  | .pattern => [.readPattern]
  | .maintenance c => [c]

/-- A maintenance operation (Table 3-5): it goes out at the die's idle point and is over at once (notes/assumptions/22.md). -/
def isMaint : OpKind → Bool
  | .maintenance _ => true
  | _ => false

/-- The maintenance operations a die has waiting go out. -/
def flushMaint (c n : Nat) (d : Dp) : Dp :=
  let x := d.die c n
  let go := x.queue.filter (fun o => isMaint o.kind)
  if go.isEmpty then d
  else (go.flatMap (fun o => opCmds o.kind 0 false)).foldl (fun d m => put (.die c n m) d)
    (d.setDie c n { x with queue := x.queue.filter (fun o => !isMaint o.kind) })

/-- Two operations may stand in one cache sequence: reads or programs of one row and class, the reads at stage 0. -/
def sameSeq (a b : DieOp) : Bool :=
  a.cls = b.cls && !b.alone && match a.kind, b.kind with
    | .program r _, .program r' _ => r = r'
    | .read r _ _ x, .read r' _ _ y => r = r' && x.stage = 0 && y.stage = 0
    | _, _ => false

/-- The queued operations that go on in a cache sequence behind one that starts (Table 3-2): programs of P2 and P4 where the die has
had no class P1 read for 1 ms, reads of P4 and P6 where none waits. -/
def sequenceOf (p : Profile) (now : Nat) (x : Die) (o : DieOp) : List DieOp :=
  let ok : Bool := match o.kind with
    | .program _ _ => p.lists .cacheProgram && (o.cls = 2 || o.cls = 4) && x.lastP1.all (fun t => t + 1000000 ≤ now)
    | .read _ _ _ _ => p.lists .cacheRead && (o.cls = 4 || o.cls = 6) && !(x.queue.any isP1)
    | _ => false
  if ok && !o.alone && x.suspended.isNone then (x.queue.erase o).filter (sameSeq o) else []

/-- An operation goes out on a die, with what follows it in its cache sequence; Set Features goes first when its read needs another
offset (R105), on dies that list read offsets. -/
def launch (e : Env) (c n : Nat) (o : DieOp) (rest : List DieOp) (d : Dp) : Dp :=
  let x := d.die c n
  let entry := readEntry d o.kind
  let set := isRead o.kind && entry != x.setting && d.kiln.profile.lists .readOffset
  let d := if set then put (.die c n .setFeatures) d else d
  let d := (opCmds o.kind entry (!rest.isEmpty)).foldl (fun d m => put (.die c n m) d) d
  d.setDie c n { x with
    running := some { op := o, since := e.now, suspends := 0, rest := rest, out := false
                      dataIn := match o.kind with
                        | .program _ ps => ps.length
                        | _ => 0 }
    setting := if set then entry else x.setting }

/-! ## The channel bus (R96) -/

/-- A die has data-in of a program to take, and a read of it is sensed and has data-out ready: tR has passed (notes/assumptions/33.md). -/
def wantsIn (d : Dp) (c n : Nat) : Bool := (d.die c n).running.any (fun r => 0 < r.dataIn)
def outReady (now : Nat) (d : Dp) (c n : Nat) (p : DieOp → Bool) : Bool :=
  (d.die c n).running.any (fun r => isRead r.op.kind && !r.out && p r.op && r.since + (opTime d r.op.kind).1 ≤ now)

/-- Bytes of a transfer: a plane page in, the codewords of a read out. -/
def transferBytes (d : Dp) (c n : Nat) (out : Bool) : Nat :=
  if out then (d.die c n).running.elim 0 (fun r => match r.op.kind with
    | .read _ cws _ _ => cwBytes * cws.length
    | _ => 0)
  else pageBytes

/-- The die that takes the free bus (R96): between plane pages a class P1 data-out that is ready, else dies in turn. -/
def busNext (now : Nat) (d : Dp) (c : Nat) : Option (Nat × Bool) :=
  let turn := (List.range 16).map (fun i => ((d.chan c).lastDie + 1 + i) % 16)
  match turn.find? (fun n => outReady now d c n isP1) with
  | some n => some (n, true)
  | none => (turn.find? (fun n => wantsIn d c n || outReady now d c n (fun _ => true))).map
      (fun n => (n, !wantsIn d c n))

/-- A transfer of a die is over: a plane page is in, and after the last the array starts; or its data is out. -/
def endTransfer (now : Nat) (c n : Nat) (out : Bool) (d : Dp) : Dp :=
  let x := d.die c n
  match x.running with
  | none => d
  | some r =>
    if out then d.setDie c n { x with running := some { r with out := true } }
    else if r.dataIn ≤ 1 then
      d.setDie c n { noteBusy now r.op r.since x with running := some { r with dataIn := 0, since := now } }
    else d.setDie c n { x with running := some { r with dataIn := r.dataIn - 1 } }

/-- The channel bus goes on: a transfer ends at its time, and the free bus is given anew, but to none while the channel retrains. -/
def busStep (now c : Nat) (d : Dp) : Dp :=
  let d := match (d.chan c).bus with
    | some (n, out, t) => if t ≤ now then endTransfer now c n out (d.setChan c { d.chan c with bus := none }) else d
    | none => d
  if (d.chan c).bus.isSome || (d.chan c).offBus.isSome then d
  else match busNext now d c with
    | none => d
    | some (n, out) =>
      let x := d.chan c
      d.setChan c { x with bus := some (n, out, now + transferBytes d c n out * 1000 / max 1 x.rate), lastDie := n }

/-- The bus of every channel goes on. -/
def busTick (now : Nat) (d : Dp) : Dp := (d.kiln.chans.map Prod.fst).foldl (fun d c => busStep now c d) d

/-- A free die starts its next operation. Programs and erases wait while WP_N is low (R84), every operation while the channel is off
the bus for a retraining (R88) or the die has still to come back from Reset LUN. -/
def startDie (e : Env) (c n : Nat) (d : Dp) : Dp :=
  if (d.die c n).running.isNone && (d.die c n).cut.isNone && dieGood d c n && kilnRuns e d && (d.chan c).offBus.isNone then
    let d := if (d.die c n).suspended.isNone && !e.tide then flushMaint c n d else d
    let x := d.die c n
    match pickOp (pickFacts e d c) (fun o => (opTime d o.kind).1) x with
    | none => d
    | some o =>
      if isArray o.kind && !d.kiln.wpHigh.contains (c / 8) then d
      else
        let rest := sequenceOf d.kiln.profile e.now x o
        busStep e.now c (launch e c n o rest (d.setDie c n { x with
          queue := (x.queue.erase o).filter (fun y => !rest.contains y) }))
  else d

/-! ## Suspends (R97 to R100) -/

/-- Minimum run in ns and largest number of suspends of a program or an erase (Table 3-7). -/
def suspendLimits (k : OpKind) : Nat × Nat :=
  if isProgram k then (120000, 4) else if isErase k then (300000, 16) else (0, 0)

/-- The profile lists suspend for an operation (Table 3-3). -/
def suspendable (p : Profile) (k : OpKind) : Bool :=
  (isProgram k && p.lists .programSuspend) || (isErase k && p.lists .eraseSuspend)

/-- What is left of a cache sequence goes back to the front of its queue, to be issued operation by operation (R100). -/
def endSequence (c n : Nat) (d : Dp) : Dp :=
  let x := d.die c n
  match x.running with
  | none => d
  | some r => d.setDie c n { x with
      queue := r.rest.map (fun (o : DieOp) => { o with alone := true }) ++ x.queue
      running := some { r with rest := [] } }

/-- A waiting class P1 read suspends the program or erase that its die runs, once the minimum run is over (R97, R99); a cache
sequence ends with the program in progress (R100), and a cache-read sequence when the read arrives (Table 3-2). -/
def trySuspend (e : Env) (c n : Nat) (d : Dp) : Dp :=
  match (d.die c n).running with
  | none => d
  | some r =>
    if !((d.die c n).queue.any isP1) then d
    else if isRead r.op.kind then endSequence c n d
    else if suspendable d.kiln.profile r.op.kind && !e.tide && (d.die c n).suspended.isNone && r.dataIn = 0 &&
        r.since + (suspendLimits r.op.kind).1 ≤ e.now && r.suspends < (suspendLimits r.op.kind).2 then
      let d := endSequence c n d
      let x := noteBusy e.now r.op r.since (d.die c n)
      let d := d.setDie c n { x with
        running := none
        suspended := some { op := r.op, suspends := r.suspends + 1, since := e.now, reads := 0 } }
      startDie e c n (put (.die c n .suspend) (count 4 (if isProgram r.op.kind then 3 else 4) 1 d))
    else d

/-- Queue an operation at a die, start it when the die is free, or let it suspend what runs there. -/
def enqueueTask (e : Env) (c n : Nat) (k : OpKind) (cls : Nat) (task : Task) (d : Dp) : Dp :=
  let x := d.die c n
  let o : DieOp := { kind := k, cls := cls, arrived := e.now, forced := false, aged := false, task := task, alone := false }
  trySuspend e c n (startDie e c n (d.setDie c n { x with
    queue := x.queue ++ [o]
    lastP1 := if isP1 o then some e.now else x.lastP1 }))

def enqueue (e : Env) (c n : Nat) (k : OpKind) (cls : Nat) (d : Dp) : Dp := enqueueTask e c n k cls .other d

/-- A die's operation is over: its time is counted, and the next of its cache sequence goes out. -/
def endOp (e : Env) (c n : Nat) (d : Dp) : Dp :=
  let x := d.die c n
  match x.running with
  | none => d
  | some r =>
    let d := d.setDie c n { noteBusy e.now r.op r.since x with running := none }
    match r.rest with
    | [] => d
    | o :: t =>
      if (isRead o.kind && x.queue.any isP1) || e.tide || !dieGood d c n then
        let x := d.die c n
        d.setDie c n { x with queue := (o :: t) ++ x.queue }
      else busStep e.now c (launch e c n o t d)

/-! ## Channel pins (Table 3-9) -/

/-- Levels of a channel pin. -/
inductive Pin where
  | unpowered | hiZ | high | low | protocol
deriving DecidableEq, Repr

/-- The pins of a channel: CE_N, its group's WP_N, WE_N, ALE and CLE, RE_T and RE_C, DQ and DQS. -/
structure FlashPins where
  ce  : Pin
  wp  : Pin
  we  : Pin
  ale : Pin
  reT : Pin
  reC : Pin
  dq  : Pin
deriving DecidableEq, Repr

/-- Every pin at one level. -/
def FlashPins.all (p : Pin) : FlashPins := ⟨p, p, p, p, p, p, p⟩

/-- The pins of a channel (R114, Table 3-9); a failed channel's chip enables stay high (R87). `vin` tells that VIN is present. -/
def flashPins (vin : Bool) (e : Env) (d : Dp) (c : Nat) : FlashPins :=
  let x := d.chan c
  let wp : Pin := if d.kiln.wpHigh.contains (c / 8) then .high else .low
  let idle : FlashPins := ⟨.high, wp, .high, .low, .high, .low, .hiZ⟩
  if !vin then .all .unpowered
  else if !kilnRuns e d || (d.kiln.wave = 17 && (d.kiln.chans.find c).isNone) then .all .hiZ
  else if x.fenced || x.failed then idle
  else if !x.opened then ⟨.protocol, wp, .protocol, .protocol, .protocol, .protocol, .protocol⟩
  else if (List.range 16).any (fun n => (d.die c n).running.isSome) || x.offBus.isSome then
    ⟨.protocol, wp, .protocol, .protocol, .protocol, .protocol, .protocol⟩
  else idle

/-! ## Capacity (R117, R118) -/

/-- Bytes of a block: every plane's pages of 16 KiB, in native mode. -/
def blockBytes (d : Dp) : Nat := d.kiln.profile.planes * d.kiln.profile.pagesNative * 16384

/-- Raw capacity C_raw: good dies less their retired blocks (R117, R141). -/
def rawBytes (d : Dp) : Nat :=
  dieCount d * d.kiln.profile.dieBytes -
    (d.med.retired.filter (fun b => dieGood d b.1 b.2.1)).length * blockBytes d

/-- SLC bytes of the map strand (Table 4-1). -/
def mapStrandBytes (dram : Nat) : Nat := (dram - 24 * gib) * 5 / 4 + 2 * gib

/-- SLC bytes of the system areas, times bits per cell. -/
def systemRaw (d : Dp) (dram : Nat) : Nat :=
  d.kiln.profile.bits * (64 * gib + 16 * gib + mapStrandBytes dram + 32 * gib)

/-- Die-stripe width in force: DIE_STRIPE_WIDTH, or every good channel when fewer remain (R128). -/
def stripeWidth (e : Env) (d : Dp) : Nat := min (e.param d 0x0301) (goodChans d).length

/-- Provisionable capacity P (R117) at a die-stripe width. -/
def provisionable (e : Env) (d : Dp) (w : Nat) : Nat :=
  let raw := rawBytes d
  let s := systemRaw d e.dramBytes
  if raw ≤ s ∨ w = 0 then 0 else (raw - s) * (w - 1) / w - raw * 7 / 100

/-- Valid resident data V: current map entries. -/
def validBytes (d : Dp) : Nat := d.map.entries.length * 4096

/-- Free stoneware capacity F. -/
def freeStone (e : Env) (d : Dp) : Nat := provisionable e d (stripeWidth e d) - validBytes d

/-- Bisque size B as R118 computes it from F. -/
def bisqueSize (e : Env) (d : Dp) : Nat := max (32 * gib) (min (2 * tib) (freeStone e d / 16))

/-- B is recomputed (R118). -/
def sizeBisque (e : Env) (d : Dp) : Dp :=
  { d with med := { d.med with bisque := bisqueSize e d, bisqueV := validBytes d } }

/-- B is recomputed whenever V has changed by 1 GiB (R118). -/
def trackBisque (e : Env) (d : Dp) : Dp :=
  let v := validBytes d
  if gib ≤ max v d.med.bisqueV - min v d.med.bisqueV then sizeBisque e d else d

end Sys2Proof.Machine
end

