-- ==== Sys2Proof/Machine/Operands.lean ====
section
/-! DEFINITION. Operand forms: command descriptors (Table 10-5), scatter lists (R347, R348), OPSPEC of CODEC and GLAZE
(Tables 10-11 and 10-13), queue table entries (Table 10-1), completion records (Table 10-4), mailbox requests. -/

namespace Sys2Proof.Machine

/-- Opcodes of queue commands (Table 10-6). -/
def opRead : Nat := 0x01
def opWrite : Nat := 0x02
def opWriteAtomic : Nat := 0x03
def opDiscard : Nat := 0x04
def opSecureDiscard : Nat := 0x05
def opVerify : Nat := 0x06
def opCodec : Nat := 0x08
def opGlaze : Nat := 0x09

/-- The write class: WRITE, WRITE_ATOMIC, DISCARD, SECURE_DISCARD. -/
def isWriteOp (op : Nat) : Bool := 2 ≤ op && op ≤ 5

/-- WRITE and WRITE_ATOMIC: the commands that carry data in. -/
def isDataOp (op : Nat) : Bool := op = 2 || op = 3

/-- Status codes (Table 10-8). -/
def stSuccess : Nat := 0x0000
def stInvalidOpcode : Nat := 0x0001
def stInvalidField : Nat := 0x0002
def stInvalidLength : Nat := 0x0003
def stInvalidSgl : Nat := 0x0004
def stAborted : Nat := 0x0005
def stQueueFrozen : Nat := 0x0006
def stHostAccess : Nat := 0x0007
def stNotReady : Nat := 0x0008
def stLbaRange : Nat := 0x0100
def stMediaError : Nat := 0x0101
def stGuardError : Nat := 0x0102
def stRefTagError : Nat := 0x0103
def stAppTagError : Nat := 0x0104
def stDataPath : Nat := 0x0105
def stParity : Nat := 0x0106
def stPoolNotFound : Nat := 0x0200
def stPoolReadOnly : Nat := 0x0201
def stPoolDeleting : Nat := 0x0202
def stKeySlot : Nat := 0x0300
def stKeyUsage : Nat := 0x0301
def stGcmAuth : Nat := 0x0302
def stPadding : Nat := 0x0303
def stSingular : Nat := 0x0304

/-- A status marked Yes in the Freezes column of Table 10-8. -/
def freezes (st : Nat) : Bool := !(st = stSuccess || st = stAborted || st = stQueueFrozen)

/-! ## Descriptors -/

/-- Fields of a descriptor (Table 10-5). -/
def dOpcode (d : BitVec 512) : Nat := bitsOf d.toNat 7 0
def dParity (d : BitVec 512) : Bool := d.getLsbD 8
def dPool (d : BitVec 512) : Nat := bitsOf d.toNat 23 16
def dLength (d : BitVec 512) : Nat := bitsOf d.toNat 63 32
def dLba (d : BitVec 512) : Nat := bitsOf d.toNat 111 64
def dData (d : BitVec 512) : BitVec 128 := d.extractLsb' 128 128
def dMeta (d : BitVec 512) : BitVec 128 := d.extractLsb' 256 128
def dOpspec (d : BitVec 512) : BitVec 128 := d.extractLsb' 384 128

/-- Fields of OPSPEC of CODEC (Table 10-11); bit 384 of the descriptor is bit 0 here. -/
def cSolve (d : BitVec 512) : Bool := d.getLsbD 384
def cAccumulate (d : BitVec 512) : Bool := d.getLsbD 385
def cOut (d : BitVec 512) : Nat := bitsOf d.toNat 399 392
def cIn (d : BitVec 512) : Nat := bitsOf d.toNat 407 400
def cMatrix (d : BitVec 512) : Nat := bitsOf d.toNat 511 448

/-- Fields of OPSPEC of GLAZE (Table 10-13). -/
def gSlot (d : BitVec 512) : Nat := bitsOf d.toNat 399 384
def gMode (d : BitVec 512) : Nat := bitsOf d.toNat 407 400
def gUnitLog (d : BitVec 512) : Nat := bitsOf d.toNat 423 416
def gAad (d : BitVec 512) : Nat := bitsOf d.toNat 447 432
def gAux (d : BitVec 512) : Nat := bitsOf d.toNat 511 448

/-- The data unit of an XTS command in bytes: 2^DU_LOG2, or the whole source for 0. -/
def gUnit (d : BitVec 512) : Nat := if gUnitLog d = 0 then max 1 (dLength d) else 2 ^ gUnitLog d

/-- Reserved fields that are not 0, or field values out of range (R346, R355 step 2). -/
def descFieldBad (d : BitVec 512) : Bool :=
  let n := d.toNat
  let op := dOpcode d
  bitsOf n 127 112 != 0 || bitsOf n 31 24 != 0 || bitsOf n 15 9 != 0 ||
  (dParity d && op != opVerify) ||
  (if op = opCodec then
    dPool d != 0 || dLba d != 0 || bitsOf n 391 386 != 0 || bitsOf n 447 408 != 0 ||
    cIn d < 1 || 24 < cIn d || cOut d < 1 || 8 < cOut d || cMatrix d % 64 != 0
  else if op = opGlaze then
    dPool d != 0 || dLba d != 0 || bitsOf n 415 408 != 0 || bitsOf n 431 424 != 0 ||
    gMode d < 1 || 6 < gMode d || 4096 < gAad d || (2 < gMode d && gAad d != 0) ||
    gAux d % 16 != 0 ||
    (if gMode d = 3 ∨ gMode d = 4 then gUnitLog d != 0 && (gUnitLog d < 9 || 24 < gUnitLog d)
      else gUnitLog d != 0)
  else dOpspec d != 0)

/-- LENGTH outside Table 10-6, or Table 10-12 with R374. -/
def descLengthBad (d : BitVec 512) : Bool :=
  let op := dOpcode d
  let n := dLength d
  if op = opRead ∨ op = opWrite ∨ op = opWriteAtomic then n < 1 || 512 < n
  else if op = opDiscard ∨ op = opSecureDiscard then n < 1 || 4194304 < n
  else if op = opVerify then n < 1 || 65536 < n
  else if op = opCodec then n < 1 || 1048576 < n
  else
    let m := gMode d
    if m = 1 ∨ m = 2 then 16777216 < n
    else if m = 3 ∨ m = 4 then
      n < 16 || 16777216 < n || (n % gUnit d != 0 && n % gUnit d < 16)
    else if m = 5 then 16777215 < n
    else n < 16 || 16777216 < n || n % 16 != 0

/-! ## Scatter lists -/

/-- Fields of a scatter element (Table 10-9). -/
def sgAddr (e : BitVec 128) : Nat := bitsOf e.toNat 127 64
def sgLen (e : BitVec 128) : Nat := bitsOf e.toNat 63 32
def sgType (e : BitVec 128) : Nat := bitsOf e.toNat 31 28

/-- A buffer as the engine reads it: host ranges in list order, and elements counted. -/
structure Buf where
  ranges : List (Nat × Nat)
  elems  : Nat
deriving DecidableEq, Repr

/-- Bytes of a buffer. -/
def Buf.bytes (b : Buf) : Nat := b.ranges.foldl (fun n r => n + r.2) 0

/-- Walk the elements of a segment; the segments still to come are operands (what the device reads from host memory).
None where an element breaks Table 10-9 or R348. -/
def walkElems : Nat → List (BitVec 128) → List (List (BitVec 128)) → Option Buf
  | 0, _, _ => none
  | _ + 1, [], _ => some ⟨[], 0⟩
  | f + 1, e :: t, segs =>
    if sgType e = 0 then
      if sgLen e = 0 then none
      else (walkElems f t segs).map (fun b => ⟨(sgAddr e, sgLen e) :: b.ranges, b.elems + 1⟩)
    else if sgType e = 1 then
      if sgAddr e % 16 = 0 ∧ sgLen e % 16 = 0 ∧ t = [] then
        match segs with
        | [] => if sgLen e = 0 then some ⟨[], 1⟩ else none
        | s :: rest =>
          if s.length * 16 = sgLen e then
            (walkElems f s rest).map (fun b => ⟨b.ranges, b.elems + 1⟩)
          else none
      else none
    else none

/-- A buffer from its element; an all-zero element is no buffer. -/
def walkBuf (e : BitVec 128) (segs : List (List (BitVec 128))) : Option Buf :=
  if e = 0 then some ⟨[], 0⟩
  else walkElems ((segs.map List.length).foldl (· + ·) 0 + 2 * segs.length + 4) [e] segs

/-- The largest number of elements of a command (R348). -/
def sgMax : Nat := 512

/-- The data and metadata buffers of a pool command, or none where R348 or R349 is broken. -/
def poolBufs (d : BitVec 512) (tags : Bool) (dataSegs metaSegs : List (List (BitVec 128))) : Option (Buf × Buf) :=
  let op := dOpcode d
  match walkBuf (dData d) dataSegs, walkBuf (dMeta d) metaSegs with
  | some a, some m =>
    let data := if op = opRead ∨ isDataOp op then dLength d * 4096 else 0
    let tag := if (op = opRead ∨ isDataOp op) ∧ tags then dLength d * 16 else 0
    if a.bytes = data ∧ m.bytes = tag ∧ (data = 0 → dData d = 0) ∧ (tag = 0 → dMeta d = 0) ∧
      a.elems + m.elems ≤ sgMax then some (a, m) else none
  | _, _ => none

/-- Bytes of host memory ranges from an offset of the buffer on: the address of one byte. -/
def hostAddr : List (Nat × Nat) → Nat → Nat
  | [], o => o
  | (a, n) :: t, o => if o < n then a + o else hostAddr t (o - n)

/-! ## Queue table entries (Table 10-1) -/

def qCqBase (e : BitVec 512) : Nat := bitsOf e.toNat 127 76 * 4096
def qEnable (e : BitVec 512) : Bool := e.getLsbD 152
def qFreeze (e : BitVec 512) : Bool := e.getLsbD 153
def qWeight (e : BitVec 512) : Nat := 2 ^ bitsOf e.toNat 155 154
def qSizeLog (e : BitVec 512) : Nat := bitsOf e.toNat 159 156
def qCoalCount (e : BitVec 512) : Nat := bitsOf e.toNat 167 160
def qCoalTime (e : BitVec 512) : Nat := bitsOf e.toNat 175 168
def qPasidEn (e : BitVec 512) : Bool := e.getLsbD 224
def qPasid (e : BitVec 512) : Nat := bitsOf e.toNat 211 192

/-- The PASID a queue attaches (R316). -/
def qPasidOf (e : BitVec 512) : Option Nat := if qPasidEn e then some (qPasid e) else none

/-- A field of an entry out of range (R334): ring size 5 to 12, coalescing count 0 to 32. -/
def qEntryBad (e : BitVec 512) : Bool := qSizeLog e < 5 || 12 < qSizeLog e || 32 < qCoalCount e

/-- Entries of the completion ring. -/
def qRing (e : BitVec 512) : Nat := 2 ^ qSizeLog e

/-- A completion record (Table 10-4). -/
def cplRecord (phase : Bool) (c : CplRec) : BitVec 128 :=
  BitVec.ofNat 128 (phase.toNat * 2 ^ 127 + c.froze.toNat * 2 ^ 126 + c.tag % 32 * 2 ^ 112 +
    c.status % 2 ^ 16 * 2 ^ 96 + c.detail % 2 ^ 32 * 2 ^ 64 + c.lba % 2 ^ 64)

/-- Codes of QSTATE (Table 10-1). -/
def QState.code : QState → Nat
  | .idle => 0
  | .running => 1
  | .frozen => 2
  | .broken => 3

/-- The QSTATUS quadword, bits [511:448] of the entry (Table 10-1). -/
def qstatusWord (q : Queue) : Word :=
  BitVec.ofNat 64 (q.errStatus % 2 ^ 16 * 2 ^ 48 + q.errTag % 32 * 2 ^ 32 + q.st.code)

/-! ## Bit fields of register words -/

/-- Put a value at bit `lo` of a number under construction. -/
def fld (v lo w : Nat) : Nat := v % 2 ^ w * 2 ^ lo

end Sys2Proof.Machine
end

