-- ==== Sys2Proof/Machine/MailCore.lean ====
section
/-! DEFINITION. The running request of a mailbox and its response (R381, R382, Tables 11-2 to 11-5), the rank's own
orders to the registry steward and their answers (R395). -/

namespace Sys2Proof.Machine

/-! ## Status codes (Table 11-5) -/

def msSuccess : Nat := 0x0000
def msOpcode : Nat := 0x0001
def msField : Nat := 0x0002
def msLength : Nat := 0x0003
def msNotReady : Nat := 0x0008
def msNoPool : Nat := 0x0200
def msDeleting : Nat := 0x0202
def msAuthority : Nat := 0x0400
def msNoDram : Nat := 0x0401
def msNoCapacity : Nat := 0x0402
def msHandleUsed : Nat := 0x0403
def msMapped : Nat := 0x0404
def msLayout : Nat := 0x0405
def msReshape : Nat := 0x0406
def msNoJob : Nat := 0x0407
def msMemberAbsent : Nat := 0x0408
def msDrillBusy : Nat := 0x0409
def msHandover : Nat := 0x040A
def msRegion : Nat := 0x040B
def msInjectBusy : Nat := 0x040C
def msParam : Nat := 0x040D
def msNoSteward : Nat := 0x040E
def msNotEmpty : Nat := 0x040F
def msWaiting : Nat := 0x0410
def msBusy : Nat := 0x0411

/-! ## Mailboxes -/

/-- The record of a mailbox. -/
def Dp.mail (d : Dp) (m : Mbx) : Mail := (d.mb.boxes.find? (fun b => b.box = m)).getD (Mail.reset m)

/-- Change the record of a mailbox. -/
def Dp.onMail (d : Dp) (m : Mbx) (f : Mail → Mail) : Dp :=
  { d with mb := { d.mb with boxes := updateWhere (fun b => b.box = m) f d.mb.boxes } }

/-- The request a mailbox runs. -/
def Dp.request (d : Dp) (m : Mbx) : Option MbReq := (d.mail m).request

/-- Bytes of a response: the header of Table 11-3 and the payload. -/
def responseBytes (r : MbReq) (status detail : Nat) (payload : List Byte) : List Byte :=
  leBytes 2 r.opcode ++ leBytes 2 status ++ leBytes 2 payload.length ++ leBytes 2 0 ++ leBytes 4 detail ++
    leBytes 4 r.token.toNat ++ payload

/-- The PCI vendor ID of vendor-defined messages (R394). -/
def vendorId : Nat := 0x1F8B

/-- A mailbox command ends (R382): the response stands in the window, RESP_LEN is set, BUSY clears and DONE sets, and
with VEC the MAILBOX cause is set. On the management port the response is a vendor-defined message (R394). -/
def respond (e : Env) (m : Mbx) (status detail : Nat) (payload : List Byte) (d : Dp) : Dp :=
  match d.request m with
  | none => d
  | some r =>
    let b := responseBytes r status detail payload
    match m with
    | .mgmt =>
      put (.mctp (leBytes 2 vendorId ++ b)) (d.onMail m (fun x => { x with request := none, busy := false }))
    | .host p _ =>
      let d := d.onMail m (fun x => { x with
        request := none, busy := false, done := true, respLen := b.length,
        respWin := Memory.writeBytes [] 0 b })
      if (d.mail m).vec then causePort e evMailbox p d else d

/-- A mailbox command fails with a status and no payload. -/
def refuse (e : Env) (m : Mbx) (status : Nat) (d : Dp) : Dp := respond e m status 0 [] d

/-- The command waits for an event before it responds. -/
def Dp.wait (d : Dp) (m : Mbx) : Dp :=
  d.onMail m (fun x => { x with request := x.request.map (fun r => { r with waiting := true }) })

/-- The port number by which the registry knows a mailbox (R396). -/
def mbxPort : Mbx → Nat
  | .host .a _ => 0
  | .host .b _ => 1
  | .mgmt => 3

/-- Two orders are one (R395): rank, port, session and TOKEN, with the opcode. -/
def sameOrder (a b : Order) : Bool :=
  a.rank = b.rank && a.port = b.port && a.session = b.session && a.token = b.token && a.opcode = b.opcode

/-- The mailbox whose running request waits for the answer to an order of this device. -/
def waiter (d : Dp) (o : Order) : Option Mbx :=
  (d.mb.boxes.find? (fun b => b.session = o.session && mbxPort b.box = o.port &&
    b.request.any (fun r => r.waiting && r.token = o.token && r.opcode = o.opcode))).map Mail.box

/-- The order of the head itself that starts a secure-discard job once its command has committed (Table 2-5 step 1), and
the one by which a pool's steward writes a rebase record (R230): opcodes and port of the model's own. -/
def sdOpcode : Nat := 0x8001
def rebaseOpcode : Nat := 0x8002
def ownPort : Nat := 2

/-- PARAM_SET or PARAM_DEFAULT. -/
def isParamOp (op : Nat) : Bool := op = 0x0302 || op = 0x0303

/-- Answer an order at the device that forwarded it. A PARAM_SET or PARAM_DEFAULT whose shoal parameters have committed
goes on with the device's own (R391). The answer to the head's own order for a secure-discard job is the command's job ID; `asking` marks it. -/
def answerOrder (e : Env) (o : Order) (status detail : Nat) (payload : List Byte) (d : Dp) : Dp :=
  let d := { d with sh := { d.sh with
      forwarded := d.sh.forwarded.filter (fun x => !sameOrder x.1 o) } }
  let mine (c : Cmd) : Bool := o.port = ownPort && c.opcode = opSecureDiscard && c.order % 2 ^ 32 = o.token.toNat
  let d := { d with vq := { d.vq with
      cmds := updateWhere mine (fun c => { c with asking := true, detail := detail }) d.vq.cmds } }
  let m := waiter d o
  if status = msSuccess && isParamOp o.opcode then
    let r : MbReq :=
      { opcode := o.opcode, token := o.token, length := o.payload.length, clean := true, payload := o.payload,
        waiting := true }
    { d with mb := { d.mb with parDue := d.mb.parDue ++ [(r, m)] } }
  else match m with
    | some m => respond e m status detail payload d
    | none => d

/-! ## The error log (R551 to R554) -/

/-- Entries the log holds. -/
def errMax : Nat := 4096

/-- The block after the last of an entry. -/
def errEnd (x : ErrEntry) : Nat := x.lba + x.blocks

/-- Blocks in the gap between two ranges; 0 where they overlap or adjoin (R554). -/
def errGap (x y : ErrEntry) : Nat := max x.lba y.lba - min (errEnd x) (errEnd y)

/-- Two ranges as one; TIME, BOOT_COUNT and RANK are the newer's. -/
def errJoin (old new : ErrEntry) : ErrEntry :=
  { new with lba := min old.lba new.lba, blocks := max (errEnd old) (errEnd new) - min old.lba new.lba,
             widened := old.widened || new.widened }

/-- The order of the log: by pool, then by LBA. -/
def errBefore (x y : ErrEntry) : Bool := x.pool < y.pool || (x.pool = y.pool && x.lba ≤ y.lba)

/-- Insert an entry in order. -/
def errInsert (x : ErrEntry) : List ErrEntry → List ErrEntry
  | [] => [x]
  | y :: t => if errBefore x y then x :: y :: t else y :: errInsert x t

/-- Free a slot (R554): in the pool with the most entries, merge the neighbours of one cause with the smallest gap, or
the neighbours with the smallest gap. -/
def errSqueeze (l : List ErrEntry) : List ErrEntry :=
  let pools := (l.map ErrEntry.pool).eraseDups
  match leastBy (fun p => errMax - (l.filter (fun x => x.pool = p)).length) pools with
  | none => l
  | some p =>
    let mine := l.filter (fun x => x.pool = p)
    let pairs := mine.zip (mine.drop 1)
    let same := pairs.filter (fun q => q.1.cause = q.2.cause)
    match leastBy (fun q => errGap q.1 q.2) (if same.isEmpty then pairs else same) with
    | none => l
    | some (x, y) => errInsert { errJoin y x with cause := x.cause, widened := true } ((l.erase x).erase y)

/-- Add a range to the log (R552, R554). -/
def errAdd (x : ErrEntry) (l : List ErrEntry) : List ErrEntry :=
  let like (y : ErrEntry) : Bool := y.pool = x.pool && y.cause = x.cause
  let touch := l.filter (fun y => like y && errGap x y = 0 && x.lba ≤ errEnd y && y.lba ≤ errEnd x)
  match touch with
  | _ :: _ => errInsert (touch.foldl (fun n y => errJoin y n) x) (l.filter (fun y => !touch.contains y))
  | [] =>
    if l.length < errMax then errInsert x l
    else match leastBy (errGap x) (l.filter like) with
      | some y => errInsert { errJoin y x with widened := true } (l.erase y)
      | none => errInsert x (errSqueeze l)

/-- Remove a range of blocks from the log (R553); a split without a free slot keeps the wider range. -/
def errRemove (pool lba n : Nat) : List ErrEntry → List ErrEntry → List ErrEntry
  | done, [] => done
  | done, y :: t =>
    if y.pool = pool ∧ lba < errEnd y ∧ y.lba < lba + n then
      let left := if y.lba < lba then [{ y with blocks := lba - y.lba }] else []
      let right := if lba + n < errEnd y then [{ y with lba := lba + n, blocks := errEnd y - (lba + n) }] else []
      if left.length + right.length = 2 ∧ errMax ≤ done.length + t.length + 1 then
        errRemove pool lba n (done ++ [y]) t
      else errRemove pool lba n (done ++ left ++ right) t
    else errRemove pool lba n (done ++ [y]) t

/-- Change the log, in the committed registry and in the one being sequenced. -/
def Dp.onErrlog (d : Dp) (f : List ErrEntry → List ErrEntry) : Dp :=
  { d with sh := { d.sh with
      reg := { d.sh.reg with errlog := f d.sh.reg.errlog }
      regNext := { d.sh.regNext with errlog := f d.sh.regNext.errlog } } }

end Sys2Proof.Machine
end

