-- ==== Sys2Proof/Machine/Media.lean ====
section
/-! DEFINITION. Media management: block rows and die stripes (R126 to R129), programming codewords, the map's current
entries under relocation (R55, R56), erasing rows, early warning and refresh (R138, R160), retirement and reserves
(R140 to R142). -/

namespace Sys2Proof.Machine

/-! ## Rows -/

/-- Codewords a row's data pages hold. -/
def rowCws (d : Dp) (r : Row) : Nat := 4 * (r.width - 1) * rowStripes d r.use

/-- Blocks of a die that stand in rows. -/
def usedBlocks (d : Dp) (c n : Nat) : List Nat :=
  (d.med.rows.flatMap Row.blocks).filterMap (fun b => if b.1 = c ∧ b.2.1 = n then some b.2.2 else none)

/-- Free blocks of a die. -/
def freeBlocks (d : Dp) (c n : Nat) : List Nat :=
  let used := usedBlocks d c n
  (List.range d.kiln.profile.blocks).filter (fun b => !used.contains b && !d.med.retired.contains (c, n, b))

/-- Wear of a block (R135): E times the rated SLC cycles, which makes it whole. -/
def wearKey (c n b : Nat) : Nat := (c * 16 + n) * 2 ^ 20 + b
def wearUnit (d : Dp) : Nat := max 1 d.kiln.profile.ratedSlc
def wearOf (d : Dp) (c n b : Nat) : Nat :=
  let x := d.med.wear.get (0, 0) (wearKey c n b)
  x.1 * wearUnit d + x.2 * d.kiln.profile.ratedNative

/-- One erase after a row's use: it counts as native or as SLC. -/
def wearAfter (u : RowUse) (x : Nat × Nat) : Nat × Nat := if u.slc then (x.1, x.2 + 1) else (x.1 + 1, x.2)

/-- The block a new row takes on a channel (R126): the die with the most free blocks, then its least-worn free block; for a static
move the most-worn free block of the channel (R136). Ties go to the lower die and block. -/
def takeBlock (d : Dp) (worn : Bool) (c : Nat) : Option (Nat × Nat × Nat) :=
  let dies := (goodDies d c).map (fun n => (n, freeBlocks d c n))
  if worn then
    leastBy (fun b => 2 ^ 64 - wearOf d b.1 b.2.1 b.2.2) (dies.flatMap (fun x => x.2.map (fun b => (c, x.1, b))))
  else match leastBy (fun x => d.kiln.profile.blocks - x.2.length) (dies.filter (fun x => !x.2.isEmpty)) with
    | none => none
    | some (n, free) => (leastBy (fun b => wearOf d c n b) free).map (fun b => (c, n, b))

/-- A row just opened. -/
def freshRow (now n : Nat) (u : RowUse) (w : Nat) (bs : List (Nat × Nat × Nat)) : Row :=
  { id := n, use := u, width := w, blocks := bs, full := false, cws := [], openSince := none, unclosed := false,
    filledAt := 0, writtenAt := now, age := 0, reads := [], refresh := none, refreshAt := 0, warned := false, ewCount := 0,
    stage2 := false, moving := none, erasing := none, offsets := [], ready := [], passed := [], dead := [], xors := [],
    readsKept := [], offsetsKept := [] }

/-- The good channels that rows of a use take: every one; for a copy of the registry pool those of its group of 16 (R40). -/
def chansOf (d : Dp) : RowUse → List Nat
  | .registry copy => (goodChans d).filter (fun c => c / 16 = copy % 4)
  | _ => goodChans d

/-- Open a row (R126, R128): W blocks on W channels of the cyclic list from (n × W) mod G. None when fewer than eight
channels are good, or a channel has no free block. -/
def openRow (e : Env) (u : RowUse) (worn : Bool) (d : Dp) : Option (Dp × Nat) :=
  let good := chansOf d u
  let w := min (stripeWidth e d) good.length
  if w < 8 then none
  else
    let n := d.med.nextRow
    let cs := (List.range w).map (fun i => good.getD ((n * w + i) % good.length) 0)
    let bs := cs.filterMap (takeBlock d worn)
    if bs.length = w then
      some ({ d with med := { d.med with rows := d.med.rows ++ [freshRow e.now n u w bs], nextRow := n + 1 } }, n)
    else none

/-- The open row of a use; one that a static move fills takes nothing else. -/
def openRowOf (d : Dp) (u : RowUse) : Option Row :=
  d.med.rows.find? (fun r => r.use = u && !r.full && r.erasing.isNone && r.moving.isNone && !r.unclosed &&
    !d.med.rows.any (fun x => x.moving.any (fun m => m.into = some r.id)))

/-- SLC bytes of the rows of a system area that are not being erased, and of those of them that hold nothing. -/
def areaBytes (d : Dp) (u : RowUse) : Nat :=
  (d.med.rows.filter (fun r => r.use = u && r.erasing.isNone)).foldl (fun n r => n + rowSlc d r) 0
def areaErased (d : Dp) (u : RowUse) : Nat :=
  (d.med.rows.filter (fun r => r.use = u && r.erasing.isNone && !r.full && r.cws.isEmpty)).foldl (fun n r => n + rowSlc d r) 0

/-- SLC size of each system area (Table 4-1); the diagnostic row is one row (Table 5-9). -/
def areaSize (e : Env) (u : RowUse) : Nat :=
  match u with
  | .lastTide => 64 * gib
  | .journalStrand => 16 * gib
  | .mapStrand => mapStrandBytes e.dramBytes
  | .diagnostic => 1
  | _ => 0

/-- A use takes no further row: bisque opens one only below B (R120, R121), a system area only below its size (R116). -/
def useFull (e : Env) (d : Dp) (u : RowUse) : Bool :=
  match u with
  | .bisque => d.med.bisque ≤ bisqueUsed d
  | .stoneware | .registry _ => false
  | _ => areaSize e u ≤ areaBytes d u

/-- The row new codewords of a use go to: the open one, or a new one. -/
def rowFor (e : Env) (u : RowUse) (worn : Bool) (d : Dp) : Option (Dp × Nat) :=
  match openRowOf d u with
  | some r => some (d, r.id)
  | none => if useFull e d u then none else openRow e u worn d

/-! ## Programs (R79, R95, R127) -/

/-- What a batch of codewords is programmed as: its class and task. -/
structure As where
  cls  : Nat
  task : Task

/-- After a codeword is staged: a full page is ready for its program, a full stripe makes its XOR page ready (R127), a full row
closes. -/
def afterCw (e : Env) (id : Nat) (a : As) (d : Dp) : Dp :=
  d.onRow id (fun r =>
    if r.cws.length % 4 = 0 then
      let q := r.cws.length / 4 - 1
      let at_ := pageAt r.width q
      let last := q % (r.width - 1) = r.width - 2
      let xor : List ReadyPage := if last then [⟨at_.1 % r.width, xorBase + at_.1, a.cls, a.task⟩] else []
      let full := rowCws d r ≤ r.cws.length
      { r with
        writtenAt := e.now
        ready := r.ready ++ [⟨at_.2, q, a.cls, a.task⟩] ++ xor
        openSince := if last then none else some (r.openSince.getD e.now)
        full := full
        filledAt := if full then e.now else r.filledAt }
    else r)

/-- Put one codeword into a row: it joins the running XOR of its stripe (R127), slot by slot. -/
def putCw (e : Env) (id : Nat) (a : As) (x : Codeword) (d : Dp) : Dp :=
  afterCw e id a (d.onRow id (fun r =>
    let i := r.cws.length
    let s := (pageAt r.width (i / 4)).1
    let was := r.xors.get (List.replicate 4 zeroSealed) s
    { r with
      cws := r.cws ++ [x]
      xors := r.xors.put s (was.set (i % 4) (xorSealed (was.getD (i % 4) zeroSealed) x.body)) }))

/-- The next counter value of slot 0 (R434), which every at-rest encryption takes. -/
def takeNonce (d : Dp) : Nat × Dp := (d.med.nonce, { d with med := { d.med with nonce := d.med.nonce + 1 } })

/-- Values that remain in the recorded lease of counter values (R434). -/
def leaseLeft (e : Env) (d : Dp) : Nat := e.nonceEnd - d.med.nonce

/-- A fill codeword (KIND 0x3). -/
def fillCw (e : Env) (nonce : Nat) : Codeword :=
  { pool := 0, localBlk := 0, kind := 3, addr := 0, seqn := 0,
    body := sealBlk e.atRest e.keyGen nonce (backPtr 0 3 0) ⟨List.replicate blkBytes 0, 0⟩,
    written := true, verified := false, src := none }

/-- Put `n` fill codewords into a row; each takes the next counter value. -/
def putFill (e : Env) (id : Nat) (a : As) : Nat → Dp → Dp
  | 0, d => d
  | n + 1, d =>
    let t := takeNonce d
    putFill e id a n (count 10 0 1 (putCw e id a (fillCw e t.1) t.2))

/-- Fill the rest of a row's page. -/
def fillPage (e : Env) (id : Nat) (a : As) (d : Dp) : Dp :=
  match d.row id with
  | none => d
  | some r => putFill e id a ((4 - r.cws.length % 4) % 4) d

/-- Stage codewords for a use, row by row; the places they take, or none where no row can be opened. -/
def stageCws (e : Env) (u : RowUse) (a : As) : List Codeword → Dp → Dp × List (Option Loc)
  | [], d => (d, [])
  | x :: t, d =>
    match rowFor e u false d with
    | none => let z := stageCws e u a t d; (z.1, none :: z.2)
    | some (d, id) =>
      let at_ := ((d.row id).map (fun r => r.cws.length)).getD 0
      let z := stageCws e u a t (putCw e id a x d)
      (z.1, some ⟨id, at_⟩ :: z.2)

/-- Close a row's open die stripe (R129): fill in its unwritten data pages, and with the last the XOR page is ready. -/
def closeStripe (e : Env) (id : Nat) (d : Dp) : Dp :=
  match d.row id with
  | none => d
  | some r =>
    let per := 4 * (r.width - 1)
    let n := (per - r.cws.length % per) % per
    if r.openSince.isSome && r.erasing.isNone && n ≤ leaseLeft e d then putFill e id ⟨3, .other⟩ n d else d

/-- The pages of a relocation that have copies on a page are to be read again. -/
def moveAgain (locs : List Loc) (r : Row) : Row :=
  let pages := ((locs.filter (fun l => l.row = r.id)).map (fun l => l.cw / 4)).eraseDups
  { r with moving := r.moving.map (fun (m : Move) => { m with
      todo := m.todo ++ pages.filter (fun p => !m.todo.contains p) }) }

/-- The data of pages that could not be programmed goes elsewhere: greenware is placed again (R108), and relocated codewords are
read and copied once more. -/
def restage (id : Nat) (pages : List Nat) (d : Dp) : Dp :=
  let on_ (l : Loc) : Bool := l.row = id && pages.contains (l.cw / 4)
  let srcs := ((d.row id).elim [] Row.cws).zipIdx.filterMap (fun (x : Codeword × Nat) =>
    if pages.contains (x.2 / 4) && !x.1.verified then x.1.src else none)
  let d := d.onRow id (fun r => { r with dead := r.dead ++ pages })
  { d with
    map := { d.map with
      green := d.map.green.map (fun (g : Green) => if g.loc.any on_ && !g.verified then { g with loc := none } else g) }
    med := { d.med with rows := d.med.rows.map (moveAgain srcs) } }

/-- Bytes of scratchpad write staging that queued and running programs hold (R95). -/
def payloadBytes (d : Dp) : Nat :=
  let pages (k : OpKind) : Nat := match k with
    | .program _ ps => ps.length
    | _ => 0
  d.kiln.dies.foldl (fun n x => n + pageBytes * ((x.2.queue.foldl (fun m o => m + pages o.kind) 0) +
    x.2.running.elim 0 (fun r => pages r.op.kind + r.rest.foldl (fun m o => m + pages o.kind) 0))) 0

/-- The ready pages of a row that its next program takes: one of each plane at one page index of a block (R79, R95). -/
def nextGroup (d : Dp) (r : Row) : List ReadyPage :=
  match r.ready with
  | [] => []
  | x :: _ =>
    let idx (p : ReadyPage) : Nat := pageIndex d (pageAt r.width p.page).1
    let same (p : ReadyPage) : Bool := p.pos = x.pos && idx p = idx x && p.cls = x.cls && p.task = x.task
    (r.ready.filter same).take (if d.kiln.profile.lists .multiPlane then max 1 (min 6 d.kiln.profile.planes) else 1)

/-- Give a row's ready pages to their dies, while program queues and write staging have room (Table 3-5, R95); a page for a die that is
out of service goes elsewhere. -/
def issueRow (e : Env) (id : Nat) : Nat → Dp → Dp
  | 0, d => d
  | n + 1, d =>
    match d.row id with
    | none => d
    | some r =>
      match nextGroup d r with
      | [] => d
      | x :: t =>
        let b := r.blocks.getD x.pos (0, 0, 0)
        let pages := (x :: t).map ReadyPage.page
        let k : OpKind := .program id pages
        let taken (d : Dp) : Dp := d.onRow id (fun r => { r with ready := r.ready.filter (fun y => !(x :: t).contains y) })
        if !dieGood d b.1 b.2.1 then issueRow e id n (restage id pages (taken d))
        else if hasRoom d b.1 b.2.1 k && payloadBytes d + pageBytes * pages.length ≤ e.staging then
          issueRow e id n (enqueueTask e b.1 b.2.1 k x.cls x.task (taken d))
        else d

/-- Give every row's ready pages to their dies. -/
def issuePrograms (e : Env) (d : Dp) : Dp :=
  (d.med.rows.filter (fun r => !r.ready.isEmpty)).foldl (fun d r => issueRow e r.id r.ready.length d) d

/-! ## Current entries (R53 to R56) -/

/-- A codeword of a row. -/
def Dp.cw (d : Dp) (l : Loc) : Option Codeword := (d.row l.row).bind (fun r => r.cws[l.cw]?)

/-- The journal sequence of the current entry of a block. -/
def entrySeq (d : Dp) (pool b : Nat) : Nat := (((d.entry pool b).bind d.cw).map Codeword.seqn).getD 0

/-- A codeword of a row holds current data. -/
def isCurrent (d : Dp) (id i : Nat) : Bool :=
  d.map.entries.any (fun x => x.2.2 = ⟨id, i⟩)

/-- Indices of a row's codewords that hold current data. -/
def currentCws (d : Dp) (r : Row) : List Nat := (List.range r.cws.length).filter (isCurrent d r.id)

/-- A row still holds a current entry or a pending mapping. -/
def rowHeld (d : Dp) (id : Nat) : Bool :=
  d.map.entries.any (fun x => x.2.2.row = id) || d.map.green.any (fun g => g.loc.any (fun l => l.row = id))

/-! ## Refresh and early warning (R138, R160 to R162) -/

/-- A row that a secure-discard job destroys. -/
def sdTarget (d : Dp) (id : Nat) : Bool := d.sh.sdTargets.any (fun x => x.2.rows.contains id)

/-- A relocation of the row is planned already (R162): it is scheduled, under relocation, a garbage-collection victim, under static
move, or the target of a secure-discard job. -/
def planned (d : Dp) (r : Row) : Bool :=
  r.refresh.isSome || r.moving.isSome || d.med.staticRow = some r.id || sdTarget d r.id

/-- Schedule a refresh; the reasons in the order R161 serves them: 0 stage 2, 1 corrected bits, 2 age, reads or an open stripe. -/
def scheduleRefresh (e : Env) (id why : Nat) (d : Dp) : Dp :=
  match d.row id with
  | none => d
  | some r => if planned d r then d else d.onRow id (fun r => { r with refresh := some why, refreshAt := e.now })

/-- A decode in a row reports its count (R160): above EW_THRESHOLD, or at stage 2, the row is scheduled. DESIGN CHOICE: the one
notice event of the row is logged at its first warning since its erase, whether the warning schedules the row or a relocation is
planned already (notes/assumptions/33.md). -/
def earlyWarning (e : Env) (id stage corrected : Nat) (d : Dp) : Dp :=
  match d.row id with
  | none => d
  | some r =>
    if e.param d 0x0501 < corrected ∨ stage = 2 then
      let d := d.onRow id (fun r => { r with
        ewCount := max r.ewCount corrected, stage2 := r.stage2 || stage = 2, warned := true })
      let d := scheduleRefresh e id (if stage = 2 then 0 else 1) d
      if r.warned then d else count 5 6 1 (logE e 0x0502 2 srcFirmware [id, corrected, stage] d)
    else d

/-- A read counts against the block that was read (R138). -/
def countRead (e : Env) (id pos : Nat) (d : Dp) : Dp :=
  let d := d.onRow id (fun r => { r with reads := r.reads.put pos (r.reads.get 0 pos + 1) })
  match d.row id with
  | none => d
  | some r => if (if r.use.slc then 1000000 else 100000) ≤ r.reads.get 0 pos then scheduleRefresh e id 2 d else d

/-! ## Retirement and reserves (R140 to R142) -/

/-- Resident bytes that the pools of the registry place on this member. -/
def residentHere (e : Env) (d : Dp) : Nat :=
  4096 * (d.sh.reg.pools.foldl (fun n p => n + p.lay.resident e.rank) 0)

/-- W × R_act (R142), which is whole. -/
def reserveW (e : Env) (d : Dp) : Int :=
  let w := stripeWidth e d
  ((rawBytes d - systemRaw d e.dramBytes) * (w - 1) : Nat) - (residentHere e d * w : Nat)

/-- R_act in bytes, 0 when it has fallen below 0. -/
def actualReserve (e : Env) (d : Dp) : Nat := (reserveW e d).toNat / max 1 (stripeWidth e d)

/-- A threshold of Table 4-4, in % of C_raw, is in force: entered below it, and left above it. -/
def below (e : Env) (d : Dp) (pct level : Nat) : Bool :=
  let r := reserveW e d * 100
  let t : Int := (pct * rawBytes d * stripeWidth e d : Nat)
  r < t || (level ≤ d.med.reserve && r ≤ t)

/-- The threshold of Table 4-4 in force: 0 none, 1 LOW, 2 CRITICAL, 3 WORN. -/
def reserveLevel (e : Env) (d : Dp) : Nat :=
  if below e d 2 3 then 3 else if below e d 4 2 then 2 else if below e d 7 1 then 1 else 0

/-- Recompute the reserve: each threshold newly crossed is logged, and RESERVE is set when the level changes. -/
def checkReserve (e : Env) (d : Dp) : Dp :=
  let n := reserveLevel e d
  let was := d.med.reserve
  if n = was then d
  else
    let pct := actualReserve e d * 10000 / max 1 (rawBytes d)
    let d := { d with med := { d.med with reserve := n } }
    let d := if was < 1 ∧ 1 ≤ n then logE e 0x0301 3 srcFirmware [pct] d else d
    let d := if was < 2 ∧ 2 ≤ n then logE e 0x0302 4 srcFirmware [pct] d else d
    let d := if was < 3 ∧ 3 ≤ n then logE e 0x0303 5 srcFirmware [pct] d else d
    cause e evReserve d

/-- Retirement recomputes P, M and F at once (R141), and the registry steward is told. -/
def recompute (e : Env) (d : Dp) : Dp := checkReserve e { d with sh := { d.sh with figDue := true } }

/-! ## Fencing (R112) -/

/-- A fenced unit whose rows have to be rebuilt (R130), and when it was fenced. -/
def addFence (e : Env) (c : Nat) (n : Option Nat) (d : Dp) : List (Nat × Option Nat × Nat) :=
  if d.med.rebuilding.any (fun x => x.1 = c && x.2.1 = n) then d.med.rebuilding else d.med.rebuilding ++ [(c, n, e.now)]

/-- Rows that still take pages and have a block on a unit take no more; pages of theirs that no die has taken yet go elsewhere. -/
def closeRows (e : Env) (on_ : Nat × Nat × Nat → Bool) (d : Dp) : Dp :=
  let hit := d.med.rows.filter (fun (r : Row) => r.blocks.any on_ && (!r.full || !r.ready.isEmpty))
  hit.foldl (fun d r =>
    let rest := r.ready.filter (fun p => on_ (r.blocks.getD p.pos (0, 0, 0)))
    restage r.id (rest.map ReadyPage.page) (d.onRow r.id (fun (r : Row) => { r with
      full := true, filledAt := if r.full then r.filledAt else e.now,
      ready := r.ready.filter (fun p => !rest.contains p) }))) d

/-- A die read that will not be served goes back to who asked for it. -/
def returnRead (cws : List Nat) (why : ReadWhy) (d : Dp) : Dp :=
  match why with
  | .fetch f =>
    { d with sh := { d.sh with fetches := d.sh.fetches.map (fun (g : Fetch) =>
        if g = f then { g with queued := false } else g) } }
  | .move id => d.onRow id (fun r => { r with moving := r.moving.map (fun (m : Move) => { m with
      todo := m.todo ++ (pagesOf cws).filter (fun p => !m.todo.contains p)
      asked := m.asked.filter (fun i => !cws.contains i) }) })
  | .stripe j =>
    { d with kiln := { d.kiln with jobs := updateWhere (fun (x : StripeJob) => x.id = j) (fun x => { x with
        todo := x.todo ++ pagesOf cws, asked := x.asked.filter (fun p => !(pagesOf cws).contains p) }) d.kiln.jobs } }

/-- Operations a die holds. -/
def opsOf (x : Die) : List OpKind :=
  x.queue.map DieOp.kind ++ x.running.toList.flatMap (fun r => r.op.kind :: r.rest.map DieOp.kind) ++
    x.suspended.toList.map (fun r => r.op.kind) ++ x.cut.toList.map DieOp.kind

/-- A block that leaves service keeps what was programmed to it (R66). -/
def addRelic (r : Row) (pos : Nat) (d : Dp) : Dp :=
  let cws := (r.cws.zipIdx.filter (fun x => (pageAt r.width (x.2 / 4)).2 = pos)).map Prod.fst
  let b := r.blocks.getD pos (0, 0, 0)
  if cws.isEmpty || d.med.relics.any (fun x => x.block = b) then d
  else { d with med := { d.med with relics := d.med.relics ++ [{ block := b, cws := cws }] } }

/-- A block's erase is settled: a row whose erases are all settled is free. -/
def eraseSettled (id pos : Nat) (d : Dp) : Dp :=
  let d := d.onRow id (fun r => { r with erasing := r.erasing.map (fun l => l.filter (· != pos)) })
  { d with med := { d.med with rows := d.med.rows.filter (fun r => !(r.id = id && r.erasing = some [])) } }

/-- A block that secure-discard jobs name is destroyed, or is out of reach. -/
def sdBlock (id : Option Nat) (b : Nat × Nat × Nat) (gone : Bool) (d : Dp) : Dp :=
  { d with sh := { d.sh with sdTargets := d.sh.sdTargets.map (fun (x : Nat × SdPart) =>
      let mine := id.any x.2.rows.contains || x.2.bad.contains b
      if mine then (x.1, { x.2 with
        bad := without b x.2.bad, done := if gone then x.2.done + 1 else x.2.done, left := x.2.left || !gone }) else x) } }

/-- A block that waits for its erase on a unit that is fenced is out of reach. -/
def dropBlock (r : Row) (pos : Nat) (d : Dp) : Dp :=
  eraseSettled r.id pos (sdBlock (some r.id) (r.blocks.getD pos (0, 0, 0)) false (addRelic r pos d))

/-- The operations a die holds are taken off it: programs go elsewhere, queued reads are served by die-stripe rebuild, erases
are dropped (R112). -/
def dropOps (e : Env) (c n : Nat) (d : Dp) : Dp :=
  let x := d.die c n
  let ops := opsOf x
  let d := closeRows e (fun b => b.1 = c && b.2.1 = n) (d.setDie c n { x with
    queue := []
    running := none
    suspended := none
    cut := none })
  let d := ops.foldl (fun d k =>
    match k with
    | .program r ps => restage r ps d
    | .read _ cws why _ => returnRead cws why d
    | _ => d) d
  let lost := (d.med.rows.filter (fun r => r.erasing.isSome)).flatMap (fun r =>
    (r.erasing.getD []).filterMap (fun i => let b := r.blocks.getD i (0, 0, 0); if b.1 = c ∧ b.2.1 = n then some (r, i) else none))
  lost.foldl (fun d x => dropBlock x.1 x.2 d) d

/-- Fence a die (R110, R112): its rows are to be rebuilt, and the member's capacity falls (R141). -/
def fenceDie (e : Env) (c n : Nat) (d : Dp) : Dp :=
  if (d.die c n).fenced then d
  else
    let d := d.setDie c n { d.die c n with fenced := true }
    let d := dropOps e c n { d with med := { d.med with rebuilding := addFence e c (some n) d } }
    recompute e (cause e evMedia (count 4 6 1 (logE e 0x0402 4 srcKiln [c, n] d)))

/-- Fence a channel for a reason of R111, numbered in its order. -/
def fenceChan (e : Env) (c why : Nat) (d : Dp) : Dp :=
  if (d.chan c).fenced then d
  else
    let d := d.setChan c { d.chan c with fenced := true, bus := none, offBus := none }
    let d := (List.range 16).foldl (fun d n => dropOps e c n d)
      { d with med := { d.med with rebuilding := addFence e c none d } }
    recompute e (cause e evMedia (count 4 7 1 (logE e 0x0403 4 srcKiln [c, why] d)))

/-- Retire a die (R140): fenced as under R112 and rebuilt under R130. -/
def retireDie (e : Env) (c n : Nat) (d : Dp) : Dp :=
  if d.med.diesRetired.contains (c, n) then d
  else
    let d := fenceDie e c n d
    let d := { d with med := { d.med with diesRetired := d.med.diesRetired ++ [(c, n)] } }
    recompute e (count 3 6 1 (logE e 0x0306 4 srcFirmware [c, n] d))

/-- Retire a block (R140): `event` is the line of Table 4-3. More than 5 % of a die's blocks, or more than 8 in 24 h,
retire the die. -/
def retireBlock (e : Env) (b : Nat × Nat × Nat) (event : Nat) (d : Dp) : Dp :=
  if d.med.retired.contains b then d
  else
    let c := b.1
    let n := b.2.1
    let times := (d.med.retireTimes ++ [(c, n, (e.now : Int))]).filter (fun t => (e.now : Int) < t.2.2 + (86400 * second : Nat))
    let d := { d with med := { d.med with
        retired := d.med.retired ++ [b], retireTimes := times, suspect := without b d.med.suspect,
        failing := without b d.med.failing, eraseFails := without b d.med.eraseFails } }
    let d := recompute e (count 3 5 1 (logE e 0x0305 2 srcFirmware [c, n, b.2.2, event] d))
    let dead := (d.med.retired.filter (fun x => x.1 = c && x.2.1 = n)).length
    let day := (times.filter (fun t => t.1 = c && t.2.1 = n)).length
    if d.kiln.profile.blocks * 5 < dead * 100 ∨ 8 < day then retireDie e c n d else d

/-! ## Erasing rows -/

/-- A row is to be destroyed block by block, the retired blocks too, for a secure-discard job (Table 2-5 steps 7 and 8). -/
def scrubs (d : Dp) (r : Row) (i : Nat) : Bool :=
  let b := r.blocks.getD i (0, 0, 0)
  sdTarget d r.id && dieGood d b.1 b.2.1 && d.med.retired.contains b

/-- The erase of every block of a row begins (class P5); a block that has failed a program is retired instead (Table 4-3), and one that
is out of service keeps its content. -/
def eraseRow (e : Env) (id : Nat) (d : Dp) : Dp :=
  match d.row id with
  | none => d
  | some r =>
    if r.erasing.isSome then d
    else
      let d := (r.blocks.filter (fun b => d.med.failing.contains b)).foldl (fun d b => retireBlock e b 1 d) d
      let live (i : Nat) : Bool :=
        let b := r.blocks.getD i (0, 0, 0); (dieGood d b.1 b.2.1 && !d.med.retired.contains b) || scrubs d r i
      let all := List.range r.blocks.length
      let d' := (all.filter (fun i => !live i)).foldl (fun d i => sdBlock (some id) (r.blocks.getD i (0, 0, 0)) false (addRelic r i d)) d
      let d' := d'.onRow id (fun r => { r with erasing := some (all.filter live), moving := none, ready := [] })
      if (all.filter live).isEmpty then { d' with med := { d'.med with rows := d'.med.rows.filter (fun x => x.id != id) } }
      else d'

/-- An erase of a row, or the zeroing or reading back of its block, stands at a die. -/
def eraseAt (x : Die) (id block : Nat) : Bool :=
  (opsOf x).any (fun k => k = .erase id || k = .zero block || k = .readBack block true || k = .readBack block false)

/-- Give the erases of rows, and what a secure-discard job zeroes, to their dies, while queues have room (Table 3-5). -/
def issueErases (e : Env) (d : Dp) : Dp :=
  let d := (d.med.rows.filter (fun r => r.erasing.isSome)).foldl (fun d r =>
    (r.erasing.getD []).foldl (fun d i =>
      let b := r.blocks.getD i (0, 0, 0)
      let k : OpKind × Nat := if scrubs d r i then (.zero b.2.2, 4) else (.erase r.id, 5)
      if dieGood d b.1 b.2.1 && !eraseAt (d.die b.1 b.2.1) r.id b.2.2 && hasRoom d b.1 b.2.1 k.1 then
        enqueue e b.1 b.2.1 k.1 k.2 d
      else d) d) d
  (d.sh.sdTargets.flatMap (fun x => x.2.bad)).foldl (fun d b =>
    if dieGood d b.1 b.2.1 && !eraseAt (d.die b.1 b.2.1) 0 b.2.2 && hasRoom d b.1 b.2.1 (.zero b.2.2) then
      enqueue e b.1 b.2.1 (.zero b.2.2) 4 d
    else d) d

/-- The block of a row on a die, and its position in the row. -/
def blockOn (r : Row) (c n : Nat) : Option (Nat × (Nat × Nat × Nat)) :=
  (r.blocks.zipIdx.find? (fun x => x.1.1 = c && x.1.2.1 = n)).map (fun x => (x.2, x.1))

/-- The row under erase that holds a block, and the block's position in it. -/
def erasingRow (d : Dp) (b : Nat × Nat × Nat) : Option (Nat × Nat) :=
  (d.med.rows.filter (fun r => r.erasing.isSome)).findSome? (fun r =>
    (r.blocks.findIdx? (· = b)).bind (fun i => if (r.erasing.getD []).contains i then some (r.id, i) else none))

/-- A block under destruction is done with, `gone` where nothing is left on it. -/
def blockDone (b : Nat × Nat × Nat) (gone : Bool) (d : Dp) : Dp :=
  let at_ := erasingRow d b
  let d := sdBlock (at_.map Prod.fst) b gone d
  let d := if gone then { d with med := { d.med with relics := d.med.relics.filter (fun x => x.block != b) } } else d
  match at_ with
  | some (id, i) => eraseSettled id i d
  | none => d

/-- A row to erase now: relocated, with nothing left to copy, or a full bisque row all of whose IUs are stale (R123, R134). -/
def spent (d : Dp) (r : Row) : Bool :=
  r.erasing.isNone && (r.moving.any (fun m => m.todo.isEmpty && m.asked.isEmpty) ||
    ((r.use = .bisque || r.use.isRegistry) && r.full && r.ready.isEmpty && r.moving.isNone)) && !rowHeld d r.id

/-- Erase the rows that nothing refers to any more. -/
def sweepRows (e : Env) (d : Dp) : Dp := (d.med.rows.filter (spent d)).foldl (fun d r => eraseRow e r.id d) d

/-- The die that holds a codeword. -/
def dieOf (d : Dp) (l : Loc) : Option (Nat × Nat) :=
  (d.row l.row).map (fun r =>
    let b := r.blocks.getD (pageAt r.width (l.cw / 4)).2 (0, 0, 0)
    (b.1, b.2.1))

/-! ## Die-stripe rebuild (Table 3-8 stage 3, R129, R130) -/

/-- The pages of the stripe that a page belongs to, without it. -/
def stripeMates (r : Row) (page : Nat) : List Nat :=
  let s := (pageAt r.width page).1
  ((List.range r.width).map (stripePage r.width s)).filter (· != page)

/-- The stripe of a page is closed: all its data pages and its XOR page have been staged. -/
def stripeClosed (r : Row) (page : Nat) : Bool := 4 * (r.width - 1) * ((pageAt r.width page).1 + 1) ≤ r.cws.length

/-- A die-stripe rebuild of a codeword begins. -/
def startStripe (row cw : Nat) (why : ReadWhy) (cls : Nat) (task : Task) (d : Dp) : Dp :=
  match d.row row with
  | none => d
  | some r =>
    let j : StripeJob :=
      { id := d.kiln.nextJob, row := row, page := cw / 4, slot := cw % 4, why := why, cls := cls, task := task,
        todo := stripeMates r (cw / 4), asked := [], sum := [zeroSealed] }
    { d with kiln := { d.kiln with jobs := d.kiln.jobs ++ [j], nextJob := d.kiln.nextJob + 1 } }

/-! ## Relocation (R55, R56, R158) -/

/-- Relocate a row's current codewords into a row of a use: they are read and decoded page by page, and the copies keep sequence,
seal, kind and content. Each becomes current when its page is verified, and the row is erased once nothing in it is current. A
static move takes a new row of the most-worn blocks (R136); where none can be opened, nothing begins. -/
def relocateRow (e : Env) (id : Nat) (u : RowUse) (cls : Nat) (task : Task) (d : Dp) : Dp :=
  match d.row id with
  | none => d
  | some r =>
    if r.moving.isSome || r.erasing.isSome then d
    else
      let u := if r.use = .bisque || r.use = .stoneware then u else r.use
      let pages := pagesOf (currentCws d r)
      let begin_ (into : Option Nat) (d : Dp) : Dp := sweepRows e (d.onRow id (fun r => { r with
        full := true, filledAt := if r.full then r.filledAt else e.now,
        moving := some { use := u, into := into, cls := cls, task := task, todo := pages, asked := [] } }))
      if task = .static && !pages.isEmpty then
        match openRow e u true d with
        | none => { d with med := { d.med with staticRow := none } }
        | some (d, n) => begin_ (some n) d
      else begin_ none d

/-- Wear at which a block is retired: WEAR_RETIRE of the rated native cycles (R148), in the unit of `wearOf`. -/
def wearLimit (e : Env) (d : Dp) : Nat := d.kiln.profile.ratedNative * e.param d 0x0307 * wearUnit d / 100

/-! ## Space (R116, R132, R143) -/

/-- Erased native capacity E_free: good blocks that stand in no row. -/
def erasedBytes (d : Dp) : Nat :=
  let used := (d.med.rows.flatMap Row.blocks).filter (fun b => dieGood d b.1 b.2.1 && !d.med.retired.contains b)
  rawBytes d - used.length * blockBytes d

/-- T of R132. -/
def gcTarget (e : Env) (d : Dp) : Nat :=
  d.kiln.profile.bits * (d.med.bisque - bisqueUsed d) + e.param d 0x0304 * rawBytes d / 10000

/-- Open rows for a system area until it has its size (R116). -/
def growArea (e : Env) (u : RowUse) (size : Nat) : Nat → Dp → Dp
  | 0, d => d
  | n + 1, d =>
    if size ≤ areaBytes d u then d
    else match openRow e u false d with
      | none => d
      | some (d, _) => growArea e u size n d

/-- Every system area has its size (R116). -/
def growAreas (e : Env) (d : Dp) : Dp :=
  [RowUse.lastTide, .journalStrand, .mapStrand, .diagnostic].foldl (fun d u =>
    growArea e u (areaSize e u) (divUp (areaSize e u) (2 ^ 26)) d) d

end Sys2Proof.Machine
end

