-- ==== Sys2Proof/Machine/Ring.lean ====
section
/-! DEFINITION. Causeway: links and the replay buffer (R278), routes (R284), frames sent with PAIR_SEQ, and what
arrives: session, order, duplicates, acknowledgements (R279 to R283, R529). -/

namespace Sys2Proof

/-- Number of a port: 0 near-east, 1 near-west, 2 far-east, 3 far-west (Table 5-10, Table 17-8). -/
def CwPort.num (p : CwPort) : Nat :=
  match p with
  | .ne => 0
  | .nw => 1
  | .fe => 2
  | .fw => 3

end Sys2Proof

namespace Sys2Proof.Machine

/-! ## Ports -/

/-- The ports in the order R284 prefers: near before far, east before west. -/
def cwPorts : List CwPort := [.ne, .nw, .fe, .fw]

/-- The record of a port. -/
def Dp.link (d : Dp) (p : CwPort) : CwLink :=
  match p with
  | .ne => d.ring.ne
  | .nw => d.ring.nw
  | .fe => d.ring.fe
  | .fw => d.ring.fw

/-- Replace the record of a port. -/
def Dp.setLink (d : Dp) (p : CwPort) (l : CwLink) : Dp :=
  match p with
  | .ne => { d with ring := { d.ring with ne := l } }
  | .nw => { d with ring := { d.ring with nw := l } }
  | .fe => { d with ring := { d.ring with fe := l } }
  | .fw => { d with ring := { d.ring with fw := l } }

/-- At least one port is up. -/
def anyLink (d : Dp) : Bool := cwPorts.any (fun p => (d.link p).up)

/-- What this device floods of its own links: the partner of each port that is up. -/
def ownLinks (d : Dp) : List LinkTo := cwPorts.map (fun p => if (d.link p).up then (d.link p).partner else none)

/-! ## Peers -/

/-- A rank nothing has been heard of. -/
def freshPeer : Peer :=
  { boot := 0, session := 0, lastHb := 0, heard := false, silent := false, silentAt := 0, out := false, flags := 0,
    serial := 0, roles := [], unbrokenSince := 0 }

def Dp.peer (d : Dp) (r : Nat) : Peer := d.ring.peers.get freshPeer r

def Dp.setPeer (d : Dp) (r : Nat) (p : Peer) : Dp :=
  { d with ring := { d.ring with peers := d.ring.peers.put r p } }

/-- A rank's heartbeats are heard and it has not left the ring; the device itself is always present (R233, R286). -/
def present (e : Env) (d : Dp) (r : Nat) : Bool :=
  r = e.rank || ((d.peer r).heard && !(d.peer r).silent && !(d.peer r).out)

/-- Ranks of the registry membership that are present, in ascending order. -/
def presentMembers (e : Env) (d : Dp) : List Nat :=
  (List.range 16).filter (fun r => (d.sh.reg.members.any (fun m => m.rank = r)) && present e d r)

/-- Every other device that is present. -/
def otherRanks (e : Env) (d : Dp) : List Nat := (List.range 16).filter (fun r => r != e.rank && present e d r)

/-! ## Routes (R284) -/

/-- The links of a rank: its own as they stand, another's as TOPOLOGY last told. -/
def linksOf (e : Env) (d : Dp) (r : Nat) : List LinkTo :=
  if r = e.rank then ownLinks d else (d.ring.topo.get (0, []) r).2

/-- Ranks one hop from any rank of a list. -/
def hopOnce (e : Env) (d : Dp) (l : List Nat) : List Nat :=
  (l.flatMap (fun r => (linksOf e d r).filterMap id)).eraseDups

/-- Ranks within `n` hops of a rank. -/
def within (e : Env) (d : Dp) (r : Nat) : Nat → List Nat
  | 0 => [r]
  | n + 1 => let l := within e d r n; (l ++ hopOnce e d l).eraseDups

/-- Hops from one rank to another, if a path exists. -/
def hopCount (e : Env) (d : Dp) (a b : Nat) : Option Nat :=
  (List.range 16).find? (fun n => (within e d a n).contains b)

/-- The port by which a rank sends towards another: of the shortest paths, a near port first, then an east port. -/
def firstHop (e : Env) (d : Dp) (a b : Nat) : Option (CwPort × Nat) :=
  match hopCount e d a b with
  | none => none
  | some 0 => none
  | some (n + 1) =>
    (cwPorts.filterMap (fun p =>
      match (linksOf e d a).getD p.num none with
      | some r => if hopCount e d r b = some n then some (p, r) else none
      | none => none)).head?

/-- The route from a rank to another: the ports of its hops. -/
def route (e : Env) (d : Dp) : Nat → Nat → Nat → List CwPort
  | 0, _, _ => []
  | f + 1, a, b =>
    match firstHop e d a b with
    | none => []
    | some (p, r) => p :: route e d f r b

/-- The device's route to a rank. -/
def routeTo (e : Env) (d : Dp) (b : Nat) : List CwPort := route e d 15 e.rank b

/-- Ranks in the ring under the device's own routing topology, itself included (R241), in ascending order. -/
def ringRanks (e : Env) (d : Dp) : List Nat :=
  let l := within e d e.rank 15
  (List.range 16).filter (fun r => l.contains r)

/-! ## Sending -/

/-- Class of what a port sends (Table 8-5), its bytes, and whether it is in transit (R285). -/
def outCls : Output → Nat
  | .frame _ f _ => f.cls
  | .link _ (.forward f) => f.cls
  | .link _ (.test _ _) => 4
  | _ => 0
def outBytes (o : Output) : Nat :=
  match o with
  | .link _ (.test _ _) => 4168
  | _ => if 3 ≤ outCls o then 4168 else 56
def inTransit : Output → Bool
  | .link _ (.forward _) => true
  | _ => false

/-- A frame goes out on a port: it is kept in the replay buffer, and counts in the port's window (R278, R289). -/
def transmit (now : Nat) (p : CwPort) (o : Output) (d : Dp) : Dp :=
  let l := d.link p
  let c := outCls o
  put o (d.setLink p { l with
    txSeq := (l.txSeq + 1) % 65536
    replay := l.replay ++ [(l.txSeq, o)]
    ackAt := if l.replay.isEmpty then now else l.ackAt
    winAll := l.winAll + outBytes o
    win4 := l.win4 + (if c = 4 then outBytes o else 0)
    winBulk := l.winBulk + (if 3 ≤ c then outBytes o else 0)
    transitLast := if inTransit o then addNew c l.transitLast else without c l.transitLast })

/-- A frame of class 3 or 4 keeps within zone Z1's share of the port's rate, 12.5 GB/s a lane, in the window (R263, R420). -/
def bulkRoom (act : Nat) (l : CwLink) (o : Output) : Bool :=
  outCls o < 3 || 65536 ≤ act || l.winBulk + outBytes o ≤ l.lanes * 1250000 * act / 65536

/-- The frame that leaves next of those that wait and have room in the window (R289): one of class 4 while that class has had less than 10 % of the port's bytes, else
of the lowest class; within the class transit and local frames in turn. -/
def nextOut (act : Nat) (l : CwLink) : Option Output :=
  let txq := l.txq.filter (bulkRoom act l)
  let four := txq.any (fun o => outCls o = 4) && l.win4 * 10 < l.winAll
  let c := if four then 4 else txq.foldl (fun n o => min n (outCls o)) (txq.head?.elim 0 outCls)
  let q := txq.filter (fun o => outCls o = c)
  (q.find? (fun o => inTransit o != l.transitLast.contains c)).or q.head?

/-- Send on a link: kept in its replay buffer of 128 frames until LINK_ACK covers it, or waiting for room (R278) or for the next window
(R420). -/
def sendOn (now : Nat) (p : CwPort) (o : Output) (d : Dp) : Dp :=
  let l := d.link p
  if l.up then
    if l.replay.length < 128 && bulkRoom (d.act 1) l o && l.txq.all (fun y => !bulkRoom (d.act 1) l y) then transmit now p o d
    else d.setLink p { l with txq := l.txq ++ [o] }
  else d

/-- Frames that waited for room go out. -/
def drainLink (now : Nat) (p : CwPort) : Nat → Dp → Dp
  | 0, d => d
  | n + 1, d =>
    let l := d.link p
    match nextOut (d.act 1) l with
    | some o => if l.replay.length < 128 then drainLink now p n (transmit now p o (d.setLink p { l with txq := l.txq.erase o })) else d
    | none => d

/-- A port has sent and holds queued more than 10 GB/s makes in 100 µs (R268). -/
def overload (l : CwLink) : Bool := 1000000 < l.winAll + l.txq.foldl (fun n o => n + outBytes o) 0

/-- A window of 100 µs ends on every port, and what waited for the next goes out (R268, R289, R420; DESIGN CHOICE: windows follow one
another: notes/assumptions/34.md). -/
def endWindows (now : Nat) (d : Dp) : Dp :=
  cwPorts.foldl (fun d p =>
    let l := d.link p
    drainLink now p l.txq.length (d.setLink p { l with winAll := 0, win4 := 0, winBulk := 0, loaded := overload l })) d

/-- A frame has arrived good on a port (R278). -/
def rxOn (p : CwPort) (d : Dp) : Dp :=
  let l := d.link p
  d.setLink p { l with rxSeq := (l.rxSeq + 1) % 65536, rxNew := true, nakked := false }

/-- A message of one link only. -/
def sendLink (now : Nat) (p : CwPort) (m : LinkMsg) (d : Dp) : Dp := sendOn now p (.link p m) d

/-- A frame has arrived bad on a port, or out of its place: it is discarded, and the first sequence that is lacking is asked for, once
until a good frame arrives (R278). -/
def rxBad (now : Nat) (p : CwPort) (d : Dp) : Dp :=
  let l := d.link p
  if l.nakked || !l.up then d else sendLink now p (.nak l.rxSeq) (d.setLink p { l with nakked := true })

/-- The class of a frame type (Table 8-5); sherd and read data take class 3 or 4 (R276). -/
def FrameType.cls (t : FrameType) (bulk : Nat) : Nat :=
  match t with
  | .heartbeat | .claim | .fenced | .relinquish | .handover | .ringExit => 0
  | .ticketRequest | .ticketGrant | .commitNotice | .dropNotice | .mirrorGroup | .mirrorAck | .resolve
  | .resolveReply | .sherdDone => 1
  | .joinRequest | .joinAdmit | .readRequest | .control | .sherdRefused | .readFail | .e2eAck | .e2eNak => 2
  | .sherdData | .readData => bulk

/-- The code of a frame type (Table 8-5). -/
def FrameType.code (t : FrameType) : Nat :=
  match t with
  | .heartbeat => 0x03 | .claim => 0x04 | .fenced => 0x05 | .relinquish => 0x06 | .handover => 0x07
  | .ringExit => 0x08 | .ticketRequest => 0x10 | .ticketGrant => 0x11 | .commitNotice => 0x12 | .dropNotice => 0x13
  | .mirrorGroup => 0x14 | .mirrorAck => 0x15 | .resolve => 0x16 | .resolveReply => 0x17 | .sherdDone => 0x18
  | .joinRequest => 0x20 | .joinAdmit => 0x21 | .readRequest => 0x22 | .control => 0x23 | .sherdRefused => 0x24
  | .readFail => 0x25 | .e2eAck => 0x28 | .e2eNak => 0x29 | .sherdData => 0x30 | .readData => 0x31

/-- No pair state yet. -/
def freshPair : Pair :=
  { txSeq := 0, unacked := [], txAt := 0, rxNext := 0, held := [], gapAt := none, sinceAck := 0, ackAt := 0 }

/-- Pair state of a rank and class (R279). -/
def Dp.pair (d : Dp) (r c : Nat) : Pair := d.ring.pairs.get freshPair (r * 8 + c)

def Dp.setPair (d : Dp) (r c : Nat) (p : Pair) : Dp :=
  { d with ring := { d.ring with pairs := d.ring.pairs.put (r * 8 + c) p } }

/-- A rank as the header carries it. -/
def toRank (r : Nat) : Rank := ⟨r % 16, Nat.mod_lt _ (by decide)⟩

/-- POOL of a frame that names none. -/
def noPool : Nat := 0xFFFF

/-- A frame header of this device, before PAIR_SEQ and PAIR_ACK. -/
def header (e : Env) (d : Dp) (dst pool : Nat) : Frame :=
  { cls := 0, src := toRank e.rank, dst := toRank dst, pool := pool, claim := 0, pairSeq := 0, pairAck := 0,
    session := d.ring.session.toNat % 256, replayed := false, ackNow := false, hops := 0, seqn := 0, row := 0,
    posFirst := 0, posLast := 0, unit := 0, arg := 0, port := .ne, crcOk := true }

/-- E2E_ACK and E2E_NAK carry no PAIR_SEQ of their own (R276). -/
def FrameType.paired (t : FrameType) : Bool := !(t = .e2eAck || t = .e2eNak)

/-- Send a frame: numbered by PAIR_SEQ for its destination and class, acknowledging the reverse direction, kept until
PAIR_ACK covers it (R279 to R281), and put on its route. A frame to the device itself stays inside the device. -/
def send (e : Env) (t : FrameType) (bulk : Nat) (f : Frame) (b : FrameBody) (d : Dp) : Dp :=
  let c := t.cls bulk
  let r := f.dst.val
  let d := if 1 ≤ c && r != e.rank then { d with ring := { d.ring with busyAt := e.now } } else d
  if r = e.rank then put (.frame t { f with cls := c } b) d
  else if d.ring.exited then d
  else
    let p := d.pair r c
    let f := { f with
      cls := c, pairSeq := if t.paired then p.txSeq % 2 ^ 32 else 0, pairAck := p.rxNext % 2 ^ 32,
      port := ((firstHop e d e.rank r).map Prod.fst).getD .ne }
    let d := if t.paired then
        d.setPair r c { p with txSeq := p.txSeq + 1, unacked := p.unacked ++ [(t, f, b)], txAt := e.now,
                               sinceAck := 0 }
      else d
    match firstHop e d e.rank r with
    | some (port, _) => sendOn e.now port (.frame t f b) d
    | none => d

/-- Send one frame to each rank of a list. -/
def sendEach (e : Env) (t : FrameType) (ranks : List Nat) (mk : Nat → Frame) (b : FrameBody) (d : Dp) : Dp :=
  ranks.foldl (fun d r => send e t 3 (mk r) b d) d

/-- How far a PAIR_SEQ stands past another, modulo 2^32 (Table 8-3 gives the field 32 bits); from 2^31 on it stands before it. -/
def ahead (a b : Nat) : Nat := (a + 2 ^ 32 - b % 2 ^ 32) % 2 ^ 32

/-- Send the unacknowledged frames for a rank and class again, marked REPLAYED, from a PAIR_SEQ on (R281). -/
def resend (e : Env) (r c start : Nat) (d : Dp) : Dp :=
  let p := d.pair r c
  let again := p.unacked.filter (fun x => ahead x.2.1.pairSeq start < 2 ^ 31)
  let d := d.setPair r c { p with txAt := e.now }
  match firstHop e d e.rank r with
  | none => d
  | some (port, _) =>
    count 8 (5 * port.num + 3) again.length
      (again.foldl (fun d x => sendOn e.now port (.frame x.1 { x.2.1 with replayed := true, port := port } x.2.2) d) d)

/-- All of them. -/
def resendAll (e : Env) (r c : Nat) (d : Dp) : Dp :=
  resend e r c ((d.pair r c).unacked.head?.elim 0 (fun x => x.2.1.pairSeq)) d

/-- Routes have changed: unacknowledged frames of every rank whose route differs are sent again (R281, R287). -/
def reroute (e : Env) (before : Dp) (d : Dp) : Dp :=
  (List.range 16).foldl (fun d r =>
    if r != e.rank && routeTo e before r != routeTo e d r then
      (List.range 5).foldl (fun d c => resendAll e r c d) d
    else d) d

/-- Flood this device's link states on every port that is up (R284). -/
def floodTopology (e : Env) (d : Dp) : Dp :=
  let d := { d with ring := { d.ring with version := d.ring.version + 1 } }
  cwPorts.foldl (fun d p => sendLink e.now p (.topology e.rank d.ring.version (ownLinks d)) d) d

/-- A link goes down: TOPOLOGY is flooded, and the frames of its replay buffer and queue leave by the new routes
(R286, R287). Frames of this device go again from their end-to-end buffers. -/
def linkDown (e : Env) (p : CwPort) (d : Dp) : Dp :=
  let before := d
  let l := d.link p
  let transit := (l.replay.map Prod.snd ++ l.txq).filterMap (fun o =>
    match o with
    | .link _ (.forward f) => some f
    | _ => none)
  let d := d.setLink p { l with up := false, replay := [], txq := [], downAt := e.now, partner := none,
                                testLeft := none, downs := l.downs ++ [e.now] }
  let d := count 8 (5 * p.num + 4) 1 (floodTopology e d)
  let d := transit.foldl (fun d f =>
    match firstHop e d e.rank f.dst.val with
    | some (q, _) => sendOn e.now q (.link q (.forward f)) d
    | none => d) d
  reroute e before d

/-! ## Arrival -/

/-- A frame dropped as MALFORMED: counted and logged at warning (Table 7-5, R275). -/
def malformed (e : Env) (f : Frame) (code : Nat) (d : Dp) : Dp :=
  let d := { d with lane := { d.lane with malformed := d.lane.malformed + 1 } }
  logE e 0x0805 3 srcCauseway [f.port.num, f.src.val, code] d

/-- A new session of a rank: pair state in both directions is discarded (R283). -/
def learnSession (r : Nat) (session : BitVec 32) (boot : Word) (d : Dp) : Dp :=
  let p := d.peer r
  if p.session = session then d.setPeer r { p with boot := boot }
  else
    let d := d.setPeer r { p with session := session, boot := boot }
    { d with ring := { d.ring with pairs := d.ring.pairs.filter (fun x => x.1 / 8 != r) } }

/-- PAIR_ACK frees every frame below it (R281). -/
def ackPair (r c ack : Nat) (d : Dp) : Dp :=
  let p := d.pair r c
  d.setPair r c { p with unacked := p.unacked.filter (fun x => ahead x.2.1.pairSeq ack < 2 ^ 31) }

/-- Acknowledge a rank and class with an E2E_ACK frame (R280). -/
def sendAck (e : Env) (r c : Nat) (d : Dp) : Dp :=
  let p := d.pair r c
  let d := d.setPair r c { p with sinceAck := 0, ackAt := e.now }
  send e .e2eAck 3 { header e d r noPool with pairAck := p.rxNext % 2 ^ 32, arg := c } .none d

/-- Ask a rank for the first missing PAIR_SEQ of a class (R280). -/
def sendNak (e : Env) (r c : Nat) (d : Dp) : Dp :=
  send e .e2eNak 3 { header e d r noPool with arg := c * 2 ^ 32 + (d.pair r c).rxNext % 2 ^ 32 } .none d

/-- Take the frames held in order from the next PAIR_SEQ on. -/
def takeHeld : Nat → Nat → List (FrameType × Frame × FrameBody) → Nat × List (FrameType × Frame × FrameBody) × List (FrameType × Frame × FrameBody)
  | 0, n, h => (n, [], h)
  | k + 1, n, h =>
    match h.find? (fun x => ahead x.2.1.pairSeq n = 0) with
    | none => (n, [], h)
    | some x =>
      let t := takeHeld k (n + 1) (h.filter (fun y => ahead y.2.1.pairSeq n != 0))
      (t.1, x :: t.2.1, t.2.2)

/-- A frame of a peer enters its class stream: what becomes deliverable, in order (R279, R280). -/
def sequenceIn (e : Env) (t : FrameType) (f : Frame) (b : FrameBody) (d : Dp) : Dp × List (FrameType × Frame × FrameBody) :=
  let r := f.src.val
  let c := f.cls
  let d := ackPair r c f.pairAck d
  let p := d.pair r c
  let past := ahead f.pairSeq p.rxNext
  if 2 ^ 31 ≤ past then
    ((if f.ackNow then sendAck e r c d else d), [])
  else if 256 ≤ past then (sendNak e r c d, [])
  else if past = 0 then
    let h := takeHeld 257 (p.rxNext + 1) p.held
    let n := p.sinceAck + 1 + h.2.1.length
    let p := { p with rxNext := h.1, held := h.2.2, gapAt := if h.2.2.isEmpty then none else some e.now,
                      sinceAck := n, ackAt := if p.sinceAck = 0 then e.now else p.ackAt }
    let d := d.setPair r c p
    ((if f.ackNow || 32 ≤ n then sendAck e r c d else d), (t, f, b) :: h.2.1)
  else
    let held := if p.held.any (fun x => x.2.1.pairSeq = f.pairSeq) then p.held else p.held ++ [(t, f, b)]
    (d.setPair r c { p with held := held, gapAt := some (p.gapAt.getD e.now) }, [])

/-- The device takes frames: it has not left the ring and Last Tide does not run (Table 8-1). -/
def ringOpen (e : Env) (d : Dp) : Bool :=
  !d.ring.exited && !e.tide && !(e.power = .ebb) && !(e.power = .lastTide)

/-- A frame arrives at its destination: the frames it makes deliverable, in order. Before READY no frame of classes 1
to 4 is delivered or acknowledged (R529). A frame of the device itself is delivered as it is. -/
def arrive (e : Env) (t : FrameType) (bulk : Nat) (f : Frame) (b : FrameBody) (d : Dp) :
    Dp × List (FrameType × Frame × FrameBody) :=
  if f.dst.val != e.rank || !ringOpen e d then (d, [])
  else if f.src.val = e.rank then (d, [(t, f, b)])
  else if !f.linkOk then (rxBad e.now f.port d, [])
  else
  let d := rxOn f.port d
  let d := if 1 ≤ f.cls then { d with ring := { d.ring with busyAt := e.now } } else d
  if f.cls != t.cls bulk then (malformed e f t.code d, [])
  else if !f.crcOk then (d, [])
  else if 1 ≤ f.cls && !e.ready then (d, [])
  else if f.session != (d.peer f.src.val).session.toNat % 256 then (d, [])
  else if !t.paired then (d, [(t, f, b)])
  else sequenceIn e t f b d

end Sys2Proof.Machine
end

