-- ==== Sys2Proof/Machine/Shoal.lean ====
section
/-! DEFINITION. The shoal core: the Seawall (R247 to R251), member states and the steward's view (R203, R580), the write
floor (R201), and the steward's journal: records, groups, durability and their effects (R202 to R206, R50, R54). -/

namespace Sys2Proof.Machine

/-! ## Claims and the Seawall -/

def epochOf (c : BitVec 32) : Nat := c.toNat / 256
def rankOf (c : BitVec 32) : Nat := c.toNat % 256

/-- A claim that a steward can hold (R228). -/
def claimValid (c : BitVec 32) : Bool := epochOf c != 0 && rankOf c < 16

/-- A claim from an epoch and a rank (Table 7-1). -/
def mkClaim (epoch rank : Nat) : BitVec 32 := BitVec.ofNat 32 (epoch * 256 + rank)

/-- The largest epoch a claim may carry (R230). -/
def epochMax : Nat := 0xFFFFFF

/-- The drill handle (R247). -/
def drillHandle : Nat := 0x100

/-- An entry nothing has raised. -/
def freshSea : SeaEntry := { raisedAt := 0, claim := 0, source := 0, refusals := 0 }

/-- The Seawall entry of a handle. -/
def Dp.sea (d : Dp) (pool : Nat) : SeaEntry := d.sh.sea.get freshSea pool

/-- The claim of a handle's entry. -/
def Dp.claimOf (d : Dp) (pool : Nat) : BitVec 32 := (d.sea pool).claim

/-- The record of this device's part in a pool. -/
def Dp.role (d : Dp) (pool : Nat) : Option PRole := d.sh.roles.find? (fun r => r.pool = pool)

/-- No part in a pool. -/
def freshRole (pool : Nat) : PRole :=
  { pool := pool, role := .none, claim := 0, standby := none, appoint := none, nextSeq := 1, group := [], groupAt := 0,
    sent := [], tail := [], journal := [], stopped := false, handover := none, resolving := none, contest := none, restored := false,
    held := [], healthy := none }

def Dp.roleD (d : Dp) (pool : Nat) : PRole := (d.role pool).getD (freshRole pool)

/-- Replace the record of a pool, or add it. -/
def Dp.setRole (d : Dp) (r : PRole) : Dp :=
  { d with sh := { d.sh with
      roles := if d.sh.roles.any (fun x => x.pool = r.pool) then
        updateWhere (fun x => x.pool = r.pool) (fun _ => r) d.sh.roles
      else d.sh.roles ++ [r] } }

/-- This device is the pool's steward, or its standby. -/
def isSteward (d : Dp) (pool : Nat) : Bool := (d.role pool).any (fun r => r.role = .steward)
def isStandby (d : Dp) (pool : Nat) : Bool := (d.role pool).any (fun r => r.role = .standby)

/-- The rank that stewards a pool by the Seawall entry. -/
def stewardRank (d : Dp) (pool : Nat) : Option Nat :=
  let c := d.claimOf pool
  if claimValid c then some (rankOf c) else none

/-- The pool's steward is silent in this device's view, or there is none (R233). -/
def stewardSilent (e : Env) (d : Dp) (pool : Nat) : Bool :=
  match stewardRank d pool with
  | none => true
  | some r => if r = e.rank then !isSteward d pool else !present e d r || d.sh.relinquished.contains pool

/-- A steward or standby that a higher claim of another rank ends (R244). Its journal copy stays. -/
def fenceRole (e : Env) (pool : Nat) (c : BitVec 32) (d : Dp) : Dp :=
  match d.role pool with
  | none => d
  | some r =>
    if rankOf c = e.rank then d
    else if r.role = .steward ∧ r.claim < c then
      let d := d.setRole { r with role := .none, standby := none, appoint := none, group := [], sent := [],
                                  stopped := true, resolving := none, contest := none }
      let d := { d with sh := { d.sh with stickets := d.sh.stickets.filter (fun t => t.pool != pool) } }
      cause e evSteward (logE e 0x0702 3 srcFirmware [pool, r.claim.toNat, c.toNat] d)
    else if r.role = .standby then
      cause e evSteward (d.setRole { r with role := .none })
    else d

/-- The pool's record names its last steward and last standby (R225); every device writes it at each claim change. -/
def Dp.noteLast (d : Dp) (pool : Nat) (f : PoolRec → PoolRec) : Dp :=
  let go (g : Registry) : Registry := { g with pools := updateWhere (fun p => p.handle = pool) f g.pools }
  { d with sh := { d.sh with reg := go d.sh.reg, regNext := go d.sh.regNext } }

/-- Raise a handle's entry to a higher claim (R240, R249): time, source, REFUSALS cleared, the always-on shadow with it.
An epoch that reaches 0xFF_F000 is logged (R230). -/
def raise (e : Env) (pool : Nat) (c : BitVec 32) (src : Nat) (d : Dp) : Dp :=
  if (d.claimOf pool) < c then
    let old := d.claimOf pool
    let d := { d with sh := { d.sh with
        sea := d.sh.sea.put pool { raisedAt := e.now, claim := c, source := src, refusals := 0 }
        shadow := d.sh.shadow.put pool c.toNat
        relinquished := without pool d.sh.relinquished } }
    let d := if epochOf old < 0xFFF000 ∧ 0xFFF000 ≤ epochOf c then
        logE e 0x0703 3 srcFirmware [pool, c.toNat] d
      else d
    let d := d.noteLast pool (fun p => { p with lastSteward := rankOf c })
    let d := fenceRole e pool c d
    if rankOf old != rankOf c then cause e evSteward d else d
  else d

/-- Send FENCED with the entry's claim to a rank (Table 7-5). -/
def sendFenced (e : Env) (pool r : Nat) (d : Dp) : Dp :=
  count 7 1 1 (send e .fenced 3 { header e d r pool with claim := d.claimOf pool } .none d)

/-- Count a refusal of a handle; REFUSALS saturates at 0xFFFF. -/
def refusal (pool : Nat) (d : Dp) : Dp :=
  let s := d.sea pool
  { d with sh := { d.sh with sea := d.sh.sea.put pool { s with refusals := satAdd 0xFFFF s.refusals 1 } } }

/-- The Seawall check of a frame of Table 7-5 (R249): the device after it, and whether the frame is accepted. -/
def seawall (e : Env) (t : FrameType) (f : Frame) (rankMustMatch : Bool) (d : Dp) : Dp × Bool :=
  if !claimValid f.claim || (rankMustMatch && rankOf f.claim != f.src.val) then (malformed e f t.code d, false)
  else if f.claim < d.claimOf f.pool then (sendFenced e f.pool f.src.val (refusal f.pool d), false)
  else (raise e f.pool f.claim 2 d, true)

/-- Frames of Table 7-5 act only in pools whose steward has admitted this device (R252). -/
def admitted (d : Dp) (pool : Nat) : Bool := d.sh.admitted.contains pool || pool = drillHandle

/-! ## Member states and bitmaps -/

def viewKey (pool rank : Nat) : Nat := pool * 16 + rank

/-- The state of a rank in a pool by this device's copy of the steward's view. -/
def memberState (d : Dp) (pool r : Nat) : MemberState := d.sh.view.get .current (viewKey pool r)

/-- A member takes new sherds of a pool. -/
def takes (e : Env) (d : Dp) (pool r : Nat) : Bool :=
  present e d r && (memberState d pool r = .current || memberState d pool r = .catchingUp)

/-- The missed-stripe bitmap of a rank has a region set (R210). -/
def missedIn (d : Dp) (pool r region : Nat) : Bool := d.sh.missed.contains (viewKey pool r, region)

/-- The bitmap of a rank is clear for every region of a row. -/
def clearFor (d : Dp) (p : PoolRec) (l : Lay) (row r : Nat) : Bool :=
  (p.rowRegions l row).all (fun g => !missedIn d p.handle r g)

/-- The layout of a ticket's row (R216): the steward tells which sequences write the new layout of a reshape. -/
def Dp.ticketLay (d : Dp) (p : PoolRec) (seqn : Nat) : Lay :=
  match p.reshape with
  | some r => if d.sh.windows.contains (p.handle, seqn) then p.newLay r else p.lay
  | none => p.lay

/-! ## The write floor (R201) -/

/-- FLAGS of a record (Table 6-4). -/
def fClose : Nat := 1
def fDiscard : Nat := 2
def fRepair : Nat := 4
def fResync : Nat := 8
def fReparity : Nat := 16
def fGrouped : Nat := 32

/-- A flag is set. -/
def hasFlag (flags f : Nat) : Bool := flags / f % 2 = 1

/-- Units of a row with the ranks that hold them. -/
def rowUnits (l : Lay) (row : Nat) : List (Nat × Nat) :=
  (l.units row).flatMap (fun u => (l.holders ⟨row, u, 0⟩).map (fun h => (u, h.1)))

/-- The units a ticket writes: data units named and parity; P and Q alone of a reparity; the one unit of a repair or
a resync. -/
def unitsWritten (l : Lay) (row flags dataMask unit : Nat) : List Nat :=
  if hasFlag flags fResync || hasFlag flags fRepair then [unit]
  else (l.units row).filter (fun u =>
    if u < 14 then !hasFlag flags fReparity && dataMask.testBit u else true)

/-- Units and ranks that a ticket writes. -/
def ticketWrites (l : Lay) (row flags dataMask unit head : Nat) : List (Nat × Nat) :=
  let us := unitsWritten l row flags dataMask unit
  (rowUnits l row).filter (fun x => us.contains x.1 && (!hasFlag flags fResync || x.2 = head))

/-- Sherds of a row that hold their intended content: written and reported, or not written by the ticket and held by a
present member whose bitmap is clear. -/
def intended (e : Env) (d : Dp) (p : PoolRec) (l : Lay) (t : STicket) : Nat :=
  let ws := ticketWrites l t.row t.flags t.dataMask t.unit t.head
  ((rowUnits l t.row).filter (fun x =>
    if ws.contains x then t.done.testBit x.2
    else takes e d p.handle x.2 && clearFor d p l t.row x.2)).length

/-- Sherds a row needs: k + 1 or k + 2 of a PQ row, one copy otherwise. -/
def floorNeed (p : PoolRec) (l : Lay) (row : Nat) : Nat :=
  match l.at row with
  | none => 1
  | some a => if a.stripe.kind = .pq then a.stripe.k + 1 + p.floor else 1

/-- The write floor of a ticket holds. A resync or repair ticket needs its own writer (notes/assumptions/20.md). -/
def floorOk (e : Env) (d : Dp) (p : PoolRec) (t : STicket) : Bool :=
  let l := d.ticketLay p t.seqn
  if hasFlag t.flags fResync || hasFlag t.flags fRepair then t.done != 0
  else floorNeed p l t.row ≤ intended e d p l t

/-- Members that can take writes fall below the floor in some row kind of the tree (Table 2-2). -/
def belowFloor (e : Env) (d : Dp) (p : PoolRec) : Bool :=
  p.stripes.any (fun s =>
    let n := (s.ranks.filter (fun r => takes e d p.handle r)).length
    if s.kind = .pq then n < s.k + 1 + p.floor else n = 0)

/-- The pool's claim epochs are exhausted (R231): its steward is silent and no higher claim can be formed. -/
def exhausted (e : Env) (d : Dp) (pool : Nat) : Bool :=
  stewardSilent e d pool && epochMax ≤ epochOf (d.claimOf pool)

/-- The pool is READ_ONLY (Table 2-2): below the floor, or its claim epochs are exhausted. -/
def readOnly (e : Env) (d : Dp) (p : PoolRec) : Bool := belowFloor e d p || exhausted e d p.handle

/-! ## Journal records -/

/-- A record of a pool, its TIME and CLAIM filled in when it is written. -/
def jrec (type : RecType) (pool seqn : Nat) : JRec :=
  { type := type, pool := pool, seqn := seqn, time := 0, claim := 0, group := 0, row := 0, posFirst := 0, posLast := 0,
    present := 0, dataMask := 0, layoutGen := 0, head := 0, flags := 0, arg := 0 }

/-- A record about a ticket. -/
def ticketRec (type : RecType) (t : STicket) (layoutGen : Nat) : JRec :=
  { jrec type t.pool t.seqn with
    group := if hasFlag t.flags fGrouped then t.group else 0, row := t.row, posFirst := t.posFirst,
    posLast := t.posLast, present := t.writers, dataMask := t.dataMask, layoutGen := layoutGen, head := t.head,
    flags := t.flags }

/-- ARG of a MISSED or RESYNC_DONE record, and of a MEMBER record (Table 6-5). -/
def regionArg (rank region : Nat) : Nat := rank * 2 ^ 56 + region
def stateCode : MemberState → Nat
  | .current => 0
  | .absent => 1
  | .catchingUp => 2
  | .retired => 3
def memberArg (rank : Nat) (s : MemberState) : Nat := rank * 2 ^ 56 + stateCode s
def stateOfCode (n : Nat) : MemberState :=
  if n = 0 then .current else if n = 1 then .absent else if n = 2 then .catchingUp else .retired

/-- The steward writes a record into its open group (R205). -/
def append (e : Env) (r : JRec) (d : Dp) : Dp :=
  match d.role r.pool with
  | none => d
  | some x =>
    if x.role = .steward then
      d.setRole { x with
        group := x.group ++ [{ r with time := e.now, claim := x.claim }]
        groupAt := if x.group.isEmpty then e.now else x.groupAt }
    else d

/-- A record of an event takes the next journal sequence. -/
def appendNew (e : Env) (type : RecType) (pool arg : Nat) (d : Dp) : Dp :=
  let x := d.roleD pool
  append e { jrec type pool x.nextSeq with arg := arg } (d.setRole { x with nextSeq := x.nextSeq + 1 })

/-- Change a ticket at its steward. -/
def Dp.onSticket (d : Dp) (pool seqn : Nat) (f : STicket → STicket) : Dp :=
  { d with sh := { d.sh with stickets := updateWhere (fun t => t.pool = pool && t.seqn = seqn) f d.sh.stickets } }

/-- A ticket at its steward. -/
def Dp.sticket (d : Dp) (pool seqn : Nat) : Option STicket :=
  d.sh.stickets.find? (fun t => t.pool = pool && t.seqn = seqn)

/-- Tickets of a pool that have neither a COMMIT nor a DROP record. -/
def openTickets (d : Dp) (pool : Nat) : List STicket := d.sh.stickets.filter (fun t => t.pool = pool && !t.closed)

/-- A frame about a ticket, from its steward. -/
def ticketFrame (e : Env) (d : Dp) (dst : Nat) (r : JRec) : Frame :=
  { header e d dst r.pool with
    claim := (d.roleD r.pool).claim, seqn := r.seqn, row := r.row, posFirst := r.posFirst, posLast := r.posLast }

/-- A COMMIT_NOTICE: ARG 1 says that the ticket is of a WRITE_ATOMIC (notes/assumptions/36.md). -/
def commitFrame (e : Env) (d : Dp) (r : JRec) (dst : Nat) : Frame :=
  { ticketFrame e d dst r with arg := if hasFlag r.flags fGrouped then 1 else 0 }

/-- HEAD of a ticket that only members' reports tell of (R254): no report names it. -/
def noHead : Nat := 255

/-- Ranks told of a ticket's outcome: its head, and the present members of the row; every present device where the head is
not known (R254), and of a WRITE_ATOMIC's ticket, so that no head's READ mixes its blocks (R51). -/
def noticeRanks (e : Env) (d : Dp) (r : JRec) : List Nat :=
  if r.head = noHead || hasFlag r.flags fGrouped then e.rank :: otherRanks e d
  else match d.sh.reg.pool r.pool with
    | none => [r.head]
    | some p =>
      let l := d.ticketLay p r.seqn
      (r.head :: (((rowUnits l r.row).map Prod.snd).filter (fun k => present e d k))).eraseDups

/-! ## The registry (R395) -/

/-- What the registry's commit answers at the head that ordered it. -/
def regNotice (e : Env) (r : RegRec) (d : Dp) : Dp :=
  let ranks := otherRanks e d
  let arg := r.status % 2 ^ 16
  let d := sendEach e .commitNotice ranks
    (fun k => { header e d k 0 with claim := (d.roleD 0).claim, seqn := r.seqn, arg := arg })
    (.registry (some r.after)) d
  match r.order with
  | none => d
  | some o =>
    if o.rank = e.rank then answerOrder e o r.status r.detail r.payload d
    else send e .control 3 (header e d o.rank 0) (.order (.answer o r.status r.detail r.payload)) d

/-- The rebases of a registry take effect (R230, R231): the entry of the pool and its shadow are reset to epoch 1, and a
steward goes on under the new claim. -/
def takeRebases (e : Env) (old new : Registry) (d : Dp) : Dp :=
  (new.pools.filter (fun p => ((old.pool p.handle).map PoolRec.rebases).getD p.rebases < p.rebases)).foldl (fun d p =>
    let c := mkClaim 1 p.rebaseRank
    let d := { d with sh := { d.sh with
        sea := d.sh.sea.put p.handle { raisedAt := e.now, claim := c, source := 4, refusals := 0 }
        shadow := d.sh.shadow.put p.handle c.toNat
        epochHigh := without p.handle d.sh.epochHigh } }
    match d.role p.handle with
    | some r => if r.role = .steward then d.setRole { r with claim := c } else d
    | none => d) d

/-- Substitutions that a pool's tree has now and had not before: the rank substituted, and the spare (R213). -/
def newSubsts (old new : Registry) (pool : Nat) : List (Nat × Nat) :=
  match old.pool pool, new.pool pool with
  | some a, some b => b.substs.drop a.substs.length
  | _, _ => []

/-- Ranks that a pool's tree names now and did not before, with no reshape between (R213). -/
def placedRanks (old new : Registry) (pool : Nat) : List Nat := (newSubsts old new pool).map Prod.snd

/-- The steward's records for a rank placed in the tree (R213): CATCHING_UP, with every region of the pool missed; and for
a rank that MEMBER_RETIRE has retired (Table 6-3). -/
def placeRecords (e : Env) (old new : Registry) (pool : Nat) (d : Dp) : Dp :=
  match new.pool pool with
  | none => d
  | some p =>
    let d := (placedRanks old new pool).foldl (fun d y =>
      (List.range (divUp p.cap 16384)).foldl (fun d g => appendNew e .missed pool (regionArg y g) d)
        (appendNew e .member pool (memberArg y .catchingUp) d)) d
    let gone := (new.members.filter (fun m => m.retired && (old.member m.rank).any (fun x => !x.retired))).map MemberRec.rank
    (gone.filter p.ranks.contains).foldl (fun d r => appendNew e .member pool (memberArg r .retired) d) d

/-- A committed registry takes effect at this device: pools that are gone leave the map (R39) and the error log, which a
clear empties (R553), rebases reset entries, the
pool's steward records who was placed or retired, and changes of the pool set or of a pool's state set POOL_STATE. -/
def takeRegistry (e : Env) (r : Registry) (d : Dp) : Dp :=
  let old := d.sh.reg
  let keep (p : PoolRec) : PoolRec :=
    match old.pool p.handle with
    | none => { p with createdAt := e.now }
    | some q =>
      if q.uuid = p.uuid then { p with
        createdAt := q.createdAt, lastSteward := q.lastSteward, lastStandby := q.lastStandby,
        reshape := p.reshape.map (fun r => match q.reshape with
          | some o => if o.nodes = r.nodes then { r with tidemark := max r.tidemark o.tidemark } else r
          | none => r) }
      else { p with createdAt := e.now }
  let log := old.errlog.filter (fun x =>
    old.clears.get 0 x.pool = r.clears.get 0 x.pool && r.pools.any (fun p => p.handle = x.pool))
  let time (j : SdJob) : SdJob := match old.jobs.find? (fun i => i.id = j.id) with
    | some i => if isSteward d 0 then { j with startedAt := i.startedAt, elapsedMs := i.elapsedMs } else j
    | none => j
  let r := { r with pools := r.pools.map keep, errlog := log, jobs := r.jobs.map time }
  let gone := (old.pools.filter (fun p => !(r.pool p.handle).any (fun q => q.uuid = p.uuid))).map PoolRec.handle
  let d := { d with
    sh := { d.sh with
      reg := r
      regNext := if isSteward d 0 then d.sh.regNext else r
      -- a pool that is new needs no JOIN of a device that takes part in the shoal
      admitted := d.sh.admitted.filter (fun h => !gone.contains h) ++
        (if d.sh.admitted.contains 0 then
          (r.pools.map PoolRec.handle).filter (fun h => !d.sh.admitted.contains h || gone.contains h) else [])
      lostBlks := d.sh.lostBlks.filter (fun x => !gone.contains x.1)
      missed := d.sh.missed.filter (fun x => !gone.contains (x.1 / 16))
      filling := d.sh.filling.filter (fun x => !gone.contains x.1) ++
        r.pools.flatMap (fun p => (newSubsts old r p.handle).map (fun x => (p.handle, x)))
      windows := d.sh.windows.filter (fun x => (r.pool x.1).any (fun p => p.reshape.isSome)) }
    map := { d.map with green := d.map.green.filter (fun g => !gone.contains g.pool) } }
  let d := freeEntries (fun h _ => gone.contains h) d
  let d := takeRebases e old r d
  let mine := (d.sh.roles.filter (fun x => x.role = .steward)).map PRole.pool
  let d := mine.foldl (fun d h => placeRecords e old r h d) d
  let ended (j : SdJob) : Bool := j.state = .done || j.state = .donePartial
  let d := if r.jobs.any (fun j => ended j && (old.jobs.find? (fun i => i.id = j.id)).any (fun i => !ended i)) then
      cause e evSecureDiscard d
    else d
  if old.pools.map (fun p => (p.handle, p.state)) != r.pools.map (fun p => (p.handle, p.state)) then
    cause e evPool d
  else d

/-! ## Effects of durable records -/

/-- A view change is told to every other present device (R580). -/
def tellView (e : Env) (pool : Nat) (v : ViewRec) (d : Dp) : Dp :=
  sendEach e .control (otherRanks e d) (fun k => { header e d k pool with claim := (d.roleD pool).claim }) (.view v) d

/-- Rows a reshape's window holds (R217). -/
def windowRows : Nat := 64

/-- A member frees its old-layout entries of LBAs and rows that lie below a reshape's tidemark (R217 step 3). -/
def freeOld (e : Env) (pool t : Nat) (d : Dp) : Dp :=
  match d.sh.reg.pool pool with
  | none => d
  | some p => match p.reshape with
    | none => d
    | some r =>
      let moved (b : Nat) : Bool := ((p.newLay r).place b).any (fun q => q.row < t)
      let gone (lb : Nat) : Bool :=
        layMark lb = p.layoutGen % 2 && (p.lay.ofLocal e.rank lb).any (fun q =>
          if q.unit < 14 then (p.lay.lba q).any moved
          else (p.lay.rowLbas q.row).any (fun x => moved x.1 && moved (x.1 + x.2 - 1)))
      freeEntries (fun h lb => h = pool && gone lb) d

/-- The registry steward counts the time of secure-discard jobs (R62): time in which a member that a job waits for is ABSENT or
CATCHING_UP is left out. -/
def sdTick (e : Env) (d : Dp) : Dp :=
  let out (j : SdJob) : Bool := (maskList 16 j.pendingMask).any (fun r =>
    memberState d j.pool r = .absent || memberState d j.pool r = .catchingUp)
  let go (j : SdJob) : SdJob :=
    if j.state = .done || j.state = .donePartial then j
    else
      let ms := (e.now - j.startedAt) / msec
      { j with elapsedMs := if out j then j.elapsedMs else j.elapsedMs + ms, startedAt := j.startedAt + ms * msec }
  let all (g : Registry) : Registry := { g with jobs := g.jobs.map go }
  if isSteward d 0 then { d with sh := { d.sh with reg := all d.sh.reg, regNext := all d.sh.regNext } } else d

/-- A spare has become CURRENT in a pool: SPARE_COMPLETE for each rank it was substituted for (R213, Table 17-7). -/
def spareFilled (e : Env) (pool y : Nat) (d : Dp) : Dp :=
  let mine (x : Nat × Nat × Nat) : Bool := x.1 = pool && x.2.2 = y
  let d' := { d with sh := { d.sh with filling := d.sh.filling.filter (fun x => !mine x) } }
  (d.sh.filling.filter mine).foldl (fun d x => logE e 0x0603 2 srcFirmware [pool, x.2.1] d) d'

/-- A view change takes effect at this device. -/
def takeView (e : Env) (pool : Nat) (v : ViewRec) (d : Dp) : Dp :=
  match v with
  | .member r s =>
    let d := sdTick e d
    let was := memberState d pool r
    let d := { d with sh := { d.sh with view := d.sh.view.put (viewKey pool r) s } }
    if was = s then d
    else
      let before := (d.sh.reg.pool pool).any (fun p => belowFloor e { d with sh := { d.sh with
        view := d.sh.view.put (viewKey pool r) was } } p)
      let d := cause e evMember (logE e 0x0601 2 srcFirmware [pool, r, stateCode s] d)
      let d := if s = .current then spareFilled e pool r d else d
      if (d.sh.reg.pool pool).any (fun p => belowFloor e d p) = before then d else cause e evPool d
  | .missed r g => { d with sh := { d.sh with missed := d.sh.missed ++ [(viewKey pool r, g)] } }
  | .resyncDone r g =>
    let d := { d with sh := { d.sh with missed := without (viewKey pool r, g) d.sh.missed } }
    count 6 3 1 (logE e 0x0602 1 srcFirmware [pool, r, g] d)
  | .window q => { d with sh := { d.sh with windows := addNew (pool, q) d.sh.windows } }
  | .tidemark t =>
    let move (g : Registry) : Registry := match g.pool pool with
      | none => g
      | some p => g.setPool { p with reshape := p.reshape.map (fun r => { r with tidemark := t }) }
    freeOld e pool t { d with sh := { d.sh with reg := move d.sh.reg, regNext := move d.sh.regNext } }

/-- Runs of consecutive numbers in a rising list. -/
def runsOf : List Nat → List (Nat × Nat)
  | [] => []
  | p :: t => match runsOf t with
    | (a, b) :: r => if p + 1 = a then (p, b) :: r else (p, p) :: (a, b) :: r
    | [] => [(p, p)]

/-- A block stands in a ticket's cover: the blocks that its commands write. -/
def covers (cover u x : Nat) : Bool := cover.testBit (u * 256 + x)

/-- Positions of a data unit that a committed ticket takes out of the error log: what a DISCARD or SECURE_DISCARD covers, and of a write the
IUs that it covers whole (R48, R553). -/
def clearedAt (iu : Nat) (t : STicket) (u : Nat) : List Nat :=
  let n := iuBlocks iu
  (List.range 256).filter (fun x => covers t.cover u x && (hasFlag t.flags fDiscard ||
    (List.range n).all (fun i => covers t.cover u (x / n * n + i))))

/-- A range leaves the error log here and at every other device. -/
def dropLoss (e : Env) (pool b n : Nat) (d : Dp) : Dp :=
  let d' := d.onErrlog (errRemove pool b n [])
  if d'.sh.reg.errlog = d.sh.reg.errlog then d
  else
    let x : ErrEntry := { pool := pool, lba := b, blocks := n, cause := 0, rank := e.rank, time := e.now, boot := 0, widened := false }
    sendEach e .control (otherRanks e d') (fun r => header e d' r 0) (.order (.loss x true)) d'

/-- The blocks that a committed ticket covers leave the error log (R48, R553). -/
def clearLost (e : Env) (p : PoolRec) (t : STicket) (d : Dp) : Dp :=
  if t.cover = 0 || d.sh.reg.errlog.all (fun x => x.pool != p.handle) then d
  else
    let l := d.ticketLay p t.seqn
    (maskList 14 t.dataMask).foldl (fun d u => (runsOf (clearedAt p.iu t u)).foldl (fun d r =>
      match l.lba ⟨t.row, u, r.1⟩ with
      | none => d
      | some b => dropLoss e p.handle b (r.2 + 1 - r.1) d) d) d

/-- What follows when a record is durable (R202, R203, R205, R580). -/
def durableRec (e : Env) (r : JRec) (d : Dp) : Dp :=
  match r.type with
  | .intent => d.onSticket r.pool r.seqn (fun t => { t with durable := true })
  | .commit =>
    match d.sh.regOpen.find? (fun x => r.pool = 0 && x.seqn = r.seqn) with
    | some x =>
      let d := { d with sh := { d.sh with regOpen := d.sh.regOpen.filter (fun y => y.seqn != r.seqn) } }
      regNotice e x (takeRegistry e x.after d)
    | none =>
      let d := match d.sh.reg.pool r.pool, d.sticket r.pool r.seqn with
        | some p, some t => clearLost e p t d
        | _, _ => d
      let d := sendEach e .commitNotice (noticeRanks e d r) (commitFrame e d r) (.registry none) d
      count 6 0 1 { d with sh := { d.sh with
        stickets := d.sh.stickets.filter (fun t => !(t.pool = r.pool && t.seqn = r.seqn)) } }
  | .drop =>
    let d := sendEach e .dropNotice (noticeRanks e d r) (fun k => { ticketFrame e d k r with arg := r.arg }) .none d
    count 6 1 1 { d with sh := { d.sh with
      stickets := d.sh.stickets.filter (fun t => !(t.pool = r.pool && t.seqn = r.seqn)) } }
  | .missed =>
    let v : ViewRec := .missed (r.arg / 2 ^ 56) (r.arg % 2 ^ 56)
    count 6 2 1 (tellView e r.pool v (takeView e r.pool v d))
  | .resyncDone =>
    let v : ViewRec := .resyncDone (r.arg / 2 ^ 56) (r.arg % 2 ^ 56)
    tellView e r.pool v (takeView e r.pool v d)
  | .member =>
    let k := r.arg / 2 ^ 56
    let v : ViewRec := .member k (stateOfCode (r.arg % 256))
    let d := tellView e r.pool v (takeView e r.pool v d)
    if r.arg % 256 = 0 then
      let old := (((d.sh.reg.pool r.pool).map PoolRec.substs).getD []).filter (fun x => x.2 = k && x.1 != k && memberState d r.pool x.1 != .retired)
      old.foldl (fun d x => appendNew e .member r.pool (memberArg x.1 .retired) d) d
    else d
  | .tidemark => tellView e r.pool (.tidemark r.arg) (takeView e r.pool (.tidemark r.arg) d)

/-- The working set holds 32,768 records (Table 6-4): the oldest make room. -/
def keepJournal (l : List JRec) : List JRec := l.drop (l.length - 32768)

/-- ARG of MIRROR_GROUP and MIRROR_ACK, as the model numbers its uses: 0 a group, 1 an appointment's journal (R226), 2 a
group closed while an appointment is under way. -/
def mgGroup : Nat := 0
def mgAppoint : Nat := 1
def mgDuring : Nat := 2

/-- A group is durable: it joins the journal and the strand's tail, and its records take effect in order. -/
def durableGroup (e : Env) (pool : Nat) (g : List JRec) (d : Dp) : Dp :=
  let x := d.roleD pool
  let d := d.setRole { x with journal := keepJournal (x.journal ++ g), tail := x.tail ++ g }
  g.foldl (fun d r => durableRec e r d) d

/-- Records a group holds (R205). -/
def groupMax : Nat := 64

/-- A record written with a decision to commit: COMMIT and MISSED records. -/
def decides (r : JRec) : Bool := r.type = .commit || r.type = .missed

/-- Where a group is cut: at 64 records, but not among the COMMIT records of WRITE_ATOMIC groups that stand together (R50, R54). -/
def cutAt (l : List JRec) : Nat :=
  let before := ((l.take groupMax).reverse.takeWhile decides).reverse
  let after := (l.drop groupMax).takeWhile decides
  if (before ++ after).any (fun r => r.type = .commit && hasFlag r.flags fGrouped) then groupMax + after.length else groupMax

/-- The steward closes its open group and sends it to the standby, or makes it durable itself (R205). -/
def closeGroup (e : Env) (pool : Nat) (d : Dp) : Dp :=
  match d.role pool with
  | none => d
  | some x =>
    if x.role = .steward && !x.group.isEmpty then
      let g := x.group.take (cutAt x.group)
      let rest := x.group.drop (cutAt x.group)
      match x.standby with
      | some k =>
        let d := d.setRole { x with group := rest, groupAt := e.now, sent := x.sent ++ [g] }
        send e .mirrorGroup 3 { header e d k pool with claim := x.claim } (.records g) d
      | none =>
        let d := d.setRole { x with group := rest, groupAt := e.now }
        let d := match x.appoint with
          | some (k, _) =>
            send e .mirrorGroup 3 { header e d k pool with claim := x.claim, arg := mgDuring } (.records g) d
          | none => d
        durableGroup e pool g d
    else d

/-! ## Outcomes of tickets (R202, R50, R54) -/

/-- The IU range of positions a ticket touches, in blocks of the sherd. -/
def iuSpan (p : PoolRec) (first last : Nat) : Nat × Nat :=
  let n := iuBlocks p.iu
  (first / n * n, (last / n + 1) * n)

/-- Two tickets of one pool touch a common IU. -/
def shareIu (d : Dp) (p : PoolRec) (a b : STicket) : Bool :=
  let l := d.ticketLay p a.seqn
  let x := iuSpan p a.posFirst a.posLast
  let y := iuSpan p b.posFirst b.posLast
  a.row = b.row && x.1 < y.2 && y.1 < x.2 &&
    (unitsWritten l a.row a.flags a.dataMask a.unit).any
      (fun u => (unitsWritten l b.row b.flags b.dataMask b.unit).contains u)

/-- Every present member that the ticket writes has reported, or counts missing for it. -/
def allReported (e : Env) (d : Dp) (t : STicket) : Bool :=
  (maskList 16 t.writers).all (fun r => t.done.testBit r || t.missing.testBit r || !takes e d t.pool r)

/-- Every member that the ticket writes has reported or been declared ABSENT. -/
def noneLeft (e : Env) (d : Dp) (t : STicket) : Bool :=
  (maskList 16 t.writers).all (fun r => t.done.testBit r || !takes e d t.pool r)

/-- Two tickets of one WRITE_ATOMIC group. -/
def sameGroup (a b : STicket) : Bool :=
  hasFlag a.flags fGrouped && hasFlag b.flags fGrouped && a.groupKey = b.groupKey && a.head = b.head

/-- Tickets that stay in a set of tickets to commit: earlier open tickets on a common IU stand in it too, and a group
stands in it whole. -/
def keepTogether (d : Dp) (p : PoolRec) (all s : List STicket) : List STicket :=
  s.filter (fun t =>
    all.all (fun u => !(u.seqn < t.seqn && shareIu d p u t) || s.contains u) &&
    (!hasFlag t.flags fGrouped ||
      (all.all (fun u => !sameGroup u t || s.contains u) &&
        (s.filter (fun u => sameGroup u t)).length = t.groupSize)))

/-- The tickets a pool can commit now, in sequence order: the largest set that keeps together. -/
def committable (e : Env) (d : Dp) (p : PoolRec) : List STicket :=
  let all := openTickets d p.handle
  all.foldl (fun s _ => keepTogether d p all s)
    (all.filter (fun t => t.granted && allReported e d t && floorOk e d p t))

/-- Write the COMMIT record of a ticket, the last of its group marked as the group's close, and MISSED records for the
sherds it goes without (R50, R210). -/
def commitTicket (e : Env) (p : PoolRec) (close : Bool) (t : STicket) (d : Dp) : Dp :=
  let l := d.ticketLay p t.seqn
  let r := ticketRec .commit t p.layoutGen
  let d := append e { r with present := t.done, flags := if close then t.flags + fClose else t.flags } d
  let lacking := (ticketWrites l t.row t.flags t.dataMask t.unit t.head).filter (fun x => !t.done.testBit x.2)
  let stale := (p.substs.filter (fun x => x.1 != x.2 && t.writers.testBit x.2)).map Prod.fst
  let d := ((lacking.map Prod.snd) ++ stale).eraseDups.foldl (fun d x => (p.rowRegions l t.row).foldl
    (fun d g => appendNew e .missed p.handle (regionArg x g) d) d) d
  d.onSticket t.pool t.seqn (fun t => { t with closed := true })

/-- Write the DROP record of a ticket with a reason (Table 6-5). -/
def dropTicket (e : Env) (reason : Nat) (t : STicket) (d : Dp) : Dp :=
  let d := append e { ticketRec .drop t 0 with arg := reason } d
  d.onSticket t.pool t.seqn (fun t => { t with closed := true })

/-- Drop a ticket; the tickets of its WRITE_ATOMIC group go with it. -/
def dropWhole (e : Env) (reason : Nat) (t : STicket) (d : Dp) : Dp :=
  ((openTickets d t.pool).filter (fun u => u.seqn = t.seqn || sameGroup u t)).foldl
    (fun d u => dropTicket e reason u d) d

/-- Commit what can commit and drop what never can (R202). -/
def decide1 (e : Env) (p : PoolRec) (d : Dp) : Dp :=
  let s := committable e d p
  let last (t : STicket) : Bool :=
    hasFlag t.flags fGrouped && s.all (fun u => !sameGroup u t || u.seqn ≤ t.seqn)
  let d := s.foldl (fun d t => commitTicket e p (last t) t d) d
  -- the window of a reshape is written: its TIDEMARK record follows (R217 step 3)
  let d := match p.reshape with
    | some r => if s.any (fun t => r.tidemark ≤ t.row && d.sh.windows.contains (t.pool, t.seqn)) then
        appendNew e .tidemark p.handle (min r.rows (r.tidemark + windowRows)) d else d
    | none => d
  -- a host ticket that commits first makes a repair unnecessary (R221); no reason of Table 6-5 names it
  let moot := (openTickets d p.handle).filter (fun t => hasFlag t.flags fRepair &&
    s.any (fun u => u.seqn < t.seqn && !hasFlag u.flags fRepair && !hasFlag u.flags fResync && shareIu d p u t))
  let d := moot.foldl (fun d t => dropTicket e 0 t d) d
  ((openTickets d p.handle).filter (fun t => t.granted && noneLeft e d t && !floorOk e d p t)).foldl
    (fun d t => if (openTickets d p.handle).any (fun u => u.seqn = t.seqn) then dropWhole e 1 t d else d) d

/-- A ticket whose head reads a base: some data unit of the row is not written, or an IU is written in part (R47, R198). -/
def needsBase (d : Dp) (p : PoolRec) (t : STicket) : Bool :=
  let l := d.ticketLay p t.seqn
  hasFlag t.flags fRepair || hasFlag t.flags fResync || hasFlag t.flags fReparity ||
  (l.isPq t.row && (l.dataUnits t.row).any (fun u => !t.dataMask.testBit u)) ||
  (maskList 14 t.dataMask).any (fun u => (List.range (t.posLast + 1 - t.posFirst)).any (fun i => !covers t.cover u (t.posFirst + i)))

/-- Two tickets of one pool touch a common position (R198), by whole IUs (R47). -/
def sharePos (d : Dp) (p : PoolRec) (a b : STicket) : Bool :=
  let x := iuSpan p a.posFirst a.posLast
  let y := iuSpan p b.posFirst b.posLast
  a.row = b.row && (d.ticketLay p a.seqn).gen = (d.ticketLay p b.seqn).gen && x.1 < y.2 && y.1 < x.2

/-- The earlier tickets whose outcome a ticket's base waits for (R47, R198): until its record is durable and its notices are sent, a
decided ticket still counts. -/
def baseWaits (d : Dp) (p : PoolRec) (t : STicket) : List STicket :=
  if needsBase d p t then d.sh.stickets.filter (fun u => u.pool = t.pool && u.seqn < t.seqn && sharePos d p u t) else []

/-- The tickets of WRITE_ATOMIC groups whose bases can never be read, since groups wait for one another: those beyond what waits for
nothing, directly or in turn. -/
def deadlocked (d : Dp) (p : PoolRec) : List STicket :=
  let all := d.sh.stickets.filter (fun t => t.pool = p.handle)
  let free (s : List STicket) : List STicket :=
    all.filter (fun t => (all.filter (fun u => u.seqn = t.seqn || sameGroup u t)).all (fun u =>
      (baseWaits d p u).all (fun v => sameGroup v t || s.any (fun w => w.seqn = v.seqn))))
  let s := all.foldl (fun s _ => free s) []
  all.filter (fun t => !t.closed && hasFlag t.flags fGrouped && !s.any (fun w => w.seqn = t.seqn))

/-- Where WRITE_ATOMIC groups wait for one another's content, the youngest is dropped, and its blocks take new tickets (DESIGN CHOICE: R54
tells only how such groups commit; notes/assumptions/36.md). -/
def breakDeadlock (e : Env) (p : PoolRec) (d : Dp) : Dp :=
  if !d.sh.stickets.any (fun t => t.pool = p.handle && hasFlag t.flags fGrouped && !t.granted) then d
  else match leastBy (fun (t : STicket) => 2 ^ 64 - t.seqn) (deadlocked d p) with
    | some t => dropWhole e 0 t d
    | none => d

/-- Grant the tickets whose INTENT is durable; a ticket that needs a base waits for the earlier ones at its positions. -/
def grantReady (e : Env) (p : PoolRec) (d : Dp) : Dp :=
  let ok := (openTickets d p.handle).filter (fun t => t.durable && !t.granted && !(d.roleD p.handle).stopped &&
    (baseWaits d p t).isEmpty)
  ok.foldl (fun d t =>
    let d := d.onSticket t.pool t.seqn (fun t => { t with granted := true, grantedAt := e.now })
    send e .ticketGrant 3 { ticketFrame e d t.head (ticketRec .intent t 0) with arg := t.group * 2 ^ 32 + t.reqId } .none d) d

/-- LBAs of a row's positions in the data units of a mask; all of the row's for a mask of none. -/
def ticketLbas (l : Lay) (row mask first last : Nat) : List Nat :=
  if mask = 0 then (l.rowLbas row).elim [] (fun x => (List.range x.2).map (fun i => x.1 + i))
  else (maskList 14 mask).flatMap (fun u =>
    (List.range (last + 1 - first)).filterMap (fun i => l.lba ⟨row, u, first + i⟩))

/-- A ticket of a reshape's old layout touches an LBA that rows `lo` to `hi - 1` of the new layout hold. -/
def oldTouches (p : PoolRec) (row mask first last lo hi : Nat) : Bool :=
  match p.reshape with
  | none => false
  | some r => (ticketLbas p.lay row mask first last).any (fun b =>
      ((p.newLay r).place b).any (fun q => lo ≤ q.row && q.row < hi))

/-- A reshape's window is being moved by this steward. -/
def windowOpen (d : Dp) (pool : Nat) : Bool := d.sh.htickets.any (fun t => t.pool = pool && t.moves)

/-- A host's request for the old layout waits while the window that it touches is moved (R217 step 1). -/
def windowHolds (d : Dp) (f : Frame) (mask : Nat) : Bool :=
  match d.sh.reg.pool f.pool with
  | some p => match p.reshape with
    | some r => windowOpen d f.pool && f.arg / 2 ^ 32 % 2 ^ 16 = p.layoutGen % 2 ^ 16 &&
        oldTouches p f.row mask f.posFirst f.posLast r.tidemark (r.tidemark + windowRows)
    | none => false
  | none => false

/-- A ticket request takes the next sequence and an INTENT record (Table 6-2 step 2). A ticket of a reshape's new layout is
told to every device first (R216); one of a layout that is gone writes nowhere, and drops. -/
def openTicket (e : Env) (f : Frame) (dataMask flags key size cover : Nat) (d : Dp) : Dp :=
  match d.sh.reg.pool f.pool with
  | none => d
  | some p =>
    let x := d.roleD f.pool
    let q := x.nextSeq
    let gen := f.arg / 2 ^ 32 % 2 ^ 16
    let fresh : Bool := p.reshape.isSome && gen = (p.layoutGen + 1) % 2 ^ 16
    let d := if fresh then tellView e f.pool (.window q) (takeView e f.pool (.window q) d) else d
    let l := d.ticketLay p q
    let head := f.src.val
    let first := (d.sh.stickets.find? (fun t => t.pool = f.pool && t.head = head && t.groupKey = key &&
      hasFlag t.flags fGrouped && hasFlag flags fGrouped)).map STicket.group
    let to_ := ((ticketWrites l f.row flags dataMask f.unit head).map Prod.snd).filter (fun r => takes e d f.pool r)
    let t : STicket :=
      { pool := f.pool, seqn := q, row := f.row, posFirst := f.posFirst, posLast := f.posLast, dataMask := dataMask,
        flags := flags, group := first.getD (q % 2 ^ 32), groupKey := key, groupSize := size, unit := f.unit,
        cover := cover, head := head, reqId := f.arg % 2 ^ 32,
        writers := if fresh || (gen = p.layoutGen % 2 ^ 16 && !oldTouches p f.row dataMask f.posFirst f.posLast 0
          ((p.reshape.map Reshape.tidemark).getD 0)) then listMask to_.eraseDups else 0,
        done := 0, missing := 0, durable := false, granted := false, grantedAt := 0, closed := false }
    let d := d.setRole { d.roleD f.pool with nextSeq := q + 1 }
    append e (ticketRec .intent t l.gen) { d with sh := { d.sh with stickets := d.sh.stickets ++ [t] } }

/-- The requests a steward held while it granted nothing take their tickets. -/
def openHeld (e : Env) (pool : Nat) (d : Dp) : Dp :=
  let x := d.roleD pool
  let waits (h : Frame × FrameBody) : Bool := match h.2 with
    | .ticket m _ _ _ _ => windowHolds d h.1 m
    | _ => false
  if x.stopped || x.held.isEmpty then d
  else (x.held.filter (fun h => !waits h)).foldl (fun d h => match h.2 with
    | .ticket m g k n c => openTicket e h.1 m g k n c d
    | _ => d) (d.setRole { x with held := x.held.filter waits })

/-- Records of a pool that are written and not yet durable. -/
def undurable (d : Dp) (pool : Nat) : List JRec :=
  let x := d.roleD pool
  x.sent.flatten ++ x.group

/-- A record names a rank in its ARG (Table 6-5). -/
def aboutRank (r : JRec) (k : Nat) : Bool := (r.type = .missed || r.type = .member) && r.arg / 2 ^ 56 = k

/-- A CATCHING_UP member whose bitmap is empty becomes CURRENT (Table 6-7 step 6): no record about it is on its way, no open
ticket goes without its sherd, and no secure-discard job of the pool waits for it (R63). -/
def finishCatchUp (e : Env) (p : PoolRec) (d : Dp) : Dp :=
  let pool := p.handle
  let ready (k : Nat) : Bool :=
    memberState d pool k = .catchingUp && present e d k &&
    !d.sh.missed.any (fun m => m.1 = viewKey pool k) && !(undurable d pool).any (fun r => aboutRank r k) &&
    (openTickets d pool).all (fun t => t.writers.testBit k ||
      !((ticketWrites (d.ticketLay p t.seqn) t.row t.flags t.dataMask t.unit t.head).any (fun x => x.2 = k))) &&
    d.sh.reg.jobs.all (fun j => j.pool != pool || j.state = .done || j.state = .donePartial || !j.pendingMask.testBit k)
  (p.ranks.filter ready).foldl (fun d k => appendNew e .member pool (memberArg k .current) d) d

/-- The last MEMBER record of a rank that is written and not yet durable. -/
def memberPending (d : Dp) (pool r : Nat) : Option Nat :=
  (((undurable d pool).filter (fun q => q.type = .member && q.arg / 2 ^ 56 = r)).getLast?).map
    (fun q => q.arg % 256)

/-- The steward of a pool declares a rank ABSENT (R234): once, while the rank is CURRENT or CATCHING_UP. -/
def declareAbsent (e : Env) (pool r : Nat) (d : Dp) : Dp :=
  let now := (memberPending d pool r).getD (stateCode (memberState d pool r))
  if isSteward d pool && (d.sh.reg.pool pool).any (fun p => p.ranks.contains r) && (now = 0 || now = 2) then
    appendNew e .member pool (memberArg r .absent) d
  else d

/-- Every pool this device stewards loses a rank. -/
def absentEverywhere (e : Env) (r : Nat) (d : Dp) : Dp :=
  (d.sh.roles.map PRole.pool).foldl (fun d h => declareAbsent e h r d)
    { d with sh := { d.sh with fullRanks := d.sh.fullRanks.filter (· != r) } }

/-- One round of a steward's work on a pool: requests held, outcomes, members caught up, the group when nothing awaits the
standby, grants. -/
def pumpOnce (e : Env) (pool : Nat) (d : Dp) : Dp :=
  match d.sh.reg.pool pool with
  | none => closeGroup e pool d
  | some p =>
    let d := finishCatchUp e p (breakDeadlock e p (decide1 e p (openHeld e pool d)))
    let x := d.roleD pool
    let d := if x.sent.isEmpty || groupMax ≤ x.group.length then closeGroup e pool d else d
    grantReady e p d

/-- A steward's work on a pool until it settles: each round closes tickets or changes nothing. -/
def pump (e : Env) (pool : Nat) (d : Dp) : Dp :=
  if isSteward d pool then
    (List.range (2 * ((openTickets d pool).length + (d.roleD pool).held.length) + 3)).foldl (fun d _ => pumpOnce e pool d) d
  else d

/-- The work of every pool this device stewards. -/
def pumpAll (e : Env) (d : Dp) : Dp := (d.sh.roles.map PRole.pool).foldl (fun d p => pump e p d) d

end Sys2Proof.Machine
end

