-- ==== Sys2Proof/Machine/Member.lean ====
section
/-! DEFINITION. What a member does with the sherds it holds: accepting them (C3, R165, R167, R417), placing them in bisque
or stoneware (R119, R120), reporting SHERD_DONE, making pending mappings current (R53, R54), and looking a block up
(R47, R69, R103). -/

namespace Sys2Proof.Machine

/-! ## Greenware -/

/-- The block that an UNMAPPED data block reads as, and that a DISCARD writes in an IU it covers in part (R44, R46). -/
def unmappedBlk (lba : Nat) : Blk :=
  let z := List.replicate blkBytes (0 : Byte)
  ⟨z, mkTag noDataApp (BitVec.ofNat 32 lba) (guard64 z)⟩

/-- The unit that an UNMAPPED parity block is sent and read as (R199, R582): zeros, with a mark in the bits of the tag that a parity
unit does not use (DESIGN CHOICE; notes/assumptions/36.md). -/
def unmappedParity : Blk := ⟨List.replicate blkBytes 0, mkTag 0 0 (BitVec.allOnes 64)⟩

/-- A block that was refused and has not been sent again: its data is not held. -/
def Green.empty (g : Green) : Bool := g.blk.data.isEmpty

/-- Two greenware blocks of one sherd. -/
def sameSherd (a b : Green) : Bool := a.pool = b.pool && a.seqn = b.seqn && a.unit = b.unit

/-- Two arrivals of one block of a sherd. -/
def sameGreen (a b : Green) : Bool := sameSherd a b && a.pos = b.pos && a.localBlk = b.localBlk

/-- A block of a whole sherd leaves its block UNMAPPED and programs nothing: a P or Q unit sent so; a data block of a repair or a resync
that holds no data (R582); and under a DISCARD or in a reshape's window, an IU that holds no data at all (Table 2-4, R46). -/
def leavesUnmapped (d : Dp) (all : List Green) (g : Green) : Bool :=
  let noData (x : Green) : Bool := tagApp x.blk.tag = noDataApp
  if 14 ≤ g.unit then g.blk = unmappedParity
  else if hasFlag g.flags fRepair || hasFlag g.flags fResync then noData g
  else (hasFlag g.flags fDiscard || d.sh.windows.contains (g.pool, g.seqn)) &&
    all.all (fun x => x.localBlk / iuBlocks (iuOf d g.pool) != g.localBlk / iuBlocks (iuOf d g.pool) || noData x)

/-- Bytes of greenware this member holds: blocks not yet verified on the medium. -/
def greenBytes (d : Dp) : Nat := (d.map.green.filter (fun g => !g.verified && !g.empty)).length * 4096

/-- Bytes a head holds in staging for write commands it has not completed. -/
def stagedBytes (d : Dp) : Nat :=
  (d.vq.cmds.filter (fun c => isDataOp c.opcode && c.stage = .running)).foldl (fun n c => n + c.got.length * 4096) 0

/-- The greenware that R417 bounds. -/
def greenHeld (d : Dp) : Nat := greenBytes d + stagedBytes d

/-- Change the greenware blocks a test picks. -/
def Dp.onGreen (d : Dp) (p : Green → Bool) (f : Green → Green) : Dp :=
  { d with map := { d.map with green := updateWhere p f d.map.green } }

/-- Pending mappings a member holds at a time (R52). -/
def pendingMax : Nat := 2097152

/-- Pending mappings in the table: one for each IU of each ticket whose new location, or none, is recorded and whose outcome is not known
(R52, Table 6-2 step 5). -/
def pendingIus (d : Dp) : Nat :=
  (((d.map.green.filter (fun g => !g.committed && (g.loc.isSome || (g.unmaps && g.verified)))).map
    (fun g => (g.pool, g.seqn, g.localBlk / iuBlocks (iuOf d g.pool)))).eraseDups).length

/-- The table is full (R52); it is not while this member holds fewer blocks than it has room for IUs. -/
def tableFull (d : Dp) : Bool := pendingMax ≤ d.map.green.length && pendingMax ≤ pendingIus d

/-- What of a list of blocks the table has room for (R52). -/
def roomFor (d : Dp) (l : List Green) : List Green :=
  if d.map.green.length < pendingMax then l else l.take (pendingMax - pendingIus d)

/-! ## Segments (R69) -/

/-- A block's segment is resident (R69). -/
def resident (d : Dp) (pool lb : Nat) : Bool :=
  d.map.resident || d.map.segs.contains (pool, segOf (iuOf d pool) lb)

/-- Ask for a block's segment. -/
def wantSeg (d : Dp) (pool lb : Nat) : Dp :=
  { d with map := { d.map with wanted := addNew (pool, segOf (iuOf d pool) lb) d.map.wanted } }

/-! ## Placing a sherd (R119, R120, R434) -/

/-- KIND of a unit's codeword (Table 5-3). -/
def kindOf (unit : Nat) : Nat := if unit = unitP then 1 else if unit = unitQ then 2 else 0

/-- ADDR of a block's back-pointer (Table 5-3). -/
def addrOf (l : Lay) (p : Place) : Nat :=
  if p.unit < 14 then (l.lba p).getD 0 else p.row * 256 + p.pos

/-- The codeword of a greenware block, sealed under a counter value (R151, R434). -/
def greenCw (e : Env) (d : Dp) (g : Green) (nonce : Nat) : Codeword :=
  let l := ((d.sh.reg.pool g.pool).map (fun p => d.ticketLay p g.seqn)).getD ⟨1, [], 0⟩
  let addr := addrOf l ⟨g.row, g.unit, g.pos⟩
  { pool := g.pool, localBlk := g.localBlk, kind := kindOf g.unit, addr := addr, seqn := g.seqn,
    body := sealBlk e.atRest e.keyGen nonce (backPtr g.pool (kindOf g.unit) addr) g.blk,
    written := true, verified := false, src := none }

/-- A sherd whose blocks are all on the medium gets its pending delta records and is reported to the pool's steward (Table 6-2 step 5,
R76); one that came back at a restart was reported before it or counts as missing. -/
def reportSherd (e : Env) (g : Green) (d : Dp) : Dp :=
  let all := d.map.green.filter (sameSherd g)
  if all.all (fun x => x.verified && !x.empty) && all.any (fun x => x.full) && !(all.any (fun x => x.reported)) then
    let d := d.onGreen (sameSherd g) (fun x => { x with reported := true })
    let d := all.foldl (fun d x =>
      addDelta .pending x.pool x.localBlk x.seqn (if x.unmaps then none else x.loc) d) d
    if g.replayed then d
    else send e .sherdDone 3 { header e d g.steward g.pool with
      claim := g.claim, seqn := g.seqn, row := g.row, unit := g.unit, posFirst := g.posLast, posLast := g.posLast } .none d
  else d

/-- Program one group of greenware blocks of a use: each takes the next counter value; a block no row takes waits. -/
def placeGreens (e : Env) (use : RowUse) (a : As) (gs : List Green) (d : Dp) : Dp :=
  let n := d.med.nonce
  let d := count 10 0 gs.length { d with med := { d.med with nonce := n + gs.length } }
  let d := gs.foldl (fun (d : Dp) (g : Green) =>
    (if g.overflow then d.askDram 1 1 g.pool g.localBlk false else d).askPad .wstage 8 4112) d
  let z := stageCws e use a (gs.mapIdx (fun i g => greenCw e d g (n + i))) d
  let d := (gs.zip z.2).foldl (fun d x =>
    d.onGreen (sameGreen x.1) (fun y => { y with loc := x.2 })) z.1
  match openRowOf d use with
  | some o => if z.2.any Option.isSome then fillPage e o.id a d else d
  | none => d

/-- Failure of a check point at a member, counted by point and by member, and logged at warning at C2, C3, C4, C7 and
C8 (R168). -/
def checkFail (e : Env) (point member : Nat) (d : Dp) : Dp :=
  let k := point * 16 + member
  let d := count 5 (6 + point) 1 { d with io := { d.io with checks := d.io.checks.put k (d.io.checks.get 0 k + 1) } }
  if point = 1 ∨ point = 5 ∨ point = 6 ∨ point = 9 then d
  else logE e 0x0503 3 srcFirmware [point, member] d

/-- A member refuses a sherd at a check point (R167): its head is told, which sends it again. -/
def refuseSherd (e : Env) (g : Green) (point : Nat) (d : Dp) : Dp :=
  send e .sherdRefused 3 { header e d g.src g.pool with
    claim := g.claim, seqn := g.seqn, row := g.row, unit := g.unit, posFirst := g.pos, posLast := g.posLast,
    arg := point } .none (checkFail e point e.rank d)

/-- A committed block of this member is lost here, and its row's regions are missed by this rank until resync rebuilds it (R167,
R513). -/
def markBlk (e : Env) (pool lb row seqn : Nat) (d : Dp) : Dp :=
  match d.sh.reg.pool pool with
  | none => d
  | some p =>
    { d with sh := { d.sh with
        lostBlks := addNew (pool, lb) d.sh.lostBlks
        missed := (p.rowRegions (d.ticketLay p seqn) row).foldl (fun l x => addNew (viewKey pool e.rank, x) l) d.sh.missed } }

/-- A committed block whose greenware is gone. -/
def markLost (e : Env) (g : Green) (d : Dp) : Dp := markBlk e g.pool g.localBlk g.row g.seqn d

/-- A received sherd that this member has lost counts as missing (R167): one not yet reported is forgotten; of a reported one the
regions are missed by this rank, and its steward is to be told. -/
def loseSherd (e : Env) (pool lb seqn : Nat) (d : Dp) : Dp :=
  match d.map.green.find? (fun g => g.pool = pool && g.localBlk = lb && g.seqn = seqn && !g.verified) with
  | none => d
  | some g =>
    let told := g.reported || g.committed
    let gone := d.map.green.filter (fun x => sameSherd g x && (!told || !x.verified))
    let d := { d with map := { d.map with green := d.map.green.filter (fun x => !gone.contains x) } }
    if told then
      let before := d.sh.missed
      let d := gone.foldl (fun d x => markLost e x d) d
      let fresh := d.sh.missed.filter (fun m => m.1 = viewKey pool e.rank && !before.contains m)
      { d with sh := { d.sh with
          missDue := fresh.foldl (fun l m => addNew (pool, m.2) l) d.sh.missDue } }
    else d

/-- The guard of a data unit, or the CRC-32C kept at C3 of a parity unit, holds (Table 5-6 C4). -/
def greenOk (g : Green) : Bool :=
  if g.unit < 14 then tagGuard g.blk.tag = guard64 g.blk.data else crc32c (parityUnit (some g.blk)) = g.crc

/-- C4 fails: the sherd is refused, and its head sends the block again; once it is committed, when no head keeps it any more, it is
missing at once. -/
def failC4 (e : Env) (g : Green) (d : Dp) : Dp :=
  if g.committed || g.reported then loseSherd e g.pool g.localBlk g.seqn (checkFail e 4 e.rank d)
  else refuseSherd e g 4 ((d.onGreen (sameSherd g) (fun x => { x with full := false })).onGreen
    (sameGreen g) (fun x => { x with blk := ⟨[], 0⟩ }))

/-- What waits for a place: blocks of full sherds that have none, whose segments are resident (R69). -/
def unplaced (d : Dp) : List Green :=
  d.map.green.filter (fun g => g.full && !g.verified && !g.empty && g.loc.isNone && resident d g.pool g.localBlk)

/-- The segments that full sherds touch are faulted in (R69). -/
def wantGreens (d : Dp) : Dp :=
  (d.map.green.filter (fun g => g.full && !g.verified && !resident d g.pool g.localBlk)).foldl
    (fun d g => wantSeg d g.pool g.localBlk) d

/-- The rows that a greenware block goes to: a copy of the registry pool's to the channel group of the copy (R40), resync's to stoneware,
all others to bisque (R119). -/
def placeOf (g : Green) : RowUse :=
  if g.pool = 0 then .registry (copyOf g.localBlk)
  else if hasFlag g.flags fResync then .stoneware else .bisque

/-- What a greenware block is programmed as: resync's and a reshape's window's in class P6 (Table 3-6, R219), all else in P3. -/
def placeAs (d : Dp) (g : Green) : Nat × Task :=
  if d.sh.windows.contains (g.pool, g.seqn) then (6, .reshape) else (if placeOf g = .stoneware then 6 else 3, .other)

/-- Place what waits, each block through C4, within the recorded lease of counter values (R434), while the pending-mapping table has
room (R52). Blocks that program nothing are done at once. -/
def placeWaiting (e : Env) (d : Dp) : Dp :=
  let d := wantGreens d
  let d := if tableFull d then d
    else d.onGreen (fun g => g.full && !g.verified && !g.empty && g.unmaps && resident d g.pool g.localBlk)
      (fun g => { g with verified := true })
  let d := ((unplaced d).filter (fun g => !greenOk g)).foldl (fun d g => failC4 e g d) d
  let todo := roomFor d (unplaced d)
  let key (g : Green) : RowUse × (Nat × Task) := (placeOf g, placeAs d g)
  let kinds := (todo.map key).eraseDups
  let sealed := todo.length + 6 * kinds.length ≤ leaseLeft e d
  let d := if !sealed then d
    else kinds.foldl (fun d k => placeGreens e k.1 ⟨k.2.1, k.2.2⟩ (todo.filter (fun g => key g = k)) d) d
  d.map.green.foldl (fun d g => if g.full && g.verified && !g.reported then reportSherd e g d else d) d

/-! ## Commit and drop (R53, R54) -/

/-- A pending mapping becomes current unless the entry already carries a higher sequence; older committed mappings of the
block go. A lost mark of the block is cleared (R553). -/
def makeCurrent (g : Green) (d : Dp) : Dp :=
  let mine (x : Green) : Bool := x.pool = g.pool && x.localBlk = g.localBlk
  let d := if entrySeq d g.pool g.localBlk ≤ g.seqn then
      setEntry g.pool g.localBlk (if g.unmaps then none else g.loc) d
    else d
  { d with
    map := { d.map with green := d.map.green.filter (fun x => !(mine x && x.committed && x.seqn ≤ g.seqn)) }
    sh := { d.sh with lostBlks := without (g.pool, g.localBlk) d.sh.lostBlks } }

/-- A verified copy becomes current where the entry still names its source (R55), once its segment is resident (R69). -/
def settleCopy (id i : Nat) (d : Dp) : Dp :=
  match d.cw ⟨id, i⟩ with
  | none => d
  | some c =>
    match c.verified, c.src with
    | true, some from_ =>
      if !resident d c.pool c.localBlk then wantSeg d c.pool c.localBlk
      else
        let d := d.onRow id (fun r => { r with
          cws := r.cws.mapIdx (fun j x => if j = i then { x with src := none } else x) })
        if d.entry c.pool c.localBlk = some from_ then
          addDelta .moved c.pool c.localBlk c.seqn (some ⟨id, i⟩) (setEntry c.pool c.localBlk (some ⟨id, i⟩) d)
        else d
    | _, _ => d

/-- Every verified copy of every row. -/
def settleCopies (d : Dp) : Dp :=
  d.med.rows.foldl (fun d r => (List.range r.cws.length).foldl (fun d i => settleCopy r.id i d) d) d

/-- Committed mappings whose blocks are verified become current, in order of sequence, once their segments are resident
(R69). -/
def settleGreens (e : Env) (d : Dp) : Dp :=
  let l := d.map.green.filter (fun g => g.committed && g.verified)
  let d := (l.filter (fun g => !resident d g.pool g.localBlk)).foldl (fun d g => wantSeg d g.pool g.localBlk) d
  let l := (l.filter (fun g => resident d g.pool g.localBlk)).mergeSort (fun a b => a.seqn ≤ b.seqn)
  sweepRows e (l.foldl (fun d g => makeCurrent g d) (settleCopies d))

/-- The tickets of a pool whose pending mappings a notice of a ticket makes current here: its own; of a WRITE_ATOMIC group all of them
together, with the last notice of the group's tickets that this member holds (R50, Table 2-4). -/
def commitsWith (d : Dp) (pool seqn : Nat) : List Nat :=
  match d.map.green.find? (fun g => g.pool = pool && g.seqn = seqn && hasFlag g.flags fGrouped) with
  | none => [seqn]
  | some g =>
    let all := ((d.map.green.filter (fun x => x.pool = pool && !x.committed && hasFlag x.flags fGrouped && x.group = g.group)).map
      Green.seqn).eraseDups
    if all.all (fun q => d.map.commits.contains (pool, q)) then all else []

/-- A COMMIT notice at a member: the pending mappings of the ticket are committed; a sherd that never arrived whole is
discarded, since the ticket went on without it. -/
def commitGreens (e : Env) (pool seqn : Nat) (d : Dp) : Dp :=
  let d := { d with map := { d.map with
      green := d.map.green.filter (fun g => !(g.pool = pool && g.seqn = seqn && (g.empty || !g.full)))
      commits := addNew (pool, seqn) d.map.commits } }
  let now := commitsWith d pool seqn
  settleGreens e (d.onGreen (fun g => g.pool = pool && now.contains g.seqn) (fun g => { g with committed := true }))

/-- A DROP notice at a member: the pending mappings of the ticket are discarded. -/
def dropGreens (e : Env) (pool seqn : Nat) (d : Dp) : Dp :=
  sweepRows e { d with map := { d.map with
      green := d.map.green.filter (fun g => !(g.pool = pool && g.seqn = seqn && !g.committed)) } }

/-! ## Accepting sherds -/

/-- C3: a data sherd's GUARD and REF_TAG; a parity sherd's ROW, UNIT and position. -/
def c3Ok (l : Lay) (f : Frame) (b : Blk) : Bool :=
  (l.units f.row).contains f.unit && f.posFirst ≤ f.posLast && f.posLast < l.s &&
  (14 ≤ f.unit ||
    (tagGuard b.tag = guard64 b.data &&
      (tagRef b.tag).toNat = ((l.lba ⟨f.row, f.unit, f.posFirst⟩).getD 0) % 2 ^ 32))

/-- The ticket's fields that a sherd frame's ARG carries (Table 8-5). -/
def argGroup (f : Frame) : Nat := f.arg / 2 ^ 32
def argFlags (f : Frame) : Nat := f.arg / 2 ^ 16 % 256
def argMask (f : Frame) : Nat := f.arg % 2 ^ 16

/-- A sherd block stands as greenware; a block sent again replaces the earlier copy. -/
def stageGreen (e : Env) (f : Frame) (b : Blk) (lb : Nat) (d : Dp) : Dp :=
  let g : Green :=
    { pool := f.pool, localBlk := lb, seqn := f.seqn, row := f.row, unit := f.unit, pos := f.posFirst,
      posLast := f.posLast, claim := f.claim, steward := rankOf f.claim, src := f.src.val, flags := argFlags f,
      group := argGroup f, dataMask := argMask f, blk := b, full := false, loc := none, verified := false,
      unmaps := false, committed := false, reported := false, overflow := false
      crc := if f.unit < 14 then 0 else crc32c (parityUnit (some b))
      replayed := false }
  let own := hasFlag g.flags fResync || hasFlag g.flags fRepair || hasFlag g.flags fReparity
  let spill := e.staging < greenBytes d + 4096
  let g := { g with overflow := spill }
  let d := if spill then d.askDram 3 1 f.pool lb true else d
  let d := { d with
    map := { d.map with green := d.map.green.filter (fun x => !sameGreen g x) ++ [g] }
    med := { d.med with lastWrite := if own then d.med.lastWrite else e.now } }
  let all := d.map.green.filter (sameSherd g)
  if all.any (fun x => x.pos = g.posLast && x.localBlk = lb) && all.all (fun x => !x.empty) then
    placeWaiting e (d.onGreen (sameSherd g) (fun x => { x with full := true, unmaps := leavesUnmapped d all x }))
  else d

/-- The member takes no new sherds: worn (Table 4-4), fewer than eight good channels (R543), too little hold-up energy
(R500). -/
def noSherds (d : Dp) : Bool := 3 ≤ d.med.reserve || d.med.failed || d.bw.holdupLow

/-- A sherd block that its Seawall check has passed arrives at this member (R165 C3, R167); a worn one takes none
(Table 4-4). -/
def takeSherd (e : Env) (f : Frame) (b : Blk) (d : Dp) : Dp :=
  match d.sh.reg.pool f.pool with
  | none => d
  | some p =>
    let l := d.ticketLay p f.seqn
    let mine := ((l.holders ⟨f.row, f.unit, f.posFirst⟩).filter (fun h => h.1 = e.rank)).map Prod.snd
    let d := d.askPad .wstage 2 4112
    if mine.isEmpty || noSherds d then d
    else if c3Ok l f b then mine.foldl (fun d lb => stageGreen e f b lb d) d
    else
      let d := checkFail e 3 e.rank (mine.foldl (fun d lb => stageGreen e f ⟨[], 0⟩ lb d) d)
      send e .sherdRefused 3 { header e d f.src.val f.pool with
        claim := f.claim, seqn := f.seqn, row := f.row, unit := f.unit, posFirst := f.posFirst, posLast := f.posLast,
        arg := 3 } .none d

/-! ## Looking a block up (R47, R69, R103, R104) -/

/-- Where a member-local block's current content is. -/
inductive Found where
  | green (g : Green)
  | medium (l : Loc)
  | unmapped
  | lost
  | fault
deriving DecidableEq, Repr

/-- The committed greenware of a block that is newer than its entry. -/
def newestGreen (d : Dp) (pool lb : Nat) : Option Green :=
  let l := d.map.green.filter (fun g =>
    g.pool = pool && g.localBlk = lb && g.committed && !g.empty && entrySeq d pool lb ≤ g.seqn)
  leastBy (fun g => 2 ^ 64 - g.seqn) l

/-- Look up a member-local block. -/
def lookup (d : Dp) (pool lb : Nat) : Found :=
  if !resident d pool lb then .fault
  else if d.sh.lostBlks.contains (pool, lb) then .lost
  else match newestGreen d pool lb with
    | some g => if g.unmaps then .unmapped else .green g
    | none => match d.entry pool lb with
      | some l => .medium l
      | none => .unmapped

/-- Cause codes of the error log and of READ_FAIL (Table 17-6). -/
def causeMedia : Nat := 1

/-! ## Verified pages (R55, R103, R124) -/

/-- A page is verified: greenware on it is on the medium and its sherds are reported; what is committed, and relocated copies,
become current. -/
def verifyPage (e : Env) (id page : Nat) (d : Dp) : Dp :=
  if xorBase ≤ page then d
  else
    let on_ (l : Loc) : Bool := l.row = id && l.cw / 4 = page
    let d := d.onRow id (fun r => { r with
      cws := r.cws.mapIdx (fun i c => if i / 4 = page then { c with verified := true } else c) })
    let hits := d.map.green.filter (fun g => g.loc.any on_)
    let d := d.onGreen (fun g => g.loc.any on_) (fun g => { g with verified := true })
    let d := hits.foldl (fun d g => reportSherd e g d) d
    settleGreens e d

/-- Programs of a row that its dies hold, waiting or under way. -/
def programsOf (d : Dp) (id : Nat) : Bool :=
  let of_ (k : OpKind) : Bool := match k with
    | .program r _ => r = id
    | _ => false
  d.kiln.dies.any (fun x => x.2.queue.any (fun o => of_ o.kind) || x.2.running.any (fun r => of_ r.op.kind ||
    r.rest.any (fun o => of_ o.kind)) || x.2.suspended.any (fun r => of_ r.op.kind) || x.2.cut.any (fun o => of_ o.kind))

/-- A page that has passed program status is readable (R103): programmed in one pass, or the block has passed a page as many
wordlines on as the profile says, or the row takes no more programs (DESIGN CHOICE: a block's last wordlines have none after them;
notes/assumptions/33.md). -/
def readableNow (d : Dp) (r : Row) (x : Nat × Nat) : Bool :=
  let line (q : Nat) : Nat := wordline d r (pageAt r.width q).1
  r.use.slc || d.kiln.profile.readable = 0 ||
    r.passed.any (fun y => y.1 = x.1 && line x.2 + d.kiln.profile.readable ≤ line y.2) ||
    (r.full && r.ready.isEmpty && !programsOf d r.id)

/-- Pages of a row that have passed program status and become readable are verified. -/
def settlePages (e : Env) (id : Nat) (d : Dp) : Dp :=
  match d.row id with
  | none => d
  | some r =>
    let go := r.passed.filter (readableNow d r)
    let keep := !r.use.slc && d.kiln.profile.readable != 0
    let d := d.onRow id (fun r => { r with passed := if keep then r.passed else [] })
    (go.filter (fun x => (r.cws[4 * x.2]?).any (fun c => !c.verified))).foldl (fun d x => verifyPage e id x.2 d) d

/-- Pages of a block pass program status. -/
def passPages (e : Env) (id pos : Nat) (pages : List Nat) (d : Dp) : Dp :=
  settlePages e id (d.onRow id (fun r => { r with passed := r.passed ++ pages.map (fun q => (pos, q)) }))

end Sys2Proof.Machine
end

