-- ==== Sys2Proof/Machine/Strand.lean ====
section
/-! DEFINITION. The strands: journal records (R204, R206), map delta records (R73, R76) and segment checkpoints (R74) on SLC rows of
their own (R116, R145), programmed under class P2; and what an anchor waits for and frees (R145, R146). -/

namespace Sys2Proof.Machine

/-! ## Contents -/

/-- TYPE of a journal record (Table 6-5). -/
def recTypeCode : RecType → Nat
  | .intent => 1
  | .commit => 2
  | .drop => 3
  | .missed => 4
  | .resyncDone => 5
  | .tidemark => 6
  | .member => 7

/-- The 64 bytes of a journal record (Table 6-4), with the CRC-32C over bits [479:0]. -/
def jrecBytes (r : JRec) : List Byte :=
  let at_ (v lo n : Nat) : Nat := v % 2 ^ n * 2 ^ lo
  let v := at_ r.arg 0 64 + at_ (recTypeCode r.type) 152 8 + at_ r.pool 160 8 + at_ r.flags 168 8 + at_ r.head 176 8 +
    at_ r.layoutGen 184 16 + at_ r.dataMask 200 16 + at_ r.present 216 16 + at_ r.posFirst 232 8 + at_ r.posLast 240 8 +
    at_ r.row 248 40 + at_ r.group 288 32 + at_ r.claim.toNat 320 32 + at_ r.time 352 64 + at_ r.seqn 416 64
  leBytes 60 v ++ leBytes 4 (crc32c (leBytes 60 v)).toNat

/-- Records that a codeword holds: journal records of 64 B, delta records of 16 B; and codewords of a segment of 24 KiB. -/
def journalPer : Nat := 64
def deltaPer : Nat := 256
def segmentCws : Nat := 6

/-- A location as delta records and checkpoints hold it (DESIGN CHOICE: a layout of the model's own; notes/assumptions/17.md). -/
def locBytes (l : Option Loc) : List Byte := leBytes 6 (l.elim 0 (fun l => l.row * 2 ^ 24 + l.cw + 1))

/-- The 4,096 bytes of a strand codeword. -/
def itemBytes (d : Dp) (i : StrandItem) : List Byte :=
  bytesAt (match i with
    | .journal l => l.flatMap jrecBytes
    | .deltas a b => (d.map.deltas.filter (fun x => a ≤ x.num && x.num < b)).flatMap (fun x =>
        locBytes x.loc ++ leBytes 1 x.pool ++ leBytes 5 x.localBlk ++ leBytes 4 x.seqn)
    | .segment pool g _ => (d.map.entries.filter (fun x => x.1 = pool && segOf (iuOf d pool) x.2.1 = g)).flatMap
        (fun x => locBytes (some x.2.2))) 0 blkBytes

/-- A strand codeword: a system-area codeword (KIND 0x4 of Table 5-3). -/
def strandCw (e : Env) (d : Dp) (nonce : Nat) (i : StrandItem) : Codeword :=
  { pool := 0, localBlk := 0, kind := 4, addr := 0, seqn := 0,
    body := sealBlk e.atRest e.keyGen nonce (backPtr 0 4 0) ⟨itemBytes d i, 0⟩, written := true, verified := false, src := none }

/-- The strand that an item stands on. -/
def StrandItem.use : StrandItem → RowUse
  | .journal _ => .journalStrand
  | _ => .mapStrand

/-- Program items onto a strand under class P2: those that a row takes stand there. -/
def stageItems (e : Env) (u : RowUse) (l : List StrandItem) (d : Dp) : Dp :=
  if l.isEmpty || leaseLeft e d < l.length + 6 then d
  else
    let n := d.med.nonce
    let d := count 10 0 l.length { d with med := { d.med with nonce := n + l.length } }
    let z := stageCws e u ⟨2, .other⟩ (l.mapIdx (fun i x => strandCw e d (n + i) x)) d
    let kept := (l.zip z.2).filterMap (fun x => x.2.map (fun p => (⟨p, x.1⟩ : StrandCw)))
    let d := { z.1 with map := { z.1.map with strand := z.1.map.strand ++ kept } }
    match openRowOf d u with
    | some o => if kept.isEmpty then d else fillPage e o.id ⟨2, .other⟩ d
    | none => d

/-! ## What stands on the medium -/

/-- A strand codeword is on the medium; or its page could not be programmed. -/
def strandOk (d : Dp) (x : StrandCw) : Bool := (d.cw x.place).any Codeword.verified
def strandDead (d : Dp) (x : StrandCw) : Bool :=
  (d.row x.place.row).all (fun r => r.dead.contains (x.place.cw / 4) && !strandOk d x)

/-- Journal records of a pool that a strand codeword holds, on the medium or on its way there. -/
def strandRecs (d : Dp) (all : Bool) : List JRec :=
  (d.map.strand.filter (fun x => all || strandOk d x)).flatMap (fun x => match x.item with
    | .journal l => l
    | _ => [])

/-- The tickets of a pool that this device's journal copy knows to have committed with the sherds of a rank: working set and strand. -/
def commitSeqs (d : Dp) (pool rank : Nat) : List Nat :=
  let l := (d.role pool).elim [] PRole.journal ++ strandRecs d true
  ((l.filter (fun r => r.pool = pool && r.type = .commit && r.present.testBit rank)).map JRec.seqn).eraseDups

/-- Pending mappings that came back at a restart get their tickets' outcome: those committed with this member's sherds become current,
the others are dropped (R514, R208); those of tickets that this steward has just resolved wait for its notices. -/
def settleReplayed (e : Env) (pool : Nat) (commits : List Nat) (d : Dp) : Dp :=
  let open_ (q : Nat) : Bool := d.sh.stickets.any (fun t => t.pool = pool && t.seqn = q)
  let seqs := ((d.map.green.filter (fun g => g.pool = pool && g.replayed && !open_ g.seqn)).map Green.seqn).eraseDups
  seqs.foldl (fun d q => if commits.contains q then commitGreens e pool q d else dropGreens e pool q d) d

/-- A delta record is on the medium. -/
def deltaSafe (d : Dp) (n : Nat) : Bool :=
  d.map.strand.any (fun x => strandOk d x && match x.item with
    | .deltas a b => a ≤ n && n < b
    | _ => false)

/-- A checkpoint is on the medium whole. -/
def ckptSafe (d : Dp) (k : Ckpt) : Bool :=
  let mine (g : Nat × Nat) (x : StrandCw) : Bool := x.item = .segment g.1 g.2 k.num
  (k.dir.filter (fun x => x.2 = k.num)).all (fun x =>
    segmentCws ≤ (d.map.strand.filter (fun y => mine x.1 y && strandOk d y)).length)

/-! ## The journal strand (R206) -/

/-- A list in parts of `n`. -/
def chunks {α : Type} (n : Nat) : Nat → List α → List (List α)
  | 0, _ => []
  | f + 1, l => if l.isEmpty then [] else l.take n :: chunks n f (l.drop n)

/-- The durable records of a pool that are not on the strand are programmed. -/
def stageJournal (e : Env) (pool : Nat) (d : Dp) : Dp :=
  let there := strandRecs d true
  let l := ((d.role pool).elim [] PRole.tail).filter (fun r => !there.contains r)
  stageItems e .journalStrand ((chunks journalPer l.length l).map StrandItem.journal) d

/-! ## The map strand (R73, R74) -/

/-- Delta records go to the strand a page at a time; `all` takes what is left too. -/
def stageDeltas (e : Env) (all : Bool) (d : Dp) : Dp :=
  let a := d.map.unstaged
  let n := d.map.nextDelta
  if n ≤ a || (!all && n < a + 4 * deltaPer) then d
  else
    let items := (List.range (divUp (n - a) deltaPer)).map (fun i =>
      StrandItem.deltas (a + i * deltaPer) (min n (a + (i + 1) * deltaPer)))
    let d' := stageItems e .mapStrand items d
    let there := d'.map.strand.any (fun x => x.item = .deltas a (min n (a + deltaPer)))
    if there then { d' with map := { d'.map with unstaged := n } } else d

/-- The delta records of the mappings that are pending now; a checkpoint needs the oldest of them (R76). -/
def openDeltas (d : Dp) : List Nat :=
  (d.map.deltas.filter (fun x => x.kind = .pending &&
    d.map.green.any (fun g => g.pool = x.pool && g.seqn = x.seqn && g.localBlk = x.localBlk))).map Delta.num

/-- A checkpoint is begun (R74): every dirty segment goes to the strand, and the directory names it. The wear counts, read-disturb
counts and read offsets go with it (R135). -/
def startCkpt (e : Env) (ebb : Bool) (d : Dp) : Dp :=
  let d := stageDeltas e true d
  let num := (d.map.ckpts.head?.elim 0 Ckpt.num) + 1
  let dirty := d.map.dirty
  let old := (d.map.ckpts.head?.elim [] Ckpt.dir).filter (fun x => !dirty.contains x.1)
  let k : Ckpt :=
    { num := num, entries := d.map.entries, held := openDeltas d, first := (openDeltas d).headD d.map.nextDelta, upTo := d.map.nextDelta
      dir := old ++ dirty.map (fun g => (g, num)) }
  let d := stageItems e .mapStrand (dirty.flatMap (fun g => List.replicate segmentCws (.segment g.1 g.2 num))) d
  { d with
    map := { d.map with dirty := [], ckptDue := some (k, ebb) }
    med := { d.med with
      wearKept := d.med.wear
      rows := d.med.rows.map (fun (r : Row) => { r with readsKept := r.reads, offsetsKept := r.offsets }) } }

/-- The anchor that names a checkpoint is on Bedrock: it is the newest, and delta records that neither of the two newest needs are
forgotten. B is recomputed at every anchor (R118). -/
def ckptDone (e : Env) (k : Ckpt) (d : Dp) : Dp :=
  let two := (k :: d.map.ckpts).take 2
  let first := if two.length < 2 then 0 else two.foldl (fun n x => min n x.first) k.first
  sizeBisque e { d with map := { d.map with
    ckpts := two
    ckptDue := none
    deltas := d.map.deltas.filter (fun x => first ≤ x.num)
    deltaBytes := deltaSize *
      (d.map.deltas.filter (fun x => k.upTo ≤ x.num && x.localBlk % iuBlocks (iuOf d x.pool) = 0)).length } }

/-- The oldest journal sequences that the newest anchor's replay needs, by pool: those of the mappings it holds as pending (R145). -/
def journalNeeds (d : Dp) : List (Nat × Nat) :=
  let l := (d.map.deltas.filter (fun x => x.kind = .pending &&
    d.map.green.any (fun g => g.pool = x.pool && g.seqn = x.seqn))).map (fun x => (x.pool, x.seqn))
  (d.sh.reg.pools.map PoolRec.handle).map (fun h =>
    (h, ((l.filter (fun x => x.1 = h)).map Prod.snd).foldl min (d.map.commits.foldl (fun n c => if c.1 = h then max n (c.2 + 1) else n) 0)))

/-! ## Erasing strand rows (R145) -/

/-- A journal record is older than what any member of its pool still needs. -/
def recordOld (d : Dp) (r : JRec) : Bool :=
  match d.sh.reg.pool r.pool with
  | none => true
  | some p => (p.ranks.filter (fun k => memberState d r.pool k != .retired)).all (fun k =>
      r.seqn < d.sh.needs.get 0 (viewKey r.pool k))

/-- A strand codeword is still needed: a journal record that an anchor needs, delta records or a segment that the newest anchor or the
one before it names, or what the anchor under way will name. -/
def strandNeeded (d : Dp) (x : StrandCw) : Bool :=
  let cks := d.map.ckpts ++ d.map.ckptDue.toList.map Prod.fst
  match x.item with
  | .journal l => l.any (fun r => !recordOld d r)
  | .deltas _ b => cks.length < 2 || cks.any (fun k => k.first < b)
  | .segment pool g n => cks.any (fun k => k.dir.contains ((pool, g), n))

/-- A full strand row with nothing in it that is needed is erased, and another row takes its place in the circle. -/
def trimRow (e : Env) (r : Row) (d : Dp) : Dp :=
  if (d.map.strand.filter (fun x => x.place.row = r.id)).any (strandNeeded d) then d
  else
    let d := eraseRow e r.id { d with map := { d.map with strand := d.map.strand.filter (fun x => x.place.row != r.id) } }
    growArea e r.use (areaSize e r.use) 1 d

/-- The strands go on: what could not be programmed is programmed again, delta records go out page by page, journal records on the
medium leave the tails, rows that nothing needs are erased. -/
def strandWork (e : Env) (d : Dp) : Dp :=
  if !e.ready || e.tide then d
  else
    let dead := d.map.strand.filter (strandDead d)
    let d := { d with map := { d.map with strand := d.map.strand.filter (fun x => !dead.contains x) } }
    let again (u : RowUse) : List StrandItem := (dead.map StrandCw.item).filter (fun i => i.use = u)
    let d := stageDeltas e false (stageItems e .mapStrand (again .mapStrand) (stageItems e .journalStrand (again .journalStrand) d))
    let there := strandRecs d false
    let d := { d with sh := { d.sh with roles := d.sh.roles.map (fun (x : PRole) =>
        if x.tail.isEmpty then x else { x with tail := x.tail.filter (fun r => !there.contains r) }) } }
    (d.med.rows.filter (fun r => (r.use = .journalStrand || r.use = .mapStrand) && r.full && r.erasing.isNone)).foldl
      (fun d r => trimRow e r d) d

/-- Erased bytes left of a strand at which the next anchor is due (R146). -/
def strandLow : Nat := gib

/-- Erased bytes left of a strand (R146). -/
def strandFree (d : Dp) (u : RowUse) : Nat :=
  (d.med.rows.filter (fun r => r.use = u && !r.full && r.erasing.isNone)).foldl (fun n r => n + (rowCws d r - r.cws.length) * 4096) 0

end Sys2Proof.Machine
end

