-- ==== Sys2Proof/Machine/Queue.lean ====
section
/-! DEFINITION. The Valow queue engine: live queue state, completion rings, freezing, resynchronisation
(chapter 10). -/

namespace Sys2Proof.Machine

/-! ## Records -/

/-- The queue's record, if the device holds one. -/
def Dp.queue (d : Dp) (p : PortId) (q : Nat) : Option Queue :=
  d.vq.queues.find? (fun x => x.port = p && x.queue = q)

/-- A queue the device has not yet met. -/
def freshQueue (p : PortId) (q : Nat) : Queue :=
  { port := p, queue := q, entry := 0, st := .idle, enabled := false, disabling := false, pos := 0, phase := true,
    head := 0, unread := 0, waiting := [], unsig := 0, unsigAt := 0, errTag := 0, errStatus := 0, freezing := false,
    nCmds := 0, nBytes := 0, nErrors := 0, nIgnored := 0 }

/-- The queue's record, a fresh one where the device holds none. -/
def Dp.queueD (d : Dp) (p : PortId) (q : Nat) : Queue := (d.queue p q).getD (freshQueue p q)

/-- Replace a queue's record, or add it. -/
def Dp.setQueue (d : Dp) (q : Queue) : Dp :=
  { d with vq := { d.vq with
      queues := if d.vq.queues.any (fun x => x.port = q.port && x.queue = q.queue) then
        updateWhere (fun x => x.port = q.port && x.queue = q.queue) (fun _ => q) d.vq.queues
      else d.vq.queues ++ [q] } }

/-- The command that holds a tag. -/
def Dp.cmd (d : Dp) (k : CmdKey) : Option Cmd := d.vq.cmds.find? (fun c => c.key = k)

/-- Change the command that holds a tag. -/
def Dp.onCmd (d : Dp) (k : CmdKey) (f : Cmd → Cmd) : Dp :=
  { d with vq := { d.vq with cmds := updateWhere (fun c => c.key = k) f d.vq.cmds } }

/-- Free a tag. -/
def Dp.freeTag (d : Dp) (k : CmdKey) : Dp :=
  { d with vq := { d.vq with cmds := d.vq.cmds.filter (fun c => c.key != k) } }

/-- The doorbell a queue serves next: the earliest one recorded (R350). -/
def nextDoorbell (d : Dp) (p : PortId) (q : Nat) : Option Cmd :=
  leastBy Cmd.order (d.vq.cmds.filter (fun c => c.key.port = p && c.key.queue = q && c.stage = .recorded))

/-- Places from one queue to the next in turn. -/
def turnDistance (a b : Nat) : Nat := if a < b then b - a else b + 4096 - a

/-- The queue that the weighted round robin serves now (R350): the one whose turn has doorbells left, else the next one after it that
has a doorbell to serve. -/
def servedQueue (d : Dp) (p : PortId) : Option Nat :=
  let h := d.port p
  let ready := (d.vq.queues.filter (fun x => x.port = p && x.enabled && x.st = .running &&
    (nextDoorbell d p x.queue).isSome)).map Queue.queue
  if h.turnLeft != 0 && ready.contains h.turn then some h.turn else leastBy (turnDistance h.turn) ready

/-- A queue takes one doorbell of its turn; a turn has as many as the queue's WEIGHT (R350). -/
def takeTurn (p : PortId) (q : Nat) (d : Dp) : Dp :=
  let h := d.port p
  let left := if h.turn = q && h.turnLeft != 0 then h.turnLeft else qWeight (d.queueD p q).entry
  d.setPort p { h with turn := q, turnLeft := left - 1 }

/-- Commands of a queue. -/
def Dp.queueCmds (d : Dp) (p : PortId) (q : Nat) : List Cmd :=
  d.vq.cmds.filter (fun c => c.key.port = p && c.key.queue = q)

/-- A doorbell just recorded. -/
def freshCmd (k : CmdKey) (order : Nat) : Cmd :=
  { key := k, order := order, stage := .recorded, desc := 0, segs := [], metaSegs := [], opcode := 0, pool := 0,
    lba := 0, len := 0, tags := false, elems := [], metas := [], checked := false, admitted := false, delayed := none,
    pnr := false, asking := false, askOff := 0, askMeta := 0, redo := [], again := [], afresh := false, chunks := [], metaChunks := [], got := [],
    staged := false, todo := [], moved := 0, movedMeta := 0, faulted := false, failed := none, orphan := false,
    detail := 0 }

/-! ## QSTATUS and completion rings -/

/-- Write a queue's QSTATUS quadword (R331), at bits [511:448] of its entry in host memory. -/
def writeQstatus (e : Env) (q : Queue) (d : Dp) : Dp :=
  if dmaOk e d q.port then
    put (.qstatus q.port q.queue ((d.port q.port).tbase.toNat + q.queue * 64 + 56) (qstatusWord q)) d
  else d

/-- Signal the vector of a queue and count every record signalled. -/
def signalQueue (e : Env) (p : PortId) (q : Nat) (d : Dp) : Dp :=
  let x := d.queueD p q
  msix e p q (d.setQueue { x with unsig := 0 })

/-- After a record is posted: signal at once without coalescing, or when COAL_COUNT records are unsignalled (R345). A
record with FROZE is signalled after QSTATUS (Table 10-10 step 4). -/
def coalesce (e : Env) (p : PortId) (q : Nat) (froze : Bool) (d : Dp) : Dp :=
  let x := d.queueD p q
  let x := { x with unsig := x.unsig + 1, unsigAt := if x.unsig = 0 then e.now else x.unsigAt }
  let d := d.setQueue x
  if froze then d
  else if qCoalCount x.entry = 0 ∨ qCoalTime x.entry = 0 ∨ qCoalCount x.entry ≤ x.unsig then signalQueue e p q d
  else d

/-- Records may be posted: DMA runs and the port is in D0 (R323, R328). -/
def postOk (e : Env) (d : Dp) (p : PortId) : Bool := dmaOk e d p && !(d.port p).d3 && !e.fatal

/-- Post the oldest waiting record of a queue while the ring has room (R343): the record in one 16-byte write, the
ring position and phase, the tag free. -/
def postOne (e : Env) (p : PortId) (q : Nat) (d : Dp) : Dp :=
  let x := d.queueD p q
  match x.waiting with
  | [] => d
  | c :: rest =>
    if postOk e d p && x.unread < qRing x.entry then
      let d := put (.completion p q (qCqBase x.entry + 16 * x.pos) (cplRecord x.phase c)) d
      let wrap := x.pos + 1 = qRing x.entry
      let d := d.setQueue { x with
        waiting := rest, unread := x.unread + 1, pos := if wrap then 0 else x.pos + 1,
        phase := if wrap then !x.phase else x.phase }
      coalesce e p q c.froze (d.freeTag ⟨p, q, c.tag⟩)
    else if (d.port p).bme then d
    else d.onPort p (fun h => { h with bmeStall := true })

/-- Post waiting records until none can be posted; a ring holds at most 4,096 records, a queue at most 32 tags. -/
def postAll (e : Env) (p : PortId) (q : Nat) (d : Dp) : Dp :=
  (d.queueD p q).waiting.foldl (fun d _ => postOne e p q d) d

/-- Post what waits on every queue of a port. -/
def postPort (e : Env) (p : PortId) (d : Dp) : Dp :=
  (d.vq.queues.filter (fun x => x.port = p)).foldl (fun d x => postAll e p x.queue d) d

/-! ## Ending a command -/

/-- A tag that no command holds: the key of a read whose command has ended, which still awaits its completions. -/
def deadTag : Nat := 2 ^ 32

/-- Forget what the engine still holds for a command: gathered blocks, tickets not yet asked for (the other blocks of such a
ticket are gathered again), page requests, units being fetched; its
reads stay outstanding without it. -/
def forget (k : CmdKey) (d : Dp) : Dp :=
  let mine (p : Purpose) : Bool := match p with
    | .cmd k' _ => k' = k
    | _ => false
  let dead (r : DmaRead) : DmaRead := if r.key = k then { r with key := { k with tag := deadTag } } else r
  { d with
    sh := { d.sh with
      gathers := (d.sh.gathers.map (fun g => { g with parts := g.parts.filter (fun x => x.key != k) })).filter
        (fun g => !g.parts.isEmpty)
      htickets := d.sh.htickets.filter (fun t => !(t.stage = .waiting && t.parts.any (fun x => x.key = k)))
      fetches := d.sh.fetches.filter (fun f => !mine f.purpose)
      rebuilds := d.sh.rebuilds.filter (fun r => !mine r.purpose) }
    hp := { d.hp with
      a := { d.hp.a with reads := d.hp.a.reads.map dead, pageReqs := d.hp.a.pageReqs.filter (fun r => r.key != k) }
      b := { d.hp.b with reads := d.hp.b.reads.map dead, pageReqs := d.hp.b.pageReqs.filter (fun r => r.key != k) } } }

/-- A command goes on without its host: it keeps its work under a key that no doorbell can name, and posts nothing. -/
def orphan (k : CmdKey) (d : Dp) : Dp :=
  match d.cmd k with
  | none => d
  | some c =>
    let j : CmdKey := { k with tag := 32 + c.order }
    let d := forget k d
    let d := d.onCmd k (fun c => { c with key := j, orphan := true })
    { d with sh := { d.sh with htickets := d.sh.htickets.map (fun t => { t with
        parts := t.parts.map (fun x => if x.key = k then { x with key := j } else x) }) } }

/-- Every tag of a queue is freed (R334): a write past its point of no return goes on without its host, any other command ends. -/
def freeTags (p : PortId) (q : Nat) (d : Dp) : Dp :=
  ((d.queueCmds p q).filter (fun c => !c.orphan)).foldl (fun d c =>
    if c.stage = .running && c.pnr && isWriteOp c.opcode then orphan c.key d else (forget c.key d).freeTag c.key) d

/-- Bytes a command counts in QUEUE_STATS. -/
def cmdBytes (c : Cmd) : Nat := if c.opcode = opCodec ∨ c.opcode = opGlaze then c.len else c.len * 4096

/-- A command ends: its record is formed and posted, or waits. A command whose port was reset, or whose queue is
BROKEN, posts nothing (R325, R363). -/
def endCmd (e : Env) (k : CmdKey) (status detail lba : Nat) (froze : Bool) (d : Dp) : Dp :=
  match d.cmd k with
  | none => d
  | some c =>
    let d := forget k d
    let x := d.queueD k.port k.queue
    if c.orphan ∨ x.st = .broken then d.freeTag k
    else
      let x := { x with
        waiting := x.waiting ++ [⟨k.tag, status, detail, lba, froze⟩]
        nCmds := x.nCmds + 1
        nBytes := x.nBytes + (if status = stSuccess then cmdBytes c else 0)
        nErrors := x.nErrors + (if status = stSuccess then 0 else 1) }
      let d := (d.setQueue x).onCmd k (fun c => { c with stage := .finished })
      postAll e k.port k.queue (count 2 0 1 d)

/-- Commands of a queue that a freeze ends: fetched, later in doorbell order, before their point of no return
(Table 10-10 step 3). -/
def frozenKeys (d : Dp) (k : CmdKey) (order : Nat) : List CmdKey :=
  ((d.queueCmds k.port k.queue).filter (fun c =>
    order < c.order && (c.stage = .header || c.stage = .running) && !c.pnr)).map Cmd.key

/-- A command completes with a status (R358). In FREEZE mode a freezing status of a RUNNING queue freezes it
(Table 10-10); a later failure while FROZEN keeps its own status with FROZE clear (R362). -/
def complete (e : Env) (k : CmdKey) (status detail lba : Nat) (d : Dp) : Dp :=
  match d.cmd k with
  | none => d
  | some c =>
    if c.stage = .finished then d
    else
      let x := d.queueD k.port k.queue
      if freezes status && qFreeze x.entry && x.st = .running && !c.orphan then
        let d := d.setQueue { x with st := .frozen, errTag := k.tag, errStatus := status }
        let d := endCmd e k status detail lba true d
        let d := (frozenKeys d k c.order).foldl (fun d j => endCmd e j stQueueFrozen 0 0 false d) d
        let d := writeQstatus e (d.queueD k.port k.queue) d
        let d := signalQueue e k.port k.queue d
        count 2 2 1 (logE e 0x0202 2 srcHost [k.queue, k.tag, status] d)
      else endCmd e k status detail lba false d

/-- A queue becomes BROKEN (R363): nothing more is fetched, records are discarded, one try to write QSTATE, AER. -/
def breakQueue (e : Env) (p : PortId) (q : Nat) (d : Dp) : Dp :=
  let x := { d.queueD p q with st := .broken, waiting := [] }
  let d := d.setQueue x
  let d := { d with vq := { d.vq with
      cmds := d.vq.cmds.filter (fun c =>
      !(c.key.port = p && c.key.queue = q && (c.stage = .recorded || c.stage = .finished))) } }
  let d := put (.aer p) (writeQstatus e x d)
  count 2 3 1 (logE e 0x0203 4 srcHost [q] d)

/-! ## Resynchronisation and the entry cache -/

/-- Touch a queue's entry in the cache of 128, most recently used first (R331). -/
def touchEntry (p : PortId) (q : Nat) (d : Dp) : Dp :=
  { d with vq := { d.vq with cache := ((p, q) :: without (p, q) d.vq.cache).take 128 } }

/-- A fetched entry takes effect (R334, R335): an entry read at a doorbell acts as a resynchronisation. -/
def applyEntry (e : Env) (p : PortId) (q : Nat) (ent : BitVec 512) (d : Dp) : Dp :=
  let x := d.queueD p q
  let d := touchEntry p q d
  if qEnable ent && !x.enabled then
    if qEntryBad ent || (qPasidEn ent && !(d.port p).pasidEn) then
      let d := breakQueue e p q (d.setQueue { x with entry := ent, enabled := true })
      d
    else
      let x := { x with entry := ent, enabled := true, disabling := false, st := .running, pos := 0, phase := true,
                        head := 0, unread := 0, waiting := [], unsig := 0, errTag := 0, errStatus := 0 }
      let d := freeTags p q d
      writeQstatus e x (d.setQueue x)
  else if !qEnable ent && x.enabled then
    let d := d.setQueue { x with entry := ent, enabled := false, disabling := true }
    { d with vq := { d.vq with
      cmds := d.vq.cmds.filter (fun c =>
        !(c.key.port = p && c.key.queue = q && c.stage = .recorded)) } }
  else d.setQueue { x with entry := ent }

/-- What a table read gives: the entry, or a failure that breaks the queue (R363). -/
def fetchEntry (e : Env) (p : PortId) (q : Nat) (ent : Option (BitVec 512)) (d : Dp) : Dp :=
  let d := put (.tableRead p q) d
  match ent with
  | some v => applyEntry e p q v d
  | none => breakQueue e p q d

/-- A disabled queue whose commands have all ended becomes IDLE (R334). -/
def settleQueue (e : Env) (x : Queue) (d : Dp) : Dp :=
  if x.disabling && (d.queueCmds x.port x.queue).all Cmd.orphan then
    let x := { d.queueD x.port x.queue with disabling := false, st := .idle }
    writeQstatus e x (d.setQueue x)
  else d

/-- ENABLED clears once no fetched command of the port remains after ENABLE went to 0 (R302). -/
def settlePort (p : PortId) (d : Dp) : Dp :=
  let h := d.port p
  if h.enabled && !h.enable && !(d.vq.cmds.any (fun c => c.key.port = p && c.stage != .recorded && !c.orphan)) then
    d.setPort p { h with enabled := false }
  else d

/-- Settle queues and ports after commands have ended. -/
def settleEngine (e : Env) (d : Dp) : Dp :=
  settlePort .b (settlePort .a (d.vq.queues.foldl (fun d x => settleQueue e x d) d))

/-- Queues of a port: 2,048, or 1,024 when bifurcated (R297). -/
def portQueues (e : Env) : Nat := if e.bifurc then 1024 else 2048

/-- An ignored doorbell or CQ_HEAD write is counted and logged (R339, R344). -/
def ignoreDoorbell (e : Env) (p : PortId) (q off v : Nat) (d : Dp) : Dp :=
  let d := match d.queue p q with
    | some x => d.setQueue { x with nIgnored := x.nIgnored + 1 }
    | none => { d with vq := { d.vq with ignored := d.vq.ignored + 1 } }
  count 2 1 1 (logE e 0x0201 3 srcHost [q, off, v] d)

end Sys2Proof.Machine
end

