-- ==== Sys2Proof/Machine/Dma.lean ====
section
/-! DEFINITION. The DMA engine: how requests are split (R306, R307), address translation and page faults (R314 to R320),
fetching write data with check point C1 (R165, R166, R308, R417), and writing read data (R311). -/

namespace Sys2Proof.Machine

/-! ## Ranges -/

/-- Bytes left in the element that holds a buffer offset. -/
def elementLeft : List (Nat × Nat) → Nat → Nat
  | [], _ => 0
  | (_, n) :: t, o => if o < n then n - o else elementLeft t (o - n)

/-- Bytes of a list of host ranges. -/
def rangeBytes (l : List (Nat × Nat)) : Nat := l.foldl (fun n r => n + r.2) 0

/-- Bytes of the next request at a buffer offset (R306): up to the element's end, the 4 KiB host boundary, the size limit
and the end of the transfer. -/
def requestSize (ranges : List (Nat × Nat)) (off limit stop : Nat) : Nat :=
  min (min (elementLeft ranges off) (4096 - hostAddr ranges off % 4096)) (min limit (stop - off))

/-- Host pages that a buffer touches from a byte offset on, in order. -/
def pagesFrom : List (Nat × Nat) → Nat → List Nat
  | [], _ => []
  | (a, n) :: t, o =>
    if o < n then
      let first := (a + o) / 4096
      (List.range ((a + n - 1) / 4096 + 1 - first)).map (fun i => first + i) ++ pagesFrom t 0
    else pagesFrom t (o - n)

/-! ## Translation (R314 to R320) -/

/-- The cached translation of a page. -/
def atcFind (h : HostPort) (pasid : Option Nat) (page : Nat) : Option AtcEntry :=
  h.atc.find? (fun x => x.pasid = pasid && x.page = page)

/-- A request to the page can be sent: ATS is off, or a cached translation allows the access. -/
def pageOk (h : HostPort) (pasid : Option Nat) (write : Bool) (page : Nat) : Bool :=
  !h.ats || (atcFind h pasid page).any (fun x => if write then x.writable else x.readable)

/-- The PASID of a command's queue (R316). -/
def pasidOf (d : Dp) (k : CmdKey) : Option Nat := qPasidOf (d.queueD k.port k.queue).entry

/-- A command stalls for Bus Master Enable (R328). -/
def stallBme (p : PortId) (d : Dp) : Dp := d.onPort p (fun h => { h with bmeStall := h.bmeStall || !h.bme })

/-- Translate the pages of a list: a Translation Request for each missing one of the next 16 that none is under way for
(R314). The Bool says that every page of the list is usable. -/
def translate (e : Env) (k : CmdKey) (write : Bool) (pages : List Nat) (d : Dp) : Dp × Bool :=
  let pasid := pasidOf d k
  let h := d.port k.port
  let missing := pages.filter (fun g => !pageOk h pasid write g)
  if missing.isEmpty then (d, true)
  else if !dmaOk e d k.port then (stallBme k.port d, false)
  else
    let ask := (missing.eraseDups.take 16).filter (fun g =>
      !h.transReqs.contains (pasid, g) && !h.pageReqs.any (fun r => r.pasid = pasid && r.page = g && r.req != 0))
    (ask.foldl (fun d g => put (.transReq k.port pasid g)
      (d.onPort k.port (fun h => { h with transReqs := h.transReqs ++ [(pasid, g)] }))) d, false)

/-- Outstanding non-posted requests a port may hold (Table 9-14). -/
def tagLimit (h : HostPort) : Nat :=
  if h.tagMode = 3 then 8192 else if h.tagMode = 2 then 768 else if h.tagMode = 1 then 256 else 32

/-- Another read request of `n` bytes fits the limits of R307. -/
def readRoom (h : HostPort) (n : Nat) : Bool :=
  h.reads.length < tagLimit h && h.reads.foldl (fun m r => m + r.bytes) 0 + n ≤ 8 * mib

/-! ## Fetching write data -/

/-- The data and metadata bytes of a command. -/
def dataBytes (c : Cmd) : Nat := rangeBytes c.elems
def metaBytes (c : Cmd) : Nat := rangeBytes c.metas

/-- Bytes of a block's data and of its tag in the metadata buffer. -/
def itemSize (isMeta : Bool) : Nat := if isMeta then 16 else 4096

/-- The block that is fetched once more: all of the command's blocks are in hand but those of `redo`. -/
def redoing (c : Cmd) : Option Nat := if c.got.isEmpty then none else c.redo.head?

/-- The end of what is to be fetched now: the whole buffer, or one block of it. -/
def fetchStop (c : Cmd) (isMeta : Bool) : Nat :=
  let all := rangeBytes (if isMeta then c.metas else c.elems)
  match redoing c with
  | none => all
  | some i => min all ((i + 1) * itemSize isMeta)

/-- Send the next read requests of a command's data or metadata while the limits, translation and Bus Master Enable allow
(R306, R307, R311, R328); the pages of the next 16 are looked up ahead of them (R314). -/
def sendReads (e : Env) (k : CmdKey) (isMeta : Bool) : Nat → Dp → Dp
  | 0, d => d
  | f + 1, d =>
    match d.cmd k with
    | none => d
    | some c =>
      let ranges := if isMeta then c.metas else c.elems
      let off := if isMeta then c.askMeta else c.askOff
      let stop := fetchStop c isMeta
      let h := d.port k.port
      let n := requestSize ranges off h.maxReadReq stop
      if stop ≤ off || !readRoom h n then d
      else if !dmaOk e d k.port then stallBme k.port d
      else
        let a := hostAddr ranges off
        let t := translate e k false [a / 4096] (translate e k false ((pagesFrom ranges off).take 16) d).1
        if !t.2 then t.1
        else
          let d := t.1
          let h := d.port k.port
          let req := h.nextReq + 1
          let d := d.setPort k.port { h with
            nextReq := req
            reads := h.reads ++ [{ req := req, key := k, isMeta := isMeta, off := off, addr := a, bytes := n,
                                   sentAt := e.now }] }
          let d := put (.dmaRead k.port req a n (pasidOf d k)) d
          let d := d.onCmd k (fun c =>
            if isMeta then { c with askMeta := c.askMeta + n } else { c with askOff := c.askOff + n })
          sendReads e k isMeta f d

/-- The greenware a command's data would add (R417). -/
def fitsGreen (d : Dp) (c : Cmd) : Bool := greenHeld d + c.len * 4096 ≤ d.bw.gLim

/-- A write command whose ticket is granted fetches its data, then its metadata (Table 6-2 step 3). -/
def askData (e : Env) (k : CmdKey) (d : Dp) : Dp :=
  match d.cmd k with
  | none => d
  | some c =>
    if c.asking && !c.staged && !c.orphan && (c.askOff != 0 || (redoing c).isSome || fitsGreen d c) then
      let room := tagLimit (d.port k.port)
      sendReads e k true room (sendReads e k false room d)
    else d

/-- The next block to fetch once more begins. -/
def startRedo (c : Cmd) : Cmd :=
  match c.redo with
  | [] => { c with staged := true, chunks := [], metaChunks := [] }
  | i :: _ => { c with staged := false, asking := true, askOff := i * 4096, askMeta := i * 16, chunks := [], metaChunks := [] }

/-- A block of a command's staged data is fetched from host memory again (R165, R173, R178): after the blocks still under way. -/
def refetch (k : CmdKey) (i : Nat) (d : Dp) : Dp :=
  d.onCmd k (fun c =>
    if !isDataOp c.opcode || c.orphan || !(c.staged || c.asking) || c.len ≤ i || c.redo.contains i then c
    else if c.staged then startRedo { c with redo := [i] }
    else { c with redo := c.redo ++ [i] })

/-- Bytes of a transfer that have arrived, in order of offset. -/
def assemble (chunks : List (Nat × List Byte)) : List Byte :=
  (chunks.mergeSort (fun a b => a.1 ≤ b.1)).flatMap Prod.snd

/-- Bytes that have arrived. -/
def arrivedBytes (chunks : List (Nat × List Byte)) : Nat := chunks.foldl (fun n c => n + c.2.length) 0

/-- C1 of one block (R165): with tags ON the status of its failure, in the order GUARD, REF_TAG, APP_TAG. -/
def c1Status (tags : Bool) (lba : Nat) (b : Blk) : Option Nat :=
  if !tags then none
  else if tagGuard b.tag != guard64 b.data then some stGuardError
  else if (tagRef b.tag).toNat != lba % 2 ^ 32 then some stRefTagError
  else if tagApp b.tag = noDataApp then some stAppTagError
  else none

/-- The blocks of a write from the fetched bytes; with tags OFF the device generates the tag, application tag 0. -/
def stageBlks (c : Cmd) (data tags : List Byte) : List Blk :=
  (List.range c.len).map (fun i =>
    let b := bytesAt data (i * 4096) 4096
    if c.tags then ⟨b, BitVec.ofNat 128 (fieldAt tags (i * 16) 16)⟩
    else ⟨b, mkTag 0 (BitVec.ofNat 32 (c.lba + i)) (guard64 b)⟩)

/-- The first block that fails C1 and its status. -/
def c1First (tags : Bool) : Nat → List Blk → Nat → Option (Nat × Nat)
  | _, [], _ => none
  | lba, b :: t, i =>
    match c1Status tags lba b with
    | some st => some (i, st)
    | none => c1First tags (lba + 1) t (i + 1)

/-! ## Writing read data -/

/-- The bytes a block returns: UNMAPPED blocks are zeros with the tag of R44. -/
def readBlk (lba : Nat) (b : Option Blk) : Blk := b.getD (unmappedBlk lba)

/-- Data bytes of the first `n` blocks of a command. -/
def readData (c : Cmd) (n : Nat) : List Byte :=
  (List.range n).flatMap (fun i => (readBlk (c.lba + i) ((c.got.find i).getD none)).data)

/-- Metadata bytes of the first `n` blocks of a command. -/
def readMeta (c : Cmd) (n : Nat) : List Byte :=
  (List.range n).flatMap (fun i => leBytes 16 (readBlk (c.lba + i) ((c.got.find i).getD none)).tag.toNat)

/-- Write the next bytes of a command's data or metadata to host memory, up to `stop`, while translation and Bus Master
Enable allow: in ascending order, split by R306. -/
def sendWrites (e : Env) (k : CmdKey) (isMeta : Bool) (bytes : List Byte) (stop : Nat) : Nat → Dp → Dp
  | 0, d => d
  | f + 1, d =>
    match d.cmd k with
    | none => d
    | some c =>
      let ranges := if isMeta then c.metas else c.elems
      let off := if isMeta then c.movedMeta else c.moved
      if stop ≤ off then d
      else if !dmaOk e d k.port then stallBme k.port d
      else
        let a := hostAddr ranges off
        let n := requestSize ranges off (d.port k.port).maxPayload stop
        let t := translate e k true [a / 4096] (translate e k true ((pagesFrom ranges off).take 16) d).1
        if !t.2 then t.1
        else
          let d := put (.dmaWrite k.port a (bytesAt bytes off n) (pasidOf d k)) (t.1.askPad .rstage 1 n)
          let d := d.onCmd k (fun c =>
            if isMeta then { c with movedMeta := c.movedMeta + n, pnr := true }
            else { c with moved := c.moved + n, pnr := true })
          if n = 0 then d else sendWrites e k isMeta bytes stop f d

/-- Write the data and metadata of the first `n` blocks of a READ; the Bool says that all of it is written. -/
def transfer (e : Env) (k : CmdKey) (n : Nat) (d : Dp) : Dp × Bool :=
  match d.cmd k with
  | none => (d, false)
  | some c =>
    let stop := n * 4096
    let stopMeta := if c.tags then n * 16 else 0
    let d := sendWrites e k false (readData c n) stop (stop + 1) d
    let d := if (d.cmd k).any (fun c => stop ≤ c.moved) then
        sendWrites e k true (readMeta c n) stopMeta (stopMeta + 1) d
      else d
    (d, (d.cmd k).any (fun c => stop ≤ c.moved && stopMeta ≤ c.movedMeta))

/-- Bytes of READs held on a page fault (R321). -/
def heldReads (d : Dp) (p : PortId) : Nat :=
  (d.vq.cmds.filter (fun c => c.key.port = p && c.opcode = opRead && c.stage = .running && c.todo.isEmpty &&
    (d.port p).pageReqs.any (fun r => r.key = c.key))).foldl (fun n c => n + (c.len * 4096 - c.moved)) 0

end Sys2Proof.Machine
end

