-- ==== Sys2Proof/Machine/Admission.lean ====
section
/-! DEFINITION. What stands before a pool command runs: the checks of R355 and Breakwater's admission (R16, R52, R351,
R418, R423). -/

namespace Sys2Proof.Machine

/-! ## The checks of R355 -/

/-- The pool a data command may name: an existing one but the registry pool (R41). -/
def dataPool (d : Dp) (h : Nat) : Option PoolRec :=
  if h = 0 then none
  else match d.sh.reg.pool h with
    | some p => if p.state = .creating then none else some p
    | none => none

/-- The opcode is one of Table 10-6. -/
def opValid (op : Nat) : Bool := (1 ≤ op && op ≤ 6) || op = opCodec || op = opGlaze

/-- The first failure of a pool command's descriptor in the order of R355, or none. -/
def checkDesc (e : Env) (d : Dp) (c : Cmd) : Option Nat :=
  if !opValid c.opcode then some stInvalidOpcode
  else if descFieldBad c.desc then some stInvalidField
  else match dataPool d c.pool with
    | none => some stPoolNotFound
    | some p =>
      if descLengthBad c.desc then some stInvalidLength
      else if p.cap < c.lba + c.len then some stLbaRange
      else if (poolBufs c.desc p.tags c.segs c.metaSegs).isNone then some stInvalidSgl
      else if p.state = .deleting then some stPoolDeleting
      else if isWriteOp c.opcode && readOnly e d p then some stPoolReadOnly
      else none

/-! ## Breakwater (R418) -/

/-- A bucket nothing has drawn on: 2 MiB, no rate heard yet (notes/assumptions/12.md). -/
def freshBucket : Bucket :=
  { tokens := 2 * mib, rate := 0, filledAt := 0, spent := 0, delayedSince := none, idleSince := 0, softOn := false,
    softAt := none }

def Dp.bucket (d : Dp) (pool : Nat) : Bucket := d.bw.buckets.get freshBucket pool
def Dp.setBucket (d : Dp) (pool : Nat) (b : Bucket) : Dp :=
  { d with bw := { d.bw with buckets := d.bw.buckets.put pool b } }

/-- The bucket filled at its rate up to now: at most the larger of 1 ms of its rate and 2 MiB. -/
def fillBucket (e : Env) (b : Bucket) : Bucket :=
  { b with tokens := min (max (b.rate / 1000) (2 * mib)) (b.tokens + b.rate * (e.now - b.filledAt) / second),
           filledAt := e.now }

/-- The cost of a write-class command (R418). -/
def writeCost (iu : Nat) (c : Cmd) : Nat :=
  if isDataOp c.opcode then c.len * 4096
  else
    let n := iuBlocks iu
    let parts := (if c.lba % n != 0 then 1 else 0) +
      (if (c.lba + c.len) % n != 0 && (c.lba % n = 0 || c.lba / n != (c.lba + c.len) / n) then 1 else 0)
    if parts = 0 then 4096 else parts * n * 4096

/-- A bucket holds a cost. No cost exceeds 2 MiB, the least a bucket can fill to. -/
def bucketHolds (b : Bucket) (cost : Nat) : Bool := cost ≤ b.tokens

/-- Write-class commands of a pool whose headers are read and that wait, in header order. -/
def waitingWrites (d : Dp) (pool : Nat) : List Cmd :=
  d.vq.cmds.filter (fun c => c.stage = .header && isWriteOp c.opcode && !c.admitted && c.pool = pool)

/-- A command waits for admission: since when, and the pool's delay (R423). -/
def delayWrite (e : Env) (c : Cmd) (d : Dp) : Dp :=
  if c.delayed.isSome then d
  else
    let b := d.bucket c.pool
    count 2 4 1 ((d.onCmd c.key (fun c => { c with delayed := some e.now })).setBucket c.pool
      { b with delayedSince := some (b.delayedSince.getD e.now) })

/-- No delayed descriptor of a pool remains. -/
def undelay (e : Env) (pool : Nat) (d : Dp) : Dp :=
  if (waitingWrites d pool).isEmpty then
    let b := d.bucket pool
    if b.delayedSince.isSome then d.setBucket pool { b with delayedSince := none, idleSince := e.now } else d
  else d

/-- The pending-mapping table of a member of the pool is full: this device's own, or another's as it has told (R52). -/
def fullFor (e : Env) (d : Dp) (p : PoolRec) : Bool :=
  p.ranks.any (fun r => if r = e.rank then tableFull d else d.sh.fullRanks.contains r && present e d r)

/-- Breakwater admits a command or delays it: first of its pool in header order, room in the pending-mapping table (R52),
its cost in the bucket (R418). -/
def admitWrite (e : Env) (c : Cmd) (d : Dp) : Dp :=
  let leaf := (dataPool d c.pool).any (fun p => p.ranks.contains e.rank)
  let admitNow (d : Dp) : Dp :=
    undelay e c.pool { (d.onCmd c.key (fun c => { c with admitted := true })) with
      med := { d.med with lastWrite := if leaf then e.now else d.med.lastWrite } }
  match dataPool d c.pool with
  | none => admitNow d
  | some p =>
    let b := fillBucket e (d.bucket c.pool)
    let d := d.setBucket c.pool b
    let cost := writeCost p.iu c
    if ((waitingWrites d c.pool).head?.map Cmd.key) = some c.key && !fullFor e d p &&
        bucketHolds b cost then
      admitNow (d.setBucket c.pool { b with tokens := b.tokens - cost, spent := b.spent + cost })
    else delayWrite e c d

/-- A command whose checks are passed runs: its buffers are known, and every block is to do. -/
def startCmd (p : PoolRec) (c : Cmd) : Cmd :=
  let bufs := (poolBufs c.desc p.tags c.segs c.metaSegs).getD (⟨[], 0⟩, ⟨[], 0⟩)
  { c with stage := .running, checked := true, tags := p.tags, elems := bufs.1.ranges, metas := bufs.2.ranges,
           todo := List.range c.len }

/-- A header read goes on: NOT_READY in safe mode (R536), held before READY (R528), admission for the write class, then the
checks of R355 and the command runs. -/
def startHeader (e : Env) (k : CmdKey) (d : Dp) : Dp :=
  match d.cmd k with
  | none => d
  | some c =>
    if c.stage = .header && c.opcode != opCodec && c.opcode != opGlaze then
      if e.safe then complete e k (if opValid c.opcode then stNotReady else stInvalidOpcode) 0 0 d
      else if !e.ready then d
      else
        let d := if isWriteOp c.opcode && !c.admitted then admitWrite e c d else d
        match d.cmd k with
        | none => d
        | some c =>
          if isWriteOp c.opcode && !c.admitted then d
          else match checkDesc e d c with
            | some st => complete e k st 0 0 d
            | none => match d.sh.reg.pool c.pool with
              | some p => d.onCmd k (fun c => startCmd p c)
              | none => d
    else d

/-- Every header that waits goes on if it can. -/
def startHeaders (e : Env) (d : Dp) : Dp :=
  (d.vq.cmds.map Cmd.key).foldl (fun d k => startHeader e k d) d

end Sys2Proof.Machine
end

