-- ==== Sys2Proof/Machine/Head.lean ====
section
/-! DEFINITION. What a head does with the commands it has taken: overlap order (R352), gathering blocks into tickets (R197,
R199), fetching units and rebuilding lost ones (R47, R198, R579, R580, Tables 3-8 and 6-1), parity and sherds (R194 to R200),
outcomes (R202, R255), and completing commands. -/

namespace Sys2Proof.Machine

/-! ## Records -/

def Dp.hticket (d : Dp) (id : Nat) : Option HTicket := d.sh.htickets.find? (fun t => t.id = id)
def Dp.onHticket (d : Dp) (id : Nat) (f : HTicket → HTicket) : Dp :=
  { d with sh := { d.sh with htickets := updateWhere (fun t => t.id = id) f d.sh.htickets } }
def Dp.dropHticket (d : Dp) (id : Nat) : Dp :=
  { d with sh := { d.sh with
      htickets := d.sh.htickets.filter (fun t => t.id != id)
      fetches := d.sh.fetches.filter (fun f => match f.purpose with
        | .base t _ _ => t != id
        | _ => true)
      rebuilds := d.sh.rebuilds.filter (fun r => match r.purpose with
        | .base t _ _ => t != id
        | _ => true) } }
def Dp.onRebuild (d : Dp) (id : Nat) (f : Rebuild → Rebuild) : Dp :=
  { d with sh := { d.sh with rebuilds := updateWhere (fun r => r.id = id) f d.sh.rebuilds } }

/-- The steward a head sends to: the rank of the pool's claim while it is not silent (R251, R255). -/
def stewardOf (e : Env) (d : Dp) (pool : Nat) : Option Nat :=
  if stewardSilent e d pool then none else stewardRank d pool

/-! ## Sources of a unit (R47, R203, R580) -/

/-- A rank serves reads of a row: present, CURRENT or CATCHING_UP, with its bitmap clear for the row; this device's own
sherds serve none until its JOIN is admitted (R533). -/
def readable (e : Env) (d : Dp) (p : PoolRec) (l : Lay) (row r : Nat) : Bool :=
  present e d r && (r != e.rank || admitted d p.handle) &&
    (memberState d p.handle r = .current || memberState d p.handle r = .catchingUp) && clearFor d p l row r

/-- The holders a unit had before the substitutions of R213: a replaced rank serves reads while it is able. -/
def formerHolders (e : Env) (d : Dp) (p : PoolRec) (l : Lay) (q : Place) : List (Nat × Nat) :=
  (p.substs.filter (fun x => x.1 != x.2)).flatMap (fun x =>
    let old : Lay := { l with stripes := l.stripes.map (fun (s : Stripe) =>
      { s with ranks := s.ranks.map (fun r => if r = x.2 then x.1 else r) }) }
    (old.holders q).filter (fun h => h.1 = x.1 && present e d h.1 &&
      (memberState d p.handle h.1 = .current || memberState d p.handle h.1 = .catchingUp) && clearFor d p l q.row h.1))

/-- Names a holder: its rank, and which of the copies on that device it is (R40). -/
def holderTag (rank key : Nat) : Nat := rank + 16 * copyOf key

/-- The holder a unit is read from: this device if it holds a copy, else the first readable one not yet tried. -/
def sourceOf (e : Env) (d : Dp) (p : PoolRec) (l : Lay) (q : Place) (tried : List Nat) : Option (Nat × Nat) :=
  let hs := ((l.holders q).filter (fun h => readable e d p l q.row h.1) ++ formerHolders e d p l q).filter
    (fun h => !tried.contains (holderTag h.1 h.2))
  match hs.find? (fun h => h.1 = e.rank) with
  | some h => some h
  | none => hs.head?

/-- RANK of a fetch that no holder can serve. -/
def noRank : Nat := 255

/-- Class and task of the die read that a purpose leads to (Table 3-6, R219, R220): resync, repair, reshape and Beachcomber P6,
reparity P4 as part of a secure discard, all else P1 (notes/assumptions/34.md). -/
def readClass (d : Dp) (why : Purpose) : Nat × Task :=
  let plain (w : Purpose) : Nat × Task := match w with
    | .base t _ _ => (d.hticket t).elim (1, .other) (fun t =>
        if t.moves then (6, .reshape)
        else if hasFlag t.flags fResync || hasFlag t.flags fRepair then (6, .other)
        else if hasFlag t.flags fReparity then (4, .other) else (1, .other))
    | .patrol _ _ _ => (6, .patrol)
    | _ => (1, .other)
  match why with
  | .rebuild j => ((d.sh.rebuilds.find? (fun r => r.id = j)).map (fun r => plain r.purpose)).getD (1, .other)
  | w => plain w

/-- ARG of a READ_REQUEST (notes/assumptions/34.md): the class of the read, 6 with 16 more for Beachcomber and 32 more for a reshape. -/
def readArg (f : Fetch) : Nat :=
  f.cls + match f.task with
    | .patrol => 16
    | .reshape => 32
    | _ => 0

/-- Class and task of the read that an ARG asks for. -/
def argClass (n : Nat) : Nat × Task :=
  (if n % 16 = 0 then 1 else n % 16, if n / 16 = 1 then .patrol else if n / 16 = 2 then .reshape else .other)

/-- Ask for a unit of a row position: this device's own store, or a READ_REQUEST to a holder. -/
def fetchUnit (e : Env) (pool gen : Nat) (q : Place) (why : Purpose) (again : Bool) (tried : List Nat) (d : Dp) : Dp :=
  match d.sh.reg.pool pool with
  | none => d
  | some p =>
    let l := p.layGen gen
    let f : Fetch :=
      { pool := pool, gen := gen, row := q.row, unit := q.unit, pos := q.pos, rank := noRank, localBlk := 0,
        purpose := why, sentAt := e.now, queued := false, again := again, tried := tried
        cls := (readClass d why).1, task := (readClass d why).2 }
    match sourceOf e d p l q tried with
    | none => { d with sh := { d.sh with fetches := d.sh.fetches ++ [f] } }
    | some (r, lb) =>
      let f := { f with rank := r, localBlk := lb, queued := r != e.rank }
      let d := { d with sh := { d.sh with fetches := d.sh.fetches ++ [f] } }
      if r = e.rank then d.askDram 2 0 pool lb false
      else send e .readRequest 3 { header e d r pool with
          row := q.row, unit := q.unit, posFirst := q.pos, posLast := q.pos, arg := readArg f } (.blocks [lb]) d

/-- A unit of a row is being fetched or rebuilt for a purpose. -/
def underWay (d : Dp) (why : Purpose) : Bool :=
  d.sh.fetches.any (fun f => f.purpose = why) || d.sh.rebuilds.any (fun r => r.purpose = why)

/-! ## Rebuild jobs (Table 6-1, R195, R582) -/

/-- UNIT of a job that checks a whole position (R196), and of one that compares the copies of a mirrored position: its units name
the holders. -/
def wholeCheck : Nat := 255
def mirrorCheck : Nat := 254

/-- Start a job. -/
def startRebuild (pool gen : Nat) (q : Place) (why : Purpose) (d : Dp) : Dp :=
  let id := d.sh.nextId
  { d with sh := { d.sh with
      nextId := id + 1
      rebuilds := d.sh.rebuilds ++ [{ id := id, pool := pool, gen := gen, row := q.row, pos := q.pos, unit := q.unit,
                                      purpose := why, got := [], lost := [], asked := [] }] } }

/-- The units a job still has to ask for: the data units it lacks, then as many parity units as data units are lost. -/
def jobAsks (l : Lay) (j : Rebuild) : List Nat :=
  let data := (l.dataUnits j.row).filter (fun u => u != j.unit)
  if j.unit = wholeCheck then (l.units j.row).filter (fun u => !j.asked.contains u)
  else if j.unit = mirrorCheck then
    ((l.holders ⟨j.row, 0, j.pos⟩).map (fun h => holderTag h.1 h.2)).filter (fun r => !j.asked.contains r)
  else
    let lostData := (if j.unit < 14 then 1 else 0) + (j.lost.filter (· < 14)).length
    let parity := [unitP, unitQ].filter (fun u => u != j.unit)
    let alive := parity.filter (fun u => !j.lost.contains u)
    (data ++ alive.take lostData).filter (fun u => !j.asked.contains u)

/-- Everything a job has asked for is in hand or lost. -/
def jobReady (j : Rebuild) : Bool :=
  j.asked.all (fun u => j.got.any (fun g => g.unit = u) || j.lost.contains u)

/-- A unit of a job, if it is in hand. -/
def jobUnit (j : Rebuild) (u : Nat) : Option UnitBlk := j.got.find? (fun g => g.unit = u)

/-- The data units of a job's position, none where lost. -/
def jobData (l : Lay) (j : Rebuild) : List (Option (List Byte)) :=
  (l.dataUnits j.row).map (fun u => (jobUnit j u).map (fun g => dataUnit g.blk))

/-- P or Q of a job's position. -/
def jobParity (j : Rebuild) (u : Nat) : Option (List Byte) := (jobUnit j u).map (fun g => parityUnit g.blk)

/-- The block of a parity unit computed from data units; UNMAPPED where all of them are (R582). -/
def parityOf (u : Nat) (ds : List (List Byte)) : Option Blk :=
  if ds.all (fun x => x.all (· = 0)) then none
  else some (parityBlk (if u = unitP then parityP ds else parityQ 0 ds))

/-- What a job recovers for a unit: the block (none where UNMAPPED) and whether C9 holds. -/
def jobResult (l : Lay) (j : Rebuild) (u : Nat) : Option (Option Blk × Bool) :=
  match recover (jobData l j) (jobParity j unitP) (jobParity j unitQ) with
  | none => none
  | some ds =>
    if u < 14 then some (rebuiltBlk (ds.getD u zeroUnit) ((l.lba ⟨j.row, u, j.pos⟩).getD 0))
    else some (parityOf u ds, true)

/-! ## Losses and failures -/

/-- Error-log causes (Table 17-6). -/
def causeParity : Nat := 2
def causeResync : Nat := 3

/-- A loss is found (R552): the range joins the log and every other device is told; ERROR_LOG is set. -/
def noteLoss (e : Env) (pool lba n why : Nat) (d : Dp) : Dp :=
  let x : ErrEntry :=
    { pool := pool, lba := lba, blocks := n, cause := why, rank := (stewardRank d pool).getD e.rank, time := e.now,
      boot := e.boot % 2 ^ 32, widened := false }
  let d := cause e evErrorLog (d.onErrlog (errAdd x))
  sendEach e .control (otherRanks e d) (fun r => header e d r 0) (.order (.loss x false)) d

/-- Tell the steward that a ticket of this head is to be dropped (R166, R309): reason 2. -/
def askDrop (e : Env) (t : HTicket) (d : Dp) : Dp :=
  match stewardOf e d t.pool with
  | none => d
  | some r => send e .control 3 (header e d r t.pool) (.order (.drop t.pool t.seqn 2)) d

/-- A ticket is given up: it is dropped with its steward, or forgotten before it was asked for. -/
def giveUpTicket (e : Env) (t : HTicket) (d : Dp) : Dp :=
  match t.stage with
  | .waiting => d.dropHticket t.id
  | .granted | .sent => askDrop e t (d.onHticket t.id (fun t => { t with stage := .dropping }))
  | _ => d.onHticket t.id (fun t => { t with stage := .dropping })

/-- A command fails (R166, R309, R48): its blocks leave every ticket, the tickets are dropped, and it completes. -/
def failCmd (e : Env) (k : CmdKey) (status idx : Nat) (d : Dp) : Dp :=
  match d.cmd k with
  | none => d
  | some c =>
    let mine := d.sh.htickets.filter (fun t => t.parts.any (fun x => x.key = k))
    let d := mine.foldl (fun d t => giveUpTicket e t
      (d.onHticket t.id (fun t => { t with parts := t.parts.filter (fun x => x.key != k) }))) d
    let data := 0x0100 ≤ status && status < 0x0200
    complete e k status (if data then idx else 0) (if data then c.lba + idx else 0) d

/-- A block's only copy lies on an ABSENT rank, under a LEAF that stands by itself (R26). -/
def onlyAbsent (e : Env) (d : Dp) (p : PoolRec) (lba : Nat) : Bool :=
  let l := p.layOf lba
  (l.place lba).all (fun q => !l.isPq q.row && !l.isMirror q.row &&
    (l.holders q).all (fun h => !present e d h.1 || memberState d p.handle h.1 = .absent))

/-- A unit that a READ or VERIFY needs cannot be served (R26): the command's first failing block; the loss is logged but
where the only copy lies on an ABSENT rank. -/
def cmdLost (e : Env) (k : CmdKey) (i : Nat) (d : Dp) : Dp :=
  match d.cmd k with
  | none => d
  | some c =>
    let lba := c.lba + i
    let gone := (d.sh.reg.pool c.pool).all (fun p => onlyAbsent e d p lba)
    let d := if gone then d else count 5 5 1 (noteLoss e c.pool lba 1 causeMedia d)
    d.onCmd k (fun c => { c with
      todo := c.todo.filter (· != i)
      failed := match c.failed with
        | some (j, st) => if j ≤ i then some (j, st) else some (i, stMediaError)
        | none => some (i, stMediaError) })

/-! ## Parity bases (R48, R198) -/

/-- Positions of a ticket. -/
def HTicket.positions (t : HTicket) : List Nat :=
  (List.range (t.posLast + 1 - t.posFirst)).map (fun i => t.posFirst + i)

/-- Data units a ticket writes at each position. -/
def HTicket.mask (t : HTicket) : List Nat := maskList 14 t.dataMask

/-- R198: old P, old Q and the old units replaced, or the old units not replaced, whichever is fewer; ties to the first. -/
def parityBase (l : Lay) (t : HTicket) : List Nat :=
  let k := (l.dataUnits t.row).length
  let m := t.mask.length
  if !l.isPq t.row || m = k then []
  else if 2 + m ≤ k - m then unitP :: unitQ :: t.mask
  else (l.dataUnits t.row).filter (fun u => !t.dataMask.testBit u)

/-- A ticket's commands write a block. -/
def HTicket.writes (t : HTicket) (u x : Nat) : Bool := t.parts.any (fun q => q.unit = u && q.pos = x)

/-- The merge base (R46): blocks of the ticket's IUs that none of its commands writes. -/
def mergeBase (t : HTicket) : List (Nat × Nat) :=
  t.mask.flatMap (fun u => (t.positions.filter (fun x => !t.writes u x)).map (fun x => (u, x)))

/-- Everything a granted ticket has to read before it can send sherds. -/
def ticketWants (p : PoolRec) (l : Lay) (t : HTicket) : List (Nat × Nat) :=
  let all (us : List Nat) := t.positions.flatMap (fun x => us.map (fun u => (u, x)))
  if hasFlag t.flags fRepair || hasFlag t.flags fResync then
    (all [t.unit]).filter (fun w => !(t.base.any (fun b => b.unit = w.1 && b.pos = w.2)))
  else if hasFlag t.flags fReparity || t.moves then all (l.dataUnits t.row)
  else (all (parityBase l t) ++ mergeBase t).eraseDups

/-- Start to read what a ticket wants at one unit and position. -/
def wantUnit (e : Env) (p : PoolRec) (l : Lay) (t : HTicket) (w : Nat × Nat) (d : Dp) : Dp :=
  let why : Purpose := .base t.id w.1 w.2
  let q : Place := ⟨t.row, w.1, w.2⟩
  if t.moves then
    match l.lba q with
    | none => d
    | some lba => match p.lay.place lba with
      | none => d.onHticket t.id (fun t => { t with base := t.base ++ [⟨w.1, w.2, none, 0⟩] })
      | some o => fetchUnit e t.pool p.layoutGen o why false [] d
  else if (hasFlag t.flags fRepair || hasFlag t.flags fResync) && l.isPq t.row then startRebuild t.pool t.gen q why d
  else
    let tried := if hasFlag t.flags fResync then [e.rank] else []
    fetchUnit e t.pool t.gen q why false tried d

/-- A base cannot be read (R48). A lost block of the merge base enters the error log, and the commands that write its IU fail with
MEDIA_ERROR. Where old P and Q were asked for as parity base, the units not replaced are read in their place; where these cannot be read
either, the write goes on without a parity base at that position. -/
def baseLost (e : Env) (id u x : Nat) (d : Dp) : Dp :=
  match d.hticket id with
  | none => d
  | some t =>
    match d.sh.reg.pool t.pool with
    | none => d
    | some p =>
      let l := p.layGen t.gen
      let host := !(hasFlag t.flags fRepair || hasFlag t.flags fResync || hasFlag t.flags fReparity || t.moves)
      let others := (l.dataUnits t.row).filter (fun v => !t.dataMask.testBit v)
      let merge (w : Nat × Nat) : Bool := t.dataMask.testBit w.1 && !t.writes w.1 w.2
      if host && u < 14 && merge (u, x) then
        let n := iuBlocks p.iu
        let hit := t.parts.filter (fun y => y.unit = u && y.pos / n = x / n)
        let d := match l.lba ⟨t.row, u, x⟩ with
          | some b => if onlyAbsent e d p b then d else count 5 5 1 (noteLoss e t.pool b 1 causeMedia d)
          | none => d
        (hit.map (fun y => (y.key, y.idx))).foldl (fun d y => failCmd e y.1 stMediaError y.2 d) d
      else if host && t.want.contains (unitP, x) then
        let d := d.onHticket id (fun t => { t with
          want := (t.want.filter (fun w => w.2 != x || merge w)) ++ others.map (fun v => (v, x))
          base := t.base.filter (fun b => b.pos != x || merge (b.unit, b.pos)) })
        others.foldl (fun d v => wantUnit e p l t (v, x) d) d
      else if host then
        d.onHticket id (fun t => { t with
          want := t.want.filter (fun w => w.2 != x || merge w)
          base := t.base.filter (fun b => b.pos != x || merge (b.unit, b.pos))
          noBase := addNew x t.noBase })
      else if hasFlag t.flags fResync then
        -- the row cannot be rebuilt: its LBAs enter the log and the device marks its own blocks lost (R212)
        let d := match l.rowLbas t.row with
          | some (b, n) => noteLoss e t.pool b n causeResync d
          | none => d
        let mine := t.positions.flatMap (fun y =>
          ((l.holders ⟨t.row, t.unit, y⟩).filter (fun h => h.1 = e.rank)).map (fun h => (t.pool, h.2)))
        let d := { d with sh := { d.sh with
            lostBlks := d.sh.lostBlks ++ mine.filter (fun b => !d.sh.lostBlks.contains b)
            resyncing := d.sh.resyncing.map (fun g =>
              if g.1 = t.pool && (p.rowRegions l t.row).contains g.2.1 then (g.1, g.2.1, addNew (rowKey l t.row) g.2.2) else g) } }
        giveUpTicket e t d
      else if hasFlag t.flags fRepair then
        giveUpTicket e t (t.parts.foldl (fun d y => cmdLost e y.key y.idx d) d)
      else
        let d := if t.moves then { d with sh := { d.sh with
            reg := d.sh.reg.setPool { p with reshape := p.reshape.map (fun r => { r with paused := true }) } } }
          else d
        giveUpTicket e t d

/-! ## What a fetch answers -/

/-- A unit arrives for its purpose; a data block that a DISCARD has zeroed holds no data (R44, R199). -/
def giveUnit (e : Env) (f : Fetch) (b : Option Blk) (seqn : Nat) (d : Dp) : Dp :=
  let b := b.filter (fun x => 14 ≤ f.unit || tagApp x.tag != noDataApp)
  match f.purpose with
  | .cmd k i => d.onCmd k (fun c => { c with got := c.got.put i b, todo := c.todo.filter (· != i) })
  | .base t u x => d.onHticket t (fun t => { t with base := t.base ++ [⟨u, x, b, seqn⟩] })
  | .rebuild j => d.onRebuild j (fun j => { j with
      got := j.got ++ [⟨if j.unit = mirrorCheck then holderTag f.rank f.localBlk else f.unit, f.pos, b, seqn⟩] })
  | .patrol _ _ _ => d
  | .remote r pool lb =>
    let none_ := if f.unit < 14 then
        unmappedBlk ((((d.sh.reg.pool pool).map (fun p => p.layGen f.gen)).bind
          (fun l => l.lba ⟨f.row, f.unit, f.pos⟩)).getD 0)
      else unmappedParity
    send e .readData (if f.cls = 1 then 3 else 4) { header e d r pool with
      seqn := seqn, row := f.row, unit := f.unit, posFirst := f.pos, posLast := f.pos, arg := lb } (.blk (b.getD none_)) d

/-- Take a fetch out of those outstanding. -/
def Dp.dropFetch (d : Dp) (f : Fetch) : Dp :=
  { d with sh := { d.sh with fetches := d.sh.fetches.filter (fun x => x != f) } }

/-- A unit cannot be had from its holder: the next copy of a mirror, a rebuild by the head (stage 4 of Table 3-8), or a
failure. A holder answers READ_FAIL. -/
def loseUnit (e : Env) (f : Fetch) (d : Dp) : Dp :=
  match f.purpose with
  | .rebuild j => d.onRebuild j (fun j => { j with
      lost := addNew (if j.unit != mirrorCheck then f.unit else if f.rank != noRank then holderTag f.rank f.localBlk
        else ((List.range 64).find? (fun r => !f.tried.contains r)).getD 0) j.lost })
  | .remote r pool lb =>
    send e .readFail 3 { header e d r pool with
      row := f.row, unit := f.unit, posFirst := f.pos, posLast := f.pos, arg := lb } .none d
  | why =>
    match d.sh.reg.pool f.pool with
    | none => d
    | some p =>
      let l := p.layGen f.gen
      let q : Place := ⟨f.row, f.unit, f.pos⟩
      let tried := if f.rank = noRank then f.tried else f.tried ++ [holderTag f.rank f.localBlk]
      if l.isPq f.row then startRebuild f.pool f.gen q why d
      else if f.rank != noRank && (sourceOf e d p l q tried).isSome then
        fetchUnit e f.pool f.gen q why false tried d
      else match why with
        | .cmd k i => cmdLost e k i d
        | .base t u x => baseLost e t u x d
        | _ => d

/-- C8 at the head: GUARD and REF_TAG of a data block. -/
def c8Ok (e : Env) (d : Dp) (x : Fetch) (b : Blk) : Bool :=
  14 ≤ x.unit || tagApp b.tag = noDataApp ||
    (tagGuard b.tag = guard64 b.data && match d.sh.reg.pool x.pool with
      | none => false
      | some p => (tagRef b.tag).toNat = (((p.layGen x.gen).lba ⟨x.row, x.unit, x.pos⟩).getD e.rank) % 2 ^ 32)

/-- A unit that its holder delivers passes C8 (Table 5-6): where it fails, the holder is asked once more, and then it is taken as
lost. `rest` is the state without the fetch. -/
def deliverUnit (e : Env) (f : Fetch) (b : Option Blk) (seqn : Nat) (rest : Dp) : Dp :=
  let remote : Bool := match f.purpose with
    | .remote _ _ _ => true
    | _ => false
  if remote || b.all (c8Ok e rest f) then giveUnit e f b seqn rest
  else
    let d := checkFail e 8 f.rank rest
    if f.again then loseUnit e f d
    else
      let g := { f with again := true, sentAt := e.now, queued := f.rank != e.rank }
      let d := { d with sh := { d.sh with fetches := d.sh.fetches ++ [g] } }
      if f.rank = e.rank then d
      else send e .readRequest 3 { header e d f.rank f.pool with
          row := f.row, unit := f.unit, posFirst := f.pos, posLast := f.pos, arg := readArg f } (.blocks [f.localBlk]) d

/-- The journal sequence of a block's newest committed content. -/
def currentSeq (d : Dp) (pool lb : Nat) : Nat :=
  match newestGreen d pool lb with
  | some g => g.seqn
  | none => entrySeq d pool lb

/-- C7 (Table 5-6): greenware that serves a read has its guard and its reference tag, or the CRC-32C kept with a parity unit. -/
def c7Ok (d : Dp) (f : Fetch) (g : Green) : Bool :=
  greenOk g && (14 ≤ g.unit || (d.sh.reg.pool g.pool).any (fun p =>
    (tagRef g.blk.tag).toNat = (((p.layGen f.gen).lba ⟨f.row, f.unit, f.pos⟩).getD 0) % 2 ^ 32))

/-- The first sense of a read: stage 0 of Table 3-8. -/
def Climb.start : Climb := { stage := 0, entry := 0, tried := [], extra := 0, reads := 0 }

/-- Serve a fetch from this device's own store (R47, R90, R103, R112): greenware through C7, or a read of the die; what the die cannot
give is rebuilt from its die stripe. -/
def serveFetch (e : Env) (f : Fetch) (d : Dp) : Dp :=
  if f.queued then d
  else if f.rank = noRank then loseUnit e f (d.dropFetch f)
  else
    let seqn := currentSeq d f.pool f.localBlk
    let g := { f with queued := true }
    let queued (d : Dp) : Dp := { d with sh := { d.sh with fetches := d.sh.fetches.map (fun x => if x = f then g else x) } }
    match lookup d f.pool f.localBlk with
    | .green x =>
      if c7Ok d f x then deliverUnit e f (some x.blk) seqn (d.dropFetch f)
      else loseUnit e f (loseSherd e x.pool x.localBlk x.seqn (checkFail e 7 e.rank (d.dropFetch f)))
    | .unmapped => giveUnit e f none seqn (d.dropFetch f)
    | .lost => loseUnit e f (d.dropFetch f)
    | .fault => wantSeg d f.pool f.localBlk
    | .medium l =>
      match dieOf d l, d.row l.row with
      | some (c, n), some r =>
        let k : OpKind := .read l.row [l.cw] (.fetch g) Climb.start
        if dieReads d c n then (if hasRoom d c n k then enqueueTask e c n k f.cls f.task (queued d) else d)
        else if stripeClosed r (l.cw / 4) then startStripe l.row l.cw (.fetch g) f.cls f.task (queued d)
        else loseUnit e f (d.dropFetch f)
      | _, _ => loseUnit e f (d.dropFetch f)

/-- Serve every fetch that waits at this device. -/
def serveFetches (e : Env) (d : Dp) : Dp := d.sh.fetches.foldl (fun d f => serveFetch e f d) d

/-- A fetch whose holder has gone silent is not waited for (R579). -/
def dropSilent (e : Env) (d : Dp) : Dp :=
  (d.sh.fetches.filter (fun f => f.queued && f.rank != e.rank && f.rank != noRank && !present e d f.rank)).foldl
    (fun d f => loseUnit e f (d.dropFetch f)) d

/-! ## Repair of a position (Table 6-8) -/

/-- A ticket of this head that no gathered block makes. -/
def ownTicket (pool gen row first last mask flags unit : Nat) (parts : List Part) (base : List UnitBlk) (moves : Bool)
    (d : Dp) : Dp :=
  let t : HTicket :=
    { id := d.sh.nextId, pool := pool, gen := gen, row := row, posFirst := first, posLast := last, dataMask := mask,
      flags := flags, group := 0, groupKey := 0, groupSize := 0, unit := unit, parts := parts, seqn := 0, claim := 0,
      stage := .waiting, want := [], base := base, noBase := [], units := [], refused := [], moves := moves }
  { d with sh := { d.sh with nextId := d.sh.nextId + 1, htickets := d.sh.htickets ++ [t] } }

/-- Rewrite a unit under a REPAIR ticket. -/
def repairUnit (e : Env) (pool gen : Nat) (q : Place) (parts : List Part) (base : List UnitBlk) (d : Dp) : Dp :=
  let mask := if q.unit < 14 then 2 ^ q.unit else 0
  count 6 5 1 (logE e 0x0706 3 srcFirmware [pool, q.row, q.unit]
    (ownTicket pool gen q.row q.pos q.pos mask fRepair q.unit parts base false d))

/-- A position that cannot be located (Table 6-8). -/
def unresolved (e : Env) (pool : Nat) (l : Lay) (row : Nat) (d : Dp) : Dp :=
  let d := logE e 0x0707 5 srcFirmware [pool, row] d
  match l.rowLbas row with
  | some (b, n) => noteLoss e pool b n causeParity d
  | none => d

/-- What the units of a position show (R221, Table 6-8): the units to rewrite, or none where it cannot be located. -/
def judge (l : Lay) (j : Rebuild) : Option (List Nat) :=
  if j.lost != [] then
    match recover (jobData l j) (jobParity j unitP) (jobParity j unitQ) with
    | some _ => some j.lost
    | none => none
  else
    match jobParity j unitP, jobParity j unitQ with
    | some p, some q =>
      match syndrome (filled (jobData l j)) p q with
      | .consistent => some []
      | .pWrong => some [unitP]
      | .qWrong => some [unitQ]
      | .dataWrong u _ => some [u]
      | .unlocatable => none
    | _, _ => some []

/-- A VERIFY has checked a position: repairs are ticketed and counted; an unlocatable one is the command's status. -/
def checked (e : Env) (l : Lay) (j : Rebuild) (k : CmdKey) (i : Nat) (d : Dp) : Dp :=
  match judge l j with
  | some [] => d.onCmd k (fun c => { c with todo := c.todo.filter (· != i) })
  | some us =>
    let d := d.onCmd k (fun c => { c with detail := c.detail + 1, pnr := true })
    us.foldl (fun d u => repairUnit e j.pool j.gen ⟨j.row, u, j.pos⟩ [⟨k, i, u, j.pos⟩] [] d) d
  | none =>
    let at_ := (d.cmd k).elim 0 (fun c => ((l.lba ⟨j.row, 0, j.pos⟩).getD 0) - c.lba)
    let d := if j.lost = [] then unresolved e j.pool l j.row d else d
    d.onCmd k (fun c => { c with
      todo := c.todo.filter (· != i)
      failed := c.failed.or (some (min at_ (c.len - 1), if j.lost = [] then stParity else stMediaError)) })

/-! ## Beachcomber (R220, R221, Table 6-8) -/

/-- A row has been checked at its last position: it counts for the pass, and with the last row of the pool the next pass begins. -/
def patrolled (e : Env) (p : PoolRec) (l : Lay) (row : Nat) (d : Dp) : Dp :=
  let key (r : Nat) : Nat := p.handle * 2 ^ 41 + rowKey l r
  let l' := addNew (key row) d.sh.patrolled
  let d := count 6 4 1 { d with sh := { d.sh with patrolled := l' } }
  let mine (k : Nat) : Bool := k / 2 ^ 41 = p.handle
  if l.rows ≤ (l'.filter (fun k => mine k && k % 2 = l.gen % 2)).length then
    { d with sh := { d.sh with patrolled := l'.filter (fun k => !mine k), passAt := d.sh.passAt.put p.handle e.now } }
  else d

/-- The copies of a mirrored position: the one of the highest journal sequence, on the lowest rank at equal ones, is written over
the others where they differ or cannot be read. -/
def patrolMirror (e : Env) (l : Lay) (j : Rebuild) (d : Dp) : Dp :=
  match leastBy (fun (u : UnitBlk) => (2 ^ 64 - u.seqn) * 64 + u.unit) j.got with
  | none => d
  | some best =>
    if j.lost = [] && j.got.all (fun u => u.blk = best.blk) then d
    else repairUnit e j.pool l.gen ⟨j.row, 0, j.pos⟩ [] [{ best with unit := 0 }] d

/-- A position of a PQ row: what its units show, and the repairs (R221). -/
def patrolPq (e : Env) (l : Lay) (j : Rebuild) (d : Dp) : Dp :=
  match judge l j with
  | some us => us.foldl (fun d u => repairUnit e j.pool l.gen ⟨j.row, u, j.pos⟩ [] [] d) d
  | none => if j.lost = [] then unresolved e j.pool l j.row d else d

/-- Beachcomber has the units of a position. -/
def patrolDone (e : Env) (p : PoolRec) (l : Lay) (j : Rebuild) (d : Dp) : Dp :=
  let d := if j.unit = mirrorCheck then patrolMirror e l j d else patrolPq e l j d
  if j.pos + 1 = l.s then patrolled e p l j.row d else d

/-- Ask for a unit of a job; a mirrored position's copies are asked of each holder. -/
def askUnit (e : Env) (j : Rebuild) (u : Nat) (d : Dp) : Dp :=
  if j.unit = mirrorCheck then
    fetchUnit e j.pool j.gen ⟨j.row, 0, j.pos⟩ (.rebuild j.id) false ((List.range 64).filter (· != u)) d
  else fetchUnit e j.pool j.gen ⟨j.row, u, j.pos⟩ (.rebuild j.id) false [] d

/-- A rebuild job goes on: it asks for units, or ends with the recovered unit or a failure. Where C9 fails, Q takes the
place of P (Table 5-6); stage 5 of Table 3-8 is the failure. -/
def runJob (e : Env) (j : Rebuild) (d : Dp) : Dp :=
  match d.sh.reg.pool j.pool with
  | none => d
  | some p =>
    let l := p.layGen j.gen
    if !jobReady j then d
    else
      let asks := jobAsks l j
      if asks != [] then
        let d := d.onRebuild j.id (fun j => { j with asked := j.asked ++ asks })
        asks.foldl (fun d u => askUnit e j u d) d
      else
        let done := { d with sh := { d.sh with rebuilds := d.sh.rebuilds.filter (fun x => x.id != j.id) } }
        let f : Fetch :=
          { pool := j.pool, gen := j.gen, row := j.row, unit := j.unit, pos := j.pos, rank := noRank, localBlk := 0,
            purpose := j.purpose, sentAt := e.now, queued := true, again := false, tried := [], cls := 1, task := .other }
        let fail (d : Dp) : Dp := match j.purpose with
          | .cmd k i => cmdLost e k i d
          | .base t u x => baseLost e t u x d
          | _ => d
        if j.unit = wholeCheck || j.unit = mirrorCheck then
          match j.purpose with
          | .cmd k i => checked e l j k i done
          | .patrol _ _ _ => patrolDone e p l j done
          | _ => done
        else
          match jobResult l j j.unit with
          | none => fail done
          | some (b, true) => giveUnit e f b 0 (count 5 4 1 done)
          | some (_, false) =>
            let d := checkFail e 9 e.rank d
            if j.lost.contains unitP || j.unit = unitP || (jobUnit j unitP).isNone then
              fail { d with sh := { d.sh with rebuilds := d.sh.rebuilds.filter (fun x => x.id != j.id) } }
            else d.onRebuild j.id (fun j => { j with
              lost := addNew unitP j.lost, got := j.got.filter (fun g => g.unit != unitP) })

/-- Every rebuild job goes on. -/
def runJobs (e : Env) (d : Dp) : Dp := d.sh.rebuilds.foldl (fun d j => runJob e j d) d

end Sys2Proof.Machine
end

