-- ==== Sys2Proof/Machine/Write.lean ====
section
/-! DEFINITION. Write commands at their head: the order among overlapping commands (R352), tickets (R197, R199), grants,
parity and sherds (R194 to R200), outcomes (R202, R255), completion, and one round of a head's work. -/

namespace Sys2Proof.Machine

/-! ## Overlap (R352) -/

/-- Two commands of one port name a common block. -/
def overlaps (a b : Cmd) : Bool :=
  a.key.port = b.key.port && a.pool = b.pool && a.lba < b.lba + b.len && b.lba < a.lba + a.len

/-- Commands of the same port that stand before a command in doorbell order and have read their headers. -/
def earlier (d : Dp) (c : Cmd) : List Cmd :=
  d.vq.cmds.filter (fun x => x.order < c.order && (x.stage = .header || x.stage = .running) && overlaps x c)

/-- A block of an earlier command's range that is still to do there; before its checks, every block of its range. -/
def stillToDo (x : Cmd) (lba : Nat) : Bool :=
  x.lba ≤ lba && lba < x.lba + x.len && (x.stage = .header || x.todo.contains (lba - x.lba))

/-- A read takes the block at an index now: no earlier overlapping write has it to do. -/
def readFree (d : Dp) (c : Cmd) (i : Nat) : Bool :=
  (earlier d c).all (fun x => !isWriteOp x.opcode || !stillToDo x (c.lba + i))

/-- Blocks of a command that stand in a gather or a ticket. -/
def ticketed (d : Dp) (k : CmdKey) : List Nat :=
  (d.sh.gathers.flatMap Gather.parts ++ d.sh.htickets.flatMap HTicket.parts).filterMap
    (fun x => if x.key = k then some x.idx else none)

/-- A block of an earlier write has had its ticket requested, or is done. -/
def requestedBlk (d : Dp) (x : Cmd) (lba : Nat) : Bool :=
  !stillToDo x lba ||
  d.sh.htickets.any (fun t => t.stage != .waiting && t.parts.any (fun q => q.key = x.key && q.idx = lba - x.lba))

/-- A write may gather the block at an index: earlier overlapping writes have requested theirs, earlier overlapping reads
hold theirs. -/
def writeFree (d : Dp) (c : Cmd) (i : Nat) : Bool :=
  (earlier d c).all (fun x =>
    if isWriteOp x.opcode then requestedBlk d x (c.lba + i) else !stillToDo x (c.lba + i))

/-! ## Tickets (R197) -/

/-- Columns of IUs, with the data units to write in each, joined while the units are the same: mask, first and last column. -/
def joinCols : List (Nat × Nat) → List (Nat × Nat × Nat)
  | [] => []
  | (m, c) :: t => match joinCols t with
    | (m', a, b) :: r => if m = m' ∧ c + 1 = a then (m, c, b) :: r else (m, c, c) :: (m', a, b) :: r
    | [] => [(m, c, c)]

/-- The rectangles a row's gathered blocks divide into: data mask, first and last position (R197). Each is of whole IUs, since an IU that
is written in part is built and programmed whole (R46); no two of them share a position (DEDUCED: notes/assumptions/36.md). -/
def rects (iu : Nat) (parts : List Part) : List (Nat × Nat × Nat) :=
  let n := iuBlocks iu
  let cols := ((parts.map (fun x => x.pos / n)).eraseDups).mergeSort (· ≤ ·)
  (joinCols (cols.map (fun c =>
    (listMask ((List.range 14).filter (fun u => parts.any (fun x => x.unit = u && x.pos / n = c))), c)))).map
    (fun r => (r.1, r.2.1 * n, r.2.2 * n + n - 1))

/-- Tickets for a row's blocks. -/
def makeTickets (pool gen row flags key size : Nat) (parts : List Part) (d : Dp) : Dp :=
  (rects (iuOf d pool) parts).foldl (fun d r =>
    let mine := parts.filter (fun x => r.1.testBit x.unit && r.2.1 ≤ x.pos && x.pos ≤ r.2.2)
    let d := ownTicket pool gen row r.2.1 r.2.2 r.1 flags 0 mine [] false d
    d.onHticket (d.sh.nextId - 1) (fun t => { t with groupKey := key, groupSize := size })) d

/-- The parts of a command's blocks, with the layout generation and row of each. -/
def partsOf (p : PoolRec) (c : Cmd) (idx : List Nat) : List (Nat × Nat × Part) :=
  idx.filterMap (fun i =>
    let l := p.layOf (c.lba + i)
    (l.place (c.lba + i)).map (fun q => (l.gen, q.row, ⟨c.key, i, q.unit, q.pos⟩)))

/-- The rows of a list of parts, in order of first appearance. -/
def rowsOf (l : List (Nat × Nat × Part)) : List (Nat × Nat) := (l.map (fun x => (x.1, x.2.1))).eraseDups

/-- Flags of a command's tickets. -/
def cmdFlags (op : Nat) : Nat :=
  if op = opWriteAtomic then fGrouped else if op = opDiscard ∨ op = opSecureDiscard then fDiscard else 0

/-- A plain WRITE's blocks join the gathers of their rows; other commands ask for their tickets at once. -/
def gatherParts (e : Env) (c : Cmd) (parts : List (Nat × Nat × Part)) (d : Dp) : Dp :=
  if c.opcode = opWrite then
    parts.foldl (fun d x =>
      let same (g : Gather) : Bool := g.pool = c.pool && g.gen = x.1 && g.row = x.2.1
      { d with sh := { d.sh with
          gathers := if d.sh.gathers.any same then
              updateWhere same (fun (g : Gather) => { g with parts := g.parts ++ [x.2.2] }) d.sh.gathers
            else d.sh.gathers ++ [⟨c.pool, x.1, x.2.1, e.now, [x.2.2]⟩] } }) d
  else
    let rows := rowsOf parts
    let ofRow (r : Nat × Nat) := (parts.filter (fun x => (x.1, x.2.1) = r)).map (fun x => x.2.2)
    let size := rows.foldl (fun n r => n + (rects (iuOf d c.pool) (ofRow r)).length) 0
    rows.foldl (fun d r => makeTickets c.pool r.1 r.2 (cmdFlags c.opcode) c.order size (ofRow r) d) d

/-- Every page of a write's data and metadata is translated before its first ticket (R320). -/
def writePages (e : Env) (c : Cmd) (d : Dp) : Dp × Bool :=
  if isDataOp c.opcode && !c.staged && !c.asking && !c.orphan then
    translate e c.key false (pagesFrom c.elems 0 ++ pagesFrom c.metas 0) d
  else (d, true)

/-- Blocks of a running write that hold no ticket are gathered, when the order of R352 allows. A WRITE_ATOMIC and a
discard ask for the tickets of all their blocks together. -/
def gatherCmd (e : Env) (k : CmdKey) (d : Dp) : Dp :=
  match d.cmd k with
  | none => d
  | some c =>
    if c.stage = .running && isWriteOp c.opcode && c.failed.isNone then
      match d.sh.reg.pool c.pool with
      | none => d
      | some p =>
        let have_ := ticketed d k
        let miss := c.todo.filter (fun i => !have_.contains i)
        if miss.isEmpty then d
        else
          let t := writePages e c d
          if !t.2 then t.1
          else
            let ready := miss.filter (writeFree t.1 c)
            if c.opcode = opWrite then gatherParts e c (partsOf p c ready) t.1
            else if ready = miss && have_.isEmpty then gatherParts e c (partsOf p c miss) t.1
            else t.1
    else d

/-- A gather asks for its tickets. -/
def closeGather (g : Gather) (d : Dp) : Dp :=
  makeTickets g.pool g.gen g.row 0 0 0 g.parts { d with sh := { d.sh with
      gathers := d.sh.gathers.filter (fun x => x != g) } }

/-- With ROW_GATHER 0 a gather waits for nothing. -/
def gatherNow (e : Env) (d : Dp) : Dp :=
  if e.param d 0x0602 = 0 then d.sh.gathers.foldl (fun d g => closeGather g d) d else d

/-- The blocks that a ticket's commands write: bit unit × 256 + position. -/
def HTicket.cover (t : HTicket) : Nat := t.parts.foldl (fun n x => n ||| 2 ^ (x.unit * 256 + x.pos)) 0

/-- ARG of a ticket request: the head's number of it, and its layout generation. -/
def requestArg (t : HTicket) : Nat := t.id % 2 ^ 32 + t.gen % 2 ^ 16 * 2 ^ 32

/-- A ticket is asked for at the pool's steward (Table 6-2 step 1); with none, or before
its JOIN is admitted (R533), it waits (R255, R256). Its commands pass their point of no return (Table 10-3). -/
def requestTicket (e : Env) (t : HTicket) (d : Dp) : Dp :=
  if (t.stage != .waiting && t.stage != .requested) || !admitted d t.pool then d
  else
    match stewardOf e d t.pool with
    | none =>
      if (d.sh.noSteward.find t.pool).isSome || !e.settled then d
      else { d with sh := { d.sh with noSteward := d.sh.noSteward.put t.pool e.now } }
    | some r =>
      if t.stage = .requested then d
      else
      let d := { d with sh := { d.sh with noSteward := Tab.erase d.sh.noSteward t.pool } }
      let d := d.onHticket t.id (fun t => { t with stage := .requested, claim := d.claimOf t.pool })
      let d := t.parts.foldl (fun d x => d.onCmd x.key (fun c => { c with pnr := true })) d
      send e .ticketRequest 3 { header e d r t.pool with
        row := t.row, posFirst := t.posFirst, posLast := t.posLast, unit := t.unit, arg := requestArg t }
        (.ticket t.dataMask t.flags t.groupKey t.groupSize t.cover) d

/-- A ticket is to be asked for again: what it has read of its own accord goes, but the content of a repair. -/
def waitAgain (id : Nat) (d : Dp) : Dp :=
  let mine (why : Purpose) : Bool := match why with
    | .base t _ _ => t = id
    | _ => false
  let d := d.onHticket id (fun t => { t with
    stage := .waiting, seqn := 0, claim := 0, group := 0, want := [], noBase := [], units := [], refused := [],
    base := if hasFlag t.flags fRepair then t.base else [] })
  { d with sh := { d.sh with
      fetches := d.sh.fetches.filter (fun f => !mine f.purpose)
      rebuilds := d.sh.rebuilds.filter (fun j => !mine j.purpose) } }

/-- Tickets asked for or granted under a claim that has been passed, and not sent, are asked for again (R251, R255). -/
def askAgain (d : Dp) : Dp :=
  (d.sh.htickets.filter (fun t => (t.stage = .requested || t.stage = .granted) && t.claim < d.claimOf t.pool)).foldl
    (fun d t => waitAgain t.id d) d

/-- Every ticket of this head that waits is asked for; a device that is steward no longer moves no window (R218). -/
def requestTickets (e : Env) (d : Dp) : Dp :=
  let d := (d.sh.htickets.filter (fun t => t.moves && !isSteward d t.pool)).foldl (fun d t => d.dropHticket t.id) (askAgain d)
  d.sh.htickets.foldl (fun d t => requestTicket e t d) d

/-- A granted ticket (Table 6-2 step 3): its commands fetch their data and its base is read. -/
def grantTicket (e : Env) (id seqn group : Nat) (claim : BitVec 32) (d : Dp) : Dp :=
  match d.hticket id with
  | none => d
  | some t =>
    if t.stage = .requested then
      let d := d.onHticket id (fun t => { t with stage := .granted, seqn := seqn, group := group, claim := claim })
      let d := (t.parts.map Part.key).eraseDups.foldl (fun d k => d.onCmd k (fun c =>
        if isDataOp c.opcode then { c with asking := true } else { c with staged := true })) d
      match d.sh.reg.pool t.pool with
      | none => d
      | some p =>
        let l := p.layGen t.gen
        let ws := ticketWants p l t
        let d := d.onHticket id (fun t => { t with want := ws })
        ws.foldl (fun d w => wantUnit e p l t w d) d
    else if t.stage = .dropping then
      askDrop e { t with seqn := seqn, claim := claim } (d.onHticket id (fun t => { t with seqn := seqn, claim := claim }))
    else d

/-! ## Parity and sherds (R194 to R200) -/

/-- A base unit of a ticket. -/
def HTicket.baseOf (t : HTicket) (u x : Nat) : Option UnitBlk := t.base.find? (fun b => b.unit = u && b.pos = x)

/-- The new block of a unit and position: the command's block, none where it discards it, and the merge base's where no command writes it
(R46, R47). -/
def newBlk (d : Dp) (t : HTicket) (u x : Nat) : Option Blk :=
  match t.parts.find? (fun q => q.unit = u && q.pos = x) with
  | none => (t.baseOf u x).bind UnitBlk.blk
  | some q => if hasFlag t.flags fDiscard then none else ((d.cmd q.key).bind (fun c => c.got.find q.idx)).getD none

/-- New P or Q of a position: from the old parity and the old and new units, or from every data unit. Where no parity base can be read the
spec states no parity, and it is a free value (R48; notes/assumptions/36.md). -/
def newParity (d : Dp) (l : Lay) (t : HTicket) (x pu : Nat) : Option Blk :=
  let unitOf (u : Nat) : List Byte :=
    if t.dataMask.testBit u && !t.moves then dataUnit (newBlk d t u x) else dataUnit ((t.baseOf u x).bind UnitBlk.blk)
  if t.noBase.contains x then some (parityBlk (Config.lostParity t.seqn (x * 16 + pu)))
  else match t.baseOf pu x with
  | some old =>
    let diff := t.mask.map (fun u =>
      let z := xorBytes (dataUnit (newBlk d t u x)) (dataUnit ((t.baseOf u x).bind UnitBlk.blk))
      if pu = unitP then z else gfScale (gfGen u) z)
    let v := diff.foldl xorBytes (parityUnit old.blk)
    some (parityBlk v)
  | none => parityOf pu ((l.dataUnits t.row).map unitOf)

/-- The sherd units a ticket sends, unit by unit in order of position. -/
def ticketUnits (d : Dp) (l : Lay) (t : HTicket) : List UnitBlk :=
  let us := unitsWritten l t.row t.flags t.dataMask t.unit
  us.flatMap (fun u => t.positions.map (fun x =>
    let b : Option Blk :=
      if hasFlag t.flags fRepair || hasFlag t.flags fResync then (t.baseOf u x).bind UnitBlk.blk
      else if u < 14 then (if t.moves then (t.baseOf u x).bind UnitBlk.blk else newBlk d t u x)
      else newParity d l t x u
    ⟨u, x, b, 0⟩))

/-- A block as a sherd frame carries it; an UNMAPPED data block carries the tag of R44 for its LBA. -/
def wireBlk (l : Lay) (t : HTicket) (u : UnitBlk) : Blk :=
  if u.unit < 14 then
    let lba := (l.lba ⟨t.row, u.unit, u.pos⟩).getD 0
    match u.blk with
    | none => unmappedBlk lba
    | some b => ⟨b.data, mkTag (tagApp b.tag) (BitVec.ofNat 32 lba) (tagGuard b.tag)⟩
  else u.blk.getD unmappedParity

/-- Traffic class of a ticket's sherds (R276). -/
def ticketClass (t : HTicket) : Nat :=
  if t.moves || hasFlag t.flags fRepair || hasFlag t.flags fResync || hasFlag t.flags fReparity then 4 else 3

/-- Send one sherd unit to a member, with the ticket's row, sequence and claim (Table 6-2 step 4, Table 8-5). -/
def sendSherd (e : Env) (l : Lay) (t : HTicket) (rank : Nat) (u : UnitBlk) (d : Dp) : Dp :=
  send e .sherdData (ticketClass t) { header e d rank t.pool with
    claim := t.claim, seqn := t.seqn, row := t.row, posFirst := u.pos, posLast := t.posLast, unit := u.unit,
    arg := t.group % 2 ^ 32 * 2 ^ 32 + t.flags % 256 * 2 ^ 16 + t.dataMask % 2 ^ 16 } (.blk (wireBlk l t u)) d

/-- Ranks a unit of a ticket is sent to: its present holders; a resync writes this device alone. -/
def sherdRanks (e : Env) (d : Dp) (l : Lay) (t : HTicket) (u : UnitBlk) : List Nat :=
  ((l.holders ⟨t.row, u.unit, u.pos⟩).map Prod.fst).eraseDups.filter (fun r =>
    takes e d t.pool r && (!hasFlag t.flags fResync || r = e.rank))

/-- Everything a ticket needs is in hand: the data of its commands, checked under R166, and its base. -/
def ticketReady (d : Dp) (t : HTicket) : Bool :=
  t.parts.all (fun x => (d.cmd x.key).any (fun c => c.staged || c.opcode = opVerify)) &&
  t.want.all (fun w => (t.baseOf w.1 w.2).isSome)

/-- The blocks of a ticket that fail C2 as they enter the P and Q computation: their guard does not hold. -/
def c2Bad (d : Dp) (l : Lay) (t : HTicket) : List Part :=
  if !l.isPq t.row then []
  else t.parts.filter (fun q => (((d.cmd q.key).bind (fun c => c.got.find q.idx)).getD none).any
    (fun b => tagGuard b.tag != guard64 b.data))

/-- A block fails C2 (Table 5-6): it is fetched from host memory once more; when it fails again, its command fails with DATA_PATH_ERROR. -/
def failC2 (e : Env) (q : Part) (d : Dp) : Dp :=
  match d.cmd q.key with
  | none => d
  | some c =>
    let d := checkFail e 2 e.rank d
    if c.again.contains q.idx then failCmd e q.key stDataPath q.idx d
    else refetch q.key q.idx (d.onCmd q.key (fun c => { c with again := q.idx :: c.again }))

/-- A granted ticket whose data and base are in hand sends its sherds, where C2 holds; a claim that has been passed sends none (R251). -/
def sendTicket (e : Env) (id : Nat) (d : Dp) : Dp :=
  match d.hticket id with
  | none => d
  | some t =>
    let bad := ((d.sh.reg.pool t.pool).map (fun p => c2Bad d (p.layGen t.gen) t)).getD []
    if t.stage != .granted || !ticketReady d t || t.claim < d.claimOf t.pool then d
    else if !bad.isEmpty then bad.foldl (fun d q => failC2 e q d) d
    else
      match d.sh.reg.pool t.pool with
      | none => d
      | some p =>
        let l := p.layGen t.gen
        let us := ticketUnits d l t
        let d := d.onHticket id (fun t => { t with stage := .sent, units := us })
        us.foldl (fun d u => (sherdRanks e d l t u).foldl (fun d r => sendSherd e l t r u d) d) d

/-- Granted tickets fetch their commands' data, and send what is ready. -/
def sendTickets (e : Env) (d : Dp) : Dp :=
  let d := (d.vq.cmds.map Cmd.key).foldl (fun d k => askData e k d) d
  (d.sh.htickets.map HTicket.id).foldl (fun d id => sendTicket e id d) d

/-- The data and metadata of a write have arrived, or of a block fetched once more: C1, and the blocks stand in staging (R165, R166). -/
def landData (e : Env) (k : CmdKey) (d : Dp) : Dp :=
  match d.cmd k with
  | none => d
  | some c =>
    if !c.asking || c.staged then d
    else match redoing c with
    | some i =>
      if arrivedBytes c.chunks = 4096 && arrivedBytes c.metaChunks = (if c.tags then 16 else 0) then
        let one : Cmd := { c with lba := c.lba + i, len := 1 }
        let bs := stageBlks one (assemble c.chunks) (assemble c.metaChunks)
        match c1First c.tags (c.lba + i) bs 0 with
        | some (_, st) => failCmd e k st i (checkFail e 1 e.rank d)
        | none => d.onCmd k (fun c => startRedo { c with redo := c.redo.drop 1, got := c.got.put i bs.head? })
      else d
    | none =>
      if arrivedBytes c.chunks = dataBytes c && arrivedBytes c.metaChunks = metaBytes c then
        let bs := stageBlks c (assemble c.chunks) (assemble c.metaChunks)
        match c1First c.tags c.lba bs 0 with
        | some (i, st) => failCmd e k st i (checkFail e 1 e.rank d)
        | none => d.onCmd k (fun c => startRedo { c with got := bs.mapIdx (fun i b => (i, some b)) })
      else d

/-! ## Outcomes (R202, R255) -/

/-- A ticket of this head by its journal sequence. -/
def headTicket (d : Dp) (pool seqn : Nat) : Option HTicket :=
  d.sh.htickets.find? (fun t => t.pool = pool && t.seqn = seqn && seqn != 0)

/-- A block of a command is done, unless another ticket still writes for it. -/
def blkDone (x : Part) (d : Dp) : Dp :=
  if d.sh.htickets.any (fun t => t.parts.any (fun y => y.key = x.key && y.idx = x.idx)) then d
  else d.onCmd x.key (fun c => { c with todo := c.todo.filter (· != x.idx) })

/-- A ticket of this head has committed: its blocks are done. Of the several tickets of one SECURE_DISCARD the job takes the largest journal
sequence as its S (DESIGN CHOICE: Table 2-5 speaks of one; notes/assumptions/35.md). -/
def commitHead (pool seqn : Nat) (d : Dp) : Dp :=
  match headTicket d pool seqn with
  | none => d
  | some t =>
    let d := (t.parts.map Part.key).foldl (fun d k => d.onCmd k (fun c =>
      if c.opcode = opSecureDiscard then { c with detail := max c.detail seqn } else c)) d
    let d := match d.sh.reg.pool pool with
      | some p => if hasFlag t.flags fResync then
          let l := p.layGen t.gen
          { d with sh := { d.sh with resyncing := d.sh.resyncing.map (fun (g : Nat × Nat × List Nat) =>
            if g.1 = pool && (p.rowRegions l t.row).contains g.2.1 then (g.1, g.2.1, addNew (rowKey l t.row) g.2.2)
            else g) } }
        else d
      | none => d
    t.parts.foldl (fun d x => blkDone x d) (d.dropHticket t.id)

/-- A ticket of this head is dropped: in a READ_ONLY pool its commands complete with POOL_READ_ONLY, otherwise its blocks
take a new ticket (R202). A VERIFY's repair that the steward dropped is not needed (R221). -/
def dropHead (e : Env) (pool seqn : Nat) (d : Dp) : Dp :=
  match headTicket d pool seqn with
  | none => d
  | some t =>
    if (hasFlag t.flags fReparity || t.moves) && t.stage != .dropping then waitAgain t.id d
    else
    let d := d.dropHticket t.id
    let keys := (t.parts.map Part.key).eraseDups
    if hasFlag t.flags fRepair then
      t.parts.foldl (fun d x => blkDone x d) d
    else if (d.sh.reg.pool pool).any (fun p => readOnly e d p) then
      keys.foldl (fun d k => failCmd e k stPoolReadOnly 0 d) d
    else d

/-! ## Reads -/

/-- Row positions a VERIFY with VERIFY_PARITY checks: every position of every PQ row its range touches. -/
def checkPlaces (p : PoolRec) (c : Cmd) : List (Nat × Place) :=
  let rows := ((List.range c.len).filterMap (fun i =>
    let l := p.layOf (c.lba + i)
    (l.place (c.lba + i)).map (fun q => (l.gen, q.row)))).eraseDups
  rows.flatMap (fun r =>
    let l := p.layGen r.1
    if l.isPq r.2 then (List.range l.s).map (fun x => (r.1, ⟨r.2, wholeCheck, x⟩)) else [])

/-- A WRITE_ATOMIC's ticket on a row has committed: a READ of this head that overlaps the row and has given the host nothing yet is to
read all of its blocks after it (R51). -/
def readAfresh (pool row : Nat) (d : Dp) : Dp :=
  match d.sh.reg.pool pool with
  | none => d
  | some p =>
    let spans := [p.layoutGen, p.layoutGen + 1].filterMap (fun g => (p.layGen g).rowLbas row)
    let hit (c : Cmd) : Bool := c.opcode = opRead && c.pool = pool && c.stage = .running && c.moved = 0 && c.movedMeta = 0 &&
      spans.any (fun x => x.1 < c.lba + c.len && c.lba < x.1 + x.2)
    { d with vq := { d.vq with cmds := updateWhere hit (fun c => { c with afresh := true }) d.vq.cmds } }

/-- A unit of a command is being fetched or rebuilt. -/
def cmdUnderWay (d : Dp) (k : CmdKey) : Bool :=
  let mine (why : Purpose) : Bool := match why with
    | .cmd j _ => j = k
    | _ => false
  d.sh.fetches.any (fun f => mine f.purpose) || d.sh.rebuilds.any (fun r => mine r.purpose)

/-- A READ that is to read all again begins once nothing it has asked for is under way. -/
def beginAfresh (k : CmdKey) (d : Dp) : Dp :=
  if (d.cmd k).any (fun c => c.afresh) && !cmdUnderWay d k then
    d.onCmd k (fun c => { c with afresh := false, todo := List.range c.len, got := [], failed := none })
  else d

/-- A running READ or VERIFY asks for the blocks it may take now. A VERIFY with VERIFY_PARITY checks its positions once its
blocks are read. -/
def readCmd (e : Env) (k : CmdKey) (d : Dp) : Dp :=
  let d := beginAfresh k d
  match d.cmd k with
  | none => d
  | some c =>
    if c.stage = .running && (c.opcode = opRead || c.opcode = opVerify) && !c.afresh then
      match d.sh.reg.pool c.pool with
      | none => d
      | some p =>
        let d := (c.todo.filter (· < c.len)).foldl (fun d i =>
          if underWay d (.cmd k i) || !readFree d c i then d
          else
            let l := p.layOf (c.lba + i)
            match l.place (c.lba + i) with
            | none => d
            | some q => fetchUnit e c.pool l.gen q (.cmd k i) false [] d) d
        if c.opcode = opVerify && dParity c.desc && c.todo.all (fun i => c.len ≤ i) then
          let places := checkPlaces p c
          let busy := d.sh.htickets.flatMap HTicket.parts
          let d := if c.staged then d else d.onCmd k (fun c => { c with
            staged := true, todo := c.todo ++ (List.range places.length).map (fun j => c.len + j) })
          (((d.cmd k).elim [] Cmd.todo)).foldl (fun d i =>
            if underWay d (.cmd k i) || busy.any (fun x => x.key = k && x.idx = i) then d
            else match places[i - c.len]? with
              | none => d
              | some (gen, q) => startRebuild c.pool gen q (.cmd k i) d) d
        else d
    else d

/-- The first `n` blocks of a READ stand in the completion buffer: all of them, or those before the first failing one. -/
def readUpTo (c : Cmd) : Option Nat :=
  match c.failed with
  | some (i, _) => if c.todo.all (fun j => i ≤ j) then some i else none
  | none => if c.todo.isEmpty then some c.len else none

/-- A command whose work is done completes (Table 10-6); a READ writes its data first. -/
def finishCmd (e : Env) (sd : Cmd → Dp → Dp) (k : CmdKey) (d : Dp) : Dp :=
  match d.cmd k with
  | none => d
  | some c =>
    if c.stage != .running || c.afresh then d
    else if c.opcode = opRead then
      match readUpTo c with
      | none => d
      | some n =>
        let t := transfer e k n d
        if !t.2 then t.1
        else match c.failed with
          | some (i, st) => complete e k st i (c.lba + i) t.1
          | none => complete e k stSuccess 0 0 t.1
    else if c.opcode = opVerify then
      if !c.todo.isEmpty || (dParity c.desc && !c.staged) then d
      else match c.failed with
        | some (i, st) => complete e k st i (c.lba + i) d
        | none => complete e k stSuccess c.detail 0 d
    else if isWriteOp c.opcode && c.checked && c.todo.isEmpty then
      if c.opcode = opSecureDiscard then
        (if c.asking then complete e k stSuccess c.detail 0 d else sd c d)
      else complete e k stSuccess 0 0 d
    else d

/-! ## One round of a head's work -/

/-- Every command in doorbell order. -/
def inOrder (d : Dp) : List CmdKey := (d.vq.cmds.mergeSort (fun a b => a.order ≤ b.order)).map Cmd.key

/-- One round: headers, units and jobs, gathers, requests, reads, sherds, completions. -/
def headRound (e : Env) (sd : Cmd → Dp → Dp) (d : Dp) : Dp :=
  let d := startHeaders e d
  let d := dropSilent e d
  let d := runJobs e (serveFetches e d)
  let keys := inOrder d
  let d := keys.foldl (fun d k => readCmd e k (gatherCmd e k d)) d
  let d := sendTickets e (requestTickets e (gatherNow e d))
  keys.foldl (fun d k => finishCmd e sd k d) d

/-- How many rounds a head's work takes at most to settle after one command: a block is asked for, lost, rebuilt, written,
and its command completes. -/
def headRounds : Nat := 12

/-- A head's work. -/
def headWork (e : Env) (sd : Cmd → Dp → Dp) (d : Dp) : Dp :=
  settleEngine e ((List.range headRounds).foldl (fun d _ => headRound e sd d) d)

end Sys2Proof.Machine
end

