-- ==== Sys2Proof/Machine/Roles.lean ====
section
/-! DEFINITION. Steward roles: claim-lane frames (R238, R239), publishing claims (R229, R243), taking a role and resolving
its tickets (R209, R254), standbys (R226, R227), handovers (R246, R257 to R259), relinquishing (R245) and drills (R261). -/

namespace Sys2Proof.Machine

/-! ## Claim-lane frames (Table 7-3) -/

/-- CRC8 of the 40 bits of POOL and CLAIM, most significant bit first. -/
def laneCrc (v : BitVec 40) : BitVec 8 :=
  (List.range 40).foldl (fun c i => crc8Bit c (v.getLsbD (39 - i))) 0

/-- A claim-lane frame. -/
def laneFrame (pool : Nat) (c : BitVec 32) : BitVec 49 :=
  let v : BitVec 40 := BitVec.ofNat 8 pool ++ c
  (1#1 ++ v) ++ laneCrc v

/-- Fields of a claim-lane frame, and whether START and CRC8 are good. -/
def lanePool (b : BitVec 49) : Nat := bitsOf b.toNat 47 40
def laneClaim (b : BitVec 49) : BitVec 32 := b.extractLsb' 8 32
def laneGood (b : BitVec 49) : Bool := b.getLsbD 48 && laneCrc (b.extractLsb' 8 40) = b.extractLsb' 0 8

/-- Queue a frame for the lane: frames wait in descending order of POOL, one for each pool (R239). -/
def laneQueue (b : BitVec 49) (d : Dp) : Dp :=
  let l := (d.lane.tx.filter (fun x => lanePool x != lanePool b || epochOf (laneClaim x) = 0)) ++ [b]
  { d with lane := { d.lane with tx := l.mergeSort (fun x y => lanePool y ≤ lanePool x) } }

/-! ## Succession (R225) and quorum (R242) -/

/-- Ranks of the registry membership, ascending. -/
def memberRanks (g : Registry) : List Nat := (List.range 16).filter (fun r => g.members.any (fun m => m.rank = r))

/-- A pool's succession list. -/
def succession (g : Registry) (p : PoolRec) : List Nat :=
  (p.lastSteward :: (p.lastStandby.toList ++ [p.prefSteward] ++ p.prefStandby.toList ++ memberRanks g)).eraseDups

/-- This device's position: ranks ahead of it that are neither silent nor out of the ring. -/
def position (e : Env) (d : Dp) (p : PoolRec) : Nat :=
  (((succession d.sh.reg p).takeWhile (fun r => r != e.rank)).filter (fun r => present e d r)).length

/-- Heartbeats of a strict majority of the membership are heard, this device included. -/
def quorum (e : Env) (d : Dp) : Bool :=
  (memberRanks d.sh.reg).length < 2 * ((memberRanks d.sh.reg).filter (fun r => present e d r)).length

/-! ## Publishing and taking a role -/

/-- The claim this device would form for a handle (R229), unless epochs are exhausted (R230). -/
def formClaim (e : Env) (d : Dp) (pool : Nat) : Option (BitVec 32) :=
  if epochMax ≤ epochOf (d.claimOf pool) then none else some (mkClaim (epochOf (d.claimOf pool) + 1) e.rank)

/-- What a member reports of a pool's pending sherds (R209): for each sequence its row, positions and units held whole; what
has come back at a restart waits for its outcome (R514). -/
def pendingItems (d : Dp) (pool : Nat) : List ResolveItem :=
  let gs := d.map.green.filter (fun g => g.pool = pool && !g.committed && g.full && !g.empty && !g.replayed)
  ((gs.map Green.seqn).eraseDups).filterMap (fun q =>
    match gs.filter (fun g => g.seqn = q) with
    | [] => none
    | g :: t =>
      let all := g :: t
      some { seqn := q, row := g.row, posFirst := all.foldl (fun n x => min n x.pos) g.pos, posLast := g.posLast,
             units := listMask ((all.map Green.unit).eraseDups), dataMask := g.dataMask, flags := g.flags,
             group := g.group })

/-- COMMIT notices of a pool that this member holds. -/
def heldCommits (d : Dp) (pool : Nat) : List Nat := (d.map.commits.filter (fun c => c.1 = pool)).map Prod.snd

/-- Records of a type in a journal copy. -/
def recsOf (l : List JRec) (t : RecType) : List JRec := l.filter (fun r => r.type = t)

/-- A sequence of a journal copy has an outcome. -/
def hasOutcome (l : List JRec) (q : Nat) : Bool := l.any (fun r => r.seqn = q && (r.type = .commit || r.type = .drop))

/-- A ticket as an INTENT record gives it. -/
def ofIntent (r : JRec) : STicket :=
  { pool := r.pool, seqn := r.seqn, row := r.row, posFirst := r.posFirst, posLast := r.posLast, dataMask := r.dataMask,
    flags := r.flags, group := r.group, groupKey := r.group, groupSize := 0, unit := 0, cover := 0, head := r.head, reqId := 0,
    writers := r.present, done := 0, missing := 0, durable := true, granted := true, grantedAt := 0, closed := false }

/-- A ticket as a member's report gives it (R254); its writers are the data units of DATA_MASK with P and Q. -/
def ofItem (d : Dp) (pool : Nat) (i : ResolveItem) : STicket :=
  let l := ((d.sh.reg.pool pool).map (fun p => d.ticketLay p i.seqn)).getD ⟨1, [], 0⟩
  let ranks := ((rowUnits l i.row).filter (fun x => 14 ≤ x.1 || i.dataMask.testBit x.1)).map Prod.snd
  { pool := pool, seqn := i.seqn, row := i.row, posFirst := i.posFirst, posLast := i.posLast, dataMask := i.dataMask,
    flags := i.flags, group := i.group, groupKey := i.group, groupSize := 0, unit := 0, cover := 0, head := noHead, reqId := 0,
    writers := listMask ranks.eraseDups, done := 0, missing := 0, durable := true, granted := true, grantedAt := 0,
    closed := false }

/-- The open tickets a new steward knows: INTENT records without an outcome, and reported sequences without an INTENT
record; the ranks that report all units they write are counted done. -/
def knownTickets (d : Dp) (x : PRole) (items : List (Nat × ResolveItem)) (commits : List Nat) : List STicket :=
  let own := (recsOf x.journal .intent).filter (fun r => !hasOutcome x.journal r.seqn)
  let fresh := ((items.map (fun i => i.2.seqn)).eraseDups.filter (fun q =>
    !own.any (fun r => r.seqn = q) && !hasOutcome x.journal q)).filterMap (fun q =>
      (items.find? (fun i => i.2.seqn = q)).map (fun i => ofItem d x.pool i.2))
  let all := own.map ofIntent ++ fresh
  let done (t : STicket) : Nat := listMask ((items.filter (fun i => i.2.seqn = t.seqn)).map Prod.fst).eraseDups
  (all.map (fun (t : STicket) => { t with done := done t, missing := 65535, grantedAt := commits.length })).mergeSort
    (fun a b => a.seqn ≤ b.seqn)

/-- Tickets of one WRITE_ATOMIC group, as records give it. -/
def oneGroup (a b : STicket) : Bool := hasFlag a.flags fGrouped && hasFlag b.flags fGrouped && a.group = b.group

/-- A ticket rolls forward (R208, R254): a member holds its COMMIT notice or the floor holds; a group, where a member
holds a COMMIT notice of any of its tickets or the journal copy holds its close. Where steward and standby have restarted together,
the floor does not count (R208, last row). -/
def rollsForward (e : Env) (d : Dp) (p : PoolRec) (x : PRole) (all : List STicket) (commits : List Nat) (t : STicket) :
    Bool :=
  if hasFlag t.flags fGrouped then
    all.any (fun u => oneGroup u t && commits.contains u.seqn) ||
      (recsOf x.journal .commit).any (fun r => hasFlag r.flags fGrouped && hasFlag r.flags fClose && r.group = t.group) ||
      commits.any (fun q => (recsOf x.journal .intent).any (fun r =>
        r.seqn = q && hasFlag r.flags fGrouped && r.group = t.group))
  else commits.contains t.seqn || (!x.restored && floorOk e d p t)

/-- The whole resolution (R209, R254): every known open ticket commits or drops with reason 4, outcomes already in the
journal copy are told again, and grants start; requests held are taken up by their heads' requests (R255). -/
def finishResolve (e : Env) (pool : Nat) (d : Dp) : Dp :=
  let x := d.roleD pool
  match x.resolving, d.sh.reg.pool pool with
  | some v, some p =>
    let all := knownTickets d x v.items v.commits
    let told := (x.journal.filter (fun r => (r.type = .commit || r.type = .drop) &&
      v.items.any (fun i => i.2.seqn = r.seqn)))
    let d := { d with sh := { d.sh with
        stickets := d.sh.stickets.filter (fun t => t.pool != pool) ++ all } }
    let d := told.foldl (fun d r =>
      if r.type = .commit then
        sendEach e .commitNotice (noticeRanks e d r) (commitFrame e d r) (.registry none) d
      else sendEach e .dropNotice (noticeRanks e d r) (fun k => { ticketFrame e d k r with arg := r.arg }) .none d) d
    let last (t : STicket) : Bool := hasFlag t.flags fGrouped && all.all (fun u => !oneGroup u t || u.seqn ≤ t.seqn)
    let d := all.foldl (fun d t =>
      if rollsForward e d p x all v.commits t then commitTicket e p (last t) t d else dropTicket e 4 t d) d
    let d := settleReplayed e pool (commitSeqs d pool e.rank) d
    d.setRole { d.roleD pool with resolving := none, stopped := false, restored := false }
  | _, _ => d.setRole { x with resolving := none, stopped := false, restored := false }

/-- The registry pool's new steward starts every lease's term again (R398), repeats the reparity of secure-discard jobs (R65),
and sequences from the committed registry. -/
def takeoverRegistry (e : Env) (d : Dp) : Dp :=
  let r := { d.sh.reg with
    leases := d.sh.reg.leases.map (fun l => { l with ends := e.now + l.term })
    jobs := d.sh.reg.jobs.map (fun (j : SdJob) => { j with
      startedAt := e.now, state := if j.state = .reparity then .identifying else j.state }) }
  { d with sh := { d.sh with reg := r, regNext := r, regOpen := [], delegated := [], polls := [], drained := [] } }

/-- Send a rank the journal working set and the bitmaps, as an appointment (R226). Until it acknowledges, the pool has no
standby. -/
def sendAppoint (e : Env) (pool k : Nat) (d : Dp) : Dp :=
  let x := d.roleD pool
  let maps := (d.sh.missed.filter (fun m => m.1 / 16 = pool)).map (fun m =>
    { jrec .missed pool 0 with claim := x.claim, arg := regionArg (m.1 % 16) m.2 })
  let d := d.setRole { x with standby := none, appoint := some (k, e.now), group := x.sent.flatten ++ x.group, sent := [] }
  send e .mirrorGroup 3 { header e d k pool with claim := x.claim, arg := mgAppoint } (.records (x.journal ++ maps)) d

/-- The rank to appoint: the first after this device in the succession list, wrapping, that is present and settled. -/
def appointee (e : Env) (d : Dp) (p : PoolRec) : Option Nat :=
  let l := succession d.sh.reg p
  let i := l.findIdx (fun r => r = e.rank)
  ((l.drop (i + 1)) ++ l.take i).find? (fun r =>
    r != e.rank && present e d r && (d.peer r).flags.getLsbD 1)

/-- Appoint a standby where the pool has none (R226). -/
def appoint (e : Env) (pool : Nat) (d : Dp) : Dp :=
  match d.role pool, d.sh.reg.pool pool with
  | some x, some p =>
    if x.role = .steward && x.standby.isNone && x.appoint.isNone then
      match appointee e d p with
      | some k => sendAppoint e pool k d
      | none => d
    else d
  | _, _ => d

/-- Take a pool's steward role under an accepted claim (Table 7-6): silent members are declared ABSENT, RESOLVE goes to the
present members, and a standby is appointed. A handover that left no open ticket grants at once (Table 7-7). -/
def becomeSteward (e : Env) (pool : Nat) (c : BitVec 32) (giver : Option Nat) (d : Dp) : Dp :=
  let x := d.roleD pool
  let seqs := x.journal.map JRec.seqn ++ heldCommits d pool ++ (pendingItems d pool).map ResolveItem.seqn
  let next := seqs.foldl max 0 + 1
  let open_ := (recsOf x.journal .intent).any (fun r => !hasOutcome x.journal r.seqn)
  let d := d.setRole { x with
    role := .steward, claim := c, standby := none, appoint := none, nextSeq := max x.nextSeq next, group := [],
    groupAt := e.now, sent := [], contest := none, handover := none, held := [], healthy := none,
    stopped := giver.isNone || open_, resolving := none }
  let d := { d with sh := { d.sh with admitted := addNew pool d.sh.admitted, figDue := d.sh.figDue || pool = 0 } }
  let d := if pool = 0 then takeoverRegistry e d else d
  let d := d.noteLast pool (fun p => { p with lastSteward := e.rank })
  let d := cause e evSteward d
  match d.sh.reg.pool pool with
  | none => d
  | some p =>
    let d := (p.ranks.filter (fun r => !present e d r &&
      (memberState d pool r = .current || memberState d pool r = .catchingUp))).foldl
        (fun d r => appendNew e .member pool (memberArg r .absent) d) d
    let d := match giver with
      | some k => if present e d k && k != e.rank then sendAppoint e pool k d else appoint e pool d
      | none => appoint e pool d
    if giver.isSome && !open_ then d
    else
      let ranks := p.ranks.filter (fun r => r != e.rank && present e d r)
      let mine := if p.ranks.contains e.rank then (pendingItems d pool).map (fun i => (e.rank, i)) else []
      let d := d.setRole { d.roleD pool with
        resolving := some { since := e.now, waiting := listMask ranks, items := mine, commits := heldCommits d pool } }
      let d := sendEach e .resolve ranks (fun k => { header e d k pool with claim := c }) .none d
      if ranks.isEmpty then finishResolve e pool d else d

/-- A claim of this device is accepted (R243): its own entry is raised, every device is told, and the role is taken. -/
def claimAccepted (e : Env) (pool src : Nat) (told : Bool) (d : Dp) : Dp :=
  match (d.roleD pool).contest with
  | none => d
  | some k =>
    if k.claim < d.claimOf pool then d.setRole { d.roleD pool with contest := none }
    else
      let d := raise e pool k.claim src d
      let d := count 7 0 1 (logE e 0x0701 2 srcFirmware [pool, k.claim.toNat] d)
      let d := count 7 (if k.giver.isSome then 3 else 2) 1 d
      let d := if told then d
        else sendEach e .claim (otherRanks e d) (fun r => { header e d r pool with claim := k.claim }) .none d
      becomeSteward e pool k.claim k.giver d

/-- Publish a claim: on the lane, or by Causeway alone when the lane is unusable, this device counting itself (R243). -/
def publish (e : Env) (pool : Nat) (c : BitVec 32) (giver : Option Nat) (d : Dp) : Dp :=
  if d.lane.usable then
    laneQueue (laneFrame pool c) (d.setRole { d.roleD pool with
      contest := some { claim := c, acks := 2 ^ e.rank, lane := true, giver := giver } })
  else
    let d := d.setRole { d.roleD pool with
      contest := some { claim := c, acks := 2 ^ e.rank, lane := false, giver := giver } }
    let d := sendEach e .claim (otherRanks e d) (fun r => { header e d r pool with claim := c }) .none d
    if (memberRanks d.sh.reg).length < 2 then claimAccepted e pool 2 true d else d

/-- An acknowledgement of a claim counts towards the quorum (R243). -/
def claimAck (e : Env) (pool rank : Nat) (c : BitVec 32) (d : Dp) : Dp :=
  match (d.roleD pool).contest with
  | none => d
  | some k =>
    if k.claim = c && !k.lane then
      let acks := k.acks ||| 2 ^ rank
      let d := d.setRole { d.roleD pool with contest := some { k with acks := acks } }
      if (memberRanks d.sh.reg).length < 2 * (maskList 16 acks).length then claimAccepted e pool 2 true d else d
    else d

/-! ## Contests (R242) -/

/-- When a pool's steward became silent in this device's view; a pool without a steward since its creation, 2 ms after its
commit or after this device's READY. -/
def silentSince (e : Env) (d : Dp) (p : PoolRec) : Nat :=
  match stewardRank d p.handle with
  | none => max p.createdAt e.readyAt + 2 * msec
  | some r =>
    if r = e.rank then e.readyAt + 2 * msec
    else
      let k := d.peer r
      if k.heard && k.silent then k.silentAt
      else d.sh.mentioned.get k.lastHb p.handle

/-- Conditions 1 to 4 of R242. -/
def mayContend (e : Env) (d : Dp) (p : PoolRec) : Bool :=
  let settleEnd := e.readyAt + 500 * msec
  let x := d.roleD p.handle
  let holds := p.lastSteward = e.rank || p.lastStandby = some e.rank
  let outOf (r : Nat) : Bool := (d.peer r).out || !(d.peer r).heard
  e.settled && e.ready && !e.safe && x.contest.isNone && x.role != .steward &&
  stewardSilent e d p.handle &&
  max (silentSince e d p) settleEnd + position e d p * msec ≤ e.now &&
  (holds || (p.lastSteward :: p.lastStandby.toList).all (fun r => r != e.rank && !present e d r && outOf r)) &&
  (d.lane.usable || quorum e d)

/-! ## Handover (Table 7-7) -/

/-- The request that a ticket was opened for. -/
def requestOf (e : Env) (d : Dp) (t : STicket) : Frame × FrameBody :=
  let gen := ((d.sh.reg.pool t.pool).map (fun p => (d.ticketLay p t.seqn).gen)).getD 0
  ({ header e d e.rank t.pool with
      src := toRank t.head, row := t.row, posFirst := t.posFirst, posLast := t.posLast, unit := t.unit,
      arg := t.reqId + gen % 2 ^ 16 * 2 ^ 32 },
   .ticket t.dataMask t.flags t.groupKey t.groupSize t.cover)

/-- Drop the tickets that have not been granted: a steward that stops granting leaves none that can neither commit nor be
written (Table 7-7 step 3). Their requests are held. -/
def dropUngranted (e : Env) (pool : Nat) (d : Dp) : Dp :=
  ((openTickets d pool).filter (fun t => !t.granted)).foldl (fun d t =>
    let d := dropTicket e 4 t d
    d.setRole { d.roleD pool with held := (d.roleD pool).held ++ [requestOf e d t] }) d

/-- Start a handover to a rank. -/
def startHandover (e : Env) (pool target : Nat) (o : Option Order) (d : Dp) : Dp :=
  let x := d.roleD pool
  let d := d.setRole { x with
    stopped := true, handover := some { target := target, since := e.now, sentAt := none, byOrder := o } }
  let d := if x.standby = some target then d else sendAppoint e pool target d
  dropUngranted e pool d

/-- Answer an order at its head, and let the registry steward forget it. -/
def answerTo (e : Env) (o : Order) (status detail : Nat) (payload : List Byte) (d : Dp) : Dp :=
  let m : FrameBody := .order (.answer o status detail payload)
  let clear (d : Dp) : Dp := { d with sh := { d.sh with
      delegated := d.sh.delegated.filter (fun x => !sameOrder x.1 o) } }
  let d := match stewardRank d 0 with
    | some r => if r = e.rank then clear d
      else if r = o.rank then d
      else send e .control 3 (header e d r 0) m d
    | none => d
  if o.rank = e.rank then answerOrder e o status detail payload d
  else send e .control 3 (header e d o.rank 0) m d

/-- End a handover with an answer to its order, if one gave it. -/
def endHandover (e : Env) (pool status : Nat) (payload : List Byte) (d : Dp) : Dp :=
  let x := d.roleD pool
  match x.handover with
  | none => d
  | some h =>
    let d := d.setRole { x with handover := none, stopped := if x.role = .steward then false else x.stopped }
    match h.byOrder with
    | some o => answerTo e o status 0 payload d
    | none => d

/-- A handover goes on: HANDOVER once no ticket is open and the target's mirror holds the last group; its end once the
target's claim stands. -/
def handoverStep (e : Env) (pool : Nat) (d : Dp) : Dp :=
  let x := d.roleD pool
  match x.handover with
  | none => d
  | some h =>
    if x.role != .steward then
      if rankOf (d.claimOf pool) = h.target then endHandover e pool msSuccess (leBytes 4 (d.claimOf pool).toNat) d
      else endHandover e pool msHandover [] d
    else if h.sentAt.isNone && x.standby = some h.target && (openTickets d pool).isEmpty && x.group.isEmpty &&
        x.sent.isEmpty then
      let d := d.setRole { x with handover := some { h with sentAt := some e.now } }
      send e .handover 3 { header e d h.target pool with
        claim := mkClaim (epochOf (d.claimOf pool) + 1) h.target } .none d
    else d

/-- The order STEWARD_MOVE at the pool's steward (R258). Where the pool's epochs are exhausted it is answered MEMBER_ABSENT, and a second
one during a handover gets no answer here (DESIGN CHOICE: R258 is silent on both; notes/assumptions/36.md). -/
def moveSteward (e : Env) (o : Order) (d : Dp) : Dp :=
  let pool := fieldAt o.payload 0 1
  let target := fieldAt o.payload 1 1
  let x := d.roleD pool
  if target = e.rank then answerTo e o msSuccess 0 (leBytes 4 x.claim.toNat) d
  else if x.handover.isSome then d
  else if epochMax ≤ epochOf (d.claimOf pool) || !present e d target then answerTo e o msMemberAbsent 0 [] d
  else startHandover e pool target (some o) d

/-- Give a steward role up (R245). -/
def relinquish (e : Env) (pool : Nat) (d : Dp) : Dp :=
  let x := d.roleD pool
  if x.role = .steward then
    let d := endHandover e pool msHandover [] d
    let x := d.roleD pool
    let d := sendEach e .relinquish (otherRanks e d) (fun k => { header e d k pool with claim := x.claim }) .none d
    let d := d.setRole { x with role := .none, standby := none, appoint := none, group := [], sent := [], stopped := true,
                                resolving := none }
    { d with sh := { d.sh with
        stickets := d.sh.stickets.filter (fun t => t.pool != pool)
        relinquished := addNew pool d.sh.relinquished } }
  else d

/-! ## Drill (Table 7-9) -/

/-- RESULT of a drill: PASS when every present rank stands in FENCED_OK and ACCEPTED (R262). -/
def drillResult (e : Env) (d : Dp) (fenced accepted : Nat) : Nat :=
  if (presentMembers e d).all (fun r => fenced.testBit r && accepted.testBit r) then 0 else 1

/-- The record of Table 7-10. -/
def drillRecord (result pool standby us : Nat) (old new : BitVec 32) (noReply fenced accepted : Nat) : List Byte :=
  leBytes 1 result ++ leBytes 9 0 ++ leBytes 1 pool ++ leBytes 1 standby ++ leBytes 4 us ++ leBytes 4 old.toNat ++
    leBytes 4 new.toNat ++ leBytes 2 noReply ++ leBytes 2 fenced ++ leBytes 2 accepted ++ leBytes 2 0

/-- A block of zeros that a probe sherd carries. -/
def probeBlk : Blk := ⟨List.replicate 4096 0, 0⟩

/-- A probe sherd under a drill claim, to every other device. -/
def sendProbe (e : Env) (c : BitVec 32) (d : Dp) : Dp :=
  sendEach e .sherdData (otherRanks e d) (fun r => { header e d r drillHandle with claim := c }) (.blk probeBlk) d

/-- The order STEWARD_DRILL at the pool's steward (steps 1 to 3): NOT_RUN where the pool has no standby, and also
where the drill handle's epochs are exhausted, with STANDBY 0xFF in the record (DESIGN CHOICE: R262 gives neither; notes/assumptions/36.md).
The announcement names the pool in ARG. -/
def startDrill (e : Env) (o : Order) (d : Dp) : Dp :=
  let pool := fieldAt o.payload 0 1
  let x := d.roleD pool
  match x.standby, formClaim e d drillHandle with
  | some k, some c =>
    let d := count 7 4 1 (raise e drillHandle c 2 d)
    let d := { d with sh := { d.sh with
        drill := some { pool := pool, order := some o, since := e.now, stepAt := e.now, standby := k, oldClaim := c,
                        newClaim := 0, asked := listMask (otherRanks e d), fencedOk := 0, accepted := 0,
                        noReply := 0 } } }
    sendEach e .claim (otherRanks e d) (fun r => { header e d r drillHandle with claim := c, arg := pool }) .none d
  | _, _ => answerTo e o msSuccess 0 (drillRecord 2 pool 0xFF 0 0 0 0 0 0) d

/-- The standby hears a drill claim for a pool it stands by (steps 2 and 4). -/
def drillStandby (e : Env) (pool : Nat) (d : Dp) : Dp :=
  match d.role pool, formClaim e d drillHandle with
  | some x, some c =>
    if x.role = .standby then
      let old := d.claimOf drillHandle
      let d := raise e drillHandle c 2 d
      let d := { d with sh := { d.sh with
          drill := some { pool := pool, order := none, since := e.now, stepAt := e.now, standby := e.rank, oldClaim := old,
                          newClaim := c, asked := listMask (otherRanks e d), fencedOk := 0, accepted := 2 ^ e.rank,
                          noReply := 0 } } }
      let d := sendEach e .claim (otherRanks e d) (fun r => { header e d r drillHandle with claim := c, arg := pool }) .none d
      let d := sendProbe e c d
      sendEach e .resolve (otherRanks e d) (fun r => { header e d r drillHandle with claim := c }) .none d
    else d
  | _, _ => d

/-- Everyone asked in a drill has answered or is marked NO_REPLY. -/
def drillOver (k : Drill) : Bool :=
  (maskList 16 k.asked).all (fun r => k.noReply.testBit r || k.accepted.testBit r)

/-- The standby's part ends: the result goes to the steward of the pool (step 5). -/
def drillStep (e : Env) (d : Dp) : Dp :=
  match d.sh.drill with
  | none => d
  | some k =>
    if k.order.isNone && drillOver k then
      let d := { d with sh := { d.sh with drill := none } }
      match stewardRank d k.pool with
      | some r => send e .control 3 (header e d r k.pool) (.order (.drillDone k.newClaim k.accepted k.noReply)) d
      | none => d
    else d

/-- The steward receives the standby's result and completes the command. -/
def finishDrill (e : Env) (new : BitVec 32) (accepted noReply : Nat) (d : Dp) : Dp :=
  match d.sh.drill with
  | none => d
  | some k =>
    match k.order with
    | none => d
    | some o =>
      let fenced := if k.oldClaim < d.claimOf drillHandle then k.fencedOk ||| 2 ^ e.rank else k.fencedOk
      let d := { d with sh := { d.sh with drill := none } }
      answerTo e o msSuccess 0 (drillRecord (drillResult e d fenced accepted) k.pool k.standby ((e.now - k.since) / usec)
        k.oldClaim new noReply fenced accepted) d

end Sys2Proof.Machine
end

