-- ==== Sys2Proof/Machine/Registry.lean ====
section
/-! DEFINITION. The registry steward's sequencer (R36, R395 to R398): leases, the checks and effects of administrative orders
on the registry (R31 to R39, R191, R213, R219, R224, R230, R291, R388, R389, R581), orders carried out elsewhere, and one
round of all the work that follows a command. -/

namespace Sys2Proof.Machine

/-! ## Node lists (Tables 11-8 and 11-9) -/

def kindOfCode : Nat → Option NodeKind
  | 1 => some .leaf
  | 2 => some .mirror
  | 3 => some .pq
  | 4 => some .concat
  | _ => none

/-- Node entry `i` of a payload. -/
def nodeAt (p : List Byte) (i : Nat) : Option Node :=
  (kindOfCode (fieldAt p (32 + 16 * i) 1)).map (fun k => ⟨k, fieldAt p (33 + 16 * i) 1, fieldAt p (40 + 16 * i) 8⟩)

/-- Fields of the fixed part. -/
def crHandle (p : List Byte) : Nat := fieldAt p 15 1
def crTags (p : List Byte) : Bool := fieldAt p 16 1 % 2 = 1
def crFloor (p : List Byte) : Nat := fieldAt p 17 1
def crIu (p : List Byte) : Nat := fieldAt p 18 1
def crSherd (p : List Byte) : Nat := fieldAt p 19 1
def crNodes (p : List Byte) : Nat := fieldAt p 20 1
def crCap (p : List Byte) : Nat := fieldAt p 24 8

/-- The node list, none where an entry has a KIND outside Table 11-9. -/
def nodesOf (p : List Byte) : Option (List Node) :=
  let l := (List.range (crNodes p)).map (nodeAt p)
  if l.all Option.isSome then some (l.filterMap id) else none

/-- The root of a node list is CONCAT. -/
def rootConcat (p : List Byte) : Bool := (nodeAt p 0).any (fun n => n.kind = .concat)

/-- LBAs a pool can have (Table 2-1). -/
def capMax : Nat := 2 ^ 48

/-! ## Leases (R396 to R398) -/

/-- The holder code of an order's port. -/
def holderOf (o : Order) : Nat := o.rank * 4 + o.port

/-- The lease of a handle that stands at a time. -/
def leaseAt (g : Registry) (now h : Nat) : Option Lease := g.leases.find? (fun l => l.handle = h && now < l.ends)

/-- Holder and remaining term of a lease, as responses report them. -/
def leaseBytes (now : Nat) (l : Option Lease) : List Byte :=
  match l with
  | none => leBytes 4 0xFF ++ leBytes 4 0
  | some l => leBytes 4 l.holder ++ leBytes 4 ((l.ends - now) / msec)

/-- Put a lease in the place of a handle's. -/
def putLease (g : Registry) (l : Lease) : Registry :=
  { g with leases := g.leases.filter (fun x => x.handle != l.handle) ++ [l] }
def dropLease (g : Registry) (h : Nat) : Registry := { g with leases := g.leases.filter (fun x => x.handle != h) }

/-- The lease an order needs: class LP the pool's, class LS the shoal's (Table 11-6), none for the others. -/
def leaseNeeded (o : Order) : Option Nat :=
  let op := o.opcode
  if op = 0x0101 ∨ op = 0x0302 ∨ op = 0x0303 ∨ op = 0x0604 ∨ (0x0703 ≤ op ∧ op ≤ 0x0706) then some 0
  else if op = 0x0106 then some (crHandle o.payload)
  else if op = 0x0102 ∨ op = 0x0103 ∨ op = 0x0109 ∨ op = 0x0403 ∨ (0x0710 ≤ op ∧ op ≤ 0x0713) then
    some (fieldAt o.payload 0 1)
  else none

/-- The lease an order needs is held by its port. -/
def leaseOk (g : Registry) (now : Nat) (o : Order) : Bool :=
  match leaseNeeded o with
  | none => true
  | some h => (leaseAt g now h).any (fun l => l.holder = holderOf o)

/-! ## Verdicts -/

/-- What the sequencer makes of an order. -/
inductive Verdict where
  | fail (status detail : Nat) (payload : List Byte)
  | done (payload : List Byte)
  | change (after : Registry) (detail : Nat) (payload : List Byte)
  | give (pool : Nat)
  | giveRank (rank : Nat)
  | poll (pool lba : Nat)
deriving DecidableEq, Repr

/-- The pool an order names: it exists, is not the registry pool (R41) and is not being deleted. -/
def withPool (g : Registry) (h : Nat) (k : PoolRec → Verdict) : Verdict :=
  if h = 0 then .fail msNoPool 0 []
  else match g.pool h with
    | none => .fail msNoPool 0 []
    | some p => if p.state = .deleting then .fail msDeleting 0 [] else k p

/-- The same for orders that may name the registry pool. -/
def withAnyPool (g : Registry) (h : Nat) (k : PoolRec → Verdict) : Verdict :=
  match g.pool h with
  | none => .fail msNoPool 0 []
  | some p => if p.state = .deleting then .fail msDeleting 0 [] else k p

/-- The budget and capacity tests of R34 on the members whose resident share rises, DRAM first. A member whose reserve is
LOW takes no rise (Table 4-4). -/
def sizeStatus (e : Env) (d : Dp) (g : Registry) (h : Nat) (new : Lay) (iu : Nat) (old : Nat → Nat) : Option Nat :=
  let up := new.ranks.filter (fun r => old r < new.resident r)
  if !(up.all (fun r => (g.member r).any (fun m => mapTotal g h new iu r + 24 * gib ≤ m.dram))) then some msNoDram
  else if !(up.all (fun r => (g.member r).any (fun m => residentTotal g h new r ≤ m.prov && !m.low) &&
      (r != e.rank || d.med.reserve = 0))) then some msNoCapacity
  else none

/-! ## Pool orders -/

/-- Distinct leaf ranks in ascending order. -/
def leafRanks (l : Lay) : List Nat := (List.range 16).filter (fun r => l.ranks.contains r)

/-- The preferred steward and standby of a new pool (R224). -/
def preferred (g : Registry) (h : Nat) (l : Lay) : Nat × Option Nat :=
  let ls := leafRanks l
  let s := ls.getD (h % ls.length) 0
  if 2 ≤ ls.length then (s, some (ls.getD ((h + 1) % ls.length) 0))
  else
    let ms := memberRanks g
    let next := (ms.filter (fun r => s < r) ++ ms.filter (fun r => r < s)).head?
    (s, next)

/-- A UUID that no pool has had (R33): how many draws it takes, and the first draw that no pool has had; where as many draws as there have
been pools give none, the least number that is free. -/
def freshUuid (d : Dp) (g : Registry) : Nat × BitVec 128 :=
  let n := g.uuids.length + 1
  let free (u : BitVec 128) : Bool := !g.uuids.contains u
  match ((List.range n).map (fun i => (i + 1, BitVec.ofNat 128 (Config.random (d.io.fresh + i))))).find?
      (fun x => free x.2) with
  | some x => x
  | none => (n, (((List.range n).map (BitVec.ofNat 128)).find? free).getD 0)

/-- POOL_CREATE (R32, R36, R388). A handle is free again once the deletion of its pool has committed (R33). -/
def judgeCreate (e : Env) (d : Dp) (g : Registry) (p : List Byte) : Verdict :=
  let s := sherdBlocks (crSherd p)
  let nodes := nodesOf p
  match nodes, nodes.bind (parseTree s (crCap p)) with
  | some ns, some (st, depth) =>
    if !layoutOk g (paramVal e.par g 0x0601) (crIu p) (crSherd p) st depth then .fail msLayout 0 []
    else if (g.pool (crHandle p)).isSome || (d.sh.reg.pool (crHandle p)).isSome then .fail msHandleUsed 0 []
    else
      let l : Lay := ⟨s, st, 0⟩
      if capMax < l.cap then .fail msField 0 []
      else match sizeStatus e d g (crHandle p) l (crIu p) (fun _ => 0) with
        | some st => .fail st 0 []
        | none =>
          let uuid := (freshUuid d g).2
          let pr := preferred g (crHandle p) l
          let rec_ : PoolRec :=
            { handle := crHandle p, uuid := uuid, iu := crIu p, cap := l.cap, nodes := ns, stripes := st,
              sherd := crSherd p, floor := crFloor p, tags := crTags p, state := .online, prefSteward := pr.1,
              prefStandby := pr.2, lastSteward := pr.1, lastStandby := pr.2, createdAt := e.now, layoutGen := 0,
              reshape := none, secureDel := false, deleteJob := none, substs := [], rebases := 0, rebaseRank := 0 }
          .change { g.setPool rec_ with uuids := g.uuids ++ [uuid] } 0
            (leBytes 8 (crHandle p) ++ leBytes 8 l.cap ++ leBytes 16 uuid.toNat)
  | _, _ => .fail msLayout 0 []

/-- A secure-discard job (Table 2-5 step 1); the registry keeps the records of the last 256 jobs (R68). -/
def addJob (e : Env) (g : Registry) (p : PoolRec) (lba len seqn : Nat) : Registry :=
  let j : SdJob :=
    { id := g.nextJob, pool := p.handle, lba := lba, len := len, seqn := seqn, state := .identifying, startedAt := e.now,
      blocksTotal := 0, blocksDone := 0, rowsTotal := 0, rowsDone := 0, pendingMask := listMask p.ranks,
      toList := listMask p.ranks, elapsedMs := 0, left := false }
  let l := g.jobs ++ [j]
  { g with jobs := l.drop (l.length - 256), nextJob := (g.nextJob + 1) % 2 ^ 32 }

/-- POOL_DELETE (R38, R39): with SECURE the job over the whole pool runs first, over every journal sequence. -/
def judgeDelete (e : Env) (g : Registry) (p : List Byte) : Verdict :=
  withPool g (fieldAt p 0 1) (fun q =>
    if fieldAt p 1 1 = 1 then
      let g' := addJob e g q 0 q.cap (2 ^ 64 - 1)
      .change (g'.setPool { q with state := .deleting, secureDel := true, deleteJob := some g.nextJob }) 0 []
    else .change (g.setPool { q with state := .deleting }) 0 [])

/-- The last striping node of a tree, resized by a difference and rounded up to its rows (R32, R581); none below a row. -/
def resizeLast (s : Nat) (st : List Stripe) (old new : Nat) : Option (List Stripe) :=
  match st.getLast? with
  | none => none
  | some x =>
    if x.cap + new ≤ old then none
    else some (st.dropLast ++ [{ x with cap := roundUp (x.cap + new - old) (rowBlocks s x) }])

/-- CHILD_CAP of the last child follows its new capacity. -/
def resizeNodes (ns : List Node) (cap : Nat) : List Node :=
  match ns.reverse.findIdx? (fun n => n.childCap != 0) with
  | none => ns
  | some i => ns.mapIdx (fun j n => if j = ns.length - 1 - i then { n with childCap := cap } else n)

/-- A pool with a new capacity, in the layout it has and in the one it is being reshaped to. -/
def resizePool (q : PoolRec) (new : Nat) : Option PoolRec :=
  (resizeLast (sherdBlocks q.sherd) q.stripes q.cap new).bind (fun st =>
    let cap := (⟨sherdBlocks q.sherd, st, 0⟩ : Lay).cap
    let q' := { q with stripes := st, nodes := resizeNodes q.nodes ((st.getLast?.map Stripe.cap).getD 0), cap := cap }
    match q.reshape with
    | none => some q'
    | some r => (resizeLast (sherdBlocks r.sherd) r.stripes q.cap new).map (fun st' =>
        let l : Lay := ⟨sherdBlocks r.sherd, st', 0⟩
        { q' with reshape := some { r with
            stripes := st', nodes := resizeNodes r.nodes ((st'.getLast?.map Stripe.cap).getD 0), cap := l.cap,
            rows := l.rows } }))

/-- POOL_RESIZE (R34, R37, R581). A shrink asks the members first, which then answer by `finishPoll`. -/
def judgeResize (e : Env) (d : Dp) (g : Registry) (p : List Byte) (polled : Bool) : Verdict :=
  withPool g (fieldAt p 0 1) (fun q =>
    let new := fieldAt p 8 8
    match resizePool q new with
    | none => .fail msField 0 []
    | some q' =>
      if capMax < q'.cap then .fail msField 0 []
      else if q'.cap < q.cap && !polled then .poll q.handle q'.cap
      else match sizeStatus e d g q.handle q'.lay q.iu q.lay.resident with
        | some st => .fail st 0 []
        | none => .change (g.setPool q') 0 (leBytes 8 q'.cap))

/-- RESHAPE_START (R219, R389). -/
def judgeReshape (e : Env) (d : Dp) (g : Registry) (p : List Byte) : Verdict :=
  withPool g (crHandle p) (fun q =>
    let concat := rootConcat p
    if crIu p != q.iu || crTags p != q.tags || (concat && crCap p != 0) ||
        (!concat && crCap p != 0 && crCap p < q.cap) then .fail msField 0 []
    else
      let s := sherdBlocks (crSherd p)
      let nodes := nodesOf p
      match nodes, nodes.bind (parseTree s (if crCap p = 0 then q.cap else crCap p)) with
      | some ns, some (st, depth) =>
        let l : Lay := ⟨s, st, q.layoutGen + 1⟩
        if !layoutOk g (paramVal e.par g 0x0601) (crIu p) (crSherd p) st depth then .fail msLayout 0 []
        else if l.cap < q.cap || capMax < l.cap then .fail msField 0 []
        else if q.reshape.isSome then .fail msReshape 0 []
        else match sizeStatus e d g q.handle l q.iu q.lay.resident with
          | some st => .fail st 0 []
          | none =>
            let r : Reshape :=
              { nodes := ns, stripes := st, sherd := crSherd p, floor := crFloor p, cap := l.cap, rows := l.rows,
                tidemark := 0, paused := false }
            .change (g.setPool { q with reshape := some r }) 0 (leBytes 8 l.cap ++ leBytes 8 l.rows)
      | _, _ => .fail msLayout 0 [])

/-- A reshape whose tidemark has passed its last row ends (R217): the pool has the new layout. -/
def endReshape (g : Registry) (h : Nat) : Registry :=
  match g.pool h with
  | none => g
  | some q => match q.reshape with
    | none => g
    | some r => g.setPool { q with
        nodes := r.nodes, stripes := r.stripes, sherd := r.sherd, floor := r.floor, cap := r.cap,
        layoutGen := q.layoutGen + 1, reshape := none }

/-! ## Lease orders (R397, R398) -/

/-- A lease command's handle names a pool that is ONLINE, READ_ONLY or DELETING, or 0. -/
def leaseHandle (g : Registry) (h : Nat) : Bool := h = 0 || (g.pool h).any (fun p => p.state != .creating)

def judgeAcquire (g : Registry) (now : Nat) (o : Order) : Verdict :=
  let h := fieldAt o.payload 0 1
  let term := fieldAt o.payload 4 4 * msec
  let cur := leaseAt g now h
  let take : Bool := match cur with
    | none => true
    | some l => l.holder = holderOf o || (l.holder % 4 = 3 && o.port != 3)
  if !leaseHandle g h then .fail msNoPool 0 []
  else if take then
    let l : Lease := ⟨h, holderOf o, now + term, term⟩
    .change (putLease g l) 0 (leaseBytes now (some l))
  else .fail msAuthority 0 (leaseBytes now cur)

def judgeRelease (g : Registry) (now : Nat) (o : Order) : Verdict :=
  let h := fieldAt o.payload 0 1
  if !leaseHandle g h then .fail msNoPool 0 []
  else match leaseAt g now h with
    | none => .done (leaseBytes now none)
    | some l =>
      if l.holder = holderOf o then .change (dropLease g h) 0 (leaseBytes now none)
      else .fail msAuthority 0 (leaseBytes now (some l))

def judgeQuery (g : Registry) (now : Nat) (o : Order) : Verdict :=
  let h := fieldAt o.payload 0 1
  if !leaseHandle g h then .fail msNoPool 0 [] else .done (leaseBytes now (leaseAt g now h))

/-! ## Shoal orders -/

/-- Entries of a PARAM_SET or PARAM_DEFAULT: ID and VALUE (R390). -/
def paramEntries (op : Nat) (p : List Byte) : List (Nat × Nat) :=
  (List.range (fieldAt p 0 4)).map (fun i =>
    let id := fieldAt p (16 + 16 * i) 2
    (id, if op = 0x0303 then paramDefault id else fieldAt p (24 + 16 * i) 8))

/-- The shoal parameters of a request are set (R222). -/
def judgeParams (g : Registry) (o : Order) : Verdict :=
  let l := (paramEntries o.opcode o.payload).filter (fun x => (paramDef x.1).any ParamDef.shoal)
  .change { g with params := l.foldl (fun t x => t.put x.1 x.2) g.params } 0 []

/-- A member's record with the figures of the device of its serial number. -/
def memberOf (rank : Nat) (serial : BitVec 64) : MemberRec :=
  let f := Config.memberFigures serial
  { rank := rank, serial := serial, dram := f.1, prov := f.2, spare := false, retired := false, low := false }

/-- Replace or add a member. -/
def putMember (g : Registry) (m : MemberRec) : Registry :=
  { g with members := g.members.filter (fun x => x.rank != m.rank) ++ [m], n := max g.n (m.rank + 1) }

/-- A rank holds a leaf of a pool. -/
def hasLeaf (g : Registry) (r : Nat) : Bool := g.pools.any (fun p => p.ranks.contains r)

/-- Substitute a rank for another in every pool tree that names it (R213). -/
def substRank (x y : Nat) (g : Registry) : Registry :=
  let sub (r : Nat) : Nat := if r = x then y else r
  let one (st : Stripe) : Stripe := { st with ranks := st.ranks.map sub }
  let leaf (n : Node) : Node := if n.kind = .leaf then { n with arg := sub n.arg } else n
  let pool (p : PoolRec) : PoolRec :=
    if p.ranks.contains x then { p with
      stripes := p.stripes.map one, nodes := p.nodes.map leaf, substs := p.substs ++ [(x, y)],
      reshape := p.reshape.map (fun r => { r with stripes := r.stripes.map one, nodes := r.nodes.map leaf }) }
    else p
  { g with pools := g.pools.map pool,
           members := g.members.map (fun m => if m.rank = y then { m with spare := false } else m) }

/-- The budget and capacity tests of R34 on a rank whose leaves a substitution adds to, DRAM first (R42, R117; DEDUCED:
notes/assumptions/36.md). -/
def replaceStatus (g : Registry) (y : Nat) : Option Nat :=
  match g.member y, g.pools.find? (fun p => p.ranks.contains y) with
  | some m, some p =>
    if m.dram < mapTotal g p.handle p.lay p.iu y + 24 * gib then some msNoDram
    else if m.prov < residentTotal g p.handle p.lay y then some msNoCapacity
    else none
  | _, _ => none

def judgeAdd (g : Registry) (p : List Byte) : Verdict :=
  if 15 < fieldAt p 0 1 then .fail msField 0 []
  else .change (putMember g (memberOf (fieldAt p 0 1) (BitVec.ofNat 64 (fieldAt p 8 8)))) 0 []

/-- A rank in the membership, or INVALID_FIELD. -/
def withMember (g : Registry) (r : Nat) (k : MemberRec → Verdict) : Verdict :=
  match g.member r with
  | none => .fail msField 0 []
  | some m => k m

def judgeRetire (g : Registry) (p : List Byte) : Verdict :=
  withMember g (fieldAt p 0 1) (fun m => .change (putMember g { m with retired := true }) 0 [])

/-- A hot spare holds no leaf in any pool tree. -/
def judgeSpare (g : Registry) (p : List Byte) : Verdict :=
  withMember g (fieldAt p 0 1) (fun m =>
    if fieldAt p 1 1 = 1 && hasLeaf g m.rank then .fail msField 0 []
    else .change (putMember g { m with spare := fieldAt p 1 1 = 1 }) 0 [])

/-- MEMBER_REPLACE (R213, R214): the spare is a named one, or the replacement at the failed rank itself, and present. -/
def judgeReplace (e : Env) (d : Dp) (g : Registry) (p : List Byte) : Verdict :=
  let x := fieldAt p 0 1
  let y := fieldAt p 1 1
  withMember g x (fun _ => withMember g y (fun m =>
    if !(x = y || (m.spare && !hasLeaf g y)) then .fail msField 0 []
    else if !present e d y then .fail msMemberAbsent 0 []
    else
      let g := if x = y then
          ((d.sh.joins.find? (fun j => j.1 = noPool && j.2.1 = x)).map (fun j => putMember g (memberOf x j.2.2.1))).getD g
        else g
      match replaceStatus (substRank x y g) y with
      | some st => .fail st 0 []
      | none => .change (substRank x y g) 0 []))

/-! ## Steward orders -/

/-- A steward order is given on to the pool's steward (R395). -/
def judgeMove (e : Env) (d : Dp) (g : Registry) (p : List Byte) : Verdict :=
  let target := fieldAt p 1 1
  withAnyPool g (fieldAt p 0 1) (fun q => withMember g target (fun _ =>
    if !present e d target then .fail msMemberAbsent 0 [] else .give q.handle))

/-- A drill runs one at a time in the shoal (R261). -/
def judgeDrill (d : Dp) (g : Registry) (p : List Byte) : Verdict :=
  withAnyPool g (fieldAt p 0 1) (fun q =>
    if d.sh.delegated.any (fun x => x.1.opcode = 0x0712) then .fail msDrillBusy 0 [] else .give q.handle)

/-- STEWARD_PREFER (R224) moves no role. One rank as both steward and standby is INVALID_FIELD (DESIGN CHOICE: no rule gives its
status; notes/assumptions/36.md). -/
def judgePrefer (g : Registry) (p : List Byte) : Verdict :=
  let a := fieldAt p 1 1
  let b := fieldAt p 2 1
  withAnyPool g (fieldAt p 0 1) (fun q => withMember g a (fun _ => withMember g b (fun _ =>
    if a = b then .fail msField 0 []
    else .change (g.setPool { q with prefSteward := a, prefStandby := some b }) 0 [])))

/-- Every device of the membership is present. -/
def allPresent (e : Env) (d : Dp) (g : Registry) : Bool := (memberRanks g).all (fun r => present e d r)

/-- A rebase of a pool's epoch: its record (R230, R231). -/
def rebasePool (g : Registry) (q : PoolRec) (rank : Nat) : Verdict :=
  .change (g.setPool { q with rebases := q.rebases + 1, rebaseRank := rank }) 0 (leBytes 4 (mkClaim 1 rank).toNat)

/-- EPOCH_REBASE (R230, R231): at the pool's steward, or here for a pool whose epochs are exhausted. -/
def judgeRebase (e : Env) (d : Dp) (g : Registry) (p : List Byte) : Verdict :=
  withAnyPool g (fieldAt p 0 1) (fun q =>
    if exhausted e d q.handle then
      match (succession g q).find? (fun r => present e d r) with
      | some r => if allPresent e d g then rebasePool g q r else .fail msMemberAbsent 0 []
      | none => .fail msMemberAbsent 0 []
    else if (stewardOf e d q.handle).isSome then .give q.handle
    else .fail msMemberAbsent 0 [])

/-- SANITIZE_CRYPTO (R439, R442): the rank holds no leaf, or is RETIRED in every pool that names it. -/
def judgeSanitize (d : Dp) (g : Registry) (p : List Byte) : Verdict :=
  let r := fieldAt p 0 1
  withMember g r (fun _ =>
    if g.pools.any (fun q => q.ranks.contains r && memberState d q.handle r != .retired) then .fail msField 5 []
    else .giveRank r)

/-! ## The sequencer -/

/-- The model's own orders: a member whose reserve is critical asks for a spare (R142), and a pool's steward ends a
reshape. -/
def spareOpcode : Nat := 0x8003
def reshapedOpcode : Nat := 0x8004

/-- DETAIL of a lease failure: the first shoal parameter of a PARAM_SET or PARAM_DEFAULT (R391), else 0. -/
def firstShoal (o : Order) : Nat :=
  if isParamOp o.opcode then
    ((paramEntries o.opcode o.payload).findIdx? (fun x => (paramDef x.1).any ParamDef.shoal)).getD 0
  else 0

/-- What the registry steward's sequencer makes of an order against the state every earlier order left (R36). -/
def judgeOrder (e : Env) (d : Dp) (o : Order) : Verdict :=
  let g := d.sh.regNext
  let p := o.payload
  let op := o.opcode
  if !leaseOk g e.now o then .fail msAuthority (firstShoal o) []
  else if op = 0x0101 then judgeCreate e d g p
  else if op = 0x0102 then judgeDelete e g p
  else if op = 0x0103 then judgeResize e d g p false
  else if op = 0x0106 then judgeReshape e d g p
  else if op = 0x0109 then withPool g (fieldAt p 0 1) (fun q => .change (g.setPool { q with floor := fieldAt p 1 1 }) 0 [])
  else if op = 0x0110 then judgeAcquire g e.now o
  else if op = 0x0111 then judgeRelease g e.now o
  else if op = 0x0112 then judgeQuery g e.now o
  else if isParamOp op then judgeParams g o
  else if op = 0x0403 then
    withAnyPool g (fieldAt p 0 1) (fun q =>
      .change { g with clears := g.clears.put q.handle (g.clears.get 0 q.handle + 1) } 0
        (leBytes 4 (d.sh.reg.errlog.filter (fun x => x.pool = q.handle)).length))
  else if op = 0x0604 then judgeSanitize d g p
  else if op = 0x0703 then judgeAdd g p
  else if op = 0x0704 then judgeRetire g p
  else if op = 0x0705 then judgeSpare g p
  else if op = 0x0706 ∨ op = spareOpcode then judgeReplace e d g p
  else if op = 0x0710 then judgeMove e d g p
  else if op = 0x0711 then judgePrefer g p
  else if op = 0x0712 then judgeDrill d g p
  else if op = 0x0713 then judgeRebase e d g p
  else if op = sdOpcode then
    match g.pool (fieldAt p 0 1) with
    | some q => .change (addJob e g q (fieldAt p 8 8) (fieldAt p 16 8) (fieldAt p 24 8)) g.nextJob []
    | none => .fail msNoPool 0 []
  else if op = rebaseOpcode then withAnyPool g (fieldAt p 0 1) (fun q => rebasePool g q (fieldAt p 1 1))
  else if op = reshapedOpcode then .change (endReshape g (fieldAt p 0 1)) 0 []
  else .fail msOpcode 0 []

/-- The registry steward records a change: one record of the registry pool's journal (R395). -/
def changeRegistry (e : Env) (o : Option Order) (after : Registry) (detail : Nat) (payload : List Byte) (d : Dp) : Dp :=
  let seqn := (d.roleD 0).nextSeq
  let after := match o with
    | none => after
    | some o => { after with applied := after.applied ++
        [{ rank := o.rank, port := o.port, session := o.session, token := o.token, opcode := o.opcode,
           status := msSuccess, detail := detail, payload := payload }] }
  let d := appendNew e .commit 0 0 d
  { d with sh := { d.sh with
      regNext := after
      regOpen := d.sh.regOpen ++ [{ seqn := seqn, after := after, order := o, status := msSuccess, detail := detail,
                                    payload := payload }] } }

/-- The applied record of an order. -/
def appliedOf (g : Registry) (o : Order) : Option Applied :=
  g.applied.find? (fun a => a.rank = o.rank && a.port = o.port && a.session = o.session && a.token = o.token &&
    a.opcode = o.opcode)

/-- EPOCH_REBASE at the pool's steward (R230): every device of the shoal present and CURRENT in the pool, and the record is
ordered at the registry; otherwise MEMBER_ABSENT. -/
def rebaseAtSteward (e : Env) (o : Order) (d : Dp) : Dp :=
  let h := fieldAt o.payload 0 1
  let ok := allPresent e d d.sh.reg && (memberRanks d.sh.reg).all (fun r => memberState d h r = .current)
  match ok, stewardRank d 0 with
  | true, some r =>
    send e .control 3 (header e d r 0) (.order (.order { o with
      opcode := rebaseOpcode, payload := leBytes 1 h ++ leBytes 1 e.rank })) d
  | _, _ => answerTo e o msMemberAbsent 0 [] d

/-- A pool's steward carries an order out (R395). -/
def carryOut (e : Env) (o : Order) (d : Dp) : Dp :=
  if o.opcode = 0x0710 then moveSteward e o d
  else if o.opcode = 0x0712 then startDrill e o d
  else rebaseAtSteward e o d

/-- Pool of an order that a pool's steward carries out. -/
def orderPool (o : Order) : Nat := fieldAt o.payload 0 1

/-- The registry steward gives an order on to a pool's steward, itself or another device. -/
def giveOrder (e : Env) (o : Order) (d : Dp) : Dp :=
  match stewardOf e d (orderPool o) with
  | none => d
  | some r =>
    let d := { d with sh := { d.sh with
        delegated := d.sh.delegated.filter (fun x => !sameOrder x.1 o) ++ [(o, r)] } }
    if r = e.rank then carryOut e o d
    else send e .control 3 (header e d r (orderPool o)) (.order (.order o)) d

/-- Present members that hold a leaf of a pool. -/
def pollRanks (e : Env) (d : Dp) (h : Nat) : List Nat :=
  (((d.sh.reg.pool h).map PoolRec.ranks).getD []).filter (fun r => present e d r)

/-- This member maps a block of a pool at or above an LBA (R37): a data unit there, or parity of a row that begins there. -/
def mapsAbove (e : Env) (d : Dp) (h lba : Nat) : Bool :=
  match d.sh.reg.pool h with
  | none => false
  | some p =>
    let up (b : Nat) : Bool :=
      let l := p.layGen (p.genOf b)
      match l.ofLocal e.rank b with
      | none => false
      | some q => if q.unit < 14 then (l.lba q).any (fun x => lba ≤ x) else (l.rowLbas q.row).any (fun x => lba ≤ x.1)
    d.map.entries.any (fun x => x.1 = h && up x.2.1) ||
      d.map.green.any (fun g => g.pool = h && g.committed && !g.unmaps && up g.localBlk)

/-- A verdict takes effect. -/
def applyVerdict (e : Env) (o : Order) (v : Verdict) (d : Dp) : Dp :=
  match v with
  | .fail st det pl => answerTo e o st det pl d
  | .done pl => answerTo e o msSuccess 0 pl d
  | .change after det pl =>
    let n := if o.opcode = 0x0101 then (freshUuid d d.sh.regNext).1 else 0
    (List.range n).foldl (fun d _ => (draw d).2) (changeRegistry e (some o) after det pl d)
  | .give _ => giveOrder e o { d with sh := { d.sh with delegated := d.sh.delegated ++ [(o, noRank)] } }
  | .giveRank r =>
    if r = e.rank then { d with mb := { d.mb with sanDue := d.mb.sanDue ++ [o] } }
    else send e .control 3 (header e d r 0) (.order (.order o)) d
  | .poll h lba =>
    let d := { d with sh := { d.sh with
        polls := d.sh.polls ++ [(o, lba, if mapsAbove e d h lba then [] else [e.rank])] } }
    if mapsAbove e d h lba then
      answerTo e o msMapped 0 [] { d with sh := { d.sh with
        polls := d.sh.polls.filter (fun x => !sameOrder x.1 o) } }
    else sendEach e .control (otherRanks e d) (fun r => header e d r 0) (.order (.ask o h lba)) d

/-- The registry steward's sequencer takes an order: once (R395). -/
def takeOrder (e : Env) (o : Order) (d : Dp) : Dp :=
  if d.sh.regOpen.any (fun x => x.order.any (sameOrder o)) || d.sh.polls.any (fun x => sameOrder x.1 o) ||
      d.sh.delegated.any (fun x => sameOrder x.1 o) then d
  else match appliedOf d.sh.reg o with
    | some a => answerTo e o a.status a.detail a.payload d
    | none => applyVerdict e o (judgeOrder e d o) d

/-- A member's answer to a poll: RANGE_MAPPED at the first mapping found; the shrink goes on once every present member has
answered. -/
def pollAnswer (e : Env) (o : Order) (rank : Nat) (found : Bool) (d : Dp) : Dp :=
  let gone (d : Dp) : Dp := { d with sh := { d.sh with polls := d.sh.polls.filter (fun x => !sameOrder x.1 o) } }
  match d.sh.polls.find? (fun x => sameOrder x.1 o) with
  | none => d
  | some (o, _, _) =>
    if found then answerTo e o msMapped 0 [] (gone d)
    else { d with sh := { d.sh with polls := d.sh.polls.map (fun x =>
        if sameOrder x.1 o then (x.1, x.2.1, addNew rank x.2.2) else x) } }

/-- Polls whose present members have all answered. -/
def finishPolls (e : Env) (d : Dp) : Dp :=
  (d.sh.polls.filter (fun x => (pollRanks e d (fieldAt x.1.payload 0 1)).all x.2.2.contains)).foldl (fun d x =>
    let d := { d with sh := { d.sh with polls := d.sh.polls.filter (fun y => !sameOrder y.1 x.1) } }
    applyVerdict e x.1 (judgeResize e d d.sh.regNext x.1.payload true) d) d

/-! ## Rebase of an exhausted registry pool (R231) -/

/-- The rebase takes effect once every device of the membership has acknowledged it: the entry is reset, and the device that
proposed it answers its order. -/
def finishRebase (e : Env) (d : Dp) : Dp :=
  match d.sh.rebase with
  | none => d
  | some (c, acks, o) =>
    if (memberRanks d.sh.reg).all (fun r => acks.testBit r) then
      let d := { d with sh := { d.sh with
          rebase := none
          sea := d.sh.sea.put 0 { raisedAt := e.now, claim := c, source := 4, refusals := 0 }
          shadow := d.sh.shadow.put 0 c.toNat
          epochHigh := without 0 d.sh.epochHigh } }
      match o with
      | some o => answerOrder e o msSuccess 0 (leBytes 4 c.toNat) d
      | none => d
    else d

/-- An acknowledgement of a rebase. -/
def rebaseAck (e : Env) (c : BitVec 32) (r : Nat) (d : Dp) : Dp :=
  match d.sh.rebase with
  | some (k, acks, o) =>
    if k = c then finishRebase e { d with sh := { d.sh with rebase := some (c, acks ||| 2 ^ r, o) } } else d
  | none =>
    if d.claimOf 0 = c then d else finishRebase e { d with sh := { d.sh with rebase := some (c, 2 ^ r, none) } }

/-- A rebase is proposed: every device acknowledges it to every other. -/
def rebasePropose (e : Env) (c : BitVec 32) (d : Dp) : Dp :=
  if exhausted e d 0 then
    sendEach e .control (otherRanks e d) (fun r => header e d r 0) (.rebase (.ack c)) (rebaseAck e c e.rank d)
  else d

/-- EPOCH_REBASE of the registry pool itself, at the head that took it. -/
def proposeRebase (e : Env) (o : Order) (d : Dp) : Dp :=
  if !((leaseAt d.sh.reg e.now 0).any (fun l => l.holder = holderOf o)) then answerOrder e o msAuthority 0 [] d
  else match d.sh.rebase, (d.sh.reg.pool 0).bind (fun p => (succession d.sh.reg p).find? (fun r => present e d r)) with
    | none, some r =>
      if allPresent e d d.sh.reg then
        let c := mkClaim 1 r
        let d := { d with sh := { d.sh with rebase := some (c, 0, some o) } }
        rebasePropose e c (sendEach e .control (otherRanks e d) (fun k => header e d k 0) (.rebase (.propose c)) d)
      else answerOrder e o msMemberAbsent 0 [] d
    | _, _ => answerOrder e o msMemberAbsent 0 [] d

/-! ## Orders at their head (R395) -/

/-- Deliver an order to the registry steward, this device or another; with none it waits. -/
def deliverOrder (e : Env) (o : Order) (d : Dp) : Dp :=
  let told (r : Nat) (d : Dp) : Dp := { d with sh := { d.sh with
      forwarded := d.sh.forwarded.map (fun x => if sameOrder x.1 o then (x.1, x.2.1, r) else x) } }
  match stewardOf e d 0 with
  | none => if o.opcode = 0x0713 && orderPool o = 0 && exhausted e d 0 then proposeRebase e o d else d
  | some r =>
    if r = e.rank then takeOrder e o (told r d)
    else send e .control 3 (header e d r 0) (.order (.order o)) (told r d)

/-- A head sends an order and keeps it until it is answered. -/
def sendOrder (e : Env) (o : Order) (d : Dp) : Dp :=
  deliverOrder e o { d with sh := { d.sh with forwarded := d.sh.forwarded ++ [(o, e.now, noRank)] } }

/-- The order of a mailbox's running request. -/
def mailOrder (e : Env) (m : Mbx) (x : Mail) (r : MbReq) : Order :=
  { opcode := r.opcode, payload := r.payload, rank := e.rank, port := mbxPort m, session := x.session, token := r.token }

/-- A mailbox's request goes to the registry steward, and its response waits. -/
def forwardRequest (e : Env) (m : Mbx) (d : Dp) : Dp :=
  match d.request m with
  | none => d
  | some r => sendOrder e (mailOrder e m (d.mail m) r) (d.wait m)

/-- An order of the device's own. -/
def ownOrder (e : Env) (d : Dp) (op token : Nat) (payload : List Byte) : Order :=
  { opcode := op, payload := payload, rank := e.rank, port := ownPort, session := d.ring.session,
    token := BitVec.ofNat 32 token }

/-- The order of a committed SECURE_DISCARD for its job (Table 2-5 step 1), sent once. -/
def startSd (e : Env) (c : Cmd) (d : Dp) : Dp :=
  let o := ownOrder e d sdOpcode c.order (leBytes 8 c.pool ++ leBytes 8 c.lba ++ leBytes 8 c.len ++ leBytes 8 c.detail)
  if d.sh.forwarded.any (fun x => sameOrder x.1 o) then d else sendOrder e o d

/-! ## What follows every command -/

/-- Forwarded orders go to a new registry steward, and orders given on go to a pool's new steward (R395). -/
def resendOrders (e : Env) (d : Dp) : Dp :=
  let d := (d.sh.forwarded.filter (fun x => (stewardOf e d 0).any (fun r => r != x.2.2))).foldl
    (fun d x => deliverOrder e x.1 d) d
  if isSteward d 0 then
    (d.sh.delegated.filter (fun x => (stewardOf e d (orderPool x.1)).any (fun r => r != x.2))).foldl
      (fun d x => giveOrder e x.1 d) d
  else d

/-- Commands of this head still run in a pool (R38). -/
def poolBusy (d : Dp) (h : Nat) : Bool :=
  d.vq.cmds.any (fun c => c.pool = h && c.checked && c.stage = .running)

/-- A pool being deleted: this head says once that its commands have ended, and the registry steward commits the deletion
when every present device has said so and the secure-discard job has finished (R38, R39). -/
def drainPool (e : Env) (h : Nat) (d : Dp) : Dp :=
  match d.sh.reg.pool h, stewardOf e d 0 with
  | some p, some r =>
    if p.state != .deleting then d
    else
      let d := if poolBusy d h || d.sh.drainTold.contains (h, r) then d
        else
          let d := { d with sh := { d.sh with drainTold := d.sh.drainTold ++ [(h, r)] } }
          if r = e.rank then { d with sh := { d.sh with drained := addNew (h, e.rank) d.sh.drained } }
          else send e .control 3 (header e d r h) (.order (.drained h)) d
      let jobDone := match p.deleteJob with
        | none => true
        | some j => d.sh.regNext.jobs.all (fun x => x.id != j || x.state = .done || x.state = .donePartial)
      if isSteward d 0 && jobDone && (presentMembers e d).all (fun k => d.sh.drained.contains (h, k)) &&
          (d.sh.regNext.pool h).isSome then
        let g := d.sh.regNext
        let after := dropLease { g with pools := g.pools.filter (fun q => q.handle != h) } h
        changeRegistry e none after 0 []
          { d with sh := { d.sh with drained := d.sh.drained.filter (fun x => x.1 != h) } }
      else d
  | _, _ => d

def drainPools (e : Env) (d : Dp) : Dp :=
  let d := { d with sh := { d.sh with
      drainTold := d.sh.drainTold.filter (fun x => (d.sh.reg.pool x.1).any (fun (p : PoolRec) => p.state = PoolState.deleting)) } }
  ((d.sh.reg.pools.filter (fun (p : PoolRec) => p.state = PoolState.deleting)).map PoolRec.handle).foldl (fun d h => drainPool e h d) d

/-- A member whose reserve is CRITICAL asks for a hot spare that is present (R142). -/
def askSpare (e : Env) (d : Dp) : Dp :=
  if d.med.reserve < 2 || !hasLeaf d.sh.reg e.rank || d.sh.forwarded.any (fun x => x.1.opcode = spareOpcode) then d
  else match d.sh.reg.members.find? (fun m => m.spare && present e d m.rank && !hasLeaf d.sh.reg m.rank) with
    | none => d
    | some m => sendOrder e (ownOrder e d spareOpcode (d.sh.reg.applied.length) (leBytes 1 e.rank ++ leBytes 1 m.rank)) d

/-- Pools with a leaf on this rank. -/
def leafPools (e : Env) (d : Dp) : List Nat :=
  (d.sh.reg.pools.filter (fun (p : PoolRec) => p.ranks.contains e.rank)).map PoolRec.handle

/-- A member that takes no new sherds, worn or with too little hold-up energy, tells the steward of each of its pools once
(R142, R500, Table 6-3). -/
def tellWorn (e : Env) (d : Dp) : Dp :=
  if !noSherds d then (if d.med.wornTold.isEmpty then d else { d with med := { d.med with wornTold := [] } })
  else ((leafPools e d).filter (fun h => !d.med.wornTold.contains h)).foldl (fun d h =>
    match stewardOf e d h with
    | none => d
    | some r =>
      let d := { d with med := { d.med with wornTold := d.med.wornTold ++ [h] } }
      send e .control 3 (header e d r h) (.order .worn) d) d

/-- The registry steward records a member's figures (R34, R43, R142). -/
def takeFigures (e : Env) (rank dram prov : Nat) (low : Bool) (d : Dp) : Dp :=
  let g := d.sh.regNext
  match isSteward d 0, g.member rank with
  | true, some m =>
    let m' := { m with dram := dram, prov := prov, low := low }
    if m' = m then d
    else changeRegistry e none { g with members := updateWhere (fun (x : MemberRec) => x.rank = rank) (fun _ => m') g.members } 0 [] d
  | _, _ => d

/-- A member whose figures have changed tells the registry steward: installed DRAM, provisionable capacity (R117), and whether its
reserve is LOW. -/
def tellFigures (e : Env) (d : Dp) : Dp :=
  if !d.sh.figDue then d
  else match stewardOf e d 0 with
    | none => d
    | some r =>
      let d := { d with sh := { d.sh with figDue := false } }
      let p := provisionable e d (stripeWidth e d)
      let low := d.med.reserve != 0
      if r = e.rank then takeFigures e e.rank e.dramBytes p low d
      else send e .control 3 (header e d r 0) (.order (.figures e.dramBytes p low)) d

/-- The reserve of R142 after whatever changed it, and MEDIA_FAILED with fewer than eight good channels (R543). -/
def checkMedia (e : Env) (d : Dp) : Dp :=
  if !e.ready || e.safe then d
  else
    let d := checkReserve e d
    let few : Bool := (goodChans d).length < 8
    if few && !d.med.failed then
      logE e 0x0304 5 srcFirmware [(goodChans d).length] { d with med := { d.med with failed := true } }
    else { d with med := { d.med with failed := few } }

end Sys2Proof.Machine
end

