-- ==== Sys2Proof/Machine/Catchup.lean ====
section
/-! DEFINITION. Catching up (R212): the rows of a region, which regions are done, and the reports to the steward; and the end of
a reshape (R217). -/

namespace Sys2Proof.Machine

/-- A row lies in a layout: that layout holds some of its LBAs (R216). -/
def rowGoverned (p : PoolRec) (l : Lay) (row : Nat) : Bool :=
  (l.rowLbas row).any (fun x => (p.layOf x.1).gen = l.gen || (p.layOf (x.1 + x.2 - 1)).gen = l.gen)

/-- The rows of a layout that hold an LBA of a region and a sherd of a rank. -/
def layRegionRows (p : PoolRec) (l : Lay) (rank region : Nat) : List Nat :=
  let lo := region * 16384
  let hi := min (lo + 16384) l.cap
  if hi ≤ lo then []
  else match l.place lo, l.place (hi - 1) with
    | some a, some b =>
      ((List.range (b.row + 1 - a.row)).map (fun i => a.row + i)).filter (fun row =>
        (rowUnits l row).any (fun x => x.2 = rank) && rowGoverned p l row)
    | _, _ => []

/-- The rows of a region in which a rank holds a sherd, in the layout or layouts of the pool. -/
def regionRows (p : PoolRec) (rank region : Nat) : List (Lay × Nat) :=
  (p.lay :: p.reshape.toList.map p.newLay).flatMap (fun l => (layRegionRows p l rank region).map (fun row => (l, row)))

/-- Rows of a region that this device has resynced since the region was last named. -/
def rowsDone (d : Dp) (pool region : Nat) : List Nat :=
  (d.sh.resyncing.find? (fun x => x.1 = pool && x.2.1 = region)).elim [] (fun x => x.2.2)

/-- A member's word that a region is resynced: the steward writes RESYNC_DONE unless a MISSED record has named the region
since (R212). The report carries how many MISSED records of the region its sender has seen. -/
def regionDone (e : Env) (pool rank region seen : Nat) (d : Dp) : Dp :=
  let k := viewKey pool rank
  let n := (d.sh.missed.filter (fun m => m = (k, region))).length
  let due := (undurable d pool).any (fun r => (r.type = .missed || r.type = .resyncDone) && r.arg = regionArg rank region)
  if n != 0 && n = seen && !due then appendNew e .resyncDone pool (regionArg rank region) d else d

/-- A mark in a region's list that it has been reported done under a claim. -/
def reportMark (c : BitVec 32) : Nat := 2 ^ 60 + c.toNat

/-- This device reports a region of its bitmap done once every row of it is (R212); one without a sherd of its rank has none. -/
def reportRegion (e : Env) (p : PoolRec) (g : Nat) (d : Dp) : Dp :=
  let h := p.handle
  let done := rowsDone d h g
  let mark := reportMark (d.claimOf h)
  if done.contains mark || !(regionRows p e.rank g).all (fun x => done.contains (rowKey x.1 x.2)) then d
  else
    let n := (d.sh.missed.filter (fun m => m = (viewKey h e.rank, g))).length
    if isSteward d h then regionDone e h e.rank g n d
    else match stewardOf e d h with
      | none => d
      | some r =>
        let d := { d with sh := { d.sh with
            resyncing := d.sh.resyncing.filter (fun x => !(x.1 = h && x.2.1 = g)) ++ [(h, g, done ++ [mark])] } }
        send e .control 4 { header e d r h with arg := n } (.view (.resyncDone e.rank g)) d

/-- The regions that this device's own rank has to resync in a pool. -/
def ownRegions (e : Env) (d : Dp) (h : Nat) : List Nat :=
  ((d.sh.missed.filter (fun m => m.1 = viewKey h e.rank)).map Prod.snd).eraseDups

/-- Every region that is done is reported. -/
def reportRegions (e : Env) (d : Dp) : Dp :=
  (d.sh.reg.pools.filter (fun (p : PoolRec) => p.ranks.contains e.rank && admitted d p.handle &&
      memberState d p.handle e.rank = .catchingUp)).foldl
    (fun d p => (ownRegions e d p.handle).foldl (fun d g => reportRegion e p g d) d) d

/-- A steward whose tidemark has passed the last row orders the end of the reshape. -/
def finishReshapes (e : Env) (d : Dp) : Dp :=
  (d.sh.reg.pools.filter (fun (p : PoolRec) => isSteward d p.handle && p.reshape.any (fun r => r.rows ≤ r.tidemark))).foldl
    (fun d p =>
      let o := ownOrder e d reshapedOpcode p.layoutGen (leBytes 1 p.handle)
      if d.sh.forwarded.any (fun x => sameOrder x.1 o) then d else sendOrder e o d) d

end Sys2Proof.Machine
end

