-- ==== Sys2Proof/Machine/Ladder.lean ====
section
/-! DEFINITION. Reading the medium: the read-retry ladder (R105 to R107, R154 to R157, Table 3-8), die-stripe rebuild (stage 3), and
the reads of a relocation (R55, R123, R130, R134, R158). -/

namespace Sys2Proof.Machine

/-! ## What a decode shows (R155 to R157) -/

/-- The codeword that stands at a place of a row; codeword i of the XOR page of stripe s is 4 × (2^32 + s) + i. -/
def storedCw (d : Dp) (row cw : Nat) : Option Sealed :=
  if 4 * xorBase ≤ cw then (d.row row).map (fun r => (r.xors.get [] (cw / 4 - xorBase)).getD (cw % 4) zeroSealed)
  else (d.cw ⟨row, cw⟩).map Codeword.body

/-- The back-pointer that a read of a codeword expects (R155). -/
def Codeword.pointer (k : Codeword) : BitVec 64 := backPtr k.pool k.kind k.addr

/-- What a sense of a codeword comes to: it decodes, with the codeword and the count of corrected bits (R157); it decodes and belongs
elsewhere; or the read has to go on, with the number of failed parity checks. -/
inductive Sensed where
  | good (b : Blk) (x : Sealed) (corrected : Nat)
  | misplaced (found : BitVec 64)
  | again (checks : Nat)
deriving DecidableEq, Repr

/-- The checks of R155 on a decoder's answer. A codeword of an XOR page is a codeword and no more. -/
def senseCw (e : Env) (d : Dp) (row cw : Nat) (x : CwResult) : Sensed :=
  match x, storedCw d row cw with
  | .failed n, _ => .again n
  | .decoded _ _, none => .again 0
  | .decoded flips other, some y =>
    let z := other.getD y
    if 4 * xorBase ≤ cw then .good ⟨[], 0⟩ z 0
    else match d.cw ⟨row, cw⟩ with
      | none => .again 0
      | some k => match checkCw e.atRest k.pointer z with
        | .good b => .good b z flips.length
        | .misplaced found => .misplaced found
        | .unsealed => .again 0

/-! ## The climb (Table 3-8) -/

/-- Entries that a read may try: those of the profile, where it lists read offsets (R79). -/
def entriesOf (d : Dp) : Nat := if d.kiln.profile.lists .readOffset then min 16 d.kiln.profile.offsets else 1

/-- The next sense of a read that has not decoded: at most 7 further entries in table order with hard decode; then two extra senses
around the entry at which the fewest checks failed, and two more (R154): 12 array reads in all (R107). None: stage 3 is next. -/
def nextClimb (entries own : Nat) (at_ : Climb) (checks : Nat) : Option Climb :=
  let tried := if at_.stage = 2 then at_.tried else at_.tried ++ [(if at_.stage = 0 then own else at_.entry, checks)]
  let first := (tried.headD (own, 0)).1
  let best := ((leastBy Prod.snd tried).getD (own, 0)).1
  if at_.stage != 2 && tried.length < min 8 entries then
    some { stage := 1, entry := (first + tried.length) % max 1 entries, tried := tried, extra := 0, reads := at_.reads + 1 }
  else if 1 < entries && at_.extra < 4 then
    some { stage := 2, entry := best, tried := tried, extra := at_.extra + 2, reads := at_.reads + 2 }
  else none

/-- The entry of a codeword's block and page type, and the key it stands under (R105). -/
def cwOffset (d : Dp) (row cw : Nat) : Nat × Nat :=
  match d.row row with
  | none => (0, 0)
  | some r =>
    let p := pageAt r.width (cw / 4)
    (offsetKey p.2 (pageType d r p.1), offsetOf r p.2 (pageType d r p.1))

/-- A stage that decodes at an entry writes it as the block's own (R106). -/
def keepOffset (row cw : Nat) (at_ : Climb) (d : Dp) : Dp :=
  if at_.stage = 0 then d
  else d.onRow row (fun r => { r with offsets := r.offsets.put (cwOffset d row cw).1 at_.entry })

/-! ## Copies of a relocation (R55, R158) -/

/-- The place in its pool of a codeword, by its summary (R57). -/
def cwPlace (d : Dp) (k : Codeword) : Option (Nat × Place) :=
  match d.sh.reg.pool k.pool with
  | none => none
  | some p =>
    let g := p.genOf k.localBlk
    if k.kind = 0 then ((p.layGen g).place k.addr).map (fun q => (g, q))
    else some (g, ⟨k.addr / 256, if k.kind = 1 then unitP else unitQ, k.addr % 256⟩)

/-- A codeword of a relocation is dealt with. -/
def movedCw (row cw : Nat) (d : Dp) : Dp :=
  d.onRow row (fun r => { r with moving := r.moving.map (fun (m : Move) => { m with asked := m.asked.filter (· != cw) }) })

/-- The last codeword of a relocation has been staged: the page it stands on is filled. -/
def finishMove (e : Env) (row : Nat) (d : Dp) : Dp :=
  match (d.row row).bind Row.moving with
  | none => d
  | some m =>
    if m.todo.isEmpty && m.asked.isEmpty then
      match m.into.orElse (fun _ => (openRowOf d m.use).map Row.id) with
      | some id => fillPage e id ⟨m.cls, m.task⟩ d
      | none => d
    else d

/-- A decoded codeword is copied with the same seal and new parity (R158), where it is still current; where no row takes it, its page is
read again later. -/
def copyCw (e : Env) (row cw : Nat) (x : Sealed) (d : Dp) : Dp :=
  match d.cw ⟨row, cw⟩, (d.row row).bind Row.moving with
  | some k, some m =>
    if !isCurrent d row cw then finishMove e row (movedCw row cw d)
    else
      let k := { k with body := encodeCw x, verified := false, src := some ⟨row, cw⟩ }
      let z : Dp × Bool := match m.into.bind d.row with
        | some r =>
          if !r.full then (putCw e r.id ⟨m.cls, m.task⟩ k d, true)
          else let z := stageCws e m.use ⟨m.cls, m.task⟩ [k] d; (z.1, z.2.any Option.isSome)
        | none => let z := stageCws e m.use ⟨m.cls, m.task⟩ [k] d; (z.1, z.2.any Option.isSome)
      if z.2 then finishMove e row (movedCw row cw z.1) else returnRead [cw] (.move row) z.1
  | _, _ => movedCw row cw d

/-! ## What a read comes to -/

/-- Nothing on this member gives the codeword (stage 4): the head rebuilds it, for a relocation under a REPAIR ticket of this device. -/
def giveUpRead (e : Env) (row cw : Nat) (why : ReadWhy) (d : Dp) : Dp :=
  match why with
  | .fetch f => if d.sh.fetches.contains f then loseUnit e f (d.dropFetch f) else d
  | .move _ =>
    let d := match (d.cw ⟨row, cw⟩).bind (fun k => (cwPlace d k).map (fun x => (k, x))) with
      | some (k, x) => if isCurrent d row cw then repairUnit e k.pool x.1 x.2 [] [] d else d
      | none => d
    finishMove e row (movedCw row cw d)
  | .stripe _ => d

/-- A codeword is in hand for its purpose. -/
def landGood (e : Env) (row cw : Nat) (why : ReadWhy) (b : Blk) (x : Sealed) (d : Dp) : Dp :=
  match why with
  | .fetch f =>
    if d.sh.fetches.contains f then
      deliverUnit e f (some b) (((d.cw ⟨row, cw⟩).map Codeword.seqn).getD 0) (d.dropFetch f)
    else d
  | .move id => copyCw e id cw x d
  | .stripe j =>
    { d with kiln := { d.kiln with jobs := updateWhere (fun (y : StripeJob) => y.id = j) (fun y => { y with
        asked := y.asked.filter (· != cw / 4), sum := [xorSealed (y.sum.headD zeroSealed) x] }) d.kiln.jobs } }

/-- Take a die-stripe rebuild out. -/
def dropJob (id : Nat) (d : Dp) : Dp :=
  { d with kiln := { d.kiln with jobs := d.kiln.jobs.filter (fun j => j.id != id) } }

/-- A second page of the stripe fails: the member cannot rebuild (R129). -/
def failJob (e : Env) (j : StripeJob) (d : Dp) : Dp := giveUpRead e j.row (4 * j.page + j.slot) j.why (dropJob j.id d)

/-- A read needed die-stripe rebuild (Table 4-3): where no unit of the row is fenced, the row is refreshed and the block is suspect,
and one that was suspect already is retired. -/
def suspectBlock (e : Env) (id pos : Nat) (d : Dp) : Dp :=
  match d.row id with
  | none => d
  | some r =>
    if r.blocks.any (fun b => (d.die b.1 b.2.1).fenced || (d.chan b.1).fenced) then d
    else
      let d := scheduleRefresh e id 2 d
      let b := r.blocks.getD pos (0, 0, 0)
      if d.med.suspect.contains b then retireBlock e b 4 d
      else { d with med := { d.med with suspect := d.med.suspect ++ [b] } }

/-- Stages 0 to 2 have failed: the codeword is rebuilt from its die stripe once that is closed, else by the head. -/
def stage3 (e : Env) (row cw : Nat) (o : DieOp) (why : ReadWhy) (d : Dp) : Dp :=
  match why with
  | .stripe j => match d.kiln.jobs.find? (fun x => x.id = j) with
    | some x => failJob e x d
    | none => d
  | _ => match d.row row with
    | none => giveUpRead e row cw why d
    | some r =>
      if stripeClosed r (cw / 4) then
        startStripe row cw why o.cls o.task (suspectBlock e row (pageAt r.width (cw / 4)).2 d)
      else giveUpRead e row cw why d

/-- One codeword of a read (R106, R155, R156, R160): it is handed on, with its stage counted; or the read climbs; or it goes to stage 3. A
decode that does not succeed is a failure at C6. -/
def landCw (e : Env) (c n row : Nat) (o : DieOp) (why : ReadWhy) (at_ : Climb) (cw : Nat) (x : CwResult) (d : Dp) : Dp :=
  match senseCw e d row cw x with
  | .good b y corrected =>
    let d := keepOffset row cw at_ (count 5 at_.stage 1 d)
    landGood e row cw why b y (if 4 * xorBase ≤ cw then d else earlyWarning e row at_.stage corrected d)
  | .misplaced found =>
    let d := checkFail e 6 e.rank d
    let d := logAt e.now 0x0501 4 srcKiln (args64 ((d.cw ⟨row, cw⟩).elim 0 (fun k => k.pointer.toNat)) found.toNat) d
    stage3 e row cw o why d
  | .again checks =>
    let d := checkFail e 6 e.rank d
    match nextClimb (entriesOf d) (cwOffset d row cw).2 at_ checks with
    | some at_ => enqueueTask e c n (.read row [cw] why at_) o.cls o.task d
    | none => stage3 e row cw o why d

/-- A read's results, codeword by codeword; a row that has gone meanwhile sends its reader to look the block up anew. -/
def landRead (e : Env) (c n : Nat) (o : DieOp) (results : List CwResult) (d : Dp) : Dp :=
  match o.kind with
  | .read row cws why at_ =>
    match d.row row with
    | none => returnRead cws why d
    | some r =>
      if r.erasing.isSome then returnRead cws why d
      else
        let d := (List.range (if at_.stage = 2 then 2 else 1)).foldl (fun d _ =>
          (pagesOf cws).foldl (fun d q => countRead e row (pageAt r.width q).2 d) d) d
        (cws.zipIdx).foldl (fun d x => landCw e c n row o why at_ x.1 (results.getD x.2 (.failed 0)) d) d
  | _ => d

/-! ## Die-stripe rebuild -/

/-- A page is on the medium: it is neither staged only, nor under program, nor still to be verified. -/
def onMedium (d : Dp) (r : Row) (page : Nat) : Bool :=
  let busy (k : OpKind) : Bool := match k with
    | .program id ps => id = r.id && ps.contains page
    | _ => false
  !r.ready.any (fun p => p.page = page) &&
  !d.kiln.dies.any (fun x => x.2.queue.any (fun o => busy o.kind) || x.2.running.any (fun y => busy y.op.kind ||
    y.rest.any (fun o => busy o.kind)) || x.2.suspended.any (fun y => busy y.op.kind) || x.2.cut.any (fun o => busy o.kind)) &&
  (xorBase ≤ page || (r.cws[4 * page]?).any Codeword.verified)

/-- The reads of a rebuild go to the other dies of the stripe, as pages come onto the medium; a second page that cannot be read ends
it. -/
def pumpJob (e : Env) (id : Nat) (d : Dp) : Dp :=
  match d.kiln.jobs.find? (fun j => j.id = id) with
  | none => d
  | some j => match d.row j.row with
    | none => returnRead [4 * j.page + j.slot] j.why (dropJob id d)
    | some r =>
      let die (q : Nat) : Nat × Nat := let b := r.blocks.getD (pageAt r.width q).2 (0, 0, 0); (b.1, b.2.1)
      if j.todo.any (fun q => r.dead.contains q || !dieReads d (die q).1 (die q).2) then failJob e j d
      else j.todo.foldl (fun d q =>
        let k : OpKind := .read j.row [4 * q + j.slot] (.stripe id) Climb.start
        let at_ := die q
        if onMedium d r q && hasRoom d at_.1 at_.2 k then
          enqueueTask e at_.1 at_.2 k j.cls j.task { d with kiln := { d.kiln with
            jobs := updateWhere (fun (y : StripeJob) => y.id = id) (fun y => { y with
              todo := y.todo.filter (· != q), asked := y.asked ++ [q] }) d.kiln.jobs } }
        else d) d

/-- A rebuild has all its pages: the XOR is the codeword, where R155 holds of it. -/
def endJob (e : Env) (j : StripeJob) (d : Dp) : Dp :=
  let cw := 4 * j.page + j.slot
  let x := j.sum.headD zeroSealed
  match d.cw ⟨j.row, cw⟩ with
  | none => returnRead [cw] j.why (dropJob j.id d)
  | some k => match checkCw e.atRest k.pointer x with
    | .good b => landGood e j.row cw j.why b x (count 5 3 1 (dropJob j.id d))
    | _ => failJob e j (checkFail e 9 e.rank d)

/-- Every rebuild goes on, and those that have all their pages end. -/
def pumpJobs (e : Env) (d : Dp) : Dp :=
  let d := d.kiln.jobs.foldl (fun d j => pumpJob e j.id d) d
  (d.kiln.jobs.filter (fun j => j.todo.isEmpty && j.asked.isEmpty)).foldl (fun d j => endJob e j d) d

/-! ## Reads of a relocation -/

/-- The current codewords of a page that a relocation has still to copy. -/
def pageTodo (d : Dp) (id : Nat) (m : Move) (q : Nat) : List Nat :=
  ((List.range 4).map (4 * q + ·)).filter (fun i => isCurrent d id i && !m.asked.contains i &&
    !d.med.rows.any (fun r => r.cws.zipIdx.any (fun k => k.1.src = some ⟨id, i⟩ && !r.dead.contains (k.2 / 4))))

/-- The pages that one read takes with the first: one of each plane at its page index of its block (R79). -/
def readGroup (d : Dp) (r : Row) : List Nat → List Nat
  | [] => []
  | q :: t =>
    let idx (p : Nat) : Nat × Nat := ((pageAt r.width p).2, pageIndex d (pageAt r.width p).1)
    ((q :: t).filter (fun p => idx p = idx q)).take
      (if d.kiln.profile.lists .multiPlane then max 1 (min 6 d.kiln.profile.planes) else 1)

/-- One group of pages of a relocation is read (R69: its segments come in first), or rebuilt from die stripes where its die cannot be
read. -/
def pumpGroup (e : Env) (id : Nat) : Nat → Dp → Dp
  | 0, d => d
  | fuel + 1, d =>
    match d.row id with
    | none => d
    | some r => match r.moving with
      | none => d
      | some m => match readGroup d r m.todo with
        | [] => d
        | q :: t =>
          let cws := (q :: t).flatMap (pageTodo d id m)
          let absent := (cws.filterMap (fun i => r.cws[i]?)).filter (fun k => !resident d k.pool k.localBlk)
          let b := r.blocks.getD (pageAt r.width q).2 (0, 0, 0)
          let k : OpKind := .read id cws (.move id) Climb.start
          let go (d : Dp) : Dp := d.onRow id (fun r => { r with moving := some { m with
            todo := m.todo.filter (fun p => !(q :: t).contains p), asked := m.asked ++ cws } })
          if !absent.isEmpty then absent.foldl (fun d k => wantSeg d k.pool k.localBlk) d
          else if cws.isEmpty then pumpGroup e id fuel (finishMove e id (go d))
          else if !dieReads d b.1 b.2.1 then
            pumpGroup e id fuel (cws.foldl (fun d i =>
              if stripeClosed r (i / 4) then startStripe id i (.move id) m.cls m.task d
              else giveUpRead e id i (.move id) d) (go d))
          else if hasRoom d b.1 b.2.1 k then pumpGroup e id fuel (enqueueTask e b.1 b.2.1 k m.cls m.task (go d))
          else d

/-- Every relocation goes on. -/
def pumpMoves (e : Env) (d : Dp) : Dp :=
  (d.med.rows.filter (fun r => r.moving.isSome)).foldl (fun d r =>
    pumpGroup e r.id (r.moving.elim 0 (fun m => m.todo.length)) d) d

/-- What the flash has to do goes to the dies from READY on, outside Neap, Ebb and Last Tide: programs, erases, rebuilds, relocations. -/
def flashWork (e : Env) (d : Dp) : Dp :=
  if !e.flash || !kilnRuns e d || e.tide then d
  else issueErases e (issuePrograms e (sweepRows e (pumpJobs e (pumpMoves e d))))

end Sys2Proof.Machine
end

