-- ==== Sys2Proof/Machine/Join.lean ====
section
/-! DEFINITION. Joining the shoal (R211, R214, R252, R290, R291), what follows a rebase and exhausted epochs (R231), pool states
as this device last saw them (Table 2-2), and one round of all the work that follows a command. -/

namespace Sys2Proof.Machine

/-! ## JOIN (Table 8-9 steps 4 to 6) -/

/-- The claim of the registry pool's steward as this device knows it: its Seawall entry once admitted there, and before that
what role entries and CLAIM announcements tell (R252). -/
def joinClaim (d : Dp) : Option Nat :=
  let c := (d.claimOf 0).toNat
  let h := d.sh.steward.get 0 0
  if admitted d 0 then (if claimValid (d.claimOf 0) then some c else none)
  else if h != 0 && c ≤ h then some h else none

/-- This device sends its JOIN: READY, a port up, its rank heard from no other device, and a pool that has not admitted it;
once for each claim of the registry pool's steward. -/
def sendJoin (e : Env) (d : Dp) : Dp :=
  let done := d.sh.reg.pools.all (fun p => admitted d p.handle)
  if !e.ready || e.safe || !anyLink d || d.ring.ownHeard || done then d
  else match joinClaim d with
    | none => d
    | some c =>
      if d.sh.joinSent = some c then d
      else
        let d := { d with sh := { d.sh with joinSent := some c } }
        let boot : Word := BitVec.ofNat 64 e.boot
        if c % 256 = e.rank then
          { d with sh := { d.sh with joins := d.sh.joins ++ [(noPool, e.rank, e.serial, boot, e.anchorSeq)] } }
        else send e .joinRequest 3 (header e d (c % 256) noPool) (.join e.serial boot e.anchorSeq) d

/-- A JOIN reaches the steward that is to handle it; a newer one of the same rank takes its place. -/
def holdJoin (j : Nat × Nat × Word × Word × Nat) (d : Dp) : Dp :=
  { d with sh := { d.sh with
      joins := d.sh.joins.filter (fun x => !(x.1 = j.1 && x.2.1 = j.2.1)) ++ [j] } }

/-- The registry pool's steward checks a JOIN (R290, R291, R214): a member whose serial number matches goes on to every
pool's steward; a replacement is substituted for its own rank when AUTO_REPLACE is ON; any other waits outside. -/
def routeJoin (e : Env) (j : Nat × Nat × Word × Word × Nat) (d : Dp) : Dp :=
  let r := j.2.1
  let serial := j.2.2.1
  if !isSteward d 0 then d
  else match d.sh.regNext.member r with
    | none => holdJoin j d
    | some m =>
      if m.serial = serial then
        if (d.sh.reg.member r).any (fun x => x.serial = serial) then
          d.sh.reg.pools.foldl (fun d p => holdJoin (p.handle, j.2) d) d
        else holdJoin j d
      else
        let g := substRank r r (putMember d.sh.regNext (memberOf r serial))
        if e.param d 0x0605 = 1 && (replaceStatus g r).isNone then holdJoin j (changeRegistry e none g 0 [] d)
        else holdJoin j d

/-- A pool's steward admits a JOIN (Table 6-7 step 2): a rank it still holds CURRENT or CATCHING_UP goes ABSENT first (R211),
the admission carries the member states and bitmaps (R580) and which tickets committed with the rank's sherds (R514), and a rank of the tree goes CATCHING_UP. -/
def admitJoin (e : Env) (h r : Nat) (d : Dp) : Dp :=
  let d := declareAbsent e h r d
  let states := (d.sh.view.filter (fun x => x.1 / 16 = h)).map (fun x => (x.1 % 16, x.2))
  let maps := (d.sh.missed.filter (fun m => m.1 / 16 = h)).map (fun m => (m.1 % 16, m.2))
  let g := if h = 0 then some d.sh.reg else none
  let d := send e .joinAdmit 3 { header e d r h with claim := (d.roleD h).claim } (.admission states maps (commitSeqs d h r) g) d
  let state := (memberPending d h r).getD (stateCode (memberState d h r))
  if (d.sh.reg.pool h).any (fun p => p.ranks.contains r) && state != stateCode .retired then
    appendNew e .member h (memberArg r .catchingUp) d
  else d

/-- A JOIN for one pool: admitted here, sent on to the pool's steward, or kept until there is one. -/
def poolJoin (e : Env) (j : Nat × Nat × Word × Word × Nat) (d : Dp) : Dp :=
  if isSteward d j.1 then admitJoin e j.1 j.2.1 d
  else match stewardOf e d j.1 with
    | some s => if s = e.rank then d
      else send e .joinRequest 3 { header e d s j.1 with arg := j.2.1 } (.join j.2.2.1 j.2.2.2.1 j.2.2.2.2) d
    | none => holdJoin j d

/-- Every JOIN that waits here goes on if it can. -/
def joinStep (e : Env) (d : Dp) : Dp :=
  let step (d : Dp) (j : Nat × Nat × Word × Word × Nat) : Dp :=
    if j.1 = noPool then routeJoin e j d else poolJoin e j d
  let once (d : Dp) : Dp := d.sh.joins.foldl step { d with sh := { d.sh with joins := [] } }
  if d.sh.joins.isEmpty then d else once (once d)

/-! ## Exhausted epochs and pool states (R230, R231, Table 2-2) -/

/-- A device that a rebase names takes the role it gives. -/
def takeRebased (e : Env) (d : Dp) : Dp :=
  (d.sh.sea.filter (fun x => x.2.source = 4 && rankOf x.2.claim = e.rank && !isSteward d x.1 &&
    !d.sh.relinquished.contains x.1)).foldl (fun d x => becomeSteward e x.1 x.2.claim none d) d

/-- A pool whose epochs are exhausted is logged once, with the steward and pool-state causes. -/
def noteExhausted (e : Env) (d : Dp) : Dp :=
  let now := (d.sh.reg.pools.map PoolRec.handle).filter (exhausted e d)
  let d := (now.filter (fun h => !d.sh.epochHigh.contains h)).foldl (fun d h =>
    cause e evPool (cause e evSteward (logE e 0x0703 3 srcFirmware [h, (d.claimOf h).toNat] d))) d
  { d with sh := { d.sh with epochHigh := now } }

/-- A pool that becomes READ_ONLY, or is it no longer, sets POOL_STATE. -/
def noteStates (e : Env) (d : Dp) : Dp :=
  let now := (d.sh.reg.pools.filter (readOnly e d)).map PoolRec.handle
  if e.settled && now != d.sh.roSeen then cause e evPool { d with sh := { d.sh with roSeen := now } } else d

/-! ## What follows every command -/

/-- This member tells a pool's steward of a region that it has missed (R167, R513). -/
def tellMissed (e : Env) (pool region : Nat) (d : Dp) : Dp :=
  if isSteward d pool then appendNew e .missed pool (regionArg e.rank region) d
  else match stewardOf e d pool with
    | some r => send e .control 3 (header e d r pool) (.view (.missed e.rank region)) d
    | none => d

/-- The stewards hear of the regions that this member has newly missed. -/
def tellDue (e : Env) (d : Dp) : Dp :=
  d.sh.missDue.foldl (fun d m => tellMissed e m.1 m.2 d) { d with sh := { d.sh with missDue := [] } }

/-- The other devices hear that this member's pending-mapping table is full, or is no longer (R52). -/
def tellRoom (e : Env) (d : Dp) : Dp :=
  let full := tableFull d
  if full = d.map.fullTold then d
  else sendEach e .control (otherRanks e d) (fun r => header e d r 0) (.order (.room full))
    { d with map := { d.map with fullTold := full } }

/-- A die operation runs. -/
def dieBusy (d : Dp) : Bool := d.kiln.dies.any (fun x => x.2.running.isSome)

/-- A command is outstanding on a port. -/
def cmdBusy (d : Dp) : Bool := !d.vq.cmds.isEmpty

/-- When a command or a die operation was last under way, which LED_N[0] shows for 50 ms more (Table 17-3). -/
def noteActive (e : Env) (d : Dp) : Dp :=
  if cmdBusy d || dieBusy d then { d with io := { d.io with activeAt := some e.now } } else d

/-- What follows a command at a device: sherds are placed, orders and JOINs travel, roles go on, stewards decide, heads work. -/
def workDp (e : Env) (d : Dp) : Dp :=
  let d := tellDue e (strandWork e (flashWork e (checkMedia e (settleGreens e (placeWaiting e (trackBisque e d))))))
  let d := resendOrders e d
  let d := finishPolls e d
  let d := drainPools e d
  let d := joinStep e (sendJoin e d)
  let d := takeRebased e (noteExhausted e d)
  let d := tellFigures e (tellWorn e (askSpare e d))
  let d := finishReshapes e (reportRegions e (pumpAll e d))
  let d := (d.sh.roles.map PRole.pool).foldl (fun d h => handoverStep e h d) d
  let d := headWork e (startSd e) (drillStep e d)
  noteActive e (tellRoom e (noteStates e (pumpAll e (flashWork e d))))

end Sys2Proof.Machine
end

