-- ==== Sys2Proof/Machine/Flags.lean ====
section
/-! DEFINITION. Words and lines the device computes from its state: the BAR0 registers (Tables 9-5 to 9-13), mailbox CTRL
(Table 11-1), the boot-status block (Table 16-3), FAULT_N, the LEDs and SMB_ALERT_N (R544, R545, R550), the settings and output
levels of each power state (Table 15-5, R505), the hold-up energy
(R495, R496) and the greenware limit it allows (R416). -/

namespace Sys2Proof.Machine

/-! ## Status conditions -/

/-- Codes of POWER_STATE (Table 16-3). -/
def PState.code : PState → Nat
  | .flood => 0
  | .slack => 1
  | .neap => 2
  | .ebb => 3
  | .lastTide => 4
  | .starting => 5

/-- Codes of Table 2-2 in table order. -/
def PoolState.code : PoolState → Nat
  | .creating => 0
  | .online => 1
  | .readOnly => 2
  | .deleting => 3

/-- Every pool's steward has admitted this device's JOIN (Table 9-8). -/
def joined (d : Dp) : Bool := d.sh.reg.pools.all (fun p => admitted d p.handle)

/-- A transfer of the port waits on a page request. -/
def priWait (h : HostPort) : Bool := !h.pageReqs.isEmpty

/-- One bit of a word under construction. -/
def bit (b : Bool) (i : Nat) : Nat := if b then 2 ^ i else 0

/-- VQI_ID (Table 9-6). -/
def vqiId : Nat := fld 0x564C 32 16 + fld 1 16 16 + 3

/-- DEV_CAP (Table 9-7). -/
def devCap (e : Env) (p : PortId) : Nat :=
  let port := if !e.bifurc then 0 else match p with
    | .a => 1
    | .b => 2
  fld 0xB0 56 8 + fld e.rank 52 4 + fld port 50 2 + bit e.gradeX 48 + fld (portQueues e) 32 16 + fld 32 24 8 +
    fld 4 20 4 + fld 9 16 4 + fld 6 12 4

/-- DEV_STATUS (Table 9-8). -/
def devStatus (s : State) (p : PortId) : Nat :=
  let h := s.dp.port p
  fld s.boot.code 24 8 + fld s.pwr.state.code 16 8 + bit s.boot.fatal 8 + bit s.boot.safe 7 + bit h.bmeStall 6 +
    bit (priWait h) 5 + bit h.priFailed 4 + bit s.dp.map.resident 3 + bit (joined s.dp) 2 + bit s.boot.ready 1 +
    bit h.enabled 0

/-- DEV_CTRL (Table 9-9). -/
def devCtrl (h : HostPort) : Nat := bit h.devVecEn 1 + bit h.enable 0

/-- A BAR0 device register by its offset (Table 9-5); VQ_TSYNC.BUSY reads 0, since a resynchronisation ends within its
command. -/
def regWord (s : State) (p : PortId) (off : Nat) : Nat :=
  let h := s.dp.port p
  if off = 0x00 then vqiId
  else if off = 0x08 then devCap s.env p
  else if off = 0x10 then devStatus s p
  else if off = 0x18 then devCtrl h
  else if off = 0x20 then h.tbase.toNat
  else if off = 0x28 then h.tcount
  else if off = 0x40 then h.evtCause.toNat
  else if off = 0x48 then h.evtMask.toNat
  else if off = 0x50 then s.clk.time % 2 ^ 64
  else if off = 0x58 then s.clk.boot
  else 0

/-! ## The start-up self-test (R189, R190) -/

/-- The code of the self-test that has stopped Saggar: 0x11, 0x12 or 0x31; 0 where none has. Where several fail at one start it is the
first in the order of Table 5-12 (DESIGN CHOICE: notes/assumptions/37.md). -/
def romCode (b : Boot) : Nat := ((b.selftest.take 3).find? (· != 0)).getD 0

/-- A port answers more than config space: its link is up (R525), and no self-test has stopped the device (R189). -/
def barServed (s : State) (p : PortId) : Bool := (s.dp.port p).linkUp && romCode s.boot = 0

/-! ## Mailboxes -/

/-- A mailbox is served: firmware runs and its port's link is up (R383, R527), or firmware runs, for the management port
(R394). -/
def available (e : Env) (d : Dp) : Mbx → Bool
  | .host p _ => e.fw && (d.port p).linkUp
  | .mgmt => e.fw

/-- CTRL of a mailbox (Table 11-1); GO reads 0. -/
def ctrlWord (e : Env) (d : Dp) (m : Mbx) : Nat :=
  let x := d.mail m
  fld x.session.toNat 32 32 + bit (available e d m) 31 + fld x.respLen 8 13 + bit x.vec 4 + bit x.done 2 + bit x.busy 1

/-! ## Boot-status block (Table 16-3) -/

/-- A temperature in 0.1 °C as a signed field of 16 bits. -/
def tjField (t : Int) : Nat := (t % 65536).toNat

/-- The 256 bits of the block. -/
def bootBlock (s : State) : Nat :=
  let b := s.boot
  fld b.serial.toNat 192 64 + fld b.codeAt 128 64 + fld s.clk.boot 96 32 + fld s.pwr.vinMv 80 16 +
    fld (tjField s.pwr.tj) 64 16 + fld b.straps.rank.val 52 4 + bit b.straps.safeN 51 + bit b.straps.bifurc 50 +
    bit b.straps.hsIlim 49 + fld b.straps.smbAddr.toNat 46 2 + fld s.pwr.state.code 32 8 + fld b.code 24 8 +
    fld b.stage 16 8 + bit b.safe 15 + bit b.fw 14 + bit b.ready 13 + bit s.dp.map.resident 12 + bit b.unclean 11 +
    bit b.imageB 10 + bit b.fallback 9 + 1

/-! ## FAULT_N, LEDs, SMB_ALERT_N -/

/-- A boot-status code that names a fault (Table 16-4). -/
def isFaultCode (c : Nat) : Bool := 0x10 ≤ c

/-- FAULT_N is asserted: a condition of Table 17-2 holds. -/
def faultN (s : State) : Bool :=
  (isFaultCode s.boot.code && s.boot.code != 0x50) || s.boot.fatal || 3 ≤ s.dp.med.reserve || s.dp.med.failed ||
  s.dp.bw.holdupLow || !s.dp.lane.usable || (s.pwr.state = .ebb && s.pwr.tripped) || s.sec.entropyFailed

/-- SMB_ALERT_N is asserted (R550). -/
def smbAlert (s : State) : Bool := !s.dp.io.alert.isEmpty

/-- Patterns of an LED (Table 17-3). -/
inductive Led where
  | on | hz2 | hz1 | hzHalf | off
deriving DecidableEq, Repr

/-- A die operation waits, runs or is suspended. -/
def dieWork (d : Dp) : Bool :=
  d.kiln.dies.any (fun x => x.2.running.isSome || x.2.suspended.isSome || !x.2.queue.isEmpty)

/-- A unit is fenced: a die, a channel, an engine, a coder. -/
def anyFenced (s : State) : Bool :=
  s.dp.kiln.dies.any (fun x => x.2.fenced) || s.dp.kiln.chans.any (fun x => x.2.fenced) ||
  (s.sec.glaze ++ s.sec.encoders ++ s.sec.decoders ++ s.sec.sherd).any (fun x => x.2.fenced)

/-- LED_N[0] to LED_N[2] (Table 17-3); activity is held for 50 ms of device time. -/
def led (s : State) : Nat → Led
  | 0 =>
    if cmdBusy s.dp || dieBusy s.dp || s.dp.io.activeAt.any (fun t => s.clk.time < t + 50 * msec) then .on else .off
  | 1 =>
    if s.boot.ready && (s.pwr.state = .flood || s.pwr.state = .slack) then .on
    else if s.pwr.state = .ebb || s.boot.safe then .off
    else if s.boot.fw && !s.boot.ready then .hz2
    else if s.pwr.state = .neap then .hzHalf
    else .off
  | _ =>
    if faultN s then .on
    else if anyFenced s || s.dp.sh.reg.pools.any (fun p =>
        memberState s.dp p.handle s.boot.straps.rank.val = .catchingUp || readOnly s.env s.dp p) ||
        1 ≤ s.dp.med.reserve then .hz1
    else .off

/-! ## Settings and output levels by power state (Tables 15-5 and 15-7) -/

/-- What the core runs at (Table 15-5): VCORE and body bias in mV, each from its least to its greatest value, and below which VCORE the
write assist and above which the read assist of the SRAM acts, none where it does not. -/
structure CoreSettings where
  vcore  : Nat × Nat
  bias   : Int × Int
  writes : Option Nat
  reads  : Option Nat
deriving DecidableEq, Repr

/-- Table 15-5; in Flood zone Z5 lowers VCORE (R420). In Slack the write assist acts at the one level there is. -/
def coreSettings (s : State) : CoreSettings :=
  if s.pwr.porHeld then ⟨(0, 0), (0, 0), none, none⟩
  else match s.pwr.state with
    | .slack => ⟨(600, 600), (0, 0), some 750, none⟩
    | .neap => ⟨(550, 550), (-200, -200), none, none⟩
    | .ebb => ⟨(0, 0), (0, 0), none, none⟩
    | .flood | .lastTide | .starting => ⟨(vcoreMv s.dp 700, vcoreMv s.dp 850), (0, 150), some 750, some 800⟩

/-- Levels of a group of outputs (Table 15-7). -/
inductive OutLevel where
  | float | hiZ | perLink | electricalIdle | squelched | lanes (n : Nat) | high | low | protocol | selfRefresh | driven
deriving DecidableEq, Repr

/-- The core is clamped: Last Tide has ended, and no start has followed (R511 step 7). -/
def clamped (p : Pwr) : Bool := p.waiting || p.coreHeld

/-- HP_TX of a port. -/
def hpLevel (s : State) (p : PortId) : OutLevel :=
  if s.pwr.porHeld then .float
  else if clamped s.pwr || s.pwr.state = .ebb then .hiZ
  else if s.pwr.state = .neap && (s.dp.port p).l1 then .electricalIdle
  else .perLink

/-- The TX lanes of a Causeway port: squelched once the ring is left (R286), at the width of the link else. -/
def cwLevel (s : State) (p : CwPort) : OutLevel :=
  if s.pwr.porHeld then .float
  else if clamped s.pwr || s.pwr.state = .ebb || s.dp.ring.exited then .squelched
  else .lanes (s.dp.link p).lanes

/-- RESET_N of a DRAM channel. -/
def dramResetLevel (s : State) (c : Nat) : OutLevel :=
  if s.pwr.porHeld then .float
  else if clamped s.pwr || s.pwr.state = .ebb || (s.dram.chans.get DChan.reset c).resetLow then .low else .high

/-- The other outputs of a DRAM channel. -/
def dramLevel (s : State) (c : Nat) : OutLevel :=
  if s.pwr.porHeld then .float
  else if clamped s.pwr || s.pwr.state = .ebb then .hiZ
  else if (s.dram.chans.get DChan.reset c).selfRefresh then .selfRefresh else .protocol

/-- CLM_DAT. -/
def claimLevel (s : State) : OutLevel :=
  if s.pwr.porHeld then .float else if clamped s.pwr || s.pwr.state = .ebb then .hiZ else .protocol

/-- FAULT_N, the LEDs, SMB_DAT and SMB_ALERT_N: the always-on domain drives them in every state. -/
def alwaysOnLevel (s : State) : OutLevel := if s.pwr.porHeld then .float else .driven

/-! ## Hold-up energy (R495, R496, R416)

Energies in pJ, powers in units of 1/85 nW, times in ns, so that every quantity of R496 is exact. -/

/-- C_used in µF: 94 % of the measured capacitance, times 100. -/
def cUsed100 (p : Pwr) : Nat := (p.cap.elim 0 Prod.fst) * 94

/-- E in pJ, times 200: C_used × (V_PLP² − 2.7²) in µF and mV². -/
def energy200 (p : Pwr) (vPlp : Nat) : Nat := cUsed100 p * (vPlp ^ 2 - 2700 ^ 2)

/-- r_lt in bytes per second. -/
def rLt (d : Dp) : Nat := 2500000000 * (goodChans d).length

/-- t_prog_max in µs (R577). -/
def tProgMaxUs (f : Profile) : Nat := max f.progMaxUs f.progSlcMaxUs

/-- n_active. -/
def nActive (e : Env) (d : Dp) : Nat :=
  let w := stripeWidth e d
  if w < 2 then 0
  else divUp (rLt d * d.kiln.profile.progSlcMaxUs * w) (1000000 * (w - 1) * (d.kiln.profile.planes * 16384))

/-- p_board in nW: arrays, flash I/O at 2 pJ per bit, and 2.5 W for each DRAM channel. -/
def pBoard (e : Env) (d : Dp) : Nat :=
  let f := d.kiln.profile
  let n := nActive e d
  f.vccMv * (n * f.progUa + (dieCount d - n) * f.standbyUa) + rLt d * 16 / 1000 + 10000000000

/-- p_lt in units of 1/85 nW. -/
def pLt85 (e : Env) (d : Dp) : Nat := 26000000000 * 85 + pBoard e d * 100

/-- g_safe of R496 in bytes: the largest greenware whose need, times HOLDUP_MARGIN, fits in the energy. -/
def gSafe (e : Env) (d : Dp) (p : Pwr) : Nat :=
  let margin := e.param d 0x0902
  let have_ := energy200 p (e.param d 0x0E03) * 65536 * 1000000 * 85
  let rate := margin * pLt85 e d * 200
  let fixed := (tProgMaxUs d.kiln.profile * 1000 + 4000000) * rate
  if p.cap.isNone || rate = 0 then 0
  else (have_ - fixed) * (5 * (goodChans d).length) / (2 * rate) - 8 * mib

/-- The upper limit of slot 2 (R416, Table 12-4). -/
def gTop (e : Env) (d : Dp) (p : Pwr) : Nat := min (gSafe e d p) (4 * gib)

/-- Energy in mJ as HOLDUP_QUERY reports it. -/
def energyMj (e : Env) (d : Dp) (p : Pwr) : Nat := energy200 p (e.param d 0x0E03) / 200000000000

/-- p_lt in mW. -/
def pLtMw (e : Env) (d : Dp) : Nat := pLt85 e d / 85000000

/-- HOLDUP_LOW (R500): from READY on, set when g_safe falls below 64 MiB, cleared when it reaches 128 MiB; with no measured
capacitance R500 holds (R499). -/
def holdupStep (e : Env) (p : Pwr) (d : Dp) : Dp :=
  let g := gSafe e d p
  if !e.ready || e.tide || e.power = .ebb then d
  else if !d.bw.holdupLow && g < 64 * mib then
    cause e evHoldup (logE e 0x0E05 5 srcFirmware [g / mib] { d with bw := { d.bw with holdupLow := true, gLim := 0 } })
  else if d.bw.holdupLow && 128 * mib ≤ g then { d with bw := { d.bw with holdupLow := false } }
  else d

/-- G_lim changes; by more than 64 MiB it is told (R417). -/
def setLimit (e : Env) (g : Nat) (d : Dp) : Dp :=
  let old := d.bw.gLim
  let g := if d.bw.holdupLow then 0 else g
  let d := { d with bw := { d.bw with gLim := g } }
  if 64 * mib < max old g - min old g then cause e evHoldup (logE e 0x0904 2 srcTide [g / mib] d) else d

end Sys2Proof.Machine
end

