-- ==== Sys2Proof/Machine/Bedrock.lean ====
section
/-! DEFINITION. The Bedrock store (R451 to R458): its banks, records and anchors, and the meanings of the four Bedrock
commands, of BEDROCK_READ_RESULT and of the anchor commands of chapters 2 and 7. -/

namespace Sys2Proof.Machine

/-! ## Banks (R454, R455) -/

def State.bank (s : State) (n : Nat) : Bank := if n = 0 then s.bed.bank0 else s.bed.bank1

def State.setBank (s : State) (n : Nat) (b : Bank) : State :=
  if n = 0 then { s with bed := { s.bed with bank0 := b } } else { s with bed := { s.bed with bank1 := b } }

/-- Put an output from any unit. -/
def State.out (s : State) (o : Output) : State := s.onDp (fun _ => put o)

/-- The request a bank serves next: the least priority number, in order of arrival; while an erase is suspended, programs
alone (R454). -/
def nextReq (b : Bank) : Option (Nat × Bool × BedWrite) :=
  leastBy Prod.fst (if b.held.isSome then b.queue.filter (fun r => !r.2.1) else b.queue)

/-- A free bank starts its next request; a suspended erase resumes when nothing else waits (R454, R455). -/
def bankStart (n : Nat) (s : State) : State :=
  let b := s.bank n
  if b.op.isSome then s
  else match nextReq b with
    | some r =>
      let s := s.setBank n { b with
        op := some { erase := r.2.1, what := r.2.2, since := s.clk.time, suspends := 0 }
        queue := b.queue.erase r }
      s.out (if r.2.1 then .bedErase n r.2.2 else .bedProgram n r.2.2)
    | none =>
      if b.held.isSome && b.reads = 0 then
        s.setBank n { b with
          op := b.held.map (fun o => { o with since := s.clk.time })
          held := none }
      else s

/-- Ask a bank for a program or erase. -/
def bankAsk (n prio : Nat) (erase : Bool) (what : BedWrite) (s : State) : State :=
  let b := s.bank n
  bankStart n (s.setBank n { b with queue := b.queue ++ [(prio, erase, what)] })

/-- The bank runs a program, or an erase that is not suspended: reads of it wait (R453). -/
def bankBusy (b : Bank) : Bool := b.op.isSome

/-! ## Records (R452) -/

/-- Numbers of the regions kept in two copies. -/
def regionNo : BedRegion → Nat
  | .bootrec => 1
  | .param => 3
  | .keystore => 4
  | _ => 0

/-- Priority of a region's records (R455). -/
def regionPrio : BedRegion → Nat
  | .bootrec => 3
  | .keystore => 4
  | _ => 5

/-- Write a region's next record: first into the bank that has nothing pending, then into the other. -/
def writeRecord (r : BedRegion) (s : State) : State :=
  let i := regionNo r
  let n := s.bed.newest.get 0 i + 1
  let s := { s with bed := { s.bed with newest := s.bed.newest.put i n } }
  let waiting (b : Bank) : Bool := b.op.isSome || !b.queue.isEmpty
  let first := if waiting s.bed.bank0 && !waiting s.bed.bank1 then 1 else 0
  if (s.bank 0).queue.any (fun q => q.2.2 = .record r) || (s.bank 1).queue.any (fun q => q.2.2 = .record r) then s
  else bankAsk first (regionPrio r) false (.record r) s

/-- A copy of a region, as its bank holds it. -/
def copyOf (s : State) (i n : Nat) : Nat :=
  let c := s.bed.copies.get (0, 0) i
  if n = 0 then c.1 else c.2

/-- A copy of a region takes a sequence. -/
def setCopy (i n q : Nat) (s : State) : State :=
  let c := s.bed.copies.get (0, 0) i
  { s with bed := { s.bed with copies := s.bed.copies.put i (if n = 0 then (q, c.2) else (c.1, q)) } }

/-- A response that waits for a record may be written. -/
def dueReady (s : State) (x : Due) : Bool :=
  if x.both then x.seqn ≤ copyOf s x.region 0 && x.seqn ≤ copyOf s x.region 1
  else x.seqn ≤ copyOf s x.region 0 || x.seqn ≤ copyOf s x.region 1

/-- Write the responses whose records are in Bedrock. -/
def answerDue (s : State) : State :=
  let ready := s.bed.due.filter (dueReady s)
  let s := { s with bed := { s.bed with due := s.bed.due.filter (fun x => !dueReady s x) } }
  ready.foldl (fun s x => s.onDp (fun e d => match x.dest with
    | .box m => respond e m msSuccess x.detail x.payload d
    | .order o => answerTo e o msSuccess x.detail x.payload d)) s

/-- Write a region's record, and respond once it is in Bedrock. -/
def recordThen (r : BedRegion) (both : Bool) (dest : DueTo) (payload : List Byte) (s : State) : State :=
  let s := writeRecord r s
  let i := regionNo r
  let x : Due := { region := i, seqn := s.bed.newest.get 0 i, both := both, dest := dest, detail := 0, payload := payload }
  let s := match dest with
    | .box m => s.onDp (fun _ d => d.wait m)
    | .order _ => s
  answerDue { s with bed := { s.bed with due := s.bed.due ++ [x] } }

/-- A record has been programmed into a bank: the other copy follows until both hold the newest. -/
def recordDone (r : BedRegion) (n : Nat) (s : State) : State :=
  let i := regionNo r
  let q := s.bed.newest.get 0 i
  let s := setCopy i n q s
  let s := if copyOf s i (1 - n) < q then bankAsk (1 - n) (regionPrio r) false (.record r) s else s
  answerDue s

/-! ## The anchor wheel (R73, R248, R434, R457, R548) -/

/-- A lease of `size` values ending at `stop`, once half of it is used, is followed by the next (R434, R548). -/
def leaseNext (size stop used : Nat) : Nat := if stop < used + size / 2 + 1 then stop + size else stop

/-- Sizes of the leases of at-rest counter values and of log sequences. -/
def nonceLease : Nat := 2 ^ 32
def seqLease : Nat := 2 ^ 20

/-- The bytes of an anchor's sector that its CRC-32C covers (chapter 4 calls the format internal). -/
def anchorBytes (a : Anchor) : List Byte :=
  leBytes 8 a.seqn ++ leBytes 8 a.boot ++ leBytes 8 a.time ++ leBytes 1 a.ebb.toNat ++ leBytes 8 a.nonceEnd ++
    leBytes 4 a.seqEnd ++ a.widths.flatMap (leBytes 1) ++ leBytes 4 a.ckpt ++ leBytes 8 a.delta ++ leBytes 4 a.journal.1 ++
    leBytes 4 a.journal.2 ++ a.ltRows.flatMap (leBytes 4) ++ a.bisque.flatMap (leBytes 4) ++
    a.claims.flatMap (fun x => leBytes 1 x.1 ++ leBytes 4 x.2)

/-- The anchor with its CRC-32C, and whether the CRC-32C checks (R147). -/
def Anchor.stamp (a : Anchor) : Anchor := { a with crc := crc32c (anchorBytes a) }
def Anchor.valid (a : Anchor) : Bool := a.crc = crc32c (anchorBytes a)

/-- Rows of a use that are not being erased. -/
def areaRows (d : Dp) (u : RowUse) : List Row := d.med.rows.filter (fun r => r.use = u && r.erasing.isNone)

/-- An anchor that carries the device's state now, under a map checkpoint and its oldest delta record. -/
def anchorNow (s : State) (ebb : Bool) (ckpt delta : Nat) : Anchor :=
  let d := s.dp
  let width (u : RowUse) : Nat := ((areaRows d u).head?.map Row.width).getD (stripeWidth s.env d)
  let journal := (areaRows d .journalStrand).filter (fun r => !r.cws.isEmpty)
  Anchor.stamp
    { seqn := s.bed.next, boot := s.clk.boot, time := s.clk.time, ebb := ebb,
      claims := d.sh.sea.map (fun x => (x.1, x.2.claim.toNat)),
      nonceEnd := leaseNext nonceLease (s.env.nonceEnd) d.med.nonce,
      seqEnd := leaseNext seqLease d.io.seqEnd d.io.nextSeq,
      widths := [width .lastTide, width .journalStrand, width .mapStrand], ckpt := ckpt, delta := delta,
      journal := ((journal.getLast?.map Row.id).getD 0, (journal.head?.map Row.id).getD 0),
      ltRows := (areaRows d .lastTide).map Row.id, bisque := (areaRows d .bisque).map Row.id, crc := 0 }

/-- The device programs anchors: recovery has loaded the newest one, and the device is neither in safe mode (R536) nor
fatal. -/
def anchorsRun (s : State) : Bool := s.boot.ready && !s.boot.safe && !s.boot.fatal

/-- Program an anchor under a checkpoint into the next erased sector. -/
def programAnchor (ebb : Bool) (k : Ckpt) (s : State) : State :=
  let a := anchorNow s ebb k.num k.first
  bankAsk 0 2 false .anchor { s with bed := { s.bed with
    writing := some a
    again := false
    next := s.bed.next + 1
    erasedSectors := s.bed.erasedSectors - 1 } }

/-- The anchor that is due is programmed once its checkpoint is on the map strand (R74). -/
def anchorReady (s : State) : State :=
  match s.dp.map.ckptDue with
  | some (k, ebb) => if s.bed.writing.isNone && ckptSafe s.dp k then programAnchor ebb k s else s
  | none => s

/-- Begin an anchor with its checkpoint; a request that arrives while one is under way is served by the next. -/
def requestAnchor (ebb : Bool) (s : State) : State :=
  if s.bed.writing.isSome || s.dp.map.ckptDue.isSome then { s with bed := { s.bed with again := true } }
  else anchorReady (s.onDp (fun e => startCkpt e ebb))

/-- Ask for an anchor, where the device programs any and a sector is erased. -/
def askAnchor (s : State) : State :=
  if anchorsRun s && s.bed.erasedSectors != 0 then requestAnchor false s else s

/-- Anchors the wheel holds once it has turned. -/
def wheelKeeps : Nat := 59

/-- The stewards and standbys of pools hear which journal records this member's newest anchor still needs (R145). -/
def tellNeeds (e : Env) (d : Dp) : Dp :=
  let l := journalNeeds d
  let d := { d with sh := { d.sh with needs := l.foldl (fun t x => t.put (viewKey x.1 e.rank) x.2) d.sh.needs } }
  sendEach e .control (otherRanks e d) (fun r => header e d r noPool) (.order (.anchored l)) d

/-- The anchor in programming has been verified: it is the newest, its leases may be used (R434; a new one of nonces is logged), what the strands hold for older anchors is
free (R145), and the wheel erases its fifth sector. One that fails is programmed again. -/
def anchorDone (good : Bool) (s : State) : State :=
  match s.bed.writing with
  | none => s
  | some a =>
    let s := { s with bed := { s.bed with writing := none } }
    let held := s.env.nonceEnd
    if good then
      let s := s.onDp (fun e d =>
        let d := { d with io := { d.io with seqEnd := a.seqEnd } }
        tellNeeds e (match d.map.ckptDue with
          | some (k, _) => ckptDone e k d
          | none => d))
      let s : State := { s with
        bed := { s.bed with anchors := (a :: s.bed.anchors).take wheelKeeps, deltaAt := s.clk.time }
        sec := { s.sec with
          slots := match s.sec.slots.find 0 with
            | some k => s.sec.slots.put 0 { k with lease := a.nonceEnd }
            | none => s.sec.slots } }
      let s := if held < a.nonceEnd then s.log 0x0A03 1 srcSaggar [0] else s
      let s := if s.bed.erasedSectors ≤ 4 then bankAsk 0 2 true .anchor s else s
      if s.bed.again then askAnchor s else s
    else if anchorsRun s && s.bed.erasedSectors != 0 then anchorReady s else s

/-- The newest valid anchor. -/
def newestAnchor (b : Bed) : Option Anchor := b.anchors.find? Anchor.valid

/-- Some entry of the Seawall stands above the newest anchor (R248). -/
def raisedSince (s : State) : Bool :=
  let a := newestAnchor s.bed
  s.dp.sh.sea.any (fun x => (a.elim 0 (fun a => a.claims.get 0 x.1)) < x.2.claim.toNat)

/-- A lease is half used (R434, R548). -/
def leaseLow (s : State) : Bool :=
  s.env.nonceEnd < s.dp.med.nonce + nonceLease / 2 + 1 || s.dp.io.seqEnd < s.dp.io.nextSeq + seqLease / 2 + 1

/-! ## Image slots (R459) -/

/-- The bank of the inactive slot: 0 for image A, 1 for image B. -/
def staging (s : State) : Nat := if s.boot.imageB then 0 else 1

def State.image (s : State) (n : Nat) : Image := if n = 0 then s.bed.a else s.bed.b

def State.setImage (s : State) (n : Nat) (i : Image) : State :=
  if n = 0 then { s with bed := { s.bed with a := i } } else { s with bed := { s.bed with b := i } }

/-- The inactive slot asks for its next page program, once the block under it is erased. -/
def stagePage (s : State) : State :=
  let n := staging s
  let i := s.image n
  if i.st = .staging && (i.programmed + 512 ≤ i.accepted || (i.programmed < i.accepted && i.accepted = i.length)) &&
      i.programmed < i.erased &&
      !((s.bank n).queue.any (fun q => q.2.2 = .staging && !q.2.1)) &&
      !((s.bank n).op.any (fun o => o.what = .staging && !o.erase)) then
    bankAsk n 7 false .staging s
  else s

/-- A block erase of the slot ends (R459): the next one follows while the length needs it. -/
def stageErased (s : State) : State :=
  let n := staging s
  let i := s.image n
  if i.st = .staging then
    let i := { i with erased := i.erased + 262144 }
    let s := s.setImage n i
    let s := if i.erased < i.length then bankAsk n 7 true .staging s else s
    stagePage s
  else s

/-- A page program of the slot ends. -/
def stageProgrammed (s : State) : State :=
  let n := staging s
  let i := s.image n
  if i.st = .staging then stagePage (s.setImage n { i with programmed := min i.accepted (min i.erased (i.programmed + 512)) }) else s

/-- A program or erase failure of staging sets the slot INVALID. -/
def stageFailed (s : State) : State :=
  let n := staging s
  let i := s.image n
  if i.st = .staging then s.setImage n { i with st := .invalid } else s

/-! ## Meanings -/

/-- BEDROCK_PROGRAM_COMPLETE (R457): the bank's program ends; an anchor is verified, the second copy of a record follows, the
next page of staging is asked for. A record that fails is programmed again. -/
def execBedrockProgramComplete (bank : Fin 2) (what : BedWrite) (good : Bool) (s : State) :
    Host.Outcome State Fault Refusal :=
  let b := s.bank bank.val
  if b.op.any (fun o => !o.erase && o.what = what) then
    let s := s.setBank bank.val { b with op := none }
    let s := match what with
      | .anchor => anchorDone good s
      | .record r => if good then recordDone r bank.val s else bankAsk bank.val (regionPrio r) false what s
      | .staging => if good then stageProgrammed s else stageFailed s
    .next (bankStart bank.val s)
  else .next s

/-- BEDROCK_ERASE_COMPLETE (R459): a sector of the wheel is erased, or the next block of a slot. -/
def execBedrockEraseComplete (bank : Fin 2) (good : Bool) (s : State) : Host.Outcome State Fault Refusal :=
  let b := s.bank bank.val
  match b.op with
  | some o =>
    if o.erase then
      let s := s.setBank bank.val { b with op := none }
      let s := match o.what with
        | .staging => if good then stageErased s else stageFailed s
        | _ =>
          let s := if good then { s with bed := { s.bed with erasedSectors := s.bed.erasedSectors + 1 } }
            else bankAsk bank.val 2 true .anchor s
          if s.bed.again then askAnchor s else if anchorsRun s then anchorReady s else s
      .next (bankStart bank.val s)
    else .next s
  | none => .next s

/-- BEDROCK_ERASE_SUSPEND (R454): an erase that has run 500 µs, with a read of its bank queued, is suspended, at most 16
times. -/
def execBedrockEraseSuspend (bank : Fin 2) (s : State) : Host.Outcome State Fault Refusal :=
  let b := s.bank bank.val
  match b.op with
  | some o =>
    if o.erase && 0 < b.reads && o.since + 500 * usec ≤ s.clk.time && o.suspends < 16 then
      .next (bankStart bank.val (s.setBank bank.val { b with
        op := none
        held := some { o with since := s.clk.time, suspends := o.suspends + 1 } }))
    else .next s
  | none => .next s

/-- BEDROCK_ERASE_RESUME (R454): 2 ms after its suspension an erase resumes even when reads remain. -/
def execBedrockEraseResume (bank : Fin 2) (s : State) : Host.Outcome State Fault Refusal :=
  let b := s.bank bank.val
  match b.held with
  | some o =>
    if o.since + 2 * msec ≤ s.clk.time && b.op.isNone then
      .next (s.setBank bank.val { b with
        op := some { o with since := s.clk.time }
        held := none })
    else .next s
  | none => .next s

/-- The regions a read result names, as numbers for the log. -/
def regionCode : BedRegion → Nat
  | .factory => 0
  | .bootrec => 1
  | .anchor => 2
  | .param => 3
  | .keystore => 4
  | .imageA => 5
  | .imageB => 6

/-- A region read with two corrected bits is refreshed (R456): a kept record is written anew, the inactive image is
reprogrammed, the active one is marked worn. -/
def refreshRegion (r : BedRegion) (s : State) : State :=
  let image (n : Nat) : State :=
    if n = staging s then
      let i := s.image n
      if i.st = .staged || i.st = .previous || i.st = .staging then
        stagePage (bankAsk n 7 false .staging s)
      else s
    else ({ s with bed := { s.bed with worn := true } }).cause evFirmware
  match r with
  | .bootrec | .param | .keystore => writeRecord r s
  | .imageA => image 0
  | .imageB => image 1
  | _ => s

/-- The other source of a region that cannot be read (R456): the other copy, which the bad one is rewritten from, or the
anchor before. -/
def fallBack (r : BedRegion) (s : State) : State :=
  match r with
  | .bootrec | .param | .keystore => writeRecord r s
  | .anchor => { s with bed := { s.bed with
      anchors := match s.bed.anchors with
        | a :: t => { a with crc := ~~~crc32c (anchorBytes a) } :: t
        | [] => [] } }
  | _ => s

/-- BEDROCK_READ_RESULT (R456): the queued read of a bank ends with a count of corrected bits. -/
def execBedrockReadResult (region : BedRegion) (corrected : Nat) (uncorrectable : Bool) (s : State) :
    Host.Outcome State Fault Refusal :=
  let n := if region = .imageB then 1 else 0
  let s := s.setBank n { s.bank n with reads := (s.bank n).reads - 1 }
  let s := bankStart n s
  if uncorrectable then .next (fallBack region (s.log 0x0B0B 4 srcSaggar [regionCode region]))
  else if corrected = 2 then .next (refreshRegion region (s.log 0x0B0A 3 srcSaggar [regionCode region]))
  else .next s

/-- ANCHOR_CADENCE (R73, R146): 30 s after the previous anchor, after 512 MiB of delta records, or with less than 1 GiB of a
strand erased; a lease that is half used asks for one as well (R434, R548). A steward whose strand is short asks every
member of its pools (R146). -/
def execAnchorCadence (s : State) : Host.Outcome State Fault Refusal :=
  let short := strandFree s.dp .journalStrand < strandLow || strandFree s.dp .mapStrand < strandLow
  if s.bed.deltaAt + 30 * second ≤ s.clk.time || 512 * mib ≤ s.dp.map.deltaBytes || short || leaseLow s then
    let s := askAnchor s
    if short && anchorsRun s then
      .next (s.onDp (fun e d =>
        let pools := (d.sh.roles.filter (fun r => r.role = .steward)).map PRole.pool
        let ranks := (otherRanks e d).filter (fun k => pools.any (fun h => (d.sh.reg.pool h).any (fun p => p.ranks.contains k)))
        sendEach e .control ranks (fun k => header e d k noPool) .anchor d))
    else .next s
  else .next s

/-- ANCHOR_AFTER_RAISE (R248): an entry raised above the newest anchor's claim makes the device program an anchor. -/
def execAnchorAfterRaise (s : State) : Host.Outcome State Fault Refusal :=
  if raisedSince s && s.bed.writing.isNone && s.dp.map.ckptDue.isNone then .next (askAnchor s) else .next s

end Sys2Proof.Machine
end

