-- ==== Sys2Proof/Machine/Work.lean ====
section
/-! DEFINITION. What follows a command beyond the data path: device parameters take effect (R391), SANITIZE_CRYPTO runs on
this rank (R442), the hold-up condition is recomputed (R496, R500), and Saggar's measurement registers (R443). -/

namespace Sys2Proof.Machine

/-! ## Measurements (R443) -/

/-- A digest as 48 bytes. -/
def digestBytes (x : BitVec 384) : List Byte := leBytes 48 x.toNat

/-- Extend a measurement register with an event (R443). -/
def extendMeas (n : Nat) (event : List Byte) (s : State) : State :=
  let old := s.sec.meas.getD n 0
  { s with sec := { s.sec with
      meas := s.sec.meas.set n (Config.sha384 (digestBytes old ++ digestBytes (Config.sha384 event))) } }

/-! ## Parameters (R390 to R393) -/

/-- The setpoint that a parameter binds, in Q16.16 (Table 12-4). -/
def bindSetpoint (id v : Nat) (s : State) : State :=
  let put (f : Nat → Bool) : State := { s with tide := { s.tide with
      loops := s.tide.loops.map (fun x => if f x.1 then (x.1, { x.2 with setpoint := (v : Int) * 65536 }) else x) } }
  if id = 0x0901 then put (fun n => 3 ≤ n && n ≤ 10) else if id = 0x0E04 then put (fun n => n = 11) else s

/-- A device parameter takes a value: at once, or in PENDING until its effect point; PENDING equal to VALUE cancels. A
persistent one is kept in Bedrock. -/
def setParam (id v : Nat) (s : State) : State :=
  match paramDef id with
  | none => s
  | some r =>
    let s := if r.persist then { s with bed := { s.bed with params := s.bed.params.put id v } } else s
    let s := if id = 0x0301 then s.onDp (fun _ d => { d with sh := { d.sh with figDue := true } }) else s
    if r.effect = 0 then bindSetpoint id v { s with par := { s.par with value := s.par.value.put id v } }
    else if s.par.value.get r.default id = v then { s with par := { s.par with pend := Tab.erase s.par.pend id } }
    else { s with par := { s.par with pend := s.par.pend.put id v } }

/-- The entries of a request that name parameters of the device, with the values they set. -/
def deviceEntries (r : MbReq) : List (Nat × Nat) :=
  (paramEntries r.opcode r.payload).filter (fun x => (paramDef x.1).any (fun p => !p.shoal))

/-- A checked PARAM_SET or PARAM_DEFAULT sets its device parameters, and responds once the persistent ones are in
Bedrock. -/
def applyParams (r : MbReq) (m : Option Mbx) (s : State) : State :=
  let l := deviceEntries r
  let s := l.foldl (fun s x => setParam x.1 x.2 s) s
  if l.any (fun x => (paramDef x.1).any ParamDef.persist) then
    match m with
    | some m => recordThen .param false (.box m) [] s
    | none => writeRecord .param s
  else match m with
    | some m => s.onDp (fun e => respond e m msSuccess 0 [])
    | none => s

/-- Pending values of an effect class take effect: 1 at a Neap exit, 2 at a core reset. -/
def takePending (effect : Nat) (s : State) : State :=
  let due := s.par.pend.filter (fun x => (paramDef x.1).any (fun r => r.effect ≤ effect))
  due.foldl (fun s x => bindSetpoint x.1 x.2 { s with par :=
    { value := s.par.value.put x.1 x.2, pend := Tab.erase s.par.pend x.1 } }) s

/-! ## Keys -/

/-- A draw of the DRBG, as bytes (R428). -/
def drbg (n : Nat) (s : State) : List Byte × State :=
  (leBytes n (Config.random s.dp.io.fresh), s.onDp (fun _ d => (draw d).2))

/-- The generation counter is spent (R433). -/
def genSpent (s : State) : Bool := 0xFFFFFFFF ≤ s.sec.gen

/-- A new at-rest key under a new generation (R434, R442): its counter starts at 0 within the lease recorded. -/
def newAtRest (s : State) : State :=
  let k := drbg 32 s
  let s := k.2
  let g := s.sec.gen + 1
  let slot : KeySlot :=
    { key := k.1, usage := 0, wide := false, persist := true, gen := g, counter := 0, lease := s.env.nonceEnd }
  { s with
    sec := { s.sec with slots := s.sec.slots.put 0 slot, gen := g, reseedAt := s.clk.time }
    bed := { s.bed with keys := s.bed.keys.put 0 slot, gen := g }
    dp := { s.dp with med := { s.dp.med with nonce := 0 } } }

/-- SANITIZE_CRYPTO on this rank (R442): slot 0, and with ALL_SLOTS every service slot, is destroyed; a new at-rest key is
made and MEAS6 extended; once both KEYSTORE copies hold it the order is answered, and every block is erased. -/
def sanitizeHere (o : Order) (s : State) : State :=
  let fail (why : Nat) : State := s.onDp (fun e => answerTo e o msField why [])
  if s.sec.entropyFailed then fail 4
  else if genSpent s then fail 6
  else
    let s := if fieldAt o.payload 1 1 % 2 = 1 then { s with
        sec := { s.sec with slots := [], cache := [] }
        bed := { s.bed with keys := [] } } else s
    let s := newAtRest s
    let g := s.sec.gen
    let s := (extendMeas 6 (leBytes 2 0x0B0C) s).log 0x0B0C 2 srcSaggar [g]
    let s := recordThen .keystore true (.order o) (leBytes 4 g) s
    s.onDp (fun e d =>
      let d := { d with
        map := { d.map with
          entries := [], green := [], commits := [], strand := [], deltas := [], unstaged := d.map.nextDelta, deltaBytes := 0
          ckpts := [], ckptDue := none, dirty := [] }
        med := { d.med with ltGen := none, ltUsed := true }
        sh := { d.sh with
          anchorAsked := true
          roles := d.sh.roles.map (fun (x : PRole) => { x with tail := x.journal }) } }
      growAreas e ((d.med.rows.map Row.id).foldl (fun d id => eraseRow e id d) d))

/-- A key slot is zeroised in the cache and the wrapped table, and for a persistent slot in both KEYSTORE copies, before the
order's response (R441). -/
def clearSlot (n : Nat) (m : Option Mbx) (s : State) : State :=
  let kept := (s.bed.keys.find n).isSome
  let s := { s with
    sec := { s.sec with slots := Tab.erase s.sec.slots n, cache := without n s.sec.cache }
    bed := { s.bed with keys := Tab.erase s.bed.keys n } }
  let s := s.log 0x0A02 1 srcSaggar [n]
  match kept, m with
  | true, some m => recordThen .keystore true (.box m) [] s
  | true, none => writeRecord .keystore s
  | false, some m => s.onDp (fun e => respond e m msSuccess 0 [])
  | false, none => s

/-- A clear waits no longer: every command fetched before it has ended. -/
def clearReady (s : State) (x : Nat × Option Mbx × List CmdKey) : Bool :=
  x.2.2.all (fun k => (s.dp.cmd k).all (fun c => c.stage = .finished))

/-- Carry out the clears that wait no longer. -/
def finishClears (s : State) : State :=
  let l := s.sec.clearing
  let s' := { s with sec := { s.sec with clearing := l.filter (fun x => !clearReady s x) } }
  (l.filter (clearReady s)).foldl (fun t x => clearSlot x.1 x.2.1 t) s'

/-! ## Common work -/

/-- A wake event before the commit point abandons an entry to Slack or Neap (R503). -/
def State.stayAwake (s : State) : State :=
  if s.pwr.entering.any (fun x => x.target != .ebb) then { s with pwr := { s.pwr with entering := none } } else s

/-- The device is busy as R502 lists it: commands, mailbox commands, die operations. -/
def busyNow (s : State) : Bool :=
  cmdBusy s.dp || dieWork s.dp || s.dp.mb.boxes.any (fun x => x.request.isSome)

/-- Note since when the device has been idle. -/
def noteIdle (s : State) : State :=
  { s with pwr := { s.pwr with
      idleSince := if busyNow s then none else some (s.pwr.idleSince.getD s.clk.time) } }

/-- A generation whose counter would reach 2^64 gives way to a new one (R434). -/
def spendNonce (s : State) : State :=
  if s.dp.med.nonce + 1 < 2 ^ 64 || genSpent s then s else writeRecord .keystore (newAtRest s)

/-- What follows a command: the data path settles, due parameters and sanitise orders are carried out, the hold-up condition
is recomputed. -/
def State.work (s : State) : State :=
  let s := s.onDp workDp
  let s := if s.dp.sh.anchorAsked then
      askAnchor { s with dp := { s.dp with sh := { s.dp.sh with anchorAsked := false } } } else s
  let s := if s.dp.map.ckptDue.isSome && anchorsRun s then anchorReady s else s
  let pars := s.dp.mb.parDue
  let due := s.dp.mb.sanDue
  let s := { s with dp := { s.dp with mb := { s.dp.mb with parDue := [], sanDue := [] } } }
  let s := pars.foldl (fun s x => applyParams x.1 x.2 s) s
  let s := due.foldl (fun s o => sanitizeHere o s) s
  let s := if s.sec.clearing.isEmpty then s else finishClears s
  noteIdle (spendNonce (s.onDp (fun e => holdupStep e s.pwr)))

/-- A held block is gated, or its gate is pending: it takes no new operation. -/
def blockOff (b : HeldBlock) (s : State) : Bool := s.sec.gated.contains b || s.sec.holds.any (fun h => h.1 = b)

/-- No lane, or not the key cache, takes an operation (Table 13-9): GLAZE commands wait. -/
def cipherOff (s : State) : Bool :=
  let laneOff (n : Fin 20) : Bool :=
    blockOff (.lane n) s || (s.sec.glaze.find n.val).any (fun x => x.fenced)
  blockOff .keyCache s || (List.finRange 20).all laneOff

end Sys2Proof.Machine
end

