-- ==== Sys2Proof/Machine/HostQueue.lean ====
section
/-! DEFINITION. Meanings of the queue commands: header reads of the pool commands (R350, R351), CODEC (R367 to R370), GLAZE
(R371 to R378), the doorbells (R337 to R345, R361), queue table resynchronisation (R332 to R335) and the writes to the BAR0
device registers and the mailbox windows (R300 to R305, R381). -/

namespace Sys2Proof.Machine

/-! ## Fetching a descriptor -/

/-- The queue engine fetches for a port: ENABLE and ENABLED are set, the link is up in D0, memory requests may go out, the
device is awake and not on its way to Ebb (R302, R323, R328, R365, R366, R541). -/
def fetchOk (s : State) (p : PortId) : Bool :=
  let h := s.dp.port p
  h.enable && h.enabled && !h.d3 && dmaOk s.env s.dp p && !s.boot.fatal &&
  (s.pwr.state = .flood || s.pwr.state = .starting) && !s.pwr.entering.any (fun x => x.target = .ebb)

/-- Held reads fill the completion buffer beyond 3 MiB: no READ descriptor is fetched (R321). -/
def readsFull (d : Dp) (p : PortId) : Bool := 3 * mib < heldReads d p

/-- The header of a queue's next doorbell may be read now: it is that queue's turn (R350). While held reads fill the buffer a READ is
held back, and its queue's turn passes (R321; DESIGN CHOICE, log 11: any queue may then be served). -/
def mayFetch (s : State) (k : CmdKey) (op : Nat) : Bool :=
  let x := s.dp.queueD k.port k.queue
  fetchOk s k.port && x.enabled && x.st = .running &&
  (nextDoorbell s.dp k.port k.queue).any (fun c => c.key = k) &&
  (if readsFull s.dp k.port then op != opRead else servedQueue s.dp k.port = some k.queue)

/-- The header read of a command (R351): its descriptor and list segments are known, and it stands after every header read
before it; it takes one doorbell of its queue's turn. -/
def readHeader (k : CmdKey) (desc : BitVec 512) (segs metaSegs : List (List (BitVec 128))) (d : Dp) : Dp :=
  match d.cmd k with
  | none => d
  | some c =>
    let c := { c with
      stage := .header, desc := desc, segs := segs, metaSegs := metaSegs, opcode := dOpcode desc, pool := dPool desc,
      lba := dLba desc, len := dLength desc }
    takeTurn k.port k.queue { d with vq := { d.vq with cmds := d.vq.cmds.filter (fun x => x.key != k) ++ [c] } }

/-- A pool command's row: the header is read and the command goes on. Its descriptor names the row's opcode, or one that is
not in Table 10-6. -/
def poolCommand (op : Nat) (k : CmdKey) (desc : BitVec 512) (segs metaSegs : List (List (BitVec 128))) (s : State) : State :=
  if (dOpcode desc = op || !opValid (dOpcode desc)) && mayFetch s k op then
    (s.onDp (fun e d => startHeader e k (readHeader k desc segs metaSegs d))).work
  else s

/-- READ (R355). -/
def execRead (port : PortId) (queue : Nat) (tag : Fin 32) (desc : BitVec 512) (dataSegs metaSegs : List (List (BitVec 128)))
    (s : State) : Host.Outcome State Fault Refusal :=
  .next (poolCommand opRead ⟨port, queue, tag.val⟩ desc dataSegs metaSegs s)

/-- WRITE (R15). -/
def execWrite (port : PortId) (queue : Nat) (tag : Fin 32) (desc : BitVec 512)
    (dataSegs metaSegs : List (List (BitVec 128))) (s : State) : Host.Outcome State Fault Refusal :=
  .next (poolCommand opWrite ⟨port, queue, tag.val⟩ desc dataSegs metaSegs s)

/-- WRITE_ATOMIC (R49). -/
def execWriteAtomic (port : PortId) (queue : Nat) (tag : Fin 32) (desc : BitVec 512)
    (dataSegs metaSegs : List (List (BitVec 128))) (s : State) : Host.Outcome State Fault Refusal :=
  .next (poolCommand opWriteAtomic ⟨port, queue, tag.val⟩ desc dataSegs metaSegs s)

/-- DISCARD (R58). -/
def execDiscard (port : PortId) (queue : Nat) (tag : Fin 32) (desc : BitVec 512)
    (dataSegs metaSegs : List (List (BitVec 128))) (s : State) : Host.Outcome State Fault Refusal :=
  .next (poolCommand opDiscard ⟨port, queue, tag.val⟩ desc dataSegs metaSegs s)

/-- SECURE_DISCARD (R60). -/
def execSecureDiscard (port : PortId) (queue : Nat) (tag : Fin 32) (desc : BitVec 512)
    (dataSegs metaSegs : List (List (BitVec 128))) (s : State) : Host.Outcome State Fault Refusal :=
  .next (poolCommand opSecureDiscard ⟨port, queue, tag.val⟩ desc dataSegs metaSegs s)

/-- VERIFY (R356). -/
def execVerify (port : PortId) (queue : Nat) (tag : Fin 32) (desc : BitVec 512)
    (dataSegs metaSegs : List (List (BitVec 128))) (s : State) : Host.Outcome State Fault Refusal :=
  .next (poolCommand opVerify ⟨port, queue, tag.val⟩ desc dataSegs metaSegs s)

/-! ## CODEC and GLAZE -/

/-- Write bytes to host ranges from an offset of the buffer, split by R306. -/
def writeRanges (k : CmdKey) (ranges : List (Nat × Nat)) (bytes : List Byte) : Nat → Nat → Dp → Dp
  | 0, _, d => d
  | f + 1, off, d =>
    let n := requestSize ranges off (d.port k.port).maxPayload bytes.length
    if n = 0 then d
    else writeRanges k ranges bytes f (off + n)
      (put (.dmaWrite k.port (hostAddr ranges off) (bytesAt bytes off n) (pasidOf d k)) d)

/-- Write a whole buffer. -/
def writeBuffer (k : CmdKey) (ranges : List (Nat × Nat)) (bytes : List Byte) (d : Dp) : Dp :=
  writeRanges k ranges bytes (bytes.length + 1) 0 d

/-- Pages of a command's reads and writes are translated (R314, R317). -/
def pagesReady (k : CmdKey) (reads writes : List (List (Nat × Nat))) (s : State) : State × Bool :=
  let e := s.env
  let d := s.dp.onCmd k (fun c => { c with elems := reads.flatten, metas := writes.flatten })
  let a := translate e k false (reads.flatMap (fun r => pagesFrom r 0)) d
  let b := translate e k true (writes.flatMap (fun r => pagesFrom r 0)) a.1
  ({ s with dp := b.1 }, a.2 && b.2)

/-- A CODEC or GLAZE whose header is read with this descriptor and waits to run. -/
def serviceHeld (d : Dp) (k : CmdKey) (desc : BitVec 512) : Bool :=
  (d.cmd k).any (fun c => c.stage = .header && c.desc = desc)

/-- The row of a service command: the header is read where it is still to be read, and the command is held until READY, or
runs in safe mode (R528, R536). The Bool says that it runs now. -/
def serviceFetch (op : Nat) (k : CmdKey) (desc : BitVec 512) (segs metaSegs : List (List (BitVec 128))) (s : State) :
    State × Bool :=
  let s := if dOpcode desc = op && mayFetch s k op then s.onDp (fun _ => readHeader k desc segs metaSegs) else s
  (s, serviceHeld s.dp k desc && dOpcode desc = op && fetchOk s k.port && (s.boot.ready || s.boot.safe))

/-- Two lists of host ranges share a byte. -/
def rangesMeet (a b : List (Nat × Nat)) : Bool :=
  a.any (fun x => b.any (fun y => x.1 < y.1 + y.2 && y.1 < x.1 + x.2))

/-- The buffers of a CODEC command, or none where R348 or R369 is broken. -/
def codecBufs (desc : BitVec 512) (table : List (BitVec 128)) (segs : List (List (List (BitVec 128)))) :
    Option (List Buf) :=
  let n := cIn desc + cOut desc
  let el := dData desc
  let walked := (table.take n).mapIdx (fun i x => walkBuf x (segs.getD i []))
  if sgType el = 0 && sgLen el = 16 * n && dMeta desc = 0 && table.length = n &&
      walked.all (fun b => b.any (fun b => b.bytes = dLength desc)) then
    let bufs := walked.filterMap id
    if bufs.foldl (fun m b => m + b.elems) 1 ≤ sgMax then some bufs else none
  else none

/-- The first failure of a CODEC descriptor (R355), or its buffers. -/
def codecCheck (desc : BitVec 512) (table : List (BitVec 128)) (segs : List (List (List (BitVec 128)))) :
    Nat ⊕ List Buf :=
  if descFieldBad desc then .inl stInvalidField
  else if descLengthBad desc then .inl stInvalidLength
  else match codecBufs desc table segs with
    | none => .inl stInvalidSgl
    | some b => .inr b

/-- The coefficients a CODEC command applies: C itself, or B · A⁻¹ (R368). -/
def codecCoeffs (desc : BitVec 512) (matrix : List Byte) : Option (List (List Byte)) :=
  let n := cIn desc
  if cSolve desc then
    (gfInverse (matrixRows matrix 0 n n)).map (fun inv => gfProduct (matrixRows matrix (n * n) (cOut desc) n) inv)
  else some (matrixRows matrix 0 (cOut desc) n)

/-- The bytes of each output: where outputs overlap their content is free (R369). -/
def codecOutputs (desc : BitVec 512) (c : List (List Byte)) (bufs : List Buf) (inputs outputs : List (List Byte))
    (free : Nat) : List (List Byte) :=
  let len := dLength desc
  let ins := (List.range (cIn desc)).map (fun i => bytesAt (inputs.getD i []) 0 len)
  (List.range (cOut desc)).map (fun o =>
    let mine := (bufs.getD (cIn desc + o) ⟨[], 0⟩).ranges
    let meets := (List.range (cOut desc)).any (fun j =>
      j != o && rangesMeet mine (bufs.getD (cIn desc + j) ⟨[], 0⟩).ranges)
    if meets then bytesAt (Config.codecOverlap free o) 0 len
    else
      let v := codecOut len (c.getD o []) ins
      if cAccumulate desc then xorBytes v (bytesAt (outputs.getD o []) 0 len) else v)

/-- CODEC (R368): the matrix and the inputs are read, and every output byte is written to host memory. -/
def execCodec (port : PortId) (queue : Nat) (tag : Fin 32) (desc : BitVec 512) (table : List (BitVec 128))
    (segs : List (List (List (BitVec 128)))) (matrix : List Byte) (inputs outputs : List (List Byte)) (s : State) :
    Host.Outcome State Fault Refusal :=
  let k : CmdKey := ⟨port, queue, tag.val⟩
  let f := serviceFetch opCodec k desc [] [] s
  if !f.2 then .next f.1.work
  else
    let finish (st : Nat) (s : State) : State := (s.onDp (fun e => complete e k st 0 0)).work
    match codecCheck desc table segs with
    | .inl st => .next (finish st f.1)
    | .inr bufs =>
      let reads := [(sgAddr (dData desc), 16 * bufs.length)] :: [(cMatrix desc, max 1 matrix.length)] ::
        (bufs.take (cIn desc)).map Buf.ranges
      let writes := (bufs.drop (cIn desc)).map Buf.ranges
      let t := pagesReady k reads writes f.1
      if !t.2 then .next t.1.work
      else match codecCoeffs desc matrix with
        | none => .next (finish stSingular t.1)
        | some c =>
          let s := t.1.onDp (fun _ d =>
            let n := draw d
            let vs := codecOutputs desc c bufs inputs outputs n.1
            (writes.zip vs).foldl (fun d x => writeBuffer k x.1 x.2 d) n.2)
          .next (finish stSuccess s)

/-- Destination bytes of a GLAZE command (Table 10-12). -/
def glazeDest (desc : BitVec 512) : Nat :=
  if gMode desc = 5 then 16 * (dLength desc / 16 + 1) else dLength desc

/-- The buffers of a GLAZE command, or none where R348 or R372 is broken. -/
def glazeBufs (desc : BitVec 512) (dataSegs metaSegs : List (List (BitVec 128))) : Option (Buf × Buf) :=
  match walkBuf (dData desc) dataSegs, walkBuf (dMeta desc) metaSegs with
  | some a, some b =>
    if a.bytes = dLength desc && b.bytes = glazeDest desc && a.elems + b.elems ≤ sgMax then some (a, b) else none
  | _, _ => none

/-- The key of a GLAZE command, or its failure (R377): empty and reserved slots, the at-rest key, a usage that does not
permit the mode, a spent counter (R435); a slot being cleared serves only the commands fetched before (R441). -/
def glazeKey (s : State) (k : CmdKey) (desc : BitVec 512) : Nat ⊕ KeySlot :=
  let n := gSlot desc
  let m := gMode desc
  if n = 0 then .inl stKeyUsage
  else match s.sec.slots.find n with
    | none => .inl stKeySlot
    | some x =>
      if n < 16 || s.sec.clearing.any (fun c => c.1 = n && !c.2.2.contains k) then .inl stKeySlot
      else if !x.usage.testBit (m - 1) then .inl stKeyUsage
      else if (m = 3 || m = 4) != x.wide then .inl stKeyUsage
      else if m = 1 && 2 ^ 64 ≤ x.counter + 1 then .inl stKeyUsage
      else .inr x

/-- What a GLAZE command gives: its destination bytes, and nonce and tag for AUX; or a failure that zeroes the
destination (R376). -/
inductive Glazed where
  | ok (text : List Byte) (aux : Option (List Byte × List Byte))
  | failed (status : Nat)
deriving DecidableEq, Repr

/-- The operation of a GLAZE command (Table 10-12). -/
def glazeRun (x : KeySlot) (desc : BitVec 512) (source aux : List Byte) : Glazed :=
  let m := gMode desc
  let src := bytesAt source 0 (dLength desc)
  let iv := bytesAt aux 0 16
  let aad := bytesAt aux 64 (gAad desc)
  if m = 1 then
    let nonce := leBytes 8 x.counter ++ leBytes 4 x.gen
    let r := gcm x.key nonce aad src true
    .ok r.1 (some (nonce, r.2))
  else if m = 2 then
    let r := gcm x.key (bytesAt aux 0 12) aad src false
    if r.2 = bytesAt aux 16 16 then .ok r.1 none else .failed stGcmAuth
  else if m = 3 then .ok (xts x.key true (leNat iv) (gUnit desc) src) none
  else if m = 4 then .ok (xts x.key false (leNat iv) (gUnit desc) src) none
  else if m = 5 then .ok (cbcEnc x.key iv src) none
  else match cbcDec x.key iv src with
    | some t => .ok t none
    | none => .failed stPadding

/-- A slot is used (R431): it becomes the most recent of the 1,024 in the cache, from which slot 0 is never evicted. -/
def touchSlot (n : Nat) (s : State) : State :=
  { s with sec := { s.sec with cache := (n :: without n s.sec.cache).take 1023 } }

/-- GCM encrypt takes the slot's next counter value; a persistent slot's lease is recorded in KEYSTORE, and logged, once half
of it is used (R435). -/
def takeCounter (n : Nat) (x : KeySlot) (s : State) : State :=
  let c := x.counter + 1
  let y := { x with counter := c, lease := leaseNext nonceLease x.lease c }
  let s := { s with sec := { s.sec with slots := s.sec.slots.put n y } }
  if x.persist && x.lease != y.lease then
    (writeRecord .keystore { s with bed := { s.bed with keys := s.bed.keys.put n { y with counter := y.lease } } }).log 0x0A03 1 srcSaggar [n]
  else s

/-- GLAZE (R372): destination and AUX are written. -/
def execGlaze (port : PortId) (queue : Nat) (tag : Fin 32) (desc : BitVec 512)
    (dataSegs metaSegs : List (List (BitVec 128))) (source aux : List Byte) (s : State) :
    Host.Outcome State Fault Refusal :=
  let k : CmdKey := ⟨port, queue, tag.val⟩
  let f := serviceFetch opGlaze k desc dataSegs metaSegs s
  if !f.2 || (s.boot.safe && s.sec.slots.isEmpty) || cipherOff s then .next f.1.work
  else
    let finish (st detail : Nat) (s : State) : State := (s.onDp (fun e => complete e k st detail 0)).work
    if descFieldBad desc then .next (finish stInvalidField 0 f.1)
    else if descLengthBad desc then .next (finish stInvalidLength 0 f.1)
    else match glazeBufs desc dataSegs metaSegs with
      | none => .next (finish stInvalidSgl 0 f.1)
      | some b =>
        match glazeKey f.1 k desc with
        | .inl st => .next (finish st 0 f.1)
        | .inr x =>
          let auxRange := [(gAux desc, 64 + gAad desc)]
          let t := pagesReady k [b.1.ranges, auxRange] (b.2.ranges :: (if gMode desc = 1 then [auxRange] else [])) f.1
          if !t.2 then .next t.1.work
          else
            let s := touchSlot (gSlot desc) (t.1.onDp (fun _ => count 10 1 1))
            match glazeRun x desc source aux with
            | .ok text none =>
              .next (finish stSuccess text.length (s.onDp (fun _ => writeBuffer k b.2.ranges text)))
            | .ok text (some (nonce, mac)) =>
              let s := takeCounter (gSlot desc) x (s.onDp (fun _ d =>
                writeBuffer k [(gAux desc, 32)] (nonce ++ List.replicate 4 0 ++ mac) (writeBuffer k b.2.ranges text d)))
              .next (finish stSuccess text.length s)
            | .failed st =>
              let s := s.onDp (fun _ d => writeBuffer k b.2.ranges (List.replicate (glazeDest desc) 0) d)
              .next (finish st 0 (if st = stGcmAuth then s.onDp (fun _ => count 10 2 1) else s))

/-! ## Doorbells (R337 to R345, R361) -/

/-- The port takes host writes: its link is up (R525), and no fatal fault makes it ignore doorbells (R541). -/
def bellOk (s : State) (p : PortId) : Bool := barServed s p && !s.boot.fatal

/-- The queue is one the port's table describes (R339). -/
def queueListed (s : State) (p : PortId) (q : Nat) : Bool :=
  let h := s.dp.port p
  h.enabled && q < h.tcount

/-- Record a doorbell (R338). A port that was idle reports its latency tolerance of 2 µs (R322). -/
def recordDoorbell (k : CmdKey) (d : Dp) : Dp :=
  let d := if (d.port k.port).ltr && !d.vq.cmds.any (fun c => c.key.port = k.port) then put (.ltr k.port 2) d else d
  { d with vq := { d.vq with cmds := d.vq.cmds ++ [freshCmd k d.vq.order], order := d.vq.order + 1 } }

/-- SUBMIT (R338, R339): the queue's entry is read where the cache lacks it, and the doorbell is recorded, or ignored and
counted. -/
def execSubmit (port : PortId) (queue : Nat) (value : BitVec 32) (entry : Option (BitVec 512)) (s : State) :
    Host.Outcome State Fault Refusal :=
  let tag := bitsOf value.toNat 4 0
  let k : CmdKey := ⟨port, queue, tag⟩
  if !bellOk s port || portQueues s.env ≤ queue then .next s
  else if !queueListed s port queue then .next (s.onDp (fun e => ignoreDoorbell e port queue 0 value.toNat))
  else
    let s := s.stayAwake.onDp (fun e d =>
      if d.vq.cache.contains (port, queue) then touchEntry port queue d
      else if dmaOk e d port then fetchEntry e port queue entry d
      else d)
    let s := s.onDp (fun e d =>
      let x := d.queueD port queue
      if x.st = .broken then d
      else if !x.enabled || (d.cmd k).isSome then ignoreDoorbell e port queue 0 value.toNat d
      else recordDoorbell k d)
    .next s.work

/-- ABORT (R341): a command before its point of no return completes with ABORTED and has no effect. -/
def execAbort (port : PortId) (queue : Nat) (value : BitVec 32) (s : State) : Host.Outcome State Fault Refusal :=
  let k : CmdKey := ⟨port, queue, bitsOf value.toNat 4 0⟩
  if !bellOk s port then .next s
  else match s.dp.cmd k with
    | some c =>
      if c.stage != .finished && !c.pnr then .next (s.onDp (fun e => complete e k stAborted 0 0)).work else .next s
    | none => .next s

/-- CQ_HEAD (R344): entries are released and waiting records posted, or the write is ignored and counted. -/
def execCqHead (port : PortId) (queue : Nat) (value : BitVec 32) (s : State) : Host.Outcome State Fault Refusal :=
  let head := bitsOf value.toNat 11 0
  if !bellOk s port || portQueues s.env ≤ queue then .next s
  else .next (s.onDp (fun e d =>
    let x := d.queueD port queue
    let n := qRing x.entry
    let step := (head + n - x.head) % n
    let freed := if step = 0 && x.unread = n then n else step
    if !queueListed s port queue || !x.enabled || n ≤ head || x.unread < freed then
      ignoreDoorbell e port queue 8 value.toNat d
    else postAll e port queue (d.setQueue { x with head := head, unread := x.unread - freed }))).work

/-- A frozen queue runs again (R361 step 7). -/
def resumeQueue (e : Env) (p : PortId) (q : Nat) (d : Dp) : Dp :=
  let x := { d.queueD p q with st := .running }
  writeQstatus e x (d.setQueue x)

/-- RESUME_FETCH (R361, R362). -/
def execResumeFetch (port : PortId) (queue : Nat) (s : State) : Host.Outcome State Fault Refusal :=
  if bellOk s port && (s.dp.queueD port queue).st = .frozen then
    .next (s.onDp (fun e => resumeQueue e port queue)).work
  else .next s

/-- RESUME_FLUSH (R361): every recorded tag completes with QUEUE_FROZEN first. -/
def execResumeFlush (port : PortId) (queue : Nat) (s : State) : Host.Outcome State Fault Refusal :=
  if bellOk s port && (s.dp.queueD port queue).st = .frozen then
    .next (s.onDp (fun e d =>
      let tags := ((d.queueCmds port queue).filter (fun c => c.stage = .recorded)).map Cmd.key
      resumeQueue e port queue (tags.foldl (fun d k => endCmd e k stQueueFrozen 0 0 false d) d))).work
  else .next s

/-! ## Device registers (R300 to R305) -/

/-- ENABLED is set where ENABLE is 1, the table is in range and firmware runs (R302, R527). -/
def startEngine (e : Env) (p : PortId) (d : Dp) : Dp :=
  let h := d.port p
  if h.enable && e.fw && !e.fatal && h.tbase != 0 && 1 ≤ h.tcount && h.tcount ≤ portQueues e then
    d.setPort p { h with enabled := true }
  else d

/-- QUEUE_ENGINE_ENABLE (R302). -/
def execQueueEngineEnable (port : PortId) (s : State) : Host.Outcome State Fault Refusal :=
  let h := s.dp.port port
  if barServed s port && !h.enable then
    .next (s.onDp (fun e d => startEngine e port (d.setPort port { h with enable := true }))).work
  else .next s

/-- QUEUE_ENGINE_DISABLE (R302): ENABLED clears once no fetched command remains. -/
def execQueueEngineDisable (port : PortId) (s : State) : Host.Outcome State Fault Refusal :=
  if barServed s port then
    .next (s.onDp (fun _ d => settlePort port (d.onPort port (fun h => { h with enable := false })))).work
  else .next s

/-- Signal the device vector where an unmasked cause stands (R304). -/
def signalCauses (e : Env) (p : PortId) (d : Dp) : Dp :=
  let h := d.port p
  if h.devVecEn && h.evtCause &&& ~~~h.evtMask != 0 then msix e p devVector d else d

/-- DEV_VEC_EN_WRITE (R304). -/
def execDevVecEnWrite (port : PortId) (v : Bool) (s : State) : Host.Outcome State Fault Refusal :=
  let h := s.dp.port port
  if !barServed s port then .next s
  else .next (s.onDp (fun e d =>
    let d := d.setPort port { h with devVecEn := v }
    if v && !h.devVecEn then signalCauses e port d else d))

/-- EVT_CAUSE_CLEAR (Table 9-13): a bit written as 1 is cleared. -/
def execEvtCauseClear (port : PortId) (v : Word) (s : State) : Host.Outcome State Fault Refusal :=
  if barServed s port then
    .next (s.onDp (fun _ d => d.onPort port (fun h => { h with evtCause := h.evtCause &&& ~~~(v.truncate 16) })))
  else .next s

/-- EVT_MASK_WRITE (R304). -/
def execEvtMaskWrite (port : PortId) (v : Word) (s : State) : Host.Outcome State Fault Refusal :=
  let h := s.dp.port port
  let m : BitVec 16 := v.truncate 16
  if !barServed s port then .next s
  else .next (s.onDp (fun e d =>
    let d := d.setPort port { h with evtMask := m }
    if h.evtMask &&& ~~~m != 0 then signalCauses e port d else d))

/-- Fetch one queue's entry again (R332, R334). -/
def resyncEntry (p : PortId) (q : Nat) (ent : Option (BitVec 512)) (s : State) : State :=
  if !queueListed s p q then s
  else s.onDp (fun e d =>
    if dmaOk e d p then settleEngine e (postAll e p q (fetchEntry e p q ent d)) else stallBme p d)

/-- VQ_TSYNC_QUEUE (R334). -/
def execVqTsyncQueue (port : PortId) (queue : Nat) (entry : Option (BitVec 512)) (s : State) :
    Host.Outcome State Fault Refusal :=
  .next (resyncEntry port queue entry s).work

/-- VQ_TSYNC_ALL (R332): every entry is fetched again. -/
def execVqTsyncAll (port : PortId) (entries : List (Option (BitVec 512))) (s : State) :
    Host.Outcome State Fault Refusal :=
  .next (((entries.take (s.dp.port port).tcount).zipIdx.foldl (fun s x => resyncEntry port x.2 x.1 s) s)).work

/-- TIME_NOW_LOW_READ (R305): the low half of TIME_NOW is returned and the high half latched. -/
def execTimeNowLowRead (port : PortId) (s : State) : Host.Outcome State Fault Refusal :=
  if barServed s port then
    .next (s.onDp (fun e d => put (.barRead port (leBytes 4 e.now)) (d.onPort port (fun h =>
      { h with timeHigh := BitVec.ofNat 32 (e.now / 2 ^ 32), timeLatch := true }))))
  else .next s

/-- A register of 8 bytes after a write of 4 or 8 of its bytes. -/
def mergeWord (old off : Nat) (bytes : List Byte) : Nat :=
  let l := leBytes 8 old
  leNat (l.take (off % 8) ++ bytes ++ l.drop (off % 8 + bytes.length))

/-- A write to BAR0 is served when it is naturally aligned and 4 or 8 bytes long (R301). -/
def aligned48 (off n : Nat) : Bool := (n = 4 || n = 8) && off % n = 0

/-- The mailbox and the offset within it that a BAR0 offset names (Table 9-4). -/
def boxAt (off : Nat) : Option (Fin 4 × Nat) :=
  if 0x1000 ≤ off && off < 0xD000 then
    some (⟨(off - 0x1000) / 0x3000 % 4, Nat.mod_lt _ (by decide)⟩, (off - 0x1000) % 0x3000)
  else none

/-- A write to the request window of a mailbox: 1 to 64 bytes within it, ignored while BUSY (R301, R381). -/
def writeWindow (m : Mbx) (off : Nat) (bytes : List Byte) (d : Dp) : Dp :=
  if 1 ≤ bytes.length && bytes.length ≤ 64 && off + bytes.length ≤ 0x1000 && !(d.mail m).busy then
    d.onMail m (fun x => { x with reqWin := Memory.writeBytes x.reqWin off bytes })
  else d

/-- REGISTER_WRITE (R303): VQ_TBASE and VQ_TCOUNT take the value while ENABLED is 0, the request window of a mailbox takes
bytes, CTRL takes VEC; a write to a read-only or reserved register changes nothing. -/
def execRegisterWrite (port : PortId) (offset : Nat) (bytes : List Byte) (s : State) :
    Host.Outcome State Fault Refusal :=
  let h := s.dp.port port
  if !barServed s port then .next s
  else match boxAt offset with
    | some (n, o) =>
      if 0x1000 ≤ o && o < 0x2000 then .next (s.onDp (fun _ => writeWindow (.host port n) (o - 0x1000) bytes))
      else if o = 0 && aligned48 o bytes.length then
        .next (s.onDp (fun _ d => d.onMail (.host port n) (fun x => { x with vec := (leNat bytes).testBit 4 })))
      else .next s
    | none =>
      if !aligned48 offset bytes.length || h.enabled then .next s
      else if offset / 8 = 4 then
        .next { s with dp := s.dp.setPort port { h with
          tbase := BitVec.ofNat 64 (mergeWord h.tbase.toNat offset bytes / 4096 * 4096) } }
      else if offset / 8 = 5 then
        .next { s with dp := s.dp.setPort port { h with tcount := mergeWord h.tcount offset bytes % 4096 } }
      else .next s

/-! ## Reads of BAR0 and BAR2 (Table 0-2, R301, R305) -/

/-- The doorbell word at an offset of BAR2: the last CQ_HEAD the device took, and 0 for the doorbells that only write and for all that
is reserved. -/
def doorbellWord (s : State) (p : PortId) (off : Nat) : Nat :=
  if off % 64 = 8 && off / 64 < portQueues s.env then (s.dp.queueD p (off / 64)).head else 0

/-- What a read of `n` bytes of BAR2 returns. -/
def bar2Read (s : State) (p : PortId) (off n : Nat) : List Byte :=
  if barServed s p && aligned48 off n then
    (leBytes 4 (doorbellWord s p off) ++ leBytes 4 (doorbellWord s p (off + 4))).take n
  else List.replicate n 0

/-- What a read of `n` bytes of BAR0 returns: a device register, the latched high half of TIME_NOW after a read of its low half, CTRL or a
window of a mailbox. -/
def bar0Read (s : State) (p : PortId) (off n : Nat) : List Byte :=
  let h := s.dp.port p
  if !barServed s p then List.replicate n 0
  else match boxAt off with
    | some (i, o) =>
      let x := s.dp.mail (.host p i)
      if 0x1000 ≤ o then
        let inWin := 1 ≤ n && n ≤ 64 && o % 0x1000 + n ≤ 0x1000
        if !inWin then List.replicate n 0
        else Memory.readBytes (if o < 0x2000 then x.reqWin else x.respWin) (o % 0x1000) n
      else if o < 8 && aligned48 off n then ((leBytes 8 (ctrlWord s.env s.dp (.host p i))).drop (o % 8)).take n
      else List.replicate n 0
    | none =>
      if !aligned48 off n then List.replicate n 0
      else if off = 0x54 && n = 4 && h.timeLatch then leBytes 4 h.timeHigh.toNat
      else ((leBytes 8 (regWord s p (off / 8 * 8))).drop (off % 8)).take n

/-- MSIX_VECTOR_UNMASK (R300): the vector is unmasked, and its pending message sent. -/
def execMsixVectorUnmask (port : PortId) (vector : Nat) (s : State) : Host.Outcome State Fault Refusal :=
  let h := s.dp.port port
  if !barServed s port || devVector < vector then .next s
  else .next (s.onDp (fun e d =>
    let d := d.setPort port { h with unmasked := addNew vector h.unmasked }
    if h.pba.contains vector && h.msixEnable && dmaOk e d port && !h.d3 then
      put (.msix port vector) (d.onPort port (fun h => { h with pba := without vector h.pba }))
    else d))

/-! ## Mailbox CTRL (R381 to R383) -/

/-- The request in a window (Table 11-2). -/
def windowRequest (x : Mail) : MbReq :=
  let h := Memory.readBytes x.reqWin 0 16
  let n := fieldAt h 4 2
  { opcode := fieldAt h 0 2, token := BitVec.ofNat 32 (fieldAt h 12 4), length := n,
    clean := fieldAt h 2 2 = 0 && fieldAt h 6 6 = 0, payload := Memory.readBytes x.reqWin 16 (min n 4080),
    waiting := false }

end Sys2Proof.Machine
end

