-- ==== Sys2Proof/Machine/HostPort.lean ====
section
/-! DEFINITION. Meanings of the host port's own events: configuration requests (R299), links and resets (R296, R324 to
R330), power management (R322, R323), Bus Master Enable (R328, R329), completions (R308 to R310), translation and page
requests (R314 to R319), coalescing (R345) and Breakwater's admission (R418, R52). -/

namespace Sys2Proof.Machine

/-- Number of a port in the log. -/
def portNo : PortId → Nat
  | .a => 0
  | .b => 1

/-! ## Diagnostic authority at the end of a session (R399, R411) -/

/-- An OPEN slot is closed; its next sample closes it without a step (R409). -/
def closeLoop (n : Nat) (s : State) : State :=
  match s.tide.loops.find n with
  | some l =>
    if l.st = .opened then
      ({ s with tide := { s.tide with loops := s.tide.loops.put n { l with st := .closed, first := true, reclose := true } } }).log
        0x0906 2 srcTide [n]
    else s
  | none => s

/-- Every armed injection disarms (R182). -/
def disarmAll (s : State) : State :=
  { s with integ := { s.integ with
      arms := s.integ.arms.map (fun (a : Arm) => if a.st = ArmSt.armed then { a with st := ArmSt.disarmed } else a) } }

/-- Link-test frames stop (R186). -/
def stopTest (p : CwPort) (d : Dp) : Dp := d.setLink p { d.link p with testLeft := none }

/-- Diagnostic authority ends: every OPEN slot is closed, injections disarm, link tests stop, and MEAS7 records the
release. -/
def endDiag (s : State) : State :=
  if s.dp.mb.diag.isSome then
    let s := { s with dp := { s.dp with mb := { s.dp.mb with diag := none } } }
    let s := (disarmAll s).onDp (fun _ d => cwPorts.foldl (fun d p => stopTest p d) d)
    extendMeas 7 (leBytes 2 0x0902) ((List.range 32).foldl (fun s n => closeLoop n s) s)
  else s

/-- A mailbox session ends (R399); its diagnostic authority ends with it. -/
def endSession (m : Mbx) (s : State) : State := if s.dp.mb.diag = some m then endDiag s else s

/-! ## Commands in flight at a port reset (Table 9-16) -/

/-- Bytes [lo, lo + n) of a transfer have arrived. -/
def arrivedRange (chunks : List (Nat × List Byte)) (lo n : Nat) : Bool :=
  (List.range n).all (fun i => chunks.any (fun c => c.1 ≤ lo + i && lo + i < c.1 + c.2.length))

/-- A block of a write has been fetched with its tag. -/
def blkFetched (c : Cmd) (i : Nat) : Bool :=
  c.staged || ((redoing c).isSome && !c.redo.contains i) || (arrivedRange c.chunks (i * 4096) 4096 && (!c.tags || arrivedRange c.metaChunks (i * 16) 16))

/-- Bytes of a transfer from an offset, from the chunks that hold them. -/
def chunkBytes (chunks : List (Nat × List Byte)) (lo n : Nat) : List Byte :=
  (List.range n).map (fun i =>
    match chunks.find? (fun c => c.1 ≤ lo + i && lo + i < c.1 + c.2.length) with
    | some c => c.2.getD (lo + i - c.1) 0
    | none => 0)

/-- A fetched block of a write cut short, if it passes C1. -/
def cutBlk (c : Cmd) (i : Nat) : Option Blk :=
  if (redoing c).isSome && !c.redo.contains i then (c.got.find i).getD none
  else
  let data := chunkBytes c.chunks (i * 4096) 4096
  let b : Blk :=
    if c.tags then ⟨data, BitVec.ofNat 128 (leNat (chunkBytes c.metaChunks (i * 16) 16))⟩
    else ⟨data, mkTag 0 (BitVec.ofNat 32 (c.lba + i)) (guard64 data)⟩
  if (c1Status c.tags (c.lba + i) b).isNone then some b else none

/-- Tickets of a command. -/
def ticketsOf (d : Dp) (k : CmdKey) : List HTicket :=
  d.sh.htickets.filter (fun t => t.parts.any (fun x => x.key = k))

/-- A ticket of a head that its steward has granted. -/
def ticketGranted (t : HTicket) : Bool := t.stage = .granted || t.stage = .sent

/-- Give up the tickets of a command that a test picks. -/
def giveUp (e : Env) (k : CmdKey) (p : HTicket → Bool) (d : Dp) : Dp :=
  ((ticketsOf d k).filter p).foldl (fun d t => giveUpTicket e t
    (d.onHticket t.id (fun t => { t with parts := t.parts.filter (fun x => x.key != k) }))) d

/-- A command ends without a trace: its tickets are given up, and the tag is free. -/
def cutOff (e : Env) (k : CmdKey) (d : Dp) : Dp := (forget k (giveUp e k (fun _ => true) d)).freeTag k

/-- A WRITE whose data is partly fetched: a ticket whose blocks were all fetched goes on, every other is dropped. -/
def cutWrite (e : Env) (c : Cmd) (d : Dp) : Dp :=
  let k := c.key
  let got := (List.range c.len).filterMap (fun i =>
    if blkFetched c i then (cutBlk c i).map (fun b => (i, some b)) else none)
  let whole (t : HTicket) : Bool :=
    ticketGranted t && t.parts.all (fun x => x.key != k || got.any (fun g => g.1 = x.idx))
  let d := giveUp e k (fun t => !whole t) d
  let left := (ticketsOf d k).flatMap (fun t => (t.parts.filter (fun x => x.key = k)).map Part.idx)
  if left.isEmpty then (forget k d).freeTag k
  else orphan k (d.onCmd k (fun c => { c with staged := true, chunks := [], metaChunks := [], got := got, todo := left }))

/-- What a port reset makes of a command (Table 9-16). -/
def cutCmd (e : Env) (c : Cmd) (d : Dp) : Dp :=
  let k := c.key
  if c.stage != .running then cutOff e k d
  else if c.opcode = opVerify then
    let d := { d with sh := { d.sh with htickets := d.sh.htickets.map (fun t => { t with
        parts := t.parts.filter (fun x => x.key != k) }) } }
    (forget k d).freeTag k
  else if !isWriteOp c.opcode then cutOff e k d
  else if isDataOp c.opcode then
    if c.staged then orphan k d
    else if c.opcode = opWriteAtomic then cutOff e k d
    else cutWrite e c d
  else if (ticketsOf d k).any ticketGranted || c.asking then orphan k d
  else cutOff e k d

/-! ## Resets (Table 9-15) -/

/-- Which resets of Table 9-15 keep the link. -/
structure LinkKept where
  up    : Bool
  rate  : Nat
  width : Nat
deriving DecidableEq, Repr

/-- The queue engine, BAR0 registers, configuration space and mailboxes of a port are reset; each cause whose condition
still holds is set again (R304, R324 to R326). -/
def resetPort (p : PortId) (kept : LinkKept) (s : State) : State :=
  let s := s.onDp (fun e d => (d.vq.cmds.filter (fun c => c.key.port = p && !c.orphan)).foldl (fun d c => cutCmd e c d) d)
  let boxes := (s.dp.mb.boxes.map Mail.box).filter (fun m => match m with
    | .host q _ => q = p
    | .mgmt => false)
  let s := boxes.foldl (fun s m => endSession m s) s
  let d := s.dp
  let h : HostPort := { HostPort.reset (d.port p).fitted with linkUp := kept.up, rate := kept.rate, width := kept.width }
  let d := d.setPort p h
  let d := { d with
    vq := { d.vq with
      cache := d.vq.cache.filter (fun x => x.1 != p)
      queues := d.vq.queues.filter (fun x => x.port != p) }
    mb := { d.mb with
      boxes := d.mb.boxes.map (fun (x : Mail) => if boxes.contains x.box then Mail.reset x.box else x) } }
  let gone (m : Mbx) : Bool := boxes.contains m
  let s := { s with
    dp := d
    bed := { s.bed with due := s.bed.due.filter (fun (x : Due) => match x.dest with
      | .box m => !gone m
      | .order _ => true) }
    pwr := { s.pwr with
      sag := s.pwr.sag.map (fun (x : Sag) => if x.byMail.any gone then { x with byMail := none } else x)
      entering := s.pwr.entering.map (fun (x : Entering) => if x.byMail.any gone then { x with byMail := none } else x) }
    sec := { s.sec with
      clearing := s.sec.clearing.map (fun (x : Nat × Option Mbx × List CmdKey) => if x.2.1.any gone then (x.1, none, x.2.2) else x)
      spdmA := if p = PortId.a then SpdmSt.reset else s.sec.spdmA
      spdmB := if p = PortId.b then SpdmSt.reset else s.sec.spdmB } }
  let s := if s.boot.ready then s.onDp (fun e => causePort e evReady p) else s
  if s.boot.fatal then s.onDp (fun e => causePort e evFatal p) else s

/-- A reset that takes the link down. -/
def downPort (p : PortId) (s : State) : State := resetPort p ⟨false, 0, 0⟩ s

/-- In Ebb a wake event is noted for the exit (R506). -/
def noteWake (w : EbbWake) (s : State) : State :=
  if s.pwr.state = .ebb && !s.pwr.porHeld then { s with pwr := { s.pwr with wakes := addNew w s.pwr.wakes } } else s

/-- PERST_N_ASSERT (R325): both ports are reset; in Ebb it is a wake event (R506). -/
def execPerstNAssert (s : State) : Host.Outcome State Fault Refusal :=
  let s := noteWake .perst { s with dp := { s.dp with hp := { s.dp.hp with perst := true } } }
  if s.pwr.porHeld then .next s else .next (downPort .b (downPort .a s)).work

/-- PERST_N_RELEASE (R296): the ports may train. -/
def execPerstNRelease (s : State) : Host.Outcome State Fault Refusal :=
  .next { s with dp := { s.dp with hp := { s.dp.hp with perst := false } } }

/-- The core is powered and its outputs are not clamped: not in Ebb, not after Last Tide, not under power-on reset. -/
def coreOn (s : State) : Bool := !s.pwr.porHeld && s.pwr.state != .ebb && !s.pwr.waiting

/-- Rates in GT/s times 10, and widths (Table 9-1). -/
def linkRates : List Nat := [25, 50, 80, 160, 320, 640, 1280]

def widthOk (bifurc : Bool) (w : Nat) : Bool := [1, 2, 4, 8].contains w || (w = 16 && !bifurc)

/-- HOST_LINK_TRAINED (R296, R299): the link is in DL_Up. -/
def execHostLinkTrained (port : PortId) (rate width : Nat) (s : State) : Host.Outcome State Fault Refusal :=
  let h := s.dp.port port
  if h.fitted && !h.linkUp && !s.dp.hp.perst && coreOn s && s.pwr.state != .lastTide && linkRates.contains rate &&
      widthOk s.boot.straps.bifurc width then
    let s := { s with dp := s.dp.setPort port { h with linkUp := true, rate := rate, width := width } }
    .next (s.log 0x0101 1 srcHost [rate, width])
  else .next s

/-- HOT_RESET (R325). -/
def execHotReset (port : PortId) (s : State) : Host.Outcome State Fault Refusal :=
  if (s.dp.port port).linkUp then .next (downPort port s).work else .next s

/-- FLR (R325, R327): the function is reset and its link stays up. -/
def execFlr (port : PortId) (s : State) : Host.Outcome State Fault Refusal :=
  let h := s.dp.port port
  if !h.linkUp then .next s
  else
    let n := (s.dp.vq.cmds.filter (fun c => c.key.port = port && !c.orphan)).length
    let s := (s.log 0x0103 2 srcHost [portNo port, n]).onDp (fun _ => count 1 1 1)
    .next (resetPort port ⟨true, h.rate, h.width⟩ s).work

/-- HOST_LINK_DOWN (R330): handled as a hot reset, logged with the link state at the loss (0 L0, 1 L1). -/
def execHostLinkDown (port : PortId) (s : State) : Host.Outcome State Fault Refusal :=
  let h := s.dp.port port
  if !h.linkUp then .next s
  else
    let s := (s.log 0x0102 3 srcHost [portNo port, h.l1.toNat]).onDp (fun _ => count 1 0 1)
    .next (downPort port s).work

/-! ## Power management (R322, R323) -/

/-- HOST_LINK_L1_ENTRY (R322): allowed by ASPM with no command outstanding; the idle port reports 150 µs. -/
def execHostLinkL1Entry (port : PortId) (s : State) : Host.Outcome State Fault Refusal :=
  let h := s.dp.port port
  if h.linkUp && h.aspmL1 && !s.dp.vq.cmds.any (fun c => c.key.port = port && !c.orphan) then
    .next (s.onDp (fun _ d =>
      let d := d.setPort port { h with l1 := true }
      if h.ltr then put (.ltr port 150) d else d))
  else .next s

/-- HOST_LINK_L1_EXIT (R322). -/
def execHostLinkL1Exit (port : PortId) (s : State) : Host.Outcome State Fault Refusal :=
  if (s.dp.port port).l1 then
    .next ({ s with dp := s.dp.onPort port (fun h => { h with l1 := false }) }).stayAwake
  else .next s

/-- Send the messages whose PBA bits are set and whose vectors are not masked (R329). -/
def sendPending (e : Env) (p : PortId) (d : Dp) : Dp :=
  let h := d.port p
  if dmaOk e d p && !h.d3 && h.msixEnable then
    let go := h.pba.filter h.unmasked.contains
    go.foldl (fun d v => put (.msix p v) d) (d.setPort p { h with pba := h.pba.filter (fun v => !h.unmasked.contains v) })
  else d

/-- BUS_MASTER_ENABLE_CLEAR (R328): BME_STALL is set where a command waits for memory requests. -/
def execBusMasterEnableClear (port : PortId) (s : State) : Host.Outcome State Fault Refusal :=
  if !(s.dp.port port).linkUp then .next s
  else .next (s.onDp (fun _ d =>
    let waits := d.vq.cmds.any (fun c => c.key.port = port && c.stage = .finished)
    d.onPort port (fun h => { h with bme := false, bmeStall := h.bmeStall || waits }))).work

/-- BUS_MASTER_ENABLE_SET (R329): stalled commands resume, then pending messages go out. -/
def execBusMasterEnableSet (port : PortId) (s : State) : Host.Outcome State Fault Refusal :=
  if !(s.dp.port port).linkUp then .next s
  else
    let s := s.onDp (fun e d => postPort e port (d.onPort port (fun h => { h with bme := true, bmeStall := false })))
    .next (s.work.onDp (fun e => sendPending e port))

/-- D3HOT_ENTRY (R323). -/
def execD3hotEntry (port : PortId) (s : State) : Host.Outcome State Fault Refusal :=
  if (s.dp.port port).linkUp then .next { s with dp := s.dp.onPort port (fun h => { h with d3 := true }) } else .next s

/-- D0_RETURN (R323): completion records that waited are posted, and fetch goes on. -/
def execD0Return (port : PortId) (s : State) : Host.Outcome State Fault Refusal :=
  if (s.dp.port port).linkUp then
    let s := s.onDp (fun e d => postPort e port (d.onPort port (fun h => { h with d3 := false })))
    .next (s.work.onDp (fun e => sendPending e port))
  else .next s

/-! ## Completions (R308 to R310, R326) -/

/-- The outstanding read of a request number. -/
def readOf (h : HostPort) (req : Nat) : Option DmaRead := h.reads.find? (fun r => r.req = req)

/-- An invalidation's pages cover an address under a PASID. -/
def invalCovers (d : Dp) (x : Option Nat × Nat × Nat) (r : DmaRead) : Bool :=
  pasidOf d r.key = x.1 && x.2.1 ≤ r.addr / 4096 && r.addr / 4096 < x.2.1 + x.2.2

/-- Answer the invalidations whose affected reads have received all their completions (R315). -/
def settleInvals (p : PortId) (d : Dp) : Dp :=
  let h := d.port p
  let held (x : Option Nat × Nat × Nat) : Bool := h.reads.any (invalCovers d x)
  let done := h.invals.filter (fun x => !held x)
  done.foldl (fun d _ => put (.invalidationDone p) d) (d.setPort p { h with invals := h.invals.filter held })

/-- Take a read out of those outstanding. -/
def dropRead (p : PortId) (req : Nat) (d : Dp) : Dp :=
  settleInvals p (d.onPort p (fun h => { h with reads := h.reads.filter (fun r => r.req != req) }))

/-- Bytes of a read arrive; those still missing stay outstanding under its tag. -/
def takeBytes (e : Env) (p : PortId) (r : DmaRead) (data : List Byte) (d : Dp) : Dp :=
  let got := data.take r.bytes
  let rest : DmaRead := { r with off := r.off + got.length, addr := r.addr + got.length, bytes := r.bytes - got.length }
  let d := d.onCmd r.key (fun c =>
    if r.isMeta then { c with metaChunks := c.metaChunks ++ [(r.off, got)] }
    else { c with chunks := c.chunks ++ [(r.off, got)] })
  let d := if rest.bytes = 0 then dropRead p r.req d
    else d.onPort p (fun h => { h with reads := updateWhere (fun x => x.req = r.req) (fun _ => rest) h.reads })
  landData e r.key d

/-- HOST_READ_COMPLETION (R308): the data is reassembled; a completion for a request before a reset is dropped (R326). -/
def execHostReadCompletion (port : PortId) (req : Nat) (data : List Byte) (s : State) :
    Host.Outcome State Fault Refusal :=
  match readOf (s.dp.port port) req with
  | some r => if data.isEmpty then .next s else .next (s.onDp (fun e d => takeBytes e port r data (d.askPad .wstage 1 data.length))).work
  | none => .next s

/-- A read fails: its command completes with HOST_ACCESS_ERROR and the error is reported through AER (R309). -/
def failRead (p : PortId) (r : DmaRead) (s : State) : State :=
  (s.onDp (fun e d => failCmd e r.key stHostAccess 0 (count 1 3 1 (put (.aer p) (dropRead p r.req d))))).work

/-- HOST_COMPLETION_ERROR (R309). -/
def execHostCompletionError (port : PortId) (req : Nat) (_kind : CplError) (s : State) :
    Host.Outcome State Fault Refusal :=
  match readOf (s.dp.port port) req with
  | some r => .next (failRead port r s)
  | none => .next s

/-- The completion timeout in ns (R310): none where the host has disabled it. The field holds µs; 0 is the default of 40 ms,
and all ones disables it. -/
def timeoutNs (h : HostPort) : Option Nat :=
  if h.cplTimeout = 0 then some (40 * msec) else if h.cplTimeout = 0xFFFFFFFF then none else some (h.cplTimeout * usec)

/-- HOST_COMPLETION_TIMEOUT (R310). -/
def execHostCompletionTimeout (port : PortId) (req : Nat) (s : State) : Host.Outcome State Fault Refusal :=
  let h := s.dp.port port
  match readOf h req, timeoutNs h with
  | some r, some t =>
    if r.sentAt + t ≤ s.clk.time then .next (failRead port r (s.onDp (fun _ => count 1 6 1))) else .next s
  | _, _ => .next s

/-! ## Translation and page requests (R314 to R319) -/

/-- How a command needs a page: to read it, to write it. -/
def needsPage (d : Dp) (c : Cmd) (pasid : Option Nat) (page : Nat) : Bool × Bool :=
  if pasidOf d c.key != pasid then (false, false)
  else if c.stage = .running && isDataOp c.opcode && !c.staged then
    ((pagesFrom c.elems c.askOff ++ pagesFrom c.metas c.askMeta).contains page, false)
  else if c.stage = .running && c.opcode = opRead then
    (false, (pagesFrom c.elems c.moved ++ pagesFrom c.metas c.movedMeta).contains page)
  else if c.stage = .header && (c.opcode = opCodec || c.opcode = opGlaze) then
    ((pagesFrom c.elems 0).contains page, (pagesFrom c.metas 0).contains page)
  else (false, false)

/-- A command faults on a page (R317 to R319): it fails at once after a Response Failure or after three Success responses,
else a page request goes out while fewer than 512 are outstanding. -/
def faultPage (e : Env) (c : Cmd) (pasid : Option Nat) (page : Nat) (d : Dp) : Dp :=
  let p := c.key.port
  let h := d.port p
  let old := h.pageReqs.find? (fun r => r.key = c.key && r.page = page)
  let n := old.elim 0 PageReq.successes
  if h.priFailed || 3 ≤ n then failCmd e c.key stHostAccess 0 d
  else if (old.any (fun r => r.req != 0)) || 512 ≤ (h.pageReqs.filter (fun r => r.req != 0)).length then d
  else
    let req := h.nextReq + 1
    let r : PageReq := { req := req, key := c.key, pasid := pasid, page := page, sentAt := e.now, successes := n }
    let rest := h.pageReqs.filter (fun x => !(x.key = c.key && x.page = page))
    let d := d.setPort p { h with nextReq := req, pageReqs := rest ++ [r] }
    count 1 4 1 (put (.pageReq p req pasid page) (d.onCmd c.key (fun c => { c with faulted := true })))

/-- Entries the translation cache holds (R314). -/
def atcMax : Nat := 16384

/-- TRANSLATION_COMPLETION (R314, R317): the page enters the cache; each command that needs it otherwise faults. -/
def execTranslationCompletion (port : PortId) (pasid : Option Nat) (page : Nat) (readable writable : Bool) (target : Nat)
    (s : State) : Host.Outcome State Fault Refusal :=
  let h := s.dp.port port
  if !h.transReqs.contains (pasid, page) then .next s
  else
    let a : AtcEntry := { pasid := pasid, page := page, readable := readable, writable := writable, target := target }
    let others := h.atc.filter (fun x => !(x.pasid = pasid && x.page = page))
    let cache := if readable || writable then (a :: others).take atcMax else others
    let h := { h with transReqs := without (pasid, page) h.transReqs, atc := cache }
    .next (s.onDp (fun e d =>
      let d := d.setPort port h
      let mine := d.vq.cmds.filter (fun c => c.key.port = port)
      mine.foldl (fun d c =>
        let w := needsPage d c pasid page
        if (w.1 && !readable) || (w.2 && !writable) then faultPage e c pasid page d
        else if w.1 || w.2 then
          (d.onPort port (fun h => { h with
            pageReqs := h.pageReqs.filter (fun r => !(r.key = c.key && r.page = page)) })).onCmd c.key
              (fun c => { c with faulted := false })
        else d) d)).work

/-- An outstanding page request by its number. -/
def pageReqOf (h : HostPort) (req : Nat) : Option PageReq :=
  if req = 0 then none else h.pageReqs.find? (fun r => r.req = req)

/-- PAGE_REQUEST_SUCCESS (R317): the page is translated again. -/
def execPageRequestSuccess (port : PortId) (req : Nat) (s : State) : Host.Outcome State Fault Refusal :=
  let h := s.dp.port port
  match pageReqOf h req with
  | some r => .next ({ s with dp := s.dp.setPort port { h with
      pageReqs := updateWhere (fun x => x.req = r.req) (fun x => { x with req := 0, successes := x.successes + 1 })
        h.pageReqs } }).work
  | none => .next s

/-- A page request fails its command (R318, R319). -/
def failPage (p : PortId) (r : PageReq) (s : State) : State :=
  (s.onDp (fun e d => failCmd e r.key stHostAccess 0 (count 1 5 1 (d.onPort p (fun h => { h with
    pageReqs := h.pageReqs.filter (fun x => x != r) }))))).work

/-- PAGE_REQUEST_INVALID (R319). -/
def execPageRequestInvalid (port : PortId) (req : Nat) (s : State) : Host.Outcome State Fault Refusal :=
  match pageReqOf (s.dp.port port) req with
  | some r => .next (failPage port r s)
  | none => .next s

/-- PAGE_REQUEST_RESPONSE_FAILURE (R319): PRI_FAILED is set, and every command held on a page request fails. -/
def execPageRequestResponseFailure (port : PortId) (req : Nat) (s : State) : Host.Outcome State Fault Refusal :=
  let h := s.dp.port port
  if (pageReqOf h req).isNone then .next s
  else
    let keys := (h.pageReqs.map PageReq.key).eraseDups
    let s := (s.log 0x0104 4 srcHost [portNo port]).onDp (fun e d =>
      let d := count 1 5 1 (d.onPort port (fun h => { h with priFailed := true, pageReqs := [] }))
      keys.foldl (fun d k => failCmd e k stHostAccess 0 d) d)
    .next s.work

/-- PAGE_REQUEST_TIMEOUT (R318): after HP_PRI_TIMEOUT. -/
def execPageRequestTimeout (port : PortId) (req : Nat) (s : State) : Host.Outcome State Fault Refusal :=
  match pageReqOf (s.dp.port port) req with
  | some r => if r.sentAt + s.param 0x0101 * msec ≤ s.clk.time then .next (failPage port r s) else .next s
  | none => .next s

/-- PRI_CAPABILITY_RESET (R319): faults may raise page requests again. -/
def execPriCapabilityReset (port : PortId) (s : State) : Host.Outcome State Fault Refusal :=
  .next ({ s with dp := s.dp.onPort port (fun h => { h with priFailed := false }) }).work

/-- INVALIDATION_REQUEST (R315): the translations go, and the request is acknowledged once affected reads have drained. -/
def execInvalidationRequest (port : PortId) (pasid : Option Nat) (firstPage pages : Nat) (s : State) :
    Host.Outcome State Fault Refusal :=
  let h := s.dp.port port
  if !h.linkUp then .next s
  else .next (s.onDp (fun _ d => settleInvals port (d.setPort port { h with
    atc := h.atc.filter (fun x => !(x.pasid = pasid && firstPage ≤ x.page && x.page < firstPage + pages))
    invals := h.invals ++ [(pasid, firstPage, pages)] }))).work

/-- A command of a queue that may issue no further request ends where it needs one (R335). -/
def cutDma (e : Env) (c : Cmd) (d : Dp) : Dp :=
  if c.stage = .running && isWriteOp c.opcode && (c.staged || !isDataOp c.opcode) then d
  else if c.stage = .recorded || c.stage = .finished then d
  else failCmd e c.key stHostAccess 0 d

/-- PASID_ENABLE_CLEAR (R335): every enabled queue that uses a PASID becomes BROKEN. -/
def execPasidEnableClear (port : PortId) (s : State) : Host.Outcome State Fault Refusal :=
  .next (s.onDp (fun e d =>
    let d := d.onPort port (fun h => { h with pasidEn := false })
    let hit := d.vq.queues.filter (fun x => x.port = port && x.enabled && qPasidEn x.entry && x.st != .broken)
    hit.foldl (fun d x =>
      let d := breakQueue e port x.queue d
      (d.queueCmds port x.queue).foldl (fun d c => cutDma e c d) d) d)).work

/-! ## Configuration space (R299, Table 9-2) -/

/-- Subsystem ID of a port. -/
def subsystemId (e : Env) (p : PortId) : Nat := if !e.bifurc then 1 else portNo p + 2

/-- The settings of a port that its configuration space shows. -/
def cfgSettings (h : HostPort) : List Nat :=
  [h.maxPayload, h.maxReadReq, h.tagMode, h.cplTimeout, h.ats.toNat, h.aspmL1.toNat, h.ltr.toNat, h.msixEnable.toNat,
   h.pasidEn.toNat, h.d3.toNat, h.priFailed.toNat, h.rate, h.width]

/-- Capability IDs by offset (Table 9-3). PRESUMED: the numbers are the PCI Express specification's (R299), log 3. -/
def capIds : Tab Nat := [(0x40, 0x01), (0x50, 0x10), (0xB0, 0x11)]

/-- Extended capability IDs by offset; the one of Physical Layer 128.0 GT/s is left to Config.configDword. -/
def extCapIds : Tab Nat :=
  [(0x100, 0x01), (0x148, 0x03), (0x158, 0x19), (0x188, 0x25), (0x198, 0x26), (0x1C8, 0x27), (0x210, 0x2A), (0x240, 0x31),
   (0x2A0, 0x2F), (0x2B0, 0x18), (0x2B8, 0x1E), (0x2C8, 0x0F), (0x2D0, 0x13), (0x2E0, 0x1B), (0x2E8, 0x2E)]

/-- Offsets of the capabilities of Table 9-3, in its order, with the extended ones from 0x100. -/
def capOffsets : List Nat :=
  [0x40, 0x50, 0xB0, 0x100, 0x148, 0x158, 0x188, 0x198, 0x1C8, 0x210, 0x240, 0x270, 0x2A0, 0x2B0, 0x2B8, 0x2C8, 0x2D0, 0x2E0,
   0x2E8]

/-- Where the list goes on after a capability: 0 at the last entry of its list (R299). -/
def nextCap (off : Nat) : Nat :=
  if off = 0xB0 then 0 else ((capOffsets.dropWhile (fun x => x != off)).drop 1).headD 0

/-- The header of a capability: its ID and the offset of the next; its other bits are free. -/
def capHeader (free : BitVec 32) (off : Nat) : BitVec 32 :=
  if off < 0x100 then (free &&& 0xFFFF0000) ||| BitVec.ofNat 32 (nextCap off * 256 + capIds.get 0 off)
  else
    let id := match extCapIds.find off with
      | some n => n
      | none => free.toNat % 65536
    (free &&& 0x000F0000) ||| BitVec.ofNat 32 (nextCap off * 2 ^ 20 + id)

/-- A dword of configuration space: the identity of Table 9-2, Bus Master Enable and the list flag in Command and Status, the BARs of
Table 9-4 (64-bit, non-prefetchable), the capability lists of Table 9-3, the serial number; any other as Config.configDword gives it. -/
def configRead (e : Env) (h : HostPort) (p : PortId) (off : Nat) : BitVec 32 :=
  let bar (n : Nat) : Nat := h.bars.get 0 n
  let free := Config.configDword off (cfgSettings h)
  if off = 0x00 then 0x74001F8B
  else if off = 0x04 then (free &&& 0xFFFFFFFB) ||| BitVec.ofNat 32 (0x00100000 + 4 * h.bme.toNat)
  else if off = 0x08 then 0x018000B0
  else if off = 0x0C then free &&& 0xFF00FFFF
  else if 0x10 ≤ off && off ≤ 0x24 && off % 4 = 0 then
    let n := (off - 0x10) / 8
    if off % 8 = 0 then BitVec.ofNat 32 (bar n + 4) else BitVec.ofNat 32 (bar n / 2 ^ 32)
  else if off = 0x2C then BitVec.ofNat 32 (subsystemId e p * 65536 + 0x1F8B)
  else if off = 0x30 then 0
  else if off = 0x34 then (free &&& 0xFFFFFF00) ||| 0x40
  else if off = 0x3C then free &&& 0xFFFF00FF
  else if capOffsets.contains off then capHeader free off
  else if off = 0x14C then e.serial.truncate 32
  else if off = 0x150 then (e.serial >>> 32).truncate 32
  else free

/-- Payload and request sizes a port may be set to. -/
def tlpSizes : List Nat := [128, 256, 512, 1024, 2048, 4096]

/-- Size of a BAR (Table 9-4). -/
def barSize (n : Nat) : Nat := if n = 1 then 131072 else 65536

/-- A write of a configuration field; a value the field cannot hold changes nothing. -/
def configWrite (h : HostPort) (f : CfgField) (v : Nat) : HostPort :=
  match f with
  | .maxPayload => if tlpSizes.contains v then { h with maxPayload := v } else h
  | .maxReadReq => if tlpSizes.contains v then { h with maxReadReq := v } else h
  | .tagMode => { h with tagMode := v % 4 }
  | .cplTimeout => { h with cplTimeout := v % 2 ^ 32 }
  | .ats => { h with ats := v % 2 = 1, atc := if v % 2 = 1 then h.atc else [] }
  | .aspmL1 => { h with aspmL1 := v % 2 = 1 }
  | .ltr => { h with ltr := v % 2 = 1 }
  | .msixEnable => { h with msixEnable := v % 2 = 1 }
  | .pasidEnable => { h with pasidEn := v % 2 = 1 }
  | .bar n => { h with bars := h.bars.put n.val (v % 2 ^ 64 / barSize n.val * barSize n.val) }

/-- CONFIG_REQUEST (R299, R525): answered from DL_Up. Clearing PASID Enable acts as PASID_ENABLE_CLEAR. -/
def execConfigRequest (port : PortId) (req : CfgReq) (s : State) : Host.Outcome State Fault Refusal :=
  let h := s.dp.port port
  if !h.linkUp then .next s
  else match req with
    | .read off => .next (s.out (.cfgRead port (configRead s.env h port off)))
    | .write .pasidEnable 0 => execPasidEnableClear port s
    | .write f v => .next ({ s with dp := s.dp.setPort port (configWrite h f v) }).work

/-! ## Coalescing and admission -/

/-- COALESCE_TIMER (R345): COAL_TIME has passed since the oldest unsignalled record was posted. -/
def execCoalesceTimer (port : PortId) (queue : Nat) (s : State) : Host.Outcome State Fault Refusal :=
  let x := s.dp.queueD port queue
  if x.unsig != 0 && x.unsigAt + qCoalTime x.entry * usec ≤ s.clk.time then
    .next (s.onDp (fun e => signalQueue e port queue))
  else .next s

/-- WRITE_ADMISSION (R418): the pool's bucket, filled to now, admits the commands whose cost it holds, in header order. -/
def execWriteAdmission (pool : Nat) (s : State) : Host.Outcome State Fault Refusal :=
  if (waitingWrites s.dp pool).isEmpty then .next s
  else .next (s.onDp (fun e d =>
    (waitingWrites d pool).foldl (fun d c => startHeader e c.key d) d)).work

/-- PENDING_TABLE_ROOM (R52): entries are free, so delayed write-class descriptors are fetched. -/
def execPendingTableRoom (s : State) : Host.Outcome State Fault Refusal :=
  if !tableFull s.dp || !s.dp.sh.fullRanks.isEmpty then
    .next (s.onDp (fun e => startHeaders e)).work
  else .next s

end Sys2Proof.Machine
end

