-- ==== Sys2Proof/Machine/Mailbox.lean ====
section
/-! DEFINITION. The mailbox protocol (R381 to R387, R399): the layout of each request, the checks of R386 in their order, the
authority classes of Table 11-13, and the meanings of MAILBOX_GO and MAILBOX_DONE_CLEAR. -/

namespace Sys2Proof.Machine

/-! ## Request layouts (Tables 5-10, 5-13, 11-8, 11-10, 11-11, 12-2, 13-4, 13-12) -/

/-- A named field of a request: offset, bytes, least and greatest value. -/
structure Fld where
  off : Nat
  n   : Nat
  lo  : Nat
  hi  : Nat
deriving DecidableEq, Repr

/-- A request's layout: its named fields, the end of its fixed part, and the LENGTH it takes (R578). -/
structure Form where
  flds  : List Fld
  fixed : Nat
  len   : Nat
  /-- 16-byte entries that follow the fixed part, bytes 2 to 7 of each reserved (Tables 11-9 and 11-11). -/
  items : Nat
  /-- The rules a field's description adds to its range. -/
  ok    : Bool
deriving DecidableEq, Repr

/-- The greatest value of a field of `n` bytes. -/
def top (n : Nat) : Nat := 2 ^ (8 * n) - 1

/-- A field of `n` bytes that takes any value. -/
def anyFld (off n : Nat) : Fld := ⟨off, n, 0, top n⟩

/-- A fixed request of named fields. -/
def fixedForm (l : List Fld) : Form :=
  let stop := l.foldl (fun m f => max m (f.off + f.n)) 0
  { flds := l, fixed := stop, len := stop, items := 0, ok := true }

/-- The fixed part of Table 11-8 and the node entries; `least` is the least HANDLE, and the least CAPACITY of a root that is not CONCAT:
1 for POOL_CREATE, 0 for RESHAPE_START, which answers handle 0 with POOL_NOT_FOUND (R41). -/
def treeForm (least : Nat) (p : List Byte) : Form :=
  let n := fieldAt p 20 1
  { flds := [⟨15, 1, least, 255⟩, ⟨16, 1, 0, 1⟩, ⟨17, 1, 0, 1⟩, ⟨18, 1, 0, 3⟩, ⟨19, 1, 0, 4⟩, ⟨20, 1, 1, 64⟩,
             if rootConcat p then ⟨24, 8, 0, 0⟩ else ⟨24, 8, least, capMax⟩],
    fixed := 32, len := 32 + 16 * n, items := n, ok := true }

/-- The largest image (Table 13-12). -/
def imageMax : Nat := 128 * mib

/-- INJECT_CHECKBITS (Table 5-10). -/
def injectForm (p : List Byte) : Form :=
  let t := fieldAt p 0 1
  let unit := if t = 1 ∨ t = 4 then 3 else 0
  let sel := if t = 1 then 4 else 0
  let cnt : Nat × Nat := if t = 3 then (1, 1024) else if t = 4 then (1, 32) else (0, 0)
  let adr := if t = 4 then 0 else top 8
  { fixedForm [⟨0, 1, 1, 4⟩, ⟨1, 1, 0, unit⟩, ⟨2, 1, 0, sel⟩, ⟨3, 1, 1, 255⟩, anyFld 4 2, ⟨6, 2, cnt.1, cnt.2⟩,
      ⟨8, 8, 0, adr⟩, anyFld 16 16] with ok := t != 1 || fieldAt p 8 8 % 64 = 0 }

/-- DIAG_ACCESS (Table 5-13). -/
def diagForm (p : List Byte) : Form :=
  let t := fieldAt p 0 1
  let op := fieldAt p 1 1
  let n := fieldAt p 4 4
  let unit := if t = 1 ∨ t = 4 then 3 else 0
  let len : Nat × Nat :=
    if t = 1 then (64, 4032) else if t = 2 then (1, 4048) else if t = 4 ∧ op = 3 then (0, top 4) else (0, 0)
  let adr := if t = 4 then 0 else top 8
  let pat := if (t = 3 ∧ op = 1) ∨ (t = 4 ∧ op = 3) then top 4 else 0
  let pair := (1 ≤ t && t ≤ 3 && op ≤ 1) || (t = 3 && op = 2) || (t = 4 && (op = 3 || op = 4))
  let data := if (t = 1 ∨ t = 2) ∧ op = 1 then n else 0
  { flds := [⟨0, 1, 1, 4⟩, ⟨1, 1, 0, 4⟩, ⟨2, 1, 0, unit⟩, ⟨4, 4, len.1, len.2⟩, ⟨8, 8, 0, adr⟩, ⟨16, 4, 0, pat⟩],
    fixed := 32, len := 32 + data, items := 0,
    ok := pair && (t != 1 || (n % 64 = 0 && fieldAt p 8 8 % 64 = 0)) }

/-- KEY_SLOT_LOAD (Table 13-4): the key that follows 16 bytes depends on the source and the size. -/
def keyForm (p : List Byte) : Form :=
  let src := fieldAt p 2 1
  let key := if fieldAt p 3 1 = 1 then 64 else 32
  let slot : Fld := if src = 2 then anyFld 8 2 else ⟨8, 2, 0, 0⟩
  { flds := [anyFld 0 2, ⟨2, 1, 0, 2⟩, ⟨3, 1, 0, 1⟩, ⟨4, 2, 0, 127⟩, ⟨6, 1, 0, 1⟩, slot],
    fixed := 16, len := 16 + (if src = 0 then 0 else if src = 1 then key else 28 + key), items := 0, ok := true }

/-- FW_STAGE (Table 13-12). -/
def stageForm (p : List Byte) : Form :=
  if fieldAt p 0 1 = 0 then fixedForm [⟨0, 1, 0, 1⟩, ⟨4, 4, 0, imageMax⟩]
  else
    { flds := [⟨0, 1, 0, 1⟩, anyFld 4 4, ⟨8, 4, 1, 4064⟩], fixed := 16, len := 16 + fieldAt p 8 4, items := 0, ok := true }

/-- ATTEST_GET (Table 13-4): the nonce is present for QUOTE. -/
def attestForm (p : List Byte) : Form :=
  let l : List Fld := [⟨0, 1, 0, 1⟩, ⟨1, 1, 0, 2⟩, anyFld 2 2]
  fixedForm (if fieldAt p 0 1 = 0 then l ++ [anyFld 8 32] else l)

/-- MEDIA_RETURN names a die of a channel, or 0xFF for the whole channel. -/
def returnForm (p : List Byte) : Form :=
  { fixedForm [⟨0, 1, 0, 63⟩, anyFld 1 1] with ok := fieldAt p 1 1 < 16 || fieldAt p 1 1 = 255 }

/-- The layout of an opcode's request, `queues` being the queues of the port; none for an opcode not in Table 11-6. -/
def reqForm (queues op : Nat) (p : List Byte) : Option Form :=
  let none_ := fixedForm []
  let handle := fixedForm [anyFld 0 1]
  let loop := fixedForm [⟨0, 1, 0, 31⟩]
  let params : Form :=
    { flds := [⟨0, 4, 1, 255⟩], fixed := 16, len := 16 + 16 * fieldAt p 0 4, items := min 255 (fieldAt p 0 4),
      ok := true }
  let queue := { fixedForm [anyFld 0 2] with ok := fieldAt p 0 2 < queues }
  match op with
  | 0x0001 | 0x0002 | 0x0003 | 0x0005 | 0x0105 | 0x0502 | 0x0504 | 0x0701 | 0x0801 | 0x0802 | 0x0803 | 0x0804 | 0x0901
  | 0x0902 | 0x0903 => some none_
  | 0x0004 => some (fixedForm [anyFld 0 8])
  | 0x0101 => some (treeForm 1 p)
  | 0x0106 => some (treeForm 0 p)
  | 0x0102 => some (fixedForm [anyFld 0 1, ⟨1, 1, 0, 1⟩])
  | 0x0103 => some (fixedForm [anyFld 0 1, ⟨8, 8, 1, capMax⟩])
  | 0x0104 | 0x0107 | 0x0111 | 0x0112 | 0x0403 | 0x0712 | 0x0713 => some handle
  | 0x0108 => some (fixedForm [anyFld 0 4])
  | 0x0109 => some (fixedForm [anyFld 0 1, ⟨1, 1, 0, 1⟩])
  | 0x0110 => some (fixedForm [anyFld 0 1, ⟨4, 4, 1000, 600000⟩])
  | 0x0201 | 0x0202 => some queue
  | 0x0301 => some (fixedForm [⟨0, 1, 1, 15⟩])
  | 0x0302 | 0x0303 => some params
  | 0x0401 => some (fixedForm [anyFld 0 4, ⟨4, 2, 1, 127⟩, ⟨6, 1, 0, 6⟩])
  | 0x0402 => some (fixedForm [anyFld 0 2, ⟨2, 2, 1, 127⟩])
  | 0x0404 => some (fixedForm [⟨0, 1, 1, 15⟩])
  | 0x0501 => some (stageForm p)
  | 0x0503 => some (fixedForm [⟨0, 1, 0, 1⟩, anyFld 4 4, ⟨8, 1, 0, 1⟩])
  | 0x0601 => some (attestForm p)
  | 0x0602 => some (keyForm p)
  | 0x0603 => some (fixedForm [anyFld 0 2])
  | 0x0604 => some (fixedForm [⟨0, 1, 0, 15⟩, ⟨1, 1, 0, 1⟩])
  | 0x0702 => some { fixedForm [⟨0, 2, 0, 256⟩, ⟨2, 2, 1, 255⟩] with ok := fieldAt p 0 2 + fieldAt p 2 2 ≤ 257 }
  | 0x0703 => some (fixedForm [⟨0, 1, 0, 15⟩, anyFld 8 8])
  | 0x0704 => some (fixedForm [⟨0, 1, 0, 15⟩])
  | 0x0705 => some (fixedForm [⟨0, 1, 0, 15⟩, ⟨1, 1, 0, 1⟩])
  | 0x0706 => some (fixedForm [⟨0, 1, 0, 15⟩, ⟨1, 1, 0, 15⟩])
  | 0x0710 => some (fixedForm [anyFld 0 1, ⟨1, 1, 0, 15⟩])
  | 0x0711 => some (fixedForm [anyFld 0 1, ⟨1, 1, 0, 15⟩, ⟨2, 1, 0, 15⟩])
  | 0x0904 => some (returnForm p)
  | 0x0920 => some (injectForm p)
  | 0x0921 => some (fixedForm [anyFld 0 4])
  | 0x0922 => some (diagForm p)
  | 0x0A01 | 0x0A04 => some loop
  | 0x0A02 => some (fixedForm [⟨0, 1, 0, 31⟩, ⟨1, 1, 0, 1⟩, anyFld 4 4])
  | 0x0A03 => some (fixedForm ([⟨0, 1, 0, 31⟩] ++ (List.range 8).map (fun i => anyFld (4 + 4 * i) 4)))
  | 0x0A10 => some (fixedForm [⟨0, 1, 0, 3⟩, ⟨1, 1, 0, 31⟩, ⟨2, 1, 0, 3⟩, ⟨3, 1, 0, 1⟩, ⟨4, 2, 1, 256⟩, ⟨6, 2, 0, 4095⟩,
                          anyFld 8 4])
  | 0x0A11 => some (fixedForm [⟨0, 1, 0, 3⟩, ⟨2, 2, 0, 4095⟩, ⟨4, 2, 1, 127⟩])
  | _ => none

/-- A field as far as LENGTH reaches: within its range. A field that LENGTH leaves out is not judged here. -/
def fldOk (p : List Byte) (f : Fld) : Bool :=
  p.length < f.off + f.n || (f.lo ≤ fieldAt p f.off f.n && fieldAt p f.off f.n ≤ f.hi)

/-- A byte of the fixed part that no field covers is 0. -/
def rsvdOk (fm : Form) (p : List Byte) (i : Nat) : Bool :=
  fm.flds.any (fun f => f.off ≤ i && i < f.off + f.n) || p.getD i 0 = 0

/-- The first entry whose reserved bytes are not 0. -/
def badItem (fm : Form) (p : List Byte) : Option Nat :=
  (List.range fm.items).find? (fun i => fieldAt p (fm.fixed + 16 * i + 2) 6 != 0)

/-- The largest payload (Table 11-2). -/
def payloadMax : Nat := 4080

/-- Steps 1 to 3 of R386: status and DETAIL of the first failure. -/
def formError (queues : Nat) (r : MbReq) : Option (Nat × Nat) :=
  match reqForm queues r.opcode r.payload with
  | none => some (msOpcode, 0)
  | some fm =>
    if !r.clean then some (msField, 0)
    else if !(fm.flds.all (fldOk r.payload)) || !((List.range fm.fixed).all (rsvdOk fm r.payload)) then some (msField, 0)
    else match badItem fm r.payload with
      | some i => some (msField, i)
      | none =>
        if fm.fixed ≤ r.payload.length && !fm.ok then some (msField, 0)
        else if r.length != fm.len || payloadMax < r.length || r.payload.length != r.length then some (msLength, 0)
        else none

/-! ## Service and authority (R383, R536, R541, Table 11-13) -/

/-- A command is served in the device's present condition. -/
def served (e : Env) (op : Nat) : Bool :=
  let g := op / 256
  if e.fatal then g = 0 || g = 4
  else if e.safe then g = 0 || (3 ≤ g && g ≤ 6) || op = 0x0903
  else e.ready || g = 0 || op = 0x0301

/-- Commands of class D. -/
def isDiagOp (op : Nat) : Bool :=
  op = 0x0902 || (0x0920 ≤ op && op ≤ 0x0922) || (0x0A02 ≤ op && op ≤ 0x0A04) || op = 0x0A10

/-- Commands of class H. -/
def isHostOp (op : Nat) : Bool := op = 0x0602 || op = 0x0603 || op = 0x0904

/-- The management port is present (R394). -/
def mgmtHere (d : Dp) : Bool := d.mb.mgmtAt.isSome

/-- An order of a class may come from a mailbox. Leases are checked at the registry steward (R395). -/
def classOk (d : Dp) (m : Mbx) : Auth → Bool
  | .h => m != .mgmt
  | .m => m = .mgmt || !mgmtHere d
  | _ => true

/-- Step 5 of R386 for the classes that the device itself judges. -/
def authorised (d : Dp) (m : Mbx) (op : Nat) : Bool :=
  if isDiagOp op then d.mb.diag = some m
  else if isHostOp op then classOk d m .h
  else if op = 0x0804 then classOk d m .m
  else true

/-! ## Starting a command -/

/-- Queues of the port a mailbox belongs to; the management port has none. -/
def mbxQueues (e : Env) : Mbx → Nat
  | .host _ _ => portQueues e
  | .mgmt => 0

/-- A session starts (R399): a number drawn from the DRBG (Table 11-1). -/
def newSession (m : Mbx) (d : Dp) : Dp :=
  let x := draw d
  x.2.onMail m (fun b => { b with session := BitVec.ofNat 32 (Config.random x.1) })

/-- Start a command in a mailbox: BUSY sets, a session starts if none has, and the first failure of R386 steps 1 to 5 ends
the command. A command of class D that passes them keeps diagnostic authority alive. -/
def startRequest (m : Mbx) (r : MbReq) (s : State) : State :=
  s.onDp (fun e d =>
    let d := if (d.mail m).session = 0 then newSession m d else d
    let d := d.onMail m (fun x => { x with busy := true, request := some r })
    match formError (mbxQueues e m) r with
    | some (st, det) => respond e m st det [] d
    | none =>
      if !served e r.opcode then refuse e m msNotReady d
      else if !authorised d m r.opcode then refuse e m msAuthority d
      else if isDiagOp r.opcode then { d with mb := { d.mb with diagAt := e.now } }
      else d)

/-- A write of CTRL (Table 11-1): VEC takes its bit, GO starts the command in the request window while BUSY and DONE are 0,
and DONE written as 1 clears. GO is judged on DONE as it stood. -/
def writeCtrl (p : PortId) (n : Fin 4) (v : Word) (s : State) : State :=
  let m : Mbx := .host p n
  if !bellLink s p then s
  else
    let x := s.dp.mail m
    let s := s.onDp (fun _ d => d.onMail m (fun b => { b with vec := v.getLsbD 4, done := b.done && !v.getLsbD 2 }))
    if !v.getLsbD 0 || !available s.env s.dp m then s
    else if x.busy || x.done then s.onDp (fun _ d => d.onMail m (fun b => { b with ignored := b.ignored + 1 }))
    else startRequest m (windowRequest x) (s.stayAwake)
where
  /-- The port takes host writes (R189, R525). -/
  bellLink (s : State) (p : PortId) : Bool := barServed s p

/-- MAILBOX_GO (R381, R383, R386): CTRL written with GO 1. -/
def execMailboxGo (port : PortId) (n : Fin 4) (v : Word) (s : State) : Host.Outcome State Fault Refusal :=
  .next (writeCtrl port n (v ||| 1) s)

/-- MAILBOX_DONE_CLEAR (R382): CTRL written with DONE 1 and GO 0. -/
def execMailboxDoneClear (port : PortId) (n : Fin 4) (v : Word) (s : State) : Host.Outcome State Fault Refusal :=
  .next (writeCtrl port n ((v ||| 4) &&& ~~~(1#64)) s)

/-! ## A running command -/

/-- Run a mailbox's command: it has the opcode and has not yet started to wait. -/
def onRequest (m : Mbx) (op : Nat) (f : MbReq → State → State) (s : State) : Host.Outcome State Fault Refusal :=
  match s.dp.request m with
  | some r => if r.opcode = op && !r.waiting then .next (f r s) else .next s
  | none => .next s

/-- Run one of the commands that share an opcode: byte `i` of the payload is `sub`. -/
def onSub (m : Mbx) (op i sub : Nat) (f : MbReq → State → State) (s : State) : Host.Outcome State Fault Refusal :=
  onRequest m op (fun r s => if fieldAt r.payload i 1 = sub then f r s else s) s

/-- Respond with SUCCESS. -/
def State.answer (s : State) (m : Mbx) (payload : List Byte) : State :=
  s.onDp (fun e => respond e m msSuccess 0 payload)

/-- Respond with a failure. -/
def State.deny (s : State) (m : Mbx) (status detail : Nat) : State := s.onDp (fun e => respond e m status detail [])

/-- The request goes to the registry steward (R395). -/
def State.forward (s : State) (m : Mbx) : State := (s.onDp (fun e => forwardRequest e m)).work

end Sys2Proof.Machine
end

