-- ==== Sys2Proof/Machine/MailDiag.lean ====
section
/-! DEFINITION. Meanings of the mailbox commands of group 0x09: diagnostic authority (R399), MEDIA_RETURN (R113), check-bit
injection (R179 to R183, R187), diagnostic access (R184, R185) and link tests (R186). -/

namespace Sys2Proof.Machine

/-! ## Diagnostic authority -/

/-- DIAG_AUTH_ACQUIRE (R399): granted when no session of the device holds it; a session that holds it is refused like
another. -/
def execDiagAuthAcquire (m : Mbx) (s : State) : Host.Outcome State Fault Refusal :=
  onRequest m 0x0901 (fun _ s =>
    if s.dp.mb.diag.isSome then s.deny m msAuthority 0
    else
      let s := { s with dp := { s.dp with mb := { s.dp.mb with diag := some m, diagAt := s.clk.time } } }
      (extendMeas 7 (leBytes 2 0x0901) s).answer m []) s

/-- DIAG_AUTH_RELEASE (R399). -/
def execDiagAuthRelease (m : Mbx) (s : State) : Host.Outcome State Fault Refusal :=
  onRequest m 0x0902 (fun _ s => (endDiag s).answer m []) s

/-! ## MEDIA_RETURN -/

/-- A block stands on a unit: a die, or a whole channel. -/
def onUnit (c : Nat) (n : Option Nat) (b : Nat × Nat × Nat) : Bool := b.1 = c && n.all (fun k => b.2.1 = k)

/-- A unit is fenced or retired. -/
def unitFenced (d : Dp) (c : Nat) (n : Option Nat) : Bool :=
  match n with
  | none => (d.chan c).fenced || (d.chan c).failed
  | some k => (d.die c k).fenced || d.med.diesRetired.contains (c, k)

/-- Dies of a unit: the one that is named, or all that bring-up found on the channel. -/
def unitDies (d : Dp) (c : Nat) (n : Option Nat) : List Nat :=
  (List.range 16).filter (fun k => n.all (fun j => j = k) && (n.isSome || (d.kiln.dies.find (dieKey c k)).isSome))

/-- Training passes at a rate (R86): every DQ bit has windows of at least 0.35 UI, and the duty-cycle residuals are at most 3 %. -/
def trainOk (t : TrainStep) : Bool :=
  t.read.length = 8 && t.write.length = 8 && (t.read ++ t.write).all (35 ≤ ·) && t.re ≤ 300 && t.dqs ≤ 300

/-- The highest step of R78 that is within a channel's limits, at most a cap, and passes its training. -/
def trainedStep (e : Env) (d : Dp) (cap : Nat) (steps : List TrainStep) : Option TrainStep :=
  kilnSteps.findSome? (fun r =>
    if r ≤ d.kiln.profile.maxRate && r ≤ e.param d 0x0401 && r ≤ cap then steps.find? (fun t => t.rate = r && trainOk t) else none)

/-- The dies of a channel start what waits for them. -/
def startDies (e : Env) (c : Nat) (d : Dp) : Dp := (List.range 16).foldl (fun d n => startDie e c n d) d

/-- A channel takes the result of its training: its rate goes to its dies (R78), and one below 1,600 MT/s is reported (R85). -/
def takeTraining (e : Env) (c : Nat) (t : TrainStep) (d : Dp) : Dp :=
  let mode := (d.chan c).mode
  let d := ((List.range 16).filter (fun n => (d.die c n).present)).foldl (fun d n => put (.die c n (.setMode mode t.rate)) d) d
  let d := d.setChan c { d.chan c with
    trained := true
    rate := t.rate
    training := some t
    trainTj := e.tj
    driftAt := none
    offBus := none
    recheck := false }
  if t.rate < 1600 then logE e 0x0401 3 srcKiln [c, t.rate] d else d

/-- A unit returns to service (R113): it is retrained, and a channel that passes at no rate stays fenced; every block is erased and
verified, bit `die × blocks + block` of `passed` telling those that pass, and the others are retired. Rows that held nothing valid
there any more are erased. -/
def returnUnit (e : Env) (c : Nat) (n : Option Nat) (passed : Nat) (steps : List TrainStep) (d : Dp) : Dp × Nat × Nat :=
  match trainedStep e d 4800 steps with
  | none => (d, 0, 0)
  | some t =>
    let d := (d.med.rows.filter (fun r => r.blocks.any (onUnit c n))).foldl (fun d r => eraseRow e r.id d) d
    let dies := unitDies d c n
    let per := d.kiln.profile.blocks
    let all := dies.flatMap (fun k => (List.range per).map (fun b => (c, k, b)))
    let bad := all.filter (fun x => !passed.testBit (x.2.1 * per + x.2.2))
    let d := if n.isNone then
        takeTraining e c t (d.setChan c { d.chan c with fenced := false, failed := false, opened := true, attempt := [] })
      else takeTraining e c t d
    let d := { d with sh := { d.sh with figDue := true } }
    let d := dies.foldl (fun d k => put (.die c k .train) (d.setDie c k { d.die c k with
      present := true
      fenced := false
      timeouts := []
      queue := []
      running := none
      suspended := none
      cut := none })) d
    let d := { d with med := { d.med with
        retired := (d.med.retired.filter (fun x => !onUnit c n x)) ++ bad
        relics := d.med.relics.filter (fun x => !onUnit c n x.block)
        diesRetired := d.med.diesRetired.filter (fun x => !(x.1 = c && dies.contains x.2))
        rebuilding := d.med.rebuilding.filter (fun x => !(x.1 = c && x.2.1 = n)) } }
    (logE e 0x0404 2 srcKiln [c * 256 + n.getD 255, all.length - bad.length, bad.length] d, all.length - bad.length, bad.length)

/-- MEDIA_RETURN (R113): refused while valid data remains on the unit; a unit in service is no field value it takes. -/
def execMediaReturn (m : Mbx) (passed : Nat) (steps : List TrainStep) (s : State) : Host.Outcome State Fault Refusal :=
  onRequest m 0x0904 (fun r s =>
    let c := fieldAt r.payload 0 1
    let n := if fieldAt r.payload 1 1 = 255 then none else some (fieldAt r.payload 1 1)
    if !unitFenced s.dp c n then s.deny m msField 0
    else if s.dp.med.rows.any (fun x => x.blocks.any (onUnit c n) && rowHeld s.dp x.id) then s.deny m msNotEmpty 0
    else
      let x := returnUnit s.env c n passed steps s.dp
      (({ s with dp := x.1 }).answer m (leBytes 4 x.2.1 ++ leBytes 4 x.2.2)).work) s

/-! ## Injection (Tables 5-9, 5-10, 5-15) -/

/-- Bytes of a DRAM window, of the scratchpad window, and codewords of the diagnostic row. -/
def dramWindow : Nat := 64 * mib
def padWindow : Nat := mib
def diagWidth (s : State) : Nat :=
  ((s.dp.med.rows.find? (fun r => r.use = .diagnostic)).map Row.width).getD (stripeWidth s.env s.dp)
def diagCws (s : State) : Nat := 4 * diagWidth s * rowStripes s.dp .diagnostic

/-- An address lies in a target's diagnostic region. -/
def inRegion (s : State) (target adr n : Nat) : Bool :=
  if target = 1 then adr + n ≤ dramWindow
  else if target = 2 then adr + n ≤ padWindow
  else if target = 3 then adr < diagCws s
  else true

/-- The device remembers the 16 most recent arms (R187), and never forgets one that is armed (R182). -/
def keepArms (l : List Arm) : List Arm :=
  let excess := l.length - 16
  (l.zipIdx.filter (fun x => excess ≤ x.2 || x.1.st = .armed)).map Prod.fst

/-- INJECT_CHECKBITS (R180, R181). -/
def execInjectCheckbits (m : Mbx) (s : State) : Host.Outcome State Fault Refusal :=
  onRequest m 0x0920 (fun r s =>
    let p := r.payload
    let t := fieldAt p 0 1
    let n := if t = 1 then 64 else 1
    if !inRegion s t (fieldAt p 8 8) n then s.deny m msRegion 0
    else if s.integ.arms.any (fun a => a.target = t && a.st = .armed) then s.deny m msInjectBusy 0
    else
      let id := s.integ.nextArm
      let a : Arm :=
        { id := id, target := t, unit := fieldAt p 1 1, sel := fieldAt p 2 1, count := fieldAt p 6 2, seed := fieldAt p 4 2,
          shots := fieldAt p 3 1, address := fieldAt p 8 8, mask := BitVec.ofNat 128 (fieldAt p 16 16), st := .armed,
          fired := 0, corrected := 0, uncorrectable := 0, replays := 0, seqs := [], since := s.clk.time }
      let s := { s with integ := { s.integ with arms := keepArms (s.integ.arms ++ [a]), nextArm := (id + 1) % 2 ^ 32 } }
      s.answer m (leBytes 4 id)) s

def ArmSt.code : ArmSt → Nat
  | .armed => 0
  | .done => 1
  | .disarmed => 2

/-- INJECT_STATUS (R187). -/
def execInjectStatus (m : Mbx) (s : State) : Host.Outcome State Fault Refusal :=
  onRequest m 0x0921 (fun r s =>
    match s.integ.arms.find? (fun a => a.id = fieldAt r.payload 0 4) with
    | none => s.deny m msField 0
    | some a =>
      s.answer m (leBytes 1 a.st.code ++ leBytes 1 a.target ++ leBytes 1 a.fired ++ leBytes 1 0 ++
        leBytes 4 a.corrected ++ leBytes 4 a.uncorrectable ++ leBytes 4 a.replays ++ leBytes 4 0)) s

/-- Change an arm. -/
def onArm (id : Nat) (f : Arm → Arm) (s : State) : State :=
  { s with integ := { s.integ with arms := updateWhere (fun (a : Arm) => a.id = id) f s.integ.arms } }

/-- The armed injection that an access applies to: its target, its unit, and an address within the access (R182). -/
def armFor (s : State) (target unit adr n : Nat) : Option Arm :=
  s.integ.arms.find? (fun a => a.st = .armed && a.target = target && a.unit = unit && adr ≤ a.address && a.address < adr + n)

/-- A shot is fired (R187): after the last one the armed injection is DONE. -/
def fireArm (a : Arm) (s : State) : State :=
  onArm a.id (fun a =>
    if a.st = .armed then { a with fired := a.fired + 1, st := if a.shots ≤ a.fired + 1 then .done else .armed }
    else a) s

/-- An access that an arm corrupted is reported: corrections, or one uncorrectable. -/
def noteArm (id fixed : Nat) (bad : Bool) (s : State) : State :=
  onArm id (fun a => { a with corrected := a.corrected + fixed, uncorrectable := a.uncorrectable + bad.toNat }) s

/-! ## Diagnostic access (Tables 5-13, 5-14) -/

/-- What a code makes of a flawed burst or byte: corrections, uncorrectable or not, and the error left in the data as
delivered. -/
structure Judged where
  fixed : Nat
  bad   : Bool
  left  : List (Nat × Byte)
  back  : Bool
deriving DecidableEq, Repr

/-- The data bytes an injected DRAM mask changes, by address (Table 5-10 SEL). -/
def dramErr (f : Flaw) : List (Nat × Byte) :=
  if f.sel = 0 then []
  else (List.range 16).map (fun i => (f.address + 16 * (f.sel - 1) + i, BitVec.ofNat 8 (f.mask.toNat / 256 ^ i)))

/-- A burst with a flaw is read (R169, R170): it stays as it was. -/
def judgeDram (f : Flaw) : Judged :=
  let x := Config.dramSpan f.sel f.mask
  if f.mask = 0 then ⟨0, false, [], false⟩
  else if x.1 ≤ 1 then ⟨x.2, false, [], false⟩
  else ⟨0, x.2 ≤ 8 || Config.dramDetects f.sel f.mask, dramErr f, false⟩

/-- Bits set in the 13 stored bits of a byte. -/
def padBits (f : Flaw) : Nat := (maskList 13 (f.mask.toNat % 2 ^ 13)).length

/-- A scratchpad byte with a flaw is read (R175): one bit is corrected and written back. -/
def judgePad (f : Flaw) : Judged :=
  let n := padBits f
  let low : Byte := BitVec.ofNat 8 f.mask.toNat
  if n = 0 then ⟨0, false, [], false⟩
  else if n = 1 then ⟨1, false, [], true⟩
  else if n = 2 then ⟨0, true, [(f.address, low)], false⟩
  else
    let x := Config.padDecode (BitVec.ofNat 13 f.mask.toNat)
    ⟨if x.1 = 1 then 1 else 0, x.1 = 2, [(f.address, x.2)], x.1 = 1⟩

/-- The bytes of a window as they are delivered: the stored data with the errors left in it. -/
def delivered (win : List Host.Cell) (base adr n : Nat) (left : List (Nat × Byte)) : List Byte :=
  (List.range n).map (fun i =>
    let e := left.foldl (fun (b : Byte) (x : Nat × Byte) => if x.1 = adr + i then b ^^^ x.2 else b) 0
    Memory.read win (base + adr + i) ^^^ e)

/-- A read of the DRAM or scratchpad window (R183, R185): RESULT, the count and the bytes. -/
def readWindow (dram : Bool) (unit adr n : Nat) (s : State) : State × Nat × Nat × List Byte :=
  let flaws := if dram then s.integ.dramBad else s.integ.padBad
  let hit := flaws.filter (fun (f : Flaw) => f.unit = unit && adr ≤ f.address && f.address < adr + n)
  let judge := if dram then judgeDram else judgePad
  let js := hit.map (fun f => (f, judge f))
  let fixed : Nat := js.foldl (fun (k : Nat) x => k + x.2.fixed) 0
  let bad := js.any (fun x => x.2.bad)
  let data := delivered (if dram then s.integ.dramWin else s.integ.padWin) (if dram then unit * dramWindow else 0) adr n
    (js.flatMap (fun x => x.2.left))
  let s := js.foldl (fun s x => noteArm x.1.arm x.2.fixed x.2.bad s) s
  let s := { s with integ := { s.integ with
      padBad := if dram then s.integ.padBad
        else s.integ.padBad.filter (fun f => !js.any (fun x => x.1 = f && x.2.back))
      diagFixed := s.integ.diagFixed + fixed
      diagBad := s.integ.diagBad + (js.filter (fun x => x.2.bad)).length } }
  let s := if bad then
      if dram then s.log 0x0504 4 srcDram [unit, 6] else s.log 0x0D04 4 srcFirmware [31, 6]
    else s
  (s, if bad then 2 else if 0 < fixed then 1 else 0, fixed, data)

/-- A write of the DRAM or scratchpad window: the bytes stand with good check bits, but where an armed injection applies. -/
def writeWin (dram : Bool) (unit adr : Nat) (bytes : List Byte) (s : State) : State :=
  let n := bytes.length
  let clear (l : List Flaw) : List Flaw := l.filter (fun f => !(f.unit = unit && adr ≤ f.address && f.address < adr + n))
  let i := s.integ
  let s := { s with integ := if dram then
      { i with dramWin := Memory.writeBytes i.dramWin (unit * dramWindow + adr) bytes, dramBad := clear i.dramBad }
    else { i with padWin := Memory.writeBytes i.padWin adr bytes, padBad := clear i.padBad } }
  match armFor s (if dram then 1 else 2) unit adr n with
  | none => s
  | some a =>
    let f : Flaw := { unit := unit, address := a.address, sel := a.sel, mask := a.mask, arm := a.id }
    let s := fireArm a s
    { s with integ := if dram then { s.integ with dramBad := s.integ.dramBad ++ [f] }
      else { s.integ with padBad := s.integ.padBad ++ [f] } }

/-- The 4,096 data bytes of a codeword with a pattern. -/
def patternBytes (p : BitVec 32) : List Byte := (List.range 1024).flatMap (fun _ => leBytes 4 p.toNat)

/-- The bits that a decode has changed when an injection has flipped others of them: a bit flipped twice is right (Table 5-9). -/
def changedBits (natural injected : List Nat) : List Nat :=
  natural.filter (fun i => !injected.contains i) ++ injected.filter (fun i => !natural.contains i)

/-- The back-pointer of a codeword of the diagnostic row (R185); its ADDR is internal, here the codeword's index. -/
def diagPtr (adr : Nat) : BitVec 64 := backPtr 0 4 adr

/-- Decodes of a codeword of the diagnostic row, sense by sense through stages 0 to 2 (R154, R185): the stage that decodes, the corrected
bits and the plaintext. -/
def climbDiag (e : Env) (d : Dp) (x : DiagCw) : Climb → List CwResult → Option (Nat × Nat × List Byte)
  | _, [] => none
  | at_, r :: t =>
    let next (checks : Nat) : Option (Nat × Nat × List Byte) :=
      match nextClimb (entriesOf d) 0 at_ checks with
      | some at_ => climbDiag e d x at_ t
      | none => none
    match r with
    | .failed n => next n
    | .decoded flips other =>
      match checkCw e.atRest (diagPtr x.index) (other.getD x.body) with
      | .good b => some (at_.stage, (changedBits flips x.flips).length, b.data)
      | _ => next 0

/-- A read of an LDPC codeword (R185): stages 0 to 2 only; an erased page does not decode. -/
def readCw (adr : Nat) (results : List CwResult) (s : State) : State × List Byte :=
  let cw := s.integ.cws.find? (fun x => x.index = adr)
  let out := cw.bind (fun x => climbDiag s.env s.dp x Climb.start results)
  let st := out.elim 3 Prod.fst
  let n := out.elim 0 (fun x => x.2.1)
  let data := out.elim [] (fun x => x.2.2)
  let crc := if out.isNone then 0 else (crc32c data).toNat
  let hit := out.isSome && cw.any (fun x => x.pattern.any (fun p => data = patternBytes p))
  let s := match cw with
    | some x => if x.flips.isEmpty then s else noteArm x.arm n out.isNone s
    | none => s
  let s := { s with integ := { s.integ with
      diagFixed := s.integ.diagFixed + n
      diagBad := s.integ.diagBad + out.isNone.toNat } }
  (s, leBytes 1 st ++ leBytes 3 0 ++ leBytes 4 n ++ leBytes 4 crc ++ leBytes 1 hit.toNat ++ leBytes 3 0)

/-- DIAG_ACCESS READ (R185). `results` are the decodes of the medium's codeword, sense by sense, with the medium's own errors. -/
def execDiagRead (m : Mbx) (results : List CwResult) (s : State) : Host.Outcome State Fault Refusal :=
  onSub m 0x0922 1 0 (fun r s =>
    let p := r.payload
    let t := fieldAt p 0 1
    let adr := fieldAt p 8 8
    let n := fieldAt p 4 4
    if !inRegion s t adr n then s.deny m msRegion 0
    else if t = 3 then
      let x := readCw adr results s
      x.1.answer m x.2
    else
      let x := readWindow (t = 1) (fieldAt p 2 1) adr n s
      x.1.answer m (leBytes 1 x.2.1 ++ leBytes 3 0 ++ leBytes 4 x.2.2.1 ++ x.2.2.2)) s

/-- One slot of a page of the diagnostic row: sealed under the next counter value and encoded (R151, R185). -/
def diagSlot (adr : Nat) (pat : Option (BitVec 32)) (flips : List Nat) (arm : Nat) (s : State) : State :=
  let data := match pat with
    | some p => patternBytes p
    | none => List.replicate blkBytes 0
  let body := sealBlk s.env.atRest s.env.keyGen s.dp.med.nonce (diagPtr adr) ⟨data, 0⟩
  { s with
    dp := { s.dp with med := { s.dp.med with nonce := s.dp.med.nonce + 1 } }
    integ := { s.integ with cws := s.integ.cws ++ [{ index := adr, body := body, pattern := pat, flips := flips, arm := arm }] } }

/-- A write of an LDPC codeword: the page is programmed, its other three slots with fill; an armed injection on the codeword flips its bits
after encoding. -/
def writeCw (m : Mbx) (adr : Nat) (pat : BitVec 32) (s : State) : State :=
  let page := adr / 4
  if s.integ.pages.contains page then s.deny m msField 1
  else
    let arm := armFor s 3 0 adr 1
    let flips := arm.elim [] (fun a => Config.flipPositions a.seed a.count)
    let s := match arm with
      | some a => fireArm a s
      | none => s
    let s := { s with integ := { s.integ with pages := s.integ.pages ++ [page] } }
    let s := (List.range 4).foldl (fun s i =>
      if 4 * page + i = adr then diagSlot adr (some pat) flips (arm.elim 0 Arm.id) s else diagSlot (4 * page + i) none [] 0 s) s
    s.answer m (leBytes 4 page)

/-- DIAG_ACCESS WRITE (R185, R187). -/
def execDiagWrite (m : Mbx) (s : State) : Host.Outcome State Fault Refusal :=
  onSub m 0x0922 1 1 (fun r s =>
    let p := r.payload
    let t := fieldAt p 0 1
    let adr := fieldAt p 8 8
    let n := fieldAt p 4 4
    if !inRegion s t adr n then s.deny m msRegion 0
    else if t = 3 then writeCw m adr (BitVec.ofNat 32 (fieldAt p 16 4)) s
    else (writeWin (t = 1) (fieldAt p 2 1) adr (bytesAt p 32 n) s).answer m (leBytes 4 n)) s

/-- DIAG_ACCESS ERASE (R184): the diagnostic row is erased, which counts as wear of its blocks (R135). -/
def execDiagErase (m : Mbx) (s : State) : Host.Outcome State Fault Refusal :=
  onSub m 0x0922 1 2 (fun _ s =>
    let s := { s with integ := { s.integ with pages := [], cws := [] } }
    let blocks := (s.dp.med.rows.find? (fun r => r.use = .diagnostic)).elim [] Row.blocks
    let s := s.onDp (fun _ d => { d with med := { d.med with
        wear := blocks.foldl (fun w b =>
          let k := wearKey b.1 b.2.1 b.2.2
          w.put k (wearAfter .diagnostic (w.get (0, 0) k))) d.med.wear } })
    s.answer m (leBytes 4 (diagWidth s))) s

/-! ## Link tests (R186) -/

/-- A port by its number. -/
def portOfNum (n : Nat) : CwPort :=
  if n = 0 then .ne else if n = 1 then .nw else if n = 2 then .fe else .fw

/-- Response of both: frames sent and link replays since the last START. -/
def testBytes (l : CwLink) : List Byte := leBytes 8 l.testSent ++ leBytes 8 l.testReplays

/-- LINK_TEST_START (R186): LENGTH frames, or frames without end for 0; a port whose link is down is refused. -/
def execLinkTestStart (m : Mbx) (s : State) : Host.Outcome State Fault Refusal :=
  onSub m 0x0922 1 3 (fun r s =>
    let p := portOfNum (fieldAt r.payload 2 1)
    let l := s.dp.link p
    if !l.up then s.deny m msRegion 0
    else
      let n := fieldAt r.payload 4 4
      let l := { l with
        testLeft := some (if n = 0 then 2 ^ 64 else n), testSent := 0, testSeed := fieldAt r.payload 16 4,
        testAt := s.clk.time, testReplays := 0 }
      (s.onDp (fun _ d => d.setLink p l)).answer m (testBytes l)) s

/-- LINK_TEST_STOP (R186). -/
def execLinkTestStop (m : Mbx) (s : State) : Host.Outcome State Fault Refusal :=
  onSub m 0x0922 1 4 (fun r s =>
    let p := portOfNum (fieldAt r.payload 2 1)
    let s := s.onDp (fun _ => stopTest p)
    s.answer m (testBytes (s.dp.link p))) s

/-- The bytes of a link-test frame on the wire: header, payload and trailer. -/
def testFrameNs : Nat := 4160

/-- A port whose link test has its next frame due sends it: at most 1 GB/s (R186); an armed injection on the port takes it as
a shot. -/
def sendTest (p : CwPort) (s : State) : State :=
  let l := s.dp.link p
  match l.testLeft with
  | none => s
  | some n =>
    if n = 0 || !l.up || s.clk.time < l.testAt + l.testSent * testFrameNs || l.testAt + 60 * second ≤ s.clk.time then s
    else
      let l := { l with testLeft := if n = 1 then none else some (n - 1), testSent := l.testSent + 1 }
      let arm := armFor s 4 p.num 0 1
      let s := s.onDp (fun _ d =>
        sendLink s.clk.time p (.test l.testSeed (arm.elim [] (fun a => Config.flipPositions a.seed a.count))) (d.setLink p l))
      match arm with
      | some a => onArm a.id (fun a => { a with seqs := a.seqs ++ [l.txSeq] }) (fireArm a s)
      | none => s

/-- Every port sends the link-test frames that are due. -/
def sendTests (s : State) : State := cwPorts.foldl (fun s p => sendTest p s) s

/-- LINK_TEST_TIMEOUT (R186): 60 s after their start the frames stop. -/
def execLinkTestTimeout (port : CwPort) (s : State) : Host.Outcome State Fault Refusal :=
  let l := s.dp.link port
  if l.testLeft.isSome && l.testAt + 60 * second ≤ s.clk.time then .next (s.onDp (fun _ => stopTest port)) else .next s

/-- INJECTION_ARM_TIMEOUT (R182): 60 s after arming with no shot fired. -/
def execInjectionArmTimeout (armId : Nat) (s : State) : Host.Outcome State Fault Refusal :=
  .next (onArm armId (fun a =>
    if a.st = .armed && a.fired = 0 && a.since + 60 * second ≤ s.clk.time then { a with st := .disarmed } else a) s)

/-- DIAG_AUTH_IDLE_TIMEOUT (R399): 600 s with no class D command. -/
def execDiagAuthIdleTimeout (s : State) : Host.Outcome State Fault Refusal :=
  if s.dp.mb.diag.isSome && s.dp.mb.diagAt + 600 * second ≤ s.clk.time then .next (endDiag s) else .next s

end Sys2Proof.Machine
end

