-- ==== Sys2Proof/Machine/Links.lean ====
section
/-! DEFINITION. Meanings of the Causeway link commands (chapter 8): training, width and failure of ports (R264 to R267, R286,
R288), HELLO and the ring size (R270, R271), TOPOLOGY and transit (R284, R285), leaving the ring (R286, R287), link replay
(R278), end-to-end acknowledgement (R280, R281) and the link test's receiver (R186). -/

namespace Sys2Proof.Machine

/-! ## Leaving the ring (R282, R286, R234) -/

/-- A rank is out of the ring (R282, R286): it is not present, its links are gone from the routes, and unacknowledged frames
for it are undeliverable. -/
def takeOut (e : Env) (r : Nat) (d : Dp) : Dp :=
  if r = e.rank || (d.peer r).out then d
  else
    let before := d
    let d := d.setPeer r { d.peer r with out := true }
    let t := d.ring.topo.get (0, []) r
    let d := { d with ring := { d.ring with
        topo := d.ring.topo.put r (t.1, [])
        pairs := d.ring.pairs.filter (fun x => x.1 / 8 != r) } }
    absentEverywhere e r (reroute e before d)

/-- This device leaves the ring (R286): RING_EXIT to every other device, and its transmitters are squelched. -/
def leaveRing (e : Env) (d : Dp) : Dp :=
  if d.ring.exited then d
  else
    let d := sendEach e .ringExit (otherRanks e d) (fun k => { header e d k noPool with arg := e.rank }) .none d
    let d := cwPorts.foldl (fun d p =>
      if (d.link p).up then put (.link p .squelch) (d.setLink p { d.link p with up := false, partner := none, replay := [], txq := [] })
      else d) d
    { d with ring := { d.ring with exited := true } }

/-! ## Links going down (R286 to R288) -/

/-- A link in service goes down: re-routed, logged, and held for 60 s after more than four times within 60 s (R288). -/
def loseLink (e : Env) (p : CwPort) (lanes : Nat) (d : Dp) : Dp :=
  if !(d.link p).up then d
  else
    let d := cause e evLink (logE e 0x0801 3 srcCauseway [p.num, lanes] (linkDown e p d))
    let l := d.link p
    let downs := l.downs.filter (fun t => e.now < t + 60 * second)
    if 4 < downs.length then
      logE e 0x0802 4 srcCauseway [p.num] (d.setLink p { l with downs := [], heldUntil := e.now + 60 * second })
    else d.setLink p { l with downs := downs }

/-- The aligned groups of lanes, in the order in which a port takes them (R266). -/
def laneGroups : List (BitVec 8 × Nat) := [(0xFF, 8), (0x0F, 4), (0xF0, 4), (0x03, 2), (0x0C, 2), (0x30, 2), (0xC0, 2)]

/-- The lanes that a port uses of the good ones, and how many they are: the first group that is good whole, or none. -/
def bestGroup (good : BitVec 8) : BitVec 8 × Nat := (laneGroups.find? (fun g => good &&& g.1 = g.1)).getD (0, 0)
def bestLanes (good : BitVec 8) : Nat := (bestGroup good).2

/-- CAUSEWAY_SIGNAL_LOSS (R286). -/
def execCausewaySignalLoss (port : CwPort) (s : State) : Host.Outcome State Fault Refusal :=
  .next (s.onDp (fun e d => if ringOpen e d then loseLink e port 0 d else d)).work

/-- FEC_UNCORRECTABLE_BURST (R286): the codewords are counted, and the link goes down. -/
def execFecUncorrectableBurst (port : CwPort) (s : State) : Host.Outcome State Fault Refusal :=
  .next (s.onDp (fun e d =>
    if ringOpen e d && (d.link port).up then loseLink e port 0 (count 8 (5 * port.num + 1) 17 d) else d)).work

/-- LINK_ACK_STALL (R286): frames stand unacknowledged, and LINK_ACK has not advanced for 10 µs. -/
def execLinkAckStall (port : CwPort) (s : State) : Host.Outcome State Fault Refusal :=
  .next (s.onDp (fun e d =>
    if ringOpen e d && !(d.link port).replay.isEmpty && (d.link port).ackAt + 10 * usec ≤ e.now then loseLink e port 0 d else d)).work

/-- LANE_FAILURE (R266): a lane in use fails, and the port retrains at the next width, or stays down. -/
def execLaneFailure (port : CwPort) (good : BitVec 8) (s : State) : Host.Outcome State Fault Refusal :=
  .next (s.onDp (fun e d =>
    if ringOpen e d && (d.link port).up && good &&& (d.link port).inUse != (d.link port).inUse then
      let d := loseLink e port (bestLanes good) d
      if (d.link port).heldUntil = 0 then put (.link port .train) d else d
    else d)).work

/-! ## HELLO and the ring size (R270, R271) -/

/-- n as a port whose link partner stands east gives it (R270). -/
def nFromEast (p : CwPort) (r partner : Nat) : Nat :=
  let far := p = .ne
  if partner ≤ r then r + (if far then 1 else 2) - partner else 0

/-- The port leads east. -/
def eastPort (p : CwPort) : Bool := p = .ne || p = .fe

/-- The rank that R269 wires to a port. -/
def wiredRank (n r : Nat) (p : CwPort) : Option Nat :=
  if n ≤ 1 then none
  else if n = 2 then (if p = .ne || p = .nw then some ((r + 1) % 2) else none)
  else match p with
    | .ne => some ((r + 1) % n)
    | .nw => some ((r + n - 1) % n)
    | .fe => some ((r + 2) % n)
    | .fw => some ((r + n - 2) % n)

/-- Wrap values that the links give. -/
def wrapValues (d : Dp) : List Nat := (cwPorts.map (fun p => (d.link p).n)).filter (· != 0)

/-- N (R270): the registry's once the shoal has formed, else that of any wrap link, else one more than the highest rank
heard. -/
def agreedN (e : Env) (d : Dp) : Nat :=
  if d.sh.reg.members != [] then d.sh.reg.n
  else match wrapValues d with
    | n :: _ => n
    | [] => 1 + (cwPorts.filterMap (fun p => (d.link p).partner) ++ d.ring.topo.map Prod.fst).foldl max e.rank

/-- A port's wiring is at fault (R271). -/
def wiringBad (e : Env) (d : Dp) (p : CwPort) : Bool :=
  let l := d.link p
  let n := agreedN e d
  match l.partner with
  | none => false
  | some k => k = e.rank || wiredRank n e.rank p != some k || (l.n != 0 && (l.n != n || (wrapValues d).any (· != l.n)))

/-- The HELLO of a port. -/
def sendHello (e : Env) (p : CwPort) (d : Dp) : Dp :=
  sendLink e.now p (.hello e.rank e.serial (BitVec.ofNat 64 e.boot) d.ring.session (if eastPort p then (d.link p).n else 0)) d

/-- A rank's session as HELLO or a heartbeat gives it (R283). A session or BOOT_COUNT that differs from the one known shows a
restart: stewards write MEMBER ABSENT (R211), and a standby that restarted holds no mirror any more. -/
def noteSession (e : Env) (r : Nat) (session : BitVec 32) (boot : Word) (d : Dp) : Dp :=
  let p := d.peer r
  let fresh : Bool := p.session = 0 && p.boot = 0
  let d := learnSession r session boot d
  if fresh || (p.session = session && p.boot = boot) then d
  else
    let d := { d with sh := { d.sh with roles := d.sh.roles.map (fun (x : PRole) =>
        if x.role = .steward && x.standby = some r then { x with standby := none, group := x.sent.flatten ++ x.group, sent := [] }
        else x) } }
    absentEverywhere e r d

/-- HELLO (R270, R271, R283): the partner is known, N and the wiring are checked, and the links are flooded. A port that fails
the check is held down; with every port held the device leaves the ring. -/
def execHello (port : CwPort) (rank : Rank) (serial boot : Word) (session : BitVec 32) (n : Nat) (s : State) :
    Host.Outcome State Fault Refusal :=
  .next (s.onDp (fun e d =>
    if !ringOpen e d || !(d.link port).up then d
    else
      let before := d
      let d := rxOn port d
      let d := if rank.val = e.rank then { d with ring := { d.ring with ownHeard := d.ring.ownHeard || serial != e.serial } }
        else
          let d := noteSession e rank.val session boot d
          d.setPeer rank.val { d.peer rank.val with serial := serial, out := false }
      let wrap := if eastPort port then nFromEast port e.rank rank.val else n
      let told := wrap != (d.link port).n
      let d := d.setLink port { d.link port with partner := some rank.val, serial := serial, n := wrap }
      let d := { d with ring := { d.ring with n := agreedN e d } }
      if wiringBad e d port then
        let d := logE e 0x0803 5 srcCauseway [port.num, rank.val, d.ring.n] d
        let d := put (.link port .squelch) (linkDown e port d)
        let d := d.setLink port { d.link port with held := true, n := 0 }
        if cwPorts.all (fun p => (d.link p).held) then leaveRing e d else d
      else
        let d := if told && eastPort port then sendHello e port d else d
        let d := if e.power = .neap then sendLink e.now port (.width 2) d else d
        reroute e before (floodTopology e d))).work

/-- PORT_TRAINED (R265, R266, R288): the link comes up at the widest group of good lanes, or 2 lanes in Neap (R264). -/
def execPortTrained (port : CwPort) (good : BitVec 8) (s : State) : Host.Outcome State Fault Refusal :=
  .next (s.onDp (fun e d =>
    let l := d.link port
    let w := bestLanes good
    if !ringOpen e d || l.up || l.held || l.heldUntil != 0 || w = 0 then d
    else
      let d := d.setLink port { l with
        up := true, lanes := if e.power = .neap then 2 else w, wide := w, inUse := (bestGroup good).1, partner := none, txSeq := 0, rxSeq := 0,
        rxNew := false, nakked := false, replay := [], txq := [], neapPeer := false }
      let d := sendHello e port d
      if l.wide = 0 then d
      else cause e evLink (logE e 0x0804 1 srcCauseway [port.num, w] d))).work

/-- PORT_RETRAIN_TIMER (R265, R288): a port that is down tries to train again every 100 ms. -/
def execPortRetrainTimer (port : CwPort) (s : State) : Host.Outcome State Fault Refusal :=
  .next (s.onDp (fun e d =>
    let l := d.link port
    if ringOpen e d && !l.up && !l.held && l.heldUntil = 0 && l.downAt + 100 * msec ≤ e.now then
      put (.link port .train) (d.setLink port { l with downAt := e.now })
    else d))

/-- LINK_FLAP_HOLD_END (R288). -/
def execLinkFlapHoldEnd (port : CwPort) (s : State) : Host.Outcome State Fault Refusal :=
  .next (s.onDp (fun e d =>
    let l := d.link port
    if l.heldUntil != 0 && l.heldUntil ≤ e.now then
      let d := d.setLink port { l with heldUntil := 0, downAt := e.now }
      if ringOpen e d then put (.link port .train) d else d
    else d))

/-- The device enters or leaves Neap: every link changes its width without going down (R267). -/
def neapWidth (e : Env) (enter : Bool) (d : Dp) : Dp :=
  cwPorts.foldl (fun d p =>
    let l := d.link p
    if l.up then
      sendLink e.now p (.width (if enter then 2 else 8)) (d.setLink p { l with lanes := if enter || l.neapPeer then 2 else l.wide })
    else d) d

/-- LINK_CTL_WIDTH (R267): the partner enters or leaves Neap. -/
def execLinkCtlWidth (port : CwPort) (lanes : Nat) (s : State) : Host.Outcome State Fault Refusal :=
  .next (s.onDp (fun e d =>
    if ringOpen e d && (d.link port).up then
      let d := rxOn port d
      let l := d.link port
      let neap := lanes = 2
      d.setLink port { l with neapPeer := neap, lanes := if neap || e.power = .neap then 2 else l.wide }
    else d))

/-! ## TOPOLOGY and transit (R284 to R286) -/

/-- A present rank whose present partners all report their links to it down is out of the ring (R286); a rank that no port of
a present device names never had such a link here. -/
def isolated (e : Env) (d : Dp) (r : Nat) : Bool :=
  let n := d.ring.n
  let partners := ((cwPorts.filterMap (wiredRank n r)).eraseDups).filter (fun k => k != r && present e d k)
  r != e.rank && present e d r && !partners.isEmpty &&
    partners.all (fun k => !(linksOf e d k).contains (some r) && (k = e.rank || (d.ring.topo.find k).isSome))

/-- The nearest present neighbour east of a rank. -/
def eastNeighbour (e : Env) (d : Dp) (r : Nat) : Option Nat :=
  let n := d.ring.n
  ((List.range (n - 1)).map (fun i => (r + 1 + i) % max 1 n)).find? (fun k => present e d k)

/-- Ranks that the changed links cut off are taken out of the ring; the nearest present neighbour east of each sends RING_EXIT
on its behalf (R286). -/
def findCut (e : Env) (d : Dp) : Dp :=
  ((List.range 16).filter (isolated e d)).foldl (fun d r =>
    let d := takeOut e r d
    if eastNeighbour e d r = some e.rank then
      sendEach e .ringExit (otherRanks e d) (fun k => { header e d k noPool with arg := r }) .none d
    else d) d

/-- TOPOLOGY (R284): a newer version of a rank's link states is taken and flooded on, and the routes follow. A version of this
rank's own that it never sent comes from a device of the same rank (R271). -/
def execTopology (port : CwPort) (rank : Rank) (version : Nat) (links : List LinkTo) (s : State) :
    Host.Outcome State Fault Refusal :=
  .next (s.onDp (fun e d =>
    if !ringOpen e d || !(d.link port).up then d
    else
      let before := d
      let d := rxOn port d
      let r := rank.val
      if r = e.rank then
        (if d.ring.version < version then { d with ring := { d.ring with ownHeard := true } } else d)
      else if ((d.ring.topo.find r).map Prod.fst).any (fun v => version ≤ v) then d
      else
        let d := { d with ring := { d.ring with topo := d.ring.topo.put r (version, links) } }
        let d := { d with ring := { d.ring with n := agreedN e d } }
        let d := if links.any Option.isSome && (d.peer r).out then d.setPeer r { d.peer r with out := false } else d
        let d := (cwPorts.filter (fun p => p != port)).foldl (fun d p => sendLink e.now p (.topology r version links) d) d
        findCut e (reroute e before d))).work

/-- TRANSIT_FRAME (R285): a frame for another device goes on along its route; one whose HOPS reaches 15 is dropped. -/
def execTransitFrame (f : Frame) (s : State) : Host.Outcome State Fault Refusal :=
  .next (s.stayAwake.onDp (fun e d =>
    if !ringOpen e d || f.dst.val = e.rank then d
    else if !f.linkOk then rxBad e.now f.port d
    else
      let d := rxOn f.port d
      if 15 ≤ f.hops + 1 then d
      else match firstHop e d e.rank f.dst.val with
        | some (p, _) => sendOn e.now p (.link p (.forward { f with hops := f.hops + 1, port := p })) d
        | none => d))

/-! ## Link replay (R278) -/

/-- LINK_CTL_ACK (R278): LINK_ACK covers every frame up to a sequence. -/
def execLinkCtlAck (port : CwPort) (seqn : Nat) (s : State) : Host.Outcome State Fault Refusal :=
  .next (s.onDp (fun e d =>
    let l := d.link port
    match ringOpen e d && l.up, l.replay.findIdx? (fun x => x.1 = seqn) with
    | true, some i => drainLink e.now port l.txq.length (d.setLink port { l with replay := l.replay.drop (i + 1), ackAt := e.now })
    | _, _ => d))

/-- A link-test frame that goes again carries no injected error: the injection was for the one frame (R187). -/
def cleanTest (o : Output) : Output :=
  match o with
  | .link p (.test n _) => .link p (.test n [])
  | o => o

/-- Frames that go again of those an arm corrupted count as its replays (Table 5-15). -/
def replayArm (unit : Nat) (again : List Nat) (a : Arm) : Arm :=
  if a.target = 4 && a.unit = unit then { a with replays := a.replays + (again.filter a.seqs.contains).length } else a

/-- LINK_CTL_NAK (R278): the frames from the first missing one on are sent again, and counted as link replays. -/
def execLinkCtlNak (port : CwPort) (seqn : Nat) (s : State) : Host.Outcome State Fault Refusal :=
  let l := s.dp.link port
  match ringOpen s.env s.dp && l.up, l.replay.findIdx? (fun x => x.1 = seqn) with
  | true, some i =>
    let again := l.replay.drop i
    let s := s.onDp (fun _ d =>
      let d := d.setLink port { l with testReplays := l.testReplays + again.length }
      let d := count 8 (5 * port.num + 2) again.length (put (.link port (.resend seqn)) d)
      again.foldl (fun d x => put (cleanTest x.2) d) d)
    .next { s with integ := { s.integ with arms := s.integ.arms.map (replayArm port.num (again.map Prod.fst)) } }
  | _, _ => .next s

/-- LINK_ACK_TIMER (R278): frames have arrived since the last LINK_ACK. -/
def execLinkAckTimer (port : CwPort) (s : State) : Host.Outcome State Fault Refusal :=
  .next (s.onDp (fun e d =>
    let l := d.link port
    if ringOpen e d && l.up && l.rxNew then
      put (.link port (.ack ((l.rxSeq + 65535) % 65536))) (d.setLink port { l with rxNew := false })
    else d))

/-- LINK_TEST (R186): the receiver counts FEC corrections, uncorrectable codewords and replays of its port. -/
def execLinkTest (port : CwPort) (symbols uncorrectable replays : Nat) (s : State) : Host.Outcome State Fault Refusal :=
  .next (s.onDp (fun e d =>
    if ringOpen e d && (d.link port).up then
      count 8 (5 * port.num) symbols (count 8 (5 * port.num + 1) uncorrectable (count 8 (5 * port.num + 2) replays (rxOn port d)))
    else d))

/-! ## End-to-end delivery (R280, R281) -/

/-- E2E_ACK (R281): PAIR_ACK frees the frames below it in the class that ARG names. -/
def execE2eAck (f : Frame) (s : State) : Host.Outcome State Fault Refusal :=
  .next (s.onDp (fun e d =>
    let a := arrive e .e2eAck 3 f .none d
    a.2.foldl (fun d x => ackPair x.2.1.src.val (x.2.1.arg % 8) x.2.1.pairAck d) a.1)).work

/-- E2E_NAK (R281): the frames it names are sent again, marked REPLAYED. -/
def execE2eNak (f : Frame) (s : State) : Host.Outcome State Fault Refusal :=
  .next (s.onDp (fun e d =>
    let a := arrive e .e2eNak 3 f .none d
    a.2.foldl (fun d x => resend e x.2.1.src.val (x.2.1.arg / 2 ^ 32 % 8) (x.2.1.arg % 2 ^ 32) d) a.1))

/-- E2E_GAP_TIMEOUT (R280): a gap has stood for 100 µs. -/
def execE2eGapTimeout (src : Rank) (cls : Nat) (s : State) : Host.Outcome State Fault Refusal :=
  .next (s.onDp (fun e d =>
    let p := d.pair src.val cls
    if ringOpen e d && !p.held.isEmpty && p.gapAt.any (fun t => t + 100 * usec ≤ e.now) then
      sendNak e src.val cls (d.setPair src.val cls { p with gapAt := some e.now })
    else d))

/-- E2E_ACK_TIMER (R7, R280): frames stand unacknowledged; the acknowledgement comes at any time up to the 10 µs. -/
def execE2eAckTimer (src : Rank) (cls : Nat) (s : State) : Host.Outcome State Fault Refusal :=
  .next (s.onDp (fun e d =>
    let p := d.pair src.val cls
    if ringOpen e d && 0 < p.sinceAck then sendAck e src.val cls d else d))

/-- E2E_REPLAY_TIMEOUT (R281): frames have stood unacknowledged for 200 µs. -/
def execE2eReplayTimeout (dst : Rank) (cls : Nat) (s : State) : Host.Outcome State Fault Refusal :=
  .next (s.onDp (fun e d =>
    let p := d.pair dst.val cls
    if ringOpen e d && !p.unacked.isEmpty && p.txAt + 200 * usec ≤ e.now then resendAll e dst.val cls d else d))

end Sys2Proof.Machine
end

