-- ==== Sys2Proof/Machine/Safe.lean ====
section
/-! DEFINITION. The boot-status CODE (R531), safe mode (R536), and the fatal fault (R541). -/

namespace Sys2Proof.Machine

/-- CODE takes a stage, unless it holds a fault, or the first fault (R531); the fatal fault's code stands above the others (R541). A failed
self-test or the want of an image is reported over a strap's 0x50 and over a fatal fault's code that a core start has kept (R189, R444). -/
def setCode (c : Nat) (s : State) : State :=
  let above : Bool := (c = 0x11 || c = 0x12 || c = 0x31 || c = 0x33 || c = 0x21) && (s.boot.code = 0x50 || s.boot.code = 0x60)
  let held : Bool := isFaultCode s.boot.code && c != 0x60 && !above
  let s := if isFaultCode c then s else { s with boot := { s.boot with stage := c } }
  if held || s.boot.code = c then s
  else { s with boot := { s.boot with code := c, codeAt := s.clk.time } }

/-- The device starts, or goes on, in safe mode for a code of Table 16-4 (R536): no media, no READY. -/
def safeMode (c : Nat) (s : State) : State :=
  let s := setCode c s
  if s.boot.safe then s
  else
    let s := { s with
      boot := { s.boot with safe := true, ready := false }
      dp := { s.dp with kiln := s.dp.kiln.restart } }
    ((s.log 0x0F05 4 srcFirmware [c]).onDp (fun _ => count 15 2 1)).work

/-- The device declares a fatal fault (R541): cause 1 is a failed DRAM channel, 2 the third core start in 10 min. -/
def deviceFatal (why : Nat) (s : State) : State :=
  if s.boot.fatal then s
  else
    let s := setCode 0x60 { s with
      boot := { s.boot with fatal := true }
      dp := { s.dp with bw := { s.dp.bw with descriptors := 0 } } }
    let s := (s.cause evFatal).log 0x0F08 6 srcFirmware [why]
    s.onDp leaveRing

/-- Every flash channel and every DRAM channel has been brought up. -/
def broughtUp (s : State) : Bool :=
  s.dp.kiln.wave = 17 && s.dp.kiln.chans.all (fun x => x.2.trained || x.2.failed || x.2.fenced) &&
  s.dram.chans.all (fun x => x.2.trained)

/-- Bring-up gives way to recovery in STAGE and CODE once it is over (Table 16-4). -/
def recoveryStage (s : State) : State :=
  if broughtUp s && !s.boot.ready && !s.boot.safe && s.boot.stage = 5 then setCode 0x06 s else s

/-- Slot 2 starts at G_safe (R416): at a start that holds a measurement, and with the first measurement. -/
def startHoldup (s : State) : State :=
  let g := gTop s.env s.dp s.pwr
  let v : Int := g / 16384
  let l := s.tide.loops.get (Loop.shipped 2) 2
  let l := { l with output := v, integ := v * 65536, outMax := v }
  let s := { s with tide := { s.tide with loops := s.tide.loops.put 2 l } }
  s.onDp (fun e => setLimit e g)

end Sys2Proof.Machine
end

