-- ==== Sys2Proof/Machine/Dies.lean ====
section
/-! DEFINITION. Meanings of the commands of the flash dies (chapter 3): reset waves and training (R77 to R88), what a die
reports of its reads, programs and erases (R103 to R109, R155 to R162), timeouts and fences (R110 to R112), suspends (R97,
R98) and waiting limits (R93). -/

namespace Sys2Proof.Machine

/-! ## Bring-up (R81 to R87, Table 3-4) -/

/-- Elements of a list that the bits of a number pick. -/
def picked {α : Type} (l : List α) (bits : Nat) : List α := (l.zipIdx.filter (fun x => bits.testBit x.2)).map Prod.fst

/-- Figures of a die profile of the firmware's, by its number (Table 3-3; notes/assumptions/6.md). -/
def profileOf (id : Nat) : Profile :=
  if id = Profile.typical.id then Profile.typical
  else
    let f (k : Nat) : Nat := Config.profileFigure id k
    { id := id, bits := f 0, planes := f 1, blocks := f 2, pagesSlc := f 3, pagesNative := f 4, dieBytes := f 5,
      modes := picked [.nvLpddr4, .toggleDdr] (f 6), maxRate := f 7, features := picked Profile.typical.features (f 8),
      readUs := f 9, readMaxUs := f 10, progSlcUs := f 11, progSlcMaxUs := f 12, progUs := f 13, progMaxUs := f 14,
      eraseUs := f 15, eraseMaxUs := f 16, rstUs := f 17, readable := f 18, offsets := f 19, ratedNative := f 20,
      ratedSlc := f 21, vccMv := f 22, progUa := f 23, standbyUa := f 24 }

/-- Start the next reset wave (R83, R84): every die of four channels is reset. -/
def startWave (e : Env) (d : Dp) : Dp :=
  let w := d.kiln.wave
  let d := { d with kiln := { d.kiln with wave := w + 1, waveAt := e.now, started := true, floating := false } }
  (List.range 64).foldl (fun d i => put (.die (4 * w + i / 16) (i % 16) .reset) d) d

/-- A chip enable's LUNs, and a channel's shape: how many chip enables answer, and the most LUNs on one (R80, R81). -/
def lunsOn (l : List DieAnswer) (c ce : Nat) : Nat :=
  (l.filter (fun a => a.chan = c && a.die / 4 = ce && a.ready)).length
def shapeOf (l : List DieAnswer) (c : Nat) : Nat × Nat :=
  let n := (List.range 4).map (lunsOn l c)
  ((n.filter (0 < ·)).length, n.foldl max 0)

/-- The expected shape (R81): the one of the most populated channels, the larger one on a tie. DESIGN CHOICE: of two shapes of as many
dies (2 × 4 and 4 × 2) the larger is the one with more chip enables (notes/assumptions/33.md). -/
def expectedShape (l : List DieAnswer) : Nat × Nat :=
  let shapes := ((List.range 64).map (shapeOf l)).filter (fun x => 0 < x.1)
  let votes (x : Nat × Nat) : Nat := (shapes.filter (fun y => y = x)).length
  (leastBy (fun x => 2 ^ 40 - (votes x * 2 ^ 16 + x.1 * x.2 * 16 + x.1)) shapes).getD (0, 0)

/-- Populated channels: from F00 to the last that answers, in a multiple of eight (R80). -/
def populated (l : List DieAnswer) : Nat :=
  ((l.filter DieAnswer.ready).foldl (fun n a => max n (a.chan + 1)) 0 + 7) / 8 * 8

/-- Dies that matched a profile. -/
def matches_ (l : List DieAnswer) (id : Nat) : Nat := (l.filter (fun a => a.ready && a.profile = some id)).length

/-- The device profile (R82): matched by the most dies, the lower number on a tie. -/
def deviceProfile (l : List DieAnswer) : Option Nat :=
  leastBy (fun id => (2 ^ 20 - matches_ l id) * 2 ^ 20 + id) ((l.filter DieAnswer.ready).filterMap DieAnswer.profile)

/-- The interface mode a channel takes (Table 3-1, R77): NV-LPDDR4 where the profile lists it. -/
def channelMode (p : Profile) : IfMode := (p.modes.head?).getD .toggleDdr

/-- Every answer is in: shape and profile are settled, the dies are known, and those missing or of another part are fenced. A die that
matches takes the channel's mode at 200 MT/s, drive strength and ODT, and its ZQ long calibration; its channel's training begins
(Table 3-4 steps 3 to 5). One that does not match stays in reset. -/
def settleDies (e : Env) (id : Nat) (d : Dp) : Dp :=
  let l := d.kiln.answers
  let shape := expectedShape l
  let d := { d with kiln := { d.kiln with profile := profileOf id } }
  let mode := channelMode d.kiln.profile
  (List.range (populated l)).foldl (fun d c =>
    let d := d.setChan c { freshChan with fenced := (d.chan c).fenced, mode := mode }
    if (shapeOf l c).1 = 0 then fenceChan e c 3 (d.setChan c { d.chan c with failed := true })
    else
      let d := (List.range 16).foldl (fun d n =>
        let want := n / 4 < shape.1 && n % 4 < shape.2
        let ans := l.find? (fun a => a.chan = c && a.die = n && a.ready)
        if !want && ans.isNone then d
        else
          let ok := ans.any (fun a => a.profile = some id)
          let d := d.setDie c n { freshDie with present := ok, fenced := (d.die c n).fenced, zqAt := e.now, zqTj := e.tj }
          if ok then put (.die c n .zqLong) (put (.die c n (.setMode mode 200)) d) else fenceDie e c n d) d
      put (.die c 0 .train) d) d

/-- Answers of a wave are kept; the dies that are ready give ID and parameter page (Table 3-4 step 2). -/
def takeAnswers (l : List DieAnswer) (s : State) : State :=
  s.onDp (fun _ d =>
    (l.filter DieAnswer.ready).foldl (fun d a => put (.die a.chan a.die .readParameterPage) (put (.die a.chan a.die .readId) d))
      { d with kiln := { d.kiln with answers := d.kiln.answers ++ l } })

/-- Every wave has answered: the dies are matched (R81, R82). -/
def matchDies (s : State) : State :=
  let s := s.onDp (fun _ d => { d with kiln := { d.kiln with wave := 17 } })
  match deviceProfile s.dp.kiln.answers with
  | some id => extendMeas 3 (leBytes 1 id) (s.onDp (fun e => settleDies e id))
  | none => safeMode 0x43 s

/-- KILN_RESET_WAVE (R83, R84): the targets of the wave before have answered, or had the profile's longest reset. Those that are ready give
ID and parameter page. The next wave starts at least 1 ms after it; after the last, the dies are matched (R81, R82), and where
none matches a profile the device is in safe mode. -/
def execKilnResetWave (answers : List DieAnswer) (s : State) : Host.Outcome State Fault Refusal :=
  let k := s.dp.kiln
  let mine := answers.filter (fun (a : DieAnswer) => a.chan / 4 + 1 = k.wave)
  let all : Bool := (List.range 64).all (fun i => mine.any (fun a => a.chan % 4 = i / 16 && a.die = i % 16 && a.ready))
  let due := k.waveAt + max 1000000 (if all then 0 else k.profile.rstUs * 1000)
  if !k.started || 16 < k.wave || s.clk.time < due || s.env.tide then .next s
  else
    let s := takeAnswers mine s
    .next (if k.wave < 16 then s.onDp startWave else matchDies s)

/-! ## Training (R78, R85 to R88) -/

/-- Every channel of a group of eight is trained or out of service: its WP_N is released and its channels are open (Table 3-4 step 9,
R84, R87). -/
def openGroup (e : Env) (g : Nat) (d : Dp) : Dp :=
  let cs := (List.range 8).map (8 * g + ·)
  if cs.all (fun c => let x := d.chan c; x.trained || x.failed || x.fenced) then
    let d := { d with kiln := { d.kiln with wpHigh := addNew g d.kiln.wpHigh } }
    cs.foldl (fun d c => if (d.chan c).trained then startDies e c (d.setChan c { d.chan c with opened := true }) else d) d
  else d

/-- FLASH_CHANNEL_TRAINED (R78, R85, R86): the channel takes the highest step within its limits whose training passes; one that passes at
no step is a failed channel and is fenced (R111). -/
def execFlashChannelTrained (chan : Nat) (steps : List TrainStep) (s : State) : Host.Outcome State Fault Refusal :=
  let d := s.dp
  if !(d.kiln.chans.find chan).isSome || d.kiln.wave < 17 || (d.chan chan).fenced || (d.chan chan).trained || s.env.tide then .next s
  else
    let s := s.onDp (fun e d => openGroup e (chan / 8) (match trainedStep e d 4800 steps with
      | none => fenceChan e chan 3 (d.setChan chan { d.chan chan with failed := true })
      | some t => takeTraining e chan t d))
    .next (recoveryStage s).work

/-! ## Calibration (R88) -/

/-- How far two temperatures lie apart, in 0.1 °C. -/
def drift (a b : Int) : Nat := (a - b).natAbs

/-- ZQ_SHORT_CAL_TIMER (R88): a die is calibrated 1 s after the last time, or after 10 °C of drift. -/
def execZqShortCalTimer (chan die : Nat) (s : State) : Host.Outcome State Fault Refusal :=
  let x := s.dp.die chan die
  if dieGood s.dp chan die && kilnRuns s.env s.dp && !s.env.tide && s.dp.kiln.profile.lists .zq &&
      (x.zqAt + second ≤ s.clk.time || 100 ≤ drift s.pwr.tj x.zqTj) then
    .next (s.onDp (fun e d => enqueue e chan die (.maintenance .zqShort) 6
      (d.setDie chan die { x with zqAt := e.now, zqTj := e.tj })))
  else .next s

/-- A class P1 read waits on a channel. -/
def chanReads (d : Dp) (c : Nat) : Bool :=
  (List.range 16).any (fun n => (d.die c n).queue.any isP1)

/-- A channel is to be trained anew (R88, R90): after more than 20 °C of drift since its last training, or when its training-pattern check
has failed. -/
def retrainDue (s : State) (c : Nat) : Bool :=
  drift s.pwr.tj (s.dp.chan c).trainTj > 200 || (s.dp.chan c).recheck

/-- A retraining has ended: at the present rate, or a lower one where that fails; after a failed check at any rate of R78. Failure at
200 MT/s fences the channel (R111). -/
def endRetrain (e : Env) (c : Nat) (steps : List TrainStep) (d : Dp) : Dp :=
  match trainedStep e d (if (d.chan c).recheck then 4800 else (d.chan c).rate) steps with
  | some t => startDies e c (count 4 5 1 (takeTraining e c t d))
  | none => fenceChan e c 2 d

/-- TJ_DRIFT_RETRAIN (R88, R90): the channel goes off the bus for its retraining once no class P1 read is queued on it, or 10 ms after the
need arose; operations queued for it wait. The command comes again with the results when it has ended. -/
def execTjDriftRetrain (chan : Nat) (steps : List TrainStep) (s : State) : Host.Outcome State Fault Refusal :=
  let x := s.dp.chan chan
  if !chanGood s.dp chan || !kilnRuns s.env s.dp || s.env.tide then .next s
  else if x.offBus.isSome then .next (s.onDp (fun e d => endRetrain e chan steps d)).work
  else if !retrainDue s chan then .next s
  else if (chanReads s.dp chan && x.driftAt.all (fun t => s.clk.time < t + 10000000)) || x.bus.isSome then
    .next { s with dp := s.dp.setChan chan { x with driftAt := some (x.driftAt.getD s.clk.time) } }
  else .next { s with dp := put (.die chan 0 .train) (s.dp.setChan chan { x with offBus := some s.clk.time }) }

/-! ## What a die reports -/

/-- A block takes its place among those that have failed a program. -/
def markFailing (b : Nat × Nat × Nat) (d : Dp) : Dp :=
  { d with med := { d.med with failing := addNew b d.med.failing } }

/-- A fenced unit is rebuilt once none of its rows holds valid data (R130); the duration is logged in ms. -/
def rebuildDone (e : Env) (d : Dp) : Dp :=
  let over_ (x : Nat × Option Nat × Nat) : Bool :=
    d.med.rows.all (fun r => !(r.blocks.any (onUnit x.1 x.2.1) && rowHeld d r.id))
  let l := d.med.rebuilding
  (l.filter over_).foldl (fun d x => logE e 0x0307 2 srcFirmware [x.1 * 256 + x.2.1.getD 255, (e.now - x.2.2) / 1000000] d)
    { d with med := { d.med with rebuilding := l.filter (fun x => !over_ x) } }

/-- A die's array has ended an operation that passes a test: it runs, and its data-in is over. -/
def ended (d : Dp) (c n : Nat) (p : OpKind → Bool) : Option DieOp :=
  match (d.die c n).running with
  | some r => if r.dataIn = 0 && p r.op.kind then some r.op else none
  | none => none

/-- A block of a row on a die. -/
def rowBlock (d : Dp) (r c n : Nat) : Option (Nat × (Nat × Nat × Nat)) := (d.row r).bind (fun x => blockOn x c n)

/-- FLASH_PROGRAM_COMPLETE (R103): the pages pass program status, and with the readable-after distance their greenware is on the medium and
relocated copies become current. A block that was zeroed is read back (Table 2-5 step 8). -/
def execFlashProgramComplete (chan die : Nat) (s : State) : Host.Outcome State Fault Refusal :=
  match ended s.dp chan die isProgram with
  | some ⟨.program r ps, _, _, _, _, _, _⟩ =>
    .next (s.onDp (fun e d =>
      let pos := (rowBlock d r chan die).elim 0 Prod.fst
      startDie e chan die (rebuildDone e (passPages e r pos ps (endOp e chan die d))))).work
  | some ⟨.zero b, _, _, _, _, _, _⟩ =>
    .next (s.onDp (fun e d => startDie e chan die (enqueue e chan die (.readBack b true) 4 (endOp e chan die d)))).work
  | _ => .next s

/-- DIE_PROGRAM_FAIL (R108, Table 4-3): the pages' data goes elsewhere; the row takes no more pages and is relocated, after
which its failing block is retired; a suspect block is retired at once. A block that cannot be zeroed is left as it is (R66). -/
def execDieProgramFail (chan die : Nat) (s : State) : Host.Outcome State Fault Refusal :=
  match ended s.dp chan die isProgram with
  | some ⟨.program r ps, _, _, _, _, _, _⟩ =>
    .next (s.onDp (fun e d =>
      let d := count 4 0 1 (endOp e chan die d)
      let d := closeRows e (fun b => (d.row r).any (fun x => x.blocks.contains b)) d
      let d := scheduleRefresh e r 2 (restage r ps d)
      let d := match rowBlock d r chan die with
        | some (_, b) => if d.med.suspect.contains b then retireBlock e b 1 d else markFailing b d
        | none => d
      startDie e chan die d)).work
  | some ⟨.zero b, _, _, _, _, _, _⟩ =>
    .next (s.onDp (fun e d =>
      startDie e chan die (blockDone (chan, die, b) false (count 4 0 1 (endOp e chan die d))))).work
  | _ => .next s

/-- A block whose wear had reached WEAR_RETIRE before its last erase is retired with it (Table 4-3). -/
def wearRetire (e : Env) (b : Nat × Nat × Nat) (before : Nat) (d : Dp) : Dp :=
  if wearLimit e d ≤ before then retireBlock e b 5 d else d

/-- FLASH_ERASE_COMPLETE (R105, R135, R140): the block's erases count; one whose wear had reached WEAR_RETIRE before is retired. A block of
a secure-discard job's target row is read back (Table 2-5 step 7). -/
def execFlashEraseComplete (chan die : Nat) (s : State) : Host.Outcome State Fault Refusal :=
  match ended s.dp chan die isErase with
  | some ⟨.erase r, _, _, _, _, _, _⟩ =>
    .next (s.onDp (fun e d =>
      let d := endOp e chan die d
      let d := match (d.row r), rowBlock d r chan die with
        | some x, some (pos, b) =>
          let key := wearKey b.1 b.2.1 b.2.2
          let old := wearOf d b.1 b.2.1 b.2.2
          let d := { d with med := { d.med with
              wear := d.med.wear.put key (wearAfter x.use (d.med.wear.get (0, 0) key))
              eraseFails := without b d.med.eraseFails } }
          if sdTarget d r then enqueue e chan die (.readBack b.2.2 false) 4 d
          else wearRetire e b old (eraseSettled r pos d)
        | _, _ => d
      startDie e chan die d)).work
  | _ => .next s

/-- DIE_ERASE_FAIL (R109, Table 4-3): the block is erased once more; when that fails too, or the block is suspect, it is retired. In a
secure-discard job's target row it is then zeroed (Table 2-5 step 8). -/
def execDieEraseFail (chan die : Nat) (s : State) : Host.Outcome State Fault Refusal :=
  match ended s.dp chan die isErase with
  | some ⟨.erase r, _, _, _, _, _, _⟩ =>
    .next (s.onDp (fun e d =>
      let d := count 4 1 1 (endOp e chan die d)
      let d := match d.row r, rowBlock d r chan die with
        | some x, some (pos, b) =>
          if d.med.eraseFails.contains b || d.med.suspect.contains b then
            let d := retireBlock e b 2 d
            if scrubs d x pos then d else eraseSettled r pos (sdBlock (some r) b false (addRelic x pos d))
          else { d with med := { d.med with eraseFails := d.med.eraseFails ++ [b] } }
        | _, _ => d
      startDie e chan die (issueErases e d))).work
  | _ => .next s

/-- The read-back of a block: it is erased, or holds zeros, when nothing is found on it. One that is not erased is retired and zeroed; one
that does not hold zeros is left (R66). -/
def landReadBack (e : Env) (b : Nat × Nat × Nat) (zeros : Bool) (results : List CwResult) (d : Dp) : Dp :=
  if zeros then blockDone b results.isEmpty d
  else if results.isEmpty then
    let x := d.med.wear.get (0, 0) (wearKey b.1 b.2.1 b.2.2)
    let slc := ((erasingRow d b).bind (fun y => d.row y.1)).any (fun r => r.use.slc)
    let before := (if slc then x.1 else x.1 - 1) * wearUnit d + (if slc then x.2 - 1 else x.2) * d.kiln.profile.ratedNative
    wearRetire e b before (blockDone b true d)
  else issueErases e (retireBlock e b 3 d)

/-- FLASH_READ_COMPLETE (R90, R106, R155 to R162): the data of the read is out; its codewords are decoded and checked, and climb the ladder
where they fail. Of a training-pattern read a failed result has the channel retrained. -/
def execFlashReadComplete (chan die : Nat) (results : List CwResult) (s : State) : Host.Outcome State Fault Refusal :=
  match (s.dp.die chan die).running with
  | some r =>
    if !(isRead r.op.kind && r.out) && r.op.kind != .pattern then .next s
    else
      .next (s.onDp (fun e d =>
        let d := d.askPad .rstage 9 (4096 * results.length)
        let x := d.die chan die
        let d := endOp e chan die (d.setDie chan die { x with
          suspended := x.suspended.map (fun (y : Suspended) => { y with reads := y.reads + 1 }) })
        let d := match r.op.kind with
          | .read _ _ _ _ => landRead e chan die r.op results d
          | .readBack b zeros => landReadBack e (chan, die, b) zeros results d
          | .pattern =>
            if results.any (fun y => match y with
              | .failed _ => true
              | _ => false) then d.setChan chan { d.chan chan with recheck := true } else d
          | _ => d
        startDie e chan die d)).work
  | none => .next s

/-! ## Timeouts (R110, R111) -/

/-- Twice the profile's maximum time for an operation, in ns. -/
def opLimit (d : Dp) (k : OpKind) : Nat := 2 * (opTime d k).2

/-- After Reset LUN the operation that was cut short is done over: reads and erases are queued again, the data of pages is
programmed elsewhere. -/
def redo (e : Env) (c n : Nat) (o : DieOp) (d : Dp) : Dp :=
  match o.kind with
  | .program r ps => restage r ps (closeRows e (fun b => (d.row r).any (fun x => x.blocks.contains b)) d)
  | _ => let x := d.die c n; d.setDie c n { x with queue := o :: x.queue }

/-- Every die of a channel has timed out in the present recovery attempt, which lasts while any of them has still to come back (R111). -/
def allTimedOut (d : Dp) (c : Nat) : Bool :=
  let there := (List.range 16).filter (fun n => (d.die c n).present && (!(d.die c n).fenced || (d.chan c).attempt.contains n))
  !there.isEmpty && there.all (d.chan c).attempt.contains

/-- A recovery attempt ends with the last die of the channel that comes back. -/
def endAttempt (c : Nat) (d : Dp) : Dp :=
  if (List.range 16).any (fun n => (d.die c n).cut.isSome) then d else d.setChan c { d.chan c with attempt := [] }

/-- DIE_READY_TIMEOUT (R110, R111): a die not ready at twice the maximum time of its operation gets Reset LUN and a status read; one that
times out twice within 10 s is fenced. The command comes again when it is ready, which has it do its operation over, or at twice
tRST, when it is fenced. A channel all of whose dies time out in one recovery attempt is fenced. -/
def execDieReadyTimeout (chan die : Nat) (recovered : Bool) (s : State) : Host.Outcome State Fault Refusal :=
  let x := s.dp.die chan die
  match x.cut, x.running with
  | some o, _ =>
    if recovered then
      .next (s.onDp (fun e d =>
        startDie e chan die (endAttempt chan (redo e chan die o (d.setDie chan die { x with cut := none }))))).work
    else if s.clk.time < x.timeouts.getLastD 0 + 2000 * s.dp.kiln.profile.rstUs then .next s
    else .next (s.onDp (fun e d => endAttempt chan (fenceDie e chan die d))).work
  | none, some r =>
    if s.clk.time < r.since + opLimit s.dp r.op.kind || 0 < r.dataIn then .next s
    else
      .next (s.onDp (fun e d =>
        let recent := x.timeouts.filter (fun t => e.now < t + 10 * second)
        let d := count 4 2 1 (put (.die chan die .readStatus) (put (.die chan die .resetLun) (endSequence chan die d)))
        let y := noteBusy e.now r.op r.since (d.die chan die)
        let d := d.setDie chan die { y with running := none, cut := some r.op, timeouts := recent ++ [e.now] }
        let d := d.setChan chan { d.chan chan with attempt := addNew die (d.chan chan).attempt }
        let d := if recent.isEmpty then d else fenceDie e chan die d
        if allTimedOut d chan then fenceChan e chan 1 d else endAttempt chan d)).work
  | none, none => .next s

/-! ## Suspends and waiting limits -/

/-- SUSPEND_MINIMUM_RUN (R97, Table 3-7). -/
def execSuspendMinimumRun (chan die : Nat) (s : State) : Host.Outcome State Fault Refusal :=
  .next (s.onDp (fun e => trySuspend e chan die))

/-- SUSPEND_WINDOW_END (R98): no class P1 read is left for the LUN, 8 have been served, or 500 µs have passed: the operation
resumes. -/
def execSuspendWindowEnd (chan die : Nat) (s : State) : Host.Outcome State Fault Refusal :=
  let x := s.dp.die chan die
  match x.suspended, x.running with
  | some y, none =>
    if 8 ≤ y.reads || y.since + 500000 ≤ s.clk.time || !(x.queue.any isP1) then
      .next { s with dp := put (.die chan die .resume) (s.dp.setDie chan die { x with
        running := some { op := y.op, since := s.clk.time, suspends := y.suspends, rest := [], dataIn := 0, out := false }
        suspended := none }) }
    else .next s
  | _, _ => .next s

/-- OPERATION_WAIT_LIMIT (R93): a program or erase that has waited 2 ms starts at the die's next idle point. -/
def execOperationWaitLimit (chan die : Nat) (s : State) : Host.Outcome State Fault Refusal :=
  let x := s.dp.die chan die
  .next (s.onDp (fun e d => startDie e chan die (d.setDie chan die { x with
    queue := x.queue.map (fun (o : DieOp) =>
      if isArray o.kind && o.arrived + 2000000 ≤ e.now then { o with forced := true } else o) })))

/-- CLASS_AGING_LIMIT (R93): an operation of P2 to P6 that has waited 20 ms goes before those of these classes that arrived
after it. -/
def execClassAgingLimit (chan die : Nat) (s : State) : Host.Outcome State Fault Refusal :=
  let x := s.dp.die chan die
  .next (s.onDp (fun e d => startDie e chan die (d.setDie chan die { x with
    queue := x.queue.map (fun (o : DieOp) =>
      if 2 ≤ o.cls && o.arrived + 20000000 ≤ e.now then { o with aged := true } else o) })))

end Sys2Proof.Machine
end

