-- ==== Sys2Proof/Machine/Upkeep.lean ====
section
/-! DEFINITION. Meanings of the media commands (chapter 4): closing die stripes (R129), folding (R122 to R125), garbage
collection (R132 to R134), static moves (R136, R137), refresh (R138, R161), die rebuild (R130) and the Last Tide area (R143);
and of the map's segments (R69 to R71). -/

namespace Sys2Proof.Machine

/-- Media management works: after READY, with the flash in service, and no Last Tide. -/
def mediaRuns (s : State) : Bool :=
  s.boot.ready && !s.boot.safe && !s.boot.fatal && kilnRuns s.env s.dp && !s.env.tide

/-- DIE_STRIPE_CLOSE_TIMER (R129). -/
def execDieStripeCloseTimer (row : Nat) (s : State) : Host.Outcome State Fault Refusal :=
  match (s.dp.row row).bind Row.openSince with
  | some t =>
    if mediaRuns s && t + s.param 0x0302 * 1000 ≤ s.clk.time then .next (s.onDp (fun e => closeStripe e row)).work
    else .next s
  | none => .next s

/-! ## Folding (R122 to R125) -/

/-- No write has been admitted on this member for FOLD_IDLE. -/
def writeIdle (s : State) : Bool := s.dp.med.lastWrite + s.param 0x0303 * 1000000 ≤ s.clk.time

/-- FOLD_IDLE_TIMER (R122): idle folding starts while bisque holds anything. -/
def execFoldIdleTimer (s : State) : Host.Outcome State Fault Refusal :=
  if mediaRuns s && writeIdle s && bisqueUsed s.dp != 0 then
    .next { s with dp := { s.dp with med := { s.dp.med with idleFold := true } } }
  else .next s

/-- A row whose data may be relocated now: of bisque or stoneware, not under relocation or erase, and with no pending mapping on it. -/
def movable (d : Dp) (r : Row) : Bool :=
  (r.use = .bisque || r.use = .stoneware) && r.moving.isNone && r.erasing.isNone && !d.map.green.any (fun g => g.loc.any (fun l => l.row = r.id))

/-- Age of a row's data in ns of device time (R138, R139). -/
def rowAge (now : Nat) (r : Row) : Nat := r.age + (now - max r.filledAt r.writtenAt)

/-- A row is scheduled for early warning (R160). -/
def warnedRow (r : Row) : Bool := r.refresh = some 0 || r.refresh = some 1

/-- Early-warning rows in the order of R161: those that needed stage 2, then by highest count. -/
def warnKey (r : Row) : Nat := (if r.stage2 then 0 else 2 ^ 20) + (2 ^ 19 - r.ewCount)

/-- The bisque row that is folded next (R123, R161). -/
def foldRow (now : Nat) (d : Dp) (all idle : Bool) : Option Row :=
  let l := d.med.rows.filter (fun r => r.use = .bisque && movable d r && (r.full || (idle && !r.cws.isEmpty)))
  match leastBy warnKey (l.filter warnedRow) with
  | some r => some r
  | none =>
    if !all then none
    else (leastBy (fun r => 2 ^ 80 - rowAge now r) (l.filter Row.full)).or (leastBy (fun r => r.id) l)

/-- IUs that a row's current codewords belong to. -/
def currentIus (d : Dp) (r : Row) : Nat :=
  (((currentCws d r).filterMap (fun i => r.cws[i]?)).map (fun c => (c.pool, c.localBlk / iuBlocks (iuOf d c.pool)))).eraseDups.length

/-- FOLD (R121 to R125): folding runs above 50 % of B until 40 %, in idle mode, while occupancy stands above B, and for rows
that warn early; one bisque row is copied into stoneware. -/
def execFold (s : State) : Host.Outcome State Fault Refusal :=
  if !mediaRuns s then .next s
  else
    .next (s.onDp (fun e d =>
      let b := d.med.bisque
      let used := bisqueUsed d
      let on_ := if b < 2 * used then true else if used * 10 ≤ b * 4 then false else d.med.folding
      let idle := d.med.idleFold && writeIdle s && used != 0
      let d := { d with med := { d.med with folding := on_, idleFold := idle } }
      match foldRow e.now d (on_ || idle || b < used) idle with
      | none => d
      | some r => relocateRow e r.id .stoneware 4 .fold (count 3 1 (currentIus d r) d))).work

/-! ## Early warning (R161) -/

/-- Refresh of a row for early warning, age or reads: its valid data goes to stoneware (R138); a bisque row is folded. -/
def refreshRow (e : Env) (r : Row) (d : Dp) : Dp :=
  relocateRow e r.id .stoneware 4 (if r.use = .bisque then .fold else .other) (count 3 4 1 d)

/-- The stoneware rows that warn, in the order of R161. -/
def warnedRows (d : Dp) : List Row :=
  (d.med.rows.filter (fun r => r.use = .stoneware && warnedRow r && movable d r && !r.cws.isEmpty)).mergeSort
    (fun a b => warnKey a ≤ warnKey b)

/-- The rows that warn and stand before `upTo` start their refresh, ahead of everything else (R161). -/
def refreshWarned (e : Env) (upTo : Nat) (d : Dp) : Dp :=
  ((warnedRows d).filter (fun r => warnKey r < upTo)).foldl (fun d r => refreshRow e r d) d

/-! ## Garbage collection (R132 to R134) -/

/-- gc_score of R133; `a` in seconds. -/
def gcScore (valid data a : Nat) : Nat := (data - valid) * min a 604800 * 1024 / max 1 (data + valid)

/-- The victim (R133): a row with nothing valid, else the highest score, or in urgent mode the lowest valid fraction; ties go
to the older row. -/
def gcVictim (now : Nat) (d : Dp) (urgent : Bool) : Option Row :=
  let l := d.med.rows.filter (fun r => r.use = .stoneware && r.full && movable d r && d.med.staticRow != some r.id)
  let valid (r : Row) : Nat := (currentCws d r).length
  let old (r : Row) : Nat := 2 ^ 80 - rowAge now r
  match leastBy old (l.filter (fun r => valid r = 0)) with
  | some r => some r
  | none =>
    leastBy (fun r =>
      (if urgent then valid r * 2 ^ 64 / max 1 r.cws.length
       else 2 ^ 64 - gcScore (valid r) r.cws.length (rowAge now r / second)) * 2 ^ 80 + old r) l

/-- GARBAGE_COLLECT (R132, R134): while E_free is below T a victim's current data is copied into stoneware and the victim is
erased; below T/2 the mode is urgent. In normal mode early-warning rows go first (R161). -/
def execGarbageCollect (s : State) : Host.Outcome State Fault Refusal :=
  if !mediaRuns s then .next s
  else
    .next (s.onDp (fun e d =>
      let free := erasedBytes d
      let t := gcTarget e d
      let mode : GcMode := if t ≤ free then .off else if free * 2 < t then .urgent else .normal
      let d := { d with med := { d.med with gc := mode } }
      if mode = .off then d
      else
        let d := if mode = .urgent then d else refreshWarned e (2 ^ 30) d
        match gcVictim e.now d (mode = .urgent) with
        | none => d
        | some r => relocateRow e r.id .stoneware 4 .collect (count 3 2 (currentCws d r).length d))).work

/-! ## Wear levelling (R136, R137) -/

/-- Highest and lowest wear count of the member's good blocks, in the unit of `wearOf`. -/
def wearRange (d : Dp) : Nat × Nat :=
  let good (k : Nat) : Bool :=
    let c := k / 2 ^ 24
    let n := k / 2 ^ 20 % 16
    dieGood d c n && k % 2 ^ 20 < d.kiln.profile.blocks && !d.med.retired.contains (c, n, k % 2 ^ 20)
  let l := (d.med.wear.filter (fun x => good x.1)).map (fun x => wearOf d (x.1 / 2 ^ 24) (x.1 / 2 ^ 20 % 16) (x.1 % 2 ^ 20))
  let blocks := dieCount d * d.kiln.profile.blocks - (d.med.retired.filter (fun b => dieGood d b.1 b.2.1)).length
  (l.foldl max 0, if l.length < blocks then 0 else l.foldl min (l.headD 0))

/-- Mean wear of a row's blocks. -/
def rowWear (d : Dp) (r : Row) : Nat :=
  (r.blocks.foldl (fun n b => n + wearOf d b.1 b.2.1 b.2.2) 0) / max 1 r.blocks.length

/-- STATIC_MOVE (R136, R137): above WL_SPREAD the coldest full stoneware row, unwritten for 1 h, moves into a row of the
most-worn free blocks; moves go on until the spread is 300, or 75 % of a WL_SPREAD below 400. One at a time. -/
def execStaticMove (s : State) : Host.Outcome State Fault Refusal :=
  if !mediaRuns s then .next s
  else
    .next (s.onDp (fun e d =>
      let w := wearRange d
      let spread := w.1 - w.2
      let u := wearUnit d
      let lim := e.param d 0x0305
      let go := if lim * u < spread then true
        else if spread * 100 ≤ (if lim < 400 then lim * 75 else 30000) * u then false else d.med.moving
      let busy := d.med.staticRow.any (fun id => (d.row id).isSome)
      let d := { d with med := { d.med with moving := go, staticRow := if busy then d.med.staticRow else none } }
      if !go || busy then d
      else match leastBy (rowWear d) (d.med.rows.filter (fun r =>
          r.use = .stoneware && r.full && movable d r && 3600 * second ≤ rowAge e.now r)) with
        | none => d
        | some r => relocateRow e r.id .stoneware 4 .static
            (count 3 3 1 { d with med := { d.med with staticRow := some r.id } }))).work

/-! ## Refresh and rebuild (R138, R130, R143) -/

/-- REFRESH_RELOCATION (R138, R161): a scheduled row, or one whose data is older than REFRESH_AGE, is relocated; early-warning rows that
R161 puts before it go first. -/
def execRefreshRelocation (row : Nat) (s : State) : Host.Outcome State Fault Refusal :=
  match s.dp.row row with
  | none => .next s
  | some r =>
    let due := r.refresh.isSome || s.param 0x0306 * 86400 * second ≤ rowAge s.clk.time r
    if !mediaRuns s || !movable s.dp r || !due || r.cws.isEmpty then .next s
    else .next (s.onDp (fun e d =>
      let d := refreshWarned e (if warnedRow r then warnKey r else 2 ^ 30) d
      match d.row row with
      | some r => if movable d r then refreshRow e r d else d
      | none => d)).work

/-- DIE_REBUILD (R130): the valid data of every row that has a block on a fenced unit is relocated. -/
def execDieRebuild (chan : Nat) (die : Option Nat) (s : State) : Host.Outcome State Fault Refusal :=
  if !mediaRuns s || !s.dp.med.rebuilding.any (fun x => x.1 = chan && x.2.1 = die) then .next s
  else
    .next (s.onDp (fun e d =>
      let rows := d.med.rows.filter (fun r => movable d r && r.blocks.any (onUnit chan die))
      rebuildDone e (rows.foldl (fun d r =>
        relocateRow e r.id .stoneware 4 (if r.use = .bisque then .fold else .other) d) d))).work

/-- The Last Tide area moves to other free blocks, and the old ones are erased and go back to the free pool (R143); where the member has
not the room, it stays. -/
def moveArea (e : Env) (d : Dp) : Dp :=
  let old := d.med.rows.filter (fun r => r.use = .lastTide && r.erasing.isNone)
  let want := areaBytes d .lastTide + areaSize e .lastTide
  let d' := growArea e .lastTide want (divUp (areaSize e .lastTide) (2 ^ 26)) d
  if areaBytes d' .lastTide < want then d
  else old.foldl (fun d r => eraseRow e r.id d) { d' with med := { d'.med with ltMovedAt := e.now, ltUsed := false } }

/-- LAST_TIDE_AREA_ROTATE (R143): every 7 days, and after every use, the area moves to other blocks. -/
def execLastTideAreaRotate (s : State) : Host.Outcome State Fault Refusal :=
  let m := s.dp.med
  if mediaRuns s && m.ltGen.isNone && (m.ltUsed || m.ltMovedAt + 7 * 86400 * second ≤ s.clk.time) then
    .next (s.onDp moveArea).work
  else .next s

/-! ## Map segments (R69 to R71) -/

/-- MAP_FAULT_IN (R70): a segment that a command waits for is resident. -/
def execMapFaultIn (pool seg : Nat) (s : State) : Host.Outcome State Fault Refusal :=
  if s.dp.map.wanted.contains (pool, seg) then
    .next (s.onDp (fun e d => settleGreens e (count 3 0 1 { d with map := { d.map with
      wanted := without (pool, seg) d.map.wanted, segs := addNew (pool, seg) d.map.segs } }))).work
  else .next s

/-- Segments of a layout's blocks on this member. -/
def laySegs (e : Env) (iu : Nat) (l : Lay) : List Nat :=
  let per := 4096 * iuBlocks iu
  (List.range (divUp (l.resident e.rank) per)).map (fun i => l.off / per + i)

/-- Segments of this member's map, by pool handle and ascending member-local block (R70). DESIGN CHOICE: of a pool under reshape, the
segments of the layout it has come before those of the new one (notes/assumptions/21.md). -/
def mapSegs (e : Env) (d : Dp) : List (Nat × Nat) :=
  (d.sh.reg.pools.mergeSort (fun a b => a.handle ≤ b.handle)).flatMap (fun p =>
    ((laySegs e p.iu p.lay) ++ (p.reshape.elim [] (fun r => laySegs e p.iu (p.newLay r)))).map (fun g => (p.handle, g)))

/-- MAP_BACKGROUND_LOAD (R70, R71): from READY on, behind the demand fault-ins, the next segment comes into DRAM; after the
last the whole map is resident. -/
def execMapBackgroundLoad (s : State) : Host.Outcome State Fault Refusal :=
  if !mediaRuns s || !s.dp.map.loading || s.dp.map.resident || !s.dp.map.wanted.isEmpty then .next s
  else match (mapSegs s.env s.dp).find? (fun g => !s.dp.map.segs.contains g) with
    | some g => .next (s.onDp (fun e d => settleGreens e { d with map := { d.map with segs := d.map.segs ++ [g] } })).work
    | none =>
      let s := { s with dp := { s.dp with map := { s.dp.map with resident := true, loading := false } } }
      .next ((setCode 0x08 s).cause evReady |>.log 0x0F03 1 srcFirmware []).work

end Sys2Proof.Machine
end

