-- ==== Sys2Proof/Machine/Resync.lean ====
section
/-! DEFINITION. Meanings of RESYNC_ROW (R212, R215), RESHAPE_WINDOW (R216 to R218) and BEACHCOMBER_CHECK (R220, R221), and the rows
that Beachcomber's period makes due. -/

namespace Sys2Proof.Machine

/-- The layout that an operand names: the new one of a reshape, or the one the pool has. -/
def PoolRec.layNamed (p : PoolRec) (newLayout : Bool) : Option Lay :=
  if newLayout then p.reshape.map p.newLay else some p.lay

/-- A row's sherds of n bytes are written at REBUILD_RATE (R215), parameter 0x0604 in GB/s, which is bytes in a ns. DESIGN CHOICE: the
next row is taken when the time of those before it is over (notes/assumptions/36.md). -/
def paceResync (e : Env) (n : Nat) (d : Dp) : Dp :=
  { d with sh := { d.sh with resyncAt := max e.now d.sh.resyncAt + n / max 1 (e.param d 0x0604) } }

/-- RESYNC_ROW (R212, R215): a CATCHING_UP device takes a RESYNC ticket for its own sherd of a row of a region still to be
resynced, within REBUILD_RATE; the ticket rebuilds the sherd from the other members. -/
def execResyncRow (pool row : Nat) (newLayout : Bool) (s : State) : Host.Outcome State Fault Refusal :=
  if !mediaRuns s then .next s
  else
    .next (s.onDp (fun e d =>
      match (d.sh.reg.pool pool).bind (fun p => (PoolRec.layNamed p newLayout).map (fun l => (p, l))) with
      | none => d
      | some (p, l) =>
        let mine := (rowUnits l row).filter (fun x => x.2 = e.rank)
        let gs := (p.rowRegions l row).filter (fun g => missedIn d pool e.rank g &&
          (regionRows p e.rank g).any (fun x => rowKey x.1 x.2 = rowKey l row) &&
          !(rowsDone d pool g).contains (rowKey l row))
        let busy := d.sh.htickets.any (fun t => t.pool = pool && t.gen = l.gen && t.row = row && hasFlag t.flags fResync)
        if !admitted d pool || memberState d pool e.rank != .catchingUp || gs.isEmpty || busy || e.now < d.sh.resyncAt then d
        else
          let d := paceResync e (mine.length * l.s * 4096) { d with sh := { d.sh with
              resyncing := d.sh.resyncing ++ (gs.filter (fun g =>
                !d.sh.resyncing.any (fun x => x.1 = pool && x.2.1 = g))).map (fun g => (pool, g, [])) } }
          mine.foldl (fun d x => ownTicket pool l.gen row 0 (l.s - 1) (if x.1 < 14 then 2 ^ x.1 else 0) fResync x.1 [] [] false d)
            d)).work

/-- RESHAPE_WINDOW (R217, R218): the steward takes tickets for the next 64 rows of the new layout once no host ticket of the
old one touches them, and while every member is CURRENT. They commit together, and the TIDEMARK record follows. -/
def execReshapeWindow (pool : Nat) (s : State) : Host.Outcome State Fault Refusal :=
  if !mediaRuns s then .next s
  else
    .next (s.onDp (fun e d =>
      match d.sh.reg.pool pool with
      | none => d
      | some p => match p.reshape with
        | none => d
        | some r =>
          let t := r.tidemark
          let n := min windowRows (r.rows - t)
          let l := p.newLay r
          let clear := (openTickets d pool).all (fun x => d.sh.windows.contains (pool, x.seqn) ||
            !oldTouches p x.row x.dataMask x.posFirst x.posLast t (t + n))
          if !isSteward d pool || (d.roleD pool).stopped || !admitted d pool || windowOpen d pool || n = 0 || !clear ||
              p.ranks.any (fun k => memberState d pool k != .current) ||
              (undurable d pool).any (fun x => x.type = .tidemark) then d
          else
            let d := { d with sh := { d.sh with
                reg := d.sh.reg.setPool { p with reshape := some { r with paused := false } } } }
            (List.range n).foldl (fun d i =>
              let d := ownTicket pool l.gen (t + i) 0 (l.s - 1) (listMask (l.dataUnits (t + i))) fGrouped 0 [] [] true d
              d.onHticket (d.sh.nextId - 1) (fun x => { x with groupKey := 2 ^ 60 + t, groupSize := n })) d)).work

/-! ## Beachcomber (R220, R221, Table 6-8) -/

/-- A row that this device, the pool's steward, may check now: it has no open ticket (R221), and all its members are CURRENT. -/
def beachOpen (e : Env) (d : Dp) (p : PoolRec) (l : Lay) (row : Nat) : Bool :=
  let pool := p.handle
  isSteward d pool && admitted d pool && rowGoverned p l row &&
    (openTickets d pool).all (fun t => t.row != row || (d.ticketLay p t.seqn).gen != l.gen) &&
    d.sh.htickets.all (fun t => t.pool != pool || t.row != row || t.gen != l.gen) &&
    (rowUnits l row).all (fun x => present e d x.2 && memberState d pool x.2 = .current)

/-- The units of a position are read from their members, and judged once they are in hand. -/
def beachCheck (e : Env) (p : PoolRec) (l : Lay) (row pos : Nat) (d : Dp) : Dp :=
  let pool := p.handle
  if l.isPq row then startRebuild pool l.gen ⟨row, wholeCheck, pos⟩ (.patrol pool row pos) d
  else if l.isMirror row then startRebuild pool l.gen ⟨row, mirrorCheck, pos⟩ (.patrol pool row pos) d
  else if pos + 1 = l.s then patrolled e p l row d else d

/-- BEACHCOMBER_CHECK (R220, R221): the pool's steward checks a position of a row. -/
def execBeachcomberCheck (pool row : Nat) (newLayout : Bool) (pos : Nat) (s : State) : Host.Outcome State Fault Refusal :=
  if !mediaRuns s then .next s
  else
    .next (s.onDp (fun e d =>
      match (d.sh.reg.pool pool).bind (fun p => (PoolRec.layNamed p newLayout).map (fun l => (p, l))) with
      | none => d
      | some (p, l) =>
        if beachOpen e d p l row && pos < l.s then beachCheck e p l row pos d else d)).work

/-- The row that is due now (R220): a pool's pass has run for BEACH_PERIOD, parameter 0x0607 in days, no position of the pool is being
checked, and of the next 64 rows to check this is the first that may be. DESIGN CHOICE: what is due the block begins by itself when
it is idle (notes/assumptions/36.md). -/
def beachDue (e : Env) (d : Dp) (p : PoolRec) : Option Nat :=
  let now := d.sh.rebuilds.any (fun j => j.pool = p.handle && match j.purpose with
    | .patrol _ _ _ => true
    | _ => false)
  if now || p.reshape.isSome || e.now < d.sh.passAt.get 0 p.handle + e.param d 0x0607 * 86400 * second then none
  else
    let done := (d.sh.patrolled.filter (fun k => k / 2 ^ 41 = p.handle && k % 2 = p.lay.gen % 2)).length
    (List.range (min p.lay.rows (done + 64))).find? (fun row =>
      !d.sh.patrolled.contains (p.handle * 2 ^ 41 + rowKey p.lay row) && beachOpen e d p p.lay row)

/-- Beachcomber begins the checks that are due. -/
def beachTick (s : State) : State :=
  let due := (s.dp.sh.reg.pools.filter (fun (p : PoolRec) => isSteward s.dp p.handle)).filterMap (fun p =>
    (beachDue s.env s.dp p).map (fun row => (p, row)))
  if due.isEmpty || !mediaRuns s then s
  else (s.onDp (fun e d => due.foldl (fun d x =>
    (List.range x.1.lay.s).foldl (fun d pos => beachCheck e x.1 x.1.lay x.2 pos d) d) d)).work
end Sys2Proof.Machine
end

