-- ==== Sys2Proof/Machine/Breakwater.lean ====
section
/-! DEFINITION. Breakwater's admission rounds (Table 12-5, R418, R419) and the soft limit (R423), with the meanings of
ADMISSION_ROUND and SOFT_LIMIT_TIMER. -/

namespace Sys2Proof.Machine

/-! ## Max-min fairness -/

/-- The level L of max-min fairness over requests in rising order, none where they all fit (Table 12-5). -/
def fairLevel : Nat → List Nat → Option Nat
  | _, [] => none
  | c, x :: t => if x * (t.length + 1) ≤ c then fairLevel (c - x) t else some (c / (t.length + 1))

/-- What max-min fairness grants to one request among all. -/
def fairShare (capacity : Nat) (all : List Nat) (request : Nat) : Nat :=
  match fairLevel capacity (all.mergeSort (· ≤ ·)) with
  | none => request
  | some l => min request l

/-! ## Demands, requests, grants and rates -/

/-- Key of a pool's figure for one rank. -/
def bwKey (pool rank : Nat) : Nat := pool * 16 + rank

/-- Figures of a pool. -/
def bwOf (t : Tab Nat) (pool : Nat) : List (Nat × Nat) := (t.filter (fun x => x.1 / 16 = pool)).map (fun x => (x.1 % 16, x.2))

/-- The demand of this head on a pool, in bytes per second (step 1). -/
def demandOf (d : Dp) (pool : Nat) : Nat :=
  let iu := iuOf d pool
  (d.bucket pool).spent * 1000 + ((waitingWrites d pool).foldl (fun n c => n + writeCost iu c) 0) * 100

/-- Members of a pool that take part in step 4: present ones that the tree gives blocks. -/
def roundMembers (e : Env) (d : Dp) (p : PoolRec) : List Nat :=
  p.ranks.filter (fun r => takes e d p.handle r && 0 < p.lay.resident r)

/-- A head's demand reaches the pool's steward, which sends each member its request (step 2). -/
def takeDemand (e : Env) (pool head n : Nat) (d : Dp) : Dp :=
  match d.sh.reg.pool pool with
  | none => d
  | some p =>
    if isSteward d pool then
      let d := { d with bw := { d.bw with demands := d.bw.demands.put (bwKey pool head) n } }
      let all := (bwOf d.bw.demands pool).foldl (fun n x => n + x.2) 0
      (roundMembers e d p).foldl (fun d r =>
        send e .control 3 (header e d r pool) (.request (all * p.lay.resident r / max 1 p.cap)) d) d
    else d

/-- A steward's request reaches a member, which divides its intake among all it has received (step 3). -/
def takeRequest (e : Env) (pool from_ n : Nat) (d : Dp) : Dp :=
  let kept := d.bw.requests.filter (fun x => x.1 / 16 != pool)
  let all : Tab Nat := Tab.put kept (bwKey pool from_) n
  send e .control 3 (header e d from_ pool) (.grant (fairShare d.bw.intake (all.map Prod.snd) n))
    { d with bw := { d.bw with requests := all } }

/-- The pool's rate: the least of its members' grants over their share of it, once every one has granted (step 4). -/
def poolRate (e : Env) (d : Dp) (p : PoolRec) : Option Nat :=
  let ms := roundMembers e d p
  let gs := ms.filterMap (fun r => (d.bw.grants.find (bwKey p.handle r)).map (fun g => g * p.cap / p.lay.resident r))
  if ms.isEmpty || gs.length != ms.length then none
  else (leastBy (fun g => g) gs)

/-- A member's grant reaches the steward, which divides the pool's rate among the heads (step 4). -/
def takeGrant (e : Env) (pool rank n : Nat) (d : Dp) : Dp :=
  match d.sh.reg.pool pool with
  | none => d
  | some p =>
    if isSteward d pool then
      let d := { d with bw := { d.bw with grants := d.bw.grants.put (bwKey pool rank) n } }
      match poolRate e d p with
      | none => d
      | some a =>
        let heads := (bwOf d.bw.demands pool).filter (fun x => present e d x.1)
        heads.foldl (fun d x =>
          send e .control 3 (header e d x.1 pool) (.rate (fairShare a (heads.map Prod.snd) x.2)) d) d
    else d

/-- A head's rate for a pool applies to its bucket (step 5). -/
def takeRate (e : Env) (pool n : Nat) (d : Dp) : Dp :=
  d.setBucket pool { fillBucket e (d.bucket pool) with rate := n }

/-- A head's report to every pool's steward, and a new round's count of bytes. -/
def reportDemands (e : Env) (d : Dp) : Dp :=
  (d.sh.reg.pools.filter (fun p => p.handle != 0)).foldl (fun d p =>
    let n := demandOf d p.handle
    let d := d.setBucket p.handle { d.bucket p.handle with spent := 0 }
    match stewardOf e d p.handle with
    | none => d
    | some r => if admitted d p.handle then send e .control 3 (header e d r p.handle) (.demand n) d else d)
    { d with bw := { d.bw with roundAt := e.now } }

/-- ADMISSION_ROUND (Table 12-5 step 1), every 1 ms. -/
def execAdmissionRound (s : State) : Host.Outcome State Fault Refusal :=
  .next (s.onDp (fun e d =>
    if e.ready && !e.safe && !e.tide && d.bw.roundAt + msec ≤ e.now then reportDemands e d else d)).work

/-- SOFT_LIMIT_TIMER (R423). -/
def execSoftLimitTimer (pool : Nat) (s : State) : Host.Outcome State Fault Refusal :=
  .next (s.onDp (fun e d =>
    let b := d.bucket pool
    if !b.softOn && b.delayedSince.any (fun t => t + second ≤ e.now) && b.softAt.all (fun t => t + 60 * second ≤ e.now) then
      let d := count 9 1 1 (logE e 0x0901 2 srcTide [pool] d)
      cause e evSoftLimit (d.setBucket pool { b with softOn := true, softAt := some e.now })
    else if b.softOn && b.delayedSince.isNone && b.idleSince + second ≤ e.now then
      (logE e 0x0902 1 srcTide [pool] d).setBucket pool { b with softOn := false }
    else d))

end Sys2Proof.Machine
end

