-- ==== Sys2Proof/Machine/SecureDiscard.lean ====
section
/-! DEFINITION. Secure-discard jobs (R60 to R68, Table 2-5): what each member destroys and reports, and how the registry
pool's steward drives the job; the meaning of SECURE_DISCARD_JOB. -/

namespace Sys2Proof.Machine

/-- A job has ended. -/
def sdEnded (j : SdJob) : Bool := j.state = .done || j.state = .donePartial

/-! ## A member's part (steps 2, 3, 5 to 9) -/

/-- An LBA of a job's range. -/
def sdCovers (j : SdJob) (lba : Nat) : Bool := j.lba ≤ lba && lba < j.lba + j.len

/-- A row of a layout holds a block of a job's range. -/
def sdTouches (j : SdJob) (l : Lay) (row : Nat) : Bool :=
  (l.rowLbas row).any (fun x => x.1 < j.lba + j.len && j.lba < x.1 + x.2)

/-- The members still hold parity that the job replaces: its reparity tickets have not all committed. -/
def sdEarly (j : SdJob) : Bool := j.state = .identifying || j.state = .reparity

/-- A greenware copy that the job destroys: data of the range, and parity of its rows once new parity stands. -/
def sdGreen (d : Dp) (j : SdJob) (p : PoolRec) (g : Green) : Bool :=
  let l := d.ticketLay p g.seqn
  g.pool = j.pool && g.seqn ≤ j.seqn && !g.unmaps &&
  (if g.unit < 14 then (l.lba ⟨g.row, g.unit, g.pos⟩).any (sdCovers j) else !sdEarly j && sdTouches j l g.row)

/-- A codeword that the job destroys: data of the range, or parity of a row of the range, of a sequence at or below the
job's. -/
def sdCodeword (j : SdJob) (p : PoolRec) (c : Codeword) : Bool :=
  c.pool = j.pool && c.seqn ≤ j.seqn && c.written &&
  (if c.kind = 0 then sdCovers j c.addr
   else (c.kind = 1 || c.kind = 2) && sdTouches j (p.layGen (p.genOf c.localBlk)) (c.addr / 256))

/-- The rows that hold a target of the job (steps 3 and 5): data that is not current, and parity, which step 4 replaces. -/
def sdRows (d : Dp) (j : SdJob) (p : PoolRec) : List Row :=
  d.med.rows.filter (fun r => r.erasing.isNone &&
    (List.range r.cws.length).any (fun i => (r.cws[i]?).any (fun c => sdCodeword j p c && !(c.kind = 0 && isCurrent d r.id i))))

/-- The blocks out of service that hold a target of the job (R66). -/
def sdRelics (d : Dp) (j : SdJob) (p : PoolRec) : List (Nat × Nat × Nat) :=
  (d.med.relics.filter (fun x => x.cws.any (sdCodeword j p))).map Relic.block

/-- The pool of a job is being deleted securely, and this head's commands to it have ended: its map entries go. -/
def sdDeleteMap (d : Dp) (j : SdJob) (p : PoolRec) : Dp :=
  if p.secureDel && p.deleteJob = some j.id && !poolBusy d j.pool then
    freeEntries (fun h _ => h = j.pool) { d with map := { d.map with green := d.map.green.filter (fun g => g.pool != j.pool) } }
  else d

/-- A part that has done nothing yet. -/
def SdPart.none : SdPart := { listed := false, blocks := 0, rows := [], bad := [], done := 0, told := 0, left := false }

/-- This member's part in a job. -/
def Dp.sdPart (d : Dp) (id : Nat) : SdPart := d.sh.sdTargets.get SdPart.none id
def Dp.setSdPart (d : Dp) (id : Nat) (x : SdPart) : Dp :=
  { d with sh := { d.sh with sdTargets := d.sh.sdTargets.put id x } }

/-- This member lists its target blocks, whole rows at a time (steps 3 and 5), with those out of service (R66): of these the ones on
dies in service can still be zeroed, and the others are left. -/
def sdList (d : Dp) (j : SdJob) (p : PoolRec) : Dp :=
  let rows := sdRows d j p
  let relics := sdRelics d j p
  let reach := relics.filter (fun b => dieGood d b.1 b.2.1)
  d.setSdPart j.id { SdPart.none with
    listed := true
    blocks := rows.foldl (fun n r => n + r.blocks.length) 0 + relics.length
    rows := rows.map Row.id
    bad := reach
    left := reach.length < relics.length }

/-- This member carries a job on: greenware copies go; it lists its targets; after the reparity it relocates the target rows and erases
them (steps 2, 3, 5 to 8), with such as old parity has come to stand on meanwhile. -/
def sdMember (e : Env) (j : SdJob) (p : PoolRec) (d : Dp) : Dp :=
  let d := sdDeleteMap d j p
  let gone := sdGreen d j p
  let d := { d with
    map := { d.map with green := d.map.green.filter (fun g => !gone g) }
    med := { d.med with ltGen := d.med.ltGen.map (fun (x : LtGen) => { x with greens := x.greens.filter (fun g => !gone g) }) } }
  let d := if (d.sdPart j.id).listed then d else sdList d j p
  if sdEarly j then d
  else
    let x := d.sdPart j.id
    let d := d.setSdPart j.id { x with
      rows := x.rows ++ ((sdRows d j p).map Row.id).filter (fun id => !x.rows.contains id) }
    let rows := (d.sdPart j.id).rows.filterMap d.row
    flashWork e (sweepRows e ((rows.filter (fun r => r.moving.isNone)).foldl (fun d r =>
      relocateRow e r.id .stoneware 4 .other d) d))

/-- This member reports to the steward: what it has listed, blocks it has destroyed, and that it is done (step 9), when nothing of the
job is left to destroy here. -/
def sdReport (e : Env) (j : SdJob) (p : PoolRec) (d : Dp) : Dp :=
  let x := d.sdPart j.id
  let over_ := !sdEarly j && x.rows.all (fun id => (d.row id).isNone) && x.bad.isEmpty && (sdRows d j p).isEmpty
  match stewardRank d 0 with
  | none => d
  | some r =>
    if !x.listed || !(j.toList.testBit e.rank || x.told < x.done || over_) then d
    else
      send e .control 3 (header e d r 0) (.sdDone j.id
        { blocks := x.blocks, done := x.done - x.told, left := x.left, final := over_ })
        (d.setSdPart j.id { x with told := x.done })

/-! ## The steward's part (steps 4, 10) -/

/-- Mark of the reparity tickets of a job. -/
def sdKey (job : Nat) : Nat := 2 ^ 32 + job

/-- Rows of parity that a job's range touches, of each layout that governs them; a pool that is being deleted needs no new
parity. -/
def sdParityRows (j : SdJob) (p : PoolRec) : List (Lay × Nat) :=
  if p.secureDel && p.deleteJob = some j.id then []
  else (p.lay :: p.reshape.toList.map p.newLay).flatMap (fun l =>
    ((List.range l.rows).filter (fun row => rowGoverned p l row && l.isPq row && sdTouches j l row)).map (fun row => (l, row)))

/-- Issue the reparity tickets of a job, one for each row. -/
def sdReparity (j : SdJob) (p : PoolRec) (d : Dp) : Dp :=
  (sdParityRows j p).foldl (fun d x =>
    let d := ownTicket p.handle x.1.gen x.2 0 (x.1.s - 1) 0 fReparity unitP [] [] false d
    d.onHticket (d.sh.nextId - 1) (fun t => { t with groupKey := sdKey j.id })) d

/-- Reparity tickets of a job that have not committed. -/
def sdOpen (d : Dp) (j : SdJob) : Nat := (d.sh.htickets.filter (fun t => t.groupKey = sdKey j.id)).length

/-- Members whose report a job still waits for, without those that are RETIRED (R64). -/
def sdWaiting (d : Dp) (j : SdJob) : List Nat :=
  (maskList 16 j.pendingMask).filter (fun r => memberState d j.pool r != .retired)

/-- Members that have still to list their targets and are there to do it. -/
def sdListing (d : Dp) (j : SdJob) : Bool :=
  (maskList 16 j.toList).any (fun r => memberState d j.pool r != .retired && memberState d j.pool r != .absent)

/-- The job after what the steward knows now (Table 2-6): it leaves IDENTIFYING once the members that are there have listed their
targets, so that its totals are final then (R67; what an ABSENT member adds on its return: notes/assumptions/35.md). -/
def sdNext (d : Dp) (j : SdJob) : SdJob :=
  let wait := sdWaiting d j
  let state : JobState :=
    if j.state = .identifying then (if sdListing d j then .identifying else .reparity)
    else if sdOpen d j != 0 && j.state = .reparity then .reparity
    else if wait.isEmpty then (if j.left || j.pendingMask != 0 then .donePartial else .done)
    else if wait.any (fun r => memberState d j.pool r = .absent) then .waitingMember
    else if j.blocksDone = 0 then .relocating
    else .erasing
  { j with state := state, rowsDone := j.rowsTotal - sdOpen d j }

/-- A job in a registry. -/
def setJob (g : Registry) (j : SdJob) : Registry := { g with jobs := updateWhere (fun x => x.id = j.id) (fun _ => j) g.jobs }

/-- The steward carries a job on. A step that changes the job is a change of the registry; its end is logged. -/
def sdSteward (e : Env) (id : Nat) (d : Dp) : Dp :=
  let d := sdTick e d
  if !isSteward d 0 then d
  else match d.sh.regNext.jobs.find? (fun j => j.id = id) with
    | none => d
    | some j =>
      match d.sh.regNext.pool j.pool with
      | none => d
      | some p =>
        if sdEnded j then d
        else
          let first := j.state = .identifying && !sdListing d j
          let d := if first then sdReparity j p d else d
          let j' := sdNext d (if first then { j with rowsTotal := (sdParityRows j p).length } else j)
          let same := j'.state = j.state && j'.rowsDone = j.rowsDone
          let d := if sdEnded j' then
              logE e 0x0708 2 srcFirmware [id, if j'.state = .done then 6 else 7] d
            else d
          if same && !first then d else changeRegistry e none (setJob d.sh.regNext j') 0 [] d

/-- A member's report: the blocks it has listed count once, then those it has destroyed; the last one clears its bit (R63). -/
def sdTake (e : Env) (id rank : Nat) (r : SdReport) (d : Dp) : Dp :=
  if !isSteward d 0 then d
  else match d.sh.regNext.jobs.find? (fun j => j.id = id) with
    | none => d
    | some j =>
      if sdEnded j || !j.pendingMask.testBit rank then d
      else
        let fresh := j.toList.testBit rank
        let j := { j with
          toList := if fresh then j.toList - 2 ^ rank else j.toList
          blocksTotal := if fresh then j.blocksTotal + r.blocks else j.blocksTotal
          blocksDone := min (if fresh then j.blocksTotal + r.blocks else j.blocksTotal) (j.blocksDone + r.done)
          pendingMask := if r.final then j.pendingMask - 2 ^ rank else j.pendingMask
          left := j.left || r.left }
        sdSteward e id (changeRegistry e none (setJob d.sh.regNext j) 0 [] d)

/-- SECURE_DISCARD_JOB (R61 to R66): this device carries its part of the job on, as a member and as the registry pool's
steward. -/
def execSecureDiscardJob (job : Nat) (s : State) : Host.Outcome State Fault Refusal :=
  .next (s.onDp (fun e d =>
    if !e.ready || e.safe || e.tide then d
    else
      let d := match d.sh.reg.jobs.find? (fun j => j.id = job) with
        | none => d
        | some j => match d.sh.reg.pool j.pool with
          | none => d
          | some p =>
            if sdEnded j then d
            else if j.pendingMask.testBit e.rank then sdReport e j p (sdMember e j p d)
            else d
      sdSteward e job d)).work

end Sys2Proof.Machine
end

