-- ==== Sys2Proof/Machine/Deliver.lean ====
section
/-! DEFINITION. What each Causeway frame does at its destination once it is delivered: heartbeats, claims and the Seawall
(R233, R242 to R252), tickets and notices (R200 to R202), mirror groups (R205, R226), resolution (R209, R254), JOIN (R290,
R252), reads between devices (R579), sherds (R165, R167), and the firmware messages of CONTROL frames (Table 8-5). -/

namespace Sys2Proof.Machine

/-! ## Heartbeats (R232, R233, R249, R252) -/

/-- The claim of a pool's steward as heartbeats and announcements tell it (R252). A new one makes a device that is not
admitted there send its JOIN again. -/
def hearSteward (pool : Nat) (c : BitVec 32) (d : Dp) : Dp :=
  let was := d.sh.steward.get 0 pool
  if !claimValid c || c.toNat ≤ was then d
  else { d with sh := { d.sh with
      steward := d.sh.steward.put pool c.toNat
      joinSent := if admitted d pool then d.sh.joinSent else none } }

/-- A role entry of a heartbeat that names its sender as standby: the pool's record follows (R225). A steward that has been fenced
kept its journal copy until now (R244), when another device is the standby of the higher claim. -/
def standbyEntry (src pool : Nat) (c : BitVec 32) (d : Dp) : Dp :=
  if !admitted d pool then d
  else
    let d := d.noteLast pool (fun p => { p with lastStandby := some src })
    match d.role pool with
    | some x => if x.role = .none && x.claim < c then d.setRole { x with journal := [], tail := [] } else d
    | none => d

/-- A role entry of a heartbeat that names its sender as steward (Table 7-5). A steward that was silent and still leads may
have declared this device ABSENT meanwhile, so the device joins again. -/
def stewardEntry (e : Env) (f : Frame) (x : RoleEntry) (wasSilent : Bool) (d : Dp) : Dp :=
  let d := hearSteward x.pool x.claim d
  if !admitted d x.pool then d
  else if !claimValid x.claim || rankOf x.claim != f.src.val then malformed e f FrameType.heartbeat.code d
  else if x.claim < d.claimOf x.pool then sendFenced e x.pool f.src.val (refusal x.pool d)
  else
    let d := raise e x.pool x.claim 2 d
    let d := { d with sh := { d.sh with
        mentioned := d.sh.mentioned.put x.pool e.now
        relinquished := without x.pool d.sh.relinquished
        noSteward := Tab.erase d.sh.noSteward x.pool } }
    if wasSilent then
      { d with sh := { d.sh with admitted := without x.pool d.sh.admitted, joinSent := none } }
    else d

/-- The device that R257 would hand a pool to, or name standby: the preferred steward, or at that device the preferred
standby. -/
def returnRank (e : Env) (p : PoolRec) : Option Nat := if p.prefSteward = e.rank then p.prefStandby else some p.prefSteward

/-- The conditions of R257 that the steward holds at a moment. -/
def healthyNow (e : Env) (d : Dp) (pool r : Nat) : Bool :=
  let k := d.peer r
  present e d r && memberState d pool r = .current && k.flags.getLsbD 1 && !k.flags.getLsbD 3

/-- A heartbeat of a candidate goes on, or breaks, its 60 s (R257). -/
def noteHealth (e : Env) (src : Nat) (broken : Bool) (d : Dp) : Dp :=
  { d with sh := { d.sh with roles := d.sh.roles.map (fun (x : PRole) =>
      if x.role = .steward && (d.sh.reg.pool x.pool).any (fun p => returnRank e p = some src) then
        { x with healthy :=
            if healthyNow e d x.pool src then (if broken then some e.now else some (x.healthy.getD e.now)) else none }
      else x) } }

/-- HEARTBEAT (R233, Table 8-6). -/
def onHeartbeat (e : Env) (f : Frame) (boot : Word) (session : BitVec 32) (flags : Byte) (l : List RoleEntry) (d : Dp) : Dp :=
  let r := f.src.val
  let p := d.peer r
  let wasSilent := p.heard && p.silent
  let broken := !p.heard || p.silent || p.lastHb + 2 * msec ≤ e.now
  let d := d.setPeer r { p with
    boot := boot, session := session, lastHb := e.now, heard := true, silent := false,
    out := p.out && (ownLinks d).all Option.isNone, flags := flags, roles := l,
    unbrokenSince := if broken then e.now else p.unbrokenSince }
  let d := if broken || p.boot != boot then { d with
      map := { d.map with fullTold := false }
      sh := { d.sh with fullRanks := d.sh.fullRanks.filter (· != r) } } else d
  let d := l.foldl (fun d x => if x.standby then standbyEntry r x.pool x.claim d else stewardEntry e f x wasSilent d) d
  noteHealth e r broken d

/-! ## Claims (R243, R249, R252) -/

/-- CLAIM: an announcement raises the entry and is acknowledged. Under the drill handle the standby takes its part and the
steward sends its probe (Table 7-9). -/
def onClaim (e : Env) (f : Frame) (d : Dp) : Dp :=
  let h := f.pool
  if !admitted d h then hearSteward h f.claim d
  else
    let a := seawall e .claim f true d
    if !a.2 then a.1
    else if h = drillHandle then
      match a.1.sh.drill with
      | some k =>
        if k.order.isSome && f.src.val = k.standby then
          sendProbe e k.oldClaim { a.1 with sh := { a.1.sh with drill := some { k with newClaim := f.claim } } }
        else a.1
      | none => drillStandby e f.arg a.1
    else
      let d := hearSteward h f.claim a.1
      send e .control 3 { header e d f.src.val h with arg := f.claim.toNat } .claimAck d

/-- FENCED (R249, R251, Table 7-9 step 3): the entry is raised, and the head's sent tickets of a passed claim are asked for
again at the new steward. -/
def onFenced (e : Env) (f : Frame) (d : Dp) : Dp :=
  if !claimValid f.claim then malformed e f FrameType.fenced.code d
  else
    let d := raise e f.pool f.claim 2 d
    if f.pool = drillHandle then
      match d.sh.drill with
      | some k => if k.order.isSome then
          { d with sh := { d.sh with drill := some { k with fencedOk := k.fencedOk ||| 2 ^ f.src.val } } } else d
      | none => d
    else
      (d.sh.htickets.filter (fun t => t.pool = f.pool && t.stage = .sent && t.claim < f.claim)).foldl
        (fun d t => waitAgain t.id d) d

/-- RELINQUISH (R245): the pool's steward is silent from now on. -/
def onRelinquish (e : Env) (f : Frame) (d : Dp) : Dp :=
  if admitted d f.pool && stewardRank d f.pool = some f.src.val then
    { d with sh := { d.sh with
        relinquished := addNew f.pool d.sh.relinquished, mentioned := d.sh.mentioned.put f.pool e.now } }
  else d

/-- HANDOVER (Table 7-7 step 5): the target publishes the claim it is given. -/
def onHandover (e : Env) (f : Frame) (d : Dp) : Dp :=
  if admitted d f.pool && stewardRank d f.pool = some f.src.val && rankOf f.claim = e.rank &&
      epochOf f.claim = epochOf (d.claimOf f.pool) + 1 then
    publish e f.pool f.claim (some f.src.val) d
  else d

/-! ## Tickets, notices and the journal (R200 to R209) -/

/-- A frame of Table 7-5 acts in a pool that has admitted this device, once the Seawall has accepted it. -/
def guarded (e : Env) (t : FrameType) (f : Frame) (rankMustMatch : Bool) (act : Dp → Dp) (d : Dp) : Dp :=
  if !admitted d f.pool then d
  else
    let a := seawall e t f rankMustMatch d
    if a.2 then act a.1 else a.1

/-- TICKET_REQUEST at the steward (Table 6-2 step 2); while grants are stopped it is held. -/
def onTicketRequest (e : Env) (f : Frame) (m flags key size cover : Nat) (d : Dp) : Dp :=
  match d.role f.pool with
  | none => d
  | some x =>
    if x.role != .steward then d
    else if x.stopped || windowHolds d f m then d.setRole { x with held := x.held ++ [(f, .ticket m flags key size cover)] }
    else openTicket e f m flags key size cover d

/-- TICKET_GRANT at the head; a ticket that it gave up is dropped. -/
def onTicketGrant (e : Env) (f : Frame) (d : Dp) : Dp :=
  match d.sh.htickets.find? (fun t => t.id % 2 ^ 32 = f.arg % 2 ^ 32 && t.pool = f.pool) with
  | some t => grantTicket e t.id f.seqn (f.arg / 2 ^ 32) f.claim d
  | none => send e .control 3 (header e d f.src.val f.pool) (.order (.drop f.pool f.seqn 2)) d

/-- COMMIT_NOTICE at members and the head (R53), and of a change of the registry. -/
def onCommit (e : Env) (f : Frame) (r : Option Registry) (d : Dp) : Dp :=
  match r with
  | some g => if isSteward d 0 then d else takeRegistry e g d
  | none =>
    let d := commitHead f.pool f.seqn (commitGreens e f.pool f.seqn d)
    if f.arg = 1 then readAfresh f.pool f.row d else d

/-- DROP_NOTICE at members and the head. -/
def onDrop (e : Env) (f : Frame) (d : Dp) : Dp := dropHead e f.pool f.seqn (dropGreens e f.pool f.seqn d)

/-- MIRROR_GROUP: a group joins the mirror and is acknowledged; an appointment makes this device standby with the steward's
working set and bitmaps (R205, R226). -/
def onMirror (e : Env) (f : Frame) (l : List JRec) (d : Dp) : Dp :=
  let x := d.roleD f.pool
  let ack (d : Dp) : Dp := send e .mirrorAck 3 { header e d f.src.val f.pool with claim := f.claim, arg := f.arg } .none d
  if f.arg = mgAppoint then
    if x.role = .steward then d
    else
      let map (r : JRec) : Bool := r.type = .missed && r.seqn = 0
      let all := keepJournal (l.filter (fun r => !map r))
      let there := strandRecs d true
      let d := d.setRole { x with
        role := .standby, claim := f.claim, journal := all, tail := all.filter (fun r => !there.contains r), contest := none
        restored := false }
      let d := { d with sh := { d.sh with
          missed := d.sh.missed.filter (fun (m : Nat × Nat) => m.1 / 16 != f.pool) ++
            (l.filter map).map (fun (r : JRec) => (viewKey f.pool (r.arg / 2 ^ 56), r.arg % 2 ^ 56)) } }
      ack (cause e evSteward (d.noteLast f.pool (fun p => { p with lastStandby := some e.rank })))
  else if x.role = .standby then
    let d := d.setRole { x with journal := keepJournal (x.journal ++ l), tail := x.tail ++ l }
    if f.arg = mgGroup then ack d else d
  else d

/-- MIRROR_ACK at the steward: the oldest group sent is durable; or the appointed device is the standby. -/
def onMirrorAck (e : Env) (f : Frame) (d : Dp) : Dp :=
  match d.role f.pool with
  | none => d
  | some x =>
    if x.role != .steward || f.claim != x.claim then d
    else if f.arg = mgAppoint then
      if x.appoint.any (fun a => a.1 = f.src.val) then
        let d := d.setRole { x with
          standby := some f.src.val, appoint := none
          handover := x.handover.map (fun (h : Handover) => { h with since := e.now }) }
        cause e evSteward (d.noteLast f.pool (fun p => { p with lastStandby := some f.src.val }))
      else d
    else match x.sent with
      | [] => d
      | g :: t => durableGroup e f.pool g (d.setRole { x with sent := t })

/-- RESOLVE at a member: what it holds of the pool (R209); nothing under the drill handle. -/
def onResolve (e : Env) (f : Frame) (d : Dp) : Dp :=
  if f.pool = drillHandle then
    send e .resolveReply 3 { header e d f.src.val f.pool with claim := f.claim } (.resolve [] []) d
  else
    send e .resolveReply 3 { header e d f.src.val f.pool with claim := f.claim }
      (.resolve (pendingItems d f.pool) (heldCommits d f.pool)) d

/-- RESOLVE_REPLY at the new steward (R254), or at the standby in a drill. -/
def onResolveReply (e : Env) (f : Frame) (items : List ResolveItem) (commits : List Nat) (d : Dp) : Dp :=
  if f.pool = drillHandle then
    match d.sh.drill with
    | some k => if k.order.isNone && items.isEmpty then
        { d with sh := { d.sh with drill := some { k with accepted := k.accepted ||| 2 ^ f.src.val } } } else d
    | none => d
  else
    let x := d.roleD f.pool
    match x.resolving with
    | none => d
    | some v =>
      if v.waiting.testBit f.src.val then
        let v := { v with
          waiting := v.waiting - 2 ^ f.src.val, items := v.items ++ items.map (fun i => (f.src.val, i))
          commits := (v.commits ++ commits).eraseDups }
        let d := d.setRole { x with resolving := some v }
        if v.waiting = 0 then finishResolve e f.pool d else d
      else d

/-- SHERD_DONE at the steward (R202). -/
def onSherdDone (f : Frame) (d : Dp) : Dp :=
  d.onSticket f.pool f.seqn (fun t => { t with done := t.done ||| 2 ^ f.src.val })

/-! ## JOIN (R211, R252, R580) -/

/-- JOIN_ADMIT at the device that joins: it takes part in the pool, with the steward's view of it, and the pending
mappings that came back at its restart get their outcome (R514). -/
def onJoinAdmit (e : Env) (f : Frame) (states : List (Nat × MemberState)) (missed : List (Nat × Nat)) (commits : List Nat)
    (r : Option Registry) (d : Dp) : Dp :=
  let a := seawall e .joinAdmit f true d
  if !a.2 then a.1
  else
    let d := a.1
    let old := d.sh.missed
    let mine := addNew f.pool d.sh.admitted
    let d := match r with
      | some g => if isSteward d 0 then d else takeRegistry e g d
      | none => d
    let d := { d with sh := { d.sh with
        admitted := mine
        figDue := d.sh.figDue || f.pool = 0
        steward := d.sh.steward.put f.pool f.claim.toNat
        mentioned := d.sh.mentioned.put f.pool e.now
        view := states.foldl (fun t x => t.put (viewKey f.pool x.1) x.2) d.sh.view
        missed := d.sh.missed.filter (fun m => m.1 / 16 != f.pool) ++ missed.map (fun m => (viewKey f.pool m.1, m.2)) } }
    let own := (old.filter (fun m => m.1 = viewKey f.pool e.rank && !d.sh.missed.contains m)).map Prod.snd
    let d := settleReplayed e f.pool commits (own.foldl (fun d g => tellMissed e f.pool g d) d)
    logE e 0x0F06 1 srcFirmware [f.pool] d

/-! ## Reads between devices (R579, R165 C8) -/

/-- READ_REQUEST at the holder: each block is read from its own store, or fails where its bitmap is set (R580). ARG gives the class of
the read (DESIGN CHOICE: notes/assumptions/34.md). -/
def onReadRequest (e : Env) (f : Frame) (blocks : List Nat) (d : Dp) : Dp :=
  blocks.foldl (fun d lb =>
    let fail (d : Dp) : Dp := send e .readFail 3 { header e d f.src.val f.pool with
      row := f.row, unit := f.unit, posFirst := f.posFirst, posLast := f.posLast, arg := lb } .none d
    match d.sh.reg.pool f.pool with
    | none => fail d
    | some p =>
      let l := p.layGen (p.genOf lb)
      if !(l.units f.row).contains f.unit || !clearFor d p l f.row e.rank || !admitted d f.pool then fail d
      else
        let d := d.askDram 2 0 f.pool lb false
        { d with sh := { d.sh with
          fetches := d.sh.fetches ++ [{
            pool := f.pool, gen := p.genOf lb, row := f.row, unit := f.unit, pos := f.posFirst,
            rank := e.rank, localBlk := lb, purpose := .remote f.src.val f.pool lb, sentAt := e.now, queued := false,
            again := false, tried := [], cls := (argClass f.arg).1, task := (argClass f.arg).2 }] } }) d

/-- The fetch that a reply answers. -/
def repliedFetch (d : Dp) (f : Frame) : Option Fetch :=
  d.sh.fetches.find? (fun x => x.queued && x.rank = f.src.val && x.pool = f.pool && x.localBlk = f.arg)

/-- READ_DATA at the head: the unit arrives, through C8 (R165). -/
def onReadData (e : Env) (f : Frame) (b : Blk) (d : Dp) : Dp :=
  match repliedFetch d f with
  | none => d
  | some x =>
    let empty : Bool := if x.unit < 14 then tagApp b.tag = noDataApp else (parityUnit (some b)).all (· = 0)
    if empty then giveUnit e x none f.seqn (d.dropFetch x) else deliverUnit e x (some b) f.seqn (d.dropFetch x)

/-- READ_FAIL at the head. -/
def onReadFail (e : Env) (f : Frame) (d : Dp) : Dp :=
  match repliedFetch d f with
  | none => d
  | some x => loseUnit e x (d.dropFetch x)

/-! ## Sherds (R165, R167, R249) -/

/-- SHERD_DATA at a member. A probe sherd of a drill is taken and holds nothing. -/
def onSherd (e : Env) (f : Frame) (b : Blk) (d : Dp) : Dp := if f.pool = drillHandle then d else takeSherd e f b d

/-- SHERD_REFUSED at the head: the sherd is sent again, up to two more times (R167). -/
def onRefused (e : Env) (f : Frame) (d : Dp) : Dp :=
  match headTicket d f.pool f.seqn, d.sh.reg.pool f.pool with
  | some t, some p =>
    let k := f.src.val * 16 + f.unit
    let n := t.refused.get 0 k
    if t.stage != .sent || 2 ≤ n then d
    else
      let d := d.onHticket t.id (fun t => { t with refused := t.refused.put k (n + 1) })
      (t.units.filter (fun u => u.unit = f.unit)).foldl (fun d u => sendSherd e (p.layGen t.gen) t f.src.val u d) d
  | _, _ => d

/-! ## CONTROL frames -/

/-- A change of the steward's view (R580), or a report to the steward. -/
def onView (e : Env) (f : Frame) (v : ViewRec) (d : Dp) : Dp :=
  if !admitted d f.pool then d
  else if isSteward d f.pool then
    match v with
    | .resyncDone r g => if r = f.src.val then regionDone e f.pool r g f.arg d else d
    | .missed r g => if r = f.src.val then appendNew e .missed f.pool (regionArg r g) d else d
    | _ => d
  else if f.claim < d.claimOf f.pool || rankOf f.claim != f.src.val then d
  else
    let d := takeView e f.pool v d
    match v with
    | .missed r g =>
      if r = e.rank then { d with sh := { d.sh with
          resyncing := d.sh.resyncing.filter (fun x => !(x.1 = f.pool && x.2.1 = g)) } } else d
    | .resyncDone r g =>
      if r = e.rank then { d with sh := { d.sh with
          resyncing := d.sh.resyncing.filter (fun x => !(x.1 = f.pool && x.2.1 = g)) } } else d
    | _ => d

/-- An order that reaches this device: the registry steward sequences it; what the registry steward gives on is carried
out (R395, R442). -/
def onOrder (e : Env) (f : Frame) (o : Order) (d : Dp) : Dp :=
  if isSteward d 0 then takeOrder e o d
  else if stewardRank d 0 != some f.src.val then d
  else if o.opcode = 0x0604 then
    (if fieldAt o.payload 0 1 = e.rank then { d with mb := { d.mb with sanDue := d.mb.sanDue ++ [o] } } else d)
  else if (o.opcode = 0x0710 || o.opcode = 0x0712 || o.opcode = 0x0713) && isSteward d (orderPool o) then carryOut e o d
  else d

/-- The messages of forwarded administration. -/
def onMsg (e : Env) (f : Frame) (m : OrderMsg) (d : Dp) : Dp :=
  match m with
  | .order o => onOrder e f o d
  | .answer o st det pl =>
    let d := { d with sh := { d.sh with delegated := d.sh.delegated.filter (fun x => !sameOrder x.1 o) } }
    if o.rank = e.rank then answerOrder e o st det pl d else d
  | .loss x gone =>
    let d := d.onErrlog (if gone then errRemove x.pool x.lba x.blocks [] else errAdd x)
    if gone then d else cause e evErrorLog d
  | .drop h q why =>
    match d.sticket h q with
    | some t => if isSteward d h && t.head = f.src.val then dropWhole e why t d else d
    | none => d
  | .drained h =>
    if isSteward d 0 then { d with sh := { d.sh with drained := addNew (h, f.src.val) d.sh.drained } } else d
  | .ask o h lba => send e .control 3 (header e d f.src.val 0) (.order (.mapped o (mapsAbove e d h lba))) d
  | .mapped o found => pollAnswer e o f.src.val found d
  | .drillDone c acc no => finishDrill e c acc no d
  | .figures dram prov low => takeFigures e f.src.val dram prov low d
  | .room full => { d with sh := { d.sh with
      fullRanks := if full then addNew f.src.val d.sh.fullRanks else d.sh.fullRanks.filter (· != f.src.val) } }
  | .anchored l => { d with sh := { d.sh with needs := l.foldl (fun t x => t.put (viewKey x.1 f.src.val) x.2) d.sh.needs } }
  | .worn =>
    let now := (memberPending d f.pool f.src.val).getD (stateCode (memberState d f.pool f.src.val))
    if isSteward d f.pool && (now = 0 || now = 2) then
      appendNew e .member f.pool (memberArg f.src.val .absent) d
    else d

/-- A CONTROL frame. -/
def onControl (e : Env) (f : Frame) (b : FrameBody) (d : Dp) : Dp :=
  match b with
  | .claimAck => claimAck e f.pool f.src.val (BitVec.ofNat 32 f.arg) d
  | .view v => onView e f v d
  | .demand n => takeDemand e f.pool f.src.val n d
  | .request n => takeRequest e f.pool f.src.val n d
  | .grant n => takeGrant e f.pool f.src.val n d
  | .rate n => takeRate e f.pool n d
  | .anchor => { d with sh := { d.sh with anchorAsked := true } }
  | .sdDone j r => sdTake e j f.src.val r d
  | .rebase (.propose c) => rebasePropose e c (rebaseAck e c f.src.val d)
  | .rebase (.ack c) => rebaseAck e c f.src.val d
  | .order m => onMsg e f m d
  | _ => d

/-! ## Delivery -/

/-- A frame that is delivered has its effect, by its type and payload (Table 8-5). -/
def deliver (e : Env) (x : FrameType × Frame × FrameBody) (d : Dp) : Dp :=
  let f := x.2.1
  match x.1, x.2.2 with
  | .heartbeat, .roles boot session flags l => onHeartbeat e f boot session flags l d
  | .claim, _ => onClaim e f d
  | .fenced, _ => onFenced e f d
  | .relinquish, _ => onRelinquish e f d
  | .handover, _ => onHandover e f d
  | .ringExit, _ => takeOut e (f.arg % 16) d
  | .ticketRequest, .ticket m flags key size cover => onTicketRequest e f m flags key size cover d
  | .ticketGrant, _ => guarded e .ticketGrant f true (onTicketGrant e f) d
  | .commitNotice, .registry r => guarded e .commitNotice f true (onCommit e f r) d
  | .dropNotice, _ => guarded e .dropNotice f true (onDrop e f) d
  | .mirrorGroup, .records l => guarded e .mirrorGroup f true (onMirror e f l) d
  | .mirrorAck, _ => onMirrorAck e f d
  | .resolve, _ => guarded e .resolve f true (onResolve e f) d
  | .resolveReply, .resolve items commits => onResolveReply e f items commits d
  | .sherdDone, _ => onSherdDone f d
  | .joinRequest, .join serial boot seqn =>
    holdJoin (f.pool, if f.pool = noPool then f.src.val else f.arg % 16, serial, boot, seqn) d
  | .joinAdmit, .admission states missed commits r => onJoinAdmit e f states missed commits r d
  | .readRequest, .blocks l => onReadRequest e f l d
  | .control, b => onControl e f b d
  | .sherdRefused, _ => onRefused e f d
  | .readFail, _ => onReadFail e f d
  | .sherdData, .blk b => guarded e .sherdData f false (onSherd e f b) d
  | .readData, .blk b => onReadData e f b d
  | _, _ => d

/-- A frame arrives, and everything it makes deliverable has its effect in order. -/
def onFrame (t : FrameType) (bulk : Nat) (f : Frame) (b : FrameBody) (s : State) : State :=
  ((if 1 ≤ t.cls bulk then s.stayAwake else s).onDp (fun e d =>
    let a := arrive e t bulk f b d
    a.2.foldl (fun d x => deliver e x d) a.1)).work

end Sys2Proof.Machine
end

