-- ==== Sys2Proof/Machine/Engines.lean ====
section
/-! DEFINITION. Engines and Saggar's sources (chapters 5, 13, 17): encoder checks (C5), engine faults and fences (R538, R539), the
entropy source and the DRBG (R427 to R429), the lanes' mask generators (R437), and the gating of held blocks (Table 13-9). -/

namespace Sys2Proof.Machine

/-! ## Faults and fences (R538, R539) -/

/-- An engine that nothing has befallen. -/
def EngineSt.fresh : EngineSt := { fenced := false, last := none }

/-- An engine faults: its work is repeated on another, and a second fault within 1 s fences it. The Bool says that it is fenced by
this fault. -/
def strike (now : Nat) (x : EngineSt) : EngineSt × Bool :=
  let again := x.last.any (fun t => now ≤ t + second)
  ({ fenced := x.fenced || again, last := some now }, again && !x.fenced)

/-- A decoder, Glaze lane or Sherd engine of a kind. -/
def engines (k : Engine) (x : Sec) : Tab EngineSt :=
  match k with
  | .decoder => x.decoders
  | .glazeLane => x.glaze
  | .sherd => x.sherd

def setEngines (k : Engine) (t : Tab EngineSt) (x : Sec) : Sec :=
  match k with
  | .decoder => { x with decoders := t }
  | .glazeLane => { x with glaze := t }
  | .sherd => { x with sherd := t }

/-- Fence events (Table 17-7) and fault counters (Table 17-8) by kind. -/
def fenceCode : Engine → Nat
  | .decoder => 0x0505
  | .glazeLane => 0x0A05
  | .sherd => 0x0604

def faultCount : Engine → Dp → Dp
  | .decoder => count 5 16 1
  | .glazeLane => count 10 3 1
  | .sherd => count 6 6 1

/-- An engine's fault; a fenced engine does no work. -/
def faultEngine (k : Engine) (n : Nat) (s : State) : State :=
  let x := (engines k s.sec).get EngineSt.fresh n
  if x.fenced then s
  else
    let y := strike s.clk.time x
    let s := { s with sec := setEngines k ((engines k s.sec).put n y.1) s.sec }
    let s := s.onDp (fun _ => faultCount k)
    if y.2 then s.log (fenceCode k) 4 srcFirmware [n, 0] else s

/-- ENGINE_FAULT (R539). -/
def execEngineFault (k : Engine) (n : Nat) (s : State) : Host.Outcome State Fault Refusal := .next (faultEngine k n s)

/-- ENGINE_KNOWN_ANSWER_TEST (R539): a wrong answer is a fault. -/
def execEngineKnownAnswerTest (n : Fin 8) (good : Bool) (s : State) : Host.Outcome State Fault Refusal :=
  .next (if good then s else faultEngine .sherd n.val s)

/-- ENCODER_CHECK_FAIL (C5): counted against this member; a second failure within 1 s fences the encoder. -/
def execEncoderCheckFail (encoder : Fin 20) (s : State) : Host.Outcome State Fault Refusal :=
  let x := s.sec.encoders.get EngineSt.fresh encoder.val
  if x.fenced then .next s
  else
    let y := strike s.clk.time x
    let s := { s with sec := { s.sec with encoders := s.sec.encoders.put encoder.val y.1 } }
    let s := s.onDp (fun e => checkFail e 5 e.rank)
    .next (if y.2 then s.log 0x0506 4 srcFirmware [encoder.val, 0] else s)

/-! ## Entropy and the DRBG (R427 to R429) -/

/-- The entropy source and Saggar are powered. -/
def saggarOn (s : State) : Bool := !s.pwr.porHeld && s.pwr.state != .ebb

/-- ENTROPY_WINDOW (R427, R429): the third bad window in a row is ENTROPY_FAIL; after 16 good ones the DRBG reseeds at once. -/
def execEntropyWindow (good : Bool) (s : State) : Host.Outcome State Fault Refusal :=
  if !saggarOn s || blockOff .entropy s then .next s
  else if good then
    let s := { s with sec := { s.sec with badRun := 0, goodRun := s.sec.goodRun + 1 } }
    if s.sec.entropyFailed && 16 ≤ s.sec.goodRun then
      .next (({ s with sec := { s.sec with entropyFailed := false, reseedAt := s.clk.time } }).log 0x0B02 2 srcSaggar [])
    else .next s
  else
    let s := { s with sec := { s.sec with badRun := s.sec.badRun + 1, goodRun := 0 } }
    let s := s.onDp (fun _ => count 11 0 1)
    if s.sec.badRun = 3 && !s.sec.entropyFailed then
      .next (({ s with sec := { s.sec with entropyFailed := true } }).log 0x0B01 5 srcSaggar [])
    else .next s

/-- DRBG_RESEED_TIMER (R7, R428): at any time up to 1 s after the previous reseed, from a source that works. -/
def execDrbgReseedTimer (s : State) : Host.Outcome State Fault Refusal :=
  if saggarOn s && !s.sec.entropyFailed then
    .next { s with sec := { s.sec with reseedAt := s.clk.time } }
  else .next s

/-! ## Mask generators and gating (R437, Table 13-9) -/

/-- A lane's mask generator takes a key from the DRBG. -/
def keyLane (n : Nat) (s : State) : State :=
  let k := Config.random s.dp.io.fresh % 2 ^ 128
  ({ s with sec := { s.sec with maskKeys := s.sec.maskKeys.put n k } }).onDp (fun _ d => (draw d).2)

/-- LANE_REKEY (R437, R539): every 2^20 blocks of the lane; a wrong known answer is a fault of the lane. -/
def execLaneRekey (lane : Fin 20) (good : Bool) (s : State) : Host.Outcome State Fault Refusal :=
  if !saggarOn s || blockOff (.lane lane) s || (s.sec.glaze.get EngineSt.fresh lane.val).fenced then .next s
  else
    let s := keyLane lane.val s
    .next (if good then s else faultEngine .glazeLane lane.val s)

/-- A block's secrets are zeroised, its hold ends, and it is gated (Table 13-9 steps 3 and 4). -/
def gateBlock (b : HeldBlock) (s : State) : State :=
  let x := s.sec
  let x := { x with holds := x.holds.filter (fun h => h.1 != b), gated := addNew b x.gated }
  { s with sec := match b with
      | .lane n => { x with maskKeys := x.maskKeys.erase n.val }
      | .keyCache => { x with cache := [] }
      | .entropy => x }

/-- What the return of a gated block does: a lane's mask generator is keyed. -/
def ungate (b : HeldBlock) (s : State) : State :=
  match b with
  | .lane n => keyLane n.val s
  | _ => s

/-- Gated blocks return; each lane's mask generator is keyed at its ungating (R437), and the entropy source starts its test
(R427). -/
def ungateAll (s : State) : State :=
  s.sec.gated.foldl (fun s b => ungate b s) { s with sec := { s.sec with gated := [] } }

/-- The lanes that a start brings up. -/
def keyLanes (s : State) : State := (List.range 20).foldl (fun s n => keyLane n s) s

end Sys2Proof.Machine
end

