-- ==== Sys2Proof/Machine/LastTide.lean ====
section
/-! DEFINITION. Last Tide (R509 to R515): its start, what it writes, and what of the core is lost when it ends or the supply
goes. -/

namespace Sys2Proof.Machine

/-! ## Power states (R505) -/

/-- The device changes its power state (STATE_CHANGE); leaving Flood disarms every injection (R182). -/
def enterState (p : PState) (s : State) : State :=
  if s.pwr.state = p then s
  else
    let old := s.pwr.state
    let s := if old = .flood then disarmAll s else s
    ({ s with pwr := { s.pwr with state := p } }).log 0x0E01 1 srcAlwaysOn [old.code, p.code]

/-! ## The start of Last Tide (Table 15-10 steps 1 to 3) -/

/-- Triggers by severity, the most severe first (Table 15-8). -/
def Trigger.code : Trigger → Nat
  | .vin => 0
  | .hsVsup => 1
  | .plp => 2
  | .thermal => 3
  | .coreRst => 4
  | .watchdog => 5
  | .memory => 6
  | .activate => 7

/-- Last Tide has state to carry: the device was READY, and is neither in safe mode (R536) nor fatal (R541). -/
def tideWrites (s : State) : Bool := s.boot.ready && !s.boot.safe && !s.boot.fatal

/-- The rows whose erase a die has cut short. -/
def cutErases (l : List DieOp) : List Nat :=
  l.filterMap (fun o => match o.kind with
    | .erase r => some r
    | _ => none)

/-- What a die holds when Last Tide starts (R101): an erase in progress or suspended is ended with Reset LUN and listed, a
suspended program resumes. -/
def tideDie (e : Env) (c n : Nat) (d : Dp) : Dp :=
  let x := d.die c n
  let cut := cutErases (x.running.toList.map Running.op ++ x.suspended.toList.map Suspended.op)
  if !cut.isEmpty then
    put (.die c n .resetLun) (d.setDie c n { x with
      running := none, suspended := none, eraseDue := x.eraseDue ++ cut })
  else match x.suspended, x.running with
    | some y, none =>
      let r : Running := { op := y.op, since := e.now, suspends := y.suspends, rest := [], dataIn := 0, out := false }
      put (.die c n .resume) (d.setDie c n { x with running := some r, suspended := none })
    | _, _ => d

/-- Change every die that is known. -/
def eachDie (f : Nat → Nat → Dp → Dp) (d : Dp) : Dp :=
  (d.kiln.dies.map Prod.fst).foldl (fun d k => f (k / 16) (k % 16) d) d

/-- An erase that bank 0 of Bedrock runs is suspended for the anchor (R512). -/
def tideBedrock (s : State) : State :=
  let b := s.bed.bank0
  match b.op with
  | some o => if o.erase then s.setBank 0 { b with op := none, held := some { o with since := s.clk.time } } else s
  | none => s

/-! ## What Last Tide writes (steps 4 and 5, R513) -/

/-- The greenware a flush carries: whole sherds that are not yet on the medium. -/
def flushGreens (d : Dp) : List Green :=
  d.map.green.filter (fun g => g.full && !g.verified && !g.empty && !g.unmaps)

/-- The newest 2,048 records of the ring. -/
def logTail (l : List LogRec) : List LogRec := l.drop (l.length - 2048)

/-- The delta records that are not on the map strand: the map-delta tail (R75). -/
def deltaTail (d : Dp) : List Delta := d.map.deltas.filter (fun x => !deltaSafe d x.num)

/-- The generation that Last Tide writes: journal tails first, then the map-delta tail, the Strandline tail and the greenware in
list order. -/
def tideGen (s : State) (nonce : Nat) : LtGen :=
  let d := s.dp
  let roles := d.sh.roles.filter (fun (x : PRole) => x.role != .none)
  { gen := d.med.nextGen, boot := s.clk.boot,
    journals := roles.map (fun (x : PRole) => (x.pool, x.role = .steward, x.tail)),
    log := logTail d.io.ring, greens := flushGreens d, deltas := deltaTail d, nonce := nonce, closed := false }

/-- What is left of a generation whose writing stopped: `written` counts what was complete, 1 to 3 the tails, and then each greenware
block (R513). -/
def cutGen (written : Nat) (g : LtGen) : LtGen :=
  { g with
    journals := if 1 ≤ written then g.journals else []
    deltas := if 2 ≤ written then g.deltas else []
    log := if 3 ≤ written then g.log else []
    greens := g.greens.take (written - 3) }

/-- The 64 bytes of a Strandline record (Table 17-4), as the area keeps it. -/
def logRecBytes (r : LogRec) : List Byte :=
  leBytes 2 r.code ++ leBytes 1 r.sev ++ leBytes 1 r.source ++ leBytes 8 r.time ++ leBytes 4 r.seqn ++ leBytes 16 r.args.toNat

/-- The blocks of the tails, 4 KiB each. -/
def tailBlocks (d : Dp) (g : LtGen) : List (List Byte) :=
  let cut (l : List Byte) : List (List Byte) := chunks blkBytes (l.length / blkBytes + 1) l
  g.journals.flatMap (fun x => cut (x.2.2.flatMap jrecBytes)) ++
    cut ((g.deltas.map (fun x => itemBytes d (.deltas x.num (x.num + 1)))).flatMap (fun l => l.take deltaSize)) ++
    cut (g.log.flatMap logRecBytes)

/-- The generation is staged for the area under class P0, every block sealed under the next counter value (R434, R511). -/
def writeGen (s : State) : State :=
  if !tideWrites s then s
  else s.onDp (fun e d =>
    let n := d.med.nonce
    let tails := tailBlocks d (tideGen s 0)
    let g := tideGen s (n + tails.length)
    let sys (i : Nat) (b : List Byte) : Codeword :=
      { pool := 0, localBlk := 0, kind := 4, addr := 0, seqn := 0,
        body := sealBlk e.atRest e.keyGen (n + i) (backPtr 0 4 0) ⟨bytesAt b 0 blkBytes, 0⟩, written := true, verified := false,
        src := none }
    let cws := tails.mapIdx sys ++ g.greens.mapIdx (fun i x => greenCw e d x (g.nonce + i))
    let d := count 10 0 cws.length { d with med := { d.med with
      ltGen := some g, nextGen := d.med.nextGen + 1, ltUsed := true, nonce := n + cws.length } }
    issuePrograms e (stageCws e .lastTide ⟨0, .other⟩ cws d).1)

/-- Last Tide starts (R509, R511, R512): LT_START, the ring is left, requests of mailboxes are abandoned, a sag test ends with
the gate off, holds are overridden, and the dies run class P0 alone. -/
def startTide (t : Trigger) (s : State) : State :=
  let s := s.onDp leaveRing
  let s := enterState .lastTide s
  let s := { s with
    pwr := { s.pwr with
      lt := some s.clk.time, triggers := [t], entering := none, sag := none,
      gateOn := s.pwr.gateOn && s.pwr.sag.isNone }
    sec := { s.sec with holds := [] } }
  let s := s.log 0x0E07 5 srcAlwaysOn [t.code]
  let s := s.onDp (fun e d =>
    let d := { d with mb := { d.mb with
        boxes := d.mb.boxes.map (fun (x : Mail) => { x with request := none }) } }
    let d := if greenBytes d = 0 then d else d.askPad .wstage 14 (greenBytes d)
    count 14 0 1 (eachDie (tideDie e) d))
  let s := writeGen s
  tideBedrock (s.onDp (fun e => eachDie (fun c n => startDie e c n)))

/-- A trigger of Table 15-8 (R509): it starts Last Tide, or counts towards the outcome of the one that runs. Where the core is
gated, held or already stopped there is nothing to start (R534). -/
def tideTrigger (t : Trigger) (s : State) : State :=
  let p := s.pwr
  if p.porHeld || p.state = .ebb || p.waiting || p.coreHeld then s
  else if p.lt.isSome then { s with pwr := { p with triggers := addNew t p.triggers } }
  else startTide t s

/-- A trigger that ends in a core start for a fault (R541): with two such starts in the last 10 min the device is fatal, and
runs no Last Tide. -/
def faultTrigger (t : Trigger) (s : State) : State :=
  let recent := s.pwr.faultStarts.filter (fun x => s.clk.time < x + 600 * second)
  if s.pwr.lt.isNone && 2 ≤ recent.length then deviceFatal 2 s else tideTrigger t s

/-! ## The end of Last Tide (steps 3 and 6) -/

/-- Programs that a die runs or has suspended complete, and those of class P0 with them. -/
def endPrograms (e : Env) (c n : Nat) (d : Dp) : Dp :=
  let x := d.die c n
  let ops := x.running.toList.map Running.op ++ x.suspended.toList.map Suspended.op ++ x.queue.filter (fun o => o.cls = 0)
  ops.foldl (fun d o =>
    match o.kind with
    | .program r ps => ps.foldl (fun d q => verifyPage e r q d) d
    | _ => d) (d.setDie c n { x with running := none, suspended := none, queue := x.queue.filter (fun o => o.cls != 0) })

/-- The open stripes of the area are closed with fill, and all of it is on flash. -/
def closeArea (e : Env) (d : Dp) : Dp :=
  let rows := d.med.rows.filter (fun r => r.use = .lastTide && !r.cws.isEmpty)
  let d := rows.foldl (fun d r => closeStripe e r.id d) d
  rows.foldl (fun d r => d.onRow r.id (fun r => { r with
    ready := [], full := true, cws := r.cws.map (fun (c : Codeword) => { c with verified := true }) })) d

/-- The Last Tide anchor (R458): it carries the state of the end, over the map checkpoint of the anchor before. -/
def tideAnchor (s : State) : State :=
  if !tideWrites s then s
  else
    let k := s.dp.map.ckpts.head?
    let a := anchorNow s false (k.elim 0 Ckpt.num) (k.elim 0 Ckpt.first)
    { s with bed := { s.bed with
        anchors := (a :: s.bed.anchors).take wheelKeeps, writing := none, again := false, next := s.bed.next + 1,
        erasedSectors := s.bed.erasedSectors - 1 } }

/-! ## What is lost with the core

`ebb` keeps what the retained banks and the always-on domain keep through Ebb (R489, R516, R547). -/

/-- A role after the core: the journal copy that stands on the strand (R206). -/
def strandRole (x : PRole) : PRole :=
  { x with
    role := .none, claim := 0, standby := none, appoint := none, group := [], sent := [], tail := [],
    journal := x.journal.filter (fun r => !x.tail.contains r), stopped := false, handover := none, resolving := none,
    contest := none, held := [], healthy := none, restored := true }

/-- Shoal state after the core: the registry, the journal copies and the bitmaps on the strands, the always-on shadow. -/
def clearShoal (ebb : Bool) (h : Shoal) : Shoal :=
  { Shoal.reset with
    reg := h.reg, regNext := h.reg, roles := h.roles.map strandRole,
    sea := if ebb then h.sea else [],
    shadow := h.sea.foldl (fun t x => if t.get 0 x.1 < x.2.claim.toNat then t.put x.1 x.2.claim.toNat else t) h.shadow,
    view := h.view, missed := h.missed, lostBlks := h.lostBlks, nextId := h.nextId, patrolled := h.patrolled,
    passAt := h.passAt, epochHigh := h.epochHigh, sdTargets := h.sdTargets, roSeen := h.roSeen }

/-- The log after the core: the ring stays through Ebb; else numbering goes on from the block after the last recorded (R548),
and the records that no Last Tide carries are gone. -/
def clearIo (ebb : Bool) (kept : List LogRec) (i : Io) : Io :=
  if ebb then i
  else { i with
    ring := [], nextSeq := i.seqEnd % 2 ^ 32, critAt := none,
    alert := i.alert.filter (fun q => kept.any (fun r => r.seqn = q)) }

/-- The map after the core: what the strands hold, and the sherds on the medium. Entries come back by replay (R75). -/
def clearMap (d : Dp) : MapEng :=
  let m := d.map
  let deltas := m.deltas.filter (fun x => deltaSafe d x.num)
  { MapEng.reset with
    green := (m.green.filter (fun g => g.verified && g.reported)).map (fun (g : Green) => { g with committed := false, replayed := true })
    deltas := deltas, nextDelta := m.nextDelta, unstaged := m.nextDelta, ckpts := m.ckpts
    strand := m.strand.filter (strandOk d) }

/-- Pages of a row whose programs a loss has cut short, or that were still staged: its codewords not verified, and its XOR pages that
no program has put on the medium. -/
def cutPages (d : Dp) (r : Row) : List Nat :=
  let of_ (k : OpKind) : List Nat := match k with
    | .program id ps => if id = r.id then ps else []
    | _ => []
  let ops := d.kiln.dies.flatMap (fun x => (opsOf x.2).flatMap of_)
  (((List.range r.cws.length).filter (fun i => (r.cws[i]?).any (fun (c : Codeword) => !c.verified))).map (· / 4) ++
    r.ready.map ReadyPage.page ++ ops).eraseDups

/-- A row after the core: its running XORs, staged pages and relocation are gone (R129), counts and offsets are those of the last
checkpoint (R135). -/
def clearRow (d : Dp) (r : Row) : Row :=
  let dead := (r.dead ++ cutPages d r).eraseDups
  { r with
    moving := none, ready := [], passed := [], dead := dead, reads := r.readsKept, offsets := r.offsetsKept
    xors := r.xors.filter (fun x => stripeClosed r (x.1 * (r.width - 1)) && !dead.contains (xorBase + x.1))
    cws := r.cws.map (fun (c : Codeword) => if c.verified then c else { c with src := none }) }

def clearMedia (d : Dp) : Media :=
  { d.med with
    folding := false, idleFold := false, gc := .off, moving := false, staticRow := none, wornTold := [], wear := d.med.wearKept,
    rows := d.med.rows.map (clearRow d) }

/-- Kiln after the core: through Ebb it keeps its training, else nothing but its fences. -/
def clearKiln (ebb : Bool) (k : Kiln) : Kiln :=
  if ebb then { k with
    floating := true
    dies := k.dies.map (fun x => (x.1, { x.2 with queue := [], running := none, suspended := none, cut := none, busy := [], lastP1 := none }))
    jobs := [] }
  else k.restart

/-- The data path after the core. -/
def clearDp (ebb : Bool) (now : Nat) (d : Dp) : Dp :=
  let kept := d.med.ltGen.elim [] LtGen.log
  { io := clearIo ebb kept d.io,
    hp := { a := HostPort.reset d.hp.a.fitted, b := HostPort.reset d.hp.b.fitted, perst := d.hp.perst },
    vq := Dp.reset.vq,
    mb := { Dp.reset.mb with eid := if ebb then d.mb.eid else 0 },
    sh := clearShoal ebb d.sh,
    ring := { Ring.reset with
      session := if ebb then d.ring.session else 0
      n := d.ring.n
      version := d.ring.version },
    lane := { Lane.reset with stuck := d.lane.stuck, highAt := now, lastCheck := now },
    map := clearMap d, med := clearMedia d, kiln := clearKiln ebb d.kiln,
    bw := { Bw.reset with holdupLow := ebb && d.bw.holdupLow }, mem := Traffic.reset }

/-- DRAM contents are lost (R480); Ebb keeps the training results in SB29. -/
def clearDram (ebb : Bool) (m : Dram) : Dram :=
  if ebb then { m with chans := m.chans.map (fun (x : Nat × DChan) => (x.1, { x.2 with
    banks := [], openRows := [], selfRefresh := false, resetLow := true })) }
  else { chans := tabOf 4 (fun _ => DChan.reset), rate := 3200 }

/-- A bank in Ebb (R489). -/
def ebbPad (n : Nat) (x : Pad) : Pad :=
  let owner := if x.st = .offline then x.owner else padOwner n
  { x with
    owner := owner, moving := none, freeAt := none, recent := 0
    st := if x.st = .offline then .offline
      else if n < 12 || n = 29 || n = 31 then .retention else .gated }

/-- The scratchpad after the core. -/
def clearPads (ebb : Bool) (p : Pads) : Pads :=
  if ebb then { p with banks := p.banks.map (fun x => (x.1, ebbPad x.1 x.2)) }
  else { banks := tabOf 32 Pad.reset, neapExit := none }

/-- Diagnostic state after the core: arms are disarmed (R182), DRAM windows are gone, and the scratchpad window stays through
Ebb; the diagnostic row is on the medium. -/
def clearInteg (ebb : Bool) (i : Integ) : Integ :=
  { i with
    arms := i.arms.map (fun (a : Arm) => if a.st = .armed then { a with st := .disarmed } else a)
    dramWin := [], dramBad := [], padWin := if ebb then i.padWin else [], padBad := if ebb then i.padBad else [] }

/-- Tidegauge after the core (R411, R415): the shipped settings, under the setpoints that parameters bind; through Ebb the trace
buffers stay (R489). -/
def clearTide (ebb : Bool) (t : Tide) : Tide :=
  if ebb then { t with
    loops := t.loops.map (fun (x : Nat × Loop) => (x.1, { Loop.shipped x.1 with
      setpoint := if 3 ≤ x.1 && x.1 ≤ 11 then x.2.setpoint else (Loop.shipped x.1).setpoint }))
    zones := [] }
  else State.reset.tide

/-- Saggar after the core (R432, R443): volatile slots are zeroised; through Ebb persistent slots, measurements and identity
stay. Fenced engines stay fenced (R540). -/
def clearSec (ebb : Bool) (x : Sec) : Sec :=
  let x := { x with
    cache := [], maskKeys := [], holds := [], gated := [], clearing := [], spdmA := SpdmSt.reset, spdmB := SpdmSt.reset,
    spdmM := SpdmSt.reset }
  if ebb then { x with slots := x.slots.filter (fun k => k.2.persist) }
  else { x with
    slots := [], meas := List.replicate 8 0, identity := false, badRun := 0, goodRun := 0 }

/-- Greenware of committed tickets that no Last Tide carries is lost: its blocks are marked, and their regions are missed by this
rank (R513). -/
def loseGreens (e : Env) (d : Dp) : Dp :=
  let same (a b : Green) : Bool := a.pool = b.pool && a.localBlk = b.localBlk && a.seqn = b.seqn
  let carried (g : Green) : Bool := d.med.ltGen.any (fun x => x.greens.any (same g))
  ((flushGreens d).filter (fun g => g.committed && !carried g)).foldl (fun d g => markLost e g d) d

/-- Where a current block's delta record reached neither the strand nor the area, its data is not found again: it is lost here (R513). -/
def loseDeltas (e : Env) (d : Dp) : Dp :=
  let carried (x : Delta) : Bool := deltaSafe d x.num || d.med.ltGen.any (fun g => g.deltas.contains x)
  let current (x : Delta) : Bool := x.kind != .freed && (d.entry x.pool x.localBlk = x.loc ||
    d.map.green.any (fun g => g.committed && g.pool = x.pool && g.localBlk = x.localBlk && g.seqn = x.seqn))
  let row (x : Delta) : Nat := ((d.sh.reg.pool x.pool).bind (fun p =>
    (p.layGen (p.genOf x.localBlk)).ofLocal e.rank x.localBlk)).elim 0 Place.row
  (d.map.deltas.filter (fun x => current x && !carried x)).foldl (fun d x => markBlk e x.pool x.localBlk (row x) x.seqn d) d

/-- The core is gone: what it held that no strand, Bedrock, retained bank or always-on circuit keeps is lost. -/
def clearCore (ebb : Bool) (s : State) : State :=
  let s := (s.onDp loseGreens).onDp loseDeltas
  let s := { s with
    dp := clearDp ebb s.clk.time s.dp
    dram := clearDram ebb s.dram
    pads := clearPads ebb s.pads
    integ := clearInteg ebb s.integ
    tide := clearTide ebb s.tide
    sec := clearSec ebb s.sec
    bed := { s.bed with
      due := [], again := false, bank0 := { s.bed.bank0 with reads := 0 }, bank1 := { s.bed.bank1 with reads := 0 } }
    pwr := { s.pwr with entering := none, sag := none }
    boot := { s.boot with
      fw := false, ready := false, recovered := false, readyAt := 0, settled := false, railWait := false,
      safe := ebb && s.boot.safe, unclean := false, spdm := ebb && s.boot.spdm } }
  s

/-- Last Tide ends: whole, or with what was complete (R513). -/
def lastTideEnds (written : Option Nat) (s : State) : State :=
  match written with
  | none => if tideWrites s then
      (s.onDp (fun e d => closeArea e (eachDie (endPrograms e) d))).onDp (fun _ d =>
        { d with med := { d.med with ltGen := d.med.ltGen.map (fun (g : LtGen) => { g with closed := true }) } })
    else s
  | some n => s.onDp (fun _ d => { d with med := { d.med with ltGen := d.med.ltGen.map (cutGen n) } })

end Sys2Proof.Machine
end

