-- ==== Sys2Proof/Machine/Start.lean ====
section
/-! DEFINITION. Start-up (chapter 16): the ROM's choice of an image (R463, R464), a core start (R522, R531), the
firmware-running point (R527), recovery (R75, R147, R248, R514) and READY (R528, R532). -/

namespace Sys2Proof.Machine

/-! ## The ROM (Table 13-5) -/

/-- What the ROM boots: the slot, the boot record it leaves, whether that is another slot than the record named, and whether
the tries had run out (R463, R464). -/
structure Chosen where
  slot : Nat
  keep : BootRec
  other : Bool
  spent : Bool
deriving DecidableEq, Repr

/-- The ROM's choice; none where neither image can be booted (R444). -/
def chooseImage (f : StartFacts) (s : State) : Option Chosen :=
  let b := s.bed.boot
  let spent := b.trial && b.tries = 0
  let b' : BootRec :=
    if spent then { slot := 1 - b.slot, trial := false, tries := 0, fellBack := true }
    else if b.trial then { b with tries := b.tries - 1 } else b
  let ok (n : Nat) : Bool := (if n = 0 then f.imageAOk else f.imageBOk) && s.boot.svnFused ≤ (s.image n).svn
  if ok b'.slot then some ⟨b'.slot, b', spent, spent⟩
  else if ok (1 - b'.slot) then some ⟨1 - b'.slot, b', true, spent⟩
  else none

/-- Codes of the tests of Table 5-12, in table order (R189). -/
def selftestCodes (f : StartFacts) : List Nat :=
  [if f.saggarBad then 0x11 else 0, if f.keyBad then 0x12 else 0, if f.bedrockBad then 0x31 else 0,
   if f.tagBad then 0x21 else 0]

/-- A code of Table 16-4 with which no firmware runs. -/
def noFirmware (c : Nat) : Bool := c = 0x11 || c = 0x12 || c = 0x31 || c = 0x33

/-- Engines of one kind at POR (R540): each fenced one that passes its known-answer test returns, and the fence event says so
with bit 0. -/
def returnEngines (code : Nat) (bad : Nat → Bool) (l : Tab EngineSt) (s : State) : Tab EngineSt × State :=
  let back := l.filter (fun x => x.2.fenced && !bad x.1)
  (l.map (fun x => (x.1, ({ fenced := x.2.fenced && bad x.1, last := none } : EngineSt))),
   back.foldl (fun s x => s.log code 4 srcFirmware [x.1, 1]) s)

/-- Every kind of engine at POR. -/
def engineTests (f : StartFacts) (s : State) : State :=
  let bad (k : Engine) (n : Nat) : Bool := f.badEngines.contains (k, n)
  let a := returnEngines 0x0505 (bad .decoder) s.sec.decoders s
  let b := returnEngines 0x0506 (fun n => f.badEncoders.contains n) s.sec.encoders a.2
  let c := returnEngines 0x0A05 (bad .glazeLane) s.sec.glaze b.2
  let d := returnEngines 0x0604 (bad .sherd) s.sec.sherd c.2
  { d.2 with sec := { d.2.sec with decoders := a.1, encoders := b.1, glaze := c.1, sherd := d.1 } }

/-- The repair fuses of the scratchpad (R486): a bad movable bank is offline, any other bad bank means safe mode. -/
def repairBanks (f : StartFacts) (s : State) : State :=
  let movable_ (n : Nat) : Bool := (20 ≤ n && n < 24) || n = 26 || n = 27
  let off (n : Nat) (x : Pad) : Pad := if f.badBanks.contains n then { x with st := .offline, repairBad := true } else x
  let s := { s with pads := { s.pads with banks := s.pads.banks.map (fun x => (x.1, off x.1 x.2)) } }
  let s := (f.badBanks.filter movable_).foldl (fun s n => s.log 0x0D02 4 srcFirmware [n]) s
  if f.badBanks.any (fun n => n < 32 && !movable_ n) then safeMode 0x42 s else s

/-! ## A start of the core -/

/-- A device that left by a fatal fault has missed every region of the pools that name its rank (R542). -/
def missAll (e : Env) (d : Dp) : Dp :=
  { d with sh := { d.sh with
      missed := (d.sh.reg.pools.filter (fun (p : PoolRec) => p.ranks.contains e.rank)).foldl (fun l p =>
        (List.range (divUp p.cap 16384)).foldl (fun l g => addNew (viewKey p.handle e.rank, g) l) l) d.sh.missed } }

/-- A start takes the core back to the ROM: the boot-status block, the parameters that wait for a core reset (R391), the
setpoints that parameters bind, and the regions that a device misses that a fatal fault took out of the shoal (R542). -/
def coreReset (por rst : Bool) (s : State) : State :=
  let first := if por then 0x01 else 0x02
  let fatal := s.boot.fatal && !por && !rst
  let s := if s.boot.fatal && !fatal then s.onDp missAll else s
  let s := { s with
    pwr := { s.pwr with
      state := .starting, waiting := false, coreHeld := false, lt := none, triggers := [], wakes := [],
      idleSince := some s.clk.time, slackSince := 0 }
    boot := { s.boot with
      code := if fatal then 0x60 else first, stage := first, codeAt := s.clk.time, startAt := s.clk.time,
      fatal := fatal, safe := false, resumed := false, imageB := false, fallback := false }
    par := if por then { value := s.bed.params, pend := [] } else s.par }
  let s := if por then s else takePending 2 s
  { s with tide := (bindSetpoint 0x0E04 (s.param 0x0E04) (bindSetpoint 0x0901 (s.param 0x0901) s)).tide }

/-- The ROM's part of a core start: the session number, the START record, the self-tests and MEAS0. -/
def romStart (por : Bool) (f : StartFacts) (s : State) : State :=
  let s := { s with boot := { s.boot with selftest := selftestCodes f, tagBad := f.tagBad } }
  let s := { s with dp := { s.dp with ring := { s.dp.ring with
      session := BitVec.ofNat 32 (Config.random s.dp.io.fresh) } } }
  let s := s.onDp (fun _ d => (draw d).2)
  let s := s.onDp (fun e d => count 15 0 1 (logAt e.now 0x0F01 2 srcAlwaysOn (args64 e.boot 0) d))
  let s := if por then engineTests f s else s
  extendMeas 0 (digestBytes Config.romDigest ++ ((selftestCodes f).take 3).flatMap (leBytes 1)) s

/-- A start at which every test passes and image A checks. -/
def StartFacts.passed : StartFacts :=
  { saggarBad := false, keyBad := false, bedrockBad := false, imageAOk := true, imageBOk := false, tagBad := false, badBanks := [],
    badEngines := [], badEncoders := [], crystal := true, dramRetrain := [] }

/-- The ROM's part of the start in progress has run: `State.reset` stands before it, and takes it as one that passes (DESIGN CHOICE:
notes/assumptions/37.md). -/
def romDone (s : State) : State := if s.boot.selftest.isEmpty then romStart true StartFacts.passed s else s

/-- The ROM boots an image, or stops with the code of a failed self-test or with no image (R444, R447, R462); of several failed tests the
first in table order is reported (DESIGN CHOICE: notes/assumptions/37.md). -/
def bootImage (por : Bool) (f : StartFacts) (s : State) : State :=
  match (selftestCodes f).take 3 |>.find? (· != 0) with
    | some c => setCode c (setCode 0x02 s)
    | none =>
      match chooseImage f s with
      | none => setCode 0x33 (setCode 0x03 s)
      | some c =>
        let s := { s with
          bed := { s.bed with boot := c.keep }
          boot := { s.boot with imageB := c.slot = 1, fallback := c.other } }
        let s := if por || s.bed.boot.trial || c.spent then writeRecord .bootrec s else s
        let s := if c.spent then (s.log 0x0B08 4 srcFirmware [c.slot]).cause evFirmware else s
        let s := repairBanks f s
        let s := if s.boot.straps.safeN then s else safeMode 0x50 s
        if s.boot.safe then { s with boot := { s.boot with stage := 0x03 } } else s

/-- Every Causeway port starts its training. -/
def trainPorts (s : State) : State := cwPorts.foldl (fun s p => s.out (.link p .train)) s

/-- A start: `por` is the release of power-on reset, `rst` a core start by CORE_RST_N. What the core held is gone already. START
is the first record (R547); the self-test, the image choice and the straps then decide how it goes on (R189, R444, R536). -/
def startCore (por rst : Bool) (f : StartFacts) (s : State) : State :=
  trainPorts (bootImage por f (romStart por f (coreReset por rst s)))

/-! ## The firmware-running point (R527) -/

/-- Bring-up may begin: both rails are in range at T_K (R571). -/
def railsOk (p : Pwr) : Bool := p.vddqdOk && p.vccqfOk

/-- T_K: DRAM training starts, and unless the device is in safe mode reset wave 0 (R83, R536). -/
def bringUp (s : State) : State :=
  let s := { s with
    boot := { s.boot with railWait := false }
    dram := { s.dram with chans := s.dram.chans.map (fun (x : Nat × DChan) => (x.1, { x.2 with resetLow := false })) } }
  let s := s.onDp (fun _ d => (List.range 4).foldl (fun d i => put (.dram i (.resetN false)) d) d)
  if s.boot.safe then s else s.onDp startWave

/-- The running slot's SVN is blown into the rollback fuses once it is no longer on trial and VIN stands above V_PLP; an image
below the fused count is revoked (R465). -/
def advanceSvn (s : State) : State :=
  let n := if s.boot.imageB then 1 else 0
  let v := (s.image n).svn
  if s.bed.boot.trial || v ≤ s.boot.svnFused || 64 < v || s.pwr.vinMv ≤ s.param 0x0E03 then s
  else
    let s := (extendMeas 6 (leBytes 2 0x0B09 ++ leBytes 1 v) { s with boot := { s.boot with svnFused := v } }).out (.blowFuses v)
    let s := s.log 0x0B09 2 srcSaggar [v]
    let o := s.image (1 - n)
    if o.st = .previous && o.svn < v then s.setImage (1 - n) { o with st := .revoked } else s

/-- The leases that recovery takes: at-rest counter values go on after the lease last recorded (R434), as each persistent slot's
do (R435); the log's numbering is already past its block. -/
def takeLeases (s : State) : State :=
  let stop := (newestAnchor s.bed).elim 0 Anchor.nonceEnd
  let keys := match s.bed.keys.find 0 with
    | some k => s.bed.keys.put 0 { k with lease := stop }
    | none => s.bed.keys
  { s with
    sec := { s.sec with slots := keys, gen := s.bed.gen, reseedAt := s.clk.time }
    dp := { s.dp with med := { s.dp.med with nonce := stop } } }

/-- Straps as MEAS4 takes them (Table 13-6). -/
def strapBytes (b : Boot) : List Byte :=
  leBytes 1 b.svnFused ++ leBytes 1 b.straps.rank.val ++ leBytes 1 (b.straps.bifurc.toNat + 2 * b.straps.safeN.toNat)

/-- Measured start, steps 2 to 5 (Table 13-5, Table 13-6). -/
def measureStart (s : State) : State :=
  let i := s.image (if s.boot.imageB then 1 else 0)
  let segment (k : Byte) : List Byte := digestBytes (Config.sha384 (k :: i.bytes))
  let s := extendMeas 1 (segment 1 ++ leBytes 1 i.svn) s
  let s := extendMeas 2 (segment 2) s
  let s := extendMeas 3 (digestBytes Config.profileDigest) s
  let s := extendMeas 4 (strapBytes s.boot ++ leBytes 1 s.boot.imageB.toNat ++
    leBytes 1 (s.bed.boot.trial.toNat + 2 * s.boot.fallback.toNat)) s
  let s := extendMeas 5 (s.bed.params.flatMap (fun x => leBytes 2 x.1 ++ leBytes 4 x.2)) s
  extendMeas 4 (leBytes 1 (s.boot.selftest.getD 3 0)) s

/-- The queue engines of both ports start where their ENABLE stands (R302, R527). -/
def startEngines (s : State) : State := s.onDp (fun e d => startEngine e .b (startEngine e .a d))

/-- The gate goes off for a sag test (R498). -/
def startSag (m : Option Mbx) (s : State) : State :=
  ({ s with pwr := { s.pwr with
      gateOn := false, sag := some { since := s.clk.time, byMail := m },
      sagNext := s.clk.time + s.param 0x0E05 * 3600 * second } }).out (.gate false)

/-- VIN is too low for a sag test (R498). -/
def sagBlocked (s : State) : Bool := s.pwr.vinMv < s.param 0x0E03 + 500

/-- A test at the firmware-running point when no capacitance is kept (R499); only a low VIN delays it. -/
def firstSag (s : State) : State :=
  if s.pwr.cap.isSome then
    { s with pwr := { s.pwr with sagNext := s.clk.time + s.param 0x0E05 * 3600 * second } }
  else if sagBlocked s then { s with pwr := { s.pwr with sagNext := s.clk.time } }
  else startSag none s

/-- FIRMWARE_RUNNING (R527, R424 to R435): identity and measurements stand, the key slots are restored (R432), mailboxes and the
queue engine are served, and bring-up begins once the rails are in range. -/
def execFirmwareRunning (s : State) : Host.Outcome State Fault Refusal :=
  if s.boot.fw || s.pwr.porHeld || s.pwr.coreHeld || s.pwr.waiting || s.pwr.state != .starting ||
      noFirmware s.boot.code then .next s
  else
    let s := romDone s
    let s := { s with
      boot := { s.boot with fw := true, spdm := true }
      pwr := { s.pwr with watchAt := s.clk.time }
      sec := { s.sec with identity := true } }
    let s := measureStart (keyLanes (takeLeases s))
    let s := setCode 0x04 s
    let s := firstSag (advanceSvn (startEngines s))
    let s := if s.boot.tagBad then safeMode 0x21 s else s
    let s := setCode 0x05 s
    .next (if railsOk s.pwr then bringUp s else { s with boot := { s.boot with railWait := true } }).work

/-! ## Recovery (R75, R129, R147, R248, R514) -/

/-- The Seawall at recovery (R248, R529): each entry takes the higher of the anchor's value and the shadow's. -/
def restoreSeawall (s : State) : State :=
  let a : Tab Nat := (newestAnchor s.bed).elim [] Anchor.claims
  let sh := s.dp.sh
  let old (h : Nat) : Nat := (sh.sea.find h).elim 0 (fun x => x.claim.toNat)
  let keys := (a.map Prod.fst ++ sh.shadow.map Prod.fst).eraseDups
  let entry (h : Nat) : SeaEntry :=
    let x := a.get 0 h
    let y := sh.shadow.get 0 h
    { raisedAt := s.clk.time, claim := BitVec.ofNat 32 (max x y), source := if x < y then 1 else 3, refusals := 0 }
  let sea := keys.foldl (fun t h =>
    if old h < max (a.get 0 h) (sh.shadow.get 0 h) then t.put h (entry h) else t) sh.sea
  { s with dp := { s.dp with sh := { sh with
      sea := sea
      shadow := sea.foldl (fun t x => t.put x.1 x.2.claim.toNat) sh.shadow } } }

/-- The Strandline tail goes before the records of this start, which go on from its last sequence (R514, R548). -/
def restoreLog (tail : List LogRec) (i : Io) : Io :=
  match tail.getLast? with
  | none => i
  | some t =>
    let q (k : Nat) : Nat := (t.seqn + 1 + k) % 2 ^ 32
    let renamed := i.ring.mapIdx (fun k (r : LogRec) => { r with seqn := q k })
    let told := (i.ring.zip renamed).filter (fun x => i.alert.contains x.1.seqn)
    { i with
      ring := tail ++ renamed, nextSeq := q i.ring.length
      alert := i.alert.filter (fun n => tail.any (fun r => r.seqn = n)) ++ told.map (fun x => x.2.seqn) }

/-- The journal tails join the copies on the strand, and are still to be programmed there (R206). -/
def restoreJournals (l : List (Nat × Bool × List JRec)) (d : Dp) : Dp :=
  l.foldl (fun d x => d.setRole { d.roleD x.1 with
    journal := (d.roleD x.1).journal ++ x.2.2, tail := (d.roleD x.1).tail ++ x.2.2 }) d

/-- Each greenware block of the generation is programmed into bisque as a pending sherd of its ticket, under the seal it has (R514 step
3); what stands on the medium already is left out. -/
def replayGreens (e : Env) (g : LtGen) (d : Dp) : Dp :=
  let held (x : Green) : Bool := d.map.green.any (sameGreen x) || x.seqn ≤ entrySeq d x.pool x.localBlk
  let todo := g.greens.zipIdx.filter (fun x => !held x.1)
  let gs := todo.map (fun x => { x.1 with
    loc := none, verified := false, reported := false, replayed := true, committed := (commitSeqs d x.1.pool e.rank).contains x.1.seqn })
  let d := { d with map := { d.map with green := d.map.green ++ gs } }
  let z := stageCws e .bisque ⟨3, .other⟩ (todo.map (fun x => greenCw e d x.1 (g.nonce + x.2))) d
  let d := (gs.zip z.2).foldl (fun d x =>
    d.onGreen (sameGreen x.1) (fun y => { y with loc := x.2 })) z.1
  match openRowOf d .bisque with
  | some o => if z.2.any Option.isSome then fillPage e o.id ⟨3, .other⟩ d else d
  | none => d

/-- The codeword of a block still stands on the medium. -/
def stands (d : Dp) (pool lb : Nat) (l : Loc) : Bool := (d.cw l).any (fun c => c.verified && c.pool = pool && c.localBlk = lb)

/-- The pending mapping of a delta record whose ticket's outcome this device's journal copies do not tell: it waits for the JOIN
(R514), under the content that stands on the medium. -/
def replayGreen (e : Env) (d : Dp) (x : Delta) : Option Green :=
  match d.sh.reg.pool x.pool with
  | none => none
  | some p =>
    let l := p.layGen (p.genOf x.localBlk)
    match l.ofLocal e.rank x.localBlk with
    | none => none
    | some q =>
      let g (b : Blk) : Green :=
        { pool := x.pool, localBlk := x.localBlk, seqn := x.seqn, row := q.row, unit := q.unit, pos := q.pos, posLast := q.pos,
          claim := 0, steward := e.rank, src := e.rank, flags := if x.loc.isSome then 0 else fDiscard, group := 0, dataMask := 0,
          blk := b, full := true, loc := x.loc, verified := true, unmaps := x.loc.isNone, committed := false, reported := true, overflow := false, crc := 0,
          replayed := true }
      match x.loc with
      | none => some (g (if q.unit < 14 then unmappedBlk ((l.lba q).getD 0) else unmappedParity))
      | some at_ =>
        if !stands d x.pool x.localBlk at_ then none
        else (d.cw at_).map (fun c => g (plainBlk c.kind ((openCw e.atRest c.body).getD [])))

/-- A delta record counts at a replay that starts from a checkpoint: it is later, or was pending then. -/
def replayed (k : Option Ckpt) (first : Nat) (x : Delta) : Bool :=
  first ≤ x.num && k.all (fun k => k.upTo ≤ x.num || k.held.contains x.num)

/-- The map at a restart (R75, R147): the checkpoint that the newest good anchor names, the delta records from its start point with the
tail that Last Tide wrote, and the outcomes that this device's journal copies hold; segments that the records change are dirty. -/
def replayMap (a : Option Anchor) (tail : List Delta) (e : Env) (d : Dp) : Dp :=
  let k := d.map.ckpts.find? (fun k => a.any (fun a => a.ckpt = k.num))
  let first := a.elim 0 Anchor.delta
  let all := ((d.map.deltas ++ tail).filter (fun x => first ≤ x.num)).mergeSort (fun x y => x.num ≤ y.num)
  let l := all.filter (replayed k first)
  let pools := (l.map Delta.pool).eraseDups
  let known : List (Nat × List Nat) := pools.map (fun h => (h, commitSeqs d h e.rank))
  let done (h q : Nat) : Bool := known.any (fun x => x.1 = h && x.2.contains q)
  let start := (k.elim [] Ckpt.entries).map (fun x => (x.1, x.2.1, ((d.cw x.2.2).map Codeword.seqn).getD 0, some x.2.2))
  let t := l.foldl (replayDelta done) start
  let seqOf (x : Delta) : Nat := ((t.find? (fun y => y.1 = x.pool && y.2.1 = x.localBlk)).map (fun y => y.2.2.1)).getD 0
  let open_ := l.filter (fun x => x.kind = .pending && !done x.pool x.seqn && seqOf x < x.seqn &&
    !l.any (fun y => y.kind = .freed && y.pool = x.pool && y.localBlk = x.localBlk && x.num < y.num))
  let here (x : Delta) (g : Green) : Bool := g.pool = x.pool && g.localBlk = x.localBlk && g.seqn = x.seqn
  let kept := d.map.green.filter (fun g => open_.any (fun x => here x g))
  let fresh := (open_.filter (fun x => !kept.any (here x))).filterMap (replayGreen e d)
  { d with map := { d.map with
    entries := t.filterMap (fun y => y.2.2.2.bind (fun p => if stands d y.1 y.2.1 p then some (y.1, y.2.1, p) else none))
    green := kept ++ fresh
    deltas := all
    unstaged := ((all.find? (fun x => !deltaSafe d x.num)).map Delta.num).getD d.map.nextDelta
    deltaBytes := deltaSize * (all.filter (fun x => x.localBlk % iuBlocks (iuOf d x.pool) = 0)).length
    dirty := (l.map (fun x => (x.pool, segOf (iuOf d x.pool) x.localBlk))).eraseDups } }

/-- Rows that a loss has left with an open die stripe or an unprogrammed page take no more: they are refreshed before further use, and an
open stripe is never rebuilt from (R129). -/
def closeCutRows (e : Env) (d : Dp) : Dp :=
  let cut (r : Row) : Bool := r.erasing.isNone && !r.full && (r.openSince.isSome || !r.dead.isEmpty)
  (d.med.rows.filter cut).foldl (fun d r =>
    let d := d.onRow r.id (fun r => { r with full := true, filledAt := e.now, unclosed := r.openSince.isSome, openSince := none })
    if r.use = .bisque || r.use = .stoneware then scheduleRefresh e r.id 2 d else d) d

/-- The blocks that a generation used are erased, once it is replayed (R144). -/
def eraseUsed (e : Env) (d : Dp) : Dp :=
  (d.med.rows.filter (fun r => r.use = .lastTide && !r.cws.isEmpty)).foldl (fun d r => eraseRow e r.id d) d

/-- A generation in the Last Tide area is replayed (R514), beside the map (R75), and its blocks are erased. -/
def replayGen (s : State) : State :=
  let a := newestAnchor s.bed
  match s.dp.med.ltGen with
  | none => s.onDp (replayMap a [])
  | some g =>
    let s := { s with dp := { s.dp with io := restoreLog g.log s.dp.io } }
    let s := if g.closed then s else s.log 0x0E09 6 srcFirmware [g.gen, g.greens.length]
    s.onDp (fun e d =>
      let d := replayGreens e g (replayMap a g.deltas e (restoreJournals g.journals d))
      eraseUsed e { d with med := { d.med with ltGen := none, ltUsed := true } })

/-- The start is clean (R534). -/
def cleanStart (s : State) : Bool := (newestAnchor s.bed).any Anchor.ebb && s.dp.med.ltGen.isNone

/-- Recovery before READY: the anchor, the Seawall, the Last Tide generation, the rows that were cut. `resume` is the exit from
Ebb, which is no start. -/
def recovery (resume : Bool) (s : State) : State :=
  let s := if resume then s else setCode 0x06 s
  let s := if s.bed.anchors.head?.any (fun a => !a.valid) then
      (s.log 0x0F07 3 srcFirmware [s.bed.anchors.head?.elim 0 Anchor.seqn]).onDp (fun _ => count 15 3 1)
    else s
  let s := restoreSeawall s
  let clean := resume && s.dp.med.ltGen.isNone || cleanStart s
  let bytes := s.dp.med.ltGen.elim 0 (fun g => g.greens.length * 4096)
  let s := replayGen { s with boot := { s.boot with unclean := !clean } }
  let s := if clean then s else
    (s.onDp (fun _ => count 15 1 1)).onDp (fun e d => logAt e.now 0x0F04 3 srcFirmware (args64 bytes 0) d)
  s.onDp (fun e d =>
    let d := growAreas e (closeCutRows e d)
    let reg := { d.sh.reg with jobs := d.sh.reg.jobs.map (fun (j : SdJob) =>
        if resume || j.state = .done || j.state = .donePartial then j else { j with startedAt := e.now, elapsedMs := 0 }) }
    { d with
      sh := { d.sh with reg := reg, regNext := reg, figDue := true }
      map := { d.map with loading := true } })

/-- Erased bytes of the Last Tide area without which a member that has replayed a generation is not READY (R144). -/
def readyErased : Nat := 16 * gib

/-- READY may be reached once recovery has run: not before enough of the Last Tide area is erased, where a generation was read (R144). -/
def areaReady (s : State) : Bool :=
  s.dp.med.rows.all (fun r => !(r.use = .lastTide && r.erasing.isSome)) || readyErased ≤ areaErased s.dp .lastTide

/-- The device is READY (R528, R532): held commands run, the registry steward is asked for admission, and the leases' next blocks are
recorded. -/
def enterReady (s : State) : State :=
  let s := setCode 0x07 { s with
    boot := { s.boot with ready := true, recovered := false, readyAt := s.clk.time, settled := false } }
  let s := enterState .flood s
  let s := startHoldup ((s.cause evReady).log 0x0F02 1 srcFirmware [])
  askAnchor (s.onDp (fun e => eachDie (fun c n => startDie e c n)))

/-- READY (R528, R532): bring-up is done, the sag test of R499 has ended, and recovery runs; the device is READY then, unless it has to
wait for erases. -/
def execReady (s : State) : Host.Outcome State Fault Refusal :=
  if !s.boot.fw || s.boot.ready || s.boot.safe || s.boot.fatal || s.pwr.state != .starting || s.pwr.sag.isSome ||
      !broughtUp s || s.env.tide then .next s
  else
    let s := if s.boot.recovered then s else
      let s := recovery s.boot.resumed s
      { s with boot := { s.boot with recovered := true } }
    .next (if areaReady s then enterReady s else s).work

end Sys2Proof.Machine
end

