-- ==== Sys2Proof/Machine/Dram.lean ====
section
/-! DEFINITION. Meanings of the DRAM commands: corrections, uncorrectable reads and the patrol (R169 to R174, R183), training and
rates (R466 to R473), refresh (R476 to R478) and page policy (R475). -/

namespace Sys2Proof.Machine

/-! ## Channels -/

/-- The record of a channel. -/
def Dram.chan (m : Dram) (c : Nat) : DChan := m.chans.get DChan.reset c

/-- Change the record of a channel. -/
def State.onChan (c : Nat) (f : DChan → DChan) (s : State) : State :=
  { s with dram := { s.dram with chans := s.dram.chans.put c (f (s.dram.chan c)) } }

/-- A channel serves accesses: trained, out of reset and out of self-refresh. -/
def chanRuns (s : State) (c : Nat) : Bool :=
  let x := s.dram.chan c
  x.trained && !x.resetLow && !x.selfRefresh && !x.failed && !s.pwr.porHeld

/-- The channel of a device address (R469): 256-byte units in turn over the four. -/
def dramChan (addr : Nat) : Nat := addr / 256 % 4

/-- What waits at a channel, oldest first. -/
def dramQueue (c : Nat) (q : List DramReq) : List DramReq := q.filter (fun r => dramChan r.addr = c)

/-- The patrol's turn on a channel (R474): nothing of a higher class waits, or 64 requests have passed it. -/
def patrolTurn (s : State) (c : Nat) : Bool := (dramQueue c s.dp.mem.dram).isEmpty || 64 ≤ (s.dram.chan c).patrolPast

/-- Bytes of a channel, and where its diagnostic window begins: its top 64 MiB (Table 5-9). -/
def chanBytes (s : State) (c : Nat) : Nat := ((s.dram.chan c).spd.map spdBytes).getD 0
def windowAt (s : State) (c : Nat) : Nat := chanBytes s c - 64 * mib

/-- A command of the controller to a channel. -/
def dramOut (c : Nat) (o : DramCmd) (s : State) : State := s.out (.dram c o)

/-- 24 h and 1 h of device time. -/
def day : Nat := 86400 * second
def hour : Nat := 3600 * second

/-- Key of a component, and of a bank. -/
def compKey (rank component : Nat) : Nat := rank * 32 + component

/-- Key of one of the 32 banks of a rank. -/
def rowKeyOf (rank bank : Nat) : Nat := rank * 32 + bank
def bankKey (rank bank : Nat) : Nat := rank * 4 + bank

/-- A channel fails (R174, R541): cause 1 is more than 4 uncorrectable bursts in 1 h, 2 a component with corrections in more than 1 %
of a patrol pass. -/
def failDram (c cause : Nat) (s : State) : State :=
  let s := s.onChan c (fun x => { x with failed := true })
  deviceFatal 1 (s.log 0x0C05 6 srcDram [c, cause])

/-! ## Corrections (R170, R174) -/

/-- A correction is counted against channel, rank and component; more than 1,024 distinct bursts in 24 h warn, once for a component
until the core is reset (DESIGN CHOICE: R174 does not say how often; notes/assumptions/38.md). -/
def noteFix (c rank component burst : Nat) (s : State) : State :=
  let k := compKey rank component
  let x := s.dram.chan c
  let l := ((x.bursts.get [] k).filter (fun b => s.clk.time < b.2 + day && b.1 != burst)) ++ [(burst, s.clk.time)]
  let warn := 1024 < l.length && !x.warned.contains k
  let s := s.onChan c (fun x => { x with
    fixes := x.fixes.put k (x.fixes.get 0 k + 1), bursts := x.bursts.put k l
    warned := if warn then x.warned ++ [k] else x.warned })
  let s := s.onDp (fun _ => count 12 (4 * c) 1)
  if warn then s.log 0x0C06 3 srcDram [c, rank, component] else s

/-- A correction in a diagnostic window is counted apart (R183). -/
def noteDiagFix (s : State) : State := { s with integ := { s.integ with diagFixed := s.integ.diagFixed + 1 } }

/-- DRAM_CORRECTED_READ (R170): the stored burst stays as it was. -/
def execDramCorrectedRead (ch : DramCh) (rank component burst : Nat) (diagnostic : Bool) (s : State) :
    Host.Outcome State Fault Refusal :=
  if !chanRuns s ch.val then .next s
  else if diagnostic then .next (noteDiagFix s)
  else .next (noteFix ch.val rank component burst s)

/-! ## Uncorrectable reads (Table 5-7) -/

/-- The entries of the pending-mapping table for an IU are rebuilt from their pending delta records (R76); a block that has none yet is
programmed again. -/
def rebuildPending (pool lb : Nat) (d : Dp) : Dp :=
  let n := iuBlocks (iuOf d pool)
  let rec_ (g : Green) : Option Delta := d.map.deltas.find? (fun x =>
    x.kind = .pending && x.pool = g.pool && x.localBlk = g.localBlk && x.seqn = g.seqn)
  d.onGreen (fun g => g.pool = pool && g.localBlk / n = lb / n && g.loc.isSome) (fun g => { g with loc := (rec_ g).bind Delta.loc })

/-- A map segment is dropped and faults in again (R69). -/
def dropSeg (e : Env) (pool seg : Nat) (d : Dp) : Dp :=
  let segs := if d.map.resident then mapSegs e d else d.map.segs
  if segs.contains (pool, seg) then
    { d with map := { d.map with
        segs := without (pool, seg) segs, wanted := addNew (pool, seg) d.map.wanted
        loading := d.map.loading || d.map.resident, resident := false } }
  else d

/-- Numbers of the regions of Table 5-7, in table order. -/
def DramRegion.code : DramRegion → Nat
  | .mapSegment _ _ => 0
  | .pendingTable _ _ => 1
  | .greenHead _ _ _ _ => 2
  | .greenSherd _ _ _ => 3
  | .readOffsets _ => 4
  | .firmware => 5
  | .diagnostic => 6

/-- What the device does by region (Table 5-7). -/
def dramAction (region : DramRegion) (s : State) : State :=
  match region with
  | .mapSegment pool seg => (s.onDp (fun e => dropSeg e pool seg)).work
  | .pendingTable pool lb => (s.onDp (fun _ => rebuildPending pool lb)).work
  | .greenHead p q t i => (s.onDp (fun _ => refetch ⟨p, q, t.val⟩ i)).work
  | .greenSherd pool lb seqn => (s.onDp (fun e => loseSherd e pool lb seqn)).work
  | .readOffsets row => s.onDp (fun _ d => d.onRow row (fun r => { r with offsets := [] }))
  | .firmware => faultTrigger .memory s
  | .diagnostic => { s with integ := { s.integ with diagBad := s.integ.diagBad + 1 } }

/-- DRAM_UNCORRECTABLE_READ (R173, R174): logged in every case; the fifth within 1 h fails the channel. -/
def execDramUncorrectableRead (ch : DramCh) (region : DramRegion) (s : State) : Host.Outcome State Fault Refusal :=
  if !chanRuns s ch.val then .next s
  else
    let s := s.log 0x0504 4 srcDram [ch.val, DramRegion.code region]
    if region = .diagnostic then .next (dramAction region s)
    else
      let l := (s.dram.chan ch.val).bad.filter (fun t => s.clk.time < t + hour) ++ [s.clk.time]
      let s := s.onChan ch.val (fun x => { x with bad := l })
      let s := s.onDp (fun _ => count 12 (4 * ch.val + 1) 1)
      if 4 < l.length then .next (failDram ch.val 1 s) else .next (dramAction region s)

/-! ## The patrol (R171, R172, R183) -/

/-- An injection is armed on a channel. -/
def armedOn (s : State) (c : Nat) : Bool := s.integ.arms.any (fun a => a.st = .armed && a.target = 1 && a.unit = c)

/-- The patrol's pass over a channel ends: a component with corrections in more than 1 % of the bursts fails the channel. -/
def endPass (c : Nat) (s : State) : State :=
  let x := s.dram.chan c
  let bad := x.patrolFix.any (fun f => x.patrolRead < 100 * f.2)
  let s := (s.onChan c (fun x => { x with patrolRead := 0, patrolFix := [] })).onDp (fun _ => count 12 (4 * c + 3) 1)
  if bad then failDram c 2 s else s

/-- A burst of the diagnostic window is written back corrected: it holds no flaw any more. -/
def mendBurst (c offset : Nat) (s : State) : State :=
  { s with integ := { s.integ with dramBad := s.integ.dramBad.filter (fun (f : Flaw) => !(f.unit = c && f.address = offset)) } }

/-- The patrol has read a burst of a channel: a component with an error is counted, in the diagnostic window apart (R183), and the burst
written back unless another write to it has been accepted since (R172). -/
def patrolBurst (c n rank : Nat) (component : Option Nat) (intervened : Bool) (s : State) : State :=
  match component with
  | none => s
  | some k =>
    let window := windowAt s c ≤ 64 * n
    let s := if window then noteDiagFix s
      else
        (noteFix c rank k n s).onChan c (fun x => { x with
          patrolFix := x.patrolFix.put (compKey rank k) (x.patrolFix.get 0 (compKey rank k) + 1) })
    if intervened then s
    else dramOut c (.writeBack rank k n) (if window then mendBurst c (64 * n - windowAt s c) s else s)

/-- DRAM_PATROL (R171): the patrol's request is served in its turn and reads the next burst of the channel, in order of address; the pass
ends with the last burst. A diagnostic window with an armed injection, at the channel's top, is skipped (R183). -/
def execDramPatrol (ch : DramCh) (rank : Nat) (component : Option Nat) (intervened : Bool) (s : State) :
    Host.Outcome State Fault Refusal :=
  let c := ch.val
  if !chanRuns s c || s.boot.fatal || !patrolTurn s c then .next s
  else
    let n := (s.dram.chan c).patrolRead
    if windowAt s c ≤ 64 * n && armedOn s c then .next (endPass c s)
    else
      let s := s.onChan c (fun x => { x with patrolRead := n + 1, patrolPast := 0 })
      let s := patrolBurst c n rank component intervened s
      .next (if chanBytes s c ≤ 64 * (n + 1) then endPass c s else s)

/-! ## Refresh (R476 to R478) -/

/-- The rows of a rank that a same-bank refresh of an index closes (R475, R476). -/
def closeIndex (c rank bank : Nat) (s : State) : State :=
  s.onChan c (fun x => { x with openRows := x.openRows.filter (fun o => !(o.1 / 32 = rank && o.1 % 4 = bank)) })

/-- Issue same-bank refreshes, the bank's row closed before them. -/
def refreshBank (c rank bank n : Nat) (s : State) : State :=
  if n = 0 then s
  else
    let s := closeIndex c rank bank s
    (List.range n).foldl (fun s _ => dramOut c (.refresh rank bank) s) (dramOut c (.precharge rank bank) s)

/-- In a gap between bursts every postponed refresh of a channel is paid back. -/
def payBack (c : Nat) (s : State) : State :=
  let owed := (s.dram.chan c).banks.filter (fun (b : Nat × Int) => 0 < b.2)
  let s := owed.foldl (fun s b => refreshBank c (b.1 / 4) (b.1 % 4) b.2.toNat s) s
  s.onChan c (fun x => { x with banks := x.banks.filter (fun b => b.2 < 0) })

/-- A channel enters self-refresh (R479, R480): every row is closed and the postponed refreshes are issued before it. -/
def sleepChan (s : State) (c : Nat) : State :=
  let rows := (s.dram.chan c).openRows.map Prod.fst
  let s := rows.foldl (fun s k => dramOut c (.precharge (k / 32) (k % 32)) s) (payBack c s)
  dramOut c (.selfRefresh true) (s.onChan c (fun x => { x with openRows := [], banks := [], selfRefresh := true }))

/-- A channel leaves self-refresh. -/
def wakeChan (s : State) (c : Nat) : State :=
  dramOut c (.selfRefresh false) (s.onChan c (fun x => { x with selfRefresh := false }))

/-- DRAM_REFRESH_DUE (R476 to R478): `burst` names the bank, rank × 4 + index, that a real-time burst addresses. That bank's refresh
is postponed up to four times, and then splits the burst; another bank's is issued and one more pulled in, up to four; without a
burst, what is owed is paid back, and what was pulled in counts. -/
def execDramRefreshDue (ch : DramCh) (rank bank : Nat) (burst : Option Nat) (s : State) : Host.Outcome State Fault Refusal :=
  let c := ch.val
  let k := bankKey rank bank
  if !chanRuns s c then .next s
  else
    let n := (s.dram.chan c).banks.get 0 k
    let set (v : Int) (s : State) : State := s.onChan c (fun x => { x with banks := x.banks.put k v })
    match burst with
    | some b =>
      if b = k then
        if n < 4 then .next (set (n + 1) s)
        else .next (refreshBank c rank bank 1 (s.log 0x0C04 0 srcDram [c, rank, bank]))
      else if -4 < n then .next (set (n - 1) (refreshBank c rank bank 2 s))
      else .next (refreshBank c rank bank 1 s)
    | none =>
      if n < 0 then .next (payBack c (set (n + 1) s))
      else .next (payBack c (refreshBank c rank bank 1 s))

/-- DRAM_TEMPERATURE_READ (R476): tREFI is halved for a rank above 85 °C. -/
def execDramTemperatureRead (ch : DramCh) (rank : Nat) (hot : Bool) (s : State) : Host.Outcome State Fault Refusal :=
  if !chanRuns s ch.val then .next s
  else .next (s.onChan ch.val (fun x => { x with hot := if hot then addNew rank x.hot else without rank x.hot }))

/-- DRAM clock cycles of a time in ns at a rate in MT/s, rounded up (R475). -/
def idleCycles (ns rate : Nat) : Nat := divUp (ns * rate) 2000

/-- DRAM_PAGE_IDLE_CLOSE (R475): a row open without access for DRAM_PAGE_IDLE, in cycles at the channel's rate, is closed; at 0 every row
closes by auto-precharge. -/
def execDramPageIdleClose (ch : DramCh) (rank bank : Nat) (s : State) : Host.Outcome State Fault Refusal :=
  let t := s.param 0x0C02
  let x := s.dram.chan ch.val
  let k := rowKeyOf rank bank
  if chanRuns s ch.val && t != 0 &&
      (x.openRows.find k).any (fun o => idleCycles t x.rate ≤ (s.clk.time - o.2) * x.rate / 2000) then
    .next (dramOut ch.val (.precharge rank bank) (s.onChan ch.val (fun x => { x with openRows := Tab.erase x.openRows k })))
  else .next s

/-! ## Training and rates (R466 to R472) -/

/-- The rates of R468, highest first. -/
def dramSteps : List Nat := [8800, 6400, 4800, 3200]

/-- The next lower rate, trained for the shadow set (Table 14-2 step 8). -/
def nextLower (r : Nat) : Nat := (dramSteps.find? (· < r)).getD r

/-- Highest rate of a configuration (Table 14-1). -/
def rankLimit (x : Spd) : Nat := if x.ranks = 2 then 6400 else 8800

/-- The rate of R468: within DRAM_RATE, every channel's SPD and configuration, and passing on every channel. -/
def dramRate (s : State) : Option Nat :=
  let l := (List.range 4).map s.dram.chan
  dramSteps.find? (fun r => r ≤ s.param 0x0C01 && l.all (fun x =>
    x.spd.any (fun p => r ≤ p.maxRate && r ≤ rankLimit p) && x.passing.any (fun t => t.any (fun (y : DramPoint) => y.rate = r))))

/-- Every channel takes a rate, its shadow rate below it. -/
def setRate (r shadow : Nat) (s : State) : State :=
  let s := { s with dram := {
    chans := s.dram.chans.map (fun (x : Nat × DChan) => (x.1, { x.2 with rate := r, shadow := shadow, trained := true }))
    rate := r } }
  (List.range 4).foldl (fun s c => dramOut c (.rate r) s) s

/-- Every channel changes its rate through self-refresh (R479). -/
def changeRate (r shadow : Nat) (s : State) : State :=
  (List.range 4).foldl wakeChan (setRate r shadow ((List.range 4).foldl sleepChan s))

/-- 0.30 UI and 0.35 UI as hundredths of 1/64 UI (R470). -/
def eyeWidth : Nat := 1920
def caWidth : Nat := 2240

/-- The timing window at a Vref step is at least 0.30 UI wide. -/
def wide (x : EyeLine) : Bool := eyeWidth ≤ 100 * (x.last - x.first)

/-- The centre of an eye (R471): the Vref in the middle of the range over which the timing window is wide enough, and at that Vref the delay
in the middle of the window; the lower step where a middle falls between two (DESIGN CHOICE: notes/assumptions/38.md). -/
def eyeCentre (l : List EyeLine) : Option (Nat × Nat) :=
  match (l.filter wide).map EyeLine.vref with
  | [] => none
  | v :: t =>
    let mid := (t.foldl min v + t.foldl max v) / 2
    ((l.filter wide).find? (fun x => x.vref = mid)).map (fun x => (mid, (x.first + x.last) / 2))

/-- The eye at its centre is 30 mV high (R470): Vref steps are 0.5 % of the 1.100 V of VDDQD. -/
def tall (l : List EyeLine) (p : Nat × Nat) : Bool :=
  match (l.filter (fun x => x.first ≤ p.2 && p.2 ≤ x.last)).map EyeLine.vref with
  | [] => false
  | v :: t => 300 ≤ 55 * (t.foldl max v - t.foldl min v)

/-- The point of every bit of a direction; none where an eye fails R470. -/
def eyePoints (l : List (List EyeLine)) : Option (List (Nat × Nat)) :=
  let ps := l.map (fun x => (eyeCentre x).filter (tall x))
  if l.length = 80 && ps.all Option.isSome then some (ps.filterMap id) else none

/-- VrefDQ of each component: the mean of the centres of its four bits, rounded to the nearest step; a half rounds up (DESIGN CHOICE:
notes/assumptions/38.md). -/
def componentVrefs (l : List (Nat × Nat)) : List Nat :=
  (List.range (l.length / 4)).map (fun i => ((((l.drop (4 * i)).take 4).map Prod.fst).foldl (· + ·) 0 + 2) / 4)

/-- What a sweep comes to: the trained point, or none where the rate does not pass (R470, R471). -/
def trainPoint (x : DramSweep) : Option DramPoint :=
  match eyePoints x.read, eyePoints x.write with
  | some r, some w =>
    if caWidth ≤ 100 * x.ca then some { rate := x.rate, read := r, write := w, vrefDq := componentVrefs w } else none
  | _, _ => none

/-- DRAM_CHANNEL_TRAINED (R466 to R471): a channel whose SPD cannot be read, whose configuration is not in Table 14-1 or differs from
another channel's, and a set of channels with no common rate, mean safe mode with code 0x41. -/
def execDramChannelTrained (ch : DramCh) (spd : Option Spd) (sweeps : List DramSweep) (s : State) :
    Host.Outcome State Fault Refusal :=
  let x := s.dram.chan ch.val
  if !s.boot.fw || s.pwr.porHeld || x.resetLow || x.trained || s.env.tide then .next s
  else
    let s := s.onChan ch.val (fun x => { x with spd := spd, passing := some (sweeps.filterMap trainPoint) })
    let same (p : Spd) : Bool := s.dram.chans.all (fun y => y.2.spd.all (fun q => q.density = p.density && q.ranks = p.ranks))
    if !spd.any (fun p => spdBytes p != 0 && same p) then .next (safeMode 0x41 s)
    else if !s.dram.chans.all (fun y => y.2.passing.isSome) then .next s
    else match dramRate s with
      | none => .next (safeMode 0x41 s)
      | some r => .next (recoveryStage ((setRate r (nextLower r) s).log 0x0C01 1 srcDram [r])).work

/-- Drift in 1/64 UI above which the sweeps are repeated. -/
def driftMax : Nat := 8

/-- A channel is trained again at its rate (R472, R473); where that fails every channel changes to the shadow rate. -/
def retrainChan (c : Nat) (sweep : DramSweep) (s : State) : State :=
  let s := (s.onChan c (fun x => { x with drift64 := 0 })).onDp (fun _ => count 12 (4 * c + 2) 1)
  let s := (dramOut c .retrain s).log 0x0C02 2 srcDram [c]
  let r := (s.dram.chan c).shadow
  match trainPoint { sweep with rate := (s.dram.chan c).rate } with
  | some p => s.onChan c (fun x => { x with
      passing := x.passing.map (fun l => l.filter (fun (y : DramPoint) => y.rate != p.rate) ++ [p]) })
  | none => (changeRate r r s).log 0x0C03 3 srcDram [c, r]

/-- DRAM_OSCILLATOR_READ (R472): the delays follow the drift since training; above 1/8 UI the channel is trained again. -/
def execDramOscillatorRead (ch : DramCh) (drift64 : Nat) (retrain : DramSweep) (s : State) : Host.Outcome State Fault Refusal :=
  let c := ch.val
  if !chanRuns s c || !(s.pwr.state = .flood || s.pwr.state = .slack) then .next s
  else if drift64 ≤ driftMax then .next (s.onChan c (fun x => { x with drift64 := drift64 }))
  else .next (retrainChan c retrain s)

end Sys2Proof.Machine
end

