-- ==== Sys2Proof/Machine/Traffic.lean ====
section
/-! DEFINITION. What waits at working memory goes on with the clock: the DRAM scheduler (R469, R474, R475) and the scratchpad banks
(R484). -/

namespace Sys2Proof.Machine

/-! ## The DRAM scheduler -/

/-- A request finds its row open (R474, R475). -/
def rowHit (x : DChan) (r : DramReq) : Bool :=
  let p := Config.dramRow r.addr
  (x.openRows.find (rowKeyOf p.1 p.2.1)).any (fun o => o.1 = p.2.2)

/-- A request of classes 2 to 4 is passed over no more (R474): 64 younger ones have passed it, or it has waited 4 µs in class 2 or 20 µs
else. -/
def dramDue (r : DramReq) : Bool := 2 ≤ r.cls && (64 ≤ r.passed || (if r.cls = 2 then 4000 else 20000) ≤ r.waited)

/-- The request of a channel's queue, oldest first, that is served next (R474): one that is due,
else of the highest class a row hit, else its oldest. -/
def nextDram (x : DChan) (q : List DramReq) : Option DramReq :=
  let c := q.foldl (fun n r => min n r.cls) 5
  let l := q.filter (fun r => r.cls = c)
  (q.find? dramDue).or ((l.find? (rowHit x)).or l.head?)

/-- A request leaves the queue; older ones of its channel have been passed. -/
def passDram (r : DramReq) : List DramReq → List DramReq
  | [] => []
  | x :: t =>
    if x = r then t
    else { x with passed := if dramChan x.addr = dramChan r.addr then x.passed + 1 else x.passed } :: passDram r t

/-- The channel after it has served a request: the row stays open, but where DRAM_PAGE_IDLE is 0 (R475). -/
def servedChan (now idle : Nat) (r : DramReq) (x : DChan) : DChan :=
  let p := Config.dramRow r.addr
  { x with
    openRows := if idle = 0 then x.openRows else x.openRows.put (rowKeyOf p.1 p.2.1) (p.2.2, now)
    patrolPast := x.patrolPast + 1 }

/-- A channel that runs serves the next request of its queue. -/
def serveDram (s : State) (c : Nat) (q : List DramReq) (m : Dram) : List DramReq × Dram :=
  let x := m.chan c
  match (if chanRuns s c then nextDram x (dramQueue c q) else none) with
  | none => (q, m)
  | some r => (passDram r q, { m with chans := m.chans.put c (servedChan s.clk.time (s.param 0x0C02) r x) })

/-! ## The scratchpad banks -/

/-- Active banks of a class. -/
def banksOf (p : Pads) (o : Owner) : List Nat :=
  (p.banks.filter (fun x => x.2.owner = o && x.2.st = .active)).map Prod.fst

/-- The bank an access waits at. -/
def bankOf (p : Pads) (r : PadReq) : Option Nat :=
  let l := banksOf p r.owner
  l[Config.stagingBank r.pick % max 1 l.length]?

/-- The access that moves its next line at a bank (R484): the Last Tide sequencer's, then a Kiln stager's, then the one under way, then the
master next in turn. -/
def nextPad (turn : Nat) (q : List PadReq) : Option PadReq :=
  let rest := q.filter (fun r => r.master != 14 && r.master != 8)
  (q.find? (fun r => r.master = 14)).or ((q.find? (fun r => r.master = 8)).or ((rest.find? PadReq.begun).or
    (leastBy (fun (r : PadReq) => (r.master + 15 - (turn + 1)) % 15) rest)))

/-- An access moves a line; with its last it leaves the queue. -/
def moveLine (r : PadReq) (q : List PadReq) : List PadReq :=
  if r.lines ≤ 1 then q.erase r
  else q.map (fun x => if x = r then { x with lines := x.lines - 1, begun := true, counted := false } else x)

/-- A non-real-time access that a bank does not serve while it serves another, and that is not yet counted (R485). -/
def waitsAt (p : Pads) (b : Nat) (r x : PadReq) : Bool :=
  x != r && x.master != 14 && x.master != 8 && !x.counted && bankOf p x = some b

/-- A bank moves one line, and counts what waits behind it. -/
def serveLine (b : Nat) (z : List PadReq × Pads) : List PadReq × Pads :=
  match z.2.banks.find b with
  | none => z
  | some x =>
    match nextPad x.turn (z.1.filter (fun r => bankOf z.2 r = some b)) with
    | none => z
    | some r =>
      let turn := if r.master = 14 || r.master = 8 then x.turn else r.master
      let n := (z.1.filter (waitsAt z.2 b r)).length
      let q := z.1.map (fun x => if waitsAt z.2 b r x then { x with counted := true } else x)
      (moveLine r q, { z.2 with banks := z.2.banks.put b { x with turn := turn, conflicts := min (2 ^ 28 - 1) (x.conflicts + n) } })

/-- Lines a bank moves in one tick of 40 ns, at the least throughput of R484. -/
def linesPerTick : Nat := 30

/-- Every bank moves what it can in one tick. -/
def servePads (q : List PadReq) (p : Pads) : List PadReq × Pads :=
  p.banks.foldl (fun z x => (List.range linesPerTick).foldl (fun z _ => serveLine x.1 z) z) (q, p)

/-- What waits at working memory goes on by one tick. -/
def memTick (s : State) : State :=
  let m := s.dp.mem
  let z := (List.range 4).foldl (fun z c => serveDram s c z.1 z.2) (m.dram, s.dram)
  let y := if m.pads.isEmpty then (m.pads, s.pads) else servePads m.pads s.pads
  { s with
    dram := z.2
    pads := y.2
    dp := { s.dp with mem := { m with dram := z.1.map (fun (r : DramReq) => { r with waited := r.waited + 40 }), pads := y.1 } } }

end Sys2Proof.Machine
end

