-- ==== Sys2Proof/Machine/Clock.lean ====
section
/-! DEFINITION. Device time (R516, R517). -/

namespace Sys2Proof.Machine

/-- One tick of the always-on domain: 40 ns in Flood, Slack and Neap and while the device starts or flushes (R516); in
Ebb one period of the 32.768 kHz clock is counted and device time stands still (R517); with power-on reset held only the hot-swap controller's
times run (R493). Transfers on the flash channels go on (R96), the Causeway ports' windows of 100 µs end (R289), and link-test frames
that are due go out (R186); what waits at the DRAM scheduler and the scratchpad banks goes on (R474, R484), and so do Beachcomber's
checks that are due (R220). -/
def tick (s : State) : State :=
  if s.pwr.porHeld then
    if s.pwr.insertAt.isSome || s.pwr.faultAt.isSome then { s with clk := { s.clk with time := s.clk.time + 40 } } else s
  else if s.pwr.state = .ebb then { s with clk := { s.clk with ebbCount := s.clk.ebbCount + 1 } }
  else
    let ends : Bool := s.clk.time / 100000 < (s.clk.time + 40) / 100000
    let s := { s with clk := { s.clk with time := s.clk.time + 40 } }
    let s := s.onDp (fun e d => if ends then endWindows e.now (busTick e.now d) else busTick e.now d)
    beachTick (sendTests (memTick s))

end Sys2Proof.Machine
end

