-- ==== Sys2Proof/Machine/Frames.lean ====
section
/-! DEFINITION. Meanings of the Causeway frame commands: each frame arrives (session, class, order, duplicates: R275, R279,
R529) and is delivered (Table 8-5). -/

namespace Sys2Proof.Machine

/-- HEARTBEAT (R232, R233, R277): the session it carries is learnt before its stream is judged (R283). -/
def execHeartbeat (f : Frame) (boot : Word) (session : BitVec 32) (flags : Byte) (roles : List RoleEntry) (s : State) :
    Host.Outcome State Fault Refusal :=
  let known := s.onDp (fun e d =>
    if ringOpen e d && f.crcOk && f.linkOk && f.cls = 0 && f.dst.val = e.rank && f.src.val != e.rank then
      noteSession e f.src.val session boot d
    else d)
  .next (onFrame .heartbeat 3 f (.roles boot session flags roles) known)

/-- Traffic class of a bulk frame (R276); any other class is not in Table 8-5. -/
def bulkClass (f : Frame) : Nat := if f.cls = 4 then 4 else 3

/-- A class-3 sherd of another device that would raise this member's greenware above G_lim (R417). -/
def overLimit (d : Dp) (own : Nat) (f : Frame) : Bool :=
  f.cls = 3 && f.src.val != own && f.pool != drillHandle && d.bw.gLim < greenHeld d + 4096

/-- SHERD_DATA (Table 6-2 step 5, R165, R249); dropped undelivered above the greenware limit (R417). -/
def execSherdData (f : Frame) (blk : Blk) (s : State) : Host.Outcome State Fault Refusal :=
  if overLimit s.dp s.env.rank f then .next s else .next (onFrame .sherdData (bulkClass f) f (.blk blk) s)

/-- READ_DATA (R579, C8). -/
def execReadData (f : Frame) (blk : Blk) (s : State) : Host.Outcome State Fault Refusal :=
  .next (onFrame .readData (bulkClass f) f (.blk blk) s)

/-- CLAIM (R243): an announcement raises the Seawall entry and is acknowledged, or draws FENCED. -/
def execClaim (f : Frame) (s : State) : Host.Outcome State Fault Refusal :=
  .next (onFrame .claim 3 f .none s)

/-- FENCED (R249, R251). -/
def execFenced (f : Frame) (s : State) : Host.Outcome State Fault Refusal :=
  .next (onFrame .fenced 3 f .none s)

/-- RELINQUISH (R245). -/
def execRelinquish (f : Frame) (s : State) : Host.Outcome State Fault Refusal :=
  .next (onFrame .relinquish 3 f .none s)

/-- HANDOVER (Table 7-7 step 5). -/
def execHandover (f : Frame) (s : State) : Host.Outcome State Fault Refusal :=
  .next (onFrame .handover 3 f .none s)

/-- RING_EXIT (R286, R234): the device that ARG names is out of the ring. -/
def execRingExit (f : Frame) (s : State) : Host.Outcome State Fault Refusal :=
  .next (onFrame .ringExit 3 f .none s)

/-- TICKET_REQUEST (Table 6-2 step 2). -/
def execTicketRequest (f : Frame) (dataMask flags group groupSize cover : Nat) (s : State) :
    Host.Outcome State Fault Refusal :=
  .next (onFrame .ticketRequest 3 f (.ticket dataMask flags group groupSize cover) s)

/-- TICKET_GRANT (Table 6-2 step 3). -/
def execTicketGrant (f : Frame) (s : State) : Host.Outcome State Fault Refusal :=
  .next (onFrame .ticketGrant 3 f .none s)

/-- COMMIT_NOTICE (Table 6-2 step 7, R53). -/
def execCommitNotice (f : Frame) (registry : Option Registry) (s : State) : Host.Outcome State Fault Refusal :=
  .next (onFrame .commitNotice 3 f (.registry registry) s)

/-- DROP_NOTICE (R202). -/
def execDropNotice (f : Frame) (s : State) : Host.Outcome State Fault Refusal :=
  .next (onFrame .dropNotice 3 f .none s)

/-- MIRROR_GROUP (R205, R226). -/
def execMirrorGroup (f : Frame) (records : List JRec) (s : State) : Host.Outcome State Fault Refusal :=
  .next (onFrame .mirrorGroup 3 f (.records records) s)

/-- MIRROR_ACK (R205, R226). -/
def execMirrorAck (f : Frame) (s : State) : Host.Outcome State Fault Refusal :=
  .next (onFrame .mirrorAck 3 f .none s)

/-- RESOLVE (R209). -/
def execResolve (f : Frame) (s : State) : Host.Outcome State Fault Refusal :=
  .next (onFrame .resolve 3 f .none s)

/-- RESOLVE_REPLY (R254). -/
def execResolveReply (f : Frame) (items : List ResolveItem) (commits : List Nat) (s : State) :
    Host.Outcome State Fault Refusal :=
  .next (onFrame .resolveReply 3 f (.resolve items commits) s)

/-- SHERD_DONE (R202). -/
def execSherdDone (f : Frame) (s : State) : Host.Outcome State Fault Refusal :=
  .next (onFrame .sherdDone 3 f .none s)

/-- JOIN_REQUEST (R290, R291). -/
def execJoinRequest (f : Frame) (serial boot : Word) (anchorSeq : Nat) (s : State) :
    Host.Outcome State Fault Refusal :=
  .next (onFrame .joinRequest 3 f (.join serial boot anchorSeq) s)

/-- JOIN_ADMIT (R252, R580). -/
def execJoinAdmit (f : Frame) (states : List (Nat × MemberState)) (missed : List (Nat × Nat)) (commits : List Nat)
    (registry : Option Registry) (s : State) :
    Host.Outcome State Fault Refusal :=
  .next (onFrame .joinAdmit 3 f (.admission states missed commits registry) s)

/-- READ_REQUEST (R579, R580). -/
def execReadRequest (f : Frame) (blocks : List Nat) (s : State) : Host.Outcome State Fault Refusal :=
  .next (onFrame .readRequest 3 f (.blocks blocks) s)

/-- READ_FAIL (R579). -/
def execReadFail (f : Frame) (s : State) : Host.Outcome State Fault Refusal :=
  .next (onFrame .readFail 3 f .none s)

/-- SHERD_REFUSED (R167). -/
def execSherdRefused (f : Frame) (s : State) : Host.Outcome State Fault Refusal :=
  .next (onFrame .sherdRefused 3 f .none s)

/-- CLAIM_ACKNOWLEDGEMENT (R243). -/
def execClaimAcknowledgement (f : Frame) (s : State) : Host.Outcome State Fault Refusal :=
  .next (onFrame .control 3 f .claimAck s)

/-- MEMBER_STATE_RECORD (R580, R216). -/
def execMemberStateRecord (f : Frame) (r : ViewRec) (s : State) : Host.Outcome State Fault Refusal :=
  .next (onFrame .control 3 f (.view r) s)

/-- ADMISSION_DEMAND (Table 12-5 step 2). -/
def execAdmissionDemand (f : Frame) (demand : Nat) (s : State) : Host.Outcome State Fault Refusal :=
  .next (onFrame .control 3 f (.demand demand) s)

/-- ADMISSION_REQUEST (Table 12-5 step 3). -/
def execAdmissionRequest (f : Frame) (request : Nat) (s : State) : Host.Outcome State Fault Refusal :=
  .next (onFrame .control 3 f (.request request) s)

/-- ADMISSION_GRANT (Table 12-5 step 4). -/
def execAdmissionGrant (f : Frame) (grant : Nat) (s : State) : Host.Outcome State Fault Refusal :=
  .next (onFrame .control 3 f (.grant grant) s)

/-- ADMISSION_RATE (Table 12-5 step 5, R418). -/
def execAdmissionRate (f : Frame) (rate : Nat) (s : State) : Host.Outcome State Fault Refusal :=
  .next (onFrame .control 3 f (.rate rate) s)

/-- FORWARDED_ORDER (R395). -/
def execForwardedOrder (f : Frame) (msg : OrderMsg) (s : State) : Host.Outcome State Fault Refusal :=
  .next (onFrame .control 3 f (.order msg) s)

/-- ANCHOR_REQUEST (R146): the next anchor is programmed at once. -/
def execAnchorRequest (f : Frame) (s : State) : Host.Outcome State Fault Refusal :=
  .next (onFrame .control 3 f .anchor s)

/-- SECURE_DISCARD_MEMBER_DONE (Table 2-5 steps 9 and 10). -/
def execSecureDiscardMemberDone (f : Frame) (job : Nat) (report : SdReport) (s : State) :
    Host.Outcome State Fault Refusal :=
  .next (onFrame .control 3 f (.sdDone job report) s)

/-- REBASE_CONTROL (R231). -/
def execRebaseControl (f : Frame) (msg : RebaseMsg) (s : State) : Host.Outcome State Fault Refusal :=
  .next (onFrame .control 3 f (.rebase msg) s)

end Sys2Proof.Machine
end

