-- ==== Sys2Proof/Machine/MailStatus.lean ====
section
/-! DEFINITION. Meanings of the mailbox commands that report: groups 0x00 (identify and status), 0x02 (queues), 0x03
(parameters), 0x04 (logs), and the queries of groups 0x01, 0x07, 0x08 and 0x09 that the device answers itself
(Tables 7-4, 11-7, 11-10, 11-11, 14-7, 17-4, 17-6, 17-8). -/

namespace Sys2Proof.Machine

/-- One byte of a payload. -/
def by1 (v : Nat) : List Byte := leBytes 1 v

/-- Reserved bytes. -/
def rsv (n : Nat) : List Byte := List.replicate n 0

/-! ## Group 0x00 -/

/-- IDENTIFY response (Table 11-7). -/
def identifyWord (s : State) : Nat :=
  let d := s.dp
  fld s.boot.serial.toNat 448 64 + fld (rawBytes d) 384 64 + fld s.dram.bytes 320 64 + fld s.clk.boot 256 64 +
    fld (if s.boot.imageB then s.bed.b.build else s.bed.a.build) 224 32 + fld (dieCount d) 208 16 +
    fld d.kiln.profile.id 192 16 + fld 4 176 16 + fld 4 168 8 + fld 2 160 8 + fld (goodChans d).length 152 8 +
    fld s.boot.straps.rank.val 144 8 + fld 0xB0 136 8 + bit s.boot.straps.bifurc 132 + bit s.boot.imageB 131 +
    bit s.boot.gradeX 130 + bit s.boot.safe 129 + bit s.boot.ready 128

/-- IDENTIFY (R2, Table 11-7). -/
def execIdentify (m : Mbx) (s : State) : Host.Outcome State Fault Refusal :=
  onRequest m 0x0001 (fun _ s => s.answer m (leBytes 64 (identifyWord s))) s

/-- The port whose DEV_STATUS a mailbox reports; the management port reports port A's (notes/assumptions/5.md). -/
def mbxHostPort : Mbx → PortId
  | .host p _ => p
  | .mgmt => .a

/-- DEVICE_STATUS response (Table 11-10, R580). -/
def statusBytes (m : Mbx) (s : State) : List Byte :=
  let d := s.dp
  let r := s.boot.straps.rank.val
  let mine := d.sh.reg.pools.filter (fun p => p.ranks.contains r)
  let sum := mine.foldl (fun n p => n + stateCode (memberState d p.handle r) * 4 ^ p.handle) 0
  leBytes 8 (devStatus s (mbxHostPort m)) ++ by1 s.pwr.state.code ++ by1 mine.length ++ leBytes 64 sum ++
    leBytes 32 (listMask (mine.map PoolRec.handle))

/-- DEVICE_STATUS (R580). -/
def execDeviceStatus (m : Mbx) (s : State) : Host.Outcome State Fault Refusal :=
  onRequest m 0x0002 (fun _ s => s.answer m (statusBytes m s)) s

/-- SESSION_RESET (R399): the session ends and a new one starts. -/
def execSessionReset (m : Mbx) (s : State) : Host.Outcome State Fault Refusal :=
  onRequest m 0x0003 (fun _ s => ((endSession m s).onDp (fun _ => newSession m)).answer m []) s

/-- The time without VIN counts for the age of the data that was there before (R139). -/
def addUnpowered (ns : Nat) (s : State) : State :=
  { s with dp := { s.dp with med := { s.dp.med with
      rows := s.dp.med.rows.map (fun (r : Row) => if r.writtenAt = 0 then { r with age := r.age + ns } else r) } } }

/-- TIME_PIN (R521): UTC at device time 0 of this boot. -/
def execTimePin (m : Mbx) (s : State) : Host.Outcome State Fault Refusal :=
  onRequest m 0x0004 (fun r s =>
    let utc := fieldAt r.payload 0 8
    let lost := s.clk.lostAt
    let s := { s with clk := { s.clk with
        pin := some ((utc + 2 ^ 64 - s.clk.time % 2 ^ 64) % 2 ^ 64)
        pinErr := 0
        lostAt := none } }
    let s := match lost with
      | some t => addUnpowered ((utc + 2 ^ 64 - s.clk.time % 2 ^ 64) % 2 ^ 64 - t) s
      | none => s
    s.answer m (leBytes 8 s.clk.boot ++ leBytes 8 s.clk.time)) s

/-- TIME_QUERY (R521). -/
def execTimeQuery (m : Mbx) (s : State) : Host.Outcome State Fault Refusal :=
  onRequest m 0x0005 (fun _ s =>
    s.answer m (by1 s.clk.pin.isSome.toNat ++ rsv 7 ++ leBytes 8 (s.clk.pin.getD 0) ++ leBytes 8 s.clk.pinErr)) s

/-! ## Pools (group 0x01) -/

/-- A pool that POOL_QUERY and the status commands report. -/
def shownPool (s : State) (h : Nat) : Option PoolRec :=
  (s.dp.sh.reg.pool h).filter (fun p => p.state != .creating)

/-- The state a pool reports (Table 2-2). -/
def poolCode (s : State) (p : PoolRec) : Nat :=
  if p.state = .online && readOnly s.env s.dp p then PoolState.code .readOnly else PoolState.code p.state

/-- The rank known to stand by for a pool: this steward's own, this device, or one whose heartbeats say so. -/
def standbyOf (s : State) (h : Nat) : Option Nat :=
  let d := s.dp
  if isSteward d h then (d.roleD h).standby
  else if isStandby d h then some s.boot.straps.rank.val
  else (List.range 16).find? (fun r => present s.env d r &&
    (d.peer r).roles.any (fun x => x.pool = h && x.standby))

/-- POOL_QUERY response. -/
def poolBytes (s : State) (p : PoolRec) : List Byte :=
  let r := s.boot.straps.rank.val
  let st := stewardOf s.env s.dp p.handle
  let sb := standbyOf s p.handle
  let lease := leaseAt s.dp.sh.reg s.clk.time p.handle
  leBytes 16 p.uuid.toNat ++ leBytes 8 p.cap ++ leBytes 8 (if p.ranks.contains r then mapDram p.lay p.iu r else 0) ++
    leBytes 8 s.dram.bytes ++ leBytes 8 ((p.reshape.map Reshape.tidemark).getD 0) ++ by1 (poolCode s p) ++ by1 p.iu ++
    by1 p.sherd ++ by1 p.floor ++ by1 (st.getD 0xFF) ++ by1 (sb.getD 0xFF) ++
    by1 (bit (st.isSome && sb.isNone) 0 + bit p.tags 1 + bit (exhausted s.env s.dp p.handle) 2) ++
    by1 ((lease.map Lease.holder).getD 0xFF)

/-- POOL_QUERY (R41). -/
def execPoolQuery (m : Mbx) (s : State) : Host.Outcome State Fault Refusal :=
  onRequest m 0x0104 (fun r s =>
    match shownPool s (fieldAt r.payload 0 1) with
    | some p => s.answer m (poolBytes s p)
    | none => s.deny m msNoPool 0) s

/-- POOL_LIST (R41): the registry pool's bit is 0. -/
def execPoolList (m : Mbx) (s : State) : Host.Outcome State Fault Refusal :=
  onRequest m 0x0105 (fun _ s =>
    let l := (s.dp.sh.reg.pools.filter (fun p => p.handle != 0 && p.state != .creating)).map PoolRec.handle
    s.answer m (leBytes 32 (listMask l))) s

/-- RESHAPE_STATUS (R41, R219). -/
def execReshapeStatus (m : Mbx) (s : State) : Host.Outcome State Fault Refusal :=
  onRequest m 0x0107 (fun r s =>
    match (shownPool s (fieldAt r.payload 0 1)).filter (fun p => p.handle != 0) with
    | none => s.deny m msNoPool 0
    | some p => match p.reshape with
      | none => s.answer m (leBytes 8 0 ++ leBytes 8 0 ++ by1 0)
      | some x => s.answer m (leBytes 8 x.tidemark ++ leBytes 8 x.rows ++ by1 (if x.paused || p.ranks.any (fun r => memberState s.dp p.handle r != .current) then 2 else 1))) s

/-- STATE of a job (Table 2-6). -/
def jobCode : JobState → Nat
  | .identifying => 1
  | .reparity => 2
  | .relocating => 3
  | .erasing => 4
  | .waitingMember => 5
  | .done => 6
  | .donePartial => 7

/-- A job status record (Table 2-6). -/
def jobWord (j : SdJob) : Nat :=
  fld j.pendingMask 224 16 + fld j.rowsDone 192 32 + fld j.rowsTotal 160 32 + fld j.blocksDone 128 32 +
    fld j.blocksTotal 96 32 + fld j.elapsedMs 64 32 + fld (jobCode j.state) 56 8 + fld j.pool 48 8 + fld j.id 0 32

/-- SECURE_DISCARD_STATUS (R67, R68). -/
def execSecureDiscardStatus (m : Mbx) (s : State) : Host.Outcome State Fault Refusal :=
  onRequest m 0x0108 (fun r s =>
    let s := s.onDp sdTick
    match s.dp.sh.reg.jobs.find? (fun j => j.id = fieldAt r.payload 0 4) with
    | some j => s.answer m (leBytes 32 (jobWord j))
    | none => s.deny m msNoJob 0) s

/-! ## Queues (group 0x02) -/

/-- QUEUE_QUERY response: tags outstanding, bit per tag, and the number of recorded doorbells. -/
def queueBytes (d : Dp) (p : PortId) (q : Nat) : List Byte :=
  let x := d.queueD p q
  let l := d.queueCmds p q
  by1 x.st.code ++ by1 x.phase.toNat ++ leBytes 2 x.pos ++ leBytes 4 (listMask (l.map (fun c => c.key.tag))) ++
    leBytes 4 (l.filter (fun c => c.stage = .recorded)).length

/-- QUEUE_QUERY (R578). -/
def execQueueQuery (m : Mbx) (s : State) : Host.Outcome State Fault Refusal :=
  onRequest m 0x0201 (fun r s => s.answer m (queueBytes s.dp (mbxHostPort m) (fieldAt r.payload 0 2))) s

/-- QUEUE_STATS (R578). -/
def execQueueStats (m : Mbx) (s : State) : Host.Outcome State Fault Refusal :=
  onRequest m 0x0202 (fun r s =>
    let x := s.dp.queueD (mbxHostPort m) (fieldAt r.payload 0 2)
    s.answer m (leBytes 8 x.nCmds ++ leBytes 8 x.nBytes ++ leBytes 8 x.nErrors ++ leBytes 8 x.nIgnored)) s

/-! ## Parameters (group 0x03; R390 to R393) -/

/-- A parameter page entry (Table 11-11). -/
def paramWord (s : State) (r : ParamDef) : Nat :=
  let v := s.param r.id
  fld v 192 64 + fld (s.par.pend.get v r.id) 128 64 + fld r.max 96 32 + fld r.min 64 32 + fld r.id 48 16 +
    fld r.type 40 8 + fld r.effect 38 2 + bit r.persist 37 + bit r.shoal 36

/-- PARAM_PAGE_GET (R390). -/
def execParamPageGet (m : Mbx) (s : State) : Host.Outcome State Fault Refusal :=
  onRequest m 0x0301 (fun r s =>
    let ss := fieldAt r.payload 0 1
    s.answer m ((paramTable.filter (fun x => x.id / 256 = ss)).flatMap (fun x => leBytes 32 (paramWord s x)))) s

/-- A value lies in a parameter's range (R392); V_PLP lies below the VIN measured (R393). -/
def paramInRange (s : State) (r : ParamDef) (v : Nat) : Bool :=
  r.min ≤ v && v ≤ r.max && (r.steps.isEmpty || r.steps.contains v) && (r.id != 0x0E03 || v < s.pwr.vinMv)

/-- A die-stripe width would leave less provisionable capacity than is provisioned on this member (R149). -/
def widthShort (s : State) (w : Nat) : Bool :=
  let d := s.dp
  provisionable s.env d (min w (goodChans d).length) < residentOf d.sh.reg s.boot.straps.rank.val

/-- The first entry that fails its range or its authority, or a die-stripe width its capacity (R149), with its status (R391). -/
def paramError (s : State) (m : Mbx) (o : Order) : Option (Nat × Nat) :=
  (paramEntries o.opcode o.payload).zipIdx.findSome? (fun x =>
    match paramDef x.1.1 with
    | none => some (msParam, x.2)
    | some r =>
      if !paramInRange s r x.1.2 then some (msParam, x.2)
      else if !classOk s.dp m r.auth then some (msAuthority, x.2)
      else if r.shoal && !(leaseAt s.dp.sh.reg s.clk.time 0).any (fun l => l.holder = holderOf o) then
        some (msAuthority, x.2)
      else if x.1.1 = 0x0301 && widthShort s x.1.2 then some (msNoCapacity, x.2)
      else none)

/-- PARAM_SET and PARAM_DEFAULT: every entry is checked before any is applied; shoal parameters commit in the registry pool
first. -/
def setParams (m : Mbx) (r : MbReq) (s : State) : State :=
  let o := mailOrder s.env m (s.dp.mail m) r
  match paramError s m o with
  | some (st, i) => s.deny m st i
  | none =>
    if (paramEntries r.opcode r.payload).any (fun x => (paramDef x.1).any ParamDef.shoal) then s.forward m
    else applyParams r (some m) s

/-- PARAM_SET (R391). -/
def execParamSet (m : Mbx) (s : State) : Host.Outcome State Fault Refusal :=
  onRequest m 0x0302 (fun r s => setParams m r s) s

/-- PARAM_DEFAULT (R391). -/
def execParamDefault (m : Mbx) (s : State) : Host.Outcome State Fault Refusal :=
  onRequest m 0x0303 (fun r s => setParams m r s) s

/-! ## Logs (group 0x04) -/

/-- A Strandline record's 256 bits (Table 17-4). -/
def logWord (r : LogRec) : Nat :=
  fld r.args.toNat 128 128 + fld r.seqn 96 32 + fld r.source 88 8 + fld r.sev 80 8 + fld r.code 64 16 + fld r.time 0 64

/-- How many records before the next to be written a sequence stands; sequences wrap (R548). -/
def seqAge (io : Io) (q : Nat) : Nat := (io.nextSeq + 2 ^ 32 - q) % 2 ^ 32

/-- The records STRANDLINE_READ returns (R549): one that lies ahead of the ring names none, one overwritten names the
oldest. -/
def logPick (io : Io) (first n least : Nat) : List LogRec :=
  let a := seqAge io first
  if 2 ^ 31 ≤ a then [] else (io.ring.filter (fun r => seqAge io r.seqn ≤ a && least ≤ r.sev)).take n

/-- STRANDLINE_READ (R549, R550): records returned to the management port no longer hold SMB_ALERT_N. -/
def execStrandlineRead (m : Mbx) (s : State) : Host.Outcome State Fault Refusal :=
  onRequest m 0x0401 (fun r s =>
    let l := logPick s.dp.io (fieldAt r.payload 0 4) (fieldAt r.payload 4 2) (fieldAt r.payload 6 1)
    let seen := l.map LogRec.seqn
    let s := if m = .mgmt then s.onDp (fun _ d => { d with io := { d.io with
        alert := d.io.alert.filter (fun q => !seen.contains q) } }) else s
    let det := (l.head?.map LogRec.seqn).getD s.dp.io.nextSeq
    s.onDp (fun e => respond e m msSuccess det (l.flatMap (fun r => leBytes 32 (logWord r))))) s

/-- An error log entry's 256 bits (Table 17-6). -/
def errWord (x : ErrEntry) : Nat :=
  fld x.time 192 64 + fld x.boot 160 32 + fld x.blocks 128 32 + fld x.lba 64 48 + fld x.pool 40 8 + fld x.cause 32 8 +
    fld x.rank 24 8 + bit x.widened 16

/-- ERROR_LOG_READ (R551). -/
def execErrorLogRead (m : Mbx) (s : State) : Host.Outcome State Fault Refusal :=
  onRequest m 0x0402 (fun r s =>
    let l := (s.dp.sh.reg.errlog.drop (fieldAt r.payload 0 2)).take (fieldAt r.payload 2 2)
    s.answer m (l.flatMap (fun x => leBytes 32 (errWord x)))) s

/-- ERROR_LOG_CLEAR (R553). -/
def execErrorLogClear (m : Mbx) (s : State) : Host.Outcome State Fault Refusal :=
  onRequest m 0x0403 (fun _ s => s.forward m) s

/-- Counters of each subsystem (Table 17-8). -/
def counterCount : Nat → Nat
  | 1 => 7 | 2 => 5 | 3 => 7 | 4 => 8 | 5 => 17 | 6 => 7 | 7 => 5 | 8 => 20 | 9 => 2
  | 10 => 4 | 11 => 4 | 12 => 16 | 13 => 3 | 14 => 6 | 15 => 4
  | _ => 0

/-- Counters whose events no command carries (Config.freeCount). -/
def untracked (ss i : Nat) : Bool := (ss = 1 && (i = 2 || i = 3)) || (ss = 8 && i % 5 ≤ 1)

/-- A counter as COUNTERS_READ reports it. -/
def counterValue (io : Io) (ss i : Nat) : Nat :=
  let v := io.counters.get 0 (ss * 256 + i)
  if untracked ss i then satAdd (2 ^ 64 - 1) v (Config.freeCount ss i io.fresh) else v

/-- Codes of Table 14-5 and Table 14-7. -/
def Owner.code : Owner → Nat
  | .fw => 0
  | .wstage => 1
  | .rstage => 2
  | .journal => 3
  | .log => 4
  | .parity => 5
  | .system => 6

def BankSt.code : BankSt → Nat
  | .active => 0
  | .retention => 1
  | .gated => 2
  | .initialising => 3
  | .offline => 4

/-- Bank status word (Table 14-7). CONFLICTS counts the waits of the accesses that commands of the table make, and those of the others, which
no command carries, as a free value (R485; notes/assumptions/26.md). -/
def padWord (io : Io) (n : Nat) (x : Pad) : Nat :=
  fld x.owner.code 60 4 + fld x.st.code 57 3 + bit x.repairBad 56 + fld x.used 50 6 + fld (32 - x.used) 44 6 +
    fld x.corrected 28 12 + fld (satAdd (2 ^ 28 - 1) x.conflicts (Config.freeCount 13 (256 + n) io.fresh)) 0 28

/-- COUNTERS_READ (R487, R555): the bank status words clear their counts as they are read. -/
def execCountersRead (m : Mbx) (s : State) : Host.Outcome State Fault Refusal :=
  onRequest m 0x0404 (fun r s =>
    let ss := fieldAt r.payload 0 1
    let words := if ss = 13 then s.pads.banks.flatMap (fun b => leBytes 8 (padWord s.dp.io b.1 b.2)) else []
    let l := (List.range (counterCount ss)).flatMap (fun i => leBytes 8 (counterValue s.dp.io ss i))
    let s := s.onDp (fun _ d => (draw d).2)
    let s := if ss = 13 then { s with pads := { s.pads with
        banks := s.pads.banks.map (fun (b : Nat × Pad) => (b.1, { b.2 with
          corrected := 0, conflicts := 0 })) } } else s
    s.answer m (words ++ l)) s

/-! ## Queries of groups 0x07, 0x08 and 0x09 -/

/-- One rank's entry of SHOAL_QUERY; all zero for a rank outside the membership and not present. -/
def rankEntry (s : State) (r : Nat) : List Byte :=
  let d := s.dp
  let own := r = s.boot.straps.rank.val
  let here := present s.env d r
  let mem := d.sh.reg.member r
  if mem.isNone && !here then rsv 16
  else
    let p := d.peer r
    let serial := match mem with
      | some x => x.serial.toNat
      | none => if own then s.boot.serial.toNat else p.serial.toNat
    let boot := if own then s.clk.boot else p.boot.toNat
    let ready := if own then s.boot.ready else here && p.flags.getLsbD 0
    leBytes 8 serial ++ leBytes 4 boot ++
      by1 (bit here 0 + bit ready 1 + bit (mem.any MemberRec.spare) 2 + bit (mem.any MemberRec.retired) 3) ++ rsv 3

/-- SHOAL_QUERY (R578). -/
def execShoalQuery (m : Mbx) (s : State) : Host.Outcome State Fault Refusal :=
  onRequest m 0x0701 (fun _ s =>
    let g := s.dp.sh.reg
    s.answer m (by1 g.n ++ leBytes 2 (listMask (memberRanks g)) ++ rsv 13 ++
      (List.range 16).flatMap (rankEntry s))) s

/-- A Seawall entry (Table 7-4). -/
def seaWord (x : SeaEntry) : Nat := fld x.raisedAt 64 64 + fld x.claim.toNat 32 32 + fld x.source 24 8 + fld x.refusals 0 16

/-- SEAWALL_QUERY (R247). -/
def execSeawallQuery (m : Mbx) (s : State) : Host.Outcome State Fault Refusal :=
  onRequest m 0x0702 (fun r s =>
    let first := fieldAt r.payload 0 2
    s.answer m ((List.range (fieldAt r.payload 2 2)).flatMap (fun i =>
      leBytes 16 (seaWord (s.dp.sea (first + i)))))) s

/-- POWER_QUERY (R578). -/
def execPowerQuery (m : Mbx) (s : State) : Host.Outcome State Fault Refusal :=
  onRequest m 0x0801 (fun _ s =>
    s.answer m (by1 s.pwr.state.code ++ rsv 3 ++ leBytes 4 s.pwr.powerMw ++ leBytes 2 (tjField s.pwr.tj))) s

/-- HOLDUP_QUERY (R577). -/
def execHoldupQuery (m : Mbx) (s : State) : Host.Outcome State Fault Refusal :=
  onRequest m 0x0803 (fun _ s =>
    let c := s.pwr.cap.getD (0, 0)
    let e := s.env
    s.answer m (leBytes 4 c.1 ++ leBytes 4 (energyMj e s.dp s.pwr) ++ leBytes 8 s.dp.bw.gLim ++ leBytes 8 c.2 ++
      leBytes 4 (tProgMaxUs s.dp.kiln.profile) ++ leBytes 4 (pLtMw e s.dp))) s

/-- SELFTEST_RESULT (R188). -/
def execSelftestResult (m : Mbx) (s : State) : Host.Outcome State Fault Refusal :=
  onRequest m 0x0903 (fun _ s => s.answer m ((List.range 4).flatMap (fun i => by1 (s.boot.selftest.getD i 0)))) s

end Sys2Proof.Machine
end

