-- ==== Sys2Proof/Machine/Gauge.lean ====
section
/-! DEFINITION. Tidegauge (R401 to R417, R420): fixed-point arithmetic, the law, selector groups, the mailbox commands of group 0x0A, and
trace buffers. -/

namespace Sys2Proof.Machine

/-! ## Fixed point (R402) -/

/-- Saturate to a signed 32-bit, or 64-bit, value. -/
def sat32 (v : Int) : Int := max (-2 ^ 31) (min (2 ^ 31 - 1) v)
def sat64 (v : Int) : Int := max (-2 ^ 63) (min (2 ^ 63 - 1) v)

/-- Shift right 16, rounded to nearest, ties away from zero. -/
def round16 (v : Int) : Int := if 0 ≤ v then (v + 32768) / 65536 else -((-v + 32768) / 65536)

def fixAdd (a b : Int) : Int := sat32 (a + b)
def fixSub (a b : Int) : Int := sat32 (a - b)
def fixMul (a b : Int) : Int := sat32 (round16 (a * b))

/-- q16 of the law: a Q32.32 value as Q16.16. -/
def q16 (v : Int) : Int := sat32 (round16 v)

/-- Clamp to limits. -/
def clampTo (lo hi v : Int) : Int := max lo (min hi v)

/-- A 32-bit field as a signed value, and a signed value as a field. -/
def signed (n : Nat) : Int := (BitVec.ofNat 32 n).toInt
def field32 (v : Int) : Nat := (v % 2 ^ 32).toNat

/-! ## Slots and groups (R406) -/

/-- The record of a slot. -/
def Tide.loop (t : Tide) (n : Nat) : Loop := t.loops.get (Loop.shipped n) n

def State.onLoop (n : Nat) (f : Loop → Loop) (s : State) : State :=
  { s with tide := { s.tide with loops := s.tide.loops.put n (f (s.tide.loop n)) } }

/-- Output of a slot. -/
def outOf (t : Tide) (n : Nat) : Int := (t.loop n).output

/-- Member intake U_r in Q16.16 GB/s: the lower of slots 0 and 1. -/
def intakeOf (t : Tide) : Int := min (outOf t 0) (outOf t 1)

/-- Activity of zone lever Z0 to Z6: the lowest of its own slot, slot 10 and slot 11. -/
def zoneOf (t : Tide) (z : Nat) : Int := min (outOf t (3 + z)) (min (outOf t 10) (outOf t 11))

/-- Values of the actuators that a slot feeds. -/
def actuatorsOf (t : Tide) (n : Nat) : List Int :=
  if n < 2 then [intakeOf t]
  else if 3 ≤ n && n < 10 then [zoneOf t (n - 3)]
  else if n = 10 || n = 11 then (List.range 7).map (zoneOf t)
  else []

/-- The upper limit of an unselected slot of a group: the highest value of its actuators. -/
def groupOut (t : Tide) (n : Nat) : Int :=
  match actuatorsOf t n with
  | [] => 0
  | a :: l => l.foldl max a

/-- SELECTED of every slot of a group. -/
def markSelected (t : Tide) : Tide :=
  { t with loops := t.loops.map (fun (x : Nat × Loop) =>
      (x.1, { x.2 with selected := (actuatorsOf t x.1).contains x.2.output })) }

/-- 1.0 in Q16.16. -/
def one16 : Int := 65536

/-- A zone's activity changes: its first fall below 1.0 after at least 1 s at 1.0 is told (R420). -/
def noteZone (z : Nat) (s : State) : State :=
  let now := s.clk.time
  let was := s.tide.zones.get (true, s.boot.startAt) z
  let at1 : Bool := one16 ≤ zoneOf s.tide z
  if was.1 = at1 then s
  else
    let s := { s with tide := { s.tide with zones := s.tide.zones.put z (at1, now) } }
    if was.1 && was.2 + second ≤ now then (s.cause evThermal).log 0x0903 3 srcTide [z] else s

/-- Outputs reach the actuators: the intake, the levers of the zones (Table 12-6), and with slot 2 the greenware limit. -/
def applyOutputs (s : State) : State :=
  let s := { s with tide := markSelected s.tide }
  let s := { s with dp := { s.dp with bw := { s.dp.bw with
    intake := ((intakeOf s.tide).toNat * 1000000000) / 65536
    acts := tabOf 7 (fun z => (zoneOf s.tide z).toNat) } } }
  let s := (List.range 7).foldl (fun s z => noteZone z s) s
  s.onDp (fun e => setLimit e ((outOf s.tide 2).toNat * 16384))

/-! ## Inputs (Table 12-4) -/

/-- A fraction in Q16.16. -/
def ratio16 (a b : Nat) : Int := sat32 ((a * 65536 / b : Nat) : Int)

/-- The input of a slot: slots 0 to 2 read the device's own figures, the others a sensor. Greenware over a limit of 0 is a value that the
spec does not state. -/
def inputOf (s : State) (n : Nat) (pv : Option (BitVec 32)) : Option Int :=
  if n = 0 then some (ratio16 (bisqueUsed s.dp) (bisqueSize s.env s.dp))
  else if n = 1 then
    if s.dp.bw.gLim = 0 then some (signed (Config.freeCount 9 1 s.dp.io.fresh))
    else some (ratio16 (greenHeld s.dp) s.dp.bw.gLim)
  else if n = 2 then some (sat32 ((s.dp.bw.gLim / 16384 : Nat) : Int))
  else pv.map BitVec.toInt

/-- Slot 2 recomputes G_safe at each sample: its setpoint and its upper limit (R416, R417). -/
def holdupLimits (s : State) (l : Loop) : Loop :=
  { l with
    setpoint := sat32 ((gSafe s.env s.dp s.pwr / 16384 : Nat) : Int)
    outMax := ((gTop s.env s.dp s.pwr / 16384 : Nat) : Int) }

/-! ## The law -/

/-- What one evaluation gives: the slot after it, with its proportional term. -/
structure Evaluated where
  loop : Loop
  err  : Int
  prop : Int
deriving DecidableEq, Repr

/-- One sample of the law (R404 to R406, R409); `top` is the upper limit of an unselected slot's group. The sample that re-closes a slot
takes its integrator from the held output, adds nothing to it, and puts the held output out again, within the limits
(notes/assumptions/24.md). -/
def law (l : Loop) (top : Option Int) (pv : Int) : Evaluated :=
  let err := fixSub l.setpoint pv
  let d := if l.pid && !l.first then fixMul l.kd (fixSub l.pvPrev pv) else 0
  let dfilt := if l.first then 0 else fixAdd l.dfilt (fixMul l.dAlpha (fixSub d l.dfilt))
  let hi := match top with
    | some g => min l.outMax g
    | none => l.outMax
  let lo := l.outMin
  let prop := fixMul l.kp err
  let integ := if l.reclose then (clampTo lo hi l.output - prop) * 65536 else l.integ
  let step := sat64 (integ + l.ki * err)
  let try_ := fixAdd (fixAdd prop (q16 step)) dfilt
  let hold : Bool := (hi < try_ && 0 < err) || (try_ < lo && err < 0)
  let integ := if hold || l.reclose then integ else step
  let raw := if l.reclose then l.output else fixAdd (fixAdd prop (q16 integ)) dfilt
  { loop := { l with
      pv := pv, pvPrev := pv, integ := integ, dfilt := dfilt, output := clampTo lo hi raw, intHeld := hold,
      satHi := hi < raw, satLo := raw < lo, first := false, reclose := false }
    err := err, prop := prop }

/-! ## Traces (R413, R414) -/

/-- Samples a buffer holds. -/
def traceMax : Nat := 4096

/-- FLAGS of a slot record (Table 12-1). -/
def loopFlags (l : Loop) : Nat :=
  bit l.satHi 0 + bit l.satLo 1 + bit l.intHeld 2 + bit l.selected 3 + bit l.fixed 4

/-- The trigger of an armed buffer holds at a sample; an event counts from the arming on. -/
def triggered (ring : List LogRec) (t : Trace) (x : Sample) (l : Loop) : Bool :=
  match t.trigger with
  | 0 => true
  | 1 => l.satHi || l.satLo
  | 2 => t.thresh.toInt < x.e.natAbs
  | _ => ring.any (fun r => r.code = t.thresh.toNat % 65536 && (r.seqn + 2 ^ 32 - t.armSeq) % 2 ^ 32 < 2 ^ 31)

/-- A buffer takes a sample. -/
def traceTake (ring : List LogRec) (x : Sample) (l : Loop) (t : Trace) : Trace :=
  if !(t.st = .armed || t.st = .filling) then t
  else
    let kept := t.samples.drop (t.samples.length - t.pre)
    let t := if t.st = .armed && triggered ring t x l then
        { t with st := .filling, samples := kept, trigAt := kept.length, skip := 0 }
      else t
    if t.skip != 0 then { t with skip := t.skip - 1 }
    else
      let t := { t with skip := t.decim - 1, samples := t.samples ++ [x] }
      if t.samples.length < traceMax then t
      else if t.cont && (t.st = .armed || t.trigger = 0) then { t with samples := t.samples.drop (t.samples.length - traceMax) }
      else { t with st := .full }

/-- Every buffer that traces a slot takes its sample. -/
def traceAll (n : Nat) (x : Sample) (s : State) : State :=
  let ring := s.dp.io.ring
  let l := s.tide.loop n
  { s with tide := { s.tide with traces := s.tide.traces.map (fun (t : Nat × Trace) =>
      if t.2.slot = n then (t.1, traceTake ring x l t.2) else t) } }

/-! ## Samples (R403, R404, R412) -/

/-- Slots sample in Flood, Slack and Neap. -/
def gaugeRuns (s : State) : Bool :=
  s.pwr.state = .flood || s.pwr.state = .slack || s.pwr.state = .neap

/-- The latest instant of a slot, n × PERIOD_US + slot µs, that has come. -/
def dueAt (now n period : Nat) : Option Nat :=
  if now < n * 1000 then none else some ((now - n * 1000) / (period * 1000) * (period * 1000) + n * 1000)

/-- Instants since the last sample that had none (R403). -/
def skipped (l : Loop) (t : Nat) : Nat :=
  match l.lastAt with
  | some p => if l.first then 0 else (t - p) / (l.periodUs * 1000) - 1
  | none => 0

/-- Instants that were skipped are counted and logged. -/
def noteSkips (n k : Nat) (s : State) : State :=
  if k = 0 then s
  else
    let s := s.onLoop n (fun l => { l with overruns := min (2 ^ 32 - 1) (l.overruns + k) })
    (s.log 0x0907 3 srcTide [n]).onDp (fun _ => count 9 0 k)

/-- The output of a thermal slot in HOLD: the lowest of the other thermal slots (R412). -/
def heldOutput (t : Tide) (n : Nat) : Int :=
  if 3 ≤ n && n ≤ 10 then
    ((List.range 8).map (· + 3)).foldl (fun (v : Int) i => if i = n then v else min v (outOf t i)) (2 ^ 31 - 1)
  else outOf t n

/-- One sample of a slot, by its state. -/
def sampleLoop (n : Nat) (pv : Option Int) (s : State) : State :=
  let l := s.tide.loop n
  let top := if l.group != 0 && !l.selected then some (groupOut s.tide n) else none
  match l.st, pv with
  | .closed, some v => s.onLoop n (fun l => (law l top v).loop)
  | .closed, none =>
    (s.onLoop n (fun l => { l with st := .hold, valid := 0, output := heldOutput s.tide n })).log 0x0908 4 srcTide [n]
  | .hold, some v =>
    s.onLoop n (fun l => if 15 ≤ l.valid then { l with st := .closed, valid := 0, pv := v, reclose := true, first := true }
      else { l with valid := l.valid + 1, pv := v, output := heldOutput s.tide n })
  | .hold, none => s.onLoop n (fun l => { l with valid := 0, output := heldOutput s.tide n })
  | .opened, some v => s.onLoop n (fun l => { l with pv := v })
  | _, _ => s

/-- LOOP_SAMPLE (R403): the instant that has come is sampled once, the law is evaluated and the output applied. -/
def execLoopSample (slot : Fin 32) (pv : Option (BitVec 32)) (s : State) : Host.Outcome State Fault Refusal :=
  let n := slot.val
  let l := s.tide.loop n
  if !gaugeRuns s || l.st = .unused then .next s
  else match dueAt s.clk.time n l.periodUs with
    | none => .next s
    | some t =>
      if l.lastAt.any (fun p => t ≤ p) then .next s
      else
        let k := skipped l t
        let s := noteSkips n k s
        let s := if n = 2 then s.onLoop 2 (holdupLimits s) else s
        let v := inputOf s n pv
        let s := s.onDp (fun _ d => (draw d).2)
        let s := sampleLoop n v s
        let s := s.onLoop n (fun l => { l with samples := (l.samples + 1) % 2 ^ 32, lastAt := some t })
        let s := applyOutputs s
        let y := s.tide.loop n
        let err := fixSub y.setpoint y.pv
        let x : Sample :=
          { time := t, slot := n
            flags := loopFlags y + bit (y.st = .opened) 5 + bit (k != 0) 6
            seqn := y.samples % 65536, pv := y.pv, e := err, p := fixMul y.kp err, i := q16 y.integ, d := y.dfilt,
            u := y.output }
        .next (traceAll n x s)

/-! ## Mailbox commands (Table 12-2) -/

/-- Codes of Table 12-1. -/
def LoopSt.code : LoopSt → Nat
  | .unused => 0
  | .closed => 1
  | .opened => 2
  | .hold => 3

/-- The record of Table 12-1, 64 bytes. -/
def loopRecord (n : Nat) (l : Loop) : List Byte :=
  leBytes 64 (fld (field32 l.kp) 480 32 + fld (field32 l.ki) 448 32 + fld (field32 l.kd) 416 32 +
    fld (field32 l.dAlpha) 384 32 + fld (field32 l.setpoint) 352 32 + fld (field32 l.outMin) 320 32 +
    fld (field32 l.outMax) 288 32 + fld (field32 l.pv) 256 32 + fld (field32 (q16 l.integ)) 224 32 +
    fld (field32 l.output) 192 32 + fld l.periodUs 160 32 + fld l.overruns 128 32 + fld l.samples 96 32 +
    fld l.input 48 8 + fld l.actuator 40 8 + fld l.group 32 8 + fld (if l.st = .unused then 0 else if l.pid then 2 else 1) 24 8 +
    fld l.st.code 16 8 + fld (loopFlags l) 8 8 + fld n 0 8)

/-- Respond with a slot's record. -/
def answerLoop (m : Mbx) (n : Nat) (s : State) : State := s.answer m (loopRecord n (s.tide.loop n))

/-- LOOP_QUERY (R401). -/
def execLoopQuery (m : Mbx) (s : State) : Host.Outcome State Fault Refusal :=
  onRequest m 0x0A01 (fun r s => answerLoop m (fieldAt r.payload 0 1) s) s

/-- LOOP_OPEN (R407, R410): a CLOSED slot's output is held, at MANUAL_OUT where it is given. -/
def execLoopOpen (m : Mbx) (s : State) : Host.Outcome State Fault Refusal :=
  onRequest m 0x0A02 (fun r s =>
    let n := fieldAt r.payload 0 1
    let l := s.tide.loop n
    if l.st = .unused then s.deny m msField 0
    else if l.fixed then s.deny m msAuthority 0
    else if l.st != .closed then s.deny m msField 0
    else
      let v := if fieldAt r.payload 1 1 % 2 = 1 then clampTo l.outMin l.outMax (signed (fieldAt r.payload 4 4)) else l.output
      let s := s.onLoop n (fun l => { l with st := .opened, output := v })
      let s := extendMeas 7 (leBytes 2 0x0A02 ++ leBytes 1 n) s
      answerLoop m n (applyOutputs (s.log 0x0905 2 srcTide [n]))) s

/-- A slot whose setpoint a parameter sets (R410). -/
def bound (n : Nat) : Bool := 3 ≤ n && n ≤ 11

/-- LOOP_COEFF (R408, R410): an OPEN slot takes new coefficients and limits. -/
def execLoopCoeff (m : Mbx) (s : State) : Host.Outcome State Fault Refusal :=
  onRequest m 0x0A03 (fun r s =>
    let n := fieldAt r.payload 0 1
    let l := s.tide.loop n
    let f (i : Nat) : Int := signed (fieldAt r.payload (4 + 4 * i) 4)
    let period := fieldAt r.payload 32 4
    if l.st = .unused then s.deny m msField 0
    else if l.fixed then s.deny m msAuthority 0
    else if l.st != .opened then s.deny m msField 1
    else if f 6 < f 5 || f 3 < 0 || one16 < f 3 || period < 10 || 1000000 < period then s.deny m msField 2
    else
      answerLoop m n (s.onLoop n (fun l => { l with
        kp := f 0, ki := f 1, kd := f 2, dAlpha := f 3, setpoint := if bound n then l.setpoint else f 4,
        outMin := f 5, outMax := f 6, periodUs := period }))) s

/-- LOOP_CLOSE (R409): the next sample closes the loop without a step. -/
def execLoopClose (m : Mbx) (s : State) : Host.Outcome State Fault Refusal :=
  onRequest m 0x0A04 (fun r s =>
    let n := fieldAt r.payload 0 1
    if (s.tide.loop n).st != .opened then s.deny m msField 0
    else answerLoop m n (closeLoop n s)) s

/-- TRACE_ARM (R414): the buffer's content goes; with trigger 0 it fills at once. -/
def execTraceArm (m : Mbx) (s : State) : Host.Outcome State Fault Refusal :=
  onRequest m 0x0A10 (fun r s =>
    let p := r.payload
    let n := fieldAt p 1 1
    if (s.tide.loop n).st = .unused then s.deny m msField 0
    else
      let id := s.tide.nextArm
      let t : Trace :=
        { armId := id, st := if fieldAt p 2 1 = 0 then .filling else .armed, slot := n, trigger := fieldAt p 2 1,
          cont := fieldAt p 3 1 = 1, decim := fieldAt p 4 2, pre := fieldAt p 6 2,
          thresh := BitVec.ofNat 32 (fieldAt p 8 4), skip := 0, samples := [], trigAt := 0,
          armSeq := s.dp.io.nextSeq }
      let s := { s with tide := { s.tide with
        traces := s.tide.traces.put (fieldAt p 0 1) t, nextArm := (id + 1) % 2 ^ 32 } }
      s.answer m (leBytes 4 id)) s

/-- Codes of a trace buffer's states (Table 12-2). -/
def TraceSt.code : TraceSt → Nat
  | .idle => 0
  | .armed => 1
  | .filling => 2
  | .full => 3

/-- A trace sample, 32 bytes (Table 12-3). -/
def sampleBytes (x : Sample) : List Byte :=
  leBytes 32 (fld x.time 224 32 + fld x.slot 216 8 + fld x.flags 208 8 + fld x.seqn 192 16 + fld (field32 x.pv) 160 32 +
    fld (field32 x.e) 128 32 + fld (field32 x.p) 96 32 + fld (field32 x.i) 64 32 + fld (field32 x.d) 32 32 +
    fld (field32 x.u) 0 32)

/-- TRACE_READ (R414). -/
def execTraceRead (m : Mbx) (s : State) : Host.Outcome State Fault Refusal :=
  onRequest m 0x0A11 (fun r s =>
    let t := s.tide.traces.get Trace.reset (fieldAt r.payload 0 1)
    let l := (t.samples.drop (fieldAt r.payload 2 2)).take (fieldAt r.payload 4 2)
    s.answer m (leBytes 8 (t.samples.head?.elim 0 Sample.time) ++ leBytes 2 t.samples.length ++ leBytes 2 t.trigAt ++
      leBytes 1 t.st.code ++ leBytes 1 t.slot ++ leBytes 2 0 ++ l.flatMap sampleBytes)) s

end Sys2Proof.Machine
end

