-- ==== Sys2Proof/Machine/Lanes.lean ====
section
/-! DEFINITION. Meanings of the claim-lane commands (R236 to R241, R243) and of the steward, standby and head timers
(R202, R205, R206, R209, R226, R227, R232 to R234, R242, R256 to R259, R262, R395, R579). -/

namespace Sys2Proof.Machine

/-! ## The claim lane -/

/-- The lane receiver listens: VCCQF in range, and not in Ebb (R236). -/
def laneListens (e : Env) : Bool := e.lane && !(e.power = .ebb)

/-- A contest of this device that a higher claim has passed ends, and its frame is not sent (R239). -/
def yieldTo (pool : Nat) (c : BitVec 32) (d : Dp) : Dp :=
  match (d.role pool).bind PRole.contest with
  | none => d
  | some k =>
    if k.claim < c then
      { d.setRole { d.roleD pool with contest := none } with
        lane := { d.lane with tx := d.lane.tx.filter (fun b => lanePool b != pool) } }
    else d

/-- CLAIM_LANE_FRAME (R240, R529): a good frame of a steward's claim raises the entry; before READY, and in safe mode, the
always-on shadow alone. -/
def execClaimLaneFrame (bits : BitVec 49) (s : State) : Host.Outcome State Fault Refusal :=
  let h := lanePool bits
  let c := laneClaim bits
  .next (s.onDp (fun e d =>
    if !laneListens e || !laneGood bits || epochOf c = 0 then d
    else if !claimValid c then { d with lane := { d.lane with malformed := d.lane.malformed + 1 } }
    else if !e.ready || e.safe then
      { d with
        sh := { d.sh with shadow := d.sh.shadow.put h (max (d.sh.shadow.get 0 h) c.toNat) }
        lane := { d.lane with highAt := e.now } }
    else
      let d := { d with lane := { d.lane with highAt := e.now } }
      yieldTo h c (raise e h c 1 (hearSteward h c d)))).work

/-- A lane-check frame of a rank is heard or sent: the lane is alive and the rotation goes on from that rank (R241). -/
def laneHeard (e : Env) (rank : Nat) (d : Dp) : Dp :=
  { d with lane := { d.lane with
      lastCheck := e.now
      highAt := e.now
      usable := !d.lane.stuck
      turn := rank
      turnAt := e.now
      missed := Tab.erase d.lane.missed rank
      degraded := without rank d.lane.degraded
      checkDue := false } }

/-- LANE_CHECK_FRAME (R241). -/
def execLaneCheckFrame (bits : BitVec 49) (s : State) : Host.Outcome State Fault Refusal :=
  .next (s.onDp (fun e d =>
    let c := laneClaim bits
    if laneListens e && laneGood bits && epochOf c = 0 && lanePool bits = 0 && rankOf c < 16 then laneHeard e (rankOf c) d
    else d)).work

/-- The next rank of the rotation after a rank, wrapping; the lowest before any frame has been heard. -/
def nextTurn (e : Env) (d : Dp) : Nat :=
  let l := ringRanks e d
  ((l.find? (fun r => d.lane.turn < r && d.lane.turn < 16)).or l.head?).getD e.rank

/-- A rank's turn has passed without a lane-check frame (R241). -/
def missTurn (e : Env) (d : Dp) : Dp :=
  let r := d.lane.turn
  if 16 ≤ r || d.lane.lastCheck = d.lane.turnAt then d
  else
    let n := d.lane.missed.get 0 r + 1
    let d := { d with lane := { d.lane with missed := d.lane.missed.put r n } }
    if n = 3 && !d.lane.degraded.contains r then
      logE e 0x0705 4 srcFirmware [r] { d with lane := { d.lane with degraded := d.lane.degraded ++ [r] } }
    else d

/-- LANE_CHECK_TURN (R241): each second the turn passes on. -/
def execLaneCheckTurn (s : State) : Host.Outcome State Fault Refusal :=
  .next (s.onDp (fun e d =>
    if laneListens e && d.lane.turnAt + second ≤ e.now then
      let d := missTurn e d
      let r := nextTurn e d
      { d with lane := { d.lane with turn := r, turnAt := e.now, checkDue := r = e.rank && e.fw } }
    else d))

/-- The lane becomes unusable: claims that wait for it are published over Causeway (R239, R243). -/
def laneLost (e : Env) (d : Dp) : Dp :=
  let d := { d with lane := { d.lane with usable := false, tx := [] } }
  (d.sh.roles.filter (fun x => x.contest.any Contest.lane)).foldl (fun d x =>
    match x.contest with
    | some k => publish e x.pool k.claim k.giver d
    | none => d) d

/-- CLAIM_LANE_SEND (R239): the device sends the frame that is due, claims before its lane check. Accepted, a claim is this
device's; a frame lost in arbitration stays due. -/
def execClaimLaneSend (outcome : LaneOutcome) (s : State) : Host.Outcome State Fault Refusal :=
  .next (s.onDp (fun e d =>
    if !laneListens e || d.lane.stuck || !e.fw || e.tide then d
    else match d.lane.tx with
      | b :: t =>
        if !d.lane.usable then d
        else match outcome with
          | .accepted =>
            claimAccepted e (lanePool b) 1 false (put (.laneFrame b) { d with lane := { d.lane with tx := t, highAt := e.now } })
          | .lostAt _ => d
      | [] =>
        if d.lane.checkDue then
          match outcome with
          | .accepted => laneHeard e e.rank (put (.laneFrame (laneFrame 0 (mkClaim 0 e.rank))) d)
          | .lostAt _ => d
        else d)).work

/-- LANE_LOW_TIMEOUT (R241): the lane has been low for more than 64 µs. -/
def execLaneLowTimeout (s : State) : Host.Outcome State Fault Refusal :=
  .next (s.onDp (fun e d =>
    if laneListens e && !d.lane.stuck && d.lane.highAt + 64 * usec < e.now then
      laneLost e (logE e 0x0704 5 srcFirmware [] { d with lane := { d.lane with stuck := true } })
    else d)).work

/-- CLAIM_LANE_RELEASED (R241). -/
def execClaimLaneReleased (s : State) : Host.Outcome State Fault Refusal :=
  .next (s.onDp (fun e d =>
    if laneListens e && d.lane.stuck then
      { d with lane := { d.lane with stuck := false, highAt := e.now, usable := e.now < d.lane.lastCheck + 3 * second } }
    else d)).work

/-- LANE_CHECK_TIMEOUT (R241): no lane-check frame for 3 s. -/
def execLaneCheckTimeout (s : State) : Host.Outcome State Fault Refusal :=
  .next (s.onDp (fun e d =>
    if laneListens e && d.lane.usable && d.lane.lastCheck + 3 * second ≤ e.now then laneLost e d else d)).work

/-! ## Heartbeats and silence -/

/-- The role entries of this device's heartbeat, in ascending order of pool (R277). -/
def ownRoles (d : Dp) : List RoleEntry :=
  ((d.sh.roles.filter (fun x => x.role != .none)).mergeSort (fun a b => a.pool ≤ b.pool)).map
    (fun x => ⟨x.pool, x.claim, x.role = .standby⟩)

/-- STATE of this device's heartbeat (Table 8-6). -/
def ownFlags (e : Env) (d : Dp) : Byte :=
  let b (c : Bool) (n : Nat) : Nat := if c then 2 ^ n else 0
  BitVec.ofNat 8 (b e.ready 0 + b e.settled 1 + b (e.power = .neap) 2 +
    b (d.io.critAt.any (fun t => e.now < t + 60 * second)) 3)

/-- HEARTBEAT_TIMER (R232): every 250 µs, in Flood, Slack and Neap, once READY with a port up. -/
def execHeartbeatTimer (s : State) : Host.Outcome State Fault Refusal :=
  .next (s.onDp (fun e d =>
    let awake : Bool := e.power = .flood || e.power = .slack || e.power = .neap
    if e.ready && !e.safe && awake && ringOpen e d && anyLink d && d.ring.hbAt + 240 * usec ≤ e.now then
      let d := { d with ring := { d.ring with hbAt := e.now } }
      sendEach e .heartbeat ((ringRanks e d).filter (fun r => r != e.rank)) (fun r => header e d r noPool)
        (.roles (BitVec.ofNat 64 e.boot) d.ring.session (ownFlags e d) (ownRoles d)) d
    else d))

/-- RANK_SILENCE (R233, R234): a rank unheard for 2 ms is silent, and the pools stewarded here declare it ABSENT. -/
def execRankSilence (rank : Rank) (s : State) : Host.Outcome State Fault Refusal :=
  .next (s.onDp (fun e d =>
    let p := d.peer rank.val
    if ringOpen e d && rank.val != e.rank && p.heard && !p.silent && p.lastHb + 2 * msec ≤ e.now then
      let d := d.setPeer rank.val { p with silent := true, silentAt := p.lastHb + 2 * msec }
      absentEverywhere e rank.val (noteHealth e rank.val true d)
    else d)).work

/-- STEWARD_POOL_OMITTED (R233): the steward's heartbeats have left the pool out for 2 ms. -/
def execStewardPoolOmitted (pool : Nat) (s : State) : Host.Outcome State Fault Refusal :=
  .next (s.onDp (fun e d =>
    match stewardRank d pool, d.sh.mentioned.find pool with
    | some r, some t =>
      if r != e.rank && present e d r && admitted d pool && t + 2 * msec ≤ e.now && !d.sh.relinquished.contains pool then
        { d with sh := { d.sh with
            relinquished := addNew pool d.sh.relinquished, mentioned := d.sh.mentioned.put pool (t + 2 * msec) } }
      else d
    | _, _ => d)).work

/-! ## Contests and standbys -/

/-- CONTEST (R242, R243): every condition holds, the fifth that no claim is heard above the one the device forms, and it publishes a
higher claim. -/
def execContest (pool : Nat) (s : State) : Host.Outcome State Fault Refusal :=
  .next (s.onDp (fun e d =>
    match d.sh.reg.pool pool with
    | none => d
    | some p =>
      if mayContend e d p && !e.tide then
        match formClaim e d pool with
        | some c => if c.toNat < d.sh.steward.get 0 pool then d else publish e pool c none d
        | none => d
      else d)).work

/-- The groups that a lost standby has not acknowledged are durable without it (R205). -/
def releaseSent (e : Env) (pool : Nat) (d : Dp) : Dp :=
  let x := d.roleD pool
  x.sent.foldl (fun d g => durableGroup e pool g d) (d.setRole { x with standby := none, sent := [] })

/-- STANDBY_SILENCE (R227): a standby silent for 4 ms is lost, when this device's claim still stands and, on an unusable lane,
a quorum is heard. -/
def execStandbySilence (pool : Nat) (s : State) : Host.Outcome State Fault Refusal :=
  .next (s.onDp (fun e d =>
    match d.role pool with
    | none => d
    | some x =>
      match x.standby with
      | none => d
      | some k =>
        if x.role = .steward && !present e d k && (d.peer k).lastHb + 4 * msec ≤ e.now && d.claimOf pool = x.claim &&
            (d.lane.usable || quorum e d) then
          appoint e pool (cause e evSteward (releaseSent e pool d))
        else d)).work

/-- STANDBY_APPOINT (R226); an appointment that has not been acknowledged in 20 ms is made anew. -/
def execStandbyAppoint (pool : Nat) (s : State) : Host.Outcome State Fault Refusal :=
  .next (s.onDp (fun e d =>
    match d.role pool with
    | none => d
    | some x =>
      if x.role = .steward && x.handover.isNone then
        let late (a : Nat × Nat) : Bool := a.2 + 20 * msec ≤ e.now || !present e d a.1
        appoint e pool (if x.appoint.any late then d.setRole { x with appoint := none } else d)
      else d)).work

/-- SETTLE_WINDOW_END (R242): 500 ms after READY. -/
def execSettleWindowEnd (s : State) : Host.Outcome State Fault Refusal :=
  if s.boot.ready && !s.boot.settled && s.boot.readyAt + 500 * msec ≤ s.clk.time then
    .next { s with boot := { s.boot with settled := true } }.work
  else .next s

/-! ## Handovers -/

/-- PREFERRED_STEWARD_RETURN (R257): in a shoal of at most four ranks the pool goes back to its preferred steward, and the
preferred standby is restored. -/
def execPreferredStewardReturn (pool : Nat) (s : State) : Host.Outcome State Fault Refusal :=
  .next (s.onDp (fun e d =>
    match d.role pool, d.sh.reg.pool pool with
    | some x, some p =>
      match returnRank e p with
      | none => d
      | some r =>
        if x.role = .steward && !x.stopped && x.handover.isNone && r != e.rank && (memberRanks d.sh.reg).length ≤ 4 &&
            x.healthy.any (fun t => t + 60 * second ≤ e.now) && healthyNow e d pool r then
          if p.prefSteward = e.rank then (if x.standby = some r then d else sendAppoint e pool r d)
          else if epochMax ≤ epochOf (d.claimOf pool) then d
          else startHandover e pool r none d
        else d
    | _, _ => d)).work

/-- HANDOVER_RESOLVE_TIMEOUT (R259): open tickets are unresolved 50 ms into step 3, or the appointment before it, of at most
20 ms, has not ended. -/
def execHandoverResolveTimeout (pool : Nat) (s : State) : Host.Outcome State Fault Refusal :=
  .next (s.onDp (fun e d =>
    match (d.role pool).bind PRole.handover with
    | none => d
    | some h =>
      let limit := if (d.roleD pool).standby = some h.target then 50 * msec else 70 * msec
      if h.sentAt.isNone && h.since + limit ≤ e.now then endHandover e pool msHandover [] d else d)).work

/-- HANDOVER_CLAIM_TIMEOUT (R259): the target's claim is unheard 20 ms after HANDOVER. -/
def execHandoverClaimTimeout (pool : Nat) (s : State) : Host.Outcome State Fault Refusal :=
  .next (s.onDp (fun e d =>
    match (d.role pool).bind PRole.handover with
    | none => d
    | some h =>
      if h.sentAt.any (fun t => t + 20 * msec ≤ e.now) then endHandover e pool msHandover [] d else d)).work

/-! ## Timers of tickets and orders -/

/-- RESOLVE_REPLY_TIMEOUT (R209): a member silent 10 ms after RESOLVE is declared ABSENT. -/
def execResolveReplyTimeout (pool : Nat) (rank : Rank) (s : State) : Host.Outcome State Fault Refusal :=
  .next (s.onDp (fun e d =>
    let x := d.roleD pool
    match x.resolving with
    | none => d
    | some v =>
      if v.waiting.testBit rank.val && v.since + 10 * msec ≤ e.now then
        let w := v.waiting - 2 ^ rank.val
        let d := declareAbsent e pool rank.val (d.setRole { x with resolving := some { v with waiting := w } })
        if w = 0 then finishResolve e pool d else d
      else d)).work

/-- STRIPE_TIMEOUT in ns. -/
def stripeTime (e : Env) (d : Dp) : Nat := e.param d 0x0603 * msec

/-- STRIPE_TIMEOUT (R202, Table 6-6): the members that have not reported count missing for the ticket. A ticket whose head is
lost commits where the floor holds and drops with reason 3 otherwise. -/
def execStripeTimeout (pool seqn : Nat) (s : State) : Host.Outcome State Fault Refusal :=
  .next (s.onDp (fun e d =>
    match d.sticket pool seqn, d.sh.reg.pool pool with
    | some t, some p =>
      if isSteward d pool && t.granted && !t.closed && t.grantedAt + stripeTime e d ≤ e.now then
        let d := d.onSticket pool seqn (fun t => { t with missing := t.missing ||| t.writers })
        if t.head != noHead && !present e d t.head && !floorOk e d p t then dropWhole e 3 t d else d
      else d
    | _, _ => d)).work

/-- The write commands of a pool that wait for a steward: some block has no ticket that a steward has granted. -/
def stewardless (d : Dp) (pool : Nat) : List CmdKey :=
  (d.vq.cmds.filter (fun c => c.pool = pool && c.stage = .running && isWriteOp c.opcode && c.todo.any (fun i =>
    !d.sh.htickets.any (fun t => t.stage != .waiting && t.stage != .requested &&
      t.parts.any (fun x => x.key = c.key && x.idx = i))))).map Cmd.key

/-- NO_STEWARD_TIMEOUT (R256): no steward has been seen for STRIPE_TIMEOUT, and the waiting writes complete with
POOL_READ_ONLY. -/
def execNoStewardTimeout (pool : Nat) (s : State) : Host.Outcome State Fault Refusal :=
  .next (s.onDp (fun e d =>
    if (stewardOf e d pool).isNone && (d.sh.noSteward.find pool).any (fun t => t + stripeTime e d ≤ e.now) then
      (stewardless d pool).foldl (fun d k => failCmd e k stPoolReadOnly 0 d) d
    else d)).work

/-- REGISTRY_STEWARD_TIMEOUT (R395, R258): a forwarded order unanswered for STRIPE_TIMEOUT responds NO_STEWARD; the device's
own orders stay. -/
def execRegistryStewardTimeout (session token : BitVec 32) (s : State) : Host.Outcome State Fault Refusal :=
  .next (s.onDp (fun e d =>
    match d.sh.forwarded.find? (fun x => x.1.session = session && x.1.token = token && x.1.port != ownPort) with
    | some x => if x.2.1 + stripeTime e d ≤ e.now then answerOrder e x.1 msNoSteward 0 [] d else d
    | none => d)).work

/-- READ_REQUEST_TIMEOUT (R579): no reply in 10 ms. -/
def execReadRequestTimeout (rank : Rank) (pool localBlk : Nat) (s : State) : Host.Outcome State Fault Refusal :=
  .next (s.onDp (fun e d =>
    match d.sh.fetches.find? (fun x => x.queued && x.rank = rank.val && x.rank != e.rank && x.pool = pool &&
      x.localBlk = localBlk && x.sentAt + 10 * msec ≤ e.now) with
    | some x => loseUnit e x (d.dropFetch x)
    | none => d)).work

/-- DRILL_REPLY_TIMEOUT (R262): a rank that has not answered the standby in 5 ms is marked NO_REPLY; a standby that has
returned no result in the 10 ms of the drill fails it. -/
def execDrillReplyTimeout (rank : Rank) (s : State) : Host.Outcome State Fault Refusal :=
  .next (s.onDp (fun e d =>
    match d.sh.drill with
    | none => d
    | some k =>
      if k.order.isNone then
        if k.stepAt + 5 * msec ≤ e.now && k.asked.testBit rank.val && !k.accepted.testBit rank.val then
          { d with sh := { d.sh with drill := some { k with noReply := k.noReply ||| 2 ^ rank.val } } }
        else d
      else if k.since + 10 * msec ≤ e.now && rank.val = k.standby then finishDrill e k.newClaim k.accepted (2 ^ k.standby) d
      else d)).work

/-- ROW_GATHER_EXPIRY (R197): ROW_GATHER after a row's first block. -/
def execRowGatherExpiry (pool row : Nat) (s : State) : Host.Outcome State Fault Refusal :=
  .next (s.onDp (fun e d =>
    match d.sh.gathers.find? (fun g => g.pool = pool && g.row = row && g.since + e.param d 0x0602 * usec ≤ e.now) with
    | some g => closeGather g d
    | none => d)).work

/-- JOURNAL_GROUP_CLOSE (R205): 20 µs after a group's first record. -/
def execJournalGroupClose (pool : Nat) (s : State) : Host.Outcome State Fault Refusal :=
  .next (s.onDp (fun e d =>
    let x := d.roleD pool
    if x.role = .steward && !x.group.isEmpty && x.groupAt + 20 * usec ≤ e.now then closeGroup e pool d else d)).work

/-- A strand runs low: an anchor is due here and, of a steward, at every present member of its pools (R146). -/
def askAnchors (e : Env) (d : Dp) : Dp :=
  let d := { d with sh := { d.sh with anchorAsked := true } }
  let mine := (d.sh.roles.filter (fun x => x.role = .steward)).map PRole.pool
  let to_ := ((mine.flatMap (fun h => ((d.sh.reg.pool h).map PoolRec.ranks).getD [])).eraseDups).filter
    (fun r => r != e.rank && present e d r)
  sendEach e .control to_ (fun r => header e d r noPool) .anchor d

/-- JOURNAL_STRAND_PROGRAMMED (R206): the durable groups of a pool are programmed to the strand under class P2; a record leaves the tail
that Last Tide carries once its page is on the medium. -/
def execJournalStrandProgrammed (pool : Nat) (s : State) : Host.Outcome State Fault Refusal :=
  .next (s.onDp (fun e d =>
    if e.tide || !e.ready || ((d.role pool).elim [] PRole.tail).isEmpty then d
    else
      let d := stageJournal e pool d
      if strandFree d .journalStrand < strandLow then askAnchors e d else d)).work

end Sys2Proof.Machine
end

