-- ==== Sys2Proof/Machine/MailSecure.lean ====
section
/-! DEFINITION. Meanings of the mailbox commands of groups 0x05 and 0x06 that Saggar serves here: firmware staging (R459, R460,
R463), attestation (R445, R446) and service keys (R440, R441). -/

namespace Sys2Proof.Machine

/-! ## Firmware (Table 13-12) -/

/-- Bytes accepted and programmed, as FW_STAGE responds. -/
def stageBytes (i : Image) : List Byte := leBytes 4 i.accepted ++ leBytes 4 i.programmed

/-- FW_STAGE BEGIN (R459): the inactive slot's content is discarded and the blocks its length covers are erased. -/
def execFwStageBegin (m : Mbx) (s : State) : Host.Outcome State Fault Refusal :=
  onSub m 0x0501 0 0 (fun r s =>
    let n := staging s
    let i : Image := { Image.reset .staging with length := fieldAt r.payload 4 4 }
    let b := s.bank n
    let s := (s.setImage n i).setBank n { b with queue := b.queue.filter (fun q => q.2.2 != .staging) }
    let s := if i.length = 0 then s else bankAsk n 7 true .staging s
    s.answer m (stageBytes i)) s

/-- The buffer of accepted bytes in the DRAM reserve (R459). -/
def stageBuffer : Nat := mib

/-- FW_STAGE DATA (R459): the next bytes, as far as the buffer takes them and the length reaches. -/
def execFwStageData (m : Mbx) (s : State) : Host.Outcome State Fault Refusal :=
  onSub m 0x0501 0 1 (fun r s =>
    let n := staging s
    let i := s.image n
    if i.st != .staging || fieldAt r.payload 4 4 != i.accepted then s.deny m msField 7
    else
      let take := min (fieldAt r.payload 8 4) (min (i.programmed + stageBuffer - i.accepted) (i.length - i.accepted))
      let i := { i with accepted := i.accepted + take, bytes := i.bytes ++ bytesAt r.payload 16 take }
      (stagePage (s.setImage n i)).answer m (stageBytes i)) s

/-- FW_COMMIT response. -/
def commitBytes (result n svn build : Nat) : List Byte :=
  leBytes 1 result ++ leBytes 1 n ++ leBytes 1 svn ++ leBytes 1 0 ++ leBytes 4 build

/-- FW_COMMIT (R460): waits until every accepted byte is programmed and the bank can be read; the read-back checks
signature, lines and SVN, and sets the slot STAGED. `badBlock`: the read-back finds an uncorrectable block. -/
def execFwCommit (m : Mbx) (badBlock : Bool) (s : State) : Host.Outcome State Fault Refusal :=
  onRequest m 0x0502 (fun _ s =>
    let n := staging s
    let i := s.image n
    let b := s.bank n
    if i.st = .invalid then s.answer m (commitBytes 3 n 0 0)
    else if i.st != .staging then s.deny m msField 7
    else if i.accepted < i.length then s.answer m (commitBytes 4 n 0 0)
    else if i.programmed < i.accepted then s
    else if bankBusy b then s.setBank n { b with reads := max 1 b.reads }
    else
      let s := s.setBank n { b with reads := b.reads - 1 }
      let x := Config.imageInfo i.bytes
      let svn := x.2.2.2.1
      let build := x.2.2.2.2
      if badBlock then (s.setImage n { i with st := .invalid }).answer m (commitBytes 3 n svn build)
      else if !x.1 then s.answer m (commitBytes 1 n svn build)
      else if x.2.1 != 4 || x.2.2.1 != 4 then s.answer m (commitBytes 5 n svn build)
      else if svn < s.boot.svnFused then s.answer m (commitBytes 2 n svn build)
      else
        let s := s.setImage n { i with st := .staged, svn := svn, build := build }
        ((s.log 0x0B06 2 srcSaggar [n, build]).cause evFirmware).answer m (commitBytes 0 n svn build)) s

/-- Codes of slot states. -/
def SlotSt.code : SlotSt → Nat
  | .empty => 0
  | .staging => 1
  | .staged => 2
  | .active => 3
  | .previous => 4
  | .invalid => 5
  | .revoked => 6

/-- FW_STATUS (R463). -/
def execFwStatus (m : Mbx) (s : State) : Host.Outcome State Fault Refusal :=
  onRequest m 0x0504 (fun _ s =>
    let a := s.bed.a
    let b := s.bed.b
    let i := s.image (staging s)
    s.answer m (leBytes 1 s.boot.imageB.toNat ++ leBytes 1 s.boot.svnFused ++
      leBytes 1 (bit s.bed.boot.trial 0 + bit s.bed.boot.fellBack 1 + bit s.bed.worn 2) ++ leBytes 1 s.bed.boot.slot ++
      leBytes 1 a.st.code ++ leBytes 1 a.svn ++ leBytes 1 b.st.code ++ leBytes 1 b.svn ++ leBytes 4 a.build ++
      leBytes 4 b.build ++ leBytes 4 i.accepted ++ leBytes 4 i.programmed)) s

/-! ## Attestation (Tables 13-4 and 13-7) -/

/-- Bytes 0 to 439 of a quote. -/
def quoteBody (nonce : List Byte) (s : State) : List Byte :=
  bytesAt nonce 0 32 ++ leBytes 8 s.clk.boot ++ leBytes 8 s.clk.time ++
    (List.range 4).flatMap (fun i => leBytes 1 (s.boot.selftest.getD i 0)) ++ leBytes 1 s.boot.imageB.toNat ++
    leBytes 1 (bit s.bed.boot.trial 0 + bit s.boot.fallback 1 + bit s.boot.safe 2) ++ leBytes 2 0 ++
    (List.range 8).flatMap (fun i => digestBytes (s.sec.meas.getD i 0))

/-- A signature of the alias key over SHA-384 of bytes (R446). -/
def aliasSign (s : State) (b : List Byte) : List Byte :=
  bytesAt (Config.ecdsaSign s.boot.serial (Config.sha384 b)) 0 96

/-- ATTEST_GET QUOTE (R446). -/
def execAttestQuote (m : Mbx) (s : State) : Host.Outcome State Fault Refusal :=
  onSub m 0x0601 0 0 (fun r s =>
    let b := quoteBody (r.payload.drop 8) s
    s.answer m (b ++ aliasSign s b)) s

/-- ATTEST_GET CERT (R445): the length, and up to 4,000 bytes from the offset. -/
def execAttestCert (m : Mbx) (s : State) : Host.Outcome State Fault Refusal :=
  onSub m 0x0601 0 1 (fun r s =>
    let c := Config.certificate (fieldAt r.payload 1 1) s.boot.serial (s.sec.meas.getD 1 0)
    let part := (c.drop (fieldAt r.payload 2 2)).take 4000
    s.answer m (leBytes 2 c.length ++ leBytes 2 part.length ++ part)) s

/-! ## Service keys (R439 to R441) -/

/-- Size and usage agree (R440). -/
def usageOk (wide : Bool) (usage : Nat) : Bool :=
  let xts := usage / 4 % 4
  let other := usage % 4 + usage / 16 * 16
  if wide then xts != 0 && other = 0
  else xts = 0 && (usage.testBit 6 == false || usage = 64)

/-- The key of a WRAPPED load (R440): bytes 0 to 7 of the request are the additional data. -/
def unwrapKey (s : State) (p : List Byte) (n : Nat) : Option (List Byte) :=
  match s.sec.slots.find (fieldAt p 8 2) with
  | none => none
  | some x =>
    if !x.usage.testBit 6 || fieldAt p 8 2 < 16 then none
    else
      let r := gcm x.key (bytesAt p 16 12) (bytesAt p 0 8) (bytesAt p 28 n) false
      if r.2 = bytesAt p (28 + n) 16 then some r.1 else none

/-- A key stands in its slot under a new generation (R433), and the order is answered once what is persistent of it is in
Bedrock (R440). -/
def placeKey (m : Mbx) (n : Nat) (key : List Byte) (usage : Nat) (wide persist drawn : Bool) (s : State) : State :=
  let g := s.sec.gen + 1
  let slot : KeySlot :=
    { key := key, usage := usage, wide := wide, persist := persist, gen := g, counter := 0,
      lease := if persist then nonceLease else 0 }
  let s := { s with
    sec := { s.sec with
      slots := s.sec.slots.put n slot
      gen := g
      reseedAt := if drawn then s.clk.time else s.sec.reseedAt }
    bed := { s.bed with
      keys := if persist then s.bed.keys.put n { slot with counter := slot.lease } else s.bed.keys
      gen := g } }
  let s := s.log 0x0A01 1 srcSaggar [n, g]
  if persist then recordThen .keystore true (.box m) (leBytes 4 g) s
  else (writeRecord .keystore s).answer m (leBytes 4 g)

/-- KEY_SLOT_LOAD (R440, R433): the first reason of R439, or the key stands in its slot under a new generation. -/
def loadKey (m : Mbx) (p : List Byte) (s : State) : State :=
  let n := fieldAt p 0 2
  let src := fieldAt p 2 1
  let wide := fieldAt p 3 1 = 1
  let usage := fieldAt p 4 2
  let persist := fieldAt p 6 1 = 1
  let len := if wide then 64 else 32
  let given := if src = 2 then unwrapKey s p len else some (bytesAt p 16 len)
  if n < 16 || (s.sec.slots.find n).isSome then s.deny m msField 1
  else if !usageOk wide usage then s.deny m msField 2
  else if given.isNone then s.deny m msField 3
  else if src = 0 && s.sec.entropyFailed then s.deny m msField 4
  else if genSpent s then s.deny m msField 6
  else
    let k := if src = 0 then drbg len s else (given.getD [], s)
    placeKey m n k.1 usage wide persist (src = 0) k.2

/-- KEY_SLOT_LOAD (R440). -/
def execKeySlotLoad (m : Mbx) (s : State) : Host.Outcome State Fault Refusal :=
  onRequest m 0x0602 (fun r s => loadKey m r.payload s) s

/-- GLAZE commands that name a slot and have been fetched. -/
def glazeUsers (d : Dp) (n : Nat) : List CmdKey :=
  (d.vq.cmds.filter (fun c => c.opcode = opGlaze && (c.stage = .header || c.stage = .running) &&
    gSlot c.desc = n)).map Cmd.key

/-- KEY_SLOT_CLEAR (R441): after the GLAZE commands fetched before it. -/
def execKeySlotClear (m : Mbx) (s : State) : Host.Outcome State Fault Refusal :=
  onRequest m 0x0603 (fun r s =>
    let n := fieldAt r.payload 0 2
    if n < 16 || (s.sec.slots.find n).isNone || s.sec.clearing.any (fun c => c.1 = n) then s.deny m msField 1
    else
      let s := { s with sec := { s.sec with clearing := s.sec.clearing ++ [(n, some m, glazeUsers s.dp n)] } }
      finishClears (s.onDp (fun _ d => d.wait m))) s

end Sys2Proof.Machine
end

