-- ==== Sys2Proof/Machine/MailShoal.lean ====
section
/-! DEFINITION. Meanings of the mailbox orders on pools, on the shoal and on roles: each goes over Causeway to the registry
steward, whose sequencer checks its lease and applies it (R395; Registry.lean), and responds when its answer comes back. -/

namespace Sys2Proof.Machine

/-- POOL_CREATE (R36): forwarded to the registry steward. -/
def execPoolCreate (m : Mbx) (s : State) : Host.Outcome State Fault Refusal :=
  onRequest m 0x0101 (fun _ s => s.forward m) s

/-- POOL_DELETE (R38): forwarded to the registry steward. -/
def execPoolDelete (m : Mbx) (s : State) : Host.Outcome State Fault Refusal :=
  onRequest m 0x0102 (fun _ s => s.forward m) s

/-- POOL_RESIZE (R37): forwarded to the registry steward. -/
def execPoolResize (m : Mbx) (s : State) : Host.Outcome State Fault Refusal :=
  onRequest m 0x0103 (fun _ s => s.forward m) s

/-- RESHAPE_START (R389): forwarded to the registry steward. -/
def execReshapeStart (m : Mbx) (s : State) : Host.Outcome State Fault Refusal :=
  onRequest m 0x0106 (fun _ s => s.forward m) s

/-- WRITE_FLOOR_SET (R31): forwarded to the registry steward. -/
def execWriteFloorSet (m : Mbx) (s : State) : Host.Outcome State Fault Refusal :=
  onRequest m 0x0109 (fun _ s => s.forward m) s

/-- LEASE_ACQUIRE (R397): forwarded to the registry steward. -/
def execLeaseAcquire (m : Mbx) (s : State) : Host.Outcome State Fault Refusal :=
  onRequest m 0x0110 (fun _ s => s.forward m) s

/-- LEASE_RELEASE (R398): forwarded to the registry steward. -/
def execLeaseRelease (m : Mbx) (s : State) : Host.Outcome State Fault Refusal :=
  onRequest m 0x0111 (fun _ s => s.forward m) s

/-- LEASE_QUERY (R396): forwarded to the registry steward. -/
def execLeaseQuery (m : Mbx) (s : State) : Host.Outcome State Fault Refusal :=
  onRequest m 0x0112 (fun _ s => s.forward m) s

/-- SANITIZE_CRYPTO (R442): forwarded to the registry steward. -/
def execSanitizeCrypto (m : Mbx) (s : State) : Host.Outcome State Fault Refusal :=
  onRequest m 0x0604 (fun _ s => s.forward m) s

/-- MEMBER_ADD (R291): forwarded to the registry steward. -/
def execMemberAdd (m : Mbx) (s : State) : Host.Outcome State Fault Refusal :=
  onRequest m 0x0703 (fun _ s => s.forward m) s

/-- MEMBER_RETIRE (R203): forwarded to the registry steward. -/
def execMemberRetire (m : Mbx) (s : State) : Host.Outcome State Fault Refusal :=
  onRequest m 0x0704 (fun _ s => s.forward m) s

/-- MEMBER_SPARE_SET (R213): forwarded to the registry steward. -/
def execMemberSpareSet (m : Mbx) (s : State) : Host.Outcome State Fault Refusal :=
  onRequest m 0x0705 (fun _ s => s.forward m) s

/-- MEMBER_REPLACE (R213): forwarded to the registry steward. -/
def execMemberReplace (m : Mbx) (s : State) : Host.Outcome State Fault Refusal :=
  onRequest m 0x0706 (fun _ s => s.forward m) s

/-- STEWARD_MOVE (R258): forwarded to the registry steward. -/
def execStewardMove (m : Mbx) (s : State) : Host.Outcome State Fault Refusal :=
  onRequest m 0x0710 (fun _ s => s.forward m) s

/-- STEWARD_PREFER (R224): forwarded to the registry steward. -/
def execStewardPrefer (m : Mbx) (s : State) : Host.Outcome State Fault Refusal :=
  onRequest m 0x0711 (fun _ s => s.forward m) s

/-- STEWARD_DRILL (R261): forwarded to the registry steward. -/
def execStewardDrill (m : Mbx) (s : State) : Host.Outcome State Fault Refusal :=
  onRequest m 0x0712 (fun _ s => s.forward m) s

/-- EPOCH_REBASE (R230): forwarded to the registry steward. -/
def execEpochRebase (m : Mbx) (s : State) : Host.Outcome State Fault Refusal :=
  onRequest m 0x0713 (fun _ s => s.forward m) s

end Sys2Proof.Machine
end

