-- ==== Sys2Proof/Machine/Pads.lean ====
section
/-! DEFINITION. Meanings of the scratchpad commands: corrections (R175, R177), uncorrectable reads (Table 5-8), bank hand-overs (R483,
Table 14-6), access faults (R482) and retention (R488). -/

namespace Sys2Proof.Machine

/-- The record of a bank. -/
def State.pad (s : State) (n : Nat) : Pad := s.pads.banks.get (Pad.reset n) n

/-- Change the record of a bank. -/
def State.onPad (n : Nat) (f : Pad → Pad) (s : State) : State :=
  { s with pads := { s.pads with banks := s.pads.banks.put n (f (s.pad n)) } }

/-- A bank that may be accessed. -/
def padRuns (s : State) (n : Nat) : Bool :=
  let x := s.pad n
  !(x.st = .offline || x.st = .gated) && !s.pwr.porHeld

/-! ## Corrections -/

/-- SCRATCHPAD_CORRECTED_READ (R175, R177): the byte is corrected, in the bank too; the seventeenth within 1 s after a Neap exit is
logged. Bytes of the diagnostic window are counted apart (R183). -/
def execScratchpadCorrectedRead (bank : Fin 32) (address : Nat) (_intervened : Bool) (s : State) :
    Host.Outcome State Fault Refusal :=
  let n := bank.val
  if !padRuns s n then .next s
  else if n = 31 && address < padWindow then .next (noteDiagFix s)
  else
    let soon := s.pads.neapExit.any (fun t => s.clk.time ≤ t + second)
    let s := s.onPad n (fun x => { x with
      corrected := min 0xFFF (x.corrected + 1), recent := if soon then x.recent + 1 else x.recent })
    let s := s.onDp (fun _ => count 13 0 1)
    if soon && (s.pad n).recent = 17 then .next (s.log 0x0D03 3 srcFirmware [n]) else .next s

/-! ## Uncorrectable reads (Table 5-8) -/

/-- Numbers of the regions of Table 5-8, in table order, and of the diagnostic window. -/
def PadRegion.code : PadRegion → Nat
  | .firmware => 0
  | .stagingHead _ _ _ _ | .stagingSherd _ _ _ => 1
  | .readStaging _ _ => 2
  | .strandline _ => 3
  | .journal _ => 4
  | .other => 5
  | .diagnostic => 6

/-- A record of the ring is replaced by RECORD_LOST under its sequence (R178). -/
def loseRecord (e : Env) (seqn : Nat) (d : Dp) : Dp :=
  { d with io := { d.io with
      ring := updateWhere (fun (r : LogRec) => r.seqn = seqn) (fun r =>
        { code := 0, sev := 4, source := srcFirmware, time := e.now, seqn := r.seqn, args := 0 }) d.io.ring
      alert := if d.io.ring.any (fun r => r.seqn = seqn) then addNew seqn d.io.alert else d.io.alert } }

/-- The device gives up its roles for a pool whose journal records are damaged (R178, R245). -/
def giveUpRoles (e : Env) (pool : Nat) (d : Dp) : Dp :=
  let d := relinquish e pool d
  let x := d.roleD pool
  if x.role = .standby then d.setRole { x with role := .none } else d

/-- A unit read into a damaged line is read again (Table 5-8): blocks of READs and VERIFYs that have not gone out, units gathered for a
rebuild, and base units of a ticket that has not sent its sherds. -/
def readAgain (e : Env) (pool lb : Nat) (d : Dp) : Dp :=
  match d.sh.reg.pool pool with
  | none => d
  | some p =>
    let at_ (l : Lay) (q : Place) : Bool := (l.holders q).any (fun h => h.2 = lb)
    let hit (c : Cmd) (i : Nat) : Bool :=
      let l := p.layOf (c.lba + i)
      (l.place (c.lba + i)).any (at_ l)
    let d := { d with vq := { d.vq with cmds := d.vq.cmds.map (fun (c : Cmd) =>
        let l := (c.got.map Prod.fst).filter (fun i => c.moved ≤ i * 4096 && hit c i)
        if (c.opcode = opRead || c.opcode = opVerify) && c.pool = pool && c.stage = Stage.running then
          { c with
            got := c.got.filter (fun g => !l.contains g.1)
            todo := (c.todo ++ l).mergeSort (fun a b => a ≤ b) }
        else c) } }
    let d := { d with sh := { d.sh with rebuilds := d.sh.rebuilds.map (fun (j : Rebuild) =>
        let us := ((j.got.map UnitBlk.unit).filter (fun u => at_ (p.layGen j.gen) ⟨j.row, if j.unit = mirrorCheck then 0 else u, j.pos⟩))
        if j.pool = pool then { j with
            got := j.got.filter (fun g => !us.contains g.unit)
            asked := j.asked.filter (fun u => !us.contains u) }
        else j) } }
    (d.sh.htickets.filter (fun (t : HTicket) => t.pool = pool && t.stage = .granted)).foldl (fun (d : Dp) (t : HTicket) =>
      let l := p.layGen t.gen
      let ws := t.want.filter (fun w => (t.baseOf w.1 w.2).isSome && at_ l ⟨t.row, w.1, w.2⟩)
      let d := d.onHticket t.id (fun t => { t with base := t.base.filter (fun b => !ws.contains (b.unit, b.pos)) })
      ws.foldl (fun d w => wantUnit e p l t w d) d) d

/-- What the device does by region. -/
def padAction (region : PadRegion) (s : State) : State :=
  match region with
  | .firmware | .other => faultTrigger .memory s
  | .stagingHead p q t i => (s.onDp (fun _ => refetch ⟨p, q, t.val⟩ i)).work
  | .stagingSherd pool lb seqn => (s.onDp (fun e => loseSherd e pool lb seqn)).work
  | .readStaging pool lb => (s.onDp (fun e => readAgain e pool lb)).work
  | .strandline seqn => s.onDp (fun e => loseRecord e seqn)
  | .journal pool => (s.onDp (fun e => giveUpRoles e pool)).work
  | .diagnostic => { s with integ := { s.integ with diagBad := s.integ.diagBad + 1 } }

/-- SCRATCHPAD_UNCORRECTABLE_READ (R178). -/
def execScratchpadUncorrectableRead (bank : Fin 32) (region : PadRegion) (s : State) : Host.Outcome State Fault Refusal :=
  if !padRuns s bank.val then .next s
  else
    let s := s.log 0x0D04 4 srcFirmware [bank.val, PadRegion.code region]
    let s := if region = .diagnostic then s else s.onDp (fun _ => count 13 1 1)
    .next (padAction region s)

/-! ## Hand-over (R483, Table 14-6) -/

/-- The banks that firmware may move. -/
def movableBank (n : Nat) : Bool := (20 ≤ n && n < 24) || n = 26 || n = 27

/-- The class a movable bank goes to. -/
def otherStage (o : Owner) : Owner := if o = .wstage then .rstage else .wstage

/-- Steps 3 and 4: the new owner is written and the bank joins its allocator. -/
def moveBank (n : Nat) (o : Owner) (s : State) : State :=
  let s := s.onPad n (fun x => { x with owner := o, moving := none, freeAt := none })
  (s.log 0x0D01 1 srcFirmware [n, o.code]).onDp (fun _ => count 13 2 1)

/-- BANK_HANDOVER (R483): firmware looks at a bank and the lines that are live in it. The hand-over starts when the receiving class has
waited while the bank has held no live line for 10 ms of device time, and ends once no line of the bank is live. -/
def execBankHandover (bank : Fin 32) (waited : Bool) (lines : Nat) (s : State) : Host.Outcome State Fault Refusal :=
  let n := bank.val
  let x := s.pad n
  if !movableBank n || x.st != .active || !s.boot.fw || s.env.tide then .next s
  else match x.moving with
    | none =>
      if waited && x.freeAt.any (fun t => t + 10 * msec ≤ s.clk.time) then
        if lines = 0 then .next (moveBank n (otherStage x.owner) s)
        else .next (s.onPad n (fun x => { x with moving := some (otherStage x.owner, s.clk.time), freeAt := none }))
      else .next (s.onPad n (fun x => { x with freeAt := if lines = 0 then x.freeAt.or (some s.clk.time) else none }))
    | some (o, t) => if lines = 0 && s.clk.time < t + 5 * msec then .next (moveBank n o s) else .next s

/-- BANK_HANDOVER_TIMEOUT (R483): after 5 ms the hand-over is abandoned. -/
def execBankHandoverTimeout (bank : Fin 32) (s : State) : Host.Outcome State Fault Refusal :=
  match (s.pad bank.val).moving with
  | some (_, t) => if t + 5 * msec ≤ s.clk.time then .next (s.onPad bank.val (fun x => { x with moving := none })) else .next s
  | none => .next s

/-! ## Access (R482) -/

/-- Masters that may access a class (Table 14-5), by the model's numbers: 0 firmware cores, 1 host-port DMA, 2 Causeway receive,
3 Causeway transmit, 4 Sherd engines, 5 Glaze, 6 LDPC encoders, 7 LDPC decoders, 8 Kiln stagers, 9 Kiln read path, 10 Causeway
mirror path, 11 Tidegauge trace, 12 boot-status reads, 13 DIAG_ACCESS, 14 the Last Tide sequencer, which reads every bank. -/
def mastersOf : Owner → List Nat
  | .fw => [0, 14]
  | .wstage => [0, 1, 2, 4, 5, 6, 8, 14]
  | .rstage => [0, 1, 3, 4, 5, 7, 9, 14]
  | .journal => [0, 10, 14]
  | .log => [0, 11, 12, 14]
  | .parity => [4, 8, 14]
  | .system => [0, 13, 14]

/-- Masters of the normal world (R425): the firmware cores, the DMA engine, the Sherd engines, Kiln and Tidegauge. -/
def normalWorld : List Nat := [0, 1, 4, 8, 9, 11]

/-- BANK_ACCESS_FAULT (R482): a master outside the bank's class gets a bus fault and no data. So does a master of the normal world at
Saggar's resources, which Saggar logs with the address (R425; the table has no row of its own for it: notes/assumptions/38.md). -/
def execBankAccessFault (target : Guarded) (master : Nat) (s : State) : Host.Outcome State Fault Refusal :=
  if s.pwr.porHeld then .next s
  else match target with
    | .bank b =>
      if (mastersOf (s.pad b.val).owner).contains master then .next s
      else .next ((s.out (.busFault master)).log 0x0D05 4 srcFirmware [b.val, master])
    | .saggar address =>
      if normalWorld.contains master then
        .next (((s.out (.busFault master)).log 0x0B03 4 srcSaggar [master, address]).onDp (fun _ => count 11 2 1))
      else .next s

/-! ## Retention (R488) -/

/-- BANK_RETENTION_WAKE (R488): an access in Neap wakes a bank. -/
def execBankRetentionWake (bank : Fin 32) (s : State) : Host.Outcome State Fault Refusal :=
  if s.pwr.state = .neap && (s.pad bank.val).st = .retention then
    .next (s.onPad bank.val (fun x => { x with st := .active, lastUse := s.clk.time }))
  else .next s

/-- BANK_RETENTION_RETURN (R488): 50 µs without an access in Neap. -/
def execBankRetentionReturn (bank : Fin 32) (s : State) : Host.Outcome State Fault Refusal :=
  let x := s.pad bank.val
  if s.pwr.state = .neap && x.st = .active && x.lastUse + 50000 ≤ s.clk.time then
    .next (s.onPad bank.val (fun x => { x with st := .retention }))
  else .next s

end Sys2Proof.Machine
end

