-- ==== Sys2Proof/Machine/Power.lean ====
section
/-! DEFINITION. Meanings of the power commands (chapter 15): insertion and the hot-swap controller (R491 to R494), the triggers and
the end of Last Tide (R507 to R513), sag tests (R498, R499), Slack and Neap (R502, R503), Ebb (R504 to R508, R516 to R521), the
rails (R571), and the commands of the start (R463). -/

namespace Sys2Proof.Machine

/-! ## VIN and power-on reset (R491, R520) -/

/-- Device time starts at 0 again: data ages up to now are kept (R139), retirements are counted on from the time they happened (R140),
and what else is timed starts anew. -/
def restartTimes (now : Nat) (d : Dp) : Dp :=
  { d with
    io := { d.io with counters := [], checks := [], critAt := none, activeAt := none }
    med := { d.med with
      rows := d.med.rows.map (fun (r : Row) => { r with
        age := rowAge now r, writtenAt := 0, filledAt := 0, refreshAt := 0 })
      lastWrite := 0, retireTimes := d.med.retireTimes.map (fun t => (t.1, t.2.1, t.2.2 - (now : Int))), ltMovedAt := 0
      rebuilding := d.med.rebuilding.map (fun x => (x.1, x.2.1, 0)) }
    sh := { d.sh with
      passAt := []
      reg := { d.sh.reg with pools := d.sh.reg.pools.map (fun (p : PoolRec) => { p with createdAt := 0 }) } } }

/-- VIN is lost (R491): power-on reset is held, and everything volatile is gone. The UTC of the loss is kept where it was pinned
in this boot; a loss without a pin leaves nothing to add (R139). -/
def loseVin (s : State) : State :=
  let lost := s.clk.pin.map (fun p => (p + s.clk.time) % 2 ^ 64)
  let now := s.clk.time
  let s := clearCore false s
  let idle (b : Bank) : Bank := { b with op := none, held := none, queue := [], reads := 0 }
  let s := { s with
    dp := restartTimes now s.dp
    clk := { s.clk with
      time := 0, ebbCount := 0, frac64 := 0, pin := none, pinErr := 0, lostAt := lost }
    pwr := { s.pwr with
      state := .starting, porHeld := true, vinMv := 0, vinLow := true, vddqdOk := false, vccqfOk := false, insertAt := none, riseAt := none,
      faultAt := none, cap := none, sagMv := 0, sagNext := 0, sagSkipped := false, wakes := [], tripped := false, lt := none,
      triggers := [], waiting := false, coreHeld := false, faultStarts := [] }
    sec := { s.sec with entropyFailed := false }
    bed := { s.bed with
      bank0 := idle s.bed.bank0, bank1 := idle s.bed.bank1, writing := none, again := false, deltaAt := 0 }
    boot := { s.boot with fw := false }
    tap := { drive := none } }
  s.onDp (fun _ d => { d with sh := { d.sh with shadow := [] }, lane := Lane.reset })

/-- LOSS_OF_VIN (R491). While Last Tide runs, VIN_COLLAPSE is the command. -/
def execLossOfVin (s : State) : Host.Outcome State Fault Refusal :=
  if s.pwr.porHeld || s.pwr.lt.isSome then .next s else .next (loseVin s)

/-- VIN_COLLAPSE (R513): VIN falls below 2.4 V before Last Tide ends; `written` records are complete. -/
def execVinCollapse (written : Nat) (s : State) : Host.Outcome State Fault Refusal :=
  if s.pwr.lt.isNone then .next s else .next (loseVin (lastTideEnds (some written) s))

/-- Records of Bedrock whose two copies differ are made equal again (R452), and the wheel keeps its erased sectors (R457). -/
def mendBedrock (s : State) : State :=
  let mend (r : BedRegion) (s : State) : State :=
    let c := s.bed.copies.get (0, 0) (regionNo r)
    let s := { s with bed := { s.bed with newest := s.bed.newest.put (regionNo r) (max c.1 c.2) } }
    if c.1 = c.2 then s else bankAsk (if c.1 < c.2 then 0 else 1) (regionPrio r) false (.record r) s
  let s := mend .keystore (mend .param (mend .bootrec s))
  if s.bed.erasedSectors ≤ 4 then bankAsk 0 2 true .anchor s else s

/-- POWER_ON_RESET (R491, R520, R522): VIN has risen above 2.5 V. Device time starts at 0, BOOT_COUNT rises, the straps are sampled;
the capacitance that an insertion measured is logged (Table 15-3). -/
def execPowerOnReset (straps : Straps) (facts : StartFacts) (vinMv : Nat) (s : State) : Host.Outcome State Fault Refusal :=
  if !s.pwr.porHeld || vinMv < 2500 then .next s
  else
    let s := { s with
      clk := { s.clk with
        time := 0, boot := s.clk.boot + 1, x32 := if facts.crystal then .crystal else .rc }
      bed := { s.bed with bootCount := s.bed.bootCount + 1 }
      boot := { s.boot with straps := straps }
      pwr := { s.pwr with
        porHeld := false, vinMv := vinMv, vinLow := vinMv ≤ s.param 0x0E03 + 100, insertAt := none, riseAt := none, faultAt := none,
        cap := s.pwr.cap.map (fun c => (c.1, 0)) }
      dp := { s.dp with
        hp := { s.dp.hp with a := HostPort.reset true, b := HostPort.reset straps.bifurc }
        ring := { s.dp.ring with version := (s.clk.boot + 1) * 2 ^ 32 } } }
    let s := startCore true false facts s
    let s := mendBedrock s
    .next (match s.pwr.cap with
      | some c => s.log 0x0E02 1 srcAlwaysOn [c.1]
      | none => s)

/-! ## Hot swap (R492 to R494) -/

/-- Inrush current in A (HS_ILIM). -/
def inrush (s : State) : Nat := if s.boot.straps.hsIlim then 4 else 2

/-- The gate turns on or off. -/
def setGate (on : Bool) (s : State) : State := ({ s with pwr := { s.pwr with gateOn := on } }).out (.gate on)

/-- The bus rises under inrush control: its time from 0.5 V to 2.0 V, on device time, gives the capacitance in µF (Table 15-3 step 3). -/
def busRise (busMv : Nat) (s : State) : State :=
  match s.pwr.riseAt with
  | none => if 500 ≤ busMv then { s with pwr := { s.pwr with riseAt := some s.clk.time } } else s
  | some t =>
    if 2000 ≤ busMv && s.pwr.cap.isNone then
      { s with pwr := { s.pwr with cap := some (inrush s * ((s.clk.time - t) / usec) * 2 / 3, s.clk.time) } }
    else s

/-- HOT_SWAP_INSERTION (Table 15-3): the controller sees HS_VSUP and the bus. HS_VSUP has risen above 2.5 V: the gate is driven under
inrush control; then the bus rises. -/
def execHotSwapInsertion (vsupMv busMv : Nat) (s : State) : Host.Outcome State Fault Refusal :=
  if s.pwr.porHeld && s.pwr.insertAt.isSome && s.pwr.gateOn then .next (busRise busMv s)
  else if !s.pwr.porHeld || vsupMv ≤ 2500 || s.pwr.insertAt.isSome || s.pwr.faultAt.isSome ||
      (s.pwr.gateOn && 2400 ≤ s.pwr.vsupMv) || (3 ≤ s.pwr.tries && 2400 ≤ s.pwr.vsupMv) then .next s
  else
    .next (setGate true (busRise busMv { s with pwr := { s.pwr with
      vsupMv := vsupMv, vsupLow := vsupMv < s.param 0x0E03, tries := 0, insertAt := some s.clk.time, riseAt := none
      cap := none } }))

/-- INSERTION_TIMEOUT (R493): 4 s without reaching step 4. -/
def execInsertionTimeout (s : State) : Host.Outcome State Fault Refusal :=
  match s.pwr.insertAt with
  | some t =>
    if t + 4 * second ≤ s.clk.time then
      let s := setGate false { s with pwr := { s.pwr with
        insertAt := none, faultAt := some s.clk.time, tries := s.pwr.tries + 1, riseAt := none, cap := none } }
      .next (s.log 0x0E03 4 srcAlwaysOn [s.pwr.tries])
    else .next s
  | none => .next s

/-- INSERTION_RETRY (R493): 1 s after the fault, at most three tries. -/
def execInsertionRetry (s : State) : Host.Outcome State Fault Refusal :=
  match s.pwr.faultAt with
  | some t =>
    if t + second ≤ s.clk.time then
      if s.pwr.tries < 3 then
        .next (setGate true { s with pwr := { s.pwr with faultAt := none, insertAt := some s.clk.time } })
      else .next { s with pwr := { s.pwr with faultAt := none } }
    else .next s
  | none => .next s

/-- The gate is turned off by a trip (R494): the bank alone feeds the bus, and Last Tide starts (Table 15-8). -/
def gateTrip (s : State) : State :=
  tideTrigger .hsVsup (setGate false { s with pwr := { s.pwr with vsupLow := true } })

/-- A trip on a current limit is logged and counted. -/
def breaker (which : Nat) (s : State) : State :=
  if !s.pwr.gateOn then s
  else
    let s := (s.log 0x0E04 5 srcAlwaysOn [which]).onDp (fun _ => count 14 2 1)
    if s.pwr.porHeld then setGate false { s with pwr := { s.pwr with insertAt := none, riseAt := none } } else gateTrip s

/-- CIRCUIT_BREAKER (R494): above 50 A for 1 ms. -/
def execCircuitBreaker (s : State) : Host.Outcome State Fault Refusal := .next (breaker 1 s)

/-- FAST_TRIP (R494): above 100 A. -/
def execFastTrip (s : State) : Host.Outcome State Fault Refusal := .next (breaker 2 s)

/-- REVERSE_CURRENT (R494): current from the bus into the source. -/
def execReverseCurrent (s : State) : Host.Outcome State Fault Refusal :=
  if s.pwr.gateOn then .next (gateTrip s) else .next s

/-! ## Last Tide triggers (Table 15-8) -/

/-- VIN_BELOW_V_PLP (R509). -/
def execVinBelowVPlp (vinMv : Nat) (s : State) : Host.Outcome State Fault Refusal :=
  if vinMv < s.param 0x0E03 && !s.pwr.porHeld then
    .next (tideTrigger .vin { s with pwr := { s.pwr with vinMv := vinMv, vinLow := true } })
  else .next s

/-- HS_VSUP_BELOW_V_PLP (R509). -/
def execHsVsupBelowVPlp (vsupMv : Nat) (s : State) : Host.Outcome State Fault Refusal :=
  if vsupMv < s.param 0x0E03 then
    .next (tideTrigger .hsVsup { s with pwr := { s.pwr with vsupMv := vsupMv, vsupLow := true } })
  else .next s

/-- PLP_N_LOW (R509). -/
def execPlpNLow (s : State) : Host.Outcome State Fault Refusal :=
  .next (tideTrigger .plp { s with pwr := { s.pwr with plpLow := true } })

/-- THERMAL_TRIP (R507): a sensor has read 115 °C on three samples. -/
def execThermalTrip (s : State) : Host.Outcome State Fault Refusal :=
  if s.pwr.porHeld || s.pwr.state = .ebb || s.pwr.waiting then .next s
  else .next (tideTrigger .thermal (({ s with pwr := { s.pwr with tj := max s.pwr.tj 1150 } }).log 0x0E0A 5 srcAlwaysOn []))

/-- CORE_RST_N_LOW (R509, R506). -/
def execCoreRstNLow (s : State) : Host.Outcome State Fault Refusal :=
  .next (tideTrigger .coreRst (noteWake .coreRst { s with pwr := { s.pwr with coreRstLow := true } }))

/-- WATCHDOG_EXPIRY (R509): no firmware core has served the watchdog for 100 ms of device time. -/
def execWatchdogExpiry (s : State) : Host.Outcome State Fault Refusal :=
  if !s.boot.fw || s.pwr.lt.isSome || s.pwr.porHeld || s.clk.time < s.pwr.watchAt + 100 * msec then .next s
  else .next (faultTrigger .watchdog (s.log 0x0E0C 4 srcAlwaysOn []))

/-! ## The end of Last Tide (R509, R511 step 7) -/

/-- The most severe trigger of the Last Tide that has run. -/
def tideOutcome (p : Pwr) : Option Trigger := leastBy Trigger.code p.triggers

/-- The device waits for the supply: the core starts once VIN or PLP_N is back (Table 15-8). -/
def supplyStart (f : StartFacts) (s : State) : State :=
  if !s.pwr.waiting then s
  else match tideOutcome s.pwr with
    | some .vin | some .hsVsup => if s.pwr.vinLow || s.pwr.vsupLow then s else startCore false false f s
    | some .plp => if s.pwr.plpLow then s else startCore false false f s
    | _ => s

/-- The core starts once CORE_RST_N is high. -/
def heldStart (f : StartFacts) (s : State) : State :=
  if s.pwr.coreHeld && !s.pwr.coreRstLow then startCore false true f s else s

/-- A core start for a fault counts towards R541. -/
def noteFault (s : State) : State :=
  { s with pwr := { s.pwr with
      faultStarts := s.pwr.faultStarts.filter (fun t => s.clk.time < t + 600 * second) ++ [s.clk.time] } }

/-- Ebb begins (Table 15-6 steps 6 to 8): volatile slots are zeroised, the ring is left, DRAM is held in reset, the core is gated
and the count of Ebb starts. -/
def enterEbb (s : State) : State :=
  let s := s.onDp leaveRing
  let s := s.onDp (fun _ d => (List.range 4).foldl (fun d i => put (.dram i (.resetN true)) d) d)
  let s := enterState .ebb (clearCore true s)
  ({ s with
    clk := { s.clk with ebbCount := 0 }
    pwr := { s.pwr with lt := none, triggers := [], wakes := [], entering := none } }).onDp (fun _ => count 14 5 1)

/-- LAST_TIDE_COMPLETE (R511, R509): programs have ended, the generation and its anchor are on flash, LT_DONE is written, the outputs
are clamped, and the outcome of the most severe trigger follows. -/
def execLastTideComplete (facts : StartFacts) (s : State) : Host.Outcome State Fault Refusal :=
  if s.pwr.lt.isNone then .next s
  else
    let s := tideAnchor (lastTideEnds none s)
    let s := s.log 0x0E08 2 srcAlwaysOn []
    match tideOutcome s.pwr with
    | some .thermal =>
      .next ((enterEbb { s with pwr := { s.pwr with tripped := true } }).log 0x0B05 2 srcAlwaysOn [])
    | some .coreRst =>
      let s := clearCore false s
      .next (heldStart facts { s with pwr := { s.pwr with lt := none, coreHeld := true } })
    | some .watchdog | some .memory => .next (startCore false false facts (noteFault (clearCore false s)))
    | some .activate => .next (startCore false false facts (clearCore false s))
    | _ =>
      let s := clearCore false s
      .next (supplyStart facts { s with pwr := { s.pwr with lt := none, waiting := true } })

/-- VIN_RECOVERY (R509): VIN stands 100 mV above V_PLP again. -/
def execVinRecovery (vinMv : Nat) (facts : StartFacts) (s : State) : Host.Outcome State Fault Refusal :=
  if s.param 0x0E03 + 100 < vinMv && !s.pwr.porHeld then
    .next (supplyStart facts { s with pwr := { s.pwr with vinMv := vinMv, vinLow := false, vsupLow := false } })
  else .next s

/-- PLP_N_HIGH (R509). -/
def execPlpNHigh (facts : StartFacts) (s : State) : Host.Outcome State Fault Refusal :=
  .next (supplyStart facts { s with pwr := { s.pwr with plpLow := false } })

/-- CORE_RST_N_HIGH (R509). -/
def execCoreRstNHigh (facts : StartFacts) (s : State) : Host.Outcome State Fault Refusal :=
  .next (heldStart facts { s with pwr := { s.pwr with coreRstLow := false } })

/-! ## Sag tests (R498, R499) -/

/-- SAG_TEST_PERIOD (R498): the periodic test is due: it runs, or is deferred by 10 min. A first test that a low VIN delayed runs as
soon as VIN allows (R499). -/
def execSagTestPeriod (vinMv : Nat) (s : State) : Host.Outcome State Fault Refusal :=
  let s := { s with pwr := { s.pwr with vinMv := vinMv } }
  if !s.boot.fw || s.pwr.sag.isSome || s.clk.time < s.pwr.sagNext || s.pwr.porHeld then .next s
  else if sagBlocked s || s.pwr.lt.isSome || s.pwr.state = .neap || s.pwr.state = .ebb then
    let s := if s.pwr.sagSkipped then s else s.log 0x0E06 2 srcFirmware []
    let later := if s.pwr.cap.isNone then s.clk.time else s.clk.time + 600 * second
    .next { s with pwr := { s.pwr with sagSkipped := true, sagNext := later } }
  else .next (startSag none { s with pwr := { s.pwr with sagSkipped := false } })

/-- The capacitance in µF from mV, mA and µs (R498 step 5). Where VIN has not fallen the rule gives no value. -/
def sagCap (io : Io) (currentMa v1 v2 us : Nat) : Nat :=
  if v2 < v1 then 2 * v1 * currentMa * us / (v1 ^ 2 - v2 ^ 2) else Config.freeCount 14 0 io.fresh

/-- A capacitance is logged when it is the first, and as a warning when it differs by more than 20 % from the one before
(R500). -/
def noteCap (old : Option Nat) (c : Nat) (s : State) : State :=
  match old with
  | none => s.log 0x0E02 1 srcFirmware [c]
  | some o => if o < 5 * (max o c - min o c) then s.log 0x0E02 3 srcFirmware [c] else s

/-- SAG_TEST responds with the capacitance and the sag. -/
def answerSag (m : Option Mbx) (c sag : Nat) (s : State) : State :=
  match m with
  | some m => s.answer m (leBytes 4 c ++ leBytes 4 sag)
  | none => s

/-- SAG_TEST_END (R498): after 5 ms, or at V_PLP + 0.3 V, the gate goes on again and the new capacitance is kept; one that differs by
more than 20 % is logged. -/
def execSagTestEnd (currentMa v1Mv v2Mv : Nat) (s : State) : Host.Outcome State Fault Refusal :=
  match s.pwr.sag with
  | none => .next s
  | some x =>
    let timeUs := (s.clk.time - x.since) / usec
    if timeUs < 5000 && s.param 0x0E03 + 300 < v2Mv then .next s
    else
      let c := sagCap s.dp.io currentMa v1Mv v2Mv timeUs
      let old := s.pwr.cap.map Prod.fst
      let s := s.onDp (fun _ d => (draw d).2)
      let s := setGate true { s with pwr := { s.pwr with
        sag := none, cap := some (c, s.clk.time), sagMv := v1Mv - v2Mv, vinMv := v2Mv } }
      let s := (noteCap old c s).onDp (fun _ => count 14 1 1)
      let s := if old.isNone && s.boot.ready then startHoldup s else s
      .next (answerSag x.byMail c (v1Mv - v2Mv) s).work

/-- SAG_TEST (R498): the gate goes off, and the response follows the test; while one runs the command waits. -/
def execSagTest (m : Mbx) (s : State) : Host.Outcome State Fault Refusal :=
  onRequest m 0x0804 (fun _ s =>
    if s.pwr.sag.isSome then s else startSag (some m) (s.onDp (fun _ d => d.wait m))) s

/-! ## Slack and Neap (R502, R503) -/

/-- The device is idle as R502 lists it and has been for a time in ns. -/
def idleFor (s : State) (ns : Nat) : Bool :=
  match s.pwr.idleSince with
  | some t => !busyNow s && max t s.dp.ring.busyAt + ns ≤ s.clk.time
  | none => false

/-- Held blocks that Slack gates: all lanes but two (Table 15-5). -/
def slackBlocks : List HeldBlock :=
  ([2, 3, 4, 5, 6, 7, 8, 9, 10, 11, 12, 13, 14, 15, 16, 17, 18, 19] : List (Fin 20)).map HeldBlock.lane

/-- Held blocks that Neap gates: every lane, and the entropy source, which starts up again at its end (R427). -/
def neapBlocks : List HeldBlock := [.lane 0, .lane 1, .entropy]

/-- Commit to Slack (R503): every hold is released, and the first lane is gated. -/
def commitSlack (s : State) : State :=
  let s := enterState .slack s
  let s := slackBlocks.foldl (fun s b => gateBlock b s) s
  ({ s with pwr := { s.pwr with entering := none, slackSince := s.clk.time } }).onDp (fun _ => count 14 3 1)

/-- SLACK_ENTRY (R502, R503): idle for SLACK_IDLE; the entry waits for the holds that are pending, and commits without any. -/
def execSlackEntry (s : State) : Host.Outcome State Fault Refusal :=
  let going := s.pwr.entering.any (fun x => x.target = .slack)
  if s.pwr.state != .flood || !s.boot.ready || s.boot.fatal || s.env.tide || (s.pwr.entering.isSome && !going) ||
      !idleFor s (s.param 0x0E01 * 1000) then .next s
  else if s.sec.holds.isEmpty then .next (commitSlack s)
  else .next { s with pwr := { s.pwr with
      entering := some (s.pwr.entering.getD { target := .slack, since := s.clk.time, byMail := none }) } }

/-- The entry that waits for holds goes on once none is left (R448). -/
def holdsGone (s : State) : State :=
  if s.sec.holds.isEmpty && s.pwr.entering.any (fun x => x.target = .slack) then commitSlack s else s

/-- VETO_HOLD_REQUEST (R448, Table 13-9): the block takes no new operation while its gate is pending; once Saggar has zeroised its
secrets it is gated. -/
def execVetoHoldRequest (block : HeldBlock) (released : Bool) (s : State) : Host.Outcome State Fault Refusal :=
  if !saggarOn s || s.sec.gated.contains block then .next s
  else if released then .next (holdsGone (gateBlock block s))
  else if blockOff block s then .next s
  else .next { s with sec := { s.sec with holds := s.sec.holds ++ [(block, s.clk.time)] } }

/-- VETO_TIMEOUT (R449): 10 ms after the request the hardware zeroises the block's secrets and gates it. -/
def execVetoTimeout (block : HeldBlock) (s : State) : Host.Outcome State Fault Refusal :=
  if s.sec.holds.any (fun h => h.1 = block && h.2 + 10 * msec ≤ s.clk.time) then
    let s := (gateBlock block s).onDp (fun _ => count 11 3 1)
    .next (holdsGone (s.log 0x0B04 4 srcAlwaysOn []))
  else .next s

/-- Every host link that is up is in L1 (R502). -/
def linksL1 (d : Dp) : Bool :=
  let l := [d.hp.a, d.hp.b].filter (fun h => h.linkUp)
  !l.isEmpty && l.all (fun h => h.l1)

/-- A scratchpad bank in Neap (R488, R483): movable banks are back with their owners, staging is gated, the rest is retained. -/
def neapPad (n : Nat) (x : Pad) : Pad :=
  if x.st = .offline then x
  else
    let o := padOwner n
    { x with owner := o, moving := none, freeAt := none, st := if o = .wstage || o = .rstage then .gated else .retention }

/-- Enter Neap: DRAM into self-refresh (R480), links to two lanes, banks as R488 states. -/
def commitNeap (s : State) : State :=
  let s := (List.range 4).foldl sleepChan s
  let s := (enterState .neap s).onDp (fun e d => neapWidth e true d)
  let s := neapBlocks.foldl (fun s b => gateBlock b s) s
  ({ s with
    pwr := { s.pwr with entering := none }
    dram := { s.dram with chans := s.dram.chans.map (fun (x : Nat × DChan) => (x.1, { x.2 with
      selfRefresh := true })) }
    pads := { s.pads with banks := s.pads.banks.map (fun (x : Nat × Pad) => (x.1, neapPad x.1 x.2)) } }).onDp (fun _ => count 14 4 1)

/-- NEAP_ENTRY (R502, R488, R102). -/
def execNeapEntry (s : State) : Host.Outcome State Fault Refusal :=
  if s.pwr.state != .slack || s.pwr.entering.isSome || !idleFor s (s.param 0x0E01 * 1000) ||
      s.clk.time < s.pwr.slackSince + s.param 0x0E02 * msec || !linksL1 s.dp || greenHeld s.dp != 0 ||
      !s.sec.holds.isEmpty then .next s
  else .next (commitNeap s)

/-- A scratchpad bank after Neap: gated banks are initialised before use. -/
def wakePad (x : Pad) : Pad := if x.st = .offline then x else { x with st := .active, recent := 0 }

/-- Each die's ZQ short calibration at an exit (R89, R90). -/
def calibrateDies (e : Env) (d : Dp) : Dp :=
  eachDie (fun c n d => if dieGood d c n then
    put (.die c n .zqShort) (d.setDie c n { d.die c n with zqAt := e.now, zqTj := e.tj }) else d) d

/-- Leave Slack or Neap for Flood (R502, R503, R473, R475). -/
def leaveLow (s : State) : State :=
  let neap : Bool := s.pwr.state = .neap
  let s := enterState .flood s
  let s := ungateAll { s with pwr := { s.pwr with entering := none, idleSince := some s.clk.time } }
  if neap then
    let s := takePending 1 s
    let s := { s with
      dram := { s.dram with chans := s.dram.chans.map (fun (x : Nat × DChan) => (x.1, { x.2 with selfRefresh := false })) }
      pads := { s.pads with
        banks := s.pads.banks.map (fun (x : Nat × Pad) => (x.1, wakePad x.2)), neapExit := some s.clk.time } }
    s.onDp (fun e d =>
      let d := (List.range 4).foldl (fun d i => put (.dram i (.selfRefresh false)) d) d
      eachDie (fun c n => startDie e c n) (calibrateDies e (neapWidth e false d)))
  else s

/-- POWER_STATE_EXIT (R502, R503): a wake event; before the commit point it abandons the entry. The host link leaving L1 counts in
Neap alone. -/
def execPowerStateExit (w : WakeEvent) (s : State) : Host.Outcome State Fault Refusal :=
  if s.pwr.state = .neap || (s.pwr.state = .slack && w != .hostLink) then .next (leaveLow s).work
  else .next s.stayAwake

/-- TRANSIT_LOAD_WAKE (R268): a port has had more than 10 GB/s of queued transmit traffic for 100 µs. -/
def execTransitLoadWake (s : State) : Host.Outcome State Fault Refusal :=
  if !cwPorts.any (fun p => (s.dp.link p).loaded || overload (s.dp.link p)) then .next s
  else if s.pwr.state = .neap || s.pwr.state = .slack then .next (leaveLow s).work else .next s.stayAwake

/-! ## Giving roles up (R246) -/

/-- The device gives up its standby roles and hands each steward role to the pool's standby. -/
def giveRoles (e : Env) (d : Dp) : Dp :=
  d.sh.roles.foldl (fun d x =>
    let x := d.roleD x.pool
    match x.role, x.standby with
    | .standby, _ => d.setRole { x with role := .none, contest := none }
    | .steward, some k => if x.handover.isNone then startHandover e x.pool k none d else d
    | _, _ => d) d

/-- Some steward or standby role is held. -/
def rolesHeld (d : Dp) : Bool := d.sh.roles.any (fun x => x.role != .none)

/-- A role that cannot be handed over, or is still held after 100 ms, is relinquished (R245). -/
def dropRoles (e : Env) (all : Bool) (d : Dp) : Dp :=
  d.sh.roles.foldl (fun d x =>
    let x := d.roleD x.pool
    if x.role = .steward && (all || x.standby.isNone && x.appoint.isNone) then relinquish e x.pool d else d) d

/-- Start leaving for Ebb or for a restart. -/
def startLeaving (target : PState) (m : Mbx) (s : State) : State :=
  if s.pwr.entering.any (fun x => x.target = target) then s
  else
    let s := { s with pwr := { s.pwr with entering := some { target := target, since := s.clk.time, byMail := some m } } }
    (s.onDp giveRoles).work

/-- Roles go on leaving: a new standby role is given up again, and a steward role without a standby is relinquished. -/
def leaveRoles (s : State) : State := (s.onDp (fun e d => dropRoles e false (giveRoles e d))).work

/-- EBB_HANDOVER_TIMEOUT (R246): roles still held 100 ms into Ebb entry are relinquished. -/
def execEbbHandoverTimeout (s : State) : Host.Outcome State Fault Refusal :=
  match s.pwr.entering with
  | some x =>
    if (x.target = .ebb || x.target = .lastTide) && x.since + 100 * msec ≤ s.clk.time then
      .next (s.onDp (fun e d => dropRoles e true (giveRoles e d))).work
    else .next s
  | none => .next s

/-! ## Ebb (R504 to R508, R516 to R519) -/

/-- Open die stripes are closed before Ebb (R489). -/
def closeStripes (e : Env) (d : Dp) : Dp :=
  ((d.med.rows.filter (fun r => r.openSince.isSome)).map Row.id).foldl (fun d id => closeStripe e id d) d

/-- The newest anchor is an Ebb anchor of this entry. -/
def ebbAnchored (s : State) (since : Nat) : Bool :=
  s.bed.writing.isNone && s.bed.anchors.head?.any (fun a => a.ebb && a.boot = s.clk.boot && since ≤ a.time)

/-- EBB_ENTER (Table 15-6): roles are given up, the queue engine drains, greenware reaches the medium, open stripes close, an anchor is
programmed, the response is written, and Ebb begins. The command goes on each time it comes until all is done. -/
def execEbbEnter (m : Mbx) (s : State) : Host.Outcome State Fault Refusal :=
  onRequest m 0x0802 (fun _ s =>
    let s := leaveRoles (startLeaving .ebb m s)
    let since := s.pwr.entering.elim s.clk.time Entering.since
    if rolesHeld s.dp || cmdBusy s.dp || s.dp.map.green.any (fun g => !g.verified || !g.committed) then s
    else if s.dp.med.rows.any (fun r => r.openSince.isSome) then (s.onDp closeStripes).work
    else if dieWork s.dp then s
    else if !ebbAnchored s since then
      if s.bed.writing.any Anchor.ebb || s.dp.map.ckptDue.any Prod.snd then s else (requestAnchor true s).work
    else enterEbb (s.answer m [])) s

/-- Nanoseconds of a count of 32.768 kHz periods, with the remainder carried (R517). -/
def ebbGap (count frac64 : Nat) : Nat × Nat := ((count * 1953125 + frac64) / 64, (count * 1953125 + frac64) % 64)

/-- Source code and uncertainty in ns of a gap (R518). -/
def gapSource (x : X32) (gap : Nat) : Nat × Nat :=
  match x with
  | .crystal => (1, gap * 50 / 1000000 + 80)
  | .rc => (2, gap * 2 / 100 + 80)
  | .stopped => (3, gap * 2 / 100 + 80)

/-- The gap of an Ebb is added to device time, logged and told, and a pin's uncertainty grows (R517, R518, R521). -/
def addGap (s : State) : State :=
  let g := ebbGap s.clk.ebbCount s.clk.frac64
  let u := gapSource s.clk.x32 g.1
  let s := { s with clk := { s.clk with
    time := s.clk.time + g.1, frac64 := g.2, ebbCount := 0
    x32 := if s.clk.x32 = X32.stopped then .rc else s.clk.x32
    pinErr := if s.clk.pin.isSome then s.clk.pinErr + u.2 else s.clk.pinErr } }
  -- time in Ebb does not count for secure-discard jobs (R62) and Beachcomber's passes (R220)
  let on_ (r : Registry) : Registry := { r with jobs := r.jobs.map (fun (j : SdJob) => { j with startedAt := j.startedAt + g.1 }) }
  let s := { s with dp := { s.dp with sh := { s.dp.sh with
    reg := on_ s.dp.sh.reg, regNext := on_ s.dp.sh.regNext
    passAt := s.dp.sh.passAt.map (fun (x : Nat × Nat) => (x.1, x.2 + g.1)) } } }
  (s.onDp (fun e d => logAt e.now 0x0E0B 2 srcAlwaysOn (args64 g.1 (u.2 * 256 + u.1)) d)).cause evTimeGap

/-- After Ebb a training pattern is read from one die per chip enable of each channel (R90). -/
def checkTraining (e : Env) (d : Dp) : Dp :=
  (goodChans d).foldl (fun d c => (List.range 4).foldl (fun d ce =>
    match (goodDies d c).find? (fun n => n / 4 = ce) with
    | some n => enqueue e c n .pattern 2 d
    | none => d) d) d

/-- Firmware goes on from the retained banks (R506): Kiln and DRAM are restored, the gated banks are initialised, the key slots are
restored, and the ports train. -/
def resumeCore (s : State) : State :=
  let slots := match s.sec.slots.find 0 with
    | some k => s.bed.keys.put 0 k
    | none => s.bed.keys
  let s := { s with
    boot := { s.boot with fw := true, resumed := true }
    sec := { s.sec with slots := slots }
    pads := { s.pads with banks := s.pads.banks.map (fun (x : Nat × Pad) => (x.1, wakePad x.2)) }
    dram := { s.dram with chans := s.dram.chans.map (fun (x : Nat × DChan) => (x.1, { x.2 with resetLow := false })) }
    pwr := { s.pwr with idleSince := some s.clk.time, watchAt := s.clk.time } }
  (keyLanes s).onDp (fun e d =>
    let d := { d with
      kiln := { d.kiln with floating := false }
      lane := { d.lane with lastCheck := e.now, highAt := e.now } }
    let d := (List.range 4).foldl (fun d i => put (.dram i (.resetN false)) d) d
    cwPorts.foldl (fun d p => put (.link p .train) d) (checkTraining e (calibrateDies e d)))

/-- EBB_EXIT (R506, R508): a wake event that has been seen ends Ebb, but after a trip only once every sensor reads below 95 °C; an
earlier one is ignored. CORE_RST_N leads through a core start. A DRAM channel that fails its pattern check is trained again (R473). -/
def execEbbExit (w : EbbWake) (cool : Bool) (facts : StartFacts) (s : State) : Host.Outcome State Fault Refusal :=
  if s.pwr.state != .ebb || s.pwr.porHeld || !s.pwr.wakes.contains w then .next s
  else if s.pwr.tripped && !cool then .next { s with pwr := { s.pwr with wakes := [] } }
  else
    let trip := s.pwr.tripped
    let s := enterState .starting (addGap { s with pwr := { s.pwr with wakes := [], tripped := false } })
    if w = .coreRst then
      let s := clearCore false s
      let s := if s.pwr.coreRstLow then { s with pwr := { s.pwr with coreHeld := true } } else startCore false true facts s
      .next (if trip then s.cause evThermal else s)
    else
      let s := facts.dramRetrain.foldl (fun s x => retrainChan x.1.val x.2 s) (resumeCore s)
      .next (if trip then s.cause evThermal else s)

/-- X32_CRYSTAL_STOP (R519): the count goes on on the internal RC. -/
def execX32CrystalStop (s : State) : Host.Outcome State Fault Refusal :=
  if s.pwr.state = .ebb && s.clk.x32 = .crystal then .next { s with clk := { s.clk with x32 := .stopped } } else .next s

/-! ## Rails (R571) -/

/-- SUPPLY_RAIL_IN_RANGE (R571): bring-up that waits at T_K goes on once both rails are in range; with VCCQF the lane receiver
listens. -/
def execSupplyRailInRange (vccqf : Bool) (s : State) : Host.Outcome State Fault Refusal :=
  if s.pwr.porHeld then .next s
  else
    let s := if vccqf then { s with
        pwr := { s.pwr with vccqfOk := true }
        dp := { s.dp with lane := { s.dp.lane with lastCheck := s.clk.time, highAt := s.clk.time } } }
      else { s with pwr := { s.pwr with vddqdOk := true } }
    if s.boot.railWait && railsOk s.pwr then .next (bringUp s).work else .next s

/-- RAIL_TIMEOUT (R571): 500 ms after the start a rail is still out of range. -/
def execRailTimeout (vccqf : Bool) (s : State) : Host.Outcome State Fault Refusal :=
  let out_ := if vccqf then !s.pwr.vccqfOk else !s.pwr.vddqdOk
  if s.boot.railWait && out_ && s.boot.startAt + 500 * msec ≤ s.clk.time then
    .next (safeMode (if vccqf then 0x45 else 0x44) { s with boot := { s.boot with railWait := false } })
  else .next s

/-! ## Firmware activation (R461, R463, R400) -/

/-- The boot record of an accepted FW_ACTIVATE. -/
def acceptActivate (slot build : Nat) (s : State) : State :=
  let s := { s with bed := { s.bed with boot := { slot := slot, trial := true, tries := 3, fellBack := s.bed.boot.fellBack } } }
  let s := s.log 0x0B07 2 srcSaggar [slot, build]
  writeRecord .bootrec (extendMeas 6 (leBytes 2 0x0B07 ++ leBytes 1 slot ++ leBytes 4 build) s)

/-- A mailbox is the management port's. -/
def isMgmt : Mbx → Bool
  | .mgmt => true
  | _ => false

/-- Both a host port and the management port are present (R400). -/
def bothSides (d : Dp) : Bool := mgmtHere d && (d.hp.a.linkUp || d.hp.b.linkUp)

/-- The other side's order for the same image stands (R400). -/
def halfMatches (s : State) (m : Mbx) (slot build : Nat) : Bool :=
  s.dp.mb.half.any (fun h => h.byHost = isMgmt m && h.slot = slot && h.build = build && s.clk.time < h.since + 60 * second)

/-- FW_ACTIVATE (R461, R400): a STAGED slot with the named build, ordered by both sides where both are present, takes a trial boot record;
"now" then gives up the roles, leaves the ring, and runs Last Tide to a core start. -/
def execFwActivate (m : Mbx) (s : State) : Host.Outcome State Fault Refusal :=
  onRequest m 0x0503 (fun r s =>
    let slot := fieldAt r.payload 0 1
    let build := fieldAt r.payload 4 4
    let now := fieldAt r.payload 8 1 = 1
    let i := s.image slot
    if s.pwr.entering.any (fun x => x.target = .lastTide && x.byMail = some m) then
      let s := leaveRoles s
      if rolesHeld s.dp then s else tideTrigger .activate (s.answer m [1])
    else if i.st != .staged || i.build != build then s.deny m msField 8
    else if bothSides s.dp && !halfMatches s m slot build then
      ({ s with dp := { s.dp with mb := { s.dp.mb with
          half := some { byHost := !isMgmt m, slot := slot, build := build, since := s.clk.time } } } }).deny m msWaiting 0
    else
      let s := acceptActivate slot build { s with dp := { s.dp with mb := { s.dp.mb with half := none } } }
      if now then
        let s := startLeaving .lastTide m s
        if rolesHeld s.dp then s else tideTrigger .activate (s.answer m [1])
      else s.answer m [0]) s

/-- TRIAL_CLEAR (R463, R465): 60 s after READY without a core fault, and joined where any other member is present. -/
def execTrialClear (s : State) : Host.Outcome State Fault Refusal :=
  let others := (otherRanks s.env s.dp).any (fun k =>
    s.dp.sh.reg.members.any (fun (x : MemberRec) => x.rank = k) && present s.env s.dp k)
  if !s.boot.ready || !s.bed.boot.trial || s.clk.time < s.boot.readyAt + 60 * second || (others && !joined s.dp) then .next s
  else
    let n := if s.boot.imageB then 1 else 0
    let s := { s with bed := { s.bed with boot := { s.bed.boot with slot := n, trial := false, tries := 0 } } }
    let s := s.setImage n { s.image n with st := .active }
    let o := s.image (1 - n)
    let s := if o.st = .active then s.setImage (1 - n) { o with st := .previous } else s
    .next (advanceSvn (writeRecord .bootrec s))

/-- TRIAL_RESTART (R463): TRIAL still set 120 s after the core start; the restart carries its state by Last Tide. -/
def execTrialRestart (s : State) : Host.Outcome State Fault Refusal :=
  if s.boot.fw && s.bed.boot.trial && s.boot.startAt + 120 * second ≤ s.clk.time && s.pwr.lt.isNone then
    .next (tideTrigger .activate s)
  else .next s

end Sys2Proof.Machine
end

