-- ==== Sys2Proof/Machine/Sideband.lean ====
section
/-! DEFINITION. Meanings of the management port and of attestation: the boot-status block (R530), MCTP control and
vendor-defined messages (R394), SPDM over DOE and MCTP (R445, R447, R526), and the timers of leases, activations and the
management port's presence (R394, R398, R400). -/

namespace Sys2Proof.Machine

/-! ## Boot-status block (R530) -/

/-- The SMBus target serves the boot-status block: from POR + 1 ms, in every power state (Table 16-2). -/
def smbusUp (s : State) : Bool := !s.pwr.porHeld && msec ≤ s.clk.time

/-- BOOT_STATUS_READ (R530): a byte count of 32 and the block; NAK before POR + 1 ms. -/
def execBootStatusRead (s : State) : Host.Outcome State Fault Refusal :=
  .next (s.out (if smbusUp s then .smbus (leBytes 1 32 ++ leBytes 32 (bootBlock s)) else .smbusNak))

/-- BOOT_STATUS_WAKE_WRITE (R530): 0xA5 in Ebb is a wake event; any other value and any other state is ignored. -/
def execBootStatusWakeWrite (v : Byte) (s : State) : Host.Outcome State Fault Refusal :=
  if !smbusUp s then .next (s.out .smbusNak)
  else if v = 0xA5 then .next (noteWake .wakeByte s)
  else .next s

/-! ## MCTP (R394) -/

/-- MCTP is served: NAKed until firmware runs. -/
def mctpUp (s : State) : Bool := smbusUp s && s.boot.fw

/-- The management port has heard a message and is present. -/
def heardMgmt (s : State) : State :=
  (s.stayAwake).onDp (fun e d => { d with mb := { d.mb with mgmtAt := some e.now } })

/-- An MCTP message is served, or NAKed. -/
def onMctp (f : State → State) (s : State) : Host.Outcome State Fault Refusal :=
  if mctpUp s then .next (f (heardMgmt s)) else .next (s.out .smbusNak)

/-- The request a vendor-defined message carries: header and payload as the window holds them. -/
def messageRequest (b : List Byte) : MbReq :=
  { opcode := fieldAt b 0 2, token := BitVec.ofNat 32 (fieldAt b 12 4), length := fieldAt b 4 2,
    clean := fieldAt b 2 2 = 0 && fieldAt b 6 6 = 0, payload := b.drop 16, waiting := false }

/-- MCTP_VENDOR_MESSAGE (R394): one mailbox request, or BUSY while another runs. A message of another vendor, and one too short
for a request header, is discarded. -/
def execMctpVendorMessage (vendor : BitVec 16) (message : List Byte) (s : State) : Host.Outcome State Fault Refusal :=
  onMctp (fun s =>
    let r := messageRequest message
    if vendor.toNat != vendorId || message.length < 16 then s
    else if (s.dp.mail .mgmt).busy then s.out (.mctp (leBytes 2 vendorId ++ responseBytes r msBusy 0 []))
    else startRequest .mgmt r s) s

/-- An MCTP control response: message type 0, command code, completion code and data (notes/assumptions/9.md). -/
def control (cmd completion : Nat) (data : List Byte) (s : State) : State :=
  s.out (.mctp (leBytes 1 0 ++ leBytes 1 cmd ++ leBytes 1 completion ++ data))

/-- SET_ENDPOINT_ID (R394): the null and broadcast IDs are refused. -/
def execSetEndpointId (eid : Byte) (s : State) : Host.Outcome State Fault Refusal :=
  onMctp (fun s =>
    if eid = 0 || eid = 0xFF then control 1 2 [] s
    else control 1 0 [0, eid, 0] { s with dp := { s.dp with mb := { s.dp.mb with eid := eid } } }) s

/-- GET_ENDPOINT_ID (R394). -/
def execGetEndpointId (s : State) : Host.Outcome State Fault Refusal :=
  onMctp (fun s => control 2 0 [s.dp.mb.eid, 0, 0] s) s

/-- GET_ENDPOINT_UUID (R394). -/
def execGetEndpointUuid (s : State) : Host.Outcome State Fault Refusal :=
  onMctp (fun s => control 3 0 (leBytes 16 (Config.endpointUuid s.boot.serial).toNat) s) s

/-- Message types the port accepts beside MCTP control. -/
def mctpTypes : List Byte := [0x05, 0x7E]

/-- GET_MCTP_VERSION_SUPPORT (R394): one version entry for the base protocol and each type accepted. -/
def execGetMctpVersionSupport (mtype : Byte) (s : State) : Host.Outcome State Fault Refusal :=
  onMctp (fun s =>
    if mtype = 0xFF || mtype = 0 || mctpTypes.contains mtype then
      control 4 0 (leBytes 1 1 ++ leBytes 4 (Config.mctpVersion mtype.toNat).toNat) s
    else control 4 0x80 [] s) s

/-- GET_MESSAGE_TYPE_SUPPORT (R394). -/
def execGetMessageTypeSupport (s : State) : Host.Outcome State Fault Refusal :=
  onMctp (fun s => control 5 0 (leBytes 1 mctpTypes.length ++ mctpTypes) s) s

/-- GET_VENDOR_DEFINED_MESSAGE_SUPPORT (R394): one vendor set, PCI vendor ID 0x1F8B. -/
def execGetVendorDefinedMessageSupport (sel : Byte) (s : State) : Host.Outcome State Fault Refusal :=
  onMctp (fun s =>
    if sel = 0 then control 6 0 ([0xFF, 0x00, 0x1F, 0x8B] ++ leBytes 2 0) s else control 6 2 [] s) s

/-! ## SPDM (R445) -/

/-- Versions Saggar answers: 1.3, and 1.2 when asked. -/
def spdmVersions : List Nat := [0x12, 0x13]

/-- The connection state of a transport. -/
def State.spdm (s : State) : Transport → SpdmSt
  | .doe .a => s.sec.spdmA
  | .doe .b => s.sec.spdmB
  | .mctp => s.sec.spdmM

def State.setSpdm (s : State) (t : Transport) (x : SpdmSt) : State :=
  match t with
  | .doe .a => { s with sec := { s.sec with spdmA := x } }
  | .doe .b => { s with sec := { s.sec with spdmB := x } }
  | .mctp => { s with sec := { s.sec with spdmM := x } }

/-- SPDM error codes of the standard (notes/assumptions/9.md). -/
def spInvalid : Nat := 0x01
def spUnexpected : Nat := 0x04
def spUnsupported : Nat := 0x07
def spVersion : Nat := 0x41
def spVendor : Nat := 0xFF

/-- A code at which the self-test has stopped Saggar (R447). -/
def saggarStopped (s : State) : Bool := romCode s.boot != 0

/-- A request reaches Saggar: on DOE from the end of step 3, and before it Busy (R526), or the ROM's error after a failed
self-test (R447); on MCTP once firmware runs. -/
def onSpdm (t : Transport) (f : State → State) (s : State) : Host.Outcome State Fault Refusal :=
  match t with
  | .mctp => onMctp f s
  | .doe p =>
    if !(s.dp.port p).linkUp then .next s
    else if saggarStopped s then .next (s.out (.spdmError t spVendor (leBytes 2 vendorId ++ leBytes 1 (romCode s.boot))))
    else if !s.boot.spdm then .next (s.out (.doeBusy p))
    else .next (f s)

/-- A response: the fields this model gives, then the rest as the standard has them. -/
def spdmReply (t : Transport) (code version : Nat) (data : List Byte) (s : State) : State :=
  let s' := s.onDp (fun _ d => (draw d).2)
  s'.out (.spdm t version (leBytes 1 code ++ data ++ Config.spdmBytes code version s.dp.io.fresh))

def spdmFail (t : Transport) (code : Nat) (s : State) : State := s.out (.spdmError t code [])

/-- A request under the negotiated version, once algorithms are agreed. -/
def negotiated (t : Transport) (version : Nat) (f : State → State) (s : State) : State :=
  let x := s.spdm t
  if !x.algs then spdmFail t spUnexpected s
  else if x.version != some version then spdmFail t spVersion s
  else f s

/-- The certificate chain of slot 0. -/
def chain (s : State) : List Byte :=
  let c (i : Nat) : List Byte := Config.certificate i s.boot.serial (s.sec.meas.getD 1 0)
  c 0 ++ c 1 ++ c 2

def doGetVersion (t : Transport) (s : State) : State :=
  spdmReply t 0x04 0x10 (leBytes 1 spdmVersions.length ++ spdmVersions.flatMap (leBytes 1)) (s.setSpdm t SpdmSt.reset)

def doGetCapabilities (t : Transport) (version : Nat) (s : State) : State :=
  if !spdmVersions.contains version then spdmFail t spVersion s
  else spdmReply t 0x61 version [] (s.setSpdm t { SpdmSt.reset with version := some version, caps := true })

def doNegotiate (t : Transport) (version : Nat) (ecdsa sha : Bool) (s : State) : State :=
  let x := s.spdm t
  if !x.caps then spdmFail t spUnexpected s
  else if x.version != some version then spdmFail t spVersion s
  else if !(ecdsa && sha) then spdmFail t spInvalid s
  else spdmReply t 0x63 version [] (s.setSpdm t { x with algs := true })

def doGetDigests (t : Transport) (version : Nat) (s : State) : State :=
  negotiated t version (fun s => spdmReply t 0x01 version (leBytes 1 1 ++ digestBytes (Config.sha384 (chain s))) s) s

def doGetCertificate (t : Transport) (version slot off len : Nat) (s : State) : State :=
  negotiated t version (fun s =>
    if slot != 0 then spdmFail t spInvalid s
    else
      let part := ((chain s).drop off).take len
      spdmReply t 0x02 version (leBytes 2 part.length ++ leBytes 2 ((chain s).length - off - part.length) ++ part) s) s

def doChallenge (t : Transport) (version slot : Nat) (nonce : BitVec 256) (s : State) : State :=
  negotiated t version (fun s =>
    if slot != 0 then spdmFail t spInvalid s
    else
      let k := drbg 32 s
      let body := digestBytes (Config.sha384 (chain s)) ++ k.1
      let sig := bytesAt (Config.ecdsaSign s.boot.serial (Config.sha384 (leBytes 32 nonce.toNat ++ body))) 0 96
      spdmReply t 0x03 version (body ++ sig) k.2) s

/-- One measurement block: index and digest (Table 13-6). -/
def measBlock (s : State) (i : Nat) : List Byte := leBytes 1 i ++ digestBytes (s.sec.meas.getD (i - 1) 0)

def doGetMeasurements (t : Transport) (version index : Nat) (sign : Bool) (nonce : BitVec 256) (s : State) : State :=
  negotiated t version (fun s =>
    if !(index = 0 || index ≤ 8 || index = 0xFF) then spdmFail t spInvalid s
    else
      let body := if index = 0 then leBytes 1 8
        else if index = 0xFF then (List.range 8).flatMap (fun i => measBlock s (i + 1))
        else measBlock s index
      if sign then
        let k := drbg 32 s
        let b := body ++ k.1
        let sig := bytesAt (Config.ecdsaSign s.boot.serial (Config.sha384 (leBytes 32 nonce.toNat ++ b))) 0 96
        spdmReply t 0x60 version (b ++ sig) k.2
      else spdmReply t 0x60 version body s) s

/-- GET_VERSION (R445). -/
def execGetVersion (t : Transport) (s : State) : Host.Outcome State Fault Refusal := onSpdm t (doGetVersion t) s

/-- GET_CAPABILITIES (R445). -/
def execGetCapabilities (t : Transport) (version : Nat) (s : State) : Host.Outcome State Fault Refusal :=
  onSpdm t (doGetCapabilities t version) s

/-- NEGOTIATE_ALGORITHMS (R445): ECDSA P-384 with SHA-384 alone. -/
def execNegotiateAlgorithms (t : Transport) (version : Nat) (ecdsaP384 sha384 : Bool) (s : State) :
    Host.Outcome State Fault Refusal := onSpdm t (doNegotiate t version ecdsaP384 sha384) s

/-- GET_DIGESTS (R445): slot 0 alone. -/
def execGetDigests (t : Transport) (version : Nat) (s : State) : Host.Outcome State Fault Refusal :=
  onSpdm t (doGetDigests t version) s

/-- GET_CERTIFICATE (R445). -/
def execGetCertificate (t : Transport) (version slot offset length : Nat) (s : State) :
    Host.Outcome State Fault Refusal := onSpdm t (doGetCertificate t version slot offset length) s

/-- CHALLENGE (R445). -/
def execChallenge (t : Transport) (version slot : Nat) (nonce : BitVec 256) (s : State) :
    Host.Outcome State Fault Refusal := onSpdm t (doChallenge t version slot nonce) s

/-- GET_MEASUREMENTS (R445). -/
def execGetMeasurements (t : Transport) (version index : Nat) (sign : Bool) (nonce : BitVec 256) (s : State) :
    Host.Outcome State Fault Refusal := onSpdm t (doGetMeasurements t version index sign nonce) s

/-- DOE_REQUEST (R526): Busy until step 3 of measured start ends, then served as SPDM; requests outside Table 13-8 are not
supported. -/
def execDoeRequest (port : PortId) (version : Nat) (req : SpdmReq) (s : State) : Host.Outcome State Fault Refusal :=
  let t : Transport := .doe port
  onSpdm t (fun s => match req with
    | .getVersion => doGetVersion t s
    | .getCapabilities => doGetCapabilities t version s
    | .negotiateAlgorithms => doNegotiate t version true true s
    | .getDigests => doGetDigests t version s
    | .getCertificate slot off len => doGetCertificate t version slot off len s
    | .challenge slot nonce => doChallenge t version slot nonce s
    | .getMeasurements index sign nonce => doGetMeasurements t version index sign nonce s
    | .other _ => spdmFail t spUnsupported s) s

/-! ## Timers -/

/-- LEASE_TERM_EXPIRY (R398): on the registry steward's device time a lease whose term has ended is free. -/
def execLeaseTermExpiry (handle : Nat) (s : State) : Host.Outcome State Fault Refusal :=
  let over_ (g : Registry) : Registry :=
    { g with leases := g.leases.filter (fun l => !(l.handle = handle && l.ends ≤ s.clk.time)) }
  if isSteward s.dp 0 then
    .next { s with dp := { s.dp with sh := { s.dp.sh with
      reg := over_ s.dp.sh.reg, regNext := over_ s.dp.sh.regNext,
      regOpen := s.dp.sh.regOpen.map (fun (x : RegRec) => { x with after := over_ x.after }) } } }
  else .next s

/-- FW_ACTIVATE_LAPSE (R400): a recorded half lapses after 60 s. -/
def execFwActivateLapse (s : State) : Host.Outcome State Fault Refusal :=
  if s.dp.mb.half.any (fun h => h.since + 60 * second ≤ s.clk.time) then
    .next { s with dp := { s.dp with mb := { s.dp.mb with half := none } } }
  else .next s

/-- MGMT_PORT_ABSENCE (R394): 300 s without a message from it. -/
def execMgmtPortAbsence (s : State) : Host.Outcome State Fault Refusal :=
  if s.dp.mb.mgmtAt.any (fun t => t + 300 * second ≤ s.clk.time) then
    .next { s with dp := { s.dp with mb := { s.dp.mb with mgmtAt := none } } }
  else .next s

end Sys2Proof.Machine
end

