-- ==== Sys2Proof/Machine/Tap.lean ====
section
/-! DEFINITION. The meaning of TAP_ACCESS (R568): the IEEE 1149.1 test port. -/

namespace Sys2Proof.Machine

/-- IDCODE (R568): version 1, part 0x7400, manufacturer 0x127, bit 0 set. -/
def idcode : Nat := 0x1740024F

/-- Bits of a register as they leave on TDO, the least significant first. -/
def tdoBits (w v : Nat) : List Bool := (List.range w).map (fun i => v.testBit i)

/-- Only EXTEST drives the pins. -/
def setDrive (d : Option (List Bool)) (s : State) : State := { s with tap := { drive := d } }

/-- TAP_ACCESS (R568): reset selects IDCODE; IDCODE and the one-bit bypass register shift out; SAMPLE captures the pins; EXTEST
drives them. -/
def execTapAccess (op : TapOp) (s : State) : Host.Outcome State Fault Refusal :=
  if s.pwr.porHeld then .next s
  else
    .next (match op with
      | .reset => setDrive none s
      | .idcode => (setDrive none s).out (.tdo (tdoBits 32 idcode))
      | .bypass b => (setDrive none s).out (.tdo [false, b])
      | .sample =>
        ((setDrive none s).out (.tdo (Config.boundaryScan s.dp.io.fresh))).onDp (fun _ d => (draw d).2)
      | .extest l => (setDrive (some l) s).out (.pins l))

end Sys2Proof.Machine
end

