-- ==== Sys2Proof/Machine/Dispatch.lean ====
section
/-! DEFINITION. One arm per command: each calls the command's meaning. -/

namespace Sys2Proof.Machine

/-- The effect of a command on everything but the queue of waiting commands. -/
def exec (i : Instr) (s : State) : Host.Outcome State Fault Refusal :=
  match i with
  | .read port queue tag desc dataSegs metaSegs => Sys2Proof.Machine.execRead port queue tag desc dataSegs metaSegs s
  | .write port queue tag desc dataSegs metaSegs => Sys2Proof.Machine.execWrite port queue tag desc dataSegs metaSegs s
  | .writeAtomic port queue tag desc dataSegs metaSegs => Sys2Proof.Machine.execWriteAtomic port queue tag desc dataSegs metaSegs s
  | .discard port queue tag desc dataSegs metaSegs => Sys2Proof.Machine.execDiscard port queue tag desc dataSegs metaSegs s
  | .secureDiscard port queue tag desc dataSegs metaSegs => Sys2Proof.Machine.execSecureDiscard port queue tag desc dataSegs metaSegs s
  | .verify port queue tag desc dataSegs metaSegs => Sys2Proof.Machine.execVerify port queue tag desc dataSegs metaSegs s
  | .codec port queue tag desc table segs matrix inputs outputs => Sys2Proof.Machine.execCodec port queue tag desc table segs matrix inputs outputs s
  | .glaze port queue tag desc dataSegs metaSegs source aux => Sys2Proof.Machine.execGlaze port queue tag desc dataSegs metaSegs source aux s
  | .submit port queue value entry => Sys2Proof.Machine.execSubmit port queue value entry s
  | .abort port queue value => Sys2Proof.Machine.execAbort port queue value s
  | .cqHead port queue value => Sys2Proof.Machine.execCqHead port queue value s
  | .resumeFetch port queue => Sys2Proof.Machine.execResumeFetch port queue s
  | .resumeFlush port queue => Sys2Proof.Machine.execResumeFlush port queue s
  | .queueEngineEnable port => Sys2Proof.Machine.execQueueEngineEnable port s
  | .queueEngineDisable port => Sys2Proof.Machine.execQueueEngineDisable port s
  | .devVecEnWrite port v => Sys2Proof.Machine.execDevVecEnWrite port v s
  | .evtCauseClear port v => Sys2Proof.Machine.execEvtCauseClear port v s
  | .evtMaskWrite port v => Sys2Proof.Machine.execEvtMaskWrite port v s
  | .vqTsyncQueue port queue entry => Sys2Proof.Machine.execVqTsyncQueue port queue entry s
  | .vqTsyncAll port entries => Sys2Proof.Machine.execVqTsyncAll port entries s
  | .timeNowLowRead port => Sys2Proof.Machine.execTimeNowLowRead port s
  | .registerWrite port offset bytes => Sys2Proof.Machine.execRegisterWrite port offset bytes s
  | .mailboxGo port n v => Sys2Proof.Machine.execMailboxGo port n v s
  | .mailboxDoneClear port n v => Sys2Proof.Machine.execMailboxDoneClear port n v s
  | .identify m => Sys2Proof.Machine.execIdentify m s
  | .deviceStatus m => Sys2Proof.Machine.execDeviceStatus m s
  | .sessionReset m => Sys2Proof.Machine.execSessionReset m s
  | .timePin m => Sys2Proof.Machine.execTimePin m s
  | .timeQuery m => Sys2Proof.Machine.execTimeQuery m s
  | .poolCreate m => Sys2Proof.Machine.execPoolCreate m s
  | .poolDelete m => Sys2Proof.Machine.execPoolDelete m s
  | .poolResize m => Sys2Proof.Machine.execPoolResize m s
  | .poolQuery m => Sys2Proof.Machine.execPoolQuery m s
  | .poolList m => Sys2Proof.Machine.execPoolList m s
  | .reshapeStart m => Sys2Proof.Machine.execReshapeStart m s
  | .reshapeStatus m => Sys2Proof.Machine.execReshapeStatus m s
  | .secureDiscardStatus m => Sys2Proof.Machine.execSecureDiscardStatus m s
  | .writeFloorSet m => Sys2Proof.Machine.execWriteFloorSet m s
  | .leaseAcquire m => Sys2Proof.Machine.execLeaseAcquire m s
  | .leaseRelease m => Sys2Proof.Machine.execLeaseRelease m s
  | .leaseQuery m => Sys2Proof.Machine.execLeaseQuery m s
  | .queueQuery m => Sys2Proof.Machine.execQueueQuery m s
  | .queueStats m => Sys2Proof.Machine.execQueueStats m s
  | .paramPageGet m => Sys2Proof.Machine.execParamPageGet m s
  | .paramSet m => Sys2Proof.Machine.execParamSet m s
  | .paramDefault m => Sys2Proof.Machine.execParamDefault m s
  | .strandlineRead m => Sys2Proof.Machine.execStrandlineRead m s
  | .errorLogRead m => Sys2Proof.Machine.execErrorLogRead m s
  | .errorLogClear m => Sys2Proof.Machine.execErrorLogClear m s
  | .countersRead m => Sys2Proof.Machine.execCountersRead m s
  | .fwStageBegin m => Sys2Proof.Machine.execFwStageBegin m s
  | .fwStageData m => Sys2Proof.Machine.execFwStageData m s
  | .fwCommit m badBlock => Sys2Proof.Machine.execFwCommit m badBlock s
  | .fwActivate m => Sys2Proof.Machine.execFwActivate m s
  | .fwStatus m => Sys2Proof.Machine.execFwStatus m s
  | .attestQuote m => Sys2Proof.Machine.execAttestQuote m s
  | .attestCert m => Sys2Proof.Machine.execAttestCert m s
  | .keySlotLoad m => Sys2Proof.Machine.execKeySlotLoad m s
  | .keySlotClear m => Sys2Proof.Machine.execKeySlotClear m s
  | .sanitizeCrypto m => Sys2Proof.Machine.execSanitizeCrypto m s
  | .shoalQuery m => Sys2Proof.Machine.execShoalQuery m s
  | .seawallQuery m => Sys2Proof.Machine.execSeawallQuery m s
  | .memberAdd m => Sys2Proof.Machine.execMemberAdd m s
  | .memberRetire m => Sys2Proof.Machine.execMemberRetire m s
  | .memberSpareSet m => Sys2Proof.Machine.execMemberSpareSet m s
  | .memberReplace m => Sys2Proof.Machine.execMemberReplace m s
  | .stewardMove m => Sys2Proof.Machine.execStewardMove m s
  | .stewardPrefer m => Sys2Proof.Machine.execStewardPrefer m s
  | .stewardDrill m => Sys2Proof.Machine.execStewardDrill m s
  | .epochRebase m => Sys2Proof.Machine.execEpochRebase m s
  | .powerQuery m => Sys2Proof.Machine.execPowerQuery m s
  | .ebbEnter m => Sys2Proof.Machine.execEbbEnter m s
  | .holdupQuery m => Sys2Proof.Machine.execHoldupQuery m s
  | .sagTest m => Sys2Proof.Machine.execSagTest m s
  | .diagAuthAcquire m => Sys2Proof.Machine.execDiagAuthAcquire m s
  | .diagAuthRelease m => Sys2Proof.Machine.execDiagAuthRelease m s
  | .selftestResult m => Sys2Proof.Machine.execSelftestResult m s
  | .mediaReturn m passed steps => Sys2Proof.Machine.execMediaReturn m passed steps s
  | .injectCheckbits m => Sys2Proof.Machine.execInjectCheckbits m s
  | .injectStatus m => Sys2Proof.Machine.execInjectStatus m s
  | .diagRead m results => Sys2Proof.Machine.execDiagRead m results s
  | .diagWrite m => Sys2Proof.Machine.execDiagWrite m s
  | .diagErase m => Sys2Proof.Machine.execDiagErase m s
  | .linkTestStart m => Sys2Proof.Machine.execLinkTestStart m s
  | .linkTestStop m => Sys2Proof.Machine.execLinkTestStop m s
  | .loopQuery m => Sys2Proof.Machine.execLoopQuery m s
  | .loopOpen m => Sys2Proof.Machine.execLoopOpen m s
  | .loopCoeff m => Sys2Proof.Machine.execLoopCoeff m s
  | .loopClose m => Sys2Proof.Machine.execLoopClose m s
  | .traceArm m => Sys2Proof.Machine.execTraceArm m s
  | .traceRead m => Sys2Proof.Machine.execTraceRead m s
  | .bootStatusRead => Sys2Proof.Machine.execBootStatusRead s
  | .bootStatusWakeWrite v => Sys2Proof.Machine.execBootStatusWakeWrite v s
  | .mctpVendorMessage vendor message => Sys2Proof.Machine.execMctpVendorMessage vendor message s
  | .setEndpointId eid => Sys2Proof.Machine.execSetEndpointId eid s
  | .getEndpointId => Sys2Proof.Machine.execGetEndpointId s
  | .getEndpointUuid => Sys2Proof.Machine.execGetEndpointUuid s
  | .getMctpVersionSupport mtype => Sys2Proof.Machine.execGetMctpVersionSupport mtype s
  | .getMessageTypeSupport => Sys2Proof.Machine.execGetMessageTypeSupport s
  | .getVendorDefinedMessageSupport sel => Sys2Proof.Machine.execGetVendorDefinedMessageSupport sel s
  | .getVersion t => Sys2Proof.Machine.execGetVersion t s
  | .getCapabilities t version => Sys2Proof.Machine.execGetCapabilities t version s
  | .negotiateAlgorithms t version ecdsaP384 sha384 => Sys2Proof.Machine.execNegotiateAlgorithms t version ecdsaP384 sha384 s
  | .getDigests t version => Sys2Proof.Machine.execGetDigests t version s
  | .getCertificate t version slot offset length => Sys2Proof.Machine.execGetCertificate t version slot offset length s
  | .challenge t version slot nonce => Sys2Proof.Machine.execChallenge t version slot nonce s
  | .getMeasurements t version index sign nonce => Sys2Proof.Machine.execGetMeasurements t version index sign nonce s
  | .doeRequest port version req => Sys2Proof.Machine.execDoeRequest port version req s
  | .configRequest port req => Sys2Proof.Machine.execConfigRequest port req s
  | .perstNAssert => Sys2Proof.Machine.execPerstNAssert s
  | .perstNRelease => Sys2Proof.Machine.execPerstNRelease s
  | .hostLinkTrained port rate width => Sys2Proof.Machine.execHostLinkTrained port rate width s
  | .hotReset port => Sys2Proof.Machine.execHotReset port s
  | .flr port => Sys2Proof.Machine.execFlr port s
  | .hostLinkDown port => Sys2Proof.Machine.execHostLinkDown port s
  | .hostLinkL1Entry port => Sys2Proof.Machine.execHostLinkL1Entry port s
  | .hostLinkL1Exit port => Sys2Proof.Machine.execHostLinkL1Exit port s
  | .busMasterEnableClear port => Sys2Proof.Machine.execBusMasterEnableClear port s
  | .busMasterEnableSet port => Sys2Proof.Machine.execBusMasterEnableSet port s
  | .d3hotEntry port => Sys2Proof.Machine.execD3hotEntry port s
  | .d0Return port => Sys2Proof.Machine.execD0Return port s
  | .hostReadCompletion port req data => Sys2Proof.Machine.execHostReadCompletion port req data s
  | .hostCompletionError port req kind => Sys2Proof.Machine.execHostCompletionError port req kind s
  | .hostCompletionTimeout port req => Sys2Proof.Machine.execHostCompletionTimeout port req s
  | .translationCompletion port pasid page readable writable target => Sys2Proof.Machine.execTranslationCompletion port pasid page readable writable target s
  | .pageRequestSuccess port req => Sys2Proof.Machine.execPageRequestSuccess port req s
  | .pageRequestInvalid port req => Sys2Proof.Machine.execPageRequestInvalid port req s
  | .pageRequestResponseFailure port req => Sys2Proof.Machine.execPageRequestResponseFailure port req s
  | .pageRequestTimeout port req => Sys2Proof.Machine.execPageRequestTimeout port req s
  | .priCapabilityReset port => Sys2Proof.Machine.execPriCapabilityReset port s
  | .invalidationRequest port pasid firstPage pages => Sys2Proof.Machine.execInvalidationRequest port pasid firstPage pages s
  | .pasidEnableClear port => Sys2Proof.Machine.execPasidEnableClear port s
  | .coalesceTimer port queue => Sys2Proof.Machine.execCoalesceTimer port queue s
  | .writeAdmission pool => Sys2Proof.Machine.execWriteAdmission pool s
  | .pendingTableRoom => Sys2Proof.Machine.execPendingTableRoom s
  | .hello port rank serial boot session n => Sys2Proof.Machine.execHello port rank serial boot session n s
  | .topology port rank version links => Sys2Proof.Machine.execTopology port rank version links s
  | .transitFrame f => Sys2Proof.Machine.execTransitFrame f s
  | .heartbeat f boot session flags roles => Sys2Proof.Machine.execHeartbeat f boot session flags roles s
  | .claim f => Sys2Proof.Machine.execClaim f s
  | .fenced f => Sys2Proof.Machine.execFenced f s
  | .relinquish f => Sys2Proof.Machine.execRelinquish f s
  | .handover f => Sys2Proof.Machine.execHandover f s
  | .ringExit f => Sys2Proof.Machine.execRingExit f s
  | .linkCtlNak port seqn => Sys2Proof.Machine.execLinkCtlNak port seqn s
  | .linkCtlAck port seqn => Sys2Proof.Machine.execLinkCtlAck port seqn s
  | .linkCtlWidth port lanes => Sys2Proof.Machine.execLinkCtlWidth port lanes s
  | .ticketRequest f dataMask flags group groupSize cover => Sys2Proof.Machine.execTicketRequest f dataMask flags group groupSize cover s
  | .ticketGrant f => Sys2Proof.Machine.execTicketGrant f s
  | .commitNotice f registry => Sys2Proof.Machine.execCommitNotice f registry s
  | .dropNotice f => Sys2Proof.Machine.execDropNotice f s
  | .mirrorGroup f records => Sys2Proof.Machine.execMirrorGroup f records s
  | .mirrorAck f => Sys2Proof.Machine.execMirrorAck f s
  | .resolve f => Sys2Proof.Machine.execResolve f s
  | .resolveReply f items commits => Sys2Proof.Machine.execResolveReply f items commits s
  | .sherdDone f => Sys2Proof.Machine.execSherdDone f s
  | .joinRequest f serial boot anchorSeq => Sys2Proof.Machine.execJoinRequest f serial boot anchorSeq s
  | .joinAdmit f states missed commits admitted => Sys2Proof.Machine.execJoinAdmit f states missed commits admitted s
  | .readRequest f blocks => Sys2Proof.Machine.execReadRequest f blocks s
  | .readData f blk => Sys2Proof.Machine.execReadData f blk s
  | .readFail f => Sys2Proof.Machine.execReadFail f s
  | .sherdData f blk => Sys2Proof.Machine.execSherdData f blk s
  | .sherdRefused f => Sys2Proof.Machine.execSherdRefused f s
  | .e2eAck f => Sys2Proof.Machine.execE2eAck f s
  | .e2eNak f => Sys2Proof.Machine.execE2eNak f s
  | .linkTest port symbols uncorrectable replays => Sys2Proof.Machine.execLinkTest port symbols uncorrectable replays s
  | .claimAcknowledgement f => Sys2Proof.Machine.execClaimAcknowledgement f s
  | .memberStateRecord f r => Sys2Proof.Machine.execMemberStateRecord f r s
  | .admissionDemand f demand => Sys2Proof.Machine.execAdmissionDemand f demand s
  | .admissionRequest f request => Sys2Proof.Machine.execAdmissionRequest f request s
  | .admissionGrant f grant => Sys2Proof.Machine.execAdmissionGrant f grant s
  | .admissionRate f rate => Sys2Proof.Machine.execAdmissionRate f rate s
  | .forwardedOrder f msg => Sys2Proof.Machine.execForwardedOrder f msg s
  | .anchorRequest f => Sys2Proof.Machine.execAnchorRequest f s
  | .secureDiscardMemberDone f job report => Sys2Proof.Machine.execSecureDiscardMemberDone f job report s
  | .rebaseControl f msg => Sys2Proof.Machine.execRebaseControl f msg s
  | .claimLaneFrame bits => Sys2Proof.Machine.execClaimLaneFrame bits s
  | .laneCheckFrame bits => Sys2Proof.Machine.execLaneCheckFrame bits s
  | .claimLaneSend outcome => Sys2Proof.Machine.execClaimLaneSend outcome s
  | .laneCheckTurn => Sys2Proof.Machine.execLaneCheckTurn s
  | .laneLowTimeout => Sys2Proof.Machine.execLaneLowTimeout s
  | .laneCheckTimeout => Sys2Proof.Machine.execLaneCheckTimeout s
  | .heartbeatTimer => Sys2Proof.Machine.execHeartbeatTimer s
  | .rankSilence rank => Sys2Proof.Machine.execRankSilence rank s
  | .stewardPoolOmitted pool => Sys2Proof.Machine.execStewardPoolOmitted pool s
  | .contest pool => Sys2Proof.Machine.execContest pool s
  | .standbySilence pool => Sys2Proof.Machine.execStandbySilence pool s
  | .standbyAppoint pool => Sys2Proof.Machine.execStandbyAppoint pool s
  | .settleWindowEnd => Sys2Proof.Machine.execSettleWindowEnd s
  | .preferredStewardReturn pool => Sys2Proof.Machine.execPreferredStewardReturn pool s
  | .handoverResolveTimeout pool => Sys2Proof.Machine.execHandoverResolveTimeout pool s
  | .handoverClaimTimeout pool => Sys2Proof.Machine.execHandoverClaimTimeout pool s
  | .ebbHandoverTimeout => Sys2Proof.Machine.execEbbHandoverTimeout s
  | .resolveReplyTimeout pool rank => Sys2Proof.Machine.execResolveReplyTimeout pool rank s
  | .stripeTimeout pool seqn => Sys2Proof.Machine.execStripeTimeout pool seqn s
  | .noStewardTimeout pool => Sys2Proof.Machine.execNoStewardTimeout pool s
  | .registryStewardTimeout session token => Sys2Proof.Machine.execRegistryStewardTimeout session token s
  | .readRequestTimeout rank pool localBlk => Sys2Proof.Machine.execReadRequestTimeout rank pool localBlk s
  | .drillReplyTimeout rank => Sys2Proof.Machine.execDrillReplyTimeout rank s
  | .rowGatherExpiry pool row => Sys2Proof.Machine.execRowGatherExpiry pool row s
  | .journalGroupClose pool => Sys2Proof.Machine.execJournalGroupClose pool s
  | .journalStrandProgrammed pool => Sys2Proof.Machine.execJournalStrandProgrammed pool s
  | .linkAckTimer port => Sys2Proof.Machine.execLinkAckTimer port s
  | .e2eGapTimeout src cls => Sys2Proof.Machine.execE2eGapTimeout src cls s
  | .e2eAckTimer src cls => Sys2Proof.Machine.execE2eAckTimer src cls s
  | .e2eReplayTimeout dst cls => Sys2Proof.Machine.execE2eReplayTimeout dst cls s
  | .causewaySignalLoss port => Sys2Proof.Machine.execCausewaySignalLoss port s
  | .fecUncorrectableBurst port => Sys2Proof.Machine.execFecUncorrectableBurst port s
  | .linkAckStall port => Sys2Proof.Machine.execLinkAckStall port s
  | .laneFailure port good => Sys2Proof.Machine.execLaneFailure port good s
  | .portTrained port good => Sys2Proof.Machine.execPortTrained port good s
  | .portRetrainTimer port => Sys2Proof.Machine.execPortRetrainTimer port s
  | .linkFlapHoldEnd port => Sys2Proof.Machine.execLinkFlapHoldEnd port s
  | .transitLoadWake => Sys2Proof.Machine.execTransitLoadWake s
  | .kilnResetWave answers => Sys2Proof.Machine.execKilnResetWave answers s
  | .flashChannelTrained chan steps => Sys2Proof.Machine.execFlashChannelTrained chan steps s
  | .zqShortCalTimer chan die => Sys2Proof.Machine.execZqShortCalTimer chan die s
  | .tjDriftRetrain chan steps => Sys2Proof.Machine.execTjDriftRetrain chan steps s
  | .flashProgramComplete chan die => Sys2Proof.Machine.execFlashProgramComplete chan die s
  | .dieProgramFail chan die => Sys2Proof.Machine.execDieProgramFail chan die s
  | .flashEraseComplete chan die => Sys2Proof.Machine.execFlashEraseComplete chan die s
  | .dieEraseFail chan die => Sys2Proof.Machine.execDieEraseFail chan die s
  | .flashReadComplete chan die results => Sys2Proof.Machine.execFlashReadComplete chan die results s
  | .dieReadyTimeout chan die recovered => Sys2Proof.Machine.execDieReadyTimeout chan die recovered s
  | .suspendWindowEnd chan die => Sys2Proof.Machine.execSuspendWindowEnd chan die s
  | .operationWaitLimit chan die => Sys2Proof.Machine.execOperationWaitLimit chan die s
  | .classAgingLimit chan die => Sys2Proof.Machine.execClassAgingLimit chan die s
  | .dieStripeCloseTimer row => Sys2Proof.Machine.execDieStripeCloseTimer row s
  | .foldIdleTimer => Sys2Proof.Machine.execFoldIdleTimer s
  | .fold => Sys2Proof.Machine.execFold s
  | .garbageCollect => Sys2Proof.Machine.execGarbageCollect s
  | .staticMove => Sys2Proof.Machine.execStaticMove s
  | .refreshRelocation row => Sys2Proof.Machine.execRefreshRelocation row s
  | .dieRebuild chan die => Sys2Proof.Machine.execDieRebuild chan die s
  | .lastTideAreaRotate => Sys2Proof.Machine.execLastTideAreaRotate s
  | .anchorCadence => Sys2Proof.Machine.execAnchorCadence s
  | .anchorAfterRaise => Sys2Proof.Machine.execAnchorAfterRaise s
  | .mapFaultIn pool seg => Sys2Proof.Machine.execMapFaultIn pool seg s
  | .mapBackgroundLoad => Sys2Proof.Machine.execMapBackgroundLoad s
  | .secureDiscardJob job => Sys2Proof.Machine.execSecureDiscardJob job s
  | .reshapeWindow pool => Sys2Proof.Machine.execReshapeWindow pool s
  | .resyncRow pool row newLayout => Sys2Proof.Machine.execResyncRow pool row newLayout s
  | .beachcomberCheck pool row newLayout pos => Sys2Proof.Machine.execBeachcomberCheck pool row newLayout pos s
  | .dramCorrectedRead ch rank component burst diagnostic => Sys2Proof.Machine.execDramCorrectedRead ch rank component burst diagnostic s
  | .dramUncorrectableRead ch region => Sys2Proof.Machine.execDramUncorrectableRead ch region s
  | .dramPatrol ch rank component intervened => Sys2Proof.Machine.execDramPatrol ch rank component intervened s
  | .scratchpadCorrectedRead bank address intervened => Sys2Proof.Machine.execScratchpadCorrectedRead bank address intervened s
  | .scratchpadUncorrectableRead bank region => Sys2Proof.Machine.execScratchpadUncorrectableRead bank region s
  | .encoderCheckFail encoder => Sys2Proof.Machine.execEncoderCheckFail encoder s
  | .engineFault e n => Sys2Proof.Machine.execEngineFault e n s
  | .engineKnownAnswerTest n good => Sys2Proof.Machine.execEngineKnownAnswerTest n good s
  | .bedrockReadResult region corrected uncorrectable => Sys2Proof.Machine.execBedrockReadResult region corrected uncorrectable s
  | .entropyWindow good => Sys2Proof.Machine.execEntropyWindow good s
  | .drbgReseedTimer => Sys2Proof.Machine.execDrbgReseedTimer s
  | .laneRekey lane good => Sys2Proof.Machine.execLaneRekey lane good s
  | .vetoHoldRequest block released => Sys2Proof.Machine.execVetoHoldRequest block released s
  | .vetoTimeout block => Sys2Proof.Machine.execVetoTimeout block s
  | .injectionArmTimeout armId => Sys2Proof.Machine.execInjectionArmTimeout armId s
  | .linkTestTimeout port => Sys2Proof.Machine.execLinkTestTimeout port s
  | .diagAuthIdleTimeout => Sys2Proof.Machine.execDiagAuthIdleTimeout s
  | .leaseTermExpiry handle => Sys2Proof.Machine.execLeaseTermExpiry handle s
  | .fwActivateLapse => Sys2Proof.Machine.execFwActivateLapse s
  | .mgmtPortAbsence => Sys2Proof.Machine.execMgmtPortAbsence s
  | .trialClear => Sys2Proof.Machine.execTrialClear s
  | .trialRestart => Sys2Proof.Machine.execTrialRestart s
  | .dramRefreshDue ch rank bank burst => Sys2Proof.Machine.execDramRefreshDue ch rank bank burst s
  | .dramOscillatorRead ch drift64 retrain => Sys2Proof.Machine.execDramOscillatorRead ch drift64 retrain s
  | .dramTemperatureRead ch rank hot => Sys2Proof.Machine.execDramTemperatureRead ch rank hot s
  | .dramPageIdleClose ch rank bank => Sys2Proof.Machine.execDramPageIdleClose ch rank bank s
  | .dramChannelTrained ch spd sweeps => Sys2Proof.Machine.execDramChannelTrained ch spd sweeps s
  | .bankHandover bank waited lines => Sys2Proof.Machine.execBankHandover bank waited lines s
  | .bankHandoverTimeout bank => Sys2Proof.Machine.execBankHandoverTimeout bank s
  | .bankAccessFault target master => Sys2Proof.Machine.execBankAccessFault target master s
  | .bankRetentionWake bank => Sys2Proof.Machine.execBankRetentionWake bank s
  | .bankRetentionReturn bank => Sys2Proof.Machine.execBankRetentionReturn bank s
  | .loopSample slot pv => Sys2Proof.Machine.execLoopSample slot pv s
  | .softLimitTimer pool => Sys2Proof.Machine.execSoftLimitTimer pool s
  | .powerOnReset straps facts vinMv => Sys2Proof.Machine.execPowerOnReset straps facts vinMv s
  | .hotSwapInsertion vsupMv busMv => Sys2Proof.Machine.execHotSwapInsertion vsupMv busMv s
  | .insertionTimeout => Sys2Proof.Machine.execInsertionTimeout s
  | .insertionRetry => Sys2Proof.Machine.execInsertionRetry s
  | .circuitBreaker => Sys2Proof.Machine.execCircuitBreaker s
  | .fastTrip => Sys2Proof.Machine.execFastTrip s
  | .reverseCurrent => Sys2Proof.Machine.execReverseCurrent s
  | .vinBelowVPlp vinMv => Sys2Proof.Machine.execVinBelowVPlp vinMv s
  | .hsVsupBelowVPlp vsupMv => Sys2Proof.Machine.execHsVsupBelowVPlp vsupMv s
  | .plpNLow => Sys2Proof.Machine.execPlpNLow s
  | .plpNHigh facts => Sys2Proof.Machine.execPlpNHigh facts s
  | .thermalTrip => Sys2Proof.Machine.execThermalTrip s
  | .coreRstNLow => Sys2Proof.Machine.execCoreRstNLow s
  | .coreRstNHigh facts => Sys2Proof.Machine.execCoreRstNHigh facts s
  | .vinRecovery vinMv facts => Sys2Proof.Machine.execVinRecovery vinMv facts s
  | .watchdogExpiry => Sys2Proof.Machine.execWatchdogExpiry s
  | .lastTideComplete facts => Sys2Proof.Machine.execLastTideComplete facts s
  | .vinCollapse written => Sys2Proof.Machine.execVinCollapse written s
  | .sagTestPeriod vinMv => Sys2Proof.Machine.execSagTestPeriod vinMv s
  | .sagTestEnd currentMa v1Mv v2Mv => Sys2Proof.Machine.execSagTestEnd currentMa v1Mv v2Mv s
  | .slackEntry => Sys2Proof.Machine.execSlackEntry s
  | .neapEntry => Sys2Proof.Machine.execNeapEntry s
  | .powerStateExit w => Sys2Proof.Machine.execPowerStateExit w s
  | .ebbExit w cool facts => Sys2Proof.Machine.execEbbExit w cool facts s
  | .x32CrystalStop => Sys2Proof.Machine.execX32CrystalStop s
  | .firmwareRunning => Sys2Proof.Machine.execFirmwareRunning s
  | .ready => Sys2Proof.Machine.execReady s
  | .railTimeout vccqf => Sys2Proof.Machine.execRailTimeout vccqf s
  | .suspendMinimumRun chan die => Sys2Proof.Machine.execSuspendMinimumRun chan die s
  | .bedrockProgramComplete bank what good => Sys2Proof.Machine.execBedrockProgramComplete bank what good s
  | .bedrockEraseComplete bank good => Sys2Proof.Machine.execBedrockEraseComplete bank good s
  | .bedrockEraseSuspend bank => Sys2Proof.Machine.execBedrockEraseSuspend bank s
  | .bedrockEraseResume bank => Sys2Proof.Machine.execBedrockEraseResume bank s
  | .lossOfVin => Sys2Proof.Machine.execLossOfVin s
  | .claimLaneReleased => Sys2Proof.Machine.execClaimLaneReleased s
  | .admissionRound => Sys2Proof.Machine.execAdmissionRound s
  | .supplyRailInRange vccqf => Sys2Proof.Machine.execSupplyRailInRange vccqf s
  | .tapAccess op => Sys2Proof.Machine.execTapAccess op s
  | .msixVectorUnmask port vector => Sys2Proof.Machine.execMsixVectorUnmask port vector s

end Sys2Proof.Machine
end

