-- ==== Sys2Proof/Safety.lean ====
section
/-! DEFINITION. What counts as a safe run: the byte windows stay canonical and no step stops. -/

namespace Sys2Proof.Machine

/-! ## The invariant of the machine -/

/-- The bytes of the diagnostic windows stand in canonical form. -/
def State.windowsOk (s : State) : Prop := Memory.wf s.integ.dramWin ∧ Memory.wf s.integ.padWin

/-- A class that a movable bank may be given to (R483). -/
def Owner.staging (o : Owner) : Prop := o = .wstage ∨ o = .rstage

/-- A bank's owner: only banks 20 to 23, 26 and 27 move, and only between the two staging classes (R483, Table 14-4). -/
def bankOk (n : Nat) (x : Pad) : Prop :=
  if movableBank n then Owner.staging x.owner ∧ ∀ m, x.moving = some m → Owner.staging m.1
  else x.owner = padOwner n ∧ x.moving = none

/-- Every bank's owner is one it may have. -/
def State.banksOk (s : State) : Prop := ∀ n, bankOk n (s.pad n)

/-- The injections that are armed. -/
def State.armed (s : State) : List Arm := s.integ.arms.filter (fun a => a.st = .armed)

/-- At most one injection is armed on a target (R181). -/
def State.armsOk (s : State) : Prop := s.armed.Pairwise (fun a b => a.target ≠ b.target)

/-- The remainder that a gap carries into the next Ebb is below one (R517). -/
def State.gapOk (s : State) : Prop := s.clk.frac64 < 64

/-- READY stands only while firmware runs, and never in safe mode (R536). -/
def State.readyOk (s : State) : Prop := s.boot.ready = true → s.boot.fw = true ∧ s.boot.safe = false

/-- What every step keeps. -/
structure State.Inv (s : State) : Prop where
  windows : s.windowsOk
  banks   : s.banksOk
  arms    : s.armsOk
  gap     : s.gapOk
  ready   : s.readyOk

/-! ## Which commands may change a unit -/

/-- The commands that may change the clock of the always-on domain; no other does. -/
def mayChangeClk : Instr → Bool
  | .timePin .. | .ebbEnter .. | .powerOnReset .. | .lastTideComplete .. | .vinCollapse .. | .ebbExit .. |
    .x32CrystalStop .. | .lossOfVin .. => true
  | _ => false

/-- The commands that may change the start of the core and the straps; no other does. -/
def mayChangeBoot : Instr → Bool
  | .ebbEnter .. | .settleWindowEnd .. | .kilnResetWave .. | .flashChannelTrained .. | .mapBackgroundLoad .. |
    .dramUncorrectableRead .. | .dramPatrol .. | .scratchpadUncorrectableRead .. | .trialClear .. |
    .dramChannelTrained .. | .powerOnReset .. | .plpNHigh .. | .coreRstNHigh .. | .vinRecovery .. |
    .watchdogExpiry .. | .lastTideComplete .. | .vinCollapse .. | .ebbExit .. | .firmwareRunning .. | .ready .. |
    .railTimeout .. | .lossOfVin .. | .supplyRailInRange .. => true
  | _ => false

/-- The commands that may change the DRAM controller; no other does. -/
def mayChangeDram : Instr → Bool
  | .ebbEnter .. | .transitLoadWake .. | .dramCorrectedRead .. | .dramUncorrectableRead .. | .dramPatrol .. |
    .dramRefreshDue .. | .dramOscillatorRead .. | .dramTemperatureRead .. | .dramPageIdleClose .. |
    .dramChannelTrained .. | .lastTideComplete .. | .vinCollapse .. | .neapEntry .. | .powerStateExit .. |
    .ebbExit .. | .firmwareRunning .. | .lossOfVin .. | .supplyRailInRange .. => true
  | _ => false

/-- The commands that may change the scratchpad banks; no other does. -/
def mayChangePads : Instr → Bool
  | .countersRead .. | .ebbEnter .. | .transitLoadWake .. | .scratchpadCorrectedRead .. | .bankHandover .. |
    .bankHandoverTimeout .. | .bankRetentionWake .. | .bankRetentionReturn .. | .powerOnReset .. | .plpNHigh .. |
    .coreRstNHigh .. | .vinRecovery .. | .lastTideComplete .. | .vinCollapse .. | .neapEntry .. |
    .powerStateExit .. | .ebbExit .. | .lossOfVin .. => true
  | _ => false

/-- The commands that may change the diagnostic regions and the injections; no other does. -/
def mayChangeInteg : Instr → Bool
  | .sessionReset .. | .fwActivate .. | .ebbEnter .. | .diagAuthRelease .. | .injectCheckbits .. | .diagRead .. |
    .diagWrite .. | .diagErase .. | .perstNAssert .. | .hotReset .. | .flr .. | .hostLinkDown .. |
    .linkCtlNak .. | .transitLoadWake .. | .dramCorrectedRead .. | .dramUncorrectableRead .. | .dramPatrol .. |
    .scratchpadCorrectedRead .. | .scratchpadUncorrectableRead .. | .vetoHoldRequest .. | .vetoTimeout .. |
    .injectionArmTimeout .. | .diagAuthIdleTimeout .. | .trialRestart .. | .circuitBreaker .. | .fastTrip .. |
    .reverseCurrent .. | .vinBelowVPlp .. | .hsVsupBelowVPlp .. | .plpNLow .. | .thermalTrip .. |
    .coreRstNLow .. | .watchdogExpiry .. | .lastTideComplete .. | .vinCollapse .. | .sagTestEnd .. |
    .slackEntry .. | .neapEntry .. | .powerStateExit .. | .ebbExit .. | .ready .. | .lossOfVin .. => true
  | _ => false

/-- The commands that may change the test access port; no other does. -/
def mayChangeTap : Instr → Bool
  | .vinCollapse .. | .lossOfVin .. | .tapAccess .. => true
  | _ => false

/-! ## Runs -/

/-- A step that answers a next state, neither a fault nor a refusal. -/
def runs (o : Host.Outcome State Fault Refusal) : Prop := ∃ t, o = .next t

/-- The state after a command's outcome: the next state, or the state before where the step stopped. -/
def after (o : Host.Outcome State Fault Refusal) (s : State) : State :=
  match o with
  | .next t => t
  | _ => s

/-- A mailbox runs a request with this opcode, which does not yet wait for an event. -/
abbrev Asked (s : State) (m : Mbx) (op : Nat) (r : MbReq) : Prop :=
  s.dp.request m = some r ∧ r.opcode = op ∧ r.waiting = false

/-- This device is the registry steward, an order is new to its sequencer, and the order's port holds the lease it needs
(R36, R395, R396). -/
structure Sequenced (s : State) (o : Order) : Prop where
  steward   : stewardOf s.env s.dp 0 = some s.env.rank
  fresh     : s.dp.sh.regOpen.any (fun x => x.order.any (sameOrder o)) = false
  unpolled  : s.dp.sh.polls.any (fun x => sameOrder x.1 o) = false
  ungiven   : s.dp.sh.delegated.any (fun x => sameOrder x.1 o) = false
  unapplied : appliedOf s.dp.sh.reg o = none
  leased    : leaseOk s.dp.sh.regNext s.clk.time o = true

/-- A frame of another device that arrives in order (R275, R279, R283, R529): the ring is open, the frame is for this device and
good, of its type's class, which is served now, under the session known of its sender, and the next of its stream, with no frame
held behind a gap. -/
structure InOrder (s : State) (t : FrameType) (bulk : Nat) (f : Frame) : Prop where
  here    : f.dst.val = s.env.rank
  away    : f.src.val ≠ s.env.rank
  opened  : ringOpen s.env s.dp = true
  good    : f.crcOk = true
  whole   : f.linkOk = true
  cls     : f.cls = t.cls bulk
  served  : f.cls = 0 ∨ s.boot.ready = true
  session : f.session = (s.dp.peer f.src.val).session.toNat % 256
  next    : f.pairSeq = (s.dp.pair f.src.val f.cls).rxNext
  alone   : (s.dp.pair f.src.val f.cls).held = []

/-- A frame's claim is one that a pool which has admitted the device accepts (R249, R252): valid, its sender's, and not below the
Seawall entry. -/
structure Accepts (s : State) (f : Frame) : Prop where
  admits : admitted s.dp f.pool = true
  valid  : claimValid f.claim = true
  sender : rankOf f.claim = f.src.val
  high   : s.dp.claimOf f.pool ≤ f.claim
  plain  : f.pool ≠ drillHandle

/-- A frame that arrives is delivered next, and alone: `d` is the data path once its arrival is noted. -/
abbrev Reaches (t : FrameType) (bulk : Nat) (f : Frame) (b : FrameBody) (s : State) (d : Dp) : Prop :=
  arrive s.env t bulk f b s.dp = (d, [(t, f, b)])

end Sys2Proof.Machine
end

