-- ==== Sys2Proof/Certificates/Slice0/Obligations.lean ====
section
/-! DEFINITION. The statements about the OZ7400, each formalising rules of spec/; the wording beside each stands in
OBLIGATIONS.json. -/

open Sys2Proof Sys2Proof.Machine

/-- A step runs the command at the front of the queue. For every command c and every state s, the step of s with c at
the front of its queue of waiting commands is exec of c on s with the rest of the queue; on an empty queue the step is
one tick of the clock. The queue is the model's own way in (first in, first out; log entry 10). (00_scope.md,
notes/assumptions/10.md) -/
def Obligations.StepRunsFrontCommand : Prop :=
  (∀ (c : Instr) (rest : List Instr) (s : State),
    step { s with pending := c :: rest } = exec c { s with pending := rest }) ∧
  (∀ s : State, s.pending = [] → step s = .next (tick s))

/-- READ, WRITE, WRITE_ATOMIC, DISCARD, SECURE_DISCARD and VERIFY run once their header is read and their checks pass.
On a device that is READY, when the header of a queue's next doorbell may be read (ENABLE, ENABLED, the queue RUNNING,
DMA allowed, this tag the earliest recorded), the descriptor has the row's opcode, names a pool and passes the checks
of R355, READ and VERIFY answer a next state in which the command runs with every block of its range to do; WRITE,
WRITE_ATOMIC, DISCARD and SECURE_DISCARD do so, admitted, where no write of the pool waits before it, the pending-
mapping tables have room and the bucket holds its cost, which leaves the bucket. A descriptor that fails a check
completes the command with the status of its first failure. In the general case each of the six answers a next state
in which its header is read and it goes on; in the state where it is read, the command keeps its tag and order and
carries the descriptor's opcode, handle, LBA and LENGTH. Where the header may not be read, the command leaves the
state as it is. (R16, R338, R350, R351, R355, R418, 10_valow_queues.md, 12_tidegauge_breakwater.md) -/
def Obligations.PoolCommandsReadTheirHeader : Prop :=
  (∀ (s : State) (p : PortId) (q : Nat) (t : Fin 32) (desc : BitVec 512) (ds ms : List (List (BitVec 128))) (c : Cmd)
      (r : PoolRec),
    let k : CmdKey := ⟨p, q, t.val⟩
    let h : Cmd := { c with
      stage := .header, desc := desc, segs := ds, metaSegs := ms, opcode := dOpcode desc, pool := dPool desc,
      lba := dLba desc, len := dLength desc }
    let runs (i : Instr) (x : Cmd) : Prop := ∃ u : State, exec i s = .next u.work ∧ u.dp.cmd k = some (startCmd r x) ∧
      (startCmd r x).stage = .running ∧ (startCmd r x).todo = List.range (dLength desc)
    let b := fillBucket s.env (s.dp.bucket (dPool desc))
    let cost := writeCost r.iu h
    let writes (i : Instr) : Prop := ∃ u : State, exec i s = .next u.work ∧
      u.dp.cmd k = some (startCmd r { h with admitted := true }) ∧ (u.dp.bucket (dPool desc)).tokens = b.tokens - cost ∧
      (u.dp.bucket (dPool desc)).spent = b.spent + cost
    s.dp.cmd k = some c → c.stage = .recorded → s.boot.ready = true → s.boot.safe = false →
    dataPool s.dp (dPool desc) = some r → checkDesc s.env s.dp h = none →
    (dOpcode desc = opRead → mayFetch s k opRead = true → runs (.read p q t desc ds ms) h) ∧
    (dOpcode desc = opVerify → mayFetch s k opVerify = true → runs (.verify p q t desc ds ms) h) ∧
    (c.admitted = false → waitingWrites s.dp (dPool desc) = [] → fullFor s.env s.dp r = false →
      bucketHolds b cost = true →
      (dOpcode desc = opWrite → mayFetch s k opWrite = true → writes (.write p q t desc ds ms)) ∧
      (dOpcode desc = opWriteAtomic → mayFetch s k opWriteAtomic = true → writes (.writeAtomic p q t desc ds ms)) ∧
      (dOpcode desc = opDiscard → mayFetch s k opDiscard = true → writes (.discard p q t desc ds ms)) ∧
      (dOpcode desc = opSecureDiscard → mayFetch s k opSecureDiscard = true →
        writes (.secureDiscard p q t desc ds ms)))) ∧
  (∀ (s : State) (p : PortId) (q : Nat) (t : Fin 32) (desc : BitVec 512) (ds ms : List (List (BitVec 128))) (c : Cmd)
      (st : Nat),
    let k : CmdKey := ⟨p, q, t.val⟩
    let h : Cmd := { c with
      stage := .header, desc := desc, segs := ds, metaSegs := ms, opcode := dOpcode desc, pool := dPool desc,
      lba := dLba desc, len := dLength desc }
    s.dp.cmd k = some c → s.boot.ready = true → s.boot.safe = false → dOpcode desc = opRead →
    mayFetch s k opRead = true → checkDesc s.env s.dp h = some st →
    ∃ u : State, exec (.read p q t desc ds ms) s = .next (u.onDp (fun e => complete e k st 0 0)).work ∧
      u.dp.cmd k = some h) ∧
  (∀ (s : State) (p : PortId) (q : Nat) (t : Fin 32) (desc : BitVec 512) (ds ms : List (List (BitVec 128))),
    let k : CmdKey := ⟨p, q, t.val⟩
    let start : State := (s.onDp (fun e d => startHeader e k (readHeader k desc ds ms d))).work
    (dOpcode desc = opRead → mayFetch s k opRead = true → exec (.read p q t desc ds ms) s = .next start) ∧
    (dOpcode desc = opWrite → mayFetch s k opWrite = true → exec (.write p q t desc ds ms) s = .next start) ∧
    (dOpcode desc = opWriteAtomic → mayFetch s k opWriteAtomic = true →
      exec (.writeAtomic p q t desc ds ms) s = .next start) ∧
    (dOpcode desc = opDiscard → mayFetch s k opDiscard = true → exec (.discard p q t desc ds ms) s = .next start) ∧
    (dOpcode desc = opSecureDiscard → mayFetch s k opSecureDiscard = true →
      exec (.secureDiscard p q t desc ds ms) s = .next start) ∧
    (dOpcode desc = opVerify → mayFetch s k opVerify = true → exec (.verify p q t desc ds ms) s = .next start)) ∧
  (∀ (s : State) (p : PortId) (q : Nat) (t : Fin 32) (desc : BitVec 512) (ds ms : List (List (BitVec 128))),
    (mayFetch s ⟨p, q, t.val⟩ opRead = false → exec (.read p q t desc ds ms) s = .next s) ∧
    (mayFetch s ⟨p, q, t.val⟩ opWrite = false → exec (.write p q t desc ds ms) s = .next s)) ∧
  (∀ (d : Dp) (k : CmdKey) (c : Cmd) (desc : BitVec 512) (ds ms : List (List (BitVec 128))), d.cmd k = some c →
    ∃ c', (readHeader k desc ds ms d).cmd k = some c' ∧ c'.stage = .header ∧ c'.order = c.order ∧
      c'.opcode = dOpcode desc ∧ c'.pool = dPool desc ∧ c'.lba = dLba desc ∧ c'.len = dLength desc)

/-- CODEC and GLAZE write their outputs to host memory and complete with SUCCESS. A CODEC command whose header is read
on a served queue, whose descriptor and buffers pass their checks, whose pages are translated and whose matrix (in
solve mode, the inverse's product) exists answers a next state in which each output buffer has been written and the
command is complete with SUCCESS. A GLAZE command that runs, with a key its mode may use, writes its destination (and,
for GCM encrypt, nonce and tag to AUX and takes the slot's counter value) and completes with SUCCESS and the
destination's length in DETAIL. What overlapping CODEC outputs hold is free (R369). (R368, R369, R372, R374, R376,
R377, 10_valow_queues.md) -/
def Obligations.CodecAndGlazeWriteTheirOutputs : Prop :=
  (∀ (s s1 s2 : State) (p : PortId) (q : Nat) (t : Fin 32) (desc : BitVec 512) (table : List (BitVec 128))
      (segs : List (List (List (BitVec 128)))) (matrix : List Byte) (ins outs : List (List Byte)) (bufs : List Buf)
      (c : List (List Byte)),
    let k : CmdKey := ⟨p, q, t.val⟩
    let writes := (bufs.drop (cIn desc)).map Buf.ranges
    serviceFetch opCodec k desc [] [] s = (s1, true) → codecCheck desc table segs = .inr bufs →
    pagesReady k ([(sgAddr (dData desc), 16 * bufs.length)] :: [(cMatrix desc, max 1 matrix.length)] ::
      (bufs.take (cIn desc)).map Buf.ranges) writes s1 = (s2, true) →
    codecCoeffs desc matrix = some c →
    ∃ u : State, exec (.codec p q t desc table segs matrix ins outs) s =
        .next (u.onDp (fun e => complete e k stSuccess 0 0)).work ∧
      u = s2.onDp (fun _ d =>
        (writes.zip (codecOutputs desc c bufs ins outs d.io.fresh)).foldl (fun d x => writeBuffer k x.1 x.2 d)
          (draw d).2)) ∧
  (∀ (s s1 s2 : State) (p : PortId) (q : Nat) (t : Fin 32) (desc : BitVec 512) (ds ms : List (List (BitVec 128)))
      (source aux text : List Byte) (b : Buf × Buf) (x : KeySlot),
    let k : CmdKey := ⟨p, q, t.val⟩
    let auxRange := [(gAux desc, 64 + gAad desc)]
    serviceFetch opGlaze k desc ds ms s = (s1, true) → (s.boot.safe && s.sec.slots.isEmpty) = false →
    cipherOff s = false → descFieldBad desc = false → descLengthBad desc = false → glazeBufs desc ds ms = some b →
    glazeKey s1 k desc = .inr x →
    pagesReady k [b.1.ranges, auxRange] (b.2.ranges :: (if gMode desc = 1 then [auxRange] else [])) s1 = (s2, true) →
    (glazeRun x desc source aux = .ok text none →
      exec (.glaze p q t desc ds ms source aux) s = .next ((((touchSlot (gSlot desc)
        (s2.onDp (fun _ => count 10 1 1))).onDp (fun _ => writeBuffer k b.2.ranges text)).onDp
          (fun e => complete e k stSuccess text.length 0)).work)) ∧
    (∀ nonce mac, glazeRun x desc source aux = .ok text (some (nonce, mac)) →
      ∃ u : State, exec (.glaze p q t desc ds ms source aux) s =
          .next ((takeCounter (gSlot desc) x u).onDp (fun e => complete e k stSuccess text.length 0)).work ∧
        u = (touchSlot (gSlot desc) (s2.onDp (fun _ => count 10 1 1))).onDp (fun _ d =>
          writeBuffer k [(gAux desc, 32)] (nonce ++ List.replicate 4 0 ++ mac) (writeBuffer k b.2.ranges text d))))

/-- SUBMIT, ABORT, CQ_HEAD, RESUME_FETCH and RESUME_FLUSH. On a served port: SUBMIT to an enabled queue whose entry is
cached and whose tag is free records the doorbell with the next order number; SUBMIT to a queue the table does not
describe is counted and logged as ignored; ABORT of a command before its point of no return completes it with ABORTED;
CQ_HEAD moves the head of a completion ring and makes room for the records it frees; RESUME_FETCH and RESUME_FLUSH set
a FROZEN queue RUNNING, the second after every recorded tag has completed with QUEUE_FROZEN. (R338, R339, R343, R344,
R353, R361, R362, 10_valow_queues.md) -/
def Obligations.DoorbellsAndFreezes : Prop :=
  (∀ (s : State) (p : PortId) (q : Nat) (v : BitVec 32) (ent : Option (BitVec 512)),
    let k : CmdKey := ⟨p, q, bitsOf v.toNat 4 0⟩
    bellOk s p = true → q < portQueues s.env → queueListed s p q = true → s.dp.vq.cache.contains (p, q) = true →
    (s.dp.queueD p q).st ≠ .broken → (s.dp.queueD p q).enabled = true → s.dp.cmd k = none →
    ∃ u : State, exec (.submit p q v ent) s = .next u.work ∧ u.dp.cmd k = some (freshCmd k s.dp.vq.order) ∧
      u.dp.vq.order = s.dp.vq.order + 1 ∧ u.dp.vq.queues = s.dp.vq.queues) ∧
  (∀ (s : State) (p : PortId) (q : Nat) (v : BitVec 32) (ent : Option (BitVec 512)),
    bellOk s p = true → q < portQueues s.env → queueListed s p q = false →
    exec (.submit p q v ent) s = .next (s.onDp (fun e => ignoreDoorbell e p q 0 v.toNat))) ∧
  (∀ (s : State) (p : PortId) (q : Nat) (v : BitVec 32) (c : Cmd),
    let k : CmdKey := ⟨p, q, bitsOf v.toNat 4 0⟩
    bellOk s p = true → s.dp.cmd k = some c → c.stage ≠ .finished → c.pnr = false →
    exec (.abort p q v) s = .next (s.onDp (fun e => complete e k stAborted 0 0)).work) ∧
  (∀ (s : State) (p : PortId) (q : Nat) (v : BitVec 32),
    let x := s.dp.queueD p q
    let head := bitsOf v.toNat 11 0
    let freed := (head + qRing x.entry - x.head) % qRing x.entry
    bellOk s p = true → q < portQueues s.env → queueListed s p q = true → x.enabled = true → head < qRing x.entry →
    freed ≠ 0 → freed ≤ x.unread →
    exec (.cqHead p q v) s = .next (s.onDp (fun e d =>
      postAll e p q (d.setQueue { x with head := head, unread := x.unread - freed }))).work) ∧
  (∀ (s : State) (p : PortId) (q : Nat), bellOk s p = true → (s.dp.queueD p q).st = .frozen →
    exec (.resumeFetch p q) s = .next (s.onDp (fun e => resumeQueue e p q)).work ∧
    exec (.resumeFlush p q) s = .next (s.onDp (fun e d => resumeQueue e p q
      ((((d.queueCmds p q).filter (fun c => c.stage = .recorded)).map Cmd.key).foldl
        (fun d k => endCmd e k stQueueFrozen 0 0 false d) d))).work) ∧
  (∀ (e : Env) (d : Dp) (p : PortId) (q : Nat), ((resumeQueue e p q d).queueD p q).st = .running)

/-- Writes and reads of the BAR0 device registers take effect on their own port. With the port's link up and no code
of the ROM that leaves the registers unserved: ENABLE sets ENABLED exactly when firmware runs, the device is not
FATAL, VQ_TBASE is not zero and VQ_TCOUNT lies between 1 and the port's queues; clearing ENABLE with no fetched
command left clears ENABLED; EVT_CAUSE bits written as 1 clear and no other bit changes; EVT_MASK takes the low 16
bits; DEV_VEC_EN takes its bit; a 4-byte read of TIME_NOW's low half puts out the low half and latches the high half;
VQ_TBASE (4 KiB aligned) takes a value while ENABLED is 0; unmasking a vector leaves it unmasked; VQ_TSYNC fetches the
named entries again. (R189, R302, R303, R304, R305, R334, R332, Table 9-12, Table 9-13, 09_host_port.md) -/
def Obligations.DeviceRegisterWrites : Prop :=
  (∀ (s : State) (p : PortId), barServed s p = true → (s.dp.port p).enable = false →
    ∃ u : State, exec (.queueEngineEnable p) s = .next u.work ∧ (u.dp.port p).enable = true ∧
      ((s.dp.port p).enabled = false → ((u.dp.port p).enabled = true ↔
        (s.boot.fw = true ∧ s.boot.fatal = false ∧ (s.dp.port p).tbase ≠ 0 ∧ 1 ≤ (s.dp.port p).tcount ∧
          (s.dp.port p).tcount ≤ portQueues s.env)))) ∧
  (∀ (s : State) (p : PortId), barServed s p = true →
    s.dp.vq.cmds.any (fun c => c.key.port = p && c.stage != .recorded) = false →
    ∃ u : State, exec (.queueEngineDisable p) s = .next u.work ∧ (u.dp.port p).enable = false ∧
      (u.dp.port p).enabled = false) ∧
  (∀ (s : State) (p : PortId) (v : Word), barServed s p = true →
    let h : HostPort := { s.dp.port p with evtCause := (s.dp.port p).evtCause &&& ~~~(v.truncate 16) }
    exec (.evtCauseClear p v) s = .next { s with dp := s.dp.setPort p h }) ∧
  (∀ (s : State) (p : PortId) (v : Word), barServed s p = true →
    ∃ t : State, exec (.evtMaskWrite p v) s = .next t ∧ (t.dp.port p).evtMask = v.truncate 16 ∧
      (t.dp.port p).evtCause = (s.dp.port p).evtCause) ∧
  (∀ (s : State) (p : PortId) (v : Bool), barServed s p = true →
    ∃ t : State, exec (.devVecEnWrite p v) s = .next t ∧ (t.dp.port p).devVecEn = v ∧
      (t.dp.port p).evtCause = (s.dp.port p).evtCause) ∧
  (∀ (s : State) (p : PortId), barServed s p = true →
    ∃ t : State, exec (.timeNowLowRead p) s = .next t ∧
      t.dp.io.out = s.dp.io.out ++ [.barRead p (leBytes 4 s.clk.time)] ∧
      (t.dp.port p).timeHigh = BitVec.ofNat 32 (s.clk.time / 2 ^ 32) ∧ (t.dp.port p).timeLatch = true) ∧
  (∀ (s : State) (p : PortId) (b : List Byte), barServed s p = true → b.length = 8 →
    let h : HostPort := { s.dp.port p with tbase := BitVec.ofNat 64 (leNat b / 4096 * 4096) }
    ((s.dp.port p).enabled = false → exec (.registerWrite p 32 b) s = .next { s with dp := s.dp.setPort p h }) ∧
    ((s.dp.port p).enabled = true → exec (.registerWrite p 32 b) s = .next s ∧
      exec (.registerWrite p 40 b) s = .next s)) ∧
  (∀ (s : State) (p : PortId) (v : Nat), barServed s p = true → v ≤ 2048 →
    ∃ t : State, exec (.msixVectorUnmask p v) s = .next t ∧ v ∈ (t.dp.port p).unmasked) ∧
  (∀ (s : State) (p : PortId) (q : Nat) (ent : Option (BitVec 512)), queueListed s p q = true →
    dmaOk s.env s.dp p = true →
    exec (.vqTsyncQueue p q ent) s = .next (s.onDp (fun e d => settleEngine e (postAll e p q
      (fetchEntry e p q ent d)))).work) ∧
  (∀ (s : State) (p : PortId) (l : List (Option (BitVec 512))), exec (.vqTsyncAll p l) s =
    .next (((l.take (s.dp.port p).tcount).zipIdx.foldl (fun s x => resyncEntry p x.2 x.1 s) s)).work)

/-- What a reset leaves of a port, and the four commands that reset ports. After a reset of a port (Table 9-15) its
ENABLE, ENABLED, DEV_VEC_EN, VQ_TBASE, VQ_TCOUNT, BME and PRI_FAILED are 0, its EVT_MASK is all ones, no cause but
READY and FATAL is set, no translation, page request or read is outstanding, its entry cache and live queue state are
gone, and its link is up exactly where the reset keeps it. With the link up, HOT_RESET and HOST_LINK_DOWN reset the
port with its link down (the loss is logged with code 0x0102), FLR keeps the link (logged 0x0103), and PERST_N_ASSERT
resets both ports; PERST_N_RELEASE ends the reset. (R296, R304, R324, R325, R326, R327, R330, 09_host_port.md) -/
def Obligations.PortResetsReachTableState : Prop :=
  (∀ (s : State) (p : PortId) (kept : LinkKept),
    let u := resetPort p kept s
    let h := u.dp.port p
    h.linkUp = kept.up ∧ h.rate = kept.rate ∧ h.width = kept.width ∧ h.enable = false ∧ h.enabled = false ∧
    h.devVecEn = false ∧ h.evtMask = BitVec.allOnes 16 ∧ h.tbase = 0 ∧ h.tcount = 0 ∧ h.bme = false ∧
    h.priFailed = false ∧ h.atc = [] ∧ h.pageReqs = [] ∧ h.reads = [] ∧
    (∀ b, b < 16 → b ≠ evReady → b ≠ evFatal → h.evtCause.getLsbD b = false) ∧
    (∀ x ∈ u.dp.vq.queues, x.port ≠ p) ∧ (∀ x ∈ u.dp.vq.cache, x.1 ≠ p)) ∧
  (∀ (s : State) (p : PortId), (s.dp.port p).linkUp = true →
    exec (.hotReset p) s = .next (resetPort p ⟨false, 0, 0⟩ s).work ∧
    exec (.hostLinkDown p) s = .next (resetPort p ⟨false, 0, 0⟩ ((s.log 0x0102 3 srcHost
      [portNo p, (s.dp.port p).l1.toNat]).onDp (fun _ => count 1 0 1))).work ∧
    ∃ n, exec (.flr p) s = .next (resetPort p ⟨true, (s.dp.port p).rate, (s.dp.port p).width⟩
      ((s.log 0x0103 2 srcHost [portNo p, n]).onDp (fun _ => count 1 1 1))).work) ∧
  (∀ s : State, s.pwr.porHeld = false →
    ∃ u : State, exec .perstNAssert s =
        .next (resetPort .b ⟨false, 0, 0⟩ (resetPort .a ⟨false, 0, 0⟩ u)).work ∧ u.dp.hp.perst = true ∧
      u.boot = s.boot ∧ u.clk = s.clk) ∧
  (∀ s : State, ∃ t : State, exec .perstNRelease s = .next t ∧ t.dp.hp.perst = false ∧ t.dp.hp.a = s.dp.hp.a ∧
    t.dp.hp.b = s.dp.hp.b ∧ t.dp.vq = s.dp.vq)

/-- Link training, L1, D3hot and Bus Master Enable. A fitted port whose link is down, with PERST_N released and the
core on, takes a trained rate and width of Table 9-1 and logs HOST_LINK_UP; an idle port with ASPM enters L1 and
leaves it; D3HOT_ENTRY and D0_RETURN set and clear D3hot; clearing Bus Master Enable leaves the port without it and
with BME_STALL where a finished command's record waits; setting it clears BME_STALL, posts what waits and then sends
the pending MSI-X messages; a configuration request is answered. (R296, R299, R322, R323, R328, R329, 09_host_port.md)
-/
def Obligations.HostLinkAndPowerEvents : Prop :=
  (∀ (s : State) (p : PortId) (rate width : Nat), (s.dp.port p).fitted = true → (s.dp.port p).linkUp = false →
    s.dp.hp.perst = false → coreOn s = true → s.pwr.state ≠ .lastTide → rate ∈ linkRates →
    widthOk s.boot.straps.bifurc width = true →
    ∃ t : State, exec (.hostLinkTrained p rate width) s = .next t ∧ (t.dp.port p).linkUp = true ∧
      (t.dp.port p).rate = rate ∧ (t.dp.port p).width = width ∧ t.dp.io.nextSeq = (s.dp.io.nextSeq + 1) % 2 ^ 32) ∧
  (∀ (s : State) (p : PortId), (s.dp.port p).linkUp = true → (s.dp.port p).aspmL1 = true →
    s.dp.vq.cmds.any (fun c => c.key.port = p && !c.orphan) = false →
    ∃ t : State, exec (.hostLinkL1Entry p) s = .next t ∧ (t.dp.port p).l1 = true) ∧
  (∀ (s : State) (p : PortId), (s.dp.port p).l1 = true →
    ∃ t : State, exec (.hostLinkL1Exit p) s = .next t ∧ (t.dp.port p).l1 = false) ∧
  (∀ (s : State) (p : PortId), (s.dp.port p).linkUp = true →
    (∃ t : State, exec (.d3hotEntry p) s = .next t ∧ (t.dp.port p).d3 = true ∧ t.dp.vq = s.dp.vq) ∧
    exec (.d0Return p) s = .next ((s.onDp (fun e d => postPort e p (d.onPort p (fun h => { h with d3 := false })))).work.onDp
      (fun e => sendPending e p)) ∧
    (∃ u : State, exec (.busMasterEnableClear p) s = .next u.work ∧ (u.dp.port p).bme = false ∧
      ((u.dp.port p).bmeStall = ((s.dp.port p).bmeStall ||
        s.dp.vq.cmds.any (fun c => c.key.port = p && c.stage = .finished)))) ∧
    exec (.busMasterEnableSet p) s = .next ((s.onDp (fun e d => postPort e p
      (d.onPort p (fun h => { h with bme := true, bmeStall := false })))).work.onDp (fun e => sendPending e p))) ∧
  (∀ (s : State) (p : PortId) (off : Nat), (s.dp.port p).linkUp = true →
    ∃ t : State, exec (.configRequest p (.read off)) s = .next t ∧
      t.dp.io.out = s.dp.io.out ++ [.cfgRead p (configRead s.env (s.dp.port p) p off)]) ∧
  (∀ (s : State) (p : PortId) (f : CfgField) (v : Nat), (s.dp.port p).linkUp = true → ¬(f = .pasidEnable ∧ v = 0) →
    exec (.configRequest p (.write f v)) s = .next
      (State.work { s with dp := s.dp.setPort p (configWrite (s.dp.port p) f v) }))

/-- Completions, completion errors, translations, page requests and invalidations. Data for an outstanding read is
written through the write-staging banks, reassembled and acts; an error completion and a completion time-out (after
the programmed limit, 40 ms by default) fail the read's command with HOST_ACCESS_ERROR; an outstanding translation
request's answer enters the cache of the port when it permits any access; a Success response to a page request counts,
and Invalid, a time-out after PRI_WAIT and a Response Failure fail the commands held (the last sets PRI_FAILED, which
PRI_CAPABILITY_RESET clears); an invalidation removes exactly the translations it covers; clearing PASID Enable breaks
the enabled queues that use one. (R308, R309, R310, R314, R315, R317, R318, R319, 09_host_port.md) -/
def Obligations.DmaCompletionsAndFaults : Prop :=
  (∀ (s : State) (p : PortId) (req : Nat) (r : DmaRead) (data : List Byte), readOf (s.dp.port p) req = some r →
    data ≠ [] → exec (.hostReadCompletion p req data) s = .next (s.onDp (fun e d =>
      takeBytes e p r data (d.askPad .wstage 1 data.length))).work) ∧
  (∀ (s : State) (p : PortId) (req : Nat) (r : DmaRead) (k : CplError), readOf (s.dp.port p) req = some r →
    exec (.hostCompletionError p req k) s = .next (s.onDp (fun e d => failCmd e r.key stHostAccess 0
      (count 1 3 1 (put (.aer p) (dropRead p r.req d))))).work) ∧
  (∀ (s : State) (p : PortId) (req : Nat) (r : DmaRead), readOf (s.dp.port p) req = some r →
    (s.dp.port p).cplTimeout = 0 → r.sentAt + 40000000 ≤ s.clk.time →
    exec (.hostCompletionTimeout p req) s = .next (failRead p r (s.onDp (fun _ => count 1 6 1)))) ∧
  (∀ (s : State) (p : PortId) (pasid : Option Nat) (page target : Nat) (rd wr : Bool),
    (s.dp.port p).transReqs.contains (pasid, page) = true → (rd = true ∨ wr = true) →
    ∃ (h : HostPort) (retry : Env → Dp → Dp), exec (.translationCompletion p pasid page rd wr target) s =
        .next (s.onDp (fun e d => retry e (d.setPort p h))).work ∧
      h.atc.head? = some ⟨pasid, page, rd, wr, target⟩ ∧ (pasid, page) ∉ h.transReqs ∧
      (∀ e d, d.vq.cmds = [] → retry e d = d)) ∧
  (∀ (s : State) (p : PortId) (req : Nat) (r : PageReq), pageReqOf (s.dp.port p) req = some r →
    (∃ u : State, exec (.pageRequestSuccess p req) s = .next u.work ∧
      (u.dp.port p).pageReqs = updateWhere (fun x => x.req = r.req)
        (fun x => { x with req := 0, successes := x.successes + 1 }) (s.dp.port p).pageReqs) ∧
    exec (.pageRequestInvalid p req) s = .next (failPage p r s) ∧
    (r.sentAt + s.param 0x0101 * 1000000 ≤ s.clk.time → exec (.pageRequestTimeout p req) s = .next (failPage p r s)) ∧
    exec (.pageRequestResponseFailure p req) s = .next (((s.log 0x0104 4 srcHost [portNo p]).onDp (fun e d =>
      (((s.dp.port p).pageReqs.map PageReq.key).eraseDups).foldl (fun d k => failCmd e k stHostAccess 0 d)
        (count 1 5 1 (d.onPort p (fun h => { h with priFailed := true, pageReqs := [] })))))).work) ∧
  (∀ (s : State) (p : PortId), ∃ u : State, exec (.priCapabilityReset p) s = .next u.work ∧
    (u.dp.port p).priFailed = false) ∧
  (∀ (s : State) (p : PortId) (pasid : Option Nat) (first n : Nat), (s.dp.port p).linkUp = true →
    ∃ u : State, exec (.invalidationRequest p pasid first n) s = .next u.work ∧
      (u.dp.port p).atc = (s.dp.port p).atc.filter
        (fun x => !(x.pasid = pasid && first ≤ x.page && x.page < first + n))) ∧
  (∀ (s : State) (p : PortId), exec (.pasidEnableClear p) s = .next (s.onDp (fun e d =>
    let d := d.onPort p (fun h => { h with pasidEn := false })
    (d.vq.queues.filter (fun x => x.port = p && x.enabled && qPasidEn x.entry && x.st != .broken)).foldl (fun d x =>
      ((breakQueue e p x.queue d).queueCmds p x.queue).foldl (fun d c => cutDma e c d) (breakQueue e p x.queue d)) d)).work)

/-- Coalescing, write admission, the pending-mapping table, the admission round and the soft limit. A queue with
unsignalled records whose coalescing time has passed signals its vector and has none left unsignalled; WRITE_ADMISSION
tries again every write of the pool that waits for tokens; PENDING_TABLE_ROOM tries again the held commands while this
device's table has room or another member has told that its own is full; ADMISSION_ROUND reports demands once per
millisecond when the device is READY; SOFT_LIMIT_TIMER sets the pool's soft limit after 1 s of delay and clears it
after 1 s without. (R345, R418, R423, R52, 10_valow_queues.md, 12_tidegauge_breakwater.md) -/
def Obligations.QueueTimersAndAdmission : Prop :=
  (∀ (s : State) (p : PortId) (q : Nat), (s.dp.queueD p q).unsig ≠ 0 →
    (s.dp.queueD p q).unsigAt + qCoalTime (s.dp.queueD p q).entry * 1000 ≤ s.clk.time →
    exec (.coalesceTimer p q) s = .next (s.onDp (fun e => signalQueue e p q))) ∧
  (∀ (e : Env) (d : Dp) (p : PortId) (q : Nat), ((signalQueue e p q d).queueD p q).unsig = 0) ∧
  (∀ (s : State) (pool : Nat), waitingWrites s.dp pool ≠ [] →
    exec (.writeAdmission pool) s = .next (s.onDp (fun e d =>
      (waitingWrites d pool).foldl (fun d c => startHeader e c.key d) d)).work) ∧
  (∀ s : State, (tableFull s.dp = false ∨ s.dp.sh.fullRanks ≠ []) →
    exec .pendingTableRoom s = .next (s.onDp (fun e => startHeaders e)).work) ∧
  (∀ s : State, s.boot.ready = true → s.boot.safe = false → s.pwr.lt = none → s.pwr.waiting = false →
    s.dp.bw.roundAt + 1000000 ≤ s.clk.time → exec .admissionRound s = .next (s.onDp reportDemands).work) ∧
  (∀ (s : State) (pool : Nat), (s.dp.bucket pool).softOn = false →
    (s.dp.bucket pool).delayedSince.any (fun t => t + 1000000000 ≤ s.clk.time) = true →
    (s.dp.bucket pool).softAt = none →
    ∃ u : State, exec (.softLimitTimer pool) s = .next u ∧ (u.dp.bucket pool).softOn = true ∧ (u.dp.bucket pool).softAt = some s.clk.time) ∧
  (∀ (s : State) (pool : Nat), (s.dp.bucket pool).softOn = true → (s.dp.bucket pool).delayedSince = none →
    (s.dp.bucket pool).idleSince + 1000000000 ≤ s.clk.time →
    ∃ t : State, exec (.softLimitTimer pool) s = .next t ∧ (t.dp.bucket pool).softOn = false)

/-- GO starts a request, DONE clears, and a response stands in the window with BUSY clear and DONE set. On a port
whose registers are served, with the mailbox available: GO on a mailbox with BUSY and DONE 0, whose window holds a
request that passes the checks of R386 steps 1 to 5, starts the command: BUSY is 1, DONE stays 0, the mailbox runs the
request the window spells and no GO is counted as ignored; GO while BUSY or DONE is 1 starts nothing and is counted; a
request that fails a check ends with the status of its first failure, BUSY clear and DONE set; writing DONE as 1
clears it. When a command of a host mailbox ends, the mailbox has no request, BUSY is 0, DONE is 1, RESP_LEN is 16
plus the payload's bytes, and the window holds header and payload. (R189, R381, R382, R383, R386, R399, Table 11-1,
Table 11-3, 11_mailboxes_parameters.md) -/
def Obligations.MailboxProtocol : Prop :=
  (∀ (s : State) (p : PortId) (n : Fin 4) (v : Word),
    let r := windowRequest (s.dp.mail (.host p n))
    barServed s p = true → available s.env s.dp (.host p n) = true →
    s.dp.mb.boxes.any (fun b => b.box = .host p n) = true →
    (s.dp.mail (.host p n)).busy = false → (s.dp.mail (.host p n)).done = false →
    formError (mbxQueues s.env (.host p n)) r = none → served s.env r.opcode = true →
    authorised s.dp (.host p n) r.opcode = true →
    ∃ t : State, exec (.mailboxGo p n v) s = .next t ∧ (t.dp.mail (.host p n)).busy = true ∧
      (t.dp.mail (.host p n)).done = false ∧ (t.dp.mail (.host p n)).ignored = (s.dp.mail (.host p n)).ignored ∧
      (t.dp.mail (.host p n)).request = some r ∧ (t.dp.mail (.host p n)).vec = (v ||| 1).getLsbD 4) ∧
  (∀ (s : State) (p : PortId) (n : Fin 4) (v : Word), barServed s p = true → available s.env s.dp (.host p n) = true →
    s.dp.mb.boxes.any (fun b => b.box = .host p n) = true →
    ((s.dp.mail (.host p n)).busy || (s.dp.mail (.host p n)).done) = true →
    ∃ t : State, exec (.mailboxGo p n v) s = .next t ∧
      (t.dp.mail (.host p n)).ignored = (s.dp.mail (.host p n)).ignored + 1 ∧
      (t.dp.mail (.host p n)).request = (s.dp.mail (.host p n)).request) ∧
  (∀ (s : State) (p : PortId) (n : Fin 4) (v : Word) (st det : Nat),
    barServed s p = true → available s.env s.dp (.host p n) = true →
    s.dp.mb.boxes.any (fun b => b.box = .host p n) = true →
    (s.dp.mail (.host p n)).busy = false → (s.dp.mail (.host p n)).done = false →
    formError (mbxQueues s.env (.host p n)) (windowRequest (s.dp.mail (.host p n))) = some (st, det) →
    ∃ t : State, exec (.mailboxGo p n v) s = .next t ∧ (t.dp.mail (.host p n)).busy = false ∧
      (t.dp.mail (.host p n)).done = true ∧ (t.dp.mail (.host p n)).respLen = 16) ∧
  (∀ (s : State) (p : PortId) (n : Fin 4) (v : Word), barServed s p = true →
    s.dp.mb.boxes.any (fun b => b.box = .host p n) = true →
    ∃ t : State, exec (.mailboxDoneClear p n v) s = .next t ∧ (t.dp.mail (.host p n)).done = false ∧
      (t.dp.mail (.host p n)).busy = (s.dp.mail (.host p n)).busy) ∧
  (∀ (e : Env) (d : Dp) (p : PortId) (n : Fin 4) (r : MbReq) (st det : Nat) (pl : List Byte),
    d.request (.host p n) = some r →
    let t := (respond e (.host p n) st det pl d).mail (.host p n)
    t.request = none ∧ t.busy = false ∧ t.done = true ∧ t.respLen = 16 + pl.length ∧
    t.respWin = Memory.writeBytes [] 0 (responseBytes r st det pl))

/-- The commands that report the device, its pools and its jobs answer with SUCCESS. A running IDENTIFY,
DEVICE_STATUS, TIME_QUERY, POOL_LIST, SHOAL_QUERY, SEAWALL_QUERY, POOL_QUERY and RESHAPE_STATUS of a pool that is
shown, and SECURE_DISCARD_STATUS of a job that is kept, answer with SUCCESS and the payload of their tables; a handle
or job that is not there is refused with its status. TIME_PIN pins UTC so that the pin plus device time is the time
given (modulo 2^64), and answers BOOT_COUNT and device time. SESSION_RESET ends the session's diagnostic authority and
gives the mailbox a new session number (a free value, log entry 3). (R2, R247, R580, R399, R521, R41, R219, R67, Table
11-7, Table 2-6, 11_mailboxes_parameters.md) -/
def Obligations.IdentifyAndStatusAnswer : Prop :=
  (∀ (s : State) (m : Mbx) (r : MbReq),
    (Asked s m 0x0001 r → exec (.identify m) s = .next (s.answer m (leBytes 64 (identifyWord s)))) ∧
    (Asked s m 0x0002 r → exec (.deviceStatus m) s = .next (s.answer m (statusBytes m s))) ∧
    (Asked s m 0x0005 r → exec (.timeQuery m) s = .next (s.answer m ((if s.clk.pin.isSome then 1 else 0) ::
      List.replicate 7 0 ++ leBytes 8 (s.clk.pin.getD 0) ++ leBytes 8 s.clk.pinErr))) ∧
    (Asked s m 0x0105 r → exec (.poolList m) s = .next (s.answer m (leBytes 32 (listMask
      ((s.dp.sh.reg.pools.filter (fun p => p.handle != 0 && p.state != .creating)).map PoolRec.handle)))))  ∧
    (Asked s m 0x0701 r → exec (.shoalQuery m) s = .next (s.answer m (leBytes 1 s.dp.sh.reg.n ++
      leBytes 2 (listMask (memberRanks s.dp.sh.reg)) ++ List.replicate 13 0 ++
      (List.range 16).flatMap (rankEntry s)))) ∧
    (Asked s m 0x0702 r → exec (.seawallQuery m) s = .next (s.answer m ((List.range (fieldAt r.payload 2 2)).flatMap
      (fun i => leBytes 16 (seaWord (s.dp.sea (fieldAt r.payload 0 2 + i)))))))) ∧
  (∀ (s : State) (m : Mbx) (r : MbReq) (p : PoolRec), shownPool s (fieldAt r.payload 0 1) = some p →
    (Asked s m 0x0104 r → exec (.poolQuery m) s = .next (s.answer m (poolBytes s p))) ∧
    (Asked s m 0x0107 r → p.reshape = none →
      exec (.reshapeStatus m) s = .next (s.answer m (List.replicate 17 0))) ∧
    (∀ x, Asked s m 0x0107 r → p.reshape = some x → x.paused = true → exec (.reshapeStatus m) s =
      .next (s.answer m (leBytes 8 x.tidemark ++ leBytes 8 x.rows ++ [2])))) ∧
  (∀ (s : State) (m : Mbx) (r : MbReq), shownPool s (fieldAt r.payload 0 1) = none →
    (Asked s m 0x0104 r → exec (.poolQuery m) s = .next (s.deny m msNoPool 0)) ∧
    (Asked s m 0x0107 r → exec (.reshapeStatus m) s = .next (s.deny m msNoPool 0))) ∧
  (∀ (s : State) (m : Mbx) (r : MbReq) (j : SdJob), Asked s m 0x0108 r →
    s.dp.sh.reg.jobs.find? (fun j => j.id = fieldAt r.payload 0 4) = some j →
    exec (.secureDiscardStatus m) s = .next (s.answer m (leBytes 32 (jobWord j)))) ∧
  (∀ (s : State) (m : Mbx) (r : MbReq), Asked s m 0x0004 r →
    ∃ u : State, exec (.timePin m) s = .next (u.answer m (leBytes 8 s.clk.boot ++ leBytes 8 s.clk.time)) ∧
      u.clk.time = s.clk.time ∧ u.clk.lostAt = none ∧
      ∃ pin, u.clk.pin = some pin ∧ (pin + s.clk.time) % 2 ^ 64 = fieldAt r.payload 0 8 % 2 ^ 64) ∧
  (∀ (s : State) (m : Mbx) (r : MbReq), Asked s m 0x0003 r →
    ∃ u : State, exec (.sessionReset m) s = .next (u.answer m []) ∧ u.dp.mb.diag ≠ some m ∧
      (s.dp.mb.boxes.any (fun b => b.box = m) = true → s.dp.mb.diag = none →
        (u.dp.mail m).session = BitVec.ofNat 32 (Config.random s.dp.io.fresh)))

/-- QUEUE_QUERY, QUEUE_STATS, the parameter commands and the log commands. A running QUEUE_QUERY, QUEUE_STATS,
PARAM_PAGE_GET, ERROR_LOG_READ and STRANDLINE_READ answers with SUCCESS and the payload of its table (STRANDLINE_READ
with the first sequence returned, or the next to be written, in DETAIL, and on the management port the records
returned no longer hold SMB_ALERT_N); COUNTERS_READ of the scratchpad subsystem clears the corrected counts of every
bank; ERROR_LOG_CLEAR goes to the registry steward; PARAM_SET and PARAM_DEFAULT refuse with the first entry that
fails, and apply the entries of a request of device parameters that passes. (R578, R390, R391, R549, R550, R551, R553,
R555, R485, 11_mailboxes_parameters.md, 17_faults_strandline.md) -/
def Obligations.QueueParameterAndLogCommands : Prop :=
  (∀ (s : State) (m : Mbx) (r : MbReq),
    (Asked s m 0x0201 r → exec (.queueQuery m) s =
      .next (s.answer m (queueBytes s.dp (mbxHostPort m) (fieldAt r.payload 0 2)))) ∧
    (Asked s m 0x0202 r →
      let x := s.dp.queueD (mbxHostPort m) (fieldAt r.payload 0 2)
      exec (.queueStats m) s = .next (s.answer m (leBytes 8 x.nCmds ++ leBytes 8 x.nBytes ++ leBytes 8 x.nErrors ++
        leBytes 8 x.nIgnored))) ∧
    (Asked s m 0x0301 r → exec (.paramPageGet m) s = .next (s.answer m
      ((paramTable.filter (fun x => x.id / 256 = fieldAt r.payload 0 1)).flatMap
        (fun x => leBytes 32 (paramWord s x))))) ∧
    (Asked s m 0x0402 r → exec (.errorLogRead m) s = .next (s.answer m
      (((s.dp.sh.reg.errlog.drop (fieldAt r.payload 0 2)).take (fieldAt r.payload 2 2)).flatMap
        (fun x => leBytes 32 (errWord x))))) ∧
    (Asked s m 0x0403 r → exec (.errorLogClear m) s = .next (s.forward m))) ∧
  (∀ (s : State) (m : Mbx) (r : MbReq), Asked s m 0x0401 r →
    let l := logPick s.dp.io (fieldAt r.payload 0 4) (fieldAt r.payload 4 2) (fieldAt r.payload 6 1)
    ∃ u : State, exec (.strandlineRead m) s = .next (u.onDp (fun e => respond e m msSuccess
        ((l.head?.map LogRec.seqn).getD s.dp.io.nextSeq) (l.flatMap (fun x => leBytes 32 (logWord x))))) ∧
      u.dp.io.ring = s.dp.io.ring ∧ (m ≠ .mgmt → u = s) ∧
      (m = .mgmt → u.dp.io.alert = s.dp.io.alert.filter (fun q => !(l.map LogRec.seqn).contains q))) ∧
  (∀ (s : State) (m : Mbx) (r : MbReq), Asked s m 0x0404 r → fieldAt r.payload 0 1 = 13 →
    ∃ (u : State) (l : List Byte), exec (.countersRead m) s = .next (u.answer m l) ∧
      (∀ b ∈ u.pads.banks, b.2.corrected = 0) ∧
      u.pads.banks.map (fun b => (b.1, b.2.owner, b.2.st)) = s.pads.banks.map (fun b => (b.1, b.2.owner, b.2.st))) ∧
  (∀ (s : State) (m : Mbx) (r : MbReq), Asked s m 0x0404 r → fieldAt r.payload 0 1 ≠ 13 →
    ∃ (u : State) (l : List Byte), exec (.countersRead m) s = .next (u.answer m l) ∧ u.pads = s.pads ∧
      l.length = 8 * counterCount (fieldAt r.payload 0 1)) ∧
  (∀ (s : State) (m : Mbx) (r : MbReq) (st i : Nat),
    paramError s m (mailOrder s.env m (s.dp.mail m) r) = some (st, i) →
    (Asked s m 0x0302 r → exec (.paramSet m) s = .next (s.deny m st i)) ∧
    (Asked s m 0x0303 r → exec (.paramDefault m) s = .next (s.deny m st i))) ∧
  (∀ (s : State) (m : Mbx) (r : MbReq), paramError s m (mailOrder s.env m (s.dp.mail m) r) = none →
    (paramEntries r.opcode r.payload).any (fun x => (paramDef x.1).any ParamDef.shoal) = false →
    (Asked s m 0x0302 r → exec (.paramSet m) s = .next (applyParams r (some m) s)) ∧
    (Asked s m 0x0303 r → exec (.paramDefault m) s = .next (applyParams r (some m) s)))

/-- Every order on pools, leases, members, stewards and the shoal is forwarded, and takes effect at the registry
steward. A running request of each of the seventeen orders that act on a pool, on the shoal, on members, on roles or
on leases is sent to the registry steward and kept by this head, with the rank, port, session and TOKEN that make it
unique, and the mailbox waits for its answer. Where this device is the registry steward, the order new to it and its
lease held, a request that passes the checks of its own rule has its effect on the registry that the next order sees:
POOL_CREATE adds the pool ONLINE, POOL_DELETE sets it DELETING (with SECURE beside its job), POOL_RESIZE gives it the
new capacity, RESHAPE_START its reshape, WRITE_FLOOR_SET its floor; LEASE_ACQUIRE puts the lease and LEASE_RELEASE
drops it; MEMBER_ADD, _RETIRE, _SPARE_SET and _REPLACE change the members and the trees; STEWARD_PREFER the preferred
roles; ERROR_LOG_CLEAR counts one more clear of the pool; EPOCH_REBASE of exhausted epochs one more rebase.
LEASE_QUERY ends with SUCCESS and the lease's holder and term in its window. SANITIZE_CRYPTO of this rank is due on
this device; at a pool's steward STEWARD_MOVE starts the handover to its target, STEWARD_DRILL the drill, and
EPOCH_REBASE sends the rebase record to be ordered. (R36, R37, R38, R213, R224, R389, R395, R397, R398, R442, R551,
11_mailboxes_parameters.md) -/
def Obligations.AdministrativeOrdersGoToTheRegistrySteward : Prop :=
  (∀ (e : Env) (d : Dp) (m : Mbx) (r : MbReq) (o : Order), o = mailOrder e m (d.mail m) r →
    o.rank = e.rank ∧ o.port = mbxPort m ∧ o.session = (d.mail m).session ∧ o.token = r.token ∧ o.payload = r.payload) ∧
  (∀ (e : Env) (o : Order) (d : Dp), stewardOf e { d with sh := { d.sh with
      forwarded := d.sh.forwarded ++ [(o, e.now, noRank)] } } 0 = none → o.opcode ≠ 0x0713 →
    (sendOrder e o d).sh.forwarded = d.sh.forwarded ++ [(o, e.now, noRank)]) ∧
  (∀ (s : State) (m : Mbx) (r : MbReq),
    let sent : State := (s.onDp (fun e d => sendOrder e (mailOrder e m (d.mail m) r) (d.wait m))).work
    (Asked s m 0x0101 r → exec (.poolCreate m) s = .next sent) ∧
    (Asked s m 0x0102 r → exec (.poolDelete m) s = .next sent) ∧
    (Asked s m 0x0103 r → exec (.poolResize m) s = .next sent) ∧
    (Asked s m 0x0106 r → exec (.reshapeStart m) s = .next sent) ∧
    (Asked s m 0x0109 r → exec (.writeFloorSet m) s = .next sent) ∧
    (Asked s m 0x0110 r → exec (.leaseAcquire m) s = .next sent) ∧
    (Asked s m 0x0111 r → exec (.leaseRelease m) s = .next sent) ∧
    (Asked s m 0x0112 r → exec (.leaseQuery m) s = .next sent) ∧
    (Asked s m 0x0604 r → exec (.sanitizeCrypto m) s = .next sent) ∧
    (Asked s m 0x0703 r → exec (.memberAdd m) s = .next sent) ∧
    (Asked s m 0x0704 r → exec (.memberRetire m) s = .next sent) ∧
    (Asked s m 0x0705 r → exec (.memberSpareSet m) s = .next sent) ∧
    (Asked s m 0x0706 r → exec (.memberReplace m) s = .next sent) ∧
    (Asked s m 0x0710 r → exec (.stewardMove m) s = .next sent) ∧
    (Asked s m 0x0711 r → exec (.stewardPrefer m) s = .next sent) ∧
    (Asked s m 0x0712 r → exec (.stewardDrill m) s = .next sent) ∧
    (Asked s m 0x0713 r → exec (.epochRebase m) s = .next sent)) ∧
  (∀ (s : State) (m : Mbx) (r : MbReq),
    let g := s.dp.sh.regNext
    let p := r.payload
    let o := mailOrder s.env m (s.dp.mail m) r
    let h := fieldAt p 0 1
    let x := fieldAt p 1 1
    let becomes (c : Instr) (after : Registry) : Prop := ∃ u : State, exec c s = .next u.work ∧
      u.dp.sh.regNext = { after with applied := u.dp.sh.regNext.applied }
    Sequenced s o →
    (Asked s m 0x0101 r → ∀ (ns : List Node) (st : List Stripe) (depth : Nat), nodesOf p = some ns →
      parseTree (sherdBlocks (crSherd p)) (crCap p) ns = some (st, depth) →
      layoutOk g (paramVal s.par g 0x0601) (crIu p) (crSherd p) st depth = true → g.pool (crHandle p) = none →
      s.dp.sh.reg.pool (crHandle p) = none →
      let l : Lay := ⟨sherdBlocks (crSherd p), st, 0⟩
      l.cap ≤ capMax → sizeStatus s.env s.dp g (crHandle p) l (crIu p) (fun _ => 0) = none →
      ∃ (u : State) (q : PoolRec), exec (.poolCreate m) s = .next u.work ∧ u.dp.sh.regNext.pools = g.pools ++ [q] ∧
        q.handle = crHandle p ∧ q.state = .online ∧ q.cap = l.cap ∧ q.nodes = ns ∧ q.stripes = st ∧ q.iu = crIu p ∧
        q.sherd = crSherd p ∧ q.floor = crFloor p ∧ q.tags = crTags p ∧ q.createdAt = s.clk.time ∧
        u.dp.sh.regNext.members = g.members) ∧
    (∀ q : PoolRec, h ≠ 0 → g.pool h = some q → q.state ≠ .deleting →
      (Asked s m 0x0102 r → x = 0 → becomes (.poolDelete m) (g.setPool { q with state := .deleting })) ∧
      (Asked s m 0x0102 r → x = 1 → becomes (.poolDelete m) ((addJob s.env g q 0 q.cap (2 ^ 64 - 1)).setPool
        { q with state := .deleting, secureDel := true, deleteJob := some g.nextJob })) ∧
      (Asked s m 0x0103 r → ∀ q' : PoolRec, resizePool q (fieldAt p 8 8) = some q' → q'.cap ≤ capMax → q.cap ≤ q'.cap →
        sizeStatus s.env s.dp g q.handle q'.lay q.iu q.lay.resident = none → becomes (.poolResize m) (g.setPool q')) ∧
      (Asked s m 0x0109 r → becomes (.writeFloorSet m) (g.setPool { q with floor := x }))) ∧
    (Asked s m 0x0106 r → ∀ (q : PoolRec) (ns : List Node) (st : List Stripe) (depth : Nat), crHandle p ≠ 0 →
      g.pool (crHandle p) = some q → q.state ≠ .deleting → crIu p = q.iu → crTags p = q.tags →
      (if rootConcat p then crCap p = 0 else crCap p = 0 ∨ q.cap ≤ crCap p) → nodesOf p = some ns →
      parseTree (sherdBlocks (crSherd p)) (if crCap p = 0 then q.cap else crCap p) ns = some (st, depth) →
      layoutOk g (paramVal s.par g 0x0601) (crIu p) (crSherd p) st depth = true →
      let l : Lay := ⟨sherdBlocks (crSherd p), st, q.layoutGen + 1⟩
      q.cap ≤ l.cap → l.cap ≤ capMax → q.reshape = none →
      sizeStatus s.env s.dp g q.handle l q.iu q.lay.resident = none →
      let z : Reshape := { nodes := ns, stripes := st, sherd := crSherd p, floor := crFloor p, cap := l.cap, rows := l.rows,
                           tidemark := 0, paused := false }
      becomes (.reshapeStart m) (g.setPool { q with reshape := some z })) ∧
    (leaseHandle g h = true →
      (Asked s m 0x0110 r → leaseAt g s.clk.time h = none →
        let term := fieldAt p 4 4 * msec
        becomes (.leaseAcquire m) (putLease g ⟨h, holderOf o, s.clk.time + term, term⟩)) ∧
      (∀ l, Asked s m 0x0111 r → leaseAt g s.clk.time h = some l → l.holder = holderOf o →
        becomes (.leaseRelease m) (dropLease g h)) ∧
      (Asked s m 0x0112 r → waiter (s.dp.wait m) o = some m → s.dp.mb.boxes.any (fun b => b.box = m) = true →
        ∀ (t : PortId) (n : Fin 4), m = .host t n → ∃ u : State, exec (.leaseQuery m) s = .next u.work ∧
          u.dp.request m = none ∧ (u.dp.mail m).busy = false ∧ (u.dp.mail m).done = true ∧
          (u.dp.mail m).respWin = Memory.writeBytes [] 0
            (responseBytes r msSuccess 0 (leaseBytes s.clk.time (leaseAt g s.clk.time h))))) ∧
    (Asked s m 0x0403 r → ∀ q : PoolRec, g.pool h = some q → q.state ≠ .deleting →
      becomes (.errorLogClear m) { g with clears := g.clears.put q.handle (g.clears.get 0 q.handle + 1) }) ∧
    (Asked s m 0x0604 r → ∀ k : MemberRec, g.member h = some k → h = s.env.rank →
      g.pools.any (fun q => q.ranks.contains h && memberState s.dp q.handle h != .retired) = false →
      ∃ u : State, exec (.sanitizeCrypto m) s = .next u.work ∧ u.dp.mb.sanDue = s.dp.mb.sanDue ++ [o]) ∧
    (Asked s m 0x0703 r → h ≤ 15 →
      becomes (.memberAdd m) (putMember g (memberOf h (BitVec.ofNat 64 (fieldAt p 8 8))))) ∧
    (∀ k : MemberRec, g.member h = some k →
      (Asked s m 0x0704 r → becomes (.memberRetire m) (putMember g { k with retired := true })) ∧
      (Asked s m 0x0705 r → (x = 1 → hasLeaf g k.rank = false) →
        becomes (.memberSpareSet m) (putMember g { k with spare := x = 1 })) ∧
      (Asked s m 0x0706 r → ∀ y : MemberRec, h ≠ x → g.member x = some y → y.spare = true → hasLeaf g x = false →
        present s.env s.dp x = true → replaceStatus (substRank h x g) x = none →
        becomes (.memberReplace m) (substRank h x g))) ∧
    (∀ q : PoolRec, g.pool h = some q → q.state ≠ .deleting →
      (Asked s m 0x0711 r → ∀ a b : MemberRec, g.member x = some a → g.member (fieldAt p 2 1) = some b →
        x ≠ fieldAt p 2 1 →
        becomes (.stewardPrefer m) (g.setPool { q with prefSteward := x, prefStandby := some (fieldAt p 2 1) })) ∧
      (Asked s m 0x0710 r → ∀ k : MemberRec, g.member x = some k → present s.env s.dp x = true →
        stewardOf s.env s.dp h = some s.env.rank → x ≠ s.env.rank → (s.dp.roleD h).handover = none →
        epochOf (s.dp.claimOf h) < epochMax → ∃ (u : State) (v : Handover), exec (.stewardMove m) s = .next u.work ∧
          (u.dp.roleD h).stopped = true ∧ (u.dp.roleD h).handover = some v ∧ v.target = x ∧ v.since = s.clk.time ∧
          v.byOrder = some o) ∧
      (Asked s m 0x0712 r → s.dp.sh.delegated.any (fun y => y.1.opcode = 0x0712) = false → ∀ (k : Nat) (c : BitVec 32), stewardOf s.env s.dp h = some s.env.rank →
        (s.dp.roleD h).standby = some k → formClaim s.env s.dp drillHandle = some c →
        ∃ (u : State) (v : Drill), exec (.stewardDrill m) s = .next u.work ∧ u.dp.sh.drill = some v ∧ v.pool = h ∧
          v.order = some o ∧ v.since = s.clk.time ∧ v.standby = k ∧ v.oldClaim = c ∧
          v.asked = listMask (otherRanks s.env s.dp) ∧ v.fencedOk = 0 ∧ v.accepted = 0) ∧
      (Asked s m 0x0713 r → exhausted s.env s.dp q.handle = true → allPresent s.env s.dp g = true →
        ∀ k, (succession g q).find? (fun k => present s.env s.dp k) = some k →
        becomes (.epochRebase m) (g.setPool { q with rebases := q.rebases + 1, rebaseRank := k }))))

/-- FW_STAGE, FW_COMMIT, FW_ACTIVATE and FW_STATUS. FW_STAGE BEGIN discards the inactive slot and sets it STAGING with
the length given; FW_STAGE DATA at the offset accepted so far takes as many bytes as the buffer and the length leave;
FW_COMMIT of a fully programmed image, read back without a bad block, answers result 1 for a bad signature, 5 for
another release or mailbox line, 2 for an SVN below the fused one, each with the slot left as it is, and otherwise 0
with the slot STAGED with the image's SVN and build; FW_ACTIVATE of an image that is not staged under that build is
refused, and with only one side present, at the next start, it is accepted; FW_STATUS answers the state of both slots.
What the ROM finds in an image is a free value (log entry 3). (R400, R459, R460, R463, Table 13-12,
13_glaze_saggar_bedrock.md) -/
def Obligations.FirmwareCommands : Prop :=
  (∀ (s : State) (m : Mbx) (r : MbReq), Asked s m 0x0501 r → fieldAt r.payload 0 1 = 0 → fieldAt r.payload 4 4 = 0 →
    ∃ u : State, exec (.fwStageBegin m) s = .next (u.answer m (List.replicate 8 0)) ∧
      u.image (staging s) = { Image.reset .staging with length := 0 } ∧ u.image (1 - staging s) = s.image (1 - staging s)) ∧
  (∀ (s : State) (m : Mbx) (r : MbReq), Asked s m 0x0501 r → fieldAt r.payload 0 1 = 0 → fieldAt r.payload 4 4 ≠ 0 →
    ∃ u : State, exec (.fwStageBegin m) s = .next ((bankAsk (staging s) 7 true .staging u).answer m (List.replicate 8 0)) ∧
      u.image (staging s) = { Image.reset .staging with length := fieldAt r.payload 4 4 }) ∧
  (∀ (s : State) (m : Mbx) (r : MbReq), Asked s m 0x0501 r → fieldAt r.payload 0 1 = 1 →
    let i := s.image (staging s)
    i.st = .staging → fieldAt r.payload 4 4 = i.accepted →
    let take := min (fieldAt r.payload 8 4) (min (i.programmed + 1048576 - i.accepted) (i.length - i.accepted))
    ∃ u : State, exec (.fwStageData m) s = .next ((stagePage u).answer m
        (leBytes 4 (i.accepted + take) ++ leBytes 4 i.programmed)) ∧
      (u.image (staging s)).accepted = i.accepted + take ∧ (u.image (staging s)).st = .staging) ∧
  (∀ (s : State) (m : Mbx) (r : MbReq), Asked s m 0x0502 r →
    let i := s.image (staging s)
    let x := Config.imageInfo i.bytes
    let svn := x.2.2.2.1
    let build := x.2.2.2.2
    let result := if x.1 = false then 1 else if x.2.1 ≠ 4 ∨ x.2.2.1 ≠ 4 then 5 else if svn < s.boot.svnFused then 2 else 0
    i.st = .staging → i.length ≤ i.accepted → i.accepted ≤ i.programmed → bankBusy (s.bank (staging s)) = false →
    ∃ u : State, exec (.fwCommit m false) s = .next (u.answer m (commitBytes result (staging s) svn build)) ∧
      u.image (staging s) = if result = 0 then { i with st := .staged, svn := svn, build := build } else i) ∧
  (∀ (s : State) (m : Mbx) (r : MbReq), Asked s m 0x0503 r → s.pwr.entering = none →
    let slot := fieldAt r.payload 0 1
    let i := s.image slot
    (i.st ≠ .staged → exec (.fwActivate m) s = .next (s.deny m msField 8)) ∧
    (i.st = .staged → i.build = fieldAt r.payload 4 4 → bothSides s.dp = false → fieldAt r.payload 8 1 = 0 →
      ∃ u : State, exec (.fwActivate m) s = .next ((acceptActivate slot i.build u).answer m [0]) ∧
        u.dp.mb.half = none ∧ u.bed = s.bed)) ∧
  (∀ (s : State) (m : Mbx) (r : MbReq), Asked s m 0x0504 r →
    ∃ l : List Byte, exec (.fwStatus m) s = .next (s.answer m l) ∧ l.length = 24 ∧
      l[1]? = some (BitVec.ofNat 8 s.boot.svnFused) ∧ l[4]? = some (BitVec.ofNat 8 s.bed.a.st.code) ∧
      l[6]? = some (BitVec.ofNat 8 s.bed.b.st.code))

/-- ATTEST_GET, KEY_SLOT_LOAD and KEY_SLOT_CLEAR. ATTEST_GET QUOTE answers the quote over the request's nonce with its
signature, and CERT the certificate's length and up to 4,000 bytes from the offset; KEY_SLOT_LOAD of plaintext into an
empty service slot, with a usage its size permits, puts the key there under a new generation one above the last; a
reserved or full slot is refused with DETAIL 1, and an unsuited usage with DETAIL 2; KEY_SLOT_CLEAR of a filled
service slot takes its place in the list of clears and runs at once where no GLAZE command before it uses the slot.
(R433, R439, R440, R441, R445, R446, Table 13-4, Table 13-7, 13_glaze_saggar_bedrock.md) -/
def Obligations.AttestationAndKeyCommands : Prop :=
  (∀ (s : State) (m : Mbx) (r : MbReq), Asked s m 0x0601 r → fieldAt r.payload 0 1 = 0 →
    let b := quoteBody (r.payload.drop 8) s
    exec (.attestQuote m) s = .next (s.answer m (b ++ aliasSign s b))) ∧
  (∀ (s : State) (m : Mbx) (r : MbReq), Asked s m 0x0601 r → fieldAt r.payload 0 1 = 1 →
    let c := Config.certificate (fieldAt r.payload 1 1) s.boot.serial (s.sec.meas.getD 1 0)
    ∃ part : List Byte, exec (.attestCert m) s = .next (s.answer m (leBytes 2 c.length ++ leBytes 2 part.length ++ part)) ∧
      part.length ≤ 4000 ∧ part = (c.drop (fieldAt r.payload 2 2)).take 4000) ∧
  (∀ (s : State) (m : Mbx) (r : MbReq), Asked s m 0x0602 r →
    let n := fieldAt r.payload 0 2
    let usage := fieldAt r.payload 4 2
    16 ≤ n → s.sec.slots.find n = none → fieldAt r.payload 2 1 = 1 → fieldAt r.payload 3 1 = 0 →
    usageOk false usage = true → genSpent s = false → fieldAt r.payload 6 1 = 0 →
    ∃ u : State, exec (.keySlotLoad m) s = .next ((writeRecord .keystore u).answer m (leBytes 4 (s.sec.gen + 1))) ∧
      u.sec.gen = s.sec.gen + 1 ∧ ∃ k, u.sec.slots.find n = some k ∧ k.key = bytesAt r.payload 16 32 ∧
        k.usage = usage ∧ k.gen = s.sec.gen + 1 ∧ k.counter = 0) ∧
  (∀ (s : State) (m : Mbx) (r : MbReq), Asked s m 0x0602 r →
    let n := fieldAt r.payload 0 2
    ((n < 16 ∨ (s.sec.slots.find n).isSome = true) → exec (.keySlotLoad m) s = .next (s.deny m msField 1)) ∧
    (16 ≤ n → s.sec.slots.find n = none → usageOk (fieldAt r.payload 3 1 = 1) (fieldAt r.payload 4 2) = false →
      exec (.keySlotLoad m) s = .next (s.deny m msField 2))) ∧
  (∀ (s : State) (m : Mbx) (r : MbReq), Asked s m 0x0603 r →
    let n := fieldAt r.payload 0 2
    16 ≤ n → (s.sec.slots.find n).isSome = true → s.sec.clearing.any (fun c => c.1 = n) = false →
    ∃ u : State, exec (.keySlotClear m) s = .next (finishClears u) ∧
      u.sec.clearing = s.sec.clearing ++ [(n, some m, glazeUsers s.dp n)] ∧ u.sec.slots = s.sec.slots) ∧
  (∀ (s : State) (m : Mbx) (r : MbReq), Asked s m 0x0603 r → fieldAt r.payload 0 2 < 16 →
    exec (.keySlotClear m) s = .next (s.deny m msField 1))

/-- POWER_QUERY, HOLDUP_QUERY, SAG_TEST, EBB_ENTER and SELFTEST_RESULT. POWER_QUERY answers the power state's code,
the device power and the hottest sensor; HOLDUP_QUERY the measured capacitance and its time; SAG_TEST, with none in
progress, takes the gate off, starts a test that answers this mailbox and waits; SELFTEST_RESULT answers the four
codes; EBB_ENTER of a device that holds no role, runs no command, has no greenware, open stripe or die work, and whose
Ebb anchor has been programmed since, answers SUCCESS and enters Ebb. (R498, R499, R502, R503, R504, R578,
15_power_holdup_last_tide.md) -/
def Obligations.PowerCommands : Prop :=
  (∀ (s : State) (m : Mbx) (r : MbReq),
    (Asked s m 0x0801 r → exec (.powerQuery m) s = .next (s.answer m (leBytes 1 s.pwr.state.code ++ [0, 0, 0] ++
      leBytes 4 s.pwr.powerMw ++ leBytes 2 (tjField s.pwr.tj)))) ∧
    (Asked s m 0x0803 r → ∃ a b c : List Byte, exec (.holdupQuery m) s = .next (s.answer m
      (leBytes 4 ((s.pwr.cap.map Prod.fst).getD 0) ++ a ++ leBytes 8 s.dp.bw.gLim ++
        leBytes 8 ((s.pwr.cap.map Prod.snd).getD 0) ++ b ++ c)) ∧ a.length = 4 ∧ b.length = 4 ∧ c.length = 4) ∧
    (Asked s m 0x0903 r → exec (.selftestResult m) s = .next (s.answer m
      ((List.range 4).flatMap (fun i => leBytes 1 (s.boot.selftest.getD i 0)))))) ∧
  (∀ (s : State) (m : Mbx) (r : MbReq), Asked s m 0x0804 r → s.pwr.sag = none →
    ∃ t : State, exec (.sagTest m) s = .next t ∧ t.pwr.gateOn = false ∧
      t.pwr.sag = some { since := s.clk.time, byMail := some m } ∧
      t.dp.request m = some { r with waiting := true }) ∧
  (∀ (s : State) (m : Mbx) (r : MbReq), Asked s m 0x0802 r →
    let u := leaveRoles (startLeaving .ebb m s)
    (rolesHeld u.dp || cmdBusy u.dp || u.dp.map.green.any (fun g => !g.verified || !g.committed)) = false →
    u.dp.med.rows.any (fun x => x.openSince.isSome) = false → dieWork u.dp = false →
    ebbAnchored u (u.pwr.entering.elim u.clk.time Entering.since) = true →
    exec (.ebbEnter m) s = .next (enterEbb (u.answer m [])))

/-- Diagnostic authority, injections, diagnostic access and link tests. DIAG_AUTH_ACQUIRE with no holder gives the
session the authority and extends MEAS7, and is refused while any session holds it; DIAG_AUTH_RELEASE ends it,
disarming every injection; INJECT_CHECKBITS within its region with no arm of that target adds an ARMED record with the
next ARM_ID and answers it; INJECT_STATUS answers a kept record; DIAG_ACCESS WRITE, READ and ERASE act on the
diagnostic windows and row; a link test starts on a port that is up and stops on order; MEDIA_RETURN of a unit that is
not fenced, or one where valid data remains, is refused; of a fenced unit without valid data, it retrains the unit and
answers how many of its blocks passed erase and verify and how many were retired; a unit that trains at no rate stays
as it was. (R113, R179, R182, R184, R185, R186, R187, R399, Table 5-10, Table 5-13, 05_stored_data_integrity.md) -/
def Obligations.DiagnosticCommands : Prop :=
  (∀ (s : State) (m : Mbx) (r : MbReq), Asked s m 0x0901 r →
    (s.dp.mb.diag = none → ∃ u : State, exec (.diagAuthAcquire m) s = .next (u.answer m []) ∧ u.dp.mb.diag = some m ∧
      u.dp.mb.diagAt = s.clk.time ∧ u.sec.meas = s.sec.meas.set 7 (Config.sha384 (digestBytes (s.sec.meas.getD 7 0) ++
        digestBytes (Config.sha384 [0x01, 0x09])))) ∧
    (s.dp.mb.diag ≠ none → exec (.diagAuthAcquire m) s = .next (s.deny m msAuthority 0))) ∧
  (∀ (s : State) (m : Mbx) (r : MbReq), Asked s m 0x0902 r → s.dp.mb.diag.isSome = true →
    ∃ u : State, exec (.diagAuthRelease m) s = .next (u.answer m []) ∧ u.dp.mb.diag = none ∧
      ∀ a ∈ u.integ.arms, a.st ≠ .armed) ∧
  (∀ (s : State) (m : Mbx) (r : MbReq), Asked s m 0x0920 r →
    let t := fieldAt r.payload 0 1
    inRegion s t (fieldAt r.payload 8 8) (if t = 1 then 64 else 1) = true →
    s.integ.arms.any (fun a => a.target = t && a.st = .armed) = false →
    ∃ (u : State) (a : Arm), exec (.injectCheckbits m) s = .next (u.answer m (leBytes 4 s.integ.nextArm)) ∧
      u.integ.arms.getLast? = some a ∧ a.id = s.integ.nextArm ∧ a.st = .armed ∧ a.target = t ∧
      a.address = fieldAt r.payload 8 8 ∧ u.integ.arms.length ≤ max 16 s.integ.arms.length ∧ u.dp = s.dp) ∧
  (∀ (s : State) (m : Mbx) (r : MbReq) (a : Arm), Asked s m 0x0921 r →
    s.integ.arms.find? (fun a => a.id = fieldAt r.payload 0 4) = some a →
    exec (.injectStatus m) s = .next (s.answer m (leBytes 1 a.st.code ++ leBytes 1 a.target ++ leBytes 1 a.fired ++
      leBytes 1 0 ++ leBytes 4 a.corrected ++ leBytes 4 a.uncorrectable ++ leBytes 4 a.replays ++ leBytes 4 0))) ∧
  (∀ (s : State) (m : Mbx) (r : MbReq) (res : List CwResult), Asked s m 0x0922 r → fieldAt r.payload 1 1 = 0 →
    fieldAt r.payload 0 1 = 2 → inRegion s 2 (fieldAt r.payload 8 8) (fieldAt r.payload 4 4) = true →
    s.integ.padBad = [] →
    ∃ u : State, exec (.diagRead m res) s = .next (u.answer m (leBytes 8 0 ++
        (List.range (fieldAt r.payload 4 4)).map (fun i => Memory.read s.integ.padWin (fieldAt r.payload 8 8 + i)))) ∧
      u.integ = s.integ) ∧
  (∀ (s : State) (m : Mbx) (r : MbReq), Asked s m 0x0922 r → fieldAt r.payload 1 1 = 1 →
    fieldAt r.payload 0 1 ≠ 3 →
    inRegion s (fieldAt r.payload 0 1) (fieldAt r.payload 8 8) (fieldAt r.payload 4 4) = true →
    exec (.diagWrite m) s = .next ((writeWin (fieldAt r.payload 0 1 = 1) (fieldAt r.payload 2 1) (fieldAt r.payload 8 8)
      (bytesAt r.payload 32 (fieldAt r.payload 4 4)) s).answer m (leBytes 4 (fieldAt r.payload 4 4)))) ∧
  (∀ (s : State) (m : Mbx) (r : MbReq), Asked s m 0x0922 r → fieldAt r.payload 1 1 = 2 →
    ∃ u : State, exec (.diagErase m) s = .next (u.answer m (leBytes 4 (stripeWidth s.env s.dp))) ∧ u.integ.pages = [] ∧
      u.integ.cws = [] ∧ u.integ.dramWin = s.integ.dramWin ∧ u.integ.padWin = s.integ.padWin) ∧
  (∀ (s : State) (m : Mbx) (r : MbReq), Asked s m 0x0922 r →
    let p := portOfNum (fieldAt r.payload 2 1)
    (fieldAt r.payload 1 1 = 3 → (s.dp.link p).up = true → fieldAt r.payload 4 4 ≠ 0 →
      ∃ u : State, exec (.linkTestStart m) s = .next (u.answer m (List.replicate 16 0)) ∧
        (u.dp.link p).testLeft = some (fieldAt r.payload 4 4) ∧ (u.dp.link p).testSent = 0 ∧
        (u.dp.link p).testAt = s.clk.time) ∧
    (fieldAt r.payload 1 1 = 3 → (s.dp.link p).up = false → exec (.linkTestStart m) s = .next (s.deny m msRegion 0)) ∧
    (fieldAt r.payload 1 1 = 4 → ∃ u : State, exec (.linkTestStop m) s = .next (u.answer m
        (leBytes 8 (s.dp.link p).testSent ++ leBytes 8 (s.dp.link p).testReplays)) ∧ (u.dp.link p).testLeft = none)) ∧
  (∀ (s : State) (m : Mbx) (r : MbReq) (passed : Nat) (steps : List TrainStep), Asked s m 0x0904 r →
    let c := fieldAt r.payload 0 1
    let n := if fieldAt r.payload 1 1 = 255 then none else some (fieldAt r.payload 1 1)
    (unitFenced s.dp c n = false → exec (.mediaReturn m passed steps) s = .next (s.deny m msField 0)) ∧
    (unitFenced s.dp c n = true → s.dp.med.rows.any (fun x => x.blocks.any (onUnit c n) && rowHeld s.dp x.id) = true →
      exec (.mediaReturn m passed steps) s = .next (s.deny m msNotEmpty 0)) ∧
    (unitFenced s.dp c n = true → s.dp.med.rows.any (fun x => x.blocks.any (onUnit c n) && rowHeld s.dp x.id) = false →
      let x := returnUnit s.env c n passed steps s.dp
      exec (.mediaReturn m passed steps) s = .next (State.work (State.answer { s with dp := x.1 } m
        (leBytes 4 x.2.1 ++ leBytes 4 x.2.2))) ∧
      (trainedStep s.env s.dp 4800 steps = none → x.1 = s.dp ∧ x.2 = (0, 0)) ∧
      (∀ t, trainedStep s.env s.dp 4800 steps = some t → n = none → (x.1.chan c).fenced = false ∧
        (x.1.chan c).trained = true ∧ (x.1.chan c).rate = t.rate)))

/-- LOOP_QUERY, LOOP_OPEN, LOOP_COEFF, LOOP_CLOSE, TRACE_ARM and TRACE_READ. LOOP_QUERY answers the slot's record;
LOOP_OPEN of a CLOSED slot that is not fixed opens it with the output given clamped to its limits, and of a fixed slot
is refused with AUTHORITY_CONFLICT; LOOP_COEFF of an OPEN slot sets its coefficients, limits and period (a bound
setpoint stays); LOOP_CLOSE closes an OPEN slot; TRACE_ARM of a used slot arms the buffer under the next ARM_ID;
TRACE_READ answers the buffer's header and the samples asked for. (R407, R408, R409, R411, R413, R414, Table 12-2,
12_tidegauge_breakwater.md) -/
def Obligations.LoopAndTraceCommands : Prop :=
  (∀ (s : State) (m : Mbx) (r : MbReq), Asked s m 0x0A01 r →
    exec (.loopQuery m) s = .next (s.answer m (loopRecord (fieldAt r.payload 0 1) (s.tide.loop (fieldAt r.payload 0 1))))) ∧
  (∀ (s : State) (m : Mbx) (r : MbReq), Asked s m 0x0A02 r →
    let n := fieldAt r.payload 0 1
    let l := s.tide.loop n
    (l.st = .closed → l.fixed = false → ∃ u : State, exec (.loopOpen m) s = .next (answerLoop m n (applyOutputs u)) ∧
      (u.tide.loop n).st = .opened ∧ (fieldAt r.payload 1 1 = 1 →
        (u.tide.loop n).output = clampTo l.outMin l.outMax (signed (fieldAt r.payload 4 4)))) ∧
    (l.st = .closed → l.fixed = true → exec (.loopOpen m) s = .next (s.deny m msAuthority 0)) ∧
    (l.st = .unused → exec (.loopOpen m) s = .next (s.deny m msField 0))) ∧
  (∀ (s : State) (m : Mbx) (r : MbReq), Asked s m 0x0A03 r →
    let n := fieldAt r.payload 0 1
    let l := s.tide.loop n
    let f := fun i : Nat => signed (fieldAt r.payload (4 + 4 * i) 4)
    let period := fieldAt r.payload 32 4
    l.st = .opened → l.fixed = false → f 5 ≤ f 6 → 0 ≤ f 3 → f 3 ≤ one16 → 10 ≤ period → period ≤ 1000000 →
    ∃ u : State, exec (.loopCoeff m) s = .next (answerLoop m n u) ∧ (u.tide.loop n).kp = f 0 ∧ (u.tide.loop n).ki = f 1 ∧
      (u.tide.loop n).kd = f 2 ∧ (u.tide.loop n).outMin = f 5 ∧ (u.tide.loop n).outMax = f 6 ∧
      (u.tide.loop n).periodUs = period ∧ (u.tide.loop n).setpoint = if bound n then l.setpoint else f 4) ∧
  (∀ (s : State) (m : Mbx) (r : MbReq), Asked s m 0x0A04 r →
    let n := fieldAt r.payload 0 1
    ((s.tide.loop n).st = .opened → exec (.loopClose m) s = .next (answerLoop m n (closeLoop n s)) ∧
      ((closeLoop n s).tide.loop n).st = .closed) ∧
    ((s.tide.loop n).st ≠ .opened → exec (.loopClose m) s = .next (s.deny m msField 0))) ∧
  (∀ (s : State) (m : Mbx) (r : MbReq), Asked s m 0x0A10 r → (s.tide.loop (fieldAt r.payload 1 1)).st ≠ .unused →
    ∃ u : State, exec (.traceArm m) s = .next (u.answer m (leBytes 4 s.tide.nextArm)) ∧
      u.tide.nextArm = (s.tide.nextArm + 1) % 2 ^ 32 ∧ ∃ t, u.tide.traces.find (fieldAt r.payload 0 1) = some t ∧
        t.armId = s.tide.nextArm ∧ t.slot = fieldAt r.payload 1 1 ∧ t.samples = [] ∧
        t.st = (if fieldAt r.payload 2 1 = 0 then .filling else .armed)) ∧
  (∀ (s : State) (m : Mbx) (r : MbReq), Asked s m 0x0A11 r →
    let t := s.tide.traces.get Trace.reset (fieldAt r.payload 0 1)
    exec (.traceRead m) s = .next (s.answer m (leBytes 8 (t.samples.head?.elim 0 Sample.time) ++ leBytes 2 t.samples.length ++
      leBytes 2 t.trigAt ++ leBytes 1 t.st.code ++ leBytes 1 t.slot ++ leBytes 2 0 ++
      ((t.samples.drop (fieldAt r.payload 2 2)).take (fieldAt r.payload 4 2)).flatMap sampleBytes)))

/-- The boot-status block, MCTP control, vendor messages and the timers of leases, activations and the management
port. From POR + 1 ms BOOT_STATUS_READ answers a byte count of 32 and the block, and 0xA5 written in Ebb notes a wake
event once; before that both are answered with NAK. Once firmware runs every MCTP control command is answered by its
code (the endpoint ID set is the one held, but 0 and 0xFF are refused), a vendor message of this vendor that carries a
request header starts it on the management port where none runs and is answered BUSY where one does, and every message
counts as heard; before firmware runs it is answered with NAK. A lease whose term has ended is free at the registry
pool's steward, an activation half lapses after 60 s, the management port is absent after 300 s. The bodies of MCTP
control responses are the standard's (log entry 9). (R394, R398, R400, R530, Table 16-2, notes/assumptions/9.md) -/
def Obligations.SidebandAndMctp : Prop :=
  (∀ s : State, smbusUp s = true →
    exec .bootStatusRead s = .next (s.out (.smbus (leBytes 1 32 ++ leBytes 32 (bootBlock s)))) ∧
    (s.pwr.state = .ebb → ∃ t : State, exec (.bootStatusWakeWrite 0xA5) s = .next t ∧
      EbbWake.wakeByte ∈ t.pwr.wakes ∧ t.dp = s.dp ∧ t.clk = s.clk) ∧
    (∀ v : Byte, v ≠ 0xA5 → exec (.bootStatusWakeWrite v) s = .next s)) ∧
  (∀ s : State, smbusUp s = false → exec .bootStatusRead s = .next (s.out .smbusNak) ∧
    ∀ v : Byte, exec (.bootStatusWakeWrite v) s = .next (s.out .smbusNak)) ∧
  (∀ s : State, mctpUp s = true →
    let h := heardMgmt s
    h.dp.mb.mgmtAt = some s.clk.time ∧
    (∀ eid : Byte, eid ≠ 0 → eid ≠ 0xFF → ∃ t : State, exec (.setEndpointId eid) s = .next t ∧ t.dp.mb.eid = eid ∧
      t.dp.io.out = s.dp.io.out ++ [.mctp [0, 1, 0, 0, eid, 0]]) ∧
    exec (.setEndpointId 0) s = .next (control 1 2 [] h) ∧
    exec .getEndpointId s = .next (control 2 0 [s.dp.mb.eid, 0, 0] h) ∧
    exec .getEndpointUuid s = .next (control 3 0 (leBytes 16 (Config.endpointUuid s.boot.serial).toNat) h) ∧
    (∀ v : Byte, v ∈ [0xFF, 0, 0x05, 0x7E] → exec (.getMctpVersionSupport v) s =
      .next (control 4 0 (1 :: leBytes 4 (Config.mctpVersion v.toNat).toNat) h)) ∧
    exec .getMessageTypeSupport s = .next (control 5 0 [2, 0x05, 0x7E] h) ∧
    exec (.getVendorDefinedMessageSupport 0) s = .next (control 6 0 [0xFF, 0, 0x1F, 0x8B, 0, 0] h) ∧
    (∀ b : List Byte, 16 ≤ b.length → (s.dp.mail .mgmt).busy = false →
      exec (.mctpVendorMessage 0x1F8B b) s = .next (startRequest .mgmt (messageRequest b) h)) ∧
    (∀ b : List Byte, 16 ≤ b.length → (s.dp.mail .mgmt).busy = true →
      exec (.mctpVendorMessage 0x1F8B b) s = .next (h.out
        (.mctp (leBytes 2 0x1F8B ++ responseBytes (messageRequest b) msBusy 0 []))))) ∧
  (∀ s : State, mctpUp s = false → exec .getEndpointId s = .next (s.out .smbusNak) ∧
    ∀ (v : BitVec 16) (b : List Byte), exec (.mctpVendorMessage v b) s = .next (s.out .smbusNak)) ∧
  (∀ (s : State) (n : Nat), isSteward s.dp 0 = true → ∃ t : State, exec (.leaseTermExpiry n) s = .next t ∧
    (∀ l : Lease, l ∈ t.dp.sh.reg.leases ↔ (l ∈ s.dp.sh.reg.leases ∧ ¬(l.handle = n ∧ l.ends ≤ s.clk.time))) ∧
    t.dp.sh.reg.pools = s.dp.sh.reg.pools ∧ t.dp.sh.reg.members = s.dp.sh.reg.members) ∧
  (∀ s : State, s.dp.mb.half.any (fun h => h.since + 60000000000 ≤ s.clk.time) = true →
    ∃ t : State, exec .fwActivateLapse s = .next t ∧ t.dp.mb.half = none ∧ t.dp.mb.boxes = s.dp.mb.boxes) ∧
  (∀ s : State, s.dp.mb.mgmtAt.any (fun a => a + 300000000000 ≤ s.clk.time) = true →
    ∃ t : State, exec .mgmtPortAbsence s = .next t ∧ t.dp.mb.mgmtAt = none ∧ t.dp.mb.boxes = s.dp.mb.boxes)

/-- SPDM over DOE and MCTP. On a DOE port whose link is up, after measured start and no failed self-test: GET_VERSION
answers and starts the connection again; GET_CAPABILITIES under 1.2 or 1.3 negotiates the version;
NEGOTIATE_ALGORITHMS of ECDSA P-384 with SHA-384 agrees on algorithms and any other choice is an error; then
GET_DIGESTS, GET_CERTIFICATE of slot 0 and GET_MEASUREMENTS answer (a measurement block is its index and the
register's digest), CHALLENGE of slot 0 answers under a fresh nonce, and before it each is an error that changes no
connection. DOE_REQUEST is answered as the request it carries; before measured start ends it is answered Busy, and
after a failed self-test with the ROM's error. Fields the spec does not give are the standard's (log entry 9). (R443,
R445, R447, R526, Table 13-6, Table 13-8, notes/assumptions/9.md) -/
def Obligations.SpdmRequestsAnswered : Prop :=
  (∀ (s : State) (p : PortId), (s.dp.port p).linkUp = true → saggarStopped s = false → s.boot.spdm = true →
    let t : Transport := .doe p
    let x := s.spdm t
    (∃ u : State, exec (.getVersion t) s = .next u ∧ u.spdm t = SpdmSt.reset) ∧
    (∀ v : Nat, v ∈ [0x12, 0x13] → ∃ u : State, exec (.getCapabilities t v) s = .next u ∧
      u.spdm t = { SpdmSt.reset with version := some v, caps := true }) ∧
    (∀ v : Nat, x.caps = true → x.version = some v →
      (∃ u : State, exec (.negotiateAlgorithms t v true true) s = .next u ∧ u.spdm t = { x with algs := true }) ∧
      exec (.negotiateAlgorithms t v false true) s = .next (spdmFail t 1 s)) ∧
    (∀ v : Nat, x.algs = true → x.version = some v →
      exec (.getDigests t v) s = .next (spdmReply t 0x01 v (1 :: digestBytes (Config.sha384 (chain s))) s) ∧
      exec (.doeRequest p v .getDigests) s =
        .next (spdmReply t 0x01 v (1 :: digestBytes (Config.sha384 (chain s))) s) ∧
      (∀ off len : Nat, let part := ((chain s).drop off).take len
        exec (.getCertificate t v 0 off len) s = .next (spdmReply t 0x02 v
          (leBytes 2 part.length ++ leBytes 2 ((chain s).length - off - part.length) ++ part) s)) ∧
      (∀ (i : Nat) (n : BitVec 256), 1 ≤ i → i ≤ 8 → exec (.getMeasurements t v i false n) s =
        .next (spdmReply t 0x60 v (leBytes 1 i ++ digestBytes (s.sec.meas.getD (i - 1) 0)) s)) ∧
      (∀ n : BitVec 256, ∃ b : List Byte, exec (.challenge t v 0 n) s = .next (spdmReply t 0x03 v b (drbg 32 s).2) ∧
        b.take 80 = digestBytes (Config.sha384 (chain s)) ++ (drbg 32 s).1)) ∧
    (∀ v : Nat, x.algs = false → exec (.getDigests t v) s = .next (spdmFail t 4 s) ∧
      exec (.challenge t v 0 0) s = .next (spdmFail t 4 s)) ∧
    (∀ (v i : Nat) (b : Bool) (n : BitVec 256), exec (.doeRequest p v (.getMeasurements i b n)) s =
      exec (.getMeasurements t v i b n) s) ∧
    (∀ v : Nat, exec (.doeRequest p v .getVersion) s = exec (.getVersion t) s)) ∧
  (∀ (s : State) (p : PortId) (v : Nat) (r : SpdmReq), (s.dp.port p).linkUp = true → saggarStopped s = false →
    s.boot.spdm = false → exec (.doeRequest p v r) s = .next (s.out (.doeBusy p))) ∧
  (∀ (s : State) (p : PortId) (v : Nat) (r : SpdmReq), (s.dp.port p).linkUp = true → saggarStopped s = true →
    exec (.doeRequest p v r) s = .next (s.out (.spdmError (.doe p) spVendor (leBytes 2 0x1F8B ++ leBytes 1 s.boot.code))))

/-- A frame that arrives in order is delivered once; duplicates, gaps, wrong classes and frames before READY are not.
For a frame for this device from another rank, with the ring open, that came good over its link, with a good CRC, the
session known of its sender, the class of its type, and READY where its class is 1 to 4: with PAIR_SEQ equal to the
next expected and nothing held, it is delivered alone and the next PAIR_SEQ is expected; with a PAIR_SEQ below it,
modulo 2^32, nothing is delivered; with one above it within 256, nothing is delivered and the frame is held once with
the gap noted; 256 or more above, nothing is delivered. A frame whose class is not its type's, or with another
session, bad on its link, with a bad CRC, or of class 1 to 4 before READY, delivers nothing. A frame that is not for
this device changes nothing. A frame that arrives in order leaves everything but the ring as it was before it acts. A
frame of the device itself is delivered as it is. E2E_ACK frees the acknowledged frames of its class and E2E_NAK has
the frames from the missing one sent again. (R275, R276, R279, R280, R281, R283, R529, 08_causeway_ring.md) -/
def Obligations.FramesArriveInOrderOnce : Prop :=
  (∀ (e : Env) (t : FrameType) (bulk : Nat) (f : Frame) (b : FrameBody) (d : Dp),
    let r := f.src.val
    let c := f.cls
    let x := arrive e t bulk f b d
    f.dst.val = e.rank → r ≠ e.rank → ringOpen e d = true →
    (c = t.cls bulk → f.linkOk = true → f.crcOk = true → (c = 0 ∨ e.ready = true) → f.session = (d.peer r).session.toNat % 256 →
      t.paired = true →
      (f.pairSeq = (d.pair r c).rxNext → (d.pair r c).held = [] →
        x.2 = [(t, f, b)] ∧ (x.1.pair r c).rxNext = f.pairSeq + 1 ∧ (x.1.pair r c).held = []) ∧
      (2 ^ 31 ≤ ahead f.pairSeq (d.pair r c).rxNext → x.2 = [] ∧ (x.1.pair r c).rxNext = (d.pair r c).rxNext) ∧
      (0 < ahead f.pairSeq (d.pair r c).rxNext → ahead f.pairSeq (d.pair r c).rxNext < 256 →
        x.2 = [] ∧ (x.1.pair r c).rxNext = (d.pair r c).rxNext ∧ (x.1.pair r c).gapAt ≠ none ∧
        ∃ y ∈ (x.1.pair r c).held, y.2.1.pairSeq = f.pairSeq) ∧
      (256 ≤ ahead f.pairSeq (d.pair r c).rxNext → x.2 = [] ∧ (x.1.pair r c).rxNext = (d.pair r c).rxNext)) ∧
    (c ≠ t.cls bulk ∨ f.linkOk = false ∨ f.crcOk = false ∨ (1 ≤ c ∧ e.ready = false) ∨
      f.session ≠ (d.peer r).session.toNat % 256 → x.2 = [] ∧ x.1.ring.pairs = d.ring.pairs) ∧
    (f.linkOk = false → x = (rxBad e.now f.port d, []))) ∧
  (∀ (e : Env) (t : FrameType) (bulk : Nat) (f : Frame) (b : FrameBody) (d : Dp), f.dst.val ≠ e.rank →
    arrive e t bulk f b d = (d, [])) ∧
  (∀ (e : Env) (t : FrameType) (bulk : Nat) (f : Frame) (b : FrameBody) (d : Dp), f.dst.val = e.rank →
    f.src.val = e.rank → ringOpen e d = true → arrive e t bulk f b d = (d, [(t, f, b)])) ∧
  (∀ (s : State) (f : Frame) (d : Dp), Reaches .e2eAck 3 f .none s d →
    ∃ u : State, exec (.e2eAck f) s = .next u.work ∧ ∀ x ∈ (u.dp.pair f.src.val (f.arg % 8)).unacked,
      ahead x.2.1.pairSeq f.pairAck < 2 ^ 31) ∧
  (∀ (s : State) (f : Frame) (d : Dp), Reaches .e2eNak 3 f .none s d →
    exec (.e2eNak f) s = .next (s.onDp (fun e _ => resend e f.src.val (f.arg / 2 ^ 32 % 8) (f.arg % 2 ^ 32) d))) ∧
  (∀ (s : State) (t : FrameType) (bulk : Nat) (f : Frame) (b : FrameBody), InOrder s t bulk f → t.paired = true →
    ∃ d : Dp, Reaches t bulk f b s d ∧ d.sh = s.dp.sh ∧ d.vq = s.dp.vq ∧ d.map = s.dp.map ∧ d.med = s.dp.med ∧
      d.bw = s.dp.bw ∧ d.mb = s.dp.mb ∧ d.lane = s.dp.lane ∧ d.hp = s.dp.hp ∧ d.ring.peers = s.dp.ring.peers ∧
      (d.pair f.src.val f.cls).rxNext = f.pairSeq + 1) ∧
  (∀ (s : State) (f : Frame), f.dst.val = s.env.rank → f.src.val ≠ s.env.rank → ringOpen s.env s.dp = true →
    f.linkOk = true → f.crcOk = true → f.cls = 2 → s.boot.ready = true → f.session = (s.dp.peer f.src.val).session.toNat % 256 →
    (∃ u : State, exec (.e2eAck f) s = .next u.work ∧
      (u.dp.pair f.src.val (f.arg % 8)).unacked =
        (s.dp.pair f.src.val (f.arg % 8)).unacked.filter (fun x => ahead x.2.1.pairSeq f.pairAck < 2 ^ 31)) ∧
    (∀ (p : CwPort) (n : Nat), firstHop s.env (rxOn f.port s.dp) s.env.rank f.src.val = some (p, n) →
      ∃ t : State, exec (.e2eNak f) s = .next t ∧ (t.dp.pair f.src.val (f.arg / 2 ^ 32 % 8)).txAt = s.clk.time))

/-- HEARTBEAT, CLAIM, its acknowledgement, FENCED, RELINQUISH, HANDOVER, RING_EXIT and member-state records. Each of
these frames, delivered, answers a next state; one of another device that arrives in order is delivered, and what it
does is told of the state it arrives in. A heartbeat makes its sender heard and not silent, at the time it arrives,
with the flags it carries. A claim of a pool that has admitted the device, formed by its sender and not below the
Seawall entry, raises the entry and is acknowledged; one below the entry is refused: the entry keeps its claim, the
refusal is counted and FENCED goes to the sender. A valid FENCED raises the entry. RELINQUISH of the pool's steward is
remembered; of any other rank it has no effect. RING_EXIT takes the device that ARG names out of the ring. A HANDOVER
by the steward that names this device under the next epoch has it publish that claim. A member-state record of the
pool's steward, under a claim not below the entry, changes the view. An acknowledgement of a claim counts. (R232,
R233, R240, R243, R245, R249, R251, R252, R286, R580, 07_stewards_claims_seawall.md, 08_causeway_ring.md) -/
def Obligations.AuthorityFrames : Prop :=
  (∀ (s : State) (f : Frame) (boot : Word) (session : BitVec 32) (flags : Byte) (l : List RoleEntry) (d : Dp),
    let k := s.onDp (fun e d =>
      if ringOpen e d && f.crcOk && f.linkOk && f.cls = 0 && f.dst.val = e.rank && f.src.val != e.rank then
        noteSession e f.src.val session boot d
      else d)
    Reaches .heartbeat 3 f (.roles boot session flags l) k d →
    exec (.heartbeat f boot session flags l) s =
      .next (k.onDp (fun e _ => onHeartbeat e f boot session flags l d)).work) ∧
  (∀ (e : Env) (f : Frame) (boot : Word) (session : BitVec 32) (flags : Byte) (d : Dp),
    let u := onHeartbeat e f boot session flags [] d
    (u.peer f.src.val).heard = true ∧ (u.peer f.src.val).silent = false ∧ (u.peer f.src.val).lastHb = e.now ∧
    (u.peer f.src.val).flags = flags ∧ u.sh.sea = d.sh.sea) ∧
  (∀ (s : State) (f : Frame) (d : Dp), Reaches .claim 3 f .none s d → admitted d f.pool = true →
    claimValid f.claim = true → rankOf f.claim = f.src.val → f.pool ≠ drillHandle →
    (d.claimOf f.pool ≤ f.claim → exec (.claim f) s = .next (s.onDp (fun e _ =>
      let u := hearSteward f.pool f.claim (raise e f.pool f.claim 2 d)
      send e .control 3 { header e u f.src.val f.pool with arg := f.claim.toNat } .claimAck u)).work) ∧
    (f.claim < d.claimOf f.pool → exec (.claim f) s = .next (s.onDp (fun e _ =>
      sendFenced e f.pool f.src.val (refusal f.pool d))).work)) ∧
  (∀ (s : State) (f : Frame) (d : Dp), Reaches .claim 3 f .none s d → admitted d f.pool = false →
    exec (.claim f) s = .next (s.onDp (fun _ _ => hearSteward f.pool f.claim d)).work) ∧
  (∀ (d : Dp) (pool : Nat), (refusal pool d).claimOf pool = d.claimOf pool ∧
    ((refusal pool d).sea pool).refusals = min 0xFFFF ((d.sea pool).refusals + 1)) ∧
  (∀ (s : State) (f : Frame) (d : Dp), Reaches .fenced 3 f .none s d → claimValid f.claim = true →
    f.pool ≠ drillHandle → exec (.fenced f) s = .next (s.onDp (fun e _ =>
      let u := raise e f.pool f.claim 2 d
      (u.sh.htickets.filter (fun t => t.pool = f.pool && t.stage = .sent && t.claim < f.claim)).foldl
        (fun d t => waitAgain t.id d) u)).work) ∧
  (∀ (s : State) (f : Frame) (d : Dp), Reaches .relinquish 3 f .none s d → admitted d f.pool = true →
    (stewardRank d f.pool = some f.src.val →
      ∃ u : State, exec (.relinquish f) s = .next u.work ∧ f.pool ∈ u.dp.sh.relinquished ∧
        u.dp.sh.sea = d.sh.sea ∧ u.dp.sh.roles = d.sh.roles) ∧
    (stewardRank d f.pool ≠ some f.src.val → exec (.relinquish f) s = .next (State.work { s with dp := d }))) ∧
  (∀ (s : State) (f : Frame) (d : Dp), Reaches .handover 3 f .none s d → admitted d f.pool = true →
    stewardRank d f.pool = some f.src.val → rankOf f.claim = s.env.rank →
    epochOf f.claim = epochOf (d.claimOf f.pool) + 1 →
    exec (.handover f) s = .next (s.onDp (fun e _ => publish e f.pool f.claim (some f.src.val) d)).work) ∧
  (∀ (s : State) (f : Frame) (d : Dp), Reaches .ringExit 3 f .none s d →
    exec (.ringExit f) s = .next (s.onDp (fun e _ => takeOut e (f.arg % 16) d)).work) ∧
  (∀ (s : State) (f : Frame) (d : Dp), Reaches .control 3 f .claimAck s d →
    exec (.claimAcknowledgement f) s =
      .next (s.stayAwake.onDp (fun e _ => claimAck e f.pool f.src.val (BitVec.ofNat 32 f.arg) d)).work) ∧
  (∀ (s : State) (f : Frame) (v : ViewRec) (d : Dp), Reaches .control 3 f (.view v) s d →
    (admitted d f.pool = true → isSteward d f.pool = false → d.claimOf f.pool ≤ f.claim → rankOf f.claim = f.src.val →
      ∀ (r : Nat) (m : MemberState), v = .member r m →
      exec (.memberStateRecord f v) s = .next (s.stayAwake.onDp (fun e _ => takeView e f.pool v d)).work) ∧
    (admitted d f.pool = false → exec (.memberStateRecord f v) s = .next (State.work { s.stayAwake with dp := d }))) ∧
  (∀ (s : State) (f : Frame) (boot : Word) (session : BitVec 32) (flags : Byte) (l : List RoleEntry),
    InOrder s .heartbeat 3 f → (s.dp.peer f.src.val).session = session → (s.dp.peer f.src.val).boot = boot →
    ∃ u : State, exec (.heartbeat f boot session flags l) s = .next u.work ∧ (u.dp.peer f.src.val).heard = true ∧
      (u.dp.peer f.src.val).silent = false ∧ (u.dp.peer f.src.val).lastHb = s.clk.time ∧
      (u.dp.peer f.src.val).flags = flags ∧ (u.dp.peer f.src.val).roles = l) ∧
  (∀ (s : State) (f : Frame), Accepts s f →
    (InOrder s .claim 3 f → ∃ u : State, exec (.claim f) s = .next u.work ∧ u.dp.claimOf f.pool = f.claim) ∧
    (InOrder s .fenced 3 f → ∃ u : State, exec (.fenced f) s = .next u.work ∧ u.dp.claimOf f.pool = f.claim)) ∧
  (∀ (s : State) (f : Frame), InOrder s .claim 3 f → admitted s.dp f.pool = true → claimValid f.claim = true →
    rankOf f.claim = f.src.val → f.claim < s.dp.claimOf f.pool →
    ∃ u : State, exec (.claim f) s = .next u.work ∧ u.dp.claimOf f.pool = s.dp.claimOf f.pool ∧
      (u.dp.sea f.pool).refusals = min 0xFFFF ((s.dp.sea f.pool).refusals + 1)) ∧
  (∀ (s : State) (f : Frame), admitted s.dp f.pool = true → stewardRank s.dp f.pool = some f.src.val →
    (InOrder s .relinquish 3 f → ∃ u : State, exec (.relinquish f) s = .next u.work ∧
      f.pool ∈ u.dp.sh.relinquished) ∧
    (InOrder s .handover 3 f → rankOf f.claim = s.env.rank →
      epochOf f.claim = epochOf (s.dp.claimOf f.pool) + 1 → s.dp.lane.usable = true →
      ∃ u : State, exec (.handover f) s = .next u.work ∧ laneFrame f.pool f.claim ∈ u.dp.lane.tx ∧
        (u.dp.roleD f.pool).contest = some { claim := f.claim, acks := 2 ^ s.env.rank, lane := true,
                                             giver := some f.src.val })) ∧
  (∀ (s : State) (f : Frame), InOrder s .ringExit 3 f → f.arg % 16 ≠ s.env.rank →
    ∃ u : State, exec (.ringExit f) s = .next u.work ∧ (u.dp.peer (f.arg % 16)).out = true) ∧
  (∀ (s : State) (f : Frame) (k : Contest), InOrder s .control 3 f → (s.dp.roleD f.pool).contest = some k →
    k.claim = BitVec.ofNat 32 f.arg → k.lane = false →
    let acks := k.acks ||| 2 ^ f.src.val
    2 * (maskList 16 acks).length ≤ (memberRanks s.dp.sh.reg).length →
    ∃ u : State, exec (.claimAcknowledgement f) s = .next u.work ∧
      (u.dp.roleD f.pool).contest = some { k with acks := acks }) ∧
  (∀ (s : State) (f : Frame) (r : Nat) (m : MemberState), InOrder s .control 3 f → Accepts s f →
    isSteward s.dp f.pool = false →
    ∃ u : State, exec (.memberStateRecord f (.member r m)) s = .next u.work ∧ memberState u.dp f.pool r = m)

/-- Tickets, notices, mirror groups and resolution: what each frame does at its receiver. Each of these frames,
delivered in a pool that has admitted the device (those of Table 7-5 under a claim that the Seawall accepts), answers
a next state; one of another device that arrives in order is delivered, and what it does is told of the state it
arrives in. The steward opens a ticket for a request while it grants, and holds the request while grants are stopped.
A grant reaches the head's ticket; a COMMIT notice commits the pending mappings of its ticket (of a WRITE_ATOMIC
group, once all of its notices are there) and remembers the notice; a DROP notice discards them; a standby keeps a
mirrored group and acknowledges it; a steward's oldest group sent becomes durable by its standby's acknowledgement
under its own claim; a member answers RESOLVE with the pending sherds and notices it holds; a reply that is still
awaited is gathered, and the last one finishes the resolution; SHERD_DONE marks its sender done. (R53, R200, R201,
R202, R205, R209, R226, R249, R252, R254, Table 6-2, 06_shoal_redundancy.md) -/
def Obligations.TicketAndJournalFrames : Prop :=
  (∀ (s : State) (f : Frame) (m g k n c : Nat) (d : Dp) (x : PRole),
    Reaches .ticketRequest 3 f (.ticket m g k n c) s d → d.role f.pool = some x → x.role = .steward →
    (x.stopped = false → windowHolds d f m = false → exec (.ticketRequest f m g k n c) s =
      .next (s.stayAwake.onDp (fun e _ => openTicket e f m g k n c d)).work) ∧
    (x.stopped = true → ∃ u : State, exec (.ticketRequest f m g k n c) s = .next u.work ∧
      u.dp.sh.stickets = d.sh.stickets ∧ (f, FrameBody.ticket m g k n c) ∈ (u.dp.roleD f.pool).held)) ∧
  (∀ (s : State) (f : Frame) (d : Dp), admitted d f.pool = true → claimValid f.claim = true →
    rankOf f.claim = f.src.val → d.claimOf f.pool ≤ f.claim →
    let u (e : Env) : Dp := raise e f.pool f.claim 2 d
    (Reaches .ticketGrant 3 f .none s d → exec (.ticketGrant f) s =
      .next (s.stayAwake.onDp (fun e _ => onTicketGrant e f (u e))).work) ∧
    (Reaches .commitNotice 3 f (.registry none) s d → exec (.commitNotice f none) s =
      .next (s.stayAwake.onDp (fun e _ =>
        let v := commitHead f.pool f.seqn (commitGreens e f.pool f.seqn (u e))
        if f.arg = 1 then readAfresh f.pool f.row v else v)).work) ∧
    (∀ g, Reaches .commitNotice 3 f (.registry (some g)) s d → isSteward (u s.env) 0 = false →
      exec (.commitNotice f (some g)) s = .next (s.stayAwake.onDp (fun e _ => takeRegistry e g (u e))).work) ∧
    (Reaches .dropNotice 3 f .none s d → exec (.dropNotice f) s =
      .next (s.stayAwake.onDp (fun e _ => dropHead e f.pool f.seqn (dropGreens e f.pool f.seqn (u e)))).work) ∧
    (Reaches .resolve 3 f .none s d → f.pool ≠ drillHandle → exec (.resolve f) s =
      .next (s.stayAwake.onDp (fun e _ =>
        send e .resolveReply 3 { header e (u e) f.src.val f.pool with claim := f.claim }
          (.resolve (pendingItems (u e) f.pool) (heldCommits (u e) f.pool)) (u e))).work) ∧
    (∀ l, Reaches .mirrorGroup 3 f (.records l) s d → f.arg = mgGroup → isStandby (u s.env) f.pool = true →
      exec (.mirrorGroup f l) s = .next (s.stayAwake.onDp (fun e _ =>
        let x := (u e).roleD f.pool
        let v := (u e).setRole { x with journal := keepJournal (x.journal ++ l), tail := x.tail ++ l }
        send e .mirrorAck 3 { header e v f.src.val f.pool with claim := f.claim, arg := f.arg } .none v)).work)) ∧
  (∀ (s : State) (f : Frame) (d : Dp), f.claim < d.claimOf f.pool → admitted d f.pool = true →
    claimValid f.claim = true → rankOf f.claim = f.src.val → Reaches .ticketGrant 3 f .none s d →
    exec (.ticketGrant f) s =
      .next (s.stayAwake.onDp (fun e _ => sendFenced e f.pool f.src.val (refusal f.pool d))).work) ∧
  (∀ (s : State) (f : Frame) (d : Dp) (x : PRole) (g : List JRec) (t : List (List JRec)),
    Reaches .mirrorAck 3 f .none s d → d.role f.pool = some x → x.role = .steward → f.claim = x.claim →
    f.arg ≠ mgAppoint → x.sent = g :: t →
    exec (.mirrorAck f) s =
      .next (s.stayAwake.onDp (fun e _ => durableGroup e f.pool g (d.setRole { x with sent := t }))).work) ∧
  (∀ (s : State) (f : Frame) (items : List ResolveItem) (c : List Nat) (d : Dp) (v : Resolving),
    Reaches .resolveReply 3 f (.resolve items c) s d → f.pool ≠ drillHandle →
    (d.roleD f.pool).resolving = some v → v.waiting.testBit f.src.val = true →
    let w : Resolving := { v with
      waiting := v.waiting - 2 ^ f.src.val, items := v.items ++ items.map (fun i => (f.src.val, i))
      commits := (v.commits ++ c).eraseDups }
    let u := d.setRole { d.roleD f.pool with resolving := some w }
    exec (.resolveReply f items c) s = .next (s.stayAwake.onDp (fun e _ =>
      if v.waiting = 2 ^ f.src.val then finishResolve e f.pool u else u)).work) ∧
  (∀ (s : State) (f : Frame) (d : Dp), Reaches .sherdDone 3 f .none s d →
    exec (.sherdDone f) s = .next (s.stayAwake.onDp (fun _ _ =>
      d.onSticket f.pool f.seqn (fun t => { t with done := t.done ||| 2 ^ f.src.val }))).work) ∧
  (∀ (s : State) (f : Frame) (m g k n c : Nat) (x : PRole) (p : PoolRec), InOrder s .ticketRequest 3 f →
    s.dp.role f.pool = some x → x.role = .steward → x.stopped = false → s.dp.sh.reg.pool f.pool = some p →
    p.reshape = none → ∃ (u : State) (t : STicket), exec (.ticketRequest f m g k n c) s = .next u.work ∧
      t ∈ u.dp.sh.stickets ∧ t.pool = f.pool ∧ t.seqn = x.nextSeq ∧ t.row = f.row ∧ t.posFirst = f.posFirst ∧
      t.posLast = f.posLast ∧ t.dataMask = m ∧ t.flags = g ∧ t.cover = c ∧ t.head = f.src.val ∧ t.granted = false ∧
      (u.dp.roleD f.pool).nextSeq = x.nextSeq + 1) ∧
  (∀ (s : State) (f : Frame), Accepts s f →
    (InOrder s .ticketGrant 3 f → ∀ t : HTicket, s.dp.sh.htickets.find? (fun t =>
        t.id % 2 ^ 32 = f.arg % 2 ^ 32 && t.pool = f.pool) = some t → s.dp.hticket t.id = some t → t.stage = .requested →
      ∃ (u : State) (z : HTicket), exec (.ticketGrant f) s = .next u.work ∧ u.dp.hticket t.id = some z ∧
        z.stage = .granted ∧ z.seqn = f.seqn ∧ z.claim = f.claim ∧ z.group = f.arg / 2 ^ 32) ∧
    (InOrder s .commitNotice 3 f → s.dp.map.green.any (fun g =>
        g.pool = f.pool && g.seqn = f.seqn && hasFlag g.flags fGrouped) = false →
      ∃ u : State, exec (.commitNotice f none) s = .next u.work ∧ (f.pool, f.seqn) ∈ u.dp.map.commits ∧
        ∀ g ∈ u.dp.map.green, g.pool = f.pool → g.seqn = f.seqn → g.committed = true) ∧
    (InOrder s .dropNotice 3 f → ∃ u : State, exec (.dropNotice f) s = .next u.work ∧
      ∀ g ∈ u.dp.map.green, g.pool = f.pool → g.seqn = f.seqn → g.committed = true) ∧
    (∀ l, InOrder s .mirrorGroup 3 f → f.arg = mgGroup → f.claim = s.dp.claimOf f.pool →
      isStandby s.dp f.pool = true → ∃ u : State, exec (.mirrorGroup f l) s = .next u.work ∧
        (u.dp.roleD f.pool).tail = (s.dp.roleD f.pool).tail ++ l ∧
        (u.dp.roleD f.pool).journal = keepJournal ((s.dp.roleD f.pool).journal ++ l)) ∧
    (InOrder s .resolve 3 f → ∃ (u : State) (d : Dp), exec (.resolve f) s = .next u.work ∧
      u.dp = send s.stayAwake.env .resolveReply 3 { header s.stayAwake.env d f.src.val f.pool with claim := f.claim }
        (.resolve (pendingItems s.dp f.pool) (heldCommits s.dp f.pool)) d ∧ d.map = s.dp.map ∧
      d.claimOf f.pool = f.claim)) ∧
  (∀ (s : State) (f : Frame) (x : PRole) (g : List JRec) (t : List (List JRec)), InOrder s .mirrorAck 3 f →
    s.dp.role f.pool = some x → x.role = .steward → f.claim = x.claim → f.arg ≠ mgAppoint → x.sent = g :: t →
    (∀ r ∈ g, r.type = .intent) →
    ∃ u : State, exec (.mirrorAck f) s = .next u.work ∧ (u.dp.roleD f.pool).sent = t ∧
      (u.dp.roleD f.pool).tail = x.tail ++ g) ∧
  (∀ (s : State) (f : Frame) (items : List ResolveItem) (c : List Nat) (v : Resolving), InOrder s .resolveReply 3 f →
    f.pool ≠ drillHandle → (s.dp.roleD f.pool).resolving = some v → v.waiting.testBit f.src.val = true →
    v.waiting ≠ 2 ^ f.src.val → ∃ (u : State) (w : Resolving), exec (.resolveReply f items c) s = .next u.work ∧
      (u.dp.roleD f.pool).resolving = some w ∧ w.waiting = v.waiting - 2 ^ f.src.val ∧
      w.items = v.items ++ items.map (fun i => (f.src.val, i))) ∧
  (∀ (s : State) (f : Frame) (t : STicket), InOrder s .sherdDone 3 f → s.dp.sticket f.pool f.seqn = some t →
    ∃ u : State, exec (.sherdDone f) s = .next u.work ∧
      u.dp.sticket f.pool f.seqn = some { t with done := t.done ||| 2 ^ f.src.val })

/-- Sherds, reads, JOIN and the messages of CONTROL frames. Each of these frames, delivered, answers a next state; one
of another device that arrives in order is delivered, and what it does is told of the state it arrives in. A sherd
under an accepted claim reaches the member, and one of class 3 from another device that would raise its greenware
above the limit is dropped before it is delivered; SHERD_REFUSED reaches the head; a read request is queued for the
holder's own store or fails; READ_DATA and READ_FAIL settle the head's outstanding read, and a reply that answers none
has no effect; a JOIN waits for its steward and replaces an older one of its rank; an accepted JOIN_ADMIT has the
device take part in the pool; demands, requests, grants and rates of an admission round, orders, secure-discard
reports and rebases act by their payload; an anchor request has the next anchor asked for. (R165, R167, R249, R252,
R290, R395, R417, R418, R579, R580, Table 12-5, 08_causeway_ring.md) -/
def Obligations.DataJoinAndControlFrames : Prop :=
  (∀ (s : State) (f : Frame) (b : Blk), overLimit s.dp s.env.rank f = true → exec (.sherdData f b) s = .next s) ∧
  (∀ (s : State) (f : Frame) (b : Blk) (d : Dp), overLimit s.dp s.env.rank f = false →
    Reaches .sherdData (bulkClass f) f (.blk b) s d → admitted d f.pool = true → claimValid f.claim = true →
    d.claimOf f.pool ≤ f.claim → f.pool ≠ drillHandle →
    exec (.sherdData f b) s = .next (s.stayAwake.onDp (fun e _ => takeSherd e f b (raise e f.pool f.claim 2 d))).work) ∧
  (∀ (s : State) (f : Frame) (d : Dp), Reaches .sherdRefused 3 f .none s d →
    exec (.sherdRefused f) s = .next (s.stayAwake.onDp (fun e _ => onRefused e f d)).work) ∧
  (∀ (s : State) (f : Frame) (l : List Nat) (d : Dp), Reaches .readRequest 3 f (.blocks l) s d →
    exec (.readRequest f l) s = .next (s.stayAwake.onDp (fun e _ => onReadRequest e f l d)).work) ∧
  (∀ (s : State) (f : Frame) (b : Blk) (d : Dp) (x : Fetch), Reaches .readData (bulkClass f) f (.blk b) s d →
    repliedFetch d f = some x →
    (c8Ok s.env d x b = true → x.unit < 14 → tagApp b.tag ≠ noDataApp → exec (.readData f b) s =
      .next (s.stayAwake.onDp (fun e _ => giveUnit e x (some b) f.seqn (d.dropFetch x))).work) ∧
    (c8Ok s.env d x b = false → x.again = true → (∀ r pool lb, x.purpose ≠ .remote r pool lb) → exec (.readData f b) s =
      .next (s.stayAwake.onDp (fun e _ => loseUnit e x (checkFail e 8 f.src.val (d.dropFetch x)))).work)) ∧
  (∀ (s : State) (f : Frame) (d : Dp), Reaches .readFail 3 f .none s d →
    (∀ x, repliedFetch d f = some x →
      exec (.readFail f) s = .next (s.stayAwake.onDp (fun e _ => loseUnit e x (d.dropFetch x))).work) ∧
    (repliedFetch d f = none → exec (.readFail f) s = .next (State.work { s.stayAwake with dp := d }))) ∧
  (∀ (s : State) (f : Frame) (serial boot : Word) (n : Nat) (d : Dp), Reaches .joinRequest 3 f (.join serial boot n) s d →
    let r := if f.pool = noPool then f.src.val else f.arg % 16
    ∃ u : State, exec (.joinRequest f serial boot n) s = .next u.work ∧ (f.pool, r, serial, boot, n) ∈ u.dp.sh.joins ∧
      ∀ x ∈ u.dp.sh.joins, x.1 = f.pool → x.2.1 = r → x = (f.pool, r, serial, boot, n)) ∧
  (∀ (s : State) (f : Frame) (st : List (Nat × MemberState)) (m : List (Nat × Nat)) (q : List Nat)
      (g : Option Registry) (d : Dp), Reaches .joinAdmit 3 f (.admission st m q g) s d →
    exec (.joinAdmit f st m q g) s = .next (s.stayAwake.onDp (fun e _ => onJoinAdmit e f st m q g d)).work) ∧
  (∀ (e : Env) (f : Frame) (m : List (Nat × Nat)) (q : List Nat) (d : Dp), claimValid f.claim = true → rankOf f.claim = f.src.val →
    d.claimOf f.pool ≤ f.claim → isSteward d f.pool = false → admitted (onJoinAdmit e f [] m q none d) f.pool = true) ∧
  (∀ (s : State) (f : Frame) (n : Nat) (d : Dp),
    (Reaches .control 3 f (.demand n) s d → exec (.admissionDemand f n) s =
      .next (s.stayAwake.onDp (fun e _ => takeDemand e f.pool f.src.val n d)).work) ∧
    (Reaches .control 3 f (.request n) s d → exec (.admissionRequest f n) s =
      .next (s.stayAwake.onDp (fun e _ => takeRequest e f.pool f.src.val n d)).work) ∧
    (Reaches .control 3 f (.grant n) s d → exec (.admissionGrant f n) s =
      .next (s.stayAwake.onDp (fun e _ => takeGrant e f.pool f.src.val n d)).work) ∧
    (Reaches .control 3 f (.rate n) s d → ∃ u : State, exec (.admissionRate f n) s = .next u.work ∧
      (u.dp.bucket f.pool).rate = n)) ∧
  (∀ (s : State) (f : Frame) (o : OrderMsg) (d : Dp), Reaches .control 3 f (.order o) s d →
    exec (.forwardedOrder f o) s = .next (s.stayAwake.onDp (fun e _ => onMsg e f o d)).work) ∧
  (∀ (e : Env) (f : Frame) (o : Order) (d : Dp), isSteward d 0 = true → onMsg e f (.order o) d = takeOrder e o d) ∧
  (∀ (s : State) (f : Frame) (d : Dp), Reaches .control 3 f .anchor s d →
    ∃ u : State, exec (.anchorRequest f) s = .next u.work ∧ u.dp.sh.anchorAsked = true) ∧
  (∀ (s : State) (f : Frame) (j : Nat) (r : SdReport) (d : Dp), Reaches .control 3 f (.sdDone j r) s d →
    exec (.secureDiscardMemberDone f j r) s = .next (s.stayAwake.onDp (fun e _ => sdTake e j f.src.val r d)).work) ∧
  (∀ (s : State) (f : Frame) (c : BitVec 32) (d : Dp),
    (Reaches .control 3 f (.rebase (.propose c)) s d → exec (.rebaseControl f (.propose c)) s =
      .next (s.stayAwake.onDp (fun e _ => rebasePropose e c (rebaseAck e c f.src.val d))).work) ∧
    (Reaches .control 3 f (.rebase (.ack c)) s d → exec (.rebaseControl f (.ack c)) s =
      .next (s.stayAwake.onDp (fun e _ => rebaseAck e c f.src.val d)).work)) ∧
  (∀ (s : State) (f : Frame) (b : Blk) (p : PoolRec) (lb : Nat), InOrder s .sherdData (bulkClass f) f → Accepts s f →
    overLimit s.dp s.env.rank f = false → s.dp.sh.reg.pool f.pool = some p → noSherds s.dp = false →
    let l := s.dp.ticketLay p f.seqn
    l.holders ⟨f.row, f.unit, f.posFirst⟩ = [(s.env.rank, lb)] → c3Ok l f b = true →
    ∃ (u : State) (g : Green), exec (.sherdData f b) s = .next u.work ∧ g ∈ u.dp.map.green ∧ g.pool = f.pool ∧
      g.localBlk = lb ∧ g.seqn = f.seqn ∧ g.unit = f.unit ∧ g.src = f.src.val ∧ g.committed = false) ∧
  (∀ (s : State) (f : Frame) (t : HTicket) (p : PoolRec), InOrder s .sherdRefused 3 f →
    headTicket s.dp f.pool f.seqn = some t → s.dp.hticket t.id = some t → s.dp.sh.reg.pool f.pool = some p →
    t.stage = .sent → let k := f.src.val * 16 + f.unit
    t.refused.get 0 k < 2 → ∃ (u : State) (z : HTicket), exec (.sherdRefused f) s = .next u.work ∧
      u.dp.hticket t.id = some z ∧ z.refused.get 0 k = t.refused.get 0 k + 1 ∧ z.stage = .sent) ∧
  (∀ (s : State) (f : Frame) (lb : Nat) (p : PoolRec), InOrder s .readRequest 3 f → s.dp.sh.reg.pool f.pool = some p →
    let l := p.layGen (p.genOf lb)
    (l.units f.row).contains f.unit = true → clearFor s.dp p l f.row s.env.rank = true →
    admitted s.dp f.pool = true → ∃ (u : State) (x : Fetch), exec (.readRequest f [lb]) s = .next u.work ∧
      u.dp.sh.fetches = s.dp.sh.fetches ++ [x] ∧ x.purpose = .remote f.src.val f.pool lb ∧ x.localBlk = lb ∧
      x.rank = s.env.rank ∧ x.row = f.row ∧ x.unit = f.unit ∧ x.queued = false) ∧
  (∀ (s : State) (f : Frame) (x : Fetch) (k : CmdKey) (i : Nat) (c : Cmd), repliedFetch s.dp f = some x →
    x.purpose = .cmd k i → s.dp.cmd k = some c →
    (∀ b : Blk, InOrder s .readData (bulkClass f) f → x.unit < 14 → tagApp b.tag ≠ noDataApp →
      c8Ok s.env s.dp x b = true → ∃ u : State, exec (.readData f b) s = .next u.work ∧ x ∉ u.dp.sh.fetches ∧
        u.dp.cmd k = some { c with got := c.got.put i (some b), todo := c.todo.filter (· != i) }) ∧
    (∀ p : PoolRec, InOrder s .readFail 3 f → s.dp.sh.reg.pool x.pool = some p →
      (p.layGen x.gen).isPq x.row = true → ∃ u : State, exec (.readFail f) s = .next u.work ∧
        x ∉ u.dp.sh.fetches ∧ u.dp.sh.rebuilds.any (fun j => j.purpose = .cmd k i && j.row = x.row && j.pos = x.pos &&
          j.unit = x.unit) = true)) ∧
  (∀ (s : State) (f : Frame) (st : List (Nat × MemberState)) (m : List (Nat × Nat)) (q : List Nat)
      (g : Option Registry), InOrder s .joinAdmit 3 f → claimValid f.claim = true → rankOf f.claim = f.src.val →
    s.dp.claimOf f.pool ≤ f.claim → ∃ u : State, exec (.joinAdmit f st m q g) s = .next u.work ∧
      f.pool ∈ u.dp.sh.admitted ∧ u.dp.sh.steward.get 0 f.pool = f.claim.toNat ∧
      u.dp.sh.mentioned.get 0 f.pool = s.clk.time) ∧
  (∀ (s : State) (f : Frame) (serial boot : Word) (n : Nat), InOrder s .joinRequest 3 f →
    let r := if f.pool = noPool then f.src.val else f.arg % 16
    ∃ u : State, exec (.joinRequest f serial boot n) s = .next u.work ∧ (f.pool, r, serial, boot, n) ∈ u.dp.sh.joins) ∧
  (∀ (s : State) (f : Frame) (n : Nat), InOrder s .control 3 f →
    (∀ p : PoolRec, s.dp.sh.reg.pool f.pool = some p → isSteward s.dp f.pool = true →
      (∃ u : State, exec (.admissionDemand f n) s = .next u.work ∧
        u.dp.bw.demands.get 0 (bwKey f.pool f.src.val) = n) ∧
      (∃ u : State, exec (.admissionGrant f n) s = .next u.work ∧
        u.dp.bw.grants.get 0 (bwKey f.pool f.src.val) = n)) ∧
    (∃ u : State, exec (.admissionRequest f n) s = .next u.work ∧
      u.dp.bw.requests.get 0 (bwKey f.pool f.src.val) = n) ∧
    (∃ u : State, exec (.admissionRate f n) s = .next u.work ∧ (u.dp.bucket f.pool).rate = n) ∧
    (∃ u : State, exec (.anchorRequest f) s = .next u.work ∧ u.dp.sh.anchorAsked = true)) ∧
  (∀ (s : State) (f : Frame), InOrder s .control 3 f → isSteward s.dp 0 = true →
    (∀ h, ∃ u : State, exec (.forwardedOrder f (.drained h)) s = .next u.work ∧
      (h, f.src.val) ∈ u.dp.sh.drained) ∧
    (∀ o : Order, Sequenced s o → o.opcode = 0x0703 → fieldAt o.payload 0 1 ≤ 15 →
      ∃ u : State, exec (.forwardedOrder f (.order o)) s = .next u.work ∧
        u.dp.sh.regNext.members = (putMember s.dp.sh.regNext (memberOf (fieldAt o.payload 0 1)
          (BitVec.ofNat 64 (fieldAt o.payload 8 8)))).members) ∧
    (∀ (i : Nat) (r : SdReport) (j : SdJob), s.dp.sh.regNext.jobs.find? (fun j => j.id = i) = some j →
      sdEnded j = false → j.pendingMask.testBit f.src.val = true → r.final = true →
      ∃ u : State, exec (.secureDiscardMemberDone f i r) s = .next u.work ∧
        ∀ j', u.dp.sh.regNext.jobs.find? (fun j => j.id = i) = some j' →
          j'.pendingMask.testBit f.src.val = false)) ∧
  (∀ (s : State) (f : Frame) (c : BitVec 32) (a : Nat) (o : Option Order), InOrder s .control 3 f →
    s.dp.sh.rebase = some (c, a, o) →
    (memberRanks s.dp.sh.reg).all (fun r => (a ||| 2 ^ f.src.val).testBit r) = false →
    ∃ u : State, exec (.rebaseControl f (.ack c)) s = .next u.work ∧
      u.dp.sh.rebase = some (c, a ||| 2 ^ f.src.val, o))

/-- A port trains, is lost, is held and retrains; HELLO, TOPOLOGY and transit frames. A port that is down and not held
comes up at the widest aligned group of good lanes (2 in Neap); signal loss, a burst of uncorrectable codewords,
acknowledgements that have stood still for 10 µs over frames that wait for them, and a failure of a lane in use each
lose a port that is up: it is then down, knows no partner and keeps no frame; before the 10 µs a stall changes
nothing; a port that is down tries again after 100 ms and, held for flapping, when its hold ends; a width message sets
the lanes. HELLO whose wiring is good makes the partner known; a newer TOPOLOGY version of another rank is kept and an
older one is not; a frame for another device that came bad over its link is asked for again, one whose HOPS reaches 15
goes no further, and otherwise leaves on the first hop of its route with HOPS one higher, at once where that port is
up with room in its replay buffer. (R263, R264, R265, R266, R267, R270, R271, R285, R286, R287, R288,
08_causeway_ring.md) -/
def Obligations.LinksTrainAndFail : Prop :=
  (∀ (s : State) (p : CwPort) (good : BitVec 8), ringOpen s.env s.dp = true → (s.dp.link p).up = false →
    (s.dp.link p).held = false → (s.dp.link p).heldUntil = 0 → bestLanes good ≠ 0 →
    ∃ u : State, exec (.portTrained p good) s = .next u.work ∧ (u.dp.link p).up = true ∧
      (u.dp.link p).lanes = (if s.pwr.state = .neap then 2 else bestLanes good) ∧ (u.dp.link p).partner = none) ∧
  (bestLanes 0xFF = 8 ∧ bestLanes 0xF1 = 4 ∧ bestLanes 0x8C = 2 ∧ bestLanes 0xAA = 0 ∧ bestLanes 0x66 = 0) ∧
  (∀ (s : State) (p : CwPort), ringOpen s.env s.dp = true → (s.dp.link p).up = true →
    let fallen : State → Prop := fun u => (u.dp.link p).up = false ∧ (u.dp.link p).partner = none ∧
      (u.dp.link p).replay = [] ∧ (u.dp.link p).txq = [] ∧ (u.dp.link p).downAt = s.clk.time
    (∃ u : State, exec (.causewaySignalLoss p) s = .next u.work ∧ fallen u) ∧
    (∃ u : State, exec (.fecUncorrectableBurst p) s = .next u.work ∧ fallen u) ∧
    ((s.dp.link p).replay ≠ [] → (s.dp.link p).ackAt + 10000 ≤ s.clk.time →
      ∃ u : State, exec (.linkAckStall p) s = .next u.work ∧ fallen u) ∧
    (s.clk.time < (s.dp.link p).ackAt + 10000 → exec (.linkAckStall p) s = .next s.work) ∧
    (∀ good : BitVec 8, good &&& (s.dp.link p).inUse ≠ (s.dp.link p).inUse →
      ∃ u : State, exec (.laneFailure p good) s = .next u.work ∧ fallen u)) ∧
  (∀ (e : Env) (d : Dp) (p : CwPort) (n : Nat), (d.link p).up = true →
    let l := (loseLink e p n d).link p
    l.up = false ∧ l.partner = none ∧ l.replay = [] ∧ l.txq = [] ∧ l.downAt = e.now) ∧
  (∀ (s : State) (p : CwPort), ringOpen s.env s.dp = true → (s.dp.link p).up = false → (s.dp.link p).held = false →
    (s.dp.link p).heldUntil = 0 → (s.dp.link p).downAt + 100000000 ≤ s.clk.time →
    ∃ t : State, exec (.portRetrainTimer p) s = .next t ∧ (t.dp.link p).downAt = s.clk.time ∧
      t.dp.io.out = s.dp.io.out ++ [.link p .train]) ∧
  (∀ (s : State) (p : CwPort), (s.dp.link p).heldUntil ≠ 0 → (s.dp.link p).heldUntil ≤ s.clk.time →
    ∃ t : State, exec (.linkFlapHoldEnd p) s = .next t ∧ (t.dp.link p).heldUntil = 0) ∧
  (∀ (s : State) (p : CwPort) (n : Nat), ringOpen s.env s.dp = true → (s.dp.link p).up = true →
    ∃ t : State, exec (.linkCtlWidth p n) s = .next t ∧
      (t.dp.link p).lanes = (if n = 2 ∨ s.pwr.state = .neap then 2 else (s.dp.link p).wide)) ∧
  (∀ (s : State) (p : CwPort) (r : Rank) (serial boot : Word) (session : BitVec 32) (n : Nat),
    ringOpen s.env s.dp = true → (s.dp.link p).up = true → r.val ≠ s.env.rank →
    let w := if eastPort p then nFromEast p s.env.rank r.val else n
    let d := rxOn p s.dp
    let d := noteSession s.env r.val session boot d
    let d := d.setPeer r.val { d.peer r.val with serial := serial, out := false }
    let d := d.setLink p { d.link p with partner := some r.val, serial := serial, n := w }
    let d := { d with ring := { d.ring with n := agreedN s.env d } }
    wiringBad s.env d p = false →
    ∃ u : State, exec (.hello p r serial boot session n) s = .next u.work ∧ (u.dp.link p).partner = some r.val ∧
      (u.dp.link p).up = true ∧ u.dp.ring.n = agreedN s.env d) ∧
  (∀ (s : State) (p : CwPort) (r : Rank) (v : Nat) (l : List LinkTo), ringOpen s.env s.dp = true →
    (s.dp.link p).up = true → r.val ≠ s.env.rank →
    (((s.dp.ring.topo.find r.val).map Prod.fst).any (fun w => v ≤ w) = true →
      exec (.topology p r v l) s = .next (s.onDp (fun _ => rxOn p)).work) ∧
    (((s.dp.ring.topo.find r.val).map Prod.fst).any (fun w => v ≤ w) = false →
      ∃ u : Dp, exec (.topology p r v l) s = .next (s.onDp (fun e _ => findCut e (reroute e s.dp u))).work ∧
        u.ring.topo.find r.val = some (v, l))) ∧
  (∀ (s : State) (f : Frame) (p : CwPort) (n : Nat), ringOpen s.env s.dp = true → f.dst.val ≠ s.env.rank →
    (f.linkOk = false → exec (.transitFrame f) s = .next (s.stayAwake.onDp (fun e => rxBad e.now f.port))) ∧
    (f.linkOk = true → 15 ≤ f.hops + 1 → exec (.transitFrame f) s = .next (s.stayAwake.onDp (fun _ => rxOn f.port))) ∧
    (f.linkOk = true → f.hops + 1 < 15 → firstHop s.env (rxOn f.port s.dp) s.env.rank f.dst.val = some (p, n) →
      let g := { f with hops := f.hops + 1, port := p }
      exec (.transitFrame f) s = .next (s.stayAwake.onDp (fun e d =>
        sendOn e.now p (.link p (.forward g)) (rxOn f.port d))) ∧
      ((s.dp.link p).up = true → (s.dp.link p).replay.length < 128 → (s.dp.link p).txq = [] →
        ∃ t : State, exec (.transitFrame f) s = .next t ∧ t.dp.io.out = s.dp.io.out ++ [.link p (.forward g)])))

/-- Link acknowledgement and replay, link tests and the end-to-end timers. A frame that came bad over its port, or out
of its place, is asked for once, by a LINK_CTL with a NAK for the first sequence that is lacking, and no more until a
good one has come. On a port that is up, with the ring open: LINK_ACK of a frame in the replay buffer frees it and
every earlier one, and frames that waited for room follow; LINK_NAK has the frames from that one on sent again,
counted as link replays; LINK_ACK_TIMER acknowledges once what has arrived; a link test's figures are added to the
port's counters. A gap that has stood for 100 µs asks again; a delivery that stands unacknowledged is acknowledged at
any time the timer comes (R7: at most 10 µs); frames unacknowledged for 200 µs are sent again, and not before. (R7,
R186, R278, R280, R281, 08_causeway_ring.md) -/
def Obligations.LinkReplayAndEndToEndTimers : Prop :=
  (∀ (now : Nat) (p : CwPort) (d : Dp), ((d.link p).nakked = true ∨ (d.link p).up = false → rxBad now p d = d) ∧
    ((d.link p).nakked = false → (d.link p).up = true → (d.link p).replay.length < 128 → (d.link p).txq = [] →
      (rxBad now p d).io.out = d.io.out ++ [.link p (.nak (d.link p).rxSeq)] ∧ ((rxBad now p d).link p).nakked = true) ∧
    ((rxOn p d).link p).nakked = false) ∧
  (∀ (s : State) (p : CwPort) (q i : Nat), ringOpen s.env s.dp = true → (s.dp.link p).up = true →
    (s.dp.link p).replay.findIdx? (fun x => x.1 = q) = some i →
    (exec (.linkCtlAck p q) s = .next (s.onDp (fun e d =>
      drainLink e.now p (d.link p).txq.length
        (d.setLink p { d.link p with replay := (d.link p).replay.drop (i + 1), ackAt := e.now })))) ∧
    ((s.dp.link p).txq = [] → ∃ t : State, exec (.linkCtlAck p q) s = .next t ∧
      (t.dp.link p).replay = (s.dp.link p).replay.drop (i + 1) ∧ (t.dp.link p).ackAt = s.clk.time ∧ t.dp.io = s.dp.io) ∧
    (∀ o : Output, (s.dp.link p).txq = [o] → (s.dp.link p).replay.length ≤ 128 →
      ∃ t : State, exec (.linkCtlAck p q) s = .next t ∧ (t.dp.link p).txq = [] ∧ t.dp.io.out = s.dp.io.out ++ [o]) ∧
    (∃ t : State, exec (.linkCtlNak p q) s = .next t ∧ t.dp.sh = s.dp.sh ∧
      (t.dp.link p).testReplays = (s.dp.link p).testReplays + ((s.dp.link p).replay.drop i).length ∧
      (t.dp.link p).replay = (s.dp.link p).replay ∧
      t.dp.io.out = s.dp.io.out ++
        .link p (.resend q) :: ((s.dp.link p).replay.drop i).map (fun x => cleanTest x.2))) ∧
  (∀ (s : State) (p : CwPort), ringOpen s.env s.dp = true → (s.dp.link p).up = true →
    ((s.dp.link p).rxNew = true → ∃ t : State, exec (.linkAckTimer p) s = .next t ∧ (t.dp.link p).rxNew = false ∧
      t.dp.io.out = s.dp.io.out ++ [.link p (.ack (((s.dp.link p).rxSeq + 65535) % 65536))]) ∧
    ((s.dp.link p).rxNew = false → exec (.linkAckTimer p) s = .next s) ∧
    (∀ a b c : Nat, ∃ t : State, exec (.linkTest p a b c) s = .next t ∧
      t.dp.io.counters.get 0 (2048 + 5 * p.num) =
        min (2 ^ 64 - 1) (s.dp.io.counters.get 0 (2048 + 5 * p.num) + a) ∧
      t.dp.io.counters.get 0 (2048 + 5 * p.num + 1) =
        min (2 ^ 64 - 1) (s.dp.io.counters.get 0 (2048 + 5 * p.num + 1) + b) ∧
      t.dp.io.counters.get 0 (2048 + 5 * p.num + 2) =
        min (2 ^ 64 - 1) (s.dp.io.counters.get 0 (2048 + 5 * p.num + 2) + c))) ∧
  (∀ (s : State) (r : Rank) (c : Nat), ringOpen s.env s.dp = true →
    let p := s.dp.pair r.val c
    (p.held ≠ [] → p.gapAt.any (fun t => t + 100000 ≤ s.clk.time) = true →
      exec (.e2eGapTimeout r c) s = .next (s.onDp (fun e d =>
        sendNak e r.val c (d.setPair r.val c { p with gapAt := some e.now }))) ∧
      ∃ t : State, exec (.e2eGapTimeout r c) s = .next t ∧ (t.dp.pair r.val c).gapAt = some s.clk.time) ∧
    (0 < p.sinceAck →
      exec (.e2eAckTimer r c) s = .next (s.onDp (fun e => sendAck e r.val c)) ∧
      ∃ t : State, exec (.e2eAckTimer r c) s = .next t ∧ (t.dp.pair r.val c).sinceAck = 0 ∧
        (t.dp.pair r.val c).ackAt = s.clk.time) ∧
    (p.unacked ≠ [] → p.txAt + 200000 ≤ s.clk.time →
      exec (.e2eReplayTimeout r c) s = .next (s.onDp (fun e => resendAll e r.val c)) ∧
      ∃ t : State, exec (.e2eReplayTimeout r c) s = .next t ∧ (t.dp.pair r.val c).txAt = s.clk.time ∧
        (t.dp.pair r.val c).unacked = p.unacked) ∧
    (p.sinceAck = 0 → exec (.e2eAckTimer r c) s = .next s) ∧
    (s.clk.time < p.txAt + 200000 → exec (.e2eReplayTimeout r c) s = .next s))

/-- Claim-lane frames, sending, the lane-check rotation and an unusable lane. Where the lane receiver listens: a good
frame of a valid claim raises the handle's entry after READY, and before it the always-on shadow alone, to the greater
of the two claims; a frame with a bad START or CRC8 changes nothing of the authority; a lane-check frame shows the
lane alive, from its rank on. A due claim that the lane accepts becomes this device's, which is then the handle's
steward under it, and one lost in arbitration stays due; a turn's time has the rotation pass on; the lane low for more
than 64 µs, and not before, or silent for 3 s, is unusable and its frames leave the queue; released, it is usable
where a check was heard within 3 s. (R236, R238, R239, R240, R241, R243, R529, 07_stewards_claims_seawall.md) -/
def Obligations.ClaimLaneCommands : Prop :=
  (∀ (s : State) (b : BitVec 49), laneListens s.env = true → laneGood b = true → epochOf (laneClaim b) ≠ 0 →
    claimValid (laneClaim b) = true →
    let h := lanePool b
    let c := laneClaim b
    (s.boot.ready = true → s.boot.safe = false →
      exec (.claimLaneFrame b) s = .next (s.onDp (fun e d => yieldTo h c (raise e h c 1 (hearSteward h c
        { d with lane := { d.lane with highAt := e.now } })))).work ∧
      ∃ u : State, exec (.claimLaneFrame b) s = .next u.work ∧ u.dp.lane.highAt = s.clk.time ∧
        u.dp.claimOf h = (if s.dp.claimOf h < c then c else s.dp.claimOf h) ∧
        u.dp.lane.tx ⊆ s.dp.lane.tx) ∧
    (s.boot.ready = false → ∃ u : State, exec (.claimLaneFrame b) s = .next u.work ∧ u.dp.sh.sea = s.dp.sh.sea ∧
      u.dp.sh.shadow.get 0 h = max (s.dp.sh.shadow.get 0 h) c.toNat)) ∧
  (∀ (s : State) (b : BitVec 49), laneGood b = false → exec (.claimLaneFrame b) s = .next s.work ∧
    exec (.laneCheckFrame b) s = .next s.work) ∧
  (∀ (s : State) (b : BitVec 49), laneListens s.env = true → laneGood b = true → epochOf (laneClaim b) = 0 →
    lanePool b = 0 → rankOf (laneClaim b) < 16 →
    ∃ u : State, exec (.laneCheckFrame b) s = .next u.work ∧ u.dp.lane.lastCheck = s.clk.time ∧
      u.dp.lane.turn = rankOf (laneClaim b) ∧ u.dp.lane.usable = !s.dp.lane.stuck) ∧
  (∀ (s : State) (b : BitVec 49) (t : List (BitVec 49)) (n : Fin 49), laneListens s.env = true →
    s.dp.lane.stuck = false → s.boot.fw = true → s.env.tide = false → s.dp.lane.tx = b :: t →
    s.dp.lane.usable = true →
    exec (.claimLaneSend .accepted) s = .next (s.onDp (fun e d => claimAccepted e (lanePool b) 1 false
      (put (.laneFrame b) { d with lane := { d.lane with tx := t, highAt := e.now } }))).work ∧
    (∀ k : Contest, (s.dp.roleD (lanePool b)).contest = some k → ¬ k.claim < s.dp.claimOf (lanePool b) →
      ∃ u : State, exec (.claimLaneSend .accepted) s = .next u.work ∧ u.dp.claimOf (lanePool b) = k.claim ∧
        (u.dp.roleD (lanePool b)).role = .steward ∧ (u.dp.roleD (lanePool b)).claim = k.claim) ∧
    exec (.claimLaneSend (.lostAt n)) s = .next s.work) ∧
  (∀ s : State, laneListens s.env = true → s.dp.lane.turnAt + 1000000000 ≤ s.clk.time →
    ∃ u : State, exec .laneCheckTurn s = .next u.work ∧ u.dp.lane.turnAt = s.clk.time ∧
      (u.dp.lane.checkDue = true ↔ (u.dp.lane.turn = s.env.rank ∧ s.boot.fw = true))) ∧
  (∀ s : State, laneListens s.env = true → s.dp.lane.stuck = false →
    (s.dp.lane.highAt + 64000 < s.clk.time → ∃ u : State, exec .laneLowTimeout s = .next u.work ∧
      u.dp.lane.stuck = true ∧ u.dp.lane.usable = false ∧ u.dp.lane.tx = []) ∧
    (s.clk.time ≤ s.dp.lane.highAt + 64000 → exec .laneLowTimeout s = .next s.work)) ∧
  (∀ s : State, laneListens s.env = true → s.dp.lane.usable = true →
    s.dp.lane.lastCheck + 3000000000 ≤ s.clk.time →
    exec .laneCheckTimeout s = .next (s.onDp laneLost).work ∧
    ∃ u : State, exec .laneCheckTimeout s = .next u.work ∧ u.dp.lane.usable = false ∧ u.dp.lane.tx = []) ∧
  (∀ s : State, laneListens s.env = true → s.dp.lane.stuck = true →
    ∃ u : State, exec .claimLaneReleased s = .next u.work ∧ u.dp.lane.stuck = false ∧
      u.dp.lane.usable = decide (s.clk.time < s.dp.lane.lastCheck + 3000000000))

/-- Heartbeats, silence, contests, standbys and handovers. After READY with a port up, a heartbeat goes to every other
rank of the ring and the time is noted; a rank unheard for 2 ms is silent from then on and declared ABSENT by the
stewards here; a pool its steward's heartbeats leave out for 2 ms counts as relinquished; a contest whose conditions
hold publishes a claim one epoch up; a standby silent for 4 ms is lost and another is appointed; a steward without a
standby appoints one; 500 ms after READY the settle window ends; a preferred steward that has been healthy for 60 s
gets its pool back; a handover unresolved 50 ms after its start (70 ms where the target was first to be appointed), or
whose claim is unheard for 20 ms, ends, and the steward grants again; a member that has not answered RESOLVE in 10 ms
is declared ABSENT. (R226, R227, R232, R233, R234, R242, R256, R257, R258, R259, 07_stewards_claims_seawall.md) -/
def Obligations.RoleTimers : Prop :=
  (∀ s : State, s.boot.ready = true → s.boot.safe = false → s.pwr.state ∈ [.flood, .slack, .neap] →
    ringOpen s.env s.dp = true → anyLink s.dp = true → s.dp.ring.hbAt + 240000 ≤ s.clk.time →
    exec .heartbeatTimer s = .next (s.onDp (fun e d =>
      let d : Dp := { d with ring := { d.ring with hbAt := e.now } }
      sendEach e .heartbeat ((ringRanks e d).filter (fun r => r != e.rank)) (fun r => header e d r noPool)
        (.roles (BitVec.ofNat 64 e.boot) d.ring.session (ownFlags e d) (ownRoles d)) d)) ∧
    ∃ t : State, exec .heartbeatTimer s = .next t ∧ t.dp.ring.hbAt = s.clk.time) ∧
  (∀ (s : State) (r : Rank), ringOpen s.env s.dp = true → r.val ≠ s.env.rank → (s.dp.peer r.val).heard = true →
    (s.dp.peer r.val).silent = false → (s.dp.peer r.val).lastHb + 2000000 ≤ s.clk.time →
    ∃ d : Dp, exec (.rankSilence r) s =
        .next (s.onDp (fun e _ => absentEverywhere e r.val (noteHealth e r.val true d))).work ∧
      d = s.dp.setPeer r.val { s.dp.peer r.val with
        silent := true, silentAt := (s.dp.peer r.val).lastHb + 2000000 } ∧
      present s.env d r.val = false ∧
      ∃ u : State, exec (.rankSilence r) s = .next u.work ∧ (u.dp.peer r.val).silent = true ∧
        present s.env u.dp r.val = false) ∧
  (∀ (s : State) (pool r t : Nat), stewardRank s.dp pool = some r → s.dp.sh.mentioned.find pool = some t →
    r ≠ s.env.rank → present s.env s.dp r = true → admitted s.dp pool = true → t + 2000000 ≤ s.clk.time →
    s.dp.sh.relinquished.contains pool = false →
    ∃ u : State, exec (.stewardPoolOmitted pool) s = .next u.work ∧ pool ∈ u.dp.sh.relinquished ∧
      stewardSilent s.env u.dp pool = true) ∧
  (∀ (s : State) (pool : Nat) (p : PoolRec) (c : BitVec 32), s.dp.sh.reg.pool pool = some p →
    mayContend s.env s.dp p = true → s.env.tide = false → formClaim s.env s.dp pool = some c →
    exec (.contest pool) s = .next (s.onDp (fun e => publish e pool c none)).work ∧
    (s.dp.lane.usable = true ∨ 2 ≤ (memberRanks s.dp.sh.reg).length →
      ∃ u : State, exec (.contest pool) s = .next u.work ∧ (u.dp.roleD pool).contest =
          some { claim := c, acks := 2 ^ s.env.rank, lane := s.dp.lane.usable, giver := none } ∧
        (s.dp.lane.usable = true → laneFrame pool c ∈ u.dp.lane.tx))) ∧
  (∀ (e : Env) (d : Dp) (pool : Nat) (c : BitVec 32), e.rank < 16 → formClaim e d pool = some c →
    rankOf c = e.rank ∧ d.claimOf pool < c) ∧
  (∀ (s : State) (pool k : Nat) (x : PRole), s.dp.role pool = some x → x.standby = some k → x.role = .steward →
    present s.env s.dp k = false → (s.dp.peer k).lastHb + 4000000 ≤ s.clk.time → s.dp.claimOf pool = x.claim →
    (s.dp.lane.usable = true ∨ quorum s.env s.dp = true) →
    exec (.standbySilence pool) s =
      .next (s.onDp (fun e d => appoint e pool (cause e evSteward (releaseSent e pool d)))).work ∧
    ∃ u : State, exec (.standbySilence pool) s = .next u.work ∧ (u.dp.roleD pool).standby = none) ∧
  (∀ (s : State) (pool : Nat) (x : PRole), s.dp.role pool = some x → x.role = .steward → x.handover = none →
    x.appoint = none → exec (.standbyAppoint pool) s = .next (s.onDp (fun e => appoint e pool)).work ∧
    ∀ (p : PoolRec) (k : Nat), x.standby = none → s.dp.sh.reg.pool pool = some p →
      appointee s.env s.dp p = some k → ∃ u : State, exec (.standbyAppoint pool) s = .next u.work ∧
        (u.dp.roleD pool).appoint = some (k, s.clk.time)) ∧
  (∀ s : State, s.boot.ready = true → s.boot.settled = false → s.boot.readyAt + 500000000 ≤ s.clk.time →
    exec .settleWindowEnd s = .next (State.work { s with boot := { s.boot with settled := true } })) ∧
  (∀ s : State, s.clk.time < s.boot.readyAt + 500000000 → exec .settleWindowEnd s = .next s) ∧
  (∀ (s : State) (pool : Nat) (x : PRole) (p : PoolRec), s.dp.role pool = some x → s.dp.sh.reg.pool pool = some p →
    x.role = .steward → x.stopped = false → x.handover = none → p.prefSteward ≠ s.env.rank →
    (memberRanks s.dp.sh.reg).length ≤ 4 → x.healthy.any (fun t => t + 60000000000 ≤ s.clk.time) = true →
    healthyNow s.env s.dp pool p.prefSteward = true → epochOf (s.dp.claimOf pool) < epochMax →
    exec (.preferredStewardReturn pool) s =
      .next (s.onDp (fun e => startHandover e pool p.prefSteward none)).work ∧
    ∃ u : State, exec (.preferredStewardReturn pool) s = .next u.work ∧ (u.dp.roleD pool).stopped = true ∧
      (u.dp.roleD pool).handover =
        some { target := p.prefSteward, since := s.clk.time, sentAt := none, byOrder := none }) ∧
  (∀ (s : State) (pool : Nat) (x : PRole) (h : Handover), s.dp.role pool = some x → x.handover = some h →
    let ended : Instr → Prop := fun i =>
      exec i s = .next (s.onDp (fun e => endHandover e pool msHandover [])).work ∧
      ∃ u : State, exec i s = .next u.work ∧ (u.dp.roleD pool).handover = none ∧
        (x.role = .steward → (u.dp.roleD pool).stopped = false)
    (h.sentAt = none → x.standby = some h.target → h.since + 50000000 ≤ s.clk.time →
      ended (.handoverResolveTimeout pool)) ∧
    (h.sentAt = none → h.since + 70000000 ≤ s.clk.time → ended (.handoverResolveTimeout pool)) ∧
    (h.sentAt.any (fun t => t + 20000000 ≤ s.clk.time) = true → ended (.handoverClaimTimeout pool))) ∧
  (∀ (s : State) (pool : Nat) (r : Rank) (v : Resolving), (s.dp.roleD pool).resolving = some v →
    v.waiting.testBit r.val = true → v.since + 10000000 ≤ s.clk.time →
    let w := v.waiting - 2 ^ r.val
    exec (.resolveReplyTimeout pool r) s = .next (s.onDp (fun e d =>
      let u := declareAbsent e pool r.val (d.setRole { d.roleD pool with resolving := some { v with waiting := w } })
      if w = 0 then finishResolve e pool u else u)).work ∧
    ∃ u : State, exec (.resolveReplyTimeout pool r) s = .next u.work ∧
      (u.dp.roleD pool).resolving = (if w = 0 then none else some { v with waiting := w }))

/-- Timers of tickets, orders, reads, drills, row gathering and the journal. After STRIPE_TIMEOUT the members that
have not reported count missing for a granted ticket; the waiting writes of a pool without a steward for that time
complete with POOL_READ_ONLY; a forwarded order unanswered for it responds NO_STEWARD; a read request unanswered for
10 ms is lost; a drill rank silent for 5 ms is marked NO_REPLY; a row gathered for ROW_GATHER closes; a journal group
closes 20 µs after its first record; the durable records of a pool that the strand does not hold yet are programmed to
it, and stay in the tail until they are on the medium; with less than 1 GiB erased left the next anchor is asked for.
(R146, R197, R202, R205, R206, R256, R262, R395, R579, 06_shoal_redundancy.md, 07_stewards_claims_seawall.md) -/
def Obligations.TicketAndOrderTimers : Prop :=
  (∀ (s : State) (pool q : Nat) (t : STicket) (p : PoolRec), s.dp.sticket pool q = some t →
    s.dp.sh.reg.pool pool = some p → isSteward s.dp pool = true → t.granted = true → t.closed = false →
    t.grantedAt + s.param 0x0603 * 1000000 ≤ s.clk.time →
    (t.head = noHead ∨ present s.env s.dp t.head = true) →
    ∃ u : State, exec (.stripeTimeout pool q) s = .next u.work ∧
      u.dp.sticket pool q = some { t with missing := t.missing ||| t.writers } ∧ u.dp.sh.reg = s.dp.sh.reg) ∧
  (∀ (s : State) (pool : Nat), stewardOf s.env s.dp pool = none →
    (s.dp.sh.noSteward.find pool).any (fun t => t + s.param 0x0603 * 1000000 ≤ s.clk.time) = true →
    exec (.noStewardTimeout pool) s = .next (s.onDp (fun e d =>
      (stewardless d pool).foldl (fun d k => failCmd e k stPoolReadOnly 0 d) d)).work ∧
    ∀ k ∈ stewardless s.dp pool, ∃ u : State, exec (.noStewardTimeout pool) s = .next u.work ∧
      (u.dp.cmd k).all (fun c => c.stage != .running) = true) ∧
  (∀ (s : State) (a b : BitVec 32) (x : Order × Nat × Nat),
    s.dp.sh.forwarded.find? (fun x => x.1.session = a && x.1.token = b && x.1.port != ownPort) = some x →
    x.2.1 + s.param 0x0603 * 1000000 ≤ s.clk.time →
    exec (.registryStewardTimeout a b) s = .next (s.onDp (fun e => answerOrder e x.1 msNoSteward 0 [])).work ∧
    (∃ u : State, exec (.registryStewardTimeout a b) s = .next u.work ∧
      u.dp.sh.forwarded.any (fun y => sameOrder y.1 x.1) = false) ∧
    (∀ m r, waiter s.dp x.1 = some m → s.dp.request m = some r → ∃ u : State,
      exec (.registryStewardTimeout a b) s = .next u.work ∧ (u.dp.mail m).request = none)) ∧
  (∀ (s : State) (r : Rank) (pool lb : Nat) (x : Fetch),
    s.dp.sh.fetches.find? (fun x => x.queued && x.rank = r.val && x.rank != s.env.rank && x.pool = pool &&
      x.localBlk = lb && x.sentAt + 10000000 ≤ s.clk.time) = some x →
    exec (.readRequestTimeout r pool lb) s = .next (s.onDp (fun e d => loseUnit e x (d.dropFetch x))).work ∧
    ∀ j : Nat, x.purpose = .rebuild j → ∃ u : State, exec (.readRequestTimeout r pool lb) s = .next u.work ∧
      u.dp.sh.fetches = (s.dp.dropFetch x).sh.fetches ∧
      let gone : Rebuild → Nat := fun k => if k.unit != mirrorCheck then x.unit else holderTag x.rank x.localBlk
      u.dp.sh.rebuilds = (s.dp.onRebuild j (fun k => { k with lost := addNew (gone k) k.lost })).sh.rebuilds) ∧
  (∀ (s : State) (r : Rank) (k : Drill), s.dp.sh.drill = some k → k.order = none →
    k.stepAt + 5000000 ≤ s.clk.time → k.asked.testBit r.val = true → k.accepted.testBit r.val = false →
    ∃ u : State, exec (.drillReplyTimeout r) s = .next u.work ∧
      u.dp.sh.drill = some { k with noReply := k.noReply ||| 2 ^ r.val }) ∧
  (∀ (s : State) (pool row : Nat) (g : Gather),
    s.dp.sh.gathers.find? (fun g => g.pool = pool && g.row = row &&
      g.since + s.param 0x0602 * 1000 ≤ s.clk.time) = some g →
    exec (.rowGatherExpiry pool row) s = .next (s.onDp (fun _ => closeGather g)).work ∧
    ∃ u : State, exec (.rowGatherExpiry pool row) s = .next u.work ∧ g ∉ u.dp.sh.gathers ∧
      s.dp.sh.htickets.length ≤ u.dp.sh.htickets.length) ∧
  (∀ (s : State) (pool : Nat), (s.dp.roleD pool).role = .steward → (s.dp.roleD pool).group ≠ [] →
    (s.dp.roleD pool).groupAt + 20000 ≤ s.clk.time →
    let x := s.dp.roleD pool
    exec (.journalGroupClose pool) s = .next (s.onDp (fun e => closeGroup e pool)).work ∧
    ∀ k, x.standby = some k → ∃ u : State, exec (.journalGroupClose pool) s = .next u.work ∧
      (u.dp.roleD pool).group = x.group.drop (cutAt x.group) ∧
      (u.dp.roleD pool).sent = x.sent ++ [x.group.take (cutAt x.group)] ∧ (x.group.length ≤ 64 →
        (u.dp.roleD pool).group = [])) ∧
  (∀ (s : State) (pool : Nat) (x : PRole), s.dp.role pool = some x → x.tail ≠ [] → s.env.tide = false →
    s.boot.ready = true →
    let d := stageJournal s.env pool s.dp
    (strandFree d .journalStrand < strandLow →
      exec (.journalStrandProgrammed pool) s = .next (s.onDp (fun e _ => askAnchors e d)).work) ∧
    (strandLow ≤ strandFree d .journalStrand →
      ∃ u : State, exec (.journalStrandProgrammed pool) s = .next u.work ∧ u.dp = d ∧ d.sh.roles = s.dp.sh.roles))

/-- Reset waves, channel training, ZQ calibration and drift retraining. A reset wave's answers of its four channels
are kept and the next wave starts, 1 ms after the wave at the earliest and after the profile's longest reset whatever
answers; after the last wave the device profile is the one most dies matched, or, where no die matches, the device
goes into safe mode with code 0x43. A channel takes the highest step of R78, within its limits, whose windows are at
least 0.35 UI and whose duty-cycle residuals are at most 3 %; with none it is failed and fenced. A die in service is
calibrated 1 s after the last time. A channel that has drifted more than 20 °C, or failed its training-pattern check,
goes off the bus once no class P1 read waits; the results that then come give it its rate, at most the present one, or
fence it. (R77, R78, R81, R82, R83, R84, R85, R86, R88, R90, R111, 03_kiln_flash_channels.md) -/
def Obligations.FlashBringUpAndCalibration : Prop :=
  (∀ (s : State) (l : List DieAnswer), s.dp.kiln.started = true → s.env.tide = false → s.dp.kiln.wave ≤ 16 →
    (s.clk.time < s.dp.kiln.waveAt + 1000000 → exec (.kilnResetWave l) s = .next s) ∧
    (s.dp.kiln.waveAt + max 1000000 (s.dp.kiln.profile.rstUs * 1000) ≤ s.clk.time →
    (s.dp.kiln.wave < 16 → ∃ t : State, exec (.kilnResetWave l) s = .next t ∧
      t.dp.kiln.wave = s.dp.kiln.wave + 1 ∧ t.dp.kiln.waveAt = s.clk.time ∧
      t.dp.kiln.answers = s.dp.kiln.answers ++ l.filter (fun a => a.chan / 4 + 1 = s.dp.kiln.wave)) ∧
    (s.dp.kiln.wave = 16 →
      let a := s.dp.kiln.answers ++ l.filter (fun a => a.chan / 4 + 1 = 16)
      (∀ id, deviceProfile a = some id → ∃ u : State, exec (.kilnResetWave l) s =
        .next (extendMeas 3 (leBytes 1 id) u) ∧ u.dp.kiln.profile = profileOf id ∧ u.dp.kiln.wave = 17) ∧
      (deviceProfile a = none → ∃ u : State, exec (.kilnResetWave l) s = .next (safeMode 0x43 u) ∧
        u.boot = s.boot ∧ u.dp.kiln.answers = a)))) ∧
  (∀ (s : State) (c : Nat) (l : List TrainStep), (s.dp.kiln.chans.find c).isSome = true → 17 ≤ s.dp.kiln.wave →
    (s.dp.chan c).fenced = false → (s.dp.chan c).trained = false → s.env.tide = false →
    (∀ r, trainedStep s.env s.dp 4800 l = some r → ∃ u : State, exec (.flashChannelTrained c l) s =
        .next (recoveryStage u).work ∧ (u.dp.chan c).trained = true ∧ (u.dp.chan c).rate = r.rate ∧
        (u.dp.chan c).training = some r ∧ (u.dp.chan c).trainTj = s.pwr.tj) ∧
    (trainedStep s.env s.dp 4800 l = none → ∃ u : State, exec (.flashChannelTrained c l) s =
        .next (recoveryStage u).work ∧ (u.dp.chan c).trained = false ∧ (u.dp.chan c).failed = true ∧
        (u.dp.chan c).fenced = true)) ∧
  (∀ (e : Env) (d : Dp) (cap : Nat) (l : List TrainStep) (r : TrainStep), trainedStep e d cap l = some r →
    r.rate ∈ kilnSteps ∧ r ∈ l ∧ r.rate ≤ d.kiln.profile.maxRate ∧ r.rate ≤ e.param d 0x0401 ∧ r.rate ≤ cap ∧
    (∀ w ∈ r.read ++ r.write, 35 ≤ w) ∧ r.re ≤ 300 ∧ r.dqs ≤ 300 ∧
    ∀ q ∈ l, trainOk q = true → q.rate ∈ kilnSteps → q.rate ≤ d.kiln.profile.maxRate → q.rate ≤ e.param d 0x0401 →
      q.rate ≤ cap → q.rate ≤ r.rate) ∧
  (∀ (s : State) (c n : Nat), dieGood s.dp c n = true → kilnRuns s.env s.dp = true → s.env.tide = false →
    s.dp.kiln.profile.lists .zq = true → (s.dp.die c n).zqAt + 1000000000 ≤ s.clk.time →
    exec (.zqShortCalTimer c n) s = .next (s.onDp (fun e d => enqueue e c n (.maintenance .zqShort) 6
      (d.setDie c n { d.die c n with zqAt := e.now, zqTj := e.tj }))) ∧
    ∃ t : State, exec (.zqShortCalTimer c n) s = .next t ∧ (t.dp.die c n).zqAt = s.clk.time ∧
      (t.dp.die c n).zqTj = s.pwr.tj) ∧
  (∀ (s : State) (c : Nat) (l : List TrainStep), chanGood s.dp c = true → kilnRuns s.env s.dp = true →
    s.env.tide = false →
    ((s.dp.chan c).offBus = none → (200 < drift s.pwr.tj (s.dp.chan c).trainTj ∨ (s.dp.chan c).recheck = true) →
      (chanReads s.dp c = true → (s.dp.chan c).driftAt = none →
        ∃ t : State, exec (.tjDriftRetrain c l) s = .next t ∧ (t.dp.chan c).driftAt = some s.clk.time ∧
          (t.dp.chan c).offBus = none) ∧
      (chanReads s.dp c = false → (s.dp.chan c).bus = none → ∃ t : State, exec (.tjDriftRetrain c l) s = .next t ∧
        (t.dp.chan c).offBus = some s.clk.time ∧ t.dp.io.out = s.dp.io.out ++ [.die c 0 .train])) ∧
    ((s.dp.chan c).offBus.isSome = true →
      let cap := if (s.dp.chan c).recheck then 4800 else (s.dp.chan c).rate
      (∀ r, trainedStep s.env s.dp cap l = some r → ∃ u : State, exec (.tjDriftRetrain c l) s = .next u.work ∧
        (u.dp.chan c).rate = r.rate ∧ (u.dp.chan c).trainTj = s.pwr.tj ∧ (u.dp.chan c).offBus = none) ∧
      (trainedStep s.env s.dp cap l = none → ∃ u : State, exec (.tjDriftRetrain c l) s = .next u.work ∧
        (u.dp.chan c).fenced = true)))

/-- What follows a die's program, erase or read, its timeouts, suspends and waiting limits. A program that completes
verifies its pages; one that fails closes its row, and the data goes elsewhere; an erase that completes adds the
block's wear and settles the block, which is retired when its wear had reached WEAR_RETIRE; a failed erase is tried
once more, and a second failure retires the block; a read whose data is out has its codewords decoded for the read's
purpose, a block that reads back as zeros is destroyed, and a training pattern that fails marks its channel. At twice
its longest time an operation is cut short by Reset LUN, and the second time within 10 s fences the die; a die that
comes back has the operation done over, and one that does not in twice tRST is fenced. A suspended operation resumes
when 8 reads have been served or 500 µs are over; a waiting class P1 read suspends a program or erase within the
limits; operations past their waiting limits are marked and the die goes on. (R93, R97, R98, R103, R105, R106, R108,
R109, R110, R111, R140, 03_kiln_flash_channels.md) -/
def Obligations.DieReports : Prop :=
  (∀ (s : State) (c n r : Nat) (ps : List Nat) (x : Running), (s.dp.die c n).running = some x → x.dataIn = 0 →
    x.op.kind = .program r ps →
    let e := s.env
    let pos := (rowBlock s.dp r c n).elim 0 Prod.fst
    exec (.flashProgramComplete c n) s = .next (s.onDp (fun e d =>
      startDie e c n (rebuildDone e (passPages e r pos ps (endOp e c n d))))).work ∧
    (∀ y : Row, s.dp.row r = some y → y.use.slc = true →
      ∃ u : State, exec (.flashProgramComplete c n) s = .next u.work ∧ ∀ q ∈ ps, q < xorBase →
        (y.cws[4 * q]?).any (fun w => !w.verified) = true →
        ∀ z : Row, u.dp.row r = some z → ∀ i, i / 4 = q → (z.cws[i]?).all Codeword.verified = true) ∧
    (let d0 := count 4 0 1 (endOp e c n s.dp);
      let v := scheduleRefresh e r 2 (restage r ps (closeRows e
        (fun b => (d0.row r).any (fun x => x.blocks.contains b)) d0));
      exec (.dieProgramFail c n) s = .next (s.onDp (fun e _ => startDie e c n
        (match rowBlock v r c n with
        | some (_, k) => if v.med.suspect.contains k then retireBlock e k 1 v else markFailing k v
        | none => v))).work) ∧
    (∀ (y : Row) (b : Nat × (Nat × Nat × Nat)), s.dp.row r = some y → blockOn y c n = some b →
      ∃ u : State, exec (.dieProgramFail c n) s = .next u.work ∧
        ∀ z : Row, u.dp.row r = some z → z.full = true)) ∧
  (∀ (s : State) (c n r : Nat) (x : Running), (s.dp.die c n).running = some x → x.dataIn = 0 → x.op.kind = .erase r →
    ∀ (y : Row) (pos : Nat) (k : Nat × Nat × Nat), s.dp.row r = some y → blockOn y c n = some (pos, k) →
    let key := wearKey k.1 k.2.1 k.2.2
    (∃ u : State, exec (.flashEraseComplete c n) s = .next u.work ∧
      u.dp.med.wear.get (0, 0) key = wearAfter y.use (s.dp.med.wear.get (0, 0) key) ∧
      (sdTarget s.dp r = false → (∀ z : Row, u.dp.row r = some z → z.erasing.all (fun l => !l.contains pos) = true) ∧
        (wearLimit s.env s.dp ≤ wearOf s.dp k.1 k.2.1 k.2.2 → u.dp.med.retired.contains k = true))) ∧
    ((s.dp.med.eraseFails.contains k = true ∨ s.dp.med.suspect.contains k = true) →
      ∃ u : State, exec (.dieEraseFail c n) s = .next u.work ∧ u.dp.med.retired.contains k = true) ∧
    (s.dp.med.eraseFails.contains k = false → s.dp.med.suspect.contains k = false →
      ∃ u : State, exec (.dieEraseFail c n) s = .next u.work ∧ u.dp.med.retired = s.dp.med.retired ∧
        u.dp.med.eraseFails = s.dp.med.eraseFails ++ [k])) ∧
  (∀ (s : State) (c n : Nat) (x : Running) (l : List CwResult), (s.dp.die c n).running = some x →
    (∀ (r : Nat) (cws : List Nat) (why : ReadWhy) (at_ : Climb), x.op.kind = .read r cws why at_ →
      (x.out = false → exec (.flashReadComplete c n l) s = .next s) ∧
      (x.out = true → (s.dp.die c n).suspended = none → exec (.flashReadComplete c n l) s = .next (s.onDp (fun e d =>
        let v := d.askPad .rstage 9 (4096 * l.length)
        startDie e c n (landRead e c n x.op l (endOp e c n (v.setDie c n { v.die c n with suspended := none }))))).work)) ∧
    (∀ b : Nat, x.op.kind = .readBack b true → x.out = true → l = [] → ∃ u : State,
      exec (.flashReadComplete c n l) s = .next u.work ∧ ∀ y ∈ u.dp.med.relics, y.block ≠ (c, n, b)) ∧
    (∀ k : Nat, x.op.kind = .pattern → ∃ u : State, exec (.flashReadComplete c n [.failed k]) s = .next u.work ∧
      (u.dp.chan c).recheck = true)) ∧
  (∀ (s : State) (c n : Nat) (x : Running) (b : Bool), (s.dp.die c n).running = some x → (s.dp.die c n).cut = none →
    (s.clk.time < x.since + opLimit s.dp x.op.kind ∨ 0 < x.dataIn → exec (.dieReadyTimeout c n b) s = .next s) ∧
    (x.since + opLimit s.dp x.op.kind ≤ s.clk.time → x.dataIn = 0 →
      let recent := (s.dp.die c n).timeouts.filter (fun t => s.clk.time < t + 10000000000)
      ∃ u : State, exec (.dieReadyTimeout c n b) s = .next u.work ∧ .die c n .resetLun ∈ u.dp.io.out ∧
        (recent ≠ [] → (u.dp.die c n).fenced = true) ∧
        (∀ m : Nat, recent = [] → m < 16 → m ≠ n → (s.dp.die c m).present = true → (s.dp.die c m).fenced = false →
          m ∉ (s.dp.chan c).attempt → (u.dp.die c n).cut = some x.op ∧ (u.dp.die c n).running = none ∧
            (u.dp.die c n).timeouts = [s.clk.time] ∧ (u.dp.die c n).fenced = (s.dp.die c n).fenced))) ∧
  (∀ (s : State) (c n : Nat) (o : DieOp), (s.dp.die c n).cut = some o →
    (∃ u : State, exec (.dieReadyTimeout c n true) s = .next u.work ∧ (u.dp.die c n).cut = none) ∧
    (s.clk.time < (s.dp.die c n).timeouts.getLastD 0 + 2000 * s.dp.kiln.profile.rstUs →
      exec (.dieReadyTimeout c n false) s = .next s) ∧
    ((s.dp.die c n).timeouts.getLastD 0 + 2000 * s.dp.kiln.profile.rstUs ≤ s.clk.time →
      ∃ u : State, exec (.dieReadyTimeout c n false) s = .next u.work ∧ (u.dp.die c n).fenced = true)) ∧
  (∀ (s : State) (c n : Nat) (y : Suspended), (s.dp.die c n).suspended = some y → (s.dp.die c n).running = none →
    (8 ≤ y.reads ∨ y.since + 500000 ≤ s.clk.time) →
    ∃ t : State, exec (.suspendWindowEnd c n) s = .next t ∧ (t.dp.die c n).suspended = none ∧
      (t.dp.die c n).running = some
        { op := y.op, since := s.clk.time, suspends := y.suspends, rest := [], dataIn := 0, out := false } ∧
      t.dp.io.out = s.dp.io.out ++ [.die c n .resume]) ∧
  (∀ (s : State) (c n : Nat) (x : Running), (s.dp.die c n).running = some x → (s.dp.die c n).suspended = none →
    suspendable s.dp.kiln.profile x.op.kind = true → s.env.tide = false → x.dataIn = 0 →
    (s.dp.die c n).queue.any isP1 = true →
    x.since + (suspendLimits x.op.kind).1 ≤ s.clk.time → x.suspends < (suspendLimits x.op.kind).2 →
    ∃ u : State, exec (.suspendMinimumRun c n) s = .next u ∧ .die c n .suspend ∈ u.dp.io.out ∧
      (u.dp.die c n).suspended =
        some { op := x.op, suspends := x.suspends + 1, since := s.clk.time, reads := 0 }) ∧
  (∀ (s : State) (c n : Nat), ∃ x y : Die, exec (.operationWaitLimit c n) s =
      .next (s.onDp (fun e d => startDie e c n (d.setDie c n x))) ∧
    exec (.classAgingLimit c n) s = .next (s.onDp (fun e d => startDie e c n (d.setDie c n y))) ∧
    x.queue = (s.dp.die c n).queue.map (fun o =>
      if isArray o.kind = true ∧ o.arrived + 2000000 ≤ s.clk.time then { o with forced := true } else o) ∧
    y.queue = (s.dp.die c n).queue.map (fun o =>
      if 2 ≤ o.cls ∧ o.arrived + 20000000 ≤ s.clk.time then { o with aged := true } else o))

/-- Closing stripes, folding, garbage collection, moves, refresh, rebuild, the Last Tide area and the map's segments.
While media management runs: an open die stripe is closed with fill after its time, and not before; idle folding
starts once no write came for FOLD_IDLE and bisque holds anything; a fold due above 50 % of B relocates the row R123
names into stoneware, and with none due only notes so; garbage collection is off at or above its target and otherwise
relocates the victim of R133, urgently below half the target, in normal mode after the rows that warn; a static move
is made above WL_SPREAD and ends at its stop level; a row due for refresh, and every row of a fenced unit, goes under
relocation or erase; the Last Tide area moves after 7 days and after every use, where the member has the room, its old
rows going under erase. A wanted map segment is resident when it has come; from READY on the next segment is loaded
behind the demands, and after the last the whole map is resident with boot stage 0x08. (R70, R71, R122, R123, R129,
R130, R132, R133, R136, R138, R143, 04_media_management.md) -/
def Obligations.MediaManagement : Prop :=
  (let leaves : State → Instr → Nat → Prop := fun s i id => ∃ u : State, exec i s = .next u.work ∧
      ∀ y : Row, u.dp.row id = some y → (y.moving.isSome || y.erasing.isSome) = true
  (∀ (s : State) (r t : Nat), mediaRuns s = true → (s.dp.row r).bind Row.openSince = some t →
    (t + s.param 0x0302 * 1000 ≤ s.clk.time →
      exec (.dieStripeCloseTimer r) s = .next (s.onDp (fun e => closeStripe e r)).work ∧
      ∀ x : Row, s.dp.row r = some x → x.erasing = none →
        let per := 4 * (x.width - 1)
        let n := (per - x.cws.length % per) % per
        n ≤ leaseLeft s.env s.dp → ∃ u : State, exec (.dieStripeCloseTimer r) s = .next u.work ∧
          (u.dp.row r).all (fun y => y.cws.length = x.cws.length + n) = true) ∧
    (s.clk.time < t + s.param 0x0302 * 1000 → exec (.dieStripeCloseTimer r) s = .next s)) ∧
  (∀ s : State, mediaRuns s = true → s.dp.med.lastWrite + s.param 0x0303 * 1000000 ≤ s.clk.time →
    bisqueUsed s.dp ≠ 0 → ∃ t : State, exec .foldIdleTimer s = .next t ∧ t.dp.med.idleFold = true ∧
      t.dp.map = s.dp.map) ∧
  (∀ s : State, mediaRuns s = true →
    let b := s.dp.med.bisque
    let used := bisqueUsed s.dp
    let idle := s.dp.med.idleFold && writeIdle s && used != 0
    let d (on_ : Bool) : Dp := { s.dp with med := { s.dp.med with folding := on_, idleFold := idle } }
    (∀ r, b < 2 * used → foldRow s.clk.time (d true) true idle = some r →
      exec .fold s = .next (s.onDp (fun e _ =>
        relocateRow e r.id .stoneware 4 .fold (count 3 1 (currentIus (d true) r) (d true)))).work ∧ leaves s .fold r.id) ∧
    (used * 10 ≤ b * 4 → idle = false → foldRow s.clk.time (d false) false false = none →
      exec .fold s = .next (State.work { s with dp := d false }))) ∧
  (∀ s : State, mediaRuns s = true →
    let free := erasedBytes s.dp
    let t := gcTarget s.env s.dp
    let d (m : GcMode) : Dp := { s.dp with med := { s.dp.med with gc := m } }
    let v := refreshWarned s.env (2 ^ 30) (d .normal)
    (t ≤ free → exec .garbageCollect s = .next (State.work { s with dp := d .off })) ∧
    (∀ r, free < t → free * 2 < t → gcVictim s.clk.time (d .urgent) true = some r →
      exec .garbageCollect s = .next (s.onDp (fun e _ => relocateRow e r.id .stoneware 4 .collect
        (count 3 2 (currentCws (d .urgent) r).length (d .urgent)))).work ∧ leaves s .garbageCollect r.id) ∧
    (∀ r, free < t → t ≤ free * 2 → gcVictim s.clk.time v false = some r →
      exec .garbageCollect s = .next (s.onDp (fun e _ => relocateRow e r.id .stoneware 4 .collect
        (count 3 2 (currentCws v r).length v))).work ∧ leaves s .garbageCollect r.id)) ∧
  (∀ s : State, mediaRuns s = true → s.dp.med.staticRow = none →
    let w := wearRange s.dp
    let spread := w.1 - w.2
    let unit := wearUnit s.dp
    let lim := s.param 0x0305
    (spread ≤ lim * unit → spread * 100 ≤ (if lim < 400 then lim * 75 else 30000) * unit → ∃ u : State,
      exec .staticMove s = .next u.work ∧ u.dp.med.moving = false ∧ u.dp.med.rows = s.dp.med.rows) ∧
    (∀ r, lim * unit < spread → s.dp.row r.id = some r →
      let d : Dp := { s.dp with med := { s.dp.med with moving := true } }
      leastBy (rowWear d) (s.dp.med.rows.filter (fun r => r.use = .stoneware && r.full && movable d r &&
        3600 * second ≤ rowAge s.clk.time r)) = some r →
      let v := count 3 3 1 { d with med := { d.med with staticRow := some r.id } }
      exec .staticMove s = .next (s.onDp (fun e _ => relocateRow e r.id .stoneware 4 .static v)).work ∧
      ((openRow s.env .stoneware true v).isSome = true → leaves s .staticMove r.id))) ∧
  (∀ (s : State) (n : Nat) (r : Row), mediaRuns s = true → s.dp.row n = some r → movable s.dp r = true → r.cws ≠ [] →
    (r.refresh.isSome = true ∨ s.param 0x0306 * 86400000000000 ≤ rowAge s.clk.time r) →
    leaves s (.refreshRelocation n) n) ∧
  (∀ (s : State) (c : Nat) (n : Option Nat), mediaRuns s = true →
    s.dp.med.rebuilding.any (fun x => x.1 = c && x.2.1 = n) = true →
    exec (.dieRebuild c n) s = .next (s.onDp (fun e d => rebuildDone e
      ((d.med.rows.filter (fun r => movable d r && r.blocks.any (onUnit c n))).foldl (fun d r =>
        relocateRow e r.id .stoneware 4 (if r.use = .bisque then .fold else .other) d) d))).work ∧
    ∀ r ∈ s.dp.med.rows, movable s.dp r = true → r.blocks.any (onUnit c n) = true → leaves s (.dieRebuild c n) r.id) ∧
  (∀ s : State, mediaRuns s = true → s.dp.med.ltGen = none →
    (s.dp.med.ltUsed = true ∨ s.dp.med.ltMovedAt + 604800000000000 ≤ s.clk.time) →
    let want := areaBytes s.dp .lastTide + 64 * gib
    let d := growArea s.env .lastTide want (divUp (64 * gib) (2 ^ 26)) s.dp
    (areaBytes d .lastTide < want → exec .lastTideAreaRotate s = .next s.work) ∧
    (want ≤ areaBytes d .lastTide → ∃ u : State, exec .lastTideAreaRotate s = .next u.work ∧
      u.dp.med.ltMovedAt = s.clk.time ∧ u.dp.med.ltUsed = false ∧
      ∀ (n : Nat) (r y : Row), s.dp.row n = some r → r.use = .lastTide → u.dp.row n = some y → y.erasing.isSome = true)) ∧
  (∀ (s : State) (p g : Nat), s.dp.map.wanted.contains (p, g) = true →
    ∃ d : Dp, exec (.mapFaultIn p g) s = .next (s.onDp (fun e _ => settleGreens e d)).work ∧ (p, g) ∈ d.map.segs ∧
      (p, g) ∉ d.map.wanted ∧ d.map.entries = s.dp.map.entries ∧
      ∃ u : State, exec (.mapFaultIn p g) s = .next u.work ∧ (p, g) ∈ u.dp.map.segs) ∧
  (∀ s : State, mediaRuns s = true → s.dp.map.loading = true → s.dp.map.resident = false → s.dp.map.wanted = [] →
    (∀ g, (mapSegs s.env s.dp).find? (fun g => !s.dp.map.segs.contains g) = some g →
      ∃ u : State, exec .mapBackgroundLoad s = .next u.work ∧ u.dp.map.segs = s.dp.map.segs ++ [g]) ∧
    ((mapSegs s.env s.dp).find? (fun g => !s.dp.map.segs.contains g) = none →
      ∃ u : State, exec .mapBackgroundLoad s = .next u.work ∧ u.dp.map.resident = true ∧
        u.dp.map.loading = false ∧ u.boot.stage = 0x08)))

/-- Resync rows, reshape windows, the patrol and secure-discard jobs. While media management runs: a CATCHING_UP
device that its pool has admitted takes RESYNC tickets for its sherds of a row with a region still missed; the steward
of a pool under reshape takes a ticket for each of the next up to 64 rows of the new layout when none is open there,
every member is CURRENT and no ticket of the old layout touches them; the steward checks a governed row's position
with no open ticket and every member present and CURRENT: it starts to read all units of a PQ row's position, or every
copy of a mirrored one, and a row of neither kind counts at its last position. A secure-discard job goes on at the
device as a member, whose greenware copies in range go, and as the registry pool's steward after READY, and rests
before. (R61, R62, R65, R212, R217, R218, R220, R221, 06_shoal_redundancy.md) -/
def Obligations.ResyncReshapeAndPatrol : Prop :=
  (∀ (s : State) (pool row : Nat) (b : Bool) (p : PoolRec) (l : Lay), mediaRuns s = true →
    s.dp.sh.reg.pool pool = some p → PoolRec.layNamed p b = some l → admitted s.dp pool = true →
    memberState s.dp pool s.env.rank = .catchingUp →
    let gs := (p.rowRegions l row).filter (fun g => missedIn s.dp pool s.env.rank g &&
      (regionRows p s.env.rank g).any (fun x => rowKey x.1 x.2 = rowKey l row) &&
      !(rowsDone s.dp pool g).contains (rowKey l row))
    let mine := (rowUnits l row).filter (fun x => x.2 = s.env.rank)
    gs ≠ [] → s.dp.sh.htickets.any (fun t => t.pool = pool && t.gen = l.gen && t.row = row && hasFlag t.flags fResync) = false →
    ∃ u : State, exec (.resyncRow pool row b) s = .next u.work ∧
      u.dp.sh.htickets.length = s.dp.sh.htickets.length + mine.length ∧
      (∀ t ∈ u.dp.sh.htickets, t ∈ s.dp.sh.htickets ∨
        (t.pool = pool ∧ t.gen = l.gen ∧ t.row = row ∧ t.flags = fResync ∧ t.unit ∈ mine.map Prod.fst)) ∧
      ∀ g ∈ gs, u.dp.sh.resyncing.any (fun x => x.1 = pool && x.2.1 = g) = true) ∧
  (∀ (s : State) (pool : Nat) (p : PoolRec) (r : Reshape), mediaRuns s = true → s.dp.sh.reg.pool pool = some p →
    p.reshape = some r →
    let n := min 64 (r.rows - r.tidemark)
    isSteward s.dp pool = true → (s.dp.roleD pool).stopped = false → admitted s.dp pool = true →
    windowOpen s.dp pool = false → n ≠ 0 → openTickets s.dp pool = [] →
    (∀ k ∈ p.ranks, memberState s.dp pool k = .current) →
    (undurable s.dp pool).any (fun x => x.type = .tidemark) = false →
    ∃ d : Dp, exec (.reshapeWindow pool) s = .next (State.work { s with dp := d }) ∧
      d.sh.htickets.length = s.dp.sh.htickets.length + n ∧ d.sh.nextId = s.dp.sh.nextId + n) ∧
  (∀ (s : State) (pool row pos : Nat) (b : Bool) (p : PoolRec) (l : Lay), mediaRuns s = true →
    s.dp.sh.reg.pool pool = some p → PoolRec.layNamed p b = some l → isSteward s.dp pool = true →
    admitted s.dp pool = true → rowGoverned p l row = true → pos < l.s → openTickets s.dp pool = [] →
    s.dp.sh.htickets = [] →
    (rowUnits l row).all (fun x => present s.env s.dp x.2 && memberState s.dp pool x.2 = .current) = true →
    let starts (unit : Nat) : Prop := ∃ u : State, exec (.beachcomberCheck pool row b pos) s = .next u.work ∧
      u.dp.sh.nextId = s.dp.sh.nextId + 1 ∧ u.dp.sh.rebuilds = s.dp.sh.rebuilds ++
        [{ id := s.dp.sh.nextId, pool := pool, gen := l.gen, row := row, pos := pos, unit := unit,
           purpose := .patrol pool row pos, got := [], lost := [], asked := [] }]
    (l.isPq row = true → starts wholeCheck) ∧
    (l.isPq row = false → l.isMirror row = true → starts mirrorCheck) ∧
    (l.isPq row = false → l.isMirror row = false → pos + 1 = l.s → exec (.beachcomberCheck pool row b pos) s =
      .next (s.onDp (fun e => patrolled e p l row)).work)) ∧
  (∀ (s : State) (job : Nat),
    ((s.boot.ready = false ∨ s.boot.safe = true ∨ s.env.tide = true) → exec (.secureDiscardJob job) s = .next s.work) ∧
    (s.boot.ready = true → s.boot.safe = false → s.env.tide = false →
      (s.dp.sh.reg.jobs.find? (fun j => j.id = job) = none →
        exec (.secureDiscardJob job) s = .next (s.onDp (fun e => sdSteward e job)).work) ∧
      (∀ (j : SdJob) (p : PoolRec), s.dp.sh.reg.jobs.find? (fun j => j.id = job) = some j →
        s.dp.sh.reg.pool j.pool = some p → sdEnded j = false → j.pendingMask.testBit s.env.rank = true →
        exec (.secureDiscardJob job) s = .next (s.onDp (fun e d =>
          sdSteward e job (sdReport e j p (sdMember e j p d)))).work ∧
        ∃ u : State, exec (.secureDiscardJob job) s = .next u.work ∧ (u.dp.sdPart job).listed = true ∧
          ∀ g ∈ u.dp.map.green, sdGreen s.dp j p g = false)))

/-- Programs, erases, suspends, reads and anchors of the Bedrock store. A program that ends frees its bank: a record
programmed good takes the newest sequence in that bank's copy, a record that fails is programmed again, a verified
anchor is the newest of the wheel and its checkpoint the newest, a page of staging counts and a failure sets the slot
INVALID. A sector erased good counts, a block of the slot goes on. An erase that has run 500 µs with a read waiting is
suspended up to 16 times and resumes 2 ms later at the latest. A read result without failure changes only the reads
that wait; two corrected bits refresh the region with a log record, and an uncorrectable one falls back. An anchor is
asked for 30 s after the last one and after a raised Seawall entry, and not before: its checkpoint of the entries
begins, and once that is on the map strand the anchor is programmed into the next erased sector. (R73, R74, R146,
R248, R452, R454, R455, R456, R457, R459, 13_glaze_saggar_bedrock.md) -/
def Obligations.BedrockStore : Prop :=
  (∀ (s : State) (b : Fin 2) (o : BedOp), (s.bank b.val).op = some o → o.erase = false →
    let u := s.setBank b.val { s.bank b.val with op := none }
    (∀ r, o.what = .record r →
      exec (.bedrockProgramComplete b (.record r) true) s = .next (bankStart b.val (recordDone r b.val u)) ∧
      (∃ t : State, exec (.bedrockProgramComplete b (.record r) true) s = .next t ∧
        copyOf t (regionNo r) b.val = s.bed.newest.get 0 (regionNo r)) ∧
      exec (.bedrockProgramComplete b (.record r) false) s =
        .next (bankStart b.val (bankAsk b.val (regionPrio r) false (.record r) u))) ∧
    (∀ good, o.what = .anchor →
      exec (.bedrockProgramComplete b .anchor good) s = .next (bankStart b.val (anchorDone good u))) ∧
    (∀ a, o.what = .anchor → s.bed.writing = some a → s.bed.again = false → ∃ t : State,
      exec (.bedrockProgramComplete b .anchor true) s = .next t ∧ t.bed.anchors.head? = some a) ∧
    (o.what = .staging →
      exec (.bedrockProgramComplete b .staging true) s = .next (bankStart b.val (stageProgrammed u)) ∧
      exec (.bedrockProgramComplete b .staging false) s = .next (bankStart b.val (stageFailed u)) ∧
      let i := s.image (staging s)
      (i.st = .staging → (∃ t : State, exec (.bedrockProgramComplete b .staging true) s = .next t ∧
          (t.image (staging s)).programmed = min i.accepted (min i.erased (i.programmed + 512))) ∧
        ∃ t : State, exec (.bedrockProgramComplete b .staging false) s = .next t ∧
          (t.image (staging s)).st = .invalid))) ∧
  (∀ (s : State) (b : Fin 2) (w : BedWrite) (good : Bool), (s.bank b.val).op = none →
    exec (.bedrockProgramComplete b w good) s = .next s ∧ exec (.bedrockEraseComplete b good) s = .next s) ∧
  (∀ (s : State) (a : Anchor), s.bed.writing = some a → s.bed.again = false →
    (anchorDone true s).bed.anchors.head? = some a ∧ (anchorDone true s).bed.writing = none ∧
    (anchorDone true s).dp.io.seqEnd = a.seqEnd ∧
    ∀ k eb, s.dp.map.ckptDue = some (k, eb) → (anchorDone true s).dp.map.ckptDue = none ∧
      (anchorDone true s).dp.map.ckpts.head? = some k) ∧
  (∀ (s : State) (b : Fin 2) (o : BedOp), (s.bank b.val).op = some o → o.erase = true →
    let u := s.setBank b.val { s.bank b.val with op := none }
    (o.what = .staging → exec (.bedrockEraseComplete b true) s = .next (bankStart b.val (stageErased u)) ∧
      ((s.image (staging s)).st = .staging → ∃ t : State, exec (.bedrockEraseComplete b true) s = .next t ∧
        (t.image (staging s)).erased = (s.image (staging s)).erased + 262144)) ∧
    (o.what = .anchor → s.bed.again = false → s.dp.map.ckptDue = none → exec (.bedrockEraseComplete b true) s =
      .next (bankStart b.val { u with bed := { u.bed with erasedSectors := s.bed.erasedSectors + 1 } })) ∧
    (0 < (s.bank b.val).reads → o.since + 500000 ≤ s.clk.time → o.suspends < 16 →
      exec (.bedrockEraseSuspend b) s = .next (bankStart b.val (s.setBank b.val { s.bank b.val with
        op := none, held := some { o with since := s.clk.time, suspends := o.suspends + 1 } }))) ∧
    (16 ≤ o.suspends → exec (.bedrockEraseSuspend b) s = .next s)) ∧
  (∀ (s : State) (b : Fin 2) (o : BedOp), (s.bank b.val).held = some o → (s.bank b.val).op = none →
    o.since + 2000000 ≤ s.clk.time → ∃ t : State, exec (.bedrockEraseResume b) s = .next t ∧
      (t.bank b.val).op = some { o with since := s.clk.time } ∧ (t.bank b.val).held = none ∧ t.dp = s.dp) ∧
  (∀ (s : State) (r : BedRegion) (k : Nat),
    let n := if r = .imageB then 1 else 0
    let u := bankStart n (s.setBank n { s.bank n with reads := (s.bank n).reads - 1 })
    (k ≠ 2 → exec (.bedrockReadResult r k false) s = .next u) ∧
    exec (.bedrockReadResult r 2 false) s = .next (refreshRegion r (u.log 0x0B0A 3 srcSaggar [regionCode r])) ∧
    exec (.bedrockReadResult r k true) s = .next (fallBack r (u.log 0x0B0B 4 srcSaggar [regionCode r]))) ∧
  (∀ s : State, gib ≤ strandFree s.dp .journalStrand → gib ≤ strandFree s.dp .mapStrand →
    (s.bed.deltaAt + 30000000000 ≤ s.clk.time → exec .anchorCadence s = .next (askAnchor s)) ∧
    (s.clk.time < s.bed.deltaAt + 30000000000 → s.dp.map.deltaBytes < 512 * mib → leaseLow s = false →
      exec .anchorCadence s = .next s)) ∧
  (∀ s : State, (raisedSince s = true → s.bed.writing = none → s.dp.map.ckptDue = none →
      exec .anchorAfterRaise s = .next (askAnchor s)) ∧
    (raisedSince s = false → exec .anchorAfterRaise s = .next s)) ∧
  (∀ s : State, anchorsRun s = true → s.bed.erasedSectors ≠ 0 → s.bed.writing = none → s.dp.map.ckptDue = none →
    ∃ (t : State) (k : Ckpt), askAnchor s = t ∧ t.dp.map.ckptDue = some (k, false) ∧ k.entries = s.dp.map.entries ∧
      k.upTo = s.dp.map.nextDelta ∧ t.dp.map.dirty = []) ∧
  (∀ (s : State) (k : Ckpt) (eb : Bool), s.dp.map.ckptDue = some (k, eb) → s.bed.writing = none →
    ckptSafe s.dp k = true → (anchorReady s).bed.writing = some (anchorNow s eb k.num k.first) ∧
      (anchorReady s).bed.next = s.bed.next + 1 ∧ (anchorReady s).bed.erasedSectors = s.bed.erasedSectors - 1)

/-- Engine faults and fences, the entropy source, reseeds, mask keys, vetoed gates and the timers of diagnostic
authority. The first fault of an engine is remembered and its next within 1 s fences it, with a fence event; a fenced
engine takes no more; a right known answer changes nothing; a check that an encoder fails is its fault. With Saggar
powered, the third bad entropy window in a row fails the source and the sixteenth good one after that reseeds at once;
the DRBG reseeds whenever its timer comes (R7: at most 1 s after the last time), and not from a failed source; a lane
takes a new mask key. A hold request gates its block once it is released and 10 ms later in any case; a block that is
gated stays so. A link test, an unfired injection and diagnostic authority end after 60 s, 60 s and 600 s. (R7, R182,
R399, R427, R428, R429, R437, R448, R449, R538, R539, Table 13-9) -/
def Obligations.EnginesEntropyAndHolds : Prop :=
  (∀ (s : State) (k : Engine) (n : Nat),
    let x := (engines k s.sec).get EngineSt.fresh n
    (x.fenced = true → exec (.engineFault k n) s = .next s) ∧
    (x.fenced = false → ∃ t : State, exec (.engineFault k n) s = .next t ∧
      ((engines k t.sec).get EngineSt.fresh n).last = some s.clk.time ∧
      (((engines k t.sec).get EngineSt.fresh n).fenced = true ↔
        ∃ a, x.last = some a ∧ s.clk.time ≤ a + 1000000000))) ∧
  (∀ (s : State) (n : Fin 8), exec (.engineKnownAnswerTest n true) s = .next s ∧
    exec (.engineKnownAnswerTest n false) s = exec (.engineFault .sherd n.val) s) ∧
  (∀ (s : State) (n : Fin 20),
    let x := s.sec.encoders.get EngineSt.fresh n.val
    x.fenced = false → ∃ t : State, exec (.encoderCheckFail n) s = .next t ∧
      (t.sec.encoders.get EngineSt.fresh n.val).last = some s.clk.time ∧
      ((t.sec.encoders.get EngineSt.fresh n.val).fenced = true ↔
        ∃ a, x.last = some a ∧ s.clk.time ≤ a + 1000000000)) ∧
  (∀ s : State, saggarOn s = true → blockOff .entropy s = false →
    (∃ t : State, exec (.entropyWindow false) s = .next t ∧ t.sec.badRun = s.sec.badRun + 1 ∧ t.sec.goodRun = 0 ∧
      t.sec.entropyFailed = (s.sec.entropyFailed || s.sec.badRun == 2)) ∧
    (∃ t : State, exec (.entropyWindow true) s = .next t ∧ t.sec.badRun = 0 ∧ t.sec.goodRun = s.sec.goodRun + 1 ∧
      t.sec.entropyFailed = (s.sec.entropyFailed && decide (s.sec.goodRun < 15)))) ∧
  (∀ s : State, saggarOn s = true →
    (s.sec.entropyFailed = false →
      exec .drbgReseedTimer s = .next { s with sec := { s.sec with reseedAt := s.clk.time } }) ∧
    (s.sec.entropyFailed = true → exec .drbgReseedTimer s = .next s)) ∧
  (∀ (s : State) (n : Fin 20), saggarOn s = true → blockOff (.lane n) s = false →
    (s.sec.glaze.get EngineSt.fresh n.val).fenced = false →
    exec (.laneRekey n true) s = .next (keyLane n.val s) ∧
    exec (.laneRekey n false) s = .next (faultEngine .glazeLane n.val (keyLane n.val s))) ∧
  (∀ (s : State) (n : Nat), (keyLane n s).sec.maskKeys.find n = some (Config.random s.dp.io.fresh % 2 ^ 128)) ∧
  (∀ (s : State) (b : HeldBlock), saggarOn s = true → s.sec.gated.contains b = false →
    exec (.vetoHoldRequest b true) s = .next (holdsGone (gateBlock b s)) ∧
    (blockOff b s = false → exec (.vetoHoldRequest b false) s =
      .next { s with sec := { s.sec with holds := s.sec.holds ++ [(b, s.clk.time)] } })) ∧
  (∀ (s : State) (b : HeldBlock), b ∈ (gateBlock b s).sec.gated ∧
    (∀ h ∈ (gateBlock b s).sec.holds, h.1 ≠ b) ∧ (gateBlock b s).sec.slots = s.sec.slots) ∧
  (∀ (s : State) (b : HeldBlock), s.sec.holds.any (fun h => h.1 = b && h.2 + 10000000 ≤ s.clk.time) = true →
    exec (.vetoTimeout b) s = .next (holdsGone (((gateBlock b s).onDp (fun _ => count 11 3 1)).log 0x0B04 4 srcAlwaysOn []))) ∧
  (∀ (s : State) (p : CwPort), (s.dp.link p).testLeft.isSome = true → (s.dp.link p).testAt + 60000000000 ≤ s.clk.time →
    exec (.linkTestTimeout p) s = .next (s.onDp (fun _ => stopTest p))) ∧
  (∀ (s : State) (n : Nat), ∃ t : State, exec (.injectionArmTimeout n) s = .next t ∧ t.dp = s.dp ∧
    ∀ a ∈ t.integ.arms, a.id = n → a.st = .armed → a.fired = 0 → s.clk.time < a.since + 60000000000) ∧
  (∀ s : State, s.dp.mb.diag.isSome = true → s.dp.mb.diagAt + 600000000000 ≤ s.clk.time →
    ∃ t : State, exec .diagAuthIdleTimeout s = .next t ∧ t.dp.mb.diag = none)

/-- DRAM corrections, uncorrectable reads by region, and the patrol. On a channel that serves accesses: a correction
in a diagnostic window is counted apart and any other one against its component; an uncorrectable read is logged with
its region's number and, outside the diagnostic window, counted and timed; the first four within 1 h have the action
of their region in Table 5-7, and the fifth fails the channel and the device. A lost pending mapping takes its place
from its delta record again. The patrol, in its turn alone, reads the next burst of the channel in order of address; a
correction is counted against its component, in the diagnostic window apart, and written back unless another write
came between; a window with an armed injection is skipped; and at the end of a pass, after the channel's last burst, a
component with corrections in more than 1 % of the bursts fails the channel. (R169, R170, R171, R172, R173, R174,
R183, Table 5-7, 05_stored_data_integrity.md) -/
def Obligations.DramReadsAndPatrol : Prop :=
  (∀ (s : State) (c : DramCh) (r k b : Nat), chanRuns s c.val = true →
    (∃ t : State, exec (.dramCorrectedRead c r k b true) s = .next t ∧ t.integ.diagFixed = s.integ.diagFixed + 1 ∧
      t.dram = s.dram ∧ t.dp = s.dp) ∧
    (∃ t : State, exec (.dramCorrectedRead c r k b false) s = .next t ∧
      (t.dram.chan c.val).fixes.get 0 (compKey r k) = (s.dram.chan c.val).fixes.get 0 (compKey r k) + 1 ∧
      t.integ = s.integ)) ∧
  (∀ (s : State) (c : DramCh) (g : DramRegion), chanRuns s c.val = true → g ≠ .diagnostic →
    let l := (s.dram.chan c.val).bad.filter (fun t => s.clk.time < t + 3600000000000) ++ [s.clk.time]
    let u := (((s.log 0x0504 4 srcDram [c.val, DramRegion.code g]).onChan c.val (fun x => { x with bad := l })).onDp
      (fun _ => count 12 (4 * c.val + 1) 1))
    (l.length ≤ 4 → exec (.dramUncorrectableRead c g) s = .next (dramAction g u)) ∧
    (4 < l.length → exec (.dramUncorrectableRead c g) s = .next (failDram c.val 1 u))) ∧
  (∀ (s : State) (c : DramCh), chanRuns s c.val = true → ∃ t : State,
    exec (.dramUncorrectableRead c .diagnostic) s = .next t ∧ t.integ.diagBad = s.integ.diagBad + 1 ∧ t.dram = s.dram) ∧
  (∀ (s : State) (c k : Nat), s.boot.fatal = false →
    (failDram c k s).boot.fatal = true ∧ ((failDram c k s).dram.chan c).failed = true ∧
    (failDram c k s).boot.code = 0x60) ∧
  (∀ (s : State) (row : Nat), (dramAction (.readOffsets row) s).dp.med.rows.map Row.id = s.dp.med.rows.map Row.id ∧
    dramAction .firmware s = faultTrigger .memory s) ∧
  (∀ (d : Dp) (pool lb : Nat), ∀ g ∈ (rebuildPending pool lb d).map.green, ∃ g0 ∈ d.map.green, g = g0 ∨
    g = { g0 with loc := (d.map.deltas.find? (fun x => x.kind = .pending && x.pool = g0.pool &&
      x.localBlk = g0.localBlk && x.seqn = g0.seqn)).bind Delta.loc }) ∧
  (∀ (s : State) (c : DramCh) (r : Nat) (k : Option Nat) (i : Bool), chanRuns s c.val = true → s.boot.fatal = false →
    let n := (s.dram.chan c.val).patrolRead
    let u := s.onChan c.val (fun x => { x with patrolRead := n + 1, patrolPast := 0 })
    (patrolTurn s c.val = false → exec (.dramPatrol c r k i) s = .next s) ∧
    (patrolTurn s c.val = true →
      (windowAt s c.val ≤ 64 * n → armedOn s c.val = true → exec (.dramPatrol c r k i) s = .next (endPass c.val s)) ∧
      ((64 * n < windowAt s c.val ∨ armedOn s c.val = false) →
        (64 * (n + 1) < chanBytes s c.val → exec (.dramPatrol c r none i) s = .next u) ∧
        (chanBytes s c.val ≤ 64 * (n + 1) → exec (.dramPatrol c r none i) s = .next (endPass c.val u))) ∧
      (∀ q, 64 * n < windowAt s c.val → ∃ t : State, exec (.dramPatrol c r (some q) i) s = .next t ∧
        (t.dram.chan c.val).patrolRead = n + 1 ∧ t.integ = s.integ ∧
        (t.dram.chan c.val).patrolFix.get 0 (compKey r q) = (s.dram.chan c.val).patrolFix.get 0 (compKey r q) + 1 ∧
        (i = false → t.dp.io.out.getLast? = some (.dram c.val (.writeBack r q n)))) ∧
      (∀ q, windowAt s c.val ≤ 64 * n → armedOn s c.val = false → 64 * (n + 1) < chanBytes s c.val →
        ∃ t : State, exec (.dramPatrol c r (some q) i) s = .next t ∧ t.integ.diagFixed = s.integ.diagFixed + 1 ∧
          (t.dram.chan c.val).patrolFix = (s.dram.chan c.val).patrolFix ∧
          (i = false → ∀ f ∈ t.integ.dramBad, ¬ (f.unit = c.val ∧ f.address = 64 * n - windowAt s c.val))))) ∧
  (∀ (s : State) (c : Nat), (s.dram.chan c).patrolFix.any (fun f => (s.dram.chan c).patrolRead < 100 * f.2) = false →
    ((endPass c s).dram.chan c).patrolRead = 0 ∧ ((endPass c s).dram.chan c).failed = (s.dram.chan c).failed)

/-- DRAM training and its criterion, the common rate, the order of requests, oscillator drift, refresh and page
closing. The last channel that trains gives every channel the highest rate of R468 that all of them pass, trained; a
channel without a readable SPD, of an unknown configuration, or a set with no common rate means safe mode with code
0x41. A rate passes with windows of 0.30 UI for every bit and 0.35 UI for CA, and its point is the centre of each eye.
A channel serves a request of classes 2 to 4 that 64 younger ones have passed, or that has waited 4 us in class 2 or
20 us in the others, first, else the highest class, a row hit before others. A refresh due under a burst on its bank
is postponed up to four times and then splits the burst; under a burst on another bank one more is pulled in up to
four; without a burst what is owed is issued, and nothing is owed after. A hot rank refreshes twice as often until it
is cool. An oscillator reading within 1/8 UI adjusts the delays; above it the channel is trained again, and where that
fails every channel takes the shadow rate. A row idle for DRAM_PAGE_IDLE, in whole cycles, is closed, not before, and
none by this command where that is 0. (R466, R467, R468, R470, R471, R472, R474, R475, R476, R477, R478,
14_dram_scratchpads.md) -/
def Obligations.DramRatesAndRefresh : Prop :=
  (∀ (s : State) (c : DramCh) (spd : Option Spd) (l : List DramSweep),
    let x := s.dram.chan c.val
    let u := s.onChan c.val (fun x => { x with spd := spd, passing := some (l.filterMap trainPoint) })
    s.boot.fw = true → s.pwr.porHeld = false → x.resetLow = false → x.trained = false → s.env.tide = false →
    ((spd = none ∨ ∃ p, spd = some p ∧ spdBytes p = 0) →
      exec (.dramChannelTrained c spd l) s = .next (safeMode 0x41 u)) ∧
    (∀ p, spd = some p → spdBytes p ≠ 0 →
      u.dram.chans.all (fun y => y.2.spd.all (fun q => q.density = p.density && q.ranks = p.ranks)) = true →
      (u.dram.chans.all (fun y => y.2.passing.isSome) = false → exec (.dramChannelTrained c spd l) s = .next u) ∧
      (u.dram.chans.all (fun y => y.2.passing.isSome) = true →
        (dramRate u = none → exec (.dramChannelTrained c spd l) s = .next (safeMode 0x41 u)) ∧
        (∀ r, dramRate u = some r → exec (.dramChannelTrained c spd l) s =
          .next (recoveryStage ((setRate r (nextLower r) u).log 0x0C01 1 srcDram [r])).work)))) ∧
  (∀ (s : State) (r q : Nat), (setRate r q s).dram.rate = r ∧ ∀ y ∈ (setRate r q s).dram.chans,
    y.2.rate = r ∧ y.2.shadow = q ∧ y.2.trained = true) ∧
  (∀ (s : State) (r : Nat), dramRate s = some r → r ∈ dramSteps ∧ r ≤ s.param 0x0C01 ∧
    ∀ c < 4, (∃ p, (s.dram.chan c).spd = some p ∧ r ≤ p.maxRate ∧ (p.ranks = 2 → r ≤ 6400)) ∧
      ∃ l, (s.dram.chan c).passing = some l ∧ r ∈ l.map DramPoint.rate) ∧
  (∀ (x : DramSweep) (p : DramPoint), trainPoint x = some p → p.rate = x.rate ∧ 2240 ≤ 100 * x.ca ∧
    x.read.length = 80 ∧ x.write.length = 80 ∧ p.read.length = 80 ∧ p.write.length = 80 ∧ p.vrefDq.length = 20 ∧
    ∀ q ∈ (x.read ++ x.write).zip (p.read ++ p.write), ∃ y ∈ q.1, y.vref = q.2.1 ∧ 1920 ≤ 100 * (y.last - y.first) ∧
      q.2.2 = (y.first + y.last) / 2) ∧
  (∀ (x : DChan) (q : List DramReq) (r : DramReq), nextDram x q = some r → r ∈ q ∧
    let due (y : DramReq) : Prop := 2 ≤ y.cls ∧
      (64 ≤ y.passed ∨ (y.cls = 2 ∧ 4000 ≤ y.waited) ∨ (y.cls ≠ 2 ∧ 20000 ≤ y.waited))
    ((∃ y ∈ q, due y) → due r) ∧
    ((∀ y ∈ q, ¬ due y) → ∀ y ∈ q, r.cls ≤ y.cls ∧
      (y.cls = r.cls → rowHit x y = true → rowHit x r = true))) ∧
  (∀ (s : State) (c : DramCh) (r b : Nat), chanRuns s c.val = true →
    let n := (s.dram.chan c.val).banks.get 0 (bankKey r b)
    (n < 4 → ∃ t : State, exec (.dramRefreshDue c r b (some (bankKey r b))) s = .next t ∧
      (t.dram.chan c.val).banks.get 0 (bankKey r b) = n + 1 ∧ t.dp = s.dp) ∧
    (4 ≤ n → exec (.dramRefreshDue c r b (some (bankKey r b))) s =
      .next (refreshBank c.val r b 1 (s.log 0x0C04 0 srcDram [c.val, r, b]))) ∧
    (∀ k, k ≠ bankKey r b → -4 < n → ∃ t : State, exec (.dramRefreshDue c r b (some k)) s = .next t ∧
      (t.dram.chan c.val).banks.get 0 (bankKey r b) = n - 1 ∧
      (∀ o ∈ (t.dram.chan c.val).openRows, ¬ (o.1 / 32 = r ∧ o.1 % 4 = b)) ∧
      t.dp.io.out = s.dp.io.out ++ [.dram c.val (.precharge r b), .dram c.val (.refresh r b), .dram c.val (.refresh r b)]) ∧
    (∃ t : State, exec (.dramRefreshDue c r b none) s = .next t ∧ ∀ x ∈ (t.dram.chan c.val).banks, x.2 < 0)) ∧
  (∀ (s : State) (c : DramCh) (r : Nat), chanRuns s c.val = true →
    (∃ t : State, exec (.dramTemperatureRead c r true) s = .next t ∧ r ∈ (t.dram.chan c.val).hot) ∧
    (∃ t : State, exec (.dramTemperatureRead c r false) s = .next t ∧ r ∉ (t.dram.chan c.val).hot)) ∧
  (∀ (s : State) (c : DramCh) (r b : Nat), chanRuns s c.val = true →
    let x := s.dram.chan c.val
    let key := r * 32 + b
    (∀ row at_, x.openRows.find key = some (row, at_) → s.param 0x0C02 ≠ 0 →
      ((s.param 0x0C02 * x.rate + 1999) / 2000 ≤ (s.clk.time - at_) * x.rate / 2000 →
        ∃ t : State, exec (.dramPageIdleClose c r b) s = .next t ∧ (t.dram.chan c.val).openRows.find key = none ∧
          t.dp.io.out = s.dp.io.out ++ [.dram c.val (.precharge r b)]) ∧
      ((s.clk.time - at_) * x.rate / 2000 < (s.param 0x0C02 * x.rate + 1999) / 2000 →
        exec (.dramPageIdleClose c r b) s = .next s)) ∧
    (s.param 0x0C02 = 0 → exec (.dramPageIdleClose c r b) s = .next s)) ∧
  (∀ (s : State) (c : DramCh) (n : Nat) (w : DramSweep), chanRuns s c.val = true → s.pwr.state ∈ [.flood, .slack] →
    (n ≤ 8 → ∃ t : State, exec (.dramOscillatorRead c n w) s = .next t ∧ (t.dram.chan c.val).drift64 = n ∧
      t.dram.rate = s.dram.rate) ∧
    (∀ p, 8 < n → trainPoint { w with rate := (s.dram.chan c.val).rate } = some p →
      ∃ t : State, exec (.dramOscillatorRead c n w) s = .next t ∧ (t.dram.chan c.val).drift64 = 0 ∧
        t.dram.rate = s.dram.rate ∧ ∀ l, (t.dram.chan c.val).passing = some l → p ∈ l) ∧
    (8 < n → trainPoint { w with rate := (s.dram.chan c.val).rate } = none →
      ∃ t : State, exec (.dramOscillatorRead c n w) s = .next t ∧ t.dram.rate = (s.dram.chan c.val).shadow))

/-- Scratchpad corrections, losses, hand-overs, access faults and retention. On a bank that may be accessed a
correction counts (to 0xFFF), a correction in the diagnostic window counts apart, and an uncorrectable read has the
action of its region in Table 5-8; a record of the ring that is lost is replaced by RECORD_LOST under its sequence. A
movable, active bank goes to the other staging class when that class has waited and the bank has held no live line for
10 ms of device time, at once when it holds none and otherwise once it holds none, and after 5 ms the hand-over is
abandoned; no other bank changes its owner. A master that Table 14-5 does not give the bank's class gets a bus fault
and a log record, and so does one of the normal world at Saggar's resources. Of the accesses that wait at a bank the
Last Tide sequencer's goes first and then a Kiln stager's. In Neap an access wakes a retained bank, which returns
after 50 µs without one. (R175, R177, R178, R183, R425, R482, R483, R484, R488, Table 5-8, Table 14-5, Table 14-6) -/
def Obligations.ScratchpadBanks : Prop :=
  (∀ (s : State) (b : Fin 32) (a : Nat) (i : Bool), padRuns s b.val = true → ¬(b.val = 31 ∧ a < padWindow) →
    ∃ t : State, exec (.scratchpadCorrectedRead b a i) s = .next t ∧
      (t.pad b.val).corrected = min 0xFFF ((s.pad b.val).corrected + 1) ∧ (t.pad b.val).owner = (s.pad b.val).owner ∧
      t.integ = s.integ) ∧
  (∀ (s : State) (a : Nat) (i : Bool), padRuns s 31 = true → a < padWindow →
    ∃ t : State, exec (.scratchpadCorrectedRead 31 a i) s = .next t ∧ t.pads = s.pads ∧
      t.integ.diagFixed = s.integ.diagFixed + 1) ∧
  (∀ (s : State) (b : Fin 32) (g : PadRegion), padRuns s b.val = true →
    (g ≠ .diagnostic → exec (.scratchpadUncorrectableRead b g) s = .next (padAction g
      ((s.log 0x0D04 4 srcFirmware [b.val, PadRegion.code g]).onDp (fun _ => count 13 1 1)))) ∧
    (g = .diagnostic → ∃ t : State, exec (.scratchpadUncorrectableRead b g) s = .next t ∧
      t.integ.diagBad = s.integ.diagBad + 1 ∧ t.pads = s.pads)) ∧
  (∀ (e : Env) (d : Dp) (q : Nat), (loseRecord e q d).io.ring.map LogRec.seqn = d.io.ring.map LogRec.seqn ∧
    ∀ r ∈ (loseRecord e q d).io.ring, r.seqn = q → r.code = 0 ∧ r.sev = 4) ∧
  (∀ (s : State) (b : Fin 32) (k : Nat) (w : Bool), movableBank b.val = true → (s.pad b.val).st = .active →
    s.boot.fw = true → s.env.tide = false →
    let idle := (s.pad b.val).freeAt.any (fun t => t + 10000000 ≤ s.clk.time)
    ((s.pad b.val).moving = none → idle = true →
      exec (.bankHandover b true 0) s = .next (moveBank b.val (otherStage (s.pad b.val).owner) s) ∧
      (k ≠ 0 → ∃ t : State, exec (.bankHandover b true k) s = .next t ∧ (t.pad b.val).owner = (s.pad b.val).owner ∧
        (t.pad b.val).moving = some (otherStage (s.pad b.val).owner, s.clk.time))) ∧
    ((s.pad b.val).moving = none → (w = false ∨ idle = false) →
      ∃ t : State, exec (.bankHandover b w k) s = .next t ∧ (t.pad b.val).owner = (s.pad b.val).owner ∧
        (t.pad b.val).moving = none ∧
        (t.pad b.val).freeAt = (if k = 0 then (s.pad b.val).freeAt.or (some s.clk.time) else none)) ∧
    (∀ o at_, (s.pad b.val).moving = some (o, at_) → s.clk.time < at_ + 5000000 →
      exec (.bankHandover b w 0) s = .next (moveBank b.val o s))) ∧
  (∀ (s : State) (n : Nat) (o : Owner), ((moveBank n o s).pad n).owner = o ∧ ((moveBank n o s).pad n).moving = none ∧
    ∀ k, k ≠ n → (moveBank n o s).pad k = s.pad k) ∧
  (∀ (s : State) (b : Fin 32) (w : Bool) (k : Nat), movableBank b.val = false → exec (.bankHandover b w k) s = .next s) ∧
  (∀ (s : State) (b : Fin 32) (o : Owner) (t0 : Nat), (s.pad b.val).moving = some (o, t0) → t0 + 5000000 ≤ s.clk.time →
    ∃ t : State, exec (.bankHandoverTimeout b) s = .next t ∧ (t.pad b.val).moving = none ∧
      (t.pad b.val).owner = (s.pad b.val).owner ∧ t.dp = s.dp) ∧
  (∀ (s : State) (b : Fin 32) (m : Nat), s.pwr.porHeld = false →
    ((mastersOf (s.pad b.val).owner).contains m = true → exec (.bankAccessFault (.bank b) m) s = .next s) ∧
    ((mastersOf (s.pad b.val).owner).contains m = false → exec (.bankAccessFault (.bank b) m) s =
      .next ((s.out (.busFault m)).log 0x0D05 4 srcFirmware [b.val, m]))) ∧
  (∀ (s : State) (a m : Nat), s.pwr.porHeld = false →
    (normalWorld.contains m = true → exec (.bankAccessFault (.saggar a) m) s =
      .next (((s.out (.busFault m)).log 0x0B03 4 srcSaggar [m, a]).onDp (fun _ => count 11 2 1))) ∧
    (normalWorld.contains m = false → exec (.bankAccessFault (.saggar a) m) s = .next s)) ∧
  (∀ (turn : Nat) (q : List PadReq) (r : PadReq), nextPad turn q = some r → r ∈ q ∧
    ((∃ y ∈ q, y.master = 14) → r.master = 14) ∧
    ((∀ y ∈ q, y.master ≠ 14) → (∃ y ∈ q, y.master = 8) → r.master = 8)) ∧
  (∀ (s : State) (b : Fin 32), s.pwr.state = .neap →
    ((s.pad b.val).st = .retention → ∃ t : State, exec (.bankRetentionWake b) s = .next t ∧ (t.pad b.val).st = .active ∧
      (t.pad b.val).lastUse = s.clk.time) ∧
    ((s.pad b.val).st = .active → (s.pad b.val).lastUse + 50000 ≤ s.clk.time →
      ∃ t : State, exec (.bankRetentionReturn b) s = .next t ∧ (t.pad b.val).st = .retention))

/-- Samples of a control loop, and the test port. A slot samples only in Flood, Slack and Neap, once for each instant;
sampled, its count of samples rises by one (modulo 2^32) and the instant is kept. In a CLOSED slot a valid input puts
out what the law gives, within its limits; an input that is not valid has the slot HOLD, and the sixteenth valid one
after that closes it again. The sample that re-closes a slot puts its held output out again, within the limits. TAP
reset and IDCODE, BYPASS and SAMPLE stop driving the pins, IDCODE shifts 0x1740024F out, least significant bit first,
BYPASS a 0 and then its bit, and EXTEST drives its bits. (R402, R403, R404, R406, R409, R412, R568,
12_tidegauge_breakwater.md, 17_faults_strandline.md) -/
def Obligations.LoopsSampleAndTheTestPort : Prop :=
  (∀ (s : State) (n : Fin 32) (pv : Option (BitVec 32)), gaugeRuns s = false → exec (.loopSample n pv) s = .next s) ∧
  (∀ (s : State) (n : Fin 32) (pv : Option (BitVec 32)) (t : Nat), gaugeRuns s = true →
    (s.tide.loop n.val).st ≠ .unused → dueAt s.clk.time n.val (s.tide.loop n.val).periodUs = some t →
    ((s.tide.loop n.val).lastAt.any (fun p => t ≤ p) = true → exec (.loopSample n pv) s = .next s) ∧
    ((s.tide.loop n.val).lastAt.any (fun p => t ≤ p) = false → ∃ u : State, exec (.loopSample n pv) s = .next u ∧
      (u.tide.loop n.val).samples = ((s.tide.loop n.val).samples + 1) % 2 ^ 32 ∧ (u.tide.loop n.val).lastAt = some t ∧
      (u.tide.loop n.val).st = ((sampleLoop n.val (inputOf s n.val pv) s).tide.loop n.val).st)) ∧
  (∀ (s : State) (n : Nat) (v : Int), (s.tide.loop n).st = .closed →
    let l := s.tide.loop n
    let top := if l.group != 0 && !l.selected then some (groupOut s.tide n) else none
    (sampleLoop n (some v) s).tide.loop n = (law l top v).loop ∧
    ((sampleLoop n none s).tide.loop n).st = .hold ∧ ((sampleLoop n none s).tide.loop n).valid = 0) ∧
  (∀ (s : State) (n : Nat) (v : Int), (s.tide.loop n).st = .hold →
    (((sampleLoop n (some v) s).tide.loop n).st = .closed ↔ 15 ≤ (s.tide.loop n).valid) ∧
    ((sampleLoop n none s).tide.loop n).valid = 0) ∧
  (∀ (l : Loop) (top : Option Int) (pv : Int), l.outMin ≤ l.outMax → (∀ g, top = some g → l.outMin ≤ g) →
    l.outMin ≤ (law l top pv).loop.output ∧ (law l top pv).loop.output ≤ l.outMax ∧
    (∀ g, top = some g → (law l top pv).loop.output ≤ g) ∧
    (l.reclose = true → top = none → l.outMin ≤ l.output → l.output ≤ l.outMax →
      (law l top pv).loop.output = l.output) ∧
    (law l top pv).loop.reclose = false) ∧
  (∀ s : State, s.pwr.porHeld = false →
    (∃ t : State, exec (.tapAccess .reset) s = .next t ∧ t.tap.drive = none ∧ t.dp = s.dp) ∧
    (∃ (t : State) (l : List Bool), exec (.tapAccess .idcode) s = .next t ∧ t.tap.drive = none ∧
      t.dp.io.out = s.dp.io.out ++ [.tdo l] ∧ l.length = 32 ∧ ∀ i < 32, l[i]? = some (Nat.testBit 0x1740024F i)) ∧
    (∀ b : Bool, ∃ t : State, exec (.tapAccess (.bypass b)) s = .next t ∧ t.tap.drive = none ∧
      t.dp.io.out = s.dp.io.out ++ [.tdo [false, b]]) ∧
    (∃ t : State, exec (.tapAccess .sample) s = .next t ∧ t.tap.drive = none ∧
      t.dp.io.out = s.dp.io.out ++ [.tdo (Config.boundaryScan s.dp.io.fresh)]) ∧
    (∀ l : List Bool, ∃ t : State, exec (.tapAccess (.extest l)) s = .next t ∧ t.tap.drive = some l ∧
      t.dp.io.out = s.dp.io.out ++ [.pins l]))

/-- Power-on reset, loss of VIN, insertion and its faults, trips of the gate, and the supply rails. VIN above 2.5 V
with power-on reset held starts device time at 0, raises BOOT_COUNT by one, samples the straps and releases the reset;
below 2.5 V nothing changes. Loss of VIN, or its collapse during Last Tide, holds the reset, stops device time at 0,
keeps the UTC of the loss where it was pinned, and leaves no key slot, while the anchors of Bedrock stay. An insertion
turns the gate on, and the bus's rise from 0.5 V to 2.0 V, on device time, measures the capacitance; not done in 4 s
it is a fault that turns the gate off, and 1 s after it the insertion is tried again, up to three times. A trip with
the gate on turns it off and triggers Last Tide. A VIN that recovers while the core waits for it starts the core. A
rail that comes into range lets a bring-up that waits for it go on; 500 ms after the start a rail still out of range
means safe mode with code 0x44 or 0x45. (R139, R491, R492, R493, R494, R509, R520, R522, R571, Table 15-3,
15_power_holdup_last_tide.md) -/
def Obligations.SupplyAndHotSwap : Prop :=
  (∀ (s : State) (st : Straps) (f : StartFacts) (v : Nat), s.pwr.porHeld = true →
    (2500 ≤ v → ∃ t : State, exec (.powerOnReset st f v) s = .next t ∧ t.clk.time = 0 ∧
      t.clk.boot = s.clk.boot + 1 ∧ t.pwr.porHeld = false ∧ t.boot.straps = st ∧ t.pwr.vinMv = v) ∧
    (v < 2500 → exec (.powerOnReset st f v) s = .next s)) ∧
  (∀ (s : State) (w : Nat),
    (s.pwr.porHeld = false → s.pwr.lt = none → exec .lossOfVin s = .next (loseVin s)) ∧
    (s.pwr.lt ≠ none → exec (.vinCollapse w) s = .next (loseVin (lastTideEnds (some w) s)))) ∧
  (∀ s : State, let t := loseVin s
    t.pwr.porHeld = true ∧ t.clk.time = 0 ∧ t.clk.boot = s.clk.boot ∧ t.clk.pin = none ∧ t.sec.slots = [] ∧
    t.boot.ready = false ∧ t.boot.fw = false ∧ t.bed.anchors = s.bed.anchors ∧ t.tap.drive = none ∧
    (∀ p, s.clk.pin = some p → t.clk.lostAt = some ((p + s.clk.time) % 2 ^ 64))) ∧
  (∀ (s : State) (v b : Nat), s.pwr.porHeld = true → 2500 < v → s.pwr.insertAt = none → s.pwr.faultAt = none →
    s.pwr.vsupMv < 2400 → ∃ t : State, exec (.hotSwapInsertion v b) s = .next t ∧ t.pwr.vsupMv = v ∧
      t.pwr.gateOn = true ∧ t.pwr.insertAt = some s.clk.time ∧ t.pwr.tries = 0 ∧ t.dp = s.dp) ∧
  (∀ (s : State) (v b t0 t1 : Nat), s.pwr.porHeld = true → s.pwr.insertAt = some t0 → s.pwr.gateOn = true →
    (s.pwr.riseAt = none → 500 ≤ b → ∃ t : State, exec (.hotSwapInsertion v b) s = .next t ∧
      t.pwr.riseAt = some s.clk.time ∧ t.pwr.cap = s.pwr.cap) ∧
    (s.pwr.riseAt = some t1 → s.pwr.cap = none → 2000 ≤ b → ∃ t : State, exec (.hotSwapInsertion v b) s = .next t ∧
      t.pwr.cap = some ((if s.boot.straps.hsIlim = true then 4 else 2) * ((s.clk.time - t1) / 1000) * 2 / 3, s.clk.time))) ∧
  (∀ (s : State) (t0 : Nat), s.pwr.insertAt = some t0 →
    (t0 + 4000000000 ≤ s.clk.time → ∃ t : State, exec .insertionTimeout s = .next t ∧ t.pwr.gateOn = false ∧
      t.pwr.insertAt = none ∧ t.pwr.faultAt = some s.clk.time ∧ t.pwr.tries = s.pwr.tries + 1) ∧
    (s.clk.time < t0 + 4000000000 → exec .insertionTimeout s = .next s)) ∧
  (∀ (s : State) (t0 : Nat), s.pwr.faultAt = some t0 → t0 + 1000000000 ≤ s.clk.time →
    ∃ t : State, exec .insertionRetry s = .next t ∧ t.pwr.faultAt = none ∧
      (s.pwr.tries < 3 → t.pwr.gateOn = true ∧ t.pwr.insertAt = some s.clk.time) ∧
      (3 ≤ s.pwr.tries → t.pwr.gateOn = s.pwr.gateOn)) ∧
  (∀ s : State, s.pwr.gateOn = true → s.pwr.porHeld = false →
    exec .circuitBreaker s = .next (gateTrip ((s.log 0x0E04 5 srcAlwaysOn [1]).onDp (fun _ => count 14 2 1))) ∧
    exec .fastTrip s = .next (gateTrip ((s.log 0x0E04 5 srcAlwaysOn [2]).onDp (fun _ => count 14 2 1))) ∧
    exec .reverseCurrent s = .next (gateTrip s)) ∧
  (∀ s : State, (gateTrip s).pwr.gateOn = false) ∧
  (∀ (s : State) (v : Nat) (f : StartFacts), s.param 0x0E03 + 100 < v → s.pwr.porHeld = false → s.pwr.waiting = false →
    ∃ t : State, exec (.vinRecovery v f) s = .next t ∧ t.pwr.vinLow = false ∧ t.pwr.vsupLow = false ∧
      t.pwr.vinMv = v ∧ t.dp = s.dp) ∧
  (∀ (s : State) (v : Nat) (f : StartFacts), s.param 0x0E03 + 100 < v → s.pwr.porHeld = false → s.pwr.waiting = true →
    (tideOutcome s.pwr = some .vin ∨ tideOutcome s.pwr = some .hsVsup) → exec (.vinRecovery v f) s =
      .next (startCore false false f { s with pwr := { s.pwr with vinMv := v, vinLow := false, vsupLow := false } })) ∧
  (∀ s : State, s.pwr.porHeld = false →
    (s.boot.railWait = true → s.pwr.vddqdOk = true → exec (.supplyRailInRange true) s =
      .next (bringUp { s with
        pwr := { s.pwr with vccqfOk := true }
        dp := { s.dp with lane := { s.dp.lane with lastCheck := s.clk.time, highAt := s.clk.time } } }).work) ∧
    (s.boot.railWait = false → ∃ t : State, exec (.supplyRailInRange false) s = .next t ∧ t.pwr.vddqdOk = true)) ∧
  (∀ s : State, s.boot.railWait = true → s.boot.startAt + 500000000 ≤ s.clk.time →
    (s.pwr.vccqfOk = false → exec (.railTimeout true) s =
      .next (safeMode 0x45 { s with boot := { s.boot with railWait := false } })) ∧
    (s.pwr.vddqdOk = false → exec (.railTimeout false) s =
      .next (safeMode 0x44 { s with boot := { s.boot with railWait := false } })))

/-- The triggers of Last Tide, its start, and what follows its end. Every trigger of Table 15-8 records its cause and,
where the core runs and no Last Tide does, starts Last Tide with that trigger; while one runs it counts towards the
outcome; with power-on reset held, in Ebb, or with the core stopped it starts nothing. At its start Last Tide leaves
the ring, ends a sag test and writes LT_START. When it is complete the outcome is that of the most severe trigger: a
thermal trip enters Ebb tripped, CORE_RST_N holds the core until the pin is high, a watchdog or memory fault and an
activation start the core, and a supply trigger waits for the supply. In Ebb CORE_RST_N low is noted as a wake event.
The watchdog acts once it has not been served for 100 ms. A third fault start within 10 min is fatal instead. A
firmware trial still set 120 s after the core start triggers as an activation. (R463, R507, R509, R510, R511, R512,
R513, R541, Table 15-8, 15_power_holdup_last_tide.md) -/
def Obligations.LastTideTriggersAndOutcome : Prop :=
  (∀ (s : State) (v : Nat),
    (v < s.param 0x0E03 → s.pwr.porHeld = false → exec (.vinBelowVPlp v) s =
      .next (tideTrigger .vin { s with pwr := { s.pwr with vinMv := v, vinLow := true } })) ∧
    (v < s.param 0x0E03 → exec (.hsVsupBelowVPlp v) s =
      .next (tideTrigger .hsVsup { s with pwr := { s.pwr with vsupMv := v, vsupLow := true } })) ∧
    (s.param 0x0E03 ≤ v → exec (.vinBelowVPlp v) s = .next s ∧ exec (.hsVsupBelowVPlp v) s = .next s)) ∧
  (∀ s : State, exec .plpNLow s = .next (tideTrigger .plp { s with pwr := { s.pwr with plpLow := true } }) ∧
    (s.pwr.state ≠ .ebb → exec .coreRstNLow s =
      .next (tideTrigger .coreRst { s with pwr := { s.pwr with coreRstLow := true } })) ∧
    (s.pwr.state = .ebb → s.pwr.porHeld = false → ∃ t : State, exec .coreRstNLow s = .next t ∧ t.pwr.coreRstLow = true ∧
      EbbWake.coreRst ∈ t.pwr.wakes ∧ t.dp = s.dp)) ∧
  (∀ s : State, s.pwr.porHeld = false → s.pwr.state ≠ .ebb → s.pwr.waiting = false → exec .thermalTrip s =
    .next (tideTrigger .thermal (State.log { s with pwr := { s.pwr with tj := max s.pwr.tj 1150 } } 0x0E0A 5 srcAlwaysOn []))) ∧
  (∀ s : State, s.boot.fw = true → s.pwr.lt = none → s.pwr.porHeld = false →
    (s.pwr.watchAt + 100000000 ≤ s.clk.time →
      exec .watchdogExpiry s = .next (faultTrigger .watchdog (s.log 0x0E0C 4 srcAlwaysOn []))) ∧
    (s.clk.time < s.pwr.watchAt + 100000000 → exec .watchdogExpiry s = .next s) ∧
    (s.bed.boot.trial = true → s.boot.startAt + 120000000000 ≤ s.clk.time →
      exec .trialRestart s = .next (tideTrigger .activate s))) ∧
  (∀ (s : State) (t : Trigger),
    (s.pwr.porHeld = true ∨ s.pwr.state = .ebb ∨ s.pwr.waiting = true ∨ s.pwr.coreHeld = true → tideTrigger t s = s) ∧
    (s.pwr.porHeld = false → s.pwr.state ≠ .ebb → s.pwr.waiting = false → s.pwr.coreHeld = false →
      (s.pwr.lt ≠ none → t ∈ (tideTrigger t s).pwr.triggers ∧ (tideTrigger t s).dp = s.dp) ∧
      (s.pwr.lt = none → (tideTrigger t s).pwr.lt = some s.clk.time ∧ (tideTrigger t s).pwr.triggers = [t] ∧
        (tideTrigger t s).pwr.state = .lastTide ∧ (tideTrigger t s).pwr.sag = none ∧
        (tideTrigger t s).dp.ring.exited = true ∧ (tideTrigger t s).sec.holds = []))) ∧
  (∀ (s : State) (t : Trigger), s.pwr.lt = none →
    2 ≤ (s.pwr.faultStarts.filter (fun x => s.clk.time < x + 600000000000)).length →
    faultTrigger t s = deviceFatal 2 s) ∧
  (∀ (s : State) (f : StartFacts), s.pwr.lt ≠ none →
    let u := (tideAnchor (lastTideEnds none s)).log 0x0E08 2 srcAlwaysOn []
    let c := clearCore false u
    (tideOutcome s.pwr = some .thermal → exec (.lastTideComplete f) s =
      .next ((enterEbb { u with pwr := { u.pwr with tripped := true } }).log 0x0B05 2 srcAlwaysOn [])) ∧
    (tideOutcome s.pwr = some .coreRst → exec (.lastTideComplete f) s =
      .next (heldStart f { c with pwr := { c.pwr with lt := none, coreHeld := true } })) ∧
    (tideOutcome s.pwr = some .watchdog ∨ tideOutcome s.pwr = some .memory → exec (.lastTideComplete f) s =
      .next (startCore false false f (noteFault c))) ∧
    (tideOutcome s.pwr = some .activate → exec (.lastTideComplete f) s = .next (startCore false false f c)) ∧
    (tideOutcome s.pwr ∈ [some .vin, some .hsVsup, some .plp] → exec (.lastTideComplete f) s =
      .next (supplyStart f { c with pwr := { c.pwr with lt := none, waiting := true } }))) ∧
  (∀ s : State, (enterEbb s).pwr.state = .ebb ∧ (enterEbb s).clk.ebbCount = 0 ∧ (enterEbb s).dp.ring.exited = false) ∧
  (∀ (s : State) (f : StartFacts),
    (s.pwr.waiting = false → ∃ t : State, exec (.plpNHigh f) s = .next t ∧ t.pwr.plpLow = false ∧ t.dp = s.dp) ∧
    (s.pwr.waiting = true → tideOutcome s.pwr = some .plp → exec (.plpNHigh f) s =
      .next (startCore false false f { s with pwr := { s.pwr with plpLow := false } })) ∧
    (s.pwr.coreHeld = true → exec (.coreRstNHigh f) s =
      .next (startCore false true f { s with pwr := { s.pwr with coreRstLow := false } })) ∧
    (s.pwr.coreHeld = false → exec (.coreRstNHigh f) s =
      .next { s with pwr := { s.pwr with coreRstLow := false } }))

/-- Sag tests, Slack, Neap, the exits, and the end of Ebb. A periodic sag test that is due starts, and one whose VIN
is too low is deferred by 10 min; its end turns the gate on, keeps the capacitance it measured and answers who asked.
An idle device without pending holds commits to Slack, and one idle in Slack for long enough, with its links in L1, no
greenware and no hold, commits to Neap; a wake event, or a port whose queued traffic stays above its limit, leaves
either for Flood, and before the commit point abandons the entry. Roles still held 100 ms into an entry to Ebb are
relinquished. A wake event that has been noted ends Ebb: the gap, as the count of 32.768 kHz periods gives it in ns
with the remainder carried, is added to device time; after a trip it does so only when the sensors are cool, and
otherwise the events are forgotten. A crystal that stops in Ebb is remembered. (R246, R268, R498, R499, R502, R503,
R506, R508, R517, R518, R519, 15_power_holdup_last_tide.md) -/
def Obligations.PowerStatesAndSagTests : Prop :=
  (∀ (s : State) (v : Nat), s.boot.fw = true → s.pwr.sag = none → s.pwr.sagNext ≤ s.clk.time → s.pwr.porHeld = false →
    let u : State := { s with pwr := { s.pwr with vinMv := v } }
    (s.param 0x0E03 + 500 ≤ v → s.pwr.lt = none → s.pwr.state ≠ .neap → s.pwr.state ≠ .ebb →
      exec (.sagTestPeriod v) s = .next (startSag none { u with pwr := { u.pwr with sagSkipped := false } })) ∧
    (v < s.param 0x0E03 + 500 → s.pwr.cap ≠ none → ∃ t : State, exec (.sagTestPeriod v) s = .next t ∧
      t.pwr.sagNext = s.clk.time + 600000000000 ∧ t.pwr.sag = none ∧ t.pwr.gateOn = s.pwr.gateOn)) ∧
  (∀ (s : State) (i a b : Nat) (x : Sag), s.pwr.sag = some x →
    (x.since + 5000000 ≤ s.clk.time ∨ b ≤ s.param 0x0E03 + 300) →
    let c := sagCap s.dp.io i a b ((s.clk.time - x.since) / 1000)
    ∃ u : State, exec (.sagTestEnd i a b) s = .next (answerSag x.byMail c (a - b) u).work ∧ u.pwr.sag = none ∧
      u.pwr.gateOn = true ∧ u.pwr.cap = some (c, s.clk.time) ∧ u.pwr.sagMv = a - b) ∧
  (∀ (s : State) (i a b : Nat) (x : Sag), s.pwr.sag = some x → s.clk.time < x.since + 5000000 → x.since ≤ s.clk.time →
    s.param 0x0E03 + 300 < b → exec (.sagTestEnd i a b) s = .next s) ∧
  (∀ (io : Io) (i a b us : Nat), b < a → sagCap io i a b us = 2 * a * i * us / (a ^ 2 - b ^ 2)) ∧
  (∀ s : State, s.pwr.state = .flood → s.boot.ready = true → s.boot.fatal = false → s.env.tide = false →
    s.pwr.entering = none → idleFor s (s.param 0x0E01 * 1000) = true →
    (s.sec.holds = [] → exec .slackEntry s = .next (commitSlack s)) ∧
    (s.sec.holds ≠ [] → ∃ t : State, exec .slackEntry s = .next t ∧ t.pwr.state = .flood ∧
      t.pwr.entering = some { target := .slack, since := s.clk.time, byMail := none })) ∧
  (∀ s : State, s.pwr.state = .flood → (commitSlack s).pwr.state = .slack ∧ (commitSlack s).pwr.slackSince = s.clk.time ∧
    ∀ n : Fin 20, 2 ≤ n.val → HeldBlock.lane n ∈ (commitSlack s).sec.gated) ∧
  (∀ s : State, s.pwr.state = .slack → s.pwr.entering = none → idleFor s (s.param 0x0E01 * 1000) = true →
    s.pwr.slackSince + s.param 0x0E02 * 1000000 ≤ s.clk.time → linksL1 s.dp = true → greenHeld s.dp = 0 →
    s.sec.holds = [] → exec .neapEntry s = .next (commitNeap s) ∧ (commitNeap s).pwr.state = .neap ∧
      ∀ x ∈ (commitNeap s).dram.chans, x.2.selfRefresh = true) ∧
  (∀ (s : State) (w : WakeEvent),
    (s.pwr.state = .neap ∨ (s.pwr.state = .slack ∧ w ≠ .hostLink) →
      exec (.powerStateExit w) s = .next (leaveLow s).work) ∧
    (s.pwr.state = .slack ∨ s.pwr.state = .neap → (leaveLow s).pwr.state = .flood ∧ (leaveLow s).sec.gated = [] ∧
      (cwPorts.any (fun p => (s.dp.link p).loaded || overload (s.dp.link p)) = true →
        exec .transitLoadWake s = .next (leaveLow s).work)) ∧
    (cwPorts.any (fun p => (s.dp.link p).loaded || overload (s.dp.link p)) = false → exec .transitLoadWake s = .next s) ∧
    (s.pwr.state = .flood → exec (.powerStateExit w) s = .next s.stayAwake ∧
      (cwPorts.any (fun p => (s.dp.link p).loaded || overload (s.dp.link p)) = true →
        exec .transitLoadWake s = .next s.stayAwake) ∧
      (s.stayAwake).pwr.entering.all (fun x => x.target = .ebb) = true)) ∧
  (∀ (s : State) (x : Entering), s.pwr.entering = some x → (x.target = .ebb ∨ x.target = .lastTide) →
    x.since + 100000000 ≤ s.clk.time →
    exec .ebbHandoverTimeout s = .next (s.onDp (fun e d => dropRoles e true (giveRoles e d))).work) ∧
  (∀ (s : State) (w : EbbWake) (cool : Bool) (f : StartFacts), s.pwr.state = .ebb → s.pwr.porHeld = false →
    let u := enterState .starting (addGap { s with pwr := { s.pwr with wakes := [], tripped := false } })
    (s.pwr.wakes.contains w = false → exec (.ebbExit w cool f) s = .next s) ∧
    (s.pwr.wakes.contains w = true → s.pwr.tripped = false → w ≠ .coreRst →
      exec (.ebbExit w cool f) s = .next (resumeCore u)) ∧
    (s.pwr.wakes.contains w = true → s.pwr.tripped = true → cool = true → w ≠ .coreRst →
      exec (.ebbExit w cool f) s = .next ((resumeCore u).cause evThermal)) ∧
    (s.pwr.wakes.contains w = true → s.pwr.tripped = true → cool = false →
      exec (.ebbExit w cool f) s = .next { s with pwr := { s.pwr with wakes := [] } }) ∧
    (s.pwr.wakes.contains .coreRst = true → s.pwr.tripped = false → let c := clearCore false u
      (s.pwr.coreRstLow = true → exec (.ebbExit .coreRst cool f) s = .next { c with pwr := { c.pwr with coreHeld := true } }) ∧
      (s.pwr.coreRstLow = false → exec (.ebbExit .coreRst cool f) s = .next (startCore false true f c)))) ∧
  (∀ s : State, (addGap s).clk.time = s.clk.time + (s.clk.ebbCount * 1953125 + s.clk.frac64) / 64 ∧
    (addGap s).clk.frac64 = (s.clk.ebbCount * 1953125 + s.clk.frac64) % 64 ∧ (addGap s).clk.ebbCount = 0 ∧
    (addGap s).clk.pin = s.clk.pin) ∧
  (∀ s : State, s.pwr.state = .ebb → s.clk.x32 = .crystal → ∃ t : State, exec .x32CrystalStop s = .next t ∧
    t.clk.x32 = .stopped ∧ t.clk.ebbCount = s.clk.ebbCount ∧ t.dp = s.dp)

/-- The firmware-running point, READY and the end of a trial. A device that starts, with its core running and no code
of Table 16-4 with which no firmware runs, reaches the firmware-running point: firmware, SPDM and identity stand,
device time goes on, and bring-up begins or, with a rail out of range, waits. With firmware running, every channel
brought up, no sag test and no Last Tide, recovery runs once; where enough of the Last Tide area is erased, READY
enters Flood at that time, its settle window open, and else it waits. A trial whose image has been READY for 60 s, and
joined where others are present, is cleared: its slot is ACTIVE and boots from now on; before that nothing changes.
(R424, R443, R461, R463, R465, R527, R528, R532, R571, 16_startup_first_second.md) -/
def Obligations.FirmwareRunningReadyAndTrial : Prop :=
  (∀ s : State, s.boot.fw = false → s.pwr.porHeld = false → s.pwr.coreHeld = false → s.pwr.waiting = false →
    s.pwr.state = .starting → noFirmware s.boot.code = false →
    ∃ u : State, exec .firmwareRunning s = .next u.work ∧ u.boot.fw = true ∧ u.boot.spdm = true ∧
      u.sec.identity = true ∧ u.clk = s.clk ∧ (railsOk s.pwr = false → u.boot.railWait = true)) ∧
  (∀ s : State, s.boot.fw = true → exec .firmwareRunning s = .next s) ∧
  (∀ s : State, s.boot.fw = true → s.boot.ready = false → s.boot.safe = false → s.boot.fatal = false →
    s.pwr.state = .starting → s.pwr.sag = none → broughtUp s = true → s.env.tide = false →
    let t := recovery s.boot.resumed s
    let v : State := { t with boot := { t.boot with recovered := true } }
    (s.boot.recovered = true → areaReady s = true → exec .ready s = .next (enterReady s).work) ∧
    (s.boot.recovered = true → areaReady s = false → exec .ready s = .next s.work) ∧
    (s.boot.recovered = false → v.clk = s.clk ∧ (areaReady v = true → exec .ready s = .next (enterReady v).work) ∧
      (areaReady v = false → exec .ready s = .next v.work))) ∧
  (∀ s : State, (enterReady s).boot.ready = true ∧ (enterReady s).boot.readyAt = s.clk.time ∧
    (enterReady s).boot.settled = false ∧ (enterReady s).boot.recovered = false ∧ (enterReady s).pwr.state = .flood ∧
    (enterReady s).clk = s.clk) ∧
  (∀ s : State, broughtUp s = false → exec .ready s = .next s) ∧
  (∀ s : State, s.boot.ready = true → s.bed.boot.trial = true → s.boot.readyAt + 60000000000 ≤ s.clk.time →
    (joined s.dp = true ∨ ∀ k ∈ otherRanks s.env s.dp, present s.env s.dp k = false) →
    ∃ u : State, exec .trialClear s = .next (advanceSvn (writeRecord .bootrec u)) ∧ u.bed.boot.trial = false ∧
      u.bed.boot.slot = (if s.boot.imageB then 1 else 0) ∧
      (u.image (if s.boot.imageB then 1 else 0)).st = .active ∧ u.dp = s.dp) ∧
  (∀ s : State, s.clk.time < s.boot.readyAt + 60000000000 → exec .trialClear s = .next s)

/-- The state after reset meets the machine's invariant. After reset the diagnostic windows are in canonical form,
every scratchpad bank has the owner of Table 14-4, no injection is armed, no part of a nanosecond is carried, and
READY is not set. (R181, R483, R517, R536, 05_stored_data_integrity.md, 14_dram_scratchpads.md,
notes/assumptions/4.md) -/
def Obligations.ResetMeetsTheInvariant : Prop :=
  State.reset.Inv

/-- Every step keeps the machine's invariant. From every state that meets the invariant, whatever command stands in
front and whatever its operands, the next state meets it: the bytes of the DRAM and scratchpad diagnostic windows stay
in canonical form; each scratchpad bank keeps its owner of Table 14-4, except banks 20 to 23, 26 and 27, which belong
to one of the two staging classes and move only between them (R483); no target ever has two armed injections (R181);
the remainder of the Ebb gap stays below one nanosecond (R517); and READY is set only while firmware runs and never in
safe mode (R528, R536). (R181, R183, R482, R483, R517, R528, R536, 05_stored_data_integrity.md,
14_dram_scratchpads.md, 16_startup_first_second.md) -/
def Obligations.EveryStepKeepsTheInvariant : Prop :=
  ∀ s t : State, s.Inv → step s = .next t → t.Inv

/-- Every command answers a next state in every state, and leaves the queue of commands to the step. For every
command, with any operands, and every state, exec answers a next state, never a fault or a refusal, and the commands
that wait are as they were: a command whose condition does not hold has no effect (the model's reading, log entry 1).
So a step answers a next state in every state, and takes exactly the command in front off the queue. (00_scope.md,
notes/assumptions/1.md, notes/assumptions/10.md) -/
def Obligations.EveryCommandAnswers : Prop :=
  (∀ (c : Instr) (s : State), ∃ t : State, exec c s = .next t ∧ t.pending = s.pending) ∧
  (∀ s : State, ∃ t : State, step s = .next t ∧ t.pending = s.pending.drop 1)

/-- Each unit of the device changes only by the commands that act on it. A command outside the eight that concern time
leaves the clock as it was; one outside the lists of Safety leaves the start of the core and the straps, the DRAM
controller, the scratchpad banks, the diagnostic windows with the injections, and the test access port as they were.
The lists are those of mayChangeClk, mayChangeBoot, mayChangeDram, mayChangePads, mayChangeInteg and mayChangeTap: all
other commands, host, frame, mailbox, media and timer commands among them, leave every byte of the diagnostic windows,
every bank, every channel's training and every pin as they were. Each list is needed as it stands for its unit; a
command in a list may still leave the unit as it was. (R182, R183, R482, R483, R516, R520, R568, R530,
05_stored_data_integrity.md, 14_dram_scratchpads.md, 16_startup_first_second.md) -/
def Obligations.UnitsChangeOnlyByTheirCommands : Prop :=
  ∀ (c : Instr) (s t : State), exec c s = .next t →
    (mayChangeClk c = false → t.clk = s.clk) ∧ (mayChangeBoot c = false → t.boot = s.boot) ∧
    (mayChangeDram c = false → t.dram = s.dram) ∧ (mayChangePads c = false → t.pads = s.pads) ∧
    (mayChangeInteg c = false → t.integ = s.integ ∧
      ∀ a : Nat, Memory.read t.integ.dramWin a = Memory.read s.integ.dramWin a ∧
        Memory.read t.integ.padWin a = Memory.read s.integ.padWin a) ∧
    (mayChangeTap c = false → t.tap = s.tap)

/-- Device time never falls while BOOT_COUNT stands, and a tick adds 40 ns. A step whose next state is not under
power-on reset either leaves BOOT_COUNT and does not lower device time, or is the POWER_ON_RESET in front, which
raises BOOT_COUNT by 1 and sets device time to 0. No step changes BOOT_COUNT otherwise. The tick of an empty queue
(the model's, log entry 10) adds 40 ns while power-on reset is not held and the device is not in Ebb; in Ebb it counts
one 32.768 kHz period and device time stands still. (R516, R517, R520, 16_startup_first_second.md,
notes/assumptions/10.md) -/
def Obligations.DeviceTimeMovesForward : Prop :=
  (∀ s t : State, step s = .next t →
    (t.clk.boot = s.clk.boot ∧ (t.pwr.porHeld = true ∨ s.clk.time ≤ t.clk.time)) ∨
    (t.clk.boot = s.clk.boot + 1 ∧ t.clk.time = 0 ∧
      ∃ straps facts v rest, s.pending = Instr.powerOnReset straps facts v :: rest)) ∧
  (∀ s : State, s.pending = [] → s.pwr.porHeld = false →
    ∃ t : State, step s = .next t ∧ t.clk.boot = s.clk.boot ∧
      (s.pwr.state ≠ .ebb → t.clk.time = s.clk.time + 40 ∧ t.clk.ebbCount = s.clk.ebbCount) ∧
      (s.pwr.state = .ebb → t.clk.time = s.clk.time ∧ t.clk.ebbCount = s.clk.ebbCount + 1))

/-- GUARD is the reflected CRC-64 of the ECMA-182 polynomial, with its check value. GUARD of no bytes is 0 (initial
value and final XOR are all ones). One more byte goes in reflected: the register before the final XOR is exclusive-
ored with the byte and shifted right eight times, each time exclusive-ored with the bit-reversed polynomial
0x42F0E1EBA9EA3693 when the bit shifted out is 1. Over the ASCII bytes 123456789 GUARD is 0x995DC9BBDF1939FA. (R164)
-/
def Obligations.GuardIsCrc64 : Prop :=
  guard64 [] = 0 ∧
  (∀ (l : List Byte) (b : Byte), guard64 (l ++ [b]) =
    (List.range 8).foldl (fun (c : BitVec 64) _ =>
        if c.getLsbD 0 then (c >>> 1) ^^^ (0x42F0E1EBA9EA3693#64).reverse else c >>> 1)
      ((guard64 l ^^^ BitVec.allOnes 64) ^^^ b.setWidth 64) ^^^ BitVec.allOnes 64) ∧
  guard64 [0x31, 0x32, 0x33, 0x34, 0x35, 0x36, 0x37, 0x38, 0x39] = 0x995DC9BBDF1939FA#64

/-- A new claim is one epoch above the entry with the own rank, the higher claim wins, and ranks never tie. A device
whose Seawall entry for a pool carries an epoch E below the largest forms the claim ((E + 1) << 8) | its rank. An
entry that meets a claim holds the higher of the two afterwards, compared as unsigned 32-bit values, and every other
pool's entry stays as it was. Devices of different ranks never form equal claims. (R229) -/
def Obligations.ClaimsFormAndCompare : Prop :=
  (∀ (e : Env) (d : Dp) (pool : Nat), e.rank < 16 → epochOf (d.claimOf pool) < 0xFFFFFF →
    ∃ c : BitVec 32, formClaim e d pool = some c ∧
      c = (BitVec.ofNat 32 (epochOf (d.claimOf pool) + 1) <<< 8) ||| BitVec.ofNat 32 e.rank ∧
      (d.claimOf pool).toNat < c.toNat) ∧
  (∀ (e : Env) (d : Dp) (pool src : Nat) (c : BitVec 32),
    ((raise e pool c src d).claimOf pool).toNat = max (d.claimOf pool).toNat c.toNat ∧
    ∀ h : Nat, h ≠ pool → (raise e pool c src d).sea h = d.sea h) ∧
  (∀ (e f : Env) (d g : Dp) (pool : Nat) (c c' : BitVec 32), e.rank < 16 → f.rank < 16 → e.rank ≠ f.rank →
    formClaim e d pool = some c → formClaim f g pool = some c' → c ≠ c')

/-- Tidegauge's sums saturate, products round to nearest with ties away from zero, and the integrator keeps 64 bits. A
Q16.16 sum and difference are exact inside the signed 32-bit range and take the nearer bound outside it. Shifting
right 16 gives the nearest integer, and of two equally near ones the one further from zero; a product is the exact
product shifted so and then saturated. The law adds KI times the error to the integrator at full Q32.32 precision and
saturates it at 64 bits, and the slot record reports it rounded to Q16.16. (R402) -/
def Obligations.FixedPointArithmetic : Prop :=
  (∀ a b : Int, (-2 ^ 31 ≤ a + b → a + b ≤ 2 ^ 31 - 1 → fixAdd a b = a + b) ∧
    (2 ^ 31 - 1 < a + b → fixAdd a b = 2 ^ 31 - 1) ∧ (a + b < -2 ^ 31 → fixAdd a b = -2 ^ 31) ∧
    fixSub a b = fixAdd a (-b)) ∧
  (∀ v : Int, 2 * (65536 * round16 v - v).natAbs ≤ 65536 ∧
    (2 * (65536 * round16 v - v).natAbs = 65536 → v.natAbs < (65536 * round16 v).natAbs)) ∧
  (∀ a b : Int, (-2 ^ 31 ≤ round16 (a * b) → round16 (a * b) ≤ 2 ^ 31 - 1 → fixMul a b = round16 (a * b)) ∧
    (2 ^ 31 - 1 < round16 (a * b) → fixMul a b = 2 ^ 31 - 1) ∧ (round16 (a * b) < -2 ^ 31 → fixMul a b = -2 ^ 31)) ∧
  (∀ (l : Loop) (top : Option Int) (pv : Int), l.reclose = false → (law l top pv).loop.intHeld = false →
    -2 ^ 63 ≤ l.integ + l.ki * fixSub l.setpoint pv → l.integ + l.ki * fixSub l.setpoint pv ≤ 2 ^ 63 - 1 →
    (law l top pv).loop.integ = l.integ + l.ki * fixSub l.setpoint pv) ∧
  (∀ (l : Loop) (top : Option Int) (pv : Int), l.reclose = false → -2 ^ 63 ≤ l.integ → l.integ ≤ 2 ^ 63 - 1 →
    -2 ^ 63 ≤ (law l top pv).loop.integ ∧ (law l top pv).loop.integ ≤ 2 ^ 63 - 1) ∧
  (∀ (n : Nat) (l : Loop), fieldAt (loopRecord n l) 28 4 = field32 (q16 l.integ) ∧
    (-2 ^ 31 ≤ round16 l.integ → round16 l.integ ≤ 2 ^ 31 - 1 → q16 l.integ = round16 l.integ))

/-- The integrator holds exactly when the output would pass a limit further, and the flags report it. Let the output
be proposed from the proportional term, the integrator with KI times the error added, and the derivative term. Where
it would exceed the upper limit with a positive error, or stand below the lower limit with a negative one, the
integrator keeps its value and INT_HELD is set; otherwise the integrator takes the sum and INT_HELD is clear. The
output is the value that this integrator gives, clamped to the limits; SAT_HI and SAT_LO are set exactly when it was
clamped from above and from below. The upper limit of an unselected slot is also its group's output. (A sample that
re-closes a slot is R409's.) (R405) -/
def Obligations.LawHoldsItsIntegrator : Prop :=
  ∀ (l : Loop) (top : Option Int) (pv : Int), l.reclose = false →
    let r := law l top pv
    let err := fixSub l.setpoint pv
    let hi := top.elim l.outMax (min l.outMax)
    let step := sat64 (l.integ + l.ki * err)
    let would := fixAdd (fixAdd (fixMul l.kp err) (q16 step)) r.loop.dfilt
    let raw := fixAdd (fixAdd (fixMul l.kp err) (q16 r.loop.integ)) r.loop.dfilt
    ((hi < would ∧ 0 < err) ∨ (would < l.outMin ∧ err < 0) → r.loop.integ = l.integ ∧ r.loop.intHeld = true) ∧
    (¬ ((hi < would ∧ 0 < err) ∨ (would < l.outMin ∧ err < 0)) → r.loop.integ = step ∧ r.loop.intHeld = false) ∧
    (l.outMin ≤ hi → l.outMin ≤ r.loop.output ∧ r.loop.output ≤ hi ∧
      (l.outMin ≤ raw → raw ≤ hi → r.loop.output = raw)) ∧
    (r.loop.satHi = true ↔ hi < raw) ∧ (r.loop.satLo = true ↔ raw < l.outMin) ∧
    r.err = err ∧ r.loop.pv = pv ∧ r.loop.kp = l.kp ∧ r.loop.ki = l.ki ∧ r.loop.kd = l.kd ∧ r.loop.setpoint = l.setpoint

/-- The Ebb gap is exact, carried to the next Ebb, and told with its uncertainty and source. The gap in nanoseconds
and the remainder carried are the quotient and the remainder by 64 of periods times 1,953,125 plus the remainder
before, so that nothing is lost. Adding it raises device time by the gap, clears the count, and writes one TIME_GAP
record whose ARGS hold the gap (below 2^61 ns, 73 years) in bits [127:64], the uncertainty in bits [63:8] and the
source in bits [7:0]: 1 for crystal, 2 for RC, 3 for a crystal that stopped. The uncertainty is 50 ppm of the gap with
a crystal and 2 percent otherwise, plus 80 ns (whole nanoseconds, a reading); a pinned time's uncertainty grows by it,
and the time base goes on with the RC after a crystal has stopped. The gap does not count in the time of a secure-
discard job. (R62, R517, R518, R521, 16_startup_first_second.md) -/
def Obligations.EbbGapIsAddedAndTold : Prop :=
  (∀ count f : Nat, (ebbGap count f).1 * 64 + (ebbGap count f).2 = count * 1953125 + f ∧ (ebbGap count f).2 < 64) ∧
  (∀ s : State,
    let g := (ebbGap s.clk.ebbCount s.clk.frac64).1
    let u := match s.clk.x32 with
      | .crystal => g / 20000 + 80
      | _ => g / 50 + 80
    let src := match s.clk.x32 with
      | .crystal => 1
      | .rc => 2
      | .stopped => 3
    let t := addGap s
    t.clk.time = s.clk.time + g ∧ t.clk.frac64 = (ebbGap s.clk.ebbCount s.clk.frac64).2 ∧ t.clk.ebbCount = 0 ∧
    t.clk.boot = s.clk.boot ∧ t.clk.pin = s.clk.pin ∧
    t.clk.pinErr = (if s.clk.pin.isSome then s.clk.pinErr + u else s.clk.pinErr) ∧
    (t.clk.x32 = .rc ↔ s.clk.x32 ≠ .crystal) ∧
    (∃ r : LogRec, t.dp.io.ring.getLast? = some r ∧ r.code = 0x0E0B ∧ r.seqn = s.dp.io.nextSeq ∧
      r.time = t.clk.time ∧
      (g < 2 ^ 61 → (r.args.extractLsb' 64 64).toNat = g ∧ (r.args.extractLsb' 8 56).toNat = u) ∧
      (r.args.extractLsb' 0 8).toNat = src) ∧
    (s.dp.hp.a.fitted = true → t.dp.hp.a.evtCause.getLsbD evTimeGap = true) ∧
    t.pads = s.pads ∧ t.dram = s.dram ∧ t.boot = s.boot ∧ t.dp.med = s.dp.med ∧ t.dp.map = s.dp.map ∧
    t.dp.sh.roles = s.dp.sh.roles ∧ t.dp.sh.sea = s.dp.sh.sea ∧ t.dp.sh.reg.pools = s.dp.sh.reg.pools ∧
    t.dp.sh.reg.members = s.dp.sh.reg.members ∧
    t.dp.sh.reg.jobs = s.dp.sh.reg.jobs.map (fun (j : SdJob) => { j with startedAt := j.startedAt + g }))

/-- Every block of a layout has one place, and every member-local block names it again. In a layout whose striping
nodes hold whole rows, each pool LBA below the capacity lies at one place (row, data unit, position), with the row
below the layout's rows and the position below the sherd's blocks, and the place leads back to the LBA; an LBA at or
above the capacity lies nowhere. Where each node names distinct ranks, as many as its kind has children, and the
layout holds at most 2^48 blocks, every rank and key that holds the place leads back to it, the key's low 48 bits
being R192's member-local block; no two holders share rank and key. The children that hold two units of one PQ row are
different. In the example of R193 (PQ(6), sherds of 64 blocks) LBA 1,000,000 is row 2,604, data sherd 1, on child 6 at
member-local block 166,656, with P on child 3 and Q on child 4. (R191, R192, R193, 06_shoal_redundancy.md,
notes/assumptions/21.md) -/
def Obligations.BlocksAndPlacesAreInverse : Prop :=
  (∀ l : Lay, 0 < l.s → (∀ st ∈ l.stripes, st.cap % rowBlocks l.s st = 0 ∧ (st.kind = .pq → 2 ≤ st.k ∧ st.k ≤ 14)) →
    (∀ b, l.cap ≤ b → l.place b = none) ∧
    (∀ b, b < l.cap → ∃ p : Place, l.place b = some p ∧ l.lba p = some b ∧ p.row < l.rows ∧ p.pos < l.s ∧ p.unit < 14 ∧ (l.holders p).Nodup ∧
      (l.cap ≤ 2 ^ 48 → (∀ st ∈ l.stripes, st.ranks.Nodup ∧ st.ranks ≠ [] ∧ (st.kind = .pq → st.ranks.length = st.k + 2)) →
        l.holders p ≠ [] ∧ (∀ h ∈ l.holders p, l.ofLocal h.1 h.2 = some p) ∧
        (l.holders p).map (fun h => (h.1, localBlkOf h.2)) = l.locate p))) ∧
  (∀ k row u v : Nat, 2 ≤ k → k ≤ 14 → (u < k ∨ u = unitP ∨ u = unitQ) → (v < k ∨ v = unitP ∨ v = unitQ) → u ≠ v →
    pqChild (k + 2) row u ≠ pqChild (k + 2) row v) ∧
  (let l : Lay := ⟨64, [⟨.pq, 6, [0, 1, 2, 3, 4, 5, 6, 7], 384 * 3000⟩], 0⟩
   l.place 1000000 = some ⟨2604, 1, 0⟩ ∧ l.holders ⟨2604, 1, 0⟩ = [(6, 166656)] ∧
   (l.holders ⟨2604, unitP, 0⟩).map Prod.fst = [3] ∧ (l.holders ⟨2604, unitQ, 0⟩).map Prod.fst = [4])

/-- Any two lost units of a PQ position are rebuilt exactly. For any 2 to 14 data units with their P and Q (R194),
rebuilding by Table 6-1 gives back exactly the data units: with none lost, with one lost and P there, with one lost
and only Q there, and with any two lost and both parities there. With three or more lost, or with more lost than
parities there are, it gives none. (R194, R195, R197, Table 6-1, 06_shoal_redundancy.md) -/
def Obligations.LostUnitsComeBack : Prop :=
  ∀ ds : List (List Byte), (∀ u ∈ ds, u.length = unitBytes) → 2 ≤ ds.length → ds.length ≤ 14 →
    let p := parityP ds
    let q := parityQ 0 ds
    (∀ p' q', recover (ds.map some) p' q' = some ds) ∧
    (∀ x q', x < ds.length → recover ((ds.map some).set x none) (some p) q' = some ds) ∧
    (∀ x, x < ds.length → recover ((ds.map some).set x none) none (some q) = some ds ∧
      recover ((ds.map some).set x none) none none = none) ∧
    (∀ x y, x < y → y < ds.length →
      recover (((ds.map some).set x none).set y none) (some p) (some q) = some ds ∧
      recover (((ds.map some).set x none).set y none) (some p) none = none ∧
      recover (((ds.map some).set x none).set y none) none (some q) = none) ∧
    (∀ (us : List (Option (List Byte))) (p' q' : Option (List Byte)), 3 ≤ (lostIdx us).length → recover us p' q' = none)

/-- The syndromes of a position tell a wrong P, a wrong Q and one wrong data unit apart. With S_P and S_Q the
differences of the stored parity from the recomputed one: both zero is consistent; only S_P non-zero means that P
alone is wrong, only S_Q that Q alone is; both non-zero with S_Q equal to g^j times S_P for a data index j below k
means that data unit j alone is wrong and D_j ^ S_P is its value; every other pattern is unlocatable. So of the units
of a consistent position, one data unit overwritten by any other value is found and its value given back. (R196) -/
def Obligations.SyndromesLocateOneWrongUnit : Prop :=
  (∀ (ds : List (List Byte)) (p q : List Byte), ds.length ≤ 14 →
    let sp := xorBytes p (parityP ds)
    let sq := xorBytes q (parityQ 0 ds)
    let zero := fun (l : List Byte) => ∀ b ∈ l, b = 0
    (zero sp → zero sq → syndrome ds p q = .consistent) ∧ (¬ zero sp → zero sq → syndrome ds p q = .pWrong) ∧
    (zero sp → ¬ zero sq → syndrome ds p q = .qWrong) ∧
    (∀ j, j < ds.length → ¬ zero sp → sq = gfScale (gfGen j) sp →
      syndrome ds p q = .dataWrong j (xorBytes (ds.getD j zeroUnit) sp)) ∧
    (¬ zero sp → ¬ zero sq → (∀ j, j < ds.length → sq ≠ gfScale (gfGen j) sp) → syndrome ds p q = .unlocatable)) ∧
  (∀ (ds : List (List Byte)) (j : Nat) (b : List Byte), (∀ u ∈ ds, u.length = unitBytes) → ds.length ≤ 14 →
    j < ds.length → b.length = unitBytes → b ≠ ds.getD j zeroUnit →
    syndrome (ds.set j b) (parityP ds) (parityQ 0 ds) = .dataWrong j (ds.getD j zeroUnit))

/-- A window reads what was last written, byte by byte, in one canonical form. A write of bytes to a window in
canonical form leaves it in that form; each byte written reads as written and every other byte as before. Two windows
in that form that read alike everywhere are equal. On the machine: a write of 1 to 64 bytes to the request window of a
mailbox that is not BUSY, on a port whose link is up and whose registers are served, answers a next state in which
that window has the bytes and every other byte of it, every other mailbox and the port's registers are as they were;
while BUSY the write changes nothing. (R301, R303, R381, Table 9-4, 09_host_port.md, 11_mailboxes_parameters.md) -/
def Obligations.WindowsReadWhatWasWritten : Prop :=
  (∀ (m : List Host.Cell) (a : Nat) (l : List Byte), Memory.wf m → Memory.wf (Memory.writeBytes m a l) ∧
    ∀ x, Memory.read (Memory.writeBytes m a l) x =
      if a ≤ x ∧ x < a + l.length then l.getD (x - a) 0 else Memory.read m x) ∧
  (∀ m n : List Host.Cell, Memory.wf m → Memory.wf n → (∀ x, Memory.read m x = Memory.read n x) → m = n) ∧
  (∀ (s : State) (p : PortId) (n : Fin 4) (o : Nat) (l : List Byte), barServed s p = true →
    (∃ x ∈ s.dp.mb.boxes, x.box = .host p n) → 1 ≤ l.length → l.length ≤ 64 → o + l.length ≤ 0x1000 →
    let off := 0x1000 + 0x3000 * n.val + 0x1000 + o
    ((s.dp.mail (.host p n)).busy = true → exec (.registerWrite p off l) s = .next s) ∧
    ((s.dp.mail (.host p n)).busy = false → ∃ t : State, exec (.registerWrite p off l) s = .next t ∧
      (t.dp.mail (.host p n)).reqWin = Memory.writeBytes (s.dp.mail (.host p n)).reqWin o l ∧
      (∀ m, m ≠ .host p n → t.dp.mail m = s.dp.mail m) ∧ t.dp.hp = s.dp.hp ∧ t.dp.vq = s.dp.vq ∧ t.dp.io = s.dp.io ∧
      t.dp.sh = s.dp.sh ∧ t.dp.med = s.dp.med ∧ t.clk = s.clk ∧ t.pwr = s.pwr ∧ t.boot = s.boot ∧ t.integ = s.integ))

/-- A record goes to the end of the ring, the oldest leaves a full ring, SEQUENCE rises by 1, counters saturate.
Writing a record puts it last with the next SEQUENCE and the device time; a ring below 32,768 records keeps all it
held, a full one loses exactly its oldest; the next SEQUENCE is one more, from 0xFFFFFFFF on 0; a record of severity
error or above is then among those that hold SMB_ALERT_N. A counter of Table 17-8 rises by the amount and never above
64 bits, and no other counter changes. Neither changes host ports, queues, mailboxes, shoal, ring, map or media.
(R547, R548, R550, R555, 17_faults_strandline.md) -/
def Obligations.StrandlineRecordsAndCounters : Prop :=
  (∀ (now code sev src : Nat) (a : BitVec 128) (d : Dp), d.io.ring.length ≤ 32768 →
    let t := logAt now code sev src a d
    let r : LogRec := ⟨code, sev, src, now, d.io.nextSeq, a⟩
    (d.io.ring.length < 32768 → t.io.ring = d.io.ring ++ [r]) ∧
    (d.io.ring.length = 32768 → t.io.ring = d.io.ring.drop 1 ++ [r]) ∧ t.io.ring.length ≤ 32768 ∧
    (d.io.nextSeq < 0xFFFFFFFF → t.io.nextSeq = d.io.nextSeq + 1) ∧ (d.io.nextSeq = 0xFFFFFFFF → t.io.nextSeq = 0) ∧
    (4 ≤ sev → (∀ x ∈ d.io.ring, x.seqn ≠ d.io.nextSeq) → d.io.nextSeq ∈ t.io.alert) ∧
    t.io.out = d.io.out ∧ t.io.counters = d.io.counters ∧ t.hp = d.hp ∧ t.vq = d.vq ∧ t.mb = d.mb ∧ t.sh = d.sh ∧
    t.ring = d.ring ∧ t.lane = d.lane ∧ t.map = d.map ∧ t.med = d.med ∧ t.kiln = d.kiln ∧ t.bw = d.bw) ∧
  (∀ (ss i n : Nat) (d : Dp),
    let t := count ss i n d
    t.io.counters.get 0 (ss * 256 + i) = min (2 ^ 64 - 1) (d.io.counters.get 0 (ss * 256 + i) + n) ∧
    (∀ k, k ≠ ss * 256 + i → t.io.counters.get 0 k = d.io.counters.get 0 k) ∧
    t.io.ring = d.io.ring ∧ t.io.out = d.io.out ∧ t.hp = d.hp ∧ t.vq = d.vq ∧ t.mb = d.mb ∧ t.sh = d.sh ∧ t.med = d.med)

/-- A cause bit that rises unmasked signals the device vector, and nothing else does. Setting a cause on a fitted port
sets that bit of EVT_CAUSE and no other, and leaves the other port, EVT_MASK and the rest of the device as they were
but for the message and its pending bit. The device vector's message goes out exactly when the bit was 0, its mask bit
is 0, DEV_VEC_EN and MSI-X are on, the port may send (link up, D0, Bus Master Enable, no Last Tide) and the vector is
unmasked; where only sending is barred the pending bit is set; otherwise nothing goes out. A port that is not fitted
keeps its state. (R300, R304, R323, R328, 09_host_port.md) -/
def Obligations.CausesSignalTheDeviceVector : Prop :=
  (∀ (e : Env) (b : Nat) (p : PortId) (d : Dp), b < 16 → (d.port p).fitted = true →
    let t := causePort e b p d
    let h := d.port p
    let rose := h.evtCause.getLsbD b = false ∧ h.evtMask.getLsbD b = false ∧ h.devVecEn = true ∧ h.msixEnable = true
    let may := dmaOk e d p = true ∧ h.d3 = false ∧ devVector ∈ h.unmasked
    (∀ i, i < 16 → (t.port p).evtCause.getLsbD i = (h.evtCause.getLsbD i || i == b)) ∧
    (t.port p).evtMask = h.evtMask ∧ (t.port p).devVecEn = h.devVecEn ∧
    (rose → may → t.io.out = d.io.out ++ [.msix p devVector] ∧ (t.port p).pba = h.pba) ∧
    (rose → ¬ may → t.io.out = d.io.out ∧ devVector ∈ (t.port p).pba) ∧
    (¬ rose → t.io.out = d.io.out ∧ (t.port p).pba = h.pba) ∧
    (∀ q, q ≠ p → t.port q = d.port q) ∧ t.vq = d.vq ∧ t.mb = d.mb ∧ t.sh = d.sh ∧ t.ring = d.ring ∧ t.lane = d.lane ∧
    t.map = d.map ∧ t.med = d.med ∧ t.kiln = d.kiln ∧ t.bw = d.bw) ∧
  (∀ (e : Env) (b : Nat) (p : PortId) (d : Dp), (d.port p).fitted = false → causePort e b p d = d)

/-- A register access changes its own port, and a query changes its own mailbox, nothing else. EVT_CAUSE_CLEAR,
EVT_MASK_WRITE, DEV_VEC_EN_WRITE, TIME_NOW_LOW_READ and MSIX_VECTOR_UNMASK leave the other port, the queues, the
mailboxes, the shoal, the ring, the lane, map, media, flash and every other unit as they were; no register but the one
named changes in the port (the mask write keeps the cause bits, the cause write the mask). The commands that only
report (IDENTIFY, DEVICE_STATUS, TIME_QUERY, POOL_QUERY, POOL_LIST, RESHAPE_STATUS, SECURE_DISCARD_STATUS,
QUEUE_QUERY, QUEUE_STATS, ERROR_LOG_READ, SHOAL_QUERY, SEAWALL_QUERY, POWER_QUERY, HOLDUP_QUERY, SELFTEST_RESULT,
FW_STATUS, INJECT_STATUS) leave every other mailbox and every unit as they were; in the port of their mailbox only its
cause for the mailbox and that cause's message may change. (R301, R303, R304, R305, R386, 09_host_port.md,
11_mailboxes_parameters.md) -/
def Obligations.RegisterAndQueryFrames : Prop :=
  (∀ (s t : State) (p : PortId) (c : Instr) (v : Word) (b : Bool) (n : Nat),
    c ∈ [.evtCauseClear p v, .evtMaskWrite p v, .devVecEnWrite p b, .timeNowLowRead p, .msixVectorUnmask p n] →
    exec c s = .next t →
    (∀ q, q ≠ p → t.dp.port q = s.dp.port q) ∧ t.dp.vq = s.dp.vq ∧ t.dp.mb = s.dp.mb ∧ t.dp.sh = s.dp.sh ∧
    t.dp.ring = s.dp.ring ∧ t.dp.lane = s.dp.lane ∧ t.dp.map = s.dp.map ∧ t.dp.med = s.dp.med ∧ t.dp.kiln = s.dp.kiln ∧
    t.dp.bw = s.dp.bw ∧ t.dp.io.ring = s.dp.io.ring ∧ (t.dp.port p).tbase = (s.dp.port p).tbase ∧
    (t.dp.port p).tcount = (s.dp.port p).tcount ∧ (t.dp.port p).enabled = (s.dp.port p).enabled ∧
    (c ≠ .evtCauseClear p v → (t.dp.port p).evtCause = (s.dp.port p).evtCause) ∧
    (c ≠ .evtMaskWrite p v → (t.dp.port p).evtMask = (s.dp.port p).evtMask) ∧
    t.clk = s.clk ∧ t.pwr = s.pwr ∧ t.boot = s.boot ∧ t.par = s.par ∧ t.sec = s.sec ∧ t.bed = s.bed ∧ t.dram = s.dram ∧
    t.pads = s.pads ∧ t.integ = s.integ ∧ t.tide = s.tide ∧ t.tap = s.tap) ∧
  (∀ (s t : State) (m : Mbx) (c : Instr),
    c ∈ [.identify m, .deviceStatus m, .timeQuery m, .poolQuery m, .poolList m, .reshapeStatus m, .secureDiscardStatus m,
      .queueQuery m, .queueStats m, .errorLogRead m, .shoalQuery m, .seawallQuery m, .powerQuery m, .holdupQuery m,
      .selftestResult m, .fwStatus m, .injectStatus m] →
    exec c s = .next t →
    (∀ k, k ≠ m → t.dp.mail k = s.dp.mail k) ∧ t.dp.vq = s.dp.vq ∧ t.dp.sh = s.dp.sh ∧ t.dp.ring = s.dp.ring ∧
    t.dp.lane = s.dp.lane ∧ t.dp.map = s.dp.map ∧ t.dp.med = s.dp.med ∧ t.dp.kiln = s.dp.kiln ∧ t.dp.bw = s.dp.bw ∧
    t.dp.io.ring = s.dp.io.ring ∧ t.dp.io.counters = s.dp.io.counters ∧
    (∀ q, (∀ n, m ≠ .host q n) → t.dp.port q = s.dp.port q) ∧
    (∀ q i, i ≠ evMailbox → (t.dp.port q).evtCause.getLsbD i = (s.dp.port q).evtCause.getLsbD i) ∧
    t.clk = s.clk ∧ t.pwr = s.pwr ∧ t.boot = s.boot ∧ t.par = s.par ∧ t.sec = s.sec ∧ t.bed = s.bed ∧ t.dram = s.dram ∧
    t.pads = s.pads ∧ t.integ = s.integ ∧ t.tide = s.tide ∧ t.tap = s.tap)
end

