-- ==== Sys2Proof/Laws/Exec.lean ====
section
/-! SUPPORT. One equation per command: exec of the command is its meaning. -/

namespace Sys2Proof.Laws

open Sys2Proof.Machine

@[simp] theorem exec_read (port queue tag desc dataSegs metaSegs) (s : State) : exec (.read port queue tag desc dataSegs metaSegs) s = execRead port queue tag desc dataSegs metaSegs s := rfl
@[simp] theorem exec_write (port queue tag desc dataSegs metaSegs) (s : State) : exec (.write port queue tag desc dataSegs metaSegs) s = execWrite port queue tag desc dataSegs metaSegs s := rfl
@[simp] theorem exec_writeAtomic (port queue tag desc dataSegs metaSegs) (s : State) : exec (.writeAtomic port queue tag desc dataSegs metaSegs) s = execWriteAtomic port queue tag desc dataSegs metaSegs s := rfl
@[simp] theorem exec_discard (port queue tag desc dataSegs metaSegs) (s : State) : exec (.discard port queue tag desc dataSegs metaSegs) s = execDiscard port queue tag desc dataSegs metaSegs s := rfl
@[simp] theorem exec_secureDiscard (port queue tag desc dataSegs metaSegs) (s : State) : exec (.secureDiscard port queue tag desc dataSegs metaSegs) s = execSecureDiscard port queue tag desc dataSegs metaSegs s := rfl
@[simp] theorem exec_verify (port queue tag desc dataSegs metaSegs) (s : State) : exec (.verify port queue tag desc dataSegs metaSegs) s = execVerify port queue tag desc dataSegs metaSegs s := rfl
@[simp] theorem exec_codec (port queue tag desc table segs matrix inputs outputs) (s : State) : exec (.codec port queue tag desc table segs matrix inputs outputs) s = execCodec port queue tag desc table segs matrix inputs outputs s := rfl
@[simp] theorem exec_glaze (port queue tag desc dataSegs metaSegs source aux) (s : State) : exec (.glaze port queue tag desc dataSegs metaSegs source aux) s = execGlaze port queue tag desc dataSegs metaSegs source aux s := rfl
@[simp] theorem exec_submit (port queue value entry) (s : State) : exec (.submit port queue value entry) s = execSubmit port queue value entry s := rfl
@[simp] theorem exec_abort (port queue value) (s : State) : exec (.abort port queue value) s = execAbort port queue value s := rfl
@[simp] theorem exec_cqHead (port queue value) (s : State) : exec (.cqHead port queue value) s = execCqHead port queue value s := rfl
@[simp] theorem exec_resumeFetch (port queue) (s : State) : exec (.resumeFetch port queue) s = execResumeFetch port queue s := rfl
@[simp] theorem exec_resumeFlush (port queue) (s : State) : exec (.resumeFlush port queue) s = execResumeFlush port queue s := rfl
@[simp] theorem exec_queueEngineEnable (port) (s : State) : exec (.queueEngineEnable port) s = execQueueEngineEnable port s := rfl
@[simp] theorem exec_queueEngineDisable (port) (s : State) : exec (.queueEngineDisable port) s = execQueueEngineDisable port s := rfl
@[simp] theorem exec_devVecEnWrite (port v) (s : State) : exec (.devVecEnWrite port v) s = execDevVecEnWrite port v s := rfl
@[simp] theorem exec_evtCauseClear (port v) (s : State) : exec (.evtCauseClear port v) s = execEvtCauseClear port v s := rfl
@[simp] theorem exec_evtMaskWrite (port v) (s : State) : exec (.evtMaskWrite port v) s = execEvtMaskWrite port v s := rfl
@[simp] theorem exec_vqTsyncQueue (port queue entry) (s : State) : exec (.vqTsyncQueue port queue entry) s = execVqTsyncQueue port queue entry s := rfl
@[simp] theorem exec_vqTsyncAll (port entries) (s : State) : exec (.vqTsyncAll port entries) s = execVqTsyncAll port entries s := rfl
@[simp] theorem exec_timeNowLowRead (port) (s : State) : exec (.timeNowLowRead port) s = execTimeNowLowRead port s := rfl
@[simp] theorem exec_registerWrite (port offset bytes) (s : State) : exec (.registerWrite port offset bytes) s = execRegisterWrite port offset bytes s := rfl
@[simp] theorem exec_mailboxGo (port n v) (s : State) : exec (.mailboxGo port n v) s = execMailboxGo port n v s := rfl
@[simp] theorem exec_mailboxDoneClear (port n v) (s : State) : exec (.mailboxDoneClear port n v) s = execMailboxDoneClear port n v s := rfl
@[simp] theorem exec_identify (m) (s : State) : exec (.identify m) s = execIdentify m s := rfl
@[simp] theorem exec_deviceStatus (m) (s : State) : exec (.deviceStatus m) s = execDeviceStatus m s := rfl
@[simp] theorem exec_sessionReset (m) (s : State) : exec (.sessionReset m) s = execSessionReset m s := rfl
@[simp] theorem exec_timePin (m) (s : State) : exec (.timePin m) s = execTimePin m s := rfl
@[simp] theorem exec_timeQuery (m) (s : State) : exec (.timeQuery m) s = execTimeQuery m s := rfl
@[simp] theorem exec_poolCreate (m) (s : State) : exec (.poolCreate m) s = execPoolCreate m s := rfl
@[simp] theorem exec_poolDelete (m) (s : State) : exec (.poolDelete m) s = execPoolDelete m s := rfl
@[simp] theorem exec_poolResize (m) (s : State) : exec (.poolResize m) s = execPoolResize m s := rfl
@[simp] theorem exec_poolQuery (m) (s : State) : exec (.poolQuery m) s = execPoolQuery m s := rfl
@[simp] theorem exec_poolList (m) (s : State) : exec (.poolList m) s = execPoolList m s := rfl
@[simp] theorem exec_reshapeStart (m) (s : State) : exec (.reshapeStart m) s = execReshapeStart m s := rfl
@[simp] theorem exec_reshapeStatus (m) (s : State) : exec (.reshapeStatus m) s = execReshapeStatus m s := rfl
@[simp] theorem exec_secureDiscardStatus (m) (s : State) : exec (.secureDiscardStatus m) s = execSecureDiscardStatus m s := rfl
@[simp] theorem exec_writeFloorSet (m) (s : State) : exec (.writeFloorSet m) s = execWriteFloorSet m s := rfl
@[simp] theorem exec_leaseAcquire (m) (s : State) : exec (.leaseAcquire m) s = execLeaseAcquire m s := rfl
@[simp] theorem exec_leaseRelease (m) (s : State) : exec (.leaseRelease m) s = execLeaseRelease m s := rfl
@[simp] theorem exec_leaseQuery (m) (s : State) : exec (.leaseQuery m) s = execLeaseQuery m s := rfl
@[simp] theorem exec_queueQuery (m) (s : State) : exec (.queueQuery m) s = execQueueQuery m s := rfl
@[simp] theorem exec_queueStats (m) (s : State) : exec (.queueStats m) s = execQueueStats m s := rfl
@[simp] theorem exec_paramPageGet (m) (s : State) : exec (.paramPageGet m) s = execParamPageGet m s := rfl
@[simp] theorem exec_paramSet (m) (s : State) : exec (.paramSet m) s = execParamSet m s := rfl
@[simp] theorem exec_paramDefault (m) (s : State) : exec (.paramDefault m) s = execParamDefault m s := rfl
@[simp] theorem exec_strandlineRead (m) (s : State) : exec (.strandlineRead m) s = execStrandlineRead m s := rfl
@[simp] theorem exec_errorLogRead (m) (s : State) : exec (.errorLogRead m) s = execErrorLogRead m s := rfl
@[simp] theorem exec_errorLogClear (m) (s : State) : exec (.errorLogClear m) s = execErrorLogClear m s := rfl
@[simp] theorem exec_countersRead (m) (s : State) : exec (.countersRead m) s = execCountersRead m s := rfl
@[simp] theorem exec_fwStageBegin (m) (s : State) : exec (.fwStageBegin m) s = execFwStageBegin m s := rfl
@[simp] theorem exec_fwStageData (m) (s : State) : exec (.fwStageData m) s = execFwStageData m s := rfl
@[simp] theorem exec_fwCommit (m badBlock) (s : State) : exec (.fwCommit m badBlock) s = execFwCommit m badBlock s := rfl
@[simp] theorem exec_fwActivate (m) (s : State) : exec (.fwActivate m) s = execFwActivate m s := rfl
@[simp] theorem exec_fwStatus (m) (s : State) : exec (.fwStatus m) s = execFwStatus m s := rfl
@[simp] theorem exec_attestQuote (m) (s : State) : exec (.attestQuote m) s = execAttestQuote m s := rfl
@[simp] theorem exec_attestCert (m) (s : State) : exec (.attestCert m) s = execAttestCert m s := rfl
@[simp] theorem exec_keySlotLoad (m) (s : State) : exec (.keySlotLoad m) s = execKeySlotLoad m s := rfl
@[simp] theorem exec_keySlotClear (m) (s : State) : exec (.keySlotClear m) s = execKeySlotClear m s := rfl
@[simp] theorem exec_sanitizeCrypto (m) (s : State) : exec (.sanitizeCrypto m) s = execSanitizeCrypto m s := rfl
@[simp] theorem exec_shoalQuery (m) (s : State) : exec (.shoalQuery m) s = execShoalQuery m s := rfl
@[simp] theorem exec_seawallQuery (m) (s : State) : exec (.seawallQuery m) s = execSeawallQuery m s := rfl
@[simp] theorem exec_memberAdd (m) (s : State) : exec (.memberAdd m) s = execMemberAdd m s := rfl
@[simp] theorem exec_memberRetire (m) (s : State) : exec (.memberRetire m) s = execMemberRetire m s := rfl
@[simp] theorem exec_memberSpareSet (m) (s : State) : exec (.memberSpareSet m) s = execMemberSpareSet m s := rfl
@[simp] theorem exec_memberReplace (m) (s : State) : exec (.memberReplace m) s = execMemberReplace m s := rfl
@[simp] theorem exec_stewardMove (m) (s : State) : exec (.stewardMove m) s = execStewardMove m s := rfl
@[simp] theorem exec_stewardPrefer (m) (s : State) : exec (.stewardPrefer m) s = execStewardPrefer m s := rfl
@[simp] theorem exec_stewardDrill (m) (s : State) : exec (.stewardDrill m) s = execStewardDrill m s := rfl
@[simp] theorem exec_epochRebase (m) (s : State) : exec (.epochRebase m) s = execEpochRebase m s := rfl
@[simp] theorem exec_powerQuery (m) (s : State) : exec (.powerQuery m) s = execPowerQuery m s := rfl
@[simp] theorem exec_ebbEnter (m) (s : State) : exec (.ebbEnter m) s = execEbbEnter m s := rfl
@[simp] theorem exec_holdupQuery (m) (s : State) : exec (.holdupQuery m) s = execHoldupQuery m s := rfl
@[simp] theorem exec_sagTest (m) (s : State) : exec (.sagTest m) s = execSagTest m s := rfl
@[simp] theorem exec_diagAuthAcquire (m) (s : State) : exec (.diagAuthAcquire m) s = execDiagAuthAcquire m s := rfl
@[simp] theorem exec_diagAuthRelease (m) (s : State) : exec (.diagAuthRelease m) s = execDiagAuthRelease m s := rfl
@[simp] theorem exec_selftestResult (m) (s : State) : exec (.selftestResult m) s = execSelftestResult m s := rfl
@[simp] theorem exec_mediaReturn (m passed steps) (s : State) : exec (.mediaReturn m passed steps) s = execMediaReturn m passed steps s := rfl
@[simp] theorem exec_injectCheckbits (m) (s : State) : exec (.injectCheckbits m) s = execInjectCheckbits m s := rfl
@[simp] theorem exec_injectStatus (m) (s : State) : exec (.injectStatus m) s = execInjectStatus m s := rfl
@[simp] theorem exec_diagRead (m results) (s : State) : exec (.diagRead m results) s = execDiagRead m results s := rfl
@[simp] theorem exec_diagWrite (m) (s : State) : exec (.diagWrite m) s = execDiagWrite m s := rfl
@[simp] theorem exec_diagErase (m) (s : State) : exec (.diagErase m) s = execDiagErase m s := rfl
@[simp] theorem exec_linkTestStart (m) (s : State) : exec (.linkTestStart m) s = execLinkTestStart m s := rfl
@[simp] theorem exec_linkTestStop (m) (s : State) : exec (.linkTestStop m) s = execLinkTestStop m s := rfl
@[simp] theorem exec_loopQuery (m) (s : State) : exec (.loopQuery m) s = execLoopQuery m s := rfl
@[simp] theorem exec_loopOpen (m) (s : State) : exec (.loopOpen m) s = execLoopOpen m s := rfl
@[simp] theorem exec_loopCoeff (m) (s : State) : exec (.loopCoeff m) s = execLoopCoeff m s := rfl
@[simp] theorem exec_loopClose (m) (s : State) : exec (.loopClose m) s = execLoopClose m s := rfl
@[simp] theorem exec_traceArm (m) (s : State) : exec (.traceArm m) s = execTraceArm m s := rfl
@[simp] theorem exec_traceRead (m) (s : State) : exec (.traceRead m) s = execTraceRead m s := rfl
@[simp] theorem exec_bootStatusRead (s : State) : exec (.bootStatusRead) s = execBootStatusRead s := rfl
@[simp] theorem exec_bootStatusWakeWrite (v) (s : State) : exec (.bootStatusWakeWrite v) s = execBootStatusWakeWrite v s := rfl
@[simp] theorem exec_mctpVendorMessage (vendor message) (s : State) : exec (.mctpVendorMessage vendor message) s = execMctpVendorMessage vendor message s := rfl
@[simp] theorem exec_setEndpointId (eid) (s : State) : exec (.setEndpointId eid) s = execSetEndpointId eid s := rfl
@[simp] theorem exec_getEndpointId (s : State) : exec (.getEndpointId) s = execGetEndpointId s := rfl
@[simp] theorem exec_getEndpointUuid (s : State) : exec (.getEndpointUuid) s = execGetEndpointUuid s := rfl
@[simp] theorem exec_getMctpVersionSupport (mtype) (s : State) : exec (.getMctpVersionSupport mtype) s = execGetMctpVersionSupport mtype s := rfl
@[simp] theorem exec_getMessageTypeSupport (s : State) : exec (.getMessageTypeSupport) s = execGetMessageTypeSupport s := rfl
@[simp] theorem exec_getVendorDefinedMessageSupport (sel) (s : State) : exec (.getVendorDefinedMessageSupport sel) s = execGetVendorDefinedMessageSupport sel s := rfl
@[simp] theorem exec_getVersion (t) (s : State) : exec (.getVersion t) s = execGetVersion t s := rfl
@[simp] theorem exec_getCapabilities (t version) (s : State) : exec (.getCapabilities t version) s = execGetCapabilities t version s := rfl
@[simp] theorem exec_negotiateAlgorithms (t version ecdsaP384 sha384) (s : State) : exec (.negotiateAlgorithms t version ecdsaP384 sha384) s = execNegotiateAlgorithms t version ecdsaP384 sha384 s := rfl
@[simp] theorem exec_getDigests (t version) (s : State) : exec (.getDigests t version) s = execGetDigests t version s := rfl
@[simp] theorem exec_getCertificate (t version slot offset length) (s : State) : exec (.getCertificate t version slot offset length) s = execGetCertificate t version slot offset length s := rfl
@[simp] theorem exec_challenge (t version slot nonce) (s : State) : exec (.challenge t version slot nonce) s = execChallenge t version slot nonce s := rfl
@[simp] theorem exec_getMeasurements (t version index sign nonce) (s : State) : exec (.getMeasurements t version index sign nonce) s = execGetMeasurements t version index sign nonce s := rfl
@[simp] theorem exec_doeRequest (port version req) (s : State) : exec (.doeRequest port version req) s = execDoeRequest port version req s := rfl
@[simp] theorem exec_configRequest (port req) (s : State) : exec (.configRequest port req) s = execConfigRequest port req s := rfl
@[simp] theorem exec_perstNAssert (s : State) : exec (.perstNAssert) s = execPerstNAssert s := rfl
@[simp] theorem exec_perstNRelease (s : State) : exec (.perstNRelease) s = execPerstNRelease s := rfl
@[simp] theorem exec_hostLinkTrained (port rate width) (s : State) : exec (.hostLinkTrained port rate width) s = execHostLinkTrained port rate width s := rfl
@[simp] theorem exec_hotReset (port) (s : State) : exec (.hotReset port) s = execHotReset port s := rfl
@[simp] theorem exec_flr (port) (s : State) : exec (.flr port) s = execFlr port s := rfl
@[simp] theorem exec_hostLinkDown (port) (s : State) : exec (.hostLinkDown port) s = execHostLinkDown port s := rfl
@[simp] theorem exec_hostLinkL1Entry (port) (s : State) : exec (.hostLinkL1Entry port) s = execHostLinkL1Entry port s := rfl
@[simp] theorem exec_hostLinkL1Exit (port) (s : State) : exec (.hostLinkL1Exit port) s = execHostLinkL1Exit port s := rfl
@[simp] theorem exec_busMasterEnableClear (port) (s : State) : exec (.busMasterEnableClear port) s = execBusMasterEnableClear port s := rfl
@[simp] theorem exec_busMasterEnableSet (port) (s : State) : exec (.busMasterEnableSet port) s = execBusMasterEnableSet port s := rfl
@[simp] theorem exec_d3hotEntry (port) (s : State) : exec (.d3hotEntry port) s = execD3hotEntry port s := rfl
@[simp] theorem exec_d0Return (port) (s : State) : exec (.d0Return port) s = execD0Return port s := rfl
@[simp] theorem exec_hostReadCompletion (port req data) (s : State) : exec (.hostReadCompletion port req data) s = execHostReadCompletion port req data s := rfl
@[simp] theorem exec_hostCompletionError (port req kind) (s : State) : exec (.hostCompletionError port req kind) s = execHostCompletionError port req kind s := rfl
@[simp] theorem exec_hostCompletionTimeout (port req) (s : State) : exec (.hostCompletionTimeout port req) s = execHostCompletionTimeout port req s := rfl
@[simp] theorem exec_translationCompletion (port pasid page readable writable target) (s : State) : exec (.translationCompletion port pasid page readable writable target) s = execTranslationCompletion port pasid page readable writable target s := rfl
@[simp] theorem exec_pageRequestSuccess (port req) (s : State) : exec (.pageRequestSuccess port req) s = execPageRequestSuccess port req s := rfl
@[simp] theorem exec_pageRequestInvalid (port req) (s : State) : exec (.pageRequestInvalid port req) s = execPageRequestInvalid port req s := rfl
@[simp] theorem exec_pageRequestResponseFailure (port req) (s : State) : exec (.pageRequestResponseFailure port req) s = execPageRequestResponseFailure port req s := rfl
@[simp] theorem exec_pageRequestTimeout (port req) (s : State) : exec (.pageRequestTimeout port req) s = execPageRequestTimeout port req s := rfl
@[simp] theorem exec_priCapabilityReset (port) (s : State) : exec (.priCapabilityReset port) s = execPriCapabilityReset port s := rfl
@[simp] theorem exec_invalidationRequest (port pasid firstPage pages) (s : State) : exec (.invalidationRequest port pasid firstPage pages) s = execInvalidationRequest port pasid firstPage pages s := rfl
@[simp] theorem exec_pasidEnableClear (port) (s : State) : exec (.pasidEnableClear port) s = execPasidEnableClear port s := rfl
@[simp] theorem exec_coalesceTimer (port queue) (s : State) : exec (.coalesceTimer port queue) s = execCoalesceTimer port queue s := rfl
@[simp] theorem exec_writeAdmission (pool) (s : State) : exec (.writeAdmission pool) s = execWriteAdmission pool s := rfl
@[simp] theorem exec_pendingTableRoom (s : State) : exec (.pendingTableRoom) s = execPendingTableRoom s := rfl
@[simp] theorem exec_hello (port rank serial boot session n) (s : State) : exec (.hello port rank serial boot session n) s = execHello port rank serial boot session n s := rfl
@[simp] theorem exec_topology (port rank version links) (s : State) : exec (.topology port rank version links) s = execTopology port rank version links s := rfl
@[simp] theorem exec_transitFrame (f) (s : State) : exec (.transitFrame f) s = execTransitFrame f s := rfl
@[simp] theorem exec_heartbeat (f boot session flags roles) (s : State) : exec (.heartbeat f boot session flags roles) s = execHeartbeat f boot session flags roles s := rfl
@[simp] theorem exec_claim (f) (s : State) : exec (.claim f) s = execClaim f s := rfl
@[simp] theorem exec_fenced (f) (s : State) : exec (.fenced f) s = execFenced f s := rfl
@[simp] theorem exec_relinquish (f) (s : State) : exec (.relinquish f) s = execRelinquish f s := rfl
@[simp] theorem exec_handover (f) (s : State) : exec (.handover f) s = execHandover f s := rfl
@[simp] theorem exec_ringExit (f) (s : State) : exec (.ringExit f) s = execRingExit f s := rfl
@[simp] theorem exec_linkCtlNak (port seqn) (s : State) : exec (.linkCtlNak port seqn) s = execLinkCtlNak port seqn s := rfl
@[simp] theorem exec_linkCtlAck (port seqn) (s : State) : exec (.linkCtlAck port seqn) s = execLinkCtlAck port seqn s := rfl
@[simp] theorem exec_linkCtlWidth (port lanes) (s : State) : exec (.linkCtlWidth port lanes) s = execLinkCtlWidth port lanes s := rfl
@[simp] theorem exec_ticketRequest (f dataMask flags group groupSize cover) (s : State) : exec (.ticketRequest f dataMask flags group groupSize cover) s = execTicketRequest f dataMask flags group groupSize cover s := rfl
@[simp] theorem exec_ticketGrant (f) (s : State) : exec (.ticketGrant f) s = execTicketGrant f s := rfl
@[simp] theorem exec_commitNotice (f registry) (s : State) : exec (.commitNotice f registry) s = execCommitNotice f registry s := rfl
@[simp] theorem exec_dropNotice (f) (s : State) : exec (.dropNotice f) s = execDropNotice f s := rfl
@[simp] theorem exec_mirrorGroup (f records) (s : State) : exec (.mirrorGroup f records) s = execMirrorGroup f records s := rfl
@[simp] theorem exec_mirrorAck (f) (s : State) : exec (.mirrorAck f) s = execMirrorAck f s := rfl
@[simp] theorem exec_resolve (f) (s : State) : exec (.resolve f) s = execResolve f s := rfl
@[simp] theorem exec_resolveReply (f items commits) (s : State) : exec (.resolveReply f items commits) s = execResolveReply f items commits s := rfl
@[simp] theorem exec_sherdDone (f) (s : State) : exec (.sherdDone f) s = execSherdDone f s := rfl
@[simp] theorem exec_joinRequest (f serial boot anchorSeq) (s : State) : exec (.joinRequest f serial boot anchorSeq) s = execJoinRequest f serial boot anchorSeq s := rfl
@[simp] theorem exec_joinAdmit (f states missed commits admitted) (s : State) : exec (.joinAdmit f states missed commits admitted) s = execJoinAdmit f states missed commits admitted s := rfl
@[simp] theorem exec_readRequest (f blocks) (s : State) : exec (.readRequest f blocks) s = execReadRequest f blocks s := rfl
@[simp] theorem exec_readData (f blk) (s : State) : exec (.readData f blk) s = execReadData f blk s := rfl
@[simp] theorem exec_readFail (f) (s : State) : exec (.readFail f) s = execReadFail f s := rfl
@[simp] theorem exec_sherdData (f blk) (s : State) : exec (.sherdData f blk) s = execSherdData f blk s := rfl
@[simp] theorem exec_sherdRefused (f) (s : State) : exec (.sherdRefused f) s = execSherdRefused f s := rfl
@[simp] theorem exec_e2eAck (f) (s : State) : exec (.e2eAck f) s = execE2eAck f s := rfl
@[simp] theorem exec_e2eNak (f) (s : State) : exec (.e2eNak f) s = execE2eNak f s := rfl
@[simp] theorem exec_linkTest (port symbols uncorrectable replays) (s : State) : exec (.linkTest port symbols uncorrectable replays) s = execLinkTest port symbols uncorrectable replays s := rfl
@[simp] theorem exec_claimAcknowledgement (f) (s : State) : exec (.claimAcknowledgement f) s = execClaimAcknowledgement f s := rfl
@[simp] theorem exec_memberStateRecord (f r) (s : State) : exec (.memberStateRecord f r) s = execMemberStateRecord f r s := rfl
@[simp] theorem exec_admissionDemand (f demand) (s : State) : exec (.admissionDemand f demand) s = execAdmissionDemand f demand s := rfl
@[simp] theorem exec_admissionRequest (f request) (s : State) : exec (.admissionRequest f request) s = execAdmissionRequest f request s := rfl
@[simp] theorem exec_admissionGrant (f grant) (s : State) : exec (.admissionGrant f grant) s = execAdmissionGrant f grant s := rfl
@[simp] theorem exec_admissionRate (f rate) (s : State) : exec (.admissionRate f rate) s = execAdmissionRate f rate s := rfl
@[simp] theorem exec_forwardedOrder (f msg) (s : State) : exec (.forwardedOrder f msg) s = execForwardedOrder f msg s := rfl
@[simp] theorem exec_anchorRequest (f) (s : State) : exec (.anchorRequest f) s = execAnchorRequest f s := rfl
@[simp] theorem exec_secureDiscardMemberDone (f job report) (s : State) : exec (.secureDiscardMemberDone f job report) s = execSecureDiscardMemberDone f job report s := rfl
@[simp] theorem exec_rebaseControl (f msg) (s : State) : exec (.rebaseControl f msg) s = execRebaseControl f msg s := rfl
@[simp] theorem exec_claimLaneFrame (bits) (s : State) : exec (.claimLaneFrame bits) s = execClaimLaneFrame bits s := rfl
@[simp] theorem exec_laneCheckFrame (bits) (s : State) : exec (.laneCheckFrame bits) s = execLaneCheckFrame bits s := rfl
@[simp] theorem exec_claimLaneSend (outcome) (s : State) : exec (.claimLaneSend outcome) s = execClaimLaneSend outcome s := rfl
@[simp] theorem exec_laneCheckTurn (s : State) : exec (.laneCheckTurn) s = execLaneCheckTurn s := rfl
@[simp] theorem exec_laneLowTimeout (s : State) : exec (.laneLowTimeout) s = execLaneLowTimeout s := rfl
@[simp] theorem exec_laneCheckTimeout (s : State) : exec (.laneCheckTimeout) s = execLaneCheckTimeout s := rfl
@[simp] theorem exec_heartbeatTimer (s : State) : exec (.heartbeatTimer) s = execHeartbeatTimer s := rfl
@[simp] theorem exec_rankSilence (rank) (s : State) : exec (.rankSilence rank) s = execRankSilence rank s := rfl
@[simp] theorem exec_stewardPoolOmitted (pool) (s : State) : exec (.stewardPoolOmitted pool) s = execStewardPoolOmitted pool s := rfl
@[simp] theorem exec_contest (pool) (s : State) : exec (.contest pool) s = execContest pool s := rfl
@[simp] theorem exec_standbySilence (pool) (s : State) : exec (.standbySilence pool) s = execStandbySilence pool s := rfl
@[simp] theorem exec_standbyAppoint (pool) (s : State) : exec (.standbyAppoint pool) s = execStandbyAppoint pool s := rfl
@[simp] theorem exec_settleWindowEnd (s : State) : exec (.settleWindowEnd) s = execSettleWindowEnd s := rfl
@[simp] theorem exec_preferredStewardReturn (pool) (s : State) : exec (.preferredStewardReturn pool) s = execPreferredStewardReturn pool s := rfl
@[simp] theorem exec_handoverResolveTimeout (pool) (s : State) : exec (.handoverResolveTimeout pool) s = execHandoverResolveTimeout pool s := rfl
@[simp] theorem exec_handoverClaimTimeout (pool) (s : State) : exec (.handoverClaimTimeout pool) s = execHandoverClaimTimeout pool s := rfl
@[simp] theorem exec_ebbHandoverTimeout (s : State) : exec (.ebbHandoverTimeout) s = execEbbHandoverTimeout s := rfl
@[simp] theorem exec_resolveReplyTimeout (pool rank) (s : State) : exec (.resolveReplyTimeout pool rank) s = execResolveReplyTimeout pool rank s := rfl
@[simp] theorem exec_stripeTimeout (pool seqn) (s : State) : exec (.stripeTimeout pool seqn) s = execStripeTimeout pool seqn s := rfl
@[simp] theorem exec_noStewardTimeout (pool) (s : State) : exec (.noStewardTimeout pool) s = execNoStewardTimeout pool s := rfl
@[simp] theorem exec_registryStewardTimeout (session token) (s : State) : exec (.registryStewardTimeout session token) s = execRegistryStewardTimeout session token s := rfl
@[simp] theorem exec_readRequestTimeout (rank pool localBlk) (s : State) : exec (.readRequestTimeout rank pool localBlk) s = execReadRequestTimeout rank pool localBlk s := rfl
@[simp] theorem exec_drillReplyTimeout (rank) (s : State) : exec (.drillReplyTimeout rank) s = execDrillReplyTimeout rank s := rfl
@[simp] theorem exec_rowGatherExpiry (pool row) (s : State) : exec (.rowGatherExpiry pool row) s = execRowGatherExpiry pool row s := rfl
@[simp] theorem exec_journalGroupClose (pool) (s : State) : exec (.journalGroupClose pool) s = execJournalGroupClose pool s := rfl
@[simp] theorem exec_journalStrandProgrammed (pool) (s : State) : exec (.journalStrandProgrammed pool) s = execJournalStrandProgrammed pool s := rfl
@[simp] theorem exec_linkAckTimer (port) (s : State) : exec (.linkAckTimer port) s = execLinkAckTimer port s := rfl
@[simp] theorem exec_e2eGapTimeout (src cls) (s : State) : exec (.e2eGapTimeout src cls) s = execE2eGapTimeout src cls s := rfl
@[simp] theorem exec_e2eAckTimer (src cls) (s : State) : exec (.e2eAckTimer src cls) s = execE2eAckTimer src cls s := rfl
@[simp] theorem exec_e2eReplayTimeout (dst cls) (s : State) : exec (.e2eReplayTimeout dst cls) s = execE2eReplayTimeout dst cls s := rfl
@[simp] theorem exec_causewaySignalLoss (port) (s : State) : exec (.causewaySignalLoss port) s = execCausewaySignalLoss port s := rfl
@[simp] theorem exec_fecUncorrectableBurst (port) (s : State) : exec (.fecUncorrectableBurst port) s = execFecUncorrectableBurst port s := rfl
@[simp] theorem exec_linkAckStall (port) (s : State) : exec (.linkAckStall port) s = execLinkAckStall port s := rfl
@[simp] theorem exec_laneFailure (port good) (s : State) : exec (.laneFailure port good) s = execLaneFailure port good s := rfl
@[simp] theorem exec_portTrained (port good) (s : State) : exec (.portTrained port good) s = execPortTrained port good s := rfl
@[simp] theorem exec_portRetrainTimer (port) (s : State) : exec (.portRetrainTimer port) s = execPortRetrainTimer port s := rfl
@[simp] theorem exec_linkFlapHoldEnd (port) (s : State) : exec (.linkFlapHoldEnd port) s = execLinkFlapHoldEnd port s := rfl
@[simp] theorem exec_transitLoadWake (s : State) : exec (.transitLoadWake) s = execTransitLoadWake s := rfl
@[simp] theorem exec_kilnResetWave (answers) (s : State) : exec (.kilnResetWave answers) s = execKilnResetWave answers s := rfl
@[simp] theorem exec_flashChannelTrained (chan steps) (s : State) : exec (.flashChannelTrained chan steps) s = execFlashChannelTrained chan steps s := rfl
@[simp] theorem exec_zqShortCalTimer (chan die) (s : State) : exec (.zqShortCalTimer chan die) s = execZqShortCalTimer chan die s := rfl
@[simp] theorem exec_tjDriftRetrain (chan steps) (s : State) : exec (.tjDriftRetrain chan steps) s = execTjDriftRetrain chan steps s := rfl
@[simp] theorem exec_flashProgramComplete (chan die) (s : State) : exec (.flashProgramComplete chan die) s = execFlashProgramComplete chan die s := rfl
@[simp] theorem exec_dieProgramFail (chan die) (s : State) : exec (.dieProgramFail chan die) s = execDieProgramFail chan die s := rfl
@[simp] theorem exec_flashEraseComplete (chan die) (s : State) : exec (.flashEraseComplete chan die) s = execFlashEraseComplete chan die s := rfl
@[simp] theorem exec_dieEraseFail (chan die) (s : State) : exec (.dieEraseFail chan die) s = execDieEraseFail chan die s := rfl
@[simp] theorem exec_flashReadComplete (chan die results) (s : State) : exec (.flashReadComplete chan die results) s = execFlashReadComplete chan die results s := rfl
@[simp] theorem exec_dieReadyTimeout (chan die recovered) (s : State) : exec (.dieReadyTimeout chan die recovered) s = execDieReadyTimeout chan die recovered s := rfl
@[simp] theorem exec_suspendWindowEnd (chan die) (s : State) : exec (.suspendWindowEnd chan die) s = execSuspendWindowEnd chan die s := rfl
@[simp] theorem exec_operationWaitLimit (chan die) (s : State) : exec (.operationWaitLimit chan die) s = execOperationWaitLimit chan die s := rfl
@[simp] theorem exec_classAgingLimit (chan die) (s : State) : exec (.classAgingLimit chan die) s = execClassAgingLimit chan die s := rfl
@[simp] theorem exec_dieStripeCloseTimer (row) (s : State) : exec (.dieStripeCloseTimer row) s = execDieStripeCloseTimer row s := rfl
@[simp] theorem exec_foldIdleTimer (s : State) : exec (.foldIdleTimer) s = execFoldIdleTimer s := rfl
@[simp] theorem exec_fold (s : State) : exec (.fold) s = execFold s := rfl
@[simp] theorem exec_garbageCollect (s : State) : exec (.garbageCollect) s = execGarbageCollect s := rfl
@[simp] theorem exec_staticMove (s : State) : exec (.staticMove) s = execStaticMove s := rfl
@[simp] theorem exec_refreshRelocation (row) (s : State) : exec (.refreshRelocation row) s = execRefreshRelocation row s := rfl
@[simp] theorem exec_dieRebuild (chan die) (s : State) : exec (.dieRebuild chan die) s = execDieRebuild chan die s := rfl
@[simp] theorem exec_lastTideAreaRotate (s : State) : exec (.lastTideAreaRotate) s = execLastTideAreaRotate s := rfl
@[simp] theorem exec_anchorCadence (s : State) : exec (.anchorCadence) s = execAnchorCadence s := rfl
@[simp] theorem exec_anchorAfterRaise (s : State) : exec (.anchorAfterRaise) s = execAnchorAfterRaise s := rfl
@[simp] theorem exec_mapFaultIn (pool seg) (s : State) : exec (.mapFaultIn pool seg) s = execMapFaultIn pool seg s := rfl
@[simp] theorem exec_mapBackgroundLoad (s : State) : exec (.mapBackgroundLoad) s = execMapBackgroundLoad s := rfl
@[simp] theorem exec_secureDiscardJob (job) (s : State) : exec (.secureDiscardJob job) s = execSecureDiscardJob job s := rfl
@[simp] theorem exec_reshapeWindow (pool) (s : State) : exec (.reshapeWindow pool) s = execReshapeWindow pool s := rfl
@[simp] theorem exec_resyncRow (pool row newLayout) (s : State) : exec (.resyncRow pool row newLayout) s = execResyncRow pool row newLayout s := rfl
@[simp] theorem exec_beachcomberCheck (pool row newLayout pos) (s : State) : exec (.beachcomberCheck pool row newLayout pos) s = execBeachcomberCheck pool row newLayout pos s := rfl
@[simp] theorem exec_dramCorrectedRead (ch rank component burst diagnostic) (s : State) : exec (.dramCorrectedRead ch rank component burst diagnostic) s = execDramCorrectedRead ch rank component burst diagnostic s := rfl
@[simp] theorem exec_dramUncorrectableRead (ch region) (s : State) : exec (.dramUncorrectableRead ch region) s = execDramUncorrectableRead ch region s := rfl
@[simp] theorem exec_dramPatrol (ch rank component intervened) (s : State) : exec (.dramPatrol ch rank component intervened) s = execDramPatrol ch rank component intervened s := rfl
@[simp] theorem exec_scratchpadCorrectedRead (bank address intervened) (s : State) : exec (.scratchpadCorrectedRead bank address intervened) s = execScratchpadCorrectedRead bank address intervened s := rfl
@[simp] theorem exec_scratchpadUncorrectableRead (bank region) (s : State) : exec (.scratchpadUncorrectableRead bank region) s = execScratchpadUncorrectableRead bank region s := rfl
@[simp] theorem exec_encoderCheckFail (encoder) (s : State) : exec (.encoderCheckFail encoder) s = execEncoderCheckFail encoder s := rfl
@[simp] theorem exec_engineFault (e n) (s : State) : exec (.engineFault e n) s = execEngineFault e n s := rfl
@[simp] theorem exec_engineKnownAnswerTest (n good) (s : State) : exec (.engineKnownAnswerTest n good) s = execEngineKnownAnswerTest n good s := rfl
@[simp] theorem exec_bedrockReadResult (region corrected uncorrectable) (s : State) : exec (.bedrockReadResult region corrected uncorrectable) s = execBedrockReadResult region corrected uncorrectable s := rfl
@[simp] theorem exec_entropyWindow (good) (s : State) : exec (.entropyWindow good) s = execEntropyWindow good s := rfl
@[simp] theorem exec_drbgReseedTimer (s : State) : exec (.drbgReseedTimer) s = execDrbgReseedTimer s := rfl
@[simp] theorem exec_laneRekey (lane good) (s : State) : exec (.laneRekey lane good) s = execLaneRekey lane good s := rfl
@[simp] theorem exec_vetoHoldRequest (block released) (s : State) : exec (.vetoHoldRequest block released) s = execVetoHoldRequest block released s := rfl
@[simp] theorem exec_vetoTimeout (block) (s : State) : exec (.vetoTimeout block) s = execVetoTimeout block s := rfl
@[simp] theorem exec_injectionArmTimeout (armId) (s : State) : exec (.injectionArmTimeout armId) s = execInjectionArmTimeout armId s := rfl
@[simp] theorem exec_linkTestTimeout (port) (s : State) : exec (.linkTestTimeout port) s = execLinkTestTimeout port s := rfl
@[simp] theorem exec_diagAuthIdleTimeout (s : State) : exec (.diagAuthIdleTimeout) s = execDiagAuthIdleTimeout s := rfl
@[simp] theorem exec_leaseTermExpiry (handle) (s : State) : exec (.leaseTermExpiry handle) s = execLeaseTermExpiry handle s := rfl
@[simp] theorem exec_fwActivateLapse (s : State) : exec (.fwActivateLapse) s = execFwActivateLapse s := rfl
@[simp] theorem exec_mgmtPortAbsence (s : State) : exec (.mgmtPortAbsence) s = execMgmtPortAbsence s := rfl
@[simp] theorem exec_trialClear (s : State) : exec (.trialClear) s = execTrialClear s := rfl
@[simp] theorem exec_trialRestart (s : State) : exec (.trialRestart) s = execTrialRestart s := rfl
@[simp] theorem exec_dramRefreshDue (ch rank bank burst) (s : State) : exec (.dramRefreshDue ch rank bank burst) s = execDramRefreshDue ch rank bank burst s := rfl
@[simp] theorem exec_dramOscillatorRead (ch drift64 retrain) (s : State) : exec (.dramOscillatorRead ch drift64 retrain) s = execDramOscillatorRead ch drift64 retrain s := rfl
@[simp] theorem exec_dramTemperatureRead (ch rank hot) (s : State) : exec (.dramTemperatureRead ch rank hot) s = execDramTemperatureRead ch rank hot s := rfl
@[simp] theorem exec_dramPageIdleClose (ch rank bank) (s : State) : exec (.dramPageIdleClose ch rank bank) s = execDramPageIdleClose ch rank bank s := rfl
@[simp] theorem exec_dramChannelTrained (ch spd sweeps) (s : State) : exec (.dramChannelTrained ch spd sweeps) s = execDramChannelTrained ch spd sweeps s := rfl
@[simp] theorem exec_bankHandover (bank waited lines) (s : State) : exec (.bankHandover bank waited lines) s = execBankHandover bank waited lines s := rfl
@[simp] theorem exec_bankHandoverTimeout (bank) (s : State) : exec (.bankHandoverTimeout bank) s = execBankHandoverTimeout bank s := rfl
@[simp] theorem exec_bankAccessFault (target master) (s : State) : exec (.bankAccessFault target master) s = execBankAccessFault target master s := rfl
@[simp] theorem exec_bankRetentionWake (bank) (s : State) : exec (.bankRetentionWake bank) s = execBankRetentionWake bank s := rfl
@[simp] theorem exec_bankRetentionReturn (bank) (s : State) : exec (.bankRetentionReturn bank) s = execBankRetentionReturn bank s := rfl
@[simp] theorem exec_loopSample (slot pv) (s : State) : exec (.loopSample slot pv) s = execLoopSample slot pv s := rfl
@[simp] theorem exec_softLimitTimer (pool) (s : State) : exec (.softLimitTimer pool) s = execSoftLimitTimer pool s := rfl
@[simp] theorem exec_powerOnReset (straps facts vinMv) (s : State) : exec (.powerOnReset straps facts vinMv) s = execPowerOnReset straps facts vinMv s := rfl
@[simp] theorem exec_hotSwapInsertion (vsupMv busMv) (s : State) : exec (.hotSwapInsertion vsupMv busMv) s = execHotSwapInsertion vsupMv busMv s := rfl
@[simp] theorem exec_insertionTimeout (s : State) : exec (.insertionTimeout) s = execInsertionTimeout s := rfl
@[simp] theorem exec_insertionRetry (s : State) : exec (.insertionRetry) s = execInsertionRetry s := rfl
@[simp] theorem exec_circuitBreaker (s : State) : exec (.circuitBreaker) s = execCircuitBreaker s := rfl
@[simp] theorem exec_fastTrip (s : State) : exec (.fastTrip) s = execFastTrip s := rfl
@[simp] theorem exec_reverseCurrent (s : State) : exec (.reverseCurrent) s = execReverseCurrent s := rfl
@[simp] theorem exec_vinBelowVPlp (vinMv) (s : State) : exec (.vinBelowVPlp vinMv) s = execVinBelowVPlp vinMv s := rfl
@[simp] theorem exec_hsVsupBelowVPlp (vsupMv) (s : State) : exec (.hsVsupBelowVPlp vsupMv) s = execHsVsupBelowVPlp vsupMv s := rfl
@[simp] theorem exec_plpNLow (s : State) : exec (.plpNLow) s = execPlpNLow s := rfl
@[simp] theorem exec_plpNHigh (facts) (s : State) : exec (.plpNHigh facts) s = execPlpNHigh facts s := rfl
@[simp] theorem exec_thermalTrip (s : State) : exec (.thermalTrip) s = execThermalTrip s := rfl
@[simp] theorem exec_coreRstNLow (s : State) : exec (.coreRstNLow) s = execCoreRstNLow s := rfl
@[simp] theorem exec_coreRstNHigh (facts) (s : State) : exec (.coreRstNHigh facts) s = execCoreRstNHigh facts s := rfl
@[simp] theorem exec_vinRecovery (vinMv facts) (s : State) : exec (.vinRecovery vinMv facts) s = execVinRecovery vinMv facts s := rfl
@[simp] theorem exec_watchdogExpiry (s : State) : exec (.watchdogExpiry) s = execWatchdogExpiry s := rfl
@[simp] theorem exec_lastTideComplete (facts) (s : State) : exec (.lastTideComplete facts) s = execLastTideComplete facts s := rfl
@[simp] theorem exec_vinCollapse (written) (s : State) : exec (.vinCollapse written) s = execVinCollapse written s := rfl
@[simp] theorem exec_sagTestPeriod (vinMv) (s : State) : exec (.sagTestPeriod vinMv) s = execSagTestPeriod vinMv s := rfl
@[simp] theorem exec_sagTestEnd (currentMa v1Mv v2Mv) (s : State) : exec (.sagTestEnd currentMa v1Mv v2Mv) s = execSagTestEnd currentMa v1Mv v2Mv s := rfl
@[simp] theorem exec_slackEntry (s : State) : exec (.slackEntry) s = execSlackEntry s := rfl
@[simp] theorem exec_neapEntry (s : State) : exec (.neapEntry) s = execNeapEntry s := rfl
@[simp] theorem exec_powerStateExit (w) (s : State) : exec (.powerStateExit w) s = execPowerStateExit w s := rfl
@[simp] theorem exec_ebbExit (w cool facts) (s : State) : exec (.ebbExit w cool facts) s = execEbbExit w cool facts s := rfl
@[simp] theorem exec_x32CrystalStop (s : State) : exec (.x32CrystalStop) s = execX32CrystalStop s := rfl
@[simp] theorem exec_firmwareRunning (s : State) : exec (.firmwareRunning) s = execFirmwareRunning s := rfl
@[simp] theorem exec_ready (s : State) : exec (.ready) s = execReady s := rfl
@[simp] theorem exec_railTimeout (vccqf) (s : State) : exec (.railTimeout vccqf) s = execRailTimeout vccqf s := rfl
@[simp] theorem exec_suspendMinimumRun (chan die) (s : State) : exec (.suspendMinimumRun chan die) s = execSuspendMinimumRun chan die s := rfl
@[simp] theorem exec_bedrockProgramComplete (bank what good) (s : State) : exec (.bedrockProgramComplete bank what good) s = execBedrockProgramComplete bank what good s := rfl
@[simp] theorem exec_bedrockEraseComplete (bank good) (s : State) : exec (.bedrockEraseComplete bank good) s = execBedrockEraseComplete bank good s := rfl
@[simp] theorem exec_bedrockEraseSuspend (bank) (s : State) : exec (.bedrockEraseSuspend bank) s = execBedrockEraseSuspend bank s := rfl
@[simp] theorem exec_bedrockEraseResume (bank) (s : State) : exec (.bedrockEraseResume bank) s = execBedrockEraseResume bank s := rfl
@[simp] theorem exec_lossOfVin (s : State) : exec (.lossOfVin) s = execLossOfVin s := rfl
@[simp] theorem exec_claimLaneReleased (s : State) : exec (.claimLaneReleased) s = execClaimLaneReleased s := rfl
@[simp] theorem exec_admissionRound (s : State) : exec (.admissionRound) s = execAdmissionRound s := rfl
@[simp] theorem exec_supplyRailInRange (vccqf) (s : State) : exec (.supplyRailInRange vccqf) s = execSupplyRailInRange vccqf s := rfl
@[simp] theorem exec_tapAccess (op) (s : State) : exec (.tapAccess op) s = execTapAccess op s := rfl
@[simp] theorem exec_msixVectorUnmask (port vector) (s : State) : exec (.msixVectorUnmask port vector) s = execMsixVectorUnmask port vector s := rfl

end Sys2Proof.Laws
end

