-- ==== Sys2Proof/Laws/Frames.lean ====
section
/-! SUPPORT. Frames: which units of the state each shared operation leaves as they were. The data path (`dp`) is not
mentioned: an operation on `dp` alone leaves every other unit as it was. -/

namespace Sys2Proof.Laws

open Sys2Proof.Machine

@[simp] theorem foldl_clk {β : Type} (g : State → β → State) (h : ∀ s x, (g s x).clk = s.clk) (l : List β) (s : State) :
    (l.foldl g s).clk = s.clk := by
  induction l generalizing s with
  | nil => rfl
  | cons x t ih => simp [ih, h]
@[simp] theorem foldl_pwr {β : Type} (g : State → β → State) (h : ∀ s x, (g s x).pwr = s.pwr) (l : List β) (s : State) :
    (l.foldl g s).pwr = s.pwr := by
  induction l generalizing s with
  | nil => rfl
  | cons x t ih => simp [ih, h]
@[simp] theorem foldl_boot {β : Type} (g : State → β → State) (h : ∀ s x, (g s x).boot = s.boot) (l : List β) (s : State) :
    (l.foldl g s).boot = s.boot := by
  induction l generalizing s with
  | nil => rfl
  | cons x t ih => simp [ih, h]
@[simp] theorem foldl_par {β : Type} (g : State → β → State) (h : ∀ s x, (g s x).par = s.par) (l : List β) (s : State) :
    (l.foldl g s).par = s.par := by
  induction l generalizing s with
  | nil => rfl
  | cons x t ih => simp [ih, h]
@[simp] theorem foldl_sec {β : Type} (g : State → β → State) (h : ∀ s x, (g s x).sec = s.sec) (l : List β) (s : State) :
    (l.foldl g s).sec = s.sec := by
  induction l generalizing s with
  | nil => rfl
  | cons x t ih => simp [ih, h]
@[simp] theorem foldl_bed {β : Type} (g : State → β → State) (h : ∀ s x, (g s x).bed = s.bed) (l : List β) (s : State) :
    (l.foldl g s).bed = s.bed := by
  induction l generalizing s with
  | nil => rfl
  | cons x t ih => simp [ih, h]
@[simp] theorem foldl_dram {β : Type} (g : State → β → State) (h : ∀ s x, (g s x).dram = s.dram) (l : List β) (s : State) :
    (l.foldl g s).dram = s.dram := by
  induction l generalizing s with
  | nil => rfl
  | cons x t ih => simp [ih, h]
@[simp] theorem foldl_pads {β : Type} (g : State → β → State) (h : ∀ s x, (g s x).pads = s.pads) (l : List β) (s : State) :
    (l.foldl g s).pads = s.pads := by
  induction l generalizing s with
  | nil => rfl
  | cons x t ih => simp [ih, h]
@[simp] theorem foldl_integ {β : Type} (g : State → β → State) (h : ∀ s x, (g s x).integ = s.integ) (l : List β) (s : State) :
    (l.foldl g s).integ = s.integ := by
  induction l generalizing s with
  | nil => rfl
  | cons x t ih => simp [ih, h]
@[simp] theorem foldl_tide {β : Type} (g : State → β → State) (h : ∀ s x, (g s x).tide = s.tide) (l : List β) (s : State) :
    (l.foldl g s).tide = s.tide := by
  induction l generalizing s with
  | nil => rfl
  | cons x t ih => simp [ih, h]
@[simp] theorem foldl_tap {β : Type} (g : State → β → State) (h : ∀ s x, (g s x).tap = s.tap) (l : List β) (s : State) :
    (l.foldl g s).tap = s.tap := by
  induction l generalizing s with
  | nil => rfl
  | cons x t ih => simp [ih, h]
@[simp] theorem foldl_pending {β : Type} (g : State → β → State) (h : ∀ s x, (g s x).pending = s.pending) (l : List β) (s : State) :
    (l.foldl g s).pending = s.pending := by
  induction l generalizing s with
  | nil => rfl
  | cons x t ih => simp [ih, h]

@[simp] theorem frame_onDp (s : State) (f : Env → Dp → Dp) :
    (State.onDp s f).clk = s.clk ∧ (State.onDp s f).pwr = s.pwr ∧ (State.onDp s f).boot = s.boot ∧ (State.onDp s f).par = s.par ∧ (State.onDp s f).sec = s.sec ∧ (State.onDp s f).bed = s.bed ∧ (State.onDp s f).dram = s.dram ∧ (State.onDp s f).pads = s.pads ∧ (State.onDp s f).integ = s.integ ∧ (State.onDp s f).tide = s.tide ∧ (State.onDp s f).tap = s.tap ∧ (State.onDp s f).pending = s.pending := by
  unfold State.onDp
  first
    | (simp [apply_ite State.clk, apply_ite State.pwr, apply_ite State.boot, apply_ite State.par, apply_ite State.sec, apply_ite State.bed, apply_ite State.dram, apply_ite State.pads, apply_ite State.integ, apply_ite State.tide, apply_ite State.tap, apply_ite State.pending]; done)
    | ((repeat' split) <;> (first | (simp [apply_ite State.clk, apply_ite State.pwr, apply_ite State.boot, apply_ite State.par, apply_ite State.sec, apply_ite State.bed, apply_ite State.dram, apply_ite State.pads, apply_ite State.integ, apply_ite State.tide, apply_ite State.tap, apply_ite State.pending]; done) | (simp_all [apply_ite State.clk, apply_ite State.pwr, apply_ite State.boot, apply_ite State.par, apply_ite State.sec, apply_ite State.bed, apply_ite State.dram, apply_ite State.pads, apply_ite State.integ, apply_ite State.tide, apply_ite State.tap, apply_ite State.pending]; done)))
    | (dsimp only; (repeat' apply And.intro) <;> (repeat' split) <;> (first | (simp [apply_ite State.clk, apply_ite State.pwr, apply_ite State.boot, apply_ite State.par, apply_ite State.sec, apply_ite State.bed, apply_ite State.dram, apply_ite State.pads, apply_ite State.integ, apply_ite State.tide, apply_ite State.tap, apply_ite State.pending]; done) | (simp_all [apply_ite State.clk, apply_ite State.pwr, apply_ite State.boot, apply_ite State.par, apply_ite State.sec, apply_ite State.bed, apply_ite State.dram, apply_ite State.pads, apply_ite State.integ, apply_ite State.tide, apply_ite State.tap, apply_ite State.pending]; done)))
@[simp] theorem frame_log (s : State) (code sev src : Nat) (a : List Nat) :
    (State.log s code sev src a).clk = s.clk ∧ (State.log s code sev src a).pwr = s.pwr ∧ (State.log s code sev src a).boot = s.boot ∧ (State.log s code sev src a).par = s.par ∧ (State.log s code sev src a).sec = s.sec ∧ (State.log s code sev src a).bed = s.bed ∧ (State.log s code sev src a).dram = s.dram ∧ (State.log s code sev src a).pads = s.pads ∧ (State.log s code sev src a).integ = s.integ ∧ (State.log s code sev src a).tide = s.tide ∧ (State.log s code sev src a).tap = s.tap ∧ (State.log s code sev src a).pending = s.pending := by
  unfold State.log
  first
    | (simp [apply_ite State.clk, apply_ite State.pwr, apply_ite State.boot, apply_ite State.par, apply_ite State.sec, apply_ite State.bed, apply_ite State.dram, apply_ite State.pads, apply_ite State.integ, apply_ite State.tide, apply_ite State.tap, apply_ite State.pending]; done)
    | ((repeat' split) <;> (first | (simp [apply_ite State.clk, apply_ite State.pwr, apply_ite State.boot, apply_ite State.par, apply_ite State.sec, apply_ite State.bed, apply_ite State.dram, apply_ite State.pads, apply_ite State.integ, apply_ite State.tide, apply_ite State.tap, apply_ite State.pending]; done) | (simp_all [apply_ite State.clk, apply_ite State.pwr, apply_ite State.boot, apply_ite State.par, apply_ite State.sec, apply_ite State.bed, apply_ite State.dram, apply_ite State.pads, apply_ite State.integ, apply_ite State.tide, apply_ite State.tap, apply_ite State.pending]; done)))
    | (dsimp only; (repeat' apply And.intro) <;> (repeat' split) <;> (first | (simp [apply_ite State.clk, apply_ite State.pwr, apply_ite State.boot, apply_ite State.par, apply_ite State.sec, apply_ite State.bed, apply_ite State.dram, apply_ite State.pads, apply_ite State.integ, apply_ite State.tide, apply_ite State.tap, apply_ite State.pending]; done) | (simp_all [apply_ite State.clk, apply_ite State.pwr, apply_ite State.boot, apply_ite State.par, apply_ite State.sec, apply_ite State.bed, apply_ite State.dram, apply_ite State.pads, apply_ite State.integ, apply_ite State.tide, apply_ite State.tap, apply_ite State.pending]; done)))
@[simp] theorem frame_cause (s : State) (bit : Nat) :
    (State.cause s bit).clk = s.clk ∧ (State.cause s bit).pwr = s.pwr ∧ (State.cause s bit).boot = s.boot ∧ (State.cause s bit).par = s.par ∧ (State.cause s bit).sec = s.sec ∧ (State.cause s bit).bed = s.bed ∧ (State.cause s bit).dram = s.dram ∧ (State.cause s bit).pads = s.pads ∧ (State.cause s bit).integ = s.integ ∧ (State.cause s bit).tide = s.tide ∧ (State.cause s bit).tap = s.tap ∧ (State.cause s bit).pending = s.pending := by
  unfold State.cause
  first
    | (simp [apply_ite State.clk, apply_ite State.pwr, apply_ite State.boot, apply_ite State.par, apply_ite State.sec, apply_ite State.bed, apply_ite State.dram, apply_ite State.pads, apply_ite State.integ, apply_ite State.tide, apply_ite State.tap, apply_ite State.pending]; done)
    | ((repeat' split) <;> (first | (simp [apply_ite State.clk, apply_ite State.pwr, apply_ite State.boot, apply_ite State.par, apply_ite State.sec, apply_ite State.bed, apply_ite State.dram, apply_ite State.pads, apply_ite State.integ, apply_ite State.tide, apply_ite State.tap, apply_ite State.pending]; done) | (simp_all [apply_ite State.clk, apply_ite State.pwr, apply_ite State.boot, apply_ite State.par, apply_ite State.sec, apply_ite State.bed, apply_ite State.dram, apply_ite State.pads, apply_ite State.integ, apply_ite State.tide, apply_ite State.tap, apply_ite State.pending]; done)))
    | (dsimp only; (repeat' apply And.intro) <;> (repeat' split) <;> (first | (simp [apply_ite State.clk, apply_ite State.pwr, apply_ite State.boot, apply_ite State.par, apply_ite State.sec, apply_ite State.bed, apply_ite State.dram, apply_ite State.pads, apply_ite State.integ, apply_ite State.tide, apply_ite State.tap, apply_ite State.pending]; done) | (simp_all [apply_ite State.clk, apply_ite State.pwr, apply_ite State.boot, apply_ite State.par, apply_ite State.sec, apply_ite State.bed, apply_ite State.dram, apply_ite State.pads, apply_ite State.integ, apply_ite State.tide, apply_ite State.tap, apply_ite State.pending]; done)))
@[simp] theorem frame_setBank (s : State) (n : Nat) (b : Bank) :
    (State.setBank s n b).clk = s.clk ∧ (State.setBank s n b).pwr = s.pwr ∧ (State.setBank s n b).boot = s.boot ∧ (State.setBank s n b).par = s.par ∧ (State.setBank s n b).sec = s.sec ∧ (State.setBank s n b).dram = s.dram ∧ (State.setBank s n b).pads = s.pads ∧ (State.setBank s n b).integ = s.integ ∧ (State.setBank s n b).tide = s.tide ∧ (State.setBank s n b).tap = s.tap ∧ (State.setBank s n b).pending = s.pending := by
  unfold State.setBank
  first
    | (simp [apply_ite State.clk, apply_ite State.pwr, apply_ite State.boot, apply_ite State.par, apply_ite State.sec, apply_ite State.dram, apply_ite State.pads, apply_ite State.integ, apply_ite State.tide, apply_ite State.tap, apply_ite State.pending]; done)
    | ((repeat' split) <;> (first | (simp [apply_ite State.clk, apply_ite State.pwr, apply_ite State.boot, apply_ite State.par, apply_ite State.sec, apply_ite State.dram, apply_ite State.pads, apply_ite State.integ, apply_ite State.tide, apply_ite State.tap, apply_ite State.pending]; done) | (simp_all [apply_ite State.clk, apply_ite State.pwr, apply_ite State.boot, apply_ite State.par, apply_ite State.sec, apply_ite State.dram, apply_ite State.pads, apply_ite State.integ, apply_ite State.tide, apply_ite State.tap, apply_ite State.pending]; done)))
    | (dsimp only; (repeat' apply And.intro) <;> (repeat' split) <;> (first | (simp [apply_ite State.clk, apply_ite State.pwr, apply_ite State.boot, apply_ite State.par, apply_ite State.sec, apply_ite State.dram, apply_ite State.pads, apply_ite State.integ, apply_ite State.tide, apply_ite State.tap, apply_ite State.pending]; done) | (simp_all [apply_ite State.clk, apply_ite State.pwr, apply_ite State.boot, apply_ite State.par, apply_ite State.sec, apply_ite State.dram, apply_ite State.pads, apply_ite State.integ, apply_ite State.tide, apply_ite State.tap, apply_ite State.pending]; done)))
@[simp] theorem frame_out (s : State) (o : Output) :
    (State.out s o).clk = s.clk ∧ (State.out s o).pwr = s.pwr ∧ (State.out s o).boot = s.boot ∧ (State.out s o).par = s.par ∧ (State.out s o).sec = s.sec ∧ (State.out s o).bed = s.bed ∧ (State.out s o).dram = s.dram ∧ (State.out s o).pads = s.pads ∧ (State.out s o).integ = s.integ ∧ (State.out s o).tide = s.tide ∧ (State.out s o).tap = s.tap ∧ (State.out s o).pending = s.pending := by
  unfold State.out
  first
    | (simp [apply_ite State.clk, apply_ite State.pwr, apply_ite State.boot, apply_ite State.par, apply_ite State.sec, apply_ite State.bed, apply_ite State.dram, apply_ite State.pads, apply_ite State.integ, apply_ite State.tide, apply_ite State.tap, apply_ite State.pending]; done)
    | ((repeat' split) <;> (first | (simp [apply_ite State.clk, apply_ite State.pwr, apply_ite State.boot, apply_ite State.par, apply_ite State.sec, apply_ite State.bed, apply_ite State.dram, apply_ite State.pads, apply_ite State.integ, apply_ite State.tide, apply_ite State.tap, apply_ite State.pending]; done) | (simp_all [apply_ite State.clk, apply_ite State.pwr, apply_ite State.boot, apply_ite State.par, apply_ite State.sec, apply_ite State.bed, apply_ite State.dram, apply_ite State.pads, apply_ite State.integ, apply_ite State.tide, apply_ite State.tap, apply_ite State.pending]; done)))
    | (dsimp only; (repeat' apply And.intro) <;> (repeat' split) <;> (first | (simp [apply_ite State.clk, apply_ite State.pwr, apply_ite State.boot, apply_ite State.par, apply_ite State.sec, apply_ite State.bed, apply_ite State.dram, apply_ite State.pads, apply_ite State.integ, apply_ite State.tide, apply_ite State.tap, apply_ite State.pending]; done) | (simp_all [apply_ite State.clk, apply_ite State.pwr, apply_ite State.boot, apply_ite State.par, apply_ite State.sec, apply_ite State.bed, apply_ite State.dram, apply_ite State.pads, apply_ite State.integ, apply_ite State.tide, apply_ite State.tap, apply_ite State.pending]; done)))
@[simp] theorem frame_bankStart (n : Nat) (s : State) :
    (bankStart n s).clk = s.clk ∧ (bankStart n s).pwr = s.pwr ∧ (bankStart n s).boot = s.boot ∧ (bankStart n s).par = s.par ∧ (bankStart n s).sec = s.sec ∧ (bankStart n s).dram = s.dram ∧ (bankStart n s).pads = s.pads ∧ (bankStart n s).integ = s.integ ∧ (bankStart n s).tide = s.tide ∧ (bankStart n s).tap = s.tap ∧ (bankStart n s).pending = s.pending := by
  unfold bankStart
  first
    | (simp [apply_ite State.clk, apply_ite State.pwr, apply_ite State.boot, apply_ite State.par, apply_ite State.sec, apply_ite State.dram, apply_ite State.pads, apply_ite State.integ, apply_ite State.tide, apply_ite State.tap, apply_ite State.pending]; done)
    | ((repeat' split) <;> (first | (simp [apply_ite State.clk, apply_ite State.pwr, apply_ite State.boot, apply_ite State.par, apply_ite State.sec, apply_ite State.dram, apply_ite State.pads, apply_ite State.integ, apply_ite State.tide, apply_ite State.tap, apply_ite State.pending]; done) | (simp_all [apply_ite State.clk, apply_ite State.pwr, apply_ite State.boot, apply_ite State.par, apply_ite State.sec, apply_ite State.dram, apply_ite State.pads, apply_ite State.integ, apply_ite State.tide, apply_ite State.tap, apply_ite State.pending]; done)))
    | (dsimp only; (repeat' apply And.intro) <;> (repeat' split) <;> (first | (simp [apply_ite State.clk, apply_ite State.pwr, apply_ite State.boot, apply_ite State.par, apply_ite State.sec, apply_ite State.dram, apply_ite State.pads, apply_ite State.integ, apply_ite State.tide, apply_ite State.tap, apply_ite State.pending]; done) | (simp_all [apply_ite State.clk, apply_ite State.pwr, apply_ite State.boot, apply_ite State.par, apply_ite State.sec, apply_ite State.dram, apply_ite State.pads, apply_ite State.integ, apply_ite State.tide, apply_ite State.tap, apply_ite State.pending]; done)))
@[simp] theorem frame_bankAsk (n prio : Nat) (erase : Bool) (what : BedWrite) (s : State) :
    (bankAsk n prio erase what s).clk = s.clk ∧ (bankAsk n prio erase what s).pwr = s.pwr ∧ (bankAsk n prio erase what s).boot = s.boot ∧ (bankAsk n prio erase what s).par = s.par ∧ (bankAsk n prio erase what s).sec = s.sec ∧ (bankAsk n prio erase what s).dram = s.dram ∧ (bankAsk n prio erase what s).pads = s.pads ∧ (bankAsk n prio erase what s).integ = s.integ ∧ (bankAsk n prio erase what s).tide = s.tide ∧ (bankAsk n prio erase what s).tap = s.tap ∧ (bankAsk n prio erase what s).pending = s.pending := by
  unfold bankAsk
  first
    | (simp [apply_ite State.clk, apply_ite State.pwr, apply_ite State.boot, apply_ite State.par, apply_ite State.sec, apply_ite State.dram, apply_ite State.pads, apply_ite State.integ, apply_ite State.tide, apply_ite State.tap, apply_ite State.pending]; done)
    | ((repeat' split) <;> (first | (simp [apply_ite State.clk, apply_ite State.pwr, apply_ite State.boot, apply_ite State.par, apply_ite State.sec, apply_ite State.dram, apply_ite State.pads, apply_ite State.integ, apply_ite State.tide, apply_ite State.tap, apply_ite State.pending]; done) | (simp_all [apply_ite State.clk, apply_ite State.pwr, apply_ite State.boot, apply_ite State.par, apply_ite State.sec, apply_ite State.dram, apply_ite State.pads, apply_ite State.integ, apply_ite State.tide, apply_ite State.tap, apply_ite State.pending]; done)))
    | (dsimp only; (repeat' apply And.intro) <;> (repeat' split) <;> (first | (simp [apply_ite State.clk, apply_ite State.pwr, apply_ite State.boot, apply_ite State.par, apply_ite State.sec, apply_ite State.dram, apply_ite State.pads, apply_ite State.integ, apply_ite State.tide, apply_ite State.tap, apply_ite State.pending]; done) | (simp_all [apply_ite State.clk, apply_ite State.pwr, apply_ite State.boot, apply_ite State.par, apply_ite State.sec, apply_ite State.dram, apply_ite State.pads, apply_ite State.integ, apply_ite State.tide, apply_ite State.tap, apply_ite State.pending]; done)))
@[simp] theorem frame_writeRecord (r : BedRegion) (s : State) :
    (writeRecord r s).clk = s.clk ∧ (writeRecord r s).pwr = s.pwr ∧ (writeRecord r s).boot = s.boot ∧ (writeRecord r s).par = s.par ∧ (writeRecord r s).sec = s.sec ∧ (writeRecord r s).dram = s.dram ∧ (writeRecord r s).pads = s.pads ∧ (writeRecord r s).integ = s.integ ∧ (writeRecord r s).tide = s.tide ∧ (writeRecord r s).tap = s.tap ∧ (writeRecord r s).pending = s.pending := by
  unfold writeRecord
  first
    | (simp [apply_ite State.clk, apply_ite State.pwr, apply_ite State.boot, apply_ite State.par, apply_ite State.sec, apply_ite State.dram, apply_ite State.pads, apply_ite State.integ, apply_ite State.tide, apply_ite State.tap, apply_ite State.pending]; done)
    | ((repeat' split) <;> (first | (simp [apply_ite State.clk, apply_ite State.pwr, apply_ite State.boot, apply_ite State.par, apply_ite State.sec, apply_ite State.dram, apply_ite State.pads, apply_ite State.integ, apply_ite State.tide, apply_ite State.tap, apply_ite State.pending]; done) | (simp_all [apply_ite State.clk, apply_ite State.pwr, apply_ite State.boot, apply_ite State.par, apply_ite State.sec, apply_ite State.dram, apply_ite State.pads, apply_ite State.integ, apply_ite State.tide, apply_ite State.tap, apply_ite State.pending]; done)))
    | (dsimp only; (repeat' apply And.intro) <;> (repeat' split) <;> (first | (simp [apply_ite State.clk, apply_ite State.pwr, apply_ite State.boot, apply_ite State.par, apply_ite State.sec, apply_ite State.dram, apply_ite State.pads, apply_ite State.integ, apply_ite State.tide, apply_ite State.tap, apply_ite State.pending]; done) | (simp_all [apply_ite State.clk, apply_ite State.pwr, apply_ite State.boot, apply_ite State.par, apply_ite State.sec, apply_ite State.dram, apply_ite State.pads, apply_ite State.integ, apply_ite State.tide, apply_ite State.tap, apply_ite State.pending]; done)))
@[simp] theorem frame_setCopy (i n q : Nat) (s : State) :
    (setCopy i n q s).clk = s.clk ∧ (setCopy i n q s).pwr = s.pwr ∧ (setCopy i n q s).boot = s.boot ∧ (setCopy i n q s).par = s.par ∧ (setCopy i n q s).sec = s.sec ∧ (setCopy i n q s).dram = s.dram ∧ (setCopy i n q s).pads = s.pads ∧ (setCopy i n q s).integ = s.integ ∧ (setCopy i n q s).tide = s.tide ∧ (setCopy i n q s).tap = s.tap ∧ (setCopy i n q s).pending = s.pending := by
  unfold setCopy
  first
    | (simp [apply_ite State.clk, apply_ite State.pwr, apply_ite State.boot, apply_ite State.par, apply_ite State.sec, apply_ite State.dram, apply_ite State.pads, apply_ite State.integ, apply_ite State.tide, apply_ite State.tap, apply_ite State.pending]; done)
    | ((repeat' split) <;> (first | (simp [apply_ite State.clk, apply_ite State.pwr, apply_ite State.boot, apply_ite State.par, apply_ite State.sec, apply_ite State.dram, apply_ite State.pads, apply_ite State.integ, apply_ite State.tide, apply_ite State.tap, apply_ite State.pending]; done) | (simp_all [apply_ite State.clk, apply_ite State.pwr, apply_ite State.boot, apply_ite State.par, apply_ite State.sec, apply_ite State.dram, apply_ite State.pads, apply_ite State.integ, apply_ite State.tide, apply_ite State.tap, apply_ite State.pending]; done)))
    | (dsimp only; (repeat' apply And.intro) <;> (repeat' split) <;> (first | (simp [apply_ite State.clk, apply_ite State.pwr, apply_ite State.boot, apply_ite State.par, apply_ite State.sec, apply_ite State.dram, apply_ite State.pads, apply_ite State.integ, apply_ite State.tide, apply_ite State.tap, apply_ite State.pending]; done) | (simp_all [apply_ite State.clk, apply_ite State.pwr, apply_ite State.boot, apply_ite State.par, apply_ite State.sec, apply_ite State.dram, apply_ite State.pads, apply_ite State.integ, apply_ite State.tide, apply_ite State.tap, apply_ite State.pending]; done)))
@[simp] theorem frame_answerDue (s : State) :
    (answerDue s).clk = s.clk ∧ (answerDue s).pwr = s.pwr ∧ (answerDue s).boot = s.boot ∧ (answerDue s).par = s.par ∧ (answerDue s).sec = s.sec ∧ (answerDue s).dram = s.dram ∧ (answerDue s).pads = s.pads ∧ (answerDue s).integ = s.integ ∧ (answerDue s).tide = s.tide ∧ (answerDue s).tap = s.tap ∧ (answerDue s).pending = s.pending := by
  unfold answerDue
  first
    | (simp [apply_ite State.clk, apply_ite State.pwr, apply_ite State.boot, apply_ite State.par, apply_ite State.sec, apply_ite State.dram, apply_ite State.pads, apply_ite State.integ, apply_ite State.tide, apply_ite State.tap, apply_ite State.pending]; done)
    | ((repeat' split) <;> (first | (simp [apply_ite State.clk, apply_ite State.pwr, apply_ite State.boot, apply_ite State.par, apply_ite State.sec, apply_ite State.dram, apply_ite State.pads, apply_ite State.integ, apply_ite State.tide, apply_ite State.tap, apply_ite State.pending]; done) | (simp_all [apply_ite State.clk, apply_ite State.pwr, apply_ite State.boot, apply_ite State.par, apply_ite State.sec, apply_ite State.dram, apply_ite State.pads, apply_ite State.integ, apply_ite State.tide, apply_ite State.tap, apply_ite State.pending]; done)))
    | (dsimp only; (repeat' apply And.intro) <;> (repeat' split) <;> (first | (simp [apply_ite State.clk, apply_ite State.pwr, apply_ite State.boot, apply_ite State.par, apply_ite State.sec, apply_ite State.dram, apply_ite State.pads, apply_ite State.integ, apply_ite State.tide, apply_ite State.tap, apply_ite State.pending]; done) | (simp_all [apply_ite State.clk, apply_ite State.pwr, apply_ite State.boot, apply_ite State.par, apply_ite State.sec, apply_ite State.dram, apply_ite State.pads, apply_ite State.integ, apply_ite State.tide, apply_ite State.tap, apply_ite State.pending]; done)))
@[simp] theorem frame_recordThen (r : BedRegion) (both : Bool) (dest : DueTo) (payload : List Byte) (s : State) :
    (recordThen r both dest payload s).clk = s.clk ∧ (recordThen r both dest payload s).pwr = s.pwr ∧ (recordThen r both dest payload s).boot = s.boot ∧ (recordThen r both dest payload s).par = s.par ∧ (recordThen r both dest payload s).sec = s.sec ∧ (recordThen r both dest payload s).dram = s.dram ∧ (recordThen r both dest payload s).pads = s.pads ∧ (recordThen r both dest payload s).integ = s.integ ∧ (recordThen r both dest payload s).tide = s.tide ∧ (recordThen r both dest payload s).tap = s.tap ∧ (recordThen r both dest payload s).pending = s.pending := by
  unfold recordThen
  first
    | (simp [apply_ite State.clk, apply_ite State.pwr, apply_ite State.boot, apply_ite State.par, apply_ite State.sec, apply_ite State.dram, apply_ite State.pads, apply_ite State.integ, apply_ite State.tide, apply_ite State.tap, apply_ite State.pending]; done)
    | ((repeat' split) <;> (first | (simp [apply_ite State.clk, apply_ite State.pwr, apply_ite State.boot, apply_ite State.par, apply_ite State.sec, apply_ite State.dram, apply_ite State.pads, apply_ite State.integ, apply_ite State.tide, apply_ite State.tap, apply_ite State.pending]; done) | (simp_all [apply_ite State.clk, apply_ite State.pwr, apply_ite State.boot, apply_ite State.par, apply_ite State.sec, apply_ite State.dram, apply_ite State.pads, apply_ite State.integ, apply_ite State.tide, apply_ite State.tap, apply_ite State.pending]; done)))
    | (dsimp only; (repeat' apply And.intro) <;> (repeat' split) <;> (first | (simp [apply_ite State.clk, apply_ite State.pwr, apply_ite State.boot, apply_ite State.par, apply_ite State.sec, apply_ite State.dram, apply_ite State.pads, apply_ite State.integ, apply_ite State.tide, apply_ite State.tap, apply_ite State.pending]; done) | (simp_all [apply_ite State.clk, apply_ite State.pwr, apply_ite State.boot, apply_ite State.par, apply_ite State.sec, apply_ite State.dram, apply_ite State.pads, apply_ite State.integ, apply_ite State.tide, apply_ite State.tap, apply_ite State.pending]; done)))
@[simp] theorem frame_recordDone (r : BedRegion) (n : Nat) (s : State) :
    (recordDone r n s).clk = s.clk ∧ (recordDone r n s).pwr = s.pwr ∧ (recordDone r n s).boot = s.boot ∧ (recordDone r n s).par = s.par ∧ (recordDone r n s).sec = s.sec ∧ (recordDone r n s).dram = s.dram ∧ (recordDone r n s).pads = s.pads ∧ (recordDone r n s).integ = s.integ ∧ (recordDone r n s).tide = s.tide ∧ (recordDone r n s).tap = s.tap ∧ (recordDone r n s).pending = s.pending := by
  unfold recordDone
  first
    | (simp [apply_ite State.clk, apply_ite State.pwr, apply_ite State.boot, apply_ite State.par, apply_ite State.sec, apply_ite State.dram, apply_ite State.pads, apply_ite State.integ, apply_ite State.tide, apply_ite State.tap, apply_ite State.pending]; done)
    | ((repeat' split) <;> (first | (simp [apply_ite State.clk, apply_ite State.pwr, apply_ite State.boot, apply_ite State.par, apply_ite State.sec, apply_ite State.dram, apply_ite State.pads, apply_ite State.integ, apply_ite State.tide, apply_ite State.tap, apply_ite State.pending]; done) | (simp_all [apply_ite State.clk, apply_ite State.pwr, apply_ite State.boot, apply_ite State.par, apply_ite State.sec, apply_ite State.dram, apply_ite State.pads, apply_ite State.integ, apply_ite State.tide, apply_ite State.tap, apply_ite State.pending]; done)))
    | (dsimp only; (repeat' apply And.intro) <;> (repeat' split) <;> (first | (simp [apply_ite State.clk, apply_ite State.pwr, apply_ite State.boot, apply_ite State.par, apply_ite State.sec, apply_ite State.dram, apply_ite State.pads, apply_ite State.integ, apply_ite State.tide, apply_ite State.tap, apply_ite State.pending]; done) | (simp_all [apply_ite State.clk, apply_ite State.pwr, apply_ite State.boot, apply_ite State.par, apply_ite State.sec, apply_ite State.dram, apply_ite State.pads, apply_ite State.integ, apply_ite State.tide, apply_ite State.tap, apply_ite State.pending]; done)))
@[simp] theorem frame_programAnchor (ebb : Bool) (k : Ckpt) (s : State) :
    (programAnchor ebb k s).clk = s.clk ∧ (programAnchor ebb k s).pwr = s.pwr ∧ (programAnchor ebb k s).boot = s.boot ∧ (programAnchor ebb k s).par = s.par ∧ (programAnchor ebb k s).sec = s.sec ∧ (programAnchor ebb k s).dram = s.dram ∧ (programAnchor ebb k s).pads = s.pads ∧ (programAnchor ebb k s).integ = s.integ ∧ (programAnchor ebb k s).tide = s.tide ∧ (programAnchor ebb k s).tap = s.tap ∧ (programAnchor ebb k s).pending = s.pending := by
  unfold programAnchor
  first
    | (simp [apply_ite State.clk, apply_ite State.pwr, apply_ite State.boot, apply_ite State.par, apply_ite State.sec, apply_ite State.dram, apply_ite State.pads, apply_ite State.integ, apply_ite State.tide, apply_ite State.tap, apply_ite State.pending]; done)
    | ((repeat' split) <;> (first | (simp [apply_ite State.clk, apply_ite State.pwr, apply_ite State.boot, apply_ite State.par, apply_ite State.sec, apply_ite State.dram, apply_ite State.pads, apply_ite State.integ, apply_ite State.tide, apply_ite State.tap, apply_ite State.pending]; done) | (simp_all [apply_ite State.clk, apply_ite State.pwr, apply_ite State.boot, apply_ite State.par, apply_ite State.sec, apply_ite State.dram, apply_ite State.pads, apply_ite State.integ, apply_ite State.tide, apply_ite State.tap, apply_ite State.pending]; done)))
    | (dsimp only; (repeat' apply And.intro) <;> (repeat' split) <;> (first | (simp [apply_ite State.clk, apply_ite State.pwr, apply_ite State.boot, apply_ite State.par, apply_ite State.sec, apply_ite State.dram, apply_ite State.pads, apply_ite State.integ, apply_ite State.tide, apply_ite State.tap, apply_ite State.pending]; done) | (simp_all [apply_ite State.clk, apply_ite State.pwr, apply_ite State.boot, apply_ite State.par, apply_ite State.sec, apply_ite State.dram, apply_ite State.pads, apply_ite State.integ, apply_ite State.tide, apply_ite State.tap, apply_ite State.pending]; done)))
@[simp] theorem frame_anchorReady (s : State) :
    (anchorReady s).clk = s.clk ∧ (anchorReady s).pwr = s.pwr ∧ (anchorReady s).boot = s.boot ∧ (anchorReady s).par = s.par ∧ (anchorReady s).sec = s.sec ∧ (anchorReady s).dram = s.dram ∧ (anchorReady s).pads = s.pads ∧ (anchorReady s).integ = s.integ ∧ (anchorReady s).tide = s.tide ∧ (anchorReady s).tap = s.tap ∧ (anchorReady s).pending = s.pending := by
  unfold anchorReady
  first
    | (simp [apply_ite State.clk, apply_ite State.pwr, apply_ite State.boot, apply_ite State.par, apply_ite State.sec, apply_ite State.dram, apply_ite State.pads, apply_ite State.integ, apply_ite State.tide, apply_ite State.tap, apply_ite State.pending]; done)
    | ((repeat' split) <;> (first | (simp [apply_ite State.clk, apply_ite State.pwr, apply_ite State.boot, apply_ite State.par, apply_ite State.sec, apply_ite State.dram, apply_ite State.pads, apply_ite State.integ, apply_ite State.tide, apply_ite State.tap, apply_ite State.pending]; done) | (simp_all [apply_ite State.clk, apply_ite State.pwr, apply_ite State.boot, apply_ite State.par, apply_ite State.sec, apply_ite State.dram, apply_ite State.pads, apply_ite State.integ, apply_ite State.tide, apply_ite State.tap, apply_ite State.pending]; done)))
    | (dsimp only; (repeat' apply And.intro) <;> (repeat' split) <;> (first | (simp [apply_ite State.clk, apply_ite State.pwr, apply_ite State.boot, apply_ite State.par, apply_ite State.sec, apply_ite State.dram, apply_ite State.pads, apply_ite State.integ, apply_ite State.tide, apply_ite State.tap, apply_ite State.pending]; done) | (simp_all [apply_ite State.clk, apply_ite State.pwr, apply_ite State.boot, apply_ite State.par, apply_ite State.sec, apply_ite State.dram, apply_ite State.pads, apply_ite State.integ, apply_ite State.tide, apply_ite State.tap, apply_ite State.pending]; done)))
@[simp] theorem frame_requestAnchor (ebb : Bool) (s : State) :
    (requestAnchor ebb s).clk = s.clk ∧ (requestAnchor ebb s).pwr = s.pwr ∧ (requestAnchor ebb s).boot = s.boot ∧ (requestAnchor ebb s).par = s.par ∧ (requestAnchor ebb s).sec = s.sec ∧ (requestAnchor ebb s).dram = s.dram ∧ (requestAnchor ebb s).pads = s.pads ∧ (requestAnchor ebb s).integ = s.integ ∧ (requestAnchor ebb s).tide = s.tide ∧ (requestAnchor ebb s).tap = s.tap ∧ (requestAnchor ebb s).pending = s.pending := by
  unfold requestAnchor
  first
    | (simp [apply_ite State.clk, apply_ite State.pwr, apply_ite State.boot, apply_ite State.par, apply_ite State.sec, apply_ite State.dram, apply_ite State.pads, apply_ite State.integ, apply_ite State.tide, apply_ite State.tap, apply_ite State.pending]; done)
    | ((repeat' split) <;> (first | (simp [apply_ite State.clk, apply_ite State.pwr, apply_ite State.boot, apply_ite State.par, apply_ite State.sec, apply_ite State.dram, apply_ite State.pads, apply_ite State.integ, apply_ite State.tide, apply_ite State.tap, apply_ite State.pending]; done) | (simp_all [apply_ite State.clk, apply_ite State.pwr, apply_ite State.boot, apply_ite State.par, apply_ite State.sec, apply_ite State.dram, apply_ite State.pads, apply_ite State.integ, apply_ite State.tide, apply_ite State.tap, apply_ite State.pending]; done)))
    | (dsimp only; (repeat' apply And.intro) <;> (repeat' split) <;> (first | (simp [apply_ite State.clk, apply_ite State.pwr, apply_ite State.boot, apply_ite State.par, apply_ite State.sec, apply_ite State.dram, apply_ite State.pads, apply_ite State.integ, apply_ite State.tide, apply_ite State.tap, apply_ite State.pending]; done) | (simp_all [apply_ite State.clk, apply_ite State.pwr, apply_ite State.boot, apply_ite State.par, apply_ite State.sec, apply_ite State.dram, apply_ite State.pads, apply_ite State.integ, apply_ite State.tide, apply_ite State.tap, apply_ite State.pending]; done)))
@[simp] theorem frame_askAnchor (s : State) :
    (askAnchor s).clk = s.clk ∧ (askAnchor s).pwr = s.pwr ∧ (askAnchor s).boot = s.boot ∧ (askAnchor s).par = s.par ∧ (askAnchor s).sec = s.sec ∧ (askAnchor s).dram = s.dram ∧ (askAnchor s).pads = s.pads ∧ (askAnchor s).integ = s.integ ∧ (askAnchor s).tide = s.tide ∧ (askAnchor s).tap = s.tap ∧ (askAnchor s).pending = s.pending := by
  unfold askAnchor
  first
    | (simp [apply_ite State.clk, apply_ite State.pwr, apply_ite State.boot, apply_ite State.par, apply_ite State.sec, apply_ite State.dram, apply_ite State.pads, apply_ite State.integ, apply_ite State.tide, apply_ite State.tap, apply_ite State.pending]; done)
    | ((repeat' split) <;> (first | (simp [apply_ite State.clk, apply_ite State.pwr, apply_ite State.boot, apply_ite State.par, apply_ite State.sec, apply_ite State.dram, apply_ite State.pads, apply_ite State.integ, apply_ite State.tide, apply_ite State.tap, apply_ite State.pending]; done) | (simp_all [apply_ite State.clk, apply_ite State.pwr, apply_ite State.boot, apply_ite State.par, apply_ite State.sec, apply_ite State.dram, apply_ite State.pads, apply_ite State.integ, apply_ite State.tide, apply_ite State.tap, apply_ite State.pending]; done)))
    | (dsimp only; (repeat' apply And.intro) <;> (repeat' split) <;> (first | (simp [apply_ite State.clk, apply_ite State.pwr, apply_ite State.boot, apply_ite State.par, apply_ite State.sec, apply_ite State.dram, apply_ite State.pads, apply_ite State.integ, apply_ite State.tide, apply_ite State.tap, apply_ite State.pending]; done) | (simp_all [apply_ite State.clk, apply_ite State.pwr, apply_ite State.boot, apply_ite State.par, apply_ite State.sec, apply_ite State.dram, apply_ite State.pads, apply_ite State.integ, apply_ite State.tide, apply_ite State.tap, apply_ite State.pending]; done)))
@[simp] theorem frame_anchorDone (good : Bool) (s : State) :
    (anchorDone good s).clk = s.clk ∧ (anchorDone good s).pwr = s.pwr ∧ (anchorDone good s).boot = s.boot ∧ (anchorDone good s).par = s.par ∧ (anchorDone good s).dram = s.dram ∧ (anchorDone good s).pads = s.pads ∧ (anchorDone good s).integ = s.integ ∧ (anchorDone good s).tide = s.tide ∧ (anchorDone good s).tap = s.tap ∧ (anchorDone good s).pending = s.pending := by
  unfold anchorDone
  first
    | (simp [apply_ite State.clk, apply_ite State.pwr, apply_ite State.boot, apply_ite State.par, apply_ite State.dram, apply_ite State.pads, apply_ite State.integ, apply_ite State.tide, apply_ite State.tap, apply_ite State.pending]; done)
    | ((repeat' split) <;> (first | (simp [apply_ite State.clk, apply_ite State.pwr, apply_ite State.boot, apply_ite State.par, apply_ite State.dram, apply_ite State.pads, apply_ite State.integ, apply_ite State.tide, apply_ite State.tap, apply_ite State.pending]; done) | (simp_all [apply_ite State.clk, apply_ite State.pwr, apply_ite State.boot, apply_ite State.par, apply_ite State.dram, apply_ite State.pads, apply_ite State.integ, apply_ite State.tide, apply_ite State.tap, apply_ite State.pending]; done)))
    | (dsimp only; (repeat' apply And.intro) <;> (repeat' split) <;> (first | (simp [apply_ite State.clk, apply_ite State.pwr, apply_ite State.boot, apply_ite State.par, apply_ite State.dram, apply_ite State.pads, apply_ite State.integ, apply_ite State.tide, apply_ite State.tap, apply_ite State.pending]; done) | (simp_all [apply_ite State.clk, apply_ite State.pwr, apply_ite State.boot, apply_ite State.par, apply_ite State.dram, apply_ite State.pads, apply_ite State.integ, apply_ite State.tide, apply_ite State.tap, apply_ite State.pending]; done)))
@[simp] theorem frame_setImage (s : State) (n : Nat) (i : Image) :
    (State.setImage s n i).clk = s.clk ∧ (State.setImage s n i).pwr = s.pwr ∧ (State.setImage s n i).boot = s.boot ∧ (State.setImage s n i).par = s.par ∧ (State.setImage s n i).sec = s.sec ∧ (State.setImage s n i).dram = s.dram ∧ (State.setImage s n i).pads = s.pads ∧ (State.setImage s n i).integ = s.integ ∧ (State.setImage s n i).tide = s.tide ∧ (State.setImage s n i).tap = s.tap ∧ (State.setImage s n i).pending = s.pending := by
  unfold State.setImage
  first
    | (simp [apply_ite State.clk, apply_ite State.pwr, apply_ite State.boot, apply_ite State.par, apply_ite State.sec, apply_ite State.dram, apply_ite State.pads, apply_ite State.integ, apply_ite State.tide, apply_ite State.tap, apply_ite State.pending]; done)
    | ((repeat' split) <;> (first | (simp [apply_ite State.clk, apply_ite State.pwr, apply_ite State.boot, apply_ite State.par, apply_ite State.sec, apply_ite State.dram, apply_ite State.pads, apply_ite State.integ, apply_ite State.tide, apply_ite State.tap, apply_ite State.pending]; done) | (simp_all [apply_ite State.clk, apply_ite State.pwr, apply_ite State.boot, apply_ite State.par, apply_ite State.sec, apply_ite State.dram, apply_ite State.pads, apply_ite State.integ, apply_ite State.tide, apply_ite State.tap, apply_ite State.pending]; done)))
    | (dsimp only; (repeat' apply And.intro) <;> (repeat' split) <;> (first | (simp [apply_ite State.clk, apply_ite State.pwr, apply_ite State.boot, apply_ite State.par, apply_ite State.sec, apply_ite State.dram, apply_ite State.pads, apply_ite State.integ, apply_ite State.tide, apply_ite State.tap, apply_ite State.pending]; done) | (simp_all [apply_ite State.clk, apply_ite State.pwr, apply_ite State.boot, apply_ite State.par, apply_ite State.sec, apply_ite State.dram, apply_ite State.pads, apply_ite State.integ, apply_ite State.tide, apply_ite State.tap, apply_ite State.pending]; done)))
@[simp] theorem frame_stagePage (s : State) :
    (stagePage s).clk = s.clk ∧ (stagePage s).pwr = s.pwr ∧ (stagePage s).boot = s.boot ∧ (stagePage s).par = s.par ∧ (stagePage s).sec = s.sec ∧ (stagePage s).dram = s.dram ∧ (stagePage s).pads = s.pads ∧ (stagePage s).integ = s.integ ∧ (stagePage s).tide = s.tide ∧ (stagePage s).tap = s.tap ∧ (stagePage s).pending = s.pending := by
  unfold stagePage
  first
    | (simp [apply_ite State.clk, apply_ite State.pwr, apply_ite State.boot, apply_ite State.par, apply_ite State.sec, apply_ite State.dram, apply_ite State.pads, apply_ite State.integ, apply_ite State.tide, apply_ite State.tap, apply_ite State.pending]; done)
    | ((repeat' split) <;> (first | (simp [apply_ite State.clk, apply_ite State.pwr, apply_ite State.boot, apply_ite State.par, apply_ite State.sec, apply_ite State.dram, apply_ite State.pads, apply_ite State.integ, apply_ite State.tide, apply_ite State.tap, apply_ite State.pending]; done) | (simp_all [apply_ite State.clk, apply_ite State.pwr, apply_ite State.boot, apply_ite State.par, apply_ite State.sec, apply_ite State.dram, apply_ite State.pads, apply_ite State.integ, apply_ite State.tide, apply_ite State.tap, apply_ite State.pending]; done)))
    | (dsimp only; (repeat' apply And.intro) <;> (repeat' split) <;> (first | (simp [apply_ite State.clk, apply_ite State.pwr, apply_ite State.boot, apply_ite State.par, apply_ite State.sec, apply_ite State.dram, apply_ite State.pads, apply_ite State.integ, apply_ite State.tide, apply_ite State.tap, apply_ite State.pending]; done) | (simp_all [apply_ite State.clk, apply_ite State.pwr, apply_ite State.boot, apply_ite State.par, apply_ite State.sec, apply_ite State.dram, apply_ite State.pads, apply_ite State.integ, apply_ite State.tide, apply_ite State.tap, apply_ite State.pending]; done)))
@[simp] theorem frame_stageErased (s : State) :
    (stageErased s).clk = s.clk ∧ (stageErased s).pwr = s.pwr ∧ (stageErased s).boot = s.boot ∧ (stageErased s).par = s.par ∧ (stageErased s).sec = s.sec ∧ (stageErased s).dram = s.dram ∧ (stageErased s).pads = s.pads ∧ (stageErased s).integ = s.integ ∧ (stageErased s).tide = s.tide ∧ (stageErased s).tap = s.tap ∧ (stageErased s).pending = s.pending := by
  unfold stageErased
  first
    | (simp [apply_ite State.clk, apply_ite State.pwr, apply_ite State.boot, apply_ite State.par, apply_ite State.sec, apply_ite State.dram, apply_ite State.pads, apply_ite State.integ, apply_ite State.tide, apply_ite State.tap, apply_ite State.pending]; done)
    | ((repeat' split) <;> (first | (simp [apply_ite State.clk, apply_ite State.pwr, apply_ite State.boot, apply_ite State.par, apply_ite State.sec, apply_ite State.dram, apply_ite State.pads, apply_ite State.integ, apply_ite State.tide, apply_ite State.tap, apply_ite State.pending]; done) | (simp_all [apply_ite State.clk, apply_ite State.pwr, apply_ite State.boot, apply_ite State.par, apply_ite State.sec, apply_ite State.dram, apply_ite State.pads, apply_ite State.integ, apply_ite State.tide, apply_ite State.tap, apply_ite State.pending]; done)))
    | (dsimp only; (repeat' apply And.intro) <;> (repeat' split) <;> (first | (simp [apply_ite State.clk, apply_ite State.pwr, apply_ite State.boot, apply_ite State.par, apply_ite State.sec, apply_ite State.dram, apply_ite State.pads, apply_ite State.integ, apply_ite State.tide, apply_ite State.tap, apply_ite State.pending]; done) | (simp_all [apply_ite State.clk, apply_ite State.pwr, apply_ite State.boot, apply_ite State.par, apply_ite State.sec, apply_ite State.dram, apply_ite State.pads, apply_ite State.integ, apply_ite State.tide, apply_ite State.tap, apply_ite State.pending]; done)))
@[simp] theorem frame_stageProgrammed (s : State) :
    (stageProgrammed s).clk = s.clk ∧ (stageProgrammed s).pwr = s.pwr ∧ (stageProgrammed s).boot = s.boot ∧ (stageProgrammed s).par = s.par ∧ (stageProgrammed s).sec = s.sec ∧ (stageProgrammed s).dram = s.dram ∧ (stageProgrammed s).pads = s.pads ∧ (stageProgrammed s).integ = s.integ ∧ (stageProgrammed s).tide = s.tide ∧ (stageProgrammed s).tap = s.tap ∧ (stageProgrammed s).pending = s.pending := by
  unfold stageProgrammed
  first
    | (simp [apply_ite State.clk, apply_ite State.pwr, apply_ite State.boot, apply_ite State.par, apply_ite State.sec, apply_ite State.dram, apply_ite State.pads, apply_ite State.integ, apply_ite State.tide, apply_ite State.tap, apply_ite State.pending]; done)
    | ((repeat' split) <;> (first | (simp [apply_ite State.clk, apply_ite State.pwr, apply_ite State.boot, apply_ite State.par, apply_ite State.sec, apply_ite State.dram, apply_ite State.pads, apply_ite State.integ, apply_ite State.tide, apply_ite State.tap, apply_ite State.pending]; done) | (simp_all [apply_ite State.clk, apply_ite State.pwr, apply_ite State.boot, apply_ite State.par, apply_ite State.sec, apply_ite State.dram, apply_ite State.pads, apply_ite State.integ, apply_ite State.tide, apply_ite State.tap, apply_ite State.pending]; done)))
    | (dsimp only; (repeat' apply And.intro) <;> (repeat' split) <;> (first | (simp [apply_ite State.clk, apply_ite State.pwr, apply_ite State.boot, apply_ite State.par, apply_ite State.sec, apply_ite State.dram, apply_ite State.pads, apply_ite State.integ, apply_ite State.tide, apply_ite State.tap, apply_ite State.pending]; done) | (simp_all [apply_ite State.clk, apply_ite State.pwr, apply_ite State.boot, apply_ite State.par, apply_ite State.sec, apply_ite State.dram, apply_ite State.pads, apply_ite State.integ, apply_ite State.tide, apply_ite State.tap, apply_ite State.pending]; done)))
@[simp] theorem frame_stageFailed (s : State) :
    (stageFailed s).clk = s.clk ∧ (stageFailed s).pwr = s.pwr ∧ (stageFailed s).boot = s.boot ∧ (stageFailed s).par = s.par ∧ (stageFailed s).sec = s.sec ∧ (stageFailed s).dram = s.dram ∧ (stageFailed s).pads = s.pads ∧ (stageFailed s).integ = s.integ ∧ (stageFailed s).tide = s.tide ∧ (stageFailed s).tap = s.tap ∧ (stageFailed s).pending = s.pending := by
  unfold stageFailed
  first
    | (simp [apply_ite State.clk, apply_ite State.pwr, apply_ite State.boot, apply_ite State.par, apply_ite State.sec, apply_ite State.dram, apply_ite State.pads, apply_ite State.integ, apply_ite State.tide, apply_ite State.tap, apply_ite State.pending]; done)
    | ((repeat' split) <;> (first | (simp [apply_ite State.clk, apply_ite State.pwr, apply_ite State.boot, apply_ite State.par, apply_ite State.sec, apply_ite State.dram, apply_ite State.pads, apply_ite State.integ, apply_ite State.tide, apply_ite State.tap, apply_ite State.pending]; done) | (simp_all [apply_ite State.clk, apply_ite State.pwr, apply_ite State.boot, apply_ite State.par, apply_ite State.sec, apply_ite State.dram, apply_ite State.pads, apply_ite State.integ, apply_ite State.tide, apply_ite State.tap, apply_ite State.pending]; done)))
    | (dsimp only; (repeat' apply And.intro) <;> (repeat' split) <;> (first | (simp [apply_ite State.clk, apply_ite State.pwr, apply_ite State.boot, apply_ite State.par, apply_ite State.sec, apply_ite State.dram, apply_ite State.pads, apply_ite State.integ, apply_ite State.tide, apply_ite State.tap, apply_ite State.pending]; done) | (simp_all [apply_ite State.clk, apply_ite State.pwr, apply_ite State.boot, apply_ite State.par, apply_ite State.sec, apply_ite State.dram, apply_ite State.pads, apply_ite State.integ, apply_ite State.tide, apply_ite State.tap, apply_ite State.pending]; done)))
@[simp] theorem frame_refreshRegion (r : BedRegion) (s : State) :
    (refreshRegion r s).clk = s.clk ∧ (refreshRegion r s).pwr = s.pwr ∧ (refreshRegion r s).boot = s.boot ∧ (refreshRegion r s).par = s.par ∧ (refreshRegion r s).sec = s.sec ∧ (refreshRegion r s).dram = s.dram ∧ (refreshRegion r s).pads = s.pads ∧ (refreshRegion r s).integ = s.integ ∧ (refreshRegion r s).tide = s.tide ∧ (refreshRegion r s).tap = s.tap ∧ (refreshRegion r s).pending = s.pending := by
  unfold refreshRegion
  first
    | (simp [apply_ite State.clk, apply_ite State.pwr, apply_ite State.boot, apply_ite State.par, apply_ite State.sec, apply_ite State.dram, apply_ite State.pads, apply_ite State.integ, apply_ite State.tide, apply_ite State.tap, apply_ite State.pending]; done)
    | ((repeat' split) <;> (first | (simp [apply_ite State.clk, apply_ite State.pwr, apply_ite State.boot, apply_ite State.par, apply_ite State.sec, apply_ite State.dram, apply_ite State.pads, apply_ite State.integ, apply_ite State.tide, apply_ite State.tap, apply_ite State.pending]; done) | (simp_all [apply_ite State.clk, apply_ite State.pwr, apply_ite State.boot, apply_ite State.par, apply_ite State.sec, apply_ite State.dram, apply_ite State.pads, apply_ite State.integ, apply_ite State.tide, apply_ite State.tap, apply_ite State.pending]; done)))
    | (dsimp only; (repeat' apply And.intro) <;> (repeat' split) <;> (first | (simp [apply_ite State.clk, apply_ite State.pwr, apply_ite State.boot, apply_ite State.par, apply_ite State.sec, apply_ite State.dram, apply_ite State.pads, apply_ite State.integ, apply_ite State.tide, apply_ite State.tap, apply_ite State.pending]; done) | (simp_all [apply_ite State.clk, apply_ite State.pwr, apply_ite State.boot, apply_ite State.par, apply_ite State.sec, apply_ite State.dram, apply_ite State.pads, apply_ite State.integ, apply_ite State.tide, apply_ite State.tap, apply_ite State.pending]; done)))
@[simp] theorem frame_fallBack (r : BedRegion) (s : State) :
    (fallBack r s).clk = s.clk ∧ (fallBack r s).pwr = s.pwr ∧ (fallBack r s).boot = s.boot ∧ (fallBack r s).par = s.par ∧ (fallBack r s).sec = s.sec ∧ (fallBack r s).dram = s.dram ∧ (fallBack r s).pads = s.pads ∧ (fallBack r s).integ = s.integ ∧ (fallBack r s).tide = s.tide ∧ (fallBack r s).tap = s.tap ∧ (fallBack r s).pending = s.pending := by
  unfold fallBack
  first
    | (simp [apply_ite State.clk, apply_ite State.pwr, apply_ite State.boot, apply_ite State.par, apply_ite State.sec, apply_ite State.dram, apply_ite State.pads, apply_ite State.integ, apply_ite State.tide, apply_ite State.tap, apply_ite State.pending]; done)
    | ((repeat' split) <;> (first | (simp [apply_ite State.clk, apply_ite State.pwr, apply_ite State.boot, apply_ite State.par, apply_ite State.sec, apply_ite State.dram, apply_ite State.pads, apply_ite State.integ, apply_ite State.tide, apply_ite State.tap, apply_ite State.pending]; done) | (simp_all [apply_ite State.clk, apply_ite State.pwr, apply_ite State.boot, apply_ite State.par, apply_ite State.sec, apply_ite State.dram, apply_ite State.pads, apply_ite State.integ, apply_ite State.tide, apply_ite State.tap, apply_ite State.pending]; done)))
    | (dsimp only; (repeat' apply And.intro) <;> (repeat' split) <;> (first | (simp [apply_ite State.clk, apply_ite State.pwr, apply_ite State.boot, apply_ite State.par, apply_ite State.sec, apply_ite State.dram, apply_ite State.pads, apply_ite State.integ, apply_ite State.tide, apply_ite State.tap, apply_ite State.pending]; done) | (simp_all [apply_ite State.clk, apply_ite State.pwr, apply_ite State.boot, apply_ite State.par, apply_ite State.sec, apply_ite State.dram, apply_ite State.pads, apply_ite State.integ, apply_ite State.tide, apply_ite State.tap, apply_ite State.pending]; done)))
@[simp] theorem frame_extendMeas (n : Nat) (event : List Byte) (s : State) :
    (extendMeas n event s).clk = s.clk ∧ (extendMeas n event s).pwr = s.pwr ∧ (extendMeas n event s).boot = s.boot ∧ (extendMeas n event s).par = s.par ∧ (extendMeas n event s).bed = s.bed ∧ (extendMeas n event s).dram = s.dram ∧ (extendMeas n event s).pads = s.pads ∧ (extendMeas n event s).integ = s.integ ∧ (extendMeas n event s).tide = s.tide ∧ (extendMeas n event s).tap = s.tap ∧ (extendMeas n event s).pending = s.pending := by
  unfold extendMeas
  first
    | (simp [apply_ite State.clk, apply_ite State.pwr, apply_ite State.boot, apply_ite State.par, apply_ite State.bed, apply_ite State.dram, apply_ite State.pads, apply_ite State.integ, apply_ite State.tide, apply_ite State.tap, apply_ite State.pending]; done)
    | ((repeat' split) <;> (first | (simp [apply_ite State.clk, apply_ite State.pwr, apply_ite State.boot, apply_ite State.par, apply_ite State.bed, apply_ite State.dram, apply_ite State.pads, apply_ite State.integ, apply_ite State.tide, apply_ite State.tap, apply_ite State.pending]; done) | (simp_all [apply_ite State.clk, apply_ite State.pwr, apply_ite State.boot, apply_ite State.par, apply_ite State.bed, apply_ite State.dram, apply_ite State.pads, apply_ite State.integ, apply_ite State.tide, apply_ite State.tap, apply_ite State.pending]; done)))
    | (dsimp only; (repeat' apply And.intro) <;> (repeat' split) <;> (first | (simp [apply_ite State.clk, apply_ite State.pwr, apply_ite State.boot, apply_ite State.par, apply_ite State.bed, apply_ite State.dram, apply_ite State.pads, apply_ite State.integ, apply_ite State.tide, apply_ite State.tap, apply_ite State.pending]; done) | (simp_all [apply_ite State.clk, apply_ite State.pwr, apply_ite State.boot, apply_ite State.par, apply_ite State.bed, apply_ite State.dram, apply_ite State.pads, apply_ite State.integ, apply_ite State.tide, apply_ite State.tap, apply_ite State.pending]; done)))
@[simp] theorem frame_bindSetpoint (id v : Nat) (s : State) :
    (bindSetpoint id v s).clk = s.clk ∧ (bindSetpoint id v s).pwr = s.pwr ∧ (bindSetpoint id v s).boot = s.boot ∧ (bindSetpoint id v s).par = s.par ∧ (bindSetpoint id v s).sec = s.sec ∧ (bindSetpoint id v s).bed = s.bed ∧ (bindSetpoint id v s).dram = s.dram ∧ (bindSetpoint id v s).pads = s.pads ∧ (bindSetpoint id v s).integ = s.integ ∧ (bindSetpoint id v s).tap = s.tap ∧ (bindSetpoint id v s).pending = s.pending := by
  unfold bindSetpoint
  first
    | (simp [apply_ite State.clk, apply_ite State.pwr, apply_ite State.boot, apply_ite State.par, apply_ite State.sec, apply_ite State.bed, apply_ite State.dram, apply_ite State.pads, apply_ite State.integ, apply_ite State.tap, apply_ite State.pending]; done)
    | ((repeat' split) <;> (first | (simp [apply_ite State.clk, apply_ite State.pwr, apply_ite State.boot, apply_ite State.par, apply_ite State.sec, apply_ite State.bed, apply_ite State.dram, apply_ite State.pads, apply_ite State.integ, apply_ite State.tap, apply_ite State.pending]; done) | (simp_all [apply_ite State.clk, apply_ite State.pwr, apply_ite State.boot, apply_ite State.par, apply_ite State.sec, apply_ite State.bed, apply_ite State.dram, apply_ite State.pads, apply_ite State.integ, apply_ite State.tap, apply_ite State.pending]; done)))
    | (dsimp only; (repeat' apply And.intro) <;> (repeat' split) <;> (first | (simp [apply_ite State.clk, apply_ite State.pwr, apply_ite State.boot, apply_ite State.par, apply_ite State.sec, apply_ite State.bed, apply_ite State.dram, apply_ite State.pads, apply_ite State.integ, apply_ite State.tap, apply_ite State.pending]; done) | (simp_all [apply_ite State.clk, apply_ite State.pwr, apply_ite State.boot, apply_ite State.par, apply_ite State.sec, apply_ite State.bed, apply_ite State.dram, apply_ite State.pads, apply_ite State.integ, apply_ite State.tap, apply_ite State.pending]; done)))
@[simp] theorem frame_setParam (id v : Nat) (s : State) :
    (setParam id v s).clk = s.clk ∧ (setParam id v s).pwr = s.pwr ∧ (setParam id v s).boot = s.boot ∧ (setParam id v s).sec = s.sec ∧ (setParam id v s).dram = s.dram ∧ (setParam id v s).pads = s.pads ∧ (setParam id v s).integ = s.integ ∧ (setParam id v s).tap = s.tap ∧ (setParam id v s).pending = s.pending := by
  unfold setParam
  first
    | (simp [apply_ite State.clk, apply_ite State.pwr, apply_ite State.boot, apply_ite State.sec, apply_ite State.dram, apply_ite State.pads, apply_ite State.integ, apply_ite State.tap, apply_ite State.pending]; done)
    | ((repeat' split) <;> (first | (simp [apply_ite State.clk, apply_ite State.pwr, apply_ite State.boot, apply_ite State.sec, apply_ite State.dram, apply_ite State.pads, apply_ite State.integ, apply_ite State.tap, apply_ite State.pending]; done) | (simp_all [apply_ite State.clk, apply_ite State.pwr, apply_ite State.boot, apply_ite State.sec, apply_ite State.dram, apply_ite State.pads, apply_ite State.integ, apply_ite State.tap, apply_ite State.pending]; done)))
    | (dsimp only; (repeat' apply And.intro) <;> (repeat' split) <;> (first | (simp [apply_ite State.clk, apply_ite State.pwr, apply_ite State.boot, apply_ite State.sec, apply_ite State.dram, apply_ite State.pads, apply_ite State.integ, apply_ite State.tap, apply_ite State.pending]; done) | (simp_all [apply_ite State.clk, apply_ite State.pwr, apply_ite State.boot, apply_ite State.sec, apply_ite State.dram, apply_ite State.pads, apply_ite State.integ, apply_ite State.tap, apply_ite State.pending]; done)))
@[simp] theorem frame_applyParams (r : MbReq) (m : Option Mbx) (s : State) :
    (applyParams r m s).clk = s.clk ∧ (applyParams r m s).pwr = s.pwr ∧ (applyParams r m s).boot = s.boot ∧ (applyParams r m s).sec = s.sec ∧ (applyParams r m s).dram = s.dram ∧ (applyParams r m s).pads = s.pads ∧ (applyParams r m s).integ = s.integ ∧ (applyParams r m s).tap = s.tap ∧ (applyParams r m s).pending = s.pending := by
  unfold applyParams
  first
    | (simp [apply_ite State.clk, apply_ite State.pwr, apply_ite State.boot, apply_ite State.sec, apply_ite State.dram, apply_ite State.pads, apply_ite State.integ, apply_ite State.tap, apply_ite State.pending]; done)
    | ((repeat' split) <;> (first | (simp [apply_ite State.clk, apply_ite State.pwr, apply_ite State.boot, apply_ite State.sec, apply_ite State.dram, apply_ite State.pads, apply_ite State.integ, apply_ite State.tap, apply_ite State.pending]; done) | (simp_all [apply_ite State.clk, apply_ite State.pwr, apply_ite State.boot, apply_ite State.sec, apply_ite State.dram, apply_ite State.pads, apply_ite State.integ, apply_ite State.tap, apply_ite State.pending]; done)))
    | (dsimp only; (repeat' apply And.intro) <;> (repeat' split) <;> (first | (simp [apply_ite State.clk, apply_ite State.pwr, apply_ite State.boot, apply_ite State.sec, apply_ite State.dram, apply_ite State.pads, apply_ite State.integ, apply_ite State.tap, apply_ite State.pending]; done) | (simp_all [apply_ite State.clk, apply_ite State.pwr, apply_ite State.boot, apply_ite State.sec, apply_ite State.dram, apply_ite State.pads, apply_ite State.integ, apply_ite State.tap, apply_ite State.pending]; done)))
@[simp] theorem frame_takePending (effect : Nat) (s : State) :
    (takePending effect s).clk = s.clk ∧ (takePending effect s).pwr = s.pwr ∧ (takePending effect s).boot = s.boot ∧ (takePending effect s).sec = s.sec ∧ (takePending effect s).bed = s.bed ∧ (takePending effect s).dram = s.dram ∧ (takePending effect s).pads = s.pads ∧ (takePending effect s).integ = s.integ ∧ (takePending effect s).tap = s.tap ∧ (takePending effect s).pending = s.pending := by
  unfold takePending
  first
    | (simp [apply_ite State.clk, apply_ite State.pwr, apply_ite State.boot, apply_ite State.sec, apply_ite State.bed, apply_ite State.dram, apply_ite State.pads, apply_ite State.integ, apply_ite State.tap, apply_ite State.pending]; done)
    | ((repeat' split) <;> (first | (simp [apply_ite State.clk, apply_ite State.pwr, apply_ite State.boot, apply_ite State.sec, apply_ite State.bed, apply_ite State.dram, apply_ite State.pads, apply_ite State.integ, apply_ite State.tap, apply_ite State.pending]; done) | (simp_all [apply_ite State.clk, apply_ite State.pwr, apply_ite State.boot, apply_ite State.sec, apply_ite State.bed, apply_ite State.dram, apply_ite State.pads, apply_ite State.integ, apply_ite State.tap, apply_ite State.pending]; done)))
    | (dsimp only; (repeat' apply And.intro) <;> (repeat' split) <;> (first | (simp [apply_ite State.clk, apply_ite State.pwr, apply_ite State.boot, apply_ite State.sec, apply_ite State.bed, apply_ite State.dram, apply_ite State.pads, apply_ite State.integ, apply_ite State.tap, apply_ite State.pending]; done) | (simp_all [apply_ite State.clk, apply_ite State.pwr, apply_ite State.boot, apply_ite State.sec, apply_ite State.bed, apply_ite State.dram, apply_ite State.pads, apply_ite State.integ, apply_ite State.tap, apply_ite State.pending]; done)))
@[simp] theorem frame_drbg (n : Nat) (s : State) :
    (drbg n s).2.clk = s.clk ∧ (drbg n s).2.pwr = s.pwr ∧ (drbg n s).2.boot = s.boot ∧ (drbg n s).2.par = s.par ∧ (drbg n s).2.sec = s.sec ∧ (drbg n s).2.bed = s.bed ∧ (drbg n s).2.dram = s.dram ∧ (drbg n s).2.pads = s.pads ∧ (drbg n s).2.integ = s.integ ∧ (drbg n s).2.tide = s.tide ∧ (drbg n s).2.tap = s.tap ∧ (drbg n s).2.pending = s.pending := by
  unfold drbg
  first
    | (simp [apply_ite State.clk, apply_ite State.pwr, apply_ite State.boot, apply_ite State.par, apply_ite State.sec, apply_ite State.bed, apply_ite State.dram, apply_ite State.pads, apply_ite State.integ, apply_ite State.tide, apply_ite State.tap, apply_ite State.pending]; done)
    | ((repeat' split) <;> (first | (simp [apply_ite State.clk, apply_ite State.pwr, apply_ite State.boot, apply_ite State.par, apply_ite State.sec, apply_ite State.bed, apply_ite State.dram, apply_ite State.pads, apply_ite State.integ, apply_ite State.tide, apply_ite State.tap, apply_ite State.pending]; done) | (simp_all [apply_ite State.clk, apply_ite State.pwr, apply_ite State.boot, apply_ite State.par, apply_ite State.sec, apply_ite State.bed, apply_ite State.dram, apply_ite State.pads, apply_ite State.integ, apply_ite State.tide, apply_ite State.tap, apply_ite State.pending]; done)))
    | (dsimp only; (repeat' apply And.intro) <;> (repeat' split) <;> (first | (simp [apply_ite State.clk, apply_ite State.pwr, apply_ite State.boot, apply_ite State.par, apply_ite State.sec, apply_ite State.bed, apply_ite State.dram, apply_ite State.pads, apply_ite State.integ, apply_ite State.tide, apply_ite State.tap, apply_ite State.pending]; done) | (simp_all [apply_ite State.clk, apply_ite State.pwr, apply_ite State.boot, apply_ite State.par, apply_ite State.sec, apply_ite State.bed, apply_ite State.dram, apply_ite State.pads, apply_ite State.integ, apply_ite State.tide, apply_ite State.tap, apply_ite State.pending]; done)))
@[simp] theorem frame_newAtRest (s : State) :
    (newAtRest s).clk = s.clk ∧ (newAtRest s).pwr = s.pwr ∧ (newAtRest s).boot = s.boot ∧ (newAtRest s).par = s.par ∧ (newAtRest s).dram = s.dram ∧ (newAtRest s).pads = s.pads ∧ (newAtRest s).integ = s.integ ∧ (newAtRest s).tide = s.tide ∧ (newAtRest s).tap = s.tap ∧ (newAtRest s).pending = s.pending := by
  unfold newAtRest
  first
    | (simp [apply_ite State.clk, apply_ite State.pwr, apply_ite State.boot, apply_ite State.par, apply_ite State.dram, apply_ite State.pads, apply_ite State.integ, apply_ite State.tide, apply_ite State.tap, apply_ite State.pending]; done)
    | ((repeat' split) <;> (first | (simp [apply_ite State.clk, apply_ite State.pwr, apply_ite State.boot, apply_ite State.par, apply_ite State.dram, apply_ite State.pads, apply_ite State.integ, apply_ite State.tide, apply_ite State.tap, apply_ite State.pending]; done) | (simp_all [apply_ite State.clk, apply_ite State.pwr, apply_ite State.boot, apply_ite State.par, apply_ite State.dram, apply_ite State.pads, apply_ite State.integ, apply_ite State.tide, apply_ite State.tap, apply_ite State.pending]; done)))
    | (dsimp only; (repeat' apply And.intro) <;> (repeat' split) <;> (first | (simp [apply_ite State.clk, apply_ite State.pwr, apply_ite State.boot, apply_ite State.par, apply_ite State.dram, apply_ite State.pads, apply_ite State.integ, apply_ite State.tide, apply_ite State.tap, apply_ite State.pending]; done) | (simp_all [apply_ite State.clk, apply_ite State.pwr, apply_ite State.boot, apply_ite State.par, apply_ite State.dram, apply_ite State.pads, apply_ite State.integ, apply_ite State.tide, apply_ite State.tap, apply_ite State.pending]; done)))
@[simp] theorem frame_sanitizeHere (o : Order) (s : State) :
    (sanitizeHere o s).clk = s.clk ∧ (sanitizeHere o s).pwr = s.pwr ∧ (sanitizeHere o s).boot = s.boot ∧ (sanitizeHere o s).par = s.par ∧ (sanitizeHere o s).dram = s.dram ∧ (sanitizeHere o s).pads = s.pads ∧ (sanitizeHere o s).integ = s.integ ∧ (sanitizeHere o s).tide = s.tide ∧ (sanitizeHere o s).tap = s.tap ∧ (sanitizeHere o s).pending = s.pending := by
  unfold sanitizeHere
  first
    | (simp [apply_ite State.clk, apply_ite State.pwr, apply_ite State.boot, apply_ite State.par, apply_ite State.dram, apply_ite State.pads, apply_ite State.integ, apply_ite State.tide, apply_ite State.tap, apply_ite State.pending]; done)
    | ((repeat' split) <;> (first | (simp [apply_ite State.clk, apply_ite State.pwr, apply_ite State.boot, apply_ite State.par, apply_ite State.dram, apply_ite State.pads, apply_ite State.integ, apply_ite State.tide, apply_ite State.tap, apply_ite State.pending]; done) | (simp_all [apply_ite State.clk, apply_ite State.pwr, apply_ite State.boot, apply_ite State.par, apply_ite State.dram, apply_ite State.pads, apply_ite State.integ, apply_ite State.tide, apply_ite State.tap, apply_ite State.pending]; done)))
    | (dsimp only; (repeat' apply And.intro) <;> (repeat' split) <;> (first | (simp [apply_ite State.clk, apply_ite State.pwr, apply_ite State.boot, apply_ite State.par, apply_ite State.dram, apply_ite State.pads, apply_ite State.integ, apply_ite State.tide, apply_ite State.tap, apply_ite State.pending]; done) | (simp_all [apply_ite State.clk, apply_ite State.pwr, apply_ite State.boot, apply_ite State.par, apply_ite State.dram, apply_ite State.pads, apply_ite State.integ, apply_ite State.tide, apply_ite State.tap, apply_ite State.pending]; done)))
@[simp] theorem frame_clearSlot (n : Nat) (m : Option Mbx) (s : State) :
    (clearSlot n m s).clk = s.clk ∧ (clearSlot n m s).pwr = s.pwr ∧ (clearSlot n m s).boot = s.boot ∧ (clearSlot n m s).par = s.par ∧ (clearSlot n m s).dram = s.dram ∧ (clearSlot n m s).pads = s.pads ∧ (clearSlot n m s).integ = s.integ ∧ (clearSlot n m s).tide = s.tide ∧ (clearSlot n m s).tap = s.tap ∧ (clearSlot n m s).pending = s.pending := by
  unfold clearSlot
  first
    | (simp [apply_ite State.clk, apply_ite State.pwr, apply_ite State.boot, apply_ite State.par, apply_ite State.dram, apply_ite State.pads, apply_ite State.integ, apply_ite State.tide, apply_ite State.tap, apply_ite State.pending]; done)
    | ((repeat' split) <;> (first | (simp [apply_ite State.clk, apply_ite State.pwr, apply_ite State.boot, apply_ite State.par, apply_ite State.dram, apply_ite State.pads, apply_ite State.integ, apply_ite State.tide, apply_ite State.tap, apply_ite State.pending]; done) | (simp_all [apply_ite State.clk, apply_ite State.pwr, apply_ite State.boot, apply_ite State.par, apply_ite State.dram, apply_ite State.pads, apply_ite State.integ, apply_ite State.tide, apply_ite State.tap, apply_ite State.pending]; done)))
    | (dsimp only; (repeat' apply And.intro) <;> (repeat' split) <;> (first | (simp [apply_ite State.clk, apply_ite State.pwr, apply_ite State.boot, apply_ite State.par, apply_ite State.dram, apply_ite State.pads, apply_ite State.integ, apply_ite State.tide, apply_ite State.tap, apply_ite State.pending]; done) | (simp_all [apply_ite State.clk, apply_ite State.pwr, apply_ite State.boot, apply_ite State.par, apply_ite State.dram, apply_ite State.pads, apply_ite State.integ, apply_ite State.tide, apply_ite State.tap, apply_ite State.pending]; done)))
@[simp] theorem frame_finishClears (s : State) :
    (finishClears s).clk = s.clk ∧ (finishClears s).pwr = s.pwr ∧ (finishClears s).boot = s.boot ∧ (finishClears s).par = s.par ∧ (finishClears s).dram = s.dram ∧ (finishClears s).pads = s.pads ∧ (finishClears s).integ = s.integ ∧ (finishClears s).tide = s.tide ∧ (finishClears s).tap = s.tap ∧ (finishClears s).pending = s.pending := by
  unfold finishClears
  first
    | (simp [apply_ite State.clk, apply_ite State.pwr, apply_ite State.boot, apply_ite State.par, apply_ite State.dram, apply_ite State.pads, apply_ite State.integ, apply_ite State.tide, apply_ite State.tap, apply_ite State.pending]; done)
    | ((repeat' split) <;> (first | (simp [apply_ite State.clk, apply_ite State.pwr, apply_ite State.boot, apply_ite State.par, apply_ite State.dram, apply_ite State.pads, apply_ite State.integ, apply_ite State.tide, apply_ite State.tap, apply_ite State.pending]; done) | (simp_all [apply_ite State.clk, apply_ite State.pwr, apply_ite State.boot, apply_ite State.par, apply_ite State.dram, apply_ite State.pads, apply_ite State.integ, apply_ite State.tide, apply_ite State.tap, apply_ite State.pending]; done)))
    | (dsimp only; (repeat' apply And.intro) <;> (repeat' split) <;> (first | (simp [apply_ite State.clk, apply_ite State.pwr, apply_ite State.boot, apply_ite State.par, apply_ite State.dram, apply_ite State.pads, apply_ite State.integ, apply_ite State.tide, apply_ite State.tap, apply_ite State.pending]; done) | (simp_all [apply_ite State.clk, apply_ite State.pwr, apply_ite State.boot, apply_ite State.par, apply_ite State.dram, apply_ite State.pads, apply_ite State.integ, apply_ite State.tide, apply_ite State.tap, apply_ite State.pending]; done)))
@[simp] theorem frame_stayAwake (s : State) :
    (State.stayAwake s).clk = s.clk ∧ (State.stayAwake s).boot = s.boot ∧ (State.stayAwake s).par = s.par ∧ (State.stayAwake s).sec = s.sec ∧ (State.stayAwake s).bed = s.bed ∧ (State.stayAwake s).dram = s.dram ∧ (State.stayAwake s).pads = s.pads ∧ (State.stayAwake s).integ = s.integ ∧ (State.stayAwake s).tide = s.tide ∧ (State.stayAwake s).tap = s.tap ∧ (State.stayAwake s).pending = s.pending := by
  unfold State.stayAwake
  first
    | (simp [apply_ite State.clk, apply_ite State.boot, apply_ite State.par, apply_ite State.sec, apply_ite State.bed, apply_ite State.dram, apply_ite State.pads, apply_ite State.integ, apply_ite State.tide, apply_ite State.tap, apply_ite State.pending]; done)
    | ((repeat' split) <;> (first | (simp [apply_ite State.clk, apply_ite State.boot, apply_ite State.par, apply_ite State.sec, apply_ite State.bed, apply_ite State.dram, apply_ite State.pads, apply_ite State.integ, apply_ite State.tide, apply_ite State.tap, apply_ite State.pending]; done) | (simp_all [apply_ite State.clk, apply_ite State.boot, apply_ite State.par, apply_ite State.sec, apply_ite State.bed, apply_ite State.dram, apply_ite State.pads, apply_ite State.integ, apply_ite State.tide, apply_ite State.tap, apply_ite State.pending]; done)))
    | (dsimp only; (repeat' apply And.intro) <;> (repeat' split) <;> (first | (simp [apply_ite State.clk, apply_ite State.boot, apply_ite State.par, apply_ite State.sec, apply_ite State.bed, apply_ite State.dram, apply_ite State.pads, apply_ite State.integ, apply_ite State.tide, apply_ite State.tap, apply_ite State.pending]; done) | (simp_all [apply_ite State.clk, apply_ite State.boot, apply_ite State.par, apply_ite State.sec, apply_ite State.bed, apply_ite State.dram, apply_ite State.pads, apply_ite State.integ, apply_ite State.tide, apply_ite State.tap, apply_ite State.pending]; done)))
@[simp] theorem frame_noteIdle (s : State) :
    (noteIdle s).clk = s.clk ∧ (noteIdle s).boot = s.boot ∧ (noteIdle s).par = s.par ∧ (noteIdle s).sec = s.sec ∧ (noteIdle s).bed = s.bed ∧ (noteIdle s).dram = s.dram ∧ (noteIdle s).pads = s.pads ∧ (noteIdle s).integ = s.integ ∧ (noteIdle s).tide = s.tide ∧ (noteIdle s).tap = s.tap ∧ (noteIdle s).pending = s.pending := by
  unfold noteIdle
  first
    | (simp [apply_ite State.clk, apply_ite State.boot, apply_ite State.par, apply_ite State.sec, apply_ite State.bed, apply_ite State.dram, apply_ite State.pads, apply_ite State.integ, apply_ite State.tide, apply_ite State.tap, apply_ite State.pending]; done)
    | ((repeat' split) <;> (first | (simp [apply_ite State.clk, apply_ite State.boot, apply_ite State.par, apply_ite State.sec, apply_ite State.bed, apply_ite State.dram, apply_ite State.pads, apply_ite State.integ, apply_ite State.tide, apply_ite State.tap, apply_ite State.pending]; done) | (simp_all [apply_ite State.clk, apply_ite State.boot, apply_ite State.par, apply_ite State.sec, apply_ite State.bed, apply_ite State.dram, apply_ite State.pads, apply_ite State.integ, apply_ite State.tide, apply_ite State.tap, apply_ite State.pending]; done)))
    | (dsimp only; (repeat' apply And.intro) <;> (repeat' split) <;> (first | (simp [apply_ite State.clk, apply_ite State.boot, apply_ite State.par, apply_ite State.sec, apply_ite State.bed, apply_ite State.dram, apply_ite State.pads, apply_ite State.integ, apply_ite State.tide, apply_ite State.tap, apply_ite State.pending]; done) | (simp_all [apply_ite State.clk, apply_ite State.boot, apply_ite State.par, apply_ite State.sec, apply_ite State.bed, apply_ite State.dram, apply_ite State.pads, apply_ite State.integ, apply_ite State.tide, apply_ite State.tap, apply_ite State.pending]; done)))
@[simp] theorem frame_spendNonce (s : State) :
    (spendNonce s).clk = s.clk ∧ (spendNonce s).pwr = s.pwr ∧ (spendNonce s).boot = s.boot ∧ (spendNonce s).par = s.par ∧ (spendNonce s).dram = s.dram ∧ (spendNonce s).pads = s.pads ∧ (spendNonce s).integ = s.integ ∧ (spendNonce s).tide = s.tide ∧ (spendNonce s).tap = s.tap ∧ (spendNonce s).pending = s.pending := by
  unfold spendNonce
  first
    | (simp [apply_ite State.clk, apply_ite State.pwr, apply_ite State.boot, apply_ite State.par, apply_ite State.dram, apply_ite State.pads, apply_ite State.integ, apply_ite State.tide, apply_ite State.tap, apply_ite State.pending]; done)
    | ((repeat' split) <;> (first | (simp [apply_ite State.clk, apply_ite State.pwr, apply_ite State.boot, apply_ite State.par, apply_ite State.dram, apply_ite State.pads, apply_ite State.integ, apply_ite State.tide, apply_ite State.tap, apply_ite State.pending]; done) | (simp_all [apply_ite State.clk, apply_ite State.pwr, apply_ite State.boot, apply_ite State.par, apply_ite State.dram, apply_ite State.pads, apply_ite State.integ, apply_ite State.tide, apply_ite State.tap, apply_ite State.pending]; done)))
    | (dsimp only; (repeat' apply And.intro) <;> (repeat' split) <;> (first | (simp [apply_ite State.clk, apply_ite State.pwr, apply_ite State.boot, apply_ite State.par, apply_ite State.dram, apply_ite State.pads, apply_ite State.integ, apply_ite State.tide, apply_ite State.tap, apply_ite State.pending]; done) | (simp_all [apply_ite State.clk, apply_ite State.pwr, apply_ite State.boot, apply_ite State.par, apply_ite State.dram, apply_ite State.pads, apply_ite State.integ, apply_ite State.tide, apply_ite State.tap, apply_ite State.pending]; done)))
@[simp] theorem frame_work (s : State) :
    (State.work s).clk = s.clk ∧ (State.work s).boot = s.boot ∧ (State.work s).dram = s.dram ∧ (State.work s).pads = s.pads ∧ (State.work s).integ = s.integ ∧ (State.work s).tap = s.tap ∧ (State.work s).pending = s.pending := by
  unfold State.work
  first
    | (simp [apply_ite State.clk, apply_ite State.boot, apply_ite State.dram, apply_ite State.pads, apply_ite State.integ, apply_ite State.tap, apply_ite State.pending]; done)
    | ((repeat' split) <;> (first | (simp [apply_ite State.clk, apply_ite State.boot, apply_ite State.dram, apply_ite State.pads, apply_ite State.integ, apply_ite State.tap, apply_ite State.pending]; done) | (simp_all [apply_ite State.clk, apply_ite State.boot, apply_ite State.dram, apply_ite State.pads, apply_ite State.integ, apply_ite State.tap, apply_ite State.pending]; done)))
    | (dsimp only; (repeat' apply And.intro) <;> (repeat' split) <;> (first | (simp [apply_ite State.clk, apply_ite State.boot, apply_ite State.dram, apply_ite State.pads, apply_ite State.integ, apply_ite State.tap, apply_ite State.pending]; done) | (simp_all [apply_ite State.clk, apply_ite State.boot, apply_ite State.dram, apply_ite State.pads, apply_ite State.integ, apply_ite State.tap, apply_ite State.pending]; done)))
@[simp] theorem frame_poolCommand (op : Nat) (k : CmdKey) (desc : BitVec 512) (segs metaSegs : List (List (BitVec 128))) (s : State) :
    (poolCommand op k desc segs metaSegs s).clk = s.clk ∧ (poolCommand op k desc segs metaSegs s).boot = s.boot ∧ (poolCommand op k desc segs metaSegs s).dram = s.dram ∧ (poolCommand op k desc segs metaSegs s).pads = s.pads ∧ (poolCommand op k desc segs metaSegs s).integ = s.integ ∧ (poolCommand op k desc segs metaSegs s).tap = s.tap ∧ (poolCommand op k desc segs metaSegs s).pending = s.pending := by
  unfold poolCommand
  first
    | (simp [apply_ite State.clk, apply_ite State.boot, apply_ite State.dram, apply_ite State.pads, apply_ite State.integ, apply_ite State.tap, apply_ite State.pending]; done)
    | ((repeat' split) <;> (first | (simp [apply_ite State.clk, apply_ite State.boot, apply_ite State.dram, apply_ite State.pads, apply_ite State.integ, apply_ite State.tap, apply_ite State.pending]; done) | (simp_all [apply_ite State.clk, apply_ite State.boot, apply_ite State.dram, apply_ite State.pads, apply_ite State.integ, apply_ite State.tap, apply_ite State.pending]; done)))
    | (dsimp only; (repeat' apply And.intro) <;> (repeat' split) <;> (first | (simp [apply_ite State.clk, apply_ite State.boot, apply_ite State.dram, apply_ite State.pads, apply_ite State.integ, apply_ite State.tap, apply_ite State.pending]; done) | (simp_all [apply_ite State.clk, apply_ite State.boot, apply_ite State.dram, apply_ite State.pads, apply_ite State.integ, apply_ite State.tap, apply_ite State.pending]; done)))
@[simp] theorem frame_pagesReady (k : CmdKey) (reads writes : List (List (Nat × Nat))) (s : State) :
    (pagesReady k reads writes s).1.clk = s.clk ∧ (pagesReady k reads writes s).1.pwr = s.pwr ∧ (pagesReady k reads writes s).1.boot = s.boot ∧ (pagesReady k reads writes s).1.par = s.par ∧ (pagesReady k reads writes s).1.sec = s.sec ∧ (pagesReady k reads writes s).1.bed = s.bed ∧ (pagesReady k reads writes s).1.dram = s.dram ∧ (pagesReady k reads writes s).1.pads = s.pads ∧ (pagesReady k reads writes s).1.integ = s.integ ∧ (pagesReady k reads writes s).1.tide = s.tide ∧ (pagesReady k reads writes s).1.tap = s.tap ∧ (pagesReady k reads writes s).1.pending = s.pending := by
  unfold pagesReady
  first
    | (simp [apply_ite State.clk, apply_ite State.pwr, apply_ite State.boot, apply_ite State.par, apply_ite State.sec, apply_ite State.bed, apply_ite State.dram, apply_ite State.pads, apply_ite State.integ, apply_ite State.tide, apply_ite State.tap, apply_ite State.pending]; done)
    | ((repeat' split) <;> (first | (simp [apply_ite State.clk, apply_ite State.pwr, apply_ite State.boot, apply_ite State.par, apply_ite State.sec, apply_ite State.bed, apply_ite State.dram, apply_ite State.pads, apply_ite State.integ, apply_ite State.tide, apply_ite State.tap, apply_ite State.pending]; done) | (simp_all [apply_ite State.clk, apply_ite State.pwr, apply_ite State.boot, apply_ite State.par, apply_ite State.sec, apply_ite State.bed, apply_ite State.dram, apply_ite State.pads, apply_ite State.integ, apply_ite State.tide, apply_ite State.tap, apply_ite State.pending]; done)))
    | (dsimp only; (repeat' apply And.intro) <;> (repeat' split) <;> (first | (simp [apply_ite State.clk, apply_ite State.pwr, apply_ite State.boot, apply_ite State.par, apply_ite State.sec, apply_ite State.bed, apply_ite State.dram, apply_ite State.pads, apply_ite State.integ, apply_ite State.tide, apply_ite State.tap, apply_ite State.pending]; done) | (simp_all [apply_ite State.clk, apply_ite State.pwr, apply_ite State.boot, apply_ite State.par, apply_ite State.sec, apply_ite State.bed, apply_ite State.dram, apply_ite State.pads, apply_ite State.integ, apply_ite State.tide, apply_ite State.tap, apply_ite State.pending]; done)))
@[simp] theorem frame_serviceFetch (op : Nat) (k : CmdKey) (desc : BitVec 512) (segs metaSegs : List (List (BitVec 128))) (s : State) :
    (serviceFetch op k desc segs metaSegs s).1.clk = s.clk ∧ (serviceFetch op k desc segs metaSegs s).1.pwr = s.pwr ∧ (serviceFetch op k desc segs metaSegs s).1.boot = s.boot ∧ (serviceFetch op k desc segs metaSegs s).1.par = s.par ∧ (serviceFetch op k desc segs metaSegs s).1.sec = s.sec ∧ (serviceFetch op k desc segs metaSegs s).1.bed = s.bed ∧ (serviceFetch op k desc segs metaSegs s).1.dram = s.dram ∧ (serviceFetch op k desc segs metaSegs s).1.pads = s.pads ∧ (serviceFetch op k desc segs metaSegs s).1.integ = s.integ ∧ (serviceFetch op k desc segs metaSegs s).1.tide = s.tide ∧ (serviceFetch op k desc segs metaSegs s).1.tap = s.tap ∧ (serviceFetch op k desc segs metaSegs s).1.pending = s.pending := by
  unfold serviceFetch
  first
    | (simp [apply_ite State.clk, apply_ite State.pwr, apply_ite State.boot, apply_ite State.par, apply_ite State.sec, apply_ite State.bed, apply_ite State.dram, apply_ite State.pads, apply_ite State.integ, apply_ite State.tide, apply_ite State.tap, apply_ite State.pending]; done)
    | ((repeat' split) <;> (first | (simp [apply_ite State.clk, apply_ite State.pwr, apply_ite State.boot, apply_ite State.par, apply_ite State.sec, apply_ite State.bed, apply_ite State.dram, apply_ite State.pads, apply_ite State.integ, apply_ite State.tide, apply_ite State.tap, apply_ite State.pending]; done) | (simp_all [apply_ite State.clk, apply_ite State.pwr, apply_ite State.boot, apply_ite State.par, apply_ite State.sec, apply_ite State.bed, apply_ite State.dram, apply_ite State.pads, apply_ite State.integ, apply_ite State.tide, apply_ite State.tap, apply_ite State.pending]; done)))
    | (dsimp only; (repeat' apply And.intro) <;> (repeat' split) <;> (first | (simp [apply_ite State.clk, apply_ite State.pwr, apply_ite State.boot, apply_ite State.par, apply_ite State.sec, apply_ite State.bed, apply_ite State.dram, apply_ite State.pads, apply_ite State.integ, apply_ite State.tide, apply_ite State.tap, apply_ite State.pending]; done) | (simp_all [apply_ite State.clk, apply_ite State.pwr, apply_ite State.boot, apply_ite State.par, apply_ite State.sec, apply_ite State.bed, apply_ite State.dram, apply_ite State.pads, apply_ite State.integ, apply_ite State.tide, apply_ite State.tap, apply_ite State.pending]; done)))
@[simp] theorem frame_touchSlot (n : Nat) (s : State) :
    (touchSlot n s).clk = s.clk ∧ (touchSlot n s).pwr = s.pwr ∧ (touchSlot n s).boot = s.boot ∧ (touchSlot n s).par = s.par ∧ (touchSlot n s).bed = s.bed ∧ (touchSlot n s).dram = s.dram ∧ (touchSlot n s).pads = s.pads ∧ (touchSlot n s).integ = s.integ ∧ (touchSlot n s).tide = s.tide ∧ (touchSlot n s).tap = s.tap ∧ (touchSlot n s).pending = s.pending := by
  unfold touchSlot
  first
    | (simp [apply_ite State.clk, apply_ite State.pwr, apply_ite State.boot, apply_ite State.par, apply_ite State.bed, apply_ite State.dram, apply_ite State.pads, apply_ite State.integ, apply_ite State.tide, apply_ite State.tap, apply_ite State.pending]; done)
    | ((repeat' split) <;> (first | (simp [apply_ite State.clk, apply_ite State.pwr, apply_ite State.boot, apply_ite State.par, apply_ite State.bed, apply_ite State.dram, apply_ite State.pads, apply_ite State.integ, apply_ite State.tide, apply_ite State.tap, apply_ite State.pending]; done) | (simp_all [apply_ite State.clk, apply_ite State.pwr, apply_ite State.boot, apply_ite State.par, apply_ite State.bed, apply_ite State.dram, apply_ite State.pads, apply_ite State.integ, apply_ite State.tide, apply_ite State.tap, apply_ite State.pending]; done)))
    | (dsimp only; (repeat' apply And.intro) <;> (repeat' split) <;> (first | (simp [apply_ite State.clk, apply_ite State.pwr, apply_ite State.boot, apply_ite State.par, apply_ite State.bed, apply_ite State.dram, apply_ite State.pads, apply_ite State.integ, apply_ite State.tide, apply_ite State.tap, apply_ite State.pending]; done) | (simp_all [apply_ite State.clk, apply_ite State.pwr, apply_ite State.boot, apply_ite State.par, apply_ite State.bed, apply_ite State.dram, apply_ite State.pads, apply_ite State.integ, apply_ite State.tide, apply_ite State.tap, apply_ite State.pending]; done)))
@[simp] theorem frame_takeCounter (n : Nat) (x : KeySlot) (s : State) :
    (takeCounter n x s).clk = s.clk ∧ (takeCounter n x s).pwr = s.pwr ∧ (takeCounter n x s).boot = s.boot ∧ (takeCounter n x s).par = s.par ∧ (takeCounter n x s).dram = s.dram ∧ (takeCounter n x s).pads = s.pads ∧ (takeCounter n x s).integ = s.integ ∧ (takeCounter n x s).tide = s.tide ∧ (takeCounter n x s).tap = s.tap ∧ (takeCounter n x s).pending = s.pending := by
  unfold takeCounter
  first
    | (simp [apply_ite State.clk, apply_ite State.pwr, apply_ite State.boot, apply_ite State.par, apply_ite State.dram, apply_ite State.pads, apply_ite State.integ, apply_ite State.tide, apply_ite State.tap, apply_ite State.pending]; done)
    | ((repeat' split) <;> (first | (simp [apply_ite State.clk, apply_ite State.pwr, apply_ite State.boot, apply_ite State.par, apply_ite State.dram, apply_ite State.pads, apply_ite State.integ, apply_ite State.tide, apply_ite State.tap, apply_ite State.pending]; done) | (simp_all [apply_ite State.clk, apply_ite State.pwr, apply_ite State.boot, apply_ite State.par, apply_ite State.dram, apply_ite State.pads, apply_ite State.integ, apply_ite State.tide, apply_ite State.tap, apply_ite State.pending]; done)))
    | (dsimp only; (repeat' apply And.intro) <;> (repeat' split) <;> (first | (simp [apply_ite State.clk, apply_ite State.pwr, apply_ite State.boot, apply_ite State.par, apply_ite State.dram, apply_ite State.pads, apply_ite State.integ, apply_ite State.tide, apply_ite State.tap, apply_ite State.pending]; done) | (simp_all [apply_ite State.clk, apply_ite State.pwr, apply_ite State.boot, apply_ite State.par, apply_ite State.dram, apply_ite State.pads, apply_ite State.integ, apply_ite State.tide, apply_ite State.tap, apply_ite State.pending]; done)))
@[simp] theorem frame_resyncEntry (p : PortId) (q : Nat) (ent : Option (BitVec 512)) (s : State) :
    (resyncEntry p q ent s).clk = s.clk ∧ (resyncEntry p q ent s).pwr = s.pwr ∧ (resyncEntry p q ent s).boot = s.boot ∧ (resyncEntry p q ent s).par = s.par ∧ (resyncEntry p q ent s).sec = s.sec ∧ (resyncEntry p q ent s).bed = s.bed ∧ (resyncEntry p q ent s).dram = s.dram ∧ (resyncEntry p q ent s).pads = s.pads ∧ (resyncEntry p q ent s).integ = s.integ ∧ (resyncEntry p q ent s).tide = s.tide ∧ (resyncEntry p q ent s).tap = s.tap ∧ (resyncEntry p q ent s).pending = s.pending := by
  unfold resyncEntry
  first
    | (simp [apply_ite State.clk, apply_ite State.pwr, apply_ite State.boot, apply_ite State.par, apply_ite State.sec, apply_ite State.bed, apply_ite State.dram, apply_ite State.pads, apply_ite State.integ, apply_ite State.tide, apply_ite State.tap, apply_ite State.pending]; done)
    | ((repeat' split) <;> (first | (simp [apply_ite State.clk, apply_ite State.pwr, apply_ite State.boot, apply_ite State.par, apply_ite State.sec, apply_ite State.bed, apply_ite State.dram, apply_ite State.pads, apply_ite State.integ, apply_ite State.tide, apply_ite State.tap, apply_ite State.pending]; done) | (simp_all [apply_ite State.clk, apply_ite State.pwr, apply_ite State.boot, apply_ite State.par, apply_ite State.sec, apply_ite State.bed, apply_ite State.dram, apply_ite State.pads, apply_ite State.integ, apply_ite State.tide, apply_ite State.tap, apply_ite State.pending]; done)))
    | (dsimp only; (repeat' apply And.intro) <;> (repeat' split) <;> (first | (simp [apply_ite State.clk, apply_ite State.pwr, apply_ite State.boot, apply_ite State.par, apply_ite State.sec, apply_ite State.bed, apply_ite State.dram, apply_ite State.pads, apply_ite State.integ, apply_ite State.tide, apply_ite State.tap, apply_ite State.pending]; done) | (simp_all [apply_ite State.clk, apply_ite State.pwr, apply_ite State.boot, apply_ite State.par, apply_ite State.sec, apply_ite State.bed, apply_ite State.dram, apply_ite State.pads, apply_ite State.integ, apply_ite State.tide, apply_ite State.tap, apply_ite State.pending]; done)))
@[simp] theorem frame_closeLoop (n : Nat) (s : State) :
    (closeLoop n s).clk = s.clk ∧ (closeLoop n s).pwr = s.pwr ∧ (closeLoop n s).boot = s.boot ∧ (closeLoop n s).par = s.par ∧ (closeLoop n s).sec = s.sec ∧ (closeLoop n s).bed = s.bed ∧ (closeLoop n s).dram = s.dram ∧ (closeLoop n s).pads = s.pads ∧ (closeLoop n s).integ = s.integ ∧ (closeLoop n s).tap = s.tap ∧ (closeLoop n s).pending = s.pending := by
  unfold closeLoop
  first
    | (simp [apply_ite State.clk, apply_ite State.pwr, apply_ite State.boot, apply_ite State.par, apply_ite State.sec, apply_ite State.bed, apply_ite State.dram, apply_ite State.pads, apply_ite State.integ, apply_ite State.tap, apply_ite State.pending]; done)
    | ((repeat' split) <;> (first | (simp [apply_ite State.clk, apply_ite State.pwr, apply_ite State.boot, apply_ite State.par, apply_ite State.sec, apply_ite State.bed, apply_ite State.dram, apply_ite State.pads, apply_ite State.integ, apply_ite State.tap, apply_ite State.pending]; done) | (simp_all [apply_ite State.clk, apply_ite State.pwr, apply_ite State.boot, apply_ite State.par, apply_ite State.sec, apply_ite State.bed, apply_ite State.dram, apply_ite State.pads, apply_ite State.integ, apply_ite State.tap, apply_ite State.pending]; done)))
    | (dsimp only; (repeat' apply And.intro) <;> (repeat' split) <;> (first | (simp [apply_ite State.clk, apply_ite State.pwr, apply_ite State.boot, apply_ite State.par, apply_ite State.sec, apply_ite State.bed, apply_ite State.dram, apply_ite State.pads, apply_ite State.integ, apply_ite State.tap, apply_ite State.pending]; done) | (simp_all [apply_ite State.clk, apply_ite State.pwr, apply_ite State.boot, apply_ite State.par, apply_ite State.sec, apply_ite State.bed, apply_ite State.dram, apply_ite State.pads, apply_ite State.integ, apply_ite State.tap, apply_ite State.pending]; done)))
@[simp] theorem frame_disarmAll (s : State) :
    (disarmAll s).clk = s.clk ∧ (disarmAll s).pwr = s.pwr ∧ (disarmAll s).boot = s.boot ∧ (disarmAll s).par = s.par ∧ (disarmAll s).sec = s.sec ∧ (disarmAll s).bed = s.bed ∧ (disarmAll s).dram = s.dram ∧ (disarmAll s).pads = s.pads ∧ (disarmAll s).tide = s.tide ∧ (disarmAll s).tap = s.tap ∧ (disarmAll s).pending = s.pending := by
  unfold disarmAll
  first
    | (simp [apply_ite State.clk, apply_ite State.pwr, apply_ite State.boot, apply_ite State.par, apply_ite State.sec, apply_ite State.bed, apply_ite State.dram, apply_ite State.pads, apply_ite State.tide, apply_ite State.tap, apply_ite State.pending]; done)
    | ((repeat' split) <;> (first | (simp [apply_ite State.clk, apply_ite State.pwr, apply_ite State.boot, apply_ite State.par, apply_ite State.sec, apply_ite State.bed, apply_ite State.dram, apply_ite State.pads, apply_ite State.tide, apply_ite State.tap, apply_ite State.pending]; done) | (simp_all [apply_ite State.clk, apply_ite State.pwr, apply_ite State.boot, apply_ite State.par, apply_ite State.sec, apply_ite State.bed, apply_ite State.dram, apply_ite State.pads, apply_ite State.tide, apply_ite State.tap, apply_ite State.pending]; done)))
    | (dsimp only; (repeat' apply And.intro) <;> (repeat' split) <;> (first | (simp [apply_ite State.clk, apply_ite State.pwr, apply_ite State.boot, apply_ite State.par, apply_ite State.sec, apply_ite State.bed, apply_ite State.dram, apply_ite State.pads, apply_ite State.tide, apply_ite State.tap, apply_ite State.pending]; done) | (simp_all [apply_ite State.clk, apply_ite State.pwr, apply_ite State.boot, apply_ite State.par, apply_ite State.sec, apply_ite State.bed, apply_ite State.dram, apply_ite State.pads, apply_ite State.tide, apply_ite State.tap, apply_ite State.pending]; done)))
@[simp] theorem frame_endDiag (s : State) :
    (endDiag s).clk = s.clk ∧ (endDiag s).pwr = s.pwr ∧ (endDiag s).boot = s.boot ∧ (endDiag s).par = s.par ∧ (endDiag s).bed = s.bed ∧ (endDiag s).dram = s.dram ∧ (endDiag s).pads = s.pads ∧ (endDiag s).tap = s.tap ∧ (endDiag s).pending = s.pending := by
  unfold endDiag
  first
    | (simp [apply_ite State.clk, apply_ite State.pwr, apply_ite State.boot, apply_ite State.par, apply_ite State.bed, apply_ite State.dram, apply_ite State.pads, apply_ite State.tap, apply_ite State.pending]; done)
    | ((repeat' split) <;> (first | (simp [apply_ite State.clk, apply_ite State.pwr, apply_ite State.boot, apply_ite State.par, apply_ite State.bed, apply_ite State.dram, apply_ite State.pads, apply_ite State.tap, apply_ite State.pending]; done) | (simp_all [apply_ite State.clk, apply_ite State.pwr, apply_ite State.boot, apply_ite State.par, apply_ite State.bed, apply_ite State.dram, apply_ite State.pads, apply_ite State.tap, apply_ite State.pending]; done)))
    | (dsimp only; (repeat' apply And.intro) <;> (repeat' split) <;> (first | (simp [apply_ite State.clk, apply_ite State.pwr, apply_ite State.boot, apply_ite State.par, apply_ite State.bed, apply_ite State.dram, apply_ite State.pads, apply_ite State.tap, apply_ite State.pending]; done) | (simp_all [apply_ite State.clk, apply_ite State.pwr, apply_ite State.boot, apply_ite State.par, apply_ite State.bed, apply_ite State.dram, apply_ite State.pads, apply_ite State.tap, apply_ite State.pending]; done)))
@[simp] theorem frame_endSession (m : Mbx) (s : State) :
    (endSession m s).clk = s.clk ∧ (endSession m s).pwr = s.pwr ∧ (endSession m s).boot = s.boot ∧ (endSession m s).par = s.par ∧ (endSession m s).bed = s.bed ∧ (endSession m s).dram = s.dram ∧ (endSession m s).pads = s.pads ∧ (endSession m s).tap = s.tap ∧ (endSession m s).pending = s.pending := by
  unfold endSession
  first
    | (simp [apply_ite State.clk, apply_ite State.pwr, apply_ite State.boot, apply_ite State.par, apply_ite State.bed, apply_ite State.dram, apply_ite State.pads, apply_ite State.tap, apply_ite State.pending]; done)
    | ((repeat' split) <;> (first | (simp [apply_ite State.clk, apply_ite State.pwr, apply_ite State.boot, apply_ite State.par, apply_ite State.bed, apply_ite State.dram, apply_ite State.pads, apply_ite State.tap, apply_ite State.pending]; done) | (simp_all [apply_ite State.clk, apply_ite State.pwr, apply_ite State.boot, apply_ite State.par, apply_ite State.bed, apply_ite State.dram, apply_ite State.pads, apply_ite State.tap, apply_ite State.pending]; done)))
    | (dsimp only; (repeat' apply And.intro) <;> (repeat' split) <;> (first | (simp [apply_ite State.clk, apply_ite State.pwr, apply_ite State.boot, apply_ite State.par, apply_ite State.bed, apply_ite State.dram, apply_ite State.pads, apply_ite State.tap, apply_ite State.pending]; done) | (simp_all [apply_ite State.clk, apply_ite State.pwr, apply_ite State.boot, apply_ite State.par, apply_ite State.bed, apply_ite State.dram, apply_ite State.pads, apply_ite State.tap, apply_ite State.pending]; done)))
@[simp] theorem frame_resetPort (p : PortId) (kept : LinkKept) (s : State) :
    (resetPort p kept s).clk = s.clk ∧ (resetPort p kept s).boot = s.boot ∧ (resetPort p kept s).par = s.par ∧ (resetPort p kept s).dram = s.dram ∧ (resetPort p kept s).pads = s.pads ∧ (resetPort p kept s).tap = s.tap ∧ (resetPort p kept s).pending = s.pending := by
  unfold resetPort
  first
    | (simp [apply_ite State.clk, apply_ite State.boot, apply_ite State.par, apply_ite State.dram, apply_ite State.pads, apply_ite State.tap, apply_ite State.pending]; done)
    | ((repeat' split) <;> (first | (simp [apply_ite State.clk, apply_ite State.boot, apply_ite State.par, apply_ite State.dram, apply_ite State.pads, apply_ite State.tap, apply_ite State.pending]; done) | (simp_all [apply_ite State.clk, apply_ite State.boot, apply_ite State.par, apply_ite State.dram, apply_ite State.pads, apply_ite State.tap, apply_ite State.pending]; done)))
    | (dsimp only; (repeat' apply And.intro) <;> (repeat' split) <;> (first | (simp [apply_ite State.clk, apply_ite State.boot, apply_ite State.par, apply_ite State.dram, apply_ite State.pads, apply_ite State.tap, apply_ite State.pending]; done) | (simp_all [apply_ite State.clk, apply_ite State.boot, apply_ite State.par, apply_ite State.dram, apply_ite State.pads, apply_ite State.tap, apply_ite State.pending]; done)))
@[simp] theorem frame_downPort (p : PortId) (s : State) :
    (downPort p s).clk = s.clk ∧ (downPort p s).boot = s.boot ∧ (downPort p s).par = s.par ∧ (downPort p s).dram = s.dram ∧ (downPort p s).pads = s.pads ∧ (downPort p s).tap = s.tap ∧ (downPort p s).pending = s.pending := by
  unfold downPort
  first
    | (simp [apply_ite State.clk, apply_ite State.boot, apply_ite State.par, apply_ite State.dram, apply_ite State.pads, apply_ite State.tap, apply_ite State.pending]; done)
    | ((repeat' split) <;> (first | (simp [apply_ite State.clk, apply_ite State.boot, apply_ite State.par, apply_ite State.dram, apply_ite State.pads, apply_ite State.tap, apply_ite State.pending]; done) | (simp_all [apply_ite State.clk, apply_ite State.boot, apply_ite State.par, apply_ite State.dram, apply_ite State.pads, apply_ite State.tap, apply_ite State.pending]; done)))
    | (dsimp only; (repeat' apply And.intro) <;> (repeat' split) <;> (first | (simp [apply_ite State.clk, apply_ite State.boot, apply_ite State.par, apply_ite State.dram, apply_ite State.pads, apply_ite State.tap, apply_ite State.pending]; done) | (simp_all [apply_ite State.clk, apply_ite State.boot, apply_ite State.par, apply_ite State.dram, apply_ite State.pads, apply_ite State.tap, apply_ite State.pending]; done)))
@[simp] theorem frame_noteWake (w : EbbWake) (s : State) :
    (noteWake w s).clk = s.clk ∧ (noteWake w s).boot = s.boot ∧ (noteWake w s).par = s.par ∧ (noteWake w s).sec = s.sec ∧ (noteWake w s).bed = s.bed ∧ (noteWake w s).dram = s.dram ∧ (noteWake w s).pads = s.pads ∧ (noteWake w s).integ = s.integ ∧ (noteWake w s).tide = s.tide ∧ (noteWake w s).tap = s.tap ∧ (noteWake w s).pending = s.pending := by
  unfold noteWake
  first
    | (simp [apply_ite State.clk, apply_ite State.boot, apply_ite State.par, apply_ite State.sec, apply_ite State.bed, apply_ite State.dram, apply_ite State.pads, apply_ite State.integ, apply_ite State.tide, apply_ite State.tap, apply_ite State.pending]; done)
    | ((repeat' split) <;> (first | (simp [apply_ite State.clk, apply_ite State.boot, apply_ite State.par, apply_ite State.sec, apply_ite State.bed, apply_ite State.dram, apply_ite State.pads, apply_ite State.integ, apply_ite State.tide, apply_ite State.tap, apply_ite State.pending]; done) | (simp_all [apply_ite State.clk, apply_ite State.boot, apply_ite State.par, apply_ite State.sec, apply_ite State.bed, apply_ite State.dram, apply_ite State.pads, apply_ite State.integ, apply_ite State.tide, apply_ite State.tap, apply_ite State.pending]; done)))
    | (dsimp only; (repeat' apply And.intro) <;> (repeat' split) <;> (first | (simp [apply_ite State.clk, apply_ite State.boot, apply_ite State.par, apply_ite State.sec, apply_ite State.bed, apply_ite State.dram, apply_ite State.pads, apply_ite State.integ, apply_ite State.tide, apply_ite State.tap, apply_ite State.pending]; done) | (simp_all [apply_ite State.clk, apply_ite State.boot, apply_ite State.par, apply_ite State.sec, apply_ite State.bed, apply_ite State.dram, apply_ite State.pads, apply_ite State.integ, apply_ite State.tide, apply_ite State.tap, apply_ite State.pending]; done)))
@[simp] theorem frame_failRead (p : PortId) (r : DmaRead) (s : State) :
    (failRead p r s).clk = s.clk ∧ (failRead p r s).boot = s.boot ∧ (failRead p r s).dram = s.dram ∧ (failRead p r s).pads = s.pads ∧ (failRead p r s).integ = s.integ ∧ (failRead p r s).tap = s.tap ∧ (failRead p r s).pending = s.pending := by
  unfold failRead
  first
    | (simp [apply_ite State.clk, apply_ite State.boot, apply_ite State.dram, apply_ite State.pads, apply_ite State.integ, apply_ite State.tap, apply_ite State.pending]; done)
    | ((repeat' split) <;> (first | (simp [apply_ite State.clk, apply_ite State.boot, apply_ite State.dram, apply_ite State.pads, apply_ite State.integ, apply_ite State.tap, apply_ite State.pending]; done) | (simp_all [apply_ite State.clk, apply_ite State.boot, apply_ite State.dram, apply_ite State.pads, apply_ite State.integ, apply_ite State.tap, apply_ite State.pending]; done)))
    | (dsimp only; (repeat' apply And.intro) <;> (repeat' split) <;> (first | (simp [apply_ite State.clk, apply_ite State.boot, apply_ite State.dram, apply_ite State.pads, apply_ite State.integ, apply_ite State.tap, apply_ite State.pending]; done) | (simp_all [apply_ite State.clk, apply_ite State.boot, apply_ite State.dram, apply_ite State.pads, apply_ite State.integ, apply_ite State.tap, apply_ite State.pending]; done)))
@[simp] theorem frame_failPage (p : PortId) (r : PageReq) (s : State) :
    (failPage p r s).clk = s.clk ∧ (failPage p r s).boot = s.boot ∧ (failPage p r s).dram = s.dram ∧ (failPage p r s).pads = s.pads ∧ (failPage p r s).integ = s.integ ∧ (failPage p r s).tap = s.tap ∧ (failPage p r s).pending = s.pending := by
  unfold failPage
  first
    | (simp [apply_ite State.clk, apply_ite State.boot, apply_ite State.dram, apply_ite State.pads, apply_ite State.integ, apply_ite State.tap, apply_ite State.pending]; done)
    | ((repeat' split) <;> (first | (simp [apply_ite State.clk, apply_ite State.boot, apply_ite State.dram, apply_ite State.pads, apply_ite State.integ, apply_ite State.tap, apply_ite State.pending]; done) | (simp_all [apply_ite State.clk, apply_ite State.boot, apply_ite State.dram, apply_ite State.pads, apply_ite State.integ, apply_ite State.tap, apply_ite State.pending]; done)))
    | (dsimp only; (repeat' apply And.intro) <;> (repeat' split) <;> (first | (simp [apply_ite State.clk, apply_ite State.boot, apply_ite State.dram, apply_ite State.pads, apply_ite State.integ, apply_ite State.tap, apply_ite State.pending]; done) | (simp_all [apply_ite State.clk, apply_ite State.boot, apply_ite State.dram, apply_ite State.pads, apply_ite State.integ, apply_ite State.tap, apply_ite State.pending]; done)))
@[simp] theorem frame_startRequest (m : Mbx) (r : MbReq) (s : State) :
    (startRequest m r s).clk = s.clk ∧ (startRequest m r s).pwr = s.pwr ∧ (startRequest m r s).boot = s.boot ∧ (startRequest m r s).par = s.par ∧ (startRequest m r s).sec = s.sec ∧ (startRequest m r s).bed = s.bed ∧ (startRequest m r s).dram = s.dram ∧ (startRequest m r s).pads = s.pads ∧ (startRequest m r s).integ = s.integ ∧ (startRequest m r s).tide = s.tide ∧ (startRequest m r s).tap = s.tap ∧ (startRequest m r s).pending = s.pending := by
  unfold startRequest
  first
    | (simp [apply_ite State.clk, apply_ite State.pwr, apply_ite State.boot, apply_ite State.par, apply_ite State.sec, apply_ite State.bed, apply_ite State.dram, apply_ite State.pads, apply_ite State.integ, apply_ite State.tide, apply_ite State.tap, apply_ite State.pending]; done)
    | ((repeat' split) <;> (first | (simp [apply_ite State.clk, apply_ite State.pwr, apply_ite State.boot, apply_ite State.par, apply_ite State.sec, apply_ite State.bed, apply_ite State.dram, apply_ite State.pads, apply_ite State.integ, apply_ite State.tide, apply_ite State.tap, apply_ite State.pending]; done) | (simp_all [apply_ite State.clk, apply_ite State.pwr, apply_ite State.boot, apply_ite State.par, apply_ite State.sec, apply_ite State.bed, apply_ite State.dram, apply_ite State.pads, apply_ite State.integ, apply_ite State.tide, apply_ite State.tap, apply_ite State.pending]; done)))
    | (dsimp only; (repeat' apply And.intro) <;> (repeat' split) <;> (first | (simp [apply_ite State.clk, apply_ite State.pwr, apply_ite State.boot, apply_ite State.par, apply_ite State.sec, apply_ite State.bed, apply_ite State.dram, apply_ite State.pads, apply_ite State.integ, apply_ite State.tide, apply_ite State.tap, apply_ite State.pending]; done) | (simp_all [apply_ite State.clk, apply_ite State.pwr, apply_ite State.boot, apply_ite State.par, apply_ite State.sec, apply_ite State.bed, apply_ite State.dram, apply_ite State.pads, apply_ite State.integ, apply_ite State.tide, apply_ite State.tap, apply_ite State.pending]; done)))
@[simp] theorem frame_writeCtrl (p : PortId) (n : Fin 4) (v : Word) (s : State) :
    (writeCtrl p n v s).clk = s.clk ∧ (writeCtrl p n v s).boot = s.boot ∧ (writeCtrl p n v s).par = s.par ∧ (writeCtrl p n v s).sec = s.sec ∧ (writeCtrl p n v s).bed = s.bed ∧ (writeCtrl p n v s).dram = s.dram ∧ (writeCtrl p n v s).pads = s.pads ∧ (writeCtrl p n v s).integ = s.integ ∧ (writeCtrl p n v s).tide = s.tide ∧ (writeCtrl p n v s).tap = s.tap ∧ (writeCtrl p n v s).pending = s.pending := by
  unfold writeCtrl
  first
    | (simp [apply_ite State.clk, apply_ite State.boot, apply_ite State.par, apply_ite State.sec, apply_ite State.bed, apply_ite State.dram, apply_ite State.pads, apply_ite State.integ, apply_ite State.tide, apply_ite State.tap, apply_ite State.pending]; done)
    | ((repeat' split) <;> (first | (simp [apply_ite State.clk, apply_ite State.boot, apply_ite State.par, apply_ite State.sec, apply_ite State.bed, apply_ite State.dram, apply_ite State.pads, apply_ite State.integ, apply_ite State.tide, apply_ite State.tap, apply_ite State.pending]; done) | (simp_all [apply_ite State.clk, apply_ite State.boot, apply_ite State.par, apply_ite State.sec, apply_ite State.bed, apply_ite State.dram, apply_ite State.pads, apply_ite State.integ, apply_ite State.tide, apply_ite State.tap, apply_ite State.pending]; done)))
    | (dsimp only; (repeat' apply And.intro) <;> (repeat' split) <;> (first | (simp [apply_ite State.clk, apply_ite State.boot, apply_ite State.par, apply_ite State.sec, apply_ite State.bed, apply_ite State.dram, apply_ite State.pads, apply_ite State.integ, apply_ite State.tide, apply_ite State.tap, apply_ite State.pending]; done) | (simp_all [apply_ite State.clk, apply_ite State.boot, apply_ite State.par, apply_ite State.sec, apply_ite State.bed, apply_ite State.dram, apply_ite State.pads, apply_ite State.integ, apply_ite State.tide, apply_ite State.tap, apply_ite State.pending]; done)))
@[simp] theorem frame_answer (s : State) (m : Mbx) (payload : List Byte) :
    (State.answer s m payload).clk = s.clk ∧ (State.answer s m payload).pwr = s.pwr ∧ (State.answer s m payload).boot = s.boot ∧ (State.answer s m payload).par = s.par ∧ (State.answer s m payload).sec = s.sec ∧ (State.answer s m payload).bed = s.bed ∧ (State.answer s m payload).dram = s.dram ∧ (State.answer s m payload).pads = s.pads ∧ (State.answer s m payload).integ = s.integ ∧ (State.answer s m payload).tide = s.tide ∧ (State.answer s m payload).tap = s.tap ∧ (State.answer s m payload).pending = s.pending := by
  unfold State.answer
  first
    | (simp [apply_ite State.clk, apply_ite State.pwr, apply_ite State.boot, apply_ite State.par, apply_ite State.sec, apply_ite State.bed, apply_ite State.dram, apply_ite State.pads, apply_ite State.integ, apply_ite State.tide, apply_ite State.tap, apply_ite State.pending]; done)
    | ((repeat' split) <;> (first | (simp [apply_ite State.clk, apply_ite State.pwr, apply_ite State.boot, apply_ite State.par, apply_ite State.sec, apply_ite State.bed, apply_ite State.dram, apply_ite State.pads, apply_ite State.integ, apply_ite State.tide, apply_ite State.tap, apply_ite State.pending]; done) | (simp_all [apply_ite State.clk, apply_ite State.pwr, apply_ite State.boot, apply_ite State.par, apply_ite State.sec, apply_ite State.bed, apply_ite State.dram, apply_ite State.pads, apply_ite State.integ, apply_ite State.tide, apply_ite State.tap, apply_ite State.pending]; done)))
    | (dsimp only; (repeat' apply And.intro) <;> (repeat' split) <;> (first | (simp [apply_ite State.clk, apply_ite State.pwr, apply_ite State.boot, apply_ite State.par, apply_ite State.sec, apply_ite State.bed, apply_ite State.dram, apply_ite State.pads, apply_ite State.integ, apply_ite State.tide, apply_ite State.tap, apply_ite State.pending]; done) | (simp_all [apply_ite State.clk, apply_ite State.pwr, apply_ite State.boot, apply_ite State.par, apply_ite State.sec, apply_ite State.bed, apply_ite State.dram, apply_ite State.pads, apply_ite State.integ, apply_ite State.tide, apply_ite State.tap, apply_ite State.pending]; done)))
@[simp] theorem frame_deny (s : State) (m : Mbx) (status detail : Nat) :
    (State.deny s m status detail).clk = s.clk ∧ (State.deny s m status detail).pwr = s.pwr ∧ (State.deny s m status detail).boot = s.boot ∧ (State.deny s m status detail).par = s.par ∧ (State.deny s m status detail).sec = s.sec ∧ (State.deny s m status detail).bed = s.bed ∧ (State.deny s m status detail).dram = s.dram ∧ (State.deny s m status detail).pads = s.pads ∧ (State.deny s m status detail).integ = s.integ ∧ (State.deny s m status detail).tide = s.tide ∧ (State.deny s m status detail).tap = s.tap ∧ (State.deny s m status detail).pending = s.pending := by
  unfold State.deny
  first
    | (simp [apply_ite State.clk, apply_ite State.pwr, apply_ite State.boot, apply_ite State.par, apply_ite State.sec, apply_ite State.bed, apply_ite State.dram, apply_ite State.pads, apply_ite State.integ, apply_ite State.tide, apply_ite State.tap, apply_ite State.pending]; done)
    | ((repeat' split) <;> (first | (simp [apply_ite State.clk, apply_ite State.pwr, apply_ite State.boot, apply_ite State.par, apply_ite State.sec, apply_ite State.bed, apply_ite State.dram, apply_ite State.pads, apply_ite State.integ, apply_ite State.tide, apply_ite State.tap, apply_ite State.pending]; done) | (simp_all [apply_ite State.clk, apply_ite State.pwr, apply_ite State.boot, apply_ite State.par, apply_ite State.sec, apply_ite State.bed, apply_ite State.dram, apply_ite State.pads, apply_ite State.integ, apply_ite State.tide, apply_ite State.tap, apply_ite State.pending]; done)))
    | (dsimp only; (repeat' apply And.intro) <;> (repeat' split) <;> (first | (simp [apply_ite State.clk, apply_ite State.pwr, apply_ite State.boot, apply_ite State.par, apply_ite State.sec, apply_ite State.bed, apply_ite State.dram, apply_ite State.pads, apply_ite State.integ, apply_ite State.tide, apply_ite State.tap, apply_ite State.pending]; done) | (simp_all [apply_ite State.clk, apply_ite State.pwr, apply_ite State.boot, apply_ite State.par, apply_ite State.sec, apply_ite State.bed, apply_ite State.dram, apply_ite State.pads, apply_ite State.integ, apply_ite State.tide, apply_ite State.tap, apply_ite State.pending]; done)))
@[simp] theorem frame_forward (s : State) (m : Mbx) :
    (State.forward s m).clk = s.clk ∧ (State.forward s m).boot = s.boot ∧ (State.forward s m).dram = s.dram ∧ (State.forward s m).pads = s.pads ∧ (State.forward s m).integ = s.integ ∧ (State.forward s m).tap = s.tap ∧ (State.forward s m).pending = s.pending := by
  unfold State.forward
  first
    | (simp [apply_ite State.clk, apply_ite State.boot, apply_ite State.dram, apply_ite State.pads, apply_ite State.integ, apply_ite State.tap, apply_ite State.pending]; done)
    | ((repeat' split) <;> (first | (simp [apply_ite State.clk, apply_ite State.boot, apply_ite State.dram, apply_ite State.pads, apply_ite State.integ, apply_ite State.tap, apply_ite State.pending]; done) | (simp_all [apply_ite State.clk, apply_ite State.boot, apply_ite State.dram, apply_ite State.pads, apply_ite State.integ, apply_ite State.tap, apply_ite State.pending]; done)))
    | (dsimp only; (repeat' apply And.intro) <;> (repeat' split) <;> (first | (simp [apply_ite State.clk, apply_ite State.boot, apply_ite State.dram, apply_ite State.pads, apply_ite State.integ, apply_ite State.tap, apply_ite State.pending]; done) | (simp_all [apply_ite State.clk, apply_ite State.boot, apply_ite State.dram, apply_ite State.pads, apply_ite State.integ, apply_ite State.tap, apply_ite State.pending]; done)))
@[simp] theorem frame_onArm (id : Nat) (f : Arm → Arm) (s : State) :
    (onArm id f s).clk = s.clk ∧ (onArm id f s).pwr = s.pwr ∧ (onArm id f s).boot = s.boot ∧ (onArm id f s).par = s.par ∧ (onArm id f s).sec = s.sec ∧ (onArm id f s).bed = s.bed ∧ (onArm id f s).dram = s.dram ∧ (onArm id f s).pads = s.pads ∧ (onArm id f s).tide = s.tide ∧ (onArm id f s).tap = s.tap ∧ (onArm id f s).pending = s.pending := by
  unfold onArm
  first
    | (simp [apply_ite State.clk, apply_ite State.pwr, apply_ite State.boot, apply_ite State.par, apply_ite State.sec, apply_ite State.bed, apply_ite State.dram, apply_ite State.pads, apply_ite State.tide, apply_ite State.tap, apply_ite State.pending]; done)
    | ((repeat' split) <;> (first | (simp [apply_ite State.clk, apply_ite State.pwr, apply_ite State.boot, apply_ite State.par, apply_ite State.sec, apply_ite State.bed, apply_ite State.dram, apply_ite State.pads, apply_ite State.tide, apply_ite State.tap, apply_ite State.pending]; done) | (simp_all [apply_ite State.clk, apply_ite State.pwr, apply_ite State.boot, apply_ite State.par, apply_ite State.sec, apply_ite State.bed, apply_ite State.dram, apply_ite State.pads, apply_ite State.tide, apply_ite State.tap, apply_ite State.pending]; done)))
    | (dsimp only; (repeat' apply And.intro) <;> (repeat' split) <;> (first | (simp [apply_ite State.clk, apply_ite State.pwr, apply_ite State.boot, apply_ite State.par, apply_ite State.sec, apply_ite State.bed, apply_ite State.dram, apply_ite State.pads, apply_ite State.tide, apply_ite State.tap, apply_ite State.pending]; done) | (simp_all [apply_ite State.clk, apply_ite State.pwr, apply_ite State.boot, apply_ite State.par, apply_ite State.sec, apply_ite State.bed, apply_ite State.dram, apply_ite State.pads, apply_ite State.tide, apply_ite State.tap, apply_ite State.pending]; done)))
@[simp] theorem frame_fireArm (a : Arm) (s : State) :
    (fireArm a s).clk = s.clk ∧ (fireArm a s).pwr = s.pwr ∧ (fireArm a s).boot = s.boot ∧ (fireArm a s).par = s.par ∧ (fireArm a s).sec = s.sec ∧ (fireArm a s).bed = s.bed ∧ (fireArm a s).dram = s.dram ∧ (fireArm a s).pads = s.pads ∧ (fireArm a s).tide = s.tide ∧ (fireArm a s).tap = s.tap ∧ (fireArm a s).pending = s.pending := by
  unfold fireArm
  first
    | (simp [apply_ite State.clk, apply_ite State.pwr, apply_ite State.boot, apply_ite State.par, apply_ite State.sec, apply_ite State.bed, apply_ite State.dram, apply_ite State.pads, apply_ite State.tide, apply_ite State.tap, apply_ite State.pending]; done)
    | ((repeat' split) <;> (first | (simp [apply_ite State.clk, apply_ite State.pwr, apply_ite State.boot, apply_ite State.par, apply_ite State.sec, apply_ite State.bed, apply_ite State.dram, apply_ite State.pads, apply_ite State.tide, apply_ite State.tap, apply_ite State.pending]; done) | (simp_all [apply_ite State.clk, apply_ite State.pwr, apply_ite State.boot, apply_ite State.par, apply_ite State.sec, apply_ite State.bed, apply_ite State.dram, apply_ite State.pads, apply_ite State.tide, apply_ite State.tap, apply_ite State.pending]; done)))
    | (dsimp only; (repeat' apply And.intro) <;> (repeat' split) <;> (first | (simp [apply_ite State.clk, apply_ite State.pwr, apply_ite State.boot, apply_ite State.par, apply_ite State.sec, apply_ite State.bed, apply_ite State.dram, apply_ite State.pads, apply_ite State.tide, apply_ite State.tap, apply_ite State.pending]; done) | (simp_all [apply_ite State.clk, apply_ite State.pwr, apply_ite State.boot, apply_ite State.par, apply_ite State.sec, apply_ite State.bed, apply_ite State.dram, apply_ite State.pads, apply_ite State.tide, apply_ite State.tap, apply_ite State.pending]; done)))
@[simp] theorem frame_noteArm (id fixed : Nat) (bad : Bool) (s : State) :
    (noteArm id fixed bad s).clk = s.clk ∧ (noteArm id fixed bad s).pwr = s.pwr ∧ (noteArm id fixed bad s).boot = s.boot ∧ (noteArm id fixed bad s).par = s.par ∧ (noteArm id fixed bad s).sec = s.sec ∧ (noteArm id fixed bad s).bed = s.bed ∧ (noteArm id fixed bad s).dram = s.dram ∧ (noteArm id fixed bad s).pads = s.pads ∧ (noteArm id fixed bad s).tide = s.tide ∧ (noteArm id fixed bad s).tap = s.tap ∧ (noteArm id fixed bad s).pending = s.pending := by
  unfold noteArm
  first
    | (simp [apply_ite State.clk, apply_ite State.pwr, apply_ite State.boot, apply_ite State.par, apply_ite State.sec, apply_ite State.bed, apply_ite State.dram, apply_ite State.pads, apply_ite State.tide, apply_ite State.tap, apply_ite State.pending]; done)
    | ((repeat' split) <;> (first | (simp [apply_ite State.clk, apply_ite State.pwr, apply_ite State.boot, apply_ite State.par, apply_ite State.sec, apply_ite State.bed, apply_ite State.dram, apply_ite State.pads, apply_ite State.tide, apply_ite State.tap, apply_ite State.pending]; done) | (simp_all [apply_ite State.clk, apply_ite State.pwr, apply_ite State.boot, apply_ite State.par, apply_ite State.sec, apply_ite State.bed, apply_ite State.dram, apply_ite State.pads, apply_ite State.tide, apply_ite State.tap, apply_ite State.pending]; done)))
    | (dsimp only; (repeat' apply And.intro) <;> (repeat' split) <;> (first | (simp [apply_ite State.clk, apply_ite State.pwr, apply_ite State.boot, apply_ite State.par, apply_ite State.sec, apply_ite State.bed, apply_ite State.dram, apply_ite State.pads, apply_ite State.tide, apply_ite State.tap, apply_ite State.pending]; done) | (simp_all [apply_ite State.clk, apply_ite State.pwr, apply_ite State.boot, apply_ite State.par, apply_ite State.sec, apply_ite State.bed, apply_ite State.dram, apply_ite State.pads, apply_ite State.tide, apply_ite State.tap, apply_ite State.pending]; done)))
@[simp] theorem frame_readWindow (dram : Bool) (unit adr n : Nat) (s : State) :
    (readWindow dram unit adr n s).1.clk = s.clk ∧ (readWindow dram unit adr n s).1.pwr = s.pwr ∧ (readWindow dram unit adr n s).1.boot = s.boot ∧ (readWindow dram unit adr n s).1.par = s.par ∧ (readWindow dram unit adr n s).1.sec = s.sec ∧ (readWindow dram unit adr n s).1.bed = s.bed ∧ (readWindow dram unit adr n s).1.dram = s.dram ∧ (readWindow dram unit adr n s).1.pads = s.pads ∧ (readWindow dram unit adr n s).1.tide = s.tide ∧ (readWindow dram unit adr n s).1.tap = s.tap ∧ (readWindow dram unit adr n s).1.pending = s.pending := by
  unfold readWindow
  first
    | (simp [apply_ite State.clk, apply_ite State.pwr, apply_ite State.boot, apply_ite State.par, apply_ite State.sec, apply_ite State.bed, apply_ite State.dram, apply_ite State.pads, apply_ite State.tide, apply_ite State.tap, apply_ite State.pending]; done)
    | ((repeat' split) <;> (first | (simp [apply_ite State.clk, apply_ite State.pwr, apply_ite State.boot, apply_ite State.par, apply_ite State.sec, apply_ite State.bed, apply_ite State.dram, apply_ite State.pads, apply_ite State.tide, apply_ite State.tap, apply_ite State.pending]; done) | (simp_all [apply_ite State.clk, apply_ite State.pwr, apply_ite State.boot, apply_ite State.par, apply_ite State.sec, apply_ite State.bed, apply_ite State.dram, apply_ite State.pads, apply_ite State.tide, apply_ite State.tap, apply_ite State.pending]; done)))
    | (dsimp only; (repeat' apply And.intro) <;> (repeat' split) <;> (first | (simp [apply_ite State.clk, apply_ite State.pwr, apply_ite State.boot, apply_ite State.par, apply_ite State.sec, apply_ite State.bed, apply_ite State.dram, apply_ite State.pads, apply_ite State.tide, apply_ite State.tap, apply_ite State.pending]; done) | (simp_all [apply_ite State.clk, apply_ite State.pwr, apply_ite State.boot, apply_ite State.par, apply_ite State.sec, apply_ite State.bed, apply_ite State.dram, apply_ite State.pads, apply_ite State.tide, apply_ite State.tap, apply_ite State.pending]; done)))
@[simp] theorem frame_writeWin (dram : Bool) (unit adr : Nat) (bytes : List Byte) (s : State) :
    (writeWin dram unit adr bytes s).clk = s.clk ∧ (writeWin dram unit adr bytes s).pwr = s.pwr ∧ (writeWin dram unit adr bytes s).boot = s.boot ∧ (writeWin dram unit adr bytes s).par = s.par ∧ (writeWin dram unit adr bytes s).sec = s.sec ∧ (writeWin dram unit adr bytes s).bed = s.bed ∧ (writeWin dram unit adr bytes s).dram = s.dram ∧ (writeWin dram unit adr bytes s).pads = s.pads ∧ (writeWin dram unit adr bytes s).tide = s.tide ∧ (writeWin dram unit adr bytes s).tap = s.tap ∧ (writeWin dram unit adr bytes s).pending = s.pending := by
  unfold writeWin
  first
    | (simp [apply_ite State.clk, apply_ite State.pwr, apply_ite State.boot, apply_ite State.par, apply_ite State.sec, apply_ite State.bed, apply_ite State.dram, apply_ite State.pads, apply_ite State.tide, apply_ite State.tap, apply_ite State.pending]; done)
    | ((repeat' split) <;> (first | (simp [apply_ite State.clk, apply_ite State.pwr, apply_ite State.boot, apply_ite State.par, apply_ite State.sec, apply_ite State.bed, apply_ite State.dram, apply_ite State.pads, apply_ite State.tide, apply_ite State.tap, apply_ite State.pending]; done) | (simp_all [apply_ite State.clk, apply_ite State.pwr, apply_ite State.boot, apply_ite State.par, apply_ite State.sec, apply_ite State.bed, apply_ite State.dram, apply_ite State.pads, apply_ite State.tide, apply_ite State.tap, apply_ite State.pending]; done)))
    | (dsimp only; (repeat' apply And.intro) <;> (repeat' split) <;> (first | (simp [apply_ite State.clk, apply_ite State.pwr, apply_ite State.boot, apply_ite State.par, apply_ite State.sec, apply_ite State.bed, apply_ite State.dram, apply_ite State.pads, apply_ite State.tide, apply_ite State.tap, apply_ite State.pending]; done) | (simp_all [apply_ite State.clk, apply_ite State.pwr, apply_ite State.boot, apply_ite State.par, apply_ite State.sec, apply_ite State.bed, apply_ite State.dram, apply_ite State.pads, apply_ite State.tide, apply_ite State.tap, apply_ite State.pending]; done)))
@[simp] theorem frame_readCw (adr : Nat) (results : List CwResult) (s : State) :
    (readCw adr results s).1.clk = s.clk ∧ (readCw adr results s).1.pwr = s.pwr ∧ (readCw adr results s).1.boot = s.boot ∧ (readCw adr results s).1.par = s.par ∧ (readCw adr results s).1.sec = s.sec ∧ (readCw adr results s).1.bed = s.bed ∧ (readCw adr results s).1.dram = s.dram ∧ (readCw adr results s).1.pads = s.pads ∧ (readCw adr results s).1.tide = s.tide ∧ (readCw adr results s).1.tap = s.tap ∧ (readCw adr results s).1.pending = s.pending := by
  unfold readCw
  first
    | (simp [apply_ite State.clk, apply_ite State.pwr, apply_ite State.boot, apply_ite State.par, apply_ite State.sec, apply_ite State.bed, apply_ite State.dram, apply_ite State.pads, apply_ite State.tide, apply_ite State.tap, apply_ite State.pending]; done)
    | ((repeat' split) <;> (first | (simp [apply_ite State.clk, apply_ite State.pwr, apply_ite State.boot, apply_ite State.par, apply_ite State.sec, apply_ite State.bed, apply_ite State.dram, apply_ite State.pads, apply_ite State.tide, apply_ite State.tap, apply_ite State.pending]; done) | (simp_all [apply_ite State.clk, apply_ite State.pwr, apply_ite State.boot, apply_ite State.par, apply_ite State.sec, apply_ite State.bed, apply_ite State.dram, apply_ite State.pads, apply_ite State.tide, apply_ite State.tap, apply_ite State.pending]; done)))
    | (dsimp only; (repeat' apply And.intro) <;> (repeat' split) <;> (first | (simp [apply_ite State.clk, apply_ite State.pwr, apply_ite State.boot, apply_ite State.par, apply_ite State.sec, apply_ite State.bed, apply_ite State.dram, apply_ite State.pads, apply_ite State.tide, apply_ite State.tap, apply_ite State.pending]; done) | (simp_all [apply_ite State.clk, apply_ite State.pwr, apply_ite State.boot, apply_ite State.par, apply_ite State.sec, apply_ite State.bed, apply_ite State.dram, apply_ite State.pads, apply_ite State.tide, apply_ite State.tap, apply_ite State.pending]; done)))
@[simp] theorem frame_diagSlot (adr : Nat) (pat : Option (BitVec 32)) (flips : List Nat) (arm : Nat) (s : State) :
    (diagSlot adr pat flips arm s).clk = s.clk ∧ (diagSlot adr pat flips arm s).pwr = s.pwr ∧ (diagSlot adr pat flips arm s).boot = s.boot ∧ (diagSlot adr pat flips arm s).par = s.par ∧ (diagSlot adr pat flips arm s).sec = s.sec ∧ (diagSlot adr pat flips arm s).bed = s.bed ∧ (diagSlot adr pat flips arm s).dram = s.dram ∧ (diagSlot adr pat flips arm s).pads = s.pads ∧ (diagSlot adr pat flips arm s).tide = s.tide ∧ (diagSlot adr pat flips arm s).tap = s.tap ∧ (diagSlot adr pat flips arm s).pending = s.pending := by
  unfold diagSlot
  first
    | (simp [apply_ite State.clk, apply_ite State.pwr, apply_ite State.boot, apply_ite State.par, apply_ite State.sec, apply_ite State.bed, apply_ite State.dram, apply_ite State.pads, apply_ite State.tide, apply_ite State.tap, apply_ite State.pending]; done)
    | ((repeat' split) <;> (first | (simp [apply_ite State.clk, apply_ite State.pwr, apply_ite State.boot, apply_ite State.par, apply_ite State.sec, apply_ite State.bed, apply_ite State.dram, apply_ite State.pads, apply_ite State.tide, apply_ite State.tap, apply_ite State.pending]; done) | (simp_all [apply_ite State.clk, apply_ite State.pwr, apply_ite State.boot, apply_ite State.par, apply_ite State.sec, apply_ite State.bed, apply_ite State.dram, apply_ite State.pads, apply_ite State.tide, apply_ite State.tap, apply_ite State.pending]; done)))
    | (dsimp only; (repeat' apply And.intro) <;> (repeat' split) <;> (first | (simp [apply_ite State.clk, apply_ite State.pwr, apply_ite State.boot, apply_ite State.par, apply_ite State.sec, apply_ite State.bed, apply_ite State.dram, apply_ite State.pads, apply_ite State.tide, apply_ite State.tap, apply_ite State.pending]; done) | (simp_all [apply_ite State.clk, apply_ite State.pwr, apply_ite State.boot, apply_ite State.par, apply_ite State.sec, apply_ite State.bed, apply_ite State.dram, apply_ite State.pads, apply_ite State.tide, apply_ite State.tap, apply_ite State.pending]; done)))
@[simp] theorem frame_writeCw (m : Mbx) (adr : Nat) (pat : BitVec 32) (s : State) :
    (writeCw m adr pat s).clk = s.clk ∧ (writeCw m adr pat s).pwr = s.pwr ∧ (writeCw m adr pat s).boot = s.boot ∧ (writeCw m adr pat s).par = s.par ∧ (writeCw m adr pat s).sec = s.sec ∧ (writeCw m adr pat s).bed = s.bed ∧ (writeCw m adr pat s).dram = s.dram ∧ (writeCw m adr pat s).pads = s.pads ∧ (writeCw m adr pat s).tide = s.tide ∧ (writeCw m adr pat s).tap = s.tap ∧ (writeCw m adr pat s).pending = s.pending := by
  unfold writeCw
  first
    | (simp [apply_ite State.clk, apply_ite State.pwr, apply_ite State.boot, apply_ite State.par, apply_ite State.sec, apply_ite State.bed, apply_ite State.dram, apply_ite State.pads, apply_ite State.tide, apply_ite State.tap, apply_ite State.pending]; done)
    | ((repeat' split) <;> (first | (simp [apply_ite State.clk, apply_ite State.pwr, apply_ite State.boot, apply_ite State.par, apply_ite State.sec, apply_ite State.bed, apply_ite State.dram, apply_ite State.pads, apply_ite State.tide, apply_ite State.tap, apply_ite State.pending]; done) | (simp_all [apply_ite State.clk, apply_ite State.pwr, apply_ite State.boot, apply_ite State.par, apply_ite State.sec, apply_ite State.bed, apply_ite State.dram, apply_ite State.pads, apply_ite State.tide, apply_ite State.tap, apply_ite State.pending]; done)))
    | (dsimp only; (repeat' apply And.intro) <;> (repeat' split) <;> (first | (simp [apply_ite State.clk, apply_ite State.pwr, apply_ite State.boot, apply_ite State.par, apply_ite State.sec, apply_ite State.bed, apply_ite State.dram, apply_ite State.pads, apply_ite State.tide, apply_ite State.tap, apply_ite State.pending]; done) | (simp_all [apply_ite State.clk, apply_ite State.pwr, apply_ite State.boot, apply_ite State.par, apply_ite State.sec, apply_ite State.bed, apply_ite State.dram, apply_ite State.pads, apply_ite State.tide, apply_ite State.tap, apply_ite State.pending]; done)))
@[simp] theorem frame_sendTest (p : CwPort) (s : State) :
    (sendTest p s).clk = s.clk ∧ (sendTest p s).pwr = s.pwr ∧ (sendTest p s).boot = s.boot ∧ (sendTest p s).par = s.par ∧ (sendTest p s).sec = s.sec ∧ (sendTest p s).bed = s.bed ∧ (sendTest p s).dram = s.dram ∧ (sendTest p s).pads = s.pads ∧ (sendTest p s).tide = s.tide ∧ (sendTest p s).tap = s.tap ∧ (sendTest p s).pending = s.pending := by
  unfold sendTest
  first
    | (simp [apply_ite State.clk, apply_ite State.pwr, apply_ite State.boot, apply_ite State.par, apply_ite State.sec, apply_ite State.bed, apply_ite State.dram, apply_ite State.pads, apply_ite State.tide, apply_ite State.tap, apply_ite State.pending]; done)
    | ((repeat' split) <;> (first | (simp [apply_ite State.clk, apply_ite State.pwr, apply_ite State.boot, apply_ite State.par, apply_ite State.sec, apply_ite State.bed, apply_ite State.dram, apply_ite State.pads, apply_ite State.tide, apply_ite State.tap, apply_ite State.pending]; done) | (simp_all [apply_ite State.clk, apply_ite State.pwr, apply_ite State.boot, apply_ite State.par, apply_ite State.sec, apply_ite State.bed, apply_ite State.dram, apply_ite State.pads, apply_ite State.tide, apply_ite State.tap, apply_ite State.pending]; done)))
    | (dsimp only; (repeat' apply And.intro) <;> (repeat' split) <;> (first | (simp [apply_ite State.clk, apply_ite State.pwr, apply_ite State.boot, apply_ite State.par, apply_ite State.sec, apply_ite State.bed, apply_ite State.dram, apply_ite State.pads, apply_ite State.tide, apply_ite State.tap, apply_ite State.pending]; done) | (simp_all [apply_ite State.clk, apply_ite State.pwr, apply_ite State.boot, apply_ite State.par, apply_ite State.sec, apply_ite State.bed, apply_ite State.dram, apply_ite State.pads, apply_ite State.tide, apply_ite State.tap, apply_ite State.pending]; done)))
@[simp] theorem frame_sendTests (s : State) :
    (sendTests s).clk = s.clk ∧ (sendTests s).pwr = s.pwr ∧ (sendTests s).boot = s.boot ∧ (sendTests s).par = s.par ∧ (sendTests s).sec = s.sec ∧ (sendTests s).bed = s.bed ∧ (sendTests s).dram = s.dram ∧ (sendTests s).pads = s.pads ∧ (sendTests s).tide = s.tide ∧ (sendTests s).tap = s.tap ∧ (sendTests s).pending = s.pending := by
  unfold sendTests
  first
    | (simp [apply_ite State.clk, apply_ite State.pwr, apply_ite State.boot, apply_ite State.par, apply_ite State.sec, apply_ite State.bed, apply_ite State.dram, apply_ite State.pads, apply_ite State.tide, apply_ite State.tap, apply_ite State.pending]; done)
    | ((repeat' split) <;> (first | (simp [apply_ite State.clk, apply_ite State.pwr, apply_ite State.boot, apply_ite State.par, apply_ite State.sec, apply_ite State.bed, apply_ite State.dram, apply_ite State.pads, apply_ite State.tide, apply_ite State.tap, apply_ite State.pending]; done) | (simp_all [apply_ite State.clk, apply_ite State.pwr, apply_ite State.boot, apply_ite State.par, apply_ite State.sec, apply_ite State.bed, apply_ite State.dram, apply_ite State.pads, apply_ite State.tide, apply_ite State.tap, apply_ite State.pending]; done)))
    | (dsimp only; (repeat' apply And.intro) <;> (repeat' split) <;> (first | (simp [apply_ite State.clk, apply_ite State.pwr, apply_ite State.boot, apply_ite State.par, apply_ite State.sec, apply_ite State.bed, apply_ite State.dram, apply_ite State.pads, apply_ite State.tide, apply_ite State.tap, apply_ite State.pending]; done) | (simp_all [apply_ite State.clk, apply_ite State.pwr, apply_ite State.boot, apply_ite State.par, apply_ite State.sec, apply_ite State.bed, apply_ite State.dram, apply_ite State.pads, apply_ite State.tide, apply_ite State.tap, apply_ite State.pending]; done)))
@[simp] theorem frame_setCode (c : Nat) (s : State) :
    (setCode c s).clk = s.clk ∧ (setCode c s).pwr = s.pwr ∧ (setCode c s).par = s.par ∧ (setCode c s).sec = s.sec ∧ (setCode c s).bed = s.bed ∧ (setCode c s).dram = s.dram ∧ (setCode c s).pads = s.pads ∧ (setCode c s).integ = s.integ ∧ (setCode c s).tide = s.tide ∧ (setCode c s).tap = s.tap ∧ (setCode c s).pending = s.pending := by
  unfold setCode
  first
    | (simp [apply_ite State.clk, apply_ite State.pwr, apply_ite State.par, apply_ite State.sec, apply_ite State.bed, apply_ite State.dram, apply_ite State.pads, apply_ite State.integ, apply_ite State.tide, apply_ite State.tap, apply_ite State.pending]; done)
    | ((repeat' split) <;> (first | (simp [apply_ite State.clk, apply_ite State.pwr, apply_ite State.par, apply_ite State.sec, apply_ite State.bed, apply_ite State.dram, apply_ite State.pads, apply_ite State.integ, apply_ite State.tide, apply_ite State.tap, apply_ite State.pending]; done) | (simp_all [apply_ite State.clk, apply_ite State.pwr, apply_ite State.par, apply_ite State.sec, apply_ite State.bed, apply_ite State.dram, apply_ite State.pads, apply_ite State.integ, apply_ite State.tide, apply_ite State.tap, apply_ite State.pending]; done)))
    | (dsimp only; (repeat' apply And.intro) <;> (repeat' split) <;> (first | (simp [apply_ite State.clk, apply_ite State.pwr, apply_ite State.par, apply_ite State.sec, apply_ite State.bed, apply_ite State.dram, apply_ite State.pads, apply_ite State.integ, apply_ite State.tide, apply_ite State.tap, apply_ite State.pending]; done) | (simp_all [apply_ite State.clk, apply_ite State.pwr, apply_ite State.par, apply_ite State.sec, apply_ite State.bed, apply_ite State.dram, apply_ite State.pads, apply_ite State.integ, apply_ite State.tide, apply_ite State.tap, apply_ite State.pending]; done)))
@[simp] theorem frame_safeMode (c : Nat) (s : State) :
    (safeMode c s).clk = s.clk ∧ (safeMode c s).dram = s.dram ∧ (safeMode c s).pads = s.pads ∧ (safeMode c s).integ = s.integ ∧ (safeMode c s).tap = s.tap ∧ (safeMode c s).pending = s.pending := by
  unfold safeMode
  first
    | (simp [apply_ite State.clk, apply_ite State.dram, apply_ite State.pads, apply_ite State.integ, apply_ite State.tap, apply_ite State.pending]; done)
    | ((repeat' split) <;> (first | (simp [apply_ite State.clk, apply_ite State.dram, apply_ite State.pads, apply_ite State.integ, apply_ite State.tap, apply_ite State.pending]; done) | (simp_all [apply_ite State.clk, apply_ite State.dram, apply_ite State.pads, apply_ite State.integ, apply_ite State.tap, apply_ite State.pending]; done)))
    | (dsimp only; (repeat' apply And.intro) <;> (repeat' split) <;> (first | (simp [apply_ite State.clk, apply_ite State.dram, apply_ite State.pads, apply_ite State.integ, apply_ite State.tap, apply_ite State.pending]; done) | (simp_all [apply_ite State.clk, apply_ite State.dram, apply_ite State.pads, apply_ite State.integ, apply_ite State.tap, apply_ite State.pending]; done)))
@[simp] theorem frame_deviceFatal (why : Nat) (s : State) :
    (deviceFatal why s).clk = s.clk ∧ (deviceFatal why s).pwr = s.pwr ∧ (deviceFatal why s).par = s.par ∧ (deviceFatal why s).sec = s.sec ∧ (deviceFatal why s).bed = s.bed ∧ (deviceFatal why s).dram = s.dram ∧ (deviceFatal why s).pads = s.pads ∧ (deviceFatal why s).integ = s.integ ∧ (deviceFatal why s).tide = s.tide ∧ (deviceFatal why s).tap = s.tap ∧ (deviceFatal why s).pending = s.pending := by
  unfold deviceFatal
  first
    | (simp [apply_ite State.clk, apply_ite State.pwr, apply_ite State.par, apply_ite State.sec, apply_ite State.bed, apply_ite State.dram, apply_ite State.pads, apply_ite State.integ, apply_ite State.tide, apply_ite State.tap, apply_ite State.pending]; done)
    | ((repeat' split) <;> (first | (simp [apply_ite State.clk, apply_ite State.pwr, apply_ite State.par, apply_ite State.sec, apply_ite State.bed, apply_ite State.dram, apply_ite State.pads, apply_ite State.integ, apply_ite State.tide, apply_ite State.tap, apply_ite State.pending]; done) | (simp_all [apply_ite State.clk, apply_ite State.pwr, apply_ite State.par, apply_ite State.sec, apply_ite State.bed, apply_ite State.dram, apply_ite State.pads, apply_ite State.integ, apply_ite State.tide, apply_ite State.tap, apply_ite State.pending]; done)))
    | (dsimp only; (repeat' apply And.intro) <;> (repeat' split) <;> (first | (simp [apply_ite State.clk, apply_ite State.pwr, apply_ite State.par, apply_ite State.sec, apply_ite State.bed, apply_ite State.dram, apply_ite State.pads, apply_ite State.integ, apply_ite State.tide, apply_ite State.tap, apply_ite State.pending]; done) | (simp_all [apply_ite State.clk, apply_ite State.pwr, apply_ite State.par, apply_ite State.sec, apply_ite State.bed, apply_ite State.dram, apply_ite State.pads, apply_ite State.integ, apply_ite State.tide, apply_ite State.tap, apply_ite State.pending]; done)))
@[simp] theorem frame_recoveryStage (s : State) :
    (recoveryStage s).clk = s.clk ∧ (recoveryStage s).pwr = s.pwr ∧ (recoveryStage s).par = s.par ∧ (recoveryStage s).sec = s.sec ∧ (recoveryStage s).bed = s.bed ∧ (recoveryStage s).dram = s.dram ∧ (recoveryStage s).pads = s.pads ∧ (recoveryStage s).integ = s.integ ∧ (recoveryStage s).tide = s.tide ∧ (recoveryStage s).tap = s.tap ∧ (recoveryStage s).pending = s.pending := by
  unfold recoveryStage
  first
    | (simp [apply_ite State.clk, apply_ite State.pwr, apply_ite State.par, apply_ite State.sec, apply_ite State.bed, apply_ite State.dram, apply_ite State.pads, apply_ite State.integ, apply_ite State.tide, apply_ite State.tap, apply_ite State.pending]; done)
    | ((repeat' split) <;> (first | (simp [apply_ite State.clk, apply_ite State.pwr, apply_ite State.par, apply_ite State.sec, apply_ite State.bed, apply_ite State.dram, apply_ite State.pads, apply_ite State.integ, apply_ite State.tide, apply_ite State.tap, apply_ite State.pending]; done) | (simp_all [apply_ite State.clk, apply_ite State.pwr, apply_ite State.par, apply_ite State.sec, apply_ite State.bed, apply_ite State.dram, apply_ite State.pads, apply_ite State.integ, apply_ite State.tide, apply_ite State.tap, apply_ite State.pending]; done)))
    | (dsimp only; (repeat' apply And.intro) <;> (repeat' split) <;> (first | (simp [apply_ite State.clk, apply_ite State.pwr, apply_ite State.par, apply_ite State.sec, apply_ite State.bed, apply_ite State.dram, apply_ite State.pads, apply_ite State.integ, apply_ite State.tide, apply_ite State.tap, apply_ite State.pending]; done) | (simp_all [apply_ite State.clk, apply_ite State.pwr, apply_ite State.par, apply_ite State.sec, apply_ite State.bed, apply_ite State.dram, apply_ite State.pads, apply_ite State.integ, apply_ite State.tide, apply_ite State.tap, apply_ite State.pending]; done)))
@[simp] theorem frame_startHoldup (s : State) :
    (startHoldup s).clk = s.clk ∧ (startHoldup s).pwr = s.pwr ∧ (startHoldup s).boot = s.boot ∧ (startHoldup s).par = s.par ∧ (startHoldup s).sec = s.sec ∧ (startHoldup s).bed = s.bed ∧ (startHoldup s).dram = s.dram ∧ (startHoldup s).pads = s.pads ∧ (startHoldup s).tap = s.tap ∧ (startHoldup s).pending = s.pending := by
  unfold startHoldup
  first
    | (simp [apply_ite State.clk, apply_ite State.pwr, apply_ite State.boot, apply_ite State.par, apply_ite State.sec, apply_ite State.bed, apply_ite State.dram, apply_ite State.pads, apply_ite State.tap, apply_ite State.pending]; done)
    | ((repeat' split) <;> (first | (simp [apply_ite State.clk, apply_ite State.pwr, apply_ite State.boot, apply_ite State.par, apply_ite State.sec, apply_ite State.bed, apply_ite State.dram, apply_ite State.pads, apply_ite State.tap, apply_ite State.pending]; done) | (simp_all [apply_ite State.clk, apply_ite State.pwr, apply_ite State.boot, apply_ite State.par, apply_ite State.sec, apply_ite State.bed, apply_ite State.dram, apply_ite State.pads, apply_ite State.tap, apply_ite State.pending]; done)))
    | (dsimp only; (repeat' apply And.intro) <;> (repeat' split) <;> (first | (simp [apply_ite State.clk, apply_ite State.pwr, apply_ite State.boot, apply_ite State.par, apply_ite State.sec, apply_ite State.bed, apply_ite State.dram, apply_ite State.pads, apply_ite State.tap, apply_ite State.pending]; done) | (simp_all [apply_ite State.clk, apply_ite State.pwr, apply_ite State.boot, apply_ite State.par, apply_ite State.sec, apply_ite State.bed, apply_ite State.dram, apply_ite State.pads, apply_ite State.tap, apply_ite State.pending]; done)))
@[simp] theorem frame_takeAnswers (l : List DieAnswer) (s : State) :
    (takeAnswers l s).clk = s.clk ∧ (takeAnswers l s).pwr = s.pwr ∧ (takeAnswers l s).boot = s.boot ∧ (takeAnswers l s).par = s.par ∧ (takeAnswers l s).sec = s.sec ∧ (takeAnswers l s).bed = s.bed ∧ (takeAnswers l s).dram = s.dram ∧ (takeAnswers l s).pads = s.pads ∧ (takeAnswers l s).integ = s.integ ∧ (takeAnswers l s).tide = s.tide ∧ (takeAnswers l s).tap = s.tap ∧ (takeAnswers l s).pending = s.pending := by
  unfold takeAnswers
  first
    | (simp [apply_ite State.clk, apply_ite State.pwr, apply_ite State.boot, apply_ite State.par, apply_ite State.sec, apply_ite State.bed, apply_ite State.dram, apply_ite State.pads, apply_ite State.integ, apply_ite State.tide, apply_ite State.tap, apply_ite State.pending]; done)
    | ((repeat' split) <;> (first | (simp [apply_ite State.clk, apply_ite State.pwr, apply_ite State.boot, apply_ite State.par, apply_ite State.sec, apply_ite State.bed, apply_ite State.dram, apply_ite State.pads, apply_ite State.integ, apply_ite State.tide, apply_ite State.tap, apply_ite State.pending]; done) | (simp_all [apply_ite State.clk, apply_ite State.pwr, apply_ite State.boot, apply_ite State.par, apply_ite State.sec, apply_ite State.bed, apply_ite State.dram, apply_ite State.pads, apply_ite State.integ, apply_ite State.tide, apply_ite State.tap, apply_ite State.pending]; done)))
    | (dsimp only; (repeat' apply And.intro) <;> (repeat' split) <;> (first | (simp [apply_ite State.clk, apply_ite State.pwr, apply_ite State.boot, apply_ite State.par, apply_ite State.sec, apply_ite State.bed, apply_ite State.dram, apply_ite State.pads, apply_ite State.integ, apply_ite State.tide, apply_ite State.tap, apply_ite State.pending]; done) | (simp_all [apply_ite State.clk, apply_ite State.pwr, apply_ite State.boot, apply_ite State.par, apply_ite State.sec, apply_ite State.bed, apply_ite State.dram, apply_ite State.pads, apply_ite State.integ, apply_ite State.tide, apply_ite State.tap, apply_ite State.pending]; done)))
@[simp] theorem frame_matchDies (s : State) :
    (matchDies s).clk = s.clk ∧ (matchDies s).dram = s.dram ∧ (matchDies s).pads = s.pads ∧ (matchDies s).integ = s.integ ∧ (matchDies s).tap = s.tap ∧ (matchDies s).pending = s.pending := by
  unfold matchDies
  first
    | (simp [apply_ite State.clk, apply_ite State.dram, apply_ite State.pads, apply_ite State.integ, apply_ite State.tap, apply_ite State.pending]; done)
    | ((repeat' split) <;> (first | (simp [apply_ite State.clk, apply_ite State.dram, apply_ite State.pads, apply_ite State.integ, apply_ite State.tap, apply_ite State.pending]; done) | (simp_all [apply_ite State.clk, apply_ite State.dram, apply_ite State.pads, apply_ite State.integ, apply_ite State.tap, apply_ite State.pending]; done)))
    | (dsimp only; (repeat' apply And.intro) <;> (repeat' split) <;> (first | (simp [apply_ite State.clk, apply_ite State.dram, apply_ite State.pads, apply_ite State.integ, apply_ite State.tap, apply_ite State.pending]; done) | (simp_all [apply_ite State.clk, apply_ite State.dram, apply_ite State.pads, apply_ite State.integ, apply_ite State.tap, apply_ite State.pending]; done)))
@[simp] theorem frame_enterState (p : PState) (s : State) :
    (enterState p s).clk = s.clk ∧ (enterState p s).boot = s.boot ∧ (enterState p s).par = s.par ∧ (enterState p s).sec = s.sec ∧ (enterState p s).bed = s.bed ∧ (enterState p s).dram = s.dram ∧ (enterState p s).pads = s.pads ∧ (enterState p s).tide = s.tide ∧ (enterState p s).tap = s.tap ∧ (enterState p s).pending = s.pending := by
  unfold enterState
  first
    | (simp [apply_ite State.clk, apply_ite State.boot, apply_ite State.par, apply_ite State.sec, apply_ite State.bed, apply_ite State.dram, apply_ite State.pads, apply_ite State.tide, apply_ite State.tap, apply_ite State.pending]; done)
    | ((repeat' split) <;> (first | (simp [apply_ite State.clk, apply_ite State.boot, apply_ite State.par, apply_ite State.sec, apply_ite State.bed, apply_ite State.dram, apply_ite State.pads, apply_ite State.tide, apply_ite State.tap, apply_ite State.pending]; done) | (simp_all [apply_ite State.clk, apply_ite State.boot, apply_ite State.par, apply_ite State.sec, apply_ite State.bed, apply_ite State.dram, apply_ite State.pads, apply_ite State.tide, apply_ite State.tap, apply_ite State.pending]; done)))
    | (dsimp only; (repeat' apply And.intro) <;> (repeat' split) <;> (first | (simp [apply_ite State.clk, apply_ite State.boot, apply_ite State.par, apply_ite State.sec, apply_ite State.bed, apply_ite State.dram, apply_ite State.pads, apply_ite State.tide, apply_ite State.tap, apply_ite State.pending]; done) | (simp_all [apply_ite State.clk, apply_ite State.boot, apply_ite State.par, apply_ite State.sec, apply_ite State.bed, apply_ite State.dram, apply_ite State.pads, apply_ite State.tide, apply_ite State.tap, apply_ite State.pending]; done)))
@[simp] theorem frame_tideBedrock (s : State) :
    (tideBedrock s).clk = s.clk ∧ (tideBedrock s).pwr = s.pwr ∧ (tideBedrock s).boot = s.boot ∧ (tideBedrock s).par = s.par ∧ (tideBedrock s).sec = s.sec ∧ (tideBedrock s).dram = s.dram ∧ (tideBedrock s).pads = s.pads ∧ (tideBedrock s).integ = s.integ ∧ (tideBedrock s).tide = s.tide ∧ (tideBedrock s).tap = s.tap ∧ (tideBedrock s).pending = s.pending := by
  unfold tideBedrock
  first
    | (simp [apply_ite State.clk, apply_ite State.pwr, apply_ite State.boot, apply_ite State.par, apply_ite State.sec, apply_ite State.dram, apply_ite State.pads, apply_ite State.integ, apply_ite State.tide, apply_ite State.tap, apply_ite State.pending]; done)
    | ((repeat' split) <;> (first | (simp [apply_ite State.clk, apply_ite State.pwr, apply_ite State.boot, apply_ite State.par, apply_ite State.sec, apply_ite State.dram, apply_ite State.pads, apply_ite State.integ, apply_ite State.tide, apply_ite State.tap, apply_ite State.pending]; done) | (simp_all [apply_ite State.clk, apply_ite State.pwr, apply_ite State.boot, apply_ite State.par, apply_ite State.sec, apply_ite State.dram, apply_ite State.pads, apply_ite State.integ, apply_ite State.tide, apply_ite State.tap, apply_ite State.pending]; done)))
    | (dsimp only; (repeat' apply And.intro) <;> (repeat' split) <;> (first | (simp [apply_ite State.clk, apply_ite State.pwr, apply_ite State.boot, apply_ite State.par, apply_ite State.sec, apply_ite State.dram, apply_ite State.pads, apply_ite State.integ, apply_ite State.tide, apply_ite State.tap, apply_ite State.pending]; done) | (simp_all [apply_ite State.clk, apply_ite State.pwr, apply_ite State.boot, apply_ite State.par, apply_ite State.sec, apply_ite State.dram, apply_ite State.pads, apply_ite State.integ, apply_ite State.tide, apply_ite State.tap, apply_ite State.pending]; done)))
@[simp] theorem frame_writeGen (s : State) :
    (writeGen s).clk = s.clk ∧ (writeGen s).pwr = s.pwr ∧ (writeGen s).boot = s.boot ∧ (writeGen s).par = s.par ∧ (writeGen s).sec = s.sec ∧ (writeGen s).bed = s.bed ∧ (writeGen s).dram = s.dram ∧ (writeGen s).pads = s.pads ∧ (writeGen s).integ = s.integ ∧ (writeGen s).tide = s.tide ∧ (writeGen s).tap = s.tap ∧ (writeGen s).pending = s.pending := by
  unfold writeGen
  first
    | (simp [apply_ite State.clk, apply_ite State.pwr, apply_ite State.boot, apply_ite State.par, apply_ite State.sec, apply_ite State.bed, apply_ite State.dram, apply_ite State.pads, apply_ite State.integ, apply_ite State.tide, apply_ite State.tap, apply_ite State.pending]; done)
    | ((repeat' split) <;> (first | (simp [apply_ite State.clk, apply_ite State.pwr, apply_ite State.boot, apply_ite State.par, apply_ite State.sec, apply_ite State.bed, apply_ite State.dram, apply_ite State.pads, apply_ite State.integ, apply_ite State.tide, apply_ite State.tap, apply_ite State.pending]; done) | (simp_all [apply_ite State.clk, apply_ite State.pwr, apply_ite State.boot, apply_ite State.par, apply_ite State.sec, apply_ite State.bed, apply_ite State.dram, apply_ite State.pads, apply_ite State.integ, apply_ite State.tide, apply_ite State.tap, apply_ite State.pending]; done)))
    | (dsimp only; (repeat' apply And.intro) <;> (repeat' split) <;> (first | (simp [apply_ite State.clk, apply_ite State.pwr, apply_ite State.boot, apply_ite State.par, apply_ite State.sec, apply_ite State.bed, apply_ite State.dram, apply_ite State.pads, apply_ite State.integ, apply_ite State.tide, apply_ite State.tap, apply_ite State.pending]; done) | (simp_all [apply_ite State.clk, apply_ite State.pwr, apply_ite State.boot, apply_ite State.par, apply_ite State.sec, apply_ite State.bed, apply_ite State.dram, apply_ite State.pads, apply_ite State.integ, apply_ite State.tide, apply_ite State.tap, apply_ite State.pending]; done)))
@[simp] theorem frame_startTide (t : Trigger) (s : State) :
    (startTide t s).clk = s.clk ∧ (startTide t s).boot = s.boot ∧ (startTide t s).par = s.par ∧ (startTide t s).dram = s.dram ∧ (startTide t s).pads = s.pads ∧ (startTide t s).tide = s.tide ∧ (startTide t s).tap = s.tap ∧ (startTide t s).pending = s.pending := by
  unfold startTide
  first
    | (simp [apply_ite State.clk, apply_ite State.boot, apply_ite State.par, apply_ite State.dram, apply_ite State.pads, apply_ite State.tide, apply_ite State.tap, apply_ite State.pending]; done)
    | ((repeat' split) <;> (first | (simp [apply_ite State.clk, apply_ite State.boot, apply_ite State.par, apply_ite State.dram, apply_ite State.pads, apply_ite State.tide, apply_ite State.tap, apply_ite State.pending]; done) | (simp_all [apply_ite State.clk, apply_ite State.boot, apply_ite State.par, apply_ite State.dram, apply_ite State.pads, apply_ite State.tide, apply_ite State.tap, apply_ite State.pending]; done)))
    | (dsimp only; (repeat' apply And.intro) <;> (repeat' split) <;> (first | (simp [apply_ite State.clk, apply_ite State.boot, apply_ite State.par, apply_ite State.dram, apply_ite State.pads, apply_ite State.tide, apply_ite State.tap, apply_ite State.pending]; done) | (simp_all [apply_ite State.clk, apply_ite State.boot, apply_ite State.par, apply_ite State.dram, apply_ite State.pads, apply_ite State.tide, apply_ite State.tap, apply_ite State.pending]; done)))
@[simp] theorem frame_tideTrigger (t : Trigger) (s : State) :
    (tideTrigger t s).clk = s.clk ∧ (tideTrigger t s).boot = s.boot ∧ (tideTrigger t s).par = s.par ∧ (tideTrigger t s).dram = s.dram ∧ (tideTrigger t s).pads = s.pads ∧ (tideTrigger t s).tide = s.tide ∧ (tideTrigger t s).tap = s.tap ∧ (tideTrigger t s).pending = s.pending := by
  unfold tideTrigger
  first
    | (simp [apply_ite State.clk, apply_ite State.boot, apply_ite State.par, apply_ite State.dram, apply_ite State.pads, apply_ite State.tide, apply_ite State.tap, apply_ite State.pending]; done)
    | ((repeat' split) <;> (first | (simp [apply_ite State.clk, apply_ite State.boot, apply_ite State.par, apply_ite State.dram, apply_ite State.pads, apply_ite State.tide, apply_ite State.tap, apply_ite State.pending]; done) | (simp_all [apply_ite State.clk, apply_ite State.boot, apply_ite State.par, apply_ite State.dram, apply_ite State.pads, apply_ite State.tide, apply_ite State.tap, apply_ite State.pending]; done)))
    | (dsimp only; (repeat' apply And.intro) <;> (repeat' split) <;> (first | (simp [apply_ite State.clk, apply_ite State.boot, apply_ite State.par, apply_ite State.dram, apply_ite State.pads, apply_ite State.tide, apply_ite State.tap, apply_ite State.pending]; done) | (simp_all [apply_ite State.clk, apply_ite State.boot, apply_ite State.par, apply_ite State.dram, apply_ite State.pads, apply_ite State.tide, apply_ite State.tap, apply_ite State.pending]; done)))
@[simp] theorem frame_faultTrigger (t : Trigger) (s : State) :
    (faultTrigger t s).clk = s.clk ∧ (faultTrigger t s).par = s.par ∧ (faultTrigger t s).dram = s.dram ∧ (faultTrigger t s).pads = s.pads ∧ (faultTrigger t s).tide = s.tide ∧ (faultTrigger t s).tap = s.tap ∧ (faultTrigger t s).pending = s.pending := by
  unfold faultTrigger
  first
    | (simp [apply_ite State.clk, apply_ite State.par, apply_ite State.dram, apply_ite State.pads, apply_ite State.tide, apply_ite State.tap, apply_ite State.pending]; done)
    | ((repeat' split) <;> (first | (simp [apply_ite State.clk, apply_ite State.par, apply_ite State.dram, apply_ite State.pads, apply_ite State.tide, apply_ite State.tap, apply_ite State.pending]; done) | (simp_all [apply_ite State.clk, apply_ite State.par, apply_ite State.dram, apply_ite State.pads, apply_ite State.tide, apply_ite State.tap, apply_ite State.pending]; done)))
    | (dsimp only; (repeat' apply And.intro) <;> (repeat' split) <;> (first | (simp [apply_ite State.clk, apply_ite State.par, apply_ite State.dram, apply_ite State.pads, apply_ite State.tide, apply_ite State.tap, apply_ite State.pending]; done) | (simp_all [apply_ite State.clk, apply_ite State.par, apply_ite State.dram, apply_ite State.pads, apply_ite State.tide, apply_ite State.tap, apply_ite State.pending]; done)))
@[simp] theorem frame_tideAnchor (s : State) :
    (tideAnchor s).clk = s.clk ∧ (tideAnchor s).pwr = s.pwr ∧ (tideAnchor s).boot = s.boot ∧ (tideAnchor s).par = s.par ∧ (tideAnchor s).sec = s.sec ∧ (tideAnchor s).dram = s.dram ∧ (tideAnchor s).pads = s.pads ∧ (tideAnchor s).integ = s.integ ∧ (tideAnchor s).tide = s.tide ∧ (tideAnchor s).tap = s.tap ∧ (tideAnchor s).pending = s.pending := by
  unfold tideAnchor
  first
    | (simp [apply_ite State.clk, apply_ite State.pwr, apply_ite State.boot, apply_ite State.par, apply_ite State.sec, apply_ite State.dram, apply_ite State.pads, apply_ite State.integ, apply_ite State.tide, apply_ite State.tap, apply_ite State.pending]; done)
    | ((repeat' split) <;> (first | (simp [apply_ite State.clk, apply_ite State.pwr, apply_ite State.boot, apply_ite State.par, apply_ite State.sec, apply_ite State.dram, apply_ite State.pads, apply_ite State.integ, apply_ite State.tide, apply_ite State.tap, apply_ite State.pending]; done) | (simp_all [apply_ite State.clk, apply_ite State.pwr, apply_ite State.boot, apply_ite State.par, apply_ite State.sec, apply_ite State.dram, apply_ite State.pads, apply_ite State.integ, apply_ite State.tide, apply_ite State.tap, apply_ite State.pending]; done)))
    | (dsimp only; (repeat' apply And.intro) <;> (repeat' split) <;> (first | (simp [apply_ite State.clk, apply_ite State.pwr, apply_ite State.boot, apply_ite State.par, apply_ite State.sec, apply_ite State.dram, apply_ite State.pads, apply_ite State.integ, apply_ite State.tide, apply_ite State.tap, apply_ite State.pending]; done) | (simp_all [apply_ite State.clk, apply_ite State.pwr, apply_ite State.boot, apply_ite State.par, apply_ite State.sec, apply_ite State.dram, apply_ite State.pads, apply_ite State.integ, apply_ite State.tide, apply_ite State.tap, apply_ite State.pending]; done)))
@[simp] theorem frame_clearCore (ebb : Bool) (s : State) :
    (clearCore ebb s).clk = s.clk ∧ (clearCore ebb s).par = s.par ∧ (clearCore ebb s).tap = s.tap ∧ (clearCore ebb s).pending = s.pending := by
  unfold clearCore
  first
    | (simp [apply_ite State.clk, apply_ite State.par, apply_ite State.tap, apply_ite State.pending]; done)
    | ((repeat' split) <;> (first | (simp [apply_ite State.clk, apply_ite State.par, apply_ite State.tap, apply_ite State.pending]; done) | (simp_all [apply_ite State.clk, apply_ite State.par, apply_ite State.tap, apply_ite State.pending]; done)))
    | (dsimp only; (repeat' apply And.intro) <;> (repeat' split) <;> (first | (simp [apply_ite State.clk, apply_ite State.par, apply_ite State.tap, apply_ite State.pending]; done) | (simp_all [apply_ite State.clk, apply_ite State.par, apply_ite State.tap, apply_ite State.pending]; done)))
@[simp] theorem frame_lastTideEnds (written : Option Nat) (s : State) :
    (lastTideEnds written s).clk = s.clk ∧ (lastTideEnds written s).pwr = s.pwr ∧ (lastTideEnds written s).boot = s.boot ∧ (lastTideEnds written s).par = s.par ∧ (lastTideEnds written s).sec = s.sec ∧ (lastTideEnds written s).bed = s.bed ∧ (lastTideEnds written s).dram = s.dram ∧ (lastTideEnds written s).pads = s.pads ∧ (lastTideEnds written s).integ = s.integ ∧ (lastTideEnds written s).tide = s.tide ∧ (lastTideEnds written s).tap = s.tap ∧ (lastTideEnds written s).pending = s.pending := by
  unfold lastTideEnds
  first
    | (simp [apply_ite State.clk, apply_ite State.pwr, apply_ite State.boot, apply_ite State.par, apply_ite State.sec, apply_ite State.bed, apply_ite State.dram, apply_ite State.pads, apply_ite State.integ, apply_ite State.tide, apply_ite State.tap, apply_ite State.pending]; done)
    | ((repeat' split) <;> (first | (simp [apply_ite State.clk, apply_ite State.pwr, apply_ite State.boot, apply_ite State.par, apply_ite State.sec, apply_ite State.bed, apply_ite State.dram, apply_ite State.pads, apply_ite State.integ, apply_ite State.tide, apply_ite State.tap, apply_ite State.pending]; done) | (simp_all [apply_ite State.clk, apply_ite State.pwr, apply_ite State.boot, apply_ite State.par, apply_ite State.sec, apply_ite State.bed, apply_ite State.dram, apply_ite State.pads, apply_ite State.integ, apply_ite State.tide, apply_ite State.tap, apply_ite State.pending]; done)))
    | (dsimp only; (repeat' apply And.intro) <;> (repeat' split) <;> (first | (simp [apply_ite State.clk, apply_ite State.pwr, apply_ite State.boot, apply_ite State.par, apply_ite State.sec, apply_ite State.bed, apply_ite State.dram, apply_ite State.pads, apply_ite State.integ, apply_ite State.tide, apply_ite State.tap, apply_ite State.pending]; done) | (simp_all [apply_ite State.clk, apply_ite State.pwr, apply_ite State.boot, apply_ite State.par, apply_ite State.sec, apply_ite State.bed, apply_ite State.dram, apply_ite State.pads, apply_ite State.integ, apply_ite State.tide, apply_ite State.tap, apply_ite State.pending]; done)))
@[simp] theorem frame_faultEngine (k : Engine) (n : Nat) (s : State) :
    (faultEngine k n s).clk = s.clk ∧ (faultEngine k n s).pwr = s.pwr ∧ (faultEngine k n s).boot = s.boot ∧ (faultEngine k n s).par = s.par ∧ (faultEngine k n s).bed = s.bed ∧ (faultEngine k n s).dram = s.dram ∧ (faultEngine k n s).pads = s.pads ∧ (faultEngine k n s).integ = s.integ ∧ (faultEngine k n s).tide = s.tide ∧ (faultEngine k n s).tap = s.tap ∧ (faultEngine k n s).pending = s.pending := by
  unfold faultEngine
  first
    | (simp [apply_ite State.clk, apply_ite State.pwr, apply_ite State.boot, apply_ite State.par, apply_ite State.bed, apply_ite State.dram, apply_ite State.pads, apply_ite State.integ, apply_ite State.tide, apply_ite State.tap, apply_ite State.pending]; done)
    | ((repeat' split) <;> (first | (simp [apply_ite State.clk, apply_ite State.pwr, apply_ite State.boot, apply_ite State.par, apply_ite State.bed, apply_ite State.dram, apply_ite State.pads, apply_ite State.integ, apply_ite State.tide, apply_ite State.tap, apply_ite State.pending]; done) | (simp_all [apply_ite State.clk, apply_ite State.pwr, apply_ite State.boot, apply_ite State.par, apply_ite State.bed, apply_ite State.dram, apply_ite State.pads, apply_ite State.integ, apply_ite State.tide, apply_ite State.tap, apply_ite State.pending]; done)))
    | (dsimp only; (repeat' apply And.intro) <;> (repeat' split) <;> (first | (simp [apply_ite State.clk, apply_ite State.pwr, apply_ite State.boot, apply_ite State.par, apply_ite State.bed, apply_ite State.dram, apply_ite State.pads, apply_ite State.integ, apply_ite State.tide, apply_ite State.tap, apply_ite State.pending]; done) | (simp_all [apply_ite State.clk, apply_ite State.pwr, apply_ite State.boot, apply_ite State.par, apply_ite State.bed, apply_ite State.dram, apply_ite State.pads, apply_ite State.integ, apply_ite State.tide, apply_ite State.tap, apply_ite State.pending]; done)))
@[simp] theorem frame_keyLane (n : Nat) (s : State) :
    (keyLane n s).clk = s.clk ∧ (keyLane n s).pwr = s.pwr ∧ (keyLane n s).boot = s.boot ∧ (keyLane n s).par = s.par ∧ (keyLane n s).bed = s.bed ∧ (keyLane n s).dram = s.dram ∧ (keyLane n s).pads = s.pads ∧ (keyLane n s).integ = s.integ ∧ (keyLane n s).tide = s.tide ∧ (keyLane n s).tap = s.tap ∧ (keyLane n s).pending = s.pending := by
  unfold keyLane
  first
    | (simp [apply_ite State.clk, apply_ite State.pwr, apply_ite State.boot, apply_ite State.par, apply_ite State.bed, apply_ite State.dram, apply_ite State.pads, apply_ite State.integ, apply_ite State.tide, apply_ite State.tap, apply_ite State.pending]; done)
    | ((repeat' split) <;> (first | (simp [apply_ite State.clk, apply_ite State.pwr, apply_ite State.boot, apply_ite State.par, apply_ite State.bed, apply_ite State.dram, apply_ite State.pads, apply_ite State.integ, apply_ite State.tide, apply_ite State.tap, apply_ite State.pending]; done) | (simp_all [apply_ite State.clk, apply_ite State.pwr, apply_ite State.boot, apply_ite State.par, apply_ite State.bed, apply_ite State.dram, apply_ite State.pads, apply_ite State.integ, apply_ite State.tide, apply_ite State.tap, apply_ite State.pending]; done)))
    | (dsimp only; (repeat' apply And.intro) <;> (repeat' split) <;> (first | (simp [apply_ite State.clk, apply_ite State.pwr, apply_ite State.boot, apply_ite State.par, apply_ite State.bed, apply_ite State.dram, apply_ite State.pads, apply_ite State.integ, apply_ite State.tide, apply_ite State.tap, apply_ite State.pending]; done) | (simp_all [apply_ite State.clk, apply_ite State.pwr, apply_ite State.boot, apply_ite State.par, apply_ite State.bed, apply_ite State.dram, apply_ite State.pads, apply_ite State.integ, apply_ite State.tide, apply_ite State.tap, apply_ite State.pending]; done)))
@[simp] theorem frame_gateBlock (b : HeldBlock) (s : State) :
    (gateBlock b s).clk = s.clk ∧ (gateBlock b s).pwr = s.pwr ∧ (gateBlock b s).boot = s.boot ∧ (gateBlock b s).par = s.par ∧ (gateBlock b s).bed = s.bed ∧ (gateBlock b s).dram = s.dram ∧ (gateBlock b s).pads = s.pads ∧ (gateBlock b s).integ = s.integ ∧ (gateBlock b s).tide = s.tide ∧ (gateBlock b s).tap = s.tap ∧ (gateBlock b s).pending = s.pending := by
  unfold gateBlock
  first
    | (simp [apply_ite State.clk, apply_ite State.pwr, apply_ite State.boot, apply_ite State.par, apply_ite State.bed, apply_ite State.dram, apply_ite State.pads, apply_ite State.integ, apply_ite State.tide, apply_ite State.tap, apply_ite State.pending]; done)
    | ((repeat' split) <;> (first | (simp [apply_ite State.clk, apply_ite State.pwr, apply_ite State.boot, apply_ite State.par, apply_ite State.bed, apply_ite State.dram, apply_ite State.pads, apply_ite State.integ, apply_ite State.tide, apply_ite State.tap, apply_ite State.pending]; done) | (simp_all [apply_ite State.clk, apply_ite State.pwr, apply_ite State.boot, apply_ite State.par, apply_ite State.bed, apply_ite State.dram, apply_ite State.pads, apply_ite State.integ, apply_ite State.tide, apply_ite State.tap, apply_ite State.pending]; done)))
    | (dsimp only; (repeat' apply And.intro) <;> (repeat' split) <;> (first | (simp [apply_ite State.clk, apply_ite State.pwr, apply_ite State.boot, apply_ite State.par, apply_ite State.bed, apply_ite State.dram, apply_ite State.pads, apply_ite State.integ, apply_ite State.tide, apply_ite State.tap, apply_ite State.pending]; done) | (simp_all [apply_ite State.clk, apply_ite State.pwr, apply_ite State.boot, apply_ite State.par, apply_ite State.bed, apply_ite State.dram, apply_ite State.pads, apply_ite State.integ, apply_ite State.tide, apply_ite State.tap, apply_ite State.pending]; done)))
@[simp] theorem frame_ungate (b : HeldBlock) (s : State) :
    (ungate b s).clk = s.clk ∧ (ungate b s).pwr = s.pwr ∧ (ungate b s).boot = s.boot ∧ (ungate b s).par = s.par ∧ (ungate b s).bed = s.bed ∧ (ungate b s).dram = s.dram ∧ (ungate b s).pads = s.pads ∧ (ungate b s).integ = s.integ ∧ (ungate b s).tide = s.tide ∧ (ungate b s).tap = s.tap ∧ (ungate b s).pending = s.pending := by
  unfold ungate
  first
    | (simp [apply_ite State.clk, apply_ite State.pwr, apply_ite State.boot, apply_ite State.par, apply_ite State.bed, apply_ite State.dram, apply_ite State.pads, apply_ite State.integ, apply_ite State.tide, apply_ite State.tap, apply_ite State.pending]; done)
    | ((repeat' split) <;> (first | (simp [apply_ite State.clk, apply_ite State.pwr, apply_ite State.boot, apply_ite State.par, apply_ite State.bed, apply_ite State.dram, apply_ite State.pads, apply_ite State.integ, apply_ite State.tide, apply_ite State.tap, apply_ite State.pending]; done) | (simp_all [apply_ite State.clk, apply_ite State.pwr, apply_ite State.boot, apply_ite State.par, apply_ite State.bed, apply_ite State.dram, apply_ite State.pads, apply_ite State.integ, apply_ite State.tide, apply_ite State.tap, apply_ite State.pending]; done)))
    | (dsimp only; (repeat' apply And.intro) <;> (repeat' split) <;> (first | (simp [apply_ite State.clk, apply_ite State.pwr, apply_ite State.boot, apply_ite State.par, apply_ite State.bed, apply_ite State.dram, apply_ite State.pads, apply_ite State.integ, apply_ite State.tide, apply_ite State.tap, apply_ite State.pending]; done) | (simp_all [apply_ite State.clk, apply_ite State.pwr, apply_ite State.boot, apply_ite State.par, apply_ite State.bed, apply_ite State.dram, apply_ite State.pads, apply_ite State.integ, apply_ite State.tide, apply_ite State.tap, apply_ite State.pending]; done)))
@[simp] theorem frame_ungateAll (s : State) :
    (ungateAll s).clk = s.clk ∧ (ungateAll s).pwr = s.pwr ∧ (ungateAll s).boot = s.boot ∧ (ungateAll s).par = s.par ∧ (ungateAll s).bed = s.bed ∧ (ungateAll s).dram = s.dram ∧ (ungateAll s).pads = s.pads ∧ (ungateAll s).integ = s.integ ∧ (ungateAll s).tide = s.tide ∧ (ungateAll s).tap = s.tap ∧ (ungateAll s).pending = s.pending := by
  unfold ungateAll
  first
    | (simp [apply_ite State.clk, apply_ite State.pwr, apply_ite State.boot, apply_ite State.par, apply_ite State.bed, apply_ite State.dram, apply_ite State.pads, apply_ite State.integ, apply_ite State.tide, apply_ite State.tap, apply_ite State.pending]; done)
    | ((repeat' split) <;> (first | (simp [apply_ite State.clk, apply_ite State.pwr, apply_ite State.boot, apply_ite State.par, apply_ite State.bed, apply_ite State.dram, apply_ite State.pads, apply_ite State.integ, apply_ite State.tide, apply_ite State.tap, apply_ite State.pending]; done) | (simp_all [apply_ite State.clk, apply_ite State.pwr, apply_ite State.boot, apply_ite State.par, apply_ite State.bed, apply_ite State.dram, apply_ite State.pads, apply_ite State.integ, apply_ite State.tide, apply_ite State.tap, apply_ite State.pending]; done)))
    | (dsimp only; (repeat' apply And.intro) <;> (repeat' split) <;> (first | (simp [apply_ite State.clk, apply_ite State.pwr, apply_ite State.boot, apply_ite State.par, apply_ite State.bed, apply_ite State.dram, apply_ite State.pads, apply_ite State.integ, apply_ite State.tide, apply_ite State.tap, apply_ite State.pending]; done) | (simp_all [apply_ite State.clk, apply_ite State.pwr, apply_ite State.boot, apply_ite State.par, apply_ite State.bed, apply_ite State.dram, apply_ite State.pads, apply_ite State.integ, apply_ite State.tide, apply_ite State.tap, apply_ite State.pending]; done)))
@[simp] theorem frame_keyLanes (s : State) :
    (keyLanes s).clk = s.clk ∧ (keyLanes s).pwr = s.pwr ∧ (keyLanes s).boot = s.boot ∧ (keyLanes s).par = s.par ∧ (keyLanes s).bed = s.bed ∧ (keyLanes s).dram = s.dram ∧ (keyLanes s).pads = s.pads ∧ (keyLanes s).integ = s.integ ∧ (keyLanes s).tide = s.tide ∧ (keyLanes s).tap = s.tap ∧ (keyLanes s).pending = s.pending := by
  unfold keyLanes
  first
    | (simp [apply_ite State.clk, apply_ite State.pwr, apply_ite State.boot, apply_ite State.par, apply_ite State.bed, apply_ite State.dram, apply_ite State.pads, apply_ite State.integ, apply_ite State.tide, apply_ite State.tap, apply_ite State.pending]; done)
    | ((repeat' split) <;> (first | (simp [apply_ite State.clk, apply_ite State.pwr, apply_ite State.boot, apply_ite State.par, apply_ite State.bed, apply_ite State.dram, apply_ite State.pads, apply_ite State.integ, apply_ite State.tide, apply_ite State.tap, apply_ite State.pending]; done) | (simp_all [apply_ite State.clk, apply_ite State.pwr, apply_ite State.boot, apply_ite State.par, apply_ite State.bed, apply_ite State.dram, apply_ite State.pads, apply_ite State.integ, apply_ite State.tide, apply_ite State.tap, apply_ite State.pending]; done)))
    | (dsimp only; (repeat' apply And.intro) <;> (repeat' split) <;> (first | (simp [apply_ite State.clk, apply_ite State.pwr, apply_ite State.boot, apply_ite State.par, apply_ite State.bed, apply_ite State.dram, apply_ite State.pads, apply_ite State.integ, apply_ite State.tide, apply_ite State.tap, apply_ite State.pending]; done) | (simp_all [apply_ite State.clk, apply_ite State.pwr, apply_ite State.boot, apply_ite State.par, apply_ite State.bed, apply_ite State.dram, apply_ite State.pads, apply_ite State.integ, apply_ite State.tide, apply_ite State.tap, apply_ite State.pending]; done)))
@[simp] theorem frame_returnEngines (code : Nat) (bad : Nat → Bool) (l : Tab EngineSt) (s : State) :
    (returnEngines code bad l s).2.clk = s.clk ∧ (returnEngines code bad l s).2.pwr = s.pwr ∧ (returnEngines code bad l s).2.boot = s.boot ∧ (returnEngines code bad l s).2.par = s.par ∧ (returnEngines code bad l s).2.sec = s.sec ∧ (returnEngines code bad l s).2.bed = s.bed ∧ (returnEngines code bad l s).2.dram = s.dram ∧ (returnEngines code bad l s).2.pads = s.pads ∧ (returnEngines code bad l s).2.integ = s.integ ∧ (returnEngines code bad l s).2.tide = s.tide ∧ (returnEngines code bad l s).2.tap = s.tap ∧ (returnEngines code bad l s).2.pending = s.pending := by
  unfold returnEngines
  first
    | (simp [apply_ite State.clk, apply_ite State.pwr, apply_ite State.boot, apply_ite State.par, apply_ite State.sec, apply_ite State.bed, apply_ite State.dram, apply_ite State.pads, apply_ite State.integ, apply_ite State.tide, apply_ite State.tap, apply_ite State.pending]; done)
    | ((repeat' split) <;> (first | (simp [apply_ite State.clk, apply_ite State.pwr, apply_ite State.boot, apply_ite State.par, apply_ite State.sec, apply_ite State.bed, apply_ite State.dram, apply_ite State.pads, apply_ite State.integ, apply_ite State.tide, apply_ite State.tap, apply_ite State.pending]; done) | (simp_all [apply_ite State.clk, apply_ite State.pwr, apply_ite State.boot, apply_ite State.par, apply_ite State.sec, apply_ite State.bed, apply_ite State.dram, apply_ite State.pads, apply_ite State.integ, apply_ite State.tide, apply_ite State.tap, apply_ite State.pending]; done)))
    | (dsimp only; (repeat' apply And.intro) <;> (repeat' split) <;> (first | (simp [apply_ite State.clk, apply_ite State.pwr, apply_ite State.boot, apply_ite State.par, apply_ite State.sec, apply_ite State.bed, apply_ite State.dram, apply_ite State.pads, apply_ite State.integ, apply_ite State.tide, apply_ite State.tap, apply_ite State.pending]; done) | (simp_all [apply_ite State.clk, apply_ite State.pwr, apply_ite State.boot, apply_ite State.par, apply_ite State.sec, apply_ite State.bed, apply_ite State.dram, apply_ite State.pads, apply_ite State.integ, apply_ite State.tide, apply_ite State.tap, apply_ite State.pending]; done)))
@[simp] theorem frame_engineTests (f : StartFacts) (s : State) :
    (engineTests f s).clk = s.clk ∧ (engineTests f s).pwr = s.pwr ∧ (engineTests f s).boot = s.boot ∧ (engineTests f s).par = s.par ∧ (engineTests f s).bed = s.bed ∧ (engineTests f s).dram = s.dram ∧ (engineTests f s).pads = s.pads ∧ (engineTests f s).integ = s.integ ∧ (engineTests f s).tide = s.tide ∧ (engineTests f s).tap = s.tap ∧ (engineTests f s).pending = s.pending := by
  unfold engineTests
  first
    | (simp [apply_ite State.clk, apply_ite State.pwr, apply_ite State.boot, apply_ite State.par, apply_ite State.bed, apply_ite State.dram, apply_ite State.pads, apply_ite State.integ, apply_ite State.tide, apply_ite State.tap, apply_ite State.pending]; done)
    | ((repeat' split) <;> (first | (simp [apply_ite State.clk, apply_ite State.pwr, apply_ite State.boot, apply_ite State.par, apply_ite State.bed, apply_ite State.dram, apply_ite State.pads, apply_ite State.integ, apply_ite State.tide, apply_ite State.tap, apply_ite State.pending]; done) | (simp_all [apply_ite State.clk, apply_ite State.pwr, apply_ite State.boot, apply_ite State.par, apply_ite State.bed, apply_ite State.dram, apply_ite State.pads, apply_ite State.integ, apply_ite State.tide, apply_ite State.tap, apply_ite State.pending]; done)))
    | (dsimp only; (repeat' apply And.intro) <;> (repeat' split) <;> (first | (simp [apply_ite State.clk, apply_ite State.pwr, apply_ite State.boot, apply_ite State.par, apply_ite State.bed, apply_ite State.dram, apply_ite State.pads, apply_ite State.integ, apply_ite State.tide, apply_ite State.tap, apply_ite State.pending]; done) | (simp_all [apply_ite State.clk, apply_ite State.pwr, apply_ite State.boot, apply_ite State.par, apply_ite State.bed, apply_ite State.dram, apply_ite State.pads, apply_ite State.integ, apply_ite State.tide, apply_ite State.tap, apply_ite State.pending]; done)))
@[simp] theorem frame_repairBanks (f : StartFacts) (s : State) :
    (repairBanks f s).clk = s.clk ∧ (repairBanks f s).dram = s.dram ∧ (repairBanks f s).integ = s.integ ∧ (repairBanks f s).tap = s.tap ∧ (repairBanks f s).pending = s.pending := by
  unfold repairBanks
  first
    | (simp [apply_ite State.clk, apply_ite State.dram, apply_ite State.integ, apply_ite State.tap, apply_ite State.pending]; done)
    | ((repeat' split) <;> (first | (simp [apply_ite State.clk, apply_ite State.dram, apply_ite State.integ, apply_ite State.tap, apply_ite State.pending]; done) | (simp_all [apply_ite State.clk, apply_ite State.dram, apply_ite State.integ, apply_ite State.tap, apply_ite State.pending]; done)))
    | (dsimp only; (repeat' apply And.intro) <;> (repeat' split) <;> (first | (simp [apply_ite State.clk, apply_ite State.dram, apply_ite State.integ, apply_ite State.tap, apply_ite State.pending]; done) | (simp_all [apply_ite State.clk, apply_ite State.dram, apply_ite State.integ, apply_ite State.tap, apply_ite State.pending]; done)))
@[simp] theorem frame_coreReset (por rst : Bool) (s : State) :
    (coreReset por rst s).clk = s.clk ∧ (coreReset por rst s).sec = s.sec ∧ (coreReset por rst s).bed = s.bed ∧ (coreReset por rst s).dram = s.dram ∧ (coreReset por rst s).pads = s.pads ∧ (coreReset por rst s).integ = s.integ ∧ (coreReset por rst s).tap = s.tap ∧ (coreReset por rst s).pending = s.pending := by
  unfold coreReset
  first
    | (simp [apply_ite State.clk, apply_ite State.sec, apply_ite State.bed, apply_ite State.dram, apply_ite State.pads, apply_ite State.integ, apply_ite State.tap, apply_ite State.pending]; done)
    | ((repeat' split) <;> (first | (simp [apply_ite State.clk, apply_ite State.sec, apply_ite State.bed, apply_ite State.dram, apply_ite State.pads, apply_ite State.integ, apply_ite State.tap, apply_ite State.pending]; done) | (simp_all [apply_ite State.clk, apply_ite State.sec, apply_ite State.bed, apply_ite State.dram, apply_ite State.pads, apply_ite State.integ, apply_ite State.tap, apply_ite State.pending]; done)))
    | (dsimp only; (repeat' apply And.intro) <;> (repeat' split) <;> (first | (simp [apply_ite State.clk, apply_ite State.sec, apply_ite State.bed, apply_ite State.dram, apply_ite State.pads, apply_ite State.integ, apply_ite State.tap, apply_ite State.pending]; done) | (simp_all [apply_ite State.clk, apply_ite State.sec, apply_ite State.bed, apply_ite State.dram, apply_ite State.pads, apply_ite State.integ, apply_ite State.tap, apply_ite State.pending]; done)))
@[simp] theorem frame_romStart (por : Bool) (f : StartFacts) (s : State) :
    (romStart por f s).clk = s.clk ∧ (romStart por f s).pwr = s.pwr ∧ (romStart por f s).par = s.par ∧ (romStart por f s).bed = s.bed ∧ (romStart por f s).dram = s.dram ∧ (romStart por f s).pads = s.pads ∧ (romStart por f s).integ = s.integ ∧ (romStart por f s).tide = s.tide ∧ (romStart por f s).tap = s.tap ∧ (romStart por f s).pending = s.pending := by
  unfold romStart
  first
    | (simp [apply_ite State.clk, apply_ite State.pwr, apply_ite State.par, apply_ite State.bed, apply_ite State.dram, apply_ite State.pads, apply_ite State.integ, apply_ite State.tide, apply_ite State.tap, apply_ite State.pending]; done)
    | ((repeat' split) <;> (first | (simp [apply_ite State.clk, apply_ite State.pwr, apply_ite State.par, apply_ite State.bed, apply_ite State.dram, apply_ite State.pads, apply_ite State.integ, apply_ite State.tide, apply_ite State.tap, apply_ite State.pending]; done) | (simp_all [apply_ite State.clk, apply_ite State.pwr, apply_ite State.par, apply_ite State.bed, apply_ite State.dram, apply_ite State.pads, apply_ite State.integ, apply_ite State.tide, apply_ite State.tap, apply_ite State.pending]; done)))
    | (dsimp only; (repeat' apply And.intro) <;> (repeat' split) <;> (first | (simp [apply_ite State.clk, apply_ite State.pwr, apply_ite State.par, apply_ite State.bed, apply_ite State.dram, apply_ite State.pads, apply_ite State.integ, apply_ite State.tide, apply_ite State.tap, apply_ite State.pending]; done) | (simp_all [apply_ite State.clk, apply_ite State.pwr, apply_ite State.par, apply_ite State.bed, apply_ite State.dram, apply_ite State.pads, apply_ite State.integ, apply_ite State.tide, apply_ite State.tap, apply_ite State.pending]; done)))
@[simp] theorem frame_romDone (s : State) :
    (romDone s).clk = s.clk ∧ (romDone s).pwr = s.pwr ∧ (romDone s).par = s.par ∧ (romDone s).bed = s.bed ∧ (romDone s).dram = s.dram ∧ (romDone s).pads = s.pads ∧ (romDone s).integ = s.integ ∧ (romDone s).tide = s.tide ∧ (romDone s).tap = s.tap ∧ (romDone s).pending = s.pending := by
  unfold romDone
  first
    | (simp [apply_ite State.clk, apply_ite State.pwr, apply_ite State.par, apply_ite State.bed, apply_ite State.dram, apply_ite State.pads, apply_ite State.integ, apply_ite State.tide, apply_ite State.tap, apply_ite State.pending]; done)
    | ((repeat' split) <;> (first | (simp [apply_ite State.clk, apply_ite State.pwr, apply_ite State.par, apply_ite State.bed, apply_ite State.dram, apply_ite State.pads, apply_ite State.integ, apply_ite State.tide, apply_ite State.tap, apply_ite State.pending]; done) | (simp_all [apply_ite State.clk, apply_ite State.pwr, apply_ite State.par, apply_ite State.bed, apply_ite State.dram, apply_ite State.pads, apply_ite State.integ, apply_ite State.tide, apply_ite State.tap, apply_ite State.pending]; done)))
    | (dsimp only; (repeat' apply And.intro) <;> (repeat' split) <;> (first | (simp [apply_ite State.clk, apply_ite State.pwr, apply_ite State.par, apply_ite State.bed, apply_ite State.dram, apply_ite State.pads, apply_ite State.integ, apply_ite State.tide, apply_ite State.tap, apply_ite State.pending]; done) | (simp_all [apply_ite State.clk, apply_ite State.pwr, apply_ite State.par, apply_ite State.bed, apply_ite State.dram, apply_ite State.pads, apply_ite State.integ, apply_ite State.tide, apply_ite State.tap, apply_ite State.pending]; done)))
@[simp] theorem frame_bootImage (por : Bool) (f : StartFacts) (s : State) :
    (bootImage por f s).clk = s.clk ∧ (bootImage por f s).dram = s.dram ∧ (bootImage por f s).integ = s.integ ∧ (bootImage por f s).tap = s.tap ∧ (bootImage por f s).pending = s.pending := by
  unfold bootImage
  first
    | (simp [apply_ite State.clk, apply_ite State.dram, apply_ite State.integ, apply_ite State.tap, apply_ite State.pending]; done)
    | ((repeat' split) <;> (first | (simp [apply_ite State.clk, apply_ite State.dram, apply_ite State.integ, apply_ite State.tap, apply_ite State.pending]; done) | (simp_all [apply_ite State.clk, apply_ite State.dram, apply_ite State.integ, apply_ite State.tap, apply_ite State.pending]; done)))
    | (dsimp only; (repeat' apply And.intro) <;> (repeat' split) <;> (first | (simp [apply_ite State.clk, apply_ite State.dram, apply_ite State.integ, apply_ite State.tap, apply_ite State.pending]; done) | (simp_all [apply_ite State.clk, apply_ite State.dram, apply_ite State.integ, apply_ite State.tap, apply_ite State.pending]; done)))
@[simp] theorem frame_trainPorts (s : State) :
    (trainPorts s).clk = s.clk ∧ (trainPorts s).pwr = s.pwr ∧ (trainPorts s).boot = s.boot ∧ (trainPorts s).par = s.par ∧ (trainPorts s).sec = s.sec ∧ (trainPorts s).bed = s.bed ∧ (trainPorts s).dram = s.dram ∧ (trainPorts s).pads = s.pads ∧ (trainPorts s).integ = s.integ ∧ (trainPorts s).tide = s.tide ∧ (trainPorts s).tap = s.tap ∧ (trainPorts s).pending = s.pending := by
  unfold trainPorts
  first
    | (simp [apply_ite State.clk, apply_ite State.pwr, apply_ite State.boot, apply_ite State.par, apply_ite State.sec, apply_ite State.bed, apply_ite State.dram, apply_ite State.pads, apply_ite State.integ, apply_ite State.tide, apply_ite State.tap, apply_ite State.pending]; done)
    | ((repeat' split) <;> (first | (simp [apply_ite State.clk, apply_ite State.pwr, apply_ite State.boot, apply_ite State.par, apply_ite State.sec, apply_ite State.bed, apply_ite State.dram, apply_ite State.pads, apply_ite State.integ, apply_ite State.tide, apply_ite State.tap, apply_ite State.pending]; done) | (simp_all [apply_ite State.clk, apply_ite State.pwr, apply_ite State.boot, apply_ite State.par, apply_ite State.sec, apply_ite State.bed, apply_ite State.dram, apply_ite State.pads, apply_ite State.integ, apply_ite State.tide, apply_ite State.tap, apply_ite State.pending]; done)))
    | (dsimp only; (repeat' apply And.intro) <;> (repeat' split) <;> (first | (simp [apply_ite State.clk, apply_ite State.pwr, apply_ite State.boot, apply_ite State.par, apply_ite State.sec, apply_ite State.bed, apply_ite State.dram, apply_ite State.pads, apply_ite State.integ, apply_ite State.tide, apply_ite State.tap, apply_ite State.pending]; done) | (simp_all [apply_ite State.clk, apply_ite State.pwr, apply_ite State.boot, apply_ite State.par, apply_ite State.sec, apply_ite State.bed, apply_ite State.dram, apply_ite State.pads, apply_ite State.integ, apply_ite State.tide, apply_ite State.tap, apply_ite State.pending]; done)))
@[simp] theorem frame_startCore (por rst : Bool) (f : StartFacts) (s : State) :
    (startCore por rst f s).clk = s.clk ∧ (startCore por rst f s).dram = s.dram ∧ (startCore por rst f s).integ = s.integ ∧ (startCore por rst f s).tap = s.tap ∧ (startCore por rst f s).pending = s.pending := by
  unfold startCore
  first
    | (simp [apply_ite State.clk, apply_ite State.dram, apply_ite State.integ, apply_ite State.tap, apply_ite State.pending]; done)
    | ((repeat' split) <;> (first | (simp [apply_ite State.clk, apply_ite State.dram, apply_ite State.integ, apply_ite State.tap, apply_ite State.pending]; done) | (simp_all [apply_ite State.clk, apply_ite State.dram, apply_ite State.integ, apply_ite State.tap, apply_ite State.pending]; done)))
    | (dsimp only; (repeat' apply And.intro) <;> (repeat' split) <;> (first | (simp [apply_ite State.clk, apply_ite State.dram, apply_ite State.integ, apply_ite State.tap, apply_ite State.pending]; done) | (simp_all [apply_ite State.clk, apply_ite State.dram, apply_ite State.integ, apply_ite State.tap, apply_ite State.pending]; done)))
@[simp] theorem frame_bringUp (s : State) :
    (bringUp s).clk = s.clk ∧ (bringUp s).pwr = s.pwr ∧ (bringUp s).par = s.par ∧ (bringUp s).sec = s.sec ∧ (bringUp s).bed = s.bed ∧ (bringUp s).pads = s.pads ∧ (bringUp s).integ = s.integ ∧ (bringUp s).tide = s.tide ∧ (bringUp s).tap = s.tap ∧ (bringUp s).pending = s.pending := by
  unfold bringUp
  first
    | (simp [apply_ite State.clk, apply_ite State.pwr, apply_ite State.par, apply_ite State.sec, apply_ite State.bed, apply_ite State.pads, apply_ite State.integ, apply_ite State.tide, apply_ite State.tap, apply_ite State.pending]; done)
    | ((repeat' split) <;> (first | (simp [apply_ite State.clk, apply_ite State.pwr, apply_ite State.par, apply_ite State.sec, apply_ite State.bed, apply_ite State.pads, apply_ite State.integ, apply_ite State.tide, apply_ite State.tap, apply_ite State.pending]; done) | (simp_all [apply_ite State.clk, apply_ite State.pwr, apply_ite State.par, apply_ite State.sec, apply_ite State.bed, apply_ite State.pads, apply_ite State.integ, apply_ite State.tide, apply_ite State.tap, apply_ite State.pending]; done)))
    | (dsimp only; (repeat' apply And.intro) <;> (repeat' split) <;> (first | (simp [apply_ite State.clk, apply_ite State.pwr, apply_ite State.par, apply_ite State.sec, apply_ite State.bed, apply_ite State.pads, apply_ite State.integ, apply_ite State.tide, apply_ite State.tap, apply_ite State.pending]; done) | (simp_all [apply_ite State.clk, apply_ite State.pwr, apply_ite State.par, apply_ite State.sec, apply_ite State.bed, apply_ite State.pads, apply_ite State.integ, apply_ite State.tide, apply_ite State.tap, apply_ite State.pending]; done)))
@[simp] theorem frame_advanceSvn (s : State) :
    (advanceSvn s).clk = s.clk ∧ (advanceSvn s).pwr = s.pwr ∧ (advanceSvn s).par = s.par ∧ (advanceSvn s).dram = s.dram ∧ (advanceSvn s).pads = s.pads ∧ (advanceSvn s).integ = s.integ ∧ (advanceSvn s).tide = s.tide ∧ (advanceSvn s).tap = s.tap ∧ (advanceSvn s).pending = s.pending := by
  unfold advanceSvn
  first
    | (simp [apply_ite State.clk, apply_ite State.pwr, apply_ite State.par, apply_ite State.dram, apply_ite State.pads, apply_ite State.integ, apply_ite State.tide, apply_ite State.tap, apply_ite State.pending]; done)
    | ((repeat' split) <;> (first | (simp [apply_ite State.clk, apply_ite State.pwr, apply_ite State.par, apply_ite State.dram, apply_ite State.pads, apply_ite State.integ, apply_ite State.tide, apply_ite State.tap, apply_ite State.pending]; done) | (simp_all [apply_ite State.clk, apply_ite State.pwr, apply_ite State.par, apply_ite State.dram, apply_ite State.pads, apply_ite State.integ, apply_ite State.tide, apply_ite State.tap, apply_ite State.pending]; done)))
    | (dsimp only; (repeat' apply And.intro) <;> (repeat' split) <;> (first | (simp [apply_ite State.clk, apply_ite State.pwr, apply_ite State.par, apply_ite State.dram, apply_ite State.pads, apply_ite State.integ, apply_ite State.tide, apply_ite State.tap, apply_ite State.pending]; done) | (simp_all [apply_ite State.clk, apply_ite State.pwr, apply_ite State.par, apply_ite State.dram, apply_ite State.pads, apply_ite State.integ, apply_ite State.tide, apply_ite State.tap, apply_ite State.pending]; done)))
@[simp] theorem frame_takeLeases (s : State) :
    (takeLeases s).clk = s.clk ∧ (takeLeases s).pwr = s.pwr ∧ (takeLeases s).boot = s.boot ∧ (takeLeases s).par = s.par ∧ (takeLeases s).bed = s.bed ∧ (takeLeases s).dram = s.dram ∧ (takeLeases s).pads = s.pads ∧ (takeLeases s).integ = s.integ ∧ (takeLeases s).tide = s.tide ∧ (takeLeases s).tap = s.tap ∧ (takeLeases s).pending = s.pending := by
  unfold takeLeases
  first
    | (simp [apply_ite State.clk, apply_ite State.pwr, apply_ite State.boot, apply_ite State.par, apply_ite State.bed, apply_ite State.dram, apply_ite State.pads, apply_ite State.integ, apply_ite State.tide, apply_ite State.tap, apply_ite State.pending]; done)
    | ((repeat' split) <;> (first | (simp [apply_ite State.clk, apply_ite State.pwr, apply_ite State.boot, apply_ite State.par, apply_ite State.bed, apply_ite State.dram, apply_ite State.pads, apply_ite State.integ, apply_ite State.tide, apply_ite State.tap, apply_ite State.pending]; done) | (simp_all [apply_ite State.clk, apply_ite State.pwr, apply_ite State.boot, apply_ite State.par, apply_ite State.bed, apply_ite State.dram, apply_ite State.pads, apply_ite State.integ, apply_ite State.tide, apply_ite State.tap, apply_ite State.pending]; done)))
    | (dsimp only; (repeat' apply And.intro) <;> (repeat' split) <;> (first | (simp [apply_ite State.clk, apply_ite State.pwr, apply_ite State.boot, apply_ite State.par, apply_ite State.bed, apply_ite State.dram, apply_ite State.pads, apply_ite State.integ, apply_ite State.tide, apply_ite State.tap, apply_ite State.pending]; done) | (simp_all [apply_ite State.clk, apply_ite State.pwr, apply_ite State.boot, apply_ite State.par, apply_ite State.bed, apply_ite State.dram, apply_ite State.pads, apply_ite State.integ, apply_ite State.tide, apply_ite State.tap, apply_ite State.pending]; done)))
@[simp] theorem frame_measureStart (s : State) :
    (measureStart s).clk = s.clk ∧ (measureStart s).pwr = s.pwr ∧ (measureStart s).boot = s.boot ∧ (measureStart s).par = s.par ∧ (measureStart s).bed = s.bed ∧ (measureStart s).dram = s.dram ∧ (measureStart s).pads = s.pads ∧ (measureStart s).integ = s.integ ∧ (measureStart s).tide = s.tide ∧ (measureStart s).tap = s.tap ∧ (measureStart s).pending = s.pending := by
  unfold measureStart
  first
    | (simp [apply_ite State.clk, apply_ite State.pwr, apply_ite State.boot, apply_ite State.par, apply_ite State.bed, apply_ite State.dram, apply_ite State.pads, apply_ite State.integ, apply_ite State.tide, apply_ite State.tap, apply_ite State.pending]; done)
    | ((repeat' split) <;> (first | (simp [apply_ite State.clk, apply_ite State.pwr, apply_ite State.boot, apply_ite State.par, apply_ite State.bed, apply_ite State.dram, apply_ite State.pads, apply_ite State.integ, apply_ite State.tide, apply_ite State.tap, apply_ite State.pending]; done) | (simp_all [apply_ite State.clk, apply_ite State.pwr, apply_ite State.boot, apply_ite State.par, apply_ite State.bed, apply_ite State.dram, apply_ite State.pads, apply_ite State.integ, apply_ite State.tide, apply_ite State.tap, apply_ite State.pending]; done)))
    | (dsimp only; (repeat' apply And.intro) <;> (repeat' split) <;> (first | (simp [apply_ite State.clk, apply_ite State.pwr, apply_ite State.boot, apply_ite State.par, apply_ite State.bed, apply_ite State.dram, apply_ite State.pads, apply_ite State.integ, apply_ite State.tide, apply_ite State.tap, apply_ite State.pending]; done) | (simp_all [apply_ite State.clk, apply_ite State.pwr, apply_ite State.boot, apply_ite State.par, apply_ite State.bed, apply_ite State.dram, apply_ite State.pads, apply_ite State.integ, apply_ite State.tide, apply_ite State.tap, apply_ite State.pending]; done)))
@[simp] theorem frame_startEngines (s : State) :
    (startEngines s).clk = s.clk ∧ (startEngines s).pwr = s.pwr ∧ (startEngines s).boot = s.boot ∧ (startEngines s).par = s.par ∧ (startEngines s).sec = s.sec ∧ (startEngines s).bed = s.bed ∧ (startEngines s).dram = s.dram ∧ (startEngines s).pads = s.pads ∧ (startEngines s).integ = s.integ ∧ (startEngines s).tide = s.tide ∧ (startEngines s).tap = s.tap ∧ (startEngines s).pending = s.pending := by
  unfold startEngines
  first
    | (simp [apply_ite State.clk, apply_ite State.pwr, apply_ite State.boot, apply_ite State.par, apply_ite State.sec, apply_ite State.bed, apply_ite State.dram, apply_ite State.pads, apply_ite State.integ, apply_ite State.tide, apply_ite State.tap, apply_ite State.pending]; done)
    | ((repeat' split) <;> (first | (simp [apply_ite State.clk, apply_ite State.pwr, apply_ite State.boot, apply_ite State.par, apply_ite State.sec, apply_ite State.bed, apply_ite State.dram, apply_ite State.pads, apply_ite State.integ, apply_ite State.tide, apply_ite State.tap, apply_ite State.pending]; done) | (simp_all [apply_ite State.clk, apply_ite State.pwr, apply_ite State.boot, apply_ite State.par, apply_ite State.sec, apply_ite State.bed, apply_ite State.dram, apply_ite State.pads, apply_ite State.integ, apply_ite State.tide, apply_ite State.tap, apply_ite State.pending]; done)))
    | (dsimp only; (repeat' apply And.intro) <;> (repeat' split) <;> (first | (simp [apply_ite State.clk, apply_ite State.pwr, apply_ite State.boot, apply_ite State.par, apply_ite State.sec, apply_ite State.bed, apply_ite State.dram, apply_ite State.pads, apply_ite State.integ, apply_ite State.tide, apply_ite State.tap, apply_ite State.pending]; done) | (simp_all [apply_ite State.clk, apply_ite State.pwr, apply_ite State.boot, apply_ite State.par, apply_ite State.sec, apply_ite State.bed, apply_ite State.dram, apply_ite State.pads, apply_ite State.integ, apply_ite State.tide, apply_ite State.tap, apply_ite State.pending]; done)))
@[simp] theorem frame_startSag (m : Option Mbx) (s : State) :
    (startSag m s).clk = s.clk ∧ (startSag m s).boot = s.boot ∧ (startSag m s).par = s.par ∧ (startSag m s).sec = s.sec ∧ (startSag m s).bed = s.bed ∧ (startSag m s).dram = s.dram ∧ (startSag m s).pads = s.pads ∧ (startSag m s).integ = s.integ ∧ (startSag m s).tide = s.tide ∧ (startSag m s).tap = s.tap ∧ (startSag m s).pending = s.pending := by
  unfold startSag
  first
    | (simp [apply_ite State.clk, apply_ite State.boot, apply_ite State.par, apply_ite State.sec, apply_ite State.bed, apply_ite State.dram, apply_ite State.pads, apply_ite State.integ, apply_ite State.tide, apply_ite State.tap, apply_ite State.pending]; done)
    | ((repeat' split) <;> (first | (simp [apply_ite State.clk, apply_ite State.boot, apply_ite State.par, apply_ite State.sec, apply_ite State.bed, apply_ite State.dram, apply_ite State.pads, apply_ite State.integ, apply_ite State.tide, apply_ite State.tap, apply_ite State.pending]; done) | (simp_all [apply_ite State.clk, apply_ite State.boot, apply_ite State.par, apply_ite State.sec, apply_ite State.bed, apply_ite State.dram, apply_ite State.pads, apply_ite State.integ, apply_ite State.tide, apply_ite State.tap, apply_ite State.pending]; done)))
    | (dsimp only; (repeat' apply And.intro) <;> (repeat' split) <;> (first | (simp [apply_ite State.clk, apply_ite State.boot, apply_ite State.par, apply_ite State.sec, apply_ite State.bed, apply_ite State.dram, apply_ite State.pads, apply_ite State.integ, apply_ite State.tide, apply_ite State.tap, apply_ite State.pending]; done) | (simp_all [apply_ite State.clk, apply_ite State.boot, apply_ite State.par, apply_ite State.sec, apply_ite State.bed, apply_ite State.dram, apply_ite State.pads, apply_ite State.integ, apply_ite State.tide, apply_ite State.tap, apply_ite State.pending]; done)))
@[simp] theorem frame_firstSag (s : State) :
    (firstSag s).clk = s.clk ∧ (firstSag s).boot = s.boot ∧ (firstSag s).par = s.par ∧ (firstSag s).sec = s.sec ∧ (firstSag s).bed = s.bed ∧ (firstSag s).dram = s.dram ∧ (firstSag s).pads = s.pads ∧ (firstSag s).integ = s.integ ∧ (firstSag s).tide = s.tide ∧ (firstSag s).tap = s.tap ∧ (firstSag s).pending = s.pending := by
  unfold firstSag
  first
    | (simp [apply_ite State.clk, apply_ite State.boot, apply_ite State.par, apply_ite State.sec, apply_ite State.bed, apply_ite State.dram, apply_ite State.pads, apply_ite State.integ, apply_ite State.tide, apply_ite State.tap, apply_ite State.pending]; done)
    | ((repeat' split) <;> (first | (simp [apply_ite State.clk, apply_ite State.boot, apply_ite State.par, apply_ite State.sec, apply_ite State.bed, apply_ite State.dram, apply_ite State.pads, apply_ite State.integ, apply_ite State.tide, apply_ite State.tap, apply_ite State.pending]; done) | (simp_all [apply_ite State.clk, apply_ite State.boot, apply_ite State.par, apply_ite State.sec, apply_ite State.bed, apply_ite State.dram, apply_ite State.pads, apply_ite State.integ, apply_ite State.tide, apply_ite State.tap, apply_ite State.pending]; done)))
    | (dsimp only; (repeat' apply And.intro) <;> (repeat' split) <;> (first | (simp [apply_ite State.clk, apply_ite State.boot, apply_ite State.par, apply_ite State.sec, apply_ite State.bed, apply_ite State.dram, apply_ite State.pads, apply_ite State.integ, apply_ite State.tide, apply_ite State.tap, apply_ite State.pending]; done) | (simp_all [apply_ite State.clk, apply_ite State.boot, apply_ite State.par, apply_ite State.sec, apply_ite State.bed, apply_ite State.dram, apply_ite State.pads, apply_ite State.integ, apply_ite State.tide, apply_ite State.tap, apply_ite State.pending]; done)))
@[simp] theorem frame_restoreSeawall (s : State) :
    (restoreSeawall s).clk = s.clk ∧ (restoreSeawall s).pwr = s.pwr ∧ (restoreSeawall s).boot = s.boot ∧ (restoreSeawall s).par = s.par ∧ (restoreSeawall s).sec = s.sec ∧ (restoreSeawall s).bed = s.bed ∧ (restoreSeawall s).dram = s.dram ∧ (restoreSeawall s).pads = s.pads ∧ (restoreSeawall s).integ = s.integ ∧ (restoreSeawall s).tide = s.tide ∧ (restoreSeawall s).tap = s.tap ∧ (restoreSeawall s).pending = s.pending := by
  unfold restoreSeawall
  first
    | (simp [apply_ite State.clk, apply_ite State.pwr, apply_ite State.boot, apply_ite State.par, apply_ite State.sec, apply_ite State.bed, apply_ite State.dram, apply_ite State.pads, apply_ite State.integ, apply_ite State.tide, apply_ite State.tap, apply_ite State.pending]; done)
    | ((repeat' split) <;> (first | (simp [apply_ite State.clk, apply_ite State.pwr, apply_ite State.boot, apply_ite State.par, apply_ite State.sec, apply_ite State.bed, apply_ite State.dram, apply_ite State.pads, apply_ite State.integ, apply_ite State.tide, apply_ite State.tap, apply_ite State.pending]; done) | (simp_all [apply_ite State.clk, apply_ite State.pwr, apply_ite State.boot, apply_ite State.par, apply_ite State.sec, apply_ite State.bed, apply_ite State.dram, apply_ite State.pads, apply_ite State.integ, apply_ite State.tide, apply_ite State.tap, apply_ite State.pending]; done)))
    | (dsimp only; (repeat' apply And.intro) <;> (repeat' split) <;> (first | (simp [apply_ite State.clk, apply_ite State.pwr, apply_ite State.boot, apply_ite State.par, apply_ite State.sec, apply_ite State.bed, apply_ite State.dram, apply_ite State.pads, apply_ite State.integ, apply_ite State.tide, apply_ite State.tap, apply_ite State.pending]; done) | (simp_all [apply_ite State.clk, apply_ite State.pwr, apply_ite State.boot, apply_ite State.par, apply_ite State.sec, apply_ite State.bed, apply_ite State.dram, apply_ite State.pads, apply_ite State.integ, apply_ite State.tide, apply_ite State.tap, apply_ite State.pending]; done)))
@[simp] theorem frame_replayGen (s : State) :
    (replayGen s).clk = s.clk ∧ (replayGen s).pwr = s.pwr ∧ (replayGen s).boot = s.boot ∧ (replayGen s).par = s.par ∧ (replayGen s).sec = s.sec ∧ (replayGen s).bed = s.bed ∧ (replayGen s).dram = s.dram ∧ (replayGen s).pads = s.pads ∧ (replayGen s).integ = s.integ ∧ (replayGen s).tide = s.tide ∧ (replayGen s).tap = s.tap ∧ (replayGen s).pending = s.pending := by
  unfold replayGen
  first
    | (simp [apply_ite State.clk, apply_ite State.pwr, apply_ite State.boot, apply_ite State.par, apply_ite State.sec, apply_ite State.bed, apply_ite State.dram, apply_ite State.pads, apply_ite State.integ, apply_ite State.tide, apply_ite State.tap, apply_ite State.pending]; done)
    | ((repeat' split) <;> (first | (simp [apply_ite State.clk, apply_ite State.pwr, apply_ite State.boot, apply_ite State.par, apply_ite State.sec, apply_ite State.bed, apply_ite State.dram, apply_ite State.pads, apply_ite State.integ, apply_ite State.tide, apply_ite State.tap, apply_ite State.pending]; done) | (simp_all [apply_ite State.clk, apply_ite State.pwr, apply_ite State.boot, apply_ite State.par, apply_ite State.sec, apply_ite State.bed, apply_ite State.dram, apply_ite State.pads, apply_ite State.integ, apply_ite State.tide, apply_ite State.tap, apply_ite State.pending]; done)))
    | (dsimp only; (repeat' apply And.intro) <;> (repeat' split) <;> (first | (simp [apply_ite State.clk, apply_ite State.pwr, apply_ite State.boot, apply_ite State.par, apply_ite State.sec, apply_ite State.bed, apply_ite State.dram, apply_ite State.pads, apply_ite State.integ, apply_ite State.tide, apply_ite State.tap, apply_ite State.pending]; done) | (simp_all [apply_ite State.clk, apply_ite State.pwr, apply_ite State.boot, apply_ite State.par, apply_ite State.sec, apply_ite State.bed, apply_ite State.dram, apply_ite State.pads, apply_ite State.integ, apply_ite State.tide, apply_ite State.tap, apply_ite State.pending]; done)))
@[simp] theorem frame_recovery (resume : Bool) (s : State) :
    (recovery resume s).clk = s.clk ∧ (recovery resume s).pwr = s.pwr ∧ (recovery resume s).par = s.par ∧ (recovery resume s).sec = s.sec ∧ (recovery resume s).bed = s.bed ∧ (recovery resume s).dram = s.dram ∧ (recovery resume s).pads = s.pads ∧ (recovery resume s).integ = s.integ ∧ (recovery resume s).tide = s.tide ∧ (recovery resume s).tap = s.tap ∧ (recovery resume s).pending = s.pending := by
  unfold recovery
  first
    | (simp [apply_ite State.clk, apply_ite State.pwr, apply_ite State.par, apply_ite State.sec, apply_ite State.bed, apply_ite State.dram, apply_ite State.pads, apply_ite State.integ, apply_ite State.tide, apply_ite State.tap, apply_ite State.pending]; done)
    | ((repeat' split) <;> (first | (simp [apply_ite State.clk, apply_ite State.pwr, apply_ite State.par, apply_ite State.sec, apply_ite State.bed, apply_ite State.dram, apply_ite State.pads, apply_ite State.integ, apply_ite State.tide, apply_ite State.tap, apply_ite State.pending]; done) | (simp_all [apply_ite State.clk, apply_ite State.pwr, apply_ite State.par, apply_ite State.sec, apply_ite State.bed, apply_ite State.dram, apply_ite State.pads, apply_ite State.integ, apply_ite State.tide, apply_ite State.tap, apply_ite State.pending]; done)))
    | (dsimp only; (repeat' apply And.intro) <;> (repeat' split) <;> (first | (simp [apply_ite State.clk, apply_ite State.pwr, apply_ite State.par, apply_ite State.sec, apply_ite State.bed, apply_ite State.dram, apply_ite State.pads, apply_ite State.integ, apply_ite State.tide, apply_ite State.tap, apply_ite State.pending]; done) | (simp_all [apply_ite State.clk, apply_ite State.pwr, apply_ite State.par, apply_ite State.sec, apply_ite State.bed, apply_ite State.dram, apply_ite State.pads, apply_ite State.integ, apply_ite State.tide, apply_ite State.tap, apply_ite State.pending]; done)))
@[simp] theorem frame_enterReady (s : State) :
    (enterReady s).clk = s.clk ∧ (enterReady s).par = s.par ∧ (enterReady s).sec = s.sec ∧ (enterReady s).dram = s.dram ∧ (enterReady s).pads = s.pads ∧ (enterReady s).tap = s.tap ∧ (enterReady s).pending = s.pending := by
  unfold enterReady
  first
    | (simp [apply_ite State.clk, apply_ite State.par, apply_ite State.sec, apply_ite State.dram, apply_ite State.pads, apply_ite State.tap, apply_ite State.pending]; done)
    | ((repeat' split) <;> (first | (simp [apply_ite State.clk, apply_ite State.par, apply_ite State.sec, apply_ite State.dram, apply_ite State.pads, apply_ite State.tap, apply_ite State.pending]; done) | (simp_all [apply_ite State.clk, apply_ite State.par, apply_ite State.sec, apply_ite State.dram, apply_ite State.pads, apply_ite State.tap, apply_ite State.pending]; done)))
    | (dsimp only; (repeat' apply And.intro) <;> (repeat' split) <;> (first | (simp [apply_ite State.clk, apply_ite State.par, apply_ite State.sec, apply_ite State.dram, apply_ite State.pads, apply_ite State.tap, apply_ite State.pending]; done) | (simp_all [apply_ite State.clk, apply_ite State.par, apply_ite State.sec, apply_ite State.dram, apply_ite State.pads, apply_ite State.tap, apply_ite State.pending]; done)))
@[simp] theorem frame_onFrame (t : FrameType) (bulk : Nat) (f : Frame) (b : FrameBody) (s : State) :
    (onFrame t bulk f b s).clk = s.clk ∧ (onFrame t bulk f b s).boot = s.boot ∧ (onFrame t bulk f b s).dram = s.dram ∧ (onFrame t bulk f b s).pads = s.pads ∧ (onFrame t bulk f b s).integ = s.integ ∧ (onFrame t bulk f b s).tap = s.tap ∧ (onFrame t bulk f b s).pending = s.pending := by
  unfold onFrame
  first
    | (simp [apply_ite State.clk, apply_ite State.boot, apply_ite State.dram, apply_ite State.pads, apply_ite State.integ, apply_ite State.tap, apply_ite State.pending]; done)
    | ((repeat' split) <;> (first | (simp [apply_ite State.clk, apply_ite State.boot, apply_ite State.dram, apply_ite State.pads, apply_ite State.integ, apply_ite State.tap, apply_ite State.pending]; done) | (simp_all [apply_ite State.clk, apply_ite State.boot, apply_ite State.dram, apply_ite State.pads, apply_ite State.integ, apply_ite State.tap, apply_ite State.pending]; done)))
    | (dsimp only; (repeat' apply And.intro) <;> (repeat' split) <;> (first | (simp [apply_ite State.clk, apply_ite State.boot, apply_ite State.dram, apply_ite State.pads, apply_ite State.integ, apply_ite State.tap, apply_ite State.pending]; done) | (simp_all [apply_ite State.clk, apply_ite State.boot, apply_ite State.dram, apply_ite State.pads, apply_ite State.integ, apply_ite State.tap, apply_ite State.pending]; done)))
@[simp] theorem frame_onChan (c : Nat) (f : DChan → DChan) (s : State) :
    (State.onChan c f s).clk = s.clk ∧ (State.onChan c f s).pwr = s.pwr ∧ (State.onChan c f s).boot = s.boot ∧ (State.onChan c f s).par = s.par ∧ (State.onChan c f s).sec = s.sec ∧ (State.onChan c f s).bed = s.bed ∧ (State.onChan c f s).pads = s.pads ∧ (State.onChan c f s).integ = s.integ ∧ (State.onChan c f s).tide = s.tide ∧ (State.onChan c f s).tap = s.tap ∧ (State.onChan c f s).pending = s.pending := by
  unfold State.onChan
  first
    | (simp [apply_ite State.clk, apply_ite State.pwr, apply_ite State.boot, apply_ite State.par, apply_ite State.sec, apply_ite State.bed, apply_ite State.pads, apply_ite State.integ, apply_ite State.tide, apply_ite State.tap, apply_ite State.pending]; done)
    | ((repeat' split) <;> (first | (simp [apply_ite State.clk, apply_ite State.pwr, apply_ite State.boot, apply_ite State.par, apply_ite State.sec, apply_ite State.bed, apply_ite State.pads, apply_ite State.integ, apply_ite State.tide, apply_ite State.tap, apply_ite State.pending]; done) | (simp_all [apply_ite State.clk, apply_ite State.pwr, apply_ite State.boot, apply_ite State.par, apply_ite State.sec, apply_ite State.bed, apply_ite State.pads, apply_ite State.integ, apply_ite State.tide, apply_ite State.tap, apply_ite State.pending]; done)))
    | (dsimp only; (repeat' apply And.intro) <;> (repeat' split) <;> (first | (simp [apply_ite State.clk, apply_ite State.pwr, apply_ite State.boot, apply_ite State.par, apply_ite State.sec, apply_ite State.bed, apply_ite State.pads, apply_ite State.integ, apply_ite State.tide, apply_ite State.tap, apply_ite State.pending]; done) | (simp_all [apply_ite State.clk, apply_ite State.pwr, apply_ite State.boot, apply_ite State.par, apply_ite State.sec, apply_ite State.bed, apply_ite State.pads, apply_ite State.integ, apply_ite State.tide, apply_ite State.tap, apply_ite State.pending]; done)))
@[simp] theorem frame_dramOut (c : Nat) (o : DramCmd) (s : State) :
    (dramOut c o s).clk = s.clk ∧ (dramOut c o s).pwr = s.pwr ∧ (dramOut c o s).boot = s.boot ∧ (dramOut c o s).par = s.par ∧ (dramOut c o s).sec = s.sec ∧ (dramOut c o s).bed = s.bed ∧ (dramOut c o s).dram = s.dram ∧ (dramOut c o s).pads = s.pads ∧ (dramOut c o s).integ = s.integ ∧ (dramOut c o s).tide = s.tide ∧ (dramOut c o s).tap = s.tap ∧ (dramOut c o s).pending = s.pending := by
  unfold dramOut
  first
    | (simp [apply_ite State.clk, apply_ite State.pwr, apply_ite State.boot, apply_ite State.par, apply_ite State.sec, apply_ite State.bed, apply_ite State.dram, apply_ite State.pads, apply_ite State.integ, apply_ite State.tide, apply_ite State.tap, apply_ite State.pending]; done)
    | ((repeat' split) <;> (first | (simp [apply_ite State.clk, apply_ite State.pwr, apply_ite State.boot, apply_ite State.par, apply_ite State.sec, apply_ite State.bed, apply_ite State.dram, apply_ite State.pads, apply_ite State.integ, apply_ite State.tide, apply_ite State.tap, apply_ite State.pending]; done) | (simp_all [apply_ite State.clk, apply_ite State.pwr, apply_ite State.boot, apply_ite State.par, apply_ite State.sec, apply_ite State.bed, apply_ite State.dram, apply_ite State.pads, apply_ite State.integ, apply_ite State.tide, apply_ite State.tap, apply_ite State.pending]; done)))
    | (dsimp only; (repeat' apply And.intro) <;> (repeat' split) <;> (first | (simp [apply_ite State.clk, apply_ite State.pwr, apply_ite State.boot, apply_ite State.par, apply_ite State.sec, apply_ite State.bed, apply_ite State.dram, apply_ite State.pads, apply_ite State.integ, apply_ite State.tide, apply_ite State.tap, apply_ite State.pending]; done) | (simp_all [apply_ite State.clk, apply_ite State.pwr, apply_ite State.boot, apply_ite State.par, apply_ite State.sec, apply_ite State.bed, apply_ite State.dram, apply_ite State.pads, apply_ite State.integ, apply_ite State.tide, apply_ite State.tap, apply_ite State.pending]; done)))
@[simp] theorem frame_failDram (c cause : Nat) (s : State) :
    (failDram c cause s).clk = s.clk ∧ (failDram c cause s).pwr = s.pwr ∧ (failDram c cause s).par = s.par ∧ (failDram c cause s).sec = s.sec ∧ (failDram c cause s).bed = s.bed ∧ (failDram c cause s).pads = s.pads ∧ (failDram c cause s).integ = s.integ ∧ (failDram c cause s).tide = s.tide ∧ (failDram c cause s).tap = s.tap ∧ (failDram c cause s).pending = s.pending := by
  unfold failDram
  first
    | (simp [apply_ite State.clk, apply_ite State.pwr, apply_ite State.par, apply_ite State.sec, apply_ite State.bed, apply_ite State.pads, apply_ite State.integ, apply_ite State.tide, apply_ite State.tap, apply_ite State.pending]; done)
    | ((repeat' split) <;> (first | (simp [apply_ite State.clk, apply_ite State.pwr, apply_ite State.par, apply_ite State.sec, apply_ite State.bed, apply_ite State.pads, apply_ite State.integ, apply_ite State.tide, apply_ite State.tap, apply_ite State.pending]; done) | (simp_all [apply_ite State.clk, apply_ite State.pwr, apply_ite State.par, apply_ite State.sec, apply_ite State.bed, apply_ite State.pads, apply_ite State.integ, apply_ite State.tide, apply_ite State.tap, apply_ite State.pending]; done)))
    | (dsimp only; (repeat' apply And.intro) <;> (repeat' split) <;> (first | (simp [apply_ite State.clk, apply_ite State.pwr, apply_ite State.par, apply_ite State.sec, apply_ite State.bed, apply_ite State.pads, apply_ite State.integ, apply_ite State.tide, apply_ite State.tap, apply_ite State.pending]; done) | (simp_all [apply_ite State.clk, apply_ite State.pwr, apply_ite State.par, apply_ite State.sec, apply_ite State.bed, apply_ite State.pads, apply_ite State.integ, apply_ite State.tide, apply_ite State.tap, apply_ite State.pending]; done)))
@[simp] theorem frame_noteFix (c rank component burst : Nat) (s : State) :
    (noteFix c rank component burst s).clk = s.clk ∧ (noteFix c rank component burst s).pwr = s.pwr ∧ (noteFix c rank component burst s).boot = s.boot ∧ (noteFix c rank component burst s).par = s.par ∧ (noteFix c rank component burst s).sec = s.sec ∧ (noteFix c rank component burst s).bed = s.bed ∧ (noteFix c rank component burst s).pads = s.pads ∧ (noteFix c rank component burst s).integ = s.integ ∧ (noteFix c rank component burst s).tide = s.tide ∧ (noteFix c rank component burst s).tap = s.tap ∧ (noteFix c rank component burst s).pending = s.pending := by
  unfold noteFix
  first
    | (simp [apply_ite State.clk, apply_ite State.pwr, apply_ite State.boot, apply_ite State.par, apply_ite State.sec, apply_ite State.bed, apply_ite State.pads, apply_ite State.integ, apply_ite State.tide, apply_ite State.tap, apply_ite State.pending]; done)
    | ((repeat' split) <;> (first | (simp [apply_ite State.clk, apply_ite State.pwr, apply_ite State.boot, apply_ite State.par, apply_ite State.sec, apply_ite State.bed, apply_ite State.pads, apply_ite State.integ, apply_ite State.tide, apply_ite State.tap, apply_ite State.pending]; done) | (simp_all [apply_ite State.clk, apply_ite State.pwr, apply_ite State.boot, apply_ite State.par, apply_ite State.sec, apply_ite State.bed, apply_ite State.pads, apply_ite State.integ, apply_ite State.tide, apply_ite State.tap, apply_ite State.pending]; done)))
    | (dsimp only; (repeat' apply And.intro) <;> (repeat' split) <;> (first | (simp [apply_ite State.clk, apply_ite State.pwr, apply_ite State.boot, apply_ite State.par, apply_ite State.sec, apply_ite State.bed, apply_ite State.pads, apply_ite State.integ, apply_ite State.tide, apply_ite State.tap, apply_ite State.pending]; done) | (simp_all [apply_ite State.clk, apply_ite State.pwr, apply_ite State.boot, apply_ite State.par, apply_ite State.sec, apply_ite State.bed, apply_ite State.pads, apply_ite State.integ, apply_ite State.tide, apply_ite State.tap, apply_ite State.pending]; done)))
@[simp] theorem frame_noteDiagFix (s : State) :
    (noteDiagFix s).clk = s.clk ∧ (noteDiagFix s).pwr = s.pwr ∧ (noteDiagFix s).boot = s.boot ∧ (noteDiagFix s).par = s.par ∧ (noteDiagFix s).sec = s.sec ∧ (noteDiagFix s).bed = s.bed ∧ (noteDiagFix s).dram = s.dram ∧ (noteDiagFix s).pads = s.pads ∧ (noteDiagFix s).tide = s.tide ∧ (noteDiagFix s).tap = s.tap ∧ (noteDiagFix s).pending = s.pending := by
  unfold noteDiagFix
  first
    | (simp [apply_ite State.clk, apply_ite State.pwr, apply_ite State.boot, apply_ite State.par, apply_ite State.sec, apply_ite State.bed, apply_ite State.dram, apply_ite State.pads, apply_ite State.tide, apply_ite State.tap, apply_ite State.pending]; done)
    | ((repeat' split) <;> (first | (simp [apply_ite State.clk, apply_ite State.pwr, apply_ite State.boot, apply_ite State.par, apply_ite State.sec, apply_ite State.bed, apply_ite State.dram, apply_ite State.pads, apply_ite State.tide, apply_ite State.tap, apply_ite State.pending]; done) | (simp_all [apply_ite State.clk, apply_ite State.pwr, apply_ite State.boot, apply_ite State.par, apply_ite State.sec, apply_ite State.bed, apply_ite State.dram, apply_ite State.pads, apply_ite State.tide, apply_ite State.tap, apply_ite State.pending]; done)))
    | (dsimp only; (repeat' apply And.intro) <;> (repeat' split) <;> (first | (simp [apply_ite State.clk, apply_ite State.pwr, apply_ite State.boot, apply_ite State.par, apply_ite State.sec, apply_ite State.bed, apply_ite State.dram, apply_ite State.pads, apply_ite State.tide, apply_ite State.tap, apply_ite State.pending]; done) | (simp_all [apply_ite State.clk, apply_ite State.pwr, apply_ite State.boot, apply_ite State.par, apply_ite State.sec, apply_ite State.bed, apply_ite State.dram, apply_ite State.pads, apply_ite State.tide, apply_ite State.tap, apply_ite State.pending]; done)))
@[simp] theorem frame_dramAction (region : DramRegion) (s : State) :
    (dramAction region s).clk = s.clk ∧ (dramAction region s).dram = s.dram ∧ (dramAction region s).pads = s.pads ∧ (dramAction region s).tap = s.tap ∧ (dramAction region s).pending = s.pending := by
  unfold dramAction
  first
    | (simp [apply_ite State.clk, apply_ite State.dram, apply_ite State.pads, apply_ite State.tap, apply_ite State.pending]; done)
    | ((repeat' split) <;> (first | (simp [apply_ite State.clk, apply_ite State.dram, apply_ite State.pads, apply_ite State.tap, apply_ite State.pending]; done) | (simp_all [apply_ite State.clk, apply_ite State.dram, apply_ite State.pads, apply_ite State.tap, apply_ite State.pending]; done)))
    | (dsimp only; (repeat' apply And.intro) <;> (repeat' split) <;> (first | (simp [apply_ite State.clk, apply_ite State.dram, apply_ite State.pads, apply_ite State.tap, apply_ite State.pending]; done) | (simp_all [apply_ite State.clk, apply_ite State.dram, apply_ite State.pads, apply_ite State.tap, apply_ite State.pending]; done)))
@[simp] theorem frame_endPass (c : Nat) (s : State) :
    (endPass c s).clk = s.clk ∧ (endPass c s).pwr = s.pwr ∧ (endPass c s).par = s.par ∧ (endPass c s).sec = s.sec ∧ (endPass c s).bed = s.bed ∧ (endPass c s).pads = s.pads ∧ (endPass c s).integ = s.integ ∧ (endPass c s).tide = s.tide ∧ (endPass c s).tap = s.tap ∧ (endPass c s).pending = s.pending := by
  unfold endPass
  first
    | (simp [apply_ite State.clk, apply_ite State.pwr, apply_ite State.par, apply_ite State.sec, apply_ite State.bed, apply_ite State.pads, apply_ite State.integ, apply_ite State.tide, apply_ite State.tap, apply_ite State.pending]; done)
    | ((repeat' split) <;> (first | (simp [apply_ite State.clk, apply_ite State.pwr, apply_ite State.par, apply_ite State.sec, apply_ite State.bed, apply_ite State.pads, apply_ite State.integ, apply_ite State.tide, apply_ite State.tap, apply_ite State.pending]; done) | (simp_all [apply_ite State.clk, apply_ite State.pwr, apply_ite State.par, apply_ite State.sec, apply_ite State.bed, apply_ite State.pads, apply_ite State.integ, apply_ite State.tide, apply_ite State.tap, apply_ite State.pending]; done)))
    | (dsimp only; (repeat' apply And.intro) <;> (repeat' split) <;> (first | (simp [apply_ite State.clk, apply_ite State.pwr, apply_ite State.par, apply_ite State.sec, apply_ite State.bed, apply_ite State.pads, apply_ite State.integ, apply_ite State.tide, apply_ite State.tap, apply_ite State.pending]; done) | (simp_all [apply_ite State.clk, apply_ite State.pwr, apply_ite State.par, apply_ite State.sec, apply_ite State.bed, apply_ite State.pads, apply_ite State.integ, apply_ite State.tide, apply_ite State.tap, apply_ite State.pending]; done)))
@[simp] theorem frame_mendBurst (c offset : Nat) (s : State) :
    (mendBurst c offset s).clk = s.clk ∧ (mendBurst c offset s).pwr = s.pwr ∧ (mendBurst c offset s).boot = s.boot ∧ (mendBurst c offset s).par = s.par ∧ (mendBurst c offset s).sec = s.sec ∧ (mendBurst c offset s).bed = s.bed ∧ (mendBurst c offset s).dram = s.dram ∧ (mendBurst c offset s).pads = s.pads ∧ (mendBurst c offset s).tide = s.tide ∧ (mendBurst c offset s).tap = s.tap ∧ (mendBurst c offset s).pending = s.pending := by
  unfold mendBurst
  first
    | (simp [apply_ite State.clk, apply_ite State.pwr, apply_ite State.boot, apply_ite State.par, apply_ite State.sec, apply_ite State.bed, apply_ite State.dram, apply_ite State.pads, apply_ite State.tide, apply_ite State.tap, apply_ite State.pending]; done)
    | ((repeat' split) <;> (first | (simp [apply_ite State.clk, apply_ite State.pwr, apply_ite State.boot, apply_ite State.par, apply_ite State.sec, apply_ite State.bed, apply_ite State.dram, apply_ite State.pads, apply_ite State.tide, apply_ite State.tap, apply_ite State.pending]; done) | (simp_all [apply_ite State.clk, apply_ite State.pwr, apply_ite State.boot, apply_ite State.par, apply_ite State.sec, apply_ite State.bed, apply_ite State.dram, apply_ite State.pads, apply_ite State.tide, apply_ite State.tap, apply_ite State.pending]; done)))
    | (dsimp only; (repeat' apply And.intro) <;> (repeat' split) <;> (first | (simp [apply_ite State.clk, apply_ite State.pwr, apply_ite State.boot, apply_ite State.par, apply_ite State.sec, apply_ite State.bed, apply_ite State.dram, apply_ite State.pads, apply_ite State.tide, apply_ite State.tap, apply_ite State.pending]; done) | (simp_all [apply_ite State.clk, apply_ite State.pwr, apply_ite State.boot, apply_ite State.par, apply_ite State.sec, apply_ite State.bed, apply_ite State.dram, apply_ite State.pads, apply_ite State.tide, apply_ite State.tap, apply_ite State.pending]; done)))
@[simp] theorem frame_patrolBurst (c n rank : Nat) (component : Option Nat) (intervened : Bool) (s : State) :
    (patrolBurst c n rank component intervened s).clk = s.clk ∧ (patrolBurst c n rank component intervened s).pwr = s.pwr ∧ (patrolBurst c n rank component intervened s).boot = s.boot ∧ (patrolBurst c n rank component intervened s).par = s.par ∧ (patrolBurst c n rank component intervened s).sec = s.sec ∧ (patrolBurst c n rank component intervened s).bed = s.bed ∧ (patrolBurst c n rank component intervened s).pads = s.pads ∧ (patrolBurst c n rank component intervened s).tide = s.tide ∧ (patrolBurst c n rank component intervened s).tap = s.tap ∧ (patrolBurst c n rank component intervened s).pending = s.pending := by
  unfold patrolBurst
  first
    | (simp [apply_ite State.clk, apply_ite State.pwr, apply_ite State.boot, apply_ite State.par, apply_ite State.sec, apply_ite State.bed, apply_ite State.pads, apply_ite State.tide, apply_ite State.tap, apply_ite State.pending]; done)
    | ((repeat' split) <;> (first | (simp [apply_ite State.clk, apply_ite State.pwr, apply_ite State.boot, apply_ite State.par, apply_ite State.sec, apply_ite State.bed, apply_ite State.pads, apply_ite State.tide, apply_ite State.tap, apply_ite State.pending]; done) | (simp_all [apply_ite State.clk, apply_ite State.pwr, apply_ite State.boot, apply_ite State.par, apply_ite State.sec, apply_ite State.bed, apply_ite State.pads, apply_ite State.tide, apply_ite State.tap, apply_ite State.pending]; done)))
    | (dsimp only; (repeat' apply And.intro) <;> (repeat' split) <;> (first | (simp [apply_ite State.clk, apply_ite State.pwr, apply_ite State.boot, apply_ite State.par, apply_ite State.sec, apply_ite State.bed, apply_ite State.pads, apply_ite State.tide, apply_ite State.tap, apply_ite State.pending]; done) | (simp_all [apply_ite State.clk, apply_ite State.pwr, apply_ite State.boot, apply_ite State.par, apply_ite State.sec, apply_ite State.bed, apply_ite State.pads, apply_ite State.tide, apply_ite State.tap, apply_ite State.pending]; done)))
@[simp] theorem frame_closeIndex (c rank bank : Nat) (s : State) :
    (closeIndex c rank bank s).clk = s.clk ∧ (closeIndex c rank bank s).pwr = s.pwr ∧ (closeIndex c rank bank s).boot = s.boot ∧ (closeIndex c rank bank s).par = s.par ∧ (closeIndex c rank bank s).sec = s.sec ∧ (closeIndex c rank bank s).bed = s.bed ∧ (closeIndex c rank bank s).pads = s.pads ∧ (closeIndex c rank bank s).integ = s.integ ∧ (closeIndex c rank bank s).tide = s.tide ∧ (closeIndex c rank bank s).tap = s.tap ∧ (closeIndex c rank bank s).pending = s.pending := by
  unfold closeIndex
  first
    | (simp [apply_ite State.clk, apply_ite State.pwr, apply_ite State.boot, apply_ite State.par, apply_ite State.sec, apply_ite State.bed, apply_ite State.pads, apply_ite State.integ, apply_ite State.tide, apply_ite State.tap, apply_ite State.pending]; done)
    | ((repeat' split) <;> (first | (simp [apply_ite State.clk, apply_ite State.pwr, apply_ite State.boot, apply_ite State.par, apply_ite State.sec, apply_ite State.bed, apply_ite State.pads, apply_ite State.integ, apply_ite State.tide, apply_ite State.tap, apply_ite State.pending]; done) | (simp_all [apply_ite State.clk, apply_ite State.pwr, apply_ite State.boot, apply_ite State.par, apply_ite State.sec, apply_ite State.bed, apply_ite State.pads, apply_ite State.integ, apply_ite State.tide, apply_ite State.tap, apply_ite State.pending]; done)))
    | (dsimp only; (repeat' apply And.intro) <;> (repeat' split) <;> (first | (simp [apply_ite State.clk, apply_ite State.pwr, apply_ite State.boot, apply_ite State.par, apply_ite State.sec, apply_ite State.bed, apply_ite State.pads, apply_ite State.integ, apply_ite State.tide, apply_ite State.tap, apply_ite State.pending]; done) | (simp_all [apply_ite State.clk, apply_ite State.pwr, apply_ite State.boot, apply_ite State.par, apply_ite State.sec, apply_ite State.bed, apply_ite State.pads, apply_ite State.integ, apply_ite State.tide, apply_ite State.tap, apply_ite State.pending]; done)))
@[simp] theorem frame_refreshBank (c rank bank n : Nat) (s : State) :
    (refreshBank c rank bank n s).clk = s.clk ∧ (refreshBank c rank bank n s).pwr = s.pwr ∧ (refreshBank c rank bank n s).boot = s.boot ∧ (refreshBank c rank bank n s).par = s.par ∧ (refreshBank c rank bank n s).sec = s.sec ∧ (refreshBank c rank bank n s).bed = s.bed ∧ (refreshBank c rank bank n s).pads = s.pads ∧ (refreshBank c rank bank n s).integ = s.integ ∧ (refreshBank c rank bank n s).tide = s.tide ∧ (refreshBank c rank bank n s).tap = s.tap ∧ (refreshBank c rank bank n s).pending = s.pending := by
  unfold refreshBank
  first
    | (simp [apply_ite State.clk, apply_ite State.pwr, apply_ite State.boot, apply_ite State.par, apply_ite State.sec, apply_ite State.bed, apply_ite State.pads, apply_ite State.integ, apply_ite State.tide, apply_ite State.tap, apply_ite State.pending]; done)
    | ((repeat' split) <;> (first | (simp [apply_ite State.clk, apply_ite State.pwr, apply_ite State.boot, apply_ite State.par, apply_ite State.sec, apply_ite State.bed, apply_ite State.pads, apply_ite State.integ, apply_ite State.tide, apply_ite State.tap, apply_ite State.pending]; done) | (simp_all [apply_ite State.clk, apply_ite State.pwr, apply_ite State.boot, apply_ite State.par, apply_ite State.sec, apply_ite State.bed, apply_ite State.pads, apply_ite State.integ, apply_ite State.tide, apply_ite State.tap, apply_ite State.pending]; done)))
    | (dsimp only; (repeat' apply And.intro) <;> (repeat' split) <;> (first | (simp [apply_ite State.clk, apply_ite State.pwr, apply_ite State.boot, apply_ite State.par, apply_ite State.sec, apply_ite State.bed, apply_ite State.pads, apply_ite State.integ, apply_ite State.tide, apply_ite State.tap, apply_ite State.pending]; done) | (simp_all [apply_ite State.clk, apply_ite State.pwr, apply_ite State.boot, apply_ite State.par, apply_ite State.sec, apply_ite State.bed, apply_ite State.pads, apply_ite State.integ, apply_ite State.tide, apply_ite State.tap, apply_ite State.pending]; done)))
@[simp] theorem frame_payBack (c : Nat) (s : State) :
    (payBack c s).clk = s.clk ∧ (payBack c s).pwr = s.pwr ∧ (payBack c s).boot = s.boot ∧ (payBack c s).par = s.par ∧ (payBack c s).sec = s.sec ∧ (payBack c s).bed = s.bed ∧ (payBack c s).pads = s.pads ∧ (payBack c s).integ = s.integ ∧ (payBack c s).tide = s.tide ∧ (payBack c s).tap = s.tap ∧ (payBack c s).pending = s.pending := by
  unfold payBack
  first
    | (simp [apply_ite State.clk, apply_ite State.pwr, apply_ite State.boot, apply_ite State.par, apply_ite State.sec, apply_ite State.bed, apply_ite State.pads, apply_ite State.integ, apply_ite State.tide, apply_ite State.tap, apply_ite State.pending]; done)
    | ((repeat' split) <;> (first | (simp [apply_ite State.clk, apply_ite State.pwr, apply_ite State.boot, apply_ite State.par, apply_ite State.sec, apply_ite State.bed, apply_ite State.pads, apply_ite State.integ, apply_ite State.tide, apply_ite State.tap, apply_ite State.pending]; done) | (simp_all [apply_ite State.clk, apply_ite State.pwr, apply_ite State.boot, apply_ite State.par, apply_ite State.sec, apply_ite State.bed, apply_ite State.pads, apply_ite State.integ, apply_ite State.tide, apply_ite State.tap, apply_ite State.pending]; done)))
    | (dsimp only; (repeat' apply And.intro) <;> (repeat' split) <;> (first | (simp [apply_ite State.clk, apply_ite State.pwr, apply_ite State.boot, apply_ite State.par, apply_ite State.sec, apply_ite State.bed, apply_ite State.pads, apply_ite State.integ, apply_ite State.tide, apply_ite State.tap, apply_ite State.pending]; done) | (simp_all [apply_ite State.clk, apply_ite State.pwr, apply_ite State.boot, apply_ite State.par, apply_ite State.sec, apply_ite State.bed, apply_ite State.pads, apply_ite State.integ, apply_ite State.tide, apply_ite State.tap, apply_ite State.pending]; done)))
@[simp] theorem frame_sleepChan (s : State) (c : Nat) :
    (sleepChan s c).clk = s.clk ∧ (sleepChan s c).pwr = s.pwr ∧ (sleepChan s c).boot = s.boot ∧ (sleepChan s c).par = s.par ∧ (sleepChan s c).sec = s.sec ∧ (sleepChan s c).bed = s.bed ∧ (sleepChan s c).pads = s.pads ∧ (sleepChan s c).integ = s.integ ∧ (sleepChan s c).tide = s.tide ∧ (sleepChan s c).tap = s.tap ∧ (sleepChan s c).pending = s.pending := by
  unfold sleepChan
  first
    | (simp [apply_ite State.clk, apply_ite State.pwr, apply_ite State.boot, apply_ite State.par, apply_ite State.sec, apply_ite State.bed, apply_ite State.pads, apply_ite State.integ, apply_ite State.tide, apply_ite State.tap, apply_ite State.pending]; done)
    | ((repeat' split) <;> (first | (simp [apply_ite State.clk, apply_ite State.pwr, apply_ite State.boot, apply_ite State.par, apply_ite State.sec, apply_ite State.bed, apply_ite State.pads, apply_ite State.integ, apply_ite State.tide, apply_ite State.tap, apply_ite State.pending]; done) | (simp_all [apply_ite State.clk, apply_ite State.pwr, apply_ite State.boot, apply_ite State.par, apply_ite State.sec, apply_ite State.bed, apply_ite State.pads, apply_ite State.integ, apply_ite State.tide, apply_ite State.tap, apply_ite State.pending]; done)))
    | (dsimp only; (repeat' apply And.intro) <;> (repeat' split) <;> (first | (simp [apply_ite State.clk, apply_ite State.pwr, apply_ite State.boot, apply_ite State.par, apply_ite State.sec, apply_ite State.bed, apply_ite State.pads, apply_ite State.integ, apply_ite State.tide, apply_ite State.tap, apply_ite State.pending]; done) | (simp_all [apply_ite State.clk, apply_ite State.pwr, apply_ite State.boot, apply_ite State.par, apply_ite State.sec, apply_ite State.bed, apply_ite State.pads, apply_ite State.integ, apply_ite State.tide, apply_ite State.tap, apply_ite State.pending]; done)))
@[simp] theorem frame_wakeChan (s : State) (c : Nat) :
    (wakeChan s c).clk = s.clk ∧ (wakeChan s c).pwr = s.pwr ∧ (wakeChan s c).boot = s.boot ∧ (wakeChan s c).par = s.par ∧ (wakeChan s c).sec = s.sec ∧ (wakeChan s c).bed = s.bed ∧ (wakeChan s c).pads = s.pads ∧ (wakeChan s c).integ = s.integ ∧ (wakeChan s c).tide = s.tide ∧ (wakeChan s c).tap = s.tap ∧ (wakeChan s c).pending = s.pending := by
  unfold wakeChan
  first
    | (simp [apply_ite State.clk, apply_ite State.pwr, apply_ite State.boot, apply_ite State.par, apply_ite State.sec, apply_ite State.bed, apply_ite State.pads, apply_ite State.integ, apply_ite State.tide, apply_ite State.tap, apply_ite State.pending]; done)
    | ((repeat' split) <;> (first | (simp [apply_ite State.clk, apply_ite State.pwr, apply_ite State.boot, apply_ite State.par, apply_ite State.sec, apply_ite State.bed, apply_ite State.pads, apply_ite State.integ, apply_ite State.tide, apply_ite State.tap, apply_ite State.pending]; done) | (simp_all [apply_ite State.clk, apply_ite State.pwr, apply_ite State.boot, apply_ite State.par, apply_ite State.sec, apply_ite State.bed, apply_ite State.pads, apply_ite State.integ, apply_ite State.tide, apply_ite State.tap, apply_ite State.pending]; done)))
    | (dsimp only; (repeat' apply And.intro) <;> (repeat' split) <;> (first | (simp [apply_ite State.clk, apply_ite State.pwr, apply_ite State.boot, apply_ite State.par, apply_ite State.sec, apply_ite State.bed, apply_ite State.pads, apply_ite State.integ, apply_ite State.tide, apply_ite State.tap, apply_ite State.pending]; done) | (simp_all [apply_ite State.clk, apply_ite State.pwr, apply_ite State.boot, apply_ite State.par, apply_ite State.sec, apply_ite State.bed, apply_ite State.pads, apply_ite State.integ, apply_ite State.tide, apply_ite State.tap, apply_ite State.pending]; done)))
@[simp] theorem frame_setRate (r shadow : Nat) (s : State) :
    (setRate r shadow s).clk = s.clk ∧ (setRate r shadow s).pwr = s.pwr ∧ (setRate r shadow s).boot = s.boot ∧ (setRate r shadow s).par = s.par ∧ (setRate r shadow s).sec = s.sec ∧ (setRate r shadow s).bed = s.bed ∧ (setRate r shadow s).pads = s.pads ∧ (setRate r shadow s).integ = s.integ ∧ (setRate r shadow s).tide = s.tide ∧ (setRate r shadow s).tap = s.tap ∧ (setRate r shadow s).pending = s.pending := by
  unfold setRate
  first
    | (simp [apply_ite State.clk, apply_ite State.pwr, apply_ite State.boot, apply_ite State.par, apply_ite State.sec, apply_ite State.bed, apply_ite State.pads, apply_ite State.integ, apply_ite State.tide, apply_ite State.tap, apply_ite State.pending]; done)
    | ((repeat' split) <;> (first | (simp [apply_ite State.clk, apply_ite State.pwr, apply_ite State.boot, apply_ite State.par, apply_ite State.sec, apply_ite State.bed, apply_ite State.pads, apply_ite State.integ, apply_ite State.tide, apply_ite State.tap, apply_ite State.pending]; done) | (simp_all [apply_ite State.clk, apply_ite State.pwr, apply_ite State.boot, apply_ite State.par, apply_ite State.sec, apply_ite State.bed, apply_ite State.pads, apply_ite State.integ, apply_ite State.tide, apply_ite State.tap, apply_ite State.pending]; done)))
    | (dsimp only; (repeat' apply And.intro) <;> (repeat' split) <;> (first | (simp [apply_ite State.clk, apply_ite State.pwr, apply_ite State.boot, apply_ite State.par, apply_ite State.sec, apply_ite State.bed, apply_ite State.pads, apply_ite State.integ, apply_ite State.tide, apply_ite State.tap, apply_ite State.pending]; done) | (simp_all [apply_ite State.clk, apply_ite State.pwr, apply_ite State.boot, apply_ite State.par, apply_ite State.sec, apply_ite State.bed, apply_ite State.pads, apply_ite State.integ, apply_ite State.tide, apply_ite State.tap, apply_ite State.pending]; done)))
@[simp] theorem frame_changeRate (r shadow : Nat) (s : State) :
    (changeRate r shadow s).clk = s.clk ∧ (changeRate r shadow s).pwr = s.pwr ∧ (changeRate r shadow s).boot = s.boot ∧ (changeRate r shadow s).par = s.par ∧ (changeRate r shadow s).sec = s.sec ∧ (changeRate r shadow s).bed = s.bed ∧ (changeRate r shadow s).pads = s.pads ∧ (changeRate r shadow s).integ = s.integ ∧ (changeRate r shadow s).tide = s.tide ∧ (changeRate r shadow s).tap = s.tap ∧ (changeRate r shadow s).pending = s.pending := by
  unfold changeRate
  first
    | (simp [apply_ite State.clk, apply_ite State.pwr, apply_ite State.boot, apply_ite State.par, apply_ite State.sec, apply_ite State.bed, apply_ite State.pads, apply_ite State.integ, apply_ite State.tide, apply_ite State.tap, apply_ite State.pending]; done)
    | ((repeat' split) <;> (first | (simp [apply_ite State.clk, apply_ite State.pwr, apply_ite State.boot, apply_ite State.par, apply_ite State.sec, apply_ite State.bed, apply_ite State.pads, apply_ite State.integ, apply_ite State.tide, apply_ite State.tap, apply_ite State.pending]; done) | (simp_all [apply_ite State.clk, apply_ite State.pwr, apply_ite State.boot, apply_ite State.par, apply_ite State.sec, apply_ite State.bed, apply_ite State.pads, apply_ite State.integ, apply_ite State.tide, apply_ite State.tap, apply_ite State.pending]; done)))
    | (dsimp only; (repeat' apply And.intro) <;> (repeat' split) <;> (first | (simp [apply_ite State.clk, apply_ite State.pwr, apply_ite State.boot, apply_ite State.par, apply_ite State.sec, apply_ite State.bed, apply_ite State.pads, apply_ite State.integ, apply_ite State.tide, apply_ite State.tap, apply_ite State.pending]; done) | (simp_all [apply_ite State.clk, apply_ite State.pwr, apply_ite State.boot, apply_ite State.par, apply_ite State.sec, apply_ite State.bed, apply_ite State.pads, apply_ite State.integ, apply_ite State.tide, apply_ite State.tap, apply_ite State.pending]; done)))
@[simp] theorem frame_retrainChan (c : Nat) (sweep : DramSweep) (s : State) :
    (retrainChan c sweep s).clk = s.clk ∧ (retrainChan c sweep s).pwr = s.pwr ∧ (retrainChan c sweep s).boot = s.boot ∧ (retrainChan c sweep s).par = s.par ∧ (retrainChan c sweep s).sec = s.sec ∧ (retrainChan c sweep s).bed = s.bed ∧ (retrainChan c sweep s).pads = s.pads ∧ (retrainChan c sweep s).integ = s.integ ∧ (retrainChan c sweep s).tide = s.tide ∧ (retrainChan c sweep s).tap = s.tap ∧ (retrainChan c sweep s).pending = s.pending := by
  unfold retrainChan
  first
    | (simp [apply_ite State.clk, apply_ite State.pwr, apply_ite State.boot, apply_ite State.par, apply_ite State.sec, apply_ite State.bed, apply_ite State.pads, apply_ite State.integ, apply_ite State.tide, apply_ite State.tap, apply_ite State.pending]; done)
    | ((repeat' split) <;> (first | (simp [apply_ite State.clk, apply_ite State.pwr, apply_ite State.boot, apply_ite State.par, apply_ite State.sec, apply_ite State.bed, apply_ite State.pads, apply_ite State.integ, apply_ite State.tide, apply_ite State.tap, apply_ite State.pending]; done) | (simp_all [apply_ite State.clk, apply_ite State.pwr, apply_ite State.boot, apply_ite State.par, apply_ite State.sec, apply_ite State.bed, apply_ite State.pads, apply_ite State.integ, apply_ite State.tide, apply_ite State.tap, apply_ite State.pending]; done)))
    | (dsimp only; (repeat' apply And.intro) <;> (repeat' split) <;> (first | (simp [apply_ite State.clk, apply_ite State.pwr, apply_ite State.boot, apply_ite State.par, apply_ite State.sec, apply_ite State.bed, apply_ite State.pads, apply_ite State.integ, apply_ite State.tide, apply_ite State.tap, apply_ite State.pending]; done) | (simp_all [apply_ite State.clk, apply_ite State.pwr, apply_ite State.boot, apply_ite State.par, apply_ite State.sec, apply_ite State.bed, apply_ite State.pads, apply_ite State.integ, apply_ite State.tide, apply_ite State.tap, apply_ite State.pending]; done)))
@[simp] theorem frame_memTick (s : State) :
    (memTick s).clk = s.clk ∧ (memTick s).pwr = s.pwr ∧ (memTick s).boot = s.boot ∧ (memTick s).par = s.par ∧ (memTick s).sec = s.sec ∧ (memTick s).bed = s.bed ∧ (memTick s).integ = s.integ ∧ (memTick s).tide = s.tide ∧ (memTick s).tap = s.tap ∧ (memTick s).pending = s.pending := by
  unfold memTick
  first
    | (simp [apply_ite State.clk, apply_ite State.pwr, apply_ite State.boot, apply_ite State.par, apply_ite State.sec, apply_ite State.bed, apply_ite State.integ, apply_ite State.tide, apply_ite State.tap, apply_ite State.pending]; done)
    | ((repeat' split) <;> (first | (simp [apply_ite State.clk, apply_ite State.pwr, apply_ite State.boot, apply_ite State.par, apply_ite State.sec, apply_ite State.bed, apply_ite State.integ, apply_ite State.tide, apply_ite State.tap, apply_ite State.pending]; done) | (simp_all [apply_ite State.clk, apply_ite State.pwr, apply_ite State.boot, apply_ite State.par, apply_ite State.sec, apply_ite State.bed, apply_ite State.integ, apply_ite State.tide, apply_ite State.tap, apply_ite State.pending]; done)))
    | (dsimp only; (repeat' apply And.intro) <;> (repeat' split) <;> (first | (simp [apply_ite State.clk, apply_ite State.pwr, apply_ite State.boot, apply_ite State.par, apply_ite State.sec, apply_ite State.bed, apply_ite State.integ, apply_ite State.tide, apply_ite State.tap, apply_ite State.pending]; done) | (simp_all [apply_ite State.clk, apply_ite State.pwr, apply_ite State.boot, apply_ite State.par, apply_ite State.sec, apply_ite State.bed, apply_ite State.integ, apply_ite State.tide, apply_ite State.tap, apply_ite State.pending]; done)))
@[simp] theorem frame_beachTick (s : State) :
    (beachTick s).clk = s.clk ∧ (beachTick s).boot = s.boot ∧ (beachTick s).dram = s.dram ∧ (beachTick s).pads = s.pads ∧ (beachTick s).integ = s.integ ∧ (beachTick s).tap = s.tap ∧ (beachTick s).pending = s.pending := by
  unfold beachTick
  first
    | (simp [apply_ite State.clk, apply_ite State.boot, apply_ite State.dram, apply_ite State.pads, apply_ite State.integ, apply_ite State.tap, apply_ite State.pending]; done)
    | ((repeat' split) <;> (first | (simp [apply_ite State.clk, apply_ite State.boot, apply_ite State.dram, apply_ite State.pads, apply_ite State.integ, apply_ite State.tap, apply_ite State.pending]; done) | (simp_all [apply_ite State.clk, apply_ite State.boot, apply_ite State.dram, apply_ite State.pads, apply_ite State.integ, apply_ite State.tap, apply_ite State.pending]; done)))
    | (dsimp only; (repeat' apply And.intro) <;> (repeat' split) <;> (first | (simp [apply_ite State.clk, apply_ite State.boot, apply_ite State.dram, apply_ite State.pads, apply_ite State.integ, apply_ite State.tap, apply_ite State.pending]; done) | (simp_all [apply_ite State.clk, apply_ite State.boot, apply_ite State.dram, apply_ite State.pads, apply_ite State.integ, apply_ite State.tap, apply_ite State.pending]; done)))
@[simp] theorem frame_addUnpowered (ns : Nat) (s : State) :
    (addUnpowered ns s).clk = s.clk ∧ (addUnpowered ns s).pwr = s.pwr ∧ (addUnpowered ns s).boot = s.boot ∧ (addUnpowered ns s).par = s.par ∧ (addUnpowered ns s).sec = s.sec ∧ (addUnpowered ns s).bed = s.bed ∧ (addUnpowered ns s).dram = s.dram ∧ (addUnpowered ns s).pads = s.pads ∧ (addUnpowered ns s).integ = s.integ ∧ (addUnpowered ns s).tide = s.tide ∧ (addUnpowered ns s).tap = s.tap ∧ (addUnpowered ns s).pending = s.pending := by
  unfold addUnpowered
  first
    | (simp [apply_ite State.clk, apply_ite State.pwr, apply_ite State.boot, apply_ite State.par, apply_ite State.sec, apply_ite State.bed, apply_ite State.dram, apply_ite State.pads, apply_ite State.integ, apply_ite State.tide, apply_ite State.tap, apply_ite State.pending]; done)
    | ((repeat' split) <;> (first | (simp [apply_ite State.clk, apply_ite State.pwr, apply_ite State.boot, apply_ite State.par, apply_ite State.sec, apply_ite State.bed, apply_ite State.dram, apply_ite State.pads, apply_ite State.integ, apply_ite State.tide, apply_ite State.tap, apply_ite State.pending]; done) | (simp_all [apply_ite State.clk, apply_ite State.pwr, apply_ite State.boot, apply_ite State.par, apply_ite State.sec, apply_ite State.bed, apply_ite State.dram, apply_ite State.pads, apply_ite State.integ, apply_ite State.tide, apply_ite State.tap, apply_ite State.pending]; done)))
    | (dsimp only; (repeat' apply And.intro) <;> (repeat' split) <;> (first | (simp [apply_ite State.clk, apply_ite State.pwr, apply_ite State.boot, apply_ite State.par, apply_ite State.sec, apply_ite State.bed, apply_ite State.dram, apply_ite State.pads, apply_ite State.integ, apply_ite State.tide, apply_ite State.tap, apply_ite State.pending]; done) | (simp_all [apply_ite State.clk, apply_ite State.pwr, apply_ite State.boot, apply_ite State.par, apply_ite State.sec, apply_ite State.bed, apply_ite State.dram, apply_ite State.pads, apply_ite State.integ, apply_ite State.tide, apply_ite State.tap, apply_ite State.pending]; done)))
@[simp] theorem frame_setParams (m : Mbx) (r : MbReq) (s : State) :
    (setParams m r s).clk = s.clk ∧ (setParams m r s).boot = s.boot ∧ (setParams m r s).dram = s.dram ∧ (setParams m r s).pads = s.pads ∧ (setParams m r s).integ = s.integ ∧ (setParams m r s).tap = s.tap ∧ (setParams m r s).pending = s.pending := by
  unfold setParams
  first
    | (simp [apply_ite State.clk, apply_ite State.boot, apply_ite State.dram, apply_ite State.pads, apply_ite State.integ, apply_ite State.tap, apply_ite State.pending]; done)
    | ((repeat' split) <;> (first | (simp [apply_ite State.clk, apply_ite State.boot, apply_ite State.dram, apply_ite State.pads, apply_ite State.integ, apply_ite State.tap, apply_ite State.pending]; done) | (simp_all [apply_ite State.clk, apply_ite State.boot, apply_ite State.dram, apply_ite State.pads, apply_ite State.integ, apply_ite State.tap, apply_ite State.pending]; done)))
    | (dsimp only; (repeat' apply And.intro) <;> (repeat' split) <;> (first | (simp [apply_ite State.clk, apply_ite State.boot, apply_ite State.dram, apply_ite State.pads, apply_ite State.integ, apply_ite State.tap, apply_ite State.pending]; done) | (simp_all [apply_ite State.clk, apply_ite State.boot, apply_ite State.dram, apply_ite State.pads, apply_ite State.integ, apply_ite State.tap, apply_ite State.pending]; done)))
@[simp] theorem frame_onLoop (n : Nat) (f : Loop → Loop) (s : State) :
    (State.onLoop n f s).clk = s.clk ∧ (State.onLoop n f s).pwr = s.pwr ∧ (State.onLoop n f s).boot = s.boot ∧ (State.onLoop n f s).par = s.par ∧ (State.onLoop n f s).sec = s.sec ∧ (State.onLoop n f s).bed = s.bed ∧ (State.onLoop n f s).dram = s.dram ∧ (State.onLoop n f s).pads = s.pads ∧ (State.onLoop n f s).integ = s.integ ∧ (State.onLoop n f s).tap = s.tap ∧ (State.onLoop n f s).pending = s.pending := by
  unfold State.onLoop
  first
    | (simp [apply_ite State.clk, apply_ite State.pwr, apply_ite State.boot, apply_ite State.par, apply_ite State.sec, apply_ite State.bed, apply_ite State.dram, apply_ite State.pads, apply_ite State.integ, apply_ite State.tap, apply_ite State.pending]; done)
    | ((repeat' split) <;> (first | (simp [apply_ite State.clk, apply_ite State.pwr, apply_ite State.boot, apply_ite State.par, apply_ite State.sec, apply_ite State.bed, apply_ite State.dram, apply_ite State.pads, apply_ite State.integ, apply_ite State.tap, apply_ite State.pending]; done) | (simp_all [apply_ite State.clk, apply_ite State.pwr, apply_ite State.boot, apply_ite State.par, apply_ite State.sec, apply_ite State.bed, apply_ite State.dram, apply_ite State.pads, apply_ite State.integ, apply_ite State.tap, apply_ite State.pending]; done)))
    | (dsimp only; (repeat' apply And.intro) <;> (repeat' split) <;> (first | (simp [apply_ite State.clk, apply_ite State.pwr, apply_ite State.boot, apply_ite State.par, apply_ite State.sec, apply_ite State.bed, apply_ite State.dram, apply_ite State.pads, apply_ite State.integ, apply_ite State.tap, apply_ite State.pending]; done) | (simp_all [apply_ite State.clk, apply_ite State.pwr, apply_ite State.boot, apply_ite State.par, apply_ite State.sec, apply_ite State.bed, apply_ite State.dram, apply_ite State.pads, apply_ite State.integ, apply_ite State.tap, apply_ite State.pending]; done)))
@[simp] theorem frame_noteZone (z : Nat) (s : State) :
    (noteZone z s).clk = s.clk ∧ (noteZone z s).pwr = s.pwr ∧ (noteZone z s).boot = s.boot ∧ (noteZone z s).par = s.par ∧ (noteZone z s).sec = s.sec ∧ (noteZone z s).bed = s.bed ∧ (noteZone z s).dram = s.dram ∧ (noteZone z s).pads = s.pads ∧ (noteZone z s).integ = s.integ ∧ (noteZone z s).tap = s.tap ∧ (noteZone z s).pending = s.pending := by
  unfold noteZone
  first
    | (simp [apply_ite State.clk, apply_ite State.pwr, apply_ite State.boot, apply_ite State.par, apply_ite State.sec, apply_ite State.bed, apply_ite State.dram, apply_ite State.pads, apply_ite State.integ, apply_ite State.tap, apply_ite State.pending]; done)
    | ((repeat' split) <;> (first | (simp [apply_ite State.clk, apply_ite State.pwr, apply_ite State.boot, apply_ite State.par, apply_ite State.sec, apply_ite State.bed, apply_ite State.dram, apply_ite State.pads, apply_ite State.integ, apply_ite State.tap, apply_ite State.pending]; done) | (simp_all [apply_ite State.clk, apply_ite State.pwr, apply_ite State.boot, apply_ite State.par, apply_ite State.sec, apply_ite State.bed, apply_ite State.dram, apply_ite State.pads, apply_ite State.integ, apply_ite State.tap, apply_ite State.pending]; done)))
    | (dsimp only; (repeat' apply And.intro) <;> (repeat' split) <;> (first | (simp [apply_ite State.clk, apply_ite State.pwr, apply_ite State.boot, apply_ite State.par, apply_ite State.sec, apply_ite State.bed, apply_ite State.dram, apply_ite State.pads, apply_ite State.integ, apply_ite State.tap, apply_ite State.pending]; done) | (simp_all [apply_ite State.clk, apply_ite State.pwr, apply_ite State.boot, apply_ite State.par, apply_ite State.sec, apply_ite State.bed, apply_ite State.dram, apply_ite State.pads, apply_ite State.integ, apply_ite State.tap, apply_ite State.pending]; done)))
@[simp] theorem frame_applyOutputs (s : State) :
    (applyOutputs s).clk = s.clk ∧ (applyOutputs s).pwr = s.pwr ∧ (applyOutputs s).boot = s.boot ∧ (applyOutputs s).par = s.par ∧ (applyOutputs s).sec = s.sec ∧ (applyOutputs s).bed = s.bed ∧ (applyOutputs s).dram = s.dram ∧ (applyOutputs s).pads = s.pads ∧ (applyOutputs s).integ = s.integ ∧ (applyOutputs s).tap = s.tap ∧ (applyOutputs s).pending = s.pending := by
  unfold applyOutputs
  first
    | (simp [apply_ite State.clk, apply_ite State.pwr, apply_ite State.boot, apply_ite State.par, apply_ite State.sec, apply_ite State.bed, apply_ite State.dram, apply_ite State.pads, apply_ite State.integ, apply_ite State.tap, apply_ite State.pending]; done)
    | ((repeat' split) <;> (first | (simp [apply_ite State.clk, apply_ite State.pwr, apply_ite State.boot, apply_ite State.par, apply_ite State.sec, apply_ite State.bed, apply_ite State.dram, apply_ite State.pads, apply_ite State.integ, apply_ite State.tap, apply_ite State.pending]; done) | (simp_all [apply_ite State.clk, apply_ite State.pwr, apply_ite State.boot, apply_ite State.par, apply_ite State.sec, apply_ite State.bed, apply_ite State.dram, apply_ite State.pads, apply_ite State.integ, apply_ite State.tap, apply_ite State.pending]; done)))
    | (dsimp only; (repeat' apply And.intro) <;> (repeat' split) <;> (first | (simp [apply_ite State.clk, apply_ite State.pwr, apply_ite State.boot, apply_ite State.par, apply_ite State.sec, apply_ite State.bed, apply_ite State.dram, apply_ite State.pads, apply_ite State.integ, apply_ite State.tap, apply_ite State.pending]; done) | (simp_all [apply_ite State.clk, apply_ite State.pwr, apply_ite State.boot, apply_ite State.par, apply_ite State.sec, apply_ite State.bed, apply_ite State.dram, apply_ite State.pads, apply_ite State.integ, apply_ite State.tap, apply_ite State.pending]; done)))
@[simp] theorem frame_traceAll (n : Nat) (x : Sample) (s : State) :
    (traceAll n x s).clk = s.clk ∧ (traceAll n x s).pwr = s.pwr ∧ (traceAll n x s).boot = s.boot ∧ (traceAll n x s).par = s.par ∧ (traceAll n x s).sec = s.sec ∧ (traceAll n x s).bed = s.bed ∧ (traceAll n x s).dram = s.dram ∧ (traceAll n x s).pads = s.pads ∧ (traceAll n x s).integ = s.integ ∧ (traceAll n x s).tap = s.tap ∧ (traceAll n x s).pending = s.pending := by
  unfold traceAll
  first
    | (simp [apply_ite State.clk, apply_ite State.pwr, apply_ite State.boot, apply_ite State.par, apply_ite State.sec, apply_ite State.bed, apply_ite State.dram, apply_ite State.pads, apply_ite State.integ, apply_ite State.tap, apply_ite State.pending]; done)
    | ((repeat' split) <;> (first | (simp [apply_ite State.clk, apply_ite State.pwr, apply_ite State.boot, apply_ite State.par, apply_ite State.sec, apply_ite State.bed, apply_ite State.dram, apply_ite State.pads, apply_ite State.integ, apply_ite State.tap, apply_ite State.pending]; done) | (simp_all [apply_ite State.clk, apply_ite State.pwr, apply_ite State.boot, apply_ite State.par, apply_ite State.sec, apply_ite State.bed, apply_ite State.dram, apply_ite State.pads, apply_ite State.integ, apply_ite State.tap, apply_ite State.pending]; done)))
    | (dsimp only; (repeat' apply And.intro) <;> (repeat' split) <;> (first | (simp [apply_ite State.clk, apply_ite State.pwr, apply_ite State.boot, apply_ite State.par, apply_ite State.sec, apply_ite State.bed, apply_ite State.dram, apply_ite State.pads, apply_ite State.integ, apply_ite State.tap, apply_ite State.pending]; done) | (simp_all [apply_ite State.clk, apply_ite State.pwr, apply_ite State.boot, apply_ite State.par, apply_ite State.sec, apply_ite State.bed, apply_ite State.dram, apply_ite State.pads, apply_ite State.integ, apply_ite State.tap, apply_ite State.pending]; done)))
@[simp] theorem frame_noteSkips (n k : Nat) (s : State) :
    (noteSkips n k s).clk = s.clk ∧ (noteSkips n k s).pwr = s.pwr ∧ (noteSkips n k s).boot = s.boot ∧ (noteSkips n k s).par = s.par ∧ (noteSkips n k s).sec = s.sec ∧ (noteSkips n k s).bed = s.bed ∧ (noteSkips n k s).dram = s.dram ∧ (noteSkips n k s).pads = s.pads ∧ (noteSkips n k s).integ = s.integ ∧ (noteSkips n k s).tap = s.tap ∧ (noteSkips n k s).pending = s.pending := by
  unfold noteSkips
  first
    | (simp [apply_ite State.clk, apply_ite State.pwr, apply_ite State.boot, apply_ite State.par, apply_ite State.sec, apply_ite State.bed, apply_ite State.dram, apply_ite State.pads, apply_ite State.integ, apply_ite State.tap, apply_ite State.pending]; done)
    | ((repeat' split) <;> (first | (simp [apply_ite State.clk, apply_ite State.pwr, apply_ite State.boot, apply_ite State.par, apply_ite State.sec, apply_ite State.bed, apply_ite State.dram, apply_ite State.pads, apply_ite State.integ, apply_ite State.tap, apply_ite State.pending]; done) | (simp_all [apply_ite State.clk, apply_ite State.pwr, apply_ite State.boot, apply_ite State.par, apply_ite State.sec, apply_ite State.bed, apply_ite State.dram, apply_ite State.pads, apply_ite State.integ, apply_ite State.tap, apply_ite State.pending]; done)))
    | (dsimp only; (repeat' apply And.intro) <;> (repeat' split) <;> (first | (simp [apply_ite State.clk, apply_ite State.pwr, apply_ite State.boot, apply_ite State.par, apply_ite State.sec, apply_ite State.bed, apply_ite State.dram, apply_ite State.pads, apply_ite State.integ, apply_ite State.tap, apply_ite State.pending]; done) | (simp_all [apply_ite State.clk, apply_ite State.pwr, apply_ite State.boot, apply_ite State.par, apply_ite State.sec, apply_ite State.bed, apply_ite State.dram, apply_ite State.pads, apply_ite State.integ, apply_ite State.tap, apply_ite State.pending]; done)))
@[simp] theorem frame_sampleLoop (n : Nat) (pv : Option Int) (s : State) :
    (sampleLoop n pv s).clk = s.clk ∧ (sampleLoop n pv s).pwr = s.pwr ∧ (sampleLoop n pv s).boot = s.boot ∧ (sampleLoop n pv s).par = s.par ∧ (sampleLoop n pv s).sec = s.sec ∧ (sampleLoop n pv s).bed = s.bed ∧ (sampleLoop n pv s).dram = s.dram ∧ (sampleLoop n pv s).pads = s.pads ∧ (sampleLoop n pv s).integ = s.integ ∧ (sampleLoop n pv s).tap = s.tap ∧ (sampleLoop n pv s).pending = s.pending := by
  unfold sampleLoop
  first
    | (simp [apply_ite State.clk, apply_ite State.pwr, apply_ite State.boot, apply_ite State.par, apply_ite State.sec, apply_ite State.bed, apply_ite State.dram, apply_ite State.pads, apply_ite State.integ, apply_ite State.tap, apply_ite State.pending]; done)
    | ((repeat' split) <;> (first | (simp [apply_ite State.clk, apply_ite State.pwr, apply_ite State.boot, apply_ite State.par, apply_ite State.sec, apply_ite State.bed, apply_ite State.dram, apply_ite State.pads, apply_ite State.integ, apply_ite State.tap, apply_ite State.pending]; done) | (simp_all [apply_ite State.clk, apply_ite State.pwr, apply_ite State.boot, apply_ite State.par, apply_ite State.sec, apply_ite State.bed, apply_ite State.dram, apply_ite State.pads, apply_ite State.integ, apply_ite State.tap, apply_ite State.pending]; done)))
    | (dsimp only; (repeat' apply And.intro) <;> (repeat' split) <;> (first | (simp [apply_ite State.clk, apply_ite State.pwr, apply_ite State.boot, apply_ite State.par, apply_ite State.sec, apply_ite State.bed, apply_ite State.dram, apply_ite State.pads, apply_ite State.integ, apply_ite State.tap, apply_ite State.pending]; done) | (simp_all [apply_ite State.clk, apply_ite State.pwr, apply_ite State.boot, apply_ite State.par, apply_ite State.sec, apply_ite State.bed, apply_ite State.dram, apply_ite State.pads, apply_ite State.integ, apply_ite State.tap, apply_ite State.pending]; done)))
@[simp] theorem frame_answerLoop (m : Mbx) (n : Nat) (s : State) :
    (answerLoop m n s).clk = s.clk ∧ (answerLoop m n s).pwr = s.pwr ∧ (answerLoop m n s).boot = s.boot ∧ (answerLoop m n s).par = s.par ∧ (answerLoop m n s).sec = s.sec ∧ (answerLoop m n s).bed = s.bed ∧ (answerLoop m n s).dram = s.dram ∧ (answerLoop m n s).pads = s.pads ∧ (answerLoop m n s).integ = s.integ ∧ (answerLoop m n s).tide = s.tide ∧ (answerLoop m n s).tap = s.tap ∧ (answerLoop m n s).pending = s.pending := by
  unfold answerLoop
  first
    | (simp [apply_ite State.clk, apply_ite State.pwr, apply_ite State.boot, apply_ite State.par, apply_ite State.sec, apply_ite State.bed, apply_ite State.dram, apply_ite State.pads, apply_ite State.integ, apply_ite State.tide, apply_ite State.tap, apply_ite State.pending]; done)
    | ((repeat' split) <;> (first | (simp [apply_ite State.clk, apply_ite State.pwr, apply_ite State.boot, apply_ite State.par, apply_ite State.sec, apply_ite State.bed, apply_ite State.dram, apply_ite State.pads, apply_ite State.integ, apply_ite State.tide, apply_ite State.tap, apply_ite State.pending]; done) | (simp_all [apply_ite State.clk, apply_ite State.pwr, apply_ite State.boot, apply_ite State.par, apply_ite State.sec, apply_ite State.bed, apply_ite State.dram, apply_ite State.pads, apply_ite State.integ, apply_ite State.tide, apply_ite State.tap, apply_ite State.pending]; done)))
    | (dsimp only; (repeat' apply And.intro) <;> (repeat' split) <;> (first | (simp [apply_ite State.clk, apply_ite State.pwr, apply_ite State.boot, apply_ite State.par, apply_ite State.sec, apply_ite State.bed, apply_ite State.dram, apply_ite State.pads, apply_ite State.integ, apply_ite State.tide, apply_ite State.tap, apply_ite State.pending]; done) | (simp_all [apply_ite State.clk, apply_ite State.pwr, apply_ite State.boot, apply_ite State.par, apply_ite State.sec, apply_ite State.bed, apply_ite State.dram, apply_ite State.pads, apply_ite State.integ, apply_ite State.tide, apply_ite State.tap, apply_ite State.pending]; done)))
@[simp] theorem frame_placeKey (m : Mbx) (n : Nat) (key : List Byte) (usage : Nat) (wide persist drawn : Bool) (s : State) :
    (placeKey m n key usage wide persist drawn s).clk = s.clk ∧ (placeKey m n key usage wide persist drawn s).pwr = s.pwr ∧ (placeKey m n key usage wide persist drawn s).boot = s.boot ∧ (placeKey m n key usage wide persist drawn s).par = s.par ∧ (placeKey m n key usage wide persist drawn s).dram = s.dram ∧ (placeKey m n key usage wide persist drawn s).pads = s.pads ∧ (placeKey m n key usage wide persist drawn s).integ = s.integ ∧ (placeKey m n key usage wide persist drawn s).tide = s.tide ∧ (placeKey m n key usage wide persist drawn s).tap = s.tap ∧ (placeKey m n key usage wide persist drawn s).pending = s.pending := by
  unfold placeKey
  first
    | (simp [apply_ite State.clk, apply_ite State.pwr, apply_ite State.boot, apply_ite State.par, apply_ite State.dram, apply_ite State.pads, apply_ite State.integ, apply_ite State.tide, apply_ite State.tap, apply_ite State.pending]; done)
    | ((repeat' split) <;> (first | (simp [apply_ite State.clk, apply_ite State.pwr, apply_ite State.boot, apply_ite State.par, apply_ite State.dram, apply_ite State.pads, apply_ite State.integ, apply_ite State.tide, apply_ite State.tap, apply_ite State.pending]; done) | (simp_all [apply_ite State.clk, apply_ite State.pwr, apply_ite State.boot, apply_ite State.par, apply_ite State.dram, apply_ite State.pads, apply_ite State.integ, apply_ite State.tide, apply_ite State.tap, apply_ite State.pending]; done)))
    | (dsimp only; (repeat' apply And.intro) <;> (repeat' split) <;> (first | (simp [apply_ite State.clk, apply_ite State.pwr, apply_ite State.boot, apply_ite State.par, apply_ite State.dram, apply_ite State.pads, apply_ite State.integ, apply_ite State.tide, apply_ite State.tap, apply_ite State.pending]; done) | (simp_all [apply_ite State.clk, apply_ite State.pwr, apply_ite State.boot, apply_ite State.par, apply_ite State.dram, apply_ite State.pads, apply_ite State.integ, apply_ite State.tide, apply_ite State.tap, apply_ite State.pending]; done)))
@[simp] theorem frame_loadKey (m : Mbx) (p : List Byte) (s : State) :
    (loadKey m p s).clk = s.clk ∧ (loadKey m p s).pwr = s.pwr ∧ (loadKey m p s).boot = s.boot ∧ (loadKey m p s).par = s.par ∧ (loadKey m p s).dram = s.dram ∧ (loadKey m p s).pads = s.pads ∧ (loadKey m p s).integ = s.integ ∧ (loadKey m p s).tide = s.tide ∧ (loadKey m p s).tap = s.tap ∧ (loadKey m p s).pending = s.pending := by
  unfold loadKey
  dsimp only
  generalize (if fieldAt p 2 1 = 2 then _ else _ : Option (List Byte)) = g
  generalize h : (if fieldAt p 2 1 = 0 then drbg _ s else _) = k
  have hk : k.2.clk = s.clk ∧ k.2.pwr = s.pwr ∧ k.2.boot = s.boot ∧ k.2.par = s.par ∧ k.2.dram = s.dram ∧ k.2.pads = s.pads ∧ k.2.integ = s.integ ∧ k.2.tide = s.tide ∧ k.2.tap = s.tap ∧ k.2.pending = s.pending := by
    rw [← h]; split <;> simp [drbg]
  (repeat' apply And.intro) <;> simp only [apply_ite State.clk, apply_ite State.pwr, apply_ite State.boot, apply_ite State.par, apply_ite State.dram, apply_ite State.pads, apply_ite State.integ, apply_ite State.tide, apply_ite State.tap, apply_ite State.pending, frame_placeKey, frame_deny, hk, ite_self]
@[simp] theorem frame_onPad (n : Nat) (f : Pad → Pad) (s : State) :
    (State.onPad n f s).clk = s.clk ∧ (State.onPad n f s).pwr = s.pwr ∧ (State.onPad n f s).boot = s.boot ∧ (State.onPad n f s).par = s.par ∧ (State.onPad n f s).sec = s.sec ∧ (State.onPad n f s).bed = s.bed ∧ (State.onPad n f s).dram = s.dram ∧ (State.onPad n f s).integ = s.integ ∧ (State.onPad n f s).tide = s.tide ∧ (State.onPad n f s).tap = s.tap ∧ (State.onPad n f s).pending = s.pending := by
  unfold State.onPad
  first
    | (simp [apply_ite State.clk, apply_ite State.pwr, apply_ite State.boot, apply_ite State.par, apply_ite State.sec, apply_ite State.bed, apply_ite State.dram, apply_ite State.integ, apply_ite State.tide, apply_ite State.tap, apply_ite State.pending]; done)
    | ((repeat' split) <;> (first | (simp [apply_ite State.clk, apply_ite State.pwr, apply_ite State.boot, apply_ite State.par, apply_ite State.sec, apply_ite State.bed, apply_ite State.dram, apply_ite State.integ, apply_ite State.tide, apply_ite State.tap, apply_ite State.pending]; done) | (simp_all [apply_ite State.clk, apply_ite State.pwr, apply_ite State.boot, apply_ite State.par, apply_ite State.sec, apply_ite State.bed, apply_ite State.dram, apply_ite State.integ, apply_ite State.tide, apply_ite State.tap, apply_ite State.pending]; done)))
    | (dsimp only; (repeat' apply And.intro) <;> (repeat' split) <;> (first | (simp [apply_ite State.clk, apply_ite State.pwr, apply_ite State.boot, apply_ite State.par, apply_ite State.sec, apply_ite State.bed, apply_ite State.dram, apply_ite State.integ, apply_ite State.tide, apply_ite State.tap, apply_ite State.pending]; done) | (simp_all [apply_ite State.clk, apply_ite State.pwr, apply_ite State.boot, apply_ite State.par, apply_ite State.sec, apply_ite State.bed, apply_ite State.dram, apply_ite State.integ, apply_ite State.tide, apply_ite State.tap, apply_ite State.pending]; done)))
@[simp] theorem frame_padAction (region : PadRegion) (s : State) :
    (padAction region s).clk = s.clk ∧ (padAction region s).dram = s.dram ∧ (padAction region s).pads = s.pads ∧ (padAction region s).tap = s.tap ∧ (padAction region s).pending = s.pending := by
  unfold padAction
  first
    | (simp [apply_ite State.clk, apply_ite State.dram, apply_ite State.pads, apply_ite State.tap, apply_ite State.pending]; done)
    | ((repeat' split) <;> (first | (simp [apply_ite State.clk, apply_ite State.dram, apply_ite State.pads, apply_ite State.tap, apply_ite State.pending]; done) | (simp_all [apply_ite State.clk, apply_ite State.dram, apply_ite State.pads, apply_ite State.tap, apply_ite State.pending]; done)))
    | (dsimp only; (repeat' apply And.intro) <;> (repeat' split) <;> (first | (simp [apply_ite State.clk, apply_ite State.dram, apply_ite State.pads, apply_ite State.tap, apply_ite State.pending]; done) | (simp_all [apply_ite State.clk, apply_ite State.dram, apply_ite State.pads, apply_ite State.tap, apply_ite State.pending]; done)))
@[simp] theorem frame_moveBank (n : Nat) (o : Owner) (s : State) :
    (moveBank n o s).clk = s.clk ∧ (moveBank n o s).pwr = s.pwr ∧ (moveBank n o s).boot = s.boot ∧ (moveBank n o s).par = s.par ∧ (moveBank n o s).sec = s.sec ∧ (moveBank n o s).bed = s.bed ∧ (moveBank n o s).dram = s.dram ∧ (moveBank n o s).integ = s.integ ∧ (moveBank n o s).tide = s.tide ∧ (moveBank n o s).tap = s.tap ∧ (moveBank n o s).pending = s.pending := by
  unfold moveBank
  first
    | (simp [apply_ite State.clk, apply_ite State.pwr, apply_ite State.boot, apply_ite State.par, apply_ite State.sec, apply_ite State.bed, apply_ite State.dram, apply_ite State.integ, apply_ite State.tide, apply_ite State.tap, apply_ite State.pending]; done)
    | ((repeat' split) <;> (first | (simp [apply_ite State.clk, apply_ite State.pwr, apply_ite State.boot, apply_ite State.par, apply_ite State.sec, apply_ite State.bed, apply_ite State.dram, apply_ite State.integ, apply_ite State.tide, apply_ite State.tap, apply_ite State.pending]; done) | (simp_all [apply_ite State.clk, apply_ite State.pwr, apply_ite State.boot, apply_ite State.par, apply_ite State.sec, apply_ite State.bed, apply_ite State.dram, apply_ite State.integ, apply_ite State.tide, apply_ite State.tap, apply_ite State.pending]; done)))
    | (dsimp only; (repeat' apply And.intro) <;> (repeat' split) <;> (first | (simp [apply_ite State.clk, apply_ite State.pwr, apply_ite State.boot, apply_ite State.par, apply_ite State.sec, apply_ite State.bed, apply_ite State.dram, apply_ite State.integ, apply_ite State.tide, apply_ite State.tap, apply_ite State.pending]; done) | (simp_all [apply_ite State.clk, apply_ite State.pwr, apply_ite State.boot, apply_ite State.par, apply_ite State.sec, apply_ite State.bed, apply_ite State.dram, apply_ite State.integ, apply_ite State.tide, apply_ite State.tap, apply_ite State.pending]; done)))
@[simp] theorem frame_loseVin (s : State) :
    (loseVin s).par = s.par ∧ (loseVin s).pending = s.pending := by
  unfold loseVin
  first
    | (simp [apply_ite State.par, apply_ite State.pending]; done)
    | ((repeat' split) <;> (first | (simp [apply_ite State.par, apply_ite State.pending]; done) | (simp_all [apply_ite State.par, apply_ite State.pending]; done)))
    | (dsimp only; (repeat' apply And.intro) <;> (repeat' split) <;> (first | (simp [apply_ite State.par, apply_ite State.pending]; done) | (simp_all [apply_ite State.par, apply_ite State.pending]; done)))
@[simp] theorem frame_mendBedrock (s : State) :
    (mendBedrock s).clk = s.clk ∧ (mendBedrock s).pwr = s.pwr ∧ (mendBedrock s).boot = s.boot ∧ (mendBedrock s).par = s.par ∧ (mendBedrock s).sec = s.sec ∧ (mendBedrock s).dram = s.dram ∧ (mendBedrock s).pads = s.pads ∧ (mendBedrock s).integ = s.integ ∧ (mendBedrock s).tide = s.tide ∧ (mendBedrock s).tap = s.tap ∧ (mendBedrock s).pending = s.pending := by
  unfold mendBedrock
  first
    | (simp [apply_ite State.clk, apply_ite State.pwr, apply_ite State.boot, apply_ite State.par, apply_ite State.sec, apply_ite State.dram, apply_ite State.pads, apply_ite State.integ, apply_ite State.tide, apply_ite State.tap, apply_ite State.pending]; done)
    | ((repeat' split) <;> (first | (simp [apply_ite State.clk, apply_ite State.pwr, apply_ite State.boot, apply_ite State.par, apply_ite State.sec, apply_ite State.dram, apply_ite State.pads, apply_ite State.integ, apply_ite State.tide, apply_ite State.tap, apply_ite State.pending]; done) | (simp_all [apply_ite State.clk, apply_ite State.pwr, apply_ite State.boot, apply_ite State.par, apply_ite State.sec, apply_ite State.dram, apply_ite State.pads, apply_ite State.integ, apply_ite State.tide, apply_ite State.tap, apply_ite State.pending]; done)))
    | (dsimp only; (repeat' apply And.intro) <;> (repeat' split) <;> (first | (simp [apply_ite State.clk, apply_ite State.pwr, apply_ite State.boot, apply_ite State.par, apply_ite State.sec, apply_ite State.dram, apply_ite State.pads, apply_ite State.integ, apply_ite State.tide, apply_ite State.tap, apply_ite State.pending]; done) | (simp_all [apply_ite State.clk, apply_ite State.pwr, apply_ite State.boot, apply_ite State.par, apply_ite State.sec, apply_ite State.dram, apply_ite State.pads, apply_ite State.integ, apply_ite State.tide, apply_ite State.tap, apply_ite State.pending]; done)))
@[simp] theorem frame_setGate (on : Bool) (s : State) :
    (setGate on s).clk = s.clk ∧ (setGate on s).boot = s.boot ∧ (setGate on s).par = s.par ∧ (setGate on s).sec = s.sec ∧ (setGate on s).bed = s.bed ∧ (setGate on s).dram = s.dram ∧ (setGate on s).pads = s.pads ∧ (setGate on s).integ = s.integ ∧ (setGate on s).tide = s.tide ∧ (setGate on s).tap = s.tap ∧ (setGate on s).pending = s.pending := by
  unfold setGate
  first
    | (simp [apply_ite State.clk, apply_ite State.boot, apply_ite State.par, apply_ite State.sec, apply_ite State.bed, apply_ite State.dram, apply_ite State.pads, apply_ite State.integ, apply_ite State.tide, apply_ite State.tap, apply_ite State.pending]; done)
    | ((repeat' split) <;> (first | (simp [apply_ite State.clk, apply_ite State.boot, apply_ite State.par, apply_ite State.sec, apply_ite State.bed, apply_ite State.dram, apply_ite State.pads, apply_ite State.integ, apply_ite State.tide, apply_ite State.tap, apply_ite State.pending]; done) | (simp_all [apply_ite State.clk, apply_ite State.boot, apply_ite State.par, apply_ite State.sec, apply_ite State.bed, apply_ite State.dram, apply_ite State.pads, apply_ite State.integ, apply_ite State.tide, apply_ite State.tap, apply_ite State.pending]; done)))
    | (dsimp only; (repeat' apply And.intro) <;> (repeat' split) <;> (first | (simp [apply_ite State.clk, apply_ite State.boot, apply_ite State.par, apply_ite State.sec, apply_ite State.bed, apply_ite State.dram, apply_ite State.pads, apply_ite State.integ, apply_ite State.tide, apply_ite State.tap, apply_ite State.pending]; done) | (simp_all [apply_ite State.clk, apply_ite State.boot, apply_ite State.par, apply_ite State.sec, apply_ite State.bed, apply_ite State.dram, apply_ite State.pads, apply_ite State.integ, apply_ite State.tide, apply_ite State.tap, apply_ite State.pending]; done)))
@[simp] theorem frame_busRise (busMv : Nat) (s : State) :
    (busRise busMv s).clk = s.clk ∧ (busRise busMv s).boot = s.boot ∧ (busRise busMv s).par = s.par ∧ (busRise busMv s).sec = s.sec ∧ (busRise busMv s).bed = s.bed ∧ (busRise busMv s).dram = s.dram ∧ (busRise busMv s).pads = s.pads ∧ (busRise busMv s).integ = s.integ ∧ (busRise busMv s).tide = s.tide ∧ (busRise busMv s).tap = s.tap ∧ (busRise busMv s).pending = s.pending := by
  unfold busRise
  first
    | (simp [apply_ite State.clk, apply_ite State.boot, apply_ite State.par, apply_ite State.sec, apply_ite State.bed, apply_ite State.dram, apply_ite State.pads, apply_ite State.integ, apply_ite State.tide, apply_ite State.tap, apply_ite State.pending]; done)
    | ((repeat' split) <;> (first | (simp [apply_ite State.clk, apply_ite State.boot, apply_ite State.par, apply_ite State.sec, apply_ite State.bed, apply_ite State.dram, apply_ite State.pads, apply_ite State.integ, apply_ite State.tide, apply_ite State.tap, apply_ite State.pending]; done) | (simp_all [apply_ite State.clk, apply_ite State.boot, apply_ite State.par, apply_ite State.sec, apply_ite State.bed, apply_ite State.dram, apply_ite State.pads, apply_ite State.integ, apply_ite State.tide, apply_ite State.tap, apply_ite State.pending]; done)))
    | (dsimp only; (repeat' apply And.intro) <;> (repeat' split) <;> (first | (simp [apply_ite State.clk, apply_ite State.boot, apply_ite State.par, apply_ite State.sec, apply_ite State.bed, apply_ite State.dram, apply_ite State.pads, apply_ite State.integ, apply_ite State.tide, apply_ite State.tap, apply_ite State.pending]; done) | (simp_all [apply_ite State.clk, apply_ite State.boot, apply_ite State.par, apply_ite State.sec, apply_ite State.bed, apply_ite State.dram, apply_ite State.pads, apply_ite State.integ, apply_ite State.tide, apply_ite State.tap, apply_ite State.pending]; done)))
@[simp] theorem frame_gateTrip (s : State) :
    (gateTrip s).clk = s.clk ∧ (gateTrip s).boot = s.boot ∧ (gateTrip s).par = s.par ∧ (gateTrip s).dram = s.dram ∧ (gateTrip s).pads = s.pads ∧ (gateTrip s).tide = s.tide ∧ (gateTrip s).tap = s.tap ∧ (gateTrip s).pending = s.pending := by
  unfold gateTrip
  first
    | (simp [apply_ite State.clk, apply_ite State.boot, apply_ite State.par, apply_ite State.dram, apply_ite State.pads, apply_ite State.tide, apply_ite State.tap, apply_ite State.pending]; done)
    | ((repeat' split) <;> (first | (simp [apply_ite State.clk, apply_ite State.boot, apply_ite State.par, apply_ite State.dram, apply_ite State.pads, apply_ite State.tide, apply_ite State.tap, apply_ite State.pending]; done) | (simp_all [apply_ite State.clk, apply_ite State.boot, apply_ite State.par, apply_ite State.dram, apply_ite State.pads, apply_ite State.tide, apply_ite State.tap, apply_ite State.pending]; done)))
    | (dsimp only; (repeat' apply And.intro) <;> (repeat' split) <;> (first | (simp [apply_ite State.clk, apply_ite State.boot, apply_ite State.par, apply_ite State.dram, apply_ite State.pads, apply_ite State.tide, apply_ite State.tap, apply_ite State.pending]; done) | (simp_all [apply_ite State.clk, apply_ite State.boot, apply_ite State.par, apply_ite State.dram, apply_ite State.pads, apply_ite State.tide, apply_ite State.tap, apply_ite State.pending]; done)))
@[simp] theorem frame_breaker (which : Nat) (s : State) :
    (breaker which s).clk = s.clk ∧ (breaker which s).boot = s.boot ∧ (breaker which s).par = s.par ∧ (breaker which s).dram = s.dram ∧ (breaker which s).pads = s.pads ∧ (breaker which s).tide = s.tide ∧ (breaker which s).tap = s.tap ∧ (breaker which s).pending = s.pending := by
  unfold breaker
  first
    | (simp [apply_ite State.clk, apply_ite State.boot, apply_ite State.par, apply_ite State.dram, apply_ite State.pads, apply_ite State.tide, apply_ite State.tap, apply_ite State.pending]; done)
    | ((repeat' split) <;> (first | (simp [apply_ite State.clk, apply_ite State.boot, apply_ite State.par, apply_ite State.dram, apply_ite State.pads, apply_ite State.tide, apply_ite State.tap, apply_ite State.pending]; done) | (simp_all [apply_ite State.clk, apply_ite State.boot, apply_ite State.par, apply_ite State.dram, apply_ite State.pads, apply_ite State.tide, apply_ite State.tap, apply_ite State.pending]; done)))
    | (dsimp only; (repeat' apply And.intro) <;> (repeat' split) <;> (first | (simp [apply_ite State.clk, apply_ite State.boot, apply_ite State.par, apply_ite State.dram, apply_ite State.pads, apply_ite State.tide, apply_ite State.tap, apply_ite State.pending]; done) | (simp_all [apply_ite State.clk, apply_ite State.boot, apply_ite State.par, apply_ite State.dram, apply_ite State.pads, apply_ite State.tide, apply_ite State.tap, apply_ite State.pending]; done)))
@[simp] theorem frame_supplyStart (f : StartFacts) (s : State) :
    (supplyStart f s).clk = s.clk ∧ (supplyStart f s).dram = s.dram ∧ (supplyStart f s).integ = s.integ ∧ (supplyStart f s).tap = s.tap ∧ (supplyStart f s).pending = s.pending := by
  unfold supplyStart
  first
    | (simp [apply_ite State.clk, apply_ite State.dram, apply_ite State.integ, apply_ite State.tap, apply_ite State.pending]; done)
    | ((repeat' split) <;> (first | (simp [apply_ite State.clk, apply_ite State.dram, apply_ite State.integ, apply_ite State.tap, apply_ite State.pending]; done) | (simp_all [apply_ite State.clk, apply_ite State.dram, apply_ite State.integ, apply_ite State.tap, apply_ite State.pending]; done)))
    | (dsimp only; (repeat' apply And.intro) <;> (repeat' split) <;> (first | (simp [apply_ite State.clk, apply_ite State.dram, apply_ite State.integ, apply_ite State.tap, apply_ite State.pending]; done) | (simp_all [apply_ite State.clk, apply_ite State.dram, apply_ite State.integ, apply_ite State.tap, apply_ite State.pending]; done)))
@[simp] theorem frame_heldStart (f : StartFacts) (s : State) :
    (heldStart f s).clk = s.clk ∧ (heldStart f s).dram = s.dram ∧ (heldStart f s).integ = s.integ ∧ (heldStart f s).tap = s.tap ∧ (heldStart f s).pending = s.pending := by
  unfold heldStart
  first
    | (simp [apply_ite State.clk, apply_ite State.dram, apply_ite State.integ, apply_ite State.tap, apply_ite State.pending]; done)
    | ((repeat' split) <;> (first | (simp [apply_ite State.clk, apply_ite State.dram, apply_ite State.integ, apply_ite State.tap, apply_ite State.pending]; done) | (simp_all [apply_ite State.clk, apply_ite State.dram, apply_ite State.integ, apply_ite State.tap, apply_ite State.pending]; done)))
    | (dsimp only; (repeat' apply And.intro) <;> (repeat' split) <;> (first | (simp [apply_ite State.clk, apply_ite State.dram, apply_ite State.integ, apply_ite State.tap, apply_ite State.pending]; done) | (simp_all [apply_ite State.clk, apply_ite State.dram, apply_ite State.integ, apply_ite State.tap, apply_ite State.pending]; done)))
@[simp] theorem frame_noteFault (s : State) :
    (noteFault s).clk = s.clk ∧ (noteFault s).boot = s.boot ∧ (noteFault s).par = s.par ∧ (noteFault s).sec = s.sec ∧ (noteFault s).bed = s.bed ∧ (noteFault s).dram = s.dram ∧ (noteFault s).pads = s.pads ∧ (noteFault s).integ = s.integ ∧ (noteFault s).tide = s.tide ∧ (noteFault s).tap = s.tap ∧ (noteFault s).pending = s.pending := by
  unfold noteFault
  first
    | (simp [apply_ite State.clk, apply_ite State.boot, apply_ite State.par, apply_ite State.sec, apply_ite State.bed, apply_ite State.dram, apply_ite State.pads, apply_ite State.integ, apply_ite State.tide, apply_ite State.tap, apply_ite State.pending]; done)
    | ((repeat' split) <;> (first | (simp [apply_ite State.clk, apply_ite State.boot, apply_ite State.par, apply_ite State.sec, apply_ite State.bed, apply_ite State.dram, apply_ite State.pads, apply_ite State.integ, apply_ite State.tide, apply_ite State.tap, apply_ite State.pending]; done) | (simp_all [apply_ite State.clk, apply_ite State.boot, apply_ite State.par, apply_ite State.sec, apply_ite State.bed, apply_ite State.dram, apply_ite State.pads, apply_ite State.integ, apply_ite State.tide, apply_ite State.tap, apply_ite State.pending]; done)))
    | (dsimp only; (repeat' apply And.intro) <;> (repeat' split) <;> (first | (simp [apply_ite State.clk, apply_ite State.boot, apply_ite State.par, apply_ite State.sec, apply_ite State.bed, apply_ite State.dram, apply_ite State.pads, apply_ite State.integ, apply_ite State.tide, apply_ite State.tap, apply_ite State.pending]; done) | (simp_all [apply_ite State.clk, apply_ite State.boot, apply_ite State.par, apply_ite State.sec, apply_ite State.bed, apply_ite State.dram, apply_ite State.pads, apply_ite State.integ, apply_ite State.tide, apply_ite State.tap, apply_ite State.pending]; done)))
@[simp] theorem frame_enterEbb (s : State) :
    (enterEbb s).par = s.par ∧ (enterEbb s).tap = s.tap ∧ (enterEbb s).pending = s.pending := by
  unfold enterEbb
  first
    | (simp [apply_ite State.par, apply_ite State.tap, apply_ite State.pending]; done)
    | ((repeat' split) <;> (first | (simp [apply_ite State.par, apply_ite State.tap, apply_ite State.pending]; done) | (simp_all [apply_ite State.par, apply_ite State.tap, apply_ite State.pending]; done)))
    | (dsimp only; (repeat' apply And.intro) <;> (repeat' split) <;> (first | (simp [apply_ite State.par, apply_ite State.tap, apply_ite State.pending]; done) | (simp_all [apply_ite State.par, apply_ite State.tap, apply_ite State.pending]; done)))
@[simp] theorem frame_noteCap (old : Option Nat) (c : Nat) (s : State) :
    (noteCap old c s).clk = s.clk ∧ (noteCap old c s).pwr = s.pwr ∧ (noteCap old c s).boot = s.boot ∧ (noteCap old c s).par = s.par ∧ (noteCap old c s).sec = s.sec ∧ (noteCap old c s).bed = s.bed ∧ (noteCap old c s).dram = s.dram ∧ (noteCap old c s).pads = s.pads ∧ (noteCap old c s).integ = s.integ ∧ (noteCap old c s).tide = s.tide ∧ (noteCap old c s).tap = s.tap ∧ (noteCap old c s).pending = s.pending := by
  unfold noteCap
  first
    | (simp [apply_ite State.clk, apply_ite State.pwr, apply_ite State.boot, apply_ite State.par, apply_ite State.sec, apply_ite State.bed, apply_ite State.dram, apply_ite State.pads, apply_ite State.integ, apply_ite State.tide, apply_ite State.tap, apply_ite State.pending]; done)
    | ((repeat' split) <;> (first | (simp [apply_ite State.clk, apply_ite State.pwr, apply_ite State.boot, apply_ite State.par, apply_ite State.sec, apply_ite State.bed, apply_ite State.dram, apply_ite State.pads, apply_ite State.integ, apply_ite State.tide, apply_ite State.tap, apply_ite State.pending]; done) | (simp_all [apply_ite State.clk, apply_ite State.pwr, apply_ite State.boot, apply_ite State.par, apply_ite State.sec, apply_ite State.bed, apply_ite State.dram, apply_ite State.pads, apply_ite State.integ, apply_ite State.tide, apply_ite State.tap, apply_ite State.pending]; done)))
    | (dsimp only; (repeat' apply And.intro) <;> (repeat' split) <;> (first | (simp [apply_ite State.clk, apply_ite State.pwr, apply_ite State.boot, apply_ite State.par, apply_ite State.sec, apply_ite State.bed, apply_ite State.dram, apply_ite State.pads, apply_ite State.integ, apply_ite State.tide, apply_ite State.tap, apply_ite State.pending]; done) | (simp_all [apply_ite State.clk, apply_ite State.pwr, apply_ite State.boot, apply_ite State.par, apply_ite State.sec, apply_ite State.bed, apply_ite State.dram, apply_ite State.pads, apply_ite State.integ, apply_ite State.tide, apply_ite State.tap, apply_ite State.pending]; done)))
@[simp] theorem frame_answerSag (m : Option Mbx) (c sag : Nat) (s : State) :
    (answerSag m c sag s).clk = s.clk ∧ (answerSag m c sag s).pwr = s.pwr ∧ (answerSag m c sag s).boot = s.boot ∧ (answerSag m c sag s).par = s.par ∧ (answerSag m c sag s).sec = s.sec ∧ (answerSag m c sag s).bed = s.bed ∧ (answerSag m c sag s).dram = s.dram ∧ (answerSag m c sag s).pads = s.pads ∧ (answerSag m c sag s).integ = s.integ ∧ (answerSag m c sag s).tide = s.tide ∧ (answerSag m c sag s).tap = s.tap ∧ (answerSag m c sag s).pending = s.pending := by
  unfold answerSag
  first
    | (simp [apply_ite State.clk, apply_ite State.pwr, apply_ite State.boot, apply_ite State.par, apply_ite State.sec, apply_ite State.bed, apply_ite State.dram, apply_ite State.pads, apply_ite State.integ, apply_ite State.tide, apply_ite State.tap, apply_ite State.pending]; done)
    | ((repeat' split) <;> (first | (simp [apply_ite State.clk, apply_ite State.pwr, apply_ite State.boot, apply_ite State.par, apply_ite State.sec, apply_ite State.bed, apply_ite State.dram, apply_ite State.pads, apply_ite State.integ, apply_ite State.tide, apply_ite State.tap, apply_ite State.pending]; done) | (simp_all [apply_ite State.clk, apply_ite State.pwr, apply_ite State.boot, apply_ite State.par, apply_ite State.sec, apply_ite State.bed, apply_ite State.dram, apply_ite State.pads, apply_ite State.integ, apply_ite State.tide, apply_ite State.tap, apply_ite State.pending]; done)))
    | (dsimp only; (repeat' apply And.intro) <;> (repeat' split) <;> (first | (simp [apply_ite State.clk, apply_ite State.pwr, apply_ite State.boot, apply_ite State.par, apply_ite State.sec, apply_ite State.bed, apply_ite State.dram, apply_ite State.pads, apply_ite State.integ, apply_ite State.tide, apply_ite State.tap, apply_ite State.pending]; done) | (simp_all [apply_ite State.clk, apply_ite State.pwr, apply_ite State.boot, apply_ite State.par, apply_ite State.sec, apply_ite State.bed, apply_ite State.dram, apply_ite State.pads, apply_ite State.integ, apply_ite State.tide, apply_ite State.tap, apply_ite State.pending]; done)))
@[simp] theorem frame_commitSlack (s : State) :
    (commitSlack s).clk = s.clk ∧ (commitSlack s).boot = s.boot ∧ (commitSlack s).par = s.par ∧ (commitSlack s).bed = s.bed ∧ (commitSlack s).dram = s.dram ∧ (commitSlack s).pads = s.pads ∧ (commitSlack s).tide = s.tide ∧ (commitSlack s).tap = s.tap ∧ (commitSlack s).pending = s.pending := by
  unfold commitSlack
  first
    | (simp [apply_ite State.clk, apply_ite State.boot, apply_ite State.par, apply_ite State.bed, apply_ite State.dram, apply_ite State.pads, apply_ite State.tide, apply_ite State.tap, apply_ite State.pending]; done)
    | ((repeat' split) <;> (first | (simp [apply_ite State.clk, apply_ite State.boot, apply_ite State.par, apply_ite State.bed, apply_ite State.dram, apply_ite State.pads, apply_ite State.tide, apply_ite State.tap, apply_ite State.pending]; done) | (simp_all [apply_ite State.clk, apply_ite State.boot, apply_ite State.par, apply_ite State.bed, apply_ite State.dram, apply_ite State.pads, apply_ite State.tide, apply_ite State.tap, apply_ite State.pending]; done)))
    | (dsimp only; (repeat' apply And.intro) <;> (repeat' split) <;> (first | (simp [apply_ite State.clk, apply_ite State.boot, apply_ite State.par, apply_ite State.bed, apply_ite State.dram, apply_ite State.pads, apply_ite State.tide, apply_ite State.tap, apply_ite State.pending]; done) | (simp_all [apply_ite State.clk, apply_ite State.boot, apply_ite State.par, apply_ite State.bed, apply_ite State.dram, apply_ite State.pads, apply_ite State.tide, apply_ite State.tap, apply_ite State.pending]; done)))
@[simp] theorem frame_holdsGone (s : State) :
    (holdsGone s).clk = s.clk ∧ (holdsGone s).boot = s.boot ∧ (holdsGone s).par = s.par ∧ (holdsGone s).bed = s.bed ∧ (holdsGone s).dram = s.dram ∧ (holdsGone s).pads = s.pads ∧ (holdsGone s).tide = s.tide ∧ (holdsGone s).tap = s.tap ∧ (holdsGone s).pending = s.pending := by
  unfold holdsGone
  first
    | (simp [apply_ite State.clk, apply_ite State.boot, apply_ite State.par, apply_ite State.bed, apply_ite State.dram, apply_ite State.pads, apply_ite State.tide, apply_ite State.tap, apply_ite State.pending]; done)
    | ((repeat' split) <;> (first | (simp [apply_ite State.clk, apply_ite State.boot, apply_ite State.par, apply_ite State.bed, apply_ite State.dram, apply_ite State.pads, apply_ite State.tide, apply_ite State.tap, apply_ite State.pending]; done) | (simp_all [apply_ite State.clk, apply_ite State.boot, apply_ite State.par, apply_ite State.bed, apply_ite State.dram, apply_ite State.pads, apply_ite State.tide, apply_ite State.tap, apply_ite State.pending]; done)))
    | (dsimp only; (repeat' apply And.intro) <;> (repeat' split) <;> (first | (simp [apply_ite State.clk, apply_ite State.boot, apply_ite State.par, apply_ite State.bed, apply_ite State.dram, apply_ite State.pads, apply_ite State.tide, apply_ite State.tap, apply_ite State.pending]; done) | (simp_all [apply_ite State.clk, apply_ite State.boot, apply_ite State.par, apply_ite State.bed, apply_ite State.dram, apply_ite State.pads, apply_ite State.tide, apply_ite State.tap, apply_ite State.pending]; done)))
@[simp] theorem frame_commitNeap (s : State) :
    (commitNeap s).clk = s.clk ∧ (commitNeap s).boot = s.boot ∧ (commitNeap s).par = s.par ∧ (commitNeap s).bed = s.bed ∧ (commitNeap s).tide = s.tide ∧ (commitNeap s).tap = s.tap ∧ (commitNeap s).pending = s.pending := by
  unfold commitNeap
  first
    | (simp [apply_ite State.clk, apply_ite State.boot, apply_ite State.par, apply_ite State.bed, apply_ite State.tide, apply_ite State.tap, apply_ite State.pending]; done)
    | ((repeat' split) <;> (first | (simp [apply_ite State.clk, apply_ite State.boot, apply_ite State.par, apply_ite State.bed, apply_ite State.tide, apply_ite State.tap, apply_ite State.pending]; done) | (simp_all [apply_ite State.clk, apply_ite State.boot, apply_ite State.par, apply_ite State.bed, apply_ite State.tide, apply_ite State.tap, apply_ite State.pending]; done)))
    | (dsimp only; (repeat' apply And.intro) <;> (repeat' split) <;> (first | (simp [apply_ite State.clk, apply_ite State.boot, apply_ite State.par, apply_ite State.bed, apply_ite State.tide, apply_ite State.tap, apply_ite State.pending]; done) | (simp_all [apply_ite State.clk, apply_ite State.boot, apply_ite State.par, apply_ite State.bed, apply_ite State.tide, apply_ite State.tap, apply_ite State.pending]; done)))
@[simp] theorem frame_leaveLow (s : State) :
    (leaveLow s).clk = s.clk ∧ (leaveLow s).boot = s.boot ∧ (leaveLow s).bed = s.bed ∧ (leaveLow s).tap = s.tap ∧ (leaveLow s).pending = s.pending := by
  unfold leaveLow
  first
    | (simp [apply_ite State.clk, apply_ite State.boot, apply_ite State.bed, apply_ite State.tap, apply_ite State.pending]; done)
    | ((repeat' split) <;> (first | (simp [apply_ite State.clk, apply_ite State.boot, apply_ite State.bed, apply_ite State.tap, apply_ite State.pending]; done) | (simp_all [apply_ite State.clk, apply_ite State.boot, apply_ite State.bed, apply_ite State.tap, apply_ite State.pending]; done)))
    | (dsimp only; (repeat' apply And.intro) <;> (repeat' split) <;> (first | (simp [apply_ite State.clk, apply_ite State.boot, apply_ite State.bed, apply_ite State.tap, apply_ite State.pending]; done) | (simp_all [apply_ite State.clk, apply_ite State.boot, apply_ite State.bed, apply_ite State.tap, apply_ite State.pending]; done)))
@[simp] theorem frame_startLeaving (target : PState) (m : Mbx) (s : State) :
    (startLeaving target m s).clk = s.clk ∧ (startLeaving target m s).boot = s.boot ∧ (startLeaving target m s).dram = s.dram ∧ (startLeaving target m s).pads = s.pads ∧ (startLeaving target m s).integ = s.integ ∧ (startLeaving target m s).tap = s.tap ∧ (startLeaving target m s).pending = s.pending := by
  unfold startLeaving
  first
    | (simp [apply_ite State.clk, apply_ite State.boot, apply_ite State.dram, apply_ite State.pads, apply_ite State.integ, apply_ite State.tap, apply_ite State.pending]; done)
    | ((repeat' split) <;> (first | (simp [apply_ite State.clk, apply_ite State.boot, apply_ite State.dram, apply_ite State.pads, apply_ite State.integ, apply_ite State.tap, apply_ite State.pending]; done) | (simp_all [apply_ite State.clk, apply_ite State.boot, apply_ite State.dram, apply_ite State.pads, apply_ite State.integ, apply_ite State.tap, apply_ite State.pending]; done)))
    | (dsimp only; (repeat' apply And.intro) <;> (repeat' split) <;> (first | (simp [apply_ite State.clk, apply_ite State.boot, apply_ite State.dram, apply_ite State.pads, apply_ite State.integ, apply_ite State.tap, apply_ite State.pending]; done) | (simp_all [apply_ite State.clk, apply_ite State.boot, apply_ite State.dram, apply_ite State.pads, apply_ite State.integ, apply_ite State.tap, apply_ite State.pending]; done)))
@[simp] theorem frame_leaveRoles (s : State) :
    (leaveRoles s).clk = s.clk ∧ (leaveRoles s).boot = s.boot ∧ (leaveRoles s).dram = s.dram ∧ (leaveRoles s).pads = s.pads ∧ (leaveRoles s).integ = s.integ ∧ (leaveRoles s).tap = s.tap ∧ (leaveRoles s).pending = s.pending := by
  unfold leaveRoles
  first
    | (simp [apply_ite State.clk, apply_ite State.boot, apply_ite State.dram, apply_ite State.pads, apply_ite State.integ, apply_ite State.tap, apply_ite State.pending]; done)
    | ((repeat' split) <;> (first | (simp [apply_ite State.clk, apply_ite State.boot, apply_ite State.dram, apply_ite State.pads, apply_ite State.integ, apply_ite State.tap, apply_ite State.pending]; done) | (simp_all [apply_ite State.clk, apply_ite State.boot, apply_ite State.dram, apply_ite State.pads, apply_ite State.integ, apply_ite State.tap, apply_ite State.pending]; done)))
    | (dsimp only; (repeat' apply And.intro) <;> (repeat' split) <;> (first | (simp [apply_ite State.clk, apply_ite State.boot, apply_ite State.dram, apply_ite State.pads, apply_ite State.integ, apply_ite State.tap, apply_ite State.pending]; done) | (simp_all [apply_ite State.clk, apply_ite State.boot, apply_ite State.dram, apply_ite State.pads, apply_ite State.integ, apply_ite State.tap, apply_ite State.pending]; done)))
@[simp] theorem frame_addGap (s : State) :
    (addGap s).pwr = s.pwr ∧ (addGap s).boot = s.boot ∧ (addGap s).par = s.par ∧ (addGap s).sec = s.sec ∧ (addGap s).bed = s.bed ∧ (addGap s).dram = s.dram ∧ (addGap s).pads = s.pads ∧ (addGap s).integ = s.integ ∧ (addGap s).tide = s.tide ∧ (addGap s).tap = s.tap ∧ (addGap s).pending = s.pending := by
  unfold addGap
  first
    | (simp [apply_ite State.pwr, apply_ite State.boot, apply_ite State.par, apply_ite State.sec, apply_ite State.bed, apply_ite State.dram, apply_ite State.pads, apply_ite State.integ, apply_ite State.tide, apply_ite State.tap, apply_ite State.pending]; done)
    | ((repeat' split) <;> (first | (simp [apply_ite State.pwr, apply_ite State.boot, apply_ite State.par, apply_ite State.sec, apply_ite State.bed, apply_ite State.dram, apply_ite State.pads, apply_ite State.integ, apply_ite State.tide, apply_ite State.tap, apply_ite State.pending]; done) | (simp_all [apply_ite State.pwr, apply_ite State.boot, apply_ite State.par, apply_ite State.sec, apply_ite State.bed, apply_ite State.dram, apply_ite State.pads, apply_ite State.integ, apply_ite State.tide, apply_ite State.tap, apply_ite State.pending]; done)))
    | (dsimp only; (repeat' apply And.intro) <;> (repeat' split) <;> (first | (simp [apply_ite State.pwr, apply_ite State.boot, apply_ite State.par, apply_ite State.sec, apply_ite State.bed, apply_ite State.dram, apply_ite State.pads, apply_ite State.integ, apply_ite State.tide, apply_ite State.tap, apply_ite State.pending]; done) | (simp_all [apply_ite State.pwr, apply_ite State.boot, apply_ite State.par, apply_ite State.sec, apply_ite State.bed, apply_ite State.dram, apply_ite State.pads, apply_ite State.integ, apply_ite State.tide, apply_ite State.tap, apply_ite State.pending]; done)))
@[simp] theorem frame_resumeCore (s : State) :
    (resumeCore s).clk = s.clk ∧ (resumeCore s).par = s.par ∧ (resumeCore s).bed = s.bed ∧ (resumeCore s).integ = s.integ ∧ (resumeCore s).tide = s.tide ∧ (resumeCore s).tap = s.tap ∧ (resumeCore s).pending = s.pending := by
  unfold resumeCore
  first
    | (simp [apply_ite State.clk, apply_ite State.par, apply_ite State.bed, apply_ite State.integ, apply_ite State.tide, apply_ite State.tap, apply_ite State.pending]; done)
    | ((repeat' split) <;> (first | (simp [apply_ite State.clk, apply_ite State.par, apply_ite State.bed, apply_ite State.integ, apply_ite State.tide, apply_ite State.tap, apply_ite State.pending]; done) | (simp_all [apply_ite State.clk, apply_ite State.par, apply_ite State.bed, apply_ite State.integ, apply_ite State.tide, apply_ite State.tap, apply_ite State.pending]; done)))
    | (dsimp only; (repeat' apply And.intro) <;> (repeat' split) <;> (first | (simp [apply_ite State.clk, apply_ite State.par, apply_ite State.bed, apply_ite State.integ, apply_ite State.tide, apply_ite State.tap, apply_ite State.pending]; done) | (simp_all [apply_ite State.clk, apply_ite State.par, apply_ite State.bed, apply_ite State.integ, apply_ite State.tide, apply_ite State.tap, apply_ite State.pending]; done)))
@[simp] theorem frame_acceptActivate (slot build : Nat) (s : State) :
    (acceptActivate slot build s).clk = s.clk ∧ (acceptActivate slot build s).pwr = s.pwr ∧ (acceptActivate slot build s).boot = s.boot ∧ (acceptActivate slot build s).par = s.par ∧ (acceptActivate slot build s).dram = s.dram ∧ (acceptActivate slot build s).pads = s.pads ∧ (acceptActivate slot build s).integ = s.integ ∧ (acceptActivate slot build s).tide = s.tide ∧ (acceptActivate slot build s).tap = s.tap ∧ (acceptActivate slot build s).pending = s.pending := by
  unfold acceptActivate
  first
    | (simp [apply_ite State.clk, apply_ite State.pwr, apply_ite State.boot, apply_ite State.par, apply_ite State.dram, apply_ite State.pads, apply_ite State.integ, apply_ite State.tide, apply_ite State.tap, apply_ite State.pending]; done)
    | ((repeat' split) <;> (first | (simp [apply_ite State.clk, apply_ite State.pwr, apply_ite State.boot, apply_ite State.par, apply_ite State.dram, apply_ite State.pads, apply_ite State.integ, apply_ite State.tide, apply_ite State.tap, apply_ite State.pending]; done) | (simp_all [apply_ite State.clk, apply_ite State.pwr, apply_ite State.boot, apply_ite State.par, apply_ite State.dram, apply_ite State.pads, apply_ite State.integ, apply_ite State.tide, apply_ite State.tap, apply_ite State.pending]; done)))
    | (dsimp only; (repeat' apply And.intro) <;> (repeat' split) <;> (first | (simp [apply_ite State.clk, apply_ite State.pwr, apply_ite State.boot, apply_ite State.par, apply_ite State.dram, apply_ite State.pads, apply_ite State.integ, apply_ite State.tide, apply_ite State.tap, apply_ite State.pending]; done) | (simp_all [apply_ite State.clk, apply_ite State.pwr, apply_ite State.boot, apply_ite State.par, apply_ite State.dram, apply_ite State.pads, apply_ite State.integ, apply_ite State.tide, apply_ite State.tap, apply_ite State.pending]; done)))
@[simp] theorem frame_heardMgmt (s : State) :
    (heardMgmt s).clk = s.clk ∧ (heardMgmt s).boot = s.boot ∧ (heardMgmt s).par = s.par ∧ (heardMgmt s).sec = s.sec ∧ (heardMgmt s).bed = s.bed ∧ (heardMgmt s).dram = s.dram ∧ (heardMgmt s).pads = s.pads ∧ (heardMgmt s).integ = s.integ ∧ (heardMgmt s).tide = s.tide ∧ (heardMgmt s).tap = s.tap ∧ (heardMgmt s).pending = s.pending := by
  unfold heardMgmt
  first
    | (simp [apply_ite State.clk, apply_ite State.boot, apply_ite State.par, apply_ite State.sec, apply_ite State.bed, apply_ite State.dram, apply_ite State.pads, apply_ite State.integ, apply_ite State.tide, apply_ite State.tap, apply_ite State.pending]; done)
    | ((repeat' split) <;> (first | (simp [apply_ite State.clk, apply_ite State.boot, apply_ite State.par, apply_ite State.sec, apply_ite State.bed, apply_ite State.dram, apply_ite State.pads, apply_ite State.integ, apply_ite State.tide, apply_ite State.tap, apply_ite State.pending]; done) | (simp_all [apply_ite State.clk, apply_ite State.boot, apply_ite State.par, apply_ite State.sec, apply_ite State.bed, apply_ite State.dram, apply_ite State.pads, apply_ite State.integ, apply_ite State.tide, apply_ite State.tap, apply_ite State.pending]; done)))
    | (dsimp only; (repeat' apply And.intro) <;> (repeat' split) <;> (first | (simp [apply_ite State.clk, apply_ite State.boot, apply_ite State.par, apply_ite State.sec, apply_ite State.bed, apply_ite State.dram, apply_ite State.pads, apply_ite State.integ, apply_ite State.tide, apply_ite State.tap, apply_ite State.pending]; done) | (simp_all [apply_ite State.clk, apply_ite State.boot, apply_ite State.par, apply_ite State.sec, apply_ite State.bed, apply_ite State.dram, apply_ite State.pads, apply_ite State.integ, apply_ite State.tide, apply_ite State.tap, apply_ite State.pending]; done)))
@[simp] theorem frame_control (cmd completion : Nat) (data : List Byte) (s : State) :
    (Machine.control cmd completion data s).clk = s.clk ∧ (Machine.control cmd completion data s).pwr = s.pwr ∧ (Machine.control cmd completion data s).boot = s.boot ∧ (Machine.control cmd completion data s).par = s.par ∧ (Machine.control cmd completion data s).sec = s.sec ∧ (Machine.control cmd completion data s).bed = s.bed ∧ (Machine.control cmd completion data s).dram = s.dram ∧ (Machine.control cmd completion data s).pads = s.pads ∧ (Machine.control cmd completion data s).integ = s.integ ∧ (Machine.control cmd completion data s).tide = s.tide ∧ (Machine.control cmd completion data s).tap = s.tap ∧ (Machine.control cmd completion data s).pending = s.pending := by
  unfold Machine.control
  first
    | (simp [apply_ite State.clk, apply_ite State.pwr, apply_ite State.boot, apply_ite State.par, apply_ite State.sec, apply_ite State.bed, apply_ite State.dram, apply_ite State.pads, apply_ite State.integ, apply_ite State.tide, apply_ite State.tap, apply_ite State.pending]; done)
    | ((repeat' split) <;> (first | (simp [apply_ite State.clk, apply_ite State.pwr, apply_ite State.boot, apply_ite State.par, apply_ite State.sec, apply_ite State.bed, apply_ite State.dram, apply_ite State.pads, apply_ite State.integ, apply_ite State.tide, apply_ite State.tap, apply_ite State.pending]; done) | (simp_all [apply_ite State.clk, apply_ite State.pwr, apply_ite State.boot, apply_ite State.par, apply_ite State.sec, apply_ite State.bed, apply_ite State.dram, apply_ite State.pads, apply_ite State.integ, apply_ite State.tide, apply_ite State.tap, apply_ite State.pending]; done)))
    | (dsimp only; (repeat' apply And.intro) <;> (repeat' split) <;> (first | (simp [apply_ite State.clk, apply_ite State.pwr, apply_ite State.boot, apply_ite State.par, apply_ite State.sec, apply_ite State.bed, apply_ite State.dram, apply_ite State.pads, apply_ite State.integ, apply_ite State.tide, apply_ite State.tap, apply_ite State.pending]; done) | (simp_all [apply_ite State.clk, apply_ite State.pwr, apply_ite State.boot, apply_ite State.par, apply_ite State.sec, apply_ite State.bed, apply_ite State.dram, apply_ite State.pads, apply_ite State.integ, apply_ite State.tide, apply_ite State.tap, apply_ite State.pending]; done)))
@[simp] theorem frame_setSpdm (s : State) (t : Transport) (x : SpdmSt) :
    (State.setSpdm s t x).clk = s.clk ∧ (State.setSpdm s t x).pwr = s.pwr ∧ (State.setSpdm s t x).boot = s.boot ∧ (State.setSpdm s t x).par = s.par ∧ (State.setSpdm s t x).bed = s.bed ∧ (State.setSpdm s t x).dram = s.dram ∧ (State.setSpdm s t x).pads = s.pads ∧ (State.setSpdm s t x).integ = s.integ ∧ (State.setSpdm s t x).tide = s.tide ∧ (State.setSpdm s t x).tap = s.tap ∧ (State.setSpdm s t x).pending = s.pending := by
  unfold State.setSpdm
  first
    | (simp [apply_ite State.clk, apply_ite State.pwr, apply_ite State.boot, apply_ite State.par, apply_ite State.bed, apply_ite State.dram, apply_ite State.pads, apply_ite State.integ, apply_ite State.tide, apply_ite State.tap, apply_ite State.pending]; done)
    | ((repeat' split) <;> (first | (simp [apply_ite State.clk, apply_ite State.pwr, apply_ite State.boot, apply_ite State.par, apply_ite State.bed, apply_ite State.dram, apply_ite State.pads, apply_ite State.integ, apply_ite State.tide, apply_ite State.tap, apply_ite State.pending]; done) | (simp_all [apply_ite State.clk, apply_ite State.pwr, apply_ite State.boot, apply_ite State.par, apply_ite State.bed, apply_ite State.dram, apply_ite State.pads, apply_ite State.integ, apply_ite State.tide, apply_ite State.tap, apply_ite State.pending]; done)))
    | (dsimp only; (repeat' apply And.intro) <;> (repeat' split) <;> (first | (simp [apply_ite State.clk, apply_ite State.pwr, apply_ite State.boot, apply_ite State.par, apply_ite State.bed, apply_ite State.dram, apply_ite State.pads, apply_ite State.integ, apply_ite State.tide, apply_ite State.tap, apply_ite State.pending]; done) | (simp_all [apply_ite State.clk, apply_ite State.pwr, apply_ite State.boot, apply_ite State.par, apply_ite State.bed, apply_ite State.dram, apply_ite State.pads, apply_ite State.integ, apply_ite State.tide, apply_ite State.tap, apply_ite State.pending]; done)))
@[simp] theorem frame_spdmReply (t : Transport) (code version : Nat) (data : List Byte) (s : State) :
    (spdmReply t code version data s).clk = s.clk ∧ (spdmReply t code version data s).pwr = s.pwr ∧ (spdmReply t code version data s).boot = s.boot ∧ (spdmReply t code version data s).par = s.par ∧ (spdmReply t code version data s).sec = s.sec ∧ (spdmReply t code version data s).bed = s.bed ∧ (spdmReply t code version data s).dram = s.dram ∧ (spdmReply t code version data s).pads = s.pads ∧ (spdmReply t code version data s).integ = s.integ ∧ (spdmReply t code version data s).tide = s.tide ∧ (spdmReply t code version data s).tap = s.tap ∧ (spdmReply t code version data s).pending = s.pending := by
  unfold spdmReply
  first
    | (simp [apply_ite State.clk, apply_ite State.pwr, apply_ite State.boot, apply_ite State.par, apply_ite State.sec, apply_ite State.bed, apply_ite State.dram, apply_ite State.pads, apply_ite State.integ, apply_ite State.tide, apply_ite State.tap, apply_ite State.pending]; done)
    | ((repeat' split) <;> (first | (simp [apply_ite State.clk, apply_ite State.pwr, apply_ite State.boot, apply_ite State.par, apply_ite State.sec, apply_ite State.bed, apply_ite State.dram, apply_ite State.pads, apply_ite State.integ, apply_ite State.tide, apply_ite State.tap, apply_ite State.pending]; done) | (simp_all [apply_ite State.clk, apply_ite State.pwr, apply_ite State.boot, apply_ite State.par, apply_ite State.sec, apply_ite State.bed, apply_ite State.dram, apply_ite State.pads, apply_ite State.integ, apply_ite State.tide, apply_ite State.tap, apply_ite State.pending]; done)))
    | (dsimp only; (repeat' apply And.intro) <;> (repeat' split) <;> (first | (simp [apply_ite State.clk, apply_ite State.pwr, apply_ite State.boot, apply_ite State.par, apply_ite State.sec, apply_ite State.bed, apply_ite State.dram, apply_ite State.pads, apply_ite State.integ, apply_ite State.tide, apply_ite State.tap, apply_ite State.pending]; done) | (simp_all [apply_ite State.clk, apply_ite State.pwr, apply_ite State.boot, apply_ite State.par, apply_ite State.sec, apply_ite State.bed, apply_ite State.dram, apply_ite State.pads, apply_ite State.integ, apply_ite State.tide, apply_ite State.tap, apply_ite State.pending]; done)))
@[simp] theorem frame_spdmFail (t : Transport) (code : Nat) (s : State) :
    (spdmFail t code s).clk = s.clk ∧ (spdmFail t code s).pwr = s.pwr ∧ (spdmFail t code s).boot = s.boot ∧ (spdmFail t code s).par = s.par ∧ (spdmFail t code s).sec = s.sec ∧ (spdmFail t code s).bed = s.bed ∧ (spdmFail t code s).dram = s.dram ∧ (spdmFail t code s).pads = s.pads ∧ (spdmFail t code s).integ = s.integ ∧ (spdmFail t code s).tide = s.tide ∧ (spdmFail t code s).tap = s.tap ∧ (spdmFail t code s).pending = s.pending := by
  unfold spdmFail
  first
    | (simp [apply_ite State.clk, apply_ite State.pwr, apply_ite State.boot, apply_ite State.par, apply_ite State.sec, apply_ite State.bed, apply_ite State.dram, apply_ite State.pads, apply_ite State.integ, apply_ite State.tide, apply_ite State.tap, apply_ite State.pending]; done)
    | ((repeat' split) <;> (first | (simp [apply_ite State.clk, apply_ite State.pwr, apply_ite State.boot, apply_ite State.par, apply_ite State.sec, apply_ite State.bed, apply_ite State.dram, apply_ite State.pads, apply_ite State.integ, apply_ite State.tide, apply_ite State.tap, apply_ite State.pending]; done) | (simp_all [apply_ite State.clk, apply_ite State.pwr, apply_ite State.boot, apply_ite State.par, apply_ite State.sec, apply_ite State.bed, apply_ite State.dram, apply_ite State.pads, apply_ite State.integ, apply_ite State.tide, apply_ite State.tap, apply_ite State.pending]; done)))
    | (dsimp only; (repeat' apply And.intro) <;> (repeat' split) <;> (first | (simp [apply_ite State.clk, apply_ite State.pwr, apply_ite State.boot, apply_ite State.par, apply_ite State.sec, apply_ite State.bed, apply_ite State.dram, apply_ite State.pads, apply_ite State.integ, apply_ite State.tide, apply_ite State.tap, apply_ite State.pending]; done) | (simp_all [apply_ite State.clk, apply_ite State.pwr, apply_ite State.boot, apply_ite State.par, apply_ite State.sec, apply_ite State.bed, apply_ite State.dram, apply_ite State.pads, apply_ite State.integ, apply_ite State.tide, apply_ite State.tap, apply_ite State.pending]; done)))
@[simp] theorem negotiated_clk (t : Transport) (version : Nat) (f : State → State) (s : State) (h : ∀ s, (f s).clk = s.clk) :
    (negotiated t version f s).clk = s.clk := by
  unfold negotiated
  simp only [apply_ite State.clk, h, frame_spdmFail, ite_self]
@[simp] theorem negotiated_pwr (t : Transport) (version : Nat) (f : State → State) (s : State) (h : ∀ s, (f s).pwr = s.pwr) :
    (negotiated t version f s).pwr = s.pwr := by
  unfold negotiated
  simp only [apply_ite State.pwr, h, frame_spdmFail, ite_self]
@[simp] theorem negotiated_boot (t : Transport) (version : Nat) (f : State → State) (s : State) (h : ∀ s, (f s).boot = s.boot) :
    (negotiated t version f s).boot = s.boot := by
  unfold negotiated
  simp only [apply_ite State.boot, h, frame_spdmFail, ite_self]
@[simp] theorem negotiated_par (t : Transport) (version : Nat) (f : State → State) (s : State) (h : ∀ s, (f s).par = s.par) :
    (negotiated t version f s).par = s.par := by
  unfold negotiated
  simp only [apply_ite State.par, h, frame_spdmFail, ite_self]
@[simp] theorem negotiated_sec (t : Transport) (version : Nat) (f : State → State) (s : State) (h : ∀ s, (f s).sec = s.sec) :
    (negotiated t version f s).sec = s.sec := by
  unfold negotiated
  simp only [apply_ite State.sec, h, frame_spdmFail, ite_self]
@[simp] theorem negotiated_bed (t : Transport) (version : Nat) (f : State → State) (s : State) (h : ∀ s, (f s).bed = s.bed) :
    (negotiated t version f s).bed = s.bed := by
  unfold negotiated
  simp only [apply_ite State.bed, h, frame_spdmFail, ite_self]
@[simp] theorem negotiated_dram (t : Transport) (version : Nat) (f : State → State) (s : State) (h : ∀ s, (f s).dram = s.dram) :
    (negotiated t version f s).dram = s.dram := by
  unfold negotiated
  simp only [apply_ite State.dram, h, frame_spdmFail, ite_self]
@[simp] theorem negotiated_pads (t : Transport) (version : Nat) (f : State → State) (s : State) (h : ∀ s, (f s).pads = s.pads) :
    (negotiated t version f s).pads = s.pads := by
  unfold negotiated
  simp only [apply_ite State.pads, h, frame_spdmFail, ite_self]
@[simp] theorem negotiated_integ (t : Transport) (version : Nat) (f : State → State) (s : State) (h : ∀ s, (f s).integ = s.integ) :
    (negotiated t version f s).integ = s.integ := by
  unfold negotiated
  simp only [apply_ite State.integ, h, frame_spdmFail, ite_self]
@[simp] theorem negotiated_tide (t : Transport) (version : Nat) (f : State → State) (s : State) (h : ∀ s, (f s).tide = s.tide) :
    (negotiated t version f s).tide = s.tide := by
  unfold negotiated
  simp only [apply_ite State.tide, h, frame_spdmFail, ite_self]
@[simp] theorem negotiated_tap (t : Transport) (version : Nat) (f : State → State) (s : State) (h : ∀ s, (f s).tap = s.tap) :
    (negotiated t version f s).tap = s.tap := by
  unfold negotiated
  simp only [apply_ite State.tap, h, frame_spdmFail, ite_self]
@[simp] theorem negotiated_pending (t : Transport) (version : Nat) (f : State → State) (s : State) (h : ∀ s, (f s).pending = s.pending) :
    (negotiated t version f s).pending = s.pending := by
  unfold negotiated
  simp only [apply_ite State.pending, h, frame_spdmFail, ite_self]
@[simp] theorem frame_doGetVersion (t : Transport) (s : State) :
    (doGetVersion t s).clk = s.clk ∧ (doGetVersion t s).pwr = s.pwr ∧ (doGetVersion t s).boot = s.boot ∧ (doGetVersion t s).par = s.par ∧ (doGetVersion t s).bed = s.bed ∧ (doGetVersion t s).dram = s.dram ∧ (doGetVersion t s).pads = s.pads ∧ (doGetVersion t s).integ = s.integ ∧ (doGetVersion t s).tide = s.tide ∧ (doGetVersion t s).tap = s.tap ∧ (doGetVersion t s).pending = s.pending := by
  unfold doGetVersion
  first
    | (simp [apply_ite State.clk, apply_ite State.pwr, apply_ite State.boot, apply_ite State.par, apply_ite State.bed, apply_ite State.dram, apply_ite State.pads, apply_ite State.integ, apply_ite State.tide, apply_ite State.tap, apply_ite State.pending]; done)
    | ((repeat' split) <;> (first | (simp [apply_ite State.clk, apply_ite State.pwr, apply_ite State.boot, apply_ite State.par, apply_ite State.bed, apply_ite State.dram, apply_ite State.pads, apply_ite State.integ, apply_ite State.tide, apply_ite State.tap, apply_ite State.pending]; done) | (simp_all [apply_ite State.clk, apply_ite State.pwr, apply_ite State.boot, apply_ite State.par, apply_ite State.bed, apply_ite State.dram, apply_ite State.pads, apply_ite State.integ, apply_ite State.tide, apply_ite State.tap, apply_ite State.pending]; done)))
    | (dsimp only; (repeat' apply And.intro) <;> (repeat' split) <;> (first | (simp [apply_ite State.clk, apply_ite State.pwr, apply_ite State.boot, apply_ite State.par, apply_ite State.bed, apply_ite State.dram, apply_ite State.pads, apply_ite State.integ, apply_ite State.tide, apply_ite State.tap, apply_ite State.pending]; done) | (simp_all [apply_ite State.clk, apply_ite State.pwr, apply_ite State.boot, apply_ite State.par, apply_ite State.bed, apply_ite State.dram, apply_ite State.pads, apply_ite State.integ, apply_ite State.tide, apply_ite State.tap, apply_ite State.pending]; done)))
@[simp] theorem frame_doGetCapabilities (t : Transport) (version : Nat) (s : State) :
    (doGetCapabilities t version s).clk = s.clk ∧ (doGetCapabilities t version s).pwr = s.pwr ∧ (doGetCapabilities t version s).boot = s.boot ∧ (doGetCapabilities t version s).par = s.par ∧ (doGetCapabilities t version s).bed = s.bed ∧ (doGetCapabilities t version s).dram = s.dram ∧ (doGetCapabilities t version s).pads = s.pads ∧ (doGetCapabilities t version s).integ = s.integ ∧ (doGetCapabilities t version s).tide = s.tide ∧ (doGetCapabilities t version s).tap = s.tap ∧ (doGetCapabilities t version s).pending = s.pending := by
  unfold doGetCapabilities
  first
    | (simp [apply_ite State.clk, apply_ite State.pwr, apply_ite State.boot, apply_ite State.par, apply_ite State.bed, apply_ite State.dram, apply_ite State.pads, apply_ite State.integ, apply_ite State.tide, apply_ite State.tap, apply_ite State.pending]; done)
    | ((repeat' split) <;> (first | (simp [apply_ite State.clk, apply_ite State.pwr, apply_ite State.boot, apply_ite State.par, apply_ite State.bed, apply_ite State.dram, apply_ite State.pads, apply_ite State.integ, apply_ite State.tide, apply_ite State.tap, apply_ite State.pending]; done) | (simp_all [apply_ite State.clk, apply_ite State.pwr, apply_ite State.boot, apply_ite State.par, apply_ite State.bed, apply_ite State.dram, apply_ite State.pads, apply_ite State.integ, apply_ite State.tide, apply_ite State.tap, apply_ite State.pending]; done)))
    | (dsimp only; (repeat' apply And.intro) <;> (repeat' split) <;> (first | (simp [apply_ite State.clk, apply_ite State.pwr, apply_ite State.boot, apply_ite State.par, apply_ite State.bed, apply_ite State.dram, apply_ite State.pads, apply_ite State.integ, apply_ite State.tide, apply_ite State.tap, apply_ite State.pending]; done) | (simp_all [apply_ite State.clk, apply_ite State.pwr, apply_ite State.boot, apply_ite State.par, apply_ite State.bed, apply_ite State.dram, apply_ite State.pads, apply_ite State.integ, apply_ite State.tide, apply_ite State.tap, apply_ite State.pending]; done)))
@[simp] theorem frame_doNegotiate (t : Transport) (version : Nat) (ecdsa sha : Bool) (s : State) :
    (doNegotiate t version ecdsa sha s).clk = s.clk ∧ (doNegotiate t version ecdsa sha s).pwr = s.pwr ∧ (doNegotiate t version ecdsa sha s).boot = s.boot ∧ (doNegotiate t version ecdsa sha s).par = s.par ∧ (doNegotiate t version ecdsa sha s).bed = s.bed ∧ (doNegotiate t version ecdsa sha s).dram = s.dram ∧ (doNegotiate t version ecdsa sha s).pads = s.pads ∧ (doNegotiate t version ecdsa sha s).integ = s.integ ∧ (doNegotiate t version ecdsa sha s).tide = s.tide ∧ (doNegotiate t version ecdsa sha s).tap = s.tap ∧ (doNegotiate t version ecdsa sha s).pending = s.pending := by
  unfold doNegotiate
  first
    | (simp [apply_ite State.clk, apply_ite State.pwr, apply_ite State.boot, apply_ite State.par, apply_ite State.bed, apply_ite State.dram, apply_ite State.pads, apply_ite State.integ, apply_ite State.tide, apply_ite State.tap, apply_ite State.pending]; done)
    | ((repeat' split) <;> (first | (simp [apply_ite State.clk, apply_ite State.pwr, apply_ite State.boot, apply_ite State.par, apply_ite State.bed, apply_ite State.dram, apply_ite State.pads, apply_ite State.integ, apply_ite State.tide, apply_ite State.tap, apply_ite State.pending]; done) | (simp_all [apply_ite State.clk, apply_ite State.pwr, apply_ite State.boot, apply_ite State.par, apply_ite State.bed, apply_ite State.dram, apply_ite State.pads, apply_ite State.integ, apply_ite State.tide, apply_ite State.tap, apply_ite State.pending]; done)))
    | (dsimp only; (repeat' apply And.intro) <;> (repeat' split) <;> (first | (simp [apply_ite State.clk, apply_ite State.pwr, apply_ite State.boot, apply_ite State.par, apply_ite State.bed, apply_ite State.dram, apply_ite State.pads, apply_ite State.integ, apply_ite State.tide, apply_ite State.tap, apply_ite State.pending]; done) | (simp_all [apply_ite State.clk, apply_ite State.pwr, apply_ite State.boot, apply_ite State.par, apply_ite State.bed, apply_ite State.dram, apply_ite State.pads, apply_ite State.integ, apply_ite State.tide, apply_ite State.tap, apply_ite State.pending]; done)))
@[simp] theorem frame_doGetDigests (t : Transport) (version : Nat) (s : State) :
    (doGetDigests t version s).clk = s.clk ∧ (doGetDigests t version s).pwr = s.pwr ∧ (doGetDigests t version s).boot = s.boot ∧ (doGetDigests t version s).par = s.par ∧ (doGetDigests t version s).sec = s.sec ∧ (doGetDigests t version s).bed = s.bed ∧ (doGetDigests t version s).dram = s.dram ∧ (doGetDigests t version s).pads = s.pads ∧ (doGetDigests t version s).integ = s.integ ∧ (doGetDigests t version s).tide = s.tide ∧ (doGetDigests t version s).tap = s.tap ∧ (doGetDigests t version s).pending = s.pending := by
  unfold doGetDigests
  first
    | (simp [apply_ite State.clk, apply_ite State.pwr, apply_ite State.boot, apply_ite State.par, apply_ite State.sec, apply_ite State.bed, apply_ite State.dram, apply_ite State.pads, apply_ite State.integ, apply_ite State.tide, apply_ite State.tap, apply_ite State.pending]; done)
    | ((repeat' split) <;> (first | (simp [apply_ite State.clk, apply_ite State.pwr, apply_ite State.boot, apply_ite State.par, apply_ite State.sec, apply_ite State.bed, apply_ite State.dram, apply_ite State.pads, apply_ite State.integ, apply_ite State.tide, apply_ite State.tap, apply_ite State.pending]; done) | (simp_all [apply_ite State.clk, apply_ite State.pwr, apply_ite State.boot, apply_ite State.par, apply_ite State.sec, apply_ite State.bed, apply_ite State.dram, apply_ite State.pads, apply_ite State.integ, apply_ite State.tide, apply_ite State.tap, apply_ite State.pending]; done)))
    | (dsimp only; (repeat' apply And.intro) <;> (repeat' split) <;> (first | (simp [apply_ite State.clk, apply_ite State.pwr, apply_ite State.boot, apply_ite State.par, apply_ite State.sec, apply_ite State.bed, apply_ite State.dram, apply_ite State.pads, apply_ite State.integ, apply_ite State.tide, apply_ite State.tap, apply_ite State.pending]; done) | (simp_all [apply_ite State.clk, apply_ite State.pwr, apply_ite State.boot, apply_ite State.par, apply_ite State.sec, apply_ite State.bed, apply_ite State.dram, apply_ite State.pads, apply_ite State.integ, apply_ite State.tide, apply_ite State.tap, apply_ite State.pending]; done)))
@[simp] theorem frame_doGetCertificate (t : Transport) (version slot off len : Nat) (s : State) :
    (doGetCertificate t version slot off len s).clk = s.clk ∧ (doGetCertificate t version slot off len s).pwr = s.pwr ∧ (doGetCertificate t version slot off len s).boot = s.boot ∧ (doGetCertificate t version slot off len s).par = s.par ∧ (doGetCertificate t version slot off len s).sec = s.sec ∧ (doGetCertificate t version slot off len s).bed = s.bed ∧ (doGetCertificate t version slot off len s).dram = s.dram ∧ (doGetCertificate t version slot off len s).pads = s.pads ∧ (doGetCertificate t version slot off len s).integ = s.integ ∧ (doGetCertificate t version slot off len s).tide = s.tide ∧ (doGetCertificate t version slot off len s).tap = s.tap ∧ (doGetCertificate t version slot off len s).pending = s.pending := by
  unfold doGetCertificate
  first
    | (simp [apply_ite State.clk, apply_ite State.pwr, apply_ite State.boot, apply_ite State.par, apply_ite State.sec, apply_ite State.bed, apply_ite State.dram, apply_ite State.pads, apply_ite State.integ, apply_ite State.tide, apply_ite State.tap, apply_ite State.pending]; done)
    | ((repeat' split) <;> (first | (simp [apply_ite State.clk, apply_ite State.pwr, apply_ite State.boot, apply_ite State.par, apply_ite State.sec, apply_ite State.bed, apply_ite State.dram, apply_ite State.pads, apply_ite State.integ, apply_ite State.tide, apply_ite State.tap, apply_ite State.pending]; done) | (simp_all [apply_ite State.clk, apply_ite State.pwr, apply_ite State.boot, apply_ite State.par, apply_ite State.sec, apply_ite State.bed, apply_ite State.dram, apply_ite State.pads, apply_ite State.integ, apply_ite State.tide, apply_ite State.tap, apply_ite State.pending]; done)))
    | (dsimp only; (repeat' apply And.intro) <;> (repeat' split) <;> (first | (simp [apply_ite State.clk, apply_ite State.pwr, apply_ite State.boot, apply_ite State.par, apply_ite State.sec, apply_ite State.bed, apply_ite State.dram, apply_ite State.pads, apply_ite State.integ, apply_ite State.tide, apply_ite State.tap, apply_ite State.pending]; done) | (simp_all [apply_ite State.clk, apply_ite State.pwr, apply_ite State.boot, apply_ite State.par, apply_ite State.sec, apply_ite State.bed, apply_ite State.dram, apply_ite State.pads, apply_ite State.integ, apply_ite State.tide, apply_ite State.tap, apply_ite State.pending]; done)))
@[simp] theorem frame_doChallenge (t : Transport) (version slot : Nat) (nonce : BitVec 256) (s : State) :
    (doChallenge t version slot nonce s).clk = s.clk ∧ (doChallenge t version slot nonce s).pwr = s.pwr ∧ (doChallenge t version slot nonce s).boot = s.boot ∧ (doChallenge t version slot nonce s).par = s.par ∧ (doChallenge t version slot nonce s).sec = s.sec ∧ (doChallenge t version slot nonce s).bed = s.bed ∧ (doChallenge t version slot nonce s).dram = s.dram ∧ (doChallenge t version slot nonce s).pads = s.pads ∧ (doChallenge t version slot nonce s).integ = s.integ ∧ (doChallenge t version slot nonce s).tide = s.tide ∧ (doChallenge t version slot nonce s).tap = s.tap ∧ (doChallenge t version slot nonce s).pending = s.pending := by
  unfold doChallenge
  first
    | (simp [apply_ite State.clk, apply_ite State.pwr, apply_ite State.boot, apply_ite State.par, apply_ite State.sec, apply_ite State.bed, apply_ite State.dram, apply_ite State.pads, apply_ite State.integ, apply_ite State.tide, apply_ite State.tap, apply_ite State.pending]; done)
    | ((repeat' split) <;> (first | (simp [apply_ite State.clk, apply_ite State.pwr, apply_ite State.boot, apply_ite State.par, apply_ite State.sec, apply_ite State.bed, apply_ite State.dram, apply_ite State.pads, apply_ite State.integ, apply_ite State.tide, apply_ite State.tap, apply_ite State.pending]; done) | (simp_all [apply_ite State.clk, apply_ite State.pwr, apply_ite State.boot, apply_ite State.par, apply_ite State.sec, apply_ite State.bed, apply_ite State.dram, apply_ite State.pads, apply_ite State.integ, apply_ite State.tide, apply_ite State.tap, apply_ite State.pending]; done)))
    | (dsimp only; (repeat' apply And.intro) <;> (repeat' split) <;> (first | (simp [apply_ite State.clk, apply_ite State.pwr, apply_ite State.boot, apply_ite State.par, apply_ite State.sec, apply_ite State.bed, apply_ite State.dram, apply_ite State.pads, apply_ite State.integ, apply_ite State.tide, apply_ite State.tap, apply_ite State.pending]; done) | (simp_all [apply_ite State.clk, apply_ite State.pwr, apply_ite State.boot, apply_ite State.par, apply_ite State.sec, apply_ite State.bed, apply_ite State.dram, apply_ite State.pads, apply_ite State.integ, apply_ite State.tide, apply_ite State.tap, apply_ite State.pending]; done)))
@[simp] theorem frame_doGetMeasurements (t : Transport) (version index : Nat) (sign : Bool) (nonce : BitVec 256) (s : State) :
    (doGetMeasurements t version index sign nonce s).clk = s.clk ∧ (doGetMeasurements t version index sign nonce s).pwr = s.pwr ∧ (doGetMeasurements t version index sign nonce s).boot = s.boot ∧ (doGetMeasurements t version index sign nonce s).par = s.par ∧ (doGetMeasurements t version index sign nonce s).sec = s.sec ∧ (doGetMeasurements t version index sign nonce s).bed = s.bed ∧ (doGetMeasurements t version index sign nonce s).dram = s.dram ∧ (doGetMeasurements t version index sign nonce s).pads = s.pads ∧ (doGetMeasurements t version index sign nonce s).integ = s.integ ∧ (doGetMeasurements t version index sign nonce s).tide = s.tide ∧ (doGetMeasurements t version index sign nonce s).tap = s.tap ∧ (doGetMeasurements t version index sign nonce s).pending = s.pending := by
  unfold doGetMeasurements
  first
    | (simp [apply_ite State.clk, apply_ite State.pwr, apply_ite State.boot, apply_ite State.par, apply_ite State.sec, apply_ite State.bed, apply_ite State.dram, apply_ite State.pads, apply_ite State.integ, apply_ite State.tide, apply_ite State.tap, apply_ite State.pending]; done)
    | ((repeat' split) <;> (first | (simp [apply_ite State.clk, apply_ite State.pwr, apply_ite State.boot, apply_ite State.par, apply_ite State.sec, apply_ite State.bed, apply_ite State.dram, apply_ite State.pads, apply_ite State.integ, apply_ite State.tide, apply_ite State.tap, apply_ite State.pending]; done) | (simp_all [apply_ite State.clk, apply_ite State.pwr, apply_ite State.boot, apply_ite State.par, apply_ite State.sec, apply_ite State.bed, apply_ite State.dram, apply_ite State.pads, apply_ite State.integ, apply_ite State.tide, apply_ite State.tap, apply_ite State.pending]; done)))
    | (dsimp only; (repeat' apply And.intro) <;> (repeat' split) <;> (first | (simp [apply_ite State.clk, apply_ite State.pwr, apply_ite State.boot, apply_ite State.par, apply_ite State.sec, apply_ite State.bed, apply_ite State.dram, apply_ite State.pads, apply_ite State.integ, apply_ite State.tide, apply_ite State.tap, apply_ite State.pending]; done) | (simp_all [apply_ite State.clk, apply_ite State.pwr, apply_ite State.boot, apply_ite State.par, apply_ite State.sec, apply_ite State.bed, apply_ite State.dram, apply_ite State.pads, apply_ite State.integ, apply_ite State.tide, apply_ite State.tap, apply_ite State.pending]; done)))
@[simp] theorem frame_setDrive (d : Option (List Bool)) (s : State) :
    (setDrive d s).clk = s.clk ∧ (setDrive d s).pwr = s.pwr ∧ (setDrive d s).boot = s.boot ∧ (setDrive d s).par = s.par ∧ (setDrive d s).sec = s.sec ∧ (setDrive d s).bed = s.bed ∧ (setDrive d s).dram = s.dram ∧ (setDrive d s).pads = s.pads ∧ (setDrive d s).integ = s.integ ∧ (setDrive d s).tide = s.tide ∧ (setDrive d s).pending = s.pending := by
  unfold setDrive
  first
    | (simp [apply_ite State.clk, apply_ite State.pwr, apply_ite State.boot, apply_ite State.par, apply_ite State.sec, apply_ite State.bed, apply_ite State.dram, apply_ite State.pads, apply_ite State.integ, apply_ite State.tide, apply_ite State.pending]; done)
    | ((repeat' split) <;> (first | (simp [apply_ite State.clk, apply_ite State.pwr, apply_ite State.boot, apply_ite State.par, apply_ite State.sec, apply_ite State.bed, apply_ite State.dram, apply_ite State.pads, apply_ite State.integ, apply_ite State.tide, apply_ite State.pending]; done) | (simp_all [apply_ite State.clk, apply_ite State.pwr, apply_ite State.boot, apply_ite State.par, apply_ite State.sec, apply_ite State.bed, apply_ite State.dram, apply_ite State.pads, apply_ite State.integ, apply_ite State.tide, apply_ite State.pending]; done)))
    | (dsimp only; (repeat' apply And.intro) <;> (repeat' split) <;> (first | (simp [apply_ite State.clk, apply_ite State.pwr, apply_ite State.boot, apply_ite State.par, apply_ite State.sec, apply_ite State.bed, apply_ite State.dram, apply_ite State.pads, apply_ite State.integ, apply_ite State.tide, apply_ite State.pending]; done) | (simp_all [apply_ite State.clk, apply_ite State.pwr, apply_ite State.boot, apply_ite State.par, apply_ite State.sec, apply_ite State.bed, apply_ite State.dram, apply_ite State.pads, apply_ite State.integ, apply_ite State.tide, apply_ite State.pending]; done)))

end Sys2Proof.Laws
end

