-- ==== Sys2Proof/Laws/ExecFrames.lean ====
section
/-! SUPPORT. Frames of the meanings: which units of the state each command leaves as they were. -/

namespace Sys2Proof.Laws

open Sys2Proof.Machine

@[simp] theorem after_next (t s : State) : after (.next t) s = t := rfl

@[simp] theorem after_ite (c : Prop) [Decidable c] (a b : Host.Outcome State Fault Refusal) (s : State) :
    after (if c then a else b) s = if c then after a s else after b s := by
  split <;> rfl

@[simp] theorem after_onRequest_clk (m : Mbx) (op : Nat) (f : MbReq → State → State) (s : State)
    (h : ∀ r, (f r s).clk = s.clk) : (after (onRequest m op f s) s).clk = s.clk := by
  unfold onRequest
  split
  · split <;> simp [h]
  · rfl
@[simp] theorem after_onSub_clk (m : Mbx) (op i sub : Nat) (f : MbReq → State → State) (s : State)
    (h : ∀ r, (f r s).clk = s.clk) : (after (onSub m op i sub f s) s).clk = s.clk := by
  unfold onSub
  apply after_onRequest_clk
  intro r
  split <;> simp [h]
@[simp] theorem after_onMctp_clk (f : State → State) (s : State) (h : ∀ s, (f s).clk = s.clk) :
    (after (onMctp f s) s).clk = s.clk := by
  unfold onMctp
  split <;> simp [h]
@[simp] theorem after_onSpdm_clk (t : Transport) (f : State → State) (s : State) (h : ∀ s, (f s).clk = s.clk) :
    (after (onSpdm t f s) s).clk = s.clk := by
  unfold onSpdm
  split
  · simp [h]
  · (repeat' split) <;> simp [h]
@[simp] theorem after_onRequest_pwr (m : Mbx) (op : Nat) (f : MbReq → State → State) (s : State)
    (h : ∀ r, (f r s).pwr = s.pwr) : (after (onRequest m op f s) s).pwr = s.pwr := by
  unfold onRequest
  split
  · split <;> simp [h]
  · rfl
@[simp] theorem after_onSub_pwr (m : Mbx) (op i sub : Nat) (f : MbReq → State → State) (s : State)
    (h : ∀ r, (f r s).pwr = s.pwr) : (after (onSub m op i sub f s) s).pwr = s.pwr := by
  unfold onSub
  apply after_onRequest_pwr
  intro r
  split <;> simp [h]
@[simp] theorem after_onRequest_boot (m : Mbx) (op : Nat) (f : MbReq → State → State) (s : State)
    (h : ∀ r, (f r s).boot = s.boot) : (after (onRequest m op f s) s).boot = s.boot := by
  unfold onRequest
  split
  · split <;> simp [h]
  · rfl
@[simp] theorem after_onSub_boot (m : Mbx) (op i sub : Nat) (f : MbReq → State → State) (s : State)
    (h : ∀ r, (f r s).boot = s.boot) : (after (onSub m op i sub f s) s).boot = s.boot := by
  unfold onSub
  apply after_onRequest_boot
  intro r
  split <;> simp [h]
@[simp] theorem after_onMctp_boot (f : State → State) (s : State) (h : ∀ s, (f s).boot = s.boot) :
    (after (onMctp f s) s).boot = s.boot := by
  unfold onMctp
  split <;> simp [h]
@[simp] theorem after_onSpdm_boot (t : Transport) (f : State → State) (s : State) (h : ∀ s, (f s).boot = s.boot) :
    (after (onSpdm t f s) s).boot = s.boot := by
  unfold onSpdm
  split
  · simp [h]
  · (repeat' split) <;> simp [h]
@[simp] theorem after_onRequest_par (m : Mbx) (op : Nat) (f : MbReq → State → State) (s : State)
    (h : ∀ r, (f r s).par = s.par) : (after (onRequest m op f s) s).par = s.par := by
  unfold onRequest
  split
  · split <;> simp [h]
  · rfl
@[simp] theorem after_onSub_par (m : Mbx) (op i sub : Nat) (f : MbReq → State → State) (s : State)
    (h : ∀ r, (f r s).par = s.par) : (after (onSub m op i sub f s) s).par = s.par := by
  unfold onSub
  apply after_onRequest_par
  intro r
  split <;> simp [h]
@[simp] theorem after_onMctp_par (f : State → State) (s : State) (h : ∀ s, (f s).par = s.par) :
    (after (onMctp f s) s).par = s.par := by
  unfold onMctp
  split <;> simp [h]
@[simp] theorem after_onSpdm_par (t : Transport) (f : State → State) (s : State) (h : ∀ s, (f s).par = s.par) :
    (after (onSpdm t f s) s).par = s.par := by
  unfold onSpdm
  split
  · simp [h]
  · (repeat' split) <;> simp [h]
@[simp] theorem after_onRequest_sec (m : Mbx) (op : Nat) (f : MbReq → State → State) (s : State)
    (h : ∀ r, (f r s).sec = s.sec) : (after (onRequest m op f s) s).sec = s.sec := by
  unfold onRequest
  split
  · split <;> simp [h]
  · rfl
@[simp] theorem after_onSub_sec (m : Mbx) (op i sub : Nat) (f : MbReq → State → State) (s : State)
    (h : ∀ r, (f r s).sec = s.sec) : (after (onSub m op i sub f s) s).sec = s.sec := by
  unfold onSub
  apply after_onRequest_sec
  intro r
  split <;> simp [h]
@[simp] theorem after_onMctp_sec (f : State → State) (s : State) (h : ∀ s, (f s).sec = s.sec) :
    (after (onMctp f s) s).sec = s.sec := by
  unfold onMctp
  split <;> simp [h]
@[simp] theorem after_onSpdm_sec (t : Transport) (f : State → State) (s : State) (h : ∀ s, (f s).sec = s.sec) :
    (after (onSpdm t f s) s).sec = s.sec := by
  unfold onSpdm
  split
  · simp [h]
  · (repeat' split) <;> simp [h]
@[simp] theorem after_onRequest_bed (m : Mbx) (op : Nat) (f : MbReq → State → State) (s : State)
    (h : ∀ r, (f r s).bed = s.bed) : (after (onRequest m op f s) s).bed = s.bed := by
  unfold onRequest
  split
  · split <;> simp [h]
  · rfl
@[simp] theorem after_onSub_bed (m : Mbx) (op i sub : Nat) (f : MbReq → State → State) (s : State)
    (h : ∀ r, (f r s).bed = s.bed) : (after (onSub m op i sub f s) s).bed = s.bed := by
  unfold onSub
  apply after_onRequest_bed
  intro r
  split <;> simp [h]
@[simp] theorem after_onMctp_bed (f : State → State) (s : State) (h : ∀ s, (f s).bed = s.bed) :
    (after (onMctp f s) s).bed = s.bed := by
  unfold onMctp
  split <;> simp [h]
@[simp] theorem after_onSpdm_bed (t : Transport) (f : State → State) (s : State) (h : ∀ s, (f s).bed = s.bed) :
    (after (onSpdm t f s) s).bed = s.bed := by
  unfold onSpdm
  split
  · simp [h]
  · (repeat' split) <;> simp [h]
@[simp] theorem after_onRequest_dram (m : Mbx) (op : Nat) (f : MbReq → State → State) (s : State)
    (h : ∀ r, (f r s).dram = s.dram) : (after (onRequest m op f s) s).dram = s.dram := by
  unfold onRequest
  split
  · split <;> simp [h]
  · rfl
@[simp] theorem after_onSub_dram (m : Mbx) (op i sub : Nat) (f : MbReq → State → State) (s : State)
    (h : ∀ r, (f r s).dram = s.dram) : (after (onSub m op i sub f s) s).dram = s.dram := by
  unfold onSub
  apply after_onRequest_dram
  intro r
  split <;> simp [h]
@[simp] theorem after_onMctp_dram (f : State → State) (s : State) (h : ∀ s, (f s).dram = s.dram) :
    (after (onMctp f s) s).dram = s.dram := by
  unfold onMctp
  split <;> simp [h]
@[simp] theorem after_onSpdm_dram (t : Transport) (f : State → State) (s : State) (h : ∀ s, (f s).dram = s.dram) :
    (after (onSpdm t f s) s).dram = s.dram := by
  unfold onSpdm
  split
  · simp [h]
  · (repeat' split) <;> simp [h]
@[simp] theorem after_onRequest_pads (m : Mbx) (op : Nat) (f : MbReq → State → State) (s : State)
    (h : ∀ r, (f r s).pads = s.pads) : (after (onRequest m op f s) s).pads = s.pads := by
  unfold onRequest
  split
  · split <;> simp [h]
  · rfl
@[simp] theorem after_onSub_pads (m : Mbx) (op i sub : Nat) (f : MbReq → State → State) (s : State)
    (h : ∀ r, (f r s).pads = s.pads) : (after (onSub m op i sub f s) s).pads = s.pads := by
  unfold onSub
  apply after_onRequest_pads
  intro r
  split <;> simp [h]
@[simp] theorem after_onMctp_pads (f : State → State) (s : State) (h : ∀ s, (f s).pads = s.pads) :
    (after (onMctp f s) s).pads = s.pads := by
  unfold onMctp
  split <;> simp [h]
@[simp] theorem after_onSpdm_pads (t : Transport) (f : State → State) (s : State) (h : ∀ s, (f s).pads = s.pads) :
    (after (onSpdm t f s) s).pads = s.pads := by
  unfold onSpdm
  split
  · simp [h]
  · (repeat' split) <;> simp [h]
@[simp] theorem after_onRequest_integ (m : Mbx) (op : Nat) (f : MbReq → State → State) (s : State)
    (h : ∀ r, (f r s).integ = s.integ) : (after (onRequest m op f s) s).integ = s.integ := by
  unfold onRequest
  split
  · split <;> simp [h]
  · rfl
@[simp] theorem after_onSub_integ (m : Mbx) (op i sub : Nat) (f : MbReq → State → State) (s : State)
    (h : ∀ r, (f r s).integ = s.integ) : (after (onSub m op i sub f s) s).integ = s.integ := by
  unfold onSub
  apply after_onRequest_integ
  intro r
  split <;> simp [h]
@[simp] theorem after_onMctp_integ (f : State → State) (s : State) (h : ∀ s, (f s).integ = s.integ) :
    (after (onMctp f s) s).integ = s.integ := by
  unfold onMctp
  split <;> simp [h]
@[simp] theorem after_onSpdm_integ (t : Transport) (f : State → State) (s : State) (h : ∀ s, (f s).integ = s.integ) :
    (after (onSpdm t f s) s).integ = s.integ := by
  unfold onSpdm
  split
  · simp [h]
  · (repeat' split) <;> simp [h]
@[simp] theorem after_onRequest_tide (m : Mbx) (op : Nat) (f : MbReq → State → State) (s : State)
    (h : ∀ r, (f r s).tide = s.tide) : (after (onRequest m op f s) s).tide = s.tide := by
  unfold onRequest
  split
  · split <;> simp [h]
  · rfl
@[simp] theorem after_onSub_tide (m : Mbx) (op i sub : Nat) (f : MbReq → State → State) (s : State)
    (h : ∀ r, (f r s).tide = s.tide) : (after (onSub m op i sub f s) s).tide = s.tide := by
  unfold onSub
  apply after_onRequest_tide
  intro r
  split <;> simp [h]
@[simp] theorem after_onMctp_tide (f : State → State) (s : State) (h : ∀ s, (f s).tide = s.tide) :
    (after (onMctp f s) s).tide = s.tide := by
  unfold onMctp
  split <;> simp [h]
@[simp] theorem after_onSpdm_tide (t : Transport) (f : State → State) (s : State) (h : ∀ s, (f s).tide = s.tide) :
    (after (onSpdm t f s) s).tide = s.tide := by
  unfold onSpdm
  split
  · simp [h]
  · (repeat' split) <;> simp [h]
@[simp] theorem after_onRequest_tap (m : Mbx) (op : Nat) (f : MbReq → State → State) (s : State)
    (h : ∀ r, (f r s).tap = s.tap) : (after (onRequest m op f s) s).tap = s.tap := by
  unfold onRequest
  split
  · split <;> simp [h]
  · rfl
@[simp] theorem after_onSub_tap (m : Mbx) (op i sub : Nat) (f : MbReq → State → State) (s : State)
    (h : ∀ r, (f r s).tap = s.tap) : (after (onSub m op i sub f s) s).tap = s.tap := by
  unfold onSub
  apply after_onRequest_tap
  intro r
  split <;> simp [h]
@[simp] theorem after_onMctp_tap (f : State → State) (s : State) (h : ∀ s, (f s).tap = s.tap) :
    (after (onMctp f s) s).tap = s.tap := by
  unfold onMctp
  split <;> simp [h]
@[simp] theorem after_onSpdm_tap (t : Transport) (f : State → State) (s : State) (h : ∀ s, (f s).tap = s.tap) :
    (after (onSpdm t f s) s).tap = s.tap := by
  unfold onSpdm
  split
  · simp [h]
  · (repeat' split) <;> simp [h]
@[simp] theorem after_onRequest_pending (m : Mbx) (op : Nat) (f : MbReq → State → State) (s : State)
    (h : ∀ r, (f r s).pending = s.pending) : (after (onRequest m op f s) s).pending = s.pending := by
  unfold onRequest
  split
  · split <;> simp [h]
  · rfl
@[simp] theorem after_onSub_pending (m : Mbx) (op i sub : Nat) (f : MbReq → State → State) (s : State)
    (h : ∀ r, (f r s).pending = s.pending) : (after (onSub m op i sub f s) s).pending = s.pending := by
  unfold onSub
  apply after_onRequest_pending
  intro r
  split <;> simp [h]
@[simp] theorem after_onMctp_pending (f : State → State) (s : State) (h : ∀ s, (f s).pending = s.pending) :
    (after (onMctp f s) s).pending = s.pending := by
  unfold onMctp
  split <;> simp [h]
@[simp] theorem after_onSpdm_pending (t : Transport) (f : State → State) (s : State) (h : ∀ s, (f s).pending = s.pending) :
    (after (onSpdm t f s) s).pending = s.pending := by
  unfold onSpdm
  split
  · simp [h]
  · (repeat' split) <;> simp [h]

@[simp] theorem frame_execBedrockProgramComplete (bank : Fin 2) (what : BedWrite) (good : Bool) (s : State) :
    (after (execBedrockProgramComplete bank what good s) s).clk = s.clk ∧ (after (execBedrockProgramComplete bank what good s) s).boot = s.boot ∧ (after (execBedrockProgramComplete bank what good s) s).dram = s.dram ∧ (after (execBedrockProgramComplete bank what good s) s).pads = s.pads ∧ (after (execBedrockProgramComplete bank what good s) s).integ = s.integ ∧ (after (execBedrockProgramComplete bank what good s) s).tap = s.tap ∧ (after (execBedrockProgramComplete bank what good s) s).pending = s.pending := by
  unfold execBedrockProgramComplete
  first
    | (simp [apply_ite State.clk, apply_ite State.boot, apply_ite State.dram, apply_ite State.pads, apply_ite State.integ, apply_ite State.tap, apply_ite State.pending]; done)
    | ((repeat' split) <;> (first | (simp [apply_ite State.clk, apply_ite State.boot, apply_ite State.dram, apply_ite State.pads, apply_ite State.integ, apply_ite State.tap, apply_ite State.pending]; done) | (simp_all [apply_ite State.clk, apply_ite State.boot, apply_ite State.dram, apply_ite State.pads, apply_ite State.integ, apply_ite State.tap, apply_ite State.pending]; done)))
    | (dsimp only; (repeat' apply And.intro) <;> (repeat' split) <;> (first | (simp [apply_ite State.clk, apply_ite State.boot, apply_ite State.dram, apply_ite State.pads, apply_ite State.integ, apply_ite State.tap, apply_ite State.pending]; done) | (simp_all [apply_ite State.clk, apply_ite State.boot, apply_ite State.dram, apply_ite State.pads, apply_ite State.integ, apply_ite State.tap, apply_ite State.pending]; done)))
@[simp] theorem frame_execBedrockEraseComplete (bank : Fin 2) (good : Bool) (s : State) :
    (after (execBedrockEraseComplete bank good s) s).clk = s.clk ∧ (after (execBedrockEraseComplete bank good s) s).boot = s.boot ∧ (after (execBedrockEraseComplete bank good s) s).dram = s.dram ∧ (after (execBedrockEraseComplete bank good s) s).pads = s.pads ∧ (after (execBedrockEraseComplete bank good s) s).integ = s.integ ∧ (after (execBedrockEraseComplete bank good s) s).tap = s.tap ∧ (after (execBedrockEraseComplete bank good s) s).pending = s.pending := by
  unfold execBedrockEraseComplete
  first
    | (simp [apply_ite State.clk, apply_ite State.boot, apply_ite State.dram, apply_ite State.pads, apply_ite State.integ, apply_ite State.tap, apply_ite State.pending]; done)
    | ((repeat' split) <;> (first | (simp [apply_ite State.clk, apply_ite State.boot, apply_ite State.dram, apply_ite State.pads, apply_ite State.integ, apply_ite State.tap, apply_ite State.pending]; done) | (simp_all [apply_ite State.clk, apply_ite State.boot, apply_ite State.dram, apply_ite State.pads, apply_ite State.integ, apply_ite State.tap, apply_ite State.pending]; done)))
    | (dsimp only; (repeat' apply And.intro) <;> (repeat' split) <;> (first | (simp [apply_ite State.clk, apply_ite State.boot, apply_ite State.dram, apply_ite State.pads, apply_ite State.integ, apply_ite State.tap, apply_ite State.pending]; done) | (simp_all [apply_ite State.clk, apply_ite State.boot, apply_ite State.dram, apply_ite State.pads, apply_ite State.integ, apply_ite State.tap, apply_ite State.pending]; done)))
@[simp] theorem frame_execBedrockEraseSuspend (bank : Fin 2) (s : State) :
    (after (execBedrockEraseSuspend bank s) s).clk = s.clk ∧ (after (execBedrockEraseSuspend bank s) s).boot = s.boot ∧ (after (execBedrockEraseSuspend bank s) s).dram = s.dram ∧ (after (execBedrockEraseSuspend bank s) s).pads = s.pads ∧ (after (execBedrockEraseSuspend bank s) s).integ = s.integ ∧ (after (execBedrockEraseSuspend bank s) s).tap = s.tap ∧ (after (execBedrockEraseSuspend bank s) s).pending = s.pending := by
  unfold execBedrockEraseSuspend
  first
    | (simp [apply_ite State.clk, apply_ite State.boot, apply_ite State.dram, apply_ite State.pads, apply_ite State.integ, apply_ite State.tap, apply_ite State.pending]; done)
    | ((repeat' split) <;> (first | (simp [apply_ite State.clk, apply_ite State.boot, apply_ite State.dram, apply_ite State.pads, apply_ite State.integ, apply_ite State.tap, apply_ite State.pending]; done) | (simp_all [apply_ite State.clk, apply_ite State.boot, apply_ite State.dram, apply_ite State.pads, apply_ite State.integ, apply_ite State.tap, apply_ite State.pending]; done)))
    | (dsimp only; (repeat' apply And.intro) <;> (repeat' split) <;> (first | (simp [apply_ite State.clk, apply_ite State.boot, apply_ite State.dram, apply_ite State.pads, apply_ite State.integ, apply_ite State.tap, apply_ite State.pending]; done) | (simp_all [apply_ite State.clk, apply_ite State.boot, apply_ite State.dram, apply_ite State.pads, apply_ite State.integ, apply_ite State.tap, apply_ite State.pending]; done)))
@[simp] theorem frame_execBedrockEraseResume (bank : Fin 2) (s : State) :
    (after (execBedrockEraseResume bank s) s).clk = s.clk ∧ (after (execBedrockEraseResume bank s) s).boot = s.boot ∧ (after (execBedrockEraseResume bank s) s).dram = s.dram ∧ (after (execBedrockEraseResume bank s) s).pads = s.pads ∧ (after (execBedrockEraseResume bank s) s).integ = s.integ ∧ (after (execBedrockEraseResume bank s) s).tap = s.tap ∧ (after (execBedrockEraseResume bank s) s).pending = s.pending := by
  unfold execBedrockEraseResume
  first
    | (simp [apply_ite State.clk, apply_ite State.boot, apply_ite State.dram, apply_ite State.pads, apply_ite State.integ, apply_ite State.tap, apply_ite State.pending]; done)
    | ((repeat' split) <;> (first | (simp [apply_ite State.clk, apply_ite State.boot, apply_ite State.dram, apply_ite State.pads, apply_ite State.integ, apply_ite State.tap, apply_ite State.pending]; done) | (simp_all [apply_ite State.clk, apply_ite State.boot, apply_ite State.dram, apply_ite State.pads, apply_ite State.integ, apply_ite State.tap, apply_ite State.pending]; done)))
    | (dsimp only; (repeat' apply And.intro) <;> (repeat' split) <;> (first | (simp [apply_ite State.clk, apply_ite State.boot, apply_ite State.dram, apply_ite State.pads, apply_ite State.integ, apply_ite State.tap, apply_ite State.pending]; done) | (simp_all [apply_ite State.clk, apply_ite State.boot, apply_ite State.dram, apply_ite State.pads, apply_ite State.integ, apply_ite State.tap, apply_ite State.pending]; done)))
@[simp] theorem frame_execBedrockReadResult (region : BedRegion) (corrected : Nat) (uncorrectable : Bool) (s : State) :
    (after (execBedrockReadResult region corrected uncorrectable s) s).clk = s.clk ∧ (after (execBedrockReadResult region corrected uncorrectable s) s).boot = s.boot ∧ (after (execBedrockReadResult region corrected uncorrectable s) s).dram = s.dram ∧ (after (execBedrockReadResult region corrected uncorrectable s) s).pads = s.pads ∧ (after (execBedrockReadResult region corrected uncorrectable s) s).integ = s.integ ∧ (after (execBedrockReadResult region corrected uncorrectable s) s).tap = s.tap ∧ (after (execBedrockReadResult region corrected uncorrectable s) s).pending = s.pending := by
  unfold execBedrockReadResult
  first
    | (simp [apply_ite State.clk, apply_ite State.boot, apply_ite State.dram, apply_ite State.pads, apply_ite State.integ, apply_ite State.tap, apply_ite State.pending]; done)
    | ((repeat' split) <;> (first | (simp [apply_ite State.clk, apply_ite State.boot, apply_ite State.dram, apply_ite State.pads, apply_ite State.integ, apply_ite State.tap, apply_ite State.pending]; done) | (simp_all [apply_ite State.clk, apply_ite State.boot, apply_ite State.dram, apply_ite State.pads, apply_ite State.integ, apply_ite State.tap, apply_ite State.pending]; done)))
    | (dsimp only; (repeat' apply And.intro) <;> (repeat' split) <;> (first | (simp [apply_ite State.clk, apply_ite State.boot, apply_ite State.dram, apply_ite State.pads, apply_ite State.integ, apply_ite State.tap, apply_ite State.pending]; done) | (simp_all [apply_ite State.clk, apply_ite State.boot, apply_ite State.dram, apply_ite State.pads, apply_ite State.integ, apply_ite State.tap, apply_ite State.pending]; done)))
@[simp] theorem frame_execAnchorCadence (s : State) :
    (after (execAnchorCadence s) s).clk = s.clk ∧ (after (execAnchorCadence s) s).boot = s.boot ∧ (after (execAnchorCadence s) s).dram = s.dram ∧ (after (execAnchorCadence s) s).pads = s.pads ∧ (after (execAnchorCadence s) s).integ = s.integ ∧ (after (execAnchorCadence s) s).tap = s.tap ∧ (after (execAnchorCadence s) s).pending = s.pending := by
  unfold execAnchorCadence
  first
    | (simp [apply_ite State.clk, apply_ite State.boot, apply_ite State.dram, apply_ite State.pads, apply_ite State.integ, apply_ite State.tap, apply_ite State.pending]; done)
    | ((repeat' split) <;> (first | (simp [apply_ite State.clk, apply_ite State.boot, apply_ite State.dram, apply_ite State.pads, apply_ite State.integ, apply_ite State.tap, apply_ite State.pending]; done) | (simp_all [apply_ite State.clk, apply_ite State.boot, apply_ite State.dram, apply_ite State.pads, apply_ite State.integ, apply_ite State.tap, apply_ite State.pending]; done)))
    | (dsimp only; (repeat' apply And.intro) <;> (repeat' split) <;> (first | (simp [apply_ite State.clk, apply_ite State.boot, apply_ite State.dram, apply_ite State.pads, apply_ite State.integ, apply_ite State.tap, apply_ite State.pending]; done) | (simp_all [apply_ite State.clk, apply_ite State.boot, apply_ite State.dram, apply_ite State.pads, apply_ite State.integ, apply_ite State.tap, apply_ite State.pending]; done)))
@[simp] theorem frame_execAnchorAfterRaise (s : State) :
    (after (execAnchorAfterRaise s) s).clk = s.clk ∧ (after (execAnchorAfterRaise s) s).boot = s.boot ∧ (after (execAnchorAfterRaise s) s).dram = s.dram ∧ (after (execAnchorAfterRaise s) s).pads = s.pads ∧ (after (execAnchorAfterRaise s) s).integ = s.integ ∧ (after (execAnchorAfterRaise s) s).tap = s.tap ∧ (after (execAnchorAfterRaise s) s).pending = s.pending := by
  unfold execAnchorAfterRaise
  first
    | (simp [apply_ite State.clk, apply_ite State.boot, apply_ite State.dram, apply_ite State.pads, apply_ite State.integ, apply_ite State.tap, apply_ite State.pending]; done)
    | ((repeat' split) <;> (first | (simp [apply_ite State.clk, apply_ite State.boot, apply_ite State.dram, apply_ite State.pads, apply_ite State.integ, apply_ite State.tap, apply_ite State.pending]; done) | (simp_all [apply_ite State.clk, apply_ite State.boot, apply_ite State.dram, apply_ite State.pads, apply_ite State.integ, apply_ite State.tap, apply_ite State.pending]; done)))
    | (dsimp only; (repeat' apply And.intro) <;> (repeat' split) <;> (first | (simp [apply_ite State.clk, apply_ite State.boot, apply_ite State.dram, apply_ite State.pads, apply_ite State.integ, apply_ite State.tap, apply_ite State.pending]; done) | (simp_all [apply_ite State.clk, apply_ite State.boot, apply_ite State.dram, apply_ite State.pads, apply_ite State.integ, apply_ite State.tap, apply_ite State.pending]; done)))
@[simp] theorem frame_execAdmissionRound (s : State) :
    (after (execAdmissionRound s) s).clk = s.clk ∧ (after (execAdmissionRound s) s).boot = s.boot ∧ (after (execAdmissionRound s) s).dram = s.dram ∧ (after (execAdmissionRound s) s).pads = s.pads ∧ (after (execAdmissionRound s) s).integ = s.integ ∧ (after (execAdmissionRound s) s).tap = s.tap ∧ (after (execAdmissionRound s) s).pending = s.pending := by
  unfold execAdmissionRound
  first
    | (simp [apply_ite State.clk, apply_ite State.boot, apply_ite State.dram, apply_ite State.pads, apply_ite State.integ, apply_ite State.tap, apply_ite State.pending]; done)
    | ((repeat' split) <;> (first | (simp [apply_ite State.clk, apply_ite State.boot, apply_ite State.dram, apply_ite State.pads, apply_ite State.integ, apply_ite State.tap, apply_ite State.pending]; done) | (simp_all [apply_ite State.clk, apply_ite State.boot, apply_ite State.dram, apply_ite State.pads, apply_ite State.integ, apply_ite State.tap, apply_ite State.pending]; done)))
    | (dsimp only; (repeat' apply And.intro) <;> (repeat' split) <;> (first | (simp [apply_ite State.clk, apply_ite State.boot, apply_ite State.dram, apply_ite State.pads, apply_ite State.integ, apply_ite State.tap, apply_ite State.pending]; done) | (simp_all [apply_ite State.clk, apply_ite State.boot, apply_ite State.dram, apply_ite State.pads, apply_ite State.integ, apply_ite State.tap, apply_ite State.pending]; done)))
@[simp] theorem frame_execSoftLimitTimer (pool : Nat) (s : State) :
    (after (execSoftLimitTimer pool s) s).clk = s.clk ∧ (after (execSoftLimitTimer pool s) s).boot = s.boot ∧ (after (execSoftLimitTimer pool s) s).dram = s.dram ∧ (after (execSoftLimitTimer pool s) s).pads = s.pads ∧ (after (execSoftLimitTimer pool s) s).integ = s.integ ∧ (after (execSoftLimitTimer pool s) s).tap = s.tap ∧ (after (execSoftLimitTimer pool s) s).pending = s.pending := by
  unfold execSoftLimitTimer
  first
    | (simp [apply_ite State.clk, apply_ite State.boot, apply_ite State.dram, apply_ite State.pads, apply_ite State.integ, apply_ite State.tap, apply_ite State.pending]; done)
    | ((repeat' split) <;> (first | (simp [apply_ite State.clk, apply_ite State.boot, apply_ite State.dram, apply_ite State.pads, apply_ite State.integ, apply_ite State.tap, apply_ite State.pending]; done) | (simp_all [apply_ite State.clk, apply_ite State.boot, apply_ite State.dram, apply_ite State.pads, apply_ite State.integ, apply_ite State.tap, apply_ite State.pending]; done)))
    | (dsimp only; (repeat' apply And.intro) <;> (repeat' split) <;> (first | (simp [apply_ite State.clk, apply_ite State.boot, apply_ite State.dram, apply_ite State.pads, apply_ite State.integ, apply_ite State.tap, apply_ite State.pending]; done) | (simp_all [apply_ite State.clk, apply_ite State.boot, apply_ite State.dram, apply_ite State.pads, apply_ite State.integ, apply_ite State.tap, apply_ite State.pending]; done)))
@[simp] theorem frame_execRead (port : PortId) (queue : Nat) (tag : Fin 32) (desc : BitVec 512) (dataSegs metaSegs : List (List (BitVec 128))) (s : State) :
    (after (execRead port queue tag desc dataSegs metaSegs s) s).clk = s.clk ∧ (after (execRead port queue tag desc dataSegs metaSegs s) s).boot = s.boot ∧ (after (execRead port queue tag desc dataSegs metaSegs s) s).dram = s.dram ∧ (after (execRead port queue tag desc dataSegs metaSegs s) s).pads = s.pads ∧ (after (execRead port queue tag desc dataSegs metaSegs s) s).integ = s.integ ∧ (after (execRead port queue tag desc dataSegs metaSegs s) s).tap = s.tap ∧ (after (execRead port queue tag desc dataSegs metaSegs s) s).pending = s.pending := by
  unfold execRead
  first
    | (simp [apply_ite State.clk, apply_ite State.boot, apply_ite State.dram, apply_ite State.pads, apply_ite State.integ, apply_ite State.tap, apply_ite State.pending]; done)
    | ((repeat' split) <;> (first | (simp [apply_ite State.clk, apply_ite State.boot, apply_ite State.dram, apply_ite State.pads, apply_ite State.integ, apply_ite State.tap, apply_ite State.pending]; done) | (simp_all [apply_ite State.clk, apply_ite State.boot, apply_ite State.dram, apply_ite State.pads, apply_ite State.integ, apply_ite State.tap, apply_ite State.pending]; done)))
    | (dsimp only; (repeat' apply And.intro) <;> (repeat' split) <;> (first | (simp [apply_ite State.clk, apply_ite State.boot, apply_ite State.dram, apply_ite State.pads, apply_ite State.integ, apply_ite State.tap, apply_ite State.pending]; done) | (simp_all [apply_ite State.clk, apply_ite State.boot, apply_ite State.dram, apply_ite State.pads, apply_ite State.integ, apply_ite State.tap, apply_ite State.pending]; done)))
@[simp] theorem frame_execWrite (port : PortId) (queue : Nat) (tag : Fin 32) (desc : BitVec 512) (dataSegs metaSegs : List (List (BitVec 128))) (s : State) :
    (after (execWrite port queue tag desc dataSegs metaSegs s) s).clk = s.clk ∧ (after (execWrite port queue tag desc dataSegs metaSegs s) s).boot = s.boot ∧ (after (execWrite port queue tag desc dataSegs metaSegs s) s).dram = s.dram ∧ (after (execWrite port queue tag desc dataSegs metaSegs s) s).pads = s.pads ∧ (after (execWrite port queue tag desc dataSegs metaSegs s) s).integ = s.integ ∧ (after (execWrite port queue tag desc dataSegs metaSegs s) s).tap = s.tap ∧ (after (execWrite port queue tag desc dataSegs metaSegs s) s).pending = s.pending := by
  unfold execWrite
  first
    | (simp [apply_ite State.clk, apply_ite State.boot, apply_ite State.dram, apply_ite State.pads, apply_ite State.integ, apply_ite State.tap, apply_ite State.pending]; done)
    | ((repeat' split) <;> (first | (simp [apply_ite State.clk, apply_ite State.boot, apply_ite State.dram, apply_ite State.pads, apply_ite State.integ, apply_ite State.tap, apply_ite State.pending]; done) | (simp_all [apply_ite State.clk, apply_ite State.boot, apply_ite State.dram, apply_ite State.pads, apply_ite State.integ, apply_ite State.tap, apply_ite State.pending]; done)))
    | (dsimp only; (repeat' apply And.intro) <;> (repeat' split) <;> (first | (simp [apply_ite State.clk, apply_ite State.boot, apply_ite State.dram, apply_ite State.pads, apply_ite State.integ, apply_ite State.tap, apply_ite State.pending]; done) | (simp_all [apply_ite State.clk, apply_ite State.boot, apply_ite State.dram, apply_ite State.pads, apply_ite State.integ, apply_ite State.tap, apply_ite State.pending]; done)))
@[simp] theorem frame_execWriteAtomic (port : PortId) (queue : Nat) (tag : Fin 32) (desc : BitVec 512) (dataSegs metaSegs : List (List (BitVec 128))) (s : State) :
    (after (execWriteAtomic port queue tag desc dataSegs metaSegs s) s).clk = s.clk ∧ (after (execWriteAtomic port queue tag desc dataSegs metaSegs s) s).boot = s.boot ∧ (after (execWriteAtomic port queue tag desc dataSegs metaSegs s) s).dram = s.dram ∧ (after (execWriteAtomic port queue tag desc dataSegs metaSegs s) s).pads = s.pads ∧ (after (execWriteAtomic port queue tag desc dataSegs metaSegs s) s).integ = s.integ ∧ (after (execWriteAtomic port queue tag desc dataSegs metaSegs s) s).tap = s.tap ∧ (after (execWriteAtomic port queue tag desc dataSegs metaSegs s) s).pending = s.pending := by
  unfold execWriteAtomic
  first
    | (simp [apply_ite State.clk, apply_ite State.boot, apply_ite State.dram, apply_ite State.pads, apply_ite State.integ, apply_ite State.tap, apply_ite State.pending]; done)
    | ((repeat' split) <;> (first | (simp [apply_ite State.clk, apply_ite State.boot, apply_ite State.dram, apply_ite State.pads, apply_ite State.integ, apply_ite State.tap, apply_ite State.pending]; done) | (simp_all [apply_ite State.clk, apply_ite State.boot, apply_ite State.dram, apply_ite State.pads, apply_ite State.integ, apply_ite State.tap, apply_ite State.pending]; done)))
    | (dsimp only; (repeat' apply And.intro) <;> (repeat' split) <;> (first | (simp [apply_ite State.clk, apply_ite State.boot, apply_ite State.dram, apply_ite State.pads, apply_ite State.integ, apply_ite State.tap, apply_ite State.pending]; done) | (simp_all [apply_ite State.clk, apply_ite State.boot, apply_ite State.dram, apply_ite State.pads, apply_ite State.integ, apply_ite State.tap, apply_ite State.pending]; done)))
@[simp] theorem frame_execDiscard (port : PortId) (queue : Nat) (tag : Fin 32) (desc : BitVec 512) (dataSegs metaSegs : List (List (BitVec 128))) (s : State) :
    (after (execDiscard port queue tag desc dataSegs metaSegs s) s).clk = s.clk ∧ (after (execDiscard port queue tag desc dataSegs metaSegs s) s).boot = s.boot ∧ (after (execDiscard port queue tag desc dataSegs metaSegs s) s).dram = s.dram ∧ (after (execDiscard port queue tag desc dataSegs metaSegs s) s).pads = s.pads ∧ (after (execDiscard port queue tag desc dataSegs metaSegs s) s).integ = s.integ ∧ (after (execDiscard port queue tag desc dataSegs metaSegs s) s).tap = s.tap ∧ (after (execDiscard port queue tag desc dataSegs metaSegs s) s).pending = s.pending := by
  unfold execDiscard
  first
    | (simp [apply_ite State.clk, apply_ite State.boot, apply_ite State.dram, apply_ite State.pads, apply_ite State.integ, apply_ite State.tap, apply_ite State.pending]; done)
    | ((repeat' split) <;> (first | (simp [apply_ite State.clk, apply_ite State.boot, apply_ite State.dram, apply_ite State.pads, apply_ite State.integ, apply_ite State.tap, apply_ite State.pending]; done) | (simp_all [apply_ite State.clk, apply_ite State.boot, apply_ite State.dram, apply_ite State.pads, apply_ite State.integ, apply_ite State.tap, apply_ite State.pending]; done)))
    | (dsimp only; (repeat' apply And.intro) <;> (repeat' split) <;> (first | (simp [apply_ite State.clk, apply_ite State.boot, apply_ite State.dram, apply_ite State.pads, apply_ite State.integ, apply_ite State.tap, apply_ite State.pending]; done) | (simp_all [apply_ite State.clk, apply_ite State.boot, apply_ite State.dram, apply_ite State.pads, apply_ite State.integ, apply_ite State.tap, apply_ite State.pending]; done)))
@[simp] theorem frame_execSecureDiscard (port : PortId) (queue : Nat) (tag : Fin 32) (desc : BitVec 512) (dataSegs metaSegs : List (List (BitVec 128))) (s : State) :
    (after (execSecureDiscard port queue tag desc dataSegs metaSegs s) s).clk = s.clk ∧ (after (execSecureDiscard port queue tag desc dataSegs metaSegs s) s).boot = s.boot ∧ (after (execSecureDiscard port queue tag desc dataSegs metaSegs s) s).dram = s.dram ∧ (after (execSecureDiscard port queue tag desc dataSegs metaSegs s) s).pads = s.pads ∧ (after (execSecureDiscard port queue tag desc dataSegs metaSegs s) s).integ = s.integ ∧ (after (execSecureDiscard port queue tag desc dataSegs metaSegs s) s).tap = s.tap ∧ (after (execSecureDiscard port queue tag desc dataSegs metaSegs s) s).pending = s.pending := by
  unfold execSecureDiscard
  first
    | (simp [apply_ite State.clk, apply_ite State.boot, apply_ite State.dram, apply_ite State.pads, apply_ite State.integ, apply_ite State.tap, apply_ite State.pending]; done)
    | ((repeat' split) <;> (first | (simp [apply_ite State.clk, apply_ite State.boot, apply_ite State.dram, apply_ite State.pads, apply_ite State.integ, apply_ite State.tap, apply_ite State.pending]; done) | (simp_all [apply_ite State.clk, apply_ite State.boot, apply_ite State.dram, apply_ite State.pads, apply_ite State.integ, apply_ite State.tap, apply_ite State.pending]; done)))
    | (dsimp only; (repeat' apply And.intro) <;> (repeat' split) <;> (first | (simp [apply_ite State.clk, apply_ite State.boot, apply_ite State.dram, apply_ite State.pads, apply_ite State.integ, apply_ite State.tap, apply_ite State.pending]; done) | (simp_all [apply_ite State.clk, apply_ite State.boot, apply_ite State.dram, apply_ite State.pads, apply_ite State.integ, apply_ite State.tap, apply_ite State.pending]; done)))
@[simp] theorem frame_execVerify (port : PortId) (queue : Nat) (tag : Fin 32) (desc : BitVec 512) (dataSegs metaSegs : List (List (BitVec 128))) (s : State) :
    (after (execVerify port queue tag desc dataSegs metaSegs s) s).clk = s.clk ∧ (after (execVerify port queue tag desc dataSegs metaSegs s) s).boot = s.boot ∧ (after (execVerify port queue tag desc dataSegs metaSegs s) s).dram = s.dram ∧ (after (execVerify port queue tag desc dataSegs metaSegs s) s).pads = s.pads ∧ (after (execVerify port queue tag desc dataSegs metaSegs s) s).integ = s.integ ∧ (after (execVerify port queue tag desc dataSegs metaSegs s) s).tap = s.tap ∧ (after (execVerify port queue tag desc dataSegs metaSegs s) s).pending = s.pending := by
  unfold execVerify
  first
    | (simp [apply_ite State.clk, apply_ite State.boot, apply_ite State.dram, apply_ite State.pads, apply_ite State.integ, apply_ite State.tap, apply_ite State.pending]; done)
    | ((repeat' split) <;> (first | (simp [apply_ite State.clk, apply_ite State.boot, apply_ite State.dram, apply_ite State.pads, apply_ite State.integ, apply_ite State.tap, apply_ite State.pending]; done) | (simp_all [apply_ite State.clk, apply_ite State.boot, apply_ite State.dram, apply_ite State.pads, apply_ite State.integ, apply_ite State.tap, apply_ite State.pending]; done)))
    | (dsimp only; (repeat' apply And.intro) <;> (repeat' split) <;> (first | (simp [apply_ite State.clk, apply_ite State.boot, apply_ite State.dram, apply_ite State.pads, apply_ite State.integ, apply_ite State.tap, apply_ite State.pending]; done) | (simp_all [apply_ite State.clk, apply_ite State.boot, apply_ite State.dram, apply_ite State.pads, apply_ite State.integ, apply_ite State.tap, apply_ite State.pending]; done)))
@[simp] theorem frame_execCodec (port : PortId) (queue : Nat) (tag : Fin 32) (desc : BitVec 512) (table : List (BitVec 128)) (segs : List (List (List (BitVec 128)))) (matrix : List Byte) (inputs outputs : List (List Byte)) (s : State) :
    (after (execCodec port queue tag desc table segs matrix inputs outputs s) s).clk = s.clk ∧ (after (execCodec port queue tag desc table segs matrix inputs outputs s) s).boot = s.boot ∧ (after (execCodec port queue tag desc table segs matrix inputs outputs s) s).dram = s.dram ∧ (after (execCodec port queue tag desc table segs matrix inputs outputs s) s).pads = s.pads ∧ (after (execCodec port queue tag desc table segs matrix inputs outputs s) s).integ = s.integ ∧ (after (execCodec port queue tag desc table segs matrix inputs outputs s) s).tap = s.tap ∧ (after (execCodec port queue tag desc table segs matrix inputs outputs s) s).pending = s.pending := by
  unfold execCodec
  first
    | (simp [apply_ite State.clk, apply_ite State.boot, apply_ite State.dram, apply_ite State.pads, apply_ite State.integ, apply_ite State.tap, apply_ite State.pending]; done)
    | ((repeat' split) <;> (first | (simp [apply_ite State.clk, apply_ite State.boot, apply_ite State.dram, apply_ite State.pads, apply_ite State.integ, apply_ite State.tap, apply_ite State.pending]; done) | (simp_all [apply_ite State.clk, apply_ite State.boot, apply_ite State.dram, apply_ite State.pads, apply_ite State.integ, apply_ite State.tap, apply_ite State.pending]; done)))
    | (dsimp only; (repeat' apply And.intro) <;> (repeat' split) <;> (first | (simp [apply_ite State.clk, apply_ite State.boot, apply_ite State.dram, apply_ite State.pads, apply_ite State.integ, apply_ite State.tap, apply_ite State.pending]; done) | (simp_all [apply_ite State.clk, apply_ite State.boot, apply_ite State.dram, apply_ite State.pads, apply_ite State.integ, apply_ite State.tap, apply_ite State.pending]; done)))
@[simp] theorem frame_execGlaze (port : PortId) (queue : Nat) (tag : Fin 32) (desc : BitVec 512) (dataSegs metaSegs : List (List (BitVec 128))) (source aux : List Byte) (s : State) :
    (after (execGlaze port queue tag desc dataSegs metaSegs source aux s) s).clk = s.clk ∧ (after (execGlaze port queue tag desc dataSegs metaSegs source aux s) s).boot = s.boot ∧ (after (execGlaze port queue tag desc dataSegs metaSegs source aux s) s).dram = s.dram ∧ (after (execGlaze port queue tag desc dataSegs metaSegs source aux s) s).pads = s.pads ∧ (after (execGlaze port queue tag desc dataSegs metaSegs source aux s) s).integ = s.integ ∧ (after (execGlaze port queue tag desc dataSegs metaSegs source aux s) s).tap = s.tap ∧ (after (execGlaze port queue tag desc dataSegs metaSegs source aux s) s).pending = s.pending := by
  unfold execGlaze
  first
    | (simp [apply_ite State.clk, apply_ite State.boot, apply_ite State.dram, apply_ite State.pads, apply_ite State.integ, apply_ite State.tap, apply_ite State.pending]; done)
    | ((repeat' split) <;> (first | (simp [apply_ite State.clk, apply_ite State.boot, apply_ite State.dram, apply_ite State.pads, apply_ite State.integ, apply_ite State.tap, apply_ite State.pending]; done) | (simp_all [apply_ite State.clk, apply_ite State.boot, apply_ite State.dram, apply_ite State.pads, apply_ite State.integ, apply_ite State.tap, apply_ite State.pending]; done)))
    | (dsimp only; (repeat' apply And.intro) <;> (repeat' split) <;> (first | (simp [apply_ite State.clk, apply_ite State.boot, apply_ite State.dram, apply_ite State.pads, apply_ite State.integ, apply_ite State.tap, apply_ite State.pending]; done) | (simp_all [apply_ite State.clk, apply_ite State.boot, apply_ite State.dram, apply_ite State.pads, apply_ite State.integ, apply_ite State.tap, apply_ite State.pending]; done)))
@[simp] theorem frame_execSubmit (port : PortId) (queue : Nat) (value : BitVec 32) (entry : Option (BitVec 512)) (s : State) :
    (after (execSubmit port queue value entry s) s).clk = s.clk ∧ (after (execSubmit port queue value entry s) s).boot = s.boot ∧ (after (execSubmit port queue value entry s) s).dram = s.dram ∧ (after (execSubmit port queue value entry s) s).pads = s.pads ∧ (after (execSubmit port queue value entry s) s).integ = s.integ ∧ (after (execSubmit port queue value entry s) s).tap = s.tap ∧ (after (execSubmit port queue value entry s) s).pending = s.pending := by
  unfold execSubmit
  first
    | (simp [apply_ite State.clk, apply_ite State.boot, apply_ite State.dram, apply_ite State.pads, apply_ite State.integ, apply_ite State.tap, apply_ite State.pending]; done)
    | ((repeat' split) <;> (first | (simp [apply_ite State.clk, apply_ite State.boot, apply_ite State.dram, apply_ite State.pads, apply_ite State.integ, apply_ite State.tap, apply_ite State.pending]; done) | (simp_all [apply_ite State.clk, apply_ite State.boot, apply_ite State.dram, apply_ite State.pads, apply_ite State.integ, apply_ite State.tap, apply_ite State.pending]; done)))
    | (dsimp only; (repeat' apply And.intro) <;> (repeat' split) <;> (first | (simp [apply_ite State.clk, apply_ite State.boot, apply_ite State.dram, apply_ite State.pads, apply_ite State.integ, apply_ite State.tap, apply_ite State.pending]; done) | (simp_all [apply_ite State.clk, apply_ite State.boot, apply_ite State.dram, apply_ite State.pads, apply_ite State.integ, apply_ite State.tap, apply_ite State.pending]; done)))
@[simp] theorem frame_execAbort (port : PortId) (queue : Nat) (value : BitVec 32) (s : State) :
    (after (execAbort port queue value s) s).clk = s.clk ∧ (after (execAbort port queue value s) s).boot = s.boot ∧ (after (execAbort port queue value s) s).dram = s.dram ∧ (after (execAbort port queue value s) s).pads = s.pads ∧ (after (execAbort port queue value s) s).integ = s.integ ∧ (after (execAbort port queue value s) s).tap = s.tap ∧ (after (execAbort port queue value s) s).pending = s.pending := by
  unfold execAbort
  first
    | (simp [apply_ite State.clk, apply_ite State.boot, apply_ite State.dram, apply_ite State.pads, apply_ite State.integ, apply_ite State.tap, apply_ite State.pending]; done)
    | ((repeat' split) <;> (first | (simp [apply_ite State.clk, apply_ite State.boot, apply_ite State.dram, apply_ite State.pads, apply_ite State.integ, apply_ite State.tap, apply_ite State.pending]; done) | (simp_all [apply_ite State.clk, apply_ite State.boot, apply_ite State.dram, apply_ite State.pads, apply_ite State.integ, apply_ite State.tap, apply_ite State.pending]; done)))
    | (dsimp only; (repeat' apply And.intro) <;> (repeat' split) <;> (first | (simp [apply_ite State.clk, apply_ite State.boot, apply_ite State.dram, apply_ite State.pads, apply_ite State.integ, apply_ite State.tap, apply_ite State.pending]; done) | (simp_all [apply_ite State.clk, apply_ite State.boot, apply_ite State.dram, apply_ite State.pads, apply_ite State.integ, apply_ite State.tap, apply_ite State.pending]; done)))
@[simp] theorem frame_execCqHead (port : PortId) (queue : Nat) (value : BitVec 32) (s : State) :
    (after (execCqHead port queue value s) s).clk = s.clk ∧ (after (execCqHead port queue value s) s).boot = s.boot ∧ (after (execCqHead port queue value s) s).dram = s.dram ∧ (after (execCqHead port queue value s) s).pads = s.pads ∧ (after (execCqHead port queue value s) s).integ = s.integ ∧ (after (execCqHead port queue value s) s).tap = s.tap ∧ (after (execCqHead port queue value s) s).pending = s.pending := by
  unfold execCqHead
  first
    | (simp [apply_ite State.clk, apply_ite State.boot, apply_ite State.dram, apply_ite State.pads, apply_ite State.integ, apply_ite State.tap, apply_ite State.pending]; done)
    | ((repeat' split) <;> (first | (simp [apply_ite State.clk, apply_ite State.boot, apply_ite State.dram, apply_ite State.pads, apply_ite State.integ, apply_ite State.tap, apply_ite State.pending]; done) | (simp_all [apply_ite State.clk, apply_ite State.boot, apply_ite State.dram, apply_ite State.pads, apply_ite State.integ, apply_ite State.tap, apply_ite State.pending]; done)))
    | (dsimp only; (repeat' apply And.intro) <;> (repeat' split) <;> (first | (simp [apply_ite State.clk, apply_ite State.boot, apply_ite State.dram, apply_ite State.pads, apply_ite State.integ, apply_ite State.tap, apply_ite State.pending]; done) | (simp_all [apply_ite State.clk, apply_ite State.boot, apply_ite State.dram, apply_ite State.pads, apply_ite State.integ, apply_ite State.tap, apply_ite State.pending]; done)))
@[simp] theorem frame_execResumeFetch (port : PortId) (queue : Nat) (s : State) :
    (after (execResumeFetch port queue s) s).clk = s.clk ∧ (after (execResumeFetch port queue s) s).boot = s.boot ∧ (after (execResumeFetch port queue s) s).dram = s.dram ∧ (after (execResumeFetch port queue s) s).pads = s.pads ∧ (after (execResumeFetch port queue s) s).integ = s.integ ∧ (after (execResumeFetch port queue s) s).tap = s.tap ∧ (after (execResumeFetch port queue s) s).pending = s.pending := by
  unfold execResumeFetch
  first
    | (simp [apply_ite State.clk, apply_ite State.boot, apply_ite State.dram, apply_ite State.pads, apply_ite State.integ, apply_ite State.tap, apply_ite State.pending]; done)
    | ((repeat' split) <;> (first | (simp [apply_ite State.clk, apply_ite State.boot, apply_ite State.dram, apply_ite State.pads, apply_ite State.integ, apply_ite State.tap, apply_ite State.pending]; done) | (simp_all [apply_ite State.clk, apply_ite State.boot, apply_ite State.dram, apply_ite State.pads, apply_ite State.integ, apply_ite State.tap, apply_ite State.pending]; done)))
    | (dsimp only; (repeat' apply And.intro) <;> (repeat' split) <;> (first | (simp [apply_ite State.clk, apply_ite State.boot, apply_ite State.dram, apply_ite State.pads, apply_ite State.integ, apply_ite State.tap, apply_ite State.pending]; done) | (simp_all [apply_ite State.clk, apply_ite State.boot, apply_ite State.dram, apply_ite State.pads, apply_ite State.integ, apply_ite State.tap, apply_ite State.pending]; done)))
@[simp] theorem frame_execResumeFlush (port : PortId) (queue : Nat) (s : State) :
    (after (execResumeFlush port queue s) s).clk = s.clk ∧ (after (execResumeFlush port queue s) s).boot = s.boot ∧ (after (execResumeFlush port queue s) s).dram = s.dram ∧ (after (execResumeFlush port queue s) s).pads = s.pads ∧ (after (execResumeFlush port queue s) s).integ = s.integ ∧ (after (execResumeFlush port queue s) s).tap = s.tap ∧ (after (execResumeFlush port queue s) s).pending = s.pending := by
  unfold execResumeFlush
  first
    | (simp [apply_ite State.clk, apply_ite State.boot, apply_ite State.dram, apply_ite State.pads, apply_ite State.integ, apply_ite State.tap, apply_ite State.pending]; done)
    | ((repeat' split) <;> (first | (simp [apply_ite State.clk, apply_ite State.boot, apply_ite State.dram, apply_ite State.pads, apply_ite State.integ, apply_ite State.tap, apply_ite State.pending]; done) | (simp_all [apply_ite State.clk, apply_ite State.boot, apply_ite State.dram, apply_ite State.pads, apply_ite State.integ, apply_ite State.tap, apply_ite State.pending]; done)))
    | (dsimp only; (repeat' apply And.intro) <;> (repeat' split) <;> (first | (simp [apply_ite State.clk, apply_ite State.boot, apply_ite State.dram, apply_ite State.pads, apply_ite State.integ, apply_ite State.tap, apply_ite State.pending]; done) | (simp_all [apply_ite State.clk, apply_ite State.boot, apply_ite State.dram, apply_ite State.pads, apply_ite State.integ, apply_ite State.tap, apply_ite State.pending]; done)))
@[simp] theorem frame_execQueueEngineEnable (port : PortId) (s : State) :
    (after (execQueueEngineEnable port s) s).clk = s.clk ∧ (after (execQueueEngineEnable port s) s).boot = s.boot ∧ (after (execQueueEngineEnable port s) s).dram = s.dram ∧ (after (execQueueEngineEnable port s) s).pads = s.pads ∧ (after (execQueueEngineEnable port s) s).integ = s.integ ∧ (after (execQueueEngineEnable port s) s).tap = s.tap ∧ (after (execQueueEngineEnable port s) s).pending = s.pending := by
  unfold execQueueEngineEnable
  first
    | (simp [apply_ite State.clk, apply_ite State.boot, apply_ite State.dram, apply_ite State.pads, apply_ite State.integ, apply_ite State.tap, apply_ite State.pending]; done)
    | ((repeat' split) <;> (first | (simp [apply_ite State.clk, apply_ite State.boot, apply_ite State.dram, apply_ite State.pads, apply_ite State.integ, apply_ite State.tap, apply_ite State.pending]; done) | (simp_all [apply_ite State.clk, apply_ite State.boot, apply_ite State.dram, apply_ite State.pads, apply_ite State.integ, apply_ite State.tap, apply_ite State.pending]; done)))
    | (dsimp only; (repeat' apply And.intro) <;> (repeat' split) <;> (first | (simp [apply_ite State.clk, apply_ite State.boot, apply_ite State.dram, apply_ite State.pads, apply_ite State.integ, apply_ite State.tap, apply_ite State.pending]; done) | (simp_all [apply_ite State.clk, apply_ite State.boot, apply_ite State.dram, apply_ite State.pads, apply_ite State.integ, apply_ite State.tap, apply_ite State.pending]; done)))
@[simp] theorem frame_execQueueEngineDisable (port : PortId) (s : State) :
    (after (execQueueEngineDisable port s) s).clk = s.clk ∧ (after (execQueueEngineDisable port s) s).boot = s.boot ∧ (after (execQueueEngineDisable port s) s).dram = s.dram ∧ (after (execQueueEngineDisable port s) s).pads = s.pads ∧ (after (execQueueEngineDisable port s) s).integ = s.integ ∧ (after (execQueueEngineDisable port s) s).tap = s.tap ∧ (after (execQueueEngineDisable port s) s).pending = s.pending := by
  unfold execQueueEngineDisable
  first
    | (simp [apply_ite State.clk, apply_ite State.boot, apply_ite State.dram, apply_ite State.pads, apply_ite State.integ, apply_ite State.tap, apply_ite State.pending]; done)
    | ((repeat' split) <;> (first | (simp [apply_ite State.clk, apply_ite State.boot, apply_ite State.dram, apply_ite State.pads, apply_ite State.integ, apply_ite State.tap, apply_ite State.pending]; done) | (simp_all [apply_ite State.clk, apply_ite State.boot, apply_ite State.dram, apply_ite State.pads, apply_ite State.integ, apply_ite State.tap, apply_ite State.pending]; done)))
    | (dsimp only; (repeat' apply And.intro) <;> (repeat' split) <;> (first | (simp [apply_ite State.clk, apply_ite State.boot, apply_ite State.dram, apply_ite State.pads, apply_ite State.integ, apply_ite State.tap, apply_ite State.pending]; done) | (simp_all [apply_ite State.clk, apply_ite State.boot, apply_ite State.dram, apply_ite State.pads, apply_ite State.integ, apply_ite State.tap, apply_ite State.pending]; done)))
@[simp] theorem frame_execDevVecEnWrite (port : PortId) (v : Bool) (s : State) :
    (after (execDevVecEnWrite port v s) s).clk = s.clk ∧ (after (execDevVecEnWrite port v s) s).boot = s.boot ∧ (after (execDevVecEnWrite port v s) s).dram = s.dram ∧ (after (execDevVecEnWrite port v s) s).pads = s.pads ∧ (after (execDevVecEnWrite port v s) s).integ = s.integ ∧ (after (execDevVecEnWrite port v s) s).tap = s.tap ∧ (after (execDevVecEnWrite port v s) s).pending = s.pending := by
  unfold execDevVecEnWrite
  first
    | (simp [apply_ite State.clk, apply_ite State.boot, apply_ite State.dram, apply_ite State.pads, apply_ite State.integ, apply_ite State.tap, apply_ite State.pending]; done)
    | ((repeat' split) <;> (first | (simp [apply_ite State.clk, apply_ite State.boot, apply_ite State.dram, apply_ite State.pads, apply_ite State.integ, apply_ite State.tap, apply_ite State.pending]; done) | (simp_all [apply_ite State.clk, apply_ite State.boot, apply_ite State.dram, apply_ite State.pads, apply_ite State.integ, apply_ite State.tap, apply_ite State.pending]; done)))
    | (dsimp only; (repeat' apply And.intro) <;> (repeat' split) <;> (first | (simp [apply_ite State.clk, apply_ite State.boot, apply_ite State.dram, apply_ite State.pads, apply_ite State.integ, apply_ite State.tap, apply_ite State.pending]; done) | (simp_all [apply_ite State.clk, apply_ite State.boot, apply_ite State.dram, apply_ite State.pads, apply_ite State.integ, apply_ite State.tap, apply_ite State.pending]; done)))
@[simp] theorem frame_execEvtCauseClear (port : PortId) (v : Word) (s : State) :
    (after (execEvtCauseClear port v s) s).clk = s.clk ∧ (after (execEvtCauseClear port v s) s).boot = s.boot ∧ (after (execEvtCauseClear port v s) s).dram = s.dram ∧ (after (execEvtCauseClear port v s) s).pads = s.pads ∧ (after (execEvtCauseClear port v s) s).integ = s.integ ∧ (after (execEvtCauseClear port v s) s).tap = s.tap ∧ (after (execEvtCauseClear port v s) s).pending = s.pending := by
  unfold execEvtCauseClear
  first
    | (simp [apply_ite State.clk, apply_ite State.boot, apply_ite State.dram, apply_ite State.pads, apply_ite State.integ, apply_ite State.tap, apply_ite State.pending]; done)
    | ((repeat' split) <;> (first | (simp [apply_ite State.clk, apply_ite State.boot, apply_ite State.dram, apply_ite State.pads, apply_ite State.integ, apply_ite State.tap, apply_ite State.pending]; done) | (simp_all [apply_ite State.clk, apply_ite State.boot, apply_ite State.dram, apply_ite State.pads, apply_ite State.integ, apply_ite State.tap, apply_ite State.pending]; done)))
    | (dsimp only; (repeat' apply And.intro) <;> (repeat' split) <;> (first | (simp [apply_ite State.clk, apply_ite State.boot, apply_ite State.dram, apply_ite State.pads, apply_ite State.integ, apply_ite State.tap, apply_ite State.pending]; done) | (simp_all [apply_ite State.clk, apply_ite State.boot, apply_ite State.dram, apply_ite State.pads, apply_ite State.integ, apply_ite State.tap, apply_ite State.pending]; done)))
@[simp] theorem frame_execEvtMaskWrite (port : PortId) (v : Word) (s : State) :
    (after (execEvtMaskWrite port v s) s).clk = s.clk ∧ (after (execEvtMaskWrite port v s) s).boot = s.boot ∧ (after (execEvtMaskWrite port v s) s).dram = s.dram ∧ (after (execEvtMaskWrite port v s) s).pads = s.pads ∧ (after (execEvtMaskWrite port v s) s).integ = s.integ ∧ (after (execEvtMaskWrite port v s) s).tap = s.tap ∧ (after (execEvtMaskWrite port v s) s).pending = s.pending := by
  unfold execEvtMaskWrite
  first
    | (simp [apply_ite State.clk, apply_ite State.boot, apply_ite State.dram, apply_ite State.pads, apply_ite State.integ, apply_ite State.tap, apply_ite State.pending]; done)
    | ((repeat' split) <;> (first | (simp [apply_ite State.clk, apply_ite State.boot, apply_ite State.dram, apply_ite State.pads, apply_ite State.integ, apply_ite State.tap, apply_ite State.pending]; done) | (simp_all [apply_ite State.clk, apply_ite State.boot, apply_ite State.dram, apply_ite State.pads, apply_ite State.integ, apply_ite State.tap, apply_ite State.pending]; done)))
    | (dsimp only; (repeat' apply And.intro) <;> (repeat' split) <;> (first | (simp [apply_ite State.clk, apply_ite State.boot, apply_ite State.dram, apply_ite State.pads, apply_ite State.integ, apply_ite State.tap, apply_ite State.pending]; done) | (simp_all [apply_ite State.clk, apply_ite State.boot, apply_ite State.dram, apply_ite State.pads, apply_ite State.integ, apply_ite State.tap, apply_ite State.pending]; done)))
@[simp] theorem frame_execVqTsyncQueue (port : PortId) (queue : Nat) (entry : Option (BitVec 512)) (s : State) :
    (after (execVqTsyncQueue port queue entry s) s).clk = s.clk ∧ (after (execVqTsyncQueue port queue entry s) s).boot = s.boot ∧ (after (execVqTsyncQueue port queue entry s) s).dram = s.dram ∧ (after (execVqTsyncQueue port queue entry s) s).pads = s.pads ∧ (after (execVqTsyncQueue port queue entry s) s).integ = s.integ ∧ (after (execVqTsyncQueue port queue entry s) s).tap = s.tap ∧ (after (execVqTsyncQueue port queue entry s) s).pending = s.pending := by
  unfold execVqTsyncQueue
  first
    | (simp [apply_ite State.clk, apply_ite State.boot, apply_ite State.dram, apply_ite State.pads, apply_ite State.integ, apply_ite State.tap, apply_ite State.pending]; done)
    | ((repeat' split) <;> (first | (simp [apply_ite State.clk, apply_ite State.boot, apply_ite State.dram, apply_ite State.pads, apply_ite State.integ, apply_ite State.tap, apply_ite State.pending]; done) | (simp_all [apply_ite State.clk, apply_ite State.boot, apply_ite State.dram, apply_ite State.pads, apply_ite State.integ, apply_ite State.tap, apply_ite State.pending]; done)))
    | (dsimp only; (repeat' apply And.intro) <;> (repeat' split) <;> (first | (simp [apply_ite State.clk, apply_ite State.boot, apply_ite State.dram, apply_ite State.pads, apply_ite State.integ, apply_ite State.tap, apply_ite State.pending]; done) | (simp_all [apply_ite State.clk, apply_ite State.boot, apply_ite State.dram, apply_ite State.pads, apply_ite State.integ, apply_ite State.tap, apply_ite State.pending]; done)))
@[simp] theorem frame_execVqTsyncAll (port : PortId) (entries : List (Option (BitVec 512))) (s : State) :
    (after (execVqTsyncAll port entries s) s).clk = s.clk ∧ (after (execVqTsyncAll port entries s) s).boot = s.boot ∧ (after (execVqTsyncAll port entries s) s).dram = s.dram ∧ (after (execVqTsyncAll port entries s) s).pads = s.pads ∧ (after (execVqTsyncAll port entries s) s).integ = s.integ ∧ (after (execVqTsyncAll port entries s) s).tap = s.tap ∧ (after (execVqTsyncAll port entries s) s).pending = s.pending := by
  unfold execVqTsyncAll
  first
    | (simp [apply_ite State.clk, apply_ite State.boot, apply_ite State.dram, apply_ite State.pads, apply_ite State.integ, apply_ite State.tap, apply_ite State.pending]; done)
    | ((repeat' split) <;> (first | (simp [apply_ite State.clk, apply_ite State.boot, apply_ite State.dram, apply_ite State.pads, apply_ite State.integ, apply_ite State.tap, apply_ite State.pending]; done) | (simp_all [apply_ite State.clk, apply_ite State.boot, apply_ite State.dram, apply_ite State.pads, apply_ite State.integ, apply_ite State.tap, apply_ite State.pending]; done)))
    | (dsimp only; (repeat' apply And.intro) <;> (repeat' split) <;> (first | (simp [apply_ite State.clk, apply_ite State.boot, apply_ite State.dram, apply_ite State.pads, apply_ite State.integ, apply_ite State.tap, apply_ite State.pending]; done) | (simp_all [apply_ite State.clk, apply_ite State.boot, apply_ite State.dram, apply_ite State.pads, apply_ite State.integ, apply_ite State.tap, apply_ite State.pending]; done)))
@[simp] theorem frame_execTimeNowLowRead (port : PortId) (s : State) :
    (after (execTimeNowLowRead port s) s).clk = s.clk ∧ (after (execTimeNowLowRead port s) s).boot = s.boot ∧ (after (execTimeNowLowRead port s) s).dram = s.dram ∧ (after (execTimeNowLowRead port s) s).pads = s.pads ∧ (after (execTimeNowLowRead port s) s).integ = s.integ ∧ (after (execTimeNowLowRead port s) s).tap = s.tap ∧ (after (execTimeNowLowRead port s) s).pending = s.pending := by
  unfold execTimeNowLowRead
  first
    | (simp [apply_ite State.clk, apply_ite State.boot, apply_ite State.dram, apply_ite State.pads, apply_ite State.integ, apply_ite State.tap, apply_ite State.pending]; done)
    | ((repeat' split) <;> (first | (simp [apply_ite State.clk, apply_ite State.boot, apply_ite State.dram, apply_ite State.pads, apply_ite State.integ, apply_ite State.tap, apply_ite State.pending]; done) | (simp_all [apply_ite State.clk, apply_ite State.boot, apply_ite State.dram, apply_ite State.pads, apply_ite State.integ, apply_ite State.tap, apply_ite State.pending]; done)))
    | (dsimp only; (repeat' apply And.intro) <;> (repeat' split) <;> (first | (simp [apply_ite State.clk, apply_ite State.boot, apply_ite State.dram, apply_ite State.pads, apply_ite State.integ, apply_ite State.tap, apply_ite State.pending]; done) | (simp_all [apply_ite State.clk, apply_ite State.boot, apply_ite State.dram, apply_ite State.pads, apply_ite State.integ, apply_ite State.tap, apply_ite State.pending]; done)))
@[simp] theorem frame_execRegisterWrite (port : PortId) (offset : Nat) (bytes : List Byte) (s : State) :
    (after (execRegisterWrite port offset bytes s) s).clk = s.clk ∧ (after (execRegisterWrite port offset bytes s) s).boot = s.boot ∧ (after (execRegisterWrite port offset bytes s) s).dram = s.dram ∧ (after (execRegisterWrite port offset bytes s) s).pads = s.pads ∧ (after (execRegisterWrite port offset bytes s) s).integ = s.integ ∧ (after (execRegisterWrite port offset bytes s) s).tap = s.tap ∧ (after (execRegisterWrite port offset bytes s) s).pending = s.pending := by
  unfold execRegisterWrite
  first
    | (simp [apply_ite State.clk, apply_ite State.boot, apply_ite State.dram, apply_ite State.pads, apply_ite State.integ, apply_ite State.tap, apply_ite State.pending]; done)
    | ((repeat' split) <;> (first | (simp [apply_ite State.clk, apply_ite State.boot, apply_ite State.dram, apply_ite State.pads, apply_ite State.integ, apply_ite State.tap, apply_ite State.pending]; done) | (simp_all [apply_ite State.clk, apply_ite State.boot, apply_ite State.dram, apply_ite State.pads, apply_ite State.integ, apply_ite State.tap, apply_ite State.pending]; done)))
    | (dsimp only; (repeat' apply And.intro) <;> (repeat' split) <;> (first | (simp [apply_ite State.clk, apply_ite State.boot, apply_ite State.dram, apply_ite State.pads, apply_ite State.integ, apply_ite State.tap, apply_ite State.pending]; done) | (simp_all [apply_ite State.clk, apply_ite State.boot, apply_ite State.dram, apply_ite State.pads, apply_ite State.integ, apply_ite State.tap, apply_ite State.pending]; done)))
@[simp] theorem frame_execMsixVectorUnmask (port : PortId) (vector : Nat) (s : State) :
    (after (execMsixVectorUnmask port vector s) s).clk = s.clk ∧ (after (execMsixVectorUnmask port vector s) s).boot = s.boot ∧ (after (execMsixVectorUnmask port vector s) s).dram = s.dram ∧ (after (execMsixVectorUnmask port vector s) s).pads = s.pads ∧ (after (execMsixVectorUnmask port vector s) s).integ = s.integ ∧ (after (execMsixVectorUnmask port vector s) s).tap = s.tap ∧ (after (execMsixVectorUnmask port vector s) s).pending = s.pending := by
  unfold execMsixVectorUnmask
  first
    | (simp [apply_ite State.clk, apply_ite State.boot, apply_ite State.dram, apply_ite State.pads, apply_ite State.integ, apply_ite State.tap, apply_ite State.pending]; done)
    | ((repeat' split) <;> (first | (simp [apply_ite State.clk, apply_ite State.boot, apply_ite State.dram, apply_ite State.pads, apply_ite State.integ, apply_ite State.tap, apply_ite State.pending]; done) | (simp_all [apply_ite State.clk, apply_ite State.boot, apply_ite State.dram, apply_ite State.pads, apply_ite State.integ, apply_ite State.tap, apply_ite State.pending]; done)))
    | (dsimp only; (repeat' apply And.intro) <;> (repeat' split) <;> (first | (simp [apply_ite State.clk, apply_ite State.boot, apply_ite State.dram, apply_ite State.pads, apply_ite State.integ, apply_ite State.tap, apply_ite State.pending]; done) | (simp_all [apply_ite State.clk, apply_ite State.boot, apply_ite State.dram, apply_ite State.pads, apply_ite State.integ, apply_ite State.tap, apply_ite State.pending]; done)))
@[simp] theorem frame_execPerstNAssert (s : State) :
    (after (execPerstNAssert s) s).clk = s.clk ∧ (after (execPerstNAssert s) s).boot = s.boot ∧ (after (execPerstNAssert s) s).dram = s.dram ∧ (after (execPerstNAssert s) s).pads = s.pads ∧ (after (execPerstNAssert s) s).tap = s.tap ∧ (after (execPerstNAssert s) s).pending = s.pending := by
  unfold execPerstNAssert
  first
    | (simp [apply_ite State.clk, apply_ite State.boot, apply_ite State.dram, apply_ite State.pads, apply_ite State.tap, apply_ite State.pending]; done)
    | ((repeat' split) <;> (first | (simp [apply_ite State.clk, apply_ite State.boot, apply_ite State.dram, apply_ite State.pads, apply_ite State.tap, apply_ite State.pending]; done) | (simp_all [apply_ite State.clk, apply_ite State.boot, apply_ite State.dram, apply_ite State.pads, apply_ite State.tap, apply_ite State.pending]; done)))
    | (dsimp only; (repeat' apply And.intro) <;> (repeat' split) <;> (first | (simp [apply_ite State.clk, apply_ite State.boot, apply_ite State.dram, apply_ite State.pads, apply_ite State.tap, apply_ite State.pending]; done) | (simp_all [apply_ite State.clk, apply_ite State.boot, apply_ite State.dram, apply_ite State.pads, apply_ite State.tap, apply_ite State.pending]; done)))
@[simp] theorem frame_execPerstNRelease (s : State) :
    (after (execPerstNRelease s) s).clk = s.clk ∧ (after (execPerstNRelease s) s).boot = s.boot ∧ (after (execPerstNRelease s) s).dram = s.dram ∧ (after (execPerstNRelease s) s).pads = s.pads ∧ (after (execPerstNRelease s) s).integ = s.integ ∧ (after (execPerstNRelease s) s).tap = s.tap ∧ (after (execPerstNRelease s) s).pending = s.pending := by
  unfold execPerstNRelease
  first
    | (simp [apply_ite State.clk, apply_ite State.boot, apply_ite State.dram, apply_ite State.pads, apply_ite State.integ, apply_ite State.tap, apply_ite State.pending]; done)
    | ((repeat' split) <;> (first | (simp [apply_ite State.clk, apply_ite State.boot, apply_ite State.dram, apply_ite State.pads, apply_ite State.integ, apply_ite State.tap, apply_ite State.pending]; done) | (simp_all [apply_ite State.clk, apply_ite State.boot, apply_ite State.dram, apply_ite State.pads, apply_ite State.integ, apply_ite State.tap, apply_ite State.pending]; done)))
    | (dsimp only; (repeat' apply And.intro) <;> (repeat' split) <;> (first | (simp [apply_ite State.clk, apply_ite State.boot, apply_ite State.dram, apply_ite State.pads, apply_ite State.integ, apply_ite State.tap, apply_ite State.pending]; done) | (simp_all [apply_ite State.clk, apply_ite State.boot, apply_ite State.dram, apply_ite State.pads, apply_ite State.integ, apply_ite State.tap, apply_ite State.pending]; done)))
@[simp] theorem frame_execHostLinkTrained (port : PortId) (rate width : Nat) (s : State) :
    (after (execHostLinkTrained port rate width s) s).clk = s.clk ∧ (after (execHostLinkTrained port rate width s) s).boot = s.boot ∧ (after (execHostLinkTrained port rate width s) s).dram = s.dram ∧ (after (execHostLinkTrained port rate width s) s).pads = s.pads ∧ (after (execHostLinkTrained port rate width s) s).integ = s.integ ∧ (after (execHostLinkTrained port rate width s) s).tap = s.tap ∧ (after (execHostLinkTrained port rate width s) s).pending = s.pending := by
  unfold execHostLinkTrained
  first
    | (simp [apply_ite State.clk, apply_ite State.boot, apply_ite State.dram, apply_ite State.pads, apply_ite State.integ, apply_ite State.tap, apply_ite State.pending]; done)
    | ((repeat' split) <;> (first | (simp [apply_ite State.clk, apply_ite State.boot, apply_ite State.dram, apply_ite State.pads, apply_ite State.integ, apply_ite State.tap, apply_ite State.pending]; done) | (simp_all [apply_ite State.clk, apply_ite State.boot, apply_ite State.dram, apply_ite State.pads, apply_ite State.integ, apply_ite State.tap, apply_ite State.pending]; done)))
    | (dsimp only; (repeat' apply And.intro) <;> (repeat' split) <;> (first | (simp [apply_ite State.clk, apply_ite State.boot, apply_ite State.dram, apply_ite State.pads, apply_ite State.integ, apply_ite State.tap, apply_ite State.pending]; done) | (simp_all [apply_ite State.clk, apply_ite State.boot, apply_ite State.dram, apply_ite State.pads, apply_ite State.integ, apply_ite State.tap, apply_ite State.pending]; done)))
@[simp] theorem frame_execHotReset (port : PortId) (s : State) :
    (after (execHotReset port s) s).clk = s.clk ∧ (after (execHotReset port s) s).boot = s.boot ∧ (after (execHotReset port s) s).dram = s.dram ∧ (after (execHotReset port s) s).pads = s.pads ∧ (after (execHotReset port s) s).tap = s.tap ∧ (after (execHotReset port s) s).pending = s.pending := by
  unfold execHotReset
  first
    | (simp [apply_ite State.clk, apply_ite State.boot, apply_ite State.dram, apply_ite State.pads, apply_ite State.tap, apply_ite State.pending]; done)
    | ((repeat' split) <;> (first | (simp [apply_ite State.clk, apply_ite State.boot, apply_ite State.dram, apply_ite State.pads, apply_ite State.tap, apply_ite State.pending]; done) | (simp_all [apply_ite State.clk, apply_ite State.boot, apply_ite State.dram, apply_ite State.pads, apply_ite State.tap, apply_ite State.pending]; done)))
    | (dsimp only; (repeat' apply And.intro) <;> (repeat' split) <;> (first | (simp [apply_ite State.clk, apply_ite State.boot, apply_ite State.dram, apply_ite State.pads, apply_ite State.tap, apply_ite State.pending]; done) | (simp_all [apply_ite State.clk, apply_ite State.boot, apply_ite State.dram, apply_ite State.pads, apply_ite State.tap, apply_ite State.pending]; done)))
@[simp] theorem frame_execFlr (port : PortId) (s : State) :
    (after (execFlr port s) s).clk = s.clk ∧ (after (execFlr port s) s).boot = s.boot ∧ (after (execFlr port s) s).dram = s.dram ∧ (after (execFlr port s) s).pads = s.pads ∧ (after (execFlr port s) s).tap = s.tap ∧ (after (execFlr port s) s).pending = s.pending := by
  unfold execFlr
  first
    | (simp [apply_ite State.clk, apply_ite State.boot, apply_ite State.dram, apply_ite State.pads, apply_ite State.tap, apply_ite State.pending]; done)
    | ((repeat' split) <;> (first | (simp [apply_ite State.clk, apply_ite State.boot, apply_ite State.dram, apply_ite State.pads, apply_ite State.tap, apply_ite State.pending]; done) | (simp_all [apply_ite State.clk, apply_ite State.boot, apply_ite State.dram, apply_ite State.pads, apply_ite State.tap, apply_ite State.pending]; done)))
    | (dsimp only; (repeat' apply And.intro) <;> (repeat' split) <;> (first | (simp [apply_ite State.clk, apply_ite State.boot, apply_ite State.dram, apply_ite State.pads, apply_ite State.tap, apply_ite State.pending]; done) | (simp_all [apply_ite State.clk, apply_ite State.boot, apply_ite State.dram, apply_ite State.pads, apply_ite State.tap, apply_ite State.pending]; done)))
@[simp] theorem frame_execHostLinkDown (port : PortId) (s : State) :
    (after (execHostLinkDown port s) s).clk = s.clk ∧ (after (execHostLinkDown port s) s).boot = s.boot ∧ (after (execHostLinkDown port s) s).dram = s.dram ∧ (after (execHostLinkDown port s) s).pads = s.pads ∧ (after (execHostLinkDown port s) s).tap = s.tap ∧ (after (execHostLinkDown port s) s).pending = s.pending := by
  unfold execHostLinkDown
  first
    | (simp [apply_ite State.clk, apply_ite State.boot, apply_ite State.dram, apply_ite State.pads, apply_ite State.tap, apply_ite State.pending]; done)
    | ((repeat' split) <;> (first | (simp [apply_ite State.clk, apply_ite State.boot, apply_ite State.dram, apply_ite State.pads, apply_ite State.tap, apply_ite State.pending]; done) | (simp_all [apply_ite State.clk, apply_ite State.boot, apply_ite State.dram, apply_ite State.pads, apply_ite State.tap, apply_ite State.pending]; done)))
    | (dsimp only; (repeat' apply And.intro) <;> (repeat' split) <;> (first | (simp [apply_ite State.clk, apply_ite State.boot, apply_ite State.dram, apply_ite State.pads, apply_ite State.tap, apply_ite State.pending]; done) | (simp_all [apply_ite State.clk, apply_ite State.boot, apply_ite State.dram, apply_ite State.pads, apply_ite State.tap, apply_ite State.pending]; done)))
@[simp] theorem frame_execHostLinkL1Entry (port : PortId) (s : State) :
    (after (execHostLinkL1Entry port s) s).clk = s.clk ∧ (after (execHostLinkL1Entry port s) s).boot = s.boot ∧ (after (execHostLinkL1Entry port s) s).dram = s.dram ∧ (after (execHostLinkL1Entry port s) s).pads = s.pads ∧ (after (execHostLinkL1Entry port s) s).integ = s.integ ∧ (after (execHostLinkL1Entry port s) s).tap = s.tap ∧ (after (execHostLinkL1Entry port s) s).pending = s.pending := by
  unfold execHostLinkL1Entry
  first
    | (simp [apply_ite State.clk, apply_ite State.boot, apply_ite State.dram, apply_ite State.pads, apply_ite State.integ, apply_ite State.tap, apply_ite State.pending]; done)
    | ((repeat' split) <;> (first | (simp [apply_ite State.clk, apply_ite State.boot, apply_ite State.dram, apply_ite State.pads, apply_ite State.integ, apply_ite State.tap, apply_ite State.pending]; done) | (simp_all [apply_ite State.clk, apply_ite State.boot, apply_ite State.dram, apply_ite State.pads, apply_ite State.integ, apply_ite State.tap, apply_ite State.pending]; done)))
    | (dsimp only; (repeat' apply And.intro) <;> (repeat' split) <;> (first | (simp [apply_ite State.clk, apply_ite State.boot, apply_ite State.dram, apply_ite State.pads, apply_ite State.integ, apply_ite State.tap, apply_ite State.pending]; done) | (simp_all [apply_ite State.clk, apply_ite State.boot, apply_ite State.dram, apply_ite State.pads, apply_ite State.integ, apply_ite State.tap, apply_ite State.pending]; done)))
@[simp] theorem frame_execHostLinkL1Exit (port : PortId) (s : State) :
    (after (execHostLinkL1Exit port s) s).clk = s.clk ∧ (after (execHostLinkL1Exit port s) s).boot = s.boot ∧ (after (execHostLinkL1Exit port s) s).dram = s.dram ∧ (after (execHostLinkL1Exit port s) s).pads = s.pads ∧ (after (execHostLinkL1Exit port s) s).integ = s.integ ∧ (after (execHostLinkL1Exit port s) s).tap = s.tap ∧ (after (execHostLinkL1Exit port s) s).pending = s.pending := by
  unfold execHostLinkL1Exit
  first
    | (simp [apply_ite State.clk, apply_ite State.boot, apply_ite State.dram, apply_ite State.pads, apply_ite State.integ, apply_ite State.tap, apply_ite State.pending]; done)
    | ((repeat' split) <;> (first | (simp [apply_ite State.clk, apply_ite State.boot, apply_ite State.dram, apply_ite State.pads, apply_ite State.integ, apply_ite State.tap, apply_ite State.pending]; done) | (simp_all [apply_ite State.clk, apply_ite State.boot, apply_ite State.dram, apply_ite State.pads, apply_ite State.integ, apply_ite State.tap, apply_ite State.pending]; done)))
    | (dsimp only; (repeat' apply And.intro) <;> (repeat' split) <;> (first | (simp [apply_ite State.clk, apply_ite State.boot, apply_ite State.dram, apply_ite State.pads, apply_ite State.integ, apply_ite State.tap, apply_ite State.pending]; done) | (simp_all [apply_ite State.clk, apply_ite State.boot, apply_ite State.dram, apply_ite State.pads, apply_ite State.integ, apply_ite State.tap, apply_ite State.pending]; done)))
@[simp] theorem frame_execBusMasterEnableClear (port : PortId) (s : State) :
    (after (execBusMasterEnableClear port s) s).clk = s.clk ∧ (after (execBusMasterEnableClear port s) s).boot = s.boot ∧ (after (execBusMasterEnableClear port s) s).dram = s.dram ∧ (after (execBusMasterEnableClear port s) s).pads = s.pads ∧ (after (execBusMasterEnableClear port s) s).integ = s.integ ∧ (after (execBusMasterEnableClear port s) s).tap = s.tap ∧ (after (execBusMasterEnableClear port s) s).pending = s.pending := by
  unfold execBusMasterEnableClear
  first
    | (simp [apply_ite State.clk, apply_ite State.boot, apply_ite State.dram, apply_ite State.pads, apply_ite State.integ, apply_ite State.tap, apply_ite State.pending]; done)
    | ((repeat' split) <;> (first | (simp [apply_ite State.clk, apply_ite State.boot, apply_ite State.dram, apply_ite State.pads, apply_ite State.integ, apply_ite State.tap, apply_ite State.pending]; done) | (simp_all [apply_ite State.clk, apply_ite State.boot, apply_ite State.dram, apply_ite State.pads, apply_ite State.integ, apply_ite State.tap, apply_ite State.pending]; done)))
    | (dsimp only; (repeat' apply And.intro) <;> (repeat' split) <;> (first | (simp [apply_ite State.clk, apply_ite State.boot, apply_ite State.dram, apply_ite State.pads, apply_ite State.integ, apply_ite State.tap, apply_ite State.pending]; done) | (simp_all [apply_ite State.clk, apply_ite State.boot, apply_ite State.dram, apply_ite State.pads, apply_ite State.integ, apply_ite State.tap, apply_ite State.pending]; done)))
@[simp] theorem frame_execBusMasterEnableSet (port : PortId) (s : State) :
    (after (execBusMasterEnableSet port s) s).clk = s.clk ∧ (after (execBusMasterEnableSet port s) s).boot = s.boot ∧ (after (execBusMasterEnableSet port s) s).dram = s.dram ∧ (after (execBusMasterEnableSet port s) s).pads = s.pads ∧ (after (execBusMasterEnableSet port s) s).integ = s.integ ∧ (after (execBusMasterEnableSet port s) s).tap = s.tap ∧ (after (execBusMasterEnableSet port s) s).pending = s.pending := by
  unfold execBusMasterEnableSet
  first
    | (simp [apply_ite State.clk, apply_ite State.boot, apply_ite State.dram, apply_ite State.pads, apply_ite State.integ, apply_ite State.tap, apply_ite State.pending]; done)
    | ((repeat' split) <;> (first | (simp [apply_ite State.clk, apply_ite State.boot, apply_ite State.dram, apply_ite State.pads, apply_ite State.integ, apply_ite State.tap, apply_ite State.pending]; done) | (simp_all [apply_ite State.clk, apply_ite State.boot, apply_ite State.dram, apply_ite State.pads, apply_ite State.integ, apply_ite State.tap, apply_ite State.pending]; done)))
    | (dsimp only; (repeat' apply And.intro) <;> (repeat' split) <;> (first | (simp [apply_ite State.clk, apply_ite State.boot, apply_ite State.dram, apply_ite State.pads, apply_ite State.integ, apply_ite State.tap, apply_ite State.pending]; done) | (simp_all [apply_ite State.clk, apply_ite State.boot, apply_ite State.dram, apply_ite State.pads, apply_ite State.integ, apply_ite State.tap, apply_ite State.pending]; done)))
@[simp] theorem frame_execD3hotEntry (port : PortId) (s : State) :
    (after (execD3hotEntry port s) s).clk = s.clk ∧ (after (execD3hotEntry port s) s).boot = s.boot ∧ (after (execD3hotEntry port s) s).dram = s.dram ∧ (after (execD3hotEntry port s) s).pads = s.pads ∧ (after (execD3hotEntry port s) s).integ = s.integ ∧ (after (execD3hotEntry port s) s).tap = s.tap ∧ (after (execD3hotEntry port s) s).pending = s.pending := by
  unfold execD3hotEntry
  first
    | (simp [apply_ite State.clk, apply_ite State.boot, apply_ite State.dram, apply_ite State.pads, apply_ite State.integ, apply_ite State.tap, apply_ite State.pending]; done)
    | ((repeat' split) <;> (first | (simp [apply_ite State.clk, apply_ite State.boot, apply_ite State.dram, apply_ite State.pads, apply_ite State.integ, apply_ite State.tap, apply_ite State.pending]; done) | (simp_all [apply_ite State.clk, apply_ite State.boot, apply_ite State.dram, apply_ite State.pads, apply_ite State.integ, apply_ite State.tap, apply_ite State.pending]; done)))
    | (dsimp only; (repeat' apply And.intro) <;> (repeat' split) <;> (first | (simp [apply_ite State.clk, apply_ite State.boot, apply_ite State.dram, apply_ite State.pads, apply_ite State.integ, apply_ite State.tap, apply_ite State.pending]; done) | (simp_all [apply_ite State.clk, apply_ite State.boot, apply_ite State.dram, apply_ite State.pads, apply_ite State.integ, apply_ite State.tap, apply_ite State.pending]; done)))
@[simp] theorem frame_execD0Return (port : PortId) (s : State) :
    (after (execD0Return port s) s).clk = s.clk ∧ (after (execD0Return port s) s).boot = s.boot ∧ (after (execD0Return port s) s).dram = s.dram ∧ (after (execD0Return port s) s).pads = s.pads ∧ (after (execD0Return port s) s).integ = s.integ ∧ (after (execD0Return port s) s).tap = s.tap ∧ (after (execD0Return port s) s).pending = s.pending := by
  unfold execD0Return
  first
    | (simp [apply_ite State.clk, apply_ite State.boot, apply_ite State.dram, apply_ite State.pads, apply_ite State.integ, apply_ite State.tap, apply_ite State.pending]; done)
    | ((repeat' split) <;> (first | (simp [apply_ite State.clk, apply_ite State.boot, apply_ite State.dram, apply_ite State.pads, apply_ite State.integ, apply_ite State.tap, apply_ite State.pending]; done) | (simp_all [apply_ite State.clk, apply_ite State.boot, apply_ite State.dram, apply_ite State.pads, apply_ite State.integ, apply_ite State.tap, apply_ite State.pending]; done)))
    | (dsimp only; (repeat' apply And.intro) <;> (repeat' split) <;> (first | (simp [apply_ite State.clk, apply_ite State.boot, apply_ite State.dram, apply_ite State.pads, apply_ite State.integ, apply_ite State.tap, apply_ite State.pending]; done) | (simp_all [apply_ite State.clk, apply_ite State.boot, apply_ite State.dram, apply_ite State.pads, apply_ite State.integ, apply_ite State.tap, apply_ite State.pending]; done)))
@[simp] theorem frame_execHostReadCompletion (port : PortId) (req : Nat) (data : List Byte) (s : State) :
    (after (execHostReadCompletion port req data s) s).clk = s.clk ∧ (after (execHostReadCompletion port req data s) s).boot = s.boot ∧ (after (execHostReadCompletion port req data s) s).dram = s.dram ∧ (after (execHostReadCompletion port req data s) s).pads = s.pads ∧ (after (execHostReadCompletion port req data s) s).integ = s.integ ∧ (after (execHostReadCompletion port req data s) s).tap = s.tap ∧ (after (execHostReadCompletion port req data s) s).pending = s.pending := by
  unfold execHostReadCompletion
  first
    | (simp [apply_ite State.clk, apply_ite State.boot, apply_ite State.dram, apply_ite State.pads, apply_ite State.integ, apply_ite State.tap, apply_ite State.pending]; done)
    | ((repeat' split) <;> (first | (simp [apply_ite State.clk, apply_ite State.boot, apply_ite State.dram, apply_ite State.pads, apply_ite State.integ, apply_ite State.tap, apply_ite State.pending]; done) | (simp_all [apply_ite State.clk, apply_ite State.boot, apply_ite State.dram, apply_ite State.pads, apply_ite State.integ, apply_ite State.tap, apply_ite State.pending]; done)))
    | (dsimp only; (repeat' apply And.intro) <;> (repeat' split) <;> (first | (simp [apply_ite State.clk, apply_ite State.boot, apply_ite State.dram, apply_ite State.pads, apply_ite State.integ, apply_ite State.tap, apply_ite State.pending]; done) | (simp_all [apply_ite State.clk, apply_ite State.boot, apply_ite State.dram, apply_ite State.pads, apply_ite State.integ, apply_ite State.tap, apply_ite State.pending]; done)))
@[simp] theorem frame_execHostCompletionError (port : PortId) (req : Nat) (_kind : CplError) (s : State) :
    (after (execHostCompletionError port req _kind s) s).clk = s.clk ∧ (after (execHostCompletionError port req _kind s) s).boot = s.boot ∧ (after (execHostCompletionError port req _kind s) s).dram = s.dram ∧ (after (execHostCompletionError port req _kind s) s).pads = s.pads ∧ (after (execHostCompletionError port req _kind s) s).integ = s.integ ∧ (after (execHostCompletionError port req _kind s) s).tap = s.tap ∧ (after (execHostCompletionError port req _kind s) s).pending = s.pending := by
  unfold execHostCompletionError
  first
    | (simp [apply_ite State.clk, apply_ite State.boot, apply_ite State.dram, apply_ite State.pads, apply_ite State.integ, apply_ite State.tap, apply_ite State.pending]; done)
    | ((repeat' split) <;> (first | (simp [apply_ite State.clk, apply_ite State.boot, apply_ite State.dram, apply_ite State.pads, apply_ite State.integ, apply_ite State.tap, apply_ite State.pending]; done) | (simp_all [apply_ite State.clk, apply_ite State.boot, apply_ite State.dram, apply_ite State.pads, apply_ite State.integ, apply_ite State.tap, apply_ite State.pending]; done)))
    | (dsimp only; (repeat' apply And.intro) <;> (repeat' split) <;> (first | (simp [apply_ite State.clk, apply_ite State.boot, apply_ite State.dram, apply_ite State.pads, apply_ite State.integ, apply_ite State.tap, apply_ite State.pending]; done) | (simp_all [apply_ite State.clk, apply_ite State.boot, apply_ite State.dram, apply_ite State.pads, apply_ite State.integ, apply_ite State.tap, apply_ite State.pending]; done)))
@[simp] theorem frame_execHostCompletionTimeout (port : PortId) (req : Nat) (s : State) :
    (after (execHostCompletionTimeout port req s) s).clk = s.clk ∧ (after (execHostCompletionTimeout port req s) s).boot = s.boot ∧ (after (execHostCompletionTimeout port req s) s).dram = s.dram ∧ (after (execHostCompletionTimeout port req s) s).pads = s.pads ∧ (after (execHostCompletionTimeout port req s) s).integ = s.integ ∧ (after (execHostCompletionTimeout port req s) s).tap = s.tap ∧ (after (execHostCompletionTimeout port req s) s).pending = s.pending := by
  unfold execHostCompletionTimeout
  first
    | (simp [apply_ite State.clk, apply_ite State.boot, apply_ite State.dram, apply_ite State.pads, apply_ite State.integ, apply_ite State.tap, apply_ite State.pending]; done)
    | ((repeat' split) <;> (first | (simp [apply_ite State.clk, apply_ite State.boot, apply_ite State.dram, apply_ite State.pads, apply_ite State.integ, apply_ite State.tap, apply_ite State.pending]; done) | (simp_all [apply_ite State.clk, apply_ite State.boot, apply_ite State.dram, apply_ite State.pads, apply_ite State.integ, apply_ite State.tap, apply_ite State.pending]; done)))
    | (dsimp only; (repeat' apply And.intro) <;> (repeat' split) <;> (first | (simp [apply_ite State.clk, apply_ite State.boot, apply_ite State.dram, apply_ite State.pads, apply_ite State.integ, apply_ite State.tap, apply_ite State.pending]; done) | (simp_all [apply_ite State.clk, apply_ite State.boot, apply_ite State.dram, apply_ite State.pads, apply_ite State.integ, apply_ite State.tap, apply_ite State.pending]; done)))
@[simp] theorem frame_execTranslationCompletion (port : PortId) (pasid : Option Nat) (page : Nat) (readable writable : Bool) (target : Nat) (s : State) :
    (after (execTranslationCompletion port pasid page readable writable target s) s).clk = s.clk ∧ (after (execTranslationCompletion port pasid page readable writable target s) s).boot = s.boot ∧ (after (execTranslationCompletion port pasid page readable writable target s) s).dram = s.dram ∧ (after (execTranslationCompletion port pasid page readable writable target s) s).pads = s.pads ∧ (after (execTranslationCompletion port pasid page readable writable target s) s).integ = s.integ ∧ (after (execTranslationCompletion port pasid page readable writable target s) s).tap = s.tap ∧ (after (execTranslationCompletion port pasid page readable writable target s) s).pending = s.pending := by
  unfold execTranslationCompletion
  first
    | (simp [apply_ite State.clk, apply_ite State.boot, apply_ite State.dram, apply_ite State.pads, apply_ite State.integ, apply_ite State.tap, apply_ite State.pending]; done)
    | ((repeat' split) <;> (first | (simp [apply_ite State.clk, apply_ite State.boot, apply_ite State.dram, apply_ite State.pads, apply_ite State.integ, apply_ite State.tap, apply_ite State.pending]; done) | (simp_all [apply_ite State.clk, apply_ite State.boot, apply_ite State.dram, apply_ite State.pads, apply_ite State.integ, apply_ite State.tap, apply_ite State.pending]; done)))
    | (dsimp only; (repeat' apply And.intro) <;> (repeat' split) <;> (first | (simp [apply_ite State.clk, apply_ite State.boot, apply_ite State.dram, apply_ite State.pads, apply_ite State.integ, apply_ite State.tap, apply_ite State.pending]; done) | (simp_all [apply_ite State.clk, apply_ite State.boot, apply_ite State.dram, apply_ite State.pads, apply_ite State.integ, apply_ite State.tap, apply_ite State.pending]; done)))
@[simp] theorem frame_execPageRequestSuccess (port : PortId) (req : Nat) (s : State) :
    (after (execPageRequestSuccess port req s) s).clk = s.clk ∧ (after (execPageRequestSuccess port req s) s).boot = s.boot ∧ (after (execPageRequestSuccess port req s) s).dram = s.dram ∧ (after (execPageRequestSuccess port req s) s).pads = s.pads ∧ (after (execPageRequestSuccess port req s) s).integ = s.integ ∧ (after (execPageRequestSuccess port req s) s).tap = s.tap ∧ (after (execPageRequestSuccess port req s) s).pending = s.pending := by
  unfold execPageRequestSuccess
  first
    | (simp [apply_ite State.clk, apply_ite State.boot, apply_ite State.dram, apply_ite State.pads, apply_ite State.integ, apply_ite State.tap, apply_ite State.pending]; done)
    | ((repeat' split) <;> (first | (simp [apply_ite State.clk, apply_ite State.boot, apply_ite State.dram, apply_ite State.pads, apply_ite State.integ, apply_ite State.tap, apply_ite State.pending]; done) | (simp_all [apply_ite State.clk, apply_ite State.boot, apply_ite State.dram, apply_ite State.pads, apply_ite State.integ, apply_ite State.tap, apply_ite State.pending]; done)))
    | (dsimp only; (repeat' apply And.intro) <;> (repeat' split) <;> (first | (simp [apply_ite State.clk, apply_ite State.boot, apply_ite State.dram, apply_ite State.pads, apply_ite State.integ, apply_ite State.tap, apply_ite State.pending]; done) | (simp_all [apply_ite State.clk, apply_ite State.boot, apply_ite State.dram, apply_ite State.pads, apply_ite State.integ, apply_ite State.tap, apply_ite State.pending]; done)))
@[simp] theorem frame_execPageRequestInvalid (port : PortId) (req : Nat) (s : State) :
    (after (execPageRequestInvalid port req s) s).clk = s.clk ∧ (after (execPageRequestInvalid port req s) s).boot = s.boot ∧ (after (execPageRequestInvalid port req s) s).dram = s.dram ∧ (after (execPageRequestInvalid port req s) s).pads = s.pads ∧ (after (execPageRequestInvalid port req s) s).integ = s.integ ∧ (after (execPageRequestInvalid port req s) s).tap = s.tap ∧ (after (execPageRequestInvalid port req s) s).pending = s.pending := by
  unfold execPageRequestInvalid
  first
    | (simp [apply_ite State.clk, apply_ite State.boot, apply_ite State.dram, apply_ite State.pads, apply_ite State.integ, apply_ite State.tap, apply_ite State.pending]; done)
    | ((repeat' split) <;> (first | (simp [apply_ite State.clk, apply_ite State.boot, apply_ite State.dram, apply_ite State.pads, apply_ite State.integ, apply_ite State.tap, apply_ite State.pending]; done) | (simp_all [apply_ite State.clk, apply_ite State.boot, apply_ite State.dram, apply_ite State.pads, apply_ite State.integ, apply_ite State.tap, apply_ite State.pending]; done)))
    | (dsimp only; (repeat' apply And.intro) <;> (repeat' split) <;> (first | (simp [apply_ite State.clk, apply_ite State.boot, apply_ite State.dram, apply_ite State.pads, apply_ite State.integ, apply_ite State.tap, apply_ite State.pending]; done) | (simp_all [apply_ite State.clk, apply_ite State.boot, apply_ite State.dram, apply_ite State.pads, apply_ite State.integ, apply_ite State.tap, apply_ite State.pending]; done)))
@[simp] theorem frame_execPageRequestResponseFailure (port : PortId) (req : Nat) (s : State) :
    (after (execPageRequestResponseFailure port req s) s).clk = s.clk ∧ (after (execPageRequestResponseFailure port req s) s).boot = s.boot ∧ (after (execPageRequestResponseFailure port req s) s).dram = s.dram ∧ (after (execPageRequestResponseFailure port req s) s).pads = s.pads ∧ (after (execPageRequestResponseFailure port req s) s).integ = s.integ ∧ (after (execPageRequestResponseFailure port req s) s).tap = s.tap ∧ (after (execPageRequestResponseFailure port req s) s).pending = s.pending := by
  unfold execPageRequestResponseFailure
  first
    | (simp [apply_ite State.clk, apply_ite State.boot, apply_ite State.dram, apply_ite State.pads, apply_ite State.integ, apply_ite State.tap, apply_ite State.pending]; done)
    | ((repeat' split) <;> (first | (simp [apply_ite State.clk, apply_ite State.boot, apply_ite State.dram, apply_ite State.pads, apply_ite State.integ, apply_ite State.tap, apply_ite State.pending]; done) | (simp_all [apply_ite State.clk, apply_ite State.boot, apply_ite State.dram, apply_ite State.pads, apply_ite State.integ, apply_ite State.tap, apply_ite State.pending]; done)))
    | (dsimp only; (repeat' apply And.intro) <;> (repeat' split) <;> (first | (simp [apply_ite State.clk, apply_ite State.boot, apply_ite State.dram, apply_ite State.pads, apply_ite State.integ, apply_ite State.tap, apply_ite State.pending]; done) | (simp_all [apply_ite State.clk, apply_ite State.boot, apply_ite State.dram, apply_ite State.pads, apply_ite State.integ, apply_ite State.tap, apply_ite State.pending]; done)))
@[simp] theorem frame_execPageRequestTimeout (port : PortId) (req : Nat) (s : State) :
    (after (execPageRequestTimeout port req s) s).clk = s.clk ∧ (after (execPageRequestTimeout port req s) s).boot = s.boot ∧ (after (execPageRequestTimeout port req s) s).dram = s.dram ∧ (after (execPageRequestTimeout port req s) s).pads = s.pads ∧ (after (execPageRequestTimeout port req s) s).integ = s.integ ∧ (after (execPageRequestTimeout port req s) s).tap = s.tap ∧ (after (execPageRequestTimeout port req s) s).pending = s.pending := by
  unfold execPageRequestTimeout
  first
    | (simp [apply_ite State.clk, apply_ite State.boot, apply_ite State.dram, apply_ite State.pads, apply_ite State.integ, apply_ite State.tap, apply_ite State.pending]; done)
    | ((repeat' split) <;> (first | (simp [apply_ite State.clk, apply_ite State.boot, apply_ite State.dram, apply_ite State.pads, apply_ite State.integ, apply_ite State.tap, apply_ite State.pending]; done) | (simp_all [apply_ite State.clk, apply_ite State.boot, apply_ite State.dram, apply_ite State.pads, apply_ite State.integ, apply_ite State.tap, apply_ite State.pending]; done)))
    | (dsimp only; (repeat' apply And.intro) <;> (repeat' split) <;> (first | (simp [apply_ite State.clk, apply_ite State.boot, apply_ite State.dram, apply_ite State.pads, apply_ite State.integ, apply_ite State.tap, apply_ite State.pending]; done) | (simp_all [apply_ite State.clk, apply_ite State.boot, apply_ite State.dram, apply_ite State.pads, apply_ite State.integ, apply_ite State.tap, apply_ite State.pending]; done)))
@[simp] theorem frame_execPriCapabilityReset (port : PortId) (s : State) :
    (after (execPriCapabilityReset port s) s).clk = s.clk ∧ (after (execPriCapabilityReset port s) s).boot = s.boot ∧ (after (execPriCapabilityReset port s) s).dram = s.dram ∧ (after (execPriCapabilityReset port s) s).pads = s.pads ∧ (after (execPriCapabilityReset port s) s).integ = s.integ ∧ (after (execPriCapabilityReset port s) s).tap = s.tap ∧ (after (execPriCapabilityReset port s) s).pending = s.pending := by
  unfold execPriCapabilityReset
  first
    | (simp [apply_ite State.clk, apply_ite State.boot, apply_ite State.dram, apply_ite State.pads, apply_ite State.integ, apply_ite State.tap, apply_ite State.pending]; done)
    | ((repeat' split) <;> (first | (simp [apply_ite State.clk, apply_ite State.boot, apply_ite State.dram, apply_ite State.pads, apply_ite State.integ, apply_ite State.tap, apply_ite State.pending]; done) | (simp_all [apply_ite State.clk, apply_ite State.boot, apply_ite State.dram, apply_ite State.pads, apply_ite State.integ, apply_ite State.tap, apply_ite State.pending]; done)))
    | (dsimp only; (repeat' apply And.intro) <;> (repeat' split) <;> (first | (simp [apply_ite State.clk, apply_ite State.boot, apply_ite State.dram, apply_ite State.pads, apply_ite State.integ, apply_ite State.tap, apply_ite State.pending]; done) | (simp_all [apply_ite State.clk, apply_ite State.boot, apply_ite State.dram, apply_ite State.pads, apply_ite State.integ, apply_ite State.tap, apply_ite State.pending]; done)))
@[simp] theorem frame_execInvalidationRequest (port : PortId) (pasid : Option Nat) (firstPage pages : Nat) (s : State) :
    (after (execInvalidationRequest port pasid firstPage pages s) s).clk = s.clk ∧ (after (execInvalidationRequest port pasid firstPage pages s) s).boot = s.boot ∧ (after (execInvalidationRequest port pasid firstPage pages s) s).dram = s.dram ∧ (after (execInvalidationRequest port pasid firstPage pages s) s).pads = s.pads ∧ (after (execInvalidationRequest port pasid firstPage pages s) s).integ = s.integ ∧ (after (execInvalidationRequest port pasid firstPage pages s) s).tap = s.tap ∧ (after (execInvalidationRequest port pasid firstPage pages s) s).pending = s.pending := by
  unfold execInvalidationRequest
  first
    | (simp [apply_ite State.clk, apply_ite State.boot, apply_ite State.dram, apply_ite State.pads, apply_ite State.integ, apply_ite State.tap, apply_ite State.pending]; done)
    | ((repeat' split) <;> (first | (simp [apply_ite State.clk, apply_ite State.boot, apply_ite State.dram, apply_ite State.pads, apply_ite State.integ, apply_ite State.tap, apply_ite State.pending]; done) | (simp_all [apply_ite State.clk, apply_ite State.boot, apply_ite State.dram, apply_ite State.pads, apply_ite State.integ, apply_ite State.tap, apply_ite State.pending]; done)))
    | (dsimp only; (repeat' apply And.intro) <;> (repeat' split) <;> (first | (simp [apply_ite State.clk, apply_ite State.boot, apply_ite State.dram, apply_ite State.pads, apply_ite State.integ, apply_ite State.tap, apply_ite State.pending]; done) | (simp_all [apply_ite State.clk, apply_ite State.boot, apply_ite State.dram, apply_ite State.pads, apply_ite State.integ, apply_ite State.tap, apply_ite State.pending]; done)))
@[simp] theorem frame_execPasidEnableClear (port : PortId) (s : State) :
    (after (execPasidEnableClear port s) s).clk = s.clk ∧ (after (execPasidEnableClear port s) s).boot = s.boot ∧ (after (execPasidEnableClear port s) s).dram = s.dram ∧ (after (execPasidEnableClear port s) s).pads = s.pads ∧ (after (execPasidEnableClear port s) s).integ = s.integ ∧ (after (execPasidEnableClear port s) s).tap = s.tap ∧ (after (execPasidEnableClear port s) s).pending = s.pending := by
  unfold execPasidEnableClear
  first
    | (simp [apply_ite State.clk, apply_ite State.boot, apply_ite State.dram, apply_ite State.pads, apply_ite State.integ, apply_ite State.tap, apply_ite State.pending]; done)
    | ((repeat' split) <;> (first | (simp [apply_ite State.clk, apply_ite State.boot, apply_ite State.dram, apply_ite State.pads, apply_ite State.integ, apply_ite State.tap, apply_ite State.pending]; done) | (simp_all [apply_ite State.clk, apply_ite State.boot, apply_ite State.dram, apply_ite State.pads, apply_ite State.integ, apply_ite State.tap, apply_ite State.pending]; done)))
    | (dsimp only; (repeat' apply And.intro) <;> (repeat' split) <;> (first | (simp [apply_ite State.clk, apply_ite State.boot, apply_ite State.dram, apply_ite State.pads, apply_ite State.integ, apply_ite State.tap, apply_ite State.pending]; done) | (simp_all [apply_ite State.clk, apply_ite State.boot, apply_ite State.dram, apply_ite State.pads, apply_ite State.integ, apply_ite State.tap, apply_ite State.pending]; done)))
@[simp] theorem frame_execConfigRequest (port : PortId) (req : CfgReq) (s : State) :
    (after (execConfigRequest port req s) s).clk = s.clk ∧ (after (execConfigRequest port req s) s).boot = s.boot ∧ (after (execConfigRequest port req s) s).dram = s.dram ∧ (after (execConfigRequest port req s) s).pads = s.pads ∧ (after (execConfigRequest port req s) s).integ = s.integ ∧ (after (execConfigRequest port req s) s).tap = s.tap ∧ (after (execConfigRequest port req s) s).pending = s.pending := by
  unfold execConfigRequest
  first
    | (simp [apply_ite State.clk, apply_ite State.boot, apply_ite State.dram, apply_ite State.pads, apply_ite State.integ, apply_ite State.tap, apply_ite State.pending]; done)
    | ((repeat' split) <;> (first | (simp [apply_ite State.clk, apply_ite State.boot, apply_ite State.dram, apply_ite State.pads, apply_ite State.integ, apply_ite State.tap, apply_ite State.pending]; done) | (simp_all [apply_ite State.clk, apply_ite State.boot, apply_ite State.dram, apply_ite State.pads, apply_ite State.integ, apply_ite State.tap, apply_ite State.pending]; done)))
    | (dsimp only; (repeat' apply And.intro) <;> (repeat' split) <;> (first | (simp [apply_ite State.clk, apply_ite State.boot, apply_ite State.dram, apply_ite State.pads, apply_ite State.integ, apply_ite State.tap, apply_ite State.pending]; done) | (simp_all [apply_ite State.clk, apply_ite State.boot, apply_ite State.dram, apply_ite State.pads, apply_ite State.integ, apply_ite State.tap, apply_ite State.pending]; done)))
@[simp] theorem frame_execCoalesceTimer (port : PortId) (queue : Nat) (s : State) :
    (after (execCoalesceTimer port queue s) s).clk = s.clk ∧ (after (execCoalesceTimer port queue s) s).boot = s.boot ∧ (after (execCoalesceTimer port queue s) s).dram = s.dram ∧ (after (execCoalesceTimer port queue s) s).pads = s.pads ∧ (after (execCoalesceTimer port queue s) s).integ = s.integ ∧ (after (execCoalesceTimer port queue s) s).tap = s.tap ∧ (after (execCoalesceTimer port queue s) s).pending = s.pending := by
  unfold execCoalesceTimer
  first
    | (simp [apply_ite State.clk, apply_ite State.boot, apply_ite State.dram, apply_ite State.pads, apply_ite State.integ, apply_ite State.tap, apply_ite State.pending]; done)
    | ((repeat' split) <;> (first | (simp [apply_ite State.clk, apply_ite State.boot, apply_ite State.dram, apply_ite State.pads, apply_ite State.integ, apply_ite State.tap, apply_ite State.pending]; done) | (simp_all [apply_ite State.clk, apply_ite State.boot, apply_ite State.dram, apply_ite State.pads, apply_ite State.integ, apply_ite State.tap, apply_ite State.pending]; done)))
    | (dsimp only; (repeat' apply And.intro) <;> (repeat' split) <;> (first | (simp [apply_ite State.clk, apply_ite State.boot, apply_ite State.dram, apply_ite State.pads, apply_ite State.integ, apply_ite State.tap, apply_ite State.pending]; done) | (simp_all [apply_ite State.clk, apply_ite State.boot, apply_ite State.dram, apply_ite State.pads, apply_ite State.integ, apply_ite State.tap, apply_ite State.pending]; done)))
@[simp] theorem frame_execWriteAdmission (pool : Nat) (s : State) :
    (after (execWriteAdmission pool s) s).clk = s.clk ∧ (after (execWriteAdmission pool s) s).boot = s.boot ∧ (after (execWriteAdmission pool s) s).dram = s.dram ∧ (after (execWriteAdmission pool s) s).pads = s.pads ∧ (after (execWriteAdmission pool s) s).integ = s.integ ∧ (after (execWriteAdmission pool s) s).tap = s.tap ∧ (after (execWriteAdmission pool s) s).pending = s.pending := by
  unfold execWriteAdmission
  first
    | (simp [apply_ite State.clk, apply_ite State.boot, apply_ite State.dram, apply_ite State.pads, apply_ite State.integ, apply_ite State.tap, apply_ite State.pending]; done)
    | ((repeat' split) <;> (first | (simp [apply_ite State.clk, apply_ite State.boot, apply_ite State.dram, apply_ite State.pads, apply_ite State.integ, apply_ite State.tap, apply_ite State.pending]; done) | (simp_all [apply_ite State.clk, apply_ite State.boot, apply_ite State.dram, apply_ite State.pads, apply_ite State.integ, apply_ite State.tap, apply_ite State.pending]; done)))
    | (dsimp only; (repeat' apply And.intro) <;> (repeat' split) <;> (first | (simp [apply_ite State.clk, apply_ite State.boot, apply_ite State.dram, apply_ite State.pads, apply_ite State.integ, apply_ite State.tap, apply_ite State.pending]; done) | (simp_all [apply_ite State.clk, apply_ite State.boot, apply_ite State.dram, apply_ite State.pads, apply_ite State.integ, apply_ite State.tap, apply_ite State.pending]; done)))
@[simp] theorem frame_execPendingTableRoom (s : State) :
    (after (execPendingTableRoom s) s).clk = s.clk ∧ (after (execPendingTableRoom s) s).boot = s.boot ∧ (after (execPendingTableRoom s) s).dram = s.dram ∧ (after (execPendingTableRoom s) s).pads = s.pads ∧ (after (execPendingTableRoom s) s).integ = s.integ ∧ (after (execPendingTableRoom s) s).tap = s.tap ∧ (after (execPendingTableRoom s) s).pending = s.pending := by
  unfold execPendingTableRoom
  first
    | (simp [apply_ite State.clk, apply_ite State.boot, apply_ite State.dram, apply_ite State.pads, apply_ite State.integ, apply_ite State.tap, apply_ite State.pending]; done)
    | ((repeat' split) <;> (first | (simp [apply_ite State.clk, apply_ite State.boot, apply_ite State.dram, apply_ite State.pads, apply_ite State.integ, apply_ite State.tap, apply_ite State.pending]; done) | (simp_all [apply_ite State.clk, apply_ite State.boot, apply_ite State.dram, apply_ite State.pads, apply_ite State.integ, apply_ite State.tap, apply_ite State.pending]; done)))
    | (dsimp only; (repeat' apply And.intro) <;> (repeat' split) <;> (first | (simp [apply_ite State.clk, apply_ite State.boot, apply_ite State.dram, apply_ite State.pads, apply_ite State.integ, apply_ite State.tap, apply_ite State.pending]; done) | (simp_all [apply_ite State.clk, apply_ite State.boot, apply_ite State.dram, apply_ite State.pads, apply_ite State.integ, apply_ite State.tap, apply_ite State.pending]; done)))
@[simp] theorem frame_execMailboxGo (port : PortId) (n : Fin 4) (v : Word) (s : State) :
    (after (execMailboxGo port n v s) s).clk = s.clk ∧ (after (execMailboxGo port n v s) s).boot = s.boot ∧ (after (execMailboxGo port n v s) s).dram = s.dram ∧ (after (execMailboxGo port n v s) s).pads = s.pads ∧ (after (execMailboxGo port n v s) s).integ = s.integ ∧ (after (execMailboxGo port n v s) s).tap = s.tap ∧ (after (execMailboxGo port n v s) s).pending = s.pending := by
  unfold execMailboxGo
  first
    | (simp [apply_ite State.clk, apply_ite State.boot, apply_ite State.dram, apply_ite State.pads, apply_ite State.integ, apply_ite State.tap, apply_ite State.pending]; done)
    | ((repeat' split) <;> (first | (simp [apply_ite State.clk, apply_ite State.boot, apply_ite State.dram, apply_ite State.pads, apply_ite State.integ, apply_ite State.tap, apply_ite State.pending]; done) | (simp_all [apply_ite State.clk, apply_ite State.boot, apply_ite State.dram, apply_ite State.pads, apply_ite State.integ, apply_ite State.tap, apply_ite State.pending]; done)))
    | (dsimp only; (repeat' apply And.intro) <;> (repeat' split) <;> (first | (simp [apply_ite State.clk, apply_ite State.boot, apply_ite State.dram, apply_ite State.pads, apply_ite State.integ, apply_ite State.tap, apply_ite State.pending]; done) | (simp_all [apply_ite State.clk, apply_ite State.boot, apply_ite State.dram, apply_ite State.pads, apply_ite State.integ, apply_ite State.tap, apply_ite State.pending]; done)))
@[simp] theorem frame_execMailboxDoneClear (port : PortId) (n : Fin 4) (v : Word) (s : State) :
    (after (execMailboxDoneClear port n v s) s).clk = s.clk ∧ (after (execMailboxDoneClear port n v s) s).boot = s.boot ∧ (after (execMailboxDoneClear port n v s) s).dram = s.dram ∧ (after (execMailboxDoneClear port n v s) s).pads = s.pads ∧ (after (execMailboxDoneClear port n v s) s).integ = s.integ ∧ (after (execMailboxDoneClear port n v s) s).tap = s.tap ∧ (after (execMailboxDoneClear port n v s) s).pending = s.pending := by
  unfold execMailboxDoneClear
  first
    | (simp [apply_ite State.clk, apply_ite State.boot, apply_ite State.dram, apply_ite State.pads, apply_ite State.integ, apply_ite State.tap, apply_ite State.pending]; done)
    | ((repeat' split) <;> (first | (simp [apply_ite State.clk, apply_ite State.boot, apply_ite State.dram, apply_ite State.pads, apply_ite State.integ, apply_ite State.tap, apply_ite State.pending]; done) | (simp_all [apply_ite State.clk, apply_ite State.boot, apply_ite State.dram, apply_ite State.pads, apply_ite State.integ, apply_ite State.tap, apply_ite State.pending]; done)))
    | (dsimp only; (repeat' apply And.intro) <;> (repeat' split) <;> (first | (simp [apply_ite State.clk, apply_ite State.boot, apply_ite State.dram, apply_ite State.pads, apply_ite State.integ, apply_ite State.tap, apply_ite State.pending]; done) | (simp_all [apply_ite State.clk, apply_ite State.boot, apply_ite State.dram, apply_ite State.pads, apply_ite State.integ, apply_ite State.tap, apply_ite State.pending]; done)))
@[simp] theorem frame_execDiagAuthAcquire (m : Mbx) (s : State) :
    (after (execDiagAuthAcquire m s) s).clk = s.clk ∧ (after (execDiagAuthAcquire m s) s).boot = s.boot ∧ (after (execDiagAuthAcquire m s) s).dram = s.dram ∧ (after (execDiagAuthAcquire m s) s).pads = s.pads ∧ (after (execDiagAuthAcquire m s) s).integ = s.integ ∧ (after (execDiagAuthAcquire m s) s).tap = s.tap ∧ (after (execDiagAuthAcquire m s) s).pending = s.pending := by
  unfold execDiagAuthAcquire
  first
    | (simp [apply_ite State.clk, apply_ite State.boot, apply_ite State.dram, apply_ite State.pads, apply_ite State.integ, apply_ite State.tap, apply_ite State.pending]; done)
    | ((repeat' split) <;> (first | (simp [apply_ite State.clk, apply_ite State.boot, apply_ite State.dram, apply_ite State.pads, apply_ite State.integ, apply_ite State.tap, apply_ite State.pending]; done) | (simp_all [apply_ite State.clk, apply_ite State.boot, apply_ite State.dram, apply_ite State.pads, apply_ite State.integ, apply_ite State.tap, apply_ite State.pending]; done)))
    | (dsimp only; (repeat' apply And.intro) <;> (repeat' split) <;> (first | (simp [apply_ite State.clk, apply_ite State.boot, apply_ite State.dram, apply_ite State.pads, apply_ite State.integ, apply_ite State.tap, apply_ite State.pending]; done) | (simp_all [apply_ite State.clk, apply_ite State.boot, apply_ite State.dram, apply_ite State.pads, apply_ite State.integ, apply_ite State.tap, apply_ite State.pending]; done)))
@[simp] theorem frame_execDiagAuthRelease (m : Mbx) (s : State) :
    (after (execDiagAuthRelease m s) s).clk = s.clk ∧ (after (execDiagAuthRelease m s) s).boot = s.boot ∧ (after (execDiagAuthRelease m s) s).dram = s.dram ∧ (after (execDiagAuthRelease m s) s).pads = s.pads ∧ (after (execDiagAuthRelease m s) s).tap = s.tap ∧ (after (execDiagAuthRelease m s) s).pending = s.pending := by
  unfold execDiagAuthRelease
  first
    | (simp [apply_ite State.clk, apply_ite State.boot, apply_ite State.dram, apply_ite State.pads, apply_ite State.tap, apply_ite State.pending]; done)
    | ((repeat' split) <;> (first | (simp [apply_ite State.clk, apply_ite State.boot, apply_ite State.dram, apply_ite State.pads, apply_ite State.tap, apply_ite State.pending]; done) | (simp_all [apply_ite State.clk, apply_ite State.boot, apply_ite State.dram, apply_ite State.pads, apply_ite State.tap, apply_ite State.pending]; done)))
    | (dsimp only; (repeat' apply And.intro) <;> (repeat' split) <;> (first | (simp [apply_ite State.clk, apply_ite State.boot, apply_ite State.dram, apply_ite State.pads, apply_ite State.tap, apply_ite State.pending]; done) | (simp_all [apply_ite State.clk, apply_ite State.boot, apply_ite State.dram, apply_ite State.pads, apply_ite State.tap, apply_ite State.pending]; done)))
@[simp] theorem frame_execMediaReturn (m : Mbx) (passed : Nat) (steps : List TrainStep) (s : State) :
    (after (execMediaReturn m passed steps s) s).clk = s.clk ∧ (after (execMediaReturn m passed steps s) s).boot = s.boot ∧ (after (execMediaReturn m passed steps s) s).dram = s.dram ∧ (after (execMediaReturn m passed steps s) s).pads = s.pads ∧ (after (execMediaReturn m passed steps s) s).integ = s.integ ∧ (after (execMediaReturn m passed steps s) s).tap = s.tap ∧ (after (execMediaReturn m passed steps s) s).pending = s.pending := by
  unfold execMediaReturn
  first
    | (simp [apply_ite State.clk, apply_ite State.boot, apply_ite State.dram, apply_ite State.pads, apply_ite State.integ, apply_ite State.tap, apply_ite State.pending]; done)
    | ((repeat' split) <;> (first | (simp [apply_ite State.clk, apply_ite State.boot, apply_ite State.dram, apply_ite State.pads, apply_ite State.integ, apply_ite State.tap, apply_ite State.pending]; done) | (simp_all [apply_ite State.clk, apply_ite State.boot, apply_ite State.dram, apply_ite State.pads, apply_ite State.integ, apply_ite State.tap, apply_ite State.pending]; done)))
    | (dsimp only; (repeat' apply And.intro) <;> (repeat' split) <;> (first | (simp [apply_ite State.clk, apply_ite State.boot, apply_ite State.dram, apply_ite State.pads, apply_ite State.integ, apply_ite State.tap, apply_ite State.pending]; done) | (simp_all [apply_ite State.clk, apply_ite State.boot, apply_ite State.dram, apply_ite State.pads, apply_ite State.integ, apply_ite State.tap, apply_ite State.pending]; done)))
@[simp] theorem frame_execInjectCheckbits (m : Mbx) (s : State) :
    (after (execInjectCheckbits m s) s).clk = s.clk ∧ (after (execInjectCheckbits m s) s).boot = s.boot ∧ (after (execInjectCheckbits m s) s).dram = s.dram ∧ (after (execInjectCheckbits m s) s).pads = s.pads ∧ (after (execInjectCheckbits m s) s).tap = s.tap ∧ (after (execInjectCheckbits m s) s).pending = s.pending := by
  unfold execInjectCheckbits
  first
    | (simp [apply_ite State.clk, apply_ite State.boot, apply_ite State.dram, apply_ite State.pads, apply_ite State.tap, apply_ite State.pending]; done)
    | ((repeat' split) <;> (first | (simp [apply_ite State.clk, apply_ite State.boot, apply_ite State.dram, apply_ite State.pads, apply_ite State.tap, apply_ite State.pending]; done) | (simp_all [apply_ite State.clk, apply_ite State.boot, apply_ite State.dram, apply_ite State.pads, apply_ite State.tap, apply_ite State.pending]; done)))
    | (dsimp only; (repeat' apply And.intro) <;> (repeat' split) <;> (first | (simp [apply_ite State.clk, apply_ite State.boot, apply_ite State.dram, apply_ite State.pads, apply_ite State.tap, apply_ite State.pending]; done) | (simp_all [apply_ite State.clk, apply_ite State.boot, apply_ite State.dram, apply_ite State.pads, apply_ite State.tap, apply_ite State.pending]; done)))
@[simp] theorem frame_execInjectStatus (m : Mbx) (s : State) :
    (after (execInjectStatus m s) s).clk = s.clk ∧ (after (execInjectStatus m s) s).boot = s.boot ∧ (after (execInjectStatus m s) s).dram = s.dram ∧ (after (execInjectStatus m s) s).pads = s.pads ∧ (after (execInjectStatus m s) s).integ = s.integ ∧ (after (execInjectStatus m s) s).tap = s.tap ∧ (after (execInjectStatus m s) s).pending = s.pending := by
  unfold execInjectStatus
  (repeat' apply And.intro) <;> (first | apply after_onRequest_clk | apply after_onRequest_boot | apply after_onRequest_dram | apply after_onRequest_pads | apply after_onRequest_integ | apply after_onRequest_tap | apply after_onRequest_pending) <;>
    intro r <;> (try dsimp only) <;> (repeat' split) <;> simp
@[simp] theorem frame_execDiagRead (m : Mbx) (results : List CwResult) (s : State) :
    (after (execDiagRead m results s) s).clk = s.clk ∧ (after (execDiagRead m results s) s).boot = s.boot ∧ (after (execDiagRead m results s) s).dram = s.dram ∧ (after (execDiagRead m results s) s).pads = s.pads ∧ (after (execDiagRead m results s) s).tap = s.tap ∧ (after (execDiagRead m results s) s).pending = s.pending := by
  unfold execDiagRead
  first
    | (simp [apply_ite State.clk, apply_ite State.boot, apply_ite State.dram, apply_ite State.pads, apply_ite State.tap, apply_ite State.pending]; done)
    | ((repeat' split) <;> (first | (simp [apply_ite State.clk, apply_ite State.boot, apply_ite State.dram, apply_ite State.pads, apply_ite State.tap, apply_ite State.pending]; done) | (simp_all [apply_ite State.clk, apply_ite State.boot, apply_ite State.dram, apply_ite State.pads, apply_ite State.tap, apply_ite State.pending]; done)))
    | (dsimp only; (repeat' apply And.intro) <;> (repeat' split) <;> (first | (simp [apply_ite State.clk, apply_ite State.boot, apply_ite State.dram, apply_ite State.pads, apply_ite State.tap, apply_ite State.pending]; done) | (simp_all [apply_ite State.clk, apply_ite State.boot, apply_ite State.dram, apply_ite State.pads, apply_ite State.tap, apply_ite State.pending]; done)))
@[simp] theorem frame_execDiagWrite (m : Mbx) (s : State) :
    (after (execDiagWrite m s) s).clk = s.clk ∧ (after (execDiagWrite m s) s).boot = s.boot ∧ (after (execDiagWrite m s) s).dram = s.dram ∧ (after (execDiagWrite m s) s).pads = s.pads ∧ (after (execDiagWrite m s) s).tap = s.tap ∧ (after (execDiagWrite m s) s).pending = s.pending := by
  unfold execDiagWrite
  first
    | (simp [apply_ite State.clk, apply_ite State.boot, apply_ite State.dram, apply_ite State.pads, apply_ite State.tap, apply_ite State.pending]; done)
    | ((repeat' split) <;> (first | (simp [apply_ite State.clk, apply_ite State.boot, apply_ite State.dram, apply_ite State.pads, apply_ite State.tap, apply_ite State.pending]; done) | (simp_all [apply_ite State.clk, apply_ite State.boot, apply_ite State.dram, apply_ite State.pads, apply_ite State.tap, apply_ite State.pending]; done)))
    | (dsimp only; (repeat' apply And.intro) <;> (repeat' split) <;> (first | (simp [apply_ite State.clk, apply_ite State.boot, apply_ite State.dram, apply_ite State.pads, apply_ite State.tap, apply_ite State.pending]; done) | (simp_all [apply_ite State.clk, apply_ite State.boot, apply_ite State.dram, apply_ite State.pads, apply_ite State.tap, apply_ite State.pending]; done)))
@[simp] theorem frame_execDiagErase (m : Mbx) (s : State) :
    (after (execDiagErase m s) s).clk = s.clk ∧ (after (execDiagErase m s) s).boot = s.boot ∧ (after (execDiagErase m s) s).dram = s.dram ∧ (after (execDiagErase m s) s).pads = s.pads ∧ (after (execDiagErase m s) s).tap = s.tap ∧ (after (execDiagErase m s) s).pending = s.pending := by
  unfold execDiagErase
  first
    | (simp [apply_ite State.clk, apply_ite State.boot, apply_ite State.dram, apply_ite State.pads, apply_ite State.tap, apply_ite State.pending]; done)
    | ((repeat' split) <;> (first | (simp [apply_ite State.clk, apply_ite State.boot, apply_ite State.dram, apply_ite State.pads, apply_ite State.tap, apply_ite State.pending]; done) | (simp_all [apply_ite State.clk, apply_ite State.boot, apply_ite State.dram, apply_ite State.pads, apply_ite State.tap, apply_ite State.pending]; done)))
    | (dsimp only; (repeat' apply And.intro) <;> (repeat' split) <;> (first | (simp [apply_ite State.clk, apply_ite State.boot, apply_ite State.dram, apply_ite State.pads, apply_ite State.tap, apply_ite State.pending]; done) | (simp_all [apply_ite State.clk, apply_ite State.boot, apply_ite State.dram, apply_ite State.pads, apply_ite State.tap, apply_ite State.pending]; done)))
@[simp] theorem frame_execLinkTestStart (m : Mbx) (s : State) :
    (after (execLinkTestStart m s) s).clk = s.clk ∧ (after (execLinkTestStart m s) s).boot = s.boot ∧ (after (execLinkTestStart m s) s).dram = s.dram ∧ (after (execLinkTestStart m s) s).pads = s.pads ∧ (after (execLinkTestStart m s) s).integ = s.integ ∧ (after (execLinkTestStart m s) s).tap = s.tap ∧ (after (execLinkTestStart m s) s).pending = s.pending := by
  unfold execLinkTestStart
  first
    | (simp [apply_ite State.clk, apply_ite State.boot, apply_ite State.dram, apply_ite State.pads, apply_ite State.integ, apply_ite State.tap, apply_ite State.pending]; done)
    | ((repeat' split) <;> (first | (simp [apply_ite State.clk, apply_ite State.boot, apply_ite State.dram, apply_ite State.pads, apply_ite State.integ, apply_ite State.tap, apply_ite State.pending]; done) | (simp_all [apply_ite State.clk, apply_ite State.boot, apply_ite State.dram, apply_ite State.pads, apply_ite State.integ, apply_ite State.tap, apply_ite State.pending]; done)))
    | (dsimp only; (repeat' apply And.intro) <;> (repeat' split) <;> (first | (simp [apply_ite State.clk, apply_ite State.boot, apply_ite State.dram, apply_ite State.pads, apply_ite State.integ, apply_ite State.tap, apply_ite State.pending]; done) | (simp_all [apply_ite State.clk, apply_ite State.boot, apply_ite State.dram, apply_ite State.pads, apply_ite State.integ, apply_ite State.tap, apply_ite State.pending]; done)))
@[simp] theorem frame_execLinkTestStop (m : Mbx) (s : State) :
    (after (execLinkTestStop m s) s).clk = s.clk ∧ (after (execLinkTestStop m s) s).boot = s.boot ∧ (after (execLinkTestStop m s) s).dram = s.dram ∧ (after (execLinkTestStop m s) s).pads = s.pads ∧ (after (execLinkTestStop m s) s).integ = s.integ ∧ (after (execLinkTestStop m s) s).tap = s.tap ∧ (after (execLinkTestStop m s) s).pending = s.pending := by
  unfold execLinkTestStop
  first
    | (simp [apply_ite State.clk, apply_ite State.boot, apply_ite State.dram, apply_ite State.pads, apply_ite State.integ, apply_ite State.tap, apply_ite State.pending]; done)
    | ((repeat' split) <;> (first | (simp [apply_ite State.clk, apply_ite State.boot, apply_ite State.dram, apply_ite State.pads, apply_ite State.integ, apply_ite State.tap, apply_ite State.pending]; done) | (simp_all [apply_ite State.clk, apply_ite State.boot, apply_ite State.dram, apply_ite State.pads, apply_ite State.integ, apply_ite State.tap, apply_ite State.pending]; done)))
    | (dsimp only; (repeat' apply And.intro) <;> (repeat' split) <;> (first | (simp [apply_ite State.clk, apply_ite State.boot, apply_ite State.dram, apply_ite State.pads, apply_ite State.integ, apply_ite State.tap, apply_ite State.pending]; done) | (simp_all [apply_ite State.clk, apply_ite State.boot, apply_ite State.dram, apply_ite State.pads, apply_ite State.integ, apply_ite State.tap, apply_ite State.pending]; done)))
@[simp] theorem frame_execLinkTestTimeout (port : CwPort) (s : State) :
    (after (execLinkTestTimeout port s) s).clk = s.clk ∧ (after (execLinkTestTimeout port s) s).boot = s.boot ∧ (after (execLinkTestTimeout port s) s).dram = s.dram ∧ (after (execLinkTestTimeout port s) s).pads = s.pads ∧ (after (execLinkTestTimeout port s) s).integ = s.integ ∧ (after (execLinkTestTimeout port s) s).tap = s.tap ∧ (after (execLinkTestTimeout port s) s).pending = s.pending := by
  unfold execLinkTestTimeout
  first
    | (simp [apply_ite State.clk, apply_ite State.boot, apply_ite State.dram, apply_ite State.pads, apply_ite State.integ, apply_ite State.tap, apply_ite State.pending]; done)
    | ((repeat' split) <;> (first | (simp [apply_ite State.clk, apply_ite State.boot, apply_ite State.dram, apply_ite State.pads, apply_ite State.integ, apply_ite State.tap, apply_ite State.pending]; done) | (simp_all [apply_ite State.clk, apply_ite State.boot, apply_ite State.dram, apply_ite State.pads, apply_ite State.integ, apply_ite State.tap, apply_ite State.pending]; done)))
    | (dsimp only; (repeat' apply And.intro) <;> (repeat' split) <;> (first | (simp [apply_ite State.clk, apply_ite State.boot, apply_ite State.dram, apply_ite State.pads, apply_ite State.integ, apply_ite State.tap, apply_ite State.pending]; done) | (simp_all [apply_ite State.clk, apply_ite State.boot, apply_ite State.dram, apply_ite State.pads, apply_ite State.integ, apply_ite State.tap, apply_ite State.pending]; done)))
@[simp] theorem frame_execInjectionArmTimeout (armId : Nat) (s : State) :
    (after (execInjectionArmTimeout armId s) s).clk = s.clk ∧ (after (execInjectionArmTimeout armId s) s).boot = s.boot ∧ (after (execInjectionArmTimeout armId s) s).dram = s.dram ∧ (after (execInjectionArmTimeout armId s) s).pads = s.pads ∧ (after (execInjectionArmTimeout armId s) s).tap = s.tap ∧ (after (execInjectionArmTimeout armId s) s).pending = s.pending := by
  unfold execInjectionArmTimeout
  first
    | (simp [apply_ite State.clk, apply_ite State.boot, apply_ite State.dram, apply_ite State.pads, apply_ite State.tap, apply_ite State.pending]; done)
    | ((repeat' split) <;> (first | (simp [apply_ite State.clk, apply_ite State.boot, apply_ite State.dram, apply_ite State.pads, apply_ite State.tap, apply_ite State.pending]; done) | (simp_all [apply_ite State.clk, apply_ite State.boot, apply_ite State.dram, apply_ite State.pads, apply_ite State.tap, apply_ite State.pending]; done)))
    | (dsimp only; (repeat' apply And.intro) <;> (repeat' split) <;> (first | (simp [apply_ite State.clk, apply_ite State.boot, apply_ite State.dram, apply_ite State.pads, apply_ite State.tap, apply_ite State.pending]; done) | (simp_all [apply_ite State.clk, apply_ite State.boot, apply_ite State.dram, apply_ite State.pads, apply_ite State.tap, apply_ite State.pending]; done)))
@[simp] theorem frame_execDiagAuthIdleTimeout (s : State) :
    (after (execDiagAuthIdleTimeout s) s).clk = s.clk ∧ (after (execDiagAuthIdleTimeout s) s).boot = s.boot ∧ (after (execDiagAuthIdleTimeout s) s).dram = s.dram ∧ (after (execDiagAuthIdleTimeout s) s).pads = s.pads ∧ (after (execDiagAuthIdleTimeout s) s).tap = s.tap ∧ (after (execDiagAuthIdleTimeout s) s).pending = s.pending := by
  unfold execDiagAuthIdleTimeout
  first
    | (simp [apply_ite State.clk, apply_ite State.boot, apply_ite State.dram, apply_ite State.pads, apply_ite State.tap, apply_ite State.pending]; done)
    | ((repeat' split) <;> (first | (simp [apply_ite State.clk, apply_ite State.boot, apply_ite State.dram, apply_ite State.pads, apply_ite State.tap, apply_ite State.pending]; done) | (simp_all [apply_ite State.clk, apply_ite State.boot, apply_ite State.dram, apply_ite State.pads, apply_ite State.tap, apply_ite State.pending]; done)))
    | (dsimp only; (repeat' apply And.intro) <;> (repeat' split) <;> (first | (simp [apply_ite State.clk, apply_ite State.boot, apply_ite State.dram, apply_ite State.pads, apply_ite State.tap, apply_ite State.pending]; done) | (simp_all [apply_ite State.clk, apply_ite State.boot, apply_ite State.dram, apply_ite State.pads, apply_ite State.tap, apply_ite State.pending]; done)))
@[simp] theorem frame_execCausewaySignalLoss (port : CwPort) (s : State) :
    (after (execCausewaySignalLoss port s) s).clk = s.clk ∧ (after (execCausewaySignalLoss port s) s).boot = s.boot ∧ (after (execCausewaySignalLoss port s) s).dram = s.dram ∧ (after (execCausewaySignalLoss port s) s).pads = s.pads ∧ (after (execCausewaySignalLoss port s) s).integ = s.integ ∧ (after (execCausewaySignalLoss port s) s).tap = s.tap ∧ (after (execCausewaySignalLoss port s) s).pending = s.pending := by
  unfold execCausewaySignalLoss
  first
    | (simp [apply_ite State.clk, apply_ite State.boot, apply_ite State.dram, apply_ite State.pads, apply_ite State.integ, apply_ite State.tap, apply_ite State.pending]; done)
    | ((repeat' split) <;> (first | (simp [apply_ite State.clk, apply_ite State.boot, apply_ite State.dram, apply_ite State.pads, apply_ite State.integ, apply_ite State.tap, apply_ite State.pending]; done) | (simp_all [apply_ite State.clk, apply_ite State.boot, apply_ite State.dram, apply_ite State.pads, apply_ite State.integ, apply_ite State.tap, apply_ite State.pending]; done)))
    | (dsimp only; (repeat' apply And.intro) <;> (repeat' split) <;> (first | (simp [apply_ite State.clk, apply_ite State.boot, apply_ite State.dram, apply_ite State.pads, apply_ite State.integ, apply_ite State.tap, apply_ite State.pending]; done) | (simp_all [apply_ite State.clk, apply_ite State.boot, apply_ite State.dram, apply_ite State.pads, apply_ite State.integ, apply_ite State.tap, apply_ite State.pending]; done)))
@[simp] theorem frame_execFecUncorrectableBurst (port : CwPort) (s : State) :
    (after (execFecUncorrectableBurst port s) s).clk = s.clk ∧ (after (execFecUncorrectableBurst port s) s).boot = s.boot ∧ (after (execFecUncorrectableBurst port s) s).dram = s.dram ∧ (after (execFecUncorrectableBurst port s) s).pads = s.pads ∧ (after (execFecUncorrectableBurst port s) s).integ = s.integ ∧ (after (execFecUncorrectableBurst port s) s).tap = s.tap ∧ (after (execFecUncorrectableBurst port s) s).pending = s.pending := by
  unfold execFecUncorrectableBurst
  first
    | (simp [apply_ite State.clk, apply_ite State.boot, apply_ite State.dram, apply_ite State.pads, apply_ite State.integ, apply_ite State.tap, apply_ite State.pending]; done)
    | ((repeat' split) <;> (first | (simp [apply_ite State.clk, apply_ite State.boot, apply_ite State.dram, apply_ite State.pads, apply_ite State.integ, apply_ite State.tap, apply_ite State.pending]; done) | (simp_all [apply_ite State.clk, apply_ite State.boot, apply_ite State.dram, apply_ite State.pads, apply_ite State.integ, apply_ite State.tap, apply_ite State.pending]; done)))
    | (dsimp only; (repeat' apply And.intro) <;> (repeat' split) <;> (first | (simp [apply_ite State.clk, apply_ite State.boot, apply_ite State.dram, apply_ite State.pads, apply_ite State.integ, apply_ite State.tap, apply_ite State.pending]; done) | (simp_all [apply_ite State.clk, apply_ite State.boot, apply_ite State.dram, apply_ite State.pads, apply_ite State.integ, apply_ite State.tap, apply_ite State.pending]; done)))
@[simp] theorem frame_execLinkAckStall (port : CwPort) (s : State) :
    (after (execLinkAckStall port s) s).clk = s.clk ∧ (after (execLinkAckStall port s) s).boot = s.boot ∧ (after (execLinkAckStall port s) s).dram = s.dram ∧ (after (execLinkAckStall port s) s).pads = s.pads ∧ (after (execLinkAckStall port s) s).integ = s.integ ∧ (after (execLinkAckStall port s) s).tap = s.tap ∧ (after (execLinkAckStall port s) s).pending = s.pending := by
  unfold execLinkAckStall
  first
    | (simp [apply_ite State.clk, apply_ite State.boot, apply_ite State.dram, apply_ite State.pads, apply_ite State.integ, apply_ite State.tap, apply_ite State.pending]; done)
    | ((repeat' split) <;> (first | (simp [apply_ite State.clk, apply_ite State.boot, apply_ite State.dram, apply_ite State.pads, apply_ite State.integ, apply_ite State.tap, apply_ite State.pending]; done) | (simp_all [apply_ite State.clk, apply_ite State.boot, apply_ite State.dram, apply_ite State.pads, apply_ite State.integ, apply_ite State.tap, apply_ite State.pending]; done)))
    | (dsimp only; (repeat' apply And.intro) <;> (repeat' split) <;> (first | (simp [apply_ite State.clk, apply_ite State.boot, apply_ite State.dram, apply_ite State.pads, apply_ite State.integ, apply_ite State.tap, apply_ite State.pending]; done) | (simp_all [apply_ite State.clk, apply_ite State.boot, apply_ite State.dram, apply_ite State.pads, apply_ite State.integ, apply_ite State.tap, apply_ite State.pending]; done)))
@[simp] theorem frame_execLaneFailure (port : CwPort) (good : BitVec 8) (s : State) :
    (after (execLaneFailure port good s) s).clk = s.clk ∧ (after (execLaneFailure port good s) s).boot = s.boot ∧ (after (execLaneFailure port good s) s).dram = s.dram ∧ (after (execLaneFailure port good s) s).pads = s.pads ∧ (after (execLaneFailure port good s) s).integ = s.integ ∧ (after (execLaneFailure port good s) s).tap = s.tap ∧ (after (execLaneFailure port good s) s).pending = s.pending := by
  unfold execLaneFailure
  first
    | (simp [apply_ite State.clk, apply_ite State.boot, apply_ite State.dram, apply_ite State.pads, apply_ite State.integ, apply_ite State.tap, apply_ite State.pending]; done)
    | ((repeat' split) <;> (first | (simp [apply_ite State.clk, apply_ite State.boot, apply_ite State.dram, apply_ite State.pads, apply_ite State.integ, apply_ite State.tap, apply_ite State.pending]; done) | (simp_all [apply_ite State.clk, apply_ite State.boot, apply_ite State.dram, apply_ite State.pads, apply_ite State.integ, apply_ite State.tap, apply_ite State.pending]; done)))
    | (dsimp only; (repeat' apply And.intro) <;> (repeat' split) <;> (first | (simp [apply_ite State.clk, apply_ite State.boot, apply_ite State.dram, apply_ite State.pads, apply_ite State.integ, apply_ite State.tap, apply_ite State.pending]; done) | (simp_all [apply_ite State.clk, apply_ite State.boot, apply_ite State.dram, apply_ite State.pads, apply_ite State.integ, apply_ite State.tap, apply_ite State.pending]; done)))
@[simp] theorem frame_execHello (port : CwPort) (rank : Rank) (serial boot : Word) (session : BitVec 32) (n : Nat) (s : State) :
    (after (execHello port rank serial boot session n s) s).clk = s.clk ∧ (after (execHello port rank serial boot session n s) s).boot = s.boot ∧ (after (execHello port rank serial boot session n s) s).dram = s.dram ∧ (after (execHello port rank serial boot session n s) s).pads = s.pads ∧ (after (execHello port rank serial boot session n s) s).integ = s.integ ∧ (after (execHello port rank serial boot session n s) s).tap = s.tap ∧ (after (execHello port rank serial boot session n s) s).pending = s.pending := by
  unfold execHello
  first
    | (simp [apply_ite State.clk, apply_ite State.boot, apply_ite State.dram, apply_ite State.pads, apply_ite State.integ, apply_ite State.tap, apply_ite State.pending]; done)
    | ((repeat' split) <;> (first | (simp [apply_ite State.clk, apply_ite State.boot, apply_ite State.dram, apply_ite State.pads, apply_ite State.integ, apply_ite State.tap, apply_ite State.pending]; done) | (simp_all [apply_ite State.clk, apply_ite State.boot, apply_ite State.dram, apply_ite State.pads, apply_ite State.integ, apply_ite State.tap, apply_ite State.pending]; done)))
    | (dsimp only; (repeat' apply And.intro) <;> (repeat' split) <;> (first | (simp [apply_ite State.clk, apply_ite State.boot, apply_ite State.dram, apply_ite State.pads, apply_ite State.integ, apply_ite State.tap, apply_ite State.pending]; done) | (simp_all [apply_ite State.clk, apply_ite State.boot, apply_ite State.dram, apply_ite State.pads, apply_ite State.integ, apply_ite State.tap, apply_ite State.pending]; done)))
@[simp] theorem frame_execPortTrained (port : CwPort) (good : BitVec 8) (s : State) :
    (after (execPortTrained port good s) s).clk = s.clk ∧ (after (execPortTrained port good s) s).boot = s.boot ∧ (after (execPortTrained port good s) s).dram = s.dram ∧ (after (execPortTrained port good s) s).pads = s.pads ∧ (after (execPortTrained port good s) s).integ = s.integ ∧ (after (execPortTrained port good s) s).tap = s.tap ∧ (after (execPortTrained port good s) s).pending = s.pending := by
  unfold execPortTrained
  first
    | (simp [apply_ite State.clk, apply_ite State.boot, apply_ite State.dram, apply_ite State.pads, apply_ite State.integ, apply_ite State.tap, apply_ite State.pending]; done)
    | ((repeat' split) <;> (first | (simp [apply_ite State.clk, apply_ite State.boot, apply_ite State.dram, apply_ite State.pads, apply_ite State.integ, apply_ite State.tap, apply_ite State.pending]; done) | (simp_all [apply_ite State.clk, apply_ite State.boot, apply_ite State.dram, apply_ite State.pads, apply_ite State.integ, apply_ite State.tap, apply_ite State.pending]; done)))
    | (dsimp only; (repeat' apply And.intro) <;> (repeat' split) <;> (first | (simp [apply_ite State.clk, apply_ite State.boot, apply_ite State.dram, apply_ite State.pads, apply_ite State.integ, apply_ite State.tap, apply_ite State.pending]; done) | (simp_all [apply_ite State.clk, apply_ite State.boot, apply_ite State.dram, apply_ite State.pads, apply_ite State.integ, apply_ite State.tap, apply_ite State.pending]; done)))
@[simp] theorem frame_execPortRetrainTimer (port : CwPort) (s : State) :
    (after (execPortRetrainTimer port s) s).clk = s.clk ∧ (after (execPortRetrainTimer port s) s).boot = s.boot ∧ (after (execPortRetrainTimer port s) s).dram = s.dram ∧ (after (execPortRetrainTimer port s) s).pads = s.pads ∧ (after (execPortRetrainTimer port s) s).integ = s.integ ∧ (after (execPortRetrainTimer port s) s).tap = s.tap ∧ (after (execPortRetrainTimer port s) s).pending = s.pending := by
  unfold execPortRetrainTimer
  first
    | (simp [apply_ite State.clk, apply_ite State.boot, apply_ite State.dram, apply_ite State.pads, apply_ite State.integ, apply_ite State.tap, apply_ite State.pending]; done)
    | ((repeat' split) <;> (first | (simp [apply_ite State.clk, apply_ite State.boot, apply_ite State.dram, apply_ite State.pads, apply_ite State.integ, apply_ite State.tap, apply_ite State.pending]; done) | (simp_all [apply_ite State.clk, apply_ite State.boot, apply_ite State.dram, apply_ite State.pads, apply_ite State.integ, apply_ite State.tap, apply_ite State.pending]; done)))
    | (dsimp only; (repeat' apply And.intro) <;> (repeat' split) <;> (first | (simp [apply_ite State.clk, apply_ite State.boot, apply_ite State.dram, apply_ite State.pads, apply_ite State.integ, apply_ite State.tap, apply_ite State.pending]; done) | (simp_all [apply_ite State.clk, apply_ite State.boot, apply_ite State.dram, apply_ite State.pads, apply_ite State.integ, apply_ite State.tap, apply_ite State.pending]; done)))
@[simp] theorem frame_execLinkFlapHoldEnd (port : CwPort) (s : State) :
    (after (execLinkFlapHoldEnd port s) s).clk = s.clk ∧ (after (execLinkFlapHoldEnd port s) s).boot = s.boot ∧ (after (execLinkFlapHoldEnd port s) s).dram = s.dram ∧ (after (execLinkFlapHoldEnd port s) s).pads = s.pads ∧ (after (execLinkFlapHoldEnd port s) s).integ = s.integ ∧ (after (execLinkFlapHoldEnd port s) s).tap = s.tap ∧ (after (execLinkFlapHoldEnd port s) s).pending = s.pending := by
  unfold execLinkFlapHoldEnd
  first
    | (simp [apply_ite State.clk, apply_ite State.boot, apply_ite State.dram, apply_ite State.pads, apply_ite State.integ, apply_ite State.tap, apply_ite State.pending]; done)
    | ((repeat' split) <;> (first | (simp [apply_ite State.clk, apply_ite State.boot, apply_ite State.dram, apply_ite State.pads, apply_ite State.integ, apply_ite State.tap, apply_ite State.pending]; done) | (simp_all [apply_ite State.clk, apply_ite State.boot, apply_ite State.dram, apply_ite State.pads, apply_ite State.integ, apply_ite State.tap, apply_ite State.pending]; done)))
    | (dsimp only; (repeat' apply And.intro) <;> (repeat' split) <;> (first | (simp [apply_ite State.clk, apply_ite State.boot, apply_ite State.dram, apply_ite State.pads, apply_ite State.integ, apply_ite State.tap, apply_ite State.pending]; done) | (simp_all [apply_ite State.clk, apply_ite State.boot, apply_ite State.dram, apply_ite State.pads, apply_ite State.integ, apply_ite State.tap, apply_ite State.pending]; done)))
@[simp] theorem frame_execLinkCtlWidth (port : CwPort) (lanes : Nat) (s : State) :
    (after (execLinkCtlWidth port lanes s) s).clk = s.clk ∧ (after (execLinkCtlWidth port lanes s) s).boot = s.boot ∧ (after (execLinkCtlWidth port lanes s) s).dram = s.dram ∧ (after (execLinkCtlWidth port lanes s) s).pads = s.pads ∧ (after (execLinkCtlWidth port lanes s) s).integ = s.integ ∧ (after (execLinkCtlWidth port lanes s) s).tap = s.tap ∧ (after (execLinkCtlWidth port lanes s) s).pending = s.pending := by
  unfold execLinkCtlWidth
  first
    | (simp [apply_ite State.clk, apply_ite State.boot, apply_ite State.dram, apply_ite State.pads, apply_ite State.integ, apply_ite State.tap, apply_ite State.pending]; done)
    | ((repeat' split) <;> (first | (simp [apply_ite State.clk, apply_ite State.boot, apply_ite State.dram, apply_ite State.pads, apply_ite State.integ, apply_ite State.tap, apply_ite State.pending]; done) | (simp_all [apply_ite State.clk, apply_ite State.boot, apply_ite State.dram, apply_ite State.pads, apply_ite State.integ, apply_ite State.tap, apply_ite State.pending]; done)))
    | (dsimp only; (repeat' apply And.intro) <;> (repeat' split) <;> (first | (simp [apply_ite State.clk, apply_ite State.boot, apply_ite State.dram, apply_ite State.pads, apply_ite State.integ, apply_ite State.tap, apply_ite State.pending]; done) | (simp_all [apply_ite State.clk, apply_ite State.boot, apply_ite State.dram, apply_ite State.pads, apply_ite State.integ, apply_ite State.tap, apply_ite State.pending]; done)))
@[simp] theorem frame_execTopology (port : CwPort) (rank : Rank) (version : Nat) (links : List LinkTo) (s : State) :
    (after (execTopology port rank version links s) s).clk = s.clk ∧ (after (execTopology port rank version links s) s).boot = s.boot ∧ (after (execTopology port rank version links s) s).dram = s.dram ∧ (after (execTopology port rank version links s) s).pads = s.pads ∧ (after (execTopology port rank version links s) s).integ = s.integ ∧ (after (execTopology port rank version links s) s).tap = s.tap ∧ (after (execTopology port rank version links s) s).pending = s.pending := by
  unfold execTopology
  first
    | (simp [apply_ite State.clk, apply_ite State.boot, apply_ite State.dram, apply_ite State.pads, apply_ite State.integ, apply_ite State.tap, apply_ite State.pending]; done)
    | ((repeat' split) <;> (first | (simp [apply_ite State.clk, apply_ite State.boot, apply_ite State.dram, apply_ite State.pads, apply_ite State.integ, apply_ite State.tap, apply_ite State.pending]; done) | (simp_all [apply_ite State.clk, apply_ite State.boot, apply_ite State.dram, apply_ite State.pads, apply_ite State.integ, apply_ite State.tap, apply_ite State.pending]; done)))
    | (dsimp only; (repeat' apply And.intro) <;> (repeat' split) <;> (first | (simp [apply_ite State.clk, apply_ite State.boot, apply_ite State.dram, apply_ite State.pads, apply_ite State.integ, apply_ite State.tap, apply_ite State.pending]; done) | (simp_all [apply_ite State.clk, apply_ite State.boot, apply_ite State.dram, apply_ite State.pads, apply_ite State.integ, apply_ite State.tap, apply_ite State.pending]; done)))
@[simp] theorem frame_execTransitFrame (f : Frame) (s : State) :
    (after (execTransitFrame f s) s).clk = s.clk ∧ (after (execTransitFrame f s) s).boot = s.boot ∧ (after (execTransitFrame f s) s).dram = s.dram ∧ (after (execTransitFrame f s) s).pads = s.pads ∧ (after (execTransitFrame f s) s).integ = s.integ ∧ (after (execTransitFrame f s) s).tap = s.tap ∧ (after (execTransitFrame f s) s).pending = s.pending := by
  unfold execTransitFrame
  first
    | (simp [apply_ite State.clk, apply_ite State.boot, apply_ite State.dram, apply_ite State.pads, apply_ite State.integ, apply_ite State.tap, apply_ite State.pending]; done)
    | ((repeat' split) <;> (first | (simp [apply_ite State.clk, apply_ite State.boot, apply_ite State.dram, apply_ite State.pads, apply_ite State.integ, apply_ite State.tap, apply_ite State.pending]; done) | (simp_all [apply_ite State.clk, apply_ite State.boot, apply_ite State.dram, apply_ite State.pads, apply_ite State.integ, apply_ite State.tap, apply_ite State.pending]; done)))
    | (dsimp only; (repeat' apply And.intro) <;> (repeat' split) <;> (first | (simp [apply_ite State.clk, apply_ite State.boot, apply_ite State.dram, apply_ite State.pads, apply_ite State.integ, apply_ite State.tap, apply_ite State.pending]; done) | (simp_all [apply_ite State.clk, apply_ite State.boot, apply_ite State.dram, apply_ite State.pads, apply_ite State.integ, apply_ite State.tap, apply_ite State.pending]; done)))
@[simp] theorem frame_execLinkCtlAck (port : CwPort) (seqn : Nat) (s : State) :
    (after (execLinkCtlAck port seqn s) s).clk = s.clk ∧ (after (execLinkCtlAck port seqn s) s).boot = s.boot ∧ (after (execLinkCtlAck port seqn s) s).dram = s.dram ∧ (after (execLinkCtlAck port seqn s) s).pads = s.pads ∧ (after (execLinkCtlAck port seqn s) s).integ = s.integ ∧ (after (execLinkCtlAck port seqn s) s).tap = s.tap ∧ (after (execLinkCtlAck port seqn s) s).pending = s.pending := by
  unfold execLinkCtlAck
  first
    | (simp [apply_ite State.clk, apply_ite State.boot, apply_ite State.dram, apply_ite State.pads, apply_ite State.integ, apply_ite State.tap, apply_ite State.pending]; done)
    | ((repeat' split) <;> (first | (simp [apply_ite State.clk, apply_ite State.boot, apply_ite State.dram, apply_ite State.pads, apply_ite State.integ, apply_ite State.tap, apply_ite State.pending]; done) | (simp_all [apply_ite State.clk, apply_ite State.boot, apply_ite State.dram, apply_ite State.pads, apply_ite State.integ, apply_ite State.tap, apply_ite State.pending]; done)))
    | (dsimp only; (repeat' apply And.intro) <;> (repeat' split) <;> (first | (simp [apply_ite State.clk, apply_ite State.boot, apply_ite State.dram, apply_ite State.pads, apply_ite State.integ, apply_ite State.tap, apply_ite State.pending]; done) | (simp_all [apply_ite State.clk, apply_ite State.boot, apply_ite State.dram, apply_ite State.pads, apply_ite State.integ, apply_ite State.tap, apply_ite State.pending]; done)))
@[simp] theorem frame_execLinkCtlNak (port : CwPort) (seqn : Nat) (s : State) :
    (after (execLinkCtlNak port seqn s) s).clk = s.clk ∧ (after (execLinkCtlNak port seqn s) s).boot = s.boot ∧ (after (execLinkCtlNak port seqn s) s).dram = s.dram ∧ (after (execLinkCtlNak port seqn s) s).pads = s.pads ∧ (after (execLinkCtlNak port seqn s) s).tap = s.tap ∧ (after (execLinkCtlNak port seqn s) s).pending = s.pending := by
  unfold execLinkCtlNak
  first
    | (simp [apply_ite State.clk, apply_ite State.boot, apply_ite State.dram, apply_ite State.pads, apply_ite State.tap, apply_ite State.pending]; done)
    | ((repeat' split) <;> (first | (simp [apply_ite State.clk, apply_ite State.boot, apply_ite State.dram, apply_ite State.pads, apply_ite State.tap, apply_ite State.pending]; done) | (simp_all [apply_ite State.clk, apply_ite State.boot, apply_ite State.dram, apply_ite State.pads, apply_ite State.tap, apply_ite State.pending]; done)))
    | (dsimp only; (repeat' apply And.intro) <;> (repeat' split) <;> (first | (simp [apply_ite State.clk, apply_ite State.boot, apply_ite State.dram, apply_ite State.pads, apply_ite State.tap, apply_ite State.pending]; done) | (simp_all [apply_ite State.clk, apply_ite State.boot, apply_ite State.dram, apply_ite State.pads, apply_ite State.tap, apply_ite State.pending]; done)))
@[simp] theorem frame_execLinkAckTimer (port : CwPort) (s : State) :
    (after (execLinkAckTimer port s) s).clk = s.clk ∧ (after (execLinkAckTimer port s) s).boot = s.boot ∧ (after (execLinkAckTimer port s) s).dram = s.dram ∧ (after (execLinkAckTimer port s) s).pads = s.pads ∧ (after (execLinkAckTimer port s) s).integ = s.integ ∧ (after (execLinkAckTimer port s) s).tap = s.tap ∧ (after (execLinkAckTimer port s) s).pending = s.pending := by
  unfold execLinkAckTimer
  first
    | (simp [apply_ite State.clk, apply_ite State.boot, apply_ite State.dram, apply_ite State.pads, apply_ite State.integ, apply_ite State.tap, apply_ite State.pending]; done)
    | ((repeat' split) <;> (first | (simp [apply_ite State.clk, apply_ite State.boot, apply_ite State.dram, apply_ite State.pads, apply_ite State.integ, apply_ite State.tap, apply_ite State.pending]; done) | (simp_all [apply_ite State.clk, apply_ite State.boot, apply_ite State.dram, apply_ite State.pads, apply_ite State.integ, apply_ite State.tap, apply_ite State.pending]; done)))
    | (dsimp only; (repeat' apply And.intro) <;> (repeat' split) <;> (first | (simp [apply_ite State.clk, apply_ite State.boot, apply_ite State.dram, apply_ite State.pads, apply_ite State.integ, apply_ite State.tap, apply_ite State.pending]; done) | (simp_all [apply_ite State.clk, apply_ite State.boot, apply_ite State.dram, apply_ite State.pads, apply_ite State.integ, apply_ite State.tap, apply_ite State.pending]; done)))
@[simp] theorem frame_execLinkTest (port : CwPort) (symbols uncorrectable replays : Nat) (s : State) :
    (after (execLinkTest port symbols uncorrectable replays s) s).clk = s.clk ∧ (after (execLinkTest port symbols uncorrectable replays s) s).boot = s.boot ∧ (after (execLinkTest port symbols uncorrectable replays s) s).dram = s.dram ∧ (after (execLinkTest port symbols uncorrectable replays s) s).pads = s.pads ∧ (after (execLinkTest port symbols uncorrectable replays s) s).integ = s.integ ∧ (after (execLinkTest port symbols uncorrectable replays s) s).tap = s.tap ∧ (after (execLinkTest port symbols uncorrectable replays s) s).pending = s.pending := by
  unfold execLinkTest
  first
    | (simp [apply_ite State.clk, apply_ite State.boot, apply_ite State.dram, apply_ite State.pads, apply_ite State.integ, apply_ite State.tap, apply_ite State.pending]; done)
    | ((repeat' split) <;> (first | (simp [apply_ite State.clk, apply_ite State.boot, apply_ite State.dram, apply_ite State.pads, apply_ite State.integ, apply_ite State.tap, apply_ite State.pending]; done) | (simp_all [apply_ite State.clk, apply_ite State.boot, apply_ite State.dram, apply_ite State.pads, apply_ite State.integ, apply_ite State.tap, apply_ite State.pending]; done)))
    | (dsimp only; (repeat' apply And.intro) <;> (repeat' split) <;> (first | (simp [apply_ite State.clk, apply_ite State.boot, apply_ite State.dram, apply_ite State.pads, apply_ite State.integ, apply_ite State.tap, apply_ite State.pending]; done) | (simp_all [apply_ite State.clk, apply_ite State.boot, apply_ite State.dram, apply_ite State.pads, apply_ite State.integ, apply_ite State.tap, apply_ite State.pending]; done)))
@[simp] theorem frame_execE2eAck (f : Frame) (s : State) :
    (after (execE2eAck f s) s).clk = s.clk ∧ (after (execE2eAck f s) s).boot = s.boot ∧ (after (execE2eAck f s) s).dram = s.dram ∧ (after (execE2eAck f s) s).pads = s.pads ∧ (after (execE2eAck f s) s).integ = s.integ ∧ (after (execE2eAck f s) s).tap = s.tap ∧ (after (execE2eAck f s) s).pending = s.pending := by
  unfold execE2eAck
  first
    | (simp [apply_ite State.clk, apply_ite State.boot, apply_ite State.dram, apply_ite State.pads, apply_ite State.integ, apply_ite State.tap, apply_ite State.pending]; done)
    | ((repeat' split) <;> (first | (simp [apply_ite State.clk, apply_ite State.boot, apply_ite State.dram, apply_ite State.pads, apply_ite State.integ, apply_ite State.tap, apply_ite State.pending]; done) | (simp_all [apply_ite State.clk, apply_ite State.boot, apply_ite State.dram, apply_ite State.pads, apply_ite State.integ, apply_ite State.tap, apply_ite State.pending]; done)))
    | (dsimp only; (repeat' apply And.intro) <;> (repeat' split) <;> (first | (simp [apply_ite State.clk, apply_ite State.boot, apply_ite State.dram, apply_ite State.pads, apply_ite State.integ, apply_ite State.tap, apply_ite State.pending]; done) | (simp_all [apply_ite State.clk, apply_ite State.boot, apply_ite State.dram, apply_ite State.pads, apply_ite State.integ, apply_ite State.tap, apply_ite State.pending]; done)))
@[simp] theorem frame_execE2eNak (f : Frame) (s : State) :
    (after (execE2eNak f s) s).clk = s.clk ∧ (after (execE2eNak f s) s).boot = s.boot ∧ (after (execE2eNak f s) s).dram = s.dram ∧ (after (execE2eNak f s) s).pads = s.pads ∧ (after (execE2eNak f s) s).integ = s.integ ∧ (after (execE2eNak f s) s).tap = s.tap ∧ (after (execE2eNak f s) s).pending = s.pending := by
  unfold execE2eNak
  first
    | (simp [apply_ite State.clk, apply_ite State.boot, apply_ite State.dram, apply_ite State.pads, apply_ite State.integ, apply_ite State.tap, apply_ite State.pending]; done)
    | ((repeat' split) <;> (first | (simp [apply_ite State.clk, apply_ite State.boot, apply_ite State.dram, apply_ite State.pads, apply_ite State.integ, apply_ite State.tap, apply_ite State.pending]; done) | (simp_all [apply_ite State.clk, apply_ite State.boot, apply_ite State.dram, apply_ite State.pads, apply_ite State.integ, apply_ite State.tap, apply_ite State.pending]; done)))
    | (dsimp only; (repeat' apply And.intro) <;> (repeat' split) <;> (first | (simp [apply_ite State.clk, apply_ite State.boot, apply_ite State.dram, apply_ite State.pads, apply_ite State.integ, apply_ite State.tap, apply_ite State.pending]; done) | (simp_all [apply_ite State.clk, apply_ite State.boot, apply_ite State.dram, apply_ite State.pads, apply_ite State.integ, apply_ite State.tap, apply_ite State.pending]; done)))
@[simp] theorem frame_execE2eGapTimeout (src : Rank) (cls : Nat) (s : State) :
    (after (execE2eGapTimeout src cls s) s).clk = s.clk ∧ (after (execE2eGapTimeout src cls s) s).boot = s.boot ∧ (after (execE2eGapTimeout src cls s) s).dram = s.dram ∧ (after (execE2eGapTimeout src cls s) s).pads = s.pads ∧ (after (execE2eGapTimeout src cls s) s).integ = s.integ ∧ (after (execE2eGapTimeout src cls s) s).tap = s.tap ∧ (after (execE2eGapTimeout src cls s) s).pending = s.pending := by
  unfold execE2eGapTimeout
  first
    | (simp [apply_ite State.clk, apply_ite State.boot, apply_ite State.dram, apply_ite State.pads, apply_ite State.integ, apply_ite State.tap, apply_ite State.pending]; done)
    | ((repeat' split) <;> (first | (simp [apply_ite State.clk, apply_ite State.boot, apply_ite State.dram, apply_ite State.pads, apply_ite State.integ, apply_ite State.tap, apply_ite State.pending]; done) | (simp_all [apply_ite State.clk, apply_ite State.boot, apply_ite State.dram, apply_ite State.pads, apply_ite State.integ, apply_ite State.tap, apply_ite State.pending]; done)))
    | (dsimp only; (repeat' apply And.intro) <;> (repeat' split) <;> (first | (simp [apply_ite State.clk, apply_ite State.boot, apply_ite State.dram, apply_ite State.pads, apply_ite State.integ, apply_ite State.tap, apply_ite State.pending]; done) | (simp_all [apply_ite State.clk, apply_ite State.boot, apply_ite State.dram, apply_ite State.pads, apply_ite State.integ, apply_ite State.tap, apply_ite State.pending]; done)))
@[simp] theorem frame_execE2eAckTimer (src : Rank) (cls : Nat) (s : State) :
    (after (execE2eAckTimer src cls s) s).clk = s.clk ∧ (after (execE2eAckTimer src cls s) s).boot = s.boot ∧ (after (execE2eAckTimer src cls s) s).dram = s.dram ∧ (after (execE2eAckTimer src cls s) s).pads = s.pads ∧ (after (execE2eAckTimer src cls s) s).integ = s.integ ∧ (after (execE2eAckTimer src cls s) s).tap = s.tap ∧ (after (execE2eAckTimer src cls s) s).pending = s.pending := by
  unfold execE2eAckTimer
  first
    | (simp [apply_ite State.clk, apply_ite State.boot, apply_ite State.dram, apply_ite State.pads, apply_ite State.integ, apply_ite State.tap, apply_ite State.pending]; done)
    | ((repeat' split) <;> (first | (simp [apply_ite State.clk, apply_ite State.boot, apply_ite State.dram, apply_ite State.pads, apply_ite State.integ, apply_ite State.tap, apply_ite State.pending]; done) | (simp_all [apply_ite State.clk, apply_ite State.boot, apply_ite State.dram, apply_ite State.pads, apply_ite State.integ, apply_ite State.tap, apply_ite State.pending]; done)))
    | (dsimp only; (repeat' apply And.intro) <;> (repeat' split) <;> (first | (simp [apply_ite State.clk, apply_ite State.boot, apply_ite State.dram, apply_ite State.pads, apply_ite State.integ, apply_ite State.tap, apply_ite State.pending]; done) | (simp_all [apply_ite State.clk, apply_ite State.boot, apply_ite State.dram, apply_ite State.pads, apply_ite State.integ, apply_ite State.tap, apply_ite State.pending]; done)))
@[simp] theorem frame_execE2eReplayTimeout (dst : Rank) (cls : Nat) (s : State) :
    (after (execE2eReplayTimeout dst cls s) s).clk = s.clk ∧ (after (execE2eReplayTimeout dst cls s) s).boot = s.boot ∧ (after (execE2eReplayTimeout dst cls s) s).dram = s.dram ∧ (after (execE2eReplayTimeout dst cls s) s).pads = s.pads ∧ (after (execE2eReplayTimeout dst cls s) s).integ = s.integ ∧ (after (execE2eReplayTimeout dst cls s) s).tap = s.tap ∧ (after (execE2eReplayTimeout dst cls s) s).pending = s.pending := by
  unfold execE2eReplayTimeout
  first
    | (simp [apply_ite State.clk, apply_ite State.boot, apply_ite State.dram, apply_ite State.pads, apply_ite State.integ, apply_ite State.tap, apply_ite State.pending]; done)
    | ((repeat' split) <;> (first | (simp [apply_ite State.clk, apply_ite State.boot, apply_ite State.dram, apply_ite State.pads, apply_ite State.integ, apply_ite State.tap, apply_ite State.pending]; done) | (simp_all [apply_ite State.clk, apply_ite State.boot, apply_ite State.dram, apply_ite State.pads, apply_ite State.integ, apply_ite State.tap, apply_ite State.pending]; done)))
    | (dsimp only; (repeat' apply And.intro) <;> (repeat' split) <;> (first | (simp [apply_ite State.clk, apply_ite State.boot, apply_ite State.dram, apply_ite State.pads, apply_ite State.integ, apply_ite State.tap, apply_ite State.pending]; done) | (simp_all [apply_ite State.clk, apply_ite State.boot, apply_ite State.dram, apply_ite State.pads, apply_ite State.integ, apply_ite State.tap, apply_ite State.pending]; done)))
@[simp] theorem frame_execKilnResetWave (answers : List DieAnswer) (s : State) :
    (after (execKilnResetWave answers s) s).clk = s.clk ∧ (after (execKilnResetWave answers s) s).dram = s.dram ∧ (after (execKilnResetWave answers s) s).pads = s.pads ∧ (after (execKilnResetWave answers s) s).integ = s.integ ∧ (after (execKilnResetWave answers s) s).tap = s.tap ∧ (after (execKilnResetWave answers s) s).pending = s.pending := by
  unfold execKilnResetWave
  first
    | (simp [apply_ite State.clk, apply_ite State.dram, apply_ite State.pads, apply_ite State.integ, apply_ite State.tap, apply_ite State.pending]; done)
    | ((repeat' split) <;> (first | (simp [apply_ite State.clk, apply_ite State.dram, apply_ite State.pads, apply_ite State.integ, apply_ite State.tap, apply_ite State.pending]; done) | (simp_all [apply_ite State.clk, apply_ite State.dram, apply_ite State.pads, apply_ite State.integ, apply_ite State.tap, apply_ite State.pending]; done)))
    | (dsimp only; (repeat' apply And.intro) <;> (repeat' split) <;> (first | (simp [apply_ite State.clk, apply_ite State.dram, apply_ite State.pads, apply_ite State.integ, apply_ite State.tap, apply_ite State.pending]; done) | (simp_all [apply_ite State.clk, apply_ite State.dram, apply_ite State.pads, apply_ite State.integ, apply_ite State.tap, apply_ite State.pending]; done)))
@[simp] theorem frame_execFlashChannelTrained (chan : Nat) (steps : List TrainStep) (s : State) :
    (after (execFlashChannelTrained chan steps s) s).clk = s.clk ∧ (after (execFlashChannelTrained chan steps s) s).dram = s.dram ∧ (after (execFlashChannelTrained chan steps s) s).pads = s.pads ∧ (after (execFlashChannelTrained chan steps s) s).integ = s.integ ∧ (after (execFlashChannelTrained chan steps s) s).tap = s.tap ∧ (after (execFlashChannelTrained chan steps s) s).pending = s.pending := by
  unfold execFlashChannelTrained
  first
    | (simp [apply_ite State.clk, apply_ite State.dram, apply_ite State.pads, apply_ite State.integ, apply_ite State.tap, apply_ite State.pending]; done)
    | ((repeat' split) <;> (first | (simp [apply_ite State.clk, apply_ite State.dram, apply_ite State.pads, apply_ite State.integ, apply_ite State.tap, apply_ite State.pending]; done) | (simp_all [apply_ite State.clk, apply_ite State.dram, apply_ite State.pads, apply_ite State.integ, apply_ite State.tap, apply_ite State.pending]; done)))
    | (dsimp only; (repeat' apply And.intro) <;> (repeat' split) <;> (first | (simp [apply_ite State.clk, apply_ite State.dram, apply_ite State.pads, apply_ite State.integ, apply_ite State.tap, apply_ite State.pending]; done) | (simp_all [apply_ite State.clk, apply_ite State.dram, apply_ite State.pads, apply_ite State.integ, apply_ite State.tap, apply_ite State.pending]; done)))
@[simp] theorem frame_execZqShortCalTimer (chan die : Nat) (s : State) :
    (after (execZqShortCalTimer chan die s) s).clk = s.clk ∧ (after (execZqShortCalTimer chan die s) s).boot = s.boot ∧ (after (execZqShortCalTimer chan die s) s).dram = s.dram ∧ (after (execZqShortCalTimer chan die s) s).pads = s.pads ∧ (after (execZqShortCalTimer chan die s) s).integ = s.integ ∧ (after (execZqShortCalTimer chan die s) s).tap = s.tap ∧ (after (execZqShortCalTimer chan die s) s).pending = s.pending := by
  unfold execZqShortCalTimer
  first
    | (simp [apply_ite State.clk, apply_ite State.boot, apply_ite State.dram, apply_ite State.pads, apply_ite State.integ, apply_ite State.tap, apply_ite State.pending]; done)
    | ((repeat' split) <;> (first | (simp [apply_ite State.clk, apply_ite State.boot, apply_ite State.dram, apply_ite State.pads, apply_ite State.integ, apply_ite State.tap, apply_ite State.pending]; done) | (simp_all [apply_ite State.clk, apply_ite State.boot, apply_ite State.dram, apply_ite State.pads, apply_ite State.integ, apply_ite State.tap, apply_ite State.pending]; done)))
    | (dsimp only; (repeat' apply And.intro) <;> (repeat' split) <;> (first | (simp [apply_ite State.clk, apply_ite State.boot, apply_ite State.dram, apply_ite State.pads, apply_ite State.integ, apply_ite State.tap, apply_ite State.pending]; done) | (simp_all [apply_ite State.clk, apply_ite State.boot, apply_ite State.dram, apply_ite State.pads, apply_ite State.integ, apply_ite State.tap, apply_ite State.pending]; done)))
@[simp] theorem frame_execTjDriftRetrain (chan : Nat) (steps : List TrainStep) (s : State) :
    (after (execTjDriftRetrain chan steps s) s).clk = s.clk ∧ (after (execTjDriftRetrain chan steps s) s).boot = s.boot ∧ (after (execTjDriftRetrain chan steps s) s).dram = s.dram ∧ (after (execTjDriftRetrain chan steps s) s).pads = s.pads ∧ (after (execTjDriftRetrain chan steps s) s).integ = s.integ ∧ (after (execTjDriftRetrain chan steps s) s).tap = s.tap ∧ (after (execTjDriftRetrain chan steps s) s).pending = s.pending := by
  unfold execTjDriftRetrain
  first
    | (simp [apply_ite State.clk, apply_ite State.boot, apply_ite State.dram, apply_ite State.pads, apply_ite State.integ, apply_ite State.tap, apply_ite State.pending]; done)
    | ((repeat' split) <;> (first | (simp [apply_ite State.clk, apply_ite State.boot, apply_ite State.dram, apply_ite State.pads, apply_ite State.integ, apply_ite State.tap, apply_ite State.pending]; done) | (simp_all [apply_ite State.clk, apply_ite State.boot, apply_ite State.dram, apply_ite State.pads, apply_ite State.integ, apply_ite State.tap, apply_ite State.pending]; done)))
    | (dsimp only; (repeat' apply And.intro) <;> (repeat' split) <;> (first | (simp [apply_ite State.clk, apply_ite State.boot, apply_ite State.dram, apply_ite State.pads, apply_ite State.integ, apply_ite State.tap, apply_ite State.pending]; done) | (simp_all [apply_ite State.clk, apply_ite State.boot, apply_ite State.dram, apply_ite State.pads, apply_ite State.integ, apply_ite State.tap, apply_ite State.pending]; done)))
@[simp] theorem frame_execFlashProgramComplete (chan die : Nat) (s : State) :
    (after (execFlashProgramComplete chan die s) s).clk = s.clk ∧ (after (execFlashProgramComplete chan die s) s).boot = s.boot ∧ (after (execFlashProgramComplete chan die s) s).dram = s.dram ∧ (after (execFlashProgramComplete chan die s) s).pads = s.pads ∧ (after (execFlashProgramComplete chan die s) s).integ = s.integ ∧ (after (execFlashProgramComplete chan die s) s).tap = s.tap ∧ (after (execFlashProgramComplete chan die s) s).pending = s.pending := by
  unfold execFlashProgramComplete
  first
    | (simp [apply_ite State.clk, apply_ite State.boot, apply_ite State.dram, apply_ite State.pads, apply_ite State.integ, apply_ite State.tap, apply_ite State.pending]; done)
    | ((repeat' split) <;> (first | (simp [apply_ite State.clk, apply_ite State.boot, apply_ite State.dram, apply_ite State.pads, apply_ite State.integ, apply_ite State.tap, apply_ite State.pending]; done) | (simp_all [apply_ite State.clk, apply_ite State.boot, apply_ite State.dram, apply_ite State.pads, apply_ite State.integ, apply_ite State.tap, apply_ite State.pending]; done)))
    | (dsimp only; (repeat' apply And.intro) <;> (repeat' split) <;> (first | (simp [apply_ite State.clk, apply_ite State.boot, apply_ite State.dram, apply_ite State.pads, apply_ite State.integ, apply_ite State.tap, apply_ite State.pending]; done) | (simp_all [apply_ite State.clk, apply_ite State.boot, apply_ite State.dram, apply_ite State.pads, apply_ite State.integ, apply_ite State.tap, apply_ite State.pending]; done)))
@[simp] theorem frame_execDieProgramFail (chan die : Nat) (s : State) :
    (after (execDieProgramFail chan die s) s).clk = s.clk ∧ (after (execDieProgramFail chan die s) s).boot = s.boot ∧ (after (execDieProgramFail chan die s) s).dram = s.dram ∧ (after (execDieProgramFail chan die s) s).pads = s.pads ∧ (after (execDieProgramFail chan die s) s).integ = s.integ ∧ (after (execDieProgramFail chan die s) s).tap = s.tap ∧ (after (execDieProgramFail chan die s) s).pending = s.pending := by
  unfold execDieProgramFail
  first
    | (simp [apply_ite State.clk, apply_ite State.boot, apply_ite State.dram, apply_ite State.pads, apply_ite State.integ, apply_ite State.tap, apply_ite State.pending]; done)
    | ((repeat' split) <;> (first | (simp [apply_ite State.clk, apply_ite State.boot, apply_ite State.dram, apply_ite State.pads, apply_ite State.integ, apply_ite State.tap, apply_ite State.pending]; done) | (simp_all [apply_ite State.clk, apply_ite State.boot, apply_ite State.dram, apply_ite State.pads, apply_ite State.integ, apply_ite State.tap, apply_ite State.pending]; done)))
    | (dsimp only; (repeat' apply And.intro) <;> (repeat' split) <;> (first | (simp [apply_ite State.clk, apply_ite State.boot, apply_ite State.dram, apply_ite State.pads, apply_ite State.integ, apply_ite State.tap, apply_ite State.pending]; done) | (simp_all [apply_ite State.clk, apply_ite State.boot, apply_ite State.dram, apply_ite State.pads, apply_ite State.integ, apply_ite State.tap, apply_ite State.pending]; done)))
@[simp] theorem frame_execFlashEraseComplete (chan die : Nat) (s : State) :
    (after (execFlashEraseComplete chan die s) s).clk = s.clk ∧ (after (execFlashEraseComplete chan die s) s).boot = s.boot ∧ (after (execFlashEraseComplete chan die s) s).dram = s.dram ∧ (after (execFlashEraseComplete chan die s) s).pads = s.pads ∧ (after (execFlashEraseComplete chan die s) s).integ = s.integ ∧ (after (execFlashEraseComplete chan die s) s).tap = s.tap ∧ (after (execFlashEraseComplete chan die s) s).pending = s.pending := by
  unfold execFlashEraseComplete
  first
    | (simp [apply_ite State.clk, apply_ite State.boot, apply_ite State.dram, apply_ite State.pads, apply_ite State.integ, apply_ite State.tap, apply_ite State.pending]; done)
    | ((repeat' split) <;> (first | (simp [apply_ite State.clk, apply_ite State.boot, apply_ite State.dram, apply_ite State.pads, apply_ite State.integ, apply_ite State.tap, apply_ite State.pending]; done) | (simp_all [apply_ite State.clk, apply_ite State.boot, apply_ite State.dram, apply_ite State.pads, apply_ite State.integ, apply_ite State.tap, apply_ite State.pending]; done)))
    | (dsimp only; (repeat' apply And.intro) <;> (repeat' split) <;> (first | (simp [apply_ite State.clk, apply_ite State.boot, apply_ite State.dram, apply_ite State.pads, apply_ite State.integ, apply_ite State.tap, apply_ite State.pending]; done) | (simp_all [apply_ite State.clk, apply_ite State.boot, apply_ite State.dram, apply_ite State.pads, apply_ite State.integ, apply_ite State.tap, apply_ite State.pending]; done)))
@[simp] theorem frame_execDieEraseFail (chan die : Nat) (s : State) :
    (after (execDieEraseFail chan die s) s).clk = s.clk ∧ (after (execDieEraseFail chan die s) s).boot = s.boot ∧ (after (execDieEraseFail chan die s) s).dram = s.dram ∧ (after (execDieEraseFail chan die s) s).pads = s.pads ∧ (after (execDieEraseFail chan die s) s).integ = s.integ ∧ (after (execDieEraseFail chan die s) s).tap = s.tap ∧ (after (execDieEraseFail chan die s) s).pending = s.pending := by
  unfold execDieEraseFail
  first
    | (simp [apply_ite State.clk, apply_ite State.boot, apply_ite State.dram, apply_ite State.pads, apply_ite State.integ, apply_ite State.tap, apply_ite State.pending]; done)
    | ((repeat' split) <;> (first | (simp [apply_ite State.clk, apply_ite State.boot, apply_ite State.dram, apply_ite State.pads, apply_ite State.integ, apply_ite State.tap, apply_ite State.pending]; done) | (simp_all [apply_ite State.clk, apply_ite State.boot, apply_ite State.dram, apply_ite State.pads, apply_ite State.integ, apply_ite State.tap, apply_ite State.pending]; done)))
    | (dsimp only; (repeat' apply And.intro) <;> (repeat' split) <;> (first | (simp [apply_ite State.clk, apply_ite State.boot, apply_ite State.dram, apply_ite State.pads, apply_ite State.integ, apply_ite State.tap, apply_ite State.pending]; done) | (simp_all [apply_ite State.clk, apply_ite State.boot, apply_ite State.dram, apply_ite State.pads, apply_ite State.integ, apply_ite State.tap, apply_ite State.pending]; done)))
@[simp] theorem frame_execFlashReadComplete (chan die : Nat) (results : List CwResult) (s : State) :
    (after (execFlashReadComplete chan die results s) s).clk = s.clk ∧ (after (execFlashReadComplete chan die results s) s).boot = s.boot ∧ (after (execFlashReadComplete chan die results s) s).dram = s.dram ∧ (after (execFlashReadComplete chan die results s) s).pads = s.pads ∧ (after (execFlashReadComplete chan die results s) s).integ = s.integ ∧ (after (execFlashReadComplete chan die results s) s).tap = s.tap ∧ (after (execFlashReadComplete chan die results s) s).pending = s.pending := by
  unfold execFlashReadComplete
  first
    | (simp [apply_ite State.clk, apply_ite State.boot, apply_ite State.dram, apply_ite State.pads, apply_ite State.integ, apply_ite State.tap, apply_ite State.pending]; done)
    | ((repeat' split) <;> (first | (simp [apply_ite State.clk, apply_ite State.boot, apply_ite State.dram, apply_ite State.pads, apply_ite State.integ, apply_ite State.tap, apply_ite State.pending]; done) | (simp_all [apply_ite State.clk, apply_ite State.boot, apply_ite State.dram, apply_ite State.pads, apply_ite State.integ, apply_ite State.tap, apply_ite State.pending]; done)))
    | (dsimp only; (repeat' apply And.intro) <;> (repeat' split) <;> (first | (simp [apply_ite State.clk, apply_ite State.boot, apply_ite State.dram, apply_ite State.pads, apply_ite State.integ, apply_ite State.tap, apply_ite State.pending]; done) | (simp_all [apply_ite State.clk, apply_ite State.boot, apply_ite State.dram, apply_ite State.pads, apply_ite State.integ, apply_ite State.tap, apply_ite State.pending]; done)))
@[simp] theorem frame_execDieReadyTimeout (chan die : Nat) (recovered : Bool) (s : State) :
    (after (execDieReadyTimeout chan die recovered s) s).clk = s.clk ∧ (after (execDieReadyTimeout chan die recovered s) s).boot = s.boot ∧ (after (execDieReadyTimeout chan die recovered s) s).dram = s.dram ∧ (after (execDieReadyTimeout chan die recovered s) s).pads = s.pads ∧ (after (execDieReadyTimeout chan die recovered s) s).integ = s.integ ∧ (after (execDieReadyTimeout chan die recovered s) s).tap = s.tap ∧ (after (execDieReadyTimeout chan die recovered s) s).pending = s.pending := by
  unfold execDieReadyTimeout
  first
    | (simp [apply_ite State.clk, apply_ite State.boot, apply_ite State.dram, apply_ite State.pads, apply_ite State.integ, apply_ite State.tap, apply_ite State.pending]; done)
    | ((repeat' split) <;> (first | (simp [apply_ite State.clk, apply_ite State.boot, apply_ite State.dram, apply_ite State.pads, apply_ite State.integ, apply_ite State.tap, apply_ite State.pending]; done) | (simp_all [apply_ite State.clk, apply_ite State.boot, apply_ite State.dram, apply_ite State.pads, apply_ite State.integ, apply_ite State.tap, apply_ite State.pending]; done)))
    | (dsimp only; (repeat' apply And.intro) <;> (repeat' split) <;> (first | (simp [apply_ite State.clk, apply_ite State.boot, apply_ite State.dram, apply_ite State.pads, apply_ite State.integ, apply_ite State.tap, apply_ite State.pending]; done) | (simp_all [apply_ite State.clk, apply_ite State.boot, apply_ite State.dram, apply_ite State.pads, apply_ite State.integ, apply_ite State.tap, apply_ite State.pending]; done)))
@[simp] theorem frame_execSuspendMinimumRun (chan die : Nat) (s : State) :
    (after (execSuspendMinimumRun chan die s) s).clk = s.clk ∧ (after (execSuspendMinimumRun chan die s) s).boot = s.boot ∧ (after (execSuspendMinimumRun chan die s) s).dram = s.dram ∧ (after (execSuspendMinimumRun chan die s) s).pads = s.pads ∧ (after (execSuspendMinimumRun chan die s) s).integ = s.integ ∧ (after (execSuspendMinimumRun chan die s) s).tap = s.tap ∧ (after (execSuspendMinimumRun chan die s) s).pending = s.pending := by
  unfold execSuspendMinimumRun
  first
    | (simp [apply_ite State.clk, apply_ite State.boot, apply_ite State.dram, apply_ite State.pads, apply_ite State.integ, apply_ite State.tap, apply_ite State.pending]; done)
    | ((repeat' split) <;> (first | (simp [apply_ite State.clk, apply_ite State.boot, apply_ite State.dram, apply_ite State.pads, apply_ite State.integ, apply_ite State.tap, apply_ite State.pending]; done) | (simp_all [apply_ite State.clk, apply_ite State.boot, apply_ite State.dram, apply_ite State.pads, apply_ite State.integ, apply_ite State.tap, apply_ite State.pending]; done)))
    | (dsimp only; (repeat' apply And.intro) <;> (repeat' split) <;> (first | (simp [apply_ite State.clk, apply_ite State.boot, apply_ite State.dram, apply_ite State.pads, apply_ite State.integ, apply_ite State.tap, apply_ite State.pending]; done) | (simp_all [apply_ite State.clk, apply_ite State.boot, apply_ite State.dram, apply_ite State.pads, apply_ite State.integ, apply_ite State.tap, apply_ite State.pending]; done)))
@[simp] theorem frame_execSuspendWindowEnd (chan die : Nat) (s : State) :
    (after (execSuspendWindowEnd chan die s) s).clk = s.clk ∧ (after (execSuspendWindowEnd chan die s) s).boot = s.boot ∧ (after (execSuspendWindowEnd chan die s) s).dram = s.dram ∧ (after (execSuspendWindowEnd chan die s) s).pads = s.pads ∧ (after (execSuspendWindowEnd chan die s) s).integ = s.integ ∧ (after (execSuspendWindowEnd chan die s) s).tap = s.tap ∧ (after (execSuspendWindowEnd chan die s) s).pending = s.pending := by
  unfold execSuspendWindowEnd
  first
    | (simp [apply_ite State.clk, apply_ite State.boot, apply_ite State.dram, apply_ite State.pads, apply_ite State.integ, apply_ite State.tap, apply_ite State.pending]; done)
    | ((repeat' split) <;> (first | (simp [apply_ite State.clk, apply_ite State.boot, apply_ite State.dram, apply_ite State.pads, apply_ite State.integ, apply_ite State.tap, apply_ite State.pending]; done) | (simp_all [apply_ite State.clk, apply_ite State.boot, apply_ite State.dram, apply_ite State.pads, apply_ite State.integ, apply_ite State.tap, apply_ite State.pending]; done)))
    | (dsimp only; (repeat' apply And.intro) <;> (repeat' split) <;> (first | (simp [apply_ite State.clk, apply_ite State.boot, apply_ite State.dram, apply_ite State.pads, apply_ite State.integ, apply_ite State.tap, apply_ite State.pending]; done) | (simp_all [apply_ite State.clk, apply_ite State.boot, apply_ite State.dram, apply_ite State.pads, apply_ite State.integ, apply_ite State.tap, apply_ite State.pending]; done)))
@[simp] theorem frame_execOperationWaitLimit (chan die : Nat) (s : State) :
    (after (execOperationWaitLimit chan die s) s).clk = s.clk ∧ (after (execOperationWaitLimit chan die s) s).boot = s.boot ∧ (after (execOperationWaitLimit chan die s) s).dram = s.dram ∧ (after (execOperationWaitLimit chan die s) s).pads = s.pads ∧ (after (execOperationWaitLimit chan die s) s).integ = s.integ ∧ (after (execOperationWaitLimit chan die s) s).tap = s.tap ∧ (after (execOperationWaitLimit chan die s) s).pending = s.pending := by
  unfold execOperationWaitLimit
  first
    | (simp [apply_ite State.clk, apply_ite State.boot, apply_ite State.dram, apply_ite State.pads, apply_ite State.integ, apply_ite State.tap, apply_ite State.pending]; done)
    | ((repeat' split) <;> (first | (simp [apply_ite State.clk, apply_ite State.boot, apply_ite State.dram, apply_ite State.pads, apply_ite State.integ, apply_ite State.tap, apply_ite State.pending]; done) | (simp_all [apply_ite State.clk, apply_ite State.boot, apply_ite State.dram, apply_ite State.pads, apply_ite State.integ, apply_ite State.tap, apply_ite State.pending]; done)))
    | (dsimp only; (repeat' apply And.intro) <;> (repeat' split) <;> (first | (simp [apply_ite State.clk, apply_ite State.boot, apply_ite State.dram, apply_ite State.pads, apply_ite State.integ, apply_ite State.tap, apply_ite State.pending]; done) | (simp_all [apply_ite State.clk, apply_ite State.boot, apply_ite State.dram, apply_ite State.pads, apply_ite State.integ, apply_ite State.tap, apply_ite State.pending]; done)))
@[simp] theorem frame_execClassAgingLimit (chan die : Nat) (s : State) :
    (after (execClassAgingLimit chan die s) s).clk = s.clk ∧ (after (execClassAgingLimit chan die s) s).boot = s.boot ∧ (after (execClassAgingLimit chan die s) s).dram = s.dram ∧ (after (execClassAgingLimit chan die s) s).pads = s.pads ∧ (after (execClassAgingLimit chan die s) s).integ = s.integ ∧ (after (execClassAgingLimit chan die s) s).tap = s.tap ∧ (after (execClassAgingLimit chan die s) s).pending = s.pending := by
  unfold execClassAgingLimit
  first
    | (simp [apply_ite State.clk, apply_ite State.boot, apply_ite State.dram, apply_ite State.pads, apply_ite State.integ, apply_ite State.tap, apply_ite State.pending]; done)
    | ((repeat' split) <;> (first | (simp [apply_ite State.clk, apply_ite State.boot, apply_ite State.dram, apply_ite State.pads, apply_ite State.integ, apply_ite State.tap, apply_ite State.pending]; done) | (simp_all [apply_ite State.clk, apply_ite State.boot, apply_ite State.dram, apply_ite State.pads, apply_ite State.integ, apply_ite State.tap, apply_ite State.pending]; done)))
    | (dsimp only; (repeat' apply And.intro) <;> (repeat' split) <;> (first | (simp [apply_ite State.clk, apply_ite State.boot, apply_ite State.dram, apply_ite State.pads, apply_ite State.integ, apply_ite State.tap, apply_ite State.pending]; done) | (simp_all [apply_ite State.clk, apply_ite State.boot, apply_ite State.dram, apply_ite State.pads, apply_ite State.integ, apply_ite State.tap, apply_ite State.pending]; done)))
@[simp] theorem frame_execDieStripeCloseTimer (row : Nat) (s : State) :
    (after (execDieStripeCloseTimer row s) s).clk = s.clk ∧ (after (execDieStripeCloseTimer row s) s).boot = s.boot ∧ (after (execDieStripeCloseTimer row s) s).dram = s.dram ∧ (after (execDieStripeCloseTimer row s) s).pads = s.pads ∧ (after (execDieStripeCloseTimer row s) s).integ = s.integ ∧ (after (execDieStripeCloseTimer row s) s).tap = s.tap ∧ (after (execDieStripeCloseTimer row s) s).pending = s.pending := by
  unfold execDieStripeCloseTimer
  first
    | (simp [apply_ite State.clk, apply_ite State.boot, apply_ite State.dram, apply_ite State.pads, apply_ite State.integ, apply_ite State.tap, apply_ite State.pending]; done)
    | ((repeat' split) <;> (first | (simp [apply_ite State.clk, apply_ite State.boot, apply_ite State.dram, apply_ite State.pads, apply_ite State.integ, apply_ite State.tap, apply_ite State.pending]; done) | (simp_all [apply_ite State.clk, apply_ite State.boot, apply_ite State.dram, apply_ite State.pads, apply_ite State.integ, apply_ite State.tap, apply_ite State.pending]; done)))
    | (dsimp only; (repeat' apply And.intro) <;> (repeat' split) <;> (first | (simp [apply_ite State.clk, apply_ite State.boot, apply_ite State.dram, apply_ite State.pads, apply_ite State.integ, apply_ite State.tap, apply_ite State.pending]; done) | (simp_all [apply_ite State.clk, apply_ite State.boot, apply_ite State.dram, apply_ite State.pads, apply_ite State.integ, apply_ite State.tap, apply_ite State.pending]; done)))
@[simp] theorem frame_execFoldIdleTimer (s : State) :
    (after (execFoldIdleTimer s) s).clk = s.clk ∧ (after (execFoldIdleTimer s) s).boot = s.boot ∧ (after (execFoldIdleTimer s) s).dram = s.dram ∧ (after (execFoldIdleTimer s) s).pads = s.pads ∧ (after (execFoldIdleTimer s) s).integ = s.integ ∧ (after (execFoldIdleTimer s) s).tap = s.tap ∧ (after (execFoldIdleTimer s) s).pending = s.pending := by
  unfold execFoldIdleTimer
  first
    | (simp [apply_ite State.clk, apply_ite State.boot, apply_ite State.dram, apply_ite State.pads, apply_ite State.integ, apply_ite State.tap, apply_ite State.pending]; done)
    | ((repeat' split) <;> (first | (simp [apply_ite State.clk, apply_ite State.boot, apply_ite State.dram, apply_ite State.pads, apply_ite State.integ, apply_ite State.tap, apply_ite State.pending]; done) | (simp_all [apply_ite State.clk, apply_ite State.boot, apply_ite State.dram, apply_ite State.pads, apply_ite State.integ, apply_ite State.tap, apply_ite State.pending]; done)))
    | (dsimp only; (repeat' apply And.intro) <;> (repeat' split) <;> (first | (simp [apply_ite State.clk, apply_ite State.boot, apply_ite State.dram, apply_ite State.pads, apply_ite State.integ, apply_ite State.tap, apply_ite State.pending]; done) | (simp_all [apply_ite State.clk, apply_ite State.boot, apply_ite State.dram, apply_ite State.pads, apply_ite State.integ, apply_ite State.tap, apply_ite State.pending]; done)))
@[simp] theorem frame_execFold (s : State) :
    (after (execFold s) s).clk = s.clk ∧ (after (execFold s) s).boot = s.boot ∧ (after (execFold s) s).dram = s.dram ∧ (after (execFold s) s).pads = s.pads ∧ (after (execFold s) s).integ = s.integ ∧ (after (execFold s) s).tap = s.tap ∧ (after (execFold s) s).pending = s.pending := by
  unfold execFold
  first
    | (simp [apply_ite State.clk, apply_ite State.boot, apply_ite State.dram, apply_ite State.pads, apply_ite State.integ, apply_ite State.tap, apply_ite State.pending]; done)
    | ((repeat' split) <;> (first | (simp [apply_ite State.clk, apply_ite State.boot, apply_ite State.dram, apply_ite State.pads, apply_ite State.integ, apply_ite State.tap, apply_ite State.pending]; done) | (simp_all [apply_ite State.clk, apply_ite State.boot, apply_ite State.dram, apply_ite State.pads, apply_ite State.integ, apply_ite State.tap, apply_ite State.pending]; done)))
    | (dsimp only; (repeat' apply And.intro) <;> (repeat' split) <;> (first | (simp [apply_ite State.clk, apply_ite State.boot, apply_ite State.dram, apply_ite State.pads, apply_ite State.integ, apply_ite State.tap, apply_ite State.pending]; done) | (simp_all [apply_ite State.clk, apply_ite State.boot, apply_ite State.dram, apply_ite State.pads, apply_ite State.integ, apply_ite State.tap, apply_ite State.pending]; done)))
@[simp] theorem frame_execGarbageCollect (s : State) :
    (after (execGarbageCollect s) s).clk = s.clk ∧ (after (execGarbageCollect s) s).boot = s.boot ∧ (after (execGarbageCollect s) s).dram = s.dram ∧ (after (execGarbageCollect s) s).pads = s.pads ∧ (after (execGarbageCollect s) s).integ = s.integ ∧ (after (execGarbageCollect s) s).tap = s.tap ∧ (after (execGarbageCollect s) s).pending = s.pending := by
  unfold execGarbageCollect
  first
    | (simp [apply_ite State.clk, apply_ite State.boot, apply_ite State.dram, apply_ite State.pads, apply_ite State.integ, apply_ite State.tap, apply_ite State.pending]; done)
    | ((repeat' split) <;> (first | (simp [apply_ite State.clk, apply_ite State.boot, apply_ite State.dram, apply_ite State.pads, apply_ite State.integ, apply_ite State.tap, apply_ite State.pending]; done) | (simp_all [apply_ite State.clk, apply_ite State.boot, apply_ite State.dram, apply_ite State.pads, apply_ite State.integ, apply_ite State.tap, apply_ite State.pending]; done)))
    | (dsimp only; (repeat' apply And.intro) <;> (repeat' split) <;> (first | (simp [apply_ite State.clk, apply_ite State.boot, apply_ite State.dram, apply_ite State.pads, apply_ite State.integ, apply_ite State.tap, apply_ite State.pending]; done) | (simp_all [apply_ite State.clk, apply_ite State.boot, apply_ite State.dram, apply_ite State.pads, apply_ite State.integ, apply_ite State.tap, apply_ite State.pending]; done)))
@[simp] theorem frame_execStaticMove (s : State) :
    (after (execStaticMove s) s).clk = s.clk ∧ (after (execStaticMove s) s).boot = s.boot ∧ (after (execStaticMove s) s).dram = s.dram ∧ (after (execStaticMove s) s).pads = s.pads ∧ (after (execStaticMove s) s).integ = s.integ ∧ (after (execStaticMove s) s).tap = s.tap ∧ (after (execStaticMove s) s).pending = s.pending := by
  unfold execStaticMove
  first
    | (simp [apply_ite State.clk, apply_ite State.boot, apply_ite State.dram, apply_ite State.pads, apply_ite State.integ, apply_ite State.tap, apply_ite State.pending]; done)
    | ((repeat' split) <;> (first | (simp [apply_ite State.clk, apply_ite State.boot, apply_ite State.dram, apply_ite State.pads, apply_ite State.integ, apply_ite State.tap, apply_ite State.pending]; done) | (simp_all [apply_ite State.clk, apply_ite State.boot, apply_ite State.dram, apply_ite State.pads, apply_ite State.integ, apply_ite State.tap, apply_ite State.pending]; done)))
    | (dsimp only; (repeat' apply And.intro) <;> (repeat' split) <;> (first | (simp [apply_ite State.clk, apply_ite State.boot, apply_ite State.dram, apply_ite State.pads, apply_ite State.integ, apply_ite State.tap, apply_ite State.pending]; done) | (simp_all [apply_ite State.clk, apply_ite State.boot, apply_ite State.dram, apply_ite State.pads, apply_ite State.integ, apply_ite State.tap, apply_ite State.pending]; done)))
@[simp] theorem frame_execRefreshRelocation (row : Nat) (s : State) :
    (after (execRefreshRelocation row s) s).clk = s.clk ∧ (after (execRefreshRelocation row s) s).boot = s.boot ∧ (after (execRefreshRelocation row s) s).dram = s.dram ∧ (after (execRefreshRelocation row s) s).pads = s.pads ∧ (after (execRefreshRelocation row s) s).integ = s.integ ∧ (after (execRefreshRelocation row s) s).tap = s.tap ∧ (after (execRefreshRelocation row s) s).pending = s.pending := by
  unfold execRefreshRelocation
  first
    | (simp [apply_ite State.clk, apply_ite State.boot, apply_ite State.dram, apply_ite State.pads, apply_ite State.integ, apply_ite State.tap, apply_ite State.pending]; done)
    | ((repeat' split) <;> (first | (simp [apply_ite State.clk, apply_ite State.boot, apply_ite State.dram, apply_ite State.pads, apply_ite State.integ, apply_ite State.tap, apply_ite State.pending]; done) | (simp_all [apply_ite State.clk, apply_ite State.boot, apply_ite State.dram, apply_ite State.pads, apply_ite State.integ, apply_ite State.tap, apply_ite State.pending]; done)))
    | (dsimp only; (repeat' apply And.intro) <;> (repeat' split) <;> (first | (simp [apply_ite State.clk, apply_ite State.boot, apply_ite State.dram, apply_ite State.pads, apply_ite State.integ, apply_ite State.tap, apply_ite State.pending]; done) | (simp_all [apply_ite State.clk, apply_ite State.boot, apply_ite State.dram, apply_ite State.pads, apply_ite State.integ, apply_ite State.tap, apply_ite State.pending]; done)))
@[simp] theorem frame_execDieRebuild (chan : Nat) (die : Option Nat) (s : State) :
    (after (execDieRebuild chan die s) s).clk = s.clk ∧ (after (execDieRebuild chan die s) s).boot = s.boot ∧ (after (execDieRebuild chan die s) s).dram = s.dram ∧ (after (execDieRebuild chan die s) s).pads = s.pads ∧ (after (execDieRebuild chan die s) s).integ = s.integ ∧ (after (execDieRebuild chan die s) s).tap = s.tap ∧ (after (execDieRebuild chan die s) s).pending = s.pending := by
  unfold execDieRebuild
  first
    | (simp [apply_ite State.clk, apply_ite State.boot, apply_ite State.dram, apply_ite State.pads, apply_ite State.integ, apply_ite State.tap, apply_ite State.pending]; done)
    | ((repeat' split) <;> (first | (simp [apply_ite State.clk, apply_ite State.boot, apply_ite State.dram, apply_ite State.pads, apply_ite State.integ, apply_ite State.tap, apply_ite State.pending]; done) | (simp_all [apply_ite State.clk, apply_ite State.boot, apply_ite State.dram, apply_ite State.pads, apply_ite State.integ, apply_ite State.tap, apply_ite State.pending]; done)))
    | (dsimp only; (repeat' apply And.intro) <;> (repeat' split) <;> (first | (simp [apply_ite State.clk, apply_ite State.boot, apply_ite State.dram, apply_ite State.pads, apply_ite State.integ, apply_ite State.tap, apply_ite State.pending]; done) | (simp_all [apply_ite State.clk, apply_ite State.boot, apply_ite State.dram, apply_ite State.pads, apply_ite State.integ, apply_ite State.tap, apply_ite State.pending]; done)))
@[simp] theorem frame_execLastTideAreaRotate (s : State) :
    (after (execLastTideAreaRotate s) s).clk = s.clk ∧ (after (execLastTideAreaRotate s) s).boot = s.boot ∧ (after (execLastTideAreaRotate s) s).dram = s.dram ∧ (after (execLastTideAreaRotate s) s).pads = s.pads ∧ (after (execLastTideAreaRotate s) s).integ = s.integ ∧ (after (execLastTideAreaRotate s) s).tap = s.tap ∧ (after (execLastTideAreaRotate s) s).pending = s.pending := by
  unfold execLastTideAreaRotate
  first
    | (simp [apply_ite State.clk, apply_ite State.boot, apply_ite State.dram, apply_ite State.pads, apply_ite State.integ, apply_ite State.tap, apply_ite State.pending]; done)
    | ((repeat' split) <;> (first | (simp [apply_ite State.clk, apply_ite State.boot, apply_ite State.dram, apply_ite State.pads, apply_ite State.integ, apply_ite State.tap, apply_ite State.pending]; done) | (simp_all [apply_ite State.clk, apply_ite State.boot, apply_ite State.dram, apply_ite State.pads, apply_ite State.integ, apply_ite State.tap, apply_ite State.pending]; done)))
    | (dsimp only; (repeat' apply And.intro) <;> (repeat' split) <;> (first | (simp [apply_ite State.clk, apply_ite State.boot, apply_ite State.dram, apply_ite State.pads, apply_ite State.integ, apply_ite State.tap, apply_ite State.pending]; done) | (simp_all [apply_ite State.clk, apply_ite State.boot, apply_ite State.dram, apply_ite State.pads, apply_ite State.integ, apply_ite State.tap, apply_ite State.pending]; done)))
@[simp] theorem frame_execMapFaultIn (pool seg : Nat) (s : State) :
    (after (execMapFaultIn pool seg s) s).clk = s.clk ∧ (after (execMapFaultIn pool seg s) s).boot = s.boot ∧ (after (execMapFaultIn pool seg s) s).dram = s.dram ∧ (after (execMapFaultIn pool seg s) s).pads = s.pads ∧ (after (execMapFaultIn pool seg s) s).integ = s.integ ∧ (after (execMapFaultIn pool seg s) s).tap = s.tap ∧ (after (execMapFaultIn pool seg s) s).pending = s.pending := by
  unfold execMapFaultIn
  first
    | (simp [apply_ite State.clk, apply_ite State.boot, apply_ite State.dram, apply_ite State.pads, apply_ite State.integ, apply_ite State.tap, apply_ite State.pending]; done)
    | ((repeat' split) <;> (first | (simp [apply_ite State.clk, apply_ite State.boot, apply_ite State.dram, apply_ite State.pads, apply_ite State.integ, apply_ite State.tap, apply_ite State.pending]; done) | (simp_all [apply_ite State.clk, apply_ite State.boot, apply_ite State.dram, apply_ite State.pads, apply_ite State.integ, apply_ite State.tap, apply_ite State.pending]; done)))
    | (dsimp only; (repeat' apply And.intro) <;> (repeat' split) <;> (first | (simp [apply_ite State.clk, apply_ite State.boot, apply_ite State.dram, apply_ite State.pads, apply_ite State.integ, apply_ite State.tap, apply_ite State.pending]; done) | (simp_all [apply_ite State.clk, apply_ite State.boot, apply_ite State.dram, apply_ite State.pads, apply_ite State.integ, apply_ite State.tap, apply_ite State.pending]; done)))
@[simp] theorem frame_execMapBackgroundLoad (s : State) :
    (after (execMapBackgroundLoad s) s).clk = s.clk ∧ (after (execMapBackgroundLoad s) s).dram = s.dram ∧ (after (execMapBackgroundLoad s) s).pads = s.pads ∧ (after (execMapBackgroundLoad s) s).integ = s.integ ∧ (after (execMapBackgroundLoad s) s).tap = s.tap ∧ (after (execMapBackgroundLoad s) s).pending = s.pending := by
  unfold execMapBackgroundLoad
  first
    | (simp [apply_ite State.clk, apply_ite State.dram, apply_ite State.pads, apply_ite State.integ, apply_ite State.tap, apply_ite State.pending]; done)
    | ((repeat' split) <;> (first | (simp [apply_ite State.clk, apply_ite State.dram, apply_ite State.pads, apply_ite State.integ, apply_ite State.tap, apply_ite State.pending]; done) | (simp_all [apply_ite State.clk, apply_ite State.dram, apply_ite State.pads, apply_ite State.integ, apply_ite State.tap, apply_ite State.pending]; done)))
    | (dsimp only; (repeat' apply And.intro) <;> (repeat' split) <;> (first | (simp [apply_ite State.clk, apply_ite State.dram, apply_ite State.pads, apply_ite State.integ, apply_ite State.tap, apply_ite State.pending]; done) | (simp_all [apply_ite State.clk, apply_ite State.dram, apply_ite State.pads, apply_ite State.integ, apply_ite State.tap, apply_ite State.pending]; done)))
@[simp] theorem frame_execEngineFault (k : Engine) (n : Nat) (s : State) :
    (after (execEngineFault k n s) s).clk = s.clk ∧ (after (execEngineFault k n s) s).boot = s.boot ∧ (after (execEngineFault k n s) s).dram = s.dram ∧ (after (execEngineFault k n s) s).pads = s.pads ∧ (after (execEngineFault k n s) s).integ = s.integ ∧ (after (execEngineFault k n s) s).tap = s.tap ∧ (after (execEngineFault k n s) s).pending = s.pending := by
  unfold execEngineFault
  first
    | (simp [apply_ite State.clk, apply_ite State.boot, apply_ite State.dram, apply_ite State.pads, apply_ite State.integ, apply_ite State.tap, apply_ite State.pending]; done)
    | ((repeat' split) <;> (first | (simp [apply_ite State.clk, apply_ite State.boot, apply_ite State.dram, apply_ite State.pads, apply_ite State.integ, apply_ite State.tap, apply_ite State.pending]; done) | (simp_all [apply_ite State.clk, apply_ite State.boot, apply_ite State.dram, apply_ite State.pads, apply_ite State.integ, apply_ite State.tap, apply_ite State.pending]; done)))
    | (dsimp only; (repeat' apply And.intro) <;> (repeat' split) <;> (first | (simp [apply_ite State.clk, apply_ite State.boot, apply_ite State.dram, apply_ite State.pads, apply_ite State.integ, apply_ite State.tap, apply_ite State.pending]; done) | (simp_all [apply_ite State.clk, apply_ite State.boot, apply_ite State.dram, apply_ite State.pads, apply_ite State.integ, apply_ite State.tap, apply_ite State.pending]; done)))
@[simp] theorem frame_execEngineKnownAnswerTest (n : Fin 8) (good : Bool) (s : State) :
    (after (execEngineKnownAnswerTest n good s) s).clk = s.clk ∧ (after (execEngineKnownAnswerTest n good s) s).boot = s.boot ∧ (after (execEngineKnownAnswerTest n good s) s).dram = s.dram ∧ (after (execEngineKnownAnswerTest n good s) s).pads = s.pads ∧ (after (execEngineKnownAnswerTest n good s) s).integ = s.integ ∧ (after (execEngineKnownAnswerTest n good s) s).tap = s.tap ∧ (after (execEngineKnownAnswerTest n good s) s).pending = s.pending := by
  unfold execEngineKnownAnswerTest
  first
    | (simp [apply_ite State.clk, apply_ite State.boot, apply_ite State.dram, apply_ite State.pads, apply_ite State.integ, apply_ite State.tap, apply_ite State.pending]; done)
    | ((repeat' split) <;> (first | (simp [apply_ite State.clk, apply_ite State.boot, apply_ite State.dram, apply_ite State.pads, apply_ite State.integ, apply_ite State.tap, apply_ite State.pending]; done) | (simp_all [apply_ite State.clk, apply_ite State.boot, apply_ite State.dram, apply_ite State.pads, apply_ite State.integ, apply_ite State.tap, apply_ite State.pending]; done)))
    | (dsimp only; (repeat' apply And.intro) <;> (repeat' split) <;> (first | (simp [apply_ite State.clk, apply_ite State.boot, apply_ite State.dram, apply_ite State.pads, apply_ite State.integ, apply_ite State.tap, apply_ite State.pending]; done) | (simp_all [apply_ite State.clk, apply_ite State.boot, apply_ite State.dram, apply_ite State.pads, apply_ite State.integ, apply_ite State.tap, apply_ite State.pending]; done)))
@[simp] theorem frame_execEncoderCheckFail (encoder : Fin 20) (s : State) :
    (after (execEncoderCheckFail encoder s) s).clk = s.clk ∧ (after (execEncoderCheckFail encoder s) s).boot = s.boot ∧ (after (execEncoderCheckFail encoder s) s).dram = s.dram ∧ (after (execEncoderCheckFail encoder s) s).pads = s.pads ∧ (after (execEncoderCheckFail encoder s) s).integ = s.integ ∧ (after (execEncoderCheckFail encoder s) s).tap = s.tap ∧ (after (execEncoderCheckFail encoder s) s).pending = s.pending := by
  unfold execEncoderCheckFail
  first
    | (simp [apply_ite State.clk, apply_ite State.boot, apply_ite State.dram, apply_ite State.pads, apply_ite State.integ, apply_ite State.tap, apply_ite State.pending]; done)
    | ((repeat' split) <;> (first | (simp [apply_ite State.clk, apply_ite State.boot, apply_ite State.dram, apply_ite State.pads, apply_ite State.integ, apply_ite State.tap, apply_ite State.pending]; done) | (simp_all [apply_ite State.clk, apply_ite State.boot, apply_ite State.dram, apply_ite State.pads, apply_ite State.integ, apply_ite State.tap, apply_ite State.pending]; done)))
    | (dsimp only; (repeat' apply And.intro) <;> (repeat' split) <;> (first | (simp [apply_ite State.clk, apply_ite State.boot, apply_ite State.dram, apply_ite State.pads, apply_ite State.integ, apply_ite State.tap, apply_ite State.pending]; done) | (simp_all [apply_ite State.clk, apply_ite State.boot, apply_ite State.dram, apply_ite State.pads, apply_ite State.integ, apply_ite State.tap, apply_ite State.pending]; done)))
@[simp] theorem frame_execEntropyWindow (good : Bool) (s : State) :
    (after (execEntropyWindow good s) s).clk = s.clk ∧ (after (execEntropyWindow good s) s).boot = s.boot ∧ (after (execEntropyWindow good s) s).dram = s.dram ∧ (after (execEntropyWindow good s) s).pads = s.pads ∧ (after (execEntropyWindow good s) s).integ = s.integ ∧ (after (execEntropyWindow good s) s).tap = s.tap ∧ (after (execEntropyWindow good s) s).pending = s.pending := by
  unfold execEntropyWindow
  first
    | (simp [apply_ite State.clk, apply_ite State.boot, apply_ite State.dram, apply_ite State.pads, apply_ite State.integ, apply_ite State.tap, apply_ite State.pending]; done)
    | ((repeat' split) <;> (first | (simp [apply_ite State.clk, apply_ite State.boot, apply_ite State.dram, apply_ite State.pads, apply_ite State.integ, apply_ite State.tap, apply_ite State.pending]; done) | (simp_all [apply_ite State.clk, apply_ite State.boot, apply_ite State.dram, apply_ite State.pads, apply_ite State.integ, apply_ite State.tap, apply_ite State.pending]; done)))
    | (dsimp only; (repeat' apply And.intro) <;> (repeat' split) <;> (first | (simp [apply_ite State.clk, apply_ite State.boot, apply_ite State.dram, apply_ite State.pads, apply_ite State.integ, apply_ite State.tap, apply_ite State.pending]; done) | (simp_all [apply_ite State.clk, apply_ite State.boot, apply_ite State.dram, apply_ite State.pads, apply_ite State.integ, apply_ite State.tap, apply_ite State.pending]; done)))
@[simp] theorem frame_execDrbgReseedTimer (s : State) :
    (after (execDrbgReseedTimer s) s).clk = s.clk ∧ (after (execDrbgReseedTimer s) s).boot = s.boot ∧ (after (execDrbgReseedTimer s) s).dram = s.dram ∧ (after (execDrbgReseedTimer s) s).pads = s.pads ∧ (after (execDrbgReseedTimer s) s).integ = s.integ ∧ (after (execDrbgReseedTimer s) s).tap = s.tap ∧ (after (execDrbgReseedTimer s) s).pending = s.pending := by
  unfold execDrbgReseedTimer
  first
    | (simp [apply_ite State.clk, apply_ite State.boot, apply_ite State.dram, apply_ite State.pads, apply_ite State.integ, apply_ite State.tap, apply_ite State.pending]; done)
    | ((repeat' split) <;> (first | (simp [apply_ite State.clk, apply_ite State.boot, apply_ite State.dram, apply_ite State.pads, apply_ite State.integ, apply_ite State.tap, apply_ite State.pending]; done) | (simp_all [apply_ite State.clk, apply_ite State.boot, apply_ite State.dram, apply_ite State.pads, apply_ite State.integ, apply_ite State.tap, apply_ite State.pending]; done)))
    | (dsimp only; (repeat' apply And.intro) <;> (repeat' split) <;> (first | (simp [apply_ite State.clk, apply_ite State.boot, apply_ite State.dram, apply_ite State.pads, apply_ite State.integ, apply_ite State.tap, apply_ite State.pending]; done) | (simp_all [apply_ite State.clk, apply_ite State.boot, apply_ite State.dram, apply_ite State.pads, apply_ite State.integ, apply_ite State.tap, apply_ite State.pending]; done)))
@[simp] theorem frame_execLaneRekey (lane : Fin 20) (good : Bool) (s : State) :
    (after (execLaneRekey lane good s) s).clk = s.clk ∧ (after (execLaneRekey lane good s) s).boot = s.boot ∧ (after (execLaneRekey lane good s) s).dram = s.dram ∧ (after (execLaneRekey lane good s) s).pads = s.pads ∧ (after (execLaneRekey lane good s) s).integ = s.integ ∧ (after (execLaneRekey lane good s) s).tap = s.tap ∧ (after (execLaneRekey lane good s) s).pending = s.pending := by
  unfold execLaneRekey
  first
    | (simp [apply_ite State.clk, apply_ite State.boot, apply_ite State.dram, apply_ite State.pads, apply_ite State.integ, apply_ite State.tap, apply_ite State.pending]; done)
    | ((repeat' split) <;> (first | (simp [apply_ite State.clk, apply_ite State.boot, apply_ite State.dram, apply_ite State.pads, apply_ite State.integ, apply_ite State.tap, apply_ite State.pending]; done) | (simp_all [apply_ite State.clk, apply_ite State.boot, apply_ite State.dram, apply_ite State.pads, apply_ite State.integ, apply_ite State.tap, apply_ite State.pending]; done)))
    | (dsimp only; (repeat' apply And.intro) <;> (repeat' split) <;> (first | (simp [apply_ite State.clk, apply_ite State.boot, apply_ite State.dram, apply_ite State.pads, apply_ite State.integ, apply_ite State.tap, apply_ite State.pending]; done) | (simp_all [apply_ite State.clk, apply_ite State.boot, apply_ite State.dram, apply_ite State.pads, apply_ite State.integ, apply_ite State.tap, apply_ite State.pending]; done)))
@[simp] theorem frame_execFirmwareRunning (s : State) :
    (after (execFirmwareRunning s) s).clk = s.clk ∧ (after (execFirmwareRunning s) s).pads = s.pads ∧ (after (execFirmwareRunning s) s).integ = s.integ ∧ (after (execFirmwareRunning s) s).tap = s.tap ∧ (after (execFirmwareRunning s) s).pending = s.pending := by
  unfold execFirmwareRunning
  first
    | (simp [apply_ite State.clk, apply_ite State.pads, apply_ite State.integ, apply_ite State.tap, apply_ite State.pending]; done)
    | ((repeat' split) <;> (first | (simp [apply_ite State.clk, apply_ite State.pads, apply_ite State.integ, apply_ite State.tap, apply_ite State.pending]; done) | (simp_all [apply_ite State.clk, apply_ite State.pads, apply_ite State.integ, apply_ite State.tap, apply_ite State.pending]; done)))
    | (dsimp only; (repeat' apply And.intro) <;> (repeat' split) <;> (first | (simp [apply_ite State.clk, apply_ite State.pads, apply_ite State.integ, apply_ite State.tap, apply_ite State.pending]; done) | (simp_all [apply_ite State.clk, apply_ite State.pads, apply_ite State.integ, apply_ite State.tap, apply_ite State.pending]; done)))
@[simp] theorem frame_execReady (s : State) :
    (after (execReady s) s).clk = s.clk ∧ (after (execReady s) s).dram = s.dram ∧ (after (execReady s) s).pads = s.pads ∧ (after (execReady s) s).tap = s.tap ∧ (after (execReady s) s).pending = s.pending := by
  unfold execReady
  first
    | (simp [apply_ite State.clk, apply_ite State.dram, apply_ite State.pads, apply_ite State.tap, apply_ite State.pending]; done)
    | ((repeat' split) <;> (first | (simp [apply_ite State.clk, apply_ite State.dram, apply_ite State.pads, apply_ite State.tap, apply_ite State.pending]; done) | (simp_all [apply_ite State.clk, apply_ite State.dram, apply_ite State.pads, apply_ite State.tap, apply_ite State.pending]; done)))
    | (dsimp only; (repeat' apply And.intro) <;> (repeat' split) <;> (first | (simp [apply_ite State.clk, apply_ite State.dram, apply_ite State.pads, apply_ite State.tap, apply_ite State.pending]; done) | (simp_all [apply_ite State.clk, apply_ite State.dram, apply_ite State.pads, apply_ite State.tap, apply_ite State.pending]; done)))
@[simp] theorem frame_execSecureDiscardJob (job : Nat) (s : State) :
    (after (execSecureDiscardJob job s) s).clk = s.clk ∧ (after (execSecureDiscardJob job s) s).boot = s.boot ∧ (after (execSecureDiscardJob job s) s).dram = s.dram ∧ (after (execSecureDiscardJob job s) s).pads = s.pads ∧ (after (execSecureDiscardJob job s) s).integ = s.integ ∧ (after (execSecureDiscardJob job s) s).tap = s.tap ∧ (after (execSecureDiscardJob job s) s).pending = s.pending := by
  unfold execSecureDiscardJob
  first
    | (simp [apply_ite State.clk, apply_ite State.boot, apply_ite State.dram, apply_ite State.pads, apply_ite State.integ, apply_ite State.tap, apply_ite State.pending]; done)
    | ((repeat' split) <;> (first | (simp [apply_ite State.clk, apply_ite State.boot, apply_ite State.dram, apply_ite State.pads, apply_ite State.integ, apply_ite State.tap, apply_ite State.pending]; done) | (simp_all [apply_ite State.clk, apply_ite State.boot, apply_ite State.dram, apply_ite State.pads, apply_ite State.integ, apply_ite State.tap, apply_ite State.pending]; done)))
    | (dsimp only; (repeat' apply And.intro) <;> (repeat' split) <;> (first | (simp [apply_ite State.clk, apply_ite State.boot, apply_ite State.dram, apply_ite State.pads, apply_ite State.integ, apply_ite State.tap, apply_ite State.pending]; done) | (simp_all [apply_ite State.clk, apply_ite State.boot, apply_ite State.dram, apply_ite State.pads, apply_ite State.integ, apply_ite State.tap, apply_ite State.pending]; done)))
@[simp] theorem frame_execDramCorrectedRead (ch : DramCh) (rank component burst : Nat) (diagnostic : Bool) (s : State) :
    (after (execDramCorrectedRead ch rank component burst diagnostic s) s).clk = s.clk ∧ (after (execDramCorrectedRead ch rank component burst diagnostic s) s).boot = s.boot ∧ (after (execDramCorrectedRead ch rank component burst diagnostic s) s).pads = s.pads ∧ (after (execDramCorrectedRead ch rank component burst diagnostic s) s).tap = s.tap ∧ (after (execDramCorrectedRead ch rank component burst diagnostic s) s).pending = s.pending := by
  unfold execDramCorrectedRead
  first
    | (simp [apply_ite State.clk, apply_ite State.boot, apply_ite State.pads, apply_ite State.tap, apply_ite State.pending]; done)
    | ((repeat' split) <;> (first | (simp [apply_ite State.clk, apply_ite State.boot, apply_ite State.pads, apply_ite State.tap, apply_ite State.pending]; done) | (simp_all [apply_ite State.clk, apply_ite State.boot, apply_ite State.pads, apply_ite State.tap, apply_ite State.pending]; done)))
    | (dsimp only; (repeat' apply And.intro) <;> (repeat' split) <;> (first | (simp [apply_ite State.clk, apply_ite State.boot, apply_ite State.pads, apply_ite State.tap, apply_ite State.pending]; done) | (simp_all [apply_ite State.clk, apply_ite State.boot, apply_ite State.pads, apply_ite State.tap, apply_ite State.pending]; done)))
@[simp] theorem frame_execDramUncorrectableRead (ch : DramCh) (region : DramRegion) (s : State) :
    (after (execDramUncorrectableRead ch region s) s).clk = s.clk ∧ (after (execDramUncorrectableRead ch region s) s).pads = s.pads ∧ (after (execDramUncorrectableRead ch region s) s).tap = s.tap ∧ (after (execDramUncorrectableRead ch region s) s).pending = s.pending := by
  unfold execDramUncorrectableRead
  first
    | (simp [apply_ite State.clk, apply_ite State.pads, apply_ite State.tap, apply_ite State.pending]; done)
    | ((repeat' split) <;> (first | (simp [apply_ite State.clk, apply_ite State.pads, apply_ite State.tap, apply_ite State.pending]; done) | (simp_all [apply_ite State.clk, apply_ite State.pads, apply_ite State.tap, apply_ite State.pending]; done)))
    | (dsimp only; (repeat' apply And.intro) <;> (repeat' split) <;> (first | (simp [apply_ite State.clk, apply_ite State.pads, apply_ite State.tap, apply_ite State.pending]; done) | (simp_all [apply_ite State.clk, apply_ite State.pads, apply_ite State.tap, apply_ite State.pending]; done)))
@[simp] theorem frame_execDramPatrol (ch : DramCh) (rank : Nat) (component : Option Nat) (intervened : Bool) (s : State) :
    (after (execDramPatrol ch rank component intervened s) s).clk = s.clk ∧ (after (execDramPatrol ch rank component intervened s) s).pads = s.pads ∧ (after (execDramPatrol ch rank component intervened s) s).tap = s.tap ∧ (after (execDramPatrol ch rank component intervened s) s).pending = s.pending := by
  unfold execDramPatrol
  first
    | (simp [apply_ite State.clk, apply_ite State.pads, apply_ite State.tap, apply_ite State.pending]; done)
    | ((repeat' split) <;> (first | (simp [apply_ite State.clk, apply_ite State.pads, apply_ite State.tap, apply_ite State.pending]; done) | (simp_all [apply_ite State.clk, apply_ite State.pads, apply_ite State.tap, apply_ite State.pending]; done)))
    | (dsimp only; (repeat' apply And.intro) <;> (repeat' split) <;> (first | (simp [apply_ite State.clk, apply_ite State.pads, apply_ite State.tap, apply_ite State.pending]; done) | (simp_all [apply_ite State.clk, apply_ite State.pads, apply_ite State.tap, apply_ite State.pending]; done)))
@[simp] theorem frame_execDramRefreshDue (ch : DramCh) (rank bank : Nat) (burst : Option Nat) (s : State) :
    (after (execDramRefreshDue ch rank bank burst s) s).clk = s.clk ∧ (after (execDramRefreshDue ch rank bank burst s) s).boot = s.boot ∧ (after (execDramRefreshDue ch rank bank burst s) s).pads = s.pads ∧ (after (execDramRefreshDue ch rank bank burst s) s).integ = s.integ ∧ (after (execDramRefreshDue ch rank bank burst s) s).tap = s.tap ∧ (after (execDramRefreshDue ch rank bank burst s) s).pending = s.pending := by
  unfold execDramRefreshDue
  first
    | (simp [apply_ite State.clk, apply_ite State.boot, apply_ite State.pads, apply_ite State.integ, apply_ite State.tap, apply_ite State.pending]; done)
    | ((repeat' split) <;> (first | (simp [apply_ite State.clk, apply_ite State.boot, apply_ite State.pads, apply_ite State.integ, apply_ite State.tap, apply_ite State.pending]; done) | (simp_all [apply_ite State.clk, apply_ite State.boot, apply_ite State.pads, apply_ite State.integ, apply_ite State.tap, apply_ite State.pending]; done)))
    | (dsimp only; (repeat' apply And.intro) <;> (repeat' split) <;> (first | (simp [apply_ite State.clk, apply_ite State.boot, apply_ite State.pads, apply_ite State.integ, apply_ite State.tap, apply_ite State.pending]; done) | (simp_all [apply_ite State.clk, apply_ite State.boot, apply_ite State.pads, apply_ite State.integ, apply_ite State.tap, apply_ite State.pending]; done)))
@[simp] theorem frame_execDramTemperatureRead (ch : DramCh) (rank : Nat) (hot : Bool) (s : State) :
    (after (execDramTemperatureRead ch rank hot s) s).clk = s.clk ∧ (after (execDramTemperatureRead ch rank hot s) s).boot = s.boot ∧ (after (execDramTemperatureRead ch rank hot s) s).pads = s.pads ∧ (after (execDramTemperatureRead ch rank hot s) s).integ = s.integ ∧ (after (execDramTemperatureRead ch rank hot s) s).tap = s.tap ∧ (after (execDramTemperatureRead ch rank hot s) s).pending = s.pending := by
  unfold execDramTemperatureRead
  first
    | (simp [apply_ite State.clk, apply_ite State.boot, apply_ite State.pads, apply_ite State.integ, apply_ite State.tap, apply_ite State.pending]; done)
    | ((repeat' split) <;> (first | (simp [apply_ite State.clk, apply_ite State.boot, apply_ite State.pads, apply_ite State.integ, apply_ite State.tap, apply_ite State.pending]; done) | (simp_all [apply_ite State.clk, apply_ite State.boot, apply_ite State.pads, apply_ite State.integ, apply_ite State.tap, apply_ite State.pending]; done)))
    | (dsimp only; (repeat' apply And.intro) <;> (repeat' split) <;> (first | (simp [apply_ite State.clk, apply_ite State.boot, apply_ite State.pads, apply_ite State.integ, apply_ite State.tap, apply_ite State.pending]; done) | (simp_all [apply_ite State.clk, apply_ite State.boot, apply_ite State.pads, apply_ite State.integ, apply_ite State.tap, apply_ite State.pending]; done)))
@[simp] theorem frame_execDramPageIdleClose (ch : DramCh) (rank bank : Nat) (s : State) :
    (after (execDramPageIdleClose ch rank bank s) s).clk = s.clk ∧ (after (execDramPageIdleClose ch rank bank s) s).boot = s.boot ∧ (after (execDramPageIdleClose ch rank bank s) s).pads = s.pads ∧ (after (execDramPageIdleClose ch rank bank s) s).integ = s.integ ∧ (after (execDramPageIdleClose ch rank bank s) s).tap = s.tap ∧ (after (execDramPageIdleClose ch rank bank s) s).pending = s.pending := by
  unfold execDramPageIdleClose
  first
    | (simp [apply_ite State.clk, apply_ite State.boot, apply_ite State.pads, apply_ite State.integ, apply_ite State.tap, apply_ite State.pending]; done)
    | ((repeat' split) <;> (first | (simp [apply_ite State.clk, apply_ite State.boot, apply_ite State.pads, apply_ite State.integ, apply_ite State.tap, apply_ite State.pending]; done) | (simp_all [apply_ite State.clk, apply_ite State.boot, apply_ite State.pads, apply_ite State.integ, apply_ite State.tap, apply_ite State.pending]; done)))
    | (dsimp only; (repeat' apply And.intro) <;> (repeat' split) <;> (first | (simp [apply_ite State.clk, apply_ite State.boot, apply_ite State.pads, apply_ite State.integ, apply_ite State.tap, apply_ite State.pending]; done) | (simp_all [apply_ite State.clk, apply_ite State.boot, apply_ite State.pads, apply_ite State.integ, apply_ite State.tap, apply_ite State.pending]; done)))
@[simp] theorem frame_execDramChannelTrained (ch : DramCh) (spd : Option Spd) (sweeps : List DramSweep) (s : State) :
    (after (execDramChannelTrained ch spd sweeps s) s).clk = s.clk ∧ (after (execDramChannelTrained ch spd sweeps s) s).pads = s.pads ∧ (after (execDramChannelTrained ch spd sweeps s) s).integ = s.integ ∧ (after (execDramChannelTrained ch spd sweeps s) s).tap = s.tap ∧ (after (execDramChannelTrained ch spd sweeps s) s).pending = s.pending := by
  unfold execDramChannelTrained
  first
    | (simp [apply_ite State.clk, apply_ite State.pads, apply_ite State.integ, apply_ite State.tap, apply_ite State.pending]; done)
    | ((repeat' split) <;> (first | (simp [apply_ite State.clk, apply_ite State.pads, apply_ite State.integ, apply_ite State.tap, apply_ite State.pending]; done) | (simp_all [apply_ite State.clk, apply_ite State.pads, apply_ite State.integ, apply_ite State.tap, apply_ite State.pending]; done)))
    | (dsimp only; (repeat' apply And.intro) <;> (repeat' split) <;> (first | (simp [apply_ite State.clk, apply_ite State.pads, apply_ite State.integ, apply_ite State.tap, apply_ite State.pending]; done) | (simp_all [apply_ite State.clk, apply_ite State.pads, apply_ite State.integ, apply_ite State.tap, apply_ite State.pending]; done)))
@[simp] theorem frame_execDramOscillatorRead (ch : DramCh) (drift64 : Nat) (retrain : DramSweep) (s : State) :
    (after (execDramOscillatorRead ch drift64 retrain s) s).clk = s.clk ∧ (after (execDramOscillatorRead ch drift64 retrain s) s).boot = s.boot ∧ (after (execDramOscillatorRead ch drift64 retrain s) s).pads = s.pads ∧ (after (execDramOscillatorRead ch drift64 retrain s) s).integ = s.integ ∧ (after (execDramOscillatorRead ch drift64 retrain s) s).tap = s.tap ∧ (after (execDramOscillatorRead ch drift64 retrain s) s).pending = s.pending := by
  unfold execDramOscillatorRead
  first
    | (simp [apply_ite State.clk, apply_ite State.boot, apply_ite State.pads, apply_ite State.integ, apply_ite State.tap, apply_ite State.pending]; done)
    | ((repeat' split) <;> (first | (simp [apply_ite State.clk, apply_ite State.boot, apply_ite State.pads, apply_ite State.integ, apply_ite State.tap, apply_ite State.pending]; done) | (simp_all [apply_ite State.clk, apply_ite State.boot, apply_ite State.pads, apply_ite State.integ, apply_ite State.tap, apply_ite State.pending]; done)))
    | (dsimp only; (repeat' apply And.intro) <;> (repeat' split) <;> (first | (simp [apply_ite State.clk, apply_ite State.boot, apply_ite State.pads, apply_ite State.integ, apply_ite State.tap, apply_ite State.pending]; done) | (simp_all [apply_ite State.clk, apply_ite State.boot, apply_ite State.pads, apply_ite State.integ, apply_ite State.tap, apply_ite State.pending]; done)))
@[simp] theorem frame_execResyncRow (pool row : Nat) (newLayout : Bool) (s : State) :
    (after (execResyncRow pool row newLayout s) s).clk = s.clk ∧ (after (execResyncRow pool row newLayout s) s).boot = s.boot ∧ (after (execResyncRow pool row newLayout s) s).dram = s.dram ∧ (after (execResyncRow pool row newLayout s) s).pads = s.pads ∧ (after (execResyncRow pool row newLayout s) s).integ = s.integ ∧ (after (execResyncRow pool row newLayout s) s).tap = s.tap ∧ (after (execResyncRow pool row newLayout s) s).pending = s.pending := by
  unfold execResyncRow
  first
    | (simp [apply_ite State.clk, apply_ite State.boot, apply_ite State.dram, apply_ite State.pads, apply_ite State.integ, apply_ite State.tap, apply_ite State.pending]; done)
    | ((repeat' split) <;> (first | (simp [apply_ite State.clk, apply_ite State.boot, apply_ite State.dram, apply_ite State.pads, apply_ite State.integ, apply_ite State.tap, apply_ite State.pending]; done) | (simp_all [apply_ite State.clk, apply_ite State.boot, apply_ite State.dram, apply_ite State.pads, apply_ite State.integ, apply_ite State.tap, apply_ite State.pending]; done)))
    | (dsimp only; (repeat' apply And.intro) <;> (repeat' split) <;> (first | (simp [apply_ite State.clk, apply_ite State.boot, apply_ite State.dram, apply_ite State.pads, apply_ite State.integ, apply_ite State.tap, apply_ite State.pending]; done) | (simp_all [apply_ite State.clk, apply_ite State.boot, apply_ite State.dram, apply_ite State.pads, apply_ite State.integ, apply_ite State.tap, apply_ite State.pending]; done)))
@[simp] theorem frame_execReshapeWindow (pool : Nat) (s : State) :
    (after (execReshapeWindow pool s) s).clk = s.clk ∧ (after (execReshapeWindow pool s) s).boot = s.boot ∧ (after (execReshapeWindow pool s) s).dram = s.dram ∧ (after (execReshapeWindow pool s) s).pads = s.pads ∧ (after (execReshapeWindow pool s) s).integ = s.integ ∧ (after (execReshapeWindow pool s) s).tap = s.tap ∧ (after (execReshapeWindow pool s) s).pending = s.pending := by
  unfold execReshapeWindow
  first
    | (simp [apply_ite State.clk, apply_ite State.boot, apply_ite State.dram, apply_ite State.pads, apply_ite State.integ, apply_ite State.tap, apply_ite State.pending]; done)
    | ((repeat' split) <;> (first | (simp [apply_ite State.clk, apply_ite State.boot, apply_ite State.dram, apply_ite State.pads, apply_ite State.integ, apply_ite State.tap, apply_ite State.pending]; done) | (simp_all [apply_ite State.clk, apply_ite State.boot, apply_ite State.dram, apply_ite State.pads, apply_ite State.integ, apply_ite State.tap, apply_ite State.pending]; done)))
    | (dsimp only; (repeat' apply And.intro) <;> (repeat' split) <;> (first | (simp [apply_ite State.clk, apply_ite State.boot, apply_ite State.dram, apply_ite State.pads, apply_ite State.integ, apply_ite State.tap, apply_ite State.pending]; done) | (simp_all [apply_ite State.clk, apply_ite State.boot, apply_ite State.dram, apply_ite State.pads, apply_ite State.integ, apply_ite State.tap, apply_ite State.pending]; done)))
@[simp] theorem frame_execBeachcomberCheck (pool row : Nat) (newLayout : Bool) (pos : Nat) (s : State) :
    (after (execBeachcomberCheck pool row newLayout pos s) s).clk = s.clk ∧ (after (execBeachcomberCheck pool row newLayout pos s) s).boot = s.boot ∧ (after (execBeachcomberCheck pool row newLayout pos s) s).dram = s.dram ∧ (after (execBeachcomberCheck pool row newLayout pos s) s).pads = s.pads ∧ (after (execBeachcomberCheck pool row newLayout pos s) s).integ = s.integ ∧ (after (execBeachcomberCheck pool row newLayout pos s) s).tap = s.tap ∧ (after (execBeachcomberCheck pool row newLayout pos s) s).pending = s.pending := by
  unfold execBeachcomberCheck
  first
    | (simp [apply_ite State.clk, apply_ite State.boot, apply_ite State.dram, apply_ite State.pads, apply_ite State.integ, apply_ite State.tap, apply_ite State.pending]; done)
    | ((repeat' split) <;> (first | (simp [apply_ite State.clk, apply_ite State.boot, apply_ite State.dram, apply_ite State.pads, apply_ite State.integ, apply_ite State.tap, apply_ite State.pending]; done) | (simp_all [apply_ite State.clk, apply_ite State.boot, apply_ite State.dram, apply_ite State.pads, apply_ite State.integ, apply_ite State.tap, apply_ite State.pending]; done)))
    | (dsimp only; (repeat' apply And.intro) <;> (repeat' split) <;> (first | (simp [apply_ite State.clk, apply_ite State.boot, apply_ite State.dram, apply_ite State.pads, apply_ite State.integ, apply_ite State.tap, apply_ite State.pending]; done) | (simp_all [apply_ite State.clk, apply_ite State.boot, apply_ite State.dram, apply_ite State.pads, apply_ite State.integ, apply_ite State.tap, apply_ite State.pending]; done)))
@[simp] theorem frame_execHeartbeat (f : Frame) (boot : Word) (session : BitVec 32) (flags : Byte) (roles : List RoleEntry) (s : State) :
    (after (execHeartbeat f boot session flags roles s) s).clk = s.clk ∧ (after (execHeartbeat f boot session flags roles s) s).boot = s.boot ∧ (after (execHeartbeat f boot session flags roles s) s).dram = s.dram ∧ (after (execHeartbeat f boot session flags roles s) s).pads = s.pads ∧ (after (execHeartbeat f boot session flags roles s) s).integ = s.integ ∧ (after (execHeartbeat f boot session flags roles s) s).tap = s.tap ∧ (after (execHeartbeat f boot session flags roles s) s).pending = s.pending := by
  unfold execHeartbeat
  first
    | (simp [apply_ite State.clk, apply_ite State.boot, apply_ite State.dram, apply_ite State.pads, apply_ite State.integ, apply_ite State.tap, apply_ite State.pending]; done)
    | ((repeat' split) <;> (first | (simp [apply_ite State.clk, apply_ite State.boot, apply_ite State.dram, apply_ite State.pads, apply_ite State.integ, apply_ite State.tap, apply_ite State.pending]; done) | (simp_all [apply_ite State.clk, apply_ite State.boot, apply_ite State.dram, apply_ite State.pads, apply_ite State.integ, apply_ite State.tap, apply_ite State.pending]; done)))
    | (dsimp only; (repeat' apply And.intro) <;> (repeat' split) <;> (first | (simp [apply_ite State.clk, apply_ite State.boot, apply_ite State.dram, apply_ite State.pads, apply_ite State.integ, apply_ite State.tap, apply_ite State.pending]; done) | (simp_all [apply_ite State.clk, apply_ite State.boot, apply_ite State.dram, apply_ite State.pads, apply_ite State.integ, apply_ite State.tap, apply_ite State.pending]; done)))
@[simp] theorem frame_execSherdData (f : Frame) (blk : Blk) (s : State) :
    (after (execSherdData f blk s) s).clk = s.clk ∧ (after (execSherdData f blk s) s).boot = s.boot ∧ (after (execSherdData f blk s) s).dram = s.dram ∧ (after (execSherdData f blk s) s).pads = s.pads ∧ (after (execSherdData f blk s) s).integ = s.integ ∧ (after (execSherdData f blk s) s).tap = s.tap ∧ (after (execSherdData f blk s) s).pending = s.pending := by
  unfold execSherdData
  first
    | (simp [apply_ite State.clk, apply_ite State.boot, apply_ite State.dram, apply_ite State.pads, apply_ite State.integ, apply_ite State.tap, apply_ite State.pending]; done)
    | ((repeat' split) <;> (first | (simp [apply_ite State.clk, apply_ite State.boot, apply_ite State.dram, apply_ite State.pads, apply_ite State.integ, apply_ite State.tap, apply_ite State.pending]; done) | (simp_all [apply_ite State.clk, apply_ite State.boot, apply_ite State.dram, apply_ite State.pads, apply_ite State.integ, apply_ite State.tap, apply_ite State.pending]; done)))
    | (dsimp only; (repeat' apply And.intro) <;> (repeat' split) <;> (first | (simp [apply_ite State.clk, apply_ite State.boot, apply_ite State.dram, apply_ite State.pads, apply_ite State.integ, apply_ite State.tap, apply_ite State.pending]; done) | (simp_all [apply_ite State.clk, apply_ite State.boot, apply_ite State.dram, apply_ite State.pads, apply_ite State.integ, apply_ite State.tap, apply_ite State.pending]; done)))
@[simp] theorem frame_execReadData (f : Frame) (blk : Blk) (s : State) :
    (after (execReadData f blk s) s).clk = s.clk ∧ (after (execReadData f blk s) s).boot = s.boot ∧ (after (execReadData f blk s) s).dram = s.dram ∧ (after (execReadData f blk s) s).pads = s.pads ∧ (after (execReadData f blk s) s).integ = s.integ ∧ (after (execReadData f blk s) s).tap = s.tap ∧ (after (execReadData f blk s) s).pending = s.pending := by
  unfold execReadData
  first
    | (simp [apply_ite State.clk, apply_ite State.boot, apply_ite State.dram, apply_ite State.pads, apply_ite State.integ, apply_ite State.tap, apply_ite State.pending]; done)
    | ((repeat' split) <;> (first | (simp [apply_ite State.clk, apply_ite State.boot, apply_ite State.dram, apply_ite State.pads, apply_ite State.integ, apply_ite State.tap, apply_ite State.pending]; done) | (simp_all [apply_ite State.clk, apply_ite State.boot, apply_ite State.dram, apply_ite State.pads, apply_ite State.integ, apply_ite State.tap, apply_ite State.pending]; done)))
    | (dsimp only; (repeat' apply And.intro) <;> (repeat' split) <;> (first | (simp [apply_ite State.clk, apply_ite State.boot, apply_ite State.dram, apply_ite State.pads, apply_ite State.integ, apply_ite State.tap, apply_ite State.pending]; done) | (simp_all [apply_ite State.clk, apply_ite State.boot, apply_ite State.dram, apply_ite State.pads, apply_ite State.integ, apply_ite State.tap, apply_ite State.pending]; done)))
@[simp] theorem frame_execClaim (f : Frame) (s : State) :
    (after (execClaim f s) s).clk = s.clk ∧ (after (execClaim f s) s).boot = s.boot ∧ (after (execClaim f s) s).dram = s.dram ∧ (after (execClaim f s) s).pads = s.pads ∧ (after (execClaim f s) s).integ = s.integ ∧ (after (execClaim f s) s).tap = s.tap ∧ (after (execClaim f s) s).pending = s.pending := by
  unfold execClaim
  first
    | (simp [apply_ite State.clk, apply_ite State.boot, apply_ite State.dram, apply_ite State.pads, apply_ite State.integ, apply_ite State.tap, apply_ite State.pending]; done)
    | ((repeat' split) <;> (first | (simp [apply_ite State.clk, apply_ite State.boot, apply_ite State.dram, apply_ite State.pads, apply_ite State.integ, apply_ite State.tap, apply_ite State.pending]; done) | (simp_all [apply_ite State.clk, apply_ite State.boot, apply_ite State.dram, apply_ite State.pads, apply_ite State.integ, apply_ite State.tap, apply_ite State.pending]; done)))
    | (dsimp only; (repeat' apply And.intro) <;> (repeat' split) <;> (first | (simp [apply_ite State.clk, apply_ite State.boot, apply_ite State.dram, apply_ite State.pads, apply_ite State.integ, apply_ite State.tap, apply_ite State.pending]; done) | (simp_all [apply_ite State.clk, apply_ite State.boot, apply_ite State.dram, apply_ite State.pads, apply_ite State.integ, apply_ite State.tap, apply_ite State.pending]; done)))
@[simp] theorem frame_execFenced (f : Frame) (s : State) :
    (after (execFenced f s) s).clk = s.clk ∧ (after (execFenced f s) s).boot = s.boot ∧ (after (execFenced f s) s).dram = s.dram ∧ (after (execFenced f s) s).pads = s.pads ∧ (after (execFenced f s) s).integ = s.integ ∧ (after (execFenced f s) s).tap = s.tap ∧ (after (execFenced f s) s).pending = s.pending := by
  unfold execFenced
  first
    | (simp [apply_ite State.clk, apply_ite State.boot, apply_ite State.dram, apply_ite State.pads, apply_ite State.integ, apply_ite State.tap, apply_ite State.pending]; done)
    | ((repeat' split) <;> (first | (simp [apply_ite State.clk, apply_ite State.boot, apply_ite State.dram, apply_ite State.pads, apply_ite State.integ, apply_ite State.tap, apply_ite State.pending]; done) | (simp_all [apply_ite State.clk, apply_ite State.boot, apply_ite State.dram, apply_ite State.pads, apply_ite State.integ, apply_ite State.tap, apply_ite State.pending]; done)))
    | (dsimp only; (repeat' apply And.intro) <;> (repeat' split) <;> (first | (simp [apply_ite State.clk, apply_ite State.boot, apply_ite State.dram, apply_ite State.pads, apply_ite State.integ, apply_ite State.tap, apply_ite State.pending]; done) | (simp_all [apply_ite State.clk, apply_ite State.boot, apply_ite State.dram, apply_ite State.pads, apply_ite State.integ, apply_ite State.tap, apply_ite State.pending]; done)))
@[simp] theorem frame_execRelinquish (f : Frame) (s : State) :
    (after (execRelinquish f s) s).clk = s.clk ∧ (after (execRelinquish f s) s).boot = s.boot ∧ (after (execRelinquish f s) s).dram = s.dram ∧ (after (execRelinquish f s) s).pads = s.pads ∧ (after (execRelinquish f s) s).integ = s.integ ∧ (after (execRelinquish f s) s).tap = s.tap ∧ (after (execRelinquish f s) s).pending = s.pending := by
  unfold execRelinquish
  first
    | (simp [apply_ite State.clk, apply_ite State.boot, apply_ite State.dram, apply_ite State.pads, apply_ite State.integ, apply_ite State.tap, apply_ite State.pending]; done)
    | ((repeat' split) <;> (first | (simp [apply_ite State.clk, apply_ite State.boot, apply_ite State.dram, apply_ite State.pads, apply_ite State.integ, apply_ite State.tap, apply_ite State.pending]; done) | (simp_all [apply_ite State.clk, apply_ite State.boot, apply_ite State.dram, apply_ite State.pads, apply_ite State.integ, apply_ite State.tap, apply_ite State.pending]; done)))
    | (dsimp only; (repeat' apply And.intro) <;> (repeat' split) <;> (first | (simp [apply_ite State.clk, apply_ite State.boot, apply_ite State.dram, apply_ite State.pads, apply_ite State.integ, apply_ite State.tap, apply_ite State.pending]; done) | (simp_all [apply_ite State.clk, apply_ite State.boot, apply_ite State.dram, apply_ite State.pads, apply_ite State.integ, apply_ite State.tap, apply_ite State.pending]; done)))
@[simp] theorem frame_execHandover (f : Frame) (s : State) :
    (after (execHandover f s) s).clk = s.clk ∧ (after (execHandover f s) s).boot = s.boot ∧ (after (execHandover f s) s).dram = s.dram ∧ (after (execHandover f s) s).pads = s.pads ∧ (after (execHandover f s) s).integ = s.integ ∧ (after (execHandover f s) s).tap = s.tap ∧ (after (execHandover f s) s).pending = s.pending := by
  unfold execHandover
  first
    | (simp [apply_ite State.clk, apply_ite State.boot, apply_ite State.dram, apply_ite State.pads, apply_ite State.integ, apply_ite State.tap, apply_ite State.pending]; done)
    | ((repeat' split) <;> (first | (simp [apply_ite State.clk, apply_ite State.boot, apply_ite State.dram, apply_ite State.pads, apply_ite State.integ, apply_ite State.tap, apply_ite State.pending]; done) | (simp_all [apply_ite State.clk, apply_ite State.boot, apply_ite State.dram, apply_ite State.pads, apply_ite State.integ, apply_ite State.tap, apply_ite State.pending]; done)))
    | (dsimp only; (repeat' apply And.intro) <;> (repeat' split) <;> (first | (simp [apply_ite State.clk, apply_ite State.boot, apply_ite State.dram, apply_ite State.pads, apply_ite State.integ, apply_ite State.tap, apply_ite State.pending]; done) | (simp_all [apply_ite State.clk, apply_ite State.boot, apply_ite State.dram, apply_ite State.pads, apply_ite State.integ, apply_ite State.tap, apply_ite State.pending]; done)))
@[simp] theorem frame_execRingExit (f : Frame) (s : State) :
    (after (execRingExit f s) s).clk = s.clk ∧ (after (execRingExit f s) s).boot = s.boot ∧ (after (execRingExit f s) s).dram = s.dram ∧ (after (execRingExit f s) s).pads = s.pads ∧ (after (execRingExit f s) s).integ = s.integ ∧ (after (execRingExit f s) s).tap = s.tap ∧ (after (execRingExit f s) s).pending = s.pending := by
  unfold execRingExit
  first
    | (simp [apply_ite State.clk, apply_ite State.boot, apply_ite State.dram, apply_ite State.pads, apply_ite State.integ, apply_ite State.tap, apply_ite State.pending]; done)
    | ((repeat' split) <;> (first | (simp [apply_ite State.clk, apply_ite State.boot, apply_ite State.dram, apply_ite State.pads, apply_ite State.integ, apply_ite State.tap, apply_ite State.pending]; done) | (simp_all [apply_ite State.clk, apply_ite State.boot, apply_ite State.dram, apply_ite State.pads, apply_ite State.integ, apply_ite State.tap, apply_ite State.pending]; done)))
    | (dsimp only; (repeat' apply And.intro) <;> (repeat' split) <;> (first | (simp [apply_ite State.clk, apply_ite State.boot, apply_ite State.dram, apply_ite State.pads, apply_ite State.integ, apply_ite State.tap, apply_ite State.pending]; done) | (simp_all [apply_ite State.clk, apply_ite State.boot, apply_ite State.dram, apply_ite State.pads, apply_ite State.integ, apply_ite State.tap, apply_ite State.pending]; done)))
@[simp] theorem frame_execTicketRequest (f : Frame) (dataMask flags group groupSize cover : Nat) (s : State) :
    (after (execTicketRequest f dataMask flags group groupSize cover s) s).clk = s.clk ∧ (after (execTicketRequest f dataMask flags group groupSize cover s) s).boot = s.boot ∧ (after (execTicketRequest f dataMask flags group groupSize cover s) s).dram = s.dram ∧ (after (execTicketRequest f dataMask flags group groupSize cover s) s).pads = s.pads ∧ (after (execTicketRequest f dataMask flags group groupSize cover s) s).integ = s.integ ∧ (after (execTicketRequest f dataMask flags group groupSize cover s) s).tap = s.tap ∧ (after (execTicketRequest f dataMask flags group groupSize cover s) s).pending = s.pending := by
  unfold execTicketRequest
  first
    | (simp [apply_ite State.clk, apply_ite State.boot, apply_ite State.dram, apply_ite State.pads, apply_ite State.integ, apply_ite State.tap, apply_ite State.pending]; done)
    | ((repeat' split) <;> (first | (simp [apply_ite State.clk, apply_ite State.boot, apply_ite State.dram, apply_ite State.pads, apply_ite State.integ, apply_ite State.tap, apply_ite State.pending]; done) | (simp_all [apply_ite State.clk, apply_ite State.boot, apply_ite State.dram, apply_ite State.pads, apply_ite State.integ, apply_ite State.tap, apply_ite State.pending]; done)))
    | (dsimp only; (repeat' apply And.intro) <;> (repeat' split) <;> (first | (simp [apply_ite State.clk, apply_ite State.boot, apply_ite State.dram, apply_ite State.pads, apply_ite State.integ, apply_ite State.tap, apply_ite State.pending]; done) | (simp_all [apply_ite State.clk, apply_ite State.boot, apply_ite State.dram, apply_ite State.pads, apply_ite State.integ, apply_ite State.tap, apply_ite State.pending]; done)))
@[simp] theorem frame_execTicketGrant (f : Frame) (s : State) :
    (after (execTicketGrant f s) s).clk = s.clk ∧ (after (execTicketGrant f s) s).boot = s.boot ∧ (after (execTicketGrant f s) s).dram = s.dram ∧ (after (execTicketGrant f s) s).pads = s.pads ∧ (after (execTicketGrant f s) s).integ = s.integ ∧ (after (execTicketGrant f s) s).tap = s.tap ∧ (after (execTicketGrant f s) s).pending = s.pending := by
  unfold execTicketGrant
  first
    | (simp [apply_ite State.clk, apply_ite State.boot, apply_ite State.dram, apply_ite State.pads, apply_ite State.integ, apply_ite State.tap, apply_ite State.pending]; done)
    | ((repeat' split) <;> (first | (simp [apply_ite State.clk, apply_ite State.boot, apply_ite State.dram, apply_ite State.pads, apply_ite State.integ, apply_ite State.tap, apply_ite State.pending]; done) | (simp_all [apply_ite State.clk, apply_ite State.boot, apply_ite State.dram, apply_ite State.pads, apply_ite State.integ, apply_ite State.tap, apply_ite State.pending]; done)))
    | (dsimp only; (repeat' apply And.intro) <;> (repeat' split) <;> (first | (simp [apply_ite State.clk, apply_ite State.boot, apply_ite State.dram, apply_ite State.pads, apply_ite State.integ, apply_ite State.tap, apply_ite State.pending]; done) | (simp_all [apply_ite State.clk, apply_ite State.boot, apply_ite State.dram, apply_ite State.pads, apply_ite State.integ, apply_ite State.tap, apply_ite State.pending]; done)))
@[simp] theorem frame_execCommitNotice (f : Frame) (registry : Option Registry) (s : State) :
    (after (execCommitNotice f registry s) s).clk = s.clk ∧ (after (execCommitNotice f registry s) s).boot = s.boot ∧ (after (execCommitNotice f registry s) s).dram = s.dram ∧ (after (execCommitNotice f registry s) s).pads = s.pads ∧ (after (execCommitNotice f registry s) s).integ = s.integ ∧ (after (execCommitNotice f registry s) s).tap = s.tap ∧ (after (execCommitNotice f registry s) s).pending = s.pending := by
  unfold execCommitNotice
  first
    | (simp [apply_ite State.clk, apply_ite State.boot, apply_ite State.dram, apply_ite State.pads, apply_ite State.integ, apply_ite State.tap, apply_ite State.pending]; done)
    | ((repeat' split) <;> (first | (simp [apply_ite State.clk, apply_ite State.boot, apply_ite State.dram, apply_ite State.pads, apply_ite State.integ, apply_ite State.tap, apply_ite State.pending]; done) | (simp_all [apply_ite State.clk, apply_ite State.boot, apply_ite State.dram, apply_ite State.pads, apply_ite State.integ, apply_ite State.tap, apply_ite State.pending]; done)))
    | (dsimp only; (repeat' apply And.intro) <;> (repeat' split) <;> (first | (simp [apply_ite State.clk, apply_ite State.boot, apply_ite State.dram, apply_ite State.pads, apply_ite State.integ, apply_ite State.tap, apply_ite State.pending]; done) | (simp_all [apply_ite State.clk, apply_ite State.boot, apply_ite State.dram, apply_ite State.pads, apply_ite State.integ, apply_ite State.tap, apply_ite State.pending]; done)))
@[simp] theorem frame_execDropNotice (f : Frame) (s : State) :
    (after (execDropNotice f s) s).clk = s.clk ∧ (after (execDropNotice f s) s).boot = s.boot ∧ (after (execDropNotice f s) s).dram = s.dram ∧ (after (execDropNotice f s) s).pads = s.pads ∧ (after (execDropNotice f s) s).integ = s.integ ∧ (after (execDropNotice f s) s).tap = s.tap ∧ (after (execDropNotice f s) s).pending = s.pending := by
  unfold execDropNotice
  first
    | (simp [apply_ite State.clk, apply_ite State.boot, apply_ite State.dram, apply_ite State.pads, apply_ite State.integ, apply_ite State.tap, apply_ite State.pending]; done)
    | ((repeat' split) <;> (first | (simp [apply_ite State.clk, apply_ite State.boot, apply_ite State.dram, apply_ite State.pads, apply_ite State.integ, apply_ite State.tap, apply_ite State.pending]; done) | (simp_all [apply_ite State.clk, apply_ite State.boot, apply_ite State.dram, apply_ite State.pads, apply_ite State.integ, apply_ite State.tap, apply_ite State.pending]; done)))
    | (dsimp only; (repeat' apply And.intro) <;> (repeat' split) <;> (first | (simp [apply_ite State.clk, apply_ite State.boot, apply_ite State.dram, apply_ite State.pads, apply_ite State.integ, apply_ite State.tap, apply_ite State.pending]; done) | (simp_all [apply_ite State.clk, apply_ite State.boot, apply_ite State.dram, apply_ite State.pads, apply_ite State.integ, apply_ite State.tap, apply_ite State.pending]; done)))
@[simp] theorem frame_execMirrorGroup (f : Frame) (records : List JRec) (s : State) :
    (after (execMirrorGroup f records s) s).clk = s.clk ∧ (after (execMirrorGroup f records s) s).boot = s.boot ∧ (after (execMirrorGroup f records s) s).dram = s.dram ∧ (after (execMirrorGroup f records s) s).pads = s.pads ∧ (after (execMirrorGroup f records s) s).integ = s.integ ∧ (after (execMirrorGroup f records s) s).tap = s.tap ∧ (after (execMirrorGroup f records s) s).pending = s.pending := by
  unfold execMirrorGroup
  first
    | (simp [apply_ite State.clk, apply_ite State.boot, apply_ite State.dram, apply_ite State.pads, apply_ite State.integ, apply_ite State.tap, apply_ite State.pending]; done)
    | ((repeat' split) <;> (first | (simp [apply_ite State.clk, apply_ite State.boot, apply_ite State.dram, apply_ite State.pads, apply_ite State.integ, apply_ite State.tap, apply_ite State.pending]; done) | (simp_all [apply_ite State.clk, apply_ite State.boot, apply_ite State.dram, apply_ite State.pads, apply_ite State.integ, apply_ite State.tap, apply_ite State.pending]; done)))
    | (dsimp only; (repeat' apply And.intro) <;> (repeat' split) <;> (first | (simp [apply_ite State.clk, apply_ite State.boot, apply_ite State.dram, apply_ite State.pads, apply_ite State.integ, apply_ite State.tap, apply_ite State.pending]; done) | (simp_all [apply_ite State.clk, apply_ite State.boot, apply_ite State.dram, apply_ite State.pads, apply_ite State.integ, apply_ite State.tap, apply_ite State.pending]; done)))
@[simp] theorem frame_execMirrorAck (f : Frame) (s : State) :
    (after (execMirrorAck f s) s).clk = s.clk ∧ (after (execMirrorAck f s) s).boot = s.boot ∧ (after (execMirrorAck f s) s).dram = s.dram ∧ (after (execMirrorAck f s) s).pads = s.pads ∧ (after (execMirrorAck f s) s).integ = s.integ ∧ (after (execMirrorAck f s) s).tap = s.tap ∧ (after (execMirrorAck f s) s).pending = s.pending := by
  unfold execMirrorAck
  first
    | (simp [apply_ite State.clk, apply_ite State.boot, apply_ite State.dram, apply_ite State.pads, apply_ite State.integ, apply_ite State.tap, apply_ite State.pending]; done)
    | ((repeat' split) <;> (first | (simp [apply_ite State.clk, apply_ite State.boot, apply_ite State.dram, apply_ite State.pads, apply_ite State.integ, apply_ite State.tap, apply_ite State.pending]; done) | (simp_all [apply_ite State.clk, apply_ite State.boot, apply_ite State.dram, apply_ite State.pads, apply_ite State.integ, apply_ite State.tap, apply_ite State.pending]; done)))
    | (dsimp only; (repeat' apply And.intro) <;> (repeat' split) <;> (first | (simp [apply_ite State.clk, apply_ite State.boot, apply_ite State.dram, apply_ite State.pads, apply_ite State.integ, apply_ite State.tap, apply_ite State.pending]; done) | (simp_all [apply_ite State.clk, apply_ite State.boot, apply_ite State.dram, apply_ite State.pads, apply_ite State.integ, apply_ite State.tap, apply_ite State.pending]; done)))
@[simp] theorem frame_execResolve (f : Frame) (s : State) :
    (after (execResolve f s) s).clk = s.clk ∧ (after (execResolve f s) s).boot = s.boot ∧ (after (execResolve f s) s).dram = s.dram ∧ (after (execResolve f s) s).pads = s.pads ∧ (after (execResolve f s) s).integ = s.integ ∧ (after (execResolve f s) s).tap = s.tap ∧ (after (execResolve f s) s).pending = s.pending := by
  unfold execResolve
  first
    | (simp [apply_ite State.clk, apply_ite State.boot, apply_ite State.dram, apply_ite State.pads, apply_ite State.integ, apply_ite State.tap, apply_ite State.pending]; done)
    | ((repeat' split) <;> (first | (simp [apply_ite State.clk, apply_ite State.boot, apply_ite State.dram, apply_ite State.pads, apply_ite State.integ, apply_ite State.tap, apply_ite State.pending]; done) | (simp_all [apply_ite State.clk, apply_ite State.boot, apply_ite State.dram, apply_ite State.pads, apply_ite State.integ, apply_ite State.tap, apply_ite State.pending]; done)))
    | (dsimp only; (repeat' apply And.intro) <;> (repeat' split) <;> (first | (simp [apply_ite State.clk, apply_ite State.boot, apply_ite State.dram, apply_ite State.pads, apply_ite State.integ, apply_ite State.tap, apply_ite State.pending]; done) | (simp_all [apply_ite State.clk, apply_ite State.boot, apply_ite State.dram, apply_ite State.pads, apply_ite State.integ, apply_ite State.tap, apply_ite State.pending]; done)))
@[simp] theorem frame_execResolveReply (f : Frame) (items : List ResolveItem) (commits : List Nat) (s : State) :
    (after (execResolveReply f items commits s) s).clk = s.clk ∧ (after (execResolveReply f items commits s) s).boot = s.boot ∧ (after (execResolveReply f items commits s) s).dram = s.dram ∧ (after (execResolveReply f items commits s) s).pads = s.pads ∧ (after (execResolveReply f items commits s) s).integ = s.integ ∧ (after (execResolveReply f items commits s) s).tap = s.tap ∧ (after (execResolveReply f items commits s) s).pending = s.pending := by
  unfold execResolveReply
  first
    | (simp [apply_ite State.clk, apply_ite State.boot, apply_ite State.dram, apply_ite State.pads, apply_ite State.integ, apply_ite State.tap, apply_ite State.pending]; done)
    | ((repeat' split) <;> (first | (simp [apply_ite State.clk, apply_ite State.boot, apply_ite State.dram, apply_ite State.pads, apply_ite State.integ, apply_ite State.tap, apply_ite State.pending]; done) | (simp_all [apply_ite State.clk, apply_ite State.boot, apply_ite State.dram, apply_ite State.pads, apply_ite State.integ, apply_ite State.tap, apply_ite State.pending]; done)))
    | (dsimp only; (repeat' apply And.intro) <;> (repeat' split) <;> (first | (simp [apply_ite State.clk, apply_ite State.boot, apply_ite State.dram, apply_ite State.pads, apply_ite State.integ, apply_ite State.tap, apply_ite State.pending]; done) | (simp_all [apply_ite State.clk, apply_ite State.boot, apply_ite State.dram, apply_ite State.pads, apply_ite State.integ, apply_ite State.tap, apply_ite State.pending]; done)))
@[simp] theorem frame_execSherdDone (f : Frame) (s : State) :
    (after (execSherdDone f s) s).clk = s.clk ∧ (after (execSherdDone f s) s).boot = s.boot ∧ (after (execSherdDone f s) s).dram = s.dram ∧ (after (execSherdDone f s) s).pads = s.pads ∧ (after (execSherdDone f s) s).integ = s.integ ∧ (after (execSherdDone f s) s).tap = s.tap ∧ (after (execSherdDone f s) s).pending = s.pending := by
  unfold execSherdDone
  first
    | (simp [apply_ite State.clk, apply_ite State.boot, apply_ite State.dram, apply_ite State.pads, apply_ite State.integ, apply_ite State.tap, apply_ite State.pending]; done)
    | ((repeat' split) <;> (first | (simp [apply_ite State.clk, apply_ite State.boot, apply_ite State.dram, apply_ite State.pads, apply_ite State.integ, apply_ite State.tap, apply_ite State.pending]; done) | (simp_all [apply_ite State.clk, apply_ite State.boot, apply_ite State.dram, apply_ite State.pads, apply_ite State.integ, apply_ite State.tap, apply_ite State.pending]; done)))
    | (dsimp only; (repeat' apply And.intro) <;> (repeat' split) <;> (first | (simp [apply_ite State.clk, apply_ite State.boot, apply_ite State.dram, apply_ite State.pads, apply_ite State.integ, apply_ite State.tap, apply_ite State.pending]; done) | (simp_all [apply_ite State.clk, apply_ite State.boot, apply_ite State.dram, apply_ite State.pads, apply_ite State.integ, apply_ite State.tap, apply_ite State.pending]; done)))
@[simp] theorem frame_execJoinRequest (f : Frame) (serial boot : Word) (anchorSeq : Nat) (s : State) :
    (after (execJoinRequest f serial boot anchorSeq s) s).clk = s.clk ∧ (after (execJoinRequest f serial boot anchorSeq s) s).boot = s.boot ∧ (after (execJoinRequest f serial boot anchorSeq s) s).dram = s.dram ∧ (after (execJoinRequest f serial boot anchorSeq s) s).pads = s.pads ∧ (after (execJoinRequest f serial boot anchorSeq s) s).integ = s.integ ∧ (after (execJoinRequest f serial boot anchorSeq s) s).tap = s.tap ∧ (after (execJoinRequest f serial boot anchorSeq s) s).pending = s.pending := by
  unfold execJoinRequest
  first
    | (simp [apply_ite State.clk, apply_ite State.boot, apply_ite State.dram, apply_ite State.pads, apply_ite State.integ, apply_ite State.tap, apply_ite State.pending]; done)
    | ((repeat' split) <;> (first | (simp [apply_ite State.clk, apply_ite State.boot, apply_ite State.dram, apply_ite State.pads, apply_ite State.integ, apply_ite State.tap, apply_ite State.pending]; done) | (simp_all [apply_ite State.clk, apply_ite State.boot, apply_ite State.dram, apply_ite State.pads, apply_ite State.integ, apply_ite State.tap, apply_ite State.pending]; done)))
    | (dsimp only; (repeat' apply And.intro) <;> (repeat' split) <;> (first | (simp [apply_ite State.clk, apply_ite State.boot, apply_ite State.dram, apply_ite State.pads, apply_ite State.integ, apply_ite State.tap, apply_ite State.pending]; done) | (simp_all [apply_ite State.clk, apply_ite State.boot, apply_ite State.dram, apply_ite State.pads, apply_ite State.integ, apply_ite State.tap, apply_ite State.pending]; done)))
@[simp] theorem frame_execJoinAdmit (f : Frame) (states : List (Nat × MemberState)) (missed : List (Nat × Nat)) (commits : List Nat) (registry : Option Registry) (s : State) :
    (after (execJoinAdmit f states missed commits registry s) s).clk = s.clk ∧ (after (execJoinAdmit f states missed commits registry s) s).boot = s.boot ∧ (after (execJoinAdmit f states missed commits registry s) s).dram = s.dram ∧ (after (execJoinAdmit f states missed commits registry s) s).pads = s.pads ∧ (after (execJoinAdmit f states missed commits registry s) s).integ = s.integ ∧ (after (execJoinAdmit f states missed commits registry s) s).tap = s.tap ∧ (after (execJoinAdmit f states missed commits registry s) s).pending = s.pending := by
  unfold execJoinAdmit
  first
    | (simp [apply_ite State.clk, apply_ite State.boot, apply_ite State.dram, apply_ite State.pads, apply_ite State.integ, apply_ite State.tap, apply_ite State.pending]; done)
    | ((repeat' split) <;> (first | (simp [apply_ite State.clk, apply_ite State.boot, apply_ite State.dram, apply_ite State.pads, apply_ite State.integ, apply_ite State.tap, apply_ite State.pending]; done) | (simp_all [apply_ite State.clk, apply_ite State.boot, apply_ite State.dram, apply_ite State.pads, apply_ite State.integ, apply_ite State.tap, apply_ite State.pending]; done)))
    | (dsimp only; (repeat' apply And.intro) <;> (repeat' split) <;> (first | (simp [apply_ite State.clk, apply_ite State.boot, apply_ite State.dram, apply_ite State.pads, apply_ite State.integ, apply_ite State.tap, apply_ite State.pending]; done) | (simp_all [apply_ite State.clk, apply_ite State.boot, apply_ite State.dram, apply_ite State.pads, apply_ite State.integ, apply_ite State.tap, apply_ite State.pending]; done)))
@[simp] theorem frame_execReadRequest (f : Frame) (blocks : List Nat) (s : State) :
    (after (execReadRequest f blocks s) s).clk = s.clk ∧ (after (execReadRequest f blocks s) s).boot = s.boot ∧ (after (execReadRequest f blocks s) s).dram = s.dram ∧ (after (execReadRequest f blocks s) s).pads = s.pads ∧ (after (execReadRequest f blocks s) s).integ = s.integ ∧ (after (execReadRequest f blocks s) s).tap = s.tap ∧ (after (execReadRequest f blocks s) s).pending = s.pending := by
  unfold execReadRequest
  first
    | (simp [apply_ite State.clk, apply_ite State.boot, apply_ite State.dram, apply_ite State.pads, apply_ite State.integ, apply_ite State.tap, apply_ite State.pending]; done)
    | ((repeat' split) <;> (first | (simp [apply_ite State.clk, apply_ite State.boot, apply_ite State.dram, apply_ite State.pads, apply_ite State.integ, apply_ite State.tap, apply_ite State.pending]; done) | (simp_all [apply_ite State.clk, apply_ite State.boot, apply_ite State.dram, apply_ite State.pads, apply_ite State.integ, apply_ite State.tap, apply_ite State.pending]; done)))
    | (dsimp only; (repeat' apply And.intro) <;> (repeat' split) <;> (first | (simp [apply_ite State.clk, apply_ite State.boot, apply_ite State.dram, apply_ite State.pads, apply_ite State.integ, apply_ite State.tap, apply_ite State.pending]; done) | (simp_all [apply_ite State.clk, apply_ite State.boot, apply_ite State.dram, apply_ite State.pads, apply_ite State.integ, apply_ite State.tap, apply_ite State.pending]; done)))
@[simp] theorem frame_execReadFail (f : Frame) (s : State) :
    (after (execReadFail f s) s).clk = s.clk ∧ (after (execReadFail f s) s).boot = s.boot ∧ (after (execReadFail f s) s).dram = s.dram ∧ (after (execReadFail f s) s).pads = s.pads ∧ (after (execReadFail f s) s).integ = s.integ ∧ (after (execReadFail f s) s).tap = s.tap ∧ (after (execReadFail f s) s).pending = s.pending := by
  unfold execReadFail
  first
    | (simp [apply_ite State.clk, apply_ite State.boot, apply_ite State.dram, apply_ite State.pads, apply_ite State.integ, apply_ite State.tap, apply_ite State.pending]; done)
    | ((repeat' split) <;> (first | (simp [apply_ite State.clk, apply_ite State.boot, apply_ite State.dram, apply_ite State.pads, apply_ite State.integ, apply_ite State.tap, apply_ite State.pending]; done) | (simp_all [apply_ite State.clk, apply_ite State.boot, apply_ite State.dram, apply_ite State.pads, apply_ite State.integ, apply_ite State.tap, apply_ite State.pending]; done)))
    | (dsimp only; (repeat' apply And.intro) <;> (repeat' split) <;> (first | (simp [apply_ite State.clk, apply_ite State.boot, apply_ite State.dram, apply_ite State.pads, apply_ite State.integ, apply_ite State.tap, apply_ite State.pending]; done) | (simp_all [apply_ite State.clk, apply_ite State.boot, apply_ite State.dram, apply_ite State.pads, apply_ite State.integ, apply_ite State.tap, apply_ite State.pending]; done)))
@[simp] theorem frame_execSherdRefused (f : Frame) (s : State) :
    (after (execSherdRefused f s) s).clk = s.clk ∧ (after (execSherdRefused f s) s).boot = s.boot ∧ (after (execSherdRefused f s) s).dram = s.dram ∧ (after (execSherdRefused f s) s).pads = s.pads ∧ (after (execSherdRefused f s) s).integ = s.integ ∧ (after (execSherdRefused f s) s).tap = s.tap ∧ (after (execSherdRefused f s) s).pending = s.pending := by
  unfold execSherdRefused
  first
    | (simp [apply_ite State.clk, apply_ite State.boot, apply_ite State.dram, apply_ite State.pads, apply_ite State.integ, apply_ite State.tap, apply_ite State.pending]; done)
    | ((repeat' split) <;> (first | (simp [apply_ite State.clk, apply_ite State.boot, apply_ite State.dram, apply_ite State.pads, apply_ite State.integ, apply_ite State.tap, apply_ite State.pending]; done) | (simp_all [apply_ite State.clk, apply_ite State.boot, apply_ite State.dram, apply_ite State.pads, apply_ite State.integ, apply_ite State.tap, apply_ite State.pending]; done)))
    | (dsimp only; (repeat' apply And.intro) <;> (repeat' split) <;> (first | (simp [apply_ite State.clk, apply_ite State.boot, apply_ite State.dram, apply_ite State.pads, apply_ite State.integ, apply_ite State.tap, apply_ite State.pending]; done) | (simp_all [apply_ite State.clk, apply_ite State.boot, apply_ite State.dram, apply_ite State.pads, apply_ite State.integ, apply_ite State.tap, apply_ite State.pending]; done)))
@[simp] theorem frame_execClaimAcknowledgement (f : Frame) (s : State) :
    (after (execClaimAcknowledgement f s) s).clk = s.clk ∧ (after (execClaimAcknowledgement f s) s).boot = s.boot ∧ (after (execClaimAcknowledgement f s) s).dram = s.dram ∧ (after (execClaimAcknowledgement f s) s).pads = s.pads ∧ (after (execClaimAcknowledgement f s) s).integ = s.integ ∧ (after (execClaimAcknowledgement f s) s).tap = s.tap ∧ (after (execClaimAcknowledgement f s) s).pending = s.pending := by
  unfold execClaimAcknowledgement
  first
    | (simp [apply_ite State.clk, apply_ite State.boot, apply_ite State.dram, apply_ite State.pads, apply_ite State.integ, apply_ite State.tap, apply_ite State.pending]; done)
    | ((repeat' split) <;> (first | (simp [apply_ite State.clk, apply_ite State.boot, apply_ite State.dram, apply_ite State.pads, apply_ite State.integ, apply_ite State.tap, apply_ite State.pending]; done) | (simp_all [apply_ite State.clk, apply_ite State.boot, apply_ite State.dram, apply_ite State.pads, apply_ite State.integ, apply_ite State.tap, apply_ite State.pending]; done)))
    | (dsimp only; (repeat' apply And.intro) <;> (repeat' split) <;> (first | (simp [apply_ite State.clk, apply_ite State.boot, apply_ite State.dram, apply_ite State.pads, apply_ite State.integ, apply_ite State.tap, apply_ite State.pending]; done) | (simp_all [apply_ite State.clk, apply_ite State.boot, apply_ite State.dram, apply_ite State.pads, apply_ite State.integ, apply_ite State.tap, apply_ite State.pending]; done)))
@[simp] theorem frame_execMemberStateRecord (f : Frame) (r : ViewRec) (s : State) :
    (after (execMemberStateRecord f r s) s).clk = s.clk ∧ (after (execMemberStateRecord f r s) s).boot = s.boot ∧ (after (execMemberStateRecord f r s) s).dram = s.dram ∧ (after (execMemberStateRecord f r s) s).pads = s.pads ∧ (after (execMemberStateRecord f r s) s).integ = s.integ ∧ (after (execMemberStateRecord f r s) s).tap = s.tap ∧ (after (execMemberStateRecord f r s) s).pending = s.pending := by
  unfold execMemberStateRecord
  first
    | (simp [apply_ite State.clk, apply_ite State.boot, apply_ite State.dram, apply_ite State.pads, apply_ite State.integ, apply_ite State.tap, apply_ite State.pending]; done)
    | ((repeat' split) <;> (first | (simp [apply_ite State.clk, apply_ite State.boot, apply_ite State.dram, apply_ite State.pads, apply_ite State.integ, apply_ite State.tap, apply_ite State.pending]; done) | (simp_all [apply_ite State.clk, apply_ite State.boot, apply_ite State.dram, apply_ite State.pads, apply_ite State.integ, apply_ite State.tap, apply_ite State.pending]; done)))
    | (dsimp only; (repeat' apply And.intro) <;> (repeat' split) <;> (first | (simp [apply_ite State.clk, apply_ite State.boot, apply_ite State.dram, apply_ite State.pads, apply_ite State.integ, apply_ite State.tap, apply_ite State.pending]; done) | (simp_all [apply_ite State.clk, apply_ite State.boot, apply_ite State.dram, apply_ite State.pads, apply_ite State.integ, apply_ite State.tap, apply_ite State.pending]; done)))
@[simp] theorem frame_execAdmissionDemand (f : Frame) (demand : Nat) (s : State) :
    (after (execAdmissionDemand f demand s) s).clk = s.clk ∧ (after (execAdmissionDemand f demand s) s).boot = s.boot ∧ (after (execAdmissionDemand f demand s) s).dram = s.dram ∧ (after (execAdmissionDemand f demand s) s).pads = s.pads ∧ (after (execAdmissionDemand f demand s) s).integ = s.integ ∧ (after (execAdmissionDemand f demand s) s).tap = s.tap ∧ (after (execAdmissionDemand f demand s) s).pending = s.pending := by
  unfold execAdmissionDemand
  first
    | (simp [apply_ite State.clk, apply_ite State.boot, apply_ite State.dram, apply_ite State.pads, apply_ite State.integ, apply_ite State.tap, apply_ite State.pending]; done)
    | ((repeat' split) <;> (first | (simp [apply_ite State.clk, apply_ite State.boot, apply_ite State.dram, apply_ite State.pads, apply_ite State.integ, apply_ite State.tap, apply_ite State.pending]; done) | (simp_all [apply_ite State.clk, apply_ite State.boot, apply_ite State.dram, apply_ite State.pads, apply_ite State.integ, apply_ite State.tap, apply_ite State.pending]; done)))
    | (dsimp only; (repeat' apply And.intro) <;> (repeat' split) <;> (first | (simp [apply_ite State.clk, apply_ite State.boot, apply_ite State.dram, apply_ite State.pads, apply_ite State.integ, apply_ite State.tap, apply_ite State.pending]; done) | (simp_all [apply_ite State.clk, apply_ite State.boot, apply_ite State.dram, apply_ite State.pads, apply_ite State.integ, apply_ite State.tap, apply_ite State.pending]; done)))
@[simp] theorem frame_execAdmissionRequest (f : Frame) (request : Nat) (s : State) :
    (after (execAdmissionRequest f request s) s).clk = s.clk ∧ (after (execAdmissionRequest f request s) s).boot = s.boot ∧ (after (execAdmissionRequest f request s) s).dram = s.dram ∧ (after (execAdmissionRequest f request s) s).pads = s.pads ∧ (after (execAdmissionRequest f request s) s).integ = s.integ ∧ (after (execAdmissionRequest f request s) s).tap = s.tap ∧ (after (execAdmissionRequest f request s) s).pending = s.pending := by
  unfold execAdmissionRequest
  first
    | (simp [apply_ite State.clk, apply_ite State.boot, apply_ite State.dram, apply_ite State.pads, apply_ite State.integ, apply_ite State.tap, apply_ite State.pending]; done)
    | ((repeat' split) <;> (first | (simp [apply_ite State.clk, apply_ite State.boot, apply_ite State.dram, apply_ite State.pads, apply_ite State.integ, apply_ite State.tap, apply_ite State.pending]; done) | (simp_all [apply_ite State.clk, apply_ite State.boot, apply_ite State.dram, apply_ite State.pads, apply_ite State.integ, apply_ite State.tap, apply_ite State.pending]; done)))
    | (dsimp only; (repeat' apply And.intro) <;> (repeat' split) <;> (first | (simp [apply_ite State.clk, apply_ite State.boot, apply_ite State.dram, apply_ite State.pads, apply_ite State.integ, apply_ite State.tap, apply_ite State.pending]; done) | (simp_all [apply_ite State.clk, apply_ite State.boot, apply_ite State.dram, apply_ite State.pads, apply_ite State.integ, apply_ite State.tap, apply_ite State.pending]; done)))
@[simp] theorem frame_execAdmissionGrant (f : Frame) (grant : Nat) (s : State) :
    (after (execAdmissionGrant f grant s) s).clk = s.clk ∧ (after (execAdmissionGrant f grant s) s).boot = s.boot ∧ (after (execAdmissionGrant f grant s) s).dram = s.dram ∧ (after (execAdmissionGrant f grant s) s).pads = s.pads ∧ (after (execAdmissionGrant f grant s) s).integ = s.integ ∧ (after (execAdmissionGrant f grant s) s).tap = s.tap ∧ (after (execAdmissionGrant f grant s) s).pending = s.pending := by
  unfold execAdmissionGrant
  first
    | (simp [apply_ite State.clk, apply_ite State.boot, apply_ite State.dram, apply_ite State.pads, apply_ite State.integ, apply_ite State.tap, apply_ite State.pending]; done)
    | ((repeat' split) <;> (first | (simp [apply_ite State.clk, apply_ite State.boot, apply_ite State.dram, apply_ite State.pads, apply_ite State.integ, apply_ite State.tap, apply_ite State.pending]; done) | (simp_all [apply_ite State.clk, apply_ite State.boot, apply_ite State.dram, apply_ite State.pads, apply_ite State.integ, apply_ite State.tap, apply_ite State.pending]; done)))
    | (dsimp only; (repeat' apply And.intro) <;> (repeat' split) <;> (first | (simp [apply_ite State.clk, apply_ite State.boot, apply_ite State.dram, apply_ite State.pads, apply_ite State.integ, apply_ite State.tap, apply_ite State.pending]; done) | (simp_all [apply_ite State.clk, apply_ite State.boot, apply_ite State.dram, apply_ite State.pads, apply_ite State.integ, apply_ite State.tap, apply_ite State.pending]; done)))
@[simp] theorem frame_execAdmissionRate (f : Frame) (rate : Nat) (s : State) :
    (after (execAdmissionRate f rate s) s).clk = s.clk ∧ (after (execAdmissionRate f rate s) s).boot = s.boot ∧ (after (execAdmissionRate f rate s) s).dram = s.dram ∧ (after (execAdmissionRate f rate s) s).pads = s.pads ∧ (after (execAdmissionRate f rate s) s).integ = s.integ ∧ (after (execAdmissionRate f rate s) s).tap = s.tap ∧ (after (execAdmissionRate f rate s) s).pending = s.pending := by
  unfold execAdmissionRate
  first
    | (simp [apply_ite State.clk, apply_ite State.boot, apply_ite State.dram, apply_ite State.pads, apply_ite State.integ, apply_ite State.tap, apply_ite State.pending]; done)
    | ((repeat' split) <;> (first | (simp [apply_ite State.clk, apply_ite State.boot, apply_ite State.dram, apply_ite State.pads, apply_ite State.integ, apply_ite State.tap, apply_ite State.pending]; done) | (simp_all [apply_ite State.clk, apply_ite State.boot, apply_ite State.dram, apply_ite State.pads, apply_ite State.integ, apply_ite State.tap, apply_ite State.pending]; done)))
    | (dsimp only; (repeat' apply And.intro) <;> (repeat' split) <;> (first | (simp [apply_ite State.clk, apply_ite State.boot, apply_ite State.dram, apply_ite State.pads, apply_ite State.integ, apply_ite State.tap, apply_ite State.pending]; done) | (simp_all [apply_ite State.clk, apply_ite State.boot, apply_ite State.dram, apply_ite State.pads, apply_ite State.integ, apply_ite State.tap, apply_ite State.pending]; done)))
@[simp] theorem frame_execForwardedOrder (f : Frame) (msg : OrderMsg) (s : State) :
    (after (execForwardedOrder f msg s) s).clk = s.clk ∧ (after (execForwardedOrder f msg s) s).boot = s.boot ∧ (after (execForwardedOrder f msg s) s).dram = s.dram ∧ (after (execForwardedOrder f msg s) s).pads = s.pads ∧ (after (execForwardedOrder f msg s) s).integ = s.integ ∧ (after (execForwardedOrder f msg s) s).tap = s.tap ∧ (after (execForwardedOrder f msg s) s).pending = s.pending := by
  unfold execForwardedOrder
  first
    | (simp [apply_ite State.clk, apply_ite State.boot, apply_ite State.dram, apply_ite State.pads, apply_ite State.integ, apply_ite State.tap, apply_ite State.pending]; done)
    | ((repeat' split) <;> (first | (simp [apply_ite State.clk, apply_ite State.boot, apply_ite State.dram, apply_ite State.pads, apply_ite State.integ, apply_ite State.tap, apply_ite State.pending]; done) | (simp_all [apply_ite State.clk, apply_ite State.boot, apply_ite State.dram, apply_ite State.pads, apply_ite State.integ, apply_ite State.tap, apply_ite State.pending]; done)))
    | (dsimp only; (repeat' apply And.intro) <;> (repeat' split) <;> (first | (simp [apply_ite State.clk, apply_ite State.boot, apply_ite State.dram, apply_ite State.pads, apply_ite State.integ, apply_ite State.tap, apply_ite State.pending]; done) | (simp_all [apply_ite State.clk, apply_ite State.boot, apply_ite State.dram, apply_ite State.pads, apply_ite State.integ, apply_ite State.tap, apply_ite State.pending]; done)))
@[simp] theorem frame_execAnchorRequest (f : Frame) (s : State) :
    (after (execAnchorRequest f s) s).clk = s.clk ∧ (after (execAnchorRequest f s) s).boot = s.boot ∧ (after (execAnchorRequest f s) s).dram = s.dram ∧ (after (execAnchorRequest f s) s).pads = s.pads ∧ (after (execAnchorRequest f s) s).integ = s.integ ∧ (after (execAnchorRequest f s) s).tap = s.tap ∧ (after (execAnchorRequest f s) s).pending = s.pending := by
  unfold execAnchorRequest
  first
    | (simp [apply_ite State.clk, apply_ite State.boot, apply_ite State.dram, apply_ite State.pads, apply_ite State.integ, apply_ite State.tap, apply_ite State.pending]; done)
    | ((repeat' split) <;> (first | (simp [apply_ite State.clk, apply_ite State.boot, apply_ite State.dram, apply_ite State.pads, apply_ite State.integ, apply_ite State.tap, apply_ite State.pending]; done) | (simp_all [apply_ite State.clk, apply_ite State.boot, apply_ite State.dram, apply_ite State.pads, apply_ite State.integ, apply_ite State.tap, apply_ite State.pending]; done)))
    | (dsimp only; (repeat' apply And.intro) <;> (repeat' split) <;> (first | (simp [apply_ite State.clk, apply_ite State.boot, apply_ite State.dram, apply_ite State.pads, apply_ite State.integ, apply_ite State.tap, apply_ite State.pending]; done) | (simp_all [apply_ite State.clk, apply_ite State.boot, apply_ite State.dram, apply_ite State.pads, apply_ite State.integ, apply_ite State.tap, apply_ite State.pending]; done)))
@[simp] theorem frame_execSecureDiscardMemberDone (f : Frame) (job : Nat) (report : SdReport) (s : State) :
    (after (execSecureDiscardMemberDone f job report s) s).clk = s.clk ∧ (after (execSecureDiscardMemberDone f job report s) s).boot = s.boot ∧ (after (execSecureDiscardMemberDone f job report s) s).dram = s.dram ∧ (after (execSecureDiscardMemberDone f job report s) s).pads = s.pads ∧ (after (execSecureDiscardMemberDone f job report s) s).integ = s.integ ∧ (after (execSecureDiscardMemberDone f job report s) s).tap = s.tap ∧ (after (execSecureDiscardMemberDone f job report s) s).pending = s.pending := by
  unfold execSecureDiscardMemberDone
  first
    | (simp [apply_ite State.clk, apply_ite State.boot, apply_ite State.dram, apply_ite State.pads, apply_ite State.integ, apply_ite State.tap, apply_ite State.pending]; done)
    | ((repeat' split) <;> (first | (simp [apply_ite State.clk, apply_ite State.boot, apply_ite State.dram, apply_ite State.pads, apply_ite State.integ, apply_ite State.tap, apply_ite State.pending]; done) | (simp_all [apply_ite State.clk, apply_ite State.boot, apply_ite State.dram, apply_ite State.pads, apply_ite State.integ, apply_ite State.tap, apply_ite State.pending]; done)))
    | (dsimp only; (repeat' apply And.intro) <;> (repeat' split) <;> (first | (simp [apply_ite State.clk, apply_ite State.boot, apply_ite State.dram, apply_ite State.pads, apply_ite State.integ, apply_ite State.tap, apply_ite State.pending]; done) | (simp_all [apply_ite State.clk, apply_ite State.boot, apply_ite State.dram, apply_ite State.pads, apply_ite State.integ, apply_ite State.tap, apply_ite State.pending]; done)))
@[simp] theorem frame_execRebaseControl (f : Frame) (msg : RebaseMsg) (s : State) :
    (after (execRebaseControl f msg s) s).clk = s.clk ∧ (after (execRebaseControl f msg s) s).boot = s.boot ∧ (after (execRebaseControl f msg s) s).dram = s.dram ∧ (after (execRebaseControl f msg s) s).pads = s.pads ∧ (after (execRebaseControl f msg s) s).integ = s.integ ∧ (after (execRebaseControl f msg s) s).tap = s.tap ∧ (after (execRebaseControl f msg s) s).pending = s.pending := by
  unfold execRebaseControl
  first
    | (simp [apply_ite State.clk, apply_ite State.boot, apply_ite State.dram, apply_ite State.pads, apply_ite State.integ, apply_ite State.tap, apply_ite State.pending]; done)
    | ((repeat' split) <;> (first | (simp [apply_ite State.clk, apply_ite State.boot, apply_ite State.dram, apply_ite State.pads, apply_ite State.integ, apply_ite State.tap, apply_ite State.pending]; done) | (simp_all [apply_ite State.clk, apply_ite State.boot, apply_ite State.dram, apply_ite State.pads, apply_ite State.integ, apply_ite State.tap, apply_ite State.pending]; done)))
    | (dsimp only; (repeat' apply And.intro) <;> (repeat' split) <;> (first | (simp [apply_ite State.clk, apply_ite State.boot, apply_ite State.dram, apply_ite State.pads, apply_ite State.integ, apply_ite State.tap, apply_ite State.pending]; done) | (simp_all [apply_ite State.clk, apply_ite State.boot, apply_ite State.dram, apply_ite State.pads, apply_ite State.integ, apply_ite State.tap, apply_ite State.pending]; done)))
@[simp] theorem frame_execIdentify (m : Mbx) (s : State) :
    (after (execIdentify m s) s).clk = s.clk ∧ (after (execIdentify m s) s).boot = s.boot ∧ (after (execIdentify m s) s).dram = s.dram ∧ (after (execIdentify m s) s).pads = s.pads ∧ (after (execIdentify m s) s).integ = s.integ ∧ (after (execIdentify m s) s).tap = s.tap ∧ (after (execIdentify m s) s).pending = s.pending := by
  unfold execIdentify
  first
    | (simp [apply_ite State.clk, apply_ite State.boot, apply_ite State.dram, apply_ite State.pads, apply_ite State.integ, apply_ite State.tap, apply_ite State.pending]; done)
    | ((repeat' split) <;> (first | (simp [apply_ite State.clk, apply_ite State.boot, apply_ite State.dram, apply_ite State.pads, apply_ite State.integ, apply_ite State.tap, apply_ite State.pending]; done) | (simp_all [apply_ite State.clk, apply_ite State.boot, apply_ite State.dram, apply_ite State.pads, apply_ite State.integ, apply_ite State.tap, apply_ite State.pending]; done)))
    | (dsimp only; (repeat' apply And.intro) <;> (repeat' split) <;> (first | (simp [apply_ite State.clk, apply_ite State.boot, apply_ite State.dram, apply_ite State.pads, apply_ite State.integ, apply_ite State.tap, apply_ite State.pending]; done) | (simp_all [apply_ite State.clk, apply_ite State.boot, apply_ite State.dram, apply_ite State.pads, apply_ite State.integ, apply_ite State.tap, apply_ite State.pending]; done)))
@[simp] theorem frame_execDeviceStatus (m : Mbx) (s : State) :
    (after (execDeviceStatus m s) s).clk = s.clk ∧ (after (execDeviceStatus m s) s).boot = s.boot ∧ (after (execDeviceStatus m s) s).dram = s.dram ∧ (after (execDeviceStatus m s) s).pads = s.pads ∧ (after (execDeviceStatus m s) s).integ = s.integ ∧ (after (execDeviceStatus m s) s).tap = s.tap ∧ (after (execDeviceStatus m s) s).pending = s.pending := by
  unfold execDeviceStatus
  first
    | (simp [apply_ite State.clk, apply_ite State.boot, apply_ite State.dram, apply_ite State.pads, apply_ite State.integ, apply_ite State.tap, apply_ite State.pending]; done)
    | ((repeat' split) <;> (first | (simp [apply_ite State.clk, apply_ite State.boot, apply_ite State.dram, apply_ite State.pads, apply_ite State.integ, apply_ite State.tap, apply_ite State.pending]; done) | (simp_all [apply_ite State.clk, apply_ite State.boot, apply_ite State.dram, apply_ite State.pads, apply_ite State.integ, apply_ite State.tap, apply_ite State.pending]; done)))
    | (dsimp only; (repeat' apply And.intro) <;> (repeat' split) <;> (first | (simp [apply_ite State.clk, apply_ite State.boot, apply_ite State.dram, apply_ite State.pads, apply_ite State.integ, apply_ite State.tap, apply_ite State.pending]; done) | (simp_all [apply_ite State.clk, apply_ite State.boot, apply_ite State.dram, apply_ite State.pads, apply_ite State.integ, apply_ite State.tap, apply_ite State.pending]; done)))
@[simp] theorem frame_execSessionReset (m : Mbx) (s : State) :
    (after (execSessionReset m s) s).clk = s.clk ∧ (after (execSessionReset m s) s).boot = s.boot ∧ (after (execSessionReset m s) s).dram = s.dram ∧ (after (execSessionReset m s) s).pads = s.pads ∧ (after (execSessionReset m s) s).tap = s.tap ∧ (after (execSessionReset m s) s).pending = s.pending := by
  unfold execSessionReset
  first
    | (simp [apply_ite State.clk, apply_ite State.boot, apply_ite State.dram, apply_ite State.pads, apply_ite State.tap, apply_ite State.pending]; done)
    | ((repeat' split) <;> (first | (simp [apply_ite State.clk, apply_ite State.boot, apply_ite State.dram, apply_ite State.pads, apply_ite State.tap, apply_ite State.pending]; done) | (simp_all [apply_ite State.clk, apply_ite State.boot, apply_ite State.dram, apply_ite State.pads, apply_ite State.tap, apply_ite State.pending]; done)))
    | (dsimp only; (repeat' apply And.intro) <;> (repeat' split) <;> (first | (simp [apply_ite State.clk, apply_ite State.boot, apply_ite State.dram, apply_ite State.pads, apply_ite State.tap, apply_ite State.pending]; done) | (simp_all [apply_ite State.clk, apply_ite State.boot, apply_ite State.dram, apply_ite State.pads, apply_ite State.tap, apply_ite State.pending]; done)))
@[simp] theorem frame_execTimePin (m : Mbx) (s : State) :
    (after (execTimePin m s) s).boot = s.boot ∧ (after (execTimePin m s) s).dram = s.dram ∧ (after (execTimePin m s) s).pads = s.pads ∧ (after (execTimePin m s) s).integ = s.integ ∧ (after (execTimePin m s) s).tap = s.tap ∧ (after (execTimePin m s) s).pending = s.pending := by
  unfold execTimePin
  (repeat' apply And.intro) <;> (first | apply after_onRequest_clk | apply after_onRequest_boot | apply after_onRequest_dram | apply after_onRequest_pads | apply after_onRequest_integ | apply after_onRequest_tap | apply after_onRequest_pending) <;>
    intro r <;> (try dsimp only) <;> (repeat' split) <;> simp
@[simp] theorem frame_execTimeQuery (m : Mbx) (s : State) :
    (after (execTimeQuery m s) s).clk = s.clk ∧ (after (execTimeQuery m s) s).boot = s.boot ∧ (after (execTimeQuery m s) s).dram = s.dram ∧ (after (execTimeQuery m s) s).pads = s.pads ∧ (after (execTimeQuery m s) s).integ = s.integ ∧ (after (execTimeQuery m s) s).tap = s.tap ∧ (after (execTimeQuery m s) s).pending = s.pending := by
  unfold execTimeQuery
  first
    | (simp [apply_ite State.clk, apply_ite State.boot, apply_ite State.dram, apply_ite State.pads, apply_ite State.integ, apply_ite State.tap, apply_ite State.pending]; done)
    | ((repeat' split) <;> (first | (simp [apply_ite State.clk, apply_ite State.boot, apply_ite State.dram, apply_ite State.pads, apply_ite State.integ, apply_ite State.tap, apply_ite State.pending]; done) | (simp_all [apply_ite State.clk, apply_ite State.boot, apply_ite State.dram, apply_ite State.pads, apply_ite State.integ, apply_ite State.tap, apply_ite State.pending]; done)))
    | (dsimp only; (repeat' apply And.intro) <;> (repeat' split) <;> (first | (simp [apply_ite State.clk, apply_ite State.boot, apply_ite State.dram, apply_ite State.pads, apply_ite State.integ, apply_ite State.tap, apply_ite State.pending]; done) | (simp_all [apply_ite State.clk, apply_ite State.boot, apply_ite State.dram, apply_ite State.pads, apply_ite State.integ, apply_ite State.tap, apply_ite State.pending]; done)))
@[simp] theorem frame_execPoolQuery (m : Mbx) (s : State) :
    (after (execPoolQuery m s) s).clk = s.clk ∧ (after (execPoolQuery m s) s).boot = s.boot ∧ (after (execPoolQuery m s) s).dram = s.dram ∧ (after (execPoolQuery m s) s).pads = s.pads ∧ (after (execPoolQuery m s) s).integ = s.integ ∧ (after (execPoolQuery m s) s).tap = s.tap ∧ (after (execPoolQuery m s) s).pending = s.pending := by
  unfold execPoolQuery
  (repeat' apply And.intro) <;> (first | apply after_onRequest_clk | apply after_onRequest_boot | apply after_onRequest_dram | apply after_onRequest_pads | apply after_onRequest_integ | apply after_onRequest_tap | apply after_onRequest_pending) <;>
    intro r <;> (try dsimp only) <;> (repeat' split) <;> simp
@[simp] theorem frame_execPoolList (m : Mbx) (s : State) :
    (after (execPoolList m s) s).clk = s.clk ∧ (after (execPoolList m s) s).boot = s.boot ∧ (after (execPoolList m s) s).dram = s.dram ∧ (after (execPoolList m s) s).pads = s.pads ∧ (after (execPoolList m s) s).integ = s.integ ∧ (after (execPoolList m s) s).tap = s.tap ∧ (after (execPoolList m s) s).pending = s.pending := by
  unfold execPoolList
  first
    | (simp [apply_ite State.clk, apply_ite State.boot, apply_ite State.dram, apply_ite State.pads, apply_ite State.integ, apply_ite State.tap, apply_ite State.pending]; done)
    | ((repeat' split) <;> (first | (simp [apply_ite State.clk, apply_ite State.boot, apply_ite State.dram, apply_ite State.pads, apply_ite State.integ, apply_ite State.tap, apply_ite State.pending]; done) | (simp_all [apply_ite State.clk, apply_ite State.boot, apply_ite State.dram, apply_ite State.pads, apply_ite State.integ, apply_ite State.tap, apply_ite State.pending]; done)))
    | (dsimp only; (repeat' apply And.intro) <;> (repeat' split) <;> (first | (simp [apply_ite State.clk, apply_ite State.boot, apply_ite State.dram, apply_ite State.pads, apply_ite State.integ, apply_ite State.tap, apply_ite State.pending]; done) | (simp_all [apply_ite State.clk, apply_ite State.boot, apply_ite State.dram, apply_ite State.pads, apply_ite State.integ, apply_ite State.tap, apply_ite State.pending]; done)))
@[simp] theorem frame_execReshapeStatus (m : Mbx) (s : State) :
    (after (execReshapeStatus m s) s).clk = s.clk ∧ (after (execReshapeStatus m s) s).boot = s.boot ∧ (after (execReshapeStatus m s) s).dram = s.dram ∧ (after (execReshapeStatus m s) s).pads = s.pads ∧ (after (execReshapeStatus m s) s).integ = s.integ ∧ (after (execReshapeStatus m s) s).tap = s.tap ∧ (after (execReshapeStatus m s) s).pending = s.pending := by
  unfold execReshapeStatus
  (repeat' apply And.intro) <;> (first | apply after_onRequest_clk | apply after_onRequest_boot | apply after_onRequest_dram | apply after_onRequest_pads | apply after_onRequest_integ | apply after_onRequest_tap | apply after_onRequest_pending) <;>
    intro r <;> (try dsimp only) <;> (repeat' split) <;> simp
@[simp] theorem frame_execSecureDiscardStatus (m : Mbx) (s : State) :
    (after (execSecureDiscardStatus m s) s).clk = s.clk ∧ (after (execSecureDiscardStatus m s) s).boot = s.boot ∧ (after (execSecureDiscardStatus m s) s).dram = s.dram ∧ (after (execSecureDiscardStatus m s) s).pads = s.pads ∧ (after (execSecureDiscardStatus m s) s).integ = s.integ ∧ (after (execSecureDiscardStatus m s) s).tap = s.tap ∧ (after (execSecureDiscardStatus m s) s).pending = s.pending := by
  unfold execSecureDiscardStatus
  (repeat' apply And.intro) <;> (first | apply after_onRequest_clk | apply after_onRequest_boot | apply after_onRequest_dram | apply after_onRequest_pads | apply after_onRequest_integ | apply after_onRequest_tap | apply after_onRequest_pending) <;>
    intro r <;> (try dsimp only) <;> (repeat' split) <;> simp
@[simp] theorem frame_execQueueQuery (m : Mbx) (s : State) :
    (after (execQueueQuery m s) s).clk = s.clk ∧ (after (execQueueQuery m s) s).boot = s.boot ∧ (after (execQueueQuery m s) s).dram = s.dram ∧ (after (execQueueQuery m s) s).pads = s.pads ∧ (after (execQueueQuery m s) s).integ = s.integ ∧ (after (execQueueQuery m s) s).tap = s.tap ∧ (after (execQueueQuery m s) s).pending = s.pending := by
  unfold execQueueQuery
  first
    | (simp [apply_ite State.clk, apply_ite State.boot, apply_ite State.dram, apply_ite State.pads, apply_ite State.integ, apply_ite State.tap, apply_ite State.pending]; done)
    | ((repeat' split) <;> (first | (simp [apply_ite State.clk, apply_ite State.boot, apply_ite State.dram, apply_ite State.pads, apply_ite State.integ, apply_ite State.tap, apply_ite State.pending]; done) | (simp_all [apply_ite State.clk, apply_ite State.boot, apply_ite State.dram, apply_ite State.pads, apply_ite State.integ, apply_ite State.tap, apply_ite State.pending]; done)))
    | (dsimp only; (repeat' apply And.intro) <;> (repeat' split) <;> (first | (simp [apply_ite State.clk, apply_ite State.boot, apply_ite State.dram, apply_ite State.pads, apply_ite State.integ, apply_ite State.tap, apply_ite State.pending]; done) | (simp_all [apply_ite State.clk, apply_ite State.boot, apply_ite State.dram, apply_ite State.pads, apply_ite State.integ, apply_ite State.tap, apply_ite State.pending]; done)))
@[simp] theorem frame_execQueueStats (m : Mbx) (s : State) :
    (after (execQueueStats m s) s).clk = s.clk ∧ (after (execQueueStats m s) s).boot = s.boot ∧ (after (execQueueStats m s) s).dram = s.dram ∧ (after (execQueueStats m s) s).pads = s.pads ∧ (after (execQueueStats m s) s).integ = s.integ ∧ (after (execQueueStats m s) s).tap = s.tap ∧ (after (execQueueStats m s) s).pending = s.pending := by
  unfold execQueueStats
  first
    | (simp [apply_ite State.clk, apply_ite State.boot, apply_ite State.dram, apply_ite State.pads, apply_ite State.integ, apply_ite State.tap, apply_ite State.pending]; done)
    | ((repeat' split) <;> (first | (simp [apply_ite State.clk, apply_ite State.boot, apply_ite State.dram, apply_ite State.pads, apply_ite State.integ, apply_ite State.tap, apply_ite State.pending]; done) | (simp_all [apply_ite State.clk, apply_ite State.boot, apply_ite State.dram, apply_ite State.pads, apply_ite State.integ, apply_ite State.tap, apply_ite State.pending]; done)))
    | (dsimp only; (repeat' apply And.intro) <;> (repeat' split) <;> (first | (simp [apply_ite State.clk, apply_ite State.boot, apply_ite State.dram, apply_ite State.pads, apply_ite State.integ, apply_ite State.tap, apply_ite State.pending]; done) | (simp_all [apply_ite State.clk, apply_ite State.boot, apply_ite State.dram, apply_ite State.pads, apply_ite State.integ, apply_ite State.tap, apply_ite State.pending]; done)))
@[simp] theorem frame_execParamPageGet (m : Mbx) (s : State) :
    (after (execParamPageGet m s) s).clk = s.clk ∧ (after (execParamPageGet m s) s).boot = s.boot ∧ (after (execParamPageGet m s) s).dram = s.dram ∧ (after (execParamPageGet m s) s).pads = s.pads ∧ (after (execParamPageGet m s) s).integ = s.integ ∧ (after (execParamPageGet m s) s).tap = s.tap ∧ (after (execParamPageGet m s) s).pending = s.pending := by
  unfold execParamPageGet
  first
    | (simp [apply_ite State.clk, apply_ite State.boot, apply_ite State.dram, apply_ite State.pads, apply_ite State.integ, apply_ite State.tap, apply_ite State.pending]; done)
    | ((repeat' split) <;> (first | (simp [apply_ite State.clk, apply_ite State.boot, apply_ite State.dram, apply_ite State.pads, apply_ite State.integ, apply_ite State.tap, apply_ite State.pending]; done) | (simp_all [apply_ite State.clk, apply_ite State.boot, apply_ite State.dram, apply_ite State.pads, apply_ite State.integ, apply_ite State.tap, apply_ite State.pending]; done)))
    | (dsimp only; (repeat' apply And.intro) <;> (repeat' split) <;> (first | (simp [apply_ite State.clk, apply_ite State.boot, apply_ite State.dram, apply_ite State.pads, apply_ite State.integ, apply_ite State.tap, apply_ite State.pending]; done) | (simp_all [apply_ite State.clk, apply_ite State.boot, apply_ite State.dram, apply_ite State.pads, apply_ite State.integ, apply_ite State.tap, apply_ite State.pending]; done)))
@[simp] theorem frame_execParamSet (m : Mbx) (s : State) :
    (after (execParamSet m s) s).clk = s.clk ∧ (after (execParamSet m s) s).boot = s.boot ∧ (after (execParamSet m s) s).dram = s.dram ∧ (after (execParamSet m s) s).pads = s.pads ∧ (after (execParamSet m s) s).integ = s.integ ∧ (after (execParamSet m s) s).tap = s.tap ∧ (after (execParamSet m s) s).pending = s.pending := by
  unfold execParamSet
  first
    | (simp [apply_ite State.clk, apply_ite State.boot, apply_ite State.dram, apply_ite State.pads, apply_ite State.integ, apply_ite State.tap, apply_ite State.pending]; done)
    | ((repeat' split) <;> (first | (simp [apply_ite State.clk, apply_ite State.boot, apply_ite State.dram, apply_ite State.pads, apply_ite State.integ, apply_ite State.tap, apply_ite State.pending]; done) | (simp_all [apply_ite State.clk, apply_ite State.boot, apply_ite State.dram, apply_ite State.pads, apply_ite State.integ, apply_ite State.tap, apply_ite State.pending]; done)))
    | (dsimp only; (repeat' apply And.intro) <;> (repeat' split) <;> (first | (simp [apply_ite State.clk, apply_ite State.boot, apply_ite State.dram, apply_ite State.pads, apply_ite State.integ, apply_ite State.tap, apply_ite State.pending]; done) | (simp_all [apply_ite State.clk, apply_ite State.boot, apply_ite State.dram, apply_ite State.pads, apply_ite State.integ, apply_ite State.tap, apply_ite State.pending]; done)))
@[simp] theorem frame_execParamDefault (m : Mbx) (s : State) :
    (after (execParamDefault m s) s).clk = s.clk ∧ (after (execParamDefault m s) s).boot = s.boot ∧ (after (execParamDefault m s) s).dram = s.dram ∧ (after (execParamDefault m s) s).pads = s.pads ∧ (after (execParamDefault m s) s).integ = s.integ ∧ (after (execParamDefault m s) s).tap = s.tap ∧ (after (execParamDefault m s) s).pending = s.pending := by
  unfold execParamDefault
  first
    | (simp [apply_ite State.clk, apply_ite State.boot, apply_ite State.dram, apply_ite State.pads, apply_ite State.integ, apply_ite State.tap, apply_ite State.pending]; done)
    | ((repeat' split) <;> (first | (simp [apply_ite State.clk, apply_ite State.boot, apply_ite State.dram, apply_ite State.pads, apply_ite State.integ, apply_ite State.tap, apply_ite State.pending]; done) | (simp_all [apply_ite State.clk, apply_ite State.boot, apply_ite State.dram, apply_ite State.pads, apply_ite State.integ, apply_ite State.tap, apply_ite State.pending]; done)))
    | (dsimp only; (repeat' apply And.intro) <;> (repeat' split) <;> (first | (simp [apply_ite State.clk, apply_ite State.boot, apply_ite State.dram, apply_ite State.pads, apply_ite State.integ, apply_ite State.tap, apply_ite State.pending]; done) | (simp_all [apply_ite State.clk, apply_ite State.boot, apply_ite State.dram, apply_ite State.pads, apply_ite State.integ, apply_ite State.tap, apply_ite State.pending]; done)))
@[simp] theorem frame_execStrandlineRead (m : Mbx) (s : State) :
    (after (execStrandlineRead m s) s).clk = s.clk ∧ (after (execStrandlineRead m s) s).boot = s.boot ∧ (after (execStrandlineRead m s) s).dram = s.dram ∧ (after (execStrandlineRead m s) s).pads = s.pads ∧ (after (execStrandlineRead m s) s).integ = s.integ ∧ (after (execStrandlineRead m s) s).tap = s.tap ∧ (after (execStrandlineRead m s) s).pending = s.pending := by
  unfold execStrandlineRead
  first
    | (simp [apply_ite State.clk, apply_ite State.boot, apply_ite State.dram, apply_ite State.pads, apply_ite State.integ, apply_ite State.tap, apply_ite State.pending]; done)
    | ((repeat' split) <;> (first | (simp [apply_ite State.clk, apply_ite State.boot, apply_ite State.dram, apply_ite State.pads, apply_ite State.integ, apply_ite State.tap, apply_ite State.pending]; done) | (simp_all [apply_ite State.clk, apply_ite State.boot, apply_ite State.dram, apply_ite State.pads, apply_ite State.integ, apply_ite State.tap, apply_ite State.pending]; done)))
    | (dsimp only; (repeat' apply And.intro) <;> (repeat' split) <;> (first | (simp [apply_ite State.clk, apply_ite State.boot, apply_ite State.dram, apply_ite State.pads, apply_ite State.integ, apply_ite State.tap, apply_ite State.pending]; done) | (simp_all [apply_ite State.clk, apply_ite State.boot, apply_ite State.dram, apply_ite State.pads, apply_ite State.integ, apply_ite State.tap, apply_ite State.pending]; done)))
@[simp] theorem frame_execErrorLogRead (m : Mbx) (s : State) :
    (after (execErrorLogRead m s) s).clk = s.clk ∧ (after (execErrorLogRead m s) s).boot = s.boot ∧ (after (execErrorLogRead m s) s).dram = s.dram ∧ (after (execErrorLogRead m s) s).pads = s.pads ∧ (after (execErrorLogRead m s) s).integ = s.integ ∧ (after (execErrorLogRead m s) s).tap = s.tap ∧ (after (execErrorLogRead m s) s).pending = s.pending := by
  unfold execErrorLogRead
  first
    | (simp [apply_ite State.clk, apply_ite State.boot, apply_ite State.dram, apply_ite State.pads, apply_ite State.integ, apply_ite State.tap, apply_ite State.pending]; done)
    | ((repeat' split) <;> (first | (simp [apply_ite State.clk, apply_ite State.boot, apply_ite State.dram, apply_ite State.pads, apply_ite State.integ, apply_ite State.tap, apply_ite State.pending]; done) | (simp_all [apply_ite State.clk, apply_ite State.boot, apply_ite State.dram, apply_ite State.pads, apply_ite State.integ, apply_ite State.tap, apply_ite State.pending]; done)))
    | (dsimp only; (repeat' apply And.intro) <;> (repeat' split) <;> (first | (simp [apply_ite State.clk, apply_ite State.boot, apply_ite State.dram, apply_ite State.pads, apply_ite State.integ, apply_ite State.tap, apply_ite State.pending]; done) | (simp_all [apply_ite State.clk, apply_ite State.boot, apply_ite State.dram, apply_ite State.pads, apply_ite State.integ, apply_ite State.tap, apply_ite State.pending]; done)))
@[simp] theorem frame_execErrorLogClear (m : Mbx) (s : State) :
    (after (execErrorLogClear m s) s).clk = s.clk ∧ (after (execErrorLogClear m s) s).boot = s.boot ∧ (after (execErrorLogClear m s) s).dram = s.dram ∧ (after (execErrorLogClear m s) s).pads = s.pads ∧ (after (execErrorLogClear m s) s).integ = s.integ ∧ (after (execErrorLogClear m s) s).tap = s.tap ∧ (after (execErrorLogClear m s) s).pending = s.pending := by
  unfold execErrorLogClear
  first
    | (simp [apply_ite State.clk, apply_ite State.boot, apply_ite State.dram, apply_ite State.pads, apply_ite State.integ, apply_ite State.tap, apply_ite State.pending]; done)
    | ((repeat' split) <;> (first | (simp [apply_ite State.clk, apply_ite State.boot, apply_ite State.dram, apply_ite State.pads, apply_ite State.integ, apply_ite State.tap, apply_ite State.pending]; done) | (simp_all [apply_ite State.clk, apply_ite State.boot, apply_ite State.dram, apply_ite State.pads, apply_ite State.integ, apply_ite State.tap, apply_ite State.pending]; done)))
    | (dsimp only; (repeat' apply And.intro) <;> (repeat' split) <;> (first | (simp [apply_ite State.clk, apply_ite State.boot, apply_ite State.dram, apply_ite State.pads, apply_ite State.integ, apply_ite State.tap, apply_ite State.pending]; done) | (simp_all [apply_ite State.clk, apply_ite State.boot, apply_ite State.dram, apply_ite State.pads, apply_ite State.integ, apply_ite State.tap, apply_ite State.pending]; done)))
@[simp] theorem frame_execCountersRead (m : Mbx) (s : State) :
    (after (execCountersRead m s) s).clk = s.clk ∧ (after (execCountersRead m s) s).boot = s.boot ∧ (after (execCountersRead m s) s).dram = s.dram ∧ (after (execCountersRead m s) s).integ = s.integ ∧ (after (execCountersRead m s) s).tap = s.tap ∧ (after (execCountersRead m s) s).pending = s.pending := by
  unfold execCountersRead
  first
    | (simp [apply_ite State.clk, apply_ite State.boot, apply_ite State.dram, apply_ite State.integ, apply_ite State.tap, apply_ite State.pending]; done)
    | ((repeat' split) <;> (first | (simp [apply_ite State.clk, apply_ite State.boot, apply_ite State.dram, apply_ite State.integ, apply_ite State.tap, apply_ite State.pending]; done) | (simp_all [apply_ite State.clk, apply_ite State.boot, apply_ite State.dram, apply_ite State.integ, apply_ite State.tap, apply_ite State.pending]; done)))
    | (dsimp only; (repeat' apply And.intro) <;> (repeat' split) <;> (first | (simp [apply_ite State.clk, apply_ite State.boot, apply_ite State.dram, apply_ite State.integ, apply_ite State.tap, apply_ite State.pending]; done) | (simp_all [apply_ite State.clk, apply_ite State.boot, apply_ite State.dram, apply_ite State.integ, apply_ite State.tap, apply_ite State.pending]; done)))
@[simp] theorem frame_execShoalQuery (m : Mbx) (s : State) :
    (after (execShoalQuery m s) s).clk = s.clk ∧ (after (execShoalQuery m s) s).boot = s.boot ∧ (after (execShoalQuery m s) s).dram = s.dram ∧ (after (execShoalQuery m s) s).pads = s.pads ∧ (after (execShoalQuery m s) s).integ = s.integ ∧ (after (execShoalQuery m s) s).tap = s.tap ∧ (after (execShoalQuery m s) s).pending = s.pending := by
  unfold execShoalQuery
  first
    | (simp [apply_ite State.clk, apply_ite State.boot, apply_ite State.dram, apply_ite State.pads, apply_ite State.integ, apply_ite State.tap, apply_ite State.pending]; done)
    | ((repeat' split) <;> (first | (simp [apply_ite State.clk, apply_ite State.boot, apply_ite State.dram, apply_ite State.pads, apply_ite State.integ, apply_ite State.tap, apply_ite State.pending]; done) | (simp_all [apply_ite State.clk, apply_ite State.boot, apply_ite State.dram, apply_ite State.pads, apply_ite State.integ, apply_ite State.tap, apply_ite State.pending]; done)))
    | (dsimp only; (repeat' apply And.intro) <;> (repeat' split) <;> (first | (simp [apply_ite State.clk, apply_ite State.boot, apply_ite State.dram, apply_ite State.pads, apply_ite State.integ, apply_ite State.tap, apply_ite State.pending]; done) | (simp_all [apply_ite State.clk, apply_ite State.boot, apply_ite State.dram, apply_ite State.pads, apply_ite State.integ, apply_ite State.tap, apply_ite State.pending]; done)))
@[simp] theorem frame_execSeawallQuery (m : Mbx) (s : State) :
    (after (execSeawallQuery m s) s).clk = s.clk ∧ (after (execSeawallQuery m s) s).boot = s.boot ∧ (after (execSeawallQuery m s) s).dram = s.dram ∧ (after (execSeawallQuery m s) s).pads = s.pads ∧ (after (execSeawallQuery m s) s).integ = s.integ ∧ (after (execSeawallQuery m s) s).tap = s.tap ∧ (after (execSeawallQuery m s) s).pending = s.pending := by
  unfold execSeawallQuery
  first
    | (simp [apply_ite State.clk, apply_ite State.boot, apply_ite State.dram, apply_ite State.pads, apply_ite State.integ, apply_ite State.tap, apply_ite State.pending]; done)
    | ((repeat' split) <;> (first | (simp [apply_ite State.clk, apply_ite State.boot, apply_ite State.dram, apply_ite State.pads, apply_ite State.integ, apply_ite State.tap, apply_ite State.pending]; done) | (simp_all [apply_ite State.clk, apply_ite State.boot, apply_ite State.dram, apply_ite State.pads, apply_ite State.integ, apply_ite State.tap, apply_ite State.pending]; done)))
    | (dsimp only; (repeat' apply And.intro) <;> (repeat' split) <;> (first | (simp [apply_ite State.clk, apply_ite State.boot, apply_ite State.dram, apply_ite State.pads, apply_ite State.integ, apply_ite State.tap, apply_ite State.pending]; done) | (simp_all [apply_ite State.clk, apply_ite State.boot, apply_ite State.dram, apply_ite State.pads, apply_ite State.integ, apply_ite State.tap, apply_ite State.pending]; done)))
@[simp] theorem frame_execPowerQuery (m : Mbx) (s : State) :
    (after (execPowerQuery m s) s).clk = s.clk ∧ (after (execPowerQuery m s) s).boot = s.boot ∧ (after (execPowerQuery m s) s).dram = s.dram ∧ (after (execPowerQuery m s) s).pads = s.pads ∧ (after (execPowerQuery m s) s).integ = s.integ ∧ (after (execPowerQuery m s) s).tap = s.tap ∧ (after (execPowerQuery m s) s).pending = s.pending := by
  unfold execPowerQuery
  first
    | (simp [apply_ite State.clk, apply_ite State.boot, apply_ite State.dram, apply_ite State.pads, apply_ite State.integ, apply_ite State.tap, apply_ite State.pending]; done)
    | ((repeat' split) <;> (first | (simp [apply_ite State.clk, apply_ite State.boot, apply_ite State.dram, apply_ite State.pads, apply_ite State.integ, apply_ite State.tap, apply_ite State.pending]; done) | (simp_all [apply_ite State.clk, apply_ite State.boot, apply_ite State.dram, apply_ite State.pads, apply_ite State.integ, apply_ite State.tap, apply_ite State.pending]; done)))
    | (dsimp only; (repeat' apply And.intro) <;> (repeat' split) <;> (first | (simp [apply_ite State.clk, apply_ite State.boot, apply_ite State.dram, apply_ite State.pads, apply_ite State.integ, apply_ite State.tap, apply_ite State.pending]; done) | (simp_all [apply_ite State.clk, apply_ite State.boot, apply_ite State.dram, apply_ite State.pads, apply_ite State.integ, apply_ite State.tap, apply_ite State.pending]; done)))
@[simp] theorem frame_execHoldupQuery (m : Mbx) (s : State) :
    (after (execHoldupQuery m s) s).clk = s.clk ∧ (after (execHoldupQuery m s) s).boot = s.boot ∧ (after (execHoldupQuery m s) s).dram = s.dram ∧ (after (execHoldupQuery m s) s).pads = s.pads ∧ (after (execHoldupQuery m s) s).integ = s.integ ∧ (after (execHoldupQuery m s) s).tap = s.tap ∧ (after (execHoldupQuery m s) s).pending = s.pending := by
  unfold execHoldupQuery
  first
    | (simp [apply_ite State.clk, apply_ite State.boot, apply_ite State.dram, apply_ite State.pads, apply_ite State.integ, apply_ite State.tap, apply_ite State.pending]; done)
    | ((repeat' split) <;> (first | (simp [apply_ite State.clk, apply_ite State.boot, apply_ite State.dram, apply_ite State.pads, apply_ite State.integ, apply_ite State.tap, apply_ite State.pending]; done) | (simp_all [apply_ite State.clk, apply_ite State.boot, apply_ite State.dram, apply_ite State.pads, apply_ite State.integ, apply_ite State.tap, apply_ite State.pending]; done)))
    | (dsimp only; (repeat' apply And.intro) <;> (repeat' split) <;> (first | (simp [apply_ite State.clk, apply_ite State.boot, apply_ite State.dram, apply_ite State.pads, apply_ite State.integ, apply_ite State.tap, apply_ite State.pending]; done) | (simp_all [apply_ite State.clk, apply_ite State.boot, apply_ite State.dram, apply_ite State.pads, apply_ite State.integ, apply_ite State.tap, apply_ite State.pending]; done)))
@[simp] theorem frame_execSelftestResult (m : Mbx) (s : State) :
    (after (execSelftestResult m s) s).clk = s.clk ∧ (after (execSelftestResult m s) s).boot = s.boot ∧ (after (execSelftestResult m s) s).dram = s.dram ∧ (after (execSelftestResult m s) s).pads = s.pads ∧ (after (execSelftestResult m s) s).integ = s.integ ∧ (after (execSelftestResult m s) s).tap = s.tap ∧ (after (execSelftestResult m s) s).pending = s.pending := by
  unfold execSelftestResult
  first
    | (simp [apply_ite State.clk, apply_ite State.boot, apply_ite State.dram, apply_ite State.pads, apply_ite State.integ, apply_ite State.tap, apply_ite State.pending]; done)
    | ((repeat' split) <;> (first | (simp [apply_ite State.clk, apply_ite State.boot, apply_ite State.dram, apply_ite State.pads, apply_ite State.integ, apply_ite State.tap, apply_ite State.pending]; done) | (simp_all [apply_ite State.clk, apply_ite State.boot, apply_ite State.dram, apply_ite State.pads, apply_ite State.integ, apply_ite State.tap, apply_ite State.pending]; done)))
    | (dsimp only; (repeat' apply And.intro) <;> (repeat' split) <;> (first | (simp [apply_ite State.clk, apply_ite State.boot, apply_ite State.dram, apply_ite State.pads, apply_ite State.integ, apply_ite State.tap, apply_ite State.pending]; done) | (simp_all [apply_ite State.clk, apply_ite State.boot, apply_ite State.dram, apply_ite State.pads, apply_ite State.integ, apply_ite State.tap, apply_ite State.pending]; done)))
@[simp] theorem frame_execLoopSample (slot : Fin 32) (pv : Option (BitVec 32)) (s : State) :
    (after (execLoopSample slot pv s) s).clk = s.clk ∧ (after (execLoopSample slot pv s) s).boot = s.boot ∧ (after (execLoopSample slot pv s) s).dram = s.dram ∧ (after (execLoopSample slot pv s) s).pads = s.pads ∧ (after (execLoopSample slot pv s) s).integ = s.integ ∧ (after (execLoopSample slot pv s) s).tap = s.tap ∧ (after (execLoopSample slot pv s) s).pending = s.pending := by
  unfold execLoopSample
  first
    | (simp [apply_ite State.clk, apply_ite State.boot, apply_ite State.dram, apply_ite State.pads, apply_ite State.integ, apply_ite State.tap, apply_ite State.pending]; done)
    | ((repeat' split) <;> (first | (simp [apply_ite State.clk, apply_ite State.boot, apply_ite State.dram, apply_ite State.pads, apply_ite State.integ, apply_ite State.tap, apply_ite State.pending]; done) | (simp_all [apply_ite State.clk, apply_ite State.boot, apply_ite State.dram, apply_ite State.pads, apply_ite State.integ, apply_ite State.tap, apply_ite State.pending]; done)))
    | (dsimp only; (repeat' apply And.intro) <;> (repeat' split) <;> (first | (simp [apply_ite State.clk, apply_ite State.boot, apply_ite State.dram, apply_ite State.pads, apply_ite State.integ, apply_ite State.tap, apply_ite State.pending]; done) | (simp_all [apply_ite State.clk, apply_ite State.boot, apply_ite State.dram, apply_ite State.pads, apply_ite State.integ, apply_ite State.tap, apply_ite State.pending]; done)))
@[simp] theorem frame_execLoopQuery (m : Mbx) (s : State) :
    (after (execLoopQuery m s) s).clk = s.clk ∧ (after (execLoopQuery m s) s).boot = s.boot ∧ (after (execLoopQuery m s) s).dram = s.dram ∧ (after (execLoopQuery m s) s).pads = s.pads ∧ (after (execLoopQuery m s) s).integ = s.integ ∧ (after (execLoopQuery m s) s).tap = s.tap ∧ (after (execLoopQuery m s) s).pending = s.pending := by
  unfold execLoopQuery
  first
    | (simp [apply_ite State.clk, apply_ite State.boot, apply_ite State.dram, apply_ite State.pads, apply_ite State.integ, apply_ite State.tap, apply_ite State.pending]; done)
    | ((repeat' split) <;> (first | (simp [apply_ite State.clk, apply_ite State.boot, apply_ite State.dram, apply_ite State.pads, apply_ite State.integ, apply_ite State.tap, apply_ite State.pending]; done) | (simp_all [apply_ite State.clk, apply_ite State.boot, apply_ite State.dram, apply_ite State.pads, apply_ite State.integ, apply_ite State.tap, apply_ite State.pending]; done)))
    | (dsimp only; (repeat' apply And.intro) <;> (repeat' split) <;> (first | (simp [apply_ite State.clk, apply_ite State.boot, apply_ite State.dram, apply_ite State.pads, apply_ite State.integ, apply_ite State.tap, apply_ite State.pending]; done) | (simp_all [apply_ite State.clk, apply_ite State.boot, apply_ite State.dram, apply_ite State.pads, apply_ite State.integ, apply_ite State.tap, apply_ite State.pending]; done)))
@[simp] theorem frame_execLoopOpen (m : Mbx) (s : State) :
    (after (execLoopOpen m s) s).clk = s.clk ∧ (after (execLoopOpen m s) s).boot = s.boot ∧ (after (execLoopOpen m s) s).dram = s.dram ∧ (after (execLoopOpen m s) s).pads = s.pads ∧ (after (execLoopOpen m s) s).integ = s.integ ∧ (after (execLoopOpen m s) s).tap = s.tap ∧ (after (execLoopOpen m s) s).pending = s.pending := by
  unfold execLoopOpen
  first
    | (simp [apply_ite State.clk, apply_ite State.boot, apply_ite State.dram, apply_ite State.pads, apply_ite State.integ, apply_ite State.tap, apply_ite State.pending]; done)
    | ((repeat' split) <;> (first | (simp [apply_ite State.clk, apply_ite State.boot, apply_ite State.dram, apply_ite State.pads, apply_ite State.integ, apply_ite State.tap, apply_ite State.pending]; done) | (simp_all [apply_ite State.clk, apply_ite State.boot, apply_ite State.dram, apply_ite State.pads, apply_ite State.integ, apply_ite State.tap, apply_ite State.pending]; done)))
    | (dsimp only; (repeat' apply And.intro) <;> (repeat' split) <;> (first | (simp [apply_ite State.clk, apply_ite State.boot, apply_ite State.dram, apply_ite State.pads, apply_ite State.integ, apply_ite State.tap, apply_ite State.pending]; done) | (simp_all [apply_ite State.clk, apply_ite State.boot, apply_ite State.dram, apply_ite State.pads, apply_ite State.integ, apply_ite State.tap, apply_ite State.pending]; done)))
@[simp] theorem frame_execLoopCoeff (m : Mbx) (s : State) :
    (after (execLoopCoeff m s) s).clk = s.clk ∧ (after (execLoopCoeff m s) s).boot = s.boot ∧ (after (execLoopCoeff m s) s).dram = s.dram ∧ (after (execLoopCoeff m s) s).pads = s.pads ∧ (after (execLoopCoeff m s) s).integ = s.integ ∧ (after (execLoopCoeff m s) s).tap = s.tap ∧ (after (execLoopCoeff m s) s).pending = s.pending := by
  unfold execLoopCoeff
  first
    | (simp [apply_ite State.clk, apply_ite State.boot, apply_ite State.dram, apply_ite State.pads, apply_ite State.integ, apply_ite State.tap, apply_ite State.pending]; done)
    | ((repeat' split) <;> (first | (simp [apply_ite State.clk, apply_ite State.boot, apply_ite State.dram, apply_ite State.pads, apply_ite State.integ, apply_ite State.tap, apply_ite State.pending]; done) | (simp_all [apply_ite State.clk, apply_ite State.boot, apply_ite State.dram, apply_ite State.pads, apply_ite State.integ, apply_ite State.tap, apply_ite State.pending]; done)))
    | (dsimp only; (repeat' apply And.intro) <;> (repeat' split) <;> (first | (simp [apply_ite State.clk, apply_ite State.boot, apply_ite State.dram, apply_ite State.pads, apply_ite State.integ, apply_ite State.tap, apply_ite State.pending]; done) | (simp_all [apply_ite State.clk, apply_ite State.boot, apply_ite State.dram, apply_ite State.pads, apply_ite State.integ, apply_ite State.tap, apply_ite State.pending]; done)))
@[simp] theorem frame_execLoopClose (m : Mbx) (s : State) :
    (after (execLoopClose m s) s).clk = s.clk ∧ (after (execLoopClose m s) s).boot = s.boot ∧ (after (execLoopClose m s) s).dram = s.dram ∧ (after (execLoopClose m s) s).pads = s.pads ∧ (after (execLoopClose m s) s).integ = s.integ ∧ (after (execLoopClose m s) s).tap = s.tap ∧ (after (execLoopClose m s) s).pending = s.pending := by
  unfold execLoopClose
  first
    | (simp [apply_ite State.clk, apply_ite State.boot, apply_ite State.dram, apply_ite State.pads, apply_ite State.integ, apply_ite State.tap, apply_ite State.pending]; done)
    | ((repeat' split) <;> (first | (simp [apply_ite State.clk, apply_ite State.boot, apply_ite State.dram, apply_ite State.pads, apply_ite State.integ, apply_ite State.tap, apply_ite State.pending]; done) | (simp_all [apply_ite State.clk, apply_ite State.boot, apply_ite State.dram, apply_ite State.pads, apply_ite State.integ, apply_ite State.tap, apply_ite State.pending]; done)))
    | (dsimp only; (repeat' apply And.intro) <;> (repeat' split) <;> (first | (simp [apply_ite State.clk, apply_ite State.boot, apply_ite State.dram, apply_ite State.pads, apply_ite State.integ, apply_ite State.tap, apply_ite State.pending]; done) | (simp_all [apply_ite State.clk, apply_ite State.boot, apply_ite State.dram, apply_ite State.pads, apply_ite State.integ, apply_ite State.tap, apply_ite State.pending]; done)))
@[simp] theorem frame_execTraceArm (m : Mbx) (s : State) :
    (after (execTraceArm m s) s).clk = s.clk ∧ (after (execTraceArm m s) s).boot = s.boot ∧ (after (execTraceArm m s) s).dram = s.dram ∧ (after (execTraceArm m s) s).pads = s.pads ∧ (after (execTraceArm m s) s).integ = s.integ ∧ (after (execTraceArm m s) s).tap = s.tap ∧ (after (execTraceArm m s) s).pending = s.pending := by
  unfold execTraceArm
  first
    | (simp [apply_ite State.clk, apply_ite State.boot, apply_ite State.dram, apply_ite State.pads, apply_ite State.integ, apply_ite State.tap, apply_ite State.pending]; done)
    | ((repeat' split) <;> (first | (simp [apply_ite State.clk, apply_ite State.boot, apply_ite State.dram, apply_ite State.pads, apply_ite State.integ, apply_ite State.tap, apply_ite State.pending]; done) | (simp_all [apply_ite State.clk, apply_ite State.boot, apply_ite State.dram, apply_ite State.pads, apply_ite State.integ, apply_ite State.tap, apply_ite State.pending]; done)))
    | (dsimp only; (repeat' apply And.intro) <;> (repeat' split) <;> (first | (simp [apply_ite State.clk, apply_ite State.boot, apply_ite State.dram, apply_ite State.pads, apply_ite State.integ, apply_ite State.tap, apply_ite State.pending]; done) | (simp_all [apply_ite State.clk, apply_ite State.boot, apply_ite State.dram, apply_ite State.pads, apply_ite State.integ, apply_ite State.tap, apply_ite State.pending]; done)))
@[simp] theorem frame_execTraceRead (m : Mbx) (s : State) :
    (after (execTraceRead m s) s).clk = s.clk ∧ (after (execTraceRead m s) s).boot = s.boot ∧ (after (execTraceRead m s) s).dram = s.dram ∧ (after (execTraceRead m s) s).pads = s.pads ∧ (after (execTraceRead m s) s).integ = s.integ ∧ (after (execTraceRead m s) s).tap = s.tap ∧ (after (execTraceRead m s) s).pending = s.pending := by
  unfold execTraceRead
  first
    | (simp [apply_ite State.clk, apply_ite State.boot, apply_ite State.dram, apply_ite State.pads, apply_ite State.integ, apply_ite State.tap, apply_ite State.pending]; done)
    | ((repeat' split) <;> (first | (simp [apply_ite State.clk, apply_ite State.boot, apply_ite State.dram, apply_ite State.pads, apply_ite State.integ, apply_ite State.tap, apply_ite State.pending]; done) | (simp_all [apply_ite State.clk, apply_ite State.boot, apply_ite State.dram, apply_ite State.pads, apply_ite State.integ, apply_ite State.tap, apply_ite State.pending]; done)))
    | (dsimp only; (repeat' apply And.intro) <;> (repeat' split) <;> (first | (simp [apply_ite State.clk, apply_ite State.boot, apply_ite State.dram, apply_ite State.pads, apply_ite State.integ, apply_ite State.tap, apply_ite State.pending]; done) | (simp_all [apply_ite State.clk, apply_ite State.boot, apply_ite State.dram, apply_ite State.pads, apply_ite State.integ, apply_ite State.tap, apply_ite State.pending]; done)))
@[simp] theorem frame_execClaimLaneFrame (bits : BitVec 49) (s : State) :
    (after (execClaimLaneFrame bits s) s).clk = s.clk ∧ (after (execClaimLaneFrame bits s) s).boot = s.boot ∧ (after (execClaimLaneFrame bits s) s).dram = s.dram ∧ (after (execClaimLaneFrame bits s) s).pads = s.pads ∧ (after (execClaimLaneFrame bits s) s).integ = s.integ ∧ (after (execClaimLaneFrame bits s) s).tap = s.tap ∧ (after (execClaimLaneFrame bits s) s).pending = s.pending := by
  unfold execClaimLaneFrame
  first
    | (simp [apply_ite State.clk, apply_ite State.boot, apply_ite State.dram, apply_ite State.pads, apply_ite State.integ, apply_ite State.tap, apply_ite State.pending]; done)
    | ((repeat' split) <;> (first | (simp [apply_ite State.clk, apply_ite State.boot, apply_ite State.dram, apply_ite State.pads, apply_ite State.integ, apply_ite State.tap, apply_ite State.pending]; done) | (simp_all [apply_ite State.clk, apply_ite State.boot, apply_ite State.dram, apply_ite State.pads, apply_ite State.integ, apply_ite State.tap, apply_ite State.pending]; done)))
    | (dsimp only; (repeat' apply And.intro) <;> (repeat' split) <;> (first | (simp [apply_ite State.clk, apply_ite State.boot, apply_ite State.dram, apply_ite State.pads, apply_ite State.integ, apply_ite State.tap, apply_ite State.pending]; done) | (simp_all [apply_ite State.clk, apply_ite State.boot, apply_ite State.dram, apply_ite State.pads, apply_ite State.integ, apply_ite State.tap, apply_ite State.pending]; done)))
@[simp] theorem frame_execLaneCheckFrame (bits : BitVec 49) (s : State) :
    (after (execLaneCheckFrame bits s) s).clk = s.clk ∧ (after (execLaneCheckFrame bits s) s).boot = s.boot ∧ (after (execLaneCheckFrame bits s) s).dram = s.dram ∧ (after (execLaneCheckFrame bits s) s).pads = s.pads ∧ (after (execLaneCheckFrame bits s) s).integ = s.integ ∧ (after (execLaneCheckFrame bits s) s).tap = s.tap ∧ (after (execLaneCheckFrame bits s) s).pending = s.pending := by
  unfold execLaneCheckFrame
  first
    | (simp [apply_ite State.clk, apply_ite State.boot, apply_ite State.dram, apply_ite State.pads, apply_ite State.integ, apply_ite State.tap, apply_ite State.pending]; done)
    | ((repeat' split) <;> (first | (simp [apply_ite State.clk, apply_ite State.boot, apply_ite State.dram, apply_ite State.pads, apply_ite State.integ, apply_ite State.tap, apply_ite State.pending]; done) | (simp_all [apply_ite State.clk, apply_ite State.boot, apply_ite State.dram, apply_ite State.pads, apply_ite State.integ, apply_ite State.tap, apply_ite State.pending]; done)))
    | (dsimp only; (repeat' apply And.intro) <;> (repeat' split) <;> (first | (simp [apply_ite State.clk, apply_ite State.boot, apply_ite State.dram, apply_ite State.pads, apply_ite State.integ, apply_ite State.tap, apply_ite State.pending]; done) | (simp_all [apply_ite State.clk, apply_ite State.boot, apply_ite State.dram, apply_ite State.pads, apply_ite State.integ, apply_ite State.tap, apply_ite State.pending]; done)))
@[simp] theorem frame_execLaneCheckTurn (s : State) :
    (after (execLaneCheckTurn s) s).clk = s.clk ∧ (after (execLaneCheckTurn s) s).boot = s.boot ∧ (after (execLaneCheckTurn s) s).dram = s.dram ∧ (after (execLaneCheckTurn s) s).pads = s.pads ∧ (after (execLaneCheckTurn s) s).integ = s.integ ∧ (after (execLaneCheckTurn s) s).tap = s.tap ∧ (after (execLaneCheckTurn s) s).pending = s.pending := by
  unfold execLaneCheckTurn
  first
    | (simp [apply_ite State.clk, apply_ite State.boot, apply_ite State.dram, apply_ite State.pads, apply_ite State.integ, apply_ite State.tap, apply_ite State.pending]; done)
    | ((repeat' split) <;> (first | (simp [apply_ite State.clk, apply_ite State.boot, apply_ite State.dram, apply_ite State.pads, apply_ite State.integ, apply_ite State.tap, apply_ite State.pending]; done) | (simp_all [apply_ite State.clk, apply_ite State.boot, apply_ite State.dram, apply_ite State.pads, apply_ite State.integ, apply_ite State.tap, apply_ite State.pending]; done)))
    | (dsimp only; (repeat' apply And.intro) <;> (repeat' split) <;> (first | (simp [apply_ite State.clk, apply_ite State.boot, apply_ite State.dram, apply_ite State.pads, apply_ite State.integ, apply_ite State.tap, apply_ite State.pending]; done) | (simp_all [apply_ite State.clk, apply_ite State.boot, apply_ite State.dram, apply_ite State.pads, apply_ite State.integ, apply_ite State.tap, apply_ite State.pending]; done)))
@[simp] theorem frame_execClaimLaneSend (outcome : LaneOutcome) (s : State) :
    (after (execClaimLaneSend outcome s) s).clk = s.clk ∧ (after (execClaimLaneSend outcome s) s).boot = s.boot ∧ (after (execClaimLaneSend outcome s) s).dram = s.dram ∧ (after (execClaimLaneSend outcome s) s).pads = s.pads ∧ (after (execClaimLaneSend outcome s) s).integ = s.integ ∧ (after (execClaimLaneSend outcome s) s).tap = s.tap ∧ (after (execClaimLaneSend outcome s) s).pending = s.pending := by
  unfold execClaimLaneSend
  first
    | (simp [apply_ite State.clk, apply_ite State.boot, apply_ite State.dram, apply_ite State.pads, apply_ite State.integ, apply_ite State.tap, apply_ite State.pending]; done)
    | ((repeat' split) <;> (first | (simp [apply_ite State.clk, apply_ite State.boot, apply_ite State.dram, apply_ite State.pads, apply_ite State.integ, apply_ite State.tap, apply_ite State.pending]; done) | (simp_all [apply_ite State.clk, apply_ite State.boot, apply_ite State.dram, apply_ite State.pads, apply_ite State.integ, apply_ite State.tap, apply_ite State.pending]; done)))
    | (dsimp only; (repeat' apply And.intro) <;> (repeat' split) <;> (first | (simp [apply_ite State.clk, apply_ite State.boot, apply_ite State.dram, apply_ite State.pads, apply_ite State.integ, apply_ite State.tap, apply_ite State.pending]; done) | (simp_all [apply_ite State.clk, apply_ite State.boot, apply_ite State.dram, apply_ite State.pads, apply_ite State.integ, apply_ite State.tap, apply_ite State.pending]; done)))
@[simp] theorem frame_execLaneLowTimeout (s : State) :
    (after (execLaneLowTimeout s) s).clk = s.clk ∧ (after (execLaneLowTimeout s) s).boot = s.boot ∧ (after (execLaneLowTimeout s) s).dram = s.dram ∧ (after (execLaneLowTimeout s) s).pads = s.pads ∧ (after (execLaneLowTimeout s) s).integ = s.integ ∧ (after (execLaneLowTimeout s) s).tap = s.tap ∧ (after (execLaneLowTimeout s) s).pending = s.pending := by
  unfold execLaneLowTimeout
  first
    | (simp [apply_ite State.clk, apply_ite State.boot, apply_ite State.dram, apply_ite State.pads, apply_ite State.integ, apply_ite State.tap, apply_ite State.pending]; done)
    | ((repeat' split) <;> (first | (simp [apply_ite State.clk, apply_ite State.boot, apply_ite State.dram, apply_ite State.pads, apply_ite State.integ, apply_ite State.tap, apply_ite State.pending]; done) | (simp_all [apply_ite State.clk, apply_ite State.boot, apply_ite State.dram, apply_ite State.pads, apply_ite State.integ, apply_ite State.tap, apply_ite State.pending]; done)))
    | (dsimp only; (repeat' apply And.intro) <;> (repeat' split) <;> (first | (simp [apply_ite State.clk, apply_ite State.boot, apply_ite State.dram, apply_ite State.pads, apply_ite State.integ, apply_ite State.tap, apply_ite State.pending]; done) | (simp_all [apply_ite State.clk, apply_ite State.boot, apply_ite State.dram, apply_ite State.pads, apply_ite State.integ, apply_ite State.tap, apply_ite State.pending]; done)))
@[simp] theorem frame_execClaimLaneReleased (s : State) :
    (after (execClaimLaneReleased s) s).clk = s.clk ∧ (after (execClaimLaneReleased s) s).boot = s.boot ∧ (after (execClaimLaneReleased s) s).dram = s.dram ∧ (after (execClaimLaneReleased s) s).pads = s.pads ∧ (after (execClaimLaneReleased s) s).integ = s.integ ∧ (after (execClaimLaneReleased s) s).tap = s.tap ∧ (after (execClaimLaneReleased s) s).pending = s.pending := by
  unfold execClaimLaneReleased
  first
    | (simp [apply_ite State.clk, apply_ite State.boot, apply_ite State.dram, apply_ite State.pads, apply_ite State.integ, apply_ite State.tap, apply_ite State.pending]; done)
    | ((repeat' split) <;> (first | (simp [apply_ite State.clk, apply_ite State.boot, apply_ite State.dram, apply_ite State.pads, apply_ite State.integ, apply_ite State.tap, apply_ite State.pending]; done) | (simp_all [apply_ite State.clk, apply_ite State.boot, apply_ite State.dram, apply_ite State.pads, apply_ite State.integ, apply_ite State.tap, apply_ite State.pending]; done)))
    | (dsimp only; (repeat' apply And.intro) <;> (repeat' split) <;> (first | (simp [apply_ite State.clk, apply_ite State.boot, apply_ite State.dram, apply_ite State.pads, apply_ite State.integ, apply_ite State.tap, apply_ite State.pending]; done) | (simp_all [apply_ite State.clk, apply_ite State.boot, apply_ite State.dram, apply_ite State.pads, apply_ite State.integ, apply_ite State.tap, apply_ite State.pending]; done)))
@[simp] theorem frame_execLaneCheckTimeout (s : State) :
    (after (execLaneCheckTimeout s) s).clk = s.clk ∧ (after (execLaneCheckTimeout s) s).boot = s.boot ∧ (after (execLaneCheckTimeout s) s).dram = s.dram ∧ (after (execLaneCheckTimeout s) s).pads = s.pads ∧ (after (execLaneCheckTimeout s) s).integ = s.integ ∧ (after (execLaneCheckTimeout s) s).tap = s.tap ∧ (after (execLaneCheckTimeout s) s).pending = s.pending := by
  unfold execLaneCheckTimeout
  first
    | (simp [apply_ite State.clk, apply_ite State.boot, apply_ite State.dram, apply_ite State.pads, apply_ite State.integ, apply_ite State.tap, apply_ite State.pending]; done)
    | ((repeat' split) <;> (first | (simp [apply_ite State.clk, apply_ite State.boot, apply_ite State.dram, apply_ite State.pads, apply_ite State.integ, apply_ite State.tap, apply_ite State.pending]; done) | (simp_all [apply_ite State.clk, apply_ite State.boot, apply_ite State.dram, apply_ite State.pads, apply_ite State.integ, apply_ite State.tap, apply_ite State.pending]; done)))
    | (dsimp only; (repeat' apply And.intro) <;> (repeat' split) <;> (first | (simp [apply_ite State.clk, apply_ite State.boot, apply_ite State.dram, apply_ite State.pads, apply_ite State.integ, apply_ite State.tap, apply_ite State.pending]; done) | (simp_all [apply_ite State.clk, apply_ite State.boot, apply_ite State.dram, apply_ite State.pads, apply_ite State.integ, apply_ite State.tap, apply_ite State.pending]; done)))
@[simp] theorem frame_execHeartbeatTimer (s : State) :
    (after (execHeartbeatTimer s) s).clk = s.clk ∧ (after (execHeartbeatTimer s) s).boot = s.boot ∧ (after (execHeartbeatTimer s) s).dram = s.dram ∧ (after (execHeartbeatTimer s) s).pads = s.pads ∧ (after (execHeartbeatTimer s) s).integ = s.integ ∧ (after (execHeartbeatTimer s) s).tap = s.tap ∧ (after (execHeartbeatTimer s) s).pending = s.pending := by
  unfold execHeartbeatTimer
  first
    | (simp [apply_ite State.clk, apply_ite State.boot, apply_ite State.dram, apply_ite State.pads, apply_ite State.integ, apply_ite State.tap, apply_ite State.pending]; done)
    | ((repeat' split) <;> (first | (simp [apply_ite State.clk, apply_ite State.boot, apply_ite State.dram, apply_ite State.pads, apply_ite State.integ, apply_ite State.tap, apply_ite State.pending]; done) | (simp_all [apply_ite State.clk, apply_ite State.boot, apply_ite State.dram, apply_ite State.pads, apply_ite State.integ, apply_ite State.tap, apply_ite State.pending]; done)))
    | (dsimp only; (repeat' apply And.intro) <;> (repeat' split) <;> (first | (simp [apply_ite State.clk, apply_ite State.boot, apply_ite State.dram, apply_ite State.pads, apply_ite State.integ, apply_ite State.tap, apply_ite State.pending]; done) | (simp_all [apply_ite State.clk, apply_ite State.boot, apply_ite State.dram, apply_ite State.pads, apply_ite State.integ, apply_ite State.tap, apply_ite State.pending]; done)))
@[simp] theorem frame_execRankSilence (rank : Rank) (s : State) :
    (after (execRankSilence rank s) s).clk = s.clk ∧ (after (execRankSilence rank s) s).boot = s.boot ∧ (after (execRankSilence rank s) s).dram = s.dram ∧ (after (execRankSilence rank s) s).pads = s.pads ∧ (after (execRankSilence rank s) s).integ = s.integ ∧ (after (execRankSilence rank s) s).tap = s.tap ∧ (after (execRankSilence rank s) s).pending = s.pending := by
  unfold execRankSilence
  first
    | (simp [apply_ite State.clk, apply_ite State.boot, apply_ite State.dram, apply_ite State.pads, apply_ite State.integ, apply_ite State.tap, apply_ite State.pending]; done)
    | ((repeat' split) <;> (first | (simp [apply_ite State.clk, apply_ite State.boot, apply_ite State.dram, apply_ite State.pads, apply_ite State.integ, apply_ite State.tap, apply_ite State.pending]; done) | (simp_all [apply_ite State.clk, apply_ite State.boot, apply_ite State.dram, apply_ite State.pads, apply_ite State.integ, apply_ite State.tap, apply_ite State.pending]; done)))
    | (dsimp only; (repeat' apply And.intro) <;> (repeat' split) <;> (first | (simp [apply_ite State.clk, apply_ite State.boot, apply_ite State.dram, apply_ite State.pads, apply_ite State.integ, apply_ite State.tap, apply_ite State.pending]; done) | (simp_all [apply_ite State.clk, apply_ite State.boot, apply_ite State.dram, apply_ite State.pads, apply_ite State.integ, apply_ite State.tap, apply_ite State.pending]; done)))
@[simp] theorem frame_execStewardPoolOmitted (pool : Nat) (s : State) :
    (after (execStewardPoolOmitted pool s) s).clk = s.clk ∧ (after (execStewardPoolOmitted pool s) s).boot = s.boot ∧ (after (execStewardPoolOmitted pool s) s).dram = s.dram ∧ (after (execStewardPoolOmitted pool s) s).pads = s.pads ∧ (after (execStewardPoolOmitted pool s) s).integ = s.integ ∧ (after (execStewardPoolOmitted pool s) s).tap = s.tap ∧ (after (execStewardPoolOmitted pool s) s).pending = s.pending := by
  unfold execStewardPoolOmitted
  first
    | (simp [apply_ite State.clk, apply_ite State.boot, apply_ite State.dram, apply_ite State.pads, apply_ite State.integ, apply_ite State.tap, apply_ite State.pending]; done)
    | ((repeat' split) <;> (first | (simp [apply_ite State.clk, apply_ite State.boot, apply_ite State.dram, apply_ite State.pads, apply_ite State.integ, apply_ite State.tap, apply_ite State.pending]; done) | (simp_all [apply_ite State.clk, apply_ite State.boot, apply_ite State.dram, apply_ite State.pads, apply_ite State.integ, apply_ite State.tap, apply_ite State.pending]; done)))
    | (dsimp only; (repeat' apply And.intro) <;> (repeat' split) <;> (first | (simp [apply_ite State.clk, apply_ite State.boot, apply_ite State.dram, apply_ite State.pads, apply_ite State.integ, apply_ite State.tap, apply_ite State.pending]; done) | (simp_all [apply_ite State.clk, apply_ite State.boot, apply_ite State.dram, apply_ite State.pads, apply_ite State.integ, apply_ite State.tap, apply_ite State.pending]; done)))
@[simp] theorem frame_execContest (pool : Nat) (s : State) :
    (after (execContest pool s) s).clk = s.clk ∧ (after (execContest pool s) s).boot = s.boot ∧ (after (execContest pool s) s).dram = s.dram ∧ (after (execContest pool s) s).pads = s.pads ∧ (after (execContest pool s) s).integ = s.integ ∧ (after (execContest pool s) s).tap = s.tap ∧ (after (execContest pool s) s).pending = s.pending := by
  unfold execContest
  first
    | (simp [apply_ite State.clk, apply_ite State.boot, apply_ite State.dram, apply_ite State.pads, apply_ite State.integ, apply_ite State.tap, apply_ite State.pending]; done)
    | ((repeat' split) <;> (first | (simp [apply_ite State.clk, apply_ite State.boot, apply_ite State.dram, apply_ite State.pads, apply_ite State.integ, apply_ite State.tap, apply_ite State.pending]; done) | (simp_all [apply_ite State.clk, apply_ite State.boot, apply_ite State.dram, apply_ite State.pads, apply_ite State.integ, apply_ite State.tap, apply_ite State.pending]; done)))
    | (dsimp only; (repeat' apply And.intro) <;> (repeat' split) <;> (first | (simp [apply_ite State.clk, apply_ite State.boot, apply_ite State.dram, apply_ite State.pads, apply_ite State.integ, apply_ite State.tap, apply_ite State.pending]; done) | (simp_all [apply_ite State.clk, apply_ite State.boot, apply_ite State.dram, apply_ite State.pads, apply_ite State.integ, apply_ite State.tap, apply_ite State.pending]; done)))
@[simp] theorem frame_execStandbySilence (pool : Nat) (s : State) :
    (after (execStandbySilence pool s) s).clk = s.clk ∧ (after (execStandbySilence pool s) s).boot = s.boot ∧ (after (execStandbySilence pool s) s).dram = s.dram ∧ (after (execStandbySilence pool s) s).pads = s.pads ∧ (after (execStandbySilence pool s) s).integ = s.integ ∧ (after (execStandbySilence pool s) s).tap = s.tap ∧ (after (execStandbySilence pool s) s).pending = s.pending := by
  unfold execStandbySilence
  first
    | (simp [apply_ite State.clk, apply_ite State.boot, apply_ite State.dram, apply_ite State.pads, apply_ite State.integ, apply_ite State.tap, apply_ite State.pending]; done)
    | ((repeat' split) <;> (first | (simp [apply_ite State.clk, apply_ite State.boot, apply_ite State.dram, apply_ite State.pads, apply_ite State.integ, apply_ite State.tap, apply_ite State.pending]; done) | (simp_all [apply_ite State.clk, apply_ite State.boot, apply_ite State.dram, apply_ite State.pads, apply_ite State.integ, apply_ite State.tap, apply_ite State.pending]; done)))
    | (dsimp only; (repeat' apply And.intro) <;> (repeat' split) <;> (first | (simp [apply_ite State.clk, apply_ite State.boot, apply_ite State.dram, apply_ite State.pads, apply_ite State.integ, apply_ite State.tap, apply_ite State.pending]; done) | (simp_all [apply_ite State.clk, apply_ite State.boot, apply_ite State.dram, apply_ite State.pads, apply_ite State.integ, apply_ite State.tap, apply_ite State.pending]; done)))
@[simp] theorem frame_execStandbyAppoint (pool : Nat) (s : State) :
    (after (execStandbyAppoint pool s) s).clk = s.clk ∧ (after (execStandbyAppoint pool s) s).boot = s.boot ∧ (after (execStandbyAppoint pool s) s).dram = s.dram ∧ (after (execStandbyAppoint pool s) s).pads = s.pads ∧ (after (execStandbyAppoint pool s) s).integ = s.integ ∧ (after (execStandbyAppoint pool s) s).tap = s.tap ∧ (after (execStandbyAppoint pool s) s).pending = s.pending := by
  unfold execStandbyAppoint
  first
    | (simp [apply_ite State.clk, apply_ite State.boot, apply_ite State.dram, apply_ite State.pads, apply_ite State.integ, apply_ite State.tap, apply_ite State.pending]; done)
    | ((repeat' split) <;> (first | (simp [apply_ite State.clk, apply_ite State.boot, apply_ite State.dram, apply_ite State.pads, apply_ite State.integ, apply_ite State.tap, apply_ite State.pending]; done) | (simp_all [apply_ite State.clk, apply_ite State.boot, apply_ite State.dram, apply_ite State.pads, apply_ite State.integ, apply_ite State.tap, apply_ite State.pending]; done)))
    | (dsimp only; (repeat' apply And.intro) <;> (repeat' split) <;> (first | (simp [apply_ite State.clk, apply_ite State.boot, apply_ite State.dram, apply_ite State.pads, apply_ite State.integ, apply_ite State.tap, apply_ite State.pending]; done) | (simp_all [apply_ite State.clk, apply_ite State.boot, apply_ite State.dram, apply_ite State.pads, apply_ite State.integ, apply_ite State.tap, apply_ite State.pending]; done)))
@[simp] theorem frame_execSettleWindowEnd (s : State) :
    (after (execSettleWindowEnd s) s).clk = s.clk ∧ (after (execSettleWindowEnd s) s).dram = s.dram ∧ (after (execSettleWindowEnd s) s).pads = s.pads ∧ (after (execSettleWindowEnd s) s).integ = s.integ ∧ (after (execSettleWindowEnd s) s).tap = s.tap ∧ (after (execSettleWindowEnd s) s).pending = s.pending := by
  unfold execSettleWindowEnd
  first
    | (simp [apply_ite State.clk, apply_ite State.dram, apply_ite State.pads, apply_ite State.integ, apply_ite State.tap, apply_ite State.pending]; done)
    | ((repeat' split) <;> (first | (simp [apply_ite State.clk, apply_ite State.dram, apply_ite State.pads, apply_ite State.integ, apply_ite State.tap, apply_ite State.pending]; done) | (simp_all [apply_ite State.clk, apply_ite State.dram, apply_ite State.pads, apply_ite State.integ, apply_ite State.tap, apply_ite State.pending]; done)))
    | (dsimp only; (repeat' apply And.intro) <;> (repeat' split) <;> (first | (simp [apply_ite State.clk, apply_ite State.dram, apply_ite State.pads, apply_ite State.integ, apply_ite State.tap, apply_ite State.pending]; done) | (simp_all [apply_ite State.clk, apply_ite State.dram, apply_ite State.pads, apply_ite State.integ, apply_ite State.tap, apply_ite State.pending]; done)))
@[simp] theorem frame_execPreferredStewardReturn (pool : Nat) (s : State) :
    (after (execPreferredStewardReturn pool s) s).clk = s.clk ∧ (after (execPreferredStewardReturn pool s) s).boot = s.boot ∧ (after (execPreferredStewardReturn pool s) s).dram = s.dram ∧ (after (execPreferredStewardReturn pool s) s).pads = s.pads ∧ (after (execPreferredStewardReturn pool s) s).integ = s.integ ∧ (after (execPreferredStewardReturn pool s) s).tap = s.tap ∧ (after (execPreferredStewardReturn pool s) s).pending = s.pending := by
  unfold execPreferredStewardReturn
  first
    | (simp [apply_ite State.clk, apply_ite State.boot, apply_ite State.dram, apply_ite State.pads, apply_ite State.integ, apply_ite State.tap, apply_ite State.pending]; done)
    | ((repeat' split) <;> (first | (simp [apply_ite State.clk, apply_ite State.boot, apply_ite State.dram, apply_ite State.pads, apply_ite State.integ, apply_ite State.tap, apply_ite State.pending]; done) | (simp_all [apply_ite State.clk, apply_ite State.boot, apply_ite State.dram, apply_ite State.pads, apply_ite State.integ, apply_ite State.tap, apply_ite State.pending]; done)))
    | (dsimp only; (repeat' apply And.intro) <;> (repeat' split) <;> (first | (simp [apply_ite State.clk, apply_ite State.boot, apply_ite State.dram, apply_ite State.pads, apply_ite State.integ, apply_ite State.tap, apply_ite State.pending]; done) | (simp_all [apply_ite State.clk, apply_ite State.boot, apply_ite State.dram, apply_ite State.pads, apply_ite State.integ, apply_ite State.tap, apply_ite State.pending]; done)))
@[simp] theorem frame_execHandoverResolveTimeout (pool : Nat) (s : State) :
    (after (execHandoverResolveTimeout pool s) s).clk = s.clk ∧ (after (execHandoverResolveTimeout pool s) s).boot = s.boot ∧ (after (execHandoverResolveTimeout pool s) s).dram = s.dram ∧ (after (execHandoverResolveTimeout pool s) s).pads = s.pads ∧ (after (execHandoverResolveTimeout pool s) s).integ = s.integ ∧ (after (execHandoverResolveTimeout pool s) s).tap = s.tap ∧ (after (execHandoverResolveTimeout pool s) s).pending = s.pending := by
  unfold execHandoverResolveTimeout
  first
    | (simp [apply_ite State.clk, apply_ite State.boot, apply_ite State.dram, apply_ite State.pads, apply_ite State.integ, apply_ite State.tap, apply_ite State.pending]; done)
    | ((repeat' split) <;> (first | (simp [apply_ite State.clk, apply_ite State.boot, apply_ite State.dram, apply_ite State.pads, apply_ite State.integ, apply_ite State.tap, apply_ite State.pending]; done) | (simp_all [apply_ite State.clk, apply_ite State.boot, apply_ite State.dram, apply_ite State.pads, apply_ite State.integ, apply_ite State.tap, apply_ite State.pending]; done)))
    | (dsimp only; (repeat' apply And.intro) <;> (repeat' split) <;> (first | (simp [apply_ite State.clk, apply_ite State.boot, apply_ite State.dram, apply_ite State.pads, apply_ite State.integ, apply_ite State.tap, apply_ite State.pending]; done) | (simp_all [apply_ite State.clk, apply_ite State.boot, apply_ite State.dram, apply_ite State.pads, apply_ite State.integ, apply_ite State.tap, apply_ite State.pending]; done)))
@[simp] theorem frame_execHandoverClaimTimeout (pool : Nat) (s : State) :
    (after (execHandoverClaimTimeout pool s) s).clk = s.clk ∧ (after (execHandoverClaimTimeout pool s) s).boot = s.boot ∧ (after (execHandoverClaimTimeout pool s) s).dram = s.dram ∧ (after (execHandoverClaimTimeout pool s) s).pads = s.pads ∧ (after (execHandoverClaimTimeout pool s) s).integ = s.integ ∧ (after (execHandoverClaimTimeout pool s) s).tap = s.tap ∧ (after (execHandoverClaimTimeout pool s) s).pending = s.pending := by
  unfold execHandoverClaimTimeout
  first
    | (simp [apply_ite State.clk, apply_ite State.boot, apply_ite State.dram, apply_ite State.pads, apply_ite State.integ, apply_ite State.tap, apply_ite State.pending]; done)
    | ((repeat' split) <;> (first | (simp [apply_ite State.clk, apply_ite State.boot, apply_ite State.dram, apply_ite State.pads, apply_ite State.integ, apply_ite State.tap, apply_ite State.pending]; done) | (simp_all [apply_ite State.clk, apply_ite State.boot, apply_ite State.dram, apply_ite State.pads, apply_ite State.integ, apply_ite State.tap, apply_ite State.pending]; done)))
    | (dsimp only; (repeat' apply And.intro) <;> (repeat' split) <;> (first | (simp [apply_ite State.clk, apply_ite State.boot, apply_ite State.dram, apply_ite State.pads, apply_ite State.integ, apply_ite State.tap, apply_ite State.pending]; done) | (simp_all [apply_ite State.clk, apply_ite State.boot, apply_ite State.dram, apply_ite State.pads, apply_ite State.integ, apply_ite State.tap, apply_ite State.pending]; done)))
@[simp] theorem frame_execResolveReplyTimeout (pool : Nat) (rank : Rank) (s : State) :
    (after (execResolveReplyTimeout pool rank s) s).clk = s.clk ∧ (after (execResolveReplyTimeout pool rank s) s).boot = s.boot ∧ (after (execResolveReplyTimeout pool rank s) s).dram = s.dram ∧ (after (execResolveReplyTimeout pool rank s) s).pads = s.pads ∧ (after (execResolveReplyTimeout pool rank s) s).integ = s.integ ∧ (after (execResolveReplyTimeout pool rank s) s).tap = s.tap ∧ (after (execResolveReplyTimeout pool rank s) s).pending = s.pending := by
  unfold execResolveReplyTimeout
  first
    | (simp [apply_ite State.clk, apply_ite State.boot, apply_ite State.dram, apply_ite State.pads, apply_ite State.integ, apply_ite State.tap, apply_ite State.pending]; done)
    | ((repeat' split) <;> (first | (simp [apply_ite State.clk, apply_ite State.boot, apply_ite State.dram, apply_ite State.pads, apply_ite State.integ, apply_ite State.tap, apply_ite State.pending]; done) | (simp_all [apply_ite State.clk, apply_ite State.boot, apply_ite State.dram, apply_ite State.pads, apply_ite State.integ, apply_ite State.tap, apply_ite State.pending]; done)))
    | (dsimp only; (repeat' apply And.intro) <;> (repeat' split) <;> (first | (simp [apply_ite State.clk, apply_ite State.boot, apply_ite State.dram, apply_ite State.pads, apply_ite State.integ, apply_ite State.tap, apply_ite State.pending]; done) | (simp_all [apply_ite State.clk, apply_ite State.boot, apply_ite State.dram, apply_ite State.pads, apply_ite State.integ, apply_ite State.tap, apply_ite State.pending]; done)))
@[simp] theorem frame_execStripeTimeout (pool seqn : Nat) (s : State) :
    (after (execStripeTimeout pool seqn s) s).clk = s.clk ∧ (after (execStripeTimeout pool seqn s) s).boot = s.boot ∧ (after (execStripeTimeout pool seqn s) s).dram = s.dram ∧ (after (execStripeTimeout pool seqn s) s).pads = s.pads ∧ (after (execStripeTimeout pool seqn s) s).integ = s.integ ∧ (after (execStripeTimeout pool seqn s) s).tap = s.tap ∧ (after (execStripeTimeout pool seqn s) s).pending = s.pending := by
  unfold execStripeTimeout
  first
    | (simp [apply_ite State.clk, apply_ite State.boot, apply_ite State.dram, apply_ite State.pads, apply_ite State.integ, apply_ite State.tap, apply_ite State.pending]; done)
    | ((repeat' split) <;> (first | (simp [apply_ite State.clk, apply_ite State.boot, apply_ite State.dram, apply_ite State.pads, apply_ite State.integ, apply_ite State.tap, apply_ite State.pending]; done) | (simp_all [apply_ite State.clk, apply_ite State.boot, apply_ite State.dram, apply_ite State.pads, apply_ite State.integ, apply_ite State.tap, apply_ite State.pending]; done)))
    | (dsimp only; (repeat' apply And.intro) <;> (repeat' split) <;> (first | (simp [apply_ite State.clk, apply_ite State.boot, apply_ite State.dram, apply_ite State.pads, apply_ite State.integ, apply_ite State.tap, apply_ite State.pending]; done) | (simp_all [apply_ite State.clk, apply_ite State.boot, apply_ite State.dram, apply_ite State.pads, apply_ite State.integ, apply_ite State.tap, apply_ite State.pending]; done)))
@[simp] theorem frame_execNoStewardTimeout (pool : Nat) (s : State) :
    (after (execNoStewardTimeout pool s) s).clk = s.clk ∧ (after (execNoStewardTimeout pool s) s).boot = s.boot ∧ (after (execNoStewardTimeout pool s) s).dram = s.dram ∧ (after (execNoStewardTimeout pool s) s).pads = s.pads ∧ (after (execNoStewardTimeout pool s) s).integ = s.integ ∧ (after (execNoStewardTimeout pool s) s).tap = s.tap ∧ (after (execNoStewardTimeout pool s) s).pending = s.pending := by
  unfold execNoStewardTimeout
  first
    | (simp [apply_ite State.clk, apply_ite State.boot, apply_ite State.dram, apply_ite State.pads, apply_ite State.integ, apply_ite State.tap, apply_ite State.pending]; done)
    | ((repeat' split) <;> (first | (simp [apply_ite State.clk, apply_ite State.boot, apply_ite State.dram, apply_ite State.pads, apply_ite State.integ, apply_ite State.tap, apply_ite State.pending]; done) | (simp_all [apply_ite State.clk, apply_ite State.boot, apply_ite State.dram, apply_ite State.pads, apply_ite State.integ, apply_ite State.tap, apply_ite State.pending]; done)))
    | (dsimp only; (repeat' apply And.intro) <;> (repeat' split) <;> (first | (simp [apply_ite State.clk, apply_ite State.boot, apply_ite State.dram, apply_ite State.pads, apply_ite State.integ, apply_ite State.tap, apply_ite State.pending]; done) | (simp_all [apply_ite State.clk, apply_ite State.boot, apply_ite State.dram, apply_ite State.pads, apply_ite State.integ, apply_ite State.tap, apply_ite State.pending]; done)))
@[simp] theorem frame_execRegistryStewardTimeout (session token : BitVec 32) (s : State) :
    (after (execRegistryStewardTimeout session token s) s).clk = s.clk ∧ (after (execRegistryStewardTimeout session token s) s).boot = s.boot ∧ (after (execRegistryStewardTimeout session token s) s).dram = s.dram ∧ (after (execRegistryStewardTimeout session token s) s).pads = s.pads ∧ (after (execRegistryStewardTimeout session token s) s).integ = s.integ ∧ (after (execRegistryStewardTimeout session token s) s).tap = s.tap ∧ (after (execRegistryStewardTimeout session token s) s).pending = s.pending := by
  unfold execRegistryStewardTimeout
  first
    | (simp [apply_ite State.clk, apply_ite State.boot, apply_ite State.dram, apply_ite State.pads, apply_ite State.integ, apply_ite State.tap, apply_ite State.pending]; done)
    | ((repeat' split) <;> (first | (simp [apply_ite State.clk, apply_ite State.boot, apply_ite State.dram, apply_ite State.pads, apply_ite State.integ, apply_ite State.tap, apply_ite State.pending]; done) | (simp_all [apply_ite State.clk, apply_ite State.boot, apply_ite State.dram, apply_ite State.pads, apply_ite State.integ, apply_ite State.tap, apply_ite State.pending]; done)))
    | (dsimp only; (repeat' apply And.intro) <;> (repeat' split) <;> (first | (simp [apply_ite State.clk, apply_ite State.boot, apply_ite State.dram, apply_ite State.pads, apply_ite State.integ, apply_ite State.tap, apply_ite State.pending]; done) | (simp_all [apply_ite State.clk, apply_ite State.boot, apply_ite State.dram, apply_ite State.pads, apply_ite State.integ, apply_ite State.tap, apply_ite State.pending]; done)))
@[simp] theorem frame_execReadRequestTimeout (rank : Rank) (pool localBlk : Nat) (s : State) :
    (after (execReadRequestTimeout rank pool localBlk s) s).clk = s.clk ∧ (after (execReadRequestTimeout rank pool localBlk s) s).boot = s.boot ∧ (after (execReadRequestTimeout rank pool localBlk s) s).dram = s.dram ∧ (after (execReadRequestTimeout rank pool localBlk s) s).pads = s.pads ∧ (after (execReadRequestTimeout rank pool localBlk s) s).integ = s.integ ∧ (after (execReadRequestTimeout rank pool localBlk s) s).tap = s.tap ∧ (after (execReadRequestTimeout rank pool localBlk s) s).pending = s.pending := by
  unfold execReadRequestTimeout
  first
    | (simp [apply_ite State.clk, apply_ite State.boot, apply_ite State.dram, apply_ite State.pads, apply_ite State.integ, apply_ite State.tap, apply_ite State.pending]; done)
    | ((repeat' split) <;> (first | (simp [apply_ite State.clk, apply_ite State.boot, apply_ite State.dram, apply_ite State.pads, apply_ite State.integ, apply_ite State.tap, apply_ite State.pending]; done) | (simp_all [apply_ite State.clk, apply_ite State.boot, apply_ite State.dram, apply_ite State.pads, apply_ite State.integ, apply_ite State.tap, apply_ite State.pending]; done)))
    | (dsimp only; (repeat' apply And.intro) <;> (repeat' split) <;> (first | (simp [apply_ite State.clk, apply_ite State.boot, apply_ite State.dram, apply_ite State.pads, apply_ite State.integ, apply_ite State.tap, apply_ite State.pending]; done) | (simp_all [apply_ite State.clk, apply_ite State.boot, apply_ite State.dram, apply_ite State.pads, apply_ite State.integ, apply_ite State.tap, apply_ite State.pending]; done)))
@[simp] theorem frame_execDrillReplyTimeout (rank : Rank) (s : State) :
    (after (execDrillReplyTimeout rank s) s).clk = s.clk ∧ (after (execDrillReplyTimeout rank s) s).boot = s.boot ∧ (after (execDrillReplyTimeout rank s) s).dram = s.dram ∧ (after (execDrillReplyTimeout rank s) s).pads = s.pads ∧ (after (execDrillReplyTimeout rank s) s).integ = s.integ ∧ (after (execDrillReplyTimeout rank s) s).tap = s.tap ∧ (after (execDrillReplyTimeout rank s) s).pending = s.pending := by
  unfold execDrillReplyTimeout
  first
    | (simp [apply_ite State.clk, apply_ite State.boot, apply_ite State.dram, apply_ite State.pads, apply_ite State.integ, apply_ite State.tap, apply_ite State.pending]; done)
    | ((repeat' split) <;> (first | (simp [apply_ite State.clk, apply_ite State.boot, apply_ite State.dram, apply_ite State.pads, apply_ite State.integ, apply_ite State.tap, apply_ite State.pending]; done) | (simp_all [apply_ite State.clk, apply_ite State.boot, apply_ite State.dram, apply_ite State.pads, apply_ite State.integ, apply_ite State.tap, apply_ite State.pending]; done)))
    | (dsimp only; (repeat' apply And.intro) <;> (repeat' split) <;> (first | (simp [apply_ite State.clk, apply_ite State.boot, apply_ite State.dram, apply_ite State.pads, apply_ite State.integ, apply_ite State.tap, apply_ite State.pending]; done) | (simp_all [apply_ite State.clk, apply_ite State.boot, apply_ite State.dram, apply_ite State.pads, apply_ite State.integ, apply_ite State.tap, apply_ite State.pending]; done)))
@[simp] theorem frame_execRowGatherExpiry (pool row : Nat) (s : State) :
    (after (execRowGatherExpiry pool row s) s).clk = s.clk ∧ (after (execRowGatherExpiry pool row s) s).boot = s.boot ∧ (after (execRowGatherExpiry pool row s) s).dram = s.dram ∧ (after (execRowGatherExpiry pool row s) s).pads = s.pads ∧ (after (execRowGatherExpiry pool row s) s).integ = s.integ ∧ (after (execRowGatherExpiry pool row s) s).tap = s.tap ∧ (after (execRowGatherExpiry pool row s) s).pending = s.pending := by
  unfold execRowGatherExpiry
  first
    | (simp [apply_ite State.clk, apply_ite State.boot, apply_ite State.dram, apply_ite State.pads, apply_ite State.integ, apply_ite State.tap, apply_ite State.pending]; done)
    | ((repeat' split) <;> (first | (simp [apply_ite State.clk, apply_ite State.boot, apply_ite State.dram, apply_ite State.pads, apply_ite State.integ, apply_ite State.tap, apply_ite State.pending]; done) | (simp_all [apply_ite State.clk, apply_ite State.boot, apply_ite State.dram, apply_ite State.pads, apply_ite State.integ, apply_ite State.tap, apply_ite State.pending]; done)))
    | (dsimp only; (repeat' apply And.intro) <;> (repeat' split) <;> (first | (simp [apply_ite State.clk, apply_ite State.boot, apply_ite State.dram, apply_ite State.pads, apply_ite State.integ, apply_ite State.tap, apply_ite State.pending]; done) | (simp_all [apply_ite State.clk, apply_ite State.boot, apply_ite State.dram, apply_ite State.pads, apply_ite State.integ, apply_ite State.tap, apply_ite State.pending]; done)))
@[simp] theorem frame_execJournalGroupClose (pool : Nat) (s : State) :
    (after (execJournalGroupClose pool s) s).clk = s.clk ∧ (after (execJournalGroupClose pool s) s).boot = s.boot ∧ (after (execJournalGroupClose pool s) s).dram = s.dram ∧ (after (execJournalGroupClose pool s) s).pads = s.pads ∧ (after (execJournalGroupClose pool s) s).integ = s.integ ∧ (after (execJournalGroupClose pool s) s).tap = s.tap ∧ (after (execJournalGroupClose pool s) s).pending = s.pending := by
  unfold execJournalGroupClose
  first
    | (simp [apply_ite State.clk, apply_ite State.boot, apply_ite State.dram, apply_ite State.pads, apply_ite State.integ, apply_ite State.tap, apply_ite State.pending]; done)
    | ((repeat' split) <;> (first | (simp [apply_ite State.clk, apply_ite State.boot, apply_ite State.dram, apply_ite State.pads, apply_ite State.integ, apply_ite State.tap, apply_ite State.pending]; done) | (simp_all [apply_ite State.clk, apply_ite State.boot, apply_ite State.dram, apply_ite State.pads, apply_ite State.integ, apply_ite State.tap, apply_ite State.pending]; done)))
    | (dsimp only; (repeat' apply And.intro) <;> (repeat' split) <;> (first | (simp [apply_ite State.clk, apply_ite State.boot, apply_ite State.dram, apply_ite State.pads, apply_ite State.integ, apply_ite State.tap, apply_ite State.pending]; done) | (simp_all [apply_ite State.clk, apply_ite State.boot, apply_ite State.dram, apply_ite State.pads, apply_ite State.integ, apply_ite State.tap, apply_ite State.pending]; done)))
@[simp] theorem frame_execJournalStrandProgrammed (pool : Nat) (s : State) :
    (after (execJournalStrandProgrammed pool s) s).clk = s.clk ∧ (after (execJournalStrandProgrammed pool s) s).boot = s.boot ∧ (after (execJournalStrandProgrammed pool s) s).dram = s.dram ∧ (after (execJournalStrandProgrammed pool s) s).pads = s.pads ∧ (after (execJournalStrandProgrammed pool s) s).integ = s.integ ∧ (after (execJournalStrandProgrammed pool s) s).tap = s.tap ∧ (after (execJournalStrandProgrammed pool s) s).pending = s.pending := by
  unfold execJournalStrandProgrammed
  first
    | (simp [apply_ite State.clk, apply_ite State.boot, apply_ite State.dram, apply_ite State.pads, apply_ite State.integ, apply_ite State.tap, apply_ite State.pending]; done)
    | ((repeat' split) <;> (first | (simp [apply_ite State.clk, apply_ite State.boot, apply_ite State.dram, apply_ite State.pads, apply_ite State.integ, apply_ite State.tap, apply_ite State.pending]; done) | (simp_all [apply_ite State.clk, apply_ite State.boot, apply_ite State.dram, apply_ite State.pads, apply_ite State.integ, apply_ite State.tap, apply_ite State.pending]; done)))
    | (dsimp only; (repeat' apply And.intro) <;> (repeat' split) <;> (first | (simp [apply_ite State.clk, apply_ite State.boot, apply_ite State.dram, apply_ite State.pads, apply_ite State.integ, apply_ite State.tap, apply_ite State.pending]; done) | (simp_all [apply_ite State.clk, apply_ite State.boot, apply_ite State.dram, apply_ite State.pads, apply_ite State.integ, apply_ite State.tap, apply_ite State.pending]; done)))
@[simp] theorem frame_execFwStageBegin (m : Mbx) (s : State) :
    (after (execFwStageBegin m s) s).clk = s.clk ∧ (after (execFwStageBegin m s) s).boot = s.boot ∧ (after (execFwStageBegin m s) s).dram = s.dram ∧ (after (execFwStageBegin m s) s).pads = s.pads ∧ (after (execFwStageBegin m s) s).integ = s.integ ∧ (after (execFwStageBegin m s) s).tap = s.tap ∧ (after (execFwStageBegin m s) s).pending = s.pending := by
  unfold execFwStageBegin
  first
    | (simp [apply_ite State.clk, apply_ite State.boot, apply_ite State.dram, apply_ite State.pads, apply_ite State.integ, apply_ite State.tap, apply_ite State.pending]; done)
    | ((repeat' split) <;> (first | (simp [apply_ite State.clk, apply_ite State.boot, apply_ite State.dram, apply_ite State.pads, apply_ite State.integ, apply_ite State.tap, apply_ite State.pending]; done) | (simp_all [apply_ite State.clk, apply_ite State.boot, apply_ite State.dram, apply_ite State.pads, apply_ite State.integ, apply_ite State.tap, apply_ite State.pending]; done)))
    | (dsimp only; (repeat' apply And.intro) <;> (repeat' split) <;> (first | (simp [apply_ite State.clk, apply_ite State.boot, apply_ite State.dram, apply_ite State.pads, apply_ite State.integ, apply_ite State.tap, apply_ite State.pending]; done) | (simp_all [apply_ite State.clk, apply_ite State.boot, apply_ite State.dram, apply_ite State.pads, apply_ite State.integ, apply_ite State.tap, apply_ite State.pending]; done)))
@[simp] theorem frame_execFwStageData (m : Mbx) (s : State) :
    (after (execFwStageData m s) s).clk = s.clk ∧ (after (execFwStageData m s) s).boot = s.boot ∧ (after (execFwStageData m s) s).dram = s.dram ∧ (after (execFwStageData m s) s).pads = s.pads ∧ (after (execFwStageData m s) s).integ = s.integ ∧ (after (execFwStageData m s) s).tap = s.tap ∧ (after (execFwStageData m s) s).pending = s.pending := by
  unfold execFwStageData
  first
    | (simp [apply_ite State.clk, apply_ite State.boot, apply_ite State.dram, apply_ite State.pads, apply_ite State.integ, apply_ite State.tap, apply_ite State.pending]; done)
    | ((repeat' split) <;> (first | (simp [apply_ite State.clk, apply_ite State.boot, apply_ite State.dram, apply_ite State.pads, apply_ite State.integ, apply_ite State.tap, apply_ite State.pending]; done) | (simp_all [apply_ite State.clk, apply_ite State.boot, apply_ite State.dram, apply_ite State.pads, apply_ite State.integ, apply_ite State.tap, apply_ite State.pending]; done)))
    | (dsimp only; (repeat' apply And.intro) <;> (repeat' split) <;> (first | (simp [apply_ite State.clk, apply_ite State.boot, apply_ite State.dram, apply_ite State.pads, apply_ite State.integ, apply_ite State.tap, apply_ite State.pending]; done) | (simp_all [apply_ite State.clk, apply_ite State.boot, apply_ite State.dram, apply_ite State.pads, apply_ite State.integ, apply_ite State.tap, apply_ite State.pending]; done)))
@[simp] theorem frame_execFwCommit (m : Mbx) (badBlock : Bool) (s : State) :
    (after (execFwCommit m badBlock s) s).clk = s.clk ∧ (after (execFwCommit m badBlock s) s).boot = s.boot ∧ (after (execFwCommit m badBlock s) s).dram = s.dram ∧ (after (execFwCommit m badBlock s) s).pads = s.pads ∧ (after (execFwCommit m badBlock s) s).integ = s.integ ∧ (after (execFwCommit m badBlock s) s).tap = s.tap ∧ (after (execFwCommit m badBlock s) s).pending = s.pending := by
  unfold execFwCommit
  first
    | (simp [apply_ite State.clk, apply_ite State.boot, apply_ite State.dram, apply_ite State.pads, apply_ite State.integ, apply_ite State.tap, apply_ite State.pending]; done)
    | ((repeat' split) <;> (first | (simp [apply_ite State.clk, apply_ite State.boot, apply_ite State.dram, apply_ite State.pads, apply_ite State.integ, apply_ite State.tap, apply_ite State.pending]; done) | (simp_all [apply_ite State.clk, apply_ite State.boot, apply_ite State.dram, apply_ite State.pads, apply_ite State.integ, apply_ite State.tap, apply_ite State.pending]; done)))
    | (dsimp only; (repeat' apply And.intro) <;> (repeat' split) <;> (first | (simp [apply_ite State.clk, apply_ite State.boot, apply_ite State.dram, apply_ite State.pads, apply_ite State.integ, apply_ite State.tap, apply_ite State.pending]; done) | (simp_all [apply_ite State.clk, apply_ite State.boot, apply_ite State.dram, apply_ite State.pads, apply_ite State.integ, apply_ite State.tap, apply_ite State.pending]; done)))
@[simp] theorem frame_execFwStatus (m : Mbx) (s : State) :
    (after (execFwStatus m s) s).clk = s.clk ∧ (after (execFwStatus m s) s).boot = s.boot ∧ (after (execFwStatus m s) s).dram = s.dram ∧ (after (execFwStatus m s) s).pads = s.pads ∧ (after (execFwStatus m s) s).integ = s.integ ∧ (after (execFwStatus m s) s).tap = s.tap ∧ (after (execFwStatus m s) s).pending = s.pending := by
  unfold execFwStatus
  first
    | (simp [apply_ite State.clk, apply_ite State.boot, apply_ite State.dram, apply_ite State.pads, apply_ite State.integ, apply_ite State.tap, apply_ite State.pending]; done)
    | ((repeat' split) <;> (first | (simp [apply_ite State.clk, apply_ite State.boot, apply_ite State.dram, apply_ite State.pads, apply_ite State.integ, apply_ite State.tap, apply_ite State.pending]; done) | (simp_all [apply_ite State.clk, apply_ite State.boot, apply_ite State.dram, apply_ite State.pads, apply_ite State.integ, apply_ite State.tap, apply_ite State.pending]; done)))
    | (dsimp only; (repeat' apply And.intro) <;> (repeat' split) <;> (first | (simp [apply_ite State.clk, apply_ite State.boot, apply_ite State.dram, apply_ite State.pads, apply_ite State.integ, apply_ite State.tap, apply_ite State.pending]; done) | (simp_all [apply_ite State.clk, apply_ite State.boot, apply_ite State.dram, apply_ite State.pads, apply_ite State.integ, apply_ite State.tap, apply_ite State.pending]; done)))
@[simp] theorem frame_execAttestQuote (m : Mbx) (s : State) :
    (after (execAttestQuote m s) s).clk = s.clk ∧ (after (execAttestQuote m s) s).boot = s.boot ∧ (after (execAttestQuote m s) s).dram = s.dram ∧ (after (execAttestQuote m s) s).pads = s.pads ∧ (after (execAttestQuote m s) s).integ = s.integ ∧ (after (execAttestQuote m s) s).tap = s.tap ∧ (after (execAttestQuote m s) s).pending = s.pending := by
  unfold execAttestQuote
  first
    | (simp [apply_ite State.clk, apply_ite State.boot, apply_ite State.dram, apply_ite State.pads, apply_ite State.integ, apply_ite State.tap, apply_ite State.pending]; done)
    | ((repeat' split) <;> (first | (simp [apply_ite State.clk, apply_ite State.boot, apply_ite State.dram, apply_ite State.pads, apply_ite State.integ, apply_ite State.tap, apply_ite State.pending]; done) | (simp_all [apply_ite State.clk, apply_ite State.boot, apply_ite State.dram, apply_ite State.pads, apply_ite State.integ, apply_ite State.tap, apply_ite State.pending]; done)))
    | (dsimp only; (repeat' apply And.intro) <;> (repeat' split) <;> (first | (simp [apply_ite State.clk, apply_ite State.boot, apply_ite State.dram, apply_ite State.pads, apply_ite State.integ, apply_ite State.tap, apply_ite State.pending]; done) | (simp_all [apply_ite State.clk, apply_ite State.boot, apply_ite State.dram, apply_ite State.pads, apply_ite State.integ, apply_ite State.tap, apply_ite State.pending]; done)))
@[simp] theorem frame_execAttestCert (m : Mbx) (s : State) :
    (after (execAttestCert m s) s).clk = s.clk ∧ (after (execAttestCert m s) s).boot = s.boot ∧ (after (execAttestCert m s) s).dram = s.dram ∧ (after (execAttestCert m s) s).pads = s.pads ∧ (after (execAttestCert m s) s).integ = s.integ ∧ (after (execAttestCert m s) s).tap = s.tap ∧ (after (execAttestCert m s) s).pending = s.pending := by
  unfold execAttestCert
  first
    | (simp [apply_ite State.clk, apply_ite State.boot, apply_ite State.dram, apply_ite State.pads, apply_ite State.integ, apply_ite State.tap, apply_ite State.pending]; done)
    | ((repeat' split) <;> (first | (simp [apply_ite State.clk, apply_ite State.boot, apply_ite State.dram, apply_ite State.pads, apply_ite State.integ, apply_ite State.tap, apply_ite State.pending]; done) | (simp_all [apply_ite State.clk, apply_ite State.boot, apply_ite State.dram, apply_ite State.pads, apply_ite State.integ, apply_ite State.tap, apply_ite State.pending]; done)))
    | (dsimp only; (repeat' apply And.intro) <;> (repeat' split) <;> (first | (simp [apply_ite State.clk, apply_ite State.boot, apply_ite State.dram, apply_ite State.pads, apply_ite State.integ, apply_ite State.tap, apply_ite State.pending]; done) | (simp_all [apply_ite State.clk, apply_ite State.boot, apply_ite State.dram, apply_ite State.pads, apply_ite State.integ, apply_ite State.tap, apply_ite State.pending]; done)))
@[simp] theorem frame_execKeySlotLoad (m : Mbx) (s : State) :
    (after (execKeySlotLoad m s) s).clk = s.clk ∧ (after (execKeySlotLoad m s) s).boot = s.boot ∧ (after (execKeySlotLoad m s) s).dram = s.dram ∧ (after (execKeySlotLoad m s) s).pads = s.pads ∧ (after (execKeySlotLoad m s) s).integ = s.integ ∧ (after (execKeySlotLoad m s) s).tap = s.tap ∧ (after (execKeySlotLoad m s) s).pending = s.pending := by
  unfold execKeySlotLoad
  first
    | (simp [apply_ite State.clk, apply_ite State.boot, apply_ite State.dram, apply_ite State.pads, apply_ite State.integ, apply_ite State.tap, apply_ite State.pending]; done)
    | ((repeat' split) <;> (first | (simp [apply_ite State.clk, apply_ite State.boot, apply_ite State.dram, apply_ite State.pads, apply_ite State.integ, apply_ite State.tap, apply_ite State.pending]; done) | (simp_all [apply_ite State.clk, apply_ite State.boot, apply_ite State.dram, apply_ite State.pads, apply_ite State.integ, apply_ite State.tap, apply_ite State.pending]; done)))
    | (dsimp only; (repeat' apply And.intro) <;> (repeat' split) <;> (first | (simp [apply_ite State.clk, apply_ite State.boot, apply_ite State.dram, apply_ite State.pads, apply_ite State.integ, apply_ite State.tap, apply_ite State.pending]; done) | (simp_all [apply_ite State.clk, apply_ite State.boot, apply_ite State.dram, apply_ite State.pads, apply_ite State.integ, apply_ite State.tap, apply_ite State.pending]; done)))
@[simp] theorem frame_execKeySlotClear (m : Mbx) (s : State) :
    (after (execKeySlotClear m s) s).clk = s.clk ∧ (after (execKeySlotClear m s) s).boot = s.boot ∧ (after (execKeySlotClear m s) s).dram = s.dram ∧ (after (execKeySlotClear m s) s).pads = s.pads ∧ (after (execKeySlotClear m s) s).integ = s.integ ∧ (after (execKeySlotClear m s) s).tap = s.tap ∧ (after (execKeySlotClear m s) s).pending = s.pending := by
  unfold execKeySlotClear
  first
    | (simp [apply_ite State.clk, apply_ite State.boot, apply_ite State.dram, apply_ite State.pads, apply_ite State.integ, apply_ite State.tap, apply_ite State.pending]; done)
    | ((repeat' split) <;> (first | (simp [apply_ite State.clk, apply_ite State.boot, apply_ite State.dram, apply_ite State.pads, apply_ite State.integ, apply_ite State.tap, apply_ite State.pending]; done) | (simp_all [apply_ite State.clk, apply_ite State.boot, apply_ite State.dram, apply_ite State.pads, apply_ite State.integ, apply_ite State.tap, apply_ite State.pending]; done)))
    | (dsimp only; (repeat' apply And.intro) <;> (repeat' split) <;> (first | (simp [apply_ite State.clk, apply_ite State.boot, apply_ite State.dram, apply_ite State.pads, apply_ite State.integ, apply_ite State.tap, apply_ite State.pending]; done) | (simp_all [apply_ite State.clk, apply_ite State.boot, apply_ite State.dram, apply_ite State.pads, apply_ite State.integ, apply_ite State.tap, apply_ite State.pending]; done)))
@[simp] theorem frame_execPoolCreate (m : Mbx) (s : State) :
    (after (execPoolCreate m s) s).clk = s.clk ∧ (after (execPoolCreate m s) s).boot = s.boot ∧ (after (execPoolCreate m s) s).dram = s.dram ∧ (after (execPoolCreate m s) s).pads = s.pads ∧ (after (execPoolCreate m s) s).integ = s.integ ∧ (after (execPoolCreate m s) s).tap = s.tap ∧ (after (execPoolCreate m s) s).pending = s.pending := by
  unfold execPoolCreate
  first
    | (simp [apply_ite State.clk, apply_ite State.boot, apply_ite State.dram, apply_ite State.pads, apply_ite State.integ, apply_ite State.tap, apply_ite State.pending]; done)
    | ((repeat' split) <;> (first | (simp [apply_ite State.clk, apply_ite State.boot, apply_ite State.dram, apply_ite State.pads, apply_ite State.integ, apply_ite State.tap, apply_ite State.pending]; done) | (simp_all [apply_ite State.clk, apply_ite State.boot, apply_ite State.dram, apply_ite State.pads, apply_ite State.integ, apply_ite State.tap, apply_ite State.pending]; done)))
    | (dsimp only; (repeat' apply And.intro) <;> (repeat' split) <;> (first | (simp [apply_ite State.clk, apply_ite State.boot, apply_ite State.dram, apply_ite State.pads, apply_ite State.integ, apply_ite State.tap, apply_ite State.pending]; done) | (simp_all [apply_ite State.clk, apply_ite State.boot, apply_ite State.dram, apply_ite State.pads, apply_ite State.integ, apply_ite State.tap, apply_ite State.pending]; done)))
@[simp] theorem frame_execPoolDelete (m : Mbx) (s : State) :
    (after (execPoolDelete m s) s).clk = s.clk ∧ (after (execPoolDelete m s) s).boot = s.boot ∧ (after (execPoolDelete m s) s).dram = s.dram ∧ (after (execPoolDelete m s) s).pads = s.pads ∧ (after (execPoolDelete m s) s).integ = s.integ ∧ (after (execPoolDelete m s) s).tap = s.tap ∧ (after (execPoolDelete m s) s).pending = s.pending := by
  unfold execPoolDelete
  first
    | (simp [apply_ite State.clk, apply_ite State.boot, apply_ite State.dram, apply_ite State.pads, apply_ite State.integ, apply_ite State.tap, apply_ite State.pending]; done)
    | ((repeat' split) <;> (first | (simp [apply_ite State.clk, apply_ite State.boot, apply_ite State.dram, apply_ite State.pads, apply_ite State.integ, apply_ite State.tap, apply_ite State.pending]; done) | (simp_all [apply_ite State.clk, apply_ite State.boot, apply_ite State.dram, apply_ite State.pads, apply_ite State.integ, apply_ite State.tap, apply_ite State.pending]; done)))
    | (dsimp only; (repeat' apply And.intro) <;> (repeat' split) <;> (first | (simp [apply_ite State.clk, apply_ite State.boot, apply_ite State.dram, apply_ite State.pads, apply_ite State.integ, apply_ite State.tap, apply_ite State.pending]; done) | (simp_all [apply_ite State.clk, apply_ite State.boot, apply_ite State.dram, apply_ite State.pads, apply_ite State.integ, apply_ite State.tap, apply_ite State.pending]; done)))
@[simp] theorem frame_execPoolResize (m : Mbx) (s : State) :
    (after (execPoolResize m s) s).clk = s.clk ∧ (after (execPoolResize m s) s).boot = s.boot ∧ (after (execPoolResize m s) s).dram = s.dram ∧ (after (execPoolResize m s) s).pads = s.pads ∧ (after (execPoolResize m s) s).integ = s.integ ∧ (after (execPoolResize m s) s).tap = s.tap ∧ (after (execPoolResize m s) s).pending = s.pending := by
  unfold execPoolResize
  first
    | (simp [apply_ite State.clk, apply_ite State.boot, apply_ite State.dram, apply_ite State.pads, apply_ite State.integ, apply_ite State.tap, apply_ite State.pending]; done)
    | ((repeat' split) <;> (first | (simp [apply_ite State.clk, apply_ite State.boot, apply_ite State.dram, apply_ite State.pads, apply_ite State.integ, apply_ite State.tap, apply_ite State.pending]; done) | (simp_all [apply_ite State.clk, apply_ite State.boot, apply_ite State.dram, apply_ite State.pads, apply_ite State.integ, apply_ite State.tap, apply_ite State.pending]; done)))
    | (dsimp only; (repeat' apply And.intro) <;> (repeat' split) <;> (first | (simp [apply_ite State.clk, apply_ite State.boot, apply_ite State.dram, apply_ite State.pads, apply_ite State.integ, apply_ite State.tap, apply_ite State.pending]; done) | (simp_all [apply_ite State.clk, apply_ite State.boot, apply_ite State.dram, apply_ite State.pads, apply_ite State.integ, apply_ite State.tap, apply_ite State.pending]; done)))
@[simp] theorem frame_execReshapeStart (m : Mbx) (s : State) :
    (after (execReshapeStart m s) s).clk = s.clk ∧ (after (execReshapeStart m s) s).boot = s.boot ∧ (after (execReshapeStart m s) s).dram = s.dram ∧ (after (execReshapeStart m s) s).pads = s.pads ∧ (after (execReshapeStart m s) s).integ = s.integ ∧ (after (execReshapeStart m s) s).tap = s.tap ∧ (after (execReshapeStart m s) s).pending = s.pending := by
  unfold execReshapeStart
  first
    | (simp [apply_ite State.clk, apply_ite State.boot, apply_ite State.dram, apply_ite State.pads, apply_ite State.integ, apply_ite State.tap, apply_ite State.pending]; done)
    | ((repeat' split) <;> (first | (simp [apply_ite State.clk, apply_ite State.boot, apply_ite State.dram, apply_ite State.pads, apply_ite State.integ, apply_ite State.tap, apply_ite State.pending]; done) | (simp_all [apply_ite State.clk, apply_ite State.boot, apply_ite State.dram, apply_ite State.pads, apply_ite State.integ, apply_ite State.tap, apply_ite State.pending]; done)))
    | (dsimp only; (repeat' apply And.intro) <;> (repeat' split) <;> (first | (simp [apply_ite State.clk, apply_ite State.boot, apply_ite State.dram, apply_ite State.pads, apply_ite State.integ, apply_ite State.tap, apply_ite State.pending]; done) | (simp_all [apply_ite State.clk, apply_ite State.boot, apply_ite State.dram, apply_ite State.pads, apply_ite State.integ, apply_ite State.tap, apply_ite State.pending]; done)))
@[simp] theorem frame_execWriteFloorSet (m : Mbx) (s : State) :
    (after (execWriteFloorSet m s) s).clk = s.clk ∧ (after (execWriteFloorSet m s) s).boot = s.boot ∧ (after (execWriteFloorSet m s) s).dram = s.dram ∧ (after (execWriteFloorSet m s) s).pads = s.pads ∧ (after (execWriteFloorSet m s) s).integ = s.integ ∧ (after (execWriteFloorSet m s) s).tap = s.tap ∧ (after (execWriteFloorSet m s) s).pending = s.pending := by
  unfold execWriteFloorSet
  first
    | (simp [apply_ite State.clk, apply_ite State.boot, apply_ite State.dram, apply_ite State.pads, apply_ite State.integ, apply_ite State.tap, apply_ite State.pending]; done)
    | ((repeat' split) <;> (first | (simp [apply_ite State.clk, apply_ite State.boot, apply_ite State.dram, apply_ite State.pads, apply_ite State.integ, apply_ite State.tap, apply_ite State.pending]; done) | (simp_all [apply_ite State.clk, apply_ite State.boot, apply_ite State.dram, apply_ite State.pads, apply_ite State.integ, apply_ite State.tap, apply_ite State.pending]; done)))
    | (dsimp only; (repeat' apply And.intro) <;> (repeat' split) <;> (first | (simp [apply_ite State.clk, apply_ite State.boot, apply_ite State.dram, apply_ite State.pads, apply_ite State.integ, apply_ite State.tap, apply_ite State.pending]; done) | (simp_all [apply_ite State.clk, apply_ite State.boot, apply_ite State.dram, apply_ite State.pads, apply_ite State.integ, apply_ite State.tap, apply_ite State.pending]; done)))
@[simp] theorem frame_execLeaseAcquire (m : Mbx) (s : State) :
    (after (execLeaseAcquire m s) s).clk = s.clk ∧ (after (execLeaseAcquire m s) s).boot = s.boot ∧ (after (execLeaseAcquire m s) s).dram = s.dram ∧ (after (execLeaseAcquire m s) s).pads = s.pads ∧ (after (execLeaseAcquire m s) s).integ = s.integ ∧ (after (execLeaseAcquire m s) s).tap = s.tap ∧ (after (execLeaseAcquire m s) s).pending = s.pending := by
  unfold execLeaseAcquire
  first
    | (simp [apply_ite State.clk, apply_ite State.boot, apply_ite State.dram, apply_ite State.pads, apply_ite State.integ, apply_ite State.tap, apply_ite State.pending]; done)
    | ((repeat' split) <;> (first | (simp [apply_ite State.clk, apply_ite State.boot, apply_ite State.dram, apply_ite State.pads, apply_ite State.integ, apply_ite State.tap, apply_ite State.pending]; done) | (simp_all [apply_ite State.clk, apply_ite State.boot, apply_ite State.dram, apply_ite State.pads, apply_ite State.integ, apply_ite State.tap, apply_ite State.pending]; done)))
    | (dsimp only; (repeat' apply And.intro) <;> (repeat' split) <;> (first | (simp [apply_ite State.clk, apply_ite State.boot, apply_ite State.dram, apply_ite State.pads, apply_ite State.integ, apply_ite State.tap, apply_ite State.pending]; done) | (simp_all [apply_ite State.clk, apply_ite State.boot, apply_ite State.dram, apply_ite State.pads, apply_ite State.integ, apply_ite State.tap, apply_ite State.pending]; done)))
@[simp] theorem frame_execLeaseRelease (m : Mbx) (s : State) :
    (after (execLeaseRelease m s) s).clk = s.clk ∧ (after (execLeaseRelease m s) s).boot = s.boot ∧ (after (execLeaseRelease m s) s).dram = s.dram ∧ (after (execLeaseRelease m s) s).pads = s.pads ∧ (after (execLeaseRelease m s) s).integ = s.integ ∧ (after (execLeaseRelease m s) s).tap = s.tap ∧ (after (execLeaseRelease m s) s).pending = s.pending := by
  unfold execLeaseRelease
  first
    | (simp [apply_ite State.clk, apply_ite State.boot, apply_ite State.dram, apply_ite State.pads, apply_ite State.integ, apply_ite State.tap, apply_ite State.pending]; done)
    | ((repeat' split) <;> (first | (simp [apply_ite State.clk, apply_ite State.boot, apply_ite State.dram, apply_ite State.pads, apply_ite State.integ, apply_ite State.tap, apply_ite State.pending]; done) | (simp_all [apply_ite State.clk, apply_ite State.boot, apply_ite State.dram, apply_ite State.pads, apply_ite State.integ, apply_ite State.tap, apply_ite State.pending]; done)))
    | (dsimp only; (repeat' apply And.intro) <;> (repeat' split) <;> (first | (simp [apply_ite State.clk, apply_ite State.boot, apply_ite State.dram, apply_ite State.pads, apply_ite State.integ, apply_ite State.tap, apply_ite State.pending]; done) | (simp_all [apply_ite State.clk, apply_ite State.boot, apply_ite State.dram, apply_ite State.pads, apply_ite State.integ, apply_ite State.tap, apply_ite State.pending]; done)))
@[simp] theorem frame_execLeaseQuery (m : Mbx) (s : State) :
    (after (execLeaseQuery m s) s).clk = s.clk ∧ (after (execLeaseQuery m s) s).boot = s.boot ∧ (after (execLeaseQuery m s) s).dram = s.dram ∧ (after (execLeaseQuery m s) s).pads = s.pads ∧ (after (execLeaseQuery m s) s).integ = s.integ ∧ (after (execLeaseQuery m s) s).tap = s.tap ∧ (after (execLeaseQuery m s) s).pending = s.pending := by
  unfold execLeaseQuery
  first
    | (simp [apply_ite State.clk, apply_ite State.boot, apply_ite State.dram, apply_ite State.pads, apply_ite State.integ, apply_ite State.tap, apply_ite State.pending]; done)
    | ((repeat' split) <;> (first | (simp [apply_ite State.clk, apply_ite State.boot, apply_ite State.dram, apply_ite State.pads, apply_ite State.integ, apply_ite State.tap, apply_ite State.pending]; done) | (simp_all [apply_ite State.clk, apply_ite State.boot, apply_ite State.dram, apply_ite State.pads, apply_ite State.integ, apply_ite State.tap, apply_ite State.pending]; done)))
    | (dsimp only; (repeat' apply And.intro) <;> (repeat' split) <;> (first | (simp [apply_ite State.clk, apply_ite State.boot, apply_ite State.dram, apply_ite State.pads, apply_ite State.integ, apply_ite State.tap, apply_ite State.pending]; done) | (simp_all [apply_ite State.clk, apply_ite State.boot, apply_ite State.dram, apply_ite State.pads, apply_ite State.integ, apply_ite State.tap, apply_ite State.pending]; done)))
@[simp] theorem frame_execSanitizeCrypto (m : Mbx) (s : State) :
    (after (execSanitizeCrypto m s) s).clk = s.clk ∧ (after (execSanitizeCrypto m s) s).boot = s.boot ∧ (after (execSanitizeCrypto m s) s).dram = s.dram ∧ (after (execSanitizeCrypto m s) s).pads = s.pads ∧ (after (execSanitizeCrypto m s) s).integ = s.integ ∧ (after (execSanitizeCrypto m s) s).tap = s.tap ∧ (after (execSanitizeCrypto m s) s).pending = s.pending := by
  unfold execSanitizeCrypto
  first
    | (simp [apply_ite State.clk, apply_ite State.boot, apply_ite State.dram, apply_ite State.pads, apply_ite State.integ, apply_ite State.tap, apply_ite State.pending]; done)
    | ((repeat' split) <;> (first | (simp [apply_ite State.clk, apply_ite State.boot, apply_ite State.dram, apply_ite State.pads, apply_ite State.integ, apply_ite State.tap, apply_ite State.pending]; done) | (simp_all [apply_ite State.clk, apply_ite State.boot, apply_ite State.dram, apply_ite State.pads, apply_ite State.integ, apply_ite State.tap, apply_ite State.pending]; done)))
    | (dsimp only; (repeat' apply And.intro) <;> (repeat' split) <;> (first | (simp [apply_ite State.clk, apply_ite State.boot, apply_ite State.dram, apply_ite State.pads, apply_ite State.integ, apply_ite State.tap, apply_ite State.pending]; done) | (simp_all [apply_ite State.clk, apply_ite State.boot, apply_ite State.dram, apply_ite State.pads, apply_ite State.integ, apply_ite State.tap, apply_ite State.pending]; done)))
@[simp] theorem frame_execMemberAdd (m : Mbx) (s : State) :
    (after (execMemberAdd m s) s).clk = s.clk ∧ (after (execMemberAdd m s) s).boot = s.boot ∧ (after (execMemberAdd m s) s).dram = s.dram ∧ (after (execMemberAdd m s) s).pads = s.pads ∧ (after (execMemberAdd m s) s).integ = s.integ ∧ (after (execMemberAdd m s) s).tap = s.tap ∧ (after (execMemberAdd m s) s).pending = s.pending := by
  unfold execMemberAdd
  first
    | (simp [apply_ite State.clk, apply_ite State.boot, apply_ite State.dram, apply_ite State.pads, apply_ite State.integ, apply_ite State.tap, apply_ite State.pending]; done)
    | ((repeat' split) <;> (first | (simp [apply_ite State.clk, apply_ite State.boot, apply_ite State.dram, apply_ite State.pads, apply_ite State.integ, apply_ite State.tap, apply_ite State.pending]; done) | (simp_all [apply_ite State.clk, apply_ite State.boot, apply_ite State.dram, apply_ite State.pads, apply_ite State.integ, apply_ite State.tap, apply_ite State.pending]; done)))
    | (dsimp only; (repeat' apply And.intro) <;> (repeat' split) <;> (first | (simp [apply_ite State.clk, apply_ite State.boot, apply_ite State.dram, apply_ite State.pads, apply_ite State.integ, apply_ite State.tap, apply_ite State.pending]; done) | (simp_all [apply_ite State.clk, apply_ite State.boot, apply_ite State.dram, apply_ite State.pads, apply_ite State.integ, apply_ite State.tap, apply_ite State.pending]; done)))
@[simp] theorem frame_execMemberRetire (m : Mbx) (s : State) :
    (after (execMemberRetire m s) s).clk = s.clk ∧ (after (execMemberRetire m s) s).boot = s.boot ∧ (after (execMemberRetire m s) s).dram = s.dram ∧ (after (execMemberRetire m s) s).pads = s.pads ∧ (after (execMemberRetire m s) s).integ = s.integ ∧ (after (execMemberRetire m s) s).tap = s.tap ∧ (after (execMemberRetire m s) s).pending = s.pending := by
  unfold execMemberRetire
  first
    | (simp [apply_ite State.clk, apply_ite State.boot, apply_ite State.dram, apply_ite State.pads, apply_ite State.integ, apply_ite State.tap, apply_ite State.pending]; done)
    | ((repeat' split) <;> (first | (simp [apply_ite State.clk, apply_ite State.boot, apply_ite State.dram, apply_ite State.pads, apply_ite State.integ, apply_ite State.tap, apply_ite State.pending]; done) | (simp_all [apply_ite State.clk, apply_ite State.boot, apply_ite State.dram, apply_ite State.pads, apply_ite State.integ, apply_ite State.tap, apply_ite State.pending]; done)))
    | (dsimp only; (repeat' apply And.intro) <;> (repeat' split) <;> (first | (simp [apply_ite State.clk, apply_ite State.boot, apply_ite State.dram, apply_ite State.pads, apply_ite State.integ, apply_ite State.tap, apply_ite State.pending]; done) | (simp_all [apply_ite State.clk, apply_ite State.boot, apply_ite State.dram, apply_ite State.pads, apply_ite State.integ, apply_ite State.tap, apply_ite State.pending]; done)))
@[simp] theorem frame_execMemberSpareSet (m : Mbx) (s : State) :
    (after (execMemberSpareSet m s) s).clk = s.clk ∧ (after (execMemberSpareSet m s) s).boot = s.boot ∧ (after (execMemberSpareSet m s) s).dram = s.dram ∧ (after (execMemberSpareSet m s) s).pads = s.pads ∧ (after (execMemberSpareSet m s) s).integ = s.integ ∧ (after (execMemberSpareSet m s) s).tap = s.tap ∧ (after (execMemberSpareSet m s) s).pending = s.pending := by
  unfold execMemberSpareSet
  first
    | (simp [apply_ite State.clk, apply_ite State.boot, apply_ite State.dram, apply_ite State.pads, apply_ite State.integ, apply_ite State.tap, apply_ite State.pending]; done)
    | ((repeat' split) <;> (first | (simp [apply_ite State.clk, apply_ite State.boot, apply_ite State.dram, apply_ite State.pads, apply_ite State.integ, apply_ite State.tap, apply_ite State.pending]; done) | (simp_all [apply_ite State.clk, apply_ite State.boot, apply_ite State.dram, apply_ite State.pads, apply_ite State.integ, apply_ite State.tap, apply_ite State.pending]; done)))
    | (dsimp only; (repeat' apply And.intro) <;> (repeat' split) <;> (first | (simp [apply_ite State.clk, apply_ite State.boot, apply_ite State.dram, apply_ite State.pads, apply_ite State.integ, apply_ite State.tap, apply_ite State.pending]; done) | (simp_all [apply_ite State.clk, apply_ite State.boot, apply_ite State.dram, apply_ite State.pads, apply_ite State.integ, apply_ite State.tap, apply_ite State.pending]; done)))
@[simp] theorem frame_execMemberReplace (m : Mbx) (s : State) :
    (after (execMemberReplace m s) s).clk = s.clk ∧ (after (execMemberReplace m s) s).boot = s.boot ∧ (after (execMemberReplace m s) s).dram = s.dram ∧ (after (execMemberReplace m s) s).pads = s.pads ∧ (after (execMemberReplace m s) s).integ = s.integ ∧ (after (execMemberReplace m s) s).tap = s.tap ∧ (after (execMemberReplace m s) s).pending = s.pending := by
  unfold execMemberReplace
  first
    | (simp [apply_ite State.clk, apply_ite State.boot, apply_ite State.dram, apply_ite State.pads, apply_ite State.integ, apply_ite State.tap, apply_ite State.pending]; done)
    | ((repeat' split) <;> (first | (simp [apply_ite State.clk, apply_ite State.boot, apply_ite State.dram, apply_ite State.pads, apply_ite State.integ, apply_ite State.tap, apply_ite State.pending]; done) | (simp_all [apply_ite State.clk, apply_ite State.boot, apply_ite State.dram, apply_ite State.pads, apply_ite State.integ, apply_ite State.tap, apply_ite State.pending]; done)))
    | (dsimp only; (repeat' apply And.intro) <;> (repeat' split) <;> (first | (simp [apply_ite State.clk, apply_ite State.boot, apply_ite State.dram, apply_ite State.pads, apply_ite State.integ, apply_ite State.tap, apply_ite State.pending]; done) | (simp_all [apply_ite State.clk, apply_ite State.boot, apply_ite State.dram, apply_ite State.pads, apply_ite State.integ, apply_ite State.tap, apply_ite State.pending]; done)))
@[simp] theorem frame_execStewardMove (m : Mbx) (s : State) :
    (after (execStewardMove m s) s).clk = s.clk ∧ (after (execStewardMove m s) s).boot = s.boot ∧ (after (execStewardMove m s) s).dram = s.dram ∧ (after (execStewardMove m s) s).pads = s.pads ∧ (after (execStewardMove m s) s).integ = s.integ ∧ (after (execStewardMove m s) s).tap = s.tap ∧ (after (execStewardMove m s) s).pending = s.pending := by
  unfold execStewardMove
  first
    | (simp [apply_ite State.clk, apply_ite State.boot, apply_ite State.dram, apply_ite State.pads, apply_ite State.integ, apply_ite State.tap, apply_ite State.pending]; done)
    | ((repeat' split) <;> (first | (simp [apply_ite State.clk, apply_ite State.boot, apply_ite State.dram, apply_ite State.pads, apply_ite State.integ, apply_ite State.tap, apply_ite State.pending]; done) | (simp_all [apply_ite State.clk, apply_ite State.boot, apply_ite State.dram, apply_ite State.pads, apply_ite State.integ, apply_ite State.tap, apply_ite State.pending]; done)))
    | (dsimp only; (repeat' apply And.intro) <;> (repeat' split) <;> (first | (simp [apply_ite State.clk, apply_ite State.boot, apply_ite State.dram, apply_ite State.pads, apply_ite State.integ, apply_ite State.tap, apply_ite State.pending]; done) | (simp_all [apply_ite State.clk, apply_ite State.boot, apply_ite State.dram, apply_ite State.pads, apply_ite State.integ, apply_ite State.tap, apply_ite State.pending]; done)))
@[simp] theorem frame_execStewardPrefer (m : Mbx) (s : State) :
    (after (execStewardPrefer m s) s).clk = s.clk ∧ (after (execStewardPrefer m s) s).boot = s.boot ∧ (after (execStewardPrefer m s) s).dram = s.dram ∧ (after (execStewardPrefer m s) s).pads = s.pads ∧ (after (execStewardPrefer m s) s).integ = s.integ ∧ (after (execStewardPrefer m s) s).tap = s.tap ∧ (after (execStewardPrefer m s) s).pending = s.pending := by
  unfold execStewardPrefer
  first
    | (simp [apply_ite State.clk, apply_ite State.boot, apply_ite State.dram, apply_ite State.pads, apply_ite State.integ, apply_ite State.tap, apply_ite State.pending]; done)
    | ((repeat' split) <;> (first | (simp [apply_ite State.clk, apply_ite State.boot, apply_ite State.dram, apply_ite State.pads, apply_ite State.integ, apply_ite State.tap, apply_ite State.pending]; done) | (simp_all [apply_ite State.clk, apply_ite State.boot, apply_ite State.dram, apply_ite State.pads, apply_ite State.integ, apply_ite State.tap, apply_ite State.pending]; done)))
    | (dsimp only; (repeat' apply And.intro) <;> (repeat' split) <;> (first | (simp [apply_ite State.clk, apply_ite State.boot, apply_ite State.dram, apply_ite State.pads, apply_ite State.integ, apply_ite State.tap, apply_ite State.pending]; done) | (simp_all [apply_ite State.clk, apply_ite State.boot, apply_ite State.dram, apply_ite State.pads, apply_ite State.integ, apply_ite State.tap, apply_ite State.pending]; done)))
@[simp] theorem frame_execStewardDrill (m : Mbx) (s : State) :
    (after (execStewardDrill m s) s).clk = s.clk ∧ (after (execStewardDrill m s) s).boot = s.boot ∧ (after (execStewardDrill m s) s).dram = s.dram ∧ (after (execStewardDrill m s) s).pads = s.pads ∧ (after (execStewardDrill m s) s).integ = s.integ ∧ (after (execStewardDrill m s) s).tap = s.tap ∧ (after (execStewardDrill m s) s).pending = s.pending := by
  unfold execStewardDrill
  first
    | (simp [apply_ite State.clk, apply_ite State.boot, apply_ite State.dram, apply_ite State.pads, apply_ite State.integ, apply_ite State.tap, apply_ite State.pending]; done)
    | ((repeat' split) <;> (first | (simp [apply_ite State.clk, apply_ite State.boot, apply_ite State.dram, apply_ite State.pads, apply_ite State.integ, apply_ite State.tap, apply_ite State.pending]; done) | (simp_all [apply_ite State.clk, apply_ite State.boot, apply_ite State.dram, apply_ite State.pads, apply_ite State.integ, apply_ite State.tap, apply_ite State.pending]; done)))
    | (dsimp only; (repeat' apply And.intro) <;> (repeat' split) <;> (first | (simp [apply_ite State.clk, apply_ite State.boot, apply_ite State.dram, apply_ite State.pads, apply_ite State.integ, apply_ite State.tap, apply_ite State.pending]; done) | (simp_all [apply_ite State.clk, apply_ite State.boot, apply_ite State.dram, apply_ite State.pads, apply_ite State.integ, apply_ite State.tap, apply_ite State.pending]; done)))
@[simp] theorem frame_execEpochRebase (m : Mbx) (s : State) :
    (after (execEpochRebase m s) s).clk = s.clk ∧ (after (execEpochRebase m s) s).boot = s.boot ∧ (after (execEpochRebase m s) s).dram = s.dram ∧ (after (execEpochRebase m s) s).pads = s.pads ∧ (after (execEpochRebase m s) s).integ = s.integ ∧ (after (execEpochRebase m s) s).tap = s.tap ∧ (after (execEpochRebase m s) s).pending = s.pending := by
  unfold execEpochRebase
  first
    | (simp [apply_ite State.clk, apply_ite State.boot, apply_ite State.dram, apply_ite State.pads, apply_ite State.integ, apply_ite State.tap, apply_ite State.pending]; done)
    | ((repeat' split) <;> (first | (simp [apply_ite State.clk, apply_ite State.boot, apply_ite State.dram, apply_ite State.pads, apply_ite State.integ, apply_ite State.tap, apply_ite State.pending]; done) | (simp_all [apply_ite State.clk, apply_ite State.boot, apply_ite State.dram, apply_ite State.pads, apply_ite State.integ, apply_ite State.tap, apply_ite State.pending]; done)))
    | (dsimp only; (repeat' apply And.intro) <;> (repeat' split) <;> (first | (simp [apply_ite State.clk, apply_ite State.boot, apply_ite State.dram, apply_ite State.pads, apply_ite State.integ, apply_ite State.tap, apply_ite State.pending]; done) | (simp_all [apply_ite State.clk, apply_ite State.boot, apply_ite State.dram, apply_ite State.pads, apply_ite State.integ, apply_ite State.tap, apply_ite State.pending]; done)))
@[simp] theorem frame_execScratchpadCorrectedRead (bank : Fin 32) (address : Nat) (_intervened : Bool) (s : State) :
    (after (execScratchpadCorrectedRead bank address _intervened s) s).clk = s.clk ∧ (after (execScratchpadCorrectedRead bank address _intervened s) s).boot = s.boot ∧ (after (execScratchpadCorrectedRead bank address _intervened s) s).dram = s.dram ∧ (after (execScratchpadCorrectedRead bank address _intervened s) s).tap = s.tap ∧ (after (execScratchpadCorrectedRead bank address _intervened s) s).pending = s.pending := by
  unfold execScratchpadCorrectedRead
  first
    | (simp [apply_ite State.clk, apply_ite State.boot, apply_ite State.dram, apply_ite State.tap, apply_ite State.pending]; done)
    | ((repeat' split) <;> (first | (simp [apply_ite State.clk, apply_ite State.boot, apply_ite State.dram, apply_ite State.tap, apply_ite State.pending]; done) | (simp_all [apply_ite State.clk, apply_ite State.boot, apply_ite State.dram, apply_ite State.tap, apply_ite State.pending]; done)))
    | (dsimp only; (repeat' apply And.intro) <;> (repeat' split) <;> (first | (simp [apply_ite State.clk, apply_ite State.boot, apply_ite State.dram, apply_ite State.tap, apply_ite State.pending]; done) | (simp_all [apply_ite State.clk, apply_ite State.boot, apply_ite State.dram, apply_ite State.tap, apply_ite State.pending]; done)))
@[simp] theorem frame_execScratchpadUncorrectableRead (bank : Fin 32) (region : PadRegion) (s : State) :
    (after (execScratchpadUncorrectableRead bank region s) s).clk = s.clk ∧ (after (execScratchpadUncorrectableRead bank region s) s).dram = s.dram ∧ (after (execScratchpadUncorrectableRead bank region s) s).pads = s.pads ∧ (after (execScratchpadUncorrectableRead bank region s) s).tap = s.tap ∧ (after (execScratchpadUncorrectableRead bank region s) s).pending = s.pending := by
  unfold execScratchpadUncorrectableRead
  first
    | (simp [apply_ite State.clk, apply_ite State.dram, apply_ite State.pads, apply_ite State.tap, apply_ite State.pending]; done)
    | ((repeat' split) <;> (first | (simp [apply_ite State.clk, apply_ite State.dram, apply_ite State.pads, apply_ite State.tap, apply_ite State.pending]; done) | (simp_all [apply_ite State.clk, apply_ite State.dram, apply_ite State.pads, apply_ite State.tap, apply_ite State.pending]; done)))
    | (dsimp only; (repeat' apply And.intro) <;> (repeat' split) <;> (first | (simp [apply_ite State.clk, apply_ite State.dram, apply_ite State.pads, apply_ite State.tap, apply_ite State.pending]; done) | (simp_all [apply_ite State.clk, apply_ite State.dram, apply_ite State.pads, apply_ite State.tap, apply_ite State.pending]; done)))
@[simp] theorem frame_execBankHandover (bank : Fin 32) (waited : Bool) (lines : Nat) (s : State) :
    (after (execBankHandover bank waited lines s) s).clk = s.clk ∧ (after (execBankHandover bank waited lines s) s).boot = s.boot ∧ (after (execBankHandover bank waited lines s) s).dram = s.dram ∧ (after (execBankHandover bank waited lines s) s).integ = s.integ ∧ (after (execBankHandover bank waited lines s) s).tap = s.tap ∧ (after (execBankHandover bank waited lines s) s).pending = s.pending := by
  unfold execBankHandover
  first
    | (simp [apply_ite State.clk, apply_ite State.boot, apply_ite State.dram, apply_ite State.integ, apply_ite State.tap, apply_ite State.pending]; done)
    | ((repeat' split) <;> (first | (simp [apply_ite State.clk, apply_ite State.boot, apply_ite State.dram, apply_ite State.integ, apply_ite State.tap, apply_ite State.pending]; done) | (simp_all [apply_ite State.clk, apply_ite State.boot, apply_ite State.dram, apply_ite State.integ, apply_ite State.tap, apply_ite State.pending]; done)))
    | (dsimp only; (repeat' apply And.intro) <;> (repeat' split) <;> (first | (simp [apply_ite State.clk, apply_ite State.boot, apply_ite State.dram, apply_ite State.integ, apply_ite State.tap, apply_ite State.pending]; done) | (simp_all [apply_ite State.clk, apply_ite State.boot, apply_ite State.dram, apply_ite State.integ, apply_ite State.tap, apply_ite State.pending]; done)))
@[simp] theorem frame_execBankHandoverTimeout (bank : Fin 32) (s : State) :
    (after (execBankHandoverTimeout bank s) s).clk = s.clk ∧ (after (execBankHandoverTimeout bank s) s).boot = s.boot ∧ (after (execBankHandoverTimeout bank s) s).dram = s.dram ∧ (after (execBankHandoverTimeout bank s) s).integ = s.integ ∧ (after (execBankHandoverTimeout bank s) s).tap = s.tap ∧ (after (execBankHandoverTimeout bank s) s).pending = s.pending := by
  unfold execBankHandoverTimeout
  first
    | (simp [apply_ite State.clk, apply_ite State.boot, apply_ite State.dram, apply_ite State.integ, apply_ite State.tap, apply_ite State.pending]; done)
    | ((repeat' split) <;> (first | (simp [apply_ite State.clk, apply_ite State.boot, apply_ite State.dram, apply_ite State.integ, apply_ite State.tap, apply_ite State.pending]; done) | (simp_all [apply_ite State.clk, apply_ite State.boot, apply_ite State.dram, apply_ite State.integ, apply_ite State.tap, apply_ite State.pending]; done)))
    | (dsimp only; (repeat' apply And.intro) <;> (repeat' split) <;> (first | (simp [apply_ite State.clk, apply_ite State.boot, apply_ite State.dram, apply_ite State.integ, apply_ite State.tap, apply_ite State.pending]; done) | (simp_all [apply_ite State.clk, apply_ite State.boot, apply_ite State.dram, apply_ite State.integ, apply_ite State.tap, apply_ite State.pending]; done)))
@[simp] theorem frame_execBankAccessFault (target : Guarded) (master : Nat) (s : State) :
    (after (execBankAccessFault target master s) s).clk = s.clk ∧ (after (execBankAccessFault target master s) s).boot = s.boot ∧ (after (execBankAccessFault target master s) s).dram = s.dram ∧ (after (execBankAccessFault target master s) s).pads = s.pads ∧ (after (execBankAccessFault target master s) s).integ = s.integ ∧ (after (execBankAccessFault target master s) s).tap = s.tap ∧ (after (execBankAccessFault target master s) s).pending = s.pending := by
  unfold execBankAccessFault
  first
    | (simp [apply_ite State.clk, apply_ite State.boot, apply_ite State.dram, apply_ite State.pads, apply_ite State.integ, apply_ite State.tap, apply_ite State.pending]; done)
    | ((repeat' split) <;> (first | (simp [apply_ite State.clk, apply_ite State.boot, apply_ite State.dram, apply_ite State.pads, apply_ite State.integ, apply_ite State.tap, apply_ite State.pending]; done) | (simp_all [apply_ite State.clk, apply_ite State.boot, apply_ite State.dram, apply_ite State.pads, apply_ite State.integ, apply_ite State.tap, apply_ite State.pending]; done)))
    | (dsimp only; (repeat' apply And.intro) <;> (repeat' split) <;> (first | (simp [apply_ite State.clk, apply_ite State.boot, apply_ite State.dram, apply_ite State.pads, apply_ite State.integ, apply_ite State.tap, apply_ite State.pending]; done) | (simp_all [apply_ite State.clk, apply_ite State.boot, apply_ite State.dram, apply_ite State.pads, apply_ite State.integ, apply_ite State.tap, apply_ite State.pending]; done)))
@[simp] theorem frame_execBankRetentionWake (bank : Fin 32) (s : State) :
    (after (execBankRetentionWake bank s) s).clk = s.clk ∧ (after (execBankRetentionWake bank s) s).boot = s.boot ∧ (after (execBankRetentionWake bank s) s).dram = s.dram ∧ (after (execBankRetentionWake bank s) s).integ = s.integ ∧ (after (execBankRetentionWake bank s) s).tap = s.tap ∧ (after (execBankRetentionWake bank s) s).pending = s.pending := by
  unfold execBankRetentionWake
  first
    | (simp [apply_ite State.clk, apply_ite State.boot, apply_ite State.dram, apply_ite State.integ, apply_ite State.tap, apply_ite State.pending]; done)
    | ((repeat' split) <;> (first | (simp [apply_ite State.clk, apply_ite State.boot, apply_ite State.dram, apply_ite State.integ, apply_ite State.tap, apply_ite State.pending]; done) | (simp_all [apply_ite State.clk, apply_ite State.boot, apply_ite State.dram, apply_ite State.integ, apply_ite State.tap, apply_ite State.pending]; done)))
    | (dsimp only; (repeat' apply And.intro) <;> (repeat' split) <;> (first | (simp [apply_ite State.clk, apply_ite State.boot, apply_ite State.dram, apply_ite State.integ, apply_ite State.tap, apply_ite State.pending]; done) | (simp_all [apply_ite State.clk, apply_ite State.boot, apply_ite State.dram, apply_ite State.integ, apply_ite State.tap, apply_ite State.pending]; done)))
@[simp] theorem frame_execBankRetentionReturn (bank : Fin 32) (s : State) :
    (after (execBankRetentionReturn bank s) s).clk = s.clk ∧ (after (execBankRetentionReturn bank s) s).boot = s.boot ∧ (after (execBankRetentionReturn bank s) s).dram = s.dram ∧ (after (execBankRetentionReturn bank s) s).integ = s.integ ∧ (after (execBankRetentionReturn bank s) s).tap = s.tap ∧ (after (execBankRetentionReturn bank s) s).pending = s.pending := by
  unfold execBankRetentionReturn
  first
    | (simp [apply_ite State.clk, apply_ite State.boot, apply_ite State.dram, apply_ite State.integ, apply_ite State.tap, apply_ite State.pending]; done)
    | ((repeat' split) <;> (first | (simp [apply_ite State.clk, apply_ite State.boot, apply_ite State.dram, apply_ite State.integ, apply_ite State.tap, apply_ite State.pending]; done) | (simp_all [apply_ite State.clk, apply_ite State.boot, apply_ite State.dram, apply_ite State.integ, apply_ite State.tap, apply_ite State.pending]; done)))
    | (dsimp only; (repeat' apply And.intro) <;> (repeat' split) <;> (first | (simp [apply_ite State.clk, apply_ite State.boot, apply_ite State.dram, apply_ite State.integ, apply_ite State.tap, apply_ite State.pending]; done) | (simp_all [apply_ite State.clk, apply_ite State.boot, apply_ite State.dram, apply_ite State.integ, apply_ite State.tap, apply_ite State.pending]; done)))
@[simp] theorem frame_execLossOfVin (s : State) :
    (after (execLossOfVin s) s).pending = s.pending := by
  unfold execLossOfVin
  first
    | (simp [apply_ite State.pending]; done)
    | ((repeat' split) <;> (first | (simp [apply_ite State.pending]; done) | (simp_all [apply_ite State.pending]; done)))
    | (dsimp only; (repeat' apply And.intro) <;> (repeat' split) <;> (first | (simp [apply_ite State.pending]; done) | (simp_all [apply_ite State.pending]; done)))
@[simp] theorem frame_execVinCollapse (written : Nat) (s : State) :
    (after (execVinCollapse written s) s).pending = s.pending := by
  unfold execVinCollapse
  first
    | (simp [apply_ite State.pending]; done)
    | ((repeat' split) <;> (first | (simp [apply_ite State.pending]; done) | (simp_all [apply_ite State.pending]; done)))
    | (dsimp only; (repeat' apply And.intro) <;> (repeat' split) <;> (first | (simp [apply_ite State.pending]; done) | (simp_all [apply_ite State.pending]; done)))
@[simp] theorem frame_execPowerOnReset (straps : Straps) (facts : StartFacts) (vinMv : Nat) (s : State) :
    (after (execPowerOnReset straps facts vinMv s) s).dram = s.dram ∧ (after (execPowerOnReset straps facts vinMv s) s).integ = s.integ ∧ (after (execPowerOnReset straps facts vinMv s) s).tap = s.tap ∧ (after (execPowerOnReset straps facts vinMv s) s).pending = s.pending := by
  unfold execPowerOnReset
  first
    | (simp [apply_ite State.dram, apply_ite State.integ, apply_ite State.tap, apply_ite State.pending]; done)
    | ((repeat' split) <;> (first | (simp [apply_ite State.dram, apply_ite State.integ, apply_ite State.tap, apply_ite State.pending]; done) | (simp_all [apply_ite State.dram, apply_ite State.integ, apply_ite State.tap, apply_ite State.pending]; done)))
    | (dsimp only; (repeat' apply And.intro) <;> (repeat' split) <;> (first | (simp [apply_ite State.dram, apply_ite State.integ, apply_ite State.tap, apply_ite State.pending]; done) | (simp_all [apply_ite State.dram, apply_ite State.integ, apply_ite State.tap, apply_ite State.pending]; done)))
@[simp] theorem frame_execHotSwapInsertion (vsupMv busMv : Nat) (s : State) :
    (after (execHotSwapInsertion vsupMv busMv s) s).clk = s.clk ∧ (after (execHotSwapInsertion vsupMv busMv s) s).boot = s.boot ∧ (after (execHotSwapInsertion vsupMv busMv s) s).dram = s.dram ∧ (after (execHotSwapInsertion vsupMv busMv s) s).pads = s.pads ∧ (after (execHotSwapInsertion vsupMv busMv s) s).integ = s.integ ∧ (after (execHotSwapInsertion vsupMv busMv s) s).tap = s.tap ∧ (after (execHotSwapInsertion vsupMv busMv s) s).pending = s.pending := by
  unfold execHotSwapInsertion
  first
    | (simp [apply_ite State.clk, apply_ite State.boot, apply_ite State.dram, apply_ite State.pads, apply_ite State.integ, apply_ite State.tap, apply_ite State.pending]; done)
    | ((repeat' split) <;> (first | (simp [apply_ite State.clk, apply_ite State.boot, apply_ite State.dram, apply_ite State.pads, apply_ite State.integ, apply_ite State.tap, apply_ite State.pending]; done) | (simp_all [apply_ite State.clk, apply_ite State.boot, apply_ite State.dram, apply_ite State.pads, apply_ite State.integ, apply_ite State.tap, apply_ite State.pending]; done)))
    | (dsimp only; (repeat' apply And.intro) <;> (repeat' split) <;> (first | (simp [apply_ite State.clk, apply_ite State.boot, apply_ite State.dram, apply_ite State.pads, apply_ite State.integ, apply_ite State.tap, apply_ite State.pending]; done) | (simp_all [apply_ite State.clk, apply_ite State.boot, apply_ite State.dram, apply_ite State.pads, apply_ite State.integ, apply_ite State.tap, apply_ite State.pending]; done)))
@[simp] theorem frame_execInsertionTimeout (s : State) :
    (after (execInsertionTimeout s) s).clk = s.clk ∧ (after (execInsertionTimeout s) s).boot = s.boot ∧ (after (execInsertionTimeout s) s).dram = s.dram ∧ (after (execInsertionTimeout s) s).pads = s.pads ∧ (after (execInsertionTimeout s) s).integ = s.integ ∧ (after (execInsertionTimeout s) s).tap = s.tap ∧ (after (execInsertionTimeout s) s).pending = s.pending := by
  unfold execInsertionTimeout
  first
    | (simp [apply_ite State.clk, apply_ite State.boot, apply_ite State.dram, apply_ite State.pads, apply_ite State.integ, apply_ite State.tap, apply_ite State.pending]; done)
    | ((repeat' split) <;> (first | (simp [apply_ite State.clk, apply_ite State.boot, apply_ite State.dram, apply_ite State.pads, apply_ite State.integ, apply_ite State.tap, apply_ite State.pending]; done) | (simp_all [apply_ite State.clk, apply_ite State.boot, apply_ite State.dram, apply_ite State.pads, apply_ite State.integ, apply_ite State.tap, apply_ite State.pending]; done)))
    | (dsimp only; (repeat' apply And.intro) <;> (repeat' split) <;> (first | (simp [apply_ite State.clk, apply_ite State.boot, apply_ite State.dram, apply_ite State.pads, apply_ite State.integ, apply_ite State.tap, apply_ite State.pending]; done) | (simp_all [apply_ite State.clk, apply_ite State.boot, apply_ite State.dram, apply_ite State.pads, apply_ite State.integ, apply_ite State.tap, apply_ite State.pending]; done)))
@[simp] theorem frame_execInsertionRetry (s : State) :
    (after (execInsertionRetry s) s).clk = s.clk ∧ (after (execInsertionRetry s) s).boot = s.boot ∧ (after (execInsertionRetry s) s).dram = s.dram ∧ (after (execInsertionRetry s) s).pads = s.pads ∧ (after (execInsertionRetry s) s).integ = s.integ ∧ (after (execInsertionRetry s) s).tap = s.tap ∧ (after (execInsertionRetry s) s).pending = s.pending := by
  unfold execInsertionRetry
  first
    | (simp [apply_ite State.clk, apply_ite State.boot, apply_ite State.dram, apply_ite State.pads, apply_ite State.integ, apply_ite State.tap, apply_ite State.pending]; done)
    | ((repeat' split) <;> (first | (simp [apply_ite State.clk, apply_ite State.boot, apply_ite State.dram, apply_ite State.pads, apply_ite State.integ, apply_ite State.tap, apply_ite State.pending]; done) | (simp_all [apply_ite State.clk, apply_ite State.boot, apply_ite State.dram, apply_ite State.pads, apply_ite State.integ, apply_ite State.tap, apply_ite State.pending]; done)))
    | (dsimp only; (repeat' apply And.intro) <;> (repeat' split) <;> (first | (simp [apply_ite State.clk, apply_ite State.boot, apply_ite State.dram, apply_ite State.pads, apply_ite State.integ, apply_ite State.tap, apply_ite State.pending]; done) | (simp_all [apply_ite State.clk, apply_ite State.boot, apply_ite State.dram, apply_ite State.pads, apply_ite State.integ, apply_ite State.tap, apply_ite State.pending]; done)))
@[simp] theorem frame_execCircuitBreaker (s : State) :
    (after (execCircuitBreaker s) s).clk = s.clk ∧ (after (execCircuitBreaker s) s).boot = s.boot ∧ (after (execCircuitBreaker s) s).dram = s.dram ∧ (after (execCircuitBreaker s) s).pads = s.pads ∧ (after (execCircuitBreaker s) s).tap = s.tap ∧ (after (execCircuitBreaker s) s).pending = s.pending := by
  unfold execCircuitBreaker
  first
    | (simp [apply_ite State.clk, apply_ite State.boot, apply_ite State.dram, apply_ite State.pads, apply_ite State.tap, apply_ite State.pending]; done)
    | ((repeat' split) <;> (first | (simp [apply_ite State.clk, apply_ite State.boot, apply_ite State.dram, apply_ite State.pads, apply_ite State.tap, apply_ite State.pending]; done) | (simp_all [apply_ite State.clk, apply_ite State.boot, apply_ite State.dram, apply_ite State.pads, apply_ite State.tap, apply_ite State.pending]; done)))
    | (dsimp only; (repeat' apply And.intro) <;> (repeat' split) <;> (first | (simp [apply_ite State.clk, apply_ite State.boot, apply_ite State.dram, apply_ite State.pads, apply_ite State.tap, apply_ite State.pending]; done) | (simp_all [apply_ite State.clk, apply_ite State.boot, apply_ite State.dram, apply_ite State.pads, apply_ite State.tap, apply_ite State.pending]; done)))
@[simp] theorem frame_execFastTrip (s : State) :
    (after (execFastTrip s) s).clk = s.clk ∧ (after (execFastTrip s) s).boot = s.boot ∧ (after (execFastTrip s) s).dram = s.dram ∧ (after (execFastTrip s) s).pads = s.pads ∧ (after (execFastTrip s) s).tap = s.tap ∧ (after (execFastTrip s) s).pending = s.pending := by
  unfold execFastTrip
  first
    | (simp [apply_ite State.clk, apply_ite State.boot, apply_ite State.dram, apply_ite State.pads, apply_ite State.tap, apply_ite State.pending]; done)
    | ((repeat' split) <;> (first | (simp [apply_ite State.clk, apply_ite State.boot, apply_ite State.dram, apply_ite State.pads, apply_ite State.tap, apply_ite State.pending]; done) | (simp_all [apply_ite State.clk, apply_ite State.boot, apply_ite State.dram, apply_ite State.pads, apply_ite State.tap, apply_ite State.pending]; done)))
    | (dsimp only; (repeat' apply And.intro) <;> (repeat' split) <;> (first | (simp [apply_ite State.clk, apply_ite State.boot, apply_ite State.dram, apply_ite State.pads, apply_ite State.tap, apply_ite State.pending]; done) | (simp_all [apply_ite State.clk, apply_ite State.boot, apply_ite State.dram, apply_ite State.pads, apply_ite State.tap, apply_ite State.pending]; done)))
@[simp] theorem frame_execReverseCurrent (s : State) :
    (after (execReverseCurrent s) s).clk = s.clk ∧ (after (execReverseCurrent s) s).boot = s.boot ∧ (after (execReverseCurrent s) s).dram = s.dram ∧ (after (execReverseCurrent s) s).pads = s.pads ∧ (after (execReverseCurrent s) s).tap = s.tap ∧ (after (execReverseCurrent s) s).pending = s.pending := by
  unfold execReverseCurrent
  first
    | (simp [apply_ite State.clk, apply_ite State.boot, apply_ite State.dram, apply_ite State.pads, apply_ite State.tap, apply_ite State.pending]; done)
    | ((repeat' split) <;> (first | (simp [apply_ite State.clk, apply_ite State.boot, apply_ite State.dram, apply_ite State.pads, apply_ite State.tap, apply_ite State.pending]; done) | (simp_all [apply_ite State.clk, apply_ite State.boot, apply_ite State.dram, apply_ite State.pads, apply_ite State.tap, apply_ite State.pending]; done)))
    | (dsimp only; (repeat' apply And.intro) <;> (repeat' split) <;> (first | (simp [apply_ite State.clk, apply_ite State.boot, apply_ite State.dram, apply_ite State.pads, apply_ite State.tap, apply_ite State.pending]; done) | (simp_all [apply_ite State.clk, apply_ite State.boot, apply_ite State.dram, apply_ite State.pads, apply_ite State.tap, apply_ite State.pending]; done)))
@[simp] theorem frame_execVinBelowVPlp (vinMv : Nat) (s : State) :
    (after (execVinBelowVPlp vinMv s) s).clk = s.clk ∧ (after (execVinBelowVPlp vinMv s) s).boot = s.boot ∧ (after (execVinBelowVPlp vinMv s) s).dram = s.dram ∧ (after (execVinBelowVPlp vinMv s) s).pads = s.pads ∧ (after (execVinBelowVPlp vinMv s) s).tap = s.tap ∧ (after (execVinBelowVPlp vinMv s) s).pending = s.pending := by
  unfold execVinBelowVPlp
  first
    | (simp [apply_ite State.clk, apply_ite State.boot, apply_ite State.dram, apply_ite State.pads, apply_ite State.tap, apply_ite State.pending]; done)
    | ((repeat' split) <;> (first | (simp [apply_ite State.clk, apply_ite State.boot, apply_ite State.dram, apply_ite State.pads, apply_ite State.tap, apply_ite State.pending]; done) | (simp_all [apply_ite State.clk, apply_ite State.boot, apply_ite State.dram, apply_ite State.pads, apply_ite State.tap, apply_ite State.pending]; done)))
    | (dsimp only; (repeat' apply And.intro) <;> (repeat' split) <;> (first | (simp [apply_ite State.clk, apply_ite State.boot, apply_ite State.dram, apply_ite State.pads, apply_ite State.tap, apply_ite State.pending]; done) | (simp_all [apply_ite State.clk, apply_ite State.boot, apply_ite State.dram, apply_ite State.pads, apply_ite State.tap, apply_ite State.pending]; done)))
@[simp] theorem frame_execHsVsupBelowVPlp (vsupMv : Nat) (s : State) :
    (after (execHsVsupBelowVPlp vsupMv s) s).clk = s.clk ∧ (after (execHsVsupBelowVPlp vsupMv s) s).boot = s.boot ∧ (after (execHsVsupBelowVPlp vsupMv s) s).dram = s.dram ∧ (after (execHsVsupBelowVPlp vsupMv s) s).pads = s.pads ∧ (after (execHsVsupBelowVPlp vsupMv s) s).tap = s.tap ∧ (after (execHsVsupBelowVPlp vsupMv s) s).pending = s.pending := by
  unfold execHsVsupBelowVPlp
  first
    | (simp [apply_ite State.clk, apply_ite State.boot, apply_ite State.dram, apply_ite State.pads, apply_ite State.tap, apply_ite State.pending]; done)
    | ((repeat' split) <;> (first | (simp [apply_ite State.clk, apply_ite State.boot, apply_ite State.dram, apply_ite State.pads, apply_ite State.tap, apply_ite State.pending]; done) | (simp_all [apply_ite State.clk, apply_ite State.boot, apply_ite State.dram, apply_ite State.pads, apply_ite State.tap, apply_ite State.pending]; done)))
    | (dsimp only; (repeat' apply And.intro) <;> (repeat' split) <;> (first | (simp [apply_ite State.clk, apply_ite State.boot, apply_ite State.dram, apply_ite State.pads, apply_ite State.tap, apply_ite State.pending]; done) | (simp_all [apply_ite State.clk, apply_ite State.boot, apply_ite State.dram, apply_ite State.pads, apply_ite State.tap, apply_ite State.pending]; done)))
@[simp] theorem frame_execPlpNLow (s : State) :
    (after (execPlpNLow s) s).clk = s.clk ∧ (after (execPlpNLow s) s).boot = s.boot ∧ (after (execPlpNLow s) s).dram = s.dram ∧ (after (execPlpNLow s) s).pads = s.pads ∧ (after (execPlpNLow s) s).tap = s.tap ∧ (after (execPlpNLow s) s).pending = s.pending := by
  unfold execPlpNLow
  first
    | (simp [apply_ite State.clk, apply_ite State.boot, apply_ite State.dram, apply_ite State.pads, apply_ite State.tap, apply_ite State.pending]; done)
    | ((repeat' split) <;> (first | (simp [apply_ite State.clk, apply_ite State.boot, apply_ite State.dram, apply_ite State.pads, apply_ite State.tap, apply_ite State.pending]; done) | (simp_all [apply_ite State.clk, apply_ite State.boot, apply_ite State.dram, apply_ite State.pads, apply_ite State.tap, apply_ite State.pending]; done)))
    | (dsimp only; (repeat' apply And.intro) <;> (repeat' split) <;> (first | (simp [apply_ite State.clk, apply_ite State.boot, apply_ite State.dram, apply_ite State.pads, apply_ite State.tap, apply_ite State.pending]; done) | (simp_all [apply_ite State.clk, apply_ite State.boot, apply_ite State.dram, apply_ite State.pads, apply_ite State.tap, apply_ite State.pending]; done)))
@[simp] theorem frame_execThermalTrip (s : State) :
    (after (execThermalTrip s) s).clk = s.clk ∧ (after (execThermalTrip s) s).boot = s.boot ∧ (after (execThermalTrip s) s).dram = s.dram ∧ (after (execThermalTrip s) s).pads = s.pads ∧ (after (execThermalTrip s) s).tap = s.tap ∧ (after (execThermalTrip s) s).pending = s.pending := by
  unfold execThermalTrip
  first
    | (simp [apply_ite State.clk, apply_ite State.boot, apply_ite State.dram, apply_ite State.pads, apply_ite State.tap, apply_ite State.pending]; done)
    | ((repeat' split) <;> (first | (simp [apply_ite State.clk, apply_ite State.boot, apply_ite State.dram, apply_ite State.pads, apply_ite State.tap, apply_ite State.pending]; done) | (simp_all [apply_ite State.clk, apply_ite State.boot, apply_ite State.dram, apply_ite State.pads, apply_ite State.tap, apply_ite State.pending]; done)))
    | (dsimp only; (repeat' apply And.intro) <;> (repeat' split) <;> (first | (simp [apply_ite State.clk, apply_ite State.boot, apply_ite State.dram, apply_ite State.pads, apply_ite State.tap, apply_ite State.pending]; done) | (simp_all [apply_ite State.clk, apply_ite State.boot, apply_ite State.dram, apply_ite State.pads, apply_ite State.tap, apply_ite State.pending]; done)))
@[simp] theorem frame_execCoreRstNLow (s : State) :
    (after (execCoreRstNLow s) s).clk = s.clk ∧ (after (execCoreRstNLow s) s).boot = s.boot ∧ (after (execCoreRstNLow s) s).dram = s.dram ∧ (after (execCoreRstNLow s) s).pads = s.pads ∧ (after (execCoreRstNLow s) s).tap = s.tap ∧ (after (execCoreRstNLow s) s).pending = s.pending := by
  unfold execCoreRstNLow
  first
    | (simp [apply_ite State.clk, apply_ite State.boot, apply_ite State.dram, apply_ite State.pads, apply_ite State.tap, apply_ite State.pending]; done)
    | ((repeat' split) <;> (first | (simp [apply_ite State.clk, apply_ite State.boot, apply_ite State.dram, apply_ite State.pads, apply_ite State.tap, apply_ite State.pending]; done) | (simp_all [apply_ite State.clk, apply_ite State.boot, apply_ite State.dram, apply_ite State.pads, apply_ite State.tap, apply_ite State.pending]; done)))
    | (dsimp only; (repeat' apply And.intro) <;> (repeat' split) <;> (first | (simp [apply_ite State.clk, apply_ite State.boot, apply_ite State.dram, apply_ite State.pads, apply_ite State.tap, apply_ite State.pending]; done) | (simp_all [apply_ite State.clk, apply_ite State.boot, apply_ite State.dram, apply_ite State.pads, apply_ite State.tap, apply_ite State.pending]; done)))
@[simp] theorem frame_execWatchdogExpiry (s : State) :
    (after (execWatchdogExpiry s) s).clk = s.clk ∧ (after (execWatchdogExpiry s) s).dram = s.dram ∧ (after (execWatchdogExpiry s) s).pads = s.pads ∧ (after (execWatchdogExpiry s) s).tap = s.tap ∧ (after (execWatchdogExpiry s) s).pending = s.pending := by
  unfold execWatchdogExpiry
  first
    | (simp [apply_ite State.clk, apply_ite State.dram, apply_ite State.pads, apply_ite State.tap, apply_ite State.pending]; done)
    | ((repeat' split) <;> (first | (simp [apply_ite State.clk, apply_ite State.dram, apply_ite State.pads, apply_ite State.tap, apply_ite State.pending]; done) | (simp_all [apply_ite State.clk, apply_ite State.dram, apply_ite State.pads, apply_ite State.tap, apply_ite State.pending]; done)))
    | (dsimp only; (repeat' apply And.intro) <;> (repeat' split) <;> (first | (simp [apply_ite State.clk, apply_ite State.dram, apply_ite State.pads, apply_ite State.tap, apply_ite State.pending]; done) | (simp_all [apply_ite State.clk, apply_ite State.dram, apply_ite State.pads, apply_ite State.tap, apply_ite State.pending]; done)))
@[simp] theorem frame_execLastTideComplete (facts : StartFacts) (s : State) :
    (after (execLastTideComplete facts s) s).tap = s.tap ∧ (after (execLastTideComplete facts s) s).pending = s.pending := by
  unfold execLastTideComplete
  first
    | (simp [apply_ite State.tap, apply_ite State.pending]; done)
    | ((repeat' split) <;> (first | (simp [apply_ite State.tap, apply_ite State.pending]; done) | (simp_all [apply_ite State.tap, apply_ite State.pending]; done)))
    | (dsimp only; (repeat' apply And.intro) <;> (repeat' split) <;> (first | (simp [apply_ite State.tap, apply_ite State.pending]; done) | (simp_all [apply_ite State.tap, apply_ite State.pending]; done)))
@[simp] theorem frame_execVinRecovery (vinMv : Nat) (facts : StartFacts) (s : State) :
    (after (execVinRecovery vinMv facts s) s).clk = s.clk ∧ (after (execVinRecovery vinMv facts s) s).dram = s.dram ∧ (after (execVinRecovery vinMv facts s) s).integ = s.integ ∧ (after (execVinRecovery vinMv facts s) s).tap = s.tap ∧ (after (execVinRecovery vinMv facts s) s).pending = s.pending := by
  unfold execVinRecovery
  first
    | (simp [apply_ite State.clk, apply_ite State.dram, apply_ite State.integ, apply_ite State.tap, apply_ite State.pending]; done)
    | ((repeat' split) <;> (first | (simp [apply_ite State.clk, apply_ite State.dram, apply_ite State.integ, apply_ite State.tap, apply_ite State.pending]; done) | (simp_all [apply_ite State.clk, apply_ite State.dram, apply_ite State.integ, apply_ite State.tap, apply_ite State.pending]; done)))
    | (dsimp only; (repeat' apply And.intro) <;> (repeat' split) <;> (first | (simp [apply_ite State.clk, apply_ite State.dram, apply_ite State.integ, apply_ite State.tap, apply_ite State.pending]; done) | (simp_all [apply_ite State.clk, apply_ite State.dram, apply_ite State.integ, apply_ite State.tap, apply_ite State.pending]; done)))
@[simp] theorem frame_execPlpNHigh (facts : StartFacts) (s : State) :
    (after (execPlpNHigh facts s) s).clk = s.clk ∧ (after (execPlpNHigh facts s) s).dram = s.dram ∧ (after (execPlpNHigh facts s) s).integ = s.integ ∧ (after (execPlpNHigh facts s) s).tap = s.tap ∧ (after (execPlpNHigh facts s) s).pending = s.pending := by
  unfold execPlpNHigh
  first
    | (simp [apply_ite State.clk, apply_ite State.dram, apply_ite State.integ, apply_ite State.tap, apply_ite State.pending]; done)
    | ((repeat' split) <;> (first | (simp [apply_ite State.clk, apply_ite State.dram, apply_ite State.integ, apply_ite State.tap, apply_ite State.pending]; done) | (simp_all [apply_ite State.clk, apply_ite State.dram, apply_ite State.integ, apply_ite State.tap, apply_ite State.pending]; done)))
    | (dsimp only; (repeat' apply And.intro) <;> (repeat' split) <;> (first | (simp [apply_ite State.clk, apply_ite State.dram, apply_ite State.integ, apply_ite State.tap, apply_ite State.pending]; done) | (simp_all [apply_ite State.clk, apply_ite State.dram, apply_ite State.integ, apply_ite State.tap, apply_ite State.pending]; done)))
@[simp] theorem frame_execCoreRstNHigh (facts : StartFacts) (s : State) :
    (after (execCoreRstNHigh facts s) s).clk = s.clk ∧ (after (execCoreRstNHigh facts s) s).dram = s.dram ∧ (after (execCoreRstNHigh facts s) s).integ = s.integ ∧ (after (execCoreRstNHigh facts s) s).tap = s.tap ∧ (after (execCoreRstNHigh facts s) s).pending = s.pending := by
  unfold execCoreRstNHigh
  first
    | (simp [apply_ite State.clk, apply_ite State.dram, apply_ite State.integ, apply_ite State.tap, apply_ite State.pending]; done)
    | ((repeat' split) <;> (first | (simp [apply_ite State.clk, apply_ite State.dram, apply_ite State.integ, apply_ite State.tap, apply_ite State.pending]; done) | (simp_all [apply_ite State.clk, apply_ite State.dram, apply_ite State.integ, apply_ite State.tap, apply_ite State.pending]; done)))
    | (dsimp only; (repeat' apply And.intro) <;> (repeat' split) <;> (first | (simp [apply_ite State.clk, apply_ite State.dram, apply_ite State.integ, apply_ite State.tap, apply_ite State.pending]; done) | (simp_all [apply_ite State.clk, apply_ite State.dram, apply_ite State.integ, apply_ite State.tap, apply_ite State.pending]; done)))
@[simp] theorem frame_execSagTestPeriod (vinMv : Nat) (s : State) :
    (after (execSagTestPeriod vinMv s) s).clk = s.clk ∧ (after (execSagTestPeriod vinMv s) s).boot = s.boot ∧ (after (execSagTestPeriod vinMv s) s).dram = s.dram ∧ (after (execSagTestPeriod vinMv s) s).pads = s.pads ∧ (after (execSagTestPeriod vinMv s) s).integ = s.integ ∧ (after (execSagTestPeriod vinMv s) s).tap = s.tap ∧ (after (execSagTestPeriod vinMv s) s).pending = s.pending := by
  unfold execSagTestPeriod
  first
    | (simp [apply_ite State.clk, apply_ite State.boot, apply_ite State.dram, apply_ite State.pads, apply_ite State.integ, apply_ite State.tap, apply_ite State.pending]; done)
    | ((repeat' split) <;> (first | (simp [apply_ite State.clk, apply_ite State.boot, apply_ite State.dram, apply_ite State.pads, apply_ite State.integ, apply_ite State.tap, apply_ite State.pending]; done) | (simp_all [apply_ite State.clk, apply_ite State.boot, apply_ite State.dram, apply_ite State.pads, apply_ite State.integ, apply_ite State.tap, apply_ite State.pending]; done)))
    | (dsimp only; (repeat' apply And.intro) <;> (repeat' split) <;> (first | (simp [apply_ite State.clk, apply_ite State.boot, apply_ite State.dram, apply_ite State.pads, apply_ite State.integ, apply_ite State.tap, apply_ite State.pending]; done) | (simp_all [apply_ite State.clk, apply_ite State.boot, apply_ite State.dram, apply_ite State.pads, apply_ite State.integ, apply_ite State.tap, apply_ite State.pending]; done)))
@[simp] theorem frame_execSagTestEnd (currentMa v1Mv v2Mv : Nat) (s : State) :
    (after (execSagTestEnd currentMa v1Mv v2Mv s) s).clk = s.clk ∧ (after (execSagTestEnd currentMa v1Mv v2Mv s) s).boot = s.boot ∧ (after (execSagTestEnd currentMa v1Mv v2Mv s) s).dram = s.dram ∧ (after (execSagTestEnd currentMa v1Mv v2Mv s) s).pads = s.pads ∧ (after (execSagTestEnd currentMa v1Mv v2Mv s) s).tap = s.tap ∧ (after (execSagTestEnd currentMa v1Mv v2Mv s) s).pending = s.pending := by
  unfold execSagTestEnd
  first
    | (simp [apply_ite State.clk, apply_ite State.boot, apply_ite State.dram, apply_ite State.pads, apply_ite State.tap, apply_ite State.pending]; done)
    | ((repeat' split) <;> (first | (simp [apply_ite State.clk, apply_ite State.boot, apply_ite State.dram, apply_ite State.pads, apply_ite State.tap, apply_ite State.pending]; done) | (simp_all [apply_ite State.clk, apply_ite State.boot, apply_ite State.dram, apply_ite State.pads, apply_ite State.tap, apply_ite State.pending]; done)))
    | (dsimp only; (repeat' apply And.intro) <;> (repeat' split) <;> (first | (simp [apply_ite State.clk, apply_ite State.boot, apply_ite State.dram, apply_ite State.pads, apply_ite State.tap, apply_ite State.pending]; done) | (simp_all [apply_ite State.clk, apply_ite State.boot, apply_ite State.dram, apply_ite State.pads, apply_ite State.tap, apply_ite State.pending]; done)))
@[simp] theorem frame_execSagTest (m : Mbx) (s : State) :
    (after (execSagTest m s) s).clk = s.clk ∧ (after (execSagTest m s) s).boot = s.boot ∧ (after (execSagTest m s) s).dram = s.dram ∧ (after (execSagTest m s) s).pads = s.pads ∧ (after (execSagTest m s) s).integ = s.integ ∧ (after (execSagTest m s) s).tap = s.tap ∧ (after (execSagTest m s) s).pending = s.pending := by
  unfold execSagTest
  first
    | (simp [apply_ite State.clk, apply_ite State.boot, apply_ite State.dram, apply_ite State.pads, apply_ite State.integ, apply_ite State.tap, apply_ite State.pending]; done)
    | ((repeat' split) <;> (first | (simp [apply_ite State.clk, apply_ite State.boot, apply_ite State.dram, apply_ite State.pads, apply_ite State.integ, apply_ite State.tap, apply_ite State.pending]; done) | (simp_all [apply_ite State.clk, apply_ite State.boot, apply_ite State.dram, apply_ite State.pads, apply_ite State.integ, apply_ite State.tap, apply_ite State.pending]; done)))
    | (dsimp only; (repeat' apply And.intro) <;> (repeat' split) <;> (first | (simp [apply_ite State.clk, apply_ite State.boot, apply_ite State.dram, apply_ite State.pads, apply_ite State.integ, apply_ite State.tap, apply_ite State.pending]; done) | (simp_all [apply_ite State.clk, apply_ite State.boot, apply_ite State.dram, apply_ite State.pads, apply_ite State.integ, apply_ite State.tap, apply_ite State.pending]; done)))
@[simp] theorem frame_execSlackEntry (s : State) :
    (after (execSlackEntry s) s).clk = s.clk ∧ (after (execSlackEntry s) s).boot = s.boot ∧ (after (execSlackEntry s) s).dram = s.dram ∧ (after (execSlackEntry s) s).pads = s.pads ∧ (after (execSlackEntry s) s).tap = s.tap ∧ (after (execSlackEntry s) s).pending = s.pending := by
  unfold execSlackEntry
  first
    | (simp [apply_ite State.clk, apply_ite State.boot, apply_ite State.dram, apply_ite State.pads, apply_ite State.tap, apply_ite State.pending]; done)
    | ((repeat' split) <;> (first | (simp [apply_ite State.clk, apply_ite State.boot, apply_ite State.dram, apply_ite State.pads, apply_ite State.tap, apply_ite State.pending]; done) | (simp_all [apply_ite State.clk, apply_ite State.boot, apply_ite State.dram, apply_ite State.pads, apply_ite State.tap, apply_ite State.pending]; done)))
    | (dsimp only; (repeat' apply And.intro) <;> (repeat' split) <;> (first | (simp [apply_ite State.clk, apply_ite State.boot, apply_ite State.dram, apply_ite State.pads, apply_ite State.tap, apply_ite State.pending]; done) | (simp_all [apply_ite State.clk, apply_ite State.boot, apply_ite State.dram, apply_ite State.pads, apply_ite State.tap, apply_ite State.pending]; done)))
@[simp] theorem frame_execVetoHoldRequest (block : HeldBlock) (released : Bool) (s : State) :
    (after (execVetoHoldRequest block released s) s).clk = s.clk ∧ (after (execVetoHoldRequest block released s) s).boot = s.boot ∧ (after (execVetoHoldRequest block released s) s).dram = s.dram ∧ (after (execVetoHoldRequest block released s) s).pads = s.pads ∧ (after (execVetoHoldRequest block released s) s).tap = s.tap ∧ (after (execVetoHoldRequest block released s) s).pending = s.pending := by
  unfold execVetoHoldRequest
  first
    | (simp [apply_ite State.clk, apply_ite State.boot, apply_ite State.dram, apply_ite State.pads, apply_ite State.tap, apply_ite State.pending]; done)
    | ((repeat' split) <;> (first | (simp [apply_ite State.clk, apply_ite State.boot, apply_ite State.dram, apply_ite State.pads, apply_ite State.tap, apply_ite State.pending]; done) | (simp_all [apply_ite State.clk, apply_ite State.boot, apply_ite State.dram, apply_ite State.pads, apply_ite State.tap, apply_ite State.pending]; done)))
    | (dsimp only; (repeat' apply And.intro) <;> (repeat' split) <;> (first | (simp [apply_ite State.clk, apply_ite State.boot, apply_ite State.dram, apply_ite State.pads, apply_ite State.tap, apply_ite State.pending]; done) | (simp_all [apply_ite State.clk, apply_ite State.boot, apply_ite State.dram, apply_ite State.pads, apply_ite State.tap, apply_ite State.pending]; done)))
@[simp] theorem frame_execVetoTimeout (block : HeldBlock) (s : State) :
    (after (execVetoTimeout block s) s).clk = s.clk ∧ (after (execVetoTimeout block s) s).boot = s.boot ∧ (after (execVetoTimeout block s) s).dram = s.dram ∧ (after (execVetoTimeout block s) s).pads = s.pads ∧ (after (execVetoTimeout block s) s).tap = s.tap ∧ (after (execVetoTimeout block s) s).pending = s.pending := by
  unfold execVetoTimeout
  first
    | (simp [apply_ite State.clk, apply_ite State.boot, apply_ite State.dram, apply_ite State.pads, apply_ite State.tap, apply_ite State.pending]; done)
    | ((repeat' split) <;> (first | (simp [apply_ite State.clk, apply_ite State.boot, apply_ite State.dram, apply_ite State.pads, apply_ite State.tap, apply_ite State.pending]; done) | (simp_all [apply_ite State.clk, apply_ite State.boot, apply_ite State.dram, apply_ite State.pads, apply_ite State.tap, apply_ite State.pending]; done)))
    | (dsimp only; (repeat' apply And.intro) <;> (repeat' split) <;> (first | (simp [apply_ite State.clk, apply_ite State.boot, apply_ite State.dram, apply_ite State.pads, apply_ite State.tap, apply_ite State.pending]; done) | (simp_all [apply_ite State.clk, apply_ite State.boot, apply_ite State.dram, apply_ite State.pads, apply_ite State.tap, apply_ite State.pending]; done)))
@[simp] theorem frame_execNeapEntry (s : State) :
    (after (execNeapEntry s) s).clk = s.clk ∧ (after (execNeapEntry s) s).boot = s.boot ∧ (after (execNeapEntry s) s).tap = s.tap ∧ (after (execNeapEntry s) s).pending = s.pending := by
  unfold execNeapEntry
  first
    | (simp [apply_ite State.clk, apply_ite State.boot, apply_ite State.tap, apply_ite State.pending]; done)
    | ((repeat' split) <;> (first | (simp [apply_ite State.clk, apply_ite State.boot, apply_ite State.tap, apply_ite State.pending]; done) | (simp_all [apply_ite State.clk, apply_ite State.boot, apply_ite State.tap, apply_ite State.pending]; done)))
    | (dsimp only; (repeat' apply And.intro) <;> (repeat' split) <;> (first | (simp [apply_ite State.clk, apply_ite State.boot, apply_ite State.tap, apply_ite State.pending]; done) | (simp_all [apply_ite State.clk, apply_ite State.boot, apply_ite State.tap, apply_ite State.pending]; done)))
@[simp] theorem frame_execPowerStateExit (w : WakeEvent) (s : State) :
    (after (execPowerStateExit w s) s).clk = s.clk ∧ (after (execPowerStateExit w s) s).boot = s.boot ∧ (after (execPowerStateExit w s) s).tap = s.tap ∧ (after (execPowerStateExit w s) s).pending = s.pending := by
  unfold execPowerStateExit
  first
    | (simp [apply_ite State.clk, apply_ite State.boot, apply_ite State.tap, apply_ite State.pending]; done)
    | ((repeat' split) <;> (first | (simp [apply_ite State.clk, apply_ite State.boot, apply_ite State.tap, apply_ite State.pending]; done) | (simp_all [apply_ite State.clk, apply_ite State.boot, apply_ite State.tap, apply_ite State.pending]; done)))
    | (dsimp only; (repeat' apply And.intro) <;> (repeat' split) <;> (first | (simp [apply_ite State.clk, apply_ite State.boot, apply_ite State.tap, apply_ite State.pending]; done) | (simp_all [apply_ite State.clk, apply_ite State.boot, apply_ite State.tap, apply_ite State.pending]; done)))
@[simp] theorem frame_execTransitLoadWake (s : State) :
    (after (execTransitLoadWake s) s).clk = s.clk ∧ (after (execTransitLoadWake s) s).boot = s.boot ∧ (after (execTransitLoadWake s) s).tap = s.tap ∧ (after (execTransitLoadWake s) s).pending = s.pending := by
  unfold execTransitLoadWake
  first
    | (simp [apply_ite State.clk, apply_ite State.boot, apply_ite State.tap, apply_ite State.pending]; done)
    | ((repeat' split) <;> (first | (simp [apply_ite State.clk, apply_ite State.boot, apply_ite State.tap, apply_ite State.pending]; done) | (simp_all [apply_ite State.clk, apply_ite State.boot, apply_ite State.tap, apply_ite State.pending]; done)))
    | (dsimp only; (repeat' apply And.intro) <;> (repeat' split) <;> (first | (simp [apply_ite State.clk, apply_ite State.boot, apply_ite State.tap, apply_ite State.pending]; done) | (simp_all [apply_ite State.clk, apply_ite State.boot, apply_ite State.tap, apply_ite State.pending]; done)))
@[simp] theorem frame_execEbbHandoverTimeout (s : State) :
    (after (execEbbHandoverTimeout s) s).clk = s.clk ∧ (after (execEbbHandoverTimeout s) s).boot = s.boot ∧ (after (execEbbHandoverTimeout s) s).dram = s.dram ∧ (after (execEbbHandoverTimeout s) s).pads = s.pads ∧ (after (execEbbHandoverTimeout s) s).integ = s.integ ∧ (after (execEbbHandoverTimeout s) s).tap = s.tap ∧ (after (execEbbHandoverTimeout s) s).pending = s.pending := by
  unfold execEbbHandoverTimeout
  first
    | (simp [apply_ite State.clk, apply_ite State.boot, apply_ite State.dram, apply_ite State.pads, apply_ite State.integ, apply_ite State.tap, apply_ite State.pending]; done)
    | ((repeat' split) <;> (first | (simp [apply_ite State.clk, apply_ite State.boot, apply_ite State.dram, apply_ite State.pads, apply_ite State.integ, apply_ite State.tap, apply_ite State.pending]; done) | (simp_all [apply_ite State.clk, apply_ite State.boot, apply_ite State.dram, apply_ite State.pads, apply_ite State.integ, apply_ite State.tap, apply_ite State.pending]; done)))
    | (dsimp only; (repeat' apply And.intro) <;> (repeat' split) <;> (first | (simp [apply_ite State.clk, apply_ite State.boot, apply_ite State.dram, apply_ite State.pads, apply_ite State.integ, apply_ite State.tap, apply_ite State.pending]; done) | (simp_all [apply_ite State.clk, apply_ite State.boot, apply_ite State.dram, apply_ite State.pads, apply_ite State.integ, apply_ite State.tap, apply_ite State.pending]; done)))
@[simp] theorem frame_execEbbEnter (m : Mbx) (s : State) :
    (after (execEbbEnter m s) s).tap = s.tap ∧ (after (execEbbEnter m s) s).pending = s.pending := by
  unfold execEbbEnter
  first
    | (simp [apply_ite State.tap, apply_ite State.pending]; done)
    | ((repeat' split) <;> (first | (simp [apply_ite State.tap, apply_ite State.pending]; done) | (simp_all [apply_ite State.tap, apply_ite State.pending]; done)))
    | (dsimp only; (repeat' apply And.intro) <;> (repeat' split) <;> (first | (simp [apply_ite State.tap, apply_ite State.pending]; done) | (simp_all [apply_ite State.tap, apply_ite State.pending]; done)))
@[simp] theorem frame_execEbbExit (w : EbbWake) (cool : Bool) (facts : StartFacts) (s : State) :
    (after (execEbbExit w cool facts s) s).tap = s.tap ∧ (after (execEbbExit w cool facts s) s).pending = s.pending := by
  unfold execEbbExit
  first
    | (simp [apply_ite State.tap, apply_ite State.pending]; done)
    | ((repeat' split) <;> (first | (simp [apply_ite State.tap, apply_ite State.pending]; done) | (simp_all [apply_ite State.tap, apply_ite State.pending]; done)))
    | (dsimp only; (repeat' apply And.intro) <;> (repeat' split) <;> (first | (simp [apply_ite State.tap, apply_ite State.pending]; done) | (simp_all [apply_ite State.tap, apply_ite State.pending]; done)))
@[simp] theorem frame_execX32CrystalStop (s : State) :
    (after (execX32CrystalStop s) s).boot = s.boot ∧ (after (execX32CrystalStop s) s).dram = s.dram ∧ (after (execX32CrystalStop s) s).pads = s.pads ∧ (after (execX32CrystalStop s) s).integ = s.integ ∧ (after (execX32CrystalStop s) s).tap = s.tap ∧ (after (execX32CrystalStop s) s).pending = s.pending := by
  unfold execX32CrystalStop
  first
    | (simp [apply_ite State.boot, apply_ite State.dram, apply_ite State.pads, apply_ite State.integ, apply_ite State.tap, apply_ite State.pending]; done)
    | ((repeat' split) <;> (first | (simp [apply_ite State.boot, apply_ite State.dram, apply_ite State.pads, apply_ite State.integ, apply_ite State.tap, apply_ite State.pending]; done) | (simp_all [apply_ite State.boot, apply_ite State.dram, apply_ite State.pads, apply_ite State.integ, apply_ite State.tap, apply_ite State.pending]; done)))
    | (dsimp only; (repeat' apply And.intro) <;> (repeat' split) <;> (first | (simp [apply_ite State.boot, apply_ite State.dram, apply_ite State.pads, apply_ite State.integ, apply_ite State.tap, apply_ite State.pending]; done) | (simp_all [apply_ite State.boot, apply_ite State.dram, apply_ite State.pads, apply_ite State.integ, apply_ite State.tap, apply_ite State.pending]; done)))
@[simp] theorem frame_execSupplyRailInRange (vccqf : Bool) (s : State) :
    (after (execSupplyRailInRange vccqf s) s).clk = s.clk ∧ (after (execSupplyRailInRange vccqf s) s).pads = s.pads ∧ (after (execSupplyRailInRange vccqf s) s).integ = s.integ ∧ (after (execSupplyRailInRange vccqf s) s).tap = s.tap ∧ (after (execSupplyRailInRange vccqf s) s).pending = s.pending := by
  unfold execSupplyRailInRange
  first
    | (simp [apply_ite State.clk, apply_ite State.pads, apply_ite State.integ, apply_ite State.tap, apply_ite State.pending]; done)
    | ((repeat' split) <;> (first | (simp [apply_ite State.clk, apply_ite State.pads, apply_ite State.integ, apply_ite State.tap, apply_ite State.pending]; done) | (simp_all [apply_ite State.clk, apply_ite State.pads, apply_ite State.integ, apply_ite State.tap, apply_ite State.pending]; done)))
    | (dsimp only; (repeat' apply And.intro) <;> (repeat' split) <;> (first | (simp [apply_ite State.clk, apply_ite State.pads, apply_ite State.integ, apply_ite State.tap, apply_ite State.pending]; done) | (simp_all [apply_ite State.clk, apply_ite State.pads, apply_ite State.integ, apply_ite State.tap, apply_ite State.pending]; done)))
@[simp] theorem frame_execRailTimeout (vccqf : Bool) (s : State) :
    (after (execRailTimeout vccqf s) s).clk = s.clk ∧ (after (execRailTimeout vccqf s) s).dram = s.dram ∧ (after (execRailTimeout vccqf s) s).pads = s.pads ∧ (after (execRailTimeout vccqf s) s).integ = s.integ ∧ (after (execRailTimeout vccqf s) s).tap = s.tap ∧ (after (execRailTimeout vccqf s) s).pending = s.pending := by
  unfold execRailTimeout
  first
    | (simp [apply_ite State.clk, apply_ite State.dram, apply_ite State.pads, apply_ite State.integ, apply_ite State.tap, apply_ite State.pending]; done)
    | ((repeat' split) <;> (first | (simp [apply_ite State.clk, apply_ite State.dram, apply_ite State.pads, apply_ite State.integ, apply_ite State.tap, apply_ite State.pending]; done) | (simp_all [apply_ite State.clk, apply_ite State.dram, apply_ite State.pads, apply_ite State.integ, apply_ite State.tap, apply_ite State.pending]; done)))
    | (dsimp only; (repeat' apply And.intro) <;> (repeat' split) <;> (first | (simp [apply_ite State.clk, apply_ite State.dram, apply_ite State.pads, apply_ite State.integ, apply_ite State.tap, apply_ite State.pending]; done) | (simp_all [apply_ite State.clk, apply_ite State.dram, apply_ite State.pads, apply_ite State.integ, apply_ite State.tap, apply_ite State.pending]; done)))
@[simp] theorem frame_execFwActivate (m : Mbx) (s : State) :
    (after (execFwActivate m s) s).clk = s.clk ∧ (after (execFwActivate m s) s).boot = s.boot ∧ (after (execFwActivate m s) s).dram = s.dram ∧ (after (execFwActivate m s) s).pads = s.pads ∧ (after (execFwActivate m s) s).tap = s.tap ∧ (after (execFwActivate m s) s).pending = s.pending := by
  unfold execFwActivate
  first
    | (simp [apply_ite State.clk, apply_ite State.boot, apply_ite State.dram, apply_ite State.pads, apply_ite State.tap, apply_ite State.pending]; done)
    | ((repeat' split) <;> (first | (simp [apply_ite State.clk, apply_ite State.boot, apply_ite State.dram, apply_ite State.pads, apply_ite State.tap, apply_ite State.pending]; done) | (simp_all [apply_ite State.clk, apply_ite State.boot, apply_ite State.dram, apply_ite State.pads, apply_ite State.tap, apply_ite State.pending]; done)))
    | (dsimp only; (repeat' apply And.intro) <;> (repeat' split) <;> (first | (simp [apply_ite State.clk, apply_ite State.boot, apply_ite State.dram, apply_ite State.pads, apply_ite State.tap, apply_ite State.pending]; done) | (simp_all [apply_ite State.clk, apply_ite State.boot, apply_ite State.dram, apply_ite State.pads, apply_ite State.tap, apply_ite State.pending]; done)))
@[simp] theorem frame_execTrialClear (s : State) :
    (after (execTrialClear s) s).clk = s.clk ∧ (after (execTrialClear s) s).dram = s.dram ∧ (after (execTrialClear s) s).pads = s.pads ∧ (after (execTrialClear s) s).integ = s.integ ∧ (after (execTrialClear s) s).tap = s.tap ∧ (after (execTrialClear s) s).pending = s.pending := by
  unfold execTrialClear
  first
    | (simp [apply_ite State.clk, apply_ite State.dram, apply_ite State.pads, apply_ite State.integ, apply_ite State.tap, apply_ite State.pending]; done)
    | ((repeat' split) <;> (first | (simp [apply_ite State.clk, apply_ite State.dram, apply_ite State.pads, apply_ite State.integ, apply_ite State.tap, apply_ite State.pending]; done) | (simp_all [apply_ite State.clk, apply_ite State.dram, apply_ite State.pads, apply_ite State.integ, apply_ite State.tap, apply_ite State.pending]; done)))
    | (dsimp only; (repeat' apply And.intro) <;> (repeat' split) <;> (first | (simp [apply_ite State.clk, apply_ite State.dram, apply_ite State.pads, apply_ite State.integ, apply_ite State.tap, apply_ite State.pending]; done) | (simp_all [apply_ite State.clk, apply_ite State.dram, apply_ite State.pads, apply_ite State.integ, apply_ite State.tap, apply_ite State.pending]; done)))
@[simp] theorem frame_execTrialRestart (s : State) :
    (after (execTrialRestart s) s).clk = s.clk ∧ (after (execTrialRestart s) s).boot = s.boot ∧ (after (execTrialRestart s) s).dram = s.dram ∧ (after (execTrialRestart s) s).pads = s.pads ∧ (after (execTrialRestart s) s).tap = s.tap ∧ (after (execTrialRestart s) s).pending = s.pending := by
  unfold execTrialRestart
  first
    | (simp [apply_ite State.clk, apply_ite State.boot, apply_ite State.dram, apply_ite State.pads, apply_ite State.tap, apply_ite State.pending]; done)
    | ((repeat' split) <;> (first | (simp [apply_ite State.clk, apply_ite State.boot, apply_ite State.dram, apply_ite State.pads, apply_ite State.tap, apply_ite State.pending]; done) | (simp_all [apply_ite State.clk, apply_ite State.boot, apply_ite State.dram, apply_ite State.pads, apply_ite State.tap, apply_ite State.pending]; done)))
    | (dsimp only; (repeat' apply And.intro) <;> (repeat' split) <;> (first | (simp [apply_ite State.clk, apply_ite State.boot, apply_ite State.dram, apply_ite State.pads, apply_ite State.tap, apply_ite State.pending]; done) | (simp_all [apply_ite State.clk, apply_ite State.boot, apply_ite State.dram, apply_ite State.pads, apply_ite State.tap, apply_ite State.pending]; done)))
@[simp] theorem frame_execBootStatusRead (s : State) :
    (after (execBootStatusRead s) s).clk = s.clk ∧ (after (execBootStatusRead s) s).boot = s.boot ∧ (after (execBootStatusRead s) s).dram = s.dram ∧ (after (execBootStatusRead s) s).pads = s.pads ∧ (after (execBootStatusRead s) s).integ = s.integ ∧ (after (execBootStatusRead s) s).tap = s.tap ∧ (after (execBootStatusRead s) s).pending = s.pending := by
  unfold execBootStatusRead
  first
    | (simp [apply_ite State.clk, apply_ite State.boot, apply_ite State.dram, apply_ite State.pads, apply_ite State.integ, apply_ite State.tap, apply_ite State.pending]; done)
    | ((repeat' split) <;> (first | (simp [apply_ite State.clk, apply_ite State.boot, apply_ite State.dram, apply_ite State.pads, apply_ite State.integ, apply_ite State.tap, apply_ite State.pending]; done) | (simp_all [apply_ite State.clk, apply_ite State.boot, apply_ite State.dram, apply_ite State.pads, apply_ite State.integ, apply_ite State.tap, apply_ite State.pending]; done)))
    | (dsimp only; (repeat' apply And.intro) <;> (repeat' split) <;> (first | (simp [apply_ite State.clk, apply_ite State.boot, apply_ite State.dram, apply_ite State.pads, apply_ite State.integ, apply_ite State.tap, apply_ite State.pending]; done) | (simp_all [apply_ite State.clk, apply_ite State.boot, apply_ite State.dram, apply_ite State.pads, apply_ite State.integ, apply_ite State.tap, apply_ite State.pending]; done)))
@[simp] theorem frame_execBootStatusWakeWrite (v : Byte) (s : State) :
    (after (execBootStatusWakeWrite v s) s).clk = s.clk ∧ (after (execBootStatusWakeWrite v s) s).boot = s.boot ∧ (after (execBootStatusWakeWrite v s) s).dram = s.dram ∧ (after (execBootStatusWakeWrite v s) s).pads = s.pads ∧ (after (execBootStatusWakeWrite v s) s).integ = s.integ ∧ (after (execBootStatusWakeWrite v s) s).tap = s.tap ∧ (after (execBootStatusWakeWrite v s) s).pending = s.pending := by
  unfold execBootStatusWakeWrite
  first
    | (simp [apply_ite State.clk, apply_ite State.boot, apply_ite State.dram, apply_ite State.pads, apply_ite State.integ, apply_ite State.tap, apply_ite State.pending]; done)
    | ((repeat' split) <;> (first | (simp [apply_ite State.clk, apply_ite State.boot, apply_ite State.dram, apply_ite State.pads, apply_ite State.integ, apply_ite State.tap, apply_ite State.pending]; done) | (simp_all [apply_ite State.clk, apply_ite State.boot, apply_ite State.dram, apply_ite State.pads, apply_ite State.integ, apply_ite State.tap, apply_ite State.pending]; done)))
    | (dsimp only; (repeat' apply And.intro) <;> (repeat' split) <;> (first | (simp [apply_ite State.clk, apply_ite State.boot, apply_ite State.dram, apply_ite State.pads, apply_ite State.integ, apply_ite State.tap, apply_ite State.pending]; done) | (simp_all [apply_ite State.clk, apply_ite State.boot, apply_ite State.dram, apply_ite State.pads, apply_ite State.integ, apply_ite State.tap, apply_ite State.pending]; done)))
@[simp] theorem frame_execMctpVendorMessage (vendor : BitVec 16) (message : List Byte) (s : State) :
    (after (execMctpVendorMessage vendor message s) s).clk = s.clk ∧ (after (execMctpVendorMessage vendor message s) s).boot = s.boot ∧ (after (execMctpVendorMessage vendor message s) s).dram = s.dram ∧ (after (execMctpVendorMessage vendor message s) s).pads = s.pads ∧ (after (execMctpVendorMessage vendor message s) s).integ = s.integ ∧ (after (execMctpVendorMessage vendor message s) s).tap = s.tap ∧ (after (execMctpVendorMessage vendor message s) s).pending = s.pending := by
  unfold execMctpVendorMessage
  first
    | (simp [apply_ite State.clk, apply_ite State.boot, apply_ite State.dram, apply_ite State.pads, apply_ite State.integ, apply_ite State.tap, apply_ite State.pending]; done)
    | ((repeat' split) <;> (first | (simp [apply_ite State.clk, apply_ite State.boot, apply_ite State.dram, apply_ite State.pads, apply_ite State.integ, apply_ite State.tap, apply_ite State.pending]; done) | (simp_all [apply_ite State.clk, apply_ite State.boot, apply_ite State.dram, apply_ite State.pads, apply_ite State.integ, apply_ite State.tap, apply_ite State.pending]; done)))
    | (dsimp only; (repeat' apply And.intro) <;> (repeat' split) <;> (first | (simp [apply_ite State.clk, apply_ite State.boot, apply_ite State.dram, apply_ite State.pads, apply_ite State.integ, apply_ite State.tap, apply_ite State.pending]; done) | (simp_all [apply_ite State.clk, apply_ite State.boot, apply_ite State.dram, apply_ite State.pads, apply_ite State.integ, apply_ite State.tap, apply_ite State.pending]; done)))
@[simp] theorem frame_execSetEndpointId (eid : Byte) (s : State) :
    (after (execSetEndpointId eid s) s).clk = s.clk ∧ (after (execSetEndpointId eid s) s).boot = s.boot ∧ (after (execSetEndpointId eid s) s).dram = s.dram ∧ (after (execSetEndpointId eid s) s).pads = s.pads ∧ (after (execSetEndpointId eid s) s).integ = s.integ ∧ (after (execSetEndpointId eid s) s).tap = s.tap ∧ (after (execSetEndpointId eid s) s).pending = s.pending := by
  unfold execSetEndpointId
  first
    | (simp [apply_ite State.clk, apply_ite State.boot, apply_ite State.dram, apply_ite State.pads, apply_ite State.integ, apply_ite State.tap, apply_ite State.pending]; done)
    | ((repeat' split) <;> (first | (simp [apply_ite State.clk, apply_ite State.boot, apply_ite State.dram, apply_ite State.pads, apply_ite State.integ, apply_ite State.tap, apply_ite State.pending]; done) | (simp_all [apply_ite State.clk, apply_ite State.boot, apply_ite State.dram, apply_ite State.pads, apply_ite State.integ, apply_ite State.tap, apply_ite State.pending]; done)))
    | (dsimp only; (repeat' apply And.intro) <;> (repeat' split) <;> (first | (simp [apply_ite State.clk, apply_ite State.boot, apply_ite State.dram, apply_ite State.pads, apply_ite State.integ, apply_ite State.tap, apply_ite State.pending]; done) | (simp_all [apply_ite State.clk, apply_ite State.boot, apply_ite State.dram, apply_ite State.pads, apply_ite State.integ, apply_ite State.tap, apply_ite State.pending]; done)))
@[simp] theorem frame_execGetEndpointId (s : State) :
    (after (execGetEndpointId s) s).clk = s.clk ∧ (after (execGetEndpointId s) s).boot = s.boot ∧ (after (execGetEndpointId s) s).dram = s.dram ∧ (after (execGetEndpointId s) s).pads = s.pads ∧ (after (execGetEndpointId s) s).integ = s.integ ∧ (after (execGetEndpointId s) s).tap = s.tap ∧ (after (execGetEndpointId s) s).pending = s.pending := by
  unfold execGetEndpointId
  first
    | (simp [apply_ite State.clk, apply_ite State.boot, apply_ite State.dram, apply_ite State.pads, apply_ite State.integ, apply_ite State.tap, apply_ite State.pending]; done)
    | ((repeat' split) <;> (first | (simp [apply_ite State.clk, apply_ite State.boot, apply_ite State.dram, apply_ite State.pads, apply_ite State.integ, apply_ite State.tap, apply_ite State.pending]; done) | (simp_all [apply_ite State.clk, apply_ite State.boot, apply_ite State.dram, apply_ite State.pads, apply_ite State.integ, apply_ite State.tap, apply_ite State.pending]; done)))
    | (dsimp only; (repeat' apply And.intro) <;> (repeat' split) <;> (first | (simp [apply_ite State.clk, apply_ite State.boot, apply_ite State.dram, apply_ite State.pads, apply_ite State.integ, apply_ite State.tap, apply_ite State.pending]; done) | (simp_all [apply_ite State.clk, apply_ite State.boot, apply_ite State.dram, apply_ite State.pads, apply_ite State.integ, apply_ite State.tap, apply_ite State.pending]; done)))
@[simp] theorem frame_execGetEndpointUuid (s : State) :
    (after (execGetEndpointUuid s) s).clk = s.clk ∧ (after (execGetEndpointUuid s) s).boot = s.boot ∧ (after (execGetEndpointUuid s) s).dram = s.dram ∧ (after (execGetEndpointUuid s) s).pads = s.pads ∧ (after (execGetEndpointUuid s) s).integ = s.integ ∧ (after (execGetEndpointUuid s) s).tap = s.tap ∧ (after (execGetEndpointUuid s) s).pending = s.pending := by
  unfold execGetEndpointUuid
  first
    | (simp [apply_ite State.clk, apply_ite State.boot, apply_ite State.dram, apply_ite State.pads, apply_ite State.integ, apply_ite State.tap, apply_ite State.pending]; done)
    | ((repeat' split) <;> (first | (simp [apply_ite State.clk, apply_ite State.boot, apply_ite State.dram, apply_ite State.pads, apply_ite State.integ, apply_ite State.tap, apply_ite State.pending]; done) | (simp_all [apply_ite State.clk, apply_ite State.boot, apply_ite State.dram, apply_ite State.pads, apply_ite State.integ, apply_ite State.tap, apply_ite State.pending]; done)))
    | (dsimp only; (repeat' apply And.intro) <;> (repeat' split) <;> (first | (simp [apply_ite State.clk, apply_ite State.boot, apply_ite State.dram, apply_ite State.pads, apply_ite State.integ, apply_ite State.tap, apply_ite State.pending]; done) | (simp_all [apply_ite State.clk, apply_ite State.boot, apply_ite State.dram, apply_ite State.pads, apply_ite State.integ, apply_ite State.tap, apply_ite State.pending]; done)))
@[simp] theorem frame_execGetMctpVersionSupport (mtype : Byte) (s : State) :
    (after (execGetMctpVersionSupport mtype s) s).clk = s.clk ∧ (after (execGetMctpVersionSupport mtype s) s).boot = s.boot ∧ (after (execGetMctpVersionSupport mtype s) s).dram = s.dram ∧ (after (execGetMctpVersionSupport mtype s) s).pads = s.pads ∧ (after (execGetMctpVersionSupport mtype s) s).integ = s.integ ∧ (after (execGetMctpVersionSupport mtype s) s).tap = s.tap ∧ (after (execGetMctpVersionSupport mtype s) s).pending = s.pending := by
  unfold execGetMctpVersionSupport
  first
    | (simp [apply_ite State.clk, apply_ite State.boot, apply_ite State.dram, apply_ite State.pads, apply_ite State.integ, apply_ite State.tap, apply_ite State.pending]; done)
    | ((repeat' split) <;> (first | (simp [apply_ite State.clk, apply_ite State.boot, apply_ite State.dram, apply_ite State.pads, apply_ite State.integ, apply_ite State.tap, apply_ite State.pending]; done) | (simp_all [apply_ite State.clk, apply_ite State.boot, apply_ite State.dram, apply_ite State.pads, apply_ite State.integ, apply_ite State.tap, apply_ite State.pending]; done)))
    | (dsimp only; (repeat' apply And.intro) <;> (repeat' split) <;> (first | (simp [apply_ite State.clk, apply_ite State.boot, apply_ite State.dram, apply_ite State.pads, apply_ite State.integ, apply_ite State.tap, apply_ite State.pending]; done) | (simp_all [apply_ite State.clk, apply_ite State.boot, apply_ite State.dram, apply_ite State.pads, apply_ite State.integ, apply_ite State.tap, apply_ite State.pending]; done)))
@[simp] theorem frame_execGetMessageTypeSupport (s : State) :
    (after (execGetMessageTypeSupport s) s).clk = s.clk ∧ (after (execGetMessageTypeSupport s) s).boot = s.boot ∧ (after (execGetMessageTypeSupport s) s).dram = s.dram ∧ (after (execGetMessageTypeSupport s) s).pads = s.pads ∧ (after (execGetMessageTypeSupport s) s).integ = s.integ ∧ (after (execGetMessageTypeSupport s) s).tap = s.tap ∧ (after (execGetMessageTypeSupport s) s).pending = s.pending := by
  unfold execGetMessageTypeSupport
  first
    | (simp [apply_ite State.clk, apply_ite State.boot, apply_ite State.dram, apply_ite State.pads, apply_ite State.integ, apply_ite State.tap, apply_ite State.pending]; done)
    | ((repeat' split) <;> (first | (simp [apply_ite State.clk, apply_ite State.boot, apply_ite State.dram, apply_ite State.pads, apply_ite State.integ, apply_ite State.tap, apply_ite State.pending]; done) | (simp_all [apply_ite State.clk, apply_ite State.boot, apply_ite State.dram, apply_ite State.pads, apply_ite State.integ, apply_ite State.tap, apply_ite State.pending]; done)))
    | (dsimp only; (repeat' apply And.intro) <;> (repeat' split) <;> (first | (simp [apply_ite State.clk, apply_ite State.boot, apply_ite State.dram, apply_ite State.pads, apply_ite State.integ, apply_ite State.tap, apply_ite State.pending]; done) | (simp_all [apply_ite State.clk, apply_ite State.boot, apply_ite State.dram, apply_ite State.pads, apply_ite State.integ, apply_ite State.tap, apply_ite State.pending]; done)))
@[simp] theorem frame_execGetVendorDefinedMessageSupport (sel : Byte) (s : State) :
    (after (execGetVendorDefinedMessageSupport sel s) s).clk = s.clk ∧ (after (execGetVendorDefinedMessageSupport sel s) s).boot = s.boot ∧ (after (execGetVendorDefinedMessageSupport sel s) s).dram = s.dram ∧ (after (execGetVendorDefinedMessageSupport sel s) s).pads = s.pads ∧ (after (execGetVendorDefinedMessageSupport sel s) s).integ = s.integ ∧ (after (execGetVendorDefinedMessageSupport sel s) s).tap = s.tap ∧ (after (execGetVendorDefinedMessageSupport sel s) s).pending = s.pending := by
  unfold execGetVendorDefinedMessageSupport
  first
    | (simp [apply_ite State.clk, apply_ite State.boot, apply_ite State.dram, apply_ite State.pads, apply_ite State.integ, apply_ite State.tap, apply_ite State.pending]; done)
    | ((repeat' split) <;> (first | (simp [apply_ite State.clk, apply_ite State.boot, apply_ite State.dram, apply_ite State.pads, apply_ite State.integ, apply_ite State.tap, apply_ite State.pending]; done) | (simp_all [apply_ite State.clk, apply_ite State.boot, apply_ite State.dram, apply_ite State.pads, apply_ite State.integ, apply_ite State.tap, apply_ite State.pending]; done)))
    | (dsimp only; (repeat' apply And.intro) <;> (repeat' split) <;> (first | (simp [apply_ite State.clk, apply_ite State.boot, apply_ite State.dram, apply_ite State.pads, apply_ite State.integ, apply_ite State.tap, apply_ite State.pending]; done) | (simp_all [apply_ite State.clk, apply_ite State.boot, apply_ite State.dram, apply_ite State.pads, apply_ite State.integ, apply_ite State.tap, apply_ite State.pending]; done)))
@[simp] theorem frame_execGetVersion (t : Transport) (s : State) :
    (after (execGetVersion t s) s).clk = s.clk ∧ (after (execGetVersion t s) s).boot = s.boot ∧ (after (execGetVersion t s) s).dram = s.dram ∧ (after (execGetVersion t s) s).pads = s.pads ∧ (after (execGetVersion t s) s).integ = s.integ ∧ (after (execGetVersion t s) s).tap = s.tap ∧ (after (execGetVersion t s) s).pending = s.pending := by
  unfold execGetVersion
  first
    | (simp [apply_ite State.clk, apply_ite State.boot, apply_ite State.dram, apply_ite State.pads, apply_ite State.integ, apply_ite State.tap, apply_ite State.pending]; done)
    | ((repeat' split) <;> (first | (simp [apply_ite State.clk, apply_ite State.boot, apply_ite State.dram, apply_ite State.pads, apply_ite State.integ, apply_ite State.tap, apply_ite State.pending]; done) | (simp_all [apply_ite State.clk, apply_ite State.boot, apply_ite State.dram, apply_ite State.pads, apply_ite State.integ, apply_ite State.tap, apply_ite State.pending]; done)))
    | (dsimp only; (repeat' apply And.intro) <;> (repeat' split) <;> (first | (simp [apply_ite State.clk, apply_ite State.boot, apply_ite State.dram, apply_ite State.pads, apply_ite State.integ, apply_ite State.tap, apply_ite State.pending]; done) | (simp_all [apply_ite State.clk, apply_ite State.boot, apply_ite State.dram, apply_ite State.pads, apply_ite State.integ, apply_ite State.tap, apply_ite State.pending]; done)))
@[simp] theorem frame_execGetCapabilities (t : Transport) (version : Nat) (s : State) :
    (after (execGetCapabilities t version s) s).clk = s.clk ∧ (after (execGetCapabilities t version s) s).boot = s.boot ∧ (after (execGetCapabilities t version s) s).dram = s.dram ∧ (after (execGetCapabilities t version s) s).pads = s.pads ∧ (after (execGetCapabilities t version s) s).integ = s.integ ∧ (after (execGetCapabilities t version s) s).tap = s.tap ∧ (after (execGetCapabilities t version s) s).pending = s.pending := by
  unfold execGetCapabilities
  first
    | (simp [apply_ite State.clk, apply_ite State.boot, apply_ite State.dram, apply_ite State.pads, apply_ite State.integ, apply_ite State.tap, apply_ite State.pending]; done)
    | ((repeat' split) <;> (first | (simp [apply_ite State.clk, apply_ite State.boot, apply_ite State.dram, apply_ite State.pads, apply_ite State.integ, apply_ite State.tap, apply_ite State.pending]; done) | (simp_all [apply_ite State.clk, apply_ite State.boot, apply_ite State.dram, apply_ite State.pads, apply_ite State.integ, apply_ite State.tap, apply_ite State.pending]; done)))
    | (dsimp only; (repeat' apply And.intro) <;> (repeat' split) <;> (first | (simp [apply_ite State.clk, apply_ite State.boot, apply_ite State.dram, apply_ite State.pads, apply_ite State.integ, apply_ite State.tap, apply_ite State.pending]; done) | (simp_all [apply_ite State.clk, apply_ite State.boot, apply_ite State.dram, apply_ite State.pads, apply_ite State.integ, apply_ite State.tap, apply_ite State.pending]; done)))
@[simp] theorem frame_execNegotiateAlgorithms (t : Transport) (version : Nat) (ecdsaP384 sha384 : Bool) (s : State) :
    (after (execNegotiateAlgorithms t version ecdsaP384 sha384 s) s).clk = s.clk ∧ (after (execNegotiateAlgorithms t version ecdsaP384 sha384 s) s).boot = s.boot ∧ (after (execNegotiateAlgorithms t version ecdsaP384 sha384 s) s).dram = s.dram ∧ (after (execNegotiateAlgorithms t version ecdsaP384 sha384 s) s).pads = s.pads ∧ (after (execNegotiateAlgorithms t version ecdsaP384 sha384 s) s).integ = s.integ ∧ (after (execNegotiateAlgorithms t version ecdsaP384 sha384 s) s).tap = s.tap ∧ (after (execNegotiateAlgorithms t version ecdsaP384 sha384 s) s).pending = s.pending := by
  unfold execNegotiateAlgorithms
  first
    | (simp [apply_ite State.clk, apply_ite State.boot, apply_ite State.dram, apply_ite State.pads, apply_ite State.integ, apply_ite State.tap, apply_ite State.pending]; done)
    | ((repeat' split) <;> (first | (simp [apply_ite State.clk, apply_ite State.boot, apply_ite State.dram, apply_ite State.pads, apply_ite State.integ, apply_ite State.tap, apply_ite State.pending]; done) | (simp_all [apply_ite State.clk, apply_ite State.boot, apply_ite State.dram, apply_ite State.pads, apply_ite State.integ, apply_ite State.tap, apply_ite State.pending]; done)))
    | (dsimp only; (repeat' apply And.intro) <;> (repeat' split) <;> (first | (simp [apply_ite State.clk, apply_ite State.boot, apply_ite State.dram, apply_ite State.pads, apply_ite State.integ, apply_ite State.tap, apply_ite State.pending]; done) | (simp_all [apply_ite State.clk, apply_ite State.boot, apply_ite State.dram, apply_ite State.pads, apply_ite State.integ, apply_ite State.tap, apply_ite State.pending]; done)))
@[simp] theorem frame_execGetDigests (t : Transport) (version : Nat) (s : State) :
    (after (execGetDigests t version s) s).clk = s.clk ∧ (after (execGetDigests t version s) s).boot = s.boot ∧ (after (execGetDigests t version s) s).dram = s.dram ∧ (after (execGetDigests t version s) s).pads = s.pads ∧ (after (execGetDigests t version s) s).integ = s.integ ∧ (after (execGetDigests t version s) s).tap = s.tap ∧ (after (execGetDigests t version s) s).pending = s.pending := by
  unfold execGetDigests
  first
    | (simp [apply_ite State.clk, apply_ite State.boot, apply_ite State.dram, apply_ite State.pads, apply_ite State.integ, apply_ite State.tap, apply_ite State.pending]; done)
    | ((repeat' split) <;> (first | (simp [apply_ite State.clk, apply_ite State.boot, apply_ite State.dram, apply_ite State.pads, apply_ite State.integ, apply_ite State.tap, apply_ite State.pending]; done) | (simp_all [apply_ite State.clk, apply_ite State.boot, apply_ite State.dram, apply_ite State.pads, apply_ite State.integ, apply_ite State.tap, apply_ite State.pending]; done)))
    | (dsimp only; (repeat' apply And.intro) <;> (repeat' split) <;> (first | (simp [apply_ite State.clk, apply_ite State.boot, apply_ite State.dram, apply_ite State.pads, apply_ite State.integ, apply_ite State.tap, apply_ite State.pending]; done) | (simp_all [apply_ite State.clk, apply_ite State.boot, apply_ite State.dram, apply_ite State.pads, apply_ite State.integ, apply_ite State.tap, apply_ite State.pending]; done)))
@[simp] theorem frame_execGetCertificate (t : Transport) (version slot offset length : Nat) (s : State) :
    (after (execGetCertificate t version slot offset length s) s).clk = s.clk ∧ (after (execGetCertificate t version slot offset length s) s).boot = s.boot ∧ (after (execGetCertificate t version slot offset length s) s).dram = s.dram ∧ (after (execGetCertificate t version slot offset length s) s).pads = s.pads ∧ (after (execGetCertificate t version slot offset length s) s).integ = s.integ ∧ (after (execGetCertificate t version slot offset length s) s).tap = s.tap ∧ (after (execGetCertificate t version slot offset length s) s).pending = s.pending := by
  unfold execGetCertificate
  first
    | (simp [apply_ite State.clk, apply_ite State.boot, apply_ite State.dram, apply_ite State.pads, apply_ite State.integ, apply_ite State.tap, apply_ite State.pending]; done)
    | ((repeat' split) <;> (first | (simp [apply_ite State.clk, apply_ite State.boot, apply_ite State.dram, apply_ite State.pads, apply_ite State.integ, apply_ite State.tap, apply_ite State.pending]; done) | (simp_all [apply_ite State.clk, apply_ite State.boot, apply_ite State.dram, apply_ite State.pads, apply_ite State.integ, apply_ite State.tap, apply_ite State.pending]; done)))
    | (dsimp only; (repeat' apply And.intro) <;> (repeat' split) <;> (first | (simp [apply_ite State.clk, apply_ite State.boot, apply_ite State.dram, apply_ite State.pads, apply_ite State.integ, apply_ite State.tap, apply_ite State.pending]; done) | (simp_all [apply_ite State.clk, apply_ite State.boot, apply_ite State.dram, apply_ite State.pads, apply_ite State.integ, apply_ite State.tap, apply_ite State.pending]; done)))
@[simp] theorem frame_execChallenge (t : Transport) (version slot : Nat) (nonce : BitVec 256) (s : State) :
    (after (execChallenge t version slot nonce s) s).clk = s.clk ∧ (after (execChallenge t version slot nonce s) s).boot = s.boot ∧ (after (execChallenge t version slot nonce s) s).dram = s.dram ∧ (after (execChallenge t version slot nonce s) s).pads = s.pads ∧ (after (execChallenge t version slot nonce s) s).integ = s.integ ∧ (after (execChallenge t version slot nonce s) s).tap = s.tap ∧ (after (execChallenge t version slot nonce s) s).pending = s.pending := by
  unfold execChallenge
  first
    | (simp [apply_ite State.clk, apply_ite State.boot, apply_ite State.dram, apply_ite State.pads, apply_ite State.integ, apply_ite State.tap, apply_ite State.pending]; done)
    | ((repeat' split) <;> (first | (simp [apply_ite State.clk, apply_ite State.boot, apply_ite State.dram, apply_ite State.pads, apply_ite State.integ, apply_ite State.tap, apply_ite State.pending]; done) | (simp_all [apply_ite State.clk, apply_ite State.boot, apply_ite State.dram, apply_ite State.pads, apply_ite State.integ, apply_ite State.tap, apply_ite State.pending]; done)))
    | (dsimp only; (repeat' apply And.intro) <;> (repeat' split) <;> (first | (simp [apply_ite State.clk, apply_ite State.boot, apply_ite State.dram, apply_ite State.pads, apply_ite State.integ, apply_ite State.tap, apply_ite State.pending]; done) | (simp_all [apply_ite State.clk, apply_ite State.boot, apply_ite State.dram, apply_ite State.pads, apply_ite State.integ, apply_ite State.tap, apply_ite State.pending]; done)))
@[simp] theorem frame_execGetMeasurements (t : Transport) (version index : Nat) (sign : Bool) (nonce : BitVec 256) (s : State) :
    (after (execGetMeasurements t version index sign nonce s) s).clk = s.clk ∧ (after (execGetMeasurements t version index sign nonce s) s).boot = s.boot ∧ (after (execGetMeasurements t version index sign nonce s) s).dram = s.dram ∧ (after (execGetMeasurements t version index sign nonce s) s).pads = s.pads ∧ (after (execGetMeasurements t version index sign nonce s) s).integ = s.integ ∧ (after (execGetMeasurements t version index sign nonce s) s).tap = s.tap ∧ (after (execGetMeasurements t version index sign nonce s) s).pending = s.pending := by
  unfold execGetMeasurements
  first
    | (simp [apply_ite State.clk, apply_ite State.boot, apply_ite State.dram, apply_ite State.pads, apply_ite State.integ, apply_ite State.tap, apply_ite State.pending]; done)
    | ((repeat' split) <;> (first | (simp [apply_ite State.clk, apply_ite State.boot, apply_ite State.dram, apply_ite State.pads, apply_ite State.integ, apply_ite State.tap, apply_ite State.pending]; done) | (simp_all [apply_ite State.clk, apply_ite State.boot, apply_ite State.dram, apply_ite State.pads, apply_ite State.integ, apply_ite State.tap, apply_ite State.pending]; done)))
    | (dsimp only; (repeat' apply And.intro) <;> (repeat' split) <;> (first | (simp [apply_ite State.clk, apply_ite State.boot, apply_ite State.dram, apply_ite State.pads, apply_ite State.integ, apply_ite State.tap, apply_ite State.pending]; done) | (simp_all [apply_ite State.clk, apply_ite State.boot, apply_ite State.dram, apply_ite State.pads, apply_ite State.integ, apply_ite State.tap, apply_ite State.pending]; done)))
@[simp] theorem frame_execDoeRequest (port : PortId) (version : Nat) (req : SpdmReq) (s : State) :
    (after (execDoeRequest port version req s) s).clk = s.clk ∧ (after (execDoeRequest port version req s) s).boot = s.boot ∧ (after (execDoeRequest port version req s) s).dram = s.dram ∧ (after (execDoeRequest port version req s) s).pads = s.pads ∧ (after (execDoeRequest port version req s) s).integ = s.integ ∧ (after (execDoeRequest port version req s) s).tap = s.tap ∧ (after (execDoeRequest port version req s) s).pending = s.pending := by
  unfold execDoeRequest
  first
    | (simp [apply_ite State.clk, apply_ite State.boot, apply_ite State.dram, apply_ite State.pads, apply_ite State.integ, apply_ite State.tap, apply_ite State.pending]; done)
    | ((repeat' split) <;> (first | (simp [apply_ite State.clk, apply_ite State.boot, apply_ite State.dram, apply_ite State.pads, apply_ite State.integ, apply_ite State.tap, apply_ite State.pending]; done) | (simp_all [apply_ite State.clk, apply_ite State.boot, apply_ite State.dram, apply_ite State.pads, apply_ite State.integ, apply_ite State.tap, apply_ite State.pending]; done)))
    | (dsimp only; (repeat' apply And.intro) <;> (repeat' split) <;> (first | (simp [apply_ite State.clk, apply_ite State.boot, apply_ite State.dram, apply_ite State.pads, apply_ite State.integ, apply_ite State.tap, apply_ite State.pending]; done) | (simp_all [apply_ite State.clk, apply_ite State.boot, apply_ite State.dram, apply_ite State.pads, apply_ite State.integ, apply_ite State.tap, apply_ite State.pending]; done)))
@[simp] theorem frame_execLeaseTermExpiry (handle : Nat) (s : State) :
    (after (execLeaseTermExpiry handle s) s).clk = s.clk ∧ (after (execLeaseTermExpiry handle s) s).boot = s.boot ∧ (after (execLeaseTermExpiry handle s) s).dram = s.dram ∧ (after (execLeaseTermExpiry handle s) s).pads = s.pads ∧ (after (execLeaseTermExpiry handle s) s).integ = s.integ ∧ (after (execLeaseTermExpiry handle s) s).tap = s.tap ∧ (after (execLeaseTermExpiry handle s) s).pending = s.pending := by
  unfold execLeaseTermExpiry
  first
    | (simp [apply_ite State.clk, apply_ite State.boot, apply_ite State.dram, apply_ite State.pads, apply_ite State.integ, apply_ite State.tap, apply_ite State.pending]; done)
    | ((repeat' split) <;> (first | (simp [apply_ite State.clk, apply_ite State.boot, apply_ite State.dram, apply_ite State.pads, apply_ite State.integ, apply_ite State.tap, apply_ite State.pending]; done) | (simp_all [apply_ite State.clk, apply_ite State.boot, apply_ite State.dram, apply_ite State.pads, apply_ite State.integ, apply_ite State.tap, apply_ite State.pending]; done)))
    | (dsimp only; (repeat' apply And.intro) <;> (repeat' split) <;> (first | (simp [apply_ite State.clk, apply_ite State.boot, apply_ite State.dram, apply_ite State.pads, apply_ite State.integ, apply_ite State.tap, apply_ite State.pending]; done) | (simp_all [apply_ite State.clk, apply_ite State.boot, apply_ite State.dram, apply_ite State.pads, apply_ite State.integ, apply_ite State.tap, apply_ite State.pending]; done)))
@[simp] theorem frame_execFwActivateLapse (s : State) :
    (after (execFwActivateLapse s) s).clk = s.clk ∧ (after (execFwActivateLapse s) s).boot = s.boot ∧ (after (execFwActivateLapse s) s).dram = s.dram ∧ (after (execFwActivateLapse s) s).pads = s.pads ∧ (after (execFwActivateLapse s) s).integ = s.integ ∧ (after (execFwActivateLapse s) s).tap = s.tap ∧ (after (execFwActivateLapse s) s).pending = s.pending := by
  unfold execFwActivateLapse
  first
    | (simp [apply_ite State.clk, apply_ite State.boot, apply_ite State.dram, apply_ite State.pads, apply_ite State.integ, apply_ite State.tap, apply_ite State.pending]; done)
    | ((repeat' split) <;> (first | (simp [apply_ite State.clk, apply_ite State.boot, apply_ite State.dram, apply_ite State.pads, apply_ite State.integ, apply_ite State.tap, apply_ite State.pending]; done) | (simp_all [apply_ite State.clk, apply_ite State.boot, apply_ite State.dram, apply_ite State.pads, apply_ite State.integ, apply_ite State.tap, apply_ite State.pending]; done)))
    | (dsimp only; (repeat' apply And.intro) <;> (repeat' split) <;> (first | (simp [apply_ite State.clk, apply_ite State.boot, apply_ite State.dram, apply_ite State.pads, apply_ite State.integ, apply_ite State.tap, apply_ite State.pending]; done) | (simp_all [apply_ite State.clk, apply_ite State.boot, apply_ite State.dram, apply_ite State.pads, apply_ite State.integ, apply_ite State.tap, apply_ite State.pending]; done)))
@[simp] theorem frame_execMgmtPortAbsence (s : State) :
    (after (execMgmtPortAbsence s) s).clk = s.clk ∧ (after (execMgmtPortAbsence s) s).boot = s.boot ∧ (after (execMgmtPortAbsence s) s).dram = s.dram ∧ (after (execMgmtPortAbsence s) s).pads = s.pads ∧ (after (execMgmtPortAbsence s) s).integ = s.integ ∧ (after (execMgmtPortAbsence s) s).tap = s.tap ∧ (after (execMgmtPortAbsence s) s).pending = s.pending := by
  unfold execMgmtPortAbsence
  first
    | (simp [apply_ite State.clk, apply_ite State.boot, apply_ite State.dram, apply_ite State.pads, apply_ite State.integ, apply_ite State.tap, apply_ite State.pending]; done)
    | ((repeat' split) <;> (first | (simp [apply_ite State.clk, apply_ite State.boot, apply_ite State.dram, apply_ite State.pads, apply_ite State.integ, apply_ite State.tap, apply_ite State.pending]; done) | (simp_all [apply_ite State.clk, apply_ite State.boot, apply_ite State.dram, apply_ite State.pads, apply_ite State.integ, apply_ite State.tap, apply_ite State.pending]; done)))
    | (dsimp only; (repeat' apply And.intro) <;> (repeat' split) <;> (first | (simp [apply_ite State.clk, apply_ite State.boot, apply_ite State.dram, apply_ite State.pads, apply_ite State.integ, apply_ite State.tap, apply_ite State.pending]; done) | (simp_all [apply_ite State.clk, apply_ite State.boot, apply_ite State.dram, apply_ite State.pads, apply_ite State.integ, apply_ite State.tap, apply_ite State.pending]; done)))
@[simp] theorem frame_execTapAccess (op : TapOp) (s : State) :
    (after (execTapAccess op s) s).clk = s.clk ∧ (after (execTapAccess op s) s).boot = s.boot ∧ (after (execTapAccess op s) s).dram = s.dram ∧ (after (execTapAccess op s) s).pads = s.pads ∧ (after (execTapAccess op s) s).integ = s.integ ∧ (after (execTapAccess op s) s).pending = s.pending := by
  unfold execTapAccess
  first
    | (simp [apply_ite State.clk, apply_ite State.boot, apply_ite State.dram, apply_ite State.pads, apply_ite State.integ, apply_ite State.pending]; done)
    | ((repeat' split) <;> (first | (simp [apply_ite State.clk, apply_ite State.boot, apply_ite State.dram, apply_ite State.pads, apply_ite State.integ, apply_ite State.pending]; done) | (simp_all [apply_ite State.clk, apply_ite State.boot, apply_ite State.dram, apply_ite State.pads, apply_ite State.integ, apply_ite State.pending]; done)))
    | (dsimp only; (repeat' apply And.intro) <;> (repeat' split) <;> (first | (simp [apply_ite State.clk, apply_ite State.boot, apply_ite State.dram, apply_ite State.pads, apply_ite State.integ, apply_ite State.pending]; done) | (simp_all [apply_ite State.clk, apply_ite State.boot, apply_ite State.dram, apply_ite State.pads, apply_ite State.integ, apply_ite State.pending]; done)))

end Sys2Proof.Laws
end

