-- ==== Sys2Proof/Laws/State.lean ====
section
/-! SUPPORT. One lemma for each part of the data path that an elementary update leaves as it was, and for each unit of the state. -/

namespace Sys2Proof.Laws

open Sys2Proof.Machine

@[simp] theorem askDram_io (cls kind pool lb : Nat) (write : Bool) (d : Dp) :
    (Dp.askDram cls kind pool lb write d).io = d.io := rfl
@[simp] theorem askDram_hp (cls kind pool lb : Nat) (write : Bool) (d : Dp) :
    (Dp.askDram cls kind pool lb write d).hp = d.hp := rfl
@[simp] theorem askDram_vq (cls kind pool lb : Nat) (write : Bool) (d : Dp) :
    (Dp.askDram cls kind pool lb write d).vq = d.vq := rfl
@[simp] theorem askDram_mb (cls kind pool lb : Nat) (write : Bool) (d : Dp) :
    (Dp.askDram cls kind pool lb write d).mb = d.mb := rfl
@[simp] theorem askDram_sh (cls kind pool lb : Nat) (write : Bool) (d : Dp) :
    (Dp.askDram cls kind pool lb write d).sh = d.sh := rfl
@[simp] theorem askDram_ring (cls kind pool lb : Nat) (write : Bool) (d : Dp) :
    (Dp.askDram cls kind pool lb write d).ring = d.ring := rfl
@[simp] theorem askDram_lane (cls kind pool lb : Nat) (write : Bool) (d : Dp) :
    (Dp.askDram cls kind pool lb write d).lane = d.lane := rfl
@[simp] theorem askDram_map (cls kind pool lb : Nat) (write : Bool) (d : Dp) :
    (Dp.askDram cls kind pool lb write d).map = d.map := rfl
@[simp] theorem askDram_med (cls kind pool lb : Nat) (write : Bool) (d : Dp) :
    (Dp.askDram cls kind pool lb write d).med = d.med := rfl
@[simp] theorem askDram_kiln (cls kind pool lb : Nat) (write : Bool) (d : Dp) :
    (Dp.askDram cls kind pool lb write d).kiln = d.kiln := rfl
@[simp] theorem askDram_bw (cls kind pool lb : Nat) (write : Bool) (d : Dp) :
    (Dp.askDram cls kind pool lb write d).bw = d.bw := rfl

@[simp] theorem askPad_io (o : Owner) (master bytes : Nat) (d : Dp) :
    (Dp.askPad o master bytes d).io = d.io := rfl
@[simp] theorem askPad_hp (o : Owner) (master bytes : Nat) (d : Dp) :
    (Dp.askPad o master bytes d).hp = d.hp := rfl
@[simp] theorem askPad_vq (o : Owner) (master bytes : Nat) (d : Dp) :
    (Dp.askPad o master bytes d).vq = d.vq := rfl
@[simp] theorem askPad_mb (o : Owner) (master bytes : Nat) (d : Dp) :
    (Dp.askPad o master bytes d).mb = d.mb := rfl
@[simp] theorem askPad_sh (o : Owner) (master bytes : Nat) (d : Dp) :
    (Dp.askPad o master bytes d).sh = d.sh := rfl
@[simp] theorem askPad_ring (o : Owner) (master bytes : Nat) (d : Dp) :
    (Dp.askPad o master bytes d).ring = d.ring := rfl
@[simp] theorem askPad_lane (o : Owner) (master bytes : Nat) (d : Dp) :
    (Dp.askPad o master bytes d).lane = d.lane := rfl
@[simp] theorem askPad_map (o : Owner) (master bytes : Nat) (d : Dp) :
    (Dp.askPad o master bytes d).map = d.map := rfl
@[simp] theorem askPad_med (o : Owner) (master bytes : Nat) (d : Dp) :
    (Dp.askPad o master bytes d).med = d.med := rfl
@[simp] theorem askPad_kiln (o : Owner) (master bytes : Nat) (d : Dp) :
    (Dp.askPad o master bytes d).kiln = d.kiln := rfl
@[simp] theorem askPad_bw (o : Owner) (master bytes : Nat) (d : Dp) :
    (Dp.askPad o master bytes d).bw = d.bw := rfl

@[simp] theorem put_hp (o : Output) (d : Dp) :
    (put o d).hp = d.hp := rfl
@[simp] theorem put_vq (o : Output) (d : Dp) :
    (put o d).vq = d.vq := rfl
@[simp] theorem put_mb (o : Output) (d : Dp) :
    (put o d).mb = d.mb := rfl
@[simp] theorem put_sh (o : Output) (d : Dp) :
    (put o d).sh = d.sh := rfl
@[simp] theorem put_ring (o : Output) (d : Dp) :
    (put o d).ring = d.ring := rfl
@[simp] theorem put_lane (o : Output) (d : Dp) :
    (put o d).lane = d.lane := rfl
@[simp] theorem put_map (o : Output) (d : Dp) :
    (put o d).map = d.map := rfl
@[simp] theorem put_med (o : Output) (d : Dp) :
    (put o d).med = d.med := rfl
@[simp] theorem put_kiln (o : Output) (d : Dp) :
    (put o d).kiln = d.kiln := rfl
@[simp] theorem put_bw (o : Output) (d : Dp) :
    (put o d).bw = d.bw := rfl
@[simp] theorem put_mem (o : Output) (d : Dp) :
    (put o d).mem = d.mem := rfl

@[simp] theorem count_hp (ss i n : Nat) (d : Dp) :
    (count ss i n d).hp = d.hp := rfl
@[simp] theorem count_vq (ss i n : Nat) (d : Dp) :
    (count ss i n d).vq = d.vq := rfl
@[simp] theorem count_mb (ss i n : Nat) (d : Dp) :
    (count ss i n d).mb = d.mb := rfl
@[simp] theorem count_sh (ss i n : Nat) (d : Dp) :
    (count ss i n d).sh = d.sh := rfl
@[simp] theorem count_ring (ss i n : Nat) (d : Dp) :
    (count ss i n d).ring = d.ring := rfl
@[simp] theorem count_lane (ss i n : Nat) (d : Dp) :
    (count ss i n d).lane = d.lane := rfl
@[simp] theorem count_map (ss i n : Nat) (d : Dp) :
    (count ss i n d).map = d.map := rfl
@[simp] theorem count_med (ss i n : Nat) (d : Dp) :
    (count ss i n d).med = d.med := rfl
@[simp] theorem count_kiln (ss i n : Nat) (d : Dp) :
    (count ss i n d).kiln = d.kiln := rfl
@[simp] theorem count_bw (ss i n : Nat) (d : Dp) :
    (count ss i n d).bw = d.bw := rfl
@[simp] theorem count_mem (ss i n : Nat) (d : Dp) :
    (count ss i n d).mem = d.mem := rfl

@[simp] theorem onMail_io (d : Dp) (m : Mbx) (f : Mail → Mail) :
    (Dp.onMail d m f).io = d.io := rfl
@[simp] theorem onMail_hp (d : Dp) (m : Mbx) (f : Mail → Mail) :
    (Dp.onMail d m f).hp = d.hp := rfl
@[simp] theorem onMail_vq (d : Dp) (m : Mbx) (f : Mail → Mail) :
    (Dp.onMail d m f).vq = d.vq := rfl
@[simp] theorem onMail_sh (d : Dp) (m : Mbx) (f : Mail → Mail) :
    (Dp.onMail d m f).sh = d.sh := rfl
@[simp] theorem onMail_ring (d : Dp) (m : Mbx) (f : Mail → Mail) :
    (Dp.onMail d m f).ring = d.ring := rfl
@[simp] theorem onMail_lane (d : Dp) (m : Mbx) (f : Mail → Mail) :
    (Dp.onMail d m f).lane = d.lane := rfl
@[simp] theorem onMail_map (d : Dp) (m : Mbx) (f : Mail → Mail) :
    (Dp.onMail d m f).map = d.map := rfl
@[simp] theorem onMail_med (d : Dp) (m : Mbx) (f : Mail → Mail) :
    (Dp.onMail d m f).med = d.med := rfl
@[simp] theorem onMail_kiln (d : Dp) (m : Mbx) (f : Mail → Mail) :
    (Dp.onMail d m f).kiln = d.kiln := rfl
@[simp] theorem onMail_bw (d : Dp) (m : Mbx) (f : Mail → Mail) :
    (Dp.onMail d m f).bw = d.bw := rfl
@[simp] theorem onMail_mem (d : Dp) (m : Mbx) (f : Mail → Mail) :
    (Dp.onMail d m f).mem = d.mem := rfl

@[simp] theorem onErrlog_io (d : Dp) (f : List ErrEntry → List ErrEntry) :
    (Dp.onErrlog d f).io = d.io := rfl
@[simp] theorem onErrlog_hp (d : Dp) (f : List ErrEntry → List ErrEntry) :
    (Dp.onErrlog d f).hp = d.hp := rfl
@[simp] theorem onErrlog_vq (d : Dp) (f : List ErrEntry → List ErrEntry) :
    (Dp.onErrlog d f).vq = d.vq := rfl
@[simp] theorem onErrlog_mb (d : Dp) (f : List ErrEntry → List ErrEntry) :
    (Dp.onErrlog d f).mb = d.mb := rfl
@[simp] theorem onErrlog_ring (d : Dp) (f : List ErrEntry → List ErrEntry) :
    (Dp.onErrlog d f).ring = d.ring := rfl
@[simp] theorem onErrlog_lane (d : Dp) (f : List ErrEntry → List ErrEntry) :
    (Dp.onErrlog d f).lane = d.lane := rfl
@[simp] theorem onErrlog_map (d : Dp) (f : List ErrEntry → List ErrEntry) :
    (Dp.onErrlog d f).map = d.map := rfl
@[simp] theorem onErrlog_med (d : Dp) (f : List ErrEntry → List ErrEntry) :
    (Dp.onErrlog d f).med = d.med := rfl
@[simp] theorem onErrlog_kiln (d : Dp) (f : List ErrEntry → List ErrEntry) :
    (Dp.onErrlog d f).kiln = d.kiln := rfl
@[simp] theorem onErrlog_bw (d : Dp) (f : List ErrEntry → List ErrEntry) :
    (Dp.onErrlog d f).bw = d.bw := rfl
@[simp] theorem onErrlog_mem (d : Dp) (f : List ErrEntry → List ErrEntry) :
    (Dp.onErrlog d f).mem = d.mem := rfl

@[simp] theorem setPeer_io (d : Dp) (r : Nat) (p : Peer) :
    (Dp.setPeer d r p).io = d.io := rfl
@[simp] theorem setPeer_hp (d : Dp) (r : Nat) (p : Peer) :
    (Dp.setPeer d r p).hp = d.hp := rfl
@[simp] theorem setPeer_vq (d : Dp) (r : Nat) (p : Peer) :
    (Dp.setPeer d r p).vq = d.vq := rfl
@[simp] theorem setPeer_mb (d : Dp) (r : Nat) (p : Peer) :
    (Dp.setPeer d r p).mb = d.mb := rfl
@[simp] theorem setPeer_sh (d : Dp) (r : Nat) (p : Peer) :
    (Dp.setPeer d r p).sh = d.sh := rfl
@[simp] theorem setPeer_lane (d : Dp) (r : Nat) (p : Peer) :
    (Dp.setPeer d r p).lane = d.lane := rfl
@[simp] theorem setPeer_map (d : Dp) (r : Nat) (p : Peer) :
    (Dp.setPeer d r p).map = d.map := rfl
@[simp] theorem setPeer_med (d : Dp) (r : Nat) (p : Peer) :
    (Dp.setPeer d r p).med = d.med := rfl
@[simp] theorem setPeer_kiln (d : Dp) (r : Nat) (p : Peer) :
    (Dp.setPeer d r p).kiln = d.kiln := rfl
@[simp] theorem setPeer_bw (d : Dp) (r : Nat) (p : Peer) :
    (Dp.setPeer d r p).bw = d.bw := rfl
@[simp] theorem setPeer_mem (d : Dp) (r : Nat) (p : Peer) :
    (Dp.setPeer d r p).mem = d.mem := rfl

@[simp] theorem setPair_io (d : Dp) (r c : Nat) (p : Pair) :
    (Dp.setPair d r c p).io = d.io := rfl
@[simp] theorem setPair_hp (d : Dp) (r c : Nat) (p : Pair) :
    (Dp.setPair d r c p).hp = d.hp := rfl
@[simp] theorem setPair_vq (d : Dp) (r c : Nat) (p : Pair) :
    (Dp.setPair d r c p).vq = d.vq := rfl
@[simp] theorem setPair_mb (d : Dp) (r c : Nat) (p : Pair) :
    (Dp.setPair d r c p).mb = d.mb := rfl
@[simp] theorem setPair_sh (d : Dp) (r c : Nat) (p : Pair) :
    (Dp.setPair d r c p).sh = d.sh := rfl
@[simp] theorem setPair_lane (d : Dp) (r c : Nat) (p : Pair) :
    (Dp.setPair d r c p).lane = d.lane := rfl
@[simp] theorem setPair_map (d : Dp) (r c : Nat) (p : Pair) :
    (Dp.setPair d r c p).map = d.map := rfl
@[simp] theorem setPair_med (d : Dp) (r c : Nat) (p : Pair) :
    (Dp.setPair d r c p).med = d.med := rfl
@[simp] theorem setPair_kiln (d : Dp) (r c : Nat) (p : Pair) :
    (Dp.setPair d r c p).kiln = d.kiln := rfl
@[simp] theorem setPair_bw (d : Dp) (r c : Nat) (p : Pair) :
    (Dp.setPair d r c p).bw = d.bw := rfl
@[simp] theorem setPair_mem (d : Dp) (r c : Nat) (p : Pair) :
    (Dp.setPair d r c p).mem = d.mem := rfl

@[simp] theorem addDelta_io (k : DeltaKind) (pool b seqn : Nat) (l : Option Loc) (d : Dp) :
    (addDelta k pool b seqn l d).io = d.io := rfl
@[simp] theorem addDelta_hp (k : DeltaKind) (pool b seqn : Nat) (l : Option Loc) (d : Dp) :
    (addDelta k pool b seqn l d).hp = d.hp := rfl
@[simp] theorem addDelta_vq (k : DeltaKind) (pool b seqn : Nat) (l : Option Loc) (d : Dp) :
    (addDelta k pool b seqn l d).vq = d.vq := rfl
@[simp] theorem addDelta_mb (k : DeltaKind) (pool b seqn : Nat) (l : Option Loc) (d : Dp) :
    (addDelta k pool b seqn l d).mb = d.mb := rfl
@[simp] theorem addDelta_sh (k : DeltaKind) (pool b seqn : Nat) (l : Option Loc) (d : Dp) :
    (addDelta k pool b seqn l d).sh = d.sh := rfl
@[simp] theorem addDelta_ring (k : DeltaKind) (pool b seqn : Nat) (l : Option Loc) (d : Dp) :
    (addDelta k pool b seqn l d).ring = d.ring := rfl
@[simp] theorem addDelta_lane (k : DeltaKind) (pool b seqn : Nat) (l : Option Loc) (d : Dp) :
    (addDelta k pool b seqn l d).lane = d.lane := rfl
@[simp] theorem addDelta_med (k : DeltaKind) (pool b seqn : Nat) (l : Option Loc) (d : Dp) :
    (addDelta k pool b seqn l d).med = d.med := rfl
@[simp] theorem addDelta_kiln (k : DeltaKind) (pool b seqn : Nat) (l : Option Loc) (d : Dp) :
    (addDelta k pool b seqn l d).kiln = d.kiln := rfl
@[simp] theorem addDelta_bw (k : DeltaKind) (pool b seqn : Nat) (l : Option Loc) (d : Dp) :
    (addDelta k pool b seqn l d).bw = d.bw := rfl
@[simp] theorem addDelta_mem (k : DeltaKind) (pool b seqn : Nat) (l : Option Loc) (d : Dp) :
    (addDelta k pool b seqn l d).mem = d.mem := rfl

@[simp] theorem setEntry_io (pool b : Nat) (l : Option Loc) (d : Dp) :
    (setEntry pool b l d).io = d.io := rfl
@[simp] theorem setEntry_hp (pool b : Nat) (l : Option Loc) (d : Dp) :
    (setEntry pool b l d).hp = d.hp := rfl
@[simp] theorem setEntry_vq (pool b : Nat) (l : Option Loc) (d : Dp) :
    (setEntry pool b l d).vq = d.vq := rfl
@[simp] theorem setEntry_mb (pool b : Nat) (l : Option Loc) (d : Dp) :
    (setEntry pool b l d).mb = d.mb := rfl
@[simp] theorem setEntry_sh (pool b : Nat) (l : Option Loc) (d : Dp) :
    (setEntry pool b l d).sh = d.sh := rfl
@[simp] theorem setEntry_ring (pool b : Nat) (l : Option Loc) (d : Dp) :
    (setEntry pool b l d).ring = d.ring := rfl
@[simp] theorem setEntry_lane (pool b : Nat) (l : Option Loc) (d : Dp) :
    (setEntry pool b l d).lane = d.lane := rfl
@[simp] theorem setEntry_med (pool b : Nat) (l : Option Loc) (d : Dp) :
    (setEntry pool b l d).med = d.med := rfl
@[simp] theorem setEntry_kiln (pool b : Nat) (l : Option Loc) (d : Dp) :
    (setEntry pool b l d).kiln = d.kiln := rfl
@[simp] theorem setEntry_bw (pool b : Nat) (l : Option Loc) (d : Dp) :
    (setEntry pool b l d).bw = d.bw := rfl

@[simp] theorem setRole_io (d : Dp) (r : PRole) :
    (Dp.setRole d r).io = d.io := rfl
@[simp] theorem setRole_hp (d : Dp) (r : PRole) :
    (Dp.setRole d r).hp = d.hp := rfl
@[simp] theorem setRole_vq (d : Dp) (r : PRole) :
    (Dp.setRole d r).vq = d.vq := rfl
@[simp] theorem setRole_mb (d : Dp) (r : PRole) :
    (Dp.setRole d r).mb = d.mb := rfl
@[simp] theorem setRole_ring (d : Dp) (r : PRole) :
    (Dp.setRole d r).ring = d.ring := rfl
@[simp] theorem setRole_lane (d : Dp) (r : PRole) :
    (Dp.setRole d r).lane = d.lane := rfl
@[simp] theorem setRole_map (d : Dp) (r : PRole) :
    (Dp.setRole d r).map = d.map := rfl
@[simp] theorem setRole_med (d : Dp) (r : PRole) :
    (Dp.setRole d r).med = d.med := rfl
@[simp] theorem setRole_kiln (d : Dp) (r : PRole) :
    (Dp.setRole d r).kiln = d.kiln := rfl
@[simp] theorem setRole_bw (d : Dp) (r : PRole) :
    (Dp.setRole d r).bw = d.bw := rfl
@[simp] theorem setRole_mem (d : Dp) (r : PRole) :
    (Dp.setRole d r).mem = d.mem := rfl

@[simp] theorem noteLast_io (d : Dp) (pool : Nat) (f : PoolRec → PoolRec) :
    (Dp.noteLast d pool f).io = d.io := rfl
@[simp] theorem noteLast_hp (d : Dp) (pool : Nat) (f : PoolRec → PoolRec) :
    (Dp.noteLast d pool f).hp = d.hp := rfl
@[simp] theorem noteLast_vq (d : Dp) (pool : Nat) (f : PoolRec → PoolRec) :
    (Dp.noteLast d pool f).vq = d.vq := rfl
@[simp] theorem noteLast_mb (d : Dp) (pool : Nat) (f : PoolRec → PoolRec) :
    (Dp.noteLast d pool f).mb = d.mb := rfl
@[simp] theorem noteLast_ring (d : Dp) (pool : Nat) (f : PoolRec → PoolRec) :
    (Dp.noteLast d pool f).ring = d.ring := rfl
@[simp] theorem noteLast_lane (d : Dp) (pool : Nat) (f : PoolRec → PoolRec) :
    (Dp.noteLast d pool f).lane = d.lane := rfl
@[simp] theorem noteLast_map (d : Dp) (pool : Nat) (f : PoolRec → PoolRec) :
    (Dp.noteLast d pool f).map = d.map := rfl
@[simp] theorem noteLast_med (d : Dp) (pool : Nat) (f : PoolRec → PoolRec) :
    (Dp.noteLast d pool f).med = d.med := rfl
@[simp] theorem noteLast_kiln (d : Dp) (pool : Nat) (f : PoolRec → PoolRec) :
    (Dp.noteLast d pool f).kiln = d.kiln := rfl
@[simp] theorem noteLast_bw (d : Dp) (pool : Nat) (f : PoolRec → PoolRec) :
    (Dp.noteLast d pool f).bw = d.bw := rfl
@[simp] theorem noteLast_mem (d : Dp) (pool : Nat) (f : PoolRec → PoolRec) :
    (Dp.noteLast d pool f).mem = d.mem := rfl

@[simp] theorem refusal_io (pool : Nat) (d : Dp) :
    (refusal pool d).io = d.io := rfl
@[simp] theorem refusal_hp (pool : Nat) (d : Dp) :
    (refusal pool d).hp = d.hp := rfl
@[simp] theorem refusal_vq (pool : Nat) (d : Dp) :
    (refusal pool d).vq = d.vq := rfl
@[simp] theorem refusal_mb (pool : Nat) (d : Dp) :
    (refusal pool d).mb = d.mb := rfl
@[simp] theorem refusal_ring (pool : Nat) (d : Dp) :
    (refusal pool d).ring = d.ring := rfl
@[simp] theorem refusal_lane (pool : Nat) (d : Dp) :
    (refusal pool d).lane = d.lane := rfl
@[simp] theorem refusal_map (pool : Nat) (d : Dp) :
    (refusal pool d).map = d.map := rfl
@[simp] theorem refusal_med (pool : Nat) (d : Dp) :
    (refusal pool d).med = d.med := rfl
@[simp] theorem refusal_kiln (pool : Nat) (d : Dp) :
    (refusal pool d).kiln = d.kiln := rfl
@[simp] theorem refusal_bw (pool : Nat) (d : Dp) :
    (refusal pool d).bw = d.bw := rfl
@[simp] theorem refusal_mem (pool : Nat) (d : Dp) :
    (refusal pool d).mem = d.mem := rfl

@[simp] theorem onSticket_io (d : Dp) (pool seqn : Nat) (f : STicket → STicket) :
    (Dp.onSticket d pool seqn f).io = d.io := rfl
@[simp] theorem onSticket_hp (d : Dp) (pool seqn : Nat) (f : STicket → STicket) :
    (Dp.onSticket d pool seqn f).hp = d.hp := rfl
@[simp] theorem onSticket_vq (d : Dp) (pool seqn : Nat) (f : STicket → STicket) :
    (Dp.onSticket d pool seqn f).vq = d.vq := rfl
@[simp] theorem onSticket_mb (d : Dp) (pool seqn : Nat) (f : STicket → STicket) :
    (Dp.onSticket d pool seqn f).mb = d.mb := rfl
@[simp] theorem onSticket_ring (d : Dp) (pool seqn : Nat) (f : STicket → STicket) :
    (Dp.onSticket d pool seqn f).ring = d.ring := rfl
@[simp] theorem onSticket_lane (d : Dp) (pool seqn : Nat) (f : STicket → STicket) :
    (Dp.onSticket d pool seqn f).lane = d.lane := rfl
@[simp] theorem onSticket_map (d : Dp) (pool seqn : Nat) (f : STicket → STicket) :
    (Dp.onSticket d pool seqn f).map = d.map := rfl
@[simp] theorem onSticket_med (d : Dp) (pool seqn : Nat) (f : STicket → STicket) :
    (Dp.onSticket d pool seqn f).med = d.med := rfl
@[simp] theorem onSticket_kiln (d : Dp) (pool seqn : Nat) (f : STicket → STicket) :
    (Dp.onSticket d pool seqn f).kiln = d.kiln := rfl
@[simp] theorem onSticket_bw (d : Dp) (pool seqn : Nat) (f : STicket → STicket) :
    (Dp.onSticket d pool seqn f).bw = d.bw := rfl
@[simp] theorem onSticket_mem (d : Dp) (pool seqn : Nat) (f : STicket → STicket) :
    (Dp.onSticket d pool seqn f).mem = d.mem := rfl

@[simp] theorem setQueue_io (d : Dp) (q : Queue) :
    (Dp.setQueue d q).io = d.io := rfl
@[simp] theorem setQueue_hp (d : Dp) (q : Queue) :
    (Dp.setQueue d q).hp = d.hp := rfl
@[simp] theorem setQueue_mb (d : Dp) (q : Queue) :
    (Dp.setQueue d q).mb = d.mb := rfl
@[simp] theorem setQueue_sh (d : Dp) (q : Queue) :
    (Dp.setQueue d q).sh = d.sh := rfl
@[simp] theorem setQueue_ring (d : Dp) (q : Queue) :
    (Dp.setQueue d q).ring = d.ring := rfl
@[simp] theorem setQueue_lane (d : Dp) (q : Queue) :
    (Dp.setQueue d q).lane = d.lane := rfl
@[simp] theorem setQueue_map (d : Dp) (q : Queue) :
    (Dp.setQueue d q).map = d.map := rfl
@[simp] theorem setQueue_med (d : Dp) (q : Queue) :
    (Dp.setQueue d q).med = d.med := rfl
@[simp] theorem setQueue_kiln (d : Dp) (q : Queue) :
    (Dp.setQueue d q).kiln = d.kiln := rfl
@[simp] theorem setQueue_bw (d : Dp) (q : Queue) :
    (Dp.setQueue d q).bw = d.bw := rfl
@[simp] theorem setQueue_mem (d : Dp) (q : Queue) :
    (Dp.setQueue d q).mem = d.mem := rfl

@[simp] theorem onCmd_io (d : Dp) (k : CmdKey) (f : Cmd → Cmd) :
    (Dp.onCmd d k f).io = d.io := rfl
@[simp] theorem onCmd_hp (d : Dp) (k : CmdKey) (f : Cmd → Cmd) :
    (Dp.onCmd d k f).hp = d.hp := rfl
@[simp] theorem onCmd_mb (d : Dp) (k : CmdKey) (f : Cmd → Cmd) :
    (Dp.onCmd d k f).mb = d.mb := rfl
@[simp] theorem onCmd_sh (d : Dp) (k : CmdKey) (f : Cmd → Cmd) :
    (Dp.onCmd d k f).sh = d.sh := rfl
@[simp] theorem onCmd_ring (d : Dp) (k : CmdKey) (f : Cmd → Cmd) :
    (Dp.onCmd d k f).ring = d.ring := rfl
@[simp] theorem onCmd_lane (d : Dp) (k : CmdKey) (f : Cmd → Cmd) :
    (Dp.onCmd d k f).lane = d.lane := rfl
@[simp] theorem onCmd_map (d : Dp) (k : CmdKey) (f : Cmd → Cmd) :
    (Dp.onCmd d k f).map = d.map := rfl
@[simp] theorem onCmd_med (d : Dp) (k : CmdKey) (f : Cmd → Cmd) :
    (Dp.onCmd d k f).med = d.med := rfl
@[simp] theorem onCmd_kiln (d : Dp) (k : CmdKey) (f : Cmd → Cmd) :
    (Dp.onCmd d k f).kiln = d.kiln := rfl
@[simp] theorem onCmd_bw (d : Dp) (k : CmdKey) (f : Cmd → Cmd) :
    (Dp.onCmd d k f).bw = d.bw := rfl
@[simp] theorem onCmd_mem (d : Dp) (k : CmdKey) (f : Cmd → Cmd) :
    (Dp.onCmd d k f).mem = d.mem := rfl

@[simp] theorem freeTag_io (d : Dp) (k : CmdKey) :
    (Dp.freeTag d k).io = d.io := rfl
@[simp] theorem freeTag_hp (d : Dp) (k : CmdKey) :
    (Dp.freeTag d k).hp = d.hp := rfl
@[simp] theorem freeTag_mb (d : Dp) (k : CmdKey) :
    (Dp.freeTag d k).mb = d.mb := rfl
@[simp] theorem freeTag_sh (d : Dp) (k : CmdKey) :
    (Dp.freeTag d k).sh = d.sh := rfl
@[simp] theorem freeTag_ring (d : Dp) (k : CmdKey) :
    (Dp.freeTag d k).ring = d.ring := rfl
@[simp] theorem freeTag_lane (d : Dp) (k : CmdKey) :
    (Dp.freeTag d k).lane = d.lane := rfl
@[simp] theorem freeTag_map (d : Dp) (k : CmdKey) :
    (Dp.freeTag d k).map = d.map := rfl
@[simp] theorem freeTag_med (d : Dp) (k : CmdKey) :
    (Dp.freeTag d k).med = d.med := rfl
@[simp] theorem freeTag_kiln (d : Dp) (k : CmdKey) :
    (Dp.freeTag d k).kiln = d.kiln := rfl
@[simp] theorem freeTag_bw (d : Dp) (k : CmdKey) :
    (Dp.freeTag d k).bw = d.bw := rfl
@[simp] theorem freeTag_mem (d : Dp) (k : CmdKey) :
    (Dp.freeTag d k).mem = d.mem := rfl

@[simp] theorem touchEntry_io (p : PortId) (q : Nat) (d : Dp) :
    (touchEntry p q d).io = d.io := rfl
@[simp] theorem touchEntry_hp (p : PortId) (q : Nat) (d : Dp) :
    (touchEntry p q d).hp = d.hp := rfl
@[simp] theorem touchEntry_mb (p : PortId) (q : Nat) (d : Dp) :
    (touchEntry p q d).mb = d.mb := rfl
@[simp] theorem touchEntry_sh (p : PortId) (q : Nat) (d : Dp) :
    (touchEntry p q d).sh = d.sh := rfl
@[simp] theorem touchEntry_ring (p : PortId) (q : Nat) (d : Dp) :
    (touchEntry p q d).ring = d.ring := rfl
@[simp] theorem touchEntry_lane (p : PortId) (q : Nat) (d : Dp) :
    (touchEntry p q d).lane = d.lane := rfl
@[simp] theorem touchEntry_map (p : PortId) (q : Nat) (d : Dp) :
    (touchEntry p q d).map = d.map := rfl
@[simp] theorem touchEntry_med (p : PortId) (q : Nat) (d : Dp) :
    (touchEntry p q d).med = d.med := rfl
@[simp] theorem touchEntry_kiln (p : PortId) (q : Nat) (d : Dp) :
    (touchEntry p q d).kiln = d.kiln := rfl
@[simp] theorem touchEntry_bw (p : PortId) (q : Nat) (d : Dp) :
    (touchEntry p q d).bw = d.bw := rfl
@[simp] theorem touchEntry_mem (p : PortId) (q : Nat) (d : Dp) :
    (touchEntry p q d).mem = d.mem := rfl

@[simp] theorem setDie_io (d : Dp) (c n : Nat) (x : Die) :
    (Dp.setDie d c n x).io = d.io := rfl
@[simp] theorem setDie_hp (d : Dp) (c n : Nat) (x : Die) :
    (Dp.setDie d c n x).hp = d.hp := rfl
@[simp] theorem setDie_vq (d : Dp) (c n : Nat) (x : Die) :
    (Dp.setDie d c n x).vq = d.vq := rfl
@[simp] theorem setDie_mb (d : Dp) (c n : Nat) (x : Die) :
    (Dp.setDie d c n x).mb = d.mb := rfl
@[simp] theorem setDie_sh (d : Dp) (c n : Nat) (x : Die) :
    (Dp.setDie d c n x).sh = d.sh := rfl
@[simp] theorem setDie_ring (d : Dp) (c n : Nat) (x : Die) :
    (Dp.setDie d c n x).ring = d.ring := rfl
@[simp] theorem setDie_lane (d : Dp) (c n : Nat) (x : Die) :
    (Dp.setDie d c n x).lane = d.lane := rfl
@[simp] theorem setDie_map (d : Dp) (c n : Nat) (x : Die) :
    (Dp.setDie d c n x).map = d.map := rfl
@[simp] theorem setDie_med (d : Dp) (c n : Nat) (x : Die) :
    (Dp.setDie d c n x).med = d.med := rfl
@[simp] theorem setDie_bw (d : Dp) (c n : Nat) (x : Die) :
    (Dp.setDie d c n x).bw = d.bw := rfl
@[simp] theorem setDie_mem (d : Dp) (c n : Nat) (x : Die) :
    (Dp.setDie d c n x).mem = d.mem := rfl

@[simp] theorem setChan_io (d : Dp) (c : Nat) (x : Chan) :
    (Dp.setChan d c x).io = d.io := rfl
@[simp] theorem setChan_hp (d : Dp) (c : Nat) (x : Chan) :
    (Dp.setChan d c x).hp = d.hp := rfl
@[simp] theorem setChan_vq (d : Dp) (c : Nat) (x : Chan) :
    (Dp.setChan d c x).vq = d.vq := rfl
@[simp] theorem setChan_mb (d : Dp) (c : Nat) (x : Chan) :
    (Dp.setChan d c x).mb = d.mb := rfl
@[simp] theorem setChan_sh (d : Dp) (c : Nat) (x : Chan) :
    (Dp.setChan d c x).sh = d.sh := rfl
@[simp] theorem setChan_ring (d : Dp) (c : Nat) (x : Chan) :
    (Dp.setChan d c x).ring = d.ring := rfl
@[simp] theorem setChan_lane (d : Dp) (c : Nat) (x : Chan) :
    (Dp.setChan d c x).lane = d.lane := rfl
@[simp] theorem setChan_map (d : Dp) (c : Nat) (x : Chan) :
    (Dp.setChan d c x).map = d.map := rfl
@[simp] theorem setChan_med (d : Dp) (c : Nat) (x : Chan) :
    (Dp.setChan d c x).med = d.med := rfl
@[simp] theorem setChan_bw (d : Dp) (c : Nat) (x : Chan) :
    (Dp.setChan d c x).bw = d.bw := rfl
@[simp] theorem setChan_mem (d : Dp) (c : Nat) (x : Chan) :
    (Dp.setChan d c x).mem = d.mem := rfl

@[simp] theorem onRow_io (d : Dp) (id : Nat) (f : Row → Row) :
    (Dp.onRow d id f).io = d.io := rfl
@[simp] theorem onRow_hp (d : Dp) (id : Nat) (f : Row → Row) :
    (Dp.onRow d id f).hp = d.hp := rfl
@[simp] theorem onRow_vq (d : Dp) (id : Nat) (f : Row → Row) :
    (Dp.onRow d id f).vq = d.vq := rfl
@[simp] theorem onRow_mb (d : Dp) (id : Nat) (f : Row → Row) :
    (Dp.onRow d id f).mb = d.mb := rfl
@[simp] theorem onRow_sh (d : Dp) (id : Nat) (f : Row → Row) :
    (Dp.onRow d id f).sh = d.sh := rfl
@[simp] theorem onRow_ring (d : Dp) (id : Nat) (f : Row → Row) :
    (Dp.onRow d id f).ring = d.ring := rfl
@[simp] theorem onRow_lane (d : Dp) (id : Nat) (f : Row → Row) :
    (Dp.onRow d id f).lane = d.lane := rfl
@[simp] theorem onRow_map (d : Dp) (id : Nat) (f : Row → Row) :
    (Dp.onRow d id f).map = d.map := rfl
@[simp] theorem onRow_kiln (d : Dp) (id : Nat) (f : Row → Row) :
    (Dp.onRow d id f).kiln = d.kiln := rfl
@[simp] theorem onRow_bw (d : Dp) (id : Nat) (f : Row → Row) :
    (Dp.onRow d id f).bw = d.bw := rfl
@[simp] theorem onRow_mem (d : Dp) (id : Nat) (f : Row → Row) :
    (Dp.onRow d id f).mem = d.mem := rfl

@[simp] theorem sizeBisque_io (e : Env) (d : Dp) :
    (sizeBisque e d).io = d.io := rfl
@[simp] theorem sizeBisque_hp (e : Env) (d : Dp) :
    (sizeBisque e d).hp = d.hp := rfl
@[simp] theorem sizeBisque_vq (e : Env) (d : Dp) :
    (sizeBisque e d).vq = d.vq := rfl
@[simp] theorem sizeBisque_mb (e : Env) (d : Dp) :
    (sizeBisque e d).mb = d.mb := rfl
@[simp] theorem sizeBisque_sh (e : Env) (d : Dp) :
    (sizeBisque e d).sh = d.sh := rfl
@[simp] theorem sizeBisque_ring (e : Env) (d : Dp) :
    (sizeBisque e d).ring = d.ring := rfl
@[simp] theorem sizeBisque_lane (e : Env) (d : Dp) :
    (sizeBisque e d).lane = d.lane := rfl
@[simp] theorem sizeBisque_map (e : Env) (d : Dp) :
    (sizeBisque e d).map = d.map := rfl
@[simp] theorem sizeBisque_kiln (e : Env) (d : Dp) :
    (sizeBisque e d).kiln = d.kiln := rfl
@[simp] theorem sizeBisque_bw (e : Env) (d : Dp) :
    (sizeBisque e d).bw = d.bw := rfl
@[simp] theorem sizeBisque_mem (e : Env) (d : Dp) :
    (sizeBisque e d).mem = d.mem := rfl

@[simp] theorem eraseSettled_io (id pos : Nat) (d : Dp) :
    (eraseSettled id pos d).io = d.io := rfl
@[simp] theorem eraseSettled_hp (id pos : Nat) (d : Dp) :
    (eraseSettled id pos d).hp = d.hp := rfl
@[simp] theorem eraseSettled_vq (id pos : Nat) (d : Dp) :
    (eraseSettled id pos d).vq = d.vq := rfl
@[simp] theorem eraseSettled_mb (id pos : Nat) (d : Dp) :
    (eraseSettled id pos d).mb = d.mb := rfl
@[simp] theorem eraseSettled_sh (id pos : Nat) (d : Dp) :
    (eraseSettled id pos d).sh = d.sh := rfl
@[simp] theorem eraseSettled_ring (id pos : Nat) (d : Dp) :
    (eraseSettled id pos d).ring = d.ring := rfl
@[simp] theorem eraseSettled_lane (id pos : Nat) (d : Dp) :
    (eraseSettled id pos d).lane = d.lane := rfl
@[simp] theorem eraseSettled_map (id pos : Nat) (d : Dp) :
    (eraseSettled id pos d).map = d.map := rfl
@[simp] theorem eraseSettled_kiln (id pos : Nat) (d : Dp) :
    (eraseSettled id pos d).kiln = d.kiln := rfl
@[simp] theorem eraseSettled_bw (id pos : Nat) (d : Dp) :
    (eraseSettled id pos d).bw = d.bw := rfl
@[simp] theorem eraseSettled_mem (id pos : Nat) (d : Dp) :
    (eraseSettled id pos d).mem = d.mem := rfl

@[simp] theorem sdBlock_io (id : Option Nat) (b : Nat × Nat × Nat) (gone : Bool) (d : Dp) :
    (sdBlock id b gone d).io = d.io := rfl
@[simp] theorem sdBlock_hp (id : Option Nat) (b : Nat × Nat × Nat) (gone : Bool) (d : Dp) :
    (sdBlock id b gone d).hp = d.hp := rfl
@[simp] theorem sdBlock_vq (id : Option Nat) (b : Nat × Nat × Nat) (gone : Bool) (d : Dp) :
    (sdBlock id b gone d).vq = d.vq := rfl
@[simp] theorem sdBlock_mb (id : Option Nat) (b : Nat × Nat × Nat) (gone : Bool) (d : Dp) :
    (sdBlock id b gone d).mb = d.mb := rfl
@[simp] theorem sdBlock_ring (id : Option Nat) (b : Nat × Nat × Nat) (gone : Bool) (d : Dp) :
    (sdBlock id b gone d).ring = d.ring := rfl
@[simp] theorem sdBlock_lane (id : Option Nat) (b : Nat × Nat × Nat) (gone : Bool) (d : Dp) :
    (sdBlock id b gone d).lane = d.lane := rfl
@[simp] theorem sdBlock_map (id : Option Nat) (b : Nat × Nat × Nat) (gone : Bool) (d : Dp) :
    (sdBlock id b gone d).map = d.map := rfl
@[simp] theorem sdBlock_med (id : Option Nat) (b : Nat × Nat × Nat) (gone : Bool) (d : Dp) :
    (sdBlock id b gone d).med = d.med := rfl
@[simp] theorem sdBlock_kiln (id : Option Nat) (b : Nat × Nat × Nat) (gone : Bool) (d : Dp) :
    (sdBlock id b gone d).kiln = d.kiln := rfl
@[simp] theorem sdBlock_bw (id : Option Nat) (b : Nat × Nat × Nat) (gone : Bool) (d : Dp) :
    (sdBlock id b gone d).bw = d.bw := rfl
@[simp] theorem sdBlock_mem (id : Option Nat) (b : Nat × Nat × Nat) (gone : Bool) (d : Dp) :
    (sdBlock id b gone d).mem = d.mem := rfl

@[simp] theorem onGreen_io (d : Dp) (p : Green → Bool) (f : Green → Green) :
    (Dp.onGreen d p f).io = d.io := rfl
@[simp] theorem onGreen_hp (d : Dp) (p : Green → Bool) (f : Green → Green) :
    (Dp.onGreen d p f).hp = d.hp := rfl
@[simp] theorem onGreen_vq (d : Dp) (p : Green → Bool) (f : Green → Green) :
    (Dp.onGreen d p f).vq = d.vq := rfl
@[simp] theorem onGreen_mb (d : Dp) (p : Green → Bool) (f : Green → Green) :
    (Dp.onGreen d p f).mb = d.mb := rfl
@[simp] theorem onGreen_sh (d : Dp) (p : Green → Bool) (f : Green → Green) :
    (Dp.onGreen d p f).sh = d.sh := rfl
@[simp] theorem onGreen_ring (d : Dp) (p : Green → Bool) (f : Green → Green) :
    (Dp.onGreen d p f).ring = d.ring := rfl
@[simp] theorem onGreen_lane (d : Dp) (p : Green → Bool) (f : Green → Green) :
    (Dp.onGreen d p f).lane = d.lane := rfl
@[simp] theorem onGreen_med (d : Dp) (p : Green → Bool) (f : Green → Green) :
    (Dp.onGreen d p f).med = d.med := rfl
@[simp] theorem onGreen_kiln (d : Dp) (p : Green → Bool) (f : Green → Green) :
    (Dp.onGreen d p f).kiln = d.kiln := rfl
@[simp] theorem onGreen_bw (d : Dp) (p : Green → Bool) (f : Green → Green) :
    (Dp.onGreen d p f).bw = d.bw := rfl
@[simp] theorem onGreen_mem (d : Dp) (p : Green → Bool) (f : Green → Green) :
    (Dp.onGreen d p f).mem = d.mem := rfl

@[simp] theorem wantSeg_io (d : Dp) (pool lb : Nat) :
    (wantSeg d pool lb).io = d.io := rfl
@[simp] theorem wantSeg_hp (d : Dp) (pool lb : Nat) :
    (wantSeg d pool lb).hp = d.hp := rfl
@[simp] theorem wantSeg_vq (d : Dp) (pool lb : Nat) :
    (wantSeg d pool lb).vq = d.vq := rfl
@[simp] theorem wantSeg_mb (d : Dp) (pool lb : Nat) :
    (wantSeg d pool lb).mb = d.mb := rfl
@[simp] theorem wantSeg_sh (d : Dp) (pool lb : Nat) :
    (wantSeg d pool lb).sh = d.sh := rfl
@[simp] theorem wantSeg_ring (d : Dp) (pool lb : Nat) :
    (wantSeg d pool lb).ring = d.ring := rfl
@[simp] theorem wantSeg_lane (d : Dp) (pool lb : Nat) :
    (wantSeg d pool lb).lane = d.lane := rfl
@[simp] theorem wantSeg_med (d : Dp) (pool lb : Nat) :
    (wantSeg d pool lb).med = d.med := rfl
@[simp] theorem wantSeg_kiln (d : Dp) (pool lb : Nat) :
    (wantSeg d pool lb).kiln = d.kiln := rfl
@[simp] theorem wantSeg_bw (d : Dp) (pool lb : Nat) :
    (wantSeg d pool lb).bw = d.bw := rfl
@[simp] theorem wantSeg_mem (d : Dp) (pool lb : Nat) :
    (wantSeg d pool lb).mem = d.mem := rfl

@[simp] theorem setBucket_io (d : Dp) (pool : Nat) (b : Bucket) :
    (Dp.setBucket d pool b).io = d.io := rfl
@[simp] theorem setBucket_hp (d : Dp) (pool : Nat) (b : Bucket) :
    (Dp.setBucket d pool b).hp = d.hp := rfl
@[simp] theorem setBucket_vq (d : Dp) (pool : Nat) (b : Bucket) :
    (Dp.setBucket d pool b).vq = d.vq := rfl
@[simp] theorem setBucket_mb (d : Dp) (pool : Nat) (b : Bucket) :
    (Dp.setBucket d pool b).mb = d.mb := rfl
@[simp] theorem setBucket_sh (d : Dp) (pool : Nat) (b : Bucket) :
    (Dp.setBucket d pool b).sh = d.sh := rfl
@[simp] theorem setBucket_ring (d : Dp) (pool : Nat) (b : Bucket) :
    (Dp.setBucket d pool b).ring = d.ring := rfl
@[simp] theorem setBucket_lane (d : Dp) (pool : Nat) (b : Bucket) :
    (Dp.setBucket d pool b).lane = d.lane := rfl
@[simp] theorem setBucket_map (d : Dp) (pool : Nat) (b : Bucket) :
    (Dp.setBucket d pool b).map = d.map := rfl
@[simp] theorem setBucket_med (d : Dp) (pool : Nat) (b : Bucket) :
    (Dp.setBucket d pool b).med = d.med := rfl
@[simp] theorem setBucket_kiln (d : Dp) (pool : Nat) (b : Bucket) :
    (Dp.setBucket d pool b).kiln = d.kiln := rfl
@[simp] theorem setBucket_mem (d : Dp) (pool : Nat) (b : Bucket) :
    (Dp.setBucket d pool b).mem = d.mem := rfl

@[simp] theorem onHticket_io (d : Dp) (id : Nat) (f : HTicket → HTicket) :
    (Dp.onHticket d id f).io = d.io := rfl
@[simp] theorem onHticket_hp (d : Dp) (id : Nat) (f : HTicket → HTicket) :
    (Dp.onHticket d id f).hp = d.hp := rfl
@[simp] theorem onHticket_vq (d : Dp) (id : Nat) (f : HTicket → HTicket) :
    (Dp.onHticket d id f).vq = d.vq := rfl
@[simp] theorem onHticket_mb (d : Dp) (id : Nat) (f : HTicket → HTicket) :
    (Dp.onHticket d id f).mb = d.mb := rfl
@[simp] theorem onHticket_ring (d : Dp) (id : Nat) (f : HTicket → HTicket) :
    (Dp.onHticket d id f).ring = d.ring := rfl
@[simp] theorem onHticket_lane (d : Dp) (id : Nat) (f : HTicket → HTicket) :
    (Dp.onHticket d id f).lane = d.lane := rfl
@[simp] theorem onHticket_map (d : Dp) (id : Nat) (f : HTicket → HTicket) :
    (Dp.onHticket d id f).map = d.map := rfl
@[simp] theorem onHticket_med (d : Dp) (id : Nat) (f : HTicket → HTicket) :
    (Dp.onHticket d id f).med = d.med := rfl
@[simp] theorem onHticket_kiln (d : Dp) (id : Nat) (f : HTicket → HTicket) :
    (Dp.onHticket d id f).kiln = d.kiln := rfl
@[simp] theorem onHticket_bw (d : Dp) (id : Nat) (f : HTicket → HTicket) :
    (Dp.onHticket d id f).bw = d.bw := rfl
@[simp] theorem onHticket_mem (d : Dp) (id : Nat) (f : HTicket → HTicket) :
    (Dp.onHticket d id f).mem = d.mem := rfl

@[simp] theorem dropHticket_io (d : Dp) (id : Nat) :
    (Dp.dropHticket d id).io = d.io := rfl
@[simp] theorem dropHticket_hp (d : Dp) (id : Nat) :
    (Dp.dropHticket d id).hp = d.hp := rfl
@[simp] theorem dropHticket_vq (d : Dp) (id : Nat) :
    (Dp.dropHticket d id).vq = d.vq := rfl
@[simp] theorem dropHticket_mb (d : Dp) (id : Nat) :
    (Dp.dropHticket d id).mb = d.mb := rfl
@[simp] theorem dropHticket_ring (d : Dp) (id : Nat) :
    (Dp.dropHticket d id).ring = d.ring := rfl
@[simp] theorem dropHticket_lane (d : Dp) (id : Nat) :
    (Dp.dropHticket d id).lane = d.lane := rfl
@[simp] theorem dropHticket_map (d : Dp) (id : Nat) :
    (Dp.dropHticket d id).map = d.map := rfl
@[simp] theorem dropHticket_med (d : Dp) (id : Nat) :
    (Dp.dropHticket d id).med = d.med := rfl
@[simp] theorem dropHticket_kiln (d : Dp) (id : Nat) :
    (Dp.dropHticket d id).kiln = d.kiln := rfl
@[simp] theorem dropHticket_bw (d : Dp) (id : Nat) :
    (Dp.dropHticket d id).bw = d.bw := rfl
@[simp] theorem dropHticket_mem (d : Dp) (id : Nat) :
    (Dp.dropHticket d id).mem = d.mem := rfl

@[simp] theorem onRebuild_io (d : Dp) (id : Nat) (f : Rebuild → Rebuild) :
    (Dp.onRebuild d id f).io = d.io := rfl
@[simp] theorem onRebuild_hp (d : Dp) (id : Nat) (f : Rebuild → Rebuild) :
    (Dp.onRebuild d id f).hp = d.hp := rfl
@[simp] theorem onRebuild_vq (d : Dp) (id : Nat) (f : Rebuild → Rebuild) :
    (Dp.onRebuild d id f).vq = d.vq := rfl
@[simp] theorem onRebuild_mb (d : Dp) (id : Nat) (f : Rebuild → Rebuild) :
    (Dp.onRebuild d id f).mb = d.mb := rfl
@[simp] theorem onRebuild_ring (d : Dp) (id : Nat) (f : Rebuild → Rebuild) :
    (Dp.onRebuild d id f).ring = d.ring := rfl
@[simp] theorem onRebuild_lane (d : Dp) (id : Nat) (f : Rebuild → Rebuild) :
    (Dp.onRebuild d id f).lane = d.lane := rfl
@[simp] theorem onRebuild_map (d : Dp) (id : Nat) (f : Rebuild → Rebuild) :
    (Dp.onRebuild d id f).map = d.map := rfl
@[simp] theorem onRebuild_med (d : Dp) (id : Nat) (f : Rebuild → Rebuild) :
    (Dp.onRebuild d id f).med = d.med := rfl
@[simp] theorem onRebuild_kiln (d : Dp) (id : Nat) (f : Rebuild → Rebuild) :
    (Dp.onRebuild d id f).kiln = d.kiln := rfl
@[simp] theorem onRebuild_bw (d : Dp) (id : Nat) (f : Rebuild → Rebuild) :
    (Dp.onRebuild d id f).bw = d.bw := rfl
@[simp] theorem onRebuild_mem (d : Dp) (id : Nat) (f : Rebuild → Rebuild) :
    (Dp.onRebuild d id f).mem = d.mem := rfl

@[simp] theorem dropFetch_io (d : Dp) (f : Fetch) :
    (Dp.dropFetch d f).io = d.io := rfl
@[simp] theorem dropFetch_hp (d : Dp) (f : Fetch) :
    (Dp.dropFetch d f).hp = d.hp := rfl
@[simp] theorem dropFetch_vq (d : Dp) (f : Fetch) :
    (Dp.dropFetch d f).vq = d.vq := rfl
@[simp] theorem dropFetch_mb (d : Dp) (f : Fetch) :
    (Dp.dropFetch d f).mb = d.mb := rfl
@[simp] theorem dropFetch_ring (d : Dp) (f : Fetch) :
    (Dp.dropFetch d f).ring = d.ring := rfl
@[simp] theorem dropFetch_lane (d : Dp) (f : Fetch) :
    (Dp.dropFetch d f).lane = d.lane := rfl
@[simp] theorem dropFetch_map (d : Dp) (f : Fetch) :
    (Dp.dropFetch d f).map = d.map := rfl
@[simp] theorem dropFetch_med (d : Dp) (f : Fetch) :
    (Dp.dropFetch d f).med = d.med := rfl
@[simp] theorem dropFetch_kiln (d : Dp) (f : Fetch) :
    (Dp.dropFetch d f).kiln = d.kiln := rfl
@[simp] theorem dropFetch_bw (d : Dp) (f : Fetch) :
    (Dp.dropFetch d f).bw = d.bw := rfl
@[simp] theorem dropFetch_mem (d : Dp) (f : Fetch) :
    (Dp.dropFetch d f).mem = d.mem := rfl

@[simp] theorem laneQueue_io (b : BitVec 49) (d : Dp) :
    (laneQueue b d).io = d.io := rfl
@[simp] theorem laneQueue_hp (b : BitVec 49) (d : Dp) :
    (laneQueue b d).hp = d.hp := rfl
@[simp] theorem laneQueue_vq (b : BitVec 49) (d : Dp) :
    (laneQueue b d).vq = d.vq := rfl
@[simp] theorem laneQueue_mb (b : BitVec 49) (d : Dp) :
    (laneQueue b d).mb = d.mb := rfl
@[simp] theorem laneQueue_sh (b : BitVec 49) (d : Dp) :
    (laneQueue b d).sh = d.sh := rfl
@[simp] theorem laneQueue_ring (b : BitVec 49) (d : Dp) :
    (laneQueue b d).ring = d.ring := rfl
@[simp] theorem laneQueue_map (b : BitVec 49) (d : Dp) :
    (laneQueue b d).map = d.map := rfl
@[simp] theorem laneQueue_med (b : BitVec 49) (d : Dp) :
    (laneQueue b d).med = d.med := rfl
@[simp] theorem laneQueue_kiln (b : BitVec 49) (d : Dp) :
    (laneQueue b d).kiln = d.kiln := rfl
@[simp] theorem laneQueue_bw (b : BitVec 49) (d : Dp) :
    (laneQueue b d).bw = d.bw := rfl
@[simp] theorem laneQueue_mem (b : BitVec 49) (d : Dp) :
    (laneQueue b d).mem = d.mem := rfl

@[simp] theorem dropJob_io (id : Nat) (d : Dp) :
    (dropJob id d).io = d.io := rfl
@[simp] theorem dropJob_hp (id : Nat) (d : Dp) :
    (dropJob id d).hp = d.hp := rfl
@[simp] theorem dropJob_vq (id : Nat) (d : Dp) :
    (dropJob id d).vq = d.vq := rfl
@[simp] theorem dropJob_mb (id : Nat) (d : Dp) :
    (dropJob id d).mb = d.mb := rfl
@[simp] theorem dropJob_sh (id : Nat) (d : Dp) :
    (dropJob id d).sh = d.sh := rfl
@[simp] theorem dropJob_ring (id : Nat) (d : Dp) :
    (dropJob id d).ring = d.ring := rfl
@[simp] theorem dropJob_lane (id : Nat) (d : Dp) :
    (dropJob id d).lane = d.lane := rfl
@[simp] theorem dropJob_map (id : Nat) (d : Dp) :
    (dropJob id d).map = d.map := rfl
@[simp] theorem dropJob_med (id : Nat) (d : Dp) :
    (dropJob id d).med = d.med := rfl
@[simp] theorem dropJob_bw (id : Nat) (d : Dp) :
    (dropJob id d).bw = d.bw := rfl
@[simp] theorem dropJob_mem (id : Nat) (d : Dp) :
    (dropJob id d).mem = d.mem := rfl

@[simp] theorem holdJoin_io (j : Nat × Nat × Word × Word × Nat) (d : Dp) :
    (holdJoin j d).io = d.io := rfl
@[simp] theorem holdJoin_hp (j : Nat × Nat × Word × Word × Nat) (d : Dp) :
    (holdJoin j d).hp = d.hp := rfl
@[simp] theorem holdJoin_vq (j : Nat × Nat × Word × Word × Nat) (d : Dp) :
    (holdJoin j d).vq = d.vq := rfl
@[simp] theorem holdJoin_mb (j : Nat × Nat × Word × Word × Nat) (d : Dp) :
    (holdJoin j d).mb = d.mb := rfl
@[simp] theorem holdJoin_ring (j : Nat × Nat × Word × Word × Nat) (d : Dp) :
    (holdJoin j d).ring = d.ring := rfl
@[simp] theorem holdJoin_lane (j : Nat × Nat × Word × Word × Nat) (d : Dp) :
    (holdJoin j d).lane = d.lane := rfl
@[simp] theorem holdJoin_map (j : Nat × Nat × Word × Word × Nat) (d : Dp) :
    (holdJoin j d).map = d.map := rfl
@[simp] theorem holdJoin_med (j : Nat × Nat × Word × Word × Nat) (d : Dp) :
    (holdJoin j d).med = d.med := rfl
@[simp] theorem holdJoin_kiln (j : Nat × Nat × Word × Word × Nat) (d : Dp) :
    (holdJoin j d).kiln = d.kiln := rfl
@[simp] theorem holdJoin_bw (j : Nat × Nat × Word × Word × Nat) (d : Dp) :
    (holdJoin j d).bw = d.bw := rfl
@[simp] theorem holdJoin_mem (j : Nat × Nat × Word × Word × Nat) (d : Dp) :
    (holdJoin j d).mem = d.mem := rfl

@[simp] theorem markFailing_io (b : Nat × Nat × Nat) (d : Dp) :
    (markFailing b d).io = d.io := rfl
@[simp] theorem markFailing_hp (b : Nat × Nat × Nat) (d : Dp) :
    (markFailing b d).hp = d.hp := rfl
@[simp] theorem markFailing_vq (b : Nat × Nat × Nat) (d : Dp) :
    (markFailing b d).vq = d.vq := rfl
@[simp] theorem markFailing_mb (b : Nat × Nat × Nat) (d : Dp) :
    (markFailing b d).mb = d.mb := rfl
@[simp] theorem markFailing_sh (b : Nat × Nat × Nat) (d : Dp) :
    (markFailing b d).sh = d.sh := rfl
@[simp] theorem markFailing_ring (b : Nat × Nat × Nat) (d : Dp) :
    (markFailing b d).ring = d.ring := rfl
@[simp] theorem markFailing_lane (b : Nat × Nat × Nat) (d : Dp) :
    (markFailing b d).lane = d.lane := rfl
@[simp] theorem markFailing_map (b : Nat × Nat × Nat) (d : Dp) :
    (markFailing b d).map = d.map := rfl
@[simp] theorem markFailing_kiln (b : Nat × Nat × Nat) (d : Dp) :
    (markFailing b d).kiln = d.kiln := rfl
@[simp] theorem markFailing_bw (b : Nat × Nat × Nat) (d : Dp) :
    (markFailing b d).bw = d.bw := rfl
@[simp] theorem markFailing_mem (b : Nat × Nat × Nat) (d : Dp) :
    (markFailing b d).mem = d.mem := rfl

@[simp] theorem setSdPart_io (d : Dp) (id : Nat) (x : SdPart) :
    (Dp.setSdPart d id x).io = d.io := rfl
@[simp] theorem setSdPart_hp (d : Dp) (id : Nat) (x : SdPart) :
    (Dp.setSdPart d id x).hp = d.hp := rfl
@[simp] theorem setSdPart_vq (d : Dp) (id : Nat) (x : SdPart) :
    (Dp.setSdPart d id x).vq = d.vq := rfl
@[simp] theorem setSdPart_mb (d : Dp) (id : Nat) (x : SdPart) :
    (Dp.setSdPart d id x).mb = d.mb := rfl
@[simp] theorem setSdPart_ring (d : Dp) (id : Nat) (x : SdPart) :
    (Dp.setSdPart d id x).ring = d.ring := rfl
@[simp] theorem setSdPart_lane (d : Dp) (id : Nat) (x : SdPart) :
    (Dp.setSdPart d id x).lane = d.lane := rfl
@[simp] theorem setSdPart_map (d : Dp) (id : Nat) (x : SdPart) :
    (Dp.setSdPart d id x).map = d.map := rfl
@[simp] theorem setSdPart_med (d : Dp) (id : Nat) (x : SdPart) :
    (Dp.setSdPart d id x).med = d.med := rfl
@[simp] theorem setSdPart_kiln (d : Dp) (id : Nat) (x : SdPart) :
    (Dp.setSdPart d id x).kiln = d.kiln := rfl
@[simp] theorem setSdPart_bw (d : Dp) (id : Nat) (x : SdPart) :
    (Dp.setSdPart d id x).bw = d.bw := rfl
@[simp] theorem setSdPart_mem (d : Dp) (id : Nat) (x : SdPart) :
    (Dp.setSdPart d id x).mem = d.mem := rfl

@[simp] theorem noteHealth_io (e : Env) (src : Nat) (broken : Bool) (d : Dp) :
    (noteHealth e src broken d).io = d.io := rfl
@[simp] theorem noteHealth_hp (e : Env) (src : Nat) (broken : Bool) (d : Dp) :
    (noteHealth e src broken d).hp = d.hp := rfl
@[simp] theorem noteHealth_vq (e : Env) (src : Nat) (broken : Bool) (d : Dp) :
    (noteHealth e src broken d).vq = d.vq := rfl
@[simp] theorem noteHealth_mb (e : Env) (src : Nat) (broken : Bool) (d : Dp) :
    (noteHealth e src broken d).mb = d.mb := rfl
@[simp] theorem noteHealth_ring (e : Env) (src : Nat) (broken : Bool) (d : Dp) :
    (noteHealth e src broken d).ring = d.ring := rfl
@[simp] theorem noteHealth_lane (e : Env) (src : Nat) (broken : Bool) (d : Dp) :
    (noteHealth e src broken d).lane = d.lane := rfl
@[simp] theorem noteHealth_map (e : Env) (src : Nat) (broken : Bool) (d : Dp) :
    (noteHealth e src broken d).map = d.map := rfl
@[simp] theorem noteHealth_med (e : Env) (src : Nat) (broken : Bool) (d : Dp) :
    (noteHealth e src broken d).med = d.med := rfl
@[simp] theorem noteHealth_kiln (e : Env) (src : Nat) (broken : Bool) (d : Dp) :
    (noteHealth e src broken d).kiln = d.kiln := rfl
@[simp] theorem noteHealth_bw (e : Env) (src : Nat) (broken : Bool) (d : Dp) :
    (noteHealth e src broken d).bw = d.bw := rfl
@[simp] theorem noteHealth_mem (e : Env) (src : Nat) (broken : Bool) (d : Dp) :
    (noteHealth e src broken d).mem = d.mem := rfl

@[simp] theorem paceResync_io (e : Env) (n : Nat) (d : Dp) :
    (paceResync e n d).io = d.io := rfl
@[simp] theorem paceResync_hp (e : Env) (n : Nat) (d : Dp) :
    (paceResync e n d).hp = d.hp := rfl
@[simp] theorem paceResync_vq (e : Env) (n : Nat) (d : Dp) :
    (paceResync e n d).vq = d.vq := rfl
@[simp] theorem paceResync_mb (e : Env) (n : Nat) (d : Dp) :
    (paceResync e n d).mb = d.mb := rfl
@[simp] theorem paceResync_ring (e : Env) (n : Nat) (d : Dp) :
    (paceResync e n d).ring = d.ring := rfl
@[simp] theorem paceResync_lane (e : Env) (n : Nat) (d : Dp) :
    (paceResync e n d).lane = d.lane := rfl
@[simp] theorem paceResync_map (e : Env) (n : Nat) (d : Dp) :
    (paceResync e n d).map = d.map := rfl
@[simp] theorem paceResync_med (e : Env) (n : Nat) (d : Dp) :
    (paceResync e n d).med = d.med := rfl
@[simp] theorem paceResync_kiln (e : Env) (n : Nat) (d : Dp) :
    (paceResync e n d).kiln = d.kiln := rfl
@[simp] theorem paceResync_bw (e : Env) (n : Nat) (d : Dp) :
    (paceResync e n d).bw = d.bw := rfl
@[simp] theorem paceResync_mem (e : Env) (n : Nat) (d : Dp) :
    (paceResync e n d).mem = d.mem := rfl

@[simp] theorem laneHeard_io (e : Env) (rank : Nat) (d : Dp) :
    (laneHeard e rank d).io = d.io := rfl
@[simp] theorem laneHeard_hp (e : Env) (rank : Nat) (d : Dp) :
    (laneHeard e rank d).hp = d.hp := rfl
@[simp] theorem laneHeard_vq (e : Env) (rank : Nat) (d : Dp) :
    (laneHeard e rank d).vq = d.vq := rfl
@[simp] theorem laneHeard_mb (e : Env) (rank : Nat) (d : Dp) :
    (laneHeard e rank d).mb = d.mb := rfl
@[simp] theorem laneHeard_sh (e : Env) (rank : Nat) (d : Dp) :
    (laneHeard e rank d).sh = d.sh := rfl
@[simp] theorem laneHeard_ring (e : Env) (rank : Nat) (d : Dp) :
    (laneHeard e rank d).ring = d.ring := rfl
@[simp] theorem laneHeard_map (e : Env) (rank : Nat) (d : Dp) :
    (laneHeard e rank d).map = d.map := rfl
@[simp] theorem laneHeard_med (e : Env) (rank : Nat) (d : Dp) :
    (laneHeard e rank d).med = d.med := rfl
@[simp] theorem laneHeard_kiln (e : Env) (rank : Nat) (d : Dp) :
    (laneHeard e rank d).kiln = d.kiln := rfl
@[simp] theorem laneHeard_bw (e : Env) (rank : Nat) (d : Dp) :
    (laneHeard e rank d).bw = d.bw := rfl
@[simp] theorem laneHeard_mem (e : Env) (rank : Nat) (d : Dp) :
    (laneHeard e rank d).mem = d.mem := rfl

@[simp] theorem loseRecord_hp (e : Env) (seqn : Nat) (d : Dp) :
    (loseRecord e seqn d).hp = d.hp := rfl
@[simp] theorem loseRecord_vq (e : Env) (seqn : Nat) (d : Dp) :
    (loseRecord e seqn d).vq = d.vq := rfl
@[simp] theorem loseRecord_mb (e : Env) (seqn : Nat) (d : Dp) :
    (loseRecord e seqn d).mb = d.mb := rfl
@[simp] theorem loseRecord_sh (e : Env) (seqn : Nat) (d : Dp) :
    (loseRecord e seqn d).sh = d.sh := rfl
@[simp] theorem loseRecord_ring (e : Env) (seqn : Nat) (d : Dp) :
    (loseRecord e seqn d).ring = d.ring := rfl
@[simp] theorem loseRecord_lane (e : Env) (seqn : Nat) (d : Dp) :
    (loseRecord e seqn d).lane = d.lane := rfl
@[simp] theorem loseRecord_map (e : Env) (seqn : Nat) (d : Dp) :
    (loseRecord e seqn d).map = d.map := rfl
@[simp] theorem loseRecord_med (e : Env) (seqn : Nat) (d : Dp) :
    (loseRecord e seqn d).med = d.med := rfl
@[simp] theorem loseRecord_kiln (e : Env) (seqn : Nat) (d : Dp) :
    (loseRecord e seqn d).kiln = d.kiln := rfl
@[simp] theorem loseRecord_bw (e : Env) (seqn : Nat) (d : Dp) :
    (loseRecord e seqn d).bw = d.bw := rfl
@[simp] theorem loseRecord_mem (e : Env) (seqn : Nat) (d : Dp) :
    (loseRecord e seqn d).mem = d.mem := rfl

@[simp] theorem logAt_hp (now code sev src : Nat) (a : BitVec 128) (d : Dp) :
    (logAt now code sev src a d).hp = d.hp := by
  simp only [logAt]
@[simp] theorem logAt_vq (now code sev src : Nat) (a : BitVec 128) (d : Dp) :
    (logAt now code sev src a d).vq = d.vq := by
  simp only [logAt]
@[simp] theorem logAt_mb (now code sev src : Nat) (a : BitVec 128) (d : Dp) :
    (logAt now code sev src a d).mb = d.mb := by
  simp only [logAt]
@[simp] theorem logAt_sh (now code sev src : Nat) (a : BitVec 128) (d : Dp) :
    (logAt now code sev src a d).sh = d.sh := by
  simp only [logAt]
@[simp] theorem logAt_ring (now code sev src : Nat) (a : BitVec 128) (d : Dp) :
    (logAt now code sev src a d).ring = d.ring := by
  simp only [logAt]
@[simp] theorem logAt_lane (now code sev src : Nat) (a : BitVec 128) (d : Dp) :
    (logAt now code sev src a d).lane = d.lane := by
  simp only [logAt]
@[simp] theorem logAt_map (now code sev src : Nat) (a : BitVec 128) (d : Dp) :
    (logAt now code sev src a d).map = d.map := by
  simp only [logAt]
@[simp] theorem logAt_med (now code sev src : Nat) (a : BitVec 128) (d : Dp) :
    (logAt now code sev src a d).med = d.med := by
  simp only [logAt]
@[simp] theorem logAt_kiln (now code sev src : Nat) (a : BitVec 128) (d : Dp) :
    (logAt now code sev src a d).kiln = d.kiln := by
  simp only [logAt]
@[simp] theorem logAt_bw (now code sev src : Nat) (a : BitVec 128) (d : Dp) :
    (logAt now code sev src a d).bw = d.bw := by
  simp only [logAt]
@[simp] theorem logAt_mem (now code sev src : Nat) (a : BitVec 128) (d : Dp) :
    (logAt now code sev src a d).mem = d.mem := by
  simp only [logAt]
@[simp] theorem logAt_out (now code sev src : Nat) (a : BitVec 128) (d : Dp) :
    (logAt now code sev src a d).io.out = d.io.out := by
  simp only [logAt]
@[simp] theorem logAt_counters (now code sev src : Nat) (a : BitVec 128) (d : Dp) :
    (logAt now code sev src a d).io.counters = d.io.counters := by
  simp only [logAt]
@[simp] theorem logAt_activeAt (now code sev src : Nat) (a : BitVec 128) (d : Dp) :
    (logAt now code sev src a d).io.activeAt = d.io.activeAt := by
  simp only [logAt]
@[simp] theorem logAt_fresh (now code sev src : Nat) (a : BitVec 128) (d : Dp) :
    (logAt now code sev src a d).io.fresh = d.io.fresh := by
  simp only [logAt]
@[simp] theorem logAt_checks (now code sev src : Nat) (a : BitVec 128) (d : Dp) :
    (logAt now code sev src a d).io.checks = d.io.checks := by
  simp only [logAt]
@[simp] theorem logAt_seqEnd (now code sev src : Nat) (a : BitVec 128) (d : Dp) :
    (logAt now code sev src a d).io.seqEnd = d.io.seqEnd := by
  simp only [logAt]
@[simp] theorem logAt_nextSeq (now code sev src : Nat) (a : BitVec 128) (d : Dp) :
    (logAt now code sev src a d).io.nextSeq = (d.io.nextSeq + 1) % 2 ^ 32 := by
  simp only [logAt]
@[simp] theorem put_io_ring (o : Output) (d : Dp) : (put o d).io.ring = d.io.ring := rfl
@[simp] theorem put_nextSeq (o : Output) (d : Dp) : (put o d).io.nextSeq = d.io.nextSeq := rfl
@[simp] theorem put_counters (o : Output) (d : Dp) : (put o d).io.counters = d.io.counters := rfl
@[simp] theorem put_alert (o : Output) (d : Dp) : (put o d).io.alert = d.io.alert := rfl
@[simp] theorem put_critAt (o : Output) (d : Dp) : (put o d).io.critAt = d.io.critAt := rfl
@[simp] theorem put_activeAt (o : Output) (d : Dp) : (put o d).io.activeAt = d.io.activeAt := rfl
@[simp] theorem put_fresh (o : Output) (d : Dp) : (put o d).io.fresh = d.io.fresh := rfl
@[simp] theorem put_checks (o : Output) (d : Dp) : (put o d).io.checks = d.io.checks := rfl
@[simp] theorem put_seqEnd (o : Output) (d : Dp) : (put o d).io.seqEnd = d.io.seqEnd := rfl
@[simp] theorem put_out (o : Output) (d : Dp) : (put o d).io.out = d.io.out ++ [o] := rfl
@[simp] theorem count_io_ring (ss i n : Nat) (d : Dp) : (count ss i n d).io.ring = d.io.ring := rfl
@[simp] theorem count_out (ss i n : Nat) (d : Dp) : (count ss i n d).io.out = d.io.out := rfl
@[simp] theorem count_nextSeq (ss i n : Nat) (d : Dp) : (count ss i n d).io.nextSeq = d.io.nextSeq := rfl
@[simp] theorem count_alert (ss i n : Nat) (d : Dp) : (count ss i n d).io.alert = d.io.alert := rfl
@[simp] theorem count_critAt (ss i n : Nat) (d : Dp) : (count ss i n d).io.critAt = d.io.critAt := rfl
@[simp] theorem count_activeAt (ss i n : Nat) (d : Dp) : (count ss i n d).io.activeAt = d.io.activeAt := rfl
@[simp] theorem count_fresh (ss i n : Nat) (d : Dp) : (count ss i n d).io.fresh = d.io.fresh := rfl
@[simp] theorem count_checks (ss i n : Nat) (d : Dp) : (count ss i n d).io.checks = d.io.checks := rfl
@[simp] theorem count_seqEnd (ss i n : Nat) (d : Dp) : (count ss i n d).io.seqEnd = d.io.seqEnd := rfl
@[simp] theorem setPort_io (d : Dp) (p : PortId) (x : HostPort) : (d.setPort p x).io = d.io := by
  cases p <;> rfl
@[simp] theorem setPort_vq (d : Dp) (p : PortId) (x : HostPort) : (d.setPort p x).vq = d.vq := by
  cases p <;> rfl
@[simp] theorem setPort_mb (d : Dp) (p : PortId) (x : HostPort) : (d.setPort p x).mb = d.mb := by
  cases p <;> rfl
@[simp] theorem setPort_sh (d : Dp) (p : PortId) (x : HostPort) : (d.setPort p x).sh = d.sh := by
  cases p <;> rfl
@[simp] theorem setPort_ring (d : Dp) (p : PortId) (x : HostPort) : (d.setPort p x).ring = d.ring := by
  cases p <;> rfl
@[simp] theorem setPort_lane (d : Dp) (p : PortId) (x : HostPort) : (d.setPort p x).lane = d.lane := by
  cases p <;> rfl
@[simp] theorem setPort_map (d : Dp) (p : PortId) (x : HostPort) : (d.setPort p x).map = d.map := by
  cases p <;> rfl
@[simp] theorem setPort_med (d : Dp) (p : PortId) (x : HostPort) : (d.setPort p x).med = d.med := by
  cases p <;> rfl
@[simp] theorem setPort_kiln (d : Dp) (p : PortId) (x : HostPort) : (d.setPort p x).kiln = d.kiln := by
  cases p <;> rfl
@[simp] theorem setPort_bw (d : Dp) (p : PortId) (x : HostPort) : (d.setPort p x).bw = d.bw := by
  cases p <;> rfl
@[simp] theorem setPort_mem (d : Dp) (p : PortId) (x : HostPort) : (d.setPort p x).mem = d.mem := by
  cases p <;> rfl

@[simp] theorem onPort_io (d : Dp) (p : PortId) (x : HostPort → HostPort) : (d.onPort p x).io = d.io := by
  cases p <;> rfl
@[simp] theorem onPort_vq (d : Dp) (p : PortId) (x : HostPort → HostPort) : (d.onPort p x).vq = d.vq := by
  cases p <;> rfl
@[simp] theorem onPort_mb (d : Dp) (p : PortId) (x : HostPort → HostPort) : (d.onPort p x).mb = d.mb := by
  cases p <;> rfl
@[simp] theorem onPort_sh (d : Dp) (p : PortId) (x : HostPort → HostPort) : (d.onPort p x).sh = d.sh := by
  cases p <;> rfl
@[simp] theorem onPort_ring (d : Dp) (p : PortId) (x : HostPort → HostPort) : (d.onPort p x).ring = d.ring := by
  cases p <;> rfl
@[simp] theorem onPort_lane (d : Dp) (p : PortId) (x : HostPort → HostPort) : (d.onPort p x).lane = d.lane := by
  cases p <;> rfl
@[simp] theorem onPort_map (d : Dp) (p : PortId) (x : HostPort → HostPort) : (d.onPort p x).map = d.map := by
  cases p <;> rfl
@[simp] theorem onPort_med (d : Dp) (p : PortId) (x : HostPort → HostPort) : (d.onPort p x).med = d.med := by
  cases p <;> rfl
@[simp] theorem onPort_kiln (d : Dp) (p : PortId) (x : HostPort → HostPort) : (d.onPort p x).kiln = d.kiln := by
  cases p <;> rfl
@[simp] theorem onPort_bw (d : Dp) (p : PortId) (x : HostPort → HostPort) : (d.onPort p x).bw = d.bw := by
  cases p <;> rfl
@[simp] theorem onPort_mem (d : Dp) (p : PortId) (x : HostPort → HostPort) : (d.onPort p x).mem = d.mem := by
  cases p <;> rfl

@[simp] theorem setLink_io (d : Dp) (p : CwPort) (x : CwLink) : (d.setLink p x).io = d.io := by
  cases p <;> rfl
@[simp] theorem setLink_hp (d : Dp) (p : CwPort) (x : CwLink) : (d.setLink p x).hp = d.hp := by
  cases p <;> rfl
@[simp] theorem setLink_vq (d : Dp) (p : CwPort) (x : CwLink) : (d.setLink p x).vq = d.vq := by
  cases p <;> rfl
@[simp] theorem setLink_mb (d : Dp) (p : CwPort) (x : CwLink) : (d.setLink p x).mb = d.mb := by
  cases p <;> rfl
@[simp] theorem setLink_sh (d : Dp) (p : CwPort) (x : CwLink) : (d.setLink p x).sh = d.sh := by
  cases p <;> rfl
@[simp] theorem setLink_lane (d : Dp) (p : CwPort) (x : CwLink) : (d.setLink p x).lane = d.lane := by
  cases p <;> rfl
@[simp] theorem setLink_map (d : Dp) (p : CwPort) (x : CwLink) : (d.setLink p x).map = d.map := by
  cases p <;> rfl
@[simp] theorem setLink_med (d : Dp) (p : CwPort) (x : CwLink) : (d.setLink p x).med = d.med := by
  cases p <;> rfl
@[simp] theorem setLink_kiln (d : Dp) (p : CwPort) (x : CwLink) : (d.setLink p x).kiln = d.kiln := by
  cases p <;> rfl
@[simp] theorem setLink_bw (d : Dp) (p : CwPort) (x : CwLink) : (d.setLink p x).bw = d.bw := by
  cases p <;> rfl
@[simp] theorem setLink_mem (d : Dp) (p : CwPort) (x : CwLink) : (d.setLink p x).mem = d.mem := by
  cases p <;> rfl

@[simp] theorem onDp_clk (s : State) (f : Env → Dp → Dp) : (s.onDp f).clk = s.clk := rfl
@[simp] theorem onDp_pwr (s : State) (f : Env → Dp → Dp) : (s.onDp f).pwr = s.pwr := rfl
@[simp] theorem onDp_boot (s : State) (f : Env → Dp → Dp) : (s.onDp f).boot = s.boot := rfl
@[simp] theorem onDp_par (s : State) (f : Env → Dp → Dp) : (s.onDp f).par = s.par := rfl
@[simp] theorem onDp_sec (s : State) (f : Env → Dp → Dp) : (s.onDp f).sec = s.sec := rfl
@[simp] theorem onDp_bed (s : State) (f : Env → Dp → Dp) : (s.onDp f).bed = s.bed := rfl
@[simp] theorem onDp_dram (s : State) (f : Env → Dp → Dp) : (s.onDp f).dram = s.dram := rfl
@[simp] theorem onDp_pads (s : State) (f : Env → Dp → Dp) : (s.onDp f).pads = s.pads := rfl
@[simp] theorem onDp_integ (s : State) (f : Env → Dp → Dp) : (s.onDp f).integ = s.integ := rfl
@[simp] theorem onDp_tide (s : State) (f : Env → Dp → Dp) : (s.onDp f).tide = s.tide := rfl
@[simp] theorem onDp_tap (s : State) (f : Env → Dp → Dp) : (s.onDp f).tap = s.tap := rfl
@[simp] theorem onDp_pending (s : State) (f : Env → Dp → Dp) : (s.onDp f).pending = s.pending := rfl
@[simp] theorem onDp_dp (s : State) (f : Env → Dp → Dp) : (s.onDp f).dp = f s.env s.dp := rfl

end Sys2Proof.Laws
end

