-- ==== Sys2Proof/Laws/Ops.lean ====
section
/-! SUPPORT. What the shared operations can do, each said once: keyed tables, ports, mailboxes, queues, byte windows, and the
conditions under which a mailbox or sideband command runs. -/

namespace Sys2Proof.Laws

open Sys2Proof.Machine

/-! ## Keyed tables -/

/-- A key reads the value put at it; every other key reads as before. -/
theorem get_put {α : Type} (d : α) (t : Tab α) (n : Nat) (x : α) (k : Nat) :
    Tab.get d (t.put n x) k = if k = n then x else Tab.get d t k := by
  induction t with
  | nil => simp [Tab.put, Tab.get, eq_comm]
  | cons h t ih =>
    obtain ⟨i, v⟩ := h
    simp only [Tab.put]
    by_cases hk : k = n
    · subst hk
      split
      · simp [Tab.get]
      · split
        · next h => subst h; simp [Tab.get]
        · next h => simp [Tab.get, ih, Ne.symm h]
    · split
      · simp [Tab.get, Ne.symm hk]
      · split
        · next h => subst h; simp [Tab.get, Ne.symm hk]
        · simp [Tab.get, ih, hk]

@[simp] theorem get_put_self {α : Type} (d : α) (t : Tab α) (n : Nat) (x : α) : Tab.get d (t.put n x) n = x := by
  simp [get_put]

theorem find_put {α : Type} (t : Tab α) (n : Nat) (x : α) (k : Nat) :
    Tab.find (t.put n x) k = if k = n then some x else Tab.find t k := by
  induction t with
  | nil => simp [Tab.put, Tab.find, eq_comm]
  | cons h t ih =>
    obtain ⟨i, v⟩ := h
    simp only [Tab.put]
    by_cases hk : k = n
    · subst hk
      split
      · simp [Tab.find]
      · split
        · next h => subst h; simp [Tab.find]
        · next h => simp [Tab.find, ih, Ne.symm h]
    · split
      · simp [Tab.find, Ne.symm hk]
      · split
        · next h => subst h; simp [Tab.find, Ne.symm hk]
        · simp [Tab.find, ih, hk]

/-- A change of every record that keeps the keys changes what each key reads. -/
theorem get_map {α : Type} (f : Nat → α → α) (d : α) (t : Tab α) (n : Nat) (h : f n d = d) :
    Tab.get d (t.map (fun x => (x.1, f x.1 x.2))) n = f n (Tab.get d t n) := by
  induction t with
  | nil => simp [Tab.get, h]
  | cons x t ih =>
    obtain ⟨i, v⟩ := x
    simp only [List.map_cons, Tab.get, ih]
    split <;> simp_all

/-! ## Ports, mailboxes, queues -/

@[simp] theorem port_setPort (d : Dp) (p : PortId) (h : HostPort) : (d.setPort p h).port p = h := by
  cases p <;> rfl

theorem port_setPort_ne (d : Dp) {p q : PortId} (h : HostPort) (hq : q ≠ p) : (d.setPort p h).port q = d.port q := by
  cases p <;> cases q <;> first | rfl | exact absurd rfl hq

@[simp] theorem port_onPort (d : Dp) (p : PortId) (f : HostPort → HostPort) : (d.onPort p f).port p = f (d.port p) := by
  cases p <;> rfl

theorem port_onPort_ne (d : Dp) {p q : PortId} (f : HostPort → HostPort) (hq : q ≠ p) :
    (d.onPort p f).port q = d.port q := port_setPort_ne d _ hq

@[simp] theorem setPort_perst (d : Dp) (p : PortId) (h : HostPort) : (d.setPort p h).hp.perst = d.hp.perst := by
  cases p <;> rfl

/-- Finding the first record of a kind after a change that keeps the kinds. -/
theorem find_updateWhere {α : Type} (q p : α → Bool) (f : α → α) (l : List α) (h : ∀ x, q (f x) = q x) :
    (updateWhere p f l).find? q = (l.find? q).map (fun x => if p x then f x else x) := by
  induction l with
  | nil => rfl
  | cons x t ih =>
    simp only [updateWhere, List.map_cons, List.find?_cons]
    have hx : q (if p x then f x else x) = q x := by split <;> simp [h]
    rw [hx]
    split
    · simp
    · exact ih

/-- A change of one mailbox leaves every other's record as it was. -/
theorem mail_onMail_ne (d : Dp) {m k : Mbx} (f : Mail → Mail) (hf : ∀ x, (f x).box = x.box) (hk : k ≠ m) :
    (d.onMail m f).mail k = d.mail k := by
  simp only [Dp.onMail, Dp.mail]
  rw [find_updateWhere _ _ _ _ (by intro x; rw [hf])]
  cases h : d.mb.boxes.find? (fun b => b.box = k) with
  | none => rfl
  | some x =>
    have : x.box = k := by simpa using List.find?_some h
    simp [this, hk]

/-- A mailbox that exists reads its changed record. -/
theorem mail_onMail (d : Dp) (m : Mbx) (f : Mail → Mail) (hf : ∀ x, (f x).box = x.box) (h : ∃ x ∈ d.mb.boxes, x.box = m) :
    (d.onMail m f).mail m = f (d.mail m) := by
  simp only [Dp.onMail, Dp.mail]
  rw [find_updateWhere _ _ _ _ (by intro x; rw [hf])]
  cases e : d.mb.boxes.find? (fun b => b.box = m) with
  | none =>
    obtain ⟨x, hx, hb⟩ := h
    exact absurd hb (by simpa using List.find?_eq_none.mp e x hx)
  | some x =>
    have : x.box = m := by simpa using List.find?_some e
    simp [this]

/-! ## Records by key -/

theorem peer_setPeer (d : Dp) (r k : Nat) (p : Peer) : (d.setPeer r p).peer k = if k = r then p else d.peer k :=
  get_put _ _ _ _ _

theorem pair_setPair (d : Dp) (r c : Nat) (p : Pair) : (d.setPair r c p).pair r c = p := get_put_self _ _ _ _

theorem chan_setChan (d : Dp) (c k : Nat) (x : Chan) : (d.setChan c x).chan k = if k = c then x else d.chan k :=
  get_put _ _ _ _ _

theorem die_setDie (d : Dp) (c n : Nat) (x : Die) : (d.setDie c n x).die c n = x := get_put_self _ _ _ _

theorem bucket_setBucket (d : Dp) (pool k : Nat) (b : Bucket) :
    (d.setBucket pool b).bucket k = if k = pool then b else d.bucket k := get_put _ _ _ _ _

@[simp] theorem link_setLink (d : Dp) (p : CwPort) (l : CwLink) : (d.setLink p l).link p = l := by
  cases p <;> rfl

theorem link_setLink_ne (d : Dp) {p q : CwPort} (l : CwLink) (h : q ≠ p) : (d.setLink p l).link q = d.link q := by
  cases p <;> cases q <;> first | rfl | exact absurd rfl h

theorem pad_onPad (n k : Nat) (f : Pad → Pad) (s : State) : (s.onPad n f).pad k = if k = n then f (s.pad n) else s.pad k := by
  unfold State.onPad State.pad
  rw [get_put]

theorem loop_onLoop (n k : Nat) (f : Loop → Loop) (s : State) :
    (s.onLoop n f).tide.loop k = if k = n then f (s.tide.loop n) else s.tide.loop k := by
  unfold State.onLoop Tide.loop
  rw [get_put]

/-- The record of a queue after it is replaced or added. -/
theorem queue_setQueue (d : Dp) (q : Queue) : (d.setQueue q).queue q.port q.queue = some q := by
  unfold Dp.setQueue Dp.queue
  dsimp only
  split
  · next h =>
    obtain ⟨x, hx, hq⟩ := List.any_eq_true.mp h
    generalize d.vq.queues = l at hx
    induction l with
    | nil => cases hx
    | cons y t ih =>
      simp only [updateWhere, List.map_cons, List.find?_cons] at *
      by_cases hy : (y.port = q.port && y.queue = q.queue) = true
      · simp [hy]
      · rcases List.mem_cons.mp hx with rfl | hx
        · exact absurd hq hy
        · simp only [hy, Bool.false_eq_true, if_false]; exact ih hx
  · next h =>
    rw [List.find?_append, List.find?_eq_none.mpr]
    · simp
    · intro x hx hq
      exact h (List.any_eq_true.mpr ⟨x, hx, hq⟩)

/-! ## Byte windows -/

theorem wf_cons (k : Nat) (v : Byte) (t : List Host.Cell) :
    Memory.wf ((k, v) :: t) ↔ (∀ c ∈ t, k < c.1) ∧ v ≠ 0 ∧ Memory.wf t := by
  simp only [Memory.wf, List.pairwise_cons, List.forall_mem_cons]
  tauto

/-- Every key of a window after a write is an old key or the address written. -/
theorem write_keys (m : List Host.Cell) (a : Nat) (b : Byte) : ∀ c ∈ Memory.write m a b, c.1 = a ∨ c ∈ m := by
  induction m with
  | nil => intro c hc; simp only [Memory.write] at hc; split at hc <;> simp_all
  | cons x t ih =>
    obtain ⟨k, v⟩ := x
    intro c hc
    simp only [Memory.write] at hc
    split at hc
    · split at hc <;> simp_all
      rcases hc with rfl | h
      · exact .inl rfl
      · exact .inr h
    · split at hc
      · split at hc
        · exact .inr (List.mem_cons_of_mem _ hc)
        · rcases List.mem_cons.mp hc with rfl | h
          · exact .inl rfl
          · exact .inr (List.mem_cons_of_mem _ h)
      · rcases List.mem_cons.mp hc with rfl | h
        · exact .inr (List.mem_cons_self ..)
        · rcases ih c h with h | h
          · exact .inl h
          · exact .inr (List.mem_cons_of_mem _ h)

/-- A write of one byte keeps the canonical form. -/
theorem write_wf (m : List Host.Cell) (a : Nat) (b : Byte) (h : Memory.wf m) : Memory.wf (Memory.write m a b) := by
  induction m with
  | nil =>
    simp only [Memory.write]
    split
    · exact h
    · exact (wf_cons a b []).mpr ⟨by simp, by assumption, h⟩
  | cons x t ih =>
    obtain ⟨k, v⟩ := x
    have ⟨hk, hv, ht⟩ := (wf_cons k v t).mp h
    simp only [Memory.write]
    split
    · split
      · exact h
      · next hlt hb =>
        refine (wf_cons _ _ _).mpr ⟨?_, hb, h⟩
        intro c hc
        rcases List.mem_cons.mp hc with rfl | hc
        · exact hlt
        · exact hlt.trans (hk c hc)
    · split
      · next ha =>
        split
        · exact ht
        · next hb => exact (wf_cons _ _ _).mpr ⟨fun c hc => ha ▸ hk c hc, hb, ht⟩
      · next hlt hne =>
        refine (wf_cons _ _ _).mpr ⟨?_, hv, ih ht⟩
        intro c hc
        rcases write_keys t a b c hc with h | h
        · omega
        · exact hk c h

/-- A write of bytes keeps the canonical form. -/
theorem writeBytes_wf (l : List Byte) (m : List Host.Cell) (a : Nat) (h : Memory.wf m) :
    Memory.wf (Memory.writeBytes m a l) := by
  induction l generalizing m a with
  | nil => exact h
  | cons b t ih => exact ih _ _ (write_wf m a b h)

/-! ## When a mailbox command runs -/

/-- A mailbox row acts on the request that its mailbox runs, once; where there is none it leaves the state as it is. -/
theorem onRequest_eq (m : Mbx) (op : Nat) (f : MbReq → State → State) (s : State) :
    (∃ r, s.dp.request m = some r ∧ r.opcode = op ∧ r.waiting = false ∧ onRequest m op f s = .next (f r s)) ∨
    onRequest m op f s = .next s := by
  unfold onRequest
  split
  · next r hr =>
    split
    · next hc =>
      simp only [Bool.and_eq_true, decide_eq_true_eq, Bool.not_eq_true'] at hc
      exact .inl ⟨r, hr, hc.1, hc.2, rfl⟩
    · exact .inr rfl
  · exact .inr rfl

/-- The request that a row's mailbox runs is the one it acts on. -/
theorem onRequest_asked (m : Mbx) (op : Nat) (f : MbReq → State → State) (s : State) (r : MbReq)
    (h : s.dp.request m = some r) (ho : r.opcode = op) (hw : r.waiting = false) :
    onRequest m op f s = .next (f r s) := by
  simp [onRequest, h, ho, hw]

end Sys2Proof.Laws
end

