-- ==== Sys2Proof/WellFormed.lean ====
section
/-! DEFINITION. Which terms of Instr spell a command that can occur: block and list lengths, and numbers within the
ranges that the spec's fields have. -/

namespace Sys2Proof

/-- A block holds 4,096 bytes. -/
def Blk.ok (b : Blk) : Bool := b.data.length = 4096

/-- Engines of each kind (chapters 1 and 13). -/
def Engine.units : Engine → Nat
  | .decoder => 24
  | .glazeLane => 20
  | .sherd => 8

/-- Fields of a frame header within their widths (Table 8-3). -/
def Frame.ok (f : Frame) : Bool :=
  f.cls < 5 && f.pool < 2 ^ 16 && f.pairSeq < 2 ^ 32 && f.pairAck < 2 ^ 32 && f.session < 256 && f.hops < 16 &&
  f.seqn < 2 ^ 64 && f.posFirst < 1024 && f.posLast < 1024 && f.unit < 16

/-- The decoder works on the 37,376 bits of a codeword (R150, R157). -/
def CwResult.ok : CwResult → Bool
  | .failed _ => true
  | .decoded flips _ => flips.all (· < 37376)

/-- One sweep for each of a channel's 80 DQ bits and direction (R466, R470), at a rate of Table 14-1 or below. -/
def DramSweep.ok (x : DramSweep) : Bool := x.rate ≤ 8800 && x.read.length = 80 && x.write.length = 80

/-- The eight DQ bits of a flash channel (R77, R86). -/
def TrainStep.ok (x : TrainStep) : Bool := x.rate ≤ 4800 && x.read.length = 8 && x.write.length = 8

/-- A term spells a command that can occur. -/
def Instr.wellFormed (i : Instr) : Bool :=
  match i with
  | .read _ queue _ _ _ _ => queue < 2048
  | .write _ queue _ _ _ _ => queue < 2048
  | .writeAtomic _ queue _ _ _ _ => queue < 2048
  | .discard _ queue _ _ _ _ => queue < 2048
  | .secureDiscard _ queue _ _ _ _ => queue < 2048
  | .verify _ queue _ _ _ _ => queue < 2048
  | .codec _ queue _ _ _ _ _ _ _ => queue < 2048
  | .glaze _ queue _ _ _ _ _ _ => queue < 2048
  | .submit _ queue _ _ => queue < 2048
  | .abort _ queue _ => queue < 2048
  | .cqHead _ queue _ => queue < 2048
  | .resumeFetch _ queue => queue < 2048
  | .resumeFlush _ queue => queue < 2048
  | .queueEngineEnable _ => true
  | .queueEngineDisable _ => true
  | .devVecEnWrite _ _ => true
  | .evtCauseClear _ _ => true
  | .evtMaskWrite _ _ => true
  | .vqTsyncQueue _ queue _ => queue < 2048
  | .vqTsyncAll _ entries => entries.length ≤ 2048
  | .timeNowLowRead _ => true
  | .registerWrite _ offset bytes => offset < 65536 && 1 ≤ bytes.length && bytes.length ≤ 64
  | .mailboxGo _ _ _ => true
  | .mailboxDoneClear _ _ _ => true
  | .identify _ => true
  | .deviceStatus _ => true
  | .sessionReset _ => true
  | .timePin _ => true
  | .timeQuery _ => true
  | .poolCreate _ => true
  | .poolDelete _ => true
  | .poolResize _ => true
  | .poolQuery _ => true
  | .poolList _ => true
  | .reshapeStart _ => true
  | .reshapeStatus _ => true
  | .secureDiscardStatus _ => true
  | .writeFloorSet _ => true
  | .leaseAcquire _ => true
  | .leaseRelease _ => true
  | .leaseQuery _ => true
  | .queueQuery _ => true
  | .queueStats _ => true
  | .paramPageGet _ => true
  | .paramSet _ => true
  | .paramDefault _ => true
  | .strandlineRead _ => true
  | .errorLogRead _ => true
  | .errorLogClear _ => true
  | .countersRead _ => true
  | .fwStageBegin _ => true
  | .fwStageData _ => true
  | .fwCommit _ _ => true
  | .fwActivate _ => true
  | .fwStatus _ => true
  | .attestQuote _ => true
  | .attestCert _ => true
  | .keySlotLoad _ => true
  | .keySlotClear _ => true
  | .sanitizeCrypto _ => true
  | .shoalQuery _ => true
  | .seawallQuery _ => true
  | .memberAdd _ => true
  | .memberRetire _ => true
  | .memberSpareSet _ => true
  | .memberReplace _ => true
  | .stewardMove _ => true
  | .stewardPrefer _ => true
  | .stewardDrill _ => true
  | .epochRebase _ => true
  | .powerQuery _ => true
  | .ebbEnter _ => true
  | .holdupQuery _ => true
  | .sagTest _ => true
  | .diagAuthAcquire _ => true
  | .diagAuthRelease _ => true
  | .selftestResult _ => true
  | .mediaReturn _ _ steps => steps.all TrainStep.ok
  | .injectCheckbits _ => true
  | .injectStatus _ => true
  | .diagRead _ _ => true
  | .diagWrite _ => true
  | .diagErase _ => true
  | .linkTestStart _ => true
  | .linkTestStop _ => true
  | .loopQuery _ => true
  | .loopOpen _ => true
  | .loopCoeff _ => true
  | .loopClose _ => true
  | .traceArm _ => true
  | .traceRead _ => true
  | .bootStatusRead => true
  | .bootStatusWakeWrite _ => true
  | .mctpVendorMessage _ _ => true
  | .setEndpointId _ => true
  | .getEndpointId => true
  | .getEndpointUuid => true
  | .getMctpVersionSupport _ => true
  | .getMessageTypeSupport => true
  | .getVendorDefinedMessageSupport _ => true
  | .getVersion _ => true
  | .getCapabilities _ _ => true
  | .negotiateAlgorithms _ _ _ _ => true
  | .getDigests _ _ => true
  | .getCertificate _ _ _ _ _ => true
  | .challenge _ _ _ _ => true
  | .getMeasurements _ _ _ _ _ => true
  | .doeRequest _ _ _ => true
  | .configRequest _ _ => true
  | .perstNAssert => true
  | .perstNRelease => true
  | .hostLinkTrained _ _ _ => true
  | .hotReset _ => true
  | .flr _ => true
  | .hostLinkDown _ => true
  | .hostLinkL1Entry _ => true
  | .hostLinkL1Exit _ => true
  | .busMasterEnableClear _ => true
  | .busMasterEnableSet _ => true
  | .d3hotEntry _ => true
  | .d0Return _ => true
  | .hostReadCompletion _ _ data => data.length ≤ 4096
  | .hostCompletionError _ _ _ => true
  | .hostCompletionTimeout _ _ => true
  | .translationCompletion _ _ _ _ _ _ => true
  | .pageRequestSuccess _ _ => true
  | .pageRequestInvalid _ _ => true
  | .pageRequestResponseFailure _ _ => true
  | .pageRequestTimeout _ _ => true
  | .priCapabilityReset _ => true
  | .invalidationRequest _ _ _ _ => true
  | .pasidEnableClear _ => true
  | .coalesceTimer _ queue => queue < 2048
  | .writeAdmission pool => pool < 257
  | .pendingTableRoom => true
  | .hello _ _ _ _ _ _ => true
  | .topology _ _ _ links => links.length = 4
  | .transitFrame f => f.ok
  | .heartbeat f _ _ _ _ => f.ok
  | .claim f => f.ok
  | .fenced f => f.ok
  | .relinquish f => f.ok
  | .handover f => f.ok
  | .ringExit f => f.ok
  | .linkCtlNak _ _ => true
  | .linkCtlAck _ _ => true
  | .linkCtlWidth _ lanes => lanes ≤ 8
  | .ticketRequest f dataMask _ _ _ _ => f.ok && dataMask < 16384
  | .ticketGrant f => f.ok
  | .commitNotice f _ => f.ok
  | .dropNotice f => f.ok
  | .mirrorGroup f records => f.ok && records.all (fun r => r.present < 65536)
  | .mirrorAck f => f.ok
  | .resolve f => f.ok
  | .resolveReply f items _ => f.ok && items.all (fun i => i.units < 65536)
  | .sherdDone f => f.ok
  | .joinRequest f _ _ _ => f.ok
  | .joinAdmit f _ _ _ _ => f.ok
  | .readRequest f _ => f.ok
  | .readData f blk => f.ok && blk.ok
  | .readFail f => f.ok
  | .sherdData f blk => f.ok && blk.ok
  | .sherdRefused f => f.ok
  | .e2eAck f => f.ok
  | .e2eNak f => f.ok
  | .linkTest _ _ _ _ => true
  | .claimAcknowledgement f => f.ok
  | .memberStateRecord f _ => f.ok
  | .admissionDemand f _ => f.ok
  | .admissionRequest f _ => f.ok
  | .admissionGrant f _ => f.ok
  | .admissionRate f _ => f.ok
  | .forwardedOrder f _ => f.ok
  | .anchorRequest f => f.ok
  | .secureDiscardMemberDone f _ _ => f.ok
  | .rebaseControl f _ => f.ok
  | .claimLaneFrame _ => true
  | .laneCheckFrame _ => true
  | .claimLaneSend _ => true
  | .laneCheckTurn => true
  | .laneLowTimeout => true
  | .laneCheckTimeout => true
  | .heartbeatTimer => true
  | .rankSilence _ => true
  | .stewardPoolOmitted pool => pool < 257
  | .contest pool => pool < 257
  | .standbySilence pool => pool < 257
  | .standbyAppoint pool => pool < 257
  | .settleWindowEnd => true
  | .preferredStewardReturn pool => pool < 257
  | .handoverResolveTimeout pool => pool < 257
  | .handoverClaimTimeout pool => pool < 257
  | .ebbHandoverTimeout => true
  | .resolveReplyTimeout pool _ => pool < 257
  | .stripeTimeout pool _ => pool < 257
  | .noStewardTimeout pool => pool < 257
  | .registryStewardTimeout _ _ => true
  | .readRequestTimeout _ pool _ => pool < 257
  | .drillReplyTimeout _ => true
  | .rowGatherExpiry pool _ => pool < 257
  | .journalGroupClose pool => pool < 257
  | .journalStrandProgrammed pool => pool < 257
  | .linkAckTimer _ => true
  | .e2eGapTimeout _ cls => cls < 5
  | .e2eAckTimer _ cls => cls < 5
  | .e2eReplayTimeout _ cls => cls < 5
  | .causewaySignalLoss _ => true
  | .fecUncorrectableBurst _ => true
  | .linkAckStall _ => true
  | .laneFailure _ _ => true
  | .portTrained _ _ => true
  | .portRetrainTimer _ => true
  | .linkFlapHoldEnd _ => true
  | .transitLoadWake => true
  | .kilnResetWave answers => answers.all (fun a => a.chan < 64 && a.die < 16)
  | .flashChannelTrained chan steps => chan < 64 && steps.all TrainStep.ok
  | .zqShortCalTimer chan die => chan < 64 && die < 16
  | .tjDriftRetrain chan steps => chan < 64 && steps.all TrainStep.ok
  | .flashProgramComplete chan die => chan < 64 && die < 16
  | .dieProgramFail chan die => chan < 64 && die < 16
  | .flashEraseComplete chan die => chan < 64 && die < 16
  | .dieEraseFail chan die => chan < 64 && die < 16
  | .flashReadComplete chan die results => chan < 64 && die < 16 && 1 ≤ results.length && results.length ≤ 24 && results.all CwResult.ok
  | .dieReadyTimeout chan die _ => chan < 64 && die < 16
  | .suspendWindowEnd chan die => chan < 64 && die < 16
  | .operationWaitLimit chan die => chan < 64 && die < 16
  | .classAgingLimit chan die => chan < 64 && die < 16
  | .dieStripeCloseTimer _ => true
  | .foldIdleTimer => true
  | .fold => true
  | .garbageCollect => true
  | .staticMove => true
  | .refreshRelocation _ => true
  | .dieRebuild chan die => chan < 64 && die.all (· < 16)
  | .lastTideAreaRotate => true
  | .anchorCadence => true
  | .anchorAfterRaise => true
  | .mapFaultIn pool seg => pool < 257 && seg < 2 ^ 40
  | .mapBackgroundLoad => true
  | .secureDiscardJob _ => true
  | .reshapeWindow pool => pool < 257
  | .resyncRow pool _ _ => pool < 257
  | .beachcomberCheck pool _ _ _ => pool < 257
  | .dramCorrectedRead _ rank component burst _ => rank < 2 && component < 20 && burst < 2 ^ 36
  | .dramUncorrectableRead _ _ => true
  | .dramPatrol _ rank component _ => rank < 2 && component.all (· < 20)
  | .scratchpadCorrectedRead _ _ _ => true
  | .scratchpadUncorrectableRead _ _ => true
  | .encoderCheckFail _ => true
  | .engineFault e n => n < e.units
  | .engineKnownAnswerTest _ _ => true
  | .bedrockReadResult _ _ _ => true
  | .entropyWindow _ => true
  | .drbgReseedTimer => true
  | .laneRekey _ _ => true
  | .vetoHoldRequest _ _ => true
  | .vetoTimeout _ => true
  | .injectionArmTimeout _ => true
  | .linkTestTimeout _ => true
  | .diagAuthIdleTimeout => true
  | .leaseTermExpiry handle => handle < 256
  | .fwActivateLapse => true
  | .mgmtPortAbsence => true
  | .trialClear => true
  | .trialRestart => true
  | .dramRefreshDue _ rank bank burst => rank < 2 && bank < 4 && burst.all (· < 8)
  | .dramOscillatorRead _ _ retrain => retrain.ok
  | .dramTemperatureRead _ rank _ => rank < 2
  | .dramPageIdleClose _ rank bank => rank < 2 && bank < 32
  | .dramChannelTrained _ _ sweeps => sweeps.all DramSweep.ok
  | .bankHandover bank _ _ => 20 ≤ bank.val && bank.val < 28 && bank.val != 24 && bank.val != 25
  | .bankHandoverTimeout _ => true
  | .bankAccessFault _ _ => true
  | .bankRetentionWake _ => true
  | .bankRetentionReturn _ => true
  | .loopSample _ _ => true
  | .softLimitTimer pool => pool < 257
  | .powerOnReset _ _ vinMv => vinMv < 65536
  | .hotSwapInsertion vsupMv _ => vsupMv < 65536
  | .insertionTimeout => true
  | .insertionRetry => true
  | .circuitBreaker => true
  | .fastTrip => true
  | .reverseCurrent => true
  | .vinBelowVPlp vinMv => vinMv < 65536
  | .hsVsupBelowVPlp vsupMv => vsupMv < 65536
  | .plpNLow => true
  | .plpNHigh _ => true
  | .thermalTrip => true
  | .coreRstNLow => true
  | .coreRstNHigh _ => true
  | .vinRecovery vinMv _ => vinMv < 65536
  | .watchdogExpiry => true
  | .lastTideComplete _ => true
  | .vinCollapse _ => true
  | .sagTestPeriod vinMv => vinMv < 65536
  | .sagTestEnd _ _ _ => true
  | .slackEntry => true
  | .neapEntry => true
  | .powerStateExit _ => true
  | .ebbExit _ _ _ => true
  | .x32CrystalStop => true
  | .firmwareRunning => true
  | .ready => true
  | .railTimeout _ => true
  | .suspendMinimumRun chan die => chan < 64 && die < 16
  | .bedrockProgramComplete _ _ _ => true
  | .bedrockEraseComplete _ _ => true
  | .bedrockEraseSuspend _ => true
  | .bedrockEraseResume _ => true
  | .lossOfVin => true
  | .claimLaneReleased => true
  | .admissionRound => true
  | .supplyRailInRange _ => true
  | .tapAccess _ => true
  | .msixVectorUnmask _ vector => vector < 2049

end Sys2Proof
end

