-- ==== Sys2Proof/Tests/Slice0.lean ====
section
/-! SUPPORT. Tests of this package's own: an ill-formed term for each check of WellFormed.lean, values the spec prints,
and for every statement of Obligations.lean that has hypotheses a state and operands that meet them together. -/

namespace Sys2Proof.Tests

open Sys2Proof Sys2Proof.Machine

-- Kernel evaluations one after another: side by side they hold a stack each.
set_option Elab.async false

/-! ## States the witnesses stand on -/

/-- Port A served: link up, DMA and MSI-X allowed, the queue engine enabled with 4 queues. -/
def portUp : HostPort :=
  { HostPort.reset true with linkUp := true, rate := 640, width := 16, bme := true, msixEnable := true, enable := true,
                             enabled := true, tbase := 4096, tcount := 4 }

/-- A flash channel in service. -/
def chan0 : Chan := { freshChan with mode := .nvLpddr4, trained := true, opened := true, rate := 4800, trainTj := 250 }

/-- The device in service: firmware runs, power is good, rank 0 has joined its own shoal, one die answers. -/
def live : State :=
  { State.reset with
    clk := { State.reset.clk with time := 1000000000000000 }
    pwr := { Pwr.reset with state := .flood, vddqdOk := true, vccqfOk := true, cap := some (400000, 0) }
    boot := { Boot.reset with code := 7, stage := 7, fw := true, ready := true, settled := true, spdm := true }
    dp :=
      { Dp.reset with
        hp := { a := portUp, b := HostPort.reset false, perst := false }
        kiln := { Kiln.reset with wave := 17, started := true, floating := false,
                                  chans := [(0, chan0)] }
        sh := { Shoal.reset with admitted := [0] } } }

/-- The device in service with its data path changed. -/
def liveDp (f : Dp → Dp) : State := { live with dp := f live.dp }

/-- Queue 0 of port A, tag 0. -/
def key0 : CmdKey := ⟨.a, 0, 0⟩

/-- A recorded doorbell of that tag. -/
def cmd0 : Cmd := freshCmd key0 0

/-- Queue 0 of port A running, with a completion ring of 32 entries. -/
def queue0 : Queue := { freshQueue .a 0 with entry := BitVec.ofNat 512 (5 * 2 ^ 156), st := .running, enabled := true }

/-- The device in service with that queue cached and these commands. -/
def withCmds (q : Queue) (l : List Cmd) : State :=
  liveDp (fun d => { d with vq := { d.vq with cache := [(.a, 0)], queues := [q], cmds := l, order := l.length } })

/-- A mailbox request with this payload. -/
def req (op : Nat) (l : List Byte) : MbReq :=
  { opcode := op, token := 7, length := l.length, clean := true, payload := l, waiting := false }

/-- MB0 of port A. -/
def box0 : Mbx := .host .a 0

/-- A state in which MB0 of port A runs a request. -/
def asking (op : Nat) (l : List Byte) (s : State) : State :=
  { s with dp := { s.dp with mb := { s.dp.mb with boxes := s.dp.mb.boxes.map (fun m =>
      if m.box = box0 then { m with busy := true, session := 9, request := some (req op l) } else m) } } }


/-- Pool 1: a mirror of this device alone beside the registry pool. -/
def lone : PoolRec := { (Registry.reset.pools.head (by decide)) with handle := 1, stripes := [⟨.leaf, 0, [0], 4096⟩], cap := 4096 }

/-- The device in service with a registry changed, as it is and as the orders before left it. -/
def withReg (f : Registry → Registry) : State :=
  liveDp (fun d => { d with sh := { d.sh with reg := f d.sh.reg, regNext := f d.sh.reg } })

/-- A queue that may fetch, a recorded command, the pool it names and tokens for it. -/
def poolCmds : State :=
  let s := withReg (fun g => { g with pools := g.pools ++ [lone] })
  { s with dp := { s.dp with
      vq := (withCmds queue0 [cmd0]).dp.vq
      bw := { s.dp.bw with buckets := [(1, { freshBucket with tokens := 2 ^ 21 })] } } }

/-- One block at LBA 0 of pool 1. -/
def poolDesc (op : Nat) : BitVec 512 :=
  BitVec.ofNat 512 (op + 2 ^ 16 + 2 ^ 32 + if op ≤ 3 then 4096 * 2 ^ 160 + 0x1000 * 2 ^ 192 else 0)

/-- The command once that header is read. -/
def cmdRead (desc : BitVec 512) : Cmd :=
  { cmd0 with stage := .header, desc := desc, segs := [], metaSegs := [], opcode := dOpcode desc, pool := dPool desc,
              lba := dLba desc, len := dLength desc }

/-- The device in service with every Causeway port up. -/
def linkUp (peer : Nat) : CwLink :=
  { CwLink.reset with up := true, lanes := 8, wide := 8, inUse := 0xFF, partner := some peer, n := 4 }

def ringUp : State :=
  liveDp (fun d => { d with ring := { d.ring with ne := linkUp 1, nw := linkUp 3, fe := linkUp 2, fw := linkUp 2 } })

/-- A part in a pool, under epoch 1 of this device. -/
def pRole (pool : Nat) (r : Role) : PRole :=
  { pool := pool, role := r, claim := 0x100, standby := none, appoint := none, nextSeq := 5, group := [], groupAt := 0,
    sent := [], tail := [], journal := [], stopped := false, handover := none, resolving := none, contest := none,
    held := [], healthy := none, restored := false }

/-- The device on a ring of four, with room for greenware, changed by `f`. -/
def ringDp (f : Dp → Dp) : State :=
  { ringUp with dp := f { ringUp.dp with bw := { ringUp.dp.bw with gLim := 8388608 } } }

/-- A shoal of four: every rank is a member, heard just now, and pool 0 has leaves on ranks 0, 1 and 2. -/
def ring4 : State :=
  ringDp (fun d =>
    let g := { d.sh.reg with
      n := 4
      members := [0, 1, 2, 3].map (fun r => ⟨r, BitVec.ofNat 64 r, 256 * gib, 32 * tib, false, false, false⟩)
      pools := d.sh.reg.pools.map (fun p => { p with stripes := [⟨.mirror, 0, [0, 1, 2], 262144⟩], prefSteward := 1 }) }
    { d with
      sh := { d.sh with reg := g, regNext := g }
      ring := { d.ring with
        peers := [1, 2, 3].map (fun r => (r, { freshPeer with heard := true, lastHb := live.clk.time, flags := 2 })) } })

def ring4Dp (f : Dp → Dp) : State := { ring4 with dp := f ring4.dp }

/-- A PQ pool of handle 1, 2 + 2 over ranks 0 to 3, and this device its steward; with a reshape to a mirror. -/
def pool1 (r : Option Reshape) : PoolRec :=
  { (Registry.reset.pools.head (by decide)) with
    handle := 1, cap := 4096, nodes := [], stripes := [⟨.pq, 2, [0, 1, 2, 3], 4096⟩], reshape := r }

def mirrored : Reshape :=
  { nodes := [], stripes := [⟨.mirror, 0, [0, 1], 4096⟩], sherd := 0, floor := 0, cap := 4096, rows := 256,
    tidemark := 0, paused := false }

def withPools (r : Option Reshape) (x : PRole) (f : Dp → Dp) : State :=
  ring4Dp (fun d => f { d with sh := { d.sh with
    reg := { d.sh.reg with pools := d.sh.reg.pools ++ [pool1 r] }, roles := [x], admitted := [0, 1] } })

/-- Rank 0 is the steward of the registry pool and of pool 1 of four members, rank 3 a spare without a leaf in it where `free`; MB0
holds every lease. -/
def boss (free : Bool) : State :=
  ring4Dp (fun d =>
    let p : PoolRec := if free then { pool1 none with stripes := [⟨.mirror, 0, [0, 1], 4096⟩] } else pool1 none
    let g := { d.sh.reg with
      pools := d.sh.reg.pools ++ [p]
      members := if free then updateWhere (fun (m : MemberRec) => m.rank = 3) (fun m => { m with spare := true }) d.sh.reg.members
        else d.sh.reg.members
      leases := [0, 1].map (fun h => ⟨h, 0, 2 * live.clk.time, live.clk.time⟩) }
    { d with sh := { d.sh with
      reg := g, regNext := g, roles := [pRole 0 .steward, { pRole 1 .steward with standby := some 1 }], admitted := [0, 1]
      sea := [(0, { freshSea with claim := 0x100 }), (1, { freshSea with claim := 0x100 })] } })
/-! ## Ill-formed terms, one for each check of WellFormed.lean -/

/-- A frame that every field fits. -/
def frame0 : Frame :=
  { cls := 4, src := 15, dst := 0, pool := 0xFFFF, claim := 0, pairSeq := 2 ^ 32 - 1, pairAck := 2 ^ 32 - 1, session := 255,
    replayed := false, ackNow := false, hops := 15, seqn := 2 ^ 64 - 1, row := 0, posFirst := 1023, posLast := 1023,
    unit := 15, arg := 0, port := .ne, crcOk := true }

def blk4k : Blk := ⟨List.replicate 4096 0, 0⟩

theorem test_wellFormed_accepts :
    (Instr.abort .a 2047 0).wellFormed = true ∧ (Instr.claim frame0).wellFormed = true ∧
    (Instr.registerWrite .a 65535 [0]).wellFormed = true ∧ (Instr.writeAdmission 256).wellFormed = true ∧
    (Instr.bankHandover 27 true 0).wellFormed = true ∧ (Instr.dramPatrol 3 1 (some 19) true).wellFormed = true ∧
    (Instr.flashReadComplete 63 15 [.decoded [37375] none, .failed 7]).wellFormed = true := by decide +kernel

theorem test_wellFormed_frame_fields : ∀ f ∈ [
    { frame0 with cls := 5 }, { frame0 with pool := 2 ^ 16 }, { frame0 with pairSeq := 2 ^ 32 },
    { frame0 with pairAck := 2 ^ 32 }, { frame0 with session := 256 }, { frame0 with hops := 16 },
    { frame0 with seqn := 2 ^ 64 }, { frame0 with posFirst := 1024 }, { frame0 with posLast := 1024 },
    { frame0 with unit := 16 }], (Instr.claim f).wellFormed = false := by decide +kernel

theorem test_wellFormed_lists :
    (Instr.readData frame0 ⟨[0], 0⟩).wellFormed = false ∧ (Instr.sherdData frame0 ⟨[], 0⟩).wellFormed = false ∧
    (Instr.vqTsyncAll .a (List.replicate 2049 none)).wellFormed = false ∧
    (Instr.hostReadCompletion .a 0 (List.replicate 4097 0)).wellFormed = false ∧
    (Instr.topology .ne 0 0 [none]).wellFormed = false ∧ (Instr.flashChannelTrained 0 [⟨200, [], [], 0, 0⟩]).wellFormed = false ∧
    (Instr.dramChannelTrained 0 none [⟨3200, 0, [], []⟩]).wellFormed = false ∧ (Instr.registerWrite .a 0 []).wellFormed = false ∧
    (Instr.registerWrite .a 0 (List.replicate 65 0)).wellFormed = false ∧
    (Instr.flashReadComplete 0 0 []).wellFormed = false ∧
    (Instr.flashReadComplete 0 0 (List.replicate 25 (.failed 0))).wellFormed = false := by and_intros <;> decide +kernel

theorem test_wellFormed_ranges :
    ∀ i ∈ [Instr.abort .a 2048 0, .registerWrite .a 65536 [0], .writeAdmission 257, .linkCtlWidth .ne 9,
      .ticketRequest frame0 16384 0 0 0 0, .resolveReply frame0 [⟨0, 0, 0, 0, 65536, 0, 0, 0⟩] [], .e2eAckTimer 0 5,
      .kilnResetWave [⟨64, 0, true, none⟩], .flashChannelTrained 64 [],
      .flashChannelTrained 0 [⟨4801, List.replicate 8 50, List.replicate 8 50, 0, 0⟩],
      .zqShortCalTimer 64 0, .zqShortCalTimer 0 16, .dieRebuild 0 (some 16), .mapFaultIn 0 (2 ^ 40),
      .flashReadComplete 0 0 [.decoded [37376] none]],
      i.wellFormed = false := by decide +kernel

theorem test_wellFormed_ranges_units :
    ∀ i ∈ [Instr.dramCorrectedRead 0 2 0 0 false, .dramCorrectedRead 0 0 20 0 false,
      .dramCorrectedRead 0 0 0 (2 ^ 36) false, .dramPatrol 0 2 none false, .dramPatrol 0 0 (some 20) false,
      .engineFault .decoder 24, .engineFault .glazeLane 20, .engineFault .sherd 8, .leaseTermExpiry 256,
      .dramRefreshDue 0 2 0 none, .dramRefreshDue 0 0 4 none, .dramRefreshDue 0 0 0 (some 8), .dramPageIdleClose 0 0 32,
      .dramChannelTrained 0 none [⟨8801, 0, List.replicate 80 [], List.replicate 80 []⟩],
      .dramTemperatureRead 0 2 true, .bankHandover 19 true 0, .bankHandover 24 true 0, .bankHandover 28 true 0,
      .vinBelowVPlp 65536, .msixVectorUnmask .a 2049], i.wellFormed = false := by decide +kernel

theorem test_wellFormed_records :
    (Instr.mirrorGroup frame0 [⟨.intent, 0, 0, 0, 0, 0, 0, 0, 0, 65536, 0, 0, 0, 0, 0⟩]).wellFormed = false ∧
    (Instr.beachcomberCheck 257 0 false 0).wellFormed = false ∧ blk4k.ok = true := by decide +kernel

/-! ## Values the spec prints -/

/-- R164: the check value over the nine digits. -/
theorem test_guard_check_value :
    guard64 [0x31, 0x32, 0x33, 0x34, 0x35, 0x36, 0x37, 0x38, 0x39] = 0x995DC9BBDF1939FA#64 := by decide +kernel

/-- The six data bytes of the example after R196. -/
def example6 : List (List Byte) := [[0x11], [0x22], [0x33], [0x44], [0x55], [0x66]]

theorem test_parity_example : (parityP example6).headD 0 = 0x77 ∧ (parityQ 0 example6).headD 0 = 0xE6 := by
  decide +kernel

theorem test_syndrome_example :
    let ds := example6.set 3 [0x4C]
    gfMul 0x08 0x4C = 0x5A ∧ (xorBytes [0x77] (parityP ds)).headD 0 = 0x08 ∧
    (xorBytes [0xE6] (parityQ 0 ds)).headD 0 = 0x40 ∧ gfMul (gfGen 3) 0x08 = 0x40 ∧ (0x4C : Byte) ^^^ 0x08 = 0x44 := by
  decide +kernel

/-- The example after R193: row 2,604 of pool A holds data sherds 0 to 5 on ranks 5, 6, 7, 0, 1 and 2. -/
theorem test_row_example :
    ((List.range 6).map (pqChild 8 2604)) = [5, 6, 7, 0, 1, 2] ∧ pqChild 8 2604 unitP = 3 ∧ pqChild 8 2604 unitQ = 4 := by
  decide +kernel

/-- The example after R229: rank 5 follows claim 0x2903 with 0x2A05, and rank 3 follows that with 0x2B03. -/
theorem test_claim_example : mkClaim (epochOf 0x2903 + 1) 5 = 0x2A05 ∧ mkClaim (epochOf 0x2A05 + 1) 3 = 0x2B03 := by
  decide +kernel

/-- The example after R211: row 2,604 lies in region 61. -/
theorem test_region_example : regionOf 999936 = 61 ∧ regionOf 1000319 = 61 ∧ regionOf 999423 = 60 := by decide +kernel

/-- The example after R517: 1,000,003 periods. -/
theorem test_gap_example : ebbGap 1000003 0 = (30517669677, 47) := by decide +kernel

/-- The example of chapter 15: 337 active dies on 64 channels with SLC tPROG 200 µs and six planes. -/
theorem test_active_dies_example :
    let d := live.dp
    let k : Kiln := { d.kiln with
      profile := { d.kiln.profile with progSlcUs := 200, progSlcMaxUs := 200, planes := 6 }
      chans := tabOf 64 (fun _ => chan0) }
    nActive live.env { d with kiln := k } = 337 := by decide +kernel

/-- R128's example needs 63 good channels; with one, the stripe is one wide. -/
theorem test_stripe_narrow : stripeWidth live.env live.dp = 1 := by decide +kernel

/-- The IV of the example after R434, from generation 3 and counter 0x123456789. -/
theorem test_nonce_example :
    leBytes 8 0x123456789 ++ leBytes 4 3 = [0x89, 0x67, 0x45, 0x23, 1, 0, 0, 0, 3, 0, 0, 0] := by decide +kernel

/-- R568: the IDCODE, least significant bit first. -/
theorem test_tap_idcode : (match exec (.tapAccess .idcode) live with
    | .next t => t.dp.io.out == [.tdo ((List.range 32).map (Nat.testBit 0x1740024F))]
    | _ => false) = true := by decide +kernel

/-- An idle step is one tick of 40 ns. -/
theorem test_idle_tick : (match step live with
    | .next t => t.clk.time == live.clk.time + 40 && t.pending.isEmpty
    | _ => false) = true := by decide +kernel

/-- R304: a cause bit written as 1 clears, and another stays. -/
theorem test_evtCause_w1c :
    (match exec (.evtCauseClear .a 2) (liveDp (fun d => d.setPort .a { portUp with evtCause := 3 })) with
    | .next t => (t.dp.port .a).evtCause == 1
    | _ => false) = true := by decide +kernel

/-- R530: the block has 32 bytes after its count. -/
theorem test_bootStatus_length : (match exec .bootStatusRead live with
    | .next t => (match t.dp.io.out with | [.smbus l] => l.length == 33 && l.headD 0 == 32 | _ => false)
    | _ => false) = true := by decide +kernel

/-- The anchor that a new device holds is valid under its CRC-32C (R147). -/
theorem test_reset_anchor : Bed.reset.anchors.all Anchor.valid = true ∧ (newestAnchor Bed.reset).isSome = true := by
  decide +kernel

/-- The table gives no row bits, so no word spells a command. -/
theorem test_decode_none : decodeTableWord 8 0 = none ∧ live.withFetchWord 8 0 = live := ⟨rfl, rfl⟩

/-! ## The ciphers, against the vectors their standards publish -/

/-- FIPS 197, appendix C.3. -/
theorem test_aes256 : aesEnc (roundKeys ((List.range 32).map (BitVec.ofNat 8)))
    (beBytes 16 0x00112233445566778899AABBCCDDEEFF) = beBytes 16 0x8EA2B7CA516745BFEAFC49904B496089 := by decide +kernel
/-- SP 800-38A, F.2.5, first block. -/
theorem test_cbc : (cbcEnc (beBytes 32 0x603DEB1015CA71BE2B73AEF0857D77811F352C073B6108D72D9810A30914DFF4)
    ((List.range 16).map (BitVec.ofNat 8)) (beBytes 16 0x6BC1BEE22E409F96E93D7E117393172A)).take 16 =
    beBytes 16 0xF58C4C04D6E5F1BA779EABFB5F7BFBD6 := by decide +kernel
/-- The GCM specification's test case 14. -/
theorem test_gcm : gcm (List.replicate 32 0) (List.replicate 12 0) [] (List.replicate 16 0) true =
    (beBytes 16 0xCEA7403D4D606B6E074EC5D3BAF39D18, beBytes 16 0xD0D1C8A799996BF0265B98B5D48AB919) := by decide +kernel

/-! ## Witnesses of the statements about host commands -/

theorem wit_PoolCommandsReadTheirHeader :
    (∀ op ∈ [1, 2, 3, 4, 5, 6],
      let s := poolCmds
      let desc := poolDesc op
      dOpcode desc = op ∧ s.dp.cmd key0 = some cmd0 ∧ cmd0.stage = .recorded ∧ s.boot.ready = true ∧ s.boot.safe = false ∧
      dataPool s.dp (dPool desc) = some lone ∧ checkDesc s.env s.dp (cmdRead desc) = none ∧ mayFetch s key0 op = true ∧
      cmd0.admitted = false ∧ waitingWrites s.dp (dPool desc) = [] ∧ fullFor s.env s.dp lone = false ∧
      bucketHolds (fillBucket s.env (s.dp.bucket (dPool desc))) (writeCost lone.iu (cmdRead desc)) = true) ∧
    (let desc := BitVec.ofNat 512 (poolDesc 1 |>.toNat |> (· + 4096 * 2 ^ 64))
     dOpcode desc = opRead ∧ checkDesc poolCmds.env poolCmds.dp (cmdRead desc) = some stLbaRange) ∧
    (opRead = 1 ∧ opWrite = 2 ∧ opWriteAtomic = 3 ∧ opDiscard = 4 ∧ opSecureDiscard = 5 ∧ opVerify = 6) ∧
    mayFetch State.reset key0 opRead = false ∧ mayFetch State.reset key0 opWrite = false := by decide +kernel

/-- One input of 64 bytes at 0x1000, one output at 0x2000, matrix [1] at 0x3000, the buffer table at 0x4000. -/
def codecDesc : BitVec 512 := BitVec.ofNat 512
  (8 + 64 * 2 ^ 32 + 32 * 2 ^ 160 + 0x4000 * 2 ^ 192 + 1 * 2 ^ 392 + 1 * 2 ^ 400 + 0x3000 * 2 ^ 448)

def codecTable : List (BitVec 128) :=
  [BitVec.ofNat 128 (64 * 2 ^ 32 + 0x1000 * 2 ^ 64), BitVec.ofNat 128 (64 * 2 ^ 32 + 0x2000 * 2 ^ 64)]

/-- The state in which that command's header is read. -/
def codecRead : State := (serviceFetch opCodec key0 codecDesc [] [] (withCmds queue0 [cmd0])).1

/-- Mode 5 (CBC encrypt) or 1 (GCM encrypt) of no bytes with slot 16. -/
def glazeDesc (mode dest : Nat) : BitVec 512 := BitVec.ofNat 512
  (9 + dest * 2 ^ 288 + dest * 2 ^ 320 + 16 * 2 ^ 384 + mode * 2 ^ 400 + 0x5000 * 2 ^ 448)

def key16 : KeySlot := { KeySlot.reset with usage := 63 }

/-- Slot 16 holds a key for every mode of 256-bit keys. -/
def withKey : State := { withCmds queue0 [cmd0] with sec := { live.sec with slots := [(16, key16)] } }

def glazeRead (mode dest : Nat) : State := (serviceFetch opGlaze key0 (glazeDesc mode dest) [] [] withKey).1

def glazeBuf (mode dest : Nat) : Buf × Buf := (glazeBufs (glazeDesc mode dest) [] []).getD (⟨[], 0⟩, ⟨[], 0⟩)

theorem wit_CodecWritesItsOutputs :
    let bufs : List Buf := [⟨[(0x1000, 64)], 1⟩, ⟨[(0x2000, 64)], 1⟩]
    serviceFetch opCodec key0 codecDesc [] [] (withCmds queue0 [cmd0]) = (codecRead, true) ∧
    codecCheck codecDesc codecTable [] = .inr bufs ∧
    (let r := pagesReady key0 ([(sgAddr (dData codecDesc), 16 * bufs.length)] :: [(cMatrix codecDesc, 1)] ::
      (bufs.take (cIn codecDesc)).map Buf.ranges) ((bufs.drop (cIn codecDesc)).map Buf.ranges) codecRead
     r = (r.1, true)) ∧ codecCoeffs codecDesc [1] = some [[1]] := by decide +kernel

theorem wit_GlazeWritesItsOutputs :
    (∀ x ∈ [(5, 16), (1, 0)], let desc := glazeDesc x.1 x.2
      serviceFetch opGlaze key0 desc [] [] withKey = (glazeRead x.1 x.2, true) ∧
      (withKey.boot.safe && withKey.sec.slots.isEmpty) = false ∧ cipherOff withKey = false ∧
      descFieldBad desc = false ∧ descLengthBad desc = false ∧ glazeBufs desc [] [] = some (glazeBuf x.1 x.2) ∧
      glazeKey (glazeRead x.1 x.2) key0 desc = .inr key16 ∧
      (let r := pagesReady key0 [(glazeBuf x.1 x.2).1.ranges, [(gAux desc, 64 + gAad desc)]]
        ((glazeBuf x.1 x.2).2.ranges :: (if gMode desc = 1 then [[(gAux desc, 64 + gAad desc)]] else []))
        (glazeRead x.1 x.2)
       r = (r.1, true))) ∧
    (match glazeRun key16 (glazeDesc 5 16) [] [] with | .ok t none => t.length == 16 | _ => false) = true ∧
    (match glazeRun key16 (glazeDesc 1 0) [] [] with | .ok t (some p) => t.isEmpty && p.2.length == 16 | _ => false) = true := by
  decide +kernel

theorem wit_DoorbellsAndFreezes :
    (let s := withCmds queue0 []
     bellOk s .a = true ∧ 0 < portQueues s.env ∧ queueListed s .a 0 = true ∧ s.dp.vq.cache.contains (.a, 0) = true ∧
     (s.dp.queueD .a 0).st ≠ .broken ∧ (s.dp.queueD .a 0).enabled = true ∧
     s.dp.cmd ⟨.a, 0, bitsOf (0 : BitVec 32).toNat 4 0⟩ = none) ∧
    (bellOk live .a = true ∧ 2047 < portQueues live.env ∧ queueListed live .a 2047 = false) ∧
    (let s := withCmds queue0 [cmd0]
     bellOk s .a = true ∧ s.dp.cmd ⟨.a, 0, bitsOf (0 : BitVec 32).toNat 4 0⟩ = some cmd0 ∧ cmd0.stage ≠ .finished ∧
     cmd0.pnr = false) ∧
    (let s := withCmds { queue0 with unread := 31 } []
     let freed := (31 + qRing queue0.entry - 0) % qRing queue0.entry
     bellOk s .a = true ∧ 0 < portQueues s.env ∧ queueListed s .a 0 = true ∧ queue0.enabled = true ∧
     bitsOf (31 : BitVec 32).toNat 11 0 < qRing queue0.entry ∧ freed ≠ 0 ∧ freed ≤ (s.dp.queueD .a 0).unread) ∧
    (let s := withCmds { queue0 with st := .frozen } [cmd0]
     bellOk s .a = true ∧ (s.dp.queueD .a 0).st = .frozen) := by decide +kernel

theorem wit_DeviceRegisterWrites :
    (let s := liveDp (fun d => d.setPort .a { portUp with enable := false, enabled := false })
     barServed s .a = true ∧ (s.dp.port .a).enable = false ∧ (s.dp.port .a).enabled = false) ∧
    (barServed live .a = true ∧ (live.dp.port .a).enabled = true ∧
      live.dp.vq.cmds.any (fun c => c.key.port = .a && c.stage != .recorded) = false) ∧
    ([0, 0x10, 0, 0, 0, 0, 0, 0] : List Byte).length = 8 ∧ 2048 ≤ 2048 ∧
    queueListed live .a 3 = true ∧ dmaOk live.env live.dp .a = true := by decide +kernel

/-- An outstanding read, and a page request, of the command of tag 0. -/
def read0 : DmaRead := { req := 1, key := key0, isMeta := false, off := 0, addr := 0x1000, bytes := 64, sentAt := 0 }

def page0 : PageReq := { req := 1, key := key0, pasid := none, page := 1, sentAt := 0, successes := 0 }

/-- Port A with one outstanding read, translation request and page request. -/
def portBusy : HostPort := { portUp with reads := [read0], transReqs := [(none, 1)], pageReqs := [page0] }

theorem wit_PortResetsReachTableState :
    (live.dp.port .a).linkUp = true ∧ live.pwr.porHeld = false ∧ (14 < 16 ∧ 14 ≠ evReady ∧ 14 ≠ evFatal) := by decide

theorem wit_HostLinkAndPowerEvents :
    (let s := liveDp (fun d => d.setPort .a (HostPort.reset true))
     (s.dp.port .a).fitted = true ∧ (s.dp.port .a).linkUp = false ∧ s.dp.hp.perst = false ∧ coreOn s = true ∧
     s.pwr.state ≠ .lastTide ∧ 1280 ∈ linkRates ∧ widthOk s.boot.straps.bifurc 16 = true) ∧
    (let s := liveDp (fun d => d.setPort .a { portUp with aspmL1 := true })
     (s.dp.port .a).linkUp = true ∧ (s.dp.port .a).aspmL1 = true ∧
     s.dp.vq.cmds.any (fun c => c.key.port = .a && !c.orphan) = false) ∧
    ((liveDp (fun d => d.setPort .a { portUp with l1 := true })).dp.port .a).l1 = true ∧
    (live.dp.port .a).linkUp = true ∧ ¬(CfgField.bar 2 = CfgField.pasidEnable ∧ 0 = 0) := by decide +kernel

theorem wit_DmaCompletionsAndFaults :
    let s := liveDp (fun d => d.setPort .a portBusy)
    readOf (s.dp.port .a) 1 = some read0 ∧ [(0 : Byte)] ≠ [] ∧ (s.dp.port .a).cplTimeout = 0 ∧
    read0.sentAt + 40000000 ≤ s.clk.time ∧ (s.dp.port .a).transReqs.contains (none, 1) = true ∧
    pageReqOf (s.dp.port .a) 1 = some page0 ∧ page0.sentAt + s.param 0x0101 * 1000000 ≤ s.clk.time ∧
    (s.dp.port .a).linkUp = true := by decide +kernel

theorem wit_QueueTimersAndAdmission :
    (let s := withCmds { queue0 with unsig := 1 } []
     (s.dp.queueD .a 0).unsig ≠ 0 ∧
     (s.dp.queueD .a 0).unsigAt + qCoalTime (s.dp.queueD .a 0).entry * 1000 ≤ s.clk.time) ∧
    waitingWrites (withCmds queue0 [{ cmd0 with stage := .header, opcode := 2, checked := true, delayed := some 0 }]).dp
      0 ≠ [] ∧
    tableFull live.dp = false ∧ (liveDp (fun d => { d with sh := { d.sh with fullRanks := [1] } })).dp.sh.fullRanks ≠ [] ∧
    (live.boot.ready = true ∧ live.boot.safe = false ∧ live.pwr.lt = none ∧ live.pwr.waiting = false ∧
      live.dp.bw.roundAt + 1000000 ≤ live.clk.time) ∧
    (let s := liveDp (fun d => d.setBucket 0 { d.bucket 0 with delayedSince := some 0 })
     (s.dp.bucket 0).softOn = false ∧
     (s.dp.bucket 0).delayedSince.any (fun t => t + 1000000000 ≤ s.clk.time) = true ∧ (s.dp.bucket 0).softAt = none) ∧
    (let s := liveDp (fun d => d.setBucket 0 { d.bucket 0 with softOn := true })
     (s.dp.bucket 0).softOn = true ∧ (s.dp.bucket 0).delayedSince = none ∧
     (s.dp.bucket 0).idleSince + 1000000000 ≤ s.clk.time) := by decide +kernel

/-- A mailbox whose request window holds these bytes. -/
def withWindow (f : Mail → Mail) : State :=
  liveDp (fun d => { d with mb := { d.mb with boxes := d.mb.boxes.map (fun m => if m.box = box0 then f m else m) } })

/-- IDENTIFY with no payload. -/
def identifyWindow : List Host.Cell := Memory.writeBytes [] 0 [1, 0]

theorem wit_MailboxProtocol :
    (let s := withWindow (fun m => { m with busy := true })
     barServed s .a = true ∧ available s.env s.dp (.host .a 0) = true ∧
     s.dp.mb.boxes.any (fun b => b.box = .host .a 0) = true ∧
     ((s.dp.mail (.host .a 0)).busy || (s.dp.mail (.host .a 0)).done) = true) ∧
    (let s := withWindow (fun m => { m with reqWin := identifyWindow })
     let r := windowRequest (s.dp.mail (.host .a 0))
     barServed s .a = true ∧ available s.env s.dp (.host .a 0) = true ∧
     s.dp.mb.boxes.any (fun b => b.box = .host .a 0) = true ∧ (s.dp.mail (.host .a 0)).busy = false ∧
     (s.dp.mail (.host .a 0)).done = false ∧ formError (mbxQueues s.env (.host .a 0)) r = none ∧
     served s.env r.opcode = true ∧ authorised s.dp (.host .a 0) r.opcode = true) ∧
    (let s := live
     (s.dp.mail (.host .a 0)).busy = false ∧ (s.dp.mail (.host .a 0)).done = false ∧
     (formError (mbxQueues s.env (.host .a 0)) (windowRequest (s.dp.mail (.host .a 0)))).isSome = true) ∧
    (asking 1 [] live).dp.request (.host .a 0) = some (req 1 []) := by decide +kernel

/-- A pool of handle 1 beside the registry pool, with this reshape. -/
def withPool (x : Option Reshape) : State :=
  liveDp (fun d =>
    { d with sh := { d.sh with reg := { d.sh.reg with
        pools := d.sh.reg.pools ++ d.sh.reg.pools.map (fun p => { p with handle := 1, reshape := x }) } } })

def reshape0 : Reshape :=
  { nodes := [⟨.leaf, 0, 0⟩], stripes := [⟨.leaf, 0, [0], 256⟩], sherd := 0, floor := 0, cap := 256, rows := 256, tidemark := 64,
    paused := true }

def job0 : SdJob :=
  { id := 1, pool := 1, lba := 0, len := 1, seqn := 5, state := .erasing, startedAt := 0, blocksTotal := 1,
    blocksDone := 1, rowsTotal := 1, rowsDone := 0, pendingMask := 1, toList := 0, elapsedMs := 0, left := false }

theorem wit_IdentifyAndStatusAnswer :
    (∀ op ∈ [0x0001, 0x0002, 0x0005, 0x0105, 0x0701, 0x0702, 0x0004, 0x0003],
      Asked (asking op [] live) box0 op (req op [])) ∧
    (∀ op ∈ [0x0104, 0x0107], (shownPool (asking op [1] (withPool none)) (fieldAt [1] 0 1)).any (fun p => p.reshape = none) = true ∧
      (shownPool (asking op [1] (withPool (some reshape0))) (fieldAt [1] 0 1)).any
        (fun p => p.reshape = some reshape0) = true ∧ reshape0.paused = true ∧
      shownPool (asking op [255] live) (fieldAt [255] 0 1) = none ∧
      Asked (asking op [1] (withPool none)) box0 op (req op [1]) ∧
      Asked (asking op [255] live) box0 op (req op [255])) ∧
    (let s := liveDp (fun d => { d with sh := { d.sh with reg := { d.sh.reg with jobs := [job0] } } })
     Asked (asking 0x0108 [1, 0, 0, 0] s) box0 0x0108 (req 0x0108 [1, 0, 0, 0]) ∧
     s.dp.sh.reg.jobs.find? (fun j => j.id = fieldAt [1, 0, 0, 0] 0 4) = some job0) ∧
    live.dp.mb.boxes.any (fun b => b.box = box0) = true ∧ live.dp.mb.diag = none := by decide +kernel

theorem wit_QueueParameterAndLogCommands :
    (∀ op ∈ [0x0201, 0x0202, 0x0301, 0x0402, 0x0403, 0x0401],
      Asked (asking op [] live) box0 op (req op [])) ∧
    (Asked (asking 0x0404 [13] live) box0 0x0404 (req 0x0404 [13]) ∧ fieldAt [13] 0 1 = 13) ∧
    (Asked (asking 0x0404 [1] live) box0 0x0404 (req 0x0404 [1]) ∧ fieldAt [1] 0 1 ≠ 13) ∧
    (∀ op ∈ [0x0302, 0x0303], let bad := leBytes 16 1 ++ leBytes 8 0xFFFF ++ leBytes 8 0
      let s := asking op bad live
      Asked s box0 op (req op bad) ∧ (paramError s box0 (mailOrder s.env box0 (s.dp.mail box0) (req op bad))).isSome = true) ∧
    (∀ op ∈ [0x0302, 0x0303], let ok := leBytes 16 1 ++ leBytes 8 0x0101 ++ leBytes 8 100
      let s := asking op ok live
      Asked s box0 op (req op ok) ∧ paramError s box0 (mailOrder s.env box0 (s.dp.mail box0) (req op ok)) = none ∧
      (paramEntries op ok).any (fun x => (paramDef x.1).any ParamDef.shoal) = false) := by decide +kernel

/-- The order that MB0's request makes. -/
def orderOf (op : Nat) (l : List Byte) (s : State) : Order := mailOrder s.env box0 ((asking op l s).dp.mail box0) (req op l)

/-- POOL_CREATE or RESHAPE_START of a leaf on rank 1. -/
def treeBytes (handle cap : Nat) : List Byte :=
  List.replicate 15 0 ++ leBytes 1 handle ++ [0, 0, 0, 0, 1, 0, 0, 0] ++ leBytes 8 cap ++ [1, 1] ++ List.replicate 14 0

def leaf1 (cap : Nat) : List Stripe := [⟨.leaf, 0, [1], cap⟩]

/-- Requests of orders, and the states that meet what the orders ask. -/
def noLease : State := { boss false with dp := { (boss false).dp with sh := { (boss false).dp.sh with
  regNext := { (boss false).dp.sh.regNext with leases := [] } } } }

def retired0 : State := { boss false with dp := { (boss false).dp with sh := { (boss false).dp.sh with
  view := [(viewKey 0 0, .retired), (viewKey 1 0, .retired)] } } }

def spent1 : State := { boss false with dp := { (boss false).dp with sh := { (boss false).dp.sh with
  roles := [pRole 0 .steward], sea := [(0, { freshSea with claim := 0x100 }), (1, { freshSea with claim := 0xFFFFFF00 })] } } }

def orders0 : List (Nat × List Byte × State) :=
  [(0x0101, treeBytes 2 4096, boss false), (0x0102, [1, 0], boss false), (0x0102, [1, 1], boss false),
   (0x0103, [1, 0, 0, 0, 0, 0, 0, 0] ++ leBytes 8 8192, boss false), (0x0109, [1, 2], boss false),
   (0x0106, treeBytes 1 0, boss false), (0x0110, [1, 0, 0, 0] ++ leBytes 4 1000, noLease), (0x0111, [1], boss false),
   (0x0112, [1], boss false), (0x0403, [1], boss false), (0x0604, [0], retired0)]

def orders1 : List (Nat × List Byte × State) :=
  [(0x0703, [4, 0, 0, 0, 0, 0, 0, 0] ++ leBytes 8 5, boss false), (0x0704, [3], boss false), (0x0705, [3, 1], boss true),
   (0x0706, [1, 3], boss true), (0x0711, [1, 1, 2], boss false), (0x0710, [1, 1], boss false), (0x0712, [1], boss false),
   (0x0713, [1], spent1)]

-- Every order of the lists is asked, and new to a registry steward whose port holds the lease.
theorem wit_AdministrativeOrders_sequenced : ∀ x ∈ orders0 ++ orders1,
    Asked (asking x.1 x.2.1 x.2.2) box0 x.1 (req x.1 x.2.1) ∧ Sequenced (asking x.1 x.2.1 x.2.2) (orderOf x.1 x.2.1 x.2.2) := by
  have h : ∀ x ∈ orders0 ++ orders1, let s := asking x.1 x.2.1 x.2.2
      let o := orderOf x.1 x.2.1 x.2.2
      Asked s box0 x.1 (req x.1 x.2.1) ∧ stewardOf s.env s.dp 0 = some s.env.rank ∧
      s.dp.sh.regOpen.any (fun x => x.order.any (sameOrder o)) = false ∧ s.dp.sh.polls.any (fun x => sameOrder x.1 o) = false ∧
      s.dp.sh.delegated.any (fun x => sameOrder x.1 o) = false ∧ appliedOf s.dp.sh.reg o = none ∧
      leaseOk s.dp.sh.regNext s.clk.time o = true := by decide +kernel
  intro x hx
  obtain ⟨a, b, c, d, e, f, g⟩ := h x hx
  exact ⟨a, b, c, d, e, f, g⟩

theorem wit_AdministrativeOrders_pools :
    (let s := boss false
     let p := treeBytes 2 4096
     let g := s.dp.sh.regNext
     let l : Lay := ⟨sherdBlocks (crSherd p), leaf1 4096, 0⟩
     nodesOf p = some [⟨.leaf, 1, 0⟩] ∧ parseTree (sherdBlocks (crSherd p)) (crCap p) [⟨.leaf, 1, 0⟩] = some (leaf1 4096, 1) ∧
     layoutOk g (paramVal s.par g 0x0601) (crIu p) (crSherd p) (leaf1 4096) 1 = true ∧ g.pool (crHandle p) = none ∧
     s.dp.sh.reg.pool (crHandle p) = none ∧ l.cap ≤ capMax ∧
     sizeStatus s.env s.dp g (crHandle p) l (crIu p) (fun _ => 0) = none) ∧
    (let s := boss false
     let g := s.dp.sh.regNext
     let q := pool1 none
     g.pool 1 = some q ∧ q.state ≠ .deleting ∧
     (resizePool q 8192).any (fun q' => q'.cap ≤ capMax && q.cap ≤ q'.cap &&
       (sizeStatus s.env s.dp g q.handle q'.lay q.iu q.lay.resident).isNone) = true) ∧
    (let s := boss false
     let p := treeBytes 1 0
     let g := s.dp.sh.regNext
     let q := pool1 none
     let l : Lay := ⟨sherdBlocks (crSherd p), leaf1 4096, q.layoutGen + 1⟩
     crHandle p ≠ 0 ∧ g.pool (crHandle p) = some q ∧ crIu p = q.iu ∧ crTags p = q.tags ∧ rootConcat p = false ∧ crCap p = 0 ∧
     nodesOf p = some [⟨.leaf, 1, 0⟩] ∧
     parseTree (sherdBlocks (crSherd p)) (if crCap p = 0 then q.cap else crCap p) [⟨.leaf, 1, 0⟩] = some (leaf1 4096, 1) ∧
     layoutOk g (paramVal s.par g 0x0601) (crIu p) (crSherd p) (leaf1 4096) 1 = true ∧ q.cap ≤ l.cap ∧ l.cap ≤ capMax ∧
     q.reshape = none ∧ sizeStatus s.env s.dp g q.handle l q.iu q.lay.resident = none) := by and_intros <;> decide +kernel

theorem wit_AdministrativeOrders_leases :
    (leaseHandle noLease.dp.sh.regNext 1 = true ∧ leaseAt noLease.dp.sh.regNext noLease.clk.time 1 = none) ∧
    (let s := boss false
     (leaseAt s.dp.sh.regNext s.clk.time 1).any (fun l => l.holder = holderOf (orderOf 0x0111 [1] s)) = true) ∧
    (let s := asking 0x0112 [1] (boss false)
     waiter (s.dp.wait box0) (orderOf 0x0112 [1] (boss false)) = some box0 ∧
     s.dp.mb.boxes.any (fun b => b.box = box0) = true ∧ box0 = .host .a 0) ∧
    (let s := retired0
     (s.dp.sh.regNext.member 0).isSome = true ∧ 0 = s.env.rank ∧
     s.dp.sh.regNext.pools.any (fun q => q.ranks.contains 0 && memberState s.dp q.handle 0 != .retired) = false) := by
  and_intros <;> decide +kernel

theorem wit_AdministrativeOrdersGoToTheRegistrySteward :
    (∀ op ∈ [0x0101, 0x0102, 0x0103, 0x0106, 0x0109, 0x0110, 0x0111, 0x0112, 0x0604, 0x0703, 0x0704, 0x0705, 0x0706,
        0x0710, 0x0711, 0x0712, 0x0713], Asked (asking op [] live) box0 op (req op [])) ∧
    (let o := mailOrder live.env box0 (live.dp.mail box0) (req 0x0101 [])
     stewardOf live.env { live.dp with sh := { live.dp.sh with
       forwarded := live.dp.sh.forwarded ++ [(o, live.clk.time, noRank)] } } 0 = none ∧ o.opcode ≠ 0x0713) ∧
    (let s := boss true
     let g := s.dp.sh.regNext
     4 ≤ 15 ∧ (g.member 3).any (fun y => y.spare) = true ∧ hasLeaf g 3 = false ∧ (g.member 1).isSome = true ∧ 1 ≠ 3 ∧
     present s.env s.dp 3 = true ∧ replaceStatus (substRank 1 3 g) 3 = none) ∧
    (let s := boss false
     let g := s.dp.sh.regNext
     (g.pool 1).any (fun q => q.state != .deleting) = true ∧ (g.member 1).isSome = true ∧ (g.member 2).isSome = true ∧ 1 ≠ 2 ∧
     present s.env s.dp 1 = true ∧ stewardOf s.env s.dp 1 = some s.env.rank ∧ 1 ≠ s.env.rank ∧
     (s.dp.roleD 1).handover = none ∧ epochOf (s.dp.claimOf 1) < epochMax ∧
     s.dp.sh.delegated.any (fun y => y.1.opcode = 0x0712) = false ∧ (s.dp.roleD 1).standby = some 1 ∧
     (formClaim s.env s.dp drillHandle).isSome = true) ∧
    (let s := spent1
     let g := s.dp.sh.regNext
     exhausted s.env s.dp 1 = true ∧ allPresent s.env s.dp g = true ∧
     ((g.pool 1).bind (fun q => (succession g q).find? (fun k => present s.env s.dp k))).isSome = true) := by
  and_intros <;> decide +kernel

/-- The device in service with its inactive image slot as given. -/
def withImage (i : Image) : State := { live with bed := { live.bed with b := i } }

theorem wit_FirmwareCommands :
    (let p : List Byte := [0, 0, 0, 0, 0, 0, 0, 0]
     Asked (asking 0x0501 p live) box0 0x0501 (req 0x0501 p) ∧ fieldAt p 0 1 = 0 ∧ fieldAt p 4 4 = 0) ∧
    (let p : List Byte := [0, 0, 0, 0, 0, 0, 0, 8]
     Asked (asking 0x0501 p live) box0 0x0501 (req 0x0501 p) ∧ fieldAt p 0 1 = 0 ∧ fieldAt p 4 4 ≠ 0) ∧
    (let p : List Byte := [1, 0, 0, 0, 0, 0, 0, 0, 4, 0, 0, 0, 0, 0, 0, 0, 1, 2, 3, 4]
     let s := asking 0x0501 p (withImage { Image.reset .staging with length := 4 })
     Asked s box0 0x0501 (req 0x0501 p) ∧ fieldAt p 0 1 = 1 ∧ (s.image (staging s)).st = .staging ∧
     fieldAt p 4 4 = (s.image (staging s)).accepted) ∧
    (let s := asking 0x0502 [] (withImage { Image.reset .staging with length := 4, accepted := 4, programmed := 4 })
     let i := s.image (staging s)
     Asked s box0 0x0502 (req 0x0502 []) ∧ i.st = .staging ∧ i.length ≤ i.accepted ∧ i.accepted ≤ i.programmed ∧
     bankBusy (s.bank (staging s)) = false) ∧
    (let p : List Byte := [1, 0, 0, 0, 5, 0, 0, 0, 0]
     let s := asking 0x0503 p (withImage { Image.reset .staged with build := 5 })
     Asked s box0 0x0503 (req 0x0503 p) ∧ s.pwr.entering = none ∧ (live.image 1).st ≠ .staged ∧
     (s.image (fieldAt p 0 1)).st = .staged ∧ (s.image (fieldAt p 0 1)).build = fieldAt p 4 4 ∧
     bothSides s.dp = false ∧ fieldAt p 8 1 = 0) ∧
    Asked (asking 0x0504 [] live) box0 0x0504 (req 0x0504 []) := by decide +kernel

theorem wit_AttestationAndKeyCommands :
    (Asked (asking 0x0601 [0] live) box0 0x0601 (req 0x0601 [0]) ∧ fieldAt [0] 0 1 = 0) ∧
    (Asked (asking 0x0601 [1] live) box0 0x0601 (req 0x0601 [1]) ∧ fieldAt [1] 0 1 = 1) ∧
    (let p : List Byte := [16, 0, 1, 0, 3, 0, 0, 0] ++ List.replicate 40 7
     Asked (asking 0x0602 p live) box0 0x0602 (req 0x0602 p) ∧ 16 ≤ fieldAt p 0 2 ∧
     live.sec.slots.find (fieldAt p 0 2) = none ∧ fieldAt p 2 1 = 1 ∧ fieldAt p 3 1 = 0 ∧
     usageOk false (fieldAt p 4 2) = true ∧ genSpent live = false ∧ fieldAt p 6 1 = 0) ∧
    (fieldAt [15, 0] 0 2 < 16 ∧ (withKey.sec.slots.find (fieldAt [16, 0] 0 2)).isSome = true) ∧
    (let p : List Byte := [16, 0, 1, 1, 3, 0, 0, 0]
     Asked (asking 0x0602 p live) box0 0x0602 (req 0x0602 p) ∧ usageOk (fieldAt p 3 1 = 1) (fieldAt p 4 2) = false) ∧
    (let s := asking 0x0603 [16, 0] withKey
     Asked s box0 0x0603 (req 0x0603 [16, 0]) ∧ 16 ≤ fieldAt [16, 0] 0 2 ∧
     (s.sec.slots.find (fieldAt [16, 0] 0 2)).isSome = true ∧ s.sec.clearing.any (fun c => c.1 = 16) = false) ∧
    (Asked (asking 0x0603 [15, 0] live) box0 0x0603 (req 0x0603 [15, 0]) ∧ fieldAt [15, 0] 0 2 < 16) := by
  decide +kernel

/-- MB0 asks for Ebb, and the Ebb anchor of this boot stands. -/
def ebbAsked : State :=
  asking 0x0802 [] { live with bed := { live.bed with
    anchors := live.bed.anchors.map (fun a => { a with boot := 1, time := live.clk.time }) } }

theorem wit_PowerCommands :
    (∀ op ∈ [0x0801, 0x0803, 0x0903, 0x0804], Asked (asking op [] live) box0 op (req op [])) ∧
    live.pwr.sag = none ∧
    (let u := leaveRoles (startLeaving .ebb box0 ebbAsked)
     Asked ebbAsked box0 0x0802 (req 0x0802 []) ∧
     (rolesHeld u.dp || cmdBusy u.dp || u.dp.map.green.any (fun g => !g.verified || !g.committed)) = false ∧
     u.dp.med.rows.any (fun x => x.openSince.isSome) = false ∧ dieWork u.dp = false ∧
     ebbAnchored u (u.pwr.entering.elim u.clk.time Entering.since) = true) := by decide +kernel

/-- An armed injection of one bit flip into a Causeway port's frames. -/
def arm0 : Arm :=
  { id := 1, target := 4, unit := 0, sel := 0, count := 1, seed := 0, shots := 1, address := 0, mask := 0, st := .armed,
    fired := 0, corrected := 0, uncorrectable := 0, replays := 0, seqs := [], since := 0 }

/-- MB0 holds diagnostic authority. -/
def withDiag : State := liveDp (fun d => { d with mb := { d.mb with diag := some box0 } })

/-- Die 0 of channel 0 fenced, with nothing on it. -/
def die0 : Die :=
  { present := true, fenced := true, setting := 0, queue := [], running := none, suspended := none, timeouts := [],
    cut := none, zqAt := 0, zqTj := 250, eraseDue := [], busy := [], lastP1 := none }

def withDie (x : Die) : State := liveDp (fun d => { d with kiln := { d.kiln with dies := [(0, x)] } })

/-- A good idle die. -/
def dieUp : Die := { die0 with fenced := false }

/-- Die 0 of channel 0 in service, with its state as given. -/
def media (f : Die → Die) (g : Dp → Dp) : State := { withDie (f dieUp) with dp := g (withDie (f dieUp)).dp }

/-- A block row of one block, on that die. -/
def row0 (use : RowUse) : Row :=
  { id := 1, use := use, width := 1, blocks := [(0, 0, 7)], full := true, cws := [], openSince := none, unclosed := false,
    filledAt := 0, writtenAt := 0, age := 0, reads := [], refresh := none, refreshAt := 0, warned := false, ewCount := 0,
    stage2 := false, moving := none, erasing := none, offsets := [], ready := [], passed := [], dead := [], xors := [],
    readsKept := [], offsetsKept := [] }

def withRow (r : Row) : State := media id (fun d => { d with med := { d.med with rows := [r] } })

/-- A training result with every window this wide, in hundredths of the unit interval. -/
def step0 (rate window : Nat) : TrainStep := ⟨rate, List.replicate 8 window, List.replicate 8 window, 0, 0⟩

theorem wit_DiagnosticCommands :
    (Asked (asking 0x0901 [] live) box0 0x0901 (req 0x0901 []) ∧ live.dp.mb.diag = none ∧
      Asked (asking 0x0901 [] withDiag) box0 0x0901 (req 0x0901 []) ∧ withDiag.dp.mb.diag ≠ none) ∧
    (Asked (asking 0x0902 [] withDiag) box0 0x0902 (req 0x0902 []) ∧ withDiag.dp.mb.diag.isSome = true) ∧
    (let p := leBytes 8 1 ++ leBytes 8 (2 ^ 26 - 64)
     Asked (asking 0x0920 p live) box0 0x0920 (req 0x0920 p) ∧
     inRegion live (fieldAt p 0 1) (fieldAt p 8 8) (if fieldAt p 0 1 = 1 then 64 else 1) = true ∧
     live.integ.arms.any (fun a => a.target = 1 && a.st = .armed) = false) ∧
    (let s := asking 0x0921 [1, 0, 0, 0] { live with integ := { live.integ with arms := [arm0] } }
     Asked s box0 0x0921 (req 0x0921 [1, 0, 0, 0]) ∧
     s.integ.arms.find? (fun a => a.id = fieldAt [1, 0, 0, 0] 0 4) = some arm0) := by decide +kernel

theorem wit_DiagnosticCommands_access :
    (let p := [2, 0, 0, 0] ++ leBytes 4 64 ++ leBytes 8 0
     Asked (asking 0x0922 p live) box0 0x0922 (req 0x0922 p) ∧ fieldAt p 1 1 = 0 ∧ fieldAt p 0 1 = 2 ∧
     inRegion live 2 (fieldAt p 8 8) (fieldAt p 4 4) = true ∧ live.integ.padBad = []) ∧
    (let p := [1, 1, 0, 0] ++ leBytes 4 64 ++ leBytes 8 0
     Asked (asking 0x0922 p live) box0 0x0922 (req 0x0922 p) ∧ fieldAt p 1 1 = 1 ∧ fieldAt p 0 1 ≠ 3 ∧
     inRegion live (fieldAt p 0 1) (fieldAt p 8 8) (fieldAt p 4 4) = true) ∧
    (let p : List Byte := [3, 2, 0, 0]
     Asked (asking 0x0922 p live) box0 0x0922 (req 0x0922 p) ∧ fieldAt p 1 1 = 2) ∧
    (let p : List Byte := [4, 3, 0, 0, 1, 0, 0, 0]
     Asked (asking 0x0922 p ringUp) box0 0x0922 (req 0x0922 p) ∧ fieldAt p 1 1 = 3 ∧ fieldAt p 4 4 ≠ 0 ∧
     (ringUp.dp.link (portOfNum (fieldAt p 2 1))).up = true ∧
     (live.dp.link (portOfNum (fieldAt p 2 1))).up = false) ∧
    (let p : List Byte := [4, 4, 0, 0]
     Asked (asking 0x0922 p ringUp) box0 0x0922 (req 0x0922 p) ∧ fieldAt p 1 1 = 4) ∧
    (let s := withDie die0
     Asked (asking 0x0904 [0, 0] s) box0 0x0904 (req 0x0904 [0, 0]) ∧ unitFenced s.dp 0 (some 0) = true ∧
     s.dp.med.rows.any (fun x => x.blocks.any (onUnit 0 (some 0)) && rowHeld s.dp x.id) = false ∧
     unitFenced s.dp 0 none = false ∧ fieldAt [0, 0] 1 1 ≠ 255 ∧ fieldAt [0, 255] 1 1 = 255 ∧
     trainedStep s.env s.dp 4800 [] = none ∧ (trainedStep s.env s.dp 4800 [step0 4800 36]).isSome = true) ∧
    (let s := withDie die0
     let d := { s.dp with
       map := { s.dp.map with entries := [(1, 0, ⟨1, 0⟩)] }
       med := { s.dp.med with rows := [row0 .stoneware] } }
     unitFenced d 0 (some 0) = true ∧ d.med.rows.any (fun x => x.blocks.any (onUnit 0 (some 0)) && rowHeld d x.id) = true) ∧
    (let s := liveDp (fun d => d.setChan 0 { d.chan 0 with fenced := true })
     unitFenced s.dp 0 none = true ∧ s.dp.med.rows = []) := by
  decide +kernel

/-- The device in service with one loop slot changed. -/
def withLoop (n : Nat) (f : Loop → Loop) : State :=
  { live with tide := { live.tide with loops := live.tide.loops.put n (f (live.tide.loop n)) } }

theorem wit_LoopAndTraceCommands :
    (∀ op ∈ [0x0A01, 0x0A04, 0x0A11], Asked (asking op [0] live) box0 op (req op [0])) ∧
    (Asked (asking 0x0A02 [0, 1] live) box0 0x0A02 (req 0x0A02 [0, 1]) ∧ (live.tide.loop 0).st = .closed ∧
      (live.tide.loop 0).fixed = false ∧ fieldAt [0, 1] 1 1 = 1 ∧ (live.tide.loop 2).st = .closed ∧
      (live.tide.loop 2).fixed = true ∧ (live.tide.loop 31).st = .unused) ∧
    (let p := leBytes 4 0 ++ leBytes 4 1 ++ leBytes 4 2 ++ leBytes 4 3 ++ leBytes 4 65536 ++ leBytes 4 0 ++ leBytes 4 5 ++
       leBytes 4 5 ++ leBytes 4 10
     let s := asking 0x0A03 p (withLoop 0 (fun l => { l with st := .opened }))
     let l := s.tide.loop (fieldAt p 0 1)
     let f := fun i : Nat => signed (fieldAt p (4 + 4 * i) 4)
     Asked s box0 0x0A03 (req 0x0A03 p) ∧ l.st = .opened ∧ l.fixed = false ∧ f 5 ≤ f 6 ∧ 0 ≤ f 3 ∧ f 3 ≤ one16 ∧
     10 ≤ fieldAt p 32 4 ∧ fieldAt p 32 4 ≤ 1000000) ∧
    ((withLoop 0 (fun l => { l with st := .opened })).tide.loop 0).st = .opened ∧ (live.tide.loop 0).st ≠ .opened ∧
    (Asked (asking 0x0A10 [0, 11, 0] live) box0 0x0A10 (req 0x0A10 [0, 11, 0]) ∧
      (live.tide.loop (fieldAt [0, 11, 0] 1 1)).st ≠ .unused) := by decide +kernel

/-! ## Witnesses of the statements about sideband messages -/

def withRoles (l : List PRole) (f : Dp → Dp) : State :=
  liveDp (fun d => f { d with sh := { d.sh with roles := l } })

theorem wit_SidebandAndMctp :
    smbusUp live = true ∧
    (let s := { live with pwr := { live.pwr with state := .ebb } }
     smbusUp s = true ∧ s.pwr.state = .ebb) ∧ (0xA4 : Byte) ≠ 0xA5 ∧ smbusUp State.reset = false ∧
    mctpUp live = true ∧ ((1 : Byte) ≠ 0 ∧ (1 : Byte) ≠ 0xFF) ∧ (0x7E : Byte) ∈ ([0xFF, 0, 0x05, 0x7E] : List Byte) ∧
    16 ≤ (List.replicate 16 (0 : Byte)).length ∧ (live.dp.mail .mgmt).busy = false ∧
    (let s := liveDp (fun d => { d with mb := { d.mb with boxes := d.mb.boxes.map (fun m => { m with busy := true }) } })
     mctpUp s = true ∧ (s.dp.mail .mgmt).busy = true) ∧
    mctpUp State.reset = false ∧ isSteward (withRoles [pRole 0 .steward] id).dp 0 = true ∧
    (let s := liveDp (fun d => { d with mb := { d.mb with half := some ⟨true, 1, 5, 0⟩, mgmtAt := some 0 } })
     s.dp.mb.half.any (fun h => h.since + 60000000000 ≤ s.clk.time) = true ∧
     s.dp.mb.mgmtAt.any (fun a => a + 300000000000 ≤ s.clk.time) = true) := by decide +kernel

theorem wit_SpdmRequestsAnswered :
    ((live.dp.port .a).linkUp = true ∧ saggarStopped live = false ∧ live.boot.spdm = true ∧
      0x13 ∈ [0x12, 0x13] ∧ (live.spdm (.doe .a)).algs = false) ∧
    (let s := { live with sec := { live.sec with spdmA := ⟨some 0x12, true, true⟩ } }
     (s.dp.port .a).linkUp = true ∧ saggarStopped s = false ∧ s.boot.spdm = true ∧ (s.spdm (.doe .a)).caps = true ∧
     (s.spdm (.doe .a)).version = some 0x12 ∧ (s.spdm (.doe .a)).algs = true ∧ 1 ≤ 8 ∧ 8 ≤ 8) ∧
    (let s := { live with boot := { live.boot with spdm := false } }
     saggarStopped s = false ∧ s.boot.spdm = false) ∧
    (let s := { live with boot := { live.boot with selftest := [0, 0x12, 0, 0] } }
     (s.dp.port .a).linkUp = true ∧ saggarStopped s = true) := by decide +kernel

/-! ## Witnesses of the statements about Causeway frames -/

/-- A frame of rank 1 to this device, in session 0 and next in order. -/
def frm (cls : Nat) (claim : BitVec 32) (arg : Nat) : Frame :=
  { cls := cls, src := 1, dst := 0, pool := 0, claim := claim, pairSeq := 0, pairAck := 0, session := 0, replayed := false,
    ackNow := false, hops := 0, seqn := 5, row := 0, posFirst := 0, posLast := 0, unit := 0, arg := arg, port := .ne,
    crcOk := true }

/-- The data path once a frame has arrived. -/
def got (t : FrameType) (bulk : Nat) (f : Frame) (b : FrameBody) (s : State) : Dp := (arrive s.env t bulk f b s.dp).1

/-- Rank 1 is the steward of pool 0 under epoch 1. -/
def ruled (d : Dp) : Dp := { d with sh := { d.sh with sea := d.sh.sea.put 0 { freshSea with claim := 0x101 } } }

/-- InOrder, Accepts and Sequenced, as tests that compute. -/
def inOrd (s : State) (t : FrameType) (bulk : Nat) (f : Frame) : Bool :=
  f.dst.val = s.env.rank && f.src.val != s.env.rank && ringOpen s.env s.dp && f.crcOk && f.linkOk && f.cls = t.cls bulk &&
  (f.cls = 0 || s.boot.ready) && f.session = (s.dp.peer f.src.val).session.toNat % 256 &&
  f.pairSeq = (s.dp.pair f.src.val f.cls).rxNext && (s.dp.pair f.src.val f.cls).held = []

def accepts (s : State) (f : Frame) : Bool :=
  admitted s.dp f.pool && claimValid f.claim && rankOf f.claim = f.src.val && s.dp.claimOf f.pool ≤ f.claim &&
  f.pool != drillHandle

theorem wit_inOrd (s : State) (t : FrameType) (bulk : Nat) (f : Frame) (h : inOrd s t bulk f = true) : InOrder s t bulk f := by
  simp only [inOrd, Bool.and_eq_true, Bool.or_eq_true, decide_eq_true_eq, bne_iff_ne] at h
  obtain ⟨⟨⟨⟨⟨⟨⟨⟨⟨a, b⟩, c⟩, d⟩, w⟩, e⟩, g⟩, i⟩, j⟩, k⟩ := h
  exact ⟨a, b, c, d, w, e, g, i, j, k⟩

theorem wit_accepts (s : State) (f : Frame) (h : accepts s f = true) : Accepts s f := by
  simp only [accepts, Bool.and_eq_true, decide_eq_true_eq, bne_iff_ne] at h
  obtain ⟨⟨⟨⟨a, b⟩, c⟩, d⟩, e⟩ := h
  exact ⟨a, b, c, d, e⟩

theorem wit_FramesArriveInOrderOnce :
    (let e := ringUp.env
     let d := ringUp.dp
     let f := frm 1 0 0
     f.dst.val = e.rank ∧ f.src.val ≠ e.rank ∧ ringOpen e d = true ∧ f.cls = FrameType.sherdDone.cls 3 ∧
     f.linkOk = true ∧ f.crcOk = true ∧ ({ f with linkOk := false } : Frame).linkOk = false ∧
     (f.cls = 0 ∨ e.ready = true) ∧ f.session = (d.peer 1).session.toNat % 256 ∧ FrameType.sherdDone.paired = true ∧
     f.pairSeq = (d.pair 1 1).rxNext ∧ (d.pair 1 1).held = [] ∧
     (0 < ahead 255 (d.pair 1 1).rxNext ∧ ahead 255 (d.pair 1 1).rxNext < 256 ∧ 256 ≤ ahead 256 (d.pair 1 1).rxNext ∧
      0 < ahead 1 (d.pair 1 1).rxNext ∧ 2 ^ 31 ≤ ahead (2 ^ 31) (d.pair 1 1).rxNext)) ∧
    (let d := ringUp.dp.setPair 1 1 { ringUp.dp.pair 1 1 with rxNext := 1 }
     2 ^ 31 ≤ ahead (frm 1 0 0).pairSeq (d.pair 1 1).rxNext) ∧
    ((frm 2 0 0).cls ≠ FrameType.sherdDone.cls 3 ∧ ({ frm 1 0 0 with dst := 1 } : Frame).dst.val ≠ ringUp.env.rank ∧
      ({ frm 1 0 0 with src := 0 } : Frame).src.val = ringUp.env.rank) ∧
    Reaches .e2eAck 3 (frm 2 0 0) .none ringUp (got .e2eAck 3 (frm 2 0 0) .none ringUp) ∧
    Reaches .e2eNak 3 (frm 2 0 0) .none ringUp (got .e2eNak 3 (frm 2 0 0) .none ringUp) := by and_intros <;> decide +kernel

theorem wit_FramesArriveInOrderOnce_effects :
    (inOrd ringUp .sherdDone 3 (frm 1 0 0) = true ∧ FrameType.sherdDone.paired = true) ∧
    (let f := frm 2 0 0
     let s := ringUp
     f.dst.val = s.env.rank ∧ f.src.val ≠ s.env.rank ∧ ringOpen s.env s.dp = true ∧ f.linkOk = true ∧ f.crcOk = true ∧ f.cls = 2 ∧
     s.boot.ready = true ∧ f.session = (s.dp.peer f.src.val).session.toNat % 256 ∧
     firstHop s.env (rxOn f.port s.dp) s.env.rank f.src.val = some (.ne, 1)) := by and_intros <;> decide +kernel

theorem wit_AuthorityFrames :
    (let s := ringUp
     let b : FrameBody := .roles 2 5 0 []
     let f := { frm 0 0 0 with session := 5 }
     let k := s.onDp (fun e d => noteSession e 1 5 2 d)
     (ringOpen s.env s.dp && f.crcOk && f.linkOk && f.cls = 0 && f.dst.val = s.env.rank && f.src.val != s.env.rank) = true ∧
     Reaches .heartbeat 3 f b k (got .heartbeat 3 f b k)) ∧
    (let f := frm 0 0x101 0
     let d := got .claim 3 f .none ringUp
     Reaches .claim 3 f .none ringUp d ∧ admitted d f.pool = true ∧ claimValid f.claim = true ∧
     rankOf f.claim = f.src.val ∧ f.pool ≠ drillHandle ∧ d.claimOf f.pool ≤ f.claim) ∧
    (let f := frm 0 0x101 0
     let s := ringDp (fun d => { d with sh := { d.sh with sea := d.sh.sea.put 0 { freshSea with claim := 0x102 } } })
     let d := got .claim 3 f .none s
     Reaches .claim 3 f .none s d ∧ admitted d f.pool = true ∧ f.claim < d.claimOf f.pool) ∧
    (let f := { frm 0 0x101 0 with pool := 1 }
     let d := got .claim 3 f .none ringUp
     Reaches .claim 3 f .none ringUp d ∧ admitted d f.pool = false) ∧
    (let f := frm 0 0x101 0
     Reaches .fenced 3 f .none ringUp (got .fenced 3 f .none ringUp) ∧ claimValid f.claim = true ∧
     f.pool ≠ drillHandle) := by and_intros <;> decide +kernel

theorem wit_AuthorityFrames_roles :
    (let f := frm 0 0x101 0
     let s := ringDp ruled
     let d := got .relinquish 3 f .none s
     Reaches .relinquish 3 f .none s d ∧ admitted d f.pool = true ∧ stewardRank d f.pool = some f.src.val ∧
     stewardRank (got .relinquish 3 f .none ringUp) f.pool ≠ some f.src.val ∧
     Reaches .relinquish 3 f .none ringUp (got .relinquish 3 f .none ringUp)) ∧
    (let f := frm 0 0x200 0
     let s := ringDp ruled
     let d := got .handover 3 f .none s
     Reaches .handover 3 f .none s d ∧ admitted d f.pool = true ∧ stewardRank d f.pool = some f.src.val ∧
     rankOf f.claim = s.env.rank ∧ epochOf f.claim = epochOf (d.claimOf f.pool) + 1) ∧
    Reaches .ringExit 3 (frm 0 0 3) .none ringUp (got .ringExit 3 (frm 0 0 3) .none ringUp) ∧
    Reaches .control 3 (frm 2 0 0x100) .claimAck ringUp (got .control 3 (frm 2 0 0x100) .claimAck ringUp) ∧
    (let f := frm 2 0x101 0
     let v : ViewRec := .member 1 .absent
     let d := got .control 3 f (.view v) ringUp
     Reaches .control 3 f (.view v) ringUp d ∧ admitted d f.pool = true ∧ isSteward d f.pool = false ∧
     d.claimOf f.pool ≤ f.claim ∧ rankOf f.claim = f.src.val ∧
     (let g := { f with pool := 1 }
      Reaches .control 3 g (.view v) ringUp (got .control 3 g (.view v) ringUp) ∧
      admitted (got .control 3 g (.view v) ringUp) g.pool = false)) := by and_intros <;> decide +kernel

theorem wit_AuthorityFrames_effects :
    (inOrd ringUp .heartbeat 3 (frm 0 0 0) = true ∧ (ringUp.dp.peer 1).session = 0 ∧ (ringUp.dp.peer 1).boot = 0) ∧
    (∀ t ∈ [FrameType.claim, .fenced], inOrd ringUp t 3 (frm 0 0x101 0) = true ∧ accepts ringUp (frm 0 0x101 0) = true) ∧
    (let s := ringDp (fun d => { d with sh := { d.sh with sea := d.sh.sea.put 0 { freshSea with claim := 0x102 } } })
     let f := frm 0 0x101 0
     inOrd s .claim 3 f = true ∧ admitted s.dp f.pool = true ∧ claimValid f.claim = true ∧ rankOf f.claim = f.src.val ∧
     f.claim < s.dp.claimOf f.pool) ∧
    (let s := ringDp ruled
     let f := frm 0 0x200 0
     admitted s.dp f.pool = true ∧ stewardRank s.dp f.pool = some f.src.val ∧ inOrd s .relinquish 3 f = true ∧
     inOrd s .handover 3 f = true ∧ rankOf f.claim = s.env.rank ∧ epochOf f.claim = epochOf (s.dp.claimOf f.pool) + 1 ∧
     s.dp.lane.usable = true) ∧
    (inOrd ringUp .ringExit 3 (frm 0 0 3) = true ∧ (frm 0 0 3).arg % 16 ≠ ringUp.env.rank) ∧
    (let k : Contest := { claim := 0x100, acks := 0, lane := false, giver := none }
     let s := ring4Dp (fun d => { d with sh := { d.sh with roles := [{ pRole 0 .none with contest := some k }] } })
     let f := frm 2 0 0x100
     inOrd s .control 3 f = true ∧ (s.dp.roleD f.pool).contest = some k ∧ k.claim = BitVec.ofNat 32 f.arg ∧ k.lane = false ∧
     2 * (maskList 16 (k.acks ||| 2 ^ f.src.val)).length ≤ (memberRanks s.dp.sh.reg).length) ∧
    (inOrd ringUp .control 3 (frm 2 0x101 0) = true ∧ accepts ringUp (frm 2 0x101 0) = true ∧
      isSteward ringUp.dp 0 = false) := by and_intros <;> decide +kernel

/-- On the ring, with this part in pool 0. -/
def ringRole (x : PRole) : State := ringDp (fun d => { d with sh := { d.sh with roles := [x] } })

theorem wit_TicketAndJournalFrames_steward :
    (∀ b ∈ [false, true],
      let f := frm 1 0 0
      let x := { pRole 0 .steward with stopped := b }
      let s := ringRole x
      let d := got .ticketRequest 3 f (.ticket 1 0 0 1 1) s
      Reaches .ticketRequest 3 f (.ticket 1 0 0 1 1) s d ∧ d.role f.pool = some x ∧ x.role = .steward ∧
      x.stopped = b ∧ windowHolds d f 1 = false) ∧
    (let f := frm 1 0x100 0
     let x := { pRole 0 .steward with sent := [[]] }
     let s := ringRole x
     let d := got .mirrorAck 3 f .none s
     Reaches .mirrorAck 3 f .none s d ∧ d.role f.pool = some x ∧ f.claim = x.claim ∧ f.arg ≠ mgAppoint ∧
     x.sent = [] :: []) ∧
    (let f := frm 1 0 0
     let v : Resolving := { since := 0, waiting := 2, items := [], commits := [] }
     let s := ringRole { pRole 0 .steward with resolving := some v }
     let d := got .resolveReply 3 f (.resolve [] []) s
     Reaches .resolveReply 3 f (.resolve [] []) s d ∧ f.pool ≠ drillHandle ∧
     (d.roleD f.pool).resolving = some v ∧ v.waiting.testBit f.src.val = true ∧ v.waiting = 2 ^ f.src.val) ∧
    Reaches .sherdDone 3 (frm 1 0 0) .none ringUp (got .sherdDone 3 (frm 1 0 0) .none ringUp) := by and_intros <;> decide +kernel

theorem wit_TicketAndJournalFrames :
    (let f := frm 1 0x101 0
     let d := got .ticketGrant 3 f .none ringUp
     admitted d f.pool = true ∧ claimValid f.claim = true ∧ rankOf f.claim = f.src.val ∧ d.claimOf f.pool ≤ f.claim ∧
     Reaches .ticketGrant 3 f .none ringUp d ∧
     Reaches .commitNotice 3 f (.registry none) ringUp d ∧ Reaches .dropNotice 3 f .none ringUp d ∧
     Reaches .resolve 3 f .none ringUp d ∧ f.pool ≠ drillHandle ∧
     Reaches .commitNotice 3 f (.registry (some Registry.reset)) ringUp d ∧
     isSteward (raise ringUp.env f.pool f.claim 2 d) 0 = false) ∧
    (let f := frm 1 0x101 0
     let s := ringDp (fun d => ruled { d with sh := { d.sh with roles := [{ pRole 0 .standby with claim := 0x101 }] } })
     let d := got .mirrorGroup 3 f (.records []) s
     admitted d f.pool = true ∧ d.claimOf f.pool ≤ f.claim ∧ Reaches .mirrorGroup 3 f (.records []) s d ∧
     f.arg = mgGroup ∧ isStandby (raise s.env f.pool f.claim 2 d) f.pool = true) ∧
    (let f := frm 1 0x101 0
     let s := ringDp (fun d => { d with sh := { d.sh with sea := d.sh.sea.put 0 { freshSea with claim := 0x102 } } })
     let d := got .ticketGrant 3 f .none s
     f.claim < d.claimOf f.pool ∧ admitted d f.pool = true ∧ claimValid f.claim = true ∧ rankOf f.claim = f.src.val ∧
     Reaches .ticketGrant 3 f .none s d) := by and_intros <;> decide +kernel

/-- A ticket of this head that waits for its grant. -/
def ht0 : HTicket :=
  { id := 1, pool := 0, gen := 0, row := 0, posFirst := 0, posLast := 0, dataMask := 1, flags := 0, group := 0, groupKey := 1,
    groupSize := 1, unit := 0, parts := [], seqn := 5, claim := 0x101, stage := .requested, want := [], base := [], noBase := [],
    units := [], refused := [], moves := false }

/-- A granted ticket of rank 1, as this steward holds it. -/
def ticket0 : STicket :=
  { pool := 0, seqn := 5, row := 0, posFirst := 0, posLast := 0, dataMask := 1, flags := 0, group := 5, groupKey := 1,
    groupSize := 1, unit := 0, cover := 1, head := 1, reqId := 0, writers := 7, done := 1, missing := 0, durable := true,
    granted := true, grantedAt := 0, closed := false }

def jrec0 : JRec :=
  { type := .intent, pool := 0, seqn := 5, time := 0, claim := 0x100, group := 5, row := 0, posFirst := 0, posLast := 0,
    present := 7, dataMask := 1, layoutGen := 0, head := 1, flags := 0, arg := 0 }

theorem wit_TicketAndJournalFrames_effects :
    (let x := pRole 0 .steward
     let s := ringRole x
     inOrd s .ticketRequest 3 (frm 1 0 0) = true ∧ s.dp.role 0 = some x ∧ x.role = .steward ∧ x.stopped = false ∧
     (s.dp.sh.reg.pool 0).any (fun p => p.reshape = none) = true) ∧
    (let f := frm 1 0x101 1
     let s := ringDp (fun d => { d with sh := { d.sh with htickets := [ht0] } })
     accepts s f = true ∧ inOrd s .ticketGrant 3 f = true ∧
     s.dp.sh.htickets.find? (fun t => t.id % 2 ^ 32 = f.arg % 2 ^ 32 && t.pool = f.pool) = some ht0 ∧
     s.dp.hticket 1 = some ht0 ∧ ht0.stage = .requested) ∧
    (let f := frm 1 0x101 0
     accepts ringUp f = true ∧ inOrd ringUp .commitNotice 3 f = true ∧ inOrd ringUp .dropNotice 3 f = true ∧
     inOrd ringUp .resolve 3 f = true ∧ ringUp.dp.map.green.any (fun g =>
       g.pool = f.pool && g.seqn = f.seqn && hasFlag g.flags fGrouped) = false) ∧
    (let f := frm 1 0x101 mgGroup
     let s := ringDp (fun d => ruled { d with sh := { d.sh with roles := [{ pRole 0 .standby with claim := 0x101 }] } })
     accepts s f = true ∧ inOrd s .mirrorGroup 3 f = true ∧ f.arg = mgGroup ∧ f.claim = s.dp.claimOf f.pool ∧
     isStandby s.dp f.pool = true) ∧
    (let f := frm 1 0x100 0
     let x := { pRole 0 .steward with sent := [[jrec0]] }
     let s := ringRole x
     inOrd s .mirrorAck 3 f = true ∧ s.dp.role f.pool = some x ∧ x.role = .steward ∧ f.claim = x.claim ∧ f.arg ≠ mgAppoint ∧
     x.sent = [jrec0] :: [] ∧ (∀ r ∈ [jrec0], r.type = .intent)) ∧
    (let f := frm 1 0 0
     let v : Resolving := { since := 0, waiting := 6, items := [], commits := [] }
     let s := ringRole { pRole 0 .steward with resolving := some v }
     inOrd s .resolveReply 3 f = true ∧ f.pool ≠ drillHandle ∧ (s.dp.roleD f.pool).resolving = some v ∧
     v.waiting.testBit f.src.val = true ∧ v.waiting ≠ 2 ^ f.src.val) ∧
    (let s := ringDp (fun d => { d with sh := { d.sh with stickets := [ticket0] } })
     inOrd s .sherdDone 3 (frm 1 0 0) = true ∧ s.dp.sticket 0 5 = some ticket0) := by and_intros <;> decide +kernel

/-- A fetch of one block from rank 1, and a block whose tag is right or wrong. -/
def fetch0 (again : Bool) : Fetch :=
  { pool := 0, gen := 0, row := 0, unit := 0, pos := 0, rank := 1, localBlk := 0, purpose := .base 0 0 0, sentAt := 0,
    queued := true, again := again, tried := [], cls := 1, task := .other }

def blk0 (ref : BitVec 32) : Blk := ⟨[], mkTag 0 ref (guard64 [])⟩

def withFetch (x : Fetch) : State := ringDp (fun d => { d with sh := { d.sh with fetches := [x] } })

theorem wit_DataJoinAndControlFrames_data :
    overLimit live.dp live.env.rank (frm 3 0x101 0) = true ∧
    (let f := frm 3 0x101 0
     let s := ringDp id
     let d := got .sherdData 3 f (.blk (blk0 0)) s
     overLimit s.dp s.env.rank f = false ∧ Reaches .sherdData (bulkClass f) f (.blk (blk0 0)) s d ∧
     admitted d f.pool = true ∧ claimValid f.claim = true ∧ d.claimOf f.pool ≤ f.claim ∧ f.pool ≠ drillHandle) ∧
    Reaches .sherdRefused 3 (frm 2 0 1) .none ringUp (got .sherdRefused 3 (frm 2 0 1) .none ringUp) ∧
    Reaches .readRequest 3 (frm 2 0 0) (.blocks [0]) ringUp (got .readRequest 3 (frm 2 0 0) (.blocks [0]) ringUp) ∧
    (let f := frm 3 0 0
     let x := fetch0 false
     let s := withFetch x
     let d := got .readData 3 f (.blk (blk0 0)) s
     Reaches .readData (bulkClass f) f (.blk (blk0 0)) s d ∧ repliedFetch d f = some x ∧
     c8Ok s.env d x (blk0 0) = true ∧ x.unit < 14 ∧ tagApp (blk0 0).tag ≠ noDataApp) ∧
    (let f := frm 3 0 0
     let x := fetch0 true
     let s := withFetch x
     let d := got .readData 3 f (.blk (blk0 9)) s
     Reaches .readData (bulkClass f) f (.blk (blk0 9)) s d ∧ repliedFetch d f = some x ∧
     c8Ok s.env d x (blk0 9) = false ∧ x.again = true) ∧
    (let f := frm 2 0 0
     let s := withFetch (fetch0 false)
     let d := got .readFail 3 f .none s
     Reaches .readFail 3 f .none s d ∧ repliedFetch d f = some (fetch0 false) ∧
     repliedFetch (got .readFail 3 f .none ringUp) f = none ∧
     Reaches .readFail 3 f .none ringUp (got .readFail 3 f .none ringUp)) := by and_intros <;> decide +kernel

theorem wit_DataJoinAndControlFrames :
    (let f := frm 2 0x101 1
     Reaches .joinRequest 3 f (.join 1 2 3) ringUp (got .joinRequest 3 f (.join 1 2 3) ringUp)) ∧
    (let f := frm 2 0x101 0
     let b : FrameBody := .admission [] [] [] none
     let d := got .joinAdmit 3 f b ringUp
     Reaches .joinAdmit 3 f b ringUp d ∧ claimValid f.claim = true ∧ rankOf f.claim = f.src.val ∧
     d.claimOf f.pool ≤ f.claim ∧ isSteward d f.pool = false) ∧
    (∀ b ∈ [FrameBody.demand 1, .request 1, .grant 1, .rate 1, .order .worn, .anchor, .rebase (.propose 0x101),
        .rebase (.ack 0x101)],
      let f := frm 2 0 0
      Reaches .control 3 f b ringUp (got .control 3 f b ringUp)) ∧
    isSteward (ringRole (pRole 0 .steward)).dp 0 = true := by and_intros <;> decide +kernel


/-- On the ring with pool 1, which lies on this device alone, and with changes. -/
def ringLone (f : Dp → Dp) : State :=
  ringDp (fun d => f { d with sh := { d.sh with
    reg := { d.sh.reg with pools := d.sh.reg.pools ++ [lone] }, admitted := [0, 1] } })

/-- A frame of pool 1. -/
def frm1 (cls : Nat) (claim : BitVec 32) (arg : Nat) : Frame := { frm cls claim arg with pool := 1 }

theorem wit_DataJoinAndControlFrames_effects :
    (let f := frm1 3 0x101 0
     let s := ringLone id
     let l := s.dp.ticketLay lone f.seqn
     inOrd s .sherdData (bulkClass f) f = true ∧ accepts s f = true ∧ overLimit s.dp s.env.rank f = false ∧
     s.dp.sh.reg.pool f.pool = some lone ∧ noSherds s.dp = false ∧
     l.holders ⟨f.row, f.unit, f.posFirst⟩ = [(s.env.rank, 0)] ∧ c3Ok l f (blk0 0) = true) ∧
    (let t := { ht0 with stage := .sent }
     let s := ringDp (fun d => { d with sh := { d.sh with htickets := [t] } })
     let f := frm 2 0 1
     inOrd s .sherdRefused 3 f = true ∧ headTicket s.dp f.pool f.seqn = some t ∧ s.dp.hticket t.id = some t ∧
     (s.dp.sh.reg.pool f.pool).isSome = true ∧ t.stage = .sent ∧ t.refused.get 0 (f.src.val * 16 + f.unit) < 2) ∧
    (let s := ringLone id
     let f := frm1 2 0 0
     inOrd s .readRequest 3 f = true ∧ s.dp.sh.reg.pool f.pool = some lone ∧
     ((lone.layGen (lone.genOf 0)).units f.row).contains f.unit = true ∧
     clearFor s.dp lone (lone.layGen (lone.genOf 0)) f.row s.env.rank = true ∧ admitted s.dp f.pool = true) ∧
    (let x := { fetch0 false with purpose := .cmd key0 0 }
     let s := ringDp (fun d => { d with vq := (withCmds queue0 [cmd0]).dp.vq, sh := { d.sh with fetches := [x] } })
     repliedFetch s.dp (frm 3 0 0) = some x ∧ x.purpose = .cmd key0 0 ∧ s.dp.cmd key0 = some cmd0 ∧
     inOrd s .readData (bulkClass (frm 3 0 0)) (frm 3 0 0) = true ∧ x.unit < 14 ∧ tagApp (blk0 0).tag ≠ noDataApp ∧
     c8Ok s.env s.dp x (blk0 0) = true) ∧
    (let x := { fetch0 false with purpose := .cmd key0 0, pool := 1 }
     let s := withPools none (pRole 1 .none) (fun d => { d with
       vq := (withCmds queue0 [cmd0]).dp.vq, sh := { d.sh with fetches := [x] } })
     repliedFetch s.dp (frm1 2 0 0) = some x ∧ s.dp.cmd key0 = some cmd0 ∧ inOrd s .readFail 3 (frm1 2 0 0) = true ∧
     s.dp.sh.reg.pool x.pool = some (pool1 none) ∧ ((pool1 none).layGen x.gen).isPq x.row = true) := by
  and_intros <;> decide +kernel

theorem wit_DataJoinAndControlFrames_control :
    (let f := frm 2 0x101 0
     inOrd ringUp .joinAdmit 3 f = true ∧ claimValid f.claim = true ∧ rankOf f.claim = f.src.val ∧
     ringUp.dp.claimOf f.pool ≤ f.claim ∧ inOrd ringUp .joinRequest 3 f = true ∧ inOrd ringUp .control 3 f = true) ∧
    (let s := ringRole (pRole 0 .steward)
     inOrd s .control 3 (frm 2 0 0) = true ∧ (s.dp.sh.reg.pool 0).isSome = true ∧ isSteward s.dp 0 = true) ∧
    (let j : SdJob := { id := 1, pool := 1, lba := 0, len := 1, seqn := 5, state := .erasing, startedAt := 0, blocksTotal := 1,
                        blocksDone := 1, rowsTotal := 1, rowsDone := 0, pendingMask := 2, toList := 0, elapsedMs := 0, left := false }
     let s := ringDp (fun d => { d with sh := { d.sh with
       roles := [pRole 0 .steward], regNext := { d.sh.regNext with jobs := [j] } } })
     let r : SdReport := ⟨1, 1, false, true⟩
     inOrd s .control 3 (frm 2 0 0) = true ∧ isSteward s.dp 0 = true ∧
     s.dp.sh.regNext.jobs.find? (fun j => j.id = 1) = some j ∧ sdEnded j = false ∧
     j.pendingMask.testBit (frm 2 0 0).src.val = true ∧ r.final = true) ∧
    (let s := ring4Dp (fun d => { d with sh := { d.sh with rebase := some (0x101, 1, none) } })
     inOrd s .control 3 (frm 2 0 0) = true ∧ s.dp.sh.rebase = some (0x101, 1, none) ∧
     (memberRanks s.dp.sh.reg).all (fun r => (1 ||| 2 ^ (frm 2 0 0).src.val).testBit r) = false) := by
  and_intros <;> decide +kernel

/-- MEMBER_ADD of rank 4, sent by rank 1, whose port 0 holds the shoal lease. -/
def order1 : Order :=
  { opcode := 0x0703, payload := [4, 0, 0, 0, 0, 0, 0, 0] ++ leBytes 8 5, rank := 1, port := 0, session := 9, token := 7 }

def boss1 : State := { boss false with dp := { (boss false).dp with sh := { (boss false).dp.sh with
  regNext := { (boss false).dp.sh.regNext with leases := [⟨0, 4, 2 * live.clk.time, live.clk.time⟩] } } } }

theorem wit_DataJoinAndControlFrames_order :
    inOrd boss1 .control 3 (frm 2 0 0) = true ∧ isSteward boss1.dp 0 = true ∧ Sequenced boss1 order1 ∧
    order1.opcode = 0x0703 ∧ fieldAt order1.payload 0 1 ≤ 15 := by
  refine ⟨by decide +kernel, by decide +kernel, ⟨?_, ?_, ?_, ?_, ?_, ?_⟩, ?_, ?_⟩ <;> decide +kernel

/-! ## Witnesses of the statements about links, the lane and timers -/

/-- One port of the ring changed. -/
def ringLink (f : CwLink → CwLink) : State := ring4Dp (fun d => d.setLink .ne (f (d.link .ne)))

theorem wit_LinksTrainAndFail :
    (let s := ringLink (fun l => { l with up := false })
     ringOpen s.env s.dp = true ∧ (s.dp.link .ne).up = false ∧ (s.dp.link .ne).held = false ∧
     (s.dp.link .ne).heldUntil = 0 ∧ bestLanes 0x03 ≠ 0 ∧ (s.dp.link .ne).downAt + 100000000 ≤ s.clk.time) ∧
    (let s := ringLink (fun l => { l with replay := [(0, .smbusNak)] })
     ringOpen s.env s.dp = true ∧ (s.dp.link .ne).up = true ∧ (s.dp.link .ne).replay ≠ [] ∧
     (s.dp.link .ne).ackAt + 10000 ≤ s.clk.time ∧ 0x0F &&& (s.dp.link .ne).inUse ≠ (s.dp.link .ne).inUse) ∧
    (let s := ringLink (fun l => { l with ackAt := live.clk.time })
     ringOpen s.env s.dp = true ∧ (s.dp.link .ne).up = true ∧ s.clk.time < (s.dp.link .ne).ackAt + 10000) ∧
    (let s := ringLink (fun l => { l with heldUntil := live.clk.time })
     (s.dp.link .ne).heldUntil ≠ 0 ∧ (s.dp.link .ne).heldUntil ≤ s.clk.time) ∧
    (let s := ring4
     let r : Rank := 1
     let w := if eastPort .ne then nFromEast .ne s.env.rank r.val else 0
     let d := rxOn .ne s.dp
     let d := noteSession s.env r.val 5 2 d
     let d := d.setPeer r.val { d.peer r.val with serial := 9, out := false }
     let d := d.setLink .ne { d.link .ne with partner := some r.val, serial := 9, n := w }
     let d := { d with ring := { d.ring with n := agreedN s.env d } }
     ringOpen s.env s.dp = true ∧ (s.dp.link .ne).up = true ∧ r.val ≠ s.env.rank ∧ wiringBad s.env d .ne = false) ∧
    (let s := ring4Dp (fun d => { d with ring := { d.ring with topo := [(1, (5, []))] } })
     ((s.dp.ring.topo.find 1).map Prod.fst).any (fun w => 5 ≤ w) = true ∧
     ((s.dp.ring.topo.find 1).map Prod.fst).any (fun w => 6 ≤ w) = false) ∧
    (let f := { frm 1 0 0 with dst := 1, src := 3, hops := 13 }
     f.dst.val ≠ ring4.env.rank ∧ f.linkOk = true ∧ ({ f with linkOk := false } : Frame).linkOk = false ∧ f.hops + 1 < 15 ∧
     firstHop ring4.env (rxOn f.port ring4.dp) ring4.env.rank f.dst.val = some (.ne, 1) ∧
     ringOpen ring4.env ring4.dp = true ∧ (ring4.dp.link .ne).up = true ∧ (ring4.dp.link .ne).replay.length < 128 ∧
     (ring4.dp.link .ne).txq = [] ∧
     15 ≤ ({ f with hops := 14 } : Frame).hops + 1) := by and_intros <;> decide +kernel

theorem wit_LinkReplayAndEndToEndTimers :
    (let s := ringLink (fun l => { l with replay := [(0, .smbusNak)], rxNew := true })
     ringOpen s.env s.dp = true ∧ (s.dp.link .ne).up = true ∧
     (s.dp.link .ne).replay.findIdx? (fun x => x.1 = 0) = some 0 ∧ (s.dp.link .ne).txq = [] ∧
     (s.dp.link .ne).rxNew = true ∧ (ring4.dp.link .ne).rxNew = false) ∧
    (let s := ringLink (fun l => { l with replay := [(0, .smbusNak)], txq := [.link .ne (.ack 1)] })
     (s.dp.link .ne).replay.findIdx? (fun x => x.1 = 0) = some 0 ∧ (s.dp.link .ne).txq = [.link .ne (.ack 1)] ∧
     (s.dp.link .ne).replay.length ≤ 128) ∧
    (let f := frm 1 0 0
     let s := ring4Dp (fun d => d.setPair 1 1 { d.pair 1 1 with held := [(.sherdDone, f, .none)], gapAt := some 0, sinceAck := 1, unacked := [(.sherdDone, f, .none)] })
     let p := s.dp.pair 1 1
     ringOpen s.env s.dp = true ∧ p.held ≠ [] ∧ p.gapAt.any (fun t => t + 100000 ≤ s.clk.time) = true ∧
     0 < p.sinceAck ∧ p.unacked ≠ [] ∧ p.txAt + 200000 ≤ s.clk.time) ∧
    (let s := ring4Dp (fun d => d.setPair 1 1 { d.pair 1 1 with txAt := ring4.clk.time })
     (s.dp.pair 1 1).sinceAck = 0 ∧ s.clk.time < (s.dp.pair 1 1).txAt + 200000) ∧
    ((ring4.dp.link .ne).nakked = false ∧ (ring4.dp.link .ne).up = true ∧ (ring4.dp.link .ne).replay.length < 128 ∧
     (ring4.dp.link .ne).txq = [] ∧ ((ringLink (fun l => { l with nakked := true })).dp.link .ne).nakked = true) := by
  and_intros <;> decide +kernel

/-- A claim of rank 1 under epoch 1 for pool 0, and rank 1's lane check. -/
def laneClaim1 : BitVec 49 := laneFrame 0 0x101
def laneCheck1 : BitVec 49 := laneFrame 0 0x001

theorem wit_ClaimLaneCommands :
    (laneListens live.env = true ∧ laneGood laneClaim1 = true ∧ epochOf (laneClaim laneClaim1) ≠ 0 ∧
      claimValid (laneClaim laneClaim1) = true ∧ live.boot.ready = true ∧ live.boot.safe = false ∧
      State.reset.boot.ready = false) ∧ laneGood 0 = false ∧
    (laneGood laneCheck1 = true ∧ epochOf (laneClaim laneCheck1) = 0 ∧ lanePool laneCheck1 = 0 ∧
      rankOf (laneClaim laneCheck1) < 16) ∧
    (let s := liveDp (fun d => { d with lane := { d.lane with tx := [laneClaim1] } })
     laneListens s.env = true ∧ s.dp.lane.stuck = false ∧ s.boot.fw = true ∧ s.env.tide = false ∧
     s.dp.lane.tx = laneClaim1 :: [] ∧ s.dp.lane.usable = true ∧
     s.dp.lane.highAt + 64000 < s.clk.time) ∧
    (let s := liveDp (fun d => { d with lane := { d.lane with highAt := live.clk.time } })
     laneListens s.env = true ∧ s.dp.lane.stuck = false ∧ s.clk.time ≤ s.dp.lane.highAt + 64000) ∧
    (let k : Contest := { claim := 0x200, acks := 1, lane := true, giver := none }
     let s := liveDp (fun d => { d with
       lane := { d.lane with tx := [laneClaim1] }
       sh := { d.sh with roles := [{ pRole 0 .none with contest := some k }] } })
     s.dp.lane.tx = laneClaim1 :: [] ∧ (s.dp.roleD (lanePool laneClaim1)).contest = some k ∧
     ¬ k.claim < s.dp.claimOf (lanePool laneClaim1)) ∧
    live.dp.lane.turnAt + 1000000000 ≤ live.clk.time ∧ live.dp.sh.roles = [] ∧
    (live.dp.lane.usable = true ∧ live.dp.lane.lastCheck + 3000000000 ≤ live.clk.time) ∧
    (let s := liveDp (fun d => { d with lane := { d.lane with stuck := true } })
     laneListens s.env = true ∧ s.dp.lane.stuck = true) ∧
    (let s := { live with pwr := { live.pwr with vccqfOk := true }, boot := { live.boot with ready := false } }
     laneListens s.env = true ∧ s.boot.ready = false) := by and_intros <;> decide +kernel

/-- On the ring of four, with this part in pool 0. -/
def role4 (x : PRole) : State := ring4Dp (fun d => { d with sh := { d.sh with roles := [x] } })

theorem wit_RoleTimers_present :
    (ring4.boot.ready = true ∧ ring4.boot.safe = false ∧ ring4.pwr.state ∈ [PState.flood, .slack, .neap] ∧
      ringOpen ring4.env ring4.dp = true ∧ anyLink ring4.dp = true ∧ ring4.dp.ring.hbAt + 240000 ≤ ring4.clk.time) ∧
    (let s := ring4Dp (fun d => d.setPeer 1 { d.peer 1 with lastHb := 0 })
     ringOpen s.env s.dp = true ∧ (1 : Rank).val ≠ s.env.rank ∧ (s.dp.peer 1).heard = true ∧
     (s.dp.peer 1).silent = false ∧ (s.dp.peer 1).lastHb + 2000000 ≤ s.clk.time) ∧
    (let s := ring4Dp (fun d => { ruled d with sh := { (ruled d).sh with mentioned := [(0, 0)] } })
     stewardRank s.dp 0 = some 1 ∧ s.dp.sh.mentioned.find 0 = some 0 ∧ 1 ≠ s.env.rank ∧ present s.env s.dp 1 = true ∧
     admitted s.dp 0 = true ∧ 0 + 2000000 ≤ s.clk.time ∧ s.dp.sh.relinquished.contains 0 = false) ∧
    (live.dp.sh.reg.pool 0 = some (Registry.reset.pools.head (by decide)) ∧
      mayContend live.env live.dp (Registry.reset.pools.head (by decide)) = true ∧ live.env.tide = false ∧
      formClaim live.env live.dp 0 = some 0x100 ∧ live.env.rank < 16 ∧ live.dp.lane.usable = true) ∧
    (live.boot.ready = true ∧ ({ live.boot with settled := false } : Boot).settled = false ∧
      live.boot.readyAt + 500000000 ≤ live.clk.time ∧ State.reset.clk.time < State.reset.boot.readyAt + 500000000) := by
  and_intros <;> decide +kernel

theorem wit_RoleTimers :
    (let x := { pRole 0 .steward with standby := some 1 }
     let s := ring4Dp (fun d =>
       { d.setPeer 1 { d.peer 1 with lastHb := 0, silent := true } with
         sh := { d.sh with roles := [x], sea := d.sh.sea.put 0 { freshSea with claim := 0x100 } } })
     s.dp.role 0 = some x ∧ x.standby = some 1 ∧ x.role = .steward ∧ present s.env s.dp 1 = false ∧
     (s.dp.peer 1).lastHb + 4000000 ≤ s.clk.time ∧ s.dp.claimOf 0 = x.claim ∧ s.dp.lane.usable = true) ∧
    (let x := pRole 0 .steward
     let s := role4 x
     s.dp.role 0 = some x ∧ x.role = .steward ∧ x.handover = none ∧ x.appoint = none ∧ x.standby = none ∧
     (s.dp.sh.reg.pool 0).any (fun p => appointee s.env s.dp p = some 1) = true) ∧
    (let x := { pRole 0 .steward with healthy := some 0 }
     let s := role4 x
     s.dp.role 0 = some x ∧ (s.dp.sh.reg.pool 0).any (fun p => p.prefSteward = 1) = true ∧ x.role = .steward ∧
     x.stopped = false ∧ x.handover = none ∧ 1 ≠ s.env.rank ∧ (memberRanks s.dp.sh.reg).length ≤ 4 ∧
     x.healthy.any (fun t => t + 60000000000 ≤ s.clk.time) = true ∧ healthyNow s.env s.dp 0 1 = true ∧
     epochOf (s.dp.claimOf 0) < epochMax) ∧
    (let h : Handover := { target := 1, since := 0, sentAt := none, byOrder := none }
     let x := { pRole 0 .steward with handover := some h, standby := some 1 }
     let s := role4 x
     s.dp.role 0 = some x ∧ x.handover = some h ∧ x.standby = some h.target ∧ h.sentAt = none ∧
     h.since + 50000000 ≤ s.clk.time ∧ h.since + 70000000 ≤ s.clk.time ∧
     ({ h with sentAt := some 0 } : Handover).sentAt.any (fun t => t + 20000000 ≤ s.clk.time) = true) ∧
    (let v : Resolving := { since := 0, waiting := 6, items := [], commits := [] }
     let s := role4 { pRole 0 .steward with resolving := some v }
     (s.dp.roleD 0).resolving = some v ∧ v.waiting.testBit (1 : Rank).val = true ∧ v.since + 10000000 ≤ s.clk.time) := by
  and_intros <;> decide +kernel

def order0 : Order := { opcode := 0x0101, payload := [], rank := 0, port := 0, session := 9, token := 7 }

def drill0 : Drill :=
  { pool := 0, order := none, since := 0, stepAt := 0, standby := 0, oldClaim := 0x101, newClaim := 0x200, asked := 2,
    fencedOk := 0, accepted := 0, noReply := 0 }

theorem wit_TicketAndOrderTimers :
    (let s := ring4Dp (fun d => { d with sh := { d.sh with roles := [pRole 0 .steward], stickets := [ticket0] } })
     s.dp.sticket 0 5 = some ticket0 ∧ (s.dp.sh.reg.pool 0).isSome = true ∧ isSteward s.dp 0 = true ∧
     (ticket0.head = noHead ∨ present s.env s.dp ticket0.head = true) ∧
     ticket0.granted = true ∧ ticket0.closed = false ∧ ticket0.grantedAt + s.param 0x0603 * 1000000 ≤ s.clk.time) ∧
    (let s := liveDp (fun d => { d with sh := { d.sh with noSteward := [(0, 0)] } })
     stewardOf s.env s.dp 0 = none ∧
     (s.dp.sh.noSteward.find 0).any (fun t => t + s.param 0x0603 * 1000000 ≤ s.clk.time) = true) ∧
    (let s := liveDp (fun d => { d with sh := { d.sh with forwarded := [(order0, 0, 1)] } })
     s.dp.sh.forwarded.find? (fun x => x.1.session = 9 && x.1.token = 7 && x.1.port != ownPort) =
       some (order0, 0, 1) ∧ 0 + s.param 0x0603 * 1000000 ≤ s.clk.time) ∧
    (let s := asking 0x0101 [] live
     let s := s.onDp (fun _ d => { d with mb := { d.mb with
       boxes := d.mb.boxes.map (fun b => { b with request := b.request.map (fun (r : MbReq) => { r with waiting := true }) }) } })
     waiter s.dp { order0 with port := mbxPort box0 } = some box0 ∧ (s.dp.request box0).isSome = true) ∧
    (let s := withFetch (fetch0 false)
     s.dp.sh.fetches.find? (fun x => x.queued && x.rank = (1 : Rank).val && x.rank != s.env.rank && x.pool = 0 &&
       x.localBlk = 0 && x.sentAt + 10000000 ≤ s.clk.time) = some (fetch0 false)) ∧
    (let x : Fetch := { fetch0 false with purpose := .rebuild 3 }
     let s := withFetch x
     s.dp.sh.fetches.find? (fun x => x.queued && x.rank = (1 : Rank).val && x.rank != s.env.rank && x.pool = 0 &&
       x.localBlk = 0 && x.sentAt + 10000000 ≤ s.clk.time) = some x ∧ x.purpose = .rebuild 3) ∧
    (let s := ring4Dp (fun d => { d with sh := { d.sh with drill := some drill0 } })
     s.dp.sh.drill = some drill0 ∧ drill0.order = none ∧ drill0.stepAt + 5000000 ≤ s.clk.time ∧
     drill0.asked.testBit (1 : Rank).val = true ∧ drill0.accepted.testBit (1 : Rank).val = false) ∧
    (let g : Gather := { pool := 0, gen := 0, row := 3, since := 0, parts := [] }
     let s := liveDp (fun d => { d with sh := { d.sh with gathers := [g] } })
     s.dp.sh.gathers.find? (fun g => g.pool = 0 && g.row = 3 && g.since + s.param 0x0602 * 1000 ≤ s.clk.time) =
       some g) ∧
    (let s := role4 { pRole 0 .steward with group := [jrec0], standby := some 1 }
     (s.dp.roleD 0).standby = some 1 ∧ (s.dp.roleD 0).group.length ≤ 64 ∧
     (s.dp.roleD 0).role = .steward ∧ (s.dp.roleD 0).group ≠ [] ∧ (s.dp.roleD 0).groupAt + 20000 ≤ s.clk.time) ∧
    (let x := { pRole 0 .steward with tail := [jrec0] }
     let s := role4 x
     s.dp.role 0 = some x ∧ x.tail ≠ [] ∧ s.env.tide = false ∧ s.boot.ready = true ∧
     strandFree (stageJournal s.env 0 s.dp) .journalStrand < strandLow) ∧
    (let x := { pRole 0 .steward with tail := [jrec0] }
     let s := (withRow { row0 .journalStrand with width := 64, full := false }).onDp (fun _ d =>
       { d with sh := { d.sh with roles := [x] } })
     s.dp.role 0 = some x ∧ x.tail ≠ [] ∧ s.env.tide = false ∧ s.boot.ready = true ∧
     strandLow ≤ strandFree (stageJournal s.env 0 s.dp) .journalStrand) := by and_intros <;> decide +kernel
/-! ## Witnesses of the statements about flash and Bedrock -/

theorem wit_FlashBringUpAndCalibration_start :
    (let s := liveDp (fun d => { d with kiln := { d.kiln with wave := 15, waveAt := live.clk.time } })
     s.dp.kiln.started = true ∧ s.env.tide = false ∧ s.dp.kiln.wave ≤ 16 ∧ s.clk.time < s.dp.kiln.waveAt + 1000000) ∧
    (let s := liveDp (fun d => { d with kiln := { d.kiln with wave := 15 } })
     s.dp.kiln.started = true ∧ s.env.tide = false ∧ s.dp.kiln.wave < 16 ∧
     s.dp.kiln.waveAt + max 1000000 (s.dp.kiln.profile.rstUs * 1000) ≤ s.clk.time) ∧
    (let s := liveDp (fun d => { d with kiln := { d.kiln with wave := 16 } })
     s.dp.kiln.wave = 16 ∧ s.dp.kiln.waveAt + max 1000000 (s.dp.kiln.profile.rstUs * 1000) ≤ s.clk.time ∧
     deviceProfile (s.dp.kiln.answers ++ [⟨60, 0, true, some 1⟩].filter (fun a => a.chan / 4 + 1 = 16)) = some 1 ∧
     deviceProfile s.dp.kiln.answers = none) ∧
    (let s := liveDp (fun d => d.setChan 0 { d.chan 0 with trained := false })
     (s.dp.kiln.chans.find 0).isSome = true ∧ 17 ≤ s.dp.kiln.wave ∧ (s.dp.chan 0).fenced = false ∧
     (s.dp.chan 0).trained = false ∧ s.env.tide = false ∧
     trainedStep s.env s.dp 4800 [step0 3200 36, step0 4800 35, step0 8800 90] = some (step0 4800 35) ∧
     trainOk (step0 3200 36) = true ∧ trainedStep s.env s.dp 4800 [step0 4800 34] = none) := by
  and_intros <;> decide +kernel

/-- A die read of one codeword for a fetch, and an operation of the die as it is queued and as it runs. -/
def rd0 : OpKind := .read 1 [0] (.fetch (fetch0 false)) ⟨0, 0, [], 0, 0⟩
def p1Read : DieOp := ⟨rd0, 1, 0, false, false, .other, false⟩
def op0 (k : OpKind) : DieOp := ⟨k, 5, 0, false, false, .other, false⟩
def run0 (k : OpKind) : Running := ⟨op0 k, 0, 0, [], 0, false⟩

/-- Die 0 running an operation. -/
def runs0 (x : Running) : State := media (fun y => { y with running := some x }) id

theorem wit_FlashBringUpAndCalibration :
    (let s := media id id
     dieGood s.dp 0 0 = true ∧ kilnRuns s.env s.dp = true ∧ s.env.tide = false ∧ s.dp.kiln.profile.lists .zq = true ∧
     (s.dp.die 0 0).zqAt + 1000000000 ≤ s.clk.time) ∧
    (let s := { media (fun x => { x with queue := [p1Read] }) id with pwr := { live.pwr with tj := 451 } }
     chanGood s.dp 0 = true ∧ kilnRuns s.env s.dp = true ∧ (s.dp.chan 0).offBus = none ∧
     200 < drift s.pwr.tj (s.dp.chan 0).trainTj ∧ chanReads s.dp 0 = true ∧ (s.dp.chan 0).driftAt = none) ∧
    (let s := media id (fun d => d.setChan 0 { d.chan 0 with recheck := true })
     chanGood s.dp 0 = true ∧ kilnRuns s.env s.dp = true ∧ s.env.tide = false ∧ (s.dp.chan 0).offBus = none ∧
     (s.dp.chan 0).recheck = true ∧ chanReads s.dp 0 = false ∧ (s.dp.chan 0).bus = none) ∧
    (let s := media id (fun d => d.setChan 0 { d.chan 0 with offBus := some 0, rate := 3200 })
     chanGood s.dp 0 = true ∧ kilnRuns s.env s.dp = true ∧ (s.dp.chan 0).offBus.isSome = true ∧
     (s.dp.chan 0).recheck = false ∧ trainedStep s.env s.dp 3200 [step0 3200 36, step0 4800 40] = some (step0 3200 36) ∧
     trainedStep s.env s.dp 3200 [step0 4800 40] = none) := by and_intros <;> decide +kernel

/-- One codeword of a row, not yet on the medium. -/
def cw0 : Codeword :=
  { pool := 0, localBlk := 0, kind := 0, addr := 0, seqn := 1,
    body := { parity := [], backPtr := 0, nonce := 0, gcmTag := 0, tagCt := 0, dataCt := [] },
    written := true, verified := false, src := none }

theorem wit_DieReports_ends :
    (let r := { row0 .bisque with width := 2, cws := [cw0] }
     let x := run0 (.program 1 [0])
     let s := media (fun y => { y with running := some x }) (fun d => { d with med := { d.med with rows := [r] } })
     (s.dp.die 0 0).running = some x ∧ x.dataIn = 0 ∧ x.op.kind = .program 1 [0] ∧ s.dp.row 1 = some r ∧
     r.use.slc = true ∧ 0 ∈ [0] ∧ 0 < xorBase ∧ (r.cws[4 * 0]?).any (fun w => !w.verified) = true ∧
     blockOn r 0 0 = some (0, (0, 0, 7))) ∧
    (let r := row0 .stoneware
     let x := run0 (.erase 1)
     let s (n : Nat) := media (fun y => { y with running := some x }) (fun d => { d with med := { d.med with
       rows := [r], wear := [(wearKey 0 0 7, (n, 0))] } })
     ((s 0).dp.die 0 0).running = some x ∧ x.dataIn = 0 ∧ x.op.kind = .erase 1 ∧ (s 0).dp.row 1 = some r ∧
     blockOn r 0 0 = some (0, (0, 0, 7)) ∧ sdTarget (s 0).dp 1 = false ∧
     wearLimit (s 100000).env (s 100000).dp ≤ wearOf (s 100000).dp 0 0 7 ∧
     (s 0).dp.med.eraseFails.contains (0, 0, 7) = false ∧ (s 0).dp.med.suspect.contains (0, 0, 7) = false) ∧
    ({ live.dp.med with eraseFails := [(0, 0, 7)] } : Media).eraseFails.contains (0, 0, 7) = true ∧
    ({ live.dp.med with suspect := [(0, 0, 7)] } : Media).suspect.contains (0, 0, 7) = true := by
  and_intros <;> decide +kernel

theorem wit_DieReports_reads :
    (∀ out ∈ [false, true],
      let x := { run0 rd0 with out := out }
      let s := runs0 x
      (s.dp.die 0 0).running = some x ∧ x.op.kind = rd0 ∧ x.out = out ∧ (s.dp.die 0 0).suspended = none) ∧
    (let x := { run0 (.readBack 7 true) with out := true }
     ((runs0 x).dp.die 0 0).running = some x ∧ x.op.kind = .readBack 7 true ∧ x.out = true) ∧
    (((runs0 (run0 .pattern)).dp.die 0 0).running = some (run0 .pattern) ∧ (run0 .pattern).op.kind = .pattern) := by
  and_intros <;> decide +kernel

theorem wit_DieReports_timeouts :
    (let x := run0 (.erase 1)
     let s := runs0 x
     let s2 := s.onDp (fun _ d => { d with kiln := { d.kiln with dies := d.kiln.dies ++ [(1, dieUp)] } })
     (s.dp.die 0 0).running = some x ∧ (s.dp.die 0 0).cut = none ∧ x.since + opLimit s.dp x.op.kind ≤ s.clk.time ∧
     x.dataIn = 0 ∧ (s.dp.die 0 0).timeouts.filter (fun t => s.clk.time < t + 10000000000) = [] ∧
     (s2.dp.die 0 0).running = some x ∧ (s2.dp.die 0 1).present = true ∧ (s2.dp.die 0 1).fenced = false ∧
     1 ∉ (s2.dp.chan 0).attempt ∧ s.clk.time < ({ x with since := s.clk.time } : Running).since + opLimit s.dp x.op.kind) ∧
    (let s := media (fun y => { y with running := some (run0 (.erase 1)), timeouts := [live.clk.time] }) id
     (s.dp.die 0 0).timeouts.filter (fun t => s.clk.time < t + 10000000000) ≠ []) ∧
    (let s := media (fun y => { y with cut := some (op0 (.erase 1)), timeouts := [live.clk.time] }) id
     (s.dp.die 0 0).cut = some (op0 (.erase 1)) ∧
     s.clk.time < (s.dp.die 0 0).timeouts.getLastD 0 + 2000 * s.dp.kiln.profile.rstUs) ∧
    (let s := media (fun y => { y with cut := some (op0 (.erase 1)), timeouts := [0] }) id
     (s.dp.die 0 0).cut = some (op0 (.erase 1)) ∧
     (s.dp.die 0 0).timeouts.getLastD 0 + 2000 * s.dp.kiln.profile.rstUs ≤ s.clk.time) := by
  and_intros <;> decide +kernel

theorem wit_DieReports :
    (let y : Suspended := ⟨op0 (.erase 1), 1, 0, 8⟩
     let s := media (fun x => { x with suspended := some y }) id
     (s.dp.die 0 0).suspended = some y ∧ (s.dp.die 0 0).running = none ∧ 8 ≤ y.reads ∧
     y.since + 500000 ≤ s.clk.time) ∧
    (let x : Running := { run0 (.erase 1) with suspends := 15 }
     let s := media (fun y => { y with running := some x, queue := [p1Read] }) id
     (s.dp.die 0 0).running = some x ∧ (s.dp.die 0 0).suspended = none ∧
     suspendable s.dp.kiln.profile x.op.kind = true ∧ s.env.tide = false ∧ x.dataIn = 0 ∧
     (s.dp.die 0 0).queue.any isP1 = true ∧ x.since + (suspendLimits x.op.kind).1 ≤ s.clk.time ∧
     x.suspends < (suspendLimits x.op.kind).2) := by
  and_intros <;> decide +kernel

/-- A row on the die with dies of other sizes. -/
def sized (f : Profile → Profile) (r : Row) : State :=
  media id (fun d => { d with
    med := { d.med with rows := [r] }
    kiln := { d.kiln with profile := f d.kiln.profile } })

/-- Eight channels with a die each, of small blocks or long ones. -/
def eight (f : Profile → Profile) (l : List Row) : State :=
  liveDp (fun d => { d with
    med := { d.med with rows := l, nextRow := 2 }
    kiln := { d.kiln with
      profile := f { d.kiln.profile with blocks := 16 }
      chans := (List.range 8).map (fun c => (c, chan0))
      dies := (List.range 8).map (fun c => (c * 16, dieUp)) } })

/-- Counter values of the at-rest key enough for any row. -/
def leased (s : State) : State := { s with sec := { s.sec with slots := [(0, { KeySlot.reset with lease := 2 ^ 63 })] } }

theorem wit_MediaManagement_rows :
    (let r := { row0 .stoneware with width := 2, full := false, cws := [{ cw0 with verified := true }], openSince := some 0 }
     let s := leased (withRow r)
     let per := 4 * (r.width - 1)
     mediaRuns s = true ∧ (s.dp.row 1).bind Row.openSince = some 0 ∧ 0 + s.param 0x0302 * 1000 ≤ s.clk.time ∧
     s.dp.row 1 = some r ∧ r.erasing = none ∧ (per - r.cws.length % per) % per ≤ leaseLeft s.env s.dp ∧
     (per - r.cws.length % per) % per = 3) ∧
    (let s := withRow { row0 .stoneware with openSince := some live.clk.time }
     mediaRuns s = true ∧ (s.dp.row 1).bind Row.openSince = some live.clk.time ∧
     s.clk.time < live.clk.time + s.param 0x0302 * 1000) ∧
    (let s := withRow (row0 .bisque)
     mediaRuns s = true ∧ s.dp.med.lastWrite + s.param 0x0303 * 1000000 ≤ s.clk.time ∧ bisqueUsed s.dp ≠ 0) ∧
    (let s := withRow (row0 .stoneware)
     let spread := (wearRange s.dp).1 - (wearRange s.dp).2
     let lim := s.param 0x0305
     mediaRuns s = true ∧ s.dp.med.staticRow = none ∧ spread ≤ lim * wearUnit s.dp ∧
     spread * 100 ≤ (if lim < 400 then lim * 75 else 30000) * wearUnit s.dp) := by and_intros <;> decide +kernel

theorem wit_MediaManagement_static :
    let r := row0 .stoneware
    let s := (eight id [r]).onDp (fun _ d => { d with med := { d.med with wear := [(8, (501, 0))] } })
    let d := { s.dp with med := { s.dp.med with moving := true } }
    mediaRuns s = true ∧ s.dp.med.staticRow = none ∧
    s.param 0x0305 * wearUnit s.dp < (wearRange s.dp).1 - (wearRange s.dp).2 ∧ s.dp.row r.id = some r ∧
    leastBy (rowWear d) (s.dp.med.rows.filter (fun r => r.use = .stoneware && r.full && movable d r &&
      3600 * second ≤ rowAge s.clk.time r)) = some r ∧
    (openRow s.env .stoneware true
      (count 3 3 1 { d with med := { d.med with staticRow := some r.id } })).isSome = true := by
  and_intros <;> decide +kernel

theorem wit_MediaManagement_upkeep :
    (let r := { row0 .stoneware with cws := [{ cw0 with verified := true }], refresh := some 1 }
     let s := withRow r
     mediaRuns s = true ∧ s.dp.row 1 = some r ∧ movable s.dp r = true ∧ r.cws ≠ [] ∧ r.refresh.isSome = true ∧
     s.param 0x0306 * 86400000000000 ≤ rowAge s.clk.time { r with refresh := none, age := 10 ^ 18 }) ∧
    (let s := media id (fun d => { d with med := { d.med with
       rows := [row0 .stoneware], rebuilding := [(0, some 0, 0)] } })
     mediaRuns s = true ∧ s.dp.med.rebuilding.any (fun x => x.1 = 0 && x.2.1 = some 0) = true ∧
     row0 .stoneware ∈ s.dp.med.rows ∧ movable s.dp (row0 .stoneware) = true ∧
     (row0 .stoneware).blocks.any (onUnit 0 (some 0)) = true) ∧
    (liveDp (fun d => { d with map := { d.map with wanted := [(0, 0)] } })).dp.map.wanted.contains (0, 0) = true ∧
    (let s := liveDp (fun d => { d with map := { d.map with loading := true } })
     mediaRuns s = true ∧ s.dp.map.loading = true ∧ s.dp.map.resident = false ∧ s.dp.map.wanted = [] ∧
     (mapSegs s.env s.dp).find? (fun g => !s.dp.map.segs.contains g) = some (0, 0)) ∧
    (let s := liveDp (fun d => { d with map := { d.map with loading := true, segs := mapSegs live.env live.dp } })
     (mapSegs s.env s.dp).find? (fun g => !s.dp.map.segs.contains g) = none) := by and_intros <;> decide +kernel

theorem wit_MediaManagement_lastTide :
    (let s := withRow (row0 .lastTide)
     let want := areaBytes s.dp .lastTide + 64 * gib
     mediaRuns s = true ∧ s.dp.med.ltGen = none ∧ s.dp.med.ltMovedAt + 604800000000000 ≤ s.clk.time ∧
     areaBytes (growArea s.env .lastTide want 0 s.dp) .lastTide < want) ∧
    (let s := (eight (fun p => { p with pagesSlc := 2 ^ 22 }) [row0 .lastTide]).onDp (fun _ d =>
       { d with med := { d.med with ltUsed := true } })
     let want := areaBytes s.dp .lastTide + 64 * gib
     mediaRuns s = true ∧ s.dp.med.ltGen = none ∧ s.dp.med.ltUsed = true ∧
     want ≤ areaBytes (growArea s.env .lastTide want (divUp (64 * gib) (2 ^ 26)) s.dp) .lastTide ∧
     s.dp.row 1 = some (row0 .lastTide)) := by and_intros <;> decide +kernel

theorem wit_MediaManagement_fold :
    (let s := sized (fun p => { p with pagesSlc := 2 ^ 22 }) (row0 .bisque)
     mediaRuns s = true ∧ s.dp.med.bisque < 2 * bisqueUsed s.dp ∧ (s.dp.med.idleFold && writeIdle s) = false ∧
     (let d := { s.dp with med := { s.dp.med with folding := true, idleFold := false } }
      foldRow s.clk.time d true false = some (row0 .bisque))) ∧
    (let s := live
     mediaRuns s = true ∧ bisqueUsed s.dp * 10 ≤ s.dp.med.bisque * 4 ∧ s.dp.med.idleFold = false ∧
     foldRow s.clk.time { s.dp with med := { s.dp.med with folding := false, idleFold := false } } false false = none) := by
  and_intros <;> decide +kernel

theorem wit_MediaManagement_collect :
    (let s := sized (fun p => { p with dieBytes := tib }) (row0 .stoneware)
     mediaRuns s = true ∧ gcTarget s.env s.dp ≤ erasedBytes s.dp) ∧
    (let s := sized (fun p => { p with dieBytes := 64 * gib }) (row0 .stoneware)
     mediaRuns s = true ∧ erasedBytes s.dp < gcTarget s.env s.dp ∧ erasedBytes s.dp * 2 < gcTarget s.env s.dp ∧
     gcVictim s.clk.time { s.dp with med := { s.dp.med with gc := .urgent } } true = some (row0 .stoneware)) ∧
    (let s := sized (fun p => { p with dieBytes := 128 * gib }) (row0 .stoneware)
     let v := refreshWarned s.env (2 ^ 30) { s.dp with med := { s.dp.med with gc := .normal } }
     mediaRuns s = true ∧ erasedBytes s.dp < gcTarget s.env s.dp ∧ gcTarget s.env s.dp ≤ erasedBytes s.dp * 2 ∧
     gcVictim s.clk.time v false = some (row0 .stoneware)) := by
  and_intros <;> decide +kernel

theorem wit_ResyncReshapeAndPatrol_rows :
    (let s := withPools none (pRole 0 .none) (fun d => { d with sh := { d.sh with
       view := [(viewKey 1 0, .catchingUp)], missed := [(viewKey 1 0, 0)] } })
     let l := (pool1 none).lay
     mediaRuns s = true ∧ s.dp.sh.reg.pool 1 = some (pool1 none) ∧ PoolRec.layNamed (pool1 none) false = some l ∧
     admitted s.dp 1 = true ∧ memberState s.dp 1 s.env.rank = .catchingUp ∧
     ((pool1 none).rowRegions l 3).filter (fun g => missedIn s.dp 1 s.env.rank g &&
       (regionRows (pool1 none) s.env.rank g).any (fun x => rowKey x.1 x.2 = rowKey l 3) &&
       !(rowsDone s.dp 1 g).contains (rowKey l 3)) ≠ [] ∧
     s.dp.sh.htickets.any (fun t => t.pool = 1 && t.gen = l.gen && t.row = 3 && hasFlag t.flags fResync) = false) ∧
    (let s := withPools (some mirrored) (pRole 1 .steward) id
     let p := pool1 (some mirrored)
     mediaRuns s = true ∧ s.dp.sh.reg.pool 1 = some p ∧ p.reshape = some mirrored ∧ isSteward s.dp 1 = true ∧
     (s.dp.roleD 1).stopped = false ∧ admitted s.dp 1 = true ∧ windowOpen s.dp 1 = false ∧
     min 64 (mirrored.rows - mirrored.tidemark) ≠ 0 ∧ openTickets s.dp 1 = [] ∧
     (∀ k ∈ p.ranks, memberState s.dp 1 k = .current) ∧
     (undurable s.dp 1).any (fun x => x.type = .tidemark) = false) := by and_intros <;> decide +kernel

theorem wit_ResyncReshapeAndPatrol :
    (let s := withPools (some { mirrored with tidemark := 256 }) (pRole 1 .steward) id
     let p := pool1 (some { mirrored with tidemark := 256 })
     let l := (p.reshape.map p.newLay).getD p.lay
     mediaRuns s = true ∧ s.dp.sh.reg.pool 1 = some p ∧ PoolRec.layNamed p true = some l ∧ isSteward s.dp 1 = true ∧
     admitted s.dp 1 = true ∧ rowGoverned p l 0 = true ∧ 15 < l.s ∧ openTickets s.dp 1 = [] ∧ s.dp.sh.htickets = [] ∧
     (rowUnits l 0).all (fun x => present s.env s.dp x.2 && memberState s.dp 1 x.2 = .current) = true ∧
     l.isPq 0 = false ∧ l.isMirror 0 = true) ∧
    (let s := withPools none (pRole 1 .steward) id
     let p := pool1 none
     mediaRuns s = true ∧ s.dp.sh.reg.pool 1 = some p ∧ PoolRec.layNamed p false = some p.lay ∧
     isSteward s.dp 1 = true ∧ rowGoverned p p.lay 0 = true ∧ 0 < p.lay.s ∧
     (rowUnits p.lay 0).all (fun x => present s.env s.dp x.2 && memberState s.dp 1 x.2 = .current) = true ∧
     p.lay.isPq 0 = true) ∧
    (let s := (withReg (fun g => { g with pools := g.pools ++ [lone] })).onDp (fun _ d => { d with sh := { d.sh with
       roles := [pRole 1 .steward], admitted := [0, 1] } })
     mediaRuns s = true ∧ s.dp.sh.reg.pool 1 = some lone ∧ PoolRec.layNamed lone false = some lone.lay ∧
     isSteward s.dp 1 = true ∧ admitted s.dp 1 = true ∧ rowGoverned lone lone.lay 0 = true ∧ 15 + 1 = lone.lay.s ∧
     openTickets s.dp 1 = [] ∧ s.dp.sh.htickets = [] ∧
     (rowUnits lone.lay 0).all (fun x => present s.env s.dp x.2 && memberState s.dp 1 x.2 = .current) = true ∧
     lone.lay.isPq 0 = false ∧ lone.lay.isMirror 0 = false) ∧
    (State.reset.boot.ready = false ∧ live.boot.ready = true ∧ live.boot.safe = false ∧ live.env.tide = false ∧
      live.dp.sh.reg.jobs.find? (fun j => j.id = 1) = none) ∧
    (let s := liveDp (fun d => { d with sh := { d.sh with reg := { d.sh.reg with jobs := [{ job0 with pool := 0 }] } } })
     let j := { job0 with pool := 0 }
     s.dp.sh.reg.jobs.find? (fun j => j.id = 1) = some j ∧ (s.dp.sh.reg.pool j.pool).isSome = true ∧
     sdEnded j = false ∧ j.pendingMask.testBit s.env.rank = true) := by and_intros <;> decide +kernel

/-- Bedrock's bank 0 running an operation. -/
def bankRuns (o : BedOp) : State := live.setBank 0 { live.bank 0 with op := some o }

/-- A checkpoint of an empty map. -/
def ckpt0 : Ckpt := { num := 1, entries := [], held := [], first := 0, upTo := 0, dir := [] }

theorem wit_BedrockStore :
    (∀ w ∈ [BedWrite.record .param, .anchor, .staging], ∀ er ∈ [true, false],
      let o : BedOp := { erase := er, what := w, since := 0, suspends := 0 }
      ((bankRuns o).bank (0 : Fin 2).val).op = some o ∧ o.erase = er ∧ o.what = w) ∧
    (live.bank (1 : Fin 2).val).op = none ∧
    (let a := anchorNow live false 1 0
     let s := { live with
       bed := { live.bed with writing := some a }
       dp := { live.dp with map := { live.dp.map with ckptDue := some (ckpt0, false) } } }
     s.bed.writing = some a ∧ s.bed.again = false ∧ s.dp.map.ckptDue = some (ckpt0, false)) ∧
    (live.bed.again = false ∧ live.dp.map.ckptDue = none) ∧
    ((withImage (Image.reset .staging)).image (staging (withImage (Image.reset .staging)))).st = .staging ∧
    (let o : BedOp := { erase := true, what := .staging, since := 0, suspends := 15 }
     let s := live.setBank 0 { live.bank 0 with op := some o, reads := 1 }
     (s.bank (0 : Fin 2).val).op = some o ∧ 0 < (s.bank (0 : Fin 2).val).reads ∧ o.since + 500000 ≤ s.clk.time ∧
     o.suspends < 16 ∧ 16 ≤ ({ o with suspends := 16 } : BedOp).suspends) ∧
    (let o : BedOp := { erase := true, what := .staging, since := 0, suspends := 1 }
     let s := live.setBank 0 { live.bank 0 with held := some o }
     (s.bank (0 : Fin 2).val).held = some o ∧ (s.bank (0 : Fin 2).val).op = none ∧ o.since + 2000000 ≤ s.clk.time) ∧
    1 ≠ 2 := by and_intros <;> decide +kernel

/-- Both strands with erased rows. -/
def strands : State :=
  media id (fun d => { d with med := { d.med with rows := [RowUse.journalStrand, .mapStrand].mapIdx (fun i u =>
    { row0 u with id := i, width := 64, full := false }) } })

theorem wit_BedrockStore_anchors :
    (gib ≤ strandFree strands.dp .journalStrand ∧ gib ≤ strandFree strands.dp .mapStrand ∧
      strands.bed.deltaAt + 30000000000 ≤ strands.clk.time) ∧
    (let s := leased { strands with
       bed := { strands.bed with deltaAt := strands.clk.time }
       dp := { strands.dp with io := { strands.dp.io with seqEnd := 2 ^ 31 } } }
     gib ≤ strandFree s.dp .journalStrand ∧ gib ≤ strandFree s.dp .mapStrand ∧
     s.clk.time < s.bed.deltaAt + 30000000000 ∧ s.dp.map.deltaBytes < 512 * mib ∧ leaseLow s = false) ∧
    (raisedSince (ringDp ruled) = true ∧ (ringDp ruled).bed.writing = none ∧ (ringDp ruled).dp.map.ckptDue = none ∧
      raisedSince live = false) ∧
    (anchorsRun live = true ∧ live.bed.erasedSectors ≠ 0 ∧ live.bed.writing = none ∧ live.dp.map.ckptDue = none) ∧
    (let s := liveDp (fun d => { d with map := { d.map with ckptDue := some (ckpt0, true) } })
     s.dp.map.ckptDue = some (ckpt0, true) ∧ s.bed.writing = none ∧ ckptSafe s.dp ckpt0 = true) := by
  and_intros <;> decide +kernel
/-! ## Witnesses of the statements about engines, memories, loops and the test port -/

def spd0 : Spd := { density := 32, ranks := 1, maxRate := 8800 }

/-- A trained point at a rate, and a sweep of 80 bits whose eyes are open over 30 mV and this much of the unit interval. -/
def point0 (r : Nat) : DramPoint := { rate := r, read := [], write := [], vrefDq := [] }
def sweep0 (r wide : Nat) : DramSweep :=
  let bit := (List.range 31).map (fun v => (⟨500 + v, 0, wide⟩ : EyeLine))
  { rate := r, ca := 24, read := List.replicate 80 bit, write := List.replicate 80 bit }

/-- The device in service with its DRAM channels trained. -/
def dramUp (f : DChan → DChan) : State :=
  { live with dram := { live.dram with chans := live.dram.chans.map (fun c =>
      (c.1, f { c.2 with spd := some spd0, trained := true, passing := some [point0 3200, point0 6400], resetLow := false })) } }

theorem wit_EnginesEntropyAndHolds :
    (let s := { live with sec := { live.sec with sherd := [(7, ⟨true, some 0⟩)] } }
     ((engines .sherd s.sec).get EngineSt.fresh 7).fenced = true ∧
     ((engines .sherd s.sec).get EngineSt.fresh 6).fenced = false) ∧
    (live.sec.encoders.get EngineSt.fresh (19 : Fin 20).val).fenced = false ∧
    (saggarOn live = true ∧ blockOff .entropy live = false ∧ live.sec.entropyFailed = false ∧
      ({ live.sec with entropyFailed := true } : Sec).entropyFailed = true) ∧
    (blockOff (.lane 19) live = false ∧ (live.sec.glaze.get EngineSt.fresh (19 : Fin 20).val).fenced = false ∧
      live.sec.gated.contains .keyCache = false ∧ blockOff .keyCache live = false) ∧
    (let s := { live with sec := { live.sec with holds := [(.keyCache, 0)] } }
     s.sec.holds.any (fun h => h.1 = .keyCache && h.2 + 10000000 ≤ s.clk.time) = true) ∧
    (let s := ringLink (fun l => { l with testLeft := some 1 })
     (s.dp.link .ne).testLeft.isSome = true ∧ (s.dp.link .ne).testAt + 60000000000 ≤ s.clk.time) ∧
    (let a := { arm0 with since := 0 }
     a.id = 1 ∧ a.st = .armed ∧ a.fired = 0) ∧
    (withDiag.dp.mb.diag.isSome = true ∧ withDiag.dp.mb.diagAt + 600000000000 ≤ withDiag.clk.time) := by
  and_intros <;> decide +kernel

theorem wit_DramReadsAndPatrol :
    (let s := dramUp id
     chanRuns s (3 : DramCh).val = true ∧ DramRegion.firmware ≠ .diagnostic ∧ s.boot.fatal = false ∧
     ((s.dram.chan 3).bad.filter (fun t => s.clk.time < t + 3600000000000) ++ [s.clk.time]).length ≤ 4 ∧
     (s.dram.chan 3).patrolFix.any (fun f => (s.dram.chan 3).patrolRead < 100 * f.2) = false) ∧
    (let s := dramUp (fun c => { c with bad := List.replicate 4 live.clk.time })
     4 < ((s.dram.chan 3).bad.filter (fun t => s.clk.time < t + 3600000000000) ++ [s.clk.time]).length) := by
  and_intros <;> decide +kernel

/-- Channel 3 with this many bursts read in the present patrol pass. -/
def patrolAt (n : Nat) : State := dramUp (fun c => { c with patrolRead := n })

theorem wit_DramReadsAndPatrol_patrol :
    (let s := (dramUp id).onDp (fun _ d => { d with mem := { d.mem with dram := [⟨1, 768, false, 0, 0⟩] } })
     patrolTurn s 3 = false) ∧
    (let s := patrolAt 0
     patrolTurn s 3 = true ∧ 64 * 0 < windowAt s 3 ∧ armedOn s 3 = false ∧ 64 * (0 + 1) < chanBytes s 3) ∧
    (let s := { patrolAt (2 ^ 30 - 2 ^ 20) with
       integ := { live.integ with arms := [{ arm0 with target := 1, unit := 3 }] } }
     patrolTurn s 3 = true ∧ windowAt s 3 ≤ 64 * (2 ^ 30 - 2 ^ 20) ∧ armedOn s 3 = true) ∧
    (let s := patrolAt (2 ^ 30 - 2 ^ 20)
     patrolTurn s 3 = true ∧ windowAt s 3 ≤ 64 * (2 ^ 30 - 2 ^ 20) ∧ armedOn s 3 = false ∧
     64 * (2 ^ 30 - 2 ^ 20 + 1) < chanBytes s 3) ∧
    (let s := patrolAt (2 ^ 30 - 1)
     patrolTurn s 3 = true ∧ armedOn s 3 = false ∧ chanBytes s 3 ≤ 64 * (2 ^ 30 - 1 + 1)) := by
  and_intros <;> decide +kernel

theorem wit_DramRatesAndRefresh_training :
    (let s := live.onChan 0 (fun c => { c with resetLow := false })
     let x := s.dram.chan 0
     let u := s.onChan 0 (fun x => { x with spd := some spd0, passing := some [] })
     s.boot.fw = true ∧ s.pwr.porHeld = false ∧ x.resetLow = false ∧ x.trained = false ∧ s.env.tide = false ∧
     spdBytes ⟨8, 1, 6400⟩ = 0 ∧ spdBytes spd0 ≠ 0 ∧
     u.dram.chans.all (fun y => y.2.spd.all (fun q => q.density = spd0.density && q.ranks = spd0.ranks)) = true ∧
     u.dram.chans.all (fun y => y.2.passing.isSome) = false) ∧
    (let s := dramUp (fun c => { c with trained := false })
     let u (l : List DramPoint) := s.onChan 0 (fun x => { x with spd := some spd0, passing := some l })
     (s.dram.chan 0).trained = false ∧
     (u []).dram.chans.all (fun y => y.2.passing.isSome) = true ∧ dramRate (u []) = none ∧
     dramRate (u [point0 3200, point0 6400]) = some 6400) ∧
    (trainPoint (sweep0 6400 20)).isSome = true ∧ trainPoint (sweep0 6400 19) = none ∧
    trainPoint { sweep0 6400 20 with ca := 22 } = none ∧
    (trainPoint (sweep0 6400 21)).any (fun p => p.vrefDq = List.replicate 20 515 &&
      p.read = List.replicate 80 (515, 10)) = true := by
  and_intros <;> decide +kernel

theorem wit_DramRatesAndRefresh :
    (let x := { (dramUp id).dram.chan 0 with openRows := [] }
     nextDram x [⟨0, 0, false, 0, 0⟩, ⟨2, 256, false, 64, 0⟩] = some ⟨2, 256, false, 64, 0⟩ ∧
     nextDram x [⟨2, 0, false, 63, 0⟩, ⟨0, 256, false, 0, 0⟩] = some ⟨0, 256, false, 0, 0⟩ ∧
     nextDram x [⟨0, 0, false, 0, 0⟩, ⟨3, 256, false, 0, 20000⟩] = some ⟨3, 256, false, 0, 20000⟩) ∧
    (let s := dramUp (fun c => { c with banks := [(bankKey 0 0, 3), (bankKey 0 1, 4), (bankKey 0 2, -3)] })
     chanRuns s 0 = true ∧ (s.dram.chan 0).banks.get 0 (bankKey 0 0) < 4 ∧
     4 ≤ (s.dram.chan 0).banks.get 0 (bankKey 0 1) ∧ bankKey 0 0 ≠ bankKey 0 2 ∧
     -4 < (s.dram.chan 0).banks.get 0 (bankKey 0 2)) ∧
    (let up (v age : Nat) : State := { dramUp (fun c => { c with rate := 6400, openRows := [(0, (5, live.clk.time - age))] }) with
       par := { live.par with value := [(0x0C02, v)] } }
     let at_ (age : Nat) := live.clk.time - age
     let late (s : State) (t : Nat) := (s.param 0x0C02 * (s.dram.chan 0).rate + 1999) / 2000 ≤
       (s.clk.time - t) * (s.dram.chan 0).rate / 2000
     chanRuns (up 500 500) 0 = true ∧ ((up 500 500).dram.chan 0).openRows.find (0 * 32 + 0) = some (5, at_ 500) ∧
     (up 500 500).param 0x0C02 ≠ 0 ∧ late (up 500 500) (at_ 500) ∧ ¬ late (up 500 499) (at_ 499) ∧
     (up 0 0).param 0x0C02 = 0) ∧
    (let s := dramUp (fun c => { c with rate := 6400 })
     s.pwr.state ∈ [PState.flood, .slack] ∧ chanRuns s 0 = true ∧ 8 ≤ 8 ∧ 8 < 9 ∧
     (trainPoint { sweep0 0 20 with rate := (s.dram.chan 0).rate }).isSome = true ∧
     (s.dram.chan 0).passing = some [point0 3200, point0 6400] ∧
     trainPoint { sweep0 0 19 with rate := (s.dram.chan 0).rate } = none) := by and_intros <;> decide +kernel

/-- One scratchpad bank changed. -/
def padWith (n : Nat) (f : Pad → Pad) : State :=
  { live with pads := { live.pads with banks := live.pads.banks.put n (f (live.pad n)) } }

theorem wit_ScratchpadBanks :
    (padRuns live (30 : Fin 32).val = true ∧ ¬((30 : Fin 32).val = 31 ∧ 0 < padWindow) ∧
      padRuns live 31 = true ∧ padWindow - 1 < padWindow ∧ PadRegion.other ≠ .diagnostic) ∧
    (movableBank (27 : Fin 32).val = true ∧ (live.pad 27).st = .active ∧ live.boot.fw = true ∧
      live.env.tide = false ∧ (live.pad 27).moving = none ∧
      (live.pad 27).freeAt.any (fun t => t + 10000000 ≤ live.clk.time) = false) ∧
    (let s := padWith 27 (fun p => { p with freeAt := some 0 })
     (s.pad 27).moving = none ∧ (s.pad 27).freeAt.any (fun t => t + 10000000 ≤ s.clk.time) = true) ∧
    (let s := padWith 27 (fun p => { p with moving := some (.wstage, live.clk.time) })
     (s.pad 27).moving = some (.wstage, s.clk.time) ∧ s.clk.time < s.clk.time + 5000000 ∧ (s.pad 27).st = .active) ∧
    movableBank (25 : Fin 32).val = false ∧
    (let s := padWith 27 (fun p => { p with moving := some (.wstage, 0) })
     (s.pad 27).moving = some (.wstage, 0) ∧ 0 + 5000000 ≤ s.clk.time) ∧
    (live.pwr.porHeld = false ∧ (mastersOf (live.pad 0).owner).contains 14 = true ∧
      (mastersOf (live.pad 0).owner).contains 1 = false ∧ normalWorld.contains 4 = true ∧
      normalWorld.contains 99 = false) ∧
    (nextPad 0 [⟨.wstage, 0, 8, 1, false, false⟩, ⟨.wstage, 0, 14, 1, false, false⟩] = some ⟨.wstage, 0, 14, 1, false, false⟩ ∧
      nextPad 0 [⟨.wstage, 0, 3, 1, false, false⟩, ⟨.wstage, 0, 8, 1, false, false⟩] = some ⟨.wstage, 0, 8, 1, false, false⟩) ∧
    (let s := { padWith 27 (fun p => { p with st := .retention }) with pwr := { live.pwr with state := .neap } }
     s.pwr.state = .neap ∧ (s.pad 27).st = .retention ∧ (s.pad 26).st = .active ∧
     (s.pad 26).lastUse + 50000 ≤ s.clk.time) := by and_intros <;> decide +kernel

theorem wit_LoopsSampleAndTheTestPort :
    gaugeRuns State.reset = false ∧
    (gaugeRuns live = true ∧ (live.tide.loop (3 : Fin 32).val).st ≠ .unused ∧
      (dueAt live.clk.time (3 : Fin 32).val (live.tide.loop 3).periodUs).isSome = true ∧
      (live.tide.loop 3).lastAt.any (fun p => live.clk.time - 1 ≤ p) = false) ∧
    (let s := withLoop 3 (fun l => { l with lastAt := some live.clk.time })
     (dueAt s.clk.time 3 (s.tide.loop 3).periodUs).any (fun t => (s.tide.loop 3).lastAt.any (fun p => t ≤ p)) = true) ∧
    (live.tide.loop 3).st = .closed ∧
    ((withLoop 3 (fun l => { l with st := .hold, valid := 15 })).tide.loop 3).st = .hold ∧
    (let l := { Loop.shipped 3 with reclose := true }
     l.outMin ≤ l.outMax ∧ l.outMin ≤ l.outMax ∧ l.reclose = true ∧ l.outMin ≤ l.output ∧ l.output ≤ l.outMax) ∧
    live.pwr.porHeld = false ∧ 31 < 32 := by and_intros <;> decide +kernel

/-! ## Witnesses of the statements about power and start-up -/

/-- The device in service with its supply state changed. -/
def powered (f : Pwr → Pwr) : State := { live with pwr := f live.pwr }

def booted (f : Boot → Boot) : State := { live with boot := f live.boot }

theorem wit_SupplyAndHotSwap :
    (let s := powered (fun p => { p with porHeld := true, vsupMv := 0 })
     s.pwr.porHeld = true ∧ 2500 ≤ 2500 ∧ 2499 < 2500 ∧ 2500 < 2501 ∧ s.pwr.insertAt = none ∧ s.pwr.faultAt = none ∧
     s.pwr.vsupMv < 2400) ∧
    (live.pwr.porHeld = false ∧ live.pwr.lt = none ∧ (powered (fun p => { p with lt := some 0 })).pwr.lt ≠ none) ∧
    (let s := { live with clk := { live.clk with pin := some 5 } }
     s.clk.pin = some 5) ∧
    (let s := powered (fun p => { p with insertAt := some 0, faultAt := some 0, tries := 3 })
     s.pwr.insertAt = some 0 ∧ 0 + 4000000000 ≤ s.clk.time ∧ s.pwr.faultAt = some 0 ∧ 0 + 1000000000 ≤ s.clk.time ∧
     3 ≤ s.pwr.tries ∧ live.pwr.tries < 3 ∧ State.reset.clk.time < 0 + 4000000000) ∧
    (let s := powered (fun p => { p with porHeld := true, insertAt := some 0, gateOn := true })
     s.pwr.porHeld = true ∧ s.pwr.insertAt = some 0 ∧ s.pwr.gateOn = true ∧ s.pwr.riseAt = none ∧ 500 ≤ 500) ∧
    (let s := powered (fun p => { p with porHeld := true, insertAt := some 0, gateOn := true, riseAt := some 1, cap := none })
     s.pwr.riseAt = some 1 ∧ s.pwr.cap = none ∧ 2000 ≤ 2000) ∧
    (∀ t ∈ [Trigger.vin, .hsVsup],
      let s := powered (fun p => { p with waiting := true, triggers := [t] })
      s.pwr.porHeld = false ∧ s.pwr.waiting = true ∧ tideOutcome s.pwr = some t) ∧
    (live.pwr.gateOn = true ∧ live.param 0x0E03 + 100 < live.param 0x0E03 + 101 ∧ live.pwr.waiting = false) ∧
    (let s := { powered (fun p => { p with vccqfOk := false }) with boot := { live.boot with railWait := true } }
     s.boot.railWait = true ∧ s.pwr.vddqdOk = true ∧ s.pwr.porHeld = false ∧
     s.boot.startAt + 500000000 ≤ s.clk.time ∧ s.pwr.vccqfOk = false ∧ live.boot.railWait = false) ∧
    (powered (fun p => { p with vddqdOk := false })).pwr.vddqdOk = false := by and_intros <;> decide +kernel

theorem wit_LastTideTriggersAndOutcome :
    (live.param 0x0E03 - 1 < live.param 0x0E03 ∧ live.param 0x0E03 ≤ live.param 0x0E03 ∧ live.pwr.porHeld = false ∧
      live.pwr.state ≠ .ebb ∧ live.pwr.waiting = false ∧ live.pwr.coreHeld = false ∧ live.boot.fw = true ∧
      live.pwr.lt = none ∧ live.pwr.watchAt + 100000000 ≤ live.clk.time) ∧
    (let s := powered (fun p => { p with watchAt := live.clk.time })
     s.boot.fw = true ∧ s.pwr.lt = none ∧ s.clk.time < s.pwr.watchAt + 100000000) ∧
    (let s := { live with bed := { live.bed with boot := { live.bed.boot with trial := true } } }
     s.bed.boot.trial = true ∧ s.boot.startAt + 120000000000 ≤ s.clk.time) ∧
    (let s := powered (fun p => { p with state := .ebb })
     s.pwr.state = .ebb ∧ s.pwr.porHeld = false) ∧
    (let s := powered (fun p => { p with faultStarts := [live.clk.time, live.clk.time] })
     2 ≤ (s.pwr.faultStarts.filter (fun x => s.clk.time < x + 600000000000)).length ∧ s.pwr.lt = none) ∧
    (∀ t ∈ [Trigger.thermal, .coreRst, .watchdog, .memory, .activate, .vin, .hsVsup, .plp],
      let s := powered (fun p => { p with lt := some 0, triggers := [t] })
      s.pwr.lt ≠ none ∧ tideOutcome s.pwr = some t) ∧
    (let s := powered (fun p => { p with waiting := true, triggers := [.plp] })
     s.pwr.waiting = true ∧ tideOutcome s.pwr = some .plp) ∧
    (powered (fun p => { p with coreHeld := true })).pwr.coreHeld = true := by and_intros <;> decide +kernel

theorem wit_PowerStatesAndSagTests_tests :
    (live.boot.fw = true ∧ live.pwr.sag = none ∧ live.pwr.sagNext ≤ live.clk.time ∧ live.pwr.porHeld = false ∧
      live.param 0x0E03 + 500 ≤ live.param 0x0E03 + 500 ∧ live.pwr.lt = none ∧ live.pwr.state ≠ .neap ∧
      live.pwr.state ≠ .ebb ∧ live.param 0x0E03 + 499 < live.param 0x0E03 + 500 ∧ live.pwr.cap ≠ none) ∧
    (let s := powered (fun p => { p with sag := some ⟨0, none⟩ })
     s.pwr.sag = some ⟨0, none⟩ ∧ (0 : Nat) + 5000000 ≤ s.clk.time ∧ s.param 0x0E03 + 300 ≤ s.param 0x0E03 + 300 ∧
     4900 < 5000) ∧
    (let s := powered (fun p => { p with sag := some ⟨live.clk.time, none⟩ })
     s.pwr.sag = some ⟨s.clk.time, none⟩ ∧ s.clk.time < s.clk.time + 5000000 ∧
     s.param 0x0E03 + 300 < s.param 0x0E03 + 301) ∧
    (live.pwr.state = .flood ∧ live.boot.ready = true ∧ live.boot.fatal = false ∧ live.env.tide = false ∧
      live.pwr.entering = none ∧ idleFor live (live.param 0x0E01 * 1000) = true ∧ live.sec.holds = []) ∧
    (let s := { live with sec := { live.sec with holds := [(.keyCache, 0)] } }
     s.sec.holds ≠ []) ∧ 2 ≤ (2 : Fin 20).val := by and_intros <;> decide +kernel

theorem wit_PowerStatesAndSagTests :
    (let s := { powered (fun p => { p with state := .slack }) with
       dp := { live.dp with hp := { live.dp.hp with a := { portUp with l1 := true } } } }
     s.pwr.state = .slack ∧ s.pwr.entering = none ∧ idleFor s (s.param 0x0E01 * 1000) = true ∧
     s.pwr.slackSince + s.param 0x0E02 * 1000000 ≤ s.clk.time ∧ linksL1 s.dp = true ∧ greenHeld s.dp = 0 ∧
     s.sec.holds = [] ∧ WakeEvent.timer ≠ .hostLink) ∧
    (let s := ringLink (fun l => { l with loaded := true })
     cwPorts.any (fun p => (s.dp.link p).loaded || overload (s.dp.link p)) = true ∧
     cwPorts.any (fun p => (live.dp.link p).loaded || overload (live.dp.link p)) = false) ∧
    (∀ b ∈ [true, false],
      let s := powered (fun p => { p with state := .ebb, wakes := [.coreRst], coreRstLow := b })
      s.pwr.state = .ebb ∧ s.pwr.wakes.contains .coreRst = true ∧ s.pwr.tripped = false ∧ s.pwr.coreRstLow = b) ∧
    (let s := powered (fun p => { p with entering := some ⟨.ebb, 0, none⟩ })
     s.pwr.entering = some ⟨.ebb, 0, none⟩ ∧ (0 : Nat) + 100000000 ≤ s.clk.time) ∧
    (∀ b ∈ [true, false],
      let s := powered (fun p => { p with state := .ebb, wakes := [.wakeByte], tripped := b })
      s.pwr.state = .ebb ∧ s.pwr.porHeld = false ∧ s.pwr.wakes.contains .wakeByte = true ∧ s.pwr.tripped = b ∧
      EbbWake.wakeByte ≠ .coreRst ∧ s.pwr.wakes.contains .coreRst = false ∧ s.clk.x32 = .crystal) := by
  and_intros <;> decide +kernel

/-- A device about to be ready, with one row on its flash. -/
def readying (r : Row) : State :=
  { dramUp id with
    boot := { live.boot with ready := false }
    pwr := { live.pwr with state := .starting }
    dp := (media id (fun d => { d with
      map := { d.map with loading := false, resident := true }
      med := { d.med with rows := [r] } })).dp }

theorem wit_FirmwareRunningReadyAndTrial :
    (let s := State.reset
     s.boot.fw = false ∧ s.pwr.porHeld = false ∧ s.pwr.coreHeld = false ∧ s.pwr.waiting = false ∧
     s.pwr.state = .starting ∧ noFirmware s.boot.code = false ∧ railsOk s.pwr = false ∧ broughtUp s = false ∧
     s.clk.time < s.boot.readyAt + 60000000000) ∧
    (let s := readying (row0 .stoneware)
     let v := recovery s.boot.resumed s
     s.boot.fw = true ∧ s.boot.ready = false ∧ s.boot.safe = false ∧ s.boot.fatal = false ∧ s.pwr.state = .starting ∧
     s.pwr.sag = none ∧ broughtUp s = true ∧ s.env.tide = false ∧ s.boot.recovered = false ∧
     areaReady { v with boot := { v.boot with recovered := true } } = true) ∧
    (let s := readying { row0 .lastTide with erasing := some [0] }
     let v := recovery s.boot.resumed s
     broughtUp s = true ∧ s.boot.recovered = false ∧
     areaReady { v with boot := { v.boot with recovered := true } } = false ∧
     areaReady { s with boot := { s.boot with recovered := true } } = false) ∧
    areaReady { readying (row0 .stoneware) with boot := { live.boot with ready := false, recovered := true } } = true ∧
    (let s := { live with bed := { live.bed with boot := { live.bed.boot with trial := true } } }
     s.boot.ready = true ∧ s.bed.boot.trial = true ∧ s.boot.readyAt + 60000000000 ≤ s.clk.time ∧
     joined s.dp = true) ∧
    (let s := ringDp id
     ∀ k ∈ otherRanks s.env s.dp, present s.env s.dp k = false) := by and_intros <;> decide +kernel

/-! ## Witnesses of the statements about the machine's rules -/

/-- A state that no invariant forbids: an armed injection, and a byte in the diagnostic DRAM window. -/
def armedLive : State :=
  { live with
    integ := { live.integ with arms := [arm0], dramWin := Memory.writeBytes [] 64 [7] }
    clk := { live.clk with frac64 := 63 } }

theorem wit_EveryStepKeepsTheInvariant :
    (armedLive.windowsOk ∧ armedLive.banksOk) ∧ (armedLive.armsOk ∧ armedLive.gapOk ∧ armedLive.readyOk) ∧
    step armedLive = .next (tick armedLive) := by
  refine ⟨⟨?_, fun n => ?_⟩, ?_, rfl⟩
  · unfold State.windowsOk; decide +kernel
  · have hn : armedLive.pad n = Pad.reset n := by
      by_cases h : n < 32
      · interval_cases n <;> rfl
      · have : ∀ k, 32 ≤ k → (tabOf 32 Pad.reset).get (Pad.reset k) k = Pad.reset k := by
          intro k hk
          simp only [tabOf, List.range, List.range.loop, List.map, Tab.get]
          repeat rw [if_neg (by omega)]
        exact this n (by omega)
    rw [hn]
    by_cases h : n < 32
    · interval_cases n <;> simp [bankOk, movableBank, Pad.reset, padOwner, Owner.staging]
    · have hm : movableBank n = false := by simp [movableBank]; omega
      simp [bankOk, hm, Pad.reset]
  · unfold State.armsOk State.gapOk State.readyOk; decide +kernel

theorem wit_UnitsChangeOnlyByTheirCommands :
    exec .perstNRelease live = .next (after (exec .perstNRelease live) live) ∧
    (mayChangeClk .perstNRelease = false ∧ mayChangeBoot .perstNRelease = false ∧
    mayChangeDram .perstNRelease = false ∧ mayChangePads .perstNRelease = false ∧
    mayChangeInteg .perstNRelease = false ∧ mayChangeTap .perstNRelease = false) :=
  ⟨rfl, by decide +kernel⟩

theorem wit_DeviceTimeMovesForward :
    step live = .next (tick live) ∧ live.pending = [] ∧ live.pwr.porHeld = false ∧ live.pwr.state ≠ .ebb ∧
    (powered (fun p => { p with state := .ebb })).pwr.state = .ebb := by
  refine ⟨rfl, ?_⟩
  and_intros <;> decide +kernel

theorem wit_ClaimsFormAndCompare :
    (live.env.rank < 16 ∧ epochOf (live.dp.claimOf 256) < 0xFFFFFF) ∧
    (let d := ringDp (fun d => { d with sh := { d.sh with sea := [(0, { freshSea with claim := 0xFFFFFE0F })] } })
     epochOf (d.dp.claimOf 0) < 0xFFFFFF ∧ formClaim d.env d.dp 0 = some 0xFFFFFF00) ∧
    (let e := live.env
     let f := { live.env with rank := 15 }
     f.rank < 16 ∧ e.rank ≠ f.rank ∧ formClaim e live.dp 0 = some 0x100 ∧ formClaim f live.dp 0 = some 0x10F) := by
  and_intros <;> decide +kernel

theorem wit_FixedPointArithmetic :
    (-2 ^ 31 ≤ (2 ^ 31 - 2 : Int) + 1 ∧ (2 ^ 31 - 2 : Int) + 1 ≤ 2 ^ 31 - 1) ∧ (2 ^ 31 - 1 < (2 ^ 31 - 1 : Int) + 1) ∧
    ((-2 ^ 31 : Int) + -1 < -2 ^ 31) ∧ 2 * (65536 * round16 32768 - 32768).natAbs = 65536 ∧
    (-2 ^ 31 ≤ round16 (65536 * 1) ∧ round16 (65536 * 1) ≤ 2 ^ 31 - 1) ∧
    2 ^ 31 - 1 < round16 ((2 ^ 31 - 1) * (2 ^ 31 - 1)) ∧ round16 ((2 ^ 31 - 1) * (-2 ^ 31)) < -2 ^ 31 ∧
    (let l := { Loop.shipped 3 with setpoint := 5 }
     l.reclose = false ∧ (law l none 5).loop.intHeld = false ∧ -2 ^ 63 ≤ l.integ + l.ki * fixSub l.setpoint 5 ∧
     l.integ + l.ki * fixSub l.setpoint 5 ≤ 2 ^ 63 - 1 ∧ -2 ^ 63 ≤ l.integ ∧ l.integ ≤ 2 ^ 63 - 1) ∧
    (-2 ^ 31 ≤ round16 (65536 * 3) ∧ round16 (65536 * 3) ≤ 2 ^ 31 - 1) := by and_intros <;> decide +kernel

/-- The value the law would give with the integrator moved on, against its clamps. -/
def wouldBe (l : Loop) (pv : Int) : Int :=
  fixAdd (fixAdd (fixMul l.kp (fixSub l.setpoint pv)) (q16 (sat64 (l.integ + l.ki * fixSub l.setpoint pv))))
    (law l none pv).loop.dfilt

theorem wit_LawHoldsItsIntegrator :
    (let l := Loop.shipped 3
     l.reclose = false ∧ l.outMax < wouldBe l 0 ∧ 0 < fixSub l.setpoint 0) ∧
    (let l := { Loop.shipped 3 with integ := 0 }
     wouldBe l (2 ^ 24) < l.outMin ∧ fixSub l.setpoint (2 ^ 24) < 0) ∧
    (let l := Loop.shipped 3
     ¬((l.outMax < wouldBe l l.setpoint ∧ 0 < fixSub l.setpoint l.setpoint) ∨
       (wouldBe l l.setpoint < l.outMin ∧ fixSub l.setpoint l.setpoint < 0)) ∧ l.outMin ≤ min l.outMax 65536 ∧
     (let raw := fixAdd (fixAdd (fixMul l.kp 0) (q16 (law l none l.setpoint).loop.integ)) (law l none l.setpoint).loop.dfilt
      l.outMin ≤ raw ∧ raw ≤ l.outMax)) := by and_intros <;> decide +kernel

theorem wit_EbbGapIsAddedAndTold :
    (ebbGap live.clk.ebbCount live.clk.frac64).1 < 2 ^ 61 ∧ live.dp.hp.a.fitted = true ∧
    (∀ x ∈ [X32.crystal, .rc, .stopped], ({ live.clk with x32 := x, pin := some 1 } : Clk).pin.isSome = true) := by
  decide +kernel

/-- 6 + 2 over ranks 0 to 7 with 256 KiB sherds, and the last block of its capacity. -/
def lay8 : Lay := ⟨64, [⟨.pq, 6, [0, 1, 2, 3, 4, 5, 6, 7], 384 * 3000⟩], 0⟩

theorem wit_BlocksAndPlacesAreInverse :
    (0 < lay8.s ∧ (∀ st ∈ lay8.stripes, st.cap % rowBlocks lay8.s st = 0 ∧ (st.kind = .pq → 2 ≤ st.k ∧ st.k ≤ 14)) ∧
      lay8.cap ≤ 2 ^ 48 ∧ lay8.cap ≤ 384 * 3000 ∧ 384 * 3000 - 1 < lay8.cap ∧
      (∀ st ∈ lay8.stripes, st.ranks.Nodup ∧ st.ranks ≠ [] ∧ (st.kind = .pq → st.ranks.length = st.k + 2))) ∧
    (2 ≤ 14 ∧ (13 < 14 ∨ 13 = unitP ∨ 13 = unitQ) ∧ (unitQ < 14 ∨ unitQ = unitP ∨ unitQ = unitQ) ∧ 13 ≠ unitQ) := by
  and_intros <;> decide +kernel

/-- Two units of a row that differ. -/
def units2 : List (List Byte) := [List.replicate unitBytes 3, List.replicate unitBytes 5]

theorem wit_LostUnitsComeBack :
    (∀ u ∈ units2, u.length = unitBytes) ∧ 2 ≤ units2.length ∧ units2.length ≤ 14 ∧ 0 < units2.length ∧ 0 < 1 ∧
    1 < units2.length ∧ 3 ≤ (lostIdx [none, none, none]).length := by
  refine ⟨by simp [units2], ?_⟩
  and_intros <;> decide +kernel

/-- Every byte of a unit is zero. -/
def zeros (l : List Byte) : Bool := l.all (· == 0)

theorem wit_SyndromesLocateOneWrongUnit :
    (let ds : List (List Byte) := [[1], [2]]
     zeros (xorBytes (parityP ds) (parityP ds)) = true ∧ zeros (xorBytes (parityQ 0 ds) (parityQ 0 ds)) = true ∧
     zeros (xorBytes [9] (parityP ds)) = false ∧ zeros (xorBytes [9] (parityQ 0 ds)) = false ∧
     (let p := xorBytes (parityP ds) [7]
      let q := xorBytes (parityQ 0 ds) (gfScale (gfGen 1) [7])
      1 < ds.length ∧ xorBytes q (parityQ 0 ds) = gfScale (gfGen 1) (xorBytes p (parityP ds))) ∧
     (let p := xorBytes (parityP ds) [1]
      let q := xorBytes (parityQ 0 ds) [9]
      zeros (xorBytes p (parityP ds)) = false ∧ zeros (xorBytes q (parityQ 0 ds)) = false ∧
      (∀ j < ds.length, xorBytes q (parityQ 0 ds) ≠ gfScale (gfGen j) (xorBytes p (parityP ds))))) ∧
    (1 < units2.length ∧ (List.replicate unitBytes (6 : Byte)).length = unitBytes ∧
      List.replicate unitBytes 6 ≠ units2.getD 1 zeroUnit) := by
  refine ⟨?_, by decide, by rw [List.length_replicate], fun h => ?_⟩
  · and_intros
    case refine_2.refine_2.refine_2.refine_2.refine_1.refine_2 => exact eq_of_beq (by decide +kernel)
    all_goals decide +kernel
  · exact (List.replicate_inj.1 h).2.elim (by decide) (by decide)

theorem wit_WindowsReadWhatWasWritten :
    Memory.wf [] = true ∧ barServed live .a = true ∧ (∃ x ∈ live.dp.mb.boxes, x.box = .host .a 3) ∧
    (let l := List.replicate 64 (0xFF : Byte)
     1 ≤ l.length ∧ l.length ≤ 64 ∧ 0xFC0 + l.length ≤ 0x1000) ∧ (live.dp.mail (.host .a 3)).busy = false ∧
    ((asking 1 [] live).dp.mail box0).busy = true := by and_intros <;> decide +kernel

theorem wit_StrandlineRecordsAndCounters :
    live.dp.io.ring.length < 32768 ∧ live.dp.io.nextSeq < 0xFFFFFFFF ∧
    (let r := live.dp.io.ring.headD ⟨0, 0, 0, 0, 0, 0⟩
     ({ live.dp.io with ring := List.replicate 32768 r, nextSeq := 0xFFFFFFFF } : Io).ring.length = 32768) ∧
    4 ≤ 4 ∧ (∀ x ∈ live.dp.io.ring, x.seqn ≠ live.dp.io.nextSeq) ∧ 15 * 256 + 1 ≠ 15 * 256 := by
  and_intros <;> decide +kernel

theorem wit_CausesSignalTheDeviceVector :
    (let h := { portUp with devVecEn := true, evtMask := 0, unmasked := [devVector] }
     let s := liveDp (fun d => d.setPort .a h)
     15 < 16 ∧ (s.dp.port .a).fitted = true ∧ h.evtCause.getLsbD 15 = false ∧ h.evtMask.getLsbD 15 = false ∧
     h.devVecEn = true ∧ h.msixEnable = true ∧ dmaOk s.env s.dp .a = true ∧ h.d3 = false ∧ devVector ∈ h.unmasked) ∧
    (live.dp.port .b).fitted = false ∧ PortId.b ≠ .a := by and_intros <;> decide +kernel

theorem wit_RegisterAndQueryFrames :
    (let c := Instr.devVecEnWrite .a true
     exec c live = .next (after (exec c live) live) ∧
     c ∈ [.evtCauseClear .a 0, .evtMaskWrite .a 0, .devVecEnWrite .a true, .timeNowLowRead .a, .msixVectorUnmask .a 0] ∧
     c ≠ .evtCauseClear .a 0 ∧ c ≠ .evtMaskWrite .a 0) ∧
    (let s := asking 0x0801 [] live
     exec (.powerQuery box0) s = .next (after (exec (.powerQuery box0) s) s)) ∧
    (∀ n, box0 ≠ .host .b n) ∧ Mbx.mgmt ≠ box0 := by
  refine ⟨⟨rfl, by simp, by simp, by simp⟩, rfl, ?_, ?_⟩ <;> decide

end Sys2Proof.Tests
end

/-! # Engines, the entropy source, held blocks and the ends of diagnostic authority (R182, R399, R427 to R429, R437, R448,
R449, R538, R539) -/

namespace Sys2Proof.Proofs

open Sys2Proof.Machine Sys2Proof.Laws

/-! ## Faults and fences (R538, R539) -/

@[simp] theorem engines_setEngines (k : Engine) (t : Tab EngineSt) (x : Sec) : engines k (setEngines k t x) = t := by
  cases k <;> rfl

@[simp] theorem log_mb (s : State) (code sev src : Nat) (a : List Nat) : (s.log code sev src a).dp.mb = s.dp.mb := by
  simp [State.log, logE]

/-- A fault of an engine that is not fenced fences it exactly where the one before lies within 1 s (R538). -/
theorem strike_fenced_iff (now : Nat) {x : EngineSt} (h : x.fenced = false) :
    (strike now x).1.fenced = true ↔ ∃ a, x.last = some a ∧ now ≤ a + 1000000000 := by
  have h1 : second = 1000000000 := rfl
  simp [strike, h, h1, Option.any_eq_true]

theorem faultEngine_of_fenced (k : Engine) (n : Nat) (s : State)
    (h : ((engines k s.sec).get EngineSt.fresh n).fenced = true) : faultEngine k n s = s := by
  simp [faultEngine, h]

/-- What a fault notes of the engine it befalls. -/
theorem engines_faultEngine (k : Engine) (n : Nat) (s : State)
    (h : ((engines k s.sec).get EngineSt.fresh n).fenced = false) :
    (engines k (faultEngine k n s).sec).get EngineSt.fresh n =
      (strike s.clk.time ((engines k s.sec).get EngineSt.fresh n)).1 := by
  simp only [faultEngine, h, Bool.false_eq_true, if_false]
  split <;> simp

/-- A failed check is its encoder's fault (C5). -/
theorem encoders_encoderCheckFail (n : Fin 20) (s : State)
    (h : (s.sec.encoders.get EngineSt.fresh n.val).fenced = false) :
    ∃ t : State, exec (.encoderCheckFail n) s = .next t ∧ t.sec.encoders.get EngineSt.fresh n.val =
      (strike s.clk.time (s.sec.encoders.get EngineSt.fresh n.val)).1 := by
  simp only [exec_encoderCheckFail, execEncoderCheckFail, h, Bool.false_eq_true, if_false]
  refine ⟨_, rfl, ?_⟩
  split <;> simp

/-! ## Entropy and mask keys (R427 to R429, R437) -/

/-- A bad window: the third in a row fails the source (R427). -/
theorem entropyWindow_bad (s : State) (hon : saggarOn s = true) (hoff : blockOff .entropy s = false) :
    ∃ t : State, exec (.entropyWindow false) s = .next t ∧ t.sec.badRun = s.sec.badRun + 1 ∧ t.sec.goodRun = 0 ∧
      t.sec.entropyFailed = (s.sec.entropyFailed || s.sec.badRun == 2) := by
  simp only [exec_entropyWindow, execEntropyWindow, hon, hoff, Bool.not_true, Bool.or_self, Bool.false_eq_true, if_false]
  split
  · next third =>
    obtain ⟨h2, hok⟩ : s.sec.badRun = 2 ∧ s.sec.entropyFailed = false := by simpa using third
    exact ⟨_, rfl, by simp [h2, hok]⟩
  · next other =>
    refine ⟨_, rfl, rfl, rfl, ?_⟩
    cases hf : s.sec.entropyFailed
    · simpa [hf] using other
    · rfl

/-- A good window: the sixteenth in a row ends a failure (R429). -/
theorem entropyWindow_good (s : State) (hon : saggarOn s = true) (hoff : blockOff .entropy s = false) :
    ∃ t : State, exec (.entropyWindow true) s = .next t ∧ t.sec.badRun = 0 ∧ t.sec.goodRun = s.sec.goodRun + 1 ∧
      t.sec.entropyFailed = (s.sec.entropyFailed && decide (s.sec.goodRun < 15)) := by
  simp only [exec_entropyWindow, execEntropyWindow, hon, hoff, Bool.not_true, Bool.or_self, Bool.false_eq_true, if_false,
    if_true]
  split
  · next sixteenth =>
    obtain ⟨-, h15⟩ : s.sec.entropyFailed = true ∧ 15 ≤ s.sec.goodRun := by simpa using sixteenth
    exact ⟨_, rfl, by simp [h15]⟩
  · next other =>
    refine ⟨_, rfl, rfl, rfl, ?_⟩
    cases hf : s.sec.entropyFailed
    · rfl
    · simpa [hf, Nat.lt_succ_iff] using other

/-- The timer reseeds the DRBG from a source that works, and leaves the state as it is where it has failed (R428). -/
theorem exec_drbgReseedTimer_powered (s : State) (hon : saggarOn s = true) :
    (s.sec.entropyFailed = false →
      exec .drbgReseedTimer s = .next { s with sec := { s.sec with reseedAt := s.clk.time } }) ∧
    (s.sec.entropyFailed = true → exec .drbgReseedTimer s = .next s) := by
  constructor <;> intro hf <;> simp [execDrbgReseedTimer, hon, hf]

/-- A lane that takes operations is keyed, and a wrong known answer is its fault (R437, R539). -/
theorem exec_laneRekey_served (s : State) (n : Fin 20) (good : Bool) (hon : saggarOn s = true)
    (hoff : blockOff (.lane n) s = false) (hf : (s.sec.glaze.get EngineSt.fresh n.val).fenced = false) :
    exec (.laneRekey n good) s = .next (if good then keyLane n.val s else faultEngine .glazeLane n.val (keyLane n.val s)) := by
  simp [execLaneRekey, hon, hoff, hf]

theorem maskKey_keyLane (s : State) (n : Nat) :
    (keyLane n s).sec.maskKeys.find n = some (Config.random s.dp.io.fresh % 2 ^ 128) := by
  simp [keyLane, find_put]

/-! ## Held blocks (R448, R449, Table 13-9) -/

theorem mem_addNew {α : Type} [BEq α] [LawfulBEq α] (x : α) (l : List α) : x ∈ addNew x l := by
  unfold addNew
  split
  · next h => exact List.contains_iff_mem.mp h
  · simp

/-- A block that is gated: listed so, with no hold left, and the key slots as they were. -/
theorem gateBlock_gates (s : State) (b : HeldBlock) :
    b ∈ (gateBlock b s).sec.gated ∧ (∀ h ∈ (gateBlock b s).sec.holds, h.1 ≠ b) ∧
      (gateBlock b s).sec.slots = s.sec.slots := by
  have hgated : (gateBlock b s).sec.gated = addNew b s.sec.gated := by cases b <;> rfl
  have hholds : (gateBlock b s).sec.holds = s.sec.holds.filter (fun h => h.1 != b) := by cases b <;> rfl
  refine ⟨hgated ▸ mem_addNew b _, ?_, by cases b <;> rfl⟩
  simp [hholds]

/-- A hold request on a block that is not gated: released, its gate; else the hold is noted (R448). -/
theorem exec_vetoHoldRequest_ungated (s : State) (b : HeldBlock) (hon : saggarOn s = true)
    (hg : s.sec.gated.contains b = false) :
    exec (.vetoHoldRequest b true) s = .next (holdsGone (gateBlock b s)) ∧
    (blockOff b s = false → exec (.vetoHoldRequest b false) s =
      .next { s with sec := { s.sec with holds := s.sec.holds ++ [(b, s.clk.time)] } }) := by
  refine ⟨?_, fun hoff => ?_⟩
  · simp only [exec_vetoHoldRequest, execVetoHoldRequest, hon, hg, Bool.not_true, Bool.or_self, Bool.false_eq_true,
      if_false, if_true]
  · simp only [exec_vetoHoldRequest, execVetoHoldRequest, hon, hg, hoff, Bool.not_true, Bool.or_self,
      Bool.false_eq_true, if_false]

/-- 10 ms after a hold request its block is gated (R449). -/
theorem exec_vetoTimeout_due (s : State) (b : HeldBlock)
    (h : s.sec.holds.any (fun h => h.1 = b && h.2 + 10000000 ≤ s.clk.time) = true) :
    exec (.vetoTimeout b) s =
      .next (holdsGone (((gateBlock b s).onDp (fun _ => count 11 3 1)).log 0x0B04 4 srcAlwaysOn [])) :=
  if_pos h

/-! ## The ends of link tests, injections and diagnostic authority (R182, R186, R399) -/

theorem exec_linkTestTimeout_due (s : State) (p : CwPort) (ht : (s.dp.link p).testLeft.isSome = true)
    (hd : (s.dp.link p).testAt + 60000000000 ≤ s.clk.time) :
    exec (.linkTestTimeout p) s = .next (s.onDp (fun _ => stopTest p)) := by
  have : (s.dp.link p).testAt + 60 * second ≤ s.clk.time := hd
  simp [execLinkTestTimeout, ht, this]

theorem mem_onArm {n : Nat} {f : Arm → Arm} {s : State} {a : Arm} (h : a ∈ (onArm n f s).integ.arms) :
    ∃ x ∈ s.integ.arms, a = if x.id = n then f x else x := by
  obtain ⟨x, hx, rfl⟩ := List.mem_map.mp h
  exact ⟨x, hx, by simp⟩

/-- No injection with that number stays armed, unfired, for 60 s (R182). -/
theorem injectionArmTimeout_disarms (s : State) (n : Nat) :
    ∃ t : State, exec (.injectionArmTimeout n) s = .next t ∧ t.dp = s.dp ∧
      ∀ a ∈ t.integ.arms, a.id = n → a.st = .armed → a.fired = 0 → s.clk.time < a.since + 60000000000 := by
  refine ⟨_, rfl, rfl, fun a ha hid hst hfired => ?_⟩
  obtain ⟨x, -, rfl⟩ := mem_onArm ha
  by_cases hx : x.id = n
  · simp only [hx, if_true] at hst hfired ⊢
    split at hst
    · cases hst
    · next hstays =>
      rw [if_neg hstays] at hfired ⊢
      have h60 : 60 * second = 60000000000 := rfl
      simpa [hst, hfired, h60] using hstays
  · exact absurd hid (by rwa [if_neg hx])

theorem stopTest_mb (p : CwPort) (d : Dp) : (stopTest p d).mb = d.mb := setLink_mb _ _ _

theorem closeLoop_mb (n : Nat) (s : State) : (closeLoop n s).dp.mb = s.dp.mb := by
  unfold closeLoop
  split
  · split
    · rw [log_mb]
    · rfl
  · rfl

theorem foldl_mb {β : Type} (g : State → β → State) (h : ∀ s x, (g s x).dp.mb = s.dp.mb) (l : List β) (s : State) :
    (l.foldl g s).dp.mb = s.dp.mb := by
  induction l generalizing s with
  | nil => rfl
  | cons x t ih => rw [List.foldl_cons, ih, h]

/-- Once diagnostic authority has ended, no mailbox holds it. -/
theorem diag_endDiag (s : State) : (endDiag s).dp.mb.diag = none := by
  unfold endDiag
  split
  · simp [extendMeas, foldl_mb _ (fun s n => closeLoop_mb n s), stopTest, cwPorts, disarmAll]
  · next h => simpa using h

theorem diagAuthIdleTimeout_ends (s : State) (hd : s.dp.mb.diag.isSome = true)
    (ht : s.dp.mb.diagAt + 600000000000 ≤ s.clk.time) :
    ∃ t : State, exec .diagAuthIdleTimeout s = .next t ∧ t.dp.mb.diag = none := by
  have : s.dp.mb.diagAt + 600 * second ≤ s.clk.time := ht
  exact ⟨endDiag s, by simp [execDiagAuthIdleTimeout, hd, this], diag_endDiag s⟩

/-- Settles O35, clause by clause from the laws of the units above. -/
theorem enginesEntropyAndHolds : Obligations.EnginesEntropyAndHolds := by
  unfold Obligations.EnginesEntropyAndHolds
  refine ⟨fun s k n => ⟨fun h => ?_, fun h => ⟨faultEngine k n s, rfl, ?_⟩⟩,
    fun s n => ⟨rfl, rfl⟩, fun s n h => ?_,
    fun s hon hoff => ⟨entropyWindow_bad s hon hoff, entropyWindow_good s hon hoff⟩, exec_drbgReseedTimer_powered,
    fun s n hon hoff hf => ⟨exec_laneRekey_served s n true hon hoff hf, exec_laneRekey_served s n false hon hoff hf⟩,
    maskKey_keyLane, exec_vetoHoldRequest_ungated, gateBlock_gates, exec_vetoTimeout_due, exec_linkTestTimeout_due,
    injectionArmTimeout_disarms, diagAuthIdleTimeout_ends⟩
  · rw [exec_engineFault, execEngineFault, faultEngine_of_fenced k n s h]
  · rw [engines_faultEngine k n s h]
    exact ⟨rfl, strike_fenced_iff _ h⟩
  · obtain ⟨t, ht, hx⟩ := encoders_encoderCheckFail n s h
    refine ⟨t, ht, ?_⟩
    rw [hx]
    exact ⟨rfl, strike_fenced_iff _ h⟩

end Sys2Proof.Proofs

/-! # Link acknowledgement while a frame waits for its window (R278, R420) -/

namespace Sys2Proof.Proofs

open Sys2Proof.Machine Sys2Proof.Laws

/-- No frame leaves a port on which every waiting frame is past the window's share (R420). -/
theorem nextOut_eq_none {act : Nat} {l : CwLink} (h : ∀ o ∈ l.txq, bulkRoom act l o = false) : nextOut act l = none := by
  have hq : l.txq.filter (bulkRoom act l) = [] := List.filter_eq_nil_iff.mpr (by simpa using h)
  simp only [nextOut, hq]
  rfl

theorem drainLink_of_nextOut_none (now : Nat) (p : CwPort) (n : Nat) {d : Dp}
    (h : nextOut (d.act 1) (d.link p) = none) : drainLink now p n d = d := by
  cases n with
  | zero => rfl
  | succ n => simp [drainLink, h]

@[simp] theorem act_setLink (d : Dp) (p : CwPort) (l : CwLink) (z : Nat) : (d.setLink p l).act z = d.act z := by
  simp [Dp.act]

/-- LINK_ACK frees what it covers, and the frames that wait stay where they are while the window has no room for them:
room in the replay buffer is not enough (R278, R420). -/
theorem linkCtlAck_keeps_waiting {s : State} {p : CwPort} {q i : Nat} (hopen : ringOpen s.env s.dp = true)
    (hup : (s.dp.link p).up = true) (hi : (s.dp.link p).replay.findIdx? (fun x => x.1 = q) = some i)
    (hfull : ∀ o ∈ (s.dp.link p).txq, bulkRoom (s.dp.act 1) (s.dp.link p) o = false) :
    exec (.linkCtlAck p q) s = .next (s.onDp (fun e d =>
      d.setLink p { d.link p with replay := (d.link p).replay.drop (i + 1), ackAt := e.now })) := by
  simp only [exec_linkCtlAck, execLinkCtlAck, State.onDp, hopen, hup, hi, Bool.and_self]
  rw [drainLink_of_nextOut_none]
  rw [act_setLink, link_setLink]
  exact nextOut_eq_none hfull

/-- Port NE with zone Z1 at half its activity: 5,000,000 bytes of classes 3 and 4, the share of its eight lanes, have
gone out in this window; one link-test frame stands in the replay buffer and the next one waits. -/
def bulkShareSpent : State :=
  { State.reset with
    pwr := { Pwr.reset with state := .flood }
    dp := { Dp.reset with
      bw := { Bw.reset with acts := [(1, 32768)] }
      ring := { Ring.reset with
        ne := { CwLink.reset with
          up := true, lanes := 8, wide := 8, txSeq := 1, winAll := 5000000, win4 := 5000000, winBulk := 5000000,
          replay := [(0, .link .ne (.test 0 []))], txq := [.link .ne (.test 1 [])] } } } }

/-- Refutes O26: the clause on LINK_ACK has a frame that waits go out once the replay buffer has room. On
`bulkShareSpent` the frame is of class 4 and Z1's share of the window is spent, so it waits on for the next window (R420). -/
theorem not_linkReplayAndEndToEndTimers : ¬ Obligations.LinkReplayAndEndToEndTimers := by
  unfold Obligations.LinkReplayAndEndToEndTimers
  rintro ⟨-, hack, -⟩
  have hopen : ringOpen bulkShareSpent.env bulkShareSpent.dp = true := by decide
  have hi : (bulkShareSpent.dp.link .ne).replay.findIdx? (fun x => x.1 = 0) = some 0 := by decide
  have hfull : ∀ o ∈ (bulkShareSpent.dp.link .ne).txq,
      bulkRoom (bulkShareSpent.dp.act 1) (bulkShareSpent.dp.link .ne) o = false := by decide
  obtain ⟨-, -, hwaits, -⟩ := hack bulkShareSpent .ne 0 0 hopen rfl hi
  obtain ⟨t, ht, hempty, -⟩ := hwaits (.link .ne (.test 1 [])) rfl (by decide)
  rw [linkCtlAck_keeps_waiting hopen rfl hi hfull] at ht
  cases ht
  rw [onDp_dp, link_setLink] at hempty
  exact List.cons_ne_nil _ _ hempty

end Sys2Proof.Proofs

/-! # Responses, and RESHAPE_STATUS of the registry pool (R41, R382) -/

namespace Sys2Proof.Proofs

open Sys2Proof.Machine Sys2Proof.Laws

/-! ## Responses in a mailbox of a host port (R382) -/

@[simp] theorem length_leBytes (n v : Nat) : (leBytes n v).length = n := by
  induction n generalizing v with
  | zero => rfl
  | succ n ih => simp [leBytes, ih]

/-- A response is a header of 16 bytes and its payload (Table 11-3). -/
theorem length_responseBytes (r : MbReq) (st det : Nat) (pl : List Byte) :
    (responseBytes r st det pl).length = 16 + pl.length := by
  simp only [responseBytes, List.length_append, length_leBytes]

@[simp] theorem msix_mb (e : Env) (p : PortId) (v : Nat) (d : Dp) : (msix e p v d).mb = d.mb := by
  simp only [msix]
  split
  · split
    · rfl
    · simp
  · rfl

@[simp] theorem causePort_mb (e : Env) (bit : Nat) (p : PortId) (d : Dp) : (causePort e bit p d).mb = d.mb := by
  simp only [causePort]
  split
  · split <;> simp
  · rfl

theorem mail_congr {d d' : Dp} (h : d.mb = d'.mb) (m : Mbx) : d.mail m = d'.mail m := by
  unfold Dp.mail
  rw [h]

/-- A mailbox that runs a request exists. -/
theorem box_of_request {d : Dp} {m : Mbx} {r : MbReq} (h : d.request m = some r) : ∃ x ∈ d.mb.boxes, x.box = m := by
  unfold Dp.request Dp.mail at h
  cases hx : d.mb.boxes.find? (fun b => b.box = m) with
  | none => simp [hx, Mail.reset] at h
  | some x => exact ⟨x, List.mem_of_find?_eq_some hx, by simpa using List.find?_some hx⟩

/-- RESP_LEN tells the response's length (R382). -/
theorem respLen_respond (e : Env) (p : PortId) (n : Fin 4) (st det : Nat) (pl : List Byte) {d : Dp} {r : MbReq}
    (h : d.request (.host p n) = some r) :
    ((respond e (.host p n) st det pl d).mail (.host p n)).respLen = 16 + pl.length := by
  have hbox := box_of_request h
  simp only [respond, h]
  split
  · rw [mail_congr (causePort_mb _ _ _ _), mail_onMail _ _ _ ?_ hbox, length_responseBytes]
    exact fun _ => rfl
  · rw [mail_onMail _ _ _ ?_ hbox, length_responseBytes]
    exact fun _ => rfl

/-- On a running request a refusal is told apart from a response that has a payload. -/
theorem deny_ne_answer (s : State) (p : PortId) (n : Fin 4) (st det : Nat) {pl : List Byte} {r : MbReq}
    (h : s.dp.request (.host p n) = some r) (hpl : pl ≠ []) : s.deny (.host p n) st det ≠ s.answer (.host p n) pl := by
  intro heq
  have hlen := congrArg (fun t : State => (t.dp.mail (.host p n)).respLen) heq
  simp only [State.deny, State.answer, onDp_dp, respLen_respond _ _ _ _ _ _ h, List.length_nil] at hlen
  exact hpl (List.length_eq_zero_iff.mp (by omega))

/-! ## RESHAPE_STATUS (R41, R219) -/

theorem handle_shownPool {s : State} {n : Nat} {p : PoolRec} (h : shownPool s n = some p) : p.handle = n := by
  obtain ⟨hp, -⟩ := Option.filter_eq_some_iff.mp h
  simpa using List.find?_some hp

/-- RESHAPE_STATUS that names handle 0, the registry pool, fails with POOL_NOT_FOUND (R41). -/
theorem reshapeStatus_registry {s : State} {m : Mbx} {r : MbReq} (ha : Asked s m 0x0107 r)
    (h0 : fieldAt r.payload 0 1 = 0) : exec (.reshapeStatus m) s = .next (s.deny m msNoPool 0) := by
  obtain ⟨hr, hop, hw⟩ := ha
  have hnone : (shownPool s (fieldAt r.payload 0 1)).filter (fun p => p.handle != 0) = none := by
    cases hp : shownPool s (fieldAt r.payload 0 1) with
    | none => rfl
    | some p => simp [Option.filter, handle_shownPool hp, h0]
  rw [exec_reshapeStatus, execReshapeStatus, onRequest_asked m _ _ s r hr hop hw, hnone]

/-- RESHAPE_STATUS of handle 0. -/
def registryStatusReq : MbReq :=
  { opcode := 0x0107, token := 1, length := 1, clean := true, payload := [0], waiting := false }

/-- MB0 of port A runs that request, on a device whose registry holds the registry pool alone. -/
def registryStatusAsked : State :=
  { State.reset with
    dp := Dp.reset.onMail (.host .a 0) (fun x => { x with busy := true, request := some registryStatusReq }) }

/-- Refutes O11: the clause on RESHAPE_STATUS of a pool that is shown takes in the registry pool, which is shown (POOL_QUERY
reports it) and which RESHAPE_STATUS refuses (R41), as on `registryStatusAsked`. -/
theorem not_identifyAndStatusAnswer : ¬ Obligations.IdentifyAndStatusAnswer := by
  unfold Obligations.IdentifyAndStatusAnswer
  rintro ⟨-, hshown, -⟩
  have hasked : Asked registryStatusAsked (.host .a 0) 0x0107 registryStatusReq := by decide
  obtain ⟨p, hp, hnone⟩ : ∃ p, shownPool registryStatusAsked (fieldAt registryStatusReq.payload 0 1) = some p ∧
      p.reshape = none := ⟨_, rfl, rfl⟩
  obtain ⟨-, hanswer, -⟩ := hshown registryStatusAsked (.host .a 0) registryStatusReq p hp
  have h := (reshapeStatus_registry hasked rfl).symm.trans (hanswer hasked hnone)
  injection h with h
  exact deny_ne_answer _ _ _ _ _ hasked.1 (by simp) h

end Sys2Proof.Proofs

/-! # Header reads and admission of the pool commands (R16, R350, R351, R355, R418) -/

namespace Sys2Proof.Proofs

open Sys2Proof.Machine Sys2Proof.Laws

/-! ## The command of a tag -/

theorem key_of_cmd {d : Dp} {k : CmdKey} {c : Cmd} (h : d.cmd k = some c) : c.key = k := by
  simpa using List.find?_some h

/-- A change that keeps keys changes the command it names. -/
theorem cmd_onCmd (d : Dp) (k : CmdKey) {f : Cmd → Cmd} (hf : ∀ c, (f c).key = c.key) :
    (d.onCmd k f).cmd k = (d.cmd k).map f := by
  simp only [Dp.onCmd, Dp.cmd]
  rw [find_updateWhere _ _ _ _ (fun c => by rw [hf])]
  cases h : d.vq.cmds.find? (fun c => c.key = k) with
  | none => rfl
  | some c => simp [key_of_cmd h]

/-! ## What the checks and the tables of pending mappings depend on -/

/-- The checks of R355 look at the shoal's and the ring's records alone. -/
theorem checkDesc_congr {d d' : Dp} (hsh : d'.sh = d.sh) (hring : d'.ring = d.ring) (e : Env) (c : Cmd) :
    checkDesc e d' c = checkDesc e d c := by
  cases d; cases d'; cases hsh; cases hring; rfl

theorem dataPool_congr {d d' : Dp} (hsh : d'.sh = d.sh) (n : Nat) : dataPool d' n = dataPool d n := by
  unfold dataPool
  rw [hsh]

/-- Whether a member's table is full depends on the map besides. -/
theorem fullFor_congr {d d' : Dp} (hsh : d'.sh = d.sh) (hring : d'.ring = d.ring) (hmap : d'.map = d.map) (e : Env)
    (r : PoolRec) : fullFor e d' r = fullFor e d r := by
  cases d; cases d'; cases hsh; cases hring; cases hmap; rfl

theorem bucket_congr {d d' : Dp} (h : d'.bw = d.bw) (n : Nat) : d'.bucket n = d.bucket n := by
  unfold Dp.bucket
  rw [h]

/-- A pool that a data command may name stands in the registry (R41). -/
theorem pool_of_dataPool {d : Dp} {n : Nat} {r : PoolRec} (h : dataPool d n = some r) : d.sh.reg.pool n = some r := by
  unfold dataPool at h
  split at h
  · cases h
  · split at h
    · next hp =>
      split at h
      · cases h
      · rwa [hp]
    · cases h

/-! ## The header read (R350, R351) -/

@[simp] theorem takeTurn_vq (p : PortId) (q : Nat) (d : Dp) : (takeTurn p q d).vq = d.vq := setPort_vq ..
@[simp] theorem takeTurn_sh (p : PortId) (q : Nat) (d : Dp) : (takeTurn p q d).sh = d.sh := setPort_sh ..
@[simp] theorem takeTurn_ring (p : PortId) (q : Nat) (d : Dp) : (takeTurn p q d).ring = d.ring := setPort_ring ..
@[simp] theorem takeTurn_map (p : PortId) (q : Nat) (d : Dp) : (takeTurn p q d).map = d.map := setPort_map ..
@[simp] theorem takeTurn_bw (p : PortId) (q : Nat) (d : Dp) : (takeTurn p q d).bw = d.bw := setPort_bw ..

/-- A command with its header read: the descriptor, and the list segments read with it. -/
def headerCmd (desc : BitVec 512) (ds ms : List (List (BitVec 128))) (c : Cmd) : Cmd :=
  { c with
    stage := .header, desc := desc, segs := ds, metaSegs := ms, opcode := dOpcode desc, pool := dPool desc,
    lba := dLba desc, len := dLength desc }

@[simp] theorem headerCmd_key (desc : BitVec 512) (ds ms : List (List (BitVec 128))) (c : Cmd) :
    (headerCmd desc ds ms c).key = c.key := rfl
@[simp] theorem headerCmd_opcode (desc : BitVec 512) (ds ms : List (List (BitVec 128))) (c : Cmd) :
    (headerCmd desc ds ms c).opcode = dOpcode desc := rfl

section
variable (k : CmdKey) (desc : BitVec 512) (ds ms : List (List (BitVec 128))) (d : Dp)

@[simp] theorem readHeader_sh : (readHeader k desc ds ms d).sh = d.sh := by
  unfold readHeader; split <;> simp
@[simp] theorem readHeader_ring : (readHeader k desc ds ms d).ring = d.ring := by
  unfold readHeader; split <;> simp
@[simp] theorem readHeader_map : (readHeader k desc ds ms d).map = d.map := by
  unfold readHeader; split <;> simp
@[simp] theorem readHeader_bw : (readHeader k desc ds ms d).bw = d.bw := by
  unfold readHeader; split <;> simp

/-- The checks judge a descriptor after its header is read as they did before. -/
@[simp] theorem checkDesc_readHeader (e : Env) (x : Cmd) :
    checkDesc e (readHeader k desc ds ms d) x = checkDesc e d x := checkDesc_congr (by simp) (by simp) e x
@[simp] theorem dataPool_readHeader (n : Nat) : dataPool (readHeader k desc ds ms d) n = dataPool d n :=
  dataPool_congr (by simp) n
@[simp] theorem fullFor_readHeader (e : Env) (r : PoolRec) :
    fullFor e (readHeader k desc ds ms d) r = fullFor e d r := fullFor_congr (by simp) (by simp) (by simp) e r
@[simp] theorem bucket_readHeader (n : Nat) : (readHeader k desc ds ms d).bucket n = d.bucket n :=
  bucket_congr (by simp) n

variable {k desc ds ms d} {c : Cmd}

/-- The command moves behind every header read before it. -/
theorem cmds_readHeader (h : d.cmd k = some c) :
    (readHeader k desc ds ms d).vq.cmds = d.vq.cmds.filter (fun x => x.key != k) ++ [headerCmd desc ds ms c] := by
  simp [readHeader, h, headerCmd]

/-- The tag's command is then the one with its header read. -/
theorem cmd_readHeader (h : d.cmd k = some c) :
    (readHeader k desc ds ms d).cmd k = some (headerCmd desc ds ms c) := by
  have hold : (d.vq.cmds.filter (fun x => x.key != k)).find? (fun x => x.key = k) = none := by
    simp [List.find?_eq_none]
  rw [Dp.cmd, cmds_readHeader h, List.find?_append, hold]
  simp [headerCmd, key_of_cmd h]

/-- Where no write of its pool waits, a write whose header is read is the one that waits. -/
theorem waitingWrites_readHeader (h : d.cmd k = some c) (hw : isWriteOp (dOpcode desc) = true)
    (ha : c.admitted = false) (hnone : waitingWrites d (dPool desc) = []) :
    waitingWrites (readHeader k desc ds ms d) (dPool desc) = [headerCmd desc ds ms c] := by
  have hold : (d.vq.cmds.filter (fun x => x.key != k)).filter
      (fun c => c.stage = .header && isWriteOp c.opcode && !c.admitted && c.pool = dPool desc) = [] := by
    rw [List.filter_filter, List.filter_eq_nil_iff]
    intro x hx hmine
    exact List.filter_eq_nil_iff.mp hnone x hx (Bool.and_eq_true_iff.mp hmine).1
  rw [waitingWrites, cmds_readHeader h, List.filter_append, hold]
  simp [headerCmd, hw, ha]

end

/-! ## Admission (R418) -/

@[simp] theorem undelay_vq (e : Env) (n : Nat) (d : Dp) : (undelay e n d).vq = d.vq := by
  simp [undelay, apply_ite Dp.vq]
@[simp] theorem undelay_sh (e : Env) (n : Nat) (d : Dp) : (undelay e n d).sh = d.sh := by
  simp [undelay, apply_ite Dp.sh]
@[simp] theorem undelay_ring (e : Env) (n : Nat) (d : Dp) : (undelay e n d).ring = d.ring := by
  simp [undelay, apply_ite Dp.ring]

/-- The end of a pool's delay leaves its bucket as full as it was. -/
theorem bucket_undelay (e : Env) (n : Nat) (d : Dp) :
    ((undelay e n d).bucket n).tokens = (d.bucket n).tokens ∧ ((undelay e n d).bucket n).spent = (d.bucket n).spent := by
  unfold undelay
  dsimp only
  split
  · split <;> simp [bucket_setBucket]
  · exact ⟨rfl, rfl⟩

/-- The bucket of a pool from which a cost is taken. -/
def drawn (b : Bucket) (cost : Nat) : Bucket := { b with tokens := b.tokens - cost, spent := b.spent + cost }

/-- A command that Breakwater has admitted. -/
def admittedCmd (c : Cmd) : Cmd := { c with admitted := true }

/-- A write command that Breakwater admits now: it is the only one of its pool that waits, the tables of pending mappings
have room, and the bucket holds its cost. -/
structure Admissible (e : Env) (d : Dp) (c : Cmd) (r : PoolRec) : Prop where
  pool : dataPool d c.pool = some r
  first : waitingWrites d c.pool = [c]
  room : fullFor e d r = false
  holds : bucketHolds (fillBucket e (d.bucket c.pool)) (writeCost r.iu c) = true

/-- The command is admitted, its cost is taken from its pool's bucket, filled up to now, and a member of the pool notes the
time of its last write. -/
def charge (e : Env) (c : Cmd) (r : PoolRec) (d : Dp) : Dp :=
  let b := fillBucket e (d.bucket c.pool)
  { ((d.setBucket c.pool b).setBucket c.pool (drawn b (writeCost r.iu c))).onCmd c.key admittedCmd with
    med := { d.med with lastWrite := if r.ranks.contains e.rank then e.now else d.med.lastWrite } }

theorem bucket_charge (e : Env) (c : Cmd) (r : PoolRec) (d : Dp) :
    (charge e c r d).bucket c.pool = drawn (fillBucket e (d.bucket c.pool)) (writeCost r.iu c) :=
  (bucket_congr rfl c.pool).trans ((bucket_setBucket ..).trans (if_pos rfl))

section
variable {e : Env} {d : Dp} {c : Cmd} {r : PoolRec}

theorem admitWrite_eq (h : Admissible e d c r) : admitWrite e c d = undelay e c.pool (charge e c r d) := by
  have first (b : Bucket) : waitingWrites (d.setBucket c.pool b) c.pool = [c] := h.first
  have room (b : Bucket) : fullFor e (d.setBucket c.pool b) r = false :=
    (fullFor_congr (by simp) (by simp) (by simp) e r).trans h.room
  simp only [admitWrite, h.pool, first, room, h.holds, List.head?_cons, Option.map_some, decide_true, Bool.not_false,
    Bool.and_self, if_true]
  rfl

theorem admitWrite_sh (h : Admissible e d c r) : (admitWrite e c d).sh = d.sh := by
  simp [admitWrite_eq h, charge]

theorem admitWrite_ring (h : Admissible e d c r) : (admitWrite e c d).ring = d.ring := by
  simp [admitWrite_eq h, charge]

theorem cmd_admitWrite (h : Admissible e d c r) (hc : d.cmd c.key = some c) :
    (admitWrite e c d).cmd c.key = some (admittedCmd c) := by
  rw [admitWrite_eq h, Dp.cmd, undelay_vq]
  exact (cmd_onCmd d c.key (f := admittedCmd) (fun _ => rfl)).trans (congrArg (Option.map admittedCmd) hc)

/-- The cost leaves the bucket, filled up to now. -/
theorem bucket_admitWrite (h : Admissible e d c r) :
    ((admitWrite e c d).bucket c.pool).tokens = (fillBucket e (d.bucket c.pool)).tokens - writeCost r.iu c ∧
    ((admitWrite e c d).bucket c.pool).spent = (fillBucket e (d.bucket c.pool)).spent + writeCost r.iu c := by
  obtain ⟨htokens, hspent⟩ := bucket_undelay e c.pool (charge e c r d)
  rw [admitWrite_eq h, htokens, hspent, bucket_charge]
  exact ⟨rfl, rfl⟩

/-- A write whose header is read is admitted where no write of its pool waits before it. -/
theorem admissible_readHeader {k : CmdKey} {desc : BitVec 512} {ds ms : List (List (BitVec 128))} (hc : d.cmd k = some c)
    (hw : isWriteOp (dOpcode desc) = true) (ha : c.admitted = false) (hr : dataPool d (dPool desc) = some r)
    (hnone : waitingWrites d (dPool desc) = []) (hfull : fullFor e d r = false)
    (hb : bucketHolds (fillBucket e (d.bucket (dPool desc))) (writeCost r.iu (headerCmd desc ds ms c)) = true) :
    Admissible e (readHeader k desc ds ms d) (headerCmd desc ds ms c) r where
  pool := (dataPool_readHeader ..).trans hr
  first := waitingWrites_readHeader hc hw ha hnone
  room := (fullFor_readHeader ..).trans hfull
  holds := by
    rw [bucket_readHeader]
    exact hb

end

/-! ## A header that waits goes on (R16, R355) -/

/-- On a device that is READY the pool command `c` has its header read; it comes to be admitted, or needs no admission,
and is then `c'` in `d'`. -/
structure GoesOn (e : Env) (k : CmdKey) (c : Cmd) (d : Dp) (c' : Cmd) (d' : Dp) : Prop where
  ready : e.ready = true
  notSafe : e.safe = false
  cmd : d.cmd k = some c
  stage : c.stage = .header
  opcode : c.opcode ≤ opVerify
  admission : (if isWriteOp c.opcode && !c.admitted then admitWrite e c d else d) = d'
  cmd' : d'.cmd k = some c'
  admitted : (isWriteOp c'.opcode && !c'.admitted) = false

section
variable {e : Env} {k : CmdKey} {d d' : Dp} {c c' : Cmd}

theorem GoesOn.waits (h : GoesOn e k c d c' d') :
    (decide (c.stage = .header) && c.opcode != opCodec && c.opcode != opGlaze) = true := by
  have hop : c.opcode ≤ 6 := h.opcode
  have hcodec : c.opcode ≠ opCodec := fun heq => absurd (heq ▸ hop) (by decide)
  have hglaze : c.opcode ≠ opGlaze := fun heq => absurd (heq ▸ hop) (by decide)
  simp [h.stage, hcodec, hglaze]

/-- Once it passes the checks it runs. -/
theorem startHeader_passes {r : PoolRec} (h : GoesOn e k c d c' d') (hcheck : checkDesc e d' c' = none)
    (hr : d'.sh.reg.pool c'.pool = some r) : startHeader e k d = d'.onCmd k (startCmd r) := by
  simp only [startHeader, h.cmd, h.waits, h.ready, h.notSafe, h.admission, h.cmd', h.admitted, hcheck, hr, Bool.not_true,
    Bool.false_eq_true, if_true, if_false]

/-- A failed check completes it. -/
theorem startHeader_fails {st : Nat} (h : GoesOn e k c d c' d') (hcheck : checkDesc e d' c' = some st) :
    startHeader e k d = complete e k st 0 0 d' := by
  simp only [startHeader, h.cmd, h.waits, h.ready, h.notSafe, h.admission, h.cmd', h.admitted, hcheck, Bool.not_true,
    Bool.false_eq_true, if_true, if_false]

end

/-! ## The rows of the pool commands -/

/-- A row of the opcode `op` on a device that is READY: the header of the command `c` may be read, and its descriptor has
that opcode. -/
structure Fetches (s : State) (op : Nat) (k : CmdKey) (desc : BitVec 512) (c : Cmd) : Prop where
  cmd : s.dp.cmd k = some c
  ready : s.boot.ready = true
  notSafe : s.boot.safe = false
  opcode : dOpcode desc = op
  poolOp : op ≤ opVerify
  fetch : mayFetch s k op = true

section
variable {s : State} {op : Nat} {k : CmdKey} {desc : BitVec 512} {ds ms : List (List (BitVec 128))} {c : Cmd} {i : Instr}
  {r : PoolRec}

/-- The row reads the header, and the command goes on (R351). -/
theorem poolRow_fetches (hi : exec i s = .next (poolCommand op k desc ds ms s)) (hop : dOpcode desc = op)
    (hf : mayFetch s k op = true) :
    exec i s = .next (s.onDp (fun e d => startHeader e k (readHeader k desc ds ms d))).work := by
  simp [hi, poolCommand, hop, hf]

/-- Where the header may not be read, the row leaves the state as it is. -/
theorem poolRow_waits (hi : exec i s = .next (poolCommand op k desc ds ms s)) (hf : mayFetch s k op = false) :
    exec i s = .next s := by
  simp [hi, poolCommand, hf]

/-- READ and VERIFY need no admission. -/
theorem Fetches.goesOn_read (h : Fetches s op k desc c) (hw : isWriteOp op = false) :
    GoesOn s.env k (headerCmd desc ds ms c) (readHeader k desc ds ms s.dp) (headerCmd desc ds ms c)
      (readHeader k desc ds ms s.dp) where
  ready := h.ready
  notSafe := h.notSafe
  cmd := cmd_readHeader h.cmd
  stage := rfl
  opcode := h.opcode.trans_le h.poolOp
  admission := by simp [h.opcode, hw]
  cmd' := cmd_readHeader h.cmd
  admitted := by simp [h.opcode, hw]

/-- The writes go on once they are admitted. -/
theorem Fetches.goesOn_write (h : Fetches s op k desc c) (hw : isWriteOp op = true) (ha : c.admitted = false)
    (hadm : Admissible s.env (readHeader k desc ds ms s.dp) (headerCmd desc ds ms c) r) :
    GoesOn s.env k (headerCmd desc ds ms c) (readHeader k desc ds ms s.dp) (admittedCmd (headerCmd desc ds ms c))
      (admitWrite s.env (headerCmd desc ds ms c) (readHeader k desc ds ms s.dp)) where
  ready := h.ready
  notSafe := h.notSafe
  cmd := cmd_readHeader h.cmd
  stage := rfl
  opcode := h.opcode.trans_le h.poolOp
  admission := by simp [headerCmd, h.opcode, hw, ha]
  cmd' := by
    obtain rfl : c.key = k := key_of_cmd h.cmd
    exact cmd_admitWrite hadm (cmd_readHeader h.cmd)
  admitted := by simp [admittedCmd]

/-- A READ or VERIFY that passes the checks runs (R355). -/
theorem readRow_runs (hi : exec i s = .next (poolCommand op k desc ds ms s)) (h : Fetches s op k desc c)
    (hw : isWriteOp op = false) (hr : dataPool s.dp (dPool desc) = some r)
    (hcheck : checkDesc s.env s.dp (headerCmd desc ds ms c) = none) :
    ∃ u : State, exec i s = .next u.work ∧ u.dp.cmd k = some (startCmd r (headerCmd desc ds ms c)) := by
  have hpool : (readHeader k desc ds ms s.dp).sh.reg.pool (dPool desc) = some r :=
    pool_of_dataPool ((dataPool_readHeader ..).trans hr)
  refine ⟨_, poolRow_fetches hi h.opcode h.fetch, ?_⟩
  rw [onDp_dp, startHeader_passes (h.goesOn_read hw) ((checkDesc_readHeader ..).trans hcheck) hpool,
    cmd_onCmd _ _ (f := startCmd r) (fun _ => rfl), cmd_readHeader h.cmd]
  rfl

/-- A READ or VERIFY that fails a check completes with the status of its first failure (R355). -/
theorem readRow_fails {st : Nat} (hi : exec i s = .next (poolCommand op k desc ds ms s)) (h : Fetches s op k desc c)
    (hw : isWriteOp op = false) (hcheck : checkDesc s.env s.dp (headerCmd desc ds ms c) = some st) :
    ∃ u : State, exec i s = .next (u.onDp (fun e => complete e k st 0 0)).work ∧
      u.dp.cmd k = some (headerCmd desc ds ms c) := by
  refine ⟨s.onDp (fun _ => readHeader k desc ds ms), ?_, cmd_readHeader h.cmd⟩
  have hfails := startHeader_fails (h.goesOn_read (ds := ds) (ms := ms) hw) ((checkDesc_readHeader ..).trans hcheck)
  rw [poolRow_fetches hi h.opcode h.fetch]
  simp only [State.onDp, hfails]
  rfl

/-- A write that passes the checks and that Breakwater admits runs, and its cost leaves the bucket (R355, R418). -/
theorem writeRow_runs (hi : exec i s = .next (poolCommand op k desc ds ms s)) (h : Fetches s op k desc c)
    (hw : isWriteOp op = true) (ha : c.admitted = false)
    (hadm : Admissible s.env (readHeader k desc ds ms s.dp) (headerCmd desc ds ms c) r)
    (hcheck : checkDesc s.env s.dp (headerCmd desc ds ms c) = none) :
    ∃ u : State, exec i s = .next u.work ∧
      u.dp.cmd k = some (startCmd r (admittedCmd (headerCmd desc ds ms c))) ∧
      (u.dp.bucket (dPool desc)).tokens =
        (fillBucket s.env (s.dp.bucket (dPool desc))).tokens - writeCost r.iu (headerCmd desc ds ms c) ∧
      (u.dp.bucket (dPool desc)).spent =
        (fillBucket s.env (s.dp.bucket (dPool desc))).spent + writeCost r.iu (headerCmd desc ds ms c) := by
  have hgo := h.goesOn_write hw ha hadm
  have hcheck' : checkDesc s.env (admitWrite s.env (headerCmd desc ds ms c) (readHeader k desc ds ms s.dp))
      (admittedCmd (headerCmd desc ds ms c)) = none :=
    (checkDesc_congr (admitWrite_sh hadm) (admitWrite_ring hadm) ..).trans ((checkDesc_readHeader ..).trans hcheck)
  have hpool : (admitWrite s.env (headerCmd desc ds ms c) (readHeader k desc ds ms s.dp)).sh.reg.pool (dPool desc) =
      some r := pool_of_dataPool ((dataPool_congr (admitWrite_sh hadm) _).trans hadm.pool)
  have hbucket := bucket_admitWrite hadm
  rw [bucket_readHeader] at hbucket
  refine ⟨_, poolRow_fetches hi h.opcode h.fetch, ?_⟩
  rw [onDp_dp, startHeader_passes hgo hcheck' hpool]
  refine ⟨?_, hbucket⟩
  rw [cmd_onCmd _ _ (f := startCmd r) (fun _ => rfl), hgo.cmd']
  rfl

end

/-- Settles O2: the rows of READ and VERIFY run at once, the rows of the writes once Breakwater admits them. -/
theorem poolCommandsReadTheirHeader : Obligations.PoolCommandsReadTheirHeader := by
  unfold Obligations.PoolCommandsReadTheirHeader
  refine ⟨fun s p q t desc ds ms c r => ?_, fun s p q t desc ds ms c st => ?_,
    fun s p q t desc ds ms => ⟨poolRow_fetches rfl, poolRow_fetches rfl, poolRow_fetches rfl, poolRow_fetches rfl,
      poolRow_fetches rfl, poolRow_fetches rfl⟩,
    fun s p q t desc ds ms => ⟨poolRow_waits rfl, poolRow_waits rfl⟩,
    fun d k c desc ds ms hc => ⟨_, cmd_readHeader hc, rfl, rfl, rfl, rfl, rfl, rfl⟩⟩
  · intro k h runs b cost writes hc _ hready hsafe hr hcheck
    have reads {i : Instr} {op : Nat} (hi : exec i s = .next (poolCommand op k desc ds ms s)) (hle : op ≤ opVerify)
        (hw : isWriteOp op = false) (hop : dOpcode desc = op) (hf : mayFetch s k op = true) : runs i h := by
      obtain ⟨u, hu, hcmd⟩ := readRow_runs hi ⟨hc, hready, hsafe, hop, hle, hf⟩ hw hr hcheck
      exact ⟨u, hu, hcmd, rfl, rfl⟩
    refine ⟨reads rfl (by decide) rfl, reads rfl (by decide) rfl, fun ha hnone hfull hb => ?_⟩
    have admits {i : Instr} {op : Nat} (hi : exec i s = .next (poolCommand op k desc ds ms s)) (hle : op ≤ opVerify)
        (hw : isWriteOp op = true) (hop : dOpcode desc = op) (hf : mayFetch s k op = true) : writes i :=
      writeRow_runs hi ⟨hc, hready, hsafe, hop, hle, hf⟩ hw ha
        (admissible_readHeader hc (hop ▸ hw) ha hr hnone hfull hb) hcheck
    exact ⟨admits rfl (by decide) rfl, admits rfl (by decide) rfl, admits rfl (by decide) rfl,
      admits rfl (by decide) rfl⟩
  · intro k h hc hready hsafe hop hf hcheck
    exact readRow_fails rfl ⟨hc, hready, hsafe, hop, by decide, hf⟩ rfl hcheck

end Sys2Proof.Proofs

/-! # The gap of an Ebb (R62, R517, R518, R521, R547) -/

namespace Sys2Proof.Proofs

open Sys2Proof.Machine Sys2Proof.Laws

/-! ## A record written, a cause raised -/

/-- The newest record of the ring is the one written last (R547). -/
theorem getLast_logAt (now code sev src : Nat) (a : BitVec 128) (d : Dp) :
    (logAt now code sev src a d).io.ring.getLast? = some ⟨code, sev, src, now, d.io.nextSeq, a⟩ := by
  simp [logAt, ringMax, List.drop_append_of_le_length]

section
variable (e : Env) (v bit : Nat) (p : PortId) (d : Dp)

theorem msix_frame : (msix e p v d).io.ring = d.io.ring ∧ (msix e p v d).sh = d.sh ∧ (msix e p v d).map = d.map ∧
    (msix e p v d).med = d.med ∧ ∀ q, ((msix e p v d).port q).evtCause = (d.port q).evtCause := by
  unfold msix
  dsimp only
  split
  · split
    · exact ⟨rfl, rfl, rfl, rfl, fun _ => rfl⟩
    · refine ⟨by simp, by simp, by simp, by simp, fun q => ?_⟩
      by_cases hq : q = p
      · subst hq
        simp
      · rw [port_setPort_ne d _ hq]
  · exact ⟨rfl, rfl, rfl, rfl, fun _ => rfl⟩

/-- The port with a cause bit set. -/
def withCause (bit : Nat) (h : HostPort) : HostPort := { h with evtCause := h.evtCause ||| BitVec.twoPow 16 bit }

/-- A fitted port's bit is set, and its vector signalled or not (R304). -/
theorem causePort_fitted (h : (d.port p).fitted = true) :
    causePort e bit p d = d.onPort p (withCause bit) ∨
    causePort e bit p d = msix e p devVector (d.onPort p (withCause bit)) := by
  unfold causePort
  rw [if_pos h]
  dsimp only
  split
  · exact .inr rfl
  · exact .inl rfl

theorem causePort_unfitted (h : ¬ (d.port p).fitted = true) : causePort e bit p d = d := if_neg h

theorem causePort_frame : (causePort e bit p d).io.ring = d.io.ring ∧ (causePort e bit p d).sh = d.sh ∧
    (causePort e bit p d).map = d.map ∧ (causePort e bit p d).med = d.med := by
  by_cases h : (d.port p).fitted = true
  · rcases causePort_fitted e bit p d h with heq | heq
    · simp [heq]
    · obtain ⟨hring, hsh, hmap, hmed, -⟩ := msix_frame e devVector p (d.onPort p (withCause bit))
      simp [heq, hring, hsh, hmap, hmed]
  · simp [causePort_unfitted e bit p d h]

/-- A fitted port's cause bits take in the one raised (R304). -/
theorem evtCause_causePort (h : (d.port p).fitted = true) :
    ((causePort e bit p d).port p).evtCause = (d.port p).evtCause ||| BitVec.twoPow 16 bit := by
  rcases causePort_fitted e bit p d h with heq | heq
  · simp [heq, withCause]
  · obtain ⟨-, -, -, -, hcause⟩ := msix_frame e devVector p (d.onPort p (withCause bit))
    simp [heq, hcause, withCause]

theorem evtCause_causePort_ne {q : PortId} (hq : q ≠ p) :
    ((causePort e bit p d).port q).evtCause = (d.port q).evtCause := by
  by_cases h : (d.port p).fitted = true
  · rcases causePort_fitted e bit p d h with heq | heq
    · rw [heq, port_onPort_ne d _ hq]
    · obtain ⟨-, -, -, -, hcause⟩ := msix_frame e devVector p (d.onPort p (withCause bit))
      rw [heq, hcause, port_onPort_ne d _ hq]
  · rw [causePort_unfitted e bit p d h]

theorem cause_frame : (cause e bit d).io.ring = d.io.ring ∧ (cause e bit d).sh = d.sh ∧
    (cause e bit d).map = d.map ∧ (cause e bit d).med = d.med := by
  obtain ⟨haring, hash, hamap, hamed⟩ := causePort_frame e bit .a d
  obtain ⟨hbring, hbsh, hbmap, hbmed⟩ := causePort_frame e bit .b (causePort e bit .a d)
  exact ⟨hbring.trans haring, hbsh.trans hash, hbmap.trans hamap, hbmed.trans hamed⟩

/-- A cause raised on every port stands on port A where that is fitted. -/
theorem evtCause_cause_a (hbit : bit < 16) (h : d.hp.a.fitted = true) :
    (cause e bit d).hp.a.evtCause.getLsbD bit = true := by
  have hb : ((cause e bit d).port .a).evtCause = ((causePort e bit .a d).port .a).evtCause :=
    evtCause_causePort_ne e bit .b _ (by simp)
  change (((cause e bit d).port .a).evtCause.getLsbD bit) = true
  rw [hb, evtCause_causePort e bit .a d h]
  simp [hbit]

end

/-! ## The gap (R517, R518) -/

/-- Nothing of the count is lost: what the gap does not hold is carried to the next Ebb (R517). -/
theorem ebbGap_exact (count f : Nat) :
    (ebbGap count f).1 * 64 + (ebbGap count f).2 = count * 1953125 + f ∧ (ebbGap count f).2 < 64 :=
  ⟨Nat.div_add_mod' _ 64, Nat.mod_lt _ (by decide)⟩

/-- The uncertainty of a gap: 50 ppm of it with a crystal, 2 percent otherwise, and 80 ns (R518). -/
theorem gapSource_uncertainty (x : X32) (g : Nat) : (gapSource x g).2 =
    match x with
    | .crystal => g / 20000 + 80
    | _ => g / 50 + 80 := by
  cases x <;> simp only [gapSource] <;> omega

theorem gapSource_code (x : X32) (g : Nat) : (gapSource x g).1 =
    match x with
    | .crystal => 1
    | .rc => 2
    | .stopped => 3 := by
  cases x <;> rfl

/-- A gap below 2^61 ns has an uncertainty below 2^56 ns. -/
theorem gapSource_lt (x : X32) {g : Nat} (h : g < 2 ^ 61) : (gapSource x g).2 < 2 ^ 56 := by
  rw [gapSource_uncertainty]
  cases x <;> dsimp only <;> omega

theorem gapSource_code_lt (x : X32) (g : Nat) : (gapSource x g).1 < 256 := by
  cases x <;> simp [gapSource]

theorem toNat_args64 (hi lo : Nat) : (args64 hi lo).toNat = hi % 2 ^ 64 * 2 ^ 64 + lo % 2 ^ 64 := by
  rw [args64, BitVec.toNat_ofNat]
  refine Nat.mod_eq_of_lt ?_
  omega

/-- The upper word of ARGS is the first value (R518). -/
theorem args64_high (hi lo : Nat) (h : hi < 2 ^ 64) : ((args64 hi lo).extractLsb' 64 64).toNat = hi := by
  rw [BitVec.extractLsb'_toNat, toNat_args64, Nat.shiftRight_eq_div_pow]
  omega

/-- A value and a code in the lower word of ARGS: the value stands in bits [63:8]. -/
theorem args64_value (hi u : Nat) {c : Nat} (hc : c < 256) (h : u < 2 ^ 56) :
    ((args64 hi (u * 256 + c)).extractLsb' 8 56).toNat = u := by
  rw [BitVec.extractLsb'_toNat, toNat_args64, Nat.shiftRight_eq_div_pow]
  omega

/-- The code stands in bits [7:0]. -/
theorem args64_code (hi u : Nat) {c : Nat} (hc : c < 256) : ((args64 hi (u * 256 + c)).extractLsb' 0 8).toNat = c := by
  rw [BitVec.extractLsb'_toNat, toNat_args64, Nat.shiftRight_eq_div_pow]
  omega

/-! ## The state after a gap -/

/-- Secure-discard jobs of a registry start later by the gap, so that it does not count in their time (R62). -/
def laterJobs (gap : Nat) (r : Registry) : Registry :=
  { r with jobs := r.jobs.map (fun (j : SdJob) => { j with startedAt := j.startedAt + gap }) }

/-- The clock after a gap and its remainder are added. -/
def gapClock (g : Nat × Nat) (c : Clk) : Clk :=
  { c with
    time := c.time + g.1, frac64 := g.2, ebbCount := 0
    x32 := if c.x32 = X32.stopped then .rc else c.x32
    pinErr := if c.pin.isSome then c.pinErr + (gapSource c.x32 g.1).2 else c.pinErr }

/-- The clock moves on by the gap, carries the remainder and counts anew; the RC is its time base exactly where no crystal
ran (R517, R518, R521). -/
theorem gapClock_fields (g : Nat × Nat) (c : Clk) :
    (gapClock g c).time = c.time + g.1 ∧ (gapClock g c).frac64 = g.2 ∧ (gapClock g c).ebbCount = 0 ∧
    (gapClock g c).boot = c.boot ∧ (gapClock g c).pin = c.pin ∧
    (gapClock g c).pinErr = (if c.pin.isSome then c.pinErr + (gapSource c.x32 g.1).2 else c.pinErr) ∧
    ((gapClock g c).x32 = .rc ↔ c.x32 ≠ .crystal) := by
  refine ⟨rfl, rfl, rfl, rfl, rfl, rfl, ?_⟩
  cases h : c.x32 <;> simp [gapClock, h]

/-- The data path when a gap has passed: jobs and passes do not count it. -/
def gapDp (gap : Nat) (d : Dp) : Dp :=
  { d with sh := { d.sh with
    reg := laterJobs gap d.sh.reg, regNext := laterJobs gap d.sh.regNext
    passAt := d.sh.passAt.map (fun (x : Nat × Nat) => (x.1, x.2 + gap)) } }

/-- The state with its gap added, before the gap is told. -/
def passGap (s : State) : State :=
  { s with clk := gapClock (ebbGap s.clk.ebbCount s.clk.frac64) s.clk
           dp := gapDp (ebbGap s.clk.ebbCount s.clk.frac64).1 s.dp }

/-- The ARGS of the record TIME_GAP (R518). -/
def gapArgs (x : X32) (gap : Nat) : BitVec 128 := args64 gap ((gapSource x gap).2 * 256 + (gapSource x gap).1)

/-- A gap is added, then logged, then its cause is raised. -/
theorem addGap_eq (s : State) : addGap s =
    ((passGap s).onDp (fun e => logAt e.now 0x0E0B 2 srcAlwaysOn
      (gapArgs s.clk.x32 (ebbGap s.clk.ebbCount s.clk.frac64).1))).cause evTimeGap := rfl

section
variable (s : State)

theorem addGap_clk : (addGap s).clk = gapClock (ebbGap s.clk.ebbCount s.clk.frac64) s.clk := rfl

/-- Telling the gap leaves the shoal's records, the map and the media as they are. -/
theorem addGap_dp : (addGap s).dp.sh = (passGap s).dp.sh ∧ (addGap s).dp.map = s.dp.map ∧
    (addGap s).dp.med = s.dp.med := by
  rw [addGap_eq, State.cause, onDp_dp]
  obtain ⟨-, hsh, hmap, hmed⟩ := cause_frame _ evTimeGap _
  exact ⟨hsh.trans (by simp), hmap.trans (by simp [passGap, gapDp]), hmed.trans (by simp [passGap, gapDp])⟩

/-- The record TIME_GAP is the newest of the ring. -/
theorem getLast_addGap : (addGap s).dp.io.ring.getLast? = some
    ⟨0x0E0B, 2, srcAlwaysOn, (addGap s).clk.time, s.dp.io.nextSeq,
      gapArgs s.clk.x32 (ebbGap s.clk.ebbCount s.clk.frac64).1⟩ := by
  rw [addGap_clk, addGap_eq, State.cause, onDp_dp]
  obtain ⟨hring, -⟩ := cause_frame _ evTimeGap _
  rw [hring, onDp_dp, getLast_logAt]
  rfl

/-- Its cause stands on port A where that is fitted. -/
theorem evtCause_addGap (h : s.dp.hp.a.fitted = true) : (addGap s).dp.hp.a.evtCause.getLsbD evTimeGap = true := by
  rw [addGap_eq, State.cause, onDp_dp]
  refine evtCause_cause_a _ _ _ (by decide) ?_
  rwa [onDp_dp, logAt_hp]

end

/-- Settles O53: the clock is `gapClock`, the record that of `getLast_addGap`, its fields by the laws of `args64`. -/
theorem ebbGapIsAddedAndTold : Obligations.EbbGapIsAddedAndTold := by
  unfold Obligations.EbbGapIsAddedAndTold
  refine ⟨ebbGap_exact, fun s => ?_⟩
  intro g u src t
  have hu : (gapSource s.clk.x32 g).2 = u := gapSource_uncertainty _ _
  have hsrc : (gapSource s.clk.x32 g).1 = src := gapSource_code _ _
  have hcode := gapSource_code_lt s.clk.x32 g
  obtain ⟨htime, hfrac, hcount, hbootNo, hpin, herr, hx⟩ := gapClock_fields (ebbGap s.clk.ebbCount s.clk.frac64) s.clk
  obtain ⟨hsh, hmap, hmed⟩ := addGap_dp s
  obtain ⟨-, hboot, -, -, -, hdram, hpads, -⟩ := frame_addGap s
  refine ⟨htime, hfrac, hcount, hbootNo, hpin, hu ▸ herr, hx,
    ⟨_, getLast_addGap s, rfl, rfl, rfl, fun hlt => ⟨args64_high _ _ (by omega), ?_⟩, ?_⟩, evtCause_addGap s, hpads, hdram,
    hboot, hmed, hmap, ?_⟩
  · exact hu ▸ args64_value _ _ hcode (gapSource_lt _ hlt)
  · exact hsrc ▸ args64_code _ _ hcode
  · rw [hsh]
    exact ⟨rfl, rfl, rfl, rfl, rfl⟩

end Sys2Proof.Proofs


/-! # Orders (R36, R395) -/

namespace Sys2Proof.Proofs

open Sys2Proof.Machine Sys2Proof.Laws

/-! ## What forwarding keeps -/

/-- A data path whose forwarded orders, orders given on and mailboxes stand otherwise: what forwarding may change before
the sequencer judges an order. -/
def forwarding (d : Dp) (fs : List (Order × Nat × Nat)) (gs : List (Order × Nat)) (b : Mb) : Dp :=
  { d with mb := b, sh := { d.sh with forwarded := fs, delegated := gs } }

section
variable (e : Env) (d : Dp) (fs : List (Order × Nat × Nat)) (gs : List (Order × Nat)) (b : Mb)

theorem stewardOf_forwarding (pool : Nat) : stewardOf e (forwarding d fs gs b) pool = stewardOf e d pool := rfl

/-- A verdict looks at no mailbox and at no forwarded order. -/
theorem judgeOrder_forwarding (o : Order) :
    judgeOrder e (forwarding d fs d.sh.delegated b) o = judgeOrder e d o := rfl

end

/-- The sequencer takes an order that it has neither taken nor answered yet (R395). -/
theorem takeOrder_new {e : Env} {o : Order} {d : Dp} (hfresh : d.sh.regOpen.any (fun x => x.order.any (sameOrder o)) = false)
    (hpoll : d.sh.polls.any (fun x => sameOrder x.1 o) = false)
    (hgiven : d.sh.delegated.any (fun x => sameOrder x.1 o) = false) (hnew : appliedOf d.sh.reg o = none) :
    takeOrder e o d = applyVerdict e o (judgeOrder e d o) d := by
  unfold takeOrder
  rw [hfresh, hpoll, hgiven, hnew]
  rfl

/-- An order sent by the registry steward itself goes to its own sequencer (R395). -/
theorem sendOrder_here {e : Env} {d : Dp} (o : Order) (h : stewardOf e d 0 = some e.rank) : ∃ fs,
    sendOrder e o d = takeOrder e o { d with sh := { d.sh with forwarded := fs } } := by
  unfold sendOrder deliverOrder
  have hr (fs : List (Order × Nat × Nat)) :
      stewardOf e { d with sh := { d.sh with forwarded := fs } } 0 = some e.rank := h
  simp only [hr, if_pos]
  exact ⟨_, rfl⟩

/-- An order that its registry steward sends is judged at once (R36). -/
theorem sendOrder_sequenced {s : State} {o : Order} (h : Sequenced s o) (m : Mbx) : ∃ fs,
    sendOrder s.env o (s.dp.wait m) = applyVerdict s.env o (judgeOrder s.env s.dp o)
      (forwarding s.dp fs s.dp.sh.delegated (s.dp.wait m).mb) := by
  obtain ⟨fs, hsent⟩ := sendOrder_here (d := s.dp.wait m) o h.steward
  exact ⟨fs, hsent.trans (takeOrder_new h.fresh h.unpolled h.ungiven h.unapplied)⟩

/-! ## Where an order goes, and its answer -/

section
variable {e : Env} {o : Order} {d : Dp} (hl : leaseOk d.sh.regNext e.now o = true)
include hl

/-- The orders on pools are judged by the rules of their own (R32 to R38, R219). -/
theorem judgeOrder_pool :
    (o.opcode = 0x0101 → judgeOrder e d o = judgeCreate e d d.sh.regNext o.payload) ∧
    (o.opcode = 0x0102 → judgeOrder e d o = judgeDelete e d.sh.regNext o.payload) ∧
    (o.opcode = 0x0103 → judgeOrder e d o = judgeResize e d d.sh.regNext o.payload false) ∧
    (o.opcode = 0x0106 → judgeOrder e d o = judgeReshape e d d.sh.regNext o.payload) ∧
    (o.opcode = 0x0109 → judgeOrder e d o = withPool d.sh.regNext (fieldAt o.payload 0 1) (fun q =>
      .change (d.sh.regNext.setPool { q with floor := fieldAt o.payload 1 1 }) 0 [])) ∧
    (o.opcode = 0x0403 → judgeOrder e d o = withAnyPool d.sh.regNext (fieldAt o.payload 0 1) (fun q =>
      .change { d.sh.regNext with clears := d.sh.regNext.clears.put q.handle (d.sh.regNext.clears.get 0 q.handle + 1) } 0
        (leBytes 4 (d.sh.reg.errlog.filter (fun x => x.pool = q.handle)).length))) := by
  refine ⟨?_, ?_, ?_, ?_, ?_, ?_⟩ <;> intro h <;> simp [judgeOrder, hl, h, isParamOp]

/-- Lease orders (R397, R398). -/
theorem judgeOrder_lease :
    (o.opcode = 0x0110 → judgeOrder e d o = judgeAcquire d.sh.regNext e.now o) ∧
    (o.opcode = 0x0111 → judgeOrder e d o = judgeRelease d.sh.regNext e.now o) ∧
    (o.opcode = 0x0112 → judgeOrder e d o = judgeQuery d.sh.regNext e.now o) := by
  refine ⟨?_, ?_, ?_⟩ <;> intro h <;> simp [judgeOrder, hl, h]

/-- Orders on the shoal and its members (R213, R442). -/
theorem judgeOrder_member :
    (o.opcode = 0x0604 → judgeOrder e d o = judgeSanitize d d.sh.regNext o.payload) ∧
    (o.opcode = 0x0703 → judgeOrder e d o = judgeAdd d.sh.regNext o.payload) ∧
    (o.opcode = 0x0704 → judgeOrder e d o = judgeRetire d.sh.regNext o.payload) ∧
    (o.opcode = 0x0705 → judgeOrder e d o = judgeSpare d.sh.regNext o.payload) ∧
    (o.opcode = 0x0706 → judgeOrder e d o = judgeReplace e d d.sh.regNext o.payload) := by
  refine ⟨?_, ?_, ?_, ?_, ?_⟩ <;> intro h <;> simp [judgeOrder, hl, h, isParamOp]

/-- Orders on stewards (R224, R230, R258, R261). -/
theorem judgeOrder_steward :
    (o.opcode = 0x0710 → judgeOrder e d o = judgeMove e d d.sh.regNext o.payload) ∧
    (o.opcode = 0x0711 → judgeOrder e d o = judgePrefer d.sh.regNext o.payload) ∧
    (o.opcode = 0x0712 → judgeOrder e d o = judgeDrill d d.sh.regNext o.payload) ∧
    (o.opcode = 0x0713 → judgeOrder e d o = judgeRebase e d d.sh.regNext o.payload) := by
  refine ⟨?_, ?_, ?_, ?_⟩ <;> intro h <;> simp [judgeOrder, hl, h, isParamOp, spareOpcode]

end

theorem withPool_some {g : Registry} {h : Nat} {q : PoolRec} (k : PoolRec → Verdict) (h0 : h ≠ 0)
    (hq : g.pool h = some q) (hs : q.state ≠ .deleting) : withPool g h k = k q := by
  simp [withPool, h0, hq, hs]

theorem withAnyPool_some {g : Registry} {h : Nat} {q : PoolRec} (k : PoolRec → Verdict)
    (hq : g.pool h = some q) (hs : q.state ≠ .deleting) : withAnyPool g h k = k q := by
  simp [withAnyPool, hq, hs]

theorem withMember_some {g : Registry} {r : Nat} {x : MemberRec} (k : MemberRec → Verdict)
    (hx : g.member r = some x) : withMember g r k = k x := by
  simp [withMember, hx]

theorem handle_of_pool {g : Registry} {h : Nat} {q : PoolRec} (hq : g.pool h = some q) : q.handle = h := by
  simpa using List.find?_some hq

theorem rank_of_member {g : Registry} {r : Nat} {x : MemberRec} (hx : g.member r = some x) : x.rank = r := by
  simpa using List.find?_some hx

/-! ## Verdicts on requests that pass their checks -/

section
variable {e : Env} {d : Dp} {g : Registry} {p : List Byte}

/-- POOL_CREATE of a free handle adds the pool ONLINE (R32, R36). -/
theorem judgeCreate_change {ns : List Node} {st : List Stripe} {depth : Nat} (hns : nodesOf p = some ns)
    (htree : parseTree (sherdBlocks (crSherd p)) (crCap p) ns = some (st, depth))
    (hlay : layoutOk g (paramVal e.par g 0x0601) (crIu p) (crSherd p) st depth = true)
    (hfree : g.pool (crHandle p) = none) (hgone : d.sh.reg.pool (crHandle p) = none)
    (hcap : (⟨sherdBlocks (crSherd p), st, 0⟩ : Lay).cap ≤ capMax)
    (hsize : sizeStatus e d g (crHandle p) ⟨sherdBlocks (crSherd p), st, 0⟩ (crIu p) (fun _ => 0) = none) :
    ∃ (q : PoolRec) (us : List (BitVec 128)) (pl : List Byte), judgeCreate e d g p = .change { g.setPool q with uuids := us } 0 pl ∧
      q.handle = crHandle p ∧ q.state = .online ∧ q.cap = (⟨sherdBlocks (crSherd p), st, 0⟩ : Lay).cap ∧ q.nodes = ns ∧
      q.stripes = st ∧ q.iu = crIu p ∧ q.sherd = crSherd p ∧ q.floor = crFloor p ∧ q.tags = crTags p ∧
      q.createdAt = e.now := by
  unfold judgeCreate
  simp only [hns, Option.bind_some, htree, hlay, hfree, hgone, Nat.not_lt.mpr hcap, hsize, Option.isSome_none, Bool.or_self,
    Bool.not_true, Bool.false_eq_true, if_false]
  exact ⟨_, _, _, rfl, rfl, rfl, rfl, rfl, rfl, rfl, rfl, rfl, rfl, rfl⟩

theorem judgeDelete_change {q : PoolRec} (h0 : fieldAt p 0 1 ≠ 0) (hq : g.pool (fieldAt p 0 1) = some q)
    (hs : q.state ≠ .deleting) (hx : fieldAt p 1 1 = 0) :
    judgeDelete e g p = .change (g.setPool { q with state := .deleting }) 0 [] := by
  rw [judgeDelete, withPool_some _ h0 hq hs, if_neg (by omega)]

theorem judgeDelete_secure {q : PoolRec} (h0 : fieldAt p 0 1 ≠ 0) (hq : g.pool (fieldAt p 0 1) = some q)
    (hs : q.state ≠ .deleting) (hx : fieldAt p 1 1 = 1) :
    judgeDelete e g p = .change ((addJob e g q 0 q.cap (2 ^ 64 - 1)).setPool
      { q with state := .deleting, secureDel := true, deleteJob := some g.nextJob }) 0 [] := by
  rw [judgeDelete, withPool_some _ h0 hq hs, if_pos hx]

/-- A capacity that does not fall asks no member (R34, R37). -/
theorem judgeResize_change {q q' : PoolRec} (h0 : fieldAt p 0 1 ≠ 0) (hq : g.pool (fieldAt p 0 1) = some q)
    (hs : q.state ≠ .deleting) (hnew : resizePool q (fieldAt p 8 8) = some q') (hmax : q'.cap ≤ capMax)
    (hup : q.cap ≤ q'.cap) (hsize : sizeStatus e d g q.handle q'.lay q.iu q.lay.resident = none) :
    judgeResize e d g p false = .change (g.setPool q') 0 (leBytes 8 q'.cap) := by
  rw [judgeResize, withPool_some _ h0 hq hs]
  simp [hnew, Nat.not_lt.mpr hmax, Nat.not_lt.mpr hup, hsize]

theorem judgeReshape_change {q : PoolRec} {ns : List Node} {st : List Stripe} {depth : Nat} (h0 : crHandle p ≠ 0)
    (hq : g.pool (crHandle p) = some q) (hs : q.state ≠ .deleting) (hiu : crIu p = q.iu) (htags : crTags p = q.tags)
    (hcap : if rootConcat p then crCap p = 0 else crCap p = 0 ∨ q.cap ≤ crCap p) (hns : nodesOf p = some ns)
    (htree : parseTree (sherdBlocks (crSherd p)) (if crCap p = 0 then q.cap else crCap p) ns = some (st, depth))
    (hlay : layoutOk g (paramVal e.par g 0x0601) (crIu p) (crSherd p) st depth = true)
    (hup : q.cap ≤ (⟨sherdBlocks (crSherd p), st, q.layoutGen + 1⟩ : Lay).cap)
    (hmax : (⟨sherdBlocks (crSherd p), st, q.layoutGen + 1⟩ : Lay).cap ≤ capMax) (hnone : q.reshape = none)
    (hsize : sizeStatus e d g q.handle ⟨sherdBlocks (crSherd p), st, q.layoutGen + 1⟩ q.iu q.lay.resident = none) :
    let l : Lay := ⟨sherdBlocks (crSherd p), st, q.layoutGen + 1⟩
    let z : Reshape := { nodes := ns, stripes := st, sherd := crSherd p, floor := crFloor p, cap := l.cap, rows := l.rows,
                         tidemark := 0, paused := false }
    judgeReshape e d g p = .change (g.setPool { q with reshape := some z }) 0 (leBytes 8 l.cap ++ leBytes 8 l.rows) := by
  intro l z
  have hfields : (crIu p != q.iu || crTags p != q.tags || (rootConcat p && crCap p != 0) ||
      (!rootConcat p && crCap p != 0 && crCap p < q.cap)) = false := by
    cases hc : rootConcat p <;> simp [hc, hiu, htags] at hcap ⊢
    · omega
    · exact hcap
  rw [judgeReshape, withPool_some _ h0 hq hs]
  simp only [hfields, hns, Option.bind_some, htree, hlay, Nat.not_lt.mpr hup, Nat.not_lt.mpr hmax, hnone, hsize,
    Option.isSome_none, Bool.not_true, Bool.false_eq_true, if_false, decide_false, Bool.or_self]
  rfl

theorem judgeAdd_change (h : fieldAt p 0 1 ≤ 15) :
    judgeAdd g p = .change (putMember g (memberOf (fieldAt p 0 1) (BitVec.ofNat 64 (fieldAt p 8 8)))) 0 [] :=
  if_neg (by omega)

theorem judgeRetire_change {k : MemberRec} (hk : g.member (fieldAt p 0 1) = some k) :
    judgeRetire g p = .change (putMember g { k with retired := true }) 0 [] := withMember_some _ hk

/-- A hot spare holds no leaf (R213). -/
theorem judgeSpare_change {k : MemberRec} (hk : g.member (fieldAt p 0 1) = some k)
    (hleaf : fieldAt p 1 1 = 1 → hasLeaf g k.rank = false) :
    judgeSpare g p = .change (putMember g { k with spare := fieldAt p 1 1 = 1 }) 0 [] := by
  rw [judgeSpare, withMember_some _ hk]
  by_cases hx : fieldAt p 1 1 = 1
  · simp [hx, hleaf hx]
  · simp [hx]

theorem judgeReplace_change {k y : MemberRec} (hk : g.member (fieldAt p 0 1) = some k) (hne : fieldAt p 0 1 ≠ fieldAt p 1 1)
    (hy : g.member (fieldAt p 1 1) = some y) (hspare : y.spare = true) (hleaf : hasLeaf g (fieldAt p 1 1) = false)
    (hhere : present e d (fieldAt p 1 1) = true)
    (hsize : replaceStatus (substRank (fieldAt p 0 1) (fieldAt p 1 1) g) (fieldAt p 1 1) = none) :
    judgeReplace e d g p = .change (substRank (fieldAt p 0 1) (fieldAt p 1 1) g) 0 [] := by
  rw [judgeReplace, withMember_some _ hk, withMember_some _ hy]
  simp [hne, hspare, hleaf, hhere, hsize]

theorem judgePrefer_change {q : PoolRec} {a b : MemberRec} (hq : g.pool (fieldAt p 0 1) = some q) (hs : q.state ≠ .deleting)
    (ha : g.member (fieldAt p 1 1) = some a) (hb : g.member (fieldAt p 2 1) = some b)
    (hne : fieldAt p 1 1 ≠ fieldAt p 2 1) :
    judgePrefer g p = .change (g.setPool { q with prefSteward := fieldAt p 1 1, prefStandby := some (fieldAt p 2 1) }) 0 [] := by
  rw [judgePrefer, withAnyPool_some _ hq hs, withMember_some _ ha, withMember_some _ hb, if_neg hne]

/-- Exhausted epochs are rebased here, with every device present (R230, R231). -/
theorem judgeRebase_change {q : PoolRec} {k : Nat} (hq : g.pool (fieldAt p 0 1) = some q) (hs : q.state ≠ .deleting)
    (hex : exhausted e d q.handle = true) (hall : allPresent e d g = true)
    (hk : (succession g q).find? (fun k => present e d k) = some k) :
    judgeRebase e d g p = .change (g.setPool { q with rebases := q.rebases + 1, rebaseRank := k }) 0
      (leBytes 4 (mkClaim 1 k).toNat) := by
  rw [judgeRebase, withAnyPool_some _ hq hs, if_pos hex, hk]
  simp only [hall, if_true]
  rfl

theorem judgeMove_give {q : PoolRec} {k : MemberRec} (hq : g.pool (fieldAt p 0 1) = some q) (hs : q.state ≠ .deleting)
    (hk : g.member (fieldAt p 1 1) = some k) (hhere : present e d (fieldAt p 1 1) = true) :
    judgeMove e d g p = .give q.handle := by
  rw [judgeMove, withAnyPool_some _ hq hs, withMember_some _ hk]
  simp [hhere]

theorem judgeDrill_give {q : PoolRec} (hq : g.pool (fieldAt p 0 1) = some q) (hs : q.state ≠ .deleting)
    (hone : d.sh.delegated.any (fun y => y.1.opcode = 0x0712) = false) : judgeDrill d g p = .give q.handle := by
  rw [judgeDrill, withAnyPool_some _ hq hs, hone]
  rfl

theorem judgeSanitize_give {k : MemberRec} (hk : g.member (fieldAt p 0 1) = some k)
    (hfree : g.pools.any (fun q => q.ranks.contains (fieldAt p 0 1) && memberState d q.handle (fieldAt p 0 1) != .retired) = false) :
    judgeSanitize d g p = .giveRank (fieldAt p 0 1) := by
  rw [judgeSanitize, withMember_some _ hk, if_neg (by rw [hfree]; decide)]

variable {now : Nat} {o : Order} (hh : leaseHandle g (fieldAt o.payload 0 1) = true)
include hh

theorem judgeAcquire_change (hfree : leaseAt g now (fieldAt o.payload 0 1) = none) :
    let l : Lease := ⟨fieldAt o.payload 0 1, holderOf o, now + fieldAt o.payload 4 4 * msec, fieldAt o.payload 4 4 * msec⟩
    judgeAcquire g now o = .change (putLease g l) 0 (leaseBytes now (some l)) := by
  simp [judgeAcquire, hh, hfree]

theorem judgeRelease_change {l : Lease} (hl : leaseAt g now (fieldAt o.payload 0 1) = some l) (hmine : l.holder = holderOf o) :
    judgeRelease g now o = .change (dropLease g (fieldAt o.payload 0 1)) 0 (leaseBytes now none) := by
  simp [judgeRelease, hh, hl, hmine]

theorem judgeQuery_done : judgeQuery g now o = .done (leaseBytes now (leaseAt g now (fieldAt o.payload 0 1))) := by
  simp [judgeQuery, hh]

end

/-! ## A change of the registry (R395) -/

/-- Draws of free values leave the shoal's records alone. -/
theorem foldl_draw_sh {α : Type} (l : List α) (d : Dp) : (l.foldl (fun d _ => (draw d).2) d).sh = d.sh := by
  induction l generalizing d with
  | nil => rfl
  | cons x t ih => exact ih _

/-- The next order sees the registry changed, with the order among those applied (R36). -/
theorem regNext_applyVerdict_change (e : Env) (o : Order) (after : Registry) (det : Nat) (pl : List Byte) (d : Dp) :
    let d' := applyVerdict e o (.change after det pl) d
    d'.sh.regNext = { after with applied := d'.sh.regNext.applied } := by
  simp only [applyVerdict, foldl_draw_sh]
  rfl

/-- SANITIZE_CRYPTO of this rank is due on this device (R442). -/
theorem sanDue_giveRank {e : Env} {n : Nat} (hn : n = e.rank) (o : Order) (d : Dp) :
    (applyVerdict e o (.giveRank n) d).mb.sanDue = d.mb.sanDue ++ [o] := by
  rw [applyVerdict, if_pos hn]

/-- The state once a mailbox's request is sent as an order. -/
def ordered (s : State) (m : Mbx) (r : MbReq) : State :=
  s.onDp (fun e d => sendOrder e (mailOrder e m (d.mail m) r) (d.wait m))

theorem forward_eq_ordered {s : State} {m : Mbx} {r : MbReq} (h : s.dp.request m = some r) :
    s.forward m = (ordered s m r).work := by
  unfold State.forward ordered State.onDp forwardRequest
  simp only [h]

/-- A request whose command forwards it is sent. -/
theorem onRequest_forward {s : State} {m : Mbx} {op : Nat} {r : MbReq} (h : Asked s m op r) :
    onRequest m op (fun _ s => s.forward m) s = .next (ordered s m r).work := by
  obtain ⟨hr, hop, hw⟩ := h
  rw [onRequest_asked m op _ s r hr hop hw, forward_eq_ordered hr]

/-- The seventeen orders are sent and wait (R389, R395, R442). -/
theorem orders_sent (s : State) (m : Mbx) (r : MbReq) :
    (Asked s m 0x0101 r → exec (.poolCreate m) s = .next (ordered s m r).work) ∧
    (Asked s m 0x0102 r → exec (.poolDelete m) s = .next (ordered s m r).work) ∧
    (Asked s m 0x0103 r → exec (.poolResize m) s = .next (ordered s m r).work) ∧
    (Asked s m 0x0106 r → exec (.reshapeStart m) s = .next (ordered s m r).work) ∧
    (Asked s m 0x0109 r → exec (.writeFloorSet m) s = .next (ordered s m r).work) ∧
    (Asked s m 0x0110 r → exec (.leaseAcquire m) s = .next (ordered s m r).work) ∧
    (Asked s m 0x0111 r → exec (.leaseRelease m) s = .next (ordered s m r).work) ∧
    (Asked s m 0x0112 r → exec (.leaseQuery m) s = .next (ordered s m r).work) ∧
    (Asked s m 0x0604 r → exec (.sanitizeCrypto m) s = .next (ordered s m r).work) ∧
    (Asked s m 0x0703 r → exec (.memberAdd m) s = .next (ordered s m r).work) ∧
    (Asked s m 0x0704 r → exec (.memberRetire m) s = .next (ordered s m r).work) ∧
    (Asked s m 0x0705 r → exec (.memberSpareSet m) s = .next (ordered s m r).work) ∧
    (Asked s m 0x0706 r → exec (.memberReplace m) s = .next (ordered s m r).work) ∧
    (Asked s m 0x0710 r → exec (.stewardMove m) s = .next (ordered s m r).work) ∧
    (Asked s m 0x0711 r → exec (.stewardPrefer m) s = .next (ordered s m r).work) ∧
    (Asked s m 0x0712 r → exec (.stewardDrill m) s = .next (ordered s m r).work) ∧
    (Asked s m 0x0713 r → exec (.epochRebase m) s = .next (ordered s m r).work) :=
  ⟨onRequest_forward, onRequest_forward, onRequest_forward, onRequest_forward, onRequest_forward, onRequest_forward,
   onRequest_forward, onRequest_forward, onRequest_forward, onRequest_forward, onRequest_forward, onRequest_forward,
   onRequest_forward, onRequest_forward, onRequest_forward, onRequest_forward, onRequest_forward⟩

/-- ERROR_LOG_CLEAR is an order too (R551). -/
theorem errorLogClear_sent {s : State} {m : Mbx} {r : MbReq} (h : Asked s m 0x0403 r) :
    exec (.errorLogClear m) s = .next (ordered s m r).work := onRequest_forward h

section
variable {s : State} {m : Mbx} {r : MbReq} (hs : Sequenced s (mailOrder s.env m (s.dp.mail m) r))
include hs

/-- The data path once the request's order is judged. -/
theorem ordered_dp : ∃ fs, (ordered s m r).dp = applyVerdict s.env (mailOrder s.env m (s.dp.mail m) r)
    (judgeOrder s.env s.dp (mailOrder s.env m (s.dp.mail m) r)) (forwarding s.dp fs s.dp.sh.delegated (s.dp.wait m).mb) :=
  sendOrder_sequenced hs m

/-- An order that changes the registry: the next order sees the change. -/
theorem becomes_of_change {c : Instr} {after : Registry} {det : Nat} {pl : List Byte}
    (hx : exec c s = .next (ordered s m r).work)
    (hv : judgeOrder s.env s.dp (mailOrder s.env m (s.dp.mail m) r) = .change after det pl) :
    ∃ u : State, exec c s = .next u.work ∧ u.dp.sh.regNext = { after with applied := u.dp.sh.regNext.applied } := by
  obtain ⟨fs, hd⟩ := ordered_dp hs
  rw [hv] at hd
  exact ⟨_, hx, hd ▸ regNext_applyVerdict_change ..⟩

end

/-! ## An order given on to its pool's steward (R395) -/

/-- The pool's steward, this device itself, carries the order out. -/
theorem giveOrder_here {e : Env} {o : Order} {d : Dp} (h : stewardOf e d (orderPool o) = some e.rank) : ∃ gs,
    giveOrder e o d = carryOut e o { d with sh := { d.sh with delegated := gs } } := by
  unfold giveOrder
  simp only [h, if_pos]
  exact ⟨_, rfl⟩

theorem ordered_give {s : State} {m : Mbx} {r : MbReq} {n : Nat} (hs : Sequenced s (mailOrder s.env m (s.dp.mail m) r))
    (hv : judgeOrder s.env s.dp (mailOrder s.env m (s.dp.mail m) r) = .give n)
    (hsteward : stewardOf s.env s.dp (fieldAt r.payload 0 1) = some s.env.rank) :
    ∃ fs gs, (ordered s m r).dp = carryOut s.env (mailOrder s.env m (s.dp.mail m) r)
      (forwarding s.dp fs gs (s.dp.wait m).mb) := by
  obtain ⟨fs, hd⟩ := ordered_dp hs
  rw [hv] at hd
  obtain ⟨gs, hgive⟩ := giveOrder_here (o := mailOrder s.env m (s.dp.mail m) r) (d := { forwarding s.dp fs s.dp.sh.delegated
    (s.dp.wait m).mb with sh := { (forwarding s.dp fs s.dp.sh.delegated (s.dp.wait m).mb).sh with
      delegated := s.dp.sh.delegated ++ [(mailOrder s.env m (s.dp.mail m) r, noRank)] } }) hsteward
  exact ⟨fs, gs, hd.trans hgive⟩

theorem carryOut_move {e : Env} {o : Order} (h : o.opcode = 0x0710) (d : Dp) : carryOut e o d = moveSteward e o d := if_pos h

theorem carryOut_drill {e : Env} {o : Order} (h : o.opcode = 0x0712) (d : Dp) : carryOut e o d = startDrill e o d := by
  simp [carryOut, h]

/-! ## Records of roles -/

theorem pool_roleD (d : Dp) (pool : Nat) : (d.roleD pool).pool = pool := by
  unfold Dp.roleD Dp.role
  cases h : d.sh.roles.find? (fun r => r.pool = pool) with
  | none => rfl
  | some x => simpa using List.find?_some h

/-- A record put in the place of those of its key: the key reads it where there was one, another key reads as before. -/
theorem find_updateWhere_key {α : Type} (k : α → Nat) (x : α) (n : Nat) (l : List α) :
    (updateWhere (fun y => k y = k x) (fun _ => x) l).find? (fun y => k y = n) =
      if n = k x then (if l.any (fun y => k y = k x) then some x else none) else l.find? (fun y => k y = n) := by
  induction l with
  | nil => simp [updateWhere]
  | cons y t ih =>
    simp only [updateWhere, List.map_cons, List.find?_cons, List.any_cons] at ih ⊢
    by_cases hn : n = k x
    · by_cases hy : k y = k x <;> simp_all
    · by_cases hy : k y = k x <;> simp_all [Ne.symm hn]

/-- A role written is the one read of its pool. -/
theorem role_setRole (d : Dp) (x : PRole) (pool : Nat) :
    (d.setRole x).role pool = if pool = x.pool then some x else d.role pool := by
  unfold Dp.setRole Dp.role
  dsimp only
  split
  · next h => rw [find_updateWhere_key, if_pos h]
  · next h =>
    rw [List.find?_append]
    split
    · next hp =>
      rw [hp, List.find?_eq_none.mpr (by simpa using h)]
      simp
    · next hp => simp [Ne.symm hp]

theorem roleD_setRole (d : Dp) (x : PRole) (pool : Nat) :
    (d.setRole x).roleD pool = if pool = x.pool then x else d.roleD pool := by
  unfold Dp.roleD
  rw [role_setRole]
  split <;> rfl

theorem roleD_of_role {d : Dp} {pool : Nat} {x : PRole} (h : d.role pool = some x) : d.roleD pool = x := by
  unfold Dp.roleD
  rw [h]
  rfl

/-! ## Sending touches the outputs and the ring alone (R279) -/

/-- Two data paths that differ in their outputs and the ring's records alone. -/
def SameButRing (d d' : Dp) : Prop := ∃ (io : Io) (ring : Ring), d' = { d with io := io, ring := ring }

namespace SameButRing
variable {d d' d'' : Dp}

theorem refl (d : Dp) : SameButRing d d := ⟨d.io, d.ring, rfl⟩

theorem trans (h : SameButRing d d') (h' : SameButRing d' d'') : SameButRing d d'' := by
  obtain ⟨_, _, rfl⟩ := h
  obtain ⟨io, ring, rfl⟩ := h'
  exact ⟨io, ring, rfl⟩

theorem sh (h : SameButRing d d') : d'.sh = d.sh := by
  obtain ⟨_, _, rfl⟩ := h
  rfl

theorem roleD (h : SameButRing d d') (pool : Nat) : d'.roleD pool = d.roleD pool := by
  obtain ⟨_, _, rfl⟩ := h
  rfl

end SameButRing

theorem sameButRing_setLink (p : CwPort) (l : CwLink) (d : Dp) : SameButRing d (d.setLink p l) := by
  cases p <;> exact ⟨_, _, rfl⟩

theorem sameButRing_put (o : Output) (d : Dp) : SameButRing d (put o d) := ⟨_, _, rfl⟩

theorem sameButRing_sendOn (now : Nat) (p : CwPort) (o : Output) (d : Dp) : SameButRing d (sendOn now p o d) := by
  unfold sendOn
  dsimp only
  split
  · split
    · exact (sameButRing_setLink p _ d).trans (sameButRing_put o _)
    · exact sameButRing_setLink p _ d
  · exact .refl d

/-- A frame sent leaves everything but the outputs and the ring's records as it was. -/
theorem sameButRing_send (e : Env) (t : FrameType) (bulk : Nat) (f : Frame) (b : FrameBody) (d : Dp) :
    SameButRing d (send e t bulk f b d) := by
  have hring (d : Dp) (x : Ring) : SameButRing d { d with ring := x } := ⟨_, _, rfl⟩
  have hpair (d : Dp) (c : Prop) [Decidable c] (r k : Nat) (x : Pair) :
      SameButRing d (if c then d.setPair r k x else d) := by
    split
    · exact ⟨_, _, rfl⟩
    · exact .refl d
  have hbusy : SameButRing d (if 1 ≤ t.cls bulk && f.dst.val != e.rank then { d with ring := { d.ring with busyAt := e.now } }
      else d) := by
    split
    · exact hring d _
    · exact .refl d
  refine hbusy.trans ?_
  unfold send
  dsimp only
  generalize (if 1 ≤ t.cls bulk && f.dst.val != e.rank then { d with ring := { d.ring with busyAt := e.now } } else d) = d₁
  split
  · exact sameButRing_put _ _
  · split
    · exact .refl _
    · split
      · exact (hpair _ _ _ _ _).trans (sameButRing_sendOn ..)
      · exact hpair _ _ _ _ _

theorem sameButRing_sendEach (e : Env) (t : FrameType) (ranks : List Nat) (mk : Nat → Frame) (b : FrameBody) (d : Dp) :
    SameButRing d (sendEach e t ranks mk b d) := by
  unfold sendEach
  induction ranks generalizing d with
  | nil => exact .refl d
  | cons r t' ih => exact (sameButRing_send e t 3 (mk r) b d).trans (ih _)

/-! ## A steward that hands over (R258, Table 7-7) -/

/-- A pool's steward has stopped granting and hands over. -/
def HandsOver (pool : Nat) (v : Handover) (d : Dp) : Prop :=
  (d.roleD pool).stopped = true ∧ (d.roleD pool).handover = some v

section
variable {pool : Nat} {v : Handover} {d : Dp} (h : HandsOver pool v d)
include h

theorem handsOver_of_sameButRing {d' : Dp} (hd : SameButRing d d') : HandsOver pool v d' := by
  unfold HandsOver
  rw [hd.roleD]
  exact h

/-- A record of a role that keeps these two keeps the handover. -/
theorem handsOver_setRole (x : PRole) (hstop : x.stopped = (d.roleD x.pool).stopped)
    (hhand : x.handover = (d.roleD x.pool).handover) : HandsOver pool v (d.setRole x) := by
  unfold HandsOver
  rw [roleD_setRole]
  split
  · next hp =>
    subst hp
    rw [hstop, hhand]
    exact h
  · exact h

theorem handsOver_append (e : Env) (r : JRec) : HandsOver pool v (append e r d) := by
  unfold append
  split
  · exact h
  · next x hx =>
    have hpool : x.pool = r.pool := by simpa [Dp.role] using List.find?_some hx
    split
    · refine handsOver_setRole h _ ?_ ?_ <;> rw [hpool, roleD_of_role hx]
    · exact h

theorem handsOver_dropTicket (e : Env) (reason : Nat) (t : STicket) : HandsOver pool v (dropTicket e reason t d) :=
  handsOver_append h e _

theorem handsOver_dropUngranted (e : Env) (p : Nat) : HandsOver pool v (dropUngranted e p d) := by
  unfold dropUngranted
  generalize (openTickets d p).filter (fun t => !t.granted) = l
  induction l generalizing d with
  | nil => exact h
  | cons t l ih =>
    refine ih (handsOver_setRole (handsOver_dropTicket h e 4 t) _ ?_ ?_) <;> rw [pool_roleD]

theorem handsOver_sendAppoint (e : Env) (p k : Nat) : HandsOver pool v (sendAppoint e p k d) := by
  unfold sendAppoint
  dsimp only
  refine handsOver_of_sameButRing (handsOver_setRole h _ ?_ ?_) (sameButRing_send ..) <;> rw [pool_roleD]

end

theorem handsOver_startHandover (e : Env) (pool target : Nat) (o : Option Order) (d : Dp) :
    HandsOver pool { target := target, since := e.now, sentAt := none, byOrder := o } (startHandover e pool target o d) := by
  unfold startHandover
  dsimp only
  have hset : HandsOver pool { target := target, since := e.now, sentAt := none, byOrder := o } (d.setRole
      { d.roleD pool with
        stopped := true, handover := some { target := target, since := e.now, sentAt := none, byOrder := o } }) := by
    unfold HandsOver
    rw [roleD_setRole, if_pos (pool_roleD d pool).symm]
    exact ⟨rfl, rfl⟩
  split
  · exact handsOver_dropUngranted hset e pool
  · exact handsOver_dropUngranted (handsOver_sendAppoint hset e pool target) e pool

/-- STEWARD_MOVE to a present rank starts the handover to it. -/
theorem moveSteward_handsOver {e : Env} {o : Order} {d : Dp} (hne : fieldAt o.payload 1 1 ≠ e.rank)
    (hnone : (d.roleD (fieldAt o.payload 0 1)).handover = none) (hepoch : epochOf (d.claimOf (fieldAt o.payload 0 1)) < epochMax)
    (hhere : present e d (fieldAt o.payload 1 1) = true) :
    HandsOver (fieldAt o.payload 0 1)
      { target := fieldAt o.payload 1 1, since := e.now, sentAt := none, byOrder := some o } (moveSteward e o d) := by
  unfold moveSteward
  rw [if_neg hne, hnone, if_neg (by decide), if_neg (by simp [hhere, hepoch])]
  exact handsOver_startHandover ..

/-! ## A drill (R261, R262) -/

section
variable (e : Env) (d : Dp)

theorem msix_ring (p : PortId) (v : Nat) : (msix e p v d).ring = d.ring := by
  unfold msix
  dsimp only
  split
  · split
    · rfl
    · simp
  · rfl

theorem causePort_ring (bit : Nat) (p : PortId) : (causePort e bit p d).ring = d.ring := by
  by_cases h : (d.port p).fitted = true
  · rcases causePort_fitted e bit p d h with heq | heq
    · simp [heq]
    · rw [heq, msix_ring]
      simp
  · rw [causePort_unfitted e bit p d h]

theorem cause_ring (bit : Nat) : (cause e bit d).ring = d.ring :=
  (causePort_ring e _ bit .b).trans (causePort_ring e d bit .a)

theorem fenceRole_ring (pool : Nat) (c : BitVec 32) : (fenceRole e pool c d).ring = d.ring := by
  unfold fenceRole
  split
  · rfl
  · split
    · rfl
    · split
      · rw [cause_ring, logE, logAt_ring]
        rfl
      · split
        · rw [cause_ring, setRole_ring]
        · rfl

/-- An entry raised leaves the ring's records as they were. -/
theorem raise_ring (pool : Nat) (c : BitVec 32) (src : Nat) : (raise e pool c src d).ring = d.ring := by
  have hcause (c : Bool) (x : Dp) : (if c then cause e evSteward x else x).ring = x.ring := by
    split
    · exact cause_ring ..
    · rfl
  have hlog (c : Prop) [Decidable c] (a : List Nat) (x : Dp) :
      (if c then logE e 0x0703 3 srcFirmware a x else x).ring = x.ring := by
    split
    · exact logAt_ring ..
    · rfl
  unfold raise
  dsimp only
  split
  · rw [hcause, fenceRole_ring, noteLast_ring, hlog]
  · rfl

end

theorem otherRanks_congr {e : Env} {d d' : Dp} (h : d'.ring = d.ring) : otherRanks e d' = otherRanks e d := by
  unfold otherRanks present Dp.peer
  rw [h]

/-- STEWARD_DRILL of a pool with a standby starts a drill of every other device that is present. -/
theorem startDrill_started {e : Env} {o : Order} {d : Dp} {k : Nat} {c : BitVec 32}
    (hk : (d.roleD (fieldAt o.payload 0 1)).standby = some k) (hc : formClaim e d drillHandle = some c) :
    (startDrill e o d).sh.drill = some
      { pool := fieldAt o.payload 0 1, order := some o, since := e.now, stepAt := e.now, standby := k, oldClaim := c,
        newClaim := 0, asked := listMask (otherRanks e d), fencedOk := 0, accepted := 0, noReply := 0 } := by
  have hring : (count 7 4 1 (raise e drillHandle c 2 d)).ring = d.ring := (count_ring ..).trans (raise_ring ..)
  unfold startDrill
  simp only [hk, hc]
  rw [(sameButRing_sendEach ..).sh, ← otherRanks_congr hring]

/-! ## An order answered at its own head (R382, R395) -/

theorem stewardRank_of_stewardOf {e : Env} {d : Dp} {pool r : Nat} (h : stewardOf e d pool = some r) :
    stewardRank d pool = some r := by
  unfold stewardOf at h
  split at h
  · exact absurd h (by simp)
  · exact h

theorem answerTo_here {e : Env} {o : Order} {d : Dp} (st det : Nat) (pl : List Byte)
    (hsteward : stewardRank d 0 = some e.rank) (ho : o.rank = e.rank) : ∃ gs,
    answerTo e o st det pl d = answerOrder e o st det pl { d with sh := { d.sh with delegated := gs } } := by
  unfold answerTo
  simp only [hsteward, ho, if_pos]
  exact ⟨_, rfl⟩

/-- The mailbox that waits for an order gets its response. -/
theorem answerOrder_waiter {e : Env} {o : Order} {d : Dp} {m : Mbx} (st det : Nat) (pl : List Byte)
    (hm : waiter d o = some m) (hp : isParamOp o.opcode = false) : ∃ (fs : List (Order × Nat × Nat)) (cs : List Cmd),
    answerOrder e o st det pl d =
      respond e m st det pl { d with sh := { d.sh with forwarded := fs }, vq := { d.vq with cmds := cs } } := by
  unfold answerOrder
  have hw (fs : List (Order × Nat × Nat)) (cs : List Cmd) :
      waiter { d with sh := { d.sh with forwarded := fs }, vq := { d.vq with cmds := cs } } o = some m := hm
  simp only [hp, hw, Bool.and_false, Bool.false_eq_true, if_false]
  exact ⟨_, _, rfl⟩

/-- A mailbox whose command has ended with a response (R382). -/
def endedWith (b : List Byte) (x : Mail) : Mail :=
  { x with request := none, busy := false, done := true, respLen := b.length, respWin := Memory.writeBytes [] 0 b }

theorem endedWith_fields (b : List Byte) (x : Mail) :
    (endedWith b x).request = none ∧ (endedWith b x).busy = false ∧ (endedWith b x).done = true ∧
    (endedWith b x).respWin = Memory.writeBytes [] 0 b := ⟨rfl, rfl, rfl, rfl⟩

theorem mail_respond_host (e : Env) (p : PortId) (n : Fin 4) (st det : Nat) (pl : List Byte) {d : Dp} {r : MbReq}
    (h : d.request (.host p n) = some r) :
    (respond e (.host p n) st det pl d).mail (.host p n) = endedWith (responseBytes r st det pl) (d.mail (.host p n)) := by
  have hbox := box_of_request h
  have hend := mail_onMail d (.host p n) (endedWith (responseBytes r st det pl)) (fun _ => rfl) hbox
  unfold endedWith at hend ⊢
  simp only [respond, h]
  split
  · rw [mail_congr (causePort_mb _ _ _ _), hend]
  · rw [hend]

/-- A request that waits is the one that ran (R382). -/
theorem request_wait {d : Dp} {m : Mbx} {r : MbReq} (h : d.request m = some r) :
    (d.wait m).request m = some { r with waiting := true } := by
  unfold Dp.wait Dp.request
  rw [mail_onMail d m _ ?_ (box_of_request h)]
  · change ((d.request m).map _) = _
    rw [h]
    rfl
  · exact fun _ => rfl

/-- The answer of an order of this device, the registry steward, ends the host's command that waits for it. -/
theorem mail_answerTo_host {e : Env} {o : Order} {d : Dp} {p : PortId} {n : Fin 4} {r : MbReq} (st det : Nat)
    (pl : List Byte) (hsteward : stewardRank d 0 = some e.rank) (ho : o.rank = e.rank)
    (hw : waiter d o = some (.host p n)) (hp : isParamOp o.opcode = false) (hr : d.request (.host p n) = some r) :
    (answerTo e o st det pl d).mail (.host p n) = endedWith (responseBytes r st det pl) (d.mail (.host p n)) := by
  obtain ⟨gs, hto⟩ := answerTo_here st det pl hsteward ho
  obtain ⟨fs, cs, hans⟩ := answerOrder_waiter (e := e) (d := { d with sh := { d.sh with delegated := gs } }) st det pl hw hp
  rw [hto, hans]
  exact mail_respond_host e p n st det pl hr

/-- A response does not tell whether its command has waited. -/
theorem responseBytes_waiting (r : MbReq) (w : Bool) (st det : Nat) (pl : List Byte) :
    responseBytes { r with waiting := w } st det pl = responseBytes r st det pl := rfl

/-- A lease query of this device, the registry steward, is answered in its mailbox (R398). -/
theorem mail_leaseQuery {s : State} {p : PortId} {n : Fin 4} {r : MbReq}
    (hs : Sequenced s (mailOrder s.env (.host p n) (s.dp.mail (.host p n)) r)) (hask : Asked s (.host p n) 0x0112 r)
    (hh : leaseHandle s.dp.sh.regNext (fieldAt r.payload 0 1) = true)
    (hw : waiter (s.dp.wait (.host p n)) (mailOrder s.env (.host p n) (s.dp.mail (.host p n)) r) = some (.host p n)) :
    (ordered s (.host p n) r).dp.mail (.host p n) = endedWith (responseBytes r msSuccess 0
      (leaseBytes s.clk.time (leaseAt s.dp.sh.regNext s.clk.time (fieldAt r.payload 0 1))))
      ((s.dp.wait (.host p n)).mail (.host p n)) := by
  obtain ⟨hr, hop, -⟩ := hask
  obtain ⟨fs, hd⟩ := ordered_dp hs
  have hparam : isParamOp r.opcode = false := by rw [hop]; rfl
  rw [hd, (judgeOrder_lease (e := s.env) (d := s.dp) hs.leased).2.2 hop, judgeQuery_done hh,
    ← responseBytes_waiting r true]
  exact mail_answerTo_host msSuccess 0 _ (stewardRank_of_stewardOf hs.steward) rfl hw hparam (request_wait hr)

/-- Settles O13: a judged order's verdict, by the rules of its own, takes its effect. -/
theorem administrativeOrdersGoToTheRegistrySteward : Obligations.AdministrativeOrdersGoToTheRegistrySteward := by
  unfold Obligations.AdministrativeOrdersGoToTheRegistrySteward
  refine ⟨?_, ?_, orders_sent, ?_⟩
  · rintro e d m r o rfl
    exact ⟨rfl, rfl, rfl, rfl, rfl⟩
  · intro e o d hnone hop
    unfold sendOrder deliverOrder
    rw [hnone]
    simp [hop]
  intro s m r g p o h x becomes hs
  obtain ⟨hcreate, hdelete, hresize, hreshape, hfloor, hacquire, hrelease, hquery, hsan, hadd, hretire, hspare, hreplace, hmove,
    hprefer, hdrill, hrebase⟩ := orders_sent s m r
  obtain ⟨jcreate, jdelete, jresize, jreshape, jfloor, jclear⟩ := judgeOrder_pool (e := s.env) (d := s.dp) hs.leased
  obtain ⟨jacquire, jrelease, -⟩ := judgeOrder_lease (e := s.env) (d := s.dp) hs.leased
  obtain ⟨jsan, jadd, jretire, jspare, jreplace⟩ := judgeOrder_member (e := s.env) (d := s.dp) hs.leased
  obtain ⟨jmove, jprefer, jdrill, jrebase⟩ := judgeOrder_steward (e := s.env) (d := s.dp) hs.leased
  refine ⟨?_, ?_, ?_, ?_, ?_, ?_, ?_, ?_, ?_⟩
  · intro ha ns st depth hns htree hlay hfree hgone l hcap hsize
    obtain ⟨q, us, pl, hv, hq⟩ := judgeCreate_change hns htree hlay hfree hgone hcap hsize
    obtain ⟨u, hx, hreg⟩ := becomes_of_change hs (hcreate ha) ((jcreate ha.2.1).trans hv)
    have hset : g.setPool q = { g with pools := g.pools ++ [q] } := by
      refine if_neg ?_
      have hnone := List.find?_eq_none.mp hfree
      rw [hq.1]
      simpa using hnone
    obtain ⟨h1, h2, h3, h4, h5, h6, h7, h8, h9, h10⟩ := hq
    refine ⟨u, q, hx, ?_, h1, h2, h3, h4, h5, h6, h7, h8, h9, h10, ?_⟩
    · rw [hreg, show s.dp.sh.regNext.setPool q = _ from hset]
    · rw [hreg, show s.dp.sh.regNext.setPool q = _ from hset]
  · intro q h0 hq hst
    refine ⟨fun ha hx => ?_, fun ha hx => ?_, fun ha q' hnew hmax hup hsize => ?_, fun ha => ?_⟩
    · exact becomes_of_change hs (hdelete ha) ((jdelete ha.2.1).trans (judgeDelete_change h0 hq hst hx))
    · exact becomes_of_change hs (hdelete ha) ((jdelete ha.2.1).trans (judgeDelete_secure h0 hq hst hx))
    · exact becomes_of_change hs (hresize ha) ((jresize ha.2.1).trans (judgeResize_change h0 hq hst hnew hmax hup hsize))
    · exact becomes_of_change hs (hfloor ha) ((jfloor ha.2.1).trans (withPool_some _ h0 hq hst))
  · intro ha q ns st depth h0 hq hst hiu htags hcap hns htree hlay l hup hmax hnone hsize z
    exact becomes_of_change hs (hreshape ha) ((jreshape ha.2.1).trans
      (judgeReshape_change h0 hq hst hiu htags hcap hns htree hlay hup hmax hnone hsize))
  · intro hh
    refine ⟨fun ha hfree => ?_, fun l ha hl hmine => ?_, fun ha hw _ t n hm => ?_⟩
    · exact becomes_of_change hs (hacquire ha) ((jacquire ha.2.1).trans (judgeAcquire_change hh hfree))
    · exact becomes_of_change hs (hrelease ha) ((jrelease ha.2.1).trans (judgeRelease_change hh hl hmine))
    · subst hm
      refine ⟨_, hquery ha, ?_⟩
      rw [Dp.request, mail_leaseQuery hs ha hh hw]
      exact endedWith_fields ..
  · intro ha q hq hst
    exact becomes_of_change hs (errorLogClear_sent ha) ((jclear ha.2.1).trans (withAnyPool_some _ hq hst))
  · intro ha k hk hrank hfree
    obtain ⟨fs, hd⟩ := ordered_dp hs
    rw [(jsan ha.2.1).trans (judgeSanitize_give hk hfree)] at hd
    exact ⟨_, hsan ha, hd ▸ sanDue_giveRank hrank _ _⟩
  · intro ha hle
    exact becomes_of_change hs (hadd ha) ((jadd ha.2.1).trans (judgeAdd_change hle))
  · intro k hk
    refine ⟨fun ha => ?_, fun ha hleaf => ?_, fun ha y hne hy hsp hleaf hhere hsize => ?_⟩
    · exact becomes_of_change hs (hretire ha) ((jretire ha.2.1).trans (judgeRetire_change hk))
    · exact becomes_of_change hs (hspare ha) ((jspare ha.2.1).trans (judgeSpare_change hk hleaf))
    · exact becomes_of_change hs (hreplace ha) ((jreplace ha.2.1).trans
        (judgeReplace_change hk hne hy hsp hleaf hhere hsize))
  · intro q hq hst
    refine ⟨fun ha a b hka hkb hne => ?_, fun ha k hk hhere hsteward hne hnone hepoch => ?_,
      fun ha hone k c hsteward hk hc => ?_, fun ha hex hall k hk => ?_⟩
    · exact becomes_of_change hs (hprefer ha) ((jprefer ha.2.1).trans (judgePrefer_change hq hst hka hkb hne))
    · obtain ⟨fs, gs, hd⟩ := ordered_give hs ((jmove ha.2.1).trans (judgeMove_give hq hst hk hhere)) hsteward
      rw [carryOut_move ha.2.1] at hd
      obtain ⟨hstop, hhand⟩ := moveSteward_handsOver (e := s.env) (o := o)
        (d := forwarding s.dp fs gs (s.dp.wait m).mb) hne hnone hepoch hhere
      rw [← hd] at hstop hhand
      exact ⟨_, _, hmove ha, hstop, hhand, rfl, rfl, rfl⟩
    · obtain ⟨fs, gs, hd⟩ := ordered_give hs ((jdrill ha.2.1).trans (judgeDrill_give hq hst hone)) hsteward
      rw [carryOut_drill ha.2.1] at hd
      have hdrilled := startDrill_started (e := s.env) (o := o) (d := forwarding s.dp fs gs (s.dp.wait m).mb) hk hc
      rw [← hd] at hdrilled
      exact ⟨_, _, hdrill ha, hdrilled, rfl, rfl, rfl, rfl, rfl, rfl, rfl, rfl⟩
    · exact becomes_of_change hs (hrebase ha) ((jrebase ha.2.1).trans (judgeRebase_change hq hst hex hall hk))

end Sys2Proof.Proofs


/-! # Frames of tickets, notices and the journal (R53, R200 to R209, R249, R254) -/

namespace Sys2Proof.Proofs

open Sys2Proof.Machine Sys2Proof.Laws

/-! ## A frame that is delivered -/

/-- Staying awake changes neither the environment nor the data path (R503). -/
theorem env_stayAwake (s : State) : s.stayAwake.env = s.env := by
  unfold State.stayAwake
  split <;> rfl

theorem dp_stayAwake (s : State) : s.stayAwake.dp = s.dp := by
  unfold State.stayAwake
  split <;> rfl

theorem onDp_congr {s : State} {f g : Env → Dp → Dp} (h : f s.env s.dp = g s.env s.dp) : s.onDp f = s.onDp g := by
  unfold State.onDp
  rw [h]

/-- A frame delivered next, and alone, has its own effect and no other. -/
theorem onFrame_reaches {t : FrameType} {f : Frame} {b : FrameBody} {s : State} {d : Dp} (hc : 1 ≤ t.cls 3)
    (h : Reaches t 3 f b s d) : onFrame t 3 f b s = (s.stayAwake.onDp (fun e _ => deliver e (t, f, b) d)).work := by
  unfold onFrame State.onDp
  rw [if_pos hc]
  simp only [env_stayAwake, dp_stayAwake, show arrive s.env t 3 f b s.dp = _ from h, List.foldl_cons, List.foldl_nil]

/-- The outcome of a command that a frame delivered alone gives, by the frame's effect in the state's environment. -/
theorem next_onFrame {t : FrameType} {f : Frame} {b : FrameBody} {s : State} {d : Dp} {g : Env → Dp → Dp} (hc : 1 ≤ t.cls 3)
    (h : Reaches t 3 f b s d) (hg : deliver s.env (t, f, b) d = g s.env s.dp) :
    (.next (onFrame t 3 f b s) : Host.Outcome State Fault Refusal) = .next (s.stayAwake.onDp g).work := by
  rw [onFrame_reaches hc h, onDp_congr (g := g)]
  rw [env_stayAwake, dp_stayAwake, hg]

section
variable {e : Env} {t : FrameType} {f : Frame} {d : Dp} (act : Dp → Dp)

/-- A frame under a claim that the Seawall accepts acts once the entry is raised (R249, R252). -/
theorem guarded_accepted (ha : admitted d f.pool = true) (hv : claimValid f.claim = true) (hr : rankOf f.claim = f.src.val)
    (hc : d.claimOf f.pool ≤ f.claim) : guarded e t f true act d = act (raise e f.pool f.claim 2 d) := by
  simp [guarded, seawall, ha, hv, hr, BitVec.not_lt.mpr hc]

/-- A frame under a lower claim draws FENCED and does not act (R249). -/
theorem guarded_lower (ha : admitted d f.pool = true) (hv : claimValid f.claim = true) (hr : rankOf f.claim = f.src.val)
    (hc : f.claim < d.claimOf f.pool) :
    guarded e t f true act d = sendFenced e f.pool f.src.val (refusal f.pool d) := by
  simp [guarded, seawall, ha, hv, hr, hc]

end

/-! ## A frame that arrives in order (R279) -/

namespace SameButRing
variable {d d' : Dp} (h : SameButRing d d')
include h

theorem map : d'.map = d.map := by
  obtain ⟨_, _, rfl⟩ := h
  rfl

theorem role (pool : Nat) : d'.role pool = d.role pool := by
  obtain ⟨_, _, rfl⟩ := h
  rfl

theorem claimOf (pool : Nat) : d'.claimOf pool = d.claimOf pool := by
  obtain ⟨_, _, rfl⟩ := h
  rfl

theorem admitted (pool : Nat) : Machine.admitted d' pool = Machine.admitted d pool := by
  obtain ⟨_, _, rfl⟩ := h
  rfl

end SameButRing

/-- An acknowledgement taken leaves what the stream awaits as it was (R281). -/
theorem pair_ackPair (r c ack : Nat) (d : Dp) :
    ((ackPair r c ack d).pair r c).rxNext = (d.pair r c).rxNext ∧ ((ackPair r c ack d).pair r c).held = (d.pair r c).held := by
  unfold ackPair
  rw [pair_setPair]
  exact ⟨rfl, rfl⟩

theorem ahead_self (n : Nat) : ahead n n = 0 := by
  rw [ahead]
  omega

theorem roleD_send (e : Env) (t : FrameType) (bulk : Nat) (f : Frame) (b : FrameBody) (d : Dp) (pool : Nat) :
    (send e t bulk f b d).roleD pool = d.roleD pool := (sameButRing_send ..).roleD pool

/-- A frame at the next number of its stream, with none held behind a gap, is taken alone (R279, R280). -/
theorem sequenceIn_next (e : Env) (t : FrameType) {f : Frame} (b : FrameBody) {d : Dp}
    (hnext : f.pairSeq = (d.pair f.src.val f.cls).rxNext) (halone : (d.pair f.src.val f.cls).held = []) :
    ∃ d', sequenceIn e t f b d = (d', [(t, f, b)]) ∧ SameButRing d d' := by
  obtain ⟨hrx, hheld⟩ := pair_ackPair f.src.val f.cls f.pairAck d
  have hset (d : Dp) (r c : Nat) (p : Pair) : SameButRing d (d.setPair r c p) := ⟨_, _, rfl⟩
  have hack : SameButRing d (ackPair f.src.val f.cls f.pairAck d) := hset ..
  have hsend (c : Prop) [Decidable c] (r k : Nat) (x : Dp) : SameButRing x (if c then sendAck e r k x else x) := by
    split
    · exact (hset ..).trans (sameButRing_send ..)
    · exact .refl x
  unfold sequenceIn
  dsimp only
  rw [hrx, hheld, ← hnext, ahead_self, if_neg (by decide), if_neg (by decide), if_pos rfl, halone]
  exact ⟨_, rfl, hack.trans ((hset ..).trans (hsend ..))⟩

/-- A frame that arrives in order is delivered alone, and its arrival changes the ring's records alone. -/
theorem reaches_of_inOrder {s : State} {t : FrameType} {f : Frame} (h : InOrder s t 3 f) (hp : t.paired = true)
    (b : FrameBody) : ∃ d, Reaches t 3 f b s d ∧ SameButRing s.dp d := by
  have hrx : SameButRing s.dp (rxOn f.port s.dp) ∧ (rxOn f.port s.dp).ring.peers = s.dp.ring.peers ∧
      (rxOn f.port s.dp).ring.pairs = s.dp.ring.pairs := by
    unfold rxOn
    cases f.port <;> exact ⟨⟨_, _, rfl⟩, rfl, rfl⟩
  obtain ⟨hsame, hpeers, hpairs⟩ := hrx
  generalize hd : (if 1 ≤ f.cls then { rxOn f.port s.dp with ring := { (rxOn f.port s.dp).ring with busyAt := s.env.now } }
    else rxOn f.port s.dp) = d₁
  have hd₁ : SameButRing s.dp d₁ ∧ d₁.ring.peers = s.dp.ring.peers ∧ d₁.ring.pairs = s.dp.ring.pairs := by
    subst hd
    split
    · exact ⟨hsame.trans ⟨_, _, rfl⟩, hpeers, hpairs⟩
    · exact ⟨hsame, hpeers, hpairs⟩
  obtain ⟨hsame₁, hpeers₁, hpairs₁⟩ := hd₁
  have hpair : d₁.pair f.src.val f.cls = s.dp.pair f.src.val f.cls := by
    unfold Dp.pair
    rw [hpairs₁]
  have hpeer : d₁.peer f.src.val = s.dp.peer f.src.val := by
    unfold Dp.peer
    rw [hpeers₁]
  obtain ⟨d', hseq, hsame'⟩ := sequenceIn_next s.env t (d := d₁) b (h.next.trans (by rw [hpair])) (by rw [hpair, h.alone])
  refine ⟨d', ?_, hsame₁.trans hsame'⟩
  have hready : (1 ≤ f.cls && !s.env.ready) = false := by
    rcases h.served with h0 | h1
    · simp [h0]
    · simp [show s.env.ready = true from h1]
  unfold Reaches arrive
  simp only [h.here, h.opened, h.away, h.whole, bne_self_eq_false, Bool.not_true, Bool.or_self, Bool.false_eq_true, if_false]
  rw [hd, if_neg (by simp [h.cls]), if_neg (by simp [h.good]), hready, if_neg (by decide), hpeer, ← h.session,
    if_neg (by simp), hp, if_neg (by decide), hseq]

/-! ## Raising an entry (R240, R249) -/

/-- Two data paths with the same map, the same Seawall and the same tickets of the head. -/
def SameHead (d d' : Dp) : Prop := d'.map = d.map ∧ d'.sh.sea = d.sh.sea ∧ d'.sh.htickets = d.sh.htickets

namespace SameHead
variable {d d' d'' : Dp}

theorem refl (d : Dp) : SameHead d d := ⟨rfl, rfl, rfl⟩

theorem trans (h : SameHead d d') (h' : SameHead d' d'') : SameHead d d'' :=
  ⟨h'.1.trans h.1, h'.2.1.trans h.2.1, h'.2.2.trans h.2.2⟩

theorem ite {c : Prop} [Decidable c] {x y : Dp} (hx : SameHead d x) (hy : SameHead d y) : SameHead d (if c then x else y) := by
  split
  · exact hx
  · exact hy

theorem cause (e : Env) (bit : Nat) (d : Dp) : SameHead d (cause e bit d) := by
  obtain ⟨-, hsh, hmap, -⟩ := cause_frame e bit d
  exact ⟨hmap, by rw [hsh], by rw [hsh]⟩

theorem logE (e : Env) (code sev src : Nat) (a : List Nat) (d : Dp) : SameHead d (logE e code sev src a d) :=
  ⟨logAt_map .., by rw [Machine.logE, logAt_sh], by rw [Machine.logE, logAt_sh]⟩

theorem setRole (d : Dp) (x : PRole) : SameHead d (d.setRole x) := ⟨rfl, rfl, rfl⟩

theorem fenceRole (e : Env) (pool : Nat) (c : BitVec 32) (d : Dp) : SameHead d (fenceRole e pool c d) := by
  unfold Machine.fenceRole
  split
  · exact .refl d
  · refine ite (.refl d) (ite ?_ (ite ((setRole d _).trans (cause ..)) (.refl d)))
    refine SameHead.trans ?_ ((logE ..).trans (cause ..))
    exact ⟨rfl, rfl, rfl⟩

end SameHead

/-- Raising changes the entry, and neither the map nor the head's tickets; the entry then holds at least the claim. -/
theorem raise_sameHead (e : Env) (pool : Nat) (c : BitVec 32) (src : Nat) (d : Dp) :
    (raise e pool c src d).map = d.map ∧ (raise e pool c src d).sh.htickets = d.sh.htickets ∧
    (d.claimOf pool ≤ c → (raise e pool c src d).claimOf pool = c) := by
  unfold raise
  dsimp only
  split
  · generalize hd : ({ d with sh := { d.sh with
        sea := d.sh.sea.put pool { raisedAt := e.now, claim := c, source := src, refusals := 0 }
        shadow := d.sh.shadow.put pool c.toNat
        relinquished := without pool d.sh.relinquished } } : Dp) = d₁
    have hnote (x : Dp) (f : PoolRec → PoolRec) : SameHead x (x.noteLast pool f) := ⟨rfl, rfl, rfl⟩
    have hraised (x : Dp) (h : SameHead d₁ x) : x.map = d.map ∧ x.sh.htickets = d.sh.htickets ∧
        (d.claimOf pool ≤ c → x.claimOf pool = c) := by
      obtain ⟨hmap, hsea, ht⟩ := h
      subst hd
      exact ⟨hmap, ht, fun _ => by simp [Dp.claimOf, Dp.sea, hsea]⟩
    have hfence := ((SameHead.ite (c := epochOf (d.claimOf pool) < 0xFFF000 ∧ 0xFFF000 ≤ epochOf c)
      (SameHead.logE e 0x0703 3 srcFirmware [pool, c.toNat] d₁) (.refl d₁)).trans
      (hnote _ (fun p => { p with lastSteward := rankOf c }))).trans (.fenceRole e pool c _)
    exact hraised _ (.ite (hfence.trans (.cause ..)) hfence)
  · next hlow =>
    exact ⟨rfl, rfl, fun hle => BitVec.le_antisymm hle (BitVec.not_lt.mp hlow)⟩

/-- An entry that already holds the claim is left as it is. -/
theorem raise_same (e : Env) {pool : Nat} {c : BitVec 32} (src : Nat) {d : Dp} (h : c = d.claimOf pool) :
    raise e pool c src d = d := by
  unfold raise
  rw [if_neg (by simp [h])]

/-! ## Pending mappings and their outcome (R53) -/

/-- Every greenware block there was there before, with the outcome it had, and the same notices are held. -/
def GreensKept (d d' : Dp) : Prop :=
  d'.map.commits = d.map.commits ∧
  ∀ g' ∈ d'.map.green, ∃ g ∈ d.map.green, g'.pool = g.pool ∧ g'.seqn = g.seqn ∧ g'.committed = g.committed

namespace GreensKept
variable {d d' d'' : Dp}

theorem of_green (hc : d'.map.commits = d.map.commits) (hg : d'.map.green = d.map.green) : GreensKept d d' :=
  ⟨hc, fun g' h => ⟨g', hg ▸ h, rfl, rfl, rfl⟩⟩

theorem of_map (h : d'.map = d.map) : GreensKept d d' := of_green (by rw [h]) (by rw [h])

theorem refl (d : Dp) : GreensKept d d := of_map rfl

theorem media (d : Dp) (m : Media) : GreensKept d { d with med := m } := of_map rfl

theorem trans (h : GreensKept d d') (h' : GreensKept d' d'') : GreensKept d d'' := by
  obtain ⟨hc, hg⟩ := h
  obtain ⟨hc', hg'⟩ := h'
  refine ⟨hc'.trans hc, fun g'' h'' => ?_⟩
  obtain ⟨g', hmem', hp', hs', ho'⟩ := hg' g'' h''
  obtain ⟨g, hmem, hp, hs, ho⟩ := hg g' hmem'
  exact ⟨g, hmem, hp'.trans hp, hs'.trans hs, ho'.trans ho⟩

theorem ite {c : Prop} [Decidable c] {x y : Dp} (hx : GreensKept d x) (hy : GreensKept d y) :
    GreensKept d (if c then x else y) := by
  split
  · exact hx
  · exact hy

theorem foldl {α : Type} {f : Dp → α → Dp} (h : ∀ d x, GreensKept d (f d x)) (l : List α) (d : Dp) :
    GreensKept d (l.foldl f d) := by
  induction l generalizing d with
  | nil => exact .refl d
  | cons x t ih => exact (h d x).trans (ih _)

/-- What holds of every block of a ticket's outcome goes on to hold. -/
theorem outcome (h : GreensKept d d') {pool seqn : Nat}
    (hd : ∀ g ∈ d.map.green, g.pool = pool → g.seqn = seqn → g.committed = true) :
    ∀ g ∈ d'.map.green, g.pool = pool → g.seqn = seqn → g.committed = true := by
  intro g' hmem' hp hs
  obtain ⟨g, hmem, hp', hs', ho⟩ := h.2 g' hmem'
  exact ho.trans (hd g hmem (hp'.symm.trans hp) (hs'.symm.trans hs))

end GreensKept

/-! ### Rows and dies that leave service -/

section
variable (e : Env) (d : Dp)

theorem greensKept_restage (id : Nat) (pages : List Nat) : GreensKept d (restage id pages d) := by
  refine ⟨rfl, fun g' h => ?_⟩
  obtain ⟨g, hmem, hg⟩ := List.mem_map.mp h
  refine ⟨g, hmem, ?_⟩
  subst hg
  split <;> exact ⟨rfl, rfl, rfl⟩

theorem greensKept_closeRows (on_ : Nat × Nat × Nat → Bool) : GreensKept d (closeRows e on_ d) :=
  .foldl (fun _ _ => GreensKept.trans (.of_map (onRow_map ..)) (greensKept_restage ..)) _ d

theorem greensKept_returnRead (cws : List Nat) (why : ReadWhy) : GreensKept d (returnRead cws why d) := by
  cases why <;> exact .of_map rfl

theorem addRelic_map (r : Row) (pos : Nat) : (addRelic r pos d).map = d.map := by
  unfold addRelic
  dsimp only
  split <;> rfl

theorem greensKept_dropBlock (r : Row) (pos : Nat) : GreensKept d (dropBlock r pos d) :=
  .of_map ((eraseSettled_map ..).trans ((sdBlock_map ..).trans (addRelic_map ..)))

theorem greensKept_dropOps (c n : Nat) : GreensKept d (dropOps e c n d) := by
  unfold dropOps
  refine GreensKept.trans ?_ (.foldl (fun d (x : Row × Nat) => greensKept_dropBlock d x.1 x.2) _ _)
  refine GreensKept.trans ?_ (.foldl (fun d k => ?_) _ _)
  · exact GreensKept.trans (.of_map (setDie_map ..)) (greensKept_closeRows ..)
  · split
    · exact greensKept_restage ..
    · exact greensKept_returnRead ..
    · exact .refl d

theorem greensKept_logE (code sev src : Nat) (a : List Nat) : GreensKept d (logE e code sev src a d) := .of_map (logAt_map ..)

theorem greensKept_cause (bit : Nat) : GreensKept d (cause e bit d) := by
  obtain ⟨-, -, hmap, -⟩ := cause_frame e bit d
  exact .of_map hmap

/-- A record written and counted. -/
theorem greensKept_counted (ss i n code sev src : Nat) (a : List Nat) :
    GreensKept d (count ss i n (logE e code sev src a d)) := (greensKept_logE ..).trans (.of_map (count_map ..))

theorem greensKept_recompute : GreensKept d (recompute e d) := by
  have hlog (c : Prop) [Decidable c] (x : Dp) (code sev : Nat) (a : List Nat) :
      GreensKept x (if c then logE e code sev srcFirmware a x else x) := .ite (greensKept_logE ..) (.refl x)
  have hcheck (x : Dp) : GreensKept x (checkReserve e x) := by
    unfold checkReserve
    refine .ite (.refl x) ?_
    refine GreensKept.trans ?_ (greensKept_cause ..)
    refine GreensKept.trans ?_ (hlog ..)
    refine GreensKept.trans ?_ (hlog ..)
    exact (GreensKept.media ..).trans (hlog ..)
  exact GreensKept.trans (.of_map rfl) (hcheck _)

theorem greensKept_fenceDie (c n : Nat) : GreensKept d (fenceDie e c n d) := by
  have hdrop (x : Dp) (m : Media) : GreensKept x (dropOps e c n { x with med := m }) :=
    (GreensKept.media ..).trans (greensKept_dropOps ..)
  unfold fenceDie
  refine .ite (.refl d) (GreensKept.trans ?_ (greensKept_recompute ..))
  refine GreensKept.trans ?_ ((greensKept_counted ..).trans (greensKept_cause ..))
  exact GreensKept.trans (.of_map (setDie_map ..)) (hdrop ..)

theorem greensKept_retireDie (c n : Nat) : GreensKept d (retireDie e c n d) := by
  unfold retireDie
  refine .ite (.refl d) ((greensKept_fenceDie e d c n).trans ?_)
  exact (GreensKept.media ..).trans ((greensKept_counted ..).trans (greensKept_recompute ..))

theorem greensKept_retireBlock (b : Nat × Nat × Nat) (event : Nat) : GreensKept d (retireBlock e b event d) := by
  unfold retireBlock
  refine .ite (.refl d) ?_
  have htold (m : Media) (a : List Nat) :
      GreensKept d (recompute e (count 3 5 1 (logE e 0x0305 2 srcFirmware a { d with med := m }))) :=
    (GreensKept.media ..).trans ((greensKept_counted ..).trans (greensKept_recompute ..))
  exact .ite ((htold ..).trans (greensKept_retireDie ..)) (htold ..)

theorem greensKept_eraseRow (id : Nat) : GreensKept d (eraseRow e id d) := by
  unfold eraseRow
  split
  · exact .refl d
  · next r _ =>
    refine .ite (.refl d) ?_
    have hbad (x : Dp) (r : Row) (i : Nat) :
        GreensKept x (sdBlock (some id) (r.blocks.getD i (0, 0, 0)) false (addRelic r i x)) :=
      .of_map ((sdBlock_map ..).trans (addRelic_map ..))
    have hend (x : Dp) (c : Prop) [Decidable c] (m : Media) : GreensKept x (if c then { x with med := m } else x) :=
      .ite (.media ..) (.refl x)
    refine GreensKept.trans ?_ (hend ..)
    refine GreensKept.trans ?_ (.of_map (onRow_map ..))
    refine GreensKept.trans ?_ (.foldl (fun d i => hbad d _ i) _ _)
    exact .foldl (fun d b => greensKept_retireBlock e d b 1) _ d

/-- Rows erased cost no pending mapping its outcome. -/
theorem greensKept_sweepRows : GreensKept d (sweepRows e d) :=
  .foldl (fun d (r : Row) => greensKept_eraseRow e d r.id) _ d

/-! ### Mappings that become current -/

theorem greensKept_addDelta (k : DeltaKind) (pool b seqn : Nat) (l : Option Loc) : GreensKept d (addDelta k pool b seqn l d) :=
  .of_green rfl rfl

theorem greensKept_setEntry (pool b : Nat) (l : Option Loc) : GreensKept d (setEntry pool b l d) := .of_green rfl rfl

theorem greensKept_wantSeg (pool lb : Nat) : GreensKept d (wantSeg d pool lb) := .of_green rfl rfl

theorem greensKept_settleCopy (id i : Nat) : GreensKept d (settleCopy id i d) := by
  unfold settleCopy
  split
  · exact .refl d
  · split
    · refine .ite (greensKept_wantSeg ..) (.ite ?_ (.of_map (onRow_map ..)))
      exact GreensKept.trans (.of_map (onRow_map ..)) ((greensKept_setEntry ..).trans (greensKept_addDelta ..))
    · exact .refl d

theorem greensKept_settleCopies : GreensKept d (settleCopies d) :=
  .foldl (fun d (r : Row) => .foldl (fun d i => greensKept_settleCopy d r.id i) _ d) _ d

theorem greensKept_makeCurrent (g : Green) : GreensKept d (makeCurrent g d) := by
  unfold makeCurrent
  have hset : GreensKept d (if entrySeq d g.pool g.localBlk ≤ g.seqn then
      setEntry g.pool g.localBlk (if g.unmaps then none else g.loc) d else d) := .ite (greensKept_setEntry ..) (.refl d)
  refine hset.trans ?_
  exact ⟨rfl, fun g' h => ⟨g', List.mem_of_mem_filter h, rfl, rfl, rfl⟩⟩

/-- Making mappings current forgets some, and changes no outcome. -/
theorem greensKept_settleGreens : GreensKept d (settleGreens e d) := by
  unfold settleGreens
  dsimp only
  refine GreensKept.trans ?_ (greensKept_sweepRows ..)
  refine GreensKept.trans ?_ (.foldl (fun d g => greensKept_makeCurrent d g) _ _)
  refine GreensKept.trans ?_ (greensKept_settleCopies _)
  exact .foldl (fun d g => greensKept_wantSeg ..) _ d

/-! ### Commands that end, and tickets of the head -/

theorem greensKept_putIf (c : Bool) (o : Output) : GreensKept d (if c then put o d else d) :=
  .ite (.of_map (put_map ..)) (.refl d)

theorem greensKept_signalQueue (p : PortId) (q : Nat) : GreensKept d (signalQueue e p q d) := by
  obtain ⟨-, -, hmap, -⟩ := msix_frame e q p (d.setQueue { d.queueD p q with unsig := 0 })
  exact .of_map (hmap.trans (setQueue_map ..))

theorem greensKept_coalesce (p : PortId) (q : Nat) (froze : Bool) : GreensKept d (coalesce e p q froze d) :=
  .ite (.of_map (setQueue_map ..)) (.ite (GreensKept.trans (.of_map (setQueue_map ..)) (greensKept_signalQueue ..))
    (.of_map (setQueue_map ..)))

theorem greensKept_postOne (p : PortId) (q : Nat) : GreensKept d (postOne e p q d) := by
  unfold postOne
  dsimp only
  split
  · exact .refl d
  · refine .ite (GreensKept.trans (.of_map ?_) (greensKept_coalesce ..)) (.ite (.refl d) (.of_map (onPort_map ..)))
    exact (freeTag_map ..).trans ((setQueue_map ..).trans (put_map ..))

theorem greensKept_endCmd (k : CmdKey) (status detail lba : Nat) (froze : Bool) :
    GreensKept d (endCmd e k status detail lba froze d) := by
  unfold endCmd
  split
  · exact .refl d
  · refine .ite (.of_map rfl) (GreensKept.trans (.of_map ?_) (.foldl (fun d _ => greensKept_postOne e d _ _) _ _))
    rfl

theorem greensKept_complete (k : CmdKey) (status detail lba : Nat) : GreensKept d (complete e k status detail lba d) := by
  unfold complete
  split
  · exact .refl d
  · refine .ite (.refl d) (.ite ?_ (greensKept_endCmd ..))
    refine GreensKept.trans ?_ (greensKept_counted ..)
    refine GreensKept.trans ?_ (greensKept_signalQueue ..)
    refine GreensKept.trans ?_ (greensKept_putIf _ _ _)
    refine GreensKept.trans ?_ (.foldl (fun d _ => greensKept_endCmd e d _ _ _ _ _) _ _)
    exact GreensKept.trans (.of_map (setQueue_map ..)) (greensKept_endCmd ..)

theorem greensKept_giveUpTicket (t : HTicket) : GreensKept d (giveUpTicket e t d) := by
  have hdrop (x : Dp) : GreensKept x (askDrop e t x) := by
    unfold askDrop
    split
    · exact .refl x
    · exact .of_map (sameButRing_send ..).map
  unfold giveUpTicket
  split
  · exact .of_map rfl
  · exact GreensKept.trans (.of_map rfl) (hdrop _)
  · exact GreensKept.trans (.of_map rfl) (hdrop _)
  · exact .of_map rfl

theorem greensKept_failCmd (k : CmdKey) (status idx : Nat) : GreensKept d (failCmd e k status idx d) := by
  unfold failCmd
  split
  · exact .refl d
  · refine GreensKept.trans ?_ (greensKept_complete ..)
    exact .foldl (fun d t => GreensKept.trans (.of_map (onHticket_map ..)) (greensKept_giveUpTicket ..)) _ d

theorem greensKept_blkDone (x : Part) : GreensKept d (blkDone x d) := .ite (.refl d) (.of_map (onCmd_map ..))

theorem greensKept_commitHead (pool seqn : Nat) : GreensKept d (commitHead pool seqn d) := by
  unfold commitHead
  split
  · exact .refl d
  · refine GreensKept.trans ?_ (.foldl (fun d x => greensKept_blkDone d x) _ _)
    refine GreensKept.trans ?_ (.of_map (dropHticket_map ..))
    generalize hd : List.foldl _ d _ = d₁
    have hkeys : GreensKept d d₁ := hd ▸ .foldl (fun d k => .of_map (onCmd_map ..)) _ d
    refine hkeys.trans ?_
    split
    · exact .ite (.of_map rfl) (.refl _)
    · exact .refl _

theorem greensKept_dropHead (pool seqn : Nat) : GreensKept d (dropHead e pool seqn d) := by
  unfold dropHead
  split
  · exact .refl d
  · refine .ite (.of_map rfl) (.ite ?_ (.ite ?_ (.of_map rfl)))
    · exact GreensKept.trans (.of_map rfl) (.foldl (fun d x => greensKept_blkDone d x) _ _)
    · exact GreensKept.trans (.of_map rfl) (.foldl (fun d k => greensKept_failCmd e d k _ _) _ _)

theorem greensKept_readAfresh (pool row : Nat) : GreensKept d (readAfresh pool row d) := by
  unfold readAfresh
  split <;> exact .of_map rfl

end

/-- A COMMIT notice commits the pending mappings of its ticket, which is of no WRITE_ATOMIC, and is remembered (R53). -/
theorem commitGreens_commits (e : Env) {pool seqn : Nat} {d : Dp}
    (h : d.map.green.any (fun g => g.pool = pool && g.seqn = seqn && hasFlag g.flags fGrouped) = false) :
    (pool, seqn) ∈ (commitGreens e pool seqn d).map.commits ∧
    ∀ g ∈ (commitGreens e pool seqn d).map.green, g.pool = pool → g.seqn = seqn → g.committed = true := by
  unfold commitGreens
  generalize hd : ({ d with map := { d.map with
      green := d.map.green.filter (fun g => !(g.pool = pool && g.seqn = seqn && (g.empty || !g.full)))
      commits := addNew (pool, seqn) d.map.commits } } : Dp) = d₁
  have hwith : commitsWith d₁ pool seqn = [seqn] := by
    have hnone : d₁.map.green.find? (fun g => g.pool = pool && g.seqn = seqn && hasFlag g.flags fGrouped) = none := by
      subst hd
      rw [List.find?_eq_none]
      intro g hg
      exact List.any_eq_false.mp h g (List.mem_of_mem_filter hg)
    unfold commitsWith
    rw [hnone]
  have hheld : (pool, seqn) ∈ d₁.map.commits := by
    subst hd
    simp only [addNew]
    split
    · next h => simpa using h
    · simp
  dsimp only
  rw [hwith]
  have hkept := greensKept_settleGreens e (d₁.onGreen (fun g => g.pool = pool && [seqn].contains g.seqn)
    (fun g => { g with committed := true }))
  refine ⟨by rw [hkept.1]; exact hheld, hkept.outcome fun g hg hp hs => ?_⟩
  obtain ⟨x, -, rfl⟩ := List.mem_map.mp hg
  by_cases hit : (x.pool = pool && [seqn].contains x.seqn) = true
  · rw [if_pos hit]
  · rw [if_neg hit] at hp hs
    simp [hp, hs] at hit

/-- A DROP notice leaves no pending mapping of its ticket (R202). -/
theorem dropGreens_drops (e : Env) (pool seqn : Nat) (d : Dp) :
    ∀ g ∈ (dropGreens e pool seqn d).map.green, g.pool = pool → g.seqn = seqn → g.committed = true := by
  unfold dropGreens
  refine (greensKept_sweepRows e _).outcome fun g hg hp hs => ?_
  have hleft := (List.mem_filter.mp hg).2
  simpa [hp, hs] using hleft

/-! ## A grant at the head (Table 6-2 step 3) -/

/-- A ticket of the head is granted. -/
def GrantedAs (id seqn group : Nat) (claim : BitVec 32) (d : Dp) : Prop :=
  ∃ z, d.hticket id = some z ∧ z.stage = .granted ∧ z.seqn = seqn ∧ z.claim = claim ∧ z.group = group

theorem hticket_onHticket (d : Dp) (id : Nat) (f : HTicket → HTicket) (hf : ∀ x, (f x).id = x.id) (k : Nat) :
    (d.onHticket id f).hticket k = (d.hticket k).map (fun x => if decide (x.id = id) then f x else x) := by
  unfold Dp.onHticket Dp.hticket
  exact find_updateWhere _ _ _ _ (fun x => by rw [hf])

section
variable {id seqn group : Nat} {claim : BitVec 32} {d : Dp} (h : GrantedAs id seqn group claim d)
include h

theorem grantedAs_of_htickets {d' : Dp} (hd : d'.sh.htickets = d.sh.htickets) : GrantedAs id seqn group claim d' := by
  obtain ⟨z, hz, hrest⟩ := h
  refine ⟨z, ?_, hrest⟩
  unfold Dp.hticket at hz ⊢
  rw [hd, hz]

/-- A ticket that changes in what it reads stays granted. -/
theorem grantedAs_onHticket (k : Nat) (f : HTicket → HTicket) (hf : ∀ x, (f x).id = x.id ∧ (f x).stage = x.stage ∧
    (f x).seqn = x.seqn ∧ (f x).claim = x.claim ∧ (f x).group = x.group) :
    GrantedAs id seqn group claim (d.onHticket k f) := by
  obtain ⟨z, hz, hstage, hseqn, hclaim, hgroup⟩ := h
  obtain ⟨-, hs, hq, hc, hg⟩ := hf z
  rw [GrantedAs, hticket_onHticket d k f (fun x => (hf x).1), hz, Option.map_some]
  refine ⟨_, rfl, ?_⟩
  split
  · exact ⟨hs.trans hstage, hq.trans hseqn, hc.trans hclaim, hg.trans hgroup⟩
  · exact ⟨hstage, hseqn, hclaim, hgroup⟩

end

/-- Asking for a unit changes no ticket of the head. -/
theorem htickets_fetchUnit (e : Env) (pool gen : Nat) (q : Place) (why : Purpose) (again : Bool) (tried : List Nat) (d : Dp) :
    (fetchUnit e pool gen q why again tried d).sh.htickets = d.sh.htickets := by
  unfold fetchUnit
  split
  · rfl
  · dsimp only
    split
    · rfl
    · split
      · rfl
      · rw [(sameButRing_send ..).sh]

theorem grantedAs_wantUnit {id seqn group : Nat} {claim : BitVec 32} {d : Dp} (h : GrantedAs id seqn group claim d) (e : Env)
    (p : PoolRec) (l : Lay) (t : HTicket) (w : Nat × Nat) : GrantedAs id seqn group claim (wantUnit e p l t w d) := by
  unfold wantUnit
  dsimp only
  split
  · split
    · exact h
    · split
      · exact grantedAs_onHticket h _ _ (fun _ => ⟨rfl, rfl, rfl, rfl, rfl⟩)
      · exact grantedAs_of_htickets h (htickets_fetchUnit ..)
  · split
    · exact grantedAs_of_htickets h rfl
    · exact grantedAs_of_htickets h (htickets_fetchUnit ..)

/-- A ticket that was asked for is granted (Table 6-2 step 3). -/
theorem grantTicket_grants (e : Env) {id : Nat} (seqn group : Nat) (claim : BitVec 32) {d : Dp} {t : HTicket}
    (ht : d.hticket id = some t) (hstage : t.stage = .requested) :
    GrantedAs id seqn group claim (grantTicket e id seqn group claim d) := by
  have hid : t.id = id := by simpa [Dp.hticket] using List.find?_some ht
  have hgranted : GrantedAs id seqn group claim (d.onHticket id (fun t => { t with
      stage := .granted, seqn := seqn, group := group, claim := claim })) := by
    rw [GrantedAs, hticket_onHticket _ _ _ ?_, ht, Option.map_some, if_pos (by simp [hid])]
    · exact ⟨_, rfl, rfl, rfl, rfl, rfl⟩
    · exact fun _ => rfl
  have hcmds (l : List CmdKey) (f : Cmd → Cmd) (x : Dp) :
      (l.foldl (fun d k => d.onCmd k f) x).sh.htickets = x.sh.htickets := by
    induction l generalizing x with
    | nil => rfl
    | cons k l ih => exact ih _
  unfold grantTicket
  simp only [ht, hstage, if_pos]
  split
  · exact grantedAs_of_htickets hgranted (hcmds ..)
  · next p _ =>
    generalize ticketWants p _ t = ws
    have hwant := grantedAs_onHticket (grantedAs_of_htickets hgranted (hcmds (t.parts.map Part.key).eraseDups
      (fun c => if isDataOp c.opcode then { c with asking := true } else { c with staged := true }) _)) id
      (fun t => { t with want := ws }) (fun _ => ⟨rfl, rfl, rfl, rfl, rfl⟩)
    generalize Dp.onHticket _ id (fun t => { t with want := ws }) = d₁ at hwant ⊢
    generalize p.layGen t.gen = l
    induction ws generalizing d₁ with
    | nil => exact hwant
    | cons w ws ih => exact ih _ (grantedAs_wantUnit hwant e p l t w)

/-! ## Records that become durable -/

/-- INTENT records that become durable change no role. -/
theorem roleD_durableIntents (e : Env) (pool : Nat) {g : List JRec} (hg : ∀ r ∈ g, r.type = .intent) (d : Dp) :
    (g.foldl (fun d r => durableRec e r d) d).roleD pool = d.roleD pool := by
  induction g generalizing d with
  | nil => rfl
  | cons r g ih =>
    have hr : durableRec e r d = d.onSticket r.pool r.seqn (fun t => { t with durable := true }) := by
      unfold durableRec
      rw [hg r (by simp)]
    rw [List.foldl_cons, hr]
    exact ih (fun r h => hg r (List.mem_cons_of_mem _ h)) _

/-- A group that becomes durable joins the journal and the tail (R205). -/
theorem roleD_durableGroup (e : Env) (pool : Nat) {g : List JRec} (hg : ∀ r ∈ g, r.type = .intent) (d : Dp) :
    (durableGroup e pool g d).roleD pool = { d.roleD pool with
      journal := keepJournal ((d.roleD pool).journal ++ g), tail := (d.roleD pool).tail ++ g } := by
  unfold durableGroup
  dsimp only
  rw [roleD_durableIntents e pool hg, roleD_setRole, if_pos (pool_roleD d pool).symm]

/-! ## A ticket opened (Table 6-2 step 2) -/

theorem role_append (e : Env) {r : JRec} {d : Dp} {x : PRole} (hx : d.role r.pool = some x) (hs : x.role = .steward) :
    (append e r d).sh.stickets = d.sh.stickets ∧ ((append e r d).roleD r.pool).nextSeq = x.nextSeq := by
  have hpool : x.pool = r.pool := by simpa [Dp.role] using List.find?_some hx
  unfold append
  simp only [hx, hs, if_pos]
  refine ⟨rfl, ?_⟩
  rw [roleD_setRole, if_pos hpool.symm]

/-- A ticket that is opened stands at its steward, and the pool's next sequence follows it. -/
theorem append_opened (e : Env) (t : STicket) (gen : Nat) {d : Dp} {x : PRole} (hx : d.role t.pool = some x)
    (hs : x.role = .steward) :
    let d₁ := d.setRole { x with nextSeq := t.seqn + 1 }
    let d₂ := append e (ticketRec .intent t gen) { d₁ with sh := { d₁.sh with stickets := d₁.sh.stickets ++ [t] } }
    t ∈ d₂.sh.stickets ∧ (d₂.roleD t.pool).nextSeq = t.seqn + 1 := by
  intro d₁ d₂
  have hpool : x.pool = t.pool := by simpa [Dp.role] using List.find?_some hx
  have hrole : d₁.role t.pool = some { x with nextSeq := t.seqn + 1 } := by
    rw [role_setRole, if_pos hpool.symm]
  obtain ⟨hst, hnext⟩ := role_append e (r := ticketRec .intent t gen)
    (d := { d₁ with sh := { d₁.sh with stickets := d₁.sh.stickets ++ [t] } }) hrole hs
  refine ⟨?_, hnext⟩
  rw [hst]
  simp

/-- With no reshape a request takes the next sequence of its pool. -/
theorem openTicket_opens (e : Env) {f : Frame} (m g k n c : Nat) {d : Dp} {x : PRole} {p : PoolRec}
    (hx : d.role f.pool = some x) (hs : x.role = .steward) (hp : d.sh.reg.pool f.pool = some p) (hr : p.reshape = none) :
    ∃ t ∈ (openTicket e f m g k n c d).sh.stickets, t.pool = f.pool ∧ t.seqn = x.nextSeq ∧ t.row = f.row ∧
      t.posFirst = f.posFirst ∧ t.posLast = f.posLast ∧ t.dataMask = m ∧ t.flags = g ∧ t.cover = c ∧ t.head = f.src.val ∧
      t.granted = false ∧ ((openTicket e f m g k n c d).roleD f.pool).nextSeq = x.nextSeq + 1 := by
  unfold openTicket
  simp only [hp, hr, Option.isSome_none, Bool.false_and, Bool.false_eq_true, if_false, roleD_of_role hx]
  exact ⟨_, (append_opened e _ _ hx hs).1, rfl, rfl, rfl, rfl, rfl, rfl, rfl, rfl, rfl, rfl, (append_opened e _ _ hx hs).2⟩

/-! ## What each frame does at its receiver -/

section
variable (e : Env) (f : Frame) (d : Dp)

theorem deliver_ticketRequest (m g k n c : Nat) :
    deliver e (.ticketRequest, f, .ticket m g k n c) d = onTicketRequest e f m g k n c d := rfl
theorem deliver_ticketGrant :
    deliver e (.ticketGrant, f, .none) d = guarded e .ticketGrant f true (onTicketGrant e f) d := rfl
theorem deliver_commitNotice (r : Option Registry) :
    deliver e (.commitNotice, f, .registry r) d = guarded e .commitNotice f true (onCommit e f r) d := rfl
theorem deliver_dropNotice : deliver e (.dropNotice, f, .none) d = guarded e .dropNotice f true (onDrop e f) d := rfl
theorem deliver_mirrorGroup (l : List JRec) :
    deliver e (.mirrorGroup, f, .records l) d = guarded e .mirrorGroup f true (onMirror e f l) d := rfl
theorem deliver_mirrorAck : deliver e (.mirrorAck, f, .none) d = onMirrorAck e f d := rfl
theorem deliver_resolve : deliver e (.resolve, f, .none) d = guarded e .resolve f true (onResolve e f) d := rfl
theorem deliver_resolveReply (items : List ResolveItem) (c : List Nat) :
    deliver e (.resolveReply, f, .resolve items c) d = onResolveReply e f items c d := rfl
theorem deliver_sherdDone : deliver e (.sherdDone, f, .none) d = onSherdDone f d := rfl

end

/-- What a frame that arrives in order does, told of the state it arrives in. -/
theorem delivered_of_inOrder {s : State} {t : FrameType} {f : Frame} (h : InOrder s t 3 f) (hp : t.paired = true)
    (hc : 1 ≤ t.cls 3) (b : FrameBody) : ∃ (u : State) (d : Dp), onFrame t 3 f b s = u.work ∧ SameButRing s.dp d ∧
      u.dp = deliver s.stayAwake.env (t, f, b) d := by
  obtain ⟨d, hreach, hsame⟩ := reaches_of_inOrder h hp b
  exact ⟨_, d, onFrame_reaches hc hreach, hsame, rfl⟩

/-- An accepted frame acts in the state it arrives in, its entry raised. -/
theorem guarded_accepts {s : State} {f : Frame} (h : Accepts s f) {d : Dp} (hd : SameButRing s.dp d) (e : Env) (t : FrameType)
    (act : Dp → Dp) : guarded e t f true act d = act (raise e f.pool f.claim 2 d) :=
  guarded_accepted act ((hd.admitted _).trans h.admits) h.valid h.sender ((hd.claimOf _).symm ▸ h.high)

section
variable (e : Env) {f : Frame} {d : Dp}

theorem onTicketRequest_opens {x : PRole} (m g k n c : Nat) (hx : d.role f.pool = some x) (hs : x.role = .steward)
    (hgo : x.stopped = false) (hw : windowHolds d f m = false) :
    onTicketRequest e f m g k n c d = openTicket e f m g k n c d := by
  simp [onTicketRequest, hx, hs, hgo, hw]

theorem onTicketRequest_holds {x : PRole} (m g k n c : Nat) (hx : d.role f.pool = some x) (hs : x.role = .steward)
    (hstop : x.stopped = true) :
    onTicketRequest e f m g k n c d = d.setRole { x with held := x.held ++ [(f, .ticket m g k n c)] } := by
  simp [onTicketRequest, hx, hs, hstop]

theorem onTicketGrant_grants {t : HTicket} (ht : d.sh.htickets.find? (fun t =>
    t.id % 2 ^ 32 = f.arg % 2 ^ 32 && t.pool = f.pool) = some t) :
    onTicketGrant e f d = grantTicket e t.id f.seqn (f.arg / 2 ^ 32) f.claim d := by
  unfold onTicketGrant
  rw [ht]

theorem onCommit_registry (g : Registry) (hs : isSteward d 0 = false) : onCommit e f (some g) d = takeRegistry e g d := by
  simp [onCommit, hs]

theorem onMirror_group (l : List JRec) (harg : f.arg = mgGroup) (hs : isStandby d f.pool = true) :
    onMirror e f l d =
      let v := d.setRole { d.roleD f.pool with
        journal := keepJournal ((d.roleD f.pool).journal ++ l), tail := (d.roleD f.pool).tail ++ l }
      send e .mirrorAck 3 { header e v f.src.val f.pool with claim := f.claim, arg := f.arg } .none v := by
  have hrole : (d.roleD f.pool).role = .standby := by
    unfold isStandby at hs
    cases hx : d.role f.pool with
    | none => simp [hx] at hs
    | some x =>
      rw [roleD_of_role hx]
      simpa [hx] using hs
  unfold onMirror
  simp [harg, hrole, mgGroup, mgAppoint]

theorem onMirrorAck_durable {x : PRole} {g : List JRec} {t : List (List JRec)} (hx : d.role f.pool = some x)
    (hs : x.role = .steward) (hc : f.claim = x.claim) (harg : f.arg ≠ mgAppoint) (hsent : x.sent = g :: t) :
    onMirrorAck e f d = durableGroup e f.pool g (d.setRole { x with sent := t }) := by
  simp [onMirrorAck, hx, hs, hc, harg, hsent]

theorem onResolve_answers (hp : f.pool ≠ drillHandle) : onResolve e f d =
    send e .resolveReply 3 { header e d f.src.val f.pool with claim := f.claim }
      (.resolve (pendingItems d f.pool) (heldCommits d f.pool)) d := if_neg hp

/-- What a steward holds of a resolution once a reply that it awaits has come (R254). -/
def replied (f : Frame) (items : List ResolveItem) (c : List Nat) (v : Resolving) : Resolving :=
  { v with
    waiting := v.waiting - 2 ^ f.src.val, items := v.items ++ items.map (fun i => (f.src.val, i))
    commits := (v.commits ++ c).eraseDups }

theorem onResolveReply_gathers {v : Resolving} (items : List ResolveItem) (c : List Nat) (hp : f.pool ≠ drillHandle)
    (hv : (d.roleD f.pool).resolving = some v) (hw : v.waiting.testBit f.src.val = true) :
    onResolveReply e f items c d =
      let u := d.setRole { d.roleD f.pool with resolving := some (replied f items c v) }
      if v.waiting = 2 ^ f.src.val then finishResolve e f.pool u else u := by
  have hlast : v.waiting - 2 ^ f.src.val = 0 ↔ v.waiting = 2 ^ f.src.val := by
    have hle := Nat.ge_two_pow_of_testBit hw
    omega
  unfold onResolveReply
  simp only [hp, if_false, hv, hw, if_true, hlast]
  rfl

end

/-! ## The frames, told of the state they arrive in -/

section
variable {s : State} {f : Frame}

/-- A ticket request at a pool's steward that grants (Table 6-2 step 2). -/
theorem ticketRequest_opens (m g k n c : Nat) {x : PRole} {p : PoolRec} (h : InOrder s .ticketRequest 3 f)
    (hx : s.dp.role f.pool = some x) (hs : x.role = .steward) (hgo : x.stopped = false)
    (hp : s.dp.sh.reg.pool f.pool = some p) (hr : p.reshape = none) :
    ∃ (u : State) (t : STicket), exec (.ticketRequest f m g k n c) s = .next u.work ∧
      t ∈ u.dp.sh.stickets ∧ t.pool = f.pool ∧ t.seqn = x.nextSeq ∧ t.row = f.row ∧ t.posFirst = f.posFirst ∧
      t.posLast = f.posLast ∧ t.dataMask = m ∧ t.flags = g ∧ t.cover = c ∧ t.head = f.src.val ∧ t.granted = false ∧
      (u.dp.roleD f.pool).nextSeq = x.nextSeq + 1 := by
  obtain ⟨u, d, hu, hd, hdp⟩ := delivered_of_inOrder h rfl (by decide) (.ticket m g k n c)
  have hx' : d.role f.pool = some x := (hd.role _).trans hx
  have hp' : d.sh.reg.pool f.pool = some p := hd.sh.symm ▸ hp
  have hw : windowHolds d f m = false := by simp [windowHolds, hp', hr]
  obtain ⟨t, ht, hfields⟩ := openTicket_opens s.stayAwake.env m g k n c hx' hs hp' hr
  rw [deliver_ticketRequest, onTicketRequest_opens _ m g k n c hx' hs hgo hw] at hdp
  rw [← hdp] at ht hfields
  exact ⟨u, t, congrArg Host.Outcome.next hu, ht, hfields⟩

/-- A grant of a ticket that this head has asked for. -/
theorem ticketGrant_grants (ha : Accepts s f) (h : InOrder s .ticketGrant 3 f) {t : HTicket}
    (ht : s.dp.sh.htickets.find? (fun t => t.id % 2 ^ 32 = f.arg % 2 ^ 32 && t.pool = f.pool) = some t)
    (hid : s.dp.hticket t.id = some t) (hs : t.stage = .requested) :
    ∃ u : State, exec (.ticketGrant f) s = .next u.work ∧ GrantedAs t.id f.seqn (f.arg / 2 ^ 32) f.claim u.dp := by
  obtain ⟨u, d, hu, hd, hdp⟩ := delivered_of_inOrder h rfl (by decide) .none
  obtain ⟨-, hsame, -⟩ := raise_sameHead s.stayAwake.env f.pool f.claim 2 d
  have htickets := hsame.trans (congrArg Shoal.htickets hd.sh)
  refine ⟨u, congrArg Host.Outcome.next hu, ?_⟩
  rw [hdp, deliver_ticketGrant, guarded_accepts ha hd, onTicketGrant_grants _ (htickets.symm ▸ ht)]
  refine grantTicket_grants _ _ _ _ ?_ hs
  unfold Dp.hticket at hid ⊢
  rw [htickets, hid]

/-- A COMMIT notice of a ticket that is of no WRITE_ATOMIC (R53). -/
theorem commitNotice_commits (ha : Accepts s f) (h : InOrder s .commitNotice 3 f)
    (hg : s.dp.map.green.any (fun g => g.pool = f.pool && g.seqn = f.seqn && hasFlag g.flags fGrouped) = false) :
    ∃ u : State, exec (.commitNotice f none) s = .next u.work ∧ (f.pool, f.seqn) ∈ u.dp.map.commits ∧
      ∀ g ∈ u.dp.map.green, g.pool = f.pool → g.seqn = f.seqn → g.committed = true := by
  obtain ⟨u, d, hu, hd, hdp⟩ := delivered_of_inOrder h rfl (by decide) (.registry none)
  obtain ⟨hmap, -, -⟩ := raise_sameHead s.stayAwake.env f.pool f.claim 2 d
  rw [deliver_commitNotice, guarded_accepts ha hd] at hdp
  obtain ⟨hheld, hdone⟩ := commitGreens_commits s.stayAwake.env (d := raise s.stayAwake.env f.pool f.claim 2 d)
    (by rw [hmap, hd.map]; exact hg)
  have hkept : GreensKept (commitGreens s.stayAwake.env f.pool f.seqn (raise s.stayAwake.env f.pool f.claim 2 d)) u.dp := by
    rw [hdp]
    exact (greensKept_commitHead ..).trans (.ite (greensKept_readAfresh ..) (.refl _))
  exact ⟨u, congrArg Host.Outcome.next hu, by rw [hkept.1]; exact hheld, hkept.outcome hdone⟩

/-- A DROP notice (R202). -/
theorem dropNotice_drops (ha : Accepts s f) (h : InOrder s .dropNotice 3 f) :
    ∃ u : State, exec (.dropNotice f) s = .next u.work ∧
      ∀ g ∈ u.dp.map.green, g.pool = f.pool → g.seqn = f.seqn → g.committed = true := by
  obtain ⟨u, d, hu, hd, hdp⟩ := delivered_of_inOrder h rfl (by decide) .none
  refine ⟨u, congrArg Host.Outcome.next hu, ?_⟩
  rw [hdp, deliver_dropNotice, guarded_accepts ha hd]
  exact (greensKept_dropHead ..).outcome (dropGreens_drops _ _ _ _)

/-- A mirrored group at the standby (R205). -/
theorem mirrorGroup_joins (l : List JRec) (ha : Accepts s f) (h : InOrder s .mirrorGroup 3 f) (harg : f.arg = mgGroup)
    (hc : f.claim = s.dp.claimOf f.pool) (hs : isStandby s.dp f.pool = true) :
    ∃ u : State, exec (.mirrorGroup f l) s = .next u.work ∧ (u.dp.roleD f.pool).tail = (s.dp.roleD f.pool).tail ++ l ∧
      (u.dp.roleD f.pool).journal = keepJournal ((s.dp.roleD f.pool).journal ++ l) := by
  obtain ⟨u, d, hu, hd, hdp⟩ := delivered_of_inOrder h rfl (by decide) (.records l)
  have hs' : isStandby d f.pool = true := by
    unfold isStandby at hs ⊢
    rw [hd.role, hs]
  rw [deliver_mirrorGroup, guarded_accepts ha hd, raise_same _ _ (hc.trans (hd.claimOf _).symm),
    onMirror_group _ l harg hs'] at hdp
  have hrole : u.dp.roleD f.pool = { s.dp.roleD f.pool with
      journal := keepJournal ((s.dp.roleD f.pool).journal ++ l), tail := (s.dp.roleD f.pool).tail ++ l } := by
    rw [hdp, roleD_send, roleD_setRole, if_pos (pool_roleD d f.pool).symm, hd.roleD]
  refine ⟨u, congrArg Host.Outcome.next hu, ?_⟩
  simp only [hrole, and_self]

/-- RESOLVE at a member (R209). -/
theorem resolve_answers (ha : Accepts s f) (h : InOrder s .resolve 3 f) :
    ∃ (u : State) (d : Dp), exec (.resolve f) s = .next u.work ∧
      u.dp = send s.stayAwake.env .resolveReply 3 { header s.stayAwake.env d f.src.val f.pool with claim := f.claim }
        (.resolve (pendingItems s.dp f.pool) (heldCommits s.dp f.pool)) d ∧ d.map = s.dp.map ∧
      d.claimOf f.pool = f.claim := by
  obtain ⟨u, d, hu, hd, hdp⟩ := delivered_of_inOrder h rfl (by decide) .none
  obtain ⟨hmap, -, hclaim⟩ := raise_sameHead s.stayAwake.env f.pool f.claim 2 d
  rw [deliver_resolve, guarded_accepts ha hd, onResolve_answers _ ha.plain] at hdp
  have hmap' := hmap.trans hd.map
  have hitems : pendingItems (raise s.stayAwake.env f.pool f.claim 2 d) f.pool = pendingItems s.dp f.pool := by
    unfold pendingItems
    rw [hmap']
  have hcommits : heldCommits (raise s.stayAwake.env f.pool f.claim 2 d) f.pool = heldCommits s.dp f.pool := by
    unfold heldCommits
    rw [hmap']
  rw [hitems, hcommits] at hdp
  exact ⟨u, _, congrArg Host.Outcome.next hu, hdp, hmap', hclaim ((hd.claimOf _).symm ▸ ha.high)⟩

/-- A standby's acknowledgement makes the oldest group durable (R205). -/
theorem mirrorAck_durable {x : PRole} {g : List JRec} {t : List (List JRec)} (h : InOrder s .mirrorAck 3 f)
    (hx : s.dp.role f.pool = some x) (hs : x.role = .steward) (hc : f.claim = x.claim) (harg : f.arg ≠ mgAppoint)
    (hsent : x.sent = g :: t) (hg : ∀ r ∈ g, r.type = .intent) :
    ∃ u : State, exec (.mirrorAck f) s = .next u.work ∧ (u.dp.roleD f.pool).sent = t ∧
      (u.dp.roleD f.pool).tail = x.tail ++ g := by
  obtain ⟨u, d, hu, hd, hdp⟩ := delivered_of_inOrder h rfl (by decide) .none
  have hpool : x.pool = f.pool := by simpa [Dp.role] using List.find?_some hx
  rw [deliver_mirrorAck, onMirrorAck_durable _ ((hd.role _).trans hx) hs hc harg hsent] at hdp
  refine ⟨u, congrArg Host.Outcome.next hu, ?_⟩
  rw [hdp, roleD_durableGroup _ _ hg, roleD_setRole, if_pos hpool.symm]
  exact ⟨rfl, rfl⟩

/-- A reply that is awaited, and is not the last, is gathered (R254). -/
theorem resolveReply_gathers (items : List ResolveItem) (c : List Nat) {v : Resolving} (h : InOrder s .resolveReply 3 f)
    (hp : f.pool ≠ drillHandle) (hv : (s.dp.roleD f.pool).resolving = some v) (hw : v.waiting.testBit f.src.val = true)
    (hmore : v.waiting ≠ 2 ^ f.src.val) :
    ∃ u : State, exec (.resolveReply f items c) s = .next u.work ∧
      (u.dp.roleD f.pool).resolving = some (replied f items c v) := by
  obtain ⟨u, d, hu, hd, hdp⟩ := delivered_of_inOrder h rfl (by decide) (.resolve items c)
  have hv' : (d.roleD f.pool).resolving = some v := by rw [hd.roleD, hv]
  rw [deliver_resolveReply, onResolveReply_gathers _ items c hp hv' hw] at hdp
  refine ⟨u, congrArg Host.Outcome.next hu, ?_⟩
  simp only [hdp, hmore, if_false]
  rw [roleD_setRole, if_pos (pool_roleD ..).symm]

/-- SHERD_DONE marks its sender done (R202). -/
theorem sherdDone_marks {t : STicket} (h : InOrder s .sherdDone 3 f) (ht : s.dp.sticket f.pool f.seqn = some t) :
    ∃ u : State, exec (.sherdDone f) s = .next u.work ∧
      u.dp.sticket f.pool f.seqn = some { t with done := t.done ||| 2 ^ f.src.val } := by
  obtain ⟨u, d, hu, hd, hdp⟩ := delivered_of_inOrder h rfl (by decide) .none
  have ht' : d.sh.stickets.find? (fun t => t.pool = f.pool && t.seqn = f.seqn) = some t := hd.sh.symm ▸ ht
  have hmine : (decide (t.pool = f.pool) && decide (t.seqn = f.seqn)) = true := by simpa using List.find?_some ht'
  refine ⟨u, congrArg Host.Outcome.next hu, ?_⟩
  rw [hdp, deliver_sherdDone]
  unfold onSherdDone Dp.onSticket Dp.sticket
  rw [find_updateWhere _ _ _ _ ?_, ht', Option.map_some, if_pos hmine]
  exact fun _ => rfl

end

/-- Settles O23: a frame that is delivered has its own effect, and one that arrives in order is delivered. -/
theorem ticketAndJournalFrames : Obligations.TicketAndJournalFrames := by
  unfold Obligations.TicketAndJournalFrames
  refine ⟨?_, ?_, ?_, ?_, ?_, ?_, ?_, ?_, ?_, ?_, ?_⟩
  · intro s f m g k n c d x h hx hs
    refine ⟨fun hgo hw => ?_, fun hstop => ?_⟩
    · refine next_onFrame (by decide) h ?_
      rw [deliver_ticketRequest, onTicketRequest_opens _ m g k n c hx hs hgo hw]
    · have hpool : x.pool = f.pool := by simpa [Dp.role] using List.find?_some hx
      refine ⟨_, next_onFrame (by decide) h (g := fun _ _ => d.setRole { x with
        held := x.held ++ [(f, .ticket m g k n c)] }) ?_, rfl, ?_⟩
      · rw [deliver_ticketRequest, onTicketRequest_holds _ m g k n c hx hs hstop]
      · rw [onDp_dp, roleD_setRole, if_pos hpool.symm]
        simp
  · intro s f d ha hv hr hc u
    refine ⟨fun h => ?_, fun h => ?_, fun g h hst => ?_, fun h => ?_, fun h hp => ?_, fun l h harg hst => ?_⟩ <;>
      refine next_onFrame (by decide) h ?_
    · rw [deliver_ticketGrant, guarded_accepted _ ha hv hr hc]
    · rw [deliver_commitNotice, guarded_accepted _ ha hv hr hc]
      rfl
    · rw [deliver_commitNotice, guarded_accepted _ ha hv hr hc, onCommit_registry _ _ hst]
    · rw [deliver_dropNotice, guarded_accepted _ ha hv hr hc]
      rfl
    · rw [deliver_resolve, guarded_accepted _ ha hv hr hc, onResolve_answers _ hp]
    · rw [deliver_mirrorGroup, guarded_accepted _ ha hv hr hc, onMirror_group _ l harg hst]
  · intro s f d hc ha hv hr h
    refine next_onFrame (by decide) h ?_
    rw [deliver_ticketGrant, guarded_lower _ ha hv hr hc]
  · intro s f d x g t h hx hs hc harg hsent
    refine next_onFrame (by decide) h ?_
    rw [deliver_mirrorAck, onMirrorAck_durable _ hx hs hc harg hsent]
  · intro s f items c d v h hp hv hw w u
    refine next_onFrame (by decide) h ?_
    rw [deliver_resolveReply, onResolveReply_gathers _ items c hp hv hw]
    rfl
  · intro s f d h
    refine next_onFrame (by decide) h ?_
    rw [deliver_sherdDone]
    rfl
  · intro s f m g k n c x p h hx hs hgo hp hr
    exact ticketRequest_opens m g k n c h hx hs hgo hp hr
  · intro s f ha
    refine ⟨fun h t ht hid hs => ?_, commitNotice_commits ha, dropNotice_drops ha,
      fun l h harg hc hs => mirrorGroup_joins l ha h harg hc hs, resolve_answers ha⟩
    obtain ⟨u, hx, z, hz⟩ := ticketGrant_grants ha h ht hid hs
    exact ⟨u, z, hx, hz⟩
  · intro s f x g t h hx hs hc harg hsent hg
    exact mirrorAck_durable h hx hs hc harg hsent hg
  · intro s f items c v h hp hv hw hmore
    obtain ⟨u, hx, hres⟩ := resolveReply_gathers items c h hp hv hw hmore
    exact ⟨u, _, hx, hres, rfl, rfl⟩
  · intro s f t h ht
    exact sherdDone_marks h ht

end Sys2Proof.Proofs

/-! # What a command's work keeps of the rows, and a rebuild that leaves one behind (R112, R130) -/

namespace Sys2Proof.Proofs

open Sys2Proof Sys2Proof.Machine Sys2Proof.Laws

/-! ## What leaves the media of a member as they are

The functions that `State.work` runs and that neither write, nor move, nor erase a row. -/

@[simp] theorem foldl_med {β : Type} (g : Dp → β → Dp) (h : ∀ d x, (g d x).med = d.med) (l : List β) (d : Dp) :
    (l.foldl g d).med = d.med := by
  induction l generalizing d with
  | nil => rfl
  | cons x t ih => simp [ih, h]

@[simp] theorem foldl_dp_med {β : Type} (g : State → β → State) (h : ∀ s x, (g s x).dp.med = s.dp.med) (l : List β)
    (s : State) : (l.foldl g s).dp.med = s.dp.med := by
  induction l generalizing s with
  | nil => rfl
  | cons x t ih => simp [ih, h]

@[simp] theorem append_med (e r d) : (append e r d).med = d.med := by
  unfold append
  (repeat' split) <;> simp

@[simp] theorem appendNew_med (e type pool arg d) : (appendNew e type pool arg d).med = d.med := by
  unfold appendNew
  simp

@[simp] theorem transmit_med (now p o d) : (transmit now p o d).med = d.med := by
  unfold transmit
  simp

@[simp] theorem sendOn_med (now p o d) : (sendOn now p o d).med = d.med := by
  unfold sendOn
  simp [apply_ite Dp.med]

@[simp] theorem send_med (e t bulk f b d) : (send e t bulk f b d).med = d.med := by
  unfold send
  dsimp only
  (repeat' split) <;> simp

@[simp] theorem tellMissed_med (e pool region d) : (tellMissed e pool region d).med = d.med := by
  unfold tellMissed
  (repeat' split) <;> simp

@[simp] theorem tellDue_med (e d) : (tellDue e d).med = d.med := by
  unfold tellDue
  simp

@[simp] theorem logE_med (e code sev src a d) : (logE e code sev src a d).med = d.med := logAt_med ..

@[simp] theorem msix_med (e p v d) : (msix e p v d).med = d.med := by
  unfold msix
  simp [apply_ite Dp.med]

@[simp] theorem causePort_med (e bit p d) : (causePort e bit p d).med = d.med := by
  unfold causePort
  simp [apply_ite Dp.med]

@[simp] theorem cause_med (e bit d) : (cause e bit d).med = d.med := by
  unfold cause
  simp

@[simp] theorem endSequence_med (c n d) : (endSequence c n d).med = d.med := by
  unfold endSequence
  dsimp only
  (repeat' split) <;> simp

@[simp] theorem flushMaint_med (c n d) : (flushMaint c n d).med = d.med := by
  unfold flushMaint
  dsimp only
  split
  · rfl
  · exact foldl_med _ (fun d m => put_med _ d) _ _

@[simp] theorem endTransfer_med (now c n out d) : (endTransfer now c n out d).med = d.med := by
  unfold endTransfer
  dsimp only
  (repeat' split) <;> simp

@[simp] theorem busStep_med (now c d) : (busStep now c d).med = d.med := by
  unfold busStep
  dsimp only
  (repeat' split) <;> simp

@[simp] theorem launch_med (e c n o rest d) : (launch e c n o rest d).med = d.med := by
  unfold launch
  refine (setDie_med ..).trans ((foldl_med _ (fun d m => put_med _ d) _ _).trans ?_)
  split <;> simp

@[simp] theorem startDie_med (e c n d) : (startDie e c n d).med = d.med := by
  unfold startDie
  dsimp only
  (repeat' split) <;> simp

@[simp] theorem trySuspend_med (e c n d) : (trySuspend e c n d).med = d.med := by
  unfold trySuspend
  (repeat' split) <;> simp

@[simp] theorem enqueueTask_med (e c n k cls task d) : (enqueueTask e c n k cls task d).med = d.med := by
  unfold enqueueTask
  simp

@[simp] theorem enqueue_med (e c n k cls d) : (enqueue e c n k cls d).med = d.med := by
  unfold enqueue
  simp

@[simp] theorem issueErases_med (e d) : (issueErases e d).med = d.med := by
  unfold issueErases
  simp [apply_ite Dp.med]

@[simp] theorem startRebuild_med (pool gen q why d) : (startRebuild pool gen q why d).med = d.med := (rfl)

@[simp] theorem fetchUnit_med (e pool gen q why again tried d) : (fetchUnit e pool gen q why again tried d).med = d.med := by
  unfold fetchUnit
  dsimp only
  (repeat' split) <;> simp

@[simp] theorem sendEach_med (e t ranks mk b d) : (sendEach e t ranks mk b d).med = d.med := by
  unfold sendEach
  simp

@[simp] theorem noteLoss_med (e pool lba n why d) : (noteLoss e pool lba n why d).med = d.med := by
  unfold noteLoss
  simp

@[simp] theorem cmdLost_med (e k i d) : (cmdLost e k i d).med = d.med := by
  unfold cmdLost
  (repeat' split) <;> simp [apply_ite Dp.med]

@[simp] theorem askDrop_med (e t d) : (askDrop e t d).med = d.med := by
  unfold askDrop
  split <;> simp

@[simp] theorem giveUpTicket_med (e t d) : (giveUpTicket e t d).med = d.med := by
  unfold giveUpTicket
  split <;> simp

@[simp] theorem forget_med (k d) : (forget k d).med = d.med := (rfl)

@[simp] theorem signalQueue_med (e p q d) : (signalQueue e p q d).med = d.med := by
  unfold signalQueue
  simp

@[simp] theorem coalesce_med (e p q froze d) : (coalesce e p q froze d).med = d.med := by
  unfold coalesce
  simp [apply_ite Dp.med]

@[simp] theorem postOne_med (e p q d) : (postOne e p q d).med = d.med := by
  unfold postOne
  dsimp only
  (repeat' split) <;> simp

@[simp] theorem postAll_med (e p q d) : (postAll e p q d).med = d.med := by
  unfold postAll
  simp

@[simp] theorem endCmd_med (e k status detail lba froze d) : (endCmd e k status detail lba froze d).med = d.med := by
  unfold endCmd
  (repeat' split) <;> simp [apply_ite Dp.med]

@[simp] theorem writeQstatus_med (e q d) : (writeQstatus e q d).med = d.med := by
  unfold writeQstatus
  simp [apply_ite Dp.med]

@[simp] theorem complete_med (e k status detail lba d) : (complete e k status detail lba d).med = d.med := by
  have froze (l : List CmdKey) (d : Dp) : (l.foldl (fun d j => endCmd e j stQueueFrozen 0 0 false d) d).med = d.med :=
    foldl_med _ (fun d _ => endCmd_med ..) l d
  unfold complete
  split
  · rfl
  · dsimp only
    split
    · rfl
    · split
      · exact (count_med ..).trans ((logE_med ..).trans (by simp [froze]))
      · simp

@[simp] theorem failCmd_med (e k status idx d) : (failCmd e k status idx d).med = d.med := by
  unfold failCmd
  split <;> simp

@[simp] theorem wantUnit_med (e p l t w d) : (wantUnit e p l t w d).med = d.med := by
  unfold wantUnit
  dsimp only
  (repeat' split) <;> simp

@[simp] theorem baseLost_med (e id u x d) : (baseLost e id u x d).med = d.med := by
  unfold baseLost
  dsimp only
  (repeat' split) <;> simp

@[simp] theorem loseUnit_med (e f d) : (loseUnit e f d).med = d.med := by
  unfold loseUnit
  (repeat' split) <;> simp [apply_ite Dp.med]

@[simp] theorem ownTicket_med (pool gen row first last mask flags unit parts base moves d) :
    (ownTicket pool gen row first last mask flags unit parts base moves d).med = d.med
  := (rfl)

@[simp] theorem repairUnit_med (e pool gen q parts base d) :
    (repairUnit e pool gen q parts base d).med = d.med := (count_med ..).trans ((logE_med ..).trans (ownTicket_med ..))

@[simp] theorem giveUnit_med (e f b seqn d) : (giveUnit e f b seqn d).med = d.med := by
  unfold giveUnit
  split <;> simp

@[simp] theorem checkFail_med (e point member d) : (checkFail e point member d).med = d.med := by
  unfold checkFail
  simp [apply_ite Dp.med]

@[simp] theorem deliverUnit_med (e f b seqn rest) : (deliverUnit e f b seqn rest).med = rest.med := by
  unfold deliverUnit
  simp [apply_ite Dp.med]

@[simp] theorem startStripe_med (row cw why cls task d) : (startStripe row cw why cls task d).med = d.med := by
  unfold startStripe
  split <;> simp

@[simp] theorem makeCurrent_med (g d) : (makeCurrent g d).med = d.med := by
  unfold makeCurrent
  simp [apply_ite Dp.med]

@[simp] theorem wantGreens_med (d) : (wantGreens d).med = d.med := foldl_med _ (fun d _ => wantSeg_med d _ _) _ d

@[simp] theorem markBlk_med (e pool lb row seqn d) : (markBlk e pool lb row seqn d).med = d.med := by
  unfold markBlk
  split <;> simp

@[simp] theorem markLost_med (e g d) : (markLost e g d).med = d.med := by
  unfold markLost
  simp

@[simp] theorem loseSherd_med (e pool lb seqn d) : (loseSherd e pool lb seqn d).med = d.med := by
  unfold loseSherd
  (repeat' split) <;> simp [apply_ite Dp.med]

@[simp] theorem refuseSherd_med (e g point d) : (refuseSherd e g point d).med = d.med := by
  unfold refuseSherd
  simp

@[simp] theorem failC4_med (e g d) : (failC4 e g d).med = d.med := by
  unfold failC4
  simp [apply_ite Dp.med]

@[simp] theorem reportSherd_med (e g d) : (reportSherd e g d).med = d.med := by
  unfold reportSherd
  have deltas (l : List Green) (d : Dp) : (l.foldl (fun d x =>
      addDelta .pending x.pool x.localBlk x.seqn (if x.unmaps then none else x.loc) d) d).med = d.med :=
    foldl_med _ (fun d _ => addDelta_med ..) l d
  dsimp only
  repeat' split
  all_goals simp [deltas]

@[simp] theorem respond_med (e m status detail payload d) : (respond e m status detail payload d).med = d.med := by
  unfold respond
  (repeat' split) <;> simp [apply_ite Dp.med]

@[simp] theorem answerOrder_med (e o status detail payload d) : (answerOrder e o status detail payload d).med = d.med := by
  unfold answerOrder
  dsimp only
  (repeat' split) <;> simp

@[simp] theorem finishRebase_med (e d) : (finishRebase e d).med = d.med := by
  unfold finishRebase
  (repeat' split) <;> simp

@[simp] theorem rebaseAck_med (e c r d) : (rebaseAck e c r d).med = d.med := by
  unfold rebaseAck
  (repeat' split) <;> simp

@[simp] theorem rebasePropose_med (e c d) : (rebasePropose e c d).med = d.med := by
  unfold rebasePropose
  simp [apply_ite Dp.med]

@[simp] theorem proposeRebase_med (e o d) : (proposeRebase e o d).med = d.med := by
  unfold proposeRebase
  (repeat' split) <;> simp

@[simp] theorem answerTo_med (e o status detail payload d) : (answerTo e o status detail payload d).med = d.med := by
  unfold answerTo
  (repeat' split) <;> simp

@[simp] theorem draw_med (d) : (draw d).2.med = d.med := (rfl)

@[simp] theorem changeRegistry_med (e o after detail payload d) :
    (changeRegistry e o after detail payload d).med = d.med := by
  unfold changeRegistry
  simp

@[simp] theorem sendAppoint_med (e pool k d) : (sendAppoint e pool k d).med = d.med := by
  unfold sendAppoint
  simp

@[simp] theorem dropTicket_med (e reason t d) : (dropTicket e reason t d).med = d.med := by
  unfold dropTicket
  simp

@[simp] theorem dropUngranted_med (e pool d) : (dropUngranted e pool d).med = d.med := by
  unfold dropUngranted
  simp

@[simp] theorem startHandover_med (e pool target o d) : (startHandover e pool target o d).med = d.med := by
  unfold startHandover
  simp [apply_ite Dp.med]

@[simp] theorem moveSteward_med (e o d) : (moveSteward e o d).med = d.med := by
  unfold moveSteward
  simp [apply_ite Dp.med]

@[simp] theorem fenceRole_med (e pool c d) : (fenceRole e pool c d).med = d.med := by
  unfold fenceRole
  (repeat' split) <;> simp

@[simp] theorem raise_med (e pool c src d) : (raise e pool c src d).med = d.med := by
  unfold raise
  simp [apply_ite Dp.med]

@[simp] theorem startDrill_med (e o d) : (startDrill e o d).med = d.med := by
  unfold startDrill
  dsimp only
  (repeat' split) <;> simp

@[simp] theorem rebaseAtSteward_med (e o d) : (rebaseAtSteward e o d).med = d.med := by
  unfold rebaseAtSteward
  dsimp only
  (repeat' split) <;> simp

@[simp] theorem carryOut_med (e o d) : (carryOut e o d).med = d.med := by
  unfold carryOut
  simp [apply_ite Dp.med]

@[simp] theorem giveOrder_med (e o d) : (giveOrder e o d).med = d.med := by
  unfold giveOrder
  (repeat' split) <;> simp

@[simp] theorem applyVerdict_med (e o v d) : (applyVerdict e o v d).med = d.med := by
  unfold applyVerdict
  (repeat' split) <;> simp [apply_ite Dp.med]

@[simp] theorem takeOrder_med (e o d) : (takeOrder e o d).med = d.med := by
  unfold takeOrder
  (repeat' split) <;> simp

@[simp] theorem deliverOrder_med (e o d) : (deliverOrder e o d).med = d.med := by
  unfold deliverOrder
  (repeat' split) <;> simp

@[simp] theorem resendOrders_med (e d) : (resendOrders e d).med = d.med := by
  unfold resendOrders
  simp [apply_ite Dp.med]

@[simp] theorem finishPolls_med (e d) : (finishPolls e d).med = d.med := by
  unfold finishPolls
  simp

@[simp] theorem drainPool_med (e h d) : (drainPool e h d).med = d.med := by
  unfold drainPool
  (repeat' split) <;> simp [apply_ite Dp.med]

@[simp] theorem drainPools_med (e d) : (drainPools e d).med = d.med := by
  unfold drainPools
  simp

@[simp] theorem routeJoin_med (e j d) : (routeJoin e j d).med = d.med := by
  have held (l : List PoolRec) (d : Dp) : (l.foldl (fun d p => holdJoin (p.handle, j.2) d) d).med = d.med :=
    foldl_med _ (fun d _ => holdJoin_med _ d) l d
  unfold routeJoin
  dsimp only
  repeat' split
  all_goals simp [held]

@[simp] theorem declareAbsent_med (e pool r d) : (declareAbsent e pool r d).med = d.med := by
  unfold declareAbsent
  simp [apply_ite Dp.med]

@[simp] theorem admitJoin_med (e h r d) : (admitJoin e h r d).med = d.med := by
  unfold admitJoin
  simp [apply_ite Dp.med]

@[simp] theorem poolJoin_med (e j d) : (poolJoin e j d).med = d.med := by
  unfold poolJoin
  (repeat' split) <;> simp

@[simp] theorem joinStep_med (e d) : (joinStep e d).med = d.med := by
  unfold joinStep
  simp [apply_ite Dp.med]

@[simp] theorem sendJoin_med (e d) : (sendJoin e d).med = d.med := by
  unfold sendJoin
  (repeat' split) <;> simp [apply_ite Dp.med]

@[simp] theorem takeoverRegistry_med (e d) : (takeoverRegistry e d).med = d.med := (rfl)

@[simp] theorem appoint_med (e pool d) : (appoint e pool d).med = d.med := by
  unfold appoint
  (repeat' split) <;> simp

@[simp] theorem commitTicket_med (e p close t d) : (commitTicket e p close t d).med = d.med := by
  unfold commitTicket
  simp

@[simp] theorem noteExhausted_med (e d) : (noteExhausted e d).med = d.med := by
  unfold noteExhausted
  simp

@[simp] theorem takeFigures_med (e rank dram prov low d) : (takeFigures e rank dram prov low d).med = d.med := by
  unfold takeFigures
  dsimp only
  (repeat' split) <;> simp

@[simp] theorem tellFigures_med (e d) : (tellFigures e d).med = d.med := by
  unfold tellFigures
  (repeat' split) <;> simp

@[simp] theorem sendOrder_med (e o d) : (sendOrder e o d).med = d.med := by
  unfold sendOrder
  simp

@[simp] theorem askSpare_med (e d) : (askSpare e d).med = d.med := by
  unfold askSpare
  (repeat' split) <;> simp

@[simp] theorem finishReshapes_med (e d) : (finishReshapes e d).med = d.med := by
  unfold finishReshapes
  simp [apply_ite Dp.med]

@[simp] theorem regionDone_med (e pool rank region seen d) : (regionDone e pool rank region seen d).med = d.med := by
  unfold regionDone
  simp [apply_ite Dp.med]

@[simp] theorem reportRegion_med (e p g d) : (reportRegion e p g d).med = d.med := by
  unfold reportRegion
  dsimp only
  (repeat' split) <;> simp

@[simp] theorem reportRegions_med (e d) : (reportRegions e d).med = d.med := by
  unfold reportRegions
  simp

@[simp] theorem regNotice_med (e r d) : (regNotice e r d).med = d.med := by
  unfold regNotice
  (repeat' split) <;> simp

@[simp] theorem freeEntries_med (p d) : (freeEntries p d).med = d.med := foldl_med _ (fun d x => by simp) _ d

@[simp] theorem takeRebases_med (e old new d) : (takeRebases e old new d).med = d.med := by
  unfold takeRebases
  refine foldl_med _ (fun d p => ?_) _ d
  dsimp only
  repeat' split
  all_goals simp

@[simp] theorem placeRecords_med (e old new pool d) : (placeRecords e old new pool d).med = d.med := by
  unfold placeRecords
  split <;> simp

@[simp] theorem takeRegistry_med (e r d) : (takeRegistry e r d).med = d.med := by
  unfold takeRegistry
  simp [apply_ite Dp.med]

@[simp] theorem dropLoss_med (e pool b n d) : (dropLoss e pool b n d).med = d.med := by
  unfold dropLoss
  simp [apply_ite Dp.med]

@[simp] theorem clearLost_med (e p t d) : (clearLost e p t d).med = d.med := by
  unfold clearLost
  split
  · rfl
  · refine foldl_med _ (fun d u => foldl_med _ (fun d r => ?_) _ _) _ _
    split <;> simp

@[simp] theorem tellView_med (e pool v d) : (tellView e pool v d).med = d.med := by
  unfold tellView
  simp

@[simp] theorem sdTick_med (e d) : (sdTick e d).med = d.med := by
  unfold sdTick
  simp [apply_ite Dp.med]

@[simp] theorem spareFilled_med (e pool y d) : (spareFilled e pool y d).med = d.med := by
  unfold spareFilled
  simp

@[simp] theorem freeOld_med (e pool t d) : (freeOld e pool t d).med = d.med := by
  unfold freeOld
  (repeat' split) <;> simp

@[simp] theorem takeView_med (e pool v d) : (takeView e pool v d).med = d.med := by
  unfold takeView
  split
  · dsimp only
    repeat' split
    all_goals simp -implicitDefEqProofs
  · rfl
  · exact (count_med ..).trans (logE_med ..)
  · rfl
  · exact freeOld_med ..

@[simp] theorem durableRec_med (e r d) : (durableRec e r d).med = d.med := by
  unfold durableRec
  (repeat' split) <;> simp

@[simp] theorem durableGroup_med (e pool g d) : (durableGroup e pool g d).med = d.med := by
  unfold durableGroup
  simp

@[simp] theorem closeGroup_med (e pool d) : (closeGroup e pool d).med = d.med := by
  unfold closeGroup
  (repeat' split) <;> simp

@[simp] theorem finishCatchUp_med (e p d) : (finishCatchUp e p d).med = d.med := by
  unfold finishCatchUp
  simp

@[simp] theorem dropWhole_med (e reason t d) : (dropWhole e reason t d).med = d.med := by
  unfold dropWhole
  simp

@[simp] theorem breakDeadlock_med (e p d) : (breakDeadlock e p d).med = d.med := by
  unfold breakDeadlock
  (repeat' split) <;> simp

@[simp] theorem decide1_med (e p d) : (decide1 e p d).med = d.med := by
  unfold decide1
  (repeat' split) <;> simp [apply_ite Dp.med]

@[simp] theorem openTicket_med (e f dataMask flags key size cover d) :
    (openTicket e f dataMask flags key size cover d).med = d.med := by
  unfold openTicket
  (repeat' split) <;> simp [apply_ite Dp.med]

@[simp] theorem openHeld_med (e pool d) : (openHeld e pool d).med = d.med := by
  unfold openHeld
  dsimp only
  split
  · rfl
  · refine (foldl_med _ (fun d h => ?_) _ _).trans (setRole_med ..)
    split <;> simp

@[simp] theorem grantReady_med (e p d) : (grantReady e p d).med = d.med := by
  unfold grantReady
  simp

@[simp] theorem pumpOnce_med (e pool d) : (pumpOnce e pool d).med = d.med := by
  unfold pumpOnce
  (repeat' split) <;> simp [apply_ite Dp.med]

@[simp] theorem pump_med (e pool d) : (pump e pool d).med = d.med := by
  unfold pump
  simp [apply_ite Dp.med]

@[simp] theorem pumpAll_med (e d) : (pumpAll e d).med = d.med := by
  unfold pumpAll
  simp

@[simp] theorem endHandover_med (e pool status payload d) : (endHandover e pool status payload d).med = d.med := by
  unfold endHandover
  dsimp only
  (repeat' split) <;> simp

@[simp] theorem handoverStep_med (e pool d) : (handoverStep e pool d).med = d.med := by
  unfold handoverStep
  dsimp only
  (repeat' split) <;> simp

@[simp] theorem settlePort_med (p d) : (settlePort p d).med = d.med := by
  unfold settlePort
  simp [apply_ite Dp.med]

@[simp] theorem settleQueue_med (e x d) : (settleQueue e x d).med = d.med := by
  unfold settleQueue
  simp [apply_ite Dp.med]

@[simp] theorem settleEngine_med (e d) : (settleEngine e d).med = d.med := by
  unfold settleEngine
  simp

@[simp] theorem undelay_med (e pool d) : (undelay e pool d).med = d.med := by
  unfold undelay
  simp [apply_ite Dp.med]

@[simp] theorem delayWrite_med (e c d) : (delayWrite e c d).med = d.med := by
  unfold delayWrite
  simp [apply_ite Dp.med]

@[simp] theorem dropSilent_med (e d) : (dropSilent e d).med = d.med := by
  unfold dropSilent
  simp

@[simp] theorem askUnit_med (e j u d) : (askUnit e j u d).med = d.med := by
  unfold askUnit
  simp [apply_ite Dp.med]

@[simp] theorem unresolved_med (e pool l row d) : (unresolved e pool l row d).med = d.med := by
  unfold unresolved
  split <;> simp

@[simp] theorem checked_med (e l j k i d) : (checked e l j k i d).med = d.med := by
  unfold checked
  (repeat' split) <;> simp

@[simp] theorem patrolMirror_med (e l j d) : (patrolMirror e l j d).med = d.med := by
  unfold patrolMirror
  (repeat' split) <;> simp

@[simp] theorem patrolPq_med (e l j d) : (patrolPq e l j d).med = d.med := by
  unfold patrolPq
  (repeat' split) <;> simp

@[simp] theorem patrolled_med (e p l row d) : (patrolled e p l row d).med = d.med := by
  unfold patrolled
  simp [apply_ite Dp.med]

@[simp] theorem patrolDone_med (e p l j d) : (patrolDone e p l j d).med = d.med := by
  unfold patrolDone
  simp [apply_ite Dp.med]

@[simp] theorem runJob_med (e j d) : (runJob e j d).med = d.med := by
  unfold runJob
  dsimp only
  (repeat' split) <;> simp

@[simp] theorem runJobs_med (e d) : (runJobs e d).med = d.med := by
  unfold runJobs
  simp

@[simp] theorem serveFetch_med (e f d) : (serveFetch e f d).med = d.med := by
  unfold serveFetch
  (repeat' split) <;> simp [apply_ite Dp.med]

@[simp] theorem serveFetches_med (e d) : (serveFetches e d).med = d.med := by
  unfold serveFetches
  simp

@[simp] theorem beginAfresh_med (k d) : (beginAfresh k d).med = d.med := by
  unfold beginAfresh
  simp [apply_ite Dp.med]

@[simp] theorem readCmd_med (e k d) : (readCmd e k d).med = d.med := by
  have asks (c : Cmd) (p : PoolRec) (d : Dp) (i : Nat) : (if underWay d (.cmd k i) || !readFree d c i then d
      else match (p.layOf (c.lba + i)).place (c.lba + i) with
        | none => d
        | some q => fetchUnit e c.pool (p.layOf (c.lba + i)).gen q (.cmd k i) false [] d).med = d.med := by
    repeat' split
    all_goals simp
  unfold readCmd
  dsimp only
  split
  · exact beginAfresh_med ..
  split
  · split
    · exact beginAfresh_med ..
    split
    · refine (foldl_med _ (fun d i => ?_) _ _).trans ?_
      · repeat' split
        all_goals simp
      · split
        · exact (foldl_med _ (asks _ _) _ _).trans (beginAfresh_med ..)
        · exact (onCmd_med ..).trans ((foldl_med _ (asks _ _) _ _).trans (beginAfresh_med ..))
    · exact (foldl_med _ (asks _ _) _ _).trans (beginAfresh_med ..)
  · exact beginAfresh_med ..

@[simp] theorem stallBme_med (p d) : (stallBme p d).med = d.med := by
  unfold stallBme
  simp

@[simp] theorem translate_med (e k write pages d) : (translate e k write pages d).1.med = d.med := by
  unfold Machine.translate
  dsimp only
  repeat' split
  · rfl
  · simp
  · exact foldl_med _ (fun d g => by simp) _ d

@[simp] theorem writePages_med (e c d) : (writePages e c d).1.med = d.med := by
  unfold writePages
  split <;> simp

@[simp] theorem makeTickets_med (pool gen row flags key size parts d) :
    (makeTickets pool gen row flags key size parts d).med =
      d.med := foldl_med _ (fun _ _ => (onHticket_med ..).trans (ownTicket_med ..)) _ d

@[simp] theorem gatherParts_med (e c parts d) : (gatherParts e c parts d).med = d.med := by
  unfold gatherParts
  simp [apply_ite Dp.med]

@[simp] theorem gatherCmd_med (e k d) : (gatherCmd e k d).med = d.med := by
  unfold gatherCmd
  (repeat' split) <;> simp [apply_ite Dp.med]

@[simp] theorem sendReads_med (e k isMeta x x') : (sendReads e k isMeta x x').med = x'.med := by
  induction x generalizing x' with
  | zero => rfl
  | succ f ih =>
    unfold sendReads
    dsimp only
    repeat' split
    all_goals simp [ih]

@[simp] theorem askData_med (e k d) : (askData e k d).med = d.med := by
  unfold askData
  (repeat' split) <;> simp

@[simp] theorem refetch_med (k i d) : (refetch k i d).med = d.med := (rfl)

@[simp] theorem failC2_med (e q d) : (failC2 e q d).med = d.med := by
  unfold failC2
  (repeat' split) <;> simp

@[simp] theorem sendSherd_med (e l t rank u d) : (sendSherd e l t rank u d).med = d.med := by
  unfold sendSherd
  simp

@[simp] theorem sendTicket_med (e id d) : (sendTicket e id d).med = d.med := by
  unfold sendTicket
  (repeat' split) <;> simp [apply_ite Dp.med]

@[simp] theorem sendTickets_med (e d) : (sendTickets e d).med = d.med := by
  unfold sendTickets
  simp

@[simp] theorem waitAgain_med (id d) : (waitAgain id d).med = d.med := (rfl)

@[simp] theorem askAgain_med (d) : (askAgain d).med = d.med := by
  unfold askAgain
  simp

@[simp] theorem requestTicket_med (e t d) : (requestTicket e t d).med = d.med := by
  unfold requestTicket
  repeat' split
  · rfl
  · rfl
  · rfl
  · rfl
  · refine (send_med ..).trans (foldl_med _ (fun d x => onCmd_med ..) _ _)

@[simp] theorem requestTickets_med (e d) : (requestTickets e d).med = d.med := by
  unfold requestTickets
  exact (foldl_med _ (fun d t => requestTicket_med e t d) _ _).trans
    ((foldl_med _ (fun d t => dropHticket_med d _) _ _).trans (askAgain_med d))

@[simp] theorem closeGather_med (g d) : (closeGather g d).med = d.med := by
  unfold closeGather
  simp

@[simp] theorem gatherNow_med (e d) : (gatherNow e d).med = d.med := by
  unfold gatherNow
  simp [apply_ite Dp.med]

@[simp] theorem sendWrites_med (e k isMeta bytes stop x x') : (sendWrites e k isMeta bytes stop x x').med = x'.med := by
  induction x generalizing x' with
  | zero => rfl
  | succ f ih =>
    unfold sendWrites
    dsimp only
    repeat' split
    all_goals simp [ih]

@[simp] theorem transfer_med (e k n d) : (transfer e k n d).1.med = d.med := by
  unfold transfer
  (repeat' split) <;> simp [apply_ite Dp.med]

@[simp] theorem finishCmd_med (e sd k d) (h : ∀ c d, (sd c d).med = d.med) : (finishCmd e sd k d).med = d.med := by
  unfold finishCmd
  (repeat' split) <;> simp_all [apply_ite Dp.med]

@[simp] theorem startSd_med (e c d) : (startSd e c d).med = d.med := by
  unfold startSd
  simp [apply_ite Dp.med]

@[simp] theorem drillStep_med (e d) : (drillStep e d).med = d.med := by
  unfold drillStep
  dsimp only
  (repeat' split) <;> simp

@[simp] theorem noteActive_med (e d) : (noteActive e d).med = d.med := by
  unfold noteActive
  simp [apply_ite Dp.med]

@[simp] theorem tellRoom_med (e d) : (tellRoom e d).med = d.med := by
  unfold tellRoom
  simp [apply_ite Dp.med]

@[simp] theorem noteStates_med (e d) : (noteStates e d).med = d.med := by
  unfold noteStates
  simp [apply_ite Dp.med]

@[simp] theorem setBank_med (s n b) : (State.setBank s n b).dp.med = s.dp.med := by
  unfold State.setBank
  split <;> simp

@[simp] theorem out_med (s o) : (State.out s o).dp.med = s.dp.med := (rfl)

@[simp] theorem bankStart_med (n s) : (bankStart n s).dp.med = s.dp.med := by
  unfold bankStart
  dsimp only
  (repeat' split) <;> simp

@[simp] theorem bankAsk_med (n prio erase what s) : (bankAsk n prio erase what s).dp.med = s.dp.med := by
  unfold bankAsk
  simp

@[simp] theorem programAnchor_med (ebb k s) : (programAnchor ebb k s).dp.med = s.dp.med := by
  unfold programAnchor
  simp

@[simp] theorem anchorReady_med (s) : (anchorReady s).dp.med = s.dp.med := by
  unfold anchorReady
  (repeat' split) <;> simp

@[simp] theorem bindSetpoint_med (id v s) : (bindSetpoint id v s).dp.med = s.dp.med := by
  unfold bindSetpoint
  (repeat' split) <;> simp

@[simp] theorem setParam_med (id v s) : (setParam id v s).dp.med = s.dp.med := by
  unfold setParam
  dsimp only
  (repeat' split) <;> simp

@[simp] theorem writeRecord_med (r s) : (writeRecord r s).dp.med = s.dp.med := by
  unfold writeRecord
  dsimp only
  (repeat' split) <;> simp

@[simp] theorem wait_med (d m) : (Dp.wait d m).med = d.med := (rfl)

@[simp] theorem answerDue_med (s) : (answerDue s).dp.med = s.dp.med := by
  unfold answerDue
  refine foldl_dp_med _ (fun s x => ?_) _ _
  dsimp only [State.onDp]
  split <;> simp

@[simp] theorem recordThen_med (r both dest payload s) : (recordThen r both dest payload s).dp.med = s.dp.med := by
  unfold recordThen
  split <;> simp

@[simp] theorem applyParams_med (r m s) : (applyParams r m s).dp.med = s.dp.med := by
  unfold applyParams
  dsimp only
  (repeat' split) <;> simp

@[simp] theorem drbg_med (n s) : (drbg n s).2.dp.med = s.dp.med := (rfl)

@[simp] theorem log_med (s code sev src a) : (State.log s code sev src a).dp.med = s.dp.med := logE_med ..

@[simp] theorem extendMeas_med (n event s) : (extendMeas n event s).dp.med = s.dp.med := (rfl)

@[simp] theorem clearSlot_med (n m s) : (clearSlot n m s).dp.med = s.dp.med := by
  unfold clearSlot
  dsimp only
  split
  · exact (recordThen_med ..).trans (log_med ..)
  · exact (writeRecord_med ..).trans (log_med ..)
  · exact (respond_med ..).trans (log_med ..)
  · exact log_med ..

@[simp] theorem finishClears_med (s) : (finishClears s).dp.med = s.dp.med := by
  unfold finishClears
  simp

@[simp] theorem noteIdle_med (s) : (noteIdle s).dp.med = s.dp.med := (rfl)

@[simp] theorem holdupStep_med (e p d) : (holdupStep e p d).med = d.med := by
  unfold holdupStep
  simp [apply_ite Dp.med]

/-! ## A row that leaves its place goes on leaving

While no unit is on the list of those to be rebuilt, no step of `State.work` fences one, and so none takes the first of two
rows of one id away from before the other. -/

/-- A row is under relocation or under erase. -/
def leavesPlace (r : Row) : Bool := r.moving.isSome || r.erasing.isSome

/-- Where no unit waits for its rebuild, the row of an id is under relocation or erase; rows of eight blocks or more, which
may have been opened since, are left out. -/
structure Leaving (n : Nat) (m : Media) : Prop where
  leaves : m.rebuilding = [] → ∀ y, m.rows.find? (fun r => r.id = n) = some y → y.width < 8 → leavesPlace y = true

/-- A row keeps its id and its width, and goes on leaving its place. -/
def Stays (r r' : Row) : Prop := r'.id = r.id ∧ r'.width = r.width ∧ (leavesPlace r = true → leavesPlace r' = true)

theorem Stays.refl (r : Row) : Stays r r := ⟨rfl, rfl, id⟩

namespace Leaving

variable {n : Nat} {m m' : Media}

theorem of_rebuilding (hb : m.rebuilding ≠ []) : Leaving n m := ⟨fun h => absurd h hb⟩

theorem of_eq (h : Leaving n m) (hr : m'.rows = m.rows) (hb : m'.rebuilding = m.rebuilding) : Leaving n m' := by
  constructor
  rw [hr, hb]
  exact h.leaves

theorem of_map (h : Leaving n m) {f : Row → Row} (hf : ∀ r, Stays r (f r)) (hr : m'.rows = m.rows.map f)
    (hb : m'.rebuilding = m.rebuilding) : Leaving n m' := by
  refine ⟨fun hnone y hy hw => ?_⟩
  have same : ((fun r : Row => decide (r.id = n)) ∘ f) = fun r => decide (r.id = n) := by
    funext r
    simp [(hf r).1]
  rw [hr, List.find?_map, same] at hy
  obtain ⟨x, hx, rfl⟩ := Option.map_eq_some_iff.mp hy
  obtain ⟨-, hwidth, hleaves⟩ := hf x
  exact hleaves (h.leaves (hb ▸ hnone) x hx (hwidth ▸ hw))

theorem of_append (h : Leaving n m) {r : Row} (hw : 8 ≤ r.width) (hr : m'.rows = m.rows ++ [r])
    (hb : m'.rebuilding = m.rebuilding) : Leaving n m' := by
  refine ⟨fun hnone y hy hy8 => ?_⟩
  rw [hr, List.find?_append, Option.or_eq_some_iff] at hy
  obtain hy | ⟨-, hy⟩ := hy
  · exact h.leaves (hb ▸ hnone) y hy hy8
  · obtain rfl : y = r := by simpa using List.mem_of_find?_eq_some hy
    omega

/-- Every row of an id goes at once. -/
theorem of_remove (h : Leaving n m) {k : Nat} (hr : m'.rows = m.rows.filter (fun x => x.id != k))
    (hb : m'.rebuilding = m.rebuilding) : Leaving n m' := by
  refine ⟨fun hnone y hy => ?_⟩
  rw [hr, List.find?_filter] at hy
  by_cases hk : n = k
  · have := List.find?_some hy
    simp_all
  · have same : (fun a : Row => decide ((a.id != k) = true ∧ decide (a.id = n) = true)) = fun a => decide (a.id = n) := by
      funext a
      by_cases ha : a.id = n <;> simp [ha, hk]
    rw [same] at hy
    exact h.leaves (hb ▸ hnone) y hy

theorem onRow {d : Dp} (h : Leaving n d.med) (id : Nat) {f : Row → Row} (hf : ∀ r, Stays r (f r)) :
    Leaving n (d.onRow id f).med :=
  h.of_map (f := fun r => if r.id = id then f r else r)
    (fun r => by
      split
      · exact hf r
      · exact .refl r)
    (by simp [Dp.onRow, updateWhere]) rfl

theorem ite {p : Prop} [Decidable p] {a b : Dp} (ha : Leaving n a.med) (hb : Leaving n b.med) :
    Leaving n (if p then a else b).med := by
  split
  · exact ha
  · exact hb

theorem foldl {β : Type} {g : Dp → β → Dp} (hg : ∀ d x, Leaving n d.med → Leaving n (g d x).med) (l : List β) {d : Dp}
    (h : Leaving n d.med) : Leaving n (l.foldl g d).med := by
  induction l generalizing d with
  | nil => exact h
  | cons x t ih => exact ih (hg d x h)

end Leaving

/-! ## Writing to rows -/

section Writes

variable {n : Nat} {d : Dp} (h : Leaving n d.med)
include h

theorem leaving_openRow {e : Env} {u : RowUse} {worn : Bool} {z : Dp × Nat} (hz : openRow e u worn d = some z) :
    Leaving n z.1.med := by
  unfold openRow at hz
  dsimp only at hz
  split at hz
  · cases hz
  · split at hz
    · cases hz
      exact h.of_append (r := freshRow ..) (Nat.le_of_not_lt ‹_›) rfl rfl
    · cases hz

theorem leaving_rowFor {e : Env} {u : RowUse} {worn : Bool} {z : Dp × Nat} (hz : rowFor e u worn d = some z) :
    Leaving n z.1.med := by
  unfold rowFor at hz
  split at hz
  · cases hz
    exact h
  · split at hz
    · cases hz
    · exact leaving_openRow h hz

theorem leaving_growArea (e : Env) (u : RowUse) (size k : Nat) : Leaving n (growArea e u size k d).med := by
  induction k generalizing d with
  | zero => exact h
  | succ k ih =>
    unfold growArea
    repeat' split
    · exact h
    · exact h
    · exact ih (leaving_openRow h ‹_›)

theorem leaving_growEach (e : Env) (size k : RowUse → Nat) (l : List RowUse) :
    Leaving n (l.foldl (fun d u => growArea e u (size u) (k u) d) d).med :=
  Leaving.foldl (fun _ _ h => leaving_growArea h ..) l h

theorem leaving_growAreas (e : Env) : Leaving n (growAreas e d).med :=
  leaving_growEach h e (areaSize e) (fun u => divUp (areaSize e u) (2 ^ 26)) _

theorem leaving_takeNonce : Leaving n (takeNonce d).2.med := h.of_eq rfl rfl

theorem leaving_afterCw (e : Env) (id : Nat) (a : As) : Leaving n (afterCw e id a d).med :=
  h.onRow id (fun r => by
    split
    · exact ⟨rfl, rfl, fun hl => hl⟩
    · exact .refl r)

theorem leaving_putCw (e : Env) (id : Nat) (a : As) (x : Codeword) : Leaving n (putCw e id a x d).med :=
  leaving_afterCw (h.onRow id (by exact fun _ => ⟨rfl, rfl, fun hl => hl⟩)) e id a

theorem leaving_stageCws (e : Env) (u : RowUse) (a : As) (l : List Codeword) : Leaving n (stageCws e u a l d).1.med := by
  induction l generalizing d with
  | nil => exact h
  | cons x t ih =>
    unfold stageCws
    split
    · exact ih h
    · exact ih (leaving_putCw (leaving_rowFor h ‹_›) ..)

theorem leaving_putFill (e : Env) (id : Nat) (a : As) (k : Nat) : Leaving n (putFill e id a k d).med := by
  induction k generalizing d with
  | zero => exact h
  | succ k ih =>
    unfold putFill
    exact ih (by simpa using leaving_putCw (leaving_takeNonce h) ..)

theorem leaving_fillPage (e : Env) (id : Nat) (a : As) : Leaving n (fillPage e id a d).med := by
  unfold fillPage
  split
  · exact h
  · exact leaving_putFill h ..

theorem leaving_nonce (k : Nat) : Leaving n { d.med with nonce := k } := h.of_eq rfl rfl

theorem leaving_stageItems (e : Env) (u : RowUse) (l : List StrandItem) : Leaving n (stageItems e u l d).med := by
  unfold stageItems
  dsimp only
  split
  · exact h
  · have staged := leaving_stageCws (n := n)
      (d := count 10 0 l.length { d with med := { d.med with nonce := d.med.nonce + l.length } }) (leaving_nonce h _) e u
      ⟨2, .other⟩ (l.mapIdx (fun i x => strandCw e d (d.med.nonce + i) x))
    split
    · split
      · exact staged
      · exact leaving_fillPage (by exact staged) ..
    · exact staged

theorem leaving_stageDeltas (e : Env) (all : Bool) : Leaving n (stageDeltas e all d).med := by
  unfold stageDeltas
  dsimp only
  split
  · exact h
  · split
    · exact leaving_stageItems h ..
    · exact h

end Writes

/-! ## Fences and erases -/

@[simp] theorem checkReserve_med (e : Env) (d : Dp) :
    (checkReserve e d).med = { d.med with reserve := reserveLevel e d } := by
  unfold checkReserve
  dsimp only
  split
  · rw [‹reserveLevel e d = _›]
  · simp [apply_ite Dp.med]

@[simp] theorem recompute_rebuilding (e : Env) (d : Dp) : (recompute e d).med.rebuilding = d.med.rebuilding := by
  simp [recompute]

theorem foldl_rebuilding {β : Type} (g : Dp → β → Dp) (h : ∀ d x, (g d x).med.rebuilding = d.med.rebuilding) (l : List β)
    (d : Dp) : (l.foldl g d).med.rebuilding = d.med.rebuilding := by
  induction l generalizing d with
  | nil => rfl
  | cons x t ih => exact (ih _).trans (h d x)

theorem closeRows_rebuilding (e : Env) (on_ : Nat × Nat × Nat → Bool) (d : Dp) :
    (closeRows e on_ d).med.rebuilding = d.med.rebuilding := by
  unfold closeRows
  dsimp only
  rw [foldl_rebuilding]
  intro _ _
  rfl

theorem returnRead_rebuilding (cws : List Nat) (why : ReadWhy) (d : Dp) :
    (returnRead cws why d).med.rebuilding = d.med.rebuilding := by
  cases why <;> rfl

theorem addRelic_rebuilding (r : Row) (pos : Nat) (d : Dp) : (addRelic r pos d).med.rebuilding = d.med.rebuilding := by
  unfold addRelic
  dsimp only
  split <;> rfl

theorem dropBlock_rebuilding (r : Row) (pos : Nat) (d : Dp) : (dropBlock r pos d).med.rebuilding = d.med.rebuilding :=
  addRelic_rebuilding r pos d

theorem dropOps_rebuilding (e : Env) (c k : Nat) (d : Dp) : (dropOps e c k d).med.rebuilding = d.med.rebuilding := by
  unfold dropOps
  dsimp only
  rw [foldl_rebuilding, foldl_rebuilding, closeRows_rebuilding, setDie_med]
  · intro d o
    split
    · rfl
    · exact returnRead_rebuilding ..
    · rfl
  · exact fun d x => dropBlock_rebuilding x.1 x.2 d

theorem addFence_ne_nil (e : Env) (c : Nat) (k : Option Nat) (d : Dp) : addFence e c k d ≠ [] := by
  unfold addFence
  split
  · intro hnil
    simp_all
  · simp

/-- A fence puts its unit on the list of those to be rebuilt. -/
theorem fenceDie_rebuilding (e : Env) (c k : Nat) (d : Dp) (hf : (d.die c k).fenced = false) :
    (fenceDie e c k d).med.rebuilding ≠ [] := by
  unfold fenceDie
  rw [if_neg (by simp [hf]), recompute_rebuilding, cause_med, count_med, logE_med, dropOps_rebuilding]
  exact addFence_ne_nil _ _ _ _

section Erases

variable {n : Nat} {d : Dp} (h : Leaving n d.med)
include h

theorem leaving_checkReserve (e : Env) : Leaving n (checkReserve e d).med := by
  rw [checkReserve_med]
  exact h.of_eq rfl rfl

theorem leaving_recompute (e : Env) : Leaving n (recompute e d).med :=
  leaving_checkReserve (d := { d with sh := { d.sh with figDue := true } }) h e

theorem leaving_restage (id : Nat) (pages : List Nat) : Leaving n (restage id pages d).med :=
  (h.onRow id (f := fun r => { r with dead := r.dead ++ pages }) (fun _ => ⟨rfl, rfl, fun hl => hl⟩)).of_map
    (f := moveAgain _) (fun r => ⟨rfl, rfl, by simp [leavesPlace, moveAgain]⟩) rfl rfl

theorem leaving_returnRead (cws : List Nat) (why : ReadWhy) : Leaving n (returnRead cws why d).med := by
  cases why with
  | fetch f => exact h
  | move id => exact h.onRow id (fun r => ⟨rfl, rfl, by simp [leavesPlace]⟩)
  | stripe j => exact h

theorem leaving_addRelic (r : Row) (pos : Nat) : Leaving n (addRelic r pos d).med := by
  unfold addRelic
  dsimp only
  split
  · exact h
  · exact h.of_eq rfl rfl

theorem leaving_fenceDie (e : Env) (c k : Nat) : Leaving n (fenceDie e c k d).med := by
  by_cases hf : (d.die c k).fenced = true
  · simpa [fenceDie, hf] using h
  · exact .of_rebuilding (fenceDie_rebuilding e c k d (by simpa using hf))

theorem leaving_retireDie (e : Env) (c k : Nat) : Leaving n (retireDie e c k d).med := by
  unfold retireDie
  split
  · exact h
  · refine leaving_recompute ?_ e
    simp only [count_med, logE_med]
    exact (leaving_fenceDie h e c k).of_eq rfl rfl

theorem leaving_retireBlock (e : Env) (b : Nat × Nat × Nat) (event : Nat) : Leaving n (retireBlock e b event d).med := by
  unfold retireBlock
  split
  · exact h
  · dsimp only
    generalize hd : recompute e (count 3 5 1 _) = d'
    have fresh : Leaving n d'.med := by
      rw [← hd]
      refine leaving_recompute ?_ e
      simp only [count_med, logE_med]
      exact h.of_eq rfl rfl
    split
    · exact leaving_retireDie fresh ..
    · exact fresh

theorem leaving_eraseRow (e : Env) (id : Nat) : Leaving n (eraseRow e id d).med := by
  unfold eraseRow
  split
  · exact h
  · split
    · exact h
    · dsimp only
      generalize hd : List.foldl _ (List.foldl _ d _) _ = d'
      have relics : Leaving n d'.med := by
        rw [← hd]
        refine Leaving.foldl (fun d i hd => ?_) _ (Leaving.foldl (fun d b hd => leaving_retireBlock hd ..) _ h)
        exact leaving_addRelic hd ..
      have erased (l : List Nat) := relics.onRow id (f := fun r => { r with erasing := some l, moving := none, ready := [] })
        (fun r => ⟨rfl, rfl, fun _ => rfl⟩)
      split
      · exact (erased _).of_remove rfl rfl
      · exact erased _

theorem leaving_sweepRows (e : Env) : Leaving n (sweepRows e d).med :=
  Leaving.foldl (fun _ _ hd => leaving_eraseRow hd ..) _ h

theorem leaving_trimRow (e : Env) (r : Row) : Leaving n (trimRow e r d).med := by
  unfold trimRow
  split
  · exact h
  · exact leaving_growArea (leaving_eraseRow (by exact h) ..) ..

theorem leaving_strandWork (e : Env) : Leaving n (strandWork e d).med := by
  unfold strandWork
  split
  · exact h
  · refine Leaving.foldl (fun _ _ hd => leaving_trimRow hd ..) _ ?_
    exact leaving_stageDeltas (leaving_stageItems (leaving_stageItems (by exact h) ..) ..) ..

theorem leaving_checkMedia (e : Env) : Leaving n (checkMedia e d).med := by
  unfold checkMedia
  split
  · exact h
  · have checked := leaving_checkReserve h e
    dsimp only
    split
    · rw [logE_med]
      exact checked.of_eq rfl rfl
    · exact checked.of_eq rfl rfl

end Erases

/-! ## Programs, relocations and die-stripe rebuilds -/

section Relocations

variable {n : Nat} {d : Dp} (h : Leaving n d.med)
include h

theorem leaving_issueRow (e : Env) (id k : Nat) : Leaving n (issueRow e id k d).med := by
  induction k generalizing d with
  | zero => exact h
  | succ k ih =>
    unfold issueRow
    split
    · exact h
    · split
      · exact h
      · have taken (f : Row → List ReadyPage) := h.onRow id (f := fun r => { r with ready := f r })
          (fun _ => ⟨rfl, rfl, fun hl => hl⟩)
        dsimp only
        repeat' split
        · exact ih (leaving_restage (taken _) ..)
        · exact ih (by simpa using taken _)
        · exact h

theorem leaving_issuePrograms (e : Env) : Leaving n (issuePrograms e d).med :=
  Leaving.foldl (fun _ _ hd => leaving_issueRow hd ..) _ h

theorem leaving_finishMove (e : Env) (row : Nat) : Leaving n (finishMove e row d).med := by
  unfold finishMove
  repeat' split
  · exact h
  · exact leaving_fillPage h ..
  · exact h
  · exact h

theorem leaving_movedCw (row cw : Nat) : Leaving n (movedCw row cw d).med :=
  h.onRow row (fun r => ⟨rfl, rfl, by simp [leavesPlace]⟩)

theorem leaving_giveUpRead (e : Env) (row cw : Nat) (why : ReadWhy) : Leaving n (giveUpRead e row cw why d).med := by
  unfold giveUpRead
  split
  · split
    · simpa using h
    · exact h
  · refine leaving_finishMove (leaving_movedCw ?_ ..) ..
    repeat' split
    · simpa using h
    · exact h
    · exact h
  · exact h

theorem leaving_failJob (e : Env) (j : StripeJob) : Leaving n (failJob e j d).med :=
  leaving_giveUpRead (d := dropJob j.id d) (by simpa using h) ..

theorem leaving_pumpJob (e : Env) (id : Nat) : Leaving n (pumpJob e id d).med := by
  unfold pumpJob
  split
  · exact h
  · split
    · exact leaving_returnRead (d := dropJob id d) (by simpa using h) ..
    · dsimp only
      split
      · exact leaving_failJob h ..
      · refine Leaving.foldl (fun d q hd => ?_) _ h
        split
        · simpa using hd
        · exact hd

theorem leaving_copyCw (e : Env) (row cw : Nat) (x : Sealed) : Leaving n (copyCw e row cw x d).med := by
  unfold copyCw
  split
  · split
    · exact leaving_finishMove (leaving_movedCw h ..) ..
    · have went (z : Dp × Bool) (hz : Leaving n z.1.med) : Leaving n (if z.2 then
          finishMove e row (movedCw row cw z.1) else returnRead [cw] (.move row) z.1).med := by
        split
        · exact leaving_finishMove (leaving_movedCw hz ..) ..
        · exact leaving_returnRead hz ..
      refine went _ ?_
      repeat' split
      · exact leaving_putCw h ..
      · exact leaving_stageCws h ..
      · exact leaving_stageCws h ..
  · exact leaving_movedCw h ..

theorem leaving_landGood (e : Env) (row cw : Nat) (why : ReadWhy) (b : Blk) (x : Sealed) :
    Leaving n (landGood e row cw why b x d).med := by
  unfold landGood
  split
  · split
    · simpa using h
    · exact h
  · exact leaving_copyCw h ..
  · exact h

theorem leaving_endJob (e : Env) (j : StripeJob) : Leaving n (endJob e j d).med := by
  unfold endJob
  dsimp only
  split
  · exact leaving_returnRead (d := dropJob j.id d) (by simpa using h) ..
  · split
    · exact leaving_landGood (by simpa using h) ..
    · exact leaving_failJob (by simpa using h) ..

theorem leaving_pumpJobs (e : Env) : Leaving n (pumpJobs e d).med :=
  Leaving.foldl (fun _ _ hd => leaving_endJob hd ..) _ (Leaving.foldl (fun _ _ hd => leaving_pumpJob hd ..) _ h)

theorem leaving_pumpGroup (e : Env) (id k : Nat) : Leaving n (pumpGroup e id k d).med := by
  induction k generalizing d with
  | zero => exact h
  | succ k ih =>
    unfold pumpGroup
    split
    · exact h
    split
    · exact h
    split
    · exact h
    have asked (m : Move) := h.onRow id (f := fun r => { r with moving := some m }) (fun _ => ⟨rfl, rfl, fun _ => rfl⟩)
    dsimp only
    split
    · rw [foldl_med _ (fun d k => wantSeg_med ..)]
      exact h
    split
    · exact ih (leaving_finishMove (asked _) ..)
    split
    · refine ih (Leaving.foldl (fun d i hd => ?_) _ (asked _))
      split
      · simpa using hd
      · exact leaving_giveUpRead hd ..
    split
    · exact ih (by simpa using asked _)
    · exact h

theorem leaving_pumpMoves (e : Env) : Leaving n (pumpMoves e d).med :=
  Leaving.foldl (fun _ _ hd => leaving_pumpGroup hd ..) _ h

theorem leaving_flashWork (e : Env) : Leaving n (flashWork e d).med := by
  unfold flashWork
  split
  · exact h
  · rw [issueErases_med]
    exact leaving_issuePrograms (leaving_sweepRows (leaving_pumpJobs (leaving_pumpMoves h e) e) e) e

end Relocations

/-! ## Greenware, stewards and heads -/

section Greens

variable {n : Nat} {d : Dp} (h : Leaving n d.med)
include h

theorem leaving_settleCopy (id i : Nat) : Leaving n (settleCopy id i d).med := by
  unfold settleCopy
  split
  · exact h
  split
  · split
    · simpa using h
    · have settled (f : Row → List Codeword) := h.onRow id (f := fun r => { r with cws := f r })
        (fun _ => ⟨rfl, rfl, fun hl => hl⟩)
      dsimp only
      split
      · simpa using settled _
      · exact settled _
  · exact h

theorem leaving_settleCopies : Leaving n (settleCopies d).med :=
  Leaving.foldl (fun _ _ hd => Leaving.foldl (fun _ _ hd => leaving_settleCopy hd ..) _ hd) _ h

theorem leaving_settleGreens (e : Env) : Leaving n (settleGreens e d).med := by
  unfold settleGreens
  dsimp only
  refine leaving_sweepRows ?_ e
  rw [foldl_med _ (fun d g => makeCurrent_med g d)]
  refine leaving_settleCopies ?_
  rw [foldl_med _ (fun d _ => wantSeg_med d _ _)]
  exact h

theorem leaving_placeGreens (e : Env) (u : RowUse) (a : As) (gs : List Green) : Leaving n (placeGreens e u a gs d).med := by
  unfold placeGreens
  dsimp only
  generalize hd : List.foldl _ (count 10 0 gs.length _) gs = d'
  have asked : Leaving n d'.med := by
    rw [← hd, foldl_med]
    · exact leaving_nonce h _
    · intro d g
      split <;> rfl
  have placed := leaving_stageCws asked e u a
  split
  · split
    · refine leaving_fillPage ?_ ..
      rw [foldl_med _ (fun d _ => onGreen_med ..)]
      exact placed _
    · rw [foldl_med _ (fun d _ => onGreen_med ..)]
      exact placed _
  · rw [foldl_med _ (fun d _ => onGreen_med ..)]
    exact placed _

theorem leaving_placeWaiting (e : Env) : Leaving n (placeWaiting e d).med := by
  unfold placeWaiting
  dsimp only
  rw [foldl_med]
  · generalize hd : List.foldl (fun d g => failC4 e g d) _ _ = d'
    have failed : Leaving n d'.med := by
      rw [← hd, foldl_med _ (fun d g => failC4_med e g d)]
      split <;> simpa using h
    split
    · exact failed
    · exact Leaving.foldl (fun _ _ hd => leaving_placeGreens hd ..) _ failed
  · intro d g
    split <;> simp

theorem leaving_trackBisque (e : Env) : Leaving n (trackBisque e d).med := by
  unfold trackBisque
  dsimp only
  split
  · exact h.of_eq rfl rfl
  · exact h

theorem leaving_commitGreens (e : Env) (pool seqn : Nat) : Leaving n (commitGreens e pool seqn d).med :=
  leaving_settleGreens (by exact h) e

theorem leaving_dropGreens (e : Env) (pool seqn : Nat) : Leaving n (dropGreens e pool seqn d).med :=
  leaving_sweepRows (by exact h) e

theorem leaving_settleReplayed (e : Env) (pool : Nat) (commits : List Nat) :
    Leaving n (settleReplayed e pool commits d).med := by
  unfold settleReplayed
  refine Leaving.foldl (fun d q hd => ?_) _ h
  split
  · exact leaving_commitGreens hd ..
  · exact leaving_dropGreens hd ..

theorem leaving_finishResolve (e : Env) (pool : Nat) : Leaving n (finishResolve e pool d).med := by
  unfold finishResolve
  dsimp only
  split
  · rw [setRole_med]
    refine leaving_settleReplayed ?_ ..
    rw [foldl_med, foldl_med]
    · exact h
    · intro d r
      split <;> simp
    · intro d t
      split <;> simp
  · exact h

theorem leaving_becomeSteward (e : Env) (pool : Nat) (c : BitVec 32) (giver : Option Nat) :
    Leaving n (becomeSteward e pool c giver d).med := by
  unfold becomeSteward
  dsimp only
  generalize hd : cause e evSteward _ = d'
  have told : Leaving n d'.med := by
    rw [← hd, cause_med, noteLast_med]
    split <;> simpa using h
  split
  · exact told
  · cases giver
    all_goals
      dsimp only
      refine .ite ?_ (.ite (leaving_finishResolve ?_ ..) ?_)
      all_goals simpa [apply_ite Dp.med] using told

theorem leaving_takeRebased (e : Env) : Leaving n (takeRebased e d).med :=
  Leaving.foldl (fun _ _ hd => leaving_becomeSteward hd ..) _ h

theorem leaving_tellWorn (e : Env) : Leaving n (tellWorn e d).med := by
  unfold tellWorn
  split
  · split
    · exact h
    · exact h.of_eq rfl rfl
  · refine Leaving.foldl (fun d p hd => ?_) _ h
    split
    · exact hd
    · rw [send_med]
      exact hd.of_eq rfl rfl

theorem leaving_admitWrite (e : Env) (c : Cmd) : Leaving n (admitWrite e c d).med := by
  have admitted (d : Dp) (hd : Leaving n d.med) (t : Nat) : Leaving n (undelay e c.pool { d.onCmd c.key
      (fun c => { c with admitted := true }) with med := { d.med with lastWrite := t } }).med := by
    rw [undelay_med]
    exact hd.of_eq rfl rfl
  unfold admitWrite
  dsimp only
  split
  · exact admitted d h _
  · split
    · exact admitted _ (by simpa using h) _
    · simpa using h

theorem leaving_startHeader (e : Env) (k : CmdKey) : Leaving n (startHeader e k d).med := by
  unfold startHeader
  split
  · exact h
  next c _ =>
  split
  · split
    · simpa using h
    split
    · exact h
    have admitted : Leaving n (if isWriteOp c.opcode && !c.admitted then admitWrite e c d else d).med := by
      split
      · exact leaving_admitWrite h ..
      · exact h
    dsimp only
    generalize (if isWriteOp c.opcode && !c.admitted then admitWrite e c d else d) = d' at admitted ⊢
    repeat' split
    all_goals simpa using admitted
  · exact h

theorem leaving_headRound (e : Env) (sd : Cmd → Dp → Dp) (hsd : ∀ c d, (sd c d).med = d.med) :
    Leaving n (headRound e sd d).med := by
  unfold headRound
  dsimp only
  rw [foldl_med _ (fun d k => finishCmd_med e sd k d hsd), sendTickets_med, requestTickets_med, gatherNow_med,
    foldl_med _ (fun d k => (readCmd_med ..).trans (gatherCmd_med ..)), runJobs_med, serveFetches_med, dropSilent_med]
  exact Leaving.foldl (fun _ _ hd => leaving_startHeader hd ..) _ h

theorem leaving_headWork (e : Env) : Leaving n (headWork e (startSd e) d).med := by
  unfold headWork
  rw [settleEngine_med]
  exact Leaving.foldl (fun _ _ hd => leaving_headRound hd e _ (startSd_med e)) _ h

theorem leaving_workDp (e : Env) : Leaving n (workDp e d).med := by
  unfold workDp
  dsimp only
  rw [noteActive_med, tellRoom_med, noteStates_med, pumpAll_med]
  refine leaving_flashWork (leaving_headWork ?_ e) e
  rw [drillStep_med, foldl_med _ (fun d k => handoverStep_med e k d), finishReshapes_med, reportRegions_med, pumpAll_med,
    tellFigures_med]
  refine leaving_tellWorn ?_ e
  rw [askSpare_med]
  refine leaving_takeRebased ?_ e
  rw [noteExhausted_med, joinStep_med, sendJoin_med, drainPools_med, finishPolls_med, resendOrders_med, tellDue_med]
  exact leaving_strandWork (leaving_flashWork (leaving_checkMedia (leaving_settleGreens (leaving_placeWaiting
    (leaving_trackBisque h e) e) e) e) e) e

end Greens

/-! ## What follows a command -/

theorem leaving_startCkpt (e : Env) (ebb : Bool) {n : Nat} {d : Dp} (h : Leaving n d.med) : Leaving n (startCkpt e ebb d).med := by
  unfold startCkpt
  dsimp only
  refine (leaving_stageItems (leaving_stageDeltas h e true) e .mapStrand _).of_map
    (f := fun r => { r with readsKept := r.reads, offsetsKept := r.offsets }) (fun _ => ⟨rfl, rfl, fun hl => hl⟩) rfl rfl

section Work

variable {n : Nat} {s : State} (h : Leaving n s.dp.med)
include h

theorem leaving_askAnchor : Leaving n (askAnchor s).dp.med := by
  unfold askAnchor requestAnchor
  split
  · split
    · exact h
    · rw [anchorReady_med]
      exact leaving_startCkpt _ _ h
  · exact h

theorem leaving_newAtRest : Leaving n (newAtRest s).dp.med := h.of_eq rfl rfl

theorem leaving_spendNonce : Leaving n (spendNonce s).dp.med := by
  unfold spendNonce
  split
  · exact h
  · rw [writeRecord_med]
    exact leaving_newAtRest h

theorem leaving_sanitizeHere (o : Order) : Leaving n (sanitizeHere o s).dp.med := by
  unfold sanitizeHere
  dsimp only
  split
  · simpa [State.onDp] using h
  split
  · simpa [State.onDp] using h
  generalize ht : recordThen _ _ _ _ _ = t
  have kept : Leaving n t.dp.med := by
    rw [← ht, recordThen_med, log_med, extendMeas_med]
    refine leaving_newAtRest ?_
    split <;> exact h
  change Leaving n (growAreas _ _).med
  refine leaving_growAreas (Leaving.foldl (fun _ _ hd => leaving_eraseRow hd ..) _ ?_) _
  exact kept.of_eq rfl rfl

/-- What follows a command leaves no row in its place that was on its way out of it. -/
theorem leaving_work : Leaving n s.work.dp.med := by
  unfold State.work
  extract_lets s1 d1 sh1 s2 s3 pars due d3 mb3 s4 s5 s6 s7
  have worked : Leaving n s1.dp.med := leaving_workDp h s.env
  have anchored : Leaving n s2.dp.med := by
    unfold s2
    split
    · exact leaving_askAnchor worked
    · exact worked
  have checkpointed : Leaving n s3.dp.med := by
    unfold s3
    split
    · rw [anchorReady_med]
      exact anchored
    · exact anchored
  have applied : Leaving n s5.dp.med := by
    unfold s5
    rw [foldl_dp_med]
    · exact checkpointed
    · exact fun s x => applyParams_med x.1 x.2 s
  have sanitized : Leaving n s6.dp.med := by
    unfold s6
    clear_value s5
    induction due generalizing s5 with
    | nil => exact applied
    | cons o t ih => exact ih _ (leaving_sanitizeHere applied o)
  have cleared : Leaving n s7.dp.med := by
    unfold s7
    split
    · exact sanitized
    · rw [finishClears_med]
      exact sanitized
  rw [noteIdle_med]
  refine leaving_spendNonce ?_
  change Leaving n (holdupStep _ _ s7.dp).med
  rw [holdupStep_med]
  exact cleared

end Work

/-! ## Two records of one id

A row under erase and a row in its place share an id. The relocation of a third row ends at once, as nothing in it is current;
the erase that follows retires its failing block, and with it the die, whose fence drops the first record's erase (R112). The
second record then stands where the first one was. -/

/-- A record of a full row of stoneware on die 0 of channel 0 that holds nothing. -/
def twinRow (id block : Nat) (erasing : Option (List Nat)) : Row :=
  { freshRow 0 id .stoneware 1 [(0, 0, block)] with full := true, erasing := erasing }

/-- Media management runs with one channel and one die, which is to be rebuilt; block 7 of it has failed a program. -/
def twins : State :=
  { State.reset with
    pwr := { Pwr.reset with state := .flood }
    boot := { Boot.reset with fw := true, ready := true }
    dp := { Dp.reset with
      kiln := { Kiln.reset with
        wave := 17, started := true, floating := false, chans := [(0, freshChan)]
        dies := [(0, { present := true, fenced := false, setting := 0, queue := [], running := none, suspended := none,
                       timeouts := [], cut := none, zqAt := 0, zqTj := 250, eraseDue := [], busy := [], lastP1 := none })]
        profile := { Kiln.reset.profile with blocks := 1 } }
      med := { Dp.reset.med with
        rows := [twinRow 1 5 (some [0]), twinRow 1 6 none, twinRow 2 7 none]
        rebuilding := [(0, some 0, 0)]
        failing := [(0, 0, 7)] } } }

/-- The next state has no unit left to rebuild, and a narrow row 1 that stays where it is. -/
def standsStill : Host.Outcome State Fault Refusal → Bool
  | .next t => t.dp.med.rebuilding.isEmpty && (t.dp.row 1).any (fun y => y.width < 8 && !leavesPlace y)
  | _ => false

theorem twins_standStill : standsStill (exec (.dieRebuild 0 (some 0)) twins) = true := by decide +kernel

/-- Where row 1 leaves its place before the work that follows a command, it leaves it after the work too. -/
theorem not_standsStill_work {u : State} (h : Leaving 1 u.dp.med) : standsStill (.next u.work) = false := by
  have worked := leaving_work h
  by_contra hstill
  simp only [standsStill, Bool.not_eq_false, Bool.and_eq_true, List.isEmpty_iff, Option.any_eq_true, decide_eq_true_eq,
    Bool.not_eq_true'] at hstill
  obtain ⟨hnone, y, hy, hwidth, hstays⟩ := hstill
  exact absurd (worked.leaves hnone y hy hwidth) (by simp [hstays])

/-- Refutes O32, by its clause on a fenced unit: the model does not keep two records of one id apart, and DIE_REBUILD of
`twins` leaves a row of the unit where it is, neither under relocation nor under erase, with its unit taken off the list. -/
theorem not_mediaManagement : ¬ Obligations.MediaManagement := by
  unfold Obligations.MediaManagement
  intro h
  obtain ⟨-, -, -, -, -, -, rebuild, -⟩ := h
  obtain ⟨-, leaves⟩ := rebuild twins 0 (some 0) (by decide) (by decide)
  obtain ⟨u, hu, hrow⟩ := leaves (twinRow 1 6 none) (by simp [twins]) (by decide) (by decide)
  have still := twins_standStill
  rw [hu, not_standsStill_work ⟨fun _ y hy _ => hrow y hy⟩] at still
  cases still

end Sys2Proof.Proofs

/-! # Armed injections beyond the sixteen remembered (R182, R187) -/

namespace Sys2Proof.Proofs

open Sys2Proof.Machine Sys2Proof.Laws

/-- No armed injection is forgotten, however many there are (R182). -/
theorem keepArms_of_armed {l : List Arm} (h : ∀ a ∈ l, a.st = .armed) : keepArms l = l := by
  have hall : ∀ x ∈ l.zipIdx, (decide (l.length - 16 ≤ x.2) || decide (x.1.st = .armed)) = true := by
    intro x hx
    simp [h x.1 (List.fst_mem_of_mem_zipIdx hx)]
  rw [keepArms, List.filter_eq_self.mpr hall]
  exact List.zipIdx_map_fst 0 l

/-- INJECT_CHECKBITS with an address in its region and no arm of its target adds one record to the arms kept. -/
theorem injectCheckbits_arms {s t : State} {m : Mbx} {r : MbReq} (ha : Asked s m 0x0920 r)
    (hin : inRegion s (fieldAt r.payload 0 1) (fieldAt r.payload 8 8)
      (if fieldAt r.payload 0 1 = 1 then 64 else 1) = true)
    (hfree : s.integ.arms.any (fun a => a.target = fieldAt r.payload 0 1 && a.st = .armed) = false)
    (ht : exec (.injectCheckbits m) s = .next t) :
    ∃ a : Arm, a.st = .armed ∧ t.integ.arms = keepArms (s.integ.arms ++ [a]) := by
  obtain ⟨hr, hop, hw⟩ := ha
  rw [exec_injectCheckbits, execInjectCheckbits, onRequest_asked m _ _ s r hr hop hw] at ht
  simp only [hin, hfree, Bool.not_true, Bool.false_eq_true, if_false] at ht
  cases ht
  exact ⟨_, rfl, rfl⟩

/-- An armed injection that has fired no shot. -/
def armOn (target : Nat) : Arm :=
  { id := target, target := target, unit := 0, sel := 0, count := 0, seed := 0, shots := 1, address := 0, mask := 0,
    st := .armed, fired := 0, corrected := 0, uncorrectable := 0, replays := 0, seqs := [], since := 0 }

/-- INJECT_CHECKBITS of target 16. -/
def injectReq : MbReq :=
  { opcode := 0x0920, token := 1, length := 1, clean := true, payload := [16], waiting := false }

/-- MB0 of port A runs that request while an injection is armed on each of the targets 0 to 15. -/
def sixteenArmed : State :=
  { State.reset with
    integ := { State.reset.integ with arms := (List.range 16).map armOn }
    dp := Dp.reset.onMail (.host .a 0) (fun x => { x with busy := true, request := some injectReq }) }

theorem sixteenArmed_armed : ∀ a ∈ sixteenArmed.integ.arms, a.st = .armed := by
  intro a ha
  obtain ⟨_, -, rfl⟩ := List.mem_map.mp ha
  rfl

/-- Refutes O17: the clause on INJECT_CHECKBITS bounds the records kept by sixteen or as many as there were, while
an armed one is never forgotten (R182), so that from `sixteenArmed`, one arm to a target (R181), seventeen are kept. -/
theorem not_diagnosticCommands : ¬ Obligations.DiagnosticCommands := by
  unfold Obligations.DiagnosticCommands
  rintro ⟨-, -, hinject, -⟩
  have hasked : Asked sixteenArmed (.host .a 0) 0x0920 injectReq := by decide
  have hin : inRegion sixteenArmed (fieldAt injectReq.payload 0 1) (fieldAt injectReq.payload 8 8)
      (if fieldAt injectReq.payload 0 1 = 1 then 64 else 1) = true := by decide
  have hfree : sixteenArmed.integ.arms.any
      (fun a => a.target = fieldAt injectReq.payload 0 1 && a.st = .armed) = false := by decide
  obtain ⟨u, -, hu, -, -, -, -, -, hlen, -⟩ := hinject sixteenArmed (.host .a 0) injectReq hasked hin hfree
  obtain ⟨a, harmed, harms⟩ := injectCheckbits_arms hasked hin hfree hu
  change u.integ.arms = _ at harms
  rw [harms, keepArms_of_armed] at hlen
  · simp [sixteenArmed] at hlen
  · intro b hb
    obtain hb | hb := List.mem_append.mp hb
    · exact sixteenArmed_armed b hb
    · rwa [List.mem_singleton.mp hb]

end Sys2Proof.Proofs

/-! # A row that takes pages after a failed program (R108, R112, R140)

The model does not keep two records of one id apart. A failed program may fence its die (R140): the fence takes the first
record of its row away (R112), and a second one, which still takes pages, then is the row. No state in which the row is full
comes to the same end by its work. Before the first sweep of the member's rows no record goes away before another; a sweep
that fences the die closes every row with a block on it; and a device that is not READY places nothing after that sweep, so
that none of these rows takes pages again. -/

namespace Sys2Proof.Proofs

open Sys2Proof Sys2Proof.Machine Sys2Proof.Laws

/-! ## What most of the work keeps of the rows -/

/-- A row keeps its id, its width and its blocks, loses no codeword, and stays closed. -/
structure Keeps (r r' : Row) : Prop where
  id : r'.id = r.id
  width : r'.width = r.width
  blocks : r'.blocks = r.blocks
  cws : r'.cws = [] → r.cws = []
  full : r.full = true → r'.full = true

theorem Keeps.refl (r : Row) : Keeps r r := ⟨rfl, rfl, rfl, fun h => h, fun h => h⟩

theorem Keeps.trans {r r' r'' : Row} (h : Keeps r r') (h' : Keeps r' r'') : Keeps r r'' :=
  ⟨h'.id.trans h.id, h'.width.trans h.width, h'.blocks.trans h.blocks, fun hc => h.cws (h'.cws hc),
    fun hf => h'.full (h.full hf)⟩

/-- No row of fewer than eight blocks is new. -/
def Within (m m' : Media) : Prop := ∀ y' ∈ m'.rows, y'.width < 8 → ∃ y ∈ m.rows, Keeps y y'

/-- No row of fewer than eight blocks is new, none of them comes first of id 1 that did not before, and the list of the
units to be rebuilt stays. -/
structure Gentle (m m' : Media) : Prop where
  within : Within m m'
  first : ∀ y', m'.rows.find? (fun r => r.id = 1) = some y' → y'.width < 8 →
    ∃ y, m.rows.find? (fun r => r.id = 1) = some y ∧ Keeps y y'
  fences : m'.rebuilding = m.rebuilding

namespace Gentle

variable {m m' m'' : Media}

theorem trans (h : Gentle m m') (h' : Gentle m' m'') : Gentle m m'' where
  within y'' hy'' hw := by
    obtain ⟨y', hy', k'⟩ := h'.within y'' hy'' hw
    obtain ⟨y, hy, k⟩ := h.within y' hy' (k'.width ▸ hw)
    exact ⟨y, hy, k.trans k'⟩
  first y'' hy'' hw := by
    obtain ⟨y', hy', k'⟩ := h'.first y'' hy'' hw
    obtain ⟨y, hy, k⟩ := h.first y' hy' (k'.width ▸ hw)
    exact ⟨y, hy, k.trans k'⟩
  fences := h'.fences.trans h.fences

theorem of_map {f : Row → Row} (hf : ∀ r, Keeps r (f r)) (hr : m'.rows = m.rows.map f)
    (hb : m'.rebuilding = m.rebuilding) : Gentle m m' where
  within y' hy' _ := by
    rw [hr] at hy'
    obtain ⟨y, hy, rfl⟩ := List.mem_map.mp hy'
    exact ⟨y, hy, hf y⟩
  first y' hy' _ := by
    have same : ((fun r : Row => decide (r.id = 1)) ∘ f) = fun r => decide (r.id = 1) := by
      funext r
      simp [(hf r).id]
    rw [hr, List.find?_map, same] at hy'
    obtain ⟨y, hy, rfl⟩ := Option.map_eq_some_iff.mp hy'
    exact ⟨y, hy, hf y⟩
  fences := hb

theorem of_eq (hr : m'.rows = m.rows) (hb : m'.rebuilding = m.rebuilding) : Gentle m m' :=
  of_map (f := id) Keeps.refl (by simpa using hr) hb

theorem refl (m : Media) : Gentle m m := of_eq rfl rfl

theorem of_med {d d' : Dp} (h : d'.med = d.med) : Gentle d.med d'.med := h ▸ refl _

theorem of_append {r : Row} (hw : 8 ≤ r.width) (hr : m'.rows = m.rows ++ [r]) (hb : m'.rebuilding = m.rebuilding) :
    Gentle m m' where
  within y' hy' hw' := by
    rw [hr] at hy'
    obtain hy' | hy' := List.mem_append.mp hy'
    · exact ⟨y', hy', .refl y'⟩
    · obtain rfl := List.mem_singleton.mp hy'
      omega
  first y' hy' hw' := by
    rw [hr, List.find?_append, Option.or_eq_some_iff] at hy'
    obtain hy' | ⟨-, hy'⟩ := hy'
    · exact ⟨y', hy', .refl y'⟩
    · obtain rfl : y' = r := by simpa using List.mem_of_find?_eq_some hy'
      omega
  fences := hb

/-- Every row of an id goes at once. -/
theorem of_remove {k : Nat} (hr : m'.rows = m.rows.filter (fun x => x.id != k)) (hb : m'.rebuilding = m.rebuilding) :
    Gentle m m' where
  within y' hy' _ := by
    rw [hr] at hy'
    exact ⟨y', List.mem_of_mem_filter hy', .refl y'⟩
  first y' hy' _ := by
    refine ⟨y', ?_, .refl y'⟩
    rw [hr, List.find?_filter] at hy'
    by_cases hk : 1 = k
    · have := List.find?_some hy'
      simp_all
    · have same : (fun a : Row => decide ((a.id != k) = true ∧ decide (a.id = 1) = true)) = fun a => decide (a.id = 1) := by
        funext a
        by_cases ha : a.id = 1 <;> simp [ha, hk]
      rwa [same] at hy'
  fences := hb

theorem onRow (d : Dp) (id : Nat) {f : Row → Row} (hf : ∀ r, Keeps r (f r)) : Gentle d.med (d.onRow id f).med :=
  of_map (f := fun r => if r.id = id then f r else r)
    (fun r => by
      split
      · exact hf r
      · exact .refl r)
    (by simp [Dp.onRow, updateWhere]) rfl

theorem foldl {β : Type} {g : Dp → β → Dp} (hg : ∀ d x, Gentle d.med (g d x).med) (l : List β) (d : Dp) :
    Gentle d.med (l.foldl g d).med := by
  induction l generalizing d with
  | nil => exact refl _
  | cons x t ih => exact (hg d x).trans (ih _)

end Gentle

/-! ## Operations that neither fence a unit nor place a codeword -/

theorem gentle_openRow {e : Env} {u : RowUse} {worn : Bool} {d : Dp} {z : Dp × Nat} (hz : openRow e u worn d = some z) :
    Gentle d.med z.1.med := by
  unfold openRow at hz
  dsimp only at hz
  split at hz
  · cases hz
  · split at hz
    · cases hz
      exact .of_append (r := freshRow ..) (Nat.le_of_not_lt ‹_›) rfl rfl
    · cases hz

theorem gentle_rowFor {e : Env} {u : RowUse} {worn : Bool} {d : Dp} {z : Dp × Nat} (hz : rowFor e u worn d = some z) :
    Gentle d.med z.1.med := by
  unfold rowFor at hz
  split at hz
  · cases hz
    exact .refl _
  · split at hz
    · cases hz
    · exact gentle_openRow hz

theorem gentle_growArea (e : Env) (u : RowUse) (size k : Nat) (d : Dp) : Gentle d.med (growArea e u size k d).med := by
  induction k generalizing d with
  | zero => exact .refl _
  | succ k ih =>
    unfold growArea
    repeat' split
    · exact .refl _
    · exact .refl _
    · exact (gentle_openRow ‹_›).trans (ih _)

theorem gentle_growEach (e : Env) (size k : RowUse → Nat) (l : List RowUse) (d : Dp) :
    Gentle d.med (l.foldl (fun d u => growArea e u (size u) (k u) d) d).med :=
  .foldl (fun d u => gentle_growArea e u (size u) (k u) d) l d

theorem gentle_growAreas (e : Env) (d : Dp) : Gentle d.med (growAreas e d).med :=
  gentle_growEach e (areaSize e) (fun u => divUp (areaSize e u) (2 ^ 26)) _ d

theorem gentle_recompute (e : Env) (d : Dp) : Gentle d.med (recompute e d).med := by
  unfold recompute
  rw [checkReserve_med]
  exact .of_eq rfl rfl

theorem gentle_checkMedia (e : Env) (d : Dp) : Gentle d.med (checkMedia e d).med := by
  unfold checkMedia
  dsimp only
  repeat' split
  · exact .refl _
  · rw [logE_med]
    exact .of_eq (by simp) (by simp)
  · exact .of_eq (by simp) (by simp)

theorem gentle_restage (id : Nat) (pages : List Nat) (d : Dp) : Gentle d.med (restage id pages d).med :=
  (Gentle.onRow d id (f := fun r => { r with dead := r.dead ++ pages })
    (fun _ => ⟨rfl, rfl, rfl, fun h => h, fun h => h⟩)).trans
      (.of_map (f := moveAgain _) (fun _ => ⟨rfl, rfl, rfl, fun h => h, fun h => h⟩) rfl rfl)

theorem gentle_returnRead (cws : List Nat) (why : ReadWhy) (d : Dp) : Gentle d.med (returnRead cws why d).med := by
  cases why with
  | fetch f => exact .of_eq rfl rfl
  | move id => exact .onRow d id (fun _ => ⟨rfl, rfl, rfl, fun h => h, fun h => h⟩)
  | stripe j => exact .of_eq rfl rfl

theorem gentle_addRelic (r : Row) (pos : Nat) (d : Dp) : Gentle d.med (addRelic r pos d).med := by
  unfold addRelic
  dsimp only
  split
  · exact .refl _
  · exact .of_eq rfl rfl

theorem gentle_settleCopy (id i : Nat) (d : Dp) : Gentle d.med (settleCopy id i d).med := by
  have cleared : Gentle d.med (d.onRow id (fun r => { r with
      cws := r.cws.mapIdx (fun j x => if j = i then { x with src := none } else x) })).med :=
    .onRow d id (fun _ => ⟨rfl, rfl, rfl, by simp, fun h => h⟩)
  unfold settleCopy
  dsimp only
  repeat' split
  · exact .refl _
  · exact .of_med (wantSeg_med ..)
  · exact cleared.trans (.of_med (by simp))
  · exact cleared
  · exact .refl _

theorem gentle_settleCopies (d : Dp) : Gentle d.med (settleCopies d).med :=
  .foldl (fun d _ => .foldl (fun d _ => gentle_settleCopy _ _ d) _ d) _ d

theorem gentle_trackBisque (e : Env) (d : Dp) : Gentle d.med (trackBisque e d).med := by
  unfold trackBisque
  dsimp only
  split
  · exact .of_eq rfl rfl
  · exact .refl _

theorem gentle_tellWorn (e : Env) (d : Dp) : Gentle d.med (tellWorn e d).med := by
  unfold tellWorn
  split
  · split
    · exact .refl _
    · exact .of_eq rfl rfl
  · refine .foldl (fun d p => ?_) _ d
    split
    · exact .refl _
    · rw [send_med]
      exact .of_eq rfl rfl

theorem gentle_admitWrite (e : Env) (c : Cmd) (d : Dp) : Gentle d.med (admitWrite e c d).med := by
  have admitted (d' : Dp) (hd : Gentle d.med d'.med) (t : Nat) : Gentle d.med (undelay e c.pool { d'.onCmd c.key
      (fun c => { c with admitted := true }) with med := { d'.med with lastWrite := t } }).med := by
    rw [undelay_med]
    exact hd.trans (.of_eq rfl rfl)
  unfold admitWrite
  dsimp only
  split
  · exact admitted d (.refl _) _
  · split
    · exact admitted _ (.of_med (by simp)) _
    · exact .of_med (by simp)

theorem gentle_startHeader (e : Env) (k : CmdKey) (d : Dp) : Gentle d.med (startHeader e k d).med := by
  unfold startHeader
  split
  · exact .refl _
  next c _ =>
  split
  · split
    · exact .of_med (by simp)
    split
    · exact .refl _
    have admitted : Gentle d.med (if isWriteOp c.opcode && !c.admitted then admitWrite e c d else d).med := by
      split
      · exact gentle_admitWrite ..
      · exact .refl _
    dsimp only
    generalize (if isWriteOp c.opcode && !c.admitted then admitWrite e c d else d) = d' at admitted ⊢
    repeat' split
    all_goals simpa using admitted
  · exact .refl _

theorem gentle_headRound (e : Env) (d : Dp) : Gentle d.med (headRound e (startSd e) d).med := by
  unfold headRound
  dsimp only
  rw [foldl_med _ (fun d k => finishCmd_med e _ k d (startSd_med e)), sendTickets_med, requestTickets_med, gatherNow_med,
    foldl_med _ (fun d k => (readCmd_med ..).trans (gatherCmd_med ..)), runJobs_med, serveFetches_med, dropSilent_med]
  exact .foldl (fun d k => gentle_startHeader e k d) _ d

theorem gentle_headWork (e : Env) (d : Dp) : Gentle d.med (headWork e (startSd e) d).med := by
  unfold headWork
  rw [settleEngine_med]
  exact .foldl (fun d _ => gentle_headRound e d) _ d

/-! ## Placing codewords before the first sweep -/

/-- Where the first row of id 1 has fewer than eight blocks and holds no codeword, it is full. -/
structure Closed (m : Media) : Prop where
  full : ∀ y, m.rows.find? (fun r => r.id = 1) = some y → y.width < 8 → y.cws = [] → y.full = true

theorem Closed.gentle {m m' : Media} (h : Closed m) (hg : Gentle m m') : Closed m' := by
  refine ⟨fun y' hy' hw hc => ?_⟩
  obtain ⟨y, hy, k⟩ := hg.first y' hy' hw
  exact k.full (h.full y hy (k.width ▸ hw) (k.cws hc))

/-- A property of the rows that each step of a fold keeps. -/
theorem foldl_holds {P : Media → Prop} {β : Type} {g : Dp → β → Dp} (hg : ∀ d x, P d.med → P (g d x).med) (l : List β)
    {d : Dp} (h : P d.med) : P (l.foldl g d).med := by
  induction l generalizing d with
  | nil => exact h
  | cons x t ih => exact ih (hg d x h)

/-- A codeword leaves no row of its id without any, and every other row as it was. -/
theorem putCw_rows (e : Env) (id : Nat) (a : As) (x : Codeword) (d : Dp) :
    ∃ f : Row → Row, (putCw e id a x d).med.rows = d.med.rows.map f ∧ ∀ r, (f r).id = r.id ∧ ((f r).cws = [] → f r = r) := by
  unfold putCw afterCw Dp.onRow updateWhere
  refine ⟨_, List.map_map .., fun r => ?_⟩
  by_cases h : r.id = id
  · simp only [Function.comp, h, decide_true, if_true]
    split <;> simp
  · simp [h]

theorem closed_putCw {d : Dp} (h : Closed d.med) (e : Env) (id : Nat) (a : As) (x : Codeword) :
    Closed (putCw e id a x d).med := by
  obtain ⟨f, hrows, hf⟩ := putCw_rows e id a x d
  refine ⟨fun y' hy' hw hc => ?_⟩
  have same : ((fun r : Row => decide (r.id = 1)) ∘ f) = fun r => decide (r.id = 1) := by
    funext r
    simp [(hf r).1]
  rw [hrows, List.find?_map, same] at hy'
  obtain ⟨y, hy, rfl⟩ := Option.map_eq_some_iff.mp hy'
  have kept := (hf y).2 hc
  rw [kept] at hw hc ⊢
  exact h.full y hy hw hc

section Placing

variable {d : Dp} (h : Closed d.med)
include h

theorem closed_nonce (k : Nat) : Closed { d.med with nonce := k } := h.gentle (.of_eq rfl rfl)

theorem closed_stageCws (e : Env) (u : RowUse) (a : As) (l : List Codeword) : Closed (stageCws e u a l d).1.med := by
  induction l generalizing d with
  | nil => exact h
  | cons x t ih =>
    unfold stageCws
    split
    · exact ih h
    · exact ih (closed_putCw (h.gentle (gentle_rowFor ‹_›)) ..)

theorem closed_putFill (e : Env) (id : Nat) (a : As) (k : Nat) : Closed (putFill e id a k d).med := by
  induction k generalizing d with
  | zero => exact h
  | succ k ih =>
    unfold putFill
    exact ih (by simpa using closed_putCw (d := (takeNonce d).2) (closed_nonce h _) ..)

theorem closed_fillPage (e : Env) (id : Nat) (a : As) : Closed (fillPage e id a d).med := by
  unfold fillPage
  split
  · exact h
  · exact closed_putFill h ..

theorem closed_placeGreens (e : Env) (u : RowUse) (a : As) (gs : List Green) : Closed (placeGreens e u a gs d).med := by
  unfold placeGreens
  dsimp only
  generalize hd : List.foldl _ (count 10 0 gs.length _) gs = d'
  have asked : Closed d'.med := by
    rw [← hd, foldl_med]
    · exact closed_nonce h _
    · intro d g
      split <;> rfl
  have placed (l : List Codeword) (z : List (Green × Option Loc)) : Closed (z.foldl (fun d x =>
      d.onGreen (sameGreen x.1) (fun y => { y with loc := x.2 })) (stageCws e u a l d').1).med := by
    rw [foldl_med _ (fun d _ => onGreen_med ..)]
    exact closed_stageCws asked e u a l
  repeat' split
  · exact closed_fillPage (placed _ _) ..
  · exact placed _ _
  · exact placed _ _

theorem closed_placeWaiting (e : Env) : Closed (placeWaiting e d).med := by
  unfold placeWaiting
  dsimp only
  rw [foldl_med]
  · generalize hd : List.foldl (fun d g => failC4 e g d) _ _ = d'
    have failed : Closed d'.med := by
      rw [← hd, foldl_med _ (fun d g => failC4_med e g d)]
      split <;> simpa using h
    split
    · exact failed
    · exact foldl_holds (fun _ _ hd => closed_placeGreens hd ..) _ failed
  · intro d g
    split <;> simp

end Placing

/-! ## A fence closes the rows of its die -/

/-- A block on die 0 of channel 0. -/
def onFailing (b : Nat × Nat × Nat) : Bool := b.1 = 0 && b.2.1 = 0

/-- Every row of fewer than eight blocks with a block on that die is full. -/
def Shut (m : Media) : Prop := ∀ y ∈ m.rows, y.width < 8 → y.blocks.any onFailing = true → y.full = true

theorem Shut.within {m m' : Media} (h : Shut m) (hw : Within m m') : Shut m' := by
  intro y' hy' hw' hb
  obtain ⟨y, hy, k⟩ := hw y' hy' hw'
  exact k.full (h y hy (k.width ▸ hw') (k.blocks ▸ hb))

/-- Each row that still takes pages and has a block that a test picks is among those of a list of ids. -/
def OpenAmong (on_ : Nat × Nat × Nat → Bool) (ids : List Nat) (m : Media) : Prop :=
  ∀ y ∈ m.rows, y.blocks.any on_ = true → y.full = false → y.id ∈ ids

theorem openAmong_restage {on_ : Nat × Nat × Nat → Bool} {id : Nat} {ids : List Nat} {d : Dp} {f : Row → Row}
    (h : OpenAmong on_ (id :: ids) d.med)
    (hf : ∀ r, (f r).id = r.id ∧ (f r).blocks = r.blocks ∧ (f r).full = true) (pages : List Nat) :
    OpenAmong on_ ids (restage id pages (d.onRow id f)).med := by
  intro y' hy' hb hfull
  simp only [restage, Dp.onRow, updateWhere, List.map_map, List.mem_map, Function.comp, moveAgain] at hy'
  obtain ⟨y, hy, rfl⟩ := hy'
  by_cases hid : y.id = id
  · simp [hid, hf] at hfull
  · simp only [hid, decide_false, Bool.false_eq_true, if_false] at hb hfull ⊢
    simpa [hid] using h y hy hb hfull

/-- A row that takes no more pages, without the ready pages that go elsewhere. -/
def closeRow (now : Nat) (rest : List ReadyPage) (r : Row) : Row :=
  { r with full := true, filledAt := if r.full then r.filledAt else now, ready := r.ready.filter (fun p => !rest.contains p) }

/-- Ready pages of a row that stand on blocks that a test picks. -/
def pagesOn (on_ : Nat × Nat × Nat → Bool) (r : Row) : List ReadyPage :=
  r.ready.filter (fun p => on_ (r.blocks.getD p.pos (0, 0, 0)))

theorem closeRows_eq (e : Env) (on_ : Nat × Nat × Nat → Bool) (d : Dp) : closeRows e on_ d =
    (d.med.rows.filter (fun r => r.blocks.any on_ && (!r.full || !r.ready.isEmpty))).foldl (fun d r =>
      restage r.id ((pagesOn on_ r).map ReadyPage.page) (d.onRow r.id (closeRow e.now (pagesOn on_ r)))) d := rfl

/-- No row with a block that the test picks takes pages any more. -/
theorem closeRows_full (e : Env) (on_ : Nat × Nat × Nat → Bool) (d : Dp) :
    ∀ y ∈ (closeRows e on_ d).med.rows, y.blocks.any on_ = true → y.full = true := by
  have closed (hit : List Row) (d : Dp) (h : OpenAmong on_ (hit.map Row.id) d.med) :
      OpenAmong on_ [] (hit.foldl (fun d r =>
        restage r.id ((pagesOn on_ r).map ReadyPage.page) (d.onRow r.id (closeRow e.now (pagesOn on_ r)))) d).med := by
    induction hit generalizing d with
    | nil => exact h
    | cons r t ih => exact ih _ (openAmong_restage h (f := closeRow e.now (pagesOn on_ r)) (fun _ => ⟨rfl, rfl, rfl⟩) _)
  intro y hy hb
  by_contra hopen
  rw [closeRows_eq] at hy
  refine absurd (closed _ d ?_ y hy hb (by simpa using hopen)) (by simp)
  intro x hx hxb hxf
  exact List.mem_map_of_mem (List.mem_filter.mpr ⟨hx, by simp [hxb, hxf]⟩)

theorem within_dropBlock (r : Row) (pos : Nat) (d : Dp) : Within d.med (dropBlock r pos d).med := by
  refine fun y' hy' hw => ((gentle_addRelic r pos d).trans (.onRow _ r.id
    (f := fun r => { r with erasing := r.erasing.map (fun l => l.filter (· != pos)) })
    (fun _ => ⟨rfl, rfl, rfl, fun h => h, fun h => h⟩))).within y' ?_ hw
  exact List.mem_of_mem_filter hy'

theorem shut_dropOps (e : Env) (d : Dp) : Shut (dropOps e 0 0 d).med := by
  unfold dropOps
  dsimp only
  generalize hd : List.foldl _ (closeRows _ _ _) _ = d'
  have shut : Shut d'.med := by
    rw [← hd]
    refine Shut.within ?_ (Gentle.foldl (fun d o => ?_) _ _).within
    · exact fun y hy _ hb => closeRows_full e _ _ y hy hb
    · split
      · exact gentle_restage ..
      · exact gentle_returnRead ..
      · exact .refl _
  generalize List.flatMap _ _ = lost
  clear hd
  induction lost generalizing d' with
  | nil => exact shut
  | cons x t ih => exact ih _ (shut.within (within_dropBlock x.1 x.2 d'))

/-! ## Sweeps -/

/-- Row 1 is closed; or the die has been fenced, and its rows with it; or another unit is fenced. -/
def Kept (m : Media) : Prop := Closed m ∨ Shut m ∨ ∃ x ∈ m.rebuilding, ¬(x.1 = 0 ∧ x.2.1 = some 0)

theorem Kept.gentle {m m' : Media} (h : Kept m) (hg : Gentle m m') : Kept m' := by
  obtain h | h | ⟨x, hx, hne⟩ := h
  · exact .inl (h.gentle hg)
  · exact .inr (.inl (h.within hg.within))
  · exact .inr (.inr ⟨x, hg.fences ▸ hx, hne⟩)

theorem mem_addFence (e : Env) (c : Nat) (k : Option Nat) (d : Dp) : ∃ x ∈ addFence e c k d, x.1 = c ∧ x.2.1 = k := by
  unfold addFence
  split
  · next h => simpa using h
  · exact ⟨_, List.mem_append_right _ (List.mem_singleton_self _), rfl, rfl⟩

section Sweeps

variable {d : Dp} (h : Kept d.med)
include h

theorem kept_fenceDie (e : Env) (c k : Nat) : Kept (fenceDie e c k d).med := by
  unfold fenceDie
  split
  · exact h
  · refine Kept.gentle ?_ (gentle_recompute e _)
    rw [cause_med, count_med, logE_med]
    by_cases hck : c = 0 ∧ k = 0
    · obtain ⟨rfl, rfl⟩ := hck
      exact .inr (.inl (shut_dropOps e _))
    · obtain ⟨x, hx, hc, hk⟩ := mem_addFence e c (some k) (d.setDie c k { d.die c k with fenced := true })
      refine .inr (.inr ⟨x, ?_, fun ⟨h0, h1⟩ => hck ⟨hc ▸ h0, ?_⟩⟩)
      · rw [dropOps_rebuilding]
        exact hx
      · simpa using hk.symm.trans h1

theorem kept_retireDie (e : Env) (c k : Nat) : Kept (retireDie e c k d).med := by
  unfold retireDie
  split
  · exact h
  · refine Kept.gentle ?_ (gentle_recompute e _)
    rw [count_med, logE_med]
    exact (kept_fenceDie h e c k).gentle (.of_eq rfl rfl)

theorem kept_retireBlock (e : Env) (b : Nat × Nat × Nat) (event : Nat) : Kept (retireBlock e b event d).med := by
  unfold retireBlock
  split
  · exact h
  · dsimp only
    generalize hd : recompute e (count 3 5 1 _) = d'
    have fresh : Kept d'.med := by
      rw [← hd]
      refine Kept.gentle ?_ (gentle_recompute e _)
      rw [count_med, logE_med]
      exact h.gentle (.of_eq rfl rfl)
    split
    · exact kept_retireDie fresh ..
    · exact fresh

theorem kept_eraseRow (e : Env) (id : Nat) : Kept (eraseRow e id d).med := by
  unfold eraseRow
  split
  · exact h
  · split
    · exact h
    · dsimp only
      generalize hd : List.foldl _ (List.foldl _ d _) _ = d'
      have relics : Kept d'.med := by
        rw [← hd]
        refine (foldl_holds (P := Kept) (fun d b hd => kept_retireBlock hd ..) _ h).gentle (.foldl (fun d i => ?_) _ _)
        exact gentle_addRelic ..
      have erased (l : List Nat) : Kept (d'.onRow id (fun r => { r with erasing := some l, moving := none, ready := [] })).med :=
        relics.gentle (.onRow d' id (fun _ => ⟨rfl, rfl, rfl, fun h => h, fun h => h⟩))
      split
      · exact (erased _).gentle (.of_remove rfl rfl)
      · exact erased _

theorem kept_sweepRows (e : Env) : Kept (sweepRows e d).med := foldl_holds (P := Kept) (fun _ _ hd => kept_eraseRow hd ..) _ h

theorem kept_settleGreens (e : Env) : Kept (settleGreens e d).med := by
  unfold settleGreens
  dsimp only
  refine kept_sweepRows ?_ e
  rw [foldl_med _ (fun d g => makeCurrent_med g d)]
  refine Kept.gentle ?_ (gentle_settleCopies _)
  rwa [foldl_med _ (fun d _ => wantSeg_med d _ _)]

theorem kept_settleReplayed (e : Env) (pool : Nat) (commits : List Nat) : Kept (settleReplayed e pool commits d).med := by
  unfold settleReplayed
  refine foldl_holds (P := Kept) (fun d q hd => ?_) _ h
  split
  · exact kept_settleGreens (by exact hd) e
  · exact kept_sweepRows (by exact hd) e

theorem kept_finishResolve (e : Env) (pool : Nat) : Kept (finishResolve e pool d).med := by
  unfold finishResolve
  dsimp only
  split
  · rw [setRole_med]
    refine kept_settleReplayed ?_ ..
    rw [foldl_med, foldl_med]
    · exact h
    · intro d r
      split <;> simp
    · intro d t
      split <;> simp
  · exact h

theorem kept_becomeSteward (e : Env) (pool : Nat) (c : BitVec 32) (giver : Option Nat) :
    Kept (becomeSteward e pool c giver d).med := by
  have ite {p : Prop} [Decidable p] {a b : Dp} (ha : Kept a.med) (hb : Kept b.med) : Kept (if p then a else b).med := by
    split
    · exact ha
    · exact hb
  unfold becomeSteward
  dsimp only
  generalize hd : cause e evSteward _ = d'
  have told : Kept d'.med := by
    rw [← hd, cause_med, noteLast_med]
    split <;> simpa using h
  split
  · exact told
  · cases giver
    all_goals
      dsimp only
      refine ite ?_ (ite (kept_finishResolve ?_ ..) ?_)
      all_goals simpa [apply_ite Dp.med] using told

end Sweeps

/-! ## The work of a device that is not READY -/

/-- Row 1 is closed up to the first sweep, and after it neither the flash nor the strands run. -/
theorem kept_workDp {e : Env} {d : Dp} (hflash : e.flash = false) (hready : e.ready = false) (h : Closed d.med) :
    Kept (workDp e d).med := by
  have idle (d : Dp) : flashWork e d = d := by simp [flashWork, hflash]
  have still (d : Dp) : strandWork e d = d := by simp [strandWork, hready]
  have placed : Closed (placeWaiting e (trackBisque e d)).med :=
    closed_placeWaiting (h.gentle (gentle_trackBisque e d)) e
  have swept : Kept (checkMedia e (settleGreens e (placeWaiting e (trackBisque e d)))).med :=
    (kept_settleGreens (.inl placed) e).gentle (gentle_checkMedia e _)
  unfold workDp
  dsimp only
  rw [noteActive_med, tellRoom_med, noteStates_med, pumpAll_med, idle]
  refine Kept.gentle ?_ (gentle_headWork e _)
  rw [drillStep_med, foldl_med _ (fun d k => handoverStep_med e k d), finishReshapes_med, reportRegions_med, pumpAll_med,
    tellFigures_med]
  refine Kept.gentle ?_ (gentle_tellWorn e _)
  rw [askSpare_med]
  refine foldl_holds (P := Kept) (fun _ _ hd => kept_becomeSteward hd ..) _ ?_
  rw [noteExhausted_med, joinStep_med, sendJoin_med, drainPools_med, finishPolls_med, resendOrders_med, tellDue_med, still,
    idle]
  exact swept

theorem gentle_spendNonce (s : State) : Gentle s.dp.med (spendNonce s).dp.med := by
  unfold spendNonce
  split
  · exact .refl _
  · rw [writeRecord_med]
    exact .of_eq rfl rfl

theorem kept_sanitizeHere {s : State} (h : Kept s.dp.med) (o : Order) : Kept (sanitizeHere o s).dp.med := by
  unfold sanitizeHere
  dsimp only
  split
  · simpa [State.onDp] using h
  split
  · simpa [State.onDp] using h
  generalize ht : recordThen _ _ _ _ _ = t
  have kept : Kept t.dp.med := by
    rw [← ht, recordThen_med, log_med, extendMeas_med]
    refine Kept.gentle (m := s.dp.med) h ?_
    split <;> exact .of_eq rfl rfl
  change Kept (growAreas _ _).med
  refine Kept.gentle (foldl_holds (P := Kept) (fun _ _ hd => kept_eraseRow hd ..) _ ?_) (gentle_growAreas _ _)
  exact kept.gentle (.of_eq rfl rfl)

/-- What follows a command on a device that is not READY, where row 1 is closed before it. -/
theorem kept_work {s : State} (hready : s.boot.ready = false) (hrecovered : s.boot.recovered = false)
    (h : Closed s.dp.med) : Kept s.work.dp.med := by
  unfold State.work
  extract_lets s1 d1 sh1 s2 s3 pars due d3 mb3 s4 s5 s6 s7
  have worked : Kept s1.dp.med := kept_workDp (e := s.env) (by simp [State.env, hready, hrecovered]) hready h
  have anchored : Kept s2.dp.med := by
    unfold s2
    split
    · rw [askAnchor, if_neg]
      · exact worked
      · simp [anchorsRun, s1, hready]
    · exact worked
  have checkpointed : Kept s3.dp.med := by
    unfold s3
    split
    · rw [anchorReady_med]
      exact anchored
    · exact anchored
  have applied : Kept s5.dp.med := by
    unfold s5
    rw [foldl_dp_med]
    · exact checkpointed
    · exact fun s x => applyParams_med x.1 x.2 s
  have sanitized : Kept s6.dp.med := by
    unfold s6
    clear_value s5
    induction due generalizing s5 with
    | nil => exact applied
    | cons o t ih => exact ih _ (kept_sanitizeHere applied o)
  have cleared : Kept s7.dp.med := by
    unfold s7
    split
    · exact sanitized
    · rw [finishClears_med]
      exact sanitized
  rw [noteIdle_med]
  refine Kept.gentle ?_ (gentle_spendNonce _)
  change Kept (holdupStep _ _ s7.dp).med
  rw [holdupStep_med]
  exact cleared

/-! ## A failed program that retires its die

Row 1 has two records: the first is full and under erase on the die alone, the second takes pages. The die's program of row 1
fails on a suspect block, which retires the block and with it the die (R140). Row 2 has two records too, the first of them
without a block on the die and open, so that a waiting block is placed in it; the pages filled stand in the second as
well, whose one block of the die then lies in a row that takes pages, after the fence. -/

/-- A fill codeword of nothing. -/
def spareCw : Codeword :=
  { pool := 0, localBlk := 0, kind := 3, addr := 0, seqn := 0, body := zeroSealed, written := true, verified := false,
    src := none }

/-- A block of one byte that waits for its place, under its guard. -/
def waitingGreen : Green :=
  { pool := 1, localBlk := 0, seqn := 0, row := 0, unit := 0, pos := 0, posLast := 0, claim := 0, steward := 0, src := 0,
    flags := 0, group := 0, dataMask := 0, blk := ⟨[0], (guard64 [0]).setWidth 128⟩, full := true, loc := none,
    verified := false, unmaps := false, committed := false, reported := false, overflow := false, crc := 0,
    replayed := false }

/-- A program of page 0 of row 1 under way. -/
def programming : Running :=
  { op := { kind := .program 1 [0], cls := 3, arrived := 0, forced := false, aged := false, task := .other, alone := false }
    since := 0, suspends := 0, rest := [], dataIn := 0, out := false }

/-- The state just described, on a device that is not READY; the die is on the list of those to be rebuilt. -/
def failingProgram : State :=
  { State.reset with
    sec := { State.reset.sec with slots := [(0, { KeySlot.reset with lease := 100 })] }
    dp := { Dp.reset with
      map := { Dp.reset.map with resident := true, green := [waitingGreen] }
      kiln := { Kiln.reset with
        chans := [(0, freshChan)]
        dies := [(0, { freshDie with present := true, running := some programming })]
        profile := { Kiln.reset.profile with blocks := 1 } }
      med := { Dp.reset.med with
        rows := [twinRow 1 5 (some [0]), freshRow 0 1 .stoneware 1 [], freshRow 0 2 .bisque 2 [(1, 0, 0), (2, 0, 0)],
          { freshRow 0 2 .bisque 2 [(0, 0, 7), (1, 0, 7)] with full := true, cws := List.replicate 3 spareCw }]
        rebuilding := [(0, some 0, 0)]
        suspect := [(0, 0, 5)] } } }

/-- A next state, not READY, in which no other unit is to be rebuilt, and where the first record of row 1, which holds
nothing, and a row with a block on the die take pages. -/
def reopened : Host.Outcome State Fault Refusal → Bool
  | .next t => !t.boot.ready && !t.boot.recovered && t.dp.med.rebuilding.all (fun x => x.1 = 0 && x.2.1 = some 0) &&
      (t.dp.row 1).any (fun y => y.width < 8 && y.cws.isEmpty && !y.full) &&
      t.dp.med.rows.any (fun y => y.width < 8 && y.blocks.any onFailing && !y.full)
  | _ => false

theorem failingProgram_reopened : reopened (exec (.dieProgramFail 0 0) failingProgram) = true := by decide +kernel

/-- No state in which row 1 is closed comes to this by its work. -/
theorem not_reopened_work {u : State} (h : Closed u.dp.med) : reopened (.next u.work) = false := by
  obtain ⟨-, hboot, -⟩ := frame_work u
  by_contra hopen
  simp only [reopened, hboot, Bool.not_eq_false, Bool.and_eq_true, Bool.not_eq_true', Option.any_eq_true, List.any_eq_true,
    List.all_eq_true, decide_eq_true_eq, List.isEmpty_iff] at hopen
  obtain ⟨⟨⟨⟨hready, hrecovered⟩, hunit⟩, y, hy, ⟨hw, hcws⟩, hyopen⟩, z, hz, ⟨hzw, hzb⟩, hzopen⟩ := hopen
  obtain closed | shut | ⟨x, hx, hne⟩ := kept_work hready hrecovered h
  · exact absurd (closed.full y hy hw hcws) (by simp [hyopen])
  · exact absurd (shut z hz hzw (List.any_eq_true.mpr hzb)) (by simp [hzopen])
  · exact hne (hunit x hx)

/-- Refutes O31, by its clause on a failed program's row: on `failingProgram` the fence of the die takes the first record
of row 1 away (R112), and the second, which takes pages, is then the row. -/
theorem not_dieReports : ¬ Obligations.DieReports := by
  unfold Obligations.DieReports
  rintro ⟨program, -⟩
  obtain ⟨-, -, -, closes⟩ := program failingProgram 0 0 1 [0] programming (by decide) rfl rfl
  obtain ⟨u, hu, hfull⟩ := closes (twinRow 1 5 (some [0])) (0, (0, 0, 5)) rfl rfl
  have opened := failingProgram_reopened
  rw [hu, not_reopened_work ⟨fun y hy _ _ => hfull y hy⟩] at opened
  cases opened

end Sys2Proof.Proofs

/-! # Bring-up, training and calibration of the flash (R77 to R90) -/

namespace Sys2Proof.Proofs

open Sys2Proof Sys2Proof.Machine Sys2Proof.Laws

/-- What each step of a fold keeps, the fold keeps. -/
theorem foldl_keeps {α β : Type} (f : Dp → α) {g : Dp → β → Dp} (h : ∀ d x, f (g d x) = f d) (l : List β)
    (d : Dp) : f (l.foldl g d) = f d := by
  induction l generalizing d with
  | nil => rfl
  | cons x t ih => exact (ih _).trans (h d x)

/-! ## The step that training takes (R78, R86) -/

theorem kilnSteps_falling : kilnSteps.Pairwise (· > ·) := by decide

/-- A step within a channel's limits. -/
structure StepFits (e : Env) (d : Dp) (cap rate : Nat) : Prop where
  step    : rate ∈ kilnSteps
  profile : rate ≤ d.kiln.profile.maxRate
  param   : rate ≤ e.param d 0x0401
  cap     : rate ≤ cap

/-- The step taken is one of R78 within the limits and passes its training, and none above it does. -/
theorem trainedStep_spec {e : Env} {d : Dp} {cap : Nat} {l : List TrainStep} {r : TrainStep}
    (h : trainedStep e d cap l = some r) :
    StepFits e d cap r.rate ∧ r ∈ l ∧ trainOk r = true ∧
      ∀ q ∈ l, trainOk q = true → StepFits e d cap q.rate → q.rate ≤ r.rate := by
  unfold trainedStep at h
  obtain ⟨before, rate, rest, hsplit, hfound, hbefore⟩ := List.findSome?_eq_some_iff.mp h
  split at hfound
  · next hlim =>
    simp only [Bool.and_eq_true, decide_eq_true_eq] at hlim
    obtain ⟨⟨hprofile, hparam⟩, hcap⟩ := hlim
    obtain ⟨hrate, hok⟩ : r.rate = rate ∧ trainOk r = true := by simpa using List.find?_some hfound
    refine ⟨⟨?_, hrate ▸ hprofile, hrate ▸ hparam, hrate ▸ hcap⟩, List.mem_of_find?_eq_some hfound, hok, ?_⟩
    · rw [hsplit, hrate]
      simp
    · intro q hq hqok hfits
      by_contra hlt
      have hfall := kilnSteps_falling
      rw [hsplit] at hfall
      obtain ⟨-, htail, -⟩ := List.pairwise_append.mp hfall
      have hin := hfits.step
      rw [hsplit] at hin
      obtain hin | hin := List.mem_append.mp hin
      · have hnone := hbefore _ hin
        rw [if_pos (by simp [hfits.profile, hfits.param, hfits.cap]), List.find?_eq_none] at hnone
        exact absurd hqok (by simpa using hnone q hq)
      · obtain heq | hin := List.mem_cons.mp hin
        · omega
        · have := List.rel_of_pairwise_cons htail hin
          omega
  · cases hfound

theorem trainOk_iff (t : TrainStep) : trainOk t = true ↔ t.read.length = 8 ∧ t.write.length = 8 ∧
    (∀ w ∈ t.read ++ t.write, 35 ≤ w) ∧ t.re ≤ 300 ∧ t.dqs ≤ 300 := by
  simp [trainOk, and_assoc, or_imp, forall_and]

/-! ## What a fence keeps of Kiln (R111, R112) -/

@[simp] theorem logE_kiln (e : Env) (code sev src : Nat) (a : List Nat) (d : Dp) :
    (logE e code sev src a d).kiln = d.kiln := logAt_kiln ..

@[simp] theorem msix_kiln (e : Env) (p : PortId) (v : Nat) (d : Dp) : (msix e p v d).kiln = d.kiln := by
  unfold msix
  simp [apply_ite Dp.kiln]

@[simp] theorem cause_kiln (e : Env) (bit : Nat) (d : Dp) : (cause e bit d).kiln = d.kiln := by
  have port (p : PortId) (d : Dp) : (causePort e bit p d).kiln = d.kiln := by
    unfold causePort
    simp [apply_ite Dp.kiln]
  exact (port ..).trans (port ..)

@[simp] theorem recompute_kiln (e : Env) (d : Dp) : (recompute e d).kiln = d.kiln := by
  unfold recompute checkReserve
  simp [apply_ite Dp.kiln]

/-- The profile, the reset wave, and the channels. -/
def units (d : Dp) : Profile × Nat × Tab Chan := (d.kiln.profile, d.kiln.wave, d.kiln.chans)

theorem units_of_kiln {d d' : Dp} (h : d'.kiln = d.kiln) : units d' = units d := by
  unfold units
  rw [h]

theorem units_setDie (d : Dp) (c n : Nat) (x : Die) : units (d.setDie c n x) = units d := rfl

theorem units_closeRows (e : Env) (on_ : Nat × Nat × Nat → Bool) (d : Dp) : units (closeRows e on_ d) = units d := by
  unfold closeRows
  refine foldl_keeps units (fun d r => ?_) _ _
  rfl

theorem units_returnRead (cws : List Nat) (why : ReadWhy) (d : Dp) : units (returnRead cws why d) = units d := by
  cases why <;> rfl

theorem units_dropBlock (r : Row) (pos : Nat) (d : Dp) : units (dropBlock r pos d) = units d := by
  refine units_of_kiln ?_
  unfold dropBlock addRelic
  simp [apply_ite Dp.kiln]

theorem units_dropOps (e : Env) (c n : Nat) (d : Dp) : units (dropOps e c n d) = units d := by
  unfold dropOps
  refine (foldl_keeps units (fun d (x : Row × Nat) => units_dropBlock x.1 x.2 d) _ _).trans ?_
  refine (foldl_keeps units (fun d k => ?_) _ _).trans ((units_closeRows ..).trans (units_setDie ..))
  split
  · rfl
  · exact units_returnRead ..
  · rfl

/-- The report of a fence keeps Kiln. -/
theorem fenced_kiln (e : Env) (code sev src bit dim i v : Nat) (a : List Nat) (d : Dp) :
    (recompute e (cause e bit (count dim i v (logE e code sev src a d)))).kiln = d.kiln := by
  rw [recompute_kiln, cause_kiln, count_kiln, logE_kiln]

theorem units_fenceDie (e : Env) (c n : Nat) (d : Dp) : units (fenceDie e c n d) = units d := by
  unfold fenceDie
  split
  · rfl
  · dsimp only
    rw [units_of_kiln (fenced_kiln ..), units_dropOps]
    rfl

/-- A channel that is fenced goes off its bus, and nothing else changes of the channels. -/
theorem units_fenceChan (e : Env) {c : Nat} (why : Nat) {d : Dp} (h : (d.chan c).fenced = false) :
    units (fenceChan e c why d) = units (d.setChan c { d.chan c with fenced := true, bus := none, offBus := none }) := by
  unfold fenceChan
  rw [if_neg (by simp [h])]
  dsimp only
  rw [units_of_kiln (fenced_kiln ..), foldl_keeps units (fun d n => units_dropOps e c n d)]
  rfl

theorem chan_of_units {d d' : Dp} (h : units d' = units d) (c : Nat) : d'.chan c = d.chan c := by
  simp only [units, Prod.mk.injEq] at h
  obtain ⟨-, -, hchans⟩ := h
  unfold Dp.chan
  rw [hchans]

theorem chan_fenceChan (e : Env) {c : Nat} (why : Nat) {d : Dp} (h : (d.chan c).fenced = false) :
    (fenceChan e c why d).chan c = { d.chan c with fenced := true, bus := none, offBus := none } := by
  rw [chan_of_units (units_fenceChan e why h), chan_setChan, if_pos rfl]

/-! ## The scheduler at work (R92 to R98) -/

/-- Dies and buses have gone on: of a channel its bus and the die last on it may have changed, and that it is open; of a
die not when it was last calibrated. -/
structure Ticks (d d' : Dp) : Prop where
  chan : ∀ c, ∃ b l o, d'.chan c = { d.chan c with bus := b, lastDie := l, opened := o }
  zq   : ∀ c n, (d'.die c n).zqAt = (d.die c n).zqAt ∧ (d'.die c n).zqTj = (d.die c n).zqTj

namespace Ticks

variable {d d' d'' : Dp}

theorem of_same (hc : d'.kiln.chans = d.kiln.chans) (hd : d'.kiln.dies = d.kiln.dies) : Ticks d d' where
  chan c := ⟨(d.chan c).bus, (d.chan c).lastDie, (d.chan c).opened, by simp [Dp.chan, hc]⟩
  zq c n := by simp [Dp.die, hd]

theorem of_kiln (h : d'.kiln = d.kiln) : Ticks d d' := of_same (by rw [h]) (by rw [h])

theorem refl (d : Dp) : Ticks d d := of_kiln rfl

theorem trans (h : Ticks d d') (h' : Ticks d' d'') : Ticks d d'' where
  chan c := by
    obtain ⟨b, l, o, hc⟩ := h.chan c
    obtain ⟨b', l', o', hc'⟩ := h'.chan c
    exact ⟨b', l', o', by rw [hc', hc]⟩
  zq c n := ⟨(h'.zq c n).1.trans (h.zq c n).1, (h'.zq c n).2.trans (h.zq c n).2⟩

theorem foldl {β : Type} {g : Dp → β → Dp} (h : ∀ d x, Ticks d (g d x)) (l : List β) (d : Dp) : Ticks d (l.foldl g d) := by
  induction l generalizing d with
  | nil => exact refl d
  | cons x t ih => exact (h d x).trans (ih _)

theorem setDie {c n : Nat} {x : Die} (hat : x.zqAt = (d.die c n).zqAt) (htj : x.zqTj = (d.die c n).zqTj) :
    Ticks d (d.setDie c n x) where
  chan k := ⟨(d.chan k).bus, (d.chan k).lastDie, (d.chan k).opened, rfl⟩
  zq k m := by
    have read : (d.setDie c n x).die k m = if dieKey k m = dieKey c n then x else d.die k m := get_put ..
    rw [read]
    split
    · next hk =>
      have same : d.die k m = d.die c n := by simp [Dp.die, hk]
      exact ⟨hat.trans (by rw [same]), htj.trans (by rw [same])⟩
    · exact ⟨rfl, rfl⟩

theorem setChan (c : Nat) (b : Option (Nat × Bool × Nat)) (l : Nat) (o : Bool) :
    Ticks d (d.setChan c { d.chan c with bus := b, lastDie := l, opened := o }) where
  chan k := by
    rw [chan_setChan]
    split
    · next hk => exact ⟨b, l, o, by rw [hk]⟩
    · exact ⟨(d.chan k).bus, (d.chan k).lastDie, (d.chan k).opened, rfl⟩
  zq k m := ⟨rfl, rfl⟩

end Ticks

theorem ticks_put (o : Output) (d : Dp) : Ticks d (put o d) := .of_kiln rfl

theorem ticks_puts (c n : Nat) (l : List DieCmd) (d : Dp) : Ticks d (l.foldl (fun d m => put (.die c n m) d) d) :=
  .foldl (fun _ _ => ticks_put _ _) l d

theorem ticks_endTransfer (now c n : Nat) (out : Bool) (d : Dp) : Ticks d (endTransfer now c n out d) := by
  unfold endTransfer
  dsimp only
  repeat' split
  · exact .refl d
  · exact .setDie rfl rfl
  · exact .setDie rfl rfl
  · exact .setDie rfl rfl

theorem ticks_busStep (now c : Nat) (d : Dp) : Ticks d (busStep now c d) := by
  have given (d : Dp) : Ticks d (if (d.chan c).bus.isSome || (d.chan c).offBus.isSome then d
      else match busNext now d c with
        | none => d
        | some (n, out) => d.setChan c { d.chan c with
            bus := some (n, out, now + transferBytes d c n out * 1000 / max 1 (d.chan c).rate), lastDie := n }) := by
    repeat' split
    · exact .refl d
    · exact .refl d
    · exact .setChan ..
  refine Ticks.trans ?_ (given _)
  repeat' split
  · exact (Ticks.setChan c none (d.chan c).lastDie (d.chan c).opened).trans (ticks_endTransfer ..)
  · exact .refl d
  · exact .refl d

theorem ticks_flushMaint (c n : Nat) (d : Dp) : Ticks d (flushMaint c n d) := by
  unfold flushMaint
  dsimp only
  split
  · exact .refl d
  · refine Ticks.trans ?_ (ticks_puts ..)
    exact .setDie rfl rfl

theorem ticks_launch (e : Env) (c n : Nat) (o : DieOp) (rest : List DieOp) (d : Dp) : Ticks d (launch e c n o rest d) := by
  unfold launch
  dsimp only
  generalize hd : List.foldl _ _ _ = d'
  have sent : Ticks d d' ∧ d'.kiln = d.kiln := by
    rw [← hd]
    refine ⟨Ticks.trans ?_ (ticks_puts ..), (foldl_keeps Dp.kiln (fun d m => ?_) _ _).trans ?_⟩
    · split
      · exact ticks_put ..
      · exact .refl d
    · rfl
    · split <;> rfl
  have same : d'.die c n = d.die c n := by simp [Dp.die, sent.2]
  exact sent.1.trans (.setDie (by rw [same]) (by rw [same]))

theorem ticks_startDie (e : Env) (c n : Nat) (d : Dp) : Ticks d (startDie e c n d) := by
  have ready : Ticks d (if (d.die c n).suspended.isNone && !e.tide then flushMaint c n d else d) := by
    split
    · exact ticks_flushMaint ..
    · exact .refl d
  unfold startDie
  split
  · revert ready
    generalize (if (d.die c n).suspended.isNone && !e.tide then flushMaint c n d else d) = d'
    intro ready
    dsimp only
    repeat' split
    · exact ready
    · exact ready
    · refine ready.trans (Ticks.trans ?_ (ticks_busStep ..))
      refine Ticks.trans ?_ (ticks_launch ..)
      exact .setDie rfl rfl
  · exact .refl d

theorem ticks_startDies (e : Env) (c : Nat) (d : Dp) : Ticks d (startDies e c d) :=
  .foldl (fun d n => ticks_startDie e c n d) _ d

theorem ticks_endSequence (c n : Nat) (d : Dp) : Ticks d (endSequence c n d) := by
  unfold endSequence
  dsimp only
  split
  · exact .refl d
  · exact .setDie rfl rfl

theorem ticks_suspended (e : Env) (c n i : Nat) {d : Dp} {x : Die} (hat : x.zqAt = (d.die c n).zqAt)
    (htj : x.zqTj = (d.die c n).zqTj) :
    Ticks d (startDie e c n (put (.die c n .suspend) (count 4 i 1 (d.setDie c n x)))) := by
  have counted : Ticks (d.setDie c n x) (put (.die c n .suspend) (count 4 i 1 (d.setDie c n x))) := .of_kiln rfl
  exact (Ticks.setDie hat htj).trans (counted.trans (ticks_startDie e c n _))

theorem ticks_trySuspend (e : Env) (c n : Nat) (d : Dp) : Ticks d (trySuspend e c n d) := by
  unfold trySuspend
  split
  · exact .refl d
  · split
    · exact .refl d
    · split
      · exact ticks_endSequence ..
      · split
        · exact (ticks_endSequence c n d).trans (ticks_suspended e c n _ rfl rfl)
        · exact .refl d

theorem ticks_enqueue (e : Env) (c n : Nat) (k : OpKind) (cls : Nat) (d : Dp) : Ticks d (enqueue e c n k cls d) := by
  unfold enqueue enqueueTask
  refine Ticks.trans ?_ (ticks_trySuspend e c n _)
  refine Ticks.trans ?_ (ticks_startDie e c n _)
  exact .setDie rfl rfl

/-! ## Training of a channel (R78, R85 to R88) -/

/-- A channel with the result of its training. -/
def trainedChan (e : Env) (t : TrainStep) (x : Chan) : Chan :=
  { x with
    trained := true, rate := t.rate, training := some t, trainTj := e.tj, driftAt := none, offBus := none, recheck := false }

theorem chan_takeTraining (e : Env) (c : Nat) (t : TrainStep) (d : Dp) :
    (takeTraining e c t d).chan c = trainedChan e t (d.chan c) := by
  unfold takeTraining
  dsimp only
  generalize hd : List.foldl _ d _ = d'
  have same : d'.chan c = d.chan c := by
    rw [← hd]
    refine foldl_keeps (fun d : Dp => d.chan c) (fun d n => ?_) _ _
    rfl
  split
  · rw [chan_of_units (units_of_kiln (logE_kiln ..)), chan_setChan, if_pos rfl, same]
    rfl
  · rw [chan_setChan, if_pos rfl, same]
    rfl

/-- A group that opens keeps what its channels' training came to. -/
theorem ticks_openGroup (e : Env) (g : Nat) (d : Dp) : Ticks d (openGroup e g d) := by
  unfold openGroup
  dsimp only
  split
  · refine Ticks.trans ?_ (.foldl (fun d c => ?_) _ _)
    · exact .of_same rfl rfl
    · split
      · exact (Ticks.setChan c (d.chan c).bus (d.chan c).lastDie true).trans (ticks_startDies ..)
      · exact .refl d
  · exact .refl d

/-- What FLASH_CHANNEL_TRAINED makes of a channel that has not been trained: its training, or its fence. -/
theorem exec_flashChannelTrained_first {s : State} {c : Nat} (l : List TrainStep)
    (hhere : (s.dp.kiln.chans.find c).isSome = true) (hwave : 17 ≤ s.dp.kiln.wave) (hfenced : (s.dp.chan c).fenced = false)
    (htrained : (s.dp.chan c).trained = false) (htide : s.env.tide = false) :
    exec (.flashChannelTrained c l) s = .next (recoveryStage (s.onDp (fun e d => openGroup e (c / 8)
      (match trainedStep e d 4800 l with
      | none => fenceChan e c 3 (d.setChan c { d.chan c with failed := true })
      | some t => takeTraining e c t d)))).work := by
  rw [exec_flashChannelTrained, execFlashChannelTrained]
  dsimp only
  refine (if_neg ?_).trans rfl
  simp [hhere, hfenced, htrained, htide, Nat.not_lt.mpr hwave]

/-! ## Reset waves and the device profile (R81 to R84) -/

/-- The profile and the reset wave. -/
def profileWave (d : Dp) : Profile × Nat := (d.kiln.profile, d.kiln.wave)

theorem profileWave_of_units {d d' : Dp} (h : units d' = units d) : profileWave d' = profileWave d := by
  simp only [units, Prod.mk.injEq] at h
  obtain ⟨hprofile, hwave, -⟩ := h
  unfold profileWave
  rw [hprofile, hwave]

theorem profileWave_fenceChan (e : Env) (c why : Nat) (d : Dp) : profileWave (fenceChan e c why d) = profileWave d := by
  by_cases h : (d.chan c).fenced = true
  · rw [fenceChan, if_pos h]
  · rw [profileWave_of_units (units_fenceChan e why (by simpa using h))]
    rfl

theorem profileWave_fenceDie (e : Env) (c n : Nat) (d : Dp) : profileWave (fenceDie e c n d) = profileWave d :=
  profileWave_of_units (units_fenceDie ..)

/-- A profile that is taken stays through the settling of its dies. -/
theorem profileWave_settleDies (e : Env) (id : Nat) (d : Dp) : profileWave (settleDies e id d) = (profileOf id, d.kiln.wave) := by
  unfold settleDies
  refine (foldl_keeps profileWave (fun d c => ?_) _ _).trans rfl
  dsimp only
  split
  · exact profileWave_fenceChan ..
  · refine (foldl_keeps profileWave (fun d n => ?_) _ _).trans rfl
    split
    · rfl
    · split
      · rfl
      · exact profileWave_fenceDie ..

theorem kiln_takeAnswers (l : List DieAnswer) (s : State) :
    (takeAnswers l s).dp.kiln = { s.dp.kiln with answers := s.dp.kiln.answers ++ l } := by
  refine (foldl_keeps Dp.kiln (fun d a => ?_) _ _).trans rfl
  rfl

theorem kiln_startWave (e : Env) (d : Dp) : (startWave e d).kiln =
    { d.kiln with wave := d.kiln.wave + 1, waveAt := e.now, started := true, floating := false } := by
  refine (foldl_keeps Dp.kiln (fun d i => ?_) _ _).trans rfl
  rfl

theorem matchDies_some {s : State} {id : Nat} (h : deviceProfile s.dp.kiln.answers = some id) :
    ∃ u : State, matchDies s = extendMeas 3 (leBytes 1 id) u ∧ profileWave u.dp = (profileOf id, 17) := by
  unfold matchDies
  simp only [onDp_dp, h]
  exact ⟨_, rfl, profileWave_settleDies ..⟩

theorem matchDies_none {s : State} (h : deviceProfile s.dp.kiln.answers = none) :
    ∃ u : State, matchDies s = safeMode 0x43 u ∧ u.boot = s.boot ∧ u.dp.kiln.answers = s.dp.kiln.answers := by
  unfold matchDies
  simp only [onDp_dp, h]
  exact ⟨_, rfl, rfl, rfl⟩

/-- The answers of a wave's own channels. -/
def waveAnswers (s : State) (l : List DieAnswer) : List DieAnswer := l.filter (fun a => a.chan / 4 + 1 = s.dp.kiln.wave)

theorem exec_kilnResetWave_early {s : State} (l : List DieAnswer) (h : s.clk.time < s.dp.kiln.waveAt + 1000000) :
    exec (.kilnResetWave l) s = .next s := by
  rw [exec_kilnResetWave, execKilnResetWave]
  dsimp only
  refine if_pos ?_
  simp only [Bool.or_eq_true, decide_eq_true_eq]
  exact .inl (.inr (h.trans_le (Nat.add_le_add_left (le_max_left ..) _)))

theorem exec_kilnResetWave_due {s : State} (l : List DieAnswer) (hstarted : s.dp.kiln.started = true)
    (htide : s.env.tide = false) (hwave : s.dp.kiln.wave ≤ 16)
    (h : s.dp.kiln.waveAt + max 1000000 (s.dp.kiln.profile.rstUs * 1000) ≤ s.clk.time) :
    exec (.kilnResetWave l) s = .next (if s.dp.kiln.wave < 16 then (takeAnswers (waveAnswers s l) s).onDp startWave
      else matchDies (takeAnswers (waveAnswers s l) s)) := by
  rw [exec_kilnResetWave, execKilnResetWave]
  dsimp only
  refine (if_neg ?_).trans rfl
  have least : ∀ all : Bool, max 1000000 (if all then 0 else s.dp.kiln.profile.rstUs * 1000) ≤
      max 1000000 (s.dp.kiln.profile.rstUs * 1000) := by
    intro all
    cases all <;> simp
  simp only [hstarted, htide, Bool.not_true, Bool.false_or, Bool.or_false, Bool.or_eq_true, decide_eq_true_eq, not_or,
    Nat.not_lt]
  exact ⟨hwave, (Nat.add_le_add_left (least _) _).trans h⟩

/-- What a wave's answers come to: the next wave, or after the last the device profile. -/
theorem exec_kilnResetWave_next {s : State} (l : List DieAnswer) (hstarted : s.dp.kiln.started = true)
    (htide : s.env.tide = false) (hwave : s.dp.kiln.wave < 16)
    (h : s.dp.kiln.waveAt + max 1000000 (s.dp.kiln.profile.rstUs * 1000) ≤ s.clk.time) :
    ∃ t : State, exec (.kilnResetWave l) s = .next t ∧ t.dp.kiln.wave = s.dp.kiln.wave + 1 ∧
      t.dp.kiln.waveAt = s.clk.time ∧ t.dp.kiln.answers = s.dp.kiln.answers ++ waveAnswers s l := by
  refine ⟨_, (exec_kilnResetWave_due l hstarted htide hwave.le h).trans (by rw [if_pos hwave]), ?_⟩
  rw [onDp_dp, kiln_startWave, kiln_takeAnswers]
  exact ⟨rfl, rfl, rfl⟩

/-! ## Calibration and drift (R85, R88, R90) -/

theorem exec_zqShortCalTimer_due {s : State} {c n : Nat} (hgood : dieGood s.dp c n = true)
    (hruns : kilnRuns s.env s.dp = true) (htide : s.env.tide = false) (hlists : s.dp.kiln.profile.lists .zq = true)
    (hdue : (s.dp.die c n).zqAt + 1000000000 ≤ s.clk.time) :
    exec (.zqShortCalTimer c n) s = .next (s.onDp (fun e d => enqueue e c n (.maintenance .zqShort) 6
      (d.setDie c n { d.die c n with zqAt := e.now, zqTj := e.tj }))) := by
  rw [exec_zqShortCalTimer, execZqShortCalTimer]
  refine if_pos ?_
  have hsecond : (s.dp.die c n).zqAt + second ≤ s.clk.time := hdue
  simp [hgood, hruns, htide, hlists, hsecond]

theorem zq_calibrated (e : Env) (c n : Nat) (d : Dp) :
    let called := d.setDie c n { d.die c n with zqAt := e.now, zqTj := e.tj }
    let x := (enqueue e c n (.maintenance .zqShort) 6 called).die c n
    x.zqAt = e.now ∧ x.zqTj = e.tj := by
  intro called x
  obtain ⟨hat, htj⟩ := (ticks_enqueue e c n (.maintenance .zqShort) 6 called).zq c n
  have read : called.die c n = { d.die c n with zqAt := e.now, zqTj := e.tj } := die_setDie ..
  exact ⟨hat.trans (by rw [read]), htj.trans (by rw [read])⟩

theorem chanGood_fenced {d : Dp} {c : Nat} (h : chanGood d c = true) : (d.chan c).fenced = false := by
  simp only [chanGood, Bool.and_eq_true, Bool.not_eq_true'] at h
  exact h.2

section
variable {s : State} {c : Nat} (l : List TrainStep) (hgood : chanGood s.dp c = true)
  (hruns : kilnRuns s.env s.dp = true) (htide : s.env.tide = false)
include hgood hruns htide

theorem exec_tjDriftRetrain_back (hoff : (s.dp.chan c).offBus.isSome = true) :
    exec (.tjDriftRetrain c l) s = .next (s.onDp (fun e d => endRetrain e c l d)).work := by
  rw [exec_tjDriftRetrain, execTjDriftRetrain]
  simp [hgood, hruns, htide, hoff]

/-- A channel that is due for retraining waits for its class P1 reads, or goes off its bus. -/
theorem exec_tjDriftRetrain_due (hoff : (s.dp.chan c).offBus = none)
    (hdue : 200 < drift s.pwr.tj (s.dp.chan c).trainTj ∨ (s.dp.chan c).recheck = true) :
    exec (.tjDriftRetrain c l) s =
      if (chanReads s.dp c && (s.dp.chan c).driftAt.all (fun t => s.clk.time < t + 10000000)) ||
          (s.dp.chan c).bus.isSome then
        .next { s with dp := s.dp.setChan c { s.dp.chan c with driftAt := some ((s.dp.chan c).driftAt.getD s.clk.time) } }
      else .next { s with dp := put (.die c 0 .train) (s.dp.setChan c { s.dp.chan c with offBus := some s.clk.time }) } := by
  rw [exec_tjDriftRetrain, execTjDriftRetrain]
  have due : retrainDue s c = true := by simpa [retrainDue] using hdue
  simp [hgood, hruns, htide, hoff, due]

end

/-- A retraining that takes a step leaves the channel on its bus at the step's rate. -/
theorem chan_endRetrain_some {e : Env} {c : Nat} {l : List TrainStep} {d : Dp} {t : TrainStep}
    (h : trainedStep e d (if (d.chan c).recheck then 4800 else (d.chan c).rate) l = some t) :
    ((endRetrain e c l d).chan c).rate = t.rate ∧ ((endRetrain e c l d).chan c).trainTj = e.tj ∧
      ((endRetrain e c l d).chan c).offBus = none := by
  unfold endRetrain
  rw [h]
  obtain ⟨b, k, o, hc⟩ := (ticks_startDies e c (count 4 5 1 (takeTraining e c t d))).chan c
  have counted : (count 4 5 1 (takeTraining e c t d)).chan c = trainedChan e t (d.chan c) := chan_takeTraining ..
  dsimp only
  rw [hc, counted]
  exact ⟨rfl, rfl, rfl⟩

theorem chan_endRetrain_none {e : Env} {c : Nat} {l : List TrainStep} {d : Dp} (hfenced : (d.chan c).fenced = false)
    (h : trainedStep e d (if (d.chan c).recheck then 4800 else (d.chan c).rate) l = none) :
    ((endRetrain e c l d).chan c).fenced = true := by
  unfold endRetrain
  rw [h]
  dsimp only
  rw [chan_fenceChan e 2 hfenced]

/-! ## The obligation's parts -/

theorem lastWave (s : State) (l : List DieAnswer) (hstarted : s.dp.kiln.started = true) (htide : s.env.tide = false)
    (hlast : s.dp.kiln.wave = 16)
    (h : s.dp.kiln.waveAt + max 1000000 (s.dp.kiln.profile.rstUs * 1000) ≤ s.clk.time) :
    let a := s.dp.kiln.answers ++ l.filter (fun a => a.chan / 4 + 1 = 16)
    (∀ id, deviceProfile a = some id → ∃ u : State, exec (.kilnResetWave l) s =
      .next (extendMeas 3 (leBytes 1 id) u) ∧ u.dp.kiln.profile = profileOf id ∧ u.dp.kiln.wave = 17) ∧
    (deviceProfile a = none → ∃ u : State, exec (.kilnResetWave l) s = .next (safeMode 0x43 u) ∧
      u.boot = s.boot ∧ u.dp.kiln.answers = a) := by
  intro a
  have matched : exec (.kilnResetWave l) s = .next (matchDies (takeAnswers (waveAnswers s l) s)) := by
    rw [exec_kilnResetWave_due l hstarted htide hlast.le h, if_neg (by omega)]
  have answers : (takeAnswers (waveAnswers s l) s).dp.kiln.answers = a := by
    rw [kiln_takeAnswers, waveAnswers, hlast]
  constructor
  · intro id hid
    obtain ⟨u, hu, hunit⟩ := matchDies_some (answers ▸ hid)
    simp only [profileWave, Prod.mk.injEq] at hunit
    obtain ⟨hprofile, hwave⟩ := hunit
    exact ⟨u, matched.trans (by rw [hu]), hprofile, hwave⟩
  · intro hnone
    obtain ⟨u, hu, hboot, ha⟩ := matchDies_none (answers ▸ hnone)
    exact ⟨u, matched.trans (by rw [hu]), hboot, ha.trans answers⟩

/-- A channel's first training gives it the step taken, or fences it. -/
theorem firstTraining (s : State) (c : Nat) (l : List TrainStep) (hhere : (s.dp.kiln.chans.find c).isSome = true)
    (hwave : 17 ≤ s.dp.kiln.wave) (hfenced : (s.dp.chan c).fenced = false) (htrained : (s.dp.chan c).trained = false)
    (htide : s.env.tide = false) :
    (∀ r, trainedStep s.env s.dp 4800 l = some r → ∃ u : State, exec (.flashChannelTrained c l) s =
        .next (recoveryStage u).work ∧ (u.dp.chan c).trained = true ∧ (u.dp.chan c).rate = r.rate ∧
        (u.dp.chan c).training = some r ∧ (u.dp.chan c).trainTj = s.pwr.tj) ∧
    (trainedStep s.env s.dp 4800 l = none → ∃ u : State, exec (.flashChannelTrained c l) s =
        .next (recoveryStage u).work ∧ (u.dp.chan c).trained = false ∧ (u.dp.chan c).failed = true ∧
        (u.dp.chan c).fenced = true) := by
  have step := exec_flashChannelTrained_first l hhere hwave hfenced htrained htide
  constructor
  · intro r hr
    refine ⟨_, step, ?_⟩
    simp only [onDp_dp, hr]
    obtain ⟨b, k, o, hc⟩ := (ticks_openGroup s.env (c / 8) (takeTraining s.env c r s.dp)).chan c
    rw [hc, chan_takeTraining]
    exact ⟨rfl, rfl, rfl, rfl⟩
  · intro hnone
    refine ⟨_, step, ?_⟩
    simp only [onDp_dp, hnone]
    obtain ⟨b, k, o, hc⟩ :=
      (ticks_openGroup s.env (c / 8) (fenceChan s.env c 3 (s.dp.setChan c { s.dp.chan c with failed := true }))).chan c
    have failed : (s.dp.setChan c { s.dp.chan c with failed := true }).chan c = { s.dp.chan c with failed := true } := by
      rw [chan_setChan, if_pos rfl]
    rw [hc, chan_fenceChan _ _ (by rw [failed]; exact hfenced), failed]
    exact ⟨htrained, rfl, rfl⟩

/-- A channel that has drifted, or failed its check, waits for its reads and then goes off its bus. -/
theorem driftedChannel (s : State) (c : Nat) (l : List TrainStep) (hgood : chanGood s.dp c = true)
    (hruns : kilnRuns s.env s.dp = true) (htide : s.env.tide = false) (hoff : (s.dp.chan c).offBus = none)
    (hdue : 200 < drift s.pwr.tj (s.dp.chan c).trainTj ∨ (s.dp.chan c).recheck = true) :
    (chanReads s.dp c = true → (s.dp.chan c).driftAt = none →
      ∃ t : State, exec (.tjDriftRetrain c l) s = .next t ∧ (t.dp.chan c).driftAt = some s.clk.time ∧
        (t.dp.chan c).offBus = none) ∧
    (chanReads s.dp c = false → (s.dp.chan c).bus = none → ∃ t : State, exec (.tjDriftRetrain c l) s = .next t ∧
      (t.dp.chan c).offBus = some s.clk.time ∧ t.dp.io.out = s.dp.io.out ++ [.die c 0 .train]) := by
  have step := exec_tjDriftRetrain_due l hgood hruns htide hoff hdue
  constructor
  · intro hreads hat
    refine ⟨_, step.trans (if_pos (by simp [hreads, hat])), ?_⟩
    dsimp only
    rw [chan_setChan, if_pos rfl]
    exact ⟨by simp [hat], hoff⟩
  · intro hreads hbus
    refine ⟨_, step.trans (if_neg (by simp [hreads, hbus])), ?_, rfl⟩
    have sent (d : Dp) : (put (.die c 0 .train) d).chan c = d.chan c := rfl
    dsimp only
    rw [sent, chan_setChan, if_pos rfl]

theorem retrainedChannel (s : State) (c : Nat) (l : List TrainStep) (hgood : chanGood s.dp c = true)
    (hruns : kilnRuns s.env s.dp = true) (htide : s.env.tide = false) (hoff : (s.dp.chan c).offBus.isSome = true) :
    let cap := if (s.dp.chan c).recheck then 4800 else (s.dp.chan c).rate
    (∀ r, trainedStep s.env s.dp cap l = some r → ∃ u : State, exec (.tjDriftRetrain c l) s = .next u.work ∧
      (u.dp.chan c).rate = r.rate ∧ (u.dp.chan c).trainTj = s.pwr.tj ∧ (u.dp.chan c).offBus = none) ∧
    (trainedStep s.env s.dp cap l = none → ∃ u : State, exec (.tjDriftRetrain c l) s = .next u.work ∧
      (u.dp.chan c).fenced = true) :=
  have step := exec_tjDriftRetrain_back l hgood hruns htide hoff
  ⟨fun _ hr => ⟨_, step, chan_endRetrain_some hr⟩,
    fun hnone => ⟨_, step, chan_endRetrain_none (chanGood_fenced hgood) hnone⟩⟩

/-- Settles O30: each clause by the lemma of its command; of what follows the training, the opening of the group and the
work of the dies leave the channel's training as it is (`Ticks`). -/
theorem flashBringUpAndCalibration : Obligations.FlashBringUpAndCalibration := by
  unfold Obligations.FlashBringUpAndCalibration
  refine ⟨?_, firstTraining, ?_, ?_, ?_⟩
  · intro s l hstarted htide _
    exact ⟨exec_kilnResetWave_early l, fun hdue => ⟨fun hwave => exec_kilnResetWave_next l hstarted htide hwave hdue,
      fun hlast => lastWave s l hstarted htide hlast hdue⟩⟩
  · intro e d cap l r h
    obtain ⟨hfits, hmem, hok, hbest⟩ := trainedStep_spec h
    obtain ⟨-, -, hwindows, hre, hdqs⟩ := (trainOk_iff r).mp hok
    exact ⟨hfits.step, hmem, hfits.profile, hfits.param, hfits.cap, hwindows, hre, hdqs,
      fun q hq hqok hstep hprofile hparam hcap => hbest q hq hqok ⟨hstep, hprofile, hparam, hcap⟩⟩
  · intro s c n hgood hruns htide hlists hdue
    have step := exec_zqShortCalTimer_due hgood hruns htide hlists hdue
    exact ⟨step, _, step, zq_calibrated ..⟩
  · intro s c l hgood hruns htide
    exact ⟨driftedChannel s c l hgood hruns htide, retrainedChannel s c l hgood hruns htide⟩

end Sys2Proof.Proofs

/-! # Hot-swap insertion (R491, R492, Table 15-3) -/

namespace Sys2Proof.Proofs

open Sys2Proof.Machine Sys2Proof.Laws

/-- The bus's rise is the controller's own: the data path does not see it. -/
@[simp] theorem busRise_dp (busMv : Nat) (s : State) : (busRise busMv s).dp = s.dp := by
  unfold busRise
  (repeat' split) <;> rfl

/-- The gate turned on or off is an output of the device. -/
@[simp] theorem setGate_dp (on : Bool) (s : State) : (setGate on s).dp = put (.gate on) s.dp := rfl

theorem put_ne (o : Output) (d : Dp) : put o d ≠ d := by
  intro h
  have hout : d.io.out ++ [o] = d.io.out := congrArg (fun d : Dp => d.io.out) h
  simp at hout

/-- A supply that rises above 2.5 V with power-on reset held turns the gate on, and that is put out (R492). -/
theorem hotSwapInsertion_dp {s : State} {v : Nat} (b : Nat) (hpor : s.pwr.porHeld = true) (hv : 2500 < v)
    (hinsert : s.pwr.insertAt = none) (hfault : s.pwr.faultAt = none) (hvsup : s.pwr.vsupMv < 2400) :
    ∃ t : State, exec (.hotSwapInsertion v b) s = .next t ∧ t.dp = put (.gate true) s.dp := by
  simp [execHotSwapInsertion, hpor, hinsert, hfault, Nat.not_le.mpr hv, Nat.not_le.mpr hvsup]

/-- The device in its slot before the supply has come: power-on reset is held and the gate is off. -/
def unsupplied : State :=
  { State.reset with pwr := { Pwr.reset with porHeld := true, vinMv := 0, vsupMv := 0, gateOn := false } }

/-- Refutes O40: the clause on an insertion has it leave the whole data path as it is. On `unsupplied`, HS_VSUP at
2,501 mV turns the gate on, and the gate's drive joins the outputs, which the data path holds. -/
theorem not_supplyAndHotSwap : ¬ Obligations.SupplyAndHotSwap := by
  unfold Obligations.SupplyAndHotSwap
  rintro ⟨-, -, -, hinsertion, -⟩
  obtain ⟨t, ht, -, -, -, -, hsame⟩ := hinsertion unsupplied 2501 0 rfl (by decide) rfl rfl (by decide)
  obtain ⟨u, hu, hout⟩ := hotSwapInsertion_dp (s := unsupplied) (v := 2501) 0 rfl (by decide) rfl rfl (by decide)
  obtain rfl : t = u := by simpa [ht] using hu
  exact put_ne _ _ (hout.symm.trans hsame)

end Sys2Proof.Proofs
/-! # Timers of tickets, orders, reads, drills, row gathering and the journal (R146, R197, R202, R205, R206, R256, R262,
R395, R579) -/

namespace Sys2Proof.Proofs

open Sys2Proof.Machine Sys2Proof.Laws

/-! ## Commands that end (R358, Table 10-10) -/

/-- The command of a tag has finished, or the tag is free. -/
def Ended (k : CmdKey) (d : Dp) : Prop := (d.cmd k).all (fun c => c.stage = .finished) = true

/-- Each command stands where it stood, or has finished or gone. -/
structure OnlyEnds (d d' : Dp) : Prop where
  stands : ∀ k, d'.cmd k = d.cmd k ∨ Ended k d'

namespace OnlyEnds
variable {d d' d'' : Dp}

theorem of_vq (h : d'.vq = d.vq) : OnlyEnds d d' := ⟨fun k => .inl (by rw [Dp.cmd, h, ← Dp.cmd])⟩

theorem refl (d : Dp) : OnlyEnds d d := of_vq rfl

theorem trans (h : OnlyEnds d d') (h' : OnlyEnds d' d'') : OnlyEnds d d'' := by
  refine ⟨fun k => ?_⟩
  obtain hk' | hk' := h'.stands k
  · unfold Ended
    rw [hk']
    exact h.stands k
  · exact .inr hk'

theorem ite {c : Prop} [Decidable c] {x y : Dp} (hx : OnlyEnds d x) (hy : OnlyEnds d y) :
    OnlyEnds d (if c then x else y) := by
  split
  · exact hx
  · exact hy

theorem foldl {β : Type} {g : Dp → β → Dp} (h : ∀ d x, OnlyEnds d (g d x)) (l : List β) (d : Dp) :
    OnlyEnds d (l.foldl g d) := by
  induction l generalizing d with
  | nil => exact .refl d
  | cons x t ih => exact (h d x).trans (ih _)

theorem ended (h : OnlyEnds d d') {k : CmdKey} (hk : Ended k d) : Ended k d' := by
  obtain hsame | hend := h.stands k
  · exact (congrArg _ hsame).trans hk
  · exact hend

/-- A queue's record is none of its commands. -/
theorem setQueue (d : Dp) (q : Queue) : OnlyEnds d (d.setQueue q) := ⟨fun _ => .inl rfl⟩

end OnlyEnds

theorem cmd_freeTag (d : Dp) (j k : CmdKey) : (d.freeTag j).cmd k = if k = j then none else d.cmd k := by
  unfold Dp.freeTag Dp.cmd
  dsimp only
  split
  · next h => simp [h]
  · next h =>
    rw [List.find?_filter]
    congr 1
    funext c
    by_cases hc : c.key = k <;> simp [hc, h]

theorem ended_freeTag (d : Dp) (k : CmdKey) : Ended k (d.freeTag k) := by simp [Ended, cmd_freeTag]

theorem onlyEnds_freeTag (d : Dp) (j : CmdKey) : OnlyEnds d (d.freeTag j) := by
  refine ⟨fun k => ?_⟩
  by_cases hk : k = j
  · exact .inr (hk ▸ ended_freeTag d k)
  · exact .inl ((cmd_freeTag ..).trans (if_neg hk))

/-- A command whose record waits to be posted. -/
def finishedCmd (c : Cmd) : Cmd := { c with stage := .finished }

theorem ended_finish (d : Dp) (k : CmdKey) : Ended k (d.onCmd k finishedCmd) := by
  unfold Ended
  rw [cmd_onCmd _ _ (f := finishedCmd) (fun _ => rfl)]
  cases d.cmd k <;> rfl

theorem onlyEnds_finish (d : Dp) (j : CmdKey) : OnlyEnds d (d.onCmd j finishedCmd) := by
  refine ⟨fun k => ?_⟩
  by_cases hk : k = j
  · subst hk
    exact .inr (ended_finish d k)
  · left
    unfold Dp.onCmd Dp.cmd
    dsimp only
    rw [find_updateWhere _ _ finishedCmd _ (fun _ => rfl)]
    cases h : d.vq.cmds.find? (fun c => c.key = k) with
    | none => rfl
    | some c =>
      have hkey : c.key = k := by simpa using List.find?_some h
      simp [hkey, hk]

@[simp] theorem msix_vq (e : Env) (p : PortId) (v : Nat) (d : Dp) : (msix e p v d).vq = d.vq := by
  simp [msix, apply_ite Dp.vq]

theorem SameButRing.vq {d d' : Dp} (h : SameButRing d d') : d'.vq = d.vq := by
  obtain ⟨_, _, rfl⟩ := h
  rfl

@[simp] theorem askDrop_vq (e : Env) (t : HTicket) (d : Dp) : (askDrop e t d).vq = d.vq := by
  unfold askDrop
  split
  · rfl
  · exact (sameButRing_send ..).vq

@[simp] theorem giveUpTicket_vq (e : Env) (t : HTicket) (d : Dp) : (giveUpTicket e t d).vq = d.vq := by
  unfold giveUpTicket
  split <;> simp

section
variable (e : Env) (d : Dp)

theorem onlyEnds_signalQueue (p : PortId) (q : Nat) : OnlyEnds d (signalQueue e p q d) :=
  (OnlyEnds.setQueue d _).trans (.of_vq (msix_vq ..))

theorem onlyEnds_coalesce (p : PortId) (q : Nat) (froze : Bool) : OnlyEnds d (coalesce e p q froze d) :=
  .ite (.setQueue ..) (.ite ((OnlyEnds.setQueue d _).trans (onlyEnds_signalQueue ..)) (.setQueue ..))

theorem onlyEnds_postOne (p : PortId) (q : Nat) : OnlyEnds d (postOne e p q d) := by
  unfold postOne
  dsimp only
  split
  · exact .refl d
  · refine .ite (OnlyEnds.trans ?_ (onlyEnds_coalesce ..)) (.ite (.refl d) (.of_vq (onPort_vq ..)))
    exact OnlyEnds.trans (.of_vq (put_vq _ d)) ((OnlyEnds.setQueue ..).trans (onlyEnds_freeTag ..))

theorem onlyEnds_postAll (p : PortId) (q : Nat) : OnlyEnds d (postAll e p q d) :=
  .foldl (fun d _ => onlyEnds_postOne e d p q) _ d

theorem onlyEnds_counted (ss i n code sev src : Nat) (a : List Nat) :
    OnlyEnds d (count ss i n (logE e code sev src a d)) := .of_vq ((count_vq ..).trans (logAt_vq ..))

/-- The end of a command ends it, and no command begins by it. -/
theorem endCmd_ends (k : CmdKey) (status detail lba : Nat) (froze : Bool) :
    OnlyEnds d (endCmd e k status detail lba froze d) ∧ Ended k (endCmd e k status detail lba froze d) := by
  have hforget : OnlyEnds d (forget k d) := .of_vq rfl
  unfold endCmd
  split
  · next h => exact ⟨.refl d, by simp [Ended, h]⟩
  · dsimp only
    split
    · exact ⟨hforget.trans (onlyEnds_freeTag ..), ended_freeTag ..⟩
    · next c _ _ =>
      have hpost (x : Dp) : OnlyEnds x (postAll e k.port k.queue (count 2 0 1 x)) :=
        OnlyEnds.trans (.of_vq (count_vq ..)) (onlyEnds_postAll ..)
      exact ⟨hforget.trans ((OnlyEnds.setQueue ..).trans ((onlyEnds_finish ..).trans (hpost _))),
        (hpost _).ended (ended_finish ..)⟩

/-- Completing a command ends it; with a freeze others of its queue end too (Table 10-10). -/
theorem complete_ends (k : CmdKey) (status detail lba : Nat) :
    OnlyEnds d (complete e k status detail lba d) ∧ Ended k (complete e k status detail lba d) := by
  unfold complete
  split
  · next h => exact ⟨.refl d, by simp [Ended, h]⟩
  · next c h =>
    split
    · next hfin => exact ⟨.refl d, by simp [Ended, h, hfin]⟩
    · dsimp only
      split
      · obtain ⟨hends, hended⟩ := endCmd_ends e (d.setQueue { d.queueD k.port k.queue with
          st := .frozen, errTag := k.tag, errStatus := status }) k status detail lba true
        have hothers (x : Dp) (l : List CmdKey) : OnlyEnds x (l.foldl (fun d j => endCmd e j stQueueFrozen 0 0 false d) x) :=
          .foldl (fun d _ => (endCmd_ends e d _ _ _ _ _).1) l x
        have htold (x : Dp) (q : Queue) (a : List Nat) : OnlyEnds x
            (count 2 2 1 (logE e 0x0202 2 srcHost a (signalQueue e k.port k.queue (writeQstatus e q x)))) :=
          OnlyEnds.trans (.ite (.of_vq (put_vq ..)) (.refl x)) ((onlyEnds_signalQueue ..).trans (onlyEnds_counted ..))
        have hrest (x : Dp) (l : List CmdKey) (q : Queue) (a : List Nat) := (hothers x l).trans (htold _ q a)
        exact ⟨(OnlyEnds.setQueue ..).trans (hends.trans (hrest ..)), (hrest ..).ended hended⟩
      · exact endCmd_ends ..

/-- A command that fails has ended, and no command begins by it. -/
theorem failCmd_ends (k : CmdKey) (status idx : Nat) :
    OnlyEnds d (failCmd e k status idx d) ∧ Ended k (failCmd e k status idx d) := by
  unfold failCmd
  split
  · next h => exact ⟨.refl d, by simp [Ended, h]⟩
  · have htickets (l : List HTicket) : OnlyEnds d (l.foldl (fun d t => giveUpTicket e t
        (d.onHticket t.id (fun t => { t with parts := t.parts.filter (fun x => x.key != k) }))) d) :=
      .foldl (fun d t => .of_vq ((giveUpTicket_vq ..).trans (onHticket_vq ..))) l d
    obtain ⟨hends, hended⟩ := complete_ends e _ k status _ _
    exact ⟨(htickets _).trans hends, hended⟩

/-- Of commands that fail one after another, each has ended. -/
theorem ended_failCmds (status idx : Nat) {l : List CmdKey} {k : CmdKey} (hk : k ∈ l) :
    Ended k (l.foldl (fun d k => failCmd e k status idx d) d) := by
  induction l generalizing d with
  | nil => exact absurd hk (by simp)
  | cons j t ih =>
    obtain rfl | ht := List.mem_cons.mp hk
    · exact (OnlyEnds.foldl (fun d j => (failCmd_ends e d j status idx).1) t _).ended (failCmd_ends ..).2
    · exact ih _ ht

end

theorem not_running_of_ended {k : CmdKey} {d : Dp} (h : Ended k d) : (d.cmd k).all (fun c => c.stage != .running) = true := by
  unfold Ended at h
  cases hc : d.cmd k with
  | none => rfl
  | some c =>
    have hfin : c.stage = .finished := by simpa [hc] using h
    simp [hfin]

/-! ## The answer to an order (R382, R395) -/

/-- A mailbox's response ends its request. -/
theorem request_respond (e : Env) {m : Mbx} (st det : Nat) (pl : List Byte) {d : Dp} {r : MbReq}
    (h : d.request m = some r) : (respond e m st det pl d).request m = none := by
  have hbox := box_of_request h
  cases m with
  | mgmt =>
    have hend := mail_onMail d .mgmt (fun x => { x with request := none, busy := false }) (fun _ => rfl) hbox
    simp only [respond, h]
    rw [Dp.request, mail_congr (put_mb ..), hend]
  | host p n =>
    unfold Dp.request
    rw [mail_respond_host e p n st det pl h]
    rfl

/-- The data path once an order is forwarded no longer, with commands `cs`. -/
def unforward (o : Order) (cs : List Cmd) (d : Dp) : Dp :=
  { d with
    sh := { d.sh with forwarded := d.sh.forwarded.filter (fun x => !sameOrder x.1 o) }
    vq := { d.vq with cmds := cs } }

/-- An order that failed is answered in the mailbox that waits for it, where one does. -/
theorem answerOrder_failed (e : Env) (o : Order) {st : Nat} (det : Nat) (pl : List Byte) (d : Dp) (hst : st ≠ msSuccess) :
    ∃ cs : List Cmd, answerOrder e o st det pl d =
      (waiter d o).elim (unforward o cs d) (fun m => respond e m st det pl (unforward o cs d)) := by
  have hw (fs : List (Order × Nat × Nat)) (cs : List Cmd) :
      waiter { d with sh := { d.sh with forwarded := fs }, vq := { d.vq with cmds := cs } } o = waiter d o := rfl
  unfold answerOrder
  simp only [hst, hw, decide_false, Bool.false_and, Bool.false_eq_true, if_false]
  cases waiter d o with
  | none => exact ⟨_, rfl⟩
  | some m => exact ⟨_, rfl⟩

@[simp] theorem causePort_sh (e : Env) (bit : Nat) (p : PortId) (d : Dp) : (causePort e bit p d).sh = d.sh :=
  (causePort_frame e bit p d).2.1

@[simp] theorem respond_sh (e : Env) (m : Mbx) (st det : Nat) (pl : List Byte) (d : Dp) :
    (respond e m st det pl d).sh = d.sh := by
  unfold respond
  split
  · rfl
  · cases m with
    | mgmt => rfl
    | host p n =>
      dsimp only
      split <;> simp

/-- An order that failed is no longer forwarded, and the request that waited for it has ended. -/
theorem answerOrder_ends (e : Env) (o : Order) {st : Nat} (det : Nat) (pl : List Byte) (d : Dp) (hst : st ≠ msSuccess) :
    (answerOrder e o st det pl d).sh.forwarded.any (fun y => sameOrder y.1 o) = false ∧
    ∀ m r, waiter d o = some m → d.request m = some r → ((answerOrder e o st det pl d).mail m).request = none := by
  obtain ⟨cs, hans⟩ := answerOrder_failed e o det pl d hst
  rw [hans]
  refine ⟨?_, fun m r hm hr => ?_⟩
  · cases waiter d o <;> simp [unforward]
  · rw [hm]
    exact request_respond e (d := unforward o cs d) st det pl hr

/-! ## Gathered rows, the journal and the strand (R146, R197, R205, R206) -/

theorem updateWhere_length {α : Type} (p : α → Bool) (f : α → α) (l : List α) : (updateWhere p f l).length = l.length := by
  simp [updateWhere]

/-- New tickets of the head join those there are; rows that gather are none of them. -/
theorem makeTickets_grows (pool gen row flags key size : Nat) (parts : List Part) (d : Dp) :
    (makeTickets pool gen row flags key size parts d).sh.gathers = d.sh.gathers ∧
    d.sh.htickets.length ≤ (makeTickets pool gen row flags key size parts d).sh.htickets.length := by
  unfold makeTickets
  generalize rects (iuOf d pool) parts = l
  induction l generalizing d with
  | nil => exact ⟨rfl, Nat.le_refl _⟩
  | cons r t ih =>
    refine ⟨(ih _).1.trans rfl, Nat.le_trans ?_ (ih _).2⟩
    simp [Dp.onHticket, ownTicket, updateWhere_length]

theorem closeGather_closes (g : Gather) (d : Dp) :
    g ∉ (closeGather g d).sh.gathers ∧ d.sh.htickets.length ≤ (closeGather g d).sh.htickets.length := by
  obtain ⟨hgathers, hlen⟩ := makeTickets_grows g.pool g.gen g.row 0 0 0 g.parts
    { d with sh := { d.sh with gathers := d.sh.gathers.filter (fun x => x != g) } }
  unfold closeGather
  rw [hgathers]
  exact ⟨by simp, hlen⟩

theorem groupMax_le_cutAt (l : List JRec) : 64 ≤ cutAt l := by
  have hmax : groupMax = 64 := rfl
  unfold cutAt
  dsimp only
  split <;> omega

/-- A pool's group closed with a standby: what was cut goes to it and is kept until acknowledged (R205). -/
theorem closeGroup_sends (e : Env) {pool k : Nat} {d : Dp} (hrole : (d.roleD pool).role = .steward)
    (hgroup : (d.roleD pool).group ≠ []) (hk : (d.roleD pool).standby = some k) :
    ((closeGroup e pool d).roleD pool).group = (d.roleD pool).group.drop (cutAt (d.roleD pool).group) ∧
    ((closeGroup e pool d).roleD pool).sent =
      (d.roleD pool).sent ++ [(d.roleD pool).group.take (cutAt (d.roleD pool).group)] := by
  cases h : d.role pool with
  | none => exact absurd hrole (by simp [Dp.roleD, h, freshRole])
  | some x =>
    rw [roleD_of_role h] at hrole hgroup hk ⊢
    have hpool : pool = x.pool := by simpa [eq_comm] using List.find?_some h
    have hopen : (decide (x.role = .steward) && !x.group.isEmpty) = true := by simp [hrole, hgroup]
    simp only [closeGroup, h, hopen, hk, if_true]
    rw [(sameButRing_send ..).roleD, roleD_setRole, if_pos hpool]
    exact ⟨rfl, rfl⟩

theorem openRow_sh {e : Env} {u : RowUse} {worn : Bool} {d : Dp} {z : Dp × Nat} (h : openRow e u worn d = some z) :
    z.1.sh = d.sh := by
  unfold openRow at h
  dsimp only at h
  split at h
  · cases h
  · split at h
    · cases h
      rfl
    · cases h

theorem rowFor_sh {e : Env} {u : RowUse} {worn : Bool} {d : Dp} {z : Dp × Nat} (h : rowFor e u worn d = some z) :
    z.1.sh = d.sh := by
  unfold rowFor at h
  split at h
  · cases h
    rfl
  · split at h
    · cases h
    · exact openRow_sh h

@[simp] theorem putCw_sh (e : Env) (id : Nat) (a : As) (x : Codeword) (d : Dp) : (putCw e id a x d).sh = d.sh := rfl

@[simp] theorem stageCws_sh (e : Env) (u : RowUse) (a : As) (l : List Codeword) (d : Dp) : (stageCws e u a l d).1.sh = d.sh := by
  induction l generalizing d with
  | nil => rfl
  | cons x t ih =>
    unfold stageCws
    split
    · exact ih d
    · next h => exact (ih _).trans (rowFor_sh h)

@[simp] theorem putFill_sh (e : Env) (id : Nat) (a : As) (n : Nat) (d : Dp) : (putFill e id a n d).sh = d.sh := by
  induction n generalizing d with
  | zero => rfl
  | succ n ih => exact ih _

@[simp] theorem fillPage_sh (e : Env) (id : Nat) (a : As) (d : Dp) : (fillPage e id a d).sh = d.sh := by
  unfold fillPage
  split <;> simp

/-- Items staged for a strand change the medium; what the shoal knows stays. -/
@[simp] theorem stageItems_sh (e : Env) (u : RowUse) (l : List StrandItem) (d : Dp) : (stageItems e u l d).sh = d.sh := by
  unfold stageItems
  split
  · rfl
  · dsimp only
    split
    · split <;> simp
    · simp

@[simp] theorem stageJournal_sh (e : Env) (pool : Nat) (d : Dp) : (stageJournal e pool d).sh = d.sh := stageItems_sh ..

/-! ## The timers at their time -/

theorem sticket_onSticket (d : Dp) (pool q : Nat) {f : STicket → STicket}
    (hf : ∀ t, (f t).pool = t.pool ∧ (f t).seqn = t.seqn) :
    (d.onSticket pool q f).sticket pool q = (d.sticket pool q).map f := by
  unfold Dp.onSticket Dp.sticket
  dsimp only
  rw [find_updateWhere _ _ f _ (fun t => by rw [(hf t).1, (hf t).2])]
  cases h : d.sh.stickets.find? (fun t => t.pool = pool && t.seqn = q) with
  | none => rfl
  | some t =>
    have ht := List.find?_some h
    simp only [Option.map_some, ht, if_true]

/-- A ticket for which the members that have not reported count missing (R202). -/
def withMissing (t : STicket) : STicket := { t with missing := t.missing ||| t.writers }

/-- STRIPE_TIMEOUT of a granted ticket whose head is not lost (R202). -/
theorem exec_stripeTimeout_due {s : State} {pool q : Nat} {t : STicket} {p : PoolRec}
    (ht : s.dp.sticket pool q = some t) (hp : s.dp.sh.reg.pool pool = some p) (hsteward : isSteward s.dp pool = true)
    (hgranted : t.granted = true) (hclosed : t.closed = false)
    (hdue : t.grantedAt + s.param 0x0603 * 1000000 ≤ s.clk.time)
    (hhead : t.head = noHead ∨ present s.env s.dp t.head = true) :
    exec (.stripeTimeout pool q) s = .next (s.onDp (fun _ d => d.onSticket pool q withMissing)).work := by
  have htime : t.grantedAt + stripeTime s.env s.dp ≤ s.env.now := hdue
  have hpresent : present s.env (s.dp.onSticket pool q withMissing) t.head = present s.env s.dp t.head := rfl
  have hkept : (t.head != noHead && !present s.env (s.dp.onSticket pool q withMissing) t.head) = false := by
    rw [hpresent]
    obtain h | h := hhead <;> simp [h]
  unfold withMissing at hkept
  simp only [exec_stripeTimeout, execStripeTimeout, State.onDp, ht, hp, hsteward, hgranted, hclosed, htime, hkept,
    Bool.not_false, decide_true, Bool.and_self, Bool.false_and, Bool.false_eq_true, if_true, if_false]
  rfl

theorem stripeTimeout_marksMissing (s : State) (pool q : Nat) (t : STicket) (p : PoolRec)
    (ht : s.dp.sticket pool q = some t) (hp : s.dp.sh.reg.pool pool = some p) (hsteward : isSteward s.dp pool = true)
    (hgranted : t.granted = true) (hclosed : t.closed = false)
    (hdue : t.grantedAt + s.param 0x0603 * 1000000 ≤ s.clk.time)
    (hhead : t.head = noHead ∨ present s.env s.dp t.head = true) :
    ∃ u : State, exec (.stripeTimeout pool q) s = .next u.work ∧
      u.dp.sticket pool q = some { t with missing := t.missing ||| t.writers } ∧ u.dp.sh.reg = s.dp.sh.reg := by
  refine ⟨_, exec_stripeTimeout_due ht hp hsteward hgranted hclosed hdue hhead, ?_, rfl⟩
  rw [onDp_dp, sticket_onSticket _ _ _ (f := withMissing) (fun _ => ⟨rfl, rfl⟩), ht]
  rfl

/-- NO_STEWARD_TIMEOUT: each waiting write of the pool ends (R256). -/
theorem noStewardTimeout_fails (s : State) (pool : Nat) (hnone : stewardOf s.env s.dp pool = none)
    (hdue : (s.dp.sh.noSteward.find pool).any (fun t => t + s.param 0x0603 * 1000000 ≤ s.clk.time) = true) :
    exec (.noStewardTimeout pool) s = .next (s.onDp (fun e d =>
      (stewardless d pool).foldl (fun d k => failCmd e k stPoolReadOnly 0 d) d)).work ∧
    ∀ k ∈ stewardless s.dp pool, ∃ u : State, exec (.noStewardTimeout pool) s = .next u.work ∧
      (u.dp.cmd k).all (fun c => c.stage != .running) = true := by
  have htime : (s.dp.sh.noSteward.find pool).any (fun t => t + stripeTime s.env s.dp ≤ s.env.now) = true := hdue
  have step : exec (.noStewardTimeout pool) s = .next (s.onDp (fun e d =>
      (stewardless d pool).foldl (fun d k => failCmd e k stPoolReadOnly 0 d) d)).work := by
    simp only [exec_noStewardTimeout, execNoStewardTimeout, State.onDp, hnone, htime, Option.isNone_none, Bool.and_self,
      if_true]
  exact ⟨step, fun k hk => ⟨_, step, not_running_of_ended (ended_failCmds _ _ _ _ hk)⟩⟩

/-- REGISTRY_STEWARD_TIMEOUT: the order is answered with NO_STEWARD (R258, R395). -/
theorem registryStewardTimeout_answers (s : State) (a b : BitVec 32) (x : Order × Nat × Nat)
    (hx : s.dp.sh.forwarded.find? (fun x => x.1.session = a && x.1.token = b && x.1.port != ownPort) = some x)
    (hdue : x.2.1 + s.param 0x0603 * 1000000 ≤ s.clk.time) :
    exec (.registryStewardTimeout a b) s = .next (s.onDp (fun e => answerOrder e x.1 msNoSteward 0 [])).work ∧
    (∃ u : State, exec (.registryStewardTimeout a b) s = .next u.work ∧
      u.dp.sh.forwarded.any (fun y => sameOrder y.1 x.1) = false) ∧
    (∀ m r, waiter s.dp x.1 = some m → s.dp.request m = some r → ∃ u : State,
      exec (.registryStewardTimeout a b) s = .next u.work ∧ (u.dp.mail m).request = none) := by
  have htime : x.2.1 + stripeTime s.env s.dp ≤ s.env.now := hdue
  have step : exec (.registryStewardTimeout a b) s =
      .next (s.onDp (fun e => answerOrder e x.1 msNoSteward 0 [])).work := by
    simp only [exec_registryStewardTimeout, execRegistryStewardTimeout, State.onDp, hx, htime, if_true]
  obtain ⟨hgone, hended⟩ := answerOrder_ends s.env x.1 (st := msNoSteward) 0 [] s.dp (by decide)
  exact ⟨step, ⟨_, step, hgone⟩, fun m r hm hr => ⟨_, step, hended m r hm hr⟩⟩

/-- A unit that a rebuild wanted of a holder counts lost for it: by its number, or as the holder's copy in a check of
mirrors. -/
theorem loseUnit_rebuild (e : Env) {x : Fetch} {j : Nat} (d : Dp) (hj : x.purpose = .rebuild j) (hrank : x.rank ≠ noRank) :
    loseUnit e x d = d.onRebuild j (fun k => { k with
      lost := addNew (if k.unit != mirrorCheck then x.unit else holderTag x.rank x.localBlk) k.lost }) := by
  simp only [loseUnit, hj, bne_iff_ne.mpr hrank, if_true]

/-- READ_REQUEST_TIMEOUT: the unit counts lost, and the fetch is over (R579). -/
theorem readRequestTimeout_loses (s : State) (r : Rank) (pool lb : Nat) (x : Fetch)
    (hx : s.dp.sh.fetches.find? (fun x => x.queued && x.rank = r.val && x.rank != s.env.rank && x.pool = pool &&
      x.localBlk = lb && x.sentAt + 10000000 ≤ s.clk.time) = some x) :
    exec (.readRequestTimeout r pool lb) s = .next (s.onDp (fun e d => loseUnit e x (d.dropFetch x))).work ∧
    ∀ j : Nat, x.purpose = .rebuild j → ∃ u : State, exec (.readRequestTimeout r pool lb) s = .next u.work ∧
      u.dp.sh.fetches = (s.dp.dropFetch x).sh.fetches ∧
      let gone : Rebuild → Nat := fun k => if k.unit != mirrorCheck then x.unit else holderTag x.rank x.localBlk
      u.dp.sh.rebuilds = (s.dp.onRebuild j (fun k => { k with lost := addNew (gone k) k.lost })).sh.rebuilds := by
  have hfind : s.dp.sh.fetches.find? (fun x => x.queued && x.rank = r.val && x.rank != s.env.rank && x.pool = pool &&
      x.localBlk = lb && x.sentAt + 10 * msec ≤ s.env.now) = some x := hx
  have step : exec (.readRequestTimeout r pool lb) s =
      .next (s.onDp (fun e d => loseUnit e x (d.dropFetch x))).work := by
    simp only [exec_readRequestTimeout, execReadRequestTimeout, State.onDp, hfind]
  have hrank : x.rank ≠ noRank := by
    have hfound := List.find?_some hx
    simp only [Bool.and_eq_true, decide_eq_true_eq] at hfound
    obtain ⟨⟨⟨⟨⟨-, hr⟩, -⟩, -⟩, -⟩, -⟩ := hfound
    have hlt : r.val < 16 := r.isLt
    have h255 : noRank = 255 := rfl
    omega
  refine ⟨step, fun j hj => ⟨_, step, ?_⟩⟩
  rw [onDp_dp, loseUnit_rebuild _ _ hj hrank]
  exact ⟨rfl, rfl⟩

/-- DRILL_REPLY_TIMEOUT: a rank that has not answered the standby 5 ms after it was asked is marked (R262). -/
theorem drillReplyTimeout_marks (s : State) (r : Rank) (k : Drill) (hdrill : s.dp.sh.drill = some k)
    (horder : k.order = none) (hdue : k.stepAt + 5000000 ≤ s.clk.time) (hasked : k.asked.testBit r.val = true)
    (haccepted : k.accepted.testBit r.val = false) :
    ∃ u : State, exec (.drillReplyTimeout r) s = .next u.work ∧
      u.dp.sh.drill = some { k with noReply := k.noReply ||| 2 ^ r.val } := by
  have htime : k.stepAt + 5 * msec ≤ s.env.now := hdue
  refine ⟨s.onDp (fun _ d => { d with sh := { d.sh with drill := some { k with noReply := k.noReply ||| 2 ^ r.val } } }),
    ?_, rfl⟩
  simp only [exec_drillReplyTimeout, execDrillReplyTimeout, State.onDp, hdrill, horder, htime, hasked, haccepted,
    Option.isNone_none, Bool.not_false, decide_true, Bool.and_self, if_true]

/-- ROW_GATHER_EXPIRY: the row closes and asks for its tickets (R197). -/
theorem rowGatherExpiry_closes (s : State) (pool row : Nat) (g : Gather)
    (hg : s.dp.sh.gathers.find? (fun g => g.pool = pool && g.row = row &&
      g.since + s.param 0x0602 * 1000 ≤ s.clk.time) = some g) :
    exec (.rowGatherExpiry pool row) s = .next (s.onDp (fun _ => closeGather g)).work ∧
    ∃ u : State, exec (.rowGatherExpiry pool row) s = .next u.work ∧ g ∉ u.dp.sh.gathers ∧
      s.dp.sh.htickets.length ≤ u.dp.sh.htickets.length := by
  have hfind : s.dp.sh.gathers.find? (fun g => g.pool = pool && g.row = row &&
      g.since + s.env.param s.dp 0x0602 * usec ≤ s.env.now) = some g := hg
  have step : exec (.rowGatherExpiry pool row) s = .next (s.onDp (fun _ => closeGather g)).work := by
    simp only [exec_rowGatherExpiry, execRowGatherExpiry, State.onDp, hfind]
  exact ⟨step, _, step, closeGather_closes g s.dp⟩

/-- JOURNAL_GROUP_CLOSE: the group closes, and goes to the standby where the pool has one (R205). -/
theorem journalGroupClose_closes (s : State) (pool : Nat) (hrole : (s.dp.roleD pool).role = .steward)
    (hgroup : (s.dp.roleD pool).group ≠ []) (hdue : (s.dp.roleD pool).groupAt + 20000 ≤ s.clk.time) :
    let x := s.dp.roleD pool
    exec (.journalGroupClose pool) s = .next (s.onDp (fun e => closeGroup e pool)).work ∧
    ∀ k, x.standby = some k → ∃ u : State, exec (.journalGroupClose pool) s = .next u.work ∧
      (u.dp.roleD pool).group = x.group.drop (cutAt x.group) ∧
      (u.dp.roleD pool).sent = x.sent ++ [x.group.take (cutAt x.group)] ∧ (x.group.length ≤ 64 →
        (u.dp.roleD pool).group = []) := by
  intro x
  have htime : x.groupAt + 20 * usec ≤ s.env.now := hdue
  have hopen : (decide (x.role = .steward) && !x.group.isEmpty && decide (x.groupAt + 20 * usec ≤ s.env.now)) = true := by
    simp [x, hrole, hgroup, htime]
  have step : exec (.journalGroupClose pool) s = .next (s.onDp (fun e => closeGroup e pool)).work := by
    simp only [exec_journalGroupClose, execJournalGroupClose, State.onDp]
    rw [if_pos hopen]
  refine ⟨step, fun k hk => ?_⟩
  obtain ⟨hleft, hsent⟩ := closeGroup_sends s.env hrole hgroup hk
  refine ⟨_, step, hleft, hsent, fun hshort => hleft.trans ?_⟩
  exact List.drop_eq_nil_of_le (Nat.le_trans hshort (groupMax_le_cutAt _))

/-- JOURNAL_STRAND_PROGRAMMED: the records the strand does not hold yet go to it; the tail keeps them, and a strand that
runs low asks for an anchor (R146, R206). -/
theorem journalStrandProgrammed_stages (s : State) (pool : Nat) (x : PRole) (hx : s.dp.role pool = some x)
    (htail : x.tail ≠ []) (htide : s.env.tide = false) (hready : s.boot.ready = true) :
    let d := stageJournal s.env pool s.dp
    (strandFree d .journalStrand < strandLow →
      exec (.journalStrandProgrammed pool) s = .next (s.onDp (fun e _ => askAnchors e d)).work) ∧
    (strandLow ≤ strandFree d .journalStrand →
      ∃ u : State, exec (.journalStrandProgrammed pool) s = .next u.work ∧ u.dp = d ∧ d.sh.roles = s.dp.sh.roles) := by
  intro d
  have hgoes : (s.env.tide || !s.env.ready || ((s.dp.role pool).elim [] PRole.tail).isEmpty) = false := by
    have : s.env.ready = true := hready
    simp [htide, this, hx, htail]
  have step : exec (.journalStrandProgrammed pool) s =
      .next (s.onDp (fun e _ => if strandFree d .journalStrand < strandLow then askAnchors e d else d)).work := by
    simp only [exec_journalStrandProgrammed, execJournalStrandProgrammed, State.onDp, hgoes, Bool.false_eq_true, if_false]
    rfl
  refine ⟨fun hlow => ?_, fun hroom => ⟨_, step, ?_, by rw [stageJournal_sh]⟩⟩
  · simp only [step, State.onDp, if_pos hlow]
  · exact if_neg (Nat.not_lt.mpr hroom)

/-- Settles O29, clause by clause from the timers above. -/
theorem ticketAndOrderTimers : Obligations.TicketAndOrderTimers := by
  unfold Obligations.TicketAndOrderTimers
  exact ⟨stripeTimeout_marksMissing, noStewardTimeout_fails, registryStewardTimeout_answers, readRequestTimeout_loses,
    drillReplyTimeout_marks, rowGatherExpiry_closes, journalGroupClose_closes, journalStrandProgrammed_stages⟩

end Sys2Proof.Proofs

/-! # The state after reset, and GUARD (R164, R181, R483, R517, R536) -/

namespace Sys2Proof.Proofs

open Sys2Proof.Machine Sys2Proof.Laws

/-! ## Reset -/

/-- A table that lists each of its keys' own defaults reads the default at every key. -/
theorem get_tabOf {α : Type} (k : Nat) (f : Nat → α) (n : Nat) : Tab.get (f n) (tabOf k f) n = f n := by
  unfold tabOf
  induction List.range k with
  | nil => rfl
  | cons i l ih =>
    simp only [List.map_cons, Tab.get, ih]
    split
    · next h => rw [h]
    · rfl

/-- A bank that stands with its owner of Table 14-4 and does not move is as it may be (R483). -/
theorem bankOk_home {n : Nat} {x : Pad} (ho : x.owner = padOwner n) (hm : x.moving = none) : bankOk n x := by
  unfold bankOk
  split
  · next h =>
    refine ⟨?_, by simp [hm]⟩
    rw [ho]
    unfold movableBank at h
    simp only [Bool.or_eq_true, Bool.and_eq_true, decide_eq_true_eq] at h
    unfold padOwner Owner.staging
    rcases h with (⟨h20, h24⟩ | h26) | h27
    · simp [h24, show ¬ n < 12 by omega]
    · simp [h26]
    · simp [h27]
  · exact ⟨ho, hm⟩

/-- Settles O44: every unit of the invariant stands at its reset value. -/
theorem resetMeetsTheInvariant : Obligations.ResetMeetsTheInvariant where
  windows := ⟨⟨.nil, by simp [State.reset]⟩, ⟨.nil, by simp [State.reset]⟩⟩
  banks n := by
    rw [State.pad, show State.reset.pads.banks = tabOf 32 Pad.reset from rfl, get_tabOf]
    exact bankOk_home rfl rfl
  arms := .nil
  gap := (by decide : 0 < 64)
  ready h := by cases h

/-! ## GUARD (R164) -/

/-- The model's polynomial is the reflection of the one that R164 prints. -/
theorem guardPoly_reversed : (0x42F0E1EBA9EA3693#64).reverse = 0xC96C5795D7870F42#64 := by decide +kernel

/-- One byte of a reflected CRC is eight steps of its register, once the byte is added. -/
theorem crcByte_eq_foldl {w : Nat} (poly c : BitVec w) (b : Byte) :
    crcByte poly c b = (List.range 8).foldl (fun c _ => crcStep poly c) (c ^^^ b.setWidth w) := rfl

/-- The final XOR taken back gives the register before it. -/
theorem guard64_register (l : List Byte) :
    guard64 l ^^^ BitVec.allOnes 64 = l.foldl (crcByte (0xC96C5795D7870F42#64)) (BitVec.allOnes 64) := by
  rw [guard64, BitVec.xor_assoc, BitVec.xor_self, BitVec.xor_zero]

/-- GUARD with one more byte: the byte goes into the register of the bytes before it. -/
theorem guard64_append_byte (l : List Byte) (b : Byte) : guard64 (l ++ [b]) =
    crcByte (0xC96C5795D7870F42#64) (guard64 l ^^^ BitVec.allOnes 64) b ^^^ BitVec.allOnes 64 := by
  rw [guard64_register, guard64, List.foldl_append, List.foldl_cons, List.foldl_nil]

/-- Settles O49: GUARD's register takes its bytes one by one, and the check value is computed. -/
theorem guardIsCrc64 : Obligations.GuardIsCrc64 := by
  unfold Obligations.GuardIsCrc64
  refine ⟨by decide +kernel, fun l b => ?_, by decide +kernel⟩
  rw [guard64_append_byte, crcByte_eq_foldl, guardPoly_reversed]
  rfl

end Sys2Proof.Proofs

/-! # Which commands change which unit (R182, R183, R482, R483, R516, R520, R568) -/

namespace Sys2Proof.Proofs

open Sys2Proof.Machine Sys2Proof.Laws

section
variable {c : Instr} (s : State)

/-- The frames of the commands outside the list, one by one. -/
theorem exec_clk (h : mayChangeClk c = false) : (after (exec c s) s).clk = s.clk := by
  cases c
  case timePin | ebbEnter | powerOnReset | lastTideComplete | vinCollapse | ebbExit | x32CrystalStop | lossOfVin => cases h
  all_goals simp

theorem exec_boot (h : mayChangeBoot c = false) : (after (exec c s) s).boot = s.boot := by
  cases c
  case ebbEnter | settleWindowEnd | kilnResetWave | flashChannelTrained | mapBackgroundLoad | dramUncorrectableRead |
    dramPatrol | scratchpadUncorrectableRead | trialClear | dramChannelTrained | powerOnReset | plpNHigh | coreRstNHigh |
    vinRecovery | watchdogExpiry | lastTideComplete | vinCollapse | ebbExit | firmwareRunning | ready | railTimeout |
    lossOfVin | supplyRailInRange => cases h
  all_goals simp

theorem exec_dram (h : mayChangeDram c = false) : (after (exec c s) s).dram = s.dram := by
  cases c
  case ebbEnter | transitLoadWake | dramCorrectedRead | dramUncorrectableRead | dramPatrol | dramRefreshDue |
    dramOscillatorRead | dramTemperatureRead | dramPageIdleClose | dramChannelTrained | lastTideComplete | vinCollapse |
    neapEntry | powerStateExit | ebbExit | firmwareRunning | lossOfVin | supplyRailInRange => cases h
  all_goals simp

theorem exec_pads (h : mayChangePads c = false) : (after (exec c s) s).pads = s.pads := by
  cases c
  case countersRead | ebbEnter | transitLoadWake | scratchpadCorrectedRead | bankHandover | bankHandoverTimeout |
    bankRetentionWake | bankRetentionReturn | powerOnReset | plpNHigh | coreRstNHigh | vinRecovery | lastTideComplete |
    vinCollapse | neapEntry | powerStateExit | ebbExit | lossOfVin => cases h
  all_goals simp

theorem exec_integ (h : mayChangeInteg c = false) : (after (exec c s) s).integ = s.integ := by
  cases c
  case sessionReset | fwActivate | ebbEnter | diagAuthRelease | injectCheckbits | diagRead | diagWrite | diagErase |
    perstNAssert | hotReset | flr | hostLinkDown | linkCtlNak | transitLoadWake | dramCorrectedRead |
    dramUncorrectableRead | dramPatrol | scratchpadCorrectedRead | scratchpadUncorrectableRead | vetoHoldRequest |
    vetoTimeout | injectionArmTimeout | diagAuthIdleTimeout | trialRestart | circuitBreaker | fastTrip | reverseCurrent |
    vinBelowVPlp | hsVsupBelowVPlp | plpNLow | thermalTrip | coreRstNLow | watchdogExpiry | lastTideComplete |
    vinCollapse | sagTestEnd | slackEntry | neapEntry | powerStateExit | ebbExit | ready | lossOfVin => cases h
  all_goals simp

theorem exec_tap (h : mayChangeTap c = false) : (after (exec c s) s).tap = s.tap := by
  cases c
  case vinCollapse | lossOfVin | tapAccess => cases h
  all_goals simp

end

/-- Settles O47: outside a unit's list each command's frame keeps the unit. -/
theorem unitsChangeOnlyByTheirCommands : Obligations.UnitsChangeOnlyByTheirCommands := by
  unfold Obligations.UnitsChangeOnlyByTheirCommands
  intro c s t h
  obtain rfl : after (exec c s) s = t := by rw [h, after_next]
  refine ⟨exec_clk s, exec_boot s, exec_dram s, exec_pads s, fun hc => ?_, exec_tap s⟩
  have hi := exec_integ s hc
  exact ⟨hi, fun a => by rw [hi]; exact ⟨rfl, rfl⟩⟩

end Sys2Proof.Proofs

/-! # The machine's invariant (R181, R183, R482, R483, R517, R528, R536) -/

namespace Sys2Proof.Proofs

open Sys2Proof.Machine Sys2Proof.Laws

/-! ## READY (R528, R536) -/

/-- A code shown changes none of the flags of the start. -/
@[simp] theorem flags_setCode (c : Nat) (s : State) : (setCode c s).boot.ready = s.boot.ready ∧
    (setCode c s).boot.fw = s.boot.fw ∧ (setCode c s).boot.safe = s.boot.safe := by
  unfold setCode
  dsimp only
  split <;> split <;> exact ⟨rfl, rfl, rfl⟩

/-- Only the boot flags count for READY. -/
theorem readyOk_of_boot {s t : State} (h : s.readyOk) (hb : t.boot = s.boot) : t.readyOk := by
  unfold State.readyOk
  rw [hb]
  exact h

theorem readyOk_of_flags {s t : State} (h : s.readyOk) (hr : t.boot.ready = s.boot.ready) (hf : t.boot.fw = s.boot.fw)
    (hs : t.boot.safe = s.boot.safe) : t.readyOk := by
  unfold State.readyOk
  rw [hr, hf, hs]
  exact h

theorem readyOk_of_notReady {t : State} (h : t.boot.ready = false) : t.readyOk := fun hr => by simp [h] at hr

section
variable {s : State} (h : s.readyOk)
include h

theorem readyOk_onDp (f : Env → Dp → Dp) : (s.onDp f).readyOk := readyOk_of_boot h (by simp)

theorem readyOk_pwr (p : Pwr) : ({ s with pwr := p } : State).readyOk := h

theorem readyOk_log (code sev src : Nat) (a : List Nat) : (s.log code sev src a).readyOk := readyOk_of_boot h (by simp)

theorem readyOk_work : s.work.readyOk := readyOk_of_boot h (by simp)

theorem readyOk_setCode (c : Nat) : (setCode c s).readyOk := by
  obtain ⟨hr, hf, hs⟩ := flags_setCode c s
  exact readyOk_of_flags h hr hf hs

theorem readyOk_safeMode (c : Nat) : (safeMode c s).readyOk := by
  unfold safeMode
  dsimp only
  split
  · exact readyOk_setCode h c
  · exact readyOk_of_notReady (by simp)

theorem readyOk_deviceFatal (why : Nat) : (deviceFatal why s).readyOk := by
  unfold deviceFatal
  split
  · exact h
  · exact readyOk_of_flags h (by simp) (by simp) (by simp)

theorem readyOk_failDram (c cause : Nat) : (failDram c cause s).readyOk :=
  readyOk_deviceFatal (s := _) (readyOk_of_boot h (by simp)) 1

theorem readyOk_recoveryStage : (recoveryStage s).readyOk := by
  unfold recoveryStage
  split
  · exact readyOk_setCode h _
  · exact h

theorem readyOk_matchDies : (matchDies s).readyOk := by
  unfold matchDies
  dsimp only
  split
  · exact readyOk_of_boot h (by simp)
  · exact readyOk_safeMode (readyOk_of_boot (t := s.onDp _) h (by simp)) _

theorem readyOk_faultTrigger (t : Trigger) : (faultTrigger t s).readyOk := by
  unfold faultTrigger
  dsimp only
  split
  · exact readyOk_deviceFatal h _
  · exact readyOk_of_boot h (by simp)

theorem readyOk_dramAction (g : DramRegion) : (dramAction g s).readyOk := by
  cases g with
  | firmware => exact readyOk_faultTrigger h _
  | _ => exact readyOk_of_boot h (by simp [dramAction])

theorem readyOk_padAction (g : PadRegion) : (padAction g s).readyOk := by
  cases g with
  | firmware | other => exact readyOk_faultTrigger h _
  | _ => exact readyOk_of_boot h (by simp [padAction])

theorem readyOk_endPass (c : Nat) : (endPass c s).readyOk := by
  unfold endPass
  dsimp only
  split
  · exact readyOk_failDram (readyOk_of_boot h (by simp)) _ _
  · exact readyOk_of_boot h (by simp)

theorem readyOk_repairBanks (f : StartFacts) : (repairBanks f s).readyOk := by
  unfold repairBanks
  dsimp only
  split
  · exact readyOk_safeMode (readyOk_of_boot h (by simp)) _
  · exact readyOk_of_boot h (by simp)

/-- A start takes the device out of safe mode, and changes neither READY nor the firmware's flag. -/
theorem readyOk_coreReset (por rst : Bool) : (coreReset por rst s).readyOk := by
  have hflags : (coreReset por rst s).boot.ready = s.boot.ready ∧ (coreReset por rst s).boot.fw = s.boot.fw ∧
      (coreReset por rst s).boot.safe = false := by
    unfold coreReset
    dsimp only
    split <;> split <;> simp
  obtain ⟨hr, hf, hs⟩ := hflags
  unfold State.readyOk
  rw [hr, hf, hs]
  exact fun hready => ⟨(h hready).1, rfl⟩

theorem readyOk_romStart (por : Bool) (f : StartFacts) : (romStart por f s).readyOk := by
  refine readyOk_of_flags h ?_ ?_ ?_ <;> unfold romStart <;> dsimp only <;> split <;> simp

theorem readyOk_romDone : (romDone s).readyOk := by
  unfold romDone
  split
  · exact readyOk_romStart h _ _
  · exact h

theorem readyOk_bootImage (por : Bool) (f : StartFacts) : (bootImage por f s).readyOk := by
  have hstage (t : State) (ht : t.readyOk) :
      (if t.boot.safe then { t with boot := { t.boot with stage := 0x03 } } else t : State).readyOk := by
    split
    · exact ht
    · exact ht
  have hstrap (t : State) (ht : t.readyOk) : (if t.boot.straps.safeN then t else safeMode 0x50 t).readyOk := by
    split
    · exact ht
    · exact readyOk_safeMode ht _
  unfold bootImage
  split
  · exact readyOk_setCode (readyOk_setCode h _) _
  · split
    · exact readyOk_setCode (readyOk_setCode h _) _
    · next c _ =>
      refine hstage _ (hstrap _ (readyOk_repairBanks ?_ f))
      refine readyOk_of_flags h ?_ ?_ ?_ <;> dsimp only <;> split <;> split <;> simp

theorem readyOk_startCore (por rst : Bool) (f : StartFacts) : (startCore por rst f s).readyOk := 
  readyOk_of_boot (readyOk_bootImage (readyOk_romStart (readyOk_coreReset h por rst) por f) por f) (by simp [startCore])

theorem readyOk_bringUp : (bringUp s).readyOk := by
  refine readyOk_of_flags h ?_ ?_ ?_ <;> unfold bringUp <;> dsimp only <;> split <;> simp

theorem readyOk_advanceSvn : (advanceSvn s).readyOk := by
  unfold advanceSvn
  dsimp only
  generalize (if s.boot.imageB = true then 1 else 0) = n
  split
  · exact h
  · split <;> exact readyOk_of_flags h (by simp) (by simp) (by simp)

theorem readyOk_supplyStart (f : StartFacts) : (supplyStart f s).readyOk := by
  unfold supplyStart
  split
  · exact h
  · split
    · split
      · exact h
      · exact readyOk_startCore h _ _ f
    · split
      · exact h
      · exact readyOk_startCore h _ _ f
    · split
      · exact h
      · exact readyOk_startCore h _ _ f
    · exact h

theorem readyOk_heldStart (f : StartFacts) : (heldStart f s).readyOk := by
  unfold heldStart
  split
  · exact readyOk_startCore h _ _ f
  · exact h

theorem readyOk_firmware (t : State) (hr : t.boot.ready = s.boot.ready) (hf : t.boot.fw = true)
    (hs : t.boot.safe = s.boot.safe) : t.readyOk := by
  unfold State.readyOk
  rw [hr, hf, hs]
  exact fun hready => ⟨rfl, (h hready).2⟩

theorem readyOk_resumeCore : (resumeCore s).readyOk :=
  readyOk_firmware h _ (by simp [resumeCore]) (by simp [resumeCore]) (by simp [resumeCore])

end

theorem ready_clearCore (ebb : Bool) (s : State) : (clearCore ebb s).boot.ready = false := rfl

theorem ready_loseVin (s : State) : (loseVin s).boot.ready = false := rfl

theorem ready_enterEbb (s : State) : (enterEbb s).boot.ready = false := by
  unfold enterEbb
  simp [ready_clearCore]

/-- Recovery changes no flag of the start. -/
theorem flags_recovery (resume : Bool) (s : State) : (recovery resume s).boot.ready = s.boot.ready ∧
    (recovery resume s).boot.fw = s.boot.fw ∧ (recovery resume s).boot.safe = s.boot.safe := by
  unfold recovery
  dsimp only
  split <;> split <;> split <;> simp

theorem readyOk_enterReady {s : State} (hf : s.boot.fw = true) (hs : s.boot.safe = false) : (enterReady s).readyOk := by
  have hboot : (enterReady s).boot.fw = true ∧ (enterReady s).boot.safe = false := by simp [enterReady, hf, hs]
  exact fun _ => hboot

/-- What a mailbox row's effect keeps, the row keeps. -/
theorem after_onRequest_keeps {P : State → Prop} {m : Mbx} {op : Nat} {f : MbReq → State → State} {s : State} (h : P s)
    (hf : ∀ r, P (f r s)) : P (after (onRequest m op f s) s) := by
  rcases onRequest_eq m op f s with ⟨r, -, -, -, hr⟩ | hr <;> rw [hr]
  · exact hf r
  · exact h

theorem after_next_keeps {P : State → Prop} {t s : State} (h : P t) : P (after (.next t) s) := h

theorem after_ite_keeps {P : State → Prop} {c : Prop} [Decidable c] {a b : Host.Outcome State Fault Refusal} {s : State}
    (ha : P (after a s)) (hb : P (after b s)) : P (after (if c then a else b) s) := by
  split
  · exact ha
  · exact hb

section
variable {s : State} (h : s.readyOk)
include h

theorem exec_readyOk_ebbEnter (m : Mbx) : (after (execEbbEnter m s) s).readyOk := by
  refine after_onRequest_keeps h fun r => ?_
  dsimp only
  have hleft : (leaveRoles (startLeaving .ebb m s)).readyOk := readyOk_of_boot h (by simp)
  split
  · exact hleft
  · split
    · exact readyOk_of_boot hleft (by simp)
    · split
      · exact hleft
      · split
        · split
          · exact hleft
          · exact readyOk_of_boot hleft (by simp)
        · exact readyOk_of_notReady (ready_enterEbb _)

theorem exec_readyOk_kilnResetWave (l : List DieAnswer) : (after (execKilnResetWave l s) s).readyOk := by
  have htaken (l : List DieAnswer) : (takeAnswers l s).readyOk := readyOk_of_boot h (by simp)
  refine after_ite_keeps h ?_
  rw [after_next]
  split
  · exact readyOk_onDp (htaken _) _
  · exact readyOk_matchDies (htaken _)

theorem exec_readyOk_dramPatrol (c : DramCh) (r : Nat) (k : Option Nat) (w : Bool) :
    (after (execDramPatrol c r k w s) s).readyOk := by
  unfold execDramPatrol
  dsimp only
  split
  · exact h
  · split
    · exact readyOk_endPass h _
    · simp only [after_next]
      split
      · exact readyOk_endPass (readyOk_of_boot h (by simp)) _
      · exact readyOk_of_boot h (by simp)

theorem exec_readyOk_dramChannelTrained (c : DramCh) (p : Option Spd) (l : List DramSweep) :
    (after (execDramChannelTrained c p l s) s).readyOk := by
  unfold execDramChannelTrained
  dsimp only
  split
  · exact h
  · split
    · exact readyOk_safeMode (readyOk_of_boot h (by simp)) _
    · split
      · exact readyOk_of_boot h (by simp)
      · split
        · exact readyOk_safeMode (readyOk_of_boot h (by simp)) _
        · exact readyOk_work (readyOk_recoveryStage (readyOk_of_boot h (by simp)))

theorem exec_readyOk_powerOnReset (p : Straps) (f : StartFacts) (v : Nat) :
    (after (execPowerOnReset p f v s) s).readyOk := by
  have hmend {t : State} (ht : t.readyOk) : (mendBedrock t).readyOk := readyOk_of_boot ht (by simp)
  have hstart (t : State) (ht : t.boot = { s.boot with straps := p }) : (mendBedrock (startCore true false f t)).readyOk :=
    hmend (readyOk_startCore (readyOk_of_flags h (by rw [ht]) (by rw [ht]) (by rw [ht])) true false f)
  refine after_ite_keeps h ?_
  rw [after_next]
  split
  · refine readyOk_log (hstart _ ?_) _ _ _ _
    rfl
  · refine hstart _ ?_
    rfl

theorem exec_readyOk_lastTideComplete (f : StartFacts) : (after (execLastTideComplete f s) s).readyOk := by
  unfold execLastTideComplete
  split
  · exact h
  · dsimp only
    split
    · exact readyOk_of_notReady (by simp [ready_enterEbb])
    · exact readyOk_heldStart (readyOk_of_notReady (by simp [ready_clearCore])) f
    · exact readyOk_startCore (readyOk_of_notReady (by simp [ready_clearCore])) false false f
    · exact readyOk_startCore (readyOk_of_notReady (by simp [ready_clearCore])) false false f
    · exact readyOk_startCore (readyOk_of_notReady (by simp [ready_clearCore])) false false f
    · exact readyOk_supplyStart (readyOk_of_notReady (by simp [ready_clearCore])) f

theorem exec_readyOk_ebbExit (w : EbbWake) (cool : Bool) (f : StartFacts) :
    (after (execEbbExit w cool f s) s).readyOk := by
  have hcause (c : Bool) (t : State) (ht : t.readyOk) : (if c then t.cause evThermal else t).readyOk := by
    split
    · exact readyOk_of_boot ht (by simp)
    · exact ht
  unfold execEbbExit
  dsimp only
  split
  · exact h
  · split
    · exact h
    · have hgap (p : Pwr) : (enterState .starting (addGap { s with pwr := p })).readyOk := readyOk_of_boot h (by simp)
      split
      · refine hcause _ _ ?_
        split
        · exact readyOk_of_notReady (ready_clearCore ..)
        · exact readyOk_startCore (readyOk_of_notReady (ready_clearCore ..)) _ _ f
      · exact hcause _ _ (readyOk_of_boot (readyOk_resumeCore (hgap _)) (foldl_boot _ (by simp) _ _))

/-- Up to the firmware-running point nothing but the firmware's own flag changes (R527). -/
theorem readyOk_runFirmware (p : Pwr) (x : Sec) :
    (measureStart (keyLanes (takeLeases { romDone s with
      boot := { (romDone s).boot with fw := true, spdm := true }, pwr := p, sec := x }))).readyOk :=
  readyOk_firmware (readyOk_romDone h) _ (by simp) (by simp) (by simp)

theorem exec_readyOk_firmwareRunning : (after (execFirmwareRunning s) s).readyOk := by
  have hlast {t : State} (ht : t.readyOk) :
      (if railsOk t.pwr then bringUp t else { t with boot := { t.boot with railWait := true } }).readyOk := by
    split
    · exact readyOk_bringUp ht
    · exact ht
  have htag {t : State} (ht : t.readyOk) : (if t.boot.tagBad then safeMode 0x21 t else t).readyOk := by
    split
    · exact readyOk_safeMode ht _
    · exact ht
  have hengines {t : State} (ht : t.readyOk) : (startEngines t).readyOk := readyOk_of_boot ht (by simp)
  have hsag {t : State} (ht : t.readyOk) : (firstSag t).readyOk := readyOk_of_boot ht (by simp)
  refine after_ite_keeps h (readyOk_work (hlast (readyOk_setCode (htag (hsag (readyOk_advanceSvn (hengines
    (readyOk_setCode ?_ _))))) _)))
  exact readyOk_runFirmware h _ _

theorem exec_readyOk_mapBackgroundLoad : (after (execMapBackgroundLoad s) s).readyOk := by
  unfold execMapBackgroundLoad
  split
  · exact h
  · split
    · exact readyOk_of_boot h (by simp)
    · exact readyOk_work (readyOk_of_flags h (by simp) (by simp) (by simp))

theorem exec_readyOk_dramUncorrectableRead (c : DramCh) (g : DramRegion) :
    (after (execDramUncorrectableRead c g s) s).readyOk := by
  unfold execDramUncorrectableRead
  dsimp only
  split
  · exact h
  · split
    · exact readyOk_dramAction (readyOk_of_boot h (by simp)) g
    · split
      · exact readyOk_failDram (readyOk_of_boot h (by simp)) _ _
      · exact readyOk_dramAction (readyOk_of_boot h (by simp)) g

theorem exec_readyOk_scratchpadUncorrectableRead (b : Fin 32) (g : PadRegion) :
    (after (execScratchpadUncorrectableRead b g s) s).readyOk := by
  refine after_ite_keeps h (readyOk_padAction (readyOk_of_boot h ?_) g)
  split <;> simp

theorem exec_readyOk_trialClear : (after (execTrialClear s) s).readyOk := by
  unfold execTrialClear
  dsimp only
  generalize (if s.boot.imageB = true then 1 else 0) = n
  refine after_ite_keeps h (readyOk_advanceSvn (readyOk_of_boot h ?_))
  split <;> simp

theorem exec_readyOk_ready : (after (execReady s) s).readyOk := by
  unfold execReady
  split
  · exact h
  · next hgo =>
    simp only [Bool.or_eq_true, not_or, Bool.not_eq_true, Bool.not_eq_false'] at hgo
    obtain ⟨⟨⟨⟨⟨⟨⟨hfw, hready⟩, hsafe⟩, -⟩, -⟩, -⟩, -⟩, -⟩ := hgo
    have hrec {t : State} (ht : t = if s.boot.recovered then s else
        { recovery s.boot.resumed s with boot := { (recovery s.boot.resumed s).boot with recovered := true } }) :
        t.boot.ready = false ∧ t.boot.fw = true ∧ t.boot.safe = false := by
      subst ht
      obtain ⟨hr, hf, hs⟩ := flags_recovery s.boot.resumed s
      split
      · exact ⟨hready, hfw, hsafe⟩
      · exact ⟨hr.trans hready, hf.trans hfw, hs.trans hsafe⟩
    dsimp only
    rw [after_next]
    generalize ht : (if s.boot.recovered = true then s else _) = t
    obtain ⟨hr, hf, hs⟩ := hrec ht.symm
    refine readyOk_work ?_
    split
    · exact readyOk_enterReady hf hs
    · exact readyOk_of_notReady hr

theorem exec_readyOk_settleWindowEnd : (after (execSettleWindowEnd s) s).readyOk := by
  refine after_ite_keeps (readyOk_work (readyOk_of_flags h ?_ ?_ ?_)) h <;> rfl

theorem exec_readyOk_railTimeout (v : Bool) : (after (execRailTimeout v s) s).readyOk :=
  after_ite_keeps (readyOk_safeMode (s := { s with boot := { s.boot with railWait := false } }) h _) h

theorem exec_readyOk_supplyRailInRange (v : Bool) : (after (execSupplyRailInRange v s) s).readyOk := by
  have hrail {t : State} (ht : t.readyOk) :
      (after (if t.boot.railWait && railsOk t.pwr then .next (bringUp t).work else .next t) s).readyOk := 
    after_ite_keeps (readyOk_work (readyOk_bringUp ht)) ht
  refine after_ite_keeps h (hrail ?_)
  split
  · exact h
  · exact h

end

/-- READY of the state after a command depends on the start of the core alone, and outside the commands that may change it on nothing. -/
theorem exec_readyOk (c : Instr) {s : State} (h : s.readyOk) : (after (exec c s) s).readyOk := by
  cases c with
  | ebbEnter m => exact exec_readyOk_ebbEnter h m
  | kilnResetWave l => exact exec_readyOk_kilnResetWave h l
  | dramPatrol c r k w => exact exec_readyOk_dramPatrol h c r k w
  | dramChannelTrained c p l => exact exec_readyOk_dramChannelTrained h c p l
  | powerOnReset p f v => exact exec_readyOk_powerOnReset h p f v
  | lastTideComplete f => exact exec_readyOk_lastTideComplete h f
  | ebbExit w cool f => exact exec_readyOk_ebbExit h w cool f
  | firmwareRunning => exact exec_readyOk_firmwareRunning h
  | settleWindowEnd => exact exec_readyOk_settleWindowEnd h
  | flashChannelTrained c l =>
    exact after_ite_keeps h (readyOk_work (readyOk_recoveryStage (readyOk_of_boot h (by simp))))
  | mapBackgroundLoad => exact exec_readyOk_mapBackgroundLoad h
  | dramUncorrectableRead c g => exact exec_readyOk_dramUncorrectableRead h c g
  | scratchpadUncorrectableRead b g => exact exec_readyOk_scratchpadUncorrectableRead h b g
  | trialClear => exact exec_readyOk_trialClear h
  | plpNHigh f => exact readyOk_supplyStart (readyOk_pwr h _) f
  | coreRstNHigh f => exact readyOk_heldStart (readyOk_pwr h _) f
  | vinRecovery v f => exact after_ite_keeps (readyOk_supplyStart (readyOk_pwr h _) f) h
  | watchdogExpiry => exact after_ite_keeps h (readyOk_faultTrigger (readyOk_of_boot h (by simp)) _)
  | vinCollapse w => exact after_ite_keeps h (readyOk_of_notReady (ready_loseVin _))
  | ready => exact exec_readyOk_ready h
  | railTimeout v => exact exec_readyOk_railTimeout h v
  | lossOfVin => exact after_ite_keeps h (readyOk_of_notReady (ready_loseVin _))
  | supplyRailInRange v => exact exec_readyOk_supplyRailInRange h v
  | _ => exact readyOk_of_boot h (exec_boot s rfl)

/-! ## The remainder of the Ebb gap (R517) -/

theorem gapOk_of_frac64 {s t : State} (h : s.gapOk) (hf : t.clk.frac64 = s.clk.frac64) : t.gapOk := by
  unfold State.gapOk
  rw [hf]
  exact h

theorem frac64_enterEbb (s : State) : (enterEbb s).clk.frac64 = s.clk.frac64 := by simp [enterEbb]

/-- A loss of VIN leaves no remainder. -/
theorem gapOk_loseVin (s : State) : (loseVin s).gapOk := by
  unfold State.gapOk
  rw [show (loseVin s).clk.frac64 = 0 from rfl]
  decide

/-- The gap of an Ebb is counted in whole nanoseconds, and what is left over is less than one. -/
theorem gapOk_addGap (s : State) : (addGap s).gapOk := by
  unfold State.gapOk
  have hrest : (addGap s).clk.frac64 = (ebbGap s.clk.ebbCount s.clk.frac64).2 := by simp [addGap]
  rw [hrest]
  exact Nat.mod_lt _ (by decide)

section
variable {s : State} (h : s.gapOk)
include h

theorem exec_gapOk_timePin (m : Mbx) : (after (execTimePin m s) s).gapOk := by
  refine after_onRequest_keeps h fun r => gapOk_of_frac64 h ?_
  dsimp only
  split <;> simp

theorem exec_gapOk_ebbEnter (m : Mbx) : (after (execEbbEnter m s) s).gapOk := by
  refine after_onRequest_keeps h fun r => gapOk_of_frac64 h ?_
  dsimp only
  split
  · simp
  · split
    · simp
    · split
      · simp
      · split
        · split <;> simp
        · simp [frac64_enterEbb]

theorem exec_gapOk_powerOnReset (p : Straps) (f : StartFacts) (v : Nat) : (after (execPowerOnReset p f v s) s).gapOk := by
  refine after_ite_keeps h (gapOk_of_frac64 h ?_)
  dsimp only
  split <;> simp

theorem exec_gapOk_lastTideComplete (f : StartFacts) : (after (execLastTideComplete f s) s).gapOk := by
  unfold execLastTideComplete
  split
  · exact h
  · refine gapOk_of_frac64 h ?_
    dsimp only
    split <;> simp [frac64_enterEbb]

theorem exec_gapOk_ebbExit (w : EbbWake) (cool : Bool) (f : StartFacts) : (after (execEbbExit w cool f s) s).gapOk := by
  refine after_ite_keeps h (after_ite_keeps h ?_)
  dsimp only
  generalize hg : addGap _ = g
  have hgap : g.gapOk := hg ▸ gapOk_addGap _
  refine after_ite_keeps (gapOk_of_frac64 hgap ?_) (gapOk_of_frac64 hgap ?_)
  · split <;> split <;> simp
  · split <;> simp

end

theorem exec_gapOk (c : Instr) {s : State} (h : s.gapOk) : (after (exec c s) s).gapOk := by
  cases c with
  | timePin m => exact exec_gapOk_timePin h m
  | ebbEnter m => exact exec_gapOk_ebbEnter h m
  | powerOnReset p f v => exact exec_gapOk_powerOnReset h p f v
  | lastTideComplete f => exact exec_gapOk_lastTideComplete h f
  | vinCollapse w => exact after_ite_keeps h (gapOk_loseVin _)
  | ebbExit w cool f => exact exec_gapOk_ebbExit h w cool f
  | x32CrystalStop => exact after_ite_keeps (gapOk_of_frac64 h rfl) h
  | lossOfVin => exact after_ite_keeps h (gapOk_loseVin _)
  | _ => exact gapOk_of_frac64 h (by rw [exec_clk s rfl])

/-! ## The banks' owners (R482, R483) -/

/-- Every bank of the scratchpad is as it may be. -/
def Pads.Ok (p : Pads) : Prop := ∀ n, bankOk n (p.banks.get (Pad.reset n) n)

theorem banksOk_iff (s : State) : s.banksOk ↔ Pads.Ok s.pads := Iff.rfl

theorem banksOk_of_pads {s t : State} (h : s.banksOk) (hp : t.pads = s.pads) : t.banksOk := by
  rw [banksOk_iff, hp]
  exact h

/-- Only the owner and the hand-over of a bank count. -/
theorem bankOk_of_owner {n : Nat} {x y : Pad} (h : bankOk n x) (ho : y.owner = x.owner) (hm : y.moving = x.moving) :
    bankOk n y := by
  unfold bankOk
  rw [ho, hm]
  exact h

/-- A bank that hands over no more is as it may be where it was. -/
theorem bankOk_settled {n : Nat} {x y : Pad} (h : bankOk n x) (ho : y.owner = x.owner) (hm : y.moving = none) : bankOk n y := by
  unfold bankOk at h ⊢
  split at h
  · next hn => rw [if_pos hn, ho, hm]; exact ⟨h.1, by simp⟩
  · next hn => rw [if_neg hn, ho]; exact ⟨h.1, hm⟩

/-- A movable bank may go to either staging class. -/
theorem bankOk_staging {n : Nat} {x : Pad} (hn : movableBank n = true) (ho : x.owner.staging)
    (hm : ∀ m, x.moving = some m → m.1.staging) : bankOk n x := by
  rw [bankOk, if_pos hn]
  exact ⟨ho, hm⟩

theorem staging_otherStage (o : Owner) : (otherStage o).staging := by
  unfold otherStage Owner.staging
  split
  · exact .inr rfl
  · exact .inl rfl

/-- A change that keeps each bank as it may be, made to every bank listed. -/
theorem bankOk_map {n : Nat} {t : Tab Pad} {f : Nat → Pad → Pad} (hf : ∀ x, bankOk n x → bankOk n (f n x))
    (h : bankOk n (Tab.get (Pad.reset n) t n)) :
    bankOk n (Tab.get (Pad.reset n) (t.map (fun x => (x.1, f x.1 x.2))) n) := by
  induction t with
  | nil => exact h
  | cons x t ih =>
    obtain ⟨i, v⟩ := x
    simp only [List.map_cons, Tab.get] at h ⊢
    split
    · next hi =>
      rw [if_pos hi] at h
      exact hi ▸ hf v h
    · next hi =>
      rw [if_neg hi] at h
      exact ih h

theorem bankOk_reset (n : Nat) : bankOk n (Pad.reset n) := bankOk_home rfl rfl

theorem bankOk_ebbPad {n : Nat} {x : Pad} (h : bankOk n x) : bankOk n (ebbPad n x) := by
  unfold ebbPad
  dsimp only
  split
  · exact bankOk_settled h rfl rfl
  · exact bankOk_home rfl rfl

theorem bankOk_neapPad {n : Nat} {x : Pad} (h : bankOk n x) : bankOk n (neapPad n x) := by
  unfold neapPad
  split
  · exact h
  · exact bankOk_home rfl rfl

theorem bankOk_wakePad {n : Nat} {x : Pad} (h : bankOk n x) : bankOk n (wakePad x) := by
  unfold wakePad
  split
  · exact h
  · exact bankOk_of_owner h rfl rfl

section
variable {p : Pads} (h : Pads.Ok p)
include h

/-- A change that keeps each bank as it may be, made to every bank of the scratchpad. -/
theorem padsOk_map {q : Pads} {f : Nat → Pad → Pad} (hf : ∀ n x, bankOk n x → bankOk n (f n x))
    (hq : q.banks = p.banks.map (fun x => (x.1, f x.1 x.2))) : Pads.Ok q := fun n => by
  rw [hq]
  exact bankOk_map (hf n) (h n)

theorem padsOk_put {n : Nat} {x : Pad} (hx : bankOk n x) : Pads.Ok { p with banks := p.banks.put n x } := fun k => by
  dsimp only
  rw [get_put]
  split
  · next hk => exact hk ▸ hx
  · exact h k

theorem padsOk_clearPads (ebb : Bool) : Pads.Ok (clearPads ebb p) := by
  cases ebb with
  | true => exact padsOk_map h (f := ebbPad) (fun _ _ => bankOk_ebbPad) rfl
  | false => exact fun n => (get_tabOf 32 Pad.reset n).symm ▸ bankOk_reset n

end

theorem get_of_find {α : Type} {d x : α} {t : Tab α} {n : Nat} (h : Tab.find t n = some x) : Tab.get d t n = x := by
  induction t with
  | nil => cases h
  | cons y t ih =>
    simp only [Tab.find, Tab.get] at h ⊢
    split
    · next hy => simpa [hy] using h
    · next hy => exact ih (by simpa [hy] using h)

/-- Serving the accesses that wait at a bank changes whose turn it is, and no owner (R484). -/
theorem padsOk_serveLine (b : Nat) {z : List PadReq × Pads} (h : Pads.Ok z.2) : Pads.Ok (serveLine b z).2 := by
  unfold serveLine
  split
  · exact h
  · next x hx =>
    split
    · exact h
    · refine padsOk_put h (bankOk_of_owner (x := x) ?_ rfl rfl)
      have hb := h b
      rwa [get_of_find hx] at hb

/-- What a fold's every step keeps of the banks, the fold keeps. -/
theorem padsOk_foldl {α β : Type} {f : α × Pads → β → α × Pads} (hf : ∀ z x, Pads.Ok z.2 → Pads.Ok (f z x).2) (l : List β)
    {z : α × Pads} (hz : Pads.Ok z.2) : Pads.Ok (l.foldl f z).2 := by
  induction l generalizing z with
  | nil => exact hz
  | cons x l ih => exact ih (hf z x hz)

/-- What waits at the banks goes on by one tick, and every bank keeps its owner. -/
theorem padsOk_servePads (q : List PadReq) {p : Pads} (h : Pads.Ok p) : Pads.Ok (servePads q p).2 :=
  padsOk_foldl (fun _ x hz => padsOk_foldl (fun _ _ => padsOk_serveLine x.1) _ hz) _ h

section
variable {s : State} (h : s.banksOk)
include h

theorem banksOk_onPad {n : Nat} {f : Pad → Pad} (hf : bankOk n (f (s.pad n))) : (s.onPad n f).banksOk := padsOk_put h hf

theorem banksOk_moveBank {n : Nat} {o : Owner} (hn : movableBank n = true) (ho : o.staging) : (moveBank n o s).banksOk := by
  refine banksOk_of_pads (banksOk_onPad h (bankOk_staging hn ho ?_)) (by simp [moveBank]; rfl)
  simp

theorem banksOk_repairBanks (f : StartFacts) : (repairBanks f s).banksOk := by
  refine padsOk_map (p := s.pads) h
    (f := fun n x => if f.badBanks.contains n then { x with st := .offline, repairBad := true } else x) (fun n x hx => ?_) ?_
  · split
    · exact bankOk_of_owner hx rfl rfl
    · exact hx
  · unfold repairBanks
    dsimp only
    split <;> simp

theorem banksOk_bootImage (por : Bool) (f : StartFacts) : (bootImage por f s).banksOk := by
  unfold bootImage
  split
  · exact banksOk_of_pads h (by simp)
  · split
    · exact banksOk_of_pads h (by simp)
    · have hstage (t : State) (ht : t.banksOk) :
          (if t.boot.safe then { t with boot := { t.boot with stage := 0x03 } } else t : State).banksOk := by
        split
        · exact ht
        · exact ht
      have hstrap (t : State) (ht : t.banksOk) : (if t.boot.straps.safeN then t else safeMode 0x50 t).banksOk := by
        split
        · exact ht
        · exact banksOk_of_pads ht (by simp)
      refine hstage _ (hstrap _ (banksOk_repairBanks (banksOk_of_pads h ?_) f))
      dsimp only
      split <;> split <;> simp

theorem banksOk_startCore (por rst : Bool) (f : StartFacts) : (startCore por rst f s).banksOk := by
  have ht : (romStart por f (coreReset por rst s)).banksOk := banksOk_of_pads h (by simp)
  exact banksOk_of_pads (banksOk_bootImage ht por f) (by simp [startCore])

theorem banksOk_supplyStart (f : StartFacts) : (supplyStart f s).banksOk := by
  unfold supplyStart
  split
  · exact h
  · split
    · split
      · exact h
      · exact banksOk_startCore h _ _ f
    · split
      · exact h
      · exact banksOk_startCore h _ _ f
    · split
      · exact h
      · exact banksOk_startCore h _ _ f
    · exact h

theorem banksOk_heldStart (f : StartFacts) : (heldStart f s).banksOk := by
  unfold heldStart
  split
  · exact banksOk_startCore h _ _ f
  · exact h

theorem banksOk_clearCore (ebb : Bool) : (clearCore ebb s).banksOk := padsOk_clearPads h ebb

theorem banksOk_loseVin : (loseVin s).banksOk := banksOk_clearCore h false

theorem banksOk_enterEbb : (enterEbb s).banksOk := by
  have hp : (enterEbb s).pads = clearPads true s.pads := by simp [enterEbb, clearCore]
  rw [banksOk_iff, hp]
  exact padsOk_clearPads h true

theorem banksOk_commitNeap : (commitNeap s).banksOk :=
  padsOk_map (p := s.pads) h (f := neapPad) (fun _ _ => bankOk_neapPad) (by simp [commitNeap])

theorem banksOk_leaveLow : (leaveLow s).banksOk := by
  have hlow (p : Pwr) : (ungateAll { enterState .flood s with pwr := p }).banksOk := banksOk_of_pads h (by simp)
  unfold leaveLow
  dsimp only
  split
  · exact padsOk_map (p := s.pads) h (f := fun _ => wakePad) (fun _ _ => bankOk_wakePad) (by simp)
  · exact hlow _

theorem banksOk_resumeCore : (resumeCore s).banksOk :=
  padsOk_map (p := s.pads) h (f := fun _ => wakePad) (fun _ _ => bankOk_wakePad) (by simp [resumeCore])

theorem exec_banksOk_countersRead (m : Mbx) : (after (execCountersRead m s) s).banksOk := by
  refine after_onRequest_keeps h fun r => ?_
  dsimp only
  split
  · refine padsOk_map (p := s.pads) h (f := fun _ x => { x with corrected := 0, conflicts := 0 })
      (fun _ _ hx => bankOk_of_owner hx rfl rfl) (by simp)
  · exact banksOk_of_pads h (by simp)

theorem exec_banksOk_ebbEnter (m : Mbx) : (after (execEbbEnter m s) s).banksOk := by
  refine after_onRequest_keeps h fun r => ?_
  dsimp only
  have hleft : (leaveRoles (startLeaving .ebb m s)).banksOk := banksOk_of_pads h (by simp)
  split
  · exact hleft
  · split
    · exact banksOk_of_pads hleft (by simp)
    · split
      · exact hleft
      · split
        · split
          · exact hleft
          · exact banksOk_of_pads hleft (by simp)
        · exact banksOk_enterEbb (banksOk_of_pads hleft (by simp))

theorem banksOk_work : s.work.banksOk := banksOk_of_pads h (by simp)

theorem exec_banksOk_transitLoadWake : (after (execTransitLoadWake s) s).banksOk := by
  have hawake : s.stayAwake.banksOk := banksOk_of_pads h (by simp)
  exact after_ite_keeps h (after_ite_keeps (banksOk_work (banksOk_leaveLow h)) hawake)

theorem exec_banksOk_powerStateExit (w : WakeEvent) : (after (execPowerStateExit w s) s).banksOk := by
  have hawake : s.stayAwake.banksOk := banksOk_of_pads h (by simp)
  exact after_ite_keeps (banksOk_work (banksOk_leaveLow h)) hawake

theorem exec_banksOk_scratchpadCorrectedRead (b : Fin 32) (a : Nat) (i : Bool) :
    (after (execScratchpadCorrectedRead b a i s) s).banksOk := by
  refine after_ite_keeps h (after_ite_keeps (banksOk_of_pads h (by simp)) ?_)
  have hpad : (s.onPad b.val (fun x => { x with
      corrected := min 0xFFF (x.corrected + 1)
      recent := if s.pads.neapExit.any (fun t => s.clk.time ≤ t + second) then x.recent + 1 else x.recent })).banksOk :=
    banksOk_onPad h (bankOk_of_owner (h b.val) rfl rfl)
  exact after_ite_keeps (banksOk_of_pads hpad (by simp)) (banksOk_of_pads hpad (by simp))

theorem exec_banksOk_bankHandover (b : Fin 32) (w : Bool) (k : Nat) : (after (execBankHandover b w k s) s).banksOk := by
  unfold execBankHandover
  dsimp only
  split
  · exact h
  · next hgo =>
    simp only [Bool.or_eq_true, not_or, Bool.not_eq_true, Bool.not_eq_false'] at hgo
    obtain ⟨⟨⟨hmove, -⟩, -⟩, -⟩ := hgo
    have hb : (s.pad b.val).owner.staging ∧ ∀ m, (s.pad b.val).moving = some m → m.1.staging := by
      have := h b.val
      rwa [bankOk, if_pos hmove] at this
    split
    · refine after_ite_keeps (after_ite_keeps (banksOk_moveBank h hmove (staging_otherStage _))
        (after_next_keeps (banksOk_onPad h ?_))) (after_next_keeps (banksOk_onPad h ?_))
      · refine bankOk_staging hmove hb.1 fun m hm => ?_
        obtain rfl : _ = m := by simpa using hm
        exact staging_otherStage _
      · exact bankOk_of_owner (h b.val) rfl rfl
    · next o t hmoving => exact after_ite_keeps (banksOk_moveBank h hmove (hb.2 _ hmoving)) h

theorem exec_banksOk_bankHandoverTimeout (b : Fin 32) : (after (execBankHandoverTimeout b s) s).banksOk := by
  unfold execBankHandoverTimeout
  split
  · refine after_ite_keeps (after_next_keeps (banksOk_onPad h ?_)) h
    exact bankOk_settled (h b.val) rfl rfl
  · exact h

theorem exec_banksOk_powerOnReset (p : Straps) (f : StartFacts) (v : Nat) :
    (after (execPowerOnReset p f v s) s).banksOk := by
  have hstart (t : State) (ht : t.pads = s.pads) : (mendBedrock (startCore true false f t)).banksOk :=
    banksOk_of_pads (banksOk_startCore (banksOk_of_pads h ht) true false f) (by simp)
  refine after_ite_keeps h ?_
  rw [after_next]
  split
  · refine banksOk_of_pads (hstart _ ?_) (by simp; rfl)
    rfl
  · refine hstart _ ?_
    rfl

theorem exec_banksOk_lastTideComplete (f : StartFacts) : (after (execLastTideComplete f s) s).banksOk := by
  have hends : ((tideAnchor (lastTideEnds none s)).log 0x0E08 2 srcAlwaysOn []).banksOk := banksOk_of_pads h (by simp)
  have hoff := banksOk_clearCore hends false
  unfold execLastTideComplete
  split
  · exact h
  · dsimp only
    generalize (tideAnchor (lastTideEnds none s)).log 0x0E08 2 srcAlwaysOn [] = t at hends hoff
    split
    · have htrip : ({ t with pwr := { t.pwr with tripped := true } } : State).banksOk := banksOk_of_pads hends rfl
      exact banksOk_of_pads (banksOk_enterEbb htrip) (by simp)
    · exact banksOk_heldStart (banksOk_of_pads hoff (by simp)) f
    · exact banksOk_startCore (banksOk_of_pads hoff (by simp)) false false f
    · exact banksOk_startCore (banksOk_of_pads hoff (by simp)) false false f
    · exact banksOk_startCore hoff false false f
    · exact banksOk_supplyStart (banksOk_of_pads hoff (by simp)) f

theorem exec_banksOk_ebbExit (w : EbbWake) (cool : Bool) (f : StartFacts) :
    (after (execEbbExit w cool f s) s).banksOk := by
  have hcause (c : Bool) (t : State) (ht : t.banksOk) : (if c then t.cause evThermal else t).banksOk := by
    split
    · exact banksOk_of_pads ht (by simp)
    · exact ht
  refine after_ite_keeps h (after_ite_keeps h ?_)
  dsimp only
  generalize hg : enterState .starting (addGap _) = g
  have hgap : g.banksOk := banksOk_of_pads h (by simp [← hg])
  refine after_ite_keeps (hcause _ _ ?_) (hcause _ _ ?_)
  · split
    · exact banksOk_clearCore hgap false
    · exact banksOk_startCore (banksOk_clearCore hgap false) _ _ f
  · exact banksOk_of_pads (banksOk_resumeCore hgap) (foldl_pads _ (by simp) _ _)

end

theorem exec_banksOk (c : Instr) {s : State} (h : s.banksOk) : (after (exec c s) s).banksOk := by
  cases c with
  | countersRead m => exact exec_banksOk_countersRead h m
  | ebbEnter m => exact exec_banksOk_ebbEnter h m
  | transitLoadWake => exact exec_banksOk_transitLoadWake h
  | scratchpadCorrectedRead b a i => exact exec_banksOk_scratchpadCorrectedRead h b a i
  | bankHandover b w k => exact exec_banksOk_bankHandover h b w k
  | bankHandoverTimeout b => exact exec_banksOk_bankHandoverTimeout h b
  | bankRetentionWake b =>
    refine after_ite_keeps (after_next_keeps (banksOk_onPad h ?_)) h
    exact bankOk_of_owner (h b.val) rfl rfl
  | bankRetentionReturn b =>
    refine after_ite_keeps (after_next_keeps (banksOk_onPad h ?_)) h
    exact bankOk_of_owner (h b.val) rfl rfl
  | powerOnReset p f v => exact exec_banksOk_powerOnReset h p f v
  | plpNHigh f => exact banksOk_supplyStart (banksOk_of_pads h (by rfl)) f
  | coreRstNHigh f => exact banksOk_heldStart (banksOk_of_pads h (by rfl)) f
  | vinRecovery v f => exact after_ite_keeps (banksOk_supplyStart (banksOk_of_pads h (by rfl)) f) h
  | lastTideComplete f => exact exec_banksOk_lastTideComplete h f
  | vinCollapse w => exact after_ite_keeps h (banksOk_loseVin (banksOk_of_pads h (by simp)))
  | neapEntry => exact after_ite_keeps h (banksOk_commitNeap h)
  | powerStateExit w => exact exec_banksOk_powerStateExit h w
  | ebbExit w cool f => exact exec_banksOk_ebbExit h w cool f
  | lossOfVin => exact after_ite_keeps h (banksOk_loseVin h)
  | _ => exact banksOk_of_pads h (exec_pads s rfl)

/-! ## The diagnostic windows and the injections (R181 to R183) -/

/-- No two of these injections are armed on one target (R181). -/
def ArmsApart (l : List Arm) : Prop := (l.filter (fun a => a.st = .armed)).Pairwise (fun a b => a.target ≠ b.target)

/-- The windows are in canonical form, and the armed injections stand on different targets. -/
structure Integ.Ok (i : Integ) : Prop where
  dram : Memory.wf i.dramWin
  pad  : Memory.wf i.padWin
  arms : ArmsApart i.arms

theorem integOk_iff (s : State) : Integ.Ok s.integ ↔ s.windowsOk ∧ s.armsOk :=
  ⟨fun ⟨hd, hp, ha⟩ => ⟨⟨hd, hp⟩, ha⟩, fun ⟨⟨hd, hp⟩, ha⟩ => ⟨hd, hp, ha⟩⟩

theorem armsApart_sublist {l m : List Arm} (h : ArmsApart m) (hl : l.Sublist m) : ArmsApart l := h.sublist (hl.filter _)

/-- A change that arms nothing and moves no injection to another target. -/
theorem armsApart_map {l : List Arm} {f : Arm → Arm} (h : ArmsApart l) (ht : ∀ a, (f a).target = a.target)
    (hf : ∀ a, (f a).st = .armed → a.st = .armed) : ArmsApart (l.map f) := by
  unfold ArmsApart
  rw [List.filter_map, List.pairwise_map]
  simp only [ht]
  exact h.sublist (List.monotone_filter_right l fun a ha => by simpa using hf a (by simpa using ha))

theorem armsApart_updateWhere {l : List Arm} (p : Arm → Bool) {f : Arm → Arm} (h : ArmsApart l)
    (ht : ∀ a, (f a).target = a.target) (hf : ∀ a, (f a).st = .armed → a.st = .armed) : ArmsApart (updateWhere p f l) := by
  refine armsApart_map h (fun a => ?_) (fun a => ?_)
  · split
    · exact ht a
    · rfl
  · split
    · exact hf a
    · exact id

/-- An injection is armed on a target that has no other (R181). -/
theorem armsApart_append {l : List Arm} {x : Arm} (h : ArmsApart l)
    (hx : l.any (fun a => a.target = x.target && a.st = .armed) = false) : ArmsApart (l ++ [x]) := by
  unfold ArmsApart
  rw [List.filter_append, List.pairwise_append]
  refine ⟨h, ?_, fun a ha b hb => ?_⟩
  · exact List.Pairwise.sublist (List.filter_sublist) (List.pairwise_singleton _ _)
  · obtain rfl : b = x := by simpa using List.mem_of_mem_filter hb
    obtain ⟨hmem, harmed⟩ := List.mem_filter.mp ha
    intro ht
    exact absurd (List.any_eq_false.mp hx a hmem) (by simpa [ht] using harmed)

theorem keepArms_sublist (l : List Arm) : (keepArms l).Sublist l := by
  have h := (List.filter_sublist (l := l.zipIdx) (p := fun x => l.length - 16 ≤ x.2 || x.1.st = .armed)).map Prod.fst
  rwa [List.zipIdx_map_fst] at h

theorem integOk_of_eq {i j : Integ} (h : Integ.Ok i) (hd : j.dramWin = i.dramWin) (hp : j.padWin = i.padWin)
    (ha : j.arms = i.arms) : Integ.Ok j :=
  ⟨hd ▸ h.dram, hp ▸ h.pad, ha ▸ h.arms⟩

theorem integOk_clearInteg {i : Integ} (h : Integ.Ok i) (ebb : Bool) : Integ.Ok (clearInteg ebb i) := by
  have hnil : Memory.wf [] := ⟨.nil, by simp⟩
  refine ⟨hnil, ?_, armsApart_map h.arms (fun a => ?_) (fun a => ?_)⟩
  · cases ebb
    · exact hnil
    · exact h.pad
  · split <;> rfl
  · split
    · exact fun ha => nomatch ha
    · exact id

section
variable {s : State} (h : Integ.Ok s.integ)
include h

/-- What leaves the diagnostic state alone. -/
theorem integOk_of_integ {t : State} (hi : t.integ = s.integ) : Integ.Ok t.integ := hi ▸ h

theorem integOk_work : Integ.Ok s.work.integ := integOk_of_integ h (by simp)

theorem integOk_onDp (f : Env → Dp → Dp) : Integ.Ok (s.onDp f).integ := h

theorem integOk_log (code sev src : Nat) (a : List Nat) : Integ.Ok (s.log code sev src a).integ :=
  integOk_of_integ h (by simp)

theorem integOk_answer (m : Mbx) (l : List Byte) : Integ.Ok (s.answer m l).integ := integOk_of_integ h (by simp)

theorem integOk_dramOut (c : Nat) (o : DramCmd) : Integ.Ok (dramOut c o s).integ := integOk_of_integ h (by simp)

theorem integOk_onArm (id : Nat) {f : Arm → Arm} (ht : ∀ a, (f a).target = a.target)
    (hf : ∀ a, (f a).st = .armed → a.st = .armed) : Integ.Ok (onArm id f s).integ :=
  ⟨h.dram, h.pad, armsApart_updateWhere _ h.arms ht hf⟩

theorem integOk_fireArm (x : Arm) : Integ.Ok (fireArm x s).integ := by
  refine integOk_onArm h x.id (fun a => ?_) (fun a => ?_)
  · split <;> rfl
  · split
    · next ha => exact fun _ => ha
    · exact id

theorem integOk_noteArm (id fixed : Nat) (bad : Bool) : Integ.Ok (noteArm id fixed bad s).integ :=
  integOk_onArm h id (fun _ => rfl) (fun _ ha => ha)

theorem integOk_disarmAll : Integ.Ok (disarmAll s).integ := by
  refine ⟨h.dram, h.pad, armsApart_map h.arms (fun a => ?_) (fun a => ?_)⟩
  · split <;> rfl
  · split
    · exact fun ha => nomatch ha
    · exact id

theorem integOk_endDiag : Integ.Ok (endDiag s).integ := by
  unfold endDiag
  split
  · exact integOk_of_integ (s := disarmAll _) (integOk_disarmAll (s := { s with dp := _ }) h) (by simp; rfl)
  · exact h

theorem integOk_endSession (m : Mbx) : Integ.Ok (endSession m s).integ := by
  unfold endSession
  split
  · exact integOk_endDiag h
  · exact h

theorem integOk_enterState (p : PState) : Integ.Ok (enterState p s).integ := by
  unfold enterState
  split
  · exact h
  · dsimp only
    split
    · exact integOk_of_integ (integOk_disarmAll h) (by simp)
    · exact integOk_of_integ h (by simp)

theorem integOk_clearCore (ebb : Bool) : Integ.Ok (clearCore ebb s).integ := integOk_clearInteg h ebb

theorem integOk_loseVin : Integ.Ok (loseVin s).integ := integOk_clearInteg h false

theorem integOk_resetPort (p : PortId) (kept : LinkKept) : Integ.Ok (resetPort p kept s).integ := by
  have hboxes (l : List Mbx) {t : State} (ht : Integ.Ok t.integ) : Integ.Ok (l.foldl (fun s m => endSession m s) t).integ := by
    induction l generalizing t with
    | nil => exact ht
    | cons m l ih => exact ih (integOk_endSession ht m)
  have hcause (c : Bool) (f : Env → Dp → Dp) {t : State} (ht : Integ.Ok t.integ) :
      Integ.Ok (if c then t.onDp f else t).integ := by
    split <;> exact ht
  unfold resetPort
  exact hcause _ _ (hcause _ _ (hboxes _ h))

theorem integOk_downPort (p : PortId) : Integ.Ok (downPort p s).integ := integOk_resetPort h p _

theorem integOk_readWindow (dram : Bool) (unit adr n : Nat) : Integ.Ok (readWindow dram unit adr n s).1.integ := by
  have hnote (l : List (Flaw × Judged)) {t : State} (ht : Integ.Ok t.integ) :
      Integ.Ok (l.foldl (fun s x => noteArm x.1.arm x.2.fixed x.2.bad s) t).integ := by
    induction l generalizing t with
    | nil => exact ht
    | cons x l ih => exact ih (integOk_noteArm ht _ _ _)
  unfold readWindow
  dsimp only
  generalize hjs : List.map _ _ = js
  have hnoted := hnote js h
  split
  · split <;> exact integOk_of_eq hnoted (by simp) (by simp) (by simp)
  · exact integOk_of_eq hnoted rfl rfl rfl

theorem integOk_writeWin (dram : Bool) (unit adr : Nat) (l : List Byte) : Integ.Ok (writeWin dram unit adr l s).integ := by
  have hwritten (i : Integ) (hi : i = if dram then
        { s.integ with
          dramWin := Memory.writeBytes s.integ.dramWin (unit * dramWindow + adr) l
          dramBad := s.integ.dramBad.filter (fun f => !(f.unit = unit && adr ≤ f.address && f.address < adr + l.length)) }
      else
        { s.integ with
          padWin := Memory.writeBytes s.integ.padWin adr l
          padBad := s.integ.padBad.filter (fun f => !(f.unit = unit && adr ≤ f.address && f.address < adr + l.length)) }) :
      Integ.Ok i := by
    subst hi
    split
    · exact ⟨writeBytes_wf _ _ _ h.dram, h.pad, h.arms⟩
    · exact ⟨h.dram, writeBytes_wf _ _ _ h.pad, h.arms⟩
  unfold writeWin
  dsimp only
  generalize hi : (if dram = true then _ else _ : Integ) = i
  have hok := hwritten i hi.symm
  split
  · exact hok
  · next a _ =>
    have hfired := integOk_fireArm (s := { s with integ := i }) hok a
    split <;> exact integOk_of_eq hfired rfl rfl rfl

theorem integOk_readCw (adr : Nat) (l : List CwResult) : Integ.Ok (readCw adr l s).1.integ := by
  unfold readCw
  dsimp only
  split
  · split
    · exact integOk_of_eq h rfl rfl rfl
    · exact integOk_of_eq (integOk_noteArm h _ _ _) rfl rfl rfl
  · exact integOk_of_eq h rfl rfl rfl

theorem integOk_diagSlot (adr : Nat) (pat : Option (BitVec 32)) (l : List Nat) (arm : Nat) :
    Integ.Ok (diagSlot adr pat l arm s).integ := integOk_of_eq h rfl rfl rfl

theorem integOk_writeCw (m : Mbx) (adr : Nat) (pat : BitVec 32) : Integ.Ok (writeCw m adr pat s).integ := by
  have hslots (l : List Nat) (f : State → Nat → State) (hf : ∀ t i, Integ.Ok t.integ → Integ.Ok (f t i).integ) {t : State}
      (ht : Integ.Ok t.integ) : Integ.Ok (l.foldl f t).integ := by
    induction l generalizing t with
    | nil => exact ht
    | cons x l ih => exact ih (hf t x ht)
  unfold writeCw
  dsimp only
  split
  · exact integOk_of_integ h (by simp)
  · refine integOk_answer (hslots _ _ (fun t i ht => ?_) ?_) ..
    · split
      · exact integOk_diagSlot ht ..
      · exact integOk_diagSlot ht ..
    · cases armFor s 3 0 adr 1 with
      | some a => exact integOk_of_eq (integOk_fireArm h a) rfl rfl rfl
      | none => exact integOk_of_eq h rfl rfl rfl

theorem integOk_sendTest (p : CwPort) : Integ.Ok (sendTest p s).integ := by
  unfold sendTest
  dsimp only
  split
  · exact h
  · split
    · exact h
    · split
      · exact integOk_onArm (integOk_fireArm (integOk_onDp h _) _) _ (fun _ => rfl) (fun _ ha => ha)
      · exact integOk_onDp h _

theorem integOk_sendTests : Integ.Ok (sendTests s).integ := by
  unfold sendTests
  have hports (l : List CwPort) {t : State} (ht : Integ.Ok t.integ) : Integ.Ok (l.foldl (fun s p => sendTest p s) t).integ := by
    induction l generalizing t with
    | nil => exact ht
    | cons p l ih => exact ih (integOk_sendTest ht p)
  exact hports _ h

theorem integOk_startHoldup : Integ.Ok (startHoldup s).integ := integOk_of_eq h rfl rfl rfl

theorem integOk_startTide (t : Trigger) : Integ.Ok (startTide t s).integ := by
  have hstate : Integ.Ok (enterState .lastTide (s.onDp leaveRing)).integ := integOk_enterState (integOk_onDp h _) _
  exact integOk_of_integ hstate (by simp [startTide])

theorem integOk_tideTrigger (t : Trigger) : Integ.Ok (tideTrigger t s).integ := by
  unfold tideTrigger
  dsimp only
  split
  · exact h
  · split
    · exact h
    · exact integOk_startTide h t

theorem integOk_faultTrigger (t : Trigger) : Integ.Ok (faultTrigger t s).integ := by
  unfold faultTrigger
  dsimp only
  split
  · exact integOk_of_integ h (by simp)
  · exact integOk_tideTrigger h t

theorem integOk_enterReady : Integ.Ok (enterReady s).integ := by
  have hstate (b : Boot) : Integ.Ok (enterState .flood (setCode 0x07 { s with boot := b })).integ :=
    integOk_enterState (integOk_of_integ h (by simp)) _
  unfold enterReady
  refine integOk_of_integ (integOk_startHoldup ?_) (by simp; rfl)
  exact integOk_of_integ (hstate _) (by simp; rfl)

theorem integOk_noteDiagFix : Integ.Ok (noteDiagFix s).integ := integOk_of_eq h rfl rfl rfl

theorem integOk_dramAction (g : DramRegion) : Integ.Ok (dramAction g s).integ := by
  cases g with
  | firmware => exact integOk_faultTrigger h _
  | diagnostic => exact integOk_of_eq h rfl rfl rfl
  | _ => exact integOk_of_integ h (by simp [dramAction])

theorem integOk_padAction (g : PadRegion) : Integ.Ok (padAction g s).integ := by
  cases g with
  | firmware | other => exact integOk_faultTrigger h _
  | diagnostic => exact integOk_of_eq h rfl rfl rfl
  | _ => exact integOk_of_integ h (by simp [padAction])

theorem integOk_mendBurst (c offset : Nat) : Integ.Ok (mendBurst c offset s).integ := integOk_of_eq h rfl rfl rfl

theorem integOk_patrolBurst (c n rank : Nat) (k : Option Nat) (w : Bool) : Integ.Ok (patrolBurst c n rank k w s).integ := by
  unfold patrolBurst
  split
  · exact h
  · dsimp only
    have hnoted (k : Nat) : Integ.Ok (if windowAt s c ≤ 64 * n then noteDiagFix s
        else (noteFix c rank k n s).onChan c (fun x => { x with
          patrolFix := x.patrolFix.put (compKey rank k) (x.patrolFix.get 0 (compKey rank k) + 1) })).integ := by
      split
      · exact integOk_noteDiagFix h
      · exact integOk_of_integ h (by simp)
    split
    · exact hnoted _
    · refine integOk_dramOut (s := ite _ _ _) ?_ _ _
      split
      · exact integOk_mendBurst (integOk_noteDiagFix h) _ _
      · exact integOk_of_integ h (by simp)

theorem integOk_gateTrip : Integ.Ok (gateTrip s).integ := integOk_tideTrigger (integOk_of_integ h (by simp)) _

theorem integOk_breaker (which : Nat) : Integ.Ok (breaker which s).integ := by
  unfold breaker
  split
  · exact h
  · dsimp only
    split
    · exact integOk_of_integ h (by simp)
    · exact integOk_gateTrip (integOk_of_integ h (by simp))

theorem integOk_enterEbb : Integ.Ok (enterEbb s).integ := by
  have hleft {t : State} (ht : t.integ = s.integ) : Integ.Ok (enterState .ebb (clearCore true t)).integ :=
    integOk_enterState (integOk_clearCore (integOk_of_integ h ht) true) _
  unfold enterEbb
  refine hleft (t := State.onDp (State.onDp s _) _) ?_
  simp

theorem integOk_commitSlack : Integ.Ok (commitSlack s).integ :=
  integOk_of_integ (integOk_enterState h .slack) (by simp [commitSlack])

theorem integOk_holdsGone : Integ.Ok (holdsGone s).integ := by
  unfold holdsGone
  split
  · exact integOk_commitSlack h
  · exact h

theorem integOk_commitNeap : Integ.Ok (commitNeap s).integ := by
  have hslept (l : List Nat) : Integ.Ok (enterState .neap (l.foldl sleepChan s)).integ :=
    integOk_enterState (integOk_of_integ h (foldl_integ _ (by simp) _ _)) _
  exact integOk_of_integ (hslept (List.range 4)) (by simp [commitNeap])

theorem integOk_leaveLow : Integ.Ok (leaveLow s).integ := by
  refine integOk_of_integ (integOk_enterState h .flood) ?_
  unfold leaveLow
  dsimp only
  split <;> simp

theorem integOk_replayed (unit : Nat) (again : List Nat) :
    Integ.Ok { s.integ with arms := s.integ.arms.map (replayArm unit again) } := by
  refine ⟨h.dram, h.pad, armsApart_map h.arms (fun a => ?_) (fun a => ?_)⟩
  · unfold replayArm
    split <;> rfl
  · unfold replayArm
    split <;> exact id

/-- An injection is accepted on a target without an armed one alone (R181). -/
theorem exec_integOk_injectCheckbits (m : Mbx) : Integ.Ok (after (execInjectCheckbits m s) s).integ := by
  refine after_onRequest_keeps (P := fun t => Integ.Ok t.integ) h fun r => ?_
  dsimp only
  generalize (if fieldAt r.payload 0 1 = 1 then 64 else 1) = n
  split
  · exact integOk_of_integ h (by simp)
  · split
    · exact integOk_of_integ h (by simp)
    · next hfree =>
      refine integOk_answer ?_ ..
      refine ⟨h.dram, h.pad, armsApart_sublist (armsApart_append h.arms ?_) (keepArms_sublist _)⟩
      simpa using hfree

theorem integOk_onSub {m : Mbx} {op i sub : Nat} {f : MbReq → State → State} (hf : ∀ r, Integ.Ok (f r s).integ) :
    Integ.Ok (after (onSub m op i sub f s) s).integ := by
  refine after_onRequest_keeps (P := fun t => Integ.Ok t.integ) h fun r => ?_
  split
  · exact hf r
  · exact h

theorem exec_integOk_diagRead (m : Mbx) (l : List CwResult) : Integ.Ok (after (execDiagRead m l s) s).integ := by
  refine integOk_onSub h fun r => ?_
  dsimp only
  split
  · exact integOk_of_integ h (by simp)
  · split
    · exact integOk_answer (integOk_readCw h _ _) ..
    · exact integOk_answer (integOk_readWindow h ..) ..

theorem exec_integOk_diagWrite (m : Mbx) : Integ.Ok (after (execDiagWrite m s) s).integ := by
  refine integOk_onSub h fun r => ?_
  dsimp only
  split
  · exact integOk_of_integ h (by simp)
  · split
    · exact integOk_writeCw h ..
    · exact integOk_answer (integOk_writeWin h ..) ..

theorem exec_integOk_diagErase (m : Mbx) : Integ.Ok (after (execDiagErase m s) s).integ :=
  integOk_onSub h fun _ => by
    refine integOk_answer (integOk_onDp (s := { s with integ := { s.integ with pages := [], cws := [] } }) ?_ _) _ _
    exact integOk_of_eq h rfl rfl rfl

theorem exec_integOk_sessionReset (m : Mbx) : Integ.Ok (after (execSessionReset m s) s).integ := by
  refine after_onRequest_keeps (P := fun t => Integ.Ok t.integ) h fun _ => ?_
  exact integOk_answer (integOk_onDp (integOk_endSession h m) _) ..

theorem exec_integOk_diagAuthRelease (m : Mbx) : Integ.Ok (after (execDiagAuthRelease m s) s).integ := by
  refine after_onRequest_keeps (P := fun t => Integ.Ok t.integ) h fun _ => ?_
  exact integOk_answer (integOk_endDiag h) ..

theorem exec_integOk_fwActivate (m : Mbx) : Integ.Ok (after (execFwActivate m s) s).integ := by
  refine after_onRequest_keeps (P := fun t => Integ.Ok t.integ) h fun r => ?_
  have hgo {t : State} (ht : t.integ = s.integ) :
      Integ.Ok (if rolesHeld t.dp then t else tideTrigger .activate (t.answer m [1])).integ := by
    split
    · exact integOk_of_integ h ht
    · exact integOk_tideTrigger (integOk_of_integ h (by simp [ht])) _
  dsimp only
  split
  · exact hgo (by simp)
  · split
    · exact integOk_of_integ h (by simp)
    · split
      · exact integOk_of_integ h (by simp)
      · split
        · exact hgo (by simp)
        · exact integOk_of_integ h (by simp)

theorem exec_integOk_ebbEnter (m : Mbx) : Integ.Ok (after (execEbbEnter m s) s).integ := by
  refine after_onRequest_keeps (P := fun t => Integ.Ok t.integ) h fun r => ?_
  dsimp only
  have hleft : Integ.Ok (leaveRoles (startLeaving .ebb m s)).integ := integOk_of_integ h (by simp)
  split
  · exact hleft
  · split
    · exact integOk_of_integ hleft (by simp)
    · split
      · exact hleft
      · split
        · split
          · exact hleft
          · exact integOk_of_integ hleft (by simp)
        · exact integOk_enterEbb (integOk_answer hleft ..)

theorem exec_integOk_perstNAssert : Integ.Ok (after (execPerstNAssert s) s).integ := by
  have hwake (hp : Hp) : Integ.Ok (noteWake .perst { s with dp := { s.dp with hp := hp } }).integ :=
    integOk_of_integ h (by simp)
  refine after_ite_keeps (P := fun t => Integ.Ok t.integ) (hwake _) ?_
  exact integOk_work (integOk_downPort (integOk_downPort (hwake _) _) _)

theorem exec_integOk_flr (p : PortId) : Integ.Ok (after (execFlr p s) s).integ := by
  refine after_ite_keeps (P := fun t => Integ.Ok t.integ) h ?_
  exact integOk_work (integOk_resetPort (integOk_of_integ h (by simp)) _ _)

theorem exec_integOk_hostLinkDown (p : PortId) : Integ.Ok (after (execHostLinkDown p s) s).integ := by
  refine after_ite_keeps (P := fun t => Integ.Ok t.integ) h ?_
  exact integOk_work (integOk_downPort (integOk_of_integ h (by simp)) _)

theorem exec_integOk_linkCtlNak (p : CwPort) (n : Nat) : Integ.Ok (after (execLinkCtlNak p n s) s).integ := by
  unfold execLinkCtlNak
  dsimp only
  split
  · exact integOk_replayed h ..
  · exact h

theorem exec_integOk_transitLoadWake : Integ.Ok (after (execTransitLoadWake s) s).integ := by
  refine after_ite_keeps (P := fun t => Integ.Ok t.integ) h (after_ite_keeps (P := fun t => Integ.Ok t.integ) ?_ ?_)
  · exact integOk_work (integOk_leaveLow h)
  · exact integOk_of_integ h (by simp)

theorem exec_integOk_powerStateExit (w : WakeEvent) : Integ.Ok (after (execPowerStateExit w s) s).integ := by
  refine after_ite_keeps (P := fun t => Integ.Ok t.integ) ?_ ?_
  · exact integOk_work (integOk_leaveLow h)
  · exact integOk_of_integ h (by simp)

theorem exec_integOk_dramUncorrectableRead (c : DramCh) (g : DramRegion) :
    Integ.Ok (after (execDramUncorrectableRead c g s) s).integ := by
  refine after_ite_keeps (P := fun t => Integ.Ok t.integ) h (after_ite_keeps (P := fun t => Integ.Ok t.integ) ?_
    (after_ite_keeps (P := fun t => Integ.Ok t.integ) ?_ ?_))
  · exact integOk_dramAction (integOk_log h ..) _
  · exact integOk_of_integ h (by simp)
  · exact integOk_dramAction (integOk_of_integ h (by simp)) _

theorem exec_integOk_dramPatrol (c : DramCh) (r : Nat) (k : Option Nat) (w : Bool) :
    Integ.Ok (after (execDramPatrol c r k w s) s).integ := by
  have hend {t : State} (ht : Integ.Ok t.integ) : Integ.Ok (endPass c.val t).integ := integOk_of_integ ht (by simp)
  refine after_ite_keeps (P := fun t => Integ.Ok t.integ) h (after_ite_keeps (P := fun t => Integ.Ok t.integ) (hend h) ?_)
  dsimp only
  generalize hread : State.onChan c.val _ s = t
  have hburst : Integ.Ok (patrolBurst c.val (s.dram.chan c.val).patrolRead r k w t).integ :=
    integOk_patrolBurst (integOk_of_integ h (by simp [← hread])) ..
  rw [after_next]
  split
  · exact hend hburst
  · exact hburst

theorem exec_integOk_scratchpadCorrectedRead (b : Fin 32) (a : Nat) (i : Bool) :
    Integ.Ok (after (execScratchpadCorrectedRead b a i s) s).integ := by
  refine after_ite_keeps (P := fun t => Integ.Ok t.integ) h (after_ite_keeps (P := fun t => Integ.Ok t.integ)
    (integOk_noteDiagFix h) (after_ite_keeps (P := fun t => Integ.Ok t.integ) ?_ ?_))
  · exact integOk_of_integ h (by simp)
  · exact integOk_of_integ h (by simp)

theorem exec_integOk_scratchpadUncorrectableRead (b : Fin 32) (g : PadRegion) :
    Integ.Ok (after (execScratchpadUncorrectableRead b g s) s).integ := by
  refine after_ite_keeps (P := fun t => Integ.Ok t.integ) h (integOk_padAction ?_ g)
  split
  · exact integOk_log h ..
  · exact integOk_of_integ h (by simp)

theorem exec_integOk_vetoHoldRequest (b : HeldBlock) (r : Bool) : Integ.Ok (after (execVetoHoldRequest b r s) s).integ := by
  refine after_ite_keeps (P := fun t => Integ.Ok t.integ) h (after_ite_keeps (P := fun t => Integ.Ok t.integ) ?_
    (after_ite_keeps (P := fun t => Integ.Ok t.integ) h h))
  exact integOk_holdsGone (integOk_of_integ h (by simp))

theorem exec_integOk_vetoTimeout (b : HeldBlock) : Integ.Ok (after (execVetoTimeout b s) s).integ := by
  refine after_ite_keeps (P := fun t => Integ.Ok t.integ) ?_ h
  exact integOk_holdsGone (integOk_of_integ h (by simp))

theorem exec_integOk_injectionArmTimeout (id : Nat) : Integ.Ok (after (execInjectionArmTimeout id s) s).integ := by
  refine integOk_onArm h id (fun a => ?_) (fun a => ?_)
  · split <;> rfl
  · split
    · exact fun ha => nomatch ha
    · exact fun ha => ha

theorem exec_integOk_lastTideComplete (f : StartFacts) : Integ.Ok (after (execLastTideComplete f s) s).integ := by
  have hends : Integ.Ok ((tideAnchor (lastTideEnds none s)).log 0x0E08 2 srcAlwaysOn []).integ :=
    integOk_of_integ h (by simp)
  have hoff := integOk_clearCore hends false
  unfold execLastTideComplete
  split
  · exact h
  · dsimp only
    generalize (tideAnchor (lastTideEnds none s)).log 0x0E08 2 srcAlwaysOn [] = t at hends hoff
    split
    · exact integOk_log (integOk_enterEbb (s := { t with pwr := { t.pwr with tripped := true } }) hends) ..
    · exact integOk_of_integ hoff (by simp)
    · exact integOk_of_integ hoff (by simp)
    · exact integOk_of_integ hoff (by simp)
    · exact integOk_of_integ hoff (by simp)
    · exact integOk_of_integ hoff (by simp)

theorem exec_integOk_sagTestEnd (i v w : Nat) : Integ.Ok (after (execSagTestEnd i v w s) s).integ := by
  have hanswer {t : State} (ht : Integ.Ok t.integ) (m : Option Mbx) (c d : Nat) : Integ.Ok (answerSag m c d t).integ :=
    integOk_of_integ ht (by simp)
  unfold execSagTestEnd
  split
  · exact h
  · refine after_ite_keeps (P := fun t => Integ.Ok t.integ) h (integOk_work (hanswer ?_ _ _ _))
    split
    · exact integOk_startHoldup (integOk_of_integ h (by simp))
    · exact integOk_of_integ h (by simp)

theorem exec_integOk_slackEntry : Integ.Ok (after (execSlackEntry s) s).integ :=
  after_ite_keeps (P := fun t => Integ.Ok t.integ) h (after_ite_keeps (P := fun t => Integ.Ok t.integ) (integOk_commitSlack h) h)

theorem exec_integOk_ebbExit (w : EbbWake) (cool : Bool) (f : StartFacts) :
    Integ.Ok (after (execEbbExit w cool f s) s).integ := by
  have hcause (c : Bool) (t : State) (ht : Integ.Ok t.integ) : Integ.Ok (if c then t.cause evThermal else t).integ := by
    split
    · exact integOk_of_integ ht (by simp)
    · exact ht
  refine after_ite_keeps (P := fun t => Integ.Ok t.integ) h (after_ite_keeps (P := fun t => Integ.Ok t.integ) h ?_)
  dsimp only
  generalize hg : enterState .starting (addGap _) = g
  have hgap : Integ.Ok g.integ := hg ▸ integOk_enterState (integOk_of_integ h (by simp)) _
  refine after_ite_keeps (P := fun t => Integ.Ok t.integ) (hcause _ _ ?_) (hcause _ _ ?_)
  · split
    · exact integOk_clearCore hgap false
    · exact integOk_of_integ (integOk_clearCore hgap false) (by simp)
  · exact integOk_of_integ hgap ((foldl_integ _ (by simp) _ _).trans (by simp))

theorem exec_integOk_ready : Integ.Ok (after (execReady s) s).integ := by
  refine after_ite_keeps (P := fun t => Integ.Ok t.integ) h (integOk_work ?_)
  dsimp only
  generalize ht : (if s.boot.recovered = true then s else _) = t
  have hrecovered : Integ.Ok t.integ := by
    rw [← ht]
    split
    · exact h
    · exact integOk_of_integ h (by simp)
  split
  · exact integOk_enterReady hrecovered
  · exact hrecovered

end

theorem exec_integOk (c : Instr) {s : State} (h : Integ.Ok s.integ) : Integ.Ok (after (exec c s) s).integ := by
  have hif {c : Prop} [Decidable c] {a b : Host.Outcome State Fault Refusal} (ha : Integ.Ok (after a s).integ)
      (hb : Integ.Ok (after b s).integ) : Integ.Ok (after (if c then a else b) s).integ :=
    after_ite_keeps (P := fun t => Integ.Ok t.integ) ha hb
  have htide (p : Pwr) (t : Trigger) : Integ.Ok (tideTrigger t { s with pwr := p }).integ := integOk_tideTrigger (s := { s with pwr := p }) h t
  cases c with
  | sessionReset m => exact exec_integOk_sessionReset h m
  | fwActivate m => exact exec_integOk_fwActivate h m
  | ebbEnter m => exact exec_integOk_ebbEnter h m
  | diagAuthRelease m => exact exec_integOk_diagAuthRelease h m
  | injectCheckbits m => exact exec_integOk_injectCheckbits h m
  | diagRead m l => exact exec_integOk_diagRead h m l
  | diagWrite m => exact exec_integOk_diagWrite h m
  | diagErase m => exact exec_integOk_diagErase h m
  | perstNAssert => exact exec_integOk_perstNAssert h
  | hotReset p => exact hif (integOk_work (integOk_downPort h p)) h
  | flr p => exact exec_integOk_flr h p
  | hostLinkDown p => exact exec_integOk_hostLinkDown h p
  | linkCtlNak p n => exact exec_integOk_linkCtlNak h p n
  | transitLoadWake => exact exec_integOk_transitLoadWake h
  | dramCorrectedRead c r k n d => exact hif h (hif (integOk_noteDiagFix h) (integOk_of_integ h (by simp)))
  | dramUncorrectableRead c g => exact exec_integOk_dramUncorrectableRead h c g
  | dramPatrol c r k w => exact exec_integOk_dramPatrol h c r k w
  | scratchpadCorrectedRead b a i => exact exec_integOk_scratchpadCorrectedRead h b a i
  | scratchpadUncorrectableRead b g => exact exec_integOk_scratchpadUncorrectableRead h b g
  | vetoHoldRequest b r => exact exec_integOk_vetoHoldRequest h b r
  | vetoTimeout b => exact exec_integOk_vetoTimeout h b
  | injectionArmTimeout id => exact exec_integOk_injectionArmTimeout h id
  | diagAuthIdleTimeout => exact hif (integOk_endDiag h) h
  | trialRestart => exact hif (integOk_tideTrigger h _) h
  | circuitBreaker => exact integOk_breaker h _
  | fastTrip => exact integOk_breaker h _
  | reverseCurrent => exact hif (integOk_gateTrip h) h
  | vinBelowVPlp v => exact hif (htide _ _) h
  | hsVsupBelowVPlp v => exact hif (htide _ _) h
  | plpNLow => exact htide _ _
  | thermalTrip => exact hif h (integOk_tideTrigger (integOk_of_integ h (by simp)) _)
  | coreRstNLow => exact integOk_tideTrigger (integOk_of_integ h (by simp)) _
  | watchdogExpiry => exact hif h (integOk_faultTrigger (integOk_log h ..) _)
  | lastTideComplete f => exact exec_integOk_lastTideComplete h f
  | vinCollapse w => exact hif h (integOk_loseVin (integOk_of_integ h (by simp)))
  | sagTestEnd i v w => exact exec_integOk_sagTestEnd h i v w
  | slackEntry => exact exec_integOk_slackEntry h
  | neapEntry => exact hif h (integOk_commitNeap h)
  | powerStateExit w => exact exec_integOk_powerStateExit h w
  | ebbExit w cool f => exact exec_integOk_ebbExit h w cool f
  | ready => exact exec_integOk_ready h
  | lossOfVin => exact hif h (integOk_loseVin h)
  | _ => exact integOk_of_integ h (exec_integ s rfl)

/-! ## The invariant over a step -/

theorem inv_iff (s : State) : s.Inv ↔ Integ.Ok s.integ ∧ s.banksOk ∧ s.gapOk ∧ s.readyOk := by
  rw [integOk_iff]
  exact ⟨fun ⟨hw, hb, ha, hg, hr⟩ => ⟨⟨hw, ha⟩, hb, hg, hr⟩, fun ⟨⟨hw, ha⟩, hb, hg, hr⟩ => ⟨hw, hb, ha, hg, hr⟩⟩

theorem exec_inv (c : Instr) {s : State} (h : s.Inv) : (after (exec c s) s).Inv := by
  obtain ⟨hinteg, hbanks, hgap, hready⟩ := (inv_iff s).mp h
  exact (inv_iff _).mpr ⟨exec_integOk c hinteg, exec_banksOk c hbanks, exec_gapOk c hgap, exec_readyOk c hready⟩

/-- Serving the accesses that wait keeps every bank as it may be. -/
theorem banksOk_memTick {s : State} (h : s.banksOk) : (memTick s).banksOk := by
  have hpads : (memTick s).pads = (if s.dp.mem.pads.isEmpty then (s.dp.mem.pads, s.pads)
      else servePads s.dp.mem.pads s.pads).2 := rfl
  rw [banksOk_iff, hpads]
  split
  · exact h
  · exact padsOk_servePads _ h

theorem tick_inv {s : State} (h : s.Inv) : (tick s).Inv := by
  obtain ⟨hinteg, hbanks, hgap, hready⟩ := (inv_iff s).mp h
  unfold tick
  split
  · split
    · exact (inv_iff _).mpr ⟨hinteg, hbanks, hgap, hready⟩
    · exact h
  · split
    · exact (inv_iff _).mpr ⟨hinteg, hbanks, hgap, hready⟩
    · dsimp only
      generalize hrun : State.onDp _ _ = t
      have hclk : t.clk.frac64 = s.clk.frac64 := by simp [← hrun]
      have hboot : t.boot = s.boot := by simp [← hrun]
      have hpads : t.pads = s.pads := by simp [← hrun]
      have hint : t.integ = s.integ := by simp [← hrun]
      refine (inv_iff _).mpr ⟨?_, ?_, ?_, ?_⟩
      · have hmem : Integ.Ok (memTick t).integ := integOk_of_integ hinteg (by simp [hint])
        exact integOk_of_integ (integOk_sendTests hmem) (by simp)
      · exact banksOk_of_pads (banksOk_memTick (banksOk_of_pads hbanks hpads)) (by simp)
      · exact gapOk_of_frac64 hgap (by simp [hclk])
      · exact readyOk_of_boot hready (by simp [hboot])

/-- Settles O45: a step is a tick or a command, and each keeps the four parts of the invariant. -/
theorem everyStepKeepsTheInvariant : Obligations.EveryStepKeepsTheInvariant := by
  unfold Obligations.EveryStepKeepsTheInvariant
  intro s t h hstep
  unfold step at hstep
  split at hstep
  · obtain rfl : tick s = t := by simpa using hstep
    exact tick_inv h
  · next c rest _ =>
    obtain rfl : after (exec c { s with pending := rest }) { s with pending := rest } = t := by rw [hstep, after_next]
    have hrest : ({ s with pending := rest } : State).Inv := ⟨h.windows, h.banks, h.arms, h.gap, h.ready⟩
    exact exec_inv c hrest

end Sys2Proof.Proofs

/-! # Scratchpad banks (R175 to R178, R482 to R484, R488) -/

namespace Sys2Proof.Proofs

open Sys2Proof.Machine Sys2Proof.Laws

/-- A bank's record depends on the scratchpad alone. -/
theorem pad_of_pads {s t : State} (h : t.pads = s.pads) (n : Nat) : t.pad n = s.pad n := by
  unfold State.pad
  rw [h]

theorem pad_onPad_self (n : Nat) (f : Pad → Pad) (s : State) : (s.onPad n f).pad n = f (s.pad n) := by
  rw [pad_onPad, if_pos rfl]

/-! ## Corrections and losses -/

theorem execScratchpadCorrectedRead_counts {s : State} {b : Fin 32} {a : Nat} (i : Bool) (hruns : padRuns s b.val = true)
    (hout : ¬(b.val = 31 ∧ a < padWindow)) : ∃ t : State, execScratchpadCorrectedRead b a i s = .next t ∧
      (t.pad b.val).corrected = min 0xFFF ((s.pad b.val).corrected + 1) ∧ (t.pad b.val).owner = (s.pad b.val).owner ∧
      t.integ = s.integ := by
  have hwindow : (decide (b.val = 31) && decide (a < padWindow)) = false := by simpa using hout
  simp only [execScratchpadCorrectedRead, hruns, hwindow, Bool.not_true, Bool.false_eq_true, if_false]
  generalize hcount : s.onPad b.val _ = u
  have hpad : (u.pad b.val).corrected = min 0xFFF ((s.pad b.val).corrected + 1) ∧
      (u.pad b.val).owner = (s.pad b.val).owner := by
    rw [← hcount, pad_onPad_self]
    exact ⟨rfl, rfl⟩
  have hinteg : u.integ = s.integ := by rw [← hcount]; rfl
  obtain ⟨hcorrected, howner⟩ := hpad
  split
  · refine ⟨_, rfl, ?_⟩
    rw [pad_of_pads (s := u) (by simp)]
    exact ⟨hcorrected, howner, by simpa using hinteg⟩
  · exact ⟨_, rfl, hcorrected, howner, hinteg⟩

theorem execScratchpadCorrectedRead_window {s : State} {a : Nat} (i : Bool) (hruns : padRuns s 31 = true)
    (ha : a < padWindow) : execScratchpadCorrectedRead 31 a i s = .next (noteDiagFix s) := by
  simp [execScratchpadCorrectedRead, hruns, ha]

theorem execScratchpadUncorrectableRead_eq {s : State} {b : Fin 32} (g : PadRegion) (hruns : padRuns s b.val = true) :
    execScratchpadUncorrectableRead b g s = .next (padAction g
      (if g = .diagnostic then s.log 0x0D04 4 srcFirmware [b.val, PadRegion.code g]
       else (s.log 0x0D04 4 srcFirmware [b.val, PadRegion.code g]).onDp (fun _ => count 13 1 1))) := by
  simp [execScratchpadUncorrectableRead, hruns]

/-- A lost record keeps its place and its sequence in the ring (R178). -/
theorem loseRecord_ring (e : Env) (d : Dp) (q : Nat) :
    (loseRecord e q d).io.ring.map LogRec.seqn = d.io.ring.map LogRec.seqn ∧
      ∀ r ∈ (loseRecord e q d).io.ring, r.seqn = q → r.code = 0 ∧ r.sev = 4 := by
  simp only [loseRecord, updateWhere, List.map_map, List.map_inj_left, List.mem_map]
  constructor
  · intro r _
    dsimp only [Function.comp]
    split <;> rfl
  · rintro _ ⟨x, -, rfl⟩
    split
    · exact fun _ => ⟨rfl, rfl⟩
    · next hx => exact fun hq => absurd (by simpa using hq) hx

/-! ## Hand-overs -/

theorem pad_moveBank (n : Nat) (o : Owner) (s : State) (k : Nat) : (moveBank n o s).pad k =
    if k = n then { s.pad n with owner := o, moving := none, freeAt := none } else s.pad k := by
  rw [← pad_onPad n k (fun x => { x with owner := o, moving := none, freeAt := none })]
  exact pad_of_pads (by simp [moveBank]) k

section
variable {s : State} {b : Fin 32} (hmove : movableBank b.val = true) (hst : (s.pad b.val).st = .active)
  (hfw : s.boot.fw = true) (htide : s.env.tide = false)
include hmove hst hfw htide

/-- Firmware looks at a movable bank in use that hands over nothing. -/
theorem execBankHandover_settled (w : Bool) (k : Nat) (hm : (s.pad b.val).moving = none) :
    execBankHandover b w k s = .next (
      if (w && (s.pad b.val).freeAt.any (fun t => t + 10000000 ≤ s.clk.time)) = true then
        if k = 0 then moveBank b.val (otherStage (s.pad b.val).owner) s
        else s.onPad b.val (fun x => { x with moving := some (otherStage x.owner, s.clk.time), freeAt := none })
      else s.onPad b.val (fun x => { x with freeAt := if k = 0 then x.freeAt.or (some s.clk.time) else none })) := by
  have hms : 10 * msec = 10000000 := rfl
  simp only [execBankHandover, hmove, hst, hfw, htide, hm, hms, bne_self_eq_false, Bool.not_true, Bool.or_self,
    Bool.false_eq_true, if_false]
  split
  · split <;> rfl
  · rfl

/-- A hand-over that has begun ends when the bank holds no live line. -/
theorem execBankHandover_moving (w : Bool) {o : Owner} {at_ : Nat} (hm : (s.pad b.val).moving = some (o, at_))
    (hin : s.clk.time < at_ + 5000000) : execBankHandover b w 0 s = .next (moveBank b.val o s) := by
  have hms : s.clk.time < at_ + 5 * msec := hin
  simp [execBankHandover, hmove, hst, hfw, htide, hm, hms]

end

theorem execBankHandover_fixed {b : Fin 32} (w : Bool) (k : Nat) (s : State) (hmove : movableBank b.val = false) :
    execBankHandover b w k s = .next s := by
  simp [execBankHandover, hmove]

theorem execBankHandoverTimeout_late {s : State} {b : Fin 32} {o : Owner} {t0 : Nat}
    (hm : (s.pad b.val).moving = some (o, t0)) (hlate : t0 + 5000000 ≤ s.clk.time) :
    execBankHandoverTimeout b s = .next (s.onPad b.val (fun x => { x with moving := none })) := by
  have hms : t0 + 5 * msec ≤ s.clk.time := hlate
  simp [execBankHandoverTimeout, hm, hms]

/-! ## Accesses -/

theorem execBankAccessFault_bank {s : State} (b : Fin 32) (m : Nat) (hon : s.pwr.porHeld = false) :
    execBankAccessFault (.bank b) m s = if (mastersOf (s.pad b.val).owner).contains m then .next s
      else .next ((s.out (.busFault m)).log 0x0D05 4 srcFirmware [b.val, m]) := by
  simp [execBankAccessFault, hon]

theorem execBankAccessFault_saggar {s : State} (a m : Nat) (hon : s.pwr.porHeld = false) :
    execBankAccessFault (.saggar a) m s = if normalWorld.contains m then
        .next (((s.out (.busFault m)).log 0x0B03 4 srcSaggar [m, a]).onDp (fun _ => count 11 2 1))
      else .next s := by
  simp [execBankAccessFault, hon]

theorem leastBy_mem {α : Type} (key : α → Nat) (l : List α) {x : α} (h : leastBy key l = some x) : x ∈ l := by
  induction l generalizing x with
  | nil => cases h
  | cons y l ih =>
    rw [leastBy] at h
    split at h
    · exact Option.some.inj h ▸ List.mem_cons_self
    · next z hz =>
      split at h
      · exact Option.some.inj h ▸ List.mem_cons_self
      · exact Option.some.inj h ▸ List.mem_cons_of_mem _ (ih hz)

theorem nextPad_mem {turn : Nat} {q : List PadReq} {r : PadReq} (h : nextPad turn q = some r) : r ∈ q := by
  simp only [nextPad, Option.or_eq_some_iff] at h
  rcases h with h | ⟨-, h | ⟨-, h | ⟨-, h⟩⟩⟩
  · exact List.mem_of_find?_eq_some h
  · exact List.mem_of_find?_eq_some h
  · exact List.mem_of_mem_filter (List.mem_of_find?_eq_some h)
  · exact List.mem_of_mem_filter (leastBy_mem _ _ h)

theorem find_master {q : List PadReq} {m : Nat} (h : ∃ y ∈ q, y.master = m) :
    ∃ r, q.find? (fun r => r.master = m) = some r ∧ r.master = m := by
  have hsome : (q.find? (fun r => r.master = m)).isSome := List.find?_isSome.mpr (by simpa using h)
  obtain ⟨r, hr⟩ := Option.isSome_iff_exists.mp hsome
  exact ⟨r, hr, by simpa using List.find?_some hr⟩

/-- The Last Tide sequencer's access goes first (R484). -/
theorem nextPad_tide {turn : Nat} {q : List PadReq} {r : PadReq} (h : nextPad turn q = some r)
    (htide : ∃ y ∈ q, y.master = 14) : r.master = 14 := by
  obtain ⟨x, hfind, hmaster⟩ := find_master htide
  rw [nextPad, hfind, Option.some_or] at h
  exact Option.some.inj h ▸ hmaster

/-- Without one of the sequencer, a Kiln stager's access goes first (R484). -/
theorem nextPad_stager {turn : Nat} {q : List PadReq} {r : PadReq} (h : nextPad turn q = some r)
    (htide : ∀ y ∈ q, y.master ≠ 14) (hstager : ∃ y ∈ q, y.master = 8) : r.master = 8 := by
  obtain ⟨x, hfind, hmaster⟩ := find_master hstager
  have hnone : q.find? (fun r => r.master = 14) = none := by simpa using htide
  rw [nextPad, hnone, hfind, Option.none_or, Option.some_or] at h
  exact Option.some.inj h ▸ hmaster

/-! ## Retention -/

theorem execBankRetentionWake_neap {s : State} {b : Fin 32} (hneap : s.pwr.state = .neap)
    (hst : (s.pad b.val).st = .retention) : execBankRetentionWake b s =
      .next (s.onPad b.val (fun x => { x with st := .active, lastUse := s.clk.time })) := by
  simp [execBankRetentionWake, hneap, hst]

theorem execBankRetentionReturn_neap {s : State} {b : Fin 32} (hneap : s.pwr.state = .neap)
    (hst : (s.pad b.val).st = .active) (hidle : (s.pad b.val).lastUse + 50000 ≤ s.clk.time) :
    execBankRetentionReturn b s = .next (s.onPad b.val (fun x => { x with st := .retention })) := by
  simp [execBankRetentionReturn, hneap, hst, hidle]

/-- Settles O38: each clause is the equation of its command, and a bank read back after the write. -/
theorem scratchpadBanks : Obligations.ScratchpadBanks := by
  unfold Obligations.ScratchpadBanks
  refine ⟨fun s b a i hruns hout => execScratchpadCorrectedRead_counts i hruns hout,
    fun s a i hruns ha => ⟨_, execScratchpadCorrectedRead_window i hruns ha, rfl, rfl⟩,
    fun s b g hruns => ⟨fun hg => ?_, fun hg => ?_⟩, loseRecord_ring, fun s b k w hmove hst hfw htide => ?_,
    fun s n o => ⟨?_, ?_, fun k hk => ?_⟩, fun s b w k hmove => execBankHandover_fixed w k s hmove,
    fun s b o t0 hm hlate => ⟨_, execBankHandoverTimeout_late hm hlate, ?_⟩, fun s b m hon => ?_, fun s a m hon => ?_,
    fun turn q r h => ⟨nextPad_mem h, nextPad_tide h, nextPad_stager h⟩, fun s b hneap => ⟨fun hst => ?_, fun hst hidle => ?_⟩⟩
  · simpa [hg] using execScratchpadUncorrectableRead_eq g hruns
  · subst hg
    exact ⟨_, execScratchpadUncorrectableRead_eq _ hruns, by simp [padAction], by simp [padAction]⟩
  · have hsettled := execBankHandover_settled hmove hst hfw htide
    refine ⟨fun hm hidle => ⟨?_, fun hk => ⟨_, hsettled true k hm, ?_⟩⟩, fun hm hno => ⟨_, hsettled w k hm, ?_⟩,
      fun o at_ hm hin => execBankHandover_moving hmove hst hfw htide w hm hin⟩
    · simpa [hidle] using hsettled true 0 hm
    · simp [hidle, hk, pad_onPad_self]
    · have hnot : (w && (s.pad b.val).freeAt.any (fun t => t + 10000000 ≤ s.clk.time)) = false := by
        rcases hno with hw | hidle
        · simp [hw]
        · simp only [hidle, Bool.and_false]
      simp [hnot, pad_onPad_self, hm]
  · simp [pad_moveBank]
  · simp [pad_moveBank]
  · simp [pad_moveBank, hk]
  · rw [pad_onPad_self]
    exact ⟨rfl, rfl, rfl⟩
  · have heq := execBankAccessFault_bank b m hon
    exact ⟨fun hm => heq.trans (if_pos hm), fun hm => heq.trans (if_neg (Bool.not_eq_true _ ▸ hm))⟩
  · have heq := execBankAccessFault_saggar a m hon
    exact ⟨fun hm => heq.trans (if_pos hm), fun hm => heq.trans (if_neg (Bool.not_eq_true _ ▸ hm))⟩
  · exact ⟨_, execBankRetentionWake_neap hneap hst, by simp [pad_onPad_self]⟩
  · exact ⟨_, execBankRetentionReturn_neap hneap hst hidle, by simp [pad_onPad_self]⟩

end Sys2Proof.Proofs

/-! # DRAM corrections, uncorrectable reads and the patrol (R169 to R174, R183) -/

namespace Sys2Proof.Proofs

open Sys2Proof.Machine Sys2Proof.Laws

/-! ## Channels -/

theorem chan_onChan_self (c : Nat) (f : DChan → DChan) (s : State) : (s.onChan c f).dram.chan c = f (s.dram.chan c) :=
  get_put_self _ _ _ _

theorem chanBytes_of_spd {s t : State} {c : Nat} (h : (t.dram.chan c).spd = (s.dram.chan c).spd) :
    chanBytes t c = chanBytes s c := by
  unfold chanBytes
  rw [h]

theorem out_last (s : State) (o : Output) : (s.out o).dp.io.out.getLast? = some o := by
  simp [State.out, State.onDp, put]

/-! ## Corrections -/

/-- A correction is counted against its component, and changes no more of the channel than the records of corrections (R170). -/
theorem noteFix_spec (c rank k n : Nat) (s : State) :
    ((noteFix c rank k n s).dram.chan c).fixes.get 0 (compKey rank k) =
        (s.dram.chan c).fixes.get 0 (compKey rank k) + 1 ∧
      ((noteFix c rank k n s).dram.chan c).patrolFix = (s.dram.chan c).patrolFix ∧
      ((noteFix c rank k n s).dram.chan c).patrolRead = (s.dram.chan c).patrolRead ∧
      ((noteFix c rank k n s).dram.chan c).spd = (s.dram.chan c).spd := by
  unfold noteFix
  dsimp only
  generalize hcount : s.onChan c _ = u
  have hchan : (u.dram.chan c).fixes = (s.dram.chan c).fixes.put (compKey rank k)
        ((s.dram.chan c).fixes.get 0 (compKey rank k) + 1) ∧ (u.dram.chan c).patrolFix = (s.dram.chan c).patrolFix ∧
      (u.dram.chan c).patrolRead = (s.dram.chan c).patrolRead ∧ (u.dram.chan c).spd = (s.dram.chan c).spd := by
    rw [← hcount, chan_onChan_self]
    exact ⟨rfl, rfl, rfl, rfl⟩
  obtain ⟨hfixes, hpf, hpr, hspd⟩ := hchan
  split <;> simp [hfixes, hpf, hpr, hspd]

theorem execDramCorrectedRead_runs {s : State} {c : DramCh} (r k b : Nat) (d : Bool) (hruns : chanRuns s c.val = true) :
    execDramCorrectedRead c r k b d s = .next (if d then noteDiagFix s else noteFix c.val r k b s) := by
  cases d <;> simp [execDramCorrectedRead, hruns]

/-! ## Uncorrectable reads -/

theorem execDramUncorrectableRead_runs {s : State} {c : DramCh} {g : DramRegion} (hruns : chanRuns s c.val = true)
    (hg : g ≠ .diagnostic) (l : List Nat)
    (hl : l = (s.dram.chan c.val).bad.filter (fun t => s.clk.time < t + 3600000000000) ++ [s.clk.time]) (u : State)
    (hu : u = (((s.log 0x0504 4 srcDram [c.val, DramRegion.code g]).onChan c.val (fun x => { x with bad := l })).onDp
      (fun _ => count 12 (4 * c.val + 1) 1))) :
    execDramUncorrectableRead c g s = if 4 < l.length then .next (failDram c.val 1 u) else .next (dramAction g u) := by
  subst hl hu
  simp [execDramUncorrectableRead, hruns, hg, hour, second]

theorem execDramUncorrectableRead_window {s : State} {c : DramCh} (hruns : chanRuns s c.val = true) :
    execDramUncorrectableRead c .diagnostic s =
      .next (dramAction .diagnostic (s.log 0x0504 4 srcDram [c.val, DramRegion.code .diagnostic])) := by
  simp [execDramUncorrectableRead, hruns]

theorem code_setCode_fatal (s : State) : (setCode 0x60 s).boot.code = 0x60 ∧ (setCode 0x60 s).boot.fatal = s.boot.fatal := by
  simp only [setCode]
  split
  · split
    · next hcode => exact ⟨by simpa using hcode, rfl⟩
    · exact ⟨rfl, rfl⟩
  · split
    · next hcode => exact ⟨by simpa using hcode, rfl⟩
    · exact ⟨rfl, rfl⟩

theorem deviceFatal_spec {s : State} (why : Nat) (h : s.boot.fatal = false) :
    (deviceFatal why s).boot.fatal = true ∧ (deviceFatal why s).boot.code = 0x60 := by
  simp only [deviceFatal, h, Bool.false_eq_true, if_false]
  generalize hfatal : ({ s with
    boot := { s.boot with fatal := true }, dp := { s.dp with bw := { s.dp.bw with descriptors := 0 } } } : State) = u
  obtain ⟨hcode, hkept⟩ := code_setCode_fatal u
  have hu : u.boot.fatal = true := by rw [← hfatal]
  simp [hcode, hkept, hu]

/-- A failed channel makes the device FATAL (R174, R541). -/
theorem failDram_spec {s : State} (c k : Nat) (h : s.boot.fatal = false) :
    (failDram c k s).boot.fatal = true ∧ ((failDram c k s).dram.chan c).failed = true ∧ (failDram c k s).boot.code = 0x60 := by
  simp only [failDram]
  generalize hu : s.onChan c _ = u
  have hfailed : (u.dram.chan c).failed = true := by rw [← hu, chan_onChan_self]
  have hboot : (u.log 0x0C05 6 srcDram [c, k]).boot.fatal = false := by simpa [← hu] using h
  obtain ⟨hfatal, hcode⟩ := deviceFatal_spec 1 hboot
  exact ⟨hfatal, by simpa using hfailed, hcode⟩

theorem ids_onRow (d : Dp) (id : Nat) {f : Row → Row} (hf : ∀ r, (f r).id = r.id) :
    (d.onRow id f).med.rows.map Row.id = d.med.rows.map Row.id := by
  simp only [Dp.onRow, updateWhere, List.map_map, List.map_inj_left, Function.comp]
  intro r _
  split
  · exact hf r
  · rfl

/-- An entry that comes from its delta record again keeps all but its location (R76). -/
theorem rebuildPending_green (d : Dp) (pool lb : Nat) : ∀ g ∈ (rebuildPending pool lb d).map.green, ∃ g0 ∈ d.map.green,
    g = g0 ∨ g = { g0 with loc := (d.map.deltas.find? (fun x => x.kind = .pending && x.pool = g0.pool &&
      x.localBlk = g0.localBlk && x.seqn = g0.seqn)).bind Delta.loc } := by
  simp only [rebuildPending, Dp.onGreen, updateWhere, List.mem_map]
  rintro _ ⟨g0, hg0, rfl⟩
  refine ⟨g0, hg0, ?_⟩
  split
  · exact .inr rfl
  · exact .inl rfl

/-! ## The patrol -/

/-- A pass that ends well starts the next one, and fails nothing. -/
theorem endPass_good {s : State} {c : Nat}
    (h : (s.dram.chan c).patrolFix.any (fun f => (s.dram.chan c).patrolRead < 100 * f.2) = false) :
    ((endPass c s).dram.chan c).patrolRead = 0 ∧ ((endPass c s).dram.chan c).failed = (s.dram.chan c).failed := by
  simp only [endPass, h, Bool.false_eq_true, if_false, State.onDp]
  rw [chan_onChan_self]
  exact ⟨rfl, rfl⟩

/-- The channel once the patrol's request for burst `n` is served. -/
def patrolled (s : State) (c n : Nat) : State := s.onChan c (fun x => { x with patrolRead := n + 1, patrolPast := 0 })

theorem chanBytes_patrolled (s : State) (c n : Nat) : chanBytes (patrolled s c n) c = chanBytes s c :=
  chanBytes_of_spd (by rw [patrolled, chan_onChan_self])

theorem windowAt_patrolled (s : State) (c n : Nat) : windowAt (patrolled s c n) c = windowAt s c := by
  unfold windowAt
  rw [chanBytes_patrolled]

section
variable {c n : Nat} {u : State}

/-- Outside the window a correction is counted against its component, in the pass too. -/
theorem patrolBurst_mapped (r q : Nat) (i : Bool) (hout : 64 * n < windowAt u c) : 
    let v := patrolBurst c n r (some q) i u
    (v.dram.chan c).patrolRead = (u.dram.chan c).patrolRead ∧ (v.dram.chan c).spd = (u.dram.chan c).spd ∧
      v.integ = u.integ ∧
      (v.dram.chan c).patrolFix.get 0 (compKey r q) = (u.dram.chan c).patrolFix.get 0 (compKey r q) + 1 ∧
      (i = false → v.dp.io.out.getLast? = some (.dram c (.writeBack r q n))) := by
  have hwindow : ¬ windowAt u c ≤ 64 * n := by omega
  obtain ⟨-, hfix, hread, hspd⟩ := noteFix_spec c r q n u
  simp only [patrolBurst, hwindow, if_false]
  generalize hv : State.onChan c _ (noteFix c r q n u) = v
  have hcounted : (v.dram.chan c).patrolRead = (u.dram.chan c).patrolRead ∧ (v.dram.chan c).spd = (u.dram.chan c).spd ∧
      (v.dram.chan c).patrolFix.get 0 (compKey r q) = (u.dram.chan c).patrolFix.get 0 (compKey r q) + 1 := by
    rw [← hv, chan_onChan_self]
    exact ⟨hread, hspd, by rw [get_put_self, hfix]⟩
  obtain ⟨hr, hs, hf⟩ := hcounted
  have hinteg : v.integ = u.integ := by simp [← hv]
  cases i with
  | true => exact ⟨hr, hs, hinteg, hf, fun h => nomatch h⟩
  | false => exact ⟨hr, hs, hinteg, hf, fun _ => out_last ..⟩

/-- Inside the window a correction is counted apart, and the burst written back has no flaw any more (R172, R183). -/
theorem patrolBurst_window (r q : Nat) (i : Bool) (hin : windowAt u c ≤ 64 * n) :
    let v := patrolBurst c n r (some q) i u
    v.dram = u.dram ∧ v.integ.diagFixed = u.integ.diagFixed + 1 ∧
      (i = false → ∀ f ∈ v.integ.dramBad, ¬ (f.unit = c ∧ f.address = 64 * n - windowAt u c)) := by
  have hnoted : windowAt (noteDiagFix u) c = windowAt u c := rfl
  simp only [patrolBurst, hin, if_true]
  cases i with
  | true => exact ⟨rfl, rfl, fun h => nomatch h⟩
  | false =>
    refine ⟨rfl, rfl, fun _ f hf => ?_⟩
    simp only [Bool.false_eq_true, if_false, hnoted] at hf
    have hkept : f ∈ (noteDiagFix u).integ.dramBad.filter
        (fun (f : Flaw) => !(f.unit = c && f.address = 64 * n - windowAt u c)) := hf
    simpa [not_and_or, or_iff_not_imp_left] using (List.mem_filter.mp hkept).2

end

theorem execDramPatrol_waits {s : State} {c : DramCh} (r : Nat) (k : Option Nat) (i : Bool)
    (hturn : patrolTurn s c.val = false) : execDramPatrol c r k i s = .next s := by
  simp [execDramPatrol, hturn]

section
variable {s : State} {c : DramCh} (hruns : chanRuns s c.val = true) (hfatal : s.boot.fatal = false)
include hruns hfatal

theorem execDramPatrol_skips (r : Nat) (k : Option Nat) (i : Bool) (hturn : patrolTurn s c.val = true)
    (hin : windowAt s c.val ≤ 64 * (s.dram.chan c.val).patrolRead) (harmed : armedOn s c.val = true) :
    execDramPatrol c r k i s = .next (endPass c.val s) := by
  simp [execDramPatrol, hruns, hfatal, hturn, hin, harmed]

/-- The next burst is read, and the pass ends after the channel's last one. -/
theorem execDramPatrol_reads (r : Nat) (k : Option Nat) (i : Bool) (hturn : patrolTurn s c.val = true) (n : Nat)
    (hn : n = (s.dram.chan c.val).patrolRead) (hread : 64 * n < windowAt s c.val ∨ armedOn s c.val = false) (v : State)
    (hv : v = patrolBurst c.val n r k i (patrolled s c.val n)) :
    execDramPatrol c r k i s = .next (if chanBytes v c.val ≤ 64 * (n + 1) then endPass c.val v else v) := by
  have hnot : ¬ (windowAt s c.val ≤ 64 * n ∧ armedOn s c.val = true) := by
    rintro ⟨hin, harmed⟩
    rcases hread with hout | hnone
    · omega
    · simp [hnone] at harmed
  subst hv hn
  simp only [execDramPatrol, hruns, hfatal, hturn, Bool.not_true, Bool.or_self, Bool.false_eq_true, if_false, Bool.and_eq_true,
    decide_eq_true_eq, hnot]
  rfl

end

/-- Settles O36: each clause is the equation of its command with what the shared operations do. -/
theorem dramReadsAndPatrol : Obligations.DramReadsAndPatrol := by
  unfold Obligations.DramReadsAndPatrol
  refine ⟨fun s c r k b hruns => ⟨⟨_, execDramCorrectedRead_runs r k b true hruns, rfl, rfl, rfl⟩,
      _, execDramCorrectedRead_runs r k b false hruns, (noteFix_spec c.val r k b s).1, by simp⟩,
    fun s c g hruns hg => ⟨fun hl => ?_, fun hl => ?_⟩,
    fun s c hruns => ⟨_, execDramUncorrectableRead_window hruns, by simp [dramAction], by simp [dramAction]⟩,
    fun s c k h => failDram_spec c k h, fun s row => ⟨ids_onRow _ _ fun _ => rfl, rfl⟩, rebuildPending_green,
    fun s c r k i hruns hfatal => ⟨execDramPatrol_waits r k i, fun hturn =>
      ⟨execDramPatrol_skips hruns hfatal r k i hturn, fun hread => ?_, fun q hout => ?_, fun q hin hnone hmore => ?_⟩⟩,
    fun s c h => endPass_good h⟩
  · exact (execDramUncorrectableRead_runs hruns hg _ rfl _ rfl).trans (if_neg (by omega))
  · exact (execDramUncorrectableRead_runs hruns hg _ rfl _ rfl).trans (if_pos hl)
  · have hreads := execDramPatrol_reads hruns hfatal r none i hturn _ rfl hread _ rfl
    simp only [patrolBurst, chanBytes_patrolled] at hreads
    exact ⟨fun hmore => hreads.trans (congrArg _ (if_neg (by omega))), fun hlast => hreads.trans (congrArg _ (if_pos hlast))⟩
  · have hwindow := (windowAt_patrolled s c.val (s.dram.chan c.val).patrolRead).symm ▸ hout
    obtain ⟨hr, hspd, hinteg, hfix, hback⟩ := patrolBurst_mapped r q i hwindow
    have hbytes := (chanBytes_of_spd hspd).trans (chanBytes_patrolled s c.val _)
    have hmore : ¬ chanBytes s c.val ≤ 64 * ((s.dram.chan c.val).patrolRead + 1) := by
      have hmib : windowAt s c.val = chanBytes s c.val - 67108864 := rfl
      omega
    refine ⟨_, (execDramPatrol_reads hruns hfatal r (some q) i hturn _ rfl (.inl hout) _ rfl).trans
      (congrArg _ (if_neg (hbytes ▸ hmore))), ?_, hinteg, ?_, hback⟩
    · rw [hr, patrolled, chan_onChan_self]
    · rw [hfix, patrolled, chan_onChan_self]
  · have hwindow := windowAt_patrolled s c.val (s.dram.chan c.val).patrolRead
    obtain ⟨hdram, hfixed, hmended⟩ := patrolBurst_window r q i (hwindow.symm ▸ hin)
    have hbytes := (chanBytes_of_spd (congrArg (fun m => DChan.spd (m.chan c.val)) hdram)).trans
      (chanBytes_patrolled s c.val _)
    refine ⟨_, (execDramPatrol_reads hruns hfatal r (some q) i hturn _ rfl (.inr hnone) _ rfl).trans
      (congrArg _ (if_neg (by omega))), hfixed, ?_, hwindow ▸ hmended⟩
    rw [hdram, patrolled, chan_onChan_self]

end Sys2Proof.Proofs

/-! # The device registers of a port (R302 to R305, R332, R334) -/

namespace Sys2Proof.Proofs

open Sys2Proof.Machine Sys2Proof.Laws

/-! ## What the engine's state follows from -/

/-- ENABLED is set where ENABLE stands, firmware runs, the device is not FATAL and the table is named (R303). -/
theorem startEngine_port (e : Env) (p : PortId) (d : Dp) : ((startEngine e p d).port p).enable = (d.port p).enable ∧
    ((d.port p).enable = true → (d.port p).enabled = false → (((startEngine e p d).port p).enabled = true ↔
      (e.fw = true ∧ e.fatal = false ∧ (d.port p).tbase ≠ 0 ∧ 1 ≤ (d.port p).tcount ∧ (d.port p).tcount ≤ portQueues e))) := by
  unfold startEngine
  dsimp only
  split
  · next hgo =>
    simp only [Bool.and_eq_true, Bool.not_eq_true', bne_iff_ne, decide_eq_true_eq] at hgo
    obtain ⟨⟨⟨⟨⟨-, hfw⟩, hfatal⟩, hbase⟩, hone⟩, hmax⟩ := hgo
    rw [port_setPort]
    exact ⟨rfl, fun _ _ => ⟨fun _ => ⟨hfw, hfatal, hbase, hone, hmax⟩, fun _ => rfl⟩⟩
  · next hstay =>
    refine ⟨rfl, fun hen hoff => ⟨fun hon => by simp [hoff] at hon, fun ⟨hfw, hfatal, hbase, hone, hmax⟩ => ?_⟩⟩
    exact absurd (by simpa [hen, hfw, hfatal, hone, hmax] using hbase) hstay

/-- Without ENABLE and without a command in flight ENABLED is clear (R303). -/
theorem settlePort_cleared {p : PortId} {d : Dp} (hen : (d.port p).enable = false)
    (hidle : d.vq.cmds.any (fun c => c.key.port = p && c.stage != .recorded) = false) :
    ((settlePort p d).port p).enable = false ∧ ((settlePort p d).port p).enabled = false := by
  have hnone : d.vq.cmds.any (fun c => c.key.port = p && c.stage != .recorded && !c.orphan) = false := by
    rw [List.any_eq_false] at hidle ⊢
    exact fun c hc hall => hidle c hc (Bool.and_eq_true _ _ ▸ hall).1
  unfold settlePort
  dsimp only
  split
  · rw [port_setPort]
    exact ⟨hen, rfl⟩
  · next hstay => exact ⟨hen, by simpa [hen, hnone] using hstay⟩

/-! ## Interrupts -/

/-- A signalled vector changes nothing of a port but its pending bits. -/
theorem msix_port (e : Env) (p : PortId) (v : Nat) (d : Dp) : ((msix e p v d).port p).evtMask = (d.port p).evtMask ∧
    ((msix e p v d).port p).evtCause = (d.port p).evtCause ∧ ((msix e p v d).port p).devVecEn = (d.port p).devVecEn := by
  unfold msix
  dsimp only
  split
  · split
    · cases p <;> exact ⟨rfl, rfl, rfl⟩
    · rw [port_setPort]
      exact ⟨rfl, rfl, rfl⟩
  · exact ⟨rfl, rfl, rfl⟩

/-- A port's register written, and its causes signalled where the write asks for it. -/
theorem signalCauses_setPort (e : Env) (p : PortId) (d : Dp) (h : HostPort) (c : Prop) [Decidable c] :
    let u := if c then signalCauses e p (d.setPort p h) else d.setPort p h
    (u.port p).evtMask = h.evtMask ∧ (u.port p).evtCause = h.evtCause ∧ (u.port p).devVecEn = h.devVecEn := by
  have hport := port_setPort d p h
  dsimp only
  split
  · unfold signalCauses
    dsimp only
    split
    · have hmsix := msix_port e p devVector (d.setPort p h)
      rwa [hport] at hmsix
    · rw [hport]
      exact ⟨rfl, rfl, rfl⟩
  · rw [hport]
    exact ⟨rfl, rfl, rfl⟩

/-- Unmasked, a vector stays unmasked when its pending message goes out (R305). -/
theorem execMsixVectorUnmask_unmasked {s : State} {p : PortId} {v : Nat} (hserved : barServed s p = true) (hv : v ≤ 2048) :
    ∃ t : State, execMsixVectorUnmask p v s = .next t ∧ v ∈ (t.dp.port p).unmasked := by
  have hle : ¬ devVector < v := Nat.not_lt.mpr hv
  simp only [execMsixVectorUnmask, hserved, hle, Bool.not_true, decide_false, Bool.or_self, Bool.false_eq_true, if_false]
  refine ⟨_, rfl, ?_⟩
  have hset : v ∈ ((s.dp.setPort p { s.dp.port p with unmasked := addNew v (s.dp.port p).unmasked }).port p).unmasked := by
    rw [port_setPort]
    exact mem_addNew v _
  simp only [State.onDp]
  split
  · cases p <;> exact hset
  · exact hset

/-! ## Eight bytes into a register -/

/-- A write of a whole register leaves nothing of what stood there. -/
theorem mergeWord_whole (old : Nat) {off : Nat} {b : List Byte} (hoff : off % 8 = 0) (hb : b.length = 8) :
    mergeWord old off b = leNat b := by
  have hold : List.drop 8 (leBytes 8 old) = [] := List.drop_eq_nil_of_le (by simp)
  simp [mergeWord, hoff, hb, hold]

section
variable {s : State} {p : PortId} {b : List Byte} (hserved : barServed s p = true)
include hserved

/-- While ENABLED stands, a write of VQ_TBASE and of VQ_TCOUNT has no effect (R334). -/
theorem execRegisterWrite_enabled (off : Nat) (hon : (s.dp.port p).enabled = true) (hbox : boxAt off = none) :
    execRegisterWrite p off b s = .next s := by
  simp [execRegisterWrite, hserved, hon, hbox]

theorem execRegisterWrite_tbase (hb : b.length = 8) (hoff : (s.dp.port p).enabled = false) :
    execRegisterWrite p 32 b s =
    .next { s with dp := s.dp.setPort p { s.dp.port p with tbase := BitVec.ofNat 64 (leNat b / 4096 * 4096) } } := by
  have hbox : boxAt 32 = none := rfl
  have haligned : aligned48 32 8 = true := rfl
  have hmerge := mergeWord_whole (s.dp.port p).tbase.toNat (off := 32) rfl hb
  simp [execRegisterWrite, hserved, hoff, hbox, hb, haligned, hmerge]

end

/-- Settles O5: each clause is the command's equation with the port read back after the write. -/
theorem deviceRegisterWrites : Obligations.DeviceRegisterWrites := by
  unfold Obligations.DeviceRegisterWrites
  refine ⟨fun s p hserved hen => ?_, fun s p hserved hidle => ?_, fun s p v hserved => if_pos hserved,
    fun s p v hserved => ?_, fun s p v hserved => ?_, fun s p hserved => ?_,
    fun s p b hserved hb => ⟨execRegisterWrite_tbase hserved hb, fun hon =>
      ⟨execRegisterWrite_enabled hserved 32 hon rfl, execRegisterWrite_enabled hserved 40 hon rfl⟩⟩,
    fun s p v hserved hv => execMsixVectorUnmask_unmasked hserved hv, fun s p q ent hlisted hdma => ?_, fun s p l => rfl⟩
  · refine ⟨s.onDp (fun e d => startEngine e p (d.setPort p { s.dp.port p with enable := true })), ?_, ?_, fun hoff => ?_⟩
    · exact if_pos (by simp [hserved, hen])
    · refine (startEngine_port _ p _).1.trans ?_
      rw [port_setPort]
    · have hset := (startEngine_port s.env p (s.dp.setPort p { s.dp.port p with enable := true })).2
      rw [port_setPort] at hset
      exact hset rfl hoff
  · refine ⟨_, if_pos hserved, settlePort_cleared (d := s.dp.onPort p (fun h => { h with enable := false })) ?_ ?_⟩
    · rw [Dp.onPort, port_setPort]
    · simpa [Dp.onPort] using hidle
  · obtain ⟨hmask, hcause, -⟩ := signalCauses_setPort s.env p s.dp { s.dp.port p with evtMask := v.truncate 16 }
      (((s.dp.port p).evtMask &&& ~~~(v.truncate 16)) != 0)
    exact ⟨_, if_neg (by simp [hserved]), hmask, hcause⟩
  · obtain ⟨-, hcause, hen⟩ := signalCauses_setPort s.env p s.dp { s.dp.port p with devVecEn := v }
      (v && !(s.dp.port p).devVecEn)
    exact ⟨_, if_neg (by simp [hserved]), hen, hcause⟩
  · refine ⟨_, if_pos hserved, ?_⟩
    cases p <;> exact ⟨rfl, rfl, rfl⟩
  · simp [execVqTsyncQueue, resyncEntry, hlisted, State.onDp, hdma]

end Sys2Proof.Proofs

/-! # Sherds, reads, JOIN and the messages of CONTROL frames (R165, R167, R249, R252, R290, R395, R417, R418, R579) -/

namespace Sys2Proof.Proofs

open Sys2Proof.Machine Sys2Proof.Laws

/-! ## Frames of every class that is delivered (R275, R276, R279) -/

theorem one_le_bulkClass (f : Frame) : 1 ≤ bulkClass f := by
  unfold bulkClass
  split <;> decide

section
variable {t : FrameType} {bulk : Nat} {f : Frame} {b : FrameBody} {s : State} {d : Dp}

/-- A frame of any class that is delivered next, and alone, has the effect in the state's environment that its delivery has. -/
theorem next_delivered (hc : 1 ≤ t.cls bulk) (h : Reaches t bulk f b s d) {g : Env → Dp → Dp}
    (hg : deliver s.env (t, f, b) d = g s.env s.dp) :
    (.next (onFrame t bulk f b s) : Host.Outcome State Fault Refusal) = .next (s.stayAwake.onDp g).work := by
  have hone : onFrame t bulk f b s = (s.stayAwake.onDp (fun e _ => deliver e (t, f, b) d)).work := by
    unfold onFrame State.onDp
    rw [if_pos hc]
    simp only [env_stayAwake, dp_stayAwake, show arrive s.env t bulk f b s.dp = _ from h, List.foldl_cons, List.foldl_nil]
  rw [hone, onDp_congr (g := g)]
  rw [env_stayAwake, dp_stayAwake, hg]

/-- A frame of any class that arrives in order is delivered alone, and its arrival changes the ring's records alone. -/
theorem reaches_of_ordered (h : InOrder s t bulk f) (hp : t.paired = true) (b : FrameBody) :
    ∃ d, Reaches t bulk f b s d ∧ SameButRing s.dp d := by
  obtain ⟨hsame, hpeers, hpairs⟩ : SameButRing s.dp (rxOn f.port s.dp) ∧ (rxOn f.port s.dp).ring.peers = s.dp.ring.peers ∧
      (rxOn f.port s.dp).ring.pairs = s.dp.ring.pairs := by
    unfold rxOn
    cases f.port <;> exact ⟨⟨_, _, rfl⟩, rfl, rfl⟩
  generalize hd : (if 1 ≤ f.cls then { rxOn f.port s.dp with ring := { (rxOn f.port s.dp).ring with busyAt := s.env.now } }
    else rxOn f.port s.dp) = d₁
  obtain ⟨hsame₁, hpeer, hpair⟩ : SameButRing s.dp d₁ ∧ d₁.peer f.src.val = s.dp.peer f.src.val ∧
      d₁.pair f.src.val f.cls = s.dp.pair f.src.val f.cls := by
    unfold Dp.peer Dp.pair
    subst hd
    split
    · exact ⟨hsame.trans ⟨_, _, rfl⟩, by rw [hpeers], by rw [hpairs]⟩
    · exact ⟨hsame, by rw [hpeers], by rw [hpairs]⟩
  obtain ⟨d', hseq, hsame'⟩ := sequenceIn_next s.env t (d := d₁) b (h.next.trans (by rw [hpair])) (by rw [hpair, h.alone])
  have hready : (1 ≤ f.cls && !s.env.ready) = false := by
    rcases h.served with h0 | h1
    · simp [h0]
    · simp [show s.env.ready = true from h1]
  refine ⟨d', ?_, hsame₁.trans hsame'⟩
  unfold Reaches arrive
  simp only [h.here, h.opened, h.away, h.whole, bne_self_eq_false, Bool.not_true, Bool.or_self, Bool.false_eq_true, if_false]
  rw [hd, if_neg (by simp [h.cls]), if_neg (by simp [h.good]), hready, if_neg (by decide), hpeer, ← h.session,
    if_neg (by simp), hp, if_neg (by decide), hseq]

/-- What a frame that arrives in order does, told of the state it arrives in: its effect on a data path that differs from that
state's in the ring's records alone. -/
theorem delivered_of_ordered (h : InOrder s t bulk f) (hp : t.paired = true) (hc : 1 ≤ t.cls bulk) (b : FrameBody) :
    ∃ (u : State) (d : Dp), (.next (onFrame t bulk f b s) : Host.Outcome State Fault Refusal) = .next u.work ∧
      SameButRing s.dp d ∧ u.dp = deliver s.env (t, f, b) d := by
  obtain ⟨d, hreach, hsame⟩ := reaches_of_ordered h hp b
  exact ⟨_, d, next_delivered hc hreach (g := fun _ _ => deliver s.env (t, f, b) d) rfl, hsame, rfl⟩

end

/-! ## What each frame does at its receiver -/

section
variable (e : Env) (f : Frame) (d : Dp)

theorem deliver_sherdData (b : Blk) :
    deliver e (.sherdData, f, .blk b) d = guarded e .sherdData f false (onSherd e f b) d := rfl
theorem deliver_sherdRefused : deliver e (.sherdRefused, f, .none) d = onRefused e f d := rfl
theorem deliver_readRequest (l : List Nat) : deliver e (.readRequest, f, .blocks l) d = onReadRequest e f l d := rfl
theorem deliver_readData (b : Blk) : deliver e (.readData, f, .blk b) d = onReadData e f b d := rfl
theorem deliver_readFail : deliver e (.readFail, f, .none) d = onReadFail e f d := rfl
theorem deliver_joinRequest (serial boot : Word) (n : Nat) : deliver e (.joinRequest, f, .join serial boot n) d =
    holdJoin (f.pool, if f.pool = noPool then f.src.val else f.arg % 16, serial, boot, n) d := rfl
theorem deliver_joinAdmit (st : List (Nat × MemberState)) (m : List (Nat × Nat)) (q : List Nat) (g : Option Registry) :
    deliver e (.joinAdmit, f, .admission st m q g) d = onJoinAdmit e f st m q g d := rfl
theorem deliver_control (b : FrameBody) : deliver e (.control, f, b) d = onControl e f b d := rfl

end

/-! ## Sherds (R165, R201, R417) -/

section
variable {s : State} {f : Frame} {d : Dp}

/-- A sherd above the greenware limit is dropped before it is delivered (R417). -/
theorem sherdData_over {b : Blk} (h : overLimit s.dp s.env.rank f = true) : exec (.sherdData f b) s = .next s := by
  rw [exec_sherdData, execSherdData, if_pos h]

theorem sherdData_within {b : Blk} (h : overLimit s.dp s.env.rank f = false) :
    exec (.sherdData f b) s = .next (onFrame .sherdData (bulkClass f) f (.blk b) s) := by
  rw [exec_sherdData, execSherdData, h, if_neg (by decide)]

/-- A sherd acts under the claim of its head's ticket, whoever its head is (R249). -/
theorem sherd_accepted {e : Env} (b : Blk) (ha : admitted d f.pool = true) (hv : claimValid f.claim = true)
    (hc : d.claimOf f.pool ≤ f.claim) (hpool : f.pool ≠ drillHandle) :
    deliver e (.sherdData, f, .blk b) d = takeSherd e f b (raise e f.pool f.claim 2 d) := by
  rw [deliver_sherdData]
  simp [guarded, seawall, ha, hv, BitVec.not_lt.mpr hc, onSherd, hpool]

theorem sherdData_accepted {b : Blk} (hlim : overLimit s.dp s.env.rank f = false)
    (h : Reaches .sherdData (bulkClass f) f (.blk b) s d) (ha : admitted d f.pool = true) (hv : claimValid f.claim = true)
    (hc : d.claimOf f.pool ≤ f.claim) (hpool : f.pool ≠ drillHandle) :
    exec (.sherdData f b) s = .next (s.stayAwake.onDp (fun e _ => takeSherd e f b (raise e f.pool f.claim 2 d))).work := by
  rw [sherdData_within hlim]
  exact next_delivered (t := .sherdData) (one_le_bulkClass f) h (sherd_accepted b ha hv hc hpool)

/-! ## Reads (R579, C8) -/

/-- A unit that fits its guard and its place is given to what waits for it. -/
theorem onReadData_good {e : Env} {b : Blk} {x : Fetch} (hx : repliedFetch d f = some x) (hok : c8Ok e d x b = true)
    (hunit : x.unit < 14) (htag : tagApp b.tag ≠ noDataApp) :
    onReadData e f b d = giveUnit e x (some b) f.seqn (d.dropFetch x) := by
  have hok' : c8Ok e (d.dropFetch x) x b = true := hok
  simp [onReadData, hx, hunit, htag, deliverUnit, hok']

/-- A unit that fails C8 a second time is lost. -/
theorem onReadData_bad {e : Env} {b : Blk} {x : Fetch} (hx : repliedFetch d f = some x) (hbad : c8Ok e d x b = false)
    (hagain : x.again = true) (hwhy : ∀ r pool lb, x.purpose ≠ .remote r pool lb) :
    onReadData e f b d = loseUnit e x (checkFail e 8 f.src.val (d.dropFetch x)) := by
  have hbad' : c8Ok e (d.dropFetch x) x b = false := hbad
  have hdata : x.unit < 14 ∧ tagApp b.tag ≠ noDataApp := by
    unfold c8Ok at hbad
    simp only [Bool.or_eq_false_iff, decide_eq_false_iff_not] at hbad
    exact ⟨by omega, hbad.1.2⟩
  have hrank : x.rank = f.src.val := by
    have hkey := List.find?_some hx
    simp only [Bool.and_eq_true, decide_eq_true_eq] at hkey
    exact hkey.1.1.2
  unfold onReadData
  simp only [hx, if_pos hdata.1, decide_eq_false hdata.2, Bool.false_eq_true, if_false]
  unfold deliverUnit
  cases hwhat : x.purpose with
  | remote r pool lb => exact absurd hwhat (hwhy r pool lb)
  | _ => simp [hbad', hagain, hrank]

theorem readData_next {b : Blk} (h : Reaches .readData (bulkClass f) f (.blk b) s d) {g : Env → Dp → Dp}
    (hg : onReadData s.env f b d = g s.env s.dp) : exec (.readData f b) s = .next (s.stayAwake.onDp g).work := by
  rw [exec_readData, execReadData]
  exact next_delivered (t := .readData) (one_le_bulkClass f) h hg

theorem onReadFail_replied {e : Env} {x : Fetch} (hx : repliedFetch d f = some x) :
    onReadFail e f d = loseUnit e x (d.dropFetch x) := by rw [onReadFail, hx]

theorem onReadFail_unasked {e : Env} (hx : repliedFetch d f = none) : onReadFail e f d = d := by rw [onReadFail, hx]

theorem readFail_next (h : Reaches .readFail 3 f .none s d) {g : Env → Dp → Dp} (hg : onReadFail s.env f d = g s.env s.dp) :
    exec (.readFail f) s = .next (s.stayAwake.onDp g).work := by
  rw [exec_readFail, execReadFail]
  exact next_delivered (by decide) h hg

/-! ## Messages of CONTROL frames -/

theorem control_next {b : FrameBody} (h : Reaches .control 3 f b s d) {g : Env → Dp → Dp}
    (hg : onControl s.env f b d = g s.env s.dp) :
    (.next (onFrame .control 3 f b s) : Host.Outcome State Fault Refusal) = .next (s.stayAwake.onDp g).work :=
  next_delivered (by decide) h hg

end

/-! ## The arrival keeps what the frames read -/

theorem SameButRing.bw {d d' : Dp} (h : SameButRing d d') : d'.bw = d.bw := by
  obtain ⟨_, _, rfl⟩ := h
  rfl

theorem SameButRing.med {d d' : Dp} (h : SameButRing d d') : d'.med = d.med := by
  obtain ⟨_, _, rfl⟩ := h
  rfl

theorem SameButRing.isSteward {d d' : Dp} (h : SameButRing d d') (pool : Nat) :
    Machine.isSteward d' pool = Machine.isSteward d pool := by
  unfold Machine.isSteward
  rw [h.role]

theorem SameButRing.cmd {d d' : Dp} (h : SameButRing d d') (k : CmdKey) : d'.cmd k = d.cmd k := by
  unfold Dp.cmd
  rw [h.vq]

theorem SameButRing.foldl {α : Type} {f : Dp → α → Dp} (h : ∀ d x, SameButRing d (f d x)) (l : List α) (d : Dp) :
    SameButRing d (l.foldl f d) := by
  induction l generalizing d with
  | nil => exact .refl d
  | cons x l ih => exact (h d x).trans (ih _)

theorem SameButRing.repliedFetch {d d' : Dp} (h : SameButRing d d') (f : Frame) :
    Machine.repliedFetch d' f = Machine.repliedFetch d f := by
  unfold Machine.repliedFetch
  rw [h.sh]

theorem SameButRing.c8Ok {d d' : Dp} (h : SameButRing d d') (e : Env) (x : Fetch) (b : Blk) :
    Machine.c8Ok e d' x b = Machine.c8Ok e d x b := by
  unfold Machine.c8Ok
  rw [h.sh]

/-! ## A sherd refused and a read request (Table 6-2, R579) -/

/-- A sherd that a member refused is sent again, and the refusal counted, while the member has refused fewer than two. -/
theorem onRefused_counts (e : Env) {f : Frame} {d : Dp} {t : HTicket} {p : PoolRec} (ht : headTicket d f.pool f.seqn = some t)
    (hid : d.hticket t.id = some t) (hp : d.sh.reg.pool f.pool = some p) (hst : t.stage = .sent)
    (hn : t.refused.get 0 (f.src.val * 16 + f.unit) < 2) : (onRefused e f d).hticket t.id = some { t with
      refused := t.refused.put (f.src.val * 16 + f.unit) (t.refused.get 0 (f.src.val * 16 + f.unit) + 1) } := by
  have hsends (l : List UnitBlk) (d : Dp) : SameButRing d
      (l.foldl (fun d u => sendSherd e (p.layGen t.gen) t f.src.val u d) d) := .foldl (fun _ _ => sameButRing_send ..) l d
  unfold onRefused
  simp only [ht, hp]
  rw [if_neg (by simp [hst]; omega), Dp.hticket, (hsends _ _).sh]
  have hfind := hticket_onHticket d t.id (fun x => { x with
    refused := x.refused.put (f.src.val * 16 + f.unit) (t.refused.get 0 (f.src.val * 16 + f.unit) + 1) }) (fun _ => rfl) t.id
  rw [hid, Option.map_some, if_pos (by simp)] at hfind
  exact hfind

theorem sherdRefused_counts {s : State} {f : Frame} {t : HTicket} {p : PoolRec} (h : InOrder s .sherdRefused 3 f)
    (ht : headTicket s.dp f.pool f.seqn = some t) (hid : s.dp.hticket t.id = some t) (hp : s.dp.sh.reg.pool f.pool = some p)
    (hst : t.stage = .sent) (hn : t.refused.get 0 (f.src.val * 16 + f.unit) < 2) :
    ∃ (u : State) (z : HTicket), exec (.sherdRefused f) s = .next u.work ∧ u.dp.hticket t.id = some z ∧
      z.refused.get 0 (f.src.val * 16 + f.unit) = t.refused.get 0 (f.src.val * 16 + f.unit) + 1 ∧ z.stage = .sent := by
  obtain ⟨u, d, hu, hd, hdp⟩ := delivered_of_ordered h rfl (by decide) .none
  have ht' : headTicket d f.pool f.seqn = some t := by
    unfold headTicket at ht ⊢
    rwa [hd.sh]
  have hid' : d.hticket t.id = some t := by
    unfold Dp.hticket at hid ⊢
    rwa [hd.sh]
  have hz := onRefused_counts s.env ht' hid' (hd.sh ▸ hp) hst hn
  exact ⟨u, _, hu, (congrArg (fun x => Dp.hticket x t.id) hdp).trans hz, get_put_self .., hst⟩

/-- A read request for a unit of a row that is clear here is queued for the store (R579). -/
theorem onReadRequest_queued (e : Env) {f : Frame} {lb : Nat} {d : Dp} {p : PoolRec} (hp : d.sh.reg.pool f.pool = some p)
    (hunit : ((p.layGen (p.genOf lb)).units f.row).contains f.unit = true)
    (hclear : clearFor d p (p.layGen (p.genOf lb)) f.row e.rank = true) (ha : admitted d f.pool = true) :
    ∃ x : Fetch, (onReadRequest e f [lb] d).sh.fetches = d.sh.fetches ++ [x] ∧ x.purpose = .remote f.src.val f.pool lb ∧
      x.localBlk = lb ∧ x.rank = e.rank ∧ x.row = f.row ∧ x.unit = f.unit ∧ x.queued = false := by
  unfold onReadRequest
  simp only [List.foldl_cons, List.foldl_nil, hp, hunit, hclear, ha, Bool.not_true, Bool.or_self, Bool.false_eq_true, if_false,
    askDram_sh]
  exact ⟨_, rfl, rfl, rfl, rfl, rfl, rfl, rfl⟩

theorem readRequest_queued {s : State} {f : Frame} {lb : Nat} {p : PoolRec} (h : InOrder s .readRequest 3 f)
    (hp : s.dp.sh.reg.pool f.pool = some p) (hunit : ((p.layGen (p.genOf lb)).units f.row).contains f.unit = true)
    (hclear : clearFor s.dp p (p.layGen (p.genOf lb)) f.row s.env.rank = true) (ha : admitted s.dp f.pool = true) :
    ∃ (u : State) (x : Fetch), exec (.readRequest f [lb]) s = .next u.work ∧
      u.dp.sh.fetches = s.dp.sh.fetches ++ [x] ∧ x.purpose = .remote f.src.val f.pool lb ∧ x.localBlk = lb ∧
      x.rank = s.env.rank ∧ x.row = f.row ∧ x.unit = f.unit ∧ x.queued = false := by
  obtain ⟨u, d, hu, hd, hdp⟩ := delivered_of_ordered h rfl (by decide) (.blocks [lb])
  have hclear' : clearFor d p (p.layGen (p.genOf lb)) f.row s.env.rank = true := by
    unfold clearFor missedIn at hclear ⊢
    rwa [hd.sh]
  obtain ⟨x, hx, hkey⟩ := onReadRequest_queued s.env (hd.sh ▸ hp) hunit hclear' ((hd.admitted _).trans ha)
  refine ⟨u, x, hu, ?_, hkey⟩
  rw [hdp, deliver_readRequest, hx, hd.sh]

/-! ## Replies to a command's read (R579) -/

section
variable {s : State} {f : Frame} {x : Fetch} {k : CmdKey} {i : Nat}

theorem notMem_dropFetch (x : Fetch) (d : Dp) : x ∉ (d.dropFetch x).sh.fetches := by
  simp [Dp.dropFetch]

/-- A command that has got a block. -/
def withGot (i : Nat) (b : Blk) (c : Cmd) : Cmd := { c with got := c.got.put i (some b), todo := c.todo.filter (· != i) }

/-- A good unit of a command's read settles the read and is the command's. -/
theorem readData_settles {c : Cmd} {b : Blk} (hx : repliedFetch s.dp f = some x) (hwhy : x.purpose = .cmd k i)
    (hc : s.dp.cmd k = some c) (h : InOrder s .readData (bulkClass f) f) (hunit : x.unit < 14) (htag : tagApp b.tag ≠ noDataApp)
    (hok : c8Ok s.env s.dp x b = true) : ∃ u : State, exec (.readData f b) s = .next u.work ∧ x ∉ u.dp.sh.fetches ∧
      u.dp.cmd k = some { c with got := c.got.put i (some b), todo := c.todo.filter (· != i) } := by
  obtain ⟨u, d, hu, hd, hdp⟩ := delivered_of_ordered h rfl (one_le_bulkClass f) (.blk b)
  have hgive : u.dp = (d.dropFetch x).onCmd k (withGot i b) := by
    rw [hdp, deliver_readData, onReadData_good ((hd.repliedFetch f).trans hx) ((hd.c8Ok ..).trans hok) hunit htag]
    have hsome : Option.filter (fun y : Blk => decide (14 ≤ x.unit) || tagApp y.tag != noDataApp) (some b) = some b := by
      simp [Option.filter, htag]
    simp only [giveUnit, hwhy, hsome]
    rfl
  refine ⟨u, hu, ?_, ?_⟩
  · rw [hgive, onCmd_sh]
    exact notMem_dropFetch x d
  · have hcmd : (d.dropFetch x).cmd k = some c := (hd.cmd k).trans hc
    rw [hgive, cmd_onCmd _ _ (f := withGot i b) (fun _ => rfl), hcmd]
    rfl

/-- A unit of P or Q that cannot be had is rebuilt for the command that reads it. -/
theorem readFail_rebuilds {p : PoolRec} (hx : repliedFetch s.dp f = some x) (hwhy : x.purpose = .cmd k i)
    (h : InOrder s .readFail 3 f) (hp : s.dp.sh.reg.pool x.pool = some p) (hpq : (p.layGen x.gen).isPq x.row = true) :
    ∃ u : State, exec (.readFail f) s = .next u.work ∧ x ∉ u.dp.sh.fetches ∧
      u.dp.sh.rebuilds.any (fun j => j.purpose = .cmd k i && j.row = x.row && j.pos = x.pos && j.unit = x.unit) = true := by
  obtain ⟨u, d, hu, hd, hdp⟩ := delivered_of_ordered h rfl (by decide) .none
  have hlose : u.dp = startRebuild x.pool x.gen ⟨x.row, x.unit, x.pos⟩ (.cmd k i) (d.dropFetch x) := by
    have hp' : d.sh.reg.pool x.pool = some p := hd.sh ▸ hp
    rw [hdp, deliver_readFail, onReadFail_replied ((hd.repliedFetch f).trans hx)]
    simp [loseUnit, hwhy, Dp.dropFetch, hp', hpq]
  refine ⟨u, hu, ?_, ?_⟩
  · rw [hlose]
    exact notMem_dropFetch x d
  · rw [hlose]
    simp [startRebuild]

end

/-! ## JOIN (R290, Table 6-3) -/

/-- A JOIN that is held is the one of its rank in its pool. -/
theorem holdJoin_only (j : Nat × Nat × Word × Word × Nat) (d : Dp) : j ∈ (holdJoin j d).sh.joins ∧
    ∀ x ∈ (holdJoin j d).sh.joins, x.1 = j.1 → x.2.1 = j.2.1 → x = j := by
  refine ⟨List.mem_append_right _ (List.mem_singleton.mpr rfl), fun x hx hpool hrank => ?_⟩
  rcases List.mem_append.mp hx with hx | hx
  · have hkept := (List.mem_filter.mp hx).2
    simp [hpool, hrank] at hkept
  · exact List.mem_singleton.mp hx

theorem joinRequest_next {s : State} {f : Frame} {serial boot : Word} {n : Nat} {d : Dp}
    (h : Reaches .joinRequest 3 f (.join serial boot n) s d) :
    exec (.joinRequest f serial boot n) s = .next (s.stayAwake.onDp (fun _ _ =>
      holdJoin (f.pool, if f.pool = noPool then f.src.val else f.arg % 16, serial, boot, n) d)).work := by
  rw [exec_joinRequest, execJoinRequest]
  exact next_delivered (by decide) h (deliver_joinRequest ..)

/-! ## Admission rounds (R417, R418) -/

section
variable (e : Env) {pool : Nat} {d : Dp} {p : PoolRec} (n : Nat)

theorem takeDemand_demands (r : Nat) (hp : d.sh.reg.pool pool = some p) (hs : isSteward d pool = true) :
    (takeDemand e pool r n d).bw.demands.get 0 (bwKey pool r) = n := by
  unfold takeDemand
  simp only [hp, hs, if_true]
  rw [(SameButRing.foldl (fun _ _ => sameButRing_send ..) _ _).bw]
  exact get_put_self ..

theorem takeGrant_grants (r : Nat) (hp : d.sh.reg.pool pool = some p) (hs : isSteward d pool = true) :
    (takeGrant e pool r n d).bw.grants.get 0 (bwKey pool r) = n := by
  unfold takeGrant
  simp only [hp, hs, if_true]
  split
  · exact get_put_self ..
  · rw [(SameButRing.foldl (fun _ _ => sameButRing_send ..) _ _).bw]
    exact get_put_self ..

theorem takeRequest_requests (r : Nat) (d : Dp) : (takeRequest e pool r n d).bw.requests.get 0 (bwKey pool r) = n := by
  unfold takeRequest
  rw [(sameButRing_send ..).bw]
  exact get_put_self ..

theorem takeRate_rate (d : Dp) : ((takeRate e pool n d).bucket pool).rate = n := by
  unfold takeRate Dp.bucket Dp.setBucket
  rw [get_put_self]

end

/-! ## Rebases (R395, R580) -/

/-- An acknowledgement is counted, and nothing is rebased before every member's has come. -/
theorem rebaseAck_counts (e : Env) {c : BitVec 32} {a r : Nat} {o : Option Order} {d : Dp} (h : d.sh.rebase = some (c, a, o))
    (hall : (memberRanks d.sh.reg).all (fun k => (a ||| 2 ^ r).testBit k) = false) :
    (rebaseAck e c r d).sh.rebase = some (c, a ||| 2 ^ r, o) := by
  simp only [rebaseAck, h, if_true, finishRebase, hall, Bool.false_eq_true, if_false]

end Sys2Proof.Proofs


/-! # Orders, secure-discard reports and admission by a frame (R36, R63, R252) -/

namespace Sys2Proof.Proofs

open Sys2Proof.Machine Sys2Proof.Laws

/-! ## Orders (R395, R36) -/

/-- MEMBER_ADD, new to the registry steward's sequencer, changes the registry. -/
theorem takeOrder_add {e : Env} {o : Order} {d : Dp} (hfresh : d.sh.regOpen.any (fun x => x.order.any (sameOrder o)) = false)
    (hunpolled : d.sh.polls.any (fun x => sameOrder x.1 o) = false)
    (hungiven : d.sh.delegated.any (fun x => sameOrder x.1 o) = false) (hunapplied : appliedOf d.sh.reg o = none)
    (hleased : leaseOk d.sh.regNext e.now o = true) (hop : o.opcode = 0x0703) (hrank : fieldAt o.payload 0 1 ≤ 15) :
    (takeOrder e o d).sh.regNext.members = (putMember d.sh.regNext (memberOf (fieldAt o.payload 0 1)
      (BitVec.ofNat 64 (fieldAt o.payload 8 8)))).members := by
  obtain ⟨-, hadd, -⟩ := judgeOrder_member (e := e) (d := d) hleased
  unfold takeOrder
  rw [hfresh, hunpolled, hungiven, hunapplied, if_neg (by decide)]
  dsimp only
  rw [(hadd hop).trans (judgeAdd_change hrank), regNext_applyVerdict_change]

/-! ## Secure-discard reports (R63) -/

/-- No job of an id waits for a rank's report. -/
def Reported (id rank : Nat) (d : Dp) : Prop :=
  ∀ j ∈ d.sh.regNext.jobs, j.id = id → j.pendingMask.testBit rank = false

theorem testBit_sub_two_pow {m r : Nat} (h : m.testBit r = true) : (m - 2 ^ r).testBit r = false := by
  have hsub : (m - 2 ^ r) / 2 ^ r = m / 2 ^ r - 1 := by simpa using Nat.sub_mul_div m (2 ^ r) 1
  rw [Nat.testBit_eq_decide_div_mod_eq] at h ⊢
  rw [hsub]
  simp only [decide_eq_true_eq, decide_eq_false_iff_not] at h ⊢
  omega

section
variable {id rank : Nat} {d : Dp} {e : Env}

theorem reported_of_sh {d' : Dp} (h : Reported id rank d) (hd : d'.sh.regNext = d.sh.regNext) : Reported id rank d' := by
  unfold Reported
  rwa [hd]

theorem reported_sdTick (h : Reported id rank d) : Reported id rank (sdTick e d) := by
  unfold sdTick
  dsimp only
  split
  · intro j hj hid
    obtain ⟨x, hx, rfl⟩ := List.mem_map.mp hj
    split at hid
    · next hend => rw [if_pos hend]; exact h x hx hid
    · next hgoes => rw [if_neg hgoes]; exact h x hx hid
  · exact h

theorem regNext_sdReparity (j : SdJob) (p : PoolRec) (d : Dp) : (sdReparity j p d).sh.regNext = d.sh.regNext := by
  unfold sdReparity
  generalize sdParityRows j p = l
  induction l generalizing d with
  | nil => rfl
  | cons x l ih => exact ih _

theorem regNext_changeRegistry (e : Env) (g : Registry) (det : Nat) (pl : List Byte) (d : Dp) :
    (changeRegistry e none g det pl d).sh.regNext = g := rfl

/-- A job that waits for the rank no more takes the place of the job of its id. -/
theorem reported_setJob {g : Registry} {j : SdJob} (hj : j.pendingMask.testBit rank = false) (hid : j.id = id) {det : Nat}
    {pl : List Byte} : Reported id rank (changeRegistry e none (setJob g j) det pl d) := by
  intro x hx hxid
  rw [regNext_changeRegistry] at hx
  obtain ⟨y, -, rfl⟩ := List.mem_map.mp hx
  split at hxid
  · next hsame => rw [if_pos hsame]; exact hj
  · next hother =>
    exact absurd (hxid.trans hid.symm) (by simpa using hother)

theorem reported_sdSteward (h : Reported id rank d) : Reported id rank (sdSteward e id d) := by
  unfold sdSteward
  extract_lets u
  have htick : Reported id rank u := reported_sdTick h
  split
  · exact htick
  · split
    · exact htick
    · next j hj =>
      have hjid : j.id = id := by simpa using List.find?_some hj
      have hclear := htick j (List.mem_of_find?_eq_some hj) hjid
      split
      · exact htick
      · next p _ =>
        split
        · exact htick
        extract_lets first w j' same v
        have hw : w.sh.regNext = u.sh.regNext := by
          unfold w
          split
          · exact regNext_sdReparity ..
          · rfl
        have hv : v.sh = w.sh := by
          unfold v
          split
          · exact logAt_sh ..
          · rfl
        have hkey : j'.id = id ∧ j'.pendingMask.testBit rank = false := by
          unfold j'
          split <;> exact ⟨hjid, hclear⟩
        split
        · exact reported_of_sh htick (by rw [hv, hw])
        · exact reported_setJob hkey.2 hkey.1

/-- The last report of a member that a job waits for clears the member's bit. -/
theorem sdTake_reported {r : SdReport} {j : SdJob} (hs : isSteward d 0 = true)
    (hj : d.sh.regNext.jobs.find? (fun j => j.id = id) = some j) (hopen : sdEnded j = false)
    (hwaits : j.pendingMask.testBit rank = true) (hfinal : r.final = true) : Reported id rank (sdTake e id rank r d) := by
  have hid : j.id = id := by simpa using List.find?_some hj
  unfold sdTake
  simp only [hs, Bool.not_true, Bool.false_eq_true, if_false, hj, hopen, hwaits, Bool.or_self]
  refine reported_sdSteward (reported_setJob ?_ (by exact hid))
  simp only [hfinal, if_true]
  exact testBit_sub_two_pow hwaits

end

/-! ## Admission (R252, R290) -/

/-- Two data paths in which the same pools have admitted this device, under the same stewards, mentioned at the same times. -/
structure SameEntry (d d' : Dp) : Prop where
  admitted : d'.sh.admitted = d.sh.admitted
  steward : d'.sh.steward = d.sh.steward
  mentioned : d'.sh.mentioned = d.sh.mentioned

namespace SameEntry
variable {d d' d'' : Dp}

theorem of_sh (h : d'.sh = d.sh) : SameEntry d d' := ⟨by rw [h], by rw [h], by rw [h]⟩

theorem refl (d : Dp) : SameEntry d d := of_sh rfl

theorem trans (h : SameEntry d d') (h' : SameEntry d' d'') : SameEntry d d'' :=
  ⟨h'.admitted.trans h.admitted, h'.steward.trans h.steward, h'.mentioned.trans h.mentioned⟩

theorem ite {c : Prop} [Decidable c] {x y : Dp} (hx : SameEntry d x) (hy : SameEntry d y) : SameEntry d (if c then x else y) := by
  split
  · exact hx
  · exact hy

theorem foldl {α : Type} {f : Dp → α → Dp} (h : ∀ d x, SameEntry d (f d x)) (l : List α) (d : Dp) : SameEntry d (l.foldl f d) := by
  induction l generalizing d with
  | nil => exact refl d
  | cons x l ih => exact (h d x).trans (ih _)

theorem media (d : Dp) (m : Media) : SameEntry d { d with med := m } := of_sh rfl

theorem logE (e : Env) (code sev src : Nat) (a : List Nat) (d : Dp) : SameEntry d (logE e code sev src a d) :=
  of_sh (logAt_sh ..)

theorem cause (e : Env) (bit : Nat) (d : Dp) : SameEntry d (cause e bit d) := by
  obtain ⟨-, hsh, -⟩ := cause_frame e bit d
  exact of_sh hsh

/-- A record written and counted. -/
theorem counted (e : Env) (ss i n code sev src : Nat) (a : List Nat) (d : Dp) :
    SameEntry d (count ss i n (Machine.logE e code sev src a d)) := (logE ..).trans (of_sh (count_sh ..))

end SameEntry

/-! ### Rows and dies that leave service -/

section
variable (e : Env) (d : Dp)

theorem sameEntry_restage (id : Nat) (pages : List Nat) : SameEntry d (restage id pages d) := .of_sh rfl

theorem sameEntry_closeRows (on_ : Nat × Nat × Nat → Bool) : SameEntry d (closeRows e on_ d) :=
  .foldl (fun _ _ => SameEntry.trans (.of_sh (onRow_sh ..)) (sameEntry_restage ..)) _ d

theorem sameEntry_returnRead (cws : List Nat) (why : ReadWhy) : SameEntry d (returnRead cws why d) := by
  cases why <;> exact ⟨rfl, rfl, rfl⟩

theorem sameEntry_addRelic (r : Row) (pos : Nat) : SameEntry d (addRelic r pos d) := .ite (.refl d) ⟨rfl, rfl, rfl⟩

theorem sameEntry_dropBlock (r : Row) (pos : Nat) : SameEntry d (dropBlock r pos d) :=
  (sameEntry_addRelic d r pos).trans ⟨rfl, rfl, rfl⟩

theorem sameEntry_dropOps (c n : Nat) : SameEntry d (dropOps e c n d) := by
  unfold dropOps
  refine SameEntry.trans ?_ (.foldl (fun d (x : Row × Nat) => sameEntry_dropBlock d x.1 x.2) _ _)
  refine SameEntry.trans ?_ (.foldl (fun d k => ?_) _ _)
  · exact SameEntry.trans (.of_sh (setDie_sh ..)) (sameEntry_closeRows ..)
  · split
    · exact sameEntry_restage ..
    · exact sameEntry_returnRead ..
    · exact .refl d

theorem sameEntry_recompute : SameEntry d (recompute e d) := by
  have hlog (c : Prop) [Decidable c] (x : Dp) (code sev : Nat) (a : List Nat) :
      SameEntry x (if c then logE e code sev srcFirmware a x else x) := .ite (.logE ..) (.refl x)
  have hcheck (x : Dp) : SameEntry x (checkReserve e x) := by
    unfold checkReserve
    refine .ite (.refl x) ?_
    refine SameEntry.trans ?_ (.cause ..)
    refine SameEntry.trans ?_ (hlog ..)
    refine SameEntry.trans ?_ (hlog ..)
    exact (SameEntry.media ..).trans (hlog ..)
  have hdue : SameEntry d { d with sh := { d.sh with figDue := true } } := ⟨rfl, rfl, rfl⟩
  exact hdue.trans (hcheck _)

theorem sameEntry_fenceDie (c n : Nat) : SameEntry d (fenceDie e c n d) := by
  have hdrop (x : Dp) (m : Media) : SameEntry x (dropOps e c n { x with med := m }) :=
    (SameEntry.media ..).trans (sameEntry_dropOps ..)
  unfold fenceDie
  refine .ite (.refl d) (SameEntry.trans ?_ (sameEntry_recompute ..))
  refine SameEntry.trans ?_ ((SameEntry.counted ..).trans (.cause ..))
  exact SameEntry.trans (.of_sh (setDie_sh ..)) (hdrop ..)

theorem sameEntry_retireDie (c n : Nat) : SameEntry d (retireDie e c n d) := by
  unfold retireDie
  refine .ite (.refl d) ((sameEntry_fenceDie e d c n).trans ?_)
  exact (SameEntry.media ..).trans ((SameEntry.counted ..).trans (sameEntry_recompute ..))

theorem sameEntry_retireBlock (b : Nat × Nat × Nat) (event : Nat) : SameEntry d (retireBlock e b event d) := by
  have htold (m : Media) (a : List Nat) :
      SameEntry d (recompute e (count 3 5 1 (logE e 0x0305 2 srcFirmware a { d with med := m }))) :=
    (SameEntry.media ..).trans ((SameEntry.counted ..).trans (sameEntry_recompute ..))
  unfold retireBlock
  refine .ite (.refl d) ?_
  exact .ite ((htold ..).trans (sameEntry_retireDie ..)) (htold ..)

theorem sameEntry_eraseRow (id : Nat) : SameEntry d (eraseRow e id d) := by
  have hbad (x : Dp) (r : Row) (i : Nat) :
      SameEntry x (sdBlock (some id) (r.blocks.getD i (0, 0, 0)) false (addRelic r i x)) :=
    (sameEntry_addRelic x r i).trans ⟨rfl, rfl, rfl⟩
  unfold eraseRow
  split
  · exact .refl d
  · next r _ =>
    refine .ite (.refl d) ?_
    have hend (x : Dp) (c : Prop) [Decidable c] (m : Media) : SameEntry x (if c then { x with med := m } else x) :=
      .ite (.media ..) (.refl x)
    refine SameEntry.trans ?_ (hend ..)
    refine SameEntry.trans ?_ (.of_sh (onRow_sh ..))
    refine SameEntry.trans ?_ (.foldl (fun d i => hbad d _ i) _ _)
    exact .foldl (fun d b => sameEntry_retireBlock e d b 1) _ d

theorem sameEntry_sweepRows : SameEntry d (sweepRows e d) :=
  .foldl (fun d (r : Row) => sameEntry_eraseRow e d r.id) _ d

/-! ### Mappings that become current -/

theorem sameEntry_settleCopies : SameEntry d (settleCopies d) := by
  have hcopy (id i : Nat) (d : Dp) : SameEntry d (settleCopy id i d) := by
    unfold settleCopy
    split
    · exact .refl d
    · split
      · exact .ite (.of_sh rfl) (.ite (.of_sh rfl) (.of_sh rfl))
      · exact .refl d
  exact .foldl (fun d (r : Row) => .foldl (fun d i => hcopy r.id i d) _ d) _ d

theorem sameEntry_makeCurrent (g : Green) : SameEntry d (makeCurrent g d) :=
  SameEntry.trans (.ite (.of_sh (setEntry_sh ..)) (.refl d)) ⟨rfl, rfl, rfl⟩

theorem sameEntry_settleGreens : SameEntry d (settleGreens e d) := by
  unfold settleGreens
  refine SameEntry.trans ?_ (sameEntry_sweepRows ..)
  refine SameEntry.trans ?_ (.foldl (fun d g => sameEntry_makeCurrent d g) _ _)
  exact SameEntry.trans (.foldl (fun d g => .of_sh (wantSeg_sh ..)) _ d) (sameEntry_settleCopies _)

theorem sameEntry_settleReplayed (pool : Nat) (l : List Nat) : SameEntry d (settleReplayed e pool l d) := by
  refine .foldl (fun d q => .ite ?_ ?_) _ d
  · unfold commitGreens
    refine SameEntry.trans ?_ (sameEntry_settleGreens ..)
    exact .of_sh rfl
  · unfold dropGreens
    refine SameEntry.trans ?_ (sameEntry_sweepRows ..)
    exact .of_sh rfl

/-! ### The missed regions that the steward is told of -/

theorem sameEntry_appendNew (type : RecType) (pool arg : Nat) : SameEntry d (appendNew e type pool arg d) := by
  refine SameEntry.trans (d' := d.setRole { d.roleD pool with nextSeq := (d.roleD pool).nextSeq + 1 }) ⟨rfl, rfl, rfl⟩ ?_
  unfold appendNew append
  dsimp only
  split
  · exact .refl _
  · exact .ite ⟨rfl, rfl, rfl⟩ (.refl _)

theorem sameEntry_tellMissed (pool region : Nat) : SameEntry d (tellMissed e pool region d) := by
  unfold tellMissed
  refine .ite (sameEntry_appendNew ..) ?_
  split
  · exact .of_sh (sameButRing_send ..).sh
  · exact .refl d

/-! ### A JOIN_ADMIT that is accepted -/

/-- With an accepted JOIN_ADMIT this device takes part in the pool, under the claim of the frame and as of now (R252). -/
theorem onJoinAdmit_admits {f : Frame} (st : List (Nat × MemberState)) (m : List (Nat × Nat)) (q : List Nat)
    (g : Option Registry) {d : Dp} (hv : claimValid f.claim = true) (hr : rankOf f.claim = f.src.val)
    (hc : d.claimOf f.pool ≤ f.claim) :
    f.pool ∈ (onJoinAdmit e f st m q g d).sh.admitted ∧
    (onJoinAdmit e f st m q g d).sh.steward.get 0 f.pool = f.claim.toNat ∧
    (onJoinAdmit e f st m q g d).sh.mentioned.get 0 f.pool = e.now := by
  have hwall : seawall e .joinAdmit f true d = (raise e f.pool f.claim 2 d, true) := by
    simp [seawall, hv, hr, BitVec.not_lt.mpr hc]
  unfold onJoinAdmit
  rw [hwall]
  extract_lets a u old mine v sh w own x
  have hw : f.pool ∈ w.sh.admitted ∧ w.sh.steward.get 0 f.pool = f.claim.toNat ∧ w.sh.mentioned.get 0 f.pool = e.now :=
    ⟨mem_addNew .., get_put_self .., get_put_self ..⟩
  have hkept : SameEntry w (logE e 0x0F06 1 srcFirmware [f.pool] x) :=
    ((SameEntry.foldl (fun d g => sameEntry_tellMissed e d f.pool g) _ _).trans (sameEntry_settleReplayed ..)).trans (.logE ..)
  have haccepted : (!a.2) = false := rfl
  rw [haccepted, if_neg (by decide), hkept.admitted, hkept.steward, hkept.mentioned]
  exact hw

end

end Sys2Proof.Proofs

/-! # A sherd reaches the member (R165, R167, R201, Table 6-2)

A block of a sherd is staged and stays, unless the sherd holds a block that fails C4 and is committed already: then it is lost with its
sherd, in the work that the frame itself begins. The same work from a state that still holds the block comes to the same end, since
a loss leaves nothing but its record in the log and its marks, and both are made again. -/

namespace Sys2Proof.Proofs

open Sys2Proof.Machine Sys2Proof.Laws

/-! ## Keyed tables -/

/-- Values put at two keys may be put in either order. -/
theorem put_comm {α : Type} (t : Tab α) {j k : Nat} (h : j ≠ k) (x y : α) :
    (t.put j x).put k y = (t.put k y).put j x := by
  induction t with
  | nil => simp only [Tab.put]; grind [Tab.put]
  | cons z t ih =>
    obtain ⟨i, v⟩ := z
    simp only [Tab.put]
    grind [Tab.put]

/-! ## The record of a failure at C4 -/

/-- The log after one more record. -/
def loggedIo (now code sev src : Nat) (a : BitVec 128) (io : Io) : Io :=
  let excess := io.ring.length + 1 - ringMax
  let gone := (io.ring.take excess).map LogRec.seqn
  { io with
    ring := (io.ring ++ [(⟨code, sev, src, now, io.nextSeq, a⟩ : LogRec)]).drop excess
    nextSeq := (io.nextSeq + 1) % 2 ^ 32
    alert := (if 4 ≤ sev then io.alert ++ [io.nextSeq] else io.alert).filter (fun q => !gone.contains q)
    critAt := if 5 ≤ sev then some now else io.critAt }

/-- The log, the counters and the checks after a failure at C4 of this device. -/
def c4Io (e : Env) (io : Io) : Io :=
  loggedIo e.now 0x0503 3 srcFirmware (args [4, e.rank])
    { io with
      checks := io.checks.put (4 * 16 + e.rank) (io.checks.get 0 (4 * 16 + e.rank) + 1)
      counters := io.counters.put 1290 (satAdd (2 ^ 64 - 1) (io.counters.get 0 1290) 1) }

theorem checkFail_c4 (e : Env) (d : Dp) : checkFail e 4 e.rank d = { d with io := c4Io e d.io } := rfl

theorem checkFail_map (e : Env) (d : Dp) : (checkFail e 4 e.rank d).map = d.map := by rw [checkFail_c4]

theorem checkFail_sh (e : Env) (d : Dp) : (checkFail e 4 e.rank d).sh = d.sh := by rw [checkFail_c4]

/-- The last record of the log, the counters and the checks is of a failure at C4, whatever was counted or put out since. -/
def C4Last (e : Env) (io : Io) : Prop := ∃ io0, c4Io e io0 = io

theorem c4Last_out {e : Env} {io : Io} (h : C4Last e io) (l : List Output) : C4Last e { io with out := l } := by
  obtain ⟨io0, rfl⟩ := h
  exact ⟨{ io0 with out := l }, by simp only [c4Io, loggedIo]⟩

theorem c4Last_counters {e : Env} {io : Io} (h : C4Last e io) {k : Nat} (hk : k ≠ 1290) (n : Nat) :
    C4Last e { io with counters := io.counters.put k n } := by
  obtain ⟨io0, rfl⟩ := h
  refine ⟨{ io0 with counters := io0.counters.put k n }, ?_⟩
  simp only [c4Io, loggedIo, put_comm _ hk, get_put, if_neg (Ne.symm hk)]

/-! ## Steps that keep every block staged -/

/-- A block of greenware that is another only in what its staging has come to. -/
structure Twin (g x : Green) : Prop where
  pool : x.pool = g.pool
  localBlk : x.localBlk = g.localBlk
  seqn : x.seqn = g.seqn
  unit : x.unit = g.unit
  src : x.src = g.src
  committed : x.committed = g.committed

/-- A step that keeps every block staged as what it is, and verified if it was; that leaves the shoal's records and the segments of the
map that are resident; and that adds no record to the log. -/
structure Quiet (e : Env) (d d' : Dp) : Prop where
  green : ∃ f : Green → Green, d'.map.green = d.map.green.map f ∧
    ∀ x, Twin x (f x) ∧ (x.verified = true → (f x).verified = true)
  sh : d'.sh = d.sh
  segs : d'.map.segs = d.map.segs
  whole : d'.map.resident = d.map.resident
  io : C4Last e d.io → C4Last e d'.io

namespace Quiet
variable {e : Env} {d d' d'' : Dp}

theorem of_same (hm : d'.map = d.map) (hs : d'.sh = d.sh) (hio : C4Last e d.io → C4Last e d'.io) : Quiet e d d' :=
  ⟨⟨id, by rw [hm, List.map_id], fun _ => ⟨⟨rfl, rfl, rfl, rfl, rfl, rfl⟩, id⟩⟩, hs, by rw [hm], by rw [hm], hio⟩

/-- A change of the map that leaves its greenware and its segments. -/
theorem table (d : Dp) (m : MapEng) (hg : m.green = d.map.green) (hs : m.segs = d.map.segs) (hw : m.resident = d.map.resident) :
    Quiet e d { d with map := m } :=
  ⟨⟨id, by rw [List.map_id, hg], fun _ => ⟨⟨rfl, rfl, rfl, rfl, rfl, rfl⟩, id⟩⟩, rfl, hs, hw, id⟩

theorem refl (d : Dp) : Quiet e d d := of_same rfl rfl id

theorem trans (h : Quiet e d d') (h' : Quiet e d' d'') : Quiet e d d'' := by
  obtain ⟨⟨f, hf, hkey⟩, hs, hsegs, hw, hio⟩ := h
  obtain ⟨⟨f', hf', hkey'⟩, hs', hsegs', hw', hio'⟩ := h'
  refine ⟨⟨f' ∘ f, by rw [hf', hf, List.map_map], fun x => ⟨?_, fun hx => (hkey' _).2 ((hkey x).2 hx)⟩⟩, hs'.trans hs,
    hsegs'.trans hsegs, hw'.trans hw, fun hl => hio' (hio hl)⟩
  obtain ⟨a, b, c, p, q, r⟩ := (hkey x).1
  obtain ⟨a', b', c', p', q', r'⟩ := (hkey' (f x)).1
  exact ⟨a'.trans a, b'.trans b, c'.trans c, p'.trans p, q'.trans q, r'.trans r⟩

theorem ite {c : Prop} [Decidable c] {x y : Dp} (hx : Quiet e d x) (hy : Quiet e d y) : Quiet e d (if c then x else y) := by
  split
  · exact hx
  · exact hy

theorem foldl {α : Type} {f : Dp → α → Dp} (h : ∀ d x, Quiet e d (f d x)) (l : List α) (d : Dp) : Quiet e d (l.foldl f d) := by
  induction l generalizing d with
  | nil => exact refl d
  | cons x l ih => exact (h d x).trans (ih _)

theorem media (d : Dp) (m : Media) : Quiet e d { d with med := m } := of_same rfl rfl id

theorem traffic (d : Dp) (m : Traffic) : Quiet e d { d with mem := m } := of_same rfl rfl id

theorem count {ss i : Nat} (n : Nat) (d : Dp) (h : ss * 256 + i ≠ 1290) : Quiet e d (count ss i n d) :=
  of_same rfl rfl fun hl => c4Last_counters hl h _

theorem onGreen (d : Dp) (p : Green → Bool) {f : Green → Green} (h : ∀ x, Twin x (f x) ∧ (x.verified = true → (f x).verified = true)) :
    Quiet e d (d.onGreen p f) := by
  refine ⟨⟨fun x => if p x then f x else x, rfl, fun x => ?_⟩, rfl, rfl, rfl, id⟩
  dsimp only
  split
  · exact h x
  · exact ⟨⟨rfl, rfl, rfl, rfl, rfl, rfl⟩, id⟩

/-- A frame that goes out adds to the outputs and changes the ring's records. -/
theorem of_sends (hd : ∃ l r, d' = { d with io := { d.io with out := l }, ring := r }) : Quiet e d d' := by
  obtain ⟨l, r, rfl⟩ := hd
  exact of_same rfl rfl fun hl => c4Last_out hl l

end Quiet

/-- Two data paths that differ in what has gone out and in the ring's records alone. -/
def Sends (d d' : Dp) : Prop := ∃ l r, d' = { d with io := { d.io with out := l }, ring := r }

theorem Sends.trans {d d' d'' : Dp} (h : Sends d d') (h' : Sends d' d'') : Sends d d'' := by
  obtain ⟨_, _, rfl⟩ := h
  obtain ⟨l, r, rfl⟩ := h'
  exact ⟨l, r, rfl⟩

theorem sends_sendOn (now : Nat) (p : CwPort) (o : Output) (d : Dp) : Sends d (sendOn now p o d) := by
  have hlink (l : CwLink) : Sends d (d.setLink p l) := by
    cases p <;> exact ⟨_, _, rfl⟩
  have hput (d : Dp) : Sends d (put o d) := ⟨_, _, rfl⟩
  unfold sendOn
  dsimp only
  split
  · split
    · exact (hlink _).trans (hput _)
    · exact hlink _
  · exact ⟨_, _, rfl⟩

theorem sends_send (e : Env) (t : FrameType) (bulk : Nat) (f : Frame) (b : FrameBody) (d : Dp) :
    Sends d (send e t bulk f b d) := by
  have hbusy : Sends d (if (1 ≤ t.cls bulk && f.dst.val != e.rank) = true then
      { d with ring := { d.ring with busyAt := e.now } } else d) := by
    split <;> exact ⟨_, _, rfl⟩
  unfold send
  dsimp only
  generalize (if (1 ≤ t.cls bulk && f.dst.val != e.rank) = true then
      { d with ring := { d.ring with busyAt := e.now } } else d) = u at hbusy ⊢
  refine hbusy.trans ?_
  split
  · exact ⟨_, _, rfl⟩
  · split
    · exact ⟨_, _, rfl⟩
    · have hpair (r c : Nat) (p : Pair) : Sends u (u.setPair r c p) := ⟨_, _, rfl⟩
      generalize hv : (if t.paired = true then _ else u) = v
      have hsent : Sends u v := by
        rw [← hv]
        split
        · exact hpair ..
        · exact ⟨_, _, rfl⟩
      split
      · exact hsent.trans (sends_sendOn ..)
      · exact hsent

theorem quiet_send (e : Env) (t : FrameType) (bulk : Nat) (f : Frame) (b : FrameBody) (d : Dp) : Quiet e d (send e t bulk f b d) :=
  .of_sends (sends_send ..)

/-! ## What placing does besides -/

section
variable (e : Env) {d : Dp}

theorem quiet_wantSeg (d : Dp) (pool lb : Nat) : Quiet e d (wantSeg d pool lb) :=
  .table d { d.map with wanted := addNew (pool, segOf (iuOf d pool) lb) d.map.wanted } rfl rfl rfl

theorem quiet_wantGreens (d : Dp) : Quiet e d (wantGreens d) := .foldl (fun _ _ => quiet_wantSeg ..) _ d

theorem quiet_rowFor {u : RowUse} {worn : Bool} {z : Dp × Nat} (h : rowFor e u worn d = some z) : Quiet e d z.1 := by
  unfold rowFor at h
  split at h
  · cases h
    exact .refl d
  · split at h
    · cases h
    · unfold openRow at h
      dsimp only at h
      split at h
      · cases h
      · split at h
        · cases h
          exact .media d _
        · cases h

theorem quiet_putCw (id : Nat) (a : As) (x : Codeword) (d : Dp) : Quiet e d (putCw e id a x d) := .media d _

theorem quiet_putFill (id : Nat) (a : As) (n : Nat) (d : Dp) : Quiet e d (putFill e id a n d) := by
  induction n generalizing d with
  | zero => exact .refl d
  | succ n ih =>
    have hnonce : Quiet e d (takeNonce d).2 := .media d _
    exact ((hnonce.trans (quiet_putCw ..)).trans (.count 1 _ (by decide))).trans (ih _)

theorem quiet_fillPage (id : Nat) (a : As) (d : Dp) : Quiet e d (fillPage e id a d) := by
  unfold fillPage
  split
  · exact .refl d
  · exact quiet_putFill ..

theorem quiet_stageCws (u : RowUse) (a : As) (l : List Codeword) (d : Dp) : Quiet e d (stageCws e u a l d).1 := by
  induction l generalizing d with
  | nil => exact .refl d
  | cons x l ih =>
    unfold stageCws
    split
    · exact ih d
    · next h => exact (quiet_rowFor e h).trans ((quiet_putCw ..).trans (ih _))

theorem quiet_placeGreens (use : RowUse) (a : As) (gs : List Green) (d : Dp) : Quiet e d (placeGreens e use a gs d) := by
  have hloc (d : Dp) (x : Green × Option Loc) : Quiet e d (d.onGreen (sameGreen x.1) (fun y => { y with loc := x.2 })) :=
    .onGreen d _ fun _ => ⟨⟨rfl, rfl, rfl, rfl, rfl, rfl⟩, id⟩
  have hask (d : Dp) (g : Green) :
      Quiet e d ((if g.overflow then d.askDram 1 1 g.pool g.localBlk false else d).askPad .wstage 8 4112) :=
    (Quiet.ite (.traffic d _) (.refl d)).trans (.traffic _ _)
  unfold placeGreens
  dsimp only
  generalize hasked : List.foldl _ (Machine.count 10 0 gs.length _) gs = u
  have hu : Quiet e d u := by
    rw [← hasked]
    exact ((Quiet.media d _).trans (.count _ _ (by decide))).trans (.foldl hask _ _)
  generalize hz : stageCws e use a _ u = z
  have hplaced : Quiet e d (List.foldl (fun d x => d.onGreen (sameGreen x.1) (fun y => { y with loc := x.2 })) z.1 (gs.zip z.2)) :=
    (hu.trans (hz ▸ quiet_stageCws ..)).trans (.foldl hloc _ _)
  split
  · exact hplaced.trans (.ite (quiet_fillPage ..) (.refl _))
  · exact hplaced

theorem quiet_reportSherd (g : Green) (d : Dp) : Quiet e d (reportSherd e g d) := by
  have hdelta (d : Dp) (k : DeltaKind) (p b n : Nat) (l : Option Loc) : Quiet e d (addDelta k p b n l d) :=
    .table d { d.map with deltas := _, nextDelta := _, deltaBytes := _ } rfl rfl rfl
  have hreported : Quiet e d (d.onGreen (sameSherd g) (fun x => { x with reported := true })) :=
    .onGreen d _ fun _ => ⟨⟨rfl, rfl, rfl, rfl, rfl, rfl⟩, id⟩
  refine .ite ?_ (.refl d)
  refine Quiet.trans (hreported.trans (.foldl (fun _ _ => hdelta ..) _ _)) (.ite (.refl _) (quiet_send ..))

end

/-! ## Losing a sherd (Table 5-6) -/

/-- The loss of a block is marked: it is in the lost blocks, and every region of its row in the regions this device has missed. -/
def Marked (e : Env) (x : Green) (d : Dp) : Prop :=
  ∀ p, d.sh.reg.pool x.pool = some p → (x.pool, x.localBlk) ∈ d.sh.lostBlks ∧
    ∀ r ∈ p.rowRegions (d.ticketLay p x.seqn) x.row, (viewKey x.pool e.rank, r) ∈ d.sh.missed

/-- Two data paths with the same registry and windows, of which the second has the marks of the first, and perhaps more. -/
structure MarksGrow (d d' : Dp) : Prop where
  reg : d'.sh.reg = d.sh.reg
  windows : d'.sh.windows = d.sh.windows
  lost : ∀ x ∈ d.sh.lostBlks, x ∈ d'.sh.lostBlks
  missed : ∀ x ∈ d.sh.missed, x ∈ d'.sh.missed

namespace MarksGrow
variable {d d' d'' : Dp}

theorem of_sh (h : d'.sh = d.sh) : MarksGrow d d' := ⟨by rw [h], by rw [h], by simp [h], by simp [h]⟩

theorem trans (h : MarksGrow d d') (h' : MarksGrow d' d'') : MarksGrow d d'' :=
  ⟨h'.reg.trans h.reg, h'.windows.trans h.windows, fun x hx => h'.lost x (h.lost x hx), fun x hx => h'.missed x (h.missed x hx)⟩

theorem ticketLay (h : MarksGrow d d') (p : PoolRec) (n : Nat) : d'.ticketLay p n = d.ticketLay p n := by
  unfold Dp.ticketLay
  rw [h.windows]

theorem marked (h : MarksGrow d d') {e : Env} {x : Green} (hx : Marked e x d) : Marked e x d' := by
  intro p hp
  rw [h.reg] at hp
  rw [h.ticketLay]
  obtain ⟨hlost, hmissed⟩ := hx p hp
  exact ⟨h.lost _ hlost, fun r hr => h.missed _ (hmissed r hr)⟩

end MarksGrow

theorem mem_addNew_of_mem {α : Type} [BEq α] {x y : α} {l : List α} (h : y ∈ l) : y ∈ addNew x l := by
  unfold addNew
  split
  · exact h
  · exact List.mem_append_left _ h

theorem addNew_of_mem {α : Type} [BEq α] [LawfulBEq α] {x : α} {l : List α} (h : x ∈ l) : addNew x l = l := by
  simp [addNew, h]

theorem mem_foldl_addNew {α β : Type} [BEq β] {f : α → β} {y : β} (l : List α) {m : List β} (h : y ∈ m) :
    y ∈ l.foldl (fun m x => addNew (f x) m) m := by
  induction l generalizing m with
  | nil => exact h
  | cons x l ih => exact ih (mem_addNew_of_mem h)

theorem mem_foldl_addNew_self {α β : Type} [BEq β] [LawfulBEq β] {f : α → β} {l : List α} {x : α} (hx : x ∈ l) (m : List β) :
    f x ∈ l.foldl (fun m x => addNew (f x) m) m := by
  induction l generalizing m with
  | nil => cases hx
  | cons y l ih =>
    rcases List.mem_cons.mp hx with rfl | hx
    · exact mem_foldl_addNew l (mem_addNew _ _)
    · exact ih hx _

theorem foldl_addNew_of_mem {α β : Type} [BEq β] [LawfulBEq β] {f : α → β} {l : List α} {m : List β} (h : ∀ x ∈ l, f x ∈ m) :
    l.foldl (fun m x => addNew (f x) m) m = m := by
  induction l with
  | nil => rfl
  | cons y l ih =>
    rw [List.foldl_cons, addNew_of_mem (h y List.mem_cons_self)]
    exact ih fun x hx => h x (List.mem_cons_of_mem _ hx)

section
variable (e : Env)

/-- What marking the loss of a block changes. -/
theorem markLost_spec (x : Green) (d : Dp) : MarksGrow d (markLost e x d) ∧ Marked e x (markLost e x d) ∧
    (markLost e x d).map = d.map ∧ (markLost e x d).io = d.io := by
  unfold markLost markBlk
  split
  · next hnone => exact ⟨.of_sh rfl, fun p (hp : d.sh.reg.pool x.pool = some p) => (by simp [hnone] at hp), rfl, rfl⟩
  · next p hp =>
    refine ⟨⟨rfl, rfl, fun _ h => mem_addNew_of_mem h, fun _ h => mem_foldl_addNew _ h⟩, fun q hq => ?_, rfl, rfl⟩
    obtain rfl : p = q := by
      have hq' : d.sh.reg.pool x.pool = some q := hq
      rw [hp] at hq'
      exact Option.some.inj hq'
    exact ⟨mem_addNew _ _, fun r hr => mem_foldl_addNew_self (f := fun x_1 => (viewKey x.pool e.rank, x_1)) hr _⟩

/-- A loss that is marked is not marked again. -/
theorem markLost_marked {x : Green} {d : Dp} (h : Marked e x d) : markLost e x d = d := by
  unfold markLost markBlk
  split
  · rfl
  · next p hp =>
    obtain ⟨hlost, hmissed⟩ := h p hp
    rw [addNew_of_mem hlost, foldl_addNew_of_mem hmissed]

theorem foldl_markLost_marked {l : List Green} {d : Dp} (h : ∀ x ∈ l, Marked e x d) : l.foldl (fun d x => markLost e x d) d = d := by
  induction l with
  | nil => rfl
  | cons y l ih =>
    rw [List.foldl_cons, markLost_marked e (h y List.mem_cons_self)]
    exact ih fun x hx => h x (List.mem_cons_of_mem _ hx)

theorem foldl_markLost_spec (l : List Green) (d : Dp) : MarksGrow d (l.foldl (fun d x => markLost e x d) d) ∧
    (∀ x ∈ l, Marked e x (l.foldl (fun d x => markLost e x d) d)) ∧
    (l.foldl (fun d x => markLost e x d) d).map = d.map ∧ (l.foldl (fun d x => markLost e x d) d).io = d.io := by
  induction l generalizing d with
  | nil => exact ⟨.of_sh rfl, by simp, rfl, rfl⟩
  | cons y l ih =>
    obtain ⟨hgrow, hy, hmap, hio⟩ := markLost_spec e y d
    obtain ⟨hgrow', hl, hmap', hio'⟩ := ih (markLost e y d)
    refine ⟨hgrow.trans hgrow', fun x hx => ?_, hmap'.trans hmap, hio'.trans hio⟩
    rcases List.mem_cons.mp hx with rfl | hx
    · exact hgrow'.marked hy
    · exact hl x hx

/-- The blocks that go when the sherd of `y` is lost: all of it where its steward has not been told of it, else those that are not
verified. -/
def goes (y : Green) (told : Bool) (x : Green) : Bool := sameSherd y x && (!told || !x.verified)

/-- The data path without the blocks that go, their loss marked where the steward has been told of the sherd. -/
def withoutSherd (e : Env) (y : Green) (told : Bool) (d : Dp) : Dp :=
  let u := { d with map := { d.map with green := d.map.green.filter (fun x => !goes y told x) } }
  if told then
    let v := (d.map.green.filter (goes y told)).foldl (fun d x => markLost e x d) u
    { v with sh := { v.sh with
        missDue := (v.sh.missed.filter (fun m => m.1 = viewKey y.pool e.rank && !d.sh.missed.contains m)).foldl
          (fun l m => addNew (y.pool, m.2) l) v.sh.missDue } }
  else u

/-- A loss of a sherd is that of the first block found there that is not verified (Table 5-6). -/
theorem loseSherd_found {pool lb n : Nat} {d : Dp} {y : Green}
    (h : d.map.green.find? (fun g => g.pool = pool && g.localBlk = lb && g.seqn = n && !g.verified) = some y) :
    loseSherd e pool lb n d = withoutSherd e y (y.reported || y.committed) d := by
  have hpool : y.pool = pool := by
    have hkey := List.find?_some h
    simp only [Bool.and_eq_true, decide_eq_true_eq] at hkey
    exact hkey.1.1.1
  subst hpool
  have hgoes : (fun x => sameSherd y x && (!(y.reported || y.committed) || !x.verified)) =
      goes y (y.reported || y.committed) := rfl
  have hkept : d.map.green.filter (fun x => !(d.map.green.filter (goes y (y.reported || y.committed))).contains x) =
      d.map.green.filter (fun x => !goes y (y.reported || y.committed) x) := List.filter_congr fun x hx => by simp [hx]
  unfold loseSherd
  rw [h]
  dsimp only
  rw [hgoes, hkept]
  rfl

theorem withoutSherd_spec (y : Green) (told : Bool) (d : Dp) :
    (withoutSherd e y told d).map = { d.map with green := d.map.green.filter (fun x => !goes y told x) } ∧
    (withoutSherd e y told d).io = d.io ∧ MarksGrow d (withoutSherd e y told d) ∧
    (told = true → ∀ x ∈ d.map.green, goes y told x = true → Marked e x (withoutSherd e y told d)) := by
  obtain ⟨hgrow, hmarked, hmap, hio⟩ := foldl_markLost_spec e (d.map.green.filter (goes y told))
    { d with map := { d.map with green := d.map.green.filter (fun x => !goes y told x) } }
  unfold withoutSherd
  dsimp only
  split
  · refine ⟨hmap, hio, ⟨hgrow.reg, hgrow.windows, hgrow.lost, hgrow.missed⟩, fun _ x hx hgo => ?_⟩
    exact hmarked x (List.mem_filter.mpr ⟨hx, hgo⟩)
  · next hnot => exact ⟨rfl, rfl, .of_sh rfl, fun h => absurd h hnot⟩

end

theorem resident_congr {d d' : Dp} (hs : d'.map.segs = d.map.segs) (hw : d'.map.resident = d.map.resident)
    (hr : d'.sh.reg = d.sh.reg) (pool lb : Nat) : resident d' pool lb = resident d pool lb := by
  unfold resident iuOf
  rw [hs, hw, hr]

/-- A block of greenware that still stands for `g`. -/
def Alive (g : Green) (d : Dp) : Prop := ∃ x ∈ d.map.green, Twin g x

/-- The sherd of `g` is lost by a failure at C4: of its block `x` for `g` and its block `y`, whose segment of the map is resident, and
which was found; nothing of it is left but verified blocks of one whose steward is told, and then both are marked. -/
structure LostAs (e : Env) (g x y : Green) (told : Bool) (d : Dp) : Prop where
  twin : Twin g x
  same : sameSherd y x = true
  here : resident d y.pool y.localBlk = true
  left : ∀ z ∈ d.map.green, sameSherd y z = true → told = true ∧ z.verified = true
  marks : told = true → Marked e x d ∧ Marked e y d
  last : C4Last e d.io

def Staged (e : Env) (g : Green) (d : Dp) : Prop := Alive g d ∨ ∃ x y told, LostAs e g x y told d

theorem Twin.trans {g x z : Green} (h : Twin g x) (h' : Twin x z) : Twin g z :=
  ⟨h'.pool.trans h.pool, h'.localBlk.trans h.localBlk, h'.seqn.trans h.seqn, h'.unit.trans h.unit, h'.src.trans h.src,
    h'.committed.trans h.committed⟩

theorem Twin.sameSherd {x z : Green} (h : Twin x z) (y : Green) : sameSherd y z = sameSherd y x := by
  unfold Machine.sameSherd
  rw [h.pool, h.seqn, h.unit]

section
variable {e : Env} {g : Green} {d d' : Dp}

theorem LostAs.quiet {x y : Green} {told : Bool} (h : LostAs e g x y told d) (hq : Quiet e d d') :
    LostAs e g x y told d' := by
  obtain ⟨⟨f, hf, hkey⟩, hs, hsegs, hw, hio⟩ := hq
  have hgrow := MarksGrow.of_sh hs
  refine ⟨h.twin, h.same, (resident_congr hsegs hw hgrow.reg ..).trans h.here, fun z hz hsame => ?_,
    fun ht => ⟨hgrow.marked (h.marks ht).1, hgrow.marked (h.marks ht).2⟩, hio h.last⟩
  rw [hf] at hz
  obtain ⟨z, hz', rfl⟩ := List.mem_map.mp hz
  obtain ⟨ht, hver⟩ := h.left z hz' ((hkey z).1.sameSherd y ▸ hsame)
  exact ⟨ht, (hkey z).2 hver⟩

theorem staged_quiet (h : Staged e g d) (hq : Quiet e d d') : Staged e g d' := by
  rcases h with ⟨x, hx, ht⟩ | ⟨x, y, told, h⟩
  · obtain ⟨f, hf, hkey⟩ := hq.green
    exact .inl ⟨f x, by rw [hf]; exact List.mem_map_of_mem hx, ht.trans (hkey x).1⟩
  · exact .inr ⟨x, y, told, h.quiet hq⟩

theorem resident_quiet (hq : Quiet e d d') (pool lb : Nat) : resident d' pool lb = resident d pool lb :=
  resident_congr hq.segs hq.whole (by rw [hq.sh]) pool lb

theorem quiet_checkFail (d : Dp) : Quiet e d (checkFail e 4 e.rank d) :=
  .of_same (checkFail_map e d) (checkFail_sh e d) fun _ => ⟨d.io, by rw [checkFail_c4]⟩

/-- The sherd that is lost with one of its blocks is that of `g`, or `g` stays. -/
theorem staged_withoutSherd (h : Staged e g d) (hlast : C4Last e d.io) {pool lb n : Nat} (hres : resident d pool lb = true)
    {y : Green} (hfind : d.map.green.find? (fun g => g.pool = pool && g.localBlk = lb && g.seqn = n && !g.verified) = some y) :
    Staged e g (withoutSherd e y (y.reported || y.committed) d) := by
  have hy := List.mem_of_find?_eq_some hfind
  have hkey : ((y.pool = pool ∧ y.localBlk = lb) ∧ y.seqn = n) ∧ y.verified = false := by simpa using List.find?_some hfind
  obtain ⟨⟨⟨rfl, rfl⟩, -⟩, hver⟩ := hkey
  generalize (y.reported || y.committed) = told
  obtain ⟨hmap, hio, hgrow, hmarks⟩ := withoutSherd_spec e y told d
  have hres' (a b : Nat) : resident (withoutSherd e y told d) a b = resident d a b :=
    resident_congr (by rw [hmap]) (by rw [hmap]) hgrow.reg a b
  have hself : goes y told y = true := by simp [goes, sameSherd, hver]
  rcases h with ⟨x, hx, ht⟩ | ⟨x, z, told', h⟩
  · cases hgo : goes y told x with
    | false => exact .inl ⟨x, by rw [hmap]; exact List.mem_filter.mpr ⟨hx, by simp [hgo]⟩, ht⟩
    | true =>
      refine .inr ⟨x, y, told, ht, ?_, (hres' ..).trans hres, fun z hz hsame => ?_,
        fun htold => ⟨hmarks htold x hx hgo, hmarks htold y hy hself⟩, hio.symm ▸ hlast⟩
      · exact (Bool.and_eq_true _ _ ▸ hgo : _ ∧ _).1
      · rw [hmap] at hz
        have hstays := (List.mem_filter.mp hz).2
        simp only [goes, hsame, Bool.true_and, Bool.not_or, Bool.not_not, Bool.and_eq_true] at hstays
        exact hstays
  · refine .inr ⟨x, z, told', h.twin, h.same, (hres' ..).trans h.here, fun w hw => ?_,
      fun ht => ⟨hgrow.marked (h.marks ht).1, hgrow.marked (h.marks ht).2⟩, hio.symm ▸ hlast⟩
    rw [hmap] at hw
    exact h.left w (List.mem_of_mem_filter hw)

/-- A sherd that is refused is empty of the block that failed, and staged as before (Table 5-6). -/
theorem quiet_refused (e : Env) (b : Green) (d : Dp) : Quiet e d (refuseSherd e b 4
    ((d.onGreen (sameSherd b) (fun x => { x with full := false })).onGreen (sameGreen b) (fun x => { x with blk := ⟨[], 0⟩ }))) := by
  have hempty : Quiet e d ((d.onGreen (sameSherd b) (fun x => { x with full := false })).onGreen (sameGreen b)
      (fun x => { x with blk := ⟨[], 0⟩ })) :=
    (Quiet.onGreen d (sameSherd b) (f := fun x => { x with full := false })
      fun _ => ⟨⟨rfl, rfl, rfl, rfl, rfl, rfl⟩, id⟩).trans (.onGreen _ _ fun _ => ⟨⟨rfl, rfl, rfl, rfl, rfl, rfl⟩, id⟩)
  exact hempty.trans ((quiet_checkFail _).trans (quiet_send ..))

/-- A failure at C4 of a block whose segment of the map is resident. -/
theorem staged_failC4 (h : Staged e g d) {b : Green} (hb : resident d b.pool b.localBlk = true) : Staged e g (failC4 e b d) := by
  unfold failC4
  split
  · generalize hu : checkFail e 4 e.rank d = u
    have hstaged : Staged e g u := staged_quiet h (hu ▸ quiet_checkFail d)
    have hlast : C4Last e u.io := ⟨d.io, by rw [← hu, checkFail_c4]⟩
    have hres : resident u b.pool b.localBlk = true := (resident_quiet (hu ▸ quiet_checkFail d) ..).trans hb
    cases hfind : u.map.green.find? (fun x => x.pool = b.pool && x.localBlk = b.localBlk && x.seqn = b.seqn && !x.verified) with
    | none =>
      have hnone : loseSherd e b.pool b.localBlk b.seqn u = u := by rw [loseSherd, hfind]
      rwa [hnone]
    | some y => exact loseSherd_found e hfind ▸ staged_withoutSherd hstaged hlast hres hfind
  · exact staged_quiet h (quiet_refused e b d)

theorem resident_failC4 (b : Green) (pool lb : Nat) : resident (failC4 e b d) pool lb = resident d pool lb := by
  unfold failC4
  split
  · cases hfind : (checkFail e 4 e.rank d).map.green.find?
        (fun x => x.pool = b.pool && x.localBlk = b.localBlk && x.seqn = b.seqn && !x.verified) with
    | none => rw [loseSherd, hfind]; exact resident_quiet (quiet_checkFail (e := e) d) pool lb
    | some y =>
      rw [loseSherd_found e hfind]
      obtain ⟨hmap, -, hgrow, -⟩ := withoutSherd_spec e y (y.reported || y.committed) (checkFail e 4 e.rank d)
      exact (resident_congr (by rw [hmap]) (by rw [hmap]) hgrow.reg pool lb).trans (resident_quiet (quiet_checkFail d) pool lb)
  · exact resident_quiet (quiet_refused e b d) pool lb

theorem staged_failAll {l : List Green} (h : Staged e g d) (hl : ∀ b ∈ l, resident d b.pool b.localBlk = true) :
    Staged e g (l.foldl (fun d b => failC4 e b d) d) := by
  induction l generalizing d with
  | nil => exact h
  | cons b l ih =>
    exact ih (staged_failC4 h (hl b List.mem_cons_self))
      fun x hx => (resident_failC4 ..).trans (hl x (List.mem_cons_of_mem _ hx))

end

/-! ## Placing (R199, R201) -/

/-- The blocks that need no place are verified, and the segments that the others need are asked for. -/
def readied (d : Dp) : Dp :=
  let d := wantGreens d
  if tableFull d then d
  else d.onGreen (fun g => g.full && !g.verified && !g.empty && g.unmaps && resident d g.pool g.localBlk)
    (fun g => { g with verified := true })

/-- The others are checked at C4. -/
def checked (e : Env) (d : Dp) : Dp := ((unplaced d).filter (fun g => !greenOk g)).foldl (fun d g => failC4 e g d) d

/-- Those that pass are placed, and the sherds that are whole reported. -/
def placed (e : Env) (d : Dp) : Dp :=
  let todo := roomFor d (unplaced d)
  let key (g : Green) : RowUse × (Nat × Task) := (placeOf g, placeAs d g)
  let kinds := (todo.map key).eraseDups
  let sealed := todo.length + 6 * kinds.length ≤ leaseLeft e d
  let d := if !sealed then d
    else kinds.foldl (fun d k => placeGreens e k.1 ⟨k.2.1, k.2.2⟩ (todo.filter (fun g => key g = k)) d) d
  d.map.green.foldl (fun d g => if g.full && g.verified && !g.reported then reportSherd e g d else d) d

theorem placeWaiting_eq (e : Env) (d : Dp) : placeWaiting e d = placed e (checked e (readied d)) := by
  delta placeWaiting placed checked readied
  with_reducible rfl

section
variable {e : Env} {g : Green} {d : Dp}

theorem quiet_readied (d : Dp) : Quiet e d (readied d) :=
  (quiet_wantGreens e d).trans (.ite (.refl _) (.onGreen _ _ fun _ => ⟨⟨rfl, rfl, rfl, rfl, rfl, rfl⟩, fun _ => rfl⟩))

theorem quiet_placed (d : Dp) : Quiet e d (placed e d) := by
  unfold placed
  extract_lets todo key kinds sealed u
  have hu : Quiet e d u := Quiet.ite (.refl _) (.foldl (fun _ _ => quiet_placeGreens ..) _ _)
  exact hu.trans (Quiet.foldl (fun _ _ => Quiet.ite (quiet_reportSherd ..) (.refl _)) _ _)

theorem staged_checked (h : Staged e g d) : Staged e g (checked e d) := by
  refine staged_failAll h fun b hb => ?_
  have hwaits := (List.mem_filter.mp (List.mem_of_mem_filter hb)).2
  exact (Bool.and_eq_true _ _ ▸ hwaits : _ ∧ _).2

theorem staged_placeWaiting (h : Staged e g d) : Staged e g (placeWaiting e d) := by
  rw [placeWaiting_eq]
  exact staged_quiet (staged_checked (staged_quiet h (quiet_readied d))) (quiet_placed _)

theorem staged_completed {c : Prop} [Decidable c] (p u : Green → Bool) (hg : g ∈ d.map.green) :
    Staged e g (if c then placeWaiting e (d.onGreen p (fun x => { x with full := true, unmaps := u x })) else d) := by
  have hstaged : Staged e g d := .inl ⟨g, hg, ⟨rfl, rfl, rfl, rfl, rfl, rfl⟩⟩
  split
  · exact staged_placeWaiting (staged_quiet hstaged (.onGreen _ _ fun _ => ⟨⟨rfl, rfl, rfl, rfl, rfl, rfl⟩, id⟩))
  · exact hstaged

/-- A staged block stands in the greenware, or its sherd is lost at C4 (R167, R201). -/
theorem staged_stageGreen (e : Env) (f : Frame) (b : Blk) (lb : Nat) (d : Dp) :
    ∃ g : Green, g.pool = f.pool ∧ g.localBlk = lb ∧ g.seqn = f.seqn ∧ g.unit = f.unit ∧ g.src = f.src.val ∧
      g.committed = false ∧ Staged e g (stageGreen e f b lb d) := by
  unfold stageGreen
  dsimp only
  refine ⟨_, ?_, ?_, ?_, ?_, ?_, ?_, staged_completed _ _ (List.mem_append_right _ (List.mem_singleton.mpr rfl))⟩
  all_goals rfl

end

/-! ## The work before the loss -/

/-- A block that its tag does not fit. -/
def rotBlk : Blk := ⟨[0], (~~~ guard64 [0]).setWidth 128⟩

theorem tagGuard_rotBlk : tagGuard rotBlk.tag ≠ guard64 rotBlk.data := by
  have hflip : tagGuard rotBlk.tag = ~~~ guard64 [0] := by
    unfold tagGuard rotBlk
    dsimp only
    generalize guard64 [0] = w
    apply BitVec.eq_of_getLsbD_eq
    intro i hi
    simp [hi, show i < 128 by omega]
  rw [hflip, show rotBlk.data = [0] from rfl]
  intro h
  have hbit := congrArg (fun x : BitVec 64 => x.getLsbD 0) h
  simp at hbit

/-- A whole block of a committed sherd that fails C4. -/
def rotten (y : Green) : Green :=
  { y with
    full := true, loc := none, verified := false, unmaps := false, committed := true, blk := rotBlk
    crc := crc32c (parityUnit (some rotBlk)) + 1 }

/-- A block that has arrived, of a sherd that is not whole. -/
def arrived (x : Green) : Green := { x with full := false, loc := none, verified := false, unmaps := false }

/-- A block that has arrived, of a sherd that is not committed, and reported or not. -/
def restaged (y : Green) (told : Bool) : Green := { arrived y with committed := false, reported := told }

/-- The data path with a lost sherd staged again, one of its blocks bad, and without the last record of a failure at C4. -/
def revived (x y : Green) (told : Bool) (io : Io) (d : Dp) : Dp :=
  { d with
    io := io
    map := { d.map with
      green := restaged y told :: arrived x :: rotten y :: d.map.green } }

theorem greenOk_rotten (y : Green) : greenOk (rotten y) = false := by
  unfold greenOk
  split
  · exact decide_eq_false tagGuard_rotBlk
  · refine decide_eq_false fun h => ?_
    have hnext : crc32c (parityUnit (some rotBlk)) = crc32c (parityUnit (some rotBlk)) + 1 := h
    generalize crc32c (parityUnit (some rotBlk)) = c at hnext
    bv_omega

section
variable {e : Env} {g x y : Green} {told : Bool} {d : Dp} {io : Io} (h : LostAs e g x y told d)
include h

/-- The bad block fails again, and its sherd is lost again: nothing is left but the record and the marks there were. -/
theorem failC4_rotten (hio : c4Io e io = d.io) : failC4 e (rotten y) (revived x y told io d) = d := by
  have hx : goes (restaged y told) told (arrived x) = true := by
    have hsame : sameSherd (restaged y told) (arrived x) = true := h.same
    unfold goes
    rw [hsame]
    simp [arrived]
  have hy : goes (restaged y told) told (rotten y) = true := by
    simp [goes, sameSherd, restaged, arrived, rotten]
  have hself : goes (restaged y told) told
      (restaged y told) = true := by simp [goes, sameSherd, restaged, arrived]
  have hrest : ∀ z ∈ d.map.green, goes (restaged y told) told z = false := by
    intro z hz
    cases hsame : sameSherd y z with
    | false =>
      have hsame' : sameSherd (restaged y told) z = false := hsame
      simp [goes, hsame']
    | true =>
      obtain ⟨ht, hver⟩ := h.left z hz hsame
      simp [goes, ht, hver]
  have hfail : failC4 e (rotten y) (revived x y told io d) =
      loseSherd e y.pool y.localBlk y.seqn (revived x y told d.io d) := by
    unfold failC4
    rw [if_pos (by simp [rotten]), checkFail_c4]
    simp only [revived, hio]
    rfl
  have hlost : loseSherd e y.pool y.localBlk y.seqn (revived x y told d.io d) =
      withoutSherd e (restaged y told) told (revived x y told d.io d) := by
    have hfind := loseSherd_found (e := e) (d := revived x y told d.io d) (pool := y.pool) (lb := y.localBlk) (n := y.seqn)
      (y := (restaged y told)) (by simp [revived, restaged, arrived])
    rwa [show ((restaged y told).reported || (restaged y told).committed) = told from Bool.or_false told] at hfind
  have hkept : (revived x y told d.io d).map.green.filter
      (fun z => !goes (restaged y told) told z) = d.map.green := by
    simp only [revived, List.filter_cons, hself, hx, hy, Bool.not_true, Bool.false_eq_true, if_false]
    exact List.filter_eq_self.mpr fun z hz => by simp [hrest z hz]
  have hgone : (revived x y told d.io d).map.green.filter (goes (restaged y told) told) =
      [(restaged y told), arrived x, rotten y] := by
    simp only [revived, List.filter_cons, hself, hx, hy, if_true]
    rw [List.filter_eq_nil_iff.mpr fun z hz => by simp [hrest z hz]]
  rw [hfail, hlost]
  unfold withoutSherd
  rw [hkept, hgone]
  dsimp only
  split
  · next ht =>
    obtain ⟨hmx, hmy⟩ := h.marks ht
    have hmarks : ∀ z ∈ [(restaged y told), arrived x, rotten y], Marked e z d := by
      simp only [List.mem_cons, List.not_mem_nil, or_false]
      rintro z (rfl | rfl | rfl)
      · exact hmy
      · exact hmx
      · exact hmy
    have hback : ({ revived x y told d.io d with
        map := { (revived x y told d.io d).map with green := d.map.green } } : Dp) = d := rfl
    rw [hback, foldl_markLost_marked e hmarks]
    have hnone : d.sh.missed.filter (fun m => m.1 = viewKey (restaged y told).pool e.rank &&
        !(revived x y told d.io d).sh.missed.contains m) = [] :=
      List.filter_eq_nil_iff.mpr fun m hm => by simp [revived, hm]
    rw [hnone]
    rfl
  · rfl

theorem unplaced_revived : unplaced (revived x y told io d) = rotten y :: unplaced d := by
  have hres (a b : Nat) : resident (revived x y told io d) a b = resident d a b := rfl
  have hnot (z : Green) (hz : z.full = false) :
      (z.full && !z.verified && !z.empty && z.loc.isNone && resident d z.pool z.localBlk) = false := by simp [hz]
  have hwaits : ((rotten y).full && !(rotten y).verified && !(rotten y).empty && (rotten y).loc.isNone &&
      resident d (rotten y).pool (rotten y).localBlk) = true := by
    have hhere : resident d (rotten y).pool (rotten y).localBlk = true := h.here
    rw [hhere]
    rfl
  simp only [unplaced, hres]
  simp only [revived, List.filter_cons, hwaits, hnot (restaged y told) rfl, hnot (arrived x) rfl, if_true, Bool.false_eq_true,
    if_false]

theorem checked_revived (hio : c4Io e io = d.io) : checked e (revived x y told io d) = checked e d := by
  unfold checked
  rw [unplaced_revived h, List.filter_cons_of_pos (by simp [greenOk_rotten]), List.foldl_cons, failC4_rotten h hio]

end

/-- Placing has nothing left to ask for, and nothing to verify that needs no place. -/
structure Ready (d : Dp) : Prop where
  asked : ∀ z ∈ d.map.green, (z.full && !z.verified && !resident d z.pool z.localBlk) = true →
    (z.pool, segOf (iuOf d z.pool) z.localBlk) ∈ d.map.wanted
  unmapped : tableFull d = true ∨ ∀ z ∈ d.map.green,
    (z.full && !z.verified && !z.empty && z.unmaps && resident d z.pool z.localBlk) = false

/-- Asking for segments adds to what is wanted. -/
theorem foldl_wantSeg (l : List Green) (d : Dp) : l.foldl (fun d g => wantSeg d g.pool g.localBlk) d =
    { d with map := { d.map with
        wanted := l.foldl (fun m g => addNew (g.pool, segOf (iuOf d g.pool) g.localBlk) m) d.map.wanted } } := by
  induction l generalizing d with
  | nil => rfl
  | cons g l ih =>
    rw [List.foldl_cons, ih]
    rfl

theorem wantGreens_eq (d : Dp) : wantGreens d = { d with map := { d.map with
    wanted := (d.map.green.filter (fun g => g.full && !g.verified && !resident d g.pool g.localBlk)).foldl
      (fun m g => addNew (g.pool, segOf (iuOf d g.pool) g.localBlk) m) d.map.wanted } } := foldl_wantSeg _ d

theorem readied_of_ready {d : Dp} (h : Ready d) : readied d = d := by
  have hwant : wantGreens d = d := by
    rw [wantGreens_eq, foldl_addNew_of_mem]
    intro z hz
    obtain ⟨hmem, hwants⟩ := List.mem_filter.mp hz
    exact h.asked z hmem hwants
  unfold readied
  rw [hwant]
  rcases h.unmapped with hfull | hnone
  · exact if_pos hfull
  · dsimp only
    split
    · rfl
    · have hsame : (d.map.green.map fun z =>
          if (z.full && !z.verified && !z.empty && z.unmaps && resident d z.pool z.localBlk) = true then
            { z with verified := true } else z) = d.map.green :=
        (List.map_congr_left fun z hz => if_neg (by rw [hnone z hz]; decide)).trans (List.map_id _)
      unfold Dp.onGreen updateWhere
      rw [hsame]

theorem asked_wantGreens (d : Dp) : ∀ z ∈ (wantGreens d).map.green,
    (z.full && !z.verified && !resident (wantGreens d) z.pool z.localBlk) = true →
    (z.pool, segOf (iuOf (wantGreens d) z.pool) z.localBlk) ∈ (wantGreens d).map.wanted := by
  rw [wantGreens_eq]
  intro z hz hwants
  exact mem_foldl_addNew_self (f := fun g : Green => (g.pool, segOf (iuOf d g.pool) g.localBlk))
    (List.mem_filter.mpr ⟨hz, hwants⟩) _

theorem ready_readied (d : Dp) : Ready (readied d) := by
  have hasked := asked_wantGreens d
  unfold readied
  dsimp only
  generalize wantGreens d = u at hasked ⊢
  split
  · next hfull => exact ⟨hasked, .inl hfull⟩
  · refine ⟨fun z hz hwants => ?_, .inr fun z hz => ?_⟩
    all_goals
      obtain ⟨w, hw, rfl⟩ := List.mem_map.mp hz
      dsimp only at *
    · split at hwants
      · simp at hwants
      · next hnot =>
        rw [if_neg hnot]
        exact hasked w hw hwants
    · split
      · simp
      · next hnot => exact eq_false_of_ne_true hnot

/-- The records that pend do not count a block that has no place and maps nothing away. -/
theorem ready_revived {d : Dp} {x y : Green} {told : Bool} {io : Io} (hd : Ready d)
    (hy : resident d y.pool y.localBlk = true) : Ready (revived x y told io d) := by
  have hres (a b : Nat) : resident (revived x y told io d) a b = resident d a b := rfl
  have hmem (z : Green) (hz : z ∈ (revived x y told io d).map.green) :
      z.full = false ∨ (z = rotten y) ∨ z ∈ d.map.green := by
    simp only [revived, List.mem_cons] at hz
    rcases hz with rfl | rfl | rfl | hz
    · exact .inl rfl
    · exact .inl rfl
    · exact .inr (.inl rfl)
    · exact .inr (.inr hz)
  refine ⟨fun z hz hwants => ?_, ?_⟩
  · rcases hmem z hz with hnot | rfl | hz
    · simp [hnot] at hwants
    · rw [hres, show resident d (rotten y).pool (rotten y).localBlk = true from hy] at hwants
      simp at hwants
    · exact hd.asked z hz hwants
  · rcases hd.unmapped with hfull | hnone
    · refine .inl ?_
      have hpend : pendingIus (revived x y told io d) = pendingIus d := by
        have hnot (z : Green) (hl : z.loc = none) (hu : z.unmaps = false) :
            (!z.committed && (z.loc.isSome || (z.unmaps && z.verified))) = false := by simp [hl, hu]
        unfold pendingIus
        rw [show (revived x y told io d).map.green = restaged y told :: arrived x :: rotten y :: d.map.green from rfl]
        simp only [List.filter_cons, hnot (restaged y told) rfl rfl, hnot (arrived x) rfl rfl, hnot (rotten y) rfl rfl,
          Bool.false_eq_true, if_false]
        rfl
      unfold tableFull at hfull ⊢
      simp only [Bool.and_eq_true, decide_eq_true_eq] at hfull ⊢
      rw [hpend]
      refine ⟨hfull.1.trans ?_, hfull.2⟩
      show d.map.green.length ≤ d.map.green.length + 1 + 1 + 1
      omega
    · refine .inr fun z hz => ?_
      rcases hmem z hz with hnot | rfl | hz
      · simp [hnot]
      · simp [rotten]
      · exact hnone z hz

/-- The valid data lie within 1 GiB of what Bisque is sized for. -/
def BisqueFits (d : Dp) : Prop := ¬ gib ≤ max (validBytes d) d.med.bisqueV - min (validBytes d) d.med.bisqueV

theorem trackBisque_of_fits {e : Env} {d : Dp} (h : BisqueFits d) : trackBisque e d = d := if_neg h

theorem fits_trackBisque (e : Env) (d : Dp) : BisqueFits (trackBisque e d) := by
  unfold trackBisque
  dsimp only
  split
  · show ¬ gib ≤ max (validBytes d) (validBytes d) - min (validBytes d) (validBytes d)
    simp [gib]
  · next h => exact h

theorem quiet_trackBisque (e : Env) (d : Dp) : Quiet e d (trackBisque e d) := by
  unfold trackBisque sizeBisque
  exact .ite (.media d _) (.refl d)

theorem fits_readied {d : Dp} (h : BisqueFits d) : BisqueFits (readied d) := by
  unfold readied
  dsimp only
  rw [wantGreens_eq]
  split
  · exact h
  · exact h

/-- The work comes to the same from a state that still holds the lost sherd. -/
theorem placeWaiting_revived {e : Env} {g x y : Green} {told : Bool} {d : Dp} (h : LostAs e g x y told d) :
    ∃ u : Dp, placeWaiting e (trackBisque e u) = placeWaiting e (trackBisque e d) ∧ Alive g u := by
  have hquiet : Quiet e d (readied (trackBisque e d)) := (quiet_trackBisque e d).trans (quiet_readied _)
  have hfits : BisqueFits (readied (trackBisque e d)) := fits_readied (fits_trackBisque e d)
  have hready := ready_readied (trackBisque e d)
  have hlost := h.quiet hquiet
  have hmid : placeWaiting e (trackBisque e d) = placed e (checked e (readied (trackBisque e d))) := placeWaiting_eq ..
  rw [hmid]
  generalize readied (trackBisque e d) = m at hfits hready hlost
  obtain ⟨io, hio⟩ := hlost.last
  refine ⟨revived x y told io m, ?_, arrived x, ?_, ?_⟩
  · have hfits' : BisqueFits (revived x y told io m) := hfits
    rw [trackBisque_of_fits hfits', placeWaiting_eq, readied_of_ready (ready_revived hready hlost.here), checked_revived hlost hio]
  · simp [revived]
  · obtain ⟨a, b, c, p, q, r⟩ := hlost.twin
    exact ⟨a, b, c, p, q, r⟩

/-- A block that is staged, or was lost with its sherd, is staged where the work begins, or in a state of which it comes to the same. -/
theorem staged_workDp {e : Env} {g : Green} {d : Dp} (h : Staged e g d) : ∃ u : Dp, workDp e u = workDp e d ∧ Alive g u := by
  rcases h with halive | ⟨x, y, told, h⟩
  · exact ⟨d, rfl, halive⟩
  · obtain ⟨u, hu, halive⟩ := placeWaiting_revived h
    refine ⟨u, ?_, halive⟩
    unfold workDp
    rw [hu]

end Sys2Proof.Proofs


/-! # A sherd that is accepted is staged (R165, R201, R249) -/

namespace Sys2Proof.Proofs

open Sys2Proof.Machine Sys2Proof.Laws

/-! ## Raising an entry leaves the layouts and the write floor -/

/-- Two data paths whose pools lie alike, and which take or refuse sherds alike. -/
structure LiesAlike (d d' : Dp) : Prop where
  bw : d'.bw = d.bw
  med : d'.med = d.med
  lays : ∀ h p, d.sh.reg.pool h = some p → ∃ p', d'.sh.reg.pool h = some p' ∧ ∀ n, d'.ticketLay p' n = d.ticketLay p n

namespace LiesAlike
variable {d d' d'' : Dp}

theorem of_same (hb : d'.bw = d.bw) (hm : d'.med = d.med) (hr : d'.sh.reg = d.sh.reg) (hw : d'.sh.windows = d.sh.windows) :
    LiesAlike d d' :=
  ⟨hb, hm, fun h p hp => ⟨p, by rw [hr, hp], fun n => by unfold Dp.ticketLay; rw [hw]⟩⟩

theorem refl (d : Dp) : LiesAlike d d := of_same rfl rfl rfl rfl

theorem trans (h : LiesAlike d d') (h' : LiesAlike d' d'') : LiesAlike d d'' := by
  refine ⟨h'.bw.trans h.bw, h'.med.trans h.med, fun k p hp => ?_⟩
  obtain ⟨p', hp', hlay⟩ := h.lays k p hp
  obtain ⟨p'', hp'', hlay'⟩ := h'.lays k p' hp'
  exact ⟨p'', hp'', fun n => (hlay' n).trans (hlay n)⟩

theorem ite {c : Prop} [Decidable c] {x y : Dp} (hx : LiesAlike d x) (hy : LiesAlike d y) : LiesAlike d (if c then x else y) := by
  split
  · exact hx
  · exact hy

theorem logE (e : Env) (code sev src : Nat) (a : List Nat) (d : Dp) : LiesAlike d (logE e code sev src a d) :=
  of_same (logAt_bw ..) (logAt_med ..) (by rw [Machine.logE, logAt_sh]) (by rw [Machine.logE, logAt_sh])

theorem cause (e : Env) (bit : Nat) (d : Dp) : LiesAlike d (cause e bit d) := by
  have hmsix (p : PortId) (v : Nat) (d : Dp) : (msix e p v d).bw = d.bw := by
    simp [msix, apply_ite Dp.bw]
  have hport (p : PortId) (d : Dp) : (causePort e bit p d).bw = d.bw := by
    simp [causePort, apply_ite Dp.bw, hmsix]
  obtain ⟨-, hsh, -, hmed⟩ := cause_frame e bit d
  exact of_same ((hport ..).trans (hport ..)) hmed (by rw [hsh]) (by rw [hsh])

/-- The last steward that is noted of a pool is no matter of its layout. -/
theorem noteLast (d : Dp) (pool : Nat) (n : Nat) : LiesAlike d (d.noteLast pool (fun p => { p with lastSteward := n })) := by
  refine ⟨rfl, rfl, fun k p hp => ?_⟩
  have hfind := find_updateWhere (fun q : PoolRec => q.handle = k) (fun q => q.handle = pool)
    (fun q => { q with lastSteward := n }) d.sh.reg.pools (fun _ => rfl)
  have hpools : d.sh.reg.pools.find? (fun q => q.handle = k) = some p := hp
  rw [hpools, Option.map_some] at hfind
  refine ⟨_, hfind, fun n => ?_⟩
  split <;> rfl

theorem setRole (d : Dp) (x : PRole) : LiesAlike d (d.setRole x) := of_same rfl rfl rfl rfl

theorem fenceRole (e : Env) (pool : Nat) (c : BitVec 32) (d : Dp) : LiesAlike d (fenceRole e pool c d) := by
  unfold Machine.fenceRole
  split
  · exact .refl d
  · refine ite (.refl d) (ite ?_ (ite ((setRole d _).trans (cause ..)) (.refl d)))
    refine LiesAlike.trans ?_ ((logE ..).trans (cause ..))
    exact of_same rfl rfl rfl rfl

theorem raise (e : Env) (pool : Nat) (c : BitVec 32) (src : Nat) (d : Dp) : LiesAlike d (raise e pool c src d) := by
  unfold Machine.raise
  refine ite ?_ (.refl d)
  generalize hraised : ({ d with sh := { d.sh with
      sea := d.sh.sea.put pool { raisedAt := e.now, claim := c, source := src, refusals := 0 }
      shadow := d.sh.shadow.put pool c.toNat
      relinquished := without pool d.sh.relinquished } } : Dp) = u
  have hu : LiesAlike d u := by
    subst hraised
    exact of_same rfl rfl rfl rfl
  have hfenced := ((hu.trans (ite (c := epochOf (d.claimOf pool) < 0xFFF000 ∧ 0xFFF000 ≤ epochOf c)
    (logE e 0x0703 3 srcFirmware [pool, c.toNat] u) (.refl u))).trans (noteLast _ pool (rankOf c))).trans (fenceRole e pool c _)
  exact ite (hfenced.trans (cause ..)) hfenced

theorem noSherds (h : LiesAlike d d') : Machine.noSherds d' = Machine.noSherds d := by
  unfold Machine.noSherds
  rw [h.med, h.bw]

end LiesAlike

/-! ## The sherd is staged -/

/-- A sherd for one block of this member that passes C3 is staged (R165). -/
theorem takeSherd_one {e : Env} {f : Frame} {b : Blk} {d : Dp} {p : PoolRec} {lb : Nat} (hp : d.sh.reg.pool f.pool = some p)
    (hfloor : noSherds d = false) (hmine : (d.ticketLay p f.seqn).holders ⟨f.row, f.unit, f.posFirst⟩ = [(e.rank, lb)])
    (hok : c3Ok (d.ticketLay p f.seqn) f b = true) :
    takeSherd e f b d = stageGreen e f b lb (d.askPad .wstage 2 4112) := by
  have hfloor' : noSherds (d.askPad .wstage 2 4112) = false := hfloor
  unfold takeSherd
  simp [hp, hmine, hfloor', hok]

/-- What follows a command depends on the data path by what becomes of it there alone. -/
theorem work_congr {s : State} {u v : Dp} (h : workDp s.env u = workDp s.env v) :
    State.work { s with dp := u } = State.work { s with dp := v } := by
  have hdp : State.onDp { s with dp := u } workDp = State.onDp { s with dp := v } workDp := by
    show ({ s with dp := workDp s.env u } : State) = { s with dp := workDp s.env v }
    rw [h]
  unfold State.work
  rw [hdp]

/-- An accepted sherd for one block of this member is staged, not committed. -/
theorem sherdData_staged {s : State} {f : Frame} {b : Blk} {p : PoolRec} {lb : Nat} (h : InOrder s .sherdData (bulkClass f) f)
    (ha : Accepts s f) (hlim : overLimit s.dp s.env.rank f = false) (hp : s.dp.sh.reg.pool f.pool = some p)
    (hfloor : noSherds s.dp = false)
    (hmine : (s.dp.ticketLay p f.seqn).holders ⟨f.row, f.unit, f.posFirst⟩ = [(s.env.rank, lb)])
    (hok : c3Ok (s.dp.ticketLay p f.seqn) f b = true) :
    ∃ (u : State) (g : Green), exec (.sherdData f b) s = .next u.work ∧ g ∈ u.dp.map.green ∧ g.pool = f.pool ∧
      g.localBlk = lb ∧ g.seqn = f.seqn ∧ g.unit = f.unit ∧ g.src = f.src.val ∧ g.committed = false := by
  obtain ⟨d, hreach, hd⟩ := reaches_of_ordered h rfl (.blk b)
  have hexec := sherdData_accepted hlim hreach ((hd.admitted _).trans ha.admits) ha.valid ((hd.claimOf _).symm ▸ ha.high) ha.plain
  have halike : LiesAlike s.dp (raise s.env f.pool f.claim 2 d) :=
    LiesAlike.trans (.of_same hd.bw hd.med (by rw [hd.sh]) (by rw [hd.sh])) (.raise ..)
  generalize hr : raise s.env f.pool f.claim 2 d = r at halike
  obtain ⟨p', hp', hlay⟩ := halike.lays _ p hp
  have htake := takeSherd_one (e := s.env) (b := b) hp' (halike.noSherds.trans hfloor) ((hlay _).symm ▸ hmine) ((hlay _).symm ▸ hok)
  obtain ⟨g, hpool, hlb, hseqn, hunit, hsrc, hcom, hstaged⟩ := staged_stageGreen s.env f b lb (r.askPad .wstage 2 4112)
  obtain ⟨v, hwork, x, hx, ht⟩ := staged_workDp hstaged
  refine ⟨{ s.stayAwake with dp := v }, x, ?_, hx, ht.pool.trans hpool, ht.localBlk.trans hlb, ht.seqn.trans hseqn,
    ht.unit.trans hunit, ht.src.trans hsrc, ht.committed.trans hcom⟩
  have hsame : (s.stayAwake.onDp (fun e _ => takeSherd e f b (raise e f.pool f.claim 2 d))) =
      { s.stayAwake with dp := stageGreen s.env f b lb (r.askPad .wstage 2 4112) } := by
    rw [onDp_congr (g := fun _ _ => stageGreen s.env f b lb (r.askPad .wstage 2 4112))]
    · rfl
    · rw [env_stayAwake, hr, htake]
  rw [hexec, hsame]
  exact congrArg _ (work_congr (by rw [env_stayAwake]; exact hwork.symm))

end Sys2Proof.Proofs


/-! # Frames that arrive in order act by their payload -/

namespace Sys2Proof.Proofs

open Sys2Proof.Machine Sys2Proof.Laws

/-! ## What each frame does when it arrives in order -/

section
variable {s : State} {f : Frame}

/-- What a CONTROL frame that arrives in order does. -/
theorem control_delivered {b : FrameBody} (h : InOrder s .control 3 f) : ∃ (u : State) (d : Dp),
    (.next (onFrame .control 3 f b s) : Host.Outcome State Fault Refusal) = .next u.work ∧ SameButRing s.dp d ∧
      u.dp = onControl s.env f b d := delivered_of_ordered h rfl (by decide) b

theorem joinRequest_held {serial boot : Word} {n : Nat} (h : InOrder s .joinRequest 3 f) :
    ∃ u : State, exec (.joinRequest f serial boot n) s = .next u.work ∧
      (f.pool, if f.pool = noPool then f.src.val else f.arg % 16, serial, boot, n) ∈ u.dp.sh.joins := by
  obtain ⟨d, hd, -⟩ := reaches_of_ordered h rfl (.join serial boot n)
  exact ⟨_, joinRequest_next hd, (holdJoin_only _ _).1⟩

theorem joinAdmit_admits (st : List (Nat × MemberState)) (m : List (Nat × Nat)) (q : List Nat) (g : Option Registry)
    (h : InOrder s .joinAdmit 3 f) (hv : claimValid f.claim = true) (hr : rankOf f.claim = f.src.val)
    (hc : s.dp.claimOf f.pool ≤ f.claim) : ∃ u : State, exec (.joinAdmit f st m q g) s = .next u.work ∧
      f.pool ∈ u.dp.sh.admitted ∧ u.dp.sh.steward.get 0 f.pool = f.claim.toNat ∧
      u.dp.sh.mentioned.get 0 f.pool = s.clk.time := by
  obtain ⟨u, d, hu, hd, hdp⟩ := delivered_of_ordered h rfl (by decide) (.admission st m q g)
  refine ⟨u, hu, ?_⟩
  rw [hdp, deliver_joinAdmit]
  exact onJoinAdmit_admits s.env st m q g hv hr ((hd.claimOf _).symm ▸ hc)

/-- The messages of an admission round and an anchor request are each taken by their payload (R417, R418, R249). -/
theorem admission_taken (n : Nat) (h : InOrder s .control 3 f) :
    (∀ p : PoolRec, s.dp.sh.reg.pool f.pool = some p → isSteward s.dp f.pool = true →
      (∃ u : State, exec (.admissionDemand f n) s = .next u.work ∧ u.dp.bw.demands.get 0 (bwKey f.pool f.src.val) = n) ∧
      (∃ u : State, exec (.admissionGrant f n) s = .next u.work ∧ u.dp.bw.grants.get 0 (bwKey f.pool f.src.val) = n)) ∧
    (∃ u : State, exec (.admissionRequest f n) s = .next u.work ∧ u.dp.bw.requests.get 0 (bwKey f.pool f.src.val) = n) ∧
    (∃ u : State, exec (.admissionRate f n) s = .next u.work ∧ (u.dp.bucket f.pool).rate = n) ∧
    (∃ u : State, exec (.anchorRequest f) s = .next u.work ∧ u.dp.sh.anchorAsked = true) := by
  refine ⟨fun p hp hs => ⟨?_, ?_⟩, ?_, ?_, ?_⟩
  · obtain ⟨u, d, hu, hd, hdp⟩ := control_delivered (b := .demand n) h
    exact ⟨u, hu, hdp ▸ takeDemand_demands s.env n f.src.val (hd.sh ▸ hp) ((hd.isSteward _).trans hs)⟩
  · obtain ⟨u, d, hu, hd, hdp⟩ := control_delivered (b := .grant n) h
    exact ⟨u, hu, hdp ▸ takeGrant_grants s.env n f.src.val (hd.sh ▸ hp) ((hd.isSteward _).trans hs)⟩
  · obtain ⟨u, d, hu, -, hdp⟩ := control_delivered (b := .request n) h
    exact ⟨u, hu, hdp ▸ takeRequest_requests s.env n f.src.val d⟩
  · obtain ⟨u, d, hu, -, hdp⟩ := control_delivered (b := .rate n) h
    exact ⟨u, hu, hdp ▸ takeRate_rate s.env n d⟩
  · obtain ⟨u, d, hu, -, hdp⟩ := control_delivered (b := .anchor) h
    exact ⟨u, hu, by rw [hdp]; rfl⟩

section
variable (h : InOrder s .control 3 f) (hs : isSteward s.dp 0 = true)
include h hs

theorem drained_noted (p : Nat) : ∃ u : State, exec (.forwardedOrder f (.drained p)) s = .next u.work ∧
    (p, f.src.val) ∈ u.dp.sh.drained := by
  obtain ⟨u, d, hu, hd, hdp⟩ := control_delivered (b := .order (.drained p)) h
  refine ⟨u, hu, ?_⟩
  have hs' : isSteward d 0 = true := (hd.isSteward 0).trans hs
  rw [hdp]
  simp only [onControl, onMsg, hs', if_true]
  exact mem_addNew ..

theorem memberAdd_forwarded {o : Order} (ho : Sequenced s o) (hop : o.opcode = 0x0703) (hrank : fieldAt o.payload 0 1 ≤ 15) :
    ∃ u : State, exec (.forwardedOrder f (.order o)) s = .next u.work ∧
      u.dp.sh.regNext.members = (putMember s.dp.sh.regNext (memberOf (fieldAt o.payload 0 1)
        (BitVec.ofNat 64 (fieldAt o.payload 8 8)))).members := by
  obtain ⟨u, d, hu, hd, hdp⟩ := control_delivered (b := .order (.order o)) h
  obtain ⟨-, hfresh, hunpolled, hungiven, hunapplied, hleased⟩ := ho
  refine ⟨u, hu, ?_⟩
  rw [hdp, show onControl s.env f (.order (.order o)) d = takeOrder s.env o d from if_pos ((hd.isSteward 0).trans hs)]
  rw [← hd.sh] at hfresh hunpolled hungiven hunapplied hleased ⊢
  exact takeOrder_add hfresh hunpolled hungiven hunapplied hleased hop hrank

theorem sdDone_reported {i : Nat} {r : SdReport} {j : SdJob} (hj : s.dp.sh.regNext.jobs.find? (fun j => j.id = i) = some j)
    (hopen : sdEnded j = false) (hwaits : j.pendingMask.testBit f.src.val = true) (hfinal : r.final = true) :
    ∃ u : State, exec (.secureDiscardMemberDone f i r) s = .next u.work ∧
      ∀ j', u.dp.sh.regNext.jobs.find? (fun j => j.id = i) = some j' → j'.pendingMask.testBit f.src.val = false := by
  obtain ⟨u, d, hu, hd, hdp⟩ := control_delivered (b := .sdDone i r) h
  refine ⟨u, hu, fun j' hj' => ?_⟩
  have hclear : Reported i f.src.val u.dp :=
    hdp ▸ sdTake_reported (e := s.env) ((hd.isSteward 0).trans hs) (hd.sh ▸ hj) hopen hwaits hfinal
  exact hclear j' (List.mem_of_find?_eq_some hj') (by simpa using List.find?_some hj')

end

theorem rebaseAck_counted {c : BitVec 32} {a : Nat} {o : Option Order} (h : InOrder s .control 3 f)
    (hr : s.dp.sh.rebase = some (c, a, o))
    (hall : (memberRanks s.dp.sh.reg).all (fun r => (a ||| 2 ^ f.src.val).testBit r) = false) :
    ∃ u : State, exec (.rebaseControl f (.ack c)) s = .next u.work ∧ u.dp.sh.rebase = some (c, a ||| 2 ^ f.src.val, o) := by
  obtain ⟨u, d, hu, hd, hdp⟩ := control_delivered (b := .rebase (.ack c)) h
  exact ⟨u, hu, hdp ▸ rebaseAck_counts s.env (hd.sh ▸ hr) (hd.sh ▸ hall)⟩

end

/-- Settles O24: each frame's delivery has its effect, and a frame that arrives in order is delivered; a sherd that is staged and lost
again in the work that follows is staged in a state of which the work comes to the same. -/
theorem dataJoinAndControlFrames : Obligations.DataJoinAndControlFrames := by
  unfold Obligations.DataJoinAndControlFrames
  refine ⟨fun s f b => sherdData_over, fun s f b d hlim h ha hv hc hp => sherdData_accepted hlim h ha hv hc hp,
    fun s f d h => next_delivered (by decide) h (deliver_sherdRefused ..),
    fun s f l d h => next_delivered (by decide) h (deliver_readRequest ..),
    fun s f b d x h hx => ⟨fun hok hu ht => readData_next h (onReadData_good hx hok hu ht),
      fun hbad ha hw => readData_next h (onReadData_bad hx hbad ha hw)⟩,
    fun s f d h => ⟨fun x hx => readFail_next h (onReadFail_replied hx), fun hx => readFail_next h (g := fun _ _ => d) (onReadFail_unasked hx)⟩,
    fun s f serial boot n d h => ⟨_, joinRequest_next h, holdJoin_only ..⟩,
    fun s f st m q g d h => next_delivered (by decide) h (deliver_joinAdmit ..), ?_, ?_,
    fun s f o d h => next_delivered (by decide) h rfl, fun e f o d hs => if_pos hs,
    fun s f d h => ⟨_, next_delivered (g := fun e _ => onControl e f .anchor d) (by decide) h rfl, rfl⟩, fun s f j r d h => next_delivered (by decide) h rfl,
    fun s f c d => ⟨fun h => next_delivered (by decide) h rfl, fun h => next_delivered (by decide) h rfl⟩, ?_,
    fun s f t p h ht hid hp hst => sherdRefused_counts h ht hid hp hst,
    fun s f lb p h hp => readRequest_queued h hp,
    fun s f x k i c hx hw hc => ⟨fun b h hu ht hok => readData_settles hx hw hc h hu ht hok,
      fun p h hp hpq => readFail_rebuilds hx hw h hp hpq⟩,
    fun s f st m q g h hv hr hc => joinAdmit_admits st m q g h hv hr hc,
    fun s f serial boot n h => joinRequest_held h, fun s f n h => admission_taken n h,
    fun s f h hs => ⟨drained_noted h hs, fun o ho hop hrank => memberAdd_forwarded h hs ho hop hrank,
      fun i r j hj hopen hw hf => sdDone_reported h hs hj hopen hw hf⟩,
    fun s f c a o h hr hall => rebaseAck_counted h hr hall⟩
  · intro e f m q d hv hr hc _
    obtain ⟨hin, -⟩ := onJoinAdmit_admits e [] m q none hv hr hc
    simp [admitted, hin]
  · exact fun s f n d => ⟨fun h => next_delivered (by decide) h rfl, fun h => next_delivered (by decide) h rfl,
      fun h => next_delivered (by decide) h rfl,
      fun h => ⟨_, next_delivered (g := fun e _ => takeRate e f.pool n d) (by decide) h rfl,
        takeRate_rate s.stayAwake.env n d⟩⟩
  · exact fun s f b p lb h ha hlim hp hfloor hmine hok => sherdData_staged h ha hlim hp hfloor hmine hok

end Sys2Proof.Proofs

/-! # Parity arithmetic: the field, P and Q, and the rebuild of lost units (R194 to R197, Table 6-1) -/

namespace Sys2Proof.Proofs

open Sys2Proof.Machine Sys2Proof.Laws

/-! ## The field (R194) -/

theorem gfDouble_xor (a b : Byte) : gfDouble (a ^^^ b) = gfDouble a ^^^ gfDouble b := by
  have h : ∀ a b : Byte, (a ^^^ b) <<< 1 = (a <<< 1) ^^^ (b <<< 1) := fun a b => BitVec.shiftLeft_xor_distrib a b 1
  unfold gfDouble
  rw [BitVec.getLsbD_xor, h]
  cases a.getLsbD 7 <;> cases b.getLsbD 7 <;> simp <;> grind

theorem gfDouble_zero : gfDouble 0 = 0 := by decide

theorem gfMulN_xor (n : Nat) (a b c : Byte) : gfMulN n (a ^^^ b) c = gfMulN n a c ^^^ gfMulN n b c := by
  induction n generalizing a b c with
  | zero => simp [gfMulN]
  | succ n ih =>
    rw [gfMulN, gfMulN, gfMulN, gfDouble_xor, ih]
    split
    · grind
    · simp

theorem gfMulN_double (n : Nat) (a b : Byte) : gfMulN n (gfDouble a) b = gfDouble (gfMulN n a b) := by
  induction n generalizing a b with
  | zero => exact gfDouble_zero.symm
  | succ n ih =>
    rw [gfMulN, gfMulN, gfDouble_xor, ih]
    split
    · rfl
    · rw [gfDouble_zero]

@[simp] theorem gfMul_xor_left (a b c : Byte) : gfMul (a ^^^ b) c = gfMul a c ^^^ gfMul b c := gfMulN_xor 8 a b c

@[simp] theorem gfMul_zero_left (b : Byte) : gfMul 0#8 b = 0#8 := by simpa using gfMul_xor_left 0 0 b

/-- Multiplying by `c` passes through the doublings that make up a product. -/
theorem gfMul_gfMulN (n : Nat) (a b c : Byte) : gfMul (gfMulN n a b) c = gfMulN n (gfMul a c) b := by
  induction n generalizing a b with
  | zero => exact gfMul_zero_left c
  | succ n ih =>
    have hd : gfMul (gfDouble a) c = gfDouble (gfMul a c) := gfMulN_double 8 a c
    rw [gfMulN, gfMulN, gfMul_xor_left, ih, hd]
    split
    · rfl
    · simp

theorem gfMul_right_comm (a b c : Byte) : gfMul (gfMul a b) c = gfMul (gfMul a c) b := gfMul_gfMulN 8 a b c

@[simp] theorem gfMul_one_left : ∀ b : Byte, gfMul 1#8 b = b := by decide +kernel

theorem gfMul_comm (a b : Byte) : gfMul a b = gfMul b a := by
  simpa using gfMul_right_comm 1 a b

theorem gfMul_assoc (a b c : Byte) : gfMul (gfMul a b) c = gfMul a (gfMul b c) := by
  rw [gfMul_comm a b, gfMul_right_comm, gfMul_comm]

@[simp] theorem gfMul_xor_right (a b c : Byte) : gfMul a (b ^^^ c) = gfMul a b ^^^ gfMul a c := by
  simp [gfMul_comm a]

@[simp] theorem gfMul_zero_right (a : Byte) : gfMul a 0#8 = 0#8 := by rw [gfMul_comm, gfMul_zero_left]

theorem gfPow_add (a : Byte) (m n : Nat) : gfPow a (m + n) = gfMul (gfPow a m) (gfPow a n) := by
  induction m with
  | zero => simp [gfPow]
  | succ m ih => rw [Nat.add_right_comm, gfPow, ih, gfPow, gfMul_assoc]

/-- The square in the field. -/
def gfSq (a : Byte) : Byte := gfMul a a

/-- a^15, as (a · a²) · (a · a²)⁴. -/
def gfPow15 (a : Byte) : Byte := gfMul (gfMul a (gfSq a)) (gfSq (gfSq (gfMul a (gfSq a))))

theorem gfPow_double (a : Byte) (n : Nat) : gfPow a (n + n) = gfSq (gfPow a n) := gfPow_add a n n

theorem gfPow_fifteen (a : Byte) : gfPow a 15 = gfPow15 a := by
  have h1 : gfPow a 1 = a := (gfMul_comm a 1).trans (gfMul_one_left a)
  have h3 : gfPow a 3 = gfMul a (gfSq a) := by rw [gfPow, gfPow_double a 1, h1]
  rw [gfPow_add a 3 12, gfPow_double a 6, gfPow_double a 3, h3, gfPow15]

/-- a^255 = 1 of every non-zero a (R194), with a^255 computed as a^15 · (a^15)^16. -/
theorem gfPow_order : ∀ a : Byte, a ≠ 0 → gfMul (gfPow15 a) (gfSq (gfSq (gfSq (gfSq (gfPow15 a))))) = 1 := by
  decide +kernel

theorem gfInv_mul {a : Byte} (ha : a ≠ 0) : gfMul (gfInv a) a = 1 := by
  rw [gfMul_comm, ← gfPow_order a ha, ← gfPow_fifteen, ← gfPow_double, ← gfPow_double, ← gfPow_double, ← gfPow_double,
    ← gfPow_add]
  rfl

theorem gfGen_injective : ∀ i < 14, ∀ j < 14, gfGen i = gfGen j → i = j := by decide +kernel
theorem gfGen_ne_zero : ∀ i < 14, gfGen i ≠ 0 := by decide +kernel

/-! ## Units byte by byte -/

theorem xorBytes_nil_right (a : List Byte) : xorBytes a [] = a := by cases a <;> rfl

theorem xorBytes_comm (a b : List Byte) : xorBytes a b = xorBytes b a := by
  induction a generalizing b with
  | nil => rw [xorBytes_nil_right, xorBytes]
  | cons x a ih =>
    cases b with
    | nil => rfl
    | cons y b => rw [xorBytes, xorBytes, ih, BitVec.xor_comm]

theorem xorBytes_assoc (a b c : List Byte) : xorBytes (xorBytes a b) c = xorBytes a (xorBytes b c) := by
  induction a generalizing b c with
  | nil => rfl
  | cons x a ih =>
    cases b with
    | nil => rfl
    | cons y b =>
      cases c with
      | nil => rfl
      | cons z c => simp only [xorBytes, ih, BitVec.xor_assoc]

theorem xorBytes_left_comm (a b c : List Byte) : xorBytes a (xorBytes b c) = xorBytes b (xorBytes a c) := by
  rw [← xorBytes_assoc, xorBytes_comm a, xorBytes_assoc]

@[simp] theorem length_xorBytes (a b : List Byte) : (xorBytes a b).length = max a.length b.length := by
  induction a generalizing b with
  | nil => simp [xorBytes]
  | cons x a ih =>
    cases b with
    | nil => simp [xorBytes]
    | cons y b => simp [xorBytes, ih]

/-- What is added twice to a list at least as long is gone again. -/
theorem xorBytes_cancel {a b : List Byte} (h : a.length ≤ b.length) : xorBytes a (xorBytes a b) = b := by
  induction a generalizing b with
  | nil => rfl
  | cons x a ih =>
    cases b with
    | nil => simp at h
    | cons y b =>
      have ht : a.length ≤ b.length := by simpa using h
      simp [xorBytes, ih ht]

theorem xorBytes_zeroUnit {a : List Byte} (h : a.length = unitBytes) : xorBytes a zeroUnit = a := by
  have hz : ∀ l : List Byte, xorBytes l (List.replicate l.length 0) = l := fun l => by
    induction l with
    | nil => rfl
    | cons x l ih => simpa [xorBytes, List.replicate_succ] using ih
  rw [zeroUnit, ← h, hz]

/-- Lists that differ have a difference that is not all zeros. -/
theorem xorBytes_ne_zero {a b : List Byte} (hl : a.length = b.length) (h : a ≠ b) : ¬ ∀ x ∈ xorBytes a b, x = 0 := by
  induction a generalizing b with
  | nil => exact absurd (List.length_eq_zero_iff.1 hl.symm).symm h
  | cons x a ih =>
    cases b with
    | nil => simp at hl
    | cons y b =>
      intro hz
      obtain ⟨hxy, hab⟩ := List.forall_mem_cons.1 hz
      exact ih (by simpa using hl) (fun he => h (by rw [BitVec.xor_eq_zero_iff.1 hxy, he])) hab

@[simp] theorem length_gfScale (c : Byte) (u : List Byte) : (gfScale c u).length = u.length := List.length_map ..

@[simp] theorem length_zeroUnit : zeroUnit.length = unitBytes := List.length_replicate

theorem gfScale_xorBytes (c : Byte) (a b : List Byte) :
    gfScale c (xorBytes a b) = xorBytes (gfScale c a) (gfScale c b) := by
  induction a generalizing b with
  | nil => rfl
  | cons x a ih =>
    cases b with
    | nil => rfl
    | cons y b => simpa [gfScale, xorBytes] using ih b

theorem xorBytes_gfScale (c d : Byte) (u : List Byte) :
    xorBytes (gfScale c u) (gfScale d u) = gfScale (c ^^^ d) u := by
  induction u with
  | nil => rfl
  | cons x u ih => simpa [gfScale, xorBytes] using ih

/-- Scaling by the inverse undoes scaling. -/
theorem gfScale_gfInv {c : Byte} (hc : c ≠ 0) (u : List Byte) : gfScale (gfInv c) (gfScale c u) = u := by
  have h : ∀ x, gfMul (gfInv c) (gfMul c x) = x := fun x => by rw [← gfMul_assoc, gfInv_mul hc]; exact gfMul_one_left x
  simp only [gfScale, List.map_map, Function.comp_def, h, List.map_id']

theorem gfMul_eq_zero_iff {c x : Byte} (hc : c ≠ 0) : gfMul c x = 0 ↔ x = 0 := by
  refine ⟨fun h => ?_, fun h => by simp [h]⟩
  calc x = gfMul (gfMul (gfInv c) c) x := by rw [gfInv_mul hc]; exact (gfMul_one_left x).symm
    _ = 0 := by rw [gfMul_assoc, h]; exact gfMul_zero_right _

/-- A unit that is not all zeros is scaled alike by one element only. -/
theorem gfScale_injective {c d : Byte} {u : List Byte} (hu : ¬ ∀ x ∈ u, x = 0) (h : gfScale c u = gfScale d u) : c = d := by
  by_contra hcd
  refine hu fun x hx => ?_
  have hx : gfMul c x = gfMul d x := List.map_inj_left.1 h x hx
  have hz : gfMul (c ^^^ d) x = 0 := by rw [gfMul_xor_left, hx, BitVec.xor_self]; rfl
  exact (gfMul_eq_zero_iff (fun h0 => hcd (BitVec.xor_eq_zero_iff.1 h0))).1 hz

theorem gfScale_zero_iff {c : Byte} (hc : c ≠ 0) (u : List Byte) : (∀ x ∈ gfScale c u, x = 0) ↔ ∀ x ∈ u, x = 0 := by
  simp only [gfScale, List.forall_mem_map, gfMul_eq_zero_iff hc]

/-! ## P and Q of a position in which one unit is put in another's place (R194) -/

theorem parityP_cons (u : List Byte) (ds : List (List Byte)) : parityP (u :: ds) = xorBytes u (parityP ds) := by
  have h : ∀ (ds : List (List Byte)) (a u : List Byte),
      ds.foldl xorBytes (xorBytes a u) = xorBytes u (ds.foldl xorBytes a) := fun ds => by
    induction ds with
    | nil => exact xorBytes_comm
    | cons d ds ih => intro a u; rw [List.foldl_cons, xorBytes_assoc, xorBytes_comm u, ← xorBytes_assoc, ih, List.foldl_cons]
  exact h ds zeroUnit u

theorem length_parityP {ds : List (List Byte)} (h : ∀ u ∈ ds, u.length = unitBytes) : (parityP ds).length = unitBytes := by
  induction ds with
  | nil => exact length_zeroUnit
  | cons u ds ih =>
    obtain ⟨hu, hds⟩ := List.forall_mem_cons.1 h
    rw [parityP_cons, length_xorBytes, hu, ih hds, max_self]

theorem length_parityQ {ds : List (List Byte)} (j : Nat) (h : ∀ u ∈ ds, u.length = unitBytes) :
    (parityQ j ds).length = unitBytes := by
  induction ds generalizing j with
  | nil => exact length_zeroUnit
  | cons u ds ih =>
    obtain ⟨hu, hds⟩ := List.forall_mem_cons.1 h
    rw [parityQ, length_xorBytes, length_gfScale, hu, ih _ hds, max_self]

theorem parityP_set {ds : List (List Byte)} {x : Nat} (hx : x < ds.length) (v : List Byte) :
    xorBytes ds[x] (parityP (ds.set x v)) = xorBytes v (parityP ds) := by
  induction ds generalizing x with
  | nil => simp at hx
  | cons u ds ih =>
    cases x with
    | zero => simp [parityP_cons, xorBytes_left_comm]
    | succ x =>
      have := ih (Nat.lt_of_succ_lt_succ hx)
      simp [parityP_cons, xorBytes_left_comm _ u, this]

theorem parityQ_set {ds : List (List Byte)} {x : Nat} (hx : x < ds.length) (v : List Byte) (j : Nat) :
    xorBytes (gfScale (gfGen (j + x)) ds[x]) (parityQ j (ds.set x v)) =
      xorBytes (gfScale (gfGen (j + x)) v) (parityQ j ds) := by
  induction ds generalizing x j with
  | nil => simp at hx
  | cons u ds ih =>
    cases x with
    | zero => simp [parityQ, xorBytes_left_comm]
    | succ x =>
      have := ih (Nat.lt_of_succ_lt_succ hx) (j + 1)
      rw [Nat.add_right_comm] at this
      simp [parityQ, xorBytes_left_comm _ (gfScale _ u), ← Nat.add_assoc, this]

/-- Two units that become equal by adding `p'` and `p` differ as `p` and `p'` do. -/
theorem xorBytes_swap {n : Nat} {a v p p' : List Byte} (ha : a.length = n) (hv : v.length = n) (hp : p.length = n)
    (hp' : p'.length = n) (h : xorBytes a p' = xorBytes v p) : xorBytes p p' = xorBytes a v :=
  calc xorBytes p p' = xorBytes (xorBytes v (xorBytes v p)) p' := by rw [xorBytes_cancel (by rw [hv, hp])]
    _ = xorBytes p' (xorBytes p' (xorBytes a v)) := by
      rw [← h, xorBytes_comm, xorBytes_comm a p', xorBytes_left_comm v, xorBytes_comm v]
    _ = xorBytes a v := xorBytes_cancel (by simp [ha, hv, hp'])

theorem xorBytes_trans {n : Nat} {a b : List Byte} (ha : a.length = n) (hb : b.length = n) (c : List Byte) :
    xorBytes (xorBytes a b) (xorBytes b c) = xorBytes a c := by
  rw [xorBytes_comm a, xorBytes_assoc, xorBytes_left_comm a, xorBytes_cancel (by simp [ha, hb])]

section

variable {ds : List (List Byte)} {x : Nat} (h : ∀ u ∈ ds, u.length = unitBytes) (hx : x < ds.length)
include h

theorem length_of_mem_set {v : List Byte} (hv : v.length = unitBytes) : ∀ u ∈ ds.set x v, u.length = unitBytes :=
  fun u hu => (List.mem_or_eq_of_mem_set hu).elim (h u) (fun he => he ▸ hv)

/-- The syndrome S_P of one unit in another's place is the units' difference. -/
theorem parityP_diff {v : List Byte} (hv : v.length = unitBytes) :
    xorBytes (parityP ds) (parityP (ds.set x v)) = xorBytes ds[x] v :=
  xorBytes_swap (h _ (List.getElem_mem hx)) hv (length_parityP h) (length_parityP (length_of_mem_set h hv))
    (parityP_set hx v)

/-- The syndrome S_Q of one unit in another's place is g^x times the units' difference. -/
theorem parityQ_diff {v : List Byte} (hv : v.length = unitBytes) :
    xorBytes (parityQ 0 ds) (parityQ 0 (ds.set x v)) = gfScale (gfGen x) (xorBytes ds[x] v) := by
  have hset := parityQ_set hx v 0
  rw [Nat.zero_add] at hset
  rw [gfScale_xorBytes]
  exact xorBytes_swap (by rw [length_gfScale, h _ (List.getElem_mem hx)]) (by rw [length_gfScale, hv])
    (length_parityQ 0 h) (length_parityQ 0 (length_of_mem_set h hv)) hset

end

/-! ## The lost units (Table 6-1) -/

theorem lostIdx_eq {us : List (Option (List Byte))} {l : List Nat} (hl : l.Pairwise (· < ·))
    (h : ∀ i, i ∈ l ↔ i < us.length ∧ us.getD i none = none) : lostIdx us = l := by
  refine List.Pairwise.eq_of_mem_iff (List.pairwise_lt_range.filter _) hl fun i => ?_
  rw [lostIdx, List.mem_filter, List.mem_range, Option.isNone_iff_eq_none, h]

section

variable {ds : List (List Byte)} {x y : Nat}

theorem lostIdx_none : lostIdx (ds.map some) = [] :=
  lostIdx_eq .nil fun i => by
    simp +contextual [List.getD_eq_getElem?_getD]

theorem lostIdx_one (hx : x < ds.length) : lostIdx ((ds.map some).set x none) = [x] :=
  lostIdx_eq (List.pairwise_singleton ..) fun i => by
    simp only [List.mem_singleton, List.length_set, List.length_map, List.getD_eq_getElem?_getD, List.getElem?_set]
    grind

theorem lostIdx_two (hxy : x < y) (hy : y < ds.length) : lostIdx (((ds.map some).set x none).set y none) = [x, y] :=
  lostIdx_eq (List.pairwise_pair.2 hxy) fun i => by
    simp only [List.mem_cons, List.length_set, List.length_map, List.getD_eq_getElem?_getD, List.getElem?_set]
    grind

theorem filled_map_some : filled (ds.map some) = ds := by simp [filled, Function.comp_def]

theorem filled_set_none (us : List (Option (List Byte))) : filled (us.set x none) = (filled us).set x zeroUnit := by
  simp [filled, List.map_set]

end

section

variable {ds : List (List Byte)} {x y : Nat} (h : ∀ u ∈ ds, u.length = unitBytes)
include h

theorem recover_one_p (hx : x < ds.length) (q : Option (List Byte)) :
    recover ((ds.map some).set x none) (some (parityP ds)) q = some ds := by
  simp only [recover, lostIdx_one hx, filled_set_none, filled_map_some, parityP_diff h hx length_zeroUnit,
    xorBytes_zeroUnit (h _ (List.getElem_mem hx)), List.set_set, List.set_getElem_self]

theorem recover_one_q (hx : x < ds.length) (hn : ds.length ≤ 14) :
    recover ((ds.map some).set x none) none (some (parityQ 0 ds)) = some ds := by
  simp only [recover, lostIdx_one hx, filled_set_none, filled_map_some, parityQ_diff h hx length_zeroUnit,
    gfScale_gfInv (gfGen_ne_zero x (by omega)), xorBytes_zeroUnit (h _ (List.getElem_mem hx)), List.set_set,
    List.set_getElem_self]

/-- The differences that P and Q have with two units lost: the units' sum, and their sum scaled (Table 6-1). -/
theorem parity_two_lost (hxy : x < y) (hy : y < ds.length) :
    let f := (ds.set x zeroUnit).set y zeroUnit
    xorBytes (parityP ds) (parityP f) = xorBytes (ds[x]'(hxy.trans hy)) ds[y] ∧
    xorBytes (parityQ 0 ds) (parityQ 0 f) = xorBytes (gfScale (gfGen x) (ds[x]'(hxy.trans hy))) (gfScale (gfGen y) ds[y]) := by
  have hx : x < ds.length := hxy.trans hy
  have hset := length_of_mem_set (x := x) h length_zeroUnit
  have hy' : y < (ds.set x zeroUnit).length := by rwa [List.length_set]
  have hdx := xorBytes_zeroUnit (h _ (List.getElem_mem hx))
  have hdy := xorBytes_zeroUnit (h _ (List.getElem_mem hy))
  have hp := parityP_diff hset hy' length_zeroUnit
  have hq := parityQ_diff hset hy' length_zeroUnit
  have hp0 := parityP_diff h hx length_zeroUnit
  have hq0 := parityQ_diff h hx length_zeroUnit
  rw [List.getElem_set_ne hxy.ne, hdy] at hp hq
  rw [hdx] at hp0 hq0
  refine ⟨?_, ?_⟩
  · rw [← hp0, ← hp, xorBytes_trans (length_parityP h) (length_parityP hset)]
  · rw [← hq0, ← hq, xorBytes_trans (length_parityQ 0 h) (length_parityQ 0 hset)]

theorem recover_two (hxy : x < y) (hy : y < ds.length) (hn : ds.length ≤ 14) :
    recover (((ds.map some).set x none).set y none) (some (parityP ds)) (some (parityQ 0 ds)) = some ds := by
  have hx : x < ds.length := hxy.trans hy
  obtain ⟨hp, hq⟩ := parity_two_lost h hxy hy
  have hne : gfGen x ^^^ gfGen y ≠ 0 := fun h0 =>
    hxy.ne (gfGen_injective x (by omega) y (by omega) (BitVec.xor_eq_zero_iff.1 h0))
  have hlen : ds[x].length = ds[y].length := (h _ (List.getElem_mem hx)).trans (h _ (List.getElem_mem hy)).symm
  have hdx : gfScale (gfInv (gfGen x ^^^ gfGen y)) (xorBytes (xorBytes (gfScale (gfGen x) ds[x]) (gfScale (gfGen y) ds[y]))
      (gfScale (gfGen y) (xorBytes ds[x] ds[y]))) = ds[x] := by
    rw [gfScale_xorBytes (gfGen y), xorBytes_comm (gfScale (gfGen y) ds[x]), xorBytes_trans (length_gfScale ..)
      ((length_gfScale ..).trans hlen.symm), xorBytes_gfScale, gfScale_gfInv hne]
  have hdy : xorBytes (xorBytes ds[x] ds[y]) ds[x] = ds[y] := by
    rw [xorBytes_comm, xorBytes_cancel hlen.le]
  simp only [recover, lostIdx_two hxy hy, filled_set_none, filled_map_some, hp, hq, hdx, hdy]
  rw [List.set_comm _ _ hxy.ne', List.set_set, List.set_set, List.set_getElem_self, List.set_getElem_self]

end

theorem recover_many (us : List (Option (List Byte))) (p q : Option (List Byte)) (h : 3 ≤ (lostIdx us).length) :
    recover us p q = none := by
  match hl : lostIdx us, h with
  | x :: y :: z :: l, _ => cases p <;> cases q <;> simp [recover, hl]

/-- Settles O55: the differences of P and Q from those of the units that are left are the lost units' sum and scaled sum, and
distinct powers of g below 14 have an invertible difference. -/
theorem lostUnitsComeBack : Obligations.LostUnitsComeBack := by
  unfold Obligations.LostUnitsComeBack
  intro ds h h2 hn p q
  refine ⟨fun p' q' => ?_, fun x q' hx => recover_one_p h hx q', fun x hx => ⟨recover_one_q h hx hn, ?_⟩,
    fun x y hxy hy => ⟨recover_two h hxy hy hn, ?_, ?_⟩, recover_many⟩
  · simp only [recover, lostIdx_none, filled_map_some]
  · simp only [recover, lostIdx_one hx]
  · simp only [recover, lostIdx_two hxy hy]
  · simp only [recover, lostIdx_two hxy hy]

/-! ## The syndromes (R196) -/

theorem all_zero_eq (l : List Byte) : l.all (· = 0) = decide (∀ b ∈ l, b = 0) := by
  rw [Bool.eq_iff_iff, decide_eq_true_iff, List.all_eq_true]
  simp only [decide_eq_true_iff]

section

variable {ds : List (List Byte)} {p q : List Byte}

theorem syndrome_consistent (hp : ∀ b ∈ xorBytes p (parityP ds), b = 0) (hq : ∀ b ∈ xorBytes q (parityQ 0 ds), b = 0) :
    syndrome ds p q = .consistent := by
  simp only [syndrome, all_zero_eq, decide_eq_true hp, decide_eq_true hq]
  rfl

theorem syndrome_pWrong (hp : ¬ ∀ b ∈ xorBytes p (parityP ds), b = 0) (hq : ∀ b ∈ xorBytes q (parityQ 0 ds), b = 0) :
    syndrome ds p q = .pWrong := by
  simp only [syndrome, all_zero_eq, decide_eq_false hp, decide_eq_true hq]
  rfl

theorem syndrome_qWrong (hp : ∀ b ∈ xorBytes p (parityP ds), b = 0) (hq : ¬ ∀ b ∈ xorBytes q (parityQ 0 ds), b = 0) :
    syndrome ds p q = .qWrong := by
  simp only [syndrome, all_zero_eq, decide_eq_true hp, decide_eq_false hq]
  rfl

/-- With both syndromes non-zero, the ratio is looked for among the data indices. -/
theorem syndrome_both (hp : ¬ ∀ b ∈ xorBytes p (parityP ds), b = 0) (hq : ¬ ∀ b ∈ xorBytes q (parityQ 0 ds), b = 0) :
    syndrome ds p q =
      ((List.range ds.length).find? (fun j => xorBytes q (parityQ 0 ds) = gfScale (gfGen j) (xorBytes p (parityP ds)))).elim
        .unlocatable (fun j => .dataWrong j (xorBytes (ds.getD j zeroUnit) (xorBytes p (parityP ds)))) := by
  simp only [syndrome, all_zero_eq, decide_eq_false hp, decide_eq_false hq]
  cases List.find? .. <;> rfl

theorem syndrome_dataWrong {j : Nat} (hn : ds.length ≤ 14) (hj : j < ds.length)
    (hp : ¬ ∀ b ∈ xorBytes p (parityP ds), b = 0)
    (hq : xorBytes q (parityQ 0 ds) = gfScale (gfGen j) (xorBytes p (parityP ds))) :
    syndrome ds p q = .dataWrong j (xorBytes (ds.getD j zeroUnit) (xorBytes p (parityP ds))) := by
  have hg := gfGen_ne_zero j (by omega)
  have hone : ∀ i < j, gfScale (gfGen j) (xorBytes p (parityP ds)) ≠ gfScale (gfGen i) (xorBytes p (parityP ds)) :=
    fun i hi he => hi.ne' (gfGen_injective j (by omega) i (by omega) (gfScale_injective hp he))
  have hfind : (List.range ds.length).find? (fun i =>
      gfScale (gfGen j) (xorBytes p (parityP ds)) = gfScale (gfGen i) (xorBytes p (parityP ds))) = some j := by
    rw [List.find?_range_eq_some]
    exact ⟨decide_eq_true rfl, List.mem_range.2 hj, fun i hi => by simpa using hone i hi⟩
  rw [syndrome_both hp (hq ▸ (gfScale_zero_iff hg _).not.2 hp), hq, hfind, Option.elim]

theorem syndrome_unlocatable (hp : ¬ ∀ b ∈ xorBytes p (parityP ds), b = 0)
    (hq : ¬ ∀ b ∈ xorBytes q (parityQ 0 ds), b = 0)
    (h : ∀ j, j < ds.length → xorBytes q (parityQ 0 ds) ≠ gfScale (gfGen j) (xorBytes p (parityP ds))) :
    syndrome ds p q = .unlocatable := by
  rw [syndrome_both hp hq, List.find?_eq_none.2 fun j hj => by simpa using h j (List.mem_range.1 hj), Option.elim]

/-- One unit overwritten in a consistent position is found, and its value given back (R196). -/
theorem syndrome_overwritten {j : Nat} {b : List Byte} (h : ∀ u ∈ ds, u.length = unitBytes) (hn : ds.length ≤ 14)
    (hj : j < ds.length) (hb : b.length = unitBytes) (hne : b ≠ ds[j]) :
    syndrome (ds.set j b) (parityP ds) (parityQ 0 ds) = .dataWrong j ds[j] := by
  have hu : ds[j].length = unitBytes := h _ (List.getElem_mem hj)
  have hp := parityP_diff h hj hb
  have hlen : j < (ds.set j b).length := by rwa [List.length_set]
  have hget : (ds.set j b).getD j zeroUnit = b := by
    rw [List.getD_eq_getElem _ _ hlen, List.getElem_set_self]
  have hz : ¬ ∀ x ∈ xorBytes (parityP ds) (parityP (ds.set j b)), x = 0 := hp ▸ xorBytes_ne_zero (hu.trans hb.symm) hne.symm
  rw [syndrome_dataWrong (by rwa [List.length_set]) hlen hz (hp ▸ parityQ_diff h hj hb), hget, hp, xorBytes_comm ds[j],
    xorBytes_cancel (hb.trans hu.symm).le]

end

/-- Settles O56: the five outcomes by which syndromes are zero, and one overwritten unit by the differences it makes. -/
theorem syndromesLocateOneWrongUnit : Obligations.SyndromesLocateOneWrongUnit := by
  unfold Obligations.SyndromesLocateOneWrongUnit
  refine ⟨fun ds p q hn => ⟨syndrome_consistent, syndrome_pWrong, syndrome_qWrong,
    fun j hj => syndrome_dataWrong hn hj, syndrome_unlocatable⟩, fun ds j b h hn hj hb hne => ?_⟩
  rw [List.getD_eq_getElem _ _ hj] at hne ⊢
  exact syndrome_overwritten h hn hj hb hne

end Sys2Proof.Proofs

/-! # Blocks and places of a layout (R191 to R193) -/

namespace Sys2Proof.Proofs

open Sys2Proof.Machine Sys2Proof.Laws

/-! ## Sums over striping nodes -/

/-- Rows and blocks of a list of striping nodes. -/
def rowsOf (s : Nat) (l : List Stripe) : Nat := (l.map (Stripe.rows s)).sum
def capOf (l : List Stripe) : Nat := (l.map Stripe.cap).sum

@[simp] theorem rowsOf_nil (s : Nat) : rowsOf s [] = 0 := rfl
@[simp] theorem rowsOf_cons (s : Nat) (st : Stripe) (l : List Stripe) : rowsOf s (st :: l) = st.rows s + rowsOf s l := rfl
@[simp] theorem rowsOf_append (s : Nat) (l m : List Stripe) : rowsOf s (l ++ m) = rowsOf s l + rowsOf s m := by
  simp [rowsOf]
@[simp] theorem capOf_nil : capOf [] = 0 := rfl
@[simp] theorem capOf_cons (st : Stripe) (l : List Stripe) : capOf (st :: l) = st.cap + capOf l := rfl
@[simp] theorem capOf_append (l m : List Stripe) : capOf (l ++ m) = capOf l + capOf m := by simp [capOf]

theorem foldl_add_eq_sum {α : Type} (f : α → Nat) (l : List α) (n : Nat) :
    l.foldl (fun n x => n + f x) n = n + (l.map f).sum := by
  induction l generalizing n with
  | nil => rfl
  | cons x l ih => simp [ih, Nat.add_assoc]

theorem lay_rows_eq (l : Lay) : l.rows = rowsOf l.s l.stripes := (foldl_add_eq_sum ..).trans (Nat.zero_add _)
theorem lay_cap_eq (l : Lay) : l.cap = capOf l.stripes := (foldl_add_eq_sum ..).trans (Nat.zero_add _)

theorem baseOn_cons (s : Nat) (st : Stripe) (l : List Stripe) (r : Nat) :
    baseOn s (st :: l) r = (st.ranks.filter (· = r)).length * st.perLeaf s + baseOn s l r := by
  simp only [baseOn, foldl_add_eq_sum, List.map_cons, List.sum_cons, Nat.zero_add]

/-- A block below the capacity lies in one of the striping nodes. -/
theorem exists_stripe_of_lt {l : List Stripe} {b : Nat} (h : b < capOf l) :
    ∃ pre st post c, l = pre ++ st :: post ∧ b = capOf pre + c ∧ c < st.cap := by
  induction l generalizing b with
  | nil => exact absurd h (Nat.not_lt_zero b)
  | cons st l ih =>
    by_cases hb : b < st.cap
    · exact ⟨[], st, l, b, rfl, (Nat.zero_add b).symm, hb⟩
    · rw [capOf_cons] at h
      obtain ⟨pre, st', post, c, rfl, hc, hlt⟩ := ih (b := b - st.cap) (by omega)
      exact ⟨st :: pre, st', post, c, rfl, by rw [capOf_cons]; omega, hlt⟩

/-! ## What lies behind the first striping nodes -/

theorem placeIn_none {s : Nat} {l : List Stripe} {r0 b : Nat} (h : capOf l ≤ b) : placeIn s l r0 b = none := by
  induction l generalizing r0 b with
  | nil => rfl
  | cons st l ih =>
    rw [capOf_cons] at h
    rw [placeIn, if_neg (by omega), ih (by omega)]

theorem placeIn_append (s : Nat) (pre rest : List Stripe) (r0 b : Nat) :
    placeIn s (pre ++ rest) r0 (capOf pre + b) = placeIn s rest (r0 + rowsOf s pre) b := by
  induction pre generalizing r0 with
  | nil => simp
  | cons st pre ih =>
    have hb : capOf (st :: pre) + b - st.cap = capOf pre + b := by rw [capOf_cons]; omega
    rw [List.cons_append, placeIn, if_neg (by rw [capOf_cons]; omega), hb, ih, rowsOf_cons, Nat.add_assoc]

theorem lbaIn_append {s : Nat} {pre : List Stripe} (rest : List Stripe) {r0 : Nat} (b0 : Nat) {p : Place}
    (h : r0 + rowsOf s pre ≤ p.row) :
    lbaIn s (pre ++ rest) r0 b0 p = lbaIn s rest (r0 + rowsOf s pre) (b0 + capOf pre) p := by
  induction pre generalizing r0 b0 with
  | nil => simp
  | cons st pre ih =>
    rw [rowsOf_cons] at h
    rw [List.cons_append, lbaIn, if_neg (by omega), ih _ (by omega), rowsOf_cons, capOf_cons, Nat.add_assoc, Nat.add_assoc]

theorem findRow_append (s : Nat) (before pre rest : List Stripe) (row : Nat) :
    findRow s before (pre ++ rest) (rowsOf s pre + row) = findRow s (before ++ pre) rest row := by
  induction pre generalizing before with
  | nil => simp
  | cons st pre ih =>
    have hr : rowsOf s (st :: pre) + row - st.rows s = rowsOf s pre + row := by rw [rowsOf_cons]; omega
    rw [List.cons_append, findRow, if_neg (by rw [rowsOf_cons]; omega), hr, ih, List.append_assoc, List.singleton_append]

theorem localIn_append (s r : Nat) (pre rest : List Stripe) (r0 b : Nat) :
    localIn s r (pre ++ rest) r0 (baseOn s pre r + b) = localIn s r rest (r0 + rowsOf s pre) b := by
  induction pre generalizing r0 with
  | nil => simp [baseOn]
  | cons st pre ih =>
    have hb : ∀ here : Nat, here + baseOn s pre r + b - here = baseOn s pre r + b := fun here => by omega
    rw [List.cons_append, localIn, baseOn_cons, if_neg (by omega), hb, ih, rowsOf_cons, Nat.add_assoc]

/-! ## One row of a striping node (R193) -/

/-- A striping node that holds whole rows, a PQ one with 2 to 14 data children (R191). -/
def WholeRows (s : Nat) (st : Stripe) : Prop :=
  st.cap % rowBlocks s st = 0 ∧ (st.kind = .pq → 2 ≤ st.k ∧ st.k ≤ 14)

/-- Data units of a row of a striping node. -/
def dataCount (st : Stripe) : Nat := if st.kind = .pq then st.k else 1

theorem rowBlocks_eq (s : Nat) (st : Stripe) : rowBlocks s st = dataCount st * s := by
  unfold rowBlocks dataCount
  split <;> simp

section

variable {s : Nat} {st : Stripe} (hs : 0 < s) (hw : WholeRows s st)
include hw

theorem dataCount_pos : 0 < dataCount st := by
  unfold dataCount
  split
  · exact Nat.zero_lt_two.trans_le (hw.2 ‹_›).1
  · exact Nat.zero_lt_one

theorem dataCount_le : dataCount st ≤ 14 := by
  unfold dataCount
  split
  · exact (hw.2 ‹_›).2
  · decide

theorem rows_mul_rowBlocks : st.rows s * rowBlocks s st = st.cap := Nat.div_mul_cancel (Nat.dvd_of_mod_eq_zero hw.1)

theorem perLeaf_eq : st.perLeaf s = st.rows s * s := by
  unfold Stripe.perLeaf
  split
  · rfl
  · next hk => rw [← rows_mul_rowBlocks hw, rowBlocks, if_neg hk]

theorem perLeaf_le_cap : st.perLeaf s ≤ st.cap := by
  rw [perLeaf_eq hw, ← rows_mul_rowBlocks hw, rowBlocks_eq]
  exact Nat.mul_le_mul_left _ (Nat.le_mul_of_pos_left s (dataCount_pos hw))

include hs

theorem rowBlocks_pos : 0 < rowBlocks s st := by
  rw [rowBlocks_eq]
  exact Nat.mul_pos (dataCount_pos hw) hs

/-- A block of a striping node has its row, its unit among the row's data units and its position. -/
theorem block_split {c : Nat} (hc : c < st.cap) :
    c / rowBlocks s st < st.rows s ∧ c % rowBlocks s st / s < dataCount st ∧
    c / rowBlocks s st * rowBlocks s st + c % rowBlocks s st / s * s + c % s = c := by
  have hpos := rowBlocks_pos hs hw
  refine ⟨?_, ?_, ?_⟩
  · rw [Nat.div_lt_iff_lt_mul hpos, rows_mul_rowBlocks hw]
    exact hc
  · rw [Nat.div_lt_iff_lt_mul hs, ← rowBlocks_eq]
    exact Nat.mod_lt c hpos
  · have hmod : c % rowBlocks s st % s = c % s := Nat.mod_mod_of_dvd c (rowBlocks_eq s st ▸ Nat.dvd_mul_left ..)
    have hrow := Nat.div_add_mod' (c % rowBlocks s st) s
    have hblk := Nat.div_add_mod' c (rowBlocks s st)
    omega

end

/-! ## Children of a PQ node (R192) -/

/-- The unit that a child of a PQ node holds in a row. -/
def pqUnit (m row c : Nat) : Nat :=
  let p := m - 1 - row % m
  if c = p then unitP else if c = (p + 1) % m then unitQ else (c + 2 * m - p - 2) % m

theorem mod_of_lt_two_mul {a m : Nat} (h : a < 2 * m) : a % m = if a < m then a else a - m := by
  split
  · next hlt => exact Nat.mod_eq_of_lt hlt
  · rw [Nat.mod_eq_sub_mod (by omega), Nat.mod_eq_of_lt (by omega)]

theorem pqChild_lt {m u : Nat} (row : Nat) (hm : 0 < m) : pqChild m row u < m := by
  unfold pqChild
  dsimp only
  split
  · omega
  · split <;> exact Nat.mod_lt _ hm

/-- A row's unit is found again from the child that holds it. -/
theorem pqUnit_pqChild {k u : Nat} (row : Nat) (hk : 2 ≤ k) (hk' : k ≤ 14) (hu : u < k ∨ u = unitP ∨ u = unitQ) :
    pqUnit (k + 2) row (pqChild (k + 2) row u) = u := by
  have hp : k + 2 - 1 - row % (k + 2) < k + 2 := by omega
  unfold pqUnit pqChild
  generalize k + 2 - 1 - row % (k + 2) = p at hp
  have hq := mod_of_lt_two_mul (a := p + 1) (m := k + 2) (by omega)
  rcases hu with hu | rfl | rfl
  · have hP : u ≠ unitP := by unfold unitP; omega
    have hQ : u ≠ unitQ := by unfold unitQ; omega
    have hd := mod_of_lt_two_mul (a := p + 2 + u) (m := k + 2) (by omega)
    simp only [if_neg hP, if_neg hQ]
    generalize (p + 2 + u) % (k + 2) = c at hd
    have hback : (c + 2 * (k + 2) - p - 2) % (k + 2) = u := by
      split at hd
      · rw [show c + 2 * (k + 2) - p - 2 = u + 2 * (k + 2) by omega, Nat.add_mul_mod_self_right, Nat.mod_eq_of_lt (by omega)]
      · rw [show c + 2 * (k + 2) - p - 2 = u + (k + 2) by omega, Nat.add_mod_right, Nat.mod_eq_of_lt (by omega)]
    rw [if_neg (by split at hd <;> omega), if_neg (by split at hd <;> split at hq <;> omega), hback]
  · simp only [if_true]
  · have hPQ : unitQ ≠ unitP := by decide
    simp only [if_neg hPQ, if_true]
    rw [if_neg (by split at hq <;> omega)]

theorem pqChild_injective {k row u v : Nat} (hk : 2 ≤ k) (hk' : k ≤ 14) (hu : u < k ∨ u = unitP ∨ u = unitQ)
    (hv : v < k ∨ v = unitP ∨ v = unitQ) (h : pqChild (k + 2) row u = pqChild (k + 2) row v) : u = v := by
  rw [← pqUnit_pqChild row hk hk' hu, h, pqUnit_pqChild row hk hk' hv]

/-! ## The ranks that hold a unit, and their keys (R192) -/

/-- The ranks that hold a unit of a row of a striping node. -/
def holding (st : Stripe) (row u : Nat) : List Nat :=
  if st.kind = .pq then [st.ranks.getD (pqChild (st.k + 2) row u) 0] else st.ranks

/-- Distinct ranks, as many as a node's kind has children (R191). -/
def RanksFit (st : Stripe) : Prop :=
  st.ranks.Nodup ∧ st.ranks ≠ [] ∧ (st.kind = .pq → st.ranks.length = st.k + 2)

theorem holding_nodup {st : Stripe} (h : st.ranks.Nodup) (row u : Nat) : (holding st row u).Nodup := by
  unfold holding
  split
  · exact List.nodup_singleton _
  · exact h

theorem holding_ne_nil {st : Stripe} (h : st.ranks ≠ []) (row u : Nat) : holding st row u ≠ [] := by
  unfold holding
  split
  · exact List.cons_ne_nil _ _
  · exact h

theorem holding_subset {st : Stripe} (h : RanksFit st) {row u r : Nat} (hr : r ∈ holding st row u) : r ∈ st.ranks := by
  unfold holding at hr
  split at hr
  · next hk =>
    have hlt : pqChild (st.k + 2) row u < st.ranks.length := (h.2.2 hk).symm ▸ pqChild_lt row (Nat.succ_pos (st.k + 1))
    rw [List.mem_singleton.1 hr, List.getD_eq_getElem _ _ hlt]
    exact List.getElem_mem hlt
  · exact hr

theorem locate_eq {l : Lay} {pre post : List Stripe} {st : Stripe} (hl : l.stripes = pre ++ st :: post) {row : Nat}
    (hrow : row < st.rows l.s) (u pos : Nat) :
    l.locate ⟨rowsOf l.s pre + row, u, pos⟩ =
      (holding st row u).map (fun r => (r, baseOn l.s pre r + row * l.s + pos)) := by
  have hat : l.at (rowsOf l.s pre + row) = some ⟨pre, st, row⟩ := by
    rw [Lay.at, hl, findRow_append, findRow, if_pos hrow, List.nil_append]
  simp only [Lay.locate, hat, holding]

/-- A copy's key lies above the block by 2^49 for each one of the same rank before it. -/
theorem le_of_mem_numberCopies {f : Nat → Nat} {rs : List Nat} {seen : List (Nat × Nat)} {h : Nat × Nat}
    (hh : h ∈ numberCopies seen (rs.map (fun r => (r, f r)))) :
    f h.1 + (seen.filter (fun x => x.1 = h.1)).length * 2 ^ (keyBits + 1) ≤ h.2 := by
  induction rs generalizing seen with
  | nil => exact absurd hh List.not_mem_nil
  | cons r rs ih =>
    rcases List.mem_cons.1 hh with rfl | hh
    · exact le_rfl
    · refine le_trans (Nat.add_le_add_left (Nat.mul_le_mul_right _ ?_) _) (ih hh)
      exact ((List.sublist_cons_self _ seen).filter _).length_le

theorem numberCopies_nodup (f : Nat → Nat) (rs : List Nat) (seen : List (Nat × Nat)) :
    (numberCopies seen (rs.map (fun r => (r, f r)))).Nodup := by
  induction rs generalizing seen with
  | nil => exact List.nodup_nil
  | cons r rs ih =>
    refine List.nodup_cons.2 ⟨fun hmem => ?_, ih _⟩
    have hle := le_of_mem_numberCopies hmem
    simp only [decide_true, List.filter_cons_of_pos, List.length_cons, Nat.succ_mul] at hle
    have := Nat.two_pow_pos (keyBits + 1)
    omega

/-- Where no rank comes twice, every copy is the first of its rank. -/
theorem numberCopies_of_nodup {t seen : List (Nat × Nat)} (hn : (t.map Prod.fst).Nodup)
    (hs : ∀ x ∈ t, ∀ y ∈ seen, y.1 ≠ x.1) : numberCopies seen t = t := by
  induction t generalizing seen with
  | nil => rfl
  | cons h t ih =>
    obtain ⟨hnot, hn⟩ := List.nodup_cons.1 hn
    obtain ⟨hh, ht⟩ := List.forall_mem_cons.1 hs
    have hnone : seen.filter (fun x => x.1 = h.1) = [] := List.filter_eq_nil_iff.2 fun y hy => by simpa using hh y hy
    rw [numberCopies, hnone, ih hn fun x hx => List.forall_mem_cons.2 ⟨fun he => hnot (he ▸ List.mem_map_of_mem hx), ht x hx⟩]
    simp

theorem localBlkOf_off_add (l : Lay) {n : Nat} (h : n < 2 ^ 48) : localBlkOf (l.off + n) = n := by
  have hoff : l.off = 0 ∨ l.off = 2 ^ 48 := by
    unfold Lay.off keyBits
    split <;> simp
  rcases hoff with ho | ho
  · rw [ho, Nat.zero_add, localBlkOf, keyBits, Nat.mod_eq_of_lt h]
  · rw [ho, localBlkOf, keyBits, Nat.add_mod_left, Nat.mod_eq_of_lt h]

/-! ## A rank's block leads back to its place -/

theorem length_filter_eq_le_one {rs : List Nat} (h : rs.Nodup) (r : Nat) : (rs.filter (· = r)).length ≤ 1 := by
  rw [← List.countP_eq_length_filter]
  exact List.nodup_iff_count_le_one.1 h r

theorem baseOn_le {s : Nat} {l : List Stripe} (hw : ∀ st ∈ l, WholeRows s st) (hf : ∀ st ∈ l, st.ranks.Nodup) (r : Nat) :
    baseOn s l r ≤ capOf l := by
  induction l with
  | nil => exact le_rfl
  | cons st l ih =>
    obtain ⟨hst, hw⟩ := List.forall_mem_cons.1 hw
    obtain ⟨hnd, hf⟩ := List.forall_mem_cons.1 hf
    rw [baseOn_cons, capOf_cons]
    have hone := Nat.mul_le_mul_right (st.perLeaf s) (length_filter_eq_le_one hnd r)
    have hcap := perLeaf_le_cap hst
    have hrest := ih hw hf
    omega

theorem row_pos_lt {s row n pos : Nat} (hrow : row < n) (hpos : pos < s) : row * s + pos < n * s :=
  calc row * s + pos < (row + 1) * s := by rw [Nat.succ_mul]; omega
    _ ≤ n * s := Nat.mul_le_mul_right s hrow

theorem findIdx_getD {rs : List Nat} (h : rs.Nodup) {i : Nat} (hi : i < rs.length) : rs.findIdx (· = rs.getD i 0) = i := by
  rw [List.getD_eq_getElem _ _ hi, List.findIdx_eq hi]
  refine ⟨decide_eq_true rfl, fun j hj => decide_eq_false fun he => hj.ne ?_⟩
  exact (h.getElem_inj_iff).1 he

theorem localIn_holding {s : Nat} {st : Stripe} (hw : WholeRows s st) (hf : RanksFit st)
    {row u pos r : Nat} (hrow : row < st.rows s) (hu : u < dataCount st) (hpos : pos < s) (hr : r ∈ holding st row u)
    (post : List Stripe) (r0 : Nat) :
    localIn s r (st :: post) r0 (row * s + pos) = some ⟨r0 + row, u, pos⟩ := by
  have hcount : (st.ranks.filter (· = r)).length = 1 := by
    refine le_antisymm (length_filter_eq_le_one hf.1 r) (List.length_pos_of_mem (List.mem_filter.2 ⟨holding_subset hf hr, ?_⟩))
    exact decide_eq_true rfl
  have hlt := row_pos_lt hrow hpos
  have hdiv : (row * s + pos) / s = row := by
    rw [Nat.mul_comm, Nat.mul_add_div (by omega), Nat.div_eq_of_lt hpos, Nat.add_zero]
  have hmod : (row * s + pos) % s = pos := by rw [Nat.mul_add_mod_self_right, Nat.mod_eq_of_lt hpos]
  simp only [localIn, hcount, Nat.one_mul, perLeaf_eq hw, if_pos hlt, Nat.mod_eq_of_lt hlt, hdiv, hmod]
  split
  · next hk =>
    obtain ⟨hk2, hk14⟩ := hw.2 hk
    rw [dataCount, if_pos hk] at hu
    rw [holding, if_pos hk, List.mem_singleton] at hr
    have hc : pqChild (st.k + 2) row u < st.ranks.length := (hf.2.2 hk).symm ▸ pqChild_lt row (Nat.succ_pos (st.k + 1))
    have hunit : pqUnit (st.k + 2) row (st.ranks.findIdx (· = r)) = u := by
      rw [hr, findIdx_getD hf.1 hc, pqUnit_pqChild row hk2 hk14 (Or.inl hu)]
    exact congrArg (fun v => some (Place.mk (r0 + row) v pos)) hunit
  · next hk =>
    rw [dataCount, if_neg hk] at hu
    rw [Nat.lt_one_iff.1 hu]

/-! ## A block of a layout and its place -/

section

variable {l : Lay} {pre post : List Stripe} {st : Stripe} (hl : l.stripes = pre ++ st :: post)
include hl

theorem place_eq {c : Nat} (hc : c < st.cap) :
    l.place (capOf pre + c) = some ⟨rowsOf l.s pre + c / rowBlocks l.s st, c % rowBlocks l.s st / l.s, c % l.s⟩ := by
  rw [Lay.place, hl, placeIn_append, placeIn, if_pos hc, Nat.zero_add]

variable {row u pos : Nat} (hrow : row < st.rows l.s)
include hrow

theorem lba_eq (hu : u < dataCount st) (hpos : pos < l.s) :
    l.lba ⟨rowsOf l.s pre + row, u, pos⟩ = some (capOf pre + row * rowBlocks l.s st + u * l.s + pos) := by
  have hunit : u * l.s < rowBlocks l.s st := by
    rw [rowBlocks_eq]
    exact Nat.mul_lt_mul_of_pos_right hu (by omega)
  rw [Lay.lba, hl, lbaIn_append _ _ (by simp), lbaIn, Nat.zero_add, Nat.zero_add]
  simp only [Nat.add_sub_cancel_left, if_pos hrow, if_pos (And.intro hunit hpos)]

theorem row_lt_rows : rowsOf l.s pre + row < l.rows := by
  rw [lay_rows_eq, hl, rowsOf_append, rowsOf_cons]
  omega

theorem holders_eq :
    l.holders ⟨rowsOf l.s pre + row, u, pos⟩ = numberCopies []
      ((holding st row u).map (fun r => (r, l.off + (baseOn l.s pre r + row * l.s + pos)))) := by
  rw [Lay.holders, locate_eq hl hrow, List.map_map]
  rfl

theorem holders_nodup : (l.holders ⟨rowsOf l.s pre + row, u, pos⟩).Nodup := by
  rw [holders_eq hl hrow]
  exact numberCopies_nodup ..

variable (hw : ∀ st ∈ l.stripes, WholeRows l.s st) (hf : ∀ st ∈ l.stripes, RanksFit st)

include hf in
/-- With distinct ranks no copy is numbered. -/
theorem holders_eq_map :
    l.holders ⟨rowsOf l.s pre + row, u, pos⟩ =
      (holding st row u).map (fun r => (r, l.off + (baseOn l.s pre r + row * l.s + pos))) := by
  have hst : st ∈ l.stripes := by simp [hl]
  rw [holders_eq hl hrow]
  refine numberCopies_of_nodup ?_ (fun _ _ _ hy => absurd hy List.not_mem_nil)
  rw [List.map_map]
  exact (List.map_id _).symm ▸ holding_nodup (hf st hst).1 row u

include hw hf in
/-- R192's member-local block lies below the capacity. -/
theorem localBlk_lt (hpos : pos < l.s) (r : Nat) : baseOn l.s pre r + row * l.s + pos < l.cap := by
  have hpre : ∀ x ∈ pre, x ∈ l.stripes := fun x hx => hl ▸ List.mem_append_left _ hx
  have hst : st ∈ l.stripes := by simp [hl]
  have hbase := baseOn_le (fun x hx => hw x (hpre x hx)) (fun x hx => (hf x (hpre x hx)).1) r
  have hin := perLeaf_eq (hw st hst) ▸ perLeaf_le_cap (hw st hst)
  have hlt := row_pos_lt hrow hpos
  rw [lay_cap_eq, hl, capOf_append, capOf_cons]
  omega

include hw hf in
/-- Every rank and key that holds a data unit's position leads back to it. -/
theorem holders_lead_back (hu : u < dataCount st) (hpos : pos < l.s) (hcap : l.cap ≤ 2 ^ 48) :
    let p : Place := ⟨rowsOf l.s pre + row, u, pos⟩
    l.holders p ≠ [] ∧ (∀ h ∈ l.holders p, l.ofLocal h.1 h.2 = some p) ∧
      (l.holders p).map (fun h => (h.1, localBlkOf h.2)) = l.locate p := by
  have hst : st ∈ l.stripes := by simp [hl]
  have hkey (r : Nat) : localBlkOf (l.off + (baseOn l.s pre r + row * l.s + pos)) = baseOn l.s pre r + row * l.s + pos :=
    localBlkOf_off_add l ((localBlk_lt hl hrow hw hf hpos r).trans_le hcap)
  intro p
  rw [holders_eq_map hl hrow hf, locate_eq hl hrow]
  refine ⟨fun h0 => holding_ne_nil (hf st hst).2.1 row u (List.map_eq_nil_iff.1 h0), List.forall_mem_map.2 fun r hr => ?_, ?_⟩
  · rw [Lay.ofLocal, hkey, Nat.add_assoc, hl, localIn_append, localIn_holding (hw st hst) (hf st hst) hrow hu hpos hr,
      Nat.zero_add]
  · simp only [List.map_map, Function.comp_def, hkey]

end

/-- The layout of R193's example: PQ(6) with sherds of 64 blocks. -/
def pq6 : Lay := ⟨64, [⟨.pq, 6, [0, 1, 2, 3, 4, 5, 6, 7], 384 * 3000⟩], 0⟩

theorem pq6_example : pq6.place 1000000 = some ⟨2604, 1, 0⟩ ∧ pq6.holders ⟨2604, 1, 0⟩ = [(6, 166656)] ∧
    (pq6.holders ⟨2604, unitP, 0⟩).map Prod.fst = [3] ∧ (pq6.holders ⟨2604, unitQ, 0⟩).map Prod.fst = [4] := by
  decide

/-- Settles O54: a block lies in one striping node, behind which the place, its LBA, its ranks' blocks and their places are found
alike; and the unit a PQ child holds is computed back from the child. -/
theorem blocksAndPlacesAreInverse : Obligations.BlocksAndPlacesAreInverse := by
  unfold Obligations.BlocksAndPlacesAreInverse
  refine ⟨fun l hs hw => ⟨fun b hb => placeIn_none (lay_cap_eq l ▸ hb), fun b hb => ?_⟩,
    fun k row u v hk hk' hu hv hne h => hne (pqChild_injective hk hk' hu hv h), pq6_example⟩
  obtain ⟨pre, st, post, c, hl, rfl, hc⟩ := exists_stripe_of_lt (lay_cap_eq l ▸ hb)
  have hst : WholeRows l.s st := hw st (by simp [hl])
  obtain ⟨hrow, hu, hsplit⟩ := block_split hs hst hc
  have hpos : c % l.s < l.s := Nat.mod_lt c hs
  refine ⟨_, place_eq hl hc, ?_, row_lt_rows hl hrow, hpos, hu.trans_le (dataCount_le hst), holders_nodup hl hrow,
    fun hcap hf => holders_lead_back hl hrow hw hf hu hpos hcap⟩
  rw [lba_eq hl hrow hu hpos, Nat.add_assoc, Nat.add_assoc, ← Nat.add_assoc (_ * _), hsplit]

end Sys2Proof.Proofs

/-! # Claims and the Seawall entry (R229, R240) -/

namespace Sys2Proof.Proofs

open Sys2Proof.Machine Sys2Proof.Laws

/-- An entry raised holds the claim, its source and the time; every other entry stays as it was (R240). -/
theorem sea_raise (e : Env) (pool : Nat) (c : BitVec 32) (src : Nat) (d : Dp) (h : Nat) :
    (raise e pool c src d).sea h = if h = pool ∧ d.claimOf pool < c then
      { raisedAt := e.now, claim := c, source := src, refusals := 0 } else d.sea h := by
  unfold raise
  split
  · next hlt =>
    have hlog (p : Prop) [Decidable p] (x : Dp) :
        SameHead x (if p then logE e 0x0703 3 srcFirmware [pool, c.toNat] x else x) := .ite (.logE ..) (.refl x)
    have hnote (x : Dp) : SameHead x (x.noteLast pool (fun p => { p with lastSteward := rankOf c })) := ⟨rfl, rfl, rfl⟩
    have hcause (p : Bool) (x : Dp) : SameHead x (if p then cause e evSteward x else x) := .ite (.cause ..) (.refl x)
    have hput {x y : Dp} (hxy : SameHead x y)
        (hx : x.sh.sea = d.sh.sea.put pool { raisedAt := e.now, claim := c, source := src, refusals := 0 }) :
        y.sea h = if h = pool ∧ d.claimOf pool < c then
          { raisedAt := e.now, claim := c, source := src, refusals := 0 } else d.sea h := by
      simp only [Dp.sea, hxy.2.1, hx, get_put, hlt, and_true]
    exact hput (((hlog ..).trans (hnote _)).trans ((SameHead.fenceRole ..).trans (hcause ..))) rfl
  · next hlow => rw [if_neg (fun hup => hlow hup.2)]

theorem claimOf_raise (e : Env) (pool : Nat) (c : BitVec 32) (src : Nat) (d : Dp) :
    (raise e pool c src d).claimOf pool = if d.claimOf pool < c then c else d.claimOf pool := by
  rw [Dp.claimOf, sea_raise]
  simp only [true_and]
  split <;> rfl

/-! ## The claim that a device forms (R229) -/

section
variable {e r : Nat}

theorem toNat_mkClaim (he : e ≤ epochMax) (hr : r < 256) : (mkClaim e r).toNat = e * 256 + r := by
  unfold mkClaim epochMax at *
  rw [BitVec.toNat_ofNat]
  omega

theorem rankOf_mkClaim (he : e ≤ epochMax) (hr : r < 256) : rankOf (mkClaim e r) = r := by
  rw [rankOf, toNat_mkClaim he hr]
  omega

/-- A claim is the epoch over the rank's eight bits (Table 7-1). -/
theorem mkClaim_eq_or (hr : r < 256) : mkClaim e r = (BitVec.ofNat 32 e <<< 8) ||| BitVec.ofNat 32 r := by
  have hor : e * 256 + r = e <<< 8 ||| r := by
    rw [← Nat.shiftLeft_add_eq_or_of_lt (by omega : r < 2 ^ 8), Nat.shiftLeft_eq]
  rw [mkClaim, hor, BitVec.ofNat_or]
  congr 1
  bv_omega

end

section
variable {e : Env} {d : Dp} {pool : Nat} {c : BitVec 32}

theorem formClaim_eq_some_iff : formClaim e d pool = some c ↔
    epochOf (d.claimOf pool) < epochMax ∧ c = mkClaim (epochOf (d.claimOf pool) + 1) e.rank := by
  unfold formClaim
  split <;> simp_all [eq_comm]

/-- The claim a device forms carries its own rank, and is above the entry. -/
theorem formClaim_spec (hr : e.rank < 16) (h : formClaim e d pool = some c) :
    rankOf c = e.rank ∧ (d.claimOf pool).toNat < c.toNat := by
  obtain ⟨hlt, rfl⟩ := formClaim_eq_some_iff.mp h
  refine ⟨rankOf_mkClaim hlt (by omega), ?_⟩
  rw [toNat_mkClaim hlt (by omega), epochOf]
  omega

end

/-- Settles O50: the entry by `claimOf_raise`, the claim formed by its epoch and its rank. -/
theorem claimsFormAndCompare : Obligations.ClaimsFormAndCompare := by
  unfold Obligations.ClaimsFormAndCompare
  refine ⟨fun e d pool hr hlt => ?_, fun e d pool src c => ⟨?_, fun h hne => ?_⟩,
    fun e f d g pool c c' hr hr' hne h h' heq => hne ?_⟩
  · have hform : formClaim e d pool = some (mkClaim (epochOf (d.claimOf pool) + 1) e.rank) :=
      formClaim_eq_some_iff.mpr ⟨hlt, rfl⟩
    exact ⟨_, hform, mkClaim_eq_or (by omega), (formClaim_spec hr hform).2⟩
  · rw [claimOf_raise]
    split <;> (rw [BitVec.lt_def] at *; omega)
  · rw [sea_raise, if_neg (fun hup => hne hup.1)]
  · rw [← (formClaim_spec hr h).1, ← (formClaim_spec hr' h').1, heq]

end Sys2Proof.Proofs

/-! # Frames of claims, roles and the ring (R232 to R252, R286, R580) -/

namespace Sys2Proof.Proofs

open Sys2Proof.Machine Sys2Proof.Laws

/-! ## What is heard of the ranks -/

/-- What has been heard of the ranks, and the time of this device's last heartbeat, stand as they were. -/
structure HeardAlike (d d' : Dp) : Prop where
  peers : d'.ring.peers = d.ring.peers
  hbAt  : d'.ring.hbAt = d.ring.hbAt

namespace HeardAlike
variable {d d' d'' : Dp}

theorem of_ring (h : d'.ring = d.ring) : HeardAlike d d' := ⟨by rw [h], by rw [h]⟩

theorem refl (d : Dp) : HeardAlike d d := of_ring rfl

theorem trans (h : HeardAlike d d') (h' : HeardAlike d' d'') : HeardAlike d d'' :=
  ⟨h'.peers.trans h.peers, h'.hbAt.trans h.hbAt⟩

theorem ite {c : Prop} [Decidable c] {x y : Dp} (hx : HeardAlike d x) (hy : HeardAlike d y) :
    HeardAlike d (if c then x else y) := by
  split
  · exact hx
  · exact hy

theorem foldl {α : Type} {f : Dp → α → Dp} (h : ∀ d x, HeardAlike d (f d x)) (l : List α) (d : Dp) :
    HeardAlike d (l.foldl f d) := by
  induction l generalizing d with
  | nil => exact .refl d
  | cons x l ih => exact (h d x).trans (ih _)

theorem peer (h : HeardAlike d d') (r : Nat) : d'.peer r = d.peer r := by
  unfold Dp.peer
  rw [h.peers]

theorem present (h : HeardAlike d d') (e : Env) (r : Nat) : Machine.present e d' r = Machine.present e d r := by
  unfold Machine.present
  rw [h.peer]

end HeardAlike

section
variable (e : Env) (d : Dp)

theorem heardAlike_setLink (p : CwPort) (l : CwLink) : HeardAlike d (d.setLink p l) := by
  cases p <;> exact ⟨rfl, rfl⟩

theorem heardAlike_setPair (r c : Nat) (p : Pair) : HeardAlike d (d.setPair r c p) := ⟨rfl, rfl⟩

theorem heardAlike_sendOn (now : Nat) (p : CwPort) (o : Output) : HeardAlike d (sendOn now p o d) :=
  .ite (.ite ((heardAlike_setLink d p _).trans (.of_ring (put_ring ..))) (heardAlike_setLink ..)) (.refl d)

/-- Sending a frame changes nothing that is heard of the ranks. -/
theorem heardAlike_send (t : FrameType) (bulk : Nat) (f : Frame) (b : FrameBody) : HeardAlike d (send e t bulk f b d) := by
  have hbusy : HeardAlike d (if 1 ≤ t.cls bulk && f.dst.val != e.rank then { d with ring := { d.ring with busyAt := e.now } }
      else d) := .ite ⟨rfl, rfl⟩ (.refl d)
  have hpair (x : Dp) (c : Prop) [Decidable c] (r k : Nat) (p : Pair) : HeardAlike x (if c then x.setPair r k p else x) :=
    .ite (heardAlike_setPair ..) (.refl x)
  refine hbusy.trans ?_
  unfold send
  dsimp only
  generalize (if 1 ≤ t.cls bulk && f.dst.val != e.rank then { d with ring := { d.ring with busyAt := e.now } } else d) = d₁
  refine .ite (.of_ring rfl) (.ite (.refl _) ?_)
  split
  · exact (hpair ..).trans (heardAlike_sendOn ..)
  · exact hpair ..

theorem heardAlike_resend (r c start : Nat) : HeardAlike d (resend e r c start d) := by
  unfold resend
  dsimp only
  have hpair := heardAlike_setPair d r c { d.pair r c with txAt := e.now }
  split
  · exact hpair
  · refine (hpair.trans ?_).trans (.of_ring (count_ring ..))
    exact .foldl (fun d _ => heardAlike_sendOn d _ _ _) _ _

/-- Frames sent again by new routes change nothing that is heard of the ranks (R281, R287). -/
theorem heardAlike_reroute (before : Dp) : HeardAlike d (reroute e before d) :=
  .foldl (fun d r => .ite (.foldl (fun d c => heardAlike_resend e d r c _) _ d) (.refl d)) _ d

end

/-- A record that a steward writes touches its roles alone. -/
theorem appendNew_ring (e : Env) (type : RecType) (pool arg : Nat) (d : Dp) : (appendNew e type pool arg d).ring = d.ring := by
  unfold appendNew append
  dsimp only
  split
  · rfl
  · split <;> rfl

theorem declareAbsent_ring (e : Env) (pool r : Nat) (d : Dp) : (declareAbsent e pool r d).ring = d.ring := by
  unfold declareAbsent
  dsimp only
  split
  · exact appendNew_ring ..
  · rfl

theorem absentEverywhere_ring (e : Env) (r : Nat) (d : Dp) : (absentEverywhere e r d).ring = d.ring :=
  foldl_keeps Dp.ring (fun d h => declareAbsent_ring e h r d) _ _

/-! ## What the frames do at their receiver -/

section
variable {t : FrameType} {f : Frame} {b : FrameBody} {s : State} {d : Dp}

/-- A frame of class 0 that is delivered next, and alone, has the effect that its delivery has; it keeps no device awake. -/
theorem next_authority (hc : t.cls 3 = 0) (h : Reaches t 3 f b s d) {g : Env → Dp → Dp}
    (hg : deliver s.env (t, f, b) d = g s.env s.dp) :
    (.next (onFrame t 3 f b s) : Host.Outcome State Fault Refusal) = .next (s.onDp g).work := by
  have hone : onFrame t 3 f b s = (s.onDp (fun e _ => deliver e (t, f, b) d)).work := by
    unfold onFrame State.onDp
    rw [if_neg (by omega)]
    simp only [show arrive s.env t 3 f b s.dp = _ from h, List.foldl_cons, List.foldl_nil]
  rw [hone, onDp_congr (g := g) hg]

/-- What a frame of class 0 that arrives in order does, told of the state it arrives in. -/
theorem authority_delivered (h : InOrder s t 3 f) (hp : t.paired = true) (hc : t.cls 3 = 0) (b : FrameBody) :
    ∃ (u : State) (d : Dp), (.next (onFrame t 3 f b s) : Host.Outcome State Fault Refusal) = .next u.work ∧
      SameButRing s.dp d ∧ u.dp = deliver s.env (t, f, b) d := by
  obtain ⟨d, hreach, hsame⟩ := reaches_of_ordered h hp b
  exact ⟨_, d, next_authority hc hreach (g := fun _ _ => deliver s.env (t, f, b) d) rfl, hsame, rfl⟩

end

/-! ### Heartbeats (R232, R233) -/

section
variable (e : Env) (d : Dp)

theorem hearSteward_ring (pool : Nat) (c : BitVec 32) : (hearSteward pool c d).ring = d.ring := by
  unfold hearSteward
  dsimp only
  split <;> rfl

theorem sendFenced_heardAlike (pool r : Nat) : HeardAlike d (sendFenced e pool r d) :=
  (heardAlike_send ..).trans (.of_ring (count_ring ..))

theorem standbyEntry_heardAlike (src pool : Nat) (c : BitVec 32) : HeardAlike d (standbyEntry src pool c d) := by
  unfold standbyEntry
  refine .ite (.refl d) (.of_ring ?_)
  dsimp only
  split
  · split <;> rfl
  · rfl

theorem stewardEntry_heardAlike (f : Frame) (x : RoleEntry) (was : Bool) : HeardAlike d (stewardEntry e f x was d) := by
  have hraise (y : Dp) : HeardAlike y (raise e x.pool x.claim 2 y) := .of_ring (raise_ring ..)
  have hset (y : Dp) (z : Shoal) : HeardAlike y { y with sh := z } := .of_ring rfl
  refine HeardAlike.trans (.of_ring (hearSteward_ring d x.pool x.claim)) ?_
  unfold stewardEntry
  dsimp only
  generalize hearSteward x.pool x.claim d = d₁
  refine .ite (.refl _) (.ite ((HeardAlike.of_ring rfl).trans (.of_ring (logAt_ring ..))) (.ite ?_ ?_))
  · exact (hset d₁ _).trans (sendFenced_heardAlike ..)
  · exact (hraise d₁).trans (.ite ((hset _ _).trans (hset _ _)) (hset _ _))

/-- The record of a rank whose heartbeat has just come (R233, Table 8-6). -/
def heardPeer (r : Nat) (boot : Word) (session : BitVec 32) (flags : Byte) (l : List RoleEntry) : Peer :=
  let p := d.peer r
  { p with
    boot := boot, session := session, lastHb := e.now, heard := true, silent := false,
    out := p.out && (ownLinks d).all Option.isNone, flags := flags, roles := l,
    unbrokenSince := if !p.heard || p.silent || p.lastHb + 2 * msec ≤ e.now then e.now else p.unbrokenSince }

/-- Whatever roles it tells of, a heartbeat changes of what is heard its sender's record alone. -/
theorem heardAlike_onHeartbeat (f : Frame) (boot : Word) (session : BitVec 32) (flags : Byte) (l : List RoleEntry) :
    HeardAlike (d.setPeer f.src.val (heardPeer e d f.src.val boot session flags l))
      (onHeartbeat e f boot session flags l d) := by
  have hentries (b : Bool) (x : Dp) : HeardAlike x (l.foldl (fun d x => if x.standby then
      standbyEntry f.src.val x.pool x.claim d else stewardEntry e f x b d) x) :=
    .foldl (fun d x => .ite (standbyEntry_heardAlike ..) (stewardEntry_heardAlike ..)) l x
  unfold onHeartbeat
  refine HeardAlike.trans (HeardAlike.trans ?_ (hentries ..)) (.of_ring (noteHealth_ring ..))
  exact .ite (.of_ring rfl) (.of_ring rfl)

theorem peer_onHeartbeat (f : Frame) (boot : Word) (session : BitVec 32) (flags : Byte) (l : List RoleEntry) :
    (onHeartbeat e f boot session flags l d).peer f.src.val = heardPeer e d f.src.val boot session flags l := by
  rw [(heardAlike_onHeartbeat e d f boot session flags l).peer, peer_setPeer, if_pos rfl]

/-- A heartbeat that names no role leaves the Seawall as it was. -/
theorem sea_onHeartbeat_nil (f : Frame) (boot : Word) (session : BitVec 32) (flags : Byte) :
    (onHeartbeat e f boot session flags [] d).sh.sea = d.sh.sea := by
  unfold onHeartbeat
  dsimp only [List.foldl_nil, noteHealth]
  split <;> rfl

end

/-- A session that is known already is learnt without effect (R283). -/
theorem noteSession_known (e : Env) {r : Nat} {session : BitVec 32} {boot : Word} {d : Dp}
    (hs : (d.peer r).session = session) (hb : (d.peer r).boot = boot) :
    noteSession e r session boot d = d.setPeer r (d.peer r) := by
  subst hs hb
  simp [noteSession, learnSession]

theorem deliver_heartbeat (e : Env) (f : Frame) (boot : Word) (session : BitVec 32) (flags : Byte) (l : List RoleEntry) (d : Dp) :
    deliver e (.heartbeat, f, .roles boot session flags l) d = onHeartbeat e f boot session flags l d := rfl

section
variable {s : State} {f : Frame} {boot : Word} {session : BitVec 32} {flags : Byte} {l : List RoleEntry}

/-- A heartbeat that arrives in order under the session known of its sender makes that rank heard. -/
theorem heartbeat_heard (h : InOrder s .heartbeat 3 f) (hs : (s.dp.peer f.src.val).session = session)
    (hb : (s.dp.peer f.src.val).boot = boot) :
    ∃ (u : State) (d : Dp), exec (.heartbeat f boot session flags l) s = .next u.work ∧
      u.dp.peer f.src.val = heardPeer s.env d f.src.val boot session flags l := by
  have hcls : f.cls = 0 := h.cls
  have hk : s.onDp (fun e d =>
      if ringOpen e d && f.crcOk && f.linkOk && f.cls = 0 && f.dst.val = e.rank && f.src.val != e.rank then
        noteSession e f.src.val session boot d
      else d) = { s with dp := s.dp.setPeer f.src.val (s.dp.peer f.src.val) } := by
    refine (onDp_congr (g := fun _ _ => s.dp.setPeer f.src.val (s.dp.peer f.src.val)) ?_)
    rw [if_pos (by simp [h.opened, h.good, h.whole, hcls, h.here, h.away]), noteSession_known s.env hs hb]
  have hin : InOrder { s with dp := s.dp.setPeer f.src.val (s.dp.peer f.src.val) } .heartbeat 3 f := by
    refine { h with session := ?_ }
    rw [peer_setPeer, if_pos rfl]
    exact h.session
  obtain ⟨u, d, hu, -, hdp⟩ := authority_delivered hin rfl rfl (.roles boot session flags l)
  refine ⟨u, d, ?_, ?_⟩
  · rw [exec_heartbeat, execHeartbeat, hk]
    exact hu
  · rw [hdp, deliver_heartbeat, peer_onHeartbeat]
    rfl

end

/-! ### Claims and FENCED (R240, R243, R249, R251) -/

section
variable (e : Env) (f : Frame) (d : Dp)

theorem deliver_claim : deliver e (.claim, f, .none) d = onClaim e f d := rfl
theorem deliver_fenced : deliver e (.fenced, f, .none) d = onFenced e f d := rfl
theorem deliver_relinquish : deliver e (.relinquish, f, .none) d = onRelinquish e f d := rfl
theorem deliver_handover : deliver e (.handover, f, .none) d = onHandover e f d := rfl
theorem deliver_ringExit : deliver e (.ringExit, f, .none) d = takeOut e (f.arg % 16) d := rfl

theorem sea_hearSteward (pool : Nat) (c : BitVec 32) : (hearSteward pool c d).sh.sea = d.sh.sea := by
  unfold hearSteward
  dsimp only
  split <;> rfl

theorem sea_waitAgain (id : Nat) : (waitAgain id d).sh.sea = d.sh.sea := rfl

theorem claimOf_congr {d d' : Dp} (h : d'.sh.sea = d.sh.sea) (pool : Nat) : d'.claimOf pool = d.claimOf pool := by
  unfold Dp.claimOf Dp.sea
  rw [h]

end

section
variable (e : Env) {f : Frame} {d : Dp}

section
variable (ha : admitted d f.pool = true) (hv : claimValid f.claim = true) (hr : rankOf f.claim = f.src.val)
include ha hv hr

/-- A claim that stands raises the entry and is acknowledged (R243, R249). -/
theorem onClaim_accepted (hp : f.pool ≠ drillHandle) (hc : d.claimOf f.pool ≤ f.claim) :
    onClaim e f d = (let u := hearSteward f.pool f.claim (raise e f.pool f.claim 2 d)
      send e .control 3 { header e u f.src.val f.pool with arg := f.claim.toNat } .claimAck u) := by
  simp [onClaim, seawall, ha, hv, hr, hp, BitVec.not_lt.mpr hc]

/-- A claim below the entry is refused, and its sender told the entry's claim (R249). -/
theorem onClaim_lower (hc : f.claim < d.claimOf f.pool) :
    onClaim e f d = sendFenced e f.pool f.src.val (refusal f.pool d) := by
  simp [onClaim, seawall, ha, hv, hr, hc]

end

theorem onClaim_unadmitted (ha : admitted d f.pool = false) : onClaim e f d = hearSteward f.pool f.claim d := by
  simp [onClaim, ha]

/-- The head's tickets sent under a claim that FENCED has passed are asked for again (R251). -/
def fencedTickets (f : Frame) (u : Dp) : Dp :=
  (u.sh.htickets.filter (fun t => t.pool = f.pool && t.stage = .sent && t.claim < f.claim)).foldl (fun d t => waitAgain t.id d) u

theorem onFenced_valid (hv : claimValid f.claim = true) (hp : f.pool ≠ drillHandle) :
    onFenced e f d = fencedTickets f (raise e f.pool f.claim 2 d) := by
  simp only [onFenced, hv, hp, Bool.not_true, Bool.false_eq_true, if_false]
  rfl

theorem sea_fencedTickets (u : Dp) : (fencedTickets f u).sh.sea = u.sh.sea :=
  foldl_keeps (fun x : Dp => x.sh.sea) (fun d (t : HTicket) => sea_waitAgain d t.id) _ u

end

theorem sea_refusal (pool : Nat) (d : Dp) :
    (refusal pool d).sea pool = { d.sea pool with refusals := min 0xFFFF ((d.sea pool).refusals + 1) } := get_put_self ..

/-- A refusal is counted, and the entry keeps its claim (R249). -/
theorem refusal_counts (pool : Nat) (d : Dp) : (refusal pool d).claimOf pool = d.claimOf pool ∧
    ((refusal pool d).sea pool).refusals = min 0xFFFF ((d.sea pool).refusals + 1) := by
  rw [Dp.claimOf, sea_refusal]
  exact ⟨rfl, rfl⟩

theorem sh_sendFenced (e : Env) (pool r : Nat) (d : Dp) : (sendFenced e pool r d).sh = d.sh :=
  (count_sh ..).trans (sameButRing_send ..).sh

section
variable {s : State} {f : Frame}

/-- A claim that the Seawall accepts is the entry's from then on (R243). -/
theorem claim_raises (ha : Accepts s f) (h : InOrder s .claim 3 f) :
    ∃ u : State, exec (.claim f) s = .next u.work ∧ u.dp.claimOf f.pool = f.claim := by
  obtain ⟨u, d, hu, hd, hdp⟩ := authority_delivered h rfl rfl .none
  have hc : d.claimOf f.pool ≤ f.claim := (hd.claimOf _).symm ▸ ha.high
  refine ⟨u, hu, ?_⟩
  rw [hdp, deliver_claim, onClaim_accepted _ ((hd.admitted _).trans ha.admits) ha.valid ha.sender ha.plain hc]
  dsimp only
  rw [(sameButRing_send ..).claimOf, claimOf_congr (sea_hearSteward ..)]
  exact (raise_sameHead ..).2.2 hc

theorem fenced_raises (ha : Accepts s f) (h : InOrder s .fenced 3 f) :
    ∃ u : State, exec (.fenced f) s = .next u.work ∧ u.dp.claimOf f.pool = f.claim := by
  obtain ⟨u, d, hu, hd, hdp⟩ := authority_delivered h rfl rfl .none
  refine ⟨u, hu, ?_⟩
  rw [hdp, deliver_fenced, onFenced_valid _ ha.valid ha.plain, claimOf_congr (sea_fencedTickets _)]
  exact (raise_sameHead ..).2.2 ((hd.claimOf _).symm ▸ ha.high)

theorem claim_refused (h : InOrder s .claim 3 f) (ha : admitted s.dp f.pool = true) (hv : claimValid f.claim = true)
    (hr : rankOf f.claim = f.src.val) (hc : f.claim < s.dp.claimOf f.pool) :
    ∃ u : State, exec (.claim f) s = .next u.work ∧ u.dp.claimOf f.pool = s.dp.claimOf f.pool ∧
      (u.dp.sea f.pool).refusals = min 0xFFFF ((s.dp.sea f.pool).refusals + 1) := by
  obtain ⟨u, d, hu, hd, hdp⟩ := authority_delivered h rfl rfl .none
  refine ⟨u, hu, ?_⟩
  rw [hdp, deliver_claim, onClaim_lower _ ((hd.admitted _).trans ha) hv hr ((hd.claimOf _).symm ▸ hc), Dp.claimOf, Dp.sea,
    sh_sendFenced, show s.dp.claimOf f.pool = d.claimOf f.pool from (hd.claimOf _).symm, Dp.sea, ← hd.sh]
  exact refusal_counts f.pool d

end

/-! ### RELINQUISH and HANDOVER (R245, Table 7-7) -/

section
variable (e : Env) {f : Frame} {d : Dp}

theorem onRelinquish_steward (ha : admitted d f.pool = true) (hs : stewardRank d f.pool = some f.src.val) :
    onRelinquish e f d = { d with sh := { d.sh with
      relinquished := addNew f.pool d.sh.relinquished, mentioned := d.sh.mentioned.put f.pool e.now } } := by
  simp [onRelinquish, ha, hs]

theorem onRelinquish_other (hs : stewardRank d f.pool ≠ some f.src.val) : onRelinquish e f d = d := by
  simp [onRelinquish, hs]

theorem onHandover_publishes (ha : admitted d f.pool = true) (hs : stewardRank d f.pool = some f.src.val)
    (hr : rankOf f.claim = e.rank) (he : epochOf f.claim = epochOf (d.claimOf f.pool) + 1) :
    onHandover e f d = publish e f.pool f.claim (some f.src.val) d := by
  simp [onHandover, ha, hs, hr, he]

end

theorem SameButRing.stewardRank {d d' : Dp} (h : SameButRing d d') (pool : Nat) :
    Machine.stewardRank d' pool = Machine.stewardRank d pool := by
  unfold Machine.stewardRank
  rw [h.claimOf]

theorem SameButRing.lane {d d' : Dp} (h : SameButRing d d') : d'.lane = d.lane := by
  obtain ⟨_, _, rfl⟩ := h
  rfl

/-- A claim published opens the device's contest; on a usable lane its frame is queued, and without the lane it is told over
Causeway while other members are left to acknowledge it (R239, R243). -/
theorem publish_contests (e : Env) (pool : Nat) (c : BitVec 32) (giver : Option Nat) {d : Dp}
    (h : d.lane.usable = true ∨ 2 ≤ (memberRanks d.sh.reg).length) :
    ((publish e pool c giver d).roleD pool).contest =
      some { claim := c, acks := 2 ^ e.rank, lane := d.lane.usable, giver := giver } ∧
    (d.lane.usable = true → laneFrame pool c ∈ (publish e pool c giver d).lane.tx) := by
  unfold publish
  by_cases hlane : d.lane.usable = true
  · rw [if_pos hlane]
    refine ⟨?_, fun _ => by simp [laneQueue]⟩
    change ((d.setRole _).roleD pool).contest = _
    rw [roleD_setRole, if_pos (pool_roleD d pool).symm, hlane]
  · have htwo : 2 ≤ (memberRanks d.sh.reg).length := h.resolve_left hlane
    have hoff : d.lane.usable = false := by simpa using hlane
    rw [if_neg hlane]
    dsimp only
    rw [if_neg (by rw [(sameButRing_sendEach ..).sh]; exact Nat.not_lt.mpr htwo), (sameButRing_sendEach ..).roleD,
      roleD_setRole, if_pos (pool_roleD d pool).symm, hoff]
    exact ⟨rfl, fun hu => absurd hu (by simp)⟩

section
variable {s : State} {f : Frame} (ha : admitted s.dp f.pool = true) (hs : stewardRank s.dp f.pool = some f.src.val)
include ha hs

theorem relinquish_remembered (h : InOrder s .relinquish 3 f) :
    ∃ u : State, exec (.relinquish f) s = .next u.work ∧ f.pool ∈ u.dp.sh.relinquished := by
  obtain ⟨u, d, hu, hd, hdp⟩ := authority_delivered h rfl rfl .none
  refine ⟨u, hu, ?_⟩
  rw [hdp, deliver_relinquish, onRelinquish_steward _ ((hd.admitted _).trans ha) ((hd.stewardRank _).trans hs)]
  exact mem_addNew ..

/-- A handover to this device makes it publish the claim that it is given (Table 7-7 step 5). -/
theorem handover_contests (h : InOrder s .handover 3 f) (hr : rankOf f.claim = s.env.rank)
    (he : epochOf f.claim = epochOf (s.dp.claimOf f.pool) + 1) (hlane : s.dp.lane.usable = true) :
    ∃ u : State, exec (.handover f) s = .next u.work ∧ laneFrame f.pool f.claim ∈ u.dp.lane.tx ∧
      (u.dp.roleD f.pool).contest = some { claim := f.claim, acks := 2 ^ s.env.rank, lane := true, giver := some f.src.val } := by
  obtain ⟨u, d, hu, hd, hdp⟩ := authority_delivered h rfl rfl .none
  have hlane' : d.lane.usable = true := hd.lane.symm ▸ hlane
  obtain ⟨hcontest, htx⟩ := publish_contests s.env f.pool f.claim (some f.src.val) (.inl hlane')
  refine ⟨u, hu, ?_⟩
  rw [hdp, deliver_handover, onHandover_publishes _ ((hd.admitted _).trans ha) ((hd.stewardRank _).trans hs) hr
    ((hd.claimOf _).symm ▸ he)]
  exact ⟨htx hlane', hlane' ▸ hcontest⟩

end

/-! ### RING_EXIT (R286) -/

/-- A rank taken out of the ring is out of it. -/
theorem out_takeOut {e : Env} {r : Nat} {d : Dp} (h : r ≠ e.rank) : ((takeOut e r d).peer r).out = true := by
  unfold takeOut
  by_cases hout : (d.peer r).out = true
  · simp [hout]
  · rw [if_neg (by simp [h, hout])]
    dsimp only
    have hset (x : Dp) (t : Tab (Nat × List LinkTo)) (p : Tab Pair) :
        HeardAlike x { x with ring := { x.ring with topo := t, pairs := p } } := ⟨rfl, rfl⟩
    have hkept (x : Dp) : HeardAlike x (absentEverywhere e r (reroute e d x)) :=
      (heardAlike_reroute e x d).trans (.of_ring (absentEverywhere_ring ..))
    rw [((hset _ _ _).trans (hkept _)).peer, peer_setPeer, if_pos rfl]

theorem ringExit_takesOut {s : State} {f : Frame} (h : InOrder s .ringExit 3 f) (hr : f.arg % 16 ≠ s.env.rank) :
    ∃ u : State, exec (.ringExit f) s = .next u.work ∧ (u.dp.peer (f.arg % 16)).out = true := by
  obtain ⟨u, d, hu, -, hdp⟩ := authority_delivered h rfl rfl .none
  refine ⟨u, hu, ?_⟩
  rw [hdp, deliver_ringExit]
  exact out_takeOut hr

/-! ### Acknowledgements of claims (R243) and member-state records (R580) -/

/-- An acknowledgement that makes no quorum yet is counted. -/
theorem claimAck_counts {e : Env} {pool r : Nat} {d : Dp} {k : Contest} (hk : (d.roleD pool).contest = some k)
    (hlane : k.lane = false) (hfew : 2 * (maskList 16 (k.acks ||| 2 ^ r)).length ≤ (memberRanks d.sh.reg).length) :
    ((claimAck e pool r k.claim d).roleD pool).contest = some { k with acks := k.acks ||| 2 ^ r } := by
  unfold claimAck
  have hreg (x : PRole) : (d.setRole x).sh.reg = d.sh.reg := rfl
  simp only [hk, hlane, decide_true, Bool.not_false, Bool.and_self, if_true, hreg, Nat.not_lt.mpr hfew, if_false]
  rw [roleD_setRole, if_pos (pool_roleD d pool).symm]

theorem claimAck_counted {s : State} {f : Frame} {k : Contest} (h : InOrder s .control 3 f)
    (hk : (s.dp.roleD f.pool).contest = some k) (hc : k.claim = BitVec.ofNat 32 f.arg) (hlane : k.lane = false)
    (hfew : 2 * (maskList 16 (k.acks ||| 2 ^ f.src.val)).length ≤ (memberRanks s.dp.sh.reg).length) :
    ∃ u : State, exec (.claimAcknowledgement f) s = .next u.work ∧
      (u.dp.roleD f.pool).contest = some { k with acks := k.acks ||| 2 ^ f.src.val } := by
  obtain ⟨u, d, hu, hd, hdp⟩ := control_delivered (b := .claimAck) h
  refine ⟨u, hu, ?_⟩
  rw [hdp, show onControl s.env f .claimAck d = claimAck s.env f.pool f.src.val k.claim d by rw [hc]; rfl]
  exact claimAck_counts ((congrArg PRole.contest (hd.roleD _)).trans hk) hlane (hd.sh.symm ▸ hfew)

section
variable (e : Env) {f : Frame} {d : Dp}

theorem onView_member (ha : admitted d f.pool = true) (hs : isSteward d f.pool = false) (hc : d.claimOf f.pool ≤ f.claim)
    (hr : rankOf f.claim = f.src.val) (r : Nat) (m : MemberState) :
    onView e f (.member r m) d = takeView e f.pool (.member r m) d := by
  simp [onView, ha, hs, hr, BitVec.not_lt.mpr hc]

theorem onView_unadmitted (ha : admitted d f.pool = false) (v : ViewRec) : onView e f v d = d := by
  simp [onView, ha]

/-- A member-state record makes the view tell the state it carries (R580). -/
theorem memberState_takeView (pool r : Nat) (m : MemberState) (d : Dp) :
    memberState (takeView e pool (.member r m) d) pool r = m := by
  have hcause (x : Dp) (n : Nat) : (cause e n x).sh.view = x.sh.view := by
    obtain ⟨-, hsh, -⟩ := cause_frame e n x
    rw [hsh]
  have hlog (x : Dp) (code sev src : Nat) (a : List Nat) : (logE e code sev src a x).sh.view = x.sh.view := by
    rw [logE, logAt_sh]
  have hfilled (x : Dp) : (spareFilled e pool r x).sh.view = x.sh.view :=
    foldl_keeps (fun d : Dp => d.sh.view) (fun d (y : Nat × Nat × Nat) => hlog d _ _ _ _) _ _
  unfold takeView memberState
  dsimp only
  split
  · exact get_put_self ..
  · simp only [apply_ite Dp.sh, apply_ite Shoal.view, hcause, hfilled, hlog, ite_self, get_put_self]

end

theorem memberStateRecord_taken {s : State} {f : Frame} (r : Nat) (m : MemberState) (h : InOrder s .control 3 f)
    (ha : Accepts s f) (hs : isSteward s.dp f.pool = false) :
    ∃ u : State, exec (.memberStateRecord f (.member r m)) s = .next u.work ∧ memberState u.dp f.pool r = m := by
  obtain ⟨u, d, hu, hd, hdp⟩ := control_delivered (b := .view (.member r m)) h
  refine ⟨u, hu, ?_⟩
  rw [hdp, show onControl s.env f (.view (.member r m)) d = onView s.env f (.member r m) d from rfl,
    onView_member _ ((hd.admitted _).trans ha.admits) ((hd.isSteward _).trans hs) ((hd.claimOf _).symm ▸ ha.high) ha.sender]
  exact memberState_takeView ..

/-- Settles O22: each frame's delivery has its effect, and a frame that arrives in order is delivered. -/
theorem authorityFrames : Obligations.AuthorityFrames := by
  unfold Obligations.AuthorityFrames
  refine ⟨fun s f boot session flags l d h => next_authority rfl h rfl, fun e f boot session flags d => ?_, ?_,
    fun s f d h ha => next_authority rfl h (onClaim_unadmitted _ ha), fun d pool => refusal_counts pool d,
    fun s f d h hv hp => next_authority rfl h (onFenced_valid _ hv hp), ?_,
    fun s f d h ha hs hr he => next_authority rfl h (onHandover_publishes _ ha hs hr he),
    fun s f d h => next_authority rfl h rfl, fun s f d h => next_delivered (by decide) h rfl, ?_, ?_,
    fun s f ha => ⟨claim_raises ha, fenced_raises ha⟩, fun s f h ha hv hr hc => claim_refused h ha hv hr hc,
    fun s f ha hs => ⟨relinquish_remembered ha hs, handover_contests ha hs⟩, fun s f h hr => ringExit_takesOut h hr,
    fun s f k h hk hc hlane hfew => claimAck_counted h hk hc hlane hfew,
    fun s f r m h ha hs => memberStateRecord_taken r m h ha hs⟩
  · intro u
    rw [show u.peer f.src.val = _ from peer_onHeartbeat ..]
    exact ⟨rfl, rfl, rfl, rfl, sea_onHeartbeat_nil ..⟩
  · intro s f d h ha hv hr hp
    exact ⟨fun hc => next_authority rfl h (onClaim_accepted _ ha hv hr hp hc),
      fun hc => next_authority rfl h (onClaim_lower _ ha hv hr hc)⟩
  · intro s f d h ha
    refine ⟨fun hs => ⟨_, next_authority rfl h (onRelinquish_steward (d := d) _ ha hs) (g := fun e _ => _),
      mem_addNew .., rfl, rfl⟩,
      fun hs => next_authority rfl h (g := fun _ _ => d) (onRelinquish_other _ hs)⟩
  · intro s f v d h
    refine ⟨fun ha hs hc hr r m hv => ?_, fun ha => ?_⟩
    · subst hv
      exact next_delivered (by decide) h (onView_member _ ha hs hc hr r m)
    · refine (next_delivered (by decide) h (g := fun _ _ => d) (onView_unadmitted _ ha v))
  · intro s f boot session flags l h hs hb
    obtain ⟨u, d, hu, hp⟩ := heartbeat_heard (flags := flags) (l := l) h hs hb
    exact ⟨u, hu, by rw [hp]; exact ⟨rfl, rfl, rfl, rfl, rfl⟩⟩

end Sys2Proof.Proofs

/-! # A contest that a higher claim forbids (R242) -/

namespace Sys2Proof.Proofs

open Sys2Proof.Machine Sys2Proof.Laws

/-- A lone device, 1 s after READY, that has no part in pool 0, has not been admitted to it, and has heard that rank 1 stewards it
under epoch 2 (R252); its own Seawall entry is still 0, from which it would form epoch 1. -/
def outclaimed : State :=
  { State.reset with
    clk := { State.reset.clk with time := 1000000000 }
    pwr := { Pwr.reset with state := .flood }
    boot := { Boot.reset with fw := true, ready := true, settled := true }
    dp := { Dp.reset with sh := { Shoal.reset with steward := [(0, 0x201)] } } }

/-- The next state has no claim queued for the lane. -/
def lanesQuiet : Host.Outcome State Fault Refusal → Bool
  | .next t => t.dp.lane.tx.isEmpty
  | _ => false

theorem outclaimed_contest_quiet : lanesQuiet (exec (.contest 0) outclaimed) = true := by decide +kernel

theorem outclaimed_publish_loud :
    lanesQuiet (.next (outclaimed.onDp (fun e => publish e 0 0x100 none)).work) = false := by decide +kernel

/-- Refutes O28, by its clause on a contest, which leaves out R242's fifth condition: on `outclaimed` the four that `mayContend`
names hold, a higher claim than the one it would form has been heard, and CONTEST publishes none. -/
theorem not_roleTimers : ¬ Obligations.RoleTimers := by
  unfold Obligations.RoleTimers
  rintro ⟨-, -, -, hcontest, -⟩
  obtain ⟨hpublished, -⟩ := hcontest outclaimed 0 (Registry.reset.pools.head (by decide)) 0x100 (by decide) (by decide) rfl
    (by decide)
  have hquiet := outclaimed_contest_quiet
  rw [hpublished, outclaimed_publish_loud] at hquiet
  exact Bool.false_ne_true hquiet

end Sys2Proof.Proofs

/-! # A DRAM channel trained again at the end of Ebb (R473, R506) -/

namespace Sys2Proof.Proofs

open Sys2Proof.Machine Sys2Proof.Laws

/-- A device in Ebb that has noted a wake byte; its DRAM channel 0 has drifted by 3/64 UI since training. -/
def drifted : State :=
  { State.reset with
    pwr := { Pwr.reset with state := .ebb, porHeld := false, wakes := [.wakeByte] }
    dram := { State.reset.dram with chans := State.reset.dram.chans.put 0 { DChan.reset with trained := true, drift64 := 3 } } }

/-- Nothing is wrong at the exit but that channel 0 fails its pattern check; training it again passes at no point. -/
def channelZeroFails : StartFacts :=
  { saggarBad := false, keyBad := false, bedrockBad := false, imageAOk := true, imageBOk := true, tagBad := false, badBanks := [],
    badEngines := [], badEncoders := [], crystal := true,
    dramRetrain := [(0, { rate := 3200, ca := 0, read := [], write := [] })] }

/-- The drift of DRAM channel 0 in the next state. -/
def driftOfChannelZero : Host.Outcome State Fault Refusal → Option Nat
  | .next t => some (t.dram.chan 0).drift64
  | _ => none

/-- The state the obligation names for an exit without a core start. -/
def resumedOnly (s : State) : State :=
  resumeCore (enterState .starting (addGap { s with pwr := { s.pwr with wakes := [], tripped := false } }))

theorem drifted_exit_retrains :
    driftOfChannelZero (exec (.ebbExit .wakeByte true channelZeroFails) drifted) = some 0 := by decide +kernel

theorem drifted_resume_keeps_drift : driftOfChannelZero (.next (resumedOnly drifted)) = some 3 := by decide +kernel

/-- Refutes O42, by its clause on the end of Ebb, which leaves out R473's training of a channel whose pattern check fails: on
`drifted` the exit with `channelZeroFails` trains channel 0 again, so its drift is 0, and resuming alone leaves it 3. -/
theorem not_powerStatesAndSagTests : ¬ Obligations.PowerStatesAndSagTests := by
  unfold Obligations.PowerStatesAndSagTests
  rintro ⟨-, -, -, -, -, -, -, -, -, hexit, -, -⟩
  obtain ⟨-, huntripped, -⟩ := hexit drifted .wakeByte true channelZeroFails rfl rfl
  have hresumed : exec (.ebbExit .wakeByte true channelZeroFails) drifted = .next (resumedOnly drifted) :=
    huntripped (by decide) rfl (by decide)
  have hdrift := drifted_exit_retrains
  rw [hresumed, drifted_resume_keeps_drift] at hdrift
  exact absurd hdrift (by decide)

end Sys2Proof.Proofs

/-! # Frames in order, once each, at their receiver (R275 to R283, R529) -/

namespace Sys2Proof.Proofs

open Sys2Proof.Machine Sys2Proof.Laws

/-! ## Streams that sending and the links leave alone -/

@[simp] theorem setLink_pairs (d : Dp) (p : CwPort) (l : CwLink) : (d.setLink p l).ring.pairs = d.ring.pairs := by
  cases p <;> rfl

@[simp] theorem rxOn_pairs (p : CwPort) (d : Dp) : (rxOn p d).ring.pairs = d.ring.pairs := setLink_pairs ..

@[simp] theorem sendOn_pairs (now : Nat) (p : CwPort) (o : Output) (d : Dp) :
    (sendOn now p o d).ring.pairs = d.ring.pairs := by
  unfold sendOn
  dsimp only
  split
  · split
    · simp [transmit]
    · simp
  · rfl

@[simp] theorem rxBad_pairs (now : Nat) (p : CwPort) (d : Dp) : (rxBad now p d).ring.pairs = d.ring.pairs := by
  unfold rxBad sendLink
  dsimp only
  split
  · rfl
  · simp

@[simp] theorem malformed_pairs (e : Env) (f : Frame) (code : Nat) (d : Dp) :
    (malformed e f code d).ring.pairs = d.ring.pairs := by
  simp [malformed, logE]

/-- A frame without a PAIR_SEQ of its own enters no stream (R276). -/
theorem send_pairs_of_unpaired (e : Env) {t : FrameType} (ht : t.paired = false) (bulk : Nat) (f : Frame) (b : FrameBody)
    (d : Dp) : (send e t bulk f b d).ring.pairs = d.ring.pairs := by
  have hbusy : (if 1 ≤ t.cls bulk && f.dst.val != e.rank then { d with ring := { d.ring with busyAt := e.now } }
      else d).ring.pairs = d.ring.pairs := by split <;> rfl
  refine Eq.trans ?_ hbusy
  unfold send
  dsimp only
  generalize (if 1 ≤ t.cls bulk && f.dst.val != e.rank then { d with ring := { d.ring with busyAt := e.now } } else d) = d₁
  split
  · rfl
  · split
    · rfl
    · simp only [ht, Bool.false_eq_true, if_false]
      split
      · exact sendOn_pairs ..
      · rfl

theorem pair_congr {d d' : Dp} (h : d'.ring.pairs = d.ring.pairs) (r c : Nat) : d'.pair r c = d.pair r c := by
  unfold Dp.pair
  rw [h]

@[simp] theorem pair_sendNak (e : Env) (r c k i : Nat) (d : Dp) : (sendNak e r c d).pair k i = d.pair k i :=
  pair_congr (send_pairs_of_unpaired e rfl ..) k i

/-- An acknowledgement sent notes that nothing of the stream is left to acknowledge, and when (R280). -/
theorem pair_sendAck (e : Env) (r c : Nat) (d : Dp) :
    (sendAck e r c d).pair r c = { d.pair r c with sinceAck := 0, ackAt := e.now } := by
  unfold sendAck
  rw [pair_congr (send_pairs_of_unpaired e rfl ..), pair_setPair]

/-- What a stream awaits and what it holds behind a gap, whether or not an acknowledgement goes out. -/
theorem awaits_sendAck_ite (e : Env) (q : Prop) [Decidable q] (r c : Nat) (d : Dp) :
    ((if q then sendAck e r c d else d).pair r c).rxNext = (d.pair r c).rxNext ∧
    ((if q then sendAck e r c d else d).pair r c).held = (d.pair r c).held := by
  split
  · rw [pair_sendAck]
    exact ⟨rfl, rfl⟩
  · exact ⟨rfl, rfl⟩

/-- Frames sent again are timed anew (R281). -/
theorem txAt_resend (e : Env) (r c start : Nat) (d : Dp) : ((resend e r c start d).pair r c).txAt = e.now := by
  have hset : ((d.setPair r c { d.pair r c with txAt := e.now }).pair r c).txAt = e.now := by rw [pair_setPair]
  unfold resend
  dsimp only
  split
  · exact hset
  · refine (congrArg Pair.txAt (pair_congr ?_ r c)).trans hset
    rw [count_ring]
    exact foldl_keeps (fun d => d.ring.pairs) (fun d _ => sendOn_pairs ..) _ _

/-! ## A frame enters its stream (R279, R280) -/

section
variable (e : Env) (t : FrameType) (f : Frame) (b : FrameBody) (d : Dp)

/-- A frame whose PAIR_SEQ was delivered before is delivered no more, and the stream awaits what it awaited. -/
theorem sequenceIn_old (h : 2 ^ 31 ≤ ahead f.pairSeq (d.pair f.src.val f.cls).rxNext) :
    ∃ d', sequenceIn e t f b d = (d', []) ∧
      (d'.pair f.src.val f.cls).rxNext = (d.pair f.src.val f.cls).rxNext := by
  obtain ⟨hrx, -⟩ := pair_ackPair f.src.val f.cls f.pairAck d
  unfold sequenceIn
  dsimp only
  rw [hrx, if_pos h]
  exact ⟨_, rfl, (awaits_sendAck_ite ..).1.trans hrx⟩

/-- A frame 256 or more past the next is not kept, and the stream awaits what it awaited. -/
theorem sequenceIn_far (h : 256 ≤ ahead f.pairSeq (d.pair f.src.val f.cls).rxNext) :
    ∃ d', sequenceIn e t f b d = (d', []) ∧
      (d'.pair f.src.val f.cls).rxNext = (d.pair f.src.val f.cls).rxNext := by
  by_cases hold : 2 ^ 31 ≤ ahead f.pairSeq (d.pair f.src.val f.cls).rxNext
  · exact sequenceIn_old e t f b d hold
  · obtain ⟨hrx, -⟩ := pair_ackPair f.src.val f.cls f.pairAck d
    unfold sequenceIn
    dsimp only
    rw [hrx, if_neg hold, if_pos h]
    exact ⟨_, rfl, (congrArg Pair.rxNext (pair_sendNak ..)).trans hrx⟩

/-- A frame past a gap waits behind it, the stream awaits what it awaited, and the gap's time is noted. -/
theorem sequenceIn_gap (hpos : 0 < ahead f.pairSeq (d.pair f.src.val f.cls).rxNext)
    (hnear : ahead f.pairSeq (d.pair f.src.val f.cls).rxNext < 256) :
    ∃ d', sequenceIn e t f b d = (d', []) ∧
      (d'.pair f.src.val f.cls).rxNext = (d.pair f.src.val f.cls).rxNext ∧
      (d'.pair f.src.val f.cls).gapAt ≠ none ∧
      ∃ y ∈ (d'.pair f.src.val f.cls).held, y.2.1.pairSeq = f.pairSeq := by
  obtain ⟨hrx, -⟩ := pair_ackPair f.src.val f.cls f.pairAck d
  unfold sequenceIn
  dsimp only
  rw [hrx, if_neg (by omega), if_neg (by omega), if_neg (by omega)]
  refine ⟨_, rfl, ?_⟩
  rw [pair_setPair]
  refine ⟨rfl, Option.some_ne_none _, ?_⟩
  dsimp only
  split
  · next hany => simpa using hany
  · exact ⟨(t, f, b), List.mem_append_right _ (List.mem_singleton_self _), rfl⟩

/-- The next frame of a stream without a gap is taken alone: the stream moves on by one with nothing held, and what is
heard of the ranks stands. -/
theorem sequenceIn_moves_on (hnext : f.pairSeq = (d.pair f.src.val f.cls).rxNext)
    (halone : (d.pair f.src.val f.cls).held = []) :
    ∃ d', sequenceIn e t f b d = (d', [(t, f, b)]) ∧ (d'.pair f.src.val f.cls).rxNext = f.pairSeq + 1 ∧
      (d'.pair f.src.val f.cls).held = [] ∧ HeardAlike d d' := by
  obtain ⟨hrx, hheld⟩ := pair_ackPair f.src.val f.cls f.pairAck d
  have hsend (q : Prop) [Decidable q] (r c : Nat) (x : Dp) : HeardAlike x (if q then sendAck e r c x else x) :=
    .ite ((heardAlike_setPair ..).trans (heardAlike_send ..)) (.refl x)
  have hack : HeardAlike d (ackPair f.src.val f.cls f.pairAck d) := heardAlike_setPair ..
  unfold sequenceIn
  dsimp only
  rw [hrx, hheld, ← hnext, ahead_self, if_neg (by decide), if_neg (by decide), if_pos rfl, halone]
  refine ⟨_, rfl, ?_, ?_, hack.trans ((heardAlike_setPair ..).trans (hsend ..))⟩
  · rw [(awaits_sendAck_ite ..).1, pair_setPair]
    rfl
  · rw [(awaits_sendAck_ite ..).2, pair_setPair]
    rfl

end

/-! ## A frame arrives (R275, R276, R278, R283, R529) -/

/-- The data path once a good frame of another device has been taken off its link. -/
def takenOff (e : Env) (f : Frame) (d : Dp) : Dp :=
  if 1 ≤ f.cls then { rxOn f.port d with ring := { (rxOn f.port d).ring with busyAt := e.now } } else rxOn f.port d

@[simp] theorem takenOff_pairs (e : Env) (f : Frame) (d : Dp) : (takenOff e f d).ring.pairs = d.ring.pairs := by
  unfold takenOff
  split <;> exact rxOn_pairs ..

theorem pair_takenOff (e : Env) (f : Frame) (d : Dp) (r c : Nat) : (takenOff e f d).pair r c = d.pair r c :=
  pair_congr (takenOff_pairs ..) r c

theorem heardAlike_takenOff (e : Env) (f : Frame) (d : Dp) : HeardAlike d (takenOff e f d) :=
  .ite ((heardAlike_setLink ..).trans ⟨rfl, rfl⟩) (heardAlike_setLink ..)

/-- A frame reaches this device from another one: the ring is open, and the frame is for this rank and of another. -/
structure Arrives (e : Env) (f : Frame) (d : Dp) : Prop where
  here   : f.dst.val = e.rank
  away   : f.src.val ≠ e.rank
  opened : ringOpen e d = true

section
variable {e : Env} {t : FrameType} {bulk : Nat} {f : Frame} {b : FrameBody} {d : Dp}

theorem arrive_elsewhere (h : f.dst.val ≠ e.rank) : arrive e t bulk f b d = (d, []) := by
  simp [arrive, h]

theorem arrive_own (hdst : f.dst.val = e.rank) (hsrc : f.src.val = e.rank) (hopen : ringOpen e d = true) :
    arrive e t bulk f b d = (d, [(t, f, b)]) := by
  simp [arrive, hdst, hsrc, hopen]

theorem arrive_bad (h : Arrives e f d) (hlink : f.linkOk = false) : arrive e t bulk f b d = (rxBad e.now f.port d, []) := by
  simp [arrive, h.here, h.away, h.opened, hlink]

/-- A frame that came good over its link is dropped or taken by its class, its CRC, READY and its session, in this order. -/
theorem arrive_whole (h : Arrives e f d) (hlink : f.linkOk = true) : arrive e t bulk f b d =
    if f.cls != t.cls bulk then (malformed e f t.code (takenOff e f d), [])
    else if !f.crcOk then (takenOff e f d, [])
    else if 1 ≤ f.cls && !e.ready then (takenOff e f d, [])
    else if f.session != (d.peer f.src.val).session.toNat % 256 then (takenOff e f d, [])
    else if !t.paired then (takenOff e f d, [(t, f, b)])
    else sequenceIn e t f b (takenOff e f d) := by
  unfold arrive
  rw [← (heardAlike_takenOff e f d).peer]
  simp only [h.here, h.away, h.opened, hlink, bne_self_eq_false, Bool.not_true, Bool.or_self, Bool.false_eq_true, if_false]
  rfl

/-- A frame that may be taken: good, of its type's class, served now, and under the session known of its sender. -/
structure Takes (e : Env) (t : FrameType) (bulk : Nat) (f : Frame) (d : Dp) : Prop where
  cls     : f.cls = t.cls bulk
  whole   : f.linkOk = true
  good    : f.crcOk = true
  served  : f.cls = 0 ∨ e.ready = true
  session : f.session = (d.peer f.src.val).session.toNat % 256

theorem arrive_takes (h : Arrives e f d) (hk : Takes e t bulk f d) : arrive e t bulk f b d =
    if !t.paired then (takenOff e f d, [(t, f, b)]) else sequenceIn e t f b (takenOff e f d) := by
  have hserved : (1 ≤ f.cls && !e.ready) = false := by
    rcases hk.served with h0 | h1
    · simp [h0]
    · simp [h1]
  rw [arrive_whole h hk.whole, if_neg (by simp [hk.cls]), if_neg (by simp [hk.good]), if_neg (by simp [hserved]),
    if_neg (by simp [← hk.session])]

theorem arrive_paired (h : Arrives e f d) (hk : Takes e t bulk f d) (hp : t.paired = true) :
    arrive e t bulk f b d = sequenceIn e t f b (takenOff e f d) := by
  rw [arrive_takes h hk, if_neg (by simp [hp])]

theorem arrive_unpaired (h : Arrives e f d) (hk : Takes e t bulk f d) (hp : t.paired = false) :
    arrive e t bulk f b d = (takenOff e f d, [(t, f, b)]) := by
  rw [arrive_takes h hk, if_pos (by simp [hp])]

/-- A frame of the wrong class, bad over its link or by its CRC, before READY or of another session is not delivered, and
every stream stands as it was. -/
theorem arrive_dropped (h : Arrives e f d)
    (hbad : f.cls ≠ t.cls bulk ∨ f.linkOk = false ∨ f.crcOk = false ∨ (1 ≤ f.cls ∧ e.ready = false) ∨
      f.session ≠ (d.peer f.src.val).session.toNat % 256) :
    (arrive e t bulk f b d).2 = [] ∧ (arrive e t bulk f b d).1.ring.pairs = d.ring.pairs := by
  cases hlink : f.linkOk with
  | false =>
    rw [arrive_bad h hlink]
    exact ⟨rfl, rxBad_pairs ..⟩
  | true =>
    rw [arrive_whole h hlink]
    split
    · exact ⟨rfl, (malformed_pairs ..).trans (takenOff_pairs ..)⟩
    · split
      · exact ⟨rfl, takenOff_pairs ..⟩
      · split
        · exact ⟨rfl, takenOff_pairs ..⟩
        · split
          · exact ⟨rfl, takenOff_pairs ..⟩
          · next hcls hcrc hserved hses =>
            exact absurd hbad (by simp_all)

section
variable (h : Arrives e f d) (hk : Takes e t bulk f d) (hp : t.paired = true)
include h hk hp

/-- The next frame of a stream without a gap is delivered alone: the stream moves on by one with nothing held, and what
is heard of the ranks stands (R279). -/
theorem arrive_next (hnext : f.pairSeq = (d.pair f.src.val f.cls).rxNext) (halone : (d.pair f.src.val f.cls).held = []) :
    ∃ d', arrive e t bulk f b d = (d', [(t, f, b)]) ∧ (d'.pair f.src.val f.cls).rxNext = f.pairSeq + 1 ∧
      (d'.pair f.src.val f.cls).held = [] ∧ HeardAlike d d' := by
  rw [← pair_takenOff e f d] at hnext halone
  obtain ⟨d', hseq, hrx, hheld, halike⟩ := sequenceIn_moves_on e t f b _ hnext halone
  exact ⟨d', (arrive_paired h hk hp).trans hseq, hrx, hheld, (heardAlike_takenOff e f d).trans halike⟩

/-- A duplicate is not delivered (R279). -/
theorem arrive_old (hold : 2 ^ 31 ≤ ahead f.pairSeq (d.pair f.src.val f.cls).rxNext) :
    ∃ d', arrive e t bulk f b d = (d', []) ∧ (d'.pair f.src.val f.cls).rxNext = (d.pair f.src.val f.cls).rxNext := by
  rw [← pair_takenOff e f d] at hold ⊢
  rw [arrive_paired h hk hp]
  exact sequenceIn_old e t f b _ hold

/-- A frame far past a gap is not delivered (R280). -/
theorem arrive_far (hfar : 256 ≤ ahead f.pairSeq (d.pair f.src.val f.cls).rxNext) :
    ∃ d', arrive e t bulk f b d = (d', []) ∧ (d'.pair f.src.val f.cls).rxNext = (d.pair f.src.val f.cls).rxNext := by
  rw [← pair_takenOff e f d] at hfar ⊢
  rw [arrive_paired h hk hp]
  exact sequenceIn_far e t f b _ hfar

/-- A frame past a gap is held behind it (R280). -/
theorem arrive_gap (hpos : 0 < ahead f.pairSeq (d.pair f.src.val f.cls).rxNext)
    (hnear : ahead f.pairSeq (d.pair f.src.val f.cls).rxNext < 256) :
    ∃ d', arrive e t bulk f b d = (d', []) ∧ (d'.pair f.src.val f.cls).rxNext = (d.pair f.src.val f.cls).rxNext ∧
      (d'.pair f.src.val f.cls).gapAt ≠ none ∧ ∃ y ∈ (d'.pair f.src.val f.cls).held, y.2.1.pairSeq = f.pairSeq := by
  rw [← pair_takenOff e f d] at hpos hnear ⊢
  rw [arrive_paired h hk hp]
  exact sequenceIn_gap e t f b _ hpos hnear

end

end

/-! ## Commands of frames (R279, R281) -/

section
variable {s : State} {t : FrameType} {bulk : Nat} {f : Frame}

theorem arrives_of_inOrder (h : InOrder s t bulk f) : Arrives s.env f s.dp := ⟨h.here, h.away, h.opened⟩

theorem takes_of_inOrder (h : InOrder s t bulk f) : Takes s.env t bulk f s.dp :=
  ⟨h.cls, h.whole, h.good, h.served, h.session⟩

/-- A frame that arrives in order is delivered alone; everything but the outputs and the ring's records stands, and so does
what is heard of the ranks, and its stream then awaits the next one. -/
theorem reaches_next (h : InOrder s t bulk f) (hp : t.paired = true) (b : FrameBody) :
    ∃ d, Reaches t bulk f b s d ∧ SameButRing s.dp d ∧ HeardAlike s.dp d ∧
      (d.pair f.src.val f.cls).rxNext = f.pairSeq + 1 := by
  obtain ⟨d, hreach, hsame⟩ := reaches_of_ordered h hp b
  obtain ⟨d', hreach', hrx, -, halike⟩ := arrive_next (b := b) (arrives_of_inOrder h) (takes_of_inOrder h) hp h.next h.alone
  obtain rfl : d = d' := congrArg Prod.fst (hreach.symm.trans hreach')
  exact ⟨d, hreach, hsame, halike, hrx⟩

variable {d : Dp}

/-- E2E_ACK frees the frames below its PAIR_ACK in the class that ARG names. -/
theorem exec_e2eAck_reaches (h : Reaches .e2eAck 3 f .none s d) :
    exec (.e2eAck f) s = .next (s.onDp (fun _ _ => ackPair f.src.val (f.arg % 8) f.pairAck d)).work := by
  rw [exec_e2eAck, execE2eAck]
  refine congrArg (fun x : State => (Host.Outcome.next x.work : Host.Outcome State Fault Refusal)) (onDp_congr ?_)
  simp only [show arrive s.env .e2eAck 3 f .none s.dp = _ from h, List.foldl_cons, List.foldl_nil]

/-- E2E_NAK has the frames of the class that ARG names sent again from the one that is lacking. -/
theorem exec_e2eNak_reaches (h : Reaches .e2eNak 3 f .none s d) :
    exec (.e2eNak f) s = .next (s.onDp (fun e _ => resend e f.src.val (f.arg / 2 ^ 32 % 8) (f.arg % 2 ^ 32) d)) := by
  rw [exec_e2eNak, execE2eNak]
  refine congrArg Host.Outcome.next (onDp_congr ?_)
  simp only [show arrive s.env .e2eNak 3 f .none s.dp = _ from h, List.foldl_cons, List.foldl_nil]

theorem unacked_ackPair (r c ack : Nat) (d : Dp) : ((ackPair r c ack d).pair r c).unacked =
    (d.pair r c).unacked.filter (fun x => ahead x.2.1.pairSeq ack < 2 ^ 31) := by
  unfold ackPair
  rw [pair_setPair]

end

/-- Settles O21: the effect of an arrival in each case of `arrive` and `sequenceIn`. -/
theorem framesArriveInOrderOnce : Obligations.FramesArriveInOrderOnce := by
  unfold Obligations.FramesArriveInOrderOnce
  refine ⟨fun e t bulk f b d hdst hsrc hopen => ?_, fun e t bulk f b d => arrive_elsewhere,
    fun e t bulk f b d => arrive_own, fun s f d h => ?_, fun s f d => exec_e2eNak_reaches, fun s t bulk f b h hp => ?_,
    fun s f hdst hsrc hopen hlink hcrc hcls hready hses => ?_⟩
  · have ha : Arrives e f d := ⟨hdst, hsrc, hopen⟩
    refine ⟨fun hcls hlink hcrc hserved hses hp => ?_, arrive_dropped ha, arrive_bad ha⟩
    have hk : Takes e t bulk f d := ⟨hcls, hlink, hcrc, hserved, hses⟩
    refine ⟨fun hnext halone => ?_, fun hold => ?_, fun hpos hnear => ?_, fun hfar => ?_⟩
    · obtain ⟨d', hx, hrx, hheld, -⟩ := arrive_next (b := b) ha hk hp hnext halone
      rw [hx]
      exact ⟨rfl, hrx, hheld⟩
    · obtain ⟨d', hx, hrx⟩ := arrive_old (b := b) ha hk hp hold
      rw [hx]
      exact ⟨rfl, hrx⟩
    · obtain ⟨d', hx, hheld⟩ := arrive_gap (b := b) ha hk hp hpos hnear
      rw [hx]
      exact ⟨rfl, hheld⟩
    · obtain ⟨d', hx, hrx⟩ := arrive_far (b := b) ha hk hp hfar
      rw [hx]
      exact ⟨rfl, hrx⟩
  · refine ⟨_, exec_e2eAck_reaches h, fun x hx => ?_⟩
    rw [onDp_dp, unacked_ackPair] at hx
    exact of_decide_eq_true (List.mem_filter.mp hx).2
  · obtain ⟨d, hreach, ⟨io, ring, rfl⟩, halike, hrx⟩ := reaches_next h hp b
    exact ⟨_, hreach, rfl, rfl, rfl, rfl, rfl, rfl, rfl, rfl, halike.peers, hrx⟩
  · have ha : Arrives s.env f s.dp := ⟨hdst, hsrc, hopen⟩
    have hk (t : FrameType) (ht : f.cls = t.cls 3) : Takes s.env t 3 f s.dp := ⟨ht, hlink, hcrc, .inr hready, hses⟩
    refine ⟨⟨_, exec_e2eAck_reaches (arrive_unpaired ha (hk .e2eAck hcls) rfl), ?_⟩, fun p n _ =>
      ⟨_, exec_e2eNak_reaches (arrive_unpaired ha (hk .e2eNak hcls) rfl), txAt_resend ..⟩⟩
    rw [onDp_dp, unacked_ackPair, pair_takenOff]

end Sys2Proof.Proofs

/-! # A transit frame that waits for its window (R285, R420) -/

namespace Sys2Proof.Proofs

open Sys2Proof.Machine Sys2Proof.Laws

/-- A frame past the window's share puts nothing out. -/
theorem sendOn_io_of_full (now : Nat) {p : CwPort} {o : Output} {d : Dp} (h : bulkRoom (d.act 1) (d.link p) o = false) :
    (sendOn now p o d).io = d.io := by
  unfold sendOn
  simp only [h, Bool.and_false, Bool.false_and, Bool.false_eq_true, if_false]
  split
  · exact setLink_io ..
  · rfl

/-- Port NE leads to rank 1, and Z1, at half its activity, has had its share of the window: 5,000,000 bytes of classes 3
and 4 over eight lanes. The port's replay buffer is empty and no frame waits. -/
def shareSpentNoneWaits : State :=
  { bulkShareSpent with
    dp := bulkShareSpent.dp.setLink .ne { bulkShareSpent.dp.link .ne with partner := some 1, replay := [], txq := [] } }

/-- A class 4 frame from rank 3 to rank 1, good and two hops on its way. -/
def bulkTransit : Frame :=
  { cls := 4, src := 3, dst := 1, pool := 0, claim := 0, pairSeq := 0, pairAck := 0, session := 0, replayed := false,
    ackNow := false, hops := 2, seqn := 0, row := 0, posFirst := 0, posLast := 0, unit := 0, arg := 0, port := .nw,
    crcOk := true }

/-- Refutes O25, by the last part of its clause on transit frames: on `shareSpentNoneWaits` the port is up, its replay
buffer has room and no frame waits, but a frame of class 4 stays for the next window, Z1's share of this one being spent (R420). -/
theorem not_linksTrainAndFail : ¬ Obligations.LinksTrainAndFail := by
  unfold Obligations.LinksTrainAndFail
  rintro ⟨-, -, -, -, -, -, -, -, -, htransit⟩
  obtain ⟨-, -, hforward⟩ := htransit shareSpentNoneWaits bulkTransit .ne 1 (by decide) (by decide)
  obtain ⟨hexec, hout⟩ := hforward rfl (by decide) (by decide)
  obtain ⟨t, ht, hleft⟩ := hout rfl (by decide) rfl
  rw [hexec] at ht
  cases ht
  have hfull : bulkRoom ((rxOn bulkTransit.port shareSpentNoneWaits.dp).act 1)
      ((rxOn bulkTransit.port shareSpentNoneWaits.dp).link .ne)
      (.link .ne (.forward { bulkTransit with hops := bulkTransit.hops + 1, port := .ne })) = false := by decide
  rw [onDp_dp, dp_stayAwake, sendOn_io_of_full _ hfull] at hleft
  exact List.cons_ne_nil _ _ (List.self_eq_append_right.mp hleft)

end Sys2Proof.Proofs

/-! # Causes and the device vector's message (R304, R323, R328) -/

namespace Sys2Proof.Proofs

open Sys2Proof.Machine Sys2Proof.Laws

/-! ## Vectors -/

/-- The port may send a vector's message: memory requests may go out, it is in D0, and the vector is unmasked. -/
def MaySend (e : Env) (p : PortId) (v : Nat) (d : Dp) : Prop :=
  dmaOk e d p = true ∧ (d.port p).d3 = false ∧ v ∈ (d.port p).unmasked

section
variable {e : Env} {p : PortId} {v : Nat} {d : Dp}

theorem msix_of_disabled (hoff : ¬ (d.port p).msixEnable = true) : msix e p v d = d := if_neg hoff

/-- The message goes out where the port may send it. -/
theorem msix_of_maySend (hon : (d.port p).msixEnable = true) (hmay : MaySend e p v d) :
    msix e p v d = put (.msix p v) d := by
  obtain ⟨hdma, hd0, hopen⟩ := hmay
  simp [msix, hon, hdma, hd0, hopen]

/-- Where the port may not send it, the message is pending. -/
theorem msix_of_barred (hon : (d.port p).msixEnable = true) (hbar : ¬ MaySend e p v d) :
    msix e p v d = d.onPort p (fun h => { h with pba := addNew v h.pba }) := by
  have hshut : ¬ (dmaOk e d p && !(d.port p).d3 && (d.port p).unmasked.contains v) = true := by
    simpa [MaySend, and_assoc] using hbar
  exact (if_pos hon).trans (if_neg hshut)

/-! ## A cause that is raised (R304) -/

/-- A cause would go from 0 to 1 unmasked while the device vector and MSI-X are enabled. -/
def Rises (bit : Nat) (h : HostPort) : Prop :=
  h.evtCause.getLsbD bit = false ∧ h.evtMask.getLsbD bit = false ∧ h.devVecEn = true ∧ h.msixEnable = true

theorem maySend_withCause (bit : Nat) : MaySend e p v (d.onPort p (withCause bit)) ↔ MaySend e p v d := by
  simp [MaySend, dmaOk, withCause]

variable (e) (bit : Nat) (hfit : (d.port p).fitted = true)
include hfit

/-- A cause that rises signals the device vector. -/
theorem causePort_of_rises (hrise : Rises bit (d.port p)) :
    causePort e bit p d = msix e p devVector (d.onPort p (withCause bit)) := by
  obtain ⟨hlow, hopen, hvec, -⟩ := hrise
  simp [causePort, hfit, hlow, hopen, hvec, withCause, Dp.onPort]

/-- A cause that does not rise sets its bit and does nothing else. -/
theorem causePort_of_not_rises (hrise : ¬ Rises bit (d.port p)) :
    causePort e bit p d = d.onPort p (withCause bit) := by
  by_cases hon : (d.port p).msixEnable = true
  · have hlow : ¬ (!(d.port p).evtCause.getLsbD bit && !(d.port p).evtMask.getLsbD bit && (d.port p).devVecEn) = true := by
      simpa [Rises, hon, and_assoc] using hrise
    exact (if_pos hfit).trans (if_neg hlow)
  · rcases causePort_fitted e bit p d hfit with heq | heq
    · exact heq
    · rw [heq, msix_of_disabled (by simpa [withCause] using hon)]

/-- What a cause does to a fitted port: its bit, its pending bits and the message put out; nothing else changes. -/
theorem causePort_effect : ∃ (pba : List Nat) (out : List Output),
    causePort e bit p d =
      { d.onPort p (fun h => withCause bit { h with pba := pba }) with io := { d.io with out := d.io.out ++ out } } ∧
    (Rises bit (d.port p) → MaySend e p devVector d → out = [.msix p devVector] ∧ pba = (d.port p).pba) ∧
    (Rises bit (d.port p) → ¬ MaySend e p devVector d → out = [] ∧ devVector ∈ pba) ∧
    (¬ Rises bit (d.port p) → out = [] ∧ pba = (d.port p).pba) := by
  by_cases hrise : Rises bit (d.port p)
  · have hon : ((d.onPort p (withCause bit)).port p).msixEnable = true := by
      obtain ⟨-, -, -, hon⟩ := hrise
      rw [port_onPort]
      exact hon
    rw [causePort_of_rises e bit hfit hrise]
    by_cases hmay : MaySend e p devVector d
    · refine ⟨(d.port p).pba, [.msix p devVector], ?_, fun _ _ => ⟨rfl, rfl⟩, fun _ h => absurd hmay h, absurd hrise⟩
      rw [msix_of_maySend hon ((maySend_withCause bit).mpr hmay)]
      cases p <;> rfl
    · refine ⟨addNew devVector (d.port p).pba, [], ?_, fun _ h => absurd h hmay, fun _ _ => ⟨rfl, mem_addNew _ _⟩,
        absurd hrise⟩
      rw [msix_of_barred hon (mt (maySend_withCause bit).mp hmay), List.append_nil]
      cases p <;> rfl
  · refine ⟨(d.port p).pba, [], ?_, (absurd · hrise), (absurd · hrise), fun _ => ⟨rfl, rfl⟩⟩
    rw [causePort_of_not_rises e bit hfit hrise, List.append_nil]
    cases p <;> rfl

end

theorem getLsbD_withCause (bit i : Nat) (h : HostPort) (hi : i < 16) :
    (withCause bit h).evtCause.getLsbD i = (h.evtCause.getLsbD i || i == bit) := by
  simp [withCause, hi, beq_eq_decide, eq_comm]

/-- Settles O59: what a cause does to a fitted port by `causePort_effect`; one that is not fitted it leaves. -/
theorem causesSignalTheDeviceVector : Obligations.CausesSignalTheDeviceVector := by
  unfold Obligations.CausesSignalTheDeviceVector
  refine ⟨fun e b p d hb hfit => ?_, fun e b p d hfit => causePort_unfitted e b p d (by simp [hfit])⟩
  obtain ⟨pba, out, heq, hsent, hheld, hquiet⟩ := causePort_effect e b hfit
  dsimp only
  rw [heq]
  have hport : ({ d.onPort p (fun h => withCause b { h with pba := pba }) with
      io := { d.io with out := d.io.out ++ out } } : Dp).port p = withCause b { d.port p with pba := pba } :=
    port_onPort d p _
  rw [hport]
  refine ⟨fun i hi => getLsbD_withCause b i _ hi, rfl, rfl, fun hrise hmay => ?_, fun hrise hbar => ?_,
    fun hlow => ?_, fun q hq => port_onPort_ne d _ hq, ?_⟩
  · obtain ⟨rfl, rfl⟩ := hsent hrise hmay
    exact ⟨rfl, rfl⟩
  · obtain ⟨rfl, hpend⟩ := hheld hrise hbar
    exact ⟨List.append_nil _, hpend⟩
  · obtain ⟨rfl, rfl⟩ := hquiet hlow
    exact ⟨List.append_nil _, rfl⟩
  · cases p <;> exact ⟨rfl, rfl, rfl, rfl, rfl, rfl, rfl, rfl, rfl⟩

end Sys2Proof.Proofs

/-! # Mailbox windows read what was written (R301, R381) -/

namespace Sys2Proof.Proofs

open Sys2Proof.Machine Sys2Proof.Laws

/-! ## Byte windows in canonical form -/

/-- Below its first address a window reads 0. -/
theorem read_of_below {m : List Host.Cell} {x : Nat} (h : ∀ c ∈ m, x < c.1) : Memory.read m x = 0 := by
  induction m with
  | nil => rfl
  | cons c t ih =>
    obtain ⟨hc, ht⟩ := List.forall_mem_cons.mp h
    exact (if_neg hc.ne').trans (ih ht)

theorem read_cons (k : Nat) (v : Byte) (t : List Host.Cell) (x : Nat) :
    Memory.read ((k, v) :: t) x = if x = k then v else Memory.read t x := by
  simp [Memory.read, Tab.get, eq_comm]

/-- The byte written reads as written, every other as before. -/
theorem read_write {m : List Host.Cell} (hwf : Memory.wf m) (a : Nat) (b : Byte) (x : Nat) :
    Memory.read (Memory.write m a b) x = if x = a then b else Memory.read m x := by
  induction m with
  | nil =>
    have hnil : Memory.read [] x = 0 := rfl
    simp only [Memory.write]
    split
    · next hb => simp [hb, hnil]
    · exact read_cons ..
  | cons c t ih =>
    obtain ⟨k, v⟩ := c
    obtain ⟨hk, -, ht⟩ := (wf_cons k v t).mp hwf
    simp only [Memory.write]
    split
    · next hlt =>
      split
      · next hb =>
        have hbelow : Memory.read ((k, v) :: t) a = 0 :=
          read_of_below (List.forall_mem_cons.mpr ⟨hlt, fun c hc => hlt.trans (hk c hc)⟩)
        split
        · next hx => rw [hx, hbelow, hb]
        · rfl
      · exact read_cons ..
    · split
      · next ha =>
        subst ha
        by_cases hx : x = a
        · subst hx
          split
          · next hb => rw [if_pos rfl, read_of_below hk, hb]
          · simp [read_cons]
        · split <;> simp [read_cons, hx]
      · next hne =>
        rw [read_cons, ih ht, read_cons]
        by_cases hx : x = a
        · rw [if_neg (hx ▸ hne), if_pos hx, if_pos hx]
        · rw [if_neg hx, if_neg hx]

/-- The bytes written read as written, every other as before. -/
theorem read_writeBytes {m : List Host.Cell} (hwf : Memory.wf m) (a : Nat) (l : List Byte) (x : Nat) :
    Memory.read (Memory.writeBytes m a l) x =
      if a ≤ x ∧ x < a + l.length then l.getD (x - a) 0 else Memory.read m x := by
  induction l generalizing m a with
  | nil => exact (if_neg (by simp)).symm
  | cons b t ih =>
    rw [Memory.writeBytes, ih (write_wf m a b hwf), read_write hwf, List.length_cons]
    rcases Nat.lt_trichotomy x a with hlt | rfl | hgt
    · simp [hlt.ne, Nat.not_le.mpr hlt, Nat.not_le.mpr (hlt.trans a.lt_succ_self)]
    · simp
    · have hsub : x - a = x - (a + 1) + 1 := by omega
      have hlen : x < a + 1 + t.length ↔ x < a + (t.length + 1) := by omega
      simp [hgt.ne', hgt.le, Nat.succ_le_of_lt hgt, hsub, hlen]

/-- A canonical window lists exactly the bytes that do not read 0. -/
theorem mem_iff_read {m : List Host.Cell} (hwf : Memory.wf m) (a : Nat) (b : Byte) :
    (a, b) ∈ m ↔ Memory.read m a = b ∧ b ≠ 0 := by
  induction m with
  | nil => exact ⟨fun h => absurd h List.not_mem_nil, fun ⟨h0, hb⟩ => absurd h0.symm hb⟩
  | cons c t ih =>
    obtain ⟨k, v⟩ := c
    obtain ⟨hk, hv, ht⟩ := (wf_cons k v t).mp hwf
    rw [List.mem_cons, read_cons, Prod.mk.injEq, ih ht]
    by_cases ha : a = k
    · subst ha
      have hbelow : Memory.read t a = 0 := read_of_below hk
      rw [if_pos rfl, hbelow]
      constructor
      · rintro (⟨-, rfl⟩ | ⟨rfl, hb⟩)
        · exact ⟨rfl, hv⟩
        · exact absurd rfl hb
      · exact fun ⟨hvb, _⟩ => .inl ⟨rfl, hvb.symm⟩
    · simp [ha]

/-- A canonical window is what it reads. -/
theorem eq_of_read {m n : List Host.Cell} (hm : Memory.wf m) (hn : Memory.wf n)
    (h : ∀ x, Memory.read m x = Memory.read n x) : m = n := by
  have hasymm : Std.Antisymm (fun x y : Host.Cell => x.1 < y.1) := ⟨fun _ _ hxy hyx => absurd hxy hyx.asymm⟩
  have hirrefl : Std.Irrefl (fun x y : Host.Cell => x.1 < y.1) := ⟨fun x => lt_irrefl x.1⟩
  refine List.Pairwise.eq_of_mem_iff hm.1 hn.1 fun ⟨a, b⟩ => ?_
  rw [mem_iff_read hm, mem_iff_read hn, h]

/-! ## A write to a request window (R301, R381) -/

/-- The request window of a mailbox is the second 4 KiB of its 12 KiB of BAR0 (Table 9-4). -/
theorem boxAt_reqWin (n : Fin 4) {o : Nat} (ho : o < 0x1000) :
    boxAt (0x1000 + 0x3000 * n.val + 0x1000 + o) = some (n, 0x1000 + o) := by
  have hn := n.isLt
  have hbox : (0x1000 + 0x3000 * n.val + 0x1000 + o - 0x1000) / 0x3000 % 4 = n.val := by omega
  have hoff : (0x1000 + 0x3000 * n.val + 0x1000 + o - 0x1000) % 0x3000 = 0x1000 + o := by omega
  have hrange : (0x1000 ≤ 0x1000 + 0x3000 * n.val + 0x1000 + o && 0x1000 + 0x3000 * n.val + 0x1000 + o < 0xD000) = true := by
    simp
    omega
  simp only [boxAt, if_pos hrange, hbox, hoff]

/-- A served write at a request window's offset is a write to that window. -/
theorem execRegisterWrite_reqWin {s : State} {p : PortId} (hserved : barServed s p = true) (n : Fin 4) {o : Nat}
    (ho : o < 0x1000) (l : List Byte) :
    execRegisterWrite p (0x1000 + 0x3000 * n.val + 0x1000 + o) l s =
      .next (s.onDp (fun _ => writeWindow (.host p n) o l)) := by
  have hin : 0x1000 + o < 0x2000 := by omega
  simp [execRegisterWrite, hserved, boxAt_reqWin n ho, hin]

/-- While BUSY a mailbox takes no bytes. -/
theorem writeWindow_busy {d : Dp} {m : Mbx} (h : (d.mail m).busy = true) (o : Nat) (l : List Byte) :
    writeWindow m o l d = d := if_neg (by simp [h])

/-- A mailbox that is not BUSY takes 1 to 64 bytes within its window. -/
theorem writeWindow_idle {d : Dp} {m : Mbx} {o : Nat} {l : List Byte} (h : (d.mail m).busy = false) (hone : 1 ≤ l.length)
    (hmax : l.length ≤ 64) (hin : o + l.length ≤ 0x1000) :
    writeWindow m o l d = d.onMail m (fun x => { x with reqWin := Memory.writeBytes x.reqWin o l }) :=
  if_pos (by simpa [h, hmax, hin] using hone)

/-- Settles O57: reads of windows by `read_writeBytes` and `eq_of_read`, the machine's write by the rules of its window. -/
theorem windowsReadWhatWasWritten : Obligations.WindowsReadWhatWasWritten := by
  unfold Obligations.WindowsReadWhatWasWritten
  refine ⟨fun m a l hwf => ⟨writeBytes_wf l m a hwf, read_writeBytes hwf a l⟩, fun m n => eq_of_read,
    fun s p n o l hserved hbox hone hmax hin => ?_⟩
  have hexec := execRegisterWrite_reqWin hserved n (o := o) (by omega) l
  refine ⟨fun hbusy => hexec.trans ?_, fun hidle => ⟨_, hexec, ?_⟩⟩
  · simp only [State.onDp, writeWindow_busy hbusy]
  · rw [onDp_dp, writeWindow_idle hidle hone hmax hin]
    refine ⟨congrArg Mail.reqWin (mail_onMail _ _ _ ?_ hbox), fun m hm => mail_onMail_ne _ _ (fun _ => rfl) hm,
      rfl, rfl, rfl, rfl, rfl, rfl, rfl, rfl, rfl⟩
    exact fun _ => rfl

end Sys2Proof.Proofs

/-! # Port resets and port events (R296, R304, R322 to R330) -/

namespace Sys2Proof.Proofs

open Sys2Proof.Machine Sys2Proof.Laws

/-! ## What a reset leaves of a port (Table 9-15) -/

/-- A port as a reset leaves it: its registers at their reset values but for the link, which stands as kept, and the causes
READY and FATAL; no queue of the port is live and no entry of it cached. -/
structure PortIsReset (p : PortId) (kept : LinkKept) (d : Dp) : Prop where
  port : ∃ (fitted : Bool) (c : BitVec 16), d.port p =
      { HostPort.reset fitted with linkUp := kept.up, rate := kept.rate, width := kept.width, evtCause := c } ∧
    ∀ b, b < 16 → b ≠ evReady → b ≠ evFatal → c.getLsbD b = false
  queues : ∀ x ∈ d.vq.queues, x.port ≠ p
  cache : ∀ x ∈ d.vq.cache, x.1 ≠ p

/-- READY and FATAL are set again in silence, DEV_VEC_EN being 0 (R304). -/
theorem PortIsReset.causePort {p : PortId} {kept : LinkKept} {d : Dp} (h : PortIsReset p kept d) (e : Env) {bit : Nat}
    (hbit : bit = evReady ∨ bit = evFatal) : PortIsReset p kept (Machine.causePort e bit p d) := by
  obtain ⟨⟨fitted, c, hport, hc⟩, hqueues, hcache⟩ := h
  by_cases hfit : (d.port p).fitted = true
  · have hsilent : ¬ Rises bit (d.port p) := by
      rintro ⟨-, -, hvec, -⟩
      simp [hport, HostPort.reset] at hvec
    rw [causePort_of_not_rises e bit hfit hsilent]
    refine ⟨⟨fitted, c ||| BitVec.twoPow 16 bit, ?_, fun b hb hready hfatal => ?_⟩, ?_, ?_⟩
    · rw [port_onPort, hport]
      rfl
    · have hne : bit ≠ b := by
        rcases hbit with rfl | rfl
        · exact hready.symm
        · exact hfatal.symm
      simp [hc b hb hready hfatal, hne]
    · rwa [onPort_vq]
    · rwa [onPort_vq]
  · rw [causePort_unfitted e bit p d hfit]
    exact ⟨⟨fitted, c, hport, hc⟩, hqueues, hcache⟩

theorem portIsReset_causeIf {p : PortId} {kept : LinkKept} {s : State} (h : PortIsReset p kept s.dp) (c : Bool) {bit : Nat}
    (hbit : bit = evReady ∨ bit = evFatal) :
    PortIsReset p kept (if c then s.onDp (fun e => causePort e bit p) else s).dp := by
  split
  · exact h.causePort _ hbit
  · exact h

/-- A reset brings the port to its reset values, and then sets the causes whose conditions hold (R304, R324). -/
theorem portIsReset_resetPort (p : PortId) (kept : LinkKept) (s : State) : PortIsReset p kept (resetPort p kept s).dp := by
  unfold resetPort
  refine portIsReset_causeIf (portIsReset_causeIf ⟨⟨_, 0, port_setPort .., fun b _ _ _ => BitVec.getLsbD_zero⟩,
    fun x hx => ?_, fun x hx => ?_⟩ _ (.inl rfl)) _ (.inr rfl)
  · simpa using (List.mem_filter.mp hx).2
  · simpa using (List.mem_filter.mp hx).2

/-! ## The commands that reset ports (R325 to R327, R330) -/

/-- PERST_N reads low. -/
def perstLow (s : State) : State := { s with dp := { s.dp with hp := { s.dp.hp with perst := true } } }

/-- PERST_N is asserted; in Ebb a wake event is noted (R506). -/
def assertPerst (s : State) : State := noteWake .perst (perstLow s)

/-- A wake that is noted leaves the data path and power-on reset as they are. -/
theorem noteWake_keeps (w : EbbWake) (s : State) :
    (noteWake w s).dp = s.dp ∧ (noteWake w s).pwr.porHeld = s.pwr.porHeld := by
  unfold noteWake
  split <;> exact ⟨rfl, rfl⟩

theorem assertPerst_keeps (s : State) : (assertPerst s).dp.hp.perst = true ∧ (assertPerst s).boot = s.boot ∧
    (assertPerst s).clk = s.clk ∧ (assertPerst s).pwr.porHeld = s.pwr.porHeld := by
  obtain ⟨hdp, hheld⟩ := noteWake_keeps .perst (perstLow s)
  obtain ⟨hclk, hboot, -⟩ := frame_noteWake .perst (perstLow s)
  exact ⟨congrArg (fun d : Dp => d.hp.perst) hdp, hboot, hclk, hheld⟩

/-- Outside power-on reset PERST_N_ASSERT takes both ports down (R325). -/
theorem execPerstNAssert_down {s : State} (hpor : s.pwr.porHeld = false) :
    execPerstNAssert s = .next (downPort .b (downPort .a (assertPerst s))).work := by
  obtain ⟨-, -, -, hheld⟩ := assertPerst_keeps s
  have hrun : ¬ (assertPerst s).pwr.porHeld = true := by simp [hheld, hpor]
  exact if_neg hrun

/-- Settles O6: the port by `portIsReset_resetPort`, each command by its equation where its condition holds. -/
theorem portResetsReachTableState : Obligations.PortResetsReachTableState := by
  unfold Obligations.PortResetsReachTableState
  refine ⟨fun s p kept => ?_, fun s p hup => ?_, fun s hpor => ?_, fun s => ⟨_, rfl, rfl, rfl, rfl, rfl⟩⟩
  · obtain ⟨⟨fitted, c, hport, hc⟩, hqueues, hcache⟩ := portIsReset_resetPort p kept s
    dsimp only
    rw [hport]
    exact ⟨rfl, rfl, rfl, rfl, rfl, rfl, rfl, rfl, rfl, rfl, rfl, rfl, rfl, rfl, hc, hqueues, hcache⟩
  · have hnot : ¬ (!(s.dp.port p).linkUp) = true := by simp [hup]
    exact ⟨if_pos hup, if_neg hnot, _, if_neg hnot⟩
  · obtain ⟨hperst, hboot, hclk, -⟩ := assertPerst_keeps s
    exact ⟨assertPerst s, execPerstNAssert_down hpor, hperst, hboot, hclk⟩

/-! ## Link and power events of a port (R296, R322, R323, R328, R329) -/

theorem log_port (s : State) (code sev src : Nat) (a : List Nat) (p : PortId) :
    (s.log code sev src a).dp.port p = s.dp.port p := by
  cases p <;> simp [Dp.port, State.log, logE]

/-- A link that may train takes the rate and the width, and HOST_LINK_UP is logged. -/
theorem execHostLinkTrained_up {s : State} {p : PortId} {rate width : Nat} (hfit : (s.dp.port p).fitted = true)
    (hdown : (s.dp.port p).linkUp = false) (hperst : s.dp.hp.perst = false) (hcore : coreOn s = true)
    (htide : s.pwr.state ≠ .lastTide) (hrate : rate ∈ linkRates) (hwidth : widthOk s.boot.straps.bifurc width = true) :
    execHostLinkTrained p rate width s = .next
      (State.log { s with dp := s.dp.setPort p { s.dp.port p with linkUp := true, rate := rate, width := width } }
        0x0101 1 srcHost [rate, width]) :=
  if_pos (by simp [hfit, hdown, hperst, hcore, htide, hrate, hwidth])

/-- A report of the port's latency leaves the port as it was. -/
theorem port_ltrIf (c : Bool) (p q : PortId) (d : Dp) (n : Nat) :
    (if c then put (.ltr p n) d else d).port q = d.port q := by
  split
  · cases q <;> rfl
  · rfl

/-- A write of a configuration field is taken as it is, but for clearing PASID Enable, which is a command of its own. -/
theorem execConfigRequest_write {s : State} {p : PortId} {f : CfgField} {v : Nat} (hup : (s.dp.port p).linkUp = true)
    (hpasid : ¬ (f = .pasidEnable ∧ v = 0)) : execConfigRequest p (.write f v) s =
      .next (State.work { s with dp := s.dp.setPort p (configWrite (s.dp.port p) f v) }) := by
  unfold execConfigRequest
  simp only [hup, Bool.not_true, Bool.false_eq_true, if_false]
  split
  · next heq => cases heq
  · next heq =>
    cases heq
    exact absurd ⟨rfl, rfl⟩ hpasid
  · next heq =>
    cases heq
    rfl

/-- Settles O7: each command by its equation where its condition holds, and the port read back after the write. -/
theorem hostLinkAndPowerEvents : Obligations.HostLinkAndPowerEvents := by
  unfold Obligations.HostLinkAndPowerEvents
  refine ⟨fun s p rate width hfit hdown hperst hcore htide hrate hwidth =>
      ⟨_, execHostLinkTrained_up hfit hdown hperst hcore htide hrate hwidth, ?_⟩,
    fun s p hup haspm hidle => ⟨_, if_pos (by simp [hup, haspm, hidle]), ?_⟩,
    fun s p hl1 => ⟨_, if_pos hl1, ?_⟩, fun s p hup => ?_, fun s p off hup => ⟨_, if_neg (by simp [hup]), rfl⟩,
    fun s p f v hup hpasid => execConfigRequest_write hup hpasid⟩
  · rw [log_port, port_setPort]
    exact ⟨rfl, rfl, rfl, by simp [State.log, logE]⟩
  · rw [onDp_dp, port_ltrIf, port_setPort]
  · rw [dp_stayAwake, port_onPort]
  · have hnot : ¬ (!(s.dp.port p).linkUp) = true := by simp [hup]
    refine ⟨⟨_, if_pos hup, by rw [port_onPort], onPort_vq ..⟩, if_pos hup, ⟨_, if_neg hnot, ?_⟩, if_neg hnot⟩
    rw [onDp_dp, port_onPort]
    exact ⟨rfl, rfl⟩

end Sys2Proof.Proofs

/-! # CODEC and GLAZE at their outputs (R368, R369, R372, R374, R376, R377) -/

namespace Sys2Proof.Proofs

open Sys2Proof.Machine Sys2Proof.Laws

/-- A CODEC command whose header is read, with buffers, translated pages and coefficients, writes each output and
completes. -/
theorem execCodec_writes {s s1 s2 : State} {p : PortId} {q : Nat} {t : Fin 32} {desc : BitVec 512}
    {table : List (BitVec 128)} {segs : List (List (List (BitVec 128)))} {matrix : List Byte} (ins outs : List (List Byte))
    {bufs : List Buf} {c : List (List Byte)} (hfetch : serviceFetch opCodec ⟨p, q, t.val⟩ desc [] [] s = (s1, true))
    (hcheck : codecCheck desc table segs = .inr bufs)
    (hpages : pagesReady ⟨p, q, t.val⟩ ([(sgAddr (dData desc), 16 * bufs.length)] :: [(cMatrix desc, max 1 matrix.length)] ::
      (bufs.take (cIn desc)).map Buf.ranges) ((bufs.drop (cIn desc)).map Buf.ranges) s1 = (s2, true))
    (hcoeffs : codecCoeffs desc matrix = some c) :
    execCodec p q t desc table segs matrix ins outs s = .next ((s2.onDp (fun _ d =>
      (((bufs.drop (cIn desc)).map Buf.ranges).zip (codecOutputs desc c bufs ins outs d.io.fresh)).foldl
        (fun d x => writeBuffer ⟨p, q, t.val⟩ x.1 x.2 d) (draw d).2)).onDp
          (fun e => complete e ⟨p, q, t.val⟩ stSuccess 0 0)).work := by
  unfold execCodec
  simp only [hfetch, hcheck, hpages, hcoeffs, Bool.not_true, Bool.false_eq_true, if_false]
  rfl

/-- A GLAZE command runs, with a key its mode may use (R377) and its pages translated. -/
structure GlazeRuns (s s1 s2 : State) (k : CmdKey) (desc : BitVec 512) (ds ms : List (List (BitVec 128)))
    (b : Buf × Buf) (x : KeySlot) : Prop where
  fetch  : serviceFetch opGlaze k desc ds ms s = (s1, true)
  keyed  : (s.boot.safe && s.sec.slots.isEmpty) = false
  lanes  : cipherOff s = false
  fields : descFieldBad desc = false
  length : descLengthBad desc = false
  bufs   : glazeBufs desc ds ms = some b
  key    : glazeKey s1 k desc = .inr x
  pages  : pagesReady k [b.1.ranges, [(gAux desc, 64 + gAad desc)]]
    (b.2.ranges :: (if gMode desc = 1 then [[(gAux desc, 64 + gAad desc)]] else [])) s1 = (s2, true)

/-- The state in which a GLAZE command's operation has run: it is counted and its slot used. -/
def glazed (desc : BitVec 512) (s : State) : State := touchSlot (gSlot desc) (s.onDp (fun _ => count 10 1 1))

section
variable {s s1 s2 : State} {p : PortId} {q : Nat} {t : Fin 32} {desc : BitVec 512} {ds ms : List (List (BitVec 128))}
  {source aux text : List Byte} {b : Buf × Buf} {x : KeySlot} (h : GlazeRuns s s1 s2 ⟨p, q, t.val⟩ desc ds ms b x)
include h

/-- A mode without a tag of its own to write gives the destination's bytes. -/
theorem execGlaze_text (hrun : glazeRun x desc source aux = .ok text none) :
    execGlaze p q t desc ds ms source aux s = .next (((glazed desc s2).onDp
      (fun _ => writeBuffer ⟨p, q, t.val⟩ b.2.ranges text)).onDp
        (fun e => complete e ⟨p, q, t.val⟩ stSuccess text.length 0)).work := by
  simp [execGlaze, glazed, h.fetch, h.keyed, h.lanes, h.fields, h.length, h.bufs, h.key, h.pages, hrun]

/-- GCM encrypt also writes nonce and tag to AUX and takes the slot's counter value. -/
theorem execGlaze_sealed {nonce mac : List Byte} (hrun : glazeRun x desc source aux = .ok text (some (nonce, mac))) :
    execGlaze p q t desc ds ms source aux s = .next ((takeCounter (gSlot desc) x ((glazed desc s2).onDp (fun _ d =>
      writeBuffer ⟨p, q, t.val⟩ [(gAux desc, 32)] (nonce ++ List.replicate 4 0 ++ mac)
        (writeBuffer ⟨p, q, t.val⟩ b.2.ranges text d)))).onDp
          (fun e => complete e ⟨p, q, t.val⟩ stSuccess text.length 0)).work := by
  simp [execGlaze, glazed, h.fetch, h.keyed, h.lanes, h.fields, h.length, h.bufs, h.key, h.pages, hrun]

end

/-- Settles O3: the equations of CODEC and of the two outcomes of GLAZE that succeed. -/
theorem codecAndGlazeWriteTheirOutputs : Obligations.CodecAndGlazeWriteTheirOutputs := by
  unfold Obligations.CodecAndGlazeWriteTheirOutputs
  refine ⟨fun s s1 s2 p q t desc table segs matrix ins outs bufs c hfetch hcheck hpages hcoeffs =>
      ⟨_, execCodec_writes ins outs hfetch hcheck hpages hcoeffs, rfl⟩,
    fun s s1 s2 p q t desc ds ms source aux text b x hfetch hkeyed hlanes hfields hlength hbufs hkey hpages => ?_⟩
  have h : GlazeRuns s s1 s2 ⟨p, q, t.val⟩ desc ds ms b x := ⟨hfetch, hkeyed, hlanes, hfields, hlength, hbufs, hkey, hpages⟩
  exact ⟨execGlaze_text h, fun nonce mac hrun => ⟨_, execGlaze_sealed h hrun, rfl⟩⟩

end Sys2Proof.Proofs

/-! # Doorbells, aborts and frozen queues (R338, R339, R343, R344, R353, R361, R362) -/

namespace Sys2Proof.Proofs

open Sys2Proof.Machine Sys2Proof.Laws

/-! ## Queues and tags -/

/-- A queue's record, held or fresh, is that queue's. -/
theorem queueD_key (d : Dp) (p : PortId) (q : Nat) : (d.queueD p q).port = p ∧ (d.queueD p q).queue = q := by
  unfold Dp.queueD Dp.queue
  cases h : d.vq.queues.find? (fun x => x.port = p && x.queue = q) with
  | none => exact ⟨rfl, rfl⟩
  | some x => simpa using List.find?_some h

/-- A queue that is changed in place reads as changed. -/
theorem queueD_setQueue {d : Dp} {p : PortId} {q : Nat} {x : Queue} (hp : x.port = p) (hq : x.queue = q) :
    (d.setQueue x).queueD p q = x := by
  subst hp hq
  rw [Dp.queueD, queue_setQueue, Option.getD_some]

theorem queueD_congr {d d' : Dp} (h : d'.vq = d.vq) (p : PortId) (q : Nat) : d'.queueD p q = d.queueD p q := by
  rw [Dp.queueD, Dp.queue, h, ← Dp.queue, ← Dp.queueD]

@[simp] theorem writeQstatus_vq (e : Env) (x : Queue) (d : Dp) : (writeQstatus e x d).vq = d.vq := by
  unfold writeQstatus
  split <;> rfl

/-- Places of its ring that a queue's head moves by (R344). -/
def headStep (x : Queue) (head : Nat) : Nat := (head + qRing x.entry - x.head) % qRing x.entry

/-- A queue that is resumed is RUNNING (R361). -/
theorem resumeQueue_running (e : Env) (d : Dp) (p : PortId) (q : Nat) : ((resumeQueue e p q d).queueD p q).st = .running := by
  obtain ⟨hp, hq⟩ := queueD_key d p q
  have hset := queueD_setQueue (d := d) (x := { d.queueD p q with st := .running }) hp hq
  rw [resumeQueue, queueD_congr (writeQstatus_vq ..), hset]

/-- A doorbell recorded under a free tag is that tag's command, with the next order number; no queue changes. -/
theorem recordDoorbell_records {k : CmdKey} {d : Dp} (hfree : d.cmd k = none) :
    (recordDoorbell k d).cmd k = some (freshCmd k d.vq.order) ∧ (recordDoorbell k d).vq.order = d.vq.order + 1 ∧
      (recordDoorbell k d).vq.queues = d.vq.queues := by
  unfold Dp.cmd at hfree
  unfold recordDoorbell Dp.cmd
  simp [apply_ite Dp.vq, hfree, freshCmd]

/-! ## The commands where their conditions hold -/

section
variable {s : State} {p : PortId} {q : Nat}

/-- SUBMIT to an enabled queue whose entry is cached, under a free tag (R338). -/
theorem execSubmit_records {v : BitVec 32} {ent : Option (BitVec 512)} (hbell : bellOk s p = true)
    (hq : q < portQueues s.env) (hlisted : queueListed s p q = true) (hcached : s.dp.vq.cache.contains (p, q) = true)
    (hst : (s.dp.queueD p q).st ≠ .broken) (hen : (s.dp.queueD p q).enabled = true)
    (hfree : s.dp.cmd ⟨p, q, bitsOf v.toNat 4 0⟩ = none) :
    execSubmit p q v ent s = .next (State.work { s.stayAwake with
      dp := recordDoorbell ⟨p, q, bitsOf v.toNat 4 0⟩ (touchEntry p q s.dp) }) := by
  have hcached' : (p, q) ∈ s.dp.vq.cache := by simpa using hcached
  have hst' : ((touchEntry p q s.dp).queueD p q).st ≠ .broken := hst
  have hen' : ((touchEntry p q s.dp).queueD p q).enabled = true := hen
  have hfree' : (touchEntry p q s.dp).cmd ⟨p, q, bitsOf v.toNat 4 0⟩ = none := hfree
  simp [execSubmit, State.onDp, dp_stayAwake, hbell, Nat.not_le.mpr hq, hlisted, hcached', hst', hen', hfree']

/-- SUBMIT to a queue the table does not describe (R339). -/
theorem execSubmit_ignored {v : BitVec 32} {ent : Option (BitVec 512)} (hbell : bellOk s p = true)
    (hq : q < portQueues s.env) (hlisted : queueListed s p q = false) :
    execSubmit p q v ent s = .next (s.onDp (fun e => ignoreDoorbell e p q 0 v.toNat)) := by
  simp [execSubmit, hbell, Nat.not_le.mpr hq, hlisted]

/-- ABORT of a command that has not finished, before its point of no return (R341). -/
theorem execAbort_completes {v : BitVec 32} {c : Cmd} (hbell : bellOk s p = true)
    (hc : s.dp.cmd ⟨p, q, bitsOf v.toNat 4 0⟩ = some c) (hst : c.stage ≠ .finished) (hpnr : c.pnr = false) :
    execAbort p q v s = .next (s.onDp (fun e => complete e ⟨p, q, bitsOf v.toNat 4 0⟩ stAborted 0 0)).work := by
  simp [execAbort, hbell, hc, hst, hpnr]

/-- CQ_HEAD that frees records of the ring (R344). -/
theorem execCqHead_frees {v : BitVec 32} (hbell : bellOk s p = true) (hq : q < portQueues s.env)
    (hlisted : queueListed s p q = true) (hen : (s.dp.queueD p q).enabled = true)
    (hhead : bitsOf v.toNat 11 0 < qRing (s.dp.queueD p q).entry)
    (hsome : headStep (s.dp.queueD p q) (bitsOf v.toNat 11 0) ≠ 0)
    (hheld : headStep (s.dp.queueD p q) (bitsOf v.toNat 11 0) ≤ (s.dp.queueD p q).unread) :
    execCqHead p q v s = .next (s.onDp (fun e d => postAll e p q (d.setQueue { s.dp.queueD p q with
      head := bitsOf v.toNat 11 0
      unread := (s.dp.queueD p q).unread - headStep (s.dp.queueD p q) (bitsOf v.toNat 11 0) }))).work := by
  unfold headStep at *
  simp [execCqHead, State.onDp, hbell, Nat.not_le.mpr hq, hlisted, hen, Nat.not_le.mpr hhead, hsome, Nat.not_lt.mpr hheld]

end

/-- Settles O4: each command's equation where its condition holds, the doorbell and the resumed queue read back. -/
theorem doorbellsAndFreezes : Obligations.DoorbellsAndFreezes := by
  unfold Obligations.DoorbellsAndFreezes
  refine ⟨fun s p q v ent hbell hq hlisted hcached hst hen hfree =>
      ⟨_, execSubmit_records hbell hq hlisted hcached hst hen hfree, recordDoorbell_records (d := touchEntry p q s.dp) hfree⟩,
    fun s p q v ent => execSubmit_ignored, fun s p q v c => execAbort_completes, fun s p q v => execCqHead_frees,
    fun s p q hbell hst => ?_, resumeQueue_running⟩
  have hgo : (bellOk s p && decide ((s.dp.queueD p q).st = .frozen)) = true := by simp [hbell, hst]
  exact ⟨if_pos hgo, if_pos hgo⟩

end Sys2Proof.Proofs

/-! # Queue timers, write admission and the soft limit (R345, R418, R423, R52) -/

namespace Sys2Proof.Proofs

open Sys2Proof Sys2Proof.Machine Sys2Proof.Laws

/-! ## Signals and admission (R345, R418, R52) -/

/-- A queue that is signalled has no record left unsignalled (R345). -/
theorem signalQueue_unsig (e : Env) (d : Dp) (p : PortId) (q : Nat) : ((signalQueue e p q d).queueD p q).unsig = 0 := by
  obtain ⟨hp, hq⟩ := queueD_key d p q
  have hset := queueD_setQueue (d := d) (x := { d.queueD p q with unsig := 0 }) hp hq
  rw [signalQueue, queueD_congr (msix_vq ..), hset]

/-- COALESCE_TIMER at its time (R345). -/
theorem execCoalesceTimer_signals {s : State} {p : PortId} {q : Nat} (hun : (s.dp.queueD p q).unsig ≠ 0)
    (hat : (s.dp.queueD p q).unsigAt + qCoalTime (s.dp.queueD p q).entry * 1000 ≤ s.clk.time) :
    execCoalesceTimer p q s = .next (s.onDp (fun e => signalQueue e p q)) :=
  if_pos (by simp [hun, usec, hat])

/-- WRITE_ADMISSION where a write waits (R418). -/
theorem execWriteAdmission_retries {s : State} {pool : Nat} (hw : waitingWrites s.dp pool ≠ []) :
    execWriteAdmission pool s = .next (s.onDp (fun e d =>
      (waitingWrites d pool).foldl (fun d c => startHeader e c.key d) d)).work :=
  if_neg (by simpa using hw)

/-- PENDING_TABLE_ROOM where this device's table has room or another member's is told to be full (R52). -/
theorem execPendingTableRoom_retries {s : State} (h : tableFull s.dp = false ∨ s.dp.sh.fullRanks ≠ []) :
    execPendingTableRoom s = .next (s.onDp (fun e => startHeaders e)).work :=
  if_pos (by simpa using h)

/-- ADMISSION_ROUND of a READY device, 1 ms after the last (Table 12-5). -/
theorem execAdmissionRound_reports {s : State} (hready : s.boot.ready = true) (hsafe : s.boot.safe = false)
    (htide : s.pwr.lt = none) (hwait : s.pwr.waiting = false) (hat : s.dp.bw.roundAt + 1000000 ≤ s.clk.time) :
    execAdmissionRound s = .next (s.onDp reportDemands).work := by
  have hdue : (s.env.ready && !s.env.safe && !s.env.tide && decide (s.dp.bw.roundAt + msec ≤ s.env.now)) = true := by
    simp [State.env, hready, hsafe, htide, hwait, msec, hat]
  simp only [execAdmissionRound, State.onDp, hdue, if_true]

/-! ## The soft limit (R423) -/

section
variable {s : State} {pool : Nat}

/-- After 1 s of delay SOFT_LIMIT_TIMER sets a soft limit that was never set before. -/
theorem execSoftLimitTimer_sets (hoff : (s.dp.bucket pool).softOn = false)
    (hdelay : (s.dp.bucket pool).delayedSince.any (fun t => t + 1000000000 ≤ s.clk.time) = true)
    (hfirst : (s.dp.bucket pool).softAt = none) :
    execSoftLimitTimer pool s = .next (s.onDp (fun e d => cause e evSoftLimit
      ((count 9 1 1 (logE e 0x0901 2 srcTide [pool] d)).setBucket pool
        { s.dp.bucket pool with softOn := true, softAt := some s.clk.time }))) := by
  have hlong : (s.dp.bucket pool).delayedSince.any (fun t => t + second ≤ s.env.now) = true := hdelay
  refine congrArg (fun d : Dp => Host.Outcome.next { s with dp := d }) (if_pos ?_)
  simp [hoff, hfirst, hlong]

/-- After 1 s without delay SOFT_LIMIT_TIMER clears the soft limit. -/
theorem execSoftLimitTimer_clears (hon : (s.dp.bucket pool).softOn = true)
    (hidle : (s.dp.bucket pool).delayedSince = none) (hat : (s.dp.bucket pool).idleSince + 1000000000 ≤ s.clk.time) :
    execSoftLimitTimer pool s = .next (s.onDp (fun e d =>
      (logE e 0x0902 1 srcTide [pool] d).setBucket pool { s.dp.bucket pool with softOn := false })) := by
  have hlong : (s.dp.bucket pool).idleSince + second ≤ s.env.now := by simpa [second, State.env] using hat
  refine congrArg (fun d : Dp => Host.Outcome.next { s with dp := d }) ((if_neg ?_).trans (if_pos ?_))
  · simp [hon]
  · simp [hon, hidle, hlong]

end

/-- Settles O9: each timer's equation at its time, the queue and the bucket read back after the write. -/
theorem queueTimersAndAdmission : Obligations.QueueTimersAndAdmission := by
  unfold Obligations.QueueTimersAndAdmission
  refine ⟨fun s p q => execCoalesceTimer_signals, signalQueue_unsig, fun s pool => execWriteAdmission_retries,
    fun s => execPendingTableRoom_retries, fun s => execAdmissionRound_reports,
    fun s pool hoff hdelay hfirst => ⟨_, execSoftLimitTimer_sets hoff hdelay hfirst, ?_⟩,
    fun s pool hon hidle hat => ⟨_, execSoftLimitTimer_clears hon hidle hat, ?_⟩⟩
  · rw [onDp_dp, bucket_congr (LiesAlike.cause ..).bw, bucket_setBucket, if_pos rfl]
    exact ⟨rfl, rfl⟩
  · rw [onDp_dp, bucket_setBucket, if_pos rfl]

end Sys2Proof.Proofs
